-- ==== Sys2Proof/Word.lean ====
section
/-! DEFINITION. Word.lean: the bit-vector types of the JN-9608 and the type of a sparse table. -/

namespace Sys2Proof

/-- One byte of a buffer, packet or frame (R6). -/
abbrev Byte := BitVec 8

/-- A register word of BAR0 (R6, R463). -/
abbrev W32 := BitVec 32

/-- A frame number: the 48-bit frame counter (R40, R43). -/
abbrev Frame := BitVec 48

/-- A 256-bit word of the on-chip memories and of the flash (R21, R22). -/
abbrev W256 := BitVec 256

/-- A sparse table: keys strictly rising, no entry equal to the value an unlisted key reads as.
The value of an unlisted key is the argument `d` of the operations in Machine/Table.lean. -/
abbrev Tbl (α : Type) := List (Nat × α)

end Sys2Proof
end

