-- ==== Sys2Proof/Machine/Table.lean ====
section
/-! DEFINITION. Machine/Table.lean: reading and writing a sparse table in its canonical form. -/

namespace Sys2Proof.Machine

/-- The value the table `t` holds for `k`; `d` where `k` is not listed. -/
def tget {α : Type} (d : α) : Tbl α → Nat → α
  | [], _ => d
  | (j, v) :: t, k => if j = k then v else tget d t k

/-- `t` without any entry for `k`. -/
def tdel {α : Type} (t : Tbl α) (k : Nat) : Tbl α := t.filter fun p => p.1 ≠ k

/-- `t` with the entry `(k, v)` inserted at its place. -/
def tins {α : Type} : Tbl α → Nat → α → Tbl α
  | [], k, v => [(k, v)]
  | (j, w) :: t, k, v =>
    if j = k then (k, v) :: t
    else if k < j then (k, v) :: (j, w) :: t
    else (j, w) :: tins t k v

/-- Writes `v` at `k`: writing the default removes the entry, so equal contents are equal lists. -/
def tset {α : Type} [DecidableEq α] (d : α) (t : Tbl α) (k : Nat) (v : α) : Tbl α :=
  if v = d then tdel t k else tins t k v

/-- Changes the value at `k` by `f`. -/
def tmod {α : Type} [DecidableEq α] (d : α) (t : Tbl α) (k : Nat) (f : α → α) : Tbl α :=
  tset d t k (f (tget d t k))

/-- Every key of `t` lies above `n`, keys rise strictly, and no value is the default. -/
def twfFrom {α : Type} [DecidableEq α] (d : α) : Option Nat → Tbl α → Bool
  | _, [] => true
  | none, (j, v) :: t => decide (v ≠ d) && twfFrom d (some j) t
  | some n, (j, v) :: t => decide (n < j) && decide (v ≠ d) && twfFrom d (some j) t

/-- The canonical form of a table. -/
def twf {α : Type} [DecidableEq α] (d : α) (t : Tbl α) : Bool := twfFrom d none t

end Sys2Proof.Machine
end

