-- ==== Sys2Proof/Machine/Codes.lean ====
section
/-! DEFINITION. Machine/Codes.lean: bit fields, rounding, the checks, digests and signatures the spec names
(R6, R22, R23, R42, R312, R322, R358, R407, R413, R415, R501). CRC, SHA-256, HMAC and ECDSA follow the public
standards the rules name (PRESUMED, log 11). -/

namespace Sys2Proof.Machine

/-! ## Bit fields and numbers -/

/-- Bits [hi:lo] of a natural number read as a word. -/
def nbits (w hi lo : Nat) : Nat := (w >>> lo) % 2 ^ (hi + 1 - lo)

/-- Field [hi:lo] of a register word (R6: bit 0 is the least significant). -/
def fld (w : W32) (hi lo : Nat) : Nat := nbits w.toNat hi lo

/-- Bit `i` of a register word. -/
def bit (w : W32) (i : Nat) : Bool := w.getLsbD i

/-- The value `v` placed at bit `lo`, cut to `width` bits. -/
def put (v lo width : Nat) : Nat := (v % 2 ^ width) <<< lo

/-- 1 for true. -/
def b2n (b : Bool) : Nat := if b then 1 else 0

/-- The two's complement value of the low `n` bits of `v`. -/
def sext (n v : Nat) : Int :=
  let x := v % 2 ^ n
  if 2 ^ (n - 1) ≤ x then (x : Int) - (2 ^ n : Nat) else x

/-- The low `n` bits of an integer, two's complement. -/
def toBits (n : Nat) (i : Int) : Nat := (i % ((2 ^ n : Nat) : Int)).toNat

/-- `v` limited to `m` (a saturating count). -/
def sat (m v : Nat) : Nat := min m v

/-- `i` limited to [lo, hi]. -/
def clampI (lo hi i : Int) : Int := max lo (min hi i)

/-- round(a / b) with halves towards plus infinity (R501): floor(a/b + 1/2), b > 0. -/
def rdiv (a : Int) (b : Nat) : Int := (2 * a + b).fdiv (2 * b)

/-- ceil(a / b) for naturals. -/
def cdiv (a b : Nat) : Nat := (a + b - 1) / b

/-- 0 acts as `d`. -/
def orDef (v d : Nat) : Nat := if v = 0 then d else v

/-- Integer square root, rounded down: the largest x with x * x ≤ n, bit by bit from bit `k - 1`. -/
def isqrtFrom (n : Nat) : Nat → Nat → Nat
  | 0, x => x
  | k + 1, x => if (x + 2 ^ k) * (x + 2 ^ k) ≤ n then isqrtFrom n k (x + 2 ^ k) else isqrtFrom n k x

/-- The least x below 2^32 with n ≤ x * x. -/
def isqrtUp (n : Nat) : Nat :=
  let x := isqrtFrom n 32 0
  if x * x = n then x else x + 1

/-- The fraction of a PLL cycle c of the frame (R42): floor(c * 256 / 2000). -/
def fracOf (c : Nat) : BitVec 8 := BitVec.ofNat 8 (min c 1999 * 256 / 2000)

/-- Frame a is earlier than frame b (R43): (b - a) mod 2^48 lies between 1 and 2^47 - 1. -/
def frameBefore (a b : Frame) : Bool := decide (1 ≤ (b - a).toNat ∧ (b - a).toNat ≤ 2 ^ 47 - 1)

/-- LINEAR11: exponent and mantissa of a word (R188, R192, R493). -/
def lin11Exp (w : Nat) : Int := sext 5 (nbits w 15 11)
def lin11Man (w : Nat) : Int := sext 11 (nbits w 10 0)

/-- floor of a LINEAR11 value times `scale`. -/
def lin11 (w scale : Nat) : Int :=
  let e := lin11Exp w
  if 0 ≤ e then lin11Man w * scale * (2 ^ e.toNat : Nat) else (lin11Man w * scale).fdiv ((2 ^ (-e).toNat : Nat) : Int)

/-- round(V / 2^exponent) in 16 bits, V a value in mV (R88). -/
def linVout (mv : Int) (e : Int) : Nat :=
  if 0 ≤ e then toBits 16 (rdiv mv (1000 * 2 ^ e.toNat)) else toBits 16 (rdiv (mv * (2 ^ (-e).toNat : Nat)) 1000)

/-! ## Bytes (R6: little-endian) -/

/-- The little-endian number of a list of bytes. -/
def leNat : List Byte → Nat
  | [] => 0
  | b :: bs => b.toNat + 256 * leNat bs

/-- `n` little-endian bytes of a number. -/
def leBytes : Nat → Nat → List Byte
  | 0, _ => []
  | n + 1, v => BitVec.ofNat 8 v :: leBytes n (v / 256)

/-- The big-endian number of a list of bytes. -/
def beNat (bs : List Byte) : Nat := bs.foldl (fun a b => a * 256 + b.toNat) 0

/-- The bytes [i, i+n) of a list. -/
def slice (bs : List Byte) (i n : Nat) : List Byte := (bs.drop i).take n

/-- The list cut into pieces of `n` elements, at most `fuel` of them. -/
def chunks {α : Type} (n : Nat) : Nat → List α → List (List α)
  | 0, _ => []
  | f + 1, l => if l.isEmpty then [] else l.take n :: chunks n f (l.drop n)

/-! ## CRCs -/

/-- One byte into a left-shifting CRC of `w` bits with polynomial `p`. -/
def crcByteL (w p : Nat) (c : Nat) (b : Byte) : Nat :=
  (List.range 8).foldl
    (fun c _ => if c.testBit (w - 1) then ((c <<< 1) % 2 ^ w) ^^^ p else (c <<< 1) % 2 ^ w)
    (c ^^^ (b.toNat <<< (w - 8)))

/-- CRC-64 of R312: polynomial 0x42F0_E1EB_A9EA_3693, initial value 0, no reflection, no inversion. -/
def crc64 (bs : List Byte) : Nat := bs.foldl (crcByteL 64 0x42F0E1EBA9EA3693) 0

/-- CRC-64 continued from `c` over further bytes (R312: a buffer continues the digest). -/
def crc64From (c : Nat) (bs : List Byte) : Nat := bs.foldl (crcByteL 64 0x42F0E1EBA9EA3693) c

/-- CRC-8 of R322: polynomial 0x07, initial value 0. -/
def crc8 (bs : List Byte) : Nat := bs.foldl (crcByteL 8 0x07) 0

/-- CRC-32 of R358: IEEE 802.3 polynomial, reflected, initial value and final inversion 0xFFFF_FFFF. -/
def crc32 (bs : List Byte) : Nat :=
  (bs.foldl (fun c b => (List.range 8).foldl
    (fun c _ => if c % 2 = 1 then (c / 2) ^^^ 0xEDB88320 else c / 2) (c ^^^ b.toNat)) 0xFFFFFFFF) ^^^ 0xFFFFFFFF

/-! ## The word code (R22, R23) -/

/-- The number of ones in the low 10 bits. -/
def weight10 (v : Nat) : Nat := (List.range 10).foldl (fun n i => n + b2n (v.testBit i)) 0

/-- The 256 data columns: the 120 vectors of weight 3 in rising order, then the 136 lowest of weight 5. -/
def wcColumns : List Nat :=
  (List.range 1024).filter (fun v => weight10 v = 3) ++ ((List.range 1024).filter (fun v => weight10 v = 5)).take 136

/-- The check bits of a word: the exclusive OR of the columns of its ones (bit j belongs to cj). -/
def wcCheck (d : W256) : BitVec 10 :=
  BitVec.ofNat 10 ((wcColumns.zipIdx).foldl (fun c p => if d.getLsbD p.2 then c ^^^ p.1 else c) 0)

/-- What a read of a codeword delivers (R23); a flash codeword of 266 ones is erased and is not decoded (R24). -/
inductive WcOut where
  | clean
  | erased
  | corrected (bit : Nat)
  | uncorrectable
  deriving DecidableEq, Repr

/-- The outcome of a syndrome (R23): zero, the column of a data bit or check bit, or any other value. -/
def wcSyndrome (s : Nat) : WcOut :=
  if s = 0 then .clean
  else match wcColumns.findIdx? (fun c => c = s) with
    | some i => .corrected i
    | none =>
      match (List.range 10).find? (fun j => s = 2 ^ j) with
      | some j => .corrected (256 + j)
      | none => .uncorrectable

/-- Decoding of data and check bits as read (R23). -/
def wcDecode (d : W256) (c : BitVec 10) : WcOut := wcSyndrome (wcCheck d ^^^ c).toNat

/-- The data delivered: as read, or with the corrected data bit inverted. -/
def wcData (d : W256) (o : WcOut) : W256 :=
  match o with
  | .corrected i => if i < 256 then d ^^^ BitVec.ofNat 256 (2 ^ i) else d
  | _ => d

/-- A 266-bit codeword: data bits d0 to d255, then check bits c0 to c9 (R22). -/
abbrev Codeword := BitVec 266

/-- The data bits of a codeword. -/
def cwData (c : Codeword) : W256 := c.extractLsb' 0 256

/-- The check bits of a codeword. -/
def cwChk (c : Codeword) : BitVec 10 := c.extractLsb' 256 10

/-- The codeword of a word (R22). -/
def wcEncode (d : W256) : Codeword := (wcCheck d).append d |>.cast (by decide)

/-- The outcome of reading a codeword that differs from that of its content by the bits `e`: the code is linear, so `e`
alone has the syndrome (R23). -/
def wcError (e : Codeword) : WcOut := if e = 0 then .clean else wcDecode (cwData e) (cwChk e)

/-- The outcome of reading a flash codeword (R23, R24). -/
def flashOut (c : Codeword) : WcOut := if c = BitVec.allOnes 266 then .erased else wcDecode (cwData c) (cwChk c)

/-! ## SHA-256 and HMAC (FIPS 180-4, FIPS 198-1; named by R407, R413, R415) -/

def shaK : List W32 :=
  [0x428a2f98, 0x71374491, 0xb5c0fbcf, 0xe9b5dba5, 0x3956c25b, 0x59f111f1, 0x923f82a4, 0xab1c5ed5] ++
  [0xd807aa98, 0x12835b01, 0x243185be, 0x550c7dc3, 0x72be5d74, 0x80deb1fe, 0x9bdc06a7, 0xc19bf174] ++
  [0xe49b69c1, 0xefbe4786, 0x0fc19dc6, 0x240ca1cc, 0x2de92c6f, 0x4a7484aa, 0x5cb0a9dc, 0x76f988da] ++
  [0x983e5152, 0xa831c66d, 0xb00327c8, 0xbf597fc7, 0xc6e00bf3, 0xd5a79147, 0x06ca6351, 0x14292967] ++
  [0x27b70a85, 0x2e1b2138, 0x4d2c6dfc, 0x53380d13, 0x650a7354, 0x766a0abb, 0x81c2c92e, 0x92722c85] ++
  [0xa2bfe8a1, 0xa81a664b, 0xc24b8b70, 0xc76c51a3, 0xd192e819, 0xd6990624, 0xf40e3585, 0x106aa070] ++
  [0x19a4c116, 0x1e376c08, 0x2748774c, 0x34b0bcb5, 0x391c0cb3, 0x4ed8aa4a, 0x5b9cca4f, 0x682e6ff3] ++
  [0x748f82ee, 0x78a5636f, 0x84c87814, 0x8cc70208, 0x90befffa, 0xa4506ceb, 0xbef9a3f7, 0xc67178f2]

def shaInit : List W32 :=
  [0x6a09e667, 0xbb67ae85, 0x3c6ef372, 0xa54ff53a, 0x510e527f, 0x9b05688c, 0x1f83d9ab, 0x5be0cd19]

def rotr (x : W32) (n : Nat) : W32 := x.rotateRight n

/-- The message padded to a multiple of 64 bytes. -/
def shaPad (m : List Byte) : List Byte :=
  let n := m.length
  m ++ [0x80#8] ++ List.replicate ((119 - n % 64) % 64) 0#8 ++ (leBytes 8 (8 * n)).reverse

/-- The message schedule: 48 more words after the block's 16, newest first. -/
def shaSched : Nat → List W32 → List W32
  | 0, w => w
  | k + 1, w =>
    let a := w.getD 1 0
    let b := w.getD 14 0
    let s1 := rotr a 17 ^^^ rotr a 19 ^^^ (a >>> 10)
    let s0 := rotr b 7 ^^^ rotr b 18 ^^^ (b >>> 3)
    shaSched k ((w.getD 15 0 + s0 + w.getD 6 0 + s1) :: w)

/-- One round. -/
def shaRound (h : List W32) (kw : W32 × W32) : List W32 :=
  let a := h.getD 0 0
  let b := h.getD 1 0
  let c := h.getD 2 0
  let d := h.getD 3 0
  let e := h.getD 4 0
  let f := h.getD 5 0
  let g := h.getD 6 0
  let hh := h.getD 7 0
  let t1 := hh + (rotr e 6 ^^^ rotr e 11 ^^^ rotr e 25) + ((e &&& f) ^^^ ((~~~ e) &&& g)) + kw.1 + kw.2
  let t2 := (rotr a 2 ^^^ rotr a 13 ^^^ rotr a 22) + ((a &&& b) ^^^ (a &&& c) ^^^ (b &&& c))
  [t1 + t2, a, b, c, d + t1, e, f, g]

/-- One block of 64 bytes. -/
def shaBlock (h : List W32) (blk : List Byte) : List W32 :=
  let w0 := ((chunks 4 16 blk).map (fun b => BitVec.ofNat 32 (beNat b))).reverse
  let w := (shaSched 48 w0).reverse
  List.zipWith (· + ·) h ((shaK.zip w).foldl shaRound h)

/-- SHA-256, 32 bytes. -/
def sha256 (m : List Byte) : List Byte :=
  let p := shaPad m
  ((chunks 64 (p.length / 64) p).foldl shaBlock shaInit).flatMap (fun w => (leBytes 4 w.toNat).reverse)

/-- HMAC-SHA-256 under a key of at most 64 bytes. -/
def hmacSha256 (key msg : List Byte) : List Byte :=
  let k := key ++ List.replicate (64 - key.length) 0#8
  sha256 (k.map (· ^^^ 0x5c#8) ++ sha256 (k.map (· ^^^ 0x36#8) ++ msg))

/-! ## ECDSA P-256 verification (FIPS 186-4; named by R413, R414) -/

def p256P : Nat := 0xffffffff00000001000000000000000000000000ffffffffffffffffffffffff
def p256N : Nat := 0xffffffff00000000ffffffffffffffffbce6faada7179e84f3b9cac2fc632551
def p256B : Nat := 0x5ac635d8aa3a93e7b3ebbd55769886bc651d06b0cc53b0f63bce3c3e27d2604b
def p256G : Nat × Nat :=
  (0x6b17d1f2e12c4247f8bce6e563a440f277037d812deb33a0f4a13945d898c296,
   0x4fe342e2fe1a7f9b8ee7eb4a7c0f9e162bce33576b315ececbb6406837bf51f5)

/-- b ^ e mod m, over the low `k` bits of e. -/
def powMod (m : Nat) : Nat → Nat → Nat → Nat
  | 0, _, _ => 1 % m
  | k + 1, b, e =>
    let r := powMod m k (b * b % m) (e / 2)
    if e % 2 = 1 then r * b % m else r

/-- The inverse modulo a prime. -/
def invMod (m a : Nat) : Nat := powMod m 256 (a % m) (m - 2)

/-- Affine addition on P-256; `none` is the point at infinity. -/
def ecAdd (a b : Option (Nat × Nat)) : Option (Nat × Nat) :=
  match a, b with
  | none, _ => b
  | _, none => a
  | some (x1, y1), some (x2, y2) =>
    if x1 = x2 ∧ (y1 + y2) % p256P = 0 then none
    else
      let l := if x1 = x2 then (3 * x1 * x1 + p256P - 3) * invMod p256P (2 * y1) % p256P
        else (y2 + p256P - y1) * invMod p256P (x2 + p256P - x1) % p256P
      let x3 := (l * l + 2 * p256P - x1 - x2) % p256P
      some (x3, (l * (x1 + p256P - x3) + p256P - y1) % p256P)

/-- k times a point, over the low `n` bits of k. -/
def ecMul : Nat → Nat → Option (Nat × Nat) → Option (Nat × Nat)
  | 0, _, _ => none
  | n + 1, k, q =>
    let r := ecMul n (k / 2) (ecAdd q q)
    if k % 2 = 1 then ecAdd r q else r

/-- The signature (r, s) of `msg` verifies under the public key (x, y). -/
def ecdsaVerify (x y : Nat) (msg : List Byte) (r s : Nat) : Bool :=
  if x < p256P ∧ y < p256P ∧ (y * y) % p256P = (x * x * x + (p256P - 3) * x + p256B) % p256P
      ∧ 1 ≤ r ∧ r < p256N ∧ 1 ≤ s ∧ s < p256N then
    let e := beNat (sha256 msg)
    let w := invMod p256N s
    match ecAdd (ecMul 256 (e * w % p256N) (some p256G)) (ecMul 256 (r * w % p256N) (some (x, y))) with
    | none => false
    | some (x1, _) => x1 % p256N = r
  else false

end Sys2Proof.Machine
end

