-- ==== Sys2Proof/Machine/StBase.lean ====
section
/-! DEFINITION. Machine/StBase.lean: state of the frame counter, the engines, the word code, the event fabric,
the journal, the host interface and the recorder (chapters 1, 2, 9, 12, 15). Reset values stand in the fields. -/

namespace Sys2Proof.Machine

/-- A time-stamp (R42). -/
structure Ts where
  /-- 48 bits; R42; 0 -/
  frame : Frame := 0
  /-- 8 bits; R42; 0 -/
  frac : BitVec 8 := 0
  deriving DecidableEq, Repr

/-- An occurrence of an event source (R308, R471, R472), waiting to be posted or recorded. -/
structure Occ where
  src : Nat := 0
  sev : Nat := 0
  ts : Ts := {}
  detail : BitVec 128 := 0
  count : Nat := 1
  deriving DecidableEq, Repr

/-! ## Frame counter and engines -/

/-- The frame counter and its latches (R39 to R42, R60, R332). -/
structure Clk where
  /-- 48 bits; R40; 0 at PD0 power-up -/
  frame : Frame := 0
  /-- MODEL'S OWN: the number of the frame that ended at the last boundary (R46; log 30); none has -/
  last : Frame := 0xFFFFFFFFFFFF
  /-- 16 bits, GLB_FRAME_HI.FRAME latch; R60; 0 -/
  latHi : BitVec 16 := 0
  /-- 8 bits, GLB_FRAME_HI.FRAC latch; R60; 0 -/
  latFrac : BitVec 8 := 0
  /-- signed ps, phase rotator offset of the frame boundary; R332; 0 -/
  phase : Int := 0
  /-- signed ps, remaining alignment error towards the time source; R332; 0 -/
  alignErr : Int := 0
  /-- pending load of the frame counter: the boundary's frame and the value it loads; R41, R334; none -/
  load : Option (Frame × Frame) := none
  deriving DecidableEq, Repr

/-- One engine CE0-CE7 (R13, R27, R55-R60, R164). -/
structure Eng where
  /-- 1 bit; R27: halted on an uncorrectable word; 0 -/
  halted : Bool := false
  /-- it halted in the frame just ended; R27; no -/
  haltNew : Bool := false
  /-- 16 bits, GLB_OVR_CNTn.COUNT; R60; 0 -/
  ovr : Nat := 0
  /-- 12 bits, GLB_OVR_CNTn.SKIPS; R60; 0 -/
  skips : Nat := 0
  /-- 2 bits, GLB_OVR_CNTn.CONSEC; R59; 0 -/
  consec : Nat := 0
  /-- 10 bits, GLB_LOADn.PEAK_USED; R60; 0 -/
  peakUsed : Nat := 0
  /-- 5 bits, GLB_LOADn.PEAK_PHASE; R60; 0 -/
  peakPhase : Nat := 0
  /-- cycles its periodic tasks used in this frame so far (R60); 0 -/
  used : Nat := 0
  /-- bit per task: an instance completed in this frame (R56); 0 -/
  ran : Nat := 0
  /-- bit per task: an instance overran or was skipped in the frame that ends (R55, R56); 0 -/
  overSet : Nat := 0
  /-- bit per task: of these, the instances skipped (R56); 0 -/
  skipSet : Nat := 0
  /-- 1 bit: the watchdog judges this engine (R164); 0 -/
  armed : Bool := false
  /-- consecutive frames without a watchdog service (R164); 0 -/
  miss : Nat := 0
  /-- its expiry has been found since its last service (R164); no -/
  expired : Bool := false
  /-- 1 bit: PEAK clear written this frame (R60); 0 -/
  clear : Bool := false
  /-- 10 bits, GLB_LOADn.DECLARED, the largest sum of the last admission; R54, R60; DESIGN CHOICE 0, log 1 -/
  declared : Nat := 0
  /-- 64 bits, its hardware semaphores, 1: taken; R14; DESIGN CHOICE 0, log 1 -/
  sems : BitVec 64 := 0
  /-- 8 bits, its mailbox doorbells towards CE0-CE7, 1: rung; R14; DESIGN CHOICE 0, log 1 -/
  bells : BitVec 8 := 0
  /-- 1 bit: error flag of an access that was refused or read uncorrectable; R27, R28; 0 -/
  errFlag : Bool := false
  deriving DecidableEq, Repr

/-! ## Word code -/

/-- One entry of the word-code log (R30). -/
structure WcEntry where
  ts : Ts := {}
  struct : Nat := 0
  addr : Nat := 0
  bit : Nat := 0
  ue : Bool := false
  multi : Bool := false
  deriving DecidableEq, Repr

/-- The counts and log of the word code (R25-R32, R469). -/
structure Wc where
  /-- 29 x 32 bits, EVT_WCCEs; R31; 0 -/
  ce : Tbl Nat := []
  /-- 29 x 32 bits, EVT_WCUEs; R31; 0 -/
  ue : Tbl Nat := []
  /-- 16 x 128 bits, word-code log, oldest first; R30; empty -/
  log : List WcEntry := []
  /-- 16 bits, EVT_WCLOG_STAT.DROPPED; R30; 0 -/
  dropped : Nat := 0
  /-- 4 x 32 bits, latched head entry EVT_WCLOG0-3; R469; 0 -/
  latch : Option WcEntry := none
  /-- POP written this frame; R469; no -/
  pop : Bool := false
  /-- words (STRUCT, address) that read uncorrectable and were not written since; R26; none -/
  bad : List (Nat × Nat) := []
  /-- structures whose corrected-word event was raised in this watch tick; R25; none -/
  tickRaised : List Nat := []
  /-- frames the patrol scrubber has run, its position modulo each structure's size; R29; 0 -/
  scrub : Nat := 0
  /-- 266 bits a word, key STRUCT x 2^17 + address: how the stored codeword differs from that of its content; R22; 0 -/
  err : Tbl (BitVec 266) := []
  /-- errors decoded in this frame, in order; R25, R26, R32; none -/
  found : List WcEntry := []
  /-- 256 bits a word, same key: contents of the engine SRAMs, the mailboxes and the firmware working area, which no other
  field holds; R16, R21; DESIGN CHOICE 0, log 1 -/
  ram : Tbl W256 := []
  deriving DecidableEq, Repr

/-! ## Events -/

/-- The event fabric (R465-R471, R309). -/
structure Evt where
  /-- 256 bits, EVT_PENDg; R468; 0 -/
  pend : BitVec 256 := 0
  /-- 256 x 32 bits, occurrence counts; R468; 0 -/
  counts : Tbl Nat := []
  /-- EVT_CCUR.SOURCE and VALID; R468; not valid -/
  csel : Option Nat := none
  /-- EVT_CSEL write of this frame; R468; none -/
  cselPend : Option Nat := none
  /-- occurrences for the ring not yet offered to a posting; R309; none -/
  fresh : List Occ := []
  /-- one unposted occurrence per source, with its count; R309; none -/
  held : List Occ := []
  /-- occurrences on their way to the row master; R467, R482; none -/
  row : List Occ := []
  /-- pending bits hardware set in this frame (R10); 0 -/
  setNow : BitVec 256 := 0
  /-- recorder-ash event raised in this watch tick (R410); no -/
  ashTick : Bool := false
  deriving DecidableEq, Repr

/-! ## Journal -/

/-- A journal entry (R312). -/
structure JEntry where
  seq : Nat := 0
  frame : Frame := 0
  opcode : Nat := 0
  form : Bool := false
  src : Nat := 0
  ring : Nat := 0
  persist : Bool := false
  status : Nat := 0
  tag : Nat := 0
  digest : Nat := 0
  result : Nat := 0
  deriving DecidableEq, Repr

/-- The journal (R312-R318). -/
structure Jrn where
  /-- 64 bits, JOURNAL_HEAD in the pointer latch; R313; 0 before the first epoch -/
  head : Nat := 0
  /-- SEQ the next entry takes; R313; 2^32 where nothing is found -/
  next : Nat := 0x100000000
  /-- 4096 x 256 bits, journal SRAM, word s mod 4096; R314; empty -/
  sram : Tbl (Option JEntry) := []
  /-- SEQ of the first entry made into the present SRAM contents; R314; 0 -/
  base : Nat := 0
  /-- 16384 entries, the mirror in flash, newest first; R316; empty -/
  mirror : List JEntry := []
  /-- 16 bits, SEQs of final persistent entries waiting for the mirror; R316 MIRROR_PEND; none -/
  waiting : List Nat := []
  /-- 16 bits, HST_JSTAT.CORRUPT; R319; 0 -/
  corrupt : Nat := 0
  /-- journal entries made in this frame (R50); 0 -/
  slots : Nat := 0
  /-- PENDING entries SEQ, STATUS, RESULT to rewrite in the frame that stages their completion; R314; none -/
  finals : List (Nat × Nat × Nat × Frame) := []
  deriving DecidableEq, Repr

/-! ## Host interface -/

/-- A descriptor as fetched, with what the reads of its buffer deliver (R296, R298). -/
structure Desc where
  /-- OPCODE -/
  opcode : Nat := 0
  /-- FORM: expert -/
  expert : Bool := false
  noirq : Bool := false
  fence : Bool := false
  early : Bool := false
  /-- reserved header bits [15:12] and [63:32], as they stand -/
  rsvd : Nat := 0
  tag : Nat := 0
  /-- ARGS, 448 bits, bit 0 of byte 8 first -/
  args : BitVec 448 := 0
  /-- the LEN bytes of the buffer as read -/
  buf : List Byte := []
  /-- the buffer was read or written without Unsupported Request, Completer Abort or poison (R302) -/
  dmaOk : Bool := true
  deriving DecidableEq, Repr

/-- What an accepted command still waits for (R305). -/
inductive Wait where
  | none
  | domainUp
  | offRun
  | groupRun (mask : Nat)
  | prog (n : Nat)
  | margin (rail : Nat)
  | stage (st : Nat) (wait : Bool)
  | cap
  | convSeq (core : Nat)
  | urgent (slot : Nat)
  | cal
  | config (gen : Nat)
  | progLoad (prog : Nat)
  | graphLoad
  | store (job : Nat)
  | abort
  | handover
  deriving DecidableEq, Repr

/-- An accepted command that is not final (R299, R301). -/
structure Live where
  seq : Nat := 0
  ring : Nat := 0
  crHead : Nat := 0
  relayed : Bool := false
  d : Desc := {}
  wait : Wait := .none
  /-- its STARTED completion is staged (EARLY) -/
  started : Bool := false
  deriving DecidableEq, Repr

/-- A completion ready or waiting to be ready (R300, R301). -/
structure Compl where
  seq : Nat := 0
  tag : Nat := 0
  opcode : Nat := 0
  status : Nat := 0
  crHead : Nat := 0
  ring : Nat := 0
  final : Bool := true
  frame : Frame := 0
  result : Nat := 0
  noirq : Bool := false
  persist : Bool := false
  /-- first frame in which it may be posted -/
  readyAt : Frame := 0
  /-- reservations its posting releases beyond its own (R301) -/
  extra : Nat := 0
  deriving DecidableEq, Repr

/-- One ring: CR0-CR7, CQ0-CQ7, ER, TR (R294-R301, R320). -/
structure Ring where
  /-- 12 bits, _IDX.OWN; R320; 0 -/
  own : Nat := 0
  /-- 12 bits, _IDX.PEER; R320; 0 -/
  peer : Nat := 0
  /-- 32 bits, last doorbell value written; R294; 0 -/
  bell : Nat := 0
  /-- 1 bit, _STAT.HALT; R320; 0 -/
  halt : Bool := false
  /-- 2 bits, _STAT.CAUSE; R320; 0 -/
  cause : Nat := 0
  /-- 16 bits, _STAT.COUNT; R320; 0 -/
  count : Nat := 0
  /-- entries of a completion ring that are reserved; R301; 0 -/
  resv : Nat := 0
  /-- fetched descriptors of a command ring: the frame they can be taken from; R296; none -/
  fetched : List (Frame × Desc) := []
  /-- entries asked for by a fetch still under way; R296; 0 -/
  fetching : Nat := 0
  deriving DecidableEq, Repr

/-- One MSI-X table entry (R470). -/
structure Vec where
  addr : BitVec 64 := 0
  data : BitVec 32 := 0
  masked : Bool := true
  deriving DecidableEq, Repr

/-- The host interface (R288-R311, R319, R320). -/
structure Hst where
  /-- 2 bits, GLB_LOCK.STATE: 0 boot, 1 open, 2 closed; R292; 0 -/
  lock : Nat := 0
  /-- 1 bit, HST_STAT.LINK_UP; R319; 0 -/
  linkUp : Bool := false
  /-- 1 bit, HST_STAT.BME; R319; 0 -/
  bme : Bool := false
  /-- 1 bit, HST_STAT.FRESET; R319; 0 -/
  freset : Bool := false
  /-- FRESET set in this frame (R10); no -/
  fresetNow : Bool := false
  /-- 16 bits, HST_STAT.RESETS; R319; 0 -/
  resets : Nat := 0
  /-- 18 rings: 0-7 CR, 8-15 CQ, 16 ER, 17 TR; R294; reset -/
  rings : Tbl Ring := []
  /-- 64 x 128 bits, MSI-X table; R470; masked -/
  vecs : Tbl Vec := []
  /-- 64 bits, PBA; R470; 0 -/
  pba : BitVec 64 := 0
  /-- ring T0.1 takes from first; R299; 0 -/
  rr : Nat := 0
  /-- accepted commands whose effect comes at the next boundary, in SEQ order; R44, R299; none -/
  decided : List Live := []
  /-- accepted commands that are not final; R301; none -/
  live : List Live := []
  /-- completions staged; R301; none -/
  ready : List Compl := []
  /-- 32 bits, HST_JHEAD_HI latch; R319; 0 -/
  jheadHi : Nat := 0
  /-- 32 bits, HST_JOLD_HI latch; R319; 0 -/
  joldHi : Nat := 0
  /-- 32 bits, HST_JMIR_HI latch; R319; 0 -/
  jmirHi : Nat := 0
  /-- the writeback block as last written, without its frame field; R297; none -/
  wb : Option (List Nat) := none
  /-- frames left in which ring vector v, 0-11, is not signalled again; R311; 0 -/
  modLeft : Tbl Nat := []
  /-- entries for ring vector v were posted since its last signal; R311; no -/
  modPend : Tbl Bool := []
  /-- direct vectors signalled in this frame, behind its writeback; R297, R311; none -/
  dvec : List Nat := []
  /-- this frame's write of the writeback block fails; R296; no -/
  wbFail : Bool := false
  /-- telemetry ring found full in this frame (R297 bit 409); no -/
  trFull : Bool := false
  deriving DecidableEq, Repr

/-! ## Recorder -/

/-- A freeze summary (R404). -/
structure Summ where
  rnum : Nat := 0
  sev : Nat := 0
  ts : Ts := {}
  count : Nat := 0
  srcs : BitVec 256 := 0
  groups : Tbl Nat := []
  last : Ts := {}
  deriving DecidableEq, Repr

/-- A record image, in the buffer or in a flash slot (R391, R392). -/
structure Img where
  rnum : Nat := 0
  src : Nat := 0
  sev : Nat := 0
  ts : Ts := {}
  summary : Bool := false
  clear : Bool := false
  refreshed : Bool := false
  count : Nat := 1
  snapFrame : Frame := 0
  list : Nat := 0
  jseq : Nat := 0
  detail : BitVec 128 := 0
  ash : Nat := 0
  gen : Nat := 0
  /-- NWORDS snapshot words -/
  words : List Nat := []
  /-- bits [1535:512] of a summary or clear record -/
  extra : Nat := 0
  /-- RSEQ of the flash copy, 0 in the buffer -/
  rseq : Nat := 0
  deriving DecidableEq, Repr

/-- A slot of a recorder sector (R397, R399). -/
structure RSlot where
  img : Img := {}
  /-- accepted by its readers; false: torn or uncorrectable -/
  ok : Bool := true
  /-- a later copy of the RNUM exists -/
  old : Bool := false
  deriving DecidableEq, Repr

/-- An ordinary sector that is open or full (R397). -/
structure RSect where
  sev : Nat := 0
  slots : List RSlot := []
  deriving DecidableEq, Repr

/-- The event recorder (R387-R411). -/
structure Recd where
  /-- 64 occurrences with the frame from which each can be taken, oldest first; R387; empty -/
  queue : List (Frame × Occ) := []
  /-- per source: watch ticks of HOLDOFF left; R388; 0 -/
  hold : Tbl Nat := []
  /-- per source: occurrences absorbed; R388; 0 -/
  absorbed : Tbl Nat := []
  /-- 512 x 2048 bits, buffer in RNUM order; R393; empty -/
  buf : List Img := []
  /-- an image of severity 3 waits for its flush, which the next pass admits; R394; no -/
  urgent : Bool := false
  /-- RNUMs whose flush is in progress; R393; none -/
  flushing : List Nat := []
  /-- 32 bits, REC_ASH; R400; 0 -/
  ash : Nat := 0
  /-- 32 bits, REC_NEXT; R400; 1 at manufacture -/
  next : Nat := 1
  /-- 1 bit, REC_STAT.FROZEN; R402; 0 -/
  frozen : Bool := false
  /-- watch ticks until the freeze times out; R402; 0 -/
  frzLeft : Nat := 0
  /-- the current freeze's summary; R404; none -/
  summ : Option Summ := none
  /-- 16 bits, REC_FRZ.SUPPRESSED; R411; 0 -/
  suppressed : Nat := 0
  /-- BUF_LOST set in this frame (R10); no -/
  lostNow : Bool := false
  /-- 2 bits, REC_FRZ.HIGHEST; R411; 0 -/
  highest : Nat := 0
  /-- 64-bit nonce, REC_NEXT at the challenge and watch ticks left; R406; not valid -/
  nonce : Option (BitVec 64 × Nat × Nat) := none
  /-- 4 bits, REC_AUTH.FAILS; R411; 0 -/
  fails : Nat := 0
  /-- 1 bit, REC_AUTH.LOCKED; R406; 0 -/
  locked : Bool := false
  /-- owner clear key programmed over the flue port; R405, R438; as delivered -/
  key : Option (BitVec 256) := none
  /-- an authorised clear whose record is not accepted yet: SEQ of the command and the record; R408; none -/
  clearing : Option (Nat × Img) := none
  /-- HIGH of a committed clear whose sectors are still to be erased; R408 CLEARING; none -/
  erasing : Option Nat := none
  /-- 64 clear records, oldest first; R408; none -/
  clears : List Img := []
  /-- open and full ordinary sectors by number 2-127; R397; all erased -/
  sects : Tbl (Option RSect) := []
  /-- open sector of each severity; R397; none -/
  opened : Tbl (Option Nat) := []
  /-- the sectors kept in reserve; R397; 2 and 3 -/
  reserve : List Nat := [2, 3]
  /-- 1 bit, REC_STAT.FLUSHING; R411; 0 -/
  flush : Bool := false
  /-- watch ticks since the last flush ended; R394; 0 -/
  flushTicks : Nat := 0
  /-- 1 bit, REC_STAT.BUF_LOST; R396; 0 -/
  bufLost : Bool := false
  /-- 1 bit, retention flag of the ember block; R396; 0 at PD0 power-up -/
  retained : Bool := false
  deriving DecidableEq, Repr

end Sys2Proof.Machine
end

