-- ==== Sys2Proof/Machine/StRail.lean ====
section
/-! DEFINITION. Machine/StRail.lean: state of the rail banks, PMBus masters, sequencer, off-sequencer and fault
policy (chapters 3, 4, 5). -/

namespace Sys2Proof.Machine

/-! ## Rail banks -/

/-- Rail states (R72). -/
inductive RState where
  | unused | off | ramping | on | releasing | faulted | hiz
  deriving DecidableEq, Repr

/-- STATE as BKx_RSTATi shows it (R72). -/
def RState.code : RState → Nat
  | .unused => 0 | .off => 1 | .ramping => 2 | .on => 3 | .releasing => 4 | .faulted => 5 | .hiz => 6

/-- The figures of the ENABLE or resume that last started a rail (R118, R146). -/
structure Fig where
  prio : Nat := 0
  inrush : Nat := 0
  steady : Nat := 0
  deadline : Nat := 0
  deriving DecidableEq, Repr

/-- What a ledger candidate carries from pass to pass (R110). -/
structure Cand where
  /-- boundary at which it became pending -/
  since : Frame := 0
  /-- skip count -/
  skip : Nat := 0
  /-- granted in this pass frame, due at the boundary that ends it; false again once applied -/
  granted : Bool := false
  /-- its position in the pass that granted it; R183 -/
  order : Nat := 0
  /-- its command is on its way; R110, R125 -/
  pushed : Bool := false
  deriving DecidableEq, Repr

/-- One rail channel (R61-R93, R138-R172). -/
structure Rail where
  /-- 3 bits, STATE; R72, R93; UNUSED -/
  st : RState := .unused
  /-- 1 bit: the generation in force uses the rail; R93; 0 -/
  used : Bool := false
  /-- 1 bit, level the PG receiver reads; R69; low -/
  rx : Bool := false
  /-- 1 bit, PG_RAW; R93; 0 -/
  raw : Bool := false
  /-- 1 bit, PG_DB; R70, R93; 0 -/
  db : Bool := false
  /-- 8 bits, samples that disagree with PG_DB; R70; 0 -/
  dbCnt : Nat := 0
  /-- time-stamp of the first sample of that run; R160; 0 -/
  dbOnset : Ts := {}
  /-- latched first change of level since the last sample agreeing with PG_DB; R160; none -/
  edge : Option Ts := none
  /-- 16 bits, GOOD_TICKS; R71; 0 -/
  goodTicks : Nat := 0
  /-- good at every sample since the last watch tick boundary; R71; no -/
  tickGood : Bool := false
  /-- 1 bit, EN_CMD; R93; 0 -/
  en : Bool := false
  /-- 1 bit, level applied to the driver, behind EN_CMD by two frames with PAIR (R67); 0 -/
  enBall : Bool := false
  /-- changes of EN on their way to the ball: frames left and level; R67; none -/
  enQ : List (Nat × Bool) := []
  /-- 1 bit, EN_RB; R93; 0 -/
  enRb : Bool := false
  /-- 1 bit, ILIM; R65; 0 -/
  ilim : Bool := false
  /-- 9 bits, consecutive frames of ILIM; R65; 0 -/
  ilimRun : Nat := 0
  /-- 3 bits, samples still ignored after a change of command; R77; 0 -/
  blank : Nat := 0
  /-- 3 bits, mismatching samples; R77; 0 -/
  mis : Nat := 0
  /-- mismatching samples with ILIM in each, since the run began; R77; 0 -/
  misIlim : Nat := 0
  /-- onset of the run of mismatches; R160; 0 -/
  misOnset : Ts := {}
  /-- comparator detects nothing until the command changes; R77; no -/
  rbDone : Bool := false
  /-- the assist test drives the ball in this frame; R77; no -/
  assist : Bool := false
  /-- 1 bit, SHORT_HI; R93; 0 -/
  shortHi : Bool := false
  /-- 1 bit, SHORT_LO; R93; 0 -/
  shortLo : Bool := false
  /-- 1 bit, EN_OPEN; R93; 0 -/
  enOpen : Bool := false
  /-- 1 bit, PG_OPEN; R93; 0 -/
  pgOpen : Bool := false
  /-- 1 bit, PG_STUCK; R93; 0 -/
  pgStuck : Bool := false
  /-- the five bits above that hardware set in this frame, bit 0 SHORT_HI to bit 4 PG_STUCK (R10); 0 -/
  setNow : Nat := 0
  /-- 1 bit, FOLD; R65, R93; 0 -/
  fold : Bool := false
  /-- the folded rail has been commanded off; R65; no -/
  foldOff : Bool := false
  /-- 12 bits, watch tick boundaries since EN left its asserted level, saturating; R74; elapsed -/
  offTicks : Nat := 4095
  /-- 6 bits, consecutive good samples in OFF; R80; 0 -/
  offGood : Nat := 0
  /-- PG stuck reported and PG not yet not good since; R138; no -/
  stuckDone : Bool := false
  /-- the last counted open-wire test failed, with the time-stamp of its sample; R79, R160; no -/
  owFail : Option Ts := none
  /-- an open-wire test runs in this frame, with the boundary sample that began it; R78; none -/
  owTest : Option Bool := none
  /-- the rail was ON when that test began; R75; no -/
  owOn : Bool := false
  /-- frames since the rail entered OFF, FAULTED or HIZ and stayed within them, saturating; R115; 0 -/
  rest : Nat := 0
  /-- frames left of the PG deadline; R109; none -/
  deadline : Option Nat := none
  /-- the fail-on state of R62 awaits the first VIO_OK; R62, R68; no -/
  hizLate : Bool := false
  /-- 2 bits, MARGIN; R93; 0 -/
  margin : Nat := 0
  /-- a margin is applied through PMBus; R89; no -/
  marginPmb : Bool := false
  /-- the MDAC that margins the rail; R89; none -/
  marginDac : Option Nat := none
  /-- a PMBus return to nominal is under way, the next enable waits; R89; no -/
  marginHold : Bool := false
  /-- 1 bit, BIND_OK; R88; 0 -/
  bindOk : Bool := false
  /-- 5 bits, exponent of VOUT_MODE; R88; 0 -/
  voutExp : Nat := 0
  /-- figures of the start that last raised the rail; R146; 0 -/
  fig : Fig := {}
  /-- 4 bits, RETRY_CNT; R145, R169; 0 -/
  retryCnt : Nat := 0
  /-- 12 bits, BACKOFF_LEFT; R145, R169; 0 -/
  backoff : Nat := 0
  /-- 1 bit, RETRY_PEND; R169; 0 -/
  retryPend : Bool := false
  /-- frame in which the backoff was loaded, whose boundary does not count; R145; none -/
  backAt : Option Frame := none
  /-- the retry as a ledger candidate once its backoff has run; R146; none -/
  retry : Option Cand := none
  /-- the rail as a resume candidate; R118; none -/
  resume : Option Cand := none
  /-- 3 bits, LAST_KIND; R169; 7 -/
  lastKind : Nat := 7
  /-- 1 bit, ESCALATED; R169; 0 -/
  escalated : Bool := false
  /-- 1 bit, SHUTDOWN; R169; 0 -/
  shutdown : Bool := false
  /-- 6 x 32 bits, lifetime counters CNT0-CNT5; R162; 0 -/
  cnt : Tbl Nat := []
  /-- counts not yet written to flash per counter; R163; 0 -/
  delta : Tbl Nat := []
  /-- per counter: one more than the frame of its oldest increment that is not in flash; R163; none -/
  deltaSince : Tbl Nat := []
  /-- per-rail history of its sense results, newest first, at most 8: frame, 16-bit sample; R161; none -/
  hist : List (Frame × Nat) := []
  deriving DecidableEq, Repr

/-- One rail bank (R61, R62, R79, R93). -/
structure Bank where
  /-- 1 bit, VIO_OK; R62; 0 -/
  vioOk : Bool := false
  /-- frames the supply has been within tolerance, to 128; R62; 0 -/
  vioCnt : Nat := 0
  /-- mV of the supply at the last boundary, for the ratio thresholds; R69; 0 -/
  vio : Int := 0
  /-- 6 bits, OW_NEXT; R93; 0 -/
  owNext : Nat := 0
  /-- 1 bit, OW_RETEST, with the rails awaiting a confirming retest, oldest first; R79; none -/
  owRetest : List Nat := []
  /-- usable: the bank's domain is powered; R33, R35; no -/
  powered : Bool := false
  deriving DecidableEq, Repr

/-- One margin DAC (R84, R85). -/
structure Mdac where
  /-- 8 bits signed, CODE; R93; 0 -/
  code : Int := 0
  /-- 8 bits signed, target; R85; 0 -/
  target : Int := 0
  /-- 1 bit, AT_TARGET; R85; 0 -/
  atTarget : Bool := false
  /-- 1 bit, COMPLIANCE; R84; 0 -/
  compliance : Bool := false
  /-- COMPLIANCE set in this frame (R10); no -/
  setNow : Bool := false
  deriving DecidableEq, Repr

/-- A margin on its way (R89, R90, R103). -/
inductive MPhase where
  | pending | moving | settle (left : Nat) | average (left n : Nat) (sum : Int)
  deriving DecidableEq, Repr

/-- Who asked for a margin or a bus transaction. -/
inductive Owner where
  | none
  | prog (n : Nat)
  | cmd (seq : Nat)
  deriving DecidableEq, Repr

/-- A MARGIN_SET of a program or a MARGIN command (R103, R305). -/
structure MOp where
  rail : Nat := 0
  owner : Owner := .none
  pmb : Bool := false
  dir : Nat := 0
  mdac : Nat := 0
  target : Nat := 0
  verify : Bool := false
  vexp : Nat := 0
  tol : Nat := 0
  settle : Nat := 0
  cand : Cand := {}
  phase : MPhase := .pending
  deriving DecidableEq, Repr

/-! ## PMBus masters -/

/-- One bus transaction (R87, R88, R136, R188-R192). -/
inductive PmbOp where
  | page (v : Nat)
  | send (cmd : Nat)
  | writeByte (cmd v : Nat)
  | writeWord (cmd v : Nat)
  | readByte (cmd : Nat)
  | readWord (cmd : Nat)
  /-- read OPERATION and write it back with bits [5:2] replaced; `got` is the byte read -/
  | operation (code : Nat) (got : Option Nat)
  deriving DecidableEq, Repr

/-- What a job of transactions serves. -/
inductive PmbUse where
  /-- a transaction on the bus whose job has been superseded (R188) -/
  | none
  | margin (rail : Nat)
  | marginReturn (rail : Nat)
  | voutMode (rail : Nat)
  | rectMode (k : Nat)
  | watcher (n : Nat)
  | step (prog : Nat)
  | pol (k : Nat)
  | rect (k : Nat)
  | trim (k : Nat)
  | battery
  deriving DecidableEq, Repr

/-- A job in the queue of a master: transactions to make in order. -/
structure PmbJob where
  use : PmbUse := .battery
  addr : Nat := 0
  pec : Bool := false
  ops : List PmbOp := []
  /-- the transaction in front is on the bus -/
  sent : Bool := false
  /-- failed attempts of the transaction in front -/
  tries : Nat := 0
  /-- words read so far, oldest first -/
  got : List Nat := []
  deriving DecidableEq, Repr

/-- One PMBus status watcher (R136). -/
structure Watch where
  /-- 8 bits, VALUE; R136; 0 -/
  value : Nat := 0
  /-- 1 bit, VALID; R136; 0 -/
  valid : Bool := false
  /-- 1 bit, STALE; R136; 1 -/
  stale : Bool := true
  /-- watch ticks since the last successful read, saturating; R136; 0 -/
  age : Nat := 0
  /-- watch ticks until the next read; R136; 0 -/
  next : Nat := 0
  deriving DecidableEq, Repr

/-! ## Sequencer -/

/-- A step fetched and not yet retired (R101-R105). -/
structure Item where
  /-- index of its first entry -/
  idx : Nat := 0
  /-- its first entry, 64 bits -/
  w : Nat := 0
  /-- its EXT entry, 0 where it has none -/
  ext : Nat := 0
  /-- as a ledger candidate -/
  cand : Cand := {}
  /-- its first examination has offered or begun it -/
  begun : Bool := false
  /-- frames left of its deadline -/
  deadline : Option Nat := none
  /-- frames, or watch tick boundaries, left of a DELAY -/
  left : Nat := 0
  /-- 1 retired with success by another unit, 2 failed by it (margin, PMBus, stage), 3 its EN is applied -/
  done : Nat := 0
  deriving DecidableEq, Repr

/-- One program (R100-R108, R137). -/
structure Prog where
  /-- 3 bits, STATE; R137; 0 -/
  state : Nat := 0
  /-- 4 bits, STATUS; R108; 0 -/
  status : Nat := 0
  /-- 1 bit, ABORT_LATE; R121; 0 -/
  abortLate : Bool := false
  /-- 1 bit, MARGIN_FAIL; R104; 0 -/
  marginFail : Bool := false
  /-- 1 bit, PMBUS_FAIL; R104; 0 -/
  pmbusFail : Bool := false
  /-- 1 bit, ALREADY; R109; 0 -/
  already : Bool := false
  /-- 13 bits, STEP; R137; 0 -/
  step : Nat := 0
  /-- 8 x 13 bits, call stack; R102; empty -/
  stack : List Nat := []
  /-- steps fetched and not retired; R105; none -/
  items : List Item := []
  /-- entry after the fetched step or set; R105; 0 -/
  next : Nat := 0
  /-- a due step was left by the ceiling, taken first at the next boundary; R49; no -/
  deferred : Bool := false
  /-- the program ended at this boundary's order 4; R121; no -/
  endedNow : Bool := false
  /-- it has ended, and the command that launched it has not been told; R108; no -/
  untold : Bool := false
  deriving DecidableEq, Repr

/-- Domain states (R94). -/
inductive Domain where
  | off | poweringUp | up | poweringDown | resuming | partialUp
  deriving DecidableEq, Repr

def Domain.code : Domain → Nat
  | .off => 0 | .poweringUp => 1 | .up => 2 | .poweringDown => 3 | .resuming => 4 | .partialUp => 5

/-- A rail command decided by the sequencer, applied at order 7 of the boundary it is due (R110, R125). -/
inductive RailCmd where
  | enable (grail : Nat) (fig : Fig) (prog idx order : Nat)
  | retry (grail : Nat)
  | resume (grail : Nat)
  | release (grail prog idx : Nat)
  /-- `src` asked for it; `owner` waits for its outcome -/
  | stageStart (member stage vset slew : Nat) (src owner : Owner) (wait : Bool)
  | stageRetry (stage : Nat)
  | marginGo (grail : Nat)
  deriving DecidableEq, Repr

/-- A STAGE_START asked for by a host command (R305). -/
structure StartOp where
  member : Nat := 0
  stage : Nat := 0
  vset : Nat := 0
  slew : Nat := 0
  wait : Bool := false
  seq : Nat := 0
  cand : Cand := {}
  deriving DecidableEq, Repr

/-- The rail sequencer (R94-R137). -/
structure Seq where
  /-- 3 bits, DOMAIN; R94; OFF -/
  domain : Domain := .off
  /-- 64 programs; R137; idle -/
  progs : Tbl Prog := []
  /-- 8192 x 64 bits, on-table; R100; 0 -/
  onTable : Tbl Nat := []
  /-- 8192 x 64 bits, on-table mirror; R17; 0 -/
  mirror : Tbl Nat := []
  /-- mirror words changed since the last commit; R17; none -/
  dirty : List Nat := []
  /-- 32 bits, SEQ_FLAGS; R135; 0 -/
  flags : W32 := 0
  /-- 1 bit, ON_PENDING; R118; 0 -/
  onPending : Bool := false
  /-- a held on request launches at this boundary's order 4; R118; no -/
  onLaunch : Bool := false
  /-- rails of the resume set; R118; none -/
  resumeSet : List Nat := []
  /-- rail commands with frames left until they are applied; R110, R125; none -/
  cmds : List (Nat × RailCmd) := []
  /-- margins under way; R89, R90; none -/
  margins : List MOp := []
  /-- stage starts offered by host commands; R305; none -/
  starts : List StartOp := []
  /-- programs the last on request launched; R94; none -/
  onset : List Nat := []
  /-- per GRAIL: one more than the tick of the last rail-acting step retired; R106; none -/
  acted : Tbl Nat := []
  /-- rails of the part whose predecessor slots were all true at order 4 of the last boundary; R99, R109; none -/
  preds : List Nat := []
  /-- per stage: it is regulated and its REG_TICKS, as order 2 found them, none for one not configured; R99; none -/
  stg0 : Tbl (Option (Bool × Nat)) := []
  /-- figures of the ENABLE that last started another member's rail, by GRAIL; R146, R178; none -/
  rfig : Tbl Fig := []
  /-- retry candidates of other members, by GRAIL; R126, R157; none -/
  rcand : Tbl Cand := []
  deriving DecidableEq, Repr

/-- The off-sequencer (R112-R119, R127). -/
structure Off where
  /-- 2048 x 64 bits, off-table, both copies alike; R112; 0 -/
  table : Tbl Nat := []
  /-- 1 bit, OFF_RUN; R133; 0 -/
  run : Bool := false
  /-- the run is full; R133; no -/
  full : Bool := false
  /-- 2 bits, RUN_SRC; R133; 0 -/
  src : Nat := 0
  /-- 16 bits, groups of a group run; R114; 0 -/
  groups : Nat := 0
  /-- rails of the run set; R114; none -/
  set : List Nat := []
  /-- rails the run released, last first; R118; none -/
  released : List Nat := []
  /-- rails of the run set still to be released; R114, R154; none -/
  toRelease : List Nat := []
  /-- 3 bits, OFF_CLASS; R133; 0 -/
  cls : Nat := 0
  /-- a class is open; R115; no -/
  opened : Bool := false
  /-- 11 bits, OFF_POS; R133; 0 -/
  pos : Nat := 0
  /-- frames left of the class's LIMIT; R115; 0 -/
  limit : Nat := 0
  /-- frames a PAUSE still holds the walk; R115; 0 -/
  pause : Nat := 0
  /-- 1 bit, OFF_LATE; R133; 0 -/
  late : Bool := false
  /-- the run took effect at this boundary, walking begins at the next; R115; no -/
  fresh : Bool := false
  /-- waiting for the class-done of every member: frames left; R127; none -/
  sync : Option Nat := none
  /-- members whose class-done has arrived; R127; none -/
  syncGot : List Nat := []
  /-- the run completed at this boundary; R121; no -/
  ended : Bool := false
  /-- a word uncorrectable in both copies has been skipped in this run; R27; no -/
  skipped : Bool := false
  /-- table passed: the rails of the run still to be released, one a frame; R27; none -/
  sweep : List Nat := []
  deriving DecidableEq, Repr

/-! ## Fault policy -/

/-- A queued fault (R143, R144). -/
structure FQ where
  rail : Nat := 0
  kind : Nat := 0
  mult : Nat := 1
  state : Nat := 0
  dir : Bool := false
  react : Nat := 0
  retryCnt : Nat := 0
  shutdown : Bool := false
  escalated : Bool := false
  onset : Ts := {}
  det : Frame := 0
  /-- found because the bank supply fell; R62 -/
  vio : Bool := false
  /-- the other kinds found on the rail at the same boundary, each to be counted; R139 -/
  more : List Nat := []
  /-- a repeat that entered this entry exhausted its retries, or reset the system; R144, R168 -/
  exhAlso : Bool := false
  sysAlso : Bool := false
  deriving DecidableEq, Repr

/-- The first-fault capture (R159-R161, R173). -/
structure FF where
  f : FQ := {}
  ties : Nat := 0
  samples : List Nat := []
  age : Nat := 0
  interval : Nat := 0
  /-- LEDGER_VALID: T1.3 has written the ledger state -/
  ledgerValid : Bool := false
  /-- the ledger state after the last pass before detection: INRUSH, POWER, THERMAL, TICK -/
  ledger : Nat × Nat × Nat × Nat := (0, 0, 0, 0)
  /-- T1.3 has raised its event -/
  told : Bool := false
  deriving DecidableEq, Repr

/-- A rail group's restart (R150). -/
structure Grp where
  /-- 4 bits, COUNT; R172; 0 -/
  count : Nat := 0
  /-- a fault-sourced run over the group is in progress; R150; no -/
  owed : Bool := false
  /-- watch tick boundaries left; R150; none -/
  left : Option Nat := none
  deriving DecidableEq, Repr

/-- The fault policy (R138-R173). -/
structure Flt where
  /-- first-fault capture; R159; none -/
  ff : Option FF := none
  /-- fault queue; R144; empty -/
  queue : List FQ := []
  /-- 8 bits, QLOST; R170; 0 -/
  qlost : Nat := 0
  /-- QLOST rose since T1.3 last ran; R168; no -/
  qlostNew : Bool := false
  /-- 1 bit, SYSRST; R170; 0 -/
  sysrst : Bool := false
  /-- frames since SYSRST# was asserted, to 32; R153; 0 -/
  sysrstAge : Nat := 0
  /-- watch tick boundaries until SYSRST# is released; R153; none -/
  rstLeft : Option Nat := none
  /-- a SYSTEM_RESET's full run is in progress and the restart policy follows; R155; no -/
  restartOwed : Bool := false
  /-- watch tick boundaries left of the restart delay; R155 RESTART_PEND; none -/
  restartLeft : Option Nat := none
  /-- 4 bits, RESTARTS; R155; 0 -/
  restarts : Nat := 0
  /-- 1 bit, RESTART_EXH; R155; 0 -/
  restartExh : Bool := false
  /-- one more than the whole watch ticks DOMAIN has stayed UP, saturating; R155; 0 -/
  upTicks : Nat := 0
  /-- 8 bits, WDT_EXP; R170; 0 -/
  wdtExp : Nat := 0
  /-- a tray expiry's run is in progress, the watchdog reset follows; R166; no -/
  wdtRun : Bool := false
  /-- watch tick boundaries left of GRACE; R166; none -/
  grace : Option Nat := none
  /-- the watchdog holds every EN released; R166 rank 2; no -/
  wdtHold : Bool := false
  /-- a watchdog reset happened: the restart policy applies after A; R166; no -/
  wdtRestart : Bool := false
  /-- 16 groups; R172; idle -/
  grps : Tbl Grp := []
  /-- 7 bits, FLT_CNT_CUR.RAIL and VALID; R171; none -/
  cntSel : Option Nat := none
  /-- FLT_CNT_SEL write of this frame; R171; none -/
  cntPend : Option Nat := none
  /-- FLT_CNT0-5 as refreshed; R171; 0 -/
  cntWin : List Nat := []
  /-- faults detected at this boundary, before order 3 reacts; R139; none -/
  found : List FQ := []
  deriving DecidableEq, Repr

end Sys2Proof.Machine
end

