-- ==== Sys2Proof/Machine/StConv.lean ====
section
/-! DEFINITION. Machine/StConv.lean: state of the draught ledger, damper, current sharing, input loss and of the
converter array (chapters 6, 7). -/

namespace Sys2Proof.Machine

/-! ## Draught ledger (R174-R183, R200) -/

/-- What a commitment is for (R179). -/
inductive CKey where
  | rail (grail : Nat)
  | stage (st : Nat)
  | margin (rail : Nat)
  deriving DecidableEq, Repr

/-- A commitment held from a grant (R179). -/
structure Commit where
  key : CKey
  power : Nat := 0
  thermal : Nat := 0
  /-- watch ticks it is still held where no report can end it (log 77); none -/
  left : Option Nat := none
  deriving DecidableEq, Repr

/-- An entry of the admission log (R183). -/
structure ALog where
  frame : Frame := 0
  order : Nat := 0
  jseq : Nat := 0
  inrush : Nat := 0
  power : Nat := 0
  thermal : Nat := 0
  id : Nat := 0
  kind : Nat := 0
  result : Nat := 0
  prio : Nat := 0
  cInrush : Nat := 0
  cSteady : Nat := 0
  cThermal : Nat := 0
  deriving DecidableEq, Repr

/-- The draught ledger. -/
structure Drt where
  /-- 16 bits, INRUSH after the last pass; R200; 0 -/
  inrush : Nat := 0
  /-- 16 bits, POWER after the last pass; R200; 0 -/
  power : Nat := 0
  /-- 16 bits, THERMAL after the last pass; R200; 0 -/
  thermal : Nat := 0
  /-- 16 bits, DEBT; R175, R200; 0 -/
  debt : Nat := 0
  /-- 32 bits, TICK of the last pass; R200; 0 -/
  tick : Nat := 0
  /-- inputs latched at the watch tick boundary: the balances T1.2 forms; R174; none -/
  latched : Option (Nat × Nat × Nat) := none
  /-- commitments in force; R179; none -/
  commits : List Commit := []
  /-- 8 bits, BG; R200; 0 -/
  bg : Nat := 0
  /-- per class: refusals; R181; 0 -/
  refused : Tbl Nat := []
  /-- 1024 x 256 bits, admission log, newest first; R183; empty -/
  log : List ALog := []
  /-- 32 bits, DRT_ALOG.HEAD; R183; 0 -/
  head : Nat := 0
  /-- THERMAL of each stack member by INDEX; R182; none -/
  memberTherm : Tbl (Option Nat) := []
  /-- sum in uW and count of the frames of P_MEAS in this tick; R176; 0 -/
  pmSum : Int := 0
  pmCnt : Nat := 0
  /-- 16 bits, P_MEAS at the last replenishment, 100 mW; R176; 0 -/
  pMeas : Nat := 0
  /-- tray power of the last 32 frames, 100 mW, newest first; R186; none -/
  pHist : List Nat := []
  /-- background tasks of class 7 wait; R181; none -/
  other : Bool := false
  deriving DecidableEq, Repr

/-! ## Damper (R184-R188, R201) -/

/-- The damper. -/
structure Dmp where
  /-- 3 bits, LEVEL; R201; 0 -/
  level : Nat := 0
  /-- level T2.1 chose in this frame, applied at the next boundary; R186; none -/
  staged : Option Nat := none
  /-- a row cap is in force and its value; R184; none -/
  rowCap : Option Nat := none
  /-- 1 bit, MISS; R187; 0 -/
  miss : Bool := false
  /-- 1 bit, UNREACH; R186; 0 -/
  unreach : Bool := false
  /-- MISS (bit 0) and UNREACH (bit 1) set in this frame (R10); 0 -/
  setNow : Nat := 0
  /-- ACTIVE_CAP T2.1 last worked with, 0 for none; R186; 0 -/
  lastCap : Nat := 0
  /-- ACTIVE_CAP at the last boundary, which T2.1 reads; R46, R186; 0 -/
  capAt : Nat := 0
  /-- the staged level follows a change of ACTIVE_CAP; R186, R187; no -/
  capNew : Bool := false
  /-- consecutive frames above the cap; R186; 0 -/
  above : Nat := 0
  /-- consecutive watch ticks below the cap less HYST; R186; 0 -/
  below : Nat := 0
  /-- every frame of the present tick was below; R186; no -/
  tickBelow : Bool := true
  /-- frames left until a new cap is judged; R187; none -/
  judge : Option Nat := none
  /-- 16 bits, TRAY_P; R201; 0 -/
  trayP : Nat := 0
  /-- 4 bits, THROTTLE# lines asserted; R185; 0 -/
  throttle : Nat := 0
  /-- POL bindings whose write of the current level is not finished; R188; none -/
  polPend : List Nat := []
  deriving DecidableEq, Repr

/-! ## Sharing (R189, R190, R202) -/

/-- One rectifier. -/
structure Rect where
  /-- 1 bit, online; R190; 0 -/
  online : Bool := false
  /-- consecutive failed reads; R190; 0 -/
  fails : Nat := 0
  /-- last READ_IOUT, LINEAR11; R189; 0 -/
  iout : Nat := 0
  /-- last READ_PIN, LINEAR11; R176; 0 -/
  pin : Nat := 0
  /-- last STATUS_WORD; R190; 0 -/
  status : Nat := 0
  /-- input fault shown in this round; R191; no -/
  inFault : Bool := false
  /-- online when this round began; R191; no -/
  onAt : Bool := false
  /-- 16 bits signed mV, VOUT_TRIM; R189; 0 -/
  trim : Int := 0
  /-- a trim staged by T2.4 for the next boundary; R58; none -/
  staged : Option Int := none
  /-- consecutive rounds outside 3 %; R189; 0 -/
  bad : Nat := 0
  /-- its VOUT_MODE was read and is linear; R88, R189; no -/
  linear : Bool := false
  /-- exponent of its VOUT_MODE; R189; 0 -/
  voutExp : Nat := 0
  deriving DecidableEq, Repr

/-- Rectifier current sharing. -/
structure Shr where
  /-- 16 rectifiers; R190; offline -/
  rects : Tbl Rect := []
  /-- watch ticks until the round ends; R189; 0 -/
  left : Nat := 0
  /-- 16 bits, SPREAD; R202; 0 -/
  spread : Nat := 0
  /-- summed current of the last round in A / 65536; R189; 0 -/
  lastSum : Int := 0
  deriving DecidableEq, Repr

/-! ## Input loss (R191-R194, R203) -/

/-- Input loss and the battery shelf. -/
structure Inl where
  /-- 1 bit, INLOSS; R203; 0 -/
  loss : Bool := false
  /-- the loss was declared from the rectifiers, without a bus entry; R191; no -/
  fromRects : Bool := false
  /-- consecutive frames of the bus below LOSS; R191; 0 -/
  lowRun : Nat := 0
  /-- loss found in this frame, declared at the boundary; R191; no -/
  found : Bool := false
  /-- consecutive watch ticks at or above RESTORE; R191; 0 -/
  restRun : Nat := 0
  /-- this tick: a valid result was seen, and one below RESTORE; R191; no -/
  tickSeen : Bool := false
  tickLow : Bool := false
  /-- 1 bit, READY; R192; 0 -/
  ready : Bool := false
  /-- the shelf stopped being ready during input loss, request at the next boundary; R192; no -/
  owed : Bool := false
  /-- last status byte and runtime read; R192; 0 -/
  status : Nat := 0
  /-- 16 bits, RUNTIME; R203; 0 -/
  runtime : Nat := 0
  /-- a read has succeeded; R192; no -/
  seen : Bool := false
  /-- watch ticks since the last successful read, saturating; R192 STALE; 0 -/
  age : Nat := 0
  /-- watch ticks until the next read; R192; 0 -/
  next : Nat := 0
  /-- 1 bit, SHED; R203; 0 -/
  shed : Bool := false
  /-- 12 bits, SHED_V; R203; 0 -/
  shedV : Nat := 0
  /-- 16 bits, E_NEED in 10 mJ; R203; 0 -/
  eNeed : Nat := 0
  /-- 12 bits, CNV_SHED.CODE; R244; 0 -/
  code : Nat := 0
  /-- 1 bit, CODE has been written; R234; 0 -/
  armed : Bool := false
  /-- 1 bit, BELOW; R244; 0 -/
  below : Bool := false
  /-- 2 bits, RUN; R244; 0 -/
  run : Nat := 0
  /-- the comparator has made its request; R193; no -/
  tripped : Bool := false
  /-- request to act at order 3 of the next boundary; R193; no -/
  trip : Bool := false
  deriving DecidableEq, Repr

/-! ## Converter array (R204-R248) -/

/-- What a slot converts (R204, R207, R220, R225, R230). -/
inductive SlotUse where
  | free
  | entry (e : Nat)
  | p
  | pRef
  | h
  | scrub
  | idle
  /-- a die temperature or REFCHK conversion of low-power mode -/
  | low (kind : Nat)
  deriving DecidableEq, Repr

/-- A result register (R215, R247). -/
structure Res where
  code : Nat := 0
  ovr : Bool := false
  under : Bool := false
  valid : Bool := false
  rcv : Bool := false
  urg : Bool := false
  sus : Bool := false
  miss : Bool := false
  slice : Nat := 0
  ts : Ts := {}
  deriving DecidableEq, Repr

/-- Window states (R227). -/
inductive WSt where
  | unknown | inside | outside
  deriving DecidableEq, Repr

/-- One entry of a core with its result, window and telemetry counters. -/
structure Ent where
  res : Res := {}
  /-- the result register as it stood at the last boundary, which the engines read; R46 -/
  seen : Res := {}
  /-- the last result with VALID at a boundary; R260, R267 -/
  good : Res := {}
  /-- written since the entry's settings last changed; R215; no -/
  win : WSt := .unknown
  /-- 8 bits, consecutive frames INSIDE; R228; 0 -/
  inCnt : Nat := 0
  /-- results since the last one staged; R239; 0 -/
  dec : Nat := 0
  /-- frames until its conversions count again after a change; R205; 0 -/
  stall : Nat := 0
  /-- waits in a started sequence for a free slot; R207; no -/
  waiting : Bool := false
  deriving DecidableEq, Repr

/-- A slice (R216, R219-R222). -/
structure Slice where
  /-- 16 bits signed, OFS, quarter LSB; R245; 0, fuses at core power-up -/
  ofs : Int := 0
  /-- 8 bits signed, TRIM; R245; 0, fuses at core power-up -/
  trim : Int := 0
  /-- 18 bits, GAIN; R245; 0, fuses at core power-up -/
  gain : Int := 0
  /-- scrub pending, from this grid point on: the next conversion that begins is a scrub; R220; none -/
  scrub : Option Nat := none
  /-- clamped by this channel's input; R222; none -/
  clamp : Option Nat := none
  /-- a second scrub is due behind the pending one: the first conversion that begins after the boundary; R222; no -/
  again : Bool := false
  /-- frame of the last scrub: its later results carry RCV; R221; none -/
  scrubFrame : Option Frame := none
  /-- sum and count of RAMP deviations; R219; 0 -/
  rampSum : Int := 0
  rampCnt : Nat := 0
  /-- values left by up to 32 updates of OFS, GAIN, TRIM, newest first; R219; none -/
  ofsH : List Int := []
  gainH : List Int := []
  trimH : List Int := []
  /-- 1 bit, CONV; R219; 0 -/
  conv : Bool := false
  /-- coefficients that apply from the next boundary; R219; none -/
  pend : Option (Int × Int × Int) := none
  deriving DecidableEq, Repr

/-- A fired urgent slot (R224-R226). -/
structure Urg where
  /-- 1 bit, BUSY; R245; 0 -/
  busy : Bool := false
  /-- grid point (250 ns) at which it takes effect; R225; 0 -/
  g : Nat := 0
  /-- it converts -/
  started : Bool := false
  deriving DecidableEq, Repr

/-- A sequence in progress on a core (R207, R213). -/
structure SeqRun where
  trig : Nat := 0
  /-- entries not yet placed, ascending -/
  wait : List Nat := []
  /-- entries placed whose conversion has not ended -/
  placed : List Nat := []
  /-- entries whose conversion was displaced and has not ended -/
  moved : List Nat := []
  /-- grid point from which it claims -/
  from_ : Nat := 0
  deriving DecidableEq, Repr

/-- One core (R204-R235, R245). -/
structure ACore where
  /-- 1 bit, POWERED; R245; 0 -/
  powered : Bool := false
  /-- slot plan by grid point of the end (8 x frame + slot); R205; free -/
  plan : Tbl SlotUse := []
  /-- 64 entries; R213; no result -/
  ents : Tbl Ent := []
  /-- 4 slices; R216 -/
  slices : Tbl Slice := []
  /-- 4 urgent slots; R224 -/
  urgs : Tbl Urg := []
  /-- sequences in progress, oldest first; R213; none -/
  seqs : List SeqRun := []
  /-- displaced conversions: entry, claim grid point, grid limit of a periodic one; R207; none -/
  displaced : List (Nat × Nat × Option Nat) := []
  /-- 8 housekeeping results and values; R218; 0 -/
  hk : Tbl Res := []
  hkVal : Tbl Int := []
  /-- 16 bits, SCRUBS; R245; 0 -/
  scrubs : Nat := 0
  /-- 16 bits, DROPS; R245; 0 -/
  drops : Nat := 0
  /-- 8 bits, URG_LOST; R245; 0 -/
  urgLost : Nat := 0
  /-- 8 bits, TRG_OVL; R245; 0 -/
  trgOvl : Nat := 0
  /-- 16 bits, OVRS; R245; 0 -/
  ovrs : Nat := 0
  /-- 64 bits, CNV_WLEAVE; R245; 0 -/
  leave : BitVec 64 := 0
  /-- window-leave bits set in this frame (R10); 0 -/
  leaveNow : BitVec 64 := 0
  /-- over-range and dropped events raised in this tick, occurrences since the last raising; R242; 0 -/
  ovrTick : Bool := false
  dropTick : Bool := false
  ovrOcc : Nat := 0
  dropOcc : Nat := 0
  /-- P result of this frame; R229; none -/
  pRes : Option Res := none
  /-- low-power mode in force; R232; no -/
  lp : Bool := false
  /-- next entry of the low-power rotation; R232; 0 -/
  lpNext : Nat := 0
  deriving DecidableEq, Repr

/-- A plausibility pair (R229-R231). -/
structure PPair where
  /-- 3 bits, DISAGREE; R244; 0 -/
  disagree : Nat := 0
  /-- 2 bits, SUSPECT; R244; 0 -/
  suspect : Nat := 0
  /-- the vote has been made and not restored; R230; no -/
  raised : Bool := false
  /-- the P slots of the next frame convert REFCHK; R230; no -/
  vote : Bool := false
  /-- consecutive agreeing comparisons; R231; 0 -/
  agree : Nat := 0
  deriving DecidableEq, Repr

/-- A core pair's reference (R211, R212). -/
structure RefMon where
  /-- 2 bits, the selection taken at the last activation; R211; 0 -/
  sel : Nat := 0
  /-- 1 bit, REFRDY; R244; 0 -/
  rdy : Bool := false
  /-- 1 bit, FAULT; R244; 0 -/
  fault : Bool := false
  /-- FAULT set in this frame (R10) -/
  faultNow : Bool := false
  /-- frames since power-up or a selection change, to 4096; R212; 0 -/
  age : Nat := 0
  /-- consecutive frames within 0.05 %; R212; 0 -/
  good : Nat := 0
  deriving DecidableEq, Repr

/-- A system calibration (R237). -/
structure CalRun where
  /-- channels of the group -/
  chans : List Nat := []
  n : Nat := 16
  e0 : Int := 0
  e1 : Int := 0
  /-- per channel: sum of codes and count of this phase -/
  acc : Tbl (Nat × Nat) := []
  /-- C0 per channel -/
  c0 : Tbl Int := []
  /-- a configuration was activated since the ZERO phase; R237 STALE; no -/
  stale : Bool := false
  seq : Nat := 0
  deriving DecidableEq, Repr

/-- A staged telemetry result (R239, R240). -/
structure TelRes where
  frame : Frame := 0
  core : Nat := 0
  entry : Nat := 0
  res : Res := {}
  eng : Int := 0
  deriving DecidableEq, Repr

/-- The converter array. -/
structure Cnv where
  /-- 4 cores; R204 -/
  cores : Tbl ACore := []
  /-- pairs AC0/AC1 and AC2/AC3; R229 -/
  pairs : Tbl PPair := []
  /-- references; R212 -/
  refs : Tbl RefMon := []
  /-- 2 bits, CORE_CUR; R244; 0 -/
  wsel : Nat := 0
  /-- 2 bits, CBLK_CUR; R244; 0 -/
  cblk : Nat := 0
  /-- write of CNV_WSEL in this frame; R244; none -/
  wselPend : Option Nat := none
  /-- 64 x 32 bits, CNV_RESe_HI latches; R247; 0 -/
  resHi : Tbl Nat := []
  /-- 4 bits, LEVEL; R244; 0 -/
  trgLevel : Nat := 0
  /-- 2 bits, CNV_CALSTAT.STATE; R244; 0 -/
  calState : Nat := 0
  /-- 8 bits, DONE; R244; 0 -/
  calDone : Nat := 0
  /-- 4 bits, RESULT; R244; 0 -/
  calResult : Nat := 0
  /-- calibration in progress or awaiting FULL; R237; none -/
  cal : Option CalRun := none
  /-- results staged for telemetry, oldest first; R239; none -/
  staged : List TelRes := []
  /-- results of the frame in progress and of the previous one; R46; none -/
  now : List TelRes := []
  prev : List TelRes := []
  /-- 16 bits, LOST; R244; 0 -/
  lost : Nat := 0
  /-- telemetry-loss event raised in this tick; R239; no -/
  lostTick : Bool := false
  deriving DecidableEq, Repr

end Sys2Proof.Machine
end

