-- ==== Sys2Proof/Machine/StLink.lean ====
section
/-! DEFINITION. Machine/StLink.lean: state of the stages and of the Scaca link, stacks, pairs and rows
(chapters 8, 10). -/

namespace Sys2Proof.Machine

/-! ## Stages -/

/-- Stage states (R254). -/
inductive SState where
  | unused | off | kindling | moving | regulated | capped | hiccup | safeOff | held
  deriving DecidableEq, Repr

def SState.code : SState → Nat
  | .unused => 0 | .off => 1 | .kindling => 2 | .moving => 3 | .regulated => 4 | .capped => 5 | .hiccup => 6
  | .safeOff => 7 | .held => 8

/-- Histories of one biquad stage: x[n-1], x[n-2], y[n-1], y[n-2] (R258). -/
structure Bq where
  x1 : Int := 0
  x2 : Int := 0
  y1 : Int := 0
  y2 : Int := 0
  deriving DecidableEq, Repr

/-- What T4.1 or T4.2 commits at the end of its run, applied at order 7 (R58). -/
structure SCommit where
  u : Int := 0
  /-- first duty of a kindling start -/
  first : Bool := false
  /-- a firmware stage fault with its cause -/
  fault : Option Nat := none
  /-- the soft stop has ended -/
  stop : Bool := false
  /-- regulated, capped or back -/
  goto : Option SState := none
  /-- trims of the balance, by phase (R267) -/
  trims : List (Nat × Int) := []
  deriving DecidableEq, Repr

/-- One stage (R249-R287). -/
structure Stg where
  /-- 4 bits, STATE; R254, R285; UNUSED -/
  st : SState := .unused
  /-- the generation in force uses the stage -/
  used : Bool := false
  /-- the phases switch (a first duty has been committed); R264; no -/
  switching : Bool := false
  /-- ticks of 156.25 ps from the start of phase 0's running period to the boundary; R47, R251; 0 -/
  pwmPos : Nat := 0
  /-- bit per phase dropped; R274; 0 -/
  dropped : Nat := 0
  /-- 1 bit, SAT; R261; 0 -/
  sat : Bool := false
  /-- 1 bit, OVF; R261; 0 -/
  ovf : Bool := false
  /-- SAT (bit 0) and OVF (bit 1) as hardware set them in this frame (R10); 0 -/
  setNow : Nat := 0
  /-- 4 bits, FCAUSE; R285; 0 -/
  fcause : Nat := 0
  /-- 8 bits, CONSEC_HIC; R269; 0 -/
  consecHic : Nat := 0
  /-- 1 bit, FLOORED; R268; 0 -/
  floored : Bool := false
  /-- frames at the floor above ICAP; R268; 0 -/
  floorCnt : Nat := 0
  /-- cap-floor event raised in this stay; R268; no -/
  floorTold : Bool := false
  /-- 1 bit, SUS; R285; 0 -/
  sus : Bool := false
  /-- 24 bits, SP, 10 uV; R285; 0 -/
  sp : Nat := 0
  /-- 24 bits, TARGET, 10 uV; R285; 0 -/
  target : Nat := 0
  /-- set-point of the STAGE_START that last started it, 10 uV; R151; 0 -/
  vset : Nat := 0
  /-- 12 bits, SLEW; R285; 0 -/
  slew : Nat := 0
  /-- 24 bits signed, U last committed; R260, R285; 0 -/
  u : Int := 0
  /-- on-time of phase 0 was clamped in the previous frame: 1 at DMAX, 2 at DMIN; R259; 0 -/
  clamped : Nat := 0
  /-- 16 bits, HICCUPS; R285; 0 -/
  hiccups : Nat := 0
  /-- 16 bits, REG_TICKS; R256; 0 -/
  regTicks : Nat := 0
  /-- regulated at every boundary since the last tick boundary; R256; no -/
  tickReg : Bool := false
  /-- 16 bits, VOUT, mV; R285; 0 -/
  vout : Nat := 0
  /-- 16 bits, IOUT, 100 mA; R285; 0 -/
  iout : Nat := 0
  /-- 4 filter stages' histories; R258; 0 -/
  bqs : List Bq := [{}, {}, {}, {}]
  /-- integrator; R259; 0 -/
  integ : Int := 0
  /-- x of the previous instance; R259; 0 -/
  xPrev : Int := 0
  /-- boundary of the last stage fault: a start applied there is discarded; R278; none -/
  faultAt : Option Frame := none
  /-- time-stamp of the output result T4.1 last used; R262; none -/
  lastTs : Option Ts := none
  /-- consecutive in-band frames at target; R265; 0 -/
  inBand : Nat := 0
  /-- frames a start has waited for a valid result; R264; 0 -/
  startWait : Nat := 0
  /-- the next instance presets the ramp; R264; no -/
  preset : Bool := false
  /-- boundaries left of the hiccup; R269; 0 -/
  hicLeft : Nat := 0
  /-- frames of each phase low; R274; 0 -/
  lowCnt : Tbl Nat := []
  /-- the current-sense check failed at the last run; R275; no -/
  chkBad : Bool := false
  /-- drops decided by T4.2, with WHY, applied at order 7; R274; none -/
  drops : List (Nat × Nat) := []
  /-- staged commit; R58; none -/
  staged : Option SCommit := none
  /-- reference code, count, lowest and highest u of the frozen monitor; R271; none -/
  frz : Option (Nat × Nat × Int × Int) := none
  /-- frames without a valid output result; R272; 0 -/
  noFb : Nat := 0
  /-- consecutive OV and UV results; R272; 0 -/
  ovRun : Nat := 0
  uvRun : Nat := 0
  /-- leg samples in mV at the last boundary and whether each stepped; R270; none -/
  legs : List (Int × Bool) := []
  /-- faults found by hardware since the last order 3, lowest code first; R276; none -/
  found : Option Nat := none
  /-- hiccup found since the last order 3; R269; no -/
  hicFound : Bool := false
  /-- suspect run reported; R273; no -/
  susTold : Bool := false
  /-- 4 bits, RETRY_CNT; R172; 0 -/
  retryCnt : Nat := 0
  /-- 1 bit, FAULTED; R172; 0 -/
  faulted : Bool := false
  /-- watch ticks of BACKOFF left; R151; none -/
  backoff : Option Nat := none
  /-- the stage as a ledger candidate; R151; none -/
  retry : Option Cand := none
  /-- 1 bit, PENDING; R285; 0 -/
  pending : Bool := false
  /-- percentage cap of the damper level; R185; 100 -/
  capPct : Nat := 100
  /-- owners of starts that wait for REGULATED; R111; none -/
  waiters : List Owner := []
  /-- a pair's mirrored "running" flag; R280; no -/
  wasRunning : Bool := false
  deriving DecidableEq, Repr

/-- One phase (R287). -/
structure Phase where
  /-- 16 bits signed, TRIM; R287; 0 -/
  trim : Int := 0
  /-- 8 bits, LIMCNT; R287; 0 -/
  limcnt : Nat := 0
  /-- 2 bits, WHY; R287; 0 -/
  why : Nat := 0
  /-- on-time in ticks of the last switching period begun by the end of this frame; R47, R251; 0 -/
  onTicks : Nat := 0
  deriving DecidableEq, Repr

/-! ## Link -/

/-- A link frame to send: its header and payload (R322, R323); no destination is a broadcast. -/
structure LinkTx where
  kind : Nat := 0
  src : Nat := 0
  dst : Option Nat := none
  seq : Nat := 0
  payload : BitVec 256 := 0
  deriving DecidableEq, Repr

/-- One Scaca port (R321-R327, R353). -/
structure Port where
  /-- 3 bits, STATE; R326; DOWN -/
  st : Nat := 0
  /-- frames in the present state, to 4096; R326, R327; 0 -/
  age : Nat := 0
  /-- 1 bit, RX_INV; R353; 0 -/
  rxInv : Bool := false
  /-- 12 bits, PEER; R353; 0 -/
  peer : Nat := 0
  /-- 16 bits, DELAY, 100 ps; R353; 0 -/
  delay : Nat := 0
  /-- 16 bits, HDR_ERR; R353; 0 -/
  hdrErr : Nat := 0
  /-- 16 bits, DISCARD; R353; 0 -/
  discard : Nat := 0
  /-- 16 bits, RETRAINS; R353; 0 -/
  retrains : Nat := 0
  /-- link frames received, modulo 131072 (R21 WORD_ADDR); 0 -/
  rxCount : Nat := 0
  /-- sum of the last 64 hop delays in 100 ps and their number; R332; none -/
  delays : List Nat := []
  /-- frames without a valid boundary sequence; R327; 0 -/
  lost : Nat := 0
  /-- header failures in this watch tick; R327; 0 -/
  tickErr : Nat := 0
  /-- SYNC exchanges since joining, to 64; R333; 0 -/
  syncs : Nat := 0
  /-- frames that take slots of the present frame, at most 12; R322, R340; none -/
  tx : List LinkTx := []
  /-- frames that wait for a slot; R340; none -/
  txq : List LinkTx := []
  deriving DecidableEq, Repr

/-- A row node as the master holds it (R342, R353). -/
structure RNode where
  demand : Nat := 0
  floor : Nat := 0
  cap : Nat := 0
  valid : Bool := false
  inloss : Bool := false
  ready : Bool := false
  level : Nat := 0
  domain : Nat := 0
  deriving DecidableEq, Repr

/-- The row first fault (R344). -/
structure RFF where
  ts : Ts := {}
  node : Nat := 0
  grail : Nat := 0
  kind : Nat := 0
  conc : Nat := 0
  unaligned : Bool := false
  deriving DecidableEq, Repr

/-- A rail of a stack member as a receiver views it (R336). -/
structure View where
  st : Nat := 0
  db : Bool := false
  pred : Bool := false
  gt : Nat := 0
  known : Bool := false
  tickGood : Bool := false
  deriving DecidableEq, Repr

/-- A command record of the stack master (R337). -/
inductive CmdRec where
  | enAssert (member rail : Nat)
  | enRelease (member rail : Nat)
  | margin (member rail : Nat) (w ext : Nat)
  | stageStart (member stage vset slew : Nat)
  | offRun (member : Nat) (full : Bool) (groups : Nat)
  | sysrst (member : Nat)
  | takeover (member : Nat)
  deriving DecidableEq, Repr

/-- The Scaca block (R321-R348, R353). -/
structure Sca where
  /-- 4 ports; R321 -/
  ports : Tbl Port := []
  /-- 1 bit, CAND strap as sampled; R328, R353; 0 -/
  cand : Bool := false
  /-- row: lowest candidate ID heard; R329; none -/
  rowElect : Option Nat := none
  /-- watch ticks its own ID has come back unbeaten; R329; 0 -/
  rowTicks : Nat := 0
  /-- own ID came back in this tick -/
  rowBack : Bool := false
  /-- 12 bits, MASTER; R353; 0 -/
  master : Nat := 0
  /-- a row master is known; R329; no -/
  hasMaster : Bool := false
  /-- 1 bit, MEMBER; R353; 0 -/
  member : Bool := false
  /-- 1 bit, IS_MASTER; R353; 0 -/
  isMaster : Bool := false
  /-- 3 bits, REFUSED; R353; 0 -/
  refused : Nat := 0
  /-- frames by which the highest counter heard before an election leads; R334; 0 -/
  ahead : Nat := 0
  /-- 13 bits, HOPS; R353; 0 -/
  hops : Nat := 0
  /-- 21 bits, SCA_ROWD.DELAY, ns; R353; 0 -/
  delay : Nat := 0
  /-- watch ticks since the row master's SYNC; R330; 0 -/
  syncAge : Nat := 0
  /-- watch ticks until the loss cap; R343; none -/
  holdLeft : Option Nat := none
  /-- 16 bits signed, ERR, 0.1 ns; R353; 0 -/
  err : Int := 0
  /-- 1 bit, ALIGNED; R353; 0 -/
  aligned : Bool := false
  /-- 2 bits, SRC; R353; 0 -/
  src : Nat := 0
  /-- row nodes at the master; R342 -/
  nodes : Tbl RNode := []
  /-- 12 bits, node shown in SCA_RTAB; R353; 0 -/
  rsel : Nat := 0
  /-- write of SCA_RSEL in this frame; R353; none -/
  rselPend : Option Nat := none
  /-- row first fault; R344; none -/
  rff : Option RFF := none
  /-- broadcasts of the present capture still to be made, one a tick; R342; 0 -/
  bcast : Nat := 0
  /-- per-kind SEQ of frames sent; R323; 0 -/
  txSeq : Tbl Nat := []
  /-- (SRC, KIND, SEQ) of frames already taken; R339; none -/
  seen : List (Nat × Nat × Nat) := []
  /-- stack: lowest candidate heard, ticks back, elected; R329 -/
  stkElect : Option Nat := none
  stkTicks : Nat := 0
  stkBack : Bool := false
  /-- this device runs the stack; R329; no -/
  stkMaster : Bool := false
  /-- a candidate that is not elected runs as a member; R329; no -/
  stkMember : Bool := false
  /-- 3 bits, SCA_STK.ELECTED; R353; 0 -/
  elected : Nat := 0
  /-- 11 bits, RTT; R353; 0 -/
  rtt : Nat := 0
  /-- 1 bit, RING_OK; R353; 0 -/
  ringOk : Bool := false
  /-- view of every rail of the stack by GRAIL; R336 -/
  view : Tbl View := []
  /-- members lost; R130; 0 -/
  lostMembers : Nat := 0
  /-- member: watch ticks since a STATUS of the master; R130; 0 -/
  stkAge : Nat := 0
  /-- the member has lost its master and acts alone; R130; no -/
  alone : Bool := false
  /-- frames CMDLOSS is still shown; R337; 0 -/
  cmdLoss : Nat := 0
  /-- members whose BACKLOG is set; R336; 0 -/
  backlog : Nat := 0
  /-- frames until received command records apply, with the record; R337; none -/
  rx : List (Nat × CmdRec) := []
  /-- records the master sends in the frame that starts, and those of the frame before, sent again; R337; none -/
  tx : List CmdRec := []
  txRep : List CmdRec := []
  /-- hardware-sourced off requests a member has yet to report: full, group, of SYSTEM_RESET; R128, R336; none -/
  stReqs : List (Bool × Nat × Bool) := []
  /-- own rails whose change no STATUS has carried yet; R336; none -/
  stDirty : List Nat := []
  /-- rail of the next refresh record; R336; 0 -/
  stRefresh : Nat := 0
  /-- members whose STATUS arrived in this frame; R336; 0 -/
  stGot : Nat := 0
  /-- own rail statuses after order 2 of the last boundary and of the two before it (R99, R125): STATE, PG_DB,
  GOOD_TICKS by rail; none -/
  own0 : Tbl View := []
  own1 : Tbl View := []
  own2 : Tbl View := []
  /-- watch ticks of JOIN_WAIT left for the stack and for the pair; R459, R460; none -/
  joinStack : Option Nat := none
  joinPair : Option Nat := none
  /-- members that have joined; R459; 0 -/
  joined : Nat := 0
  deriving DecidableEq, Repr

/-- An item of a pair's snapshot (R349). -/
inductive SnapItem where
  | prog (n : Nat) (p : Prog)
  | domain (d : Domain) (onPending : Bool)
  | off (o : Off)
  | rail (r : Nat) (retryCnt backoff : Nat) (retryPend escalated : Bool) (resume retry : Option Cand) (fig : Fig)
  | grp (n : Nat) (g : Grp)
  | restart (owed : Bool) (left : Option Nat) (count : Nat) (exh sysrst : Bool) (rst : Option Nat)
  | ledger (inrush power thermal debt : Nat) (commits : List Commit)
  | damper (level : Nat) (rowCap : Option Nat)
  | trim (n : Nat) (v : Int)
  | stage (s target slew dropped consecHic : Nat) (running : Bool)
  deriving DecidableEq, Repr

/-- The redundant pair (R345-R351, R354). -/
structure Pair where
  /-- 2 bits, ROLE; R354; 0 -/
  role : Nat := 0
  /-- 1 bit, PARTNER_UP; R354; 0 -/
  up : Bool := false
  /-- 1 bit, READY; R354; 0 -/
  ready : Bool := false
  /-- the partner's READY; R346; 0 -/
  partnerReady : Bool := false
  /-- watch ticks XRST_OUT# is still asserted; R347; none -/
  xrstOut : Option Nat := none
  /-- 4 bits, LAST_CAUSE; R354; 0 -/
  lastCause : Nat := 0
  /-- 16 bits, TAKEOVERS; R354; 0 -/
  takeovers : Nat := 0
  /-- 12 bits, PARTNER; R354; 0 -/
  partner : Nat := 0
  /-- 16 bits, SEQs awaiting JACK, with frames waited; R349 UNACKED; none -/
  unacked : List (Nat × Nat) := []
  /-- 16 bits, ENLOSS; R354; 0 -/
  enLoss : Nat := 0
  /-- 32 bits, PAIR_SNAP.TICK; R354; 0 -/
  snap : Nat := 0
  /-- a snapshot has been adopted; R349; no -/
  adopted : Bool := false
  /-- items and frame numbers of the snapshot arriving; R349; none -/
  arriving : Option (Nat × List Nat × List SnapItem) := none
  /-- the adopted snapshot; R349; none -/
  held : List SnapItem := []
  /-- vectors received for boundaries to come: frames left and vector; R346; none -/
  vecs : List (Nat × BitVec 96) := []
  /-- vector last applied; R346; 0 -/
  vec : BitVec 96 := 0
  /-- vectors formed at this and the previous boundary; R345; 0 -/
  formed : BitVec 96 := 0
  formedPrev : BitVec 96 := 0
  /-- frames without a valid PAIR_EN; R347; 0 -/
  miss : Nat := 0
  /-- a valid PAIR_EN arrived in this frame; no -/
  got : Bool := false
  /-- last HBMISS received; R346; 0 -/
  hbMiss : Nat := 0
  /-- HBMISS sent; R346; 0 -/
  ownHb : Nat := 0
  /-- frames into which Q and T of a handover lead; SEQ of the command; R350; none -/
  toQ : Option Nat := none
  toT : Option Nat := none
  hoSeq : Option Nat := none
  /-- quiet: the sequencer retires nothing; R350; no -/
  quiet : Bool := false
  /-- takeover of the stack named by the master: boundaries left; R348; none -/
  named : Option Nat := none
  /-- PARTNER_LOST of this device; R348; no -/
  partnerLost : Bool := false
  /-- pair EN loss event raised in this tick; R352; no -/
  lossTick : Bool := false
  /-- SYNC exchange with the partner has passed (IDENT); R346; no -/
  ident : Bool := false
  deriving DecidableEq, Repr

end Sys2Proof.Machine
end

