-- ==== Sys2Proof/Machine/StNv.lean ====
section
/-! DEFINITION. Machine/StNv.lean: state of the flash and its record layer, of firmware update and the flue port,
and of power, reset and boot (chapters 11, 13, 14 and the ember record of chapter 6). -/

namespace Sys2Proof.Machine

/-! ## Configuration generations -/

/-- A stored configuration image: header fields of R380 and the content of its body. -/
structure Image where
  gen : Nat := 0
  format : Nat := 1
  size : Nat := 64
  probation : Nat := 0
  sysCal : Bool := false
  fuse : Nat := 0
  /-- every cfg field as register words, by key -/
  regs : Tbl W32 := []
  /-- graph region and on-table entries -/
  onTable : Tbl Nat := []
  offTable : Tbl Nat := []
  /-- it declares a host link (R33) -/
  hostLink : Bool := true
  deriving DecidableEq, Repr

/-- The configuration state record (R381). -/
structure GenState where
  cur : Nat := 0
  prev : Nat := 0
  pend : Nat := 0
  /-- the current generation is on probation -/
  prob : Bool := false
  deriving DecidableEq, Repr

/-- The firmware state record (R434). -/
structure FwRec where
  phase : Nat := 0
  confBank : Bool := false
  prevValid : Bool := false
  damaged : Nat := 0
  recovery : Bool := false
  confVersion : Nat := 0
  candVersion : Nat := 0
  window : Nat := 0
  confSvn : Nat := 0
  candSvn : Nat := 0
  candMdig : Nat := 0
  confMdig : Nat := 0
  deriving DecidableEq, Repr

/-! ## Flash jobs -/

/-- An ember record (R197). -/
structure Ember where
  /-- W0 to W15, 256 bits each -/
  words : List Nat := []
  rseq : Nat := 0
  deriving DecidableEq, Repr

/-- What a write of the record layer stores (R359, R367, R372, R412). -/
inductive JobUse where
  | image (im : Image)
  | genState (g : GenState)
  | tag (bytes : List Byte)
  | fwState (r : FwRec)
  | record (im : Img)
  | clear (im : Img)
  | ember (e : Ember)
  /-- a refresh intent: sector, CRC-64 of its bytes -/
  | intent (sector crc : Nat) (done : Bool)
  /-- a firmware sector copied to the staging sector -/
  | staging (sector : Nat)
  /-- and back -/
  | restore (sector : Nat)
  /-- the position of the sweep -/
  | progress (pos : Nat)
  /-- the newest copies of region k are written back into half h after its erase (R365) -/
  | back (k h : Nat)
  deriving DecidableEq, Repr

/-- A write in progress: codewords left of the copy being written, and whether it is twin B (R361). -/
structure Job where
  use : JobUse := .progress 0
  rseq : Nat := 0
  twinB : Bool := false
  left : Nat := 1
  /-- SEQ of the command it belongs to, 0 for none -/
  seq : Nat := 0
  /-- RESULT of that command -/
  res : Nat := 0
  /-- the copy has been begun at its write point -/
  begun : Bool := false
  /-- codeword address of the copy once it is begun -/
  at_ : Nat := 0
  /-- only a missing twin is written (R364) -/
  only : Bool := false
  /-- the codewords of copies written back (R365) -/
  data : List W256 := []
  deriving DecidableEq, Repr

/-- A record copy begun in flash: the codeword address of its header, and what the layer wrote there (R358, R361). -/
structure Copy where
  at_ : Nat := 0
  use : JobUse := .progress 0
  rseq : Nat := 0
  twinB : Bool := false
  deriving DecidableEq, Repr

/-- Why a sector is erased. -/
inductive EraseUse where
  | recorder
  | mirror
  | counters (grp : Nat)
  /-- half h of the one-sector region k -/
  | half (k h : Nat)
  /-- an image slot of a configuration half -/
  | slot
  | staging
  /-- the firmware sector of a refresh -/
  | refresh
  deriving DecidableEq, Repr

/-- A counter group (R367-R371): active sector and the pairs used by each of its 8 rails. -/
structure CGroup where
  /-- false: X, true: Y -/
  y : Bool := false
  /-- pairs of each rail used in the active sector -/
  used : Tbl Nat := []
  deriving DecidableEq, Repr

/-- The flash and the record layer (R355-R386). -/
structure Nv where
  /-- 48 bits, record sequence counter in PD0; R358; 1 -/
  rseq : Nat := 1
  /-- 131072 codewords of 266 bits; R21, R355, R356; erased, a firmware bank as delivered -/
  flash : Tbl (Option Codeword) := []
  /-- copies of records begun and not erased, the oldest first; R358, R361; none -/
  copies : List Copy := []
  /-- uncorrectable codewords whose event has been raised since they were written; R26; none -/
  badAt : List Nat := []
  /-- an erase that a reset or a power failure interrupted is made again at boot; R365; none -/
  again : Option (Nat × EraseUse) := none
  /-- writes asked for, in order; the front one is in progress; R355; none -/
  jobs : List Job := []
  /-- the job whose codeword was being programmed as a reset or a power failure began: that codeword runs to its end; R37,
  R446; none -/
  tail : Option Job := none
  /-- erases asked for, the front one in progress: sector; R355; none -/
  erases : List (Nat × EraseUse) := []
  /-- images that have an accepted copy, by GEN; R381; none -/
  images : Tbl (Option Image) := []
  /-- state record accepted in flash; R381; none accepted -/
  stored : Option GenState := none
  /-- NV_GEN_CUR, NV_GEN_PREV, NV_GEN_PEND in force; R386; 0 -/
  gen : GenState := {}
  /-- watch ticks of probation left; R383 NV_PROB.LEFT; none -/
  prob : Option Nat := none
  /-- 1 bit, REVERT_DUE; R386; 0 -/
  revertDue : Bool := false
  /-- activation or revert that waits for its boundary: AT_FRAME, GEN, probation seconds, SEQ, revert; R51; none -/
  at_ : Option (Frame × Nat × Nat × Nat × Bool) := none
  /-- 1 bit, EMBER_ARMED; R386; 0 -/
  armed : Bool := false
  /-- 16 bits, TORN; R386; 0 -/
  torn : Nat := 0
  /-- 1 bit, NVWP filtered; R377, R386; released -/
  nvwp : Bool := false
  /-- boundaries the other level has been seen; R377; 0 -/
  nvwpCnt : Nat := 0
  /-- 2048 bytes, user tag in force; R378; never written -/
  tag : List Byte := []
  /-- codewords used in half h of the one-sector region k, by 2k + h (0 tag, 1 ember, 2 boot control); R365; 0 -/
  wp : Tbl Nat := []
  /-- image slot 0-3 of each half that holds a GEN; R357, R381; none -/
  slotOf : Tbl (Option Nat) := []
  /-- 17 bits, POS; R386; 0 -/
  sweepPos : Nat := 0
  /-- 1 bit, SWEEP; R386; 0 -/
  sweep : Bool := false
  /-- frame the last sweep began; R374; none -/
  sweepBegan : Option Frame := none
  /-- 16 bits, WEAK; R386; 0 -/
  weak : Nat := 0
  /-- 16 bits, SWEEPS; R386; 0 -/
  sweeps : Nat := 0
  /-- erase counts per sector; R386 MAX_ERASE; 0 -/
  wear : Tbl Nat := []
  /-- 12 counter groups; R367 -/
  cgroups : Tbl CGroup := []
  /-- counters in flash per rail with the RSEQ of their pair; R368; 0 -/
  counters : Tbl (List Nat × Nat) := []
  /-- watch ticks since the rail's last update, to 256; R369; 256 -/
  cAge : Tbl Nat := []
  /-- 16 bits, SWITCHES; R386; 0 -/
  switches : Nat := 0
  /-- refresh intent found or written and not done: sector, CRC-64; R376; none -/
  intent : Option (Nat × Nat) := none
  /-- next codeword of the 65-sector mirror ring; R372; 0 -/
  mirrorPos : Nat := 0
  /-- the next mirror sector is erased; R372; yes -/
  mirrorRoom : Bool := true
  deriving DecidableEq, Repr

/-! ## Firmware and flue port -/

/-- The header fields of an image (R413). -/
structure FwHdr where
  bytes : List Byte := []
  version : Nat := 0
  svn : Nat := 0
  keyId : Nat := 0
  flags : Nat := 0
  bodySize : Nat := 0
  cfgMin : Nat := 0
  cfgMax : Nat := 0
  deriving DecidableEq, Repr

/-- An open flue session (R420-R424). -/
structure Sess where
  id : Nat := 0
  /-- 1 OPEN, 2 HEADER, 3 DOWNLOAD, 4 VERIFIED, 5 arming, 6 awaiting H (R441) -/
  st : Nat := 1
  hdr : FwHdr := {}
  /-- body bytes accepted -/
  body : List Byte := []
  /-- previous packet: offset and bytes -/
  last : Option (Nat × List Byte) := none
  /-- bytes of the packet being programmed -/
  busy : Bool := false
  mdig : List Byte := []
  /-- request asked for at ACTIVATE: AT_FRAME and WINDOW -/
  atFrame : Nat := 0
  window : Nat := 0
  tag : Nat := 0
  /-- watch ticks since a valid request -/
  idle : Nat := 0
  /-- a header was refused: no body byte is accepted in the session (R414) -/
  noBody : Bool := false
  /-- the session reached ACTIVATE and its response has not been read (R420) -/
  keep : Bool := false
  deriving DecidableEq, Repr

/-- Figures of an image that runs or is held (R412, R413, R415). -/
structure FwImg where
  version : Nat := 0
  svn : Nat := 0
  cfgMin : Nat := 0
  cfgMax : Nat := 0
  mdig : List Byte := []
  /-- forward and reverse handover costs of CE0-CE7 in cycles -/
  xfer : List Nat := []
  rev : List Nat := []
  raiseSvn : Bool := false
  deriving DecidableEq, Repr

/-- Firmware update (R412-R441). -/
structure Fw where
  /-- firmware state record in force; R434; CONFIRMED, bank A -/
  state : FwRec := {}
  /-- accepted copy in flash; R435; none -/
  stored : Option FwRec := none
  /-- 1 bit, RUN_BANK; R441; 0 -/
  runBank : Bool := false
  /-- image running and image in the other bank; R441; 0 -/
  run : FwImg := {}
  other : Option FwImg := none
  /-- open session; R420; none -/
  sess : Option Sess := none
  /-- response ready to be read; R417; none -/
  resp : Option (List Byte) := none
  /-- a request is being worked on, FL_RDY low; R417; no -/
  busy : Bool := false
  /-- 16 bits, FL_CNT.CRC_ERR; R441; 0 -/
  crcErr : Nat := 0
  /-- 16 bits, FL_CNT.DISCARD; R441; 0 -/
  discard : Nat := 0
  /-- FW_LAST: STATUS, CMD, COUNT; R441; 0 -/
  lastStatus : Nat := 0
  lastCmd : Nat := 0
  refusals : Nat := 0
  /-- handover frame chosen; R425; none -/
  h : Option Frame := none
  /-- the handover is a reverse one; R433; no -/
  reverse : Bool := false
  /-- the ARMED record awaits acceptance; R424; no -/
  arming : Bool := false
  /-- 48 bits, FW_HOVER; R441; 0 -/
  hover : Frame := 0
  /-- 16 bits, FW_HOVER_HI latch; R441; 0 -/
  hoverHi : Nat := 0
  /-- engines whose transfer runs; R428; none -/
  xferring : List Nat := []
  /-- watch ticks of the probation window left; R433; none -/
  left : Option Nat := none
  /-- frames until the reset of a recovery activation; R437; none -/
  recReset : Option Nat := none
  /-- SVN fuse minimum raised by confirmation; R433; 0 above the fuses -/
  svnMin : Nat := 0
  /-- CONFIRM waits for its record, with the TAG; R433; none -/
  confirm : Option Nat := none
  /-- the engines run the new image and its transfer is not yet told complete; R428, R429; no -/
  finishing : Bool := false
  /-- bank a recovery session writes; R437; A -/
  target : Bool := false
  /-- a fuse of the owner clear key failed to program; R438; no -/
  keyFail : Bool := false
  /-- random draws made; R406, R420; 0 -/
  draws : Nat := 0
  deriving DecidableEq, Repr

/-! ## Power, reset, boot -/

/-- Where the part stands between power-up and operation (R451, R456, R437). -/
inductive PPhase where
  /-- PD0 unpowered -/
  | dead
  /-- main reset: PORST#, supplies or XRST_IN# not yet released -/
  | reset
  /-- ROM stage from m0 -/
  | rom
  /-- supervisor image runs the boot scan -/
  | start
  /-- domains powered, boundary A awaited -/
  | waitA
  /-- a generation is active -/
  | run
  | ember
  | recovery
  /-- TESTEN sampled high: the part stays in reset -/
  | test
  deriving DecidableEq, Repr

/-- The ember staging buffer (R20, R197). -/
structure Stage where
  /-- four snapshots, newest first, two 256-bit words each -/
  snaps : List (Nat × Nat) := []
  /-- delta entries: rail, CNT, DELTA -/
  deltas : List (Nat × Nat × Nat) := []
  overflow : Bool := false
  deriving DecidableEq, Repr

/-- What the shared SRAM holds, as ember mode keeps it (R16, R36). -/
structure Sram where
  /-- descriptors fetched, by command ring -/
  descs : Tbl (List (Frame × Desc)) := []
  /-- completions staged -/
  compls : List Compl := []
  /-- telemetry staged -/
  staged : List TelRes := []
  /-- program contexts -/
  progs : Tbl Prog := []
  /-- draught ledger accounts -/
  drt : Drt := {}
  deriving DecidableEq, Repr

/-- Supplies, resets, boot and ember mode (R33-R37, R195-R197, R442-R462). -/
structure Pwr where
  phase : PPhase := .reset
  /-- boundaries each supply has been above its rising threshold, to 64: VHOLD, VCORE, VIO18, VDDA; R442; 0 -/
  good : Tbl Nat := []
  /-- PORST# sampled asserted; R447; asserted -/
  porst : Bool := true
  /-- XRST_IN# asserted; R448; no -/
  xrst : Bool := false
  /-- boundaries every condition of R447 has held, to 64; R447; 0 -/
  ready : Nat := 0
  /-- 8 bits, CAUSE; R461; 0 until the first boot -/
  cause : Nat := 0
  /-- cause of the next boot; R445; 0x01 -/
  nextCause : Nat := 1
  /-- 2 bits, BOOTFAIL; R461; 0 -/
  bootFail : Nat := 0
  /-- 1 bit, RECOV; R461; 0 -/
  recov : Bool := false
  /-- 1 bit, MCAND; R461; 0 -/
  mcand : Bool := false
  /-- RECOV# is ignored at the next boot; R437, R450; no -/
  ignoreRecov : Bool := false
  /-- 1 bit, FALLBACK; R461; 0 -/
  fallback : Bool := false
  /-- events found before A, source and DETAIL, raised at A; R444, R451, R462; none -/
  tell : List (Nat × BitVec 128) := []
  /-- internal journal entries made behind the BOOT entry, OPCODE, DIGEST and RESULT; R383, R435, R437; none -/
  jtell : List (Nat × Nat × Nat) := []
  /-- DIGEST of the coming BOOT entry; R315; 0 -/
  bootDigest : Nat := 0
  /-- frames since m0; R451; 0 -/
  since : Nat := 0
  /-- 32 bits, BOOT_FRAMES; R461; 0 -/
  bootFrames : Nat := 0
  /-- frames until A (128 after the domains are powered); R35, R451; none -/
  toA : Option Nat := none
  /-- generation chosen for A; R384; 0 -/
  genA : Nat := 0
  /-- 12 bits, domains powered (bit n: PDn); R33; PD0 -/
  domains : Nat := 1
  /-- domain with frames until it is usable; R35; none -/
  pending : Tbl Nat := []
  /-- the on request of R454 is due at the next boundary; none -/
  onAtA : Bool := false
  /-- an on request held for a stack or pair to form; R459, R460; no -/
  heldOn : Bool := false
  /-- ember staging buffer; R20 -/
  stage : Stage := {}
  /-- newest ember record accepted in flash; R196; none -/
  ember : Option Ember := none
  /-- ember records written since manufacture; R197; 0 -/
  emberSeq : Nat := 0
  /-- the ember record being written; R196; none -/
  writing : Option Ember := none
  /-- the writer is done with the record; R456; yes -/
  emberDone : Bool := true
  /-- recorder images flushed by the ember writer; R395; none -/
  flushed : List Nat := []
  /-- shared SRAM contents while ember mode lasts; R36; none -/
  sram : Option Sram := none
  /-- the generation declares a host link; R33, R452; yes -/
  hostLink : Bool := true
  /-- PD0 power-up: the journal opens a new epoch, from this highest SEQ; R313; none -/
  epoch : Bool := true
  /-- the ember record found at boot is still to be told; R199; no -/
  emberTell : Bool := false
  deriving DecidableEq, Repr

end Sys2Proof.Machine
end

