-- ==== Sys2Proof/Syntax.lean ====
section
/-! DEFINITION. Syntax.lean: the commands of the JN-9608, one constructor per row of spec/opcode_table.json, and
their operands: what the outside world supplies with each command. -/

namespace Sys2Proof

open Machine

/-- What a read of the shared SRAM was to deliver (R16, R27). -/
inductive SItem where
  /-- a word of no item that State lists -/
  | none
  /-- the k-th staged telemetry result -/
  | staged (k : Nat)
  /-- the oldest fetched descriptor of a command ring -/
  | descriptor (ring : Nat)
  deriving DecidableEq, Repr

/-- A read of a word that an engine made in the frame just ended (R21-R27): structure, address, engine, PLL cycle. -/
structure WordRead where
  struct : Nat := 0
  addr : Nat := 0
  reader : Nat := 0
  /-- what a read of the shared SRAM was to deliver -/
  item : SItem := .none
  cyc : Nat := 0
  deriving DecidableEq, Repr

/-- What the firmware of an engine did with its memories in the frame just ended (R14, R16, R28). -/
inductive FwAct where
  /-- bits `mask` of a word take those of `data` -/
  | store (engine struct addr : Nat) (mask data : W256)
  | sem (engine n : Nat) (taken : Bool)
  | bell (engine dest : Nat) (rung : Bool)
  deriving DecidableEq, Repr

/-- The levels that a frame boundary samples. The defaults are a quiet boundary with every supply good. -/
structure BoundaryIn where
  /-- mV at each PG ball; 0 where not listed -/
  pg : List (Nat × Int) := []
  /-- mV at each EN ball; 0 where not listed -/
  en : List (Nat × Int) := []
  /-- rails whose EN current limit acted in the frame just ended -/
  ilim : List Nat := []
  /-- mV at PG balls 1500 ns into the frame just ended, where an open-wire test ran; as at the boundary where not listed -/
  pg15 : List (Nat × Int) := []
  vhold : Int := 12000
  vcore : Int := 800
  vio18 : Int := 1800
  vdda : Int := 1800
  vioa : Int := 3300
  viob : Int := 3300
  porst : Bool := false
  xrst : Bool := false
  nvwp : Bool := false
  /-- per stage: mV of each leg of its used voltage channels -/
  legs : List (Nat × List Int) := []
  /-- phases of which a period has ended without a trip since their last trip (R269) -/
  quiet : List Nat := []
  /-- MDACs whose ball is outside 0.3-1.2 V -/
  mdacOut : List Nat := []
  /-- reference buffers of the two core pairs outside 0.05 % -/
  refOut : List Nat := []
  /-- channels whose clamp detector is set -/
  clamps : List Nat := []
  /-- bits of stored codewords that flipped in the frame just ended: structure, address, bits (R22) -/
  upsets : List (Nat × Nat × BitVec 266) := []
  reads : List WordRead := []
  acts : List FwAct := []
  /-- PLL cycle of the scrubber's reads -/
  scrubCyc : Nat := 0
  /-- engines that did not service the watchdog in the frame just ended -/
  wedged : List Nat := []
  /-- the PCIe link is up -/
  link : Bool := true
  /-- background tasks of class 7 wait (R181) -/
  other : Bool := false
  deriving DecidableEq, Repr

/-- A BAR0 or BAR2 access: offset, size in bytes, PLL cycle of the frame at which it arrives. -/
structure Access where
  off : Nat := 0
  size : Nat := 4
  cyc : Nat := 0
  deriving DecidableEq, Repr

/-- A link frame of the Scaca ports (R322, R323): port, header fields, payload codeword as received. -/
structure LFrame where
  port : Nat := 0
  src : Nat := 0
  dst : Nat := 0
  seq : Nat := 0
  bcast : Bool := false
  /-- the header CRC holds -/
  hdrOk : Bool := true
  data : W256 := 0
  chk : BitVec 10 := 0
  deriving DecidableEq, Repr

/-- A SYNC as its port measures it (R328, R332): round trip and turnaround in 100 ps, correction carried in ns, phase
error found in ps, boundary sequence good, hops of this part from the source, the sender's frame number, and whether
the sender is the elected node. -/
structure SyncIn where
  f : LFrame := {}
  rtt : Nat := 0
  turn : Nat := 0
  corr : Nat := 0
  err : Int := 0
  good : Bool := true
  hops : Nat := 0
  frame : Frame := 0
  master : Bool := false
  /-- filter reports lock (R333) -/
  lock : Bool := true
  deriving DecidableEq, Repr

/-- A flue request packet without its CMD byte, which the row gives (R418). -/
structure Flue where
  tag : Nat := 0
  /-- LEN as sent -/
  len : Nat := 0
  session : Nat := 0
  payload : List Byte := []
  /-- CRC-32 as sent -/
  crc : Nat := 0
  deriving DecidableEq, Repr

/-- What a PMBus transaction attempt delivers (R87). -/
inductive PmbAns where
  | ack
  | data (v : Nat)
  | nack
  deriving DecidableEq, Repr

/-- A descriptor fetch: 64 bytes and the buffer as the host interface reads it, or a failed access (R296). -/
inductive Fetched where
  | ok (bytes : List Byte) (buf : List Byte) (dmaOk : Bool)
  | bad (addr : Nat)
  deriving DecidableEq, Repr

/-- The straps and what the ROM finds in flash at the start of a boot (R376, R435, R450). -/
structure BootIn where
  recov : Bool := false
  mcand : Bool := false
  testen : Bool := false
  /-- bank A and bank B verify -/
  okA : Bool := true
  okB : Bool := true
  /-- a mask ROM word reads uncorrectable -/
  romBad : Bool := false
  deriving DecidableEq, Repr

/-- The commands (spec/opcode_table.json). -/
inductive Instr where
  -- boundary, power, reset, boot
  | frameBoundary (b : BoundaryIn)
  | watchTickBoundary (b : BoundaryIn)
  | pd0PowerUp
  | supplyGood (supply : Nat)
  | porstAsserted
  | bootBegin (b : BootIn)
  /-- `upsets`: bits of stored codewords that flipped before the scan: structure, address, bits -/
  | firmwareStart (upsets : List (Nat × Nat × BitVec 266))
  | domainPowerUp (pd : Nat)
  | bootActivation
  | bootOnRequest
  | bootFailure
  | lockAutoOpen
  | powerFailure (cause : Nat) (cyc : Nat)
  | emberRecorderFlush (n : Nat)
  | emberModeExit
  | xrstInAssert
  | xrstInRelease
  | referenceClockLost
  | referenceClockReturn
  | nvwpChange (level : Bool)
  -- rail pins
  | vioOkRise (bank : Nat)
  | vioOkFall (bank : Nat)
  | trgEdgeAccepted (trg : Nat) (rising : Bool) (cyc : Nat)
  | pgDebouncedGood (rail : Nat)
  | pgLost (rail : Nat)
  | pgLate (rail : Nat)
  | enShort (rail : Nat) (hi : Bool) (ilim : Bool)
  | enOpen (rail : Nat)
  | assistTest (rail : Nat)
  | assistTestResult (rail : Nat) (ilim : Bool)
  | pgOpenTest (rail : Nat) (level : Bool)
  | pgStuck (rail : Nat)
  | enFoldBack (rail : Nat)
  | minOffElapsed (rail : Nat)
  | marginSettleExpiry (rail : Nat)
  | marginVerifyDone (rail : Nat)
  | pmbusTransactionDone (master : Nat) (ans : PmbAns)
  | pmbusSclTimeout (master : Nat)
  | pmbusWatcherPoll (n : Nat)
  -- sequencing
  | ledgerPass (cyc : Nat)
  | commitmentEnd (key : CKey)
  | delayExpiry (prog : Nat)
  | stepDeadlineExpiry (prog : Nat)
  | offClassLimitExpiry
  | offPauseExpiry
  | dischMet (rail : Nat)
  | offRunComplete
  | heldOnRequestLaunch
  -- faults
  | faultPolicy (cyc : Nat)
  | backoffExpiry (rail : Nat)
  | heal (rail : Nat)
  | groupRestart (grp : Nat)
  | restartDelayExpiry
  | restartWindowExpiry
  | sysrstReleaseDelay
  | watchdogExpiry (engine : Nat)
  | watchdogGraceExpiry
  | watchdogReset
  -- draught, damper, input
  | inputLossDeclared
  | inputRestored
  | shedComparatorTrip
  | batteryPoll
  | batteryNotReadyOff
  | damperTask (cyc : Nat)
  | damperCapChange (cyc : Nat)
  | damperRaise (cyc : Nat)
  | damperRelax (cyc : Nat)
  | damperJudgement
  | sharingRound (cyc : Nat)
  -- converter
  | conversionEnd (core : Nat) (slot : Nat) (r : Int) (clamp : Bool)
  | sliceUnclamp (core : Nat) (slice : Nat)
  | plausibilityRestore (pair : Nat)
  | conversionDropped (core : Nat) (entry : Nat)
  | urgentConversionStart (core : Nat) (k : Nat)
  | refrdySet (pair : Nat)
  | referenceFaultTimeout (pair : Nat)
  | refrdyFall (pair : Nat)
  | calPhaseDone
  /-- T3.1; `run`: its cycles, and the urgent slots that engine writes fire in it (core, slot, PLL cycle of the frame) -/
  | converterPostProcessing (run : Nat × List (Nat × Nat × Nat))
  | telemetryPosting (cyc : Nat)
  | emberSnapshot (cyc : Nat)
  | sequencerService (cyc : Nat)
  | pmbusService (cyc : Nat)
  | taskOverrun (engine : Nat) (task : Nat)
  -- stages
  | stageControlTask (stage : Nat) (cyc : Nat)
  | phaseDiagnosticsTask (stage : Nat) (cyc : Nat)
  | stageRegulated (stage : Nat)
  | kindlingStartTimeout (stage : Nat)
  | cycleLimitTrip (phase : Nat) (consecutive : Bool)
  | hiccupEntry (stage : Nat)
  | hiccupExpiry (stage : Nat)
  | consecHicHeal (stage : Nat)
  | senseOpen (stage : Nat) (legs : List Int)
  | frozen (stage : Nat)
  | nofb (stage : Nat)
  | stageOv (stage : Nat)
  | stageUv (stage : Nat)
  | overrunSafeOff (stage : Nat)
  | capFloor (stage : Nat)
  | stageRetryBackoff (stage : Nat)
  | stageRetryCntHeal (stage : Nat)
  -- BAR0 and BAR2
  | setUpWrite (a : Access) (v : BitVec 64)
  | glbLockWrite (v : W32) (cyc : Nat)
  | seqCtrlAbort (v : W32)
  | fltCtrlFfClear (v : W32)
  | fltCtrlSysrstRel (v : W32)
  | stgLoadCommit (stage : Nat) (v : W32)
  | glbLoadClear (engine : Nat) (v : W32)
  | fltCntSelWrite (v : W32)
  | cnvWselWrite (v : W32)
  | evtCselWrite (v : W32)
  | evtWclogPop (v : W32)
  | scaRselWrite (v : W32)
  | glbFrameLoRead (cyc : Nat)
  | hstJheadLoRead
  | hstJoldLoRead
  | hstJmirLoRead
  | cnvResLoRead (entry : Nat)
  | evtWclog0Read
  | fwHoverLoRead
  | crDoorbell (ring : Nat) (v : W32)
  | cqDoorbell (ring : Nat) (v : W32)
  | erDoorbell (v : W32)
  | trDoorbell (v : W32)
  | descriptorFetchDone (ring : Nat) (d : List Fetched)
  | ringService (cyc : Nat)
  | completionPosting (cyc : Nat) (failed : List Nat)
  | msixModerationExpiry (vec : Nat)
  | hostInterfaceReset (link : Bool)
  | busMasterEnable (on : Bool)
  | journalMirrorWrite
  -- host commands
  | nop (ring : Nat) (d : Desc)
  | powerOn (ring : Nat) (d : Desc)
  | powerOff (ring : Nat) (d : Desc)
  | groupOff (ring : Nat) (d : Desc)
  | progLaunch (ring : Nat) (d : Desc)
  | progAbort (ring : Nat) (d : Desc)
  | progLoad (ring : Nat) (d : Desc)
  | graphLoad (ring : Nat) (d : Desc)
  | flagsSet (ring : Nat) (d : Desc)
  | retryCancel (ring : Nat) (d : Desc)
  | margin (ring : Nat) (d : Desc)
  | ffClear (ring : Nat) (d : Desc)
  | sysrstRelease (ring : Nat) (d : Desc)
  | stageStart (ring : Nat) (d : Desc)
  | stageStop (ring : Nat) (d : Desc)
  | stageClear (ring : Nat) (d : Desc)
  | loopSetup (ring : Nat) (d : Desc)
  | capSet (ring : Nat) (d : Desc)
  | convStart (ring : Nat) (d : Desc)
  | convUrgent (ring : Nat) (d : Desc)
  | convCalZero (ring : Nat) (d : Desc)
  | convCalFull (ring : Nat) (d : Desc)
  | configLoad (ring : Nat) (d : Desc)
  | configActivate (ring : Nat) (d : Desc)
  | configActivateAtFrame
  | configRevert (ring : Nat) (d : Desc)
  | configCapture (ring : Nat) (d : Desc)
  | configConfirm (ring : Nat) (d : Desc)
  | journalRead (ring : Nat) (d : Desc)
  | alogRead (ring : Nat) (d : Desc)
  | countersRead (ring : Nat) (d : Desc)
  | stateRead (ring : Nat) (d : Desc)
  | recRead (ring : Nat) (d : Desc)
  | recFreeze (ring : Nat) (d : Desc)
  | recThaw (ring : Nat) (d : Desc)
  | recChallenge (ring : Nat) (d : Desc)
  | recClear (ring : Nat) (d : Desc)
  | tagWrite (ring : Nat) (d : Desc)
  | tagRead (ring : Nat) (d : Desc)
  | pairHandover (ring : Nat) (d : Desc)
  | configProbationExpiry
  | configAutoRevert
  -- link
  | portSeek (port : Nat)
  | portLock (port : Nat) (inverted : Bool)
  | portIdent (port : Nat)
  /-- `fw`: how the partner's firmware stands to this part's (R432): 0 they may join, 1 this part is on probation and
  the partner runs the previous image confirmed and not armed, 2 both are confirmed on different manifests -/
  | portUp (port : Nat) (peer : Nat) (role : Nat) (rtt : Nat) (delay : Nat) (sameRow : Bool) (active : Bool) (fw : Nat)
  | portRetrain (port : Nat)
  | syncFrame (x : SyncIn)
  | electFrame (f : LFrame)
  | electionWin (row : Bool)
  | memberFrame (f : LFrame)
  | statusFrame (f : LFrame) (index : Nat)
  | cmdFrame (f : LFrame)
  | stackCommandLoss
  /-- `row`: demand, floor, INLOSS + 2 READY, level + 8 DOMAIN of a node; then a kind, 12 where the payload is a FAULT's, 14 an
  EVENT's -/
  | relayFrame (f : LFrame) (cmd : Option Desc) (row : Option (Nat × Nat × Nat × Nat) × Nat)
  | stackMemberLoss (member : Nat)
  | classSyncTimeout
  | stackJoinTimeout
  | frameCounterLoad (v : Frame)
  | rowExchange (cyc : Nat)
  | rowstatFrame (f : LFrame) (demand floor : Nat) (inloss ready : Bool) (level domain : Nat)
  | capFrame (f : LFrame) (cap : Nat)
  | faultFrame (f : LFrame) (ts : Ts) (node grail kind : Nat) (aligned : Bool)
  | faultBroadcast
  | eventFrame (f : LFrame) (o : Occ)
  | telemFrame (f : LFrame)
  | rowMasterLoss
  | rowCapHoldExpiry
  | pairEnFrame (f : LFrame)
  | pairLinkLoss
  | pairHeartbeatTakeover
  | xrstOutRelease
  | shadowReset
  | journalFrame (f : LFrame)
  | jackFrame (f : LFrame) (seq : Nat)
  | journalResend
  | mirrorFrame (f : LFrame) (tick k n : Nat) (items : List SnapItem)
  | handoverQuietPoint
  | handoverTakeover
  | pairAlone
  -- flash
  | flashProgramDone (ok : Bool)
  | flashEraseDone
  | counterRingUpdate (rail : Nat)
  | marginSweepStart
  | sweepStep (weak : List Nat) (bad : List Nat)
  -- recorder
  | recordImageMake
  | holdoffExpiry (src : Nat)
  | recorderFlush
  | freezeTimeout
  | nonceExpiry
  | clearCommit
  | clearErasure
  -- flue and firmware
  | flueRead
  | flueOpen (p : Flue)
  | flueHeader (p : Flue) (partnerProb : Bool)
  | flueData (p : Flue)
  | dataProgrammed
  /-- `upsets`: bits of flash codewords that have flipped by the time they are read: address, bits -/
  | flueVerify (p : Flue) (upsets : List (Nat × BitVec 266))
  | flueActivate (p : Flue) (loadOk : Bool) (partnerOk : Bool)
  | firmwareHandover (slow : List Nat)
  | handoverComplete
  | flueConfirm (p : Flue) (partnerOk : Bool)
  | flueStatus (p : Flue)
  | flueClose (p : Flue)
  | keyProgram (p : Flue) (fuseOk : Bool)
  | flueSessionLapse
  | firmwareProbationExpiry
  | recoveryReset
  | pgEdgeLatch (rail : Nat) (cyc : Nat)
  | pd0PowerLoss
  | unsupportedBarAccess (bar : Nat) (write : Bool) (a : Access) (v : W32)
  | msixTableWrite (off : Nat) (v : W32)
  deriving DecidableEq, Repr

end Sys2Proof
end

