-- ==== Sys2Proof/Machine/State.lean ====
section
/-! DEFINITION. Machine/State.lean: the whole state of the part, the reasons a step can stop, and the state right
after PD0 power-up. -/

namespace Sys2Proof.Machine

/-- What the part sends out: to host memory, to the links, to the buses, to the flue reader. -/
inductive Out where
  /-- a 32-byte entry written into ring r (8-15 CQ, 16 ER, 17 TR) at index i -/
  | entry (ring index : Nat) (v : BitVec 256)
  /-- the writeback block (R297), as its 32-bit words -/
  | writeback (words : List Nat)
  /-- an MSI-X message of a vector -/
  | msix (vec : Nat) (addr : BitVec 64) (data : BitVec 32)
  /-- bytes written into a host buffer -/
  | buffer (addr : Nat) (bytes : List Byte)
  /-- a command-ring fetch of n descriptors from an index -/
  | fetch (ring index n : Nat)
  /-- the answer of a register read with side effects -/
  | read (off : Nat) (v : W32)
  /-- a read that completes with Unsupported Request -/
  | unsupported (off : Nat)
  /-- a PMBus transaction put on a master -/
  | pmbus (master addr : Nat) (pec : Bool) (op : PmbOp)
  /-- a link frame in a slot of a port: header, payload and the payload's check bits (R22, R323) -/
  | frame (port : Nat) (f : LinkTx) (chk : BitVec 10)
  /-- a stack command record sent by the master, in the new or the repeat section (R337) -/
  | command (again : Bool) (r : CmdRec)
  /-- a PMBUS_WRITE on a bus of another member of the stack (R102, log 89) -/
  | busWrite (member : Nat) (w : Nat)
  /-- snapshot items sent to the shadow (R349) -/
  | snapshot (tick : Nat) (items : List SnapItem)
  /-- the bytes a flue READ shifts out -/
  | flue (bytes : List Byte)
  /-- a host command relayed over the stack ring (R306) -/
  | relay (d : Desc)
  deriving DecidableEq, Repr

/-- The state of the part: all the spec gives it, the queue of commands, and the model's own free-value counter and
output list. -/
structure State where
  /-- commands waiting, first in first out -/
  pending : List Instr := []
  clk : Clk := {}
  /-- 8 engines; R13 -/
  engs : Tbl Eng := []
  /-- 20 bits, GLB_OVR_STAT; R60; 0 -/
  ovrStat : BitVec 20 := 0
  /-- overrun bits set in this frame; R10; 0 -/
  ovrNow : BitVec 20 := 0
  wc : Wc := {}
  evt : Evt := {}
  jrn : Jrn := {}
  hst : Hst := {}
  recd : Recd := {}
  /-- BAR0 words as they read, RWS fields; R502; see reset -/
  bar0 : Tbl W32 := []
  /-- the same words in force; R502, R44 order 6; see reset -/
  cfg : Tbl W32 := []
  /-- set-up writes accepted in this frame, in order of arrival; R44 order 6; none -/
  setup : List (Nat × W32) := []
  /-- coefficients in use, by their offset; R263; 0 -/
  coef : Tbl W32 := []
  /-- 96 rails; R72 -/
  rails : Tbl Rail := []
  /-- banks A and B; R61 -/
  banks : Tbl Bank := []
  /-- 16 margin DACs; R84 -/
  mdacs : Tbl Mdac := []
  /-- queues of PM0-PM3; R87 -/
  pmb : Tbl (List PmbJob) := []
  /-- 32 status watchers; R136 -/
  watches : Tbl Watch := []
  seq : Seq := {}
  off : Off := {}
  flt : Flt := {}
  drt : Drt := {}
  dmp : Dmp := {}
  shr : Shr := {}
  inl : Inl := {}
  cnv : Cnv := {}
  /-- 4 stages; R249 -/
  stgs : Tbl Stg := []
  /-- 32 phases; R287 -/
  phases : Tbl Phase := []
  sca : Sca := {}
  pair : Pair := {}
  nv : Nv := {}
  fw : Fw := {}
  pwr : Pwr := {}
  /-- MODEL'S OWN: uses of free values so far (log 2); DESIGN CHOICE 0 -/
  free : Nat := 0
  /-- MODEL'S OWN: what the part has sent, newest first (log 14); none -/
  out : List Out := []
  deriving DecidableEq, Repr

/-- Faults. The block has no machine fault: no meaning raises one (log 4). -/
inductive Fault where
  /-- Raised by no command; stands because the interface asks for a type. Safe. -/
  | none
  deriving DecidableEq, Repr

/-- Refusals. -/
inductive Refusal where
  /-- Raised by an arm of exec whose meaning is not written. Safe: the model stops. -/
  | notModelled (mnemonic : String)
  deriving DecidableEq, Repr

/-- FLT_WDT at 0x560C holds its reset TIMEOUT of 16 frames (R170); every other set-up field reads 0 before the
first activation (DESIGN CHOICE, log 1). -/
def State.resetRegs : Tbl W32 := [(0x560C, 16)]

/-- The part right after PD0 power-up (R40, R445 CAUSE 0x01), before the main reset is released. -/
def State.reset : State := { bar0 := State.resetRegs, cfg := State.resetRegs }

end Sys2Proof.Machine
end

