-- ==== Sys2Proof/Decode.lean ====
section
/-! DEFINITION. Decode.lean: the table gives no row any bits, so no word spells a command. -/

namespace Sys2Proof

/-- No row of spec/opcode_table.json carries bits: no word of any width spells a command. -/
def decodeTableWord (_nbits _w : Nat) : Option Instr := none

end Sys2Proof
end

