-- ==== Sys2Proof/Config.lean ====
section
/-! DEFINITION. Config.lean: what one part or one installation fixes and the spec leaves open (fuses, random
values, record and image bodies, profile designs), and the free values. None of them has a body. -/

namespace Sys2Proof.Config

/-- FREE VALUE (log 2): the value of `w` bits that stands where the spec states none; the argument is
`State.free`, a counter every use advances. -/
opaque freeValue (w : Nat) : Nat → BitVec w

/-- The 64-bit fuse ID of the part (R379). -/
opaque fuseId : BitVec 64

/-- GLB_ID.GRADE, a fuse (R464). -/
opaque grade : Bool

/-- The random source (R406, R420): the value drawn at a count of draws. -/
opaque random (w : Nat) : Nat → BitVec w

/-- The SHA-256 digest of the public key that the mask ROM holds for key slot k (R414). -/
opaque keyDigest : Nat → List Byte

/-- The key fuse of R414 revokes key number k. -/
opaque keyRevoked : Nat → Bool

/-- The owner clear key as delivered: `none` while it is not programmed (R405). -/
opaque clearKeyFuse : Option (BitVec 256)

/-- The SVN fuse minimum as delivered, per image class (R414). -/
opaque svnFuse : Nat

/-- Fuse coefficients of a channel and its slice: offset, gain, trim (R216, R236), 12-bit signed steps. -/
opaque fuseCoef : Nat → Int

/-- What a rail profile of the active generation supplies (R131): nominal voltage in mV, the figures of its ENABLE steps,
MIN_GOOD; for margins the MDAC with Rtop in ohms, or none where the rail margins through PMBus, and the settle time. -/
structure RailProfile where
  nominal : Nat := 0
  prio : Nat := 0
  deadline : Nat := 0
  inrush : Nat := 0
  steady : Nat := 0
  minGood : Nat := 0
  mdac : Option (Nat × Nat) := none
  settle : Nat := 0

/-- The rail profile of a number, where it exists (R303); the spec lays no profiles out (log 10). -/
opaque railProfile : Nat → Option RailProfile

/-- The profile number that the active generation gives a GRAIL, where it has one (R303, R305 MARGIN; log 10). -/
opaque profileOf : Nat → Option Nat

/-- The bodies of a configuration image (R380) read as register words `(offset, value)`; `none` where the body
is not well formed. The spec does not lay the body out (log 9). -/
opaque imageRegs : List Byte → Option (List (Nat × Nat))

/-- The on-table entries `(index, entry)` an image body carries (log 9). -/
opaque imageOnTable : List Byte → List (Nat × Nat)

/-- The off-table entries an image body carries (log 9). -/
opaque imageOffTable : List Byte → List (Nat × Nat)

/-- The graph region's slot words an image body carries (log 9). -/
opaque imageGraph : List Byte → List (Nat × Nat)

/-- An image body declares a host link (R33, log 9). -/
opaque imageHostLink : List Byte → Bool

/-- The bytes of the image the part makes itself for a generation, by CONFIG_CAPTURE or a calibration (log 9). -/
opaque imageSize : Nat → Nat

/-- The coefficient words, from the first one up, that the design of LOOP_SETUP template t gives for the plant values; `none`
where an argument is out of range. The spec names the method and not the design's formulas (R281, log 10). -/
opaque loopDesign : Nat → List Nat → Option (List Nat)

/-- THR, OV_CODE and UV_CODE that PROT_STD gives a stage of n phases for its arguments. The spec does not say how a current or
a part of VSET becomes a code (R281, log 10). -/
opaque protCodes : Nat → Nat → List Nat → Nat × Nat × Nat

/-- A stage profile's SLEW (R305), `none` where the profile does not exist (log 10). -/
opaque stageProfile : Nat → Option Nat

/-- A calibration group preset's channels (R305), `none` where it does not exist (log 10). -/
opaque calPreset : Nat → Option (List Nat)

/-- The word a firmware bank holds at a codeword address as delivered (R412). -/
opaque factoryBank : Nat → BitVec 256

/-- Payload of the configuration state record: current, previous and pending generation, probation (R381). The spec lays
it out nowhere (log 9). -/
opaque stateWord : Nat → Nat → Nat → Bool → BitVec 256

/-- Payload of a refresh intent: CRC-64 of the sector, DONE (R376, log 9). -/
opaque intentWord : Nat → Bool → BitVec 256

/-- Payload of the sweep-progress record: the position (R374, log 9). -/
opaque progressWord : Nat → BitVec 256

/-- Body word k of the image record of a generation: its register words, on-table and off-table entries and host-link
declaration laid out in 32-byte words (R380, log 9). -/
opaque imageBody : List (Nat × Nat) → List (Nat × Nat) → List (Nat × Nat) → Bool → Nat → BitVec 256

end Sys2Proof.Config
end

