-- ==== Sys2Proof/Machine/Regs.lean ====
section
/-! DEFINITION. Machine/Regs.lean: the map of BAR0 (R463): which bits of each word are RWS, the key under which a
word is held, and the reads of words in force. -/

namespace Sys2Proof.Machine

/-- The offset lies in [lo, hi]. -/
def within (lo hi o : Nat) : Bool := decide (lo ≤ o ∧ o ≤ hi)

/-- First key of the calibration window's words: channel c holds keys calKey + 8c and + 4 (R248). -/
def calKey : Nat := 0x10000

/-- Sources whose severity is fixed (R473, R474 to R480), with the severity. -/
def fixedSev (n : Nat) : Option Nat :=
  if n = 0x01 ∨ n = 0x29 ∨ n = 0x2A ∨ n = 0x4A ∨ n = 0x4C ∨ n = 0xCC then some 3 else none

/-- RWS bits of a ring's register at +o (R320). -/
def rwsRing (o : Nat) : Nat :=
  if o = 0 then 0xFFFFF000 else if o = 4 then 0xFFFFFFFF else if o = 8 then 0x1FFF else 0

/-- RWS bits of the identity and host-ring blocks (R319, R320, R461). -/
def rwsHost (o : Nat) : Nat :=
  if o = 0x0020 then 0x0FFFC000
  else if o = 0x1000 then 1
  else if o = 0x1008 then 0xFFFFFFC0
  else if o = 0x100C then 0xFFFFFFFF
  else if within 0x1100 0x133F o then rwsRing (o % 0x20)
  else 0

/-- RWS bits of a rail bank, at an offset from its block (R93). -/
def rwsBank (o : Nat) : Nat :=
  if o < 0x300 then
    (if o % 16 = 0 then 0x0FFF0FFF else if o % 16 = 4 then 0x00FFFFFF else if o % 16 = 8 then 0x000FFFFF else 0)
  else if o = 0x300 then 1
  else if within 0x310 0x32C o then 0x00FFFF00
  else 0

/-- RWS bits of the sequencer block (R132 to R137). -/
def rwsSeq (o : Nat) : Nat :=
  if o = 0x4000 then 1
  else if o = 0x4008 then 0xFFFFFFFF
  else if within 0x4010 0x401C o then 0x3FFFFFFF
  else if within 0x4020 0x409C o then 0xFFFFFFFF
  else if within 0x4100 0x41FC o then 0x7FFF
  else if within 0x4300 0x43FC o then (if o % 8 = 0 then 0xFFFFFFFF else 0)
  else 0

/-- RWS bits of the fault-policy block (R169 to R172). -/
def rwsFlt (o : Nat) : Nat :=
  if within 0x5000 0x55FC o then
    (if o % 16 = 0 then 0x001FFFFF else if o % 16 = 4 then 0x03FFFFFF else if o % 16 = 8 then 0xFFFF else 0)
  else if o = 0x5608 then 0xFFFFFFFF
  else if o = 0x560C then 0x01FFFFFF
  else if within 0x5630 0x563C o then 0x00FFFFFF
  else if within 0x5640 0x567C o then 0x007FFFFF
  else 0

/-- RWS bits of the draught, damper, sharing and input-loss registers (R200 to R203). -/
def rwsDrt (o : Nat) : Nat :=
  if o = 0x6000 then 0x0FFFFFFF
  else if o = 0x6004 then 0x3FFFFFFF
  else if o = 0x6008 then 0xFFFF
  else if o = 0x600C then 0xFF
  else if within 0x6010 0x601C o then 0x1FFFF
  else if o = 0x6020 then 0x7FF
  else if within 0x6030 0x604C o then 0xFFFFF
  else if o = 0x6100 then 0x3FFFFFFF
  else if o = 0x6104 then 0xFFFFFFFF
  else if within 0x6110 0x6144 o then (if o % 8 = 0 then 0x07FFFFFF else 0xFFFFFFFF)
  else if within 0x6150 0x624C o then (if o % 8 = 0 then 0x07FFFFFF else 0xFFFF)
  else if o = 0x6300 then 0x1FFFFFFF
  else if within 0x6310 0x638C o then (if o % 8 = 0 then 0x7FFFF else 0xFFFF)
  else if o = 0x6400 then 0xFFFFF
  else if o = 0x6404 then 0xFFFFFF
  else if o = 0x6408 then 0xFFFFFFFF
  else if o = 0x640C then 0x7FFFFF
  else if o = 0x6410 then 0xFFFFFFFF
  else if within 0x6420 0x643C o then 0xFFFF
  else if o = 0x6440 ∨ o = 0x6444 then 0xFFFFFFFF
  else 0

/-- RWS bits of the converter block; calibration words under their keys (R243 to R248). -/
def rwsCnv (o : Nat) : Nat :=
  if o = 0x7000 then 0x7F
  else if o = 0x7004 then 0x0FFFFFFF
  else if o = 0x700C ∨ o = 0x7010 then 0xFFFF
  else if o = 0x7014 then 0xFF
  else if o = 0x7020 then 0x1F
  else if within 0x7100 0x72FC o ∧ within 0x14 0x20 (o % 0x80) then 0xFFF
  else if within 0x7400 0x77FC o then 0x03FFFFFF
  else if within 0x7800 0x7BFC o then 0xFFFFFFFF
  else if within calKey (calKey + 8 * 167 + 4) o then (if o % 8 = 0 then 0x03FFFFFF else 0xFFFF)
  else 0

/-- RWS bits of a stage's register at +o (R284). -/
def rwsStgReg (o : Nat) : Nat :=
  if o = 0x00 then 0x1FFFFFFF
  else if o = 0x04 then 0xFFFFFFFF
  else if o = 0x08 then 0x0FFFFFFF
  else if o = 0x0C then 0xFFFFFFFF
  else if o = 0x10 then 0xFFFFFFFF
  else if o = 0x14 then 0x03FFFFFF
  else if o = 0x18 then 0x00FFFFFF
  else if o = 0x1C then 0x0FFFFFFF
  else if o = 0x20 then 0x0FFFFFFF
  else 0

/-- RWS bits of a coefficient at +o (R286). -/
def rwsCoef (o : Nat) : Nat :=
  if o < 0x60 then (if o % 0x18 = 0x14 then 0x3F else 0xFFFFFF)
  else if o < 0x6C then 0xFFFFFF
  else if o = 0x6C then 0x3F
  else 0

/-- RWS bits of the stage block (R283 to R287). -/
def rwsStg (o : Nat) : Nat :=
  if o < 0x8200 then rwsStgReg (o % 0x80)
  else if o < 0x8400 then rwsCoef (o % 0x80)
  else if within 0x8400 0x84FC o then (if o % 8 = 0 then 0x3F else 0)
  else 0

/-- RWS bits of the Scaca block (R353). -/
def rwsSca (o : Nat) : Nat :=
  if o = 0x9000 then 0xFFF
  else if o = 0x9004 then 0x7F
  else if within 0x9010 0x904C o ∧ o % 16 = 12 then 0xFF
  else if o = 0x9058 then 0xFFFFF
  else if o = 0x9060 then 0xFFFFFFFF
  else if o = 0x9064 then 0xFFFF
  else 0

/-- RWS bits of the recorder block (R411, R482). -/
def rwsRec (o : Nat) : Nat :=
  if o = 0xB000 + 4 * 0xCB ∨ o = 0xB000 + 4 * 0xCC then 0xFF1E
  else if within 0xB000 0xB3FC o then 0xFF1F
  else if within 0xB400 0xB7FC o then 0xFFFFFFFF
  else if o = 0xB800 then 0xFFFFF
  else 0

/-- RWS bits of the event map (R466): SEV of a fixed source is read only. -/
def rwsEvt (o : Nat) : Nat :=
  if within 0xD000 0xD3FC o then (if (fixedSev ((o - 0xD000) / 4)).isSome then 0x3FC else 0x3FF) else 0

/-- The RWS bits of the word at an aligned offset or key; 0 for a word that has none (R8, R11, R463). -/
def rwsMask (o : Nat) : Nat :=
  if o % 4 ≠ 0 then 0
  else if o < 0x2000 then rwsHost o
  else if o < 0x4000 then rwsBank (o % 0x1000)
  else if o < 0x5000 then rwsSeq o
  else if o < 0x6000 then rwsFlt o
  else if o < 0x7000 then rwsDrt o
  else if o < 0x8000 then rwsCnv o
  else if o < 0x9000 then rwsStg o
  else if o < 0xA000 then rwsSca o
  else if within 0xB000 0xBFFF o then rwsRec o
  else if o = 0xC024 then 0xFFF
  else if within 0xD000 0xDFFF o then rwsEvt o
  else if o = 0xE000 then 0x7FFFFF
  else rwsCnv o

/-- The key of a BAR0 offset: the calibration window shows the 64 channels of the block selected (R244, R248). -/
def regKey (cblk o : Nat) : Nat := if within 0x7E00 0x7FFF o then calKey + 512 * cblk + (o - 0x7E00) else o

/-! ## Words in force -/

/-- The word in force at a key. -/
def State.cw (s : State) (k : Nat) : W32 := tget 0 s.cfg k

/-- A field of the word in force. -/
def State.cf (s : State) (k hi lo : Nat) : Nat := fld (s.cw k) hi lo

/-- A bit of the word in force. -/
def State.cb (s : State) (k i : Nat) : Bool := bit (s.cw k) i

/-- The word that reads back at a key (RWS bits, and SYSCAL). -/
def State.bw (s : State) (k : Nat) : W32 := tget 0 s.bar0 k

/-- A field of the word that reads back. -/
def State.bf (s : State) (k hi lo : Nat) : Nat := fld (s.bw k) hi lo

/-- `w` with the bits of `m` taken from `v`. -/
def merge (m : Nat) (w v : W32) : W32 :=
  (w &&& ~~~(BitVec.ofNat 32 m)) ||| (v &&& BitVec.ofNat 32 m)

/-- The word at key k takes the value v in what reads back and in what is in force (R44 order 6). -/
def State.setReg (k : Nat) (v : W32) (s : State) : State :=
  { s with bar0 := tset 0 s.bar0 k v, cfg := tset 0 s.cfg k v }

/-! ## Offsets -/

/-- First register of rail i in its bank (R93). -/
def rbase (i : Nat) : Nat := if i < 48 then 0x2000 + 16 * i else 0x3000 + 16 * (i - 48)

/-- Bank of rail i: 0 A, 1 B (R61). -/
def bankOf (i : Nat) : Nat := i / 48

/-- BKx_CTRL of a bank. -/
def bctrl (b : Nat) : Nat := 0x2300 + 0x1000 * b

/-- BKx_MDACk of MDAC k. -/
def mdacReg (k : Nat) : Nat := if k < 8 then 0x2310 + 4 * k else 0x3310 + 4 * (k - 8)

/-- FLT_RKINDi of rail i. -/
def fbase (i : Nat) : Nat := 0x5000 + 16 * i

/-- First register of stage s. -/
def sbase (st : Nat) : Nat := 0x8000 + 0x80 * st

/-- CNV_ENTc_e. -/
def entReg (c e : Nat) : Nat := 0x7400 + 0x100 * c + 4 * e

/-- First register of ring r: 0-7 CR, 8-15 CQ, 16 ER, 17 TR (R320). -/
def ringReg (r : Nat) : Nat :=
  if r < 8 then 0x1100 + 0x20 * r else if r < 16 then 0x1200 + 0x20 * (r - 8) else if r = 16 then 0x1300 else 0x1320

end Sys2Proof.Machine
end

