-- ==== Sys2Proof/Machine/Ops.lean ====
section
/-! DEFINITION. Machine/Ops.lean: named operations over the state that every family uses: its tables, time,
free values, events, the journal and completions. -/

namespace Sys2Proof.Machine

/-- The one outcome of every command: a next state (log 4). -/
abbrev Next (s : State) : Host.Outcome State Fault Refusal := .next s

/-- `f` folded over a list of items. -/
def each {α : Type} (l : List α) (f : α → State → State) (s : State) : State := l.foldl (fun s a => f a s) s

/-- `f` where the condition holds, else no change. -/
def when (c : Bool) (f : State → State) (s : State) : State := if c then f s else s

/-! ## Tables -/

/-- State of engine n (R13). -/
def State.eng (s : State) (i : Nat) : Eng := tget {} s.engs i

/-- Changes engine n (R13). -/
def State.modEng (i : Nat) (f : Eng → Eng) (s : State) : State := { s with engs := tmod {} s.engs i f }

/-- State of rail i (R72). -/
def State.rail (s : State) (i : Nat) : Rail := tget {} s.rails i

/-- Changes rail i (R72). -/
def State.modRail (i : Nat) (f : Rail → Rail) (s : State) : State := { s with rails := tmod {} s.rails i f }

/-- State of bank b (R61). -/
def State.bank (s : State) (i : Nat) : Bank := tget {} s.banks i

/-- Changes bank b (R61). -/
def State.modBank (i : Nat) (f : Bank → Bank) (s : State) : State := { s with banks := tmod {} s.banks i f }

/-- State of MDAC k (R84). -/
def State.mdac (s : State) (i : Nat) : Mdac := tget {} s.mdacs i

/-- Changes MDAC k (R84). -/
def State.modMdac (i : Nat) (f : Mdac → Mdac) (s : State) : State := { s with mdacs := tmod {} s.mdacs i f }

/-- State of status watcher n (R136). -/
def State.watch (s : State) (i : Nat) : Watch := tget {} s.watches i

/-- Changes status watcher n (R136). -/
def State.modWatch (i : Nat) (f : Watch → Watch) (s : State) : State := { s with watches := tmod {} s.watches i f }

/-- State of stage st (R249). -/
def State.stg (s : State) (i : Nat) : Stg := tget {} s.stgs i

/-- Changes stage st (R249). -/
def State.modStg (i : Nat) (f : Stg → Stg) (s : State) : State := { s with stgs := tmod {} s.stgs i f }

/-- State of phase p (R287). -/
def State.phase (s : State) (i : Nat) : Phase := tget {} s.phases i

/-- Changes phase p (R287). -/
def State.modPhase (i : Nat) (f : Phase → Phase) (s : State) : State := { s with phases := tmod {} s.phases i f }

/-- State of ring r (R294). -/
def State.ring (s : State) (i : Nat) : Ring := tget {} s.hst.rings i

/-- Changes ring r (R294). -/
def State.modRing (i : Nat) (f : Ring → Ring) (s : State) : State :=
  { s with hst := { s.hst with rings := tmod {} s.hst.rings i f } }

/-- State of MSI-X vector v (R470). -/
def State.vec (s : State) (i : Nat) : Vec := tget {} s.hst.vecs i

/-- Changes MSI-X vector v (R470). -/
def State.modVec (i : Nat) (f : Vec → Vec) (s : State) : State :=
  { s with hst := { s.hst with vecs := tmod {} s.hst.vecs i f } }

/-- State of program n (R100). -/
def State.prog (s : State) (i : Nat) : Prog := tget {} s.seq.progs i

/-- Changes program n (R100). -/
def State.modProg (i : Nat) (f : Prog → Prog) (s : State) : State :=
  { s with seq := { s.seq with progs := tmod {} s.seq.progs i f } }

/-- State of rail group n (R150). -/
def State.grp (s : State) (i : Nat) : Grp := tget {} s.flt.grps i

/-- Changes rail group n (R150). -/
def State.modGrp (i : Nat) (f : Grp → Grp) (s : State) : State :=
  { s with flt := { s.flt with grps := tmod {} s.flt.grps i f } }

/-- State of rectifier n (R190). -/
def State.rect (s : State) (i : Nat) : Rect := tget {} s.shr.rects i

/-- Changes rectifier n (R190). -/
def State.modRect (i : Nat) (f : Rect → Rect) (s : State) : State :=
  { s with shr := { s.shr with rects := tmod {} s.shr.rects i f } }

/-- State of converter core c (R204). -/
def State.core (s : State) (i : Nat) : ACore := tget {} s.cnv.cores i

/-- Changes converter core c (R204). -/
def State.modCore (i : Nat) (f : ACore → ACore) (s : State) : State :=
  { s with cnv := { s.cnv with cores := tmod {} s.cnv.cores i f } }

/-- State of plausibility pair p (R229). -/
def State.ppair (s : State) (i : Nat) : PPair := tget {} s.cnv.pairs i

/-- Changes plausibility pair p (R229). -/
def State.modPpair (i : Nat) (f : PPair → PPair) (s : State) : State :=
  { s with cnv := { s.cnv with pairs := tmod {} s.cnv.pairs i f } }

/-- State of reference of core pair p (R212). -/
def State.refm (s : State) (i : Nat) : RefMon := tget {} s.cnv.refs i

/-- Changes reference of core pair p (R212). -/
def State.modRefm (i : Nat) (f : RefMon → RefMon) (s : State) : State :=
  { s with cnv := { s.cnv with refs := tmod {} s.cnv.refs i f } }

/-- State of Scaca port p (R321). -/
def State.port (s : State) (i : Nat) : Port := tget {} s.sca.ports i

/-- Changes Scaca port p (R321). -/
def State.modPort (i : Nat) (f : Port → Port) (s : State) : State :=
  { s with sca := { s.sca with ports := tmod {} s.sca.ports i f } }

/-- State of row node n (R342). -/
def State.rnode (s : State) (i : Nat) : RNode := tget {} s.sca.nodes i

/-- Changes row node n (R342). -/
def State.modRnode (i : Nat) (f : RNode → RNode) (s : State) : State :=
  { s with sca := { s.sca with nodes := tmod {} s.sca.nodes i f } }

/-- State of a receiver's view of a GRAIL (R336). -/
def State.view (s : State) (i : Nat) : View := tget {} s.sca.view i

/-- Changes a receiver's view of a GRAIL (R336). -/
def State.modView (i : Nat) (f : View → View) (s : State) : State :=
  { s with sca := { s.sca with view := tmod {} s.sca.view i f } }

/-- State of counter group n (R367). -/
def State.cgrp (s : State) (i : Nat) : CGroup := tget {} s.nv.cgroups i

/-- Changes counter group n (R367). -/
def State.modCgrp (i : Nat) (f : CGroup → CGroup) (s : State) : State :=
  { s with nv := { s.nv with cgroups := tmod {} s.nv.cgroups i f } }

/-! ## Place in a stack (R129, R134, R329) -/

/-- Device index: 0 in a single part (R94, R134). -/
def State.index (s : State) : Nat :=
  if s.cf 0x4008 1 0 = 1 ∨ s.cf 0x4008 1 0 = 2 then s.cf 0x4008 4 2 else 0

/-- Stack role: 0 single, 1 master, 2 member; the reserved 3 acts as 0 (R134). A candidate that is not elected runs as
a member (R329). -/
def State.role (s : State) : Nat :=
  let r := s.cf 0x4008 1 0
  if r = 3 then 0 else if r = 1 && s.sca.stkMember then 2 else r

/-! ## Time -/

/-- The present frame number as a natural. -/
def State.now (s : State) : Nat := s.clk.frame.toNat

/-- The present frame at fraction 0: the time-stamp of a boundary detection (R471). -/
def State.tsB (s : State) : Ts := { frame := s.clk.frame, frac := 0 }

/-- The instant at PLL cycle c of the present frame (R42). -/
def State.tsAt (c : Nat) (s : State) : Ts := { frame := s.clk.frame, frac := fracOf c }

/-- Frame a is not after frame b (R43). -/
def frameLe (a b : Frame) : Bool := a == b || frameBefore a b

/-- The present frame is the first of a watch tick (R39). -/
def State.tickStart (s : State) : Bool := s.clk.frame.toNat % 32 = 0

/-- Watch tick number, frame bits [47:5] (R39). -/
def State.tickNo (s : State) : Nat := s.clk.frame.toNat / 32

/-- Position of the frame in its watch tick, 0 to 31. -/
def State.tickPhase (s : State) : Nat := s.clk.frame.toNat % 32

/-- A time-stamp is not after another (R42, R43). -/
def tsLe (a b : Ts) : Bool := frameBefore a.frame b.frame || (a.frame == b.frame && decide (a.frac ≤ b.frac))

/-- A FREE VALUE of w bits, and the state with the counter advanced (log 2). -/
def State.drawFree (w : Nat) (s : State) : BitVec w × State :=
  (Config.freeValue w s.free, { s with free := s.free + 1 })

/-- Adds a message to what the part has sent (log 14). -/
def emit (o : Out) (s : State) : State := { s with out := o :: s.out }

/-! ## Interrupt messages (R311, R470) -/

/-- Signals an MSI-X vector: the message is sent, or its pending bit is set while the vector is masked or the part
may not issue DMA (R291, R311). -/
def signalVec (v : Nat) (s : State) : State :=
  let e := s.vec v
  if e.masked || !s.hst.bme then { s with hst := { s.hst with pba := s.hst.pba ||| BitVec.ofNat 64 (2 ^ v) } }
  else emit (.msix v e.addr e.data) s

/-- Sends what is pending for vectors that are no longer masked. -/
def releasePba (s : State) : State :=
  each (List.range 64) (fun v s =>
    if s.hst.pba.getLsbD v && !(s.vec v).masked && s.hst.bme then
      emit (.msix v (s.vec v).addr (s.vec v).data)
        { s with hst := { s.hst with pba := s.hst.pba &&& ~~~(BitVec.ofNat 64 (2 ^ v)) } }
    else s) s

/-! ## Events (R465 to R482) -/

/-- Severity of a source in this frame (R467): fixed, or the mapping in force. -/
def State.sevOf (n : Nat) (s : State) : Nat := (fixedSev n).getD (s.cf (0xD000 + 4 * n) 1 0)

/-- The source is a recorder trigger (R387, R482). -/
def State.recEn (n : Nat) (s : State) : Bool :=
  if n = 0xCC then true else if n = 0xCB then false else s.cb (0xB000 + 4 * n) 0

/-- Adds n to the ash count (R400). -/
def ashAdd (n : Nat) (s : State) : State := { s with recd := { s.recd with ash := sat 0xFFFFFFFF (s.recd.ash + n) } }

/-- An occurrence of a trigger source enters the capture queue, or is discarded into the ash count (R387). -/
def capture (o : Occ) (s : State) : State :=
  if s.recEn o.src then
    (if s.recd.queue.length < 64 then
      { s with recd := { s.recd with queue := s.recd.queue ++ [(s.clk.frame + 1, o)] } }
    else ashAdd 1 s)
  else s

/-- EVENT_RAISE (R467, R468) of one occurrence at a severity: pending bit, count, direct vector, event ring,
recorder, row. One of severity 2 or 3 makes a revert due while a generation is on probation (R383). -/
def raiseCore (o : Occ) (s : State) : State :=
  let m := s.cw (0xD000 + 4 * o.src)
  let b := BitVec.ofNat 256 (2 ^ o.src)
  let s := { s with evt := { s.evt with
    pend := s.evt.pend ||| b
    setNow := s.evt.setNow ||| b
    counts := tmod 0 s.evt.counts o.src (fun c => sat 0xFFFFFFFF (c + 1)) } }
  let s := if 2 ≤ o.sev && s.nv.prob.isSome then { s with nv := { s.nv with revertDue := true } } else s
  let s := if fld m 7 2 ≥ 12 then { s with hst := { s.hst with dvec := s.hst.dvec ++ [fld m 7 2] } } else s
  let s := if bit m 8 then { s with evt := { s.evt with fresh := s.evt.fresh ++ [o] } } else s
  let s := capture o s
  if bit m 9 && o.src ≠ 0xAB && ((s.sca.member && !s.sca.isMaster) || s.role = 2) then
    { s with evt := { s.evt with row := s.evt.row ++ [o] } }
  else s

/-- DETAIL format K (R472). -/
def detK (rnum ash sev occ : Nat) : BitVec 128 :=
  BitVec.ofNat 128 (put rnum 0 32 + put ash 32 32 + put sev 64 2 + put occ 66 16)

/-- The ash count rose since `old`: the recorder-ash event, once per watch tick (R410). -/
def ashEvent (old : Nat) (s : State) : State :=
  if old < s.recd.ash && !s.evt.ashTick then
    raiseCore { src := 0xC9, sev := s.sevOf 0xC9, ts := s.tsB, detail := detK 0 s.recd.ash 0 0 }
      { s with evt := { s.evt with ashTick := true } }
  else s

/-- Raises a source at a given severity. -/
def raiseSev (src sev : Nat) (ts : Ts) (d : BitVec 128) (s : State) : State :=
  ashEvent s.recd.ash (raiseCore { src := src, sev := sev, ts := ts, detail := d } s)

/-- Raises a source at its mapped severity (R467). -/
def raise (src : Nat) (ts : Ts) (d : BitVec 128) (s : State) : State := raiseSev src (s.sevOf src) ts d s

/-- The ash count rises by n, with its event. -/
def ashRise (n : Nat) (s : State) : State := ashEvent s.recd.ash (ashAdd n s)

/-! DETAIL formats (R472) -/

def detS (struct addr bit : Nat) (ue multi : Bool) : BitVec 128 :=
  BitVec.ofNat 128 (put struct 0 8 + put addr 8 17 + put bit 25 9 + put (b2n ue) 34 1 + put (b2n multi) 35 1)

def detB (off v : Nat) (rd cmd : Bool) (seq : Nat) : BitVec 128 :=
  BitVec.ofNat 128 (put off 0 16 + put v 16 32 + put (b2n rd) 48 1 + put (b2n cmd) 49 1 + put seq 64 64)

def detE (eng task used decl consec : Nat) : BitVec 128 :=
  BitVec.ofNat 128 (put eng 0 3 + put task 3 2 + put used 5 10 + put decl 15 10 + put consec 25 2)

def detR (grail kind st : Nat) (dir : Bool) (react retry : Nat) (shut : Bool) (mult : Nat) (ons : Ts) : BitVec 128 :=
  BitVec.ofNat 128 (put grail 0 10 + put kind 10 3 + put st 13 3 + put (b2n dir) 16 1 + put react 17 2 +
    put retry 19 4 + put (b2n shut) 23 1 + put mult 24 8 + put ons.frame.toNat 32 48 + put ons.frac.toNat 80 8)

def detM (grail mdac : Nat) (pmb : Bool) (avg vexp : Nat) (fail : Bool) (k : Nat) : BitVec 128 :=
  BitVec.ofNat 128 (put grail 0 10 + put mdac 10 4 + put (b2n pmb) 14 1 + put avg 15 16 + put vexp 31 16 +
    put (b2n fail) 47 1 + put k 48 5)

def detQ (cls pos src groups cnt grp idx : Nat) : BitVec 128 :=
  BitVec.ofNat 128 (put cls 0 3 + put pos 3 11 + put src 14 2 + put groups 16 16 + put cnt 32 4 + put grp 36 4 +
    put idx 40 3)

def detP (bus pm acap lvl rect vshed : Nat) : BitVec 128 :=
  BitVec.ofNat 128 (put bus 0 16 + put pm 16 16 + put acap 32 16 + put lvl 48 3 + put rect 51 4 + put vshed 55 16)

def detC (core entry slice code : Nat) (ovr under : Bool) (sus res occ trg : Nat) : BitVec 128 :=
  BitVec.ofNat 128 (put core 0 2 + put entry 2 6 + put slice 8 2 + put code 10 12 + put (b2n ovr) 22 1 +
    put (b2n under) 23 1 + put sus 24 2 + put res 26 4 + put occ 32 16 + put trg 48 4)

def detT (st fc healthy ph why hic sp vout iout : Nat) : BitVec 128 :=
  BitVec.ofNat 128 (put st 0 2 + put fc 2 4 + put healthy 6 8 + put ph 14 3 + put why 17 2 + put hic 19 8 +
    put sp 27 24 + put vout 51 16 + put iout 67 16)

def detL (port node code delay : Nat) : BitVec 128 :=
  BitVec.ofNat 128 (put port 0 2 + put node 2 12 + put code 14 3 + put delay 17 20)

def detH (ring cause idx addr : Nat) : BitVec 128 :=
  BitVec.ofNat 128 (put ring 0 5 + put cause 5 2 + put idx 7 16 + put addr 24 64)

def detW (node src sev : Nat) (d : BitVec 128) : BitVec 128 :=
  BitVec.ofNat 128 (put node 0 12 + put src 12 8 + put sev 20 2 + put d.toNat 32 96)

def detF (v cnt typ : Nat) : BitVec 128 := BitVec.ofNat 128 (put v 0 32 + put cnt 32 16 + put typ 48 8)

def detU (st cmd ver kind eng ph : Nat) : BitVec 128 :=
  BitVec.ofNat 128 (put st 0 8 + put cmd 8 8 + put ver 16 32 + put kind 48 4 + put eng 52 3 + put ph 55 5)

def detX (s : State) : BitVec 128 :=
  BitVec.ofNat 128 (put s.pwr.cause 0 8 + put s.pwr.bootFail 8 2 + put (b2n s.pwr.fallback) 10 1)

/-! ## Statuses (R302) -/

def stOk : Nat := 0x00
def stStarted : Nat := 0x01
def stAlready : Nat := 0x02
def stLate : Nat := 0x03
def stNotRunning : Nat := 0x04
def stRefused : Nat := 0x05
def stBusy : Nat := 0x06
def stPartial : Nat := 0x07
def stStopped : Nat := 0x08
def stProgram : Nat := 0x09
def stFailed : Nat := 0x0A
def stVerify : Nat := 0x0B
def stPmbus : Nat := 0x0C
def stDamper : Nat := 0x0D
def stReset : Nat := 0x0E
def stAuth : Nat := 0x0F
def stNvwp : Nat := 0x10
def stDma : Nat := 0x11
def stBadArg : Nat := 0x12
def stBadOpcode : Nat := 0x18
def stBadHeader : Nat := 0x19
def stShadow : Nat := 0x1A
def stMember : Nat := 0x1B
def stAdmission : Nat := 0x20
def stSlots : Nat := 0x21
def stConv : Nat := 0x22
def stStage : Nat := 0x23
def stGraph : Nat := 0x24
def stOffTable : Nat := 0x25
def stSeqActive : Nat := 0x26
def stInFlight : Nat := 0x27
def stGeneration : Nat := 0x28
def stPastFrame : Nat := 0x29
def stRange : Nat := 0x30
def stNoisy : Nat := 0x31
def stSpan : Nat := 0x32
def stCoeff : Nat := 0x33
def stInUse : Nat := 0x34
def stNoEntry : Nat := 0x35
def stStale : Nat := 0x36
def stCorrupt : Nat := 0xFD
def stGone : Nat := 0xFE
def stPending : Nat := 0xFF

/-! ## Stored words (R21, R22, R26, R28) -/

/-- The key of a word of a structure: STRUCT and word address (R21). -/
def wkey (struct addr : Nat) : Nat := struct * 131072 + addr

/-- The 266 ones of an erased codeword (R24). -/
def erasedWord : Codeword := BitVec.allOnes 266

/-- What a codeword of the flash holds before it is first programmed or erased: a firmware bank is delivered programmed
(R412). -/
def deliveredWord (a : Nat) : Codeword := if a < 65536 then wcEncode (Config.factoryBank a) else erasedWord

/-- The codeword that stands at a codeword address of the flash (R21, R355). -/
def State.flashRaw (s : State) (a : Nat) : Codeword := (tget none s.nv.flash a).getD (deliveredWord a)

/-- What a read of a stored word delivers (R23, R24): an SRAM codeword differs from that of its content by the bits that
flipped since it was written; the flash holds codewords. -/
def State.wordOut (s : State) (struct addr : Nat) : WcOut :=
  if struct = 0x18 then flashOut (s.flashRaw addr) else wcError (tget 0 s.wc.err (wkey struct addr))

/-- A word reads clean or corrected. -/
def State.wordOk (s : State) (struct addr : Nat) : Bool := s.wordOut struct addr ≠ .uncorrectable

/-- A write of a whole word: it holds a codeword again, and its event may be raised again (R26, R28). -/
def wcWritten (struct addr : Nat) (s : State) : State :=
  { s with wc := { s.wc with err := tset 0 s.wc.err (wkey struct addr) 0, bad := s.wc.bad.filter (· ≠ (struct, addr)) } }

/-- The words of the structures that `p` names are all written, or lost with their domain (R26, R36). -/
def wcRenew (p : Nat → Bool) (s : State) : State :=
  { s with wc := { s.wc with
    err := s.wc.err.filter fun x => !p (x.1 / 131072), bad := s.wc.bad.filter fun x => !p x.1 } }

/-- The words of the structures that `p` names hold nothing any more: their domain lost power (R21, R26). -/
def wcLost (p : Nat → Bool) (s : State) : State :=
  let s := wcRenew p s
  { s with wc := { s.wc with ram := s.wc.ram.filter fun x => !p (x.1 / 131072) } }

/-- An error decoded at a time joins those of the frame, which are counted, logged and raised as it ends (R25, R26, R32). -/
def wordErr (ts : Ts) (struct addr : Nat) (o : WcOut) (s : State) : State :=
  let put (b : Nat) (ue : Bool) : State :=
    { s with wc := { s.wc with found := s.wc.found ++ [{ ts := ts, struct := struct, addr := addr, bit := b, ue := ue }] } }
  match o with
  | .corrected b => put b false
  | .uncorrectable => put 0x1FF true
  | _ => s

/-- A read of a stored word: an SRAM word that reads corrected is written back corrected (R25, R29). -/
def readWord (ts : Ts) (struct addr : Nat) (s : State) : WcOut × State :=
  let o := s.wordOut struct addr
  let s := wordErr ts struct addr o s
  match o with
  | .corrected _ => (o, if struct < 0x17 then wcWritten struct addr s else s)
  | _ => (o, s)

/-- A write of fewer than 256 bits is a read-modify-write: where the read is uncorrectable it is not performed and the
engine that writes receives the error flag (R28). `f` is the write's effect. -/
def partWrite (ts : Ts) (engine struct addr : Nat) (f : State → State) (s : State) : State :=
  let r := readWord ts struct addr s
  if r.1 = .uncorrectable then r.2.modEng engine fun x => { x with errFlag := true } else f (wcWritten struct addr r.2)

/-! ## The journal (R312 to R316) -/

/-- A journal entry as 256 bits (R312). -/
def JEntry.bits (e : JEntry) : Nat :=
  put e.seq 0 64 + put e.frame.toNat 64 48 + put e.opcode 112 8 + put (b2n e.form) 120 1 + put e.src 121 2 + put e.ring 123 3 +
    put (b2n e.persist) 126 1 + put e.status 128 8 + put e.tag 136 16 + put e.digest 160 64 + put e.result 224 32

/-- A link frame with the next SEQ of its kind (R323); no destination: every node is addressed. -/
def linkFrameOf (kind : Nat) (dst : Option Nat) (v : Nat) (s : State) : LinkTx × State :=
  ({ kind := kind, src := s.cf 0x9000 11 0, dst := dst, seq := tget 0 s.sca.txSeq kind, payload := BitVec.ofNat 256 v },
    { s with sca := { s.sca with txSeq := tmod 0 s.sca.txSeq kind fun n => (n + 1) % 8 } })

/-- CAP and FAULT frames take any slot (R324, R340). -/
def LinkTx.urgent (f : LinkTx) : Bool := f.kind = 11 || f.kind = 12

/-- A frame joins those that wait for a slot of a port (R340). -/
def queueFrame (p : Nat) (f : LinkTx) (s : State) : State := s.modPort p fun x => { x with txq := x.txq ++ [f] }

/-- A CAP or FAULT frame takes a slot of the present frame, displacing what stood there into the queue (R340). -/
def urgentFrame (p : Nat) (f : LinkTx) (s : State) : State :=
  s.modPort p fun x =>
    if x.tx.length < 12 then { x with tx := x.tx ++ [f] }
    else match x.tx.reverse.find? fun y => !y.urgent with
    | some y => { x with tx := x.tx.erase y ++ [f], txq := y :: x.txq }
    | none => { x with txq := f :: x.txq }

/-- A journal entry goes to the partner in a JOURNAL frame (R324, R349). -/
def sendEntry (e : JEntry) (s : State) : State :=
  let r := linkFrameOf 8 (some s.pair.partner) e.bits s
  queueFrame 3 r.1 r.2

/-- The SEQ the next entry takes. -/
def State.nextSeq (s : State) : Nat := s.jrn.next

/-- The active part of a pair mirrors an entry to its shadow and waits for its acknowledgement (R349). -/
def pairJournal (e : JEntry) (s : State) : State :=
  if s.pair.role = 1 && s.pair.up then
    sendEntry e { s with pair := { s.pair with unacked := s.pair.unacked.filter (·.1 ≠ e.seq) ++ [(e.seq, 0)] } }
  else s

/-- JOURNAL_ENTRY (R312, R313, R314): the entry takes the next SEQ, goes to its SRAM word and the pointer latch, and
uses a journal slot of the frame. -/
def jAppend (e : JEntry) (s : State) : State :=
  let q := s.jrn.next
  let e := { e with seq := q, frame := s.clk.frame }
  let s := pairJournal e (wcWritten 0x12 (q % 4096) s)
  { s with jrn := { s.jrn with
      head := q
      next := q + 1
      base := if s.jrn.sram.isEmpty then q else s.jrn.base
      sram := tset none s.jrn.sram (q % 4096) (some e)
      slots := s.jrn.slots + 1
      waiting := if e.persist && e.status ≠ stPending then s.jrn.waiting ++ [q] else s.jrn.waiting } }

/-- An internal or BAR0 entry, final when made (R315). -/
def jInternal (op src digest result : Nat) (persist : Bool) (s : State) : State :=
  jAppend { opcode := op, src := src, digest := digest, result := result % 2 ^ 32, persist := persist, status := stOk } s

/-- The SRAM entry that holds a SEQ. -/
def State.jEntry (q : Nat) (s : State) : Option JEntry :=
  match tget none s.jrn.sram (q % 4096) with
  | some e => if e.seq = q then some e else none
  | none => none

/-- Rewrites the entry of a SEQ in place with its final STATUS and RESULT (R314): CE0 writes part of its word (R28). -/
def jRewrite (q status result : Nat) (s : State) : State :=
  match s.jEntry q with
  | some e =>
    let e := { e with status := status, result := result % 2 ^ 32 }
    partWrite s.tsB 0 0x12 (q % 4096) (fun s =>
      let s := pairJournal e s
      { s with jrn := { s.jrn with
        sram := tset none s.jrn.sram (q % 4096) (some e)
        waiting := if e.persist then s.jrn.waiting ++ [q] else s.jrn.waiting } }) s
  | none => s

/-! ## Completions (R300, R301) -/

/-- The live command of a SEQ. -/
def State.liveOf (q : Nat) (s : State) : Option Live := s.hst.live.find? (fun l => l.seq = q)

/-- The opcode and form are persistent (R305, R316): CONV_CAL FULL, CONFIG_*, REC_CLEAR, TAG_WRITE. -/
def persistent (d : Desc) : Bool :=
  (d.opcode = 0x22 && d.args.getLsbD 0) || (0x28 ≤ d.opcode && d.opcode ≤ 0x2C) || d.opcode = 0x3B || d.opcode = 0x3C

/-- The completion entry of a live command whose reported boundary lies `d` frames on, 0 for the last one. -/
def complOf (l : Live) (status result : Nat) (final : Bool) (d : Nat) (s : State) : Compl :=
  { seq := l.seq, tag := l.d.tag, opcode := l.d.opcode, status := status, crHead := l.crHead, ring := l.ring
    final := final, frame := s.clk.frame + BitVec.ofNat 48 d, result := result % 2 ^ 64, noirq := l.d.noirq
    persist := persistent l.d && final, readyAt := s.clk.frame + BitVec.ofNat 48 (d + 1)
    extra := if final && l.d.early && !l.started then 1 else 0 }

/-- Ends a command whose end shows at the boundary `d` frames on: its final completion is ready, and its journal
entry is rewritten, in the frame after that boundary (R51, R314). -/
def finishAt (d q status result : Nat) (s : State) : State :=
  let f := (q, status, result, s.clk.frame + BitVec.ofNat 48 (d + 1))
  match s.liveOf q with
  | some l =>
    { s with
      jrn := { s.jrn with finals := s.jrn.finals ++ [f] }
      hst := { s.hst with
        live := s.hst.live.filter (fun l => l.seq ≠ q)
        ready := if l.relayed then s.hst.ready else s.hst.ready ++ [complOf l status result true d s] } }
  | none => { s with jrn := { s.jrn with finals := s.jrn.finals ++ [f] } }

/-- A command ends at the last boundary. -/
def finish (q status result : Nat) (s : State) : State := finishAt 0 q status result s

/-- A command of a SEQ now waits for `w`. -/
def park (q : Nat) (w : Wait) (s : State) : State :=
  { s with hst := { s.hst with live := s.hst.live.map (fun l => if l.seq = q then { l with wait := w } else l) } }

/-- Ends every live command that waits for `w`. -/
def finishAll (w : Wait → Bool) (status result : Nat) (s : State) : State :=
  each ((s.hst.live.filter (fun l => w l.wait)).map (·.seq)) (fun q s => finish q status result s) s

/-- The same for a happening within a frame, which shows at the boundary that ends it. -/
def finishMid (w : Wait → Bool) (status result : Nat) (s : State) : State :=
  each ((s.hst.live.filter (fun l => w l.wait)).map (·.seq)) (fun q s => finishAt 1 q status result s) s

/-- The journal entries whose completion is staged in this frame are rewritten (R314). -/
def applyFinals (s : State) : State :=
  let due := s.jrn.finals.filter (fun f => frameLe f.2.2.2 s.clk.frame)
  let s := { s with jrn := { s.jrn with finals := s.jrn.finals.filter (fun f => !frameLe f.2.2.2 s.clk.frame) } }
  each due (fun f s => jRewrite f.1 f.2.1 f.2.2.1 s) s

end Sys2Proof.Machine
end

