-- ==== Sys2Proof/Machine/Rails.lean ====
section
/-! DEFINITION. Machine/Rails.lean: the rail banks (chapter 3): pins, debounce, the rail state machine, readback,
open-wire tests, PG stuck, margins and the PMBus masters. -/

namespace Sys2Proof.Machine

/-! ## Settings of a rail -/

/-- Global rail number of local rail i. -/
def State.grail (s : State) (i : Nat) : Nat := 96 * s.index + i

/-- The part is the shadow of a pair (R158, R354). -/
def State.shadow (s : State) : Bool := s.pair.role = 2

/-- EN_MODE of an RCFG word (R63). -/
def rcMode (w : W32) : Nat := fld w 2 1

/-- The EN level that is active: high where EN_POL is 0 (R64). -/
def rcActive (w : W32) : Bool := !bit w 3

/-- A fail-on rail: the resistor sets the active level (R64). -/
def rcFailOn (w : W32) : Bool := (rcMode w = 1 && bit w 3) || (rcMode w = 2 && !bit w 3)

/-- The combination is allowed; any other is treated as unused (R63, R64). -/
def rcLegal (w : W32) : Bool := rcMode w ≠ 3 && (!bit w 11 || (rcMode w = 1 && !bit w 3))

/-- The rail is used by the words in force. -/
def rcUsed (w : W32) : Bool := bit w 0 && rcLegal w

/-- The EN level of a command (R64). -/
def rcLevel (w : W32) (en : Bool) : Bool := if en then rcActive w else !rcActive w

/-- The mode drives that level; else the board resistor sets it (R63, R64). -/
def rcDriven (w : W32) (en : Bool) : Bool :=
  rcMode w = 0 || (rcMode w = 1 && rcLevel w en) || (rcMode w = 2 && !rcLevel w en)

def State.rcfg (s : State) (i : Nat) : W32 := s.cw (rbase i)
def State.isPairRail (s : State) (i : Nat) : Bool := bit (s.rcfg i) 11
def State.vioOk (s : State) (i : Nat) : Bool := (s.bank (bankOf i)).vioOk

/-- All rails of the part. -/
def railList : List Nat := List.range 96

/-- Rails of a bank. -/
def bankRails (b : Nat) : List Nat := (List.range 48).map (· + 48 * b)

/-- States in which a rail rests for the class test of an off run (R115). -/
def RState.resting : RState → Bool
  | .off => true
  | .faulted => true
  | .hiz => true
  | _ => false

/-- RAMPING or ON. -/
def RState.live : RState → Bool
  | .ramping => true
  | .on => true
  | _ => false

/-- EN is not held at high impedance by the part's reset, XRST_IN#, the state, the bank or a fold-back (R62, R65, R68,
R73, R448). -/
def State.drives (s : State) (i : Nat) : Bool :=
  let r := s.rail i
  s.pwr.phase = .run && !s.pwr.xrst && r.st ≠ .unused && r.st ≠ .hiz && s.vioOk i && !r.fold

/-! ## Commitments -/

/-- COMMITMENT_END: a commitment ends (R179). -/
def commitEnd (k : CKey) (s : State) : State :=
  { s with drt := { s.drt with commits := s.drt.commits.filter (fun c => c.key ≠ k) } }

/-! ## Admission log (R183) -/

/-- Thermal cost of a STEADY figure (R178). -/
def thermCost (s : State) (steady : Nat) : Nat := cdiv (steady * s.cf 0x6000 27 20) 10000

/-- ADMISSION_LOG_ENTRY. -/
def alogAdd (e : ALog) (s : State) : State :=
  { s with drt := { s.drt with log := (e :: s.drt.log).take 1024, head := (s.drt.head + 1) % 2 ^ 32 } }

/-- The log entry of a withdrawal (R183). -/
def alogWithdraw (id kind order prio inrush steady : Nat) (s : State) : State :=
  alogAdd { frame := s.clk.frame, order := order, jseq := s.jrn.head, inrush := s.drt.inrush, power := s.drt.power
            thermal := s.drt.thermal, id := id, kind := kind, result := 2, prio := prio, cInrush := inrush
            cSteady := steady, cThermal := thermCost s steady } s

/-! ## PMBus jobs (R87, R188 to R193) -/

/-- Puts a job at the end of a master's queue. -/
def pmbPush (m : Nat) (j : PmbJob) (s : State) : State := { s with pmb := tmod [] s.pmb m (· ++ [j]) }

/-- The PAGE transaction, unless PAGE is 0xFF. -/
def pageOp (p : Nat) : List PmbOp := if p = 0xFF then [] else [.page p]

/-- The job of a rail's binding (BKx_RPMBi) with its master. -/
def rpmbJob (s : State) (i : Nat) (use : PmbUse) (ops : List PmbOp) : Nat × PmbJob :=
  let w := s.cw (rbase i + 8)
  (fld w 2 1, { use := use, addr := fld w 9 3, pec := bit w 18, ops := pageOp (fld w 17 10) ++ ops })

/-! ## Margins under way (R85, R89, R90, R103, R104) -/

/-- Records the outcome of a program's step served by another unit (1 success, 2 failed, 4 failed with
PMBUS_FAIL). -/
def itemDone (n code : Nat) (s : State) : State :=
  s.modProg n fun p => { p with items := p.items.map fun it => if it.begun then { it with done := code } else it }

/-- The owner of a margin learns its outcome: 1 OK, 2 verify fail or rail left ON, 4 PMBUS_FAIL. -/
def marginTell (o : Owner) (code status : Nat) (s : State) : State :=
  match o with
  | .none => s
  | .prog n => itemDone n code s
  | .cmd q => finish q status 0 s

/-- Sets the target of an MDAC (R85). -/
def mdacTarget (k : Nat) (t : Int) (s : State) : State :=
  s.modMdac k fun m => { m with target := t, atTarget := m.code = t }

/-- Queues the return to nominal of a rail's PMBus margin (R87, R89). -/
def pmbNominal (i : Nat) (s : State) : State :=
  let j := rpmbJob s i (.marginReturn i) [.operation 0 none]
  pmbPush j.1 j.2 (s.modRail i fun r => { r with marginPmb := false, marginHold := true })

/-- MARGIN_RETURN_NOMINAL: the MDAC target becomes 0, the PMBus return is queued, the commitment ends
(R89, R179). -/
def marginNominal (i : Nat) (s : State) : State :=
  let r := s.rail i
  let s := match r.marginDac with
    | some k => mdacTarget k 0 s
    | none => s
  let s := if r.marginPmb then pmbNominal i s else s
  commitEnd (.margin (s.grail i)) (s.modRail i fun r => { r with marginDac := none, margin := 0 })

/-- The rail leaves ON: its margin returns to nominal, and a margin under way fails (R75, R89). -/
def marginLeave (i : Nat) (s : State) : State :=
  let g := s.grail i
  let mine := s.seq.margins.filter (fun m => m.rail = g && m.phase ≠ .pending)
  let s := { s with seq := { s.seq with margins := s.seq.margins.filter (fun m => !(m.rail = g && m.phase ≠ .pending)) } }
  let s := each mine (fun m s => marginTell m.owner 2 stRefused s) s
  marginNominal i s

/-! ## The rail state machine (R72, R73) -/

/-- A retry pending for the rail is cancelled; a grant is withdrawn, with its log entry (R114, R146, R148, R183). -/
def cancelRetry (i : Nat) (s : State) : State :=
  let r := s.rail i
  let s := match r.retry with
    | some c =>
      if c.granted then
        alogWithdraw (s.grail i) 1 c.order r.fig.prio r.fig.inrush r.fig.steady (commitEnd (.rail (s.grail i)) s)
      else s
    | none => s
  s.modRail i fun r => { r with retryPend := false, backoff := 0, retry := none }

/-- A rail that faults is no resume candidate any more; its grant's commitment ends (R118, R179). -/
def resumeDrop (i : Nat) (s : State) : State :=
  let s := match (s.rail i).resume with
    | some c => if c.granted then commitEnd (.rail (s.grail i)) s else s
    | none => s
  s.modRail i fun r => { r with resume := none }

/-- The rail enters a state: rest time, fold-back, margin, commitment, retry counts (R65, R73, R89, R115, R148,
R179). -/
def setRState (i : Nat) (st : RState) (s : State) : State :=
  let old := (s.rail i).st
  if old = st then s
  else
    let s := s.modRail i fun r => { r with
      st := st
      rest := if old.resting && st.resting then r.rest else 0
      fold := if st = .off then false else r.fold
      offGood := 0
      deadline := if st.live && st ≠ .on then r.deadline else none
      retryCnt := if st = .off && (old.live || old = .releasing) then 0 else r.retryCnt
      escalated := if st = .off && (old.live || old = .releasing) then false else r.escalated }
    let s := if old = .on then marginLeave i s else s
    let s := if old.live && !st.live then commitEnd (.rail (s.grail i)) s else s
    let s := if st = .faulted then resumeDrop i s else s
    if st = .hiz || (old = .faulted && st ≠ .ramping) then cancelRetry i s else s

/-! ## EN commands (R64, R67, R74, R77) -/

/-- The level applied to the driver changes: readback starts again (R77), MIN_OFF counts from here (R74). -/
def driveEn (i : Nat) (b : Bool) (s : State) : State :=
  if (s.rail i).enBall = b then s
  else
    let bl := fld (s.rcfg i) 10 8
    s.modRail i fun r => { r with
      enBall := b, blank := bl, mis := 0, misIlim := 0, rbDone := false, assist := false
      offTicks := if b then r.offTicks else 0 }

/-- The EN command changes; on a PAIR rail the ball follows two boundaries later (R67, R345). -/
def setEn (i : Nat) (b : Bool) (s : State) : State :=
  if (s.rail i).en = b then s
  else
    let s := s.modRail i fun r => { r with en := b, offTicks := if b then r.offTicks else 0 }
    if s.isPairRail i then s.modRail i fun r => { r with enQ := r.enQ ++ [(2, b)] }
    else driveEn i b s

/-- Changes on their way to PAIR balls advance by one boundary, applied at order 7 (R67, R345). -/
def stepEnQ (i : Nat) (s : State) : State :=
  let q := (s.rail i).enQ.map (fun p => (p.1 - 1, p.2))
  let due := q.filter (fun p => p.1 = 0)
  let s := s.modRail i fun r => { r with enQ := q.filter (fun p => p.1 ≠ 0) }
  each due (fun p s => driveEn i p.2 s) s

/-- A cause of HIZ holds: XRST_IN#, a fold-back not yet commanded off, the bank supply (R65, R73). -/
def State.hizHeld (s : State) (i : Nat) : Bool :=
  s.pwr.xrst || !s.vioOk i || ((s.rail i).fold && !(s.rail i).foldOff)

/-- The state a rail takes as HIZ ends: OFF, or for a fail-on rail whose supply first rises, RAMPING with EN
left active (R62, R68, R73). -/
def leaveHiz (i : Nat) (s : State) : State :=
  let r := s.rail i
  let failOn := rcFailOn (s.rcfg i)
  let s := s.modRail i fun r => { r with
    fold := false, foldOff := false, blank := fld (s.rcfg i) 10 8, mis := 0, misIlim := 0, rbDone := false, hizLate := false
    offTicks := if failOn && !r.hizLate then 0 else r.offTicks }
  if r.hizLate && failOn then setRState i .ramping (setEn i true s) else setRState i .off (setEn i false s)

/-- An off command to a folded rail ends its fold-back: it leaves HIZ where no other cause holds it (R65, R73). -/
def foldEnd (i : Nat) (s : State) : State :=
  let s := s.modRail i fun r => { r with foldOff := true }
  if s.hizHeld i then s else leaveHiz i s

/-- EN is dropped by a fault: FAULTED; a folded rail leaves its fold-back (R65, R73, R140). -/
def dropRail (i : Nat) (s : State) : State :=
  let r := s.rail i
  if r.st = .unused then s
  else if r.st = .hiz then (if r.fold then foldEnd i s else s)
  else setRState i .faulted (setEn i false s)

/-- An off command of the off-sequencer, the watchdog or an off step: EN is released; RELEASING, or OFF where the
debounced PG is already not good; it ends a fold-back (R65, R73). -/
def releaseRail (i : Nat) (s : State) : State :=
  let r := s.rail i
  if r.st.live then
    setRState i (if r.db then .releasing else .off) (setEn i false s)
  else if r.st = .hiz && r.fold then foldEnd i s
  else s

/-- The rail enters HIZ: the driver is high impedance; an asserted EN leaves its level, but for a fail-on rail, whose
resistor holds it (R62, R64, R65, R73, R74, R448). -/
def toHiz (i : Nat) (s : State) : State :=
  if (s.rail i).st = .unused then s
  else
    let failOn := rcFailOn (s.rcfg i)
    let s := s.modRail i fun r => { r with
      en := false, enBall := false, enQ := [], mis := 0, misIlim := 0, ilimRun := 0, assist := false
      offTicks := if (r.en || r.enBall) && !failOn then 0 else r.offTicks }
    setRState i .hiz s

/-- EN is asserted by an ENABLE, a retry or a resume: RAMPING, the deadline runs from here (R73, R109, R146). -/
def startRail (i : Nat) (f : Fig) (s : State) : State :=
  let s := setRState i .ramping (setEn i true s)
  s.modRail i fun r => { r with fig := f, deadline := if f.deadline = 0 then none else some (32 * f.deadline) }

/-! ## Faults found (R138) -/

/-- A fault kind is found on a rail at this boundary (R138, R160). -/
def detect (kind : Nat) (dir : Bool) (onset : Ts) (i : Nat) (s : State) : State :=
  let s := if kind = 0 || kind = 1 || kind = 6 then s else s.modRail i fun r => { r with
    shortHi := r.shortHi || (kind = 2 && dir)
    shortLo := r.shortLo || (kind = 2 && !dir)
    enOpen := r.enOpen || kind = 3
    pgOpen := r.pgOpen || kind = 4
    pgStuck := r.pgStuck || kind = 5
    setNow := r.setNow ||| 2 ^ (if kind = 2 then b2n !dir else kind - 1) }
  { s with flt := { s.flt with found := s.flt.found ++
    [{ rail := i, kind := kind, dir := dir, onset := onset, det := s.clk.frame }] } }

/-! ## PG inputs (R69 to R71) -/

/-- What a Schmitt receiver reads at `mv` after reading `prev` (R69). -/
def schmitt (fixed : Bool) (vio mv : Int) (prev : Bool) : Bool :=
  if fixed then (if 800 ≤ mv then true else if mv ≤ 400 then false else prev)
  else if 65 * vio ≤ 100 * mv then true else if 100 * mv ≤ 35 * vio then false else prev

/-- The level that means not good under PG_POL. -/
def notGood (w : W32) : Bool := bit w 4

/-- The value listed for i, else d. -/
def look {α : Type} (d : α) (l : List (Nat × α)) (i : Nat) : α :=
  match l.find? (fun p => p.1 = i) with
  | some p => p.2
  | none => d

/-- PG_SAMPLE: the receiver latches its input (R44 order 2, R62, R69). -/
def samplePg (mv : Int) (i : Nat) (s : State) : State :=
  let w := s.rcfg i
  let ok := s.vioOk i && (s.rail i).st ≠ .unused
  let v := (s.bank (bankOf i)).vio
  s.modRail i fun r =>
    let rx := if ok then schmitt (bit w 5) v mv r.rx else notGood w
    { r with rx := rx, raw := ok && (rx ≠ notGood w) }

/-- The debounce setting for a sample: 0 acts as 1 (R70). -/
def dbNeed (w : W32) (raw : Bool) : Nat := orDef (if raw then fld w 7 0 else fld w 15 8) 1

/-- The debounce count advances (R70), with the onset of the run (R160). -/
def debounce (i : Nat) (s : State) : State :=
  let w := s.cw (rbase i + 4)
  let t := s.tsB
  s.modRail i fun r =>
    if r.raw = r.db then { r with dbCnt := 0, edge := none }
    else
      let r := { r with dbOnset := if r.dbCnt = 0 then t else r.dbOnset, dbCnt := r.dbCnt + 1 }
      if dbNeed w r.raw ≤ r.dbCnt then { r with db := r.raw, dbCnt := 0 } else r

/-- GOOD_TICKS (R71). The sample of a watch tick boundary belongs to the tick it ends, not to those "since" it (log 75). -/
def goodTicks (i : Nat) (s : State) : State :=
  let tick := s.tickStart
  s.modRail i fun r =>
    let good := r.tickGood && r.db
    { r with
      tickGood := if tick then true else good
      goodTicks := if !r.db then 0 else if tick && good then sat 0xFFFF (r.goodTicks + 1) else r.goodTicks
      stuckDone := r.stuckDone && r.db }

/-- What a watch tick boundary's GOOD_TICKS brings: healing (R148) and the end of the commitment (R179). -/
def goodTicksActs (i : Nat) (s : State) : State :=
  let r := s.rail i
  let heal := s.cf (fbase i + 4) 25 18
  let com := orDef (s.cf 0x6000 19 12) 1
  let s := if s.tickStart && r.db && heal ≠ 0 && r.goodTicks = heal then
      s.modRail i fun r => { r with retryCnt := 0, escalated := false }
    else s
  if s.tickStart && r.db && r.goodTicks = com then commitEnd (.rail (s.grail i)) s else s

/-- The onset of a PG fault confirmed by samples: the edge latch refines the first sample (R160). -/
def pgOnset (r : Rail) : Ts := r.edge.getD r.dbOnset

/-- Sample-driven changes of state (R73) and the detection of PG lost (R70, R138). -/
def judgePg (i : Nat) (s : State) : State :=
  let r := s.rail i
  match r.st with
  | .ramping => if r.db then setRState i .on s else s
  | .on => if r.db then s else detect 0 false (pgOnset r) i s
  | .releasing => if r.db then s else setRState i .off s
  | .faulted => if !r.db && !r.retryPend && r.retry.isNone then setRState i .off s else s
  | _ => s

/-- Counters of the rail's own state that advance at each boundary: rest time (R115), MIN_OFF (R74), the PG
deadline (R109). -/
def railTimers (i : Nat) (s : State) : State :=
  let tick := s.tickStart
  s.modRail i fun r => { r with
    rest := if r.st.resting then sat 0xFFFF (r.rest + 1) else 0
    offTicks := if tick then sat 4095 (r.offTicks + 1) else r.offTicks
    deadline := r.deadline.map (· - 1) }

/-- PG late: the deadline is found expired and the rail is not ON (R109). -/
def judgeLate (i : Nat) (s : State) : State :=
  let r := s.rail i
  if r.deadline = some 0 then
    let s := s.modRail i fun r => { r with deadline := none }
    if r.st = .ramping then detect 1 false s.tsB i s else s
  else s

/-! ## EN readback (R77) -/

/-- The result of an assist test at the sample that ends its frame (R77). Neither ILIM nor the released level gives no
result, and the count of mismatches starts again (log 72). -/
def assistResult (ilim level : Bool) (i : Nat) (s : State) : State :=
  let r := s.rail i
  let w := s.rcfg i
  let want := rcLevel w r.enBall
  let s := s.modRail i fun r => { r with assist := false, mis := 0, misIlim := 0 }
  if ilim then detect 2 (rcMode w = 1) r.misOnset i (s.modRail i fun r => { r with rbDone := true })
  else if level = want then detect 3 false r.misOnset i (s.modRail i fun r => { r with rbDone := true })
  else s

/-- One sample of the readback comparator (R77). -/
def readback (mv : Int) (ilim : Bool) (i : Nat) (s : State) : State :=
  let w := s.rcfg i
  let r := s.rail i
  let prev := if r.enRb then rcActive w else !rcActive w
  let level := schmitt false (s.bank (bankOf i)).vio mv prev
  let want := rcLevel w r.enBall
  let t := s.tsB
  let s := s.modRail i fun r => { r with enRb := level = rcActive w, ilim := ilim }
  if !s.drives i then s.modRail i fun r => { r with mis := 0, misIlim := 0, assist := false, ilim := false }
  else if r.assist then assistResult ilim level i s
  else if r.blank ≠ 0 then s.modRail i fun r => { r with blank := r.blank - 1, mis := 0, misIlim := 0 }
  else if r.rbDone then s
  else if level = want then s.modRail i fun r => { r with mis := 0, misIlim := 0 }
  else
    let s := s.modRail i fun r => { r with
      misOnset := if r.mis = 0 then t else r.misOnset
      mis := sat 7 (r.mis + 1)
      misIlim := if ilim then sat 7 (r.misIlim + 1) else 0 }
    let r := s.rail i
    if rcDriven w r.enBall then
      (if 2 ≤ r.misIlim || 4 ≤ r.mis then
        detect 2 (!want) r.misOnset i (s.modRail i fun r => { r with rbDone := true })
      else s)
    else if 4 ≤ r.mis then
      (if bit w 11 then detect 3 false r.misOnset i (s.modRail i fun r => { r with rbDone := true })
      else s.modRail i fun r => { r with assist := true })
    else s

/-- EN_FOLD_BACK: the driver folds back to high impedance, with its event (R65, R475). -/
def foldBack (i : Nat) (s : State) : State :=
  let s := toHiz i (s.modRail i fun r => { r with fold := true, foldOff := false, ilimRun := 0 })
  raise 0x30 s.tsB (detR (s.grail i) 7 (s.rail i).st.code false 0 (s.rail i).retryCnt false 1 s.tsB) s

/-- The run of frames in which the current limit acts; 256 of them fold the driver back (R65). -/
def countIlim (i : Nat) (s : State) : State :=
  let s := s.modRail i fun r => { r with ilimRun := if r.ilim then r.ilimRun + 1 else 0 }
  if 256 ≤ (s.rail i).ilimRun then foldBack i s else s

/-! ## PG stuck (R80) -/

/-- PG stuck in RELEASING, at the STUCK_TICKS-th watch tick boundary after the release, or in OFF, after 32 good
samples. -/
def judgeStuck (i : Nat) (s : State) : State :=
  let n := s.cf (rbase i + 4) 23 16
  let s := s.modRail i fun r => { r with offGood := if r.st = .off && r.raw then sat 32 (r.offGood + 1) else 0 }
  let r := s.rail i
  let rel := r.st = .releasing && r.db && s.tickStart && r.offTicks = n
  let off := r.st = .off && r.offGood = 32
  if n ≠ 0 && !r.stuckDone && (rel || off) then
    let t := if rel then s.tsB else r.edge.getD { frame := s.clk.frame - 31, frac := 0 }
    detect 5 false t i (s.modRail i fun r => { r with stuckDone := true, offGood := 0 })
  else s

/-! ## PG open-wire test (R78, R79) -/

/-- A counted result of the open-wire test: two consecutive failures are PG open (R79). Rotation rails ask for a
confirming retest. -/
def owCount (fail : Bool) (i : Nat) (s : State) : State :=
  let b := bankOf i
  let rot := fld (s.rcfg i) 7 6 = 1
  let t : Ts := { frame := s.clk.last, frac := fracOf 1500 }
  if fail then
    match (s.rail i).owFail with
    | some t0 =>
      let s := s.modRail i fun r => { r with owFail := none }
      let s := s.modBank b fun k => { k with owRetest := k.owRetest.filter (· ≠ i) }
      detect 4 false t0 i s
    | none =>
      let s := s.modRail i fun r => { r with owFail := some t }
      if rot then s.modBank b fun k => { k with owRetest := k.owRetest ++ [i] } else s
  else
    (s.modRail i fun r => { r with owFail := none }).modBank b fun k => { k with owRetest := k.owRetest.filter (· ≠ i) }

/-- The rotation rails of bank b in OFF or ON. -/
def owRotation (b : Nat) (s : State) : List Nat :=
  (bankRails b).filter fun i => fld (s.rcfg i) 7 6 = 1 && ((s.rail i).st = .off || (s.rail i).st = .on)

/-- The rail bank b tests next as things stand, a pending retest first, of several the oldest (R79, R93, log 82). -/
def owPick (b : Nat) (s : State) : Option Nat :=
  let c := owRotation b s
  match (s.bank b).owRetest.find? fun i => c.contains i with
  | some i => some i
  | none => match c.find? fun i => (s.bank b).owNext ≤ i - 48 * b with
    | some i => some i
    | none => c.head?

/-- Begins the tests of the frame that starts: every continuous rail, and in frame 16 of a watch tick one rotation
rail of each bank (R79). -/
def owBegin (s : State) : State :=
  let s := each (railList.filter fun i =>
      fld (s.rcfg i) 7 6 = 2 && s.vioOk i && ((s.rail i).st = .off || (s.rail i).st = .on))
    (fun i s => s.modRail i fun r => { r with owTest := some r.rx, owOn := r.st = .on }) s
  if s.tickPhase = 16 then
    each [0, 1] (fun b s =>
      match owPick b s with
      | none => s
      | some i =>
        if !(s.bank b).vioOk then s
        else
          let again := (s.bank b).owRetest.contains i
          let s := s.modRail i fun r => { r with owTest := some r.rx, owOn := r.st = .on }
          if again then s else s.modBank b fun k => { k with owNext := (i - 48 * b + 1) % 48 }) s
  else s

/-! ## Bank supplies (R62) -/

/-- The supply of a bank is within ±10 % of the level it declares (R62). -/
def vioGood (sel : Bool) (mv : Int) : Bool :=
  if sel then 2970 ≤ mv && mv ≤ 3630 else 1620 ≤ mv && mv ≤ 1980

/-- The MDACs of bank b carry no current; their codes restart from 0 (R62, R85). -/
def mdacsOff (b : Nat) (s : State) : State :=
  each ((List.range 8).map (· + 8 * b)) (fun k s => s.modMdac k fun m => { m with code := 0, atTarget := m.target = 0 }) s

/-- VIO_OK falls: the bank-supply event; every used rail enters HIZ; rails in RAMPING or ON receive PG lost
(R62). -/
def vioFall (b : Nat) (s : State) : State :=
  let s := s.modBank b fun k => { k with vioOk := false, vioCnt := 0 }
  let s := raise (0x2E + b) s.tsB 0 s
  let s := each (bankRails b) (fun i s =>
    let live := (s.rail i).st.live
    let s := cancelRetry i (toHiz i s)
    if live then
      { s with flt := { s.flt with found := s.flt.found ++
        [{ rail := i, kind := 0, onset := s.tsB, det := s.clk.frame, vio := true }] } }
    else s) s
  mdacsOff b s

/-- VIO_OK rises: each rail in HIZ that no other cause holds leaves it (R62, R73); receivers start from not good
(R69). -/
def vioRise (b : Nat) (s : State) : State :=
  let s := s.modBank b fun k => { k with vioOk := true }
  each (bankRails b) (fun i s =>
    if (s.rail i).st = .hiz && !s.hizHeld i then leaveHiz i s else s) s

/-- The supply of bank b at the boundary: 128 consecutive frames within tolerance set VIO_OK (R62). An unpowered
bank has none (R34). It falls at the first boundary at which the supply is out of tolerance (log 73). -/
def sampleVio (b : Nat) (mv : Int) (s : State) : State :=
  let good := vioGood (s.cb (bctrl b) 0) mv && (s.bank b).powered
  let s := s.modBank b fun k => { k with vio := mv, vioCnt := if good then sat 128 (k.vioCnt + 1) else 0 }
  let k := s.bank b
  if good && k.vioCnt = 128 && !k.vioOk then vioRise b s
  else if !good && k.vioOk then vioFall b s
  else s

/-! ## Margin DACs (R84, R85) -/

/-- The margin-compliance event and bit of an MDAC whose ball is outside 0.3 to 1.2 V (R84). -/
def mdacCompliance (k : Nat) (s : State) : State :=
  if s.cb (mdacReg k) 8 then
    let was := (s.mdac k).compliance
    let s := s.modMdac k fun m => { m with compliance := true, setNow := true }
    if was then s else raise 0x31 s.tsB (detM (s.grail (s.cf (mdacReg k) 15 9)) k false 0 0 false 0) s
  else s

/-- The code of an MDAC may move: its bank's supply is good, XRST_IN# is released, CE1 has not halted (R62, R85, log 81). -/
def mdacMoves (s : State) (k : Nat) : Bool := (s.bank (k / 8)).vioOk && !s.pwr.xrst && !(s.eng 1).halted

/-- MDAC_SLEW_STEP: the code moves towards the target by up to SLEW LSB, else it holds (R85). -/
def mdacStep (k : Nat) (s : State) : State :=
  let n : Int := orDef (s.cf (mdacReg k) 23 16) 1
  let ok := mdacMoves s k
  s.modMdac k fun m =>
    if m.code = m.target || !ok then m
    else
      let c := if m.code < m.target then min m.target (m.code + n) else max m.target (m.code - n)
      { m with code := c, atTarget := c = m.target }

end Sys2Proof.Machine
end

