-- ==== Sys2Proof/Machine/Conv.lean ====
section
/-! DEFINITION. Machine/Conv.lean: the converter array (chapter 7): slots, conversions, correction, scrubs, urgent
requests, windows, plausibility, references and the averaging of a calibration. Grid points are counted in 250 ns:
point 8n + j is j x 250 ns into frame n, where slot j of frame n ends. -/

namespace Sys2Proof.Machine

/-! ## Channels and units (R208, R211, R236) -/

/-- A core's pair: 0 for AC0/AC1, 1 for AC2/AC3. -/
def pairOf (c : Nat) : Nat := c / 2

/-- VREF of a core pair in mV (R211). -/
def State.vref (s : State) (p : Nat) : Nat :=
  let sel := (s.refm p).sel
  if sel = 1 then (if p = 0 then s.cf 0x7004 15 4 else s.cf 0x7004 27 16) else if sel = 2 then 1800 else 2048

/-- CNV_CALj_LO of a channel: internal channels hold the fuse block's coefficients (R236, R248). -/
def State.calLo (s : State) (ch : Nat) : W32 :=
  if ch < 152 then s.cw (calKey + 8 * ch)
  else BitVec.ofNat 32 (toBits 24 (Config.fuseCoef (1000 + 2 * ch)) + (if ch < 156 then 2 * 2 ^ 24 else 0))

/-- CNV_CALj_HI of a channel. -/
def State.calHi (s : State) (ch : Nat) : W32 :=
  if ch < 152 then s.cw (calKey + 8 * ch + 4) else BitVec.ofNat 32 (toBits 16 (Config.fuseCoef (1001 + 2 * ch)))

/-- Engineering value of a code on a channel (R236). -/
def State.engOf (s : State) (ch code : Nat) : Int :=
  let lo := s.calLo ch
  if fld lo 25 24 = 3 then code
  else rdiv (code * fld lo 23 0) (2 ^ 16) + sext 16 (s.calHi ch).toNat

/-- CNV_ENTc_e in force. -/
def State.ent (s : State) (c e : Nat) : W32 := s.cw (entReg c e)
def entChan (w : W32) : Nat := fld w 7 0
def entTrig (w : W32) : Nat := fld w 12 10
/-- Period in frames (R205, R246); the reserved codes act as 5. -/
def entPeriod (w : W32) : Nat := 2 ^ min (fld w 15 13) 5
def entWin (w : W32) : Bool := bit w 21

/-- Changes entry e of core c. -/
def modEnt (c e : Nat) (f : Ent → Ent) (s : State) : State :=
  s.modCore c fun k => { k with ents := tmod {} k.ents e f }

/-- Changes slice i of core c. -/
def modSlice (c i : Nat) (f : Slice → Slice) (s : State) : State :=
  s.modCore c fun k => { k with slices := tmod {} k.slices i f }

def State.slice (s : State) (c i : Nat) : Slice := tget {} (s.core c).slices i
def State.entry (s : State) (c e : Nat) : Ent := tget {} (s.core c).ents e

/-- The engineering value of a result of an entry. -/
def State.engRes (s : State) (c e : Nat) (r : Res) : Int := s.engOf (entChan (s.ent c e)) r.code

/-! ## The slot plan (R204, R205, R232) -/

/-- The pair of core c makes plausibility comparisons (R204, R229). -/
def State.pairOn (s : State) (p : Nat) : Bool :=
  s.cb 0x7000 (4 + p) && (s.core (2 * p)).powered && (s.core (2 * p + 1)).powered

/-- User slots of frame m in full-power mode (R204). -/
def userSlots (pairOn : Bool) (m : Nat) : List Nat :=
  (List.range 8).filter fun j => j ≠ 4 + m % 4 && !(pairOn && j = 3)

/-- Entries of core c due in frame m (R205), by the words `w`. -/
def dueEntries (w : Nat → W32) (m : Nat) : List Nat :=
  (List.range 64).filter fun e => entTrig (w e) = 1 && m % entPeriod (w e) = fld (w e) 20 16

/-- The slots of frame m in full-power mode. -/
def fullPlan (s : State) (c m : Nat) : List (Nat × SlotUse) :=
  let on := s.pairOn (pairOf c)
  let due := dueEntries (s.ent c) m
  let user := (userSlots on m).zipIdx.map fun p =>
    (p.1, match due[p.2]? with | some e => SlotUse.entry e | none => SlotUse.free)
  (4 + m % 4, SlotUse.h) :: (if on then [(3, SlotUse.p)] else []) ++ user

/-- Slot roles of frame m in low-power mode: none where the slot takes an entry of the rotation (R232). -/
def lowRoles (on : Bool) (m : Nat) : List (Nat × Option SlotUse) :=
  if m % 2 = 0 then
    [(3, if on then some .p else none),
     (4, if m % 32 = 0 then some (.low 4) else if m % 32 = 16 then some (.low 3) else none)]
  else [(5, none), (6, none)]

/-- The entries with WIN = 1 of core c. -/
def winEntries (s : State) (c : Nat) : List Nat := (List.range 64).filter fun e => entWin (s.ent c e)

/-- Puts a use at a grid point of a core. -/
def setPlan (c g : Nat) (u : SlotUse) (s : State) : State :=
  s.modCore c fun k => { k with plan := tset .idle k.plan g u }

/-- The next entry of the low-power rotation takes a slot (R232). -/
def lowTake (c g : Nat) (s : State) : State :=
  let l := winEntries s c
  match (l.find? fun e => (s.core c).lpNext ≤ e).orElse fun _ => l.head? with
  | some e => s.modCore c fun k => { k with lpNext := e + 1, plan := tset .idle k.plan g (.entry e) }
  | none => s

/-- The allotment of frame m on core c (R205, R232). -/
def allot (c m : Nat) (s : State) : State :=
  if !(s.core c).powered then s
  else if (s.core c).lp then
    each (lowRoles (s.pairOn (pairOf c)) m) (fun r s =>
      match r.2 with
      | some u => setPlan c (8 * m + r.1) u s
      | none => lowTake c (8 * m + r.1) s) s
  else each (fullPlan s c m) (fun r s => setPlan c (8 * m + r.1) r.2 s) s

/-! ## Claims of free slots (R207) -/

/-- The grid point of the slot that entry e takes in its first due frame after frame m (R205). -/
def nextDue (s : State) (c e m : Nat) : Nat :=
  let p := entPeriod (s.ent c e)
  let ph := fld (s.ent c e) 20 16
  let m2 := m + 1 + (ph + p - (m + 1) % p) % p
  let i := (dueEntries (s.ent c) m2).findIdx (· = e)
  8 * m2 + (userSlots (s.pairOn (pairOf c)) m2).getD i 8

/-- The first free slot of core c that begins at least 250 ns after grid point g. -/
def freeAfter (s : State) (c g : Nat) : Option Nat :=
  ((s.core c).plan.find? fun p => p.2 = .free && g + 5 ≤ p.1).map (·.1)

/-- The conversion-dropped event of a core, once per watch tick (R207, R242). -/
def dropTell (c e : Nat) (s : State) : State :=
  let k := s.core c
  if k.dropTick then s.modCore c fun k => { k with dropOcc := k.dropOcc + 1 }
  else
    raise (0x6C + c) s.tsB (detC c e 0 0 false false 0 0 (k.dropOcc + 1) 0)
      (s.modCore c fun k => { k with dropTick := true, dropOcc := 0 })

/-- CONVERSION_DROPPED: a displaced conversion is dropped (R207). -/
def dropConv (c e : Nat) (s : State) : State :=
  let s := s.modCore c fun k => { k with
    drops := sat 0xFFFF (k.drops + 1)
    displaced := k.displaced.filter fun d => d.1 ≠ e
    ents := tmod {} k.ents e fun x => { x with res := { x.res with miss := true } } }
  dropTell c e s

/-- The entries of sequences that hold a slot which is not yet out of reach of a claim give it back: displaced conversions
claim before them (R207). -/
def unplace (c at_ : Nat) (s : State) : State :=
  let k := s.core c
  let held := k.plan.filterMap fun p =>
    match p.2 with
    | .entry e => if at_ + 5 ≤ p.1 && (k.seqs.any fun q => q.placed.contains e) then some (p.1, e) else none
    | _ => none
  let back := held.map (·.2)
  s.modCore c fun k => { k with
    plan := k.plan.map fun p => if held.any fun h => h.1 = p.1 then (p.1, .free) else p
    seqs := k.seqs.map fun q => { q with
      wait := (List.range 64).filter fun e => q.wait.contains e || (q.placed.contains e && back.contains e)
      placed := q.placed.filter fun e => !back.contains e } }

/-- A displaced conversion takes its free slot, or is dropped where none lies before its limit; one of a sequence waits
(R207). -/
def placeDisplaced (c : Nat) (d : Nat × Nat × Option Nat) (s : State) : State :=
  let take (g : Nat) : State := s.modCore c fun k => { k with
    plan := tset .idle k.plan g (.entry d.1), displaced := k.displaced.filter (· ≠ d) }
  match freeAfter s c d.2.1, d.2.2 with
  | some g, some lim => if g < lim then take g else dropConv c d.1 s
  | some g, none => take g
  | none, some lim => if lim ≤ 8 * (s.now + 2) then dropConv c d.1 s else s
  | none, none => s

/-- Places displaced conversions in the order they were displaced, then the entries of started sequences, into free slots,
as the claims stand at the instant `at_` (R207). -/
def placeClaims (c at_ : Nat) (s : State) : State :=
  let s := unplace c at_ s
  let s := each (s.core c).displaced (placeDisplaced c) s
  each (s.core c).seqs (fun q s =>
    each q.wait (fun e s =>
      match freeAfter s c (max at_ q.from_) with
      | some g => s.modCore c fun k => { k with
          plan := tset .idle k.plan g (.entry e)
          seqs := k.seqs.map fun r => if r.trig = q.trig then { r with wait := r.wait.filter (· ≠ e), placed := r.placed ++ [e] } else r }
      | none => s) s) s

/-- The conversion planned at grid point g gives up its slot; an entry's has a claim from the instant `at_` (R207). -/
def unplan (c at_ : Nat) (g : Nat) (s : State) : State :=
  match tget SlotUse.idle (s.core c).plan g with
  | .entry e =>
    (setPlan c g .idle s).modCore c fun k => { k with
      displaced := k.displaced ++ [(e, at_, if entTrig (s.ent c e) = 1 then some (nextDue s c e (g / 8)) else none)]
      seqs := k.seqs.map fun q => if q.placed.contains e then
        { q with placed := q.placed.filter (· ≠ e), moved := q.moved ++ [e] } else q }
  | _ => setPlan c g .idle s

/-- The conversions planned at the grid points of `l`, in the order they are displaced at the instant `at_` (R207, R220,
R225). -/
def displace (c at_ : Nat) (l : List Nat) (s : State) : State := placeClaims c at_ (each l (unplan c at_) s)

/-! ## Sequences and urgent slots (R213, R214, R224 to R226) -/

/-- SEQUENCE_START: the entries of core c with TRIG t form a sequence (R213); none starts in low-power mode. -/
def startSeq (c t g : Nat) (s : State) : State :=
  let l := (List.range 64).filter fun e => entTrig (s.ent c e) = t
  if l.isEmpty || (s.core c).lp || !(s.core c).powered then s
  else placeClaims c g (s.modCore c fun k => { k with seqs := k.seqs ++ [{ trig := t, wait := l, from_ := g }] })

/-- A sequence of trigger t is in progress on core c. -/
def State.seqBusy (s : State) (c t : Nat) : Bool := (s.core c).seqs.any fun q => q.trig = t

/-- A conversion of entry e that belongs to a sequence has ended; the sequence ends with its last (R213). -/
def seqEnded (c e : Nat) (s : State) : State :=
  let last (q : SeqRun) : Bool := q.wait.isEmpty && q.placed ++ q.moved = [e]
  let done := (s.core c).seqs.filter last
  let s := s.modCore c fun k => { k with
    seqs := (k.seqs.filter fun q => !last q).map fun q =>
      { q with placed := q.placed.filter (· ≠ e), moved := q.moved.filter (· ≠ e) } }
  if done.any fun q => q.trig = 2 then finishMid (fun w => w = .convSeq c) stOk 0 s else s

/-- Channels of AC2 and AC3 that the words in force use beyond the schedule: an urgent slot's entry, and the window entries of a
core in low-power mode (R224, R232, R245). -/
def State.moreUses (s : State) : Bool :=
  [2, 3].any fun c =>
    ((List.range 4).any fun k => s.cb (0x7100 + 0x80 * c + 0x14 + 4 * k) 8) ||
      (s.cb 0x7000 c && (List.range 64).any fun e => entWin (s.ent c e))

/-- CNV_URGc_k in force. -/
def State.urgReg (s : State) (c k : Nat) : W32 := s.cw (0x7100 + 0x80 * c + 0x14 + 4 * k)

def modUrg (c k : Nat) (f : Urg → Urg) (s : State) : State :=
  s.modCore c fun x => { x with urgs := tmod {} x.urgs k f }

def State.urg (s : State) (c k : Nat) : Urg := tget {} (s.core c).urgs k

/-- URGENT_FIRE at PLL cycle cyc: it takes its grid point, or is discarded as busy (R224 to R226, R232). Slots of one slice that
could take the same grid point are served in ascending number. Answers whether it was accepted. -/
def fireUrgent (c k cyc : Nat) (s : State) : Bool × State :=
  if (s.urg c k).busy || (s.core c).lp || !(s.core c).powered then
    (false, raise 0x77 (s.tsAt cyc) (detC c (fld (s.urgReg c k) 5 0) (fld (s.urgReg c k) 7 6) 0 false false 0 0 0 0)
      (s.modCore c fun x => { x with urgLost := sat 0xFF (x.urgLost + 1) }))
  else
    let sl := fld (s.urgReg c k) 7 6
    let base := cdiv (2000 * s.now + cyc + 250) 250
    let rivals := (List.range 4).filter fun j => (s.urg c j).busy && fld (s.urgReg c j) 7 6 = sl
    let ahead (j : Nat) : Bool := (s.urg c j).started || (s.urg c j).g < base || j < k
    let g := (rivals.filter ahead).foldl (fun m j => max m ((s.urg c j).g + 4)) base
    let behind := rivals.filter fun j => !ahead j
    let d := behind.foldl (fun m j => max m (g + 4 - (s.urg c j).g)) 0
    (true, modUrg c k (fun _ => { busy := true, g := g }) (each behind (fun j s => modUrg c j (fun u => { u with g := u.g + d }) s) s))

/-- A conversion of the slice that ends at grid point g is the scrub that is pending (R220). -/
def scrubDue (x : Slice) (g : Nat) : Bool :=
  match x.scrub with
  | some g0 => decide (g0 + 4 ≤ g)
  | none => false

/-- At the boundary of frame n a conversion of slice i that begins after it is to be a scrub (R222); one that is pending on the
conversion now running stays (R220). -/
def clampScrub (plan : Tbl SlotUse) (i n : Nat) (x : Slice) : Slice :=
  let use := tget SlotUse.idle plan (8 * n + i)
  if scrubDue x (8 * n + i) && use ≠ .idle && use ≠ .free then { x with again := true } else { x with scrub := some (8 * n) }

/-- A scrub is made on slice i, ending at grid point g; a second one that a boundary placed behind it is then pending (R220 to
R222). -/
def scrubDone (c i g : Nat) (s : State) : State :=
  (s.modCore c fun k => { k with scrubs := sat 0xFFFF (k.scrubs + 1) }) |>
    modSlice c i fun x => { x with
      scrub := if x.again then some (8 * s.now) else none, again := false, scrubFrame := some (BitVec.ofNat 48 (g / 8)) }

/-- The urgent conversion of slot k starts, or its grid point moves behind a P conversion or a scrub (R225). -/
def startUrgent (c k : Nat) (s : State) : State :=
  let u := s.urg c k
  if !u.busy || u.started then s
  else
    let sl := fld (s.urgReg c k) 7 6
    let g := u.g
    -- end of the slot of the slice that runs or begins at g
    let e := g + 1 + (sl + 8 - (g + 1) % 4) % 4
    let use := tget SlotUse.idle (s.core c).plan e
    let conv := use ≠ .idle && use ≠ .free
    let scr := conv && scrubDue (s.slice c sl) e
    if g ≠ e - 4 && (scr || use = .p || use = .pRef) then modUrg c k (fun u => { u with g := e }) s
    else
      let s2 := displace c g (if g ≠ e - 4 then [e, e + 4] else [e]) s
      match (s.slice c sl).scrub with
      | some _ => scrubDone c sl (g + 4) (modUrg c k (fun u => { u with g := g + 4 }) s2)
      | none => modUrg c k (fun u => { u with started := true }) s2

/-! ## Results (R215 to R217) -/

/-- Raw value to code, over-range and under-range (R216). -/
def correct (r ofs gain : Int) : Nat × Bool × Bool :=
  let v := rdiv ((r - ofs) * gain) (2 ^ 18)
  if 4095 < v then (0xFFF, true, false) else if v < 0 then (0, false, true) else (v.toNat, false, false)

/-- Core c is named suspect (R230). -/
def State.suspect (s : State) (c : Nat) : Bool := (s.ppair (pairOf c)).suspect.testBit (c % 2)

/-- The result a conversion delivers at grid point g on slice i (R215, R216, R221, R222). -/
def mkRes (s : State) (c i g : Nat) (r : Int) (urg : Bool) : Res :=
  let sl := s.slice c i
  let k := correct r sl.ofs sl.gain
  let f := BitVec.ofNat 48 (g / 8)
  { code := k.1, ovr := k.2.1, under := k.2.2, valid := (s.refm (pairOf c)).rdy
    rcv := sl.scrubFrame = some f || sl.clamp.isSome, urg := urg, sus := s.suspect c, slice := i
    ts := { frame := f, frac := BitVec.ofNat 8 (32 * (g % 8)) } }

/-- An over-range conversion of channel ch leaves residue on slice i at grid point g (R220, R222, R242). -/
def overRange (c i ch e g : Nat) (res : Res) (clamp : Bool) (s : State) : State :=
  if !res.ovr then s
  else
    let s := modSlice c i (fun x => { x with scrub := some g }) s
    let s := s.modCore c fun k => { k with ovrs := sat 0xFFFF (k.ovrs + 1) }
    let k := s.core c
    let s := if k.ovrTick then s.modCore c fun k => { k with ovrOcc := k.ovrOcc + 1 }
      else raise (0x64 + c) res.ts (detC c e i res.code true false 0 0 (k.ovrOcc + 1) 0)
        (s.modCore c fun k => { k with ovrTick := true, ovrOcc := 0 })
    if clamp && ch < 152 then
      raise (0x68 + c) res.ts (detC c e i res.code true false 0 0 0 0)
        (modSlice c i (fun x => { x with clamp := some ch }) s)
    else s

/-! ## Windows (R227, R228) -/

/-- The next state of a window after a result (R227). -/
def winNext (w : W32) (st : WSt) (r : Res) : WSt :=
  let lo := fld w 11 0
  let hi := fld w 23 12
  let hy := fld w 31 24
  let flags := r.ovr || r.under
  match st with
  | .unknown => if lo ≤ r.code ∧ r.code ≤ hi ∧ !flags then .inside else .outside
  | .inside => if hi < r.code ∨ r.code < lo ∨ flags then .outside else .inside
  | .outside => if lo + hy ≤ r.code ∧ r.code + hy ≤ hi ∧ !flags then .inside else .outside

/-- WINDOW_UPDATE (R227). -/
def windowUpdate (c e : Nat) (r : Res) (s : State) : State :=
  if !entWin (s.ent c e) || r.rcv || !r.valid then s
  else
    let old := (s.entry c e).win
    let new := winNext (s.cw (0x7800 + 0x100 * c + 4 * e)) old r
    let s := modEnt c e (fun x => { x with win := new, inCnt := if new = .inside then x.inCnt else 0 }) s
    if new = .outside && old ≠ .outside then
      let b := BitVec.ofNat 64 (2 ^ e)
      raise (0x60 + c) r.ts (detC c e r.slice r.code r.ovr r.under 0 0 0 0)
        (s.modCore c fun k => { k with leave := k.leave ||| b, leaveNow := k.leaveNow ||| b })
    else s

/-- The counts of consecutive frames INSIDE at order 2 of a boundary (R99, R228). -/
def countWindows (c : Nat) (s : State) : State :=
  s.modCore c fun k => { k with ents := (k.ents.map fun p =>
    (p.1, { p.2 with inCnt := if p.2.win = .inside then sat 255 (p.2.inCnt + 1) else 0 })).filter fun p => p.2 ≠ {} }

/-- What the engines read of the results from a boundary on (R46); results held back come into force (R205). -/
def seeResults (c : Nat) (s : State) : State :=
  s.modCore c fun k => { k with ents := (k.ents.map fun p =>
    (p.1, { p.2 with
      stall := p.2.stall - 1
      seen := p.2.res
      good := if p.2.res.valid then p.2.res else p.2.good })).filter fun p => p.2 ≠ {} }

/-- VALID of an entry's result falls to 0: its window becomes UNKNOWN (R215, R227). -/
def invalidate (x : Ent) : Ent :=
  { x with res := { x.res with valid := false }, seen := { x.seen with valid := false }, win := .unknown, inCnt := 0 }

/-- Every result of a core becomes invalid (R212, R215). -/
def invalidCore (c : Nat) (s : State) : State :=
  each (List.range 64) (fun e s => modEnt c e (fun x => if x = {} then x else invalidate x) s) s

/-! ## Plausibility (R229 to R231) -/

/-- The two P results of a pair, when both have ended in this frame. -/
def pBoth (s : State) (p : Nat) : Option (Res × Res) :=
  match (s.core (2 * p)).pRes, (s.core (2 * p + 1)).pRes with
  | some a, some b => some (a, b)
  | _, _ => none

def absDiff (a b : Nat) : Nat := (a - b) + (b - a)

/-- TOL of a pair; 0 acts as 1. -/
def State.tol (s : State) (p : Nat) : Nat := orDef (s.cf (0x700C + 4 * p) 15 8) 1

/-- PLAUSIBILITY_VOTE (R230). -/
def plausVote (p : Nat) (a b : Res) (s : State) : State :=
  let exp := (rdiv (1200 * 4096) (orDef (s.vref p) 1)).toNat
  let v := b2n (decide (s.tol p < absDiff a.code exp)) + 2 * b2n (decide (s.tol p < absDiff b.code exp))
  let s := s.modPpair p fun x => { x with vote := false, suspect := v, raised := true, agree := 0 }
  raise (0x70 + p) a.ts (detC (2 * p) 0 3 a.code a.ovr a.under v 0 0 0) s

/-- PLAUSIBILITY_RESTORE: 32 consecutive agreeing comparisons (R231). -/
def plausRestore (p : Nat) (s : State) : State :=
  let x := s.ppair p
  if x.raised && 32 ≤ x.agree then
    raise (0x72 + p) s.tsB (detC (2 * p) 0 3 0 false false 0 0 0 0)
      (s.modPpair p fun x => { x with suspect := 0, raised := false, agree := 0, disagree := 0 })
  else s

/-- PLAUSIBILITY_COMPARE (R229). -/
def plausCompare (p : Nat) (s : State) : State :=
  match pBoth s p with
  | none => s
  | some (a, b) =>
    if (s.ppair p).vote then plausVote p a b s
    else if !a.valid || !b.valid || a.ovr || a.under || a.rcv || b.ovr || b.under || b.rcv then s
    else if s.tol p < absDiff a.code b.code then
      s.modPpair p fun x =>
        let d := sat 4 (x.disagree + 1)
        { x with disagree := d, agree := 0, vote := d = 4 && !x.raised }
    else plausRestore p (s.modPpair p fun x => { x with disagree := 0, agree := if x.raised then x.agree + 1 else 0 })

/-! ## Housekeeping (R218, R219) -/

/-- Channel of a housekeeping kind on core c (R218). -/
def hkChan (c k : Nat) : Nat :=
  if k = 0 then 163 else if k = 1 then 166 else if k = 2 then 165 else if k = 3 then 162
  else if k = 4 then 152 + c
  else if k = 5 then [156, 158, 160, 157].getD c 156
  else if k = 6 then [157, 159, 161, 156].getD c 157
  else 164

/-- One step of v towards t. -/
def stepTo (v t : Int) : Int := if v < t then v + 1 else if t < v then v - 1 else v

/-- Up to 32 values left by updates, and whether they lie within one step. -/
def hist32 (v : Int) (l : List Int) : List Int := (v :: l).take 32
def settled (l : List Int) : Bool := l.length = 32 && l.all fun a => l.all fun b => a - b ≤ 1

/-- COEFFICIENT_UPDATE from a ZERO, CAL or RAMP result R on slice i (R219). -/
def coefUpdate (c k i : Nat) (r : Int) (s : State) : State :=
  modSlice c i (fun x =>
    let cur := x.pend.getD (x.ofs, x.gain, x.trim)
    let x := if k = 0 then
        let o := stepTo x.ofs r
        { x with pend := some (clampI (-32768) 32767 o, cur.2.1, cur.2.2), ofsH := hist32 o x.ofsH }
      else if k = 1 then
        let e := (r - x.ofs) * x.gain - 14336 * 65536
        let g := clampI 0 (2 ^ 18 - 1) (if 65536 < 2 * e then x.gain - 1 else if 2 * e < -65536 then x.gain + 1 else x.gain)
        { x with pend := some (cur.1, g, cur.2.2), gainH := hist32 g x.gainH }
      else
        let sum := x.rampSum + (rdiv ((r - x.ofs) * x.gain) 65536 - 2048 * (i + 1))
        if x.rampCnt + 1 < 16 then { x with rampSum := sum, rampCnt := x.rampCnt + 1 }
        else
          -- one quarter LSB is 122 ps, one step 0.5 ps: |sum / 16| x 122 against 0.5
          let t := clampI (-128) 127 (if 16 < 244 * sum then x.trim - 1 else if 244 * sum < -16 then x.trim + 1 else x.trim)
          { x with pend := some (cur.1, cur.2.1, t), trimH := hist32 t x.trimH, rampSum := 0, rampCnt := 0 }
    { x with conv := settled x.ofsH && settled x.gainH && settled x.trimH }) s

/-- A housekeeping conversion of kind k on slice i (R218, R219). -/
def hkResult (c k i : Nat) (r : Int) (res : Res) (s : State) : State :=
  let v := if k = 0 ∨ k = 1 ∨ k = 2 ∨ k = 7 then r else s.engOf (hkChan c k) res.code
  let s := s.modCore c fun x => { x with hk := tset {} x.hk k res, hkVal := tset 0 x.hkVal k v }
  if k ≤ 2 && s.drt.bg.testBit 6 && s.cb 0x7000 6 && res.valid && !res.ovr && !res.under && !res.rcv && !(s.core c).lp then
    coefUpdate c k i r s
  else s

/-! ## The shed comparator and the rail history (R233, R234) -/

/-- The entry named in INL_BUS is e of core c and is used. -/
def State.isBus (s : State) (c e : Nat) : Bool :=
  s.cf 0x6400 1 0 = c && s.cf 0x6400 7 2 = e && entTrig (s.ent c e) ≠ 0

/-- The shed comparator is armed (R234). -/
def State.shedArmed (s : State) : Bool := s.inl.armed && (s.refm (pairOf (s.cf 0x6400 1 0))).rdy

/-- A result of the bus entry meets the shed comparator (R234). -/
def shedCompare (c e : Nat) (r : Res) (s : State) : State :=
  if s.isBus c e && s.shedArmed && r.valid then
    { s with inl := { s.inl with below := !r.ovr && (r.under || r.code < s.inl.code) } }
  else s

/-- The entry is the lowest of its core that converts the channel. -/
def State.firstOn (s : State) (c e ch : Nat) : Bool :=
  (List.range 64).find? (fun x => entTrig (s.ent c x) ≠ 0 && entChan (s.ent c x) = ch) = some e

/-- A result enters the rail's history of eight (R233, sample format R161). -/
def railHistory (c e : Nat) (r : Res) (s : State) : State :=
  let ch := entChan (s.ent c e)
  if ch < 96 && s.firstOn c e ch then
    let v := r.code + 4096 * b2n r.ovr + 8192 * b2n r.under + 16384 * b2n (r.valid && !r.rcv)
    s.modRail ch fun x => { x with hist := ((r.ts.frame, v) :: x.hist).take 8 }
  else s

/-! ## Calibration averaging (R237) -/

/-- DETAIL of a calibration event. -/
def detCal (s : State) (res : Nat) : BitVec 128 :=
  detC 0 0 0 (s.cnv.cal.elim 0 fun r => r.chans.headD 0) false false 0 res 0 0

/-- The calibration ends with a refusal (R237). -/
def calRefuse (status res : Nat) (s : State) : State :=
  match s.cnv.cal with
  | none => s
  | some r =>
    finishAt 1 r.seq status 0 (raise 0x7A s.tsB (detCal s res)
      { s with cnv := { s.cnv with cal := none, calState := 0, calResult := res } })

/-- The lowest-numbered periodic entry that converts a channel, over cores in ascending order. -/
def calEntry (s : State) (ch : Nat) : Option (Nat × Nat) :=
  ((List.range 4).flatMap fun c => (List.range 64).map fun e => (c, e)).find? fun p =>
    entTrig (s.ent p.1 p.2) = 1 && entChan (s.ent p.1 p.2) = ch

/-- A valid result of a channel under calibration is averaged, or refuses it (R237). -/
def calAverage (c e : Nat) (r : Res) (s : State) : State :=
  match s.cnv.cal with
  | none => s
  | some run =>
    let ch := entChan (s.ent c e)
    let a := tget (0, 0) run.acc ch
    if !((s.cnv.calState = 1 || s.cnv.calState = 3) && s.drt.bg.testBit 6 && run.chans.contains ch &&
        calEntry s ch = some (c, e) && a.2 < run.n && r.valid) then s
    else if r.ovr || r.under || r.rcv || r.sus || r.miss then calRefuse stNoisy 3 s
    else if r.code < 16 || 4079 < r.code then calRefuse stRange 2 s
    else
      let run := { run with acc := tset (0, 0) run.acc ch (a.1 + r.code, a.2 + 1) }
      { s with cnv := { s.cnv with cal := some run, calDone := sat 255 (run.acc.foldl (fun m p => max m p.2.2) 0) } }

/-! ## The end of a conversion (R215) -/

/-- The result of an entry is written and used (R215, R217, R227, R233, R234, R237, R239). -/
def writeEntry (c e g i : Nat) (r : Int) (clamp urg : Bool) (s : State) : State :=
  let res := mkRes s c i g r urg
  let ch := entChan (s.ent c e)
  let s := overRange c i ch e g res clamp s
  if (s.entry c e).stall ≠ 0 then s
  else
    let late := (s.core c).displaced.any fun d => d.1 = e && d.2.2.any (· ≤ g)
    let s := if late then dropConv c e s else s
    let s := modEnt c e (fun x => { x with res := res }) s
    let s := windowUpdate c e res s
    let s := railHistory c e res s
    let s := shedCompare c e res s
    let s := calAverage c e res s
    { s with cnv := { s.cnv with now := s.cnv.now ++
      [{ frame := res.ts.frame, core := c, entry := e, res := res, eng := s.engOf ch res.code }] } }

/-- A P conversion ends (R229). -/
def pResult (c i g : Nat) (r : Int) (clamp : Bool) (s : State) : State :=
  let p := pairOf c
  let ch := if (s.ppair p).vote then 162 else s.cf (0x700C + 4 * p) 7 0
  let res := mkRes s c i g r false
  let s := overRange c i ch 63 g res clamp s
  plausCompare p (s.modCore c fun k => { k with pRes := some res })

/-- CONVERSION_END of slot j of the present frame on core c, with raw value r and the clamp detector of its input
(R45, R215, R220). -/
def slotEnd (c j : Nat) (r : Int) (clamp : Bool) (s : State) : State :=
  let g := 8 * s.now + j
  let i := j % 4
  let use := tget SlotUse.idle (s.core c).plan g
  let conv := use ≠ .idle && use ≠ .free
  if !(s.core c).powered || !conv then s
  else if scrubDue (s.slice c i) g then
    displace c (g - 4) [g] (scrubDone c i g s)
  else
    let s := setPlan c g .idle s
    match use with
    | .entry e => seqEnded c e (writeEntry c e g i r clamp false s)
    | .p => pResult c i g r clamp s
    | .pRef => pResult c i g r clamp s
    | .h =>
      let k := s.now % 32 / 4
      let res := mkRes s c i g r false
      hkResult c k i r res (overRange c i (hkChan c k) 63 g res false s)
    | .low k =>
      let res := mkRes s c i g r false
      hkResult c k i r res (overRange c i (hkChan c k) 63 g res false s)
    | _ => s

/-- The end of the conversion of urgent slot k (R224, R225). -/
def urgentEnd (c k : Nat) (r : Int) (clamp : Bool) (s : State) : State :=
  let u := s.urg c k
  if !u.busy || !u.started then s
  else
    let w := s.urgReg c k
    let s := modUrg c k (fun _ => {}) s
    let s := writeEntry c (fld w 5 0) (u.g + 4) (fld w 7 6) r clamp true s
    finishMid (fun x => x = .urgent (4 * c + k)) stOk (tget {} (s.core c).ents (fld w 5 0)).res.code s

/-! ## References and power (R212, R216) -/

/-- The references stand in PD5 (R33). -/
def State.refPowered (s : State) : Bool := s.pwr.domains.testBit 5

/-- REFERENCE FAULT: FAULT is set, the event raised, results lose VALID (R212). -/
def refFault (p : Nat) (s : State) : State :=
  raise (0x74 + p) s.tsB (detC (2 * p) 0 0 0 false false 0 0 0 0)
    (s.modRefm p fun x => { x with rdy := false, fault := true, faultNow := true })

/-- REFRDY falls (R212). -/
def refFall (p : Nat) (s : State) : State :=
  if (s.refm p).rdy then
    invalidCore (2 * p) (invalidCore (2 * p + 1) (refFault p (s.modRefm p fun x => { x with good := 0 })))
  else s

/-- REFRDY is set (R212). -/
def refSet (p : Nat) (s : State) : State := s.modRefm p fun x => { x with rdy := true }

/-- The reference monitor at a boundary (R212). -/
def refStep (p : Nat) (out : Bool) (s : State) : State :=
  if !s.refPowered then s
  else
    let s := s.modRefm p fun x => { x with age := sat 4097 (x.age + 1), good := if out then 0 else sat 64 (x.good + 1) }
    let x := s.refm p
    if out && x.rdy then refFall p s
    else if x.good = 64 && !x.rdy then refSet p s
    else if x.age = 4096 && !x.rdy then refFault p s
    else s

/-- A core gains power: coefficients come from the fuse block (R216), results hold nothing. -/
def coreUp (c : Nat) (s : State) : State :=
  s.modCore c fun k => { k with
    powered := true, ents := [], plan := []
    slices := [0, 1, 2, 3].foldl (fun t i => tset {} t i
      { ofs := Config.fuseCoef (100 * c + 4 * i), gain := Config.fuseCoef (100 * c + 4 * i + 1)
        trim := Config.fuseCoef (100 * c + 4 * i + 2) }) [] }

/-- A core loses power: every result reads VALID 0 and its schedule is gone (R34, R215). -/
def coreDown (c : Nat) (s : State) : State :=
  (invalidCore c s).modCore c fun k => { k with
    powered := false, plan := [], urgs := [], seqs := [], displaced := [], pRes := none }

/-- The low-power bit in force at a boundary (R232). -/
def lowPower (c : Nat) (s : State) : State :=
  let on := s.cb 0x7000 c && (s.core c).powered
  if on && !(s.core c).lp then
    each (List.range 64) (fun e s =>
      if entWin (s.ent c e) then s else modEnt c e (fun x => if x = {} then x else invalidate x) s)
      (s.modCore c fun k => { k with lp := true })
  else s.modCore c fun k => { k with lp := on }

/-- What the array does at a boundary of its own: coefficients, clamps, counts, claims and the allotment of the
frame after the one that begins (R205, R219, R222). -/
def convBoundary (clamps : List Nat) (c : Nat) (s : State) : State :=
  let n := s.now
  let s := s.modCore c fun k => { k with
    pRes := none
    plan := k.plan.filter fun p => 8 * n ≤ p.1
    slices := k.slices.map fun p => (p.1,
      let x := p.2
      let x := match x.pend with
        | some v => { x with ofs := v.1, gain := v.2.1, trim := v.2.2, pend := none }
        | none => x
      match x.clamp with
      | some ch => clampScrub k.plan p.1 n (if clamps.contains ch then x else { x with clamp := none })
      | none => x) }
  let s := seeResults c s
  placeClaims c (8 * n) (allot c (n + 1) (lowPower c s))

/-- The slot plan follows a load of the frame counter by d grid points (R334), which moves no slot boundary (R46). -/
def shiftGrid (d : Nat) (s : State) : State :=
  each [0, 1, 2, 3] (fun c s => s.modCore c fun k => { k with
    plan := k.plan.map fun p => (p.1 + d, p.2)
    slices := k.slices.map fun p => (p.1, { p.2 with scrub := p.2.scrub.map (· + d) })
    urgs := k.urgs.map fun p => (p.1, if p.2.busy then { p.2 with g := p.2.g + d } else p.2)
    seqs := k.seqs.map fun q => { q with from_ := q.from_ + d }
    displaced := k.displaced.map fun x => (x.1, x.2.1 + d, x.2.2.map (· + d)) }) s

/-- SLICE_UNCLAMP (R222): the detector of the channel is clear at the boundary. -/
def unclamp (c i : Nat) (s : State) : State :=
  if (s.slice c i).clamp.isSome then
    modSlice c i (fun x => clampScrub (s.core c).plan i s.now { x with clamp := none }) s
  else s

end Sys2Proof.Machine
end

