-- ==== Sys2Proof/Machine/Stage.lean ====
section
/-! DEFINITION. Machine/Stage.lean: the conversion stages (chapter 8): control law, ramps, current cap, phase
diagnostics, protection. Reactions to a stage fault stand in Faults.lean. -/

namespace Sys2Proof.Machine

/-! ## Settings and readings -/

/-- A register of stage st in force. -/
def State.sreg (s : State) (st o : Nat) : W32 := s.cw (sbase st + o)
def State.sfld (s : State) (st o hi lo : Nat) : Nat := fld (s.sreg st o) hi lo

/-- The core of a stage's entries (R249). -/
def stgCore (st : Nat) : Nat := if st < 2 then 2 else 3

/-- Configured phases. -/
def State.nph (s : State) (st : Nat) : Nat := s.sfld st 0 3 1 + 1

/-- Healthy phases 0-7 of a stage, ascending (R251). -/
def State.healthy (s : State) (st : Nat) : List Nat :=
  (List.range (s.nph st)).filter fun k => !(s.stg st).dropped.testBit k

/-- The state is KINDLING, MOVING, REGULATED or CAPPED. -/
def SState.running : SState → Bool
  | .kindling => true | .moving => true | .regulated => true | .capped => true | _ => false

/-- The stage counts as regulated (R256). -/
def SState.isReg : SState → Bool
  | .regulated => true | .capped => true | _ => false

/-- The output-voltage entry as the engines read it. -/
def State.outEnt (s : State) (st : Nat) : Ent := s.entry (stgCore st) (s.sfld st 0 21 16)
def State.outMv (s : State) (st : Nat) (r : Res) : Int := s.engRes (stgCore st) (s.sfld st 0 21 16) r
def State.vinEnt (s : State) (st : Nat) : Ent := s.entry (stgCore st) (s.sfld st 0 27 22)
def State.vinMv (s : State) (st : Nat) (r : Res) : Int := s.engRes (stgCore st) (s.sfld st 0 27 22) r

/-- IENTRY of phase k of a stage. -/
def State.ientry (s : State) (st k : Nat) : Nat := s.cf (0x8400 + 8 * (8 * st + k)) 5 0

/-- The latest valid current of phase k in mA, and whether the last frame delivered it. -/
def State.phaseMa (s : State) (st k : Nat) : Int × Bool :=
  let r := (s.entry (stgCore st) (s.ientry st k)).good
  (s.engRes (stgCore st) (s.ientry st k) r, r.valid && r.ts.frame = s.clk.last)

/-- I_sum of the healthy phases in mA (R268). -/
def State.isum (s : State) (st : Nat) : Int := ((s.healthy st).map fun k => (s.phaseMa st k).1).foldl (· + ·) 0

/-- ICAP in 100 mA (R268), in exact arithmetic. -/
def State.icap (s : State) (st : Nat) : Nat :=
  s.sfld st 0x1C 15 0 * min ((s.stg st).capPct * s.nph st) (100 * (s.healthy st).length) / (100 * s.nph st)

/-- The event of kind k of a stage (R282, R478). -/
def stgEvent (st k ph why : Nat) (s : State) : State :=
  let x := s.stg st
  let h := (s.healthy st).foldl (fun m k => m + 2 ^ k) 0
  raise (0x80 + 8 * st + k) s.tsB (detT st x.fcause h ph why x.consecHic x.sp x.vout x.iout) s

/-! ## Arithmetic (R257 to R261) -/

def sat24 (i : Int) : Int := clampI (-(2 ^ 23)) (2 ^ 23 - 1) i
def sat48 (i : Int) : Int := clampI (-(2 ^ 47)) (2 ^ 47 - 1) i

/-- acc x 2^(E - 22), rounded (R258). -/
def scaleE (acc e : Int) : Int :=
  if e < 22 then rdiv acc (2 ^ (22 - e).toNat) else acc * (2 ^ (e - 22).toNat : Nat)

/-- A coefficient in use. -/
def State.mant (s : State) (k : Nat) : Int := sext 24 (tget (0 : W32) s.coef k).toNat
def State.expo (s : State) (k : Nat) : Int := sext 6 (tget (0 : W32) s.coef k).toNat

/-- One biquad stage: y, its histories, saturation of the result, overflow of the accumulator (R258). -/
def biquad (b0 b1 b2 a1 a2 e : Int) (h : Bq) (x : Int) : Int × Bq × Bool × Bool :=
  let terms := [b0 * x, b1 * h.x1, b2 * h.x2, -(a1 * h.y1), -(a2 * h.y2)]
  let r := terms.foldl (fun (p : Int × Bool) t => (sat48 (p.1 + t), p.2 || sat48 (p.1 + t) ≠ p.1 + t)) (0, false)
  let v := scaleE r.1 e
  let y := sat24 v
  (y, { x1 := x, x2 := h.x1, y1 := y, y2 := h.y1 }, y ≠ v, r.2)

/-- The filter chain (R258): output, histories, SAT, OVF. -/
def chain (s : State) (st n : Nat) (e : Int) : Int × List Bq × Bool × Bool :=
  let base := 0x8200 + 0x80 * st
  (List.range n).foldl (fun (p : Int × List Bq × Bool × Bool) i =>
    let b := base + 0x18 * i
    let r := biquad (s.mant b) (s.mant (b + 4)) (s.mant (b + 8)) (s.mant (b + 12)) (s.mant (b + 16))
      (s.expo (b + 20)) (p.2.1.getD i {}) p.1
    (r.1, p.2.1.set i r.2.1, p.2.2.1 || r.2.2.1, p.2.2.2 || r.2.2.2)) (e, (s.stg st).bqs, false, false)

/-- On-time of a phase without its limits: round(u x PERIOD / 2^23) + TRIM, and the limits (R251). -/
def onTime (s : State) (st k : Nat) (u : Int) : Int × Int × Int :=
  let p := s.sfld st 4 15 0
  (rdiv (u * p) (2 ^ 23) + (s.phase (8 * st + k)).trim, (s.sfld st 4 31 24 * p / 256 : Nat),
    (s.sfld st 4 23 16 * p / 256 : Nat))

/-- 1 where phase 0 is clamped at DMAX, 2 at DMIN (R259). -/
def clampOf (s : State) (st : Nat) (u : Int) : Nat :=
  let o := onTime s st 0 u
  if o.2.2 < o.1 then 1 else if o.1 < o.2.1 then 2 else 0

/-- A value of n bits that the spec does not state (log 2). -/
def freeInt (n : Nat) (s : State) : Int × State :=
  let f := s.drawFree n
  (f.1.toInt, f.2)

/-- REF16 (R257); GAIN 0 leaves it open (log 2). -/
def ref16 (st : Nat) (s : State) : Int × State :=
  let ch := entChan (s.ent (stgCore st) (s.sfld st 0 21 16))
  let gain := fld (s.calLo ch) 23 0
  if gain = 0 then freeInt 24 s
  else (rdiv (((s.stg st).sp - 100 * sext 16 (s.calHi ch).toNat) * 2 ^ 20) (100 * gain), s)

/-- Sets SAT and OVF; the first setting of either after a clear raises the loop-saturation event (R261). -/
def loopSat (st : Nat) (sat ovf : Bool) (s : State) : State :=
  let x := s.stg st
  let first := (sat || ovf) && !x.sat && !x.ovf
  let s := s.modStg st fun x => { x with sat := x.sat || sat, ovf := x.ovf || ovf, setNow := x.setNow ||| (b2n sat + 2 * b2n ovf) }
  if first then stgEvent st 3 0 0 s else s

/-- The duty of one instance from a code (R257 to R260). -/
def controlLaw (st code : Nat) (s : State) : Int × State :=
  let r := ref16 st s
  let s := r.2
  let x := s.stg st
  let e0 := r.1 - 16 * (code : Int)
  let e := sat24 e0
  let c := chain s st (min (s.sfld st 0 6 4) 4) e
  let xin := c.1
  let base := 0x8200 + 0x80 * st
  let ex := s.expo (base + 0x6C)
  let pid := s.cb (sbase st) 7
  let pd0 := scaleE (s.mant (base + 0x60) * xin + s.mant (base + 0x68) * (xin - x.xPrev)) ex
  let pd := sat24 pd0
  let lo : Int := s.sfld st 4 31 24 * 2 ^ 15
  let hi : Int := s.sfld st 4 23 16 * 2 ^ 15
  let inew := clampI lo hi (x.integ + scaleE (s.mant (base + 0x64) * xin) ex)
  let hold := (x.clamped = 1 && 0 < xin) || (x.clamped = 2 && xin < 0)
  let u := if pid then sat24 (pd + inew) else xin
  let satd := e ≠ e0 || c.2.2.1 || (pid && (pd ≠ pd0 || u ≠ pd + inew))
  let s := s.modStg st fun x => { x with
    bqs := c.2.1, xPrev := xin, integ := if pid && !hold then inew else x.integ }
  let nom := s.sfld st 8 27 16
  let v := s.vinEnt st
  let vin := s.vinMv st v.seen
  if s.cb (sbase st) 8 && v.seen.valid then
    if vin ≤ 0 then
      let f := freeInt 24 s
      (f.1, loopSat st satd c.2.2.2 f.2)
    else
      let w := rdiv (u * (100 * nom)) vin.toNat
      (sat24 w, loopSat st (satd || sat24 w ≠ w) c.2.2.2 s)
  else (u, loopSat st satd c.2.2.2 s)

/-! ## Leaving and starting (R255, R264, R277) -/

/-- The trims and LIMCNT of a stage become 0. -/
def clearPhases (st : Nat) (lim : Bool) (s : State) : State :=
  each (List.range 8) (fun k s => s.modPhase (8 * st + k) fun p =>
    { p with trim := 0, limcnt := if lim then 0 else p.limcnt }) s

/-- The phases go high impedance and the stage enters a state without switching (R252, R255). -/
def stageHalt (st : Nat) (dst : SState) (s : State) : State :=
  let s := s.modStg st fun x => { x with
    st := dst, switching := false, staged := none, drops := [], hicFound := false, inBand := 0, preset := false
    frz := none, noFb := 0, ovRun := 0, uvRun := 0, clamped := 0, floored := false, floorCnt := 0, floorTold := false
    lowCnt := [], chkBad := false, susTold := false }
  if dst = .off || dst = .safeOff || dst = .held then commitEnd (.stage st) s else s

/-- The owners that wait for REGULATED learn the outcome (R102, R305). -/
def stageTell (st code status : Nat) (s : State) : State :=
  each (s.stg st).waiters (fun o s => marginTell o code status s) (s.modStg st fun x => { x with waiters := [] })

/-- KINDLING begins (R264): T4.1 presets the loop in the frame that starts. -/
def kindle (st : Nat) (s : State) : State :=
  clearPhases st true (s.modStg st fun x => { x with
    st := .kindling, switching := false, preset := true, startWait := 0, inBand := 0, staged := none, frz := none
    noFb := 0, ovRun := 0, uvRun := 0, hicLeft := 0, clamped := 0 })

/-- SAFE_OFF of the safe-off policy, without the reactions (R277): loop state cleared, FCAUSE and event, the bound
rails in RAMPING or ON receive kind 6 (R152), a waiting start fails. -/
def safeOff (st cause : Nat) (s : State) : State :=
  let s := stageHalt st .safeOff s
  let s := clearPhases st true (s.modStg st fun x => { x with
    sp := 0, bqs := [{}, {}, {}, {}], integ := 0, xPrev := 0, faulted := true, fcause := cause
    faultAt := some s.clk.frame, hicLeft := 0 })
  let s := stgEvent st 0 0 0 s
  let s := stageTell st 2 stStage s
  each railList (fun i s =>
    if s.cb (fbase i) 18 && s.cf (fbase i) 20 19 = st && (s.rail i).st.live then detect 6 false s.tsB i s else s) s

/-- The stage may fault: switching or in HICCUP (R255). -/
def SState.faultable (x : SState) : Bool := x.running || x = .hiccup

/-- A pending stage retry is given up. -/
def stageRetryDrop (st : Nat) (s : State) : State :=
  s.modStg st fun x => { x with backoff := none, retry := none }

/-- STAGE_START_APPLIED (R111, R255, R278) at order 7. Answers through `o` where the step does not wait. -/
def startStage (st vset slew : Nat) (o : Owner) (wait : Bool) (s : State) : State :=
  let x := s.stg st
  let tgt := 100 * vset
  let slew := orDef slew 1
  let tell (s : State) : State :=
    if wait then s.modStg st fun x => { x with waiters := x.waiters ++ [o] } else marginTell o 1 stOk s
  let set (s : State) : State := s.modStg st fun x => { x with target := tgt, vset := tgt, slew := slew, inBand := 0 }
  if x.faultAt = some s.clk.frame then marginTell o 2 stStage s
  else match x.st with
  | .off => tell (stageRetryDrop st (kindle st (set (s.modStg st fun x => { x with consecHic := 0, retryCnt := 0 }))))
  | .safeOff =>
    tell (stageRetryDrop st (kindle st (set (s.modStg st fun x =>
      { x with consecHic := 0, retryCnt := 0, faulted := false }))))
  | .kindling => tell (set s)
  | .moving => tell (set s)
  | .regulated =>
    if tgt = x.target then marginTell o 1 stOk (s.modStg st fun x => { x with slew := slew })
    else tell ((set s).modStg st fun x => { x with st := .moving })
  | .capped =>
    if tgt = x.target then tell (s.modStg st fun x => { x with slew := slew })
    else tell ((set s).modStg st fun x => { x with st := .moving })
  | .hiccup => if vset = 0 then marginTell o 1 stOk (set (stageHalt st .off s)) else tell (set s)
  | .held => commitEnd (.stage st) (marginTell o 2 stStage s)
  | .unused => commitEnd (.stage st) (marginTell o 2 stStage s)

/-- A granted stage retry restarts the stage with the VSET and SLEW of its last start (R151, R255). -/
def retryStage (st : Nat) (s : State) : State :=
  if (s.stg st).st = .safeOff && (s.stg st).faultAt ≠ some s.clk.frame then
    kindle st (s.modStg st fun x => { x with
      target := x.vset, faulted := false, backoff := none, retry := none, retryCnt := sat 15 (x.retryCnt + 1) })
  else commitEnd (.stage st) (stageRetryDrop st s)

/-- A soft stop: the set-point ramps to 0 at the last slew (R266). -/
def softStop (st : Nat) (s : State) : State :=
  if (s.stg st).st.running then
    s.modStg st fun x => { x with target := 0, inBand := 0, st := if x.st = .kindling then .kindling else .moving }
  else s

/-- STAGE_STOP at order 6 (R255, R266). -/
def stageStopNow (st : Nat) (s : State) : State :=
  if (s.stg st).st.running then stageHalt st .off s else s

/-- STAGE_CLEAR at order 6: SAFE_OFF ends, dropped phases return (R255, R275); the count of retries stays (R172). -/
def stageClearNow (st : Nat) (s : State) : State :=
  let s := if (s.stg st).st = .safeOff then stageHalt st .off s else s
  let s := stageRetryDrop st (s.modStg st fun x => { x with faulted := false, dropped := 0 })
  each (List.range 8) (fun k s => s.modPhase (8 * st + k) fun p => { p with why := 0 }) s

/-! ## T4.1 (R262 to R268, R273, R274) -/

/-- A fresh result of the output entry for this instance (R262). -/
def freshOut (s : State) (st : Nat) : Bool :=
  let r := (s.outEnt st).seen
  r.valid && !r.miss && (s.stg st).lastTs ≠ some r.ts

/-- The preset of a kindling start from the result found (R264). -/
def presetRamp (st : Nat) (s : State) : State :=
  let r := (s.outEnt st).seen
  let v := s.outMv st r
  let nom := 100 * s.sfld st 8 27 16
  let g := (s.vinEnt st).good
  let vin : Int := if g.valid then s.vinMv st g else nom
  let lo : Int := s.sfld st 4 31 24 * 2 ^ 15
  let hi : Int := s.sfld st 4 23 16 * 2 ^ 15
  let f := if vin ≤ 0 then freeInt 24 s else (rdiv (2 ^ 23 * v) vin.toNat, s)
  let u0 := clampI lo hi f.1
  let s := clearPhases st false f.2
  let pid := s.cb (sbase st) 7
  let n := min (s.sfld st 0 6 4) 4
  s.modStg st fun x => { x with
    sp := (max 0 (100 * v)).toNat, preset := false, startWait := 0, xPrev := 0
    integ := if pid then u0 else 0
    bqs := [0, 1, 2, 3].map fun i => if !pid && i + 1 = n then { y1 := u0, y2 := u0 } else {} }

/-- SP moves towards the target by SLEW and never past it (R265). -/
def ramp (sp tgt slew : Nat) : Nat := if sp < tgt then min tgt (sp + slew) else max tgt (sp - slew)

/-- The current cap and the set-point of one instance (R265, R268, R273). -/
def moveSp (st : Nat) (hold : Bool) (s : State) : State :=
  let x := s.stg st
  let isum := s.isum st
  let icap : Int := 100 * s.icap st
  let above := icap < isum
  let floor := x.target * s.sfld st 0x0C 31 28 / 16
  if above then
    let fold := orDef (s.sfld st 0x1C 27 16) 1
    let sp := if hold || x.sp ≤ floor then x.sp else max floor (x.sp - fold)
    let toCap := x.st = .regulated
    let atFloor := sp ≤ floor
    let cnt := if atFloor then sat 256 (x.floorCnt + 1) else 0
    let s := s.modStg st fun x => { x with
      sp := sp, floored := atFloor, floorCnt := cnt
      staged := if toCap then some { (x.staged.getD {}) with goto := some .capped } else x.staged }
    if cnt = 256 && !x.floorTold && (x.st = .capped) then
      stgEvent st 4 0 0 (s.modStg st fun x => { x with floorTold := true })
    else s
  else
    s.modStg st fun x =>
      let x := { x with floorCnt := 0, floored := x.floored && x.sp ≤ floor && x.st = .capped }
      if hold then x
      else match x.st with
      | .kindling => { x with sp := ramp x.sp x.target x.slew }
      | .moving => { x with sp := ramp x.sp x.target x.slew }
      | .capped =>
        if 100 * isum ≤ 97 * icap then
          let sp := ramp x.sp x.target x.slew
          { x with sp := sp, staged := if sp = x.target then some { (x.staged.getD {}) with goto := some .regulated } else x.staged }
        else x
      | _ => x

/-- Phase balance of one instance; the trims are staged for the boundary (R58, R267). -/
def balance (st : Nat) (s : State) : State :=
  if !(s.stg st).st.isReg then s
  else
    let h := s.healthy st
    let n := h.length
    let sum := s.isum st
    let k := s.sfld st 0x20 15 0
    let lim : Int := s.sfld st 0x20 27 16
    each h (fun p s =>
      let i := s.phaseMa st p
      if i.2 then
        let t := clampI (-lim) lim ((s.phase (8 * st + p)).trim + rdiv (k * (sum - n * i.1)) (n * 2 ^ 16))
        s.modStg st fun x => { x with staged := some { (x.staged.getD {}) with trims := (x.staged.getD {}).trims ++ [(p, t)] } }
      else s) s

/-- The counts of frames in which a phase carries under 5 % of the mean of the others (R274). -/
def lowCounts (st : Nat) (s : State) : State :=
  let h := s.healthy st
  let sum := s.isum st
  let full : Int := s.sfld st 0x1C 15 0
  let on := (s.stg st).st.isReg && 2 ≤ h.length && 30 * full ≤ sum
  let ms := h.map fun k => (k, (s.phaseMa st k).1)
  s.modStg st fun x => { x with lowCnt := ms.foldl (fun t p =>
    let low := on && 20 * ((h.length : Int) - 1) * p.2 < sum - p.2
    tset 0 t p.1 (if low then tget 0 x.lowCnt p.1 + 1 else 0)) [] }

/-- In-band counting and the state the commit brings (R265, R266). -/
def judgeBand (st : Nat) (mv : Int) (s : State) : State :=
  let band := s.sfld st 0x0C 11 0
  let need := orDef (s.sfld st 0x0C 19 12) 1
  s.modStg st fun x =>
    if x.st = .kindling || x.st = .moving then
      let ok := x.sp = x.target && (100 * mv - x.target ≤ 100 * band) && ((x.target : Int) - 100 * mv ≤ 100 * band)
      let n := if ok then sat 256 (x.inBand + 1) else 0
      let c := x.staged.getD {}
      if x.target = 0 && x.sp = 0 then { x with inBand := n, staged := some { c with stop := true } }
      else if need ≤ n then { x with inBand := n, staged := some { c with goto := some .regulated } }
      else { x with inBand := n }
    else x

/-- The duty of one instance is staged for the boundary (R47, R58). -/
def stageDuty (st : Nat) (first : Bool) (u : Int) (s : State) : State :=
  s.modStg st fun x => { x with
    staged := some { (x.staged.getD {}) with u := u, first := first || (x.staged.getD {}).first } }

/-- One instance of T4.1 with a fresh result (R257 to R268, R273, R274). -/
def controlInstance (st : Nat) (first : Bool) (s : State) : State :=
  let r := (s.outEnt st).seen
  let mv := s.outMv st r
  let act := s.cb (sbase st) 10
  let s := s.modStg st fun x => { x with
    staged := some { u := x.u }, lastTs := some r.ts, sus := r.sus, vout := toBits 16 (clampI 0 65535 mv)
    iout := toBits 16 (clampI 0 65535 ((s.isum st).fdiv 100)) }
  if r.sus && act then s.modStg st fun x => { x with staged := some { u := x.u, fault := some 10 } }
  else
    let tell := r.sus && !(s.stg st).susTold
    let s := s.modStg st fun x => { x with susTold := r.sus }
    let s := if tell then stgEvent st 5 0 0 s else s
    let s := moveSp st r.sus s
    let c := controlLaw st r.code s
    let s := balance st c.2
    let s := lowCounts st s
    judgeBand st mv (stageDuty st first c.1 s)

/-- STAGE_CONTROL_TASK: T4.1 of a stage (R249, R262, R264). -/
def stageTask (st : Nat) (s : State) : State :=
  let x := s.stg st
  if !x.st.running || (s.eng (4 + st)).halted then s
  else if x.preset then
    let r := (s.outEnt st).seen
    if r.valid && !r.miss && r.ts.frame = s.clk.last then controlInstance st true (presetRamp st s)
    else
      let s := s.modStg st fun x => { x with startWait := x.startWait + 1 }
      if 64 ≤ (s.stg st).startWait then s.modStg st fun x => { x with staged := some { fault := some 11 } } else s
  else if freshOut s st then controlInstance st false s
  else s.modStg st fun x => { x with staged := some { u := x.u } }

/-! ## T4.2 (R274, R275) -/

/-- A drop is decided, or the stage faults with PHASE_LOSS where too few phases would be left. -/
def decideDrop (st k why : Nat) (s : State) : State :=
  let x := s.stg st
  let left := (s.healthy st).length - x.drops.length - 1
  if left < orDef (s.sfld st 0 15 12) 1 then
    s.modStg st fun x => { x with staged := some { (x.staged.getD { u := x.u }) with fault := some 7 } }
  else s.modStg st fun x => { x with drops := x.drops ++ [(k, why)] }

/-- CURRENT_SENSE_CHECK (R275): |I_sum - EST| > 0.15 EST; without the results EST is open (log 2). -/
def senseCheck (st : Nat) (s : State) : Bool × State :=
  let ic := s.sfld st 8 1 0
  let ie := s.sfld st 8 7 2
  let ri := (s.entry ic ie).good
  let rv := (s.vinEnt st).good
  let ro := (s.outEnt st).good
  let eff := min 100 (max 50 (s.sfld st 8 15 9))
  let vo := s.outMv st ro
  let isum := s.isum st
  if ri.valid && rv.valid && ro.valid && 0 < vo then
    let num := s.engRes ic ie ri * s.vinMv st rv * eff
    let den := 100 * vo
    let d := isum * den - num
    (decide (15 * num < 100 * d ∨ 15 * num < -(100 * d)), s)
  else
    let f := freeInt 32 s
    (decide (15 * f.1 < 100 * (isum - f.1) ∨ 15 * f.1 < 100 * (f.1 - isum)), f.2)

/-- The healthy phase whose current differs most from the mean, the lower on a tie (R275). -/
def farthest (s : State) (st : Nat) : Nat :=
  let h := s.healthy st
  let sum := s.isum st
  let d (k : Nat) : Nat := (h.length * (s.phaseMa st k).1 - sum).natAbs
  h.foldl (fun b k => if d b < d k then k else b) (h.headD 0)

/-- PHASE_DIAGNOSTICS_TASK: T4.2 of a stage (R274, R275). -/
def phaseTask (st : Nat) (s : State) : State :=
  let x := s.stg st
  if (s.eng (4 + st)).halted then s
  else
    let full : Int := s.sfld st 0x1C 15 0
    let on := x.st.isReg && 30 * full ≤ s.isum st
    let low := if x.st.isReg then (s.healthy st).filter fun k => 64 ≤ tget 0 x.lowCnt k else []
    let s := each low (fun k s => decideDrop st k 1 s) s
    if s.cb (sbase st + 8) 8 && on then
      let c := senseCheck st s
      let s := c.2.modStg st fun y => { y with chkBad := c.1 }
      if c.1 && x.chkBad && low.isEmpty then decideDrop st (farthest s st) 2 s else s
    else s.modStg st fun y => { y with chkBad := false }

/-- PHASE_DROP at order 7 (R274). -/
def dropPhase (st : Nat) (d : Nat × Nat) (s : State) : State :=
  let s := s.modStg st fun x => { x with dropped := x.dropped ||| 2 ^ d.1, lowCnt := tdel x.lowCnt d.1 }
  let s := s.modPhase (8 * st + d.1) fun p => { p with why := d.2 }
  stgEvent st 2 d.1 d.2 (clearPhases st false s)

/-! ## Hardware monitors at order 3 (R269 to R272) -/

/-- A stage fault cause is found; the lowest code is kept (R276). -/
def stgFound (st cause : Nat) (s : State) : State :=
  if (s.stg st).st.faultable then
    s.modStg st fun x => { x with found := some (match x.found with | some c => min c cause | none => cause) }
  else s

/-- SENSE_OPEN: a leg that steps by more than 100 mV at two boundaries (R270). -/
def senseOpenStep (st : Nat) (legs : List Int) (s : State) : State :=
  if !s.cb (sbase st) 9 then s
  else
    let old := (s.stg st).legs
    let new := legs.zipIdx.map fun p =>
      match old[p.2]? with
      | some o => (p.1, decide (100 < (p.1 - o.1).natAbs), o.2)
      | none => (p.1, false, false)
    let s := s.modStg st fun x => { x with legs := new.map fun n => (n.1, n.2.1) }
    if new.any fun n => n.2.1 && n.2.2 then stgFound st 1 s else s

/-- The result the output entry delivered in the frame that has just ended, at a boundary. -/
def State.outNow (s : State) (st : Nat) : Option Res :=
  let r := (s.outEnt st).res
  if r.ts.frame = s.clk.last && r.valid then some r else none

/-- The frozen-feedback monitor (R271). -/
def frozenStep (st : Nat) (s : State) : State :=
  let x := s.stg st
  if !x.switching then s.modStg st fun x => { x with frz := none }
  else match (s.outNow st).filter fun r => !r.rcv with
  | none => s.modStg st fun x => { x with frz := x.frz.map fun f => (f.1, f.2.1, min f.2.2.1 x.u, max f.2.2.2 x.u) }
  | some r =>
    match x.frz with
    | none => s.modStg st fun x => { x with frz := some (r.code, 0, x.u, x.u) }
    | some f =>
      if 2 ≤ absDiff r.code f.1 then s.modStg st fun x => { x with frz := some (r.code, 0, x.u, x.u) }
      else
        let n := sat 256 (f.2.1 + 1)
        let lo := min f.2.2.1 x.u
        let hi := max f.2.2.2 x.u
        let s := s.modStg st fun x => { x with frz := some (f.1, n, lo, hi) }
        if n = 256 && 419430 < hi - lo then stgFound st 2 s else s

/-- NOFB: four frames without a result that is valid and not missed (R272). -/
def nofbStep (st : Nat) (s : State) : State :=
  let x := s.stg st
  let on := x.st.running && (x.st ≠ .kindling || x.switching)
  let ok := match s.outNow st with | some r => !r.miss | none => false
  let s := s.modStg st fun x => { x with noFb := if on && !ok then sat 4 (x.noFb + 1) else 0 }
  if (s.stg st).noFb = 4 then stgFound st 3 s else s

/-- OV: two consecutive valid results at or above OV_CODE or over range (R272). -/
def ovStep (st : Nat) (s : State) : State :=
  let ov := s.sfld st 0x10 11 0
  if ov = 0 || !(s.stg st).st.running then s.modStg st fun x => { x with ovRun := 0 }
  else match s.outNow st with
  | none => s
  | some r =>
    let s := s.modStg st fun x => { x with ovRun := if ov ≤ r.code || r.ovr then sat 2 (x.ovRun + 1) else 0 }
    if (s.stg st).ovRun = 2 then stgFound st 4 s else s

/-- UV: UV_FR consecutive valid results below UV_CODE or under range (R272). -/
def uvStep (st : Nat) (s : State) : State :=
  let uv := s.sfld st 0x10 23 12
  let n := orDef (s.sfld st 0x10 31 24) 1
  if uv = 0 || !(s.stg st).st.isReg then s.modStg st fun x => { x with uvRun := 0 }
  else match s.outNow st with
  | none => s
  | some r =>
    let s := s.modStg st fun x => { x with uvRun := if r.code < uv || r.under then sat n (x.uvRun + 1) else 0 }
    if (s.stg st).uvRun = n then stgFound st 5 s else s

/-- CYCLE_LIMIT_TRIP of a phase: LIMCNT counts, and OC_N is judged (R269). -/
def limitTrip (p : Nat) (consec : Bool) (s : State) : State :=
  let st := p / 8
  if !(s.stg st).switching || !(s.healthy st).contains (p % 8) then s
  else
    let s := s.modPhase p fun x => { x with limcnt := if consec then sat 255 (x.limcnt + 1) else 1 }
    if orDef (s.sfld st 0x14 25 18) 1 ≤ (s.phase p).limcnt then s.modStg st fun x => { x with hicFound := true } else s

/-- HICCUP is entered at order 3, or the stage faults with HICCUP_LIMIT (R269, R278). -/
def hiccupStep (st : Nat) (s : State) : State :=
  let x := s.stg st
  if !x.hicFound then s
  else
    let s := s.modStg st fun x => { x with hicFound := false }
    if x.found.isSome || !x.st.running then s
    else
      let lim := s.sfld st 0x18 23 16
      if lim = 0 || x.consecHic < lim then
        let s := stageHalt st .hiccup s
        stgEvent st 1 0 0 (s.modStg st fun x => { x with
          hicLeft := orDef (s.sfld st 0x18 15 0) 1
          consecHic := sat 255 (x.consecHic + 1), hiccups := sat 0xFFFF (x.hiccups + 1) })
      else stgFound st 6 s

/-- The hiccup time runs at each boundary (R269). -/
def hiccupTime (st : Nat) (s : State) : State :=
  s.modStg st fun x => if x.st = .hiccup then { x with hicLeft := x.hicLeft - 1 } else x

/-- HICCUP_EXPIRY at order 7: the kindling ramp begins (R269). -/
def hiccupEnd (st : Nat) (s : State) : State :=
  if (s.stg st).st = .hiccup && (s.stg st).hicLeft = 0 then kindle st s else s

/-- REG_TICKS and what reads it, at order 8 (R256, R179, R269, R172). -/
def regTicks (st : Nat) (s : State) : State :=
  let x := s.stg st
  let reg := x.st.isReg
  let tick := s.tickStart
  let up := tick && reg && x.tickReg
  let s := s.modStg st fun x => { x with
    tickReg := tick || (x.tickReg && reg)
    regTicks := if !reg then 0 else if up then sat 0xFFFF (x.regTicks + 1) else x.regTicks }
  let n := (s.stg st).regTicks
  let heal := s.sfld st 0x0C 27 20
  let s := if up && heal ≠ 0 && n = heal then s.modStg st fun x => { x with consecHic := 0 } else s
  let s := if up && n = 256 then s.modStg st fun x => { x with retryCnt := 0 } else s
  if up && n = orDef (s.cf 0x6000 19 12) 1 then commitEnd (.stage st) s else s

/-- The trims of a commit (R58, R267). -/
def applyTrims (st : Nat) (l : List (Nat × Int)) (s : State) : State :=
  each l (fun t s => s.modPhase (8 * st + t.1) fun q => { q with trim := t.2 }) s

/-- The committed duty, trims, drops and changes of state of a stage at order 7, without stage faults (R58, R252, R255). -/
def applyCommit (st : Nat) (s : State) : State :=
  let x := s.stg st
  let s := s.modStg st fun x => { x with staged := none, drops := [] }
  if !x.st.running then s
  else
    let s := applyTrims st (x.staged.elim [] SCommit.trims) s
    let s := each x.drops (fun d s => dropPhase st d s) s
    match x.staged with
    | none => s
    | some c =>
      if c.fault.isSome then s
      else
        let s := s.modStg st fun x => { x with
          u := c.u, switching := x.switching || c.first, pwmPos := if x.switching then x.pwmPos else 0, clamped := clampOf s st c.u }
        if c.stop then stageTell st 1 stOk (stageHalt st .off s)
        else match c.goto with
        | some .regulated =>
          stageTell st 1 stOk (s.modStg st fun x => { x with st := .regulated, floored := false, floorCnt := 0, floorTold := false })
        | some g => s.modStg st fun x => { x with st := g }
        | none => s

/-! ## The PWM block (R47, R251, R252) -/

/-- Ticks of 156.25 ps in a frame (R251). -/
def frameTicks : Nat := 12800

/-- The on-time of phase k in ticks at duty u (R251). -/
def onTicksOf (s : State) (st k : Nat) (u : Int) : Nat :=
  let o := onTime s st k u
  (min (max o.1 o.2.1) o.2.2).toNat

/-- Phase k, the j-th healthy one of h, begins a period in the frame that begins (R251). -/
def periodBegins (s : State) (st j h : Nat) : Bool :=
  let p := max 1 (s.sfld st 4 15 0)
  decide ((j * p / h % p + p - (s.stg st).pwmPos % p) % p < frameTicks)

/-- The duties in force take effect in the periods that begin in the frame from this boundary; a period that runs on keeps
its own (R47). A stage that does not switch makes none (R252). -/
def pwmFrame (st : Nat) (s : State) : State :=
  let x := s.stg st
  let h := s.healthy st
  if x.switching then
    each h.zipIdx (fun p s => if periodBegins s st p.2 h.length then
      s.modPhase (8 * st + p.1) fun q => { q with onTicks := onTicksOf s st p.1 x.u } else s) s
  else each (List.range 8) (fun k s => s.modPhase (8 * st + k) fun q => { q with onTicks := 0 }) s

/-- A frame of switching periods has passed (R251). -/
def pwmPass (st : Nat) (s : State) : State :=
  s.modStg st fun x => { x with
    pwmPos := if x.switching then (x.pwmPos + frameTicks) % max 1 (s.sfld st 4 15 0) else 0 }

/-- The PWM ball of phase k of stage st: high impedance, or driven with an on-time in ticks (R34, R249, R252). -/
def State.pwmBall (s : State) (st k : Nat) : Option Nat :=
  if s.pwr.phase = .run && s.pwr.domains.testBit 7 && (s.stg st).switching && (s.healthy st).contains k then
    some (s.phase (8 * st + k)).onTicks
  else none

/-- COEFFICIENT_COMMIT: every pending coefficient of the stage is copied into use (R263). -/
def commitCoef (st : Nat) (s : State) : State :=
  each ((List.range 28).map fun i => 0x8200 + 0x80 * st + 4 * i)
    (fun k s => { s with coef := tset 0 s.coef k (s.cw k) }) (s.modStg st fun x => { x with pending := false })

end Sys2Proof.Machine
end

