-- ==== Sys2Proof/Machine/Prog.lean ====
section
/-! DEFINITION. Machine/Prog.lean: programs of the sequencer (R94 to R108): step words, conditions, fetch, launch
and end; the admission log's entries and the withdrawal of grants. -/

namespace Sys2Proof.Machine

/-! ## Step words (R101 to R103) -/

/-- OP of an entry. -/
def opOf (w : Nat) : Nat := nbits w 63 58

/-- A global rail number names a rail of the domain (R94, R102). -/
def State.grailOk (s : State) (g : Nat) : Bool := if s.role = 0 then g < 96 else g < 768

/-- A member number names a device of the domain (R102). -/
def State.memberOk (s : State) (m : Nat) : Bool := s.role ≠ 0 || m = 0

/-- A condition word has no reserved kind, bit or value (R98, R99). -/
def condOk (s : State) (w : Nat) : Bool :=
  let k := nbits w 31 28
  let b := nbits w 26 0
  if k = 0 then b = 0
  else if k = 1 then nbits w 16 16 = 0 && s.grailOk (nbits w 26 17)
  else if k = 2 then nbits w 16 3 = 0 && s.grailOk (nbits w 26 17)
  else if k = 3 then nbits w 18 8 = 0
  else if k = 4 then nbits w 24 8 = 0
  else if k = 5 then nbits w 21 16 = 0
  else if k = 6 then nbits w 26 5 = 0
  else false

/-- A step has an EXT entry (R103). -/
def hasExt (w : Nat) : Bool := opOf w = 6 && w.testBit 44

/-- The second half of a MARGIN_SET (R103). -/
def extOk (e : Nat) : Bool := opOf e = 0x3F && nbits e 15 0 = 0

/-- A step entry has no reserved opcode, field value or bit (R101, R102, R103). -/
def stepOk (s : State) (w : Nat) : Bool :=
  let op := opOf w
  if op = 0 ∨ op = 0x0C then nbits w 57 0 = 0
  else if op = 2 then nbits w 4 0 = 0 && s.grailOk (nbits w 57 48)
  else if op = 3 then nbits w 30 0 = 0 && s.grailOk (nbits w 57 48)
  else if op = 4 then nbits w 44 32 = 0 && condOk s (nbits w 31 0)
  else if op = 5 then nbits w 32 0 = 0
  else if op = 6 then
    nbits w 14 0 = 0 && s.grailOk (nbits w 57 48) &&
      (if w.testBit 47 then nbits w 46 45 ≠ 3
       else nbits w 46 45 = 3 || nbits w 46 45 = 0 || nbits w 38 31 < 128)
  else if op = 7 then nbits w 9 0 = 0 && nbits w 32 31 ≠ 3 && s.memberOk (nbits w 12 10)
  else if op = 8 then nbits w 10 0 = 0 && s.memberOk (nbits w 13 11)
  else if op = 9 then nbits w 23 0 = 0
  else if op = 0x0A then nbits w 44 32 = 0 && condOk s (nbits w 31 0)
  else if op = 0x0B then nbits w 44 0 = 0
  else if op = 0x0D then nbits w 33 0 = 0 && s.grailOk (nbits w 57 48)
  else false

/-- The device a step names, where it names one (R130). -/
def stepMember (w : Nat) : Option Nat :=
  let op := opOf w
  if op = 2 ∨ op = 3 ∨ op = 6 ∨ op = 0x0D then some (nbits w 57 48 / 96)
  else if op = 7 then some (nbits w 12 10)
  else if op = 8 then some (nbits w 13 11)
  else if (op = 4 ∨ op = 0x0A) ∧ (nbits w 31 28 = 1 ∨ nbits w 31 28 = 2) then some (nbits w 26 17 / 96)
  else none

/-- Frames of a deadline field of watch ticks; 0 is none (R102). -/
def ticksToFrames (n : Nat) : Option Nat := if n = 0 then none else some (32 * n)

/-- The deadline a step carries from its fetch (R104). -/
def stepDeadline (w : Nat) : Option Nat :=
  let op := opOf w
  if op = 4 then ticksToFrames (nbits w 57 46)
  else if op = 8 then (if w.testBit 27 then ticksToFrames (nbits w 26 15) else none)
  else if op = 9 then ticksToFrames (nbits w 36 25)
  else if op = 0x0D then (if w.testBit 47 then ticksToFrames (nbits w 46 35) else none)
  else none

/-- ONFAIL of a step: true for CONTINUE (R102). -/
def onFail (w : Nat) : Bool :=
  let op := opOf w
  if op = 3 then w.testBit 31
  else if op = 4 then w.testBit 45
  else if op = 6 then w.testBit 43
  else if op = 7 then w.testBit 13
  else if op = 8 then w.testBit 14
  else if op = 9 then w.testBit 24
  else if op = 0x0D then w.testBit 34
  else false

/-! ## Figures and withdrawals (R102, R114, R178, R183) -/

/-- The figures of an ENABLE word (R102). -/
def enFig (w : Nat) : Fig :=
  { prio := nbits w 47 44, inrush := nbits w 30 19, steady := nbits w 18 5, deadline := nbits w 42 31 }

/-- The commitment of a stage start: the own stages by number, those of another member behind them (R179). -/
def State.stageKey (s : State) (m st : Nat) : CKey := if m = s.index then .stage st else .stage (4 * (m + 1) + st)

/-- A margin that costs STEADY: DIR high, or raw with a negative code (R178). -/
def marginCostly (m : MOp) : Bool := m.dir = 2 || (m.dir = 3 && m.target ≥ 128)

/-- The figures of the ENABLE or resume that last started a rail of the domain (R146, R178). -/
def State.figOf (s : State) (g : Nat) : Fig :=
  if g / 96 = s.index then (s.rail (g % 96)).fig else tget {} s.seq.rfig g

/-- STEADY cost of a margin (R178). -/
def marginSteady (s : State) (m : MOp) : Nat :=
  if marginCostly m then cdiv ((s.figOf m.rail).steady * min 100 (s.cf 0x6020 10 4)) 100 else 0

/-- A granted ENABLE is withdrawn: its commitment ends, with the entry of the log (R114, R179, R183). -/
def withdrawEnable (g : Nat) (f : Fig) (order : Nat) (s : State) : State :=
  alogWithdraw g 0 order f.prio f.inrush f.steady (commitEnd (.rail g) s)

/-- A granted stage start is withdrawn (R122, R179, R183). -/
def withdrawStart (m st order : Nat) (s : State) : State :=
  let c := s.cw (0x4010 + 4 * st)
  alogWithdraw (768 + st) 3 order (fld c 29 26) (fld c 11 0) (fld c 25 12) (commitEnd (s.stageKey m st) s)

/-- A margin not yet applied is withdrawn where it was granted (R122, R179, R183). -/
def withdrawMargin (m : MOp) (s : State) : State :=
  if m.cand.granted && m.phase = .pending then
    alogWithdraw m.rail 5 m.cand.order (s.cf 0x6020 3 0) 0 (marginSteady s m) (commitEnd (.margin m.rail) s)
  else s

/-- GRANT_WITHDRAWAL of an item's grant: its commitment ends, a log entry is written (R114, R122, R179, R183). -/
def withdrawItem (it : Item) (s : State) : State :=
  if !it.cand.granted then s
  else if opOf it.w = 2 then withdrawEnable (nbits it.w 57 48) (enFig it.w) it.cand.order s
  else if opOf it.w = 8 then withdrawStart (nbits it.w 13 11) (nbits it.w 57 56) it.cand.order s
  else s

/-! ## Ending a program (R108) -/

/-- The flags [20:17] of a completion (R305). -/
def Prog.flagBits (p : Prog) : Nat :=
  b2n p.abortLate + 2 * b2n p.marginFail + 4 * b2n p.pmbusFail + 8 * b2n p.already

/-- A rail command belongs to program n. -/
def RailCmd.ofProg (n : Nat) : RailCmd → Bool
  | .enable _ _ p _ _ => p = n
  | .release _ p _ => p = n
  | .stageStart _ _ _ _ o _ _ => o = .prog n
  | _ => false

/-- The grant of a command not yet applied is withdrawn (R114, R122). -/
def withdrawCmd (c : RailCmd) (s : State) : State :=
  match c with
  | .enable g f _ _ o => withdrawEnable g f o s
  | .stageStart m st _ _ _ _ _ => withdrawStart m st 0 s
  | _ => s

/-- What program n began goes on unowned: margins under way, stage starts that wait, bus jobs (R104, R108). -/
def disown (n : Nat) (s : State) : State :=
  let s := each (s.seq.margins.filter fun m => m.owner = Owner.prog n) withdrawMargin s
  let s := { s with seq := { s.seq with
    margins := (s.seq.margins.filter fun (m : MOp) => !(m.owner = Owner.prog n && m.phase = MPhase.pending)).map fun (m : MOp) =>
      if m.owner = Owner.prog n then { m with owner := .none } else m } }
  let s := { s with pmb := s.pmb.map fun (q : Nat × List PmbJob) =>
    (q.1, q.2.map fun (j : PmbJob) => if j.use = PmbUse.step n then { j with use := .none } else j) }
  each [0, 1, 2, 3] (fun st s =>
    if (s.stg st).waiters.contains (.prog n) then
      s.modStg st fun x => { x with waiters := x.waiters.filter (· ≠ .prog n) }
    else s) s

/-- A stop by an abort or a full off run withdraws what the program's retired steps have still to apply (R114, R117,
R122). -/
def stopCmds (n : Nat) (s : State) : State :=
  let mine := (s.seq.cmds.filter fun c => c.2.ofProg n).map (·.2)
  each mine withdrawCmd { s with seq := { s.seq with cmds := s.seq.cmds.filter fun c => !(c.2.ofProg n) } }

/-- The program ends with a status and a step; its grants are withdrawn, what it began goes on unowned (R108). The command
that launched it is told once order 6 has passed (R121). -/
def progEnd (n status step : Nat) (s : State) : State :=
  let s := disown n (each (s.prog n).items withdrawItem s)
  let s := if status = 2 || status = 3 then stopCmds n s else s
  s.modProg n fun p => { p with
    state := 4, status := status, step := step, items := [], stack := if status = 1 then [] else p.stack
    deferred := false, endedNow := true, untold := true }

/-- The command that launched a program learns its end, with the flags as they stand (R108, R121, R305). -/
def progTell (n : Nat) (s : State) : State :=
  let p := s.prog n
  if p.untold then
    finishAll (fun w => w = .prog n) (if p.status = 1 then stOk else stProgram) (p.status + 16 * p.step + 2 ^ 17 * p.flagBits)
      (s.modProg n fun p => { p with untold := false })
  else s

/-- Every program that has ended is reported. -/
def progsTell (s : State) : State := each (List.range 64) progTell s

/-! ## Fetch and launch (R100, R101, R105) -/

/-- The on-table entry at an index. -/
def State.entryAt (s : State) (i : Nat) : Nat := tget 0 s.seq.onTable i

/-- A fetched step as an item (R104, R105). -/
def newItem (s : State) (i : Nat) : Item :=
  let w := s.entryAt i
  { idx := i, w := w, ext := if hasExt w then s.entryAt (i + 1) else 0, cand := { since := s.clk.frame }
    deadline := stepDeadline w, left := if opOf w = 5 then orDef (nbits w 56 33) 1 else 0 }

/-- The ENABLE entries of a set from index i, at most `fuel`, and the entry after it (R105). -/
def enableSet (s : State) : Nat → Nat → List Nat
  | 0, _ => []
  | f + 1, i =>
    let w := s.entryAt i
    if 8191 < i ∨ opOf w ≠ 2 then [] else if w.testBit 43 then i :: enableSet s f (i + 1) else [i]

/-- The first entry of the list that is not a valid step. -/
def badEntry (s : State) (l : List Nat) : Option Nat := l.find? fun i => !stepOk s (s.entryAt i)

/-- First word of the on-table mirror in the shared SRAM: the regions lie in the order of R16 (log 68). -/
def mirrorBase : Nat := 20480

/-- The four entries of an on-table word as the mirror holds them (R17). -/
def fromMirror (a : Nat) (s : State) : State :=
  { s with seq := { s.seq with
    onTable := [0, 1, 2, 3].foldl (fun t k => tset 0 t (4 * a + k) (tget 0 s.seq.mirror (4 * a + k))) s.seq.onTable } }

/-- The sequencer reads word `a` of the on-table, or where that is uncorrectable of the mirror, and then rewrites the
on-table word (R27). Answers whether it got the word. -/
def readTable (a : Nat) (s : State) : Bool × State :=
  let r := readWord s.tsB 0x11 a s
  if r.1 ≠ .uncorrectable then (true, r.2)
  else
    let m := readWord s.tsB 0x10 (mirrorBase + a) r.2
    if m.1 ≠ .uncorrectable then (true, wcWritten 0x11 a (fromMirror a m.2)) else (false, m.2)

/-- The words of a list are read in turn; the first that could not be read, if any (R27). -/
def readWords : List Nat → State → Option Nat × State
  | [], s => (none, s)
  | a :: l, s =>
    let r := readTable a s
    if r.1 then readWords l r.2 else (some a, r.2)

/-- STEP_FETCH of program n at index i; an invalid one ends it with BAD_STEP (R100, R101), one in a word that neither the
on-table nor the mirror delivers with TABLE_ERROR (R27). Where the index lies outside the programs' entries, STEP names the
step that led there, `old`. -/
def fetchAt (n old i : Nat) (s : State) : State :=
  if i < 768 ∨ 8191 < i then progEnd n 9 old s
  else
    let l := if opOf (s.entryAt i) = 2 then enableSet s 96 i else [i]
    let all := if hasExt (s.entryAt i) && i < 8191 then l ++ [i + 1] else l
    let r := readWords (all.map (· / 4)).dedup s
    let s := r.2
    match r.1 with
    | some a => progEnd n 7 ((all.find? fun k => k / 4 = a).getD i) s
    | none =>
      match badEntry s l with
      | some b => progEnd n 9 b s
      | none =>
        let w := s.entryAt i
        if hasExt w && (i = 8191 || !extOk (s.entryAt (i + 1))) then progEnd n 9 i s
        else
          let items := l.map (newItem s)
          s.modProg n fun p => { p with items := items, step := i, next := i + l.length + b2n (hasExt w) }

/-- PROGRAM_LAUNCH (R105, R137): flags and STATUS clear; a running program is left alone. A member of a stack runs none
(R123). -/
def progLaunch (n : Nat) (s : State) : State :=
  if (s.prog n).state = 1 || s.role = 2 then s
  else
    let s := s.modProg n fun _ => { state := 1 }
    fetchAt n (s.cf (0x4100 + 4 * n) 12 0) (s.cf (0x4100 + 4 * n) 12 0) s

/-- SEQ_PROGn.VALID. -/
def State.progValid (s : State) (n : Nat) : Bool := s.cb (0x4100 + 4 * n) 13

/-- The valid programs of the on-set (R95). -/
def State.onSet (s : State) : List Nat :=
  (List.range 64).filter fun n => s.progValid n && s.cb (0x4100 + 4 * n) 14

/-- The programs of the domain that run. -/
def State.running (s : State) : List Nat := (List.range 64).filter fun n => (s.prog n).state = 1

/-- The current step of a program for STEP: its first item not retired (R108). -/
def Prog.current (p : Prog) : Nat := match p.items.head? with | some it => it.idx | none => p.step

/-! ## Conditions (R98, R99) -/

/-- What the sequencer knows of a rail: state code, debounced good, GOOD_TICKS, and whether it is known (R99,
R124, R125, R130). -/
def State.railView (s : State) (g : Nat) : Nat × Bool × Nat × Bool :=
  if g / 96 = s.index ∧ s.role ≠ 1 then
    let r := s.rail (g % 96)
    (r.st.code, r.db, r.goodTicks, true)
  else if g / 96 = s.index then
    let v := tget ({} : View) s.sca.own2 (g % 96)
    (v.st, v.db, v.gt, true)
  else
    let v := s.view g
    (v.st, v.db, v.gt, v.known && !s.sca.lostMembers.testBit (g / 96) && !s.sca.backlog.testBit (g / 96))

/-- What a condition sees of a rail: its own rails as order 2 left them (R99). -/
def State.condView (s : State) (g : Nat) : Nat × Bool × Nat × Bool :=
  if g / 96 = s.index ∧ s.role ≠ 1 then
    let v := tget ({} : View) s.sca.own0 (g % 96)
    (v.st, v.db, v.gt, true)
  else s.railView g

/-- A condition holds: unknown is false with either value of NEG (R98). Rails and stages are as order 2 left them (R99). -/
def condTrue (s : State) (w : Nat) : Bool :=
  let k := nbits w 31 28
  let neg := w.testBit 27
  let g := nbits w 26 17
  let v := s.condView g
  let remote := g / 96 ≠ s.index || s.role = 1
  let res : Option Bool :=
    if k = 0 then some true
    else if k = 1 then
      let n := nbits w 15 0
      if v.2.2.2 then some (v.2.1 && decide (n ≤ (if remote then sat 255 v.2.2.1 else v.2.2.1))) else none
    else if k = 2 then (if v.2.2.2 then some (decide (v.1 = nbits w 2 0)) else none)
    else if k = 3 then
      let c := nbits w 26 25
      let x := s.entry c (nbits w 24 19)
      if x.res.valid && (s.core c).powered then some (decide (orDef (nbits w 7 0) 1 ≤ x.inCnt)) else none
    else if k = 4 then
      (tget none s.seq.stg0 (nbits w 26 25)).map fun x => x.1 && decide (nbits w 7 0 ≤ x.2)
    else if k = 5 then
      let n := nbits w 26 22
      let x := s.watch n
      if s.cf (0x4300 + 8 * n) 30 25 = 0 || x.stale then none
      else some (decide (x.value &&& nbits w 15 8 = nbits w 7 0))
    else if k = 6 then some (bit s.seq.flags (nbits w 4 0))
    else none
  match res with
  | some b => b != neg
  | none => false

/-- A word of the graph region can be read, from the on-table or the mirror (R27). -/
def graphReads (s : State) (a : Nat) : Bool := s.wordOk 0x11 a || s.wordOk 0x10 (mirrorBase + a)

/-- Every predecessor slot of local rail r is true (R97); one in a word that cannot be read is not (R27, log 84). -/
def predsMet (s : State) (r : Nat) : Bool :=
  graphReads s (2 * r) && graphReads s (2 * r + 1) && (List.range 8).all fun k =>
    let w := s.entryAt (8 * r + k)
    w = 0 || condTrue s (nbits w 31 0)

/-- The predecessor slots of every used rail as order 4 finds them, for the candidates of the frame that starts (R99, R109). -/
def predsStep (s : State) : State :=
  { s with seq := { s.seq with
    preds := (s.rails.filter fun p => p.2.used && predsMet s p.1).map (·.1) } }

/-- The stages as order 2 finds them, for the conditions of order 4 (R99). -/
def stageView (s : State) : State :=
  { s with seq := { s.seq with
    stg0 := [0, 1, 2, 3].map fun st =>
      let x := s.stg st
      (st, if x.st = .unused then none else some (x.st.isReg, x.regTicks)) } }

end Sys2Proof.Machine
end

