-- ==== Sys2Proof/Machine/OffSeq.lean ====
section
/-! DEFINITION. Machine/OffSeq.lean: on and off requests, the off-sequencer and what the end of a run brings
(R94 to R96, R112 to R119, R127, R150, R153 to R156). -/

namespace Sys2Proof.Machine

/-! ## The off-table (R112) -/

/-- Word `a` of the off-table is uncorrectable in both copies (R27). -/
def offLost (s : State) (a : Nat) : Bool := !s.wordOk 0x14 a && !s.wordOk 0x15 a

/-- Entry i; an entry of a word lost in both copies is skipped, as a PAUSE of 0 frames is passed (R27). -/
def State.offAt (s : State) (i : Nat) : Nat :=
  if offLost s (i / 4) then 0x23 <<< 58 else tget 0 s.off.table i

/-- The off-sequencer reads the word of entry i as it comes to it, or the other copy's where the first is uncorrectable; a
word lost in both is remembered (R27). -/
def offRead (i : Nat) (s : State) : State :=
  if i % 4 ≠ 0 then s
  else
    let r := readWord s.tsB 0x14 (i / 4) s
    if r.1 ≠ .uncorrectable then r.2
    else
      let q := readWord s.tsB 0x15 (i / 4) r.2
      if q.1 ≠ .uncorrectable then q.2 else { q.2 with off := { q.2.off with skipped := true } }

/-- Entries of the class that begins after index i: (index, word), up to the next CLASS or END, over `fuel`. -/
def classEntries (s : State) : Nat → Nat → List (Nat × Nat)
  | 0, _ => []
  | f + 1, i =>
    let w := s.offAt i
    if i < 2048 ∧ (opOf w = 0x21 ∨ opOf w = 0x23) then (i, w) :: classEntries s f (i + 1) else []

/-- Index of the CLASS entry of the class that contains the position before `i`, scanning back. -/
def classStart (s : State) : Nat → Nat
  | 0 => 0
  | i + 1 => if opOf (s.offAt i) = 0x22 then i else classStart s i

/-! ## Off requests (R96, R114, R116, R117) -/

/-- The rails in scope: used rails of the part, all of them or those of the groups (R96, R149). -/
def offScope (s : State) (full : Bool) (groups : Nat) : List Nat :=
  railList.filter fun i => (s.rail i).st ≠ .unused && (full || s.cf (fbase i + 8) 15 0 &&& groups ≠ 0)

/-- A rail command acts on a rail of the list (global numbers). -/
def RailCmd.onRails (l : List Nat) : RailCmd → Bool
  | .enable g _ _ _ _ => l.contains g
  | .retry g => l.contains g
  | .resume g => l.contains g
  | _ => false

/-- A granted ENABLE of one of the rails. -/
def grantedOn (g : List Nat) (it : Item) : Bool :=
  opOf it.w = 2 && it.cand.granted && g.contains (nbits it.w 57 48)

/-- The item waits again, ungranted. -/
def ungrant (g : List Nat) (it : Item) : Item :=
  if grantedOn g it then { it with cand := { it.cand with granted := false }, done := 0 } else it

/-- Every grant not yet applied of a rail in the list is withdrawn (R114). An ENABLE that waits stays pending; one that has
retired stays retired, its rail OFF (log 83). -/
def withdrawRails (l : List Nat) (s : State) : State :=
  let g := l.map s.grail
  let s := each (List.range 64) (fun n s =>
    if (s.prog n).items.any (grantedOn g) then
      let s := each ((s.prog n).items.filter (grantedOn g)) withdrawItem s
      s.modProg n fun p => { p with items := p.items.map (ungrant g) }
    else s) s
  let s := each (l.filter fun i => ((s.rail i).resume.map (·.granted)).getD false) (fun i s =>
    let f := (s.rail i).fig
    alogWithdraw (s.grail i) 2 (((s.rail i).resume.map (·.order)).getD 0) f.prio f.inrush f.steady (commitEnd (.rail (s.grail i))
      (s.modRail i fun r => { r with resume := none }))) s
  let mine := (s.seq.cmds.filter fun c => c.2.onRails g).map (·.2)
  each mine withdrawCmd { s with seq := { s.seq with cmds := s.seq.cmds.filter fun c => !(c.2.onRails g) } }

/-- A waiting group restart is cancelled (R150). -/
def cancelRestarts (full : Bool) (l : List Nat) (s : State) : State :=
  each (List.range 16) (fun n s =>
    if full || l.any fun i => (s.cf (fbase i + 8) 15 0).testBit n then
      s.modGrp n fun g => { g with left := none, owed := g.owed && !full }
    else s) s

/-- What a full run does besides its rails: programs stop, the on request in progress is lost, DOMAIN becomes
POWERING_DOWN (R94, R117). -/
def fullRunActs (s : State) : State :=
  let s := each s.running (fun n s => progEnd n 3 (s.prog n).current s) s
  let s := if s.seq.onPending then s else finishAll (fun w => w = .domainUp) stStopped 0 s
  { s with seq := { s.seq with domain := .poweringDown, onset := [], resumeSet := [] } }

/-- RUN_SRC of a run that a request meets: an input loss takes it, then a fault of either; a request that widens the run to
full takes it too (R149, R194). -/
def mergeSrc (old new : Nat) (widens : Bool) : Nat :=
  if old = 2 || new = 2 then 2 else if old = 1 || new = 1 then 1 else if widens then new else old

/-- Resume candidates not yet granted are dropped (R119). -/
def dropResumes (s : State) : State :=
  if s.seq.domain = .resuming then
    each s.seq.resumeSet (fun i s => s.modRail i fun r => { r with resume := r.resume.filter (·.granted) }) s
  else s

/-- OFF_RUN_START (R114, R116, R117, R119, R149): a run begins, or the run in progress is extended. A fault's group run that
meets a full run adds nothing but its source (R149). -/
def offRequest (src : Nat) (full : Bool) (groups : Nat) (s : State) : State :=
  if s.off.run && s.off.full && !full && src = 1 then { s with off := { s.off with src := mergeSrc s.off.src src false } }
  else
    let l := offScope s full groups
    let s := withdrawRails l s
    let s := cancelRestarts full l s
    let s := dropResumes s
    let rel := l.filter fun i => (s.rail i).st.live
    let held := l.filter fun i => (s.rail i).st = .releasing || (s.rail i).st = .faulted
    let s := each held cancelRetry s
    let wasFull := s.off.run && s.off.full
    let o := if s.off.run then
        { s.off with
          full := s.off.full || full
          src := mergeSrc s.off.src src (full && !s.off.full)
          groups := s.off.groups ||| groups
          set := s.off.set ++ (rel ++ held).filter fun i => !s.off.set.contains i
          toRelease := s.off.toRelease ++ rel.filter fun i => !s.off.toRelease.contains i }
      else
        { s.off with
          run := true, full := full, src := src, groups := groups, set := rel ++ held, released := [], toRelease := rel
          cls := 0, opened := false, pos := 0, limit := 0, pause := 0, late := false, fresh := true, sync := none
          syncGot := [], sweep := [], skipped := false, ended := false }
    let s := { s with off := { o with groups := if o.full then 0 else o.groups } }
    if full && !wasFull then fullRunActs s else s

/-- A fault-sourced group run owes its groups a restart (R149, R150); in a stack, those of the master (R157). -/
def offGroupFault (groups : Nat) (s : State) : State :=
  if (s.off.run && s.off.full) || s.role = 2 then offRequest 1 false groups s
  else
    let s := offRequest 1 false groups s
    each ((List.range 16).filter fun n => groups.testBit n && s.cb (0x5640 + 4 * n) 6)
      (fun n s => s.modGrp n fun g => { g with owed := true }) s

/-! ## On requests (R95, R118, R156) -/

/-- The on-set programs launch and DOMAIN becomes POWERING_UP (R94, R95). -/
def launchOnSet (s : State) : State :=
  let l := s.onSet
  let s := { s with
    seq := { s.seq with domain := .poweringUp, onset := l, onPending := false, onLaunch := false }
    flt := { s.flt with restartLeft := none } }
  each l progLaunch s

/-- RESUME (R118): the host run stops, its released rails become resume candidates; the rail released last comes
first in a tie. -/
def resumeRun (s : State) : State :=
  let l := s.off.released
  let s := finishAll (fun w => w = .offRun) stOk (b2n s.off.late) s
  let s := finishAll (fun w => match w with | .groupRun _ => true | _ => false) stOk (b2n s.off.late) s
  let s := { s with
    off := { s.off with run := false, fresh := false, set := [], toRelease := [], opened := false, sweep := [] }
    seq := { s.seq with domain := .resuming, resumeSet := l } }
  each l (fun i s => s.modRail i fun r => { r with resume := some { since := s.clk.frame } }) s

/-- A revert of the generation is due: on requests wait for it (R383). -/
def revertWaits (s : State) : Bool := s.nv.prob.isSome && s.nv.revertDue

/-- An on request (R95, R118, R121, R383). Answers 0 launched, 1 held, 2 already, 3 resumed. One at the boundary at which the
run completes launches at the next (R121). -/
def onRequest (s : State) : Nat × State :=
  match s.seq.domain with
  | .poweringUp => (2, s)
  | .up => (2, s)
  | _ =>
    if s.off.ended && !revertWaits s then (1, { s with seq := { s.seq with onPending := true, onLaunch := true } })
    else if s.off.run then
      if s.cb 0x4000 0 && s.off.src = 0 && !revertWaits s then (3, resumeRun s)
      else (1, { s with seq := { s.seq with onPending := true } })
    else if revertWaits s then (1, { s with seq := { s.seq with onPending := true } })
    else (0, launchOnSet s)

/-- On requests are held until the stack and the pair have formed (R459, R460). -/
def joining (s : State) : Bool := s.sca.joinStack.isSome || s.sca.joinPair.isSome

/-- The restart policy's or a boot's on request: none of a shadow's, held while a stack or pair forms (R459, R460). -/
def onRequestNow (s : State) : State :=
  if s.shadow || s.role = 2 then s
  else if joining s then { s with pwr := { s.pwr with heldOn := true } }
  else (onRequest s).2

/-! ## The end of a run (R115, R118, R150, R155, R266) -/

/-- DETAIL of an off-run event. -/
def detRun (s : State) (cnt grp idx : Nat) : BitVec 128 :=
  detQ s.off.cls s.off.pos s.off.src (if s.off.full then 0xFFFF else s.off.groups) cnt grp idx

/-- The on request of a restart, journalled (R155, R315). -/
def fullRestart (s : State) : State :=
  let s := { s with flt := { s.flt with restartLeft := none, restarts := sat 15 (s.flt.restarts + 1) } }
  onRequestNow (jInternal 0x83 2 0 0xFFFFFFFF false s)

/-- The restart policy after a SYSTEM_RESET's full run, or at A after a watchdog reset (R155, R166); a stack follows its
master's (R157). -/
def restartPolicy (s : State) : State :=
  let w := s.cw 0x5608
  let s := { s with flt := { s.flt with restartOwed := false } }
  if s.role = 2 || fld w 1 0 ≠ 1 || fld w 17 14 = 0 then s
  else if fld w 17 14 ≤ s.flt.restarts then
    raise 0x2B s.tsB (detRun s s.flt.restarts 0 0) { s with flt := { s.flt with restartExh := true } }
  else if fld w 13 2 = 0 then fullRestart s
  else { s with flt := { s.flt with restartLeft := some (fld w 13 2) } }

/-- The launch of a group's restart program, an ordinary launch: of a program that exists (R105, R137, R150). -/
def groupRestartNow (n : Nat) (s : State) : State :=
  let p := s.cf (0x5640 + 4 * n) 5 0
  let s := s.modGrp n fun g => { g with left := none }
  if s.progValid p then
    progLaunch p (jInternal 0x83 2 0 n false (s.modGrp n fun g => { g with count := sat 15 (g.count + 1) }))
  else s

/-- A group whose fault-sourced run has completed (R150). -/
def groupPolicy (n : Nat) (s : State) : State :=
  let w := s.cw (0x5640 + 4 * n)
  if !(s.grp n).owed then s
  else
    let s := s.modGrp n fun g => { g with owed := false }
    if !bit w 6 || s.role = 2 then s
    else if fld w 22 19 ≤ (s.grp n).count then raise 0x2C s.tsB (detRun s (s.grp n).count n 0) s
    else if (s.eng 1).halted then s
    else if fld w 18 7 = 0 then groupRestartNow n s
    else s.modGrp n fun g => { g with left := some (fld w 18 7) }

/-- OFF_RUN_COMPLETE (R94, R115, R118, R155, R166, R266). -/
def offComplete (s : State) : State :=
  let full := s.off.full
  let r := b2n s.off.late
  let s := { s with off := { s.off with run := false, set := [], toRelease := [], opened := false, sweep := [], sync := none, ended := true } }
  let s := finishAll (fun w => w = .offRun) stOk r s
  let s := finishAll (fun w => match w with | .groupRun _ => true | _ => false) stOk r s
  let s := each (List.range 16) groupPolicy s
  let s := { s with seq := { s.seq with onLaunch := s.seq.onPending && !revertWaits s } }
  if full then
    let s := { s with seq := { s.seq with domain := .off } }
    let s := each ((List.range 4).filter fun st => s.cb (sbase st) 11) softStop s
    if s.flt.restartOwed then restartPolicy s else s
  else s

/-! ## The walk (R115, R127) -/

/-- A rail has been resting for its DISCH frames (R115). -/
def discharged (s : State) (i d : Nat) : Bool := (s.rail i).st.resting && d ≤ (s.rail i).rest

/-- Every rail of the run set with an entry in the open class is discharged (R115). -/
def classDone (s : State) : Bool :=
  (classEntries s 2048 (classStart s s.off.pos + 1)).all fun p =>
    opOf p.2 ≠ 0x21 || !s.off.set.contains (nbits p.2 57 51) || discharged s (nbits p.2 57 51) (nbits p.2 49 34)

/-- A rail of the run still has to be released when its entry comes up (R115, R154). -/
def needsRelease (s : State) (r : Nat) : Bool :=
  s.off.toRelease.contains r && ((s.rail r).st.live || ((s.rail r).st = .hiz && (s.rail r).fold))

/-- Rails of the run whose entry lies before the position and that are not released yet, in table order (R116): rails added
to the run, and those that a LIMIT left behind in a class closed before the walk reached them (log 79). -/
def catchUp (s : State) : List Nat :=
  ((s.off.table.filter fun p => p.1 < s.off.pos && opOf p.2 = 0x21 && !offLost s (p.1 / 4)).map fun p => nbits p.2 57 51).filter (needsRelease s)

/-- The table is passed: rails added behind the walk are released first (R116), then those of words that were lost (R27);
else the run completes (R115). -/
def tableEnd (i : Nat) (s : State) : State :=
  let s := { s with off := { s.off with pos := i } }
  let left := railList.filter (needsRelease s)
  if !(catchUp s).isEmpty then { s with off := { s.off with opened := false } }
  else if s.off.skipped && !left.isEmpty then { s with off := { s.off with sweep := left } }
  else offComplete s

/-- Opens the CLASS entry at index i, or completes the run where there is none (R115). The LIMIT counts from here, 32 frames
for each of its watch ticks (log 80). -/
def openClass (i : Nat) (s : State) : State :=
  let s := offRead i s
  let w := s.offAt i
  if opOf w = 0x22 then
    { s with off := { s.off with
      cls := nbits w 57 55, opened := true, pos := i + 1, pause := 0, limit := 32 * orDef (nbits w 11 0) 4095 } }
  else tableEnd i s

/-- Index of the first entry at or after `i` that is neither RELEASE nor PAUSE. -/
def nextClass (s : State) (i : Nat) : Nat := i + (classEntries s 2048 i).length

/-- Releases one rail of the run in its place (R115). -/
def offRelease (r : Nat) (s : State) : State :=
  let s := { s with off := { s.off with
    toRelease := s.off.toRelease.filter (· ≠ r), released := r :: s.off.released } }
  releaseRail r s

/-- The walk from the current position: `did` a release was made at this boundary, `par` its chain goes on. -/
def offWalk : Nat → Bool → Bool → State → State
  | 0, _, _, s => s
  | f + 1, did, par, s =>
    let w := s.offAt s.off.pos
    let op := opOf w
    let adv (s : State) : State := offRead s.off.pos { s with off := { s.off with pos := s.off.pos + 1 } }
    if op = 0x21 then
      if did && !par then s
      else
        let r := nbits w 57 51
        if needsRelease s r then offWalk f true (w.testBit 50) (offRelease r (adv s))
        else offWalk f did (w.testBit 50) { adv s with off := { (adv s).off with
          toRelease := s.off.toRelease.filter (· ≠ r) } }
    else if op = 0x23 then
      if did then s
      else if nbits w 57 42 = 0 then offWalk f false false (adv s)
      else { adv s with off := { (adv s).off with pause := nbits w 57 42 } }
    else s

/-- A class that is complete may be left: in a stack, every member has completed it (R127). -/
def syncPassed (s : State) : Bool :=
  s.role = 0 || match s.off.sync with
    | some 0 => true
    | _ => (List.range 8).all fun m =>
        m = s.index || !(s.cf 0x4008 12 5).testBit m || s.off.syncGot.contains m || s.sca.lostMembers.testBit m

/-- The class is complete: the part waits for its stack, or goes on (R127). -/
def leaveClass (s : State) : State :=
  if syncPassed s then
    openClass (nextClass s s.off.pos) { s with off := { s.off with sync := none, syncGot := [] } }
  else if s.off.sync.isNone then
    { s with off := { s.off with sync := some (32 * orDef (s.cf 0x4008 31 26) 1) } }
  else s

/-- CLASS_SYNC expires: the part proceeds alone and raises the stack-sync event (R127). -/
def syncExpire (s : State) : State :=
  if s.off.run && s.off.sync = some 0 then
    raise 0x41 s.tsB (detRun s 0 0 s.index) (openClass (nextClass s s.off.pos)
      { s with off := { s.off with sync := none, syncGot := [] } })
  else s

/-- OFF_LATE: the class's LIMIT expires, the class is closed incomplete (R115). -/
def limitExpire (s : State) : State :=
  let s := { s with off := { s.off with late := true } }
  openClass (nextClass s s.off.pos) (raise 0x40 s.tsB (detRun s 0 0 0) s)

/-- Further classes that are complete already are left at the same boundary (R115, log 33). -/
def passDone : Nat → State → State
  | 0, s => s
  | f + 1, s =>
    if s.off.run && s.off.sweep.isEmpty && s.off.opened && s.off.sync.isNone && classDone s then passDone f (leaveClass s)
    else s

/-- The counts of the walk fall by the boundary. -/
def offAge (s : State) : State :=
  { s with off := { s.off with pause := s.off.pause - 1, limit := s.off.limit - 1, sync := s.off.sync.map (· - 1) } }

/-- Steps 1 and 2 of R115: the class is checked, and the next one opened. -/
def offClass (s : State) : State :=
  passDone 8
    (if !s.off.opened then openClass (nextClass s s.off.pos) s
    else if classDone s then (if s.off.sync = some 0 then syncExpire s else leaveClass s)
    else if s.off.limit = 0 then limitExpire s
    else s)

/-- Step 3 of R115: an added rail's release (R116), or the walk. -/
def offMove (s : State) : State :=
  if !s.off.run || s.off.sync.isSome then s
  else match catchUp s with
  | r :: _ => offRelease r s
  | [] => if s.off.pause = 0 then offWalk 2049 false false s else s

/-- OFF_SEQUENCER_STEP at order 3 (R115, R116, R127). Behind the table, the rails left are released one a frame in
ascending order (R27). -/
def offStep (s : State) : State :=
  if !s.off.run || s.off.fresh then s
  else match s.off.sweep with
  | r :: t => offRelease r { s with off := { s.off with sweep := t } }
  | [] => offMove (offClass (offAge s))

/-! ## DOMAIN (R94, R118) -/

/-- A resume rail has been dealt with: ON, gone, or started and no longer RAMPING. -/
def resumeDealt (s : State) (i : Nat) : Bool :=
  let r := s.rail i
  r.resume.isNone && r.st ≠ .ramping

/-- DOMAIN after order 4 of a boundary (R94, R118). It is judged from POWERING_UP and RESUMING only: a program launched alone
in another state moves it nowhere (log 76). -/
def judgeDomain (s : State) : State :=
  match s.seq.domain with
  | .poweringUp =>
    if s.seq.onset.any fun n => (s.prog n).state = 1 then s
    else if s.seq.onset.all fun n => (s.prog n).status = 1 then
      finishAll (fun w => w = .domainUp) stOk 0 { s with seq := { s.seq with domain := .up } }
    else finishAll (fun w => w = .domainUp) stPartial 0 { s with seq := { s.seq with domain := .partialUp } }
  | .resuming =>
    if s.seq.resumeSet.all (resumeDealt s) then
      let up := s.seq.resumeSet.all fun i => (s.rail i).st = .on
      let s := finishAll (fun w => w = .domainUp) (if up then stOk else stPartial) 0 s
      { s with seq := { s.seq with domain := if up then .up else .partialUp, resumeSet := [] } }
    else s
  | _ => s

end Sys2Proof.Machine
end

