-- ==== Sys2Proof/Machine/Faults.lean ====
section
/-! DEFINITION. Machine/Faults.lean: rail faults and the reactions to them (chapter 5): reactions, escalation,
first-fault capture, fault queue, T1.3, SYSRST#, restarts, watchdog. -/

namespace Sys2Proof.Machine

/-! ## SYSRST# and the stack (R153, R157) -/

/-- SYSRST# is asserted (R153). -/
def assertSysrst (s : State) : State :=
  if s.flt.sysrst then { s with flt := { s.flt with rstLeft := none } }
  else { s with flt := { s.flt with sysrst := true, sysrstAge := 0, rstLeft := none } }

/-- A command record goes to every other member of the stack (R127, R157, R337). -/
def toMembers (f : Nat → CmdRec) (s : State) : State :=
  if s.role ≠ 1 then s
  else { s with sca := { s.sca with
    tx := s.sca.tx ++ ((List.range 8).filter fun m => m ≠ s.index && (s.cf 0x4008 12 5).testBit m).map f } }

/-- A hardware-sourced off request of the part reaches its stack: the master's by command records, a member's by its STATUS
(R127, R128, R157). -/
def offRelay (full : Bool) (groups : Nat) (sysrst : Bool) (s : State) : State :=
  if s.role = 2 then
    let l := if full then [(true, 0, sysrst)] else ((List.range 16).filter groups.testBit).map fun g => (false, g, sysrst)
    { s with sca := { s.sca with stReqs := s.sca.stReqs ++ l } }
  else
    let s := toMembers (fun m => .offRun m full groups) s
    if sysrst then toMembers (fun m => .sysrst m) s else s

/-- A fault-sourced group run (R127, R149, R157). -/
def groupReaction (groups : Nat) (s : State) : State := offRelay false groups false (offGroupFault groups s)

/-- SYSTEM_RESET: SYSRST#, the full run, the restart policy after it (R140, R153, R156, R157). -/
def sysReaction (s : State) : State :=
  let s := offRequest 1 true 0 (assertSysrst s)
  offRelay true 0 true { s with flt := { s.flt with restartOwed := s.role ≠ 2, restartLeft := none } }

/-- The rail joins the run set as FAULTED; a retry pending for it is cancelled (R148, R149). -/
def joinRun (i : Nat) (s : State) : State :=
  if s.off.run then
    let s := cancelRetry i s
    if s.off.set.contains i then s else { s with off := { s.off with set := s.off.set ++ [i] } }
  else s

/-! ## Reactions (R139 to R149, R154) -/

/-- The kind order of R139. -/
def kindOrder : List Nat := [2, 3, 4, 6, 0, 1, 5]

/-- Position of a kind in that order. -/
def kindRank (k : Nat) : Nat := kindOrder.findIdx (· = k)

/-- Configured reaction of rail i to a kind: 0 IGNORE, 1 RETRY_RAIL, 2 GROUP_OFF, 3 SYSTEM_RESET (R169). -/
def reactOf (s : State) (i k : Nat) : Nat := s.cf (fbase i) (2 * k + 1) (2 * k)

/-- What is decided for a rail: the reaction applied, whether it is an escalation, whether EN is dropped although
the reaction would not, and whether a retry follows. -/
structure Verdict where
  react : Nat := 0
  escalated : Bool := false
  drop : Bool := false
  retry : Bool := false
  deriving DecidableEq, Repr

/-- Escalation on exhaustion (R147): 0 HOLD, 2 GROUP_OFF, 3 SYSTEM_RESET as reaction codes, HOLD shown as 1. -/
def escalate (code : Nat) : Verdict :=
  { react := if code = 1 then 2 else if code = 2 then 3 else 1, escalated := true, drop := true }

/-- A rail is in the run set of a run in progress. -/
def inRun (s : State) (i : Nat) : Bool := s.off.run && s.off.set.contains i

/-- The verdict of R140 to R147 outside shutdown, for the strongest reaction m. A rail that another fault's run has just taken
gets no retry (R148); a folded one is commanded off (R65). -/
def verdictLive (s : State) (i m : Nat) (vio : Bool) : Verdict :=
  let r := s.rail i
  if m = 0 then {}
  else if m = 1 then
    if vio then { react := 1, drop := true }
    else if !r.st.live then { drop := r.st = .hiz && r.fold, react := b2n (r.st = .hiz && r.fold) }
    else if inRun s i then { react := 1, drop := true }
    else if r.retryCnt < s.cf (fbase i + 4) 15 12 then { react := 1, drop := true, retry := true }
    else escalate (s.cf (fbase i + 4) 17 16)
  else { react := m, drop := true }

/-- The verdict of R154 in shutdown; `held` is an EN short holding the ball at the active level while EN is
commanded inactive. -/
def verdictShut (m : Nat) (pgLost held : Bool) : Verdict :=
  if m = 3 then { react := if held then 3 else 2, drop := true }
  else if m = 2 then { react := 2, drop := true }
  else if m = 1 then { react := 1, drop := true }
  else { react := 0, drop := pgLost }

/-- The EN drop and state of the verdict (R73, R140, R145). -/
def applyDrop (i : Nat) (v : Verdict) (kinds : List Nat) (s : State) : State :=
  if v.drop then
    let s := dropRail i s
    if v.retry then
      s.modRail i fun r => { r with
        retryPend := true, backoff := orDef (s.cf (fbase i + 4) 11 0) 1, backAt := some s.clk.frame, retry := none }
    else s
  else if kinds.contains 5 && (s.rail i).st = .releasing then dropRail i s
  else if kinds.contains 0 && (s.rail i).st = .on then setRState i .ramping s
  else s

/-- FAULT_REACTION: the hardware reaction to what was found on one rail (R139, R140, R142, R154, R158). On a shadow nothing is
dropped; a rail that has lost PG is RAMPING, as under IGNORE, so the loss is found once. `shut`:
the rail was in shutdown at the start of order 3. Answers the entries for queue and capture. -/
def reactRail (i : Nat) (l : List FQ) (shut : Bool) (s : State) : List FQ × State :=
  let w := s.rcfg i
  let r := s.rail i
  let kinds := l.map (·.kind)
  let m := (kinds.map (reactOf s i)).foldl max 0
  let vio := l.any (·.vio)
  let held := l.any fun f => f.kind = 2 && !r.en && f.dir = rcActive w
  let v := if s.shadow then {} else if shut then verdictShut m (kinds.contains 0) held else verdictLive s i m vio
  let fill (s : State) (f : FQ) : FQ := { f with
    state := if f.vio then RState.hiz.code else (s.rail i).st.code, react := v.react, retryCnt := r.retryCnt
    shutdown := shut, escalated := v.escalated }
  let prim := l.foldl (fun b f => if kindRank f.kind < kindRank b.kind then f else b) (l.headD {})
  let s := s.modRail i fun r => { r with lastKind := prim.kind, shutdown := shut }
  if s.shadow then (l.map (fill s), if kinds.contains 0 && r.st = .on then setRState i .ramping s else s)
  else
    let s := applyDrop i v kinds s
    let s := if v.escalated then s.modRail i fun r => { r with escalated := true } else s
    let s := if v.react = 2 then joinRun i (groupReaction (2 ^ s.cf (fbase i) 17 14) s)
      else if v.react = 3 then joinRun i (sysReaction s)
      else s
    (l.map (fill s), s)

/-! ## Queue and capture (R144, R159 to R161) -/

/-- The entry of the same rail and kind counts once more; what the repeat has to tell stays with it (R144, R168). -/
def bumpMult (f x : FQ) : FQ :=
  if x.rail = f.rail && x.kind = f.kind then
    { x with
      mult := x.mult + 1, more := x.more ++ f.more
      exhAlso := x.exhAlso || (f.escalated && f.react ≠ 3), sysAlso := x.sysAlso || f.react = 3 }
  else x

/-- A fault enters the queue, or adds to the entry of its rail and kind (R144). -/
def queueFault (f : FQ) (s : State) : State :=
  match s.flt.queue.find? fun q => q.rail = f.rail && q.kind = f.kind with
  | some q =>
    if q.mult < 255 then
      let l := s.flt.queue.map (bumpMult f)
      { s with flt := { s.flt with queue := l } }
    else
      { s with flt := { s.flt with qlost := sat 255 (s.flt.qlost + 1), qlostNew := true } }
  | none => { s with flt := { s.flt with queue := s.flt.queue ++ [f] } }

/-- Fault a is captured before fault b: earlier onset, then kind order, then lower rail (R160). -/
def capturedFirst (a b : FQ) : Bool :=
  if a.onset ≠ b.onset then tsLe a.onset b.onset
  else if a.kind ≠ b.kind then kindRank a.kind < kindRank b.kind
  else a.rail < b.rail

/-- The sense samples of a rail up to the frame before detection: samples, age, interval (R161, R233). -/
def ffSamples (s : State) (i : Nat) : List Nat × Nat × Nat :=
  let h := (s.rail i).hist.filter fun p => frameBefore p.1 s.clk.frame
  let c := if i < 48 then 0 else 1
  let e := (List.range 64).find? fun x => entTrig (s.ent c x) ≠ 0 && entChan (s.ent c x) = i
  match e with
  | none => ([], 0, 0)
  | some e => (h.map (·.2), sat 0xFFFF ((h.head?.map fun p => (s.clk.frame - p.1).toNat).getD 0),
      if entTrig (s.ent c e) = 1 then entPeriod (s.ent c e) else 0)

/-- b - a of two time-stamps in steps, over the frame numbers' modulus (R43, R344). -/
def Ts.diff (a b : Ts) : Int :=
  let d := (b.frame - a.frame).toNat
  (if d < 2 ^ 47 then (d : Int) else (d : Int) - 2 ^ 48) * 256 + b.frac.toNat - a.frac.toNat

/-- An onset meets the row first fault (R344). -/
def rowFirst (f : RFF) (s : State) : State :=
  let put (r : RFF) := { s with sca := { s.sca with rff := some r } }
  match s.sca.rff with
  | none => put f
  | some h =>
    if h.node = f.node && h.ts = f.ts then s
    else if f.unaligned && !h.unaligned then s
    else if h.unaligned && !f.unaligned then put f
    else
      let d := h.ts.diff f.ts
      if d ≤ -14 then put f
      else if 14 ≤ d then s
      else
        let low := if d < 0 || (d = 0 && f.node < h.node) then f else h
        put { low with conc := sat 15 (h.conc + 1) }

/-- The part's own capture as a row onset (R342, R344). -/
def ownRff (s : State) (f : FQ) : RFF :=
  { ts := f.onset, node := s.cf 0x9000 11 0, grail := s.grail f.rail, kind := f.kind, unaligned := !s.sca.aligned }

/-- FIRST_FAULT_CAPTURE of a boundary's faults; `prims` holds one per rail, `all` every kind (R159, R160). -/
def captureFirst (prims all : List FQ) (s : State) : State :=
  if s.flt.ff.isSome then s
  else match prims with
  | [] => s
  | p :: t =>
    let f := t.foldl (fun b x => if capturedFirst x b then x else b) p
    let h := ffSamples s f.rail
    let c : FF := {
      f := f, ties := sat 15 (all.length - 1), samples := h.1, age := h.2.1, interval := h.2.2
      ledger := (s.drt.inrush, s.drt.power, s.drt.thermal, s.drt.tick) }
    let s := wcWritten 0x16 2 (wcWritten 0x16 1 s)
    rowFirst (ownRff s f) { s with flt := { s.flt with ff := some c }, sca := { s.sca with bcast := 3 } }

/-- A list of faults in the order of R160. -/
def inCaptureOrder (f : FQ) : List FQ → List FQ
  | [] => [f]
  | x :: l => if capturedFirst f x then f :: x :: l else x :: inCaptureOrder f l

/-- The fault reported of one rail, with the other kinds found beside it (R139). -/
def reported (l : List FQ) : FQ :=
  let prim := l.foldl (fun b f => if kindRank f.kind < kindRank b.kind then f else b) (l.headD {})
  { prim with more := (l.map (·.kind)).filter (· ≠ prim.kind) }

/-- The rail fault logic at order 3: every fault found since the last boundary (R139 to R144, R154, R159). `shut`
is the run set as it stood at the start of order 3. -/
def faultLogic (shut : List Nat) (s : State) : State :=
  let l := s.flt.found
  let s := { s with flt := { s.flt with found := [] } }
  let rails := railList.filter fun i => l.any (·.rail = i)
  let p := rails.foldl (fun (p : List FQ × List FQ × State) i =>
    let mine := l.filter fun f => f.rail = i
    let r := reactRail i mine (shut.contains i) p.2.2
    (inCaptureOrder (reported r.1) p.1, p.2.1 ++ r.1, r.2)) ([], [], s)
  captureFirst p.1 p.2.1 (each p.1 queueFault p.2.2)

/-- The run set of the run in progress (R154). -/
def State.runSet (s : State) : List Nat := if s.off.run then s.off.set else []

/-- Faults found outside order 3 are handled like those of a boundary that began with the run set `shut` (R154). -/
def reactIn (shut : List Nat) (s : State) : State := if s.flt.found.isEmpty then s else faultLogic shut s

/-- Faults on single rails outside a frame boundary's own detections are handled like those of a boundary. -/
def reactNow (s : State) : State := faultLogic s.runSet s

/-! ## Stage faults (R151, R277) -/

/-- The stage's own policy FLT_STGn (R151). -/
def stagePolicy (st : Nat) (s : State) : State :=
  let w := s.cw (0x5630 + 4 * st)
  let grp := 2 ^ fld w 5 2
  let m := fld w 1 0
  let x := s.stg st
  let d := detR (768 + st) 6 0 false m x.retryCnt false 1 s.tsB
  if s.shadow || m = 0 then s
  else if m = 1 then
    if x.retryCnt < fld w 21 18 then s.modStg st fun x => { x with backoff := some (orDef (fld w 17 6) 1), retry := none }
    else
      let v := escalate (fld w 23 22)
      if v.react = 2 then groupReaction grp (raise 0x28 s.tsB d s)
      else if v.react = 3 then sysReaction (raise 0x29 s.tsB d s)
      else raise 0x28 s.tsB d s
  else if m = 2 then groupReaction grp s
  else sysReaction (raise 0x29 s.tsB d s)

/-- SAFE_OFF with its reactions on the bound rails and by the stage's policy (R152, R277). -/
def stageFault (st cause : Nat) (s : State) : State :=
  if (s.stg st).st.faultable then stagePolicy st (safeOff st cause s) else s

/-- The hardware stage faults found since the last boundary act at order 3 (R276). -/
def stageFaults (s : State) : State :=
  each [0, 1, 2, 3] (fun st s =>
    match (s.stg st).found with
    | some c => stageFault st c (s.modStg st fun x => { x with found := none, hicFound := false })
    | none => s) s

/-! ## T1.3 (R143, R162, R168) -/

/-- Counter a kind adds to (R162). -/
def counterOf (k : Nat) : Option Nat :=
  if k = 0 then some 0 else if k = 1 then some 1 else if k = 2 then some 3
  else if k = 3 ∨ k = 4 ∨ k = 5 then some 4 else none

/-- A lifetime counter of a rail rises (R162, R163). -/
def countUp (i c n : Nat) (s : State) : State :=
  let f := s.now + 1
  s.modRail i fun r => { r with
    cnt := tmod 0 r.cnt c fun v => sat 0xFFFFFFFF (v + n), delta := tmod 0 r.delta c fun v => v + n
    deltaSince := if tget 0 r.deltaSince c = 0 then tset 0 r.deltaSince c f else r.deltaSince }

/-- Event source of a fault kind (R475). -/
def kindEvent (k : Nat) : Nat :=
  if k = 0 then 0x20 else if k = 1 then 0x21 else if k = 2 then 0x22 else if k = 6 then 0x23
  else if k = 3 then 0x24 else if k = 4 then 0x25 else 0x26

/-- DETAIL of a fault. -/
def detFault (s : State) (f : FQ) : BitVec 128 :=
  detR (s.grail f.rail) f.kind f.state f.dir f.react f.retryCnt f.shutdown f.mult f.onset

/-- One fault is taken from the queue (R143, R168). -/
def takeFault (s : State) : State :=
  match s.flt.queue with
  | [] => s
  | f :: q =>
    let s := { s with flt := { s.flt with queue := q } }
    let s := each (f.kind :: f.more) (fun k s =>
      match counterOf k with | some c => countUp f.rail c (if k = f.kind then f.mult else 1) s | none => s) s
    let ts : Ts := { frame := f.det, frac := 0 }
    let s := raise (kindEvent f.kind) ts (detFault s f) s
    let s := if (f.escalated && f.react ≠ 3) || f.exhAlso then raise 0x28 ts (detFault s f) s else s
    if f.react = 3 || f.sysAlso then raise 0x29 ts (detFault s f) s else s

/-- FAULT_POLICY: T1.3 (R143). With CE1 halted it does nothing (R167). -/
def faultTask (s : State) : State :=
  if (s.eng 1).halted then s
  else
    let s := takeFault (takeFault s)
    let s := match s.flt.ff with
      | some f =>
        let s := { s with flt := { s.flt with ff := some { f with ledgerValid := true, told := true } } }
        if f.told then s else raise 0x27 { frame := f.f.det, frac := 0 } (detFault s f.f) s
      | none => s
    if s.flt.qlostNew then
      raise 0x2D s.tsB (BitVec.ofNat 128 0) { s with flt := { s.flt with qlostNew := false } }
    else s

/-- FF_CLEAR at order 6: a capture made at an earlier boundary is discarded, and the row first fault with it (R159, R344). -/
def ffClearNow (s : State) : State :=
  match s.flt.ff with
  | some f => if frameBefore f.f.det s.clk.frame then
      { s with flt := { s.flt with ff := none }, sca := { s.sca with rff := none, bcast := 0 } }
    else s
  | none => s

/-! ## Retries and timers at watch tick boundaries (R145, R150, R151, R155) -/

/-- BACKOFF_EXPIRY: the rail becomes a retry candidate (R145, R146). -/
def backoffEnd (i : Nat) (s : State) : State :=
  let r := s.rail i
  if r.retryPend && r.retry.isNone && r.backoff ≤ 1 then
    s.modRail i fun r => { r with backoff := 0, retry := some { since := s.clk.frame } }
  else s

/-- BACKOFF_LEFT falls at a watch tick boundary, order 8 (R145). -/
def backoffTick (i : Nat) (s : State) : State :=
  let r := s.rail i
  if !r.retryPend || r.retry.isSome || r.backAt = some s.clk.frame then s
  else if r.backoff ≤ 1 then backoffEnd i s
  else s.modRail i fun r => { r with backoff := r.backoff - 1 }

/-- STAGE_RETRY_BACKOFF: the stage becomes a ledger candidate (R151). -/
def stageBackoffEnd (st : Nat) (s : State) : State :=
  let x := s.stg st
  if x.st = .safeOff && (x.backoff = some 1 || x.backoff = some 0) then
    s.modStg st fun x => { x with backoff := none, retry := some { since := s.clk.frame } }
  else s

/-- A stage's backoff runs at a watch tick boundary (R151). -/
def stageBackoffTick (st : Nat) (s : State) : State :=
  let x := s.stg st
  match x.backoff with
  | some n =>
    if x.faultAt = some s.clk.frame then s
    else if n ≤ 1 then stageBackoffEnd st s
    else s.modStg st fun x => { x with backoff := some (n - 1) }
  | none => s

/-- GROUP_RESTART: the delay has run (R150); not without CE1 (R167). -/
def groupRestartDue (n : Nat) (s : State) : State :=
  if (s.grp n).left = some 0 && !(s.eng 1).halted then groupRestartNow n s else s

/-- The delays of group restarts and of the restart policy at a watch tick boundary (R150, R155). -/
def groupTick (n : Nat) (s : State) : State :=
  groupRestartDue n (s.modGrp n fun g => { g with left := g.left.map (· - 1) })

/-- RESTART_DELAY_EXPIRY: the on request of the restart policy (R155). -/
def restartDue (s : State) : State := if s.flt.restartLeft = some 0 then fullRestart s else s

def restartTick (s : State) : State :=
  restartDue { s with flt := { s.flt with restartLeft := s.flt.restartLeft.map (· - 1) } }

/-- RESTART_WINDOW_EXPIRY: DOMAIN has stayed UP for the window (R155). -/
def windowDue (s : State) : State :=
  if 16384 * orDef (s.cf 0x5608 25 18) 1 < s.flt.upTicks then { s with flt := { s.flt with restarts := 0 } } else s

def windowTick (s : State) : State :=
  windowDue { s with flt := { s.flt with
    upTicks := if s.seq.domain = .up then sat (2 ^ 32) (s.flt.upTicks + 1) else 0 } }

/-! ## Release of SYSRST# (R153, R170) -/

/-- DOMAIN has become UP: the release delay starts (R153). -/
def sysrstUp (old : Domain) (s : State) : State :=
  if old ≠ .up && s.seq.domain = .up && s.flt.sysrst then
    { s with flt := { s.flt with rstLeft := some (s.cf 0x5608 31 26) } }
  else s

/-- SYSRST# goes high. -/
def sysrstOff (s : State) : State := { s with flt := { s.flt with sysrst := false, rstLeft := none } }

/-- SYSRST_RELEASE_DELAY at order 7: the delay has run and 32 frames have passed (R153). -/
def sysrstDue (s : State) : State :=
  if s.flt.sysrst && s.flt.rstLeft = some 0 && 32 ≤ s.flt.sysrstAge then sysrstOff s else s

/-- The age of the assertion and, at a watch tick boundary, the delay (R153). -/
def sysrstStep (s : State) : State :=
  { s with flt := { s.flt with
    sysrstAge := if s.flt.sysrst then sat 32 (s.flt.sysrstAge + 1) else 0
    rstLeft := if s.tickStart then s.flt.rstLeft.map (· - 1) else s.flt.rstLeft } }

/-! ## The watchdog (R164 to R166) -/

/-- The watchdog releases a rail; its own driver acts at once, also on a PAIR rail (R67, R345). -/
def releaseNow (i : Nat) (s : State) : State :=
  driveEn i false ((releaseRail i s).modRail i fun r => { r with enQ := [] })

/-- Every EN still asserted is released under rank 2 of R18 (R166). -/
def releaseAll (s : State) : State :=
  each (railList.filter fun i => (s.rail i).st.live) (fun i s => releaseNow i s)
    { s with flt := { s.flt with wdtHold := true, grace := none } }

/-- A tray expiry in operation (R166). -/
def trayExpiry (e : Nat) (s : State) : State :=
  let w := s.cw 0x560C
  let s := { s with flt := { s.flt with wdtExp := sat 255 (s.flt.wdtExp + 1), wdtRun := true } }
  let s := raise 0x2A s.tsB (detE e 0 0 0 0) s
  let s := offRelay true 0 false (assertSysrst (offRequest 1 true 0 s))
  if bit w 12 || fld w 24 13 = 0 then releaseAll s
  else { s with flt := { s.flt with grace := some ((s.flt.grace.map fun n => min n (fld w 24 13)).getD (fld w 24 13)) } }

/-- The expiry of an engine counts for the tray (R164). -/
def isTray (s : State) (e : Nat) : Bool := e < 4 || (s.cf 0x560C 11 8).testBit (e - 4)

/-- WATCHDOG_GRACE_EXPIRY: the run has not completed within GRACE (R166). -/
def graceDue (s : State) : State :=
  if s.flt.wdtRun && s.flt.grace = some 0 && s.off.run then releaseAll s else s

/-- GRACE runs at watch tick boundaries, at order 3 (R166). -/
def graceStep (s : State) : State :=
  if s.tickStart then graceDue { s with flt := { s.flt with grace := s.flt.grace.map (· - 1) } } else s

/-- Services of the frame just ended are counted (R164); answers the engines that expire at this boundary, each once until it
is serviced again. -/
def watchdogCount (wedged : List Nat) (s : State) : List Nat × State :=
  let t := orDef (s.cf 0x560C 7 0) 1
  let s := each (List.range 8) (fun e s => s.modEng e fun x =>
    if !x.armed then { x with haltNew := false }
    else if wedged.contains e || (x.halted && !x.haltNew) then { x with miss := sat 256 (x.miss + 1), haltNew := false }
    else { x with miss := 0, expired := false, haltNew := false }) s
  let l := (List.range 8).filter fun e => (s.eng e).armed && t ≤ (s.eng e).miss && !(s.eng e).expired
  (l, each l (fun e s => s.modEng e fun x => { x with expired := true }) s)

end Sys2Proof.Machine
end

