-- ==== Sys2Proof/Machine/Ledger.lean ====
section
/-! DEFINITION. Machine/Ledger.lean: the draught ledger (R174 to R183): replenishment, candidates, the pass of T1.2
and background admission. -/

namespace Sys2Proof.Machine

/-! ## Measurements (R176, R177, R184) -/

/-- A rectifier in use and online (R190). -/
def State.rectOn (s : State) (n : Nat) : Bool := s.cb (0x6310 + 8 * n) 18 && (s.rect n).online

def rectList : List Nat := List.range 16

/-- The sum of the latest READ_PIN values of the rectifiers online, in 100 mW, rounded up (R176). -/
def rectPower (s : State) : Nat :=
  let sum := ((rectList.filter s.rectOn).map fun n => lin11 (s.rect n).pin (10 * 2 ^ 16)).foldl (· + ·) 0
  cdiv sum.toNat (2 ^ 16)

/-- The valid result an entry delivered in the frame that has just ended, at a boundary, in engineering units. -/
def State.engNow (s : State) (c e : Nat) : Option Int :=
  let r := (s.entry c e).res
  if r.valid && r.ts.frame = s.clk.last then some (s.engRes c e r) else none

/-- Tray power of the frame just ended in uW from the entries of DRT_PMEAS (R176). -/
def trayPower (s : State) : Option Int :=
  match s.engNow (s.cf 0x6008 1 0) (s.cf 0x6008 7 2), s.engNow (s.cf 0x6008 9 8) (s.cf 0x6008 15 10) with
  | some v, some i => some (v * i)
  | _, _ => none

/-- A power in uW as units of 100 mW, rounded up. -/
def up100mW (n : Nat) (uw : Int) : Nat := if n = 0 then 0 else cdiv uw.toNat (100000 * n)

/-- Tray power of the frame just ended enters the means of ledger and damper (R176, R186). A frame without both
results leaves the last value standing for the damper (log 15). -/
def measurePower (s : State) : State :=
  if s.cb 0x6004 28 then
    let d := rectPower s
    { s with drt := { s.drt with pHist := (d :: s.drt.pHist).take 32 } }
  else match trayPower s with
  | some p =>
    { s with drt := { s.drt with
      pmSum := s.drt.pmSum + p, pmCnt := s.drt.pmCnt + 1, pHist := (up100mW 1 p :: s.drt.pHist).take 32 } }
  | none => { s with drt := { s.drt with pHist := (s.drt.pHist.headD 0 :: s.drt.pHist).take 32 } }

/-- The least of the caps in force; none where there is none (R184). -/
def activeCap (s : State) : Option Nat :=
  let tray := s.cf 0x6104 15 0
  let batt := s.cf 0x6104 31 16
  let row := s.dmp.rowCap.getD 0
  let l := (if tray = 0 then [] else [tray]) ++ (if s.cb 0x6100 1 && row ≠ 0 then [row] else []) ++
    (if s.inl.loss && s.inl.ready && batt ≠ 0 then [batt] else [])
  match l with
  | [] => none
  | a :: t => some (t.foldl min a)

/-- Headroom of one sensor: 0 where its result does not count (R177). -/
def headroom (limit : Nat) (ok : Bool) (v : Int) : Nat := if ok then (16 * (limit : Int) - v).toNat else 0

/-- The die temperature of core c counts, and its value (R177, R235). -/
def dieTemp (s : State) (c : Nat) : Bool × Int :=
  let r := tget ({} : Res) (s.core c).hk 4
  (r.valid && !r.rcv && (s.clk.frame - r.ts.frame).toNat ≤ 32, tget 0 (s.core c).hkVal 4)

/-- Thermal headroom over all sensors: an external one counts while its entry's result is valid (R177). -/
def thermalHead (s : State) : Nat :=
  let die := [0, 1, 2, 3].map fun c => let t := dieTemp s c; headroom (s.cf 0x600C 7 0) t.1 t.2
  let ext := ((List.range 4).filter fun n => s.cb (0x6010 + 4 * n) 0).map fun n =>
    let c := s.cf (0x6010 + 4 * n) 2 1
    let e := s.cf (0x6010 + 4 * n) 8 3
    let r := (s.entry c e).res
    headroom (s.cf (0x6010 + 4 * n) 16 9) (r.valid && !r.rcv) (s.engRes c e r)
  (die ++ ext).foldl min 0xFFFF

/-- The THERMAL values of the other members of a stack, at its master (R182). -/
def memberHeads (s : State) : List Nat :=
  if s.role = 1 then
    ((List.range 8).filter fun m => m ≠ s.index && (s.cf 0x4008 12 5).testBit m).map fun m =>
      (tget none s.drt.memberTherm m).getD 0
  else []

/-- The sums of the commitments in force (R176, R179). -/
def commitP (s : State) : Nat := (s.drt.commits.map (·.power)).foldl (· + ·) 0
def commitT (s : State) : Nat := (s.drt.commits.map (·.thermal)).foldl (· + ·) 0

/-- The INL_BUS entry is in use (R191). -/
def State.busUsed (s : State) : Bool := entTrig (s.ent (s.cf 0x6400 1 0) (s.cf 0x6400 7 2)) ≠ 0

/-- The bus voltage is below START, or its result is not valid (R174, R212). -/
def busLow (s : State) : Bool :=
  let c := s.cf 0x6400 1 0
  let e := s.cf 0x6400 7 2
  let r := (s.entry c e).res
  s.busUsed && (!r.valid || s.engRes c e r < 100 * (s.cf 0x6408 31 21 : Nat))

/-! ## Replenishment (R174, R175) -/

/-- INRUSH and DEBT of a replenishment. -/
def inrushFill (tick debt : Nat) (forced : Bool) : Nat × Nat :=
  if forced then (0, debt) else if tick ≤ debt then (0, debt - tick) else (tick - debt, 0)

/-- POWER of a replenishment (R174, R176). -/
def powerFill (s : State) (pm : Nat) : Nat :=
  let cap := if s.cb 0x6004 29 then ((rectList.filter s.rectOn).map fun n => s.cf (0x6314 + 8 * n) 15 0).foldl (· + ·) 0
    else s.cf 0x6004 15 0
  let cap := match activeCap s with | some a => min cap a | none => cap
  let counted := s.cb 0x6004 28 || s.drt.pmCnt ≠ 0
  if s.dmp.level ≠ 0 || s.inl.loss || !counted then 0
  else sat 0xFFFF (cap - pm - s.cf 0x6004 27 16 - commitP s)

/-- LEDGER_REPLENISH at a watch tick boundary, order 8 (R174 to R177); what the last pass admitted ends with its tick (R181). -/
def replenish (s : State) : State :=
  let pm := if s.cb 0x6004 28 then rectPower s else up100mW s.drt.pmCnt s.drt.pmSum
  let i := inrushFill (s.cf 0x6000 11 0) s.drt.debt (s.inl.loss || busLow s)
  let p := powerFill s pm
  let t := (memberHeads s).foldl min (sat 0xFFFF (thermalHead s - commitT s))
  let held := (s.drt.commits.filter fun c => c.left ≠ some 1 && c.left ≠ some 0).map fun c => { c with left := c.left.map (· - 1) }
  { s with drt := { s.drt with
    debt := i.2, latched := some (i.1, p, t), pmSum := 0, pmCnt := 0, pMeas := sat 0xFFFF pm, commits := held, bg := 0 } }

/-! ## Candidates (R109, R110, R146, R151, R178) -/

/-- What stands behind a candidate. -/
inductive CandRef where
  | item (prog idx : Nat)
  | retry (rail : Nat)
  | resume (rail : Nat)
  | start (seq : Nat)
  | stageRetry (st : Nat)
  | margin (m : MOp)
  | remote (grail : Nat)
  deriving DecidableEq, Repr

/-- A candidate of a pass. -/
structure PCand where
  ref : CandRef
  kind : Nat
  prio : Nat
  since : Frame
  key : Nat
  /-- order among resume candidates: the rail released last first (R118) -/
  tie : Nat := 0
  skip : Nat
  inrush : Nat
  steady : Nat
  commit : CKey
  deriving DecidableEq, Repr

/-- MIN_OFF has elapsed (R74). -/
def minOffMet (s : State) (i : Nat) : Bool := s.cf (rbase i) 27 16 ≤ (s.rail i).offTicks

/-- The predecessors of a rail of the part held at order 4 of the last boundary; at a stack's master, those of the boundary
two before (R99, R109, R125). -/
def predOk (s : State) (i : Nat) : Bool :=
  if s.role = 1 then (tget ({} : View) s.sca.own2 i).pred else s.seq.preds.contains i

/-- The terms of R109 for a local rail, but for its state. -/
def startable (s : State) (i : Nat) : Bool :=
  minOffMet s i && predOk s i && !inRun s i && !(s.rail i).marginHold && !s.flt.wdtHold

/-- A group run is in progress whose scope holds the rail: a pending ENABLE of it waits (R117). -/
def inGroupScope (s : State) (i : Nat) : Bool :=
  s.off.run && !s.off.full && s.cf (fbase i + 8) 15 0 &&& s.off.groups ≠ 0

/-- A pending ENABLE of rail g may be a candidate (R109). -/
def enableable (s : State) (g : Nat) : Bool :=
  let v := s.railView g
  if g / 96 = s.index then v.1 = 1 && startable s (g % 96) && !inGroupScope s (g % 96)
  else v.1 = 1 && v.2.2.2 && (s.view g).pred && !(s.off.run && s.off.full)

/-- A rail of another member may be a retry candidate: its STATUS shows it FAULTED with PRED (R126, R157, log 86). -/
def remoteRetry (s : State) (g : Nat) : Bool :=
  let v := s.railView g
  v.1 = 5 && v.2.2.2 && (s.view g).pred && !(s.off.run && s.off.full) && !(s.seq.cmds.any fun c => c.2 = .retry g)

/-- The candidate of a stage start or retry (R178). -/
def stageCand (s : State) (ref : CandRef) (kind st key : Nat) (c : Cand) : PCand :=
  let w := s.cw (0x4010 + 4 * st)
  { ref := ref, kind := kind, prio := fld w 29 26, since := c.since, key := key, skip := c.skip
    inrush := fld w 11 0, steady := fld w 25 12, commit := .stage st }

/-- The candidate of a start of a stage of a member (R178). -/
def startCand (s : State) (ref : CandRef) (m st : Nat) (c : Cand) : PCand :=
  { stageCand s ref 3 st (768 + st) c with commit := s.stageKey m st }

/-- The candidates of programs. -/
def progCands (s : State) : List PCand :=
  s.running.flatMap fun n => (s.prog n).items.filterMap fun it =>
    if it.cand.granted || it.done ≠ 0 then none
    else if opOf it.w = 2 then
      let g := nbits it.w 57 48
      let f := enFig it.w
      if enableable s g then
        some { ref := .item n it.idx, kind := 0, prio := f.prio, since := it.cand.since, key := g, skip := it.cand.skip
               inrush := f.inrush, steady := f.steady, commit := .rail g }
      else none
    else if opOf it.w = 8 && it.begun then
      some (startCand s (.item n it.idx) (nbits it.w 13 11) (nbits it.w 57 56) it.cand)
    else none

/-- Retry and resume candidates of the part's rails (R118, R146). -/
def railCands (s : State) : List PCand :=
  railList.flatMap fun i =>
    let r := s.rail i
    let mk (ref : CandRef) (kind tie : Nat) (c : Cand) : PCand :=
      { ref := ref, kind := kind, prio := r.fig.prio, since := c.since, key := s.grail i, tie := tie, skip := c.skip
        inrush := r.fig.inrush, steady := r.fig.steady, commit := .rail (s.grail i) }
    (match r.retry with
      | some c => if !c.granted && r.st = .faulted && startable s i then [mk (.retry i) 1 0 c] else []
      | none => []) ++
    (match r.resume with
      | some c => if !c.granted && r.st = .off && startable s i then
          [mk (.resume i) 2 (1 + s.seq.resumeSet.findIdx (· = i)) c] else []
      | none => [])

/-- Retry candidates of the other members of a stack, with the figures of their last ENABLE (R126, R146, R157, log 86). -/
def memberCands (s : State) : List PCand :=
  if s.role ≠ 1 then []
  else (s.sca.view.filter fun p =>
      p.1 / 96 ≠ s.index && remoteRetry s p.1 && !(tget ({} : Cand) s.seq.rcand p.1).granted).map fun p =>
    let f := s.figOf p.1
    let c := tget {} s.seq.rcand p.1
    { ref := .remote p.1, kind := 1, prio := f.prio, since := c.since, key := p.1, skip := c.skip, inrush := f.inrush
      steady := f.steady, commit := .rail p.1 }

/-- Stage retries, host stage starts and margins. -/
def otherCands (s : State) : List PCand :=
  ([0, 1, 2, 3].filterMap fun st =>
    match (s.stg st).retry with
    | some c => if c.granted then none else some (stageCand s (.stageRetry st) 4 st (768 + st) c)
    | none => none) ++
  (s.seq.starts.filterMap fun o =>
    if o.cand.granted then none else some (startCand s (.start o.seq) o.member o.stage o.cand)) ++
  (s.seq.margins.filterMap fun m =>
    if m.phase ≠ .pending || m.cand.granted then none
    else some { ref := .margin m, kind := 5, prio := s.cf 0x6020 3 0, since := m.cand.since, key := m.rail
                skip := m.cand.skip, inrush := 0, steady := marginSteady s m, commit := .margin m.rail })

/-- The order of R110, with the tie of R118. -/
def candLe (a b : PCand) : Bool :=
  if a.prio ≠ b.prio then b.prio ≤ a.prio
  else if a.since ≠ b.since then frameBefore a.since b.since
  else if a.tie ≠ 0 && b.tie ≠ 0 then a.tie ≤ b.tie
  else a.key ≤ b.key

/-- Insertion of a candidate into an ordered list. -/
def candInsert (c : PCand) : List PCand → List PCand
  | [] => [c]
  | d :: l => if candLe c d then c :: d :: l else d :: candInsert c l

/-- The candidates of a pass in their order (R110). -/
def candidates (s : State) : List PCand :=
  (progCands s ++ railCands s ++ memberCands s ++ otherCands s).foldr candInsert []

/-! ## The pass (R110, R175, R180, R183) -/

/-- Changes the record of a candidate. -/
def modCand (r : CandRef) (f : Cand → Cand) (s : State) : State :=
  match r with
  | .item n idx => s.modProg n fun p =>
      { p with items := p.items.map fun it => if it.idx = idx then { it with cand := f it.cand } else it }
  | .retry i => s.modRail i fun r => { r with retry := r.retry.map f }
  | .resume i => s.modRail i fun r => { r with resume := r.resume.map f }
  | .start q => { s with seq := { s.seq with
      starts := s.seq.starts.map fun o => if o.seq = q then { o with cand := f o.cand } else o } }
  | .stageRetry st => s.modStg st fun x => { x with retry := x.retry.map f }
  | .margin m => { s with seq := { s.seq with
      margins := s.seq.margins.map fun o => if o = m then { o with cand := f o.cand } else o } }
  | .remote g => { s with seq := { s.seq with rcand := tmod {} s.seq.rcand g f } }

/-- The three balances of a pass, and whether INRUSH is untouched in it. -/
structure Bal where
  inrush : Nat := 0
  power : Nat := 0
  thermal : Nat := 0
  fresh : Bool := true
  deriving DecidableEq, Repr

/-- A candidate fits every account (R175, R180). -/
def fits (tick : Nat) (b : Bal) (inrush steady therm : Nat) : Bool :=
  (if tick < inrush then b.fresh && b.inrush = tick else inrush ≤ b.inrush) && steady ≤ b.power && therm ≤ b.thermal

/-- The balances after a grant (R175, R180). -/
def debit (tick : Nat) (b : Bal) (inrush steady therm : Nat) : Bal :=
  { inrush := if tick < inrush then 0 else b.inrush - inrush, power := b.power - steady, thermal := b.thermal - therm
    fresh := b.fresh && inrush = 0 }

/-- The log entry of a candidate in the pass. -/
def alogOf (s : State) (b : Bal) (c : PCand) (order result : Nat) : ALog :=
  { frame := s.clk.frame, order := order, jseq := s.jrn.head, inrush := b.inrush, power := b.power, thermal := b.thermal
    id := c.key, kind := c.kind, result := result, prio := c.prio, cInrush := c.inrush, cSteady := c.steady
    cThermal := thermCost s c.steady }

/-- What a pass carries from candidate to candidate. -/
structure Pass where
  s : State
  b : Bal
  order : Nat := 0
  log : List ALog := []
  grants : Nat := 0
  stop : Bool := false

/-- A grant: the costs are debited and committed, DEBT takes the excess (R175, R179). -/
def grant (c : PCand) (p : Pass) : Pass :=
  let s := p.s
  let tick := s.cf 0x6000 11 0
  let th := thermCost s c.steady
  let d := s.drt.debt + (c.inrush - tick)
  let s := modCand c.ref (fun x => { x with granted := true, skip := 0, order := p.order }) s
  let s := { s with drt := { s.drt with
    debt := sat 0xFFFF d
    commits := s.drt.commits ++ (if c.steady = 0 && th = 0 then [] else [{ key := c.commit, power := c.steady, thermal := th }]) } }
  { p with s := s, b := debit tick p.b c.inrush c.steady th, log := p.log ++ [alogOf s p.b c p.order 0], grants := p.grants + 1 }

/-- One candidate is tried (R110, R180). -/
def tryCand (p : Pass) (c : PCand) : Pass :=
  if p.stop then p
  else
    let p := { p with order := p.order + 1 }
    let th := thermCost p.s c.steady
    if fits (p.s.cf 0x6000 11 0) p.b c.inrush c.steady th then grant c p
    else
      let s := modCand c.ref (fun x => { x with skip := x.skip + 1 }) p.s
      if 8 ≤ c.skip + 1 then { p with s := s, stop := true, log := p.log ++ [alogOf s p.b c p.order 1] } else { p with s := s }

/-! ## Background work (R181) -/

/-- A background class has work waiting. -/
def bgWork (s : State) (n : Nat) : Bool :=
  if n = 0 then railList.any fun i => !(s.rail i).delta.isEmpty
  else if n = 1 then !s.recd.buf.isEmpty || s.recd.flush || s.recd.erasing.isSome || s.nv.jobs.any fun j => match j.use with
    | .record _ => true | .clear _ => true | _ => false
  else if n = 2 then !s.jrn.waiting.isEmpty
  else if n = 3 then s.nv.jobs.any fun j => match j.use with
    | .image _ => true | .genState _ => true | .tag _ => true | _ => false
  else if n = 4 then (s.fw.sess.elim false fun x => x.busy) ||
    s.nv.jobs.any fun j => match j.use with | .fwState _ => true | _ => false
  else if n = 5 then s.nv.sweep || s.nv.intent.isSome
  else if n = 6 then s.cb 0x7000 6 || s.cnv.calState = 1 || s.cnv.calState = 3
  else s.drt.other

/-- DETAIL P of the present state (R472). -/
def detNow (s : State) (rect : Nat) : BitVec 128 :=
  let c := s.cf 0x6400 1 0
  let e := s.cf 0x6400 7 2
  detP (toBits 16 (s.engRes c e (s.entry c e).res)) s.drt.pMeas ((activeCap s).getD 0) s.dmp.level rect s.inl.shedV

/-- A class is tried against the balances the candidates left (R181); the flush of an image of severity 3 is admitted whatever
they are (R394). -/
def tryClass (n : Nat) (p : Pass) : Pass :=
  let s := p.s
  if !bgWork s n then p
  else
    let w := s.cw (0x6030 + 4 * n)
    let cost := fld w 11 4
    let free := s.inl.loss && n ≤ 1
    let now := n = 1 && s.recd.urgent
    if now || ((free || cost ≤ p.b.power) && 16 * fld w 19 12 ≤ p.b.thermal) then
      { p with b := { p.b with power := p.b.power - cost }
               s := { s with drt := { s.drt with bg := s.drt.bg ||| 2 ^ n, refused := tset 0 s.drt.refused n 0 } } }
    else
      let k := tget 0 s.drt.refused n + 1
      if 16 ≤ k then
        { p with s := raise 0x43 s.tsB (detNow s n) { s with drt := { s.drt with refused := tset 0 s.drt.refused n 0 } } }
      else { p with s := { s with drt := { s.drt with refused := tset 0 s.drt.refused n k } } }

/-- The classes in PRIO order, then ascending (R181). -/
def classOrder (s : State) : List Nat :=
  (List.range 16).reverse.flatMap fun pr => (List.range 8).filter fun n => s.cf (0x6030 + 4 * n) 3 0 = pr

/-- The candidates of a pass: a member or shadow tries none (R182), nor does the quiet tick of a handover (R350). -/
def passCands (s : State) : List PCand := if s.role = 2 || s.shadow || s.pair.quiet then [] else candidates s

/-- The entry of the admission log that opens a pass (R183). -/
def passSummary (s : State) (b : Bal) : ALog :=
  { frame := s.clk.frame, jseq := s.jrn.head, inrush := b.inrush, power := b.power, thermal := b.thermal
    id := (passCands s).length, kind := 7 }

/-- The candidates are tried in order; a pass with a grant is logged (R110, R180, R183). -/
def tryCands (b : Bal) (s : State) : Pass :=
  let p := (passCands s).foldl tryCand { s := s, b := b }
  { p with s := if p.grants = 0 then p.s else each (passSummary s b :: p.log) alogAdd p.s }

/-- The background classes are tried against what is left (R181). -/
def tryClasses (p : Pass) : Pass := (classOrder p.s).foldl (fun q n => tryClass n q) p

/-- The balances a pass leaves are shown (R200). -/
def passEnd (p : Pass) : State :=
  { p.s with drt := { p.s.drt with
    inrush := p.b.inrush, power := p.b.power, thermal := p.b.thermal, tick := p.s.tickNo % 2 ^ 32 } }

/-- LEDGER_PASS: T1.2 (R110, R180 to R183). A shadow replenishes its accounts but runs no pass (R182). -/
def ledgerPass (s : State) : State :=
  match s.drt.latched with
  | none => s
  | some l =>
    if (s.eng 1).halted then s
    else if s.shadow then
      passEnd { s := { s with drt := { s.drt with latched := none, bg := 0 } }, b := { inrush := l.1, power := l.2.1, thermal := l.2.2 } }
    else passEnd (tryClasses (tryCands { inrush := l.1, power := l.2.1, thermal := l.2.2 }
      { s with drt := { s.drt with latched := none, bg := 0 } }))

end Sys2Proof.Machine
end

