-- ==== Sys2Proof/Machine/Seq.lean ====
section
/-! DEFINITION. Machine/Seq.lean: the sequencer at a boundary (R102 to R111, R122, R125): examination and retirement
of steps, margins under way, and the rail commands of order 7. -/

namespace Sys2Proof.Machine

/-! ## Margins (R87, R89, R90, R103) -/

/-- The target of an MDAC margin (R103). -/
def mdacGoal (dir code : Nat) : Int :=
  if dir = 0 then 0 else if dir = 1 then (code : Int) else if dir = 2 then -(code : Int) else sext 8 code

/-- A MARGIN_SET entry as a margin (R102, R103). -/
def marginOf (o : Owner) (w ext : Nat) (c : Cand) : MOp :=
  { rail := nbits w 57 48, owner := o, pmb := w.testBit 47, dir := nbits w 46 45, mdac := nbits w 42 39
    target := if w.testBit 47 then nbits w 30 15 else nbits w 38 31, verify := w.testBit 44
    vexp := nbits ext 57 42, tol := nbits ext 41 32, settle := nbits ext 31 16, cand := c }

/-- Replaces a margin in the list. -/
def marginPut (old : MOp) (new : Option MOp) (s : State) : State :=
  { s with seq := { s.seq with margins := s.seq.margins.flatMap fun m => if m = old then new.toList else [m] } }

/-- The margin ends with an outcome: 1 OK, 2 verify fail, 4 PMBUS_FAIL (R90, R104). -/
def marginEnd (m : MOp) (code : Nat) (s : State) : State :=
  let st := if code = 1 then stOk else if code = 4 then stPmbus else stVerify
  marginTell m.owner code st (marginPut m none s)

/-- The margin has reached its target at a boundary, or within a frame, which then counts for neither the settle time nor
the average: it is verified, or done (R90, R102). -/
def marginReached (mid : Bool) (m : MOp) (s : State) : State :=
  let n := m.settle + b2n mid
  if m.verify then
    marginPut m (some { m with phase := if n = 0 then .average 32 0 0 else .settle n }) s
  else
    let s := if m.dir = 0 then commitEnd (.margin m.rail) s else s
    marginEnd m 1 s

/-- The transactions of a margin through PMBus (R87). -/
def pmbMarginOps (act : Bool) (dir target : Nat) : List PmbOp :=
  if dir = 0 then [.operation 0 none]
  else if dir = 1 then [.writeWord 0x26 target, .operation (if act then 6 else 5) none]
  else [.writeWord 0x25 target, .operation (if act then 0x0A else 9) none]

/-- PMBUS_FAIL counts as a margin verify fail: its counter and its event (R87, R90). -/
def marginPmbFail (m : MOp) (s : State) : State :=
  raise 0x33 s.tsB (detM m.rail m.mdac m.pmb 0 m.vexp true 0) (countUp (m.rail % 96) 5 1 s)

/-- MARGIN_RETURN or margin start at order 7: the target is set, or the bus job queued (R85, R87, R89). -/
def marginGo (g : Nat) (s : State) : State :=
  match s.seq.margins.find? fun m => m.rail = g && m.cand.granted && m.phase = .pending with
  | none => s
  | some m =>
    let i := g % 96
    let m2 := { m with cand := { m.cand with granted := false }, phase := .moving }
    if (s.rail i).st ≠ .on then
      commitEnd (.margin g) (marginTell m.owner 2 stRefused (marginPut m none s))
    else if m.pmb then
      if !(s.rail i).bindOk then commitEnd (.margin g) (marginEnd m 4 (marginPmbFail m s))
      else
        let j := rpmbJob s i (.margin i) (pmbMarginOps (s.cb (rbase i + 8) 19) m.dir m.target)
        pmbPush j.1 j.2 (marginPut m (some m2) (s.modRail i fun r =>
          { r with margin := m.dir, marginPmb := m.dir ≠ 0 }))
    else
      mdacTarget m.mdac (mdacGoal m.dir m.target) (marginPut m (some m2) (s.modRail i fun r =>
        { r with margin := m.dir, marginDac := if m.dir = 0 then none else some m.mdac }))

/-- A bus job of a margin has ended (R87, R90). -/
def marginBusDone (i : Nat) (ok : Bool) (s : State) : State :=
  match s.seq.margins.find? fun m => m.rail = s.grail i && m.pmb && m.phase = .moving with
  | none => s
  | some m => if ok then marginReached true m s else marginEnd m 4 (marginNominal i (marginPmbFail m s))

/-- The average is judged (R90): a verify fail counts, raises and returns to nominal. No result leaves the average
open (log 2). -/
def marginJudge (m : MOp) (n : Nat) (sum : Int) (s : State) : State :=
  let i := m.rail % 96
  let f := if n = 0 then freeInt 16 s else (4 * sum, s)
  let k := orDef n 1
  let d := (f.1 - (k * m.vexp : Nat)).natAbs
  let s := f.2
  if d ≤ k * m.tol then
    let s := if m.dir = 0 then commitEnd (.margin m.rail) s else s
    marginEnd m 1 s
  else
    let avg := toBits 16 (f.1.fdiv k)
    let s := raise 0x33 s.tsB (detM m.rail m.mdac m.pmb avg m.vexp false 0) (countUp i 5 1 s)
    marginEnd m 2 (marginNominal i s)

/-- The sense results of rail i in the frame just ended, in mV (R90, R233). -/
def senseNow (s : State) (i : Nat) : List Int :=
  ((s.rail i).hist.filter fun p => p.1 = s.clk.last && p.2.testBit 14).map fun p => s.engOf i (p.2 % 4096)

/-- One boundary of a margin under way (R85, R90). -/
def marginStep (m : MOp) (s : State) : State :=
  if m.rail / 96 ≠ s.index then s
  else match m.phase with
  | .pending => s
  | .moving => if !m.pmb && (s.mdac m.mdac).atTarget then marginReached false m s else s
  | .settle n => marginPut m (some { m with phase := if n ≤ 1 then .average 32 0 0 else .settle (n - 1) }) s
  | .average l n sum =>
    let v := senseNow s (m.rail % 96)
    let n := n + v.length
    let sum := v.foldl (· + ·) sum
    if l ≤ 1 then marginJudge m n sum s else marginPut m (some { m with phase := .average (l - 1) n sum }) s

/-! ## Retirement (R49, R105, R106) -/

/-- A rail-acting step of rail g has retired in this watch tick (R106). -/
def actedNow (s : State) (g : Nat) : Bool := tget 0 s.seq.acted g = s.tickNo + 1

def markActed (g : Nat) (s : State) : State :=
  { s with seq := { s.seq with acted := tset 0 s.seq.acted g (s.tickNo + 1) } }

/-- The single step of program n retires and the next one is fetched at this boundary (R105). -/
def retireNext (n : Nat) (s : State) : State :=
  fetchAt n (s.prog n).current (s.prog n).next (s.modProg n fun p => { p with items := [], deferred := false })

/-- A step fails with a status: ONFAIL decides (R102, R104). What it began goes on without it. -/
def failStep (n status : Nat) (it : Item) (pmb : Bool) (s : State) : State :=
  if onFail it.w then
    retireNext n (disown n (s.modProg n fun p => { p with
      marginFail := p.marginFail || opOf it.w = 6
      pmbusFail := p.pmbusFail || opOf it.w = 7 || (opOf it.w = 6 && pmb) }))
  else progEnd n status it.idx s

/-- Puts a rail command in the queue of order 7: at once, or two boundaries on in a stack (R110, R125). -/
def pushCmd (c : RailCmd) (s : State) : State :=
  { s with seq := { s.seq with cmds := s.seq.cmds ++ [(if s.role = 1 then 2 else 0, c)] } }

/-- The member a command acts on. -/
def RailCmd.member : RailCmd → Option Nat
  | .enable g _ _ _ _ => some (g / 96)
  | .retry g => some (g / 96)
  | .resume g => some (g / 96)
  | .release g _ _ => some (g / 96)
  | .stageStart m _ _ _ _ _ _ => some m
  | .stageRetry _ => none
  | .marginGo g => some (g / 96)

/-- 16-bit units of the record a command becomes for another member (R337). -/
def cmdUnits (s : State) (c : RailCmd) : Nat :=
  if c.member.getD s.index = s.index then 0
  else match c with
  | .stageStart _ _ _ _ _ _ _ => 3
  | .marginGo g => if s.seq.margins.any fun m => m.rail = g && m.cand.granted && m.verify then 7 else 4
  | _ => 1

/-- The record of a command still fits in the 22 units of the boundary (R337). -/
def cmdFits (s : State) (c : RailCmd) : Bool :=
  ((s.seq.cmds.filter fun x => x.1 = 2).map fun x => cmdUnits s x.2).foldl (· + ·) 0 + cmdUnits s c ≤ 22

/-- Changes the items of program n with index idx. -/
def modItem (n idx : Nat) (f : Item → Item) (s : State) : State :=
  s.modProg n fun p => { p with items := p.items.map fun it => if it.idx = idx then f it else it }

/-- Removes an ENABLE of a set; the last one retired fetches the step after the set (R105). -/
def dropItem (n idx : Nat) (s : State) : State :=
  let s := s.modProg n fun p => { p with items := p.items.filter fun it => it.idx ≠ idx }
  if (s.prog n).items.isEmpty then retireNext n s else s

/-- One ENABLE is examined (R102, R106, R109, R336). Answers whether it counts as a retirement: its EN is applied at order 7
of the boundary that it names (R105, R110, R125). -/
def examEnable (n : Nat) (it : Item) (s : State) : State × Nat :=
  let g := nbits it.w 57 48
  let v := s.railView g
  let c : RailCmd := .enable g (enFig it.w) n it.idx it.cand.order
  if !v.2.2.2 then (s, 0)
  else if v.1 = 0 || v.1 = 6 then (progEnd n 4 it.idx s, 0)
  else if v.1 = 2 || v.1 = 3 then
    if actedNow s g then (s, 0)
    else (dropItem n it.idx (markActed g ((withdrawItem it s).modProg n fun p => { p with already := true })), 1)
  else if it.cand.granted then
    if v.1 ≠ 1 then
      (modItem n it.idx (fun it => { it with cand := { it.cand with granted := false } }) (withdrawItem it s), 0)
    else if actedNow s g || !cmdFits s c then (s, 0)
    else (dropItem n it.idx (pushCmd c (markActed g s)), 1)
  else (s, 0)

/-- Rail g of the domain is in a group: the groups of the master govern the rails of its stack (R149, R157, log 87). -/
def inGroup (s : State) (id g : Nat) : Bool := (s.cf (fbase (g % 96) + 8) 15 0).testBit id

/-- The rails of the domain in a group, by GRAIL: those used, and those of the other members whose use is not known (R107,
R149). -/
def groupRails (s : State) (id : Nat) : List Nat :=
  let own := (railList.filter fun i => (s.rail i).st ≠ .unused).map s.grail
  let far := if s.role ≠ 1 then [] else
    (List.range 768).filter fun g => g / 96 ≠ s.index && (s.cf 0x4008 12 5).testBit (g / 96) && (s.railView g).1 ≠ 0
  (own ++ far).filter (inGroup s id)

/-- A program waits at a KIND 1 BARRIER of an ID, examined (R107). -/
def atRendezvous (s : State) (id n : Nat) : Bool :=
  match (s.prog n).items with
  | [it] => opOf it.w = 9 && it.w.testBit 57 && nbits it.w 56 53 = id && (it.begun || it.cand.since ≠ s.clk.frame)
  | _ => false

/-- The programs named for a rendezvous (R107). -/
def rendezvousMask (s : State) (id : Nat) : List Nat :=
  (List.range 64).filter fun n =>
    if n < 32 then bit (s.cw (0x4020 + 8 * id)) n else bit (s.cw (0x4024 + 8 * id)) (n - 32)

/-- What the examination of a single step decides. -/
inductive Exam where
  | wait
  | retire
  | fail (status : Nat) (pmb : Bool)
  | jump (target : Nat)
  | finish (status : Nat)
  deriving DecidableEq, Repr

/-- A deadline that has run out (R102). -/
def expired (it : Item) : Bool := it.deadline = some 0

/-- A start would be discarded: the stage of this part is HELD or UNUSED, or has just faulted (R102, R111). -/
def stageDead (s : State) (m st : Nat) : Bool :=
  let x := s.stg st
  m = s.index && (x.st = .held || x.st = .unused || x.faultAt = some s.clk.frame)

/-- The command a STAGE_START becomes (R111). -/
def startCmd (n w : Nat) : RailCmd :=
  .stageStart (nbits w 13 11) (nbits w 57 56) (nbits w 55 40) (nbits w 39 28) (.prog n) (if w.testBit 27 then .prog n else .none)
    (w.testBit 27)

/-- Local rail g is in the run set of a run in progress. -/
def inRunG (s : State) (g : Nat) : Bool := g / 96 = s.index && inRun s (g % 96)

/-- The examination of a step other than ENABLE and KIND 1 BARRIER, without its effects (R102, R107, R111, R121, R336). -/
def examine (n : Nat) (it : Item) (s : State) : Exam :=
  let w := it.w
  let op := opOf w
  let v := s.railView (nbits w 57 48)
  if op = 0 then .finish 1
  else if (op = 3 || op = 6 || op = 0x0D) && !v.2.2.2 then (if expired it then .fail 5 false else .wait)
  else if op = 3 then
    if v.1 = 1 || v.1 = 6 || v.1 = 0 then .fail 4 false
    else if v.1 = 3 && nbits w 47 32 ≤ v.2.2.1 then .retire else .wait
  else if op = 4 then
    if condTrue s (nbits w 31 0) then .retire else if expired it then .fail 5 false else .wait
  else if op = 5 then (if it.left = 0 then .retire else .wait)
  else if op = 6 then
    if it.done = 1 then (if actedNow s (nbits w 57 48) then .wait else .retire)
    else if it.done = 2 then .fail 4 false
    else if it.done = 4 then .fail 4 true
    else if !it.begun && v.1 ≠ 3 then .fail 4 false
    else .wait
  else if op = 7 then
    if it.done = 1 then .retire else if it.done = 4 || it.done = 2 then .fail 4 true else .wait
  else if op = 8 then
    if it.done = 1 then .retire
    else if it.done = 2 then .fail 4 false
    else if expired it then .fail 5 false
    else if it.cand.granted && it.done = 0 then
      if stageDead s (nbits w 13 11) (nbits w 57 56) then .fail 4 false
      else if !w.testBit 27 && cmdFits s (startCmd n w) then .retire
      else .wait
    else .wait
  else if op = 9 then
    if (groupRails s (nbits w 56 53)).all fun g =>
      let v := s.railView g
      v.2.2.2 && v.1 = 3 && nbits w 52 37 ≤ v.2.2.1 then .retire
    else if expired it then .fail 5 false else .wait
  else if op = 0x0A then .jump (if condTrue s (nbits w 31 0) then nbits w 57 45 else (s.prog n).next)
  else if op = 0x0B then
    if 8 ≤ (s.prog n).stack.length then .finish 8 else .jump (nbits w 57 45)
  else if op = 0x0C then
    match (s.prog n).stack with
    | [] => .finish 1
    | t :: _ => .jump t
  else if op = 0x0D then
    let g := nbits w 57 48
    if it.done ≠ 0 then (if v.1 = 1 then .retire else if expired it then .fail 5 false else .wait)
    else if inRunG s g then .retire
    else if expired it then .fail 5 false
    else if actedNow s g then .wait
    else if v.1 = 1 then .retire
    else if !w.testBit 47 && cmdFits s (.release g n it.idx) then .retire
    else .wait
  else .finish 9

/-- The transactions of a PMBUS_WRITE (R102). -/
def pmbWriteJob (n w : Nat) : Nat × PmbJob :=
  let op : PmbOp := if nbits w 32 31 = 0 then .send (nbits w 40 33)
    else if nbits w 32 31 = 1 then .writeByte (nbits w 40 33) (nbits w 22 15)
    else .writeWord (nbits w 40 33) (nbits w 30 15)
  (nbits w 57 56, { use := .step n, addr := nbits w 55 49, pec := w.testBit 14, ops := pageOp (nbits w 48 41) ++ [op] })

/-- What a step that waits begins as it is examined: an offer, a job, a command whose effect it awaits (R102, R109, R111,
R121). The words of a write on another member's bus go out as its record (log 89). -/
def beginStep (n : Nat) (it : Item) (s : State) : State :=
  let w := it.w
  let op := opOf w
  let s0 := modItem n it.idx (fun it => { it with begun := true, cand := if it.begun then it.cand else { it.cand with since := s.clk.frame } }) s
  if op = 6 then
    if it.begun then s0
    else { s0 with seq := { s0.seq with
      margins := s0.seq.margins ++ [marginOf (.prog n) w it.ext { it.cand with since := s.clk.frame }] } }
  else if op = 7 then
    if it.begun then s0
    else if nbits w 12 10 ≠ s.index then
      emit (.busWrite (nbits w 12 10) w) (modItem n it.idx (fun it => { it with begun := true, done := 1 }) s0)
    else
      let j := pmbWriteJob n w
      pmbPush j.1 j.2 s0
  else if op = 8 then
    if it.cand.granted && it.done = 0 && cmdFits s (startCmd n w) then
      pushCmd (startCmd n w)
        (modItem n it.idx (fun it => { it with done := 5, cand := { it.cand with granted := false } }) s0)
    else s0
  else if op = 0x0D then
    let g := nbits w 57 48
    let c : RailCmd := .release g n it.idx
    if it.done = 0 && !actedNow s g && (s.railView g).2.2.2 && cmdFits s c then
      pushCmd c (markActed g (modItem n it.idx (fun it => { it with done := 5 }) s0))
    else s0
  else s0

/-- What a step does as it retires at order 4: the command of a start or a release is due at order 7 (R105, R110, R111). -/
def retireActs (n : Nat) (it : Item) (s : State) : State :=
  let w := it.w
  let op := opOf w
  let g := nbits w 57 48
  if op = 8 && it.done = 0 then pushCmd (startCmd n w) s
  else if op = 6 then markActed g s
  else if op = 0x0D && it.done = 0 then
    let s := markActed g s
    if (s.railView g).1 = 1 || inRunG s g then s else pushCmd (.release g n it.idx) s
  else s

/-- Time passes for a step at the boundary that examines it: deadline and DELAY (R102). -/
def ageItem (tick : Bool) (it : Item) : Item :=
  { it with
    deadline := it.deadline.map (· - 1)
    left := if opOf it.w = 5 && (!it.w.testBit 57 || tick) then it.left - 1 else it.left }

/-- Every step fetched before this boundary grows older by it. -/
def ageItems (s : State) : State :=
  let s := { s with seq := { s.seq with progs := s.seq.progs.map fun p => (p.1, { p.2 with endedNow := false }) } }
  each s.running (fun n s => s.modProg n fun p => { p with
    items := p.items.map fun it => if it.cand.since = s.clk.frame && !it.begun then it else ageItem s.tickStart it }) s

/-- A member of the stack is lost (R130). -/
def memberLost (s : State) (m : Nat) : Bool := s.role = 1 && s.sca.lostMembers.testBit m

/-- One single step of program n is examined and, if due, retired (R102, R105). Answers the retirements made. -/
def runStep (n : Nat) (it : Item) (s : State) : State × Nat :=
  match (stepMember it.w).filter (memberLost s) with
  | some _ => (progEnd n 10 it.idx s, 0)
  | none =>
    match examine n it s with
    | .wait => (beginStep n it s, 0)
    | .retire => (retireNext n (retireActs n it s), 1)
    | .fail st pmb => (failStep n st it pmb s, if onFail it.w then 1 else 0)
    | .jump t =>
      let op := opOf it.w
      let s := s.modProg n fun p => { p with
        stack := if op = 0x0B then p.next :: p.stack else if op = 0x0C then p.stack.drop 1 else p.stack }
      (retireNext n (s.modProg n fun p => { p with next := t }), 1)
    | .finish st => (progEnd n st it.idx s, 1)

/-- A KIND 1 BARRIER: all waiting programs of its ID retire together, if there is room for all (R106, R107). -/
def runRendezvous (n : Nat) (it : Item) (room : Nat) (s : State) : State × Nat :=
  let id := nbits it.w 56 53
  let waiters := s.running.filter (atRendezvous s id)
  let named := (rendezvousMask s id).filter fun m => (s.prog m).state = 1
  if named.all (atRendezvous s id) then
    if waiters.length ≤ room then (each waiters (fun m s => retireNext m s) s, waiters.length)
    else (each waiters (fun m s => s.modProg m fun p => { p with deferred := true }) s, 0)
  else if expired it then
    if onFail it.w && room = 0 then (s.modProg n fun p => { p with deferred := true }, 0)
    else
      let s := failStep n 5 it false s
      (s, if onFail it.w then 1 else 0)
  else (modItem n it.idx (fun it => { it with begun := true }) s, 0)

/-- Program n at order 4, with `room` retirements left of the 32 (R49, R105). -/
def runProg (n room : Nat) (s : State) : State × Nat :=
  let due := (s.prog n).items.filter fun it => it.begun || it.cand.since ≠ s.clk.frame
  match due with
  | [] => (s, 0)
  | it :: _ =>
    if opOf it.w = 2 then
      due.foldl (fun (p : State × Nat) it =>
        if (p.1.prog n).state ≠ 1 then p
        else match (stepMember it.w).filter (memberLost p.1) with
        | some _ => (progEnd n 10 it.idx p.1, p.2)
        | none =>
          if room ≤ p.2 then
            (if it.cand.granted then p.1.modProg n fun q => { q with deferred := true } else p.1, p.2)
          else let r := examEnable n it p.1; (r.1, p.2 + r.2)) (s, 0)
    else if opOf it.w = 9 && it.w.testBit 57 then runRendezvous n it room s
    else if room = 0 then
      (if examine n it s = .wait then (beginStep n it s, 0) else (s.modProg n fun p => { p with deferred := true }, 0))
    else runStep n it s

/-- STEP_RETIRE of order 4, nothing in the quiet tick of a handover (R350): deferred programs first, then ascending, at most 32 retirements (R49, R105, R106). -/
def seqStep (s : State) : State :=
  let s := ageItems s
  let run := if s.pair.quiet then [] else s.running
  let order := (run.filter fun n => (s.prog n).deferred) ++ run.filter fun n => !(s.prog n).deferred
  let s := each order (fun n s => s.modProg n fun p => { p with deferred := false }) s
  (order.foldl (fun (p : State × Nat) n =>
    -- a program that a rendezvous has already moved on holds only steps fetched at this boundary
    if (p.1.prog n).state = 1 then let r := runProg n (32 - p.2) p.1; (r.1, p.2 + r.2) else p) (s, 0)).1

/-- The grant has been given and its command is still to be put on its way. -/
def Cand.due (c : Cand) : Bool := c.granted && !c.pushed

/-- A grant's command goes on its way, where its record fits (R110, R337). -/
def pushGrant (r : CandRef) (c : RailCmd) (s : State) : State :=
  if cmdFits s c then pushCmd c (modCand r (fun x => { x with pushed := true }) s) else s

/-- Host stage starts, margins and rail candidates whose grant is due become commands (R110, R111, R126, R146). -/
def dueGrants (s : State) : State :=
  let s := each (railList.filter fun i => ((s.rail i).retry.map (·.due)).getD false) (fun i s => pushGrant (.retry i) (.retry (s.grail i)) s) s
  let s := each (railList.filter fun i => ((s.rail i).resume.map (·.due)).getD false) (fun i s => pushGrant (.resume i) (.resume (s.grail i)) s) s
  let s := each ([0, 1, 2, 3].filter fun st => ((s.stg st).retry.map (·.due)).getD false) (fun st s => pushGrant (.stageRetry st) (.stageRetry st) s) s
  let s := each ((s.seq.rcand.filter fun p => p.2.due).map (·.1)) (fun g s => pushGrant (.remote g) (.retry g) s) s
  let s := each (s.seq.starts.filter fun o => o.cand.granted) (fun o s =>
    let c : RailCmd := .stageStart o.member o.stage o.vset o.slew (.cmd o.seq) (.cmd o.seq) o.wait
    if cmdFits s c then pushCmd c { s with seq := { s.seq with starts := s.seq.starts.filter fun x => x.seq ≠ o.seq } } else s) s
  each (s.seq.margins.filter fun m => m.cand.due && m.phase = .pending) (fun m s => pushGrant (.margin m) (.marginGo m.rail) s) s

/-- The retry candidates of other members, as their statuses show them at this boundary (R126, R157, log 86). -/
def memberRetries (s : State) : State :=
  if s.role ≠ 1 then s
  else
    let now := (s.sca.view.filter fun p => p.1 / 96 ≠ s.index && remoteRetry s p.1).map (·.1)
    { s with seq := { s.seq with
      rcand := (s.seq.rcand.filter fun p => now.contains p.1 || s.seq.cmds.any fun c => c.2 = .retry p.1) ++
        ((now.filter fun g => !s.seq.rcand.any (·.1 = g)).map fun g => (g, { since := s.clk.frame })) } }

/-! ## Rail commands of order 7 (R18, R73, R110, R146) -/

/-- A retired step whose command is discarded under R18 ends its program (R108). -/
def preempt (n idx : Nat) (s : State) : State := if (s.prog n).state = 1 then progEnd n 6 idx s else s

/-- EN of an ENABLE is applied, or a higher rank discards it, which preempts its program; a rail that something else has
started since is left alone (R18, R108, R110, R148). -/
def applyEnable (i n idx : Nat) (f : Fig) (s : State) : State :=
  let r := s.rail i
  if r.st = .off && !s.flt.wdtHold && !inRun s i then
    startRail i f (s.modRail i fun r => { r with retryCnt := 0, escalated := false, resume := none })
  else if r.st.live && !s.flt.wdtHold then s
  else preempt n idx (commitEnd (.rail (s.grail i)) s)

/-- A retry is applied, or cancelled where a higher rank acts on the rail (R146). -/
def applyRetry (i : Nat) (s : State) : State :=
  let r := s.rail i
  if r.st = .faulted && r.retryPend && !s.flt.wdtHold && (r.retry.map (·.granted)).getD false then
    let s := countUp i 2 1 (s.modRail i fun r => { r with retry := none, retryPend := false, retryCnt := sat 15 (r.retryCnt + 1) })
    startRail i (s.rail i).fig s
  else cancelRetry i s

/-- A resume is applied (R118, R148). -/
def applyResume (i : Nat) (s : State) : State :=
  let r := s.rail i
  let s := s.modRail i fun r => { r with resume := none }
  if r.st = .off && !s.flt.wdtHold then
    startRail i r.fig (s.modRail i fun r => { r with retryCnt := 0, escalated := false })
  else commitEnd (.rail (s.grail i)) s

/-- A RELEASE step's command: a rail of a run is left to the off-sequencer; one that the watchdog, XRST_IN# or a fault of
this boundary acts on preempts the step (R18, R102, R108, R121, R148). -/
def applyRelease (i n idx : Nat) (s : State) : State :=
  let r := s.rail i
  if inRun s i then s
  else if s.pwr.xrst || s.flt.wdtHold || (r.st = .faulted && r.rest = 0) then preempt n idx s
  else if r.st = .faulted then cancelRetry i s
  else releaseRail i s

/-- The command record a command to another member becomes (R337). -/
def cmdRecord (s : State) : RailCmd → Option CmdRec
  | .enable g _ _ _ _ => some (.enAssert (g / 96) (g % 96))
  | .retry g => some (.enAssert (g / 96) (g % 96))
  | .resume g => some (.enAssert (g / 96) (g % 96))
  | .release g _ _ => some (.enRelease (g / 96) (g % 96))
  | .stageStart m st v sl _ _ _ => some (.stageStart m st v sl)
  | .stageRetry _ => none
  | .marginGo g =>
    (s.seq.margins.find? fun m => m.rail = g && m.cand.granted).map fun m =>
      .margin (g / 96) (g % 96)
        (put (opOf 0 + 6) 58 6 + put g 48 10 + put (b2n m.pmb) 47 1 + put m.dir 45 2 + put (b2n m.verify) 44 1 +
          put m.mdac 39 4 + (if m.pmb then put m.target 15 16 else put m.target 31 8))
        (if m.verify then put 0x3F 58 6 + put m.vexp 42 16 + put m.tol 32 10 + put m.settle 16 16 else 0)

/-- A command of this part is applied (R44 order 7). -/
def applyRailCmd (c : RailCmd) (s : State) : State :=
  match c with
  | .enable g f n idx _ => applyEnable (g % 96) n idx f s
  | .retry g => applyRetry (g % 96) s
  | .resume g => applyResume (g % 96) s
  | .release g n idx => applyRelease (g % 96) n idx s
  | .stageStart _ st v sl _ o w => startStage st v sl o w s
  | .stageRetry st => retryStage st s
  | .marginGo g => marginGo g s

/-- A command of another member is taken as applied at its boundary; its record has gone out (R125, R337). No STATUS shows
that a stage is regulated or a margin reached: the step that waits for it is told at the application, and the commitment of
a stage lasts COMMIT watch ticks from there (R111, log 77). -/
def remoteDone (c : RailCmd) (s : State) : State :=
  match c with
  | .enable g f _ _ _ => { s with seq := { s.seq with rfig := tset {} s.seq.rfig g f } }
  | .retry g => { s with seq := { s.seq with rcand := s.seq.rcand.filter fun p => p.1 ≠ g } }
  | .stageStart m st _ _ _ o _ =>
    let k := s.stageKey m st
    let n := orDef (s.cf 0x6000 19 12) 1
    marginTell o 1 stOk { s with drt := { s.drt with
      commits := s.drt.commits.map fun x => if x.key = k then { x with left := some n } else x } }
  | .marginGo g =>
    match s.seq.margins.find? fun m => m.rail = g && m.cand.granted && m.phase = .pending with
    | some m =>
      let s := if m.dir = 0 then commitEnd (.margin g) s else s
      marginTell m.owner 1 stOk (marginPut m none s)
    | none => s
  | _ => s

/-- The records of commands decided at this boundary go to their members, and those of the frame before are repeated (R125,
R337). -/
def sendCmds (s : State) : State :=
  if s.role ≠ 1 then s
  else
    let new := s.sca.tx ++ (s.seq.cmds.filter fun c => c.1 = 2 && c.2.member.getD s.index ≠ s.index).filterMap fun c => cmdRecord s c.2
    let old := s.sca.txRep
    each new (fun r => emit (.command false r)) (each old (fun r => emit (.command true r))
      { s with sca := { s.sca with tx := [], txRep := new } })

/-- The rail, margin and stage commands due at order 7 (R44, R110, R125). -/
def applyCmds (s : State) : State :=
  let due := (s.seq.cmds.filter fun c => c.1 = 0).map (·.2)
  let s := { s with seq := { s.seq with cmds := (s.seq.cmds.filter fun c => c.1 ≠ 0).map fun c => (c.1 - 1, c.2) } }
  each due (fun c s => if c.member.getD s.index = s.index then applyRailCmd c s else remoteDone c s) s

/-! ## Aborts (R122) -/

/-- PROG_ABORT of one program at order 6. Answers the status of the abort (R121, R122). -/
def abortProg (n : Nat) (s : State) : Nat × State :=
  let p := s.prog n
  if p.state = 1 then (stOk, progEnd n 2 p.current s)
  else if p.endedNow && p.status = 1 then (stLate, s.modProg n fun p => { p with abortLate := true })
  else (stNotRunning, s)

/-- Every running program is aborted (R122). -/
def abortAll (s : State) : Nat × State :=
  let run := s.running
  if run.isEmpty then
    let late := (List.range 64).filter fun n => (s.prog n).endedNow && (s.prog n).status = 1
    if late.isEmpty then (stNotRunning, s)
    else (stLate, each late (fun n s => s.modProg n fun p => { p with abortLate := true }) s)
  else (stOk, each run (fun n s => (abortProg n s).2) s)

end Sys2Proof.Machine
end

