-- ==== Sys2Proof/Machine/Engine.lean ====
section
/-! DEFINITION. Machine/Engine.lean: the engines' tasks, their declared costs, overruns and skips (R52 to R60), and
the word code (R21 to R32). -/

namespace Sys2Proof.Machine

/-! ## Tasks (R53) -/

/-- Tasks of engine e as (task, period, phase), in priority order (R53). -/
def taskList (e : Nat) : List (Nat × Nat × Nat) :=
  if e = 0 then [(0, 1, 0), (1, 1, 0)]
  else if e = 1 then [(0, 1, 0), (1, 32, 0), (2, 1, 0)]
  else if e = 2 then [(0, 1, 0), (1, 1, 0), (2, 1, 0), (3, 32, 8)]
  else if e = 3 then [(0, 1, 0), (1, 1, 0), (2, 32, 16)]
  else [(0, 1, 0), (1, 32, 24)]

/-- Results that core c can deliver in a frame of phase f (R53 "cfg", R204, R205): its due periodic entries, entries of
sequences and of the other triggers in the user slots left over, its housekeeping and its plausibility conversion. A core
none of whose entries is in use delivers none (log 69). -/
def coreResults (s : State) (c f : Nat) : Nat :=
  let used := (List.range 64).filter fun e => entTrig (s.ent c e) ≠ 0
  let due := (dueEntries (fun e => s.ent c e) f).length
  let pair := s.cb 0x7000 (4 + pairOf c)
  let other := (used.filter fun e => entTrig (s.ent c e) ≠ 1).length
  if used.isEmpty then 0 else min (userSlots pair f).length (due + other) + 1 + b2n pair

/-- Results of one frame in use: the most of any frame (R53). -/
def resultsPerFrame (s : State) : Nat :=
  min 32 ((List.range 32).foldl (fun m f => max m (([0, 1, 2, 3].map fun c => coreResults s c f).foldl (· + ·) 0)) 0)

/-- Declared cost of task t of engine e at n items of work (R53). -/
def declCost (s : State) (e t n : Nat) : Nat :=
  if e = 0 then (if t = 0 then 120 + 170 * n else 60 + 40 * n)
  else if e = 1 then (if t = 0 then 200 else if t = 1 then 500 else 80 + 40 * n)
  else if e = 2 then (if t = 0 then 250 else if t = 1 then 100 + 50 * n else if t = 2 then 200 else 150)
  else if e = 3 then (if t = 0 then 60 + 14 * n else if t = 1 then 40 + 30 * n else 200)
  else
    let st := e - 4
    if t = 0 then 150 + 50 * min 4 (s.sfld st 0 6 4) + (if s.sfld st 0 7 7 = 1 then 40 else 0) + 20 * s.nph st
    else 80 + 25 * s.nph st

/-- The count at which the admission test takes a task's cost (R54). DESIGN CHOICE (log 70): the rules give PER_FRAME 0 to 16;
a larger value counts here as written, while T3.2 posts at most 16 (R240). -/
def largestWork (s : State) (e t : Nat) : Nat :=
  if e = 0 then (if t = 0 then 3 else 4)
  else if e = 1 then 2
  else if e = 2 then 4
  else if e = 3 then (if t = 0 then resultsPerFrame s else s.cf 0x7020 4 0)
  else 0

/-- The tasks of engine e as (period, phase, largest declared cost) (R54). -/
def taskCosts (s : State) (e : Nat) : List (Nat × Nat × Nat) :=
  (taskList e).map fun t => (t.2.1, t.2.2, declCost s e t.1 (largestWork s e t.1))

/-- The sum of the largest declared costs of the tasks released at a phase (R54). -/
def phaseSum (l : List (Nat × Nat × Nat)) (f : Nat) : Nat :=
  (l.map fun t => if f % t.1 = t.2.1 then t.2.2 else 0).foldl (· + ·) 0

/-- The largest sum of an engine and its lowest phase (R54). -/
def worstPhase (s : State) (e : Nat) : Nat × Nat :=
  let l := taskCosts s e
  (List.range 32).foldl (fun m f => let n := phaseSum l f; if m.1 < n then (n, f) else m) (0, 0)

/-- The engine runs tasks: CE0-CE3, and the engine of a used stage (R14). -/
def engUsed (s : State) (e : Nat) : Bool := e < 4 || (e < 8 && s.cb (sbase (e - 4)) 0)

/-- ADMISSION_TEST (R54): the engine and phase that fail, if any. -/
def admission (s : State) : Option (Nat × Nat) :=
  ((List.range 8).filter (engUsed s)).findSome? fun e =>
    let w := worstPhase s e
    if 900 < w.1 then some (e, w.2) else none

/-- Bit of task t of engine e in GLB_OVR_STAT (R60). -/
def ovrBit (e t : Nat) : Nat :=
  (if e = 0 then 0 else if e = 1 then 2 else if e = 2 then 5 else if e = 3 then 9 else 12 + 2 * (e - 4)) + t

/-- The overrun event's source (R474). -/
def ovrEvent (e t : Nat) : Nat := if e < 4 then 0x05 + e else if t = 0 then 0x09 + (e - 4) else 0x0D + (e - 4)

/-- The engines run the firmware's tasks: a generation is active (R451). -/
def State.running! (s : State) : Bool := s.pwr.phase = .run

/-- Task t of engine e is released in this frame and has not run (R52, R53). The stage-class engines run with PD3 powered
(R33, R35). -/
def taskDue (s : State) (e t : Nat) : Bool :=
  s.running! && engUsed s e && (e < 4 || s.pwr.domains.testBit 3) && !(s.eng e).ran.testBit t &&
    (taskList e).any fun x => x.1 = t && s.now % x.2.1 = x.2.2

/-- Every instance of higher priority released in this frame has run (R52). -/
def taskFirst (s : State) (e t : Nat) : Bool := (taskList e).all fun x => t ≤ x.1 || !taskDue s e x.1

/-- The instance can start now: it is released, first in priority, and its engine runs (R27, R52). -/
def taskStarts (s : State) (e t : Nat) : Bool := taskDue s e t && taskFirst s e t && !(s.eng e).halted

/-- An instance is running at the boundary that ends the frame, or is skipped: its work is over (R55, R56, R60). DESIGN CHOICE
(log 71): PEAK_USED becomes 1023 for a halted engine's overruns and for skips too, though not every task cycle was used. -/
def markOver (e t : Nat) (skip : Bool) (s : State) : State :=
  s.modEng e fun x => { x with
    ran := x.ran ||| 2 ^ t, overSet := x.overSet ||| 2 ^ t, skipSet := if skip then x.skipSet ||| 2 ^ t else x.skipSet
    peakPhase := if x.peakUsed < 1023 then s.tickPhase else x.peakPhase, peakUsed := 1023 }

/-- TASK_OVERRUN at the boundary that ends the present frame: the instances behind it are skipped (R55, R56). -/
def taskOverrun (e t : Nat) (s : State) : State :=
  if !taskStarts s e t then s
  else
    let rest := (taskList e).filter fun x => t < x.1 && taskDue s e x.1
    each rest (fun x s => markOver e x.1 true s) (markOver e t false s)

/-- An instance that uses `cyc` cycles at `n` items of work: one that ends within the 900 task cycles of its frame completes and
its effect stands; one that would not is still running at the boundary (R52, R55, R57, R58, R59). -/
def taskRun (e t n cyc : Nat) (f : State → State) (s : State) : State :=
  if !taskStarts s e t then s
  else if 900 < (s.eng e).used + cyc then taskOverrun e t s
  else
    let decl := declCost s e t n
    let s := f s
    let s := s.modEng e fun x => { x with
      ran := x.ran ||| 2 ^ t, used := x.used + cyc, consec := if 4 ≤ e ∧ t = 0 then 0 else x.consec }
    if decl < cyc then
      raise 0x11 (s.tsAt (2 * (100 + (s.eng e).used))) (detE e t cyc decl (s.eng e).consec) s
    else s

/-- At the boundary one instance overran (skip false) or was skipped: counted and raised (R55, R56, R59). -/
def overran (e t : Nat) (skip : Bool) (s : State) : State :=
  let b := BitVec.ofNat 20 (2 ^ ovrBit e t)
  let s := { s with ovrStat := s.ovrStat ||| b, ovrNow := s.ovrNow ||| b }
  let s := s.modEng e fun x => { x with
    ovr := if skip then x.ovr else sat 0xFFFF (x.ovr + 1), skips := if skip then sat 0xFFF (x.skips + 1) else x.skips
    consec := if 4 ≤ e ∧ t = 0 then sat 3 (x.consec + 1) else x.consec }
  let s := if 4 ≤ e ∧ t = 0 then s.modStg (e - 4) fun x => { x with staged := none } else s
  raise (ovrEvent e t) s.tsB (detE e t 1023 (declCost s e t (largestWork s e t)) (s.eng e).consec) s

/-- The boundary's own part of R55 and R56 for every instance of engine e that was marked, once each. -/
def engineOver (e : Nat) (s : State) : State :=
  let x := s.eng e
  if x.overSet = 0 then s
  else
    let s := s.modEng e fun x => { x with overSet := 0, skipSet := 0 }
    each ((taskList e).filter fun p => x.overSet.testBit p.1) (fun p s => overran e p.1 (x.skipSet.testBit p.1) s) s

/-- What became of the tasks of engine e in the frame that ends. A released instance that has not started is skipped (R56).
An engine that halted in the frame: the instance at the access overruns, those behind it are skipped; at every later
boundary each of its tasks counts as overrunning (R27). -/
def taskEnds (e : Nat) (s : State) : State :=
  let x := s.eng e
  let due := (taskList e).filter fun y => taskDue s e y.1
  if x.halted && !x.haltNew then
    (if s.running! && engUsed s e then each (taskList e) (fun y s => markOver e y.1 false s) s else s)
  else match due with
    | [] => s
    | y :: l => each l (fun z s => markOver e z.1 true s) (markOver e y.1 (!x.haltNew) s)

/-- The end of a frame for engine e: the tasks that did not run, and the peak of R60. -/
def engineEnd (e : Nat) (s : State) : State :=
  let s := taskEnds e s
  let ph := s.tickPhase
  s.modEng e fun x => { x with
    peakPhase := if x.clear then 0 else if x.peakUsed < min 1022 x.used then ph else x.peakPhase
    peakUsed := if x.clear then 0 else max x.peakUsed (min 1022 x.used)
    used := 0, ran := 0, clear := false }

/-- OVERRUN_SAFE_OFF at order 7 (R59, R276). -/
def overrunSafe (st : Nat) (s : State) : State := if (s.eng (4 + st)).consec = 3 then stageFault st 8 s else s

/-- ENGINE_HALT (R27). -/
def engineHalt (e : Nat) (s : State) : State :=
  if (s.eng e).halted then s else s.modEng e fun x => { x with halted := true, haltNew := true }

/-- An engine is armed by its first service after a reset (R165). -/
def armEngine (e : Nat) (s : State) : State :=
  if (s.eng e).halted then s else s.modEng e fun x => { x with armed := true, miss := 0 }

/-! ## The word code (R21 to R32) -/

/-- Words of a structure (R21). -/
def structWords (n : Nat) : Nat :=
  if n < 0x10 then 2048 else [32768, 2048, 4096, 4096, 512, 512, 16, 2048, 131072].getD (n - 0x10) 131072

/-- The domain that holds a structure (R21). -/
def structDomain (n : Nat) : Nat :=
  if n < 0x10 then (if n % 8 < 4 then 2 else 3) else [4, 4, 4, 4, 0, 0, 0, 2, 1].getD (n - 0x10) 11

/-- A word of the shared SRAM that no structure of State holds: the mailboxes and the firmware working area (R16). -/
def plainShared (addr : Nat) : Bool := 24576 ≤ addr && addr < 32768

/-- An entry enters the word-code log, or is dropped; one that displaces takes the displaced entry's place (R30, R469). -/
def wcLog (x : WcEntry) (s : State) : State :=
  let l := s.wc.log
  if l.length < 16 then { s with wc := { s.wc with log := l ++ [x] } }
  else
    let s := { s with wc := { s.wc with dropped := sat 0xFFFF (s.wc.dropped + 1) } }
    match x.ue, l.findIdx? (fun y => !y.ue) with
    | true, some i => { s with wc := { s.wc with log := l.set i x } }
    | _, _ => s

/-- CORRECTED_WORD (R25): the count, and the event once per watch tick. -/
def correctedWord (x : WcEntry) (s : State) : State :=
  let s := { s with wc := { s.wc with ce := tmod 0 s.wc.ce x.struct fun c => sat 0xFFFFFFFF (c + 1) } }
  if s.wc.tickRaised.contains x.struct then s
  else raise 0x00 x.ts (detS x.struct x.addr x.bit false x.multi)
    { s with wc := { s.wc with tickRaised := s.wc.tickRaised ++ [x.struct] } }

/-- UNCORRECTABLE_WORD (R26): the count, and the event unless it was raised since the word was last written. -/
def uncorrectableWord (x : WcEntry) (s : State) : State :=
  let k := (x.struct, x.addr)
  let nv := x.struct = 0x18
  let seen := if nv then s.nv.badAt.contains x.addr else s.wc.bad.contains k
  let s := { s with
    wc := { s.wc with
      ue := tmod 0 s.wc.ue x.struct fun c => sat 0xFFFFFFFF (c + 1), bad := if seen || nv then s.wc.bad else s.wc.bad ++ [k] }
    nv := { s.nv with badAt := if seen || !nv then s.nv.badAt else s.nv.badAt ++ [x.addr] } }
  if seen then s else raise 0x01 x.ts (detS x.struct x.addr 0x1FF true x.multi) s

/-- The entry at the lowest address of a list. -/
def lowestErr : List WcEntry → Option WcEntry
  | [] => none
  | r :: l => match lowestErr l with
    | none => some r
    | some x => some (if x.addr < r.addr then x else r)

/-- The errors decoded in the frame that ends (R25, R26, R32): every one counts, each structure logs its lowest address,
with MULTI where there are others, in ascending STRUCT order. -/
def wordsEnd (s : State) : State :=
  let l := s.wc.found
  each (List.range 0x1D) (fun n s =>
    let e := l.filter fun x => x.struct = n
    match lowestErr e with
    | none => s
    | some x =>
      let multi := 1 < e.length
      let s := wcLog { x with multi := multi } s
      each e (fun r s =>
        let r := { r with multi := multi && r = x }
        if r.ue then uncorrectableWord r s else correctedWord r s) s) { s with wc := { s.wc with found := [] } }

/-- The record whose words stand at an address of the recorder buffer: eight words to a record, by RNUM (log 21). -/
def bufRecord (addr : Nat) (im : Img) : Bool := im.rnum % 512 = addr / 8

/-- A recorder record with an uncorrectable word is discarded into the ash count (R27). -/
def recordLost (addr : Nat) (s : State) : State :=
  let k := (s.recd.buf.filter (bufRecord addr)).length
  ashRise k { s with recd := { s.recd with buf := s.recd.buf.filter fun im => !bufRecord addr im } }

/-- The item that a read of the shared SRAM was to deliver is discarded, and its reader receives the error flag (R27). -/
def itemLost (r : Sys2Proof.WordRead) (s : State) : State :=
  let s := s.modEng r.reader fun x => { x with errFlag := true }
  match r.item with
  | .none => s
  | .staged k => if within 8192 20479 r.addr then { s with cnv := { s.cnv with staged := s.cnv.staged.eraseIdx k } } else s
  | .descriptor g => if r.addr < 8192 && g < 8 then s.modRing g fun x => { x with fetched := x.fetched.drop 1 } else s

/-- What an uncorrectable word does to the engine that reads it, by the structure that holds it (R27). -/
def readFails (r : Sys2Proof.WordRead) (s : State) : State :=
  let n := r.struct
  if n < 0x10 then engineHalt (n % 8) s
  else if n = 0x10 then itemLost r s
  else if n = 0x13 then recordLost r.addr s
  else if n = 0x17 then engineHalt r.reader s
  else s.modEng r.reader fun x => { x with errFlag := true }

/-- An engine's read of a word. -/
def engineRead (r : Sys2Proof.WordRead) (s : State) : State :=
  if structWords r.struct ≤ r.addr || 0x18 < r.struct || !s.pwr.domains.testBit (structDomain r.struct) then s
  else
    let x := readWord { frame := s.clk.frame, frac := fracOf r.cyc } r.struct r.addr s
    if x.1 = .uncorrectable then readFails r x.2 else x.2

/-- Bits of stored codewords flip, in the flash as in an SRAM. -/
def upset (x : Nat × Nat × Codeword) (s : State) : State :=
  if structWords x.1 ≤ x.2.1 || 0x18 < x.1 then s
  else if x.1 = 0x18 then
    { s with nv := { s.nv with flash := tset none s.nv.flash x.2.1 (some (s.flashRaw x.2.1 ^^^ x.2.2)) } }
  else { s with wc := { s.wc with err := tmod 0 s.wc.err (wkey x.1 x.2.1) (· ^^^ x.2.2) } }

/-- What the firmware of an engine does with its memories (R14, R16, R28). A halted engine does nothing. -/
def engineAct (x : Sys2Proof.FwAct) (s : State) : State :=
  match x with
  | .store e n a m d =>
    if (s.eng e).halted || !((n < 0x10 && n % 8 = e && a < 2048) || (n = 0x10 && plainShared a)) then s
    else
      let f (s : State) : State := { s with wc := { s.wc with
        ram := tmod 0 s.wc.ram (wkey n a) fun w => (w &&& ~~~m) ||| (d &&& m) } }
      if m = BitVec.allOnes 256 then f (wcWritten n a s) else partWrite s.tsB e n a f s
  | .sem e n b =>
    if (s.eng e).halted || 64 ≤ n then s
    else s.modEng e fun x => { x with sems := if b then x.sems ||| BitVec.ofNat 64 (2 ^ n) else x.sems &&& ~~~(BitVec.ofNat 64 (2 ^ n)) }
  | .bell e k b =>
    if (s.eng e).halted || 8 ≤ k || k = e then s
    else s.modEng e fun x => { x with bells := if b then x.bells ||| BitVec.ofNat 8 (2 ^ k) else x.bells &&& ~~~(BitVec.ofNat 8 (2 ^ k)) }

/-- PATROL_SCRUB of one structure in a frame (R29): a corrected word is written back; an uncorrectable on-table word is
repaired from the mirror, an uncorrectable off-table word from the other copy, where that reads clean or corrected; a
recorder record with an uncorrectable word is discarded (R27). -/
def scrubWord (ts : Ts) (n : Nat) (s : State) : State :=
  let a := s.wc.scrub % structWords n
  let x := readWord ts n a s
  if x.1 ≠ .uncorrectable then x.2
  else if n = 0x11 then (if x.2.wordOk 0x10 (mirrorBase + a) then wcWritten n a (fromMirror a x.2) else x.2)
  else if n = 0x14 then (if x.2.wordOk 0x15 a then wcWritten n a x.2 else x.2)
  else if n = 0x15 then (if x.2.wordOk 0x14 a then wcWritten n a x.2 else x.2)
  else if n = 0x13 then recordLost a x.2
  else x.2

/-- PATROL_SCRUB: one word of each writable SRAM structure that is powered (R29). -/
def scrubStep (cyc : Nat) (s : State) : State :=
  let ts : Ts := { frame := s.clk.frame, frac := fracOf cyc }
  let s := each ((List.range 0x17).filter fun n => s.pwr.domains.testBit (structDomain n)) (scrubWord ts) s
  { s with wc := { s.wc with scrub := s.wc.scrub + 1 } }

/-- The word code in the frame that ends (R14, R21 to R32): upsets, the engines' reads and writes, the scrubber, the
log. -/
def wordFrame (b : Sys2Proof.BoundaryIn) (s : State) : State :=
  let s := each b.reads engineRead (each b.upsets upset s)
  wordsEnd (scrubStep b.scrubCyc (each b.acts engineAct s))

/-! ## Commands of this chapter -/

def execTaskOverrun (engine task : Nat) (s : State) := Next (if engine < 8 then taskOverrun engine task s else s)
def execOverrunSafeOff (stage : Nat) (s : State) := 
  Next (if stage < 4 then overrunSafe stage (s.modEng (4 + stage) fun x => { x with consec := 3 }) else s)

end Sys2Proof.Machine
end

