-- ==== Sys2Proof/Machine/Damper.lean ====
section
/-! DEFINITION. Machine/Damper.lean: the PMBus service (R87, R88, R136), the damper (R184 to R188), rectifier
sharing (R189, R190), input loss and the shed threshold (R191 to R194). -/

namespace Sys2Proof.Machine

/-! ## Damper levels (R185, R186) -/

/-- DMP_LVLn_LO in force. -/
def lvlLo (s : State) (n : Nat) : W32 := s.cw (0x6110 + 8 * (n - 1))
def lvlHi (s : State) (n : Nat) : W32 := s.cw (0x6114 + 8 * (n - 1))

/-- Level 0 may stand: there is no cap, or the cap exceeds the level-1 PRED by HYST (R186). -/
def levelZeroOk (s : State) (cap : Nat) : Bool :=
  cap = 0 || fld (lvlLo s 1) 15 0 + s.cf 0x6100 29 18 ≤ cap

/-- The lowest level whose PRED is at most the cap (R186); none where none qualifies. -/
def lowestLevel (s : State) (cap : Nat) : Option Nat :=
  if levelZeroOk s cap then some 0 else [1, 2, 3, 4, 5, 6, 7].find? fun n => fld (lvlLo s n) 15 0 ≤ cap

/-- Stage s's percentage at level n (R185, R201). -/
def stageCapPct (s : State) (n st : Nat) : Nat :=
  if n = 0 then 100 else orDef (nbits (lvlHi s n).toNat (8 * st + 7) (8 * st)) 100

/-- The limit word of POL binding k at level n: exponent of NOM kept, mantissa scaled (R188). -/
def polWord (s : State) (n k : Nat) : Nat :=
  let nom := s.cf (0x6154 + 8 * k) 15 0
  let pct := if n = 0 then 100 else fld (lvlLo s n) 26 20
  put (nbits nom 15 11) 11 5 + toBits 11 (rdiv (lin11Man nom * pct) 100)

/-- The write of POL binding k at level n (R188). -/
def polJob (s : State) (n k : Nat) : Nat × PmbJob :=
  let w := s.cw (0x6150 + 8 * k)
  (fld w 1 0, { use := .pol k, addr := fld w 8 2, pec := bit w 25
                ops := pageOp (fld w 16 9) ++ [.writeWord (fld w 24 17) (polWord s n k)] })

/-- A queue without POL writes not yet sent; one on the bus ends as it stands (R188). -/
def dropPol (q : List PmbJob) : List PmbJob :=
  q.filterMap fun j =>
    match j.use with
    | .pol _ => if j.sent then some { j with use := .none, ops := j.ops.take 1 } else none
    | _ => some j

/-- POL_LIMIT_WRITE: the writes of a level replace those not yet sent (R188). -/
def polWrites (n : Nat) (s : State) : State :=
  let l := (List.range 32).filter fun k => s.cb (0x6150 + 8 * k) 26
  let s := { s with dmp := { s.dmp with polPend := l }, pmb := [0, 1, 2, 3].foldl (fun t m => tmod [] t m dropPol) s.pmb }
  each l (fun k s => pmbPush (polJob s n k).1 (polJob s n k).2 s) s

/-- The damper level chosen by T2.1 is applied at order 7 (R186); a new cap's window opens (R187). -/
def applyLevel (s : State) : State :=
  match s.dmp.staged with
  | none => s
  | some n =>
    let s := { s with dmp := { s.dmp with
      staged := none, capNew := false
      judge := if s.dmp.capNew then (if s.dmp.lastCap = 0 then none else some 32) else s.dmp.judge } }
    if s.dmp.level = n then s
    else
      let s := { s with dmp := { s.dmp with level := n, throttle := if n = 0 then 0 else fld (lvlLo s n) 19 16 } }
      let s := each [0, 1, 2, 3] (fun st s => s.modStg st fun x => { x with capPct := stageCapPct s n st }) s
      polWrites n s

/-- THROTTLE# ball n: high impedance, or driven and asserted or not (R34, R185, R453). -/
def State.throttleBall (s : State) (n : Nat) : Option Bool :=
  if s.pwr.phase = .run then some (s.dmp.throttle.testBit n) else none

/-- SYSRST# ball: high impedance, or driven and asserted or not (R34, R153, R453). -/
def State.sysrstBall (s : State) : Option Bool := if s.pwr.phase = .run then some s.flt.sysrst else none

/-- Level T2.1 works from: the one it chose last, or the one applied. -/
def State.dmpLevel (s : State) : Nat := s.dmp.staged.getD s.dmp.level

/-- Sum of tray power over the newest n frames. -/
def powerSum (s : State) (n : Nat) : Nat := (s.drt.pHist.take n).foldl (· + ·) 0

/-- DAMPER_CAP_CHANGE (R186). -/
def capChange (s : State) : State :=
  if s.dmp.capAt = s.dmp.lastCap then s
  else
    let c := s.dmp.capAt
    let s := { s with dmp := { s.dmp with lastCap := c, capNew := true, above := 0, below := 0, tickBelow := true } }
    if !s.cb 0x6100 0 then { s with dmp := { s.dmp with staged := some 0 } }
    else match lowestLevel s c with
      | some n => { s with dmp := { s.dmp with staged := some n } }
      | none => raiseSev 0x45 2 s.tsB (detNow s 0) { s with dmp := { s.dmp with staged := some 7, unreach := true, setNow := s.dmp.setNow ||| 2 } }

/-- The level rises by one (R186). -/
def levelUp (s : State) : State :=
  if s.dmpLevel < 7 then { s with dmp := { s.dmp with above := 0, staged := some (s.dmpLevel + 1) } } else s

/-- The level may fall by one: it is above 1, or level 0 may stand (R186). -/
def mayFall (s : State) : Bool := 0 < s.dmpLevel && (1 < s.dmpLevel || levelZeroOk s s.dmp.lastCap)

/-- The level falls by one (R186). -/
def levelDown (s : State) : State :=
  if mayFall s then { s with dmp := { s.dmp with below := 0, staged := some (s.dmpLevel - 1) } } else s

/-- DAMPER_RAISE: the 4-frame mean has exceeded the cap for RAISE frames (R186). -/
def capRaise (s : State) : State :=
  let n := min 4 s.drt.pHist.length
  let ex := s.dmp.lastCap ≠ 0 && s.dmp.lastCap * n < powerSum s 4
  let k := if ex then s.dmp.above + 1 else 0
  if orDef (s.cf 0x6100 9 2) 1 ≤ k && s.dmpLevel < 7 then levelUp s
  else { s with dmp := { s.dmp with above := sat 255 k } }

/-- DAMPER_RELAX: the 32-frame mean has stayed below the cap less HYST for RELAX watch ticks (R186). -/
def capRelax (s : State) : State :=
  let n := s.drt.pHist.length
  let lim : Int := s.dmp.lastCap - s.cf 0x6100 29 18
  let low := s.dmp.tickBelow && s.dmp.lastCap ≠ 0 && n ≠ 0 && decide (((powerSum s 32 : Nat) : Int) < lim * n)
  if s.tickPhase ≠ 31 then { s with dmp := { s.dmp with tickBelow := low } }
  else
    let k := if low then s.dmp.below + 1 else 0
    let s := { s with dmp := { s.dmp with tickBelow := true } }
    if orDef (s.cf 0x6100 17 10) 1 ≤ k && mayFall s then levelDown s
    else { s with dmp := { s.dmp with below := sat 255 k } }

/-- DAMPER_JUDGEMENT at a boundary: the window of a new cap has ended (R187). -/
def judgeCap (s : State) : State :=
  if s.dmp.judge = some 0 then
    let s := { s with dmp := { s.dmp with judge := none } }
    if s.dmp.lastCap * min 32 s.drt.pHist.length < powerSum s 32 then
      finishAll (fun w => w = .cap) stDamper 0 (raise 0x44 s.tsB (detNow s 0) { s with dmp := { s.dmp with miss := true, setNow := s.dmp.setNow ||| 1 } })
    else finishAll (fun w => w = .cap) stOk 0 s
  else s

/-- The judgement of a cap, ahead of the commands of a boundary (R187). -/
def judgeStep (s : State) : State := judgeCap { s with dmp := { s.dmp with judge := s.dmp.judge.map (· - 1) } }

/-- Behind order 7: a CAP_SET that leaves the cap in force as it was, or without a cap, has nothing to be judged and is
final (log 27). -/
def capDone (s : State) : State :=
  if s.dmp.judge.isNone && !s.dmp.capNew && s.dmp.capAt = s.dmp.lastCap then finishAll (fun w => w = .cap) stOk 0 s else s

/-- TRAY_P and the cap T2.1 reads, behind the commands of a boundary (R46, R201). -/
def damperBoundary (s : State) : State :=
  { s with dmp := { s.dmp with
    trayP := sat 0xFFFF (cdiv (powerSum s 32) (max 1 s.drt.pHist.length)), capAt := (activeCap s).getD 0 } }

/-! ## The shed threshold (R193) -/

/-- Shed class of each local rail, from the off-table's entries up to its END (R112). -/
def classWalk : Nat → Nat → Tbl Nat → List (Nat × Nat)
  | _, _, [] => []
  | i, c, (j, w) :: t =>
    if j ≠ i then []
    else if opOf w = 0x22 then classWalk (i + 1) (nbits w 57 55) t
    else if opOf w = 0x21 then (nbits w 57 51, c) :: classWalk (i + 1) c t
    else if opOf w = 0x23 then classWalk (i + 1) c t
    else []

/-- P_k in 100 mW (R193). -/
def classPower (s : State) (cls : List (Nat × Nat)) (k : Nat) : Nat :=
  let l := cls.filter fun p => k ≤ p.2 && (s.rail p.1).st.live
  s.cf 0x6410 31 16 + (l.map fun p => (s.rail p.1).fig.steady).foldl (· + ·) 0

/-- Σ P_k × T_k + P_0 × 3 frames, in 100 mW frames (R193). -/
def shedEnergy (s : State) : Nat :=
  let cls := classWalk 0 0 s.off.table
  let p0 := max (classPower s cls 0) s.drt.pMeas
  let t := fun k => s.cf (0x6420 + 4 * k) 15 0
  ((List.range 8).map fun k => (if k = 0 then p0 else classPower s cls k) * t k).foldl (· + ·) 0 + 3 * p0

/-- EFF in % (R203). -/
def shedEff (s : State) : Nat := max 50 (min 100 (s.cf 0x640C 22 16))

/-- V_SHED in 0.1 V, CBUS above 0 (R193). -/
def shedVolt (s : State) (e : Nat) : Nat :=
  let vmin := s.cf 0x6404 11 0
  let n := (400 * e + 20000 * s.cf 0x6410 15 0 * shedEff s)
  let d := shedEff s * s.cf 0x640C 15 0
  sat 0xFFF (max (s.cf 0x6404 23 12) (isqrtUp (vmin * vmin + cdiv n d)))

/-- The lowest code whose engineering value reaches `mv` on the bus channel (R193, R236); 0xFFF where none does. -/
def shedCode (s : State) (mv : Nat) : Nat :=
  let ch := entChan (s.ent (s.cf 0x6400 1 0) (s.cf 0x6400 7 2))
  ((List.range 4096).find? fun c => (mv : Int) ≤ s.engOf ch c).getD 0xFFF

/-- CE2 forms E_NEED and V_SHED and writes the shed comparator (R193, R234). With CBUS 0 the rule states no
V_SHED: it is a free value (log 2). -/
def shedTask (s : State) : State :=
  let e := shedEnergy s
  let eff := shedEff s
  let need := sat 0xFFFF (cdiv (10 * e + 500 * eff * s.cf 0x6410 15 0) (5000 * eff))
  let r := if s.cf 0x640C 15 0 = 0 then
      let d := s.drawFree 12
      (max (s.cf 0x6404 23 12) d.1.toNat, d.2)
    else (shedVolt s e, s)
  let s := r.2
  let s := { s with inl := { s.inl with shedV := r.1, eNeed := need } }
  if s.busUsed then { s with inl := { s.inl with armed := true, code := shedCode s (100 * r.1) } } else s

/-- DAMPER_TASK: T2.1 (R186, R193). -/
def damperTask (s : State) : State :=
    let s := if s.dmp.capAt ≠ s.dmp.lastCap then capChange s
      else if s.cb 0x6100 0 then capRelax (capRaise s)
      else if s.dmpLevel = 0 then s else { s with dmp := { s.dmp with staged := some 0 } }
    shedTask s

/-! ## Input loss and restore (R191 to R194) -/

/-- INPUT_LOSS_DECLARED (R191). -/
def declareLoss (rects : Bool) (s : State) : State :=
  if s.inl.loss then s
  else raise 0x49 s.tsB (detNow s 0)
    { s with inl := { s.inl with loss := true, fromRects := rects, lowRun := 0, restRun := 0, found := false } }

/-- Every rectifier that was online as the round began has shown input fault in it (R191). -/
def rectsLost (s : State) : Bool :=
  let l := rectList.filter fun n => (s.rect n).onAt
  !l.isEmpty && l.all fun n => (s.rect n).inFault

/-- INPUT_RESTORED (R191). -/
def restoreInput (s : State) : State :=
  if !s.inl.loss then s
  else
    let s := raise 0x4B s.tsB (detNow s 0) s
    let ran := s.inl.shed
    let s := { s with inl := { s.inl with loss := false, fromRects := false, found := false, restRun := 0, shed := false, owed := false } }
    if ran && s.cb 0x6408 20 then onRequestNow (jInternal 0x85 2 0 0 false s) else s

/-- A watch tick counts for the restore (R191): none where it says nothing. -/
def tickRestores (s : State) : Option Bool :=
  if s.busUsed then (if !s.inl.tickSeen then none else some (!s.inl.tickLow))
  else some (rectList.any s.rectOn)

/-- The bus of the frame just ended: the run below LOSS, and the tick's results against RESTORE (R191). -/
def busFrame (s : State) : State :=
  match s.engNow (s.cf 0x6400 1 0) (s.cf 0x6400 7 2) with
  | none => s
  | some v =>
    { s with inl := { s.inl with
      lowRun := if v < 100 * (s.cf 0x6400 19 8 : Int) then sat 2 (s.inl.lowRun + 1) else 0
      tickSeen := true, tickLow := s.inl.tickLow || decide (v < 100 * (s.cf 0x6408 11 0 : Int)) } }

/-- The tick's judgement of the restore (R191). -/
def restoreTick (s : State) : State :=
  if !s.tickStart then s
  else
    let r := match tickRestores s with
      | none => s.inl.restRun
      | some true => s.inl.restRun + 1
      | some false => 0
    let s := { s with inl := { s.inl with restRun := if s.inl.loss then r else 0, tickSeen := false, tickLow := false } }
    if s.inl.loss && orDef (s.cf 0x6408 19 12) 1 ≤ r then restoreInput s else s

/-- Input loss at a boundary, ahead of what reads it (R191). -/
def inputStep (s : State) : State :=
  let s := if s.busUsed then busFrame s else s
  let s := if !s.busUsed then s else if s.inl.lowRun = 2 then declareLoss false s else s
  let s := if s.inl.found then declareLoss true s else s
  restoreTick s

/-- The input-loss off request at order 3: a full run with RUN_SRC 2, for the whole stack, and its event (R96, R127, R191 to
R194, R199). -/
def inputLossOff (s : State) : State :=
  if s.seq.domain = .off && !s.off.run then s
  else
    let s := raise 0x4A s.tsB (detNow s 0) s
    offRelay true 0 false (offRequest 2 true 0 { s with inl := { s.inl with shed := true } })

/-- The run of frames below the shed code; its second frame makes the request, once (R193, R234). -/
def shedFrame (s : State) : State :=
  let e := s.entry (s.cf 0x6400 1 0) (s.cf 0x6400 7 2)
  if !(s.busUsed && s.shedArmed && e.res.valid && e.res.ts.frame = s.clk.last) then
    { s with inl := { s.inl with run := if s.shedArmed then s.inl.run else 0 } }
  else if !s.inl.below then { s with inl := { s.inl with run := 0, tripped := false } }
  else
    let n := sat 2 (s.inl.run + 1)
    { s with inl := { s.inl with run := n, trip := n = 2 && !s.inl.tripped, tripped := s.inl.tripped || n = 2 } }

/-- SHED_COMPARATOR_TRIP at order 3; nothing is shed while input loss is declared and the shelf is ready (R192,
R193). -/
def shedTrip (s : State) : State :=
  if !s.inl.trip then s
  else
    let s := { s with inl := { s.inl with trip := false } }
    if s.inl.loss && s.inl.ready then s else inputLossOff s

/-! ## The battery shelf (R192) -/

/-- The shelf is ready. -/
def battReady (s : State) : Bool :=
  let w := s.cw 0x6440
  let v := s.cw 0x6444
  bit w 26 && s.inl.seen && (s.inl.status &&& fld v 7 0) = fld v 15 8 && fld v 31 24 ≤ s.inl.runtime &&
    s.inl.age ≤ 2 * orDef (fld w 31 27) 1

/-- READY follows its terms; during input loss its end owes the off request (R192). -/
def battJudge (s : State) : State :=
  let was := s.inl.ready
  let now := battReady s
  let s := { s with inl := { s.inl with ready := now } }
  if was && !now && s.inl.loss then raise 0x48 s.tsB (detNow s 0) { s with inl := { s.inl with owed := true } } else s

/-- BATTERY_NOT_READY_OFF at order 3 of the next boundary (R192). -/
def battOff (s : State) : State :=
  if s.inl.owed then
    let s := { s with inl := { s.inl with owed := false } }
    if s.inl.loss then inputLossOff s else s
  else s

/-- BATTERY_POLL: the reads are queued when they are due (R192). -/
def battPoll (s : State) : State :=
  let w := s.cw 0x6440
  if bit w 26 && s.inl.next = 0 then
    let s := { s with inl := { s.inl with next := orDef (fld w 31 27) 1 } }
    pmbPush (fld w 1 0) { use := .battery, addr := fld w 8 2, pec := bit w 25
                          ops := pageOp (fld w 16 9) ++ [.readByte (fld w 24 17), .readWord (s.cf 0x6444 23 16)] } s
  else s

/-- A watch tick of the shelf. -/
def battTick (s : State) : State :=
  battPoll (battJudge { s with inl := { s.inl with age := sat 255 (s.inl.age + 1), next := s.inl.next - 1 } })

/-! ## Watchers (R136) -/

/-- PMBUS_WATCHER_POLL: the read is queued when it is due; STALE is judged (R136). -/
def watchPoll (n : Nat) (s : State) : State :=
  let w := s.cw (0x4300 + 8 * n)
  let p := fld w 30 25
  if p = 0 then s
  else
    let s := s.modWatch n fun x => { x with stale := x.stale || decide (2 * p ≤ x.age) }
    if (s.watch n).next = 0 then
      pmbPush (fld w 1 0) { use := .watcher n, addr := fld w 8 2, pec := bit w 31
                            ops := pageOp (fld w 16 9) ++ [.readByte (fld w 24 17)] }
        (s.modWatch n fun x => { x with next := p })
    else s

/-- A watch tick of watcher n. -/
def watchTick (n : Nat) (s : State) : State :=
  if s.cf (0x4300 + 8 * n) 30 25 = 0 then s
  else watchPoll n (s.modWatch n fun x => { x with age := sat 127 (x.age + 1), next := x.next - 1 })

/-! ## Rectifiers (R189, R190) -/

/-- RECTIFIER_OFFLINE (R190). -/
def rectOff (n : Nat) (s : State) : State :=
  if (s.rect n).online then raise 0x47 s.tsB (detNow s n) (s.modRect n fun r => { r with online := false, staged := none }) else s

/-- The reads of rectifier n in a round (R176, R189). -/
def rectJob (s : State) (n : Nat) (use : PmbUse) (ops : List PmbOp) : Nat × PmbJob :=
  let w := s.cw (0x6310 + 8 * n)
  (fld w 1 0, { use := use, addr := fld w 8 2, pec := bit w 17, ops := pageOp (fld w 16 9) ++ ops })

/-- A read of rectifier n succeeded with STATUS_WORD, READ_IOUT and READ_PIN (R190). -/
def rectRead (n st iout pin : Nat) (s : State) : State :=
  let bad := st.testBit 6 || st.testBit 13
  let s := s.modRect n fun r => { r with
    fails := 0, status := st, iout := iout, pin := pin, inFault := r.inFault || st.testBit 13 }
  let s := if bad then rectOff n s
    else s.modRect n fun r => if r.online then r else { r with online := true, trim := 0, staged := none, bad := 0 }
  if rectsLost s then { s with inl := { s.inl with found := true } } else s

/-- A read of rectifier n failed (R190). -/
def rectFail (n : Nat) (s : State) : State :=
  let s := s.modRect n fun r => { r with fails := sat 3 (r.fails + 1) }
  if 3 ≤ (s.rect n).fails then rectOff n s else s

/-- A used rectifier's current in A / 65536. -/
def rectAmps (s : State) (n : Nat) : Int := lin11 (s.rect n).iout 65536

/-- The load is at least 20 % of the mean rating and moved by less than 10 % since the last round (R189). The
ratings are powers, so the current is taken at the bus voltage where that is known (log 20). -/
def sharingHolds (s : State) (l : List Nat) (sum : Int) : Bool :=
  let rating : Int := (l.foldl (fun a n => a + s.cf (0x6314 + 8 * n) 15 0) 0 : Nat)
  let e := s.entry (s.cf 0x6400 1 0) (s.cf 0x6400 7 2)
  let v := s.engRes (s.cf 0x6400 1 0) (s.cf 0x6400 7 2) e.seen
  let load := !(s.busUsed && e.seen.valid) || decide (rating * 100 * 65536 ≤ 5 * sum * v)
  let d := if sum < s.shr.lastSum then s.shr.lastSum - sum else sum - s.shr.lastSum
  load && decide (10 * d < s.shr.lastSum)

/-- The trim of rectifier n after a round (R189). -/
def newTrim (s : State) (n count : Nat) (sum : Int) : Int :=
  let e := count * rectAmps s n - sum
  let m : Int := s.cf 0x6300 28 17
  clampI (-m) m ((s.rect n).trim - rdiv (s.cf 0x6300 16 9 * e) (16 * count * 65536))

/-- One rectifier at the end of a round; its trim is staged for the boundary (R58, R189). -/
def rectRound (holds : Bool) (count : Nat) (sum : Int) (n : Nat) (s : State) : State :=
  let d := count * rectAmps s n - sum
  let wide := decide (3 * sum < 100 * (if d < 0 then -d else d))
  let s := s.modRect n fun r => { r with bad := if wide then sat 9 (r.bad + 1) else 0 }
  let s := if (s.rect n).bad = 8 then raise 0x46 s.tsB (detNow s n) s else s
  if !holds then s
  else
    s.modRect n fun r => { r with staged := some (newTrim s n count sum) }

/-- A staged trim comes into force at order 7 and its VOUT_TRIM is queued; none is written during input loss (R58, R189,
R190). -/
def applyTrim (n : Nat) (s : State) : State :=
  match (s.rect n).staged with
  | none => s
  | some t =>
    let s := s.modRect n fun r => { r with trim := t, staged := none }
    if s.inl.loss || !(s.rect n).linear then s
    else
      let j := rectJob s n (.trim n) [.writeWord 0x22 (linVout t (sext 5 (s.rect n).voutExp))]
      pmbPush j.1 j.2 s

/-- The reads of a new round (R189). -/
def startRound (s : State) : State :=
  let s := { s with shr := { s.shr with left := orDef (s.cf 0x6300 8 1) 1 } }
  each (rectList.filter fun n => s.cb (0x6310 + 8 * n) 18) (fun n s =>
    let s := s.modRect n fun r => { r with inFault := false, onAt := r.online }
    let j := rectJob s n (.rect n) [.readWord 0x79, .readWord 0x8C, .readWord 0x97]
    pmbPush j.1 j.2 s) s

/-- SHARING_ROUND: T2.4 (R189). A round without current states no SPREAD: a free value (log 2). -/
def sharingTask (s : State) : State :=
  if !s.cb 0x6300 0 || s.shr.left ≠ 0 then s
  else
    let l := rectList.filter s.rectOn
    let sum := (l.map (rectAmps s)).foldl (· + ·) 0
    let worst := (l.map fun n => (l.length * rectAmps s n - sum).natAbs).foldl max 0
    let s := if sum ≤ 0 then
        let d := s.drawFree 16
        { d.2 with shr := { d.2.shr with spread := d.1.toNat } }
      else { s with shr := { s.shr with spread := sat 0xFFFF (1000 * worst / sum.toNat) } }
    let holds := sharingHolds s l sum
    let s := each l (rectRound holds l.length sum) s
    startRound { s with shr := { s.shr with lastSum := sum } }

/-! ## PMBus transactions (R87, R88, R188) -/

/-- VOUT_MODE is linear (R88). -/
def linearMode (v : Nat) : Bool := nbits v 7 5 = 0

/-- The PMBus-binding event. -/
def bindEvent (grail k : Nat) (fail : Bool) (s : State) : State := raise 0x32 s.tsB (detM grail 0 true 0 0 fail k) s

/-- A POL write is acknowledged or has failed its attempts (R188). -/
def polDone (k : Nat) (ok : Bool) (s : State) : State :=
  let s := { s with dmp := { s.dmp with polPend := s.dmp.polPend.filter (· ≠ k) } }
  if ok then s else bindEvent 0x3FF k true s

/-- The battery shelf was read (R192). -/
def battRead (st run : Nat) (s : State) : State :=
  battJudge { s with inl := { s.inl with
    status := st % 256, runtime := sat 0xFFFF (lin11 run 1).toNat, seen := true, age := 0 } }

/-- A job has made its transactions, or one failed its three attempts. -/
def pmbEnd (j : PmbJob) (ok : Bool) (s : State) : State :=
  let a := j.got.getD 0 0
  let b := j.got.getD 1 0
  let c := j.got.getD 2 0
  match j.use with
  | .none => s
  | .margin i => marginBusDone i ok s
  | .marginReturn i => s.modRail i fun r => { r with marginHold := false }
  | .voutMode i =>
    let good := ok && linearMode a
    let s := s.modRail i fun r => { r with bindOk := good, voutExp := if good then a % 32 else 0 }
    if good then s else bindEvent (s.grail i) 0 (!ok) s
  | .rectMode n =>
    let good := ok && linearMode a
    let s := s.modRect n fun r => { r with linear := good, voutExp := if good then a % 32 else 0 }
    if good then s else bindEvent 0x3FF n (!ok) s
  | .watcher n =>
    if ok then s.modWatch n fun x => { x with value := a % 256, valid := true, stale := false, age := 0 } else s
  | .step n => itemDone n (if ok then 1 else 4) s
  | .pol k => polDone k ok s
  | .rect n => if ok then rectRead n a b c s else rectFail n s
  | .trim _ => s
  | .battery => if ok then battRead a b s else s

/-- The transaction in front has been answered with an acknowledgement: what it read, and what is left of the job. -/
def opAcked (op : PmbOp) (ans : PmbAns) : Option (List Nat × List PmbOp) :=
  match op, ans with
  | .readByte _, .data v => some ([v % 256], [])
  | .readWord _, .data v => some ([v % 65536], [])
  | .operation c none, .data v => some ([], [.operation c (some (v % 256))])
  | .readByte _, _ => none
  | .readWord _, _ => none
  | .operation _ none, _ => none
  | _, .nack => none
  | _, _ => some ([], [])

/-- PMBUS_TRANSACTION_DONE on master m (R87): the transaction in front is acknowledged, or is attempted up to three
times in all. -/
def pmbDone (m : Nat) (ans : PmbAns) (s : State) : State :=
  match tget [] s.pmb m with
  | [] => s
  | j :: q =>
    if !j.sent then s
    else match j.ops with
      | [] => pmbEnd j true { s with pmb := tset [] s.pmb m q }
      | op :: t =>
        match opAcked op ans with
        | some (v, l) =>
          let j := { j with ops := l ++ t, got := j.got ++ v, tries := 0, sent := false }
          if j.ops.isEmpty then pmbEnd j true { s with pmb := tset [] s.pmb m q }
          else { s with pmb := tset [] s.pmb m (j :: q) }
        | none =>
          if j.tries < 2 then { s with pmb := tset [] s.pmb m ({ j with tries := j.tries + 1, sent := false } :: q) }
          else pmbEnd j false { s with pmb := tset [] s.pmb m q }

/-- PMBUS_SERVICE: T2.2 puts the next transaction of each master on its bus (R53, R87). -/
def pmbService (s : State) : State :=
  each [0, 1, 2, 3] (fun m s =>
    match tget [] s.pmb m with
    | j :: q =>
      (match j.ops with
      | op :: _ =>
        if j.sent then s
        else emit (.pmbus m j.addr j.pec op) { s with pmb := tset [] s.pmb m ({ j with sent := true } :: q) }
      | [] => s)
    | [] => s) s

/-- VOUT_MODE_READ: the reads of an activating boundary (R88). -/
def voutModes (s : State) : State :=
  let s := each (railList.filter fun i => s.cb (rbase i + 8) 0 && rcUsed (s.rcfg i)) (fun i s =>
    let j := rpmbJob s i (.voutMode i) [.readByte 0x20]
    pmbPush j.1 j.2 s) s
  each (rectList.filter fun n => s.cb (0x6310 + 8 * n) 18) (fun n s =>
    let j := rectJob s n (.rectMode n) [.readByte 0x20]
    pmbPush j.1 j.2 s) s

/-! ## Commands of this chapter

A row that names the end of a count or a level seen for some time is that end itself: what counts towards it is taken
as complete, and the state it needs must hold (log 3). -/

def execPmbusTransactionDone (master : Nat) (ans : PmbAns) (s : State) := Next (pmbDone master ans s)
/-- SCL low for 25 ms: the transaction counts as one failed attempt (R493). -/
def execPmbusSclTimeout (master : Nat) (s : State) := Next (pmbDone master .nack s)
def execPmbusWatcherPoll (n : Nat) (s : State) :=
  Next (if n < 32 then watchPoll n (s.modWatch n fun x => { x with next := 0 }) else s)
/-- Masters with a transaction to put on their bus (R53). -/
def busyMasters (s : State) : Nat :=
  ([0, 1, 2, 3].filter fun m => match tget [] s.pmb m with | j :: _ => !j.sent | [] => false).length
def execPmbusService (cyc : Nat) (s : State) := Next (taskRun 2 1 (busyMasters s) cyc pmbService s)
def execInputLossDeclared (s : State) := Next (declareLoss (!s.busUsed) s)
def execInputRestored (s : State) := Next (restoreInput s)
def execShedComparatorTrip (s : State) :=
  Next (shedTrip { s with inl := { s.inl with trip := true, tripped := true, run := 2 } })
def execBatteryPoll (s : State) := Next (battPoll { s with inl := { s.inl with next := 0 } })
def execBatteryNotReadyOff (s : State) :=
  Next (battOff { s with inl := { s.inl with ready := false, owed := s.inl.loss } })
def execDamperTask (cyc : Nat) (s : State) := Next (taskRun 2 0 0 cyc damperTask s)
def execDamperCapChange (cyc : Nat) (s : State) := Next (taskRun 2 0 0 cyc capChange s)
def execDamperRaise (cyc : Nat) (s : State) := Next (taskRun 2 0 0 cyc levelUp s)
def execDamperRelax (cyc : Nat) (s : State) := Next (taskRun 2 0 0 cyc levelDown s)
def execDamperJudgement (s : State) :=
  Next (judgeCap { s with dmp := { s.dmp with judge := s.dmp.judge.map fun _ => 0 } })
def execSharingRound (cyc : Nat) (s : State) :=
  Next (taskRun 2 3 0 cyc sharingTask { s with shr := { s.shr with left := 0 } })

end Sys2Proof.Machine
end

