-- ==== Sys2Proof/Machine/RailCmds.lean ====
section
/-! DEFINITION. Machine/RailCmds.lean: the commands of the rail pins (chapter 3). A row that names something seen for
a time, or a count that has run out, is that happening: the count is taken as complete, and the state it needs must
hold (log 3). Faults found are acted on as at order 3 of a boundary. -/

namespace Sys2Proof.Machine

/-- Acts on a rail of the part only. -/
def onRail (i : Nat) (f : State → State) (s : State) : State := if i < 96 then f s else s

/-- VIO_OK_RISE (R62): a powered bank whose supply has been good for 128 frames. -/
def vioRiseNow (b : Nat) (s : State) : State :=
  if b < 2 && (s.bank b).powered && !(s.bank b).vioOk then
    vioRise b (s.modBank b fun k => { k with vioCnt := 128 })
  else s

/-- VIO_OK_FALL (R62), with PG lost on the live rails acted on. -/
def vioFallNow (b : Nat) (s : State) : State :=
  if b < 2 && (s.bank b).vioOk then reactNow (vioFall b s) else s

/-- PG_DEBOUNCED_GOOD (R70, R73): the debounced PG becomes good. -/
def pgGood (i : Nat) (s : State) : State :=
  if (s.rail i).st = .unused || !s.vioOk i then s
  else
    let s := s.modRail i fun r => { r with raw := true, db := true, dbCnt := 0, edge := none }
    if (s.rail i).st = .ramping then setRState i .on s else s

/-- PG_LOST (R70, R73, R138): the debounced PG becomes not good; a rail in ON has lost it. -/
def pgLostNow (i : Nat) (s : State) : State :=
  let r := s.rail i
  if r.st = .unused then s
  else
    let t := if r.db && r.dbCnt = 0 then s.tsB else r.dbOnset
    let s := s.modRail i fun r => { r with raw := false, db := false, dbCnt := 0, goodTicks := 0, tickGood := false, dbOnset := t }
    reactNow (judgePg i s)

/-- PG_LATE (R109). -/
def pgLateNow (i : Nat) (s : State) : State :=
  reactNow (judgeLate i (s.modRail i fun r => { r with deadline := r.deadline.map fun _ => 0 }))

/-- The readback of a driven EN may be judged: it is driven, not blanked, not already reported (R77). -/
def readbackOpen (s : State) (i : Nat) : Bool := s.drives i && (s.rail i).blank = 0 && !(s.rail i).rbDone

/-- EN_SHORT (R77): mismatches of a driven level confirm a short, its direction being the level held. -/
def enShortNow (i : Nat) (hi ilim : Bool) (s : State) : State :=
  let r := s.rail i
  let w := s.rcfg i
  if readbackOpen s i && rcDriven w r.enBall && hi ≠ rcLevel w r.enBall then
    let t := if r.mis = 0 then s.tsB else r.misOnset
    reactNow (detect 2 hi t i (s.modRail i fun r => { r with rbDone := true, ilim := ilim }))
  else s

/-- EN_OPEN (R77): a released pair EN has mismatched for four samples. -/
def enOpenNow (i : Nat) (s : State) : State :=
  let r := s.rail i
  let w := s.rcfg i
  if readbackOpen s i && !rcDriven w r.enBall && bit w 11 then
    let t := if r.mis = 0 then s.tsB else r.misOnset
    reactNow (detect 3 false t i (s.modRail i fun r => { r with rbDone := true, mis := sat 7 (max 4 r.mis) }))
  else s

/-- ASSIST_TEST (R77): a released EN of a single part has mismatched for four samples and is driven for a frame. -/
def assistNow (i : Nat) (s : State) : State :=
  let r := s.rail i
  let w := s.rcfg i
  let t := s.tsB
  if readbackOpen s i && !rcDriven w r.enBall && !bit w 11 && !r.assist then
    s.modRail i fun r => { r with assist := true, misOnset := if r.mis = 0 then t else r.misOnset, mis := max 4 r.mis }
  else s

/-- ASSIST_TEST_RESULT (R77): the current limit acted, or the ball reached the level. -/
def assistResultNow (i : Nat) (ilim : Bool) (s : State) : State :=
  if (s.rail i).assist then
    reactNow (assistResult ilim (rcLevel (s.rcfg i) (s.rail i).enBall) i s)
  else s

/-- The level a test frame drives a connected ball to: the opposite of what the boundary sample read (R78). -/
def owFails (start level : Bool) : Bool := start ≠ level

/-- PG_OPEN_TEST (R78, R79): the ball was `level` at 1500 ns of a test frame; it counts where the rail is testable. -/
def pgOpenTestNow (i : Nat) (level : Bool) (s : State) : State :=
  let r := s.rail i
  if (fld (s.rcfg i) 7 6 = 1 || fld (s.rcfg i) 7 6 = 2) && s.vioOk i && (r.st = .off || r.st = .on) then
    reactNow (owCount (owFails (r.owTest.getD r.rx) level) i (s.modRail i fun r => { r with owTest := none }))
  else s

/-- PG_STUCK (R80): in RELEASING after STUCK_TICKS, or in OFF after 32 good samples. -/
def pgStuckNow (i : Nat) (s : State) : State :=
  let r := s.rail i
  if s.cf (rbase i + 4) 23 16 ≠ 0 && !r.stuckDone && (r.st = .releasing || r.st = .off) then
    let t := if r.st = .releasing then s.tsB else r.edge.getD { frame := s.clk.frame - 31, frac := 0 }
    reactNow (detect 5 false t i (s.modRail i fun r => { r with stuckDone := true, offGood := 0 }))
  else s

/-- EN_FOLD_BACK (R65): the current limit has acted for 256 frames. -/
def foldNow (i : Nat) (s : State) : State := if s.drives i then foldBack i s else s

/-- MIN_OFF_ELAPSED (R74). -/
def minOffNow (i : Nat) (s : State) : State :=
  let n := s.cf (rbase i) 27 16
  s.modRail i fun r => { r with offTicks := max n r.offTicks }

/-- PG_EDGE_LATCH (R160): the first change of level since the last sample that agreed with PG_DB is latched. -/
def edgeLatch (i cyc : Nat) (s : State) : State :=
  let t := s.tsAt cyc
  if (s.rail i).st = .unused then s
  else s.modRail i fun r => { r with edge := some (r.edge.getD t) }

/-- The margin of a rail in a phase of its verification. -/
def settling (g : Nat) (m : MOp) : Bool :=
  m.rail = g && match m.phase with | .settle _ => true | _ => false

def averaging (g : Nat) (m : MOp) : Bool :=
  m.rail = g && match m.phase with | .average _ _ _ => true | _ => false

/-- MARGIN_SETTLE_EXPIRY (R90): averaging begins. -/
def settleNow (i : Nat) (s : State) : State :=
  match s.seq.margins.find? (settling (s.grail i)) with
  | some m => marginPut m (some { m with phase := .average 32 0 0 }) s
  | none => s

/-- MARGIN_VERIFY_DONE (R90): the average is judged. -/
def verifyNow (i : Nat) (s : State) : State :=
  match s.seq.margins.find? (averaging (s.grail i)) with
  | some m =>
    (match m.phase with
    | .average _ n sum => marginJudge m n sum s
    | _ => s)
  | none => s

def execVioOkRise (bank : Nat) (s : State) := Next (vioRiseNow bank s)
def execVioOkFall (bank : Nat) (s : State) := Next (vioFallNow bank s)
def execPgDebouncedGood (rail : Nat) (s : State) := Next (onRail rail (pgGood rail) s)
def execPgLost (rail : Nat) (s : State) := Next (onRail rail (pgLostNow rail) s)
def execPgLate (rail : Nat) (s : State) := Next (onRail rail (pgLateNow rail) s)
def execEnShort (rail : Nat) (hi ilim : Bool) (s : State) := Next (onRail rail (enShortNow rail hi ilim) s)
def execEnOpen (rail : Nat) (s : State) := Next (onRail rail (enOpenNow rail) s)
def execAssistTest (rail : Nat) (s : State) := Next (onRail rail (assistNow rail) s)
def execAssistTestResult (rail : Nat) (ilim : Bool) (s : State) := Next (onRail rail (assistResultNow rail ilim) s)
def execPgOpenTest (rail : Nat) (level : Bool) (s : State) := Next (onRail rail (pgOpenTestNow rail level) s)
def execPgStuck (rail : Nat) (s : State) := Next (onRail rail (pgStuckNow rail) s)
def execEnFoldBack (rail : Nat) (s : State) := Next (onRail rail (foldNow rail) s)
def execMinOffElapsed (rail : Nat) (s : State) := Next (onRail rail (minOffNow rail) s)
def execMarginSettleExpiry (rail : Nat) (s : State) := Next (onRail rail (settleNow rail) s)
def execMarginVerifyDone (rail : Nat) (s : State) := Next (onRail rail (verifyNow rail) s)
def execPgEdgeLatch (rail cyc : Nat) (s : State) := Next (onRail rail (edgeLatch rail cyc) s)

end Sys2Proof.Machine
end

