-- ==== Sys2Proof/Machine/SeqCmds.lean ====
section
/-! DEFINITION. Machine/SeqCmds.lean: the happenings of the sequencer, the ledger and the fault policy (chapters 4, 5,
6). A row that names the end of a count is that end (log 3). -/

namespace Sys2Proof.Machine

/-- What order 4 judges of DOMAIN follows a change of programs, and those that end are reported (R94, R108, R153). -/
def judged (f : State → State) (s : State) : State :=
  let old := s.seq.domain
  progsTell (sysrstUp old (judgeDomain (f s)))

/-- DELAY_EXPIRY (R102): the COUNT of the program's DELAY step has run out. -/
def delayNow (n : Nat) (s : State) : State :=
  match (s.prog n).items.head? with
  | some it =>
    if (s.prog n).state = 1 && opOf it.w = 5 then
      let it := { it with left := 0 }
      (runStep n it (modItem n it.idx (fun _ => it) s)).1
    else s
  | none => s

/-- The deadline of an item has run out. -/
def expireItem (it : Item) : Item := { it with deadline := it.deadline.map fun _ => 0, begun := true }

/-- STEP_DEADLINE_EXPIRY (R102, R104): the program's waiting step is examined with its DEADLINE run out. -/
def deadlineNow (n : Nat) (s : State) : State :=
  if (s.prog n).state = 1 && (s.prog n).items.any fun it => it.deadline.isSome then
    (runProg n 32 (s.modProg n fun p => { p with items := p.items.map expireItem })).1
  else s

/-- OFF_CLASS_LIMIT_EXPIRY (R115). -/
def limitNow (s : State) : State :=
  if s.off.run && s.off.opened && !classDone s then limitExpire { s with off := { s.off with limit := 0 } } else s

/-- OFF_PAUSE_EXPIRY (R115): the walk takes the entries after the PAUSE. -/
def pauseNow (s : State) : State :=
  if s.off.run && s.off.opened && s.off.pause ≠ 0 then offWalk 2049 false false { s with off := { s.off with pause := 0 } }
  else s

/-- DISCH of a rail's entry in the open class (R112, R115). -/
def dischOf (s : State) (i : Nat) : Option Nat :=
  ((classEntries s 2048 (classStart s s.off.pos + 1)).find? fun p => opOf p.2 = 0x21 && nbits p.2 57 51 = i).map
    fun p => nbits p.2 49 34

/-- DISCH_MET (R115): the rail has rested for its DISCH frames. -/
def dischNow (i : Nat) (s : State) : State :=
  if s.off.run && s.off.opened && (s.rail i).st.resting then
    match dischOf s i with
    | some d => s.modRail i fun r => { r with rest := max d r.rest }
    | none => s
  else s

/-- HELD_ON_REQUEST_LAUNCH (R118). -/
def heldNow (s : State) : State := if s.seq.onPending && !s.off.run then launchOnSet s else s

/-- BACKOFF_EXPIRY (R145). -/
def backoffNow (i : Nat) (s : State) : State :=
  backoffEnd i (s.modRail i fun r => { r with backoff := min 1 r.backoff })

/-- HEAL (R148). -/
def healNow (i : Nat) (s : State) : State :=
  let h := s.cf (fbase i + 4) 25 18
  if (s.rail i).db && h ≠ 0 then
    s.modRail i fun r => { r with goodTicks := max h r.goodTicks, retryCnt := 0, escalated := false }
  else s

/-- GROUP_RESTART (R150): the delay has run, or a completed run finds its group exhausted or without delay. -/
def groupNow (n : Nat) (s : State) : State :=
  if (s.grp n).left.isSome then groupRestartDue n (s.modGrp n fun g => { g with left := some 0 })
  else if s.off.run then s
  else groupPolicy n s

/-- RESTART_DELAY_EXPIRY (R155). -/
def restartNow (s : State) : State :=
  restartDue { s with flt := { s.flt with restartLeft := s.flt.restartLeft.map fun _ => 0 } }

/-- RESTART_WINDOW_EXPIRY (R155). -/
def windowNow (s : State) : State :=
  if s.seq.domain = .up then
    windowDue { s with flt := { s.flt with upTicks := max (16384 * orDef (s.cf 0x5608 25 18) 1 + 1) s.flt.upTicks } }
  else s

/-- SYSRST_RELEASE_DELAY (R153). -/
def rstNow (s : State) : State :=
  sysrstDue { s with flt := { s.flt with sysrstAge := 32, rstLeft := s.flt.rstLeft.map fun _ => 0 } }

/-- WATCHDOG_GRACE_EXPIRY (R166). -/
def graceNow (s : State) : State :=
  if s.flt.wdtRun && s.flt.grace.isSome && s.off.run then releaseAll s else s

def execLedgerPass (cyc : Nat) (s : State) := Next (taskRun 1 1 0 cyc ledgerPass s)
def execCommitmentEnd (key : CKey) (s : State) := Next (commitEnd key s)
def execDelayExpiry (prog : Nat) (s : State) := Next (if prog < 64 then judged (delayNow prog) s else s)
def execStepDeadlineExpiry (prog : Nat) (s : State) := Next (if prog < 64 then judged (deadlineNow prog) s else s)
def execOffClassLimitExpiry (s : State) := Next (limitNow s)
def execOffPauseExpiry (s : State) := Next (pauseNow s)
def execDischMet (rail : Nat) (s : State) := Next (onRail rail (dischNow rail) s)
def execOffRunComplete (s : State) := Next (if s.off.run then offComplete s else s)
def execHeldOnRequestLaunch (s : State) := Next (judged heldNow s)
def execFaultPolicy (cyc : Nat) (s : State) := Next (taskRun 1 2 (min 2 s.flt.queue.length) cyc faultTask s)
def execBackoffExpiry (rail : Nat) (s : State) := Next (onRail rail (backoffNow rail) s)
def execHeal (rail : Nat) (s : State) := Next (onRail rail (healNow rail) s)
def execGroupRestart (grp : Nat) (s : State) := Next (if grp < 16 then groupNow grp s else s)
def execRestartDelayExpiry (s : State) := Next (restartNow s)
def execRestartWindowExpiry (s : State) := Next (windowNow s)
def execSysrstReleaseDelay (s : State) := Next (rstNow s)
def execWatchdogGraceExpiry (s : State) := Next (graceNow s)
/-- T1.1 reads rail and program status; launches take effect where they are decided (R53). -/
def execSequencerService (cyc : Nat) (s : State) := Next (taskRun 1 0 0 cyc id s)

end Sys2Proof.Machine
end

