-- ==== Sys2Proof/Machine/StageCmds.lean ====
section
/-! DEFINITION. Machine/StageCmds.lean: the tasks and happenings of the conversion stages (chapter 8). A row that
names a monitor's finding or the end of a count is that finding (log 3). -/

namespace Sys2Proof.Machine

/-- Acts on a stage of the part only. -/
def onStage (st : Nat) (f : State → State) (s : State) : State := if st < 4 then f s else s

/-- STAGE_REGULATED (R265): the in-band count is complete, the stage regulates. -/
def regulateNow (st : Nat) (s : State) : State :=
  let x := s.stg st
  if (x.st = .kindling || x.st = .moving) && x.target ≠ 0 then
    stageTell st 1 stOk (s.modStg st fun x => { x with
      st := .regulated, inBand := orDef (s.sfld st 0x0C 19 12) 1, floored := false, floorCnt := 0, floorTold := false })
  else s

/-- KINDLING_START_TIMEOUT (R264, R276). -/
def kindleTimeout (st : Nat) (s : State) : State :=
  if (s.stg st).st = .kindling && (s.stg st).preset then
    reactIn s.runSet (stageFault st 11 (s.modStg st fun x => { x with startWait := 64 }))
  else s

/-- HICCUP_ENTRY (R269): LIMCNT has reached OC_N. -/
def hiccupNow (st : Nat) (s : State) : State :=
  if (s.stg st).st.running then
    reactIn s.runSet (stageFaults (hiccupStep st (s.modStg st fun x => { x with hicFound := true })))
  else s

/-- HICCUP_EXPIRY (R269). -/
def hiccupOver (st : Nat) (s : State) : State := hiccupEnd st (s.modStg st fun x => { x with hicLeft := 0 })

/-- CONSEC_HIC_HEAL (R269). -/
def hicHeal (st : Nat) (s : State) : State :=
  let h := s.sfld st 0x0C 27 20
  if (s.stg st).st.isReg && h ≠ 0 then
    s.modStg st fun x => { x with regTicks := max h x.regTicks, consecHic := 0 }
  else s

/-- A hardware monitor faults the stage (R270, R271, R272, R276, R277). -/
def monitorFault (st cause : Nat) (s : State) : State := reactIn s.runSet (stageFaults (stgFound st cause s))

/-- SENSE_OPEN (R270): the legs stepped at two boundaries; `legs` are their levels at the second. -/
def senseOpenNow (st : Nat) (legs : List Int) (s : State) : State :=
  if s.cb (sbase st) 9 then
    let l := legs.map fun v => (v, true)
    monitorFault st 1 (s.modStg st fun x => { x with legs := l })
  else s

/-- FROZEN (R271): only a stage that switches is watched. -/
def frozenNow (st : Nat) (s : State) : State := if (s.stg st).switching then monitorFault st 2 s else s

/-- NOFB (R272). -/
def nofbNow (st : Nat) (s : State) : State :=
  let x := s.stg st
  if x.st.running && (x.st ≠ .kindling || x.switching) then monitorFault st 3 (s.modStg st fun x => { x with noFb := 4 })
  else s

/-- STAGE_OV (R272): OV_CODE 0 disables. -/
def ovNow (st : Nat) (s : State) : State :=
  if s.sfld st 0x10 11 0 ≠ 0 && (s.stg st).st.running then monitorFault st 4 s else s

/-- STAGE_UV (R272): UV_CODE 0 disables. -/
def uvNow (st : Nat) (s : State) : State :=
  if s.sfld st 0x10 23 12 ≠ 0 && (s.stg st).st.isReg then monitorFault st 5 s else s

/-- CAP_FLOOR (R268): 256 frames at the floor with the current above the cap. -/
def floorNow (st : Nat) (s : State) : State :=
  if (s.stg st).st = .capped && !(s.stg st).floorTold then
    stgEvent st 4 0 0 (s.modStg st fun x => { x with floored := true, floorCnt := 256, floorTold := true })
  else s

/-- STAGE_RETRY_BACKOFF (R151). -/
def stageBackoffNow (st : Nat) (s : State) : State :=
  stageBackoffEnd st (s.modStg st fun x => { x with backoff := x.backoff.map fun _ => 0 })

/-- STAGE_RETRY_CNT_HEAL (R172): 256 regulated watch ticks. -/
def retryHeal (st : Nat) (s : State) : State :=
  if (s.stg st).st.isReg then s.modStg st fun x => { x with regTicks := max 256 x.regTicks, retryCnt := 0 } else s

def execStageControlTask (stage cyc : Nat) (s : State) := Next (onStage stage (taskRun (4 + stage) 0 0 cyc (stageTask stage)) s)
def execPhaseDiagnosticsTask (stage cyc : Nat) (s : State) :=
  Next (onStage stage (taskRun (4 + stage) 1 0 cyc (phaseTask stage)) s)
def execStageRegulated (stage : Nat) (s : State) := Next (onStage stage (regulateNow stage) s)
def execKindlingStartTimeout (stage : Nat) (s : State) := Next (onStage stage (kindleTimeout stage) s)
def execCycleLimitTrip (phase : Nat) (consecutive : Bool) (s : State) :=
  Next (if phase < 32 then limitTrip phase consecutive s else s)
def execHiccupEntry (stage : Nat) (s : State) := Next (onStage stage (hiccupNow stage) s)
def execHiccupExpiry (stage : Nat) (s : State) := Next (onStage stage (hiccupOver stage) s)
def execConsecHicHeal (stage : Nat) (s : State) := Next (onStage stage (hicHeal stage) s)
def execSenseOpen (stage : Nat) (legs : List Int) (s : State) := Next (onStage stage (senseOpenNow stage legs) s)
def execFrozen (stage : Nat) (s : State) := Next (onStage stage (frozenNow stage) s)
def execNofb (stage : Nat) (s : State) := Next (onStage stage (nofbNow stage) s)
def execStageOv (stage : Nat) (s : State) := Next (onStage stage (ovNow stage) s)
def execStageUv (stage : Nat) (s : State) := Next (onStage stage (uvNow stage) s)
def execCapFloor (stage : Nat) (s : State) := Next (onStage stage (floorNow stage) s)
def execStageRetryBackoff (stage : Nat) (s : State) := Next (onStage stage (stageBackoffNow stage) s)
def execStageRetryCntHeal (stage : Nat) (s : State) := Next (onStage stage (retryHeal stage) s)

end Sys2Proof.Machine
end

