-- ==== Sys2Proof/Machine/ConvCmds.lean ====
section
/-! DEFINITION. Machine/ConvCmds.lean: the happenings and tasks of the converter array and the ember snapshot task
(chapters 6 and 7). -/

namespace Sys2Proof.Machine

/-! ## Triggers (R213, R214, R224) -/

/-- An accepted edge of TRGn on one core: its sequence starts, or the edge overlaps one in progress (R214). -/
def edgeCore (n cyc c : Nat) (s : State) : State :=
  if s.seqBusy c (4 + n) then
    raise 0x76 (s.tsAt cyc) (detC c 0 0 0 false false 0 0 0 n)
      (s.modCore c fun k => { k with trgOvl := sat 0xFF (k.trgOvl + 1) })
  else startSeq c (4 + n) (cdiv (2000 * s.now + cyc) 250) s

/-- Urgent slots of core c armed on TRGn (R224, R245). -/
def armed (s : State) (n c : Nat) : List Nat :=
  (List.range 4).filter fun k => bit (s.urgReg c k) 8 && bit (s.urgReg c k) 9 && fld (s.urgReg c k) 11 10 = n

/-- TRG_EDGE_ACCEPTED (R214): the level follows; a selected edge starts sequences and fires urgent slots. -/
def trgEdge (n : Nat) (rising : Bool) (cyc : Nat) (s : State) : State :=
  let s := { s with cnv := { s.cnv with trgLevel :=
    if rising then s.cnv.trgLevel ||| 2 ^ n else if s.cnv.trgLevel.testBit n then s.cnv.trgLevel - 2 ^ n else s.cnv.trgLevel } }
  if s.cb 0x7014 (2 * n + b2n (!rising)) then
    each [0, 1, 2, 3] (fun c s =>
      let s := edgeCore n cyc c s
      each (armed s n c) (fun k s => (fireUrgent c k cyc s).2) s) s
  else s

/-! ## Telemetry (R239, R240, R310) -/

/-- Results the telemetry staging region holds (log 23). -/
def telRoom : Nat := 49152

/-- A result with TEL = 1 is counted; every 2^TDEC-th is staged, or lost where the region is full (R239). -/
def stageResult (t : TelRes) (s : State) : State :=
  let w := s.ent t.core t.entry
  if !bit w 22 then s
  else
    let n := (s.entry t.core t.entry).dec + 1
    if n < 2 ^ fld w 25 23 then modEnt t.core t.entry (fun x => { x with dec := n }) s
    else
      let s := modEnt t.core t.entry (fun x => { x with dec := 0 }) s
      if s.cnv.staged.length < telRoom then { s with cnv := { s.cnv with staged := s.cnv.staged ++ [t] } }
      else
        let s := { s with cnv := { s.cnv with lost := sat 0xFFFF (s.cnv.lost + 1) } }
        if s.cnv.lostTick then s
        else raise 0x78 s.tsB (detC t.core t.entry 0 0 false false 0 0 0 0) { s with cnv := { s.cnv with lostTick := true } }

/-- Results of one frame in order of core, then entry (R239). -/
def telOrder (l : List TelRes) : List TelRes :=
  (List.range 4).flatMap fun c => (List.range 64).flatMap fun e => l.filter fun t => t.core = c && t.entry = e

/-- T3.1 stages the results of the previous frame (R239). -/
def postProcess (s : State) : State :=
  let l := telOrder s.cnv.prev
  each l stageResult { s with cnv := { s.cnv with prev := [] } }

/-- The 64 bits of a result in a telemetry entry (R240). -/
def telBits (t : TelRes) : Nat :=
  put t.entry 0 6 + put (b2n t.res.ovr) 6 1 + put (b2n t.res.under) 7 1 + put (b2n t.res.valid) 8 1 + put (b2n t.res.rcv) 9 1 +
    put (b2n t.res.urg) 10 1 + put (b2n t.res.sus) 11 1 + put t.res.code 12 12 + put (toBits 32 t.eng) 24 32 +
    put t.res.ts.frac.toNat 56 8

/-- A telemetry ring entry (R240). -/
def telEntry (l : List TelRes) : BitVec 256 :=
  let a := l.headD {}
  BitVec.ofNat 256 (put a.frame.toNat 0 48 + put a.core 48 2 + put l.length 50 2 +
    ((l.zipIdx).map fun p => put (telBits p.1) (64 * (p.2 + 1)) 64).foldl (· + ·) 0)

/-- The results the next telemetry entry carries: up to three of one core and one frame (R239). -/
def telTake (l : List TelRes) : List TelRes :=
  match l with
  | [] => []
  | a :: t => a :: ((t.take 2).takeWhile fun b => b.frame = a.frame && b.core = a.core)

/-- Entries a ring has room for: one entry is kept free (R294). -/
def ringRoom (s : State) (r : Nat) : Nat :=
  let n := 2 ^ s.cf (ringReg r + 8) 4 1
  (n - 1) - ((s.ring r).own + n - (s.ring r).peer) % n

/-- The ring is enabled and not halted, and the part may issue DMA (R291, R294, R320). -/
def ringLive (s : State) (r : Nat) : Bool := s.cb (ringReg r + 8) 0 && !(s.ring r).halt && s.hst.bme && s.hst.linkUp

/-- Writes an entry into a ring the part produces and advances its index; its vector, if any, is owed a signal (R294,
R311). -/
def ringPut (r : Nat) (vec : Option Nat) (v : BitVec 256) (s : State) : State :=
  let n := 2 ^ s.cf (ringReg r + 8) 4 1
  let s := match vec with
    | some k => { s with hst := { s.hst with modPend := tset false s.hst.modPend k true } }
    | none => s
  emit (.entry r (s.ring r).own v) (s.modRing r fun x => { x with own := (x.own + 1) % n })

/-- T3.2: up to `n` telemetry entries are posted; answers how many were. -/
def telPost : Nat → State → Nat × State
  | 0, s => (0, s)
  | n + 1, s =>
    if s.cnv.staged.isEmpty || !ringLive s 17 then (0, s)
    else if ringRoom s 17 = 0 then (0, { s with hst := { s.hst with trFull := true } })
    else
      let l := telTake s.cnv.staged
      let r := telPost n (ringPut 17 (some 11) (telEntry l) { s with cnv := { s.cnv with staged := s.cnv.staged.drop l.length } })
      (r.1 + 1, r.2)

/-- Entries T3.2 can post in this frame: PER_FRAME, 16 at most (R239, R244). -/
def telQuota (s : State) : Nat := min 16 (s.cf 0x7020 4 0)

/-! ## The ember snapshot (R20, R163, R197) -/

/-- Bit r of a word: local rail r satisfies p. -/
def railBits (s : State) (p : Rail → Bool) : Nat := (railList.map fun i => put (b2n (p (s.rail i))) i 1).foldl (· + ·) 0

/-- Highest die temperature in °C of the cores whose result counts; none read leaves 0 (R197). -/
def hottest (s : State) : Int :=
  let l := ([0, 1, 2, 3].map (dieTemp s)).filter (·.1)
  (l.foldl (fun (m : Option Int) t => some (match m with | some x => max x t.2 | none => t.2)) none).getD 0 |>.fdiv 16

/-- The first and second word of a snapshot (R197). -/
def snapWords (s : State) : Nat × Nat :=
  let c := s.cf 0x6400 1 0
  let e := s.cf 0x6400 7 2
  (put s.clk.frame.toNat 0 48 + put (toBits 16 ((s.engRes c e (s.entry c e).seen).fdiv 10)) 48 16 + put s.drt.pMeas 64 16 +
      put s.drt.inrush 80 16 + put s.drt.power 96 16 + put s.drt.thermal 112 16 + put (toBits 8 (hottest s)) 128 8 +
      put s.dmp.level 136 3 + put (b2n s.inl.loss) 139 1 + put (b2n s.inl.ready) 140 1 +
      put (railBits s fun r => r.st.live) 144 96 + ([0, 1, 2, 3].map fun st => put (s.stg st).st.code (240 + 4 * st) 4).foldl (· + ·) 0,
    ([0, 1, 2, 3].map fun st => put (s.stg st).vout (32 * st) 16 + put (s.stg st).iout (32 * st + 16) 16).foldl (· + ·) 0 +
      put (railBits s fun r => r.st = .faulted) 128 96)

/-- An outstanding counter in its place among the others, the oldest increment first; frame numbers compare as R43 gives. -/
def deltaInsert (d : Nat × Nat × Nat × Nat) : List (Nat × Nat × Nat × Nat) → List (Nat × Nat × Nat × Nat)
  | [] => [d]
  | x :: l => if frameBefore (BitVec.ofNat 48 d.1) (BitVec.ofNat 48 x.1) then d :: x :: l else x :: deltaInsert d l

/-- The counters delta: (rail, CNT, DELTA), the oldest outstanding increments first (R163, R197). -/
def deltaList (s : State) : List (Nat × Nat × Nat) :=
  ((railList.flatMap fun i => (s.rail i).delta.map fun p => (tget 0 (s.rail i).deltaSince p.1, i, p.1, sat 16383 p.2)).foldl
    (fun l d => deltaInsert d l) []).map (·.2)

/-- T3.3 (R20, R163, R197): the snapshots move on and the counters delta is rewritten, at most 48 entries: words W3 to W15 of the
staging buffer, written whole. -/
def emberTask (s : State) : State :=
  let d := deltaList s
  let s := each ((List.range 13).map (3 + ·)) (wcWritten 0x16) s
  { s with pwr := { s.pwr with stage := { s.pwr.stage with
    snaps := (snapWords s :: s.pwr.stage.snaps).take 4, deltas := d.take 48, overflow := 48 < d.length } } }

/-! ## Happenings -/

/-- CONVERSION_END (R215, R225): slots 0-7 of the frame, or urgent slot k as slot 8 + k. -/
def convEnd (c j : Nat) (r : Int) (clamp : Bool) (s : State) : State :=
  if j < 8 then slotEnd c j r clamp s else urgentEnd c (j - 8) r clamp s

/-- PLAUSIBILITY_RESTORE (R231). -/
def plausNow (p : Nat) (s : State) : State :=
  plausRestore p (s.modPpair p fun x => { x with agree := if x.raised then 32 else x.agree })

/-- CONVERSION_DROPPED (R207): a displaced conversion of the entry is dropped. -/
def dropNow (c e : Nat) (s : State) : State :=
  if (s.core c).displaced.any fun d => d.1 = e then dropConv c e s else s

/-- REFRDY_SET (R212). -/
def refSetNow (p : Nat) (s : State) : State :=
  if s.refPowered && !(s.refm p).rdy then refSet p (s.modRefm p fun x => { x with good := 64 }) else s

/-- REFERENCE_FAULT_TIMEOUT (R212). -/
def refTimeout (p : Nat) (s : State) : State :=
  if s.refPowered && !(s.refm p).rdy then refFault p (s.modRefm p fun x => { x with age := 4096 }) else s

/-- REFRDY_FALL (R212). -/
def refFallNow (p : Nat) (s : State) : State := if s.refPowered then refFall p s else s

def execTrgEdgeAccepted (trg : Nat) (rising : Bool) (cyc : Nat) (s : State) :=
  Next (if trg < 4 then trgEdge trg rising cyc s else s)
def execConversionEnd (core slot : Nat) (r : Int) (clamp : Bool) (s : State) :=
  Next (if core < 4 ∧ slot < 12 then convEnd core slot r clamp s else s)
def execSliceUnclamp (core slice : Nat) (s : State) := Next (if core < 4 ∧ slice < 4 then unclamp core slice s else s)
def execPlausibilityRestore (pair : Nat) (s : State) := Next (if pair < 2 then plausNow pair s else s)
def execConversionDropped (core entry : Nat) (s : State) := Next (if core < 4 ∧ entry < 64 then dropNow core entry s else s)
def execUrgentConversionStart (core k : Nat) (s : State) := Next (if core < 4 ∧ k < 4 then startUrgent core k s else s)
def execRefrdySet (pair : Nat) (s : State) := Next (if pair < 2 then refSetNow pair s else s)
def execReferenceFaultTimeout (pair : Nat) (s : State) := Next (if pair < 2 then refTimeout pair s else s)
def execRefrdyFall (pair : Nat) (s : State) := Next (if pair < 2 then refFallNow pair s else s)
/-- The urgent slots that an engine's writes fire (R224). -/
def engineFires (l : List (Nat × Nat × Nat)) (s : State) : State :=
  each l (fun f s => if f.1 < 4 ∧ f.2.1 < 4 ∧ bit (s.urgReg f.1 f.2.1) 8 then (fireUrgent f.1 f.2.1 f.2.2 s).2 else s) s

def execConverterPostProcessing (run : Nat × List (Nat × Nat × Nat)) (s : State) :=
  Next (taskRun 3 0 (min 32 s.cnv.prev.length) run.1 (fun s => engineFires run.2 (postProcess s)) s)
def execTelemetryPosting (cyc : Nat) (s : State) :=
  let r := telPost (telQuota s) s
  Next (taskRun 3 1 r.1 cyc (fun s => (telPost (telQuota s) s).2) s)
def execEmberSnapshot (cyc : Nat) (s : State) := Next (taskRun 3 2 0 cyc emberTask s)

end Sys2Proof.Machine
end

