-- ==== Sys2Proof/Machine/Flags.lean ====
section
/-! DEFINITION. Machine/Flags.lean: the status words of BAR0, computed from the state, and the read of any BAR0
word (R8, R11, R463). -/

namespace Sys2Proof.Machine

/-- The low n bits of a signed value. -/
def sbits (n : Nat) (i : Int) : Nat := toBits n i

/-- Low and high words of a frame number. -/
def frLo (f : Frame) : Nat := f.toNat % 2 ^ 32
def frHi (f : Frame) : Nat := f.toNat / 2 ^ 32

/-- GLB_LOCK as it reads (R292). -/
def roLock (s : State) : Nat := b2n (s.hst.lock = 1) + put s.hst.lock 16 2

/-- The global block (R60, R461, R464). -/
def roGlobal (s : State) (o : Nat) : Nat :=
  if o = 0 then 0xC0 + put 0x9608 8 16 + put (b2n Config.grade) 24 1
  else if o = 4 then 0x100
  else if o = 0x10 then roLock s
  else if o = 0x20 then
    s.pwr.cause + put s.pwr.bootFail 8 2 + put (b2n s.pwr.recov) 10 1 + put (b2n s.pwr.mcand) 11 1 + put (b2n s.pwr.fallback) 12 1
  else if o = 0x24 then s.pwr.bootFrames
  else if o = 0x100 then frLo s.clk.frame
  else if o = 0x104 then s.clk.latHi.toNat + put s.clk.latFrac.toNat 16 8
  else if o = 0x108 then s.ovrStat.toNat
  else if within 0x110 0x12C o then
    let e := s.eng ((o - 0x110) / 4)
    put e.ovr 0 16 + put e.skips 16 12 + put e.consec 28 2
  else if within 0x130 0x14C o then
    let n := (o - 0x130) / 4
    let e := s.eng n
    put e.declared 0 10 + put e.peakUsed 10 10 + put e.peakPhase 20 5
  else 0

/-- The oldest SEQ in SRAM (R314) and in the mirror (R316). -/
def oldestSram (s : State) : Nat := if s.jrn.sram.isEmpty then 0 else max s.jrn.base (s.jrn.head - 4095)
def oldestMirror (s : State) : Nat := match s.jrn.mirror.getLast? with | some e => e.seq | none => 0

/-- The host block (R319, R320). -/
def roHost (s : State) (o : Nat) : Nat :=
  if o = 0x1004 then b2n s.hst.linkUp + put (b2n s.hst.bme) 1 1 + put (b2n s.hst.freset) 2 1 + put s.hst.resets 16 16
  else if o = 0x1010 then s.jrn.head % 2 ^ 32
  else if o = 0x1014 then s.hst.jheadHi
  else if o = 0x1018 then oldestSram s % 2 ^ 32
  else if o = 0x101C then s.hst.joldHi
  else if o = 0x1020 then oldestMirror s % 2 ^ 32
  else if o = 0x1024 then s.hst.jmirHi
  else if o = 0x1028 then put (sat 0xFFFF s.jrn.waiting.length) 0 16 + put s.jrn.corrupt 16 16
  else if within 0x1100 0x133F o then
    let n := if o < 0x1200 then (o - 0x1100) / 0x20 else if o < 0x1300 then 8 + (o - 0x1200) / 0x20 else 16 + (o - 0x1300) / 0x20
    let r := s.ring n
    if o % 0x20 = 0xC then put r.own 0 12 + put r.peer 16 12
    else if o % 0x20 = 0x10 then b2n r.halt + put r.cause 1 2 + put r.count 16 16
    else 0
  else 0

/-- BKx_RSTATi (R93). -/
def roRstat (s : State) (i : Nat) : Nat :=
  let r := s.rail i
  r.st.code + put (b2n r.raw) 3 1 + put (b2n r.db) 4 1 + put (b2n r.en) 5 1 + put (b2n r.enRb) 6 1 + put (b2n r.ilim) 7 1 +
    put (b2n r.shortHi) 8 1 + put (b2n r.shortLo) 9 1 + put (b2n r.enOpen) 10 1 + put (b2n r.pgOpen) 11 1 +
    put (b2n r.pgStuck) 12 1 + put (b2n r.fold) 13 1 + put r.margin 14 2 + put r.goodTicks 16 16

/-- A rail bank (R93); o is the offset from the bank's block. -/
def roBank (s : State) (b o : Nat) : Nat :=
  if o < 0x300 then
    let i := 48 * b + o / 16
    if o % 16 = 8 then put (b2n (s.rail i).bindOk) 20 1 else if o % 16 = 0xC then roRstat s i else 0
  else if o = 0x300 then
    let k := s.bank b
    put (b2n k.vioOk) 1 1 + put ((owPick b s).getD (48 * b + k.owNext) % 48) 8 6 +
      put (b2n (((owPick b s).map k.owRetest.contains).getD false)) 14 1
  else if within 0x310 0x32C o then
    let m := s.mdac (8 * b + (o - 0x310) / 4)
    sbits 8 m.code + put (b2n m.atTarget) 24 1 + put (b2n m.compliance) 25 1
  else 0

/-- SEQ_STATUS (R133). -/
def roSeqStatus (s : State) : Nat :=
  s.seq.domain.code + put (b2n s.off.run) 3 1 + put s.off.cls 4 3 + put s.off.pos 7 11 + put (b2n s.seq.onPending) 18 1 +
    put s.off.src 19 2 + put (b2n s.off.late) 21 1 + put (b2n (s.off.run && !s.off.full)) 22 1

/-- STATE of a program: running, awaiting admission, awaiting a condition, by the step it is at (R137). -/
def progState (s : State) (n : Nat) : Nat :=
  let p := s.prog n
  if p.state ≠ 1 then p.state
  else match p.items with
    | [] => 1
    | it :: _ =>
      let op := opOf it.w
      let waits := s.seq.margins.any fun m => m.owner = .prog n && m.phase = .pending && !m.cand.granted
      if (op = 2 ∨ op = 8) ∧ it.done = 0 ∧ !it.cand.granted then 2
      else if op = 6 ∧ waits then 2
      else if op = 3 ∨ op = 4 ∨ op = 9 ∨ op = 0x0D then 3
      else 1

/-- SEQ_PSTATn (R137). -/
def roPstat (s : State) (n : Nat) : Nat :=
  let p := s.prog n
  progState s n + put p.status 3 4 + put p.flagBits 7 4 + put (if p.state = 1 then p.current else p.step) 11 13 +
    put p.stack.length 24 4

/-- The sequencer block (R132 to R137). -/
def roSeq (s : State) (o : Nat) : Nat :=
  if o = 0x4004 then roSeqStatus s
  else if o = 0x400C then s.seq.flags.toNat
  else if within 0x4200 0x42FC o then roPstat s ((o - 0x4200) / 4)
  else if within 0x4300 0x43FC o ∧ o % 8 = 4 then
    let w := s.watch ((o - 0x4300) / 8)
    put w.value 0 8 + put (b2n w.valid) 8 1 + put (b2n w.stale) 9 1
  else 0

/-- FLT_RSTATi (R169). -/
def roFrstat (s : State) (i : Nat) : Nat :=
  let r := s.rail i
  r.retryCnt + put r.backoff 4 12 + put r.lastKind 16 3 + put (b2n r.retryPend) 19 1 + put (b2n r.escalated) 20 1 +
    put (b2n r.shutdown) 21 1

/-- FLT_STATUS (R170). -/
def roFltStatus (s : State) : Nat :=
  b2n s.flt.ff.isSome + put (b2n s.flt.sysrst) 1 1 + put (b2n s.flt.restartLeft.isSome) 2 1 + put s.flt.restarts 3 4 +
    put (b2n s.flt.restartExh) 7 1 + put s.flt.wdtExp 8 8 + put s.flt.queue.length 16 8 + put s.flt.qlost 24 8

/-- The first-fault capture registers (R173). -/
def roFF (s : State) (o : Nat) : Nat :=
  match s.flt.ff with
  | none => 0
  | some f =>
    if o = 0x5700 then frLo f.f.onset.frame
    else if o = 0x5704 then frHi f.f.onset.frame + put f.f.onset.frac.toNat 16 8
    else if o = 0x5708 then frLo f.f.det
    else if o = 0x570C then frHi f.f.det
    else if o = 0x5710 then
      put (s.grail f.f.rail) 0 10 + put f.f.kind 10 3 + put (b2n f.f.dir) 13 1 + put f.f.state 14 3 + put f.f.react 17 2 +
        put (b2n f.f.escalated) 19 1 + put f.f.retryCnt 20 4 + put (b2n f.f.shutdown) 24 1 + put (b2n f.ledgerValid) 25 1 +
        put f.ties 26 4
    else if within 0x5714 0x5720 o then
      let k := (o - 0x5714) / 4
      put (f.samples.getD (2 * k) 0) 0 16 + put (f.samples.getD (2 * k + 1) 0) 16 16
    else if o = 0x5724 then put f.age 0 16 + put f.interval 16 16
    else if !f.ledgerValid then 0
    else if o = 0x5728 then put f.ledger.1 0 16 + put f.ledger.2.1 16 16
    else if o = 0x572C then put f.ledger.2.2.1 0 16
    else if o = 0x5730 then f.ledger.2.2.2 % 2 ^ 32
    else 0

/-- The fault-policy block (R169 to R173). -/
def roFlt (s : State) (o : Nat) : Nat :=
  if o < 0x5600 then (if o % 16 = 0xC then roFrstat s ((o - 0x5000) / 16) else 0)
  else if o = 0x5604 then roFltStatus s
  else if o = 0x5614 then (match s.flt.cntSel with | some i => i + 0x80 | none => 0)
  else if within 0x5618 0x562C o then s.flt.cntWin.getD ((o - 0x5618) / 4) 0
  else if within 0x5630 0x563C o then
    let x := s.stg ((o - 0x5630) / 4)
    put x.retryCnt 24 4 + put (b2n x.faulted) 28 1
  else if within 0x5640 0x567C o then put (s.grp ((o - 0x5640) / 4)).count 23 4
  else if within 0x5700 0x5730 o then roFF s o
  else 0

/-- DMP_STAT and DMP_ACAP (R201), INL_STAT (R203). -/
def roDmpStat (s : State) : Nat :=
  s.dmp.level + put (b2n (s.cb 0x6100 1 && s.dmp.rowCap.getD 0 ≠ 0)) 3 1 + put (b2n s.dmp.miss) 4 1 + put (b2n s.dmp.unreach) 5 1 +
    put (b2n !s.dmp.polPend.isEmpty) 6 1 + put s.dmp.trayP 16 16
def roDmpAcap (s : State) : Nat := put ((activeCap s).getD 0) 0 16 + put (s.dmp.rowCap.getD 0) 16 16
def roInlStat (s : State) : Nat :=
  b2n s.inl.loss + put (b2n s.inl.ready) 1 1 +
    put (b2n (s.cb 0x6440 26 && 2 * orDef (s.cf 0x6440 31 27) 1 < s.inl.age)) 2 1 + put (b2n s.inl.shed) 3 1 +
    put s.inl.shedV 4 12 + put s.inl.eNeed 16 16

/-- The draught, damper, sharing and input-loss block (R200 to R203). -/
def roDrt (s : State) (o : Nat) : Nat :=
  if o = 0x6050 then put s.drt.inrush 0 16 + put s.drt.power 16 16
  else if o = 0x6054 then put s.drt.thermal 0 16 + put s.drt.debt 16 16
  else if o = 0x6058 then s.drt.tick % 2 ^ 32
  else if o = 0x605C then put (sat 0xFFFF (commitP s)) 0 16 + put s.drt.bg 16 8
  else if o = 0x6060 then s.drt.head % 2 ^ 32
  else if o = 0x6108 then roDmpStat s
  else if o = 0x610C then roDmpAcap s
  else if o = 0x6304 then
    (rectList.map fun n => put (b2n (s.rectOn n)) n 1).foldl (· + ·) 0 + put s.shr.spread 16 16
  else if o = 0x6450 then roInlStat s
  else if o = 0x6454 then put s.inl.runtime 0 16
  else 0

/-- CNV_CSTATc and the other per-core words (R245). -/
def roCore (s : State) (c o : Nat) : Nat :=
  let k := s.core c
  if o = 0 then
    b2n k.powered + put (b2n (s.refm (pairOf c)).rdy) 1 1 + put (b2n k.lp) 2 1 + put (b2n (s.suspect c)) 3 1 +
      ([0, 1, 2, 3].map fun i => put (b2n (s.slice c i).clamp.isSome) (4 + i) 1 + put (b2n (s.slice c i).scrub.isSome) (8 + i) 1).foldl (· + ·) 0
  else if o = 4 then put k.scrubs 0 16 + put k.drops 16 16
  else if o = 8 then put k.urgLost 0 8 + put k.trgOvl 8 8 + put k.ovrs 16 16
  else if o = 0xC then k.leave.toNat % 2 ^ 32
  else if o = 0x10 then k.leave.toNat / 2 ^ 32
  else if within 0x14 0x20 o then put (b2n (s.urg c ((o - 0x14) / 4)).busy) 12 1
  else if within 0x24 0x40 o then
    let n := (o - 0x24) / 4
    let r := tget {} k.hk n
    put r.code 0 12 + put (b2n r.ovr) 12 1 + put (b2n r.under) 13 1 + put (b2n r.valid) 14 1 + put (sbits 16 (tget 0 k.hkVal n)) 16 16
  else if within 0x44 0x63 o then
    let x := s.slice c ((o - 0x44) / 8)
    if o % 8 = 4 then put (sbits 16 x.ofs) 0 16 + put (sbits 8 x.trim) 16 8
    else put (sbits 18 x.gain) 0 18 + put (b2n x.conv) 18 1
  else 0

/-- CNV_RESe_LO (R247). -/
def roResLo (s : State) (e : Nat) : Nat :=
  let x := s.entry s.cnv.wsel e
  let r := x.res
  put r.code 0 12 + put (b2n r.ovr) 12 1 + put (b2n r.under) 13 1 + put (b2n r.valid) 14 1 + put (b2n r.rcv) 15 1 +
    put (b2n r.urg) 16 1 + put (b2n r.sus) 17 1 + put (b2n r.miss) 18 1 + put (b2n (x.win = .inside)) 19 1 + put r.slice 20 2 +
    put r.ts.frac.toNat 24 8

/-- The converter block (R244 to R248). -/
def roCnv (s : State) (o : Nat) : Nat :=
  if o = 0x7008 then
    b2n (s.refm 0).rdy + put (b2n (s.refm 1).rdy) 1 1 + put (b2n (s.refm 0).fault) 2 1 + put (b2n (s.refm 1).fault) 3 1
  else if o = 0x700C ∨ o = 0x7010 then
    let p := (o - 0x700C) / 4
    let x := s.ppair p
    put x.suspect 16 2 + put x.disagree 18 3 + put (b2n (s.pairOn p)) 21 1
  else if o = 0x7014 then put s.cnv.trgLevel 8 4
  else if o = 0x7018 then put s.inl.code 0 12 + put (b2n s.shedArmed) 12 1 + put (b2n s.inl.below) 13 1 + put s.inl.run 14 2
  else if o = 0x701C then put s.cnv.wsel 8 2 + put s.cnv.cblk 10 2
  else if o = 0x7020 then put s.cnv.lost 16 16
  else if o = 0x7024 then put s.cnv.calState 0 2 + put s.cnv.calDone 2 8 + put s.cnv.calResult 10 4
  else if within 0x7100 0x72FF o then roCore s ((o - 0x7100) / 0x80) (o % 0x80)
  else if within 0x7C00 0x7DFF o then
    (if o % 8 = 0 then roResLo s ((o - 0x7C00) / 8) else tget 0 s.cnv.resHi ((o - 0x7C00) / 8))
  else 0

/-- STG_STATs (R285). -/
def roStgStat (s : State) (st : Nat) : Nat :=
  let x := s.stg st
  let up := if x.st = .unused then [] else s.healthy st
  x.st.code + (up.map fun k => put 1 (4 + k) 1).foldl (· + ·) 0 + put (b2n x.sat) 12 1 + put (b2n x.ovf) 13 1 +
    put x.fcause 14 4 + put x.consecHic 18 8 + put (b2n x.floored) 26 1 + put (b2n x.sus) 27 1

/-- The stage block (R285 to R287). -/
def roStg (s : State) (o : Nat) : Nat :=
  if o < 0x8200 then
    let st := (o - 0x8000) / 0x80
    let x := s.stg st
    let k := o % 0x80
    if k = 0x24 then roStgStat s st
    else if k = 0x28 then put x.sp 0 24
    else if k = 0x2C then put x.vset 0 24
    else if k = 0x30 then put x.slew 0 12
    else if k = 0x34 then sbits 24 x.u
    else if k = 0x38 then put x.hiccups 0 16 + put x.regTicks 16 16
    else if k = 0x3C then put x.vout 0 16 + put x.iout 16 16
    else if k = 0x40 then put (b2n x.pending) 1 1
    else 0
  else if within 0x8400 0x84FF o ∧ o % 8 = 4 then
    let p := (o - 0x8400) / 8
    let y := s.phase p
    sbits 16 y.trim + put y.limcnt 16 8 + put (b2n ((s.stg (p / 8)).dropped.testBit (p % 8))) 24 1 + put y.why 25 2
  else 0

/-- Members whose rails are unknown (R336). -/
def unknownMembers (s : State) : Nat :=
  if s.role ≠ 1 then 0
  else ((List.range 8).map fun m =>
    if m ≠ s.index && (s.cf 0x4008 12 5).testBit m && !(s.view (96 * m)).known then 2 ^ m else 0).foldl (· + ·) 0

/-- The Scaca block (R353). -/
def roSca (s : State) (o : Nat) : Nat :=
  let c := s.sca
  if o = 0x9000 then put (b2n c.cand) 12 1
  else if within 0x9010 0x904F o then
    let p := s.port ((o - 0x9010) / 16)
    if o % 16 = 0 then p.st + put (b2n p.rxInv) 3 1 + put p.peer 4 12 + put p.delay 16 16
    else if o % 16 = 4 then put p.hdrErr 0 16 + put p.discard 16 16
    else if o % 16 = 8 then put p.retrains 0 16
    else 0
  else if o = 0x9050 then
    put c.master 0 12 + put (b2n c.member) 12 1 + put (b2n c.isMaster) 13 1 + put c.refused 14 3 + put c.hops 17 13
  else if o = 0x9054 then put c.delay 0 21
  else if o = 0x905C then sbits 16 c.err + put (b2n c.aligned) 16 1 + put c.src 17 2
  else if o = 0x9074 then (if c.isMaster then put (s.rnode c.rsel).demand 0 16 + put (s.rnode c.rsel).floor 16 16 else 0)
  else if o = 0x9078 then
    let n := s.rnode c.rsel
    if c.isMaster then
      put n.cap 0 16 + put (b2n n.valid) 16 1 + put (b2n n.inloss) 17 1 + put n.level 18 3 + put n.domain 21 3
    else 0
  else if within 0x9080 0x9088 o then
    match c.rff with
    | none => 0
    | some f =>
      if o = 0x9080 then frLo f.ts.frame
      else if o = 0x9084 then frHi f.ts.frame + put f.ts.frac.toNat 16 8
      else put f.node 0 12 + put f.grail 12 10 + put f.kind 22 3 + put f.conc 25 4 + put (b2n f.unaligned) 29 1 + put 1 30 1
  else if o = 0x90A0 then
    put c.elected 0 3 + put c.rtt 4 11 + put (b2n c.ringOk) 15 1 + put (unknownMembers s) 24 8
  else 0

/-- The most erased sector: its count and its number, the lowest on a tie (R386). -/
def maxWear (s : State) : Nat × Nat := s.nv.wear.foldl (fun m p => if m.1 < p.2 then (p.2, p.1) else m) (0, 0)

/-- Whole seconds of a time in watch ticks, rounded up. -/
def ticksToSec (t : Nat) : Nat := cdiv t 15625

/-- The flash block (R386). -/
def roNv (s : State) (o : Nat) : Nat :=
  let n := s.nv
  if o = 0xA000 then
    b2n n.nvwp + put (b2n (!n.jobs.isEmpty || !n.erases.isEmpty)) 1 1 + put (b2n n.sweep) 2 1 + put (b2n n.prob.isSome) 3 1 +
      put (b2n n.revertDue) 4 1 + put (b2n n.armed) 5 1 + put (sat 0xFFFF n.torn) 16 16
  else if o = 0xA004 then n.gen.cur
  else if o = 0xA008 then n.gen.prev
  else if o = 0xA00C then n.gen.pend
  else if o = 0xA010 then put (match n.prob with | some t => ticksToSec t | none => 0) 0 12
  else if o = 0xA014 then put n.sweepPos 0 17
  else if o = 0xA018 then put n.weak 0 16 + put n.sweeps 16 16
  else if o = 0xA01C then put (maxWear s).1 0 17 + put (maxWear s).2 17 9
  else if o = 0xA020 then put (railList.filter fun i => !(s.rail i).delta.isEmpty).length 0 7 + put n.switches 16 16
  else if o = 0xA024 then Config.fuseId.toNat % 2 ^ 32
  else if o = 0xA028 then Config.fuseId.toNat / 2 ^ 32
  else 0

/-- Erased ordinary sectors, the reserve included (R397, R411). -/
def recErased (s : State) : Nat := 126 - s.recd.sects.length

/-- The recorder is full: no erased ordinary sector but the reserve (R397). -/
def recFull (s : State) : Bool := recErased s ≤ s.recd.reserve.length

/-- Records held in flash that readers take, by RNUM (R397, R399). -/
def heldSlots (s : State) : List RSlot :=
  s.recd.sects.flatMap fun p => match p.2 with | some x => x.slots.filter fun y => y.ok && !y.old | none => []

/-- The lowest RNUM held in flash or in the buffer; REC_NEXT where none is (log 22). -/
def recOldest (s : State) : Nat :=
  let l := (heldSlots s).map (fun x => x.img.rnum) ++ s.recd.buf.map (·.rnum) ++ s.recd.clears.map (·.rnum)
  match l with
  | [] => s.recd.next
  | a :: t => t.foldl min a

/-- Full and open ordinary sectors of a severity. -/
def sevSectors (s : State) (v : Nat) : Nat :=
  (s.recd.sects.filter fun p => match p.2 with | some x => x.sev = v | none => false).length

/-- The owner clear key in force (R405). -/
def clearKey (s : State) : Option (BitVec 256) :=
  match s.recd.key with
  | some k => some k
  | none => Config.clearKeyFuse

/-- The recorder block (R411). -/
def roRec (s : State) (o : Nat) : Nat :=
  let r := s.recd
  if o = 0xB000 + 4 * 0xCC then 1
  else if o = 0xB804 then
    b2n r.frozen + put (b2n r.flush) 1 1 + put (b2n r.erasing.isSome) 2 1 + put (b2n (recFull s)) 3 1 + put (b2n r.bufLost) 4 1 +
      put r.buf.length 6 10 + put (recErased s) 16 7 + put r.clears.length 23 7
  else if o = 0xB808 then r.ash
  else if o = 0xB80C then r.next
  else if o = 0xB810 then recOldest s
  else if o = 0xB814 then
    ([0, 1, 2, 3].map fun v => put (sevSectors s v) (8 * v) 8).foldl (· + ·) 0
  else if o = 0xB818 then put r.suppressed 0 16 + put r.highest 16 2
  else if o = 0xB81C then
    put r.fails 0 4 + put (b2n r.locked) 4 1 + put (b2n r.nonce.isSome) 5 1 + put (b2n (clearKey s).isSome) 6 1
  else 0

/-- VERSION of the staged or candidate image (R441). -/
def stagedVersion (s : State) : Nat :=
  match s.fw.sess with
  | some x => if 2 ≤ x.st then x.hdr.version else 0
  | none => if s.fw.state.phase = 0 then 0 else s.fw.state.candVersion

/-- The update block (R441). -/
def roFw (s : State) (o : Nat) : Nat :=
  let f := s.fw
  if o = 0xC000 then
    put f.state.phase 0 2 + put (b2n f.runBank) 2 1 + put (b2n f.state.prevValid) 3 1 + put f.state.damaged 4 2 +
      put (match f.sess with | some x => x.st | none => if f.h.isSome then 6 else if f.arming then 5 else 0) 6 3 +
      put (match f.left with | some t => ticksToSec t | none => 0) 20 12
  else if o = 0xC004 then f.run.version
  else if o = 0xC008 then (if f.state.prevValid then (match f.other with | some i => i.version | none => 0) else 0)
  else if o = 0xC00C then stagedVersion s
  else if o = 0xC010 then
    put f.run.svn 0 8 + put (max Config.svnFuse f.svnMin) 8 7 + put (b2n (Config.keyRevoked 0)) 15 1 + put (b2n (Config.keyRevoked 1)) 16 1
  else if o = 0xC014 then put (match f.sess with | some x => x.body.length | none => 0) 0 21
  else if o = 0xC018 then put f.lastStatus 0 8 + put f.lastCmd 8 8 + put f.refusals 16 16
  else if o = 0xC01C then frLo f.hover
  else if o = 0xC020 then f.hoverHi
  else if o = 0xC028 then put f.crcErr 0 16 + put f.discard 16 16
  else 0

/-- A word-code log entry as 128 bits (R30). -/
def wcBits (e : WcEntry) : Nat :=
  e.ts.frame.toNat + put e.ts.frac.toNat 48 8 + put e.struct 56 8 + put e.addr 64 17 + put e.bit 81 9 + put (b2n e.ue) 90 1 +
    put (b2n e.multi) 91 1

/-- The events block (R465 to R469, R31). -/
def roEvt (s : State) (o : Nat) : Nat :=
  if within 0xD000 0xD3FC o then (match fixedSev ((o - 0xD000) / 4) with | some v => v | none => 0)
  else if within 0xD400 0xD41C o then nbits s.evt.pend.toNat (8 * (o - 0xD400) + 31) (8 * (o - 0xD400))
  else if o = 0xD424 then (match s.evt.csel with | some n => n + 0x100 | none => 0)
  else if o = 0xD428 then (match s.evt.csel with | some n => tget 0 s.evt.counts n | none => 0)
  else if o = 0xD42C then put s.evt.held.length 0 9 + put (b2n !s.evt.held.isEmpty) 9 1
  else if within 0xD800 0xD80C o then
    (match s.wc.latch with | some e => nbits (wcBits e) (8 * (o - 0xD800) + 31) (8 * (o - 0xD800)) | none => 0)
  else if o = 0xD810 then put s.wc.log.length 0 5 + put s.wc.dropped 16 16
  else if within 0xD900 0xD9E4 o then
    (if o % 8 = 0 then tget 0 s.wc.ce ((o - 0xD900) / 8) else tget 0 s.wc.ue ((o - 0xD900) / 8))
  else 0

/-- The pair block (R354). -/
def roPair (s : State) (o : Nat) : Nat :=
  let p := s.pair
  if o = 0xE004 then
    p.role + put (b2n p.up) 2 1 + put (b2n p.ready) 3 1 + put (b2n p.xrstOut.isSome) 4 1 + put p.lastCause 10 4 + put p.takeovers 16 16
  else if o = 0xE008 then p.partner
  else if o = 0xE00C then put (sat 0xFFFF p.unacked.length) 0 16 + put p.enLoss 16 16
  else if o = 0xE010 then p.snap % 2 ^ 32
  else 0

/-- The bits of a word that are not RWS, by its offset (R463). -/
def roWord (s : State) (o : Nat) : Nat :=
  if o % 4 ≠ 0 then 0
  else if o < 0x1000 then roGlobal s o
  else if o < 0x2000 then roHost s o
  else if o < 0x3000 then roBank s 0 (o - 0x2000)
  else if o < 0x4000 then roBank s 1 (o - 0x3000)
  else if o < 0x5000 then roSeq s o
  else if o < 0x6000 then roFlt s o
  else if o < 0x7000 then roDrt s o
  else if o < 0x8000 then roCnv s o
  else if o < 0x9000 then roStg s o
  else if o < 0xA000 then roSca s o
  else if o < 0xB000 then roNv s o
  else if o < 0xC000 then roRec s o
  else if o < 0xD000 then roFw s o
  else if o < 0xE000 then roEvt s o
  else if o < 0xF000 then roPair s o
  else 0

/-- The calibration window shows an internal channel, whose coefficients are fixed (R248). -/
def internalCal (s : State) (o : Nat) : Bool :=
  within 0x7E00 0x7FFC o && 152 ≤ 64 * s.cnv.cblk + (o - 0x7E00) / 8

/-- The value of a calibration register (R236, R248): fuses for internal channels, 0 above channel 167. -/
def calWord (s : State) (o : Nat) : W32 :=
  let ch := 64 * s.cnv.cblk + (o - 0x7E00) / 8
  if 167 < ch then 0 else if o % 8 = 0 then s.calLo ch else s.calHi ch

/-- A BAR0 read of an aligned word, without what the read latches (R8, R10, R11). -/
def bar0Read (s : State) (o : Nat) : W32 :=
  if internalCal s o then calWord s o
  else s.bw (regKey s.cnv.cblk o) ||| BitVec.ofNat 32 (roWord s o)

/-! ## STATE_READ (R307) -/

/-- The 272 words of STATE_READ. -/
def stateWords (s : State) : List Nat :=
  [frLo s.clk.frame, frHi s.clk.frame, roSeqStatus s] ++ (List.range 64).map (roPstat s) ++ railList.map (roRstat s) ++
    railList.map (roFrstat s) ++ [0, 1, 2, 3].map (roStgStat s) ++
    [roFltStatus s, roDmpStat s, roDmpAcap s, roInlStat s, s.jrn.head % 2 ^ 32, s.jrn.head / 2 ^ 32, roLock s, 0, 0]

end Sys2Proof.Machine
end

