-- ==== Sys2Proof/Machine/Operands.lean ====
section
/-! DEFINITION. Machine/Operands.lean: descriptors as fetched and the operand forms of the host commands
(R298, R303, R305), and the checks that reject a descriptor (R299, R306). -/

namespace Sys2Proof.Machine

/-- Bits [hi:lo] of ARGS, numbered from bit 0 of byte 8 (R298). -/
def Desc.arg (d : Desc) (hi lo : Nat) : Nat := nbits d.args.toNat hi lo

/-- ADDR and LEN of a buffer command (R298). -/
def Desc.addr (d : Desc) : Nat := d.arg 63 0
def Desc.len (d : Desc) : Nat := d.arg 95 64

/-- ADDR is 32-byte aligned and LEN a multiple of 32 (R298). -/
def Desc.bufOk (d : Desc) : Bool := d.addr % 32 = 0 && d.len % 32 = 0

/-- The buffer's 64-bit words and its 4-byte words. -/
def Desc.words64 (d : Desc) : List Nat := (chunks 8 (d.buf.length / 8) d.buf).map leNat
def Desc.words32 (d : Desc) : List Nat := (chunks 4 (d.buf.length / 4) d.buf).map leNat

/-- A descriptor from its 64 bytes and what its buffer delivers (R296, R298). -/
def descOf (bytes buf : List Byte) (dmaOk : Bool) : Desc :=
  let h := leNat (slice bytes 0 8)
  { opcode := nbits h 7 0, expert := h.testBit 8, noirq := h.testBit 9, fence := h.testBit 10, early := h.testBit 11
    rsvd := nbits h 15 12 + 16 * nbits h 63 32, tag := nbits h 31 16
    args := BitVec.ofNat 448 (leNat (slice bytes 8 56)), buf := buf, dmaOk := dmaOk }

/-- Field [hi:lo] as a mask. -/
def mask (hi lo : Nat) : Nat := (2 ^ (hi + 1) - 2 ^ lo)

/-- ARGS bits that a command's layout uses, by opcode and form; none for an unknown opcode (R305). -/
def argMask (op : Nat) (x : Bool) : Option Nat :=
  if op = 0x00 ∨ op = 0x01 ∨ op = 0x02 ∨ op = 0x0B ∨ op = 0x0C ∨ op = 0x2B ∨ op = 0x2C ∨ op = 0x3A ∨ op = 0x40 then some 0
  else if op = 0x03 then some (mask 15 0)
  else if op = 0x04 then some (mask 5 0)
  else if op = 0x05 then some (mask 6 0)
  else if op = 0x06 then some (if x then mask 116 0 else mask 117 0 + mask 191 128)
  else if op = 0x07 then some (if x then mask 105 0 else mask 95 0)
  else if op = 0x08 then some (mask 63 0)
  else if op = 0x09 then some (mask 10 0)
  else if op = 0x0A then some (if x then mask 127 0 else mask 33 0)
  else if op = 0x10 then some (if x then mask 33 0 else mask 29 0)
  else if op = 0x11 ∨ op = 0x12 then some (mask 4 0)
  else if op = 0x13 then some (if x then mask 96 0 + mask 98 97 else mask 95 0 + mask 100 97)
  else if op = 0x18 then some (if x then mask 32 0 else mask 15 0)
  else if op = 0x20 then some (mask 1 0)
  else if op = 0x21 then some (mask 3 0)
  else if op = 0x22 then some (if x then mask 295 0 else mask 38 0)
  else if op = 0x28 ∨ op = 0x33 then some (mask 95 0)
  else if op = 0x29 then some (if x then mask 91 0 else mask 31 0)
  else if op = 0x2A then some (if x then mask 79 32 else 0)
  else if op = 0x30 then some (mask 172 0)
  else if op = 0x31 then some (mask 138 0)
  else if op = 0x32 then some (mask 109 0)
  else if op = 0x38 then some (mask 143 0)
  else if op = 0x39 then some (mask 0 0)
  else if op = 0x3B then some (mask 191 0)
  else if op = 0x3C ∨ op = 0x3D then some (mask 106 0)
  else none

/-- Opcodes a shadow takes (R305, R306). -/
def shadowOp (op : Nat) : Bool :=
  op = 0x00 || (0x30 ≤ op && op ≤ 0x33) || op = 0x38 || op = 0x3D

/-- Opcodes marked Master (R305). -/
def masterOp (op : Nat) : Bool :=
  (1 ≤ op && op ≤ 6) || op = 0x08 || op = 0x09 || op = 0x0A || op = 0x0C || (0x10 ≤ op && op ≤ 0x12) || op = 0x18

/-- The command reads its buffer, so its digest continues over it (R312). -/
def readsBuf (op : Nat) : Bool := op = 0x06 || op = 0x07 || op = 0x13 || op = 0x28 || op = 0x3C

/-- The argument digest (R312). -/
def digest (d : Desc) : Nat :=
  let a := crc64 (leBytes 56 d.args.toNat)
  if readsBuf d.opcode then crc64From a d.buf else a

/-- DESCRIPTOR_REJECT (R299, R306): the status of a rejection, none where the descriptor is accepted. -/
def rejects (s : State) (d : Desc) : Option Nat :=
  match argMask d.opcode d.expert with
  | none => some stBadOpcode
  | some m =>
    if d.rsvd ≠ 0 ∨ d.args.toNat &&& m ≠ d.args.toNat then some stBadHeader
    else if s.pair.role = 2 ∧ !shadowOp d.opcode then some stShadow
    else if s.role = 2 ∧ masterOp d.opcode then some stMember
    else none

end Sys2Proof.Machine
end

