-- ==== Sys2Proof/Machine/Link.lean ====
section
/-! DEFINITION. Machine/Link.lean: the Scaca ports, the row, the stack ring and the redundant pair (chapter 10). The
spec lays out the headers and the STATUS, CMD, PAIR_EN and JOURNAL payloads; the contents of the others come as the
command's operands (log 24). -/

namespace Sys2Proof.Machine

open Sys2Proof (LFrame SyncIn)

/-! ## Ports (R321 to R327) -/

/-- The configured role of a port: 0 unused (R321, R353). -/
def State.portRole (s : State) (p : Nat) : Nat :=
  if p = 0 then s.cf 0x9004 1 0 else if p = 1 then s.cf 0x9004 3 2 else if p = 2 then s.cf 0x9004 5 4 else b2n (s.cb 0x9004 6)

/-- Own node ID. -/
def State.node (s : State) : Nat := s.cf 0x9000 11 0

/-- The role a peer's port must have (R326). -/
def peerOk (p own peer : Nat) : Bool :=
  if p = 2 then (own = 1 && peer = 1) || (own = 2 && peer = 3) || (own = 3 && peer = 2) else own = 1 && peer = 1

/-- The group of a port: 1 row (branches reach the row), 2 stack, 3 pair, 0 unused. -/
def State.portGroup (s : State) (p : Nat) : Nat :=
  let r := s.portRole p
  if r = 0 then 0 else if p ≤ 1 then 1 else if p = 2 then (if r = 1 then 2 else 1) else 3

/-- A port of a group is UP. -/
def State.groupUp (s : State) (g : Nat) : Bool :=
  [0, 1, 2, 3].any fun p => s.portGroup p = g && (s.port p).st = 4

/-- DETAIL L. -/
def detPort (s : State) (p code : Nat) : BitVec 128 := detL p (s.port p).peer code ((s.port p).delay / 10)

/-- The part is refused membership for a cause (R328, R335, R341). -/
def refuse (p code : Nat) (s : State) : State :=
  if s.sca.refused = code then s
  else raise 0xA8 s.tsB (detPort s p code) { s with sca := { s.sca with refused := code, member := if p = 2 then s.sca.member else false } }

/-- The time source: the row master, the stack master or the pair's active part, where another node is it (R331). -/
def timeSource (s : State) : Nat :=
  if s.groupUp 1 && s.sca.member && !s.sca.isMaster then 1
  else if s.groupUp 2 && s.role = 2 then 2
  else if s.groupUp 3 && s.pair.role = 2 then 3
  else 0

/-- What hangs on a group follows its ports: row membership, the ring, the partner. -/
def groupStep (s : State) : State :=
  { s with
    sca := { s.sca with
      member := s.groupUp 1 && (s.sca.refused = 0 || s.sca.refused = 3) && s.role ≠ 2
      ringOk := (s.port 2).st = 4 && s.portGroup 2 = 2 && s.sca.refused ≠ 3 && !(s.sca.refused = 2 && s.role = 2)
      src := timeSource s, aligned := s.sca.aligned && timeSource s = s.sca.src && s.sca.src ≠ 0 }
    pair := { s.pair with up := s.pair.up && s.groupUp 3, ident := 3 ≤ (s.port 3).st } }

/-- PORT_SEEK (R326). -/
def portSeek (p : Nat) (s : State) : State :=
  if s.portRole p ≠ 0 && (s.port p).st = 0 then s.modPort p fun x => { x with st := 1, age := 0 } else s

/-- PORT_LOCK (R326): inverted commas turn the receiver's input over. -/
def portLock (p : Nat) (inv : Bool) (s : State) : State :=
  if (s.port p).st = 1 then s.modPort p fun x => { x with st := 2, age := 0, rxInv := inv } else s

/-- PORT_IDENT (R326). -/
def portIdent (p : Nat) (s : State) : State :=
  if (s.port p).st = 2 then groupStep (s.modPort p fun x => { x with st := 3, age := 0 }) else s

/-- PORT_RETRAIN (R327). -/
def portRetrain (p : Nat) (s : State) : State :=
  if (s.port p).st = 0 then s
  else
    let s := raise (0xA0 + p) s.tsB (detPort s p 0) s
    groupStep (s.modPort p fun x => { x with
      st := 0, age := 0, retrains := sat 0xFFFF (x.retrains + 1), delays := [], lost := 0, tickErr := 0, syncs := 0
      tx := [], txq := [] })

/-! ## Roles of a pair (R329, R346, R460) -/

/-- A held on request proceeds once neither the stack nor the pair is awaited (R459, R460). -/
def joinDone (s : State) : State :=
  if s.pwr.heldOn && s.sca.joinStack.isNone && s.sca.joinPair.isNone then
    if s.shadow then { s with pwr := { s.pwr with heldOn := false } }
    else onRequestNow { s with pwr := { s.pwr with heldOn := false } }
  else s

/-- The shadow keeps every stage in HELD, high impedance (R280). -/
def holdStages (s : State) : State :=
  each [0, 1, 2, 3] (fun st s => if (s.stg st).st = .unused then s else stageHalt st .held s) s

/-- The part takes a role of a pair. -/
def takeRole (r : Nat) (s : State) : State :=
  let s := { s with pair := { s.pair with role := r }, sca := { s.sca with joinPair := none } }
  let s := if r = 2 then holdStages { s with pair := { s.pair with ready := false, adopted := false } } else s
  joinDone s

/-- PORT_UP (R326): a compatible peer; otherwise the port stays in IDENT with the link-role event. Ring delay (R335),
a node's own ID heard (R328) and the roles of a pair (R329, R346) are settled here; `join`: the firmware of the two
halves lets them form a pair (R432). -/
def portUp (p peer role rtt delay : Nat) (sameRow active join : Bool) (s : State) : State :=
  if (s.port p).st ≠ 3 then s
  else
    let s := s.modPort p fun x => { x with peer := peer % 4096 }
    if !peerOk p (s.portRole p) role then raise (0xA4 + p) s.tsB (detPort s p 0) s
    else
      let s := s.modPort p fun x => { x with st := 4, age := 0, delay := sat 0xFFFF delay }
      let s := if s.portGroup p = 2 then { s with sca := { s.sca with rtt := sat 0x7FF rtt } } else s
      let s := if s.portGroup p = 2 && 1960 < rtt then refuse p 3 s else s
      let s := if sameRow && peer = s.node && s.portGroup p = 1 then refuse p 2 s else s
      let s := if s.portGroup p = 3 then
          let s := { s with pair := { s.pair with partner := peer % 4096 } }
          if s.cb 0xE000 0 && s.pair.role = 0 && join then takeRole (if active then 2 else if s.node < peer then 1 else 2) s else s
        else s
      groupStep s

/-! ## Reception (R325) -/

/-- A link frame is received on an UP port (a SYNC from IDENT on) and its contents are delivered to `k`, unless its
header CRC fails or its payload is uncorrectable (R25, R26, R27, R325); 64 such headers in a watch tick take the port down
(R327). -/
def receive (f : LFrame) (k : State → State) (s : State) : State :=
  let p := f.port
  if 3 < p || (s.port p).st < 3 then s
  else if !f.hdrOk then
    let s := s.modPort p fun x => { x with hdrErr := sat 0xFFFF (x.hdrErr + 1), tickErr := x.tickErr + 1 }
    if 64 ≤ (s.port p).tickErr && (s.port p).st = 4 then portRetrain p s else s
  else
    let a := (s.port p).rxCount
    let s := wcWritten (0x19 + p) a (s.modPort p fun x => { x with rxCount := (x.rxCount + 1) % 131072 })
    let o := wcDecode f.data f.chk
    let s := wordErr s.tsB (0x19 + p) a o s
    if o = .uncorrectable then s.modPort p fun x => { x with discard := sat 0xFFFF (x.discard + 1) } else k s

/-- The payload as delivered: a corrected bit is turned back (R23). -/
def payload (f : LFrame) : Nat := (wcData f.data (wcDecode f.data f.chk)).toNat

/-! ## Transmission (R322 to R324, R339, R340) -/

/-- A frame leaves a port in its slot, with the check bits of its payload (R22, R323). -/
def emitFrame (p : Nat) (f : LinkTx) (s : State) : State := emit (.frame p f (wcCheck f.payload)) s

/-- A frame formed by hardware goes in its own slot of the frame that starts (R324). -/
def sendNow (p kind : Nat) (dst : Option Nat) (v : Nat) (s : State) : State :=
  let r := linkFrameOf kind dst v s
  emitFrame p r.1 r.2

/-- A frame waits for a slot of its kind (R340). -/
def sendFrame (p kind : Nat) (dst : Option Nat) (v : Nat) (s : State) : State :=
  let r := linkFrameOf kind dst v s
  queueFrame p r.1 r.2

/-- The row ports in use, and the branch port. -/
def State.rowPorts (s : State) : List Nat := [0, 1, 2].filter fun p => s.portGroup p = 1 && (s.port p).st = 4

/-- A frame goes out on the row ports of a list (R339, R340). -/
def sendOn (l : List Nat) (f : LinkTx) (s : State) : State :=
  each l (fun p s => if f.urgent then urgentFrame p f s else queueFrame p f s) s

/-- A frame goes out on every row port; a stack member's goes to its master by RELAY (R324, R339, R342). -/
def sendRow (kind : Nat) (dst : Option Nat) (v : Nat) (s : State) : State :=
  if s.role = 2 then (if s.sca.ringOk then sendFrame 2 6 none v s else s)
  else
    let r := linkFrameOf kind dst v s
    sendOn r.2.rowPorts r.1 r.2

/-- A row frame goes on over the other row ports as it came, unless it is for this node alone or its own (R339). -/
def forwardRow (kind : Nat) (f : LFrame) (s : State) : State :=
  if s.portGroup f.port ≠ 1 || f.src = s.node || (!f.bcast && f.dst = s.node) then s
  else sendOn (s.rowPorts.filter (· ≠ f.port))
    { kind := kind, src := f.src, dst := if f.bcast then none else some f.dst, seq := f.seq, payload := BitVec.ofNat 256 (payload f) } s

/-- A copy of a row frame already taken is dropped: SRC, KIND and SEQ; another is taken and goes on (R339). -/
def once (kind : Nat) (f : LFrame) (k : State → State) (s : State) : State :=
  let key := (f.src, kind, f.seq)
  if s.sca.seen.contains key then s
  else
    let keep := s.sca.seen.filter fun x => !(x.1 = f.src && x.2.1 = kind)
    k (forwardRow kind f { s with sca := { s.sca with seen := keep ++ [key] } })

/-- Order in which the kinds take slots, first-in first-out within each (R324, R340). -/
def LinkTx.rank (f : LinkTx) : Nat :=
  if f.urgent then 0 else if f.kind ≤ 3 || f.kind = 6 then 1 else if f.kind = 13 then 2 else if f.kind = 14 then 3
  else if f.kind = 15 then 4 else if f.kind = 8 then 5 else 6

/-- The slots of a frame that the kinds of a rank share on a port: slot 0, on a stack ring only in this part's frames; slots
1 to 11 of a row; slots 2 to 7 and slot 2 of a pair (R324). -/
def rankSlots (s : State) (p : Nat) (f : LinkTx) : Nat :=
  if f.rank = 0 then 12
  else if f.rank = 1 then
    (if s.portGroup p ≠ 2 then 1
    else if f.kind = 6 then
      b2n (if s.now % 2 = 0 then s.role = 1 && s.now % 32 ≠ 0 else (s.now - 1) / 2 % 8 = s.index)
    else b2n (s.now % 32 = 0))
  else if f.rank ≤ 4 then 11
  else if f.rank = 5 then 6
  else 1

/-- Two frames compete for the same slots. -/
def sameSlots (a b : LinkTx) : Bool := a.rank = b.rank || (2 ≤ a.rank && a.rank ≤ 4 && 2 ≤ b.rank && b.rank ≤ 4)

/-- The frames that take the slots of the frame that starts, and those that go on waiting: 12 slots at most, each kind in its
own (R50, R324, R340). -/
def fillPort (p : Nat) (s : State) : State :=
  let order := (List.range 7).flatMap fun k => (s.port p).txq.filter fun f => f.rank = k
  let r := order.foldl (fun (r : List LinkTx × List LinkTx) f =>
    if r.1.length < 12 && (r.1.filter (sameSlots f)).length < rankSlots s p f then (r.1 ++ [f], r.2) else (r.1, r.2 ++ [f])) ([], [])
  s.modPort p fun x => { x with tx := r.1, txq := r.2 }

/-- The frames of the frame that ended have gone out; those of the one that starts are chosen. -/
def portSlots (p : Nat) (s : State) : State :=
  if (s.port p).tx.isEmpty && (s.port p).txq.isEmpty then s
  else if (s.port p).st ≠ 4 then s.modPort p fun x => { x with tx := [], txq := [] }
  else fillPort p (each (s.port p).tx (emitFrame p) s)

/-! ## Time and frame numbers (R41, R331 to R334) -/

/-- The port's group is the time source in use (R331). -/
def isSource (s : State) (p : Nat) : Bool := s.portGroup p = s.sca.src && s.sca.src ≠ 0

/-- ALIGNED (R333, R444): 8 ns + 20 ps for each hop is at most 50 ns, the filter is locked, 64 exchanges made. -/
def alignedNow (s : State) (p hops : Nat) (lock : Bool) : Bool :=
  lock && hops ≤ 2100 && (s.port p).syncs = 64 && !s.pwr.fallback

/-- The frame numbers of two nodes that meet (R334): one that is behind the elected node loads forward at the next
boundary; an elected node that finds a joiner ahead names a boundary 4 watch ticks on; before an election the lead of the
highest counter heard is kept. -/
def agreeFrame (x : SyncIn) (s : State) : State :=
  let f := s.clk.frame
  if frameBefore f x.frame then
    if x.master then { s with clk := { s.clk with load := some (f + 1, x.frame + 1) } }
    else if s.sca.isMaster || s.sca.stkMaster || s.pair.role = 1 then
      { s with clk := { s.clk with load := some (f + 128, x.frame + 128) } }
    else { s with sca := { s.sca with ahead := max s.sca.ahead (x.frame - f).toNat } }
  else s

/-- A SYNC with this node's own ID is another node's: on a row, unless it is this master's own come back; on a stack ring, at
a member (R328, R339). -/
def ownHeard (s : State) (p : Nat) (master : Bool) : Bool :=
  (s.portGroup p = 1 && !(master && s.sca.isMaster)) || (s.portGroup p = 2 && s.role = 2)

/-- SYNC_FRAME (R328, R332, R333, R341): the hop delay, the alignment error, the delay from the row master. -/
def syncFrame (x : SyncIn) (s : State) : State :=
  receive x.f (fun s =>
    let p := x.f.port
    let asym := (sext 8 (s.cf (0x901C + 16 * p) 7 0)).tdiv 10
    let hop := max 0 (((x.rtt - x.turn : Nat) : Int) / 2 + asym)
    let s := s.modPort p fun y =>
      let l := (hop.toNat :: y.delays).take 64
      { y with delays := l, delay := sat 0xFFFF (l.foldl (· + ·) 0 / l.length), syncs := sat 64 (y.syncs + 1), lost := 0 }
    let s := if x.f.src = s.node && ownHeard s p x.master then refuse p 2 s else s
    let s := if isSource s p && x.good then
        let al := alignedNow s p x.hops x.lock
        { s with clk := { s.clk with alignErr := x.err },
                 sca := { s.sca with err := clampI (-32768) 32767 (x.err.fdiv 100), aligned := al, hops := x.hops % 8192 } }
      else s
    let s := if s.portGroup p = 1 && x.master then
        let d := x.corr + (s.port p).delay / 10
        let bound := 1000 * orDef (s.cf 0x9058 11 0) 2000
        let s := { s with sca := { s.sca with syncAge := 0, delay := sat 0x1FFFFF d } }
        if bound < d then refuse p 1 s
        else if s.sca.refused = 1 then groupStep { s with sca := { s.sca with refused := 0 } } else s
      else s
    agreeFrame x s) s

/-- The slew of the frame boundary towards the source: at most 1 ns in a frame (R332). -/
def slewClock (s : State) : State :=
  let d := clampI (-1000) 1000 s.clk.alignErr
  { s with clk := { s.clk with phase := s.clk.phase + d, alignErr := s.clk.alignErr - d } }

/-- FRAME_COUNTER_LOAD at its boundary (R41, R334): forward only, with its event and journal entry. -/
def loadFrame (v : Frame) (s : State) : State :=
  let old := s.clk.frame
  if frameBefore old v then
    let s := shiftGrid (8 * (v - old).toNat) { s with clk := { s.clk with frame := v, load := none }, sca := { s.sca with ahead := 0 } }
    jInternal 0x82 2 old.toNat 0 false (raise 0x12 s.tsB (detF (old.toNat % 2 ^ 32) 0 0) s)
  else { s with clk := { s.clk with load := none } }

/-! ## Election (R328 to R330) -/

/-- The candidate ID an ELECT carries (log 24). -/
def electId (f : LFrame) : Nat := payload f % 4096

/-- ELECT_FRAME (R329): only a lower candidate is held and forwarded; the own ID coming back is noted. -/
def electFrame (f : LFrame) (s : State) : State :=
  receive f (fun s =>
    let c := electId f
    let lower (h : Option Nat) : Bool := match h with | some x => c < x | none => true
    if s.portGroup f.port = 1 then
      if c = s.node && s.sca.cand then { s with sca := { s.sca with rowBack := true } }
      else if lower s.sca.rowElect then
        forwardRow 2 f { s with sca := { s.sca with rowElect := some c, rowTicks := 0, rowBack := false } }
      else s
    else if s.portGroup f.port = 2 then
      if c = s.node && s.cf 0x4008 1 0 = 1 then { s with sca := { s.sca with stkBack := true } }
      else if lower s.sca.stkElect then
        sendFrame 2 2 none c { s with sca := { s.sca with stkElect := some c, stkTicks := 0, stkBack := false } }
      else s
    else s) s

/-- At formation the elected node loads the highest counter heard from any node of the group (R334). -/
def formCount (s : State) : State :=
  if s.sca.ahead = 0 then s
  else { s with clk := { s.clk with load := some (s.clk.frame + 1, s.clk.frame + 1 + BitVec.ofNat 48 s.sca.ahead) } }

/-- ELECTION_WIN (R329, R334): the part announces itself in a MEMBER frame. -/
def electionWin (row : Bool) (s : State) : State :=
  if row then
    if s.sca.cand && s.groupUp 1 then
      formCount <| sendRow 3 none s.node { s with sca := { s.sca with
        isMaster := true, hasMaster := true, master := s.node, rowElect := some s.node, rowTicks := 4, syncAge := 0, holdLeft := none } }
    else s
  else if s.cf 0x4008 1 0 = 1 && s.groupUp 2 then
    formCount <| sendFrame 2 3 none (s.node + put s.index 12 3) { s with sca := { s.sca with
      stkMaster := true, stkMember := false, elected := s.index, stkElect := some s.node, stkTicks := 4 } }
  else s

/-- MEMBER_FRAME (R329): the elected node of the group is recorded. -/
def memberFrame (f : LFrame) (s : State) : State :=
  receive f (fun s =>
    if s.portGroup f.port = 1 then
      once 3 f (fun s => { s with sca := { s.sca with
        master := f.src, hasMaster := true, isMaster := f.src = s.node, syncAge := 0, holdLeft := none } }) s
    else if s.portGroup f.port = 2 then
      { s with sca := { s.sca with
        elected := nbits (payload f) 14 12, stkMaster := f.src = s.node, stkMember := f.src ≠ s.node } }
    else s) s

/-- Each candidate sends the lowest candidate ID it has heard, at first its own, in every SYNC opportunity (R329). -/
def electSend (s : State) : State :=
  let s := if s.sca.cand && s.groupUp 1 then sendRow 2 none (min s.node (s.sca.rowElect.getD s.node)) s else s
  if s.cf 0x4008 1 0 = 1 && s.groupUp 2 then sendFrame 2 2 none (min s.node (s.sca.stkElect.getD s.node)) s else s

/-- ROW_MASTER_LOSS (R330, R343): the row election starts again and the last cap is held for HOLD watch ticks. -/
def rowMasterLoss (s : State) : State :=
  if s.sca.hasMaster && !s.sca.isMaster then
    raise 0xA9 s.tsB (detL 0 s.sca.master 0 s.sca.delay) { s with sca := { s.sca with
      hasMaster := false, aligned := if s.sca.src = 1 then false else s.sca.aligned
      rowElect := if s.sca.cand then some s.node else none, rowTicks := 0, rowBack := false
      holdLeft := some (s.cf 0x9058 19 12) } }
  else s

/-- ROW_CAP_HOLD_EXPIRY (R343). -/
def rowHoldEnd (s : State) : State :=
  if s.sca.holdLeft.isSome then
    { s with sca := { s.sca with holdLeft := none }, dmp := { s.dmp with rowCap := some (s.cf 0x9064 15 0) } }
  else s

/-! ## The stack ring (R336, R337, R124 to R130) -/

/-- A record of a STATUS payload: rail and view (R336). -/
def statusRec (v k : Nat) : Nat × View :=
  let w := nbits v (36 + 20 * k + 19) (36 + 20 * k)
  (nbits w 6 0, { st := nbits w 9 7, db := w.testBit 10, pred := w.testBit 11, gt := nbits w 19 12, known := true })

/-- The off request a STATUS carries waits for order 3 at the master (R96, R128). -/
def statusOff (v : Nat) (s : State) : State :=
  if s.role ≠ 1 || !v.testBit 24 then s
  else { s with sca := { s.sca with stReqs := s.sca.stReqs ++ [(v.testBit 25, nbits v 29 26, v.testBit 30)] } }

/-- The master extends its run to the whole stack for a member's request (R116, R128, R157). -/
def memberOff (r : Bool × Nat × Bool) (s : State) : State :=
  if r.2.2 then sysReaction s
  else if r.1 then offRelay true 0 false (offRequest 1 true 0 s)
  else groupReaction (2 ^ r.2.1) s

/-- The commitment of another member's rail ends as its status shows it stable, or no longer raised (R179, R336). -/
def viewCommit (g : Nat) (old new : View) (s : State) : State :=
  let live (v : View) : Bool := v.st = 2 || v.st = 3
  if s.role ≠ 1 || g / 96 = s.index then s
  else
    let s := if (live old && !live new) || (new.db && orDef (s.cf 0x6000 19 12) 1 ≤ new.gt) then commitEnd (.rail g) s else s
    if old.st = 3 && new.st ≠ 3 then commitEnd (.margin g) s else s

/-- STATUS_FRAME of member `m` (R336): its records enter the view; BACKLOG makes its rails unknown while it is set. -/
def statusFrame (f : LFrame) (m : Nat) (s : State) : State :=
  receive f (fun s =>
    if s.portGroup f.port ≠ 2 || 7 < m then s
    else
      let v := payload f
      let back := v.testBit 4
      let s := each (List.range (min 11 (nbits v 3 0))) (fun k s =>
        let r := statusRec v k
        let g := 96 * m + r.1
        if r.1 < 96 then
          viewCommit g (s.view g) r.2 (s.modView g fun x => { r.2 with tickGood := x.tickGood && r.2.db })
        else s) s
      let b := 2 ^ m
      let clr (n : Nat) : Nat := if n.testBit m then n - b else n
      let s := { s with
        sca := { s.sca with
          backlog := if back then s.sca.backlog ||| b else clr s.sca.backlog
          stGot := s.sca.stGot ||| b
          joined := s.sca.joined ||| b
          lostMembers := if s.role = 1 && v.testBit 6 then s.sca.lostMembers ||| b else s.sca.lostMembers
          stkAge := if m = s.sca.elected then 0 else s.sca.stkAge }
        drt := { s.drt with memberTherm := tset none s.drt.memberTherm m (some (nbits v 23 8)) }
        off := { s.off with syncGot := if v.testBit 5 && !s.off.syncGot.contains m then s.off.syncGot ++ [m] else s.off.syncGot }
        pair := { s.pair with partnerLost := s.pair.partnerLost || (s.role = 1 && v.testBit 7) } }
      let need := s.cf 0x4008 12 5
      let s := if s.role = 1 && s.sca.joinStack.isSome && s.sca.ringOk && (s.sca.joined ||| 2 ^ s.index) &&& need = need then
          joinDone { s with sca := { s.sca with joinStack := none } }
        else s
      statusOff v s) s

/-- The records of a CMD payload from its units, at most `fuel` (R337). -/
def cmdRecords : Nat → List Nat → List CmdRec
  | 0, _ => []
  | _, [] => []
  | n + 1, u :: l =>
    let m := nbits u 6 4
    let r := nbits u 13 7
    let t := nbits u 3 0
    let a := l.getD 0 0
    if t = 1 then .enAssert m r :: cmdRecords n l
    else if t = 2 then .enRelease m r :: cmdRecords n l
    else if t = 3 then
      let w := a + put (l.getD 1 0) 16 16 + put (l.getD 2 0) 32 16
      let x := put (l.getD 3 0) 16 16 + put (l.getD 4 0) 32 16 + put (l.getD 5 0) 48 10
      if w.testBit 44 then .margin m r w x :: cmdRecords n (l.drop 6) else .margin m r w 0 :: cmdRecords n (l.drop 3)
    else if t = 4 then .stageStart m r a (nbits (l.getD 1 0) 11 0) :: cmdRecords n (l.drop 2)
    else if t = 5 then .offRun m (r.testBit 0) a :: cmdRecords n (l.drop 1)
    else if t = 6 then .sysrst m :: cmdRecords n l
    else if t = 7 then .takeover m :: cmdRecords n l
    else []

/-- The member a record is for. -/
def CmdRec.dest : CmdRec → Nat
  | .enAssert m _ => m
  | .enRelease m _ => m
  | .margin m _ _ _ => m
  | .stageStart m _ _ _ => m
  | .offRun m _ _ => m
  | .sysrst m => m
  | .takeover m => m

/-- CMD_FRAME (R337): the records of this member wait for order 7 of their boundary: the new section's for the
boundary after the next, the repeat's, unless already held, for the next. -/
def cmdFrame (f : LFrame) (s : State) : State :=
  receive f (fun s =>
    if s.role ≠ 2 || s.sca.alone then s
    else
      let v := payload f
      let units := (List.range (nbits v 4 1)).map fun k => nbits v (16 + 16 * k + 15) (16 + 16 * k)
      let left := if v.testBit 0 then 1 else 2
      let recs := (cmdRecords 15 units).filter fun r => r.dest = s.index
      let new := recs.filter fun r => !(left = 1 && s.sca.rx.contains (1, r))
      let l := s.sca.rx ++ new.map fun r => (left, r)
      { s with sca := { s.sca with rx := l } }) s

/-- A margin record as a margin of this part, already granted by the master (R103, R337). -/
def recMargin (s : State) (r w ext : Nat) : MOp :=
  marginOf .none (put 6 58 6 + put (s.grail r) 48 10 + nbits w 47 0) ext { granted := true }

/-- The figures a member starts a rail with: those of the first ENABLE of it in its own on-table (R109, R146, log 88). -/
def memberFig (s : State) (r : Nat) : Fig :=
  match s.seq.onTable.find? fun p => 768 ≤ p.1 && opOf p.2 = 2 && nbits p.2 57 48 = s.grail r with
  | some p => enFig p.2
  | none => {}

/-- EN assert on a rail of this member, be it for an ENABLE, a resume or a retry: a higher rank discards it; it waits for
MIN_OFF and for a margin's return (R18, R74, R89, R109, R146, R148). -/
def memberAssert (c : CmdRec) (r : Nat) (s : State) : State :=
  let x := s.rail r
  if s.flt.wdtHold || inRun s r then s
  else if x.st = .faulted then
    (if x.retry.isSome then applyRetry r (s.modRail r fun x => { x with retry := x.retry.map fun k => { k with granted := true } }) else s)
  else if x.st ≠ .off then s
  else if !minOffMet s r || x.marginHold then { s with sca := { s.sca with rx := s.sca.rx ++ [(1, c)] } }
  else startRail r (memberFig s r) (s.modRail r fun x => { x with retryCnt := 0, escalated := false, resume := none })

/-- EN release on a rail of this member, discarded under a higher rank (R18). -/
def memberRelease (r : Nat) (s : State) : State :=
  let x := s.rail r
  if inRun s r || s.pwr.xrst || s.flt.wdtHold || (x.st = .faulted && x.rest = 0) then s
  else if x.st = .faulted then cancelRetry r s
  else releaseRail r s

/-- A command record is applied: runs and SYSRST# at order 3, the rest at order 7 (R96, R125, R337); a takeover has been acted
on with the pair's losses (`namedStep`). -/
def applyRec (c : CmdRec) (s : State) : State :=
  match c with
  | .enAssert _ r => if r < 96 then memberAssert c r s else s
  | .enRelease _ r => if r < 96 then memberRelease r s else s
  | .margin _ r w x =>
    let m := recMargin s r w x
    marginGo m.rail { s with seq := { s.seq with margins := s.seq.margins ++ [m] } }
  | .stageStart _ st v sl => if st < 4 then startStage st v sl .none false s else s
  | .offRun _ full g => offRequest 3 full g s
  | .sysrst _ => assertSysrst s
  | .takeover _ => s

/-- The record acts at order 3. -/
def CmdRec.atThree : CmdRec → Bool
  | .offRun _ _ _ => true
  | .sysrst _ => true
  | .takeover _ => true
  | _ => false

/-- Order 3: the master's runs at a member, and the members' requests at the master (R96, R127, R128, R157). -/
def stackOff (s : State) : State :=
  if s.role = 1 then
    let l := s.sca.stReqs
    each l memberOff { s with sca := { s.sca with stReqs := [] } }
  else if s.role = 2 && !s.sca.alone then
    let due := (s.sca.rx.filter fun x => x.1 ≤ 1 && x.2.atThree).map (·.2)
    each due applyRec { s with sca := { s.sca with rx := s.sca.rx.filter fun x => !(x.1 ≤ 1 && x.2.atThree) } }
  else s

/-- Received records advance by a boundary; those due are applied (R337). A member that acts alone applies none (R130). -/
def applyRx (s : State) : State :=
  let due := (s.sca.rx.filter fun x => x.1 ≤ 1).map (·.2)
  let rest := (s.sca.rx.filter fun x => 1 < x.1).map fun x => (x.1 - 1, x.2)
  let s := { s with sca := { s.sca with rx := rest } }
  if s.sca.alone then s else each due applyRec s

/-- STACK_COMMAND_LOSS (R337). -/
def commandLoss (s : State) : State :=
  if s.role = 2 then raise 0xAC s.tsB (detL 2 s.node 0 0) { s with sca := { s.sca with cmdLoss := 32 } } else s

/-- STACK_MEMBER_LOSS (R130): a member without status from its master acts alone; the master loses a member. -/
def memberLoss (m : Nat) (s : State) : State :=
  if s.role = 2 then
    let s := raise 0x42 s.tsB (detQ 0 0 0 0 0 0 s.sca.elected) { s with sca := { s.sca with alone := true, rx := [] } }
    if s.cb 0x4008 13 then offRelay true 0 false (offRequest 1 true 0 s) else s
  else if s.role = 1 && m < 8 && m ≠ s.index then
    raise 0x42 s.tsB (detQ 0 0 0 0 0 0 m) { s with sca := { s.sca with lostMembers := s.sca.lostMembers ||| 2 ^ m } }
  else s

/-- STACK_JOIN_TIMEOUT at the master (R459): the members still missing are lost. -/
def stackJoinEnd (s : State) : State :=
  if s.role = 1 && s.sca.joinStack.isSome then
    let miss := (List.range 8).filter fun m => (s.cf 0x4008 12 5).testBit m && m ≠ s.index && !s.sca.joined.testBit m
    let lost := (miss.map fun m => 2 ^ m).foldl (· + ·) 0
    let s := { s with sca := { s.sca with joinStack := none, lostMembers := s.sca.lostMembers ||| lost } }
    joinDone (raise 0xB0 s.tsB (detQ 0 0 0 0 0 0 (miss.headD 0)) s)
  else s

/-! ## The row (R339 to R344) -/

/-- FLOOR of a tray: the PRED of damper level 7 (R342). -/
def rowFloor (s : State) : Nat := fld (lvlLo s 7) 15 0

/-- A ROWSTAT's contents in the order of R342 (log 24). -/
def rowstatBits (s : State) : Nat :=
  put s.dmp.trayP 0 16 + put (rowFloor s) 16 16 + put (b2n s.inl.loss) 32 1 + put (b2n s.inl.ready) 33 1 + put s.dmp.level 34 3 +
    put s.seq.domain.code 37 3

/-- The cap of a node with demand d and floor f (R342). -/
def rowCap (b n sumD sumF d f : Nat) : Nat :=
  if b = 0 then 0
  else if sumD ≤ b then d + (b - sumD) / n
  else if sumF ≤ b then (f : Int).toNat + (((b - sumF : Nat) : Int) * ((d : Int) - f)).fdiv ((sumD : Int) - sumF) |>.toNat
  else f

/-- The nodes with a ROWSTAT. -/
def rowNodes (s : State) : List (Nat × RNode) := s.sca.nodes.filter fun p => p.2.valid

/-- The row master sends each member its cap (R342). -/
def rowCaps (s : State) : State :=
  let s := s.modRnode s.node fun n => { n with
    demand := s.dmp.trayP, floor := rowFloor s, valid := true, inloss := s.inl.loss, ready := s.inl.ready, level := s.dmp.level
    domain := s.seq.domain.code }
  let b := (s.cw 0x9060).toNat
  let l := rowNodes s
  let sumD := (l.map fun p => p.2.demand).foldl (· + ·) 0
  let sumF := (l.map fun p => p.2.floor).foldl (· + ·) 0
  let s := each l (fun p s =>
    let c := sat 0xFFFF (rowCap b l.length sumD sumF p.2.demand p.2.floor)
    let s := s.modRnode p.1 fun n => { n with cap := c }
    if p.1 = s.node then { s with dmp := { s.dmp with rowCap := some c } } else sendRow 11 (some p.1) c s) s
  if 0 < b && b < sumF then
    raise 0xAA (s.tsB) (detP 0 s.drt.pMeas (sat 0xFFFF b) s.dmp.level 0 0) s
  else s

/-- ROW_EXCHANGE: T2.3 (R53, R342); a stack member's ROWSTAT goes by RELAY (R324). -/
def rowTask (s : State) : State :=
  let s := if s.sca.isMaster && s.tickStart then rowCaps s else s
  if (s.sca.member || s.role = 2) && !s.sca.isMaster && s.tickPhase = 8 then sendRow 13 (some s.sca.master) (rowstatBits s) s else s

/-- ROWSTAT_FRAME (R342). -/
def rowstatFrame (f : LFrame) (demand floor : Nat) (inloss ready : Bool) (level domain : Nat) (s : State) : State :=
  receive f (once 13 f fun s =>
    if s.sca.isMaster then
      s.modRnode f.src fun n => { n with
        demand := demand % 65536, floor := floor % 65536, valid := true, inloss := inloss, ready := ready, level := level % 8
        domain := domain % 8 }
    else s) s

/-- CAP_FRAME (R341, R342): a refused node accepts none. -/
def capFrame (f : LFrame) (cap : Nat) (s : State) : State :=
  receive f (once 11 f fun s =>
    if (f.bcast || f.dst = s.node) && s.sca.member && s.sca.refused = 0 then
      { s with dmp := { s.dmp with rowCap := some (cap % 65536) }, sca := { s.sca with holdLeft := none } }
    else s) s

/-- FAULT_FRAME (R344). -/
def faultFrame (f : LFrame) (ts : Ts) (node grail kind : Nat) (aligned : Bool) (s : State) : State :=
  receive f (once 12 f (rowFirst { ts := ts, node := node % 4096, grail := grail % 1024, kind := kind % 8, unaligned := !aligned })) s

/-- FAULT_BROADCAST of the capture held (R342). -/
def faultBroadcast (s : State) : State :=
  match s.flt.ff with
  | some c =>
    if s.sca.bcast = 0 then s
    else
      let r := ownRff s c.f
      let v := put r.ts.frame.toNat 0 48 + put r.ts.frac.toNat 48 8 + put r.node 56 12 + put r.grail 68 10 + put r.kind 78 3 +
        put (b2n !r.unaligned) 81 1
      sendRow 12 none v { s with sca := { s.sca with bcast := s.sca.bcast - 1 } }
  | none => s

/-- EVENT_FRAME at the row master: the row-event source at the carried severity (R342, R482). -/
def eventFrame (f : LFrame) (o : Occ) (s : State) : State :=
  receive f (once 14 f fun s => if s.sca.isMaster then raiseSev 0xAB o.sev s.tsB (detW f.src o.src o.sev o.detail) s else s) s

/-- The events marked for the row are sent to its master (R342, R482). -/
def sendEvents (s : State) : State :=
  each s.evt.row (fun o s => sendRow 14 (some s.sca.master) (put o.src 0 8 + put o.sev 8 2 + put o.detail.toNat 16 128) s)
    { s with evt := { s.evt with row := [] } }

/-! ## The redundant pair (R345 to R351) -/

/-- The PAIR rails. -/
def pairRails (s : State) : List Nat := railList.filter fun i => (s.rail i).used && s.isPairRail i

/-- The vector of this boundary, formed at the active part (R345). -/
def formVector (s : State) : State :=
  let v := BitVec.ofNat 96 (((pairRails s).map fun i => put (b2n (s.rail i).en) i 1).foldl (· + ·) 0)
  { s with pair := { s.pair with formed := v, formedPrev := s.pair.formed } }

/-- The PAIR_EN payload (R346): the active sends V(b), the shadow its applied vector. -/
def pairEnBits (s : State) : Nat :=
  let p := s.pair
  (if p.role = 2 then p.vec else p.formed).toNat + put p.formedPrev.toNat 96 96 + put p.ownHb 192 8 + put p.role 200 2 +
    put (b2n p.ready) 202 1

/-- PAIR_EN_FRAME (R346): V(b) waits for order 7 of the boundary into frame b + 2, the copy of V(b - 1) stands in for
one that was lost; the partner's heartbeat, role and readiness are taken. -/
def pairEnFrame (f : LFrame) (s : State) : State :=
  receive f (fun s =>
    if s.portGroup f.port ≠ 3 then s
    else
      let v := payload f
      let s := if nbits v 201 200 = 1 && s.pair.role = 0 && s.cb 0xE000 0 then takeRole 2 s else s
      let p := s.pair
      let l := if p.vecs.any fun x => x.1 = 1 then p.vecs else p.vecs ++ [(1, BitVec.ofNat 96 (nbits v 191 96))]
      let l := (l.filter fun x => x.1 ≠ 2) ++ [(2, BitVec.ofNat 96 (nbits v 95 0))]
      { s with pair := { p with
        got := true, miss := 0, up := true, hbMiss := nbits v 199 192, partnerReady := v.testBit 202
        vecs := if p.role = 2 then l else [] } }) s

/-- The shadow drives its PAIR balls from the vector due at this boundary; without one it holds the last (R345, R346). -/
def applyVector (s : State) : State :=
  if s.pair.role ≠ 2 then s
  else
    let due := s.pair.vecs.find? fun x => x.1 = 1
    let l := (s.pair.vecs.filter fun x => 1 < x.1).map fun x => (x.1 - 1, x.2)
    let s := { s with pair := { s.pair with vecs := l } }
    match due with
    | some x =>
      let s := { s with pair := { s.pair with vec := x.2 } }
      each (pairRails s) (fun i s =>
        let b := x.2.getLsbD i
        let r := s.rail i
        if b && (r.st = .off || r.st = .releasing || r.st = .faulted) then
          setRState i .ramping (driveEn i true (s.modRail i fun r => { r with en := true }))
        else if !b && r.st.live then
          let s := driveEn i false (s.modRail i fun r => { r with en := false })
          setRState i (if r.db then .releasing else .off) s
        else s) s
    | none =>
      let s := { s with pair := { s.pair with enLoss := sat 0xFFFF (s.pair.enLoss + 1) } }
      if s.pair.lossTick then s
      else raise 0xAF s.tsB (detPort s 3 s.pair.lastCause) { s with pair := { s.pair with lossTick := true } }

/-- LOSS_FR and HB_FR in force, clamped (R347). -/
def lossFr (s : State) : Nat := max 8 (min 48 (s.cf 0xE000 6 1))
def hbFr (s : State) : Nat := min (s.cf 0xE000 14 7) (s.cf 0x560C 7 0 - 2)

/-- The frames of the pair at a boundary: frames without a valid PAIR_EN, the own count of missed services. -/
def pairCount (s : State) : State :=
  if s.pair.role = 0 then s
  else
    let hb := ([0, 1, 2, 3, 4, 5, 6, 7].filter (isTray s)).foldl (fun m e => max m (s.eng e).miss) 0
    { s with pair := { s.pair with
      miss := if s.pair.got then 0 else s.pair.miss + 1, got := false, ownHb := sat 255 hb, up := s.pair.up && s.pair.miss < 2 * lossFr s } }

/-- XRST_OUT# is asserted for XRST_TICKS watch ticks, with the partner-reset event (R347, R352). -/
def assertXrst (s : State) : State :=
  raise 0xAE s.tsB (detPort s 3 s.pair.lastCause)
    { s with pair := { s.pair with xrstOut := some (orDef (s.cf 0xE000 22 15) 1) } }

/-- One item of the snapshot adopted is resumed from (R351). -/
def resumeItem (it : SnapItem) (s : State) : State :=
  match it with
  | .prog n p => s.modProg n fun _ => p
  | .domain d o => { s with seq := { s.seq with domain := d, onPending := o } }
  | .off o => { s with off := { o with table := s.off.table } }
  | .rail r rc bo rp es res ret fig => s.modRail r fun x => { x with
      st := if rp && (x.st = .off || x.st = .releasing) then .faulted else x.st
      retryCnt := rc, backoff := bo, retryPend := rp, escalated := es, fig := fig
      resume := res.map fun c => { c with pushed := false }, retry := ret.map fun c => { c with pushed := false } }
  | .grp n g => s.modGrp n fun _ => g
  | .restart ow l c ex sr rl => { s with flt := { s.flt with
      restartOwed := ow, restartLeft := l, restarts := c, restartExh := ex, sysrst := sr, rstLeft := rl } }
  | .ledger i p t d c => { s with drt := { s.drt with inrush := i, power := p, thermal := t, debt := d, commits := c } }
  | .damper l c => { s with dmp := { s.dmp with level := l, rowCap := c } }
  | .trim n v => s.modRect n fun r => { r with trim := v }
  | .stage st t sl dr ch run =>
    if (s.stg st).st = .unused then s
    else
      let s := s.modStg st fun x => { x with st := .off, slew := sl, dropped := dr, consecHic := ch, target := t, vset := t }
      if run then kindle st s else s

/-- The snapshot of the part as at this boundary (R349). -/
def snapItems (s : State) : List SnapItem :=
  (s.running.map fun n => .prog n (s.prog n)) ++ [.domain s.seq.domain s.seq.onPending, .off { s.off with table := [] }] ++
    ((railList.filter fun i => (s.rail i).used).map fun i =>
      let r := s.rail i
      .rail i r.retryCnt r.backoff r.retryPend r.escalated r.resume r.retry r.fig) ++
    (s.flt.grps.map fun p => .grp p.1 p.2) ++
    [.restart s.flt.restartOwed s.flt.restartLeft s.flt.restarts s.flt.restartExh s.flt.sysrst s.flt.rstLeft,
     .ledger s.drt.inrush s.drt.power s.drt.thermal s.drt.debt s.drt.commits, .damper s.dmp.level s.dmp.rowCap] ++
    (s.shr.rects.map fun p => .trim p.1 p.2.trim) ++
    ((([0, 1, 2, 3] : List Nat).filter fun st => (s.stg st).st ≠ .unused).map fun st =>
      let x := s.stg st
      .stage st x.target x.slew x.dropped x.consecHic x.st.running)

/-- The active part takes and sends a snapshot (R349). -/
def sendSnapshot (s : State) : State :=
  if s.pair.role = 1 && s.pair.up then
    emit (.snapshot s.tickNo (snapItems s)) { s with pair := { s.pair with snap := s.tickNo % 2 ^ 32 } }
  else s

/-- A new epoch opens: the next multiple of 2^32 above the highest SEQ held (R313, R351). -/
def newEpoch (s : State) : State :=
  let n := if s.jrn.head = 0 then 2 ^ 32 else (s.jrn.head / 2 ^ 32 + 1) * 2 ^ 32
  { s with jrn := { s.jrn with next := n } }

/-- A rail found faulted while the vector still asserts it (R158, R351). -/
def takeoverFaults (s : State) : State :=
  let l := (pairRails s).filter fun i => s.pair.vec.getLsbD i && ((s.rail i).st = .ramping && (s.rail i).lastKind = 0 && !(s.rail i).db)
  reactNow (each l (fun i s => detect 0 false (pgOnset (s.rail i)) i s) s)

/-- TAKEOVER at boundary T (R347, R350, R351): role and cause, the snapshot, low power off, the new epoch with its
TAKEOVER entry, the event. An unplanned one asserts XRST_OUT#; one that was not READY starts a full off run. -/
def takeover (cause : Nat) (s : State) : State :=
  let planned := cause = 3
  let ready := s.pair.ready
  let items := s.pair.held
  let s := { s with pair := { s.pair with
    role := 1, lastCause := cause, takeovers := sat 0xFFFF (s.pair.takeovers + 1), named := none, partnerLost := false, vecs := []
    quiet := false, toQ := none, toT := none, held := [], adopted := false, unacked := [] } }
  let s := if planned then s else assertXrst s
  let s := each items resumeItem s
  let s := each [0, 1, 2, 3] (fun st s => if (s.stg st).st = .held then stageHalt st .off s else s) s
  let s := each [0, 1, 2, 3] (fun c s => s.setReg 0x7000 (s.cw 0x7000 &&& ~~~(BitVec.ofNat 32 (2 ^ c)))) s
  let s := takeoverFaults s
  let old := s.jrn.head
  let s := jInternal 0x88 2 old cause true (newEpoch s)
  let s := raise 0xAD s.tsB (detPort s 3 cause) s
  if ready || planned then s else offRequest 1 true 0 s

/-- A shadow would take over: a stack member's only reports its partner lost (R348). -/
def shadowTakes (cause : Nat) (s : State) : State :=
  if s.pair.role ≠ 2 then s
  else if s.role = 2 then { s with pair := { s.pair with partnerLost := true } }
  else if s.role = 1 then
    if s.pair.named.isSome then s else toMembers (fun m => .takeover m) { s with pair := { s.pair with named := some 2 } }
  else takeover cause s

/-- A member has a TAKEOVER record due at this boundary, the one it names (R337, R348). -/
def takeoverDue (s : State) : Bool :=
  s.role = 2 && s.shadow && !s.sca.alone && s.sca.rx.any fun x => x.1 ≤ 1 && match x.2 with | .takeover _ => true | _ => false

/-- A takeover named two boundaries ahead: at the stack master, and at a member by its record (R348). -/
def namedStep (s : State) : State :=
  match s.pair.named with
  | some 0 => s
  | some 1 => takeover 4 s
  | some (n + 1) => { s with pair := { s.pair with named := some n } }
  | none => if takeoverDue s then takeover 4 s else s

/-- PAIR_LINK_LOSS (R347). -/
def linkLoss (s : State) : State :=
  shadowTakes 1 { s with pair := { s.pair with miss := max (lossFr s) s.pair.miss } }

/-- PAIR_HEARTBEAT_TAKEOVER (R347). -/
def heartbeatLoss (s : State) : State :=
  shadowTakes 2 { s with pair := { s.pair with hbMiss := max (hbFr s) s.pair.hbMiss } }

/-- SHADOW_RESET (R347). -/
def shadowReset (s : State) : State := if s.pair.role = 1 && s.pair.xrstOut.isNone then assertXrst s else s

/-- XRST_OUT_RELEASE (R347). -/
def xrstOff (s : State) : State := { s with pair := { s.pair with xrstOut := none } }

/-! Journal mirroring (R312, R349) -/

/-- The entry of 256 bits (R312). -/
def jOfBits (v : Nat) : JEntry :=
  { seq := nbits v 63 0, frame := BitVec.ofNat 48 (nbits v 111 64), opcode := nbits v 119 112, form := v.testBit 120
    src := nbits v 122 121, ring := nbits v 125 123, persist := v.testBit 126, status := nbits v 135 128, tag := nbits v 151 136
    digest := nbits v 223 160, result := nbits v 255 224 }

/-- The shadow holds every entry of the ring up to the head (R349): none of the SRAM's words is missing. -/
def journalWhole (s : State) : Bool :=
  !s.jrn.sram.isEmpty && s.jrn.sram.length = min 4096 (s.jrn.head - s.jrn.base + 1)

/-- READY of the shadow (R349). -/
def judgeReady (s : State) : State :=
  if s.pair.role = 2 then { s with pair := { s.pair with ready := journalWhole s && s.pair.adopted } } else s

/-- JOURNAL_FRAME (R349): stored at its SEQ and acknowledged. -/
def journalFrame (f : LFrame) (s : State) : State :=
  receive f (fun s =>
    if s.pair.role ≠ 2 then s
    else
      let e := jOfBits (payload f)
      let head := max e.seq s.jrn.head
      let s := wcWritten 0x12 (e.seq % 4096) s
      let s := { s with jrn := { s.jrn with
        head := head, next := head + 1, base := if s.jrn.sram.isEmpty then e.seq else min e.seq s.jrn.base
        sram := tset none s.jrn.sram (e.seq % 4096) (some e) } }
      judgeReady (sendFrame 3 9 (some s.pair.partner) e.seq s)) s

/-- JACK_FRAME (R349). -/
def jackFrame (f : LFrame) (seq : Nat) (s : State) : State :=
  receive f (fun s => { s with pair := { s.pair with unacked := s.pair.unacked.filter fun x => x.1 ≠ seq } }) s

/-- Entries are sent again (R349). -/
def resend (due : List Nat) (s : State) : State :=
  each due (fun q s => match s.jEntry q with | some e => sendEntry e s | none => s)
    { s with pair := { s.pair with unacked := s.pair.unacked.map fun y => if due.contains y.1 then (y.1, 0) else y } }

/-- JOURNAL_RESEND (R349): the entries that have waited 4 frames, the oldest in any case. -/
def journalResend (s : State) : State :=
  match s.pair.unacked with
  | [] => s
  | x :: l => resend (x.1 :: (l.filter fun y => 4 ≤ y.2).map (·.1)) s

/-- Entries that have gone 4 frames without an acknowledgement are sent again (R349). -/
def resendDue (s : State) : State :=
  let due := (s.pair.unacked.filter fun y => 4 ≤ y.2).map (·.1)
  if due.isEmpty then s else resend due s

/-- MIRROR_FRAME k of n of a snapshot (R349): adopted once whole; a lost frame abandons it. -/
def mirrorFrame (f : LFrame) (tick k n : Nat) (items : List SnapItem) (s : State) : State :=
  receive f (fun s =>
    if s.pair.role ≠ 2 then s
    else
      let a := match s.pair.arriving with
        | some a => if a.1 = tick then a else (tick, [], [])
        | none => (tick, [], [])
      let ks := if a.2.1.contains k then a.2.1 else a.2.1 ++ [k]
      let its := if a.2.1.contains k then a.2.2 else a.2.2 ++ items
      if n ≤ ks.length then
        judgeReady { s with pair := { s.pair with arriving := none, held := its, adopted := true, snap := tick % 2 ^ 32 } }
      else { s with pair := { s.pair with arriving := some (tick, ks, its) } }) s

/-- HANDOVER_QUIET_POINT: Q (R350). -/
def quietPoint (s : State) : State :=
  if s.pair.role = 1 && s.pair.toQ.isSome then
    sendSnapshot { s with pair := { s.pair with quiet := true, toQ := none, toT := some (s.now + 32) } }
  else s

/-- HANDOVER_TAKEOVER: T (R350). The old active becomes shadow without a reset and its command reports T. -/
def handover (s : State) : State :=
  if s.pair.role = 1 && s.pair.toT.isSome then
    let q := s.pair.hoSeq
    let s := { s with pair := { s.pair with role := 2, quiet := false, toT := none, hoSeq := none, lastCause := 3, ready := false, adopted := false } }
    let s := holdStages s
    match q with
    | some q => finish q stOk 0 s
    | none => s
  else if s.pair.role = 2 then takeover 3 s
  else s

/-- PAIR_ALONE (R460). -/
def pairAlone (s : State) : State :=
  if s.cb 0xE000 0 && s.pair.role = 0 && (s.port 3).st ≠ 4 then
    takeRole 1 (raise 0xB1 s.tsB (detPort s 3 0) s)
  else s

/-! ## The link at a boundary -/

/-- The rails of a member whose STATUS was missing in the frame are unknown until records of them arrive (R336). -/
def statusMissed (s : State) : State :=
  if s.role = 0 then s
  else
    let gone (g : Nat) : Bool := g / 96 ≠ s.index && !s.sca.stGot.testBit (g / 96)
    { s with sca := { s.sca with stGot := 0, view := s.sca.view.map fun p => if gone p.1 then (p.1, { p.2 with known := false }) else p } }

/-- A port in use ages: 16 frames after DOWN it seeks; a SEEK or IDENT of 4096 frames fails (R326, R327). -/
def portAge (p : Nat) (s : State) : State :=
  if s.portRole p = 0 then s
  else
    let s := s.modPort p fun x => { x with age := sat 4096 (x.age + 1) }
    if (s.port p).st = 0 then (if 16 ≤ (s.port p).age then portSeek p s else s)
    else if ((s.port p).st = 1 || (s.port p).st = 3) && (s.port p).age = 4096 then portRetrain p s
    else s

/-- The counts of the link at a boundary: port ages, unacknowledged entries, CMDLOSS; then the slots of the frame. -/
def linkFrame (s : State) : State :=
  let s := groupStep (each [0, 1, 2, 3] portAge s)
  let s := statusMissed { slewClock s with
    pair := { s.pair with unacked := s.pair.unacked.map fun x => (x.1, x.2 + 1) }
    sca := { s.sca with cmdLoss := s.sca.cmdLoss - 1 } }
  each [0, 1, 2, 3] portSlots (resendDue s)

/-- A view as a watch tick boundary moves it: GT by the rule of R71 (R336). -/
def View.tick (v : View) : View :=
  { v with gt := if !v.db then 0 else if v.tickGood then sat 255 (v.gt + 1) else v.gt, tickGood := v.db }

/-- GT of a receiver's view at a watch tick boundary (R71, R179, R336). -/
def viewTick (s : State) : State :=
  let old := s.sca.view
  each (old.filter fun p => p.2.tick.gt ≠ p.2.gt) (fun p s => viewCommit p.1 p.2 p.2.tick s)
    { s with sca := { s.sca with view := old.map fun p => (p.1, p.2.tick) } }

/-- PRED of a rail in its status: its predecessor slots hold. Of a member's FAULTED rail it also says that its retry is a
candidate, which no other field tells the master (R124, R157, R336, log 86). -/
def statusPred (s : State) (i : Nat) : Bool :=
  predsMet s i && (s.role ≠ 2 || (s.rail i).st ≠ .faulted ||
    ((s.rail i).retry.isSome && minOffMet s i && !inRun s i && !(s.rail i).marginHold && !s.flt.wdtHold))

/-- The own statuses the stack uses, as order 2 leaves them (R99, R125). -/
def ownView (s : State) : Tbl View :=
  (railList.filter fun i => (s.rail i).used).map fun i =>
    let r := s.rail i
    (i, { st := r.st.code, db := r.db, pred := statusPred s i, gt := sat 0xFFFF r.goodTicks, known := true })

/-- The snapshots of the own statuses move on. -/
def ownStep (s : State) : State :=
  { s with sca := { s.sca with own2 := s.sca.own1, own1 := s.sca.own0, own0 := ownView s } }

/-! The STATUS of the part (R124, R127, R128, R336) -/

/-- Own rails whose STATE, PG_DB or PRED differs from the boundary before. -/
def statusChanged (s : State) : List Nat :=
  railList.filter fun i =>
    let a := tget ({} : View) s.sca.own0 i
    let b := tget ({} : View) s.sca.own1 i
    a.st ≠ b.st || a.db ≠ b.db || a.pred ≠ b.pred

/-- The record of an own rail. -/
def statusBits (s : State) (i : Nat) : Nat :=
  let v := tget ({} : View) s.sca.own0 i
  put i 0 7 + put v.st 7 3 + put (b2n v.db) 10 1 + put (b2n v.pred) 11 1 + put (sat 255 v.gt) 12 8

/-- The header of the STATUS: `n` records, BACKLOG where more wait. -/
def statusHead (s : State) (n : Nat) (back : Bool) : Nat :=
  let q := s.sca.stReqs.head?
  put n 0 4 + put (b2n back) 4 1 + put (b2n (s.off.run && s.off.opened && classDone s)) 5 1 + put (b2n (0 < s.sca.cmdLoss)) 6 1 +
    put (b2n s.pair.partnerLost) 7 1 + put ((s.drt.latched.map fun l => l.2.2).getD s.drt.thermal) 8 16 +
    (if s.role ≠ 2 then 0 else match q with
      | some r => put 1 24 1 + put (b2n r.1) 25 1 + put r.2.1 26 4 + put (b2n r.2.2) 30 1
      | none => 0)

/-- Each frame carries one STATUS: the changes first, 11 at most, then refresh records in turn (R336). -/
def sendStatus (s : State) : State :=
  if s.role = 0 || !s.sca.ringOk then s
  else
    let all := s.sca.stDirty ++ (statusChanged s).filter fun i => !s.sca.stDirty.contains i
    let now := all.take 11
    let fill := (List.range (11 - now.length)).map fun k => (s.sca.stRefresh + k) % 96
    let l := now ++ fill
    let v := statusHead s l.length (11 < all.length) + ((List.range 11).map fun k => put (statusBits s (l.getD k 0)) (36 + 20 * k) 20).foldl (· + ·) 0
    sendNow 2 4 none v { s with sca := { s.sca with
      stDirty := all.drop 11, stRefresh := (s.sca.stRefresh + fill.length) % 96
      stReqs := if s.role = 2 then s.sca.stReqs.drop 1 else s.sca.stReqs } }

/-- Counts of the link that run in watch ticks. -/
def linkTick (s : State) : State :=
  let s := electSend (viewTick s)
  let c := s.sca
  let back := c.rowBack
  let s := { s with
    sca := { c with
      rowTicks := if back then c.rowTicks + 1 else c.rowTicks, rowBack := false
      stkTicks := if c.stkBack then c.stkTicks + 1 else c.stkTicks, stkBack := false
      syncAge := c.syncAge + 1, stkAge := c.stkAge + 1
      holdLeft := c.holdLeft.map (· - 1), joinStack := c.joinStack.map (· - 1), joinPair := c.joinPair.map (· - 1) }
    pair := { s.pair with xrstOut := s.pair.xrstOut.map (· - 1), lossTick := false } }
  each [0, 1, 2, 3] (fun p s => s.modPort p fun x => if x.tickErr = 0 then x else { x with tickErr := 0 }) s

/-- What those counts bring at a watch tick boundary (R329, R330, R343, R347, R130, R459, R460). -/
def linkDue (s : State) : State :=
  let s := if 4 ≤ s.sca.rowTicks && !s.sca.isMaster && s.sca.cand then electionWin true s else s
  let s := if 4 ≤ s.sca.stkTicks && !s.sca.stkMaster && s.cf 0x4008 1 0 = 1 then electionWin false s else s
  let s := if 4 ≤ s.sca.syncAge && s.sca.member then rowMasterLoss s else s
  let s := if s.sca.holdLeft = some 0 then rowHoldEnd s else s
  let s := if s.pair.xrstOut = some 0 then xrstOff s else s
  let s := if s.role = 2 && !s.sca.alone && orDef (s.cf 0x4008 25 14) 1 ≤ s.sca.stkAge then memberLoss s.sca.elected s else s
  let s := if s.sca.joinStack = some 0 then stackJoinEnd s else s
  let s := if s.sca.joinPair = some 0 then pairAlone s else s
  let s := if 0 < s.sca.bcast && (s.sca.member || s.role = 2) then faultBroadcast s else s
  sendSnapshot s

/-- The pair at order 3 of a boundary (R347, R348): missed vectors and heartbeats. -/
def pairStep (s : State) : State :=
  let s := namedStep (pairCount s)
  if s.pair.role = 2 then
    if lossFr s ≤ s.pair.miss then shadowTakes 1 s
    else if 0 < hbFr s && hbFr s ≤ s.pair.hbMiss && s.pair.up then shadowTakes 2 s
    else if s.role = 1 && s.pair.partnerLost then shadowTakes 4 s
    else s
  else if s.pair.role = 1 && s.pair.up && ((0 < hbFr s && hbFr s ≤ s.pair.hbMiss) || 2 * lossFr s ≤ s.pair.miss) then shadowReset s
  else s

/-- Q and T of a handover at a boundary (R350). -/
def handoverStep (s : State) : State :=
  let s := if s.pair.toT = some s.now then handover s else s
  if s.pair.toQ = some s.now then quietPoint s else s

/-- The pair after order 7: the vector is formed and sent, the shadow's is applied (R345). -/
def pairSend (s : State) : State :=
  if s.pair.role = 0 then s
  else
    let s := applyVector s
    let s := if s.pair.role = 1 then formVector s else s
    if s.groupUp 3 then sendNow 3 7 (some s.pair.partner) (pairEnBits s) s else s

/-- The ports of the generation: those unused are powered down (R33, R321). -/
def portsUpdate (s : State) : State :=
  groupStep (each [0, 1, 2, 3] (fun p s => if s.portRole p = 0 then s.modPort p fun _ => {} else s) s)

end Sys2Proof.Machine
end

