-- ==== Sys2Proof/Machine/Gen.lean ====
section
/-! DEFINITION. Machine/Gen.lean: configuration generations: images, the tests of an activation, and the activation
itself (R380 to R384, with R33 to R35, R62, R68, R73, R88, R97, R113, R118, R120, R205, R206, R208, R227, R250). -/

namespace Sys2Proof.Machine

/-! ## Images -/

/-- Default severity of a source (R473 to R481). -/
def defSev (n : Nat) : Nat :=
  if n = 0x01 ∨ n = 0x14 ∨ n = 0x29 ∨ n = 0x2A ∨ n = 0x2B ∨ n = 0x2E ∨ n = 0x2F ∨ n = 0x42 ∨ n = 0x4A ∨ n = 0x4C ∨ n = 0x74 ∨
    n = 0x75 ∨ n = 0xAC ∨ n = 0xAD ∨ n = 0xC7 ∨ n = 0xCC ∨ n = 0xE5 ∨ within 0xE9 0xEB n then 3
  else if within 0x09 0x0C n ∨ n = 0x13 ∨ n = 0x15 ∨ within 0x20 0x23 n ∨ n = 0x27 ∨ n = 0x28 ∨ n = 0x2C ∨ n = 0x30 ∨ n = 0x40 ∨
    n = 0x41 ∨ n = 0x45 ∨ within 0x47 0x49 n ∨ within 0x68 0x6B n ∨ n = 0x70 ∨ n = 0x71 ∨ within 0xA0 0xAA n ∨
    within 0xAE 0xB1 n ∨ n = 0xC3 ∨ n = 0xC6 ∨ n = 0xCA ∨ n = 0xCD ∨ n = 0xE4 ∨ n = 0xE8 then 2
  else if within 0x80 0x9F n then (if n % 8 = 1 ∨ n % 8 = 4 then 1 else if n % 8 = 0 ∨ n % 8 = 2 ∨ n % 8 = 5 then 2 else 0)
  else if within 0x02 0x04 n ∨ within 0x05 0x08 n ∨ within 0x0D 0x12 n ∨ within 0x24 0x26 n ∨ n = 0x2D ∨ within 0x31 0x33 n ∨
    n = 0x43 ∨ n = 0x44 ∨ n = 0x46 ∨ n = 0x4B ∨ within 0x60 0x67 n ∨ within 0x6C 0x6F n ∨ n = 0x72 ∨ n = 0x73 ∨ n = 0x77 ∨
    n = 0x78 ∨ n = 0x7A ∨ n = 0xC0 ∨ n = 0xC1 ∨ n = 0xC4 ∨ n = 0xC5 ∨ n = 0xC9 ∨ within 0xE0 0xE3 n ∨ n = 0xE6 then 1
  else 0

/-- Default direct vector of a source: the Vnn notes. -/
def defVec (n : Nat) : Nat :=
  if n = 0x01 then 12 else if n = 0x29 then 13 else if n = 0x2A then 14 else if n = 0x4A then 15
  else if n = 0x42 ∨ n = 0xAC then 16 else if n = 0xAD then 17 else if n = 0x74 ∨ n = 0x75 then 18
  else if n = 0x80 ∨ n = 0x88 ∨ n = 0x90 ∨ n = 0x98 ∨ n = 0xE5 then 19 else 0

/-- Sources with the Row note. -/
def defRow (n : Nat) : Bool :=
  [0x01, 0x14, 0x27, 0x29, 0x2A, 0x2B, 0x42, 0x49, 0x4A, 0x4C, 0x74, 0x75].contains n ||
    [0x80, 0x88, 0x90, 0x98, 0xAC, 0xAD, 0xC7, 0xE9].contains n

/-- Default EVT_MAPn, without the SEV of a fixed source. -/
def defMap (n : Nat) : Nat :=
  (if (fixedSev n).isSome then 0 else defSev n) + put (defVec n) 2 6 + 0x100 + put (b2n (defRow n)) 9 1

/-- Default REC_SRCn: EN for severities 2 and 3 and the Rec notes, HOLDOFF for the Hold 16 notes. -/
def defRec (n : Nat) : Nat :=
  b2n ((2 ≤ defSev n && n ≠ 0xCC) || within 0x24 0x26 n || n = 0x33) +
    (if within 0x05 0x10 n ∨ within 0x68 0x6B n then 0x1000 else 0)

/-- Generation 0, built into the mask ROM (R384, R473). -/
def builtIn : Image where
  regs := [(0x560C, 16)] ++
    (((List.range 256).map fun n => (0xB000 + 4 * n, (BitVec.ofNat 32 (defRec n) : W32))).filter fun p => p.2 ≠ 0) ++
    ((List.range 256).map fun n => (0xD000 + 4 * n, BitVec.ofNat 32 (defMap n))) ++
    ((List.range 152).map fun c => (calKey + 8 * c, BitVec.ofNat 32 (65536 + 0x3000000)))

/-- The image of a generation number, where it has an accepted copy. -/
def State.image (s : State) (g : Nat) : Option Image := if g = 0 then some builtIn else tget none s.nv.images g

/-- The cfg bits of the word at a key: its RWS bits and SYSCAL. The ring block holds none (R319, R320). -/
def cfgMask (k : Nat) : Nat :=
  if within 0x1000 0x133F k then 0
  else if calKey ≤ k ∧ (k - calKey) % 8 = 0 ∧ k < calKey + 8 * 152 then rwsMask k + 0x4000000
  else rwsMask k

/-- Register words as a table, cut to their cfg bits. -/
def regTable (l : List (Nat × Nat)) : Tbl W32 :=
  l.foldl (fun t p => tset 0 t p.1 (BitVec.ofNat 32 (p.2 &&& cfgMask p.1))) []

/-- Entries of a table of n 64-bit words. -/
def entTable (n : Nat) (l : List (Nat × Nat)) : Tbl Nat :=
  l.foldl (fun t p => if p.1 < n then tset 0 t p.1 (p.2 % 2 ^ 64) else t) []

/-- CONFIG_LOAD's checks of the header, and the image (R380); the body's layout is opaque (log 9). -/
def parseImage (b : List Byte) : Option Image :=
  let f (i n : Nat) : Nat := leNat (slice b i n)
  let size := f 8 4
  let body := slice b 64 (size - 64)
  if f 0 2 = 0x9608 ∧ f 2 1 = 0xC0 ∧ f 3 1 = 1 ∧ 1 ≤ f 4 4 ∧ 64 ≤ size ∧ size ≤ 30720 ∧ size ≤ b.length ∧ f 12 2 ≤ 3600 ∧ f 14 2 < 2 ∧
      (f 16 8 = 0 ∨ f 16 8 = Config.fuseId.toNat) ∧ (slice b 24 32).all (· = 0) ∧ f 56 8 = crc64 body then
    match Config.imageRegs body with
    | none => none
    | some r => some {
        gen := f 4 4, format := f 3 1, size := size, probation := f 12 2, sysCal := f 14 2 = 1, fuse := f 16 8
        regs := regTable r, onTable := entTable 8192 (Config.imageGraph body ++ Config.imageOnTable body)
        offTable := entTable 2048 (Config.imageOffTable body), hostLink := Config.imageHostLink body }
  else none

/-- The image of the settings in force (R305 CONFIG_CAPTURE). -/
def captureImage (g : Nat) (s : State) : Image :=
  { gen := g, size := 64 + Config.imageSize g % 30657, sysCal := s.cfg.any fun p => calKey ≤ p.1 && bit p.2 26
    regs := s.cfg.filter fun p => !within 0x1000 0x133F p.1
    onTable := s.seq.mirror, offTable := s.off.table, hostLink := s.pwr.hostLink }

/-- The register words of an image, cut to the cfg bits of their registers (R12, R502). -/
def imageWords (im : Image) : Tbl W32 := regTable (im.regs.map fun p => (p.1, p.2.toNat))

/-- The words of a state with the settings of an image (R502): the ring block stays. -/
def withImage (im : Image) (s : State) : State :=
  let w := imageWords im
  let low := w.filter fun p => p.1 < 0x1000
  let high := w.filter fun p => 0x133F < p.1
  { s with
    cfg := low ++ (s.cfg.filter fun p => within 0x1000 0x133F p.1) ++ high
    bar0 := low ++ (s.bar0.filter fun p => within 0x1000 0x133F p.1) ++ high
    setup := s.setup.filter fun p => within 0x1000 0x133F p.1 }

/-! ## The tests of an activation -/

/-- The entries of an off-table before its first END (R113). An END with a reserved bit set refuses the table (log 78). -/
def offEntries (t : Tbl Nat) : Nat → Nat → Option (List Nat)
  | 0, _ => none
  | n + 1, i =>
    let w := tget 0 t i
    if opOf w = 0 then (if w = 0 then some [] else none) else (offEntries t n (i + 1)).map (w :: ·)

/-- An off-table entry has an OP of R112 with its reserved bits 0. -/
def offEntryOk (w : Nat) : Bool :=
  if opOf w = 0x22 then nbits w 54 12 = 0
  else if opOf w = 0x21 then nbits w 33 0 = 0 && nbits w 57 51 < 96
  else if opOf w = 0x23 then nbits w 41 0 = 0
  else false

/-- The off-table meets R113 for the rails the words of `s` use. -/
def offTableOk (s : State) (t : Tbl Nat) : Bool :=
  match offEntries t 2048 0 with
  | none => false
  | some l =>
    let cls := (l.filter fun w => opOf w = 0x22).map fun w => nbits w 57 55
    let rel := (l.filter fun w => opOf w = 0x21).map fun w => nbits w 57 51
    l.all offEntryOk && (l.head?.map opOf) = some 0x22 && (cls.zip (cls.drop 1)).all (fun p => p.1 < p.2) &&
      railList.all fun i => rel.count i = b2n (rcUsed (s.rcfg i))

/-- The graph region meets R97. -/
def graphOk (s : State) (t : Tbl Nat) : Bool :=
  railList.all fun r => (List.range 8).all fun k =>
    let w := tget 0 t (8 * r + k)
    w = 0 || (rcUsed (s.rcfg r) && opOf w = 1 && nbits w 57 32 = 0 && condOk s (nbits w 31 0))

/-- The core reaches the channel, and the channel offers the range (R208). -/
def reaches (c ch r : Nat) : Bool :=
  if ch < 48 then c = 0 && r ≤ 2
  else if ch < 96 then c = 1 && r ≤ 2
  else if ch < 112 then c = 2 && r = 0
  else if ch < 128 then c = 3 && r = 0
  else if ch < 136 then c = (if ch < 132 then 2 else 3) && (if ch % 2 = 0 then r ≤ 1 else r = 3)
  else if ch < 152 then r ≤ 2
  else ch < 168 && r = 0

/-- The entries in use with their cores: (core, entry, word). -/
def usedEntries (s : State) : List (Nat × Nat × W32) :=
  ([0, 1, 2, 3].flatMap fun c => (List.range 64).map fun e => (c, e, s.ent c e)).filter fun p => entTrig p.2.2 ≠ 0

/-- The reference selection of a core pair in a word of CNV_REF (R211, R244). -/
def refSel (w : W32) (p : Nat) : Nat := if p = 0 then fld w 1 0 else fld w 3 2

/-- The CONV tests of R206 and R211. A reserved TRIG or PERIOD fails them too (log 25). -/
def convOk (s : State) : Bool :=
  let l := usedEntries s
  let w := s.ent (s.cf 0x6400 1 0) (s.cf 0x6400 7 2)
  (l.all fun p => entTrig p.2.2 ≠ 3 && fld p.2.2 15 13 ≤ 5 && fld p.2.2 20 16 < entPeriod p.2.2 &&
    reaches p.1 (entChan p.2.2) (fld p.2.2 9 8)) &&
  (l.all fun p => l.all fun q => entChan p.2.2 ≠ entChan q.2.2 || fld p.2.2 9 8 = fld q.2.2 9 8) &&
  (entTrig w = 0 || (entTrig w = 1 && fld w 15 13 = 0)) && refSel (s.cw 0x7004) 0 ≠ 3 && refSel (s.cw 0x7004) 1 ≠ 3

/-- The pair of core c makes P conversions under the words of `s` once its domains are powered (R204). -/
def pairUses (s : State) (p : Nat) : Bool := s.cb 0x7000 (4 + p) && (p = 0 || (usedEntries s).any fun e => 2 ≤ e.1)

/-- The first core and phase with more periodic entries due than user slots (R206). -/
def slotsFail (s : State) : Option (Nat × Nat) :=
  [0, 1, 2, 3].findSome? fun c => ((List.range 32).find? fun f =>
    (userSlots (pairUses s (pairOf c)) f).length < (dueEntries (fun e => s.ent c e) f).length).map fun f => (c, f)

/-- A required entry of a stage (R250). -/
def stageEntry (s : State) (c e ch : Nat) (maxPeriod : Nat) : Bool :=
  let w := s.ent c e
  entTrig w = 1 && entChan w = ch && fld w 15 13 ≤ maxPeriod

/-- The rules of R250 for a used stage. -/
def stageOk (s : State) (st : Nat) : Bool :=
  let c := stgCore st
  let b := s.sfld st 0 6 4
  stageEntry s c (s.sfld st 0 21 16) (128 + 2 * st) 0 &&
    ((List.range (s.nph st)).all fun k => stageEntry s c (s.ientry st k) (96 + 8 * st + k) 3) &&
    (!s.cb (sbase st) 28 || stageEntry s c (s.sfld st 0 27 22) (129 + 2 * st) 5) &&
    (!s.cb (sbase st + 8) 8 || (let w := s.ent (s.sfld st 8 1 0) (s.sfld st 8 7 2); entTrig w ≠ 0 && fld (s.calLo (entChan w)) 25 24 = 1)) &&
    within 4267 32000 (s.sfld st 4 15 0) && s.sfld st 4 31 24 ≤ s.sfld st 4 23 16 && b ≤ 4 && (b ≠ 0 || s.cb (sbase st) 7)

/-- Rail, sequencer, graph or table content differs between the settings in force and the image (R120). -/
def seqDiffers (im : Image) (s : State) : Bool :=
  let f (t : Tbl W32) := t.filter fun p => within 0x2000 0x4FFF p.1
  f im.regs ≠ f s.cfg || im.onTable ≠ s.seq.onTable || im.offTable ≠ s.off.table

/-- A program or an off run is in progress. -/
def seqBusy (s : State) : Bool := s.off.run || !s.running.isEmpty

/-- The tests of an activation: the status and RESULT of the first that fails (R54, R97, R113, R120, R206, R250). The
built-in generation meets them all (log 26). -/
def refusal (im : Image) (s : State) : Option (Nat × Nat) :=
  if im.gen = 0 then (if seqBusy s && seqDiffers im s then some (stSeqActive, 0) else none)
  else
    let t := withImage im s
    if seqBusy s && seqDiffers im s then some (stSeqActive, 0)
    else if !convOk t then some (stConv, 0)
    else match slotsFail t with
    | some p => some (stSlots, p.1 + put p.2 8 8)
    | none =>
      match [0, 1, 2, 3].find? fun st => t.cb (sbase st) 0 && !stageOk t st with
      | some st => some (stStage, st)
      | none =>
        if !graphOk t im.onTable then some (stGraph, 0)
        else if !offTableOk t im.offTable then some (stOffTable, 0)
        else match admission t with
        | some p => some (stAdmission, p.1 + put p.2 8 8)
        | none => none

/-! ## Domains (R33 to R35) -/

/-- The domains the words of `s` use (R33); `host`: a host link is declared. -/
def domainMask (s : State) (host : Bool) : Nat :=
  let stg := [0, 1, 2, 3].any fun st => s.cb (sbase st) 0
  let ac23 := (usedEntries s).any (fun p => 2 ≤ p.1) || s.moreUses
  let used (b : Nat) := (bankRails b).any fun i => rcUsed (s.rcfg i)
  0b100000110111 + put (b2n stg) 3 1 + put (b2n ac23) 6 1 + put (b2n stg) 7 1 + put (b2n (used 0)) 8 1 +
    put (b2n (used 1)) 9 1 + put (b2n host) 10 1

/-- A domain becomes usable (R35); the stage-class image starts in CE4 to CE7 with PD3 (R165). -/
def domainOn (pd : Nat) (s : State) : State :=
  let s := { s with pwr := { s.pwr with domains := s.pwr.domains ||| 2 ^ pd, pending := tset 0 s.pwr.pending pd 0 } }
  if pd = 5 then coreUp 0 (coreUp 1 (each [0, 1] (fun p s => s.modRefm p fun x => { sel := x.sel }) s))
  else if pd = 3 then each [4, 5, 6, 7] armEngine s
  else if pd = 6 then coreUp 2 (coreUp 3 s)
  else if pd = 8 then s.modBank 0 fun b => { b with powered := true }
  else if pd = 9 then s.modBank 1 fun b => { b with powered := true }
  else s

/-- A domain loses power (R34). -/
def domainOff (pd : Nat) (s : State) : State :=
  let s := { s with pwr := { s.pwr with
    domains := if s.pwr.domains.testBit pd then s.pwr.domains - 2 ^ pd else s.pwr.domains, pending := tset 0 s.pwr.pending pd 0 } }
  if pd = 3 then
    each [4, 5, 6, 7] (fun e s => s.modEng e fun x => { x with
      armed := false, halted := false, miss := 0, sems := 0, bells := 0, errFlag := false }) (wcLost (fun n => n < 0x10 && 4 ≤ n % 8) s)
  else if pd = 5 then coreDown 0 (coreDown 1 (each [0, 1] (fun p s => s.modRefm p fun x => { sel := x.sel }) s))
  else if pd = 6 then coreDown 2 (coreDown 3 s)
  else if pd = 8 then s.modBank 0 fun _ => {}
  else if pd = 9 then s.modBank 1 fun _ => {}
  else if pd = 10 then { s with hst := { s.hst with linkUp := false, bme := false } }
  else s

/-- Gating follows the generation: what it does not use loses power, what it newly uses is usable after 128 frames, at
the first activation at once (R33, R35, R451). -/
def gate (want : Nat) (first : Bool) (s : State) : State :=
  each (List.range 12) (fun pd s =>
    if !want.testBit pd then (if s.pwr.domains.testBit pd || tget 0 s.pwr.pending pd ≠ 0 then domainOff pd s else s)
    else if s.pwr.domains.testBit pd || tget 0 s.pwr.pending pd ≠ 0 then s
    else if first then domainOn pd s
    else { s with pwr := { s.pwr with pending := tset 0 s.pwr.pending pd 128 } }) s

/-! ## The activation -/

/-- A rail enters the state of R68 and R73 at the activating boundary that makes it used (R62 where its bank's supply is
not good). Its MIN_OFF counts as elapsed, EN never having been asserted (log 74). -/
def railIn (i : Nat) (s : State) : State :=
  let w := s.rcfg i
  let ok := s.vioOk i
  s.modRail i fun r => { ({} : Rail) with
    marginHold := r.marginHold, used := true, cnt := r.cnt, delta := r.delta, deltaSince := r.deltaSince
    st := if !ok then .hiz else if rcFailOn w then .ramping else .off
    rx := notGood w, hizLate := !ok, blank := fld w 10 8, en := ok && rcFailOn w, enBall := ok && rcFailOn w }

/-- A rail the generation does not use: UNUSED, its lifetime counters stay. -/
def railOut (i : Nat) (s : State) : State :=
  s.modRail i fun r => { ({} : Rail) with marginHold := r.marginHold, cnt := r.cnt, delta := r.delta, deltaSince := r.deltaSince }

/-- Margined rails that the image does not use leave ON: their margins return to nominal under the old binding (R89). -/
def railsLeave (im : Image) (s : State) : State :=
  let t := withImage im s
  each (railList.filter fun i => (s.rail i).st = .on && !rcUsed (t.rcfg i)) marginLeave s

/-- Rails at an activating boundary. -/
def railsIn (first : Bool) (s : State) : State :=
  each railList (fun i s =>
    let r := s.rail i
    if rcUsed (s.rcfg i) then
      if r.used && !first then s.modRail i fun r => { r with fig := {}, bindOk := false } else railIn i s
    else if r.used || first then railOut i s else s) s

/-- Stages at an activating boundary (R255, R275); the shadow's are held (R280). -/
def stagesIn (first : Bool) (s : State) : State :=
  each [0, 1, 2, 3] (fun st s =>
    let on := s.cb (sbase st) 0
    let x := s.stg st
    if on && (first || !x.used) then
      s.modStg st fun x => { ({} : Stg) with used := true, st := if s.shadow then .held else .off, hiccups := if first then 0 else x.hiccups }
    else if on then
      let s := s.modStg st fun x => { x with dropped := 0, pending := false }
      clearPhases st false s
    else if x.used || first then clearPhases st true (s.modStg st fun _ => {})
    else s) s

/-- A change of settings affects an entry: its own words, its window or the coefficients of its channel (R205, R243). -/
def entChanged (old new : State) (c e : Nat) : Bool :=
  let ch := entChan (new.ent c e)
  old.ent c e ≠ new.ent c e || old.cw (0x7800 + 0x100 * c + 4 * e) ≠ new.cw (0x7800 + 0x100 * c + 4 * e) ||
    old.calLo ch ≠ new.calLo ch || old.calHi ch ≠ new.calHi ch

/-- Converter entries that the change touches read VALID 0 until their first conversion under the new settings, and
every window is UNKNOWN (R205, R227). -/
def entriesIn (old : State) (s : State) : State :=
  each [0, 1, 2, 3] (fun c s =>
    let s := s.modCore c fun k => { k with ents := k.ents.map fun p => (p.1, { p.2 with win := .unknown, inCnt := 0 }) }
    let s := s.modCore c fun k => { k with ents := k.ents.filter fun p => p.2 ≠ {} }
    each (List.range 64) (fun e s =>
      if entChanged old s c e then modEnt c e (fun x => { invalidate x with stall := 2, dec := 0 }) s else s) s) s

/-- An activation selects the references; a pair whose selection changes settles again (R211, R212). -/
def refsIn (s : State) : State :=
  each [0, 1] (fun p s =>
    let n := refSel (s.cw 0x7004) p
    if (s.refm p).sel ≠ n then (refFall p s).modRefm p fun x => { x with sel := n, age := 0, good := 0 } else s) s

/-- The on-table, its mirror and both off-table copies are written whole (R26). -/
def wcTables (s : State) : State :=
  let s := wcRenew (fun n => n = 0x11 || n = 0x14 || n = 0x15) s
  let here (n a : Nat) : Bool := n = 0x10 && mirrorBase ≤ a && a < mirrorBase + 2048
  { s with wc := { s.wc with
    err := s.wc.err.filter fun x => !here (x.1 / 131072) (x.1 % 131072), bad := s.wc.bad.filter fun x => !here x.1 x.2 } }

/-- The settings, tables and coefficients of an image come into force at the activating boundary; the sums admitted
stand in DECLARED (R44 order 6, R51, R54, R60, R112, R263). -/
def activate (im : Image) (first : Bool) (s : State) : State :=
  let old := s
  let s := wcTables (withImage im (railsLeave im s))
  let s := { s with
    coef := im.regs.filter fun p => within 0x8200 0x83FF p.1
    seq := { s.seq with onTable := im.onTable, mirror := im.onTable, dirty := [] }
    off := { s.off with table := im.offTable }
    drt := { s.drt with pmSum := 0, pmCnt := 0 }
    pwr := { s.pwr with hostLink := im.hostLink }
    cnv := { s.cnv with cal := s.cnv.cal.map fun c => { c with stale := true } } }
  let s := gate (domainMask s im.hostLink) first s
  let s := stagesIn first (railsIn first s)
  let s := refsIn (entriesIn old s)
  let s := each (List.range 8) (fun e s => s.modEng e fun x => { x with declared := min 1023 (worstPhase s e).1 }) s
  portsUpdate (voutModes s)

end Sys2Proof.Machine
end

