-- ==== Sys2Proof/Machine/FlashMem.lean ====
section
/-! DEFINITION. Machine/FlashMem.lean: the flash array and what it holds: programs and erases of codewords, interrupted
operations, the codewords of a record, and the acceptance of a copy (R355 to R364, R367 to R370, R391, R392, R434). -/

namespace Sys2Proof.Machine

/-! ## The array (R355, R356) -/

/-- A codeword of the flash takes a value; an erased one is listed nowhere but in a firmware bank. -/
def flashPut (a : Nat) (w : Codeword) (s : State) : State :=
  { s with nv := { s.nv with
    flash := tset none s.nv.flash a (if 65536 ≤ a ∧ w = erasedWord then none else some w), badAt := s.nv.badAt.filter (· ≠ a) } }

/-- The flash controller programs a codeword; it refuses one that is not erased, without an event (R356). -/
def flashProgram (a : Nat) (w : W256) (s : State) : State :=
  if s.flashRaw a = erasedWord then flashPut a (wcEncode w) s else s

/-- A codeword of a copy lies in sector n. -/
def Copy.inSector (n words : Nat) (c : Copy) : Bool := c.at_ / 256 ≤ n && n ≤ (c.at_ + words - 1) / 256

/-- A sector outside the firmware banks holds a codeword that is not erased (R365). -/
def dirty (s : State) (n : Nat) : Bool := s.nv.flash.any fun p => p.1 / 256 = n

/-- Sector n holds only erased codewords (R355). -/
def flashErase (n : Nat) (s : State) : State :=
  let s := { s with nv := { s.nv with
    flash := s.nv.flash.filter fun p => p.1 / 256 ≠ n, badAt := s.nv.badAt.filter fun a => a / 256 ≠ n } }
  if n < 256 then each (List.range 256) (fun k s => flashPut (256 * n + k) erasedWord s) s else s

/-- A codeword that decodes as uncorrectable; which one an interrupted operation leaves is of no effect. -/
def unreadableWord : Codeword := wcEncode 0 ^^^ 3

/-- A codeword of an interrupted operation reads its former value, what the operation would have left, or uncorrectable
(R356); which of them is open: a free value (log 2). -/
def tornWord (a : Nat) (w : Codeword) (s : State) : State :=
  let f := s.drawFree 2
  flashPut a (if f.1 = 0 then s.flashRaw a else if f.1 = 1 then w else unreadableWord) f.2

/-- An erase of sector n is interrupted (R356). -/
def tornErase (n : Nat) (s : State) : State := each (List.range 256) (fun k s => tornWord (256 * n + k) erasedWord s) s

/-- A read of a codeword: its outcome and its data (R22 to R24). -/
def State.flashRead (s : State) (a : Nat) : WcOut × W256 :=
  let c := s.flashRaw a
  let o := flashOut c
  (o, wcData (cwData c) o)

/-- A read that decodes clean or corrected. -/
def WcOut.decodes : WcOut → Bool
  | .clean => true
  | .corrected _ => true
  | _ => false

/-- The bytes of sector n in address order (R376). -/
def sectorBytes (s : State) (n : Nat) : List Byte := (List.range 256).flatMap fun k => leBytes 32 (s.flashRead (256 * n + k)).2.toNat

/-! ## What a record holds (R358, R359, R378, R380, R391, R392, R434) -/

/-- Codewords of one copy: header, payload, trailer (R358), or the codewords moved. -/
def JobUse.words : JobUse → Nat
  | .image im => 2 + cdiv im.size 32
  | .genState _ => 3
  | .tag _ => 66
  | .fwState _ => 3
  | .record _ => 8
  | .clear _ => 8
  | .ember _ => 18
  | .intent _ _ _ => 3
  | .staging _ => 256
  | .restore _ => 256
  | .progress _ => 3
  | .back _ _ => 1

/-- The record is kept: written as twin A, then twin B (R361). -/
def JobUse.kept : JobUse → Bool
  | .record _ => false
  | .clear _ => false
  | .staging _ => false
  | .restore _ => false
  | .back _ _ => false
  | _ => true

/-- The one-sector region of a kept record: 0 tag, 1 ember, 2 boot control (R357, R359). -/
def JobUse.region : JobUse → Option Nat
  | .tag _ => some 0
  | .ember _ => some 1
  | .genState _ => some 2
  | .fwState _ => some 2
  | .intent _ _ _ => some 2
  | .progress _ => some 2
  | _ => none

/-- TYPE of a record (R359). -/
def JobUse.type : JobUse → Nat
  | .image _ => 0x10
  | .genState _ => 0x11
  | .tag _ => 0x12
  | .fwState _ => 0x20
  | .record _ => 0x30
  | .clear _ => 0x30
  | .ember _ => 0x01
  | .intent _ _ _ => 0x21
  | .progress _ => 0x23
  | _ => 0

/-- The TYPEs that are not reserved (R359). -/
def typeKnown (t : Nat) : Bool := [0x01, 0x10, 0x11, 0x12, 0x20, 0x21, 0x22, 0x23, 0x30].contains t

/-- The 192-byte payload of a recorder record as a number (R392). -/
def payloadBits (im : Img) : Nat :=
  put im.ts.frame.toNat 0 48 + put im.ts.frac.toNat 48 8 + put im.src 56 8 + put im.sev 64 2 + put (b2n im.summary) 66 1 +
    put (b2n im.clear) 67 1 + put (b2n im.refreshed) 68 1 + put im.count 72 16 + put im.snapFrame.toNat 120 48 +
    put im.words.length 168 6 + put im.list 174 4 + put im.jseq 192 64 + put im.detail.toNat 256 128 + put im.ash 384 32 +
    put im.gen 416 32 + put (im.extra + ((im.words.zipIdx).map fun p => put p.1 (32 * p.2) 32).foldl (· + ·) 0) 512 1024

/-- KEY of a recorder record (R391). -/
def recKey (im : Img) : Nat := put im.rnum 0 32 + put im.src 32 8 + put im.sev 40 2 + put (b2n im.clear) 42 1

/-- KEY of a record (R359). -/
def JobUse.key : JobUse → Nat
  | .image im => im.gen
  | .record im => recKey im
  | .clear im => recKey im
  | .intent n _ _ => 8192 * n
  | _ => 0

/-- The 256-bit words of a number, n of them from bit 0 up. -/
def wordsOf (n v : Nat) : List W256 := (List.range n).map fun k => BitVec.ofNat 256 (v >>> (256 * k))

/-- The payload codeword of a firmware state record (R434). -/
def fwRecBits (r : FwRec) : Nat :=
  put r.phase 0 2 + put (b2n r.confBank) 2 1 + put (b2n r.prevValid) 3 1 + put r.damaged 4 2 + put (b2n r.recovery) 6 1 +
    put r.confVersion 16 32 + put r.candVersion 48 32 + put r.window 80 12 + put r.confSvn 92 8 + put r.candSvn 100 8 +
    put r.candMdig 112 64 + put r.confMdig 176 64

/-- Register words and table entries as an image's body takes them. -/
def numTable (t : Tbl W32) : List (Nat × Nat) := t.map fun p => (p.1, p.2.toNat)

/-- The words of a configuration image (R380): its header, with the digest of its body, then the body, whose layout is not in
the spec (log 9). -/
def imageWordsOf (im : Image) : List W256 :=
  let body := (List.range (cdiv im.size 32 - 2)).map (Config.imageBody (numTable im.regs) im.onTable im.offTable im.hostLink)
  let dig := crc64 ((body.flatMap fun w => leBytes 32 w.toNat).take (im.size - 64))
  wordsOf 2 (put 0x9608 0 16 + put 0xC0 16 8 + put im.format 24 8 + put im.gen 32 32 + put im.size 64 32 + put im.probation 96 16 +
    put (b2n im.sysCal) 112 16 + put im.fuse 128 64 + put dig 448 64) ++ body

/-- The payload of a record (R358). -/
def JobUse.payload : JobUse → List W256
  | .image im => imageWordsOf im
  | .genState g => [Config.stateWord g.cur g.prev g.pend g.prob]
  | .tag b => wordsOf 64 (leNat b)
  | .fwState r => [BitVec.ofNat 256 (fwRecBits r)]
  | .record im => wordsOf 6 (payloadBits im)
  | .clear im => wordsOf 6 (payloadBits im)
  | .ember e => (List.range 16).map fun k => BitVec.ofNat 256 (e.words.getD k 0)
  | .intent _ c d => [Config.intentWord c d]
  | .progress n => [Config.progressWord n]
  | _ => []

/-- Header bits [223:0] (R358). -/
def headBits (typ twin len key rseq : Nat) : Nat :=
  0xC7E3 + put typ 16 8 + put twin 24 1 + put len 32 16 + put key 48 64 + put rseq 112 48

/-- A header with its HCHK (R358). -/
def headWord (typ twin len key rseq : Nat) : W256 :=
  let h := headBits typ twin len key rseq
  BitVec.ofNat 256 (h + put (crc32 (leBytes 28 h)) 224 32)

/-- The bytes of words in address order. -/
def wordBytes (l : List W256) : List Byte := l.flatMap fun w => leBytes 32 w.toNat

/-- A trailer with the digest of the header and the payload (R358). -/
def tailWord (typ twin len rseq dig : Nat) : W256 :=
  BitVec.ofNat 256 (put dig 0 64 + put rseq 64 48 + put typ 112 8 + put twin 120 1 + put len 128 16 + put 0x3E7C 240 16)

/-- The codewords of one copy: header, payload, trailer (R358). -/
def copyWords (u : JobUse) (rseq : Nat) (twinB : Bool) : List W256 :=
  let p := u.payload
  let h := headWord u.type (b2n twinB) p.length u.key rseq
  h :: p ++ [tailWord u.type (b2n twinB) p.length rseq (crc64 (wordBytes (h :: p)))]

/-! ## Acceptance (R360) -/

/-- MAGIC, HCHK and TYPE of a header hold (R359, R360). -/
def headOk (h : Nat) : Bool := nbits h 15 0 = 0xC7E3 && nbits h 255 224 = crc32 (leBytes 28 (nbits h 223 0)) && typeKnown (nbits h 23 16)

/-- The fields of a trailer equal the header's, and DIGEST matches (R360). -/
def tailOk (h t : Nat) (body : List W256) : Bool :=
  nbits t 255 240 = 0x3E7C && nbits t 111 64 = nbits h 159 112 && nbits t 119 112 = nbits h 23 16 && nbits t 120 120 = nbits h 24 24 &&
    nbits t 143 128 = nbits h 47 32 && nbits t 63 0 = crc64 (wordBytes (BitVec.ofNat 256 h :: body))

/-- The copy whose header stands at a codeword address is accepted (R360). -/
def accepted (s : State) (a : Nat) : Bool :=
  let h := s.flashRead a
  let v := h.2.toNat
  let n := nbits v 47 32
  let body := (List.range n).map fun k => s.flashRead (a + 1 + k)
  let t := s.flashRead (a + 1 + n)
  h.1.decodes && headOk v && (body.all fun w => w.1.decodes) && t.1.decodes && tailOk v t.2.toNat (body.map (·.2))

/-- A copy that the layer began is accepted as what it wrote. -/
def Copy.ok (s : State) (c : Copy) : Bool :=
  let v := (s.flashRead c.at_).2.toNat
  accepted s c.at_ && nbits v 23 16 = c.use.type && nbits v 111 48 = c.use.key % 2 ^ 64 && nbits v 159 112 = c.rseq % 2 ^ 48 &&
    nbits v 24 24 = b2n c.twinB

/-- The accepted copies, the oldest first. -/
def goodCopies (s : State) : List Copy := s.nv.copies.filter (Copy.ok s)

/-- The copy of the highest RSEQ of a list (R362). -/
def newest : List Copy → Option Copy
  | [] => none
  | c :: l => match newest l with
    | none => some c
    | some d => some (if d.rseq < c.rseq then c else d)

/-- Two copies are of one item: TYPE and KEY (R359). -/
def Copy.same (a b : Copy) : Bool := a.use.type = b.use.type && a.use.key = b.use.key

/-- The newest accepted copy of every kept item (R362). -/
def keptItems (s : State) : List Copy :=
  let l := (goodCopies s).filter fun c => c.use.kept
  l.filter fun c => newest (l.filter c.same) = some c

/-- The interrupted tail of a copy that is the last of its half: its codewords from its header up to the last one that is not
erased (R364). -/
def tailWords (s : State) (c : Copy) : Nat :=
  (List.range (c.use.payload.length + 2)).foldl (fun n k => if s.flashRaw (c.at_ + k) = erasedWord then n else k + 1) 0

/-- Half of a region, or sector of the recorder, that holds a codeword (R357). -/
def halfOf (a : Nat) : Nat := if a < 0x240000 / 32 then a / 4096 else a / 256

/-- The rejected copies that are the last of their half (R364). -/
def tornCopies (s : State) : List Copy :=
  s.nv.copies.zipIdx.filterMap fun p =>
    if p.1.ok s || (s.nv.copies.drop (p.2 + 1)).any (fun d => halfOf d.at_ = halfOf p.1.at_) then none else some p.1

/-! ## Counter slots (R367, R368) -/

/-- Codeword address of slot n of rail i (R367). -/
def slotAt (i n : Nat) : Nat := (0x3C0000 + 0x4000 * (i / 8) + (if n < 32 then 0 else 0x2000) + 0x400 * (i % 8)) / 32 + n % 32

/-- A counter slot (R367). -/
def slotBits (i : Nat) (v : List Nat) (rseq : Nat) (twin : Bool) : Nat :=
  ((List.range 6).map fun k => put (v.getD k 0) (32 * k) 32).foldl (· + ·) 0 + put i 192 7 + put (b2n twin) 199 1 + put rseq 200 48 +
    put 0xC 248 4

/-- A slot as read: `none` where it does not decode with TYPE 0xC and the rail's number. -/
def slotRead (s : State) (i n : Nat) : Option Nat :=
  let r := s.flashRead (slotAt i n)
  let v := r.2.toNat
  if r.1.decodes && nbits v 251 248 = 0xC && nbits v 198 192 = i then some v else none

/-- A slot decodes at all. -/
def slotDecodes (s : State) (i n : Nat) : Bool := (s.flashRead (slotAt i n)).1.decodes

/-- Pair k of rail i where it is valid: its counters and RSEQ (R368). -/
def pairRead (s : State) (i k : Nat) : Option (List Nat × Nat) :=
  let v (w : Nat) : List Nat × Nat := ((List.range 6).map fun c => nbits w (32 * c + 31) (32 * c), nbits w 247 200)
  match slotRead s i (2 * k), slotRead s i (2 * k + 1) with
  | some a, some b => if a % 2 ^ 199 = b % 2 ^ 199 && a / 2 ^ 200 = b / 2 ^ 200 then some (v a) else none
  | some a, none => if slotDecodes s i (2 * k + 1) then none else some (v a)
  | none, some b => if slotDecodes s i (2 * k) then none else some (v b)
  | none, none => none

/-- The valid pairs of rail i: (pair, counters, RSEQ). -/
def railPairs (s : State) (i : Nat) : List (Nat × List Nat × Nat) :=
  (List.range 32).filterMap fun k =>
    if s.flashRaw (slotAt i (2 * k)) = erasedWord && s.flashRaw (slotAt i (2 * k + 1)) = erasedWord then none
    else (pairRead s i k).map fun p => (k, p)

/-- The valid pair of rail i with the highest RSEQ (R368). -/
def railPair (s : State) (i : Nat) : Option (Nat × List Nat × Nat) :=
  (railPairs s i).foldl (fun b p => match b with
    | some x => if x.2.2 < p.2.2 then some p else some x
    | none => some p) none

/-- Pairs of rail i in a sector of its group up to the last that is not wholly erased (R367, R370). -/
def pairsUsed (s : State) (i : Nat) (y : Bool) : Nat :=
  (List.range 16).foldl (fun n k =>
    let p := 16 * b2n y + k
    if s.flashRaw (slotAt i (2 * p)) = erasedWord && s.flashRaw (slotAt i (2 * p + 1)) = erasedWord then n else k + 1) 0

/-! ## Journal mirror entries (R372) -/

/-- Codeword address of position n of the mirror's ring of 65 sectors (R357, R372). -/
def mirrorAt (n : Nat) : Nat := if n < 16384 then 0x240000 / 32 + n else 0x3FC000 / 32 + (n - 16384)

/-- The entries present in the mirror, newest first: their codewords decode (R372). -/
def mirrorHeld (s : State) : List JEntry :=
  s.jrn.mirror.zipIdx.filterMap fun p =>
    if (s.flashRead (mirrorAt ((s.nv.mirrorPos + 2 * 16640 - 1 - p.2) % 16640))).1.decodes then some p.1 else none

/-! ## The firmware banks (R412, R421, R422) -/

/-- Bytes are programmed into a bank from an offset on; a sector is erased before its first codeword is programmed. -/
def bankProgram (b : Bool) (off : Nat) (bytes : List Byte) (s : State) : State :=
  each (List.range (bytes.length / 32)) (fun k s =>
    let a := 32768 * b2n b + off / 32 + k
    let s := if a % 256 = 0 then flashErase (a / 256) s else s
    flashProgram a (BitVec.ofNat 256 (leNat (slice bytes (32 * k) 32))) s) s

end Sys2Proof.Machine
end

