-- ==== Sys2Proof/Machine/Flash.lean ====
section
/-! DEFINITION. Machine/Flash.lean: the flash and its record layer: writes and erases in order, write points, twins,
refresh, counter rings, the journal mirror, the state record of the generations (R355 to R386, R163, R316). -/

namespace Sys2Proof.Machine

/-! ## Writes (R358 to R363) -/

/-- First byte of half h of a one-sector region (R357). -/
def halfAddr (k h : Nat) : Nat := [0x3F0000, 0x3F4000, 0x3F8000].getD k 0 + 0x2000 * h

/-- The newest accepted copies of a region's items: what is written back after an erase of a half (R365). -/
def backCopies (s : State) (k : Nat) : List Copy := (keptItems s).filter fun c => c.use.region = some k

/-- An erase is asked for (R365). -/
def eraseAsk (sector : Nat) (u : EraseUse) (s : State) : State :=
  if s.nv.erases.contains (sector, u) then s else { s with nv := { s.nv with erases := s.nv.erases ++ [(sector, u)] } }

/-! ### Admission (R163, R181) -/

/-- The rail's ring can take an update now: counts not yet written, 256 watch ticks since the last one, and no erase in the
way of a switch (R369, R371). -/
def ringReady (s : State) (i : Nat) : Bool :=
  !(s.rail i).delta.isEmpty && 256 ≤ tget 256 s.nv.cAge i &&
    (tget 0 (s.cgrp (i / 8)).used (i % 8) < 16 || !(s.nv.erases.any fun e => e.2 = .counters (i / 8)))

/-- A ring update stands ahead of every other background flash task while class 0 is admitted (R163). -/
def ringFirst (s : State) : Bool := s.drt.bg.testBit 0 && railList.any (ringReady s)

/-- Background flash work of class n may run: the pass of this watch tick admitted it, and no ring update goes before it
(R163, R181). Before A and in ember mode there is no pass and nothing waits for one. -/
def bgFree (s : State) (n : Nat) : Bool := !s.running! || (s.drt.bg.testBit n && (n = 0 || !ringFirst s))

/-- The class of a write (R181); the ember writer never waits, nor what R365 writes at once after an erase, nor the second
slot of a pair under way. -/
def JobUse.cls : JobUse → Option Nat
  | .image _ => some 3
  | .genState _ => some 3
  | .tag _ => some 3
  | .fwState _ => some 4
  | .record _ => some 1
  | .clear _ => some 1
  | .intent _ _ _ => some 5
  | .staging _ => some 5
  | .restore _ => some 5
  | .progress _ => some 5
  | _ => none

/-- A write may be worked on: its class is free, and no freeze holds a record back (R181, R402). -/
def jobReady (s : State) (j : Job) : Bool :=
  (match j.use.cls with | some n => bgFree s n | none => true) && (match j.use with | .record _ => !s.recd.frozen | _ => true)

/-- The first write that may be worked on, and the others. -/
def pickJob (s : State) : List Job → Option (Job × List Job)
  | [] => none
  | j :: l => if jobReady s j then some (j, l) else (pickJob s l).map fun p => (p.1, j :: p.2)

/-! ### Copies -/

/-- Codeword address of slot j of recorder sector k (R397). -/
def recAt (k j : Nat) : Nat := 0x2C0000 / 32 + 256 * k + 8 * j

/-- The slot of a recorder sector that was taken for an image and is still erased. -/
def recSlot (s : State) (im : Img) : Nat :=
  (s.recd.sects.findSome? fun p => p.2.bind fun x => x.slots.zipIdx.findSome? fun y =>
    if y.1.img.rnum = im.rnum && !y.1.ok && s.flashRaw (recAt p.1 y.2) = erasedWord then some (recAt p.1 y.2) else none).getD (recAt 2 0)

/-- Clear records begun so far: the next one's slot (R397, R408). -/
def clearCount (s : State) : Nat := (s.nv.copies.filter fun c => match c.use with | .clear _ => true | _ => false).length

/-- Codeword address at which a copy is begun; `wp` is the write point of its half (R357, R361, R376, R397, R408). -/
def copyAt (s : State) (j : Job) (wp : Nat) : Nat :=
  match j.use with
  | .image im => (0x200000 + 0x20000 * b2n j.twinB + 0x8000 * (tget none s.nv.slotOf im.gen).getD 0) / 32
  | .staging _ => 0x3FE000 / 32
  | .restore n => 256 * n
  | .record im => recSlot s im
  | .clear _ => recAt 0 (clearCount s)
  | .back k h => halfAddr k h / 32
  | u => halfAddr (u.region.getD 2) (b2n j.twinB) / 32 + wp

/-- Codewords of the copy of a job. -/
def Job.total (j : Job) : Nat := if j.data.isEmpty then j.use.words else j.data.length

/-- The copy of a job is begun at a codeword address (R358, R361). -/
def beginCopy (j : Job) (l : List Job) (a : Nat) (s : State) : State :=
  let c : List Copy := if j.use.type = 0 then [] else [{ at_ := a, use := j.use, rseq := j.rseq, twinB := j.twinB }]
  { s with nv := { s.nv with jobs := { j with begun := true, at_ := a } :: l, copies := s.nv.copies ++ c } }

/-- The write in front that may be worked on begins at its write point; where a one-sector half has no room left, the half is
erased first (R361, R365, R378). Nothing begins while an erase runs, or while the codeword of a write that was given up is
being programmed (R37). -/
def nvBegin (s : State) : State :=
  match pickJob s s.nv.jobs with
  | none => s
  | some (j, l) =>
    if j.begun || !s.nv.erases.isEmpty || s.nv.tail.isSome then s
    else match j.use.region with
      | none => beginCopy j l (copyAt s j 0) s
      | some k =>
        let h := b2n j.twinB
        let at_ := tget 0 s.nv.wp (2 * k + h)
        if 256 < at_ + j.use.words then eraseAsk (halfAddr k h / 8192) (.half k h) s
        else beginCopy j l (copyAt s j at_) { s with nv := { s.nv with wp := tset 0 s.nv.wp (2 * k + h) (at_ + j.use.words) } }

/-- A record is to be written, for the command of SEQ q with RESULT r; it takes the next RSEQ (R358). -/
def nvWrite (u : JobUse) (q r : Nat) (s : State) : State :=
  let j : Job := { use := u, rseq := s.nv.rseq, left := u.words, seq := q, res := r }
  nvBegin { s with nv := { s.nv with rseq := s.nv.rseq + 1, jobs := s.nv.jobs ++ [j] } }

/-- Byte address of the codeword of a job that is being programmed. -/
def jobAddr (j : Job) : Nat := 32 * (j.at_ + (j.total - j.left))

/-- The codeword that a job programs next; none where it leaves an erased one (R358, R376). -/
def jobWord (s : State) (j : Job) : Option W256 :=
  let k := j.total - j.left
  let copy (a : Nat) : Option W256 := let r := s.flashRead a; if r.1 = .erased then none else some r.2
  match j.use with
  | .staging n => copy (256 * n + k)
  | .restore _ => copy (0x3FE000 / 32 + k)
  | u => (if j.data.isEmpty then copyWords u j.rseq j.twinB else j.data)[k]?

/-- The codeword of a job is programmed (R355, R356). -/
def programWord (j : Job) (s : State) : State :=
  match jobWord s j with
  | some w => flashProgram (jobAddr j / 32) w s
  | none => s

/-- What a record stores stands from the acceptance of its first copy on (R362, R363). -/
def accept (j : Job) (s : State) : State :=
  match j.use with
  | .image im => { s with nv := { s.nv with images := tset none s.nv.images im.gen (some im) } }
  | .genState g => { s with nv := { s.nv with stored := some g } }
  | .tag b => { s with nv := { s.nv with tag := b } }
  | .fwState r => { s with fw := { s.fw with stored := some r } }
  | .ember e => { s with pwr := { s.pwr with ember := some e, emberTell := s.pwr.emberTell || s.pwr.phase = .ember } }
  | .intent n c done => { s with nv := { s.nv with intent := if done then none else some (n, c) } }
  | _ => s

/-- A codeword of the write in progress fails its verify: the record is written again, whole, with a new RSEQ, and the
flash-verify event is raised (R361). -/
def verifyFail (s : State) : State :=
  match pickJob s s.nv.jobs with
  | none => s
  | some (j, l) =>
    let again := { j with rseq := s.nv.rseq, twinB := false, only := false, left := j.total, begun := false }
    raise 0xC1 s.tsB (detF (jobAddr j) 0 j.use.type) { s with nv := { s.nv with rseq := s.nv.rseq + 1, jobs := again :: l } }

/-- A codeword of the write in progress is programmed and verified. Answers the job where its last copy is complete. -/
def programStep (s : State) : Option Job × State :=
  match pickJob s s.nv.jobs with
  | none => (none, s)
  | some (j, l) =>
    if !j.begun then (none, nvBegin s)
    else
      let s := programWord j s
      if 1 < j.left then (none, { s with nv := { s.nv with jobs := { j with left := j.left - 1 } :: l } })
      else if j.use.kept && !j.twinB && !j.only then
        let b := { j with twinB := true, left := j.use.words, begun := false }
        (none, nvBegin (accept j { s with nv := { s.nv with jobs := b :: l } }))
      else
        let s := { s with nv := { s.nv with jobs := l } }
        (some j, nvBegin (if j.use.kept then s else accept j s))

/-! ## Erases (R355, R365, R385) -/

/-- The erase count of a sector rises; at 80 000 the wear event (R371, R385). -/
def wearUp (n : Nat) (s : State) : State :=
  let c := tget 0 s.nv.wear n + 1
  let s := { s with nv := { s.nv with wear := tset 0 s.nv.wear n c } }
  if c = 80000 then raise 0xC4 s.tsB (detF n (c / 16) 0) s else s

/-- The places of copies written one behind the other. -/
def backAt (a : Nat) (twinB : Bool) : List Copy → List Copy
  | [] => []
  | c :: l => { c with at_ := a, twinB := twinB } :: backAt (a + c.use.words) twinB l

/-- A half just erased is taking its items back; no other erase runs meanwhile (R365). -/
def backBusy (s : State) : Bool := s.nv.jobs.any fun j => match j.use with | .back k _ => k < 3 | _ => false

/-- FLASH_ERASE_DONE: the erase in front ends. A half takes its items back at once (R365); a recorder sector is erased;
the staging sector ends a refresh; a refreshed firmware sector is programmed from staging (R376). -/
def eraseDone (s : State) : State :=
  match (if backBusy s then [] else s.nv.erases) with
  | [] => s
  | (n, u) :: l =>
    let s := wearUp n (flashErase n { s with nv := { s.nv with
      erases := l, copies := s.nv.copies.filter fun c => !c.inSector n c.use.words } })
    let front (j : Job) (s : State) : State := { s with nv := { s.nv with jobs := j :: s.nv.jobs } }
    nvBegin (match u with
    | .recorder =>
      let k := n - 0x2C0000 / 8192
      { s with recd := { s.recd with
        sects := tset none s.recd.sects k none
        erasing := match s.recd.erasing with
          | some h => if l.any fun e => e.2 = .recorder then some h else none
          | none => none } }
    | .half k h =>
      let cs := backCopies s k
      let data := cs.flatMap fun c => copyWords c.use c.rseq (h = 1)
      let s := { s with nv := { s.nv with
        wp := tset 0 s.nv.wp (2 * k + h) data.length, copies := s.nv.copies ++ backAt (halfAddr k h / 32) (h = 1) cs } }
      if data.isEmpty then s
      else front { use := .back k h, rseq := 0, left := data.length, begun := true, at_ := halfAddr k h / 32, data := data } s
    | .mirror => { s with nv := { s.nv with mirrorRoom := true } }
    | .refresh => front { use := .restore n, rseq := 0, left := 256, begun := true, at_ := 256 * n } s
    | _ => s)

/-! ## Generations (R381 to R384) -/

/-- Sector i of the eight of image slot k: four in each half (R357). -/
def slotSector (k i : Nat) : Nat := (0x200000 + 0x20000 * (i / 4) + 0x8000 * k) / 8192 + i % 4

/-- The image slots no held image takes (R357, R381). -/
def openSlots (s : State) : List Nat := (List.range 4).filter fun k => !(s.nv.slotOf.any fun p => p.2 = some k)

/-- The slot of a new image: an erased one where there is one. -/
def freeSlot (s : State) : Nat :=
  (((openSlots s).find? fun k => !(List.range 8).any fun i => dirty s (slotSector k i)).orElse fun _ => (openSlots s).head?).getD 0

/-- What stands in slots that no held image takes is erased (R365, R381). -/
def clearSlots (s : State) : State :=
  each (openSlots s) (fun k s => each ((List.range 8).filter fun i => dirty s (slotSector k i))
    (fun i s => eraseAsk (slotSector k i) .slot s) s) s

/-- An image is written into a slot that no named image takes. -/
def writeImage (im : Image) (q : Nat) (s : State) : State :=
  let k := freeSlot s
  nvWrite (.image im) q 0 { s with nv := { s.nv with slotOf := tset none s.nv.slotOf im.gen (some k) } }

/-- The generation is named by a state record. -/
def GenState.names (g : GenState) (n : Nat) : Bool := n = g.cur || n = g.prev || n = g.pend

/-- Images no state record names any more are released: their slots are erased (R381, R382). -/
def releaseImages (s : State) : State :=
  let keep (n : Nat) : Bool := s.nv.gen.names n || (s.nv.stored.getD {}).names n ||
    s.nv.jobs.any fun j => match j.use with
      | .image im => im.gen = n
      | .genState g => g.names n
      | _ => false
  let gone := s.nv.slotOf.filter fun p => !keep p.1
  let s := { s with nv := { s.nv with
    images := s.nv.images.filter fun p => keep p.1, slotOf := s.nv.slotOf.filter fun p => keep p.1 } }
  each gone (fun p s => each (List.range 8) (fun i s => eraseAsk (slotSector (p.2.getD 0) i) .slot s) s) s

/-- The generations change: the state record is written, and a command's completion waits for it (R382). -/
def changeGen (g : GenState) (q r : Nat) (s : State) : State :=
  nvWrite (.genState g) q r { s with nv := { s.nv with gen := g } }

/-- The probation of a generation begins at its activating boundary (R383): seconds p. -/
def beginProb (p : Nat) (s : State) : State :=
  { s with nv := { s.nv with prob := if p = 0 then none else some (15625 * p), revertDue := false } }

/-- The generations after GEN g, held as pending or previous, becomes current (R382). -/
def genAfter (g : GenState) (n : Nat) (prob : Bool) : GenState :=
  if n = g.pend then { cur := n, prev := g.cur, pend := 0, prob := prob }
  else { g with cur := n, prev := g.cur, prob := prob }

/-- Generation n is activated at this boundary with p seconds of probation, for the command of SEQ q (R51, R382). -/
def activateGen (n p q : Nat) (s : State) : State :=
  match s.image n with
  | none => s
  | some im => changeGen (genAfter s.nv.gen n (0 < p)) q n (beginProb p (activate im false s))

/-- The current and previous generations change places (R382, R383). -/
def revertGen (q : Nat) (s : State) : State :=
  let n := s.nv.gen.prev
  match s.image n with
  | none => s
  | some im => changeGen { s.nv.gen with cur := n, prev := s.nv.gen.cur, prob := false } q n (beginProb 0 (activate im false s))

/-- CONFIG_CONFIRM, or the window's end (R383). -/
def confirmGen (q : Nat) (s : State) : State :=
  raise 0xC8 s.tsB (detF s.nv.gen.cur 0 0) (changeGen { s.nv.gen with prob := false } q s.nv.gen.cur (beginProb 0 s))

/-- CONFIG_PROBATION_EXPIRY (R383). -/
def probExpiry (s : State) : State := if s.nv.prob.isSome && !s.nv.revertDue then confirmGen 0 s else s

/-- CONFIG_AUTO_REVERT: due, with no program or off run in progress (R120, R383). Held on requests then proceed. -/
def autoRevert (s : State) : State :=
  if s.nv.prob.isSome && s.nv.revertDue && !seqBusy s then
    let n := s.nv.gen.prev
    let s := revertGen 0 s
    let s := jInternal 0x84 2 0 n true s
    let s := raise 0xC6 s.tsB (detF n 0 0) s
    if s.seq.onPending then { s with seq := { s.seq with onLaunch := true } } else s
  else s

/-- CONFIG_ACTIVATE_AT_FRAME (R51): the boundary an activation or revert names arrives, and it takes effect; the tests
are made where it takes effect. -/
def activateAt (s : State) : State :=
  match s.nv.at_ with
  | none => s
  | some (_, n, p, q, rev) =>
    let s := { s with nv := { s.nv with at_ := none } }
    match s.image n with
    | none => finish q stGeneration 0 s
    | some im =>
      match refusal im s with
      | some r => finish q r.1 r.2 s
      | none => if rev then revertGen q s else activateGen n p q s

/-- One watch tick of probation. -/
def probTick (s : State) : State :=
  match s.nv.prob with
  | some (n + 1) =>
    let s := { s with nv := { s.nv with prob := some n } }
    if n = 0 then probExpiry s else s
  | _ => s

/-! ## Calibration (R237, R238) -/

/-- C of a channel: round(16 x sum / N). -/
def calMean (run : CalRun) (ch : Nat) : Int := let a := tget (0, 0) run.acc ch; rdiv (16 * a.1) (orDef a.2 1)

/-- GAIN and OFFSET of a channel from its two points, or the status that refuses them (R237). -/
def calCoef (run : CalRun) (ch : Nat) : Except (Nat × Nat) (Nat × Nat) :=
  let c0 := tget 0 run.c0 ch
  let d := calMean run ch - c0
  if d < 16384 then .error (stSpan, 4)
  else
    let g := rdiv ((run.e1 - run.e0) * 2 ^ 20) d.toNat
    let o := run.e0 - rdiv (c0 * g) (2 ^ 20)
    if g < 0 ∨ 2 ^ 24 ≤ g ∨ o < -32768 ∨ 32767 < o then .error (stCoeff, 5) else .ok (g.toNat, toBits 16 o)

/-- The status that refuses a FULL, of the lowest channel that fails. -/
def calFail (run : CalRun) : Option (Nat × Nat) :=
  run.chans.findSome? fun ch => match calCoef run ch with | .error e => some e | .ok _ => none

/-- The image with the coefficients of the calibration (R238). -/
def calImage (run : CalRun) (s : State) : Image :=
  let im := { (s.image s.nv.gen.cur).getD (captureImage 0 s) with gen := s.nv.gen.cur + 1 }
  let regs := run.chans.foldl (fun t ch => match calCoef run ch with
    | .ok p =>
      let lo := (tget 0 t (calKey + 8 * ch)).toNat
      tset 0 (tset 0 t (calKey + 8 * ch) (BitVec.ofNat 32 (p.1 + put (nbits lo 25 24) 24 2 + 0x4000000)))
        (calKey + 8 * ch + 4) (BitVec.ofNat 32 p.2)
    | .error _ => t) im.regs
  { im with regs := regs, sysCal := true }

/-- A new generation made by the part becomes current at once (R238, R382, R430). -/
def newCurrent (im : Image) (q : Nat) (s : State) : State :=
  let g := s.nv.gen
  let s := writeImage im 0 { s with nv := { s.nv with images := tset none s.nv.images im.gen (some im) } }
  changeGen { cur := im.gen, prev := g.cur, pend := if g.pend ≤ im.gen then 0 else g.pend, prob := false } q im.gen (beginProb 0 (activate im false s))

/-- CAL_PHASE_DONE (R237, R238): every channel has its N results. -/
def calPhaseDone (s : State) : State :=
  match s.cnv.cal with
  | none => s
  | some run =>
    if !(s.cnv.calState = 1 || s.cnv.calState = 3) || !(run.chans.all fun ch => run.n ≤ (tget (0, 0) run.acc ch).2) then s
    else if s.cnv.calState = 1 then
      let c0 := run.chans.foldl (fun t ch => tset 0 t ch (calMean run ch)) []
      finishAt 1 run.seq stOk 0 { s with cnv := { s.cnv with
        calState := 2, calResult := 1, cal := some { run with c0 := c0, acc := [], stale := false } } }
    else
      match calFail run with
      | some e => calRefuse e.1 e.2 s
      | none =>
        let im := calImage run s
        let s := raise 0x79 s.tsB (detCal s 1) { s with cnv := { s.cnv with cal := none, calState := 0, calResult := 1 } }
        newCurrent im run.seq s

/-! ## Counter rings (R163, R367 to R371) -/

/-- Sector of a counter group: X, or Y (R367). -/
def groupSector (g : Nat) (y : Bool) : Nat := (0x3C0000 + 0x4000 * g + (if y then 0x2000 else 0)) / 8192

/-- The six counters of a rail. -/
def countersOf (s : State) (i : Nat) : List Nat := (List.range 6).map fun k => tget 0 (s.rail i).cnt k

/-- A pair of rail i is written at its next pair position: the first slot is programmed, the second one is being programmed
(R367, R369). -/
def putSlots (i : Nat) (v : List Nat) (q : Nat) (s : State) : State :=
  let c := s.cgrp (i / 8)
  let k := 16 * b2n c.y + min 15 (tget 0 c.used (i % 8))
  let s := flashProgram (slotAt i (2 * k)) (BitVec.ofNat 256 (slotBits i v q false)) s
  let twin : Job := { use := .back 3 0, left := 1, begun := true, at_ := slotAt i (2 * k + 1)
                      data := [BitVec.ofNat 256 (slotBits i v q true)] }
  let s := { s with nv := { s.nv with jobs := twin :: s.nv.jobs, counters := tset ([], 0) s.nv.counters i (v, q) } }
  s.modCgrp (i / 8) fun c => { c with used := tmod 0 c.used (i % 8) (· + 1) }

/-- A rail's counters go to flash as a new pair, which lowers its ember deltas (R369). -/
def putPair (i : Nat) (s : State) : State :=
  let q := s.nv.rseq
  let s := putSlots i (countersOf s i) q s
  let s := { s with
    nv := { s.nv with rseq := q + 1, cAge := tset 256 s.nv.cAge i 0 }
    pwr := { s.pwr with stage := { s.pwr.stage with deltas := s.pwr.stage.deltas.filter fun d => d.1 ≠ i } } }
  s.modRail i fun r => { r with delta := [], deltaSince := [] }

/-- The group switches sectors: one pair for every rail of the group into the other sector, the former one is erased
(R371). -/
def switchGroup (g : Nat) (s : State) : State :=
  let old := (s.cgrp g).y
  let s := s.modCgrp g fun _ => { y := !old, used := [] }
  let s := { s with nv := { s.nv with switches := sat 0xFFFF (s.nv.switches + 1) } }
  let s := each (List.range 8) (fun k s => putPair (8 * g + k) s) s
  eraseAsk (groupSector g old) (.counters g) s

/-- COUNTER_RING_UPDATE of a rail with counts not yet written, as class 0 is admitted (R163, R181, R369, R371); it waits for 256
watch ticks since the rail's last one, and for the erase of the sector a switch would go to. -/
def ringUpdate (i : Nat) (s : State) : State :=
  if !ringReady s i || !bgFree s 0 then s
  else if tget 0 (s.cgrp (i / 8)).used (i % 8) < 16 then putPair i s
  else switchGroup (i / 8) s

/-- Rails whose oldest increment not yet written is nearly 256 watch ticks old (R163). -/
def ringLate (s : State) : List Nat :=
  railList.filter fun i => (s.rail i).deltaSince.any fun p => 255 * 32 ≤ (s.clk.frame - BitVec.ofNat 48 p.2).toNat

/-- At the last boundary of a watch tick that admitted class 0, what may not wait longer is written (R163). -/
def ringBound (s : State) : State := if s.drt.bg.testBit 0 then each (ringLate s) ringUpdate s else s

/-- One watch tick of the counters' ages. -/
def counterTick (s : State) : State :=
  { s with nv := { s.nv with cAge := (s.nv.cAge.map fun p => (p.1, sat 256 (p.2 + 1))).filter fun p => p.2 < 256 } }

/-! ## The journal mirror (R316, R372) -/

/-- An entry's codeword is programmed at the mirror's head (R372). -/
def mirrorAppend (e : JEntry) (s : State) : State :=
  let n := s.nv.mirrorPos
  let s := flashProgram (mirrorAt n) (BitVec.ofNat 256 e.bits) s
  { s with nv := { s.nv with mirrorPos := (n + 1) % 16640 }, jrn := { s.jrn with mirror := (e :: s.jrn.mirror).take 16640 } }

/-- JOURNAL_MIRROR_WRITE, as class 2 is admitted (R181): the oldest waiting final entry goes to flash. A new sector needs the next one erased: the
oldest is, and the entry waits. -/
def mirrorWrite (s : State) : State :=
  if !bgFree s 2 then s
  else match s.jrn.waiting with
  | [] => s
  | q :: l =>
    match s.jEntry q with
    | none => { s with jrn := { s.jrn with waiting := l } }
    | some e =>
      let n := s.nv.mirrorPos
      if n % 256 = 0 && !s.nv.mirrorRoom then
        let sec := n / 256
        eraseAsk (if sec = 64 then 0x3FC000 / 8192 else 0x240000 / 8192 + sec) .mirror s
      else
        mirrorAppend e { s with
          nv := { s.nv with mirrorRoom := if n % 256 = 0 then s.jrn.mirror.length < 16384 else s.nv.mirrorRoom }
          jrn := { s.jrn with waiting := l } }

/-! ## Refresh (R374 to R376) -/

/-- MARGIN_SWEEP_START: 7 days after the previous one began, none in progress. -/
def sweepStart (s : State) : State :=
  if s.nv.sweep then s
  else nvWrite (.progress 0) 0 0 { s with nv := { s.nv with sweep := true, sweepPos := 0, sweepBegan := some s.clk.frame } }

/-- A region's newest item that holds a codeword is written again, both twins, with a new RSEQ (R375). -/
def rewriteItem (k : Nat) (s : State) : State :=
  if k = 0 then (if s.nv.tag.isEmpty then s else nvWrite (.tag s.nv.tag) 0 0 s)
  else if k = 1 then (match s.pwr.ember with | some e => nvWrite (.ember e) 0 0 s | none => s)
  else match s.nv.stored with
    | some g => nvWrite (.genState g) 0 0 s
    | none => s

/-- A weak recorder record is copied forward with REFRESHED set, where it is the copy readers take (R399). -/
def copyRecord (sec slot : Nat) (s : State) : State :=
  match tget none s.recd.sects sec with
  | some x =>
    (match x.slots[slot]? with
    | some y => if y.ok && !y.old && !s.recd.frozen then nvWrite (.record { y.img with refreshed := true }) 0 0 s else s
    | none => s)
  | none => s

/-- One weak word at byte address a is made sound (R375, R376). -/
def rewriteWeak (a : Nat) (s : State) : State :=
  let s := { s with nv := { s.nv with weak := sat 0xFFFF (s.nv.weak + 1) } }
  if a < 0x200000 then
    if s.nv.jobs.any fun j => match j.use with | .staging _ => true | _ => false then s
    else nvWrite (.staging (a / 8192)) 0 0 s
  else if a < 0x240000 then
    match s.nv.slotOf.find? fun p => p.2 = some (a % 0x20000 / 0x8000) with
    | some p => (match s.image p.1 with | some im => writeImage im 0 s | none => s)
    | none => s
  else if a < 0x2C0000 ∨ within 0x3FC000 0x3FDFFF a then
    let n := (if a < 0x2C0000 then (a - 0x240000) else 64 * 8192 + a - 0x3FC000) / 32
    match s.jrn.mirror[(s.nv.mirrorPos + 16640 - 1 - n) % 16640]? with
    | some e =>
      if n % 256 = 0 && !s.nv.mirrorRoom then s
      else mirrorAppend e s
    | none => s
  else if a < 0x3C0000 then copyRecord ((a - 0x2C0000) / 8192) (a % 8192 / 256) s
  else if a < 0x3F0000 then
    let i := 8 * ((a - 0x3C0000) / 0x4000) + a % 8192 / 0x400
    putPair i s
  else if a < 0x3FC000 then rewriteItem ((a - 0x3F0000) / 0x4000) s
  else s

/-- An uncorrectable word at byte address a outside an interrupted tail (R366, R399). -/
def badFlashWord (a : Nat) (s : State) : State :=
  let s := wordErr s.tsB 0x18 (a / 32) .uncorrectable s
  if a < 0x200000 then
    let b := a / 0x100000
    if (b = 1) = s.fw.state.confBank then
      { s with fw := { s.fw with state := { s.fw.state with damaged := s.fw.state.damaged ||| 2 ^ b } } }
    else s
  else if within 0x2C4000 0x3BFFFF a then
    let sec := (a - 0x2C0000) / 8192
    match tget none s.recd.sects sec with
    | some x =>
      (match x.slots[a % 8192 / 256]? with
      | some y =>
        let n := b2n (y.ok && !y.old)
        let slots := x.slots.set (a % 8192 / 256) { y with ok := false }
        ashRise n { s with recd := { s.recd with sects := tset none s.recd.sects sec (some { x with slots := slots }) } }
      | none => s)
    | none => s
  else if within 0x200000 0x23FFFF a ∨ within 0x3F0000 0x3FBFFF a then rewriteWeak a { s with nv := { s.nv with weak := s.nv.weak - 1 } }
  else s

/-- SWEEP_STEP, as class 5 is admitted (R181): one sector is margin-read; `weak` and `bad` are the byte addresses found (R374, R375). A firmware bank
that a session is writing is passed over. The position is kept every 64 sectors. -/
def sweepStep (weak bad : List Nat) (s : State) : State :=
  if !s.nv.sweep || !bgFree s 5 then s
  else
    let sec := s.nv.sweepPos / 256
    let mine (l : List Nat) := l.filter fun a => a / 8192 = sec
    let skip := sec < 256 && s.fw.sess.isSome && (sec / 128 = 1) ≠ s.fw.runBank
    let w := if skip then [] else mine weak
    let s := if skip then s else each (mine bad) badFlashWord s
    let s := each w rewriteWeak s
    let s := if w.isEmpty then s else raise 0xC2 s.tsB (detF sec w.length 0) s
    if sec = 511 then
      { s with nv := { s.nv with sweep := false, sweepPos := 0, sweeps := sat 0xFFFF (s.nv.sweeps + 1) } }
    else
      let s := { s with nv := { s.nv with sweepPos := 256 * (sec + 1) } }
      if (sec + 1) % 64 = 0 then nvWrite (.progress (256 * (sec + 1))) 0 0 s else s

/-! ## What a reset or a power failure interrupts (R37, R356, R365, R446) -/

/-- The erase in progress is aborted; it is made again at the next boot. -/
def eraseAbort (s : State) : State :=
  match s.nv.erases with
  | [] => s
  | e :: _ => tornErase e.1 { s with nv := { s.nv with again := some e, erases := [] } }

/-- The job whose codeword is being programmed. -/
def jobRunning (s : State) : Option Job := s.nv.tail.orElse fun _ => ((pickJob s s.nv.jobs).map (·.1)).filter (·.begun)

/-- The codeword being programmed is lost with the supply. -/
def programAbort (s : State) : State :=
  match jobRunning s with
  | none => s
  | some j => match jobWord s j with
    | some w => if s.flashRaw (jobAddr j / 32) = erasedWord then tornWord (jobAddr j / 32) (wcEncode w) s else s
    | none => s

/-- The codeword that was being programmed as a reset or a power failure began has run to its end. -/
def tailDone (s : State) : State :=
  match s.nv.tail with
  | none => s
  | some j => nvBegin (programWord j { s with nv := { s.nv with tail := none } })

/-- A record is written at once, both twins, as the ROM does before it goes on (R361, R435 to R437). -/
def storeCopy (u : JobUse) (rseq : Nat) (twinB : Bool) (s : State) : State :=
  let k := u.region.getD 2
  let h := b2n twinB
  let at_ := tget 0 s.nv.wp (2 * k + h)
  let back := backCopies s k
  let full := 256 < at_ + u.words
  let sec := halfAddr k h / 8192
  let s := if full then wearUp sec (flashErase sec { s with nv := { s.nv with copies := s.nv.copies.filter fun c => !c.inSector sec c.use.words } }) else s
  let cs := if full then backAt (256 * sec) twinB back else []
  let at_ := if full then (back.map fun c => c.use.words).foldl (· + ·) 0 else at_
  let c : Copy := { at_ := 256 * sec + at_, use := u, rseq := rseq, twinB := twinB }
  let s := { s with nv := { s.nv with wp := tset 0 s.nv.wp (2 * k + h) (at_ + u.words), copies := s.nv.copies ++ cs ++ [c] } }
  each (cs ++ [c]) (fun c s => each (copyWords c.use c.rseq c.twinB).zipIdx (fun w s => flashProgram (c.at_ + w.2) w.1 s) s) s

/-- Twin A, then twin B (R361). -/
def storeNow (u : JobUse) (s : State) : State :=
  let q := s.nv.rseq
  storeCopy u q true (storeCopy u q false { s with nv := { s.nv with rseq := q + 1 } })

/-! ## Write protection (R377) -/

/-- A command is refused with NVWP and its event (R377). -/
def nvwpRefuse (q op : Nat) (s : State) : State := raise 0xC5 s.tsB (detB 0 op false true q) s

/-- The level at a boundary: a change takes effect at the fourth one (R377). -/
def nvwpStep (level : Bool) (s : State) : State :=
  if level = s.nv.nvwp then { s with nv := { s.nv with nvwpCnt := 0 } }
  else if s.nv.nvwpCnt = 3 then { s with nv := { s.nv with nvwp := level, nvwpCnt := 0 } }
  else { s with nv := { s.nv with nvwpCnt := s.nv.nvwpCnt + 1 } }

/-! ## Happenings of this chapter -/

def execNvwpChange (level : Bool) (s : State) := Next { s with nv := { s.nv with nvwp := level, nvwpCnt := 0 } }
def execCalPhaseDone (s : State) := Next (calPhaseDone s)
def execConfigActivateAtFrame (s : State) := Next (activateAt s)
def execConfigProbationExpiry (s : State) := Next (probExpiry s)
def execConfigAutoRevert (s : State) := Next (autoRevert s)
def execCounterRingUpdate (rail : Nat) (s : State) := Next (onRail rail (ringUpdate rail) s)
def execJournalMirrorWrite (s : State) := Next (mirrorWrite s)
def execMarginSweepStart (s : State) := Next (sweepStart s)
def execSweepStep (weak bad : List Nat) (s : State) := Next (sweepStep weak bad s)

end Sys2Proof.Machine
end

