-- ==== Sys2Proof/Machine/Recorder.lean ====
section
/-! DEFINITION. Machine/Recorder.lean: the event recorder: images, buffer, flush, sectors, freeze, clearing, record
bytes (R387 to R411, R358). -/

namespace Sys2Proof.Machine

/-! ## Making images (R388 to R393) -/

/-- The snapshot words of list l as they stand now, up to its end (R389, R390). -/
def snapList (s : State) (l : Nat) : List Nat :=
  let offs := (List.range 32).map fun k =>
    let w := s.cw (0xB400 + 0x40 * l + 4 * (k / 2))
    if k % 2 = 0 then fld w 15 0 else fld w 31 16
  (offs.takeWhile (· ≠ 0xFFFF)).map fun o => (bar0Read s o).toNat

/-- The image of an occurrence that carries `count` occurrences (R389, R392). -/
def makeImage (o : Occ) (count : Nat) (s : State) : Img :=
  let l := s.cf (0xB000 + 4 * o.src) 4 1
  { rnum := s.recd.next, src := o.src, sev := o.sev, ts := o.ts, count := sat 0xFFFF count, snapFrame := s.clk.frame, list := l
    jseq := s.jrn.head, detail := o.detail, ash := s.recd.ash, gen := s.nv.gen.cur, words := snapList s l }

/-- The image a new one of severity v displaces: not being flushed, of the lowest severity at or below v, then of the
lowest RNUM (R393). -/
def displaced (s : State) (v : Nat) : Option Img :=
  let l := s.recd.buf.filter fun im => im.sev ≤ v && !s.recd.flushing.contains im.rnum
  l.foldl (fun b im => match b with
    | some x => if im.sev < x.sev then some im else some x
    | none => some im) none

/-- The eight words of an image are written whole (R28). -/
def imgWritten (im : Img) (s : State) : State := each (List.range 8) (fun k s => wcWritten 0x13 (8 * (im.rnum % 512) + k) s) s

/-- An image in the buffer is rewritten; one no longer there is not. -/
def bufSet (im : Img) (s : State) : State :=
  if s.recd.buf.any fun y => y.rnum = im.rnum then
    imgWritten im { s with recd := { s.recd with buf := s.recd.buf.map fun y => if y.rnum = im.rnum then im else y } }
  else s

/-- An image enters the buffer, its eight words written whole, or is discarded (R28, R393). -/
def bufPut (im : Img) (s : State) : State :=
  if s.recd.buf.length < 512 then imgWritten im { s with recd := { s.recd with buf := s.recd.buf ++ [im] } }
  else match displaced s im.sev with
    | some x => ashRise 1 (imgWritten im { s with recd := { s.recd with buf := (s.recd.buf.filter fun y => y.rnum ≠ x.rnum) ++ [im] } })
    | none => ashRise 1 s

/-- Bits [1535:512] of a summary, from bit 0. -/
def summBits (x : Summ) : Nat :=
  x.srcs.toNat + ((List.range 8).map fun g => put (tget 0 x.groups g) (256 + 16 * g) 16).foldl (· + ·) 0 +
    put x.last.frame.toNat 384 48 + put x.last.frac.toNat 432 8

/-- The summary as an image (R404). -/
def summImage (x : Summ) (s : State) : Img :=
  { rnum := x.rnum, src := 0xCB, sev := x.sev, ts := x.ts, summary := true, count := x.count, snapFrame := s.clk.frame
    jseq := s.jrn.head, ash := s.recd.ash, gen := s.nv.gen.cur, extra := summBits x }

/-- The freeze's summary takes an occurrence: the buffer holds it from the first on, and keeps it current (R403, R404). -/
def suppress (o : Occ) (s : State) : State :=
  let r := s.recd
  let b := BitVec.ofNat 256 (2 ^ o.src)
  let x : Summ := match r.summ with
    | some x => { x with
        sev := max x.sev o.sev, count := sat 0xFFFF (x.count + 1), srcs := x.srcs ||| b, last := o.ts
        groups := tmod 0 x.groups (o.src / 32) fun n => sat 0xFFFF (n + 1) }
    | none => { rnum := r.next, sev := o.sev, ts := o.ts, count := 1, srcs := b, groups := tset 0 [] (o.src / 32) 1, last := o.ts }
  let s := { s with recd := { r with
    summ := some x, next := if r.summ.isSome then r.next else r.next + 1
    suppressed := sat 0xFFFF (r.suppressed + 1), highest := max r.highest o.sev } }
  if r.summ.isSome then bufSet (summImage x s) s else bufPut (summImage x s) s

/-- RECORD_IMAGE_MAKE: CE3 takes the oldest occurrence of the queue (R388, R389, R402, R404). With CE3 halted none is
made. -/
def recordMake (s : State) : State :=
  match s.recd.queue with
  | [] => s
  | (f, o) :: l =>
    if (s.eng 3).halted || !frameLe f s.clk.frame then s
    else
      let s := { s with recd := { s.recd with queue := l } }
      if s.recd.frozen then suppress o s
      else if tget 0 s.recd.hold o.src ≠ 0 then
        { s with recd := { s.recd with absorbed := tmod 0 s.recd.absorbed o.src (· + 1) } }
      else
        let im := makeImage o (tget 0 s.recd.absorbed o.src + 1) s
        let s := bufPut im s
        { s with recd := { s.recd with
          next := s.recd.next + 1, absorbed := tset 0 s.recd.absorbed o.src 0
          hold := tset 0 s.recd.hold o.src (s.cf (0xB000 + 4 * o.src) 15 8)
          flush := s.recd.flush || o.sev = 3, urgent := s.recd.urgent || o.sev = 3 } }

/-! ## Placing records (R397 to R399) -/

/-- The sector record k. -/
def State.sect (s : State) (k : Nat) : Option RSect := tget none s.recd.sects k

/-- A slot is used in sector k for an image; a full sector is open no more. The slot counts once its copy is accepted. -/
def useSlot (k : Nat) (im : Img) (s : State) : State :=
  let x := (s.sect k).getD { sev := im.sev }
  let x := { x with slots := x.slots ++ [{ img := im, ok := false }] }
  { s with recd := { s.recd with
    sects := tset none s.recd.sects k (some x)
    opened := tset none s.recd.opened im.sev (if 32 ≤ x.slots.length then none else some k) } }

/-- An erased ordinary sector outside the reserve. -/
def erasedSect (s : State) : Option Nat :=
  (List.range 126).find? (fun k => (s.sect (k + 2)).isNone && !s.recd.reserve.contains (k + 2)) |>.map (· + 2)

/-- The open sector of a severity with room, if there is one. -/
def openSect (s : State) (v : Nat) : Option Nat :=
  match tget none s.recd.opened v with
  | some k => if ((s.sect k).elim 0 fun x => x.slots.length) < 32 then some k else none
  | none => none

/-- RNUM of a sector's newest record. -/
def newestOf (x : RSect) : Nat := x.slots.foldl (fun m y => max m y.img.rnum) 0

/-- The victim for a record of severity v (R397): the full sector of the lowest severity at or below v whose newest
record is the oldest. -/
def victim (s : State) (v : Nat) : Option Nat :=
  let l := s.recd.sects.filterMap fun p => match p.2 with
    | some x => if 2 ≤ p.1 && x.sev ≤ v && 32 ≤ x.slots.length then some (x.sev, newestOf x, p.1) else none
    | none => none
  (l.foldl (fun b x => match b with
    | some y => if x.1 < y.1 || (x.1 = y.1 && x.2.1 < y.2.1) then some x else some y
    | none => some x) none).map (·.2.2)

/-- The victim is erased: its accepted, current records become ash (R398); it joins the reserve (R397). -/
def eraseVictim (k : Nat) (s : State) : State :=
  let n := (s.sect k).elim 0 fun x => (x.slots.filter fun y => y.ok && !y.old).length
  let s := ashRise n { s with recd := { s.recd with sects := tset none s.recd.sects k none, reserve := s.recd.reserve ++ [k] } }
  eraseAsk (0x2C0000 / 8192 + k) .recorder s

/-- A record finds its slot (R397): its open sector, an erased one, or a reserve sector behind an erased victim. -/
def placeRecord (im : Img) (s : State) : Bool × State :=
  match openSect s im.sev with
  | some k => (true, useSlot k im s)
  | none =>
    match erasedSect s with
    | some k => (true, useSlot k im s)
    | none =>
      match victim s im.sev, s.recd.reserve with
      | some v, r :: l => (true, useSlot r im (eraseVictim v { s with recd := { s.recd with reserve := l } }))
      | _, _ => (false, s)

/-- The records of the ember writer: the open sector or a reserve sector, without any erase (R395). -/
def placeEmber (im : Img) (s : State) : Bool × State :=
  match openSect s im.sev, s.recd.reserve.find? fun k => !dirty s (0x2C0000 / 8192 + k) with
  | some k, _ => (true, useSlot k im s)
  | none, some r => (true, useSlot r im { s with recd := { s.recd with reserve := s.recd.reserve.erase r } })
  | none, none => (false, s)

/-- The copy of an RNUM in flash is accepted; an older copy of it is superseded (R399). -/
def slotOk (n : Nat) (im : Img) (y : RSlot) : RSlot :=
  if y.img.rnum ≠ im.rnum then y
  else if !y.ok && !y.old && y.img.refreshed = im.refreshed then { y with ok := true, img := { im with rseq := n } }
  else { y with old := true }

/-- Changes every slot of the ordinary sectors. -/
def mapSlots (f : RSlot → RSlot) (t : Tbl (Option RSect)) : Tbl (Option RSect) :=
  t.map fun p => (p.1, p.2.map fun x => { x with slots := x.slots.map f })

/-- A record's copy is programmed and verified: the image leaves the buffer (R393); the flush ends with its last one
(R394). -/
def recordStored (n : Nat) (im : Img) (s : State) : State :=
  let fl := s.recd.flushing.filter (· ≠ im.rnum)
  let ends := s.recd.flush && fl.isEmpty
  { s with recd := { s.recd with
    sects := mapSlots (slotOk n im) s.recd.sects, buf := s.recd.buf.filter fun x => x.rnum ≠ im.rnum || im.refreshed
    flushing := fl, flush := s.recd.flush && !fl.isEmpty, urgent := s.recd.urgent && !fl.isEmpty, flushTicks := if ends then 0 else s.recd.flushTicks } }

/-- One image of a flush is placed and its write queued, or it is discarded (R397). -/
def flushOne (im : Img) (s : State) : State :=
  let r := placeRecord im s
  if r.1 then
    nvWrite (.record im) 0 0 { r.2 with recd := { r.2.recd with flushing := r.2.recd.flushing ++ [im.rnum] } }
  else ashRise 1 { r.2 with recd := { r.2.recd with buf := r.2.recd.buf.filter fun x => x.rnum ≠ im.rnum } }

/-- RECORDER_FLUSH (R394, R402): every image of the buffer, in ascending RNUM. -/
def recorderFlush (s : State) : State :=
  if s.recd.frozen then s
  else
    let l := s.recd.buf.filter fun im => !s.recd.flushing.contains im.rnum
    if l.isEmpty then { s with recd := { s.recd with flush := !s.recd.flushing.isEmpty } }
    else each l flushOne { s with recd := { s.recd with flush := true } }

/-- A flush is due (R394): severity 3, the time, or 384 images. -/
def flushDue (s : State) : Bool :=
  s.recd.flush || 384 ≤ s.recd.buf.length || 256 * orDef (s.cf 0xB800 7 0) 1 ≤ s.recd.flushTicks

/-! ## Freeze (R402 to R404) -/

/-- The recorder freezes (R402). -/
def freeze (s : State) : State :=
  { s with recd := { s.recd with
    frozen := true, frzLeft := 15625 * orDef (s.cf 0xB800 19 8) 1, summ := none, suppressed := 0, highest := 0 } }

/-- The recorder thaws: the summary is completed and its event raised (R402, R404). -/
def thaw (s : State) : State :=
  if !s.recd.frozen then s
  else
    let s := { s with recd := { s.recd with frozen := false, frzLeft := 0 } }
    match s.recd.summ with
    | none => s
    | some x =>
      let s := bufSet (summImage x s) { s with recd := { s.recd with summ := none, flush := s.recd.flush || x.sev = 3, urgent := s.recd.urgent || x.sev = 3 } }
      raiseSev 0xCB x.sev s.tsB (detK x.rnum s.recd.ash x.sev x.count) s

/-! ## Clearing (R406 to R408) -/

/-- Records held: in flash and in the buffer. -/
def heldCount (s : State) : Nat := (heldSlots s).length + s.recd.buf.length

/-- The clear record of the command of SEQ q, made at its effect boundary (R408). -/
def clearImage (q : Nat) (s : State) : Img :=
  let n := s.recd.nonce.elim 0 fun x => x.1.toNat
  { rnum := s.recd.next, src := 0xCC, sev := 3, ts := s.tsB, clear := true, snapFrame := s.clk.frame, jseq := q, ash := s.recd.ash
    gen := s.nv.gen.cur
    extra := put (recOldest s) 0 32 + put (s.recd.next - 1) 32 32 + put (heldCount s) 64 32 + put s.recd.ash 96 32 + put n 128 64 +
      put (s.recd.clears.length + 1) 192 7 }

/-- A sector holds only records at or below h. -/
def onlyCleared (h : Nat) (x : RSect) : Bool := x.slots.all fun y => y.img.rnum ≤ h

/-- CLEAR_ERASURE: the sectors that hold only cleared records are erased (R408). -/
def clearErasure (s : State) : State :=
  match s.recd.erasing with
  | none => s
  | some h =>
    let l := s.recd.sects.filter fun p => match p.2 with | some x => onlyCleared h x | none => false
    if l.isEmpty then
      (if s.nv.erases.any fun e => e.2 = .recorder then s else { s with recd := { s.recd with erasing := none } })
    else
      each l (fun p s => eraseAsk (0x2C0000 / 8192 + p.1) .recorder { s with recd := { s.recd with
        sects := tset none s.recd.sects p.1 none, opened := s.recd.opened.filter fun o => o.2 ≠ some p.1 } }) s

/-- CLEAR_COMMIT: the clear record is accepted (R408). Every record at or below HIGH is cleared; the command's final
completion follows the mirror. -/
def clearCommit (s : State) : State :=
  match s.recd.clearing with
  | none => s
  | some (q, im) =>
    let h := nbits im.extra 63 32
    let n := nbits im.extra 95 64
    let old (y : RSlot) : RSlot := if y.img.rnum ≤ h then { y with old := true } else y
    let s := { s with
      nv := { s.nv with jobs := s.nv.jobs.filter fun j => match j.use with | .clear _ => false | .record i => h < i.rnum | _ => true }
      recd := { s.recd with
        clearing := none, clears := s.recd.clears ++ [im], erasing := some h, ash := 0
        buf := s.recd.buf.filter fun x => h < x.rnum, flushing := s.recd.flushing.filter fun x => h < x
        sects := mapSlots old s.recd.sects } }
    let s := raise 0xCC s.tsB (detK im.rnum 0 3 n) s
    finishAt 1 q stOk 0 s

/-! ## Bytes of a record (R358, R391, R392, R401) -/

/-- The 256 bytes of a record: of its flash copy, or of the buffer image with RSEQ, HCHK and DIGEST 0 (R401). -/
def recBytes (im : Img) (flash : Bool) : List Byte :=
  if flash then wordBytes (copyWords (.record im) im.rseq false)
  else leBytes 32 (headBits 0x30 0 6 (recKey im) 0) ++ leBytes 192 (payloadBits im) ++ leBytes 32 (tailWord 0x30 0 6 0 0).toNat

/-- The record of an RNUM as readers take it (R399, R401, R408). -/
def recordAt (s : State) (n : Nat) : Option (List Byte) :=
  match s.recd.clears.find? (fun im => im.rnum = n), (heldSlots s).find? (fun y => y.img.rnum = n), s.recd.buf.find? (fun im => im.rnum = n) with
  | some im, _, _ => some (recBytes im true)
  | _, some y, _ => some (recBytes y.img true)
  | _, _, some im => some (recBytes im false)
  | _, _, _ => none

/-! ## Ticks and happenings -/

/-- NONCE_EXPIRY (R406). -/
def nonceEnd (s : State) : State := { s with recd := { s.recd with nonce := none } }

/-- One watch tick of the recorder: HOLDOFF (R388), the flush interval (R394), the freeze (R402), the nonce (R406). -/
def recTick (s : State) : State :=
  let r := s.recd
  let s := { s with recd := { r with
    hold := (r.hold.map fun p => (p.1, p.2 - 1)).filter fun p => p.2 ≠ 0
    flushTicks := sat 0xFFFF (r.flushTicks + 1), frzLeft := r.frzLeft - 1
    nonce := r.nonce.bind fun n => if n.2.2 ≤ 1 then none else some (n.1, n.2.1, n.2.2 - 1) } }
  if s.recd.frozen && s.recd.frzLeft = 0 then thaw s else s

/-- The background class 1 work of a watch tick that admits it (R394, R408). -/
def recBackground (s : State) : State :=
  if !s.drt.bg.testBit 1 then s
  else clearErasure (if flushDue s && !s.recd.buf.isEmpty then recorderFlush s else s)

/-- EMBER_RECORDER_FLUSH of up to n images (R395): highest severity first, then ascending RNUM; the freeze's summary
comes first within its severity. -/
def emberFlush (n : Nat) (s : State) : State :=
  if s.pwr.phase ≠ .ember then s
  else
    let first (im : Img) : Bool := s.recd.summ.any fun x => x.rnum = im.rnum
    let l := [3, 2, 1, 0].flatMap fun v => (s.recd.buf.filter fun im => im.sev = v && first im) ++ s.recd.buf.filter fun im => im.sev = v && !first im
    each (l.take n) (fun im s =>
      let r := placeEmber im s
      if r.1 then
        let q := r.2.nv.rseq
        let a := recSlot r.2 im
        let s := each (copyWords (.record im) q false).zipIdx (fun w s => flashProgram (a + w.2) w.1 s) { r.2 with nv := { r.2.nv with
          rseq := q + 1, copies := r.2.nv.copies ++ [{ at_ := a, use := .record im, rseq := q }] } }
        let s := recordStored q im s
        { s with pwr := { s.pwr with flushed := s.pwr.flushed ++ [im.rnum] } }
      else s) s

def execRecordImageMake (s : State) := Next (recordMake s)
def execHoldoffExpiry (src : Nat) (s : State) := Next { s with recd := { s.recd with hold := tset 0 s.recd.hold src 0 } }
def execRecorderFlush (s : State) := Next (recorderFlush s)
def execFreezeTimeout (s : State) := Next (thaw s)
def execNonceExpiry (s : State) := Next (nonceEnd s)
def execClearCommit (s : State) := Next (clearCommit s)
def execClearErasure (s : State) := Next (clearErasure s)
def execEmberRecorderFlush (n : Nat) (s : State) := Next (emberFlush n s)

end Sys2Proof.Machine
end

