-- ==== Sys2Proof/Machine/Firmware.lean ====
section
/-! DEFINITION. Machine/Firmware.lean: firmware images and their checks, the flue port, download, activation, the
handover, probation and confirmation (R412 to R434, R437 to R441). -/

namespace Sys2Proof.Machine

/-! ## Flue statuses (R439) -/

def flOk : Nat := 0x00
def flBusy : Nat := 0x01
def flNoSession : Nat := 0x02
def flBadPacket : Nat := 0x03
def flBadState : Nat := 0x04
def flMagic : Nat := 0x05
def flFamily : Nat := 0x06
def flStepping : Nat := 0x07
def flFormat : Nat := 0x08
def flSize : Nat := 0x09
def flKey : Nat := 0x0A
def flSignature : Nat := 0x0B
def flRollback : Nat := 0x0C
def flNvwp : Nat := 0x0D
def flProbation : Nat := 0x0E
def flOffset : Nat := 0x0F
def flDigest : Nat := 0x10
def flManifest : Nat := 0x11
def flComponent : Nat := 0x12
def flCfgFormat : Nat := 0x13
def flAdmission : Nat := 0x14
def flPartner : Nat := 0x15
def flFlash : Nat := 0x16
def flKeySet : Nat := 0x17
def flPastFrame : Nat := 0x18
def flNotReady : Nat := 0x19

/-! ## The image (R413 to R416) -/

/-- A little-endian field of n bytes at byte i. -/
def leAt (b : List Byte) (i n : Nat) : Nat := leNat (slice b i n)

/-- The SVN minimum in force: the fuses as delivered, or raised by a confirmation (R433). -/
def fuseMin (s : State) : Nat := max Config.svnFuse s.fw.svnMin

/-- The fields of a header (R413). -/
def parseHdr (b : List Byte) : FwHdr :=
  { bytes := b, version := leAt b 8 4, svn := leAt b 12 1, keyId := leAt b 13 1, flags := leAt b 14 2
    bodySize := leAt b 16 4, cfgMin := leAt b 20 1, cfgMax := leAt b 21 1 }

/-- The first check of R414 that a header of 256 bytes fails. -/
def hdrFail (b : List Byte) (s : State) : Option Nat :=
  let h := parseHdr b
  let zero (i n : Nat) : Bool := (slice b i n).all (· = 0)
  let x := beNat (slice b 56 32)
  let y := beNat (slice b 88 32)
  if leAt b 0 4 ≠ 0x46579608 then some flMagic
  else if leAt b 4 2 ≠ 0x9608 || !zero 22 2 || !zero 120 8 || !zero 192 64 then some flFamily
  else if leAt b 6 1 ≠ 0xC0 then some flStepping
  else if leAt b 7 1 ≠ 1 then some flFormat
  else if h.bodySize % 32 ≠ 0 || !within 512 1048320 h.bodySize then some flSize
  else if 1 < h.keyId || Config.keyRevoked h.keyId || sha256 (slice b 56 64) ≠ Config.keyDigest h.keyId then some flKey
  else if !ecdsaVerify x y (b.take 128) (beNat (slice b 128 32)) (beNat (slice b 160 32)) then some flSignature
  else if h.svn < fuseMin s then some flRollback
  else none

/-- A component entry of a manifest (R415). -/
structure Comp where
  typ : Nat
  offset : Nat
  length : Nat
  xfer : List Byte
  xfer2 : List Byte
  digest : List Byte
  rsvd : List Byte

/-- The component entries of a body. -/
def components (body : List Byte) : List Comp :=
  (List.range (leAt body 0 2)).map fun k =>
    let e := slice body (32 + 64 * k) 64
    { typ := leAt e 0 1, offset := leAt e 4 4, length := leAt e 8 4, xfer := slice e 12 4, xfer2 := slice e 48 4
      digest := slice e 16 32, rsvd := slice e 1 3 ++ slice e 52 12 }

/-- The manifest bytes of a body. -/
def manifest (body : List Byte) : List Byte := body.take (leAt body 2 2)

/-- Size limit of a component type in bytes (R416). -/
def compLimit (t : Nat) : Nat :=
  if t = 1 ∨ t = 2 then 98304 else if t = 3 then 16384 else if t = 4 then 32768 else if t = 5 then 4096
  else if t = 7 then 16384 else 1048320

/-- Two components do not overlap. -/
def apart (a b : Comp) : Bool := decide (a.length = 0 ∨ b.length = 0 ∨ a.offset + a.length ≤ b.offset ∨ b.offset + b.length ≤ a.offset)

/-- Every pair of a list is apart. -/
def allApart : List Comp → Bool
  | [] => true
  | a :: l => l.all (apart a) && allApart l

/-- The manifest is well formed and complete (R415, R416). -/
def manifestOk (body : List Byte) : Bool :=
  let n := leAt body 0 2
  let l := components body
  let count (t : Nat) : Nat := (l.filter fun c => c.typ = t).length
  within 1 16 n && leAt body 2 2 = 32 + 64 * n && (slice body 4 28).all (· = 0) &&
    ([1, 2, 3, 4, 5, 7].all fun t => count t = 1) && count 6 ≤ 1 &&
    (l.all fun c => within 1 7 c.typ && c.rsvd.all (· = 0) && c.offset % 32 = 0 &&
      c.offset + c.length ≤ body.length && c.length ≤ compLimit c.typ) && allApart l

/-- Every component has its DIGEST; the type 6 entry names the partner's manifest instead (R415). -/
def compsOk (body : List Byte) : Bool :=
  (components body).all fun c => c.typ = 6 || sha256 (slice body c.offset c.length) = c.digest

/-- Costs of CE0-CE7 in cycles from eight bytes in units of 4 cycles (R415). -/
def costs (b : List Byte) : List Nat := b.map fun x => 4 * x.toNat

/-- The bytes of the first component of a type. -/
def compOf (t : Nat) (f : Comp → List Byte) (body : List Byte) : List Byte :=
  match (components body).find? fun c => c.typ = t with
  | some c => f c
  | none => []

/-- The figures of a whole image. -/
def fwImage (h : FwHdr) (body : List Byte) : FwImg :=
  { version := h.version, svn := h.svn, cfgMin := h.cfgMin, cfgMax := h.cfgMax, mdig := sha256 (manifest body)
    xfer := costs (compOf 1 Comp.xfer body ++ compOf 2 Comp.xfer body)
    rev := costs (compOf 7 Comp.xfer body ++ compOf 7 Comp.xfer2 body), raiseSvn := h.flags % 2 = 1 }

/-! ## The handover frame (R425, R426) -/

/-- L(p) of an engine: its sum at a phase, with T0.1 and T0.2 at 120 and 60 cycles (R425). -/
def handLoad (s : State) (e p : Nat) : Nat := if e = 0 then 180 else phaseSum (taskCosts s e) p

/-- The lowest engine that does not qualify at a phase under the costs given. -/
def phaseFails (s : State) (cost : List Nat) (p : Nat) : Option Nat :=
  (List.range 8).find? fun e => engUsed s e && 900 < cost.getD e 0 + handLoad s e p

/-- No phase qualifies: the engine named is the lowest that fails at phase 0 (R425). -/
def noPhase (s : State) (cost : List Nat) : Option Nat :=
  if (List.range 32).all fun p => (phaseFails s cost p).isSome then phaseFails s cost 0 else none

/-- The first frame from f on whose phase qualifies. -/
def chooseH (s : State) (cost : List Nat) (f : Frame) : Option Frame :=
  ((List.range 32).find? fun k => (phaseFails s cost ((f.toNat + k) % 32)).isNone).map fun k => f + BitVec.ofNat 48 k

/-! ## The flue port (R417, R418) -/

/-- The port serves requests: from A, and in recovery mode (R437, R455). -/
def flueOn (s : State) : Bool := s.pwr.phase = .run || s.pwr.phase = .recovery

/-- A response packet (R418). -/
def flPacket (status tag : Nat) (payload : List Byte) : List Byte :=
  let b := leBytes 1 status ++ leBytes 1 tag ++ leBytes 2 payload.length ++ leBytes 4 0 ++ payload
  b ++ leBytes 4 (crc32 b)

/-- The response to a request is ready; a refusal is counted in FW_LAST (R417, R418, R441). -/
def answer (cmd tag status : Nat) (payload : List Byte) (s : State) : State :=
  let s := { s with fw := { s.fw with resp := some (flPacket status tag payload), busy := false } }
  if status = flOk then s
  else { s with fw := { s.fw with lastStatus := status, lastCmd := cmd, refusals := sat 0xFFFF (s.fw.refusals + 1) } }

/-- The CRC-32 a request packet must carry (R418). -/
def reqCrc (cmd : Nat) (p : Sys2Proof.Flue) : Nat :=
  crc32 (leBytes 1 cmd ++ leBytes 1 p.tag ++ leBytes 2 p.len ++ leBytes 4 p.session ++ p.payload)

/-- The packet is good: its CRC holds and its LEN is that of the payload, which the command takes. -/
def packetOk (cmd : Nat) (p : Sys2Proof.Flue) (lenOk : Nat → Bool) : Bool :=
  p.crc = reqCrc cmd p && p.len = p.payload.length && p.len ≤ 520 && lenOk p.len

/-- The status that the session lock gives a request (R419): OPEN and STATUS need none. -/
def sessionFail (cmd : Nat) (p : Sys2Proof.Flue) (s : State) : Option Nat :=
  if cmd = 1 ∨ cmd = 7 then none
  else match s.fw.sess with
    | none => some flNoSession
    | some x => if x.id = p.session then none else some flBusy

/-- A WRITE of a request (R417 to R419): discarded while one is being worked on; a bad packet has no effect; the
session and the state it allows are tested, then the command acts. -/
def flueReq (cmd : Nat) (p : Sys2Proof.Flue) (lenOk : Nat → Bool) (allowed : Nat → Bool) (f : State → State) (s : State) : State :=
  if !flueOn s then s
  else if s.fw.busy then { s with fw := { s.fw with discard := sat 0xFFFF (s.fw.discard + 1) } }
  else if !packetOk cmd p lenOk then
    answer cmd p.tag flBadPacket [] { s with fw := { s.fw with crcErr := sat 0xFFFF (s.fw.crcErr + 1) } }
  else match sessionFail cmd p s with
    | some st => answer cmd p.tag st [] s
    | none =>
      let s := if cmd = 7 && !(s.fw.sess.elim false fun x => x.id = p.session) then s
        else { s with fw := { s.fw with sess := s.fw.sess.map fun x => { x with idle := 0 } } }
      if !allowed (s.fw.sess.elim 0 fun x => x.st) || (s.pwr.phase = .recovery && (cmd = 6 ∨ cmd = 9)) then
        answer cmd p.tag flBadState [] s
      else f s

/-- FLUE_READ (R417, R420): the response is shifted out and taken; while none is ready, NOT_READY. -/
def flueRead (s : State) : State :=
  if !flueOn s then s
  else match s.fw.busy, s.fw.resp with
    | false, some b => emit (.flue b) { s with fw := { s.fw with resp := none, sess := s.fw.sess.map fun x => { x with keep := x.keep && 4 < x.st } } }
    | _, _ => emit (.flue (flPacket flNotReady 0 [])) s

/-- Changes the open session. -/
def modSess (f : Sess → Sess) (s : State) : State := { s with fw := { s.fw with sess := s.fw.sess.map f } }

/-- The staged image is discarded and the session is OPEN again. -/
def dropStaged (s : State) : State :=
  modSess (fun x => { x with st := 1, hdr := {}, body := [], last := none, busy := false, mdig := [] }) s

/-- An update event (R440). -/
def fwEvent (src status cmd ver kind eng ph : Nat) (s : State) : State := raise src s.tsB (detU status cmd ver kind eng ph) s

/-- VERSION of the staged image. -/
def stagedVer (s : State) : Nat := s.fw.sess.elim 0 fun x => x.hdr.version

/-- An image is refused at download or verification: answered, told and discarded (R422, R423). -/
def refuseImage (cmd tag status : Nat) (payload : List Byte) (eng ph : Nat) (s : State) : State :=
  dropStaged (answer cmd tag status payload (fwEvent 0xE2 status cmd (stagedVer s) 0 eng ph s))

/-! ## The state record (R434) -/

/-- A firmware state record is written; it is in force from its write on. -/
def fwWrite (r : FwRec) (s : State) : State := nvWrite (.fwState r) 0 0 { s with fw := { s.fw with state := r } }

/-- Bytes 0 to 7 of a manifest digest as a number. -/
def mdig8 (i : FwImg) : Nat := leNat (i.mdig.take 8)

/-- A FW_ACTIVATE journal entry of a kind (R315, R429). -/
def fwJournal (kind result : Nat) (i : FwImg) (s : State) : State :=
  jInternal 0x87 2 (kind % 256 + put (leNat (i.mdig.take 7)) 8 56) result true s

/-- The image runs on probation (R433). -/
def onProbation (s : State) : Bool := s.fw.state.phase = 2 && s.pwr.phase ≠ .recovery

/-! ## Sessions (R420) -/

/-- OPEN. -/
def fwOpen (p : Sys2Proof.Flue) (s : State) : State :=
  if s.fw.sess.isSome then answer 1 p.tag flBusy [] s
  else
    let id := (Config.random 32 s.fw.draws).toNat
    answer 1 p.tag flOk (leBytes 4 id) { s with fw := { s.fw with sess := some { id := id }, draws := s.fw.draws + 1 } }

/-- CLOSE: the lock is released and an image not yet activated is discarded. -/
def fwClose (p : Sys2Proof.Flue) (s : State) : State := answer 8 p.tag flOk [] { s with fw := { s.fw with sess := none } }

/-- FLUE_SESSION_LAPSE. -/
def fwLapse (s : State) : State :=
  match s.fw.sess with
  | some x => if x.keep then s else fwEvent 0xE0 0 0 x.hdr.version 0 0 0 { s with fw := { s.fw with sess := none } }
  | none => s

/-! ## Download (R414, R421, R422) -/

/-- The bank a download goes to: the inactive one, or the one recovery mode writes (R421, R437). -/
def loadBank (s : State) : Bool := if s.pwr.phase = .recovery then s.fw.target else !s.fw.runBank

/-- HEADER: R414 in order, then the refusals of R421, then sector 0 of the bank is erased and takes the header. -/
def fwHeader (p : Sys2Proof.Flue) (partnerProb : Bool) (s : State) : State :=
  let h := parseHdr p.payload
  match hdrFail p.payload s with
  | some st => answer 2 p.tag st [] (fwEvent 0xE1 st 2 h.version 0 0 0 (modSess (fun x => { x with noBody := true }) s))
  | none =>
    if s.nv.nvwp then answer 2 p.tag flNvwp [] (nvwpRefuse 0 2 s)
    else if onProbation s then answer 2 p.tag flProbation [] s
    else if s.shadow && partnerProb then answer 2 p.tag flPartner [] s
    else
      let s := fwWrite { s.fw.state with prevValid := false } s
      let s := modSess (fun x => { x with st := 3, hdr := h, body := [], last := none }) s
      answer 2 p.tag flOk [] (bankProgram (loadBank s) 0 p.payload { s with fw := { s.fw with other := none } })

/-- A packet repeats the previous one: its offset, and whether its bytes are identical. -/
def repeats (x : Sess) (off : Nat) (b : List Byte) : Option Bool :=
  match x.last with
  | some l => if l.1 = off then some (l.2 = b) else none
  | none => none

/-- DATA: in ascending order, whole codewords, 512 bytes but for the last; a repeat of the previous packet is answered
without a write (R422). -/
def fwData (p : Sys2Proof.Flue) (s : State) : State :=
  match s.fw.sess with
  | none => s
  | some x =>
    let off := leAt p.payload 0 4
    let b := p.payload.drop 4
    let ends := x.body.length + b.length
    if x.noBody then answer 3 p.tag flBadState [] s
    else if repeats x off b = some true then answer 3 p.tag flOk [] s
    else if off ≠ x.body.length then answer 3 p.tag flOffset [] (fwEvent 0xE2 flOffset 3 x.hdr.version 0 0 0 s)
    else if b.length % 32 ≠ 0 || x.hdr.bodySize < ends || (b.length < 512 && ends ≠ x.hdr.bodySize) then
      answer 3 p.tag flBadPacket [] s
    else
      let y := { x with st := 3, body := x.body ++ b, last := some (off, b), busy := true, tag := p.tag }
      { s with fw := { s.fw with busy := true, resp := none, sess := some y } }

/-- DATA_PROGRAMMED, as class 4 is admitted: the packet stands in the bank, behind the header, and every codeword has verified
(R181, R412, R422). -/
def fwProgrammed (s : State) : State :=
  match s.fw.sess with
  | some x =>
    if x.busy && bgFree s 4 then
      let p := x.last.getD (0, [])
      answer 3 x.tag flOk [] (bankProgram (loadBank s) (256 + p.1) p.2 (modSess (fun y => { y with busy := false }) s))
    else s
  | none => s

/-- A codeword of a body packet fails its verify (R422). -/
def fwDataFail (s : State) : State :=
  match s.fw.sess with
  | some x => if x.busy then refuseImage 3 x.tag flFlash [] 0 0 s else s
  | none => s

/-! ## Verification (R423, R426) -/

/-- The first check of R423 that the staged image fails: its status with engine and phase. -/
def verifyFails (x : Sess) (bad : Bool) (s : State) : Option (Nat × Nat × Nat) :=
  let rom := s.pwr.phase = .recovery
  if bad || sha256 x.body ≠ slice x.hdr.bytes 24 32 then some (flDigest, 0, 0)
  else if !manifestOk x.body then some (flManifest, 0, 0)
  else if !compsOk x.body then some (flComponent, 0, 0)
  else if rom then none
  else match admission s with
    | some p => some (flAdmission, p.1, p.2)
    | none =>
      match noPhase s (fwImage x.hdr x.body).rev with
      | some e => some (flAdmission, e, 0)
      | none => if x.hdr.cfgMax < ((s.image s.nv.gen.cur).elim 1 Image.format) then some (flCfgFormat, 0, 0) else none

/-- The codewords of the staged image that read uncorrectable, or erased (R423). -/
def stagedBad (x : Sess) (s : State) : List Nat :=
  ((List.range ((256 + x.body.length) / 32)).map fun k => 32768 * b2n (loadBank s) + k).filter fun a => !(s.flashRead a).1.decodes

/-- VERIFY: the whole staged image is read back, as it stands with the bits that have flipped; an uncorrectable word met in it
is counted (R26, R423). -/
def fwVerify (p : Sys2Proof.Flue) (upsets : List (Nat × Codeword)) (s0 : State) : State :=
  let s := each upsets (fun x s => upset (0x18, x) s) s0
  match s.fw.sess with
  | none => s
  | some x =>
    if x.body.length ≠ x.hdr.bodySize then answer 4 p.tag flBadState [] s
    else
      let l := stagedBad x s
      let s := each l (fun a s => wordErr s.tsB 0x18 a (s.flashRead a).1 s) s
      match verifyFails x (!l.isEmpty) s with
      | some r => refuseImage 4 p.tag r.1 (if r.1 = flAdmission then leBytes 1 r.2.1 ++ leBytes 1 r.2.2 else []) r.2.1 r.2.2 s
      | none =>
        let d := sha256 (manifest x.body)
        answer 4 p.tag flOk d (modSess (fun y => { y with st := 4, mdig := d }) s)

/-! ## Activation (R424 to R431, R437) -/

/-- ACTIVATE is refused: answered and told; the staged image stays verified (R431). -/
def refuseActivate (tag status eng : Nat) (s : State) : State :=
  answer 5 tag status (if status = flAdmission then leBytes 1 eng ++ leBytes 1 0 else [])
    (fwEvent 0xE3 status 5 (stagedVer s) 0 eng 0 s)

/-- ACTIVATE in recovery mode writes PROBATION with RECOVERY and no handover follows (R437). -/
def recoveryActivate (tag window : Nat) (x : Sess) (s : State) : State :=
  let i := fwImage x.hdr x.body
  let s := { s with fw := { s.fw with busy := true, resp := none, other := some i, arming := true } }
  let s := modSess (fun y => { y with st := 5, tag := tag, window := window, keep := true }) s
  fwWrite { s.fw.state with
    phase := 2, recovery := true, prevValid := false, confBank := !s.fw.target, window := window
    candVersion := i.version, candSvn := i.svn, candMdig := mdig8 i } s

/-- ACTIVATE (R424): refusals, then the load, whose failure leaves the running image, then the ARMED record. -/
def fwActivate (p : Sys2Proof.Flue) (loadOk partnerOk : Bool) (s : State) : State :=
  match s.fw.sess with
  | none => s
  | some x =>
    let at_ := leAt p.payload 0 6
    let window := leAt p.payload 6 2
    if !within 1 3600 window then answer 5 p.tag flBadPacket [] s
    else if s.nv.nvwp then refuseActivate p.tag flNvwp 0 (nvwpRefuse 0 5 s)
    else if s.pwr.phase = .recovery then recoveryActivate p.tag window x s
    else if at_ ≠ 0 && !frameBefore s.clk.frame (BitVec.ofNat 48 at_) then refuseActivate p.tag flPastFrame 0 s
    else if s.pair.role = 1 && s.pair.up && !partnerOk then refuseActivate p.tag flPartner 0 s
    else if s.shadow then refuseActivate p.tag flBadState 0 s
    else if !loadOk then refuseActivate p.tag flComponent 0 s
    else
      let i := fwImage x.hdr x.body
      let s := { s with fw := { s.fw with busy := true, resp := none, other := some i, arming := true } }
      let s := modSess (fun y => { y with st := 5, tag := p.tag, atFrame := at_, window := window, keep := true }) s
      fwWrite { s.fw.state with phase := 1, window := window, candVersion := i.version, candSvn := i.svn, candMdig := mdig8 i } s

/-- The ARMED record is accepted: H is chosen, at or after AT_FRAME and two frames on; where no phase qualifies, the
activation is refused and the record replaced (R425). -/
def armAccepted (s : State) : State :=
  match s.fw.sess, s.fw.other with
  | some x, some i =>
    let f := s.clk.frame + 2
    let f := if x.atFrame ≠ 0 && frameBefore f (BitVec.ofNat 48 x.atFrame) then BitVec.ofNat 48 x.atFrame else f
    let s := { s with fw := { s.fw with arming := false } }
    match chooseH s i.xfer f with
    | some h => modSess (fun y => { y with st := 6 }) { s with fw := { s.fw with h := some h, reverse := false } }
    | none =>
      let e := (noPhase s i.xfer).getD 0
      let s := refuseActivate x.tag flAdmission e (modSess (fun y => { y with st := 4 }) s)
      fwWrite { s.fw.state with phase := 0, window := 0, candVersion := 0, candSvn := 0, candMdig := 0 }
        { s with fw := { s.fw with other := none } }
  | _, _ => { s with fw := { s.fw with arming := false } }

/-- The settings reset (R430): the current generation's FORMAT is older than CFG_MIN of the image that runs. The formats
of this stepping differ in no setting modelled, so every setting keeps its value. -/
def settingsReset (s : State) : State :=
  match s.image s.nv.gen.cur with
  | none => s
  | some im =>
    if s.fw.run.cfgMin ≤ im.format then s
    else
      let g := s.nv.gen
      let n := max g.cur (max g.prev g.pend) + 1
      let new := { captureImage n s with format := s.fw.run.cfgMin }
      let s := writeImage new 0 { s with nv := { s.nv with images := tset none s.nv.images n (some new) } }
      let s := changeGen { cur := n, prev := g.cur, pend := g.pend, prob := false } 0 n (beginProb 0 s)
      fwEvent 0xE6 0 0 s.fw.run.version 5 0 0 (fwJournal 5 n s.fw.run s)

/-- FIRMWARE_HANDOVER (R427): at the boundary into H the microcode and every engine switch banks. Nothing else of the
state changes: the transfer is the firmware's own data. -/
def handover_ (s : State) : State :=
  match s.fw.h, s.fw.other with
  | some h, some i =>
    let s := { s with fw := { s.fw with
      h := none, hover := h, run := i, other := some s.fw.run, runBank := !s.fw.runBank, finishing := true } }
    settingsReset (wcRenew (· < 8) s)
  | _, _ => s

/-- Engines whose transfer has not finished at the end of a frame overrun each task of it (R428). -/
def xferEnd (s : State) : State :=
  each s.fw.xferring (fun e s =>
    let due := (taskList e).filter fun x => taskDue s e x.1
    let s := each due (fun x s => markOver e x.1 false s) s
    if s.fw.hover = s.clk.frame then fwEvent 0xE5 0 5 s.fw.run.version 0 e s.tickPhase s else s) s

/-- HANDOVER_COMPLETE (R429), or the end of a reverse one (R433): the record is written and the entry made. -/
def handoverDone (s : State) : State :=
  if !s.fw.finishing then s
  else
    let s := { s with fw := { s.fw with finishing := false, xferring := [] } }
    let r := s.fw.state
    if s.fw.reverse then
      let s := fwWrite { r with
        phase := 0, prevValid := false, window := 0, candVersion := 0, candSvn := 0, candMdig := 0, recovery := false }
        { s with fw := { s.fw with reverse := false, left := none, other := none } }
      fwEvent 0xE8 0 0 s.fw.run.version 3 0 0 (fwJournal 3 s.fw.run.version s.fw.run s)
    else
      let s := fwWrite { r with phase := 2 } { s with fw := { s.fw with left := some (15625 * r.window - (s.tickNo - s.fw.hover.toNat / 32)) } }
      fwEvent 0xE4 0 5 s.fw.run.version 1 0 0 (fwJournal 1 s.fw.run.version s.fw.run s)

/-! ## Probation and confirmation (R433) -/

/-- CONFIRM. -/
def fwConfirm (p : Sys2Proof.Flue) (partnerOk : Bool) (s : State) : State :=
  if !onProbation s || s.fw.finishing || s.fw.h.isSome then answer 6 p.tag flBadState [] s
  else if s.pair.role ≠ 0 && s.pair.up && !partnerOk then answer 6 p.tag flPartner [] s
  else
    let r := s.fw.state
    let s := { s with fw := { s.fw with confirm := some p.tag, busy := true, resp := none, left := none } }
    fwWrite { r with
      phase := 0, confBank := s.fw.runBank, prevValid := true, recovery := false, window := 0
      confVersion := r.candVersion, confSvn := r.candSvn, confMdig := r.candMdig, candVersion := 0, candSvn := 0, candMdig := 0 } s

/-- The CONFIRMED record is accepted: the fuses rise, the entry is made and CONFIRM is answered (R433). -/
def confirmed (tag : Nat) (s : State) : State :=
  let i := s.fw.run
  let s := { s with fw := { s.fw with confirm := none, svnMin := if i.raiseSvn then max s.fw.svnMin i.svn else s.fw.svnMin } }
  answer 6 tag flOk [] (fwEvent 0xE7 0 6 i.version 2 0 0 (fwJournal 2 i.version i s))

/-- FIRMWARE_PROBATION_EXPIRY: the old images are loaded and a reverse handover is chosen (R433). -/
def fwExpiry (s : State) : State :=
  if !onProbation s || s.fw.h.isSome || s.fw.finishing then s
  else match chooseH s s.fw.run.rev (s.clk.frame + 1) with
    | some h => { s with fw := { s.fw with h := some h, reverse := true, left := none } }
    | none => { s with fw := { s.fw with left := some 1 } }

/-- A firmware state record has its first accepted copy. -/
def fwAccepted (r : FwRec) (s : State) : State :=
  if r.phase = 1 && s.fw.arming then armAccepted s
  else if r.phase = 2 && s.fw.arming then
    let s := { s with fw := { s.fw with arming := false, recReset := some 32 }, pwr := { s.pwr with bootFail := 0 } }
    answer 5 (s.fw.sess.elim 0 Sess.tag) flOk [] (modSess (fun y => { y with st := 1, body := [], hdr := {}, last := none }) s)
  else if r.phase = 2 then
    (match s.fw.sess with
    | some x => if x.st = 6 then
        answer 5 x.tag flOk [] (modSess (fun y => { y with st := 1, body := [], hdr := {}, last := none, mdig := [] }) s) else s
    | none => s)
  else match s.fw.confirm with
    | some tag => if r.phase = 0 && r.prevValid then confirmed tag s else s
    | none => s

/-- One watch tick: the session's idle time and the window of probation. -/
def fwTick (s : State) : State :=
  let s := modSess (fun x => { x with idle := x.idle + 1 }) s
  let s := match s.fw.sess with
    | some x => if 15625 * orDef (s.cf 0xC024 11 0) 60 ≤ x.idle then fwLapse s else s
    | none => s
  match s.fw.left with
  | some (n + 1) =>
    let s := { s with fw := { s.fw with left := some n } }
    if n = 0 then fwExpiry s else s
  | some 0 => fwExpiry s
  | none => s

/-! ## Owner clear key (R438) -/

/-- KEY_PROGRAM. -/
def fwKey (p : Sys2Proof.Flue) (fuseOk : Bool) (s : State) : State :=
  if (clearKey s).isSome then answer 9 p.tag flKeySet [] s
  else if s.nv.nvwp then answer 9 p.tag flNvwp [] (nvwpRefuse 0 9 s)
  else if fuseOk && !s.fw.keyFail then
    answer 9 p.tag flOk [] { s with recd := { s.recd with key := some (BitVec.ofNat 256 (leNat p.payload)) } }
  else answer 9 p.tag flFlash [] { s with fw := { s.fw with keyFail := true } }

/-! ## Commands of this chapter -/

def execFlueRead (s : State) := Next (flueRead s)
def execFlueOpen (p : Sys2Proof.Flue) (s : State) := Next (flueReq 1 p (· = 4) (fun _ => true) (fwOpen p) s)
def execFlueHeader (p : Sys2Proof.Flue) (partnerProb : Bool) (s : State) :=
  Next (flueReq 2 p (· = 256) (· = 1) (fwHeader p partnerProb) s)
def execFlueData (p : Sys2Proof.Flue) (s : State) := Next (flueReq 3 p (within 36 516) (within 2 3) (fwData p) s)
def execDataProgrammed (s : State) := Next (fwProgrammed s)
def execFlueVerify (p : Sys2Proof.Flue) (upsets : List (Nat × Codeword)) (s : State) :=
  Next (flueReq 4 p (· = 0) (· = 3) (fwVerify p upsets) s)
def execFlueActivate (p : Sys2Proof.Flue) (loadOk partnerOk : Bool) (s : State) :=
  Next (flueReq 5 p (· = 8) (· = 4) (fwActivate p loadOk partnerOk) s)
def execFirmwareHandover (slow : List Nat) (s : State) :=
  let s := handover_ s
  Next (if s.fw.finishing then { s with fw := { s.fw with xferring := slow.filter (engUsed s) } } else s)
def execHandoverComplete (s : State) := Next (handoverDone s)
def execFlueConfirm (p : Sys2Proof.Flue) (partnerOk : Bool) (s : State) :=
  Next (flueReq 6 p (· = 0) (fun _ => true) (fwConfirm p partnerOk) s)
def execFlueStatus (p : Sys2Proof.Flue) (s : State) :=
  Next (flueReq 7 p (· = 0) (fun _ => true)
    (fun s => answer 7 p.tag flOk ([0xC000, 0xC004, 0xC008, 0xC00C, 0xC014].flatMap fun o => leBytes 4 (roFw s o)) s) s)
def execFlueClose (p : Sys2Proof.Flue) (s : State) := Next (flueReq 8 p (· = 0) (fun _ => true) (fwClose p) s)
def execKeyProgram (p : Sys2Proof.Flue) (fuseOk : Bool) (s : State) := Next (flueReq 9 p (· = 32) (· = 1) (fwKey p fuseOk) s)
def execFlueSessionLapse (s : State) := Next (fwLapse s)
def execFirmwareProbationExpiry (s : State) := Next (fwExpiry s)

end Sys2Proof.Machine
end

