-- ==== Sys2Proof/Machine/BootScan.lean ====
section
/-! DEFINITION. Machine/BootScan.lean: the boot scan of the flash and its repairs: what is found, the interrupted tails, the
twins, rings and sectors made whole again (R362 to R371, R376, R396 to R400, R408, R435). -/

namespace Sys2Proof.Machine

/-! ## What is found (R362) -/

/-- What `f` takes of the newest accepted copy of a kept item. -/
def found {α : Type} (f : JobUse → Option α) (s : State) : Option α := (keptItems s).findSome? fun c => f c.use

/-- The firmware state record (R434, R435). -/
def fwFound (s : State) : Option FwRec := found (fun u => match u with | .fwState r => some r | _ => none) s

/-- The configuration state record (R381, R384). -/
def stateFound (s : State) : Option GenState := found (fun u => match u with | .genState g => some g | _ => none) s

/-- The tag image (R378). -/
def tagFound (s : State) : List Byte := (found (fun u => match u with | .tag b => some b | _ => none) s).getD []

/-- The ember record (R163, R369). -/
def emberFound (s : State) : Option Ember := found (fun u => match u with | .ember e => some e | _ => none) s

/-- A refresh intent without DONE: its sector and CRC-64 (R376). -/
def intentFound (s : State) : Option (Nat × Nat) := found (fun u => match u with | .intent n c false => some (n, c) | _ => none) s

/-- The position of a sweep (R374). -/
def sweepFound (s : State) : Option Nat := found (fun u => match u with | .progress n => some n | _ => none) s

/-- The configuration images, each with its slot (R357, R381). -/
def imagesFound (s : State) : List (Image × Nat) :=
  (keptItems s).filterMap fun c => match c.use with | .image im => some (im, (c.at_ - 0x200000 / 32) % 4096 / 1024) | _ => none

/-- The clear records, the oldest first (R408). -/
def clearsFound (s : State) : List Img := (goodCopies s).filterMap fun c => match c.use with | .clear im => some im | _ => none

/-- RSEQ that a codeword of a record or a counter slot carries where it decodes (R358, R364, R367). -/
def copyRseq (s : State) (c : Copy) : Nat :=
  let h := s.flashRead c.at_
  let t := s.flashRead (c.at_ + c.use.words - 1)
  max (if h.1.decodes && nbits h.2.toNat 15 0 = 0xC7E3 then nbits h.2.toNat 159 112 else 0)
    (if t.1.decodes && nbits t.2.toNat 255 240 = 0x3E7C then nbits t.2.toNat 111 64 else 0)

/-- RSEQ of a counter slot at a codeword address, where it decodes. -/
def slotRseq (s : State) (a : Nat) : Nat :=
  let r := s.flashRead a
  if within (0x3C0000 / 32) (0x3EFFFF / 32) a && r.1.decodes && nbits r.2.toNat 251 248 = 0xC then nbits r.2.toNat 247 200 else 0

/-- The highest RSEQ found (R364 step 3). -/
def rseqTop (s : State) : Nat :=
  s.nv.flash.foldl (fun m p => max m (slotRseq s p.1)) (s.nv.copies.foldl (fun m c => max m (copyRseq s c)) 0)

/-! ## Tails and memory faults (R364, R365, R366) -/

/-- The copy lies in a sector whose erase was interrupted: its words count as torn (R365). -/
def againSect (s : State) (c : Copy) : Bool := s.nv.again.any fun e => c.inSector e.1 c.use.words

/-- The codewords of a list that read uncorrectable. -/
def badOf (s : State) (l : List Nat) : List Nat := l.filter fun a => flashOut (s.flashRaw a) = .uncorrectable

/-- The codewords of sector n. -/
def sectorAt (n : Nat) : List Nat := (List.range 256).map fun k => 256 * n + k

/-- Words in interrupted tails, and those of an interrupted erase (R364, R365). -/
def tornCount (s : State) : Nat :=
  ((tornCopies s).filter fun c => !againSect s c).foldl (fun n c => n + tailWords s c) 0 +
    s.nv.again.elim 0 fun e => (badOf s (sectorAt e.1)).length

/-- Uncorrectable words of records outside the interrupted tails: memory faults (R366). -/
def scanBad (s : State) : List Nat :=
  (s.nv.copies.filter fun c => !(tornCopies s).contains c && !againSect s c).flatMap fun c =>
    badOf s ((List.range c.use.words).map fun k => c.at_ + k)

/-- The write point of a one-sector half: the codeword after its last one that is not erased (R364). -/
def writePoint (s : State) (n : Nat) : Nat := s.nv.flash.foldl (fun m p => if p.1 / 256 = n then max m (p.1 % 256 + 1) else m) 0

/-- The write points of the six halves. -/
def writePoints (s : State) : Tbl Nat :=
  (List.range 6).foldl (fun t k => tset 0 t k (writePoint s (halfAddr (k / 2) (k % 2) / 8192))) []

/-! ## Missing twins (R364 step 4, R366) -/

/-- The newest accepted copies that lack an accepted twin. -/
def loneCopies (s : State) : List Copy :=
  (keptItems s).filter fun c => !(goodCopies s).any fun d => c.same d && d.rseq = c.rseq && d.twinB ≠ c.twinB

/-- The twin of a copy was whole once and is rejected for a memory fault (R366). -/
def twinLost (s : State) (c : Copy) : Bool :=
  s.nv.copies.any fun d => c.same d && d.rseq = c.rseq && d.twinB ≠ c.twinB && !(tornCopies s).contains d && !againSect s d

/-- The sectors of an image slot in one half that are not wholly erased are erased. -/
def twinErase (c : Copy) (s : State) : State :=
  match c.use with
  | .image im =>
    let k := (tget none s.nv.slotOf im.gen).getD 0
    each ((List.range 4).filter fun i => dirty s (slotSector k (i + 4 * b2n (!c.twinB))))
      (fun i s => eraseAsk (slotSector k (i + 4 * b2n (!c.twinB))) .slot s) s
  | _ => s

/-- A kept item is written again, both twins, with a new RSEQ (R366, R375). -/
def rewrite (u : JobUse) (s : State) : State := match u with | .image im => writeImage im 0 s | u => nvWrite u 0 0 s

/-- A copy without an accepted twin gets it, with the same RSEQ; where the twin was lost to a memory fault the item is written
again. `s0` is the flash as scanned. -/
def mendTwin (s0 : State) (c : Copy) (s : State) : State :=
  if twinLost s0 c then rewrite c.use s
  else
    let s := twinErase c s
    { s with nv := { s.nv with jobs := s.nv.jobs ++ [{ use := c.use, rseq := c.rseq, twinB := !c.twinB, left := c.use.words, only := true }] } }

/-- The ember writer is armed once every missing twin is written (R364). -/
def armWhen (s : State) : State :=
  if s.nv.armed || s.nv.jobs.any (·.only) then s else { s with nv := { s.nv with armed := true } }

/-! ## Counter rings (R368, R370, R371) -/

/-- The newest valid pair of a group's rails: its RSEQ, and whether it lies in Y. -/
def groupTop (s : State) (g : Nat) : Option (Nat × Bool) :=
  ((List.range 8).filterMap fun k => railPair s (8 * g + k)).foldl (fun b p => match b with
    | some x => if x.1 < p.2.2 then some (p.2.2, 16 ≤ p.1) else some x
    | none => some (p.2.2, decide (16 ≤ p.1))) none

/-- One group: its counters, its active sector, and a switch that was interrupted: a rail whose newest pair lies in the other
sector has it written again, as it was, and that sector is erased. -/
def scanGroup (g : Nat) (s : State) : State :=
  if !dirty s (groupSector g false) && !dirty s (groupSector g true) then s
  else
    let y := (groupTop s g).elim false (·.2)
    let rails := (List.range 8).map fun k => 8 * g + k
    let pairs : List (Nat × Nat × List Nat × Nat) := rails.filterMap fun i => (railPair s i).map fun p => (i, p)
    let used := rails.foldl (fun t i => tset 0 t (i % 8) (pairsUsed s i y)) []
    let s := { s with nv := { s.nv with
      counters := pairs.foldl (fun (t : Tbl (List Nat × Nat)) (p : Nat × Nat × List Nat × Nat) => tset ([], 0) t p.1 p.2.2) (s.nv.counters.filter fun p => p.1 / 8 ≠ g) } }
    let s := s.modCgrp g fun _ => { y := y, used := used }
    let moved := pairs.filter fun p => decide (16 ≤ p.2.1) ≠ y
    let s := each moved (fun p s => putSlots p.1 p.2.2.1 p.2.2.2 s) s
    if dirty s (groupSector g (!y)) then eraseAsk (groupSector g (!y)) (.counters g) s else s

/-! ## The recorder's slots (R362, R365, R397 to R400) -/

/-- The copy that stands in slot j of sector k. -/
def slotCopy (s : State) (k j : Nat) : Option Copy := (s.nv.copies.filter fun c => c.at_ = recAt k j).getLast?

/-- A slot as scanned: its record counts where its copy is accepted; one at or below HIGH of a clear, or with a later accepted
copy, is one that readers do not take. -/
def scanSlot (s : State) (k j : Nat) (y : RSlot) : RSlot :=
  match slotCopy s k j with
  | none => y
  | some c =>
    let im := { y.img with rseq := c.rseq }
    let high := (clearsFound s).foldl (fun m x => max m (nbits x.extra 63 32)) 0
    let later := (goodCopies s).any fun d => match d.use with | .record x => x.rnum = im.rnum && c.rseq < d.rseq | _ => false
    if c.ok s then { img := im, ok := true, old := im.rnum ≤ high || later } else { y with ok := false, old := false }

/-- Slot j of sector k is used: a codeword of it is not erased. -/
def slotUsed (s : State) (k j : Nat) (y : RSlot) : Bool := y.ok || (List.range 8).any fun i => s.flashRaw (recAt k j + i) ≠ erasedWord

/-- A sector as scanned, up to its last used slot. -/
def scanSect (s : State) (k : Nat) (x : RSect) : Option RSect :=
  let l := x.slots.zipIdx.map fun p => scanSlot s k p.2 p.1
  let n := l.zipIdx.foldl (fun n p => if slotUsed s k p.2 p.1 then p.2 + 1 else n) 0
  if n = 0 then none else some { x with slots := l.take n }

/-- Every ordinary sector as scanned. -/
def scanSects (s : State) : Tbl (Option RSect) :=
  (s.recd.sects.map fun p => (p.1, p.2.bind (scanSect s p.1))).filter fun p => p.2.isSome

/-- Records that the scan rejects (R400). -/
def rejected (t : Tbl (Option RSect)) : Nat :=
  t.foldl (fun n p => n + p.2.elim 0 fun x => (x.slots.filter fun y => !y.ok).length) 0

/-- The recorder after the scan: an image whose copy is accepted has left the buffer (R393). -/
def scanRecd (s : State) : Recd :=
  let t := scanSects s
  let held (im : Img) : Bool := (goodCopies s).any fun d => match d.use with | .record x => x.rnum = im.rnum | _ => false
  { s.recd with
    sects := t, clears := clearsFound s, buf := s.recd.buf.filter fun im => !held im
    opened := s.recd.opened.filter fun p => p.2.any fun k => (tget none t k).any fun x => x.slots.length < 32 }

/-! ## Sectors (R365, R397, R398) -/

/-- Byte sector that position n of the mirror's ring lies in (R372). -/
def mirrorSector (n : Nat) : Nat := mirrorAt (n % 16640) / 256

/-- The mirror's next sector is erased. -/
def mirrorErased (s : State) : Bool := !dirty s (mirrorSector (if s.nv.mirrorPos % 256 = 0 then s.nv.mirrorPos else s.nv.mirrorPos + 256))

/-- Sectors that stand in no use and are not wholly erased are erased again, the interrupted one first (R365). -/
def scanErases (s : State) : State :=
  let s := match s.nv.again with
    | some e => eraseAsk e.1 e.2 { s with nv := { s.nv with again := none } }
    | none => s
  let s := clearSlots s
  let s := each ((List.range 126).filter fun k => (s.sect (k + 2)).isNone && dirty s (0x2C0000 / 8192 + k + 2))
    (fun k s => eraseAsk (0x2C0000 / 8192 + k + 2) .recorder s) s
  if dirty s (0x3FE000 / 8192) && s.nv.intent.isNone then eraseAsk (0x3FE000 / 8192) .staging s else s

/-- The reserve has two sectors again: an erased one, else a victim's, chosen as for severity 3 (R397, R398). -/
def fillReserve (s : State) : State :=
  if 2 ≤ s.recd.reserve.length then s
  else match erasedSect s with
    | some k => { s with recd := { s.recd with reserve := s.recd.reserve ++ [k] } }
    | none => match victim s 3 with
      | some v => eraseVictim v s
      | none => s

/-! ## The scan (R364) -/

/-- What the scan finds stands in the state; a copy of which nothing was programmed is none. -/
def scanFound (s : State) : State :=
  let e := emberFound s
  { s with
    nv := { s.nv with
      torn := sat 0xFFFF (tornCount s), rseq := rseqTop s + 1, wp := writePoints s
      images := (imagesFound s).foldl (fun t p => tset none t p.1.gen (some p.1)) []
      slotOf := (imagesFound s).foldl (fun t p => tset none t p.1.gen (some p.2)) []
      stored := stateFound s, tag := tagFound s, intent := intentFound s
      sweepPos := if s.nv.sweep then (sweepFound s).getD 0 else s.nv.sweepPos
      mirrorRoom := mirrorErased s, copies := s.nv.copies.filter fun c => tailWords s c ≠ 0 }
    recd := scanRecd s
    pwr := { s.pwr with ember := e, emberTell := s.pwr.emberTell || (e.isSome && e.map (·.rseq) ≠ s.pwr.ember.map (·.rseq)) } }

/-- The boot scan and its repairs (R364 to R371). -/
def bootScan (s0 : State) : State :=
  let s := scanFound s0
  let s := each (scanBad s0) (fun a s => wordErr s.tsB 0x18 a .uncorrectable s) s
  let s := each (loneCopies s0) (mendTwin s0) s
  let s := scanErases (each (List.range 12) scanGroup s)
  if tornCount s0 = 0 then s else { s with pwr := { s.pwr with tell := s.pwr.tell ++ [(0xC0, detF 0 s.nv.torn 0)] } }

end Sys2Proof.Machine
end

