-- ==== Sys2Proof/Machine/Power.lean ====
section
/-! DEFINITION. Machine/Power.lean: supplies, resets, ember mode, boot and activation of the first generation, the
watchdog's part in them (R33 to R37, R164 to R166, R195 to R197, R293, R396, R400, R435 to R437, R442 to R462). -/

namespace Sys2Proof.Machine

/-! ## What a reset keeps (R445, R446) -/

/-- The lifetime counters of every rail, the rest of the rail reset (R162, R163). -/
def keepCounts (t : Tbl Rail) : Tbl Rail :=
  (t.map fun p => (p.1, ({ cnt := p.2.cnt, delta := p.2.delta, deltaSince := p.2.deltaSince } : Rail))).filter fun p => p.2 ≠ {}

/-- The flash and the record sequence counter; what was being written is given up but for the codeword being programmed
(R37, R446), and every word's event may be raised again (R26). -/
def keepNv (s : State) : Nv :=
  let n := s.nv
  { rseq := n.rseq, flash := n.flash, copies := n.copies, again := n.again, images := n.images, stored := n.stored, tag := n.tag
    wp := n.wp, slotOf := n.slotOf, wear := n.wear, tail := jobRunning s, cgroups := n.cgroups, counters := n.counters
    intent := n.intent, mirrorPos := n.mirrorPos, mirrorRoom := n.mirrorRoom, sweep := n.sweep, sweepPos := n.sweepPos
    sweepBegan := n.sweepBegan, nvwp := n.nvwp }

/-- The recorder: its buffer, its numbering and its sectors; a freeze ends (R402, R445). -/
def keepRecd (r : Recd) : Recd :=
  { buf := r.buf, ash := r.ash, next := r.next, key := r.key, clears := r.clears, sects := r.sects, opened := r.opened
    reserve := r.reserve, retained := r.retained }

/-- Firmware in flash and fuses, and the draws of the random source. -/
def keepFw (f : Fw) : Fw :=
  { stored := f.stored, runBank := f.runBank, run := f.run, other := f.other, target := f.target, svnMin := f.svnMin
    keyFail := f.keyFail, draws := f.draws, state := f.stored.getD {} }

/-- Register words that keep their values through a partner reset: rail banks and stages (R445, R448). -/
def heldWord (k : Nat) : Bool := within 0x2000 0x3FFF k || within 0x8000 0x8FFF k

/-- The reset of every domain but PD0, with the memories of PD4 kept; `held`: PD7 to PD9 keep their registers and states
(R445, R448). -/
def resetCore (held : Bool) (s : State) : State :=
  let words (t : Tbl W32) : Tbl W32 :=
    (t.filter fun p => held && p.1 < 0x5000 && heldWord p.1) ++ State.resetRegs ++ (t.filter fun p => held && 0x6000 ≤ p.1 && heldWord p.1)
  { State.reset with
    pending := s.pending, out := s.out, free := s.free
    clk := { frame := s.clk.frame, last := s.clk.last, phase := s.clk.phase }
    wc := { scrub := s.wc.scrub, err := s.wc.err.filter fun x => 0x10 ≤ x.1 / 131072, ram := s.wc.ram.filter fun x => 0x10 ≤ x.1 / 131072 }
    jrn := { head := s.jrn.head, next := s.jrn.next, sram := s.jrn.sram, base := s.jrn.base, mirror := s.jrn.mirror, waiting := s.jrn.waiting }
    recd := keepRecd s.recd
    bar0 := words s.bar0, cfg := words s.cfg
    rails := if held then s.rails else keepCounts s.rails
    banks := if held then s.banks else []
    mdacs := if held then s.mdacs else []
    stgs := if held then s.stgs else []
    phases := if held then s.phases else []
    seq := { onTable := s.seq.onTable, mirror := s.seq.mirror }
    off := { table := s.off.table }
    flt := { wdtExp := s.flt.wdtExp }
    nv := keepNv s, fw := keepFw s.fw
    pwr := { s.pwr with
      ready := 0, since := 0, toA := none, domains := 0x13 + (if held then 0x380 else 0), pending := [], onAtA := false
      heldOn := false, flushed := [], sram := none } }

/-- A full-chip reset begins with a cause (R445, R446); one that meets a reset not yet ended keeps the lower code
(R449). -/
def chipReset (cause : Nat) (s : State) : State :=
  let c := if s.pwr.phase = .reset then min cause s.pwr.nextCause else cause
  let s := resetCore (cause = 5) (eraseAbort s)
  { s with pwr := { s.pwr with phase := .reset, nextCause := c } }

/-- PD0 loses power: the counter, the latches and the memories of PD4 are lost; flash, fuses and what stands in them
stay, and the program or erase in progress is interrupted (R40, R356, R396, R445, R456). -/
def pd0Lost (s : State) : State :=
  let s := eraseAbort (programAbort s)
  { State.reset with
    pending := s.pending, out := s.out, free := s.free
    jrn := { mirror := s.jrn.mirror }
    recd := { key := s.recd.key, clears := s.recd.clears, sects := s.recd.sects, opened := s.recd.opened, reserve := s.recd.reserve, next := s.recd.next }
    nv := { keepNv s with nvwp := false, tail := none, rseq := 1 }
    fw := keepFw s.fw
    pwr := { ember := s.pwr.ember, emberSeq := s.pwr.emberSeq, emberTell := s.pwr.emberTell } }

/-- PD0_POWER_LOSS. -/
def powerLoss (s : State) : State :=
  let t := pd0Lost s
  { t with pwr := { t.pwr with phase := .dead } }

/-! ## Ember mode (R195 to R197, R456, R457) -/

/-- The first-fault words W1-W2 of the staging buffer: 13 registers (R173, R197). -/
def ffWords (s : State) : List Nat := (List.range 13).map fun k => roWord s (0x5700 + 4 * k)

/-- Words of b bits laid one behind the other from bit 0. -/
def packWords (b : Nat) (l : List Nat) : Nat := (l.zipIdx.map fun p => put p.1 (b * p.2) b).foldl (· + ·) 0

/-- The delta entries of W11 to W15: 24 bits each, then their count (R197). -/
def deltaWords (l : List (Nat × Nat × Nat)) : Nat :=
  packWords 24 (l.map fun d => put d.1 0 7 + put d.2.1 7 3 + put (min 16383 d.2.2) 10 14) + put l.length 1152 8

/-- W1 to W15 as the ember staging buffer holds them, at its word addresses (R20, R197). -/
def stageWord (s : State) (k : Nat) : Nat :=
  let x := s.pwr.stage
  if k < 3 then nbits (packWords 32 (ffWords s)) (256 * k - 1) (256 * (k - 1))
  else if k < 11 then (let p := x.snaps.getD ((k - 3) / 2) (0, 0); if k % 2 = 1 then p.1 else p.2)
  else nbits (deltaWords x.deltas) (256 * (k - 11) + 255) (256 * (k - 11))

/-- W0 of the ember record (R197). `bits`: comparators tripped; `bad`: the words that read uncorrectable. -/
def emberW0 (bits bad : Nat) (pf : Ts) (s : State) : Nat :=
  let doneOff := !s.off.run && s.seq.domain = .off
  let cause := bits % 8 + put (b2n s.inl.loss) 3 1 + put (b2n doneOff) 4 1 + put (b2n s.flt.wdtRun) 5 1 +
    put (b2n s.pwr.stage.overflow) 6 1 + put (b2n s.flt.ff.isSome) 7 1
  let domain := s.seq.domain.code + put s.off.src 3 2 + put (b2n s.off.run) 5 1 + put (b2n s.off.late) 6 1
  let pos := put s.off.pos 0 11 + put s.off.cls 11 3 + put (min 3 s.dmp.level) 14 2
  put pf.frame.toNat 0 48 + put pf.frac.toNat 48 8 + put 1 56 8 + put s.pwr.emberSeq 64 32 + put cause 96 8 +
    put domain 104 8 + put pos 112 16 + put s.jrn.head 128 64 + put bad 192 16

/-- The ember record: W0, and the staging buffer's words; one that reads uncorrectable is written as zeros with its bit in
BADWORD (R27, R196, R197). -/
def emberRecord (bits : Nat) (pf : Ts) (s : State) : Ember :=
  let ks := (List.range 15).map (1 + ·)
  let bad := (ks.map fun k => put (b2n (!s.wordOk 0x16 k)) k 1).foldl (· + ·) 0
  { words := emberW0 bits bad pf s :: ks.map fun k => if s.wordOk 0x16 k then stageWord s k else 0, rseq := s.nv.rseq }

/-- A word of an ember record; one flagged in BADWORD is absent and reads 0 (R27). -/
def Ember.word (e : Ember) (k : Nat) : Nat := e.words.getD k 0

/-- PF_FRAME and PF_FRAC (R197). -/
def Ember.pf (e : Ember) : Ts := { frame := BitVec.ofNat 48 (e.word 0), frac := BitVec.ofNat 8 (nbits (e.word 0) 55 48) }

/-- EMBER_SEQ (R197). -/
def Ember.seq (e : Ember) : Nat := nbits (e.word 0) 95 64

/-- JOURNAL_HEAD (R197). -/
def Ember.head (e : Ember) : Nat := nbits (e.word 0) 191 128

/-- The delta entries present: rail, CNT, DELTA. One that lies in a word flagged in BADWORD is absent, and so is the count
in W15 (R27, R197). -/
def Ember.deltas (e : Ember) : List (Nat × Nat × Nat) :=
  let d := packWords 256 ((List.range 5).map fun k => e.word (11 + k))
  let lost (bit : Nat) : Bool := (nbits (e.word 0) 207 192).testBit (11 + bit / 256)
  (((List.range 48).filter fun k => !(lost (24 * k) || lost (24 * k + 23))).map fun k => nbits d (24 * k + 23) (24 * k)).filterMap
    fun w => if nbits w 23 10 = 0 then none else some (nbits w 6 0, nbits w 9 7, nbits w 23 10)

/-- What the shared SRAM holds (R16). -/
def sharedSram (s : State) : Sram :=
  { descs := (s.hst.rings.filter fun p => p.1 < 8 && p.2.fetched ≠ []).map fun p => (p.1, p.2.fetched)
    compls := s.hst.ready, staged := s.cnv.staged, progs := s.seq.progs, drt := s.drt }

/-- POWER_FAILURE at its boundary: the part enters ember mode and, once armed, writes the ember record behind the codeword
being programmed (R36, R37, R195, R196, R457). -/
def powerFailure (bits : Nat) (pf : Ts) (s : State) : State :=
  if s.pwr.phase = .dead || s.pwr.phase = .ember || s.pwr.phase = .test then s
  else
    let armed := s.nv.armed
    let rec_ := emberRecord bits pf s
    let summ := s.recd.summ
    let sram := sharedSram s
    let s := resetCore false (eraseAbort s)
    let s := { s with
      recd := { s.recd with summ := summ }
      pwr := { s.pwr with
        phase := .ember, domains := 0x13, emberDone := !armed && s.nv.tail.isNone, writing := if armed then some rec_ else none
        emberSeq := if armed then s.pwr.emberSeq + 1 else s.pwr.emberSeq, flushed := [], sram := some sram } }
    if armed then nvWrite (.ember rec_) 0 0 s else s

/-- The ember record is accepted with both twins: the writer is done. -/
def emberWritten (s : State) : State :=
  { s with pwr := { s.pwr with emberDone := true, writing := none, emberTell := true } }

/-- EMBER_MODE_EXIT (R456): the boot of CAUSE 0x02 can begin. -/
def emberExit (s : State) : State :=
  if s.pwr.phase ≠ .ember then s
  else
    let s := resetCore false s
    { s with pwr := { s.pwr with phase := .reset, nextCause := 2, ready := 64, writing := none } }

/-! ## Resets (R444, R447 to R449) -/

/-- PORST# is sampled asserted (R447): no effect in ember mode. -/
def porstSeen (s : State) : State :=
  let s := { s with pwr := { s.pwr with porst := true, ready := 0 } }
  if s.pwr.phase = .dead || s.pwr.phase = .ember || s.pwr.phase = .test then s
  else chipReset 3 s

/-- XRST_IN# at the boundary after its assertion: the partner reset, with every used rail in HIZ and every used stage in
HELD (R73, R255, R448). -/
def xrstSeen (s : State) : State :=
  let s := { s with pwr := { s.pwr with xrst := true } }
  if s.pwr.phase = .dead || s.pwr.phase = .ember || s.pwr.phase = .test then s
  else if s.pwr.phase = .reset then { s with pwr := { s.pwr with ready := 0 } }
  else
    let s := each railList (fun i s => toHiz i s) s
    chipReset 5 (holdStages s)

/-- XRST_IN# is seen released: rails and stages enter OFF and the boot of CAUSE 0x05 can begin (R448). -/
def xrstReleased (s : State) : State :=
  if !s.pwr.xrst then s
  else
    let s := { s with pwr := { s.pwr with xrst := false } }
    let s := each railList (fun i s => if (s.rail i).st = .hiz && !s.hizHeld i then leaveHiz i s else s) s
    let s := each [0, 1, 2, 3] (fun st s => if (s.stg st).st = .held && !s.shadow then stageHalt st .off s else s) s
    if s.pwr.phase = .reset && s.pwr.nextCause = 5 then { s with pwr := { s.pwr with ready := 64 } } else s

/-- REFERENCE_CLOCK_LOST (R444). -/
def clockLost (s : State) : State :=
  let s := { s with pwr := { s.pwr with fallback := true }, sca := { s.sca with aligned := false } }
  if s.running! then raise 0x14 s.tsB (detX s) s
  else { s with pwr := { s.pwr with tell := s.pwr.tell ++ [(0x14, detX s)] } }

/-- REFERENCE_CLOCK_RETURN (R444). -/
def clockBack (s : State) : State := { s with pwr := { s.pwr with fallback := false } }

/-- An event that A raises. -/
def tellAtA (src : Nat) (d : BitVec 128) (s : State) : State := { s with pwr := { s.pwr with tell := s.pwr.tell ++ [(src, d)] } }

/-- A boot under way. -/
def booting (s : State) : Bool := s.pwr.phase = .rom || s.pwr.phase = .start || s.pwr.phase = .waitA

/-- The ROM writes a firmware state record and goes on once it is accepted (R435 to R437). -/
def fwStore (r : FwRec) (s : State) : State := storeNow (.fwState r) { s with fw := { s.fw with state := r, stored := some r } }

/-- The firmware record after a revert by the ROM (R435). -/
def revertRec (r : FwRec) : FwRec :=
  { r with phase := 0, prevValid := false, recovery := false, candVersion := 0, window := 0, candSvn := 0, candMdig := 0 }

/-- BOOT_FAILURE (R165, R435, R451): a boot on probation reverts instead of counting. -/
def bootFailure (s : State) : State :=
  if !(booting s || s.pwr.phase = .recovery) then s
  else if booting s && s.fw.state.phase = 2 then
    let r := revertRec s.fw.state
    let s := chipReset 6 s
    fwStore r s
  else
    let s := { s with pwr := { s.pwr with bootFail := sat 3 (s.pwr.bootFail + 1) } }
    chipReset 6 s

/-! ## The ROM stage (R376, R435 to R437, R450, R451) -/

/-- Image figures of a bank: of the bank that ran, or of the other. -/
def bankImage (b : Bool) (s : State) : FwImg := if b = s.fw.runBank then s.fw.run else s.fw.other.getD {}

/-- The part runs from a bank under a record; the record is written where it changed (R435). -/
def runFrom (b : Bool) (r : FwRec) (s : State) : State :=
  let s := if b = s.fw.runBank then s
    else { s with fw := { s.fw with runBank := b, run := s.fw.other.getD {}, other := some s.fw.run } }
  let s := if s.fw.stored = some r then { s with fw := { s.fw with state := r } } else fwStore r s
  { s with fw := { s.fw with left := if r.phase = 2 then some (15625 * r.window) else none } }

/-- The part enters recovery mode (R437): only CE0 runs; the bank to be written is the one without a verifying confirmed
image, bank A where neither verifies. -/
def recoveryMode (okA okB : Bool) (s : State) : State :=
  let conf := s.fw.state.confBank
  let ok (b : Bool) : Bool := if b then okB else okA
  let t := if ok conf then !conf else if ok (!conf) then conf else false
  tellAtA 0xEB (detU 0 0 s.fw.run.version 6 0 0) { s with pwr := { s.pwr with phase := .recovery }, fw := { s.fw with target := t } }

/-- A confirmed bank is booted; a damaged one is marked and, where the previous image is held and verifies, replaced by
it; otherwise the boot fails (R436). -/
def bootConfirmed (okA okB : Bool) (r : FwRec) (s : State) : State :=
  let ok (b : Bool) : Bool := if b then okB else okA
  let c := r.confBank
  if ok c then runFrom c r s
  else
    let r := { r with damaged := r.damaged ||| (if c then 2 else 1) }
    let s := tellAtA 0xE9 (detU 0 0 (bankImage c s).version 0 0 0) s
    if r.prevValid && ok (!c) then
      let i := bankImage (!c) s
      runFrom (!c) { r with confBank := !c, prevValid := false, confVersion := i.version, confSvn := i.svn, confMdig := mdig8 i } s
    else bootFailure (fwStore r s)

/-- DIGEST of a FW_ACTIVATE entry of a kind (R429). -/
def fwDigest (kind : Nat) (i : FwImg) : Nat := kind + put (leNat (i.mdig.take 7)) 8 56

/-- An entry that follows the BOOT entry. -/
def jAtA (op digest result : Nat) (s : State) : State := { s with pwr := { s.pwr with jtell := s.pwr.jtell ++ [(op, digest, result)] } }

/-- The ROM reverts an unconfirmed candidate and boots CONF_BANK (R435); one that came from recovery mode returns there
where CONF_BANK does not verify (R437). -/
def bootRevert (okA okB : Bool) (r : FwRec) (s : State) : State :=
  let confOk := if r.confBank then okB else okA
  let i := bankImage r.confBank s
  let back := revertRec r
  let s := jAtA 0x87 (fwDigest 3 i) i.version (tellAtA 0xE8 (detU 0 0 i.version 3 0 0) s)
  if r.recovery && !confOk then recoveryMode okA okB (fwStore back s)
  else bootConfirmed okA okB back s

/-- The candidate is booted on probation with a full window (R435, R437). -/
def bootCandidate (r : FwRec) (s : State) : State :=
  let i := bankImage (!r.confBank) s
  runFrom (!r.confBank) { r with phase := 2 } (jAtA 0x87 (fwDigest (if r.recovery then 6 else 4) i) i.version s)

/-- The ROM's choice of what to boot (R435). -/
def chooseBank (b : Sys2Proof.BootIn) (s : State) : State :=
  let c := s.pwr.cause
  let ok (k : Bool) : Bool := if k then b.okB else b.okA
  match s.fw.stored with
  | none =>
    if b.okA then runFrom false { confBank := false, confVersion := (bankImage false s).version } s
    else if b.okB then runFrom true { confBank := true, confVersion := (bankImage true s).version } s
    else bootFailure s
  | some r =>
    if r.phase = 0 ∨ r.phase = 3 then bootConfirmed b.okA b.okB r s
    else if (c = 1 ∨ c = 2 ∨ (c = 7 ∧ r.recovery)) ∧ ok (!r.confBank) then bootCandidate r s
    else bootRevert b.okA b.okB r s

/-- The refresh intent found without DONE is resolved before either bank is verified (R376). -/
def resolveIntent (s : State) : State :=
  match intentFound s with
  | none => s
  | some (n, c) =>
    let s := { s with nv := { s.nv with intent := some (n, c) } }
    if crc64 (sectorBytes s n) = c then nvWrite (.intent n c true) 0 0 s
    else tellAtA 0xC3 (detF n 0 0) (eraseAsk n .refresh s)

/-- The ROM finds its records in flash; the codeword that a reset left being programmed has run to its end (R364, R435,
R446). -/
def romScan (s : State) : State :=
  let s := tailDone s
  let r := fwFound s
  { s with fw := { s.fw with stored := r, state := r.getD {} }, nv := { s.nv with rseq := rseqTop s + 1, wp := writePoints s } }

/-- BOOT_BEGIN: boundary m0, with PORST# and XRST_IN# released (R447 to R449). The straps are sampled, the domains of the ROM
stage are powered, CE0 runs and is watched (R450, R451). -/
def bootBegin (b : Sys2Proof.BootIn) (s : State) : State :=
  if s.pwr.phase ≠ .reset || s.pwr.porst || s.pwr.xrst then s
  else if b.testen then { s with pwr := { s.pwr with phase := .test } }
  else
    let rec_ := (b.recov && !s.pwr.ignoreRecov) || s.pwr.bootFail = 3
    let s := romScan s
    let s := armEngine 0 { s with pwr := { s.pwr with
      phase := .rom, cause := s.pwr.nextCause, since := 0, recov := b.recov, mcand := b.mcand, ignoreRecov := false
      domains := s.pwr.domains ||| 0xC17 }, sca := { s.sca with cand := b.mcand } }
    if b.romBad then bootFailure s
    else if rec_ then recoveryMode b.okA b.okB s
    else chooseBank b (resolveIntent s)

/-! ## Firmware start (R163, R313, R318, R364, R384, R396, R400, R451) -/

/-- Highest RNUM held in flash. -/
def flashTop (s : State) : Nat :=
  (heldSlots s).foldl (fun m y => max m y.img.rnum) (s.recd.clears.foldl (fun m x => max m x.rnum) 0)

/-- The recorder at boot (R396, R398, R400, R408). -/
def recBoot (rejected : Nat) (s : State) : State :=
  let r := s.recd
  let top := (heldSlots s).foldl (fun m y => if m.1 ≤ y.img.ash then (y.img.ash, y.img.rnum) else m) (0, 0)
  let buf := if r.retained then r.buf else []
  let ash := sat 0xFFFFFFFF (top.1 + rejected + (buf.filter fun x => top.2 < x.rnum).length)
  let s := { s with recd := { r with
    buf := buf, ash := ash, retained := true, bufLost := !r.retained, lostNow := !r.retained, flush := !buf.isEmpty
    erasing := r.clears.getLast?.map fun x => nbits x.extra 63 32
    next := if r.retained then r.next else (flashTop s / 65536 + 1) * 65536 } }
  if r.retained then s else tellAtA 0xCA (detK 0 ash 0 0) s

/-- The journal's numbering, and entries still PENDING become RESET (R313, R315, R318). -/
def jrnBoot (s : State) : State :=
  let high := max s.jrn.head (max (s.pwr.ember.elim 0 Ember.head) ((mirrorHeld s).foldl (fun m e => max m e.seq) 0))
  let s := if s.pwr.epoch then { s with
      jrn := { s.jrn with next := if high = 0 then 2 ^ 32 else (high / 2 ^ 32 + 1) * 2 ^ 32 }, pwr := { s.pwr with epoch := false, bootDigest := high } }
    else { s with pwr := { s.pwr with bootDigest := s.jrn.head } }
  let late (e : JEntry) : Bool := e.status = stPending
  let kept := (s.jrn.sram.filterMap (·.2)).filter fun e => late e && e.persist
  { s with jrn := { s.jrn with
    sram := s.jrn.sram.map fun p => (p.1, p.2.map fun e => if late e then { e with status := stReset } else e)
    waiting := s.jrn.waiting ++ kept.map (·.seq) } }

/-- The lifetime counters after a power failure or PD0 power-up: the flash values, and the ember record's deltas where it
is newer (R163, R369). -/
def countsBoot (s : State) : State :=
  if s.pwr.cause ≠ 1 ∧ s.pwr.cause ≠ 2 then s
  else
    let s := each railList (fun i s =>
      let v := (tget ([], 0) s.nv.counters i).1
      s.modRail i fun r => { r with cnt := (v.zipIdx).foldl (fun t p => tset 0 t p.2 p.1) [], delta := [], deltaSince := [] }) s
    match s.pwr.ember with
    | none => s
    | some e => each e.deltas (fun d s =>
        if (tget ([], 0) s.nv.counters d.1).2 < e.rseq then countUp d.1 d.2.1 d.2.2 s else s) s

/-- A generation can be activated at boot: its image is accepted and no test refuses it (R384, R451). -/
def bootable (s : State) (n : Nat) : Bool := (s.image n).any fun im => (refusal im s).isNone

/-- The generations at boot (R383, R384): one left on probation is reverted; current, else previous, else the built-in. -/
def chooseGen (s : State) : State :=
  let g := s.nv.stored.getD {}
  let s := { s with nv := { s.nv with gen := g } }
  let s := if g.prob then
      jAtA 0x84 0 g.prev (changeGen { g with cur := g.prev, prev := g.cur, prob := false } 0 0 s)
    else s
  let g := s.nv.gen
  if g.cur = 0 || bootable s g.cur then { s with pwr := { s.pwr with genA := g.cur } }
  else
    let s := tellAtA 0xC7 (detF g.cur 0 0) s
    let n := if g.prev ≠ 0 && bootable s g.prev then g.prev else 0
    { s with nv := { s.nv with gen := { g with cur := n, prev := 0 } }, pwr := { s.pwr with genA := n } }

/-- The ember area keeps room for two records in each half (R373). -/
def emberRoom (s : State) : State :=
  each [0, 1] (fun h s => if 256 < tget 0 s.nv.wp (2 + h) + 36 then eraseAsk (halfAddr 1 h / 8192) (.half 1 h) s else s) s

/-- The image that A activates. -/
def imageA (s : State) : Image := (s.image s.pwr.genA).getD builtIn

/-- The domains the chosen generation uses are powered 128 frames before A (R35, R451); the bank and reference selections
they need are those of its image. -/
def domainsBoot (s : State) : State :=
  let im := imageA s
  let pick (k : Nat) (s : State) : State := { s with cfg := tset 0 s.cfg k (tget 0 im.regs k &&& BitVec.ofNat 32 (cfgMask k)) }
  let s := pick (bctrl 0) (pick (bctrl 1) (pick 0x7000 s))
  let s := each [0, 1] (fun p s => s.modRefm p fun x => { x with sel := refSel (tget 0 im.regs 0x7004) p }) s
  let want := domainMask (withImage im s) im.hostLink
  each (List.range 12) (fun pd s => if want.testBit pd && !(pd = 8 || pd = 9) && !s.pwr.domains.testBit pd then domainOn pd s
    else if want.testBit pd && (pd = 8 || pd = 9) && !(s.bank (pd - 8)).powered then domainOn pd s else s) s

/-- FIRMWARE_START to the end of the boot scan. -/
def firmwareStart (s : State) : State :=
  if s.pwr.phase ≠ .rom then s
  else
    let s := bootScan (armEngine 1 (armEngine 2 (armEngine 3 s)))
    let s := fillReserve (fillReserve (recBoot (rejected s.recd.sects) (jrnBoot s)))
    let s := emberRoom (countsBoot s)
    let s := domainsBoot (chooseGen s)
    armWhen (nvBegin { s with pwr := { s.pwr with phase := .waitA, toA := some 128 } })

/-! ## Boundary A (R293, R451 to R454, R459, R460) -/

/-- LOCK_AUTO_OPEN (R292, R293). -/
def lockAutoOpen (s : State) : State :=
  if s.running! && s.hst.lock = 0 && s.hst.linkUp then jInternal 0x80 1 0 1 false { s with hst := { s.hst with lock := 1 } }
  else s

/-- JOIN_WAIT in watch ticks (R461). -/
def joinWait (s : State) : Nat := orDef (s.cf 0x20 27 16) 4095

/-- The stack and the pair are awaited (R459, R460). -/
def joinsBegin (s : State) : State :=
  { s with sca := { s.sca with
    joinStack := if s.role = 1 then some (joinWait s) else none
    joinPair := if s.cb 0xE000 0 then some (joinWait s) else none } }

/-- The on request of R454 as boundary A leaves it: due at A + 1, delayed, or none. -/
def onAfterA (s : State) : State :=
  let c := s.pwr.cause
  let p := s.cf 0x20 15 14
  if c = 4 then
    let w := s.cw 0x5608
    if fld w 1 0 ≠ 1 || fld w 17 14 = 0 then s
    else if fld w 17 14 ≤ s.flt.restarts then
      raise 0x2B s.tsB (detRun s s.flt.restarts 0 0) { s with flt := { s.flt with restartExh := true } }
    else if fld w 13 2 = 0 then { s with pwr := { s.pwr with onAtA := true } }
    else { s with flt := { s.flt with restartLeft := some (fld w 13 2) } }
  else if ((c = 1 ∨ c = 2) ∧ (p = 1 ∨ p = 2)) ∨ ((c = 3 ∨ c = 5) ∧ p = 2) then { s with pwr := { s.pwr with onAtA := true } }
  else s

/-- At A the part runs: DOMAIN is OFF and SYSRST# is asserted (R51, R451, R453). -/
def bootRun (s : State) : State :=
  let s := { s with
    pwr := { s.pwr with phase := .run, toA := none, bootFrames := s.pwr.since, bootFail := 0, tell := [], jtell := [], emberTell := false }
    seq := { s.seq with domain := .off } }
  assertSysrst { s with flt := { s.flt with sysrst := false } }

/-- The BOOT entry, then what the boot that `p` records has to tell (R51, R396, R451). -/
def bootTell (p : Pwr) (s : State) : State :=
  let s := jInternal 0x86 2 s.pwr.bootDigest s.pwr.cause true s
  let s := each p.jtell (fun j s => jInternal j.1 2 j.2.1 j.2.2 true s) s
  let s := each p.tell (fun e s => raise e.1 s.tsB e.2 s) s
  let s := match s.pwr.ember with
    | some e => if p.emberTell then raise 0x4C s.tsB (detF (e.pf.frame.toNat % 2 ^ 32) e.deltas.length 0) s else s
    | none => s
  if 0 < p.bootFail then raise 0x15 s.tsB (detX s) s else s

/-- BOOT_ACTIVATION at boundary A (R51, R451, R453): the BOOT entry comes first, then what the boot has to tell. -/
def bootActivation (s : State) : State :=
  if s.pwr.phase ≠ .waitA then s
  else
    let t := activate (imageA s) true s
    lockAutoOpen (onAfterA (joinsBegin (bootTell t.pwr (bootRun t))))

/-- BOOT_ON_REQUEST at A + 1 (R306, R454): journalled as RESTART; a stack member's goes to its master. -/
def bootOnRequest (s : State) : State :=
  if !s.pwr.onAtA then s
  else
    let s := { s with pwr := { s.pwr with onAtA := false } }
    if s.role = 2 then emit (.relay { opcode := 1 }) s
    else if s.pwr.cause = 4 then fullRestart s
    else onRequestNow (jInternal 0x83 2 0 0xFFFFFFFF false s)

/-! ## The watchdog's resets (R164 to R166, R437) -/

/-- WATCHDOG_EXPIRY of an armed engine. -/
def watchdogExpiry (e : Nat) (s : State) : State :=
  if 7 < e || !(s.eng e).armed then s
  else if booting s || s.pwr.phase = .recovery then bootFailure s
  else if isTray s e then trayExpiry e s
  else stageFault (e - 4) 9 s

/-- WATCHDOG_RESET: the run of a tray expiry has completed (R166); RESTARTS goes on counting (R454). -/
def watchdogReset (s : State) : State :=
  if !s.flt.wdtRun then s
  else
    let n := s.flt.restarts
    let x := s.flt.restartExh
    let s := chipReset 4 s
    { s with flt := { s.flt with restarts := n, restartExh := x } }

/-- RECOVERY_RESET (R437, R450): RECOV# is ignored at the boot that follows. -/
def recoveryReset (s : State) : State :=
  if s.fw.recReset.isNone then s
  else
    let s := chipReset 7 s
    { s with pwr := { s.pwr with ignoreRecov := true } }

/-! ## Supplies at a boundary (R442, R447) -/

/-- Rising thresholds in mV (R442): VHOLD, VCORE, VIO18, VDDA. -/
def riseMv (k : Nat) : Int := [7500, 760, 1680, 1680].getD k 0

/-- Falling thresholds in mV. -/
def fallMv (k : Nat) : Int := [6000, 740, 1620, 1620].getD k 0

/-- A supply at a boundary: 64 consecutive boundaries above its rising threshold make it good; below the falling one it
is not. -/
def supplyStep (k : Nat) (mv : Int) (s : State) : State :=
  let n := tget 0 s.pwr.good k
  let n := if mv < fallMv k then 0 else if n = 64 then 64 else if mv < riseMv k then 0 else n + 1
  { s with pwr := { s.pwr with good := tset 0 s.pwr.good k n } }

/-- Every main supply and VHOLD is good, and PORST# and XRST_IN# are released (R447). -/
def mainGood (s : State) : Bool := ([0, 1, 2, 3].all fun k => tget 0 s.pwr.good k = 64) && !s.pwr.porst && !s.pwr.xrst

/-- The comparators of R195 that have tripped: bit 0 VCORE, 1 VIO18, 2 VHOLD. -/
def failBits (vcore vio18 vhold : Int) : Nat := b2n (decide (vcore < 740)) + put (b2n (decide (vio18 < 1620))) 1 1 + put (b2n (decide (vhold < 6000))) 2 1

/-! ## Commands of this chapter -/

def execPd0PowerUp (s : State) := Next (pd0Lost s)
def execPd0PowerLoss (s : State) := Next (powerLoss s)
def execSupplyGood (supply : Nat) (s : State) :=
  Next (if supply < 4 then { s with pwr := { s.pwr with good := tset 0 s.pwr.good supply 64 } } else s)
def execPorstAsserted (s : State) := Next (porstSeen s)
def execBootBegin (b : Sys2Proof.BootIn) (s : State) := Next (bootBegin b s)
def execFirmwareStart (upsets : List (Nat × Nat × Codeword)) (s : State) :=
  Next (if s.pwr.phase = .rom then firmwareStart (each upsets upset s) else s)
def execDomainPowerUp (pd : Nat) (s : State) := Next (if tget 0 s.pwr.pending pd = 0 then s else domainOn pd s)
def execBootActivation (s : State) := Next (bootActivation s)
def execBootOnRequest (s : State) := Next (judged bootOnRequest s)
def execBootFailure (s : State) := Next (bootFailure s)
def execLockAutoOpen (s : State) := Next (lockAutoOpen s)
def execPowerFailure (cause cyc : Nat) (s : State) :=
  Next (powerFailure cause { frame := s.clk.frame + 1, frac := fracOf cyc } s)
def execEmberModeExit (s : State) := Next (emberExit s)
def execXrstInAssert (s : State) := Next { s with pwr := { s.pwr with xrst := true } }
def execXrstInRelease (s : State) := Next (xrstReleased s)
def execReferenceClockLost (s : State) := Next (clockLost s)
def execReferenceClockReturn (s : State) := Next (clockBack s)
def execWatchdogExpiry (engine : Nat) (s : State) := Next (watchdogExpiry engine s)
def execWatchdogReset (s : State) := Next (watchdogReset s)
def execRecoveryReset (s : State) := Next (recoveryReset s)

end Sys2Proof.Machine
end

