-- ==== Sys2Proof/Machine/HostRegs.lean ====
section
/-! DEFINITION. Machine/HostRegs.lean: BAR0 and BAR2 as the host sees them: set-up writes and their refusals, the
write-one-to-clear fields, the actions of BAR0, the reads that latch, resets of the host interface (R8 to R11, R289 to
R293, R319, R502 and the rules the fields stand in). -/

namespace Sys2Proof.Machine

open Sys2Proof (Access)

/-! ## Refusals of set-up writes -/

/-- A rail neither in UNUSED nor in OFF (R93, R169). -/
def railClosed (s : State) (i : Nat) : Bool := (s.rail i).st ≠ .unused && (s.rail i).st ≠ .off

/-- The rail whose BKx_RCFGi, RTIMi or RPMBi stands at an offset (R93). -/
def bankRail (o : Nat) : Option Nat :=
  if within 0x2000 0x22FF o && o % 16 < 12 then some ((o - 0x2000) / 16)
  else if within 0x3000 0x32FF o && o % 16 < 12 then some (48 + (o - 0x3000) / 16)
  else none

/-- The stage whose STG_CFGs, STG_PWMs, STG_ICHKs or STG_PHp_CFG stands at an offset (R283). -/
def stageSetup (o : Nat) : Option Nat :=
  if within 0x8000 0x81FF o && o % 0x80 < 12 then some ((o - 0x8000) / 0x80)
  else if within 0x8400 0x84FF o && o % 8 = 0 then some ((o - 0x8400) / 64)
  else none

/-- A stage outside UNUSED, OFF and SAFE_OFF (R283). -/
def stageClosed (s : State) (st : Nat) : Bool := (s.stg st).st ≠ .unused && (s.stg st).st ≠ .off && (s.stg st).st ≠ .safeOff

/-- The ring whose registers stand at an offset (R320). -/
def ringAt (o : Nat) : Option Nat :=
  if within 0x1100 0x11FF o then some ((o - 0x1100) / 0x20)
  else if within 0x1200 0x12FF o then some (8 + (o - 0x1200) / 0x20)
  else if within 0x1300 0x131F o then some 16
  else if within 0x1320 0x133F o then some 17
  else none

/-- A snapshot list slot that may stand (R390): the end mark, or a multiple of 4 below 0xF000. -/
def slotLegal (v : Nat) : Bool := v = 0xFFFF || (v % 4 = 0 && v < 0xF000)

/-- R320: BASE or LOG2SIZE of an enabled ring, or a LOG2SIZE outside 4 to 12. -/
def ringRefuses (s : State) (r o : Nat) (old new : W32) : Bool :=
  let en := bit (s.bw (ringReg r + 8)) 0
  if o % 0x20 = 8 then
    fld old 4 1 ≠ fld new 4 1 && (en || !within 4 12 (fld new 4 1))
  else en

/-- R206: the core's entries as BAR0 would show them need more slots than it has. -/
def slotsRefuse (s : State) (k : Nat) (new : W32) : Bool := (slotsFail { s with cfg := tset 0 s.bar0 k new }).isSome

/-- A block's own rule refuses the set-up write that would leave `new` where `old` reads, at offset o (R93, R137, R169,
R172, R206, R248, R283, R320, R390, R466). -/
def setupRefused (s : State) (o : Nat) (old new : W32) : Bool :=
  (match bankRail o with | some i => railClosed s i | none => false) ||
  (within 0x4100 0x41FF o && (s.prog ((o - 0x4100) / 4)).state = 1) ||
  (within 0x5000 0x55FF o && railClosed s ((o - 0x5000) / 16)) ||
  (within 0x5630 0x563F o && (s.stg ((o - 0x5630) / 4)).st.running) ||
  (within 0x5640 0x567F o && s.off.run && !s.off.full && s.off.groups.testBit ((o - 0x5640) / 4)) ||
  (within 0x7400 0x77FF o && slotsRefuse s o new) ||
  internalCal s o ||
  (match stageSetup o with | some st => stageClosed s st | none => false) ||
  (match ringAt o with | some r => ringRefuses s r o old new | none => false) ||
  (within 0xB400 0xB7FF o && !(slotLegal (fld new 15 0) && slotLegal (fld new 31 16))) ||
  (within 0xD000 0xD3FF o && within 1 11 (fld new 7 2))

/-- The RWS bits of a write (R8, R502): judged as it arrives; accepted ones read back at once and wait for order 6. -/
def writeSetup (o : Nat) (v : W32) (cyc : Nat) (s : State) : State :=
  let k := regKey s.cnv.cblk o
  let m := rwsMask k
  let old := bar0Read s o
  let new := merge m old v
  if old = new then s
  else if s.hst.lock ≠ 1 then raise 0x02 (s.tsAt cyc) (detB o v.toNat false false 0) s
  else if setupRefused s o old new then raise 0x03 (s.tsAt cyc) (detB o v.toNat false false 0) s
  else
    { s with
      bar0 := tset 0 s.bar0 k (merge m (s.bw k) v)
      setup := s.setup ++ [(k, v &&& BitVec.ofNat 32 m)] }

/-! ## Set-up writes at order 6 -/

/-- The enable bit of a ring changes: enabling sets its indices to 0 and ends its halt (R295, R320); what had been
fetched is dropped either way. -/
def ringEnable (r : Nat) (on : Bool) (s : State) : State :=
  s.modRing r fun x => if on then { ({} : Ring) with count := x.count, resv := x.resv, bell := x.bell } else { x with fetched := [], fetching := 0 }

/-- Entries whose settings the change touched (R205, R227). -/
def setupConv (old s : State) : State :=
  each [0, 1, 2, 3] (fun c s => each (List.range 64) (fun e s =>
    if entChanged old s c e then
      modEnt c e (fun x => { invalidate x with stall := 2, dec := 0, win := .unknown, inCnt := 0 }) s else s) s) s

/-- One accepted set-up write takes effect (R44 order 6): key and the RWS bits written. -/
def applySetup (k : Nat) (v : W32) (s : State) : State :=
  let old := s
  let s := { s with cfg := tset 0 s.cfg k (merge (rwsMask k) (s.cw k) v) }
  let s := match ringAt k with
    | some r => if k % 0x20 = 8 && bit (old.cw k) 0 ≠ bit v 0 then ringEnable r (bit v 0) s else s
    | none => s
  if within 0x7000 0x7BFF k || calKey ≤ k then setupConv old s
  else if within 0x9000 0x9FFF k then portsUpdate s
  else s

/-- The set-up writes of the frame just ended, in order of arrival (R44 order 6). -/
def applySetups (s : State) : State :=
  let l := s.setup
  each l (fun p s => applySetup p.1 p.2 s) { s with setup := [] }

/-! ## Fields that writes of 1 clear (R8, R10) -/

/-- Bits of v that clear: those hardware set in this frame stay (R10). -/
def w1c (w : Nat) (cur now v : BitVec w) : BitVec w := cur &&& ~~~(v &&& ~~~now)

/-- BKx_RSTATi (R93). -/
def clearRstat (i v : Nat) (s : State) : State :=
  s.modRail i fun r =>
    let c (b : Nat) : Bool := v.testBit (8 + b) && !r.setNow.testBit b
    { r with shortHi := r.shortHi && !c 0, shortLo := r.shortLo && !c 1, enOpen := r.enOpen && !c 2, pgOpen := r.pgOpen && !c 3
             pgStuck := r.pgStuck && !c 4 }

/-- CNV_REFSTAT (R244). -/
def clearRef (p : Nat) (s : State) : State := s.modRefm p fun x => { x with fault := x.fault && x.faultNow }

/-- CNV_WLEAVEc: v stands at bit `lo` of the 64 (R245). -/
def clearLeave (c lo v : Nat) (s : State) : State :=
  s.modCore c fun k => { k with leave := w1c 64 k.leave k.leaveNow (BitVec.ofNat 64 (put v lo 32)) }

/-- STG_STATs (R285). -/
def clearStage (st v : Nat) (s : State) : State :=
  s.modStg st fun x => { x with
    sat := x.sat && !(v.testBit 12 && !x.setNow.testBit 0), ovf := x.ovf && !(v.testBit 13 && !x.setNow.testBit 1) }

/-- The W1C bits of a write at an offset. -/
def writeW1c (o v : Nat) (s : State) : State :=
  if o = 0x108 then { s with ovrStat := w1c 20 s.ovrStat s.ovrNow (BitVec.ofNat 20 v) }
  else if o = 0x1004 then
    (if v.testBit 2 && !s.hst.fresetNow then { s with hst := { s.hst with freset := false } } else s)
  else if within 0x2000 0x2FFF o && o % 0x1000 < 0x300 && o % 16 = 12 then clearRstat ((o - 0x2000) / 16) v s
  else if within 0x3000 0x3FFF o && o % 0x1000 < 0x300 && o % 16 = 12 then clearRstat (48 + (o - 0x3000) / 16) v s
  else if (within 0x2310 0x232C o || within 0x3310 0x332C o) && v.testBit 25 then
    s.modMdac (if o < 0x3000 then (o - 0x2310) / 4 else 8 + (o - 0x3310) / 4) fun m => { m with compliance := m.compliance && m.setNow }
  else if o = 0x6108 then { s with dmp := { s.dmp with
    miss := s.dmp.miss && !(v.testBit 4 && !s.dmp.setNow.testBit 0), unreach := s.dmp.unreach && !(v.testBit 5 && !s.dmp.setNow.testBit 1) } }
  else if o = 0xB804 then { s with recd := { s.recd with bufLost := s.recd.bufLost && !(v.testBit 4 && !s.recd.lostNow) } }
  else if o = 0x7008 then when (v.testBit 2) (clearRef 0) (when (v.testBit 3) (clearRef 1) s)
  else if within 0x7100 0x72FF o && o % 0x80 = 0xC then clearLeave ((o - 0x7100) / 0x80) 0 v s
  else if within 0x7100 0x72FF o && o % 0x80 = 0x10 then clearLeave ((o - 0x7100) / 0x80) 32 v s
  else if within 0x8000 0x81FF o && o % 0x80 = 0x24 then clearStage ((o - 0x8000) / 0x80) v s
  else if within 0xD400 0xD41F o then
    { s with evt := { s.evt with pend := w1c 256 s.evt.pend s.evt.setNow (BitVec.ofNat 256 (put v (8 * (o - 0xD400)) 32)) } }
  else s

/-! ## Actions of BAR0 -/

/-- A BAR0 action that R315 lists: its entry is made now, PENDING, and its effect comes at order 6 of the next boundary
in SEQ order (R44, R132, R170, R263, R315). `k`: 0 ABORT, 1 FF_CLEAR, 2 SYSRST_REL, 4 + s COMMIT of stage s. -/
def barAction (k o : Nat) (v : W32) (s : State) : State :=
  let q := s.nextSeq
  let l : Live := { seq := q, relayed := true, d := { opcode := 0x81, args := BitVec.ofNat 448 (k + put o 16 16) } }
  let s := jAppend { opcode := 0x81, src := 1, digest := v.toNat, result := o, status := stPending } s
  { s with hst := { s.hst with decided := s.hst.decided ++ [l], live := s.hst.live ++ [l] } }

/-- GLB_LOCK (R292, R293). -/
def lockWrite (v : W32) (s : State) : State :=
  if s.hst.lock = 0 then s
  else if bit v 0 then
    (if fld v 15 8 = 0xA5 && s.hst.lock ≠ 1 then
      jInternal 0x80 1 0 1 false { s with hst := { s.hst with lock := 1 } } else s)
  else if s.hst.lock = 1 then jInternal 0x80 1 0 0 false { s with hst := { s.hst with lock := 2 } }
  else s

/-- SEQ_CTRL.ABORT (R132). -/
def abortWrite (v : W32) (s : State) : State := if bit v 1 then barAction 0 0x4000 v s else s

/-- FLT_CTRL.FF_CLEAR (R170). -/
def ffWrite (v : W32) (s : State) : State := if bit v 0 then barAction 1 0x5600 v s else s

/-- FLT_CTRL.SYSRST_REL (R170). -/
def relWrite (v : W32) (s : State) : State := if bit v 1 then barAction 2 0x5600 v s else s

/-- STG_LOADs.COMMIT (R263). -/
def loadWrite (st : Nat) (v : W32) (s : State) : State :=
  if bit v 0 then barAction (4 + st) (sbase st + 0x40) v (s.modStg st fun x => { x with pending := true }) else s

/-- GLB_LOADn.CLEAR (R60). -/
def loadClear (n : Nat) (v : W32) (s : State) : State := if bit v 31 then s.modEng n fun x => { x with clear := true } else s

/-- FLT_CNT_SEL (R171): rails 96 to 127 are ignored. -/
def cntSel (v : W32) (s : State) : State :=
  if fld v 6 0 < 96 then { s with flt := { s.flt with cntPend := some (fld v 6 0) } } else s

/-- CNV_WSEL (R244): CBLK 3 is ignored. -/
def wselWrite (v : W32) (s : State) : State := { s with cnv := { s.cnv with wselPend := some (fld v 3 0) } }

/-- EVT_CSEL (R468). -/
def cselWrite (v : W32) (s : State) : State := { s with evt := { s.evt with cselPend := some (fld v 7 0) } }

/-- EVT_WCLOG_STAT.POP (R469). -/
def popWrite (v : W32) (s : State) : State := if bit v 5 then { s with wc := { s.wc with pop := true } } else s

/-- SCA_RSEL (R353). -/
def rselWrite (v : W32) (s : State) : State := { s with sca := { s.sca with rselPend := some (fld v 11 0) } }

/-- The selections written in the frame just ended take effect (R171, R244, R353, R468, R469). -/
def selections (s : State) : State :=
  let s := match s.cnv.wselPend with
    | some v => { s with cnv := { s.cnv with wsel := v % 4, cblk := if v / 4 < 3 then v / 4 else s.cnv.cblk, wselPend := none } }
    | none => s
  let s := { s with
    evt := { s.evt with csel := (s.evt.cselPend.orElse fun _ => s.evt.csel), cselPend := none }
    sca := { s.sca with rsel := s.sca.rselPend.getD s.sca.rsel, rselPend := none }
    flt := { s.flt with cntSel := (s.flt.cntPend.orElse fun _ => s.flt.cntSel), cntPend := none }
    wc := { s.wc with
      log := if s.wc.pop then (match s.wc.latch with | some e => s.wc.log.erase e | none => s.wc.log) else s.wc.log, pop := false } }
  { s with flt := { s.flt with cntWin := match s.flt.cntSel with | some i => countersOf s i | none => s.flt.cntWin } }

/-- The WO and RW fields of a write at an offset (R8). -/
def writeAction (o : Nat) (v : W32) (s : State) : State :=
  if o = 0x10 then lockWrite v s
  else if within 0x130 0x14C o then loadClear ((o - 0x130) / 4) v s
  else if o = 0x4000 then abortWrite v s
  else if o = 0x5600 then relWrite v (ffWrite v s)
  else if o = 0x5610 then cntSel v s
  else if o = 0x701C then wselWrite v s
  else if within 0x8000 0x81FF o && o % 0x80 = 0x40 then loadWrite ((o - 0x8000) / 0x80) v s
  else if o = 0x9070 then rselWrite v s
  else if o = 0xD420 then cselWrite v s
  else if o = 0xD810 then popWrite v s
  else s

/-- A naturally aligned 32-bit BAR0 write: each field acts under its own access code (R8, R502). -/
def barWrite (o : Nat) (v : W32) (cyc : Nat) (s : State) : State :=
  if o < 0x10000 then writeAction o v (writeW1c o v.toNat (writeSetup o v cyc s)) else s

/-! ## Accesses (R289) -/

/-- A size and alignment that BAR0 and BAR2 accept (R289). -/
def Access.ok (a : Access) : Bool := (a.size = 4 && a.off % 4 = 0) || (a.size = 8 && a.off % 8 = 0)

/-- An access of another size or alignment: a read ends with Unsupported Request, a write is discarded, either raises the
host-access event (R289). -/
def badAccess (write : Bool) (a : Access) (v : W32) (s : State) : State :=
  let s := if write then s else emit (.unsupported a.off) s
  raise 0x04 (s.tsAt a.cyc) (detB a.off (if write then v.toNat else 0) (!write) false 0) s

/-- A BAR0 write (R289): a 64-bit one is two 32-bit ones, the lower address first. -/
def setUpWrite (a : Access) (v : BitVec 64) (s : State) : State :=
  if !Access.ok a then badAccess true a (v.truncate 32) s
  else
    let s := barWrite a.off (v.truncate 32) a.cyc s
    if a.size = 8 then barWrite (a.off + 4) ((v >>> 32).truncate 32) a.cyc s else s

/-! ## Reads that latch (R8) -/

/-- The answer of a read. -/
def answerRead (o : Nat) (s : State) : State := emit (.read o (bar0Read s o)) s

/-- GLB_FRAME_LO (R60). -/
def readFrame (cyc : Nat) (s : State) : State :=
  answerRead 0x100 { s with clk := { s.clk with latHi := BitVec.ofNat 16 (s.now / 2 ^ 32), latFrac := fracOf cyc } }

def readJhead (s : State) : State := answerRead 0x1010 { s with hst := { s.hst with jheadHi := s.jrn.head / 2 ^ 32 } }
def readJold (s : State) : State := answerRead 0x1018 { s with hst := { s.hst with joldHi := oldestSram s / 2 ^ 32 } }
def readJmir (s : State) : State := answerRead 0x1020 { s with hst := { s.hst with jmirHi := oldestMirror s / 2 ^ 32 } }

/-- CNV_RESe_LO (R243, R247). -/
def readRes (e : Nat) (s : State) : State :=
  let f := (s.entry s.cnv.wsel e).res.ts.frame
  answerRead (0x7C00 + 8 * e) { s with cnv := { s.cnv with resHi := tset 0 s.cnv.resHi e (frLo f) } }

/-- EVT_WCLOG0 (R469): an empty log latches 0. -/
def readWclog (s : State) : State := answerRead 0xD800 { s with wc := { s.wc with latch := s.wc.log.head? } }

/-- FW_HOVER_LO (R441). -/
def readHover (s : State) : State := answerRead 0xC01C { s with fw := { s.fw with hoverHi := frHi s.fw.hover } }

/-! ## BAR2 and the function (R290, R291, R470) -/

/-- A write to the MSI-X table: address, data and mask of a vector (R470, PCIe MSI-X). -/
def msixWrite (o : Nat) (v : W32) (s : State) : State :=
  if !within 0x800 0xBFF o || o % 4 ≠ 0 then s
  else
    let n := (o - 0x800) / 16
    let set (e : Vec) : Vec :=
      if o % 16 = 0 then { e with addr := (e.addr &&& 0xFFFFFFFF00000000) ||| (v.zeroExtend 64 &&& 0xFFFFFFFC) }
      else if o % 16 = 4 then { e with addr := (e.addr &&& 0xFFFFFFFF) ||| (v.zeroExtend 64 <<< 32) }
      else if o % 16 = 8 then { e with data := v }
      else { e with masked := bit v 0 }
    releasePba (s.modVec n set)

/-- What waits in the host interface is discarded and counted, ring by ring (R290, R298, R309). -/
def discardStaged (s : State) : State :=
  let gone := s.hst.ready.filter fun c => frameLe c.readyAt s.clk.frame
  let s := each gone (fun c s => s.modRing (8 + c.ring) fun r => { r with count := sat 0xFFFF (r.count + 1), resv := r.resv - (1 + c.extra) }) s
  let n := s.evt.fresh.length + (s.evt.held.map (·.count)).foldl (· + ·) 0
  let s := s.modRing 16 fun r => { r with count := sat 0xFFFF (r.count + n) }
  { s with
    hst := { s.hst with ready := s.hst.ready.filter fun c => !frameLe c.readyAt s.clk.frame }
    evt := { s.evt with fresh := [], held := [] }
    cnv := { s.cnv with lost := sat 0xFFFF (s.cnv.lost + s.cnv.staged.length), staged := [] } }

/-- A ring at an interface reset: disabled, its indices 0 (R290). -/
def ringReset (r : Nat) (s : State) : State :=
  let k := ringReg r + 8
  let off (w : W32) : W32 := w &&& ~~~(1 : W32)
  let s := { s with
    bar0 := tset 0 s.bar0 k (off (s.bw k)), cfg := tset 0 s.cfg k (off (s.cw k))
    setup := s.setup.map (fun (p : Nat × W32) => if p.1 = k then (k, off p.2) else p) }
  s.modRing r fun x => { ({} : Ring) with count := x.count, halt := x.halt, cause := x.cause, resv := x.resv }

/-- HOST_INTERFACE_RESET (R290, R292): `link` is whether the link is up behind it. -/
def hostReset (link : Bool) (s : State) : State :=
  let s := each (List.range 18) ringReset (discardStaged s)
  let s := if s.hst.lock = 1 then jInternal 0x80 1 0 2 false { s with hst := { s.hst with lock := 2 } } else s
  { s with hst := { s.hst with
    vecs := [], pba := 0, modLeft := [], modPend := [], dvec := [], wb := none, linkUp := link && s.pwr.domains.testBit 10, freset := true, fresetNow := true
    resets := sat 0xFFFF (s.hst.resets + 1) } }

def execSetUpWrite (a : Access) (v : BitVec 64) (s : State) := Next (setUpWrite a v s)
def execGlbLockWrite (v : W32) (cyc : Nat) (s : State) := Next (barWrite 0x10 v cyc s)
def execSeqCtrlAbort (v : W32) (s : State) := Next (abortWrite v s)
def execFltCtrlFfClear (v : W32) (s : State) := Next (ffWrite v s)
def execFltCtrlSysrstRel (v : W32) (s : State) := Next (relWrite v s)
def execStgLoadCommit (stage : Nat) (v : W32) (s : State) := Next (if stage < 4 then loadWrite stage v s else s)
def execGlbLoadClear (engine : Nat) (v : W32) (s : State) := Next (if engine < 8 then loadClear engine v s else s)
def execFltCntSelWrite (v : W32) (s : State) := Next (cntSel v s)
def execCnvWselWrite (v : W32) (s : State) := Next (wselWrite v s)
def execEvtCselWrite (v : W32) (s : State) := Next (cselWrite v s)
def execEvtWclogPop (v : W32) (s : State) := Next (popWrite v s)
def execScaRselWrite (v : W32) (s : State) := Next (rselWrite v s)
def execGlbFrameLoRead (cyc : Nat) (s : State) := Next (readFrame cyc s)
def execHstJheadLoRead (s : State) := Next (readJhead s)
def execHstJoldLoRead (s : State) := Next (readJold s)
def execHstJmirLoRead (s : State) := Next (readJmir s)
def execCnvResLoRead (entry : Nat) (s : State) := Next (if entry < 64 then readRes entry s else s)
def execEvtWclog0Read (s : State) := Next (readWclog s)
def execFwHoverLoRead (s : State) := Next (readHover s)
def execHostInterfaceReset (link : Bool) (s : State) := Next (hostReset link s)
def execUnsupportedBarAccess (bar : Nat) (write : Bool) (a : Access) (v : W32) (s : State) :=
  Next (if bar = 0 ∨ bar = 2 then (if Access.ok a then s else badAccess write a v s) else s)
def execMsixTableWrite (off : Nat) (v : W32) (s : State) := Next (msixWrite off v s)

end Sys2Proof.Machine
end

