-- ==== Sys2Proof/Machine/HostRings.lean ====
section
/-! DEFINITION. Machine/HostRings.lean: the rings in host memory: doorbells, fetches, taking and accepting descriptors,
completions, event entries, the writeback block and the ring vectors (R291, R294 to R301, R308 to R311). -/

namespace Sys2Proof.Machine

open Sys2Proof (Fetched)

/-! ## Ring state (R294, R295) -/

/-- Size of ring r as configured. -/
def ringSize (s : State) (r : Nat) : Nat := 2 ^ s.cf (ringReg r + 8) 4 1

/-- The ring is enabled. -/
def ringOn (s : State) (r : Nat) : Bool := s.cb (ringReg r + 8) 0

/-- Host address of a ring's base. -/
def ringBase (s : State) (r : Nat) : Nat := (s.cw (ringReg r)).toNat + (s.cw (ringReg r + 4)).toNat * 2 ^ 32

/-- A ring halts with a cause, and the ring-error event tells (R295, R296). -/
def ringHalt (r cause idx addr : Nat) (s : State) : State :=
  raise 0x13 s.tsB (detH r cause idx addr)
    (s.modRing r fun x => { x with halt := true, cause := cause, fetching := 0 })

/-- The host interface asks for the descriptors the mirror lacks, up to 32 beyond the head (R296). -/
def fetchMore (r : Nat) (s : State) : State :=
  let x := s.ring r
  if !ringLive s r then s
  else
    let n := ringSize s r
    let have_ := x.fetched.length + x.fetching
    let want := min 32 ((x.peer + n - x.own) % n)
    if have_ < want then
      emit (.fetch r ((x.own + have_) % n) (want - have_)) (s.modRing r fun x => { x with fetching := x.fetching + (want - have_) })
    else s

/-- A doorbell (R294, R295): the index stands in bits [15:0]. -/
def doorbell (r : Nat) (v : W32) (s : State) : State :=
  let s := s.modRing r fun x => { x with bell := v.toNat }
  let i := fld v 15 0
  if !ringOn s r then s
  else if ringSize s r ≤ i then ringHalt r 1 i 0 s
  else
    let s := s.modRing r fun x => { x with peer := i }
    if r < 8 then fetchMore r s else s

/-- DESCRIPTOR_FETCH_DONE (R296): what the fetch under way delivers, in ring order, up to the first failed access. -/
def fetchDone (r : Nat) : List Fetched → State → State
  | [], s => s
  | f :: l, s =>
    if (s.ring r).fetching = 0 then s
    else match f with
    | .ok bytes buf ok =>
      fetchDone r l (s.modRing r fun x => { x with
        fetching := x.fetching - 1, fetched := x.fetched ++ [(s.clk.frame + 1, descOf bytes buf ok)] })
    | .bad addr => ringHalt r 2 (((s.ring r).own + (s.ring r).fetched.length) % ringSize s r) addr s

/-! ## Taking descriptors (R298, R299) -/

/-- Entries a descriptor reserves in its completion ring (R301). -/
def needs (d : Desc) : Nat := if d.early then 2 else 1

/-- An earlier-accepted command has not posted its final completion (R298, R299). -/
def openCommands (s : State) : Bool :=
  (s.hst.live.any fun l => l.d.opcode ≠ 0x81) || s.hst.ready.any fun c => c.final && c.seq ≠ 0

/-- The completion ring of command ring r has room for n more reservations (R301). -/
def cqRoom (s : State) (r n : Nat) : Bool :=
  ringOn s (8 + r) && !(s.ring (8 + r)).halt && n + (s.ring (8 + r)).resv ≤ ringRoom s (8 + r)

/-- The descriptor T0.1 can take from ring r now (R296, R299). -/
def takeable (s : State) (r : Nat) : Option Desc :=
  if !ringOn s r || (s.ring r).halt then none
  else match (s.ring r).fetched with
    | [] => none
    | (f, d) :: _ =>
      if frameLe f s.clk.frame && !(d.fence && openCommands s) && cqRoom s r (needs d) then some d else none

/-- The entry of an accepted command (R299, R312, R315). -/
def acceptEntry (d : Desc) (src ring : Nat) (s : State) : State :=
  jAppend { opcode := d.opcode, form := d.expert, src := src, ring := ring, persist := persistent d, status := stPending
            tag := if src = 0 then d.tag else 0, digest := digest d } s

/-- A command of the stack master or a host descriptor is accepted: it waits for order 6 (R299, R306). -/
def acceptCmd (d : Desc) (src ring head : Nat) (s : State) : State :=
  let l : Live := { seq := s.nextSeq, ring := ring, crHead := head, relayed := src ≠ 0, d := d }
  let s := acceptEntry d src ring s
  { s with hst := { s.hst with decided := s.hst.decided ++ [l], live := s.hst.live ++ [l] } }

/-- The completion of a rejected descriptor: SEQ 0, final at once (R299, R300). -/
def rejection (d : Desc) (r head status : Nat) (s : State) : Compl :=
  { tag := d.tag, opcode := d.opcode, status := status, crHead := head, ring := r, frame := s.clk.frame, noirq := d.noirq
    readyAt := s.clk.frame, extra := if d.early then 1 else 0 }

/-- One descriptor is taken from ring r: the head advances, and it is rejected or accepted (R299). -/
def takeOne (r : Nat) (d : Desc) (s : State) : State :=
  let head := ((s.ring r).own + 1) % ringSize s r
  let s := s.modRing r fun x => { x with own := head, fetched := x.fetched.drop 1 }
  let s := s.modRing (8 + r) fun x => { x with resv := x.resv + needs d }
  let s := { s with hst := { s.hst with rr := (r + 1) % 8 } }
  let s := match rejects s d with
    | some st =>
      let c := rejection d r head st s
      { s with hst := { s.hst with ready := s.hst.ready ++ [c] } }.modRing r fun x => { x with count := sat 0xFFFF (x.count + 1) }
    | none => acceptCmd d 0 r head s
  fetchMore r s

/-- The next ring in turn with a descriptor to take (R299). -/
def nextRing (s : State) : Option (Nat × Desc) :=
  (List.range 8).findSome? fun k =>
    let r := (s.hst.rr + k) % 8
    (takeable s r).map fun d => (r, d)

/-- T0.1 takes up to n descriptors; answers how many it accepted. -/
def takeDescs : Nat → State → Nat × State
  | 0, s => (0, s)
  | n + 1, s =>
    match nextRing s with
    | none => (0, s)
    | some (r, d) =>
      let ok := (rejects s d).isNone
      let x := takeDescs n (takeOne r d s)
      (x.1 + b2n ok, x.2)

/-- In the frame a firmware handover leads into, the rings take and post nothing (R427). -/
def ringsQuiet (s : State) : Bool := s.fw.hover = s.clk.frame && s.clk.frame ≠ 0

/-- T0.1 (R299): three a frame, less the internal entries of the frame (R315). -/
def ringService (s : State) : Nat × State := if ringsQuiet s then (0, s) else takeDescs (3 - s.jrn.slots) s

/-! ## Posting (R300, R301, R308, R309) -/

/-- A completion entry (R300). -/
def complBits (c : Compl) : BitVec 256 :=
  BitVec.ofNat 256 (put c.seq 0 64 + put c.tag 64 16 + put c.opcode 80 8 + put c.status 88 8 + put c.crHead 96 16 +
    put c.ring 112 3 + put (b2n c.final) 115 1 + put c.frame.toNat 128 48 + put c.result 192 64)

/-- An event entry (R308). -/
def eventBits (o : Occ) : BitVec 256 :=
  BitVec.ofNat 256 (put o.ts.frame.toNat 0 48 + put o.ts.frac.toNat 48 8 + put o.src 56 8 + put o.sev 64 2 +
    put (b2n (decide (1 < o.count))) 66 1 + put (min 0xFFFF o.count) 80 16 + put o.detail.toNat 128 128)

/-- A persistent command's final entry is in the mirror (R316); a pair's is acknowledged by its shadow (R349). -/
def settledEntry (s : State) (c : Compl) : Bool :=
  !c.final || c.seq = 0 ||
    ((!c.persist || s.jrn.mirror.any fun e => e.seq = c.seq) &&
      !(s.pair.role = 1 && s.pair.up && s.pair.unacked.any fun u => u.1 = c.seq))

/-- The completion can be posted now. -/
def postable (s : State) (c : Compl) : Bool :=
  frameLe c.readyAt s.clk.frame && ringLive s (8 + c.ring) && 0 < ringRoom s (8 + c.ring) && settledEntry s c

/-- Order of posting: the frame of readiness, then SEQ (R301). -/
def complBefore (a b : Compl) : Bool :=
  frameBefore a.readyAt b.readyAt || (a.readyAt == b.readyAt && a.seq < b.seq)

/-- The completion to post next. -/
def nextCompl (s : State) : Option Compl :=
  (s.hst.ready.filter (postable s)).foldl (fun b c => match b with
    | some x => if complBefore c x then some c else some x
    | none => some c) none

/-- A completion leaves the staging, with what it reserves (R301). -/
def dropCompl (c : Compl) (s : State) : State :=
  { s with hst := { s.hst with ready := s.hst.ready.erase c } }.modRing (8 + c.ring) fun x => { x with resv := x.resv - (1 + c.extra) }

/-- A ring entry is written, or its write fails and it is discarded (R296). -/
def writeEntryTo (failed : List Nat) (r : Nat) (vec : Option Nat) (v : BitVec 256) (s : State) : State :=
  if failed.contains r then ringHalt r 3 (s.ring r).own (ringBase s r + 32 * (s.ring r).own) s else ringPut r vec v s

/-- Posts one completion. -/
def postCompl (failed : List Nat) (c : Compl) (s : State) : State :=
  writeEntryTo failed (8 + c.ring) (if c.noirq then none else some c.ring) (complBits c) (dropCompl c s)

/-- Posts completions up to n; answers how many. -/
def postCompls (failed : List Nat) : Nat → State → Nat × State
  | 0, s => (0, s)
  | n + 1, s =>
    match nextCompl s with
    | none => (0, s)
    | some c => let x := postCompls failed n (postCompl failed c s); (x.1 + 1, x.2)

/-- An occurrence absorbed into the held one of its source (R309). -/
def absorb (o : Occ) (l : List Occ) : List Occ :=
  l.map fun h => if h.src = o.src then { h with count := h.count + o.count } else h

/-- An occurrence is held against its source (R309). -/
def holdOcc (o : Occ) (s : State) : State :=
  if s.evt.held.any fun h => h.src = o.src then
    { s with evt := { s.evt with held := absorb o s.evt.held } }.modRing 16 fun x => { x with count := sat 0xFFFF (x.count + o.count) }
  else { s with evt := { s.evt with held := s.evt.held ++ [o] } }

/-- Order of event entries: severity, highest first, time-stamp, source (R309, R471). -/
def occBefore (a b : Occ) : Bool :=
  b.sev < a.sev || (a.sev = b.sev && (!tsLe b.ts a.ts || (tsLe a.ts b.ts && a.src < b.src)))

def occInsert (o : Occ) : List Occ → List Occ
  | [] => [o]
  | x :: l => if occBefore o x then o :: x :: l else x :: occInsert o l

/-- Occurrences of earlier frames go behind what is held of their source; the others can be posted one by one (R309,
R471). -/
def freshDue (s : State) : List Occ := s.evt.fresh.filter fun o => frameBefore o.ts.frame s.clk.frame

/-- The entries the event ring could carry now, in order, and the state in which the rest of `fresh` waits. -/
def eventList (s : State) : List Occ × State :=
  let due := freshDue s
  let s := { s with evt := { s.evt with fresh := s.evt.fresh.filter fun o => !frameBefore o.ts.frame s.clk.frame } }
  let behind := due.filter fun o => s.evt.held.any fun h => h.src = o.src
  let s := each behind holdOcc s
  let single := due.filter fun o => !(s.evt.held.any fun h => h.src = o.src)
  ((single ++ s.evt.held).foldl (fun l o => occInsert o l) [], { s with evt := { s.evt with held := [] } })

/-- Posts event entries in order up to n; answers how many and those left. -/
def postEvents (failed : List Nat) : Nat → List Occ → State → Nat × List Occ × State
  | 0, l, s => (0, l, s)
  | _, [], s => (0, [], s)
  | n + 1, o :: l, s =>
    if !ringLive s 16 || ringRoom s 16 = 0 then (0, o :: l, s)
    else
      let v := if o.sev = 3 then 10 else if o.sev = 2 then 9 else 8
      let x := postEvents failed n l (writeEntryTo failed 16 (some v) (eventBits o) s)
      (x.1 + 1, x.2.1, x.2.2)

/-- T0.2 (R301, R309): severity 3, completions, other events, four entries in all; what is left is held. Answers how many
were posted. -/
def postAll (failed : List Nat) (s : State) : Nat × State :=
  if ringsQuiet s then (0, s)
  else
    let e := eventList s
    let a := postEvents failed 4 (e.1.filter fun o => o.sev = 3) e.2
    let b := postCompls failed (4 - a.1) a.2.2
    let c := postEvents failed (4 - a.1 - b.1) (e.1.filter fun o => o.sev ≠ 3) b.2
    let s := each (a.2.1 ++ c.2.1) holdOcc c.2.2
    (a.1 + b.1 + c.1, { s with hst := { s.hst with wbFail := s.hst.wbFail || failed.contains 18 } })

/-! ## Writeback and vectors at the end of a frame (R297, R311) -/

/-- The block's words but for its frame field, in order of bits: index fields, JOURNAL_HEAD, flags (R297). -/
def wbWords (s : State) : List Nat :=
  (List.range 10).map (fun k => (s.ring (8 + k)).own) ++ (List.range 8).map (fun k => (s.ring k).own) ++
    [s.jrn.head, ((List.range 8).map fun k => put (b2n ((s.ring k).halt || (s.ring (8 + k)).halt)) k 1).foldl (· + ·) 0,
     b2n !s.evt.held.isEmpty, b2n s.hst.trFull]

/-- The 512 bits of the block as 32-bit words (R297). -/
def wbBlock (s : State) : List Nat :=
  let w := wbWords s
  let v := (((w.take 18).zipIdx).map fun p => put p.1 (16 * p.2) 16).foldl (· + ·) 0 + put (w.getD 18 0) 288 64 +
    put s.clk.frame.toNat 352 48 + put (w.getD 19 0) 400 8 + put (w.getD 20 0) 408 1 + put (w.getD 21 0) 409 1
  (List.range 16).map fun k => nbits v (32 * k + 31) (32 * k)

/-- Rings whose index in the block changed: CQ0-CQ7, ER, TR, then CR0-CR7. -/
def wbRings (old new : List Nat) : List Nat :=
  (List.range 18).filterMap fun k => if old.getD k 0 ≠ new.getD k 0 then some (if k < 10 then 8 + k else k - 10) else none

/-- WRITEBACK (R296, R297): once in a frame in which a field changed. -/
def writeback (s : State) : State :=
  let w := wbWords s
  if !s.cb 0x1000 0 || !s.hst.bme || !s.hst.linkUp || s.hst.wb = some w then { s with hst := { s.hst with wbFail := false } }
  else if s.hst.wbFail then
    let a := (s.cw 0x1008).toNat + (s.cw 0x100C).toNat * 2 ^ 32
    each (wbRings (s.hst.wb.getD []) w) (fun r s => ringHalt r 3 (s.ring r).own a s) { s with hst := { s.hst with wbFail := false } }
  else emit (.writeback (wbBlock s)) { s with hst := { s.hst with wb := some w } }

/-- MOD of the ring that vector v, 0-11, serves. -/
def vecMod (s : State) (v : Nat) : Nat :=
  s.cf (ringReg (if v < 8 then 8 + v else if v < 11 then 16 else 17) + 8) 12 5

/-- A ring vector owed a signal is signalled and moderated (R311). -/
def vecSignal (v : Nat) (s : State) : State :=
  if tget false s.hst.modPend v then
    signalVec v { s with hst := { s.hst with
      modPend := tset false s.hst.modPend v false, modLeft := tset 0 s.hst.modLeft v (vecMod s v) } }
  else s

/-- The messages of a frame follow its writeback: direct vectors, then ring vectors that are not moderated (R297, R311). -/
def frameMessages (s : State) : State :=
  let d := s.hst.dvec
  let s := each d signalVec { s with hst := { s.hst with dvec := [] } }
  each (List.range 12) (fun v s =>
    if tget 0 s.hst.modLeft v = 0 then vecSignal v s
    else { s with hst := { s.hst with modLeft := tset 0 s.hst.modLeft v (tget 0 s.hst.modLeft v - 1) } }) s

/-- What the host interface does at the end of a frame. -/
def hostFrameEnd (s : State) : State :=
  let s := frameMessages (writeback s)
  let s := each (freshDue s) holdOcc { s with evt := { s.evt with fresh := s.evt.fresh.filter fun o => !frameBefore o.ts.frame s.clk.frame } }
  { s with hst := { s.hst with trFull := false, fresetNow := false } }

/-- Completions that became ready with the frame now begun, behind `old`, are discarded where their ring is disabled
(R301). -/
def readyDrop (old : Frame) (s : State) : State :=
  each (s.hst.ready.filter fun c => frameLe c.readyAt s.clk.frame && !frameLe c.readyAt old && !ringOn s (8 + c.ring))
    (fun c s => (dropCompl c s).modRing (8 + c.ring) fun x => { x with count := sat 0xFFFF (x.count + 1) }) s

/-- BUS_MASTER_ENABLE (R291): once it is 1, pending messages go out and fetches resume. -/
def masterEnable (on : Bool) (s : State) : State :=
  each (List.range 8) fetchMore (releasePba { s with hst := { s.hst with bme := on } })

/-- MSIX_MODERATION_EXPIRY (R311). -/
def modExpiry (v : Nat) (s : State) : State := vecSignal v { s with hst := { s.hst with modLeft := tset 0 s.hst.modLeft v 0 } }

def execCrDoorbell (ring : Nat) (v : W32) (s : State) := Next (if ring < 8 then doorbell ring v s else s)
def execCqDoorbell (ring : Nat) (v : W32) (s : State) := Next (if ring < 8 then doorbell (8 + ring) v s else s)
def execErDoorbell (v : W32) (s : State) := Next (doorbell 16 v s)
def execTrDoorbell (v : W32) (s : State) := Next (doorbell 17 v s)
def execDescriptorFetchDone (ring : Nat) (d : List Fetched) (s : State) := Next (if ring < 8 then fetchDone ring d s else s)
def execRingService (cyc : Nat) (s : State) :=
  Next (taskRun 0 0 (ringService s).1 cyc (fun s => (ringService s).2) s)
def execCompletionPosting (cyc : Nat) (failed : List Nat) (s : State) :=
  Next (taskRun 0 1 (postAll failed s).1 cyc (fun s => (postAll failed s).2) s)
def execMsixModerationExpiry (vec : Nat) (s : State) := Next (if vec < 12 then modExpiry vec s else s)
def execBusMasterEnable (on : Bool) (s : State) := Next (masterEnable on s)

end Sys2Proof.Machine
end

