-- ==== Sys2Proof/Machine/HostCmds.lean ====
section
/-! DEFINITION. Machine/HostCmds.lean: the host commands (R302 to R307 and the rules their rows name): the effect of each
at order 6 of the boundary after its acceptance, and the BAR0 actions that stand for one of them. -/

namespace Sys2Proof.Machine

/-! ## Power and sequencing -/

/-- Every group's COUNT returns to 0 (R150). -/
def clearCounts (s : State) : State := each (List.range 16) (fun n s => s.modGrp n fun g => { g with count := 0 }) s

/-- POWER_ON (R95, R118, R150, R155, R156). -/
def cmdPowerOn (l : Live) (s : State) : State :=
  if joining s then park l.seq .domainUp { s with pwr := { s.pwr with heldOn := true } }
  else
    let r := onRequest s
    if r.1 = 2 then finish l.seq stAlready 0 s
    else
      let s := clearCounts (park l.seq .domainUp r.2)
      { s with flt := { s.flt with restarts := 0, restartExh := false, restartLeft := none } }

/-- POWER_OFF (R96, R127, R150, R156). -/
def cmdPowerOff (l : Live) (s : State) : State :=
  let s := clearCounts { s with flt := { s.flt with restartLeft := none } }
  if s.seq.domain = .off then finish l.seq stAlready 0 (cancelRestarts true [] s)
  else toMembers (fun m => .offRun m true 0) (park l.seq .offRun (offRequest 0 true 0 s))

/-- GROUP_OFF (R96, R127, R150). -/
def cmdGroupOff (l : Live) (s : State) : State :=
  let g := l.d.arg 15 0
  if s.seq.domain = .off then finish l.seq stAlready 0 (cancelRestarts false (offScope s false g) s)
  else toMembers (fun m => .offRun m false g) (park l.seq (.groupRun g) (offRequest 0 false g s))

/-- PROG_LAUNCH (R105). -/
def cmdProgLaunch (l : Live) (s : State) : State :=
  let n := l.d.arg 5 0
  if !s.progValid n then finish l.seq stBadArg 0 s
  else if (s.prog n).state = 1 then finish l.seq stAlready 0 s
  else progLaunch n (park l.seq (.prog n) s)

/-- The outcome of an abort of every program, REFUSED where it finds only an off run to stop (R116, R121, R122, log 90). -/
def abortEach (s : State) : Nat × State :=
  let r := abortAll s
  (if r.1 = stNotRunning && s.off.run then stRefused else r.1, r.2)

/-- PROG_ABORT (R116, R121, R122). -/
def cmdProgAbort (l : Live) (s : State) : State :=
  let r := if l.d.args.getLsbD 6 then abortEach s else abortProg (l.d.arg 5 0) s
  finish l.seq r.1 0 r.2

/-! ## Programs in the on-table (R17, R97, R131) -/

/-- The step words of an ENABLE, a WAIT_PG and a MARGIN_SET of a rail profile (R102, R103, R131). -/
def enWord (g : Nat) (p : Config.RailProfile) (chain : Bool) : Nat :=
  put 2 58 6 + put g 48 10 + put p.prio 44 4 + put (b2n chain) 43 1 + put p.deadline 31 12 + put p.inrush 19 12 + put p.steady 5 14

def waitWord (g : Nat) (p : Config.RailProfile) : Nat := put 3 58 6 + put g 48 10 + put p.minGood 32 16

/-- A margin of `step` tenths of a per cent of the profile's nominal voltage in direction DIR: the MARGIN_SET entry with
its EXT (R84, R86, R88, R90, R103, R305). The code is the nearest to the change asked for; none where it exceeds 127. -/
def marginWords (s : State) (g dir step tol : Nat) (verify onfail : Bool) (meth : Option Bool) (p : Config.RailProfile) :
    Option (Nat × Nat) :=
  let sgn : Int := if dir = 1 then -1 else if dir = 2 then 1 else 0
  let mv1000 : Int := (p.nominal : Int) * (1000 + sgn * step)
  let pmb := meth.getD p.mdac.isNone
  let code := match p.mdac with
    | some (_, r) => if dir = 0 then 0 else (rdiv ((step * p.nominal * 16 : Nat) : Int) (orDef (25 * r) 1)).toNat
    | none => 0
  let vt := if dir = 0 then 0 else linVout (rdiv mv1000 1000) (sext 5 (s.rail (g % 96)).voutExp)
  if !pmb && (p.mdac.isNone || 127 < code) then none
  else
    let w := put 6 58 6 + put g 48 10 + put (b2n pmb) 47 1 + put dir 45 2 + put (b2n verify) 44 1 + put (b2n onfail) 43 1 +
      (if pmb then put vt 15 16 else put (p.mdac.elim 0 (·.1)) 39 4 + put code 31 8)
    let x := put 0x3F 58 6 + put (rdiv (4 * mv1000) 1000).toNat 42 16 + put tol 32 10 + put p.settle 16 16
    some (w, if verify then x else 0)

/-- A list of options, all present. -/
def allSome {α : Type} : List (Option α) → Option (List α)
  | [] => some []
  | none :: _ => none
  | some a :: l => (allSome l).map (a :: ·)

/-- The rail records of a basic PROG_LOAD: GRAIL and profile (R305). -/
def railRecords (d : Desc) : Option (List (Nat × Config.RailProfile)) :=
  allSome (d.words32.map fun w =>
    if nbits w 15 10 ≠ 0 ∨ nbits w 31 24 ≠ 0 then none else (Config.railProfile (nbits w 23 16)).map fun p => (nbits w 9 0, p))

/-- The records in ascending order of GRAIL, each rail once (R131 "rail mask"). -/
def byGrail (l : List (Nat × Config.RailProfile)) : List (Nat × Config.RailProfile) :=
  ((List.range 768).filterMap fun g => l.find? fun p => p.1 = g)

/-- The three margins of a rail under MARGIN_CHECK (R131). -/
def checkRail (s : State) (step tol : Nat) (r : Nat × Config.RailProfile) : Option (List Nat) :=
  let m (dir : Nat) (v : Bool) := (marginWords s r.1 dir step tol v true none r.2).map fun w => if v then [w.1, w.2] else [w.1]
  (allSome [m 1 true, m 2 true, m 0 false]).map List.flatten

/-- The expansion of a template (R131, R305). -/
def expand (s : State) (t p0 p1 : Nat) (d : Desc) : Option (List Nat) :=
  if t = 2 then
    if d.len ≠ 0 ∨ 2 ^ 21 ≤ p0 ∨ 2 ^ 24 ≤ p1 then none
    else some [put 8 58 6 + put (nbits p0 1 0) 56 2 + put (nbits p0 17 2) 40 16 + put (nbits p1 11 0) 28 12 + put 1 27 1 +
      put (nbits p1 23 12) 15 12 + put (nbits p0 20 18) 11 3, 0]
  else match railRecords d with
  | none => none
  | some l =>
    if t = 0 then
      let m := byGrail l
      let good := (m.map fun r => r.2.minGood).foldl max 0
      if 16 ≤ p0 ∨ p1 ≠ 0 ∨ m.isEmpty then none
      else some ((m.zipIdx.map fun r => enWord r.1.1 r.1.2 (r.2 + 1 < m.length)) ++ [put 9 58 6 + put p0 53 4 + put good 37 16, 0])
    else if t = 1 then
      if p0 ≠ 0 ∨ p1 ≠ 0 then none else some ((l.flatMap fun r => [enWord r.1 r.2 false, waitWord r.1 r.2]) ++ [0])
    else
      if 1024 ≤ p0 ∨ 1024 ≤ p1 then none
      else (allSome ((byGrail l).map (checkRail s p0 p1))).map fun w => w.flatten ++ [0]

/-- Entries that hold steps, with the EXT of each margin that has one (R101 to R103). -/
def stepsOk (s : State) : List Nat → Bool
  | [] => true
  | [w] => stepOk s w && !hasExt w
  | w :: e :: l => if hasExt w then stepOk s w && extOk e && stepsOk s l else stepOk s w && stepsOk s (e :: l)

/-- The entries a PROG_LOAD writes; none where its content is of the BAD_STEP class or an argument is out of range. -/
def loadEntries (s : State) (d : Desc) : Option (List Nat) :=
  let l := if d.expert then some (d.words64.take (d.len / 8)) else expand s (d.arg 117 116) (d.arg 159 128) (d.arg 191 160) d
  match l with
  | none => none
  | some l => if 768 ≤ d.arg 114 102 && d.arg 114 102 + l.length ≤ 8192 && stepsOk s l then some l else none

/-- Entries that may follow entry i of a program. -/
def stepNext (s : State) (i : Nat) : List Nat :=
  let w := s.entryAt i
  if opOf w = 0 ∨ opOf w = 0x0C then []
  else if opOf w = 0x0A ∨ opOf w = 0x0B then [nbits w 57 45, i + 1]
  else [i + 1 + b2n (hasExt w)]

/-- Entries that can be reached from a list, an EXT with its step. -/
def reach (s : State) : Nat → List Nat → List Nat → List Nat
  | 0, _, seen => seen
  | _, [], seen => seen
  | f + 1, i :: t, seen =>
    if i < 768 ∨ 8191 < i ∨ seen.contains i then reach s f t seen
    else reach s f (stepNext s i ++ t) ((if hasExt (s.entryAt i) then [i, i + 1] else [i]) ++ seen)

/-- Entries of the programs in flight: all that a running program can reach from its START (R17, log 28). -/
def flying (s : State) : List Nat := reach s 24576 (s.running.map fun n => s.cf (0x4100 + 4 * n) 12 0) []

/-- The 256-bit words that hold the entries of a list. -/
def tableWords (e : List (Nat × Nat)) : List Nat := (e.map (·.1 / 4)).dedup

/-- The entries of a list fill word w. -/
def wholeWord (e : List (Nat × Nat)) (w : Nat) : Bool := [0, 1, 2, 3].all fun k => e.any (·.1 = 4 * w + k)

/-- One word of the on-table mirror takes the entries of an edit: a whole word is written unread, part of one by a
read-modify-write (R17, R28). -/
def mirrorWord (e : List (Nat × Nat)) (w : Nat) (s : State) : State :=
  let put (s : State) : State := { s with seq := { s.seq with
    mirror := (e.filter (·.1 / 4 = w)).foldl (fun t p => tset 0 t p.1 p.2) s.seq.mirror
    dirty := if s.seq.dirty.contains w then s.seq.dirty else s.seq.dirty ++ [w] } }
  if wholeWord e w then put (wcWritten 0x10 (mirrorBase + w) s) else partWrite s.tsB 0 0x10 (mirrorBase + w) put s

/-- The mirror word reverts to the on-table's content (R17). -/
def revertWord (w : Nat) (s : State) : State :=
  wcWritten 0x10 (mirrorBase + w) { s with seq := { s.seq with
    mirror := [0, 1, 2, 3].foldl (fun t k => tset 0 t (4 * w + k) (s.entryAt (4 * w + k))) s.seq.mirror
    dirty := s.seq.dirty.filter (· ≠ w) } }

/-- CE0 edits the mirror and `l` waits for the commit; where a word cannot be read for its part write, the edit is taken back
and the command fails (R17, R28, log 85). -/
def editMirror (l : Live) (w : Wait) (e : List (Nat × Nat)) (s : State) : State :=
  let bad := (tableWords e).filter fun a => !wholeWord e a && !s.wordOk 0x10 (mirrorBase + a)
  let s := each (tableWords e) (mirrorWord e) s
  if bad.isEmpty then park l.seq w s
  else finish l.seq stFailed 0 (each ((tableWords e).filter fun a => !bad.contains a) revertWord s)

/-- The entries of a PROG_LOAD with their indices. -/
def loadEdit (s : State) (d : Desc) : Option (List (Nat × Nat)) :=
  (loadEntries s d).map fun l => l.zipIdx.map fun p => (d.arg 114 102 + p.2, p.1)

/-- PROG_LOAD (R17, R131, R305): the mirror is written; the commit of the next boundary ends the command. -/
def cmdProgLoad (l : Live) (s : State) : State :=
  match loadEdit s l.d with
  | none => finish l.seq stBadArg 0 s
  | some e => editMirror l (.progLoad (l.d.arg 101 96)) e s

/-- The sequencer copies words of the mirror into the on-table (R17). -/
def commitWords (l : List Nat) (s : State) : State := each l (fun w s => wcWritten 0x11 w (fromMirror w s)) s

/-- The commit of one PROG_LOAD at order 5, or its refusal while an entry it edits, or its program, is in flight (R17). -/
def commitLoad (l : Live) (s : State) : State :=
  let n := l.d.arg 101 96
  let e := (loadEdit s l.d).getD []
  let fly := flying s
  if (s.prog n).state = 1 || e.any fun p => fly.contains p.1 then
    finish l.seq stInFlight 0 (each (tableWords e) revertWord s)
  else
    let s := commitWords (tableWords e) s
    let s := if !l.d.expert || l.d.args.getLsbD 116 then
        s.setReg (0x4100 + 4 * n) (BitVec.ofNat 32 (put (l.d.arg 114 102) 0 13 + put 1 13 1 + put (l.d.arg 115 115) 14 1))
      else s
    finish l.seq stOk 0 s

/-- A graph slot word for local rail r that R97 allows. -/
def slotOkFor (s : State) (r w : Nat) : Bool :=
  w = 0 || (rcUsed (s.rcfg r) && opOf w = 1 && nbits w 57 32 = 0 && condOk s (nbits w 31 0))

/-- The slots a GRAPH_LOAD writes: entry and word; none where an argument is out of range. -/
def graphWrites (s : State) (d : Desc) : Option (List (Nat × Nat)) :=
  if d.expert then
    let l := d.words64.take (d.len / 8)
    if d.arg 105 96 + l.length ≤ 768 then some (l.zipIdx.map fun p => (d.arg 105 96 + p.2, p.1)) else none
  else
    (allSome ((d.words64.take (d.len / 8)).map fun w => if 96 ≤ nbits w 6 0 ∨ 2 ^ 33 ≤ w then none else some w)).map fun l =>
      (l.foldl (fun (p : List (Nat × Nat) × Tbl Nat) w =>
        let r := nbits w 6 0
        let v := put 1 58 6 + put 1 28 4 + put (nbits w 16 7) 17 10 + nbits w 32 17
        -- a rail without an empty slot leaves the record at entry 768, which R97 refuses
        let i := ((List.range 8).find? fun k => tget 0 p.2 (8 * r + k) = 0).elim 768 fun k => 8 * r + k
        (p.1 ++ [(i, v)], tset 0 p.2 i v)) ([], s.seq.mirror)).1

/-- The local rails whose slots a GRAPH_LOAD names. -/
def graphRails (d : Desc) : List Nat :=
  let l := d.words64.take (d.len / 8)
  (if d.expert then (List.range l.length).map fun k => (d.arg 105 96 + k) / 8 else l.map fun w => nbits w 6 0).dedup

/-- A rail may have its graph slots written: OFF or UNUSED, and no pending ENABLE (R305). -/
def graphFree (s : State) (r : Nat) : Bool :=
  !railClosed s r && !(s.running.any fun n => (s.prog n).items.any fun it => opOf it.w = 2 && nbits it.w 57 48 = s.grail r)

/-- GRAPH_LOAD (R17, R97, R305): the slots are written in the mirror at the effect boundary, and the sequencer copies them at
the next. -/
def cmdGraphLoad (l : Live) (s : State) : State :=
  match graphWrites s l.d with
  | none => finish l.seq stBadArg 0 s
  | some w =>
    if w.any fun p => 768 ≤ p.1 || !slotOkFor s (p.1 / 8) p.2 then finish l.seq stGraph 0 s
    else if w.any fun p => !graphFree s (p.1 / 8) then finish l.seq stInFlight 0 s
    else editMirror l .graphLoad w s

/-- The commit of a GRAPH_LOAD at order 5, or its refusal where a rail has gone into flight since (R17, R305). -/
def commitGraph (l : Live) (s : State) : State :=
  let r := graphRails l.d
  let w := r.flatMap fun i => [2 * i, 2 * i + 1]
  if r.any fun i => !graphFree s i then finish l.seq stInFlight 0 (each w revertWord s)
  else finish l.seq stOk 0 (commitWords w s)

/-- ON_TABLE_COMMIT at order 5 (R17, R44), in the order of the commands. -/
def commitLoads (s : State) : State :=
  each s.hst.live (fun l s => match l.wait with
    | .progLoad _ => commitLoad l s
    | .graphLoad => commitGraph l s
    | _ => s) { s with seq := { s.seq with dirty := [] } }

/-- FLAGS_SET (R135, R305): CLEAR, then SET. -/
def cmdFlagsSet (l : Live) (s : State) : State :=
  let clr := BitVec.ofNat 32 (l.d.arg 63 32)
  let set := BitVec.ofNat 32 (l.d.arg 31 0)
  finish l.seq stOk 0 { s with seq := { s.seq with flags := (s.seq.flags &&& ~~~clr) ||| set } }

/-! ## Retries, margins, faults -/

/-- RETRY_CANCEL (R148). A rail of another member is answered by the record relayed to it. -/
def cmdRetryCancel (l : Live) (s : State) : State :=
  let g := l.d.arg 9 0
  if l.d.args.getLsbD 10 then
    let p := railList.filter fun i => (s.rail i).retryPend
    if p.isEmpty then finish l.seq (if s.role = 1 then stOk else stNotRunning) 0 s else finish l.seq stOk 0 (each p cancelRetry s)
  else if !s.grailOk g then finish l.seq stBadArg 0 s
  else if g / 96 ≠ s.index then finish l.seq stOk 0 s
  else if (s.rail (g % 96)).retryPend then finish l.seq stOk 0 (cancelRetry (g % 96) s)
  else finish l.seq stNotRunning 0 s

/-- The entry and EXT of a MARGIN command; none where an argument is out of range (R103, R305). -/
def marginArgs (s : State) (d : Desc) : Option (Nat × Nat) :=
  if d.expert then
    let w := d.arg 63 0
    let x := d.arg 127 64
    if opOf w = 6 && stepOk s w && (if hasExt w then extOk x else x = 0) then some (w, x) else none
  else
    let g := d.arg 9 0
    if d.arg 11 10 = 3 || !s.grailOk g then none
    else match (Config.profileOf g).bind Config.railProfile with
    | none => none
    | some p => marginWords s g (d.arg 11 10) (d.arg 23 14) (d.arg 33 24) (d.args.getLsbD 12) false (some (d.args.getLsbD 13)) p

/-- MARGIN (R89, R103, R110, R305): a candidate from its effect boundary on. -/
def cmdMargin (l : Live) (s : State) : State :=
  match marginArgs s l.d with
  | none => finish l.seq stBadArg 0 s
  | some (w, x) =>
    let g := nbits w 57 48
    if (s.railView g).1 ≠ 3 then finish l.seq stRefused 0 s
    else park l.seq (.margin g) { s with seq := { s.seq with
      margins := s.seq.margins ++ [marginOf (.cmd l.seq) w x { since := s.clk.frame }] } }

/-- FF_CLEAR (R159). -/
def cmdFfClear (l : Live) (s : State) : State := finish l.seq stOk 0 (ffClearNow s)

/-- SYSRST_RELEASE (R153). -/
def cmdSysrst (l : Live) (s : State) : State :=
  if s.flt.sysrst then finish l.seq stOk 0 (sysrstOff s) else finish l.seq stNotRunning 0 s

/-! ## Stages and the damper -/

/-- SLEW of a STAGE_START (R305). -/
def startSlew (d : Desc) : Option Nat := if d.expert then some (d.arg 33 22) else (Config.stageProfile (d.arg 29 22)).map (· % 4096)

/-- STAGE_START (R111, R178, R305): a candidate from its effect boundary on. -/
def cmdStageStart (l : Live) (s : State) : State :=
  let m := l.d.arg 4 2
  let w := l.d.args.getLsbD 21
  match startSlew l.d with
  | none => finish l.seq stBadArg 0 s
  | some sl =>
    if !s.memberOk m then finish l.seq stBadArg 0 s
    else park l.seq (.stage (l.d.arg 1 0) w) { s with seq := { s.seq with
      starts := s.seq.starts ++ [{ member := m, stage := l.d.arg 1 0, vset := l.d.arg 20 5, slew := sl, wait := w, seq := l.seq
                                   cand := { since := s.clk.frame } }] } }

/-- STAGE_STOP (R266). -/
def cmdStageStop (l : Live) (s : State) : State :=
  let st := l.d.arg 1 0
  if !s.memberOk (l.d.arg 4 2) then finish l.seq stBadArg 0 s
  else if l.d.arg 4 2 ≠ s.index then finish l.seq stOk 0 s
  else if (s.stg st).st.running then finish l.seq stOk 0 (stageStopNow st s)
  else finish l.seq stAlready 0 s

/-- STAGE_CLEAR (R255, R275, R305). -/
def cmdStageClear (l : Live) (s : State) : State :=
  let st := l.d.arg 1 0
  if !s.memberOk (l.d.arg 4 2) then finish l.seq stBadArg 0 s
  else if l.d.arg 4 2 ≠ s.index then finish l.seq stOk 0 s
  else if (s.stg st).st = .safeOff || (s.stg st).st = .off then finish l.seq stOk 0 (stageClearNow st s)
  else finish l.seq stRefused 0 s

/-- A register word in force with its field [hi:lo] changed. -/
def withFld (v hi lo : Nat) (w : Nat) : Nat := w - put (nbits w hi lo) lo (hi + 1 - lo) + put v lo (hi + 1 - lo)

/-- BUCK_PID1 and BUCK_PID2 (R281): the plant's phases, PERIOD and VIN_NOM, the PID form with its biquads and feed-forward, and
the coefficients of the design. What fills the buffer behind the last argument is ignored (R298, log 10). -/
def buckWrites (t st : Nat) (v : List Nat) (s : State) : Option (List (Nat × Nat)) :=
  let k := 0x8000 + 0x80 * st
  match v with
  | ph :: period :: _ :: _ :: _ :: vin :: _ =>
    if 9 + 2 * t ≤ v.length ∧ within 1 8 ph ∧ within 4267 32000 period ∧ vin ≤ 409549 then
      (Config.loopDesign t (v.take (9 + 2 * t))).map fun c =>
        [(k, withFld (ph - 1) 3 1 (withFld (1 + t) 6 4 (withFld 3 8 7 (s.cw k).toNat))),
          (k + 4, withFld period 15 0 (s.cw (k + 4)).toNat),
          (k + 8, withFld (rdiv vin 100).toNat 27 16 (s.cw (k + 8)).toNat)] ++
        (c.take 28).zipIdx.map fun p => (0x8200 + 0x80 * st + 4 * p.2, p.1)
    else none
  | _ => none

/-- PROT_STD (R281): FULL and the hiccup time as given, OC_N 8, HIC_LIMIT 3, UV_FR 16, BIAS 1, and MIN_PH two less than the
phases, at least 1. -/
def protWrites (st : Nat) (v : List Nat) (s : State) : Option (List (Nat × Nat)) :=
  let k := 0x8000 + 0x80 * st
  let c := Config.protCodes st (s.nph st) (v.take 4)
  match v with
  | full :: _ :: _ :: hic :: _ =>
    if full ≤ 65535 ∧ within 1 65535 hic then
      some [(k, withFld 1 9 9 (withFld (max 1 (s.nph st - 2)) 15 12 (s.cw k).toNat)),
        (k + 0x10, put c.2.1 0 12 + put c.2.2 12 12 + put 16 24 8),
        (k + 0x14, withFld c.1 7 0 (withFld 8 25 18 (s.cw (k + 0x14)).toNat)),
        (k + 0x18, put hic 0 16 + put 3 16 8),
        (k + 0x1C, withFld full 15 0 (s.cw (k + 0x1C)).toNat)]
    else none
  | _ => none

/-- The register writes of a LOOP_SETUP: offset and value; none where an argument is out of range (R281). -/
def loopWrites (d : Desc) (s : State) : Option (List (Nat × Nat)) :=
  let v := d.words32.take (d.len / 4)
  if d.expert then
    allSome ((d.words64.take (d.len / 8)).map fun w => if nbits w 31 16 = 0 then some (nbits w 15 0, nbits w 63 32) else none)
  else if d.arg 100 99 = 3 then none
  else if d.arg 100 99 = 2 then protWrites (d.arg 98 97) v s
  else buckWrites (d.arg 100 99) (d.arg 98 97) v s

/-- An offset is one of the stage's own registers (R283). -/
def loopOffset (st o : Nat) : Bool :=
  o % 4 = 0 && (within (0x8000 + 0x80 * st) (0x807C + 0x80 * st) o || within (0x8200 + 0x80 * st) (0x827C + 0x80 * st) o ||
    within (0x8400 + 0x40 * st) (0x843C + 0x40 * st) o)

/-- One write of a LOOP_SETUP: the RWS bits of a register (R8). -/
def loopWrite (p : Nat × Nat) (s : State) : State :=
  let m := rwsMask p.1
  let v := BitVec.ofNat 32 p.2
  { s with bar0 := tset 0 s.bar0 p.1 (merge m (s.bw p.1) v), cfg := tset 0 s.cfg p.1 (merge m (s.cw p.1) v) }

/-- LOOP_SETUP (R263, R281, R283). -/
def cmdLoopSetup (l : Live) (s : State) : State :=
  let st := l.d.arg 98 97
  match loopWrites l.d s with
  | none => finish l.seq stBadArg 0 s
  | some w =>
    if w.any fun p => !loopOffset st p.1 then finish l.seq stBadArg 0 s
    else if w.any fun p => match stageSetup p.1 with | some st => stageClosed s st | none => false then finish l.seq stRefused 0 s
    else
      let s := each w loopWrite s
      finish l.seq stOk 0 (if l.d.expert && l.d.args.getLsbD 96 then commitCoef st s else s)

/-- CAP_SET (R184, R187, R305): final at the judgement. -/
def cmdCapSet (l : Live) (s : State) : State :=
  let a := l.d.arg 15 0
  if !l.d.expert && 6553 < a then finish l.seq stBadArg 0 s
  else
    let cap := if l.d.expert then a else 10 * a
    let batt := if l.d.expert && l.d.args.getLsbD 32 then l.d.arg 31 16 else s.cf 0x6104 31 16
    park l.seq .cap (s.setReg 0x6104 (BitVec.ofNat 32 (put cap 0 16 + put batt 16 16)))

/-! ## The converter array -/

/-- CONV_START (R213): an unpowered core, or one without entries of TRIG 2, has no conversion to wait for. -/
def cmdConvStart (l : Live) (s : State) : State :=
  let c := l.d.arg 1 0
  if s.seqBusy c 2 then finish l.seq stBusy 0 s
  else
    let t := startSeq c 2 (8 * s.now) s
    if t.seqBusy c 2 then park l.seq (.convSeq c) t else finish l.seq stOk 0 t

/-- CONV_URGENT (R224 to R226): it fires at the boundary. -/
def cmdConvUrgent (l : Live) (s : State) : State :=
  let c := l.d.arg 1 0
  let k := l.d.arg 3 2
  let r := fireUrgent c k 0 s
  if r.1 then park l.seq (.urgent (4 * c + k)) r.2 else finish l.seq stBusy 0 r.2

/-- The channels of a CONV_CAL (R305); none for a preset that does not exist. -/
def calChans (d : Desc) : Option (List Nat) :=
  if d.expert then some ((List.range (d.arg 39 35 + 1)).map fun i => d.arg (47 + 8 * i) (40 + 8 * i)) else Config.calPreset (d.arg 38 35)

/-- A channel that a running stage's loop uses, or the INL_BUS entry's (R237). -/
def calInUse (s : State) (ch : Nat) : Bool :=
  ([0, 1, 2, 3].any fun st => (s.stg st).st.running &&
    (ch = 128 + 2 * st || ch = 129 + 2 * st || within (96 + 8 * st) (96 + 8 * st + s.nph st - 1) ch ||
      (s.cb (sbase st + 8) 8 && ch = entChan (s.ent (s.sfld st 8 1 0) (s.sfld st 8 7 2))))) ||
  (s.busUsed && ch = entChan (s.ent (s.cf 0x6400 1 0) (s.cf 0x6400 7 2)))

/-- The status that refuses the start of a phase, with its RESULT code in CNV_CALSTAT (R237). -/
def calStartFail (s : State) (full : Bool) (ch : List Nat) : Option (Nat × Nat) :=
  if s.cnv.calState = 1 || s.cnv.calState = 3 then some (stBusy, 9)
  else if ch.any (calInUse s) then some (stInUse, 6)
  else if ch.any fun c => (calEntry s c).isNone then some (stNoEntry, 7)
  else if full && !(match s.cnv.cal with | some r => s.cnv.calState = 2 && r.chans = ch && !r.stale | none => false) then
    some (stStale, 8)
  else none

/-- CONV_CAL (R237, R377): the averaging of a phase begins. -/
def cmdConvCal (l : Live) (s : State) : State :=
  let full := l.d.args.getLsbD 0
  let e := sext 32 (l.d.arg 34 3)
  match calChans l.d with
  | none => finish l.seq stBadArg 0 s
  | some ch =>
    -- external channels only, each once (R237)
    if l.d.arg 2 1 = 3 || ch.any (fun c => 152 ≤ c) || ch.length ≠ ch.dedup.length || ch.isEmpty then finish l.seq stBadArg 0 s
    else if full && s.nv.nvwp then finish l.seq stNvwp 0 (nvwpRefuse l.seq 0x22 s)
    else match calStartFail s full ch with
    | some f =>
      finish l.seq f.1 0 (raise 0x7A s.tsB (detC 0 0 0 (ch.headD 0) false false 0 f.2 0 0)
        { s with cnv := { s.cnv with calResult := f.2 } })
    | none =>
      let n := 16 * 4 ^ l.d.arg 2 1
      let old : CalRun := s.cnv.cal.getD {}
      let run : CalRun := if full then { old with n := n, e1 := e, acc := [], seq := l.seq } else { chans := ch, n := n, e0 := e, seq := l.seq }
      park l.seq .cal { s with cnv := { s.cnv with cal := some run, calState := if full then 3 else 1, calDone := 0 } }

/-! ## Generations (R51, R377, R380 to R384) -/

/-- A write of an image or state record is in progress, or an activation waits for its boundary. -/
def genBusy (s : State) : Bool :=
  s.nv.at_.isSome || s.nv.jobs.any fun j => match j.use with | .image _ => true | .genState _ => true | _ => false

/-- NVWP# refuses a command (R377). -/
def nvwpEnd (l : Live) (s : State) : State := finish l.seq stNvwp 0 (nvwpRefuse l.seq l.d.opcode s)

/-- An image becomes the pending generation for a command (R382). -/
def pendImage (im : Image) (l : Live) (s : State) : State :=
  let s := writeImage im 0 { s with nv := { s.nv with images := tset none s.nv.images im.gen (some im) } }
  changeGen { s.nv.gen with pend := im.gen } l.seq im.gen (park l.seq (.config im.gen) s)

/-- CONFIG_LOAD (R380, R382, R430). -/
def cmdConfigLoad (l : Live) (s : State) : State :=
  if s.nv.nvwp then nvwpEnd l s
  else if genBusy s then finish l.seq stBusy 0 s
  else match parseImage (l.d.buf.take l.d.len) with
  | none => finish l.seq stBadArg 0 s
  | some im =>
    if im.gen ≤ s.nv.gen.cur then finish l.seq stGeneration 0 s
    else if im.format < s.fw.run.cfgMin then
      pendImage { im with format := s.fw.run.cfgMin } l (fwEvent 0xE6 0 0 s.fw.run.version 5 0 0 s)
    else pendImage im l s

/-- An activation or revert now, or at the boundary into a later frame (R51). -/
def activateWhen (l : Live) (n p at_ : Nat) (rev : Bool) (s : State) : State :=
  if genBusy s then finish l.seq stBusy 0 s
  else if at_ ≠ 0 && frameBefore (BitVec.ofNat 48 at_) s.clk.frame then finish l.seq stPastFrame 0 s
  else
    let s := park l.seq (.config n) { s with nv := { s.nv with at_ := some (BitVec.ofNat 48 at_, n, p, l.seq, rev) } }
    if at_ = 0 || BitVec.ofNat 48 at_ = s.clk.frame then activateAt s else s

/-- CONFIG_ACTIVATE (R51, R120, R382, R383). -/
def cmdConfigActivate (l : Live) (s : State) : State :=
  let n := l.d.arg 31 0
  if s.nv.nvwp then nvwpEnd l s
  else if n ≠ 0 && n = s.nv.gen.cur then finish l.seq stAlready 0 s
  else if n = 0 || (n ≠ s.nv.gen.pend && n ≠ s.nv.gen.prev) then finish l.seq stGeneration 0 s
  else match s.image n with
  | none => finish l.seq stGeneration 0 s
  | some im =>
    let p := if l.d.expert then l.d.arg 91 80 else im.probation
    if 3600 < p then finish l.seq stBadArg 0 s else activateWhen l n p (if l.d.expert then l.d.arg 79 32 else 0) false s

/-- CONFIG_REVERT (R51, R382). -/
def cmdConfigRevert (l : Live) (s : State) : State :=
  if s.nv.nvwp then nvwpEnd l s
  else if s.nv.gen.prev = 0 then finish l.seq stNotRunning 0 s
  else activateWhen l s.nv.gen.prev 0 (if l.d.expert then l.d.arg 79 32 else 0) true s

/-- CONFIG_CAPTURE (R382, R305). -/
def cmdConfigCapture (l : Live) (s : State) : State :=
  if s.nv.nvwp then nvwpEnd l s
  else if genBusy s then finish l.seq stBusy 0 s
  else pendImage (captureImage (max s.nv.gen.cur (max s.nv.gen.prev s.nv.gen.pend) + 1) s) l s

/-- CONFIG_CONFIRM (R383). -/
def cmdConfigConfirm (l : Live) (s : State) : State :=
  if s.nv.prob.isSome then confirmGen l.seq (park l.seq (.config s.nv.gen.cur) s) else finish l.seq stNotRunning 0 s

/-! ## Reads (R307, R317, R401) -/

/-- A buffer is written whole, and the command ends; a failed write ends it with DMA_ERROR (R302). -/
def bufferEnd (l : Live) (bytes : List Byte) (res : Nat) (s : State) : State :=
  if l.d.dmaOk then finish l.seq stOk res (emit (.buffer l.d.addr bytes) s) else finish l.seq stDma 0 s

/-- What JOURNAL_READ writes for a SEQ, and whether it is GONE (R317). -/
def journalAt (s : State) (q : Nat) : JEntry × Bool :=
  let lost := !s.wordOk 0x12 (q % 4096)
  match (if lost then none else s.jEntry q) with
  | some e => (e, false)
  | none =>
    match (mirrorHeld s).find? fun e => e.seq = q with
    | some e => (e, false)
    | none => if lost then ({ seq := q, status := stCorrupt }, false) else ({ seq := q, status := stGone }, true)

/-- JOURNAL_READ (R317). -/
def cmdJournalRead (l : Live) (s : State) : State :=
  let n := l.d.arg 172 160
  if !within 1 4096 n || l.d.len < 32 * n then finish l.seq stBadArg 0 s
  else
    let qs := (List.range n).map fun k => (l.d.arg 159 96 + k) % 2 ^ 64
    let e := qs.map (journalAt s)
    let s := each qs (fun q s => (readWord s.tsB 0x12 (q % 4096) s).2) s
    let bad := (e.filter fun x => x.1.status = stCorrupt).length
    let s := { s with jrn := { s.jrn with corrupt := sat 0xFFFF (s.jrn.corrupt + bad) } }
    bufferEnd l (e.flatMap fun x => leBytes 32 x.1.bits) (e.filter (·.2)).length s

/-- An admission-log entry's 256 bits (R183). -/
def alogBits (e : ALog) : Nat :=
  put e.frame.toNat 0 48 + put e.order 48 16 + put e.jseq 64 64 + put e.inrush 128 16 + put e.power 144 16 + put e.thermal 160 16 +
    put e.id 176 10 + put e.kind 186 3 + put e.result 189 2 + put e.prio 191 4 + put e.cInrush 195 12 + put e.cSteady 207 14 +
    put e.cThermal 221 16

/-- The admission-log entry of a number, where it is held (R183, R305). -/
def alogAt (s : State) (e : Nat) : Option ALog :=
  let k := (s.drt.head + 2 ^ 32 - e % 2 ^ 32) % 2 ^ 32
  if within 1 1024 k then s.drt.log[k - 1]? else none

/-- ALOG_READ (R305). -/
def cmdAlogRead (l : Live) (s : State) : State :=
  let n := l.d.arg 138 128
  if !within 1 1024 n || l.d.len < 32 * n then finish l.seq stBadArg 0 s
  else
    let e := (List.range n).map fun k => alogAt s (l.d.arg 127 96 + k)
    bufferEnd l (e.flatMap fun x => leBytes 32 (x.elim 0 alogBits)) (e.filter Option.isSome).length s

/-- COUNTERS_READ (R162, R305). -/
def cmdCountersRead (l : Live) (s : State) : State :=
  let a := l.d.arg 102 96
  let n := l.d.arg 109 103
  if !within 1 96 n || 96 < a + n || l.d.len < 32 * n then finish l.seq stBadArg 0 s
  else bufferEnd l ((List.range n).flatMap fun k => (countersOf s (a + k)).flatMap (leBytes 4) ++ leBytes 8 (a + k)) 0 s

/-- STATE_READ (R307). -/
def cmdStateRead (l : Live) (s : State) : State :=
  if l.d.len < 1088 then finish l.seq stBadArg 0 s else bufferEnd l ((stateWords s).flatMap (leBytes 4)) 0 s

/-- REC_READ (R401). -/
def cmdRecRead (l : Live) (s : State) : State :=
  let n := l.d.arg 143 128
  if !within 1 4096 n || l.d.len < 256 * n then finish l.seq stBadArg 0 s
  else
    let e := (List.range n).map fun k => recordAt s (l.d.arg 127 96 + k)
    bufferEnd l (e.flatMap fun x => x.getD (List.replicate 256 0)) (e.filter Option.isSome).length s

/-! ## The recorder (R402 to R408) -/

/-- REC_FREEZE and its thaw (R402, R409). -/
def cmdRecFreeze (l : Live) (s : State) : State :=
  if l.d.args.getLsbD 0 then
    (if s.recd.clearing.isSome then finish l.seq stBusy 0 s else if s.recd.frozen then finish l.seq stAlready 0 s else finish l.seq stOk 0 (freeze s))
  else if s.recd.frozen then finish l.seq stOk 0 (thaw s) else finish l.seq stNotRunning 0 s

/-- REC_CHALLENGE (R406). -/
def cmdRecChallenge (l : Live) (s : State) : State :=
  if s.recd.locked then finish l.seq stRefused 0 s
  else
    let n := Config.random 64 s.fw.draws
    finish l.seq stOk n.toNat { s with
      fw := { s.fw with draws := s.fw.draws + 1 }, recd := { s.recd with nonce := some (n, s.recd.next, 2 ^ 20) } }

/-- The MAC of a clear under a key (R407). -/
def clearMac (key : BitVec 256) (nonce next : Nat) : List Byte :=
  (hmacSha256 (leBytes 32 key.toNat) (leBytes 8 nonce ++ leBytes 8 Config.fuseId.toNat ++ leBytes 4 next)).take 16

/-- The nonce and the MAC of a REC_CLEAR hold (R406, R407). -/
def clearAllowed (s : State) (d : Desc) : Bool :=
  match s.recd.nonce, clearKey s with
  | some (n, next, _), some k => n.toNat = d.arg 63 0 && clearMac k n.toNat next = leBytes 16 (d.arg 191 64)
  | _, _ => false

/-- REC_CLEAR (R407, R408): the checks in order; the clear record is then written. -/
def cmdRecClear (l : Live) (s : State) : State :=
  if s.recd.frozen || s.recd.clearing.isSome then finish l.seq stBusy 0 s
  else if s.nv.nvwp then nvwpEnd l s
  else if 64 ≤ s.recd.clears.length then finish l.seq stRefused 0 s
  else if !clearAllowed s l.d then
    let s := { s with recd := { s.recd with
      nonce := none, fails := sat 15 (s.recd.fails + 1), locked := s.recd.locked || 8 ≤ s.recd.fails + 1 } }
    finish l.seq stAuth 0 (raise 0xCD s.tsB (detK 0 s.recd.ash 0 0) s)
  else
    let im := clearImage l.seq s
    nvWrite (.clear im) 0 0 (park l.seq (.store l.seq) { s with recd := { s.recd with
      nonce := none, fails := 0, next := s.recd.next + 1, clearing := some (l.seq, im) } })

/-! ## The tag (R378) and the pair (R350) -/

/-- Offset and length of a tag command are in range (R378). -/
def tagOk (d : Desc) : Bool := d.arg 106 96 % 32 = 0 && d.arg 106 96 + d.len ≤ 2048

/-- The tag as it reads: 0xFF where it was never written (R378). -/
def tagBytes (s : State) : List Byte := (s.nv.tag ++ List.replicate 2048 0xFF).take 2048

/-- TAG_WRITE (R377, R378). -/
def cmdTagWrite (l : Live) (s : State) : State :=
  let o := l.d.arg 106 96
  if s.nv.nvwp then nvwpEnd l s
  else if !tagOk l.d then finish l.seq stBadArg 0 s
  else
    let t := tagBytes s
    nvWrite (.tag (t.take o ++ l.d.buf.take l.d.len ++ t.drop (o + l.d.len))) l.seq 0 (park l.seq (.store l.seq) s)

/-- TAG_READ (R378). -/
def cmdTagRead (l : Live) (s : State) : State :=
  if !tagOk l.d then finish l.seq stBadArg 0 s else bufferEnd l (slice (tagBytes s) (l.d.arg 106 96) l.d.len) 0 s

/-- PAIR_HANDOVER (R350): Q is the first watch tick boundary at least 2 frames on. -/
def cmdHandover (l : Live) (s : State) : State :=
  if !(s.pair.role = 1 && s.pair.up) then finish l.seq stRefused 0 s
  else if s.pair.toQ.isSome || s.pair.toT.isSome then finish l.seq stBusy 0 s
  else park l.seq .handover { s with pair := { s.pair with toQ := some (32 * cdiv (s.now + 2) 32), hoSeq := some l.seq } }

/-! ## The effect of a command at order 6 -/

/-- Opcodes that use a host buffer (R305). -/
def usesBuf (op : Nat) : Bool := readsBuf op || within 0x30 0x33 op || op = 0x38 || op = 0x3D

/-- The command of an opcode (R305). -/
def cmdEffect (l : Live) (s : State) : State :=
  match l.d.opcode with
  | 0x01 => cmdPowerOn l s
  | 0x02 => cmdPowerOff l s
  | 0x03 => cmdGroupOff l s
  | 0x04 => cmdProgLaunch l s
  | 0x05 => cmdProgAbort l s
  | 0x06 => cmdProgLoad l s
  | 0x07 => cmdGraphLoad l s
  | 0x08 => cmdFlagsSet l s
  | 0x09 => cmdRetryCancel l s
  | 0x0A => cmdMargin l s
  | 0x0B => cmdFfClear l s
  | 0x0C => cmdSysrst l s
  | 0x10 => cmdStageStart l s
  | 0x11 => cmdStageStop l s
  | 0x12 => cmdStageClear l s
  | 0x13 => cmdLoopSetup l s
  | 0x18 => cmdCapSet l s
  | 0x20 => cmdConvStart l s
  | 0x21 => cmdConvUrgent l s
  | 0x22 => cmdConvCal l s
  | 0x28 => cmdConfigLoad l s
  | 0x29 => cmdConfigActivate l s
  | 0x2A => cmdConfigRevert l s
  | 0x2B => cmdConfigCapture l s
  | 0x2C => cmdConfigConfirm l s
  | 0x30 => cmdJournalRead l s
  | 0x31 => cmdAlogRead l s
  | 0x32 => cmdCountersRead l s
  | 0x33 => cmdStateRead l s
  | 0x38 => cmdRecRead l s
  | 0x39 => cmdRecFreeze l s
  | 0x3A => cmdRecChallenge l s
  | 0x3B => cmdRecClear l s
  | 0x3C => cmdTagWrite l s
  | 0x3D => cmdTagRead l s
  | 0x40 => cmdHandover l s
  | _ => finish l.seq stOk 0 s

/-- What a member does with a command its master relays: the records of R337 carry the decisions; the rest acts on the
member's own rails and stages (R306, log 29). -/
def memberEffect (l : Live) (s : State) : State :=
  let op := l.d.opcode
  if op = 0x09 ∨ op = 0x0C ∨ op = 0x11 ∨ op = 0x12 ∨ op = 0x18 then cmdEffect l s else finish l.seq stOk 0 s

/-- A BAR0 action at order 6 (R132, R170, R263, R315): ends with the status its opcode stands for and its offset. -/
def barEffect (l : Live) (s : State) : State :=
  let k := l.d.arg 15 0
  let o := l.d.arg 31 16
  if k = 0 then let r := abortEach s; finish l.seq r.1 o r.2
  else if k = 1 then finish l.seq stOk o (ffClearNow s)
  else if k = 2 then (if s.flt.sysrst then finish l.seq stOk o (sysrstOff s) else finish l.seq stNotRunning o s)
  else finish l.seq stOk o (commitCoef (k - 4) s)

/-- A command that took effect and is not final posts its STARTED completion (R298, R301). -/
def startedPost (q : Nat) (s : State) : State :=
  match s.liveOf q with
  | some l =>
    if l.d.early && !l.started && !l.relayed then
      { s with hst := { s.hst with
        ready := s.hst.ready ++ [complOf l stStarted 0 false 0 s]
        live := s.hst.live.map fun x => if x.seq = q then { x with started := true } else x } }
    else s
  | none => s

/-- A stack master relays the commands marked Master to its members as they take effect (R306). -/
def relayOut (d : Desc) (s : State) : State := if s.role = 1 && masterOp d.opcode then emit (.relay d) s else s

/-- A command takes effect (R44 order 6, R302, R305). -/
def applyCmd (l : Live) (s : State) : State :=
  let d := l.d
  if d.opcode = 0x81 then barEffect l s
  else if usesBuf d.opcode && !d.bufOk then finish l.seq stBadArg 0 s
  else if readsBuf d.opcode && !d.dmaOk then finish l.seq stDma 0 s
  else startedPost l.seq (relayOut d (if l.relayed then memberEffect l s else cmdEffect l s))

/-- The commands of the frame just ended take effect in SEQ order (R44 order 6, R299). -/
def applyDecided (s : State) : State :=
  let l := s.hst.decided
  each l applyCmd { s with hst := { s.hst with decided := [] } }

/-! ## The command rows -/

/-- `f` at the boundary that ends the present frame, into which the next one leads (R51). -/
def atBoundary (f : State → State) (s : State) : State :=
  let t := f { s with clk := { s.clk with frame := s.clk.frame + 1 } }
  { t with clk := { t.clk with frame := s.clk.frame } }

/-- A descriptor of opcode `op` on ring r is taken, rejected or accepted, and takes effect at the boundary that ends the
frame (R51, R299, R305; log 8). Behind three journalled in the frame it waits in the ring (R50). -/
def hostRow (op r : Nat) (d : Desc) (s : State) : State :=
  if 8 ≤ r then s
  else
    let d := { d with opcode := op }
    if 3 ≤ s.jrn.slots then s.modRing r fun x => { x with fetched := x.fetched ++ [(s.clk.frame + 1, d)] }
    else
    let s := s.modRing (8 + r) fun x => { x with resv := x.resv + needs d }
    let head := (s.ring r).own
    match rejects s d with
    | some st =>
      let c := rejection d r head st s
      { s with hst := { s.hst with ready := s.hst.ready ++ [c] } }.modRing r fun x => { x with count := sat 0xFFFF (x.count + 1) }
    | none =>
      let l : Live := { seq := s.nextSeq, ring := r, crHead := head, d := d }
      let s := acceptEntry d 0 r s
      atBoundary (fun s => progsTell (applyCmd l s)) { s with hst := { s.hst with live := s.hst.live ++ [l] } }

/-- The descriptor with ARGS bit 0 as the row fixes it. -/
def bit0 (b : Bool) (d : Desc) : Desc := { d with args := if b then d.args ||| 1 else d.args &&& ~~~(1 : BitVec 448) }

def execNop (ring : Nat) (d : Desc) (s : State) := Next (hostRow 0x00 ring d s)
def execPowerOn (ring : Nat) (d : Desc) (s : State) := Next (hostRow 0x01 ring d s)
def execPowerOff (ring : Nat) (d : Desc) (s : State) := Next (hostRow 0x02 ring d s)
def execGroupOff (ring : Nat) (d : Desc) (s : State) := Next (hostRow 0x03 ring d s)
def execProgLaunch (ring : Nat) (d : Desc) (s : State) := Next (hostRow 0x04 ring d s)
def execProgAbort (ring : Nat) (d : Desc) (s : State) := Next (hostRow 0x05 ring d s)
def execProgLoad (ring : Nat) (d : Desc) (s : State) := Next (hostRow 0x06 ring d s)
def execGraphLoad (ring : Nat) (d : Desc) (s : State) := Next (hostRow 0x07 ring d s)
def execFlagsSet (ring : Nat) (d : Desc) (s : State) := Next (hostRow 0x08 ring d s)
def execRetryCancel (ring : Nat) (d : Desc) (s : State) := Next (hostRow 0x09 ring d s)
def execMargin (ring : Nat) (d : Desc) (s : State) := Next (hostRow 0x0A ring d s)
def execFfClear (ring : Nat) (d : Desc) (s : State) := Next (hostRow 0x0B ring d s)
def execSysrstRelease (ring : Nat) (d : Desc) (s : State) := Next (hostRow 0x0C ring d s)
def execStageStart (ring : Nat) (d : Desc) (s : State) := Next (hostRow 0x10 ring d s)
def execStageStop (ring : Nat) (d : Desc) (s : State) := Next (hostRow 0x11 ring d s)
def execStageClear (ring : Nat) (d : Desc) (s : State) := Next (hostRow 0x12 ring d s)
def execLoopSetup (ring : Nat) (d : Desc) (s : State) := Next (hostRow 0x13 ring d s)
def execCapSet (ring : Nat) (d : Desc) (s : State) := Next (hostRow 0x18 ring d s)
def execConvStart (ring : Nat) (d : Desc) (s : State) := Next (hostRow 0x20 ring d s)
def execConvUrgent (ring : Nat) (d : Desc) (s : State) := Next (hostRow 0x21 ring d s)
def execConvCalZero (ring : Nat) (d : Desc) (s : State) := Next (hostRow 0x22 ring (bit0 false d) s)
def execConvCalFull (ring : Nat) (d : Desc) (s : State) := Next (hostRow 0x22 ring (bit0 true d) s)
def execConfigLoad (ring : Nat) (d : Desc) (s : State) := Next (hostRow 0x28 ring d s)
def execConfigActivate (ring : Nat) (d : Desc) (s : State) := Next (hostRow 0x29 ring d s)
def execConfigRevert (ring : Nat) (d : Desc) (s : State) := Next (hostRow 0x2A ring d s)
def execConfigCapture (ring : Nat) (d : Desc) (s : State) := Next (hostRow 0x2B ring d s)
def execConfigConfirm (ring : Nat) (d : Desc) (s : State) := Next (hostRow 0x2C ring d s)
def execJournalRead (ring : Nat) (d : Desc) (s : State) := Next (hostRow 0x30 ring d s)
def execAlogRead (ring : Nat) (d : Desc) (s : State) := Next (hostRow 0x31 ring d s)
def execCountersRead (ring : Nat) (d : Desc) (s : State) := Next (hostRow 0x32 ring d s)
def execStateRead (ring : Nat) (d : Desc) (s : State) := Next (hostRow 0x33 ring d s)
def execRecRead (ring : Nat) (d : Desc) (s : State) := Next (hostRow 0x38 ring d s)
def execRecFreeze (ring : Nat) (d : Desc) (s : State) := Next (hostRow 0x39 ring (bit0 true d) s)
def execRecThaw (ring : Nat) (d : Desc) (s : State) := Next (hostRow 0x39 ring (bit0 false d) s)
def execRecChallenge (ring : Nat) (d : Desc) (s : State) := Next (hostRow 0x3A ring d s)
def execRecClear (ring : Nat) (d : Desc) (s : State) := Next (hostRow 0x3B ring d s)
def execTagWrite (ring : Nat) (d : Desc) (s : State) := Next (hostRow 0x3C ring d s)
def execTagRead (ring : Nat) (d : Desc) (s : State) := Next (hostRow 0x3D ring d s)
def execPairHandover (ring : Nat) (d : Desc) (s : State) := Next (hostRow 0x40 ring d s)

end Sys2Proof.Machine
end

