-- ==== Sys2Proof/Machine/LinkCmds.lean ====
section
/-! DEFINITION. Machine/LinkCmds.lean: the rows of the Scaca link: ports, frames received, losses and timers of rows,
stacks and pairs (R321 to R352, R432, R459, R460). -/

namespace Sys2Proof.Machine

open Sys2Proof (LFrame SyncIn)

/-- PORT_UP (R326) with the firmware of the two halves of a pair (R432). -/
def portUpNow (p peer role rtt delay : Nat) (sameRow active : Bool) (fw : Nat) (s : State) : State :=
  let was := (s.port p).st
  let s := portUp p peer role rtt delay sameRow active (fw = 0) s
  if was = 3 && (s.port p).st = 4 && s.portGroup p = 3 then
    if fw = 1 then fwExpiry s
    else if fw = 2 then fwEvent 0xEA 0 0 s.fw.run.version 0 0 0 s
    else s
  else s

/-- Row traffic a stack member relays: demand, floor, INLOSS + 2 READY, level + 8 DOMAIN (R324, R342). -/
def relayRow (f : LFrame) (r : Nat × Nat × Nat × Nat) (s : State) : State :=
  if s.sca.isMaster then
    s.modRnode f.src fun n => { n with
      demand := r.1 % 65536, floor := r.2.1 % 65536, valid := true, inloss := r.2.2.1.testBit 0, ready := r.2.2.1.testBit 1
      level := r.2.2.2 % 8, domain := r.2.2.2 / 8 % 8 }
  else if s.sca.member && s.role = 1 then
    sendOn s.rowPorts { kind := 13, src := f.src, dst := some s.sca.master, seq := f.seq
                        payload := BitVec.ofNat 256 (put r.1 0 16 + put r.2.1 16 16 + put r.2.2.1 32 2 + put r.2.2.2 34 6) } s
  else s

/-- A stack member's FAULT or EVENT contents at its master: unchanged on to the row, or taken where this part is the row's
master (R324, R342). -/
def relayKind (f : LFrame) (kind : Nat) (s : State) : State :=
  if s.role ≠ 1 || (kind ≠ 12 && kind ≠ 14) then s
  else
    let v := payload f
    let s := if kind = 12 then
        rowFirst { ts := { frame := BitVec.ofNat 48 (nbits v 47 0), frac := BitVec.ofNat 8 (nbits v 55 48) }, node := nbits v 67 56
                   grail := nbits v 77 68, kind := nbits v 80 78, unaligned := !v.testBit 81 } s
      else if s.sca.isMaster then
        raiseSev 0xAB (nbits v 9 8) s.tsB (detW f.src (nbits v 7 0) (nbits v 9 8) (BitVec.ofNat 128 (nbits v 143 16))) s
      else s
    if s.sca.member && (kind = 12 || !s.sca.isMaster) then
      sendOn s.rowPorts { kind := kind, src := f.src, dst := if kind = 12 then none else some s.sca.master, seq := f.seq
                          payload := BitVec.ofNat 256 v } s
    else s

/-- RELAY_FRAME (R306, R324): a host command of the stack master is accepted under SRC 3; row traffic goes on towards the
row. -/
def relayNow (f : LFrame) (cmd : Option Desc) (row : Option (Nat × Nat × Nat × Nat)) (kind : Nat) (s : State) : State :=
  receive f (fun s =>
    if s.portGroup f.port ≠ 2 then s
    else
      let s := match cmd with
        | some d => if s.role = 2 then acceptCmd d 3 0 0 s else s
        | none => s
      match row with
      | some r => relayRow f r s
      | none => relayKind f kind s) s

/-- CLASS_SYNC_TIMEOUT (R127). -/
def classSyncNow (s : State) : State :=
  if s.off.sync.isSome then syncExpire { s with off := { s.off with sync := some 0 } } else s

def execPortSeek (port : Nat) (s : State) := Next (if port < 4 then portSeek port s else s)
def execPortLock (port : Nat) (inverted : Bool) (s : State) := Next (if port < 4 then portLock port inverted s else s)
def execPortIdent (port : Nat) (s : State) := Next (if port < 4 then portIdent port s else s)
def execPortUp (port peer role rtt delay : Nat) (sameRow active : Bool) (fw : Nat) (s : State) :=
  Next (if port < 4 then portUpNow port peer role rtt delay sameRow active fw s else s)
def execPortRetrain (port : Nat) (s : State) := Next (if port < 4 then portRetrain port s else s)
def execSyncFrame (x : SyncIn) (s : State) := Next (syncFrame x s)
def execElectFrame (f : LFrame) (s : State) := Next (electFrame f s)
def execElectionWin (row : Bool) (s : State) := Next (electionWin row s)
def execMemberFrame (f : LFrame) (s : State) := Next (memberFrame f s)
def execStatusFrame (f : LFrame) (index : Nat) (s : State) := Next (statusFrame f index s)
def execCmdFrame (f : LFrame) (s : State) := Next (cmdFrame f s)
def execStackCommandLoss (s : State) := Next (commandLoss s)
def execRelayFrame (f : LFrame) (cmd : Option Desc) (row : Option (Nat × Nat × Nat × Nat) × Nat) (s : State) :=
  Next (relayNow f cmd row.1 row.2 s)
def execStackMemberLoss (member : Nat) (s : State) := Next (memberLoss member s)
def execClassSyncTimeout (s : State) := Next (classSyncNow s)
def execStackJoinTimeout (s : State) := Next (stackJoinEnd s)
def execFrameCounterLoad (v : Frame) (s : State) :=
  Next { s with clk := { s.clk with load := some (s.clk.frame + 1, v) } }
def execRowExchange (cyc : Nat) (s : State) := Next (taskRun 2 2 0 cyc rowTask s)
def execRowstatFrame (f : LFrame) (demand floor : Nat) (inloss ready : Bool) (level domain : Nat) (s : State) :=
  Next (rowstatFrame f demand floor inloss ready level domain s)
def execCapFrame (f : LFrame) (cap : Nat) (s : State) := Next (capFrame f cap s)
def execFaultFrame (f : LFrame) (ts : Ts) (node grail kind : Nat) (aligned : Bool) (s : State) :=
  Next (faultFrame f ts node grail kind aligned s)
def execFaultBroadcast (s : State) := Next (faultBroadcast s)
def execEventFrame (f : LFrame) (o : Occ) (s : State) := Next (eventFrame f o s)
/-- Telemetry is forwarded round the row; a node takes each copy once (R339, R342). -/
def execTelemFrame (f : LFrame) (s : State) := Next (receive f (once 15 f id) s)
def execRowMasterLoss (s : State) := Next (rowMasterLoss s)
def execRowCapHoldExpiry (s : State) := Next (rowHoldEnd s)
def execPairEnFrame (f : LFrame) (s : State) := Next (pairEnFrame f s)
def execPairLinkLoss (s : State) := Next (linkLoss s)
def execPairHeartbeatTakeover (s : State) := Next (heartbeatLoss s)
def execXrstOutRelease (s : State) := Next (xrstOff s)
def execShadowReset (s : State) := Next (shadowReset s)
def execJournalFrame (f : LFrame) (s : State) := Next (journalFrame f s)
def execJackFrame (f : LFrame) (seq : Nat) (s : State) := Next (jackFrame f seq s)
def execJournalResend (s : State) := Next (journalResend s)
def execMirrorFrame (f : LFrame) (tick k n : Nat) (items : List SnapItem) (s : State) := Next (mirrorFrame f tick k n items s)
def execHandoverQuietPoint (s : State) := Next (quietPoint s)
def execHandoverTakeover (s : State) := Next (handover s)
def execPairAlone (s : State) := Next (pairAlone s)

end Sys2Proof.Machine
end

