-- ==== Sys2Proof/Machine/Boundary.lean ====
section
/-! DEFINITION. Machine/Boundary.lean: the frame boundary (R39, R44): its nine ordered actions, and what the part does
at a boundary while it is not in operation (R195, R442 to R457). -/

namespace Sys2Proof.Machine

open Sys2Proof (BoundaryIn)

/-! ## The end of a frame and order 1 -/

/-- The frame of a part in operation ends: its stored words, its transfers, its engines, its host interface (R25, R27, R60,
R297, R428). -/
def frameEnd (b : BoundaryIn) (s : State) : State :=
  hostFrameEnd (each (List.range 8) engineEnd (xferEnd (wordFrame b s)))

/-- The end of a frame, by where the part stands; in ember mode nothing is scrubbed (R29). -/
def endFrame (b : BoundaryIn) (s : State) : State :=
  match s.pwr.phase with
  | .run => frameEnd b s
  | .rom | .start | .waitA | .recovery => wordFrame b s
  | .ember => each b.upsets upset s
  | _ => s

/-- Bits that hardware sets from here on belong to the frame that begins (R10). -/
def clearNow (s : State) : State :=
  let s := each ((s.rails.filter fun p => p.2.setNow ≠ 0).map (·.1)) (fun i s => s.modRail i fun r => { r with setNow := 0 }) s
  let s := each ((s.mdacs.filter fun p => p.2.setNow).map (·.1)) (fun k s => s.modMdac k fun m => { m with setNow := false }) s
  let s := each [0, 1, 2, 3] (fun st s => s.modStg st fun x => { x with setNow := 0 }) s
  let s := each [0, 1] (fun p s => s.modRefm p fun x => { x with faultNow := false }) s
  let s := each [0, 1, 2, 3] (fun c s => s.modCore c fun k => { k with leaveNow := 0 }) s
  { s with evt := { s.evt with setNow := 0 }, dmp := { s.dmp with setNow := 0 }, recd := { s.recd with lostNow := false }, ovrNow := 0 }

/-- Order 1 (R40, R41, R55, R56, R334, R427): the frame counter, a load of it that is due, a firmware handover into this
frame, the overruns and skips of the frame that ended. -/
def order1 (s : State) : State :=
  let old := s.clk.frame
  let s := clearNow { s with clk := { s.clk with last := old, frame := old + 1 } }
  let s := match s.clk.load with
    | some (f, v) => if f = s.clk.frame then loadFrame v s else s
    | none => s
  let s := if s.fw.h = some s.clk.frame then handover_ s else s
  each (List.range 8) engineOver (readyDrop old s)

/-! ## Supplies and resets (R195, R377, R442, R447, R448) -/

/-- The comparators of R195 that trip at this boundary: the supply has been above its rising threshold (log 31). -/
def tripBits (b : BoundaryIn) (s : State) : Nat :=
  let was (k : Nat) : Bool := 0 < tget 0 s.pwr.good k
  failBits (if was 1 then b.vcore else 800) (if was 2 then b.vio18 else 1800) (if was 0 then b.vhold else 12000)

/-- Supplies, PORST# and NVWP# as sampled. -/
def powerStep (b : BoundaryIn) (s : State) : State :=
  let bits := tripBits b s
  let s := supplyStep 3 b.vdda (supplyStep 2 b.vio18 (supplyStep 1 b.vcore (supplyStep 0 b.vhold s)))
  let s := if bits ≠ 0 then powerFailure bits s.tsB s else s
  let s := if b.porst then porstSeen s else { s with pwr := { s.pwr with porst := false } }
  nvwpStep b.nvwp s

/-- XRST_IN# as sampled, and the boundaries every condition of a boot has held (R447, R448, R456). XRST_IN# acts at the
boundary after its assertion, be it released by then. -/
def xrstStep (b : BoundaryIn) (s : State) : State :=
  let held := s.pwr.xrst && s.pwr.phase = .reset
  let s := if b.xrst || (s.pwr.xrst && !held) then xrstSeen s else if held then xrstReleased s else s
  let ok := ([0, 1, 2, 3].all fun k => tget 0 s.pwr.good k = 64) && !s.pwr.porst && (s.pwr.phase = .ember || !s.pwr.xrst)
  { s with pwr := { s.pwr with ready := if ok then sat 64 (s.pwr.ready + 1) else 0 } }

/-- Domains that were powered become usable 128 frames on (R35). -/
def pendingStep (s : State) : State :=
  each s.pwr.pending (fun p s =>
    if p.2 ≤ 1 then domainOn p.1 s else { s with pwr := { s.pwr with pending := tset 0 s.pwr.pending p.1 (p.2 - 1) } }) s

/-! ## Order 2 -/

/-- One rail at order 2 (R44, R48, R65, R69 to R80). -/
def railSamples (b : BoundaryIn) (i : Nat) (s : State) : State :=
  let s := goodTicksActs i (goodTicks i (debounce i (samplePg (look 0 b.pg i) i s)))
  let s := judgeStuck i (judgeLate i (judgePg i (railTimers i s)))
  countIlim i (readback (look 0 b.en i) (b.ilim.contains i) i s)

/-- Order 2: bank supplies and windows, then every used rail; the statuses a stack and the sequencer's conditions use. -/
def order2 (b : BoundaryIn) (s : State) : State :=
  let s := each [0, 1, 2, 3] countWindows (sampleVio 1 b.viob (sampleVio 0 b.vioa s))
  stageView (ownStep (each (railList.filter fun i => (s.rail i).st ≠ .unused) (railSamples b) s))

/-! ## Order 3 -/

/-- The watchdog at a boundary in operation (R164, R166). -/
def watchdogStep (b : BoundaryIn) (s : State) : State :=
  let r := watchdogCount b.wedged (graceStep s)
  each r.1 (fun e s => if isTray s e then trayExpiry e s else stgFound (e - 4) 9 s) r.2

/-- The hardware monitors of a stage (R269 to R272). -/
def stageMonitors (b : BoundaryIn) (st : Nat) (s : State) : State :=
  let s := senseOpenStep st (look [] b.legs st) (hiccupTime st s)
  hiccupStep st (uvStep st (ovStep st (nofbStep st (frozenStep st s))))

/-- Order 3: the hard path in the rank order of R18, with the input-loss, shed and stack requests (R96, R127, R191 to R193), the
pair's losses (R347) and the stage monitors (R276). -/
def order3 (b : BoundaryIn) (s : State) : State :=
  let shut := s.runSet
  let s := sysrstStep (each railList stepEnQ s)
  let s := watchdogStep b (pairStep s)
  let s := battOff (shedTrip (shedFrame (inputStep (measurePower s))))
  let s := offStep (stackOff s)
  let s := each (b.quiet.filter fun p => p < 32) (fun p s => s.modPhase p fun x => { x with limcnt := 0 }) s
  let s := stageFaults (each [0, 1, 2, 3] (stageMonitors b) s)
  faultLogic shut s

/-! ## Orders 4 to 6 -/

/-- `launch`: a held on request was due as the boundary began; it launches at the one after the run's last (R118).
Order 4: a handover's boundaries, a held on request, steps, grants due, DOMAIN, the graph (R44, R49, R94, R99, R105, R110,
R350). -/
def order4 (launch : Bool) (s : State) : State :=
  let s := handoverStep s
  let old := s.seq.domain
  let s := if launch && s.seq.onLaunch then launchOnSet s else s
  predsStep (sysrstUp old (judgeDomain (dueGrants (memberRetries (seqStep s)))))

/-- An activation or revert whose named boundary has come (R51). -/
def dueActivation (s : State) : State :=
  match s.nv.at_ with
  | some a => if frameLe a.1 s.clk.frame then activateAt s else s
  | none => s

/-- Orders 5 and 6: on-table commits, then set-up writes and the decisions of the frame (R44, R51). -/
def order6 (s : State) : State :=
  let s := applySetups (judgeStep (commitLoads s))
  let s := bootOnRequest (applyDecided (dueActivation s))
  damperBoundary (selections (autoRevert s))

/-! ## Order 7 -/

/-- A stage at order 7: its firmware's faults, its committed outputs, the end of a hiccup, its overruns (R58, R59, R276). -/
def stageCommit (st : Nat) (s : State) : State :=
  let s := match (s.stg st).staged.bind (·.fault) with
    | some c => stageFault st c (s.modStg st fun x => { x with staged := none, drops := [] })
    | none => applyCommit st s
  overrunSafe st (hiccupEnd st s)

/-- Order 7: rail commands, stage outputs, MDAC codes, the damper level, SYSRST#, the pair's vector; programs that have ended
are reported, the stack's STATUS is formed. `shut` is the run set at the start of order 3 (R154). -/
def order7 (b : BoundaryIn) (shut : List Nat) (s : State) : State :=
  let s := reactIn shut (each [0, 1, 2, 3] (fun st s => stageCommit st (pwmPass st s)) s)
  let s := applyRx (applyCmds (sendCmds s))
  let s := each (List.range 16) mdacStep s
  let s := each (b.mdacOut.filter fun k => k < 16) mdacCompliance s
  let s := each s.seq.margins marginStep s
  let s := each rectList applyTrim (each [0, 1, 2, 3] pwmFrame s)
  let s := progsTell (capDone (applyLevel s))
  sendStatus (pairSend (sysrstDue s))

/-! ## Orders 8 and 9 -/

/-- What runs in watch ticks; counts loaded at this boundary do not count it (R145, R150, R155, R383). `s0` is the part at
the start of the boundary. -/
def tickWork (s0 s : State) : State :=
  let s := replenish (ringBound s)
  let s := each (railList.filter fun i => (s.rail i).retryPend) backoffTick s
  let s := each [0, 1, 2, 3] stageBackoffTick s
  let s := each ((List.range 16).filter fun n => (s0.grp n).left.isSome) groupTick s
  let s := if s0.flt.restartLeft.isSome then restartTick s else s
  let s := battTick (windowTick s)
  let s := each (List.range 32) watchTick { s with shr := { s.shr with left := s.shr.left - 1 } }
  let s := linkDue (linkTick s)
  let s := recBackground (recTick s)
  let s := if s0.nv.prob.isSome then probTick s else s
  let s := fwTick (counterTick s)
  let s := each [0, 1, 2, 3] (fun c s => s.modCore c fun k => { k with ovrTick := false, dropTick := false }) s
  { s with cnv := { s.cnv with lostTick := false }, evt := { s.evt with ashTick := false }, wc := { s.wc with tickRaised := [] } }

/-- Order 8 (R44, R256). -/
def order8 (s0 s : State) : State :=
  let s := each [0, 1, 2, 3] regTicks s
  if s.tickStart then tickWork s0 s else s

/-- The converter array and its references at a boundary (R205, R212, R442). -/
def convStep (b : BoundaryIn) (s : State) : State :=
  let s := each [0, 1, 2, 3] (fun c s => if (s.core c).powered then convBoundary b.clamps c s else s) s
  let s := each [0, 1] (fun p s => refStep p (b.refOut.contains p || decide (b.vdda < 1620)) s) s
  { s with cnv := { s.cnv with prev := s.cnv.now, now := [] } }

/-- The link and the lock of the host interface follow the PCIe link (R290, R293). -/
def hostLink (b : BoundaryIn) (s : State) : State :=
  if !b.link then (if s.hst.linkUp then hostReset false s else s)
  else
    let s := if s.pwr.domains.testBit 10 then { s with hst := { s.hst with linkUp := true } } else s
    lockAutoOpen s

/-- Order 9 and what the frame that begins starts with: its slots, its open-wire tests, its messages. -/
def order9 (b : BoundaryIn) (s : State) : State :=
  let s := owBegin (convStep b s)
  let s := hostLink b (linkFrame (sendEvents { s with off := { s.off with fresh := false, ended := false } }))
  applyFinals { s with jrn := { s.jrn with slots := 0 } }

/-! ## The boundary in operation -/

/-- Orders 3 to 7. -/
def decide3to7 (b : BoundaryIn) (s : State) : State := order7 b s.runSet (order6 (order4 s.seq.onLaunch (order3 b s)))

/-- Rails whose open-wire test ended with this boundary. -/
def owTested (s : State) : List Nat := railList.filter fun i => (s.rail i).owTest.isSome

/-- The counted results of the tests: those of rails whose state the boundary does not otherwise change (R75, R78, R79; log
32); `t` is the boundary without them. -/
def owResults (b : BoundaryIn) (s0 t s : State) : State :=
  each (owTested s0) (fun i s =>
    let start := ((s0.rail i).owTest).getD false
    let mv := look (look 0 b.pg i) b.pg15 i
    let level := schmitt (bit (s0.rcfg i) 5) (s0.bank (bankOf i)).vio mv start
    let s := s.modRail i fun r => { r with owTest := none }
    if (s0.rail i).st = (t.rail i).st && s.vioOk i then owCount (start ≠ level) i s else s) s

/-- The boundary of a part in operation from order 2 on (R44): order 2, the partner reset, orders 3 to 9. The watchdog reset
follows its run's completion (R166). -/
def operate (b : BoundaryIn) (s : State) : State :=
  let s := { s with drt := { s.drt with other := b.other } }
  let s2 := xrstStep b (order2 b s)
  if !s2.running! then s2
  else
  let t := decide3to7 b s2
  let t := if (owTested s).isEmpty then t else decide3to7 b (owResults b s t s2)
  if t.flt.wdtRun && !t.off.run then watchdogReset t
  else if t.pwr.phase = .run then order9 b (order8 s t)
  else t

/-! ## The boundary out of operation (R165, R437, R451, R456) -/

/-- The watchdog of a boot or of recovery mode: an expiry fails the boot (R165). -/
def bootWatch (b : BoundaryIn) (s : State) : State :=
  let r := watchdogCount b.wedged s
  if r.1.isEmpty then r.2 else bootFailure r.2

/-- A boot under way: its frames, its watchdog, A when it is due, the limit of R451. -/
def bootStep (b : BoundaryIn) (s : State) : State :=
  let s := bootWatch b { s with pwr := { s.pwr with since := s.pwr.since + 1, toA := s.pwr.toA.map (· - 1) } }
  if !booting s then s
  else
    let s0 := sampleVio 1 b.viob (sampleVio 0 b.vioa s)
    let a := s0.pwr.phase = .waitA && s0.pwr.toA = some 0
    let s := if a then bootActivation s0 else s0
    if booting s && 2 ^ 18 ≤ s.pwr.since then bootFailure s
    else if a then order9 b (order8 s0 (order7 b s.runSet s))
    else convStep b s

/-- Recovery mode: CE0's watchdog, the flue port's times, the reset of a recovery activation (R165, R437). -/
def recoveryStep (b : BoundaryIn) (s : State) : State :=
  let s := bootWatch b { s with fw := { s.fw with recReset := s.fw.recReset.map (· - 1) } }
  if s.pwr.phase ≠ .recovery then s
  else
    let s := if s.tickStart then fwTick s else s
    let s := applyFinals { s with jrn := { s.jrn with slots := 0 } }
    if s.fw.recReset = some 0 then recoveryReset s else s

/-- FRAME_BOUNDARY (R44). A part without PD0, or held by TESTEN, does nothing. -/
def frameBoundary (b : BoundaryIn) (s : State) : State :=
  if s.pwr.phase = .dead then s
  else
    let s := pendingStep (powerStep b (order1 (endFrame b s)))
    let s := if s.running! then s else xrstStep b s
    match s.pwr.phase with
    | .run => operate b s
    | .rom => bootStep b s
    | .start => bootStep b s
    | .waitA => bootStep b s
    | .recovery => recoveryStep b s
    | .ember => if s.pwr.emberDone && s.pwr.ready = 64 then emberExit s else s
    | _ => s

/-- WATCH_TICK_BOUNDARY (R39): the boundary into a frame whose number is a multiple of 32; at any other there is none. -/
def tickBoundary (b : BoundaryIn) (s : State) : State :=
  if (s.clk.frame + 1).toNat % 32 = 0 then frameBoundary b s else s

def execFrameBoundary (b : BoundaryIn) (s : State) := Next (frameBoundary b s)
def execWatchTickBoundary (b : BoundaryIn) (s : State) := Next (tickBoundary b s)

end Sys2Proof.Machine
end

