-- ==== Sys2Proof/Machine/FlashCmds.lean ====
section
/-! DEFINITION. Machine/FlashCmds.lean: what the end of a flash program or erase brings to the owner of the record
(R355, R361 to R363, R376, R382, R393, R408, R424, R429). -/

namespace Sys2Proof.Machine

/-- The record whose first copy the next codeword completes: a firmware state record (R362). -/
def fwTwinDone (s : State) : Option FwRec :=
  match pickJob s s.nv.jobs with
  | some (j, _) => if j.begun && j.left ≤ 1 && !j.twinB && !j.only then (match j.use with | .fwState r => some r | _ => none) else none
  | none => none

/-- A command's record is written with both twins (R363). -/
def jobAnswer (j : Job) (s : State) : State := if j.seq = 0 then s else finishAt 1 j.seq stOk j.res s

/-- The last copy of a write is complete. -/
def jobDone (j : Job) (s : State) : State :=
  match j.use with
  | .image _ => clearSlots s
  | .genState _ => jobAnswer j (releaseImages s)
  | .tag _ => jobAnswer j s
  | .record im => recordStored j.rseq im s
  | .clear _ => clearCommit s
  | .ember _ => if s.pwr.phase = .ember then emberWritten s else s
  | .staging n => nvWrite (.intent n (crc64 (sectorBytes s n)) false) 0 0 s
  | .intent n _ done => if done then eraseAsk (0x3FE000 / 8192) .staging s else eraseAsk n .refresh s
  | .restore n => nvWrite (.intent n (crc64 (sectorBytes s n)) true) 0 0 s
  | _ => s

/-- A recorder record written again takes a slot of its own, or is discarded (R361, R397). -/
def recordAgain (s : State) : State :=
  match s.nv.jobs with
  | { use := .record im, .. } :: l =>
    let r := placeRecord im s
    if r.1 then r.2
    else ashRise 1 { r.2 with
      nv := { r.2.nv with jobs := l }
      recd := { r.2.recd with buf := r.2.recd.buf.filter fun x => x.rnum ≠ im.rnum, flushing := r.2.recd.flushing.filter (· ≠ im.rnum) } }
  | _ => s

/-- The codeword a reset or a power failure left being programmed is done (R37, R446, R456). -/
def tailEnd (s : State) : State :=
  let s := tailDone s
  if s.pwr.phase = .ember && s.pwr.writing.isNone then { s with pwr := { s.pwr with emberDone := true } } else s

/-- A codeword of the record layer is programmed and verified: its owner learns of it. -/
def wordDone (s : State) : State :=
  let fwr := fwTwinDone s
  let r := programStep s
  let s := match r.1 with | some j => jobDone j r.2 | none => r.2
  let s := match fwr with
    | some f => fwAccepted f s
    | none => s
  if s.pwr.phase = .waitA || s.running! then armWhen s else s

/-- FLASH_PROGRAM_DONE: a codeword is programmed, and verified or not. A body packet's own codewords are answered by
DATA_PROGRAMMED where they verify (R422). -/
def programDone (ok : Bool) (s : State) : State :=
  if s.nv.tail.isSome then tailEnd s
  else if (pickJob s s.nv.jobs).isNone then (if ok then s else fwDataFail s)
  else if ok then wordDone s
  else nvBegin (recordAgain (verifyFail s))

def execFlashProgramDone (ok : Bool) (s : State) := Next (programDone ok s)
def execFlashEraseDone (s : State) := Next (eraseDone s)

end Sys2Proof.Machine
end

