-- ==== Sys2Proof/Machine/Dispatch.lean ====
section
/-! DEFINITION. Machine/Dispatch.lean: one arm per command, each a direct call of its meaning. -/

namespace Sys2Proof.Machine

def exec (i : Instr) (s : State) : Host.Outcome State Fault Refusal :=
  match i with
  | .frameBoundary b => Sys2Proof.Machine.execFrameBoundary b s
  | .watchTickBoundary b => Sys2Proof.Machine.execWatchTickBoundary b s
  | .pd0PowerUp => Sys2Proof.Machine.execPd0PowerUp s
  | .supplyGood supply => Sys2Proof.Machine.execSupplyGood supply s
  | .porstAsserted => Sys2Proof.Machine.execPorstAsserted s
  | .bootBegin b => Sys2Proof.Machine.execBootBegin b s
  | .firmwareStart upsets => Sys2Proof.Machine.execFirmwareStart upsets s
  | .domainPowerUp pd => Sys2Proof.Machine.execDomainPowerUp pd s
  | .bootActivation => Sys2Proof.Machine.execBootActivation s
  | .bootOnRequest => Sys2Proof.Machine.execBootOnRequest s
  | .bootFailure => Sys2Proof.Machine.execBootFailure s
  | .lockAutoOpen => Sys2Proof.Machine.execLockAutoOpen s
  | .powerFailure cause cyc => Sys2Proof.Machine.execPowerFailure cause cyc s
  | .emberRecorderFlush n => Sys2Proof.Machine.execEmberRecorderFlush n s
  | .emberModeExit => Sys2Proof.Machine.execEmberModeExit s
  | .xrstInAssert => Sys2Proof.Machine.execXrstInAssert s
  | .xrstInRelease => Sys2Proof.Machine.execXrstInRelease s
  | .referenceClockLost => Sys2Proof.Machine.execReferenceClockLost s
  | .referenceClockReturn => Sys2Proof.Machine.execReferenceClockReturn s
  | .nvwpChange level => Sys2Proof.Machine.execNvwpChange level s
  | .vioOkRise bank => Sys2Proof.Machine.execVioOkRise bank s
  | .vioOkFall bank => Sys2Proof.Machine.execVioOkFall bank s
  | .trgEdgeAccepted trg rising cyc => Sys2Proof.Machine.execTrgEdgeAccepted trg rising cyc s
  | .pgDebouncedGood rail => Sys2Proof.Machine.execPgDebouncedGood rail s
  | .pgLost rail => Sys2Proof.Machine.execPgLost rail s
  | .pgLate rail => Sys2Proof.Machine.execPgLate rail s
  | .enShort rail hi ilim => Sys2Proof.Machine.execEnShort rail hi ilim s
  | .enOpen rail => Sys2Proof.Machine.execEnOpen rail s
  | .assistTest rail => Sys2Proof.Machine.execAssistTest rail s
  | .assistTestResult rail ilim => Sys2Proof.Machine.execAssistTestResult rail ilim s
  | .pgOpenTest rail level => Sys2Proof.Machine.execPgOpenTest rail level s
  | .pgStuck rail => Sys2Proof.Machine.execPgStuck rail s
  | .enFoldBack rail => Sys2Proof.Machine.execEnFoldBack rail s
  | .minOffElapsed rail => Sys2Proof.Machine.execMinOffElapsed rail s
  | .marginSettleExpiry rail => Sys2Proof.Machine.execMarginSettleExpiry rail s
  | .marginVerifyDone rail => Sys2Proof.Machine.execMarginVerifyDone rail s
  | .pmbusTransactionDone master ans => Sys2Proof.Machine.execPmbusTransactionDone master ans s
  | .pmbusSclTimeout master => Sys2Proof.Machine.execPmbusSclTimeout master s
  | .pmbusWatcherPoll n => Sys2Proof.Machine.execPmbusWatcherPoll n s
  | .ledgerPass cyc => Sys2Proof.Machine.execLedgerPass cyc s
  | .commitmentEnd key => Sys2Proof.Machine.execCommitmentEnd key s
  | .delayExpiry prog => Sys2Proof.Machine.execDelayExpiry prog s
  | .stepDeadlineExpiry prog => Sys2Proof.Machine.execStepDeadlineExpiry prog s
  | .offClassLimitExpiry => Sys2Proof.Machine.execOffClassLimitExpiry s
  | .offPauseExpiry => Sys2Proof.Machine.execOffPauseExpiry s
  | .dischMet rail => Sys2Proof.Machine.execDischMet rail s
  | .offRunComplete => Sys2Proof.Machine.execOffRunComplete s
  | .heldOnRequestLaunch => Sys2Proof.Machine.execHeldOnRequestLaunch s
  | .faultPolicy cyc => Sys2Proof.Machine.execFaultPolicy cyc s
  | .backoffExpiry rail => Sys2Proof.Machine.execBackoffExpiry rail s
  | .heal rail => Sys2Proof.Machine.execHeal rail s
  | .groupRestart grp => Sys2Proof.Machine.execGroupRestart grp s
  | .restartDelayExpiry => Sys2Proof.Machine.execRestartDelayExpiry s
  | .restartWindowExpiry => Sys2Proof.Machine.execRestartWindowExpiry s
  | .sysrstReleaseDelay => Sys2Proof.Machine.execSysrstReleaseDelay s
  | .watchdogExpiry engine => Sys2Proof.Machine.execWatchdogExpiry engine s
  | .watchdogGraceExpiry => Sys2Proof.Machine.execWatchdogGraceExpiry s
  | .watchdogReset => Sys2Proof.Machine.execWatchdogReset s
  | .inputLossDeclared => Sys2Proof.Machine.execInputLossDeclared s
  | .inputRestored => Sys2Proof.Machine.execInputRestored s
  | .shedComparatorTrip => Sys2Proof.Machine.execShedComparatorTrip s
  | .batteryPoll => Sys2Proof.Machine.execBatteryPoll s
  | .batteryNotReadyOff => Sys2Proof.Machine.execBatteryNotReadyOff s
  | .damperTask cyc => Sys2Proof.Machine.execDamperTask cyc s
  | .damperCapChange cyc => Sys2Proof.Machine.execDamperCapChange cyc s
  | .damperRaise cyc => Sys2Proof.Machine.execDamperRaise cyc s
  | .damperRelax cyc => Sys2Proof.Machine.execDamperRelax cyc s
  | .damperJudgement => Sys2Proof.Machine.execDamperJudgement s
  | .sharingRound cyc => Sys2Proof.Machine.execSharingRound cyc s
  | .conversionEnd core slot r clamp => Sys2Proof.Machine.execConversionEnd core slot r clamp s
  | .sliceUnclamp core slice => Sys2Proof.Machine.execSliceUnclamp core slice s
  | .plausibilityRestore pair => Sys2Proof.Machine.execPlausibilityRestore pair s
  | .conversionDropped core entry => Sys2Proof.Machine.execConversionDropped core entry s
  | .urgentConversionStart core k => Sys2Proof.Machine.execUrgentConversionStart core k s
  | .refrdySet pair => Sys2Proof.Machine.execRefrdySet pair s
  | .referenceFaultTimeout pair => Sys2Proof.Machine.execReferenceFaultTimeout pair s
  | .refrdyFall pair => Sys2Proof.Machine.execRefrdyFall pair s
  | .calPhaseDone => Sys2Proof.Machine.execCalPhaseDone s
  | .converterPostProcessing run => Sys2Proof.Machine.execConverterPostProcessing run s
  | .telemetryPosting cyc => Sys2Proof.Machine.execTelemetryPosting cyc s
  | .emberSnapshot cyc => Sys2Proof.Machine.execEmberSnapshot cyc s
  | .sequencerService cyc => Sys2Proof.Machine.execSequencerService cyc s
  | .pmbusService cyc => Sys2Proof.Machine.execPmbusService cyc s
  | .taskOverrun engine task => Sys2Proof.Machine.execTaskOverrun engine task s
  | .stageControlTask stage cyc => Sys2Proof.Machine.execStageControlTask stage cyc s
  | .phaseDiagnosticsTask stage cyc => Sys2Proof.Machine.execPhaseDiagnosticsTask stage cyc s
  | .stageRegulated stage => Sys2Proof.Machine.execStageRegulated stage s
  | .kindlingStartTimeout stage => Sys2Proof.Machine.execKindlingStartTimeout stage s
  | .cycleLimitTrip phase consecutive => Sys2Proof.Machine.execCycleLimitTrip phase consecutive s
  | .hiccupEntry stage => Sys2Proof.Machine.execHiccupEntry stage s
  | .hiccupExpiry stage => Sys2Proof.Machine.execHiccupExpiry stage s
  | .consecHicHeal stage => Sys2Proof.Machine.execConsecHicHeal stage s
  | .senseOpen stage legs => Sys2Proof.Machine.execSenseOpen stage legs s
  | .frozen stage => Sys2Proof.Machine.execFrozen stage s
  | .nofb stage => Sys2Proof.Machine.execNofb stage s
  | .stageOv stage => Sys2Proof.Machine.execStageOv stage s
  | .stageUv stage => Sys2Proof.Machine.execStageUv stage s
  | .overrunSafeOff stage => Sys2Proof.Machine.execOverrunSafeOff stage s
  | .capFloor stage => Sys2Proof.Machine.execCapFloor stage s
  | .stageRetryBackoff stage => Sys2Proof.Machine.execStageRetryBackoff stage s
  | .stageRetryCntHeal stage => Sys2Proof.Machine.execStageRetryCntHeal stage s
  | .setUpWrite a v => Sys2Proof.Machine.execSetUpWrite a v s
  | .glbLockWrite v cyc => Sys2Proof.Machine.execGlbLockWrite v cyc s
  | .seqCtrlAbort v => Sys2Proof.Machine.execSeqCtrlAbort v s
  | .fltCtrlFfClear v => Sys2Proof.Machine.execFltCtrlFfClear v s
  | .fltCtrlSysrstRel v => Sys2Proof.Machine.execFltCtrlSysrstRel v s
  | .stgLoadCommit stage v => Sys2Proof.Machine.execStgLoadCommit stage v s
  | .glbLoadClear engine v => Sys2Proof.Machine.execGlbLoadClear engine v s
  | .fltCntSelWrite v => Sys2Proof.Machine.execFltCntSelWrite v s
  | .cnvWselWrite v => Sys2Proof.Machine.execCnvWselWrite v s
  | .evtCselWrite v => Sys2Proof.Machine.execEvtCselWrite v s
  | .evtWclogPop v => Sys2Proof.Machine.execEvtWclogPop v s
  | .scaRselWrite v => Sys2Proof.Machine.execScaRselWrite v s
  | .glbFrameLoRead cyc => Sys2Proof.Machine.execGlbFrameLoRead cyc s
  | .hstJheadLoRead => Sys2Proof.Machine.execHstJheadLoRead s
  | .hstJoldLoRead => Sys2Proof.Machine.execHstJoldLoRead s
  | .hstJmirLoRead => Sys2Proof.Machine.execHstJmirLoRead s
  | .cnvResLoRead entry => Sys2Proof.Machine.execCnvResLoRead entry s
  | .evtWclog0Read => Sys2Proof.Machine.execEvtWclog0Read s
  | .fwHoverLoRead => Sys2Proof.Machine.execFwHoverLoRead s
  | .crDoorbell ring v => Sys2Proof.Machine.execCrDoorbell ring v s
  | .cqDoorbell ring v => Sys2Proof.Machine.execCqDoorbell ring v s
  | .erDoorbell v => Sys2Proof.Machine.execErDoorbell v s
  | .trDoorbell v => Sys2Proof.Machine.execTrDoorbell v s
  | .descriptorFetchDone ring d => Sys2Proof.Machine.execDescriptorFetchDone ring d s
  | .ringService cyc => Sys2Proof.Machine.execRingService cyc s
  | .completionPosting cyc failed => Sys2Proof.Machine.execCompletionPosting cyc failed s
  | .msixModerationExpiry vec => Sys2Proof.Machine.execMsixModerationExpiry vec s
  | .hostInterfaceReset link => Sys2Proof.Machine.execHostInterfaceReset link s
  | .busMasterEnable on => Sys2Proof.Machine.execBusMasterEnable on s
  | .journalMirrorWrite => Sys2Proof.Machine.execJournalMirrorWrite s
  | .nop ring d => Sys2Proof.Machine.execNop ring d s
  | .powerOn ring d => Sys2Proof.Machine.execPowerOn ring d s
  | .powerOff ring d => Sys2Proof.Machine.execPowerOff ring d s
  | .groupOff ring d => Sys2Proof.Machine.execGroupOff ring d s
  | .progLaunch ring d => Sys2Proof.Machine.execProgLaunch ring d s
  | .progAbort ring d => Sys2Proof.Machine.execProgAbort ring d s
  | .progLoad ring d => Sys2Proof.Machine.execProgLoad ring d s
  | .graphLoad ring d => Sys2Proof.Machine.execGraphLoad ring d s
  | .flagsSet ring d => Sys2Proof.Machine.execFlagsSet ring d s
  | .retryCancel ring d => Sys2Proof.Machine.execRetryCancel ring d s
  | .margin ring d => Sys2Proof.Machine.execMargin ring d s
  | .ffClear ring d => Sys2Proof.Machine.execFfClear ring d s
  | .sysrstRelease ring d => Sys2Proof.Machine.execSysrstRelease ring d s
  | .stageStart ring d => Sys2Proof.Machine.execStageStart ring d s
  | .stageStop ring d => Sys2Proof.Machine.execStageStop ring d s
  | .stageClear ring d => Sys2Proof.Machine.execStageClear ring d s
  | .loopSetup ring d => Sys2Proof.Machine.execLoopSetup ring d s
  | .capSet ring d => Sys2Proof.Machine.execCapSet ring d s
  | .convStart ring d => Sys2Proof.Machine.execConvStart ring d s
  | .convUrgent ring d => Sys2Proof.Machine.execConvUrgent ring d s
  | .convCalZero ring d => Sys2Proof.Machine.execConvCalZero ring d s
  | .convCalFull ring d => Sys2Proof.Machine.execConvCalFull ring d s
  | .configLoad ring d => Sys2Proof.Machine.execConfigLoad ring d s
  | .configActivate ring d => Sys2Proof.Machine.execConfigActivate ring d s
  | .configActivateAtFrame => Sys2Proof.Machine.execConfigActivateAtFrame s
  | .configRevert ring d => Sys2Proof.Machine.execConfigRevert ring d s
  | .configCapture ring d => Sys2Proof.Machine.execConfigCapture ring d s
  | .configConfirm ring d => Sys2Proof.Machine.execConfigConfirm ring d s
  | .journalRead ring d => Sys2Proof.Machine.execJournalRead ring d s
  | .alogRead ring d => Sys2Proof.Machine.execAlogRead ring d s
  | .countersRead ring d => Sys2Proof.Machine.execCountersRead ring d s
  | .stateRead ring d => Sys2Proof.Machine.execStateRead ring d s
  | .recRead ring d => Sys2Proof.Machine.execRecRead ring d s
  | .recFreeze ring d => Sys2Proof.Machine.execRecFreeze ring d s
  | .recThaw ring d => Sys2Proof.Machine.execRecThaw ring d s
  | .recChallenge ring d => Sys2Proof.Machine.execRecChallenge ring d s
  | .recClear ring d => Sys2Proof.Machine.execRecClear ring d s
  | .tagWrite ring d => Sys2Proof.Machine.execTagWrite ring d s
  | .tagRead ring d => Sys2Proof.Machine.execTagRead ring d s
  | .pairHandover ring d => Sys2Proof.Machine.execPairHandover ring d s
  | .configProbationExpiry => Sys2Proof.Machine.execConfigProbationExpiry s
  | .configAutoRevert => Sys2Proof.Machine.execConfigAutoRevert s
  | .portSeek port => Sys2Proof.Machine.execPortSeek port s
  | .portLock port inverted => Sys2Proof.Machine.execPortLock port inverted s
  | .portIdent port => Sys2Proof.Machine.execPortIdent port s
  | .portUp port peer role rtt delay sameRow active fw => Sys2Proof.Machine.execPortUp port peer role rtt delay sameRow active fw s
  | .portRetrain port => Sys2Proof.Machine.execPortRetrain port s
  | .syncFrame x => Sys2Proof.Machine.execSyncFrame x s
  | .electFrame f => Sys2Proof.Machine.execElectFrame f s
  | .electionWin row => Sys2Proof.Machine.execElectionWin row s
  | .memberFrame f => Sys2Proof.Machine.execMemberFrame f s
  | .statusFrame f index => Sys2Proof.Machine.execStatusFrame f index s
  | .cmdFrame f => Sys2Proof.Machine.execCmdFrame f s
  | .stackCommandLoss => Sys2Proof.Machine.execStackCommandLoss s
  | .relayFrame f cmd row => Sys2Proof.Machine.execRelayFrame f cmd row s
  | .stackMemberLoss member => Sys2Proof.Machine.execStackMemberLoss member s
  | .classSyncTimeout => Sys2Proof.Machine.execClassSyncTimeout s
  | .stackJoinTimeout => Sys2Proof.Machine.execStackJoinTimeout s
  | .frameCounterLoad v => Sys2Proof.Machine.execFrameCounterLoad v s
  | .rowExchange cyc => Sys2Proof.Machine.execRowExchange cyc s
  | .rowstatFrame f demand floor inloss ready level domain => Sys2Proof.Machine.execRowstatFrame f demand floor inloss ready level domain s
  | .capFrame f cap => Sys2Proof.Machine.execCapFrame f cap s
  | .faultFrame f ts node grail kind aligned => Sys2Proof.Machine.execFaultFrame f ts node grail kind aligned s
  | .faultBroadcast => Sys2Proof.Machine.execFaultBroadcast s
  | .eventFrame f o => Sys2Proof.Machine.execEventFrame f o s
  | .telemFrame f => Sys2Proof.Machine.execTelemFrame f s
  | .rowMasterLoss => Sys2Proof.Machine.execRowMasterLoss s
  | .rowCapHoldExpiry => Sys2Proof.Machine.execRowCapHoldExpiry s
  | .pairEnFrame f => Sys2Proof.Machine.execPairEnFrame f s
  | .pairLinkLoss => Sys2Proof.Machine.execPairLinkLoss s
  | .pairHeartbeatTakeover => Sys2Proof.Machine.execPairHeartbeatTakeover s
  | .xrstOutRelease => Sys2Proof.Machine.execXrstOutRelease s
  | .shadowReset => Sys2Proof.Machine.execShadowReset s
  | .journalFrame f => Sys2Proof.Machine.execJournalFrame f s
  | .jackFrame f seq => Sys2Proof.Machine.execJackFrame f seq s
  | .journalResend => Sys2Proof.Machine.execJournalResend s
  | .mirrorFrame f tick k n items => Sys2Proof.Machine.execMirrorFrame f tick k n items s
  | .handoverQuietPoint => Sys2Proof.Machine.execHandoverQuietPoint s
  | .handoverTakeover => Sys2Proof.Machine.execHandoverTakeover s
  | .pairAlone => Sys2Proof.Machine.execPairAlone s
  | .flashProgramDone ok => Sys2Proof.Machine.execFlashProgramDone ok s
  | .flashEraseDone => Sys2Proof.Machine.execFlashEraseDone s
  | .counterRingUpdate rail => Sys2Proof.Machine.execCounterRingUpdate rail s
  | .marginSweepStart => Sys2Proof.Machine.execMarginSweepStart s
  | .sweepStep weak bad => Sys2Proof.Machine.execSweepStep weak bad s
  | .recordImageMake => Sys2Proof.Machine.execRecordImageMake s
  | .holdoffExpiry src => Sys2Proof.Machine.execHoldoffExpiry src s
  | .recorderFlush => Sys2Proof.Machine.execRecorderFlush s
  | .freezeTimeout => Sys2Proof.Machine.execFreezeTimeout s
  | .nonceExpiry => Sys2Proof.Machine.execNonceExpiry s
  | .clearCommit => Sys2Proof.Machine.execClearCommit s
  | .clearErasure => Sys2Proof.Machine.execClearErasure s
  | .flueRead => Sys2Proof.Machine.execFlueRead s
  | .flueOpen p => Sys2Proof.Machine.execFlueOpen p s
  | .flueHeader p partnerProb => Sys2Proof.Machine.execFlueHeader p partnerProb s
  | .flueData p => Sys2Proof.Machine.execFlueData p s
  | .dataProgrammed => Sys2Proof.Machine.execDataProgrammed s
  | .flueVerify p upsets => Sys2Proof.Machine.execFlueVerify p upsets s
  | .flueActivate p loadOk partnerOk => Sys2Proof.Machine.execFlueActivate p loadOk partnerOk s
  | .firmwareHandover slow => Sys2Proof.Machine.execFirmwareHandover slow s
  | .handoverComplete => Sys2Proof.Machine.execHandoverComplete s
  | .flueConfirm p partnerOk => Sys2Proof.Machine.execFlueConfirm p partnerOk s
  | .flueStatus p => Sys2Proof.Machine.execFlueStatus p s
  | .flueClose p => Sys2Proof.Machine.execFlueClose p s
  | .keyProgram p fuseOk => Sys2Proof.Machine.execKeyProgram p fuseOk s
  | .flueSessionLapse => Sys2Proof.Machine.execFlueSessionLapse s
  | .firmwareProbationExpiry => Sys2Proof.Machine.execFirmwareProbationExpiry s
  | .recoveryReset => Sys2Proof.Machine.execRecoveryReset s
  | .pgEdgeLatch rail cyc => Sys2Proof.Machine.execPgEdgeLatch rail cyc s
  | .pd0PowerLoss => Sys2Proof.Machine.execPd0PowerLoss s
  | .unsupportedBarAccess bar write a v => Sys2Proof.Machine.execUnsupportedBarAccess bar write a v s
  | .msixTableWrite off v => Sys2Proof.Machine.execMsixTableWrite off v s

end Sys2Proof.Machine
end

