-- ==== Sys2Proof/WellFormed.lean ====
section
/-! DEFINITION. WellFormed.lean: which commands the part and its board can send: every number an operand names lies in
the range the spec gives it. -/

namespace Sys2Proof

open Machine

/-- A link frame comes in at one of the four ports and names nodes of 12 bits (R321, R322). -/
def LFrame.wf (f : LFrame) : Bool := decide (f.port < 4) && decide (f.src < 4096) && decide (f.dst < 4096)

/-- A SYNC comes in as any link frame (R328). -/
def SyncIn.wf (x : SyncIn) : Bool := x.f.wf

/-- A BAR0 write arrives in a PLL cycle of its frame, and its offset lies in the 64 KiB (R289, R463). -/
def Access.wf (a : Access) : Bool := decide (a.cyc < 2000) && decide (a.off < 0x10000)

/-- An access of BAR0 or BAR2. -/
def Access.wfBar (a : Access) : Bool := decide (a.cyc < 2000)

/-- The fields of a descriptor header fit their widths (R299). -/
def descWf (d : Desc) : Bool := decide (d.opcode < 256) && decide (d.tag < 65536)

/-- The fields of a flue packet fit their widths (R418). -/
def Flue.wf (p : Flue) : Bool := decide (p.tag < 256) && decide (p.session < 2 ^ 32) && decide (p.crc < 2 ^ 32)

/-- A commitment is held for a rail of the stack, a stage, or a margin of a rail (R179). -/
def ckeyWf : CKey → Bool
  | .rail g => decide (g < 768)
  | .stage st => decide (st < 4)
  | .margin g => decide (g < 768)

/-- An occurrence names a source and a severity (R467). -/
def occWf (o : Occ) : Bool := decide (o.src < 256) && decide (o.sev < 4)

/-- The levels of a boundary are listed for rails, MDACs, phases, stages, engines and channels that exist (R13, R61). -/
def BoundaryIn.wf (b : BoundaryIn) : Bool :=
  b.pg.all (fun p => decide (p.1 < 96)) && b.en.all (fun p => decide (p.1 < 96)) && b.ilim.all (fun i => decide (i < 96)) &&
    b.mdacOut.all (fun k => decide (k < 16)) && b.quiet.all (fun p => decide (p < 32)) && b.wedged.all (fun e => decide (e < 8)) &&
    b.refOut.all (fun p => decide (p < 2)) && b.legs.all (fun p => decide (p.1 < 4)) && b.clamps.all (fun c => decide (c < 168))

/-- A word of the MSI-X table or its PBA (R294, R470). -/
def msixOk (off : Nat) : Bool := decide (0x800 ≤ off) && decide (off < 0xC08) && decide (off % 4 = 0)

/-- The operands of a command lie in their ranges. -/
def Instr.wf : Instr → Bool
  | .frameBoundary b => b.wf
  | .watchTickBoundary b => b.wf
  | .supplyGood supply => decide (supply < 4)
  | .domainPowerUp pd => decide (pd < 12)
  | .powerFailure cause cyc => decide (cause < 8) && decide (cyc < 2000)
  | .vioOkRise bank => decide (bank < 2)
  | .vioOkFall bank => decide (bank < 2)
  | .trgEdgeAccepted trg _ cyc => decide (trg < 4) && decide (cyc < 2000)
  | .pgDebouncedGood rail => decide (rail < 96)
  | .pgLost rail => decide (rail < 96)
  | .pgLate rail => decide (rail < 96)
  | .enShort rail _ _ => decide (rail < 96)
  | .enOpen rail => decide (rail < 96)
  | .assistTest rail => decide (rail < 96)
  | .assistTestResult rail _ => decide (rail < 96)
  | .pgOpenTest rail _ => decide (rail < 96)
  | .pgStuck rail => decide (rail < 96)
  | .enFoldBack rail => decide (rail < 96)
  | .minOffElapsed rail => decide (rail < 96)
  | .marginSettleExpiry rail => decide (rail < 96)
  | .marginVerifyDone rail => decide (rail < 96)
  | .pmbusTransactionDone master _ => decide (master < 4)
  | .pmbusSclTimeout master => decide (master < 4)
  | .pmbusWatcherPoll n => decide (n < 32)
  | .commitmentEnd key => ckeyWf key
  | .delayExpiry prog => decide (prog < 64)
  | .stepDeadlineExpiry prog => decide (prog < 64)
  | .dischMet rail => decide (rail < 96)
  | .backoffExpiry rail => decide (rail < 96)
  | .heal rail => decide (rail < 96)
  | .groupRestart grp => decide (grp < 16)
  | .watchdogExpiry engine => decide (engine < 8)
  | .conversionEnd core slot _ _ => decide (core < 4) && decide (slot < 12)
  | .sliceUnclamp core slice => decide (core < 4) && decide (slice < 4)
  | .plausibilityRestore pair => decide (pair < 2)
  | .conversionDropped core entry => decide (core < 4) && decide (entry < 64)
  | .urgentConversionStart core k => decide (core < 4) && decide (k < 4)
  | .refrdySet pair => decide (pair < 2)
  | .referenceFaultTimeout pair => decide (pair < 2)
  | .refrdyFall pair => decide (pair < 2)
  | .taskOverrun engine task => decide (engine < 8) && decide (task < 4)
  | .stageControlTask stage _ => decide (stage < 4)
  | .phaseDiagnosticsTask stage _ => decide (stage < 4)
  | .stageRegulated stage => decide (stage < 4)
  | .kindlingStartTimeout stage => decide (stage < 4)
  | .cycleLimitTrip phase _ => decide (phase < 32)
  | .hiccupEntry stage => decide (stage < 4)
  | .hiccupExpiry stage => decide (stage < 4)
  | .consecHicHeal stage => decide (stage < 4)
  | .senseOpen stage _ => decide (stage < 4)
  | .frozen stage => decide (stage < 4)
  | .nofb stage => decide (stage < 4)
  | .stageOv stage => decide (stage < 4)
  | .stageUv stage => decide (stage < 4)
  | .overrunSafeOff stage => decide (stage < 4)
  | .capFloor stage => decide (stage < 4)
  | .stageRetryBackoff stage => decide (stage < 4)
  | .stageRetryCntHeal stage => decide (stage < 4)
  | .setUpWrite a _ => a.wf
  | .glbLockWrite _ cyc => decide (cyc < 2000)
  | .stgLoadCommit stage _ => decide (stage < 4)
  | .glbLoadClear engine _ => decide (engine < 8)
  | .glbFrameLoRead cyc => decide (cyc < 2000)
  | .cnvResLoRead entry => decide (entry < 64)
  | .crDoorbell ring _ => decide (ring < 8)
  | .cqDoorbell ring _ => decide (ring < 8)
  | .descriptorFetchDone ring _ => decide (ring < 8)
  | .msixModerationExpiry vec => decide (vec < 12)
  | .nop ring d => decide (ring < 8) && descWf d
  | .powerOn ring d => decide (ring < 8) && descWf d
  | .powerOff ring d => decide (ring < 8) && descWf d
  | .groupOff ring d => decide (ring < 8) && descWf d
  | .progLaunch ring d => decide (ring < 8) && descWf d
  | .progAbort ring d => decide (ring < 8) && descWf d
  | .progLoad ring d => decide (ring < 8) && descWf d
  | .graphLoad ring d => decide (ring < 8) && descWf d
  | .flagsSet ring d => decide (ring < 8) && descWf d
  | .retryCancel ring d => decide (ring < 8) && descWf d
  | .margin ring d => decide (ring < 8) && descWf d
  | .ffClear ring d => decide (ring < 8) && descWf d
  | .sysrstRelease ring d => decide (ring < 8) && descWf d
  | .stageStart ring d => decide (ring < 8) && descWf d
  | .stageStop ring d => decide (ring < 8) && descWf d
  | .stageClear ring d => decide (ring < 8) && descWf d
  | .loopSetup ring d => decide (ring < 8) && descWf d
  | .capSet ring d => decide (ring < 8) && descWf d
  | .convStart ring d => decide (ring < 8) && descWf d
  | .convUrgent ring d => decide (ring < 8) && descWf d
  | .convCalZero ring d => decide (ring < 8) && descWf d
  | .convCalFull ring d => decide (ring < 8) && descWf d
  | .configLoad ring d => decide (ring < 8) && descWf d
  | .configActivate ring d => decide (ring < 8) && descWf d
  | .configRevert ring d => decide (ring < 8) && descWf d
  | .configCapture ring d => decide (ring < 8) && descWf d
  | .configConfirm ring d => decide (ring < 8) && descWf d
  | .journalRead ring d => decide (ring < 8) && descWf d
  | .alogRead ring d => decide (ring < 8) && descWf d
  | .countersRead ring d => decide (ring < 8) && descWf d
  | .stateRead ring d => decide (ring < 8) && descWf d
  | .recRead ring d => decide (ring < 8) && descWf d
  | .recFreeze ring d => decide (ring < 8) && descWf d
  | .recThaw ring d => decide (ring < 8) && descWf d
  | .recChallenge ring d => decide (ring < 8) && descWf d
  | .recClear ring d => decide (ring < 8) && descWf d
  | .tagWrite ring d => decide (ring < 8) && descWf d
  | .tagRead ring d => decide (ring < 8) && descWf d
  | .pairHandover ring d => decide (ring < 8) && descWf d
  | .portSeek port => decide (port < 4)
  | .portLock port _ => decide (port < 4)
  | .portIdent port => decide (port < 4)
  | .portUp port peer role _ _ _ _ fw => decide (port < 4) && decide (peer < 4096) && decide (role < 8) && decide (fw < 3)
  | .portRetrain port => decide (port < 4)
  | .syncFrame x => x.wf
  | .electFrame f => f.wf
  | .memberFrame f => f.wf
  | .statusFrame f index => f.wf && decide (index < 8)
  | .cmdFrame f => f.wf
  | .relayFrame f _ row => f.wf && decide (row.2 < 16)
  | .stackMemberLoss member => decide (member < 8)
  | .rowstatFrame f _ _ _ _ level domain => f.wf && decide (level < 8) && decide (domain < 8)
  | .capFrame f _ => f.wf
  | .faultFrame f _ node grail kind _ => f.wf && decide (node < 4096) && decide (grail < 1024) && decide (kind < 8)
  | .eventFrame f o => f.wf && occWf o
  | .telemFrame f => f.wf
  | .pairEnFrame f => f.wf
  | .journalFrame f => f.wf
  | .jackFrame f _ => f.wf
  | .mirrorFrame f _ k n _ => f.wf && decide (k ≤ n)
  | .counterRingUpdate rail => decide (rail < 96)
  | .holdoffExpiry src => decide (src < 256)
  | .flueOpen p => p.wf
  | .flueHeader p _ => p.wf
  | .flueData p => p.wf
  | .flueVerify p _ => p.wf
  | .flueActivate p _ _ => p.wf
  | .flueConfirm p _ => p.wf
  | .flueStatus p => p.wf
  | .flueClose p => p.wf
  | .keyProgram p _ => p.wf
  | .pgEdgeLatch rail cyc => decide (rail < 96) && decide (cyc < 2000)
  | .unsupportedBarAccess bar _ a _ => decide ((bar = 0 ∨ bar = 2)) && a.wfBar
  | .msixTableWrite off _ => msixOk off
  | .pd0PowerUp => true
  | .porstAsserted => true
  | .bootBegin _ => true
  | .firmwareStart l => l.all fun x => decide (x.1 ≤ 0x18)
  | .bootActivation => true
  | .bootOnRequest => true
  | .bootFailure => true
  | .lockAutoOpen => true
  | .emberRecorderFlush _ => true
  | .emberModeExit => true
  | .xrstInAssert => true
  | .xrstInRelease => true
  | .referenceClockLost => true
  | .referenceClockReturn => true
  | .nvwpChange _ => true
  | .ledgerPass _ => true
  | .offClassLimitExpiry => true
  | .offPauseExpiry => true
  | .offRunComplete => true
  | .heldOnRequestLaunch => true
  | .faultPolicy _ => true
  | .restartDelayExpiry => true
  | .restartWindowExpiry => true
  | .sysrstReleaseDelay => true
  | .watchdogGraceExpiry => true
  | .watchdogReset => true
  | .inputLossDeclared => true
  | .inputRestored => true
  | .shedComparatorTrip => true
  | .batteryPoll => true
  | .batteryNotReadyOff => true
  | .damperTask _ => true
  | .damperCapChange _ => true
  | .damperRaise _ => true
  | .damperRelax _ => true
  | .damperJudgement => true
  | .sharingRound _ => true
  | .calPhaseDone => true
  | .converterPostProcessing run => run.2.all fun f => decide (f.1 < 4 ∧ f.2.1 < 4 ∧ f.2.2 < 2000)
  | .telemetryPosting _ => true
  | .emberSnapshot _ => true
  | .sequencerService _ => true
  | .pmbusService _ => true
  | .seqCtrlAbort _ => true
  | .fltCtrlFfClear _ => true
  | .fltCtrlSysrstRel _ => true
  | .fltCntSelWrite _ => true
  | .cnvWselWrite _ => true
  | .evtCselWrite _ => true
  | .evtWclogPop _ => true
  | .scaRselWrite _ => true
  | .hstJheadLoRead => true
  | .hstJoldLoRead => true
  | .hstJmirLoRead => true
  | .evtWclog0Read => true
  | .fwHoverLoRead => true
  | .erDoorbell _ => true
  | .trDoorbell _ => true
  | .ringService _ => true
  | .completionPosting _ _ => true
  | .hostInterfaceReset _ => true
  | .busMasterEnable _ => true
  | .journalMirrorWrite => true
  | .configActivateAtFrame => true
  | .configProbationExpiry => true
  | .configAutoRevert => true
  | .electionWin _ => true
  | .stackCommandLoss => true
  | .classSyncTimeout => true
  | .stackJoinTimeout => true
  | .frameCounterLoad _ => true
  | .rowExchange _ => true
  | .faultBroadcast => true
  | .rowMasterLoss => true
  | .rowCapHoldExpiry => true
  | .pairLinkLoss => true
  | .pairHeartbeatTakeover => true
  | .xrstOutRelease => true
  | .shadowReset => true
  | .journalResend => true
  | .handoverQuietPoint => true
  | .handoverTakeover => true
  | .pairAlone => true
  | .flashProgramDone _ => true
  | .flashEraseDone => true
  | .marginSweepStart => true
  | .sweepStep _ _ => true
  | .recordImageMake => true
  | .recorderFlush => true
  | .freezeTimeout => true
  | .nonceExpiry => true
  | .clearCommit => true
  | .clearErasure => true
  | .flueRead => true
  | .dataProgrammed => true
  | .firmwareHandover _ => true
  | .handoverComplete => true
  | .flueSessionLapse => true
  | .firmwareProbationExpiry => true
  | .recoveryReset => true
  | .pd0PowerLoss => true

end Sys2Proof
end

