-- ==== Sys2Proof/Safety.lean ====
section
/-! DEFINITION. Safety.lean: what a run keeps, in the terms the statements use: a step that goes on, the form of the
register words. -/

namespace Sys2Proof.Machine

/-- The step goes on: a next state, no fault, no refusal (log 4). -/
def GoesOn (s : State) : Prop := ∃ t, step s = .next t

/-- The command completes in `s`: `exec` answers a next state, and `P` holds of it. -/
def Completes (c : Instr) (s : State) (P : State → Prop) : Prop := ∃ t, exec c s = .next t ∧ P t

/-- The bits a word of BAR0 can hold at a key: its RWS bits (R8, R11, R463), and SYSCAL in the first word of the
calibration of a channel below 152 (R237, R248). -/
def wordMask (k : Nat) : Nat :=
  if calKey ≤ k ∧ (k - calKey) % 8 = 0 ∧ k < calKey + 8 * 152 then rwsMask k ||| 0x4000000 else rwsMask k

/-- A value holds no bit its word does not have. -/
def Fits (k : Nat) (v : W32) : Prop := v &&& ~~~(BitVec.ofNat 32 (wordMask k)) = 0

/-- A table of register words is in its canonical form and every reserved bit reads 0 (R11). -/
def WordsOk (t : Tbl W32) : Prop := twf 0 t = true ∧ ∀ k, Fits k (tget 0 t k)

/-- The words that read back and the words in force are well formed. -/
def RegsOk (s : State) : Prop := WordsOk s.bar0 ∧ WordsOk s.cfg

/-- `t` is `s` but for what events leave behind: the sources' own state, the vectors owed, a revert that falls due, the
recorder's queue and ash count (R383, R387, R400, R467, R468). Written with a changed part put into `s`, it is the frame of a
command that also raises events. -/
abbrev EventsOnly (s t : State) : Prop :=
  { t with
    evt := s.evt
    hst := { t.hst with dvec := s.hst.dvec }
    nv := { t.nv with revertDue := s.nv.revertDue }
    recd := { t.recd with queue := s.recd.queue, ash := s.recd.ash } } = s

/-- The source is pending (R467). -/
abbrev Pending (n : Nat) (s : State) : Prop := s.evt.pend.getLsbD n = true

/-- Nothing is found and not yet acted on, and the fault queue holds no entry of this rail and kind (R144). -/
abbrev NoFaultWaiting (i k : Nat) (s : State) : Prop := s.flt.found = [] ∧ ∀ q ∈ s.flt.queue, ¬(q.rail = i ∧ q.kind = k)

/-- One fault of rail i was found at this boundary: the fault queue has a new last entry of that rail, kind, direction and
onset, counted once; where no first fault was held, that fault is the capture, else the capture stands (R138, R144, R159). -/
def FaultTaken (i k : Nat) (dir : Bool) (onset : Ts) (s t : State) : Prop :=
  ∃ q, t.flt.queue = s.flt.queue ++ [q] ∧ q.rail = i ∧ q.kind = k ∧ q.dir = dir ∧ q.onset = onset ∧ q.det = s.clk.frame ∧
    q.mult = 1 ∧
    match s.flt.ff with
    | some c => t.flt.ff = some c
    | none => ∃ c, t.flt.ff = some c ∧ c.f = q

/-- A reset of the part with a cause: it waits for its boot, no rail is used, the register words are at their reset values;
the frame counter and the lifetime counters go on (R162, R445, R446). -/
def ResetOf (cause : Nat) (s t : State) : Prop :=
  t.pwr.phase = .reset ∧ t.pwr.nextCause = cause ∧ t.clk.frame = s.clk.frame ∧ t.bar0 = State.reset.bar0 ∧
    t.cfg = State.reset.cfg ∧ ∀ i, (t.rail i).st = .unused ∧ (t.rail i).en = false ∧
      (twf {} s.rails = true → (t.rail i).cnt = (s.rail i).cnt)

/-- The stage is in SAFE_OFF by a fault of this cause, it does not switch, and its fault event is pending (R276, R277). -/
abbrev SafeOffBy (st cause : Nat) (t : State) : Prop :=
  (t.stg st).st = .safeOff ∧ (t.stg st).fcause = cause ∧ (t.stg st).switching = false ∧ (t.stg st).sp = 0 ∧
    Pending (0x80 + 8 * st) t

/-- No hardware fault of a stage waits for order 3. -/
abbrev NoStageFound (s : State) : Prop := ∀ k, k < 4 → (s.stg k).found = none

/-- Task t of engine e is released in this frame and is the first of its engine that has not run, the engine is not halted, and
`cyc` cycles are left of the 900 of the frame (R27, R52, R53). -/
abbrev TaskReady (e t cyc : Nat) (s : State) : Prop := taskStarts s e t = true ∧ (s.eng e).used + cyc ≤ 900

/-- The task has run in this frame and used its cycles (R53, R57). -/
abbrev TaskRan (e t cyc : Nat) (s u : State) : Prop :=
  (u.eng e).ran.testBit t = true ∧ (u.eng e).used = (s.eng e).used + cyc

/-- One PG sample of rail i with its debounce (R44 order 2, R70). -/
def sampleStep (mv : Int) (i : Nat) (s : State) : State := debounce i (samplePg mv i s)

/-! ## Commands of the rings -/

/-- The opcode, the ring and the descriptor of a command row (R305). -/
def commandOf : Instr → Option (Nat × Nat × Desc)
  | .nop r d => some (0x00, r, d)
  | .powerOn r d => some (0x01, r, d)
  | .powerOff r d => some (0x02, r, d)
  | .groupOff r d => some (0x03, r, d)
  | .progLaunch r d => some (0x04, r, d)
  | .progAbort r d => some (0x05, r, d)
  | .progLoad r d => some (0x06, r, d)
  | .graphLoad r d => some (0x07, r, d)
  | .flagsSet r d => some (0x08, r, d)
  | .retryCancel r d => some (0x09, r, d)
  | .margin r d => some (0x0A, r, d)
  | .ffClear r d => some (0x0B, r, d)
  | .sysrstRelease r d => some (0x0C, r, d)
  | .stageStart r d => some (0x10, r, d)
  | .stageStop r d => some (0x11, r, d)
  | .stageClear r d => some (0x12, r, d)
  | .loopSetup r d => some (0x13, r, d)
  | .capSet r d => some (0x18, r, d)
  | .convStart r d => some (0x20, r, d)
  | .convUrgent r d => some (0x21, r, d)
  | .convCalZero r d => some (0x22, r, bit0 false d)
  | .convCalFull r d => some (0x22, r, bit0 true d)
  | .configLoad r d => some (0x28, r, d)
  | .configActivate r d => some (0x29, r, d)
  | .configRevert r d => some (0x2A, r, d)
  | .configCapture r d => some (0x2B, r, d)
  | .configConfirm r d => some (0x2C, r, d)
  | .journalRead r d => some (0x30, r, d)
  | .alogRead r d => some (0x31, r, d)
  | .countersRead r d => some (0x32, r, d)
  | .stateRead r d => some (0x33, r, d)
  | .recRead r d => some (0x38, r, d)
  | .recFreeze r d => some (0x39, r, bit0 true d)
  | .recThaw r d => some (0x39, r, bit0 false d)
  | .recChallenge r d => some (0x3A, r, d)
  | .recClear r d => some (0x3B, r, d)
  | .tagWrite r d => some (0x3C, r, d)
  | .tagRead r d => some (0x3D, r, d)
  | .pairHandover r d => some (0x40, r, d)
  | _ => none

/-- The row's descriptor is on a command ring, fewer than three commands have their journal entry in this frame, it is accepted,
and the SEQ it takes is new (R50, R299, R313). -/
abbrev Taken (op r : Nat) (d : Desc) (s : State) : Prop :=
  r < 8 ∧ s.jrn.slots < 3 ∧ rejects s { d with opcode := op } = none ∧ s.liveOf s.nextSeq = none

/-- The command has its journal entry, PENDING, under the SEQ that was next (R299, R312, R313). -/
def Entered (op r : Nat) (d : Desc) (s t : State) : Prop :=
  t.jrn.head = s.nextSeq ∧ ∃ e, t.jEntry s.nextSeq = some e ∧ e.opcode = op ∧ e.ring = r ∧ e.src = 0 ∧ e.tag = d.tag ∧
    e.status = stPending ∧ e.frame = s.clk.frame

/-- The command has its entry and is over: it is live no more and its final completion is staged for the frame after the
boundary that ends this one (R51, R300, R302). -/
def Ended (op r : Nat) (d : Desc) (status result : Nat) (s t : State) : Prop :=
  Entered op r d s t ∧ t.liveOf s.nextSeq = none ∧ ∃ c ∈ t.hst.ready, c.seq = s.nextSeq ∧ c.opcode = op ∧ c.ring = r ∧
    c.tag = d.tag ∧ c.status = status ∧ c.result = result ∧ c.final = true ∧ c.frame = s.clk.frame + 1 ∧
      c.readyAt = s.clk.frame + 2

/-- The command has its entry, took effect and waits for `w` (R301). -/
def Waiting (op r : Nat) (d : Desc) (w : Wait) (s t : State) : Prop :=
  Entered op r d s t ∧ ∃ l, t.liveOf s.nextSeq = some l ∧ l.wait = w ∧ l.ring = r ∧ l.d.tag = d.tag

/-- The programs are as they were, but that each that had ended has told the command that launched it (R108, R121). -/
abbrev ProgsTold (s t : State) : Prop := ∀ m, m < 64 → t.prog m = { s.prog m with untold := false }

/-- The sequencer is as it was, but that the programs that had ended have told so (R108, R121). -/
abbrev SeqTold (s t : State) : Prop := t.seq = { s.seq with progs := t.seq.progs } ∧ ProgsTold s t

/-- Every word of the on-table's mirror that an edit fills in part can be read (R28). -/
abbrev MirrorReads (w : List (Nat × Nat)) (s : State) : Prop :=
  ∀ a ∈ tableWords w, wholeWord w a = true ∨ s.wordOk 0x10 (mirrorBase + a) = true

/-- The mirror of the on-table has taken an edit: the last entry given for an index stands, every other entry is as it was
(R17). -/
abbrev MirrorTook (w : List (Nat × Nat)) (s t : State) : Prop :=
  (∀ k v, (w.filter fun p => p.1 = k).getLast? = some (k, v) → tget 0 t.seq.mirror k = v) ∧
    ∀ k, (∀ p ∈ w, p.1 ≠ k) → tget 0 t.seq.mirror k = tget 0 s.seq.mirror k

/-! ## The link -/

/-- The link frame a row receives (R323, R325). -/
def frameOf : Instr → Option Sys2Proof.LFrame
  | .syncFrame x => some x.f
  | .electFrame f => some f
  | .memberFrame f => some f
  | .statusFrame f _ => some f
  | .cmdFrame f => some f
  | .relayFrame f _ _ => some f
  | .rowstatFrame f _ _ _ _ _ _ => some f
  | .capFrame f _ => some f
  | .faultFrame f _ _ _ _ _ => some f
  | .eventFrame f _ => some f
  | .telemFrame f => some f
  | .pairEnFrame f => some f
  | .journalFrame f => some f
  | .jackFrame f _ => some f
  | .mirrorFrame f _ _ _ _ => some f
  | _ => none

/-- A frame arrives whole on a port that receives (R325). -/
abbrev Received (f : Sys2Proof.LFrame) (s : State) : Prop :=
  f.port ≤ 3 ∧ 3 ≤ (s.port f.port).st ∧ f.hdrOk = true ∧ wcDecode f.data f.chk = .clean

/-- A row frame whose copy has not been taken yet (R339). -/
abbrev FirstCopy (kind : Nat) (f : Sys2Proof.LFrame) (s : State) : Prop := s.sca.seen.contains (f.src, kind, f.seq) = false

/-! ## The flue port -/

/-- The CMD byte and the packet of a request on the flue port (R418, R439). -/
def flueOf : Instr → Option (Nat × Sys2Proof.Flue)
  | .flueOpen p => some (1, p)
  | .flueHeader p _ => some (2, p)
  | .flueData p => some (3, p)
  | .flueVerify p _ => some (4, p)
  | .flueActivate p _ _ => some (5, p)
  | .flueConfirm p _ => some (6, p)
  | .flueStatus p => some (7, p)
  | .flueClose p => some (8, p)
  | .keyProgram p _ => some (9, p)
  | _ => none

/-- A request packet that reaches its command: the port serves, no request is being worked on, the packet is good, its session
holds the lock and stands in a state that allows the command (R417 to R419, R437). -/
abbrev FlueTakes (cmd : Nat) (p : Sys2Proof.Flue) (lenOk allowed : Nat → Bool) (s : State) : Prop :=
  flueOn s = true ∧ s.fw.busy = false ∧ packetOk cmd p lenOk = true ∧ sessionFail cmd p s = none ∧
    allowed (s.fw.sess.elim 0 fun x => x.st) = true ∧ ¬(s.pwr.phase = .recovery ∧ (cmd = 6 ∨ cmd = 9))

/-- The response of status `st` to a request is ready to be read (R417, R418). -/
abbrev Answered (tag st : Nat) (payload : List Byte) (t : State) : Prop :=
  t.fw.resp = some (flPacket st tag payload) ∧ t.fw.busy = false

/-! ## The families of commands the frame statements speak of -/

/-- The rail, watch, stage, input and reset happenings. -/
def powerRow : Instr → Bool
  | .vioOkRise .. | .vioOkFall .. | .pgDebouncedGood .. | .pgLost .. | .pgLate .. | .enShort .. | .enOpen ..
  | .assistTest .. | .assistTestResult .. | .pgOpenTest .. | .pgStuck .. | .enFoldBack .. | .minOffElapsed ..
  | .marginSettleExpiry .. | .pgEdgeLatch .. | .commitmentEnd .. | .delayExpiry .. | .stepDeadlineExpiry ..
  | .offClassLimitExpiry | .offPauseExpiry | .dischMet .. | .offRunComplete | .heldOnRequestLaunch
  | .backoffExpiry .. | .heal .. | .groupRestart .. | .restartDelayExpiry | .restartWindowExpiry
  | .sysrstReleaseDelay | .watchdogGraceExpiry | .stageRegulated .. | .kindlingStartTimeout .. | .cycleLimitTrip ..
  | .hiccupEntry .. | .hiccupExpiry .. | .consecHicHeal .. | .senseOpen .. | .frozen .. | .nofb .. | .stageOv ..
  | .stageUv .. | .capFloor .. | .stageRetryBackoff .. | .stageRetryCntHeal .. | .inputLossDeclared | .inputRestored
  | .shedComparatorTrip | .batteryPoll | .batteryNotReadyOff | .overrunSafeOff .. | .bootOnRequest
  | .classSyncTimeout | .stackMemberLoss .. | .stackJoinTimeout | .pairAlone | .xrstInRelease => true
  | _ => false

/-- The engines' tasks. -/
def taskRow : Instr → Bool
  | .ledgerPass .. | .faultPolicy .. | .damperTask .. | .damperCapChange .. | .damperRaise .. | .damperRelax ..
  | .sharingRound .. | .converterPostProcessing .. | .telemetryPosting .. | .emberSnapshot .. | .sequencerService ..
  | .pmbusService .. | .stageControlTask .. | .phaseDiagnosticsTask .. | .ringService .. | .completionPosting ..
  | .rowExchange .. | .taskOverrun .. => true
  | _ => false

/-- The conversion happenings and the selections of the conversion block. -/
def convRow : Instr → Bool
  | .trgEdgeAccepted .. | .conversionEnd .. | .sliceUnclamp .. | .plausibilityRestore .. | .conversionDropped ..
  | .urgentConversionStart .. | .refrdySet .. | .referenceFaultTimeout .. | .refrdyFall .. | .cnvWselWrite ..
  | .cnvResLoRead .. => true
  | _ => false

/-- The row link's happenings. -/
def linkRow : Instr → Bool
  | .portSeek .. | .portLock .. | .portIdent .. | .portUp .. | .portRetrain .. | .syncFrame .. | .electFrame ..
  | .electionWin .. | .memberFrame .. | .statusFrame .. | .cmdFrame .. | .stackCommandLoss | .relayFrame ..
  | .rowstatFrame .. | .capFrame .. | .faultFrame .. | .faultBroadcast | .eventFrame .. | .telemFrame ..
  | .rowMasterLoss | .rowCapHoldExpiry | .pairEnFrame .. | .xrstOutRelease | .shadowReset | .journalFrame ..
  | .jackFrame .. | .journalResend | .mirrorFrame .. | .handoverQuietPoint | .referenceClockLost
  | .referenceClockReturn | .scaRselWrite .. => true
  | _ => false

/-- The recorder, flash, flue and firmware happenings. -/
def storeRow : Instr → Bool
  | .flashProgramDone .. | .flashEraseDone | .counterRingUpdate .. | .marginSweepStart | .sweepStep ..
  | .recordImageMake | .holdoffExpiry .. | .recorderFlush | .freezeTimeout | .nonceExpiry | .clearCommit
  | .clearErasure | .flueRead | .flueOpen .. | .flueHeader .. | .flueData .. | .dataProgrammed | .flueVerify ..
  | .flueActivate .. | .firmwareHandover .. | .handoverComplete | .flueConfirm .. | .flueStatus .. | .flueClose ..
  | .keyProgram .. | .flueSessionLapse | .firmwareProbationExpiry | .emberRecorderFlush .. | .journalMirrorWrite
  | .configProbationExpiry | .nvwpChange .. => true
  | _ => false

/-- The reads and writes with an effect of their own, the doorbells and the host interface. -/
def ringRow : Instr → Bool
  | .lockAutoOpen | .seqCtrlAbort .. | .fltCtrlFfClear .. | .fltCtrlSysrstRel .. | .stgLoadCommit ..
  | .glbLoadClear .. | .fltCntSelWrite .. | .evtCselWrite .. | .evtWclogPop .. | .glbFrameLoRead ..
  | .hstJheadLoRead | .hstJoldLoRead | .hstJmirLoRead | .evtWclog0Read | .fwHoverLoRead | .crDoorbell ..
  | .cqDoorbell .. | .erDoorbell .. | .trDoorbell .. | .descriptorFetchDone .. | .msixModerationExpiry ..
  | .busMasterEnable .. | .msixTableWrite .. | .unsupportedBarAccess .. => true
  | _ => false

/-- The commands of the rings, one row per opcode. -/
def commandRow : Instr → Bool
  | .nop .. | .powerOn .. | .powerOff .. | .groupOff .. | .progLaunch .. | .progAbort .. | .progLoad ..
  | .graphLoad .. | .flagsSet .. | .retryCancel .. | .margin .. | .ffClear .. | .sysrstRelease .. | .stageStart ..
  | .stageStop .. | .stageClear .. | .loopSetup .. | .capSet .. | .convStart .. | .convUrgent .. | .convCalZero ..
  | .convCalFull .. | .configLoad .. | .configActivate .. | .configRevert .. | .configCapture .. | .configConfirm ..
  | .journalRead .. | .alogRead .. | .countersRead .. | .stateRead .. | .recRead .. | .recFreeze .. | .recThaw ..
  | .recChallenge .. | .recClear .. | .tagWrite .. | .tagRead .. | .pairHandover .. => true
  | _ => false

end Sys2Proof.Machine
end

