-- ==== Sys2Proof/Certificates/Slice0/Obligations.lean ====
section
/-! DEFINITION. Certificates/Slice0/Obligations.lean: the statements for the provers, from the numbered rules of the spec. A statement
says for each command named where it completes, what it then holds and what stays; the frames of whole families stand at the end. -/

open Sys2Proof Sys2Proof.Machine

/-- R22, R23: the word code. The columns are 120 vectors of weight 3, then the 136 lowest of weight 5, each in rising
order; a check bit is the exclusive OR of the data bits whose column has its bit. A word read as it was written is
clean; one inverted bit, of the data or of the check bits, is corrected at that bit and the data written is delivered;
two inverted bits are uncorrectable, and the data is delivered as read. -/
def Obligations.WordCode : Prop :=
  (wcColumns.length = 256 ∧ (wcColumns.take 120).Pairwise (· < ·) ∧ (wcColumns.drop 120).Pairwise (· < ·) ∧
    (∀ v, v ∈ wcColumns.take 120 ↔ v < 1024 ∧ (List.range 10).countP (fun j => v.testBit j) = 3) ∧
    (∀ v ∈ wcColumns.drop 120, v < 1024 ∧ (List.range 10).countP (fun j => v.testBit j) = 5) ∧
    (∀ v, v < 1024 → (List.range 10).countP (fun j => v.testBit j) = 5 → v ∉ wcColumns.drop 120 →
      ∀ u ∈ wcColumns.drop 120, u < v)) ∧
  (∀ (d : W256) (j : Nat), j < 10 → (wcCheck d).getLsbD j =
    (List.range 256).foldl (fun x i => x ^^ (d.getLsbD i && (wcColumns.getD i 0).testBit j)) false) ∧
  (∀ (d : W256) (c : BitVec 10), wcDecode d c = .clean ↔ c = wcCheck d) ∧
  (∀ (d : W256) (c : BitVec 10), wcDecode d c = .uncorrectable ↔ c ≠ wcCheck d ∧
    (∀ i, i < 256 → (wcCheck d ^^^ c).toNat ≠ wcColumns.getD i 0) ∧ ∀ j, j < 10 → (wcCheck d ^^^ c).toNat ≠ 2 ^ j) ∧
  (∀ (d : W256) (c : BitVec 10) (i : Nat), i < 256 → (wcDecode d c = .corrected i ↔
    (wcCheck d ^^^ c).toNat = wcColumns.getD i 0)) ∧
  (∀ (d : W256) (c : BitVec 10) (j : Nat), j < 10 → (wcDecode d c = .corrected (256 + j) ↔ (wcCheck d ^^^ c).toNat = 2 ^ j)) ∧
  (∀ (d : W256), wcData d .clean = d ∧ wcData d .uncorrectable = d) ∧
  (∀ (d : W256) (i : Nat), i < 256 → wcDecode (d ^^^ BitVec.ofNat 256 (2 ^ i)) (wcCheck d) = .corrected i ∧
    wcData (d ^^^ BitVec.ofNat 256 (2 ^ i)) (.corrected i) = d) ∧
  (∀ (d : W256) (j : Nat), j < 10 → wcDecode d (wcCheck d ^^^ BitVec.ofNat 10 (2 ^ j)) = .corrected (256 + j) ∧
    wcData d (.corrected (256 + j)) = d) ∧
  (∀ (d : W256) (i k : Nat), i < 256 → k < 256 → i ≠ k →
    wcDecode (d ^^^ BitVec.ofNat 256 (2 ^ i) ^^^ BitVec.ofNat 256 (2 ^ k)) (wcCheck d) = .uncorrectable) ∧
  (∀ (d : W256) (i j : Nat), i < 256 → j < 10 →
    wcDecode (d ^^^ BitVec.ofNat 256 (2 ^ i)) (wcCheck d ^^^ BitVec.ofNat 10 (2 ^ j)) = .uncorrectable) ∧
  (∀ (d : W256) (j k : Nat), j < 10 → k < 10 → j ≠ k →
    wcDecode d (wcCheck d ^^^ BitVec.ofNat 10 (2 ^ j) ^^^ BitVec.ofNat 10 (2 ^ k)) = .uncorrectable)

/-- R501: what is rounded to the nearest integer is floor(x + 1/2), whatever the sign of x, and what is rounded up is
ceil(x); 2.5 gives 3, −2.5 gives −2 and −2.6 gives −3. -/
def Obligations.Rounding : Prop :=
  (∀ (a : Int) (b : Nat), 0 < b → rdiv a b = ⌊(a : ℚ) / b + 1 / 2⌋) ∧
  (∀ (a b : Nat), 0 < b → ((cdiv a b : Nat) : Int) = ⌈(a : ℚ) / b⌉) ∧
  (rdiv 5 2 = 3 ∧ rdiv (-5) 2 = -2 ∧ rdiv (-26) 10 = -3)

/-- R42, R43: the fraction of a time-stamp is floor(c × 256 / 2000) and never falls as c rises, so two time-stamps of one
frame compare in the order of their cycles; frames compare modulo 2^48, no two both ways. -/
def Obligations.TimeStamps : Prop :=
  (∀ c, c < 2000 → (fracOf c).toNat = c * 256 / 2000) ∧
  (∀ c d, c ≤ d → (fracOf c).toNat ≤ (fracOf d).toNat) ∧
  (∀ (c : Nat) (s : State), (s.tsAt c).frame = s.clk.frame ∧ (s.tsAt c).frac = fracOf c) ∧
  (∀ a b : Frame, frameBefore a b = true ↔
    1 ≤ (b.toNat + 2 ^ 48 - a.toNat) % 2 ^ 48 ∧ (b.toNat + 2 ^ 48 - a.toNat) % 2 ^ 48 ≤ 2 ^ 47 - 1) ∧
  (∀ a b : Frame, ¬(frameBefore a b = true ∧ frameBefore b a = true)) ∧
  (∀ a b : Frame, frameBefore a b = true ∨ frameBefore b a = true ∨ a = b ∨ (b - a).toNat = 2 ^ 47)

/-- R70, R73, R74, R77, R160: PG debounced good, the assist test's start, MIN_OFF elapsed and the edge latch complete on
every rail the rule speaks of, and change nothing but that rail. R62, R65, R73: the supply of a bank is lost or found,
and a driver folds back. As VIO_OK falls every used rail of the bank is in HIZ and the bank-supply event is pending.
As it rises the rails of the bank that nothing else holds leave HIZ. -/
def Obligations.RailPinsAndSupply : Prop :=
  (∀ i s, i < 96 → (s.rail i).st ≠ .unused → s.vioOk i = true →
    Completes (.pgDebouncedGood i) s fun t => (t.rail i).db = true ∧ (t.rail i).raw = true ∧ (t.rail i).edge = none ∧
      (t.rail i).st = (if (s.rail i).st = .ramping then .on else (s.rail i).st) ∧ (t.rail i).en = (s.rail i).en ∧
      t = { s with rails := t.rails } ∧ ∀ j, j ≠ i → t.rail j = s.rail j) ∧
  (∀ i s, i < 96 → readbackOpen s i = true → rcDriven (s.rcfg i) (s.rail i).enBall = false → bit (s.rcfg i) 11 = false →
      (s.rail i).assist = false →
    Completes (.assistTest i) s fun t => (t.rail i).assist = true ∧ 4 ≤ (t.rail i).mis ∧ (t.rail i).st = (s.rail i).st ∧
      t = { s with rails := t.rails } ∧ ∀ j, j ≠ i → t.rail j = s.rail j) ∧
  (∀ i s, i < 96 → Completes (.minOffElapsed i) s fun t =>
      s.cf (rbase i) 27 16 ≤ (t.rail i).offTicks ∧ (t.rail i).st = (s.rail i).st ∧ (t.rail i).en = (s.rail i).en ∧
      t = { s with rails := t.rails } ∧ ∀ j, j ≠ i → t.rail j = s.rail j) ∧
  (∀ i c s, i < 96 → (s.rail i).st ≠ .unused → Completes (.pgEdgeLatch i c) s fun t =>
      (t.rail i).edge = some ((s.rail i).edge.getD (s.tsAt c)) ∧ (t.rail i).db = (s.rail i).db ∧
      t = { s with rails := t.rails } ∧ ∀ j, j ≠ i → t.rail j = s.rail j) ∧
  (∀ b s, b < 2 → (s.bank b).powered = true → (s.bank b).vioOk = false →
    Completes (.vioOkRise b) s fun t => (t.bank b).vioOk = true ∧ (∀ c, c ≠ b → t.bank c = s.bank c) ∧
      (∀ i, bankOf i ≠ b → t.rail i = s.rail i) ∧
      ∀ i, i < 96 → bankOf i = b → (s.rail i).st = .hiz → s.pwr.xrst = false → (s.rail i).fold = false →
        (t.rail i).st = (if (s.rail i).hizLate && rcFailOn (s.rcfg i) then .ramping else .off)) ∧
  (∀ b s, b < 2 → (s.bank b).vioOk = true →
    Completes (.vioOkFall b) s fun t => (t.bank b).vioOk = false ∧ (∀ c, c ≠ b → t.bank c = s.bank c) ∧ Pending (0x2E + b) t ∧
      ∀ i, i < 96 → bankOf i = b → (s.rail i).st ≠ .unused → (t.rail i).st = .hiz) ∧
  (∀ i s, i < 96 → s.drives i = true → Completes (.enFoldBack i) s fun t =>
    (t.rail i).st = .hiz ∧ (t.rail i).en = false ∧ (t.rail i).enBall = false ∧ (t.rail i).fold = true ∧ Pending 0x30 t ∧
      ∀ j, j ≠ i → t.rail j = s.rail j)

/-- R77, R78, R80, R109, R138, R144, R159: what the pin comparators, the open-wire test, PG stuck, the PG deadline and the
debounced PG find on a rail is one fault of its kind, with the direction and the onset the rules give it: a new entry
of the fault queue and, where none is held, the first-fault capture. R79: an open-wire test that fails for the first
time is remembered with the time of its sample, one that passes clears the count, and neither is a fault. -/
def Obligations.RailFaults : Prop :=
  (∀ i s, i < 96 → (s.rail i).st = .on → NoFaultWaiting i 0 s → Completes (.pgLost i) s
    (FaultTaken i 0 false ((s.rail i).edge.getD
      (if (s.rail i).db && (s.rail i).dbCnt = 0 then s.tsB else (s.rail i).dbOnset)) s)) ∧
  (∀ i s, i < 96 → (s.rail i).st = .releasing → s.flt.found = [] → Completes (.pgLost i) s fun t =>
    (t.rail i).st = .off ∧ (t.rail i).db = false ∧ (t.rail i).en = (s.rail i).en ∧ t.flt = s.flt ∧
      ∀ j, j ≠ i → t.rail j = s.rail j) ∧
  (∀ i n s, i < 96 → (s.rail i).st = .ramping → (s.rail i).deadline = some n → NoFaultWaiting i 1 s →
    Completes (.pgLate i) s (FaultTaken i 1 false s.tsB s)) ∧
  (∀ i hi ilim s, i < 96 → readbackOpen s i = true → rcDriven (s.rcfg i) (s.rail i).enBall = true →
      hi ≠ rcLevel (s.rcfg i) (s.rail i).enBall → NoFaultWaiting i 2 s →
    Completes (.enShort i hi ilim) s (FaultTaken i 2 hi (if (s.rail i).mis = 0 then s.tsB else (s.rail i).misOnset) s)) ∧
  (∀ i s, i < 96 → readbackOpen s i = true → rcDriven (s.rcfg i) (s.rail i).enBall = false → bit (s.rcfg i) 11 = true →
      NoFaultWaiting i 3 s →
    Completes (.enOpen i) s (FaultTaken i 3 false (if (s.rail i).mis = 0 then s.tsB else (s.rail i).misOnset) s)) ∧
  (∀ i s, i < 96 → (s.rail i).assist = true → NoFaultWaiting i 2 s →
    Completes (.assistTestResult i true) s (FaultTaken i 2 (rcMode (s.rcfg i) = 1) (s.rail i).misOnset s)) ∧
  (∀ i s, i < 96 → (s.rail i).assist = true → NoFaultWaiting i 3 s →
    Completes (.assistTestResult i false) s (FaultTaken i 3 false (s.rail i).misOnset s)) ∧
  (∀ i level t0 s, i < 96 → (fld (s.rcfg i) 7 6 = 1 ∨ fld (s.rcfg i) 7 6 = 2) → s.vioOk i = true →
      ((s.rail i).st = .off ∨ (s.rail i).st = .on) → (s.rail i).owFail = some t0 →
      (s.rail i).owTest.getD (s.rail i).rx ≠ level → NoFaultWaiting i 4 s →
    Completes (.pgOpenTest i level) s (FaultTaken i 4 false t0 s)) ∧
  (∀ i s, i < 96 → s.cf (rbase i + 4) 23 16 ≠ 0 → (s.rail i).stuckDone = false → (s.rail i).st = .releasing →
      NoFaultWaiting i 5 s →
    Completes (.pgStuck i) s (FaultTaken i 5 false s.tsB s)) ∧
  (∀ i level s, i < 96 → (fld (s.rcfg i) 7 6 = 1 ∨ fld (s.rcfg i) 7 6 = 2) → s.vioOk i = true →
    ((s.rail i).st = .off ∨ (s.rail i).st = .on) → (s.rail i).owFail = none → s.flt.found = [] →
    Completes (.pgOpenTest i level) s fun t =>
      (t.rail i).owFail = (if (s.rail i).owTest.getD (s.rail i).rx = level then none else
        some { frame := s.clk.last, frac := fracOf 1500 }) ∧
      (t.rail i).st = (s.rail i).st ∧ t.flt = s.flt ∧ ∀ j, j ≠ i → t.rail j = s.rail j)

/-- R140, R145, R154: PG lost on a rail in ON outside shutdown. Under IGNORE the rail goes back to RAMPING with EN as it
was; under RETRY_RAIL with retries left EN is dropped, the rail is FAULTED and the backoff runs. -/
def Obligations.PgLostReaction : Prop :=
  ∀ i s, i < 96 → (s.rail i).st = .on → s.flt.found = [] → s.off.run = false → s.shadow = false →
    (s.cf (fbase i) 1 0 = 0 → Completes (.pgLost i) s fun t =>
      (t.rail i).st = .ramping ∧ (t.rail i).en = (s.rail i).en ∧ (t.rail i).lastKind = 0 ∧ ∀ j, j ≠ i → t.rail j = s.rail j) ∧
    (s.cf (fbase i) 1 0 = 1 → (s.rail i).retryCnt < s.cf (fbase i + 4) 15 12 → Completes (.pgLost i) s fun t =>
      (t.rail i).st = .faulted ∧ (t.rail i).en = false ∧ (t.rail i).retryPend = true ∧
        (t.rail i).backoff = orDef (s.cf (fbase i + 4) 11 0) 1 ∧ (t.rail i).lastKind = 0 ∧ ∀ j, j ≠ i → t.rail j = s.rail j)

/-- R102, R105: the count of a DELAY has run out: the step retires, and the entry after it is the program's step, fetched
at this boundary where its word can be read; a program that has ended is told of, and no other changes. R102, R104,
R108: the deadline of a WAIT runs out while its condition is false and ONFAIL is ABORT: the program ends with TIMEOUT
at that step. R179: a commitment that ends is gone from the sums, and no other. -/
def Obligations.ProgramTimersAndCommitments : Prop :=
  (∀ n it s, n < 64 → (s.prog n).state = 1 → (s.prog n).items = [it] → opOf it.w = 5 →
    768 ≤ (s.prog n).next → (s.prog n).next ≤ 8191 → opOf (s.entryAt (s.prog n).next) ≠ 2 →
    hasExt (s.entryAt (s.prog n).next) = false → stepOk s (s.entryAt (s.prog n).next) = true →
    s.wordOut 0x11 ((s.prog n).next / 4) ≠ .uncorrectable →
    Completes (.delayExpiry n) s fun t => (t.prog n).state = 1 ∧ (t.prog n).items = [newItem s (s.prog n).next] ∧
      (t.prog n).step = (s.prog n).next ∧ (t.prog n).next = (s.prog n).next + 1 ∧
      ∀ m, m < 64 → m ≠ n → t.prog m = { s.prog m with untold := false }) ∧
  (∀ n it d s, n < 64 → (s.prog n).state = 1 → (s.prog n).items = [it] → opOf it.w = 4 → it.deadline = some d →
    condTrue s (nbits it.w 31 0) = false → onFail it.w = false → s.role = 0 →
    Completes (.stepDeadlineExpiry n) s fun t => (t.prog n).state = 4 ∧ (t.prog n).status = 5 ∧ (t.prog n).step = it.idx ∧
      (t.prog n).items = [] ∧ ∀ m, m < 64 → m ≠ n → t.prog m = { s.prog m with untold := false }) ∧
  (∀ k s, Completes (.commitmentEnd k) s fun t =>
    (∀ c, c ∈ t.drt.commits ↔ c ∈ s.drt.commits ∧ c.key ≠ k) ∧ t = { s with drt := { s.drt with commits := t.drt.commits } })

/-- R115, R116: the off-sequencer. A class whose LIMIT expires is late, raises its event, and the next class opens; after
a PAUSE the walk releases the rail of the next entry; a rail has met its DISCH; a run that completes is over, and
DOMAIN is OFF after a full run. R94, R95, R118: a held on request launches as the run ends: it is no longer pending,
and DOMAIN has left the off run. -/
def Obligations.OffSequencer : Prop :=
  (∀ s, s.off.run = true → s.off.opened = true → classDone s = false → opOf (s.offAt (nextClass s s.off.pos)) = 0x22 →
    Completes .offClassLimitExpiry s fun t => t.off.late = true ∧ t.off.run = true ∧ t.off.opened = true ∧
      t.off.cls = nbits (s.offAt (nextClass s s.off.pos)) 57 55 ∧ t.off.pos = nextClass s s.off.pos + 1 ∧
      t.off.limit = 32 * orDef (nbits (s.offAt (nextClass s s.off.pos)) 11 0) 4095 ∧ Pending 0x40 t ∧ t.rails = s.rails) ∧
  (∀ r s, s.off.run = true → s.off.opened = true → s.off.pause ≠ 0 → opOf (s.offAt s.off.pos) = 0x21 →
      nbits (s.offAt s.off.pos) 57 51 = r → (s.offAt s.off.pos).testBit 50 = false → needsRelease s r = true →
      (s.rail r).st.live = true →
    Completes .offPauseExpiry s fun t => (t.rail r).en = false ∧
      (t.rail r).st = (if (s.rail r).db then .releasing else .off) ∧ t.off.pos = s.off.pos + 1 ∧
      t.off.toRelease = s.off.toRelease.filter (· ≠ r) ∧ t.off.released = r :: s.off.released ∧
      ∀ j, j ≠ r → t.rail j = s.rail j) ∧
  (∀ i d s, i < 96 → s.off.run = true → s.off.opened = true → (s.rail i).st.resting = true → dischOf s i = some d →
    Completes (.dischMet i) s fun t => d ≤ (t.rail i).rest ∧ (t.rail i).st = (s.rail i).st ∧ t = { s with rails := t.rails } ∧
      ∀ j, j ≠ i → t.rail j = s.rail j) ∧
  (∀ s, s.off.run = true → Completes .offRunComplete s fun t => t.off.run = false ∧ t.off.set = [] ∧
    (s.off.full = true → s.flt.restartOwed = false → t.seq.domain = .off)) ∧
  (∀ s, s.seq.onPending = true → s.off.run = false → Completes .heldOnRequestLaunch s fun t =>
    t.seq.onPending = false ∧ t.flt.restartLeft = none ∧ t.seq.onset = s.onSet ∧
      (t.seq.domain = .poweringUp ∨ t.seq.domain = .up ∨ t.seq.domain = .partialUp))

/-- R145, R148, R150, R153, R155, R166: retries, healing and restarts. Backoff run out: a retry candidate. GOOD_TICKS
reach the healing count: the retry count clears. A group restart and the restart of the domain are counted. A domain
UP for the window clears its count. SYSRST# goes high after its delay. A watchdog run past its grace releases every EN
still asserted. -/
def Obligations.FaultPolicyTimers : Prop :=
  (∀ i s, i < 96 → (s.rail i).retryPend = true → (s.rail i).retry = none → Completes (.backoffExpiry i) s fun t =>
    (t.rail i).retry = some { since := s.clk.frame } ∧ (t.rail i).backoff = 0 ∧ (t.rail i).st = (s.rail i).st ∧
      t = { s with rails := t.rails } ∧ ∀ j, j ≠ i → t.rail j = s.rail j) ∧
  (∀ i s, i < 96 → (s.rail i).db = true → s.cf (fbase i + 4) 25 18 ≠ 0 → Completes (.heal i) s fun t =>
    (t.rail i).retryCnt = 0 ∧ (t.rail i).escalated = false ∧ s.cf (fbase i + 4) 25 18 ≤ (t.rail i).goodTicks ∧
      t = { s with rails := t.rails } ∧ ∀ j, j ≠ i → t.rail j = s.rail j) ∧
  (∀ n s, n < 16 → (s.grp n).left.isSome = true → (s.eng 1).halted = false → Completes (.groupRestart n) s fun t =>
    (t.grp n).left = none ∧ (t.grp n).count = sat 15 ((s.grp n).count + 1) ∧ ∀ m, m ≠ n → t.grp m = s.grp m) ∧
  (∀ s, s.flt.restartLeft.isSome = true → Completes .restartDelayExpiry s fun t =>
    t.flt.restartLeft = none ∧ t.flt.restarts = sat 15 (s.flt.restarts + 1)) ∧
  (∀ s, s.seq.domain = .up → Completes .restartWindowExpiry s fun t =>
    t.flt.restarts = 0 ∧ t.flt.restartExh = s.flt.restartExh ∧ t = { s with flt := t.flt }) ∧
  (∀ s, s.flt.sysrst = true → s.flt.rstLeft.isSome = true → Completes .sysrstReleaseDelay s fun t =>
    t.flt.sysrst = false ∧ t.flt.rstLeft = none ∧ t = { s with flt := t.flt }) ∧
  (∀ s, s.flt.wdtRun = true → s.flt.grace.isSome = true → s.off.run = true → Completes .watchdogGraceExpiry s fun t =>
    t.flt.wdtHold = true ∧ t.flt.grace = none ∧
      ∀ i, i < 96 → (if (s.rail i).st.live then (t.rail i).en = false ∧ (t.rail i).st = (if (s.rail i).db then .releasing else .off)
        else t.rail i = s.rail i))

/-- R40, R356, R445, R446, R456: the power of PD0. As it comes or goes the frame counter is 0, every register word is at
its reset value and no rail, engine or stage is in use; the images and records in flash, the mirror of the journal and
the waiting commands stay, and with no program or erase in progress every codeword of the flash does. R445 to R449,
R456: the resets in operation. PORST#, the watchdog, the flue and a failed boot reset the part with their cause: no
rail is used and no EN asserted, the register words are at their reset values, the frame counter and the lifetime
counters go on. PORST# has no effect in ember mode. Ember mode ends in the reset whose boot is of cause 2. -/
def Obligations.PowerAndResets : Prop :=
  (∀ s, Completes .pd0PowerUp s fun t => t.clk.frame = 0 ∧ t.pwr.phase = .reset ∧ t.pwr.nextCause = 1 ∧
    t.bar0 = State.reset.bar0 ∧ t.cfg = State.reset.cfg ∧ t.rails = [] ∧ t.engs = [] ∧ t.stgs = [] ∧ t.jrn.head = 0 ∧
    t.jrn.mirror = s.jrn.mirror ∧ t.nv.images = s.nv.images ∧ t.nv.stored = s.nv.stored ∧ t.nv.counters = s.nv.counters ∧
    t.fw.stored = s.fw.stored ∧ t.recd.sects = s.recd.sects ∧ t.pending = s.pending ∧
    (s.nv.erases = [] → jobRunning s = none → t.nv.flash = s.nv.flash)) ∧
  (∀ s, Completes .pd0PowerLoss s fun t => t.clk.frame = 0 ∧ t.pwr.phase = .dead ∧ t.bar0 = State.reset.bar0 ∧
    t.cfg = State.reset.cfg ∧ t.rails = [] ∧ t.engs = [] ∧ t.stgs = [] ∧ t.jrn.mirror = s.jrn.mirror ∧
    t.nv.images = s.nv.images ∧ t.nv.stored = s.nv.stored ∧ t.nv.counters = s.nv.counters ∧ t.fw.stored = s.fw.stored ∧
    t.recd.sects = s.recd.sects ∧ t.pending = s.pending ∧
    (s.nv.erases = [] → jobRunning s = none → t.nv.flash = s.nv.flash)) ∧
  (∀ s, s.pwr.phase = .run → Completes .porstAsserted s fun t => ResetOf 3 s t ∧ t.pwr.porst = true) ∧
  (∀ s, s.pwr.phase = .ember → Completes .porstAsserted s fun t =>
    t = { s with pwr := { s.pwr with porst := true, ready := 0 } }) ∧
  (∀ s, s.pwr.phase = .run → s.flt.wdtRun = true → Completes .watchdogReset s fun t =>
    ResetOf 4 s t ∧ t.flt.restarts = s.flt.restarts ∧ t.flt.wdtExp = s.flt.wdtExp) ∧
  (∀ s, s.pwr.phase = .recovery → s.fw.recReset.isSome = true → Completes .recoveryReset s fun t =>
    ResetOf 7 s t ∧ t.pwr.ignoreRecov = true) ∧
  (∀ s, (s.pwr.phase = .rom ∨ s.pwr.phase = .start ∨ s.pwr.phase = .waitA) → s.fw.state.phase ≠ 2 →
    Completes .bootFailure s fun t => ResetOf 6 s t ∧ t.pwr.bootFail = sat 3 (s.pwr.bootFail + 1)) ∧
  (∀ s, (s.pwr.phase = .rom ∨ s.pwr.phase = .start ∨ s.pwr.phase = .waitA) → s.fw.state.phase = 2 →
    Completes .bootFailure s fun t => ResetOf 6 s t ∧ t.pwr.bootFail = s.pwr.bootFail ∧ t.fw.state.phase = 0 ∧
      t.fw.stored = some t.fw.state) ∧
  (∀ s, s.pwr.phase = .ember → Completes .emberModeExit s fun t => t.pwr.phase = .reset ∧ t.pwr.nextCause = 2 ∧
    t.pwr.writing = none ∧ t.clk.frame = s.clk.frame ∧ t.cfg = State.reset.cfg ∧ ∀ i, (t.rail i).st = .unused)

/-- R37, R195, R196, R457: a power failure in operation takes the part into ember mode with every rail unused; an armed
part has the ember record written, with the time-stamp of the failure; a part not armed writes none, and is done once
the codeword being programmed is. In ember mode the recorder's images go to flash, and leave the buffer. -/
def Obligations.EmberMode : Prop :=
  (∀ c k s, s.pwr.phase = .run → s.nv.armed = true → Completes (.powerFailure c k) s fun t => t.pwr.phase = .ember ∧
    (∀ i, (t.rail i).st = .unused) ∧ t.cfg = State.reset.cfg ∧ t.pwr.emberDone = false ∧
    t.pwr.emberSeq = s.pwr.emberSeq + 1 ∧
    ∃ e, t.pwr.writing = some e ∧ e.pf = { frame := s.clk.frame + 1, frac := fracOf k } ∧ e.seq = s.pwr.emberSeq % 2 ^ 32 ∧
      ∃ j ∈ t.nv.jobs, j.use = .ember e) ∧
  (∀ c k s, s.pwr.phase = .run → s.nv.armed = false → Completes (.powerFailure c k) s fun t => t.pwr.phase = .ember ∧
    (∀ i, (t.rail i).st = .unused) ∧ t.pwr.emberDone = (jobRunning (eraseAbort s)).isNone ∧
    t.pwr.writing = none ∧ t.nv.jobs = [] ∧ t.pwr.emberSeq = s.pwr.emberSeq) ∧
  (∀ im n s, s.pwr.phase = .ember → s.recd.buf = [im] → im.sev ≤ 3 → im.refreshed = false → 0 < n →
      (placeEmber im s).1 = true →
    Completes (.emberRecorderFlush n) s fun t => t.pwr.flushed = s.pwr.flushed ++ [im.rnum] ∧ t.recd.buf = [])

/-- R442, R444, R448, R377: pins and supplies. A supply is good; XRST_IN# is seen at its boundary; the reference clock is
lost or back; NVWP takes its level. Nothing else changes. R448, R73: XRST_IN# released. A part that waits for it can
boot with cause 5; the rails in HIZ that nothing else holds leave HIZ. -/
def Obligations.SupplyPins : Prop :=
  (∀ k s, k < 4 → Completes (.supplyGood k) s fun t => tget 0 t.pwr.good k = 64 ∧
    (∀ j, j ≠ k → tget 0 t.pwr.good j = tget 0 s.pwr.good j) ∧ t = { s with pwr := { s.pwr with good := t.pwr.good } }) ∧
  (∀ s, Completes .xrstInAssert s fun t => t.pwr.xrst = true ∧ t = { s with pwr := { s.pwr with xrst := t.pwr.xrst } }) ∧
  (∀ s, s.pwr.phase = .run → Completes .referenceClockLost s fun t => t.pwr.fallback = true ∧ t.sca.aligned = false ∧
    Pending 0x14 t ∧ EventsOnly { s with pwr := t.pwr, sca := t.sca } t) ∧
  (∀ s, Completes .referenceClockReturn s fun t => t.pwr.fallback = false ∧
    t = { s with pwr := { s.pwr with fallback := t.pwr.fallback } }) ∧
  (∀ l s, Completes (.nvwpChange l) s fun t => t.nv.nvwp = l ∧
    t = { s with nv := { s.nv with nvwp := l, nvwpCnt := t.nv.nvwpCnt } }) ∧
  (∀ pd s, pd < 12 → tget 0 s.pwr.pending pd ≠ 0 → Completes (.domainPowerUp pd) s fun t =>
    t.pwr.domains.testBit pd = true ∧ tget 0 t.pwr.pending pd = 0 ∧ (pd = 8 → (t.bank 0).powered = true) ∧
      (pd = 9 → (t.bank 1).powered = true) ∧ (t.clk, t.evt, t.rails, t.cfg) = (s.clk, s.evt, s.rails, s.cfg)) ∧
  (∀ s, s.pwr.xrst = true → Completes .xrstInRelease s fun t => t.pwr.xrst = false ∧
    (s.pwr.phase = .reset → s.pwr.nextCause = 5 → t.pwr.ready = 64) ∧
    ∀ i, i < 96 → (s.rail i).st = .hiz → s.vioOk i = true → (s.rail i).fold = false →
      (t.rail i).st = (if (s.rail i).hizLate && rcFailOn (s.rcfg i) then .ramping else .off))

/-- R364, R435, R437, R447, R450 to R454: the boot. m0 comes with PORST# and XRST_IN# released, samples the straps and
takes the cause; a confirmed bank that verifies runs under the firmware record found in flash; RECOV# leads to
recovery mode. The boot scan ends with A due 128 frames on, TORN counted, and the ember writer armed or every missing
twin being written. A starts the part: DOMAIN is OFF, SYSRST# is asserted, the boot's failures are cleared. R306,
R454, R459: the boot's on request at A + 1. It is made once: by relay to the master from a member of a stack, held
while a stack or pair forms, else launched. -/
def Obligations.Boot : Prop :=
  (∀ b s, s.pwr.phase = .reset → s.pwr.porst = false → s.pwr.xrst = false → b.testen = true → Completes (.bootBegin b) s fun t =>
    t = { s with pwr := { s.pwr with phase := .test } }) ∧
  (∀ b s, s.pwr.phase = .reset → (s.pwr.porst = true ∨ s.pwr.xrst = true) → Completes (.bootBegin b) s (· = s)) ∧
  (∀ b r s, s.pwr.phase = .reset → s.pwr.porst = false → s.pwr.xrst = false → b.testen = false → b.romBad = false →
      b.recov = false → s.pwr.bootFail ≠ 3 → fwFound (tailDone s) = some r → r.phase = 0 →
      (if r.confBank then b.okB else b.okA) = true → intentFound (romScan s) = none → (s.eng 0).halted = false →
    Completes (.bootBegin b) s fun t => t.pwr.phase = .rom ∧ t.pwr.cause = s.pwr.nextCause ∧ t.pwr.since = 0 ∧
      t.pwr.mcand = b.mcand ∧ t.fw.runBank = r.confBank ∧ t.fw.state = r ∧ (t.eng 0).armed = true) ∧
  (∀ b s, s.pwr.phase = .reset → s.pwr.porst = false → s.pwr.xrst = false → b.testen = false → b.romBad = false →
      b.recov = true → s.pwr.ignoreRecov = false →
    Completes (.bootBegin b) s fun t => t.pwr.phase = .recovery ∧ t.pwr.cause = s.pwr.nextCause ∧ t.pwr.recov = true) ∧
  (∀ l s u, s.pwr.phase = .rom → u = each l upset s → Completes (.firmwareStart l) s fun t => t.pwr.phase = .waitA ∧
    t.pwr.toA = some 128 ∧
    (t.nv.armed = true ∨ (t.nv.jobs.any fun j => j.only) = true) ∧ t.nv.torn = sat 0xFFFF (tornCount u) ∧
    (stateFound u = none → t.pwr.genA = 0)) ∧
  (∀ s, s.pwr.phase = .waitA → Completes .bootActivation s fun t => t.pwr.phase = .run ∧ t.pwr.toA = none ∧
    t.seq.domain = .off ∧ t.flt.sysrst = true ∧ t.pwr.bootFail = 0) ∧
  (∀ s, s.pwr.onAtA = true → s.role = 2 → Completes .bootOnRequest s fun t => t.pwr.onAtA = false ∧
    t.out = .relay { opcode := 1 } :: s.out) ∧
  (∀ s, s.pwr.onAtA = true → s.role ≠ 2 → s.pwr.cause ≠ 4 → s.shadow = false → joining s = true →
    Completes .bootOnRequest s fun t => t.pwr.onAtA = false ∧ t.pwr.heldOn = true) ∧
  (∀ s, s.pwr.onAtA = true → s.role ≠ 2 → s.pwr.cause ≠ 4 → s.shadow = false → joining s = false → s.seq.domain = .off →
      s.off.run = false → s.off.ended = false → revertWaits s = false →
    Completes .bootOnRequest s fun t => t.pwr.onAtA = false ∧ t.seq.onset = s.onSet ∧
      (t.seq.domain = .poweringUp ∨ t.seq.domain = .up ∨ t.seq.domain = .partialUp))

/-- R164 to R166, R437: a watchdog expiry. During a boot it is a failed boot. In operation, of an engine that counts for
the tray, the full off run begins with SYSRST# asserted, and the expiry is counted and told. -/
def Obligations.WatchdogExpiry : Prop :=
  (∀ e s, e < 8 → (s.eng e).armed = true → s.pwr.phase = .rom → s.fw.state.phase ≠ 2 → Completes (.watchdogExpiry e) s fun t =>
    ResetOf 6 s t ∧ t.pwr.bootFail = sat 3 (s.pwr.bootFail + 1)) ∧
  (∀ e s, e < 4 → (s.eng e).armed = true → s.pwr.phase = .run → Completes (.watchdogExpiry e) s fun t =>
    t.flt.wdtRun = true ∧ t.flt.wdtExp = sat 255 (s.flt.wdtExp + 1) ∧ t.flt.sysrst = true ∧ t.off.run = true ∧
      t.off.full = true ∧ Pending 0x2A t)

/-- R264, R270 to R272, R276, R277: a stage that may fault and whose start times out or whose hardware monitor finds its
fault is in SAFE_OFF with that cause. R269: HICCUP. OC_N consecutive limited cycles are counted; with hiccups left the
stage rests in HICCUP, is counted and raises its event; the rest over, it kindles with its limit counts at 0. -/
def Obligations.StageFaultsAndHiccup : Prop :=
  (∀ st s, st < 4 → (s.stg st).st = .kindling → (s.stg st).preset = true →
    Completes (.kindlingStartTimeout st) s (SafeOffBy st 11)) ∧
  (∀ st l s, st < 4 → s.cb (sbase st) 9 = true → (s.stg st).st.faultable = true → NoStageFound s →
    Completes (.senseOpen st l) s (SafeOffBy st 1)) ∧
  (∀ st s, st < 4 → (s.stg st).switching = true → (s.stg st).st.faultable = true → NoStageFound s →
    Completes (.frozen st) s (SafeOffBy st 2)) ∧
  (∀ st s, st < 4 → (s.stg st).st.running = true → ((s.stg st).st ≠ .kindling ∨ (s.stg st).switching = true) →
    NoStageFound s → Completes (.nofb st) s (SafeOffBy st 3)) ∧
  (∀ st s, st < 4 → s.sfld st 0x10 11 0 ≠ 0 → (s.stg st).st.running = true → NoStageFound s →
    Completes (.stageOv st) s (SafeOffBy st 4)) ∧
  (∀ st s, st < 4 → s.sfld st 0x10 23 12 ≠ 0 → (s.stg st).st.isReg = true → NoStageFound s →
    Completes (.stageUv st) s (SafeOffBy st 5)) ∧
  (∀ st s, st < 4 → (s.stg st).st.faultable = true → Completes (.overrunSafeOff st) s (SafeOffBy st 8)) ∧
  (∀ st s, st < 4 → (s.stg st).st.running = true → s.sfld st 0x18 23 16 ≠ 0 → s.sfld st 0x18 23 16 ≤ (s.stg st).consecHic →
    NoStageFound s → Completes (.hiccupEntry st) s (SafeOffBy st 6)) ∧
  (∀ st s, st < 4 → (s.stg st).st.running = true → (s.sfld st 0x18 23 16 = 0 ∨ (s.stg st).consecHic < s.sfld st 0x18 23 16) →
      NoStageFound s → s.flt.found = [] →
    Completes (.hiccupEntry st) s fun t => (t.stg st).st = .hiccup ∧ (t.stg st).switching = false ∧
      (t.stg st).hicLeft = orDef (s.sfld st 0x18 15 0) 1 ∧ (t.stg st).consecHic = sat 255 ((s.stg st).consecHic + 1) ∧
      (t.stg st).hiccups = sat 0xFFFF ((s.stg st).hiccups + 1) ∧ Pending (0x81 + 8 * st) t ∧
      (∀ j, j ≠ st → t.stg j = s.stg j) ∧ t.rails = s.rails) ∧
  (∀ st s, st < 4 → (s.stg st).st = .hiccup → Completes (.hiccupExpiry st) s fun t =>
    (t.stg st).st = .kindling ∧ (t.stg st).preset = true ∧ (t.stg st).switching = false ∧
      (∀ k, k < 8 → (t.phase (8 * st + k)).trim = 0 ∧ (t.phase (8 * st + k)).limcnt = 0) ∧
      (∀ j, j ≠ st → t.stg j = s.stg j) ∧ t = { s with stgs := t.stgs, phases := t.phases }) ∧
  (∀ p c s, p < 32 → (s.stg (p / 8)).switching = true → (s.healthy (p / 8)).contains (p % 8) = true →
    Completes (.cycleLimitTrip p c) s fun t => (t.phase p).limcnt = (if c then sat 255 ((s.phase p).limcnt + 1) else 1) ∧
      (orDef (s.sfld (p / 8) 0x14 25 18) 1 ≤ (t.phase p).limcnt → (t.stg (p / 8)).hicFound = true) ∧
      (∀ j, j ≠ p → t.phase j = s.phase j) ∧ t = { s with stgs := t.stgs, phases := t.phases }) ∧
  (∀ st s, st < 4 → (s.stg st).st.isReg = true → s.sfld st 0x0C 27 20 ≠ 0 → Completes (.consecHicHeal st) s fun t =>
    (t.stg st).consecHic = 0 ∧ s.sfld st 0x0C 27 20 ≤ (t.stg st).regTicks ∧ (t.stg st).st = (s.stg st).st ∧
      (∀ j, j ≠ st → t.stg j = s.stg j) ∧ t = { s with stgs := t.stgs })

/-- R151, R172, R265, R268: a stage regulates and its waiters learn it; it stands at the floor of its cap and tells it
once; its retry's backoff has run; its retry count heals. -/
def Obligations.StageProgress : Prop :=
  (∀ st s, st < 4 → ((s.stg st).st = .kindling ∨ (s.stg st).st = .moving) → (s.stg st).target ≠ 0 →
    Completes (.stageRegulated st) s fun t => (t.stg st).st = .regulated ∧ (t.stg st).waiters = [] ∧
      (t.stg st).floored = false ∧ (∀ j, j ≠ st → t.stg j = s.stg j) ∧ t.rails = s.rails) ∧
  (∀ st s, st < 4 → (s.stg st).st = .capped → (s.stg st).floorTold = false → Completes (.capFloor st) s fun t =>
    (t.stg st).floored = true ∧ (t.stg st).floorTold = true ∧ (t.stg st).st = .capped ∧ Pending (0x84 + 8 * st) t ∧
      (∀ j, j ≠ st → t.stg j = s.stg j) ∧ EventsOnly { s with stgs := t.stgs } t) ∧
  (∀ st n s, st < 4 → (s.stg st).st = .safeOff → (s.stg st).backoff = some n → Completes (.stageRetryBackoff st) s fun t =>
    (t.stg st).retry = some { since := s.clk.frame } ∧ (t.stg st).backoff = none ∧ (t.stg st).st = .safeOff ∧
      (∀ j, j ≠ st → t.stg j = s.stg j) ∧ t = { s with stgs := t.stgs }) ∧
  (∀ st s, st < 4 → (s.stg st).st.isReg = true → Completes (.stageRetryCntHeal st) s fun t =>
    (t.stg st).retryCnt = 0 ∧ (t.stg st).st = (s.stg st).st ∧ (∀ j, j ≠ st → t.stg j = s.stg j) ∧ t = { s with stgs := t.stgs })

/-- R53, R57, R262, R274: the tasks of a stage's engine. T4.1 of a running stage takes a fresh result of its output and
stages a duty; without one it stages the duty in force. T4.2 decides to drop a phase that has carried too little for
64 frames, where enough phases are left. -/
def Obligations.StageTasks : Prop :=
  (∀ st cyc s, st < 4 → TaskReady (4 + st) 0 cyc s → (s.stg st).st.running = true → (s.stg st).preset = false →
      freshOut s st = false →
    Completes (.stageControlTask st cyc) s fun t => TaskRan (4 + st) 0 cyc s t ∧
      (t.stg st).staged = some { u := (s.stg st).u } ∧ (t.stg st).st = (s.stg st).st ∧ ∀ j, j ≠ st → t.stg j = s.stg j) ∧
  (∀ st cyc s, st < 4 → TaskReady (4 + st) 0 cyc s → (s.stg st).st.running = true → (s.stg st).preset = false →
      freshOut s st = true →
    Completes (.stageControlTask st cyc) s fun t => TaskRan (4 + st) 0 cyc s t ∧ (t.stg st).staged.isSome = true ∧
      (t.stg st).lastTs = some (s.outEnt st).seen.ts ∧ (t.stg st).st = (s.stg st).st ∧ ∀ j, j ≠ st → t.stg j = s.stg j) ∧
  (∀ st k cyc s, st < 4 → TaskReady (4 + st) 1 cyc s → (s.stg st).st.isReg = true → s.cb (sbase st + 8) 8 = false →
      ((s.healthy st).filter fun k => 64 ≤ tget 0 (s.stg st).lowCnt k) = [k] →
      orDef (s.sfld st 0 15 12) 1 ≤ (s.healthy st).length - (s.stg st).drops.length - 1 →
    Completes (.phaseDiagnosticsTask st cyc) s fun t => TaskRan (4 + st) 1 cyc s t ∧
      (t.stg st).drops = (s.stg st).drops ++ [(k, 1)] ∧ (t.stg st).st = (s.stg st).st ∧ ∀ j, j ≠ st → t.stg j = s.stg j)

/-- R191 to R194, R203: input loss. It is declared once, with its event; the restored input clears it, with its event; the
shed comparator and a shelf no longer ready request the full off run with source 2, unless nothing is on. -/
def Obligations.InputLoss : Prop :=
  (∀ s, s.inl.loss = false → Completes .inputLossDeclared s fun t => t.inl.loss = true ∧ t.inl.fromRects = !s.busUsed ∧
    Pending 0x49 t ∧ EventsOnly { s with inl := t.inl } t) ∧
  (∀ s, s.inl.loss = true → s.inl.shed = false → Completes .inputRestored s fun t => t.inl.loss = false ∧
    t.inl.owed = false ∧ Pending 0x4B t ∧ EventsOnly { s with inl := t.inl } t) ∧
  (∀ s, (s.inl.loss && s.inl.ready) = false → s.seq.domain ≠ .off → s.off.run = false → Completes .shedComparatorTrip s fun t =>
    t.off.run = true ∧ t.off.full = true ∧ t.off.src = 2 ∧ t.inl.shed = true ∧ Pending 0x4A t) ∧
  (∀ s, s.inl.loss = true → s.seq.domain ≠ .off → s.off.run = false → Completes .batteryNotReadyOff s fun t =>
    t.off.run = true ∧ t.off.full = true ∧ t.off.src = 2 ∧ t.inl.owed = false ∧ t.inl.ready = false ∧ Pending 0x4A t) ∧
  (∀ s, bit (s.cw 0x6440) 26 = true → Completes .batteryPoll s fun t =>
    (∃ j, tget [] t.pmb (fld (s.cw 0x6440) 1 0) = tget [] s.pmb (fld (s.cw 0x6440) 1 0) ++ [j] ∧ j.use = .battery ∧
      j.addr = fld (s.cw 0x6440) 8 2) ∧ t.inl.next = orDef (fld (s.cw 0x6440) 31 27) 1 ∧
      t = { s with pmb := t.pmb, inl := { s.inl with next := t.inl.next } })

/-- R87, R88, R136, R188, R493: the PMBus masters. A transaction acknowledged leaves the job with its answer, the last one
ends the job; one refused, or cut short by SCL held low, is attempted up to three times, then the job has failed. A
watcher's poll queues its read. T2.2 puts the next transaction of a master on its bus. R90, R103: the verification of
a margin. Settled, its rail's sense results are averaged; the average of results that stand within the tolerance ends
the margin, and the program that owns it learns the success. -/
def Obligations.PmbusAndMargins : Prop :=
  (∀ m w a v q n s, tget [] s.pmb m = { use := .watcher n, addr := a, ops := [.readByte w], sent := true } :: q →
    Completes (.pmbusTransactionDone m (.data v)) s fun t => tget [] t.pmb m = q ∧ (t.watch n).value = v % 256 ∧
      (t.watch n).valid = true ∧ (t.watch n).stale = false ∧ (∀ k, k ≠ n → t.watch k = s.watch k) ∧
      t = { s with pmb := t.pmb, watches := t.watches }) ∧
  (∀ m j q s, tget [] s.pmb m = j :: q → j.sent = true → j.ops ≠ [] → j.tries < 2 →
    Completes (.pmbusSclTimeout m) s fun t => tget [] t.pmb m = { j with tries := j.tries + 1, sent := false } :: q ∧
      t = { s with pmb := t.pmb }) ∧
  (∀ n s, n < 32 → fld (s.cw (0x4300 + 8 * n)) 30 25 ≠ 0 → Completes (.pmbusWatcherPoll n) s fun t =>
    (∃ j, tget [] t.pmb (fld (s.cw (0x4300 + 8 * n)) 1 0) = tget [] s.pmb (fld (s.cw (0x4300 + 8 * n)) 1 0) ++ [j] ∧
      j.use = .watcher n ∧ j.addr = fld (s.cw (0x4300 + 8 * n)) 8 2) ∧
      (t.watch n).next = fld (s.cw (0x4300 + 8 * n)) 30 25 ∧ (∀ k, k ≠ n → t.watch k = s.watch k) ∧
      t = { s with pmb := t.pmb, watches := t.watches }) ∧
  (∀ m j q op l cyc s, m < 4 → TaskReady 2 1 cyc s → tget [] s.pmb m = j :: q → j.ops = op :: l → j.sent = false →
    Completes (.pmbusService cyc) s fun t => TaskRan 2 1 cyc s t ∧ tget [] t.pmb m = { j with sent := true } :: q ∧
      .pmbus m j.addr j.pec op ∈ t.out) ∧
  (∀ i n m s, i < 96 → s.seq.margins = [m] → m.rail = s.grail i → m.phase = .settle n → Completes (.marginSettleExpiry i) s fun t =>
    t.seq.margins = [{ m with phase := .average 32 0 0 }] ∧ t = { s with seq := { s.seq with margins := t.seq.margins } }) ∧
  (∀ i l n sum m s, i < 96 → s.seq.margins = [m] → m.rail = s.grail i → m.phase = .average l n sum → n ≠ 0 →
      ((4 : Int) * sum - ((n * m.vexp : Nat) : Int)).natAbs ≤ n * m.tol → m.owner = .none →
    Completes (.marginVerifyDone i) s fun t => t.seq.margins = [] ∧ t.rails = s.rails ∧ t.evt = s.evt) ∧
  (∀ i l n sum m s, i < 96 → s.seq.margins = [m] → m.rail = s.grail i → m.phase = .average l n sum → n ≠ 0 →
      n * m.tol < ((4 : Int) * sum - ((n * m.vexp : Nat) : Int)).natAbs → m.owner = .none →
    Completes (.marginVerifyDone i) s fun t => t.seq.margins = [] ∧ (t.rail i).margin = 0 ∧ Pending 0x33 t)

/-- R185 to R189, R193: the tasks of CE2. A new cap sets the level it allows; the level rises or falls by one; without a
cap and a damper nothing is staged; the threshold of the shed comparator is formed. A round of the rectifiers' sharing
begins the next. R187: the window of a new cap has ended: a tray above it raises the damper-miss event, a tray at or
below it does not; either way the window is closed. -/
def Obligations.Damper : Prop :=
  (∀ cyc s, TaskReady 2 0 cyc s → s.dmp.capAt ≠ s.dmp.lastCap → s.cb 0x6100 0 = true → Completes (.damperCapChange cyc) s fun t =>
    TaskRan 2 0 cyc s t ∧ t.dmp.lastCap = s.dmp.capAt ∧ t.dmp.capNew = true ∧
      t.dmp.staged = some ((lowestLevel s s.dmp.capAt).getD 7) ∧ (lowestLevel s s.dmp.capAt = none → Pending 0x45 t)) ∧
  (∀ cyc s, TaskReady 2 0 cyc s → s.dmpLevel < 7 → Completes (.damperRaise cyc) s fun t =>
    TaskRan 2 0 cyc s t ∧ t.dmp.staged = some (s.dmpLevel + 1) ∧ t.dmp.above = 0) ∧
  (∀ cyc s, TaskReady 2 0 cyc s → mayFall s = true → Completes (.damperRelax cyc) s fun t =>
    TaskRan 2 0 cyc s t ∧ t.dmp.staged = some (s.dmpLevel - 1) ∧ t.dmp.below = 0) ∧
  (∀ cyc s, TaskReady 2 0 cyc s → s.dmp.capAt = s.dmp.lastCap → s.cb 0x6100 0 = false → s.dmpLevel = 0 →
      s.cf 0x640C 15 0 ≠ 0 →
    Completes (.damperTask cyc) s fun t => TaskRan 2 0 cyc s t ∧ t.dmp = s.dmp ∧ t.inl.shedV = shedVolt s (shedEnergy s) ∧
      (s.busUsed = true → t.inl.armed = true ∧ t.inl.code = shedCode s (100 * shedVolt s (shedEnergy s)))) ∧
  (∀ cyc s, TaskReady 2 3 cyc s → s.cb 0x6300 0 = true → Completes (.sharingRound cyc) s fun t =>
    TaskRan 2 3 cyc s t ∧ t.shr.left = orDef (s.cf 0x6300 8 1) 1) ∧
  (∀ n s, s.dmp.judge = some n → Completes .damperJudgement s fun t => t.dmp.judge = none ∧ t.dmp.level = s.dmp.level ∧
    (s.dmp.lastCap * min 32 s.drt.pHist.length < powerSum s 32 → t.dmp.miss = true ∧ Pending 0x44 t) ∧
    (powerSum s 32 ≤ s.dmp.lastCap * min 32 s.drt.pHist.length → t.dmp.miss = s.dmp.miss ∧ t.evt = s.evt))

/-- R110, R174, R175, R180, R181: T1.2 of the ledger. A pass uses the latched balances up and never leaves more than it
found; where a single candidate fits every account it is granted: its costs leave the balances and DEBT takes what
INRUSH could not bear. R53, R138, R143, R159: T1.3 takes up to two faults from the queue each time it runs and never
adds one; the capture of a first fault is completed and told once, in the first instance after it. -/
def Obligations.LedgerAndFaultPolicyTasks : Prop :=
  (∀ cyc l s, TaskReady 1 1 cyc s → s.drt.latched = some l → Completes (.ledgerPass cyc) s fun t => TaskRan 1 1 cyc s t ∧
    t.drt.latched = none ∧ t.drt.inrush ≤ l.1 ∧ t.drt.power ≤ l.2.1 ∧ t.drt.thermal ≤ l.2.2 ∧
      t.drt.tick = s.tickNo % 2 ^ 32) ∧
  (∀ cyc l s, TaskReady 1 1 cyc s → s.drt.latched = some l →
      passCands { s with drt := { s.drt with latched := none, bg := 0 } } = [] → (∀ n, n < 8 → bgWork s n = false) →
    Completes (.ledgerPass cyc) s fun t => t.drt.inrush = l.1 ∧ t.drt.power = l.2.1 ∧ t.drt.thermal = l.2.2 ∧ t.drt.bg = 0 ∧
      t.drt.commits = s.drt.commits ∧ t.drt.debt = s.drt.debt ∧ t.drt.log = s.drt.log) ∧
  (∀ cyc l c s, TaskReady 1 1 cyc s → s.drt.latched = some l →
      passCands { s with drt := { s.drt with latched := none, bg := 0 } } = [c] → (∀ n, n < 8 → bgWork s n = false) →
      c.inrush ≤ l.1 → c.inrush ≤ s.cf 0x6000 11 0 → c.steady ≤ l.2.1 → thermCost s c.steady ≤ l.2.2 →
    Completes (.ledgerPass cyc) s fun t => t.drt.inrush = l.1 - c.inrush ∧ t.drt.power = l.2.1 - c.steady ∧
      t.drt.thermal = l.2.2 - thermCost s c.steady ∧ t.drt.debt = sat 0xFFFF s.drt.debt ∧
      (c.steady ≠ 0 → ({ key := c.commit, power := c.steady, thermal := thermCost s c.steady } : Commit) ∈ t.drt.commits)) ∧
  (∀ cyc s, TaskReady 1 2 cyc s → Completes (.faultPolicy cyc) s fun t => TaskRan 1 2 cyc s t ∧
    t.flt.queue = s.flt.queue.drop 2 ∧ t.flt.qlostNew = false ∧ (s.flt.qlostNew = true → Pending 0x2D t) ∧
    (∀ f, s.flt.ff = some f → t.flt.ff = some { f with ledgerValid := true, told := true } ∧
      (f.told = false → Pending 0x27 t)) ∧
    (s.flt.ff = none → t.flt.ff = none) ∧ (∀ f q, s.flt.queue = f :: q → Pending (kindEvent f.kind) t) ∧
    ∀ i, (t.rail i).st = (s.rail i).st ∧ (t.rail i).en = (s.rail i).en)

/-- R224, R239, R244, R294: the tasks of CE3 on telemetry. T3.1 stages every 2^TDEC-th result of the frame before where
the region has room, and an engine's write in it fires an urgent slot; T3.2 writes an entry of up to three results
behind the producer index of its ring. -/
def Obligations.Telemetry : Prop :=
  (∀ cyc l s, TaskReady 3 0 cyc s → Completes (.converterPostProcessing (cyc, l)) s fun t => TaskRan 3 0 cyc s t ∧ t.cnv.prev = []) ∧
  (∀ cyc l r s, TaskReady 3 0 cyc s → s.cnv.prev = [r] → r.core < 4 → r.entry < 64 → bit (s.ent r.core r.entry) 22 = true →
      2 ^ fld (s.ent r.core r.entry) 25 23 ≤ (s.entry r.core r.entry).dec + 1 → s.cnv.staged.length < telRoom →
    Completes (.converterPostProcessing (cyc, l)) s fun t => t.cnv.staged = s.cnv.staged ++ [r] ∧
      (t.entry r.core r.entry).dec = 0 ∧ t.cnv.lost = s.cnv.lost) ∧
  (∀ cyc l r s, TaskReady 3 0 cyc s → s.cnv.prev = [r] → r.core < 4 → r.entry < 64 → bit (s.ent r.core r.entry) 22 = true →
      2 ^ fld (s.ent r.core r.entry) 25 23 ≤ (s.entry r.core r.entry).dec + 1 → telRoom ≤ s.cnv.staged.length →
      s.cnv.lostTick = false →
    Completes (.converterPostProcessing (cyc, l)) s fun t => t.cnv.staged = s.cnv.staged ∧
      t.cnv.lost = sat 0xFFFF (s.cnv.lost + 1) ∧ t.cnv.lostTick = true ∧ Pending 0x78 t) ∧
  (∀ cyc c k y s, TaskReady 3 0 cyc s → c < 4 → k < 4 → bit (s.urgReg c k) 8 = true → (s.core c).powered = true →
      (s.core c).lp = false → Completes (.converterPostProcessing (cyc, [(c, k, y)])) s fun t => (t.urg c k).busy = true) ∧
  (∀ cyc a s, TaskReady 3 1 cyc s → s.cnv.staged = [a] → ringLive s 17 = true → ringRoom s 17 ≠ 0 → telQuota s ≠ 0 →
    Completes (.telemetryPosting cyc) s fun t => TaskRan 3 1 cyc s t ∧ t.cnv.staged = [] ∧
      t.out = .entry 17 (s.ring 17).own (telEntry [a]) :: s.out ∧
      (t.ring 17).own = ((s.ring 17).own + 1) % 2 ^ s.cf (ringReg 17 + 8) 4 1) ∧
  (∀ cyc s, TaskReady 3 1 cyc s → (s.cnv.staged = [] ∨ ringLive s 17 = false) →
    Completes (.telemetryPosting cyc) s fun t => TaskRan 3 1 cyc s t ∧ t.cnv = s.cnv ∧ t.out = s.out)

/-- R20, R53, R163, R197: T3.3 takes a snapshot, keeps the last four and writes at most 48 entries of counters not yet in
flash; T1.1 leaves what is not its own as it was. R53, R55, R56, R60, R342: T2.3 of a node that is no row member only
uses its cycles. An instance that still runs at its boundary is marked, its effect is lost, and the instances behind
it in the frame are skipped. -/
def Obligations.SnapshotServiceRowAndOverrun : Prop :=
  (∀ cyc s, TaskReady 3 2 cyc s → Completes (.emberSnapshot cyc) s fun t => TaskRan 3 2 cyc s t ∧
    t.pwr.stage.snaps = (snapWords s :: s.pwr.stage.snaps).take 4 ∧ t.pwr.stage.deltas = (deltaList s).take 48 ∧
      t.pwr.stage.overflow = decide (48 < (deltaList s).length) ∧ EventsOnly { s with engs := t.engs, pwr := t.pwr } t) ∧
  (∀ cyc s, TaskReady 1 0 cyc s → Completes (.sequencerService cyc) s fun t => TaskRan 1 0 cyc s t ∧
    EventsOnly { s with engs := t.engs } t) ∧
  (∀ cyc s, TaskReady 2 2 cyc s → s.sca.member = false → s.sca.isMaster = false → Completes (.rowExchange cyc) s fun t =>
    TaskRan 2 2 cyc s t ∧ EventsOnly { s with engs := t.engs } t) ∧
  (∀ e k s, e < 8 → taskStarts s e k = true → Completes (.taskOverrun e k) s fun t => (t.eng e).ran.testBit k = true ∧
    (t.eng e).overSet.testBit k = true ∧ (t.eng e).peakUsed = 1023 ∧
    (∀ j, k < j → taskDue s e j = true → (t.eng e).skipSet.testBit j = true ∧ (t.eng e).overSet.testBit j = true) ∧
    (∀ j, j ≠ e → t.eng j = s.eng j) ∧ t = { s with engs := t.engs })

/-- R296, R299, R301, R313, R316: the tasks of CE0. T0.1 takes the next descriptor of the rings in turn: its head
advances, and it is accepted under the next SEQ or completed as rejected with SEQ 0. T0.2 writes a completion that is
due behind the producer index of its ring. -/
def Obligations.RingTasks : Prop :=
  (∀ cyc r d s, TaskReady 0 0 cyc s → ringsQuiet s = false → s.jrn.slots = 2 → nextRing s = some (r, d) → rejects s d = none →
    Completes (.ringService cyc) s fun t => TaskRan 0 0 cyc s t ∧
      (t.ring r).own = ((s.ring r).own + 1) % ringSize s r ∧ t.jrn.head = s.nextSeq ∧ t.jrn.next = s.nextSeq + 1 ∧
      t.hst.live = s.hst.live ++ [{ seq := s.nextSeq, ring := r, crHead := ((s.ring r).own + 1) % ringSize s r, d := d }] ∧
      t.hst.ready = s.hst.ready) ∧
  (∀ cyc r d st s, TaskReady 0 0 cyc s → ringsQuiet s = false → s.jrn.slots = 2 → nextRing s = some (r, d) →
      rejects s d = some st →
    Completes (.ringService cyc) s fun t => (t.ring r).own = ((s.ring r).own + 1) % ringSize s r ∧ t.jrn = s.jrn ∧
      t.hst.live = s.hst.live ∧ ∃ c, t.hst.ready = s.hst.ready ++ [c] ∧ c.seq = 0 ∧ c.status = st ∧ c.tag = d.tag ∧
        c.opcode = d.opcode ∧ c.ring = r ∧ c.final = true) ∧
  (∀ cyc s, TaskReady 0 0 cyc s → nextRing s = none → Completes (.ringService cyc) s fun t => TaskRan 0 0 cyc s t ∧
    EventsOnly { s with engs := t.engs } t) ∧
  (∀ cyc c s, TaskReady 0 1 cyc s → ringsQuiet s = false → s.evt.fresh = [] → s.evt.held = [] → s.hst.ready = [c] →
      c.ring < 8 → postable s c = true →
    Completes (.completionPosting cyc []) s fun t => TaskRan 0 1 cyc s t ∧ t.hst.ready = [] ∧
      t.out = .entry (8 + c.ring) (s.ring (8 + c.ring)).own (complBits c) :: s.out ∧
      (t.ring (8 + c.ring)).own = ((s.ring (8 + c.ring)).own + 1) % 2 ^ s.cf (ringReg (8 + c.ring) + 8) 4 1) ∧
  (∀ cyc o s, TaskReady 0 1 cyc s → ringsQuiet s = false → s.evt.fresh = [] → s.evt.held = [o] → s.hst.ready = [] →
      ringLive s 16 = true → ringRoom s 16 ≠ 0 →
    Completes (.completionPosting cyc []) s fun t => TaskRan 0 1 cyc s t ∧ t.evt.held = [] ∧
      t.out = .entry 16 (s.ring 16).own (eventBits o) :: s.out ∧
      (t.ring 16).own = ((s.ring 16).own + 1) % 2 ^ s.cf (ringReg 16 + 8) 4 1)

/-- R53, R324, R340, R342: T2.3. Released, it uses its cycles. At the row's master, at the first frame of a watch tick,
the own node takes its demand and floor, every node with a ROWSTAT gets its cap from those of all, each other one as a
CAP frame on every row port, the own one as the tray's row cap. At any other node of the row its ROWSTAT goes to the
master in the ninth frame of a tick, from a stack member as a RELAY; else nothing is sent. -/
def Obligations.RowExchange : Prop :=
  (∀ cyc s, TaskReady 2 2 cyc s → Completes (.rowExchange cyc) s fun t => TaskRan 2 2 cyc s t ∧ t.rails = s.rails ∧
    t.seq = s.seq ∧ t.stgs = s.stgs ∧ t.drt = s.drt) ∧
  (∀ cyc s, TaskReady 2 2 cyc s → s.sca.isMaster = true → s.tickStart = true → s.role ≠ 2 →
    Completes (.rowExchange cyc) s fun t => (t.rnode s.node).demand = s.dmp.trayP ∧ (t.rnode s.node).floor = rowFloor s ∧
      (t.rnode s.node).valid = true ∧ t.dmp.rowCap = some (t.rnode s.node).cap ∧
      (∀ n, n ≠ s.node → t.rnode n = { s.rnode n with cap := (t.rnode n).cap }) ∧
      (twf {} s.sca.nodes = true → ∀ n, (t.rnode n).valid = true → (t.rnode n).cap =
        sat 0xFFFF (rowCap (s.cw 0x9060).toNat (rowNodes t).length (((rowNodes t).map fun p => p.2.demand).foldl (· + ·) 0)
          (((rowNodes t).map fun p => p.2.floor).foldl (· + ·) 0) (t.rnode n).demand (t.rnode n).floor)) ∧
      ∀ n p, n ≠ s.node → (s.rnode n).valid = true → p ∈ s.rowPorts → ∃ x ∈ (t.port p).tx ++ (t.port p).txq,
        x.kind = 11 ∧ x.dst = some n ∧ x.payload = BitVec.ofNat 256 (t.rnode n).cap) ∧
  (∀ cyc s, TaskReady 2 2 cyc s → s.sca.isMaster = false → s.sca.member = true → s.role ≠ 2 → s.tickPhase = 8 →
    Completes (.rowExchange cyc) s fun t => t.dmp = s.dmp ∧ t.sca.nodes = s.sca.nodes ∧ ∀ p ∈ s.rowPorts,
      ∃ x, (t.port p).txq = (s.port p).txq ++ [x] ∧ x.kind = 13 ∧ x.dst = some s.sca.master ∧
        x.payload = BitVec.ofNat 256 (rowstatBits s)) ∧
  (∀ cyc s, TaskReady 2 2 cyc s → s.sca.isMaster = false → s.role = 2 → s.sca.ringOk = true → s.tickPhase = 8 →
    Completes (.rowExchange cyc) s fun t => t.dmp = s.dmp ∧ t.sca.nodes = s.sca.nodes ∧
      (∀ p, p ≠ 2 → t.port p = s.port p) ∧ ∃ x, (t.port 2).txq = (s.port 2).txq ++ [x] ∧ x.kind = 6 ∧ x.dst = none ∧
        x.payload = BitVec.ofNat 256 (rowstatBits s)) ∧
  (∀ cyc s, TaskReady 2 2 cyc s → (s.sca.isMaster = false ∨ s.tickStart = false) →
      (s.sca.isMaster = true ∨ s.tickPhase ≠ 8 ∨ (s.sca.member = false ∧ s.role ≠ 2) ∨ (s.role = 2 ∧ s.sca.ringOk = false)) →
    Completes (.rowExchange cyc) s fun t => TaskRan 2 2 cyc s t ∧ EventsOnly { s with engs := t.engs } t)

/-- R207, R213 to R217, R220, R224, R225: triggers and conversions. A trigger's level follows its edge, and a selected
edge starts the sequences it names; a conversion that ends leaves its result, corrected by its slice, in the register
of its entry, unless a scrub takes its place. R212, R222, R231: slices, core pairs and references. A clamp ends and
leaves a scrub to be made; a vote's suspicion ends with its event; a reference becomes ready; one that is not in time,
or falls, sets its fault and raises its event, and the results of its pair lose VALID. -/
def Obligations.ConversionsAndHealth : Prop :=
  (∀ n rising cyc s, n < 4 → Completes (.trgEdgeAccepted n rising cyc) s fun t =>
    t.cnv.trgLevel.testBit n = rising ∧ (∀ m, m ≠ n → t.cnv.trgLevel.testBit m = s.cnv.trgLevel.testBit m) ∧
    (s.cb 0x7014 (2 * n + b2n (!rising)) = false → t = { s with cnv := { s.cnv with trgLevel := t.cnv.trgLevel } }) ∧
    (s.cb 0x7014 (2 * n + b2n (!rising)) = true → ∀ c e, c < 4 → e < 64 → entTrig (s.ent c e) = 4 + n →
      (s.core c).powered = true → (s.core c).lp = false → t.seqBusy c (4 + n) = true)) ∧
  (∀ c j e r clamp s, c < 4 → j < 8 → (s.core c).powered = true →
      tget SlotUse.idle (s.core c).plan (8 * s.now + j) = .entry e → scrubDue (s.slice c (j % 4)) (8 * s.now + j) = false →
      (s.entry c e).stall = 0 →
    Completes (.conversionEnd c j r clamp) s fun t => (t.entry c e).res = mkRes s c (j % 4) (8 * s.now + j) r false ∧
      tget SlotUse.idle (t.core c).plan (8 * s.now + j) = .idle ∧
      (∃ x, t.cnv.now = s.cnv.now ++ [x] ∧ x.core = c ∧ x.entry = e ∧ x.frame = s.clk.frame ∧
        x.res = mkRes s c (j % 4) (8 * s.now + j) r false)) ∧
  (∀ c j e r clamp s, c < 4 → j < 8 → (s.core c).powered = true →
      tget SlotUse.idle (s.core c).plan (8 * s.now + j) = .entry e → scrubDue (s.slice c (j % 4)) (8 * s.now + j) = true →
    Completes (.conversionEnd c j r clamp) s fun t => (t.core c).scrubs = sat 0xFFFF ((s.core c).scrubs + 1) ∧
      (t.slice c (j % 4)).scrub = (if (s.slice c (j % 4)).again then some (8 * s.now) else none) ∧
      (t.slice c (j % 4)).scrubFrame = some s.clk.frame ∧
      (t.entry c e).res.code = (s.entry c e).res.code ∧ t.cnv.now = s.cnv.now) ∧
  (∀ c k r clamp s, c < 4 → k < 4 → (s.urg c k).busy = true → (s.urg c k).started = true →
      (s.entry c (fld (s.urgReg c k) 5 0)).stall = 0 →
    Completes (.conversionEnd c (8 + k) r clamp) s fun t => (t.urg c k).busy = false ∧
      (t.entry c (fld (s.urgReg c k) 5 0)).res =
        mkRes s c (fld (s.urgReg c k) 7 6) ((s.urg c k).g + 4) r true) ∧
  (∀ c k s, c < 4 → k < 4 → (s.urg c k).busy = true → (s.urg c k).started = false → (s.core c).plan = [] →
      (s.slice c (fld (s.urgReg c k) 7 6)).scrub = none →
    Completes (.urgentConversionStart c k) s fun t => t.urg c k = { s.urg c k with started := true } ∧
      (∀ m, m ≠ k → t.urg c m = s.urg c m) ∧ (∀ d, d ≠ c → t.core d = s.core d)) ∧
  (∀ c e s, c < 4 → e < 64 → ((s.core c).displaced.any fun d => d.1 = e) = true → Completes (.conversionDropped c e) s fun t =>
    (t.core c).drops = sat 0xFFFF ((s.core c).drops + 1) ∧ (t.entry c e).res.miss = true ∧
      (t.core c).displaced = (s.core c).displaced.filter (fun d => d.1 ≠ e) ∧
      ((s.core c).dropTick = false → Pending (0x6C + c) t) ∧ ∀ d, d ≠ c → t.core d = s.core d) ∧
  (∀ c i s, c < 4 → i < 4 → (s.slice c i).clamp.isSome = true → Completes (.sliceUnclamp c i) s fun t =>
    (t.slice c i).clamp = none ∧ (t.slice c i).scrub.isSome = true ∧ (scrubDue (s.slice c i) (8 * s.now + i) = false →
      t.slice c i = { s.slice c i with clamp := none, scrub := some (8 * s.now) }) ∧
      (∀ d, d ≠ c → t.core d = s.core d) ∧ t = { s with cnv := { s.cnv with cores := t.cnv.cores } }) ∧
  (∀ p s, p < 2 → (s.ppair p).raised = true → Completes (.plausibilityRestore p) s fun t => (t.ppair p).suspect = 0 ∧
    (t.ppair p).raised = false ∧ Pending (0x72 + p) t ∧ ∀ q, q ≠ p → t.ppair q = s.ppair q) ∧
  (∀ p s, p < 2 → s.refPowered = true → (s.refm p).rdy = false → Completes (.refrdySet p) s fun t =>
    (t.refm p).rdy = true ∧ (t.refm p).fault = (s.refm p).fault ∧ (∀ q, q ≠ p → t.refm q = s.refm q) ∧
      t = { s with cnv := t.cnv }) ∧
  (∀ p s, p < 2 → s.refPowered = true → (s.refm p).rdy = false → Completes (.referenceFaultTimeout p) s fun t =>
    (t.refm p).fault = true ∧ (t.refm p).rdy = false ∧ Pending (0x74 + p) t ∧ ∀ q, q ≠ p → t.refm q = s.refm q) ∧
  (∀ p s, p < 2 → s.refPowered = true → (s.refm p).rdy = true → Completes (.refrdyFall p) s fun t =>
    (t.refm p).fault = true ∧ (t.refm p).rdy = false ∧ Pending (0x74 + p) t ∧
      (∀ c e, (c = 2 * p ∨ c = 2 * p + 1) → e < 64 → (t.entry c e).res.valid = false) ∧
      ∀ q, q ≠ p → t.refm q = s.refm q)

/-- R8, R10, R289, R292, R502: a set-up write. In the open lock an accepted write reads back at once and waits for order 6
with its own bits; while the lock is not open, or where the block refuses it, it is discarded and told; an access of
another size or alignment is discarded and told. -/
def Obligations.SetUpWrites : Prop :=
  (∀ a v s, a.size = 4 → a.off % 4 = 0 → a.off < 0x10000 → s.hst.lock = 1 →
      bar0Read s a.off ≠ merge (rwsMask (regKey s.cnv.cblk a.off)) (bar0Read s a.off) (v.truncate 32) →
      setupRefused s a.off (bar0Read s a.off)
        (merge (rwsMask (regKey s.cnv.cblk a.off)) (bar0Read s a.off) (v.truncate 32)) = false →
    Completes (.setUpWrite a v) s fun t =>
      t.bw (regKey s.cnv.cblk a.off) =
        merge (rwsMask (regKey s.cnv.cblk a.off)) (s.bw (regKey s.cnv.cblk a.off)) (v.truncate 32) ∧
      (∀ k, k ≠ regKey s.cnv.cblk a.off → t.bw k = s.bw k) ∧ t.cfg = s.cfg ∧
      t.setup = s.setup ++ [(regKey s.cnv.cblk a.off,
        v.truncate 32 &&& BitVec.ofNat 32 (rwsMask (regKey s.cnv.cblk a.off)))]) ∧
  (∀ a v s, a.size = 4 → a.off % 4 = 0 → a.off < 0x10000 → s.hst.lock ≠ 1 →
      bar0Read s a.off ≠ merge (rwsMask (regKey s.cnv.cblk a.off)) (bar0Read s a.off) (v.truncate 32) →
    Completes (.setUpWrite a v) s fun t => t.bar0 = s.bar0 ∧ t.cfg = s.cfg ∧ t.setup = s.setup ∧ Pending 0x02 t) ∧
  (∀ a v s, a.size = 4 → a.off % 4 = 0 → a.off < 0x10000 → s.hst.lock = 1 →
      bar0Read s a.off ≠ merge (rwsMask (regKey s.cnv.cblk a.off)) (bar0Read s a.off) (v.truncate 32) →
      setupRefused s a.off (bar0Read s a.off)
        (merge (rwsMask (regKey s.cnv.cblk a.off)) (bar0Read s a.off) (v.truncate 32)) = true →
    Completes (.setUpWrite a v) s fun t => t.bar0 = s.bar0 ∧ t.cfg = s.cfg ∧ t.setup = s.setup ∧ Pending 0x03 t) ∧
  (∀ a v s, Access.ok a = false → Completes (.setUpWrite a v) s fun t => t.bar0 = s.bar0 ∧ t.cfg = s.cfg ∧
    t.setup = s.setup ∧ t.out = s.out ∧ Pending 0x04 t ∧ EventsOnly s t) ∧
  (∀ bar w a v s, (bar = 0 ∨ bar = 2) → Access.ok a = false → Completes (.unsupportedBarAccess bar w a v) s fun t =>
    t.out = (if w then s.out else .unsupported a.off :: s.out) ∧ Pending 0x04 t ∧ EventsOnly { s with out := t.out } t)

/-- R132, R170, R263, R292, R293, R315: the lock and the actions of BAR0. The key opens a lock that was opened before, and
0 closes it, each with its entry; in state 0 the lock stays. An action has its entry, PENDING, and waits for order 6.
R292, R293: the lock opens by itself where the link is up and the key was never written. -/
def Obligations.BarActions : Prop :=
  (∀ v cyc s, s.hst.lock = 2 → bit v 0 = true → fld v 15 8 = 0xA5 → Completes (.glbLockWrite v cyc) s fun t =>
    t.hst.lock = 1 ∧ t.jrn.head = s.nextSeq ∧ t.cfg = s.cfg ∧ t.bar0 = s.bar0) ∧
  (∀ v cyc s, s.hst.lock = 1 → bit v 0 = false → Completes (.glbLockWrite v cyc) s fun t =>
    t.hst.lock = 2 ∧ t.jrn.head = s.nextSeq ∧ t.cfg = s.cfg ∧ t.bar0 = s.bar0) ∧
  (∀ v cyc s, (s.hst.lock = 0 ∨ (s.hst.lock = 2 ∧ bit v 0 = false) ∨ (bit v 0 = true ∧ fld v 15 8 ≠ 0xA5)) →
    Completes (.glbLockWrite v cyc) s fun t => t = s) ∧
  (∀ v s, bit v 1 = true → Completes (.seqCtrlAbort v) s fun t => t.jrn.head = s.nextSeq ∧
    (∃ l, t.hst.decided = s.hst.decided ++ [l] ∧ l.seq = s.nextSeq ∧ l.d.opcode = 0x81 ∧ l.d.arg 15 0 = 0) ∧ t.seq = s.seq) ∧
  (∀ v s, bit v 0 = true → Completes (.fltCtrlFfClear v) s fun t => t.jrn.head = s.nextSeq ∧
    (∃ l, t.hst.decided = s.hst.decided ++ [l] ∧ l.seq = s.nextSeq ∧ l.d.opcode = 0x81 ∧ l.d.arg 15 0 = 1) ∧ t.flt = s.flt) ∧
  (∀ v s, bit v 1 = true → Completes (.fltCtrlSysrstRel v) s fun t => t.jrn.head = s.nextSeq ∧
    (∃ l, t.hst.decided = s.hst.decided ++ [l] ∧ l.seq = s.nextSeq ∧ l.d.opcode = 0x81 ∧ l.d.arg 15 0 = 2) ∧ t.flt = s.flt) ∧
  (∀ st v s, st < 4 → bit v 0 = true → Completes (.stgLoadCommit st v) s fun t => (t.stg st).pending = true ∧
    t.jrn.head = s.nextSeq ∧ t.coef = s.coef ∧ (∀ j, j ≠ st → t.stg j = s.stg j) ∧
    ∃ l, t.hst.decided = s.hst.decided ++ [l] ∧ l.seq = s.nextSeq ∧ l.d.opcode = 0x81 ∧ l.d.arg 15 0 = 4 + st) ∧
  (∀ e v s, e < 8 → bit v 31 = true → Completes (.glbLoadClear e v) s fun t => (t.eng e).clear = true ∧
    (∀ j, j ≠ e → t.eng j = s.eng j) ∧ t = { s with engs := t.engs }) ∧
  (∀ v s, bit v 1 = false → bit v 0 = false → bit v 31 = false →
    Completes (.seqCtrlAbort v) s (· = s) ∧ Completes (.fltCtrlFfClear v) s (· = s) ∧
      Completes (.fltCtrlSysrstRel v) s (· = s) ∧ Completes (.stgLoadCommit 0 v) s (· = s) ∧
      Completes (.glbLoadClear 0 v) s (· = s)) ∧
  (∀ s, s.pwr.phase = .run → s.hst.lock = 0 → s.hst.linkUp = true → Completes .lockAutoOpen s fun t =>
    t.hst.lock = 1 ∧ t.jrn.next = s.jrn.next + 1)

/-- R8, R171, R244, R353, R468, R469: the selections. Each waits for the boundary and changes nothing else. R8, R60, R247,
R319, R441, R469: the reads that latch the rest of what they read. Each answers the word it names, as BAR0 shows it,
and changes only its latch. -/
def Obligations.SelectionsAndLatchedReads : Prop :=
  (∀ v s, fld v 6 0 < 96 → Completes (.fltCntSelWrite v) s fun t => t = { s with flt := { s.flt with cntPend := some (fld v 6 0) } }) ∧
  (∀ v s, 96 ≤ fld v 6 0 → Completes (.fltCntSelWrite v) s (· = s)) ∧
  (∀ v s, Completes (.evtCselWrite v) s fun t => t = { s with evt := { s.evt with cselPend := some (fld v 7 0) } }) ∧
  (∀ v s, bit v 5 = true → Completes (.evtWclogPop v) s fun t => t = { s with wc := { s.wc with pop := true } }) ∧
  (∀ v s, Completes (.scaRselWrite v) s fun t => t = { s with sca := { s.sca with rselPend := some (fld v 11 0) } }) ∧
  (∀ v s, Completes (.cnvWselWrite v) s fun t => t = { s with cnv := { s.cnv with wselPend := some (fld v 3 0) } }) ∧
  (∀ cyc s, Completes (.glbFrameLoRead cyc) s fun t => t.out = .read 0x100 (bar0Read t 0x100) :: s.out ∧
    t.clk.latHi = BitVec.ofNat 16 (s.now / 2 ^ 32) ∧ t.clk.latFrac = fracOf cyc ∧ t.clk.frame = s.clk.frame ∧
      t = { s with clk := t.clk, out := t.out }) ∧
  (∀ s, Completes .hstJheadLoRead s fun t => t.out = .read 0x1010 (bar0Read t 0x1010) :: s.out ∧
    t = { s with hst := { s.hst with jheadHi := s.jrn.head / 2 ^ 32 }, out := t.out }) ∧
  (∀ s, Completes .hstJoldLoRead s fun t => t.hst.joldHi = oldestSram s / 2 ^ 32 ∧
    t.out = .read 0x1018 (bar0Read t 0x1018) :: s.out ∧ t = { s with hst := { s.hst with joldHi := t.hst.joldHi }, out := t.out }) ∧
  (∀ s, Completes .hstJmirLoRead s fun t => t.hst.jmirHi = oldestMirror s / 2 ^ 32 ∧
    t.out = .read 0x1020 (bar0Read t 0x1020) :: s.out ∧ t = { s with hst := { s.hst with jmirHi := t.hst.jmirHi }, out := t.out }) ∧
  (∀ e s, e < 64 → Completes (.cnvResLoRead e) s fun t => t.out = .read (0x7C00 + 8 * e) (bar0Read t (0x7C00 + 8 * e)) :: s.out ∧
    tget 0 t.cnv.resHi e = frLo (s.entry s.cnv.wsel e).res.ts.frame ∧
      t = { s with cnv := { s.cnv with resHi := t.cnv.resHi }, out := t.out }) ∧
  (∀ s, Completes .evtWclog0Read s fun t => t.wc.latch = s.wc.log.head? ∧ t.out = .read 0xD800 (bar0Read t 0xD800) :: s.out ∧
    t = { s with wc := { s.wc with latch := t.wc.latch }, out := t.out }) ∧
  (∀ s, Completes .fwHoverLoRead s fun t => t.fw.hoverHi = frHi s.fw.hover ∧
    t.out = .read 0xC01C (bar0Read t 0xC01C) :: s.out ∧ t = { s with fw := { s.fw with hoverHi := t.fw.hoverHi }, out := t.out })

/-- R290, R291, R292, R294 to R296, R311, R316, R470: the rings and the function. A doorbell of an index in range is the
peer's index, one out of range halts the ring; a fetch delivers its descriptors or halts the ring; a moderated vector
is signalled as its time ends; an interface reset disables every ring and closes an open lock. -/
def Obligations.Rings : Prop :=
  (∀ r v s, r < 8 → ringOn s r = true → fld v 15 0 < ringSize s r → Completes (.crDoorbell r v) s fun t =>
    (t.ring r).peer = fld v 15 0 ∧ (t.ring r).bell = v.toNat ∧ (t.ring r).own = (s.ring r).own ∧
      (t.ring r).halt = (s.ring r).halt ∧ ∀ j, j ≠ r → t.ring j = s.ring j) ∧
  (∀ r v s, r < 8 → ringOn s r = true → ringSize s r ≤ fld v 15 0 → Completes (.crDoorbell r v) s fun t =>
    (t.ring r).halt = true ∧ (t.ring r).cause = 1 ∧ (t.ring r).peer = (s.ring r).peer ∧ Pending 0x13 t ∧
      ∀ j, j ≠ r → t.ring j = s.ring j) ∧
  (∀ r v s, r < 8 → ringOn s (8 + r) = true → fld v 15 0 < ringSize s (8 + r) → Completes (.cqDoorbell r v) s fun t =>
    t.ring (8 + r) = { s.ring (8 + r) with bell := v.toNat, peer := fld v 15 0 } ∧ (∀ j, j ≠ 8 + r → t.ring j = s.ring j) ∧
      t = { s with hst := { s.hst with rings := t.hst.rings } }) ∧
  (∀ v s, ringOn s 16 = true → fld v 15 0 < ringSize s 16 → Completes (.erDoorbell v) s fun t =>
    t.ring 16 = { s.ring 16 with bell := v.toNat, peer := fld v 15 0 } ∧ (∀ j, j ≠ 16 → t.ring j = s.ring j) ∧
      t = { s with hst := { s.hst with rings := t.hst.rings } }) ∧
  (∀ v s, ringOn s 17 = true → fld v 15 0 < ringSize s 17 → Completes (.trDoorbell v) s fun t =>
    t.ring 17 = { s.ring 17 with bell := v.toNat, peer := fld v 15 0 } ∧ (∀ j, j ≠ 17 → t.ring j = s.ring j) ∧
      t = { s with hst := { s.hst with rings := t.hst.rings } }) ∧
  (∀ r b f ok s, r < 8 → (s.ring r).fetching ≠ 0 → Completes (.descriptorFetchDone r [.ok b f ok]) s fun t =>
    (t.ring r).fetched = (s.ring r).fetched ++ [(s.clk.frame + 1, descOf b f ok)] ∧
      (t.ring r).fetching = (s.ring r).fetching - 1 ∧ (∀ j, j ≠ r → t.ring j = s.ring j) ∧
      t = { s with hst := { s.hst with rings := t.hst.rings } }) ∧
  (∀ r a s, r < 8 → (s.ring r).fetching ≠ 0 → Completes (.descriptorFetchDone r [.bad a]) s fun t =>
    (t.ring r).halt = true ∧ (t.ring r).cause = 2 ∧ (t.ring r).fetching = 0 ∧ Pending 0x13 t ∧
      ∀ j, j ≠ r → t.ring j = s.ring j) ∧
  (∀ k s, k < 12 → tget false s.hst.modPend k = true → Completes (.msixModerationExpiry k) s fun t =>
    tget false t.hst.modPend k = false ∧ tget 0 t.hst.modLeft k = vecMod s k ∧
      (if (s.vec k).masked || !s.hst.bme then t.hst.pba.getLsbD k = true ∧ t.out = s.out
        else t.out = .msix k (s.vec k).addr (s.vec k).data :: s.out)) ∧
  (∀ s, Completes (.busMasterEnable false) s fun t => t = { s with hst := { s.hst with bme := false } }) ∧
  (∀ k s, k < 64 → s.hst.pba.getLsbD k = true → (s.vec k).masked = false → Completes (.busMasterEnable true) s fun t =>
    t.hst.bme = true ∧ t.hst.pba.getLsbD k = false ∧ .msix k (s.vec k).addr (s.vec k).data ∈ t.out) ∧
  (∀ n v s, n < 64 → Completes (.msixTableWrite (0x800 + 16 * n + 8) v) s fun t => (t.vec n).data = v ∧
    (t.vec n).addr = (s.vec n).addr ∧ (t.vec n).masked = (s.vec n).masked ∧ ∀ m, m ≠ n → t.vec m = s.vec m) ∧
  (∀ link s, Completes (.hostInterfaceReset link) s fun t => t.hst.linkUp = (link && s.pwr.domains.testBit 10) ∧
    t.hst.freset = true ∧ t.hst.resets = sat 0xFFFF (s.hst.resets + 1) ∧ t.hst.pba = 0 ∧ t.hst.vecs = [] ∧
    (∀ r, r < 18 → ringOn t r = false ∧ (t.ring r).own = 0 ∧ (t.ring r).peer = 0 ∧ (t.ring r).fetched = [] ∧
      (t.ring r).halt = (s.ring r).halt) ∧
    t.hst.lock = (if s.hst.lock = 1 then 2 else s.hst.lock) ∧ (s.hst.lock = 1 → t.jrn.head = s.nextSeq)) ∧
  (∀ q l e s, s.jrn.waiting = q :: l → s.jEntry q = some e → s.nv.mirrorPos % 256 ≠ 0 → bgFree s 2 = true →
    Completes .journalMirrorWrite s fun t => t.jrn.waiting = l ∧ t.jrn.mirror = (e :: s.jrn.mirror).take 16640 ∧
      t.nv.mirrorPos = (s.nv.mirrorPos + 1) % 16640 ∧
      (s.flashRaw (mirrorAt s.nv.mirrorPos) = erasedWord →
        t.flashRaw (mirrorAt s.nv.mirrorPos) = wcEncode (BitVec.ofNat 256 e.bits)) ∧
      t = { s with
        nv := { s.nv with mirrorPos := t.nv.mirrorPos, flash := t.nv.flash, badAt := t.nv.badAt }
        jrn := { s.jrn with waiting := l, mirror := t.jrn.mirror } })

/-- R50, R299, R300: a descriptor that its ring's command rejects has no journal entry and no effect: its completion, with
SEQ 0, is staged with the status of the rejection, and the ring counts it. Behind three commands journalled in the
frame a descriptor waits in its ring for the next frame, and nothing else changes. It holds for every command row. -/
def Obligations.CommandRejected : Prop :=
  (∀ c op r d st s, commandOf c = some (op, r, d) → r < 8 → s.jrn.slots < 3 → rejects s { d with opcode := op } = some st →
    Completes c s fun t => t.jrn = s.jrn ∧ t.hst.live = s.hst.live ∧ (t.ring r).count = sat 0xFFFF ((s.ring r).count + 1) ∧
      (∃ x, t.hst.ready = s.hst.ready ++ [x] ∧ x.seq = 0 ∧ x.status = st ∧ x.tag = d.tag ∧ x.opcode = op ∧ x.ring = r ∧
        x.final = true ∧ x.readyAt = s.clk.frame) ∧
      t = { s with hst := t.hst }) ∧
  (∀ c op r d s, commandOf c = some (op, r, d) → r < 8 → 3 ≤ s.jrn.slots → Completes c s fun t =>
    t.ring r = { s.ring r with fetched := (s.ring r).fetched ++ [(s.clk.frame + 1, { d with opcode := op })] } ∧
      (∀ k, k ≠ r → t.ring k = s.ring k) ∧ t = { s with hst := { s.hst with rings := t.hst.rings } })

/-- R95, R96, R105, R116, R122, R302: NOP and the commands on the domain and its programs. An abort of every program that
finds none to stop is refused while an off run is in progress (the model's reading of R116, log 90). -/
def Obligations.DomainCommands : Prop :=
  (∀ r d s, Taken 0x00 r d s → Completes (.nop r d) s (Ended 0x00 r d 0 0 s)) ∧
  (∀ r d s, Taken 0x01 r d s → joining s = false →
      (s.seq.domain = .up ∨ s.seq.domain = .poweringUp) →
    Completes (.powerOn r d) s (Ended 0x01 r d stAlready 0 s)) ∧
  (∀ r d s, Taken 0x01 r d s → joining s = false → s.seq.domain ≠ .up → s.seq.domain ≠ .poweringUp → s.off.run = false →
      s.off.ended = false → revertWaits s = false → Completes (.powerOn r d) s fun t => Waiting 0x01 r d .domainUp s t ∧ t.seq.domain = .poweringUp ∧
      t.seq.onset = s.onSet ∧ t.flt.restarts = 0 ∧ t.flt.restartExh = false ∧ t.flt.restartLeft = none) ∧
  (∀ r d s, Taken 0x02 r d s → s.seq.domain = .off → Completes (.powerOff r d) s (Ended 0x02 r d stAlready 0 s)) ∧
  (∀ r d s, Taken 0x02 r d s → s.seq.domain ≠ .off → s.off.run = false →
    Completes (.powerOff r d) s fun t => Waiting 0x02 r d .offRun s t ∧ t.off.run = true ∧ t.off.full = true ∧
      t.off.src = 0 ∧ t.off.groups = 0 ∧ t.seq.domain = .poweringDown ∧ t.flt.restartLeft = none) ∧
  (∀ r d s, Taken 0x03 r d s → s.seq.domain ≠ .off → s.off.run = false →
    Completes (.groupOff r d) s fun t => Waiting 0x03 r d (.groupRun (d.arg 15 0)) s t ∧ t.off.run = true ∧
      t.off.full = false ∧ t.off.src = 0 ∧ t.off.groups = d.arg 15 0) ∧
  (∀ r d s, Taken 0x04 r d s → s.progValid (d.arg 5 0) = true → (s.prog (d.arg 5 0)).state ≠ 1 →
      768 ≤ s.cf (0x4100 + 4 * d.arg 5 0) 12 0 → opOf (s.entryAt (s.cf (0x4100 + 4 * d.arg 5 0) 12 0)) ≠ 2 →
      hasExt (s.entryAt (s.cf (0x4100 + 4 * d.arg 5 0) 12 0)) = false →
      stepOk s (s.entryAt (s.cf (0x4100 + 4 * d.arg 5 0) 12 0)) = true →
      s.wordOut 0x11 (s.cf (0x4100 + 4 * d.arg 5 0) 12 0 / 4) ≠ .uncorrectable →
    Completes (.progLaunch r d) s fun t => Waiting 0x04 r d (.prog (d.arg 5 0)) s t ∧ (t.prog (d.arg 5 0)).state = 1 ∧
      (t.prog (d.arg 5 0)).step = s.cf (0x4100 + 4 * d.arg 5 0) 12 0 ∧ (t.prog (d.arg 5 0)).status = 0 ∧
      ∀ m, m < 64 → m ≠ d.arg 5 0 → t.prog m = { s.prog m with untold := false }) ∧
  (∀ r d s, Taken 0x04 r d s → s.progValid (d.arg 5 0) = true → (s.prog (d.arg 5 0)).state = 1 →
    Completes (.progLaunch r d) s fun t => Ended 0x04 r d stAlready 0 s t ∧ SeqTold s t) ∧
  (∀ r d s, Taken 0x05 r d s → d.args.getLsbD 6 = false → (s.prog (d.arg 5 0)).state = 1 →
    Completes (.progAbort r d) s fun t => Ended 0x05 r d 0 0 s t ∧ (t.prog (d.arg 5 0)).state = 4 ∧
      (t.prog (d.arg 5 0)).status = 2 ∧ (t.prog (d.arg 5 0)).step = (s.prog (d.arg 5 0)).current ∧
      (t.prog (d.arg 5 0)).items = [] ∧ ∀ m, m < 64 → m ≠ d.arg 5 0 → t.prog m = { s.prog m with untold := false }) ∧
  (∀ r d s, Taken 0x05 r d s → d.args.getLsbD 6 = true → s.running = [] →
      (∀ n, n < 64 → (s.prog n).endedNow = false) →
    Completes (.progAbort r d) s fun t => Ended 0x05 r d (if s.off.run then stRefused else stNotRunning) 0 s t ∧ SeqTold s t)

/-- R17, R28, R97, R135, R302, R305: the commands that write programs, graph slots and flags. PROG_LOAD and GRAPH_LOAD
write the mirror, and the on-table waits for its commit at the next boundary; a PROG_LOAD whose content is out of
range ends with BAD_ARG. A command whose part write meets a word that cannot be read fails, and the on-table stands
(the model's choice, log 85). -/
def Obligations.TableCommands : Prop :=
  (∀ r d w s, Taken 0x06 r d s → d.bufOk = true → d.dmaOk = true → loadEdit s d = some w → MirrorReads w s →
    Completes (.progLoad r d) s fun t => Waiting 0x06 r d (.progLoad (d.arg 101 96)) s t ∧ MirrorTook w s t ∧
      t.seq.onTable = s.seq.onTable ∧ ProgsTold s t) ∧
  (∀ r d w s, Taken 0x06 r d s → d.bufOk = true → d.dmaOk = true → loadEdit s d = some w → ¬MirrorReads w s →
    Completes (.progLoad r d) s fun t => Ended 0x06 r d stFailed 0 s t ∧ t.seq.onTable = s.seq.onTable ∧ ProgsTold s t) ∧
  (∀ r d s, Taken 0x06 r d s → d.bufOk = true → d.dmaOk = true → loadEdit s d = none →
    Completes (.progLoad r d) s fun t => Ended 0x06 r d stBadArg 0 s t ∧ SeqTold s t) ∧
  (∀ r d w s, Taken 0x07 r d s → d.bufOk = true → d.dmaOk = true → graphWrites s d = some w → MirrorReads w s →
      (∀ p ∈ w, p.1 < 768 ∧ slotOkFor s (p.1 / 8) p.2 = true ∧ graphFree s (p.1 / 8) = true) →
    Completes (.graphLoad r d) s fun t => Waiting 0x07 r d .graphLoad s t ∧ MirrorTook w s t ∧
      t.seq.onTable = s.seq.onTable ∧ ProgsTold s t) ∧
  (∀ l s, s.hst.live = [l] → l.wait = .graphLoad → (∀ i ∈ graphRails l.d, graphFree s i = true) →
    (∀ k, k / 8 ∈ graphRails l.d → (commitLoads s).entryAt k = tget 0 s.seq.mirror k) ∧
      ∀ k, k / 8 ∉ graphRails l.d → (commitLoads s).entryAt k = s.entryAt k) ∧
  (∀ r d s, Taken 0x07 r d s → d.bufOk = false →
    Completes (.graphLoad r d) s fun t => Ended 0x07 r d stBadArg 0 s t ∧ SeqTold s t) ∧
  (∀ r d s, Taken 0x08 r d s → Completes (.flagsSet r d) s fun t => Ended 0x08 r d 0 0 s t ∧
    t.seq.flags = (s.seq.flags &&& ~~~(BitVec.ofNat 32 (d.arg 63 32))) ||| BitVec.ofNat 32 (d.arg 31 0) ∧
      t.seq = { s.seq with flags := t.seq.flags, progs := t.seq.progs } ∧ ProgsTold s t ∧ t.rails = s.rails)

/-- R103, R148, R153, R159, R302: the commands on retries, margins, the first fault and SYSRST#. R111, R184, R255, R263,
R266, R275, R281, R283, R302: the commands on stages and the cap. The basic LOOP_SETUP of PROT_STD writes the values
R281 names (that FULL and the hiccup time go in as given is the model's reading, log 10). -/
def Obligations.RailAndStageCommands : Prop :=
  (∀ r d s, Taken 0x09 r d s → d.args.getLsbD 10 = false → s.grailOk (d.arg 9 0) = true → d.arg 9 0 / 96 = s.index →
    Completes (.retryCancel r d) s fun t =>
      ((s.rail (d.arg 9 0 % 96)).retryPend = true → Ended 0x09 r d 0 0 s t ∧ (t.rail (d.arg 9 0 % 96)).retryPend = false ∧
        (t.rail (d.arg 9 0 % 96)).retry = none ∧ (t.rail (d.arg 9 0 % 96)).backoff = 0 ∧
        (t.rail (d.arg 9 0 % 96)).st = (s.rail (d.arg 9 0 % 96)).st ∧
        ∀ j, j ≠ d.arg 9 0 % 96 → t.rail j = s.rail j) ∧
      ((s.rail (d.arg 9 0 % 96)).retryPend = false → Ended 0x09 r d stNotRunning 0 s t ∧ t.rails = s.rails)) ∧
  (∀ r d w x s, Taken 0x0A r d s → marginArgs s d = some (w, x) → Completes (.margin r d) s fun t =>
    ((s.railView (nbits w 57 48)).1 = 3 → Waiting 0x0A r d (.margin (nbits w 57 48)) s t ∧
      t.seq.margins = s.seq.margins ++ [marginOf (.cmd s.nextSeq) w x { since := s.clk.frame + 1 }] ∧ t.rails = s.rails) ∧
    ((s.railView (nbits w 57 48)).1 ≠ 3 → Ended 0x0A r d stRefused 0 s t ∧ SeqTold s t)) ∧
  (∀ r d s, Taken 0x0A r d s → marginArgs s d = none →
    Completes (.margin r d) s fun t => Ended 0x0A r d stBadArg 0 s t ∧ SeqTold s t) ∧
  (∀ r d s, Taken 0x0B r d s → Completes (.ffClear r d) s fun t => Ended 0x0B r d 0 0 s t ∧
    (∀ f, s.flt.ff = some f → frameBefore f.f.det (s.clk.frame + 1) = true → t.flt.ff = none ∧ t.sca.rff = none) ∧
      (s.flt.ff = none → t.flt = s.flt) ∧ t.flt.queue = s.flt.queue) ∧
  (∀ r d s, Taken 0x0C r d s → Completes (.sysrstRelease r d) s fun t =>
    (s.flt.sysrst = true → Ended 0x0C r d 0 0 s t ∧ t.flt.sysrst = false ∧ t.flt.rstLeft = none) ∧
    (s.flt.sysrst = false → Ended 0x0C r d stNotRunning 0 s t ∧ t.flt = s.flt)) ∧
  (∀ r d sl s, Taken 0x10 r d s → startSlew d = some sl → s.memberOk (d.arg 4 2) = true →
    Completes (.stageStart r d) s fun t => Waiting 0x10 r d (.stage (d.arg 1 0) (d.args.getLsbD 21)) s t ∧
      (∃ o, t.seq.starts = s.seq.starts ++ [o] ∧ o.member = d.arg 4 2 ∧ o.stage = d.arg 1 0 ∧ o.vset = d.arg 20 5 ∧
        o.slew = sl ∧ o.wait = d.args.getLsbD 21 ∧ o.seq = s.nextSeq ∧ o.cand = { since := s.clk.frame + 1 }) ∧
      t.stgs = s.stgs) ∧
  (∀ r d s, Taken 0x11 r d s → s.memberOk (d.arg 4 2) = true → d.arg 4 2 = s.index → Completes (.stageStop r d) s fun t =>
    ((s.stg (d.arg 1 0)).st.running = true → Ended 0x11 r d 0 0 s t ∧ (t.stg (d.arg 1 0)).st = .off ∧
      (t.stg (d.arg 1 0)).switching = false ∧ ∀ j, j ≠ d.arg 1 0 → t.stg j = s.stg j) ∧
    ((s.stg (d.arg 1 0)).st.running = false → Ended 0x11 r d stAlready 0 s t ∧ t.stgs = s.stgs)) ∧
  (∀ r d s, Taken 0x12 r d s → s.memberOk (d.arg 4 2) = true → d.arg 4 2 = s.index → Completes (.stageClear r d) s fun t =>
    ((s.stg (d.arg 1 0)).st = .safeOff → Ended 0x12 r d 0 0 s t ∧ (t.stg (d.arg 1 0)).st = .off ∧
      (t.stg (d.arg 1 0)).faulted = false ∧ (t.stg (d.arg 1 0)).dropped = 0 ∧ (t.stg (d.arg 1 0)).retryCnt = (s.stg (d.arg 1 0)).retryCnt ∧
      (∀ k, k < 8 → (t.phase (8 * d.arg 1 0 + k)).why = 0) ∧ ∀ j, j ≠ d.arg 1 0 → t.stg j = s.stg j) ∧
    ((s.stg (d.arg 1 0)).st.running = true → Ended 0x12 r d stRefused 0 s t ∧ t.stgs = s.stgs)) ∧
  (∀ r d w s, Taken 0x13 r d s → d.bufOk = true → d.dmaOk = true → loopWrites d s = some w →
      (∀ p ∈ w, loopOffset (d.arg 98 97) p.1 = true ∧ ∀ st, stageSetup p.1 = some st → stageClosed s st = false) →
    Completes (.loopSetup r d) s fun t => Ended 0x13 r d 0 0 s t ∧
      (∀ k v, (w.filter fun p => p.1 = k).getLast? = some (k, v) →
        t.cw k = merge (rwsMask k) (s.cw k) (BitVec.ofNat 32 v) ∧ t.bw k = merge (rwsMask k) (s.bw k) (BitVec.ofNat 32 v)) ∧
      (∀ k, (∀ p ∈ w, p.1 ≠ k) → t.cw k = s.cw k ∧ t.bw k = s.bw k) ∧
      ((d.expert && d.args.getLsbD 96) = false → t.coef = s.coef) ∧
      ((d.expert && d.args.getLsbD 96) = true → ∀ i, i < 28 →
        tget 0 t.coef (0x8200 + 0x80 * d.arg 98 97 + 4 * i) = t.cw (0x8200 + 0x80 * d.arg 98 97 + 4 * i))) ∧
  (∀ r d f o u h l s, Taken 0x13 r d s → d.bufOk = true → d.dmaOk = true → d.expert = false → d.arg 100 99 = 2 →
      d.words32.take (d.len / 4) = f :: o :: u :: h :: l → f ≤ 65535 → within 1 65535 h = true → stageClosed s (d.arg 98 97) = false →
    Completes (.loopSetup r d) s fun t => Ended 0x13 r d 0 0 s t ∧ t.cb (0x8000 + 0x80 * d.arg 98 97) 9 = true ∧
      t.cf (0x8000 + 0x80 * d.arg 98 97) 15 12 = max 1 (s.nph (d.arg 98 97) - 2) ∧
      t.cf (0x8000 + 0x80 * d.arg 98 97) 8 0 = s.cf (0x8000 + 0x80 * d.arg 98 97) 8 0 ∧
      t.cf (0x8010 + 0x80 * d.arg 98 97) 31 24 = 16 ∧ t.cf (0x8014 + 0x80 * d.arg 98 97) 25 18 = 8 ∧
      t.cf (0x8014 + 0x80 * d.arg 98 97) 17 8 = s.cf (0x8014 + 0x80 * d.arg 98 97) 17 8 ∧
      t.cf (0x8018 + 0x80 * d.arg 98 97) 15 0 = h ∧ t.cf (0x8018 + 0x80 * d.arg 98 97) 23 16 = 3 ∧
      t.cf (0x801C + 0x80 * d.arg 98 97) 15 0 = f) ∧
  (∀ r d s, Taken 0x18 r d s → d.expert = false → d.arg 15 0 ≤ 6553 → Completes (.capSet r d) s fun t =>
    Waiting 0x18 r d .cap s t ∧ t.cf 0x6104 15 0 = 10 * d.arg 15 0 ∧ t.cf 0x6104 31 16 = s.cf 0x6104 31 16 ∧
      ∀ k, k ≠ 0x6104 → t.cw k = s.cw k) ∧
  (∀ r d s, Taken 0x18 r d s → d.expert = true → Completes (.capSet r d) s fun t =>
    Waiting 0x18 r d .cap s t ∧ t.cf 0x6104 15 0 = d.arg 15 0 ∧
      t.cf 0x6104 31 16 = (if d.args.getLsbD 32 then d.arg 31 16 else s.cf 0x6104 31 16) ∧ ∀ k, k ≠ 0x6104 → t.cw k = s.cw k)

/-- R213, R224, R226, R237, R302: the commands of the converter array. -/
def Obligations.ConvCommands : Prop :=
  (∀ r d e s, Taken 0x20 r d s → (s.core (d.arg 1 0)).powered = true → (s.core (d.arg 1 0)).lp = false → e < 64 →
      entTrig (s.ent (d.arg 1 0) e) = 2 → s.seqBusy (d.arg 1 0) 2 = false →
    Completes (.convStart r d) s fun t => Waiting 0x20 r d (.convSeq (d.arg 1 0)) s t ∧ t.seqBusy (d.arg 1 0) 2 = true) ∧
  (∀ r d s, Taken 0x20 r d s → s.seqBusy (d.arg 1 0) 2 = true →
    Completes (.convStart r d) s fun t => Ended 0x20 r d stBusy 0 s t ∧ t.cnv = s.cnv) ∧
  (∀ r d s, Taken 0x21 r d s → Completes (.convUrgent r d) s fun t =>
    ((s.core (d.arg 1 0)).powered = true ∧ (s.core (d.arg 1 0)).lp = false ∧ (s.urg (d.arg 1 0) (d.arg 3 2)).busy = false →
      Waiting 0x21 r d (.urgent (4 * d.arg 1 0 + d.arg 3 2)) s t ∧ (t.urg (d.arg 1 0) (d.arg 3 2)).busy = true ∧
        (t.core (d.arg 1 0)).urgLost = (s.core (d.arg 1 0)).urgLost) ∧
    ((s.core (d.arg 1 0)).powered = false ∨ (s.core (d.arg 1 0)).lp = true ∨ (s.urg (d.arg 1 0) (d.arg 3 2)).busy = true →
      Ended 0x21 r d stBusy 0 s t ∧ (t.core (d.arg 1 0)).urgLost = sat 0xFF ((s.core (d.arg 1 0)).urgLost + 1) ∧
        Pending 0x77 t)) ∧
  (∀ r d ch s, Taken 0x22 r (bit0 false d) s → calChans (bit0 false d) = some ch → d.arg 2 1 ≠ 3 → ch ≠ [] →
      (∀ c ∈ ch, c < 152) → ch.Nodup → calStartFail s false ch = none →
    Completes (.convCalZero r d) s fun t => Waiting 0x22 r d .cal s t ∧ t.cnv.calState = 1 ∧ t.cnv.calDone = 0 ∧
      t.cnv.cal = some { chans := ch, n := 16 * 4 ^ d.arg 2 1, e0 := sext 32 (d.arg 34 3), seq := s.nextSeq }) ∧
  (∀ r d ch run s, Taken 0x22 r (bit0 true d) s → calChans (bit0 true d) = some ch → d.arg 2 1 ≠ 3 → ch ≠ [] →
      (∀ c ∈ ch, c < 152) → ch.Nodup → s.nv.nvwp = false → s.cnv.cal = some run → calStartFail s true ch = none →
    Completes (.convCalFull r d) s fun t => Waiting 0x22 r d .cal s t ∧ t.cnv.calState = 3 ∧ t.cnv.calDone = 0 ∧
      t.cnv.cal = some { run with n := 16 * 4 ^ d.arg 2 1, e1 := sext 32 (d.arg 34 3), acc := [], seq := s.nextSeq }) ∧
  (∀ r d ch f s, Taken 0x22 r (bit0 false d) s → calChans (bit0 false d) = some ch → d.arg 2 1 ≠ 3 → ch ≠ [] →
      (∀ c ∈ ch, c < 152) → ch.Nodup → calStartFail s false ch = some f →
    Completes (.convCalZero r d) s fun t => Ended 0x22 r d f.1 0 s t ∧ t.cnv.calState = s.cnv.calState ∧ Pending 0x7A t)

/-- R51, R237, R377, R380, R382, R383, R302: the commands on generations. With NVWP# asserted each is refused and told; a
load and a capture give the pending generation; an activation or a revert at a later frame waits for it, one without a
frame comes into force at the boundary; a confirmation ends the probation. -/
def Obligations.ConfigCommands : Prop :=
  (∀ r d s, Taken 0x28 r d s → d.bufOk = true → d.dmaOk = true → s.nv.nvwp = false → genBusy s = false →
    Completes (.configLoad r d) s fun t =>
      (parseImage (d.buf.take d.len) = none → Ended 0x28 r d stBadArg 0 s t ∧ t.nv = s.nv) ∧
      (∀ im, parseImage (d.buf.take d.len) = some im → im.gen ≤ s.nv.gen.cur → Ended 0x28 r d stGeneration 0 s t ∧ t.nv = s.nv) ∧
      (∀ im, parseImage (d.buf.take d.len) = some im → s.nv.gen.cur < im.gen → s.fw.run.cfgMin ≤ im.format →
        Waiting 0x28 r d (.config im.gen) s t ∧ t.nv.gen = { s.nv.gen with pend := im.gen } ∧ t.image im.gen = some im ∧
          t.cfg = s.cfg)) ∧
  (∀ r d s, Taken 0x28 r d s → d.bufOk = true → d.dmaOk = true → s.nv.nvwp = true →
    Completes (.configLoad r d) s fun t => Ended 0x28 r d stNvwp 0 s t ∧ Pending 0xC5 t ∧ t.cfg = s.cfg) ∧
  (∀ r d im s, Taken 0x29 r d s → d.expert = false → s.nv.nvwp = false → genBusy s = false → d.arg 31 0 ≠ s.nv.gen.cur →
      d.arg 31 0 ≠ 0 → (d.arg 31 0 = s.nv.gen.pend ∨ d.arg 31 0 = s.nv.gen.prev) → s.image (d.arg 31 0) = some im →
      im.probation ≤ 3600 → refusal im s = none →
    Completes (.configActivate r d) s fun t => Waiting 0x29 r d (.config (d.arg 31 0)) s t ∧
      t.nv.gen = genAfter s.nv.gen (d.arg 31 0) (0 < im.probation) ∧ t.cfg = (withImage im s).cfg ∧ t.nv.at_ = none ∧
      t.seq.onTable = im.onTable ∧ t.off.table = im.offTable) ∧
  (∀ r d s, Taken 0x29 r d s → s.nv.nvwp = false → d.arg 31 0 ≠ 0 → d.arg 31 0 = s.nv.gen.cur →
    Completes (.configActivate r d) s fun t => Ended 0x29 r d stAlready 0 s t ∧ t.nv = s.nv ∧ t.cfg = s.cfg) ∧
  (∀ r d s, Taken 0x2A r d s → d.expert = true → s.nv.nvwp = false → genBusy s = false → s.nv.gen.prev ≠ 0 →
      d.arg 79 32 ≠ 0 → frameBefore (s.clk.frame + 1) (BitVec.ofNat 48 (d.arg 79 32)) = true →
    Completes (.configRevert r d) s fun t => Waiting 0x2A r d (.config s.nv.gen.prev) s t ∧
      t.nv.at_ = some (BitVec.ofNat 48 (d.arg 79 32), s.nv.gen.prev, 0, s.nextSeq, true) ∧ t.nv.gen = s.nv.gen ∧
      t.cfg = s.cfg) ∧
  (∀ r d s, Taken 0x2A r d s → s.nv.nvwp = false → s.nv.gen.prev = 0 →
    Completes (.configRevert r d) s fun t => Ended 0x2A r d stNotRunning 0 s t ∧ t.nv = s.nv) ∧
  (∀ r d s, Taken 0x2B r d s → s.nv.nvwp = false → genBusy s = false → Completes (.configCapture r d) s fun t =>
    Waiting 0x2B r d (.config (max s.nv.gen.cur (max s.nv.gen.prev s.nv.gen.pend) + 1)) s t ∧
      t.nv.gen = { s.nv.gen with pend := max s.nv.gen.cur (max s.nv.gen.prev s.nv.gen.pend) + 1 } ∧
      (t.image t.nv.gen.pend).isSome = true ∧ t.cfg = s.cfg) ∧
  (∀ r d s, Taken 0x2C r d s → Completes (.configConfirm r d) s fun t =>
    (s.nv.prob.isSome = true → Waiting 0x2C r d (.config s.nv.gen.cur) s t ∧ t.nv.prob = none ∧ t.nv.revertDue = false ∧
      t.nv.gen = { s.nv.gen with prob := false } ∧ Pending 0xC8 t ∧ t.cfg = s.cfg) ∧
    (s.nv.prob = none → Ended 0x2C r d stNotRunning 0 s t ∧ t.nv = s.nv))

/-- R51, R120, R238, R382, R383: what the generations do of themselves. An activation or a revert whose frame has come is
tested, and comes into force or ends refused; probation that runs out undisturbed confirms; a revert that is due comes
into force once no program and no off run is in progress, with its journal entry and event. -/
def Obligations.Generations : Prop :=
  (∀ f n p q im s, s.nv.at_ = some (f, n, p, q, false) → s.image n = some im → refusal im s = none →
    Completes .configActivateAtFrame s fun t => t.nv.at_ = none ∧ t.nv.gen = genAfter s.nv.gen n (0 < p) ∧
      t.nv.prob = (if p = 0 then none else some (15625 * p)) ∧ t.cfg = (withImage im s).cfg ∧
      t.bar0 = (withImage im s).bar0 ∧ t.seq.onTable = im.onTable ∧ t.seq.mirror = im.onTable ∧ t.off.table = im.offTable) ∧
  (∀ f n p q rev im x s, s.nv.at_ = some (f, n, p, q, rev) → s.image n = some im → refusal im s = some x →
    Completes .configActivateAtFrame s fun t => t.nv = { s.nv with at_ := none } ∧ t.liveOf q = none ∧ t.cfg = s.cfg ∧
      t = { s with nv := t.nv, hst := t.hst, jrn := { s.jrn with finals := t.jrn.finals } }) ∧
  (∀ s, s.nv.prob.isSome = true → s.nv.revertDue = false → Completes .configProbationExpiry s fun t =>
    t.nv.prob = none ∧ t.nv.gen = { s.nv.gen with prob := false } ∧ Pending 0xC8 t ∧ t.cfg = s.cfg ∧ t.jrn = s.jrn) ∧
  (∀ im s, s.nv.prob.isSome = true → s.nv.revertDue = true → seqBusy s = false → s.image s.nv.gen.prev = some im →
    Completes .configAutoRevert s fun t => t.nv.prob = none ∧
      t.nv.gen = { s.nv.gen with cur := s.nv.gen.prev, prev := s.nv.gen.cur, prob := false } ∧
      t.cfg = (withImage im s).cfg ∧ t.seq.onTable = im.onTable ∧ Pending 0xC6 t ∧ t.jrn.head = s.nextSeq ∧
      ∃ e, t.jEntry s.nextSeq = some e ∧ e.opcode = 0x84 ∧ e.src = 2 ∧ e.result = s.nv.gen.prev % 2 ^ 32 ∧ e.status = 0) ∧
  (∀ run s, s.cnv.cal = some run → s.cnv.calState = 1 → (∀ ch ∈ run.chans, run.n ≤ (tget (0, 0) run.acc ch).2) →
    Completes .calPhaseDone s fun t => t.cnv.calState = 2 ∧ t.cnv.calResult = 1 ∧ t.liveOf run.seq = none ∧
      (∃ x, t.cnv.cal = some x ∧ x.acc = [] ∧ x.stale = false ∧ x.chans = run.chans ∧ x.n = run.n) ∧ t.nv = s.nv) ∧
  (∀ run s, s.cnv.cal = some run → s.cnv.calState = 3 → (∀ ch ∈ run.chans, run.n ≤ (tget (0, 0) run.acc ch).2) →
      calFail run = none →
    Completes .calPhaseDone s fun t => t.cnv.calState = 0 ∧ t.cnv.calResult = 1 ∧ t.cnv.cal = none ∧ Pending 0x79 t ∧
      t.nv.gen.cur = s.nv.gen.cur + 1 ∧ t.nv.gen.prev = s.nv.gen.cur ∧ t.nv.gen.prob = false)

/-- R162, R183, R302, R307, R317, R378, R401: the commands that read into a host buffer. Each writes exactly what it names
and ends with OK; where a write of the buffer fails it ends with DMA_ERROR and nothing is reported. R350, R363, R377,
R378, R402, R406 to R408: the commands on the recorder, the tag and the pair. -/
def Obligations.ReadAndStoreCommands : Prop :=
  (∀ r d s, Taken 0x30 r d s → d.bufOk = true → within 1 4096 (d.arg 172 160) = true → 32 * d.arg 172 160 ≤ d.len →
    Completes (.journalRead r d) s fun t =>
      (d.dmaOk = true → t.out.head? = some (.buffer d.addr ((List.range (d.arg 172 160)).flatMap fun k =>
          leBytes 32 (journalAt t ((d.arg 159 96 + k) % 2 ^ 64)).1.bits)) ∧
        ∃ n, Ended 0x30 r d 0 n s t ∧ n ≤ d.arg 172 160) ∧
      (d.dmaOk = false → Ended 0x30 r d stDma 0 s t)) ∧
  (∀ r d s, Taken 0x31 r d s → d.bufOk = true → d.dmaOk = true → within 1 1024 (d.arg 138 128) = true →
      32 * d.arg 138 128 ≤ d.len →
    Completes (.alogRead r d) s fun t => t.out.head? = some (.buffer d.addr ((List.range (d.arg 138 128)).flatMap fun k =>
        leBytes 32 ((alogAt s (d.arg 127 96 + k)).elim 0 alogBits))) ∧
      Ended 0x31 r d 0 ((List.range (d.arg 138 128)).filter fun k => (alogAt s (d.arg 127 96 + k)).isSome).length s t) ∧
  (∀ r d s, Taken 0x32 r d s → d.bufOk = true → d.dmaOk = true → within 1 96 (d.arg 109 103) = true →
      d.arg 102 96 + d.arg 109 103 ≤ 96 → 32 * d.arg 109 103 ≤ d.len →
    Completes (.countersRead r d) s fun t => Ended 0x32 r d 0 0 s t ∧
      t.out.head? = some (.buffer d.addr ((List.range (d.arg 109 103)).flatMap fun k =>
        (countersOf s (d.arg 102 96 + k)).flatMap (leBytes 4) ++ leBytes 8 (d.arg 102 96 + k)))) ∧
  (∀ r d s, Taken 0x33 r d s → d.bufOk = true → d.dmaOk = true → 1088 ≤ d.len →
    Completes (.stateRead r d) s fun t => Ended 0x33 r d 0 0 s t ∧
      t.out.head? = some (.buffer d.addr
        ((stateWords { t with clk := { t.clk with frame := s.clk.frame + 1 } }).flatMap (leBytes 4)))) ∧
  (∀ r d s, Taken 0x38 r d s → d.bufOk = true → d.dmaOk = true → within 1 4096 (d.arg 143 128) = true →
      256 * d.arg 143 128 ≤ d.len →
    Completes (.recRead r d) s fun t => t.out.head? = some (.buffer d.addr ((List.range (d.arg 143 128)).flatMap fun k =>
        (recordAt s (d.arg 127 96 + k)).getD (List.replicate 256 0))) ∧
      Ended 0x38 r d 0 ((List.range (d.arg 143 128)).filter fun k => (recordAt s (d.arg 127 96 + k)).isSome).length s t) ∧
  (∀ r d s, Taken 0x3D r d s → d.bufOk = true → d.dmaOk = true → tagOk d = true →
    Completes (.tagRead r d) s fun t => Ended 0x3D r d 0 0 s t ∧
      t.out.head? = some (.buffer d.addr (slice (tagBytes s) (d.arg 106 96) d.len))) ∧
  (∀ r d s, Taken 0x39 r (bit0 true d) s → s.recd.clearing.isSome = true → Completes (.recFreeze r d) s fun t =>
    Ended 0x39 r d stBusy 0 s t ∧ t.recd = s.recd) ∧
  (∀ r d s, Taken 0x39 r (bit0 true d) s → s.recd.clearing = none → Completes (.recFreeze r d) s fun t =>
    (s.recd.frozen = false → Ended 0x39 r d 0 0 s t ∧ t.recd.frozen = true ∧
      t.recd.frzLeft = 15625 * orDef (s.cf 0xB800 19 8) 1 ∧ t.recd.suppressed = 0 ∧ t.recd.summ = none ∧
      t.recd.buf = s.recd.buf) ∧
    (s.recd.frozen = true → Ended 0x39 r d stAlready 0 s t ∧ t.recd = s.recd)) ∧
  (∀ r d s, Taken 0x39 r (bit0 false d) s → Completes (.recThaw r d) s fun t =>
    (s.recd.frozen = true → Ended 0x39 r d 0 0 s t ∧ t.recd.frozen = false ∧ t.recd.summ = none ∧
      (s.recd.summ.isSome = true → Pending 0xCB t)) ∧
    (s.recd.frozen = false → Ended 0x39 r d stNotRunning 0 s t ∧ t.recd = s.recd)) ∧
  (∀ r d s, Taken 0x3A r d s → Completes (.recChallenge r d) s fun t =>
    (s.recd.locked = false → Ended 0x3A r d 0 (Config.random 64 s.fw.draws).toNat s t ∧
      t.recd.nonce = some (Config.random 64 s.fw.draws, s.recd.next, 2 ^ 20) ∧ t.fw.draws = s.fw.draws + 1) ∧
    (s.recd.locked = true → Ended 0x3A r d stRefused 0 s t ∧ t.recd = s.recd)) ∧
  (∀ r d s, Taken 0x3B r d s → s.recd.frozen = false → s.recd.clearing = none → s.nv.nvwp = false →
      s.recd.clears.length < 64 →
    Completes (.recClear r d) s fun t => t.recd.nonce = none ∧
      (clearAllowed s d = true → Waiting 0x3B r d (.store s.nextSeq) s t ∧ t.recd.fails = 0 ∧
        t.recd.next = s.recd.next + 1 ∧ ∃ im, t.recd.clearing = some (s.nextSeq, im) ∧ im.clear = true ∧
          im.rnum = s.recd.next ∧ im.jseq = s.nextSeq) ∧
      (clearAllowed s d = false → Ended 0x3B r d stAuth 0 s t ∧ t.recd.fails = sat 15 (s.recd.fails + 1) ∧
        Pending 0xCD t ∧ (8 ≤ s.recd.fails + 1 → t.recd.locked = true))) ∧
  (∀ r d s, Taken 0x3B r d s → (s.recd.frozen = true ∨ s.recd.clearing.isSome = true) →
    Completes (.recClear r d) s fun t => Ended 0x3B r d stBusy 0 s t ∧ t.recd = s.recd) ∧
  (∀ r d s, Taken 0x3C r d s → d.bufOk = true → d.dmaOk = true → s.nv.nvwp = false → tagOk d = true →
    Completes (.tagWrite r d) s fun t => Waiting 0x3C r d (.store s.nextSeq) s t ∧ t.nv.tag = s.nv.tag ∧
      ∃ j ∈ t.nv.jobs, j.seq = s.nextSeq ∧ j.use = .tag ((tagBytes s).take (d.arg 106 96) ++ d.buf.take d.len ++
        (tagBytes s).drop (d.arg 106 96 + d.len))) ∧
  (∀ r d s, Taken 0x3C r d s → d.bufOk = true → d.dmaOk = true → s.nv.nvwp = true →
    Completes (.tagWrite r d) s fun t => Ended 0x3C r d stNvwp 0 s t ∧ Pending 0xC5 t ∧ t.nv.tag = s.nv.tag ∧
      t.nv.jobs = s.nv.jobs) ∧
  (∀ r d s, Taken 0x40 r d s → s.pair.role = 1 → s.pair.up = true → s.pair.toQ = none → s.pair.toT = none →
    Completes (.pairHandover r d) s fun t => Waiting 0x40 r d .handover s t ∧
      t.pair.toQ = some (32 * cdiv ((s.clk.frame + 1).toNat + 2) 32) ∧ t.pair.hoSeq = some s.nextSeq) ∧
  (∀ r d s, Taken 0x40 r d s → (s.pair.role ≠ 1 ∨ s.pair.up = false) →
    Completes (.pairHandover r d) s fun t => Ended 0x40 r d stRefused 0 s t ∧ t.pair = s.pair)

/-- R325, R326, R327: ports. A port goes from DOWN over SEEK, LOCK and IDENT to UP with a compatible peer, and back to
DOWN as it retrains, with its event; a peer of another role leaves it in IDENT and is told. R25 to R27, R325: a frame
of any kind whose header CRC fails is counted and has no other effect; one that arrives while its port is below IDENT
has none; one whose payload is uncorrectable is counted as discarded. -/
def Obligations.PortsAndDiscardedFrames : Prop :=
  (∀ p s, p < 4 → s.portRole p ≠ 0 → (s.port p).st = 0 → Completes (.portSeek p) s fun t =>
    t.port p = { s.port p with st := 1, age := 0 } ∧ (∀ q, q ≠ p → t.port q = s.port q) ∧ t = { s with sca := t.sca }) ∧
  (∀ p i s, p < 4 → (s.port p).st = 1 → Completes (.portLock p i) s fun t =>
    t.port p = { s.port p with st := 2, age := 0, rxInv := i } ∧ (∀ q, q ≠ p → t.port q = s.port q) ∧ t = { s with sca := t.sca }) ∧
  (∀ p s, p < 4 → (s.port p).st = 2 → Completes (.portIdent p) s fun t =>
    t.port p = { s.port p with st := 3, age := 0 } ∧ ∀ q, q ≠ p → t.port q = s.port q) ∧
  (∀ p peer role rtt delay same act fw s, p < 4 → (s.port p).st = 3 → peerOk p (s.portRole p) role = true →
    Completes (.portUp p peer role rtt delay same act fw) s fun t => (t.port p).st = 4 ∧ (t.port p).peer = peer % 4096 ∧
      (t.port p).delay = sat 0xFFFF delay ∧ ∀ q, q ≠ p → t.port q = s.port q) ∧
  (∀ p peer role rtt delay same act fw s, p < 4 → (s.port p).st = 3 → peerOk p (s.portRole p) role = false →
    Completes (.portUp p peer role rtt delay same act fw) s fun t => (t.port p).st = 3 ∧ Pending (0xA4 + p) t) ∧
  (∀ p s, p < 4 → (s.port p).st ≠ 0 → Completes (.portRetrain p) s fun t => (t.port p).st = 0 ∧
    (t.port p).retrains = sat 0xFFFF ((s.port p).retrains + 1) ∧ (t.port p).syncs = 0 ∧ Pending (0xA0 + p) t ∧
      ∀ q, q ≠ p → t.port q = s.port q) ∧
  (∀ c f s, frameOf c = some f →
    (3 < f.port ∨ (s.port f.port).st < 3 → Completes c s (· = s)) ∧
    (f.port ≤ 3 → 3 ≤ (s.port f.port).st → f.hdrOk = false → Completes c s fun t =>
      (t.port f.port).hdrErr = sat 0xFFFF ((s.port f.port).hdrErr + 1) ∧ (t.port f.port).st = (s.port f.port).st ∧
        (∀ q, q ≠ f.port → t.port q = s.port q) ∧ t = { s with sca := { s.sca with ports := t.sca.ports } }) ∧
    (f.port ≤ 3 → 3 ≤ (s.port f.port).st → f.hdrOk = true → wcDecode f.data f.chk = .uncorrectable → Completes c s fun t =>
      (t.port f.port).discard = sat 0xFFFF ((s.port f.port).discard + 1) ∧ t.cfg = s.cfg ∧ t.clk = s.clk ∧
        t.pair = s.pair ∧ t.jrn = s.jrn ∧ t.dmp = s.dmp ∧ t.flt = s.flt))

/-- R328 to R330, R332 to R334: time and the elections. A SYNC from the source in use gives the alignment error and one
that is ahead names the frame at which the counter loads; a lower candidate is held; the winner announces itself and
is recorded; the loss of the row master holds the last cap. -/
def Obligations.TimeAndElection : Prop :=
  (∀ x s, Received x.f s → Completes (.syncFrame x) s fun t =>
    (t.port x.f.port).syncs = sat 64 ((s.port x.f.port).syncs + 1) ∧ t.clk.frame = s.clk.frame ∧
    (isSource s x.f.port = true → x.good = true → t.clk.alignErr = x.err) ∧
    (s.portGroup x.f.port = 1 → x.master = true → t.sca.syncAge = 0) ∧
    (frameBefore s.clk.frame x.frame = true → x.master = true → t.clk.load = some (s.clk.frame + 1, x.frame + 1)) ∧
    (frameBefore s.clk.frame x.frame = false → t.clk.load = s.clk.load)) ∧
  (∀ f s, Received f s → s.portGroup f.port = 1 → (electId f ≠ s.node ∨ s.sca.cand = false) →
      (∀ x, s.sca.rowElect = some x → electId f < x) →
    Completes (.electFrame f) s fun t => t.sca.rowElect = some (electId f) ∧ t.sca.rowTicks = 0 ∧ t.sca.rowBack = false ∧
      t.clk = s.clk) ∧
  (∀ s, s.sca.cand = true → s.groupUp 1 = true → Completes (.electionWin true) s fun t => t.sca.isMaster = true ∧
    t.sca.hasMaster = true ∧ t.sca.master = s.node ∧ t.sca.syncAge = 0 ∧ t.sca.holdLeft = none) ∧
  (∀ f s, Received f s → s.portGroup f.port = 1 → Completes (.memberFrame f) s fun t => t.sca.master = f.src ∧
    t.sca.hasMaster = true ∧ (t.sca.isMaster = true ↔ f.src = s.node) ∧ t.sca.syncAge = 0 ∧ t.sca.holdLeft = none) ∧
  (∀ s, s.sca.hasMaster = true → s.sca.isMaster = false → Completes .rowMasterLoss s fun t => t.sca.hasMaster = false ∧
    t.sca.holdLeft = some (s.cf 0x9058 19 12) ∧ Pending 0xA9 t ∧ t.dmp = s.dmp) ∧
  (∀ s, s.sca.holdLeft.isSome = true → Completes .rowCapHoldExpiry s fun t => t.sca.holdLeft = none ∧
    t.dmp.rowCap = some (s.cf 0x9064 15 0) ∧ t = { s with sca := t.sca, dmp := { s.dmp with rowCap := t.dmp.rowCap } }) ∧
  (∀ v s, Completes (.frameCounterLoad v) s fun t => t = { s with clk := { s.clk with load := some (s.clk.frame + 1, v) } }) ∧
  (∀ v s, s.clk.load = some (s.clk.frame + 1, v) → s.fw.h = none →
    (frameBefore (s.clk.frame + 1) v = true → (order1 s).clk.frame = v ∧ (order1 s).clk.load = none ∧ Pending 0x12 (order1 s) ∧
      (order1 s).jrn.head = s.nextSeq ∧ ∃ e, (order1 s).jEntry s.nextSeq = some e ∧ e.opcode = 0x82 ∧ e.frame = v) ∧
    (frameBefore (s.clk.frame + 1) v = false → (order1 s).clk.frame = s.clk.frame + 1 ∧ (order1 s).clk.load = none ∧
      (order1 s).jrn = s.jrn))

/-- R125, R127, R130, R157, R324, R336, R337, R459: the stack. A member's status makes it known to have joined; records
for this member wait for order 7 of their boundary; a lost section, a silent master and a member that is missing are
told; a class that the stack holds up is left alone after CLASS_SYNC. -/
def Obligations.StackRing : Prop :=
  (∀ f m s, Received f s → s.portGroup f.port = 2 → m ≤ 7 → s.role ≠ 1 → Completes (.statusFrame f m) s fun t =>
    t.sca.joined.testBit m = true ∧ tget none t.drt.memberTherm m = some (nbits (payload f) 23 8) ∧
      (m = s.sca.elected → t.sca.stkAge = 0) ∧ t.rails = s.rails) ∧
  (∀ f s, Received f s → s.role = 2 → s.sca.alone = false → (payload f).testBit 0 = false → Completes (.cmdFrame f) s fun t =>
    t.sca.rx = s.sca.rx ++ (((cmdRecords 15 ((List.range (nbits (payload f) 4 1)).map fun k =>
      nbits (payload f) (16 + 16 * k + 15) (16 + 16 * k))).filter fun r => r.dest = s.index).map fun r => (2, r)) ∧
      t.sca.stkAge = s.sca.stkAge ∧ t.rails = s.rails) ∧
  (∀ f s, Received f s → s.role = 2 → s.sca.alone = false → (payload f).testBit 0 = true → Completes (.cmdFrame f) s fun t =>
    t.sca.rx = s.sca.rx ++ (((cmdRecords 15 ((List.range (nbits (payload f) 4 1)).map fun k =>
      nbits (payload f) (16 + 16 * k + 15) (16 + 16 * k))).filter fun r => r.dest = s.index && !s.sca.rx.contains (1, r)).map
        fun r => (1, r)) ∧ t.rails = s.rails) ∧
  (∀ s, s.role = 2 → Completes .stackCommandLoss s fun t => t.sca.cmdLoss = 32 ∧ Pending 0xAC t ∧
    EventsOnly { s with sca := t.sca } t) ∧
  (∀ f d kind s, Received f s → s.portGroup f.port = 2 → s.role = 2 → Completes (.relayFrame f (some d) (none, kind)) s fun t =>
    t.jrn.head = s.nextSeq ∧ ∃ l, t.hst.live = s.hst.live ++ [l] ∧ t.hst.decided = s.hst.decided ++ [l] ∧
      l.seq = s.nextSeq ∧ l.relayed = true ∧ l.d = d) ∧
  (∀ m s, s.role = 2 → s.cb 0x4008 13 = false → Completes (.stackMemberLoss m) s fun t => t.sca.alone = true ∧
    t.sca.rx = [] ∧ Pending 0x42 t ∧ t.off = s.off) ∧
  (∀ m s, s.role = 1 → m < 8 → m ≠ s.index → Completes (.stackMemberLoss m) s fun t =>
    t.sca.lostMembers.testBit m = true ∧ Pending 0x42 t ∧ t.off = s.off) ∧
  (∀ s, s.off.run = true → s.off.sync.isSome = true → Completes .classSyncTimeout s fun t => t.off.sync = none ∧ Pending 0x41 t) ∧
  (∀ s, s.role = 1 → s.sca.joinStack.isSome = true → Completes .stackJoinTimeout s fun t => t.sca.joinStack = none ∧
    Pending 0xB0 t ∧ ∀ m, m < 8 → (s.cf 0x4008 12 5).testBit m = true → m ≠ s.index → s.sca.joined.testBit m = false →
      t.sca.lostMembers.testBit m = true)

/-- R339, R341, R342, R344, R482: the row. A node's status is what the master holds of it; a cap addressed to the node is
its row cap; the earlier of two first faults stands; a marked event is the master's row event; each copy of a frame is
taken once. -/
def Obligations.RowFrames : Prop :=
  (∀ f d fl il rd lv dm s, Received f s → FirstCopy 13 f s → s.sca.isMaster = true →
    Completes (.rowstatFrame f d fl il rd lv dm) s fun t => (t.rnode f.src).valid = true ∧
      (t.rnode f.src).demand = d % 65536 ∧ (t.rnode f.src).floor = fl % 65536 ∧ (t.rnode f.src).inloss = il ∧
      (t.rnode f.src).ready = rd ∧ (t.rnode f.src).level = lv % 8 ∧ ∀ n, n ≠ f.src → t.rnode n = s.rnode n) ∧
  (∀ f c s, Received f s → FirstCopy 11 f s → (f.bcast = true ∨ f.dst = s.node) → s.sca.member = true → s.sca.refused = 0 →
    Completes (.capFrame f c) s fun t => t.dmp.rowCap = some (c % 65536) ∧ t.sca.holdLeft = none ∧ t.dmp.level = s.dmp.level) ∧
  (∀ f c s, Received f s → FirstCopy 11 f s → s.sca.refused ≠ 0 → Completes (.capFrame f c) s fun t => t.dmp = s.dmp) ∧
  (∀ f ts n g k al s, Received f s → FirstCopy 12 f s → s.sca.rff = none → Completes (.faultFrame f ts n g k al) s fun t =>
    t.sca.rff = some { ts := ts, node := n % 4096, grail := g % 1024, kind := k % 8, unaligned := !al } ∧ t.flt = s.flt) ∧
  (∀ c s, s.flt.ff = some c → s.sca.bcast ≠ 0 → Completes .faultBroadcast s fun t => t.sca.bcast = s.sca.bcast - 1 ∧
    t.flt = s.flt) ∧
  (∀ f o s, Received f s → FirstCopy 14 f s → s.sca.isMaster = true → Completes (.eventFrame f o) s fun t => Pending 0xAB t ∧
    t.sca.seen.contains (f.src, 14, f.seq) = true) ∧
  (∀ f s, Received f s → FirstCopy 15 f s → Completes (.telemFrame f) s fun t =>
    t.sca.seen.contains (f.src, 15, f.seq) = true ∧ t = { s with sca := t.sca }) ∧
  (∀ f s, Received f s → s.sca.seen.contains (f.src, 15, f.seq) = true → Completes (.telemFrame f) s fun t =>
    t.sca.seen = s.sca.seen ∧ t = { s with sca := t.sca })

/-- R345 to R351, R460: the redundant pair. A PAIR_EN keeps the link up and brings the partner's vector; journal entries
and snapshots are held and acknowledged; a planned handover changes the roles at T; a lost partner is taken over, with
the journal's new epoch, its entry and its event. -/
def Obligations.RedundantPair : Prop :=
  (∀ f s, Received f s → s.portGroup f.port = 3 → s.pair.role = 2 → Completes (.pairEnFrame f) s fun t =>
    t.pair.got = true ∧ t.pair.miss = 0 ∧ t.pair.up = true ∧ t.pair.hbMiss = nbits (payload f) 199 192 ∧
      (2, BitVec.ofNat 96 (nbits (payload f) 95 0)) ∈ t.pair.vecs ∧ t.pair.role = 2) ∧
  (∀ s, Completes .xrstOutRelease s fun t => t = { s with pair := { s.pair with xrstOut := none } }) ∧
  (∀ s, s.pair.role = 1 → s.pair.xrstOut = none → Completes .shadowReset s fun t =>
    t.pair.xrstOut = some (orDef (s.cf 0xE000 22 15) 1) ∧ Pending 0xAE t ∧ EventsOnly { s with pair := t.pair } t) ∧
  (∀ f s, Received f s → s.pair.role = 2 → Completes (.journalFrame f) s fun t =>
    t.jEntry (jOfBits (payload f)).seq = some (jOfBits (payload f)) ∧ t.jrn.head = max (jOfBits (payload f)).seq s.jrn.head ∧
      ∃ x ∈ (t.port 3).txq, x.kind = 9 ∧ x.dst = some s.pair.partner ∧
        x.payload = BitVec.ofNat 256 (jOfBits (payload f)).seq) ∧
  (∀ f q s, Received f s → Completes (.jackFrame f q) s fun t => t.pair.unacked = s.pair.unacked.filter (fun x => x.1 ≠ q) ∧
    t.jrn = s.jrn) ∧
  (∀ x l e s, s.pair.unacked = x :: l → s.jEntry x.1 = some e → Completes .journalResend s fun t =>
    (∃ y ∈ (t.port 3).txq, y.kind = 8 ∧ y.dst = some s.pair.partner ∧ y.payload = BitVec.ofNat 256 e.bits) ∧
    (x.1, 0) ∈ t.pair.unacked ∧ t.pair.unacked.map (·.1) = s.pair.unacked.map (·.1) ∧
      t = { s with pair := { s.pair with unacked := t.pair.unacked }, sca := t.sca }) ∧
  (∀ f tk items s, Received f s → s.pair.role = 2 → Completes (.mirrorFrame f tk 0 1 items) s fun t =>
    t.pair.adopted = true ∧ t.pair.arriving = none ∧ t.pair.snap = tk % 2 ^ 32 ∧
      (s.pair.arriving = none → t.pair.held = items)) ∧
  (∀ s, s.pair.role = 1 → s.pair.toQ.isSome = true → Completes .handoverQuietPoint s fun t => t.pair.quiet = true ∧
    t.pair.toQ = none ∧ t.pair.toT = some (s.now + 32) ∧ t.pair.role = 1) ∧
  (∀ q s, s.pair.role = 1 → s.pair.toT.isSome = true → s.pair.hoSeq = some q → Completes .handoverTakeover s fun t =>
    t.pair.role = 2 ∧ t.pair.quiet = false ∧ t.pair.toT = none ∧ t.pair.lastCause = 3 ∧ t.liveOf q = none ∧
      ∀ st, st < 4 → (s.stg st).st ≠ .unused → (t.stg st).st = .held) ∧
  (∀ s, s.pair.role = 2 → s.role = 0 → Completes .pairLinkLoss s fun t => t.pair.role = 1 ∧ t.pair.lastCause = 1 ∧
    t.pair.takeovers = sat 0xFFFF (s.pair.takeovers + 1) ∧ t.pair.xrstOut = some (orDef (s.cf 0xE000 22 15) 1) ∧
      t.jrn.head = (if s.jrn.head = 0 then 2 ^ 32 else (s.jrn.head / 2 ^ 32 + 1) * 2 ^ 32) ∧ Pending 0xAD t ∧ Pending 0xAE t) ∧
  (∀ s, s.pair.role = 2 → s.role = 0 → Completes .pairHeartbeatTakeover s fun t => t.pair.role = 1 ∧ t.pair.lastCause = 2 ∧
    t.pair.takeovers = sat 0xFFFF (s.pair.takeovers + 1) ∧ t.pair.xrstOut = some (orDef (s.cf 0xE000 22 15) 1) ∧
      t.jrn.head = (if s.jrn.head = 0 then 2 ^ 32 else (s.jrn.head / 2 ^ 32 + 1) * 2 ^ 32) ∧ Pending 0xAD t ∧ Pending 0xAE t) ∧
  (∀ s, s.cb 0xE000 0 = true → s.pair.role = 0 → (s.port 3).st ≠ 4 → Completes .pairAlone s fun t => t.pair.role = 1 ∧
    t.sca.joinPair = none ∧ Pending 0xB1 t)

/-- R181, R355, R356, R361 to R363, R365, R371, R385: the flash. Work of a class waits until the pass has admitted it. A
codeword is programmed and verified; the first copy of a kept record stands; its last one ends the command that wrote
it; a failed verify writes the record again, whole, with its event; an erase is counted. -/
def Obligations.FlashWrites : Prop :=
  (∀ j l w s, s.nv.tail = none → pickJob s s.nv.jobs = some (j, l) → j.begun = true → 1 < j.left → jobWord s j = some w →
    Completes (.flashProgramDone true) s fun t => t.nv.jobs = { j with left := j.left - 1 } :: l ∧
      (s.flashRaw (jobAddr j / 32) = erasedWord → t.flashRaw (jobAddr j / 32) = wcEncode w) ∧
      (s.flashRaw (jobAddr j / 32) ≠ erasedWord → t.flashRaw (jobAddr j / 32) = s.flashRaw (jobAddr j / 32)) ∧
      t = { s with nv := { s.nv with jobs := t.nv.jobs, flash := t.nv.flash, badAt := t.nv.badAt, armed := t.nv.armed } }) ∧
  (∀ j l b s, s.nv.tail = none → pickJob s s.nv.jobs = some (j, l) → j.begun = true → j.left ≤ 1 → j.twinB = false →
      j.only = false → j.use = .tag b →
    Completes (.flashProgramDone true) s fun t => t.nv.tag = b ∧
      ∃ x, t.nv.jobs = x :: l ∧ x.use = .tag b ∧ x.twinB = true ∧ x.left = 66 ∧ x.seq = j.seq) ∧
  (∀ j l b s, s.nv.tail = none → pickJob s s.nv.jobs = some (j, l) → j.begun = true → j.left ≤ 1 → j.twinB = true →
      j.use = .tag b → j.seq ≠ 0 →
    Completes (.flashProgramDone true) s fun t => t.liveOf j.seq = none ∧ t.nv.tag = s.nv.tag ∧
      t.nv.jobs.length = l.length ∧ ∀ x ∈ s.hst.live, x.seq = j.seq → x.relayed = false → s.liveOf j.seq = some x →
        ∃ c ∈ t.hst.ready, c.seq = j.seq ∧ c.status = 0 ∧ c.final = true) ∧
  (∀ j l b s, s.nv.tail = none → pickJob s s.nv.jobs = some (j, l) → j.use = .tag b →
    Completes (.flashProgramDone false) s fun t => Pending 0xC1 t ∧
      t.nv.tag = s.nv.tag ∧ ∃ x, t.nv.jobs = x :: l ∧ x.use = .tag b ∧ x.twinB = false ∧ x.left = j.total ∧ x.rseq = s.nv.rseq) ∧
  (∀ n l s, s.nv.erases = (n, .mirror) :: l → s.nv.jobs = [] → Completes .flashEraseDone s fun t =>
    t.nv.erases = l ∧ t.nv.mirrorRoom = true ∧ tget 0 t.nv.wear n = tget 0 s.nv.wear n + 1 ∧
      (tget 0 s.nv.wear n + 1 = 80000 → Pending 0xC4 t) ∧ (tget 0 s.nv.wear n + 1 ≠ 80000 → t.evt = s.evt)) ∧
  (∀ i s, i < 96 → (s.rail i).delta ≠ [] → 256 ≤ tget 256 s.nv.cAge i →
      tget 0 (s.cgrp (i / 8)).used (i % 8) < 16 → bgFree s 0 = true →
    Completes (.counterRingUpdate i) s fun t => tget ([], 0) t.nv.counters i = (countersOf s i, s.nv.rseq) ∧
      t.nv.rseq = s.nv.rseq + 1 ∧ (t.rail i).delta = [] ∧ (t.rail i).cnt = (s.rail i).cnt ∧ tget 256 t.nv.cAge i = 0 ∧
      (∀ j, j ≠ i → t.rail j = s.rail j) ∧ t.evt = s.evt) ∧
  (∀ s, s.nv.sweep = false → Completes .marginSweepStart s fun t => t.nv.sweep = true ∧ t.nv.sweepPos = 0 ∧
    t.nv.sweepBegan = some s.clk.frame ∧ t = { s with nv := t.nv }) ∧
  (∀ s, s.nv.sweep = true → bgFree s 5 = true → (s.nv.sweepPos / 256 + 1) % 64 ≠ 0 → Completes (.sweepStep [] []) s fun t =>
    t = { s with nv := { s.nv with sweepPos := 256 * (s.nv.sweepPos / 256 + 1) } }) ∧
  (∀ s, s.nv.sweep = true → bgFree s 5 = true → s.nv.sweepPos / 256 = 511 → Completes (.sweepStep [] []) s fun t =>
    t = { s with nv := { s.nv with sweep := false, sweepPos := 0, sweeps := sat 0xFFFF (s.nv.sweeps + 1) } })

/-- R388, R389, R393, R394, R402 to R404, R406, R408: the recorder. CE3 makes the image of the oldest occurrence, or the
freeze's summary takes it; a flush places what the buffer holds; the freeze and a nonce end with their time; an
accepted clear record clears what it names, and the sectors it empties are erased. -/
def Obligations.Recorder : Prop :=
  (∀ f o l s, s.recd.queue = (f, o) :: l → (s.eng 3).halted = false → frameLe f s.clk.frame = true → s.recd.frozen = false →
      tget 0 s.recd.hold o.src = 0 → s.recd.buf.length < 512 →
    Completes .recordImageMake s fun t => t.recd.queue = l ∧ t.recd.next = s.recd.next + 1 ∧
      tget 0 t.recd.hold o.src = s.cf (0xB000 + 4 * o.src) 15 8 ∧ tget 0 t.recd.absorbed o.src = 0 ∧
      (o.sev = 3 → t.recd.flush = true) ∧ (∃ im, t.recd.buf = s.recd.buf ++ [im] ∧ im.rnum = s.recd.next ∧ im.src = o.src ∧
        im.sev = o.sev ∧ im.ts = o.ts ∧ im.count = sat 0xFFFF (tget 0 s.recd.absorbed o.src + 1) ∧
        im.snapFrame = s.clk.frame) ∧
      t = { s with recd := t.recd, wc := { s.wc with err := t.wc.err, bad := t.wc.bad } }) ∧
  (∀ f o l s, s.recd.queue = (f, o) :: l → (s.eng 3).halted = false → frameLe f s.clk.frame = true → s.recd.frozen = true →
    Completes .recordImageMake s fun t => t.recd.queue = l ∧ t.recd.summ.isSome = true ∧
      (s.recd.summ.isSome = true → t.recd.buf.map (·.rnum) = s.recd.buf.map (·.rnum) ∧ t.recd.next = s.recd.next) ∧
      (s.recd.summ = none → s.recd.buf.length < 512 → t.recd.next = s.recd.next + 1 ∧
        ∃ im, t.recd.buf = s.recd.buf ++ [im] ∧ im.rnum = s.recd.next ∧ im.src = 0xCB ∧ im.summary = true ∧ im.count = 1) ∧
      t.recd.suppressed = sat 0xFFFF (s.recd.suppressed + 1) ∧ t.recd.highest = max s.recd.highest o.sev ∧
      t = { s with recd := t.recd, wc := { s.wc with err := t.wc.err, bad := t.wc.bad } }) ∧
  (∀ n s, Completes (.holdoffExpiry n) s fun t => tget 0 t.recd.hold n = 0 ∧ (∀ k, k ≠ n → tget 0 t.recd.hold k = tget 0 s.recd.hold k) ∧
    t = { s with recd := { s.recd with hold := t.recd.hold } }) ∧
  (∀ im s, s.recd.frozen = false → s.recd.buf = [im] → s.recd.flushing = [] → (placeRecord im s).1 = true →
    Completes .recorderFlush s fun t => t.recd.flush = true ∧ t.recd.flushing = [im.rnum] ∧ t.recd.buf = s.recd.buf ∧
      ∃ j ∈ t.nv.jobs, j.use = .record im ∧ j.rseq = s.nv.rseq) ∧
  (∀ s, s.recd.frozen = true → Completes .recorderFlush s (· = s)) ∧
  (∀ s, s.recd.frozen = true → Completes .freezeTimeout s fun t => t.recd.frozen = false ∧ t.recd.summ = none ∧
    t.recd.frzLeft = 0 ∧ (s.recd.summ.isSome = true → Pending 0xCB t)) ∧
  (∀ s, Completes .nonceExpiry s fun t => t = { s with recd := { s.recd with nonce := none } }) ∧
  (∀ q im s, s.recd.clearing = some (q, im) → s.recd.queue.length < 64 → Completes .clearCommit s fun t =>
    t.recd.clearing = none ∧ t.recd.clears = s.recd.clears ++ [im] ∧ t.recd.ash = 0 ∧
      t.recd.erasing = some (nbits im.extra 63 32) ∧ t.recd.buf = s.recd.buf.filter (fun x => nbits im.extra 63 32 < x.rnum) ∧
      t.liveOf q = none ∧ Pending 0xCC t) ∧
  (∀ h k x s, s.recd.erasing = some h → (k, some x) ∈ s.recd.sects → onlyCleared h x = true → Completes .clearErasure s fun t =>
    tget none t.recd.sects k = none ∧ (0x2C0000 / 8192 + k, .recorder) ∈ t.nv.erases ∧ t.recd.erasing = some h) ∧
  (∀ h s, s.recd.erasing = some h → (∀ p ∈ s.recd.sects, ∀ x, p.2 = some x → onlyCleared h x = false) →
      (∀ e ∈ s.nv.erases, e.2 ≠ .recorder) →
    Completes .clearErasure s fun t => t = { s with recd := { s.recd with erasing := none } })

/-- R417 to R419: a request on the flue port. While one is being worked on another is discarded and counted; one whose CRC
fails is answered with BAD_PACKET; one without the session lock is refused; none has another effect on the update. -/
def Obligations.FluePort : Prop :=
  (∀ c cmd p s, flueOf c = some (cmd, p) → flueOn s = true → s.fw.busy = true → Completes c s fun t =>
    t = { s with fw := { s.fw with discard := sat 0xFFFF (s.fw.discard + 1) } }) ∧
  (∀ c cmd p s, flueOf c = some (cmd, p) → flueOn s = true → s.fw.busy = false → p.crc ≠ reqCrc cmd p → Completes c s fun t =>
    Answered p.tag flBadPacket [] t ∧ t.fw.crcErr = sat 0xFFFF (s.fw.crcErr + 1) ∧ t.fw.sess = s.fw.sess ∧
      t.fw.lastStatus = flBadPacket ∧ t.fw.lastCmd = cmd ∧ t.fw.state = s.fw.state ∧ t = { s with fw := t.fw }) ∧
  (∀ p s, FlueTakes 1 p (· = 4) (fun _ => true) s → s.fw.sess = none → Completes (.flueOpen p) s fun t =>
    Answered p.tag flOk (leBytes 4 (Config.random 32 s.fw.draws).toNat) t ∧
      t.fw.sess = some { id := (Config.random 32 s.fw.draws).toNat } ∧ t.fw.draws = s.fw.draws + 1 ∧ t = { s with fw := t.fw }) ∧
  (∀ p s, FlueTakes 1 p (· = 4) (fun _ => true) s → s.fw.sess.isSome = true → Completes (.flueOpen p) s fun t =>
    Answered p.tag flBusy [] t ∧ t = { s with fw := t.fw }) ∧
  (∀ b s, flueOn s = true → s.fw.busy = false → s.fw.resp = some b → Completes .flueRead s fun t =>
    t.fw.resp = none ∧ t.out = .flue b :: s.out ∧ t = { s with fw := t.fw, out := t.out }) ∧
  (∀ s, flueOn s = true → (s.fw.busy = true ∨ s.fw.resp = none) → Completes .flueRead s fun t =>
    t = { s with out := .flue (flPacket flNotReady 0 []) :: s.out }) ∧
  (∀ p s, FlueTakes 7 p (· = 0) (fun _ => true) s → Completes (.flueStatus p) s fun t =>
    (∃ b, b.length = 20 ∧ Answered p.tag flOk b t) ∧ t = { s with fw := t.fw }) ∧
  (∀ p s, FlueTakes 8 p (· = 0) (fun _ => true) s → Completes (.flueClose p) s fun t => t.fw.sess = none ∧
    Answered p.tag flOk [] t ∧ t = { s with fw := t.fw }) ∧
  (∀ x s, s.fw.sess = some x → x.keep = false → Completes .flueSessionLapse s fun t => t.fw.sess = none ∧ Pending 0xE0 t ∧
    EventsOnly { s with fw := t.fw } t) ∧
  (∀ x s, s.fw.sess = some x → x.keep = true → Completes .flueSessionLapse s (· = s)) ∧
  (∀ p ok s, FlueTakes 9 p (· = 32) (· = 1) s → Completes (.keyProgram p ok) s fun t =>
    ((clearKey s).isSome = true → Answered p.tag flKeySet [] t ∧ t.recd.key = s.recd.key) ∧
    (clearKey s = none → s.nv.nvwp = false → ok = true → s.fw.keyFail = false →
      Answered p.tag flOk [] t ∧ t.recd.key = some (BitVec.ofNat 256 (leNat p.payload))) ∧
    (clearKey s = none → s.nv.nvwp = false → ok = false → Answered p.tag flFlash [] t ∧ t.fw.keyFail = true ∧
      t.recd.key = none))

/-- R414, R421 to R426, R431: download, verification and activation. A header that fails a check is refused by the first,
else the session takes its body; a packet in its place waits for its codewords; a staged image that passes every check
is verified; one activated is armed. -/
def Obligations.Download : Prop :=
  (∀ p pp s, FlueTakes 2 p (· = 256) (· = 1) s → Completes (.flueHeader p pp) s fun t =>
    (∀ st, hdrFail p.payload s = some st → Answered p.tag st [] t ∧ Pending 0xE1 t ∧ t.fw.state = s.fw.state) ∧
    (hdrFail p.payload s = none → s.nv.nvwp = true → Answered p.tag flNvwp [] t ∧ Pending 0xC5 t ∧ t.fw.state = s.fw.state) ∧
    (hdrFail p.payload s = none → s.nv.nvwp = false → onProbation s = false → (s.shadow && pp) = false →
      Answered p.tag flOk [] t ∧ t.fw.state = { s.fw.state with prevValid := false } ∧
        ∃ x, t.fw.sess = some x ∧ x.st = 3 ∧ x.hdr = parseHdr p.payload ∧ x.body = [])) ∧
  (∀ p x s, FlueTakes 3 p (within 36 516) (within 2 3) s → s.fw.sess = some x → x.noBody = false → x.last = none →
      leAt p.payload 0 4 = x.body.length → (p.payload.drop 4).length = 512 → x.body.length + 512 ≤ x.hdr.bodySize →
    Completes (.flueData p) s fun t => t.fw.busy = true ∧ t.fw.resp = none ∧
      (∃ y, t.fw.sess = some y ∧ y.body = x.body ++ p.payload.drop 4 ∧ y.busy = true ∧ y.tag = p.tag ∧ y.st = 3) ∧
      t = { s with fw := t.fw }) ∧
  (∀ p x s, FlueTakes 3 p (within 36 516) (within 2 3) s → s.fw.sess = some x → x.noBody = false → x.last = none →
      leAt p.payload 0 4 ≠ x.body.length →
    Completes (.flueData p) s fun t => Answered p.tag flOffset [] t ∧ Pending 0xE2 t ∧
      ∃ y, t.fw.sess = some y ∧ y.body = x.body) ∧
  (∀ x s, s.fw.sess = some x → x.busy = true → bgFree s 4 = true → Completes .dataProgrammed s fun t => Answered x.tag flOk [] t ∧
    t.fw.sess = some { x with busy := false } ∧
      t = { s with fw := t.fw, nv := { s.nv with flash := t.nv.flash, badAt := t.nv.badAt } }) ∧
  (∀ s, bgFree s 4 = false → Completes .dataProgrammed s (· = s)) ∧
  (∀ p l x s u, FlueTakes 4 p (· = 0) (· = 3) s → s.fw.sess = some x → x.body.length = x.hdr.bodySize →
      u = each l (fun x s => upset (0x18, x) s) s →
    Completes (.flueVerify p l) s fun t =>
      (verifyFails x (!(stagedBad x u).isEmpty) u = none → Answered p.tag flOk (sha256 (manifest x.body)) t ∧
        ∃ y, t.fw.sess = some y ∧ y.st = 4 ∧ y.mdig = sha256 (manifest x.body) ∧ y.body = x.body) ∧
      (∀ r, verifyFails x (!(stagedBad x u).isEmpty) u = some r → Pending 0xE2 t ∧ t.fw.lastStatus = r.1 ∧
        ∃ y, t.fw.sess = some y ∧ y.st = 1 ∧ y.body = [])) ∧
  (∀ p l x s, FlueTakes 4 p (· = 0) (· = 3) s → s.fw.sess = some x → x.body.length ≠ x.hdr.bodySize →
    Completes (.flueVerify p l) s fun t => Answered p.tag flBadState [] t) ∧
  (∀ p x s, FlueTakes 5 p (· = 8) (· = 4) s → s.fw.sess = some x → s.pwr.phase = .run → leAt p.payload 0 6 = 0 →
      within 1 3600 (leAt p.payload 6 2) = true → s.nv.nvwp = false → s.pair.role = 0 → s.shadow = false →
    Completes (.flueActivate p true false) s fun t => t.fw.busy = true ∧ t.fw.arming = true ∧ t.fw.state.phase = 1 ∧
      t.fw.state.window = leAt p.payload 6 2 ∧ t.fw.other = some (fwImage x.hdr x.body) ∧
      (∃ y, t.fw.sess = some y ∧ y.st = 5 ∧ y.tag = p.tag) ∧ ∃ j ∈ t.nv.jobs, j.use = .fwState t.fw.state) ∧
  (∀ p x s, FlueTakes 5 p (· = 8) (· = 4) s → s.fw.sess = some x → s.pwr.phase = .run → leAt p.payload 0 6 = 0 →
      within 1 3600 (leAt p.payload 6 2) = true → s.nv.nvwp = false → s.pair.role = 0 → s.shadow = false →
    Completes (.flueActivate p false false) s fun t => Answered p.tag flComponent [] t ∧ Pending 0xE3 t ∧
      t.fw.state = s.fw.state)

/-- R427, R429, R433: the handover and probation of firmware. At H the banks change and the image that ran is the other
one; its completion is journalled and begins the probation; a confirmation makes it the confirmed one; a window that
runs out chooses the reverse handover. -/
def Obligations.FirmwareHandover : Prop :=
  (∀ l h i s, s.fw.h = some h → s.fw.other = some i → Completes (.firmwareHandover l) s fun t => t.fw.h = none ∧
    t.fw.hover = h ∧ t.fw.run = i ∧ t.fw.other = some s.fw.run ∧ t.fw.runBank = !s.fw.runBank ∧ t.fw.finishing = true ∧
      t.fw.xferring = l.filter (engUsed s) ∧ t.rails = s.rails ∧ t.seq = s.seq ∧ t.stgs = s.stgs ∧ t.cfg = s.cfg) ∧
  (∀ s, s.fw.finishing = true → s.fw.reverse = false → Completes .handoverComplete s fun t => t.fw.finishing = false ∧
    t.fw.state = { s.fw.state with phase := 2 } ∧ t.fw.left.isSome = true ∧ Pending 0xE4 t ∧ t.jrn.head = s.nextSeq ∧
      ∃ e, t.jEntry s.nextSeq = some e ∧ e.opcode = 0x87 ∧ e.persist = true ∧ e.result = s.fw.run.version % 2 ^ 32) ∧
  (∀ s, s.fw.finishing = true → s.fw.reverse = true → Completes .handoverComplete s fun t => t.fw.finishing = false ∧
    t.fw.state.phase = 0 ∧ t.fw.reverse = false ∧ t.fw.left = none ∧ t.fw.other = none ∧ Pending 0xE8 t ∧
      t.jrn.head = s.nextSeq) ∧
  (∀ p s, FlueTakes 6 p (· = 0) (fun _ => true) s → onProbation s = true → s.fw.finishing = false → s.fw.h = none →
      s.pair.role = 0 →
    Completes (.flueConfirm p false) s fun t => t.fw.busy = true ∧ t.fw.confirm = some p.tag ∧ t.fw.left = none ∧
      t.fw.state.phase = 0 ∧ t.fw.state.prevValid = true ∧ t.fw.state.confBank = s.fw.runBank ∧
      t.fw.state.confVersion = s.fw.state.candVersion) ∧
  (∀ p s, FlueTakes 6 p (· = 0) (fun _ => true) s → onProbation s = false → Completes (.flueConfirm p false) s fun t =>
    Answered p.tag flBadState [] t ∧ t.fw.state = s.fw.state) ∧
  (∀ s, onProbation s = true → s.fw.h = none → s.fw.finishing = false → Completes .firmwareProbationExpiry s fun t =>
    (∀ h, chooseH s s.fw.run.rev (s.clk.frame + 1) = some h → t.fw.h = some h ∧ t.fw.reverse = true ∧ t.fw.left = none) ∧
    (chooseH s s.fw.run.rev (s.clk.frame + 1) = none → t.fw.left = some 1 ∧ t.fw.h = none) ∧ t = { s with fw := t.fw })

/-- R39 to R41: the frame counter. PD0 sets it to 0; after that every frame boundary adds one, in operation, in a boot, in
a reset, in ember and in recovery mode; a load that is due puts a later number in its place; nothing but a boundary
and PD0 moves it. A watch tick boundary is the boundary into a frame whose number has bits [4:0] 0; at another frame
the row does nothing. -/
def Obligations.FrameCounter : Prop :=
  (∀ s, Completes .pd0PowerUp s fun t => t.clk.frame = 0) ∧
  (∀ b s, s.pwr.phase ≠ .dead → s.clk.load = none → Completes (.frameBoundary b) s fun t => t.clk.frame = s.clk.frame + 1) ∧
  (∀ b f v s, s.pwr.phase ≠ .dead → s.clk.load = some (f, v) → f ≠ s.clk.frame + 1 →
    Completes (.frameBoundary b) s fun t => t.clk.frame = s.clk.frame + 1) ∧
  (∀ b v s, s.pwr.phase ≠ .dead → s.clk.load = some (s.clk.frame + 1, v) →
    Completes (.frameBoundary b) s fun t =>
      t.clk.frame = if frameBefore (s.clk.frame + 1) v then v else s.clk.frame + 1) ∧
  (∀ b s, s.pwr.phase = .dead → Completes (.frameBoundary b) s (· = s)) ∧
  (∀ b s, (s.clk.frame.toNat + 1) % 32 ≠ 0 → Completes (.watchTickBoundary b) s (· = s)) ∧
  (∀ b s, (s.clk.frame.toNat + 1) % 32 = 0 → s.pwr.phase ≠ .dead → s.clk.load = none →
    Completes (.watchTickBoundary b) s fun t =>
      t.clk.frame = s.clk.frame + 1 ∧ exec (.frameBoundary b) s = .next t) ∧
  (∀ c s t, exec c s = .next t → t.clk.frame = s.clk.frame ∨ c = .pd0PowerUp ∨ c = .pd0PowerLoss ∨
    ∃ b, c = .frameBoundary b ∨ c = .watchTickBoundary b)

/-- R44: the nine actions of a boundary in operation, in their order. R8, R44 order 6, R171, R244, R353, R468, R502: what
waited for the boundary. Each set-up write is put into force with its own bits, in order of arrival, none is left
waiting, and no other word changes; each selection is taken. -/
def Obligations.BoundaryOrderAndSetUps : Prop :=
  (∀ b s s0 s1 s2 u, s.pwr.phase ≠ .dead → s0 = pendingStep (powerStep b (order1 (endFrame b s))) → s0.pwr.phase = .run →
    (∀ i, i < 96 → (s0.rail i).owTest = none) → s1 = { s0 with drt := { s0.drt with other := b.other } } →
    s2 = xrstStep b (order2 b s1) → s2.pwr.phase = .run →
    u = order7 b s2.runSet (order6 (order4 s2.seq.onLaunch (order3 b s2))) → u.flt.wdtRun = false → u.pwr.phase = .run →
    Completes (.frameBoundary b) s fun t => t = order9 b (order8 s1 u)) ∧
  (∀ s, (applySetups s).setup = [] ∧ (applySetups s).bar0 = s.bar0) ∧
  (∀ k v s, s.setup = [(k, v)] → (applySetups s).cw k = merge (rwsMask k) (s.cw k) v ∧
    ∀ j, j ≠ k → (applySetups s).cw j = s.cw j) ∧
  (∀ k v w s, s.setup = [(k, v), (k, w)] → (applySetups s).cw k = merge (rwsMask k) (s.cw k) w) ∧
  (∀ k l v w s, s.setup = [(k, v), (l, w)] → k ≠ l → (applySetups s).cw k = merge (rwsMask k) (s.cw k) v ∧
    (applySetups s).cw l = merge (rwsMask l) (s.cw l) w) ∧
  (∀ n s, s.flt.cntPend = some n → (selections s).flt.cntSel = some n ∧ (selections s).flt.cntPend = none ∧
    (selections s).flt.cntWin = countersOf s n) ∧
  (∀ n s, s.evt.cselPend = some n → (selections s).evt.csel = some n ∧ (selections s).evt.cselPend = none) ∧
  (∀ n s, s.sca.rselPend = some n → (selections s).sca.rsel = n ∧ (selections s).sca.rselPend = none) ∧
  (∀ n s, s.cnv.wselPend = some n → (selections s).cnv.wsel = n % 4 ∧ (selections s).cnv.wselPend = none) ∧
  (∀ e s, s.wc.pop = true → s.wc.latch = some e → (selections s).wc.log = s.wc.log.erase e ∧ (selections s).wc.pop = false) ∧
  (∀ s, s.flt.cntPend = none → s.evt.cselPend = none → s.sca.rselPend = none → s.cnv.wselPend = none → s.wc.pop = false →
    selections s = { s with flt := (selections s).flt } ∧ (selections s).flt.cntSel = s.flt.cntSel)

/-- R69, R70: the debounced PG. PG_POL (bit 4 of BKx_RCFGi) sets which level is not good. Consecutive samples of one level
make the debounced state that level with the sample whose number is the rail's setting for it (0 acts as 1), not
sooner; a sample that disagrees with the count restarts it. -/
def Obligations.PgDebounce : Prop :=
  (∀ w : W32, notGood w = bit w 4) ∧
  (∀ mv i n s, s.vioOk i = true → (s.rail i).st ≠ .unused → (s.rail i).dbCnt = 0 → (s.rail i).db = false →
      (∀ p, schmitt (bit (s.rcfg i) 5) (s.bank (bankOf i)).vio mv p ≠ notGood (s.rcfg i)) →
    ((sampleStep mv i)^[n] s |>.rail i).db = decide (orDef (s.cf (rbase i + 4) 7 0) 1 ≤ n)) ∧
  (∀ mv i n s, s.vioOk i = true → (s.rail i).st ≠ .unused → (s.rail i).dbCnt = 0 → (s.rail i).db = true →
      (∀ p, schmitt (bit (s.rcfg i) 5) (s.bank (bankOf i)).vio mv p = notGood (s.rcfg i)) →
    ((sampleStep mv i)^[n] s |>.rail i).db = !decide (orDef (s.cf (rbase i + 4) 15 8) 1 ≤ n)) ∧
  (∀ mv i s, ((samplePg mv i s).rail i).raw = (s.rail i).db → ((sampleStep mv i s).rail i).dbCnt = 0 ∧
    ((sampleStep mv i s).rail i).db = (s.rail i).db) ∧
  (∀ mv i j s, j ≠ i → (sampleStep mv i s).rail j = s.rail j) ∧
  (∀ mv i s, { sampleStep mv i s with rails := s.rails } = s)

/-- One sender's queue (log 3, log 4): a step takes the command at the front and runs it with the queue's rest; on an
empty queue the block idles. -/
def Obligations.StepRunsFront : Prop :=
  (∀ c s, step { s with pending := c :: s.pending } = exec c s) ∧
  (∀ c q s, s.pending = c :: q → step s = exec c { s with pending := q }) ∧
  (∀ s, s.pending = [] → step s = .next s)

/-- No command is turned away by the model: every command in every state answers a next state, so every step goes on (log
4). -/
def Obligations.EveryStepGoesOn : Prop :=
  (∀ c s, ∃ t, exec c s = .next t) ∧ ∀ s, GoesOn s

/-- No command touches the queue: after a step the queue is the rest of what it was. -/
def Obligations.QueueKept : Prop :=
  (∀ c s t, exec c s = .next t → t.pending = s.pending) ∧ ∀ s t, step s = .next t → t.pending = s.pending.tail

/-- R8, R11: an invariant every step keeps: the words of BAR0, those that read back and those in force, stay in their
canonical form and hold no bit outside their fields, so a reserved bit reads 0 for ever. -/
def Obligations.RegisterWordsKept : Prop :=
  ∀ s t, RegsOk s → step s = .next t → RegsOk t

/-- R11, R12: the register words have that form right after reset, and no command waits. -/
def Obligations.RegisterWordsAtReset : Prop :=
  RegsOk State.reset ∧ State.reset.pending = []

/-- The frame of the rail, watch, stage, input and reset happenings, of the engines' tasks and of the conversion
happenings: all they do not name stays: the set-up words that read back and those in force, the frame counter, the
queue, and with the tasks and the conversions also the bank supplies, the margin DACs and the off run. -/
def Obligations.RailTaskConversionFrames : Prop :=
  (∀ c s t, powerRow c = true → exec c s = .next t → t = { s with
      engs := t.engs, wc := t.wc, evt := t.evt, jrn := t.jrn, hst := t.hst,
      recd := { s.recd with queue := t.recd.queue, ash := t.recd.ash }, rails := t.rails, banks := t.banks,
      mdacs := t.mdacs, pmb := t.pmb, seq := t.seq, off := t.off, flt := t.flt, drt := t.drt, inl := t.inl,
      stgs := t.stgs, phases := t.phases, sca := t.sca, pair := t.pair, nv := { s.nv with revertDue := t.nv.revertDue },
      pwr := t.pwr, out := t.out }) ∧
  (∀ c s t, taskRow c = true → exec c s = .next t → t = { s with
      engs := t.engs, wc := t.wc, evt := t.evt, jrn := t.jrn, hst := t.hst,
      recd := { s.recd with queue := t.recd.queue, ash := t.recd.ash }, rails := t.rails, pmb := t.pmb, seq := t.seq,
      flt := t.flt, drt := t.drt, dmp := t.dmp, shr := t.shr, inl := t.inl, cnv := t.cnv, stgs := t.stgs,
      phases := t.phases, sca := t.sca, pair := t.pair, nv := { s.nv with revertDue := t.nv.revertDue }, pwr := t.pwr,
      free := t.free, out := t.out }) ∧
  (∀ c s t, convRow c = true → exec c s = .next t → t = { s with
      evt := t.evt, jrn := t.jrn, hst := t.hst, recd := { s.recd with queue := t.recd.queue, ash := t.recd.ash },
      rails := t.rails, inl := t.inl, cnv := t.cnv, nv := { s.nv with revertDue := t.nv.revertDue }, out := t.out })

/-- The frame of the row link's happenings and of those of the flash, the recorder, the flue port and the firmware. -/
def Obligations.LinkStoreFrames : Prop :=
  (∀ c s t, linkRow c = true → exec c s = .next t → t = { s with
      clk := { t.clk with frame := s.clk.frame }, wc := t.wc, evt := t.evt, jrn := t.jrn, hst := t.hst,
      recd := { s.recd with queue := t.recd.queue, ash := t.recd.ash }, rails := t.rails, pmb := t.pmb, seq := t.seq,
      off := t.off, flt := t.flt, drt := t.drt, dmp := t.dmp, stgs := t.stgs, sca := t.sca, pair := t.pair,
      nv := { s.nv with revertDue := t.nv.revertDue }, fw := t.fw, pwr := t.pwr, out := t.out }) ∧
  (∀ c s t, storeRow c = true → exec c s = .next t → t = { s with
      wc := t.wc, evt := t.evt, jrn := t.jrn, hst := t.hst, recd := t.recd, rails := t.rails, sca := t.sca,
      pair := t.pair, nv := t.nv, fw := t.fw, pwr := t.pwr, out := t.out })

/-- The frame of the reads, writes and doorbells with an effect of their own, and of the commands of the rings. -/
def Obligations.RegisterCommandFrames : Prop :=
  (∀ c s t, ringRow c = true → exec c s = .next t → t = { s with
      clk := { t.clk with frame := s.clk.frame }, engs := t.engs, wc := t.wc, evt := t.evt, jrn := t.jrn, hst := t.hst,
      recd := { s.recd with queue := t.recd.queue, ash := t.recd.ash }, flt := t.flt, stgs := t.stgs, sca := t.sca,
      pair := t.pair, nv := { s.nv with revertDue := t.nv.revertDue }, fw := t.fw, out := t.out }) ∧
  (∀ c s t, commandRow c = true → exec c s = .next t → t = { s with
      engs := t.engs, wc := t.wc, evt := t.evt, jrn := t.jrn, hst := t.hst, recd := t.recd, bar0 := t.bar0, cfg := t.cfg,
      setup := t.setup, coef := t.coef, rails := t.rails, banks := t.banks, mdacs := t.mdacs, pmb := t.pmb, seq := t.seq,
      off := t.off, flt := t.flt, drt := t.drt, cnv := t.cnv, stgs := t.stgs, phases := t.phases, sca := t.sca,
      pair := t.pair, nv := t.nv, fw := t.fw, pwr := t.pwr, out := t.out })
end

