-- ==== Sys2Proof/Laws/Table.lean ====
section
/-! SUPPORT. Laws/Table.lean: a sparse table reads what was written, leaves the other keys alone, and keeps its
canonical form. -/

namespace Sys2Proof.Machine

variable {α : Type}

theorem tdel_cons (p : Nat × α) (t : Tbl α) (k : Nat) : tdel (p :: t) k = if p.1 = k then tdel t k else p :: tdel t k := by
  by_cases h : p.1 = k <;> simp [tdel, h]

theorem tget_tdel_same (d : α) (t : Tbl α) (k : Nat) : tget d (tdel t k) k = d := by
  induction t with
  | nil => rfl
  | cons p t ih => rw [tdel_cons]; split <;> simp_all [tget]

theorem tget_tdel_ne (d : α) (t : Tbl α) {k j : Nat} (h : j ≠ k) : tget d (tdel t k) j = tget d t j := by
  induction t with
  | nil => rfl
  | cons p t ih =>
    rw [tdel_cons]
    split
    · next hp => have : p.1 ≠ j := fun e => h (e.symm.trans hp); simp [tget, this, ih]
    · simp [tget, ih]

theorem tget_tins_same (d : α) (t : Tbl α) (k : Nat) (v : α) : tget d (tins t k v) k = v := by
  induction t with
  | nil => simp [tins, tget]
  | cons p t ih => simp only [tins]; split <;> [skip; split] <;> simp_all [tget]

theorem tget_tins_ne (d : α) (t : Tbl α) {k j : Nat} (v : α) (h : j ≠ k) : tget d (tins t k v) j = tget d t j := by
  have h' : k ≠ j := fun e => h e.symm
  induction t with
  | nil => simp [tins, tget, h']
  | cons p t ih => simp only [tins]; split <;> [skip; split] <;> simp_all [tget]

variable [DecidableEq α]

/-- What was written is read. -/
@[simp] theorem tget_tset_same (d : α) (t : Tbl α) (k : Nat) (v : α) : tget d (tset d t k v) k = v := by
  unfold tset
  split
  · rw [tget_tdel_same]; exact Eq.symm ‹_›
  · exact tget_tins_same d t k v

/-- Other keys read as before. -/
theorem tget_tset_ne (d : α) (t : Tbl α) {k j : Nat} (v : α) (h : j ≠ k) : tget d (tset d t k v) j = tget d t j := by
  unfold tset
  split
  · exact tget_tdel_ne d t h
  · exact tget_tins_ne d t v h

@[simp] theorem tget_tmod_same (d : α) (t : Tbl α) (k : Nat) (f : α → α) : tget d (tmod d t k f) k = f (tget d t k) :=
  tget_tset_same d t k _

theorem tget_tmod_ne (d : α) (t : Tbl α) {k j : Nat} (f : α → α) (h : j ≠ k) :
    tget d (tmod d t k f) j = tget d t j :=
  tget_tset_ne d t _ h

theorem tget_tset (d : α) (t : Tbl α) (k j : Nat) (v : α) :
    tget d (tset d t k v) j = if j = k then v else tget d t j := by
  split
  · next h => rw [h, tget_tset_same]
  · next h => exact tget_tset_ne d t v h

theorem tget_tmod (d : α) (t : Tbl α) (k j : Nat) (f : α → α) :
    tget d (tmod d t k f) j = if j = k then f (tget d t k) else tget d t j :=
  tget_tset d t k j _

/-! ## The canonical form -/

theorem twfFrom_mono (d : α) {a b : Nat} (h : a ≤ b) {t : Tbl α} (w : twfFrom d (some b) t = true) :
    twfFrom d (some a) t = true := by
  cases t with
  | nil => rfl
  | cons p t =>
    simp only [twfFrom, Bool.and_eq_true, decide_eq_true_eq] at w ⊢
    exact ⟨⟨by omega, w.1.2⟩, w.2⟩

theorem twfFrom_tdel (d : α) (k : Nat) (t : Tbl α) :
    ∀ o, twfFrom d o t = true → twfFrom d o (tdel t k) = true := by
  induction t with
  | nil => intro o _; cases o <;> rfl
  | cons p t ih =>
    intro o w
    by_cases hp : p.1 = k
    · have e : tdel (p :: t) k = tdel t k := by rw [tdel_cons, if_pos hp]
      rw [e]
      apply ih
      cases o with
      | none => cases t with
        | nil => rfl
        | cons q t => simp_all [twfFrom]
      | some n =>
        simp only [twfFrom, Bool.and_eq_true, decide_eq_true_eq] at w
        exact twfFrom_mono d (by omega) w.2
    · have e : tdel (p :: t) k = p :: tdel t k := by rw [tdel_cons, if_neg hp]
      rw [e]
      cases o <;> simp_all [twfFrom]

theorem twfFrom_tins (d : α) (k : Nat) (v : α) (hv : v ≠ d) (t : Tbl α) :
    ∀ o, (∀ n, o = some n → n < k) → twfFrom d o t = true → twfFrom d o (tins t k v) = true := by
  induction t with
  | nil => intro o ho _; cases o <;> simp_all [tins, twfFrom]
  | cons p t ih =>
    intro o ho w
    obtain ⟨j, x⟩ := p
    have w' : twfFrom d (some j) t = true := by cases o <;> simp_all [twfFrom]
    have hx : x ≠ d := by cases o <;> simp_all [twfFrom]
    simp only [tins]
    split
    · next h => subst h; cases o <;> simp_all [twfFrom]
    · split
      · next h => cases o <;> simp_all [twfFrom]
      · next h h2 =>
        have r := ih (some j) (fun n e => by cases e; omega) w'
        cases o <;> simp_all [twfFrom]

/-- Writing keeps the canonical form. -/
theorem twf_tset (d : α) (t : Tbl α) (k : Nat) (v : α) (w : twf d t = true) : twf d (tset d t k v) = true := by
  unfold tset
  split
  · exact twfFrom_tdel d k t none w
  · exact twfFrom_tins d k v ‹_› t none (fun _ e => nomatch e) w

theorem twf_tmod (d : α) (t : Tbl α) (k : Nat) (f : α → α) (w : twf d t = true) : twf d (tmod d t k f) = true :=
  twf_tset d t k _ w

end Sys2Proof.Machine
end

