-- ==== Sys2Proof/Laws/State.lean ====
section
/-! SUPPORT. Laws/State.lean: what each named update of the state leaves alone and what it sets: one lemma for each field and each
named view, true by rfl, so that no later proof unfolds a record update. -/

namespace Sys2Proof.Machine

/-! ## modEng -/

@[simp] theorem State.modEng_pending (i : Nat) (f : Eng → Eng) (s : State) : (s.modEng i f).pending = s.pending := rfl
@[simp] theorem State.modEng_clk (i : Nat) (f : Eng → Eng) (s : State) : (s.modEng i f).clk = s.clk := rfl
@[simp] theorem State.modEng_ovrStat (i : Nat) (f : Eng → Eng) (s : State) : (s.modEng i f).ovrStat = s.ovrStat := rfl
@[simp] theorem State.modEng_ovrNow (i : Nat) (f : Eng → Eng) (s : State) : (s.modEng i f).ovrNow = s.ovrNow := rfl
@[simp] theorem State.modEng_wc (i : Nat) (f : Eng → Eng) (s : State) : (s.modEng i f).wc = s.wc := rfl
@[simp] theorem State.modEng_evt (i : Nat) (f : Eng → Eng) (s : State) : (s.modEng i f).evt = s.evt := rfl
@[simp] theorem State.modEng_jrn (i : Nat) (f : Eng → Eng) (s : State) : (s.modEng i f).jrn = s.jrn := rfl
@[simp] theorem State.modEng_hst (i : Nat) (f : Eng → Eng) (s : State) : (s.modEng i f).hst = s.hst := rfl
@[simp] theorem State.modEng_recd (i : Nat) (f : Eng → Eng) (s : State) : (s.modEng i f).recd = s.recd := rfl
@[simp] theorem State.modEng_bar0 (i : Nat) (f : Eng → Eng) (s : State) : (s.modEng i f).bar0 = s.bar0 := rfl
@[simp] theorem State.modEng_cfg (i : Nat) (f : Eng → Eng) (s : State) : (s.modEng i f).cfg = s.cfg := rfl
@[simp] theorem State.modEng_setup (i : Nat) (f : Eng → Eng) (s : State) : (s.modEng i f).setup = s.setup := rfl
@[simp] theorem State.modEng_coef (i : Nat) (f : Eng → Eng) (s : State) : (s.modEng i f).coef = s.coef := rfl
@[simp] theorem State.modEng_rails (i : Nat) (f : Eng → Eng) (s : State) : (s.modEng i f).rails = s.rails := rfl
@[simp] theorem State.modEng_banks (i : Nat) (f : Eng → Eng) (s : State) : (s.modEng i f).banks = s.banks := rfl
@[simp] theorem State.modEng_mdacs (i : Nat) (f : Eng → Eng) (s : State) : (s.modEng i f).mdacs = s.mdacs := rfl
@[simp] theorem State.modEng_pmb (i : Nat) (f : Eng → Eng) (s : State) : (s.modEng i f).pmb = s.pmb := rfl
@[simp] theorem State.modEng_watches (i : Nat) (f : Eng → Eng) (s : State) : (s.modEng i f).watches = s.watches := rfl
@[simp] theorem State.modEng_seq (i : Nat) (f : Eng → Eng) (s : State) : (s.modEng i f).seq = s.seq := rfl
@[simp] theorem State.modEng_off (i : Nat) (f : Eng → Eng) (s : State) : (s.modEng i f).off = s.off := rfl
@[simp] theorem State.modEng_flt (i : Nat) (f : Eng → Eng) (s : State) : (s.modEng i f).flt = s.flt := rfl
@[simp] theorem State.modEng_drt (i : Nat) (f : Eng → Eng) (s : State) : (s.modEng i f).drt = s.drt := rfl
@[simp] theorem State.modEng_dmp (i : Nat) (f : Eng → Eng) (s : State) : (s.modEng i f).dmp = s.dmp := rfl
@[simp] theorem State.modEng_shr (i : Nat) (f : Eng → Eng) (s : State) : (s.modEng i f).shr = s.shr := rfl
@[simp] theorem State.modEng_inl (i : Nat) (f : Eng → Eng) (s : State) : (s.modEng i f).inl = s.inl := rfl
@[simp] theorem State.modEng_cnv (i : Nat) (f : Eng → Eng) (s : State) : (s.modEng i f).cnv = s.cnv := rfl
@[simp] theorem State.modEng_stgs (i : Nat) (f : Eng → Eng) (s : State) : (s.modEng i f).stgs = s.stgs := rfl
@[simp] theorem State.modEng_phases (i : Nat) (f : Eng → Eng) (s : State) : (s.modEng i f).phases = s.phases := rfl
@[simp] theorem State.modEng_sca (i : Nat) (f : Eng → Eng) (s : State) : (s.modEng i f).sca = s.sca := rfl
@[simp] theorem State.modEng_pair (i : Nat) (f : Eng → Eng) (s : State) : (s.modEng i f).pair = s.pair := rfl
@[simp] theorem State.modEng_nv (i : Nat) (f : Eng → Eng) (s : State) : (s.modEng i f).nv = s.nv := rfl
@[simp] theorem State.modEng_fw (i : Nat) (f : Eng → Eng) (s : State) : (s.modEng i f).fw = s.fw := rfl
@[simp] theorem State.modEng_pwr (i : Nat) (f : Eng → Eng) (s : State) : (s.modEng i f).pwr = s.pwr := rfl
@[simp] theorem State.modEng_free (i : Nat) (f : Eng → Eng) (s : State) : (s.modEng i f).free = s.free := rfl
@[simp] theorem State.modEng_out (i : Nat) (f : Eng → Eng) (s : State) : (s.modEng i f).out = s.out := rfl
@[simp] theorem State.modEng_eng (i : Nat) (f : Eng → Eng) (s : State) (j : Nat) : (s.modEng i f).eng j = if j = i then f (s.eng i) else s.eng j := tget_tmod _ _ _ _ _
theorem State.modEng_eng_same (i : Nat) (f : Eng → Eng) (s : State) : (s.modEng i f).eng i = f (s.eng i) := tget_tmod_same _ _ _ _
@[simp] theorem State.modEng_rail (i : Nat) (f : Eng → Eng) (s : State) (j : Nat) : (s.modEng i f).rail j = s.rail j := rfl
@[simp] theorem State.modEng_bank (i : Nat) (f : Eng → Eng) (s : State) (j : Nat) : (s.modEng i f).bank j = s.bank j := rfl
@[simp] theorem State.modEng_mdac (i : Nat) (f : Eng → Eng) (s : State) (j : Nat) : (s.modEng i f).mdac j = s.mdac j := rfl
@[simp] theorem State.modEng_watch (i : Nat) (f : Eng → Eng) (s : State) (j : Nat) : (s.modEng i f).watch j = s.watch j := rfl
@[simp] theorem State.modEng_stg (i : Nat) (f : Eng → Eng) (s : State) (j : Nat) : (s.modEng i f).stg j = s.stg j := rfl
@[simp] theorem State.modEng_phase (i : Nat) (f : Eng → Eng) (s : State) (j : Nat) : (s.modEng i f).phase j = s.phase j := rfl
@[simp] theorem State.modEng_ring (i : Nat) (f : Eng → Eng) (s : State) (j : Nat) : (s.modEng i f).ring j = s.ring j := rfl
@[simp] theorem State.modEng_vec (i : Nat) (f : Eng → Eng) (s : State) (j : Nat) : (s.modEng i f).vec j = s.vec j := rfl
@[simp] theorem State.modEng_prog (i : Nat) (f : Eng → Eng) (s : State) (j : Nat) : (s.modEng i f).prog j = s.prog j := rfl
@[simp] theorem State.modEng_grp (i : Nat) (f : Eng → Eng) (s : State) (j : Nat) : (s.modEng i f).grp j = s.grp j := rfl
@[simp] theorem State.modEng_rect (i : Nat) (f : Eng → Eng) (s : State) (j : Nat) : (s.modEng i f).rect j = s.rect j := rfl
@[simp] theorem State.modEng_core (i : Nat) (f : Eng → Eng) (s : State) (j : Nat) : (s.modEng i f).core j = s.core j := rfl
@[simp] theorem State.modEng_ppair (i : Nat) (f : Eng → Eng) (s : State) (j : Nat) : (s.modEng i f).ppair j = s.ppair j := rfl
@[simp] theorem State.modEng_refm (i : Nat) (f : Eng → Eng) (s : State) (j : Nat) : (s.modEng i f).refm j = s.refm j := rfl
@[simp] theorem State.modEng_port (i : Nat) (f : Eng → Eng) (s : State) (j : Nat) : (s.modEng i f).port j = s.port j := rfl
@[simp] theorem State.modEng_rnode (i : Nat) (f : Eng → Eng) (s : State) (j : Nat) : (s.modEng i f).rnode j = s.rnode j := rfl
@[simp] theorem State.modEng_view (i : Nat) (f : Eng → Eng) (s : State) (j : Nat) : (s.modEng i f).view j = s.view j := rfl
@[simp] theorem State.modEng_cgrp (i : Nat) (f : Eng → Eng) (s : State) (j : Nat) : (s.modEng i f).cgrp j = s.cgrp j := rfl
@[simp] theorem State.modEng_cw (i : Nat) (f : Eng → Eng) (s : State) (k : Nat) : (s.modEng i f).cw k = s.cw k := rfl
@[simp] theorem State.modEng_cf (i : Nat) (f : Eng → Eng) (s : State) (k hi lo : Nat) : (s.modEng i f).cf k hi lo = s.cf k hi lo := rfl
@[simp] theorem State.modEng_cb (i : Nat) (f : Eng → Eng) (s : State) (k n : Nat) : (s.modEng i f).cb k n = s.cb k n := rfl
@[simp] theorem State.modEng_bw (i : Nat) (f : Eng → Eng) (s : State) (k : Nat) : (s.modEng i f).bw k = s.bw k := rfl
@[simp] theorem State.modEng_bf (i : Nat) (f : Eng → Eng) (s : State) (k hi lo : Nat) : (s.modEng i f).bf k hi lo = s.bf k hi lo := rfl
@[simp] theorem State.modEng_now (i : Nat) (f : Eng → Eng) (s : State) : (s.modEng i f).now = s.now := rfl
@[simp] theorem State.modEng_tsB (i : Nat) (f : Eng → Eng) (s : State) : (s.modEng i f).tsB = s.tsB := rfl
@[simp] theorem State.modEng_tickStart (i : Nat) (f : Eng → Eng) (s : State) : (s.modEng i f).tickStart = s.tickStart := rfl
@[simp] theorem State.modEng_tickNo (i : Nat) (f : Eng → Eng) (s : State) : (s.modEng i f).tickNo = s.tickNo := rfl
@[simp] theorem State.modEng_index (i : Nat) (f : Eng → Eng) (s : State) : (s.modEng i f).index = s.index := rfl
@[simp] theorem State.modEng_role (i : Nat) (f : Eng → Eng) (s : State) : (s.modEng i f).role = s.role := rfl
@[simp] theorem State.modEng_grail (i : Nat) (f : Eng → Eng) (s : State) (k : Nat) : (s.modEng i f).grail k = s.grail k := rfl
@[simp] theorem State.modEng_shadow (i : Nat) (f : Eng → Eng) (s : State) : (s.modEng i f).shadow = s.shadow := rfl
@[simp] theorem State.modEng_rcfg (i : Nat) (f : Eng → Eng) (s : State) (k : Nat) : (s.modEng i f).rcfg k = s.rcfg k := rfl
@[simp] theorem State.modEng_vioOk (i : Nat) (f : Eng → Eng) (s : State) (k : Nat) : (s.modEng i f).vioOk k = s.vioOk k := rfl

/-! ## modRail -/

@[simp] theorem State.modRail_pending (i : Nat) (f : Rail → Rail) (s : State) : (s.modRail i f).pending = s.pending := rfl
@[simp] theorem State.modRail_clk (i : Nat) (f : Rail → Rail) (s : State) : (s.modRail i f).clk = s.clk := rfl
@[simp] theorem State.modRail_engs (i : Nat) (f : Rail → Rail) (s : State) : (s.modRail i f).engs = s.engs := rfl
@[simp] theorem State.modRail_ovrStat (i : Nat) (f : Rail → Rail) (s : State) : (s.modRail i f).ovrStat = s.ovrStat := rfl
@[simp] theorem State.modRail_ovrNow (i : Nat) (f : Rail → Rail) (s : State) : (s.modRail i f).ovrNow = s.ovrNow := rfl
@[simp] theorem State.modRail_wc (i : Nat) (f : Rail → Rail) (s : State) : (s.modRail i f).wc = s.wc := rfl
@[simp] theorem State.modRail_evt (i : Nat) (f : Rail → Rail) (s : State) : (s.modRail i f).evt = s.evt := rfl
@[simp] theorem State.modRail_jrn (i : Nat) (f : Rail → Rail) (s : State) : (s.modRail i f).jrn = s.jrn := rfl
@[simp] theorem State.modRail_hst (i : Nat) (f : Rail → Rail) (s : State) : (s.modRail i f).hst = s.hst := rfl
@[simp] theorem State.modRail_recd (i : Nat) (f : Rail → Rail) (s : State) : (s.modRail i f).recd = s.recd := rfl
@[simp] theorem State.modRail_bar0 (i : Nat) (f : Rail → Rail) (s : State) : (s.modRail i f).bar0 = s.bar0 := rfl
@[simp] theorem State.modRail_cfg (i : Nat) (f : Rail → Rail) (s : State) : (s.modRail i f).cfg = s.cfg := rfl
@[simp] theorem State.modRail_setup (i : Nat) (f : Rail → Rail) (s : State) : (s.modRail i f).setup = s.setup := rfl
@[simp] theorem State.modRail_coef (i : Nat) (f : Rail → Rail) (s : State) : (s.modRail i f).coef = s.coef := rfl
@[simp] theorem State.modRail_banks (i : Nat) (f : Rail → Rail) (s : State) : (s.modRail i f).banks = s.banks := rfl
@[simp] theorem State.modRail_mdacs (i : Nat) (f : Rail → Rail) (s : State) : (s.modRail i f).mdacs = s.mdacs := rfl
@[simp] theorem State.modRail_pmb (i : Nat) (f : Rail → Rail) (s : State) : (s.modRail i f).pmb = s.pmb := rfl
@[simp] theorem State.modRail_watches (i : Nat) (f : Rail → Rail) (s : State) : (s.modRail i f).watches = s.watches := rfl
@[simp] theorem State.modRail_seq (i : Nat) (f : Rail → Rail) (s : State) : (s.modRail i f).seq = s.seq := rfl
@[simp] theorem State.modRail_off (i : Nat) (f : Rail → Rail) (s : State) : (s.modRail i f).off = s.off := rfl
@[simp] theorem State.modRail_flt (i : Nat) (f : Rail → Rail) (s : State) : (s.modRail i f).flt = s.flt := rfl
@[simp] theorem State.modRail_drt (i : Nat) (f : Rail → Rail) (s : State) : (s.modRail i f).drt = s.drt := rfl
@[simp] theorem State.modRail_dmp (i : Nat) (f : Rail → Rail) (s : State) : (s.modRail i f).dmp = s.dmp := rfl
@[simp] theorem State.modRail_shr (i : Nat) (f : Rail → Rail) (s : State) : (s.modRail i f).shr = s.shr := rfl
@[simp] theorem State.modRail_inl (i : Nat) (f : Rail → Rail) (s : State) : (s.modRail i f).inl = s.inl := rfl
@[simp] theorem State.modRail_cnv (i : Nat) (f : Rail → Rail) (s : State) : (s.modRail i f).cnv = s.cnv := rfl
@[simp] theorem State.modRail_stgs (i : Nat) (f : Rail → Rail) (s : State) : (s.modRail i f).stgs = s.stgs := rfl
@[simp] theorem State.modRail_phases (i : Nat) (f : Rail → Rail) (s : State) : (s.modRail i f).phases = s.phases := rfl
@[simp] theorem State.modRail_sca (i : Nat) (f : Rail → Rail) (s : State) : (s.modRail i f).sca = s.sca := rfl
@[simp] theorem State.modRail_pair (i : Nat) (f : Rail → Rail) (s : State) : (s.modRail i f).pair = s.pair := rfl
@[simp] theorem State.modRail_nv (i : Nat) (f : Rail → Rail) (s : State) : (s.modRail i f).nv = s.nv := rfl
@[simp] theorem State.modRail_fw (i : Nat) (f : Rail → Rail) (s : State) : (s.modRail i f).fw = s.fw := rfl
@[simp] theorem State.modRail_pwr (i : Nat) (f : Rail → Rail) (s : State) : (s.modRail i f).pwr = s.pwr := rfl
@[simp] theorem State.modRail_free (i : Nat) (f : Rail → Rail) (s : State) : (s.modRail i f).free = s.free := rfl
@[simp] theorem State.modRail_out (i : Nat) (f : Rail → Rail) (s : State) : (s.modRail i f).out = s.out := rfl
@[simp] theorem State.modRail_eng (i : Nat) (f : Rail → Rail) (s : State) (j : Nat) : (s.modRail i f).eng j = s.eng j := rfl
@[simp] theorem State.modRail_rail (i : Nat) (f : Rail → Rail) (s : State) (j : Nat) : (s.modRail i f).rail j = if j = i then f (s.rail i) else s.rail j := tget_tmod _ _ _ _ _
theorem State.modRail_rail_same (i : Nat) (f : Rail → Rail) (s : State) : (s.modRail i f).rail i = f (s.rail i) := tget_tmod_same _ _ _ _
@[simp] theorem State.modRail_bank (i : Nat) (f : Rail → Rail) (s : State) (j : Nat) : (s.modRail i f).bank j = s.bank j := rfl
@[simp] theorem State.modRail_mdac (i : Nat) (f : Rail → Rail) (s : State) (j : Nat) : (s.modRail i f).mdac j = s.mdac j := rfl
@[simp] theorem State.modRail_watch (i : Nat) (f : Rail → Rail) (s : State) (j : Nat) : (s.modRail i f).watch j = s.watch j := rfl
@[simp] theorem State.modRail_stg (i : Nat) (f : Rail → Rail) (s : State) (j : Nat) : (s.modRail i f).stg j = s.stg j := rfl
@[simp] theorem State.modRail_phase (i : Nat) (f : Rail → Rail) (s : State) (j : Nat) : (s.modRail i f).phase j = s.phase j := rfl
@[simp] theorem State.modRail_ring (i : Nat) (f : Rail → Rail) (s : State) (j : Nat) : (s.modRail i f).ring j = s.ring j := rfl
@[simp] theorem State.modRail_vec (i : Nat) (f : Rail → Rail) (s : State) (j : Nat) : (s.modRail i f).vec j = s.vec j := rfl
@[simp] theorem State.modRail_prog (i : Nat) (f : Rail → Rail) (s : State) (j : Nat) : (s.modRail i f).prog j = s.prog j := rfl
@[simp] theorem State.modRail_grp (i : Nat) (f : Rail → Rail) (s : State) (j : Nat) : (s.modRail i f).grp j = s.grp j := rfl
@[simp] theorem State.modRail_rect (i : Nat) (f : Rail → Rail) (s : State) (j : Nat) : (s.modRail i f).rect j = s.rect j := rfl
@[simp] theorem State.modRail_core (i : Nat) (f : Rail → Rail) (s : State) (j : Nat) : (s.modRail i f).core j = s.core j := rfl
@[simp] theorem State.modRail_ppair (i : Nat) (f : Rail → Rail) (s : State) (j : Nat) : (s.modRail i f).ppair j = s.ppair j := rfl
@[simp] theorem State.modRail_refm (i : Nat) (f : Rail → Rail) (s : State) (j : Nat) : (s.modRail i f).refm j = s.refm j := rfl
@[simp] theorem State.modRail_port (i : Nat) (f : Rail → Rail) (s : State) (j : Nat) : (s.modRail i f).port j = s.port j := rfl
@[simp] theorem State.modRail_rnode (i : Nat) (f : Rail → Rail) (s : State) (j : Nat) : (s.modRail i f).rnode j = s.rnode j := rfl
@[simp] theorem State.modRail_view (i : Nat) (f : Rail → Rail) (s : State) (j : Nat) : (s.modRail i f).view j = s.view j := rfl
@[simp] theorem State.modRail_cgrp (i : Nat) (f : Rail → Rail) (s : State) (j : Nat) : (s.modRail i f).cgrp j = s.cgrp j := rfl
@[simp] theorem State.modRail_cw (i : Nat) (f : Rail → Rail) (s : State) (k : Nat) : (s.modRail i f).cw k = s.cw k := rfl
@[simp] theorem State.modRail_cf (i : Nat) (f : Rail → Rail) (s : State) (k hi lo : Nat) : (s.modRail i f).cf k hi lo = s.cf k hi lo := rfl
@[simp] theorem State.modRail_cb (i : Nat) (f : Rail → Rail) (s : State) (k n : Nat) : (s.modRail i f).cb k n = s.cb k n := rfl
@[simp] theorem State.modRail_bw (i : Nat) (f : Rail → Rail) (s : State) (k : Nat) : (s.modRail i f).bw k = s.bw k := rfl
@[simp] theorem State.modRail_bf (i : Nat) (f : Rail → Rail) (s : State) (k hi lo : Nat) : (s.modRail i f).bf k hi lo = s.bf k hi lo := rfl
@[simp] theorem State.modRail_now (i : Nat) (f : Rail → Rail) (s : State) : (s.modRail i f).now = s.now := rfl
@[simp] theorem State.modRail_tsB (i : Nat) (f : Rail → Rail) (s : State) : (s.modRail i f).tsB = s.tsB := rfl
@[simp] theorem State.modRail_tickStart (i : Nat) (f : Rail → Rail) (s : State) : (s.modRail i f).tickStart = s.tickStart := rfl
@[simp] theorem State.modRail_tickNo (i : Nat) (f : Rail → Rail) (s : State) : (s.modRail i f).tickNo = s.tickNo := rfl
@[simp] theorem State.modRail_index (i : Nat) (f : Rail → Rail) (s : State) : (s.modRail i f).index = s.index := rfl
@[simp] theorem State.modRail_role (i : Nat) (f : Rail → Rail) (s : State) : (s.modRail i f).role = s.role := rfl
@[simp] theorem State.modRail_grail (i : Nat) (f : Rail → Rail) (s : State) (k : Nat) : (s.modRail i f).grail k = s.grail k := rfl
@[simp] theorem State.modRail_shadow (i : Nat) (f : Rail → Rail) (s : State) : (s.modRail i f).shadow = s.shadow := rfl
@[simp] theorem State.modRail_rcfg (i : Nat) (f : Rail → Rail) (s : State) (k : Nat) : (s.modRail i f).rcfg k = s.rcfg k := rfl
@[simp] theorem State.modRail_vioOk (i : Nat) (f : Rail → Rail) (s : State) (k : Nat) : (s.modRail i f).vioOk k = s.vioOk k := rfl

/-! ## modBank -/

@[simp] theorem State.modBank_pending (i : Nat) (f : Bank → Bank) (s : State) : (s.modBank i f).pending = s.pending := rfl
@[simp] theorem State.modBank_clk (i : Nat) (f : Bank → Bank) (s : State) : (s.modBank i f).clk = s.clk := rfl
@[simp] theorem State.modBank_engs (i : Nat) (f : Bank → Bank) (s : State) : (s.modBank i f).engs = s.engs := rfl
@[simp] theorem State.modBank_ovrStat (i : Nat) (f : Bank → Bank) (s : State) : (s.modBank i f).ovrStat = s.ovrStat := rfl
@[simp] theorem State.modBank_ovrNow (i : Nat) (f : Bank → Bank) (s : State) : (s.modBank i f).ovrNow = s.ovrNow := rfl
@[simp] theorem State.modBank_wc (i : Nat) (f : Bank → Bank) (s : State) : (s.modBank i f).wc = s.wc := rfl
@[simp] theorem State.modBank_evt (i : Nat) (f : Bank → Bank) (s : State) : (s.modBank i f).evt = s.evt := rfl
@[simp] theorem State.modBank_jrn (i : Nat) (f : Bank → Bank) (s : State) : (s.modBank i f).jrn = s.jrn := rfl
@[simp] theorem State.modBank_hst (i : Nat) (f : Bank → Bank) (s : State) : (s.modBank i f).hst = s.hst := rfl
@[simp] theorem State.modBank_recd (i : Nat) (f : Bank → Bank) (s : State) : (s.modBank i f).recd = s.recd := rfl
@[simp] theorem State.modBank_bar0 (i : Nat) (f : Bank → Bank) (s : State) : (s.modBank i f).bar0 = s.bar0 := rfl
@[simp] theorem State.modBank_cfg (i : Nat) (f : Bank → Bank) (s : State) : (s.modBank i f).cfg = s.cfg := rfl
@[simp] theorem State.modBank_setup (i : Nat) (f : Bank → Bank) (s : State) : (s.modBank i f).setup = s.setup := rfl
@[simp] theorem State.modBank_coef (i : Nat) (f : Bank → Bank) (s : State) : (s.modBank i f).coef = s.coef := rfl
@[simp] theorem State.modBank_rails (i : Nat) (f : Bank → Bank) (s : State) : (s.modBank i f).rails = s.rails := rfl
@[simp] theorem State.modBank_mdacs (i : Nat) (f : Bank → Bank) (s : State) : (s.modBank i f).mdacs = s.mdacs := rfl
@[simp] theorem State.modBank_pmb (i : Nat) (f : Bank → Bank) (s : State) : (s.modBank i f).pmb = s.pmb := rfl
@[simp] theorem State.modBank_watches (i : Nat) (f : Bank → Bank) (s : State) : (s.modBank i f).watches = s.watches := rfl
@[simp] theorem State.modBank_seq (i : Nat) (f : Bank → Bank) (s : State) : (s.modBank i f).seq = s.seq := rfl
@[simp] theorem State.modBank_off (i : Nat) (f : Bank → Bank) (s : State) : (s.modBank i f).off = s.off := rfl
@[simp] theorem State.modBank_flt (i : Nat) (f : Bank → Bank) (s : State) : (s.modBank i f).flt = s.flt := rfl
@[simp] theorem State.modBank_drt (i : Nat) (f : Bank → Bank) (s : State) : (s.modBank i f).drt = s.drt := rfl
@[simp] theorem State.modBank_dmp (i : Nat) (f : Bank → Bank) (s : State) : (s.modBank i f).dmp = s.dmp := rfl
@[simp] theorem State.modBank_shr (i : Nat) (f : Bank → Bank) (s : State) : (s.modBank i f).shr = s.shr := rfl
@[simp] theorem State.modBank_inl (i : Nat) (f : Bank → Bank) (s : State) : (s.modBank i f).inl = s.inl := rfl
@[simp] theorem State.modBank_cnv (i : Nat) (f : Bank → Bank) (s : State) : (s.modBank i f).cnv = s.cnv := rfl
@[simp] theorem State.modBank_stgs (i : Nat) (f : Bank → Bank) (s : State) : (s.modBank i f).stgs = s.stgs := rfl
@[simp] theorem State.modBank_phases (i : Nat) (f : Bank → Bank) (s : State) : (s.modBank i f).phases = s.phases := rfl
@[simp] theorem State.modBank_sca (i : Nat) (f : Bank → Bank) (s : State) : (s.modBank i f).sca = s.sca := rfl
@[simp] theorem State.modBank_pair (i : Nat) (f : Bank → Bank) (s : State) : (s.modBank i f).pair = s.pair := rfl
@[simp] theorem State.modBank_nv (i : Nat) (f : Bank → Bank) (s : State) : (s.modBank i f).nv = s.nv := rfl
@[simp] theorem State.modBank_fw (i : Nat) (f : Bank → Bank) (s : State) : (s.modBank i f).fw = s.fw := rfl
@[simp] theorem State.modBank_pwr (i : Nat) (f : Bank → Bank) (s : State) : (s.modBank i f).pwr = s.pwr := rfl
@[simp] theorem State.modBank_free (i : Nat) (f : Bank → Bank) (s : State) : (s.modBank i f).free = s.free := rfl
@[simp] theorem State.modBank_out (i : Nat) (f : Bank → Bank) (s : State) : (s.modBank i f).out = s.out := rfl
@[simp] theorem State.modBank_eng (i : Nat) (f : Bank → Bank) (s : State) (j : Nat) : (s.modBank i f).eng j = s.eng j := rfl
@[simp] theorem State.modBank_rail (i : Nat) (f : Bank → Bank) (s : State) (j : Nat) : (s.modBank i f).rail j = s.rail j := rfl
@[simp] theorem State.modBank_bank (i : Nat) (f : Bank → Bank) (s : State) (j : Nat) : (s.modBank i f).bank j = if j = i then f (s.bank i) else s.bank j := tget_tmod _ _ _ _ _
theorem State.modBank_bank_same (i : Nat) (f : Bank → Bank) (s : State) : (s.modBank i f).bank i = f (s.bank i) := tget_tmod_same _ _ _ _
@[simp] theorem State.modBank_mdac (i : Nat) (f : Bank → Bank) (s : State) (j : Nat) : (s.modBank i f).mdac j = s.mdac j := rfl
@[simp] theorem State.modBank_watch (i : Nat) (f : Bank → Bank) (s : State) (j : Nat) : (s.modBank i f).watch j = s.watch j := rfl
@[simp] theorem State.modBank_stg (i : Nat) (f : Bank → Bank) (s : State) (j : Nat) : (s.modBank i f).stg j = s.stg j := rfl
@[simp] theorem State.modBank_phase (i : Nat) (f : Bank → Bank) (s : State) (j : Nat) : (s.modBank i f).phase j = s.phase j := rfl
@[simp] theorem State.modBank_ring (i : Nat) (f : Bank → Bank) (s : State) (j : Nat) : (s.modBank i f).ring j = s.ring j := rfl
@[simp] theorem State.modBank_vec (i : Nat) (f : Bank → Bank) (s : State) (j : Nat) : (s.modBank i f).vec j = s.vec j := rfl
@[simp] theorem State.modBank_prog (i : Nat) (f : Bank → Bank) (s : State) (j : Nat) : (s.modBank i f).prog j = s.prog j := rfl
@[simp] theorem State.modBank_grp (i : Nat) (f : Bank → Bank) (s : State) (j : Nat) : (s.modBank i f).grp j = s.grp j := rfl
@[simp] theorem State.modBank_rect (i : Nat) (f : Bank → Bank) (s : State) (j : Nat) : (s.modBank i f).rect j = s.rect j := rfl
@[simp] theorem State.modBank_core (i : Nat) (f : Bank → Bank) (s : State) (j : Nat) : (s.modBank i f).core j = s.core j := rfl
@[simp] theorem State.modBank_ppair (i : Nat) (f : Bank → Bank) (s : State) (j : Nat) : (s.modBank i f).ppair j = s.ppair j := rfl
@[simp] theorem State.modBank_refm (i : Nat) (f : Bank → Bank) (s : State) (j : Nat) : (s.modBank i f).refm j = s.refm j := rfl
@[simp] theorem State.modBank_port (i : Nat) (f : Bank → Bank) (s : State) (j : Nat) : (s.modBank i f).port j = s.port j := rfl
@[simp] theorem State.modBank_rnode (i : Nat) (f : Bank → Bank) (s : State) (j : Nat) : (s.modBank i f).rnode j = s.rnode j := rfl
@[simp] theorem State.modBank_view (i : Nat) (f : Bank → Bank) (s : State) (j : Nat) : (s.modBank i f).view j = s.view j := rfl
@[simp] theorem State.modBank_cgrp (i : Nat) (f : Bank → Bank) (s : State) (j : Nat) : (s.modBank i f).cgrp j = s.cgrp j := rfl
@[simp] theorem State.modBank_cw (i : Nat) (f : Bank → Bank) (s : State) (k : Nat) : (s.modBank i f).cw k = s.cw k := rfl
@[simp] theorem State.modBank_cf (i : Nat) (f : Bank → Bank) (s : State) (k hi lo : Nat) : (s.modBank i f).cf k hi lo = s.cf k hi lo := rfl
@[simp] theorem State.modBank_cb (i : Nat) (f : Bank → Bank) (s : State) (k n : Nat) : (s.modBank i f).cb k n = s.cb k n := rfl
@[simp] theorem State.modBank_bw (i : Nat) (f : Bank → Bank) (s : State) (k : Nat) : (s.modBank i f).bw k = s.bw k := rfl
@[simp] theorem State.modBank_bf (i : Nat) (f : Bank → Bank) (s : State) (k hi lo : Nat) : (s.modBank i f).bf k hi lo = s.bf k hi lo := rfl
@[simp] theorem State.modBank_now (i : Nat) (f : Bank → Bank) (s : State) : (s.modBank i f).now = s.now := rfl
@[simp] theorem State.modBank_tsB (i : Nat) (f : Bank → Bank) (s : State) : (s.modBank i f).tsB = s.tsB := rfl
@[simp] theorem State.modBank_tickStart (i : Nat) (f : Bank → Bank) (s : State) : (s.modBank i f).tickStart = s.tickStart := rfl
@[simp] theorem State.modBank_tickNo (i : Nat) (f : Bank → Bank) (s : State) : (s.modBank i f).tickNo = s.tickNo := rfl
@[simp] theorem State.modBank_index (i : Nat) (f : Bank → Bank) (s : State) : (s.modBank i f).index = s.index := rfl
@[simp] theorem State.modBank_role (i : Nat) (f : Bank → Bank) (s : State) : (s.modBank i f).role = s.role := rfl
@[simp] theorem State.modBank_grail (i : Nat) (f : Bank → Bank) (s : State) (k : Nat) : (s.modBank i f).grail k = s.grail k := rfl
@[simp] theorem State.modBank_shadow (i : Nat) (f : Bank → Bank) (s : State) : (s.modBank i f).shadow = s.shadow := rfl
@[simp] theorem State.modBank_rcfg (i : Nat) (f : Bank → Bank) (s : State) (k : Nat) : (s.modBank i f).rcfg k = s.rcfg k := rfl

/-! ## modMdac -/

@[simp] theorem State.modMdac_pending (i : Nat) (f : Mdac → Mdac) (s : State) : (s.modMdac i f).pending = s.pending := rfl
@[simp] theorem State.modMdac_clk (i : Nat) (f : Mdac → Mdac) (s : State) : (s.modMdac i f).clk = s.clk := rfl
@[simp] theorem State.modMdac_engs (i : Nat) (f : Mdac → Mdac) (s : State) : (s.modMdac i f).engs = s.engs := rfl
@[simp] theorem State.modMdac_ovrStat (i : Nat) (f : Mdac → Mdac) (s : State) : (s.modMdac i f).ovrStat = s.ovrStat := rfl
@[simp] theorem State.modMdac_ovrNow (i : Nat) (f : Mdac → Mdac) (s : State) : (s.modMdac i f).ovrNow = s.ovrNow := rfl
@[simp] theorem State.modMdac_wc (i : Nat) (f : Mdac → Mdac) (s : State) : (s.modMdac i f).wc = s.wc := rfl
@[simp] theorem State.modMdac_evt (i : Nat) (f : Mdac → Mdac) (s : State) : (s.modMdac i f).evt = s.evt := rfl
@[simp] theorem State.modMdac_jrn (i : Nat) (f : Mdac → Mdac) (s : State) : (s.modMdac i f).jrn = s.jrn := rfl
@[simp] theorem State.modMdac_hst (i : Nat) (f : Mdac → Mdac) (s : State) : (s.modMdac i f).hst = s.hst := rfl
@[simp] theorem State.modMdac_recd (i : Nat) (f : Mdac → Mdac) (s : State) : (s.modMdac i f).recd = s.recd := rfl
@[simp] theorem State.modMdac_bar0 (i : Nat) (f : Mdac → Mdac) (s : State) : (s.modMdac i f).bar0 = s.bar0 := rfl
@[simp] theorem State.modMdac_cfg (i : Nat) (f : Mdac → Mdac) (s : State) : (s.modMdac i f).cfg = s.cfg := rfl
@[simp] theorem State.modMdac_setup (i : Nat) (f : Mdac → Mdac) (s : State) : (s.modMdac i f).setup = s.setup := rfl
@[simp] theorem State.modMdac_coef (i : Nat) (f : Mdac → Mdac) (s : State) : (s.modMdac i f).coef = s.coef := rfl
@[simp] theorem State.modMdac_rails (i : Nat) (f : Mdac → Mdac) (s : State) : (s.modMdac i f).rails = s.rails := rfl
@[simp] theorem State.modMdac_banks (i : Nat) (f : Mdac → Mdac) (s : State) : (s.modMdac i f).banks = s.banks := rfl
@[simp] theorem State.modMdac_pmb (i : Nat) (f : Mdac → Mdac) (s : State) : (s.modMdac i f).pmb = s.pmb := rfl
@[simp] theorem State.modMdac_watches (i : Nat) (f : Mdac → Mdac) (s : State) : (s.modMdac i f).watches = s.watches := rfl
@[simp] theorem State.modMdac_seq (i : Nat) (f : Mdac → Mdac) (s : State) : (s.modMdac i f).seq = s.seq := rfl
@[simp] theorem State.modMdac_off (i : Nat) (f : Mdac → Mdac) (s : State) : (s.modMdac i f).off = s.off := rfl
@[simp] theorem State.modMdac_flt (i : Nat) (f : Mdac → Mdac) (s : State) : (s.modMdac i f).flt = s.flt := rfl
@[simp] theorem State.modMdac_drt (i : Nat) (f : Mdac → Mdac) (s : State) : (s.modMdac i f).drt = s.drt := rfl
@[simp] theorem State.modMdac_dmp (i : Nat) (f : Mdac → Mdac) (s : State) : (s.modMdac i f).dmp = s.dmp := rfl
@[simp] theorem State.modMdac_shr (i : Nat) (f : Mdac → Mdac) (s : State) : (s.modMdac i f).shr = s.shr := rfl
@[simp] theorem State.modMdac_inl (i : Nat) (f : Mdac → Mdac) (s : State) : (s.modMdac i f).inl = s.inl := rfl
@[simp] theorem State.modMdac_cnv (i : Nat) (f : Mdac → Mdac) (s : State) : (s.modMdac i f).cnv = s.cnv := rfl
@[simp] theorem State.modMdac_stgs (i : Nat) (f : Mdac → Mdac) (s : State) : (s.modMdac i f).stgs = s.stgs := rfl
@[simp] theorem State.modMdac_phases (i : Nat) (f : Mdac → Mdac) (s : State) : (s.modMdac i f).phases = s.phases := rfl
@[simp] theorem State.modMdac_sca (i : Nat) (f : Mdac → Mdac) (s : State) : (s.modMdac i f).sca = s.sca := rfl
@[simp] theorem State.modMdac_pair (i : Nat) (f : Mdac → Mdac) (s : State) : (s.modMdac i f).pair = s.pair := rfl
@[simp] theorem State.modMdac_nv (i : Nat) (f : Mdac → Mdac) (s : State) : (s.modMdac i f).nv = s.nv := rfl
@[simp] theorem State.modMdac_fw (i : Nat) (f : Mdac → Mdac) (s : State) : (s.modMdac i f).fw = s.fw := rfl
@[simp] theorem State.modMdac_pwr (i : Nat) (f : Mdac → Mdac) (s : State) : (s.modMdac i f).pwr = s.pwr := rfl
@[simp] theorem State.modMdac_free (i : Nat) (f : Mdac → Mdac) (s : State) : (s.modMdac i f).free = s.free := rfl
@[simp] theorem State.modMdac_out (i : Nat) (f : Mdac → Mdac) (s : State) : (s.modMdac i f).out = s.out := rfl
@[simp] theorem State.modMdac_eng (i : Nat) (f : Mdac → Mdac) (s : State) (j : Nat) : (s.modMdac i f).eng j = s.eng j := rfl
@[simp] theorem State.modMdac_rail (i : Nat) (f : Mdac → Mdac) (s : State) (j : Nat) : (s.modMdac i f).rail j = s.rail j := rfl
@[simp] theorem State.modMdac_bank (i : Nat) (f : Mdac → Mdac) (s : State) (j : Nat) : (s.modMdac i f).bank j = s.bank j := rfl
@[simp] theorem State.modMdac_mdac (i : Nat) (f : Mdac → Mdac) (s : State) (j : Nat) : (s.modMdac i f).mdac j = if j = i then f (s.mdac i) else s.mdac j := tget_tmod _ _ _ _ _
theorem State.modMdac_mdac_same (i : Nat) (f : Mdac → Mdac) (s : State) : (s.modMdac i f).mdac i = f (s.mdac i) := tget_tmod_same _ _ _ _
@[simp] theorem State.modMdac_watch (i : Nat) (f : Mdac → Mdac) (s : State) (j : Nat) : (s.modMdac i f).watch j = s.watch j := rfl
@[simp] theorem State.modMdac_stg (i : Nat) (f : Mdac → Mdac) (s : State) (j : Nat) : (s.modMdac i f).stg j = s.stg j := rfl
@[simp] theorem State.modMdac_phase (i : Nat) (f : Mdac → Mdac) (s : State) (j : Nat) : (s.modMdac i f).phase j = s.phase j := rfl
@[simp] theorem State.modMdac_ring (i : Nat) (f : Mdac → Mdac) (s : State) (j : Nat) : (s.modMdac i f).ring j = s.ring j := rfl
@[simp] theorem State.modMdac_vec (i : Nat) (f : Mdac → Mdac) (s : State) (j : Nat) : (s.modMdac i f).vec j = s.vec j := rfl
@[simp] theorem State.modMdac_prog (i : Nat) (f : Mdac → Mdac) (s : State) (j : Nat) : (s.modMdac i f).prog j = s.prog j := rfl
@[simp] theorem State.modMdac_grp (i : Nat) (f : Mdac → Mdac) (s : State) (j : Nat) : (s.modMdac i f).grp j = s.grp j := rfl
@[simp] theorem State.modMdac_rect (i : Nat) (f : Mdac → Mdac) (s : State) (j : Nat) : (s.modMdac i f).rect j = s.rect j := rfl
@[simp] theorem State.modMdac_core (i : Nat) (f : Mdac → Mdac) (s : State) (j : Nat) : (s.modMdac i f).core j = s.core j := rfl
@[simp] theorem State.modMdac_ppair (i : Nat) (f : Mdac → Mdac) (s : State) (j : Nat) : (s.modMdac i f).ppair j = s.ppair j := rfl
@[simp] theorem State.modMdac_refm (i : Nat) (f : Mdac → Mdac) (s : State) (j : Nat) : (s.modMdac i f).refm j = s.refm j := rfl
@[simp] theorem State.modMdac_port (i : Nat) (f : Mdac → Mdac) (s : State) (j : Nat) : (s.modMdac i f).port j = s.port j := rfl
@[simp] theorem State.modMdac_rnode (i : Nat) (f : Mdac → Mdac) (s : State) (j : Nat) : (s.modMdac i f).rnode j = s.rnode j := rfl
@[simp] theorem State.modMdac_view (i : Nat) (f : Mdac → Mdac) (s : State) (j : Nat) : (s.modMdac i f).view j = s.view j := rfl
@[simp] theorem State.modMdac_cgrp (i : Nat) (f : Mdac → Mdac) (s : State) (j : Nat) : (s.modMdac i f).cgrp j = s.cgrp j := rfl
@[simp] theorem State.modMdac_cw (i : Nat) (f : Mdac → Mdac) (s : State) (k : Nat) : (s.modMdac i f).cw k = s.cw k := rfl
@[simp] theorem State.modMdac_cf (i : Nat) (f : Mdac → Mdac) (s : State) (k hi lo : Nat) : (s.modMdac i f).cf k hi lo = s.cf k hi lo := rfl
@[simp] theorem State.modMdac_cb (i : Nat) (f : Mdac → Mdac) (s : State) (k n : Nat) : (s.modMdac i f).cb k n = s.cb k n := rfl
@[simp] theorem State.modMdac_bw (i : Nat) (f : Mdac → Mdac) (s : State) (k : Nat) : (s.modMdac i f).bw k = s.bw k := rfl
@[simp] theorem State.modMdac_bf (i : Nat) (f : Mdac → Mdac) (s : State) (k hi lo : Nat) : (s.modMdac i f).bf k hi lo = s.bf k hi lo := rfl
@[simp] theorem State.modMdac_now (i : Nat) (f : Mdac → Mdac) (s : State) : (s.modMdac i f).now = s.now := rfl
@[simp] theorem State.modMdac_tsB (i : Nat) (f : Mdac → Mdac) (s : State) : (s.modMdac i f).tsB = s.tsB := rfl
@[simp] theorem State.modMdac_tickStart (i : Nat) (f : Mdac → Mdac) (s : State) : (s.modMdac i f).tickStart = s.tickStart := rfl
@[simp] theorem State.modMdac_tickNo (i : Nat) (f : Mdac → Mdac) (s : State) : (s.modMdac i f).tickNo = s.tickNo := rfl
@[simp] theorem State.modMdac_index (i : Nat) (f : Mdac → Mdac) (s : State) : (s.modMdac i f).index = s.index := rfl
@[simp] theorem State.modMdac_role (i : Nat) (f : Mdac → Mdac) (s : State) : (s.modMdac i f).role = s.role := rfl
@[simp] theorem State.modMdac_grail (i : Nat) (f : Mdac → Mdac) (s : State) (k : Nat) : (s.modMdac i f).grail k = s.grail k := rfl
@[simp] theorem State.modMdac_shadow (i : Nat) (f : Mdac → Mdac) (s : State) : (s.modMdac i f).shadow = s.shadow := rfl
@[simp] theorem State.modMdac_rcfg (i : Nat) (f : Mdac → Mdac) (s : State) (k : Nat) : (s.modMdac i f).rcfg k = s.rcfg k := rfl
@[simp] theorem State.modMdac_vioOk (i : Nat) (f : Mdac → Mdac) (s : State) (k : Nat) : (s.modMdac i f).vioOk k = s.vioOk k := rfl

/-! ## modWatch -/

@[simp] theorem State.modWatch_pending (i : Nat) (f : Watch → Watch) (s : State) : (s.modWatch i f).pending = s.pending := rfl
@[simp] theorem State.modWatch_clk (i : Nat) (f : Watch → Watch) (s : State) : (s.modWatch i f).clk = s.clk := rfl
@[simp] theorem State.modWatch_engs (i : Nat) (f : Watch → Watch) (s : State) : (s.modWatch i f).engs = s.engs := rfl
@[simp] theorem State.modWatch_ovrStat (i : Nat) (f : Watch → Watch) (s : State) : (s.modWatch i f).ovrStat = s.ovrStat := rfl
@[simp] theorem State.modWatch_ovrNow (i : Nat) (f : Watch → Watch) (s : State) : (s.modWatch i f).ovrNow = s.ovrNow := rfl
@[simp] theorem State.modWatch_wc (i : Nat) (f : Watch → Watch) (s : State) : (s.modWatch i f).wc = s.wc := rfl
@[simp] theorem State.modWatch_evt (i : Nat) (f : Watch → Watch) (s : State) : (s.modWatch i f).evt = s.evt := rfl
@[simp] theorem State.modWatch_jrn (i : Nat) (f : Watch → Watch) (s : State) : (s.modWatch i f).jrn = s.jrn := rfl
@[simp] theorem State.modWatch_hst (i : Nat) (f : Watch → Watch) (s : State) : (s.modWatch i f).hst = s.hst := rfl
@[simp] theorem State.modWatch_recd (i : Nat) (f : Watch → Watch) (s : State) : (s.modWatch i f).recd = s.recd := rfl
@[simp] theorem State.modWatch_bar0 (i : Nat) (f : Watch → Watch) (s : State) : (s.modWatch i f).bar0 = s.bar0 := rfl
@[simp] theorem State.modWatch_cfg (i : Nat) (f : Watch → Watch) (s : State) : (s.modWatch i f).cfg = s.cfg := rfl
@[simp] theorem State.modWatch_setup (i : Nat) (f : Watch → Watch) (s : State) : (s.modWatch i f).setup = s.setup := rfl
@[simp] theorem State.modWatch_coef (i : Nat) (f : Watch → Watch) (s : State) : (s.modWatch i f).coef = s.coef := rfl
@[simp] theorem State.modWatch_rails (i : Nat) (f : Watch → Watch) (s : State) : (s.modWatch i f).rails = s.rails := rfl
@[simp] theorem State.modWatch_banks (i : Nat) (f : Watch → Watch) (s : State) : (s.modWatch i f).banks = s.banks := rfl
@[simp] theorem State.modWatch_mdacs (i : Nat) (f : Watch → Watch) (s : State) : (s.modWatch i f).mdacs = s.mdacs := rfl
@[simp] theorem State.modWatch_pmb (i : Nat) (f : Watch → Watch) (s : State) : (s.modWatch i f).pmb = s.pmb := rfl
@[simp] theorem State.modWatch_seq (i : Nat) (f : Watch → Watch) (s : State) : (s.modWatch i f).seq = s.seq := rfl
@[simp] theorem State.modWatch_off (i : Nat) (f : Watch → Watch) (s : State) : (s.modWatch i f).off = s.off := rfl
@[simp] theorem State.modWatch_flt (i : Nat) (f : Watch → Watch) (s : State) : (s.modWatch i f).flt = s.flt := rfl
@[simp] theorem State.modWatch_drt (i : Nat) (f : Watch → Watch) (s : State) : (s.modWatch i f).drt = s.drt := rfl
@[simp] theorem State.modWatch_dmp (i : Nat) (f : Watch → Watch) (s : State) : (s.modWatch i f).dmp = s.dmp := rfl
@[simp] theorem State.modWatch_shr (i : Nat) (f : Watch → Watch) (s : State) : (s.modWatch i f).shr = s.shr := rfl
@[simp] theorem State.modWatch_inl (i : Nat) (f : Watch → Watch) (s : State) : (s.modWatch i f).inl = s.inl := rfl
@[simp] theorem State.modWatch_cnv (i : Nat) (f : Watch → Watch) (s : State) : (s.modWatch i f).cnv = s.cnv := rfl
@[simp] theorem State.modWatch_stgs (i : Nat) (f : Watch → Watch) (s : State) : (s.modWatch i f).stgs = s.stgs := rfl
@[simp] theorem State.modWatch_phases (i : Nat) (f : Watch → Watch) (s : State) : (s.modWatch i f).phases = s.phases := rfl
@[simp] theorem State.modWatch_sca (i : Nat) (f : Watch → Watch) (s : State) : (s.modWatch i f).sca = s.sca := rfl
@[simp] theorem State.modWatch_pair (i : Nat) (f : Watch → Watch) (s : State) : (s.modWatch i f).pair = s.pair := rfl
@[simp] theorem State.modWatch_nv (i : Nat) (f : Watch → Watch) (s : State) : (s.modWatch i f).nv = s.nv := rfl
@[simp] theorem State.modWatch_fw (i : Nat) (f : Watch → Watch) (s : State) : (s.modWatch i f).fw = s.fw := rfl
@[simp] theorem State.modWatch_pwr (i : Nat) (f : Watch → Watch) (s : State) : (s.modWatch i f).pwr = s.pwr := rfl
@[simp] theorem State.modWatch_free (i : Nat) (f : Watch → Watch) (s : State) : (s.modWatch i f).free = s.free := rfl
@[simp] theorem State.modWatch_out (i : Nat) (f : Watch → Watch) (s : State) : (s.modWatch i f).out = s.out := rfl
@[simp] theorem State.modWatch_eng (i : Nat) (f : Watch → Watch) (s : State) (j : Nat) : (s.modWatch i f).eng j = s.eng j := rfl
@[simp] theorem State.modWatch_rail (i : Nat) (f : Watch → Watch) (s : State) (j : Nat) : (s.modWatch i f).rail j = s.rail j := rfl
@[simp] theorem State.modWatch_bank (i : Nat) (f : Watch → Watch) (s : State) (j : Nat) : (s.modWatch i f).bank j = s.bank j := rfl
@[simp] theorem State.modWatch_mdac (i : Nat) (f : Watch → Watch) (s : State) (j : Nat) : (s.modWatch i f).mdac j = s.mdac j := rfl
@[simp] theorem State.modWatch_watch (i : Nat) (f : Watch → Watch) (s : State) (j : Nat) : (s.modWatch i f).watch j = if j = i then f (s.watch i) else s.watch j := tget_tmod _ _ _ _ _
theorem State.modWatch_watch_same (i : Nat) (f : Watch → Watch) (s : State) : (s.modWatch i f).watch i = f (s.watch i) := tget_tmod_same _ _ _ _
@[simp] theorem State.modWatch_stg (i : Nat) (f : Watch → Watch) (s : State) (j : Nat) : (s.modWatch i f).stg j = s.stg j := rfl
@[simp] theorem State.modWatch_phase (i : Nat) (f : Watch → Watch) (s : State) (j : Nat) : (s.modWatch i f).phase j = s.phase j := rfl
@[simp] theorem State.modWatch_ring (i : Nat) (f : Watch → Watch) (s : State) (j : Nat) : (s.modWatch i f).ring j = s.ring j := rfl
@[simp] theorem State.modWatch_vec (i : Nat) (f : Watch → Watch) (s : State) (j : Nat) : (s.modWatch i f).vec j = s.vec j := rfl
@[simp] theorem State.modWatch_prog (i : Nat) (f : Watch → Watch) (s : State) (j : Nat) : (s.modWatch i f).prog j = s.prog j := rfl
@[simp] theorem State.modWatch_grp (i : Nat) (f : Watch → Watch) (s : State) (j : Nat) : (s.modWatch i f).grp j = s.grp j := rfl
@[simp] theorem State.modWatch_rect (i : Nat) (f : Watch → Watch) (s : State) (j : Nat) : (s.modWatch i f).rect j = s.rect j := rfl
@[simp] theorem State.modWatch_core (i : Nat) (f : Watch → Watch) (s : State) (j : Nat) : (s.modWatch i f).core j = s.core j := rfl
@[simp] theorem State.modWatch_ppair (i : Nat) (f : Watch → Watch) (s : State) (j : Nat) : (s.modWatch i f).ppair j = s.ppair j := rfl
@[simp] theorem State.modWatch_refm (i : Nat) (f : Watch → Watch) (s : State) (j : Nat) : (s.modWatch i f).refm j = s.refm j := rfl
@[simp] theorem State.modWatch_port (i : Nat) (f : Watch → Watch) (s : State) (j : Nat) : (s.modWatch i f).port j = s.port j := rfl
@[simp] theorem State.modWatch_rnode (i : Nat) (f : Watch → Watch) (s : State) (j : Nat) : (s.modWatch i f).rnode j = s.rnode j := rfl
@[simp] theorem State.modWatch_view (i : Nat) (f : Watch → Watch) (s : State) (j : Nat) : (s.modWatch i f).view j = s.view j := rfl
@[simp] theorem State.modWatch_cgrp (i : Nat) (f : Watch → Watch) (s : State) (j : Nat) : (s.modWatch i f).cgrp j = s.cgrp j := rfl
@[simp] theorem State.modWatch_cw (i : Nat) (f : Watch → Watch) (s : State) (k : Nat) : (s.modWatch i f).cw k = s.cw k := rfl
@[simp] theorem State.modWatch_cf (i : Nat) (f : Watch → Watch) (s : State) (k hi lo : Nat) : (s.modWatch i f).cf k hi lo = s.cf k hi lo := rfl
@[simp] theorem State.modWatch_cb (i : Nat) (f : Watch → Watch) (s : State) (k n : Nat) : (s.modWatch i f).cb k n = s.cb k n := rfl
@[simp] theorem State.modWatch_bw (i : Nat) (f : Watch → Watch) (s : State) (k : Nat) : (s.modWatch i f).bw k = s.bw k := rfl
@[simp] theorem State.modWatch_bf (i : Nat) (f : Watch → Watch) (s : State) (k hi lo : Nat) : (s.modWatch i f).bf k hi lo = s.bf k hi lo := rfl
@[simp] theorem State.modWatch_now (i : Nat) (f : Watch → Watch) (s : State) : (s.modWatch i f).now = s.now := rfl
@[simp] theorem State.modWatch_tsB (i : Nat) (f : Watch → Watch) (s : State) : (s.modWatch i f).tsB = s.tsB := rfl
@[simp] theorem State.modWatch_tickStart (i : Nat) (f : Watch → Watch) (s : State) : (s.modWatch i f).tickStart = s.tickStart := rfl
@[simp] theorem State.modWatch_tickNo (i : Nat) (f : Watch → Watch) (s : State) : (s.modWatch i f).tickNo = s.tickNo := rfl
@[simp] theorem State.modWatch_index (i : Nat) (f : Watch → Watch) (s : State) : (s.modWatch i f).index = s.index := rfl
@[simp] theorem State.modWatch_role (i : Nat) (f : Watch → Watch) (s : State) : (s.modWatch i f).role = s.role := rfl
@[simp] theorem State.modWatch_grail (i : Nat) (f : Watch → Watch) (s : State) (k : Nat) : (s.modWatch i f).grail k = s.grail k := rfl
@[simp] theorem State.modWatch_shadow (i : Nat) (f : Watch → Watch) (s : State) : (s.modWatch i f).shadow = s.shadow := rfl
@[simp] theorem State.modWatch_rcfg (i : Nat) (f : Watch → Watch) (s : State) (k : Nat) : (s.modWatch i f).rcfg k = s.rcfg k := rfl
@[simp] theorem State.modWatch_vioOk (i : Nat) (f : Watch → Watch) (s : State) (k : Nat) : (s.modWatch i f).vioOk k = s.vioOk k := rfl

/-! ## modStg -/

@[simp] theorem State.modStg_pending (i : Nat) (f : Stg → Stg) (s : State) : (s.modStg i f).pending = s.pending := rfl
@[simp] theorem State.modStg_clk (i : Nat) (f : Stg → Stg) (s : State) : (s.modStg i f).clk = s.clk := rfl
@[simp] theorem State.modStg_engs (i : Nat) (f : Stg → Stg) (s : State) : (s.modStg i f).engs = s.engs := rfl
@[simp] theorem State.modStg_ovrStat (i : Nat) (f : Stg → Stg) (s : State) : (s.modStg i f).ovrStat = s.ovrStat := rfl
@[simp] theorem State.modStg_ovrNow (i : Nat) (f : Stg → Stg) (s : State) : (s.modStg i f).ovrNow = s.ovrNow := rfl
@[simp] theorem State.modStg_wc (i : Nat) (f : Stg → Stg) (s : State) : (s.modStg i f).wc = s.wc := rfl
@[simp] theorem State.modStg_evt (i : Nat) (f : Stg → Stg) (s : State) : (s.modStg i f).evt = s.evt := rfl
@[simp] theorem State.modStg_jrn (i : Nat) (f : Stg → Stg) (s : State) : (s.modStg i f).jrn = s.jrn := rfl
@[simp] theorem State.modStg_hst (i : Nat) (f : Stg → Stg) (s : State) : (s.modStg i f).hst = s.hst := rfl
@[simp] theorem State.modStg_recd (i : Nat) (f : Stg → Stg) (s : State) : (s.modStg i f).recd = s.recd := rfl
@[simp] theorem State.modStg_bar0 (i : Nat) (f : Stg → Stg) (s : State) : (s.modStg i f).bar0 = s.bar0 := rfl
@[simp] theorem State.modStg_cfg (i : Nat) (f : Stg → Stg) (s : State) : (s.modStg i f).cfg = s.cfg := rfl
@[simp] theorem State.modStg_setup (i : Nat) (f : Stg → Stg) (s : State) : (s.modStg i f).setup = s.setup := rfl
@[simp] theorem State.modStg_coef (i : Nat) (f : Stg → Stg) (s : State) : (s.modStg i f).coef = s.coef := rfl
@[simp] theorem State.modStg_rails (i : Nat) (f : Stg → Stg) (s : State) : (s.modStg i f).rails = s.rails := rfl
@[simp] theorem State.modStg_banks (i : Nat) (f : Stg → Stg) (s : State) : (s.modStg i f).banks = s.banks := rfl
@[simp] theorem State.modStg_mdacs (i : Nat) (f : Stg → Stg) (s : State) : (s.modStg i f).mdacs = s.mdacs := rfl
@[simp] theorem State.modStg_pmb (i : Nat) (f : Stg → Stg) (s : State) : (s.modStg i f).pmb = s.pmb := rfl
@[simp] theorem State.modStg_watches (i : Nat) (f : Stg → Stg) (s : State) : (s.modStg i f).watches = s.watches := rfl
@[simp] theorem State.modStg_seq (i : Nat) (f : Stg → Stg) (s : State) : (s.modStg i f).seq = s.seq := rfl
@[simp] theorem State.modStg_off (i : Nat) (f : Stg → Stg) (s : State) : (s.modStg i f).off = s.off := rfl
@[simp] theorem State.modStg_flt (i : Nat) (f : Stg → Stg) (s : State) : (s.modStg i f).flt = s.flt := rfl
@[simp] theorem State.modStg_drt (i : Nat) (f : Stg → Stg) (s : State) : (s.modStg i f).drt = s.drt := rfl
@[simp] theorem State.modStg_dmp (i : Nat) (f : Stg → Stg) (s : State) : (s.modStg i f).dmp = s.dmp := rfl
@[simp] theorem State.modStg_shr (i : Nat) (f : Stg → Stg) (s : State) : (s.modStg i f).shr = s.shr := rfl
@[simp] theorem State.modStg_inl (i : Nat) (f : Stg → Stg) (s : State) : (s.modStg i f).inl = s.inl := rfl
@[simp] theorem State.modStg_cnv (i : Nat) (f : Stg → Stg) (s : State) : (s.modStg i f).cnv = s.cnv := rfl
@[simp] theorem State.modStg_phases (i : Nat) (f : Stg → Stg) (s : State) : (s.modStg i f).phases = s.phases := rfl
@[simp] theorem State.modStg_sca (i : Nat) (f : Stg → Stg) (s : State) : (s.modStg i f).sca = s.sca := rfl
@[simp] theorem State.modStg_pair (i : Nat) (f : Stg → Stg) (s : State) : (s.modStg i f).pair = s.pair := rfl
@[simp] theorem State.modStg_nv (i : Nat) (f : Stg → Stg) (s : State) : (s.modStg i f).nv = s.nv := rfl
@[simp] theorem State.modStg_fw (i : Nat) (f : Stg → Stg) (s : State) : (s.modStg i f).fw = s.fw := rfl
@[simp] theorem State.modStg_pwr (i : Nat) (f : Stg → Stg) (s : State) : (s.modStg i f).pwr = s.pwr := rfl
@[simp] theorem State.modStg_free (i : Nat) (f : Stg → Stg) (s : State) : (s.modStg i f).free = s.free := rfl
@[simp] theorem State.modStg_out (i : Nat) (f : Stg → Stg) (s : State) : (s.modStg i f).out = s.out := rfl
@[simp] theorem State.modStg_eng (i : Nat) (f : Stg → Stg) (s : State) (j : Nat) : (s.modStg i f).eng j = s.eng j := rfl
@[simp] theorem State.modStg_rail (i : Nat) (f : Stg → Stg) (s : State) (j : Nat) : (s.modStg i f).rail j = s.rail j := rfl
@[simp] theorem State.modStg_bank (i : Nat) (f : Stg → Stg) (s : State) (j : Nat) : (s.modStg i f).bank j = s.bank j := rfl
@[simp] theorem State.modStg_mdac (i : Nat) (f : Stg → Stg) (s : State) (j : Nat) : (s.modStg i f).mdac j = s.mdac j := rfl
@[simp] theorem State.modStg_watch (i : Nat) (f : Stg → Stg) (s : State) (j : Nat) : (s.modStg i f).watch j = s.watch j := rfl
@[simp] theorem State.modStg_stg (i : Nat) (f : Stg → Stg) (s : State) (j : Nat) : (s.modStg i f).stg j = if j = i then f (s.stg i) else s.stg j := tget_tmod _ _ _ _ _
theorem State.modStg_stg_same (i : Nat) (f : Stg → Stg) (s : State) : (s.modStg i f).stg i = f (s.stg i) := tget_tmod_same _ _ _ _
@[simp] theorem State.modStg_phase (i : Nat) (f : Stg → Stg) (s : State) (j : Nat) : (s.modStg i f).phase j = s.phase j := rfl
@[simp] theorem State.modStg_ring (i : Nat) (f : Stg → Stg) (s : State) (j : Nat) : (s.modStg i f).ring j = s.ring j := rfl
@[simp] theorem State.modStg_vec (i : Nat) (f : Stg → Stg) (s : State) (j : Nat) : (s.modStg i f).vec j = s.vec j := rfl
@[simp] theorem State.modStg_prog (i : Nat) (f : Stg → Stg) (s : State) (j : Nat) : (s.modStg i f).prog j = s.prog j := rfl
@[simp] theorem State.modStg_grp (i : Nat) (f : Stg → Stg) (s : State) (j : Nat) : (s.modStg i f).grp j = s.grp j := rfl
@[simp] theorem State.modStg_rect (i : Nat) (f : Stg → Stg) (s : State) (j : Nat) : (s.modStg i f).rect j = s.rect j := rfl
@[simp] theorem State.modStg_core (i : Nat) (f : Stg → Stg) (s : State) (j : Nat) : (s.modStg i f).core j = s.core j := rfl
@[simp] theorem State.modStg_ppair (i : Nat) (f : Stg → Stg) (s : State) (j : Nat) : (s.modStg i f).ppair j = s.ppair j := rfl
@[simp] theorem State.modStg_refm (i : Nat) (f : Stg → Stg) (s : State) (j : Nat) : (s.modStg i f).refm j = s.refm j := rfl
@[simp] theorem State.modStg_port (i : Nat) (f : Stg → Stg) (s : State) (j : Nat) : (s.modStg i f).port j = s.port j := rfl
@[simp] theorem State.modStg_rnode (i : Nat) (f : Stg → Stg) (s : State) (j : Nat) : (s.modStg i f).rnode j = s.rnode j := rfl
@[simp] theorem State.modStg_view (i : Nat) (f : Stg → Stg) (s : State) (j : Nat) : (s.modStg i f).view j = s.view j := rfl
@[simp] theorem State.modStg_cgrp (i : Nat) (f : Stg → Stg) (s : State) (j : Nat) : (s.modStg i f).cgrp j = s.cgrp j := rfl
@[simp] theorem State.modStg_cw (i : Nat) (f : Stg → Stg) (s : State) (k : Nat) : (s.modStg i f).cw k = s.cw k := rfl
@[simp] theorem State.modStg_cf (i : Nat) (f : Stg → Stg) (s : State) (k hi lo : Nat) : (s.modStg i f).cf k hi lo = s.cf k hi lo := rfl
@[simp] theorem State.modStg_cb (i : Nat) (f : Stg → Stg) (s : State) (k n : Nat) : (s.modStg i f).cb k n = s.cb k n := rfl
@[simp] theorem State.modStg_bw (i : Nat) (f : Stg → Stg) (s : State) (k : Nat) : (s.modStg i f).bw k = s.bw k := rfl
@[simp] theorem State.modStg_bf (i : Nat) (f : Stg → Stg) (s : State) (k hi lo : Nat) : (s.modStg i f).bf k hi lo = s.bf k hi lo := rfl
@[simp] theorem State.modStg_now (i : Nat) (f : Stg → Stg) (s : State) : (s.modStg i f).now = s.now := rfl
@[simp] theorem State.modStg_tsB (i : Nat) (f : Stg → Stg) (s : State) : (s.modStg i f).tsB = s.tsB := rfl
@[simp] theorem State.modStg_tickStart (i : Nat) (f : Stg → Stg) (s : State) : (s.modStg i f).tickStart = s.tickStart := rfl
@[simp] theorem State.modStg_tickNo (i : Nat) (f : Stg → Stg) (s : State) : (s.modStg i f).tickNo = s.tickNo := rfl
@[simp] theorem State.modStg_index (i : Nat) (f : Stg → Stg) (s : State) : (s.modStg i f).index = s.index := rfl
@[simp] theorem State.modStg_role (i : Nat) (f : Stg → Stg) (s : State) : (s.modStg i f).role = s.role := rfl
@[simp] theorem State.modStg_grail (i : Nat) (f : Stg → Stg) (s : State) (k : Nat) : (s.modStg i f).grail k = s.grail k := rfl
@[simp] theorem State.modStg_shadow (i : Nat) (f : Stg → Stg) (s : State) : (s.modStg i f).shadow = s.shadow := rfl
@[simp] theorem State.modStg_rcfg (i : Nat) (f : Stg → Stg) (s : State) (k : Nat) : (s.modStg i f).rcfg k = s.rcfg k := rfl
@[simp] theorem State.modStg_vioOk (i : Nat) (f : Stg → Stg) (s : State) (k : Nat) : (s.modStg i f).vioOk k = s.vioOk k := rfl

/-! ## modPhase -/

@[simp] theorem State.modPhase_pending (i : Nat) (f : Phase → Phase) (s : State) : (s.modPhase i f).pending = s.pending := rfl
@[simp] theorem State.modPhase_clk (i : Nat) (f : Phase → Phase) (s : State) : (s.modPhase i f).clk = s.clk := rfl
@[simp] theorem State.modPhase_engs (i : Nat) (f : Phase → Phase) (s : State) : (s.modPhase i f).engs = s.engs := rfl
@[simp] theorem State.modPhase_ovrStat (i : Nat) (f : Phase → Phase) (s : State) : (s.modPhase i f).ovrStat = s.ovrStat := rfl
@[simp] theorem State.modPhase_ovrNow (i : Nat) (f : Phase → Phase) (s : State) : (s.modPhase i f).ovrNow = s.ovrNow := rfl
@[simp] theorem State.modPhase_wc (i : Nat) (f : Phase → Phase) (s : State) : (s.modPhase i f).wc = s.wc := rfl
@[simp] theorem State.modPhase_evt (i : Nat) (f : Phase → Phase) (s : State) : (s.modPhase i f).evt = s.evt := rfl
@[simp] theorem State.modPhase_jrn (i : Nat) (f : Phase → Phase) (s : State) : (s.modPhase i f).jrn = s.jrn := rfl
@[simp] theorem State.modPhase_hst (i : Nat) (f : Phase → Phase) (s : State) : (s.modPhase i f).hst = s.hst := rfl
@[simp] theorem State.modPhase_recd (i : Nat) (f : Phase → Phase) (s : State) : (s.modPhase i f).recd = s.recd := rfl
@[simp] theorem State.modPhase_bar0 (i : Nat) (f : Phase → Phase) (s : State) : (s.modPhase i f).bar0 = s.bar0 := rfl
@[simp] theorem State.modPhase_cfg (i : Nat) (f : Phase → Phase) (s : State) : (s.modPhase i f).cfg = s.cfg := rfl
@[simp] theorem State.modPhase_setup (i : Nat) (f : Phase → Phase) (s : State) : (s.modPhase i f).setup = s.setup := rfl
@[simp] theorem State.modPhase_coef (i : Nat) (f : Phase → Phase) (s : State) : (s.modPhase i f).coef = s.coef := rfl
@[simp] theorem State.modPhase_rails (i : Nat) (f : Phase → Phase) (s : State) : (s.modPhase i f).rails = s.rails := rfl
@[simp] theorem State.modPhase_banks (i : Nat) (f : Phase → Phase) (s : State) : (s.modPhase i f).banks = s.banks := rfl
@[simp] theorem State.modPhase_mdacs (i : Nat) (f : Phase → Phase) (s : State) : (s.modPhase i f).mdacs = s.mdacs := rfl
@[simp] theorem State.modPhase_pmb (i : Nat) (f : Phase → Phase) (s : State) : (s.modPhase i f).pmb = s.pmb := rfl
@[simp] theorem State.modPhase_watches (i : Nat) (f : Phase → Phase) (s : State) : (s.modPhase i f).watches = s.watches := rfl
@[simp] theorem State.modPhase_seq (i : Nat) (f : Phase → Phase) (s : State) : (s.modPhase i f).seq = s.seq := rfl
@[simp] theorem State.modPhase_off (i : Nat) (f : Phase → Phase) (s : State) : (s.modPhase i f).off = s.off := rfl
@[simp] theorem State.modPhase_flt (i : Nat) (f : Phase → Phase) (s : State) : (s.modPhase i f).flt = s.flt := rfl
@[simp] theorem State.modPhase_drt (i : Nat) (f : Phase → Phase) (s : State) : (s.modPhase i f).drt = s.drt := rfl
@[simp] theorem State.modPhase_dmp (i : Nat) (f : Phase → Phase) (s : State) : (s.modPhase i f).dmp = s.dmp := rfl
@[simp] theorem State.modPhase_shr (i : Nat) (f : Phase → Phase) (s : State) : (s.modPhase i f).shr = s.shr := rfl
@[simp] theorem State.modPhase_inl (i : Nat) (f : Phase → Phase) (s : State) : (s.modPhase i f).inl = s.inl := rfl
@[simp] theorem State.modPhase_cnv (i : Nat) (f : Phase → Phase) (s : State) : (s.modPhase i f).cnv = s.cnv := rfl
@[simp] theorem State.modPhase_stgs (i : Nat) (f : Phase → Phase) (s : State) : (s.modPhase i f).stgs = s.stgs := rfl
@[simp] theorem State.modPhase_sca (i : Nat) (f : Phase → Phase) (s : State) : (s.modPhase i f).sca = s.sca := rfl
@[simp] theorem State.modPhase_pair (i : Nat) (f : Phase → Phase) (s : State) : (s.modPhase i f).pair = s.pair := rfl
@[simp] theorem State.modPhase_nv (i : Nat) (f : Phase → Phase) (s : State) : (s.modPhase i f).nv = s.nv := rfl
@[simp] theorem State.modPhase_fw (i : Nat) (f : Phase → Phase) (s : State) : (s.modPhase i f).fw = s.fw := rfl
@[simp] theorem State.modPhase_pwr (i : Nat) (f : Phase → Phase) (s : State) : (s.modPhase i f).pwr = s.pwr := rfl
@[simp] theorem State.modPhase_free (i : Nat) (f : Phase → Phase) (s : State) : (s.modPhase i f).free = s.free := rfl
@[simp] theorem State.modPhase_out (i : Nat) (f : Phase → Phase) (s : State) : (s.modPhase i f).out = s.out := rfl
@[simp] theorem State.modPhase_eng (i : Nat) (f : Phase → Phase) (s : State) (j : Nat) : (s.modPhase i f).eng j = s.eng j := rfl
@[simp] theorem State.modPhase_rail (i : Nat) (f : Phase → Phase) (s : State) (j : Nat) : (s.modPhase i f).rail j = s.rail j := rfl
@[simp] theorem State.modPhase_bank (i : Nat) (f : Phase → Phase) (s : State) (j : Nat) : (s.modPhase i f).bank j = s.bank j := rfl
@[simp] theorem State.modPhase_mdac (i : Nat) (f : Phase → Phase) (s : State) (j : Nat) : (s.modPhase i f).mdac j = s.mdac j := rfl
@[simp] theorem State.modPhase_watch (i : Nat) (f : Phase → Phase) (s : State) (j : Nat) : (s.modPhase i f).watch j = s.watch j := rfl
@[simp] theorem State.modPhase_stg (i : Nat) (f : Phase → Phase) (s : State) (j : Nat) : (s.modPhase i f).stg j = s.stg j := rfl
@[simp] theorem State.modPhase_phase (i : Nat) (f : Phase → Phase) (s : State) (j : Nat) : (s.modPhase i f).phase j = if j = i then f (s.phase i) else s.phase j := tget_tmod _ _ _ _ _
theorem State.modPhase_phase_same (i : Nat) (f : Phase → Phase) (s : State) : (s.modPhase i f).phase i = f (s.phase i) := tget_tmod_same _ _ _ _
@[simp] theorem State.modPhase_ring (i : Nat) (f : Phase → Phase) (s : State) (j : Nat) : (s.modPhase i f).ring j = s.ring j := rfl
@[simp] theorem State.modPhase_vec (i : Nat) (f : Phase → Phase) (s : State) (j : Nat) : (s.modPhase i f).vec j = s.vec j := rfl
@[simp] theorem State.modPhase_prog (i : Nat) (f : Phase → Phase) (s : State) (j : Nat) : (s.modPhase i f).prog j = s.prog j := rfl
@[simp] theorem State.modPhase_grp (i : Nat) (f : Phase → Phase) (s : State) (j : Nat) : (s.modPhase i f).grp j = s.grp j := rfl
@[simp] theorem State.modPhase_rect (i : Nat) (f : Phase → Phase) (s : State) (j : Nat) : (s.modPhase i f).rect j = s.rect j := rfl
@[simp] theorem State.modPhase_core (i : Nat) (f : Phase → Phase) (s : State) (j : Nat) : (s.modPhase i f).core j = s.core j := rfl
@[simp] theorem State.modPhase_ppair (i : Nat) (f : Phase → Phase) (s : State) (j : Nat) : (s.modPhase i f).ppair j = s.ppair j := rfl
@[simp] theorem State.modPhase_refm (i : Nat) (f : Phase → Phase) (s : State) (j : Nat) : (s.modPhase i f).refm j = s.refm j := rfl
@[simp] theorem State.modPhase_port (i : Nat) (f : Phase → Phase) (s : State) (j : Nat) : (s.modPhase i f).port j = s.port j := rfl
@[simp] theorem State.modPhase_rnode (i : Nat) (f : Phase → Phase) (s : State) (j : Nat) : (s.modPhase i f).rnode j = s.rnode j := rfl
@[simp] theorem State.modPhase_view (i : Nat) (f : Phase → Phase) (s : State) (j : Nat) : (s.modPhase i f).view j = s.view j := rfl
@[simp] theorem State.modPhase_cgrp (i : Nat) (f : Phase → Phase) (s : State) (j : Nat) : (s.modPhase i f).cgrp j = s.cgrp j := rfl
@[simp] theorem State.modPhase_cw (i : Nat) (f : Phase → Phase) (s : State) (k : Nat) : (s.modPhase i f).cw k = s.cw k := rfl
@[simp] theorem State.modPhase_cf (i : Nat) (f : Phase → Phase) (s : State) (k hi lo : Nat) : (s.modPhase i f).cf k hi lo = s.cf k hi lo := rfl
@[simp] theorem State.modPhase_cb (i : Nat) (f : Phase → Phase) (s : State) (k n : Nat) : (s.modPhase i f).cb k n = s.cb k n := rfl
@[simp] theorem State.modPhase_bw (i : Nat) (f : Phase → Phase) (s : State) (k : Nat) : (s.modPhase i f).bw k = s.bw k := rfl
@[simp] theorem State.modPhase_bf (i : Nat) (f : Phase → Phase) (s : State) (k hi lo : Nat) : (s.modPhase i f).bf k hi lo = s.bf k hi lo := rfl
@[simp] theorem State.modPhase_now (i : Nat) (f : Phase → Phase) (s : State) : (s.modPhase i f).now = s.now := rfl
@[simp] theorem State.modPhase_tsB (i : Nat) (f : Phase → Phase) (s : State) : (s.modPhase i f).tsB = s.tsB := rfl
@[simp] theorem State.modPhase_tickStart (i : Nat) (f : Phase → Phase) (s : State) : (s.modPhase i f).tickStart = s.tickStart := rfl
@[simp] theorem State.modPhase_tickNo (i : Nat) (f : Phase → Phase) (s : State) : (s.modPhase i f).tickNo = s.tickNo := rfl
@[simp] theorem State.modPhase_index (i : Nat) (f : Phase → Phase) (s : State) : (s.modPhase i f).index = s.index := rfl
@[simp] theorem State.modPhase_role (i : Nat) (f : Phase → Phase) (s : State) : (s.modPhase i f).role = s.role := rfl
@[simp] theorem State.modPhase_grail (i : Nat) (f : Phase → Phase) (s : State) (k : Nat) : (s.modPhase i f).grail k = s.grail k := rfl
@[simp] theorem State.modPhase_shadow (i : Nat) (f : Phase → Phase) (s : State) : (s.modPhase i f).shadow = s.shadow := rfl
@[simp] theorem State.modPhase_rcfg (i : Nat) (f : Phase → Phase) (s : State) (k : Nat) : (s.modPhase i f).rcfg k = s.rcfg k := rfl
@[simp] theorem State.modPhase_vioOk (i : Nat) (f : Phase → Phase) (s : State) (k : Nat) : (s.modPhase i f).vioOk k = s.vioOk k := rfl

/-! ## modRing -/

@[simp] theorem State.modRing_pending (i : Nat) (f : Ring → Ring) (s : State) : (s.modRing i f).pending = s.pending := rfl
@[simp] theorem State.modRing_clk (i : Nat) (f : Ring → Ring) (s : State) : (s.modRing i f).clk = s.clk := rfl
@[simp] theorem State.modRing_engs (i : Nat) (f : Ring → Ring) (s : State) : (s.modRing i f).engs = s.engs := rfl
@[simp] theorem State.modRing_ovrStat (i : Nat) (f : Ring → Ring) (s : State) : (s.modRing i f).ovrStat = s.ovrStat := rfl
@[simp] theorem State.modRing_ovrNow (i : Nat) (f : Ring → Ring) (s : State) : (s.modRing i f).ovrNow = s.ovrNow := rfl
@[simp] theorem State.modRing_wc (i : Nat) (f : Ring → Ring) (s : State) : (s.modRing i f).wc = s.wc := rfl
@[simp] theorem State.modRing_evt (i : Nat) (f : Ring → Ring) (s : State) : (s.modRing i f).evt = s.evt := rfl
@[simp] theorem State.modRing_jrn (i : Nat) (f : Ring → Ring) (s : State) : (s.modRing i f).jrn = s.jrn := rfl
@[simp] theorem State.modRing_recd (i : Nat) (f : Ring → Ring) (s : State) : (s.modRing i f).recd = s.recd := rfl
@[simp] theorem State.modRing_bar0 (i : Nat) (f : Ring → Ring) (s : State) : (s.modRing i f).bar0 = s.bar0 := rfl
@[simp] theorem State.modRing_cfg (i : Nat) (f : Ring → Ring) (s : State) : (s.modRing i f).cfg = s.cfg := rfl
@[simp] theorem State.modRing_setup (i : Nat) (f : Ring → Ring) (s : State) : (s.modRing i f).setup = s.setup := rfl
@[simp] theorem State.modRing_coef (i : Nat) (f : Ring → Ring) (s : State) : (s.modRing i f).coef = s.coef := rfl
@[simp] theorem State.modRing_rails (i : Nat) (f : Ring → Ring) (s : State) : (s.modRing i f).rails = s.rails := rfl
@[simp] theorem State.modRing_banks (i : Nat) (f : Ring → Ring) (s : State) : (s.modRing i f).banks = s.banks := rfl
@[simp] theorem State.modRing_mdacs (i : Nat) (f : Ring → Ring) (s : State) : (s.modRing i f).mdacs = s.mdacs := rfl
@[simp] theorem State.modRing_pmb (i : Nat) (f : Ring → Ring) (s : State) : (s.modRing i f).pmb = s.pmb := rfl
@[simp] theorem State.modRing_watches (i : Nat) (f : Ring → Ring) (s : State) : (s.modRing i f).watches = s.watches := rfl
@[simp] theorem State.modRing_seq (i : Nat) (f : Ring → Ring) (s : State) : (s.modRing i f).seq = s.seq := rfl
@[simp] theorem State.modRing_off (i : Nat) (f : Ring → Ring) (s : State) : (s.modRing i f).off = s.off := rfl
@[simp] theorem State.modRing_flt (i : Nat) (f : Ring → Ring) (s : State) : (s.modRing i f).flt = s.flt := rfl
@[simp] theorem State.modRing_drt (i : Nat) (f : Ring → Ring) (s : State) : (s.modRing i f).drt = s.drt := rfl
@[simp] theorem State.modRing_dmp (i : Nat) (f : Ring → Ring) (s : State) : (s.modRing i f).dmp = s.dmp := rfl
@[simp] theorem State.modRing_shr (i : Nat) (f : Ring → Ring) (s : State) : (s.modRing i f).shr = s.shr := rfl
@[simp] theorem State.modRing_inl (i : Nat) (f : Ring → Ring) (s : State) : (s.modRing i f).inl = s.inl := rfl
@[simp] theorem State.modRing_cnv (i : Nat) (f : Ring → Ring) (s : State) : (s.modRing i f).cnv = s.cnv := rfl
@[simp] theorem State.modRing_stgs (i : Nat) (f : Ring → Ring) (s : State) : (s.modRing i f).stgs = s.stgs := rfl
@[simp] theorem State.modRing_phases (i : Nat) (f : Ring → Ring) (s : State) : (s.modRing i f).phases = s.phases := rfl
@[simp] theorem State.modRing_sca (i : Nat) (f : Ring → Ring) (s : State) : (s.modRing i f).sca = s.sca := rfl
@[simp] theorem State.modRing_pair (i : Nat) (f : Ring → Ring) (s : State) : (s.modRing i f).pair = s.pair := rfl
@[simp] theorem State.modRing_nv (i : Nat) (f : Ring → Ring) (s : State) : (s.modRing i f).nv = s.nv := rfl
@[simp] theorem State.modRing_fw (i : Nat) (f : Ring → Ring) (s : State) : (s.modRing i f).fw = s.fw := rfl
@[simp] theorem State.modRing_pwr (i : Nat) (f : Ring → Ring) (s : State) : (s.modRing i f).pwr = s.pwr := rfl
@[simp] theorem State.modRing_free (i : Nat) (f : Ring → Ring) (s : State) : (s.modRing i f).free = s.free := rfl
@[simp] theorem State.modRing_out (i : Nat) (f : Ring → Ring) (s : State) : (s.modRing i f).out = s.out := rfl
@[simp] theorem State.modRing_eng (i : Nat) (f : Ring → Ring) (s : State) (j : Nat) : (s.modRing i f).eng j = s.eng j := rfl
@[simp] theorem State.modRing_rail (i : Nat) (f : Ring → Ring) (s : State) (j : Nat) : (s.modRing i f).rail j = s.rail j := rfl
@[simp] theorem State.modRing_bank (i : Nat) (f : Ring → Ring) (s : State) (j : Nat) : (s.modRing i f).bank j = s.bank j := rfl
@[simp] theorem State.modRing_mdac (i : Nat) (f : Ring → Ring) (s : State) (j : Nat) : (s.modRing i f).mdac j = s.mdac j := rfl
@[simp] theorem State.modRing_watch (i : Nat) (f : Ring → Ring) (s : State) (j : Nat) : (s.modRing i f).watch j = s.watch j := rfl
@[simp] theorem State.modRing_stg (i : Nat) (f : Ring → Ring) (s : State) (j : Nat) : (s.modRing i f).stg j = s.stg j := rfl
@[simp] theorem State.modRing_phase (i : Nat) (f : Ring → Ring) (s : State) (j : Nat) : (s.modRing i f).phase j = s.phase j := rfl
@[simp] theorem State.modRing_ring (i : Nat) (f : Ring → Ring) (s : State) (j : Nat) : (s.modRing i f).ring j = if j = i then f (s.ring i) else s.ring j := tget_tmod _ _ _ _ _
theorem State.modRing_ring_same (i : Nat) (f : Ring → Ring) (s : State) : (s.modRing i f).ring i = f (s.ring i) := tget_tmod_same _ _ _ _
@[simp] theorem State.modRing_vec (i : Nat) (f : Ring → Ring) (s : State) (j : Nat) : (s.modRing i f).vec j = s.vec j := rfl
@[simp] theorem State.modRing_prog (i : Nat) (f : Ring → Ring) (s : State) (j : Nat) : (s.modRing i f).prog j = s.prog j := rfl
@[simp] theorem State.modRing_grp (i : Nat) (f : Ring → Ring) (s : State) (j : Nat) : (s.modRing i f).grp j = s.grp j := rfl
@[simp] theorem State.modRing_rect (i : Nat) (f : Ring → Ring) (s : State) (j : Nat) : (s.modRing i f).rect j = s.rect j := rfl
@[simp] theorem State.modRing_core (i : Nat) (f : Ring → Ring) (s : State) (j : Nat) : (s.modRing i f).core j = s.core j := rfl
@[simp] theorem State.modRing_ppair (i : Nat) (f : Ring → Ring) (s : State) (j : Nat) : (s.modRing i f).ppair j = s.ppair j := rfl
@[simp] theorem State.modRing_refm (i : Nat) (f : Ring → Ring) (s : State) (j : Nat) : (s.modRing i f).refm j = s.refm j := rfl
@[simp] theorem State.modRing_port (i : Nat) (f : Ring → Ring) (s : State) (j : Nat) : (s.modRing i f).port j = s.port j := rfl
@[simp] theorem State.modRing_rnode (i : Nat) (f : Ring → Ring) (s : State) (j : Nat) : (s.modRing i f).rnode j = s.rnode j := rfl
@[simp] theorem State.modRing_view (i : Nat) (f : Ring → Ring) (s : State) (j : Nat) : (s.modRing i f).view j = s.view j := rfl
@[simp] theorem State.modRing_cgrp (i : Nat) (f : Ring → Ring) (s : State) (j : Nat) : (s.modRing i f).cgrp j = s.cgrp j := rfl
@[simp] theorem State.modRing_cw (i : Nat) (f : Ring → Ring) (s : State) (k : Nat) : (s.modRing i f).cw k = s.cw k := rfl
@[simp] theorem State.modRing_cf (i : Nat) (f : Ring → Ring) (s : State) (k hi lo : Nat) : (s.modRing i f).cf k hi lo = s.cf k hi lo := rfl
@[simp] theorem State.modRing_cb (i : Nat) (f : Ring → Ring) (s : State) (k n : Nat) : (s.modRing i f).cb k n = s.cb k n := rfl
@[simp] theorem State.modRing_bw (i : Nat) (f : Ring → Ring) (s : State) (k : Nat) : (s.modRing i f).bw k = s.bw k := rfl
@[simp] theorem State.modRing_bf (i : Nat) (f : Ring → Ring) (s : State) (k hi lo : Nat) : (s.modRing i f).bf k hi lo = s.bf k hi lo := rfl
@[simp] theorem State.modRing_now (i : Nat) (f : Ring → Ring) (s : State) : (s.modRing i f).now = s.now := rfl
@[simp] theorem State.modRing_tsB (i : Nat) (f : Ring → Ring) (s : State) : (s.modRing i f).tsB = s.tsB := rfl
@[simp] theorem State.modRing_tickStart (i : Nat) (f : Ring → Ring) (s : State) : (s.modRing i f).tickStart = s.tickStart := rfl
@[simp] theorem State.modRing_tickNo (i : Nat) (f : Ring → Ring) (s : State) : (s.modRing i f).tickNo = s.tickNo := rfl
@[simp] theorem State.modRing_index (i : Nat) (f : Ring → Ring) (s : State) : (s.modRing i f).index = s.index := rfl
@[simp] theorem State.modRing_role (i : Nat) (f : Ring → Ring) (s : State) : (s.modRing i f).role = s.role := rfl
@[simp] theorem State.modRing_grail (i : Nat) (f : Ring → Ring) (s : State) (k : Nat) : (s.modRing i f).grail k = s.grail k := rfl
@[simp] theorem State.modRing_shadow (i : Nat) (f : Ring → Ring) (s : State) : (s.modRing i f).shadow = s.shadow := rfl
@[simp] theorem State.modRing_rcfg (i : Nat) (f : Ring → Ring) (s : State) (k : Nat) : (s.modRing i f).rcfg k = s.rcfg k := rfl
@[simp] theorem State.modRing_vioOk (i : Nat) (f : Ring → Ring) (s : State) (k : Nat) : (s.modRing i f).vioOk k = s.vioOk k := rfl

/-! ## modVec -/

@[simp] theorem State.modVec_pending (i : Nat) (f : Vec → Vec) (s : State) : (s.modVec i f).pending = s.pending := rfl
@[simp] theorem State.modVec_clk (i : Nat) (f : Vec → Vec) (s : State) : (s.modVec i f).clk = s.clk := rfl
@[simp] theorem State.modVec_engs (i : Nat) (f : Vec → Vec) (s : State) : (s.modVec i f).engs = s.engs := rfl
@[simp] theorem State.modVec_ovrStat (i : Nat) (f : Vec → Vec) (s : State) : (s.modVec i f).ovrStat = s.ovrStat := rfl
@[simp] theorem State.modVec_ovrNow (i : Nat) (f : Vec → Vec) (s : State) : (s.modVec i f).ovrNow = s.ovrNow := rfl
@[simp] theorem State.modVec_wc (i : Nat) (f : Vec → Vec) (s : State) : (s.modVec i f).wc = s.wc := rfl
@[simp] theorem State.modVec_evt (i : Nat) (f : Vec → Vec) (s : State) : (s.modVec i f).evt = s.evt := rfl
@[simp] theorem State.modVec_jrn (i : Nat) (f : Vec → Vec) (s : State) : (s.modVec i f).jrn = s.jrn := rfl
@[simp] theorem State.modVec_recd (i : Nat) (f : Vec → Vec) (s : State) : (s.modVec i f).recd = s.recd := rfl
@[simp] theorem State.modVec_bar0 (i : Nat) (f : Vec → Vec) (s : State) : (s.modVec i f).bar0 = s.bar0 := rfl
@[simp] theorem State.modVec_cfg (i : Nat) (f : Vec → Vec) (s : State) : (s.modVec i f).cfg = s.cfg := rfl
@[simp] theorem State.modVec_setup (i : Nat) (f : Vec → Vec) (s : State) : (s.modVec i f).setup = s.setup := rfl
@[simp] theorem State.modVec_coef (i : Nat) (f : Vec → Vec) (s : State) : (s.modVec i f).coef = s.coef := rfl
@[simp] theorem State.modVec_rails (i : Nat) (f : Vec → Vec) (s : State) : (s.modVec i f).rails = s.rails := rfl
@[simp] theorem State.modVec_banks (i : Nat) (f : Vec → Vec) (s : State) : (s.modVec i f).banks = s.banks := rfl
@[simp] theorem State.modVec_mdacs (i : Nat) (f : Vec → Vec) (s : State) : (s.modVec i f).mdacs = s.mdacs := rfl
@[simp] theorem State.modVec_pmb (i : Nat) (f : Vec → Vec) (s : State) : (s.modVec i f).pmb = s.pmb := rfl
@[simp] theorem State.modVec_watches (i : Nat) (f : Vec → Vec) (s : State) : (s.modVec i f).watches = s.watches := rfl
@[simp] theorem State.modVec_seq (i : Nat) (f : Vec → Vec) (s : State) : (s.modVec i f).seq = s.seq := rfl
@[simp] theorem State.modVec_off (i : Nat) (f : Vec → Vec) (s : State) : (s.modVec i f).off = s.off := rfl
@[simp] theorem State.modVec_flt (i : Nat) (f : Vec → Vec) (s : State) : (s.modVec i f).flt = s.flt := rfl
@[simp] theorem State.modVec_drt (i : Nat) (f : Vec → Vec) (s : State) : (s.modVec i f).drt = s.drt := rfl
@[simp] theorem State.modVec_dmp (i : Nat) (f : Vec → Vec) (s : State) : (s.modVec i f).dmp = s.dmp := rfl
@[simp] theorem State.modVec_shr (i : Nat) (f : Vec → Vec) (s : State) : (s.modVec i f).shr = s.shr := rfl
@[simp] theorem State.modVec_inl (i : Nat) (f : Vec → Vec) (s : State) : (s.modVec i f).inl = s.inl := rfl
@[simp] theorem State.modVec_cnv (i : Nat) (f : Vec → Vec) (s : State) : (s.modVec i f).cnv = s.cnv := rfl
@[simp] theorem State.modVec_stgs (i : Nat) (f : Vec → Vec) (s : State) : (s.modVec i f).stgs = s.stgs := rfl
@[simp] theorem State.modVec_phases (i : Nat) (f : Vec → Vec) (s : State) : (s.modVec i f).phases = s.phases := rfl
@[simp] theorem State.modVec_sca (i : Nat) (f : Vec → Vec) (s : State) : (s.modVec i f).sca = s.sca := rfl
@[simp] theorem State.modVec_pair (i : Nat) (f : Vec → Vec) (s : State) : (s.modVec i f).pair = s.pair := rfl
@[simp] theorem State.modVec_nv (i : Nat) (f : Vec → Vec) (s : State) : (s.modVec i f).nv = s.nv := rfl
@[simp] theorem State.modVec_fw (i : Nat) (f : Vec → Vec) (s : State) : (s.modVec i f).fw = s.fw := rfl
@[simp] theorem State.modVec_pwr (i : Nat) (f : Vec → Vec) (s : State) : (s.modVec i f).pwr = s.pwr := rfl
@[simp] theorem State.modVec_free (i : Nat) (f : Vec → Vec) (s : State) : (s.modVec i f).free = s.free := rfl
@[simp] theorem State.modVec_out (i : Nat) (f : Vec → Vec) (s : State) : (s.modVec i f).out = s.out := rfl
@[simp] theorem State.modVec_eng (i : Nat) (f : Vec → Vec) (s : State) (j : Nat) : (s.modVec i f).eng j = s.eng j := rfl
@[simp] theorem State.modVec_rail (i : Nat) (f : Vec → Vec) (s : State) (j : Nat) : (s.modVec i f).rail j = s.rail j := rfl
@[simp] theorem State.modVec_bank (i : Nat) (f : Vec → Vec) (s : State) (j : Nat) : (s.modVec i f).bank j = s.bank j := rfl
@[simp] theorem State.modVec_mdac (i : Nat) (f : Vec → Vec) (s : State) (j : Nat) : (s.modVec i f).mdac j = s.mdac j := rfl
@[simp] theorem State.modVec_watch (i : Nat) (f : Vec → Vec) (s : State) (j : Nat) : (s.modVec i f).watch j = s.watch j := rfl
@[simp] theorem State.modVec_stg (i : Nat) (f : Vec → Vec) (s : State) (j : Nat) : (s.modVec i f).stg j = s.stg j := rfl
@[simp] theorem State.modVec_phase (i : Nat) (f : Vec → Vec) (s : State) (j : Nat) : (s.modVec i f).phase j = s.phase j := rfl
@[simp] theorem State.modVec_ring (i : Nat) (f : Vec → Vec) (s : State) (j : Nat) : (s.modVec i f).ring j = s.ring j := rfl
@[simp] theorem State.modVec_vec (i : Nat) (f : Vec → Vec) (s : State) (j : Nat) : (s.modVec i f).vec j = if j = i then f (s.vec i) else s.vec j := tget_tmod _ _ _ _ _
theorem State.modVec_vec_same (i : Nat) (f : Vec → Vec) (s : State) : (s.modVec i f).vec i = f (s.vec i) := tget_tmod_same _ _ _ _
@[simp] theorem State.modVec_prog (i : Nat) (f : Vec → Vec) (s : State) (j : Nat) : (s.modVec i f).prog j = s.prog j := rfl
@[simp] theorem State.modVec_grp (i : Nat) (f : Vec → Vec) (s : State) (j : Nat) : (s.modVec i f).grp j = s.grp j := rfl
@[simp] theorem State.modVec_rect (i : Nat) (f : Vec → Vec) (s : State) (j : Nat) : (s.modVec i f).rect j = s.rect j := rfl
@[simp] theorem State.modVec_core (i : Nat) (f : Vec → Vec) (s : State) (j : Nat) : (s.modVec i f).core j = s.core j := rfl
@[simp] theorem State.modVec_ppair (i : Nat) (f : Vec → Vec) (s : State) (j : Nat) : (s.modVec i f).ppair j = s.ppair j := rfl
@[simp] theorem State.modVec_refm (i : Nat) (f : Vec → Vec) (s : State) (j : Nat) : (s.modVec i f).refm j = s.refm j := rfl
@[simp] theorem State.modVec_port (i : Nat) (f : Vec → Vec) (s : State) (j : Nat) : (s.modVec i f).port j = s.port j := rfl
@[simp] theorem State.modVec_rnode (i : Nat) (f : Vec → Vec) (s : State) (j : Nat) : (s.modVec i f).rnode j = s.rnode j := rfl
@[simp] theorem State.modVec_view (i : Nat) (f : Vec → Vec) (s : State) (j : Nat) : (s.modVec i f).view j = s.view j := rfl
@[simp] theorem State.modVec_cgrp (i : Nat) (f : Vec → Vec) (s : State) (j : Nat) : (s.modVec i f).cgrp j = s.cgrp j := rfl
@[simp] theorem State.modVec_cw (i : Nat) (f : Vec → Vec) (s : State) (k : Nat) : (s.modVec i f).cw k = s.cw k := rfl
@[simp] theorem State.modVec_cf (i : Nat) (f : Vec → Vec) (s : State) (k hi lo : Nat) : (s.modVec i f).cf k hi lo = s.cf k hi lo := rfl
@[simp] theorem State.modVec_cb (i : Nat) (f : Vec → Vec) (s : State) (k n : Nat) : (s.modVec i f).cb k n = s.cb k n := rfl
@[simp] theorem State.modVec_bw (i : Nat) (f : Vec → Vec) (s : State) (k : Nat) : (s.modVec i f).bw k = s.bw k := rfl
@[simp] theorem State.modVec_bf (i : Nat) (f : Vec → Vec) (s : State) (k hi lo : Nat) : (s.modVec i f).bf k hi lo = s.bf k hi lo := rfl
@[simp] theorem State.modVec_now (i : Nat) (f : Vec → Vec) (s : State) : (s.modVec i f).now = s.now := rfl
@[simp] theorem State.modVec_tsB (i : Nat) (f : Vec → Vec) (s : State) : (s.modVec i f).tsB = s.tsB := rfl
@[simp] theorem State.modVec_tickStart (i : Nat) (f : Vec → Vec) (s : State) : (s.modVec i f).tickStart = s.tickStart := rfl
@[simp] theorem State.modVec_tickNo (i : Nat) (f : Vec → Vec) (s : State) : (s.modVec i f).tickNo = s.tickNo := rfl
@[simp] theorem State.modVec_index (i : Nat) (f : Vec → Vec) (s : State) : (s.modVec i f).index = s.index := rfl
@[simp] theorem State.modVec_role (i : Nat) (f : Vec → Vec) (s : State) : (s.modVec i f).role = s.role := rfl
@[simp] theorem State.modVec_grail (i : Nat) (f : Vec → Vec) (s : State) (k : Nat) : (s.modVec i f).grail k = s.grail k := rfl
@[simp] theorem State.modVec_shadow (i : Nat) (f : Vec → Vec) (s : State) : (s.modVec i f).shadow = s.shadow := rfl
@[simp] theorem State.modVec_rcfg (i : Nat) (f : Vec → Vec) (s : State) (k : Nat) : (s.modVec i f).rcfg k = s.rcfg k := rfl
@[simp] theorem State.modVec_vioOk (i : Nat) (f : Vec → Vec) (s : State) (k : Nat) : (s.modVec i f).vioOk k = s.vioOk k := rfl

/-! ## modProg -/

@[simp] theorem State.modProg_pending (i : Nat) (f : Prog → Prog) (s : State) : (s.modProg i f).pending = s.pending := rfl
@[simp] theorem State.modProg_clk (i : Nat) (f : Prog → Prog) (s : State) : (s.modProg i f).clk = s.clk := rfl
@[simp] theorem State.modProg_engs (i : Nat) (f : Prog → Prog) (s : State) : (s.modProg i f).engs = s.engs := rfl
@[simp] theorem State.modProg_ovrStat (i : Nat) (f : Prog → Prog) (s : State) : (s.modProg i f).ovrStat = s.ovrStat := rfl
@[simp] theorem State.modProg_ovrNow (i : Nat) (f : Prog → Prog) (s : State) : (s.modProg i f).ovrNow = s.ovrNow := rfl
@[simp] theorem State.modProg_wc (i : Nat) (f : Prog → Prog) (s : State) : (s.modProg i f).wc = s.wc := rfl
@[simp] theorem State.modProg_evt (i : Nat) (f : Prog → Prog) (s : State) : (s.modProg i f).evt = s.evt := rfl
@[simp] theorem State.modProg_jrn (i : Nat) (f : Prog → Prog) (s : State) : (s.modProg i f).jrn = s.jrn := rfl
@[simp] theorem State.modProg_hst (i : Nat) (f : Prog → Prog) (s : State) : (s.modProg i f).hst = s.hst := rfl
@[simp] theorem State.modProg_recd (i : Nat) (f : Prog → Prog) (s : State) : (s.modProg i f).recd = s.recd := rfl
@[simp] theorem State.modProg_bar0 (i : Nat) (f : Prog → Prog) (s : State) : (s.modProg i f).bar0 = s.bar0 := rfl
@[simp] theorem State.modProg_cfg (i : Nat) (f : Prog → Prog) (s : State) : (s.modProg i f).cfg = s.cfg := rfl
@[simp] theorem State.modProg_setup (i : Nat) (f : Prog → Prog) (s : State) : (s.modProg i f).setup = s.setup := rfl
@[simp] theorem State.modProg_coef (i : Nat) (f : Prog → Prog) (s : State) : (s.modProg i f).coef = s.coef := rfl
@[simp] theorem State.modProg_rails (i : Nat) (f : Prog → Prog) (s : State) : (s.modProg i f).rails = s.rails := rfl
@[simp] theorem State.modProg_banks (i : Nat) (f : Prog → Prog) (s : State) : (s.modProg i f).banks = s.banks := rfl
@[simp] theorem State.modProg_mdacs (i : Nat) (f : Prog → Prog) (s : State) : (s.modProg i f).mdacs = s.mdacs := rfl
@[simp] theorem State.modProg_pmb (i : Nat) (f : Prog → Prog) (s : State) : (s.modProg i f).pmb = s.pmb := rfl
@[simp] theorem State.modProg_watches (i : Nat) (f : Prog → Prog) (s : State) : (s.modProg i f).watches = s.watches := rfl
@[simp] theorem State.modProg_off (i : Nat) (f : Prog → Prog) (s : State) : (s.modProg i f).off = s.off := rfl
@[simp] theorem State.modProg_flt (i : Nat) (f : Prog → Prog) (s : State) : (s.modProg i f).flt = s.flt := rfl
@[simp] theorem State.modProg_drt (i : Nat) (f : Prog → Prog) (s : State) : (s.modProg i f).drt = s.drt := rfl
@[simp] theorem State.modProg_dmp (i : Nat) (f : Prog → Prog) (s : State) : (s.modProg i f).dmp = s.dmp := rfl
@[simp] theorem State.modProg_shr (i : Nat) (f : Prog → Prog) (s : State) : (s.modProg i f).shr = s.shr := rfl
@[simp] theorem State.modProg_inl (i : Nat) (f : Prog → Prog) (s : State) : (s.modProg i f).inl = s.inl := rfl
@[simp] theorem State.modProg_cnv (i : Nat) (f : Prog → Prog) (s : State) : (s.modProg i f).cnv = s.cnv := rfl
@[simp] theorem State.modProg_stgs (i : Nat) (f : Prog → Prog) (s : State) : (s.modProg i f).stgs = s.stgs := rfl
@[simp] theorem State.modProg_phases (i : Nat) (f : Prog → Prog) (s : State) : (s.modProg i f).phases = s.phases := rfl
@[simp] theorem State.modProg_sca (i : Nat) (f : Prog → Prog) (s : State) : (s.modProg i f).sca = s.sca := rfl
@[simp] theorem State.modProg_pair (i : Nat) (f : Prog → Prog) (s : State) : (s.modProg i f).pair = s.pair := rfl
@[simp] theorem State.modProg_nv (i : Nat) (f : Prog → Prog) (s : State) : (s.modProg i f).nv = s.nv := rfl
@[simp] theorem State.modProg_fw (i : Nat) (f : Prog → Prog) (s : State) : (s.modProg i f).fw = s.fw := rfl
@[simp] theorem State.modProg_pwr (i : Nat) (f : Prog → Prog) (s : State) : (s.modProg i f).pwr = s.pwr := rfl
@[simp] theorem State.modProg_free (i : Nat) (f : Prog → Prog) (s : State) : (s.modProg i f).free = s.free := rfl
@[simp] theorem State.modProg_out (i : Nat) (f : Prog → Prog) (s : State) : (s.modProg i f).out = s.out := rfl
@[simp] theorem State.modProg_eng (i : Nat) (f : Prog → Prog) (s : State) (j : Nat) : (s.modProg i f).eng j = s.eng j := rfl
@[simp] theorem State.modProg_rail (i : Nat) (f : Prog → Prog) (s : State) (j : Nat) : (s.modProg i f).rail j = s.rail j := rfl
@[simp] theorem State.modProg_bank (i : Nat) (f : Prog → Prog) (s : State) (j : Nat) : (s.modProg i f).bank j = s.bank j := rfl
@[simp] theorem State.modProg_mdac (i : Nat) (f : Prog → Prog) (s : State) (j : Nat) : (s.modProg i f).mdac j = s.mdac j := rfl
@[simp] theorem State.modProg_watch (i : Nat) (f : Prog → Prog) (s : State) (j : Nat) : (s.modProg i f).watch j = s.watch j := rfl
@[simp] theorem State.modProg_stg (i : Nat) (f : Prog → Prog) (s : State) (j : Nat) : (s.modProg i f).stg j = s.stg j := rfl
@[simp] theorem State.modProg_phase (i : Nat) (f : Prog → Prog) (s : State) (j : Nat) : (s.modProg i f).phase j = s.phase j := rfl
@[simp] theorem State.modProg_ring (i : Nat) (f : Prog → Prog) (s : State) (j : Nat) : (s.modProg i f).ring j = s.ring j := rfl
@[simp] theorem State.modProg_vec (i : Nat) (f : Prog → Prog) (s : State) (j : Nat) : (s.modProg i f).vec j = s.vec j := rfl
@[simp] theorem State.modProg_prog (i : Nat) (f : Prog → Prog) (s : State) (j : Nat) : (s.modProg i f).prog j = if j = i then f (s.prog i) else s.prog j := tget_tmod _ _ _ _ _
theorem State.modProg_prog_same (i : Nat) (f : Prog → Prog) (s : State) : (s.modProg i f).prog i = f (s.prog i) := tget_tmod_same _ _ _ _
@[simp] theorem State.modProg_grp (i : Nat) (f : Prog → Prog) (s : State) (j : Nat) : (s.modProg i f).grp j = s.grp j := rfl
@[simp] theorem State.modProg_rect (i : Nat) (f : Prog → Prog) (s : State) (j : Nat) : (s.modProg i f).rect j = s.rect j := rfl
@[simp] theorem State.modProg_core (i : Nat) (f : Prog → Prog) (s : State) (j : Nat) : (s.modProg i f).core j = s.core j := rfl
@[simp] theorem State.modProg_ppair (i : Nat) (f : Prog → Prog) (s : State) (j : Nat) : (s.modProg i f).ppair j = s.ppair j := rfl
@[simp] theorem State.modProg_refm (i : Nat) (f : Prog → Prog) (s : State) (j : Nat) : (s.modProg i f).refm j = s.refm j := rfl
@[simp] theorem State.modProg_port (i : Nat) (f : Prog → Prog) (s : State) (j : Nat) : (s.modProg i f).port j = s.port j := rfl
@[simp] theorem State.modProg_rnode (i : Nat) (f : Prog → Prog) (s : State) (j : Nat) : (s.modProg i f).rnode j = s.rnode j := rfl
@[simp] theorem State.modProg_view (i : Nat) (f : Prog → Prog) (s : State) (j : Nat) : (s.modProg i f).view j = s.view j := rfl
@[simp] theorem State.modProg_cgrp (i : Nat) (f : Prog → Prog) (s : State) (j : Nat) : (s.modProg i f).cgrp j = s.cgrp j := rfl
@[simp] theorem State.modProg_cw (i : Nat) (f : Prog → Prog) (s : State) (k : Nat) : (s.modProg i f).cw k = s.cw k := rfl
@[simp] theorem State.modProg_cf (i : Nat) (f : Prog → Prog) (s : State) (k hi lo : Nat) : (s.modProg i f).cf k hi lo = s.cf k hi lo := rfl
@[simp] theorem State.modProg_cb (i : Nat) (f : Prog → Prog) (s : State) (k n : Nat) : (s.modProg i f).cb k n = s.cb k n := rfl
@[simp] theorem State.modProg_bw (i : Nat) (f : Prog → Prog) (s : State) (k : Nat) : (s.modProg i f).bw k = s.bw k := rfl
@[simp] theorem State.modProg_bf (i : Nat) (f : Prog → Prog) (s : State) (k hi lo : Nat) : (s.modProg i f).bf k hi lo = s.bf k hi lo := rfl
@[simp] theorem State.modProg_now (i : Nat) (f : Prog → Prog) (s : State) : (s.modProg i f).now = s.now := rfl
@[simp] theorem State.modProg_tsB (i : Nat) (f : Prog → Prog) (s : State) : (s.modProg i f).tsB = s.tsB := rfl
@[simp] theorem State.modProg_tickStart (i : Nat) (f : Prog → Prog) (s : State) : (s.modProg i f).tickStart = s.tickStart := rfl
@[simp] theorem State.modProg_tickNo (i : Nat) (f : Prog → Prog) (s : State) : (s.modProg i f).tickNo = s.tickNo := rfl
@[simp] theorem State.modProg_index (i : Nat) (f : Prog → Prog) (s : State) : (s.modProg i f).index = s.index := rfl
@[simp] theorem State.modProg_role (i : Nat) (f : Prog → Prog) (s : State) : (s.modProg i f).role = s.role := rfl
@[simp] theorem State.modProg_grail (i : Nat) (f : Prog → Prog) (s : State) (k : Nat) : (s.modProg i f).grail k = s.grail k := rfl
@[simp] theorem State.modProg_shadow (i : Nat) (f : Prog → Prog) (s : State) : (s.modProg i f).shadow = s.shadow := rfl
@[simp] theorem State.modProg_rcfg (i : Nat) (f : Prog → Prog) (s : State) (k : Nat) : (s.modProg i f).rcfg k = s.rcfg k := rfl
@[simp] theorem State.modProg_vioOk (i : Nat) (f : Prog → Prog) (s : State) (k : Nat) : (s.modProg i f).vioOk k = s.vioOk k := rfl

/-! ## modGrp -/

@[simp] theorem State.modGrp_pending (i : Nat) (f : Grp → Grp) (s : State) : (s.modGrp i f).pending = s.pending := rfl
@[simp] theorem State.modGrp_clk (i : Nat) (f : Grp → Grp) (s : State) : (s.modGrp i f).clk = s.clk := rfl
@[simp] theorem State.modGrp_engs (i : Nat) (f : Grp → Grp) (s : State) : (s.modGrp i f).engs = s.engs := rfl
@[simp] theorem State.modGrp_ovrStat (i : Nat) (f : Grp → Grp) (s : State) : (s.modGrp i f).ovrStat = s.ovrStat := rfl
@[simp] theorem State.modGrp_ovrNow (i : Nat) (f : Grp → Grp) (s : State) : (s.modGrp i f).ovrNow = s.ovrNow := rfl
@[simp] theorem State.modGrp_wc (i : Nat) (f : Grp → Grp) (s : State) : (s.modGrp i f).wc = s.wc := rfl
@[simp] theorem State.modGrp_evt (i : Nat) (f : Grp → Grp) (s : State) : (s.modGrp i f).evt = s.evt := rfl
@[simp] theorem State.modGrp_jrn (i : Nat) (f : Grp → Grp) (s : State) : (s.modGrp i f).jrn = s.jrn := rfl
@[simp] theorem State.modGrp_hst (i : Nat) (f : Grp → Grp) (s : State) : (s.modGrp i f).hst = s.hst := rfl
@[simp] theorem State.modGrp_recd (i : Nat) (f : Grp → Grp) (s : State) : (s.modGrp i f).recd = s.recd := rfl
@[simp] theorem State.modGrp_bar0 (i : Nat) (f : Grp → Grp) (s : State) : (s.modGrp i f).bar0 = s.bar0 := rfl
@[simp] theorem State.modGrp_cfg (i : Nat) (f : Grp → Grp) (s : State) : (s.modGrp i f).cfg = s.cfg := rfl
@[simp] theorem State.modGrp_setup (i : Nat) (f : Grp → Grp) (s : State) : (s.modGrp i f).setup = s.setup := rfl
@[simp] theorem State.modGrp_coef (i : Nat) (f : Grp → Grp) (s : State) : (s.modGrp i f).coef = s.coef := rfl
@[simp] theorem State.modGrp_rails (i : Nat) (f : Grp → Grp) (s : State) : (s.modGrp i f).rails = s.rails := rfl
@[simp] theorem State.modGrp_banks (i : Nat) (f : Grp → Grp) (s : State) : (s.modGrp i f).banks = s.banks := rfl
@[simp] theorem State.modGrp_mdacs (i : Nat) (f : Grp → Grp) (s : State) : (s.modGrp i f).mdacs = s.mdacs := rfl
@[simp] theorem State.modGrp_pmb (i : Nat) (f : Grp → Grp) (s : State) : (s.modGrp i f).pmb = s.pmb := rfl
@[simp] theorem State.modGrp_watches (i : Nat) (f : Grp → Grp) (s : State) : (s.modGrp i f).watches = s.watches := rfl
@[simp] theorem State.modGrp_seq (i : Nat) (f : Grp → Grp) (s : State) : (s.modGrp i f).seq = s.seq := rfl
@[simp] theorem State.modGrp_off (i : Nat) (f : Grp → Grp) (s : State) : (s.modGrp i f).off = s.off := rfl
@[simp] theorem State.modGrp_drt (i : Nat) (f : Grp → Grp) (s : State) : (s.modGrp i f).drt = s.drt := rfl
@[simp] theorem State.modGrp_dmp (i : Nat) (f : Grp → Grp) (s : State) : (s.modGrp i f).dmp = s.dmp := rfl
@[simp] theorem State.modGrp_shr (i : Nat) (f : Grp → Grp) (s : State) : (s.modGrp i f).shr = s.shr := rfl
@[simp] theorem State.modGrp_inl (i : Nat) (f : Grp → Grp) (s : State) : (s.modGrp i f).inl = s.inl := rfl
@[simp] theorem State.modGrp_cnv (i : Nat) (f : Grp → Grp) (s : State) : (s.modGrp i f).cnv = s.cnv := rfl
@[simp] theorem State.modGrp_stgs (i : Nat) (f : Grp → Grp) (s : State) : (s.modGrp i f).stgs = s.stgs := rfl
@[simp] theorem State.modGrp_phases (i : Nat) (f : Grp → Grp) (s : State) : (s.modGrp i f).phases = s.phases := rfl
@[simp] theorem State.modGrp_sca (i : Nat) (f : Grp → Grp) (s : State) : (s.modGrp i f).sca = s.sca := rfl
@[simp] theorem State.modGrp_pair (i : Nat) (f : Grp → Grp) (s : State) : (s.modGrp i f).pair = s.pair := rfl
@[simp] theorem State.modGrp_nv (i : Nat) (f : Grp → Grp) (s : State) : (s.modGrp i f).nv = s.nv := rfl
@[simp] theorem State.modGrp_fw (i : Nat) (f : Grp → Grp) (s : State) : (s.modGrp i f).fw = s.fw := rfl
@[simp] theorem State.modGrp_pwr (i : Nat) (f : Grp → Grp) (s : State) : (s.modGrp i f).pwr = s.pwr := rfl
@[simp] theorem State.modGrp_free (i : Nat) (f : Grp → Grp) (s : State) : (s.modGrp i f).free = s.free := rfl
@[simp] theorem State.modGrp_out (i : Nat) (f : Grp → Grp) (s : State) : (s.modGrp i f).out = s.out := rfl
@[simp] theorem State.modGrp_eng (i : Nat) (f : Grp → Grp) (s : State) (j : Nat) : (s.modGrp i f).eng j = s.eng j := rfl
@[simp] theorem State.modGrp_rail (i : Nat) (f : Grp → Grp) (s : State) (j : Nat) : (s.modGrp i f).rail j = s.rail j := rfl
@[simp] theorem State.modGrp_bank (i : Nat) (f : Grp → Grp) (s : State) (j : Nat) : (s.modGrp i f).bank j = s.bank j := rfl
@[simp] theorem State.modGrp_mdac (i : Nat) (f : Grp → Grp) (s : State) (j : Nat) : (s.modGrp i f).mdac j = s.mdac j := rfl
@[simp] theorem State.modGrp_watch (i : Nat) (f : Grp → Grp) (s : State) (j : Nat) : (s.modGrp i f).watch j = s.watch j := rfl
@[simp] theorem State.modGrp_stg (i : Nat) (f : Grp → Grp) (s : State) (j : Nat) : (s.modGrp i f).stg j = s.stg j := rfl
@[simp] theorem State.modGrp_phase (i : Nat) (f : Grp → Grp) (s : State) (j : Nat) : (s.modGrp i f).phase j = s.phase j := rfl
@[simp] theorem State.modGrp_ring (i : Nat) (f : Grp → Grp) (s : State) (j : Nat) : (s.modGrp i f).ring j = s.ring j := rfl
@[simp] theorem State.modGrp_vec (i : Nat) (f : Grp → Grp) (s : State) (j : Nat) : (s.modGrp i f).vec j = s.vec j := rfl
@[simp] theorem State.modGrp_prog (i : Nat) (f : Grp → Grp) (s : State) (j : Nat) : (s.modGrp i f).prog j = s.prog j := rfl
@[simp] theorem State.modGrp_grp (i : Nat) (f : Grp → Grp) (s : State) (j : Nat) : (s.modGrp i f).grp j = if j = i then f (s.grp i) else s.grp j := tget_tmod _ _ _ _ _
theorem State.modGrp_grp_same (i : Nat) (f : Grp → Grp) (s : State) : (s.modGrp i f).grp i = f (s.grp i) := tget_tmod_same _ _ _ _
@[simp] theorem State.modGrp_rect (i : Nat) (f : Grp → Grp) (s : State) (j : Nat) : (s.modGrp i f).rect j = s.rect j := rfl
@[simp] theorem State.modGrp_core (i : Nat) (f : Grp → Grp) (s : State) (j : Nat) : (s.modGrp i f).core j = s.core j := rfl
@[simp] theorem State.modGrp_ppair (i : Nat) (f : Grp → Grp) (s : State) (j : Nat) : (s.modGrp i f).ppair j = s.ppair j := rfl
@[simp] theorem State.modGrp_refm (i : Nat) (f : Grp → Grp) (s : State) (j : Nat) : (s.modGrp i f).refm j = s.refm j := rfl
@[simp] theorem State.modGrp_port (i : Nat) (f : Grp → Grp) (s : State) (j : Nat) : (s.modGrp i f).port j = s.port j := rfl
@[simp] theorem State.modGrp_rnode (i : Nat) (f : Grp → Grp) (s : State) (j : Nat) : (s.modGrp i f).rnode j = s.rnode j := rfl
@[simp] theorem State.modGrp_view (i : Nat) (f : Grp → Grp) (s : State) (j : Nat) : (s.modGrp i f).view j = s.view j := rfl
@[simp] theorem State.modGrp_cgrp (i : Nat) (f : Grp → Grp) (s : State) (j : Nat) : (s.modGrp i f).cgrp j = s.cgrp j := rfl
@[simp] theorem State.modGrp_cw (i : Nat) (f : Grp → Grp) (s : State) (k : Nat) : (s.modGrp i f).cw k = s.cw k := rfl
@[simp] theorem State.modGrp_cf (i : Nat) (f : Grp → Grp) (s : State) (k hi lo : Nat) : (s.modGrp i f).cf k hi lo = s.cf k hi lo := rfl
@[simp] theorem State.modGrp_cb (i : Nat) (f : Grp → Grp) (s : State) (k n : Nat) : (s.modGrp i f).cb k n = s.cb k n := rfl
@[simp] theorem State.modGrp_bw (i : Nat) (f : Grp → Grp) (s : State) (k : Nat) : (s.modGrp i f).bw k = s.bw k := rfl
@[simp] theorem State.modGrp_bf (i : Nat) (f : Grp → Grp) (s : State) (k hi lo : Nat) : (s.modGrp i f).bf k hi lo = s.bf k hi lo := rfl
@[simp] theorem State.modGrp_now (i : Nat) (f : Grp → Grp) (s : State) : (s.modGrp i f).now = s.now := rfl
@[simp] theorem State.modGrp_tsB (i : Nat) (f : Grp → Grp) (s : State) : (s.modGrp i f).tsB = s.tsB := rfl
@[simp] theorem State.modGrp_tickStart (i : Nat) (f : Grp → Grp) (s : State) : (s.modGrp i f).tickStart = s.tickStart := rfl
@[simp] theorem State.modGrp_tickNo (i : Nat) (f : Grp → Grp) (s : State) : (s.modGrp i f).tickNo = s.tickNo := rfl
@[simp] theorem State.modGrp_index (i : Nat) (f : Grp → Grp) (s : State) : (s.modGrp i f).index = s.index := rfl
@[simp] theorem State.modGrp_role (i : Nat) (f : Grp → Grp) (s : State) : (s.modGrp i f).role = s.role := rfl
@[simp] theorem State.modGrp_grail (i : Nat) (f : Grp → Grp) (s : State) (k : Nat) : (s.modGrp i f).grail k = s.grail k := rfl
@[simp] theorem State.modGrp_shadow (i : Nat) (f : Grp → Grp) (s : State) : (s.modGrp i f).shadow = s.shadow := rfl
@[simp] theorem State.modGrp_rcfg (i : Nat) (f : Grp → Grp) (s : State) (k : Nat) : (s.modGrp i f).rcfg k = s.rcfg k := rfl
@[simp] theorem State.modGrp_vioOk (i : Nat) (f : Grp → Grp) (s : State) (k : Nat) : (s.modGrp i f).vioOk k = s.vioOk k := rfl

/-! ## modRect -/

@[simp] theorem State.modRect_pending (i : Nat) (f : Rect → Rect) (s : State) : (s.modRect i f).pending = s.pending := rfl
@[simp] theorem State.modRect_clk (i : Nat) (f : Rect → Rect) (s : State) : (s.modRect i f).clk = s.clk := rfl
@[simp] theorem State.modRect_engs (i : Nat) (f : Rect → Rect) (s : State) : (s.modRect i f).engs = s.engs := rfl
@[simp] theorem State.modRect_ovrStat (i : Nat) (f : Rect → Rect) (s : State) : (s.modRect i f).ovrStat = s.ovrStat := rfl
@[simp] theorem State.modRect_ovrNow (i : Nat) (f : Rect → Rect) (s : State) : (s.modRect i f).ovrNow = s.ovrNow := rfl
@[simp] theorem State.modRect_wc (i : Nat) (f : Rect → Rect) (s : State) : (s.modRect i f).wc = s.wc := rfl
@[simp] theorem State.modRect_evt (i : Nat) (f : Rect → Rect) (s : State) : (s.modRect i f).evt = s.evt := rfl
@[simp] theorem State.modRect_jrn (i : Nat) (f : Rect → Rect) (s : State) : (s.modRect i f).jrn = s.jrn := rfl
@[simp] theorem State.modRect_hst (i : Nat) (f : Rect → Rect) (s : State) : (s.modRect i f).hst = s.hst := rfl
@[simp] theorem State.modRect_recd (i : Nat) (f : Rect → Rect) (s : State) : (s.modRect i f).recd = s.recd := rfl
@[simp] theorem State.modRect_bar0 (i : Nat) (f : Rect → Rect) (s : State) : (s.modRect i f).bar0 = s.bar0 := rfl
@[simp] theorem State.modRect_cfg (i : Nat) (f : Rect → Rect) (s : State) : (s.modRect i f).cfg = s.cfg := rfl
@[simp] theorem State.modRect_setup (i : Nat) (f : Rect → Rect) (s : State) : (s.modRect i f).setup = s.setup := rfl
@[simp] theorem State.modRect_coef (i : Nat) (f : Rect → Rect) (s : State) : (s.modRect i f).coef = s.coef := rfl
@[simp] theorem State.modRect_rails (i : Nat) (f : Rect → Rect) (s : State) : (s.modRect i f).rails = s.rails := rfl
@[simp] theorem State.modRect_banks (i : Nat) (f : Rect → Rect) (s : State) : (s.modRect i f).banks = s.banks := rfl
@[simp] theorem State.modRect_mdacs (i : Nat) (f : Rect → Rect) (s : State) : (s.modRect i f).mdacs = s.mdacs := rfl
@[simp] theorem State.modRect_pmb (i : Nat) (f : Rect → Rect) (s : State) : (s.modRect i f).pmb = s.pmb := rfl
@[simp] theorem State.modRect_watches (i : Nat) (f : Rect → Rect) (s : State) : (s.modRect i f).watches = s.watches := rfl
@[simp] theorem State.modRect_seq (i : Nat) (f : Rect → Rect) (s : State) : (s.modRect i f).seq = s.seq := rfl
@[simp] theorem State.modRect_off (i : Nat) (f : Rect → Rect) (s : State) : (s.modRect i f).off = s.off := rfl
@[simp] theorem State.modRect_flt (i : Nat) (f : Rect → Rect) (s : State) : (s.modRect i f).flt = s.flt := rfl
@[simp] theorem State.modRect_drt (i : Nat) (f : Rect → Rect) (s : State) : (s.modRect i f).drt = s.drt := rfl
@[simp] theorem State.modRect_dmp (i : Nat) (f : Rect → Rect) (s : State) : (s.modRect i f).dmp = s.dmp := rfl
@[simp] theorem State.modRect_inl (i : Nat) (f : Rect → Rect) (s : State) : (s.modRect i f).inl = s.inl := rfl
@[simp] theorem State.modRect_cnv (i : Nat) (f : Rect → Rect) (s : State) : (s.modRect i f).cnv = s.cnv := rfl
@[simp] theorem State.modRect_stgs (i : Nat) (f : Rect → Rect) (s : State) : (s.modRect i f).stgs = s.stgs := rfl
@[simp] theorem State.modRect_phases (i : Nat) (f : Rect → Rect) (s : State) : (s.modRect i f).phases = s.phases := rfl
@[simp] theorem State.modRect_sca (i : Nat) (f : Rect → Rect) (s : State) : (s.modRect i f).sca = s.sca := rfl
@[simp] theorem State.modRect_pair (i : Nat) (f : Rect → Rect) (s : State) : (s.modRect i f).pair = s.pair := rfl
@[simp] theorem State.modRect_nv (i : Nat) (f : Rect → Rect) (s : State) : (s.modRect i f).nv = s.nv := rfl
@[simp] theorem State.modRect_fw (i : Nat) (f : Rect → Rect) (s : State) : (s.modRect i f).fw = s.fw := rfl
@[simp] theorem State.modRect_pwr (i : Nat) (f : Rect → Rect) (s : State) : (s.modRect i f).pwr = s.pwr := rfl
@[simp] theorem State.modRect_free (i : Nat) (f : Rect → Rect) (s : State) : (s.modRect i f).free = s.free := rfl
@[simp] theorem State.modRect_out (i : Nat) (f : Rect → Rect) (s : State) : (s.modRect i f).out = s.out := rfl
@[simp] theorem State.modRect_eng (i : Nat) (f : Rect → Rect) (s : State) (j : Nat) : (s.modRect i f).eng j = s.eng j := rfl
@[simp] theorem State.modRect_rail (i : Nat) (f : Rect → Rect) (s : State) (j : Nat) : (s.modRect i f).rail j = s.rail j := rfl
@[simp] theorem State.modRect_bank (i : Nat) (f : Rect → Rect) (s : State) (j : Nat) : (s.modRect i f).bank j = s.bank j := rfl
@[simp] theorem State.modRect_mdac (i : Nat) (f : Rect → Rect) (s : State) (j : Nat) : (s.modRect i f).mdac j = s.mdac j := rfl
@[simp] theorem State.modRect_watch (i : Nat) (f : Rect → Rect) (s : State) (j : Nat) : (s.modRect i f).watch j = s.watch j := rfl
@[simp] theorem State.modRect_stg (i : Nat) (f : Rect → Rect) (s : State) (j : Nat) : (s.modRect i f).stg j = s.stg j := rfl
@[simp] theorem State.modRect_phase (i : Nat) (f : Rect → Rect) (s : State) (j : Nat) : (s.modRect i f).phase j = s.phase j := rfl
@[simp] theorem State.modRect_ring (i : Nat) (f : Rect → Rect) (s : State) (j : Nat) : (s.modRect i f).ring j = s.ring j := rfl
@[simp] theorem State.modRect_vec (i : Nat) (f : Rect → Rect) (s : State) (j : Nat) : (s.modRect i f).vec j = s.vec j := rfl
@[simp] theorem State.modRect_prog (i : Nat) (f : Rect → Rect) (s : State) (j : Nat) : (s.modRect i f).prog j = s.prog j := rfl
@[simp] theorem State.modRect_grp (i : Nat) (f : Rect → Rect) (s : State) (j : Nat) : (s.modRect i f).grp j = s.grp j := rfl
@[simp] theorem State.modRect_rect (i : Nat) (f : Rect → Rect) (s : State) (j : Nat) : (s.modRect i f).rect j = if j = i then f (s.rect i) else s.rect j := tget_tmod _ _ _ _ _
theorem State.modRect_rect_same (i : Nat) (f : Rect → Rect) (s : State) : (s.modRect i f).rect i = f (s.rect i) := tget_tmod_same _ _ _ _
@[simp] theorem State.modRect_core (i : Nat) (f : Rect → Rect) (s : State) (j : Nat) : (s.modRect i f).core j = s.core j := rfl
@[simp] theorem State.modRect_ppair (i : Nat) (f : Rect → Rect) (s : State) (j : Nat) : (s.modRect i f).ppair j = s.ppair j := rfl
@[simp] theorem State.modRect_refm (i : Nat) (f : Rect → Rect) (s : State) (j : Nat) : (s.modRect i f).refm j = s.refm j := rfl
@[simp] theorem State.modRect_port (i : Nat) (f : Rect → Rect) (s : State) (j : Nat) : (s.modRect i f).port j = s.port j := rfl
@[simp] theorem State.modRect_rnode (i : Nat) (f : Rect → Rect) (s : State) (j : Nat) : (s.modRect i f).rnode j = s.rnode j := rfl
@[simp] theorem State.modRect_view (i : Nat) (f : Rect → Rect) (s : State) (j : Nat) : (s.modRect i f).view j = s.view j := rfl
@[simp] theorem State.modRect_cgrp (i : Nat) (f : Rect → Rect) (s : State) (j : Nat) : (s.modRect i f).cgrp j = s.cgrp j := rfl
@[simp] theorem State.modRect_cw (i : Nat) (f : Rect → Rect) (s : State) (k : Nat) : (s.modRect i f).cw k = s.cw k := rfl
@[simp] theorem State.modRect_cf (i : Nat) (f : Rect → Rect) (s : State) (k hi lo : Nat) : (s.modRect i f).cf k hi lo = s.cf k hi lo := rfl
@[simp] theorem State.modRect_cb (i : Nat) (f : Rect → Rect) (s : State) (k n : Nat) : (s.modRect i f).cb k n = s.cb k n := rfl
@[simp] theorem State.modRect_bw (i : Nat) (f : Rect → Rect) (s : State) (k : Nat) : (s.modRect i f).bw k = s.bw k := rfl
@[simp] theorem State.modRect_bf (i : Nat) (f : Rect → Rect) (s : State) (k hi lo : Nat) : (s.modRect i f).bf k hi lo = s.bf k hi lo := rfl
@[simp] theorem State.modRect_now (i : Nat) (f : Rect → Rect) (s : State) : (s.modRect i f).now = s.now := rfl
@[simp] theorem State.modRect_tsB (i : Nat) (f : Rect → Rect) (s : State) : (s.modRect i f).tsB = s.tsB := rfl
@[simp] theorem State.modRect_tickStart (i : Nat) (f : Rect → Rect) (s : State) : (s.modRect i f).tickStart = s.tickStart := rfl
@[simp] theorem State.modRect_tickNo (i : Nat) (f : Rect → Rect) (s : State) : (s.modRect i f).tickNo = s.tickNo := rfl
@[simp] theorem State.modRect_index (i : Nat) (f : Rect → Rect) (s : State) : (s.modRect i f).index = s.index := rfl
@[simp] theorem State.modRect_role (i : Nat) (f : Rect → Rect) (s : State) : (s.modRect i f).role = s.role := rfl
@[simp] theorem State.modRect_grail (i : Nat) (f : Rect → Rect) (s : State) (k : Nat) : (s.modRect i f).grail k = s.grail k := rfl
@[simp] theorem State.modRect_shadow (i : Nat) (f : Rect → Rect) (s : State) : (s.modRect i f).shadow = s.shadow := rfl
@[simp] theorem State.modRect_rcfg (i : Nat) (f : Rect → Rect) (s : State) (k : Nat) : (s.modRect i f).rcfg k = s.rcfg k := rfl
@[simp] theorem State.modRect_vioOk (i : Nat) (f : Rect → Rect) (s : State) (k : Nat) : (s.modRect i f).vioOk k = s.vioOk k := rfl

/-! ## modCore -/

@[simp] theorem State.modCore_pending (i : Nat) (f : ACore → ACore) (s : State) : (s.modCore i f).pending = s.pending := rfl
@[simp] theorem State.modCore_clk (i : Nat) (f : ACore → ACore) (s : State) : (s.modCore i f).clk = s.clk := rfl
@[simp] theorem State.modCore_engs (i : Nat) (f : ACore → ACore) (s : State) : (s.modCore i f).engs = s.engs := rfl
@[simp] theorem State.modCore_ovrStat (i : Nat) (f : ACore → ACore) (s : State) : (s.modCore i f).ovrStat = s.ovrStat := rfl
@[simp] theorem State.modCore_ovrNow (i : Nat) (f : ACore → ACore) (s : State) : (s.modCore i f).ovrNow = s.ovrNow := rfl
@[simp] theorem State.modCore_wc (i : Nat) (f : ACore → ACore) (s : State) : (s.modCore i f).wc = s.wc := rfl
@[simp] theorem State.modCore_evt (i : Nat) (f : ACore → ACore) (s : State) : (s.modCore i f).evt = s.evt := rfl
@[simp] theorem State.modCore_jrn (i : Nat) (f : ACore → ACore) (s : State) : (s.modCore i f).jrn = s.jrn := rfl
@[simp] theorem State.modCore_hst (i : Nat) (f : ACore → ACore) (s : State) : (s.modCore i f).hst = s.hst := rfl
@[simp] theorem State.modCore_recd (i : Nat) (f : ACore → ACore) (s : State) : (s.modCore i f).recd = s.recd := rfl
@[simp] theorem State.modCore_bar0 (i : Nat) (f : ACore → ACore) (s : State) : (s.modCore i f).bar0 = s.bar0 := rfl
@[simp] theorem State.modCore_cfg (i : Nat) (f : ACore → ACore) (s : State) : (s.modCore i f).cfg = s.cfg := rfl
@[simp] theorem State.modCore_setup (i : Nat) (f : ACore → ACore) (s : State) : (s.modCore i f).setup = s.setup := rfl
@[simp] theorem State.modCore_coef (i : Nat) (f : ACore → ACore) (s : State) : (s.modCore i f).coef = s.coef := rfl
@[simp] theorem State.modCore_rails (i : Nat) (f : ACore → ACore) (s : State) : (s.modCore i f).rails = s.rails := rfl
@[simp] theorem State.modCore_banks (i : Nat) (f : ACore → ACore) (s : State) : (s.modCore i f).banks = s.banks := rfl
@[simp] theorem State.modCore_mdacs (i : Nat) (f : ACore → ACore) (s : State) : (s.modCore i f).mdacs = s.mdacs := rfl
@[simp] theorem State.modCore_pmb (i : Nat) (f : ACore → ACore) (s : State) : (s.modCore i f).pmb = s.pmb := rfl
@[simp] theorem State.modCore_watches (i : Nat) (f : ACore → ACore) (s : State) : (s.modCore i f).watches = s.watches := rfl
@[simp] theorem State.modCore_seq (i : Nat) (f : ACore → ACore) (s : State) : (s.modCore i f).seq = s.seq := rfl
@[simp] theorem State.modCore_off (i : Nat) (f : ACore → ACore) (s : State) : (s.modCore i f).off = s.off := rfl
@[simp] theorem State.modCore_flt (i : Nat) (f : ACore → ACore) (s : State) : (s.modCore i f).flt = s.flt := rfl
@[simp] theorem State.modCore_drt (i : Nat) (f : ACore → ACore) (s : State) : (s.modCore i f).drt = s.drt := rfl
@[simp] theorem State.modCore_dmp (i : Nat) (f : ACore → ACore) (s : State) : (s.modCore i f).dmp = s.dmp := rfl
@[simp] theorem State.modCore_shr (i : Nat) (f : ACore → ACore) (s : State) : (s.modCore i f).shr = s.shr := rfl
@[simp] theorem State.modCore_inl (i : Nat) (f : ACore → ACore) (s : State) : (s.modCore i f).inl = s.inl := rfl
@[simp] theorem State.modCore_stgs (i : Nat) (f : ACore → ACore) (s : State) : (s.modCore i f).stgs = s.stgs := rfl
@[simp] theorem State.modCore_phases (i : Nat) (f : ACore → ACore) (s : State) : (s.modCore i f).phases = s.phases := rfl
@[simp] theorem State.modCore_sca (i : Nat) (f : ACore → ACore) (s : State) : (s.modCore i f).sca = s.sca := rfl
@[simp] theorem State.modCore_pair (i : Nat) (f : ACore → ACore) (s : State) : (s.modCore i f).pair = s.pair := rfl
@[simp] theorem State.modCore_nv (i : Nat) (f : ACore → ACore) (s : State) : (s.modCore i f).nv = s.nv := rfl
@[simp] theorem State.modCore_fw (i : Nat) (f : ACore → ACore) (s : State) : (s.modCore i f).fw = s.fw := rfl
@[simp] theorem State.modCore_pwr (i : Nat) (f : ACore → ACore) (s : State) : (s.modCore i f).pwr = s.pwr := rfl
@[simp] theorem State.modCore_free (i : Nat) (f : ACore → ACore) (s : State) : (s.modCore i f).free = s.free := rfl
@[simp] theorem State.modCore_out (i : Nat) (f : ACore → ACore) (s : State) : (s.modCore i f).out = s.out := rfl
@[simp] theorem State.modCore_eng (i : Nat) (f : ACore → ACore) (s : State) (j : Nat) : (s.modCore i f).eng j = s.eng j := rfl
@[simp] theorem State.modCore_rail (i : Nat) (f : ACore → ACore) (s : State) (j : Nat) : (s.modCore i f).rail j = s.rail j := rfl
@[simp] theorem State.modCore_bank (i : Nat) (f : ACore → ACore) (s : State) (j : Nat) : (s.modCore i f).bank j = s.bank j := rfl
@[simp] theorem State.modCore_mdac (i : Nat) (f : ACore → ACore) (s : State) (j : Nat) : (s.modCore i f).mdac j = s.mdac j := rfl
@[simp] theorem State.modCore_watch (i : Nat) (f : ACore → ACore) (s : State) (j : Nat) : (s.modCore i f).watch j = s.watch j := rfl
@[simp] theorem State.modCore_stg (i : Nat) (f : ACore → ACore) (s : State) (j : Nat) : (s.modCore i f).stg j = s.stg j := rfl
@[simp] theorem State.modCore_phase (i : Nat) (f : ACore → ACore) (s : State) (j : Nat) : (s.modCore i f).phase j = s.phase j := rfl
@[simp] theorem State.modCore_ring (i : Nat) (f : ACore → ACore) (s : State) (j : Nat) : (s.modCore i f).ring j = s.ring j := rfl
@[simp] theorem State.modCore_vec (i : Nat) (f : ACore → ACore) (s : State) (j : Nat) : (s.modCore i f).vec j = s.vec j := rfl
@[simp] theorem State.modCore_prog (i : Nat) (f : ACore → ACore) (s : State) (j : Nat) : (s.modCore i f).prog j = s.prog j := rfl
@[simp] theorem State.modCore_grp (i : Nat) (f : ACore → ACore) (s : State) (j : Nat) : (s.modCore i f).grp j = s.grp j := rfl
@[simp] theorem State.modCore_rect (i : Nat) (f : ACore → ACore) (s : State) (j : Nat) : (s.modCore i f).rect j = s.rect j := rfl
@[simp] theorem State.modCore_core (i : Nat) (f : ACore → ACore) (s : State) (j : Nat) : (s.modCore i f).core j = if j = i then f (s.core i) else s.core j := tget_tmod _ _ _ _ _
theorem State.modCore_core_same (i : Nat) (f : ACore → ACore) (s : State) : (s.modCore i f).core i = f (s.core i) := tget_tmod_same _ _ _ _
@[simp] theorem State.modCore_ppair (i : Nat) (f : ACore → ACore) (s : State) (j : Nat) : (s.modCore i f).ppair j = s.ppair j := rfl
@[simp] theorem State.modCore_refm (i : Nat) (f : ACore → ACore) (s : State) (j : Nat) : (s.modCore i f).refm j = s.refm j := rfl
@[simp] theorem State.modCore_port (i : Nat) (f : ACore → ACore) (s : State) (j : Nat) : (s.modCore i f).port j = s.port j := rfl
@[simp] theorem State.modCore_rnode (i : Nat) (f : ACore → ACore) (s : State) (j : Nat) : (s.modCore i f).rnode j = s.rnode j := rfl
@[simp] theorem State.modCore_view (i : Nat) (f : ACore → ACore) (s : State) (j : Nat) : (s.modCore i f).view j = s.view j := rfl
@[simp] theorem State.modCore_cgrp (i : Nat) (f : ACore → ACore) (s : State) (j : Nat) : (s.modCore i f).cgrp j = s.cgrp j := rfl
@[simp] theorem State.modCore_cw (i : Nat) (f : ACore → ACore) (s : State) (k : Nat) : (s.modCore i f).cw k = s.cw k := rfl
@[simp] theorem State.modCore_cf (i : Nat) (f : ACore → ACore) (s : State) (k hi lo : Nat) : (s.modCore i f).cf k hi lo = s.cf k hi lo := rfl
@[simp] theorem State.modCore_cb (i : Nat) (f : ACore → ACore) (s : State) (k n : Nat) : (s.modCore i f).cb k n = s.cb k n := rfl
@[simp] theorem State.modCore_bw (i : Nat) (f : ACore → ACore) (s : State) (k : Nat) : (s.modCore i f).bw k = s.bw k := rfl
@[simp] theorem State.modCore_bf (i : Nat) (f : ACore → ACore) (s : State) (k hi lo : Nat) : (s.modCore i f).bf k hi lo = s.bf k hi lo := rfl
@[simp] theorem State.modCore_now (i : Nat) (f : ACore → ACore) (s : State) : (s.modCore i f).now = s.now := rfl
@[simp] theorem State.modCore_tsB (i : Nat) (f : ACore → ACore) (s : State) : (s.modCore i f).tsB = s.tsB := rfl
@[simp] theorem State.modCore_tickStart (i : Nat) (f : ACore → ACore) (s : State) : (s.modCore i f).tickStart = s.tickStart := rfl
@[simp] theorem State.modCore_tickNo (i : Nat) (f : ACore → ACore) (s : State) : (s.modCore i f).tickNo = s.tickNo := rfl
@[simp] theorem State.modCore_index (i : Nat) (f : ACore → ACore) (s : State) : (s.modCore i f).index = s.index := rfl
@[simp] theorem State.modCore_role (i : Nat) (f : ACore → ACore) (s : State) : (s.modCore i f).role = s.role := rfl
@[simp] theorem State.modCore_grail (i : Nat) (f : ACore → ACore) (s : State) (k : Nat) : (s.modCore i f).grail k = s.grail k := rfl
@[simp] theorem State.modCore_shadow (i : Nat) (f : ACore → ACore) (s : State) : (s.modCore i f).shadow = s.shadow := rfl
@[simp] theorem State.modCore_rcfg (i : Nat) (f : ACore → ACore) (s : State) (k : Nat) : (s.modCore i f).rcfg k = s.rcfg k := rfl
@[simp] theorem State.modCore_vioOk (i : Nat) (f : ACore → ACore) (s : State) (k : Nat) : (s.modCore i f).vioOk k = s.vioOk k := rfl

/-! ## modPpair -/

@[simp] theorem State.modPpair_pending (i : Nat) (f : PPair → PPair) (s : State) : (s.modPpair i f).pending = s.pending := rfl
@[simp] theorem State.modPpair_clk (i : Nat) (f : PPair → PPair) (s : State) : (s.modPpair i f).clk = s.clk := rfl
@[simp] theorem State.modPpair_engs (i : Nat) (f : PPair → PPair) (s : State) : (s.modPpair i f).engs = s.engs := rfl
@[simp] theorem State.modPpair_ovrStat (i : Nat) (f : PPair → PPair) (s : State) : (s.modPpair i f).ovrStat = s.ovrStat := rfl
@[simp] theorem State.modPpair_ovrNow (i : Nat) (f : PPair → PPair) (s : State) : (s.modPpair i f).ovrNow = s.ovrNow := rfl
@[simp] theorem State.modPpair_wc (i : Nat) (f : PPair → PPair) (s : State) : (s.modPpair i f).wc = s.wc := rfl
@[simp] theorem State.modPpair_evt (i : Nat) (f : PPair → PPair) (s : State) : (s.modPpair i f).evt = s.evt := rfl
@[simp] theorem State.modPpair_jrn (i : Nat) (f : PPair → PPair) (s : State) : (s.modPpair i f).jrn = s.jrn := rfl
@[simp] theorem State.modPpair_hst (i : Nat) (f : PPair → PPair) (s : State) : (s.modPpair i f).hst = s.hst := rfl
@[simp] theorem State.modPpair_recd (i : Nat) (f : PPair → PPair) (s : State) : (s.modPpair i f).recd = s.recd := rfl
@[simp] theorem State.modPpair_bar0 (i : Nat) (f : PPair → PPair) (s : State) : (s.modPpair i f).bar0 = s.bar0 := rfl
@[simp] theorem State.modPpair_cfg (i : Nat) (f : PPair → PPair) (s : State) : (s.modPpair i f).cfg = s.cfg := rfl
@[simp] theorem State.modPpair_setup (i : Nat) (f : PPair → PPair) (s : State) : (s.modPpair i f).setup = s.setup := rfl
@[simp] theorem State.modPpair_coef (i : Nat) (f : PPair → PPair) (s : State) : (s.modPpair i f).coef = s.coef := rfl
@[simp] theorem State.modPpair_rails (i : Nat) (f : PPair → PPair) (s : State) : (s.modPpair i f).rails = s.rails := rfl
@[simp] theorem State.modPpair_banks (i : Nat) (f : PPair → PPair) (s : State) : (s.modPpair i f).banks = s.banks := rfl
@[simp] theorem State.modPpair_mdacs (i : Nat) (f : PPair → PPair) (s : State) : (s.modPpair i f).mdacs = s.mdacs := rfl
@[simp] theorem State.modPpair_pmb (i : Nat) (f : PPair → PPair) (s : State) : (s.modPpair i f).pmb = s.pmb := rfl
@[simp] theorem State.modPpair_watches (i : Nat) (f : PPair → PPair) (s : State) : (s.modPpair i f).watches = s.watches := rfl
@[simp] theorem State.modPpair_seq (i : Nat) (f : PPair → PPair) (s : State) : (s.modPpair i f).seq = s.seq := rfl
@[simp] theorem State.modPpair_off (i : Nat) (f : PPair → PPair) (s : State) : (s.modPpair i f).off = s.off := rfl
@[simp] theorem State.modPpair_flt (i : Nat) (f : PPair → PPair) (s : State) : (s.modPpair i f).flt = s.flt := rfl
@[simp] theorem State.modPpair_drt (i : Nat) (f : PPair → PPair) (s : State) : (s.modPpair i f).drt = s.drt := rfl
@[simp] theorem State.modPpair_dmp (i : Nat) (f : PPair → PPair) (s : State) : (s.modPpair i f).dmp = s.dmp := rfl
@[simp] theorem State.modPpair_shr (i : Nat) (f : PPair → PPair) (s : State) : (s.modPpair i f).shr = s.shr := rfl
@[simp] theorem State.modPpair_inl (i : Nat) (f : PPair → PPair) (s : State) : (s.modPpair i f).inl = s.inl := rfl
@[simp] theorem State.modPpair_stgs (i : Nat) (f : PPair → PPair) (s : State) : (s.modPpair i f).stgs = s.stgs := rfl
@[simp] theorem State.modPpair_phases (i : Nat) (f : PPair → PPair) (s : State) : (s.modPpair i f).phases = s.phases := rfl
@[simp] theorem State.modPpair_sca (i : Nat) (f : PPair → PPair) (s : State) : (s.modPpair i f).sca = s.sca := rfl
@[simp] theorem State.modPpair_pair (i : Nat) (f : PPair → PPair) (s : State) : (s.modPpair i f).pair = s.pair := rfl
@[simp] theorem State.modPpair_nv (i : Nat) (f : PPair → PPair) (s : State) : (s.modPpair i f).nv = s.nv := rfl
@[simp] theorem State.modPpair_fw (i : Nat) (f : PPair → PPair) (s : State) : (s.modPpair i f).fw = s.fw := rfl
@[simp] theorem State.modPpair_pwr (i : Nat) (f : PPair → PPair) (s : State) : (s.modPpair i f).pwr = s.pwr := rfl
@[simp] theorem State.modPpair_free (i : Nat) (f : PPair → PPair) (s : State) : (s.modPpair i f).free = s.free := rfl
@[simp] theorem State.modPpair_out (i : Nat) (f : PPair → PPair) (s : State) : (s.modPpair i f).out = s.out := rfl
@[simp] theorem State.modPpair_eng (i : Nat) (f : PPair → PPair) (s : State) (j : Nat) : (s.modPpair i f).eng j = s.eng j := rfl
@[simp] theorem State.modPpair_rail (i : Nat) (f : PPair → PPair) (s : State) (j : Nat) : (s.modPpair i f).rail j = s.rail j := rfl
@[simp] theorem State.modPpair_bank (i : Nat) (f : PPair → PPair) (s : State) (j : Nat) : (s.modPpair i f).bank j = s.bank j := rfl
@[simp] theorem State.modPpair_mdac (i : Nat) (f : PPair → PPair) (s : State) (j : Nat) : (s.modPpair i f).mdac j = s.mdac j := rfl
@[simp] theorem State.modPpair_watch (i : Nat) (f : PPair → PPair) (s : State) (j : Nat) : (s.modPpair i f).watch j = s.watch j := rfl
@[simp] theorem State.modPpair_stg (i : Nat) (f : PPair → PPair) (s : State) (j : Nat) : (s.modPpair i f).stg j = s.stg j := rfl
@[simp] theorem State.modPpair_phase (i : Nat) (f : PPair → PPair) (s : State) (j : Nat) : (s.modPpair i f).phase j = s.phase j := rfl
@[simp] theorem State.modPpair_ring (i : Nat) (f : PPair → PPair) (s : State) (j : Nat) : (s.modPpair i f).ring j = s.ring j := rfl
@[simp] theorem State.modPpair_vec (i : Nat) (f : PPair → PPair) (s : State) (j : Nat) : (s.modPpair i f).vec j = s.vec j := rfl
@[simp] theorem State.modPpair_prog (i : Nat) (f : PPair → PPair) (s : State) (j : Nat) : (s.modPpair i f).prog j = s.prog j := rfl
@[simp] theorem State.modPpair_grp (i : Nat) (f : PPair → PPair) (s : State) (j : Nat) : (s.modPpair i f).grp j = s.grp j := rfl
@[simp] theorem State.modPpair_rect (i : Nat) (f : PPair → PPair) (s : State) (j : Nat) : (s.modPpair i f).rect j = s.rect j := rfl
@[simp] theorem State.modPpair_core (i : Nat) (f : PPair → PPair) (s : State) (j : Nat) : (s.modPpair i f).core j = s.core j := rfl
@[simp] theorem State.modPpair_ppair (i : Nat) (f : PPair → PPair) (s : State) (j : Nat) : (s.modPpair i f).ppair j = if j = i then f (s.ppair i) else s.ppair j := tget_tmod _ _ _ _ _
theorem State.modPpair_ppair_same (i : Nat) (f : PPair → PPair) (s : State) : (s.modPpair i f).ppair i = f (s.ppair i) := tget_tmod_same _ _ _ _
@[simp] theorem State.modPpair_refm (i : Nat) (f : PPair → PPair) (s : State) (j : Nat) : (s.modPpair i f).refm j = s.refm j := rfl
@[simp] theorem State.modPpair_port (i : Nat) (f : PPair → PPair) (s : State) (j : Nat) : (s.modPpair i f).port j = s.port j := rfl
@[simp] theorem State.modPpair_rnode (i : Nat) (f : PPair → PPair) (s : State) (j : Nat) : (s.modPpair i f).rnode j = s.rnode j := rfl
@[simp] theorem State.modPpair_view (i : Nat) (f : PPair → PPair) (s : State) (j : Nat) : (s.modPpair i f).view j = s.view j := rfl
@[simp] theorem State.modPpair_cgrp (i : Nat) (f : PPair → PPair) (s : State) (j : Nat) : (s.modPpair i f).cgrp j = s.cgrp j := rfl
@[simp] theorem State.modPpair_cw (i : Nat) (f : PPair → PPair) (s : State) (k : Nat) : (s.modPpair i f).cw k = s.cw k := rfl
@[simp] theorem State.modPpair_cf (i : Nat) (f : PPair → PPair) (s : State) (k hi lo : Nat) : (s.modPpair i f).cf k hi lo = s.cf k hi lo := rfl
@[simp] theorem State.modPpair_cb (i : Nat) (f : PPair → PPair) (s : State) (k n : Nat) : (s.modPpair i f).cb k n = s.cb k n := rfl
@[simp] theorem State.modPpair_bw (i : Nat) (f : PPair → PPair) (s : State) (k : Nat) : (s.modPpair i f).bw k = s.bw k := rfl
@[simp] theorem State.modPpair_bf (i : Nat) (f : PPair → PPair) (s : State) (k hi lo : Nat) : (s.modPpair i f).bf k hi lo = s.bf k hi lo := rfl
@[simp] theorem State.modPpair_now (i : Nat) (f : PPair → PPair) (s : State) : (s.modPpair i f).now = s.now := rfl
@[simp] theorem State.modPpair_tsB (i : Nat) (f : PPair → PPair) (s : State) : (s.modPpair i f).tsB = s.tsB := rfl
@[simp] theorem State.modPpair_tickStart (i : Nat) (f : PPair → PPair) (s : State) : (s.modPpair i f).tickStart = s.tickStart := rfl
@[simp] theorem State.modPpair_tickNo (i : Nat) (f : PPair → PPair) (s : State) : (s.modPpair i f).tickNo = s.tickNo := rfl
@[simp] theorem State.modPpair_index (i : Nat) (f : PPair → PPair) (s : State) : (s.modPpair i f).index = s.index := rfl
@[simp] theorem State.modPpair_role (i : Nat) (f : PPair → PPair) (s : State) : (s.modPpair i f).role = s.role := rfl
@[simp] theorem State.modPpair_grail (i : Nat) (f : PPair → PPair) (s : State) (k : Nat) : (s.modPpair i f).grail k = s.grail k := rfl
@[simp] theorem State.modPpair_shadow (i : Nat) (f : PPair → PPair) (s : State) : (s.modPpair i f).shadow = s.shadow := rfl
@[simp] theorem State.modPpair_rcfg (i : Nat) (f : PPair → PPair) (s : State) (k : Nat) : (s.modPpair i f).rcfg k = s.rcfg k := rfl
@[simp] theorem State.modPpair_vioOk (i : Nat) (f : PPair → PPair) (s : State) (k : Nat) : (s.modPpair i f).vioOk k = s.vioOk k := rfl

/-! ## modRefm -/

@[simp] theorem State.modRefm_pending (i : Nat) (f : RefMon → RefMon) (s : State) : (s.modRefm i f).pending = s.pending := rfl
@[simp] theorem State.modRefm_clk (i : Nat) (f : RefMon → RefMon) (s : State) : (s.modRefm i f).clk = s.clk := rfl
@[simp] theorem State.modRefm_engs (i : Nat) (f : RefMon → RefMon) (s : State) : (s.modRefm i f).engs = s.engs := rfl
@[simp] theorem State.modRefm_ovrStat (i : Nat) (f : RefMon → RefMon) (s : State) : (s.modRefm i f).ovrStat = s.ovrStat := rfl
@[simp] theorem State.modRefm_ovrNow (i : Nat) (f : RefMon → RefMon) (s : State) : (s.modRefm i f).ovrNow = s.ovrNow := rfl
@[simp] theorem State.modRefm_wc (i : Nat) (f : RefMon → RefMon) (s : State) : (s.modRefm i f).wc = s.wc := rfl
@[simp] theorem State.modRefm_evt (i : Nat) (f : RefMon → RefMon) (s : State) : (s.modRefm i f).evt = s.evt := rfl
@[simp] theorem State.modRefm_jrn (i : Nat) (f : RefMon → RefMon) (s : State) : (s.modRefm i f).jrn = s.jrn := rfl
@[simp] theorem State.modRefm_hst (i : Nat) (f : RefMon → RefMon) (s : State) : (s.modRefm i f).hst = s.hst := rfl
@[simp] theorem State.modRefm_recd (i : Nat) (f : RefMon → RefMon) (s : State) : (s.modRefm i f).recd = s.recd := rfl
@[simp] theorem State.modRefm_bar0 (i : Nat) (f : RefMon → RefMon) (s : State) : (s.modRefm i f).bar0 = s.bar0 := rfl
@[simp] theorem State.modRefm_cfg (i : Nat) (f : RefMon → RefMon) (s : State) : (s.modRefm i f).cfg = s.cfg := rfl
@[simp] theorem State.modRefm_setup (i : Nat) (f : RefMon → RefMon) (s : State) : (s.modRefm i f).setup = s.setup := rfl
@[simp] theorem State.modRefm_coef (i : Nat) (f : RefMon → RefMon) (s : State) : (s.modRefm i f).coef = s.coef := rfl
@[simp] theorem State.modRefm_rails (i : Nat) (f : RefMon → RefMon) (s : State) : (s.modRefm i f).rails = s.rails := rfl
@[simp] theorem State.modRefm_banks (i : Nat) (f : RefMon → RefMon) (s : State) : (s.modRefm i f).banks = s.banks := rfl
@[simp] theorem State.modRefm_mdacs (i : Nat) (f : RefMon → RefMon) (s : State) : (s.modRefm i f).mdacs = s.mdacs := rfl
@[simp] theorem State.modRefm_pmb (i : Nat) (f : RefMon → RefMon) (s : State) : (s.modRefm i f).pmb = s.pmb := rfl
@[simp] theorem State.modRefm_watches (i : Nat) (f : RefMon → RefMon) (s : State) : (s.modRefm i f).watches = s.watches := rfl
@[simp] theorem State.modRefm_seq (i : Nat) (f : RefMon → RefMon) (s : State) : (s.modRefm i f).seq = s.seq := rfl
@[simp] theorem State.modRefm_off (i : Nat) (f : RefMon → RefMon) (s : State) : (s.modRefm i f).off = s.off := rfl
@[simp] theorem State.modRefm_flt (i : Nat) (f : RefMon → RefMon) (s : State) : (s.modRefm i f).flt = s.flt := rfl
@[simp] theorem State.modRefm_drt (i : Nat) (f : RefMon → RefMon) (s : State) : (s.modRefm i f).drt = s.drt := rfl
@[simp] theorem State.modRefm_dmp (i : Nat) (f : RefMon → RefMon) (s : State) : (s.modRefm i f).dmp = s.dmp := rfl
@[simp] theorem State.modRefm_shr (i : Nat) (f : RefMon → RefMon) (s : State) : (s.modRefm i f).shr = s.shr := rfl
@[simp] theorem State.modRefm_inl (i : Nat) (f : RefMon → RefMon) (s : State) : (s.modRefm i f).inl = s.inl := rfl
@[simp] theorem State.modRefm_stgs (i : Nat) (f : RefMon → RefMon) (s : State) : (s.modRefm i f).stgs = s.stgs := rfl
@[simp] theorem State.modRefm_phases (i : Nat) (f : RefMon → RefMon) (s : State) : (s.modRefm i f).phases = s.phases := rfl
@[simp] theorem State.modRefm_sca (i : Nat) (f : RefMon → RefMon) (s : State) : (s.modRefm i f).sca = s.sca := rfl
@[simp] theorem State.modRefm_pair (i : Nat) (f : RefMon → RefMon) (s : State) : (s.modRefm i f).pair = s.pair := rfl
@[simp] theorem State.modRefm_nv (i : Nat) (f : RefMon → RefMon) (s : State) : (s.modRefm i f).nv = s.nv := rfl
@[simp] theorem State.modRefm_fw (i : Nat) (f : RefMon → RefMon) (s : State) : (s.modRefm i f).fw = s.fw := rfl
@[simp] theorem State.modRefm_pwr (i : Nat) (f : RefMon → RefMon) (s : State) : (s.modRefm i f).pwr = s.pwr := rfl
@[simp] theorem State.modRefm_free (i : Nat) (f : RefMon → RefMon) (s : State) : (s.modRefm i f).free = s.free := rfl
@[simp] theorem State.modRefm_out (i : Nat) (f : RefMon → RefMon) (s : State) : (s.modRefm i f).out = s.out := rfl
@[simp] theorem State.modRefm_eng (i : Nat) (f : RefMon → RefMon) (s : State) (j : Nat) : (s.modRefm i f).eng j = s.eng j := rfl
@[simp] theorem State.modRefm_rail (i : Nat) (f : RefMon → RefMon) (s : State) (j : Nat) : (s.modRefm i f).rail j = s.rail j := rfl
@[simp] theorem State.modRefm_bank (i : Nat) (f : RefMon → RefMon) (s : State) (j : Nat) : (s.modRefm i f).bank j = s.bank j := rfl
@[simp] theorem State.modRefm_mdac (i : Nat) (f : RefMon → RefMon) (s : State) (j : Nat) : (s.modRefm i f).mdac j = s.mdac j := rfl
@[simp] theorem State.modRefm_watch (i : Nat) (f : RefMon → RefMon) (s : State) (j : Nat) : (s.modRefm i f).watch j = s.watch j := rfl
@[simp] theorem State.modRefm_stg (i : Nat) (f : RefMon → RefMon) (s : State) (j : Nat) : (s.modRefm i f).stg j = s.stg j := rfl
@[simp] theorem State.modRefm_phase (i : Nat) (f : RefMon → RefMon) (s : State) (j : Nat) : (s.modRefm i f).phase j = s.phase j := rfl
@[simp] theorem State.modRefm_ring (i : Nat) (f : RefMon → RefMon) (s : State) (j : Nat) : (s.modRefm i f).ring j = s.ring j := rfl
@[simp] theorem State.modRefm_vec (i : Nat) (f : RefMon → RefMon) (s : State) (j : Nat) : (s.modRefm i f).vec j = s.vec j := rfl
@[simp] theorem State.modRefm_prog (i : Nat) (f : RefMon → RefMon) (s : State) (j : Nat) : (s.modRefm i f).prog j = s.prog j := rfl
@[simp] theorem State.modRefm_grp (i : Nat) (f : RefMon → RefMon) (s : State) (j : Nat) : (s.modRefm i f).grp j = s.grp j := rfl
@[simp] theorem State.modRefm_rect (i : Nat) (f : RefMon → RefMon) (s : State) (j : Nat) : (s.modRefm i f).rect j = s.rect j := rfl
@[simp] theorem State.modRefm_core (i : Nat) (f : RefMon → RefMon) (s : State) (j : Nat) : (s.modRefm i f).core j = s.core j := rfl
@[simp] theorem State.modRefm_ppair (i : Nat) (f : RefMon → RefMon) (s : State) (j : Nat) : (s.modRefm i f).ppair j = s.ppair j := rfl
@[simp] theorem State.modRefm_refm (i : Nat) (f : RefMon → RefMon) (s : State) (j : Nat) : (s.modRefm i f).refm j = if j = i then f (s.refm i) else s.refm j := tget_tmod _ _ _ _ _
theorem State.modRefm_refm_same (i : Nat) (f : RefMon → RefMon) (s : State) : (s.modRefm i f).refm i = f (s.refm i) := tget_tmod_same _ _ _ _
@[simp] theorem State.modRefm_port (i : Nat) (f : RefMon → RefMon) (s : State) (j : Nat) : (s.modRefm i f).port j = s.port j := rfl
@[simp] theorem State.modRefm_rnode (i : Nat) (f : RefMon → RefMon) (s : State) (j : Nat) : (s.modRefm i f).rnode j = s.rnode j := rfl
@[simp] theorem State.modRefm_view (i : Nat) (f : RefMon → RefMon) (s : State) (j : Nat) : (s.modRefm i f).view j = s.view j := rfl
@[simp] theorem State.modRefm_cgrp (i : Nat) (f : RefMon → RefMon) (s : State) (j : Nat) : (s.modRefm i f).cgrp j = s.cgrp j := rfl
@[simp] theorem State.modRefm_cw (i : Nat) (f : RefMon → RefMon) (s : State) (k : Nat) : (s.modRefm i f).cw k = s.cw k := rfl
@[simp] theorem State.modRefm_cf (i : Nat) (f : RefMon → RefMon) (s : State) (k hi lo : Nat) : (s.modRefm i f).cf k hi lo = s.cf k hi lo := rfl
@[simp] theorem State.modRefm_cb (i : Nat) (f : RefMon → RefMon) (s : State) (k n : Nat) : (s.modRefm i f).cb k n = s.cb k n := rfl
@[simp] theorem State.modRefm_bw (i : Nat) (f : RefMon → RefMon) (s : State) (k : Nat) : (s.modRefm i f).bw k = s.bw k := rfl
@[simp] theorem State.modRefm_bf (i : Nat) (f : RefMon → RefMon) (s : State) (k hi lo : Nat) : (s.modRefm i f).bf k hi lo = s.bf k hi lo := rfl
@[simp] theorem State.modRefm_now (i : Nat) (f : RefMon → RefMon) (s : State) : (s.modRefm i f).now = s.now := rfl
@[simp] theorem State.modRefm_tsB (i : Nat) (f : RefMon → RefMon) (s : State) : (s.modRefm i f).tsB = s.tsB := rfl
@[simp] theorem State.modRefm_tickStart (i : Nat) (f : RefMon → RefMon) (s : State) : (s.modRefm i f).tickStart = s.tickStart := rfl
@[simp] theorem State.modRefm_tickNo (i : Nat) (f : RefMon → RefMon) (s : State) : (s.modRefm i f).tickNo = s.tickNo := rfl
@[simp] theorem State.modRefm_index (i : Nat) (f : RefMon → RefMon) (s : State) : (s.modRefm i f).index = s.index := rfl
@[simp] theorem State.modRefm_role (i : Nat) (f : RefMon → RefMon) (s : State) : (s.modRefm i f).role = s.role := rfl
@[simp] theorem State.modRefm_grail (i : Nat) (f : RefMon → RefMon) (s : State) (k : Nat) : (s.modRefm i f).grail k = s.grail k := rfl
@[simp] theorem State.modRefm_shadow (i : Nat) (f : RefMon → RefMon) (s : State) : (s.modRefm i f).shadow = s.shadow := rfl
@[simp] theorem State.modRefm_rcfg (i : Nat) (f : RefMon → RefMon) (s : State) (k : Nat) : (s.modRefm i f).rcfg k = s.rcfg k := rfl
@[simp] theorem State.modRefm_vioOk (i : Nat) (f : RefMon → RefMon) (s : State) (k : Nat) : (s.modRefm i f).vioOk k = s.vioOk k := rfl

/-! ## modPort -/

@[simp] theorem State.modPort_pending (i : Nat) (f : Port → Port) (s : State) : (s.modPort i f).pending = s.pending := rfl
@[simp] theorem State.modPort_clk (i : Nat) (f : Port → Port) (s : State) : (s.modPort i f).clk = s.clk := rfl
@[simp] theorem State.modPort_engs (i : Nat) (f : Port → Port) (s : State) : (s.modPort i f).engs = s.engs := rfl
@[simp] theorem State.modPort_ovrStat (i : Nat) (f : Port → Port) (s : State) : (s.modPort i f).ovrStat = s.ovrStat := rfl
@[simp] theorem State.modPort_ovrNow (i : Nat) (f : Port → Port) (s : State) : (s.modPort i f).ovrNow = s.ovrNow := rfl
@[simp] theorem State.modPort_wc (i : Nat) (f : Port → Port) (s : State) : (s.modPort i f).wc = s.wc := rfl
@[simp] theorem State.modPort_evt (i : Nat) (f : Port → Port) (s : State) : (s.modPort i f).evt = s.evt := rfl
@[simp] theorem State.modPort_jrn (i : Nat) (f : Port → Port) (s : State) : (s.modPort i f).jrn = s.jrn := rfl
@[simp] theorem State.modPort_hst (i : Nat) (f : Port → Port) (s : State) : (s.modPort i f).hst = s.hst := rfl
@[simp] theorem State.modPort_recd (i : Nat) (f : Port → Port) (s : State) : (s.modPort i f).recd = s.recd := rfl
@[simp] theorem State.modPort_bar0 (i : Nat) (f : Port → Port) (s : State) : (s.modPort i f).bar0 = s.bar0 := rfl
@[simp] theorem State.modPort_cfg (i : Nat) (f : Port → Port) (s : State) : (s.modPort i f).cfg = s.cfg := rfl
@[simp] theorem State.modPort_setup (i : Nat) (f : Port → Port) (s : State) : (s.modPort i f).setup = s.setup := rfl
@[simp] theorem State.modPort_coef (i : Nat) (f : Port → Port) (s : State) : (s.modPort i f).coef = s.coef := rfl
@[simp] theorem State.modPort_rails (i : Nat) (f : Port → Port) (s : State) : (s.modPort i f).rails = s.rails := rfl
@[simp] theorem State.modPort_banks (i : Nat) (f : Port → Port) (s : State) : (s.modPort i f).banks = s.banks := rfl
@[simp] theorem State.modPort_mdacs (i : Nat) (f : Port → Port) (s : State) : (s.modPort i f).mdacs = s.mdacs := rfl
@[simp] theorem State.modPort_pmb (i : Nat) (f : Port → Port) (s : State) : (s.modPort i f).pmb = s.pmb := rfl
@[simp] theorem State.modPort_watches (i : Nat) (f : Port → Port) (s : State) : (s.modPort i f).watches = s.watches := rfl
@[simp] theorem State.modPort_seq (i : Nat) (f : Port → Port) (s : State) : (s.modPort i f).seq = s.seq := rfl
@[simp] theorem State.modPort_off (i : Nat) (f : Port → Port) (s : State) : (s.modPort i f).off = s.off := rfl
@[simp] theorem State.modPort_flt (i : Nat) (f : Port → Port) (s : State) : (s.modPort i f).flt = s.flt := rfl
@[simp] theorem State.modPort_drt (i : Nat) (f : Port → Port) (s : State) : (s.modPort i f).drt = s.drt := rfl
@[simp] theorem State.modPort_dmp (i : Nat) (f : Port → Port) (s : State) : (s.modPort i f).dmp = s.dmp := rfl
@[simp] theorem State.modPort_shr (i : Nat) (f : Port → Port) (s : State) : (s.modPort i f).shr = s.shr := rfl
@[simp] theorem State.modPort_inl (i : Nat) (f : Port → Port) (s : State) : (s.modPort i f).inl = s.inl := rfl
@[simp] theorem State.modPort_cnv (i : Nat) (f : Port → Port) (s : State) : (s.modPort i f).cnv = s.cnv := rfl
@[simp] theorem State.modPort_stgs (i : Nat) (f : Port → Port) (s : State) : (s.modPort i f).stgs = s.stgs := rfl
@[simp] theorem State.modPort_phases (i : Nat) (f : Port → Port) (s : State) : (s.modPort i f).phases = s.phases := rfl
@[simp] theorem State.modPort_pair (i : Nat) (f : Port → Port) (s : State) : (s.modPort i f).pair = s.pair := rfl
@[simp] theorem State.modPort_nv (i : Nat) (f : Port → Port) (s : State) : (s.modPort i f).nv = s.nv := rfl
@[simp] theorem State.modPort_fw (i : Nat) (f : Port → Port) (s : State) : (s.modPort i f).fw = s.fw := rfl
@[simp] theorem State.modPort_pwr (i : Nat) (f : Port → Port) (s : State) : (s.modPort i f).pwr = s.pwr := rfl
@[simp] theorem State.modPort_free (i : Nat) (f : Port → Port) (s : State) : (s.modPort i f).free = s.free := rfl
@[simp] theorem State.modPort_out (i : Nat) (f : Port → Port) (s : State) : (s.modPort i f).out = s.out := rfl
@[simp] theorem State.modPort_eng (i : Nat) (f : Port → Port) (s : State) (j : Nat) : (s.modPort i f).eng j = s.eng j := rfl
@[simp] theorem State.modPort_rail (i : Nat) (f : Port → Port) (s : State) (j : Nat) : (s.modPort i f).rail j = s.rail j := rfl
@[simp] theorem State.modPort_bank (i : Nat) (f : Port → Port) (s : State) (j : Nat) : (s.modPort i f).bank j = s.bank j := rfl
@[simp] theorem State.modPort_mdac (i : Nat) (f : Port → Port) (s : State) (j : Nat) : (s.modPort i f).mdac j = s.mdac j := rfl
@[simp] theorem State.modPort_watch (i : Nat) (f : Port → Port) (s : State) (j : Nat) : (s.modPort i f).watch j = s.watch j := rfl
@[simp] theorem State.modPort_stg (i : Nat) (f : Port → Port) (s : State) (j : Nat) : (s.modPort i f).stg j = s.stg j := rfl
@[simp] theorem State.modPort_phase (i : Nat) (f : Port → Port) (s : State) (j : Nat) : (s.modPort i f).phase j = s.phase j := rfl
@[simp] theorem State.modPort_ring (i : Nat) (f : Port → Port) (s : State) (j : Nat) : (s.modPort i f).ring j = s.ring j := rfl
@[simp] theorem State.modPort_vec (i : Nat) (f : Port → Port) (s : State) (j : Nat) : (s.modPort i f).vec j = s.vec j := rfl
@[simp] theorem State.modPort_prog (i : Nat) (f : Port → Port) (s : State) (j : Nat) : (s.modPort i f).prog j = s.prog j := rfl
@[simp] theorem State.modPort_grp (i : Nat) (f : Port → Port) (s : State) (j : Nat) : (s.modPort i f).grp j = s.grp j := rfl
@[simp] theorem State.modPort_rect (i : Nat) (f : Port → Port) (s : State) (j : Nat) : (s.modPort i f).rect j = s.rect j := rfl
@[simp] theorem State.modPort_core (i : Nat) (f : Port → Port) (s : State) (j : Nat) : (s.modPort i f).core j = s.core j := rfl
@[simp] theorem State.modPort_ppair (i : Nat) (f : Port → Port) (s : State) (j : Nat) : (s.modPort i f).ppair j = s.ppair j := rfl
@[simp] theorem State.modPort_refm (i : Nat) (f : Port → Port) (s : State) (j : Nat) : (s.modPort i f).refm j = s.refm j := rfl
@[simp] theorem State.modPort_port (i : Nat) (f : Port → Port) (s : State) (j : Nat) : (s.modPort i f).port j = if j = i then f (s.port i) else s.port j := tget_tmod _ _ _ _ _
theorem State.modPort_port_same (i : Nat) (f : Port → Port) (s : State) : (s.modPort i f).port i = f (s.port i) := tget_tmod_same _ _ _ _
@[simp] theorem State.modPort_rnode (i : Nat) (f : Port → Port) (s : State) (j : Nat) : (s.modPort i f).rnode j = s.rnode j := rfl
@[simp] theorem State.modPort_view (i : Nat) (f : Port → Port) (s : State) (j : Nat) : (s.modPort i f).view j = s.view j := rfl
@[simp] theorem State.modPort_cgrp (i : Nat) (f : Port → Port) (s : State) (j : Nat) : (s.modPort i f).cgrp j = s.cgrp j := rfl
@[simp] theorem State.modPort_cw (i : Nat) (f : Port → Port) (s : State) (k : Nat) : (s.modPort i f).cw k = s.cw k := rfl
@[simp] theorem State.modPort_cf (i : Nat) (f : Port → Port) (s : State) (k hi lo : Nat) : (s.modPort i f).cf k hi lo = s.cf k hi lo := rfl
@[simp] theorem State.modPort_cb (i : Nat) (f : Port → Port) (s : State) (k n : Nat) : (s.modPort i f).cb k n = s.cb k n := rfl
@[simp] theorem State.modPort_bw (i : Nat) (f : Port → Port) (s : State) (k : Nat) : (s.modPort i f).bw k = s.bw k := rfl
@[simp] theorem State.modPort_bf (i : Nat) (f : Port → Port) (s : State) (k hi lo : Nat) : (s.modPort i f).bf k hi lo = s.bf k hi lo := rfl
@[simp] theorem State.modPort_now (i : Nat) (f : Port → Port) (s : State) : (s.modPort i f).now = s.now := rfl
@[simp] theorem State.modPort_tsB (i : Nat) (f : Port → Port) (s : State) : (s.modPort i f).tsB = s.tsB := rfl
@[simp] theorem State.modPort_tickStart (i : Nat) (f : Port → Port) (s : State) : (s.modPort i f).tickStart = s.tickStart := rfl
@[simp] theorem State.modPort_tickNo (i : Nat) (f : Port → Port) (s : State) : (s.modPort i f).tickNo = s.tickNo := rfl
@[simp] theorem State.modPort_index (i : Nat) (f : Port → Port) (s : State) : (s.modPort i f).index = s.index := rfl
@[simp] theorem State.modPort_grail (i : Nat) (f : Port → Port) (s : State) (k : Nat) : (s.modPort i f).grail k = s.grail k := rfl
@[simp] theorem State.modPort_shadow (i : Nat) (f : Port → Port) (s : State) : (s.modPort i f).shadow = s.shadow := rfl
@[simp] theorem State.modPort_rcfg (i : Nat) (f : Port → Port) (s : State) (k : Nat) : (s.modPort i f).rcfg k = s.rcfg k := rfl
@[simp] theorem State.modPort_vioOk (i : Nat) (f : Port → Port) (s : State) (k : Nat) : (s.modPort i f).vioOk k = s.vioOk k := rfl

/-! ## modRnode -/

@[simp] theorem State.modRnode_pending (i : Nat) (f : RNode → RNode) (s : State) : (s.modRnode i f).pending = s.pending := rfl
@[simp] theorem State.modRnode_clk (i : Nat) (f : RNode → RNode) (s : State) : (s.modRnode i f).clk = s.clk := rfl
@[simp] theorem State.modRnode_engs (i : Nat) (f : RNode → RNode) (s : State) : (s.modRnode i f).engs = s.engs := rfl
@[simp] theorem State.modRnode_ovrStat (i : Nat) (f : RNode → RNode) (s : State) : (s.modRnode i f).ovrStat = s.ovrStat := rfl
@[simp] theorem State.modRnode_ovrNow (i : Nat) (f : RNode → RNode) (s : State) : (s.modRnode i f).ovrNow = s.ovrNow := rfl
@[simp] theorem State.modRnode_wc (i : Nat) (f : RNode → RNode) (s : State) : (s.modRnode i f).wc = s.wc := rfl
@[simp] theorem State.modRnode_evt (i : Nat) (f : RNode → RNode) (s : State) : (s.modRnode i f).evt = s.evt := rfl
@[simp] theorem State.modRnode_jrn (i : Nat) (f : RNode → RNode) (s : State) : (s.modRnode i f).jrn = s.jrn := rfl
@[simp] theorem State.modRnode_hst (i : Nat) (f : RNode → RNode) (s : State) : (s.modRnode i f).hst = s.hst := rfl
@[simp] theorem State.modRnode_recd (i : Nat) (f : RNode → RNode) (s : State) : (s.modRnode i f).recd = s.recd := rfl
@[simp] theorem State.modRnode_bar0 (i : Nat) (f : RNode → RNode) (s : State) : (s.modRnode i f).bar0 = s.bar0 := rfl
@[simp] theorem State.modRnode_cfg (i : Nat) (f : RNode → RNode) (s : State) : (s.modRnode i f).cfg = s.cfg := rfl
@[simp] theorem State.modRnode_setup (i : Nat) (f : RNode → RNode) (s : State) : (s.modRnode i f).setup = s.setup := rfl
@[simp] theorem State.modRnode_coef (i : Nat) (f : RNode → RNode) (s : State) : (s.modRnode i f).coef = s.coef := rfl
@[simp] theorem State.modRnode_rails (i : Nat) (f : RNode → RNode) (s : State) : (s.modRnode i f).rails = s.rails := rfl
@[simp] theorem State.modRnode_banks (i : Nat) (f : RNode → RNode) (s : State) : (s.modRnode i f).banks = s.banks := rfl
@[simp] theorem State.modRnode_mdacs (i : Nat) (f : RNode → RNode) (s : State) : (s.modRnode i f).mdacs = s.mdacs := rfl
@[simp] theorem State.modRnode_pmb (i : Nat) (f : RNode → RNode) (s : State) : (s.modRnode i f).pmb = s.pmb := rfl
@[simp] theorem State.modRnode_watches (i : Nat) (f : RNode → RNode) (s : State) : (s.modRnode i f).watches = s.watches := rfl
@[simp] theorem State.modRnode_seq (i : Nat) (f : RNode → RNode) (s : State) : (s.modRnode i f).seq = s.seq := rfl
@[simp] theorem State.modRnode_off (i : Nat) (f : RNode → RNode) (s : State) : (s.modRnode i f).off = s.off := rfl
@[simp] theorem State.modRnode_flt (i : Nat) (f : RNode → RNode) (s : State) : (s.modRnode i f).flt = s.flt := rfl
@[simp] theorem State.modRnode_drt (i : Nat) (f : RNode → RNode) (s : State) : (s.modRnode i f).drt = s.drt := rfl
@[simp] theorem State.modRnode_dmp (i : Nat) (f : RNode → RNode) (s : State) : (s.modRnode i f).dmp = s.dmp := rfl
@[simp] theorem State.modRnode_shr (i : Nat) (f : RNode → RNode) (s : State) : (s.modRnode i f).shr = s.shr := rfl
@[simp] theorem State.modRnode_inl (i : Nat) (f : RNode → RNode) (s : State) : (s.modRnode i f).inl = s.inl := rfl
@[simp] theorem State.modRnode_cnv (i : Nat) (f : RNode → RNode) (s : State) : (s.modRnode i f).cnv = s.cnv := rfl
@[simp] theorem State.modRnode_stgs (i : Nat) (f : RNode → RNode) (s : State) : (s.modRnode i f).stgs = s.stgs := rfl
@[simp] theorem State.modRnode_phases (i : Nat) (f : RNode → RNode) (s : State) : (s.modRnode i f).phases = s.phases := rfl
@[simp] theorem State.modRnode_pair (i : Nat) (f : RNode → RNode) (s : State) : (s.modRnode i f).pair = s.pair := rfl
@[simp] theorem State.modRnode_nv (i : Nat) (f : RNode → RNode) (s : State) : (s.modRnode i f).nv = s.nv := rfl
@[simp] theorem State.modRnode_fw (i : Nat) (f : RNode → RNode) (s : State) : (s.modRnode i f).fw = s.fw := rfl
@[simp] theorem State.modRnode_pwr (i : Nat) (f : RNode → RNode) (s : State) : (s.modRnode i f).pwr = s.pwr := rfl
@[simp] theorem State.modRnode_free (i : Nat) (f : RNode → RNode) (s : State) : (s.modRnode i f).free = s.free := rfl
@[simp] theorem State.modRnode_out (i : Nat) (f : RNode → RNode) (s : State) : (s.modRnode i f).out = s.out := rfl
@[simp] theorem State.modRnode_eng (i : Nat) (f : RNode → RNode) (s : State) (j : Nat) : (s.modRnode i f).eng j = s.eng j := rfl
@[simp] theorem State.modRnode_rail (i : Nat) (f : RNode → RNode) (s : State) (j : Nat) : (s.modRnode i f).rail j = s.rail j := rfl
@[simp] theorem State.modRnode_bank (i : Nat) (f : RNode → RNode) (s : State) (j : Nat) : (s.modRnode i f).bank j = s.bank j := rfl
@[simp] theorem State.modRnode_mdac (i : Nat) (f : RNode → RNode) (s : State) (j : Nat) : (s.modRnode i f).mdac j = s.mdac j := rfl
@[simp] theorem State.modRnode_watch (i : Nat) (f : RNode → RNode) (s : State) (j : Nat) : (s.modRnode i f).watch j = s.watch j := rfl
@[simp] theorem State.modRnode_stg (i : Nat) (f : RNode → RNode) (s : State) (j : Nat) : (s.modRnode i f).stg j = s.stg j := rfl
@[simp] theorem State.modRnode_phase (i : Nat) (f : RNode → RNode) (s : State) (j : Nat) : (s.modRnode i f).phase j = s.phase j := rfl
@[simp] theorem State.modRnode_ring (i : Nat) (f : RNode → RNode) (s : State) (j : Nat) : (s.modRnode i f).ring j = s.ring j := rfl
@[simp] theorem State.modRnode_vec (i : Nat) (f : RNode → RNode) (s : State) (j : Nat) : (s.modRnode i f).vec j = s.vec j := rfl
@[simp] theorem State.modRnode_prog (i : Nat) (f : RNode → RNode) (s : State) (j : Nat) : (s.modRnode i f).prog j = s.prog j := rfl
@[simp] theorem State.modRnode_grp (i : Nat) (f : RNode → RNode) (s : State) (j : Nat) : (s.modRnode i f).grp j = s.grp j := rfl
@[simp] theorem State.modRnode_rect (i : Nat) (f : RNode → RNode) (s : State) (j : Nat) : (s.modRnode i f).rect j = s.rect j := rfl
@[simp] theorem State.modRnode_core (i : Nat) (f : RNode → RNode) (s : State) (j : Nat) : (s.modRnode i f).core j = s.core j := rfl
@[simp] theorem State.modRnode_ppair (i : Nat) (f : RNode → RNode) (s : State) (j : Nat) : (s.modRnode i f).ppair j = s.ppair j := rfl
@[simp] theorem State.modRnode_refm (i : Nat) (f : RNode → RNode) (s : State) (j : Nat) : (s.modRnode i f).refm j = s.refm j := rfl
@[simp] theorem State.modRnode_port (i : Nat) (f : RNode → RNode) (s : State) (j : Nat) : (s.modRnode i f).port j = s.port j := rfl
@[simp] theorem State.modRnode_rnode (i : Nat) (f : RNode → RNode) (s : State) (j : Nat) : (s.modRnode i f).rnode j = if j = i then f (s.rnode i) else s.rnode j := tget_tmod _ _ _ _ _
theorem State.modRnode_rnode_same (i : Nat) (f : RNode → RNode) (s : State) : (s.modRnode i f).rnode i = f (s.rnode i) := tget_tmod_same _ _ _ _
@[simp] theorem State.modRnode_view (i : Nat) (f : RNode → RNode) (s : State) (j : Nat) : (s.modRnode i f).view j = s.view j := rfl
@[simp] theorem State.modRnode_cgrp (i : Nat) (f : RNode → RNode) (s : State) (j : Nat) : (s.modRnode i f).cgrp j = s.cgrp j := rfl
@[simp] theorem State.modRnode_cw (i : Nat) (f : RNode → RNode) (s : State) (k : Nat) : (s.modRnode i f).cw k = s.cw k := rfl
@[simp] theorem State.modRnode_cf (i : Nat) (f : RNode → RNode) (s : State) (k hi lo : Nat) : (s.modRnode i f).cf k hi lo = s.cf k hi lo := rfl
@[simp] theorem State.modRnode_cb (i : Nat) (f : RNode → RNode) (s : State) (k n : Nat) : (s.modRnode i f).cb k n = s.cb k n := rfl
@[simp] theorem State.modRnode_bw (i : Nat) (f : RNode → RNode) (s : State) (k : Nat) : (s.modRnode i f).bw k = s.bw k := rfl
@[simp] theorem State.modRnode_bf (i : Nat) (f : RNode → RNode) (s : State) (k hi lo : Nat) : (s.modRnode i f).bf k hi lo = s.bf k hi lo := rfl
@[simp] theorem State.modRnode_now (i : Nat) (f : RNode → RNode) (s : State) : (s.modRnode i f).now = s.now := rfl
@[simp] theorem State.modRnode_tsB (i : Nat) (f : RNode → RNode) (s : State) : (s.modRnode i f).tsB = s.tsB := rfl
@[simp] theorem State.modRnode_tickStart (i : Nat) (f : RNode → RNode) (s : State) : (s.modRnode i f).tickStart = s.tickStart := rfl
@[simp] theorem State.modRnode_tickNo (i : Nat) (f : RNode → RNode) (s : State) : (s.modRnode i f).tickNo = s.tickNo := rfl
@[simp] theorem State.modRnode_index (i : Nat) (f : RNode → RNode) (s : State) : (s.modRnode i f).index = s.index := rfl
@[simp] theorem State.modRnode_grail (i : Nat) (f : RNode → RNode) (s : State) (k : Nat) : (s.modRnode i f).grail k = s.grail k := rfl
@[simp] theorem State.modRnode_shadow (i : Nat) (f : RNode → RNode) (s : State) : (s.modRnode i f).shadow = s.shadow := rfl
@[simp] theorem State.modRnode_rcfg (i : Nat) (f : RNode → RNode) (s : State) (k : Nat) : (s.modRnode i f).rcfg k = s.rcfg k := rfl
@[simp] theorem State.modRnode_vioOk (i : Nat) (f : RNode → RNode) (s : State) (k : Nat) : (s.modRnode i f).vioOk k = s.vioOk k := rfl

/-! ## modView -/

@[simp] theorem State.modView_pending (i : Nat) (f : View → View) (s : State) : (s.modView i f).pending = s.pending := rfl
@[simp] theorem State.modView_clk (i : Nat) (f : View → View) (s : State) : (s.modView i f).clk = s.clk := rfl
@[simp] theorem State.modView_engs (i : Nat) (f : View → View) (s : State) : (s.modView i f).engs = s.engs := rfl
@[simp] theorem State.modView_ovrStat (i : Nat) (f : View → View) (s : State) : (s.modView i f).ovrStat = s.ovrStat := rfl
@[simp] theorem State.modView_ovrNow (i : Nat) (f : View → View) (s : State) : (s.modView i f).ovrNow = s.ovrNow := rfl
@[simp] theorem State.modView_wc (i : Nat) (f : View → View) (s : State) : (s.modView i f).wc = s.wc := rfl
@[simp] theorem State.modView_evt (i : Nat) (f : View → View) (s : State) : (s.modView i f).evt = s.evt := rfl
@[simp] theorem State.modView_jrn (i : Nat) (f : View → View) (s : State) : (s.modView i f).jrn = s.jrn := rfl
@[simp] theorem State.modView_hst (i : Nat) (f : View → View) (s : State) : (s.modView i f).hst = s.hst := rfl
@[simp] theorem State.modView_recd (i : Nat) (f : View → View) (s : State) : (s.modView i f).recd = s.recd := rfl
@[simp] theorem State.modView_bar0 (i : Nat) (f : View → View) (s : State) : (s.modView i f).bar0 = s.bar0 := rfl
@[simp] theorem State.modView_cfg (i : Nat) (f : View → View) (s : State) : (s.modView i f).cfg = s.cfg := rfl
@[simp] theorem State.modView_setup (i : Nat) (f : View → View) (s : State) : (s.modView i f).setup = s.setup := rfl
@[simp] theorem State.modView_coef (i : Nat) (f : View → View) (s : State) : (s.modView i f).coef = s.coef := rfl
@[simp] theorem State.modView_rails (i : Nat) (f : View → View) (s : State) : (s.modView i f).rails = s.rails := rfl
@[simp] theorem State.modView_banks (i : Nat) (f : View → View) (s : State) : (s.modView i f).banks = s.banks := rfl
@[simp] theorem State.modView_mdacs (i : Nat) (f : View → View) (s : State) : (s.modView i f).mdacs = s.mdacs := rfl
@[simp] theorem State.modView_pmb (i : Nat) (f : View → View) (s : State) : (s.modView i f).pmb = s.pmb := rfl
@[simp] theorem State.modView_watches (i : Nat) (f : View → View) (s : State) : (s.modView i f).watches = s.watches := rfl
@[simp] theorem State.modView_seq (i : Nat) (f : View → View) (s : State) : (s.modView i f).seq = s.seq := rfl
@[simp] theorem State.modView_off (i : Nat) (f : View → View) (s : State) : (s.modView i f).off = s.off := rfl
@[simp] theorem State.modView_flt (i : Nat) (f : View → View) (s : State) : (s.modView i f).flt = s.flt := rfl
@[simp] theorem State.modView_drt (i : Nat) (f : View → View) (s : State) : (s.modView i f).drt = s.drt := rfl
@[simp] theorem State.modView_dmp (i : Nat) (f : View → View) (s : State) : (s.modView i f).dmp = s.dmp := rfl
@[simp] theorem State.modView_shr (i : Nat) (f : View → View) (s : State) : (s.modView i f).shr = s.shr := rfl
@[simp] theorem State.modView_inl (i : Nat) (f : View → View) (s : State) : (s.modView i f).inl = s.inl := rfl
@[simp] theorem State.modView_cnv (i : Nat) (f : View → View) (s : State) : (s.modView i f).cnv = s.cnv := rfl
@[simp] theorem State.modView_stgs (i : Nat) (f : View → View) (s : State) : (s.modView i f).stgs = s.stgs := rfl
@[simp] theorem State.modView_phases (i : Nat) (f : View → View) (s : State) : (s.modView i f).phases = s.phases := rfl
@[simp] theorem State.modView_pair (i : Nat) (f : View → View) (s : State) : (s.modView i f).pair = s.pair := rfl
@[simp] theorem State.modView_nv (i : Nat) (f : View → View) (s : State) : (s.modView i f).nv = s.nv := rfl
@[simp] theorem State.modView_fw (i : Nat) (f : View → View) (s : State) : (s.modView i f).fw = s.fw := rfl
@[simp] theorem State.modView_pwr (i : Nat) (f : View → View) (s : State) : (s.modView i f).pwr = s.pwr := rfl
@[simp] theorem State.modView_free (i : Nat) (f : View → View) (s : State) : (s.modView i f).free = s.free := rfl
@[simp] theorem State.modView_out (i : Nat) (f : View → View) (s : State) : (s.modView i f).out = s.out := rfl
@[simp] theorem State.modView_eng (i : Nat) (f : View → View) (s : State) (j : Nat) : (s.modView i f).eng j = s.eng j := rfl
@[simp] theorem State.modView_rail (i : Nat) (f : View → View) (s : State) (j : Nat) : (s.modView i f).rail j = s.rail j := rfl
@[simp] theorem State.modView_bank (i : Nat) (f : View → View) (s : State) (j : Nat) : (s.modView i f).bank j = s.bank j := rfl
@[simp] theorem State.modView_mdac (i : Nat) (f : View → View) (s : State) (j : Nat) : (s.modView i f).mdac j = s.mdac j := rfl
@[simp] theorem State.modView_watch (i : Nat) (f : View → View) (s : State) (j : Nat) : (s.modView i f).watch j = s.watch j := rfl
@[simp] theorem State.modView_stg (i : Nat) (f : View → View) (s : State) (j : Nat) : (s.modView i f).stg j = s.stg j := rfl
@[simp] theorem State.modView_phase (i : Nat) (f : View → View) (s : State) (j : Nat) : (s.modView i f).phase j = s.phase j := rfl
@[simp] theorem State.modView_ring (i : Nat) (f : View → View) (s : State) (j : Nat) : (s.modView i f).ring j = s.ring j := rfl
@[simp] theorem State.modView_vec (i : Nat) (f : View → View) (s : State) (j : Nat) : (s.modView i f).vec j = s.vec j := rfl
@[simp] theorem State.modView_prog (i : Nat) (f : View → View) (s : State) (j : Nat) : (s.modView i f).prog j = s.prog j := rfl
@[simp] theorem State.modView_grp (i : Nat) (f : View → View) (s : State) (j : Nat) : (s.modView i f).grp j = s.grp j := rfl
@[simp] theorem State.modView_rect (i : Nat) (f : View → View) (s : State) (j : Nat) : (s.modView i f).rect j = s.rect j := rfl
@[simp] theorem State.modView_core (i : Nat) (f : View → View) (s : State) (j : Nat) : (s.modView i f).core j = s.core j := rfl
@[simp] theorem State.modView_ppair (i : Nat) (f : View → View) (s : State) (j : Nat) : (s.modView i f).ppair j = s.ppair j := rfl
@[simp] theorem State.modView_refm (i : Nat) (f : View → View) (s : State) (j : Nat) : (s.modView i f).refm j = s.refm j := rfl
@[simp] theorem State.modView_port (i : Nat) (f : View → View) (s : State) (j : Nat) : (s.modView i f).port j = s.port j := rfl
@[simp] theorem State.modView_rnode (i : Nat) (f : View → View) (s : State) (j : Nat) : (s.modView i f).rnode j = s.rnode j := rfl
@[simp] theorem State.modView_view (i : Nat) (f : View → View) (s : State) (j : Nat) : (s.modView i f).view j = if j = i then f (s.view i) else s.view j := tget_tmod _ _ _ _ _
theorem State.modView_view_same (i : Nat) (f : View → View) (s : State) : (s.modView i f).view i = f (s.view i) := tget_tmod_same _ _ _ _
@[simp] theorem State.modView_cgrp (i : Nat) (f : View → View) (s : State) (j : Nat) : (s.modView i f).cgrp j = s.cgrp j := rfl
@[simp] theorem State.modView_cw (i : Nat) (f : View → View) (s : State) (k : Nat) : (s.modView i f).cw k = s.cw k := rfl
@[simp] theorem State.modView_cf (i : Nat) (f : View → View) (s : State) (k hi lo : Nat) : (s.modView i f).cf k hi lo = s.cf k hi lo := rfl
@[simp] theorem State.modView_cb (i : Nat) (f : View → View) (s : State) (k n : Nat) : (s.modView i f).cb k n = s.cb k n := rfl
@[simp] theorem State.modView_bw (i : Nat) (f : View → View) (s : State) (k : Nat) : (s.modView i f).bw k = s.bw k := rfl
@[simp] theorem State.modView_bf (i : Nat) (f : View → View) (s : State) (k hi lo : Nat) : (s.modView i f).bf k hi lo = s.bf k hi lo := rfl
@[simp] theorem State.modView_now (i : Nat) (f : View → View) (s : State) : (s.modView i f).now = s.now := rfl
@[simp] theorem State.modView_tsB (i : Nat) (f : View → View) (s : State) : (s.modView i f).tsB = s.tsB := rfl
@[simp] theorem State.modView_tickStart (i : Nat) (f : View → View) (s : State) : (s.modView i f).tickStart = s.tickStart := rfl
@[simp] theorem State.modView_tickNo (i : Nat) (f : View → View) (s : State) : (s.modView i f).tickNo = s.tickNo := rfl
@[simp] theorem State.modView_index (i : Nat) (f : View → View) (s : State) : (s.modView i f).index = s.index := rfl
@[simp] theorem State.modView_grail (i : Nat) (f : View → View) (s : State) (k : Nat) : (s.modView i f).grail k = s.grail k := rfl
@[simp] theorem State.modView_shadow (i : Nat) (f : View → View) (s : State) : (s.modView i f).shadow = s.shadow := rfl
@[simp] theorem State.modView_rcfg (i : Nat) (f : View → View) (s : State) (k : Nat) : (s.modView i f).rcfg k = s.rcfg k := rfl
@[simp] theorem State.modView_vioOk (i : Nat) (f : View → View) (s : State) (k : Nat) : (s.modView i f).vioOk k = s.vioOk k := rfl

/-! ## modCgrp -/

@[simp] theorem State.modCgrp_pending (i : Nat) (f : CGroup → CGroup) (s : State) : (s.modCgrp i f).pending = s.pending := rfl
@[simp] theorem State.modCgrp_clk (i : Nat) (f : CGroup → CGroup) (s : State) : (s.modCgrp i f).clk = s.clk := rfl
@[simp] theorem State.modCgrp_engs (i : Nat) (f : CGroup → CGroup) (s : State) : (s.modCgrp i f).engs = s.engs := rfl
@[simp] theorem State.modCgrp_ovrStat (i : Nat) (f : CGroup → CGroup) (s : State) : (s.modCgrp i f).ovrStat = s.ovrStat := rfl
@[simp] theorem State.modCgrp_ovrNow (i : Nat) (f : CGroup → CGroup) (s : State) : (s.modCgrp i f).ovrNow = s.ovrNow := rfl
@[simp] theorem State.modCgrp_wc (i : Nat) (f : CGroup → CGroup) (s : State) : (s.modCgrp i f).wc = s.wc := rfl
@[simp] theorem State.modCgrp_evt (i : Nat) (f : CGroup → CGroup) (s : State) : (s.modCgrp i f).evt = s.evt := rfl
@[simp] theorem State.modCgrp_jrn (i : Nat) (f : CGroup → CGroup) (s : State) : (s.modCgrp i f).jrn = s.jrn := rfl
@[simp] theorem State.modCgrp_hst (i : Nat) (f : CGroup → CGroup) (s : State) : (s.modCgrp i f).hst = s.hst := rfl
@[simp] theorem State.modCgrp_recd (i : Nat) (f : CGroup → CGroup) (s : State) : (s.modCgrp i f).recd = s.recd := rfl
@[simp] theorem State.modCgrp_bar0 (i : Nat) (f : CGroup → CGroup) (s : State) : (s.modCgrp i f).bar0 = s.bar0 := rfl
@[simp] theorem State.modCgrp_cfg (i : Nat) (f : CGroup → CGroup) (s : State) : (s.modCgrp i f).cfg = s.cfg := rfl
@[simp] theorem State.modCgrp_setup (i : Nat) (f : CGroup → CGroup) (s : State) : (s.modCgrp i f).setup = s.setup := rfl
@[simp] theorem State.modCgrp_coef (i : Nat) (f : CGroup → CGroup) (s : State) : (s.modCgrp i f).coef = s.coef := rfl
@[simp] theorem State.modCgrp_rails (i : Nat) (f : CGroup → CGroup) (s : State) : (s.modCgrp i f).rails = s.rails := rfl
@[simp] theorem State.modCgrp_banks (i : Nat) (f : CGroup → CGroup) (s : State) : (s.modCgrp i f).banks = s.banks := rfl
@[simp] theorem State.modCgrp_mdacs (i : Nat) (f : CGroup → CGroup) (s : State) : (s.modCgrp i f).mdacs = s.mdacs := rfl
@[simp] theorem State.modCgrp_pmb (i : Nat) (f : CGroup → CGroup) (s : State) : (s.modCgrp i f).pmb = s.pmb := rfl
@[simp] theorem State.modCgrp_watches (i : Nat) (f : CGroup → CGroup) (s : State) : (s.modCgrp i f).watches = s.watches := rfl
@[simp] theorem State.modCgrp_seq (i : Nat) (f : CGroup → CGroup) (s : State) : (s.modCgrp i f).seq = s.seq := rfl
@[simp] theorem State.modCgrp_off (i : Nat) (f : CGroup → CGroup) (s : State) : (s.modCgrp i f).off = s.off := rfl
@[simp] theorem State.modCgrp_flt (i : Nat) (f : CGroup → CGroup) (s : State) : (s.modCgrp i f).flt = s.flt := rfl
@[simp] theorem State.modCgrp_drt (i : Nat) (f : CGroup → CGroup) (s : State) : (s.modCgrp i f).drt = s.drt := rfl
@[simp] theorem State.modCgrp_dmp (i : Nat) (f : CGroup → CGroup) (s : State) : (s.modCgrp i f).dmp = s.dmp := rfl
@[simp] theorem State.modCgrp_shr (i : Nat) (f : CGroup → CGroup) (s : State) : (s.modCgrp i f).shr = s.shr := rfl
@[simp] theorem State.modCgrp_inl (i : Nat) (f : CGroup → CGroup) (s : State) : (s.modCgrp i f).inl = s.inl := rfl
@[simp] theorem State.modCgrp_cnv (i : Nat) (f : CGroup → CGroup) (s : State) : (s.modCgrp i f).cnv = s.cnv := rfl
@[simp] theorem State.modCgrp_stgs (i : Nat) (f : CGroup → CGroup) (s : State) : (s.modCgrp i f).stgs = s.stgs := rfl
@[simp] theorem State.modCgrp_phases (i : Nat) (f : CGroup → CGroup) (s : State) : (s.modCgrp i f).phases = s.phases := rfl
@[simp] theorem State.modCgrp_sca (i : Nat) (f : CGroup → CGroup) (s : State) : (s.modCgrp i f).sca = s.sca := rfl
@[simp] theorem State.modCgrp_pair (i : Nat) (f : CGroup → CGroup) (s : State) : (s.modCgrp i f).pair = s.pair := rfl
@[simp] theorem State.modCgrp_fw (i : Nat) (f : CGroup → CGroup) (s : State) : (s.modCgrp i f).fw = s.fw := rfl
@[simp] theorem State.modCgrp_pwr (i : Nat) (f : CGroup → CGroup) (s : State) : (s.modCgrp i f).pwr = s.pwr := rfl
@[simp] theorem State.modCgrp_free (i : Nat) (f : CGroup → CGroup) (s : State) : (s.modCgrp i f).free = s.free := rfl
@[simp] theorem State.modCgrp_out (i : Nat) (f : CGroup → CGroup) (s : State) : (s.modCgrp i f).out = s.out := rfl
@[simp] theorem State.modCgrp_eng (i : Nat) (f : CGroup → CGroup) (s : State) (j : Nat) : (s.modCgrp i f).eng j = s.eng j := rfl
@[simp] theorem State.modCgrp_rail (i : Nat) (f : CGroup → CGroup) (s : State) (j : Nat) : (s.modCgrp i f).rail j = s.rail j := rfl
@[simp] theorem State.modCgrp_bank (i : Nat) (f : CGroup → CGroup) (s : State) (j : Nat) : (s.modCgrp i f).bank j = s.bank j := rfl
@[simp] theorem State.modCgrp_mdac (i : Nat) (f : CGroup → CGroup) (s : State) (j : Nat) : (s.modCgrp i f).mdac j = s.mdac j := rfl
@[simp] theorem State.modCgrp_watch (i : Nat) (f : CGroup → CGroup) (s : State) (j : Nat) : (s.modCgrp i f).watch j = s.watch j := rfl
@[simp] theorem State.modCgrp_stg (i : Nat) (f : CGroup → CGroup) (s : State) (j : Nat) : (s.modCgrp i f).stg j = s.stg j := rfl
@[simp] theorem State.modCgrp_phase (i : Nat) (f : CGroup → CGroup) (s : State) (j : Nat) : (s.modCgrp i f).phase j = s.phase j := rfl
@[simp] theorem State.modCgrp_ring (i : Nat) (f : CGroup → CGroup) (s : State) (j : Nat) : (s.modCgrp i f).ring j = s.ring j := rfl
@[simp] theorem State.modCgrp_vec (i : Nat) (f : CGroup → CGroup) (s : State) (j : Nat) : (s.modCgrp i f).vec j = s.vec j := rfl
@[simp] theorem State.modCgrp_prog (i : Nat) (f : CGroup → CGroup) (s : State) (j : Nat) : (s.modCgrp i f).prog j = s.prog j := rfl
@[simp] theorem State.modCgrp_grp (i : Nat) (f : CGroup → CGroup) (s : State) (j : Nat) : (s.modCgrp i f).grp j = s.grp j := rfl
@[simp] theorem State.modCgrp_rect (i : Nat) (f : CGroup → CGroup) (s : State) (j : Nat) : (s.modCgrp i f).rect j = s.rect j := rfl
@[simp] theorem State.modCgrp_core (i : Nat) (f : CGroup → CGroup) (s : State) (j : Nat) : (s.modCgrp i f).core j = s.core j := rfl
@[simp] theorem State.modCgrp_ppair (i : Nat) (f : CGroup → CGroup) (s : State) (j : Nat) : (s.modCgrp i f).ppair j = s.ppair j := rfl
@[simp] theorem State.modCgrp_refm (i : Nat) (f : CGroup → CGroup) (s : State) (j : Nat) : (s.modCgrp i f).refm j = s.refm j := rfl
@[simp] theorem State.modCgrp_port (i : Nat) (f : CGroup → CGroup) (s : State) (j : Nat) : (s.modCgrp i f).port j = s.port j := rfl
@[simp] theorem State.modCgrp_rnode (i : Nat) (f : CGroup → CGroup) (s : State) (j : Nat) : (s.modCgrp i f).rnode j = s.rnode j := rfl
@[simp] theorem State.modCgrp_view (i : Nat) (f : CGroup → CGroup) (s : State) (j : Nat) : (s.modCgrp i f).view j = s.view j := rfl
@[simp] theorem State.modCgrp_cgrp (i : Nat) (f : CGroup → CGroup) (s : State) (j : Nat) : (s.modCgrp i f).cgrp j = if j = i then f (s.cgrp i) else s.cgrp j := tget_tmod _ _ _ _ _
theorem State.modCgrp_cgrp_same (i : Nat) (f : CGroup → CGroup) (s : State) : (s.modCgrp i f).cgrp i = f (s.cgrp i) := tget_tmod_same _ _ _ _
@[simp] theorem State.modCgrp_cw (i : Nat) (f : CGroup → CGroup) (s : State) (k : Nat) : (s.modCgrp i f).cw k = s.cw k := rfl
@[simp] theorem State.modCgrp_cf (i : Nat) (f : CGroup → CGroup) (s : State) (k hi lo : Nat) : (s.modCgrp i f).cf k hi lo = s.cf k hi lo := rfl
@[simp] theorem State.modCgrp_cb (i : Nat) (f : CGroup → CGroup) (s : State) (k n : Nat) : (s.modCgrp i f).cb k n = s.cb k n := rfl
@[simp] theorem State.modCgrp_bw (i : Nat) (f : CGroup → CGroup) (s : State) (k : Nat) : (s.modCgrp i f).bw k = s.bw k := rfl
@[simp] theorem State.modCgrp_bf (i : Nat) (f : CGroup → CGroup) (s : State) (k hi lo : Nat) : (s.modCgrp i f).bf k hi lo = s.bf k hi lo := rfl
@[simp] theorem State.modCgrp_now (i : Nat) (f : CGroup → CGroup) (s : State) : (s.modCgrp i f).now = s.now := rfl
@[simp] theorem State.modCgrp_tsB (i : Nat) (f : CGroup → CGroup) (s : State) : (s.modCgrp i f).tsB = s.tsB := rfl
@[simp] theorem State.modCgrp_tickStart (i : Nat) (f : CGroup → CGroup) (s : State) : (s.modCgrp i f).tickStart = s.tickStart := rfl
@[simp] theorem State.modCgrp_tickNo (i : Nat) (f : CGroup → CGroup) (s : State) : (s.modCgrp i f).tickNo = s.tickNo := rfl
@[simp] theorem State.modCgrp_index (i : Nat) (f : CGroup → CGroup) (s : State) : (s.modCgrp i f).index = s.index := rfl
@[simp] theorem State.modCgrp_role (i : Nat) (f : CGroup → CGroup) (s : State) : (s.modCgrp i f).role = s.role := rfl
@[simp] theorem State.modCgrp_grail (i : Nat) (f : CGroup → CGroup) (s : State) (k : Nat) : (s.modCgrp i f).grail k = s.grail k := rfl
@[simp] theorem State.modCgrp_shadow (i : Nat) (f : CGroup → CGroup) (s : State) : (s.modCgrp i f).shadow = s.shadow := rfl
@[simp] theorem State.modCgrp_rcfg (i : Nat) (f : CGroup → CGroup) (s : State) (k : Nat) : (s.modCgrp i f).rcfg k = s.rcfg k := rfl
@[simp] theorem State.modCgrp_vioOk (i : Nat) (f : CGroup → CGroup) (s : State) (k : Nat) : (s.modCgrp i f).vioOk k = s.vioOk k := rfl

/-! ## emit -/

@[simp] theorem emit_pending (o : Out) (s : State) : (emit o s).pending = s.pending := rfl
@[simp] theorem emit_clk (o : Out) (s : State) : (emit o s).clk = s.clk := rfl
@[simp] theorem emit_engs (o : Out) (s : State) : (emit o s).engs = s.engs := rfl
@[simp] theorem emit_ovrStat (o : Out) (s : State) : (emit o s).ovrStat = s.ovrStat := rfl
@[simp] theorem emit_ovrNow (o : Out) (s : State) : (emit o s).ovrNow = s.ovrNow := rfl
@[simp] theorem emit_wc (o : Out) (s : State) : (emit o s).wc = s.wc := rfl
@[simp] theorem emit_evt (o : Out) (s : State) : (emit o s).evt = s.evt := rfl
@[simp] theorem emit_jrn (o : Out) (s : State) : (emit o s).jrn = s.jrn := rfl
@[simp] theorem emit_hst (o : Out) (s : State) : (emit o s).hst = s.hst := rfl
@[simp] theorem emit_recd (o : Out) (s : State) : (emit o s).recd = s.recd := rfl
@[simp] theorem emit_bar0 (o : Out) (s : State) : (emit o s).bar0 = s.bar0 := rfl
@[simp] theorem emit_cfg (o : Out) (s : State) : (emit o s).cfg = s.cfg := rfl
@[simp] theorem emit_setup (o : Out) (s : State) : (emit o s).setup = s.setup := rfl
@[simp] theorem emit_coef (o : Out) (s : State) : (emit o s).coef = s.coef := rfl
@[simp] theorem emit_rails (o : Out) (s : State) : (emit o s).rails = s.rails := rfl
@[simp] theorem emit_banks (o : Out) (s : State) : (emit o s).banks = s.banks := rfl
@[simp] theorem emit_mdacs (o : Out) (s : State) : (emit o s).mdacs = s.mdacs := rfl
@[simp] theorem emit_pmb (o : Out) (s : State) : (emit o s).pmb = s.pmb := rfl
@[simp] theorem emit_watches (o : Out) (s : State) : (emit o s).watches = s.watches := rfl
@[simp] theorem emit_seq (o : Out) (s : State) : (emit o s).seq = s.seq := rfl
@[simp] theorem emit_off (o : Out) (s : State) : (emit o s).off = s.off := rfl
@[simp] theorem emit_flt (o : Out) (s : State) : (emit o s).flt = s.flt := rfl
@[simp] theorem emit_drt (o : Out) (s : State) : (emit o s).drt = s.drt := rfl
@[simp] theorem emit_dmp (o : Out) (s : State) : (emit o s).dmp = s.dmp := rfl
@[simp] theorem emit_shr (o : Out) (s : State) : (emit o s).shr = s.shr := rfl
@[simp] theorem emit_inl (o : Out) (s : State) : (emit o s).inl = s.inl := rfl
@[simp] theorem emit_cnv (o : Out) (s : State) : (emit o s).cnv = s.cnv := rfl
@[simp] theorem emit_stgs (o : Out) (s : State) : (emit o s).stgs = s.stgs := rfl
@[simp] theorem emit_phases (o : Out) (s : State) : (emit o s).phases = s.phases := rfl
@[simp] theorem emit_sca (o : Out) (s : State) : (emit o s).sca = s.sca := rfl
@[simp] theorem emit_pair (o : Out) (s : State) : (emit o s).pair = s.pair := rfl
@[simp] theorem emit_nv (o : Out) (s : State) : (emit o s).nv = s.nv := rfl
@[simp] theorem emit_fw (o : Out) (s : State) : (emit o s).fw = s.fw := rfl
@[simp] theorem emit_pwr (o : Out) (s : State) : (emit o s).pwr = s.pwr := rfl
@[simp] theorem emit_free (o : Out) (s : State) : (emit o s).free = s.free := rfl
@[simp] theorem emit_eng (o : Out) (s : State) (j : Nat) : (emit o s).eng j = s.eng j := rfl
@[simp] theorem emit_rail (o : Out) (s : State) (j : Nat) : (emit o s).rail j = s.rail j := rfl
@[simp] theorem emit_bank (o : Out) (s : State) (j : Nat) : (emit o s).bank j = s.bank j := rfl
@[simp] theorem emit_mdac (o : Out) (s : State) (j : Nat) : (emit o s).mdac j = s.mdac j := rfl
@[simp] theorem emit_watch (o : Out) (s : State) (j : Nat) : (emit o s).watch j = s.watch j := rfl
@[simp] theorem emit_stg (o : Out) (s : State) (j : Nat) : (emit o s).stg j = s.stg j := rfl
@[simp] theorem emit_phase (o : Out) (s : State) (j : Nat) : (emit o s).phase j = s.phase j := rfl
@[simp] theorem emit_ring (o : Out) (s : State) (j : Nat) : (emit o s).ring j = s.ring j := rfl
@[simp] theorem emit_vec (o : Out) (s : State) (j : Nat) : (emit o s).vec j = s.vec j := rfl
@[simp] theorem emit_prog (o : Out) (s : State) (j : Nat) : (emit o s).prog j = s.prog j := rfl
@[simp] theorem emit_grp (o : Out) (s : State) (j : Nat) : (emit o s).grp j = s.grp j := rfl
@[simp] theorem emit_rect (o : Out) (s : State) (j : Nat) : (emit o s).rect j = s.rect j := rfl
@[simp] theorem emit_core (o : Out) (s : State) (j : Nat) : (emit o s).core j = s.core j := rfl
@[simp] theorem emit_ppair (o : Out) (s : State) (j : Nat) : (emit o s).ppair j = s.ppair j := rfl
@[simp] theorem emit_refm (o : Out) (s : State) (j : Nat) : (emit o s).refm j = s.refm j := rfl
@[simp] theorem emit_port (o : Out) (s : State) (j : Nat) : (emit o s).port j = s.port j := rfl
@[simp] theorem emit_rnode (o : Out) (s : State) (j : Nat) : (emit o s).rnode j = s.rnode j := rfl
@[simp] theorem emit_view (o : Out) (s : State) (j : Nat) : (emit o s).view j = s.view j := rfl
@[simp] theorem emit_cgrp (o : Out) (s : State) (j : Nat) : (emit o s).cgrp j = s.cgrp j := rfl
@[simp] theorem emit_cw (o : Out) (s : State) (k : Nat) : (emit o s).cw k = s.cw k := rfl
@[simp] theorem emit_cf (o : Out) (s : State) (k hi lo : Nat) : (emit o s).cf k hi lo = s.cf k hi lo := rfl
@[simp] theorem emit_cb (o : Out) (s : State) (k n : Nat) : (emit o s).cb k n = s.cb k n := rfl
@[simp] theorem emit_bw (o : Out) (s : State) (k : Nat) : (emit o s).bw k = s.bw k := rfl
@[simp] theorem emit_bf (o : Out) (s : State) (k hi lo : Nat) : (emit o s).bf k hi lo = s.bf k hi lo := rfl
@[simp] theorem emit_now (o : Out) (s : State) : (emit o s).now = s.now := rfl
@[simp] theorem emit_tsB (o : Out) (s : State) : (emit o s).tsB = s.tsB := rfl
@[simp] theorem emit_tickStart (o : Out) (s : State) : (emit o s).tickStart = s.tickStart := rfl
@[simp] theorem emit_tickNo (o : Out) (s : State) : (emit o s).tickNo = s.tickNo := rfl
@[simp] theorem emit_index (o : Out) (s : State) : (emit o s).index = s.index := rfl
@[simp] theorem emit_role (o : Out) (s : State) : (emit o s).role = s.role := rfl
@[simp] theorem emit_grail (o : Out) (s : State) (k : Nat) : (emit o s).grail k = s.grail k := rfl
@[simp] theorem emit_shadow (o : Out) (s : State) : (emit o s).shadow = s.shadow := rfl
@[simp] theorem emit_rcfg (o : Out) (s : State) (k : Nat) : (emit o s).rcfg k = s.rcfg k := rfl
@[simp] theorem emit_vioOk (o : Out) (s : State) (k : Nat) : (emit o s).vioOk k = s.vioOk k := rfl

/-! ## drawFree -/

@[simp] theorem State.drawFree_pending (w : Nat) (s : State) : (s.drawFree w).2.pending = s.pending := rfl
@[simp] theorem State.drawFree_clk (w : Nat) (s : State) : (s.drawFree w).2.clk = s.clk := rfl
@[simp] theorem State.drawFree_engs (w : Nat) (s : State) : (s.drawFree w).2.engs = s.engs := rfl
@[simp] theorem State.drawFree_ovrStat (w : Nat) (s : State) : (s.drawFree w).2.ovrStat = s.ovrStat := rfl
@[simp] theorem State.drawFree_ovrNow (w : Nat) (s : State) : (s.drawFree w).2.ovrNow = s.ovrNow := rfl
@[simp] theorem State.drawFree_wc (w : Nat) (s : State) : (s.drawFree w).2.wc = s.wc := rfl
@[simp] theorem State.drawFree_evt (w : Nat) (s : State) : (s.drawFree w).2.evt = s.evt := rfl
@[simp] theorem State.drawFree_jrn (w : Nat) (s : State) : (s.drawFree w).2.jrn = s.jrn := rfl
@[simp] theorem State.drawFree_hst (w : Nat) (s : State) : (s.drawFree w).2.hst = s.hst := rfl
@[simp] theorem State.drawFree_recd (w : Nat) (s : State) : (s.drawFree w).2.recd = s.recd := rfl
@[simp] theorem State.drawFree_bar0 (w : Nat) (s : State) : (s.drawFree w).2.bar0 = s.bar0 := rfl
@[simp] theorem State.drawFree_cfg (w : Nat) (s : State) : (s.drawFree w).2.cfg = s.cfg := rfl
@[simp] theorem State.drawFree_setup (w : Nat) (s : State) : (s.drawFree w).2.setup = s.setup := rfl
@[simp] theorem State.drawFree_coef (w : Nat) (s : State) : (s.drawFree w).2.coef = s.coef := rfl
@[simp] theorem State.drawFree_rails (w : Nat) (s : State) : (s.drawFree w).2.rails = s.rails := rfl
@[simp] theorem State.drawFree_banks (w : Nat) (s : State) : (s.drawFree w).2.banks = s.banks := rfl
@[simp] theorem State.drawFree_mdacs (w : Nat) (s : State) : (s.drawFree w).2.mdacs = s.mdacs := rfl
@[simp] theorem State.drawFree_pmb (w : Nat) (s : State) : (s.drawFree w).2.pmb = s.pmb := rfl
@[simp] theorem State.drawFree_watches (w : Nat) (s : State) : (s.drawFree w).2.watches = s.watches := rfl
@[simp] theorem State.drawFree_seq (w : Nat) (s : State) : (s.drawFree w).2.seq = s.seq := rfl
@[simp] theorem State.drawFree_off (w : Nat) (s : State) : (s.drawFree w).2.off = s.off := rfl
@[simp] theorem State.drawFree_flt (w : Nat) (s : State) : (s.drawFree w).2.flt = s.flt := rfl
@[simp] theorem State.drawFree_drt (w : Nat) (s : State) : (s.drawFree w).2.drt = s.drt := rfl
@[simp] theorem State.drawFree_dmp (w : Nat) (s : State) : (s.drawFree w).2.dmp = s.dmp := rfl
@[simp] theorem State.drawFree_shr (w : Nat) (s : State) : (s.drawFree w).2.shr = s.shr := rfl
@[simp] theorem State.drawFree_inl (w : Nat) (s : State) : (s.drawFree w).2.inl = s.inl := rfl
@[simp] theorem State.drawFree_cnv (w : Nat) (s : State) : (s.drawFree w).2.cnv = s.cnv := rfl
@[simp] theorem State.drawFree_stgs (w : Nat) (s : State) : (s.drawFree w).2.stgs = s.stgs := rfl
@[simp] theorem State.drawFree_phases (w : Nat) (s : State) : (s.drawFree w).2.phases = s.phases := rfl
@[simp] theorem State.drawFree_sca (w : Nat) (s : State) : (s.drawFree w).2.sca = s.sca := rfl
@[simp] theorem State.drawFree_pair (w : Nat) (s : State) : (s.drawFree w).2.pair = s.pair := rfl
@[simp] theorem State.drawFree_nv (w : Nat) (s : State) : (s.drawFree w).2.nv = s.nv := rfl
@[simp] theorem State.drawFree_fw (w : Nat) (s : State) : (s.drawFree w).2.fw = s.fw := rfl
@[simp] theorem State.drawFree_pwr (w : Nat) (s : State) : (s.drawFree w).2.pwr = s.pwr := rfl
@[simp] theorem State.drawFree_out (w : Nat) (s : State) : (s.drawFree w).2.out = s.out := rfl
@[simp] theorem State.drawFree_eng (w : Nat) (s : State) (j : Nat) : (s.drawFree w).2.eng j = s.eng j := rfl
@[simp] theorem State.drawFree_rail (w : Nat) (s : State) (j : Nat) : (s.drawFree w).2.rail j = s.rail j := rfl
@[simp] theorem State.drawFree_bank (w : Nat) (s : State) (j : Nat) : (s.drawFree w).2.bank j = s.bank j := rfl
@[simp] theorem State.drawFree_mdac (w : Nat) (s : State) (j : Nat) : (s.drawFree w).2.mdac j = s.mdac j := rfl
@[simp] theorem State.drawFree_watch (w : Nat) (s : State) (j : Nat) : (s.drawFree w).2.watch j = s.watch j := rfl
@[simp] theorem State.drawFree_stg (w : Nat) (s : State) (j : Nat) : (s.drawFree w).2.stg j = s.stg j := rfl
@[simp] theorem State.drawFree_phase (w : Nat) (s : State) (j : Nat) : (s.drawFree w).2.phase j = s.phase j := rfl
@[simp] theorem State.drawFree_ring (w : Nat) (s : State) (j : Nat) : (s.drawFree w).2.ring j = s.ring j := rfl
@[simp] theorem State.drawFree_vec (w : Nat) (s : State) (j : Nat) : (s.drawFree w).2.vec j = s.vec j := rfl
@[simp] theorem State.drawFree_prog (w : Nat) (s : State) (j : Nat) : (s.drawFree w).2.prog j = s.prog j := rfl
@[simp] theorem State.drawFree_grp (w : Nat) (s : State) (j : Nat) : (s.drawFree w).2.grp j = s.grp j := rfl
@[simp] theorem State.drawFree_rect (w : Nat) (s : State) (j : Nat) : (s.drawFree w).2.rect j = s.rect j := rfl
@[simp] theorem State.drawFree_core (w : Nat) (s : State) (j : Nat) : (s.drawFree w).2.core j = s.core j := rfl
@[simp] theorem State.drawFree_ppair (w : Nat) (s : State) (j : Nat) : (s.drawFree w).2.ppair j = s.ppair j := rfl
@[simp] theorem State.drawFree_refm (w : Nat) (s : State) (j : Nat) : (s.drawFree w).2.refm j = s.refm j := rfl
@[simp] theorem State.drawFree_port (w : Nat) (s : State) (j : Nat) : (s.drawFree w).2.port j = s.port j := rfl
@[simp] theorem State.drawFree_rnode (w : Nat) (s : State) (j : Nat) : (s.drawFree w).2.rnode j = s.rnode j := rfl
@[simp] theorem State.drawFree_view (w : Nat) (s : State) (j : Nat) : (s.drawFree w).2.view j = s.view j := rfl
@[simp] theorem State.drawFree_cgrp (w : Nat) (s : State) (j : Nat) : (s.drawFree w).2.cgrp j = s.cgrp j := rfl
@[simp] theorem State.drawFree_cw (w : Nat) (s : State) (k : Nat) : (s.drawFree w).2.cw k = s.cw k := rfl
@[simp] theorem State.drawFree_cf (w : Nat) (s : State) (k hi lo : Nat) : (s.drawFree w).2.cf k hi lo = s.cf k hi lo := rfl
@[simp] theorem State.drawFree_cb (w : Nat) (s : State) (k n : Nat) : (s.drawFree w).2.cb k n = s.cb k n := rfl
@[simp] theorem State.drawFree_bw (w : Nat) (s : State) (k : Nat) : (s.drawFree w).2.bw k = s.bw k := rfl
@[simp] theorem State.drawFree_bf (w : Nat) (s : State) (k hi lo : Nat) : (s.drawFree w).2.bf k hi lo = s.bf k hi lo := rfl
@[simp] theorem State.drawFree_now (w : Nat) (s : State) : (s.drawFree w).2.now = s.now := rfl
@[simp] theorem State.drawFree_tsB (w : Nat) (s : State) : (s.drawFree w).2.tsB = s.tsB := rfl
@[simp] theorem State.drawFree_tickStart (w : Nat) (s : State) : (s.drawFree w).2.tickStart = s.tickStart := rfl
@[simp] theorem State.drawFree_tickNo (w : Nat) (s : State) : (s.drawFree w).2.tickNo = s.tickNo := rfl
@[simp] theorem State.drawFree_index (w : Nat) (s : State) : (s.drawFree w).2.index = s.index := rfl
@[simp] theorem State.drawFree_role (w : Nat) (s : State) : (s.drawFree w).2.role = s.role := rfl
@[simp] theorem State.drawFree_grail (w : Nat) (s : State) (k : Nat) : (s.drawFree w).2.grail k = s.grail k := rfl
@[simp] theorem State.drawFree_shadow (w : Nat) (s : State) : (s.drawFree w).2.shadow = s.shadow := rfl
@[simp] theorem State.drawFree_rcfg (w : Nat) (s : State) (k : Nat) : (s.drawFree w).2.rcfg k = s.rcfg k := rfl
@[simp] theorem State.drawFree_vioOk (w : Nat) (s : State) (k : Nat) : (s.drawFree w).2.vioOk k = s.vioOk k := rfl

end Sys2Proof.Machine
end

