-- ==== Sys2Proof/Laws/Events.lean ====
section
/-! SUPPORT. Laws/Events.lean: everything an event can do: its pending bit and count, and nothing outside what events leave
behind. -/

namespace Sys2Proof.Machine

theorem EventsOnly.refl (s : State) : EventsOnly s s := rfl

theorem EventsOnly.trans {s t u : State} (h : EventsOnly s t) (g : EventsOnly t u) : EventsOnly s u := by
  unfold EventsOnly at *
  rw [← h, ← g]

theorem eventsOnly_ashAdd (n : Nat) (s : State) : EventsOnly s (ashAdd n s) := rfl

theorem eventsOnly_capture (o : Occ) (s : State) : EventsOnly s (capture o s) := by
  unfold capture
  split
  · split <;> rfl
  · rfl

theorem eventsOnly_raiseCore (o : Occ) (s : State) : EventsOnly s (raiseCore o s) := by
  unfold raiseCore
  simp only
  repeat' (first
    | rfl
    | exact eventsOnly_capture _ _
    | refine EventsOnly.trans ?_ (eventsOnly_capture _ _)
    | split)

theorem eventsOnly_ashEvent (old : Nat) (s : State) : EventsOnly s (ashEvent old s) := by
  unfold ashEvent
  split
  · exact EventsOnly.trans (t := { s with evt := { s.evt with ashTick := true } }) rfl (eventsOnly_raiseCore _ _)
  · rfl

/-- Raising an event touches nothing else (R467, R468, R383, R387). -/
theorem eventsOnly_raiseSev (src sev : Nat) (ts : Ts) (d : BitVec 128) (s : State) : EventsOnly s (raiseSev src sev ts d s) :=
  (eventsOnly_raiseCore _ _).trans (eventsOnly_ashEvent _ _)

theorem eventsOnly_raise (src : Nat) (ts : Ts) (d : BitVec 128) (s : State) : EventsOnly s (raise src ts d s) :=
  eventsOnly_raiseSev _ _ _ _ _

theorem capture_evt (o : Occ) (s : State) : (capture o s).evt = s.evt := by
  unfold capture
  split
  · split <;> rfl
  · rfl

theorem pend_raiseCore (o : Occ) (s : State) : (raiseCore o s).evt.pend = s.evt.pend ||| BitVec.ofNat 256 (2 ^ o.src) := by
  unfold raiseCore
  simp only [apply_ite State.evt, apply_ite Evt.pend, capture_evt, ite_self]

theorem pend_or (p : BitVec 256) {n : Nat} (h : n < 256) (k : Nat) :
    (p ||| BitVec.ofNat 256 (2 ^ k)).getLsbD n = (p.getLsbD n || decide (k = n)) := by
  rw [BitVec.getLsbD_or, BitVec.getLsbD_ofNat, Nat.testBit_two_pow]
  simp [h]

/-- The pending bit of the source is set, and no other is cleared (R467). -/
theorem pending_raise (src : Nat) (ts : Ts) (d : BitVec 128) (s : State) (n : Nat) (h : n < 256)
    (hn : n = src ∨ Pending n s) : Pending n (raise src ts d s) := by
  unfold Pending at *
  unfold raise raiseSev ashEvent
  split
  · rw [pend_raiseCore, pend_or _ h, pend_raiseCore, pend_or _ h]
    rcases hn with rfl | hn <;> simp [*]
  · rw [pend_raiseCore, pend_or _ h]
    rcases hn with rfl | hn <;> simp [*]

end Sys2Proof.Machine
end

