-- ==== Sys2Proof/Laws/FaultQueue.lean ====
section
/-! SUPPORT. FaultQueue.lean: a reaction leaves the fault queue and the first-fault capture alone. -/

set_option linter.all false
set_option linter.unusedSimpArgs false
set_option linter.unreachableTactic false
set_option linter.unusedTactic false
namespace Sys2Proof.Machine

/-- a reaction leaves the fault queue and the first-fault capture alone. -/
def State.fqff (s : State) :=
  (s.flt.queue, s.flt.ff)

theorem fqff_mk (a b c d e f g h i j k l m n o p q r u v w x y z a1 b1 c1 d1 e1 f1 g1 h1 i1 j1 k1 l1) :
    State.fqff (State.mk a b c d e f g h i j k l m n o p q r u v w x y z a1 b1 c1 d1 e1 f1 g1 h1 i1 j1 k1 l1) =
      (x.queue, x.ff) := rfl

theorem fqff_fold (s : State) : (s.flt.queue, s.flt.ff) = s.fqff := rfl

theorem ite_fqff (c : Prop) [Decidable c] (a b : State) :
    State.fqff (if c then a else b) = if c then a.fqff else b.fqff := by split <;> rfl

theorem fqff_each {α : Type} (l : List α) (f : α → State → State) (hf : ∀ a s, (f a s).fqff = s.fqff) (s : State) :
    (each l f s).fqff = s.fqff := by
  unfold each
  induction l generalizing s with
  | nil => rfl
  | cons a l ih => exact (ih _).trans (hf a s)

theorem fqff_foldl {α β : Type} (g : β → State) (f : β → α → β) (hf : ∀ b a, (g (f b a)).fqff = (g b).fqff)
    (l : List α) (b : β) : (g (l.foldl f b)).fqff = (g b).fqff := by
  induction l generalizing b with
  | nil => rfl
  | cons a l ih => exact (ih _).trans (hf b a)

theorem fqff_modRail (i : Nat) (f : Rail → Rail) (s : State) : (State.modRail i f s).fqff = s.fqff := by
  unfold State.modRail
  repeat' (first
    | with_reducible rfl
    | simp only [fqff_mk, fqff_fold, ite_fqff, ite_self, implies_true]
    | refine (fqff_each _ _ (fun a s => ?_) _).trans ?_
    | split)

theorem fqff_modMdac (i : Nat) (f : Mdac → Mdac) (s : State) : (State.modMdac i f s).fqff = s.fqff := by
  unfold State.modMdac
  repeat' (first
    | with_reducible rfl
    | simp only [fqff_mk, fqff_fold, ite_fqff, ite_self, implies_true]
    | refine (fqff_each _ _ (fun a s => ?_) _).trans ?_
    | split)

theorem fqff_modStg (i : Nat) (f : Stg → Stg) (s : State) : (State.modStg i f s).fqff = s.fqff := by
  unfold State.modStg
  repeat' (first
    | with_reducible rfl
    | simp only [fqff_mk, fqff_fold, ite_fqff, ite_self, implies_true]
    | refine (fqff_each _ _ (fun a s => ?_) _).trans ?_
    | split)

theorem fqff_modProg (i : Nat) (f : Prog → Prog) (s : State) : (State.modProg i f s).fqff = s.fqff := by
  unfold State.modProg
  repeat' (first
    | with_reducible rfl
    | simp only [fqff_mk, fqff_fold, ite_fqff, ite_self, implies_true]
    | refine (fqff_each _ _ (fun a s => ?_) _).trans ?_
    | split)

theorem fqff_modGrp (i : Nat) (f : Grp → Grp) (s : State) : (State.modGrp i f s).fqff = s.fqff := by
  unfold State.modGrp
  repeat' (first
    | with_reducible rfl
    | simp only [fqff_mk, fqff_fold, ite_fqff, ite_self, implies_true]
    | refine (fqff_each _ _ (fun a s => ?_) _).trans ?_
    | split)

theorem fqff_finishAt (d q status result : Nat) (s : State) : (finishAt d q status result s).fqff = s.fqff := by
  unfold finishAt
  repeat' (first
    | with_reducible rfl
    | simp only [fqff_mk, fqff_fold, ite_fqff, ite_self, implies_true]
    | refine (fqff_each _ _ (fun a s => ?_) _).trans ?_
    | split)

theorem fqff_finish (q status result : Nat) (s : State) : (finish q status result s).fqff = s.fqff := by
  unfold finish
  repeat' (first
    | with_reducible rfl
    | simp only [fqff_mk, fqff_fold, ite_fqff, ite_self, implies_true, fqff_finishAt]
    | refine (fqff_each _ _ (fun a s => ?_) _).trans ?_
    | split)

theorem fqff_finishAll (w : Wait → Bool) (status result : Nat) (s : State) : (finishAll w status result s).fqff = s.fqff
    := by
  unfold finishAll
  repeat' (first
    | with_reducible rfl
    | simp only [fqff_mk, fqff_fold, ite_fqff, ite_self, implies_true, fqff_each, fqff_finish]
    | refine (fqff_each _ _ (fun a s => ?_) _).trans ?_
    | split)

theorem fqff_commitEnd (k : CKey) (s : State) : (commitEnd k s).fqff = s.fqff := by
  unfold commitEnd
  repeat' (first
    | with_reducible rfl
    | simp only [fqff_mk, fqff_fold, ite_fqff, ite_self, implies_true]
    | refine (fqff_each _ _ (fun a s => ?_) _).trans ?_
    | split)

theorem fqff_alogAdd (e : ALog) (s : State) : (alogAdd e s).fqff = s.fqff := by
  unfold alogAdd
  repeat' (first
    | with_reducible rfl
    | simp only [fqff_mk, fqff_fold, ite_fqff, ite_self, implies_true]
    | refine (fqff_each _ _ (fun a s => ?_) _).trans ?_
    | split)

theorem fqff_alogWithdraw (id kind order prio inrush steady : Nat) (s : State) : (alogWithdraw id kind order prio inrush
    steady s).fqff = s.fqff := by
  unfold alogWithdraw
  repeat' (first
    | with_reducible rfl
    | simp only [fqff_mk, fqff_fold, ite_fqff, ite_self, implies_true, fqff_alogAdd]
    | refine (fqff_each _ _ (fun a s => ?_) _).trans ?_
    | split)

theorem fqff_pmbPush (m : Nat) (j : PmbJob) (s : State) : (pmbPush m j s).fqff = s.fqff := by
  unfold pmbPush
  repeat' (first
    | with_reducible rfl
    | simp only [fqff_mk, fqff_fold, ite_fqff, ite_self, implies_true]
    | refine (fqff_each _ _ (fun a s => ?_) _).trans ?_
    | split)

theorem fqff_itemDone (n code : Nat) (s : State) : (itemDone n code s).fqff = s.fqff := by
  unfold itemDone
  repeat' (first
    | with_reducible rfl
    | simp only [fqff_mk, fqff_fold, ite_fqff, ite_self, implies_true, fqff_modProg]
    | refine (fqff_each _ _ (fun a s => ?_) _).trans ?_
    | split)

theorem fqff_marginTell (o : Owner) (code status : Nat) (s : State) : (marginTell o code status s).fqff = s.fqff := by
  unfold marginTell
  repeat' (first
    | with_reducible rfl
    | simp only [fqff_mk, fqff_fold, ite_fqff, ite_self, implies_true, fqff_finish, fqff_itemDone]
    | refine (fqff_each _ _ (fun a s => ?_) _).trans ?_
    | split)

theorem fqff_mdacTarget (k : Nat) (t : Int) (s : State) : (mdacTarget k t s).fqff = s.fqff := by
  unfold mdacTarget
  repeat' (first
    | with_reducible rfl
    | simp only [fqff_mk, fqff_fold, ite_fqff, ite_self, implies_true, fqff_modMdac]
    | refine (fqff_each _ _ (fun a s => ?_) _).trans ?_
    | split)

theorem fqff_pmbNominal (i : Nat) (s : State) : (pmbNominal i s).fqff = s.fqff := by
  unfold pmbNominal
  repeat' (first
    | with_reducible rfl
    | simp only [fqff_mk, fqff_fold, ite_fqff, ite_self, implies_true, fqff_modRail, fqff_pmbPush]
    | refine (fqff_each _ _ (fun a s => ?_) _).trans ?_
    | split)

theorem fqff_marginNominal (i : Nat) (s : State) : (marginNominal i s).fqff = s.fqff := by
  unfold marginNominal
  repeat' (first
    | with_reducible rfl
    | simp only [fqff_mk, fqff_fold, ite_fqff, ite_self, implies_true, fqff_modRail, fqff_commitEnd,
        fqff_mdacTarget, fqff_pmbNominal]
    | refine (fqff_each _ _ (fun a s => ?_) _).trans ?_
    | split)

theorem fqff_marginLeave (i : Nat) (s : State) : (marginLeave i s).fqff = s.fqff := by
  unfold marginLeave
  repeat' (first
    | with_reducible rfl
    | simp only [fqff_mk, fqff_fold, ite_fqff, ite_self, implies_true, fqff_each, fqff_marginNominal,
        fqff_marginTell]
    | refine (fqff_each _ _ (fun a s => ?_) _).trans ?_
    | split)

theorem fqff_cancelRetry (i : Nat) (s : State) : (cancelRetry i s).fqff = s.fqff := by
  unfold cancelRetry
  repeat' (first
    | with_reducible rfl
    | simp only [fqff_mk, fqff_fold, ite_fqff, ite_self, implies_true, fqff_modRail, fqff_alogWithdraw,
        fqff_commitEnd]
    | refine (fqff_each _ _ (fun a s => ?_) _).trans ?_
    | split)

theorem fqff_resumeDrop (i : Nat) (s : State) : (resumeDrop i s).fqff = s.fqff := by
  unfold resumeDrop
  repeat' (first
    | with_reducible rfl
    | simp only [fqff_mk, fqff_fold, ite_fqff, ite_self, implies_true, fqff_modRail, fqff_commitEnd]
    | refine (fqff_each _ _ (fun a s => ?_) _).trans ?_
    | split)

theorem fqff_setRState (i : Nat) (st : RState) (s : State) : (setRState i st s).fqff = s.fqff := by
  unfold setRState
  repeat' (first
    | with_reducible rfl
    | simp only [fqff_mk, fqff_fold, ite_fqff, ite_self, implies_true, fqff_modRail, fqff_cancelRetry,
        fqff_commitEnd, fqff_marginLeave, fqff_resumeDrop]
    | refine (fqff_each _ _ (fun a s => ?_) _).trans ?_
    | split)

theorem fqff_driveEn (i : Nat) (b : Bool) (s : State) : (driveEn i b s).fqff = s.fqff := by
  unfold driveEn
  repeat' (first
    | with_reducible rfl
    | simp only [fqff_mk, fqff_fold, ite_fqff, ite_self, implies_true, fqff_modRail]
    | refine (fqff_each _ _ (fun a s => ?_) _).trans ?_
    | split)

theorem fqff_setEn (i : Nat) (b : Bool) (s : State) : (setEn i b s).fqff = s.fqff := by
  unfold setEn
  repeat' (first
    | with_reducible rfl
    | simp only [fqff_mk, fqff_fold, ite_fqff, ite_self, implies_true, fqff_modRail, fqff_driveEn]
    | refine (fqff_each _ _ (fun a s => ?_) _).trans ?_
    | split)

theorem fqff_leaveHiz (i : Nat) (s : State) : (leaveHiz i s).fqff = s.fqff := by
  unfold leaveHiz
  repeat' (first
    | with_reducible rfl
    | simp only [fqff_mk, fqff_fold, ite_fqff, ite_self, implies_true, fqff_modRail, fqff_setEn, fqff_setRState]
    | refine (fqff_each _ _ (fun a s => ?_) _).trans ?_
    | split)

theorem fqff_foldEnd (i : Nat) (s : State) : (foldEnd i s).fqff = s.fqff := by
  unfold foldEnd
  repeat' (first
    | with_reducible rfl
    | simp only [fqff_mk, fqff_fold, ite_fqff, ite_self, implies_true, fqff_modRail, fqff_leaveHiz]
    | refine (fqff_each _ _ (fun a s => ?_) _).trans ?_
    | split)

theorem fqff_dropRail (i : Nat) (s : State) : (dropRail i s).fqff = s.fqff := by
  unfold dropRail
  repeat' (first
    | with_reducible rfl
    | simp only [fqff_mk, fqff_fold, ite_fqff, ite_self, implies_true, fqff_foldEnd, fqff_setEn, fqff_setRState]
    | refine (fqff_each _ _ (fun a s => ?_) _).trans ?_
    | split)

theorem fqff_withdrawEnable (g : Nat) (f : Fig) (order : Nat) (s : State) : (withdrawEnable g f order s).fqff = s.fqff :=
    by
  unfold withdrawEnable
  repeat' (first
    | with_reducible rfl
    | simp only [fqff_mk, fqff_fold, ite_fqff, ite_self, implies_true, fqff_alogWithdraw, fqff_commitEnd]
    | refine (fqff_each _ _ (fun a s => ?_) _).trans ?_
    | split)

theorem fqff_withdrawStart (m st order : Nat) (s : State) : (withdrawStart m st order s).fqff = s.fqff := by
  unfold withdrawStart
  repeat' (first
    | with_reducible rfl
    | simp only [fqff_mk, fqff_fold, ite_fqff, ite_self, implies_true, fqff_alogWithdraw, fqff_commitEnd]
    | refine (fqff_each _ _ (fun a s => ?_) _).trans ?_
    | split)

theorem fqff_withdrawMargin (m : MOp) (s : State) : (withdrawMargin m s).fqff = s.fqff := by
  unfold withdrawMargin
  repeat' (first
    | with_reducible rfl
    | simp only [fqff_mk, fqff_fold, ite_fqff, ite_self, implies_true, fqff_alogWithdraw, fqff_commitEnd]
    | refine (fqff_each _ _ (fun a s => ?_) _).trans ?_
    | split)

theorem fqff_withdrawItem (it : Item) (s : State) : (withdrawItem it s).fqff = s.fqff := by
  unfold withdrawItem
  repeat' (first
    | with_reducible rfl
    | simp only [fqff_mk, fqff_fold, ite_fqff, ite_self, implies_true, fqff_withdrawEnable, fqff_withdrawStart]
    | refine (fqff_each _ _ (fun a s => ?_) _).trans ?_
    | split)

theorem fqff_withdrawCmd (c : RailCmd) (s : State) : (withdrawCmd c s).fqff = s.fqff := by
  unfold withdrawCmd
  repeat' (first
    | with_reducible rfl
    | simp only [fqff_mk, fqff_fold, ite_fqff, ite_self, implies_true, fqff_withdrawEnable, fqff_withdrawStart]
    | refine (fqff_each _ _ (fun a s => ?_) _).trans ?_
    | split)

theorem fqff_disown (n : Nat) (s : State) : (disown n s).fqff = s.fqff := by
  unfold disown
  repeat' (first
    | with_reducible rfl
    | simp only [fqff_mk, fqff_fold, ite_fqff, ite_self, implies_true, fqff_modStg, fqff_each,
        fqff_withdrawMargin]
    | refine (fqff_each _ _ (fun a s => ?_) _).trans ?_
    | split)

theorem fqff_stopCmds (n : Nat) (s : State) : (stopCmds n s).fqff = s.fqff := by
  unfold stopCmds
  repeat' (first
    | with_reducible rfl
    | simp only [fqff_mk, fqff_fold, ite_fqff, ite_self, implies_true, fqff_each, fqff_withdrawCmd]
    | refine (fqff_each _ _ (fun a s => ?_) _).trans ?_
    | split)

theorem fqff_progEnd (n status step : Nat) (s : State) : (progEnd n status step s).fqff = s.fqff := by
  unfold progEnd
  repeat' (first
    | with_reducible rfl
    | simp only [fqff_mk, fqff_fold, ite_fqff, ite_self, implies_true, fqff_modProg, fqff_disown, fqff_each,
        fqff_stopCmds, fqff_withdrawItem]
    | refine (fqff_each _ _ (fun a s => ?_) _).trans ?_
    | split)

theorem fqff_withdrawRails (l : List Nat) (s : State) : (withdrawRails l s).fqff = s.fqff := by
  unfold withdrawRails
  repeat' (first
    | with_reducible rfl
    | simp only [fqff_mk, fqff_fold, ite_fqff, ite_self, implies_true, fqff_modProg, fqff_modRail,
        fqff_alogWithdraw, fqff_commitEnd, fqff_each, fqff_withdrawCmd, fqff_withdrawItem]
    | refine (fqff_each _ _ (fun a s => ?_) _).trans ?_
    | split)

theorem fqff_cancelRestarts (full : Bool) (l : List Nat) (s : State) : (cancelRestarts full l s).fqff = s.fqff := by
  unfold cancelRestarts
  repeat' (first
    | with_reducible rfl
    | simp only [fqff_mk, fqff_fold, ite_fqff, ite_self, implies_true, fqff_modGrp]
    | refine (fqff_each _ _ (fun a s => ?_) _).trans ?_
    | split)

theorem fqff_fullRunActs (s : State) : (fullRunActs s).fqff = s.fqff := by
  unfold fullRunActs
  repeat' (first
    | with_reducible rfl
    | simp only [fqff_mk, fqff_fold, ite_fqff, ite_self, implies_true, fqff_each, fqff_finishAll, fqff_progEnd]
    | refine (fqff_each _ _ (fun a s => ?_) _).trans ?_
    | split)

theorem fqff_dropResumes (s : State) : (dropResumes s).fqff = s.fqff := by
  unfold dropResumes
  repeat' (first
    | with_reducible rfl
    | simp only [fqff_mk, fqff_fold, ite_fqff, ite_self, implies_true, fqff_modRail, fqff_each]
    | refine (fqff_each _ _ (fun a s => ?_) _).trans ?_
    | split)

theorem fqff_offRequest (src : Nat) (full : Bool) (groups : Nat) (s : State) : (offRequest src full groups s).fqff = s.fqff := by
  unfold offRequest
  repeat' (first
    | with_reducible rfl
    | simp only [fqff_mk, fqff_fold, ite_fqff, ite_self, implies_true, fqff_cancelRestarts, fqff_cancelRetry, fqff_dropResumes, fqff_fullRunActs, fqff_withdrawRails]
    | refine (fqff_each _ _ (fun a s => ?_) _).trans ?_
    | split)

theorem fqff_offGroupFault (groups : Nat) (s : State) : (offGroupFault groups s).fqff = s.fqff := by
  unfold offGroupFault
  repeat' (first
    | with_reducible rfl
    | simp only [fqff_mk, fqff_fold, ite_fqff, ite_self, implies_true, fqff_modGrp, fqff_offRequest]
    | refine (fqff_each _ _ (fun a s => ?_) _).trans ?_
    | split)

theorem fqff_assertSysrst (s : State) : (assertSysrst s).fqff = s.fqff := by
  unfold assertSysrst
  repeat' (first
    | with_reducible rfl
    | simp only [fqff_mk, fqff_fold, ite_fqff, ite_self, implies_true]
    | refine (fqff_each _ _ (fun a s => ?_) _).trans ?_
    | split)

theorem fqff_toMembers (f : Nat → CmdRec) (s : State) : (toMembers f s).fqff = s.fqff := by
  unfold toMembers
  repeat' (first
    | with_reducible rfl
    | simp only [fqff_mk, fqff_fold, ite_fqff, ite_self, implies_true]
    | refine (fqff_each _ _ (fun a s => ?_) _).trans ?_
    | split)

theorem fqff_offRelay (full : Bool) (groups : Nat) (sysrst : Bool) (s : State) : (offRelay full groups sysrst s).fqff =
    s.fqff := by
  unfold offRelay
  repeat' (first
    | with_reducible rfl
    | simp only [fqff_mk, fqff_fold, ite_fqff, ite_self, implies_true, fqff_toMembers]
    | refine (fqff_each _ _ (fun a s => ?_) _).trans ?_
    | split)

theorem fqff_groupReaction (groups : Nat) (s : State) : (groupReaction groups s).fqff = s.fqff := by
  unfold groupReaction
  repeat' (first
    | with_reducible rfl
    | simp only [fqff_mk, fqff_fold, ite_fqff, ite_self, implies_true, fqff_offGroupFault, fqff_offRelay]
    | refine (fqff_each _ _ (fun a s => ?_) _).trans ?_
    | split)

theorem fqff_sysReaction (s : State) : (sysReaction s).fqff = s.fqff := by
  unfold sysReaction
  repeat' (first
    | with_reducible rfl
    | simp only [fqff_mk, fqff_fold, ite_fqff, ite_self, implies_true, fqff_assertSysrst, fqff_offRelay, fqff_offRequest]
    | refine (fqff_each _ _ (fun a s => ?_) _).trans ?_
    | split)

theorem fqff_joinRun (i : Nat) (s : State) : (joinRun i s).fqff = s.fqff := by
  unfold joinRun
  repeat' (first
    | with_reducible rfl
    | simp only [fqff_mk, fqff_fold, ite_fqff, ite_self, implies_true, fqff_cancelRetry]
    | refine (fqff_each _ _ (fun a s => ?_) _).trans ?_
    | split)

theorem fqff_applyDrop (i : Nat) (v : Verdict) (kinds : List Nat) (s : State) : (applyDrop i v kinds s).fqff = s.fqff :=
    by
  unfold applyDrop
  repeat' (first
    | with_reducible rfl
    | simp only [fqff_mk, fqff_fold, ite_fqff, ite_self, implies_true, fqff_modRail, fqff_dropRail,
        fqff_setRState]
    | refine (fqff_each _ _ (fun a s => ?_) _).trans ?_
    | split)

theorem fqff_reactRail (i : Nat) (l : List FQ) (shut : Bool) (s : State) : (reactRail i l shut s).2.fqff = s.fqff := by
  unfold reactRail
  repeat' (first
    | with_reducible rfl
    | simp only [fqff_mk, fqff_fold, ite_fqff, ite_self, implies_true, fqff_modRail, fqff_applyDrop, fqff_groupReaction, fqff_joinRun, fqff_setRState, fqff_sysReaction]
    | refine (fqff_each _ _ (fun a s => ?_) _).trans ?_
    | split)


end Sys2Proof.Machine
end

