-- ==== Sys2Proof/Laws/FrameRails.lean ====
section
/-! SUPPORT. FrameRails.lean: these operations leave the rails alone. -/

set_option linter.all false
set_option linter.unusedSimpArgs false
set_option linter.unreachableTactic false
set_option linter.unusedTactic false
namespace Sys2Proof.Machine

/-- these operations leave the rails alone. -/
def State.onRails (s : State) :=
  (s.rails)

theorem onRails_mk (a b c d e f g h i j k l m n o p q r u v w x y z a1 b1 c1 d1 e1 f1 g1 h1 i1 j1 k1 l1) :
    State.onRails (State.mk a b c d e f g h i j k l m n o p q r u v w x y z a1 b1 c1 d1 e1 f1 g1 h1 i1 j1 k1 l1) =
      (o) := rfl

theorem onRails_fold (s : State) : (s.rails) = s.onRails := rfl

theorem ite_onRails (c : Prop) [Decidable c] (a b : State) :
    State.onRails (if c then a else b) = if c then a.onRails else b.onRails := by split <;> rfl

theorem onRails_each {α : Type} (l : List α) (f : α → State → State) (hf : ∀ a s, (f a s).onRails = s.onRails) (s : State) :
    (each l f s).onRails = s.onRails := by
  unfold each
  induction l generalizing s with
  | nil => rfl
  | cons a l ih => exact (ih _).trans (hf a s)

theorem onRails_foldl {α β : Type} (g : β → State) (f : β → α → β) (hf : ∀ b a, (g (f b a)).onRails = (g b).onRails)
    (l : List α) (b : β) : (g (l.foldl f b)).onRails = (g b).onRails := by
  induction l generalizing b with
  | nil => rfl
  | cons a l ih => exact (ih _).trans (hf b a)

theorem onRails_modMdac (i : Nat) (f : Mdac → Mdac) (s : State) : (State.modMdac i f s).onRails = s.onRails := by
  unfold State.modMdac
  repeat' (first
    | with_reducible rfl
    | simp only [onRails_mk, onRails_fold, ite_onRails, ite_self, implies_true]
    | refine (onRails_each _ _ (fun a s => ?_) _).trans ?_
    | split)

theorem onRails_modStg (i : Nat) (f : Stg → Stg) (s : State) : (State.modStg i f s).onRails = s.onRails := by
  unfold State.modStg
  repeat' (first
    | with_reducible rfl
    | simp only [onRails_mk, onRails_fold, ite_onRails, ite_self, implies_true]
    | refine (onRails_each _ _ (fun a s => ?_) _).trans ?_
    | split)

theorem onRails_modProg (i : Nat) (f : Prog → Prog) (s : State) : (State.modProg i f s).onRails = s.onRails := by
  unfold State.modProg
  repeat' (first
    | with_reducible rfl
    | simp only [onRails_mk, onRails_fold, ite_onRails, ite_self, implies_true]
    | refine (onRails_each _ _ (fun a s => ?_) _).trans ?_
    | split)

theorem onRails_modGrp (i : Nat) (f : Grp → Grp) (s : State) : (State.modGrp i f s).onRails = s.onRails := by
  unfold State.modGrp
  repeat' (first
    | with_reducible rfl
    | simp only [onRails_mk, onRails_fold, ite_onRails, ite_self, implies_true]
    | refine (onRails_each _ _ (fun a s => ?_) _).trans ?_
    | split)

theorem onRails_ashAdd (n : Nat) (s : State) : (ashAdd n s).onRails = s.onRails := by
  unfold ashAdd
  repeat' (first
    | with_reducible rfl
    | simp only [onRails_mk, onRails_fold, ite_onRails, ite_self, implies_true]
    | refine (onRails_each _ _ (fun a s => ?_) _).trans ?_
    | split
    | rfl)

theorem onRails_capture (o : Occ) (s : State) : (capture o s).onRails = s.onRails := by
  unfold capture
  repeat' (first
    | with_reducible rfl
    | simp only [onRails_mk, onRails_fold, ite_onRails, ite_self, implies_true, onRails_ashAdd]
    | refine (onRails_each _ _ (fun a s => ?_) _).trans ?_
    | split
    | rfl)

theorem onRails_raiseCore (o : Occ) (s : State) : (raiseCore o s).onRails = s.onRails := by
  unfold raiseCore
  repeat' (first
    | with_reducible rfl
    | simp only [onRails_mk, onRails_fold, ite_onRails, ite_self, implies_true, onRails_capture]
    | refine (onRails_each _ _ (fun a s => ?_) _).trans ?_
    | split
    | rfl)

theorem onRails_ashEvent (old : Nat) (s : State) : (ashEvent old s).onRails = s.onRails := by
  unfold ashEvent
  repeat' (first
    | with_reducible rfl
    | simp only [onRails_mk, onRails_fold, ite_onRails, ite_self, implies_true, onRails_raiseCore]
    | refine (onRails_each _ _ (fun a s => ?_) _).trans ?_
    | split)

theorem onRails_raiseSev (src sev : Nat) (ts : Ts) (d : BitVec 128) (s : State) : (raiseSev src sev ts d s).onRails = s.onRails :=
    by
  unfold raiseSev
  repeat' (first
    | with_reducible rfl
    | simp only [onRails_mk, onRails_fold, ite_onRails, ite_self, implies_true, onRails_ashEvent, onRails_raiseCore]
    | refine (onRails_each _ _ (fun a s => ?_) _).trans ?_
    | split)

theorem onRails_raise (src : Nat) (ts : Ts) (d : BitVec 128) (s : State) : (raise src ts d s).onRails = s.onRails := by
  unfold raise
  repeat' (first
    | with_reducible rfl
    | simp only [onRails_mk, onRails_fold, ite_onRails, ite_self, implies_true, onRails_raiseSev]
    | refine (onRails_each _ _ (fun a s => ?_) _).trans ?_
    | split)

theorem onRails_wcWritten (struct addr : Nat) (s : State) : (wcWritten struct addr s).onRails = s.onRails := by
  unfold wcWritten
  repeat' (first
    | with_reducible rfl
    | simp only [onRails_mk, onRails_fold, ite_onRails, ite_self, implies_true]
    | refine (onRails_each _ _ (fun a s => ?_) _).trans ?_
    | split)

theorem onRails_finishAt (d q status result : Nat) (s : State) : (finishAt d q status result s).onRails = s.onRails := by
  unfold finishAt
  repeat' (first
    | with_reducible rfl
    | simp only [onRails_mk, onRails_fold, ite_onRails, ite_self, implies_true]
    | refine (onRails_each _ _ (fun a s => ?_) _).trans ?_
    | split)

theorem onRails_finish (q status result : Nat) (s : State) : (finish q status result s).onRails = s.onRails := by
  unfold finish
  repeat' (first
    | with_reducible rfl
    | simp only [onRails_mk, onRails_fold, ite_onRails, ite_self, implies_true, onRails_finishAt]
    | refine (onRails_each _ _ (fun a s => ?_) _).trans ?_
    | split)

theorem onRails_finishAll (w : Wait → Bool) (status result : Nat) (s : State) : (finishAll w status result s).onRails = s.onRails
    := by
  unfold finishAll
  repeat' (first
    | with_reducible rfl
    | simp only [onRails_mk, onRails_fold, ite_onRails, ite_self, implies_true, onRails_each, onRails_finish]
    | refine (onRails_each _ _ (fun a s => ?_) _).trans ?_
    | split)

theorem onRails_finishMid (w : Wait → Bool) (status result : Nat) (s : State) : (finishMid w status result s).onRails = s.onRails
    := by
  unfold finishMid
  repeat' (first
    | with_reducible rfl
    | simp only [onRails_mk, onRails_fold, ite_onRails, ite_self, implies_true, onRails_each, onRails_finishAt]
    | refine (onRails_each _ _ (fun a s => ?_) _).trans ?_
    | split)

theorem onRails_commitEnd (k : CKey) (s : State) : (commitEnd k s).onRails = s.onRails := by
  unfold commitEnd
  repeat' (first
    | with_reducible rfl
    | simp only [onRails_mk, onRails_fold, ite_onRails, ite_self, implies_true]
    | refine (onRails_each _ _ (fun a s => ?_) _).trans ?_
    | split)

theorem onRails_alogAdd (e : ALog) (s : State) : (alogAdd e s).onRails = s.onRails := by
  unfold alogAdd
  repeat' (first
    | with_reducible rfl
    | simp only [onRails_mk, onRails_fold, ite_onRails, ite_self, implies_true]
    | refine (onRails_each _ _ (fun a s => ?_) _).trans ?_
    | split)

theorem onRails_alogWithdraw (id kind order prio inrush steady : Nat) (s : State) : (alogWithdraw id kind order prio inrush
    steady s).onRails = s.onRails := by
  unfold alogWithdraw
  repeat' (first
    | with_reducible rfl
    | simp only [onRails_mk, onRails_fold, ite_onRails, ite_self, implies_true, onRails_alogAdd]
    | refine (onRails_each _ _ (fun a s => ?_) _).trans ?_
    | split)

theorem onRails_pmbPush (m : Nat) (j : PmbJob) (s : State) : (pmbPush m j s).onRails = s.onRails := by
  unfold pmbPush
  repeat' (first
    | with_reducible rfl
    | simp only [onRails_mk, onRails_fold, ite_onRails, ite_self, implies_true]
    | refine (onRails_each _ _ (fun a s => ?_) _).trans ?_
    | split)

theorem onRails_itemDone (n code : Nat) (s : State) : (itemDone n code s).onRails = s.onRails := by
  unfold itemDone
  repeat' (first
    | with_reducible rfl
    | simp only [onRails_mk, onRails_fold, ite_onRails, ite_self, implies_true, onRails_modProg]
    | refine (onRails_each _ _ (fun a s => ?_) _).trans ?_
    | split)

theorem onRails_marginTell (o : Owner) (code status : Nat) (s : State) : (marginTell o code status s).onRails = s.onRails := by
  unfold marginTell
  repeat' (first
    | with_reducible rfl
    | simp only [onRails_mk, onRails_fold, ite_onRails, ite_self, implies_true, onRails_finish, onRails_itemDone]
    | refine (onRails_each _ _ (fun a s => ?_) _).trans ?_
    | split)

theorem onRails_mdacTarget (k : Nat) (t : Int) (s : State) : (mdacTarget k t s).onRails = s.onRails := by
  unfold mdacTarget
  repeat' (first
    | with_reducible rfl
    | simp only [onRails_mk, onRails_fold, ite_onRails, ite_self, implies_true, onRails_modMdac]
    | refine (onRails_each _ _ (fun a s => ?_) _).trans ?_
    | split)

theorem onRails_withdrawEnable (g : Nat) (f : Fig) (order : Nat) (s : State) : (withdrawEnable g f order s).onRails = s.onRails :=
    by
  unfold withdrawEnable
  repeat' (first
    | with_reducible rfl
    | simp only [onRails_mk, onRails_fold, ite_onRails, ite_self, implies_true, onRails_alogWithdraw, onRails_commitEnd]
    | refine (onRails_each _ _ (fun a s => ?_) _).trans ?_
    | split)

theorem onRails_withdrawStart (m st order : Nat) (s : State) : (withdrawStart m st order s).onRails = s.onRails := by
  unfold withdrawStart
  repeat' (first
    | with_reducible rfl
    | simp only [onRails_mk, onRails_fold, ite_onRails, ite_self, implies_true, onRails_alogWithdraw, onRails_commitEnd]
    | refine (onRails_each _ _ (fun a s => ?_) _).trans ?_
    | split)

theorem onRails_withdrawMargin (m : MOp) (s : State) : (withdrawMargin m s).onRails = s.onRails := by
  unfold withdrawMargin
  repeat' (first
    | with_reducible rfl
    | simp only [onRails_mk, onRails_fold, ite_onRails, ite_self, implies_true, onRails_alogWithdraw, onRails_commitEnd]
    | refine (onRails_each _ _ (fun a s => ?_) _).trans ?_
    | split)

theorem onRails_withdrawItem (it : Item) (s : State) : (withdrawItem it s).onRails = s.onRails := by
  unfold withdrawItem
  repeat' (first
    | with_reducible rfl
    | simp only [onRails_mk, onRails_fold, ite_onRails, ite_self, implies_true, onRails_withdrawEnable, onRails_withdrawStart]
    | refine (onRails_each _ _ (fun a s => ?_) _).trans ?_
    | split)

theorem onRails_withdrawCmd (c : RailCmd) (s : State) : (withdrawCmd c s).onRails = s.onRails := by
  unfold withdrawCmd
  repeat' (first
    | with_reducible rfl
    | simp only [onRails_mk, onRails_fold, ite_onRails, ite_self, implies_true, onRails_withdrawEnable, onRails_withdrawStart]
    | refine (onRails_each _ _ (fun a s => ?_) _).trans ?_
    | split)

theorem onRails_disown (n : Nat) (s : State) : (disown n s).onRails = s.onRails := by
  unfold disown
  repeat' (first
    | with_reducible rfl
    | simp only [onRails_mk, onRails_fold, ite_onRails, ite_self, implies_true, onRails_modStg, onRails_each,
        onRails_withdrawMargin]
    | refine (onRails_each _ _ (fun a s => ?_) _).trans ?_
    | split)

theorem onRails_stopCmds (n : Nat) (s : State) : (stopCmds n s).onRails = s.onRails := by
  unfold stopCmds
  repeat' (first
    | with_reducible rfl
    | simp only [onRails_mk, onRails_fold, ite_onRails, ite_self, implies_true, onRails_each, onRails_withdrawCmd]
    | refine (onRails_each _ _ (fun a s => ?_) _).trans ?_
    | split)

theorem onRails_progEnd (n status step : Nat) (s : State) : (progEnd n status step s).onRails = s.onRails := by
  unfold progEnd
  repeat' (first
    | with_reducible rfl
    | simp only [onRails_mk, onRails_fold, ite_onRails, ite_self, implies_true, onRails_modProg, onRails_disown, onRails_each,
        onRails_stopCmds, onRails_withdrawItem]
    | refine (onRails_each _ _ (fun a s => ?_) _).trans ?_
    | split)

theorem onRails_cancelRestarts (full : Bool) (l : List Nat) (s : State) : (cancelRestarts full l s).onRails = s.onRails := by
  unfold cancelRestarts
  repeat' (first
    | with_reducible rfl
    | simp only [onRails_mk, onRails_fold, ite_onRails, ite_self, implies_true, onRails_modGrp, onRails_each]
    | refine (onRails_each _ _ (fun a s => ?_) _).trans ?_
    | split)

theorem onRails_fullRunActs (s : State) : (fullRunActs s).onRails = s.onRails := by
  unfold fullRunActs
  repeat' (first
    | with_reducible rfl
    | simp only [onRails_mk, onRails_fold, ite_onRails, ite_self, implies_true, onRails_each, onRails_finishAll, onRails_progEnd]
    | refine (onRails_each _ _ (fun a s => ?_) _).trans ?_
    | split)

theorem onRails_assertSysrst (s : State) : (assertSysrst s).onRails = s.onRails := by
  unfold assertSysrst
  repeat' (first
    | with_reducible rfl
    | simp only [onRails_mk, onRails_fold, ite_onRails, ite_self, implies_true]
    | refine (onRails_each _ _ (fun a s => ?_) _).trans ?_
    | split)

theorem onRails_toMembers (f : Nat → CmdRec) (s : State) : (toMembers f s).onRails = s.onRails := by
  unfold toMembers
  repeat' (first
    | with_reducible rfl
    | simp only [onRails_mk, onRails_fold, ite_onRails, ite_self, implies_true]
    | refine (onRails_each _ _ (fun a s => ?_) _).trans ?_
    | split)

theorem onRails_offRelay (full : Bool) (groups : Nat) (sysrst : Bool) (s : State) : (offRelay full groups sysrst s).onRails =
    s.onRails := by
  unfold offRelay
  repeat' (first
    | with_reducible rfl
    | simp only [onRails_mk, onRails_fold, ite_onRails, ite_self, implies_true, onRails_toMembers]
    | refine (onRails_each _ _ (fun a s => ?_) _).trans ?_
    | split)

theorem onRails_queueFault (f : FQ) (s : State) : (queueFault f s).onRails = s.onRails := by
  unfold queueFault
  repeat' (first
    | with_reducible rfl
    | simp only [onRails_mk, onRails_fold, ite_onRails, ite_self, implies_true]
    | refine (onRails_each _ _ (fun a s => ?_) _).trans ?_
    | split)

theorem onRails_rowFirst (f : RFF) (s : State) : (rowFirst f s).onRails = s.onRails := by
  unfold rowFirst
  repeat' (first
    | with_reducible rfl
    | simp only [onRails_mk, onRails_fold, ite_onRails, ite_self, implies_true]
    | refine (onRails_each _ _ (fun a s => ?_) _).trans ?_
    | split)

theorem onRails_captureFirst (prims all : List FQ) (s : State) : (captureFirst prims all s).onRails = s.onRails := by
  unfold captureFirst
  repeat' (first
    | with_reducible rfl
    | simp only [onRails_mk, onRails_fold, ite_onRails, ite_self, implies_true, onRails_rowFirst, onRails_wcWritten]
    | refine (onRails_each _ _ (fun a s => ?_) _).trans ?_
    | split)


end Sys2Proof.Machine
end

