-- ==== Sys2Proof/Laws/FrameReact.lean ====
section
/-! SUPPORT. FrameReact.lean: the reaction to faults leaves these parts of the state alone, one lemma per operation. -/

set_option linter.all false
set_option linter.unusedSimpArgs false
set_option linter.unreachableTactic false
set_option linter.unusedTactic false
namespace Sys2Proof.Machine

/-- the reaction to faults leaves these parts of the state alone, one lemma per operation. -/
def State.keepReact (s : State) :=
  (s.pending, s.clk, s.engs, s.ovrStat, s.ovrNow, s.evt, s.recd, s.bar0, s.cfg, s.setup, s.coef, s.banks, s.watches, s.dmp, s.shr, s.inl, s.cnv, s.phases, s.pair, s.nv, s.fw, s.pwr, s.free, s.out)

theorem keepReact_mk (a b c d e f g h i j k l m n o p q r u v w x y z a1 b1 c1 d1 e1 f1 g1 h1 i1 j1 k1 l1) :
    State.keepReact (State.mk a b c d e f g h i j k l m n o p q r u v w x y z a1 b1 c1 d1 e1 f1 g1 h1 i1 j1 k1 l1) =
      (a, b, c, d, e, g, j, k, l, m, n, p, u, z, a1, b1, c1, e1, g1, h1, i1, j1, k1, l1) := rfl

theorem keepReact_fold (s : State) : (s.pending, s.clk, s.engs, s.ovrStat, s.ovrNow, s.evt, s.recd, s.bar0, s.cfg, s.setup, s.coef, s.banks, s.watches, s.dmp, s.shr, s.inl, s.cnv, s.phases, s.pair, s.nv, s.fw, s.pwr, s.free, s.out) = s.keepReact := rfl

theorem ite_keepReact (c : Prop) [Decidable c] (a b : State) :
    State.keepReact (if c then a else b) = if c then a.keepReact else b.keepReact := by split <;> rfl

theorem keepReact_each {α : Type} (l : List α) (f : α → State → State) (hf : ∀ a s, (f a s).keepReact = s.keepReact) (s : State) :
    (each l f s).keepReact = s.keepReact := by
  unfold each
  induction l generalizing s with
  | nil => rfl
  | cons a l ih => exact (ih _).trans (hf a s)

theorem keepReact_foldl {α β : Type} (g : β → State) (f : β → α → β) (hf : ∀ b a, (g (f b a)).keepReact = (g b).keepReact)
    (l : List α) (b : β) : (g (l.foldl f b)).keepReact = (g b).keepReact := by
  induction l generalizing b with
  | nil => rfl
  | cons a l ih => exact (ih _).trans (hf b a)

theorem keepReact_modRail (i : Nat) (f : Rail → Rail) (s : State) : (State.modRail i f s).keepReact = s.keepReact := by
  unfold State.modRail
  repeat' (first
    | with_reducible rfl
    | simp only [keepReact_mk, keepReact_fold, ite_keepReact, ite_self, implies_true]
    | refine (keepReact_each _ _ (fun a s => ?_) _).trans ?_
    | split)

theorem keepReact_modMdac (i : Nat) (f : Mdac → Mdac) (s : State) : (State.modMdac i f s).keepReact = s.keepReact := by
  unfold State.modMdac
  repeat' (first
    | with_reducible rfl
    | simp only [keepReact_mk, keepReact_fold, ite_keepReact, ite_self, implies_true]
    | refine (keepReact_each _ _ (fun a s => ?_) _).trans ?_
    | split)

theorem keepReact_modStg (i : Nat) (f : Stg → Stg) (s : State) : (State.modStg i f s).keepReact = s.keepReact := by
  unfold State.modStg
  repeat' (first
    | with_reducible rfl
    | simp only [keepReact_mk, keepReact_fold, ite_keepReact, ite_self, implies_true]
    | refine (keepReact_each _ _ (fun a s => ?_) _).trans ?_
    | split)

theorem keepReact_modProg (i : Nat) (f : Prog → Prog) (s : State) : (State.modProg i f s).keepReact = s.keepReact := by
  unfold State.modProg
  repeat' (first
    | with_reducible rfl
    | simp only [keepReact_mk, keepReact_fold, ite_keepReact, ite_self, implies_true]
    | refine (keepReact_each _ _ (fun a s => ?_) _).trans ?_
    | split)

theorem keepReact_modGrp (i : Nat) (f : Grp → Grp) (s : State) : (State.modGrp i f s).keepReact = s.keepReact := by
  unfold State.modGrp
  repeat' (first
    | with_reducible rfl
    | simp only [keepReact_mk, keepReact_fold, ite_keepReact, ite_self, implies_true]
    | refine (keepReact_each _ _ (fun a s => ?_) _).trans ?_
    | split)

theorem keepReact_wcWritten (struct addr : Nat) (s : State) : (wcWritten struct addr s).keepReact = s.keepReact := by
  unfold wcWritten
  repeat' (first
    | with_reducible rfl
    | simp only [keepReact_mk, keepReact_fold, ite_keepReact, ite_self, implies_true]
    | refine (keepReact_each _ _ (fun a s => ?_) _).trans ?_
    | split)

theorem keepReact_finishAt (d q status result : Nat) (s : State) : (finishAt d q status result s).keepReact = s.keepReact := by
  unfold finishAt
  repeat' (first
    | with_reducible rfl
    | simp only [keepReact_mk, keepReact_fold, ite_keepReact, ite_self, implies_true]
    | refine (keepReact_each _ _ (fun a s => ?_) _).trans ?_
    | split)

theorem keepReact_finish (q status result : Nat) (s : State) : (finish q status result s).keepReact = s.keepReact := by
  unfold finish
  repeat' (first
    | with_reducible rfl
    | simp only [keepReact_mk, keepReact_fold, ite_keepReact, ite_self, implies_true, keepReact_finishAt]
    | refine (keepReact_each _ _ (fun a s => ?_) _).trans ?_
    | split)

theorem keepReact_finishAll (w : Wait → Bool) (status result : Nat) (s : State) : (finishAll w status result s).keepReact = s.keepReact
    := by
  unfold finishAll
  repeat' (first
    | with_reducible rfl
    | simp only [keepReact_mk, keepReact_fold, ite_keepReact, ite_self, implies_true, keepReact_each, keepReact_finish]
    | refine (keepReact_each _ _ (fun a s => ?_) _).trans ?_
    | split)

theorem keepReact_commitEnd (k : CKey) (s : State) : (commitEnd k s).keepReact = s.keepReact := by
  unfold commitEnd
  repeat' (first
    | with_reducible rfl
    | simp only [keepReact_mk, keepReact_fold, ite_keepReact, ite_self, implies_true]
    | refine (keepReact_each _ _ (fun a s => ?_) _).trans ?_
    | split)

theorem keepReact_alogAdd (e : ALog) (s : State) : (alogAdd e s).keepReact = s.keepReact := by
  unfold alogAdd
  repeat' (first
    | with_reducible rfl
    | simp only [keepReact_mk, keepReact_fold, ite_keepReact, ite_self, implies_true]
    | refine (keepReact_each _ _ (fun a s => ?_) _).trans ?_
    | split)

theorem keepReact_alogWithdraw (id kind order prio inrush steady : Nat) (s : State) : (alogWithdraw id kind order prio inrush
    steady s).keepReact = s.keepReact := by
  unfold alogWithdraw
  repeat' (first
    | with_reducible rfl
    | simp only [keepReact_mk, keepReact_fold, ite_keepReact, ite_self, implies_true, keepReact_alogAdd]
    | refine (keepReact_each _ _ (fun a s => ?_) _).trans ?_
    | split)

theorem keepReact_pmbPush (m : Nat) (j : PmbJob) (s : State) : (pmbPush m j s).keepReact = s.keepReact := by
  unfold pmbPush
  repeat' (first
    | with_reducible rfl
    | simp only [keepReact_mk, keepReact_fold, ite_keepReact, ite_self, implies_true]
    | refine (keepReact_each _ _ (fun a s => ?_) _).trans ?_
    | split)

theorem keepReact_itemDone (n code : Nat) (s : State) : (itemDone n code s).keepReact = s.keepReact := by
  unfold itemDone
  repeat' (first
    | with_reducible rfl
    | simp only [keepReact_mk, keepReact_fold, ite_keepReact, ite_self, implies_true, keepReact_modProg]
    | refine (keepReact_each _ _ (fun a s => ?_) _).trans ?_
    | split)

theorem keepReact_marginTell (o : Owner) (code status : Nat) (s : State) : (marginTell o code status s).keepReact = s.keepReact := by
  unfold marginTell
  repeat' (first
    | with_reducible rfl
    | simp only [keepReact_mk, keepReact_fold, ite_keepReact, ite_self, implies_true, keepReact_finish, keepReact_itemDone]
    | refine (keepReact_each _ _ (fun a s => ?_) _).trans ?_
    | split)

theorem keepReact_mdacTarget (k : Nat) (t : Int) (s : State) : (mdacTarget k t s).keepReact = s.keepReact := by
  unfold mdacTarget
  repeat' (first
    | with_reducible rfl
    | simp only [keepReact_mk, keepReact_fold, ite_keepReact, ite_self, implies_true, keepReact_modMdac]
    | refine (keepReact_each _ _ (fun a s => ?_) _).trans ?_
    | split)

theorem keepReact_pmbNominal (i : Nat) (s : State) : (pmbNominal i s).keepReact = s.keepReact := by
  unfold pmbNominal
  repeat' (first
    | with_reducible rfl
    | simp only [keepReact_mk, keepReact_fold, ite_keepReact, ite_self, implies_true, keepReact_modRail, keepReact_pmbPush]
    | refine (keepReact_each _ _ (fun a s => ?_) _).trans ?_
    | split)

theorem keepReact_marginNominal (i : Nat) (s : State) : (marginNominal i s).keepReact = s.keepReact := by
  unfold marginNominal
  repeat' (first
    | with_reducible rfl
    | simp only [keepReact_mk, keepReact_fold, ite_keepReact, ite_self, implies_true, keepReact_modRail, keepReact_commitEnd,
        keepReact_mdacTarget, keepReact_pmbNominal]
    | refine (keepReact_each _ _ (fun a s => ?_) _).trans ?_
    | split)

theorem keepReact_marginLeave (i : Nat) (s : State) : (marginLeave i s).keepReact = s.keepReact := by
  unfold marginLeave
  repeat' (first
    | with_reducible rfl
    | simp only [keepReact_mk, keepReact_fold, ite_keepReact, ite_self, implies_true, keepReact_each, keepReact_marginNominal,
        keepReact_marginTell]
    | refine (keepReact_each _ _ (fun a s => ?_) _).trans ?_
    | split)

theorem keepReact_cancelRetry (i : Nat) (s : State) : (cancelRetry i s).keepReact = s.keepReact := by
  unfold cancelRetry
  repeat' (first
    | with_reducible rfl
    | simp only [keepReact_mk, keepReact_fold, ite_keepReact, ite_self, implies_true, keepReact_modRail, keepReact_alogWithdraw,
        keepReact_commitEnd]
    | refine (keepReact_each _ _ (fun a s => ?_) _).trans ?_
    | split)

theorem keepReact_resumeDrop (i : Nat) (s : State) : (resumeDrop i s).keepReact = s.keepReact := by
  unfold resumeDrop
  repeat' (first
    | with_reducible rfl
    | simp only [keepReact_mk, keepReact_fold, ite_keepReact, ite_self, implies_true, keepReact_modRail, keepReact_commitEnd]
    | refine (keepReact_each _ _ (fun a s => ?_) _).trans ?_
    | split)

theorem keepReact_setRState (i : Nat) (st : RState) (s : State) : (setRState i st s).keepReact = s.keepReact := by
  unfold setRState
  repeat' (first
    | with_reducible rfl
    | simp only [keepReact_mk, keepReact_fold, ite_keepReact, ite_self, implies_true, keepReact_modRail, keepReact_cancelRetry,
        keepReact_commitEnd, keepReact_marginLeave, keepReact_resumeDrop]
    | refine (keepReact_each _ _ (fun a s => ?_) _).trans ?_
    | split)

theorem keepReact_driveEn (i : Nat) (b : Bool) (s : State) : (driveEn i b s).keepReact = s.keepReact := by
  unfold driveEn
  repeat' (first
    | with_reducible rfl
    | simp only [keepReact_mk, keepReact_fold, ite_keepReact, ite_self, implies_true, keepReact_modRail]
    | refine (keepReact_each _ _ (fun a s => ?_) _).trans ?_
    | split)

theorem keepReact_setEn (i : Nat) (b : Bool) (s : State) : (setEn i b s).keepReact = s.keepReact := by
  unfold setEn
  repeat' (first
    | with_reducible rfl
    | simp only [keepReact_mk, keepReact_fold, ite_keepReact, ite_self, implies_true, keepReact_modRail, keepReact_driveEn]
    | refine (keepReact_each _ _ (fun a s => ?_) _).trans ?_
    | split)

theorem keepReact_leaveHiz (i : Nat) (s : State) : (leaveHiz i s).keepReact = s.keepReact := by
  unfold leaveHiz
  repeat' (first
    | with_reducible rfl
    | simp only [keepReact_mk, keepReact_fold, ite_keepReact, ite_self, implies_true, keepReact_modRail, keepReact_setEn, keepReact_setRState]
    | refine (keepReact_each _ _ (fun a s => ?_) _).trans ?_
    | split)

theorem keepReact_foldEnd (i : Nat) (s : State) : (foldEnd i s).keepReact = s.keepReact := by
  unfold foldEnd
  repeat' (first
    | with_reducible rfl
    | simp only [keepReact_mk, keepReact_fold, ite_keepReact, ite_self, implies_true, keepReact_modRail, keepReact_leaveHiz]
    | refine (keepReact_each _ _ (fun a s => ?_) _).trans ?_
    | split)

theorem keepReact_dropRail (i : Nat) (s : State) : (dropRail i s).keepReact = s.keepReact := by
  unfold dropRail
  repeat' (first
    | with_reducible rfl
    | simp only [keepReact_mk, keepReact_fold, ite_keepReact, ite_self, implies_true, keepReact_foldEnd, keepReact_setEn, keepReact_setRState]
    | refine (keepReact_each _ _ (fun a s => ?_) _).trans ?_
    | split)

theorem keepReact_withdrawEnable (g : Nat) (f : Fig) (order : Nat) (s : State) : (withdrawEnable g f order s).keepReact = s.keepReact :=
    by
  unfold withdrawEnable
  repeat' (first
    | with_reducible rfl
    | simp only [keepReact_mk, keepReact_fold, ite_keepReact, ite_self, implies_true, keepReact_alogWithdraw, keepReact_commitEnd]
    | refine (keepReact_each _ _ (fun a s => ?_) _).trans ?_
    | split)

theorem keepReact_withdrawStart (m st order : Nat) (s : State) : (withdrawStart m st order s).keepReact = s.keepReact := by
  unfold withdrawStart
  repeat' (first
    | with_reducible rfl
    | simp only [keepReact_mk, keepReact_fold, ite_keepReact, ite_self, implies_true, keepReact_alogWithdraw, keepReact_commitEnd]
    | refine (keepReact_each _ _ (fun a s => ?_) _).trans ?_
    | split)

theorem keepReact_withdrawMargin (m : MOp) (s : State) : (withdrawMargin m s).keepReact = s.keepReact := by
  unfold withdrawMargin
  repeat' (first
    | with_reducible rfl
    | simp only [keepReact_mk, keepReact_fold, ite_keepReact, ite_self, implies_true, keepReact_alogWithdraw, keepReact_commitEnd]
    | refine (keepReact_each _ _ (fun a s => ?_) _).trans ?_
    | split)

theorem keepReact_withdrawItem (it : Item) (s : State) : (withdrawItem it s).keepReact = s.keepReact := by
  unfold withdrawItem
  repeat' (first
    | with_reducible rfl
    | simp only [keepReact_mk, keepReact_fold, ite_keepReact, ite_self, implies_true, keepReact_withdrawEnable, keepReact_withdrawStart]
    | refine (keepReact_each _ _ (fun a s => ?_) _).trans ?_
    | split)

theorem keepReact_withdrawCmd (c : RailCmd) (s : State) : (withdrawCmd c s).keepReact = s.keepReact := by
  unfold withdrawCmd
  repeat' (first
    | with_reducible rfl
    | simp only [keepReact_mk, keepReact_fold, ite_keepReact, ite_self, implies_true, keepReact_withdrawEnable, keepReact_withdrawStart]
    | refine (keepReact_each _ _ (fun a s => ?_) _).trans ?_
    | split)

theorem keepReact_disown (n : Nat) (s : State) : (disown n s).keepReact = s.keepReact := by
  unfold disown
  repeat' (first
    | with_reducible rfl
    | simp only [keepReact_mk, keepReact_fold, ite_keepReact, ite_self, implies_true, keepReact_modStg, keepReact_each,
        keepReact_withdrawMargin]
    | refine (keepReact_each _ _ (fun a s => ?_) _).trans ?_
    | split)

theorem keepReact_stopCmds (n : Nat) (s : State) : (stopCmds n s).keepReact = s.keepReact := by
  unfold stopCmds
  repeat' (first
    | with_reducible rfl
    | simp only [keepReact_mk, keepReact_fold, ite_keepReact, ite_self, implies_true, keepReact_each, keepReact_withdrawCmd]
    | refine (keepReact_each _ _ (fun a s => ?_) _).trans ?_
    | split)

theorem keepReact_progEnd (n status step : Nat) (s : State) : (progEnd n status step s).keepReact = s.keepReact := by
  unfold progEnd
  repeat' (first
    | with_reducible rfl
    | simp only [keepReact_mk, keepReact_fold, ite_keepReact, ite_self, implies_true, keepReact_modProg, keepReact_disown, keepReact_each,
        keepReact_stopCmds, keepReact_withdrawItem]
    | refine (keepReact_each _ _ (fun a s => ?_) _).trans ?_
    | split)

theorem keepReact_withdrawRails (l : List Nat) (s : State) : (withdrawRails l s).keepReact = s.keepReact := by
  unfold withdrawRails
  repeat' (first
    | with_reducible rfl
    | simp only [keepReact_mk, keepReact_fold, ite_keepReact, ite_self, implies_true, keepReact_modProg, keepReact_modRail,
        keepReact_alogWithdraw, keepReact_commitEnd, keepReact_each, keepReact_withdrawCmd, keepReact_withdrawItem]
    | refine (keepReact_each _ _ (fun a s => ?_) _).trans ?_
    | split)

theorem keepReact_cancelRestarts (full : Bool) (l : List Nat) (s : State) : (cancelRestarts full l s).keepReact = s.keepReact := by
  unfold cancelRestarts
  repeat' (first
    | with_reducible rfl
    | simp only [keepReact_mk, keepReact_fold, ite_keepReact, ite_self, implies_true, keepReact_modGrp, keepReact_each]
    | refine (keepReact_each _ _ (fun a s => ?_) _).trans ?_
    | split)

theorem keepReact_fullRunActs (s : State) : (fullRunActs s).keepReact = s.keepReact := by
  unfold fullRunActs
  repeat' (first
    | with_reducible rfl
    | simp only [keepReact_mk, keepReact_fold, ite_keepReact, ite_self, implies_true, keepReact_each, keepReact_finishAll, keepReact_progEnd]
    | refine (keepReact_each _ _ (fun a s => ?_) _).trans ?_
    | split)

theorem keepReact_dropResumes (s : State) : (dropResumes s).keepReact = s.keepReact := by
  unfold dropResumes
  repeat' (first
    | with_reducible rfl
    | simp only [keepReact_mk, keepReact_fold, ite_keepReact, ite_self, implies_true, keepReact_modRail, keepReact_each]
    | refine (keepReact_each _ _ (fun a s => ?_) _).trans ?_
    | split)

theorem keepReact_offRequest (src : Nat) (full : Bool) (groups : Nat) (s : State) : (offRequest src full groups s).keepReact =
    s.keepReact := by
  unfold offRequest
  repeat' (first
    | with_reducible rfl
    | simp only [keepReact_mk, keepReact_fold, ite_keepReact, ite_self, implies_true, keepReact_cancelRestarts, keepReact_cancelRetry,
        keepReact_dropResumes, keepReact_each, keepReact_fullRunActs, keepReact_withdrawRails]
    | refine (keepReact_each _ _ (fun a s => ?_) _).trans ?_
    | split)

theorem keepReact_offGroupFault (groups : Nat) (s : State) : (offGroupFault groups s).keepReact = s.keepReact := by
  unfold offGroupFault
  repeat' (first
    | with_reducible rfl
    | simp only [keepReact_mk, keepReact_fold, ite_keepReact, ite_self, implies_true, keepReact_modGrp, keepReact_each, keepReact_offRequest]
    | refine (keepReact_each _ _ (fun a s => ?_) _).trans ?_
    | split)

theorem keepReact_assertSysrst (s : State) : (assertSysrst s).keepReact = s.keepReact := by
  unfold assertSysrst
  repeat' (first
    | with_reducible rfl
    | simp only [keepReact_mk, keepReact_fold, ite_keepReact, ite_self, implies_true]
    | refine (keepReact_each _ _ (fun a s => ?_) _).trans ?_
    | split)

theorem keepReact_toMembers (f : Nat → CmdRec) (s : State) : (toMembers f s).keepReact = s.keepReact := by
  unfold toMembers
  repeat' (first
    | with_reducible rfl
    | simp only [keepReact_mk, keepReact_fold, ite_keepReact, ite_self, implies_true]
    | refine (keepReact_each _ _ (fun a s => ?_) _).trans ?_
    | split)

theorem keepReact_offRelay (full : Bool) (groups : Nat) (sysrst : Bool) (s : State) : (offRelay full groups sysrst s).keepReact =
    s.keepReact := by
  unfold offRelay
  repeat' (first
    | with_reducible rfl
    | simp only [keepReact_mk, keepReact_fold, ite_keepReact, ite_self, implies_true, keepReact_toMembers]
    | refine (keepReact_each _ _ (fun a s => ?_) _).trans ?_
    | split)

theorem keepReact_groupReaction (groups : Nat) (s : State) : (groupReaction groups s).keepReact = s.keepReact := by
  unfold groupReaction
  repeat' (first
    | with_reducible rfl
    | simp only [keepReact_mk, keepReact_fold, ite_keepReact, ite_self, implies_true, keepReact_offGroupFault, keepReact_offRelay]
    | refine (keepReact_each _ _ (fun a s => ?_) _).trans ?_
    | split)

theorem keepReact_sysReaction (s : State) : (sysReaction s).keepReact = s.keepReact := by
  unfold sysReaction
  repeat' (first
    | with_reducible rfl
    | simp only [keepReact_mk, keepReact_fold, ite_keepReact, ite_self, implies_true, keepReact_assertSysrst, keepReact_offRelay,
        keepReact_offRequest]
    | refine (keepReact_each _ _ (fun a s => ?_) _).trans ?_
    | split)

theorem keepReact_joinRun (i : Nat) (s : State) : (joinRun i s).keepReact = s.keepReact := by
  unfold joinRun
  repeat' (first
    | with_reducible rfl
    | simp only [keepReact_mk, keepReact_fold, ite_keepReact, ite_self, implies_true, keepReact_cancelRetry]
    | refine (keepReact_each _ _ (fun a s => ?_) _).trans ?_
    | split)

theorem keepReact_applyDrop (i : Nat) (v : Verdict) (kinds : List Nat) (s : State) : (applyDrop i v kinds s).keepReact = s.keepReact :=
    by
  unfold applyDrop
  repeat' (first
    | with_reducible rfl
    | simp only [keepReact_mk, keepReact_fold, ite_keepReact, ite_self, implies_true, keepReact_modRail, keepReact_dropRail,
        keepReact_setRState]
    | refine (keepReact_each _ _ (fun a s => ?_) _).trans ?_
    | split)

theorem keepReact_reactRail (i : Nat) (l : List FQ) (shut : Bool) (s : State) : (reactRail i l shut s).2.keepReact = s.keepReact := by
  unfold reactRail
  repeat' (first
    | with_reducible rfl
    | simp only [keepReact_mk, keepReact_fold, ite_keepReact, ite_self, implies_true, keepReact_modRail, keepReact_applyDrop,
        keepReact_groupReaction, keepReact_joinRun, keepReact_setRState, keepReact_sysReaction]
    | refine (keepReact_each _ _ (fun a s => ?_) _).trans ?_
    | split)

theorem keepReact_queueFault (f : FQ) (s : State) : (queueFault f s).keepReact = s.keepReact := by
  unfold queueFault
  repeat' (first
    | with_reducible rfl
    | simp only [keepReact_mk, keepReact_fold, ite_keepReact, ite_self, implies_true]
    | refine (keepReact_each _ _ (fun a s => ?_) _).trans ?_
    | split)

theorem keepReact_rowFirst (f : RFF) (s : State) : (rowFirst f s).keepReact = s.keepReact := by
  unfold rowFirst
  repeat' (first
    | with_reducible rfl
    | simp only [keepReact_mk, keepReact_fold, ite_keepReact, ite_self, implies_true]
    | refine (keepReact_each _ _ (fun a s => ?_) _).trans ?_
    | split)

theorem keepReact_captureFirst (prims all : List FQ) (s : State) : (captureFirst prims all s).keepReact = s.keepReact := by
  unfold captureFirst
  repeat' (first
    | with_reducible rfl
    | simp only [keepReact_mk, keepReact_fold, ite_keepReact, ite_self, implies_true, keepReact_rowFirst, keepReact_wcWritten]
    | refine (keepReact_each _ _ (fun a s => ?_) _).trans ?_
    | split)

theorem keepReact_faultLogic (shut : List Nat) (s : State) : (faultLogic shut s).keepReact = s.keepReact := by
  unfold faultLogic
  simp only
  refine (keepReact_captureFirst _ _ _).trans ((keepReact_each _ _ keepReact_queueFault _).trans ?_)
  exact keepReact_foldl (fun x : List FQ × List FQ × State => x.2.2) _ (fun p i => keepReact_reactRail _ _ _ _) _ _

theorem keepReact_reactNow (s : State) : (reactNow s).keepReact = s.keepReact := by
  unfold reactNow
  repeat' (first
    | with_reducible rfl
    | simp only [keepReact_mk, keepReact_fold, ite_keepReact, ite_self, implies_true, keepReact_faultLogic]
    | refine (keepReact_each _ _ (fun a s => ?_) _).trans ?_
    | split)


end Sys2Proof.Machine
end

