-- ==== Sys2Proof/Laws/Rails.lean ====
section
/-! SUPPORT. Laws/Rails.lean: what the rail state machine can do to a rail: the state it enters, and everything else about
the rail, and every other rail, as before. -/

set_option linter.all false

namespace Sys2Proof.Machine

/-- The parts of a rail that entering a state leaves alone (R65, R73, R89, R115, R148). -/
def Rail.pins (r : Rail) : Rail := { r with
  st := .unused, rest := 0, fold := false, offGood := 0, deadline := none, retryCnt := 0, escalated := false
  margin := 0, marginPmb := false, marginHold := false, marginDac := none, retryPend := false, backoff := 0, retry := none
  resume := none }

/-- The parts that ending a margin, a retry or a resume leaves alone. -/
def Rail.core (r : Rail) : Rail := { r with
  margin := 0, marginPmb := false, marginHold := false, marginDac := none, retryPend := false, backoff := 0, retry := none
  resume := none }

theorem rails_rail {s t : State} (h : t.rails = s.rails) (j : Nat) : t.rail j = s.rail j := by
  unfold State.rail; rw [h]

theorem onRails_rail {s t : State} (h : t.onRails = s.onRails) (j : Nat) : t.rail j = s.rail j := rails_rail h j

theorem marginNominal_ne (i : Nat) (s : State) {j : Nat} (h : j ≠ i) : (marginNominal i s).rail j = s.rail j := by
  unfold marginNominal
  simp only
  split <;> split <;> simp [commitEnd, pmbNominal, pmbPush, mdacTarget, State.rail, State.modRail, State.modMdac, tget_tmod_ne, h]

theorem marginNominal_core (i : Nat) (s : State) : ((marginNominal i s).rail i).core = (s.rail i).core := by
  unfold marginNominal
  simp only
  split <;> split <;> simp [commitEnd, pmbNominal, pmbPush, mdacTarget, State.rail, State.modRail, State.modMdac, Rail.core]

theorem marginLeave_ne (i : Nat) (s : State) {j : Nat} (h : j ≠ i) : (marginLeave i s).rail j = s.rail j := by
  unfold marginLeave
  simp only
  rw [marginNominal_ne i _ h]
  refine onRails_rail ((onRails_each _ _ (fun a s => onRails_marginTell _ _ _ _) _).trans ?_) j
  rfl

theorem marginLeave_core (i : Nat) (s : State) : ((marginLeave i s).rail i).core = (s.rail i).core := by
  unfold marginLeave
  simp only
  rw [marginNominal_core i]
  refine congrArg Rail.core (onRails_rail ((onRails_each _ _ (fun a s => onRails_marginTell _ _ _ _) _).trans ?_) i)
  rfl

theorem commitEnd_rail (k : CKey) (s : State) (j : Nat) : (commitEnd k s).rail j = s.rail j := rfl

/-- A retry ends with at most a commitment, an entry of the admission log, and the rail's own fields. -/
theorem cancelRetry_eq (i : Nat) (s : State) : ∃ u : State, u.onRails = s.onRails ∧
    cancelRetry i s = u.modRail i fun r => { r with retryPend := false, backoff := 0, retry := none } := by
  unfold cancelRetry
  simp only
  split
  · split
    · refine ⟨_, ?_, rfl⟩
      exact onRails_alogWithdraw _ _ _ _ _ _ _
    · exact ⟨_, rfl, rfl⟩
  · exact ⟨_, rfl, rfl⟩

theorem cancelRetry_ne (i : Nat) (s : State) {j : Nat} (h : j ≠ i) : (cancelRetry i s).rail j = s.rail j := by
  obtain ⟨u, hu, e⟩ := cancelRetry_eq i s
  rw [e, State.modRail_rail, if_neg h, onRails_rail hu]

theorem cancelRetry_core (i : Nat) (s : State) : ((cancelRetry i s).rail i).core = (s.rail i).core := by
  obtain ⟨u, hu, e⟩ := cancelRetry_eq i s
  rw [e, State.modRail_rail_same, onRails_rail hu]
  rfl

/-- A resume dropped: at most a commitment ends, and the rail's candidate goes. -/
theorem resumeDrop_eq (i : Nat) (s : State) : ∃ u : State, u.onRails = s.onRails ∧
    resumeDrop i s = u.modRail i fun r => { r with resume := none } := by
  unfold resumeDrop
  simp only
  split
  · split
    · refine ⟨_, ?_, rfl⟩
      rfl
    · exact ⟨_, rfl, rfl⟩
  · exact ⟨_, rfl, rfl⟩

theorem resumeDrop_ne (i : Nat) (s : State) {j : Nat} (h : j ≠ i) : (resumeDrop i s).rail j = s.rail j := by
  obtain ⟨u, hu, e⟩ := resumeDrop_eq i s
  rw [e, State.modRail_rail, if_neg h, onRails_rail hu]

theorem resumeDrop_core (i : Nat) (s : State) : ((resumeDrop i s).rail i).core = (s.rail i).core := by
  obtain ⟨u, hu, e⟩ := resumeDrop_eq i s
  rw [e, State.modRail_rail_same, onRails_rail hu]
  rfl

/-- Entering a state leaves every other rail alone. -/
theorem setRState_ne (i : Nat) (st : RState) (s : State) {j : Nat} (h : j ≠ i) : (setRState i st s).rail j = s.rail j := by
  unfold setRState
  simp only
  repeat' (first
    | rfl
    | (rw [cancelRetry_ne _ _ h])
    | (rw [resumeDrop_ne _ _ h])
    | (rw [commitEnd_rail])
    | (rw [marginLeave_ne _ _ h])
    | (simp only [State.modRail_rail, if_neg h])
    | split)

theorem Rail.of_core {β : Type} {r q : Rail} (h : r.core = q.core) (f : Rail → β) (hf : ∀ x : Rail, f x.core = f x) :
    f r = f q := by rw [← hf r, h, hf]

theorem Rail.of_pins {β : Type} {r q : Rail} (h : r.pins = q.pins) (f : Rail → β) (hf : ∀ x : Rail, f x.pins = f x) :
    f r = f q := by rw [← hf r, h, hf]

theorem setRState_core (i : Nat) (st : RState) (s : State) (h : (s.rail i).st ≠ st) :
    ((setRState i st s).rail i).core = Rail.core { s.rail i with
      st := st
      rest := if (s.rail i).st.resting && st.resting then (s.rail i).rest else 0
      fold := if st = .off then false else (s.rail i).fold
      offGood := 0
      deadline := if st.live && st ≠ .on then (s.rail i).deadline else none
      retryCnt := if st = .off && ((s.rail i).st.live || (s.rail i).st = .releasing) then 0 else (s.rail i).retryCnt
      escalated := if st = .off && ((s.rail i).st.live || (s.rail i).st = .releasing) then false else (s.rail i).escalated } := by
  unfold setRState
  simp only [h, if_false]
  repeat' (first
    | (rw [cancelRetry_core])
    | (rw [resumeDrop_core])
    | (rw [commitEnd_rail])
    | (rw [marginLeave_core])
    | (rw [State.modRail_rail_same])
    | split)

/-- The rail is in the state it enters. -/
@[simp] theorem setRState_st (i : Nat) (st : RState) (s : State) : ((setRState i st s).rail i).st = st := by
  by_cases h : (s.rail i).st = st
  · unfold setRState; simp [h]
  · exact Rail.of_core (setRState_core i st s h) Rail.st (fun _ => rfl)

/-- What entering a state leaves alone. -/
theorem setRState_pins (i : Nat) (st : RState) (s : State) : ((setRState i st s).rail i).pins = (s.rail i).pins := by
  by_cases h : (s.rail i).st = st
  · unfold setRState; simp [h]
  · exact Rail.of_core (setRState_core i st s h) Rail.pins (fun _ => rfl)

@[simp] theorem setRState_en (i : Nat) (st : RState) (s : State) : ((setRState i st s).rail i).en = (s.rail i).en :=
  Rail.of_pins (setRState_pins i st s) Rail.en (fun _ => rfl)
@[simp] theorem setRState_enBall (i : Nat) (st : RState) (s : State) : ((setRState i st s).rail i).enBall = (s.rail i).enBall :=
  Rail.of_pins (setRState_pins i st s) Rail.enBall (fun _ => rfl)
@[simp] theorem setRState_enQ (i : Nat) (st : RState) (s : State) : ((setRState i st s).rail i).enQ = (s.rail i).enQ :=
  Rail.of_pins (setRState_pins i st s) Rail.enQ (fun _ => rfl)
@[simp] theorem setRState_db (i : Nat) (st : RState) (s : State) : ((setRState i st s).rail i).db = (s.rail i).db :=
  Rail.of_pins (setRState_pins i st s) Rail.db (fun _ => rfl)
@[simp] theorem setRState_lastKind (i : Nat) (st : RState) (s : State) :
    ((setRState i st s).rail i).lastKind = (s.rail i).lastKind := Rail.of_pins (setRState_pins i st s) Rail.lastKind (fun _ => rfl)

/-- A fold-back survives every state but OFF. -/
theorem setRState_fold (i : Nat) (st : RState) (s : State) (h : st ≠ .off) :
    ((setRState i st s).rail i).fold = (s.rail i).fold := by
  by_cases e : (s.rail i).st = st
  · unfold setRState; simp [e]
  · refine (Rail.of_core (setRState_core i st s e) Rail.fold (fun _ => rfl)).trans ?_
    simp [h]

theorem driveEn_ne (i : Nat) (b : Bool) (s : State) {j : Nat} (h : j ≠ i) : (driveEn i b s).rail j = s.rail j := by
  unfold driveEn
  split
  · rfl
  · simp [h]

theorem driveEn_rail (i : Nat) (b : Bool) (s : State) : (driveEn i b s).rail i = if (s.rail i).enBall = b then s.rail i else
    { s.rail i with enBall := b, blank := fld (s.rcfg i) 10 8, mis := 0, misIlim := 0, rbDone := false, assist := false
                    offTicks := if b then (s.rail i).offTicks else 0 } := by
  unfold driveEn
  split
  · rfl
  · simp

/-- An EN command in two parts: EN_CMD, then the ball, two boundaries later with PAIR (R67, R345). -/
theorem setEn_eq (i : Nat) (b : Bool) (s : State) (h : (s.rail i).en ≠ b) : ∃ u, (∀ j, j ≠ i → u.rail j = s.rail j) ∧
    u.rail i = { s.rail i with en := b, offTicks := if b then (s.rail i).offTicks else 0 } ∧
    setEn i b s = if s.isPairRail i then u.modRail i fun r => { r with enQ := r.enQ ++ [(2, b)] } else driveEn i b u :=
  ⟨s.modRail i fun r => { r with en := b, offTicks := if b then r.offTicks else 0 },
    fun j hj => by simp [hj], by simp, by unfold setEn; rw [if_neg h]; rfl⟩

theorem setEn_same (i : Nat) (b : Bool) (s : State) (h : (s.rail i).en = b) : setEn i b s = s := by
  unfold setEn; rw [if_pos h]

theorem setEn_ne (i : Nat) (b : Bool) (s : State) {j : Nat} (h : j ≠ i) : (setEn i b s).rail j = s.rail j := by
  by_cases e : (s.rail i).en = b
  · rw [setEn_same i b s e]
  · obtain ⟨u, h1, -, h3⟩ := setEn_eq i b s e
    rw [h3, ← h1 j h]
    split
    · simp [h]
    · exact driveEn_ne _ _ _ h

/-- Everything of a rail that EN commands leave alone: all but EN, its ball, and the readback and rest counts they restart. -/
def Rail.mind (r : Rail) : Rail := { r with
  en := false, enBall := false, enQ := [], blank := 0, mis := 0, misIlim := 0, rbDone := false, assist := false, offTicks := 0 }

theorem Rail.of_mind {β : Type} {r q : Rail} (h : r.mind = q.mind) (f : Rail → β) (hf : ∀ x : Rail, f x.mind = f x) :
    f r = f q := by rw [← hf r, h, hf]

theorem setEn_mind (i : Nat) (b : Bool) (s : State) : ((setEn i b s).rail i).mind = (s.rail i).mind := by
  by_cases e : (s.rail i).en = b
  · rw [setEn_same i b s e]
  · obtain ⟨u, -, h2, h3⟩ := setEn_eq i b s e
    have h4 : (u.rail i).mind = (s.rail i).mind := by rw [h2]; rfl
    rw [h3, ← h4]
    split
    · rw [State.modRail_rail_same]; rfl
    · rw [driveEn_rail]
      split <;> rfl

/-- EN_CMD takes the level commanded (R67). -/
@[simp] theorem setEn_en (i : Nat) (b : Bool) (s : State) : ((setEn i b s).rail i).en = b := by
  by_cases e : (s.rail i).en = b
  · rw [setEn_same i b s e]; exact e
  · obtain ⟨u, -, h2, h3⟩ := setEn_eq i b s e
    have h4 : (u.rail i).en = b := by rw [h2]
    rw [h3]
    split
    · rw [State.modRail_rail_same]; exact h4
    · rw [driveEn_rail]
      split <;> exact h4

@[simp] theorem setEn_st (i : Nat) (b : Bool) (s : State) : ((setEn i b s).rail i).st = (s.rail i).st :=
  Rail.of_mind (setEn_mind i b s) Rail.st (fun _ => rfl)
@[simp] theorem setEn_db (i : Nat) (b : Bool) (s : State) : ((setEn i b s).rail i).db = (s.rail i).db :=
  Rail.of_mind (setEn_mind i b s) Rail.db (fun _ => rfl)
@[simp] theorem setEn_fold (i : Nat) (b : Bool) (s : State) : ((setEn i b s).rail i).fold = (s.rail i).fold :=
  Rail.of_mind (setEn_mind i b s) Rail.fold (fun _ => rfl)
@[simp] theorem setEn_lastKind (i : Nat) (b : Bool) (s : State) : ((setEn i b s).rail i).lastKind = (s.rail i).lastKind :=
  Rail.of_mind (setEn_mind i b s) Rail.lastKind (fun _ => rfl)

/-- On a rail without PAIR the ball follows at once (R67). -/
theorem setEn_enBall (i : Nat) (b : Bool) (s : State) (h : s.isPairRail i = false) (e : (s.rail i).enBall = (s.rail i).en) :
    ((setEn i b s).rail i).enBall = b := by
  by_cases e' : (s.rail i).en = b
  · rw [setEn_same i b s e', e]; exact e'
  · obtain ⟨u, -, -, h3⟩ := setEn_eq i b s e'
    rw [h3, h, if_neg (by simp), driveEn_rail]
    split
    · assumption
    · rfl

theorem leaveHiz_ne (i : Nat) (s : State) {j : Nat} (h : j ≠ i) : (leaveHiz i s).rail j = s.rail j := by
  unfold leaveHiz
  simp only
  split
  · rw [setRState_ne _ _ _ h, setEn_ne _ _ _ h]; simp [h]
  · rw [setRState_ne _ _ _ h, setEn_ne _ _ _ h]; simp [h]

theorem foldEnd_ne (i : Nat) (s : State) {j : Nat} (h : j ≠ i) : (foldEnd i s).rail j = s.rail j := by
  unfold foldEnd
  simp only
  split
  · simp [h]
  · rw [leaveHiz_ne _ _ h]; simp [h]

theorem dropRail_ne (i : Nat) (s : State) {j : Nat} (h : j ≠ i) : (dropRail i s).rail j = s.rail j := by
  unfold dropRail
  simp only
  split
  · rfl
  · split
    · split
      · exact foldEnd_ne _ _ h
      · rfl
    · rw [setRState_ne _ _ _ h]; exact setEn_ne _ _ _ h

/-- A used rail outside HIZ whose EN a fault drops is FAULTED, EN not asserted (R73, R140). -/
theorem dropRail_st (i : Nat) (s : State) (hu : (s.rail i).st ≠ .unused) (hz : (s.rail i).st ≠ .hiz) :
    ((dropRail i s).rail i).st = .faulted ∧ ((dropRail i s).rail i).en = false := by
  unfold dropRail
  simp [hu, hz]

/-- A rail in HIZ that something other than its fold-back holds there stays in HIZ when a fault drops it (R65, R73). -/
theorem dropRail_hiz (i : Nat) (s : State) (hz : (s.rail i).st = .hiz) (hh : s.pwr.xrst = true ∨ s.vioOk i = false) :
    ((dropRail i s).rail i).st = .hiz := by
  unfold dropRail foldEnd
  simp only [hz]
  rw [if_neg (by decide), if_pos trivial]
  split
  · rw [if_pos]
    · simp [hz]
    · unfold State.hizHeld
      rcases hh with h | h
      · have : (s.modRail i fun r => { r with foldOff := true }).pwr.xrst = true := h
        rw [this]; rfl
      · have : (s.modRail i fun r => { r with foldOff := true }).vioOk i = false := h
        rw [this]; simp
  · exact hz

theorem toHiz_ne (i : Nat) (s : State) {j : Nat} (h : j ≠ i) : (toHiz i s).rail j = s.rail j := by
  unfold toHiz
  split
  · rfl
  · simp only
    rw [setRState_ne _ _ _ h]; simp [h]

/-- HIZ: the driver is high impedance, EN not asserted (R62, R65, R73). -/
theorem toHiz_rail (i : Nat) (s : State) (h : (s.rail i).st ≠ .unused) :
    ((toHiz i s).rail i).st = .hiz ∧ ((toHiz i s).rail i).en = false ∧ ((toHiz i s).rail i).enBall = false ∧
      ((toHiz i s).rail i).fold = (s.rail i).fold := by
  unfold toHiz
  simp only [h, if_false]
  refine ⟨by simp, by simp, by simp, ?_⟩
  rw [setRState_fold _ _ _ (by simp)]
  simp

end Sys2Proof.Machine
end

