-- ==== Sys2Proof/Laws/Faults.lean ====
section
/-! SUPPORT. Laws/Faults.lean: what the fault logic does with one fault found: its entry in the queue, the first-fault capture. -/

set_option linter.all false

namespace Sys2Proof.Machine

/-- With nothing found the fault logic only empties the list it reads. -/
theorem faultLogic_nil (shut : List Nat) (s : State) (h : s.flt.found = []) : faultLogic shut s = s := by
  have e : (railList.filter fun i => (s.flt.found).any (·.rail = i)) = [] := by simp [h]
  have e2 : { s with flt := { s.flt with found := [] } } = s := by rw [← h]
  unfold faultLogic
  simp only [e, e2, List.foldl_nil, each]
  unfold captureFirst
  split <;> rfl

theorem railList_one {i : Nat} (h : i < 96) (p : Nat → Bool) (hp : ∀ j, p j = decide (i = j)) : railList.filter p = [i] := by
  have e : p = fun j => decide (i = j) := funext hp
  subst e
  have : ∀ i, i < 96 → railList.filter (fun j => decide (i = j)) = [i] := by decide
  exact this i h

/-- One fault found: its rail reacts, the fault enters the queue, then the capture (R138 to R144, R159). -/
theorem faultLogic_one (shut : List Nat) (s : State) (f : FQ) (h : s.flt.found = [f]) (hr : f.rail < 96) :
    faultLogic shut s =
      (let r := reactRail f.rail [f] (shut.contains f.rail) { s with flt := { s.flt with found := [] } }
      captureFirst [reported r.1] r.1 (queueFault (reported r.1) r.2)) := by
  have e : (railList.filter fun i => ([f] : List FQ).any fun x => decide (x.rail = i)) = [f.rail] :=
    railList_one hr _ (fun j => by simp)
  have e2 : ([f] : List FQ).filter (fun x => decide (x.rail = f.rail)) = [f] := by simp
  unfold faultLogic
  simp only [h, e, List.foldl_cons, List.foldl_nil, e2, each, inCaptureOrder, List.nil_append]

theorem reactRail_one (i : Nat) (f : FQ) (shut : Bool) (s : State) :
    ∃ q, (reactRail i [f] shut s).1 = [q] ∧ q.rail = f.rail ∧ q.kind = f.kind ∧ q.dir = f.dir ∧ q.onset = f.onset ∧
      q.det = f.det ∧ q.mult = f.mult := by
  unfold reactRail
  extract_lets
  split <;> exact ⟨_, rfl, rfl, rfl, rfl, rfl, rfl, rfl⟩

theorem reported_one (q : FQ) : reported [q] = { q with more := [] } := by
  simp [reported]

@[simp] theorem rowFirst_flt (f : RFF) (s : State) : (rowFirst f s).flt = s.flt := by
  unfold rowFirst
  cases s.sca.rff with
  | none => rfl
  | some h =>
    simp only
    repeat' (first | rfl | split)

theorem captureFirst_queue (p a : List FQ) (s : State) : (captureFirst p a s).flt.queue = s.flt.queue := by
  unfold captureFirst
  split
  · rfl
  · split
    · rfl
    · extract_lets
      rw [rowFirst_flt]
      rfl

/-- One fault: it is captured where no first fault is held (R159). -/
theorem captureFirst_one (q : FQ) (a : List FQ) (s : State) :
    match s.flt.ff with
    | some c => (captureFirst [q] a s).flt.ff = some c
    | none => ∃ c, (captureFirst [q] a s).flt.ff = some c ∧ c.f = q := by
  unfold captureFirst
  cases hs : s.flt.ff with
  | some c => simp only [Option.isSome_some, if_true]; exact hs
  | none =>
    simp only [Option.isSome_none, Bool.false_eq_true, if_false, rowFirst_flt]
    exact ⟨_, rfl, rfl⟩

/-- The fault of rail i: a new entry at the end of the queue and, where none is held, the first-fault capture. -/
theorem faultLogic_taken (shut : List Nat) (s : State) (f : FQ) (h : s.flt.found = [f]) (hr : f.rail < 96)
    (hq : ∀ q ∈ s.flt.queue, ¬(q.rail = f.rail ∧ q.kind = f.kind)) :
    ∃ q, (faultLogic shut s).flt.queue = s.flt.queue ++ [q] ∧ q.rail = f.rail ∧ q.kind = f.kind ∧ q.dir = f.dir ∧
      q.onset = f.onset ∧ q.det = f.det ∧ q.mult = f.mult ∧
      (match s.flt.ff with
      | some c => (faultLogic shut s).flt.ff = some c
      | none => ∃ c, (faultLogic shut s).flt.ff = some c ∧ c.f = q) := by
  rw [faultLogic_one shut s f h hr]
  obtain ⟨q, h1, h2⟩ := reactRail_one f.rail f (shut.contains f.rail) { s with flt := { s.flt with found := [] } }
  have hk := fqff_reactRail f.rail [f] (shut.contains f.rail) { s with flt := { s.flt with found := [] } }
  simp only [h1, reported_one]
  generalize (reactRail f.rail [f] (shut.contains f.rail) { s with flt := { s.flt with found := [] } }).2 = u at hk
  have hu1 : u.flt.queue = s.flt.queue := congrArg Prod.fst hk
  have hu2 : u.flt.ff = s.flt.ff := congrArg Prod.snd hk
  have hn : (u.flt.queue.find? fun x => decide (x.rail = q.rail) && decide (x.kind = q.kind)) = none := by
    rw [hu1, List.find?_eq_none]
    intro x hx
    rw [h2.1, h2.2.1]
    simpa using hq x hx
  refine ⟨{ q with more := [] }, ?_, h2.1, h2.2.1, h2.2.2.1, h2.2.2.2.1, h2.2.2.2.2.1, h2.2.2.2.2.2, ?_⟩
  · rw [captureFirst_queue]
    unfold queueFault
    simp only [hn]
    rw [hu1]
  · have hc := captureFirst_one { q with more := [] } [q] (queueFault { q with more := [] } u)
    have hf : (queueFault { q with more := [] } u).flt.ff = s.flt.ff := by
      rw [← hu2]; unfold queueFault; simp only [hn]
    rw [hf] at hc
    exact hc

theorem detect_flt (k : Nat) (dir : Bool) (o : Ts) (i : Nat) (s : State) : (detect k dir o i s).flt =
    { s.flt with found := s.flt.found ++ [{ rail := i, kind := k, dir := dir, onset := o, det := s.clk.frame }] } := by
  unfold detect
  extract_lets t
  have h1 : t.flt = s.flt := by simp only [t]; split <;> rfl
  have h2 : t.clk = s.clk := by simp only [t]; split <;> rfl
  show ({ t.flt with found := t.flt.found ++ [({ rail := i, kind := k, dir := dir, onset := o, det := t.clk.frame } : FQ)] } : Flt) = _
  rw [h1, h2]

/-- A fault found alone on a rail of the part is taken (R138, R144, R159). -/
theorem reactNow_detect (k : Nat) (dir : Bool) (o : Ts) (i : Nat) (s u : State) (hi : i < 96) (hw : NoFaultWaiting i k s)
    (hf : u.flt = s.flt) (hc : u.clk = s.clk) : FaultTaken i k dir o s (reactNow (detect k dir o i u)) := by
  have h1 : (detect k dir o i u).flt.found = [{ rail := i, kind := k, dir := dir, onset := o, det := s.clk.frame }] := by
    rw [detect_flt, hf, hc, hw.1]; rfl
  have h2 : (detect k dir o i u).flt.queue = s.flt.queue := by rw [detect_flt, hf]
  have h3 : (detect k dir o i u).flt.ff = s.flt.ff := by rw [detect_flt, hf]
  have h := faultLogic_taken (if (detect k dir o i u).off.run then (detect k dir o i u).off.set else []) _ _ h1 hi
    (by rw [h2]; exact hw.2)
  rw [h2, h3] at h
  exact h

theorem reactNow_nil (s : State) (h : s.flt.found = []) : reactNow s = s := faultLogic_nil _ s h

end Sys2Proof.Machine
end

