-- ==== Sys2Proof/Laws/Hiz.lean ====
section
/-! SUPPORT. Laws/Hiz.lean: a rail that its supply or XRST_IN# holds in HIZ stays in HIZ through every reaction
(R62, R73, R140). -/

set_option linter.all false

namespace Sys2Proof.Machine

/-- Something other than a fold-back of its own holds rail i in HIZ (R62, R73). -/
def State.heldOut (s : State) (i : Nat) : Bool := s.pwr.xrst || !s.vioOk i

/-- From s to t nothing that reactions leave alone changes, and a rail held in HIZ stays there. -/
def HizKept (s t : State) : Prop :=
  t.keepReact = s.keepReact ∧ ∀ i, s.heldOut i = true → (s.rail i).st = .hiz → (t.rail i).st = .hiz

theorem heldOut_of {s t : State} (h : t.keepReact = s.keepReact) (i : Nat) : t.heldOut i = s.heldOut i := by
  have hb : t.banks = s.banks := by
    unfold State.keepReact at h; exact congrArg (fun x => x.2.2.2.2.2.2.2.2.2.2.2.1) h
  have hp : t.pwr = s.pwr := by
    unfold State.keepReact at h; exact congrArg (fun x => x.2.2.2.2.2.2.2.2.2.2.2.2.2.2.2.2.2.2.2.2.2.1) h
  unfold State.heldOut State.vioOk State.bank
  rw [hb, hp]

theorem HizKept.refl (s : State) : HizKept s s := ⟨rfl, fun _ _ h => h⟩

theorem HizKept.trans {s t u : State} (h : HizKept s t) (g : HizKept t u) : HizKept s u :=
  ⟨g.1.trans h.1, fun i hh hz => g.2 i (by rw [heldOut_of h.1]; exact hh) (h.2 i hh hz)⟩

theorem HizKept.of_onRails {s t : State} (k : t.keepReact = s.keepReact) (h : t.onRails = s.onRails) : HizKept s t :=
  ⟨k, fun i _ hz => by rw [onRails_rail h i]; exact hz⟩

/-- A step on one rail: the others as before, and the rail itself still in HIZ where it was held there. -/
theorem HizKept.of_rail {s t : State} (i : Nat) (k : t.keepReact = s.keepReact) (hn : ∀ j, j ≠ i → t.rail j = s.rail j)
    (hi : s.heldOut i = true → (s.rail i).st = .hiz → (t.rail i).st = .hiz) : HizKept s t :=
  ⟨k, fun j hh hz => by
    by_cases h : j = i
    · subst h; exact hi hh hz
    · rw [hn j h]; exact hz⟩

theorem HizKept.each {α : Type} (l : List α) (f : α → State → State) (hf : ∀ a s, HizKept s (f a s)) (s : State) :
    HizKept s (each l f s) := by
  unfold Sys2Proof.Machine.each
  induction l generalizing s with
  | nil => exact .refl s
  | cons a l ih => exact (hf a s).trans (ih _)

theorem kept_modRail (i : Nat) (f : Rail → Rail) (s : State) (hf : ∀ r, (f r).st = r.st) : HizKept s (s.modRail i f) :=
  .of_rail i (keepReact_modRail _ _ _) (fun j hj => by rw [State.modRail_rail, if_neg hj])
    (fun _ hz => by rw [State.modRail_rail_same, hf]; exact hz)

theorem kept_cancelRetry (i : Nat) (s : State) : HizKept s (cancelRetry i s) :=
  .of_rail i (keepReact_cancelRetry _ _) (fun j hj => cancelRetry_ne i s hj) (fun _ hz => by
    have h : ((cancelRetry i s).rail i).st = (s.rail i).st := Rail.of_core (cancelRetry_core i s) Rail.st (fun _ => rfl)
    rw [h]; exact hz)

theorem kept_dropRail (i : Nat) (s : State) : HizKept s (dropRail i s) :=
  .of_rail i (keepReact_dropRail _ _) (fun j hj => dropRail_ne i s hj) (fun hh hz =>
    dropRail_hiz i s hz (by
      unfold State.heldOut at hh
      simpa using hh))

theorem kept_setRState (i : Nat) (st : RState) (s : State) (h : (s.rail i).st ≠ .hiz) : HizKept s (setRState i st s) :=
  .of_rail i (keepReact_setRState _ _ _) (fun j hj => setRState_ne i st s hj) (fun _ hz => absurd hz h)

theorem kept_applyDrop (i : Nat) (v : Verdict) (k : List Nat) (s : State) : HizKept s (applyDrop i v k s) := by
  unfold applyDrop
  simp only
  split
  · split
    · exact (kept_dropRail i s).trans (kept_modRail _ _ _ (fun _ => rfl))
    · exact kept_dropRail i s
  · split
    · exact kept_dropRail i s
    · split
      · next h =>
        simp only [Bool.and_eq_true, decide_eq_true_eq] at h
        exact kept_setRState _ _ _ (by rw [h.2]; decide)
      · exact .refl s

theorem kept_withdrawRails (l : List Nat) (s : State) : HizKept s (withdrawRails l s) := by
  unfold withdrawRails
  extract_lets g s1 s2 mine
  have h1 : HizKept s s1 := .each _ _ (fun n s => .of_onRails
      (by split
          · exact (keepReact_modProg _ _ _).trans (keepReact_each _ _ (fun a s => keepReact_withdrawItem a s) _)
          · rfl)
      (by split
          · exact (onRails_modProg _ _ _).trans (onRails_each _ _ (fun a s => onRails_withdrawItem a s) _)
          · rfl)) _
  have h2 : HizKept s1 s2 := .each _ _ (fun i s => by
    refine (kept_modRail i (fun r => { r with resume := none }) s (fun _ => rfl)).trans ?_
    exact .of_onRails ((keepReact_alogWithdraw _ _ _ _ _ _ _).trans (keepReact_commitEnd _ _))
      ((onRails_alogWithdraw _ _ _ _ _ _ _).trans (onRails_commitEnd _ _))) _
  refine (h1.trans h2).trans ?_
  exact .of_onRails ((keepReact_each _ _ (fun a s => keepReact_withdrawCmd a s) _).trans rfl)
    ((onRails_each _ _ (fun a s => onRails_withdrawCmd a s) _).trans rfl)

theorem kept_dropResumes (s : State) : HizKept s (dropResumes s) := by
  unfold dropResumes
  split
  · refine .each _ _ (fun i s => ?_) _
    refine kept_modRail _ _ _ ?_
    exact fun _ => rfl
  · exact .refl s

theorem kept_offRequest (src : Nat) (full : Bool) (g : Nat) (s : State) : HizKept s (offRequest src full g s) := by
  unfold offRequest
  split
  · exact .of_onRails rfl rfl
  · extract_lets l s1 s2 s3 rel held s4 wf q o s5
    have h1 : HizKept s s1 := kept_withdrawRails _ _
    have h2 : HizKept s1 s2 := .of_onRails (keepReact_cancelRestarts _ _ _) (onRails_cancelRestarts _ _ _)
    have h3 : HizKept s2 s3 := kept_dropResumes _
    have h4 : HizKept s3 s4 := .each _ _ (fun i s => kept_cancelRetry i s) _
    have h5 : HizKept s s5 := (((h1.trans h2).trans h3).trans h4).trans (.of_onRails rfl rfl)
    split
    · exact h5.trans (.of_onRails (keepReact_fullRunActs _) (onRails_fullRunActs _))
    · exact h5

theorem kept_groupReaction (g : Nat) (s : State) : HizKept s (groupReaction g s) := by
  unfold groupReaction offGroupFault
  refine HizKept.trans ?_ (.of_onRails (keepReact_offRelay _ _ _ _) (onRails_offRelay _ _ _ _))
  split
  · exact kept_offRequest _ _ _ _
  · exact (kept_offRequest _ _ _ _).trans
      (.each _ _ (fun n s => .of_onRails (keepReact_modGrp _ _ _) (onRails_modGrp _ _ _)) _)

theorem kept_sysReaction (s : State) : HizKept s (sysReaction s) := by
  unfold sysReaction
  simp only
  have h1 : HizKept s (assertSysrst s) := .of_onRails (keepReact_assertSysrst _) (onRails_assertSysrst _)
  refine (h1.trans (kept_offRequest 1 true 0 _)).trans ?_
  generalize offRequest 1 true 0 (assertSysrst s) = t
  exact .of_onRails ((keepReact_offRelay _ _ _ _).trans rfl) ((onRails_offRelay _ _ _ _).trans rfl)

theorem kept_joinRun (i : Nat) (s : State) : HizKept s (joinRun i s) := by
  unfold joinRun
  split
  · simp only
    split
    · exact kept_cancelRetry i s
    · exact (kept_cancelRetry i s).trans (.of_onRails rfl rfl)
  · exact .refl s

/-- A reaction keeps a held rail in HIZ. -/
theorem kept_reactRail (i : Nat) (l : List FQ) (shut : Bool) (s : State) : HizKept s (reactRail i l shut s).2 := by
  unfold reactRail
  extract_lets w r kinds m vio held v fill prim s1 s2 s3 s4
  have h1 : HizKept s s1 := kept_modRail _ _ _ (fun _ => rfl)
  have h2 : HizKept s s2 := h1.trans (kept_applyDrop _ _ _ _)
  have h3 : HizKept s s3 := by
    simp only [s3]
    split
    · exact h2.trans (kept_modRail _ _ _ (fun _ => rfl))
    · exact h2
  have h4 : HizKept s s4 := by
    simp only [s4]
    split
    · exact (h3.trans (kept_groupReaction _ _)).trans (kept_joinRun _ _)
    · split
      · exact (h3.trans (kept_sysReaction _)).trans (kept_joinRun _ _)
      · exact h3
  split
  · split
    · next h =>
      simp only [Bool.and_eq_true, decide_eq_true_eq] at h
      refine h1.trans (kept_setRState _ _ _ ?_)
      have e : (s1.rail i).st = r.st := by simp only [s1]; rw [State.modRail_rail_same]
      rw [e, h.2]; decide
    · exact h1
  · exact h4

/-- The reaction to all that was found keeps every rail in HIZ that its supply or XRST_IN# holds there. -/
theorem kept_reactNow (s : State) : HizKept s (reactNow s) := by
  refine ⟨keepReact_reactNow s, ?_⟩
  have hk : HizKept s (reactNow s) := by
    unfold reactNow faultLogic
    extract_lets l q s1 rails p
    have h0 : HizKept s s1 := .of_onRails rfl rfl
    have h : ∀ (k : List Nat) (q : List FQ × List FQ × State), HizKept s q.2.2 →
        HizKept s (k.foldl (fun (p : List FQ × List FQ × State) i =>
          let mine := l.filter fun f => f.rail = i
          let r := reactRail i mine (s.runSet.contains i) p.2.2
          (inCaptureOrder (reported r.1) p.1, p.2.1 ++ r.1, r.2)) q).2.2 := by
      intro k
      induction k with
      | nil => intro q hq; exact hq
      | cons a k ih => intro q hq; exact ih _ (hq.trans (kept_reactRail _ _ _ _))
    have hp : HizKept s p.2.2 := h rails ([], [], s1) h0
    have hq : HizKept s (Sys2Proof.Machine.each p.1 queueFault p.2.2) :=
      hp.trans (.each _ _ (fun f s => .of_onRails (keepReact_queueFault f s) (onRails_queueFault f s)) _)
    exact hq.trans (.of_onRails (keepReact_captureFirst _ _ _) (onRails_captureFirst _ _ _))
  exact hk.2

end Sys2Proof.Machine
end

