-- ==== Sys2Proof/Laws/Each.lean ====
section
/-! SUPPORT. Laws/Each.lean: what a pass over a list keeps, and what it does to one rail. -/

set_option linter.all false

namespace Sys2Proof.Machine

/-- A pass keeps what each of its steps keeps. -/
theorem each_keep {α β : Type} (P : State → β) {f : α → State → State} (hf : ∀ a s, P (f a s) = P s) (l : List α) (s : State) :
    P (each l f s) = P s := by
  unfold each
  induction l generalizing s with
  | nil => rfl
  | cons a l ih => exact (ih _).trans (hf a s)

/-- A pass leaves a rail it does not visit alone. -/
theorem each_rail_not {f : Nat → State → State} (hne : ∀ i s j, j ≠ i → (f i s).rail j = s.rail j) (l : List Nat) (s : State)
    (j : Nat) (h : j ∉ l) : (each l f s).rail j = s.rail j := by
  unfold each
  induction l generalizing s with
  | nil => rfl
  | cons a l ih =>
    rw [List.foldl_cons, ih _ (fun e => h (List.mem_cons_of_mem _ e))]
    exact hne _ _ _ (fun e => h (e ▸ List.mem_cons_self ..))

/-- A pass does to a rail what its own step does, from a state that keeps what the other steps keep. -/
theorem each_rail_mem {f : Nat → State → State} (hne : ∀ i s j, j ≠ i → (f i s).rail j = s.rail j) (l : List Nat) (hl : l.Nodup)
    (s : State) (P : State → Prop) (hP : ∀ i s, P s → P (f i s)) (h0 : P s) (i : Nat) (hi : i ∈ l) :
    ∃ u, P u ∧ u.rail i = s.rail i ∧ (each l f s).rail i = (f i u).rail i := by
  induction l generalizing s with
  | nil => cases hi
  | cons a l ih =>
    rw [List.nodup_cons] at hl
    by_cases e : i = a
    · subst e
      exact ⟨s, h0, rfl, each_rail_not hne l (f i s) i hl.1⟩
    · have hm : i ∈ l := by simpa [e] using hi
      obtain ⟨u, h1, h2, h3⟩ := ih hl.2 (f a s) (hP a s h0) hm
      exact ⟨u, h1, h2.trans (hne a s i e), h3⟩

theorem bank_mem {i b : Nat} (hi : i < 96) (h : bankOf i = b) : i ∈ bankRails b := by
  unfold bankOf at h; unfold bankRails
  rw [List.mem_map]
  refine ⟨i - 48 * b, ?_, ?_⟩
  · rw [List.mem_range]; omega
  · omega

theorem bank_nodup (b : Nat) : (bankRails b).Nodup := by
  unfold bankRails
  exact List.Nodup.map (fun a c h => by simpa using h) List.nodup_range

theorem bank_not {i b : Nat} (h : bankOf i ≠ b) : i ∉ bankRails b := by
  unfold bankOf at h; unfold bankRails
  rw [List.mem_map]
  rintro ⟨a, h1, h2⟩
  rw [List.mem_range] at h1
  apply h; omega

theorem banks_bank {s t : State} (h : t.banks = s.banks) (b : Nat) : t.bank b = s.bank b := by unfold State.bank; rw [h]
theorem cfg_cf {s t : State} (h : t.cfg = s.cfg) (k a b : Nat) : t.cf k a b = s.cf k a b := by unfold State.cf State.cw; rw [h]
theorem cfg_cw {s t : State} (h : t.cfg = s.cfg) (k : Nat) : t.cw k = s.cw k := by unfold State.cw; rw [h]

theorem keepReact_pending_of {s t : State} (h : t.keepReact = s.keepReact) : t.pending = s.pending := by
  unfold State.keepReact at h; exact congrArg (fun x => x.1) h

theorem keepReact_clk_of {s t : State} (h : t.keepReact = s.keepReact) : t.clk = s.clk := by
  unfold State.keepReact at h; exact congrArg (fun x => x.2.1) h

theorem keepReact_engs_of {s t : State} (h : t.keepReact = s.keepReact) : t.engs = s.engs := by
  unfold State.keepReact at h; exact congrArg (fun x => x.2.2.1) h

theorem keepReact_ovrStat_of {s t : State} (h : t.keepReact = s.keepReact) : t.ovrStat = s.ovrStat := by
  unfold State.keepReact at h; exact congrArg (fun x => x.2.2.2.1) h

theorem keepReact_ovrNow_of {s t : State} (h : t.keepReact = s.keepReact) : t.ovrNow = s.ovrNow := by
  unfold State.keepReact at h; exact congrArg (fun x => x.2.2.2.2.1) h

theorem keepReact_evt_of {s t : State} (h : t.keepReact = s.keepReact) : t.evt = s.evt := by
  unfold State.keepReact at h; exact congrArg (fun x => x.2.2.2.2.2.1) h

theorem keepReact_recd_of {s t : State} (h : t.keepReact = s.keepReact) : t.recd = s.recd := by
  unfold State.keepReact at h; exact congrArg (fun x => x.2.2.2.2.2.2.1) h

theorem keepReact_bar0_of {s t : State} (h : t.keepReact = s.keepReact) : t.bar0 = s.bar0 := by
  unfold State.keepReact at h; exact congrArg (fun x => x.2.2.2.2.2.2.2.1) h

theorem keepReact_cfg_of {s t : State} (h : t.keepReact = s.keepReact) : t.cfg = s.cfg := by
  unfold State.keepReact at h; exact congrArg (fun x => x.2.2.2.2.2.2.2.2.1) h

theorem keepReact_setup_of {s t : State} (h : t.keepReact = s.keepReact) : t.setup = s.setup := by
  unfold State.keepReact at h; exact congrArg (fun x => x.2.2.2.2.2.2.2.2.2.1) h

theorem keepReact_coef_of {s t : State} (h : t.keepReact = s.keepReact) : t.coef = s.coef := by
  unfold State.keepReact at h; exact congrArg (fun x => x.2.2.2.2.2.2.2.2.2.2.1) h

theorem keepReact_banks_of {s t : State} (h : t.keepReact = s.keepReact) : t.banks = s.banks := by
  unfold State.keepReact at h; exact congrArg (fun x => x.2.2.2.2.2.2.2.2.2.2.2.1) h

theorem keepReact_watches_of {s t : State} (h : t.keepReact = s.keepReact) : t.watches = s.watches := by
  unfold State.keepReact at h; exact congrArg (fun x => x.2.2.2.2.2.2.2.2.2.2.2.2.1) h

theorem keepReact_dmp_of {s t : State} (h : t.keepReact = s.keepReact) : t.dmp = s.dmp := by
  unfold State.keepReact at h; exact congrArg (fun x => x.2.2.2.2.2.2.2.2.2.2.2.2.2.1) h

theorem keepReact_shr_of {s t : State} (h : t.keepReact = s.keepReact) : t.shr = s.shr := by
  unfold State.keepReact at h; exact congrArg (fun x => x.2.2.2.2.2.2.2.2.2.2.2.2.2.2.1) h

theorem keepReact_inl_of {s t : State} (h : t.keepReact = s.keepReact) : t.inl = s.inl := by
  unfold State.keepReact at h; exact congrArg (fun x => x.2.2.2.2.2.2.2.2.2.2.2.2.2.2.2.1) h

theorem keepReact_cnv_of {s t : State} (h : t.keepReact = s.keepReact) : t.cnv = s.cnv := by
  unfold State.keepReact at h; exact congrArg (fun x => x.2.2.2.2.2.2.2.2.2.2.2.2.2.2.2.2.1) h

theorem keepReact_phases_of {s t : State} (h : t.keepReact = s.keepReact) : t.phases = s.phases := by
  unfold State.keepReact at h; exact congrArg (fun x => x.2.2.2.2.2.2.2.2.2.2.2.2.2.2.2.2.2.1) h

theorem keepReact_pair_of {s t : State} (h : t.keepReact = s.keepReact) : t.pair = s.pair := by
  unfold State.keepReact at h; exact congrArg (fun x => x.2.2.2.2.2.2.2.2.2.2.2.2.2.2.2.2.2.2.1) h

theorem keepReact_nv_of {s t : State} (h : t.keepReact = s.keepReact) : t.nv = s.nv := by
  unfold State.keepReact at h; exact congrArg (fun x => x.2.2.2.2.2.2.2.2.2.2.2.2.2.2.2.2.2.2.2.1) h

theorem keepReact_fw_of {s t : State} (h : t.keepReact = s.keepReact) : t.fw = s.fw := by
  unfold State.keepReact at h; exact congrArg (fun x => x.2.2.2.2.2.2.2.2.2.2.2.2.2.2.2.2.2.2.2.2.1) h

theorem keepReact_pwr_of {s t : State} (h : t.keepReact = s.keepReact) : t.pwr = s.pwr := by
  unfold State.keepReact at h; exact congrArg (fun x => x.2.2.2.2.2.2.2.2.2.2.2.2.2.2.2.2.2.2.2.2.2.1) h

theorem keepReact_free_of {s t : State} (h : t.keepReact = s.keepReact) : t.free = s.free := by
  unfold State.keepReact at h; exact congrArg (fun x => x.2.2.2.2.2.2.2.2.2.2.2.2.2.2.2.2.2.2.2.2.2.2.1) h

theorem keepReact_out_of {s t : State} (h : t.keepReact = s.keepReact) : t.out = s.out := by
  unfold State.keepReact at h; exact congrArg (fun x => x.2.2.2.2.2.2.2.2.2.2.2.2.2.2.2.2.2.2.2.2.2.2.2) h

theorem EventsOnly.pending {s t : State} (h : EventsOnly s t) : t.pending = s.pending := by unfold EventsOnly at h; rw [← h]
theorem EventsOnly.clk {s t : State} (h : EventsOnly s t) : t.clk = s.clk := by unfold EventsOnly at h; rw [← h]
theorem EventsOnly.engs {s t : State} (h : EventsOnly s t) : t.engs = s.engs := by unfold EventsOnly at h; rw [← h]
theorem EventsOnly.ovrStat {s t : State} (h : EventsOnly s t) : t.ovrStat = s.ovrStat := by unfold EventsOnly at h; rw [← h]
theorem EventsOnly.ovrNow {s t : State} (h : EventsOnly s t) : t.ovrNow = s.ovrNow := by unfold EventsOnly at h; rw [← h]
theorem EventsOnly.wc {s t : State} (h : EventsOnly s t) : t.wc = s.wc := by unfold EventsOnly at h; rw [← h]
theorem EventsOnly.jrn {s t : State} (h : EventsOnly s t) : t.jrn = s.jrn := by unfold EventsOnly at h; rw [← h]
theorem EventsOnly.bar0 {s t : State} (h : EventsOnly s t) : t.bar0 = s.bar0 := by unfold EventsOnly at h; rw [← h]
theorem EventsOnly.cfg {s t : State} (h : EventsOnly s t) : t.cfg = s.cfg := by unfold EventsOnly at h; rw [← h]
theorem EventsOnly.setup {s t : State} (h : EventsOnly s t) : t.setup = s.setup := by unfold EventsOnly at h; rw [← h]
theorem EventsOnly.coef {s t : State} (h : EventsOnly s t) : t.coef = s.coef := by unfold EventsOnly at h; rw [← h]
theorem EventsOnly.rails {s t : State} (h : EventsOnly s t) : t.rails = s.rails := by unfold EventsOnly at h; rw [← h]
theorem EventsOnly.banks {s t : State} (h : EventsOnly s t) : t.banks = s.banks := by unfold EventsOnly at h; rw [← h]
theorem EventsOnly.mdacs {s t : State} (h : EventsOnly s t) : t.mdacs = s.mdacs := by unfold EventsOnly at h; rw [← h]
theorem EventsOnly.pmb {s t : State} (h : EventsOnly s t) : t.pmb = s.pmb := by unfold EventsOnly at h; rw [← h]
theorem EventsOnly.watches {s t : State} (h : EventsOnly s t) : t.watches = s.watches := by unfold EventsOnly at h; rw [← h]
theorem EventsOnly.seq {s t : State} (h : EventsOnly s t) : t.seq = s.seq := by unfold EventsOnly at h; rw [← h]
theorem EventsOnly.off {s t : State} (h : EventsOnly s t) : t.off = s.off := by unfold EventsOnly at h; rw [← h]
theorem EventsOnly.flt {s t : State} (h : EventsOnly s t) : t.flt = s.flt := by unfold EventsOnly at h; rw [← h]
theorem EventsOnly.drt {s t : State} (h : EventsOnly s t) : t.drt = s.drt := by unfold EventsOnly at h; rw [← h]
theorem EventsOnly.dmp {s t : State} (h : EventsOnly s t) : t.dmp = s.dmp := by unfold EventsOnly at h; rw [← h]
theorem EventsOnly.shr {s t : State} (h : EventsOnly s t) : t.shr = s.shr := by unfold EventsOnly at h; rw [← h]
theorem EventsOnly.inl {s t : State} (h : EventsOnly s t) : t.inl = s.inl := by unfold EventsOnly at h; rw [← h]
theorem EventsOnly.cnv {s t : State} (h : EventsOnly s t) : t.cnv = s.cnv := by unfold EventsOnly at h; rw [← h]
theorem EventsOnly.stgs {s t : State} (h : EventsOnly s t) : t.stgs = s.stgs := by unfold EventsOnly at h; rw [← h]
theorem EventsOnly.phases {s t : State} (h : EventsOnly s t) : t.phases = s.phases := by unfold EventsOnly at h; rw [← h]
theorem EventsOnly.sca {s t : State} (h : EventsOnly s t) : t.sca = s.sca := by unfold EventsOnly at h; rw [← h]
theorem EventsOnly.pair {s t : State} (h : EventsOnly s t) : t.pair = s.pair := by unfold EventsOnly at h; rw [← h]
theorem EventsOnly.fw {s t : State} (h : EventsOnly s t) : t.fw = s.fw := by unfold EventsOnly at h; rw [← h]
theorem EventsOnly.pwr {s t : State} (h : EventsOnly s t) : t.pwr = s.pwr := by unfold EventsOnly at h; rw [← h]
theorem EventsOnly.free {s t : State} (h : EventsOnly s t) : t.free = s.free := by unfold EventsOnly at h; rw [← h]
theorem EventsOnly.out {s t : State} (h : EventsOnly s t) : t.out = s.out := by unfold EventsOnly at h; rw [← h]

end Sys2Proof.Machine
end

