-- ==== Sys2Proof/Laws/FrameParts.lean ====
section
/-! SUPPORT. FrameParts.lean: parts of the state with the fields that events touch blanked out, for the frame lemmas. -/

namespace Sys2Proof.Machine

def Clk.noFrame (c : Clk) : Clk := { c with frame := 0 }
def Hst.noDvec (h : Hst) : Hst := { h with dvec := [] }
def Nv.noRevertdue (n : Nv) : Nv := { n with revertDue := false }
def Recd.noCapt (r : Recd) : Recd := { r with queue := [], ash := 0 }

end Sys2Proof.Machine
end

