-- ==== Sys2Proof/Laws/FrameCmd.lean ====
section
/-! SUPPORT. FrameCmd.lean: the operations behind host commands leave the state outside that family's own parts as it is,
one lemma per operation (the frame statements go through these). -/

set_option linter.all false
set_option linter.unusedSimpArgs false
set_option linter.unreachableTactic false
set_option linter.unusedTactic false
namespace Sys2Proof.Machine

/-- What no command of this family touches. -/
def State.keepCmd (s : State) :=
  (s.pending, s.clk.noFrame, s.ovrStat, s.ovrNow, s.watches, s.dmp, s.shr, s.inl, s.free)

theorem keepCmd_mk (a b c d e f g h i j k l m n o p q r u v w x y z a1 b1 c1 d1 e1 f1 g1 h1 i1 j1 k1 l1) :
    State.keepCmd (State.mk a b c d e f g h i j k l m n o p q r u v w x y z a1 b1 c1 d1 e1 f1 g1 h1 i1 j1 k1 l1) =
      (a, b.noFrame, d, e, u, z, a1, b1, k1) := rfl

theorem keepCmd_fold (s : State) : (s.pending, s.clk.noFrame, s.ovrStat, s.ovrNow, s.watches, s.dmp, s.shr, s.inl, s.free) = s.keepCmd := rfl

theorem ite_keepCmd (c : Prop) [Decidable c] (a b : State) :
    State.keepCmd (if c then a else b) = if c then a.keepCmd else b.keepCmd := by split <;> rfl

theorem keepCmd_each {α : Type} (l : List α) (f : α → State → State) (hf : ∀ a s, (f a s).keepCmd = s.keepCmd) (s : State) :
    (each l f s).keepCmd = s.keepCmd := by
  unfold each
  induction l generalizing s with
  | nil => rfl
  | cons a l ih => exact (ih _).trans (hf a s)

theorem keepCmd_foldl {α β : Type} (g : β → State) (f : β → α → β) (hf : ∀ b a, (g (f b a)).keepCmd = (g b).keepCmd)
    (l : List α) (b : β) : (g (l.foldl f b)).keepCmd = (g b).keepCmd := by
  induction l generalizing b with
  | nil => rfl
  | cons a l ih => exact (ih _).trans (hf b a)

theorem keepCmd_modEng (i : Nat) (f : Eng → Eng) (s : State) : (State.modEng i f s).keepCmd = s.keepCmd := by
  unfold State.modEng
  repeat' (first
    | with_reducible rfl
    | simp only [keepCmd_mk, keepCmd_fold, ite_keepCmd, ite_self, implies_true]
    | refine (keepCmd_each _ _ (fun a s => ?_) _).trans ?_
    | split)

theorem keepCmd_modRail (i : Nat) (f : Rail → Rail) (s : State) : (State.modRail i f s).keepCmd = s.keepCmd := by
  unfold State.modRail
  repeat' (first
    | with_reducible rfl
    | simp only [keepCmd_mk, keepCmd_fold, ite_keepCmd, ite_self, implies_true]
    | refine (keepCmd_each _ _ (fun a s => ?_) _).trans ?_
    | split)

theorem keepCmd_modBank (i : Nat) (f : Bank → Bank) (s : State) : (State.modBank i f s).keepCmd = s.keepCmd := by
  unfold State.modBank
  repeat' (first
    | with_reducible rfl
    | simp only [keepCmd_mk, keepCmd_fold, ite_keepCmd, ite_self, implies_true]
    | refine (keepCmd_each _ _ (fun a s => ?_) _).trans ?_
    | split)

theorem keepCmd_modMdac (i : Nat) (f : Mdac → Mdac) (s : State) : (State.modMdac i f s).keepCmd = s.keepCmd := by
  unfold State.modMdac
  repeat' (first
    | with_reducible rfl
    | simp only [keepCmd_mk, keepCmd_fold, ite_keepCmd, ite_self, implies_true]
    | refine (keepCmd_each _ _ (fun a s => ?_) _).trans ?_
    | split)

theorem keepCmd_modStg (i : Nat) (f : Stg → Stg) (s : State) : (State.modStg i f s).keepCmd = s.keepCmd := by
  unfold State.modStg
  repeat' (first
    | with_reducible rfl
    | simp only [keepCmd_mk, keepCmd_fold, ite_keepCmd, ite_self, implies_true]
    | refine (keepCmd_each _ _ (fun a s => ?_) _).trans ?_
    | split)

theorem keepCmd_modPhase (i : Nat) (f : Phase → Phase) (s : State) : (State.modPhase i f s).keepCmd = s.keepCmd := by
  unfold State.modPhase
  repeat' (first
    | with_reducible rfl
    | simp only [keepCmd_mk, keepCmd_fold, ite_keepCmd, ite_self, implies_true]
    | refine (keepCmd_each _ _ (fun a s => ?_) _).trans ?_
    | split)

theorem keepCmd_modRing (i : Nat) (f : Ring → Ring) (s : State) : (State.modRing i f s).keepCmd = s.keepCmd := by
  unfold State.modRing
  repeat' (first
    | with_reducible rfl
    | simp only [keepCmd_mk, keepCmd_fold, ite_keepCmd, ite_self, implies_true]
    | refine (keepCmd_each _ _ (fun a s => ?_) _).trans ?_
    | split)

theorem keepCmd_modProg (i : Nat) (f : Prog → Prog) (s : State) : (State.modProg i f s).keepCmd = s.keepCmd := by
  unfold State.modProg
  repeat' (first
    | with_reducible rfl
    | simp only [keepCmd_mk, keepCmd_fold, ite_keepCmd, ite_self, implies_true]
    | refine (keepCmd_each _ _ (fun a s => ?_) _).trans ?_
    | split)

theorem keepCmd_modGrp (i : Nat) (f : Grp → Grp) (s : State) : (State.modGrp i f s).keepCmd = s.keepCmd := by
  unfold State.modGrp
  repeat' (first
    | with_reducible rfl
    | simp only [keepCmd_mk, keepCmd_fold, ite_keepCmd, ite_self, implies_true]
    | refine (keepCmd_each _ _ (fun a s => ?_) _).trans ?_
    | split)

theorem keepCmd_modCore (i : Nat) (f : ACore → ACore) (s : State) : (State.modCore i f s).keepCmd = s.keepCmd := by
  unfold State.modCore
  repeat' (first
    | with_reducible rfl
    | simp only [keepCmd_mk, keepCmd_fold, ite_keepCmd, ite_self, implies_true]
    | refine (keepCmd_each _ _ (fun a s => ?_) _).trans ?_
    | split)

theorem keepCmd_modRefm (i : Nat) (f : RefMon → RefMon) (s : State) : (State.modRefm i f s).keepCmd = s.keepCmd := by
  unfold State.modRefm
  repeat' (first
    | with_reducible rfl
    | simp only [keepCmd_mk, keepCmd_fold, ite_keepCmd, ite_self, implies_true]
    | refine (keepCmd_each _ _ (fun a s => ?_) _).trans ?_
    | split)

theorem keepCmd_modPort (i : Nat) (f : Port → Port) (s : State) : (State.modPort i f s).keepCmd = s.keepCmd := by
  unfold State.modPort
  repeat' (first
    | with_reducible rfl
    | simp only [keepCmd_mk, keepCmd_fold, ite_keepCmd, ite_self, implies_true]
    | refine (keepCmd_each _ _ (fun a s => ?_) _).trans ?_
    | split)

theorem keepCmd_emit (o : Out) (s : State) : (emit o s).keepCmd = s.keepCmd := by
  unfold emit
  repeat' (first
    | with_reducible rfl
    | simp only [keepCmd_mk, keepCmd_fold, ite_keepCmd, ite_self, implies_true]
    | refine (keepCmd_each _ _ (fun a s => ?_) _).trans ?_
    | split)

theorem keepCmd_ashAdd (n : Nat) (s : State) : (ashAdd n s).keepCmd = s.keepCmd := by
  unfold ashAdd
  repeat' (first
    | with_reducible rfl
    | simp only [keepCmd_mk, keepCmd_fold, ite_keepCmd, ite_self, implies_true]
    | refine (keepCmd_each _ _ (fun a s => ?_) _).trans ?_
    | split
    | rfl)

theorem keepCmd_capture (o : Occ) (s : State) : (capture o s).keepCmd = s.keepCmd := by
  unfold capture
  repeat' (first
    | with_reducible rfl
    | simp only [keepCmd_mk, keepCmd_fold, ite_keepCmd, ite_self, implies_true, keepCmd_ashAdd]
    | refine (keepCmd_each _ _ (fun a s => ?_) _).trans ?_
    | split
    | rfl)

theorem keepCmd_raiseCore (o : Occ) (s : State) : (raiseCore o s).keepCmd = s.keepCmd := by
  unfold raiseCore
  repeat' (first
    | with_reducible rfl
    | simp only [keepCmd_mk, keepCmd_fold, ite_keepCmd, ite_self, implies_true, keepCmd_capture]
    | refine (keepCmd_each _ _ (fun a s => ?_) _).trans ?_
    | split
    | rfl)

theorem keepCmd_ashEvent (old : Nat) (s : State) : (ashEvent old s).keepCmd = s.keepCmd := by
  unfold ashEvent
  repeat' (first
    | with_reducible rfl
    | simp only [keepCmd_mk, keepCmd_fold, ite_keepCmd, ite_self, implies_true, keepCmd_raiseCore]
    | refine (keepCmd_each _ _ (fun a s => ?_) _).trans ?_
    | split)

theorem keepCmd_raiseSev (src sev : Nat) (ts : Ts) (d : BitVec 128) (s : State) : (raiseSev src sev ts d s).keepCmd = s.keepCmd :=
    by
  unfold raiseSev
  repeat' (first
    | with_reducible rfl
    | simp only [keepCmd_mk, keepCmd_fold, ite_keepCmd, ite_self, implies_true, keepCmd_ashEvent, keepCmd_raiseCore]
    | refine (keepCmd_each _ _ (fun a s => ?_) _).trans ?_
    | split)

theorem keepCmd_raise (src : Nat) (ts : Ts) (d : BitVec 128) (s : State) : (raise src ts d s).keepCmd = s.keepCmd := by
  unfold raise
  repeat' (first
    | with_reducible rfl
    | simp only [keepCmd_mk, keepCmd_fold, ite_keepCmd, ite_self, implies_true, keepCmd_raiseSev]
    | refine (keepCmd_each _ _ (fun a s => ?_) _).trans ?_
    | split)

theorem keepCmd_wcWritten (struct addr : Nat) (s : State) : (wcWritten struct addr s).keepCmd = s.keepCmd := by
  unfold wcWritten
  repeat' (first
    | with_reducible rfl
    | simp only [keepCmd_mk, keepCmd_fold, ite_keepCmd, ite_self, implies_true]
    | refine (keepCmd_each _ _ (fun a s => ?_) _).trans ?_
    | split)

theorem keepCmd_wcRenew (p : Nat → Bool) (s : State) : (wcRenew p s).keepCmd = s.keepCmd := by
  unfold wcRenew
  repeat' (first
    | with_reducible rfl
    | simp only [keepCmd_mk, keepCmd_fold, ite_keepCmd, ite_self, implies_true]
    | refine (keepCmd_each _ _ (fun a s => ?_) _).trans ?_
    | split)

theorem keepCmd_wcLost (p : Nat → Bool) (s : State) : (wcLost p s).keepCmd = s.keepCmd := by
  unfold wcLost
  repeat' (first
    | with_reducible rfl
    | simp only [keepCmd_mk, keepCmd_fold, ite_keepCmd, ite_self, implies_true, keepCmd_wcRenew]
    | refine (keepCmd_each _ _ (fun a s => ?_) _).trans ?_
    | split)

theorem keepCmd_wordErr (ts : Ts) (struct addr : Nat) (o : WcOut) (s : State) : (wordErr ts struct addr o s).keepCmd = s.keepCmd
    := by
  unfold wordErr
  repeat' (first
    | with_reducible rfl
    | simp only [keepCmd_mk, keepCmd_fold, ite_keepCmd, ite_self, implies_true]
    | refine (keepCmd_each _ _ (fun a s => ?_) _).trans ?_
    | split)

theorem keepCmd_readWord (ts : Ts) (struct addr : Nat) (s : State) : (readWord ts struct addr s).2.keepCmd = s.keepCmd := by
  unfold readWord
  repeat' (first
    | with_reducible rfl
    | simp only [keepCmd_mk, keepCmd_fold, ite_keepCmd, ite_self, implies_true, keepCmd_wcWritten, keepCmd_wordErr]
    | refine (keepCmd_each _ _ (fun a s => ?_) _).trans ?_
    | split)

theorem keepCmd_partWrite (ts : Ts) (engine struct addr : Nat) (f : State → State) (s : State) (hf : ∀ s, (f s).keepCmd =
    s.keepCmd) : (partWrite ts engine struct addr f s).keepCmd = s.keepCmd := by
  unfold partWrite
  repeat' (first
    | with_reducible rfl
    | simp only [keepCmd_mk, keepCmd_fold, ite_keepCmd, ite_self, implies_true, keepCmd_modEng, keepCmd_readWord,
        keepCmd_wcWritten, hf]
    | refine (keepCmd_each _ _ (fun a s => ?_) _).trans ?_
    | split)

theorem keepCmd_linkFrameOf (kind : Nat) (dst : Option Nat) (v : Nat) (s : State) : (linkFrameOf kind dst v s).2.keepCmd =
    s.keepCmd := by
  unfold linkFrameOf
  repeat' (first
    | with_reducible rfl
    | simp only [keepCmd_mk, keepCmd_fold, ite_keepCmd, ite_self, implies_true]
    | refine (keepCmd_each _ _ (fun a s => ?_) _).trans ?_
    | split)

theorem keepCmd_queueFrame (p : Nat) (f : LinkTx) (s : State) : (queueFrame p f s).keepCmd = s.keepCmd := by
  unfold queueFrame
  repeat' (first
    | with_reducible rfl
    | simp only [keepCmd_mk, keepCmd_fold, ite_keepCmd, ite_self, implies_true, keepCmd_modPort]
    | refine (keepCmd_each _ _ (fun a s => ?_) _).trans ?_
    | split)

theorem keepCmd_sendEntry (e : JEntry) (s : State) : (sendEntry e s).keepCmd = s.keepCmd := by
  unfold sendEntry
  repeat' (first
    | with_reducible rfl
    | simp only [keepCmd_mk, keepCmd_fold, ite_keepCmd, ite_self, implies_true, keepCmd_linkFrameOf, keepCmd_queueFrame]
    | refine (keepCmd_each _ _ (fun a s => ?_) _).trans ?_
    | split)

theorem keepCmd_pairJournal (e : JEntry) (s : State) : (pairJournal e s).keepCmd = s.keepCmd := by
  unfold pairJournal
  repeat' (first
    | with_reducible rfl
    | simp only [keepCmd_mk, keepCmd_fold, ite_keepCmd, ite_self, implies_true, keepCmd_sendEntry]
    | refine (keepCmd_each _ _ (fun a s => ?_) _).trans ?_
    | split)

theorem keepCmd_jAppend (e : JEntry) (s : State) : (jAppend e s).keepCmd = s.keepCmd := by
  unfold jAppend
  repeat' (first
    | with_reducible rfl
    | simp only [keepCmd_mk, keepCmd_fold, ite_keepCmd, ite_self, implies_true, keepCmd_pairJournal, keepCmd_wcWritten]
    | refine (keepCmd_each _ _ (fun a s => ?_) _).trans ?_
    | split)

theorem keepCmd_finishAt (d q status result : Nat) (s : State) : (finishAt d q status result s).keepCmd = s.keepCmd := by
  unfold finishAt
  repeat' (first
    | with_reducible rfl
    | simp only [keepCmd_mk, keepCmd_fold, ite_keepCmd, ite_self, implies_true]
    | refine (keepCmd_each _ _ (fun a s => ?_) _).trans ?_
    | split)

theorem keepCmd_finish (q status result : Nat) (s : State) : (finish q status result s).keepCmd = s.keepCmd := by
  unfold finish
  repeat' (first
    | with_reducible rfl
    | simp only [keepCmd_mk, keepCmd_fold, ite_keepCmd, ite_self, implies_true, keepCmd_finishAt]
    | refine (keepCmd_each _ _ (fun a s => ?_) _).trans ?_
    | split)

theorem keepCmd_park (q : Nat) (w : Wait) (s : State) : (park q w s).keepCmd = s.keepCmd := by
  unfold park
  repeat' (first
    | with_reducible rfl
    | simp only [keepCmd_mk, keepCmd_fold, ite_keepCmd, ite_self, implies_true]
    | refine (keepCmd_each _ _ (fun a s => ?_) _).trans ?_
    | split)

theorem keepCmd_finishAll (w : Wait → Bool) (status result : Nat) (s : State) : (finishAll w status result s).keepCmd = s.keepCmd
    := by
  unfold finishAll
  repeat' (first
    | with_reducible rfl
    | simp only [keepCmd_mk, keepCmd_fold, ite_keepCmd, ite_self, implies_true, keepCmd_each, keepCmd_finish]
    | refine (keepCmd_each _ _ (fun a s => ?_) _).trans ?_
    | split)

theorem keepCmd_commitEnd (k : CKey) (s : State) : (commitEnd k s).keepCmd = s.keepCmd := by
  unfold commitEnd
  repeat' (first
    | with_reducible rfl
    | simp only [keepCmd_mk, keepCmd_fold, ite_keepCmd, ite_self, implies_true]
    | refine (keepCmd_each _ _ (fun a s => ?_) _).trans ?_
    | split)

theorem keepCmd_alogAdd (e : ALog) (s : State) : (alogAdd e s).keepCmd = s.keepCmd := by
  unfold alogAdd
  repeat' (first
    | with_reducible rfl
    | simp only [keepCmd_mk, keepCmd_fold, ite_keepCmd, ite_self, implies_true]
    | refine (keepCmd_each _ _ (fun a s => ?_) _).trans ?_
    | split)

theorem keepCmd_alogWithdraw (id kind order prio inrush steady : Nat) (s : State) : (alogWithdraw id kind order prio inrush
    steady s).keepCmd = s.keepCmd := by
  unfold alogWithdraw
  repeat' (first
    | with_reducible rfl
    | simp only [keepCmd_mk, keepCmd_fold, ite_keepCmd, ite_self, implies_true, keepCmd_alogAdd]
    | refine (keepCmd_each _ _ (fun a s => ?_) _).trans ?_
    | split)

theorem keepCmd_pmbPush (m : Nat) (j : PmbJob) (s : State) : (pmbPush m j s).keepCmd = s.keepCmd := by
  unfold pmbPush
  repeat' (first
    | with_reducible rfl
    | simp only [keepCmd_mk, keepCmd_fold, ite_keepCmd, ite_self, implies_true]
    | refine (keepCmd_each _ _ (fun a s => ?_) _).trans ?_
    | split)

theorem keepCmd_itemDone (n code : Nat) (s : State) : (itemDone n code s).keepCmd = s.keepCmd := by
  unfold itemDone
  repeat' (first
    | with_reducible rfl
    | simp only [keepCmd_mk, keepCmd_fold, ite_keepCmd, ite_self, implies_true, keepCmd_modProg]
    | refine (keepCmd_each _ _ (fun a s => ?_) _).trans ?_
    | split)

theorem keepCmd_marginTell (o : Owner) (code status : Nat) (s : State) : (marginTell o code status s).keepCmd = s.keepCmd := by
  unfold marginTell
  repeat' (first
    | with_reducible rfl
    | simp only [keepCmd_mk, keepCmd_fold, ite_keepCmd, ite_self, implies_true, keepCmd_finish, keepCmd_itemDone]
    | refine (keepCmd_each _ _ (fun a s => ?_) _).trans ?_
    | split)

theorem keepCmd_mdacTarget (k : Nat) (t : Int) (s : State) : (mdacTarget k t s).keepCmd = s.keepCmd := by
  unfold mdacTarget
  repeat' (first
    | with_reducible rfl
    | simp only [keepCmd_mk, keepCmd_fold, ite_keepCmd, ite_self, implies_true, keepCmd_modMdac]
    | refine (keepCmd_each _ _ (fun a s => ?_) _).trans ?_
    | split)

theorem keepCmd_pmbNominal (i : Nat) (s : State) : (pmbNominal i s).keepCmd = s.keepCmd := by
  unfold pmbNominal
  repeat' (first
    | with_reducible rfl
    | simp only [keepCmd_mk, keepCmd_fold, ite_keepCmd, ite_self, implies_true, keepCmd_modRail, keepCmd_pmbPush]
    | refine (keepCmd_each _ _ (fun a s => ?_) _).trans ?_
    | split)

theorem keepCmd_marginNominal (i : Nat) (s : State) : (marginNominal i s).keepCmd = s.keepCmd := by
  unfold marginNominal
  repeat' (first
    | with_reducible rfl
    | simp only [keepCmd_mk, keepCmd_fold, ite_keepCmd, ite_self, implies_true, keepCmd_modRail, keepCmd_commitEnd,
        keepCmd_mdacTarget, keepCmd_pmbNominal]
    | refine (keepCmd_each _ _ (fun a s => ?_) _).trans ?_
    | split)

theorem keepCmd_marginLeave (i : Nat) (s : State) : (marginLeave i s).keepCmd = s.keepCmd := by
  unfold marginLeave
  repeat' (first
    | with_reducible rfl
    | simp only [keepCmd_mk, keepCmd_fold, ite_keepCmd, ite_self, implies_true, keepCmd_each, keepCmd_marginNominal,
        keepCmd_marginTell]
    | refine (keepCmd_each _ _ (fun a s => ?_) _).trans ?_
    | split)

theorem keepCmd_cancelRetry (i : Nat) (s : State) : (cancelRetry i s).keepCmd = s.keepCmd := by
  unfold cancelRetry
  repeat' (first
    | with_reducible rfl
    | simp only [keepCmd_mk, keepCmd_fold, ite_keepCmd, ite_self, implies_true, keepCmd_modRail, keepCmd_alogWithdraw,
        keepCmd_commitEnd]
    | refine (keepCmd_each _ _ (fun a s => ?_) _).trans ?_
    | split)

theorem keepCmd_modEnt (c e : Nat) (f : Ent → Ent) (s : State) : (modEnt c e f s).keepCmd = s.keepCmd := by
  unfold modEnt
  repeat' (first
    | with_reducible rfl
    | simp only [keepCmd_mk, keepCmd_fold, ite_keepCmd, ite_self, implies_true, keepCmd_modCore]
    | refine (keepCmd_each _ _ (fun a s => ?_) _).trans ?_
    | split)

theorem keepCmd_dropTell (c e : Nat) (s : State) : (dropTell c e s).keepCmd = s.keepCmd := by
  unfold dropTell
  repeat' (first
    | with_reducible rfl
    | simp only [keepCmd_mk, keepCmd_fold, ite_keepCmd, ite_self, implies_true, keepCmd_modCore, keepCmd_raise]
    | refine (keepCmd_each _ _ (fun a s => ?_) _).trans ?_
    | split)

theorem keepCmd_dropConv (c e : Nat) (s : State) : (dropConv c e s).keepCmd = s.keepCmd := by
  unfold dropConv
  repeat' (first
    | with_reducible rfl
    | simp only [keepCmd_mk, keepCmd_fold, ite_keepCmd, ite_self, implies_true, keepCmd_modCore, keepCmd_dropTell]
    | refine (keepCmd_each _ _ (fun a s => ?_) _).trans ?_
    | split)

theorem keepCmd_unplace (c at_ : Nat) (s : State) : (unplace c at_ s).keepCmd = s.keepCmd := by
  unfold unplace
  repeat' (first
    | with_reducible rfl
    | simp only [keepCmd_mk, keepCmd_fold, ite_keepCmd, ite_self, implies_true, keepCmd_modCore]
    | refine (keepCmd_each _ _ (fun a s => ?_) _).trans ?_
    | split)

theorem keepCmd_placeDisplaced (c : Nat) (d : Nat × Nat × Option Nat) (s : State) : (placeDisplaced c d s).keepCmd = s.keepCmd :=
    by
  unfold placeDisplaced
  repeat' (first
    | with_reducible rfl
    | simp only [keepCmd_mk, keepCmd_fold, ite_keepCmd, ite_self, implies_true, keepCmd_modCore, keepCmd_dropConv]
    | refine (keepCmd_each _ _ (fun a s => ?_) _).trans ?_
    | split)

theorem keepCmd_placeClaims (c at_ : Nat) (s : State) : (placeClaims c at_ s).keepCmd = s.keepCmd := by
  unfold placeClaims
  repeat' (first
    | with_reducible rfl
    | simp only [keepCmd_mk, keepCmd_fold, ite_keepCmd, ite_self, implies_true, keepCmd_modCore, keepCmd_each,
        keepCmd_placeDisplaced, keepCmd_unplace]
    | refine (keepCmd_each _ _ (fun a s => ?_) _).trans ?_
    | split)

theorem keepCmd_startSeq (c t g : Nat) (s : State) : (startSeq c t g s).keepCmd = s.keepCmd := by
  unfold startSeq
  repeat' (first
    | with_reducible rfl
    | simp only [keepCmd_mk, keepCmd_fold, ite_keepCmd, ite_self, implies_true, keepCmd_modCore, keepCmd_placeClaims]
    | refine (keepCmd_each _ _ (fun a s => ?_) _).trans ?_
    | split)

theorem keepCmd_modUrg (c k : Nat) (f : Urg → Urg) (s : State) : (modUrg c k f s).keepCmd = s.keepCmd := by
  unfold modUrg
  repeat' (first
    | with_reducible rfl
    | simp only [keepCmd_mk, keepCmd_fold, ite_keepCmd, ite_self, implies_true, keepCmd_modCore]
    | refine (keepCmd_each _ _ (fun a s => ?_) _).trans ?_
    | split)

theorem keepCmd_fireUrgent (c k cyc : Nat) (s : State) : (fireUrgent c k cyc s).2.keepCmd = s.keepCmd := by
  unfold fireUrgent
  repeat' (first
    | with_reducible rfl
    | simp only [keepCmd_mk, keepCmd_fold, ite_keepCmd, ite_self, implies_true, keepCmd_modCore, keepCmd_each, keepCmd_modUrg,
        keepCmd_raise]
    | refine (keepCmd_each _ _ (fun a s => ?_) _).trans ?_
    | split)

theorem keepCmd_invalidCore (c : Nat) (s : State) : (invalidCore c s).keepCmd = s.keepCmd := by
  unfold invalidCore
  repeat' (first
    | with_reducible rfl
    | simp only [keepCmd_mk, keepCmd_fold, ite_keepCmd, ite_self, implies_true, keepCmd_each, keepCmd_modEnt]
    | refine (keepCmd_each _ _ (fun a s => ?_) _).trans ?_
    | split)

theorem keepCmd_refFault (p : Nat) (s : State) : (refFault p s).keepCmd = s.keepCmd := by
  unfold refFault
  repeat' (first
    | with_reducible rfl
    | simp only [keepCmd_mk, keepCmd_fold, ite_keepCmd, ite_self, implies_true, keepCmd_modRefm, keepCmd_raise]
    | refine (keepCmd_each _ _ (fun a s => ?_) _).trans ?_
    | split)

theorem keepCmd_refFall (p : Nat) (s : State) : (refFall p s).keepCmd = s.keepCmd := by
  unfold refFall
  repeat' (first
    | with_reducible rfl
    | simp only [keepCmd_mk, keepCmd_fold, ite_keepCmd, ite_self, implies_true, keepCmd_modRefm, keepCmd_invalidCore,
        keepCmd_refFault]
    | refine (keepCmd_each _ _ (fun a s => ?_) _).trans ?_
    | split)

theorem keepCmd_coreUp (c : Nat) (s : State) : (coreUp c s).keepCmd = s.keepCmd := by
  unfold coreUp
  repeat' (first
    | with_reducible rfl
    | simp only [keepCmd_mk, keepCmd_fold, ite_keepCmd, ite_self, implies_true, keepCmd_modCore]
    | refine (keepCmd_each _ _ (fun a s => ?_) _).trans ?_
    | split)

theorem keepCmd_coreDown (c : Nat) (s : State) : (coreDown c s).keepCmd = s.keepCmd := by
  unfold coreDown
  repeat' (first
    | with_reducible rfl
    | simp only [keepCmd_mk, keepCmd_fold, ite_keepCmd, ite_self, implies_true, keepCmd_modCore, keepCmd_invalidCore]
    | refine (keepCmd_each _ _ (fun a s => ?_) _).trans ?_
    | split)

theorem keepCmd_clearPhases (st : Nat) (lim : Bool) (s : State) : (clearPhases st lim s).keepCmd = s.keepCmd := by
  unfold clearPhases
  repeat' (first
    | with_reducible rfl
    | simp only [keepCmd_mk, keepCmd_fold, ite_keepCmd, ite_self, implies_true, keepCmd_modPhase, keepCmd_each]
    | refine (keepCmd_each _ _ (fun a s => ?_) _).trans ?_
    | split)

theorem keepCmd_stageHalt (st : Nat) (dst : SState) (s : State) : (stageHalt st dst s).keepCmd = s.keepCmd := by
  unfold stageHalt
  repeat' (first
    | with_reducible rfl
    | simp only [keepCmd_mk, keepCmd_fold, ite_keepCmd, ite_self, implies_true, keepCmd_modStg, keepCmd_commitEnd]
    | refine (keepCmd_each _ _ (fun a s => ?_) _).trans ?_
    | split)

theorem keepCmd_stageRetryDrop (st : Nat) (s : State) : (stageRetryDrop st s).keepCmd = s.keepCmd := by
  unfold stageRetryDrop
  repeat' (first
    | with_reducible rfl
    | simp only [keepCmd_mk, keepCmd_fold, ite_keepCmd, ite_self, implies_true, keepCmd_modStg]
    | refine (keepCmd_each _ _ (fun a s => ?_) _).trans ?_
    | split)

theorem keepCmd_stageStopNow (st : Nat) (s : State) : (stageStopNow st s).keepCmd = s.keepCmd := by
  unfold stageStopNow
  repeat' (first
    | with_reducible rfl
    | simp only [keepCmd_mk, keepCmd_fold, ite_keepCmd, ite_self, implies_true, keepCmd_stageHalt]
    | refine (keepCmd_each _ _ (fun a s => ?_) _).trans ?_
    | split)

theorem keepCmd_stageClearNow (st : Nat) (s : State) : (stageClearNow st s).keepCmd = s.keepCmd := by
  unfold stageClearNow
  repeat' (first
    | with_reducible rfl
    | simp only [keepCmd_mk, keepCmd_fold, ite_keepCmd, ite_self, implies_true, keepCmd_modPhase, keepCmd_modStg, keepCmd_each,
        keepCmd_stageHalt, keepCmd_stageRetryDrop]
    | refine (keepCmd_each _ _ (fun a s => ?_) _).trans ?_
    | split)

theorem keepCmd_commitCoef (st : Nat) (s : State) : (commitCoef st s).keepCmd = s.keepCmd := by
  unfold commitCoef
  repeat' (first
    | with_reducible rfl
    | simp only [keepCmd_mk, keepCmd_fold, ite_keepCmd, ite_self, implies_true, keepCmd_modStg, keepCmd_each]
    | refine (keepCmd_each _ _ (fun a s => ?_) _).trans ?_
    | split)

theorem keepCmd_withdrawEnable (g : Nat) (f : Fig) (order : Nat) (s : State) : (withdrawEnable g f order s).keepCmd = s.keepCmd :=
    by
  unfold withdrawEnable
  repeat' (first
    | with_reducible rfl
    | simp only [keepCmd_mk, keepCmd_fold, ite_keepCmd, ite_self, implies_true, keepCmd_alogWithdraw, keepCmd_commitEnd]
    | refine (keepCmd_each _ _ (fun a s => ?_) _).trans ?_
    | split)

theorem keepCmd_withdrawStart (m st order : Nat) (s : State) : (withdrawStart m st order s).keepCmd = s.keepCmd := by
  unfold withdrawStart
  repeat' (first
    | with_reducible rfl
    | simp only [keepCmd_mk, keepCmd_fold, ite_keepCmd, ite_self, implies_true, keepCmd_alogWithdraw, keepCmd_commitEnd]
    | refine (keepCmd_each _ _ (fun a s => ?_) _).trans ?_
    | split)

theorem keepCmd_withdrawMargin (m : MOp) (s : State) : (withdrawMargin m s).keepCmd = s.keepCmd := by
  unfold withdrawMargin
  repeat' (first
    | with_reducible rfl
    | simp only [keepCmd_mk, keepCmd_fold, ite_keepCmd, ite_self, implies_true, keepCmd_alogWithdraw, keepCmd_commitEnd]
    | refine (keepCmd_each _ _ (fun a s => ?_) _).trans ?_
    | split)

theorem keepCmd_withdrawItem (it : Item) (s : State) : (withdrawItem it s).keepCmd = s.keepCmd := by
  unfold withdrawItem
  repeat' (first
    | with_reducible rfl
    | simp only [keepCmd_mk, keepCmd_fold, ite_keepCmd, ite_self, implies_true, keepCmd_withdrawEnable, keepCmd_withdrawStart]
    | refine (keepCmd_each _ _ (fun a s => ?_) _).trans ?_
    | split)

theorem keepCmd_withdrawCmd (c : RailCmd) (s : State) : (withdrawCmd c s).keepCmd = s.keepCmd := by
  unfold withdrawCmd
  repeat' (first
    | with_reducible rfl
    | simp only [keepCmd_mk, keepCmd_fold, ite_keepCmd, ite_self, implies_true, keepCmd_withdrawEnable, keepCmd_withdrawStart]
    | refine (keepCmd_each _ _ (fun a s => ?_) _).trans ?_
    | split)

theorem keepCmd_disown (n : Nat) (s : State) : (disown n s).keepCmd = s.keepCmd := by
  unfold disown
  repeat' (first
    | with_reducible rfl
    | simp only [keepCmd_mk, keepCmd_fold, ite_keepCmd, ite_self, implies_true, keepCmd_modStg, keepCmd_each,
        keepCmd_withdrawMargin]
    | refine (keepCmd_each _ _ (fun a s => ?_) _).trans ?_
    | split)

theorem keepCmd_stopCmds (n : Nat) (s : State) : (stopCmds n s).keepCmd = s.keepCmd := by
  unfold stopCmds
  repeat' (first
    | with_reducible rfl
    | simp only [keepCmd_mk, keepCmd_fold, ite_keepCmd, ite_self, implies_true, keepCmd_each, keepCmd_withdrawCmd]
    | refine (keepCmd_each _ _ (fun a s => ?_) _).trans ?_
    | split)

theorem keepCmd_progEnd (n status step : Nat) (s : State) : (progEnd n status step s).keepCmd = s.keepCmd := by
  unfold progEnd
  repeat' (first
    | with_reducible rfl
    | simp only [keepCmd_mk, keepCmd_fold, ite_keepCmd, ite_self, implies_true, keepCmd_modProg, keepCmd_disown, keepCmd_each,
        keepCmd_stopCmds, keepCmd_withdrawItem]
    | refine (keepCmd_each _ _ (fun a s => ?_) _).trans ?_
    | split)

theorem keepCmd_progTell (n : Nat) (s : State) : (progTell n s).keepCmd = s.keepCmd := by
  unfold progTell
  repeat' (first
    | with_reducible rfl
    | simp only [keepCmd_mk, keepCmd_fold, ite_keepCmd, ite_self, implies_true, keepCmd_modProg, keepCmd_finishAll]
    | refine (keepCmd_each _ _ (fun a s => ?_) _).trans ?_
    | split)

theorem keepCmd_progsTell (s : State) : (progsTell s).keepCmd = s.keepCmd := by
  unfold progsTell
  repeat' (first
    | with_reducible rfl
    | simp only [keepCmd_mk, keepCmd_fold, ite_keepCmd, ite_self, implies_true, keepCmd_each, keepCmd_progTell]
    | refine (keepCmd_each _ _ (fun a s => ?_) _).trans ?_
    | split)

theorem keepCmd_fromMirror (a : Nat) (s : State) : (fromMirror a s).keepCmd = s.keepCmd := by
  unfold fromMirror
  repeat' (first
    | with_reducible rfl
    | simp only [keepCmd_mk, keepCmd_fold, ite_keepCmd, ite_self, implies_true]
    | refine (keepCmd_each _ _ (fun a s => ?_) _).trans ?_
    | split)

theorem keepCmd_readTable (a : Nat) (s : State) : (readTable a s).2.keepCmd = s.keepCmd := by
  unfold readTable
  repeat' (first
    | with_reducible rfl
    | simp only [keepCmd_mk, keepCmd_fold, ite_keepCmd, ite_self, implies_true, keepCmd_fromMirror, keepCmd_readWord,
        keepCmd_wcWritten]
    | refine (keepCmd_each _ _ (fun a s => ?_) _).trans ?_
    | split)

theorem keepCmd_readWords (l : List Nat) (s : State) : (readWords l s).2.keepCmd = s.keepCmd := by
  induction l generalizing s with
  | nil => rfl
  | cons a l ih =>
    unfold readWords
    repeat' (first
      | with_reducible rfl
      | simp only [keepCmd_mk, keepCmd_fold, ite_keepCmd, ite_self, implies_true, ih, keepCmd_readTable]
      | refine (keepCmd_each _ _ (fun a s => ?_) _).trans ?_
      | split)

theorem keepCmd_fetchAt (n old i : Nat) (s : State) : (fetchAt n old i s).keepCmd = s.keepCmd := by
  unfold fetchAt
  repeat' (first
    | with_reducible rfl
    | simp only [keepCmd_mk, keepCmd_fold, ite_keepCmd, ite_self, implies_true, keepCmd_modProg, keepCmd_progEnd, keepCmd_readWords]
    | refine (keepCmd_each _ _ (fun a s => ?_) _).trans ?_
    | split)

theorem keepCmd_progLaunch (n : Nat) (s : State) : (progLaunch n s).keepCmd = s.keepCmd := by
  unfold progLaunch
  repeat' (first
    | with_reducible rfl
    | simp only [keepCmd_mk, keepCmd_fold, ite_keepCmd, ite_self, implies_true, keepCmd_modProg, keepCmd_fetchAt]
    | refine (keepCmd_each _ _ (fun a s => ?_) _).trans ?_
    | split)

theorem keepCmd_withdrawRails (l : List Nat) (s : State) : (withdrawRails l s).keepCmd = s.keepCmd := by
  unfold withdrawRails
  repeat' (first
    | with_reducible rfl
    | simp only [keepCmd_mk, keepCmd_fold, ite_keepCmd, ite_self, implies_true, keepCmd_modProg, keepCmd_modRail,
        keepCmd_alogWithdraw, keepCmd_commitEnd, keepCmd_each, keepCmd_withdrawCmd, keepCmd_withdrawItem]
    | refine (keepCmd_each _ _ (fun a s => ?_) _).trans ?_
    | split)

theorem keepCmd_cancelRestarts (full : Bool) (l : List Nat) (s : State) : (cancelRestarts full l s).keepCmd = s.keepCmd := by
  unfold cancelRestarts
  repeat' (first
    | with_reducible rfl
    | simp only [keepCmd_mk, keepCmd_fold, ite_keepCmd, ite_self, implies_true, keepCmd_modGrp, keepCmd_each]
    | refine (keepCmd_each _ _ (fun a s => ?_) _).trans ?_
    | split)

theorem keepCmd_fullRunActs (s : State) : (fullRunActs s).keepCmd = s.keepCmd := by
  unfold fullRunActs
  repeat' (first
    | with_reducible rfl
    | simp only [keepCmd_mk, keepCmd_fold, ite_keepCmd, ite_self, implies_true, keepCmd_each, keepCmd_finishAll, keepCmd_progEnd]
    | refine (keepCmd_each _ _ (fun a s => ?_) _).trans ?_
    | split)

theorem keepCmd_dropResumes (s : State) : (dropResumes s).keepCmd = s.keepCmd := by
  unfold dropResumes
  repeat' (first
    | with_reducible rfl
    | simp only [keepCmd_mk, keepCmd_fold, ite_keepCmd, ite_self, implies_true, keepCmd_modRail, keepCmd_each]
    | refine (keepCmd_each _ _ (fun a s => ?_) _).trans ?_
    | split)

theorem keepCmd_offRequest (src : Nat) (full : Bool) (groups : Nat) (s : State) : (offRequest src full groups s).keepCmd =
    s.keepCmd := by
  unfold offRequest
  repeat' (first
    | with_reducible rfl
    | simp only [keepCmd_mk, keepCmd_fold, ite_keepCmd, ite_self, implies_true, keepCmd_cancelRestarts, keepCmd_cancelRetry,
        keepCmd_dropResumes, keepCmd_each, keepCmd_fullRunActs, keepCmd_withdrawRails]
    | refine (keepCmd_each _ _ (fun a s => ?_) _).trans ?_
    | split)

theorem keepCmd_launchOnSet (s : State) : (launchOnSet s).keepCmd = s.keepCmd := by
  unfold launchOnSet
  repeat' (first
    | with_reducible rfl
    | simp only [keepCmd_mk, keepCmd_fold, ite_keepCmd, ite_self, implies_true, keepCmd_each, keepCmd_progLaunch]
    | refine (keepCmd_each _ _ (fun a s => ?_) _).trans ?_
    | split)

theorem keepCmd_resumeRun (s : State) : (resumeRun s).keepCmd = s.keepCmd := by
  unfold resumeRun
  repeat' (first
    | with_reducible rfl
    | simp only [keepCmd_mk, keepCmd_fold, ite_keepCmd, ite_self, implies_true, keepCmd_modRail, keepCmd_each, keepCmd_finishAll]
    | refine (keepCmd_each _ _ (fun a s => ?_) _).trans ?_
    | split)

theorem keepCmd_onRequest (s : State) : (onRequest s).2.keepCmd = s.keepCmd := by
  unfold onRequest
  repeat' (first
    | with_reducible rfl
    | simp only [keepCmd_mk, keepCmd_fold, ite_keepCmd, ite_self, implies_true, keepCmd_launchOnSet, keepCmd_resumeRun]
    | refine (keepCmd_each _ _ (fun a s => ?_) _).trans ?_
    | split)

theorem keepCmd_toMembers (f : Nat → CmdRec) (s : State) : (toMembers f s).keepCmd = s.keepCmd := by
  unfold toMembers
  repeat' (first
    | with_reducible rfl
    | simp only [keepCmd_mk, keepCmd_fold, ite_keepCmd, ite_self, implies_true]
    | refine (keepCmd_each _ _ (fun a s => ?_) _).trans ?_
    | split)

theorem keepCmd_ffClearNow (s : State) : (ffClearNow s).keepCmd = s.keepCmd := by
  unfold ffClearNow
  repeat' (first
    | with_reducible rfl
    | simp only [keepCmd_mk, keepCmd_fold, ite_keepCmd, ite_self, implies_true]
    | refine (keepCmd_each _ _ (fun a s => ?_) _).trans ?_
    | split)

theorem keepCmd_sysrstOff (s : State) : (sysrstOff s).keepCmd = s.keepCmd := by
  unfold sysrstOff
  repeat' (first
    | with_reducible rfl
    | simp only [keepCmd_mk, keepCmd_fold, ite_keepCmd, ite_self, implies_true]
    | refine (keepCmd_each _ _ (fun a s => ?_) _).trans ?_
    | split)

theorem keepCmd_abortProg (n : Nat) (s : State) : (abortProg n s).2.keepCmd = s.keepCmd := by
  unfold abortProg
  repeat' (first
    | with_reducible rfl
    | simp only [keepCmd_mk, keepCmd_fold, ite_keepCmd, ite_self, implies_true, keepCmd_modProg, keepCmd_progEnd]
    | refine (keepCmd_each _ _ (fun a s => ?_) _).trans ?_
    | split)

theorem keepCmd_abortAll (s : State) : (abortAll s).2.keepCmd = s.keepCmd := by
  unfold abortAll
  repeat' (first
    | with_reducible rfl
    | simp only [keepCmd_mk, keepCmd_fold, ite_keepCmd, ite_self, implies_true, keepCmd_modProg, keepCmd_abortProg, keepCmd_each]
    | refine (keepCmd_each _ _ (fun a s => ?_) _).trans ?_
    | split)

theorem keepCmd_armEngine (e : Nat) (s : State) : (armEngine e s).keepCmd = s.keepCmd := by
  unfold armEngine
  repeat' (first
    | with_reducible rfl
    | simp only [keepCmd_mk, keepCmd_fold, ite_keepCmd, ite_self, implies_true, keepCmd_modEng]
    | refine (keepCmd_each _ _ (fun a s => ?_) _).trans ?_
    | split)

theorem keepCmd_voutModes (s : State) : (voutModes s).keepCmd = s.keepCmd := by
  unfold voutModes
  repeat' (first
    | with_reducible rfl
    | simp only [keepCmd_mk, keepCmd_fold, ite_keepCmd, ite_self, implies_true, keepCmd_each, keepCmd_pmbPush]
    | refine (keepCmd_each _ _ (fun a s => ?_) _).trans ?_
    | split)

theorem keepCmd_groupStep (s : State) : (groupStep s).keepCmd = s.keepCmd := by
  unfold groupStep
  repeat' (first
    | with_reducible rfl
    | simp only [keepCmd_mk, keepCmd_fold, ite_keepCmd, ite_self, implies_true]
    | refine (keepCmd_each _ _ (fun a s => ?_) _).trans ?_
    | split)

theorem keepCmd_portsUpdate (s : State) : (portsUpdate s).keepCmd = s.keepCmd := by
  unfold portsUpdate
  repeat' (first
    | with_reducible rfl
    | simp only [keepCmd_mk, keepCmd_fold, ite_keepCmd, ite_self, implies_true, keepCmd_modPort, keepCmd_each, keepCmd_groupStep]
    | refine (keepCmd_each _ _ (fun a s => ?_) _).trans ?_
    | split)

theorem keepCmd_domainOn (pd : Nat) (s : State) : (domainOn pd s).keepCmd = s.keepCmd := by
  unfold domainOn
  repeat' (first
    | with_reducible rfl
    | simp only [keepCmd_mk, keepCmd_fold, ite_keepCmd, ite_self, implies_true, keepCmd_modBank, keepCmd_modRefm,
        keepCmd_armEngine, keepCmd_coreUp, keepCmd_each]
    | refine (keepCmd_each _ _ (fun a s => ?_) _).trans ?_
    | split)

theorem keepCmd_domainOff (pd : Nat) (s : State) : (domainOff pd s).keepCmd = s.keepCmd := by
  unfold domainOff
  repeat' (first
    | with_reducible rfl
    | simp only [keepCmd_mk, keepCmd_fold, ite_keepCmd, ite_self, implies_true, keepCmd_modBank, keepCmd_modEng, keepCmd_modRefm,
        keepCmd_coreDown, keepCmd_each, keepCmd_wcLost]
    | refine (keepCmd_each _ _ (fun a s => ?_) _).trans ?_
    | split)

theorem keepCmd_gate (want : Nat) (first : Bool) (s : State) : (gate want first s).keepCmd = s.keepCmd := by
  unfold gate
  repeat' (first
    | with_reducible rfl
    | simp only [keepCmd_mk, keepCmd_fold, ite_keepCmd, ite_self, implies_true, keepCmd_domainOff, keepCmd_domainOn, keepCmd_each]
    | refine (keepCmd_each _ _ (fun a s => ?_) _).trans ?_
    | split)

theorem keepCmd_railIn (i : Nat) (s : State) : (railIn i s).keepCmd = s.keepCmd := by
  unfold railIn
  repeat' (first
    | with_reducible rfl
    | simp only [keepCmd_mk, keepCmd_fold, ite_keepCmd, ite_self, implies_true, keepCmd_modRail]
    | refine (keepCmd_each _ _ (fun a s => ?_) _).trans ?_
    | split)

theorem keepCmd_railOut (i : Nat) (s : State) : (railOut i s).keepCmd = s.keepCmd := by
  unfold railOut
  repeat' (first
    | with_reducible rfl
    | simp only [keepCmd_mk, keepCmd_fold, ite_keepCmd, ite_self, implies_true, keepCmd_modRail]
    | refine (keepCmd_each _ _ (fun a s => ?_) _).trans ?_
    | split)

theorem keepCmd_railsIn (first : Bool) (s : State) : (railsIn first s).keepCmd = s.keepCmd := by
  unfold railsIn
  repeat' (first
    | with_reducible rfl
    | simp only [keepCmd_mk, keepCmd_fold, ite_keepCmd, ite_self, implies_true, keepCmd_modRail, keepCmd_each, keepCmd_railIn,
        keepCmd_railOut]
    | refine (keepCmd_each _ _ (fun a s => ?_) _).trans ?_
    | split)

theorem keepCmd_stagesIn (first : Bool) (s : State) : (stagesIn first s).keepCmd = s.keepCmd := by
  unfold stagesIn
  repeat' (first
    | with_reducible rfl
    | simp only [keepCmd_mk, keepCmd_fold, ite_keepCmd, ite_self, implies_true, keepCmd_modStg, keepCmd_clearPhases, keepCmd_each]
    | refine (keepCmd_each _ _ (fun a s => ?_) _).trans ?_
    | split)

theorem keepCmd_entriesIn (old : State) (s : State) : (entriesIn old s).keepCmd = s.keepCmd := by
  unfold entriesIn
  repeat' (first
    | with_reducible rfl
    | simp only [keepCmd_mk, keepCmd_fold, ite_keepCmd, ite_self, implies_true, keepCmd_modCore, keepCmd_each, keepCmd_modEnt]
    | refine (keepCmd_each _ _ (fun a s => ?_) _).trans ?_
    | split)

theorem keepCmd_refsIn (s : State) : (refsIn s).keepCmd = s.keepCmd := by
  unfold refsIn
  repeat' (first
    | with_reducible rfl
    | simp only [keepCmd_mk, keepCmd_fold, ite_keepCmd, ite_self, implies_true, keepCmd_modRefm, keepCmd_each, keepCmd_refFall]
    | refine (keepCmd_each _ _ (fun a s => ?_) _).trans ?_
    | split)

theorem keepCmd_wcTables (s : State) : (wcTables s).keepCmd = s.keepCmd := by
  unfold wcTables
  repeat' (first
    | with_reducible rfl
    | simp only [keepCmd_mk, keepCmd_fold, ite_keepCmd, ite_self, implies_true, keepCmd_wcRenew]
    | refine (keepCmd_each _ _ (fun a s => ?_) _).trans ?_
    | split)

theorem keepCmd_eraseAsk (sector : Nat) (u : EraseUse) (s : State) : (eraseAsk sector u s).keepCmd = s.keepCmd := by
  unfold eraseAsk
  repeat' (first
    | with_reducible rfl
    | simp only [keepCmd_mk, keepCmd_fold, ite_keepCmd, ite_self, implies_true]
    | refine (keepCmd_each _ _ (fun a s => ?_) _).trans ?_
    | split)

theorem keepCmd_beginCopy (j : Job) (l : List Job) (a : Nat) (s : State) : (beginCopy j l a s).keepCmd = s.keepCmd := by
  unfold beginCopy
  repeat' (first
    | with_reducible rfl
    | simp only [keepCmd_mk, keepCmd_fold, ite_keepCmd, ite_self, implies_true]
    | refine (keepCmd_each _ _ (fun a s => ?_) _).trans ?_
    | split)

theorem keepCmd_nvBegin (s : State) : (nvBegin s).keepCmd = s.keepCmd := by
  unfold nvBegin
  repeat' (first
    | with_reducible rfl
    | simp only [keepCmd_mk, keepCmd_fold, ite_keepCmd, ite_self, implies_true, keepCmd_beginCopy, keepCmd_eraseAsk]
    | refine (keepCmd_each _ _ (fun a s => ?_) _).trans ?_
    | split)

theorem keepCmd_nvWrite (u : JobUse) (q r : Nat) (s : State) : (nvWrite u q r s).keepCmd = s.keepCmd := by
  unfold nvWrite
  repeat' (first
    | with_reducible rfl
    | simp only [keepCmd_mk, keepCmd_fold, ite_keepCmd, ite_self, implies_true, keepCmd_nvBegin]
    | refine (keepCmd_each _ _ (fun a s => ?_) _).trans ?_
    | split)

theorem keepCmd_writeImage (im : Image) (q : Nat) (s : State) : (writeImage im q s).keepCmd = s.keepCmd := by
  unfold writeImage
  repeat' (first
    | with_reducible rfl
    | simp only [keepCmd_mk, keepCmd_fold, ite_keepCmd, ite_self, implies_true, keepCmd_nvWrite]
    | refine (keepCmd_each _ _ (fun a s => ?_) _).trans ?_
    | split)

theorem keepCmd_changeGen (g : GenState) (q r : Nat) (s : State) : (changeGen g q r s).keepCmd = s.keepCmd := by
  unfold changeGen
  repeat' (first
    | with_reducible rfl
    | simp only [keepCmd_mk, keepCmd_fold, ite_keepCmd, ite_self, implies_true, keepCmd_nvWrite]
    | refine (keepCmd_each _ _ (fun a s => ?_) _).trans ?_
    | split)

theorem keepCmd_beginProb (p : Nat) (s : State) : (beginProb p s).keepCmd = s.keepCmd := by
  unfold beginProb
  repeat' (first
    | with_reducible rfl
    | simp only [keepCmd_mk, keepCmd_fold, ite_keepCmd, ite_self, implies_true]
    | refine (keepCmd_each _ _ (fun a s => ?_) _).trans ?_
    | split
    | rfl)

theorem keepCmd_confirmGen (q : Nat) (s : State) : (confirmGen q s).keepCmd = s.keepCmd := by
  unfold confirmGen
  repeat' (first
    | with_reducible rfl
    | simp only [keepCmd_mk, keepCmd_fold, ite_keepCmd, ite_self, implies_true, keepCmd_beginProb, keepCmd_changeGen, keepCmd_raise]
    | refine (keepCmd_each _ _ (fun a s => ?_) _).trans ?_
    | split)

theorem keepCmd_nvwpRefuse (q op : Nat) (s : State) : (nvwpRefuse q op s).keepCmd = s.keepCmd := by
  unfold nvwpRefuse
  repeat' (first
    | with_reducible rfl
    | simp only [keepCmd_mk, keepCmd_fold, ite_keepCmd, ite_self, implies_true, keepCmd_raise]
    | refine (keepCmd_each _ _ (fun a s => ?_) _).trans ?_
    | split)

theorem keepCmd_imgWritten (im : Img) (s : State) : (imgWritten im s).keepCmd = s.keepCmd := by
  unfold imgWritten
  repeat' (first
    | with_reducible rfl
    | simp only [keepCmd_mk, keepCmd_fold, ite_keepCmd, ite_self, implies_true, keepCmd_each, keepCmd_wcWritten]
    | refine (keepCmd_each _ _ (fun a s => ?_) _).trans ?_
    | split)

theorem keepCmd_bufSet (im : Img) (s : State) : (bufSet im s).keepCmd = s.keepCmd := by
  unfold bufSet
  repeat' (first
    | with_reducible rfl
    | simp only [keepCmd_mk, keepCmd_fold, ite_keepCmd, ite_self, implies_true, keepCmd_imgWritten]
    | refine (keepCmd_each _ _ (fun a s => ?_) _).trans ?_
    | split)

theorem keepCmd_freeze (s : State) : (freeze s).keepCmd = s.keepCmd := by
  unfold freeze
  repeat' (first
    | with_reducible rfl
    | simp only [keepCmd_mk, keepCmd_fold, ite_keepCmd, ite_self, implies_true]
    | refine (keepCmd_each _ _ (fun a s => ?_) _).trans ?_
    | split)

theorem keepCmd_thaw (s : State) : (thaw s).keepCmd = s.keepCmd := by
  unfold thaw
  repeat' (first
    | with_reducible rfl
    | simp only [keepCmd_mk, keepCmd_fold, ite_keepCmd, ite_self, implies_true, keepCmd_bufSet, keepCmd_raiseSev]
    | refine (keepCmd_each _ _ (fun a s => ?_) _).trans ?_
    | split)

theorem keepCmd_fwEvent (src status cmd ver kind eng ph : Nat) (s : State) : (fwEvent src status cmd ver kind eng ph s).keepCmd
    = s.keepCmd := by
  unfold fwEvent
  repeat' (first
    | with_reducible rfl
    | simp only [keepCmd_mk, keepCmd_fold, ite_keepCmd, ite_self, implies_true, keepCmd_raise]
    | refine (keepCmd_each _ _ (fun a s => ?_) _).trans ?_
    | split)

theorem keepCmd_acceptEntry (d : Desc) (src ring : Nat) (s : State) : (acceptEntry d src ring s).keepCmd = s.keepCmd := by
  unfold acceptEntry
  repeat' (first
    | with_reducible rfl
    | simp only [keepCmd_mk, keepCmd_fold, ite_keepCmd, ite_self, implies_true, keepCmd_jAppend]
    | refine (keepCmd_each _ _ (fun a s => ?_) _).trans ?_
    | split)

theorem keepCmd_clearCounts (s : State) : (clearCounts s).keepCmd = s.keepCmd := by
  unfold clearCounts
  repeat' (first
    | with_reducible rfl
    | simp only [keepCmd_mk, keepCmd_fold, ite_keepCmd, ite_self, implies_true, keepCmd_modGrp, keepCmd_each]
    | refine (keepCmd_each _ _ (fun a s => ?_) _).trans ?_
    | split)

theorem keepCmd_cmdPowerOn (l : Live) (s : State) : (cmdPowerOn l s).keepCmd = s.keepCmd := by
  have e : cmdPowerOn l s =
      if joining s then park l.seq .domainUp { s with pwr := { s.pwr with heldOn := true } }
      else if (onRequest s).1 = 2 then finish l.seq stAlready 0 s
      else
        let t := clearCounts (park l.seq .domainUp (onRequest s).2)
        { t with flt := { t.flt with restarts := 0, restartExh := false, restartLeft := none } } := by
    unfold cmdPowerOn; rfl
  have h2 (t : State) (h : t.keepCmd = s.keepCmd) :
      ({ t with flt := { t.flt with restarts := 0, restartExh := false, restartLeft := none } } : State).keepCmd = s.keepCmd := h
  rw [e]
  split
  · exact keepCmd_park _ _ _
  · split
    · exact keepCmd_finish _ _ _ _
    · exact h2 _ ((keepCmd_clearCounts _).trans ((keepCmd_park _ _ _).trans (keepCmd_onRequest _)))

theorem keepCmd_cmdPowerOff (l : Live) (s : State) : (cmdPowerOff l s).keepCmd = s.keepCmd := by
  unfold cmdPowerOff
  repeat' (first
    | with_reducible rfl
    | simp only [keepCmd_mk, keepCmd_fold, ite_keepCmd, ite_self, implies_true, keepCmd_cancelRestarts, keepCmd_clearCounts,
        keepCmd_finish, keepCmd_offRequest, keepCmd_park, keepCmd_toMembers]
    | refine (keepCmd_each _ _ (fun a s => ?_) _).trans ?_
    | split)

theorem keepCmd_cmdGroupOff (l : Live) (s : State) : (cmdGroupOff l s).keepCmd = s.keepCmd := by
  unfold cmdGroupOff
  repeat' (first
    | with_reducible rfl
    | simp only [keepCmd_mk, keepCmd_fold, ite_keepCmd, ite_self, implies_true, keepCmd_cancelRestarts, keepCmd_finish,
        keepCmd_offRequest, keepCmd_park, keepCmd_toMembers]
    | refine (keepCmd_each _ _ (fun a s => ?_) _).trans ?_
    | split)

theorem keepCmd_cmdProgLaunch (l : Live) (s : State) : (cmdProgLaunch l s).keepCmd = s.keepCmd := by
  unfold cmdProgLaunch
  repeat' (first
    | with_reducible rfl
    | simp only [keepCmd_mk, keepCmd_fold, ite_keepCmd, ite_self, implies_true, keepCmd_finish, keepCmd_park, keepCmd_progLaunch]
    | refine (keepCmd_each _ _ (fun a s => ?_) _).trans ?_
    | split)

theorem keepCmd_abortEach (s : State) : (abortEach s).2.keepCmd = s.keepCmd := by
  unfold abortEach
  repeat' (first
    | with_reducible rfl
    | simp only [keepCmd_mk, keepCmd_fold, ite_keepCmd, ite_self, implies_true, keepCmd_abortAll]
    | refine (keepCmd_each _ _ (fun a s => ?_) _).trans ?_
    | split)

theorem keepCmd_cmdProgAbort (l : Live) (s : State) : (cmdProgAbort l s).keepCmd = s.keepCmd := by
  unfold cmdProgAbort
  repeat' (first
    | with_reducible rfl
    | simp only [keepCmd_mk, keepCmd_fold, ite_keepCmd, ite_self, implies_true, keepCmd_abortEach, keepCmd_abortProg,
        keepCmd_finish]
    | refine (keepCmd_each _ _ (fun a s => ?_) _).trans ?_
    | split)

theorem keepCmd_mirrorWord (e : List (Nat × Nat)) (w : Nat) (s : State) : (mirrorWord e w s).keepCmd = s.keepCmd := by
  unfold mirrorWord
  repeat' (first
    | with_reducible rfl
    | simp only [keepCmd_mk, keepCmd_fold, ite_keepCmd, ite_self, implies_true, keepCmd_partWrite, keepCmd_wcWritten]
    | refine (keepCmd_each _ _ (fun a s => ?_) _).trans ?_
    | refine (keepCmd_partWrite _ _ _ _ _ _ (fun _ => ?_)).trans ?_
    | split)

theorem keepCmd_revertWord (w : Nat) (s : State) : (revertWord w s).keepCmd = s.keepCmd := by
  unfold revertWord
  repeat' (first
    | with_reducible rfl
    | simp only [keepCmd_mk, keepCmd_fold, ite_keepCmd, ite_self, implies_true, keepCmd_wcWritten]
    | refine (keepCmd_each _ _ (fun a s => ?_) _).trans ?_
    | split)

theorem keepCmd_editMirror (l : Live) (w : Wait) (e : List (Nat × Nat)) (s : State) : (editMirror l w e s).keepCmd = s.keepCmd :=
    by
  unfold editMirror
  repeat' (first
    | with_reducible rfl
    | simp only [keepCmd_mk, keepCmd_fold, ite_keepCmd, ite_self, implies_true, keepCmd_each, keepCmd_finish, keepCmd_mirrorWord,
        keepCmd_park, keepCmd_revertWord]
    | refine (keepCmd_each _ _ (fun a s => ?_) _).trans ?_
    | split)

theorem keepCmd_cmdProgLoad (l : Live) (s : State) : (cmdProgLoad l s).keepCmd = s.keepCmd := by
  unfold cmdProgLoad
  repeat' (first
    | with_reducible rfl
    | simp only [keepCmd_mk, keepCmd_fold, ite_keepCmd, ite_self, implies_true, keepCmd_editMirror, keepCmd_finish]
    | refine (keepCmd_each _ _ (fun a s => ?_) _).trans ?_
    | split)

theorem keepCmd_cmdGraphLoad (l : Live) (s : State) : (cmdGraphLoad l s).keepCmd = s.keepCmd := by
  unfold cmdGraphLoad
  repeat' (first
    | with_reducible rfl
    | simp only [keepCmd_mk, keepCmd_fold, ite_keepCmd, ite_self, implies_true, keepCmd_editMirror, keepCmd_finish]
    | refine (keepCmd_each _ _ (fun a s => ?_) _).trans ?_
    | split)

theorem keepCmd_cmdFlagsSet (l : Live) (s : State) : (cmdFlagsSet l s).keepCmd = s.keepCmd := by
  unfold cmdFlagsSet
  repeat' (first
    | with_reducible rfl
    | simp only [keepCmd_mk, keepCmd_fold, ite_keepCmd, ite_self, implies_true, keepCmd_finish]
    | refine (keepCmd_each _ _ (fun a s => ?_) _).trans ?_
    | split)

theorem keepCmd_cmdRetryCancel (l : Live) (s : State) : (cmdRetryCancel l s).keepCmd = s.keepCmd := by
  unfold cmdRetryCancel
  repeat' (first
    | with_reducible rfl
    | simp only [keepCmd_mk, keepCmd_fold, ite_keepCmd, ite_self, implies_true, keepCmd_cancelRetry, keepCmd_each, keepCmd_finish]
    | refine (keepCmd_each _ _ (fun a s => ?_) _).trans ?_
    | split)

theorem keepCmd_cmdMargin (l : Live) (s : State) : (cmdMargin l s).keepCmd = s.keepCmd := by
  unfold cmdMargin
  repeat' (first
    | with_reducible rfl
    | simp only [keepCmd_mk, keepCmd_fold, ite_keepCmd, ite_self, implies_true, keepCmd_finish, keepCmd_park]
    | refine (keepCmd_each _ _ (fun a s => ?_) _).trans ?_
    | split)

theorem keepCmd_cmdFfClear (l : Live) (s : State) : (cmdFfClear l s).keepCmd = s.keepCmd := by
  unfold cmdFfClear
  repeat' (first
    | with_reducible rfl
    | simp only [keepCmd_mk, keepCmd_fold, ite_keepCmd, ite_self, implies_true, keepCmd_ffClearNow, keepCmd_finish]
    | refine (keepCmd_each _ _ (fun a s => ?_) _).trans ?_
    | split)

theorem keepCmd_cmdSysrst (l : Live) (s : State) : (cmdSysrst l s).keepCmd = s.keepCmd := by
  unfold cmdSysrst
  repeat' (first
    | with_reducible rfl
    | simp only [keepCmd_mk, keepCmd_fold, ite_keepCmd, ite_self, implies_true, keepCmd_finish, keepCmd_sysrstOff]
    | refine (keepCmd_each _ _ (fun a s => ?_) _).trans ?_
    | split)

theorem keepCmd_cmdStageStart (l : Live) (s : State) : (cmdStageStart l s).keepCmd = s.keepCmd := by
  unfold cmdStageStart
  repeat' (first
    | with_reducible rfl
    | simp only [keepCmd_mk, keepCmd_fold, ite_keepCmd, ite_self, implies_true, keepCmd_finish, keepCmd_park]
    | refine (keepCmd_each _ _ (fun a s => ?_) _).trans ?_
    | split)

theorem keepCmd_cmdStageStop (l : Live) (s : State) : (cmdStageStop l s).keepCmd = s.keepCmd := by
  unfold cmdStageStop
  repeat' (first
    | with_reducible rfl
    | simp only [keepCmd_mk, keepCmd_fold, ite_keepCmd, ite_self, implies_true, keepCmd_finish, keepCmd_stageStopNow]
    | refine (keepCmd_each _ _ (fun a s => ?_) _).trans ?_
    | split)

theorem keepCmd_cmdStageClear (l : Live) (s : State) : (cmdStageClear l s).keepCmd = s.keepCmd := by
  unfold cmdStageClear
  repeat' (first
    | with_reducible rfl
    | simp only [keepCmd_mk, keepCmd_fold, ite_keepCmd, ite_self, implies_true, keepCmd_finish, keepCmd_stageClearNow]
    | refine (keepCmd_each _ _ (fun a s => ?_) _).trans ?_
    | split)

theorem keepCmd_cmdConvStart (l : Live) (s : State) : (cmdConvStart l s).keepCmd = s.keepCmd := by
  unfold cmdConvStart
  repeat' (first
    | with_reducible rfl
    | simp only [keepCmd_mk, keepCmd_fold, ite_keepCmd, ite_self, implies_true, keepCmd_finish, keepCmd_park, keepCmd_startSeq]
    | refine (keepCmd_each _ _ (fun a s => ?_) _).trans ?_
    | split)

theorem keepCmd_cmdConvUrgent (l : Live) (s : State) : (cmdConvUrgent l s).keepCmd = s.keepCmd := by
  unfold cmdConvUrgent
  repeat' (first
    | with_reducible rfl
    | simp only [keepCmd_mk, keepCmd_fold, ite_keepCmd, ite_self, implies_true, keepCmd_finish, keepCmd_fireUrgent, keepCmd_park]
    | refine (keepCmd_each _ _ (fun a s => ?_) _).trans ?_
    | split)

theorem keepCmd_cmdConvCal (l : Live) (s : State) : (cmdConvCal l s).keepCmd = s.keepCmd := by
  unfold cmdConvCal
  repeat' (first
    | with_reducible rfl
    | simp only [keepCmd_mk, keepCmd_fold, ite_keepCmd, ite_self, implies_true, keepCmd_finish, keepCmd_nvwpRefuse, keepCmd_park,
        keepCmd_raise]
    | refine (keepCmd_each _ _ (fun a s => ?_) _).trans ?_
    | split)

theorem keepCmd_nvwpEnd (l : Live) (s : State) : (nvwpEnd l s).keepCmd = s.keepCmd := by
  unfold nvwpEnd
  repeat' (first
    | with_reducible rfl
    | simp only [keepCmd_mk, keepCmd_fold, ite_keepCmd, ite_self, implies_true, keepCmd_finish, keepCmd_nvwpRefuse]
    | refine (keepCmd_each _ _ (fun a s => ?_) _).trans ?_
    | split)

theorem keepCmd_pendImage (im : Image) (l : Live) (s : State) : (pendImage im l s).keepCmd = s.keepCmd := by
  unfold pendImage
  repeat' (first
    | with_reducible rfl
    | simp only [keepCmd_mk, keepCmd_fold, ite_keepCmd, ite_self, implies_true, keepCmd_changeGen, keepCmd_park, keepCmd_writeImage]
    | refine (keepCmd_each _ _ (fun a s => ?_) _).trans ?_
    | split)

theorem keepCmd_cmdConfigLoad (l : Live) (s : State) : (cmdConfigLoad l s).keepCmd = s.keepCmd := by
  unfold cmdConfigLoad
  repeat' (first
    | with_reducible rfl
    | simp only [keepCmd_mk, keepCmd_fold, ite_keepCmd, ite_self, implies_true, keepCmd_finish, keepCmd_fwEvent, keepCmd_nvwpEnd,
        keepCmd_pendImage]
    | refine (keepCmd_each _ _ (fun a s => ?_) _).trans ?_
    | split)

theorem keepCmd_cmdConfigCapture (l : Live) (s : State) : (cmdConfigCapture l s).keepCmd = s.keepCmd := by
  unfold cmdConfigCapture
  repeat' (first
    | with_reducible rfl
    | simp only [keepCmd_mk, keepCmd_fold, ite_keepCmd, ite_self, implies_true, keepCmd_finish, keepCmd_nvwpEnd, keepCmd_pendImage]
    | refine (keepCmd_each _ _ (fun a s => ?_) _).trans ?_
    | split)

theorem keepCmd_cmdConfigConfirm (l : Live) (s : State) : (cmdConfigConfirm l s).keepCmd = s.keepCmd := by
  unfold cmdConfigConfirm
  repeat' (first
    | with_reducible rfl
    | simp only [keepCmd_mk, keepCmd_fold, ite_keepCmd, ite_self, implies_true, keepCmd_confirmGen, keepCmd_finish, keepCmd_park]
    | refine (keepCmd_each _ _ (fun a s => ?_) _).trans ?_
    | split)

theorem keepCmd_bufferEnd (l : Live) (bytes : List Byte) (res : Nat) (s : State) : (bufferEnd l bytes res s).keepCmd = s.keepCmd
    := by
  unfold bufferEnd
  repeat' (first
    | with_reducible rfl
    | simp only [keepCmd_mk, keepCmd_fold, ite_keepCmd, ite_self, implies_true, keepCmd_emit, keepCmd_finish]
    | refine (keepCmd_each _ _ (fun a s => ?_) _).trans ?_
    | split)

theorem keepCmd_cmdJournalRead (l : Live) (s : State) : (cmdJournalRead l s).keepCmd = s.keepCmd := by
  unfold cmdJournalRead
  repeat' (first
    | with_reducible rfl
    | simp only [keepCmd_mk, keepCmd_fold, ite_keepCmd, ite_self, implies_true, keepCmd_bufferEnd, keepCmd_each, keepCmd_finish,
        keepCmd_readWord]
    | refine (keepCmd_each _ _ (fun a s => ?_) _).trans ?_
    | split)

theorem keepCmd_cmdAlogRead (l : Live) (s : State) : (cmdAlogRead l s).keepCmd = s.keepCmd := by
  unfold cmdAlogRead
  repeat' (first
    | with_reducible rfl
    | simp only [keepCmd_mk, keepCmd_fold, ite_keepCmd, ite_self, implies_true, keepCmd_bufferEnd, keepCmd_finish]
    | refine (keepCmd_each _ _ (fun a s => ?_) _).trans ?_
    | split)

theorem keepCmd_cmdCountersRead (l : Live) (s : State) : (cmdCountersRead l s).keepCmd = s.keepCmd := by
  unfold cmdCountersRead
  repeat' (first
    | with_reducible rfl
    | simp only [keepCmd_mk, keepCmd_fold, ite_keepCmd, ite_self, implies_true, keepCmd_bufferEnd, keepCmd_finish]
    | refine (keepCmd_each _ _ (fun a s => ?_) _).trans ?_
    | split)

theorem keepCmd_cmdStateRead (l : Live) (s : State) : (cmdStateRead l s).keepCmd = s.keepCmd := by
  unfold cmdStateRead
  repeat' (first
    | with_reducible rfl
    | simp only [keepCmd_mk, keepCmd_fold, ite_keepCmd, ite_self, implies_true, keepCmd_bufferEnd, keepCmd_finish]
    | refine (keepCmd_each _ _ (fun a s => ?_) _).trans ?_
    | split)

theorem keepCmd_cmdRecRead (l : Live) (s : State) : (cmdRecRead l s).keepCmd = s.keepCmd := by
  unfold cmdRecRead
  repeat' (first
    | with_reducible rfl
    | simp only [keepCmd_mk, keepCmd_fold, ite_keepCmd, ite_self, implies_true, keepCmd_bufferEnd, keepCmd_finish]
    | refine (keepCmd_each _ _ (fun a s => ?_) _).trans ?_
    | split)

theorem keepCmd_cmdRecFreeze (l : Live) (s : State) : (cmdRecFreeze l s).keepCmd = s.keepCmd := by
  unfold cmdRecFreeze
  repeat' (first
    | with_reducible rfl
    | simp only [keepCmd_mk, keepCmd_fold, ite_keepCmd, ite_self, implies_true, keepCmd_finish, keepCmd_freeze, keepCmd_thaw]
    | refine (keepCmd_each _ _ (fun a s => ?_) _).trans ?_
    | split)

theorem keepCmd_cmdRecChallenge (l : Live) (s : State) : (cmdRecChallenge l s).keepCmd = s.keepCmd := by
  unfold cmdRecChallenge
  repeat' (first
    | with_reducible rfl
    | simp only [keepCmd_mk, keepCmd_fold, ite_keepCmd, ite_self, implies_true, keepCmd_finish]
    | refine (keepCmd_each _ _ (fun a s => ?_) _).trans ?_
    | split)

theorem keepCmd_cmdRecClear (l : Live) (s : State) : (cmdRecClear l s).keepCmd = s.keepCmd := by
  unfold cmdRecClear
  repeat' (first
    | with_reducible rfl
    | simp only [keepCmd_mk, keepCmd_fold, ite_keepCmd, ite_self, implies_true, keepCmd_finish, keepCmd_nvWrite, keepCmd_nvwpEnd,
        keepCmd_park, keepCmd_raise]
    | refine (keepCmd_each _ _ (fun a s => ?_) _).trans ?_
    | split)

theorem keepCmd_cmdTagWrite (l : Live) (s : State) : (cmdTagWrite l s).keepCmd = s.keepCmd := by
  unfold cmdTagWrite
  repeat' (first
    | with_reducible rfl
    | simp only [keepCmd_mk, keepCmd_fold, ite_keepCmd, ite_self, implies_true, keepCmd_finish, keepCmd_nvWrite, keepCmd_nvwpEnd,
        keepCmd_park]
    | refine (keepCmd_each _ _ (fun a s => ?_) _).trans ?_
    | split)

theorem keepCmd_cmdTagRead (l : Live) (s : State) : (cmdTagRead l s).keepCmd = s.keepCmd := by
  unfold cmdTagRead
  repeat' (first
    | with_reducible rfl
    | simp only [keepCmd_mk, keepCmd_fold, ite_keepCmd, ite_self, implies_true, keepCmd_bufferEnd, keepCmd_finish]
    | refine (keepCmd_each _ _ (fun a s => ?_) _).trans ?_
    | split)

theorem keepCmd_cmdHandover (l : Live) (s : State) : (cmdHandover l s).keepCmd = s.keepCmd := by
  unfold cmdHandover
  repeat' (first
    | with_reducible rfl
    | simp only [keepCmd_mk, keepCmd_fold, ite_keepCmd, ite_self, implies_true, keepCmd_finish, keepCmd_park]
    | refine (keepCmd_each _ _ (fun a s => ?_) _).trans ?_
    | split)

theorem keepCmd_barEffect (l : Live) (s : State) : (barEffect l s).keepCmd = s.keepCmd := by
  unfold barEffect
  repeat' (first
    | with_reducible rfl
    | simp only [keepCmd_mk, keepCmd_fold, ite_keepCmd, ite_self, implies_true, keepCmd_abortEach, keepCmd_commitCoef,
        keepCmd_ffClearNow, keepCmd_finish, keepCmd_sysrstOff]
    | refine (keepCmd_each _ _ (fun a s => ?_) _).trans ?_
    | split)

theorem keepCmd_startedPost (q : Nat) (s : State) : (startedPost q s).keepCmd = s.keepCmd := by
  unfold startedPost
  repeat' (first
    | with_reducible rfl
    | simp only [keepCmd_mk, keepCmd_fold, ite_keepCmd, ite_self, implies_true]
    | refine (keepCmd_each _ _ (fun a s => ?_) _).trans ?_
    | split)

theorem keepCmd_relayOut (d : Desc) (s : State) : (relayOut d s).keepCmd = s.keepCmd := by
  unfold relayOut
  repeat' (first
    | with_reducible rfl
    | simp only [keepCmd_mk, keepCmd_fold, ite_keepCmd, ite_self, implies_true, keepCmd_emit]
    | refine (keepCmd_each _ _ (fun a s => ?_) _).trans ?_
    | split)

theorem keepCmd_setReg (k : Nat) (v : W32) (s : State) : (State.setReg k v s).keepCmd = s.keepCmd := by
  unfold State.setReg
  repeat' (first
    | with_reducible rfl
    | simp only [keepCmd_mk, keepCmd_fold, ite_keepCmd, ite_self, implies_true]
    | refine (keepCmd_each _ _ (fun a s => ?_) _).trans ?_
    | split)

theorem keepCmd_withImage (im : Image) (s : State) : (withImage im s).keepCmd = s.keepCmd := by
  unfold withImage
  repeat' (first
    | with_reducible rfl
    | simp only [keepCmd_mk, keepCmd_fold, ite_keepCmd, ite_self, implies_true]
    | refine (keepCmd_each _ _ (fun a s => ?_) _).trans ?_
    | split)

theorem keepCmd_railsLeave (im : Image) (s : State) : (railsLeave im s).keepCmd = s.keepCmd := by
  unfold railsLeave
  repeat' (first
    | with_reducible rfl
    | simp only [keepCmd_mk, keepCmd_fold, ite_keepCmd, ite_self, implies_true, keepCmd_marginLeave, keepCmd_withImage]
    | refine (keepCmd_each _ _ (fun a s => ?_) _).trans ?_
    | split)

theorem keepCmd_activate (im : Image) (first : Bool) (s : State) : (activate im first s).keepCmd = s.keepCmd := by
  unfold activate
  repeat' (first
    | with_reducible rfl
    | simp only [keepCmd_mk, keepCmd_fold, ite_keepCmd, ite_self, implies_true, keepCmd_modEng, keepCmd_entriesIn, keepCmd_gate, keepCmd_portsUpdate, keepCmd_railsIn, keepCmd_railsLeave, keepCmd_refsIn, keepCmd_stagesIn, keepCmd_voutModes, keepCmd_wcTables, keepCmd_withImage]
    | refine (keepCmd_each _ _ (fun a s => ?_) _).trans ?_
    | split)

theorem keepCmd_activateGen (n p q : Nat) (s : State) : (activateGen n p q s).keepCmd = s.keepCmd := by
  unfold activateGen
  repeat' (first
    | with_reducible rfl
    | simp only [keepCmd_mk, keepCmd_fold, ite_keepCmd, ite_self, implies_true, keepCmd_activate, keepCmd_beginProb, keepCmd_changeGen]
    | refine (keepCmd_each _ _ (fun a s => ?_) _).trans ?_
    | split)

theorem keepCmd_revertGen (q : Nat) (s : State) : (revertGen q s).keepCmd = s.keepCmd := by
  unfold revertGen
  repeat' (first
    | with_reducible rfl
    | simp only [keepCmd_mk, keepCmd_fold, ite_keepCmd, ite_self, implies_true, keepCmd_activate, keepCmd_beginProb, keepCmd_changeGen]
    | refine (keepCmd_each _ _ (fun a s => ?_) _).trans ?_
    | split)

theorem keepCmd_activateAt (s : State) : (activateAt s).keepCmd = s.keepCmd := by
  unfold activateAt
  repeat' (first
    | with_reducible rfl
    | simp only [keepCmd_mk, keepCmd_fold, ite_keepCmd, ite_self, implies_true, keepCmd_activateGen, keepCmd_finish, keepCmd_revertGen]
    | refine (keepCmd_each _ _ (fun a s => ?_) _).trans ?_
    | split)

theorem keepCmd_loopWrite (p : Nat × Nat) (s : State) : (loopWrite p s).keepCmd = s.keepCmd := by
  unfold loopWrite
  repeat' (first
    | with_reducible rfl
    | simp only [keepCmd_mk, keepCmd_fold, ite_keepCmd, ite_self, implies_true]
    | refine (keepCmd_each _ _ (fun a s => ?_) _).trans ?_
    | split)

theorem keepCmd_cmdLoopSetup (l : Live) (s : State) : (cmdLoopSetup l s).keepCmd = s.keepCmd := by
  unfold cmdLoopSetup
  repeat' (first
    | with_reducible rfl
    | simp only [keepCmd_mk, keepCmd_fold, ite_keepCmd, ite_self, implies_true, keepCmd_commitCoef, keepCmd_finish, keepCmd_loopWrite]
    | refine (keepCmd_each _ _ (fun a s => ?_) _).trans ?_
    | split)

theorem keepCmd_cmdCapSet (l : Live) (s : State) : (cmdCapSet l s).keepCmd = s.keepCmd := by
  unfold cmdCapSet
  repeat' (first
    | with_reducible rfl
    | simp only [keepCmd_mk, keepCmd_fold, ite_keepCmd, ite_self, implies_true, keepCmd_setReg, keepCmd_finish, keepCmd_park]
    | refine (keepCmd_each _ _ (fun a s => ?_) _).trans ?_
    | split)

theorem keepCmd_activateWhen (l : Live) (n p at_ : Nat) (rev : Bool) (s : State) : (activateWhen l n p at_ rev s).keepCmd = s.keepCmd := by
  unfold activateWhen
  repeat' (first
    | with_reducible rfl
    | simp only [keepCmd_mk, keepCmd_fold, ite_keepCmd, ite_self, implies_true, keepCmd_activateAt, keepCmd_finish, keepCmd_park]
    | refine (keepCmd_each _ _ (fun a s => ?_) _).trans ?_
    | split)

theorem keepCmd_cmdConfigActivate (l : Live) (s : State) : (cmdConfigActivate l s).keepCmd = s.keepCmd := by
  unfold cmdConfigActivate
  repeat' (first
    | with_reducible rfl
    | simp only [keepCmd_mk, keepCmd_fold, ite_keepCmd, ite_self, implies_true, keepCmd_activateWhen, keepCmd_finish, keepCmd_nvwpEnd]
    | refine (keepCmd_each _ _ (fun a s => ?_) _).trans ?_
    | split)

theorem keepCmd_cmdConfigRevert (l : Live) (s : State) : (cmdConfigRevert l s).keepCmd = s.keepCmd := by
  unfold cmdConfigRevert
  repeat' (first
    | with_reducible rfl
    | simp only [keepCmd_mk, keepCmd_fold, ite_keepCmd, ite_self, implies_true, keepCmd_activateWhen, keepCmd_finish, keepCmd_nvwpEnd]
    | refine (keepCmd_each _ _ (fun a s => ?_) _).trans ?_
    | split)

theorem keepCmd_cmdEffect (l : Live) (s : State) : (cmdEffect l s).keepCmd = s.keepCmd := by
  unfold cmdEffect
  repeat' (first
    | with_reducible rfl
    | simp only [keepCmd_mk, keepCmd_fold, ite_keepCmd, ite_self, implies_true, keepCmd_cmdAlogRead, keepCmd_cmdCapSet, keepCmd_cmdConfigActivate, keepCmd_cmdConfigCapture, keepCmd_cmdConfigConfirm, keepCmd_cmdConfigLoad, keepCmd_cmdConfigRevert, keepCmd_cmdConvCal, keepCmd_cmdConvStart, keepCmd_cmdConvUrgent, keepCmd_cmdCountersRead, keepCmd_cmdFfClear, keepCmd_cmdFlagsSet, keepCmd_cmdGraphLoad, keepCmd_cmdGroupOff, keepCmd_cmdHandover, keepCmd_cmdJournalRead, keepCmd_cmdLoopSetup, keepCmd_cmdMargin, keepCmd_cmdPowerOff, keepCmd_cmdPowerOn, keepCmd_cmdProgAbort, keepCmd_cmdProgLaunch, keepCmd_cmdProgLoad, keepCmd_cmdRecChallenge, keepCmd_cmdRecClear, keepCmd_cmdRecFreeze, keepCmd_cmdRecRead, keepCmd_cmdRetryCancel, keepCmd_cmdStageClear, keepCmd_cmdStageStart, keepCmd_cmdStageStop, keepCmd_cmdStateRead, keepCmd_cmdSysrst, keepCmd_cmdTagRead, keepCmd_cmdTagWrite, keepCmd_finish]
    | refine (keepCmd_each _ _ (fun a s => ?_) _).trans ?_
    | split)

theorem keepCmd_memberEffect (l : Live) (s : State) : (memberEffect l s).keepCmd = s.keepCmd := by
  unfold memberEffect
  repeat' (first
    | with_reducible rfl
    | simp only [keepCmd_mk, keepCmd_fold, ite_keepCmd, ite_self, implies_true, keepCmd_cmdEffect, keepCmd_finish]
    | refine (keepCmd_each _ _ (fun a s => ?_) _).trans ?_
    | split)

theorem keepCmd_applyCmd (l : Live) (s : State) : (applyCmd l s).keepCmd = s.keepCmd := by
  unfold applyCmd
  repeat' (first
    | with_reducible rfl
    | simp only [keepCmd_mk, keepCmd_fold, ite_keepCmd, ite_self, implies_true, keepCmd_barEffect, keepCmd_cmdEffect, keepCmd_finish, keepCmd_memberEffect, keepCmd_relayOut, keepCmd_startedPost]
    | refine (keepCmd_each _ _ (fun a s => ?_) _).trans ?_
    | split)

theorem keepCmd_frame (v : Frame) (s : State) : State.keepCmd { s with clk := { s.clk with frame := v } } = s.keepCmd := rfl

theorem keepCmd_atBoundary (f : State → State) (s : State) (hf : ∀ s, (f s).keepCmd = s.keepCmd) :
    (atBoundary f s).keepCmd = s.keepCmd := by
  unfold atBoundary
  exact (keepCmd_frame _ _).trans ((hf _).trans (keepCmd_frame _ _))

theorem keepCmd_hostRow (op r : Nat) (d : Desc) (s : State) : (hostRow op r d s).keepCmd = s.keepCmd := by
  unfold hostRow
  split
  · rfl
  · simp only
    split
    · rfl
    · split
      · rfl
      · refine (keepCmd_atBoundary _ _ (fun s => (keepCmd_progsTell _).trans (keepCmd_applyCmd _ s))).trans ?_
        exact keepCmd_acceptEntry _ _ _ (s.modRing (8 + r) _)


end Sys2Proof.Machine
end

