-- ==== Sys2Proof/Laws/FrameConv.lean ====
section
/-! SUPPORT. FrameConv.lean: the operations behind the conv family of commands leave the state outside that family's
own parts as it is, one lemma per operation (the frame statements go through these). -/

set_option linter.all false
set_option linter.unusedSimpArgs false
set_option linter.unreachableTactic false
set_option linter.unusedTactic false
namespace Sys2Proof.Machine

/-- What no command of this family touches. -/
def State.keepConv (s : State) :=
  (s.pending, s.clk, s.engs, s.ovrStat, s.ovrNow, s.wc, s.recd.noCapt, s.bar0, s.cfg, s.setup, s.coef, s.banks, s.mdacs, s.pmb, s.watches, s.seq, s.off, s.flt, s.drt, s.dmp, s.shr, s.stgs, s.phases, s.sca, s.pair, s.nv.noRevertdue, s.fw, s.pwr, s.free)

theorem keepConv_mk (a b c d e f g h i j k l m n o p q r u v w x y z a1 b1 c1 d1 e1 f1 g1 h1 i1 j1 k1 l1) :
    State.keepConv (State.mk a b c d e f g h i j k l m n o p q r u v w x y z a1 b1 c1 d1 e1 f1 g1 h1 i1 j1 k1 l1) =
      (a, b, c, d, e, f, j.noCapt, k, l, m, n, p, q, r, u, v, w, x, y, z, a1, d1, e1, f1, g1, h1.noRevertdue, i1, j1, k1) := rfl

theorem keepConv_fold (s : State) : (s.pending, s.clk, s.engs, s.ovrStat, s.ovrNow, s.wc, s.recd.noCapt, s.bar0, s.cfg, s.setup, s.coef, s.banks, s.mdacs, s.pmb, s.watches, s.seq, s.off, s.flt, s.drt, s.dmp, s.shr, s.stgs, s.phases, s.sca, s.pair, s.nv.noRevertdue, s.fw, s.pwr, s.free) = s.keepConv := rfl

theorem ite_keepConv (c : Prop) [Decidable c] (a b : State) :
    State.keepConv (if c then a else b) = if c then a.keepConv else b.keepConv := by split <;> rfl

theorem keepConv_each {α : Type} (l : List α) (f : α → State → State) (hf : ∀ a s, (f a s).keepConv = s.keepConv) (s : State) :
    (each l f s).keepConv = s.keepConv := by
  unfold each
  induction l generalizing s with
  | nil => rfl
  | cons a l ih => exact (ih _).trans (hf a s)

theorem keepConv_foldl {α β : Type} (g : β → State) (f : β → α → β) (hf : ∀ b a, (g (f b a)).keepConv = (g b).keepConv)
    (l : List α) (b : β) : (g (l.foldl f b)).keepConv = (g b).keepConv := by
  induction l generalizing b with
  | nil => rfl
  | cons a l ih => exact (ih _).trans (hf b a)

theorem keepConv_modRail (i : Nat) (f : Rail → Rail) (s : State) : (State.modRail i f s).keepConv = s.keepConv := by
  unfold State.modRail
  repeat' (first
    | with_reducible rfl
    | simp only [keepConv_mk, keepConv_fold, ite_keepConv, ite_self, implies_true]
    | refine (keepConv_each _ _ (fun a s => ?_) _).trans ?_
    | split)

theorem keepConv_modCore (i : Nat) (f : ACore → ACore) (s : State) : (State.modCore i f s).keepConv = s.keepConv := by
  unfold State.modCore
  repeat' (first
    | with_reducible rfl
    | simp only [keepConv_mk, keepConv_fold, ite_keepConv, ite_self, implies_true]
    | refine (keepConv_each _ _ (fun a s => ?_) _).trans ?_
    | split)

theorem keepConv_modPpair (i : Nat) (f : PPair → PPair) (s : State) : (State.modPpair i f s).keepConv = s.keepConv := by
  unfold State.modPpair
  repeat' (first
    | with_reducible rfl
    | simp only [keepConv_mk, keepConv_fold, ite_keepConv, ite_self, implies_true]
    | refine (keepConv_each _ _ (fun a s => ?_) _).trans ?_
    | split)

theorem keepConv_modRefm (i : Nat) (f : RefMon → RefMon) (s : State) : (State.modRefm i f s).keepConv = s.keepConv := by
  unfold State.modRefm
  repeat' (first
    | with_reducible rfl
    | simp only [keepConv_mk, keepConv_fold, ite_keepConv, ite_self, implies_true]
    | refine (keepConv_each _ _ (fun a s => ?_) _).trans ?_
    | split)

theorem keepConv_emit (o : Out) (s : State) : (emit o s).keepConv = s.keepConv := by
  unfold emit
  repeat' (first
    | with_reducible rfl
    | simp only [keepConv_mk, keepConv_fold, ite_keepConv, ite_self, implies_true]
    | refine (keepConv_each _ _ (fun a s => ?_) _).trans ?_
    | split)

theorem keepConv_ashAdd (n : Nat) (s : State) : (ashAdd n s).keepConv = s.keepConv := by
  unfold ashAdd
  repeat' (first
    | with_reducible rfl
    | simp only [keepConv_mk, keepConv_fold, ite_keepConv, ite_self, implies_true]
    | refine (keepConv_each _ _ (fun a s => ?_) _).trans ?_
    | split
    | rfl)

theorem keepConv_capture (o : Occ) (s : State) : (capture o s).keepConv = s.keepConv := by
  unfold capture
  repeat' (first
    | with_reducible rfl
    | simp only [keepConv_mk, keepConv_fold, ite_keepConv, ite_self, implies_true, keepConv_ashAdd]
    | refine (keepConv_each _ _ (fun a s => ?_) _).trans ?_
    | split
    | rfl)

theorem keepConv_raiseCore (o : Occ) (s : State) : (raiseCore o s).keepConv = s.keepConv := by
  unfold raiseCore
  repeat' (first
    | with_reducible rfl
    | simp only [keepConv_mk, keepConv_fold, ite_keepConv, ite_self, implies_true, keepConv_capture]
    | refine (keepConv_each _ _ (fun a s => ?_) _).trans ?_
    | split
    | rfl)

theorem keepConv_ashEvent (old : Nat) (s : State) : (ashEvent old s).keepConv = s.keepConv := by
  unfold ashEvent
  repeat' (first
    | with_reducible rfl
    | simp only [keepConv_mk, keepConv_fold, ite_keepConv, ite_self, implies_true, keepConv_raiseCore]
    | refine (keepConv_each _ _ (fun a s => ?_) _).trans ?_
    | split)

theorem keepConv_raiseSev (src sev : Nat) (ts : Ts) (d : BitVec 128) (s : State) : (raiseSev src sev ts d s).keepConv = s.keepConv :=
    by
  unfold raiseSev
  repeat' (first
    | with_reducible rfl
    | simp only [keepConv_mk, keepConv_fold, ite_keepConv, ite_self, implies_true, keepConv_ashEvent, keepConv_raiseCore]
    | refine (keepConv_each _ _ (fun a s => ?_) _).trans ?_
    | split)

theorem keepConv_raise (src : Nat) (ts : Ts) (d : BitVec 128) (s : State) : (raise src ts d s).keepConv = s.keepConv := by
  unfold raise
  repeat' (first
    | with_reducible rfl
    | simp only [keepConv_mk, keepConv_fold, ite_keepConv, ite_self, implies_true, keepConv_raiseSev]
    | refine (keepConv_each _ _ (fun a s => ?_) _).trans ?_
    | split)

theorem keepConv_finishAt (d q status result : Nat) (s : State) : (finishAt d q status result s).keepConv = s.keepConv := by
  unfold finishAt
  repeat' (first
    | with_reducible rfl
    | simp only [keepConv_mk, keepConv_fold, ite_keepConv, ite_self, implies_true]
    | refine (keepConv_each _ _ (fun a s => ?_) _).trans ?_
    | split)

theorem keepConv_finishMid (w : Wait → Bool) (status result : Nat) (s : State) : (finishMid w status result s).keepConv = s.keepConv
    := by
  unfold finishMid
  repeat' (first
    | with_reducible rfl
    | simp only [keepConv_mk, keepConv_fold, ite_keepConv, ite_self, implies_true, keepConv_each, keepConv_finishAt]
    | refine (keepConv_each _ _ (fun a s => ?_) _).trans ?_
    | split)

theorem keepConv_modEnt (c e : Nat) (f : Ent → Ent) (s : State) : (modEnt c e f s).keepConv = s.keepConv := by
  unfold modEnt
  repeat' (first
    | with_reducible rfl
    | simp only [keepConv_mk, keepConv_fold, ite_keepConv, ite_self, implies_true, keepConv_modCore]
    | refine (keepConv_each _ _ (fun a s => ?_) _).trans ?_
    | split)

theorem keepConv_modSlice (c i : Nat) (f : Slice → Slice) (s : State) : (modSlice c i f s).keepConv = s.keepConv := by
  unfold modSlice
  repeat' (first
    | with_reducible rfl
    | simp only [keepConv_mk, keepConv_fold, ite_keepConv, ite_self, implies_true, keepConv_modCore]
    | refine (keepConv_each _ _ (fun a s => ?_) _).trans ?_
    | split)

theorem keepConv_setPlan (c g : Nat) (u : SlotUse) (s : State) : (setPlan c g u s).keepConv = s.keepConv := by
  unfold setPlan
  repeat' (first
    | with_reducible rfl
    | simp only [keepConv_mk, keepConv_fold, ite_keepConv, ite_self, implies_true, keepConv_modCore]
    | refine (keepConv_each _ _ (fun a s => ?_) _).trans ?_
    | split)

theorem keepConv_dropTell (c e : Nat) (s : State) : (dropTell c e s).keepConv = s.keepConv := by
  unfold dropTell
  repeat' (first
    | with_reducible rfl
    | simp only [keepConv_mk, keepConv_fold, ite_keepConv, ite_self, implies_true, keepConv_modCore, keepConv_raise]
    | refine (keepConv_each _ _ (fun a s => ?_) _).trans ?_
    | split)

theorem keepConv_dropConv (c e : Nat) (s : State) : (dropConv c e s).keepConv = s.keepConv := by
  unfold dropConv
  repeat' (first
    | with_reducible rfl
    | simp only [keepConv_mk, keepConv_fold, ite_keepConv, ite_self, implies_true, keepConv_modCore, keepConv_dropTell]
    | refine (keepConv_each _ _ (fun a s => ?_) _).trans ?_
    | split)

theorem keepConv_unplace (c at_ : Nat) (s : State) : (unplace c at_ s).keepConv = s.keepConv := by
  unfold unplace
  repeat' (first
    | with_reducible rfl
    | simp only [keepConv_mk, keepConv_fold, ite_keepConv, ite_self, implies_true, keepConv_modCore]
    | refine (keepConv_each _ _ (fun a s => ?_) _).trans ?_
    | split)

theorem keepConv_placeDisplaced (c : Nat) (d : Nat × Nat × Option Nat) (s : State) : (placeDisplaced c d s).keepConv = s.keepConv :=
    by
  unfold placeDisplaced
  repeat' (first
    | with_reducible rfl
    | simp only [keepConv_mk, keepConv_fold, ite_keepConv, ite_self, implies_true, keepConv_modCore, keepConv_dropConv]
    | refine (keepConv_each _ _ (fun a s => ?_) _).trans ?_
    | split)

theorem keepConv_placeClaims (c at_ : Nat) (s : State) : (placeClaims c at_ s).keepConv = s.keepConv := by
  unfold placeClaims
  repeat' (first
    | with_reducible rfl
    | simp only [keepConv_mk, keepConv_fold, ite_keepConv, ite_self, implies_true, keepConv_modCore, keepConv_each,
        keepConv_placeDisplaced, keepConv_unplace]
    | refine (keepConv_each _ _ (fun a s => ?_) _).trans ?_
    | split)

theorem keepConv_unplan (c at_ : Nat) (g : Nat) (s : State) : (unplan c at_ g s).keepConv = s.keepConv := by
  unfold unplan
  repeat' (first
    | with_reducible rfl
    | simp only [keepConv_mk, keepConv_fold, ite_keepConv, ite_self, implies_true, keepConv_modCore, keepConv_setPlan]
    | refine (keepConv_each _ _ (fun a s => ?_) _).trans ?_
    | split)

theorem keepConv_displace (c at_ : Nat) (l : List Nat) (s : State) : (displace c at_ l s).keepConv = s.keepConv := by
  unfold displace
  repeat' (first
    | with_reducible rfl
    | simp only [keepConv_mk, keepConv_fold, ite_keepConv, ite_self, implies_true, keepConv_each, keepConv_placeClaims, keepConv_unplan]
    | refine (keepConv_each _ _ (fun a s => ?_) _).trans ?_
    | split)

theorem keepConv_startSeq (c t g : Nat) (s : State) : (startSeq c t g s).keepConv = s.keepConv := by
  unfold startSeq
  repeat' (first
    | with_reducible rfl
    | simp only [keepConv_mk, keepConv_fold, ite_keepConv, ite_self, implies_true, keepConv_modCore, keepConv_placeClaims]
    | refine (keepConv_each _ _ (fun a s => ?_) _).trans ?_
    | split)

theorem keepConv_seqEnded (c e : Nat) (s : State) : (seqEnded c e s).keepConv = s.keepConv := by
  unfold seqEnded
  repeat' (first
    | with_reducible rfl
    | simp only [keepConv_mk, keepConv_fold, ite_keepConv, ite_self, implies_true, keepConv_modCore, keepConv_finishMid]
    | refine (keepConv_each _ _ (fun a s => ?_) _).trans ?_
    | split)

theorem keepConv_modUrg (c k : Nat) (f : Urg → Urg) (s : State) : (modUrg c k f s).keepConv = s.keepConv := by
  unfold modUrg
  repeat' (first
    | with_reducible rfl
    | simp only [keepConv_mk, keepConv_fold, ite_keepConv, ite_self, implies_true, keepConv_modCore]
    | refine (keepConv_each _ _ (fun a s => ?_) _).trans ?_
    | split)

theorem keepConv_fireUrgent (c k cyc : Nat) (s : State) : (fireUrgent c k cyc s).2.keepConv = s.keepConv := by
  unfold fireUrgent
  repeat' (first
    | with_reducible rfl
    | simp only [keepConv_mk, keepConv_fold, ite_keepConv, ite_self, implies_true, keepConv_modCore, keepConv_each, keepConv_modUrg,
        keepConv_raise]
    | refine (keepConv_each _ _ (fun a s => ?_) _).trans ?_
    | split)

theorem keepConv_scrubDone (c i g : Nat) (s : State) : (scrubDone c i g s).keepConv = s.keepConv := by
  unfold scrubDone
  repeat' (first
    | with_reducible rfl
    | simp only [keepConv_mk, keepConv_fold, ite_keepConv, ite_self, implies_true, keepConv_modCore, keepConv_modSlice]
    | refine (keepConv_each _ _ (fun a s => ?_) _).trans ?_
    | split)

theorem keepConv_startUrgent (c k : Nat) (s : State) : (startUrgent c k s).keepConv = s.keepConv := by
  unfold startUrgent
  repeat' (first
    | with_reducible rfl
    | simp only [keepConv_mk, keepConv_fold, ite_keepConv, ite_self, implies_true, keepConv_displace, keepConv_modUrg, keepConv_scrubDone]
    | refine (keepConv_each _ _ (fun a s => ?_) _).trans ?_
    | split)

theorem keepConv_overRange (c i ch e g : Nat) (res : Res) (clamp : Bool) (s : State) : (overRange c i ch e g res clamp s).keepConv
    = s.keepConv := by
  unfold overRange
  repeat' (first
    | with_reducible rfl
    | simp only [keepConv_mk, keepConv_fold, ite_keepConv, ite_self, implies_true, keepConv_modCore, keepConv_modSlice, keepConv_raise]
    | refine (keepConv_each _ _ (fun a s => ?_) _).trans ?_
    | split)

theorem keepConv_windowUpdate (c e : Nat) (r : Res) (s : State) : (windowUpdate c e r s).keepConv = s.keepConv := by
  unfold windowUpdate
  repeat' (first
    | with_reducible rfl
    | simp only [keepConv_mk, keepConv_fold, ite_keepConv, ite_self, implies_true, keepConv_modCore, keepConv_modEnt, keepConv_raise]
    | refine (keepConv_each _ _ (fun a s => ?_) _).trans ?_
    | split)

theorem keepConv_invalidCore (c : Nat) (s : State) : (invalidCore c s).keepConv = s.keepConv := by
  unfold invalidCore
  repeat' (first
    | with_reducible rfl
    | simp only [keepConv_mk, keepConv_fold, ite_keepConv, ite_self, implies_true, keepConv_each, keepConv_modEnt]
    | refine (keepConv_each _ _ (fun a s => ?_) _).trans ?_
    | split)

theorem keepConv_plausVote (p : Nat) (a b : Res) (s : State) : (plausVote p a b s).keepConv = s.keepConv := by
  unfold plausVote
  repeat' (first
    | with_reducible rfl
    | simp only [keepConv_mk, keepConv_fold, ite_keepConv, ite_self, implies_true, keepConv_modPpair, keepConv_raise]
    | refine (keepConv_each _ _ (fun a s => ?_) _).trans ?_
    | split)

theorem keepConv_plausRestore (p : Nat) (s : State) : (plausRestore p s).keepConv = s.keepConv := by
  unfold plausRestore
  repeat' (first
    | with_reducible rfl
    | simp only [keepConv_mk, keepConv_fold, ite_keepConv, ite_self, implies_true, keepConv_modPpair, keepConv_raise]
    | refine (keepConv_each _ _ (fun a s => ?_) _).trans ?_
    | split)

theorem keepConv_plausCompare (p : Nat) (s : State) : (plausCompare p s).keepConv = s.keepConv := by
  unfold plausCompare
  repeat' (first
    | with_reducible rfl
    | simp only [keepConv_mk, keepConv_fold, ite_keepConv, ite_self, implies_true, keepConv_modPpair, keepConv_plausRestore,
        keepConv_plausVote]
    | refine (keepConv_each _ _ (fun a s => ?_) _).trans ?_
    | split)

theorem keepConv_coefUpdate (c k i : Nat) (r : Int) (s : State) : (coefUpdate c k i r s).keepConv = s.keepConv := by
  unfold coefUpdate
  repeat' (first
    | with_reducible rfl
    | simp only [keepConv_mk, keepConv_fold, ite_keepConv, ite_self, implies_true, keepConv_modSlice]
    | refine (keepConv_each _ _ (fun a s => ?_) _).trans ?_
    | split)

theorem keepConv_hkResult (c k i : Nat) (r : Int) (res : Res) (s : State) : (hkResult c k i r res s).keepConv = s.keepConv := by
  unfold hkResult
  repeat' (first
    | with_reducible rfl
    | simp only [keepConv_mk, keepConv_fold, ite_keepConv, ite_self, implies_true, keepConv_modCore, keepConv_coefUpdate]
    | refine (keepConv_each _ _ (fun a s => ?_) _).trans ?_
    | split)

theorem keepConv_shedCompare (c e : Nat) (r : Res) (s : State) : (shedCompare c e r s).keepConv = s.keepConv := by
  unfold shedCompare
  repeat' (first
    | with_reducible rfl
    | simp only [keepConv_mk, keepConv_fold, ite_keepConv, ite_self, implies_true]
    | refine (keepConv_each _ _ (fun a s => ?_) _).trans ?_
    | split)

theorem keepConv_railHistory (c e : Nat) (r : Res) (s : State) : (railHistory c e r s).keepConv = s.keepConv := by
  unfold railHistory
  repeat' (first
    | with_reducible rfl
    | simp only [keepConv_mk, keepConv_fold, ite_keepConv, ite_self, implies_true, keepConv_modRail]
    | refine (keepConv_each _ _ (fun a s => ?_) _).trans ?_
    | split)

theorem keepConv_calRefuse (status res : Nat) (s : State) : (calRefuse status res s).keepConv = s.keepConv := by
  unfold calRefuse
  repeat' (first
    | with_reducible rfl
    | simp only [keepConv_mk, keepConv_fold, ite_keepConv, ite_self, implies_true, keepConv_finishAt, keepConv_raise]
    | refine (keepConv_each _ _ (fun a s => ?_) _).trans ?_
    | split)

theorem keepConv_calAverage (c e : Nat) (r : Res) (s : State) : (calAverage c e r s).keepConv = s.keepConv := by
  unfold calAverage
  repeat' (first
    | with_reducible rfl
    | simp only [keepConv_mk, keepConv_fold, ite_keepConv, ite_self, implies_true, keepConv_calRefuse]
    | refine (keepConv_each _ _ (fun a s => ?_) _).trans ?_
    | split)

theorem keepConv_writeEntry (c e g i : Nat) (r : Int) (clamp urg : Bool) (s : State) : (writeEntry c e g i r clamp urg s).keepConv
    = s.keepConv := by
  unfold writeEntry
  repeat' (first
    | with_reducible rfl
    | simp only [keepConv_mk, keepConv_fold, ite_keepConv, ite_self, implies_true, keepConv_calAverage, keepConv_dropConv,
        keepConv_modEnt, keepConv_overRange, keepConv_railHistory, keepConv_shedCompare, keepConv_windowUpdate]
    | refine (keepConv_each _ _ (fun a s => ?_) _).trans ?_
    | split)

theorem keepConv_pResult (c i g : Nat) (r : Int) (clamp : Bool) (s : State) : (pResult c i g r clamp s).keepConv = s.keepConv := by
  unfold pResult
  repeat' (first
    | with_reducible rfl
    | simp only [keepConv_mk, keepConv_fold, ite_keepConv, ite_self, implies_true, keepConv_modCore, keepConv_overRange,
        keepConv_plausCompare]
    | refine (keepConv_each _ _ (fun a s => ?_) _).trans ?_
    | split)

theorem keepConv_slotEnd (c j : Nat) (r : Int) (clamp : Bool) (s : State) : (slotEnd c j r clamp s).keepConv = s.keepConv := by
  unfold slotEnd
  repeat' (first
    | with_reducible rfl
    | simp only [keepConv_mk, keepConv_fold, ite_keepConv, ite_self, implies_true, keepConv_displace, keepConv_hkResult,
        keepConv_overRange, keepConv_pResult, keepConv_scrubDone, keepConv_seqEnded, keepConv_setPlan, keepConv_writeEntry]
    | refine (keepConv_each _ _ (fun a s => ?_) _).trans ?_
    | split)

theorem keepConv_urgentEnd (c k : Nat) (r : Int) (clamp : Bool) (s : State) : (urgentEnd c k r clamp s).keepConv = s.keepConv := by
  unfold urgentEnd
  repeat' (first
    | with_reducible rfl
    | simp only [keepConv_mk, keepConv_fold, ite_keepConv, ite_self, implies_true, keepConv_finishMid, keepConv_modUrg,
        keepConv_writeEntry]
    | refine (keepConv_each _ _ (fun a s => ?_) _).trans ?_
    | split)

theorem keepConv_refFault (p : Nat) (s : State) : (refFault p s).keepConv = s.keepConv := by
  unfold refFault
  repeat' (first
    | with_reducible rfl
    | simp only [keepConv_mk, keepConv_fold, ite_keepConv, ite_self, implies_true, keepConv_modRefm, keepConv_raise]
    | refine (keepConv_each _ _ (fun a s => ?_) _).trans ?_
    | split)

theorem keepConv_refFall (p : Nat) (s : State) : (refFall p s).keepConv = s.keepConv := by
  unfold refFall
  repeat' (first
    | with_reducible rfl
    | simp only [keepConv_mk, keepConv_fold, ite_keepConv, ite_self, implies_true, keepConv_modRefm, keepConv_invalidCore,
        keepConv_refFault]
    | refine (keepConv_each _ _ (fun a s => ?_) _).trans ?_
    | split)

theorem keepConv_refSet (p : Nat) (s : State) : (refSet p s).keepConv = s.keepConv := by
  unfold refSet
  repeat' (first
    | with_reducible rfl
    | simp only [keepConv_mk, keepConv_fold, ite_keepConv, ite_self, implies_true, keepConv_modRefm]
    | refine (keepConv_each _ _ (fun a s => ?_) _).trans ?_
    | split)

theorem keepConv_unclamp (c i : Nat) (s : State) : (unclamp c i s).keepConv = s.keepConv := by
  unfold unclamp
  repeat' (first
    | with_reducible rfl
    | simp only [keepConv_mk, keepConv_fold, ite_keepConv, ite_self, implies_true, keepConv_modSlice]
    | refine (keepConv_each _ _ (fun a s => ?_) _).trans ?_
    | split)

theorem keepConv_edgeCore (n cyc c : Nat) (s : State) : (edgeCore n cyc c s).keepConv = s.keepConv := by
  unfold edgeCore
  repeat' (first
    | with_reducible rfl
    | simp only [keepConv_mk, keepConv_fold, ite_keepConv, ite_self, implies_true, keepConv_modCore, keepConv_raise, keepConv_startSeq]
    | refine (keepConv_each _ _ (fun a s => ?_) _).trans ?_
    | split)

theorem keepConv_trgEdge (n : Nat) (rising : Bool) (cyc : Nat) (s : State) : (trgEdge n rising cyc s).keepConv = s.keepConv := by
  unfold trgEdge
  repeat' (first
    | with_reducible rfl
    | simp only [keepConv_mk, keepConv_fold, ite_keepConv, ite_self, implies_true, keepConv_each, keepConv_edgeCore, keepConv_fireUrgent]
    | refine (keepConv_each _ _ (fun a s => ?_) _).trans ?_
    | split)

theorem keepConv_convEnd (c j : Nat) (r : Int) (clamp : Bool) (s : State) : (convEnd c j r clamp s).keepConv = s.keepConv := by
  unfold convEnd
  repeat' (first
    | with_reducible rfl
    | simp only [keepConv_mk, keepConv_fold, ite_keepConv, ite_self, implies_true, keepConv_slotEnd, keepConv_urgentEnd]
    | refine (keepConv_each _ _ (fun a s => ?_) _).trans ?_
    | split)

theorem keepConv_plausNow (p : Nat) (s : State) : (plausNow p s).keepConv = s.keepConv := by
  unfold plausNow
  repeat' (first
    | with_reducible rfl
    | simp only [keepConv_mk, keepConv_fold, ite_keepConv, ite_self, implies_true, keepConv_modPpair, keepConv_plausRestore]
    | refine (keepConv_each _ _ (fun a s => ?_) _).trans ?_
    | split)

theorem keepConv_dropNow (c e : Nat) (s : State) : (dropNow c e s).keepConv = s.keepConv := by
  unfold dropNow
  repeat' (first
    | with_reducible rfl
    | simp only [keepConv_mk, keepConv_fold, ite_keepConv, ite_self, implies_true, keepConv_dropConv]
    | refine (keepConv_each _ _ (fun a s => ?_) _).trans ?_
    | split)

theorem keepConv_refSetNow (p : Nat) (s : State) : (refSetNow p s).keepConv = s.keepConv := by
  unfold refSetNow
  repeat' (first
    | with_reducible rfl
    | simp only [keepConv_mk, keepConv_fold, ite_keepConv, ite_self, implies_true, keepConv_modRefm, keepConv_refSet]
    | refine (keepConv_each _ _ (fun a s => ?_) _).trans ?_
    | split)

theorem keepConv_refTimeout (p : Nat) (s : State) : (refTimeout p s).keepConv = s.keepConv := by
  unfold refTimeout
  repeat' (first
    | with_reducible rfl
    | simp only [keepConv_mk, keepConv_fold, ite_keepConv, ite_self, implies_true, keepConv_modRefm, keepConv_refFault]
    | refine (keepConv_each _ _ (fun a s => ?_) _).trans ?_
    | split)

theorem keepConv_refFallNow (p : Nat) (s : State) : (refFallNow p s).keepConv = s.keepConv := by
  unfold refFallNow
  repeat' (first
    | with_reducible rfl
    | simp only [keepConv_mk, keepConv_fold, ite_keepConv, ite_self, implies_true, keepConv_refFall]
    | refine (keepConv_each _ _ (fun a s => ?_) _).trans ?_
    | split)

theorem keepConv_wselWrite (v : W32) (s : State) : (wselWrite v s).keepConv = s.keepConv := by
  unfold wselWrite
  repeat' (first
    | with_reducible rfl
    | simp only [keepConv_mk, keepConv_fold, ite_keepConv, ite_self, implies_true]
    | refine (keepConv_each _ _ (fun a s => ?_) _).trans ?_
    | split)

theorem keepConv_answerRead (o : Nat) (s : State) : (answerRead o s).keepConv = s.keepConv := by
  unfold answerRead
  repeat' (first
    | with_reducible rfl
    | simp only [keepConv_mk, keepConv_fold, ite_keepConv, ite_self, implies_true, keepConv_emit]
    | refine (keepConv_each _ _ (fun a s => ?_) _).trans ?_
    | split)

theorem keepConv_readRes (e : Nat) (s : State) : (readRes e s).keepConv = s.keepConv := by
  unfold readRes
  repeat' (first
    | with_reducible rfl
    | simp only [keepConv_mk, keepConv_fold, ite_keepConv, ite_self, implies_true, keepConv_answerRead]
    | refine (keepConv_each _ _ (fun a s => ?_) _).trans ?_
    | split)


end Sys2Proof.Machine
end

