-- ==== Sys2Proof/Laws/FrameFlt.lean ====
section
/-! SUPPORT. FrameFlt.lean: these operations leave the fault block alone. -/

set_option linter.all false
set_option linter.unusedSimpArgs false
set_option linter.unreachableTactic false
set_option linter.unusedTactic false
namespace Sys2Proof.Machine

/-- these operations leave the fault block alone. -/
def State.onFlt (s : State) :=
  (s.flt)

theorem onFlt_mk (a b c d e f g h i j k l m n o p q r u v w x y z a1 b1 c1 d1 e1 f1 g1 h1 i1 j1 k1 l1) :
    State.onFlt (State.mk a b c d e f g h i j k l m n o p q r u v w x y z a1 b1 c1 d1 e1 f1 g1 h1 i1 j1 k1 l1) =
      (x) := rfl

theorem onFlt_fold (s : State) : (s.flt) = s.onFlt := rfl

theorem ite_onFlt (c : Prop) [Decidable c] (a b : State) :
    State.onFlt (if c then a else b) = if c then a.onFlt else b.onFlt := by split <;> rfl

theorem onFlt_each {α : Type} (l : List α) (f : α → State → State) (hf : ∀ a s, (f a s).onFlt = s.onFlt) (s : State) :
    (each l f s).onFlt = s.onFlt := by
  unfold each
  induction l generalizing s with
  | nil => rfl
  | cons a l ih => exact (ih _).trans (hf a s)

theorem onFlt_foldl {α β : Type} (g : β → State) (f : β → α → β) (hf : ∀ b a, (g (f b a)).onFlt = (g b).onFlt)
    (l : List α) (b : β) : (g (l.foldl f b)).onFlt = (g b).onFlt := by
  induction l generalizing b with
  | nil => rfl
  | cons a l ih => exact (ih _).trans (hf b a)

theorem onFlt_modRail (i : Nat) (f : Rail → Rail) (s : State) : (State.modRail i f s).onFlt = s.onFlt := by
  unfold State.modRail
  repeat' (first
    | with_reducible rfl
    | simp only [onFlt_mk, onFlt_fold, ite_onFlt, ite_self, implies_true]
    | refine (onFlt_each _ _ (fun a s => ?_) _).trans ?_
    | split)

theorem onFlt_modBank (i : Nat) (f : Bank → Bank) (s : State) : (State.modBank i f s).onFlt = s.onFlt := by
  unfold State.modBank
  repeat' (first
    | with_reducible rfl
    | simp only [onFlt_mk, onFlt_fold, ite_onFlt, ite_self, implies_true]
    | refine (onFlt_each _ _ (fun a s => ?_) _).trans ?_
    | split)

theorem onFlt_modMdac (i : Nat) (f : Mdac → Mdac) (s : State) : (State.modMdac i f s).onFlt = s.onFlt := by
  unfold State.modMdac
  repeat' (first
    | with_reducible rfl
    | simp only [onFlt_mk, onFlt_fold, ite_onFlt, ite_self, implies_true]
    | refine (onFlt_each _ _ (fun a s => ?_) _).trans ?_
    | split)

theorem onFlt_modStg (i : Nat) (f : Stg → Stg) (s : State) : (State.modStg i f s).onFlt = s.onFlt := by
  unfold State.modStg
  repeat' (first
    | with_reducible rfl
    | simp only [onFlt_mk, onFlt_fold, ite_onFlt, ite_self, implies_true]
    | refine (onFlt_each _ _ (fun a s => ?_) _).trans ?_
    | split)

theorem onFlt_modPhase (i : Nat) (f : Phase → Phase) (s : State) : (State.modPhase i f s).onFlt = s.onFlt := by
  unfold State.modPhase
  repeat' (first
    | with_reducible rfl
    | simp only [onFlt_mk, onFlt_fold, ite_onFlt, ite_self, implies_true]
    | refine (onFlt_each _ _ (fun a s => ?_) _).trans ?_
    | split)

theorem onFlt_modProg (i : Nat) (f : Prog → Prog) (s : State) : (State.modProg i f s).onFlt = s.onFlt := by
  unfold State.modProg
  repeat' (first
    | with_reducible rfl
    | simp only [onFlt_mk, onFlt_fold, ite_onFlt, ite_self, implies_true]
    | refine (onFlt_each _ _ (fun a s => ?_) _).trans ?_
    | split)

theorem onFlt_modPort (i : Nat) (f : Port → Port) (s : State) : (State.modPort i f s).onFlt = s.onFlt := by
  unfold State.modPort
  repeat' (first
    | with_reducible rfl
    | simp only [onFlt_mk, onFlt_fold, ite_onFlt, ite_self, implies_true]
    | refine (onFlt_each _ _ (fun a s => ?_) _).trans ?_
    | split)

theorem onFlt_ashAdd (n : Nat) (s : State) : (ashAdd n s).onFlt = s.onFlt := by
  unfold ashAdd
  repeat' (first
    | with_reducible rfl
    | simp only [onFlt_mk, onFlt_fold, ite_onFlt, ite_self, implies_true]
    | refine (onFlt_each _ _ (fun a s => ?_) _).trans ?_
    | split
    | rfl)

theorem onFlt_capture (o : Occ) (s : State) : (capture o s).onFlt = s.onFlt := by
  unfold capture
  repeat' (first
    | with_reducible rfl
    | simp only [onFlt_mk, onFlt_fold, ite_onFlt, ite_self, implies_true, onFlt_ashAdd]
    | refine (onFlt_each _ _ (fun a s => ?_) _).trans ?_
    | split
    | rfl)

theorem onFlt_raiseCore (o : Occ) (s : State) : (raiseCore o s).onFlt = s.onFlt := by
  unfold raiseCore
  repeat' (first
    | with_reducible rfl
    | simp only [onFlt_mk, onFlt_fold, ite_onFlt, ite_self, implies_true, onFlt_capture]
    | refine (onFlt_each _ _ (fun a s => ?_) _).trans ?_
    | split
    | rfl)

theorem onFlt_ashEvent (old : Nat) (s : State) : (ashEvent old s).onFlt = s.onFlt := by
  unfold ashEvent
  repeat' (first
    | with_reducible rfl
    | simp only [onFlt_mk, onFlt_fold, ite_onFlt, ite_self, implies_true, onFlt_raiseCore]
    | refine (onFlt_each _ _ (fun a s => ?_) _).trans ?_
    | split)

theorem onFlt_raiseSev (src sev : Nat) (ts : Ts) (d : BitVec 128) (s : State) : (raiseSev src sev ts d s).onFlt = s.onFlt :=
    by
  unfold raiseSev
  repeat' (first
    | with_reducible rfl
    | simp only [onFlt_mk, onFlt_fold, ite_onFlt, ite_self, implies_true, onFlt_ashEvent, onFlt_raiseCore]
    | refine (onFlt_each _ _ (fun a s => ?_) _).trans ?_
    | split)

theorem onFlt_raise (src : Nat) (ts : Ts) (d : BitVec 128) (s : State) : (raise src ts d s).onFlt = s.onFlt := by
  unfold raise
  repeat' (first
    | with_reducible rfl
    | simp only [onFlt_mk, onFlt_fold, ite_onFlt, ite_self, implies_true, onFlt_raiseSev]
    | refine (onFlt_each _ _ (fun a s => ?_) _).trans ?_
    | split)

theorem onFlt_wcWritten (struct addr : Nat) (s : State) : (wcWritten struct addr s).onFlt = s.onFlt := by
  unfold wcWritten
  repeat' (first
    | with_reducible rfl
    | simp only [onFlt_mk, onFlt_fold, ite_onFlt, ite_self, implies_true]
    | refine (onFlt_each _ _ (fun a s => ?_) _).trans ?_
    | split)

theorem onFlt_wordErr (ts : Ts) (struct addr : Nat) (o : WcOut) (s : State) : (wordErr ts struct addr o s).onFlt = s.onFlt
    := by
  unfold wordErr
  repeat' (first
    | with_reducible rfl
    | simp only [onFlt_mk, onFlt_fold, ite_onFlt, ite_self, implies_true]
    | refine (onFlt_each _ _ (fun a s => ?_) _).trans ?_
    | split)

theorem onFlt_readWord (ts : Ts) (struct addr : Nat) (s : State) : (readWord ts struct addr s).2.onFlt = s.onFlt := by
  unfold readWord
  repeat' (first
    | with_reducible rfl
    | simp only [onFlt_mk, onFlt_fold, ite_onFlt, ite_self, implies_true, onFlt_wcWritten, onFlt_wordErr]
    | refine (onFlt_each _ _ (fun a s => ?_) _).trans ?_
    | split)

theorem onFlt_linkFrameOf (kind : Nat) (dst : Option Nat) (v : Nat) (s : State) : (linkFrameOf kind dst v s).2.onFlt =
    s.onFlt := by
  unfold linkFrameOf
  repeat' (first
    | with_reducible rfl
    | simp only [onFlt_mk, onFlt_fold, ite_onFlt, ite_self, implies_true]
    | refine (onFlt_each _ _ (fun a s => ?_) _).trans ?_
    | split)

theorem onFlt_queueFrame (p : Nat) (f : LinkTx) (s : State) : (queueFrame p f s).onFlt = s.onFlt := by
  unfold queueFrame
  repeat' (first
    | with_reducible rfl
    | simp only [onFlt_mk, onFlt_fold, ite_onFlt, ite_self, implies_true, onFlt_modPort]
    | refine (onFlt_each _ _ (fun a s => ?_) _).trans ?_
    | split)

theorem onFlt_sendEntry (e : JEntry) (s : State) : (sendEntry e s).onFlt = s.onFlt := by
  unfold sendEntry
  repeat' (first
    | with_reducible rfl
    | simp only [onFlt_mk, onFlt_fold, ite_onFlt, ite_self, implies_true, onFlt_linkFrameOf, onFlt_queueFrame]
    | refine (onFlt_each _ _ (fun a s => ?_) _).trans ?_
    | split)

theorem onFlt_pairJournal (e : JEntry) (s : State) : (pairJournal e s).onFlt = s.onFlt := by
  unfold pairJournal
  repeat' (first
    | with_reducible rfl
    | simp only [onFlt_mk, onFlt_fold, ite_onFlt, ite_self, implies_true, onFlt_sendEntry]
    | refine (onFlt_each _ _ (fun a s => ?_) _).trans ?_
    | split)

theorem onFlt_jAppend (e : JEntry) (s : State) : (jAppend e s).onFlt = s.onFlt := by
  unfold jAppend
  repeat' (first
    | with_reducible rfl
    | simp only [onFlt_mk, onFlt_fold, ite_onFlt, ite_self, implies_true, onFlt_pairJournal, onFlt_wcWritten]
    | refine (onFlt_each _ _ (fun a s => ?_) _).trans ?_
    | split)

theorem onFlt_jInternal (op src digest result : Nat) (persist : Bool) (s : State) : (jInternal op src digest result persist
    s).onFlt = s.onFlt := by
  unfold jInternal
  repeat' (first
    | with_reducible rfl
    | simp only [onFlt_mk, onFlt_fold, ite_onFlt, ite_self, implies_true, onFlt_jAppend]
    | refine (onFlt_each _ _ (fun a s => ?_) _).trans ?_
    | split)

theorem onFlt_finishAt (d q status result : Nat) (s : State) : (finishAt d q status result s).onFlt = s.onFlt := by
  unfold finishAt
  repeat' (first
    | with_reducible rfl
    | simp only [onFlt_mk, onFlt_fold, ite_onFlt, ite_self, implies_true]
    | refine (onFlt_each _ _ (fun a s => ?_) _).trans ?_
    | split)

theorem onFlt_finish (q status result : Nat) (s : State) : (finish q status result s).onFlt = s.onFlt := by
  unfold finish
  repeat' (first
    | with_reducible rfl
    | simp only [onFlt_mk, onFlt_fold, ite_onFlt, ite_self, implies_true, onFlt_finishAt]
    | refine (onFlt_each _ _ (fun a s => ?_) _).trans ?_
    | split)

theorem onFlt_finishAll (w : Wait → Bool) (status result : Nat) (s : State) : (finishAll w status result s).onFlt = s.onFlt
    := by
  unfold finishAll
  repeat' (first
    | with_reducible rfl
    | simp only [onFlt_mk, onFlt_fold, ite_onFlt, ite_self, implies_true, onFlt_each, onFlt_finish]
    | refine (onFlt_each _ _ (fun a s => ?_) _).trans ?_
    | split)

theorem onFlt_commitEnd (k : CKey) (s : State) : (commitEnd k s).onFlt = s.onFlt := by
  unfold commitEnd
  repeat' (first
    | with_reducible rfl
    | simp only [onFlt_mk, onFlt_fold, ite_onFlt, ite_self, implies_true]
    | refine (onFlt_each _ _ (fun a s => ?_) _).trans ?_
    | split)

theorem onFlt_alogAdd (e : ALog) (s : State) : (alogAdd e s).onFlt = s.onFlt := by
  unfold alogAdd
  repeat' (first
    | with_reducible rfl
    | simp only [onFlt_mk, onFlt_fold, ite_onFlt, ite_self, implies_true]
    | refine (onFlt_each _ _ (fun a s => ?_) _).trans ?_
    | split)

theorem onFlt_alogWithdraw (id kind order prio inrush steady : Nat) (s : State) : (alogWithdraw id kind order prio inrush
    steady s).onFlt = s.onFlt := by
  unfold alogWithdraw
  repeat' (first
    | with_reducible rfl
    | simp only [onFlt_mk, onFlt_fold, ite_onFlt, ite_self, implies_true, onFlt_alogAdd]
    | refine (onFlt_each _ _ (fun a s => ?_) _).trans ?_
    | split)

theorem onFlt_pmbPush (m : Nat) (j : PmbJob) (s : State) : (pmbPush m j s).onFlt = s.onFlt := by
  unfold pmbPush
  repeat' (first
    | with_reducible rfl
    | simp only [onFlt_mk, onFlt_fold, ite_onFlt, ite_self, implies_true]
    | refine (onFlt_each _ _ (fun a s => ?_) _).trans ?_
    | split)

theorem onFlt_itemDone (n code : Nat) (s : State) : (itemDone n code s).onFlt = s.onFlt := by
  unfold itemDone
  repeat' (first
    | with_reducible rfl
    | simp only [onFlt_mk, onFlt_fold, ite_onFlt, ite_self, implies_true, onFlt_modProg]
    | refine (onFlt_each _ _ (fun a s => ?_) _).trans ?_
    | split)

theorem onFlt_marginTell (o : Owner) (code status : Nat) (s : State) : (marginTell o code status s).onFlt = s.onFlt := by
  unfold marginTell
  repeat' (first
    | with_reducible rfl
    | simp only [onFlt_mk, onFlt_fold, ite_onFlt, ite_self, implies_true, onFlt_finish, onFlt_itemDone]
    | refine (onFlt_each _ _ (fun a s => ?_) _).trans ?_
    | split)

theorem onFlt_mdacTarget (k : Nat) (t : Int) (s : State) : (mdacTarget k t s).onFlt = s.onFlt := by
  unfold mdacTarget
  repeat' (first
    | with_reducible rfl
    | simp only [onFlt_mk, onFlt_fold, ite_onFlt, ite_self, implies_true, onFlt_modMdac]
    | refine (onFlt_each _ _ (fun a s => ?_) _).trans ?_
    | split)

theorem onFlt_pmbNominal (i : Nat) (s : State) : (pmbNominal i s).onFlt = s.onFlt := by
  unfold pmbNominal
  repeat' (first
    | with_reducible rfl
    | simp only [onFlt_mk, onFlt_fold, ite_onFlt, ite_self, implies_true, onFlt_modRail, onFlt_pmbPush]
    | refine (onFlt_each _ _ (fun a s => ?_) _).trans ?_
    | split)

theorem onFlt_marginNominal (i : Nat) (s : State) : (marginNominal i s).onFlt = s.onFlt := by
  unfold marginNominal
  repeat' (first
    | with_reducible rfl
    | simp only [onFlt_mk, onFlt_fold, ite_onFlt, ite_self, implies_true, onFlt_modRail, onFlt_commitEnd,
        onFlt_mdacTarget, onFlt_pmbNominal]
    | refine (onFlt_each _ _ (fun a s => ?_) _).trans ?_
    | split)

theorem onFlt_marginLeave (i : Nat) (s : State) : (marginLeave i s).onFlt = s.onFlt := by
  unfold marginLeave
  repeat' (first
    | with_reducible rfl
    | simp only [onFlt_mk, onFlt_fold, ite_onFlt, ite_self, implies_true, onFlt_each, onFlt_marginNominal,
        onFlt_marginTell]
    | refine (onFlt_each _ _ (fun a s => ?_) _).trans ?_
    | split)

theorem onFlt_cancelRetry (i : Nat) (s : State) : (cancelRetry i s).onFlt = s.onFlt := by
  unfold cancelRetry
  repeat' (first
    | with_reducible rfl
    | simp only [onFlt_mk, onFlt_fold, ite_onFlt, ite_self, implies_true, onFlt_modRail, onFlt_alogWithdraw,
        onFlt_commitEnd]
    | refine (onFlt_each _ _ (fun a s => ?_) _).trans ?_
    | split)

theorem onFlt_resumeDrop (i : Nat) (s : State) : (resumeDrop i s).onFlt = s.onFlt := by
  unfold resumeDrop
  repeat' (first
    | with_reducible rfl
    | simp only [onFlt_mk, onFlt_fold, ite_onFlt, ite_self, implies_true, onFlt_modRail, onFlt_commitEnd]
    | refine (onFlt_each _ _ (fun a s => ?_) _).trans ?_
    | split)

theorem onFlt_setRState (i : Nat) (st : RState) (s : State) : (setRState i st s).onFlt = s.onFlt := by
  unfold setRState
  repeat' (first
    | with_reducible rfl
    | simp only [onFlt_mk, onFlt_fold, ite_onFlt, ite_self, implies_true, onFlt_modRail, onFlt_cancelRetry,
        onFlt_commitEnd, onFlt_marginLeave, onFlt_resumeDrop]
    | refine (onFlt_each _ _ (fun a s => ?_) _).trans ?_
    | split)

theorem onFlt_driveEn (i : Nat) (b : Bool) (s : State) : (driveEn i b s).onFlt = s.onFlt := by
  unfold driveEn
  repeat' (first
    | with_reducible rfl
    | simp only [onFlt_mk, onFlt_fold, ite_onFlt, ite_self, implies_true, onFlt_modRail]
    | refine (onFlt_each _ _ (fun a s => ?_) _).trans ?_
    | split)

theorem onFlt_setEn (i : Nat) (b : Bool) (s : State) : (setEn i b s).onFlt = s.onFlt := by
  unfold setEn
  repeat' (first
    | with_reducible rfl
    | simp only [onFlt_mk, onFlt_fold, ite_onFlt, ite_self, implies_true, onFlt_modRail, onFlt_driveEn]
    | refine (onFlt_each _ _ (fun a s => ?_) _).trans ?_
    | split)

theorem onFlt_leaveHiz (i : Nat) (s : State) : (leaveHiz i s).onFlt = s.onFlt := by
  unfold leaveHiz
  repeat' (first
    | with_reducible rfl
    | simp only [onFlt_mk, onFlt_fold, ite_onFlt, ite_self, implies_true, onFlt_modRail, onFlt_setEn, onFlt_setRState]
    | refine (onFlt_each _ _ (fun a s => ?_) _).trans ?_
    | split)

theorem onFlt_foldEnd (i : Nat) (s : State) : (foldEnd i s).onFlt = s.onFlt := by
  unfold foldEnd
  repeat' (first
    | with_reducible rfl
    | simp only [onFlt_mk, onFlt_fold, ite_onFlt, ite_self, implies_true, onFlt_modRail, onFlt_leaveHiz]
    | refine (onFlt_each _ _ (fun a s => ?_) _).trans ?_
    | split)

theorem onFlt_dropRail (i : Nat) (s : State) : (dropRail i s).onFlt = s.onFlt := by
  unfold dropRail
  repeat' (first
    | with_reducible rfl
    | simp only [onFlt_mk, onFlt_fold, ite_onFlt, ite_self, implies_true, onFlt_foldEnd, onFlt_setEn, onFlt_setRState]
    | refine (onFlt_each _ _ (fun a s => ?_) _).trans ?_
    | split)

theorem onFlt_releaseRail (i : Nat) (s : State) : (releaseRail i s).onFlt = s.onFlt := by
  unfold releaseRail
  repeat' (first
    | with_reducible rfl
    | simp only [onFlt_mk, onFlt_fold, ite_onFlt, ite_self, implies_true, onFlt_foldEnd, onFlt_setEn, onFlt_setRState]
    | refine (onFlt_each _ _ (fun a s => ?_) _).trans ?_
    | split)

theorem onFlt_toHiz (i : Nat) (s : State) : (toHiz i s).onFlt = s.onFlt := by
  unfold toHiz
  repeat' (first
    | with_reducible rfl
    | simp only [onFlt_mk, onFlt_fold, ite_onFlt, ite_self, implies_true, onFlt_modRail, onFlt_setRState]
    | refine (onFlt_each _ _ (fun a s => ?_) _).trans ?_
    | split)

theorem onFlt_foldBack (i : Nat) (s : State) : (foldBack i s).onFlt = s.onFlt := by
  unfold foldBack
  repeat' (first
    | with_reducible rfl
    | simp only [onFlt_mk, onFlt_fold, ite_onFlt, ite_self, implies_true, onFlt_modRail, onFlt_raise, onFlt_toHiz]
    | refine (onFlt_each _ _ (fun a s => ?_) _).trans ?_
    | split)

theorem onFlt_mdacsOff (b : Nat) (s : State) : (mdacsOff b s).onFlt = s.onFlt := by
  unfold mdacsOff
  repeat' (first
    | with_reducible rfl
    | simp only [onFlt_mk, onFlt_fold, ite_onFlt, ite_self, implies_true, onFlt_modMdac, onFlt_each]
    | refine (onFlt_each _ _ (fun a s => ?_) _).trans ?_
    | split)

theorem onFlt_vioRise (b : Nat) (s : State) : (vioRise b s).onFlt = s.onFlt := by
  unfold vioRise
  repeat' (first
    | with_reducible rfl
    | simp only [onFlt_mk, onFlt_fold, ite_onFlt, ite_self, implies_true, onFlt_modBank, onFlt_each, onFlt_leaveHiz]
    | refine (onFlt_each _ _ (fun a s => ?_) _).trans ?_
    | split)

theorem onFlt_stgEvent (st k ph why : Nat) (s : State) : (stgEvent st k ph why s).onFlt = s.onFlt := by
  unfold stgEvent
  repeat' (first
    | with_reducible rfl
    | simp only [onFlt_mk, onFlt_fold, ite_onFlt, ite_self, implies_true, onFlt_raise]
    | refine (onFlt_each _ _ (fun a s => ?_) _).trans ?_
    | split)

theorem onFlt_clearPhases (st : Nat) (lim : Bool) (s : State) : (clearPhases st lim s).onFlt = s.onFlt := by
  unfold clearPhases
  repeat' (first
    | with_reducible rfl
    | simp only [onFlt_mk, onFlt_fold, ite_onFlt, ite_self, implies_true, onFlt_modPhase, onFlt_each]
    | refine (onFlt_each _ _ (fun a s => ?_) _).trans ?_
    | split)

theorem onFlt_stageHalt (st : Nat) (dst : SState) (s : State) : (stageHalt st dst s).onFlt = s.onFlt := by
  unfold stageHalt
  repeat' (first
    | with_reducible rfl
    | simp only [onFlt_mk, onFlt_fold, ite_onFlt, ite_self, implies_true, onFlt_modStg, onFlt_commitEnd]
    | refine (onFlt_each _ _ (fun a s => ?_) _).trans ?_
    | split)

theorem onFlt_stageTell (st code status : Nat) (s : State) : (stageTell st code status s).onFlt = s.onFlt := by
  unfold stageTell
  repeat' (first
    | with_reducible rfl
    | simp only [onFlt_mk, onFlt_fold, ite_onFlt, ite_self, implies_true, onFlt_modStg, onFlt_each, onFlt_marginTell]
    | refine (onFlt_each _ _ (fun a s => ?_) _).trans ?_
    | split)

theorem onFlt_withdrawEnable (g : Nat) (f : Fig) (order : Nat) (s : State) : (withdrawEnable g f order s).onFlt = s.onFlt :=
    by
  unfold withdrawEnable
  repeat' (first
    | with_reducible rfl
    | simp only [onFlt_mk, onFlt_fold, ite_onFlt, ite_self, implies_true, onFlt_alogWithdraw, onFlt_commitEnd]
    | refine (onFlt_each _ _ (fun a s => ?_) _).trans ?_
    | split)

theorem onFlt_withdrawStart (m st order : Nat) (s : State) : (withdrawStart m st order s).onFlt = s.onFlt := by
  unfold withdrawStart
  repeat' (first
    | with_reducible rfl
    | simp only [onFlt_mk, onFlt_fold, ite_onFlt, ite_self, implies_true, onFlt_alogWithdraw, onFlt_commitEnd]
    | refine (onFlt_each _ _ (fun a s => ?_) _).trans ?_
    | split)

theorem onFlt_withdrawMargin (m : MOp) (s : State) : (withdrawMargin m s).onFlt = s.onFlt := by
  unfold withdrawMargin
  repeat' (first
    | with_reducible rfl
    | simp only [onFlt_mk, onFlt_fold, ite_onFlt, ite_self, implies_true, onFlt_alogWithdraw, onFlt_commitEnd]
    | refine (onFlt_each _ _ (fun a s => ?_) _).trans ?_
    | split)

theorem onFlt_withdrawItem (it : Item) (s : State) : (withdrawItem it s).onFlt = s.onFlt := by
  unfold withdrawItem
  repeat' (first
    | with_reducible rfl
    | simp only [onFlt_mk, onFlt_fold, ite_onFlt, ite_self, implies_true, onFlt_withdrawEnable, onFlt_withdrawStart]
    | refine (onFlt_each _ _ (fun a s => ?_) _).trans ?_
    | split)

theorem onFlt_withdrawCmd (c : RailCmd) (s : State) : (withdrawCmd c s).onFlt = s.onFlt := by
  unfold withdrawCmd
  repeat' (first
    | with_reducible rfl
    | simp only [onFlt_mk, onFlt_fold, ite_onFlt, ite_self, implies_true, onFlt_withdrawEnable, onFlt_withdrawStart]
    | refine (onFlt_each _ _ (fun a s => ?_) _).trans ?_
    | split)

theorem onFlt_disown (n : Nat) (s : State) : (disown n s).onFlt = s.onFlt := by
  unfold disown
  repeat' (first
    | with_reducible rfl
    | simp only [onFlt_mk, onFlt_fold, ite_onFlt, ite_self, implies_true, onFlt_modStg, onFlt_each,
        onFlt_withdrawMargin]
    | refine (onFlt_each _ _ (fun a s => ?_) _).trans ?_
    | split)

theorem onFlt_stopCmds (n : Nat) (s : State) : (stopCmds n s).onFlt = s.onFlt := by
  unfold stopCmds
  repeat' (first
    | with_reducible rfl
    | simp only [onFlt_mk, onFlt_fold, ite_onFlt, ite_self, implies_true, onFlt_each, onFlt_withdrawCmd]
    | refine (onFlt_each _ _ (fun a s => ?_) _).trans ?_
    | split)

theorem onFlt_progEnd (n status step : Nat) (s : State) : (progEnd n status step s).onFlt = s.onFlt := by
  unfold progEnd
  repeat' (first
    | with_reducible rfl
    | simp only [onFlt_mk, onFlt_fold, ite_onFlt, ite_self, implies_true, onFlt_modProg, onFlt_disown, onFlt_each,
        onFlt_stopCmds, onFlt_withdrawItem]
    | refine (onFlt_each _ _ (fun a s => ?_) _).trans ?_
    | split)

theorem onFlt_fromMirror (a : Nat) (s : State) : (fromMirror a s).onFlt = s.onFlt := by
  unfold fromMirror
  repeat' (first
    | with_reducible rfl
    | simp only [onFlt_mk, onFlt_fold, ite_onFlt, ite_self, implies_true]
    | refine (onFlt_each _ _ (fun a s => ?_) _).trans ?_
    | split)

theorem onFlt_readTable (a : Nat) (s : State) : (readTable a s).2.onFlt = s.onFlt := by
  unfold readTable
  repeat' (first
    | with_reducible rfl
    | simp only [onFlt_mk, onFlt_fold, ite_onFlt, ite_self, implies_true, onFlt_fromMirror, onFlt_readWord,
        onFlt_wcWritten]
    | refine (onFlt_each _ _ (fun a s => ?_) _).trans ?_
    | split)

theorem onFlt_readWords (l : List Nat) (s : State) : (readWords l s).2.onFlt = s.onFlt := by
  induction l generalizing s with
  | nil => rfl
  | cons a l ih =>
    unfold readWords
    repeat' (first
      | with_reducible rfl
      | simp only [onFlt_mk, onFlt_fold, ite_onFlt, ite_self, implies_true, ih, onFlt_readTable]
      | refine (onFlt_each _ _ (fun a s => ?_) _).trans ?_
      | split)

theorem onFlt_fetchAt (n old i : Nat) (s : State) : (fetchAt n old i s).onFlt = s.onFlt := by
  unfold fetchAt
  repeat' (first
    | with_reducible rfl
    | simp only [onFlt_mk, onFlt_fold, ite_onFlt, ite_self, implies_true, onFlt_modProg, onFlt_progEnd, onFlt_readWords]
    | refine (onFlt_each _ _ (fun a s => ?_) _).trans ?_
    | split)

theorem onFlt_progLaunch (n : Nat) (s : State) : (progLaunch n s).onFlt = s.onFlt := by
  unfold progLaunch
  repeat' (first
    | with_reducible rfl
    | simp only [onFlt_mk, onFlt_fold, ite_onFlt, ite_self, implies_true, onFlt_modProg, onFlt_fetchAt]
    | refine (onFlt_each _ _ (fun a s => ?_) _).trans ?_
    | split)

theorem onFlt_withdrawRails (l : List Nat) (s : State) : (withdrawRails l s).onFlt = s.onFlt := by
  unfold withdrawRails
  repeat' (first
    | with_reducible rfl
    | simp only [onFlt_mk, onFlt_fold, ite_onFlt, ite_self, implies_true, onFlt_modProg, onFlt_modRail,
        onFlt_alogWithdraw, onFlt_commitEnd, onFlt_each, onFlt_withdrawCmd, onFlt_withdrawItem]
    | refine (onFlt_each _ _ (fun a s => ?_) _).trans ?_
    | split)

theorem onFlt_fullRunActs (s : State) : (fullRunActs s).onFlt = s.onFlt := by
  unfold fullRunActs
  repeat' (first
    | with_reducible rfl
    | simp only [onFlt_mk, onFlt_fold, ite_onFlt, ite_self, implies_true, onFlt_each, onFlt_finishAll, onFlt_progEnd]
    | refine (onFlt_each _ _ (fun a s => ?_) _).trans ?_
    | split)

theorem onFlt_dropResumes (s : State) : (dropResumes s).onFlt = s.onFlt := by
  unfold dropResumes
  repeat' (first
    | with_reducible rfl
    | simp only [onFlt_mk, onFlt_fold, ite_onFlt, ite_self, implies_true, onFlt_modRail, onFlt_each]
    | refine (onFlt_each _ _ (fun a s => ?_) _).trans ?_
    | split)

theorem onFlt_resumeRun (s : State) : (resumeRun s).onFlt = s.onFlt := by
  unfold resumeRun
  repeat' (first
    | with_reducible rfl
    | simp only [onFlt_mk, onFlt_fold, ite_onFlt, ite_self, implies_true, onFlt_modRail, onFlt_each, onFlt_finishAll]
    | refine (onFlt_each _ _ (fun a s => ?_) _).trans ?_
    | split)

theorem onFlt_judgeDomain (s : State) : (judgeDomain s).onFlt = s.onFlt := by
  unfold judgeDomain
  repeat' (first
    | with_reducible rfl
    | simp only [onFlt_mk, onFlt_fold, ite_onFlt, ite_self, implies_true, onFlt_finishAll]
    | refine (onFlt_each _ _ (fun a s => ?_) _).trans ?_
    | split)

theorem onFlt_toMembers (f : Nat → CmdRec) (s : State) : (toMembers f s).onFlt = s.onFlt := by
  unfold toMembers
  repeat' (first
    | with_reducible rfl
    | simp only [onFlt_mk, onFlt_fold, ite_onFlt, ite_self, implies_true]
    | refine (onFlt_each _ _ (fun a s => ?_) _).trans ?_
    | split)

theorem onFlt_offRelay (full : Bool) (groups : Nat) (sysrst : Bool) (s : State) : (offRelay full groups sysrst s).onFlt =
    s.onFlt := by
  unfold offRelay
  repeat' (first
    | with_reducible rfl
    | simp only [onFlt_mk, onFlt_fold, ite_onFlt, ite_self, implies_true, onFlt_toMembers]
    | refine (onFlt_each _ _ (fun a s => ?_) _).trans ?_
    | split)

theorem onFlt_joinRun (i : Nat) (s : State) : (joinRun i s).onFlt = s.onFlt := by
  unfold joinRun
  repeat' (first
    | with_reducible rfl
    | simp only [onFlt_mk, onFlt_fold, ite_onFlt, ite_self, implies_true, onFlt_cancelRetry]
    | refine (onFlt_each _ _ (fun a s => ?_) _).trans ?_
    | split)

theorem onFlt_applyDrop (i : Nat) (v : Verdict) (kinds : List Nat) (s : State) : (applyDrop i v kinds s).onFlt = s.onFlt :=
    by
  unfold applyDrop
  repeat' (first
    | with_reducible rfl
    | simp only [onFlt_mk, onFlt_fold, ite_onFlt, ite_self, implies_true, onFlt_modRail, onFlt_dropRail,
        onFlt_setRState]
    | refine (onFlt_each _ _ (fun a s => ?_) _).trans ?_
    | split)

theorem onFlt_rowFirst (f : RFF) (s : State) : (rowFirst f s).onFlt = s.onFlt := by
  unfold rowFirst
  repeat' (first
    | with_reducible rfl
    | simp only [onFlt_mk, onFlt_fold, ite_onFlt, ite_self, implies_true]
    | refine (onFlt_each _ _ (fun a s => ?_) _).trans ?_
    | split)


end Sys2Proof.Machine
end

