-- ==== Sys2Proof/Laws/FrameHost.lean ====
section
/-! SUPPORT. FrameHost.lean: the operations behind the host family of commands leave the state outside that family's
own parts as it is, one lemma per operation (the frame statements go through these). -/

set_option linter.all false
set_option linter.unusedSimpArgs false
set_option linter.unreachableTactic false
set_option linter.unusedTactic false
namespace Sys2Proof.Machine

/-- What no command of this family touches. -/
def State.keepHost (s : State) :=
  (s.pending, s.clk.frame, s.ovrStat, s.ovrNow, s.recd.noCapt, s.bar0, s.cfg, s.setup, s.coef, s.rails, s.banks, s.mdacs, s.pmb, s.watches, s.seq, s.off, s.drt, s.dmp, s.shr, s.inl, s.cnv, s.phases, s.nv.noRevertdue, s.pwr, s.free)

theorem keepHost_mk (a b c d e f g h i j k l m n o p q r u v w x y z a1 b1 c1 d1 e1 f1 g1 h1 i1 j1 k1 l1) :
    State.keepHost (State.mk a b c d e f g h i j k l m n o p q r u v w x y z a1 b1 c1 d1 e1 f1 g1 h1 i1 j1 k1 l1) =
      (a, b.frame, d, e, j.noCapt, k, l, m, n, o, p, q, r, u, v, w, y, z, a1, b1, c1, e1, h1.noRevertdue, j1, k1) := rfl

theorem keepHost_fold (s : State) : (s.pending, s.clk.frame, s.ovrStat, s.ovrNow, s.recd.noCapt, s.bar0, s.cfg, s.setup, s.coef, s.rails, s.banks, s.mdacs, s.pmb, s.watches, s.seq, s.off, s.drt, s.dmp, s.shr, s.inl, s.cnv, s.phases, s.nv.noRevertdue, s.pwr, s.free) = s.keepHost := rfl

theorem ite_keepHost (c : Prop) [Decidable c] (a b : State) :
    State.keepHost (if c then a else b) = if c then a.keepHost else b.keepHost := by split <;> rfl

theorem keepHost_each {α : Type} (l : List α) (f : α → State → State) (hf : ∀ a s, (f a s).keepHost = s.keepHost) (s : State) :
    (each l f s).keepHost = s.keepHost := by
  unfold each
  induction l generalizing s with
  | nil => rfl
  | cons a l ih => exact (ih _).trans (hf a s)

theorem keepHost_foldl {α β : Type} (g : β → State) (f : β → α → β) (hf : ∀ b a, (g (f b a)).keepHost = (g b).keepHost)
    (l : List α) (b : β) : (g (l.foldl f b)).keepHost = (g b).keepHost := by
  induction l generalizing b with
  | nil => rfl
  | cons a l ih => exact (ih _).trans (hf b a)

theorem keepHost_modEng (i : Nat) (f : Eng → Eng) (s : State) : (State.modEng i f s).keepHost = s.keepHost := by
  unfold State.modEng
  repeat' (first
    | with_reducible rfl
    | simp only [keepHost_mk, keepHost_fold, ite_keepHost, ite_self, implies_true]
    | refine (keepHost_each _ _ (fun a s => ?_) _).trans ?_
    | split)

theorem keepHost_modStg (i : Nat) (f : Stg → Stg) (s : State) : (State.modStg i f s).keepHost = s.keepHost := by
  unfold State.modStg
  repeat' (first
    | with_reducible rfl
    | simp only [keepHost_mk, keepHost_fold, ite_keepHost, ite_self, implies_true]
    | refine (keepHost_each _ _ (fun a s => ?_) _).trans ?_
    | split)

theorem keepHost_modRing (i : Nat) (f : Ring → Ring) (s : State) : (State.modRing i f s).keepHost = s.keepHost := by
  unfold State.modRing
  repeat' (first
    | with_reducible rfl
    | simp only [keepHost_mk, keepHost_fold, ite_keepHost, ite_self, implies_true]
    | refine (keepHost_each _ _ (fun a s => ?_) _).trans ?_
    | split)

theorem keepHost_modVec (i : Nat) (f : Vec → Vec) (s : State) : (State.modVec i f s).keepHost = s.keepHost := by
  unfold State.modVec
  repeat' (first
    | with_reducible rfl
    | simp only [keepHost_mk, keepHost_fold, ite_keepHost, ite_self, implies_true]
    | refine (keepHost_each _ _ (fun a s => ?_) _).trans ?_
    | split)

theorem keepHost_modPort (i : Nat) (f : Port → Port) (s : State) : (State.modPort i f s).keepHost = s.keepHost := by
  unfold State.modPort
  repeat' (first
    | with_reducible rfl
    | simp only [keepHost_mk, keepHost_fold, ite_keepHost, ite_self, implies_true]
    | refine (keepHost_each _ _ (fun a s => ?_) _).trans ?_
    | split)

theorem keepHost_emit (o : Out) (s : State) : (emit o s).keepHost = s.keepHost := by
  unfold emit
  repeat' (first
    | with_reducible rfl
    | simp only [keepHost_mk, keepHost_fold, ite_keepHost, ite_self, implies_true]
    | refine (keepHost_each _ _ (fun a s => ?_) _).trans ?_
    | split)

theorem keepHost_signalVec (v : Nat) (s : State) : (signalVec v s).keepHost = s.keepHost := by
  unfold signalVec
  repeat' (first
    | with_reducible rfl
    | simp only [keepHost_mk, keepHost_fold, ite_keepHost, ite_self, implies_true, keepHost_emit]
    | refine (keepHost_each _ _ (fun a s => ?_) _).trans ?_
    | split)

theorem keepHost_releasePba (s : State) : (releasePba s).keepHost = s.keepHost := by
  unfold releasePba
  repeat' (first
    | with_reducible rfl
    | simp only [keepHost_mk, keepHost_fold, ite_keepHost, ite_self, implies_true, keepHost_each, keepHost_emit]
    | refine (keepHost_each _ _ (fun a s => ?_) _).trans ?_
    | split)

theorem keepHost_ashAdd (n : Nat) (s : State) : (ashAdd n s).keepHost = s.keepHost := by
  unfold ashAdd
  repeat' (first
    | with_reducible rfl
    | simp only [keepHost_mk, keepHost_fold, ite_keepHost, ite_self, implies_true]
    | refine (keepHost_each _ _ (fun a s => ?_) _).trans ?_
    | split
    | rfl)

theorem keepHost_capture (o : Occ) (s : State) : (capture o s).keepHost = s.keepHost := by
  unfold capture
  repeat' (first
    | with_reducible rfl
    | simp only [keepHost_mk, keepHost_fold, ite_keepHost, ite_self, implies_true, keepHost_ashAdd]
    | refine (keepHost_each _ _ (fun a s => ?_) _).trans ?_
    | split
    | rfl)

theorem keepHost_raiseCore (o : Occ) (s : State) : (raiseCore o s).keepHost = s.keepHost := by
  unfold raiseCore
  repeat' (first
    | with_reducible rfl
    | simp only [keepHost_mk, keepHost_fold, ite_keepHost, ite_self, implies_true, keepHost_capture]
    | refine (keepHost_each _ _ (fun a s => ?_) _).trans ?_
    | split
    | rfl)

theorem keepHost_ashEvent (old : Nat) (s : State) : (ashEvent old s).keepHost = s.keepHost := by
  unfold ashEvent
  repeat' (first
    | with_reducible rfl
    | simp only [keepHost_mk, keepHost_fold, ite_keepHost, ite_self, implies_true, keepHost_raiseCore]
    | refine (keepHost_each _ _ (fun a s => ?_) _).trans ?_
    | split)

theorem keepHost_raiseSev (src sev : Nat) (ts : Ts) (d : BitVec 128) (s : State) : (raiseSev src sev ts d s).keepHost = s.keepHost :=
    by
  unfold raiseSev
  repeat' (first
    | with_reducible rfl
    | simp only [keepHost_mk, keepHost_fold, ite_keepHost, ite_self, implies_true, keepHost_ashEvent, keepHost_raiseCore]
    | refine (keepHost_each _ _ (fun a s => ?_) _).trans ?_
    | split)

theorem keepHost_raise (src : Nat) (ts : Ts) (d : BitVec 128) (s : State) : (raise src ts d s).keepHost = s.keepHost := by
  unfold raise
  repeat' (first
    | with_reducible rfl
    | simp only [keepHost_mk, keepHost_fold, ite_keepHost, ite_self, implies_true, keepHost_raiseSev]
    | refine (keepHost_each _ _ (fun a s => ?_) _).trans ?_
    | split)

theorem keepHost_wcWritten (struct addr : Nat) (s : State) : (wcWritten struct addr s).keepHost = s.keepHost := by
  unfold wcWritten
  repeat' (first
    | with_reducible rfl
    | simp only [keepHost_mk, keepHost_fold, ite_keepHost, ite_self, implies_true]
    | refine (keepHost_each _ _ (fun a s => ?_) _).trans ?_
    | split)

theorem keepHost_linkFrameOf (kind : Nat) (dst : Option Nat) (v : Nat) (s : State) : (linkFrameOf kind dst v s).2.keepHost =
    s.keepHost := by
  unfold linkFrameOf
  repeat' (first
    | with_reducible rfl
    | simp only [keepHost_mk, keepHost_fold, ite_keepHost, ite_self, implies_true]
    | refine (keepHost_each _ _ (fun a s => ?_) _).trans ?_
    | split)

theorem keepHost_queueFrame (p : Nat) (f : LinkTx) (s : State) : (queueFrame p f s).keepHost = s.keepHost := by
  unfold queueFrame
  repeat' (first
    | with_reducible rfl
    | simp only [keepHost_mk, keepHost_fold, ite_keepHost, ite_self, implies_true, keepHost_modPort]
    | refine (keepHost_each _ _ (fun a s => ?_) _).trans ?_
    | split)

theorem keepHost_sendEntry (e : JEntry) (s : State) : (sendEntry e s).keepHost = s.keepHost := by
  unfold sendEntry
  repeat' (first
    | with_reducible rfl
    | simp only [keepHost_mk, keepHost_fold, ite_keepHost, ite_self, implies_true, keepHost_linkFrameOf, keepHost_queueFrame]
    | refine (keepHost_each _ _ (fun a s => ?_) _).trans ?_
    | split)

theorem keepHost_pairJournal (e : JEntry) (s : State) : (pairJournal e s).keepHost = s.keepHost := by
  unfold pairJournal
  repeat' (first
    | with_reducible rfl
    | simp only [keepHost_mk, keepHost_fold, ite_keepHost, ite_self, implies_true, keepHost_sendEntry]
    | refine (keepHost_each _ _ (fun a s => ?_) _).trans ?_
    | split)

theorem keepHost_jAppend (e : JEntry) (s : State) : (jAppend e s).keepHost = s.keepHost := by
  unfold jAppend
  repeat' (first
    | with_reducible rfl
    | simp only [keepHost_mk, keepHost_fold, ite_keepHost, ite_self, implies_true, keepHost_pairJournal, keepHost_wcWritten]
    | refine (keepHost_each _ _ (fun a s => ?_) _).trans ?_
    | split)

theorem keepHost_jInternal (op src digest result : Nat) (persist : Bool) (s : State) : (jInternal op src digest result persist
    s).keepHost = s.keepHost := by
  unfold jInternal
  repeat' (first
    | with_reducible rfl
    | simp only [keepHost_mk, keepHost_fold, ite_keepHost, ite_self, implies_true, keepHost_jAppend]
    | refine (keepHost_each _ _ (fun a s => ?_) _).trans ?_
    | split)

theorem keepHost_lockAutoOpen (s : State) : (lockAutoOpen s).keepHost = s.keepHost := by
  unfold lockAutoOpen
  repeat' (first
    | with_reducible rfl
    | simp only [keepHost_mk, keepHost_fold, ite_keepHost, ite_self, implies_true, keepHost_jInternal]
    | refine (keepHost_each _ _ (fun a s => ?_) _).trans ?_
    | split)

theorem keepHost_barAction (k o : Nat) (v : W32) (s : State) : (barAction k o v s).keepHost = s.keepHost := by
  unfold barAction
  repeat' (first
    | with_reducible rfl
    | simp only [keepHost_mk, keepHost_fold, ite_keepHost, ite_self, implies_true, keepHost_jAppend]
    | refine (keepHost_each _ _ (fun a s => ?_) _).trans ?_
    | split)

theorem keepHost_abortWrite (v : W32) (s : State) : (abortWrite v s).keepHost = s.keepHost := by
  unfold abortWrite
  repeat' (first
    | with_reducible rfl
    | simp only [keepHost_mk, keepHost_fold, ite_keepHost, ite_self, implies_true, keepHost_barAction]
    | refine (keepHost_each _ _ (fun a s => ?_) _).trans ?_
    | split)

theorem keepHost_ffWrite (v : W32) (s : State) : (ffWrite v s).keepHost = s.keepHost := by
  unfold ffWrite
  repeat' (first
    | with_reducible rfl
    | simp only [keepHost_mk, keepHost_fold, ite_keepHost, ite_self, implies_true, keepHost_barAction]
    | refine (keepHost_each _ _ (fun a s => ?_) _).trans ?_
    | split)

theorem keepHost_relWrite (v : W32) (s : State) : (relWrite v s).keepHost = s.keepHost := by
  unfold relWrite
  repeat' (first
    | with_reducible rfl
    | simp only [keepHost_mk, keepHost_fold, ite_keepHost, ite_self, implies_true, keepHost_barAction]
    | refine (keepHost_each _ _ (fun a s => ?_) _).trans ?_
    | split)

theorem keepHost_loadWrite (st : Nat) (v : W32) (s : State) : (loadWrite st v s).keepHost = s.keepHost := by
  unfold loadWrite
  repeat' (first
    | with_reducible rfl
    | simp only [keepHost_mk, keepHost_fold, ite_keepHost, ite_self, implies_true, keepHost_modStg, keepHost_barAction]
    | refine (keepHost_each _ _ (fun a s => ?_) _).trans ?_
    | split)

theorem keepHost_loadClear (n : Nat) (v : W32) (s : State) : (loadClear n v s).keepHost = s.keepHost := by
  unfold loadClear
  repeat' (first
    | with_reducible rfl
    | simp only [keepHost_mk, keepHost_fold, ite_keepHost, ite_self, implies_true, keepHost_modEng]
    | refine (keepHost_each _ _ (fun a s => ?_) _).trans ?_
    | split)

theorem keepHost_cntSel (v : W32) (s : State) : (cntSel v s).keepHost = s.keepHost := by
  unfold cntSel
  repeat' (first
    | with_reducible rfl
    | simp only [keepHost_mk, keepHost_fold, ite_keepHost, ite_self, implies_true]
    | refine (keepHost_each _ _ (fun a s => ?_) _).trans ?_
    | split)

theorem keepHost_cselWrite (v : W32) (s : State) : (cselWrite v s).keepHost = s.keepHost := by
  unfold cselWrite
  repeat' (first
    | with_reducible rfl
    | simp only [keepHost_mk, keepHost_fold, ite_keepHost, ite_self, implies_true]
    | refine (keepHost_each _ _ (fun a s => ?_) _).trans ?_
    | split)

theorem keepHost_popWrite (v : W32) (s : State) : (popWrite v s).keepHost = s.keepHost := by
  unfold popWrite
  repeat' (first
    | with_reducible rfl
    | simp only [keepHost_mk, keepHost_fold, ite_keepHost, ite_self, implies_true]
    | refine (keepHost_each _ _ (fun a s => ?_) _).trans ?_
    | split)

theorem keepHost_badAccess (write : Bool) (a : Access) (v : W32) (s : State) : (badAccess write a v s).keepHost = s.keepHost := by
  unfold badAccess
  repeat' (first
    | with_reducible rfl
    | simp only [keepHost_mk, keepHost_fold, ite_keepHost, ite_self, implies_true, keepHost_emit, keepHost_raise]
    | refine (keepHost_each _ _ (fun a s => ?_) _).trans ?_
    | split)

theorem keepHost_answerRead (o : Nat) (s : State) : (answerRead o s).keepHost = s.keepHost := by
  unfold answerRead
  repeat' (first
    | with_reducible rfl
    | simp only [keepHost_mk, keepHost_fold, ite_keepHost, ite_self, implies_true, keepHost_emit]
    | refine (keepHost_each _ _ (fun a s => ?_) _).trans ?_
    | split)

theorem keepHost_readFrame (cyc : Nat) (s : State) : (readFrame cyc s).keepHost = s.keepHost := by
  unfold readFrame
  repeat' (first
    | with_reducible rfl
    | simp only [keepHost_mk, keepHost_fold, ite_keepHost, ite_self, implies_true, keepHost_answerRead]
    | refine (keepHost_each _ _ (fun a s => ?_) _).trans ?_
    | split)

theorem keepHost_readJhead (s : State) : (readJhead s).keepHost = s.keepHost := by
  unfold readJhead
  repeat' (first
    | with_reducible rfl
    | simp only [keepHost_mk, keepHost_fold, ite_keepHost, ite_self, implies_true, keepHost_answerRead]
    | refine (keepHost_each _ _ (fun a s => ?_) _).trans ?_
    | split)

theorem keepHost_readJold (s : State) : (readJold s).keepHost = s.keepHost := by
  unfold readJold
  repeat' (first
    | with_reducible rfl
    | simp only [keepHost_mk, keepHost_fold, ite_keepHost, ite_self, implies_true, keepHost_answerRead]
    | refine (keepHost_each _ _ (fun a s => ?_) _).trans ?_
    | split)

theorem keepHost_readJmir (s : State) : (readJmir s).keepHost = s.keepHost := by
  unfold readJmir
  repeat' (first
    | with_reducible rfl
    | simp only [keepHost_mk, keepHost_fold, ite_keepHost, ite_self, implies_true, keepHost_answerRead]
    | refine (keepHost_each _ _ (fun a s => ?_) _).trans ?_
    | split)

theorem keepHost_readWclog (s : State) : (readWclog s).keepHost = s.keepHost := by
  unfold readWclog
  repeat' (first
    | with_reducible rfl
    | simp only [keepHost_mk, keepHost_fold, ite_keepHost, ite_self, implies_true, keepHost_answerRead]
    | refine (keepHost_each _ _ (fun a s => ?_) _).trans ?_
    | split)

theorem keepHost_readHover (s : State) : (readHover s).keepHost = s.keepHost := by
  unfold readHover
  repeat' (first
    | with_reducible rfl
    | simp only [keepHost_mk, keepHost_fold, ite_keepHost, ite_self, implies_true, keepHost_answerRead]
    | refine (keepHost_each _ _ (fun a s => ?_) _).trans ?_
    | split)

theorem keepHost_msixWrite (o : Nat) (v : W32) (s : State) : (msixWrite o v s).keepHost = s.keepHost := by
  unfold msixWrite
  repeat' (first
    | with_reducible rfl
    | simp only [keepHost_mk, keepHost_fold, ite_keepHost, ite_self, implies_true, keepHost_modVec, keepHost_releasePba]
    | refine (keepHost_each _ _ (fun a s => ?_) _).trans ?_
    | split)

theorem keepHost_ringHalt (r cause idx addr : Nat) (s : State) : (ringHalt r cause idx addr s).keepHost = s.keepHost := by
  unfold ringHalt
  repeat' (first
    | with_reducible rfl
    | simp only [keepHost_mk, keepHost_fold, ite_keepHost, ite_self, implies_true, keepHost_modRing, keepHost_raise]
    | refine (keepHost_each _ _ (fun a s => ?_) _).trans ?_
    | split)

theorem keepHost_fetchMore (r : Nat) (s : State) : (fetchMore r s).keepHost = s.keepHost := by
  unfold fetchMore
  repeat' (first
    | with_reducible rfl
    | simp only [keepHost_mk, keepHost_fold, ite_keepHost, ite_self, implies_true, keepHost_modRing, keepHost_emit]
    | refine (keepHost_each _ _ (fun a s => ?_) _).trans ?_
    | split)

theorem keepHost_doorbell (r : Nat) (v : W32) (s : State) : (doorbell r v s).keepHost = s.keepHost := by
  unfold doorbell
  repeat' (first
    | with_reducible rfl
    | simp only [keepHost_mk, keepHost_fold, ite_keepHost, ite_self, implies_true, keepHost_modRing, keepHost_fetchMore,
        keepHost_ringHalt]
    | refine (keepHost_each _ _ (fun a s => ?_) _).trans ?_
    | split)

theorem keepHost_fetchDone (r : Nat) (l : List Fetched) (s : State) : (fetchDone r l s).keepHost = s.keepHost := by
  induction l generalizing s with
  | nil =>
    unfold fetchDone
    repeat' (first
      | with_reducible rfl
      | simp only [keepHost_mk, keepHost_fold, ite_keepHost, ite_self, implies_true, keepHost_modRing, keepHost_ringHalt]
      | refine (keepHost_each _ _ (fun a s => ?_) _).trans ?_
      | split)
  | cons d l ih =>
    unfold fetchDone
    repeat' (first
      | with_reducible rfl
      | simp only [keepHost_mk, keepHost_fold, ite_keepHost, ite_self, implies_true, ih, keepHost_modRing, keepHost_ringHalt]
      | refine (keepHost_each _ _ (fun a s => ?_) _).trans ?_
      | split)

theorem keepHost_vecSignal (v : Nat) (s : State) : (vecSignal v s).keepHost = s.keepHost := by
  unfold vecSignal
  repeat' (first
    | with_reducible rfl
    | simp only [keepHost_mk, keepHost_fold, ite_keepHost, ite_self, implies_true, keepHost_signalVec]
    | refine (keepHost_each _ _ (fun a s => ?_) _).trans ?_
    | split)

theorem keepHost_masterEnable (on : Bool) (s : State) : (masterEnable on s).keepHost = s.keepHost := by
  unfold masterEnable
  repeat' (first
    | with_reducible rfl
    | simp only [keepHost_mk, keepHost_fold, ite_keepHost, ite_self, implies_true, keepHost_each, keepHost_fetchMore, keepHost_releasePba]
    | refine (keepHost_each _ _ (fun a s => ?_) _).trans ?_
    | split)

theorem keepHost_modExpiry (v : Nat) (s : State) : (modExpiry v s).keepHost = s.keepHost := by
  unfold modExpiry
  repeat' (first
    | with_reducible rfl
    | simp only [keepHost_mk, keepHost_fold, ite_keepHost, ite_self, implies_true, keepHost_vecSignal]
    | refine (keepHost_each _ _ (fun a s => ?_) _).trans ?_
    | split)


end Sys2Proof.Machine
end

