-- ==== Sys2Proof/Laws/FrameLink.lean ====
section
/-! SUPPORT. FrameLink.lean: the operations behind the link family of commands leave the state outside that family's
own parts as it is, one lemma per operation (the frame statements go through these). -/

set_option linter.all false
set_option linter.unusedSimpArgs false
set_option linter.unreachableTactic false
set_option linter.unusedTactic false
namespace Sys2Proof.Machine

/-- What no command of this family touches. -/
def State.keepLink (s : State) :=
  (s.pending, s.clk.frame, s.engs, s.ovrStat, s.ovrNow, s.recd.noCapt, s.bar0, s.cfg, s.setup, s.coef, s.banks, s.mdacs, s.watches, s.shr, s.inl, s.cnv, s.phases, s.nv.noRevertdue, s.free)

theorem keepLink_mk (a b c d e f g h i j k l m n o p q r u v w x y z a1 b1 c1 d1 e1 f1 g1 h1 i1 j1 k1 l1) :
    State.keepLink (State.mk a b c d e f g h i j k l m n o p q r u v w x y z a1 b1 c1 d1 e1 f1 g1 h1 i1 j1 k1 l1) =
      (a, b.frame, c, d, e, j.noCapt, k, l, m, n, p, q, u, a1, b1, c1, e1, h1.noRevertdue, k1) := rfl

theorem keepLink_fold (s : State) : (s.pending, s.clk.frame, s.engs, s.ovrStat, s.ovrNow, s.recd.noCapt, s.bar0, s.cfg, s.setup, s.coef, s.banks, s.mdacs, s.watches, s.shr, s.inl, s.cnv, s.phases, s.nv.noRevertdue, s.free) = s.keepLink := rfl

theorem ite_keepLink (c : Prop) [Decidable c] (a b : State) :
    State.keepLink (if c then a else b) = if c then a.keepLink else b.keepLink := by split <;> rfl

theorem keepLink_each {α : Type} (l : List α) (f : α → State → State) (hf : ∀ a s, (f a s).keepLink = s.keepLink) (s : State) :
    (each l f s).keepLink = s.keepLink := by
  unfold each
  induction l generalizing s with
  | nil => rfl
  | cons a l ih => exact (ih _).trans (hf a s)

theorem keepLink_foldl {α β : Type} (g : β → State) (f : β → α → β) (hf : ∀ b a, (g (f b a)).keepLink = (g b).keepLink)
    (l : List α) (b : β) : (g (l.foldl f b)).keepLink = (g b).keepLink := by
  induction l generalizing b with
  | nil => rfl
  | cons a l ih => exact (ih _).trans (hf b a)

theorem keepLink_modRail (i : Nat) (f : Rail → Rail) (s : State) : (State.modRail i f s).keepLink = s.keepLink := by
  unfold State.modRail
  repeat' (first
    | with_reducible rfl
    | simp only [keepLink_mk, keepLink_fold, ite_keepLink, ite_self, implies_true]
    | refine (keepLink_each _ _ (fun a s => ?_) _).trans ?_
    | split)

theorem keepLink_modStg (i : Nat) (f : Stg → Stg) (s : State) : (State.modStg i f s).keepLink = s.keepLink := by
  unfold State.modStg
  repeat' (first
    | with_reducible rfl
    | simp only [keepLink_mk, keepLink_fold, ite_keepLink, ite_self, implies_true]
    | refine (keepLink_each _ _ (fun a s => ?_) _).trans ?_
    | split)

theorem keepLink_modProg (i : Nat) (f : Prog → Prog) (s : State) : (State.modProg i f s).keepLink = s.keepLink := by
  unfold State.modProg
  repeat' (first
    | with_reducible rfl
    | simp only [keepLink_mk, keepLink_fold, ite_keepLink, ite_self, implies_true]
    | refine (keepLink_each _ _ (fun a s => ?_) _).trans ?_
    | split)

theorem keepLink_modPort (i : Nat) (f : Port → Port) (s : State) : (State.modPort i f s).keepLink = s.keepLink := by
  unfold State.modPort
  repeat' (first
    | with_reducible rfl
    | simp only [keepLink_mk, keepLink_fold, ite_keepLink, ite_self, implies_true]
    | refine (keepLink_each _ _ (fun a s => ?_) _).trans ?_
    | split)

theorem keepLink_modRnode (i : Nat) (f : RNode → RNode) (s : State) : (State.modRnode i f s).keepLink = s.keepLink := by
  unfold State.modRnode
  repeat' (first
    | with_reducible rfl
    | simp only [keepLink_mk, keepLink_fold, ite_keepLink, ite_self, implies_true]
    | refine (keepLink_each _ _ (fun a s => ?_) _).trans ?_
    | split)

theorem keepLink_modView (i : Nat) (f : View → View) (s : State) : (State.modView i f s).keepLink = s.keepLink := by
  unfold State.modView
  repeat' (first
    | with_reducible rfl
    | simp only [keepLink_mk, keepLink_fold, ite_keepLink, ite_self, implies_true]
    | refine (keepLink_each _ _ (fun a s => ?_) _).trans ?_
    | split)

theorem keepLink_emit (o : Out) (s : State) : (emit o s).keepLink = s.keepLink := by
  unfold emit
  repeat' (first
    | with_reducible rfl
    | simp only [keepLink_mk, keepLink_fold, ite_keepLink, ite_self, implies_true]
    | refine (keepLink_each _ _ (fun a s => ?_) _).trans ?_
    | split)

theorem keepLink_ashAdd (n : Nat) (s : State) : (ashAdd n s).keepLink = s.keepLink := by
  unfold ashAdd
  repeat' (first
    | with_reducible rfl
    | simp only [keepLink_mk, keepLink_fold, ite_keepLink, ite_self, implies_true]
    | refine (keepLink_each _ _ (fun a s => ?_) _).trans ?_
    | split
    | rfl)

theorem keepLink_capture (o : Occ) (s : State) : (capture o s).keepLink = s.keepLink := by
  unfold capture
  repeat' (first
    | with_reducible rfl
    | simp only [keepLink_mk, keepLink_fold, ite_keepLink, ite_self, implies_true, keepLink_ashAdd]
    | refine (keepLink_each _ _ (fun a s => ?_) _).trans ?_
    | split
    | rfl)

theorem keepLink_raiseCore (o : Occ) (s : State) : (raiseCore o s).keepLink = s.keepLink := by
  unfold raiseCore
  repeat' (first
    | with_reducible rfl
    | simp only [keepLink_mk, keepLink_fold, ite_keepLink, ite_self, implies_true, keepLink_capture]
    | refine (keepLink_each _ _ (fun a s => ?_) _).trans ?_
    | split
    | rfl)

theorem keepLink_ashEvent (old : Nat) (s : State) : (ashEvent old s).keepLink = s.keepLink := by
  unfold ashEvent
  repeat' (first
    | with_reducible rfl
    | simp only [keepLink_mk, keepLink_fold, ite_keepLink, ite_self, implies_true, keepLink_raiseCore]
    | refine (keepLink_each _ _ (fun a s => ?_) _).trans ?_
    | split)

theorem keepLink_raiseSev (src sev : Nat) (ts : Ts) (d : BitVec 128) (s : State) : (raiseSev src sev ts d s).keepLink = s.keepLink :=
    by
  unfold raiseSev
  repeat' (first
    | with_reducible rfl
    | simp only [keepLink_mk, keepLink_fold, ite_keepLink, ite_self, implies_true, keepLink_ashEvent, keepLink_raiseCore]
    | refine (keepLink_each _ _ (fun a s => ?_) _).trans ?_
    | split)

theorem keepLink_raise (src : Nat) (ts : Ts) (d : BitVec 128) (s : State) : (raise src ts d s).keepLink = s.keepLink := by
  unfold raise
  repeat' (first
    | with_reducible rfl
    | simp only [keepLink_mk, keepLink_fold, ite_keepLink, ite_self, implies_true, keepLink_raiseSev]
    | refine (keepLink_each _ _ (fun a s => ?_) _).trans ?_
    | split)

theorem keepLink_wcWritten (struct addr : Nat) (s : State) : (wcWritten struct addr s).keepLink = s.keepLink := by
  unfold wcWritten
  repeat' (first
    | with_reducible rfl
    | simp only [keepLink_mk, keepLink_fold, ite_keepLink, ite_self, implies_true]
    | refine (keepLink_each _ _ (fun a s => ?_) _).trans ?_
    | split)

theorem keepLink_wordErr (ts : Ts) (struct addr : Nat) (o : WcOut) (s : State) : (wordErr ts struct addr o s).keepLink = s.keepLink
    := by
  unfold wordErr
  repeat' (first
    | with_reducible rfl
    | simp only [keepLink_mk, keepLink_fold, ite_keepLink, ite_self, implies_true]
    | refine (keepLink_each _ _ (fun a s => ?_) _).trans ?_
    | split)

theorem keepLink_readWord (ts : Ts) (struct addr : Nat) (s : State) : (readWord ts struct addr s).2.keepLink = s.keepLink := by
  unfold readWord
  repeat' (first
    | with_reducible rfl
    | simp only [keepLink_mk, keepLink_fold, ite_keepLink, ite_self, implies_true, keepLink_wcWritten, keepLink_wordErr]
    | refine (keepLink_each _ _ (fun a s => ?_) _).trans ?_
    | split)

theorem keepLink_linkFrameOf (kind : Nat) (dst : Option Nat) (v : Nat) (s : State) : (linkFrameOf kind dst v s).2.keepLink =
    s.keepLink := by
  unfold linkFrameOf
  repeat' (first
    | with_reducible rfl
    | simp only [keepLink_mk, keepLink_fold, ite_keepLink, ite_self, implies_true]
    | refine (keepLink_each _ _ (fun a s => ?_) _).trans ?_
    | split)

theorem keepLink_queueFrame (p : Nat) (f : LinkTx) (s : State) : (queueFrame p f s).keepLink = s.keepLink := by
  unfold queueFrame
  repeat' (first
    | with_reducible rfl
    | simp only [keepLink_mk, keepLink_fold, ite_keepLink, ite_self, implies_true, keepLink_modPort]
    | refine (keepLink_each _ _ (fun a s => ?_) _).trans ?_
    | split)

theorem keepLink_urgentFrame (p : Nat) (f : LinkTx) (s : State) : (urgentFrame p f s).keepLink = s.keepLink := by
  unfold urgentFrame
  repeat' (first
    | with_reducible rfl
    | simp only [keepLink_mk, keepLink_fold, ite_keepLink, ite_self, implies_true, keepLink_modPort]
    | refine (keepLink_each _ _ (fun a s => ?_) _).trans ?_
    | split)

theorem keepLink_sendEntry (e : JEntry) (s : State) : (sendEntry e s).keepLink = s.keepLink := by
  unfold sendEntry
  repeat' (first
    | with_reducible rfl
    | simp only [keepLink_mk, keepLink_fold, ite_keepLink, ite_self, implies_true, keepLink_linkFrameOf, keepLink_queueFrame]
    | refine (keepLink_each _ _ (fun a s => ?_) _).trans ?_
    | split)

theorem keepLink_pairJournal (e : JEntry) (s : State) : (pairJournal e s).keepLink = s.keepLink := by
  unfold pairJournal
  repeat' (first
    | with_reducible rfl
    | simp only [keepLink_mk, keepLink_fold, ite_keepLink, ite_self, implies_true, keepLink_sendEntry]
    | refine (keepLink_each _ _ (fun a s => ?_) _).trans ?_
    | split)

theorem keepLink_jAppend (e : JEntry) (s : State) : (jAppend e s).keepLink = s.keepLink := by
  unfold jAppend
  repeat' (first
    | with_reducible rfl
    | simp only [keepLink_mk, keepLink_fold, ite_keepLink, ite_self, implies_true, keepLink_pairJournal, keepLink_wcWritten]
    | refine (keepLink_each _ _ (fun a s => ?_) _).trans ?_
    | split)

theorem keepLink_finishAt (d q status result : Nat) (s : State) : (finishAt d q status result s).keepLink = s.keepLink := by
  unfold finishAt
  repeat' (first
    | with_reducible rfl
    | simp only [keepLink_mk, keepLink_fold, ite_keepLink, ite_self, implies_true]
    | refine (keepLink_each _ _ (fun a s => ?_) _).trans ?_
    | split)

theorem keepLink_finish (q status result : Nat) (s : State) : (finish q status result s).keepLink = s.keepLink := by
  unfold finish
  repeat' (first
    | with_reducible rfl
    | simp only [keepLink_mk, keepLink_fold, ite_keepLink, ite_self, implies_true, keepLink_finishAt]
    | refine (keepLink_each _ _ (fun a s => ?_) _).trans ?_
    | split)

theorem keepLink_finishAll (w : Wait → Bool) (status result : Nat) (s : State) : (finishAll w status result s).keepLink = s.keepLink
    := by
  unfold finishAll
  repeat' (first
    | with_reducible rfl
    | simp only [keepLink_mk, keepLink_fold, ite_keepLink, ite_self, implies_true, keepLink_each, keepLink_finish]
    | refine (keepLink_each _ _ (fun a s => ?_) _).trans ?_
    | split)

theorem keepLink_commitEnd (k : CKey) (s : State) : (commitEnd k s).keepLink = s.keepLink := by
  unfold commitEnd
  repeat' (first
    | with_reducible rfl
    | simp only [keepLink_mk, keepLink_fold, ite_keepLink, ite_self, implies_true]
    | refine (keepLink_each _ _ (fun a s => ?_) _).trans ?_
    | split)

theorem keepLink_alogAdd (e : ALog) (s : State) : (alogAdd e s).keepLink = s.keepLink := by
  unfold alogAdd
  repeat' (first
    | with_reducible rfl
    | simp only [keepLink_mk, keepLink_fold, ite_keepLink, ite_self, implies_true]
    | refine (keepLink_each _ _ (fun a s => ?_) _).trans ?_
    | split)

theorem keepLink_alogWithdraw (id kind order prio inrush steady : Nat) (s : State) : (alogWithdraw id kind order prio inrush
    steady s).keepLink = s.keepLink := by
  unfold alogWithdraw
  repeat' (first
    | with_reducible rfl
    | simp only [keepLink_mk, keepLink_fold, ite_keepLink, ite_self, implies_true, keepLink_alogAdd]
    | refine (keepLink_each _ _ (fun a s => ?_) _).trans ?_
    | split)

theorem keepLink_stageHalt (st : Nat) (dst : SState) (s : State) : (stageHalt st dst s).keepLink = s.keepLink := by
  unfold stageHalt
  repeat' (first
    | with_reducible rfl
    | simp only [keepLink_mk, keepLink_fold, ite_keepLink, ite_self, implies_true, keepLink_modStg, keepLink_commitEnd]
    | refine (keepLink_each _ _ (fun a s => ?_) _).trans ?_
    | split)

theorem keepLink_withdrawEnable (g : Nat) (f : Fig) (order : Nat) (s : State) : (withdrawEnable g f order s).keepLink = s.keepLink :=
    by
  unfold withdrawEnable
  repeat' (first
    | with_reducible rfl
    | simp only [keepLink_mk, keepLink_fold, ite_keepLink, ite_self, implies_true, keepLink_alogWithdraw, keepLink_commitEnd]
    | refine (keepLink_each _ _ (fun a s => ?_) _).trans ?_
    | split)

theorem keepLink_withdrawStart (m st order : Nat) (s : State) : (withdrawStart m st order s).keepLink = s.keepLink := by
  unfold withdrawStart
  repeat' (first
    | with_reducible rfl
    | simp only [keepLink_mk, keepLink_fold, ite_keepLink, ite_self, implies_true, keepLink_alogWithdraw, keepLink_commitEnd]
    | refine (keepLink_each _ _ (fun a s => ?_) _).trans ?_
    | split)

theorem keepLink_withdrawMargin (m : MOp) (s : State) : (withdrawMargin m s).keepLink = s.keepLink := by
  unfold withdrawMargin
  repeat' (first
    | with_reducible rfl
    | simp only [keepLink_mk, keepLink_fold, ite_keepLink, ite_self, implies_true, keepLink_alogWithdraw, keepLink_commitEnd]
    | refine (keepLink_each _ _ (fun a s => ?_) _).trans ?_
    | split)

theorem keepLink_withdrawItem (it : Item) (s : State) : (withdrawItem it s).keepLink = s.keepLink := by
  unfold withdrawItem
  repeat' (first
    | with_reducible rfl
    | simp only [keepLink_mk, keepLink_fold, ite_keepLink, ite_self, implies_true, keepLink_withdrawEnable, keepLink_withdrawStart]
    | refine (keepLink_each _ _ (fun a s => ?_) _).trans ?_
    | split)

theorem keepLink_withdrawCmd (c : RailCmd) (s : State) : (withdrawCmd c s).keepLink = s.keepLink := by
  unfold withdrawCmd
  repeat' (first
    | with_reducible rfl
    | simp only [keepLink_mk, keepLink_fold, ite_keepLink, ite_self, implies_true, keepLink_withdrawEnable, keepLink_withdrawStart]
    | refine (keepLink_each _ _ (fun a s => ?_) _).trans ?_
    | split)

theorem keepLink_disown (n : Nat) (s : State) : (disown n s).keepLink = s.keepLink := by
  unfold disown
  repeat' (first
    | with_reducible rfl
    | simp only [keepLink_mk, keepLink_fold, ite_keepLink, ite_self, implies_true, keepLink_modStg, keepLink_each,
        keepLink_withdrawMargin]
    | refine (keepLink_each _ _ (fun a s => ?_) _).trans ?_
    | split)

theorem keepLink_stopCmds (n : Nat) (s : State) : (stopCmds n s).keepLink = s.keepLink := by
  unfold stopCmds
  repeat' (first
    | with_reducible rfl
    | simp only [keepLink_mk, keepLink_fold, ite_keepLink, ite_self, implies_true, keepLink_each, keepLink_withdrawCmd]
    | refine (keepLink_each _ _ (fun a s => ?_) _).trans ?_
    | split)

theorem keepLink_progEnd (n status step : Nat) (s : State) : (progEnd n status step s).keepLink = s.keepLink := by
  unfold progEnd
  repeat' (first
    | with_reducible rfl
    | simp only [keepLink_mk, keepLink_fold, ite_keepLink, ite_self, implies_true, keepLink_modProg, keepLink_disown, keepLink_each,
        keepLink_stopCmds, keepLink_withdrawItem]
    | refine (keepLink_each _ _ (fun a s => ?_) _).trans ?_
    | split)

theorem keepLink_fromMirror (a : Nat) (s : State) : (fromMirror a s).keepLink = s.keepLink := by
  unfold fromMirror
  repeat' (first
    | with_reducible rfl
    | simp only [keepLink_mk, keepLink_fold, ite_keepLink, ite_self, implies_true]
    | refine (keepLink_each _ _ (fun a s => ?_) _).trans ?_
    | split)

theorem keepLink_readTable (a : Nat) (s : State) : (readTable a s).2.keepLink = s.keepLink := by
  unfold readTable
  repeat' (first
    | with_reducible rfl
    | simp only [keepLink_mk, keepLink_fold, ite_keepLink, ite_self, implies_true, keepLink_fromMirror, keepLink_readWord,
        keepLink_wcWritten]
    | refine (keepLink_each _ _ (fun a s => ?_) _).trans ?_
    | split)

theorem keepLink_readWords (l : List Nat) (s : State) : (readWords l s).2.keepLink = s.keepLink := by
  induction l generalizing s with
  | nil => rfl
  | cons a l ih =>
    unfold readWords
    repeat' (first
      | with_reducible rfl
      | simp only [keepLink_mk, keepLink_fold, ite_keepLink, ite_self, implies_true, ih, keepLink_readTable]
      | refine (keepLink_each _ _ (fun a s => ?_) _).trans ?_
      | split)

theorem keepLink_fetchAt (n old i : Nat) (s : State) : (fetchAt n old i s).keepLink = s.keepLink := by
  unfold fetchAt
  repeat' (first
    | with_reducible rfl
    | simp only [keepLink_mk, keepLink_fold, ite_keepLink, ite_self, implies_true, keepLink_modProg, keepLink_progEnd, keepLink_readWords]
    | refine (keepLink_each _ _ (fun a s => ?_) _).trans ?_
    | split)

theorem keepLink_progLaunch (n : Nat) (s : State) : (progLaunch n s).keepLink = s.keepLink := by
  unfold progLaunch
  repeat' (first
    | with_reducible rfl
    | simp only [keepLink_mk, keepLink_fold, ite_keepLink, ite_self, implies_true, keepLink_modProg, keepLink_fetchAt]
    | refine (keepLink_each _ _ (fun a s => ?_) _).trans ?_
    | split)

theorem keepLink_launchOnSet (s : State) : (launchOnSet s).keepLink = s.keepLink := by
  unfold launchOnSet
  repeat' (first
    | with_reducible rfl
    | simp only [keepLink_mk, keepLink_fold, ite_keepLink, ite_self, implies_true, keepLink_each, keepLink_progLaunch]
    | refine (keepLink_each _ _ (fun a s => ?_) _).trans ?_
    | split)

theorem keepLink_resumeRun (s : State) : (resumeRun s).keepLink = s.keepLink := by
  unfold resumeRun
  repeat' (first
    | with_reducible rfl
    | simp only [keepLink_mk, keepLink_fold, ite_keepLink, ite_self, implies_true, keepLink_modRail, keepLink_each, keepLink_finishAll]
    | refine (keepLink_each _ _ (fun a s => ?_) _).trans ?_
    | split)

theorem keepLink_onRequest (s : State) : (onRequest s).2.keepLink = s.keepLink := by
  unfold onRequest
  repeat' (first
    | with_reducible rfl
    | simp only [keepLink_mk, keepLink_fold, ite_keepLink, ite_self, implies_true, keepLink_launchOnSet, keepLink_resumeRun]
    | refine (keepLink_each _ _ (fun a s => ?_) _).trans ?_
    | split)

theorem keepLink_onRequestNow (s : State) : (onRequestNow s).keepLink = s.keepLink := by
  unfold onRequestNow
  repeat' (first
    | with_reducible rfl
    | simp only [keepLink_mk, keepLink_fold, ite_keepLink, ite_self, implies_true, keepLink_onRequest]
    | refine (keepLink_each _ _ (fun a s => ?_) _).trans ?_
    | split)

theorem keepLink_rowFirst (f : RFF) (s : State) : (rowFirst f s).keepLink = s.keepLink := by
  unfold rowFirst
  repeat' (first
    | with_reducible rfl
    | simp only [keepLink_mk, keepLink_fold, ite_keepLink, ite_self, implies_true]
    | refine (keepLink_each _ _ (fun a s => ?_) _).trans ?_
    | split)

theorem keepLink_refuse (p code : Nat) (s : State) : (refuse p code s).keepLink = s.keepLink := by
  unfold refuse
  repeat' (first
    | with_reducible rfl
    | simp only [keepLink_mk, keepLink_fold, ite_keepLink, ite_self, implies_true, keepLink_raise]
    | refine (keepLink_each _ _ (fun a s => ?_) _).trans ?_
    | split)

theorem keepLink_groupStep (s : State) : (groupStep s).keepLink = s.keepLink := by
  unfold groupStep
  repeat' (first
    | with_reducible rfl
    | simp only [keepLink_mk, keepLink_fold, ite_keepLink, ite_self, implies_true]
    | refine (keepLink_each _ _ (fun a s => ?_) _).trans ?_
    | split)

theorem keepLink_portSeek (p : Nat) (s : State) : (portSeek p s).keepLink = s.keepLink := by
  unfold portSeek
  repeat' (first
    | with_reducible rfl
    | simp only [keepLink_mk, keepLink_fold, ite_keepLink, ite_self, implies_true, keepLink_modPort]
    | refine (keepLink_each _ _ (fun a s => ?_) _).trans ?_
    | split)

theorem keepLink_portLock (p : Nat) (inv : Bool) (s : State) : (portLock p inv s).keepLink = s.keepLink := by
  unfold portLock
  repeat' (first
    | with_reducible rfl
    | simp only [keepLink_mk, keepLink_fold, ite_keepLink, ite_self, implies_true, keepLink_modPort]
    | refine (keepLink_each _ _ (fun a s => ?_) _).trans ?_
    | split)

theorem keepLink_portIdent (p : Nat) (s : State) : (portIdent p s).keepLink = s.keepLink := by
  unfold portIdent
  repeat' (first
    | with_reducible rfl
    | simp only [keepLink_mk, keepLink_fold, ite_keepLink, ite_self, implies_true, keepLink_modPort, keepLink_groupStep]
    | refine (keepLink_each _ _ (fun a s => ?_) _).trans ?_
    | split)

theorem keepLink_portRetrain (p : Nat) (s : State) : (portRetrain p s).keepLink = s.keepLink := by
  unfold portRetrain
  repeat' (first
    | with_reducible rfl
    | simp only [keepLink_mk, keepLink_fold, ite_keepLink, ite_self, implies_true, keepLink_modPort, keepLink_groupStep, keepLink_raise]
    | refine (keepLink_each _ _ (fun a s => ?_) _).trans ?_
    | split)

theorem keepLink_joinDone (s : State) : (joinDone s).keepLink = s.keepLink := by
  unfold joinDone
  repeat' (first
    | with_reducible rfl
    | simp only [keepLink_mk, keepLink_fold, ite_keepLink, ite_self, implies_true, keepLink_onRequestNow]
    | refine (keepLink_each _ _ (fun a s => ?_) _).trans ?_
    | split)

theorem keepLink_holdStages (s : State) : (holdStages s).keepLink = s.keepLink := by
  unfold holdStages
  repeat' (first
    | with_reducible rfl
    | simp only [keepLink_mk, keepLink_fold, ite_keepLink, ite_self, implies_true, keepLink_each, keepLink_stageHalt]
    | refine (keepLink_each _ _ (fun a s => ?_) _).trans ?_
    | split)

theorem keepLink_takeRole (r : Nat) (s : State) : (takeRole r s).keepLink = s.keepLink := by
  unfold takeRole
  repeat' (first
    | with_reducible rfl
    | simp only [keepLink_mk, keepLink_fold, ite_keepLink, ite_self, implies_true, keepLink_holdStages, keepLink_joinDone]
    | refine (keepLink_each _ _ (fun a s => ?_) _).trans ?_
    | split)

theorem keepLink_portUp (p peer role rtt delay : Nat) (sameRow active join : Bool) (s : State) : (portUp p peer role rtt delay
    sameRow active join s).keepLink = s.keepLink := by
  unfold portUp
  repeat' (first
    | with_reducible rfl
    | simp only [keepLink_mk, keepLink_fold, ite_keepLink, ite_self, implies_true, keepLink_modPort, keepLink_groupStep, keepLink_raise,
        keepLink_refuse, keepLink_takeRole]
    | refine (keepLink_each _ _ (fun a s => ?_) _).trans ?_
    | split)

theorem keepLink_receive (f : LFrame) (k : State → State) (s : State) (hk : ∀ s, (k s).keepLink = s.keepLink) : (receive f k s).keepLink
    = s.keepLink := by
  unfold receive
  repeat' (first
    | with_reducible rfl
    | simp only [keepLink_mk, keepLink_fold, ite_keepLink, ite_self, implies_true, keepLink_modPort, keepLink_portRetrain,
        keepLink_wcWritten, keepLink_wordErr, hk]
    | refine (keepLink_each _ _ (fun a s => ?_) _).trans ?_
    | split)

theorem keepLink_sendFrame (p kind : Nat) (dst : Option Nat) (v : Nat) (s : State) : (sendFrame p kind dst v s).keepLink = s.keepLink
    := by
  unfold sendFrame
  repeat' (first
    | with_reducible rfl
    | simp only [keepLink_mk, keepLink_fold, ite_keepLink, ite_self, implies_true, keepLink_linkFrameOf, keepLink_queueFrame]
    | refine (keepLink_each _ _ (fun a s => ?_) _).trans ?_
    | split)

theorem keepLink_sendOn (l : List Nat) (f : LinkTx) (s : State) : (sendOn l f s).keepLink = s.keepLink := by
  unfold sendOn
  repeat' (first
    | with_reducible rfl
    | simp only [keepLink_mk, keepLink_fold, ite_keepLink, ite_self, implies_true, keepLink_each, keepLink_queueFrame,
        keepLink_urgentFrame]
    | refine (keepLink_each _ _ (fun a s => ?_) _).trans ?_
    | split)

theorem keepLink_sendRow (kind : Nat) (dst : Option Nat) (v : Nat) (s : State) : (sendRow kind dst v s).keepLink = s.keepLink := by
  unfold sendRow
  repeat' (first
    | with_reducible rfl
    | simp only [keepLink_mk, keepLink_fold, ite_keepLink, ite_self, implies_true, keepLink_linkFrameOf, keepLink_sendFrame,
        keepLink_sendOn]
    | refine (keepLink_each _ _ (fun a s => ?_) _).trans ?_
    | split)

theorem keepLink_forwardRow (kind : Nat) (f : LFrame) (s : State) : (forwardRow kind f s).keepLink = s.keepLink := by
  unfold forwardRow
  repeat' (first
    | with_reducible rfl
    | simp only [keepLink_mk, keepLink_fold, ite_keepLink, ite_self, implies_true, keepLink_sendOn]
    | refine (keepLink_each _ _ (fun a s => ?_) _).trans ?_
    | split)

theorem keepLink_once (kind : Nat) (f : LFrame) (k : State → State) (s : State) (hk : ∀ s, (k s).keepLink = s.keepLink) : (once kind
    f k s).keepLink = s.keepLink := by
  unfold once
  repeat' (first
    | with_reducible rfl
    | simp only [keepLink_mk, keepLink_fold, ite_keepLink, ite_self, implies_true, keepLink_forwardRow, hk]
    | refine (keepLink_each _ _ (fun a s => ?_) _).trans ?_
    | split)

theorem keepLink_agreeFrame (x : SyncIn) (s : State) : (agreeFrame x s).keepLink = s.keepLink := by
  unfold agreeFrame
  repeat' (first
    | with_reducible rfl
    | simp only [keepLink_mk, keepLink_fold, ite_keepLink, ite_self, implies_true]
    | refine (keepLink_each _ _ (fun a s => ?_) _).trans ?_
    | split)

theorem keepLink_syncFrame (x : SyncIn) (s : State) : (syncFrame x s).keepLink = s.keepLink := by
  unfold syncFrame
  repeat' (first
    | with_reducible rfl
    | simp only [keepLink_mk, keepLink_fold, ite_keepLink, ite_self, implies_true, keepLink_modPort, keepLink_agreeFrame,
        keepLink_groupStep, keepLink_receive, keepLink_refuse]
    | refine (keepLink_each _ _ (fun a s => ?_) _).trans ?_
    | refine (keepLink_receive _ _ _ (fun _ => ?_)).trans ?_
    | split)

theorem keepLink_electFrame (f : LFrame) (s : State) : (electFrame f s).keepLink = s.keepLink := by
  unfold electFrame
  repeat' (first
    | with_reducible rfl
    | simp only [keepLink_mk, keepLink_fold, ite_keepLink, ite_self, implies_true, keepLink_forwardRow, keepLink_receive,
        keepLink_sendFrame]
    | refine (keepLink_each _ _ (fun a s => ?_) _).trans ?_
    | refine (keepLink_receive _ _ _ (fun _ => ?_)).trans ?_
    | split)

theorem keepLink_formCount (s : State) : (formCount s).keepLink = s.keepLink := by
  unfold formCount
  repeat' (first
    | with_reducible rfl
    | simp only [keepLink_mk, keepLink_fold, ite_keepLink, ite_self, implies_true]
    | refine (keepLink_each _ _ (fun a s => ?_) _).trans ?_
    | split)

theorem keepLink_electionWin (row : Bool) (s : State) : (electionWin row s).keepLink = s.keepLink := by
  unfold electionWin
  repeat' (first
    | with_reducible rfl
    | simp only [keepLink_mk, keepLink_fold, ite_keepLink, ite_self, implies_true, keepLink_formCount, keepLink_sendFrame,
        keepLink_sendRow]
    | refine (keepLink_each _ _ (fun a s => ?_) _).trans ?_
    | split)

theorem keepLink_memberFrame (f : LFrame) (s : State) : (memberFrame f s).keepLink = s.keepLink := by
  unfold memberFrame
  repeat' (first
    | with_reducible rfl
    | simp only [keepLink_mk, keepLink_fold, ite_keepLink, ite_self, implies_true, keepLink_once, keepLink_receive]
    | refine (keepLink_each _ _ (fun a s => ?_) _).trans ?_
    | refine (keepLink_once _ _ _ _ (fun _ => ?_)).trans ?_
    | refine (keepLink_receive _ _ _ (fun _ => ?_)).trans ?_
    | split)

theorem keepLink_rowMasterLoss (s : State) : (rowMasterLoss s).keepLink = s.keepLink := by
  unfold rowMasterLoss
  repeat' (first
    | with_reducible rfl
    | simp only [keepLink_mk, keepLink_fold, ite_keepLink, ite_self, implies_true, keepLink_raise]
    | refine (keepLink_each _ _ (fun a s => ?_) _).trans ?_
    | split)

theorem keepLink_rowHoldEnd (s : State) : (rowHoldEnd s).keepLink = s.keepLink := by
  unfold rowHoldEnd
  repeat' (first
    | with_reducible rfl
    | simp only [keepLink_mk, keepLink_fold, ite_keepLink, ite_self, implies_true]
    | refine (keepLink_each _ _ (fun a s => ?_) _).trans ?_
    | split)

theorem keepLink_statusOff (v : Nat) (s : State) : (statusOff v s).keepLink = s.keepLink := by
  unfold statusOff
  repeat' (first
    | with_reducible rfl
    | simp only [keepLink_mk, keepLink_fold, ite_keepLink, ite_self, implies_true]
    | refine (keepLink_each _ _ (fun a s => ?_) _).trans ?_
    | split)

theorem keepLink_viewCommit (g : Nat) (old new : View) (s : State) : (viewCommit g old new s).keepLink = s.keepLink := by
  unfold viewCommit
  repeat' (first
    | with_reducible rfl
    | simp only [keepLink_mk, keepLink_fold, ite_keepLink, ite_self, implies_true, keepLink_commitEnd]
    | refine (keepLink_each _ _ (fun a s => ?_) _).trans ?_
    | split)

theorem keepLink_statusFrame (f : LFrame) (m : Nat) (s : State) : (statusFrame f m s).keepLink = s.keepLink := by
  unfold statusFrame
  repeat' (first
    | with_reducible rfl
    | simp only [keepLink_mk, keepLink_fold, ite_keepLink, ite_self, implies_true, keepLink_modView, keepLink_each, keepLink_joinDone,
        keepLink_receive, keepLink_statusOff, keepLink_viewCommit]
    | refine (keepLink_each _ _ (fun a s => ?_) _).trans ?_
    | refine (keepLink_receive _ _ _ (fun _ => ?_)).trans ?_
    | split)

theorem keepLink_cmdFrame (f : LFrame) (s : State) : (cmdFrame f s).keepLink = s.keepLink := by
  unfold cmdFrame
  repeat' (first
    | with_reducible rfl
    | simp only [keepLink_mk, keepLink_fold, ite_keepLink, ite_self, implies_true, keepLink_receive]
    | refine (keepLink_each _ _ (fun a s => ?_) _).trans ?_
    | refine (keepLink_receive _ _ _ (fun _ => ?_)).trans ?_
    | split)

theorem keepLink_commandLoss (s : State) : (commandLoss s).keepLink = s.keepLink := by
  unfold commandLoss
  repeat' (first
    | with_reducible rfl
    | simp only [keepLink_mk, keepLink_fold, ite_keepLink, ite_self, implies_true, keepLink_raise]
    | refine (keepLink_each _ _ (fun a s => ?_) _).trans ?_
    | split)

theorem keepLink_rowstatFrame (f : LFrame) (demand floor : Nat) (inloss ready : Bool) (level domain : Nat) (s : State) :
    (rowstatFrame f demand floor inloss ready level domain s).keepLink = s.keepLink := by
  unfold rowstatFrame
  repeat' (first
    | with_reducible rfl
    | simp only [keepLink_mk, keepLink_fold, ite_keepLink, ite_self, implies_true, keepLink_modRnode, keepLink_once, keepLink_receive]
    | refine (keepLink_each _ _ (fun a s => ?_) _).trans ?_
    | refine (keepLink_once _ _ _ _ (fun _ => ?_)).trans ?_
    | refine (keepLink_receive _ _ _ (fun _ => ?_)).trans ?_
    | split)

theorem keepLink_capFrame (f : LFrame) (cap : Nat) (s : State) : (capFrame f cap s).keepLink = s.keepLink := by
  unfold capFrame
  repeat' (first
    | with_reducible rfl
    | simp only [keepLink_mk, keepLink_fold, ite_keepLink, ite_self, implies_true, keepLink_once, keepLink_receive]
    | refine (keepLink_each _ _ (fun a s => ?_) _).trans ?_
    | refine (keepLink_once _ _ _ _ (fun _ => ?_)).trans ?_
    | refine (keepLink_receive _ _ _ (fun _ => ?_)).trans ?_
    | split)

theorem keepLink_faultFrame (f : LFrame) (ts : Ts) (node grail kind : Nat) (aligned : Bool) (s : State) : (faultFrame f ts node
    grail kind aligned s).keepLink = s.keepLink := by
  unfold faultFrame
  repeat' (first
    | with_reducible rfl
    | simp only [keepLink_mk, keepLink_fold, ite_keepLink, ite_self, implies_true, keepLink_once, keepLink_receive, keepLink_rowFirst]
    | refine (keepLink_each _ _ (fun a s => ?_) _).trans ?_
    | refine (keepLink_once _ _ _ _ (fun _ => ?_)).trans ?_
    | refine (keepLink_receive _ _ _ (fun _ => ?_)).trans ?_
    | split)

theorem keepLink_faultBroadcast (s : State) : (faultBroadcast s).keepLink = s.keepLink := by
  unfold faultBroadcast
  repeat' (first
    | with_reducible rfl
    | simp only [keepLink_mk, keepLink_fold, ite_keepLink, ite_self, implies_true, keepLink_sendRow]
    | refine (keepLink_each _ _ (fun a s => ?_) _).trans ?_
    | split)

theorem keepLink_eventFrame (f : LFrame) (o : Occ) (s : State) : (eventFrame f o s).keepLink = s.keepLink := by
  unfold eventFrame
  repeat' (first
    | with_reducible rfl
    | simp only [keepLink_mk, keepLink_fold, ite_keepLink, ite_self, implies_true, keepLink_once, keepLink_raiseSev, keepLink_receive]
    | refine (keepLink_each _ _ (fun a s => ?_) _).trans ?_
    | refine (keepLink_once _ _ _ _ (fun _ => ?_)).trans ?_
    | refine (keepLink_receive _ _ _ (fun _ => ?_)).trans ?_
    | split)

theorem keepLink_pairEnFrame (f : LFrame) (s : State) : (pairEnFrame f s).keepLink = s.keepLink := by
  unfold pairEnFrame
  repeat' (first
    | with_reducible rfl
    | simp only [keepLink_mk, keepLink_fold, ite_keepLink, ite_self, implies_true, keepLink_receive, keepLink_takeRole]
    | refine (keepLink_each _ _ (fun a s => ?_) _).trans ?_
    | refine (keepLink_receive _ _ _ (fun _ => ?_)).trans ?_
    | split)

theorem keepLink_assertXrst (s : State) : (assertXrst s).keepLink = s.keepLink := by
  unfold assertXrst
  repeat' (first
    | with_reducible rfl
    | simp only [keepLink_mk, keepLink_fold, ite_keepLink, ite_self, implies_true, keepLink_raise]
    | refine (keepLink_each _ _ (fun a s => ?_) _).trans ?_
    | split)

theorem keepLink_sendSnapshot (s : State) : (sendSnapshot s).keepLink = s.keepLink := by
  unfold sendSnapshot
  repeat' (first
    | with_reducible rfl
    | simp only [keepLink_mk, keepLink_fold, ite_keepLink, ite_self, implies_true, keepLink_emit]
    | refine (keepLink_each _ _ (fun a s => ?_) _).trans ?_
    | split)

theorem keepLink_shadowReset (s : State) : (shadowReset s).keepLink = s.keepLink := by
  unfold shadowReset
  repeat' (first
    | with_reducible rfl
    | simp only [keepLink_mk, keepLink_fold, ite_keepLink, ite_self, implies_true, keepLink_assertXrst]
    | refine (keepLink_each _ _ (fun a s => ?_) _).trans ?_
    | split)

theorem keepLink_xrstOff (s : State) : (xrstOff s).keepLink = s.keepLink := by
  unfold xrstOff
  repeat' (first
    | with_reducible rfl
    | simp only [keepLink_mk, keepLink_fold, ite_keepLink, ite_self, implies_true]
    | refine (keepLink_each _ _ (fun a s => ?_) _).trans ?_
    | split)

theorem keepLink_judgeReady (s : State) : (judgeReady s).keepLink = s.keepLink := by
  unfold judgeReady
  repeat' (first
    | with_reducible rfl
    | simp only [keepLink_mk, keepLink_fold, ite_keepLink, ite_self, implies_true]
    | refine (keepLink_each _ _ (fun a s => ?_) _).trans ?_
    | split)

theorem keepLink_journalFrame (f : LFrame) (s : State) : (journalFrame f s).keepLink = s.keepLink := by
  unfold journalFrame
  repeat' (first
    | with_reducible rfl
    | simp only [keepLink_mk, keepLink_fold, ite_keepLink, ite_self, implies_true, keepLink_judgeReady, keepLink_receive,
        keepLink_sendFrame, keepLink_wcWritten]
    | refine (keepLink_each _ _ (fun a s => ?_) _).trans ?_
    | refine (keepLink_receive _ _ _ (fun _ => ?_)).trans ?_
    | split)

theorem keepLink_jackFrame (f : LFrame) (q : Nat) (s : State) : (jackFrame f q s).keepLink = s.keepLink :=
  keepLink_receive _ _ _ (fun _ => rfl)

theorem keepLink_resend (due : List Nat) (s : State) : (resend due s).keepLink = s.keepLink := by
  unfold resend
  repeat' (first
    | with_reducible rfl
    | simp only [keepLink_mk, keepLink_fold, ite_keepLink, ite_self, implies_true, keepLink_each, keepLink_sendEntry]
    | refine (keepLink_each _ _ (fun a s => ?_) _).trans ?_
    | split)

theorem keepLink_journalResend (s : State) : (journalResend s).keepLink = s.keepLink := by
  unfold journalResend
  repeat' (first
    | with_reducible rfl
    | simp only [keepLink_mk, keepLink_fold, ite_keepLink, ite_self, implies_true, keepLink_resend]
    | refine (keepLink_each _ _ (fun a s => ?_) _).trans ?_
    | split)

theorem keepLink_mirrorFrame (f : LFrame) (tick k n : Nat) (items : List SnapItem) (s : State) : (mirrorFrame f tick k n items
    s).keepLink = s.keepLink := by
  unfold mirrorFrame
  repeat' (first
    | with_reducible rfl
    | simp only [keepLink_mk, keepLink_fold, ite_keepLink, ite_self, implies_true, keepLink_judgeReady, keepLink_receive]
    | refine (keepLink_each _ _ (fun a s => ?_) _).trans ?_
    | refine (keepLink_receive _ _ _ (fun _ => ?_)).trans ?_
    | split)

theorem keepLink_quietPoint (s : State) : (quietPoint s).keepLink = s.keepLink := by
  unfold quietPoint
  repeat' (first
    | with_reducible rfl
    | simp only [keepLink_mk, keepLink_fold, ite_keepLink, ite_self, implies_true, keepLink_sendSnapshot]
    | refine (keepLink_each _ _ (fun a s => ?_) _).trans ?_
    | split)

theorem keepLink_fwEvent (src status cmd ver kind eng ph : Nat) (s : State) : (fwEvent src status cmd ver kind eng ph s).keepLink
    = s.keepLink := by
  unfold fwEvent
  repeat' (first
    | with_reducible rfl
    | simp only [keepLink_mk, keepLink_fold, ite_keepLink, ite_self, implies_true, keepLink_raise]
    | refine (keepLink_each _ _ (fun a s => ?_) _).trans ?_
    | split)

theorem keepLink_fwExpiry (s : State) : (fwExpiry s).keepLink = s.keepLink := by
  unfold fwExpiry
  repeat' (first
    | with_reducible rfl
    | simp only [keepLink_mk, keepLink_fold, ite_keepLink, ite_self, implies_true]
    | refine (keepLink_each _ _ (fun a s => ?_) _).trans ?_
    | split)

theorem keepLink_clockLost (s : State) : (clockLost s).keepLink = s.keepLink := by
  unfold clockLost
  repeat' (first
    | with_reducible rfl
    | simp only [keepLink_mk, keepLink_fold, ite_keepLink, ite_self, implies_true, keepLink_raise]
    | refine (keepLink_each _ _ (fun a s => ?_) _).trans ?_
    | split)

theorem keepLink_clockBack (s : State) : (clockBack s).keepLink = s.keepLink := by
  unfold clockBack
  repeat' (first
    | with_reducible rfl
    | simp only [keepLink_mk, keepLink_fold, ite_keepLink, ite_self, implies_true]
    | refine (keepLink_each _ _ (fun a s => ?_) _).trans ?_
    | split)

theorem keepLink_rselWrite (v : W32) (s : State) : (rselWrite v s).keepLink = s.keepLink := by
  unfold rselWrite
  repeat' (first
    | with_reducible rfl
    | simp only [keepLink_mk, keepLink_fold, ite_keepLink, ite_self, implies_true]
    | refine (keepLink_each _ _ (fun a s => ?_) _).trans ?_
    | split)

theorem keepLink_acceptEntry (d : Desc) (src ring : Nat) (s : State) : (acceptEntry d src ring s).keepLink = s.keepLink := by
  unfold acceptEntry
  repeat' (first
    | with_reducible rfl
    | simp only [keepLink_mk, keepLink_fold, ite_keepLink, ite_self, implies_true, keepLink_jAppend]
    | refine (keepLink_each _ _ (fun a s => ?_) _).trans ?_
    | split)

theorem keepLink_acceptCmd (d : Desc) (src ring head : Nat) (s : State) : (acceptCmd d src ring head s).keepLink = s.keepLink := by
  unfold acceptCmd
  repeat' (first
    | with_reducible rfl
    | simp only [keepLink_mk, keepLink_fold, ite_keepLink, ite_self, implies_true, keepLink_acceptEntry]
    | refine (keepLink_each _ _ (fun a s => ?_) _).trans ?_
    | split)

theorem keepLink_portUpNow (p peer role rtt delay : Nat) (sameRow active : Bool) (fw : Nat) (s : State) : (portUpNow p peer
    role rtt delay sameRow active fw s).keepLink = s.keepLink := by
  unfold portUpNow
  repeat' (first
    | with_reducible rfl
    | simp only [keepLink_mk, keepLink_fold, ite_keepLink, ite_self, implies_true, keepLink_fwEvent, keepLink_fwExpiry, keepLink_portUp]
    | refine (keepLink_each _ _ (fun a s => ?_) _).trans ?_
    | split)

theorem keepLink_relayRow (f : LFrame) (r : Nat × Nat × Nat × Nat) (s : State) : (relayRow f r s).keepLink = s.keepLink := by
  unfold relayRow
  repeat' (first
    | with_reducible rfl
    | simp only [keepLink_mk, keepLink_fold, ite_keepLink, ite_self, implies_true, keepLink_modRnode, keepLink_sendOn]
    | refine (keepLink_each _ _ (fun a s => ?_) _).trans ?_
    | split)

theorem keepLink_relayKind (f : LFrame) (kind : Nat) (s : State) : (relayKind f kind s).keepLink = s.keepLink := by
  unfold relayKind
  repeat' (first
    | with_reducible rfl
    | simp only [keepLink_mk, keepLink_fold, ite_keepLink, ite_self, implies_true, keepLink_raiseSev, keepLink_rowFirst, keepLink_sendOn]
    | refine (keepLink_each _ _ (fun a s => ?_) _).trans ?_
    | split)

theorem keepLink_relayNow (f : LFrame) (cmd : Option Desc) (row : Option (Nat × Nat × Nat × Nat)) (kind : Nat) (s : State) :
    (relayNow f cmd row kind s).keepLink = s.keepLink := by
  unfold relayNow
  repeat' (first
    | with_reducible rfl
    | simp only [keepLink_mk, keepLink_fold, ite_keepLink, ite_self, implies_true, keepLink_acceptCmd, keepLink_receive,
        keepLink_relayKind, keepLink_relayRow]
    | refine (keepLink_each _ _ (fun a s => ?_) _).trans ?_
    | refine (keepLink_receive _ _ _ (fun _ => ?_)).trans ?_
    | split)


end Sys2Proof.Machine
end

