-- ==== Sys2Proof/Laws/FrameOff.lean ====
section
/-! SUPPORT. FrameOff.lean: these operations leave the off-sequencer alone. -/

set_option linter.all false
set_option linter.unusedSimpArgs false
set_option linter.unreachableTactic false
set_option linter.unusedTactic false
namespace Sys2Proof.Machine

/-- these operations leave the off-sequencer alone. -/
def State.onOff (s : State) :=
  (s.off)

theorem onOff_mk (a b c d e f g h i j k l m n o p q r u v w x y z a1 b1 c1 d1 e1 f1 g1 h1 i1 j1 k1 l1) :
    State.onOff (State.mk a b c d e f g h i j k l m n o p q r u v w x y z a1 b1 c1 d1 e1 f1 g1 h1 i1 j1 k1 l1) =
      (w) := rfl

theorem onOff_fold (s : State) : (s.off) = s.onOff := rfl

theorem ite_onOff (c : Prop) [Decidable c] (a b : State) :
    State.onOff (if c then a else b) = if c then a.onOff else b.onOff := by split <;> rfl

theorem onOff_each {α : Type} (l : List α) (f : α → State → State) (hf : ∀ a s, (f a s).onOff = s.onOff) (s : State) :
    (each l f s).onOff = s.onOff := by
  unfold each
  induction l generalizing s with
  | nil => rfl
  | cons a l ih => exact (ih _).trans (hf a s)

theorem onOff_foldl {α β : Type} (g : β → State) (f : β → α → β) (hf : ∀ b a, (g (f b a)).onOff = (g b).onOff)
    (l : List α) (b : β) : (g (l.foldl f b)).onOff = (g b).onOff := by
  induction l generalizing b with
  | nil => rfl
  | cons a l ih => exact (ih _).trans (hf b a)

theorem onOff_modStg (i : Nat) (f : Stg → Stg) (s : State) : (State.modStg i f s).onOff = s.onOff := by
  unfold State.modStg
  repeat' (first
    | with_reducible rfl
    | simp only [onOff_mk, onOff_fold, ite_onOff, ite_self, implies_true]
    | refine (onOff_each _ _ (fun a s => ?_) _).trans ?_
    | split)

theorem onOff_modProg (i : Nat) (f : Prog → Prog) (s : State) : (State.modProg i f s).onOff = s.onOff := by
  unfold State.modProg
  repeat' (first
    | with_reducible rfl
    | simp only [onOff_mk, onOff_fold, ite_onOff, ite_self, implies_true]
    | refine (onOff_each _ _ (fun a s => ?_) _).trans ?_
    | split)

theorem onOff_modGrp (i : Nat) (f : Grp → Grp) (s : State) : (State.modGrp i f s).onOff = s.onOff := by
  unfold State.modGrp
  repeat' (first
    | with_reducible rfl
    | simp only [onOff_mk, onOff_fold, ite_onOff, ite_self, implies_true]
    | refine (onOff_each _ _ (fun a s => ?_) _).trans ?_
    | split)

theorem onOff_modPort (i : Nat) (f : Port → Port) (s : State) : (State.modPort i f s).onOff = s.onOff := by
  unfold State.modPort
  repeat' (first
    | with_reducible rfl
    | simp only [onOff_mk, onOff_fold, ite_onOff, ite_self, implies_true]
    | refine (onOff_each _ _ (fun a s => ?_) _).trans ?_
    | split)

theorem onOff_ashAdd (n : Nat) (s : State) : (ashAdd n s).onOff = s.onOff := by
  unfold ashAdd
  repeat' (first
    | with_reducible rfl
    | simp only [onOff_mk, onOff_fold, ite_onOff, ite_self, implies_true]
    | refine (onOff_each _ _ (fun a s => ?_) _).trans ?_
    | split
    | rfl)

theorem onOff_capture (o : Occ) (s : State) : (capture o s).onOff = s.onOff := by
  unfold capture
  repeat' (first
    | with_reducible rfl
    | simp only [onOff_mk, onOff_fold, ite_onOff, ite_self, implies_true, onOff_ashAdd]
    | refine (onOff_each _ _ (fun a s => ?_) _).trans ?_
    | split
    | rfl)

theorem onOff_raiseCore (o : Occ) (s : State) : (raiseCore o s).onOff = s.onOff := by
  unfold raiseCore
  repeat' (first
    | with_reducible rfl
    | simp only [onOff_mk, onOff_fold, ite_onOff, ite_self, implies_true, onOff_capture]
    | refine (onOff_each _ _ (fun a s => ?_) _).trans ?_
    | split
    | rfl)

theorem onOff_ashEvent (old : Nat) (s : State) : (ashEvent old s).onOff = s.onOff := by
  unfold ashEvent
  repeat' (first
    | with_reducible rfl
    | simp only [onOff_mk, onOff_fold, ite_onOff, ite_self, implies_true, onOff_raiseCore]
    | refine (onOff_each _ _ (fun a s => ?_) _).trans ?_
    | split)

theorem onOff_raiseSev (src sev : Nat) (ts : Ts) (d : BitVec 128) (s : State) : (raiseSev src sev ts d s).onOff = s.onOff :=
    by
  unfold raiseSev
  repeat' (first
    | with_reducible rfl
    | simp only [onOff_mk, onOff_fold, ite_onOff, ite_self, implies_true, onOff_ashEvent, onOff_raiseCore]
    | refine (onOff_each _ _ (fun a s => ?_) _).trans ?_
    | split)

theorem onOff_raise (src : Nat) (ts : Ts) (d : BitVec 128) (s : State) : (raise src ts d s).onOff = s.onOff := by
  unfold raise
  repeat' (first
    | with_reducible rfl
    | simp only [onOff_mk, onOff_fold, ite_onOff, ite_self, implies_true, onOff_raiseSev]
    | refine (onOff_each _ _ (fun a s => ?_) _).trans ?_
    | split)

theorem onOff_wcWritten (struct addr : Nat) (s : State) : (wcWritten struct addr s).onOff = s.onOff := by
  unfold wcWritten
  repeat' (first
    | with_reducible rfl
    | simp only [onOff_mk, onOff_fold, ite_onOff, ite_self, implies_true]
    | refine (onOff_each _ _ (fun a s => ?_) _).trans ?_
    | split)

theorem onOff_wordErr (ts : Ts) (struct addr : Nat) (o : WcOut) (s : State) : (wordErr ts struct addr o s).onOff = s.onOff
    := by
  unfold wordErr
  repeat' (first
    | with_reducible rfl
    | simp only [onOff_mk, onOff_fold, ite_onOff, ite_self, implies_true]
    | refine (onOff_each _ _ (fun a s => ?_) _).trans ?_
    | split)

theorem onOff_readWord (ts : Ts) (struct addr : Nat) (s : State) : (readWord ts struct addr s).2.onOff = s.onOff := by
  unfold readWord
  repeat' (first
    | with_reducible rfl
    | simp only [onOff_mk, onOff_fold, ite_onOff, ite_self, implies_true, onOff_wcWritten, onOff_wordErr]
    | refine (onOff_each _ _ (fun a s => ?_) _).trans ?_
    | split)

theorem onOff_linkFrameOf (kind : Nat) (dst : Option Nat) (v : Nat) (s : State) : (linkFrameOf kind dst v s).2.onOff =
    s.onOff := by
  unfold linkFrameOf
  repeat' (first
    | with_reducible rfl
    | simp only [onOff_mk, onOff_fold, ite_onOff, ite_self, implies_true]
    | refine (onOff_each _ _ (fun a s => ?_) _).trans ?_
    | split)

theorem onOff_queueFrame (p : Nat) (f : LinkTx) (s : State) : (queueFrame p f s).onOff = s.onOff := by
  unfold queueFrame
  repeat' (first
    | with_reducible rfl
    | simp only [onOff_mk, onOff_fold, ite_onOff, ite_self, implies_true, onOff_modPort]
    | refine (onOff_each _ _ (fun a s => ?_) _).trans ?_
    | split)

theorem onOff_sendEntry (e : JEntry) (s : State) : (sendEntry e s).onOff = s.onOff := by
  unfold sendEntry
  repeat' (first
    | with_reducible rfl
    | simp only [onOff_mk, onOff_fold, ite_onOff, ite_self, implies_true, onOff_linkFrameOf, onOff_queueFrame]
    | refine (onOff_each _ _ (fun a s => ?_) _).trans ?_
    | split)

theorem onOff_pairJournal (e : JEntry) (s : State) : (pairJournal e s).onOff = s.onOff := by
  unfold pairJournal
  repeat' (first
    | with_reducible rfl
    | simp only [onOff_mk, onOff_fold, ite_onOff, ite_self, implies_true, onOff_sendEntry]
    | refine (onOff_each _ _ (fun a s => ?_) _).trans ?_
    | split)

theorem onOff_jAppend (e : JEntry) (s : State) : (jAppend e s).onOff = s.onOff := by
  unfold jAppend
  repeat' (first
    | with_reducible rfl
    | simp only [onOff_mk, onOff_fold, ite_onOff, ite_self, implies_true, onOff_pairJournal, onOff_wcWritten]
    | refine (onOff_each _ _ (fun a s => ?_) _).trans ?_
    | split)

theorem onOff_jInternal (op src digest result : Nat) (persist : Bool) (s : State) : (jInternal op src digest result persist
    s).onOff = s.onOff := by
  unfold jInternal
  repeat' (first
    | with_reducible rfl
    | simp only [onOff_mk, onOff_fold, ite_onOff, ite_self, implies_true, onOff_jAppend]
    | refine (onOff_each _ _ (fun a s => ?_) _).trans ?_
    | split)

theorem onOff_finishAt (d q status result : Nat) (s : State) : (finishAt d q status result s).onOff = s.onOff := by
  unfold finishAt
  repeat' (first
    | with_reducible rfl
    | simp only [onOff_mk, onOff_fold, ite_onOff, ite_self, implies_true]
    | refine (onOff_each _ _ (fun a s => ?_) _).trans ?_
    | split)

theorem onOff_finish (q status result : Nat) (s : State) : (finish q status result s).onOff = s.onOff := by
  unfold finish
  repeat' (first
    | with_reducible rfl
    | simp only [onOff_mk, onOff_fold, ite_onOff, ite_self, implies_true, onOff_finishAt]
    | refine (onOff_each _ _ (fun a s => ?_) _).trans ?_
    | split)

theorem onOff_finishAll (w : Wait → Bool) (status result : Nat) (s : State) : (finishAll w status result s).onOff = s.onOff
    := by
  unfold finishAll
  repeat' (first
    | with_reducible rfl
    | simp only [onOff_mk, onOff_fold, ite_onOff, ite_self, implies_true, onOff_each, onOff_finish]
    | refine (onOff_each _ _ (fun a s => ?_) _).trans ?_
    | split)

theorem onOff_commitEnd (k : CKey) (s : State) : (commitEnd k s).onOff = s.onOff := by
  unfold commitEnd
  repeat' (first
    | with_reducible rfl
    | simp only [onOff_mk, onOff_fold, ite_onOff, ite_self, implies_true]
    | refine (onOff_each _ _ (fun a s => ?_) _).trans ?_
    | split)

theorem onOff_alogAdd (e : ALog) (s : State) : (alogAdd e s).onOff = s.onOff := by
  unfold alogAdd
  repeat' (first
    | with_reducible rfl
    | simp only [onOff_mk, onOff_fold, ite_onOff, ite_self, implies_true]
    | refine (onOff_each _ _ (fun a s => ?_) _).trans ?_
    | split)

theorem onOff_alogWithdraw (id kind order prio inrush steady : Nat) (s : State) : (alogWithdraw id kind order prio inrush
    steady s).onOff = s.onOff := by
  unfold alogWithdraw
  repeat' (first
    | with_reducible rfl
    | simp only [onOff_mk, onOff_fold, ite_onOff, ite_self, implies_true, onOff_alogAdd]
    | refine (onOff_each _ _ (fun a s => ?_) _).trans ?_
    | split)

theorem onOff_softStop (st : Nat) (s : State) : (softStop st s).onOff = s.onOff := by
  unfold softStop
  repeat' (first
    | with_reducible rfl
    | simp only [onOff_mk, onOff_fold, ite_onOff, ite_self, implies_true, onOff_modStg]
    | refine (onOff_each _ _ (fun a s => ?_) _).trans ?_
    | split)

theorem onOff_withdrawEnable (g : Nat) (f : Fig) (order : Nat) (s : State) : (withdrawEnable g f order s).onOff = s.onOff :=
    by
  unfold withdrawEnable
  repeat' (first
    | with_reducible rfl
    | simp only [onOff_mk, onOff_fold, ite_onOff, ite_self, implies_true, onOff_alogWithdraw, onOff_commitEnd]
    | refine (onOff_each _ _ (fun a s => ?_) _).trans ?_
    | split)

theorem onOff_withdrawStart (m st order : Nat) (s : State) : (withdrawStart m st order s).onOff = s.onOff := by
  unfold withdrawStart
  repeat' (first
    | with_reducible rfl
    | simp only [onOff_mk, onOff_fold, ite_onOff, ite_self, implies_true, onOff_alogWithdraw, onOff_commitEnd]
    | refine (onOff_each _ _ (fun a s => ?_) _).trans ?_
    | split)

theorem onOff_withdrawMargin (m : MOp) (s : State) : (withdrawMargin m s).onOff = s.onOff := by
  unfold withdrawMargin
  repeat' (first
    | with_reducible rfl
    | simp only [onOff_mk, onOff_fold, ite_onOff, ite_self, implies_true, onOff_alogWithdraw, onOff_commitEnd]
    | refine (onOff_each _ _ (fun a s => ?_) _).trans ?_
    | split)

theorem onOff_withdrawItem (it : Item) (s : State) : (withdrawItem it s).onOff = s.onOff := by
  unfold withdrawItem
  repeat' (first
    | with_reducible rfl
    | simp only [onOff_mk, onOff_fold, ite_onOff, ite_self, implies_true, onOff_withdrawEnable, onOff_withdrawStart]
    | refine (onOff_each _ _ (fun a s => ?_) _).trans ?_
    | split)

theorem onOff_withdrawCmd (c : RailCmd) (s : State) : (withdrawCmd c s).onOff = s.onOff := by
  unfold withdrawCmd
  repeat' (first
    | with_reducible rfl
    | simp only [onOff_mk, onOff_fold, ite_onOff, ite_self, implies_true, onOff_withdrawEnable, onOff_withdrawStart]
    | refine (onOff_each _ _ (fun a s => ?_) _).trans ?_
    | split)

theorem onOff_disown (n : Nat) (s : State) : (disown n s).onOff = s.onOff := by
  unfold disown
  repeat' (first
    | with_reducible rfl
    | simp only [onOff_mk, onOff_fold, ite_onOff, ite_self, implies_true, onOff_modStg, onOff_each,
        onOff_withdrawMargin]
    | refine (onOff_each _ _ (fun a s => ?_) _).trans ?_
    | split)

theorem onOff_stopCmds (n : Nat) (s : State) : (stopCmds n s).onOff = s.onOff := by
  unfold stopCmds
  repeat' (first
    | with_reducible rfl
    | simp only [onOff_mk, onOff_fold, ite_onOff, ite_self, implies_true, onOff_each, onOff_withdrawCmd]
    | refine (onOff_each _ _ (fun a s => ?_) _).trans ?_
    | split)

theorem onOff_progEnd (n status step : Nat) (s : State) : (progEnd n status step s).onOff = s.onOff := by
  unfold progEnd
  repeat' (first
    | with_reducible rfl
    | simp only [onOff_mk, onOff_fold, ite_onOff, ite_self, implies_true, onOff_modProg, onOff_disown, onOff_each,
        onOff_stopCmds, onOff_withdrawItem]
    | refine (onOff_each _ _ (fun a s => ?_) _).trans ?_
    | split)

theorem onOff_fromMirror (a : Nat) (s : State) : (fromMirror a s).onOff = s.onOff := by
  unfold fromMirror
  repeat' (first
    | with_reducible rfl
    | simp only [onOff_mk, onOff_fold, ite_onOff, ite_self, implies_true]
    | refine (onOff_each _ _ (fun a s => ?_) _).trans ?_
    | split)

theorem onOff_readTable (a : Nat) (s : State) : (readTable a s).2.onOff = s.onOff := by
  unfold readTable
  repeat' (first
    | with_reducible rfl
    | simp only [onOff_mk, onOff_fold, ite_onOff, ite_self, implies_true, onOff_fromMirror, onOff_readWord,
        onOff_wcWritten]
    | refine (onOff_each _ _ (fun a s => ?_) _).trans ?_
    | split)

theorem onOff_readWords (l : List Nat) (s : State) : (readWords l s).2.onOff = s.onOff := by
  induction l generalizing s with
  | nil => rfl
  | cons a l ih =>
    unfold readWords
    repeat' (first
      | with_reducible rfl
      | simp only [onOff_mk, onOff_fold, ite_onOff, ite_self, implies_true, ih, onOff_readTable]
      | refine (onOff_each _ _ (fun a s => ?_) _).trans ?_
      | split)

theorem onOff_fetchAt (n old i : Nat) (s : State) : (fetchAt n old i s).onOff = s.onOff := by
  unfold fetchAt
  repeat' (first
    | with_reducible rfl
    | simp only [onOff_mk, onOff_fold, ite_onOff, ite_self, implies_true, onOff_modProg, onOff_progEnd, onOff_readWords]
    | refine (onOff_each _ _ (fun a s => ?_) _).trans ?_
    | split)

theorem onOff_progLaunch (n : Nat) (s : State) : (progLaunch n s).onOff = s.onOff := by
  unfold progLaunch
  repeat' (first
    | with_reducible rfl
    | simp only [onOff_mk, onOff_fold, ite_onOff, ite_self, implies_true, onOff_modProg, onOff_fetchAt]
    | refine (onOff_each _ _ (fun a s => ?_) _).trans ?_
    | split)

theorem onOff_launchOnSet (s : State) : (launchOnSet s).onOff = s.onOff := by
  unfold launchOnSet
  repeat' (first
    | with_reducible rfl
    | simp only [onOff_mk, onOff_fold, ite_onOff, ite_self, implies_true, onOff_each, onOff_progLaunch]
    | refine (onOff_each _ _ (fun a s => ?_) _).trans ?_
    | split)

theorem onOff_groupRestartNow (n : Nat) (s : State) : (groupRestartNow n s).onOff = s.onOff := by
  unfold groupRestartNow
  repeat' (first
    | with_reducible rfl
    | simp only [onOff_mk, onOff_fold, ite_onOff, ite_self, implies_true, onOff_modGrp, onOff_jInternal,
        onOff_progLaunch]
    | refine (onOff_each _ _ (fun a s => ?_) _).trans ?_
    | split)

theorem onOff_groupPolicy (n : Nat) (s : State) : (groupPolicy n s).onOff = s.onOff := by
  unfold groupPolicy
  repeat' (first
    | with_reducible rfl
    | simp only [onOff_mk, onOff_fold, ite_onOff, ite_self, implies_true, onOff_modGrp, onOff_groupRestartNow,
        onOff_raise]
    | refine (onOff_each _ _ (fun a s => ?_) _).trans ?_
    | split)


end Sys2Proof.Machine
end

