-- ==== Sys2Proof/Laws/FramePins.lean ====
section
/-! SUPPORT. FramePins.lean: entering a state, EN commands and HIZ leave these parts of the state alone. -/

set_option linter.all false
set_option linter.unusedSimpArgs false
set_option linter.unreachableTactic false
set_option linter.unusedTactic false
namespace Sys2Proof.Machine

/-- entering a state, EN commands and HIZ leave these parts of the state alone. -/
def State.keepPins (s : State) :=
  (s.pending, s.clk, s.engs, s.ovrStat, s.ovrNow, s.wc, s.evt, s.recd, s.bar0, s.cfg, s.setup, s.coef, s.banks, s.watches, s.off, s.flt, s.dmp, s.shr, s.inl, s.cnv, s.stgs, s.phases, s.sca, s.pair, s.nv, s.fw, s.pwr, s.free, s.out)

theorem keepPins_mk (a b c d e f g h i j k l m n o p q r u v w x y z a1 b1 c1 d1 e1 f1 g1 h1 i1 j1 k1 l1) :
    State.keepPins (State.mk a b c d e f g h i j k l m n o p q r u v w x y z a1 b1 c1 d1 e1 f1 g1 h1 i1 j1 k1 l1) =
      (a, b, c, d, e, f, g, j, k, l, m, n, p, u, w, x, z, a1, b1, c1, d1, e1, f1, g1, h1, i1, j1, k1, l1) := rfl

theorem keepPins_fold (s : State) : (s.pending, s.clk, s.engs, s.ovrStat, s.ovrNow, s.wc, s.evt, s.recd, s.bar0, s.cfg, s.setup, s.coef, s.banks, s.watches, s.off, s.flt, s.dmp, s.shr, s.inl, s.cnv, s.stgs, s.phases, s.sca, s.pair, s.nv, s.fw, s.pwr, s.free, s.out) = s.keepPins := rfl

theorem ite_keepPins (c : Prop) [Decidable c] (a b : State) :
    State.keepPins (if c then a else b) = if c then a.keepPins else b.keepPins := by split <;> rfl

theorem keepPins_each {α : Type} (l : List α) (f : α → State → State) (hf : ∀ a s, (f a s).keepPins = s.keepPins) (s : State) :
    (each l f s).keepPins = s.keepPins := by
  unfold each
  induction l generalizing s with
  | nil => rfl
  | cons a l ih => exact (ih _).trans (hf a s)

theorem keepPins_foldl {α β : Type} (g : β → State) (f : β → α → β) (hf : ∀ b a, (g (f b a)).keepPins = (g b).keepPins)
    (l : List α) (b : β) : (g (l.foldl f b)).keepPins = (g b).keepPins := by
  induction l generalizing b with
  | nil => rfl
  | cons a l ih => exact (ih _).trans (hf b a)

theorem keepPins_modRail (i : Nat) (f : Rail → Rail) (s : State) : (State.modRail i f s).keepPins = s.keepPins := by
  unfold State.modRail
  repeat' (first
    | with_reducible rfl
    | simp only [keepPins_mk, keepPins_fold, ite_keepPins, ite_self, implies_true]
    | refine (keepPins_each _ _ (fun a s => ?_) _).trans ?_
    | split)

theorem keepPins_modMdac (i : Nat) (f : Mdac → Mdac) (s : State) : (State.modMdac i f s).keepPins = s.keepPins := by
  unfold State.modMdac
  repeat' (first
    | with_reducible rfl
    | simp only [keepPins_mk, keepPins_fold, ite_keepPins, ite_self, implies_true]
    | refine (keepPins_each _ _ (fun a s => ?_) _).trans ?_
    | split)

theorem keepPins_modProg (i : Nat) (f : Prog → Prog) (s : State) : (State.modProg i f s).keepPins = s.keepPins := by
  unfold State.modProg
  repeat' (first
    | with_reducible rfl
    | simp only [keepPins_mk, keepPins_fold, ite_keepPins, ite_self, implies_true]
    | refine (keepPins_each _ _ (fun a s => ?_) _).trans ?_
    | split)

theorem keepPins_finishAt (d q status result : Nat) (s : State) : (finishAt d q status result s).keepPins = s.keepPins := by
  unfold finishAt
  repeat' (first
    | with_reducible rfl
    | simp only [keepPins_mk, keepPins_fold, ite_keepPins, ite_self, implies_true]
    | refine (keepPins_each _ _ (fun a s => ?_) _).trans ?_
    | split)

theorem keepPins_finish (q status result : Nat) (s : State) : (finish q status result s).keepPins = s.keepPins := by
  unfold finish
  repeat' (first
    | with_reducible rfl
    | simp only [keepPins_mk, keepPins_fold, ite_keepPins, ite_self, implies_true, keepPins_finishAt]
    | refine (keepPins_each _ _ (fun a s => ?_) _).trans ?_
    | split)

theorem keepPins_commitEnd (k : CKey) (s : State) : (commitEnd k s).keepPins = s.keepPins := by
  unfold commitEnd
  repeat' (first
    | with_reducible rfl
    | simp only [keepPins_mk, keepPins_fold, ite_keepPins, ite_self, implies_true]
    | refine (keepPins_each _ _ (fun a s => ?_) _).trans ?_
    | split)

theorem keepPins_alogAdd (e : ALog) (s : State) : (alogAdd e s).keepPins = s.keepPins := by
  unfold alogAdd
  repeat' (first
    | with_reducible rfl
    | simp only [keepPins_mk, keepPins_fold, ite_keepPins, ite_self, implies_true]
    | refine (keepPins_each _ _ (fun a s => ?_) _).trans ?_
    | split)

theorem keepPins_alogWithdraw (id kind order prio inrush steady : Nat) (s : State) : (alogWithdraw id kind order prio inrush
    steady s).keepPins = s.keepPins := by
  unfold alogWithdraw
  repeat' (first
    | with_reducible rfl
    | simp only [keepPins_mk, keepPins_fold, ite_keepPins, ite_self, implies_true, keepPins_alogAdd]
    | refine (keepPins_each _ _ (fun a s => ?_) _).trans ?_
    | split)

theorem keepPins_pmbPush (m : Nat) (j : PmbJob) (s : State) : (pmbPush m j s).keepPins = s.keepPins := by
  unfold pmbPush
  repeat' (first
    | with_reducible rfl
    | simp only [keepPins_mk, keepPins_fold, ite_keepPins, ite_self, implies_true]
    | refine (keepPins_each _ _ (fun a s => ?_) _).trans ?_
    | split)

theorem keepPins_itemDone (n code : Nat) (s : State) : (itemDone n code s).keepPins = s.keepPins := by
  unfold itemDone
  repeat' (first
    | with_reducible rfl
    | simp only [keepPins_mk, keepPins_fold, ite_keepPins, ite_self, implies_true, keepPins_modProg]
    | refine (keepPins_each _ _ (fun a s => ?_) _).trans ?_
    | split)

theorem keepPins_marginTell (o : Owner) (code status : Nat) (s : State) : (marginTell o code status s).keepPins = s.keepPins := by
  unfold marginTell
  repeat' (first
    | with_reducible rfl
    | simp only [keepPins_mk, keepPins_fold, ite_keepPins, ite_self, implies_true, keepPins_finish, keepPins_itemDone]
    | refine (keepPins_each _ _ (fun a s => ?_) _).trans ?_
    | split)

theorem keepPins_mdacTarget (k : Nat) (t : Int) (s : State) : (mdacTarget k t s).keepPins = s.keepPins := by
  unfold mdacTarget
  repeat' (first
    | with_reducible rfl
    | simp only [keepPins_mk, keepPins_fold, ite_keepPins, ite_self, implies_true, keepPins_modMdac]
    | refine (keepPins_each _ _ (fun a s => ?_) _).trans ?_
    | split)

theorem keepPins_pmbNominal (i : Nat) (s : State) : (pmbNominal i s).keepPins = s.keepPins := by
  unfold pmbNominal
  repeat' (first
    | with_reducible rfl
    | simp only [keepPins_mk, keepPins_fold, ite_keepPins, ite_self, implies_true, keepPins_modRail, keepPins_pmbPush]
    | refine (keepPins_each _ _ (fun a s => ?_) _).trans ?_
    | split)

theorem keepPins_marginNominal (i : Nat) (s : State) : (marginNominal i s).keepPins = s.keepPins := by
  unfold marginNominal
  repeat' (first
    | with_reducible rfl
    | simp only [keepPins_mk, keepPins_fold, ite_keepPins, ite_self, implies_true, keepPins_modRail, keepPins_commitEnd,
        keepPins_mdacTarget, keepPins_pmbNominal]
    | refine (keepPins_each _ _ (fun a s => ?_) _).trans ?_
    | split)

theorem keepPins_marginLeave (i : Nat) (s : State) : (marginLeave i s).keepPins = s.keepPins := by
  unfold marginLeave
  repeat' (first
    | with_reducible rfl
    | simp only [keepPins_mk, keepPins_fold, ite_keepPins, ite_self, implies_true, keepPins_each, keepPins_marginNominal,
        keepPins_marginTell]
    | refine (keepPins_each _ _ (fun a s => ?_) _).trans ?_
    | split)

theorem keepPins_cancelRetry (i : Nat) (s : State) : (cancelRetry i s).keepPins = s.keepPins := by
  unfold cancelRetry
  repeat' (first
    | with_reducible rfl
    | simp only [keepPins_mk, keepPins_fold, ite_keepPins, ite_self, implies_true, keepPins_modRail, keepPins_alogWithdraw,
        keepPins_commitEnd]
    | refine (keepPins_each _ _ (fun a s => ?_) _).trans ?_
    | split)

theorem keepPins_resumeDrop (i : Nat) (s : State) : (resumeDrop i s).keepPins = s.keepPins := by
  unfold resumeDrop
  repeat' (first
    | with_reducible rfl
    | simp only [keepPins_mk, keepPins_fold, ite_keepPins, ite_self, implies_true, keepPins_modRail, keepPins_commitEnd]
    | refine (keepPins_each _ _ (fun a s => ?_) _).trans ?_
    | split)

theorem keepPins_setRState (i : Nat) (st : RState) (s : State) : (setRState i st s).keepPins = s.keepPins := by
  unfold setRState
  repeat' (first
    | with_reducible rfl
    | simp only [keepPins_mk, keepPins_fold, ite_keepPins, ite_self, implies_true, keepPins_modRail, keepPins_cancelRetry,
        keepPins_commitEnd, keepPins_marginLeave, keepPins_resumeDrop]
    | refine (keepPins_each _ _ (fun a s => ?_) _).trans ?_
    | split)

theorem keepPins_driveEn (i : Nat) (b : Bool) (s : State) : (driveEn i b s).keepPins = s.keepPins := by
  unfold driveEn
  repeat' (first
    | with_reducible rfl
    | simp only [keepPins_mk, keepPins_fold, ite_keepPins, ite_self, implies_true, keepPins_modRail]
    | refine (keepPins_each _ _ (fun a s => ?_) _).trans ?_
    | split)

theorem keepPins_setEn (i : Nat) (b : Bool) (s : State) : (setEn i b s).keepPins = s.keepPins := by
  unfold setEn
  repeat' (first
    | with_reducible rfl
    | simp only [keepPins_mk, keepPins_fold, ite_keepPins, ite_self, implies_true, keepPins_modRail, keepPins_driveEn]
    | refine (keepPins_each _ _ (fun a s => ?_) _).trans ?_
    | split)

theorem keepPins_leaveHiz (i : Nat) (s : State) : (leaveHiz i s).keepPins = s.keepPins := by
  unfold leaveHiz
  repeat' (first
    | with_reducible rfl
    | simp only [keepPins_mk, keepPins_fold, ite_keepPins, ite_self, implies_true, keepPins_modRail, keepPins_setEn, keepPins_setRState]
    | refine (keepPins_each _ _ (fun a s => ?_) _).trans ?_
    | split)

theorem keepPins_foldEnd (i : Nat) (s : State) : (foldEnd i s).keepPins = s.keepPins := by
  unfold foldEnd
  repeat' (first
    | with_reducible rfl
    | simp only [keepPins_mk, keepPins_fold, ite_keepPins, ite_self, implies_true, keepPins_modRail, keepPins_leaveHiz]
    | refine (keepPins_each _ _ (fun a s => ?_) _).trans ?_
    | split)

theorem keepPins_releaseRail (i : Nat) (s : State) : (releaseRail i s).keepPins = s.keepPins := by
  unfold releaseRail
  repeat' (first
    | with_reducible rfl
    | simp only [keepPins_mk, keepPins_fold, ite_keepPins, ite_self, implies_true, keepPins_foldEnd, keepPins_setEn, keepPins_setRState]
    | refine (keepPins_each _ _ (fun a s => ?_) _).trans ?_
    | split)

theorem keepPins_toHiz (i : Nat) (s : State) : (toHiz i s).keepPins = s.keepPins := by
  unfold toHiz
  repeat' (first
    | with_reducible rfl
    | simp only [keepPins_mk, keepPins_fold, ite_keepPins, ite_self, implies_true, keepPins_modRail, keepPins_setRState]
    | refine (keepPins_each _ _ (fun a s => ?_) _).trans ?_
    | split)

theorem keepPins_startRail (i : Nat) (f : Fig) (s : State) : (startRail i f s).keepPins = s.keepPins := by
  unfold startRail
  repeat' (first
    | with_reducible rfl
    | simp only [keepPins_mk, keepPins_fold, ite_keepPins, ite_self, implies_true, keepPins_modRail, keepPins_setEn, keepPins_setRState]
    | refine (keepPins_each _ _ (fun a s => ?_) _).trans ?_
    | split)


end Sys2Proof.Machine
end

