-- ==== Sys2Proof/Laws/FramePower.lean ====
section
/-! SUPPORT. FramePower.lean: the operations behind the power family of commands leave the state outside that family's
own parts as it is, one lemma per operation (the frame statements go through these). -/

set_option linter.all false
set_option linter.unusedSimpArgs false
set_option linter.unreachableTactic false
set_option linter.unusedTactic false
namespace Sys2Proof.Machine

/-- What no command of this family touches. -/
def State.keepPower (s : State) :=
  (s.pending, s.clk, s.ovrStat, s.ovrNow, s.recd.noCapt, s.bar0, s.cfg, s.setup, s.coef, s.watches, s.dmp, s.shr, s.cnv, s.nv.noRevertdue, s.fw, s.free)

theorem keepPower_mk (a b c d e f g h i j k l m n o p q r u v w x y z a1 b1 c1 d1 e1 f1 g1 h1 i1 j1 k1 l1) :
    State.keepPower (State.mk a b c d e f g h i j k l m n o p q r u v w x y z a1 b1 c1 d1 e1 f1 g1 h1 i1 j1 k1 l1) =
      (a, b, d, e, j.noCapt, k, l, m, n, u, z, a1, c1, h1.noRevertdue, i1, k1) := rfl

theorem keepPower_fold (s : State) : (s.pending, s.clk, s.ovrStat, s.ovrNow, s.recd.noCapt, s.bar0, s.cfg, s.setup, s.coef, s.watches, s.dmp, s.shr, s.cnv, s.nv.noRevertdue, s.fw, s.free) = s.keepPower := rfl

theorem ite_keepPower (c : Prop) [Decidable c] (a b : State) :
    State.keepPower (if c then a else b) = if c then a.keepPower else b.keepPower := by split <;> rfl

theorem keepPower_each {α : Type} (l : List α) (f : α → State → State) (hf : ∀ a s, (f a s).keepPower = s.keepPower) (s : State) :
    (each l f s).keepPower = s.keepPower := by
  unfold each
  induction l generalizing s with
  | nil => rfl
  | cons a l ih => exact (ih _).trans (hf a s)

theorem keepPower_foldl {α β : Type} (g : β → State) (f : β → α → β) (hf : ∀ b a, (g (f b a)).keepPower = (g b).keepPower)
    (l : List α) (b : β) : (g (l.foldl f b)).keepPower = (g b).keepPower := by
  induction l generalizing b with
  | nil => rfl
  | cons a l ih => exact (ih _).trans (hf b a)

theorem keepPower_modEng (i : Nat) (f : Eng → Eng) (s : State) : (State.modEng i f s).keepPower = s.keepPower := by
  unfold State.modEng
  repeat' (first
    | with_reducible rfl
    | simp only [keepPower_mk, keepPower_fold, ite_keepPower, ite_self, implies_true]
    | refine (keepPower_each _ _ (fun a s => ?_) _).trans ?_
    | split)

theorem keepPower_modRail (i : Nat) (f : Rail → Rail) (s : State) : (State.modRail i f s).keepPower = s.keepPower := by
  unfold State.modRail
  repeat' (first
    | with_reducible rfl
    | simp only [keepPower_mk, keepPower_fold, ite_keepPower, ite_self, implies_true]
    | refine (keepPower_each _ _ (fun a s => ?_) _).trans ?_
    | split)

theorem keepPower_modBank (i : Nat) (f : Bank → Bank) (s : State) : (State.modBank i f s).keepPower = s.keepPower := by
  unfold State.modBank
  repeat' (first
    | with_reducible rfl
    | simp only [keepPower_mk, keepPower_fold, ite_keepPower, ite_self, implies_true]
    | refine (keepPower_each _ _ (fun a s => ?_) _).trans ?_
    | split)

theorem keepPower_modMdac (i : Nat) (f : Mdac → Mdac) (s : State) : (State.modMdac i f s).keepPower = s.keepPower := by
  unfold State.modMdac
  repeat' (first
    | with_reducible rfl
    | simp only [keepPower_mk, keepPower_fold, ite_keepPower, ite_self, implies_true]
    | refine (keepPower_each _ _ (fun a s => ?_) _).trans ?_
    | split)

theorem keepPower_modStg (i : Nat) (f : Stg → Stg) (s : State) : (State.modStg i f s).keepPower = s.keepPower := by
  unfold State.modStg
  repeat' (first
    | with_reducible rfl
    | simp only [keepPower_mk, keepPower_fold, ite_keepPower, ite_self, implies_true]
    | refine (keepPower_each _ _ (fun a s => ?_) _).trans ?_
    | split)

theorem keepPower_modPhase (i : Nat) (f : Phase → Phase) (s : State) : (State.modPhase i f s).keepPower = s.keepPower := by
  unfold State.modPhase
  repeat' (first
    | with_reducible rfl
    | simp only [keepPower_mk, keepPower_fold, ite_keepPower, ite_self, implies_true]
    | refine (keepPower_each _ _ (fun a s => ?_) _).trans ?_
    | split)

theorem keepPower_modProg (i : Nat) (f : Prog → Prog) (s : State) : (State.modProg i f s).keepPower = s.keepPower := by
  unfold State.modProg
  repeat' (first
    | with_reducible rfl
    | simp only [keepPower_mk, keepPower_fold, ite_keepPower, ite_self, implies_true]
    | refine (keepPower_each _ _ (fun a s => ?_) _).trans ?_
    | split)

theorem keepPower_modGrp (i : Nat) (f : Grp → Grp) (s : State) : (State.modGrp i f s).keepPower = s.keepPower := by
  unfold State.modGrp
  repeat' (first
    | with_reducible rfl
    | simp only [keepPower_mk, keepPower_fold, ite_keepPower, ite_self, implies_true]
    | refine (keepPower_each _ _ (fun a s => ?_) _).trans ?_
    | split)

theorem keepPower_modPort (i : Nat) (f : Port → Port) (s : State) : (State.modPort i f s).keepPower = s.keepPower := by
  unfold State.modPort
  repeat' (first
    | with_reducible rfl
    | simp only [keepPower_mk, keepPower_fold, ite_keepPower, ite_self, implies_true]
    | refine (keepPower_each _ _ (fun a s => ?_) _).trans ?_
    | split)

theorem keepPower_emit (o : Out) (s : State) : (emit o s).keepPower = s.keepPower := by
  unfold emit
  repeat' (first
    | with_reducible rfl
    | simp only [keepPower_mk, keepPower_fold, ite_keepPower, ite_self, implies_true]
    | refine (keepPower_each _ _ (fun a s => ?_) _).trans ?_
    | split)

theorem keepPower_ashAdd (n : Nat) (s : State) : (ashAdd n s).keepPower = s.keepPower := by
  unfold ashAdd
  repeat' (first
    | with_reducible rfl
    | simp only [keepPower_mk, keepPower_fold, ite_keepPower, ite_self, implies_true]
    | refine (keepPower_each _ _ (fun a s => ?_) _).trans ?_
    | split
    | rfl)

theorem keepPower_capture (o : Occ) (s : State) : (capture o s).keepPower = s.keepPower := by
  unfold capture
  repeat' (first
    | with_reducible rfl
    | simp only [keepPower_mk, keepPower_fold, ite_keepPower, ite_self, implies_true, keepPower_ashAdd]
    | refine (keepPower_each _ _ (fun a s => ?_) _).trans ?_
    | split
    | rfl)

theorem keepPower_raiseCore (o : Occ) (s : State) : (raiseCore o s).keepPower = s.keepPower := by
  unfold raiseCore
  repeat' (first
    | with_reducible rfl
    | simp only [keepPower_mk, keepPower_fold, ite_keepPower, ite_self, implies_true, keepPower_capture]
    | refine (keepPower_each _ _ (fun a s => ?_) _).trans ?_
    | split
    | rfl)

theorem keepPower_ashEvent (old : Nat) (s : State) : (ashEvent old s).keepPower = s.keepPower := by
  unfold ashEvent
  repeat' (first
    | with_reducible rfl
    | simp only [keepPower_mk, keepPower_fold, ite_keepPower, ite_self, implies_true, keepPower_raiseCore]
    | refine (keepPower_each _ _ (fun a s => ?_) _).trans ?_
    | split)

theorem keepPower_raiseSev (src sev : Nat) (ts : Ts) (d : BitVec 128) (s : State) : (raiseSev src sev ts d s).keepPower = s.keepPower :=
    by
  unfold raiseSev
  repeat' (first
    | with_reducible rfl
    | simp only [keepPower_mk, keepPower_fold, ite_keepPower, ite_self, implies_true, keepPower_ashEvent, keepPower_raiseCore]
    | refine (keepPower_each _ _ (fun a s => ?_) _).trans ?_
    | split)

theorem keepPower_raise (src : Nat) (ts : Ts) (d : BitVec 128) (s : State) : (raise src ts d s).keepPower = s.keepPower := by
  unfold raise
  repeat' (first
    | with_reducible rfl
    | simp only [keepPower_mk, keepPower_fold, ite_keepPower, ite_self, implies_true, keepPower_raiseSev]
    | refine (keepPower_each _ _ (fun a s => ?_) _).trans ?_
    | split)

theorem keepPower_wcWritten (struct addr : Nat) (s : State) : (wcWritten struct addr s).keepPower = s.keepPower := by
  unfold wcWritten
  repeat' (first
    | with_reducible rfl
    | simp only [keepPower_mk, keepPower_fold, ite_keepPower, ite_self, implies_true]
    | refine (keepPower_each _ _ (fun a s => ?_) _).trans ?_
    | split)

theorem keepPower_wordErr (ts : Ts) (struct addr : Nat) (o : WcOut) (s : State) : (wordErr ts struct addr o s).keepPower = s.keepPower
    := by
  unfold wordErr
  repeat' (first
    | with_reducible rfl
    | simp only [keepPower_mk, keepPower_fold, ite_keepPower, ite_self, implies_true]
    | refine (keepPower_each _ _ (fun a s => ?_) _).trans ?_
    | split)

theorem keepPower_readWord (ts : Ts) (struct addr : Nat) (s : State) : (readWord ts struct addr s).2.keepPower = s.keepPower := by
  unfold readWord
  repeat' (first
    | with_reducible rfl
    | simp only [keepPower_mk, keepPower_fold, ite_keepPower, ite_self, implies_true, keepPower_wcWritten, keepPower_wordErr]
    | refine (keepPower_each _ _ (fun a s => ?_) _).trans ?_
    | split)

theorem keepPower_linkFrameOf (kind : Nat) (dst : Option Nat) (v : Nat) (s : State) : (linkFrameOf kind dst v s).2.keepPower =
    s.keepPower := by
  unfold linkFrameOf
  repeat' (first
    | with_reducible rfl
    | simp only [keepPower_mk, keepPower_fold, ite_keepPower, ite_self, implies_true]
    | refine (keepPower_each _ _ (fun a s => ?_) _).trans ?_
    | split)

theorem keepPower_queueFrame (p : Nat) (f : LinkTx) (s : State) : (queueFrame p f s).keepPower = s.keepPower := by
  unfold queueFrame
  repeat' (first
    | with_reducible rfl
    | simp only [keepPower_mk, keepPower_fold, ite_keepPower, ite_self, implies_true, keepPower_modPort]
    | refine (keepPower_each _ _ (fun a s => ?_) _).trans ?_
    | split)

theorem keepPower_sendEntry (e : JEntry) (s : State) : (sendEntry e s).keepPower = s.keepPower := by
  unfold sendEntry
  repeat' (first
    | with_reducible rfl
    | simp only [keepPower_mk, keepPower_fold, ite_keepPower, ite_self, implies_true, keepPower_linkFrameOf, keepPower_queueFrame]
    | refine (keepPower_each _ _ (fun a s => ?_) _).trans ?_
    | split)

theorem keepPower_pairJournal (e : JEntry) (s : State) : (pairJournal e s).keepPower = s.keepPower := by
  unfold pairJournal
  repeat' (first
    | with_reducible rfl
    | simp only [keepPower_mk, keepPower_fold, ite_keepPower, ite_self, implies_true, keepPower_sendEntry]
    | refine (keepPower_each _ _ (fun a s => ?_) _).trans ?_
    | split)

theorem keepPower_jAppend (e : JEntry) (s : State) : (jAppend e s).keepPower = s.keepPower := by
  unfold jAppend
  repeat' (first
    | with_reducible rfl
    | simp only [keepPower_mk, keepPower_fold, ite_keepPower, ite_self, implies_true, keepPower_pairJournal, keepPower_wcWritten]
    | refine (keepPower_each _ _ (fun a s => ?_) _).trans ?_
    | split)

theorem keepPower_jInternal (op src digest result : Nat) (persist : Bool) (s : State) : (jInternal op src digest result persist
    s).keepPower = s.keepPower := by
  unfold jInternal
  repeat' (first
    | with_reducible rfl
    | simp only [keepPower_mk, keepPower_fold, ite_keepPower, ite_self, implies_true, keepPower_jAppend]
    | refine (keepPower_each _ _ (fun a s => ?_) _).trans ?_
    | split)

theorem keepPower_finishAt (d q status result : Nat) (s : State) : (finishAt d q status result s).keepPower = s.keepPower := by
  unfold finishAt
  repeat' (first
    | with_reducible rfl
    | simp only [keepPower_mk, keepPower_fold, ite_keepPower, ite_self, implies_true]
    | refine (keepPower_each _ _ (fun a s => ?_) _).trans ?_
    | split)

theorem keepPower_finish (q status result : Nat) (s : State) : (finish q status result s).keepPower = s.keepPower := by
  unfold finish
  repeat' (first
    | with_reducible rfl
    | simp only [keepPower_mk, keepPower_fold, ite_keepPower, ite_self, implies_true, keepPower_finishAt]
    | refine (keepPower_each _ _ (fun a s => ?_) _).trans ?_
    | split)

theorem keepPower_finishAll (w : Wait → Bool) (status result : Nat) (s : State) : (finishAll w status result s).keepPower = s.keepPower
    := by
  unfold finishAll
  repeat' (first
    | with_reducible rfl
    | simp only [keepPower_mk, keepPower_fold, ite_keepPower, ite_self, implies_true, keepPower_each, keepPower_finish]
    | refine (keepPower_each _ _ (fun a s => ?_) _).trans ?_
    | split)

theorem keepPower_commitEnd (k : CKey) (s : State) : (commitEnd k s).keepPower = s.keepPower := by
  unfold commitEnd
  repeat' (first
    | with_reducible rfl
    | simp only [keepPower_mk, keepPower_fold, ite_keepPower, ite_self, implies_true]
    | refine (keepPower_each _ _ (fun a s => ?_) _).trans ?_
    | split)

theorem keepPower_alogAdd (e : ALog) (s : State) : (alogAdd e s).keepPower = s.keepPower := by
  unfold alogAdd
  repeat' (first
    | with_reducible rfl
    | simp only [keepPower_mk, keepPower_fold, ite_keepPower, ite_self, implies_true]
    | refine (keepPower_each _ _ (fun a s => ?_) _).trans ?_
    | split)

theorem keepPower_alogWithdraw (id kind order prio inrush steady : Nat) (s : State) : (alogWithdraw id kind order prio inrush
    steady s).keepPower = s.keepPower := by
  unfold alogWithdraw
  repeat' (first
    | with_reducible rfl
    | simp only [keepPower_mk, keepPower_fold, ite_keepPower, ite_self, implies_true, keepPower_alogAdd]
    | refine (keepPower_each _ _ (fun a s => ?_) _).trans ?_
    | split)

theorem keepPower_pmbPush (m : Nat) (j : PmbJob) (s : State) : (pmbPush m j s).keepPower = s.keepPower := by
  unfold pmbPush
  repeat' (first
    | with_reducible rfl
    | simp only [keepPower_mk, keepPower_fold, ite_keepPower, ite_self, implies_true]
    | refine (keepPower_each _ _ (fun a s => ?_) _).trans ?_
    | split)

theorem keepPower_itemDone (n code : Nat) (s : State) : (itemDone n code s).keepPower = s.keepPower := by
  unfold itemDone
  repeat' (first
    | with_reducible rfl
    | simp only [keepPower_mk, keepPower_fold, ite_keepPower, ite_self, implies_true, keepPower_modProg]
    | refine (keepPower_each _ _ (fun a s => ?_) _).trans ?_
    | split)

theorem keepPower_marginTell (o : Owner) (code status : Nat) (s : State) : (marginTell o code status s).keepPower = s.keepPower := by
  unfold marginTell
  repeat' (first
    | with_reducible rfl
    | simp only [keepPower_mk, keepPower_fold, ite_keepPower, ite_self, implies_true, keepPower_finish, keepPower_itemDone]
    | refine (keepPower_each _ _ (fun a s => ?_) _).trans ?_
    | split)

theorem keepPower_mdacTarget (k : Nat) (t : Int) (s : State) : (mdacTarget k t s).keepPower = s.keepPower := by
  unfold mdacTarget
  repeat' (first
    | with_reducible rfl
    | simp only [keepPower_mk, keepPower_fold, ite_keepPower, ite_self, implies_true, keepPower_modMdac]
    | refine (keepPower_each _ _ (fun a s => ?_) _).trans ?_
    | split)

theorem keepPower_pmbNominal (i : Nat) (s : State) : (pmbNominal i s).keepPower = s.keepPower := by
  unfold pmbNominal
  repeat' (first
    | with_reducible rfl
    | simp only [keepPower_mk, keepPower_fold, ite_keepPower, ite_self, implies_true, keepPower_modRail, keepPower_pmbPush]
    | refine (keepPower_each _ _ (fun a s => ?_) _).trans ?_
    | split)

theorem keepPower_marginNominal (i : Nat) (s : State) : (marginNominal i s).keepPower = s.keepPower := by
  unfold marginNominal
  repeat' (first
    | with_reducible rfl
    | simp only [keepPower_mk, keepPower_fold, ite_keepPower, ite_self, implies_true, keepPower_modRail, keepPower_commitEnd,
        keepPower_mdacTarget, keepPower_pmbNominal]
    | refine (keepPower_each _ _ (fun a s => ?_) _).trans ?_
    | split)

theorem keepPower_marginLeave (i : Nat) (s : State) : (marginLeave i s).keepPower = s.keepPower := by
  unfold marginLeave
  repeat' (first
    | with_reducible rfl
    | simp only [keepPower_mk, keepPower_fold, ite_keepPower, ite_self, implies_true, keepPower_each, keepPower_marginNominal,
        keepPower_marginTell]
    | refine (keepPower_each _ _ (fun a s => ?_) _).trans ?_
    | split)

theorem keepPower_cancelRetry (i : Nat) (s : State) : (cancelRetry i s).keepPower = s.keepPower := by
  unfold cancelRetry
  repeat' (first
    | with_reducible rfl
    | simp only [keepPower_mk, keepPower_fold, ite_keepPower, ite_self, implies_true, keepPower_modRail, keepPower_alogWithdraw,
        keepPower_commitEnd]
    | refine (keepPower_each _ _ (fun a s => ?_) _).trans ?_
    | split)

theorem keepPower_resumeDrop (i : Nat) (s : State) : (resumeDrop i s).keepPower = s.keepPower := by
  unfold resumeDrop
  repeat' (first
    | with_reducible rfl
    | simp only [keepPower_mk, keepPower_fold, ite_keepPower, ite_self, implies_true, keepPower_modRail, keepPower_commitEnd]
    | refine (keepPower_each _ _ (fun a s => ?_) _).trans ?_
    | split)

theorem keepPower_setRState (i : Nat) (st : RState) (s : State) : (setRState i st s).keepPower = s.keepPower := by
  unfold setRState
  repeat' (first
    | with_reducible rfl
    | simp only [keepPower_mk, keepPower_fold, ite_keepPower, ite_self, implies_true, keepPower_modRail, keepPower_cancelRetry,
        keepPower_commitEnd, keepPower_marginLeave, keepPower_resumeDrop]
    | refine (keepPower_each _ _ (fun a s => ?_) _).trans ?_
    | split)

theorem keepPower_driveEn (i : Nat) (b : Bool) (s : State) : (driveEn i b s).keepPower = s.keepPower := by
  unfold driveEn
  repeat' (first
    | with_reducible rfl
    | simp only [keepPower_mk, keepPower_fold, ite_keepPower, ite_self, implies_true, keepPower_modRail]
    | refine (keepPower_each _ _ (fun a s => ?_) _).trans ?_
    | split)

theorem keepPower_setEn (i : Nat) (b : Bool) (s : State) : (setEn i b s).keepPower = s.keepPower := by
  unfold setEn
  repeat' (first
    | with_reducible rfl
    | simp only [keepPower_mk, keepPower_fold, ite_keepPower, ite_self, implies_true, keepPower_modRail, keepPower_driveEn]
    | refine (keepPower_each _ _ (fun a s => ?_) _).trans ?_
    | split)

theorem keepPower_leaveHiz (i : Nat) (s : State) : (leaveHiz i s).keepPower = s.keepPower := by
  unfold leaveHiz
  repeat' (first
    | with_reducible rfl
    | simp only [keepPower_mk, keepPower_fold, ite_keepPower, ite_self, implies_true, keepPower_modRail, keepPower_setEn, keepPower_setRState]
    | refine (keepPower_each _ _ (fun a s => ?_) _).trans ?_
    | split)

theorem keepPower_foldEnd (i : Nat) (s : State) : (foldEnd i s).keepPower = s.keepPower := by
  unfold foldEnd
  repeat' (first
    | with_reducible rfl
    | simp only [keepPower_mk, keepPower_fold, ite_keepPower, ite_self, implies_true, keepPower_modRail, keepPower_leaveHiz]
    | refine (keepPower_each _ _ (fun a s => ?_) _).trans ?_
    | split)

theorem keepPower_dropRail (i : Nat) (s : State) : (dropRail i s).keepPower = s.keepPower := by
  unfold dropRail
  repeat' (first
    | with_reducible rfl
    | simp only [keepPower_mk, keepPower_fold, ite_keepPower, ite_self, implies_true, keepPower_foldEnd, keepPower_setEn, keepPower_setRState]
    | refine (keepPower_each _ _ (fun a s => ?_) _).trans ?_
    | split)

theorem keepPower_releaseRail (i : Nat) (s : State) : (releaseRail i s).keepPower = s.keepPower := by
  unfold releaseRail
  repeat' (first
    | with_reducible rfl
    | simp only [keepPower_mk, keepPower_fold, ite_keepPower, ite_self, implies_true, keepPower_foldEnd, keepPower_setEn, keepPower_setRState]
    | refine (keepPower_each _ _ (fun a s => ?_) _).trans ?_
    | split)

theorem keepPower_toHiz (i : Nat) (s : State) : (toHiz i s).keepPower = s.keepPower := by
  unfold toHiz
  repeat' (first
    | with_reducible rfl
    | simp only [keepPower_mk, keepPower_fold, ite_keepPower, ite_self, implies_true, keepPower_modRail, keepPower_setRState]
    | refine (keepPower_each _ _ (fun a s => ?_) _).trans ?_
    | split)

theorem keepPower_detect (kind : Nat) (dir : Bool) (onset : Ts) (i : Nat) (s : State) : (detect kind dir onset i s).keepPower =
    s.keepPower := by
  unfold detect
  repeat' (first
    | with_reducible rfl
    | simp only [keepPower_mk, keepPower_fold, ite_keepPower, ite_self, implies_true, keepPower_modRail]
    | refine (keepPower_each _ _ (fun a s => ?_) _).trans ?_
    | split)

theorem keepPower_judgePg (i : Nat) (s : State) : (judgePg i s).keepPower = s.keepPower := by
  unfold judgePg
  repeat' (first
    | with_reducible rfl
    | simp only [keepPower_mk, keepPower_fold, ite_keepPower, ite_self, implies_true, keepPower_detect, keepPower_setRState]
    | refine (keepPower_each _ _ (fun a s => ?_) _).trans ?_
    | split)

theorem keepPower_judgeLate (i : Nat) (s : State) : (judgeLate i s).keepPower = s.keepPower := by
  unfold judgeLate
  repeat' (first
    | with_reducible rfl
    | simp only [keepPower_mk, keepPower_fold, ite_keepPower, ite_self, implies_true, keepPower_modRail, keepPower_detect]
    | refine (keepPower_each _ _ (fun a s => ?_) _).trans ?_
    | split)

theorem keepPower_assistResult (ilim level : Bool) (i : Nat) (s : State) : (assistResult ilim level i s).keepPower = s.keepPower := by
  unfold assistResult
  repeat' (first
    | with_reducible rfl
    | simp only [keepPower_mk, keepPower_fold, ite_keepPower, ite_self, implies_true, keepPower_modRail, keepPower_detect]
    | refine (keepPower_each _ _ (fun a s => ?_) _).trans ?_
    | split)

theorem keepPower_foldBack (i : Nat) (s : State) : (foldBack i s).keepPower = s.keepPower := by
  unfold foldBack
  repeat' (first
    | with_reducible rfl
    | simp only [keepPower_mk, keepPower_fold, ite_keepPower, ite_self, implies_true, keepPower_modRail, keepPower_raise, keepPower_toHiz]
    | refine (keepPower_each _ _ (fun a s => ?_) _).trans ?_
    | split)

theorem keepPower_owCount (fail : Bool) (i : Nat) (s : State) : (owCount fail i s).keepPower = s.keepPower := by
  unfold owCount
  repeat' (first
    | with_reducible rfl
    | simp only [keepPower_mk, keepPower_fold, ite_keepPower, ite_self, implies_true, keepPower_modBank, keepPower_modRail, keepPower_detect]
    | refine (keepPower_each _ _ (fun a s => ?_) _).trans ?_
    | split)

theorem keepPower_mdacsOff (b : Nat) (s : State) : (mdacsOff b s).keepPower = s.keepPower := by
  unfold mdacsOff
  repeat' (first
    | with_reducible rfl
    | simp only [keepPower_mk, keepPower_fold, ite_keepPower, ite_self, implies_true, keepPower_modMdac, keepPower_each]
    | refine (keepPower_each _ _ (fun a s => ?_) _).trans ?_
    | split)

theorem keepPower_vioFall (b : Nat) (s : State) : (vioFall b s).keepPower = s.keepPower := by
  unfold vioFall
  repeat' (first
    | with_reducible rfl
    | simp only [keepPower_mk, keepPower_fold, ite_keepPower, ite_self, implies_true, keepPower_modBank, keepPower_cancelRetry, keepPower_each,
        keepPower_mdacsOff, keepPower_raise, keepPower_toHiz]
    | refine (keepPower_each _ _ (fun a s => ?_) _).trans ?_
    | split)

theorem keepPower_vioRise (b : Nat) (s : State) : (vioRise b s).keepPower = s.keepPower := by
  unfold vioRise
  repeat' (first
    | with_reducible rfl
    | simp only [keepPower_mk, keepPower_fold, ite_keepPower, ite_self, implies_true, keepPower_modBank, keepPower_each, keepPower_leaveHiz]
    | refine (keepPower_each _ _ (fun a s => ?_) _).trans ?_
    | split)

theorem keepPower_stgEvent (st k ph why : Nat) (s : State) : (stgEvent st k ph why s).keepPower = s.keepPower := by
  unfold stgEvent
  repeat' (first
    | with_reducible rfl
    | simp only [keepPower_mk, keepPower_fold, ite_keepPower, ite_self, implies_true, keepPower_raise]
    | refine (keepPower_each _ _ (fun a s => ?_) _).trans ?_
    | split)

theorem keepPower_clearPhases (st : Nat) (lim : Bool) (s : State) : (clearPhases st lim s).keepPower = s.keepPower := by
  unfold clearPhases
  repeat' (first
    | with_reducible rfl
    | simp only [keepPower_mk, keepPower_fold, ite_keepPower, ite_self, implies_true, keepPower_modPhase, keepPower_each]
    | refine (keepPower_each _ _ (fun a s => ?_) _).trans ?_
    | split)

theorem keepPower_stageHalt (st : Nat) (dst : SState) (s : State) : (stageHalt st dst s).keepPower = s.keepPower := by
  unfold stageHalt
  repeat' (first
    | with_reducible rfl
    | simp only [keepPower_mk, keepPower_fold, ite_keepPower, ite_self, implies_true, keepPower_modStg, keepPower_commitEnd]
    | refine (keepPower_each _ _ (fun a s => ?_) _).trans ?_
    | split)

theorem keepPower_stageTell (st code status : Nat) (s : State) : (stageTell st code status s).keepPower = s.keepPower := by
  unfold stageTell
  repeat' (first
    | with_reducible rfl
    | simp only [keepPower_mk, keepPower_fold, ite_keepPower, ite_self, implies_true, keepPower_modStg, keepPower_each, keepPower_marginTell]
    | refine (keepPower_each _ _ (fun a s => ?_) _).trans ?_
    | split)

theorem keepPower_kindle (st : Nat) (s : State) : (kindle st s).keepPower = s.keepPower := by
  unfold kindle
  repeat' (first
    | with_reducible rfl
    | simp only [keepPower_mk, keepPower_fold, ite_keepPower, ite_self, implies_true, keepPower_modStg, keepPower_clearPhases]
    | refine (keepPower_each _ _ (fun a s => ?_) _).trans ?_
    | split)

theorem keepPower_safeOff (st cause : Nat) (s : State) : (safeOff st cause s).keepPower = s.keepPower := by
  unfold safeOff
  repeat' (first
    | with_reducible rfl
    | simp only [keepPower_mk, keepPower_fold, ite_keepPower, ite_self, implies_true, keepPower_modStg, keepPower_clearPhases,
        keepPower_detect, keepPower_each, keepPower_stageHalt, keepPower_stageTell, keepPower_stgEvent]
    | refine (keepPower_each _ _ (fun a s => ?_) _).trans ?_
    | split)

theorem keepPower_softStop (st : Nat) (s : State) : (softStop st s).keepPower = s.keepPower := by
  unfold softStop
  repeat' (first
    | with_reducible rfl
    | simp only [keepPower_mk, keepPower_fold, ite_keepPower, ite_self, implies_true, keepPower_modStg]
    | refine (keepPower_each _ _ (fun a s => ?_) _).trans ?_
    | split)

theorem keepPower_stgFound (st cause : Nat) (s : State) : (stgFound st cause s).keepPower = s.keepPower := by
  unfold stgFound
  repeat' (first
    | with_reducible rfl
    | simp only [keepPower_mk, keepPower_fold, ite_keepPower, ite_self, implies_true, keepPower_modStg]
    | refine (keepPower_each _ _ (fun a s => ?_) _).trans ?_
    | split)

theorem keepPower_limitTrip (p : Nat) (consec : Bool) (s : State) : (limitTrip p consec s).keepPower = s.keepPower := by
  unfold limitTrip
  repeat' (first
    | with_reducible rfl
    | simp only [keepPower_mk, keepPower_fold, ite_keepPower, ite_self, implies_true, keepPower_modPhase, keepPower_modStg]
    | refine (keepPower_each _ _ (fun a s => ?_) _).trans ?_
    | split)

theorem keepPower_hiccupStep (st : Nat) (s : State) : (hiccupStep st s).keepPower = s.keepPower := by
  unfold hiccupStep
  repeat' (first
    | with_reducible rfl
    | simp only [keepPower_mk, keepPower_fold, ite_keepPower, ite_self, implies_true, keepPower_modStg, keepPower_stageHalt,
        keepPower_stgEvent, keepPower_stgFound]
    | refine (keepPower_each _ _ (fun a s => ?_) _).trans ?_
    | split)

theorem keepPower_hiccupEnd (st : Nat) (s : State) : (hiccupEnd st s).keepPower = s.keepPower := by
  unfold hiccupEnd
  repeat' (first
    | with_reducible rfl
    | simp only [keepPower_mk, keepPower_fold, ite_keepPower, ite_self, implies_true, keepPower_kindle]
    | refine (keepPower_each _ _ (fun a s => ?_) _).trans ?_
    | split)

theorem keepPower_withdrawEnable (g : Nat) (f : Fig) (order : Nat) (s : State) : (withdrawEnable g f order s).keepPower = s.keepPower :=
    by
  unfold withdrawEnable
  repeat' (first
    | with_reducible rfl
    | simp only [keepPower_mk, keepPower_fold, ite_keepPower, ite_self, implies_true, keepPower_alogWithdraw, keepPower_commitEnd]
    | refine (keepPower_each _ _ (fun a s => ?_) _).trans ?_
    | split)

theorem keepPower_withdrawStart (m st order : Nat) (s : State) : (withdrawStart m st order s).keepPower = s.keepPower := by
  unfold withdrawStart
  repeat' (first
    | with_reducible rfl
    | simp only [keepPower_mk, keepPower_fold, ite_keepPower, ite_self, implies_true, keepPower_alogWithdraw, keepPower_commitEnd]
    | refine (keepPower_each _ _ (fun a s => ?_) _).trans ?_
    | split)

theorem keepPower_withdrawMargin (m : MOp) (s : State) : (withdrawMargin m s).keepPower = s.keepPower := by
  unfold withdrawMargin
  repeat' (first
    | with_reducible rfl
    | simp only [keepPower_mk, keepPower_fold, ite_keepPower, ite_self, implies_true, keepPower_alogWithdraw, keepPower_commitEnd]
    | refine (keepPower_each _ _ (fun a s => ?_) _).trans ?_
    | split)

theorem keepPower_withdrawItem (it : Item) (s : State) : (withdrawItem it s).keepPower = s.keepPower := by
  unfold withdrawItem
  repeat' (first
    | with_reducible rfl
    | simp only [keepPower_mk, keepPower_fold, ite_keepPower, ite_self, implies_true, keepPower_withdrawEnable, keepPower_withdrawStart]
    | refine (keepPower_each _ _ (fun a s => ?_) _).trans ?_
    | split)

theorem keepPower_withdrawCmd (c : RailCmd) (s : State) : (withdrawCmd c s).keepPower = s.keepPower := by
  unfold withdrawCmd
  repeat' (first
    | with_reducible rfl
    | simp only [keepPower_mk, keepPower_fold, ite_keepPower, ite_self, implies_true, keepPower_withdrawEnable, keepPower_withdrawStart]
    | refine (keepPower_each _ _ (fun a s => ?_) _).trans ?_
    | split)

theorem keepPower_disown (n : Nat) (s : State) : (disown n s).keepPower = s.keepPower := by
  unfold disown
  repeat' (first
    | with_reducible rfl
    | simp only [keepPower_mk, keepPower_fold, ite_keepPower, ite_self, implies_true, keepPower_modStg, keepPower_each,
        keepPower_withdrawMargin]
    | refine (keepPower_each _ _ (fun a s => ?_) _).trans ?_
    | split)

theorem keepPower_stopCmds (n : Nat) (s : State) : (stopCmds n s).keepPower = s.keepPower := by
  unfold stopCmds
  repeat' (first
    | with_reducible rfl
    | simp only [keepPower_mk, keepPower_fold, ite_keepPower, ite_self, implies_true, keepPower_each, keepPower_withdrawCmd]
    | refine (keepPower_each _ _ (fun a s => ?_) _).trans ?_
    | split)

theorem keepPower_progEnd (n status step : Nat) (s : State) : (progEnd n status step s).keepPower = s.keepPower := by
  unfold progEnd
  repeat' (first
    | with_reducible rfl
    | simp only [keepPower_mk, keepPower_fold, ite_keepPower, ite_self, implies_true, keepPower_modProg, keepPower_disown, keepPower_each,
        keepPower_stopCmds, keepPower_withdrawItem]
    | refine (keepPower_each _ _ (fun a s => ?_) _).trans ?_
    | split)

theorem keepPower_progTell (n : Nat) (s : State) : (progTell n s).keepPower = s.keepPower := by
  unfold progTell
  repeat' (first
    | with_reducible rfl
    | simp only [keepPower_mk, keepPower_fold, ite_keepPower, ite_self, implies_true, keepPower_modProg, keepPower_finishAll]
    | refine (keepPower_each _ _ (fun a s => ?_) _).trans ?_
    | split)

theorem keepPower_progsTell (s : State) : (progsTell s).keepPower = s.keepPower := by
  unfold progsTell
  repeat' (first
    | with_reducible rfl
    | simp only [keepPower_mk, keepPower_fold, ite_keepPower, ite_self, implies_true, keepPower_each, keepPower_progTell]
    | refine (keepPower_each _ _ (fun a s => ?_) _).trans ?_
    | split)

theorem keepPower_fromMirror (a : Nat) (s : State) : (fromMirror a s).keepPower = s.keepPower := by
  unfold fromMirror
  repeat' (first
    | with_reducible rfl
    | simp only [keepPower_mk, keepPower_fold, ite_keepPower, ite_self, implies_true]
    | refine (keepPower_each _ _ (fun a s => ?_) _).trans ?_
    | split)

theorem keepPower_readTable (a : Nat) (s : State) : (readTable a s).2.keepPower = s.keepPower := by
  unfold readTable
  repeat' (first
    | with_reducible rfl
    | simp only [keepPower_mk, keepPower_fold, ite_keepPower, ite_self, implies_true, keepPower_fromMirror, keepPower_readWord,
        keepPower_wcWritten]
    | refine (keepPower_each _ _ (fun a s => ?_) _).trans ?_
    | split)

theorem keepPower_readWords (l : List Nat) (s : State) : (readWords l s).2.keepPower = s.keepPower := by
  induction l generalizing s with
  | nil => rfl
  | cons a l ih =>
    unfold readWords
    repeat' (first
      | with_reducible rfl
      | simp only [keepPower_mk, keepPower_fold, ite_keepPower, ite_self, implies_true, ih, keepPower_readTable]
      | refine (keepPower_each _ _ (fun a s => ?_) _).trans ?_
      | split)

theorem keepPower_fetchAt (n old i : Nat) (s : State) : (fetchAt n old i s).keepPower = s.keepPower := by
  unfold fetchAt
  repeat' (first
    | with_reducible rfl
    | simp only [keepPower_mk, keepPower_fold, ite_keepPower, ite_self, implies_true, keepPower_modProg, keepPower_progEnd, keepPower_readWords]
    | refine (keepPower_each _ _ (fun a s => ?_) _).trans ?_
    | split)

theorem keepPower_progLaunch (n : Nat) (s : State) : (progLaunch n s).keepPower = s.keepPower := by
  unfold progLaunch
  repeat' (first
    | with_reducible rfl
    | simp only [keepPower_mk, keepPower_fold, ite_keepPower, ite_self, implies_true, keepPower_modProg, keepPower_fetchAt]
    | refine (keepPower_each _ _ (fun a s => ?_) _).trans ?_
    | split)

theorem keepPower_offRead (i : Nat) (s : State) : (offRead i s).keepPower = s.keepPower := by
  unfold offRead
  repeat' (first
    | with_reducible rfl
    | simp only [keepPower_mk, keepPower_fold, ite_keepPower, ite_self, implies_true, keepPower_readWord]
    | refine (keepPower_each _ _ (fun a s => ?_) _).trans ?_
    | split)

theorem keepPower_withdrawRails (l : List Nat) (s : State) : (withdrawRails l s).keepPower = s.keepPower := by
  unfold withdrawRails
  repeat' (first
    | with_reducible rfl
    | simp only [keepPower_mk, keepPower_fold, ite_keepPower, ite_self, implies_true, keepPower_modProg, keepPower_modRail,
        keepPower_alogWithdraw, keepPower_commitEnd, keepPower_each, keepPower_withdrawCmd, keepPower_withdrawItem]
    | refine (keepPower_each _ _ (fun a s => ?_) _).trans ?_
    | split)

theorem keepPower_cancelRestarts (full : Bool) (l : List Nat) (s : State) : (cancelRestarts full l s).keepPower = s.keepPower := by
  unfold cancelRestarts
  repeat' (first
    | with_reducible rfl
    | simp only [keepPower_mk, keepPower_fold, ite_keepPower, ite_self, implies_true, keepPower_modGrp, keepPower_each]
    | refine (keepPower_each _ _ (fun a s => ?_) _).trans ?_
    | split)

theorem keepPower_fullRunActs (s : State) : (fullRunActs s).keepPower = s.keepPower := by
  unfold fullRunActs
  repeat' (first
    | with_reducible rfl
    | simp only [keepPower_mk, keepPower_fold, ite_keepPower, ite_self, implies_true, keepPower_each, keepPower_finishAll, keepPower_progEnd]
    | refine (keepPower_each _ _ (fun a s => ?_) _).trans ?_
    | split)

theorem keepPower_dropResumes (s : State) : (dropResumes s).keepPower = s.keepPower := by
  unfold dropResumes
  repeat' (first
    | with_reducible rfl
    | simp only [keepPower_mk, keepPower_fold, ite_keepPower, ite_self, implies_true, keepPower_modRail, keepPower_each]
    | refine (keepPower_each _ _ (fun a s => ?_) _).trans ?_
    | split)

theorem keepPower_offRequest (src : Nat) (full : Bool) (groups : Nat) (s : State) : (offRequest src full groups s).keepPower =
    s.keepPower := by
  unfold offRequest
  repeat' (first
    | with_reducible rfl
    | simp only [keepPower_mk, keepPower_fold, ite_keepPower, ite_self, implies_true, keepPower_cancelRestarts, keepPower_cancelRetry,
        keepPower_dropResumes, keepPower_each, keepPower_fullRunActs, keepPower_withdrawRails]
    | refine (keepPower_each _ _ (fun a s => ?_) _).trans ?_
    | split)

theorem keepPower_offGroupFault (groups : Nat) (s : State) : (offGroupFault groups s).keepPower = s.keepPower := by
  unfold offGroupFault
  repeat' (first
    | with_reducible rfl
    | simp only [keepPower_mk, keepPower_fold, ite_keepPower, ite_self, implies_true, keepPower_modGrp, keepPower_each, keepPower_offRequest]
    | refine (keepPower_each _ _ (fun a s => ?_) _).trans ?_
    | split)

theorem keepPower_launchOnSet (s : State) : (launchOnSet s).keepPower = s.keepPower := by
  unfold launchOnSet
  repeat' (first
    | with_reducible rfl
    | simp only [keepPower_mk, keepPower_fold, ite_keepPower, ite_self, implies_true, keepPower_each, keepPower_progLaunch]
    | refine (keepPower_each _ _ (fun a s => ?_) _).trans ?_
    | split)

theorem keepPower_resumeRun (s : State) : (resumeRun s).keepPower = s.keepPower := by
  unfold resumeRun
  repeat' (first
    | with_reducible rfl
    | simp only [keepPower_mk, keepPower_fold, ite_keepPower, ite_self, implies_true, keepPower_modRail, keepPower_each, keepPower_finishAll]
    | refine (keepPower_each _ _ (fun a s => ?_) _).trans ?_
    | split)

theorem keepPower_onRequest (s : State) : (onRequest s).2.keepPower = s.keepPower := by
  unfold onRequest
  repeat' (first
    | with_reducible rfl
    | simp only [keepPower_mk, keepPower_fold, ite_keepPower, ite_self, implies_true, keepPower_launchOnSet, keepPower_resumeRun]
    | refine (keepPower_each _ _ (fun a s => ?_) _).trans ?_
    | split)

theorem keepPower_onRequestNow (s : State) : (onRequestNow s).keepPower = s.keepPower := by
  unfold onRequestNow
  repeat' (first
    | with_reducible rfl
    | simp only [keepPower_mk, keepPower_fold, ite_keepPower, ite_self, implies_true, keepPower_onRequest]
    | refine (keepPower_each _ _ (fun a s => ?_) _).trans ?_
    | split)

theorem keepPower_fullRestart (s : State) : (fullRestart s).keepPower = s.keepPower := by
  unfold fullRestart
  repeat' (first
    | with_reducible rfl
    | simp only [keepPower_mk, keepPower_fold, ite_keepPower, ite_self, implies_true, keepPower_jInternal, keepPower_onRequestNow]
    | refine (keepPower_each _ _ (fun a s => ?_) _).trans ?_
    | split)

theorem keepPower_restartPolicy (s : State) : (restartPolicy s).keepPower = s.keepPower := by
  unfold restartPolicy
  repeat' (first
    | with_reducible rfl
    | simp only [keepPower_mk, keepPower_fold, ite_keepPower, ite_self, implies_true, keepPower_fullRestart, keepPower_raise]
    | refine (keepPower_each _ _ (fun a s => ?_) _).trans ?_
    | split)

theorem keepPower_groupRestartNow (n : Nat) (s : State) : (groupRestartNow n s).keepPower = s.keepPower := by
  unfold groupRestartNow
  repeat' (first
    | with_reducible rfl
    | simp only [keepPower_mk, keepPower_fold, ite_keepPower, ite_self, implies_true, keepPower_modGrp, keepPower_jInternal,
        keepPower_progLaunch]
    | refine (keepPower_each _ _ (fun a s => ?_) _).trans ?_
    | split)

theorem keepPower_groupPolicy (n : Nat) (s : State) : (groupPolicy n s).keepPower = s.keepPower := by
  unfold groupPolicy
  repeat' (first
    | with_reducible rfl
    | simp only [keepPower_mk, keepPower_fold, ite_keepPower, ite_self, implies_true, keepPower_modGrp, keepPower_groupRestartNow,
        keepPower_raise]
    | refine (keepPower_each _ _ (fun a s => ?_) _).trans ?_
    | split)

theorem keepPower_offComplete (s : State) : (offComplete s).keepPower = s.keepPower := by
  unfold offComplete
  repeat' (first
    | with_reducible rfl
    | simp only [keepPower_mk, keepPower_fold, ite_keepPower, ite_self, implies_true, keepPower_each, keepPower_finishAll,
        keepPower_groupPolicy, keepPower_restartPolicy, keepPower_softStop]
    | refine (keepPower_each _ _ (fun a s => ?_) _).trans ?_
    | split)

theorem keepPower_tableEnd (i : Nat) (s : State) : (tableEnd i s).keepPower = s.keepPower := by
  unfold tableEnd
  repeat' (first
    | with_reducible rfl
    | simp only [keepPower_mk, keepPower_fold, ite_keepPower, ite_self, implies_true, keepPower_offComplete]
    | refine (keepPower_each _ _ (fun a s => ?_) _).trans ?_
    | split)

theorem keepPower_openClass (i : Nat) (s : State) : (openClass i s).keepPower = s.keepPower := by
  unfold openClass
  repeat' (first
    | with_reducible rfl
    | simp only [keepPower_mk, keepPower_fold, ite_keepPower, ite_self, implies_true, keepPower_offRead, keepPower_tableEnd]
    | refine (keepPower_each _ _ (fun a s => ?_) _).trans ?_
    | split)

theorem keepPower_offRelease (r : Nat) (s : State) : (offRelease r s).keepPower = s.keepPower := by
  unfold offRelease
  repeat' (first
    | with_reducible rfl
    | simp only [keepPower_mk, keepPower_fold, ite_keepPower, ite_self, implies_true, keepPower_releaseRail]
    | refine (keepPower_each _ _ (fun a s => ?_) _).trans ?_
    | split)

theorem keepPower_offWalk (f : Nat) (d p : Bool) (s : State) : (offWalk f d p s).keepPower = s.keepPower := by
  induction f generalizing d p s with
  | zero => rfl
  | succ f ih =>
    unfold offWalk
    repeat' (first
      | with_reducible rfl
      | simp only [keepPower_mk, keepPower_fold, ite_keepPower, ite_self, implies_true, ih, keepPower_offRead, keepPower_offRelease]
      | refine (keepPower_each _ _ (fun a s => ?_) _).trans ?_
      | split)

theorem keepPower_syncExpire (s : State) : (syncExpire s).keepPower = s.keepPower := by
  unfold syncExpire
  repeat' (first
    | with_reducible rfl
    | simp only [keepPower_mk, keepPower_fold, ite_keepPower, ite_self, implies_true, keepPower_openClass, keepPower_raise]
    | refine (keepPower_each _ _ (fun a s => ?_) _).trans ?_
    | split)

theorem keepPower_limitExpire (s : State) : (limitExpire s).keepPower = s.keepPower := by
  unfold limitExpire
  repeat' (first
    | with_reducible rfl
    | simp only [keepPower_mk, keepPower_fold, ite_keepPower, ite_self, implies_true, keepPower_openClass, keepPower_raise]
    | refine (keepPower_each _ _ (fun a s => ?_) _).trans ?_
    | split)

theorem keepPower_judgeDomain (s : State) : (judgeDomain s).keepPower = s.keepPower := by
  unfold judgeDomain
  repeat' (first
    | with_reducible rfl
    | simp only [keepPower_mk, keepPower_fold, ite_keepPower, ite_self, implies_true, keepPower_finishAll]
    | refine (keepPower_each _ _ (fun a s => ?_) _).trans ?_
    | split)

theorem keepPower_assertSysrst (s : State) : (assertSysrst s).keepPower = s.keepPower := by
  unfold assertSysrst
  repeat' (first
    | with_reducible rfl
    | simp only [keepPower_mk, keepPower_fold, ite_keepPower, ite_self, implies_true]
    | refine (keepPower_each _ _ (fun a s => ?_) _).trans ?_
    | split)

theorem keepPower_toMembers (f : Nat → CmdRec) (s : State) : (toMembers f s).keepPower = s.keepPower := by
  unfold toMembers
  repeat' (first
    | with_reducible rfl
    | simp only [keepPower_mk, keepPower_fold, ite_keepPower, ite_self, implies_true]
    | refine (keepPower_each _ _ (fun a s => ?_) _).trans ?_
    | split)

theorem keepPower_offRelay (full : Bool) (groups : Nat) (sysrst : Bool) (s : State) : (offRelay full groups sysrst s).keepPower =
    s.keepPower := by
  unfold offRelay
  repeat' (first
    | with_reducible rfl
    | simp only [keepPower_mk, keepPower_fold, ite_keepPower, ite_self, implies_true, keepPower_toMembers]
    | refine (keepPower_each _ _ (fun a s => ?_) _).trans ?_
    | split)

theorem keepPower_groupReaction (groups : Nat) (s : State) : (groupReaction groups s).keepPower = s.keepPower := by
  unfold groupReaction
  repeat' (first
    | with_reducible rfl
    | simp only [keepPower_mk, keepPower_fold, ite_keepPower, ite_self, implies_true, keepPower_offGroupFault, keepPower_offRelay]
    | refine (keepPower_each _ _ (fun a s => ?_) _).trans ?_
    | split)

theorem keepPower_sysReaction (s : State) : (sysReaction s).keepPower = s.keepPower := by
  unfold sysReaction
  repeat' (first
    | with_reducible rfl
    | simp only [keepPower_mk, keepPower_fold, ite_keepPower, ite_self, implies_true, keepPower_assertSysrst, keepPower_offRelay,
        keepPower_offRequest]
    | refine (keepPower_each _ _ (fun a s => ?_) _).trans ?_
    | split)

theorem keepPower_joinRun (i : Nat) (s : State) : (joinRun i s).keepPower = s.keepPower := by
  unfold joinRun
  repeat' (first
    | with_reducible rfl
    | simp only [keepPower_mk, keepPower_fold, ite_keepPower, ite_self, implies_true, keepPower_cancelRetry]
    | refine (keepPower_each _ _ (fun a s => ?_) _).trans ?_
    | split)

theorem keepPower_applyDrop (i : Nat) (v : Verdict) (kinds : List Nat) (s : State) : (applyDrop i v kinds s).keepPower = s.keepPower :=
    by
  unfold applyDrop
  repeat' (first
    | with_reducible rfl
    | simp only [keepPower_mk, keepPower_fold, ite_keepPower, ite_self, implies_true, keepPower_modRail, keepPower_dropRail,
        keepPower_setRState]
    | refine (keepPower_each _ _ (fun a s => ?_) _).trans ?_
    | split)

theorem keepPower_reactRail (i : Nat) (l : List FQ) (shut : Bool) (s : State) : (reactRail i l shut s).2.keepPower = s.keepPower := by
  unfold reactRail
  repeat' (first
    | with_reducible rfl
    | simp only [keepPower_mk, keepPower_fold, ite_keepPower, ite_self, implies_true, keepPower_modRail, keepPower_applyDrop,
        keepPower_groupReaction, keepPower_joinRun, keepPower_setRState, keepPower_sysReaction]
    | refine (keepPower_each _ _ (fun a s => ?_) _).trans ?_
    | split)

theorem keepPower_queueFault (f : FQ) (s : State) : (queueFault f s).keepPower = s.keepPower := by
  unfold queueFault
  repeat' (first
    | with_reducible rfl
    | simp only [keepPower_mk, keepPower_fold, ite_keepPower, ite_self, implies_true]
    | refine (keepPower_each _ _ (fun a s => ?_) _).trans ?_
    | split)

theorem keepPower_rowFirst (f : RFF) (s : State) : (rowFirst f s).keepPower = s.keepPower := by
  unfold rowFirst
  repeat' (first
    | with_reducible rfl
    | simp only [keepPower_mk, keepPower_fold, ite_keepPower, ite_self, implies_true]
    | refine (keepPower_each _ _ (fun a s => ?_) _).trans ?_
    | split)

theorem keepPower_captureFirst (prims all : List FQ) (s : State) : (captureFirst prims all s).keepPower = s.keepPower := by
  unfold captureFirst
  repeat' (first
    | with_reducible rfl
    | simp only [keepPower_mk, keepPower_fold, ite_keepPower, ite_self, implies_true, keepPower_rowFirst, keepPower_wcWritten]
    | refine (keepPower_each _ _ (fun a s => ?_) _).trans ?_
    | split)

theorem keepPower_faultLogic (shut : List Nat) (s : State) : (faultLogic shut s).keepPower = s.keepPower := by
  unfold faultLogic
  simp only
  refine (keepPower_captureFirst _ _ _).trans ((keepPower_each _ _ keepPower_queueFault _).trans ?_)
  exact keepPower_foldl (fun x : List FQ × List FQ × State => x.2.2) _ (fun p i => keepPower_reactRail _ _ _ _) _ _

theorem keepPower_reactIn (shut : List Nat) (s : State) : (reactIn shut s).keepPower = s.keepPower := by
  unfold reactIn
  repeat' (first
    | with_reducible rfl
    | simp only [keepPower_mk, keepPower_fold, ite_keepPower, ite_self, implies_true, keepPower_faultLogic]
    | refine (keepPower_each _ _ (fun a s => ?_) _).trans ?_
    | split)

theorem keepPower_reactNow (s : State) : (reactNow s).keepPower = s.keepPower := by
  unfold reactNow
  repeat' (first
    | with_reducible rfl
    | simp only [keepPower_mk, keepPower_fold, ite_keepPower, ite_self, implies_true, keepPower_faultLogic]
    | refine (keepPower_each _ _ (fun a s => ?_) _).trans ?_
    | split)

theorem keepPower_stagePolicy (st : Nat) (s : State) : (stagePolicy st s).keepPower = s.keepPower := by
  unfold stagePolicy
  repeat' (first
    | with_reducible rfl
    | simp only [keepPower_mk, keepPower_fold, ite_keepPower, ite_self, implies_true, keepPower_modStg, keepPower_groupReaction,
        keepPower_raise, keepPower_sysReaction]
    | refine (keepPower_each _ _ (fun a s => ?_) _).trans ?_
    | split)

theorem keepPower_stageFault (st cause : Nat) (s : State) : (stageFault st cause s).keepPower = s.keepPower := by
  unfold stageFault
  repeat' (first
    | with_reducible rfl
    | simp only [keepPower_mk, keepPower_fold, ite_keepPower, ite_self, implies_true, keepPower_safeOff, keepPower_stagePolicy]
    | refine (keepPower_each _ _ (fun a s => ?_) _).trans ?_
    | split)

theorem keepPower_stageFaults (s : State) : (stageFaults s).keepPower = s.keepPower := by
  unfold stageFaults
  repeat' (first
    | with_reducible rfl
    | simp only [keepPower_mk, keepPower_fold, ite_keepPower, ite_self, implies_true, keepPower_modStg, keepPower_each, keepPower_stageFault]
    | refine (keepPower_each _ _ (fun a s => ?_) _).trans ?_
    | split)

theorem keepPower_backoffEnd (i : Nat) (s : State) : (backoffEnd i s).keepPower = s.keepPower := by
  unfold backoffEnd
  repeat' (first
    | with_reducible rfl
    | simp only [keepPower_mk, keepPower_fold, ite_keepPower, ite_self, implies_true, keepPower_modRail]
    | refine (keepPower_each _ _ (fun a s => ?_) _).trans ?_
    | split)

theorem keepPower_stageBackoffEnd (st : Nat) (s : State) : (stageBackoffEnd st s).keepPower = s.keepPower := by
  unfold stageBackoffEnd
  repeat' (first
    | with_reducible rfl
    | simp only [keepPower_mk, keepPower_fold, ite_keepPower, ite_self, implies_true, keepPower_modStg]
    | refine (keepPower_each _ _ (fun a s => ?_) _).trans ?_
    | split)

theorem keepPower_groupRestartDue (n : Nat) (s : State) : (groupRestartDue n s).keepPower = s.keepPower := by
  unfold groupRestartDue
  repeat' (first
    | with_reducible rfl
    | simp only [keepPower_mk, keepPower_fold, ite_keepPower, ite_self, implies_true, keepPower_groupRestartNow]
    | refine (keepPower_each _ _ (fun a s => ?_) _).trans ?_
    | split)

theorem keepPower_restartDue (s : State) : (restartDue s).keepPower = s.keepPower := by
  unfold restartDue
  repeat' (first
    | with_reducible rfl
    | simp only [keepPower_mk, keepPower_fold, ite_keepPower, ite_self, implies_true, keepPower_fullRestart]
    | refine (keepPower_each _ _ (fun a s => ?_) _).trans ?_
    | split)

theorem keepPower_windowDue (s : State) : (windowDue s).keepPower = s.keepPower := by
  unfold windowDue
  repeat' (first
    | with_reducible rfl
    | simp only [keepPower_mk, keepPower_fold, ite_keepPower, ite_self, implies_true]
    | refine (keepPower_each _ _ (fun a s => ?_) _).trans ?_
    | split)

theorem keepPower_sysrstUp (old : Domain) (s : State) : (sysrstUp old s).keepPower = s.keepPower := by
  unfold sysrstUp
  repeat' (first
    | with_reducible rfl
    | simp only [keepPower_mk, keepPower_fold, ite_keepPower, ite_self, implies_true]
    | refine (keepPower_each _ _ (fun a s => ?_) _).trans ?_
    | split)

theorem keepPower_sysrstOff (s : State) : (sysrstOff s).keepPower = s.keepPower := by
  unfold sysrstOff
  repeat' (first
    | with_reducible rfl
    | simp only [keepPower_mk, keepPower_fold, ite_keepPower, ite_self, implies_true]
    | refine (keepPower_each _ _ (fun a s => ?_) _).trans ?_
    | split)

theorem keepPower_sysrstDue (s : State) : (sysrstDue s).keepPower = s.keepPower := by
  unfold sysrstDue
  repeat' (first
    | with_reducible rfl
    | simp only [keepPower_mk, keepPower_fold, ite_keepPower, ite_self, implies_true, keepPower_sysrstOff]
    | refine (keepPower_each _ _ (fun a s => ?_) _).trans ?_
    | split)

theorem keepPower_releaseNow (i : Nat) (s : State) : (releaseNow i s).keepPower = s.keepPower := by
  unfold releaseNow
  repeat' (first
    | with_reducible rfl
    | simp only [keepPower_mk, keepPower_fold, ite_keepPower, ite_self, implies_true, keepPower_modRail, keepPower_driveEn,
        keepPower_releaseRail]
    | refine (keepPower_each _ _ (fun a s => ?_) _).trans ?_
    | split)

theorem keepPower_releaseAll (s : State) : (releaseAll s).keepPower = s.keepPower := by
  unfold releaseAll
  repeat' (first
    | with_reducible rfl
    | simp only [keepPower_mk, keepPower_fold, ite_keepPower, ite_self, implies_true, keepPower_each, keepPower_releaseNow]
    | refine (keepPower_each _ _ (fun a s => ?_) _).trans ?_
    | split)

theorem keepPower_marginPut (old : MOp) (new : Option MOp) (s : State) : (marginPut old new s).keepPower = s.keepPower := by
  unfold marginPut
  repeat' (first
    | with_reducible rfl
    | simp only [keepPower_mk, keepPower_fold, ite_keepPower, ite_self, implies_true]
    | refine (keepPower_each _ _ (fun a s => ?_) _).trans ?_
    | split)

theorem keepPower_markActed (g : Nat) (s : State) : (markActed g s).keepPower = s.keepPower := by
  unfold markActed
  repeat' (first
    | with_reducible rfl
    | simp only [keepPower_mk, keepPower_fold, ite_keepPower, ite_self, implies_true]
    | refine (keepPower_each _ _ (fun a s => ?_) _).trans ?_
    | split)

theorem keepPower_retireNext (n : Nat) (s : State) : (retireNext n s).keepPower = s.keepPower := by
  unfold retireNext
  repeat' (first
    | with_reducible rfl
    | simp only [keepPower_mk, keepPower_fold, ite_keepPower, ite_self, implies_true, keepPower_modProg, keepPower_fetchAt]
    | refine (keepPower_each _ _ (fun a s => ?_) _).trans ?_
    | split)

theorem keepPower_failStep (n status : Nat) (it : Item) (pmb : Bool) (s : State) : (failStep n status it pmb s).keepPower = s.keepPower
    := by
  unfold failStep
  repeat' (first
    | with_reducible rfl
    | simp only [keepPower_mk, keepPower_fold, ite_keepPower, ite_self, implies_true, keepPower_modProg, keepPower_disown, keepPower_progEnd,
        keepPower_retireNext]
    | refine (keepPower_each _ _ (fun a s => ?_) _).trans ?_
    | split)

theorem keepPower_pushCmd (c : RailCmd) (s : State) : (pushCmd c s).keepPower = s.keepPower := by
  unfold pushCmd
  repeat' (first
    | with_reducible rfl
    | simp only [keepPower_mk, keepPower_fold, ite_keepPower, ite_self, implies_true]
    | refine (keepPower_each _ _ (fun a s => ?_) _).trans ?_
    | split)

theorem keepPower_modItem (n idx : Nat) (f : Item → Item) (s : State) : (modItem n idx f s).keepPower = s.keepPower := by
  unfold modItem
  repeat' (first
    | with_reducible rfl
    | simp only [keepPower_mk, keepPower_fold, ite_keepPower, ite_self, implies_true, keepPower_modProg]
    | refine (keepPower_each _ _ (fun a s => ?_) _).trans ?_
    | split)

theorem keepPower_dropItem (n idx : Nat) (s : State) : (dropItem n idx s).keepPower = s.keepPower := by
  unfold dropItem
  repeat' (first
    | with_reducible rfl
    | simp only [keepPower_mk, keepPower_fold, ite_keepPower, ite_self, implies_true, keepPower_modProg, keepPower_retireNext]
    | refine (keepPower_each _ _ (fun a s => ?_) _).trans ?_
    | split)

theorem keepPower_examEnable (n : Nat) (it : Item) (s : State) : (examEnable n it s).1.keepPower = s.keepPower := by
  unfold examEnable
  repeat' (first
    | with_reducible rfl
    | simp only [keepPower_mk, keepPower_fold, ite_keepPower, ite_self, implies_true, keepPower_modProg, keepPower_dropItem,
        keepPower_markActed, keepPower_modItem, keepPower_progEnd, keepPower_pushCmd, keepPower_withdrawItem]
    | refine (keepPower_each _ _ (fun a s => ?_) _).trans ?_
    | split)

theorem keepPower_beginStep (n : Nat) (it : Item) (s : State) : (beginStep n it s).keepPower = s.keepPower := by
  unfold beginStep
  repeat' (first
    | with_reducible rfl
    | simp only [keepPower_mk, keepPower_fold, ite_keepPower, ite_self, implies_true, keepPower_emit, keepPower_markActed, keepPower_modItem,
        keepPower_pmbPush, keepPower_pushCmd]
    | refine (keepPower_each _ _ (fun a s => ?_) _).trans ?_
    | split)

theorem keepPower_retireActs (n : Nat) (it : Item) (s : State) : (retireActs n it s).keepPower = s.keepPower := by
  unfold retireActs
  repeat' (first
    | with_reducible rfl
    | simp only [keepPower_mk, keepPower_fold, ite_keepPower, ite_self, implies_true, keepPower_markActed, keepPower_pushCmd]
    | refine (keepPower_each _ _ (fun a s => ?_) _).trans ?_
    | split)

theorem keepPower_runStep (n : Nat) (it : Item) (s : State) : (runStep n it s).1.keepPower = s.keepPower := by
  unfold runStep
  repeat' (first
    | with_reducible rfl
    | simp only [keepPower_mk, keepPower_fold, ite_keepPower, ite_self, implies_true, keepPower_modProg, keepPower_beginStep,
        keepPower_failStep, keepPower_progEnd, keepPower_retireActs, keepPower_retireNext]
    | refine (keepPower_each _ _ (fun a s => ?_) _).trans ?_
    | split)

theorem keepPower_runRendezvous (n : Nat) (it : Item) (room : Nat) (s : State) : (runRendezvous n it room s).1.keepPower = s.keepPower
    := by
  unfold runRendezvous
  repeat' (first
    | with_reducible rfl
    | simp only [keepPower_mk, keepPower_fold, ite_keepPower, ite_self, implies_true, keepPower_modProg, keepPower_each, keepPower_failStep,
        keepPower_modItem, keepPower_retireNext]
    | refine (keepPower_each _ _ (fun a s => ?_) _).trans ?_
    | split)

theorem keepPower_runProg (n room : Nat) (s : State) : (runProg n room s).1.keepPower = s.keepPower := by
  unfold runProg; dsimp only
  split
  · rfl
  · split
    · refine keepPower_foldl (fun x : State × Nat => x.1) _ (fun p it => ?_) _ _
      repeat' (first
        | with_reducible rfl
        | simp only [keepPower_mk, keepPower_fold, ite_keepPower, ite_self, implies_true, keepPower_modProg, keepPower_beginStep,
            keepPower_examEnable, keepPower_progEnd, keepPower_runRendezvous, keepPower_runStep]
        | refine (keepPower_each _ _ (fun a s => ?_) _).trans ?_
        | split)
    · repeat' (first
        | with_reducible rfl
        | simp only [keepPower_mk, keepPower_fold, ite_keepPower, ite_self, implies_true, keepPower_modProg, keepPower_beginStep,
            keepPower_examEnable, keepPower_progEnd, keepPower_runRendezvous, keepPower_runStep]
        | refine (keepPower_each _ _ (fun a s => ?_) _).trans ?_
        | split)

theorem keepPower_overrunSafe (st : Nat) (s : State) : (overrunSafe st s).keepPower = s.keepPower := by
  unfold overrunSafe
  repeat' (first
    | with_reducible rfl
    | simp only [keepPower_mk, keepPower_fold, ite_keepPower, ite_self, implies_true, keepPower_stageFault]
    | refine (keepPower_each _ _ (fun a s => ?_) _).trans ?_
    | split)

theorem keepPower_declareLoss (rects : Bool) (s : State) : (declareLoss rects s).keepPower = s.keepPower := by
  unfold declareLoss
  repeat' (first
    | with_reducible rfl
    | simp only [keepPower_mk, keepPower_fold, ite_keepPower, ite_self, implies_true, keepPower_raise]
    | refine (keepPower_each _ _ (fun a s => ?_) _).trans ?_
    | split)

theorem keepPower_restoreInput (s : State) : (restoreInput s).keepPower = s.keepPower := by
  unfold restoreInput
  repeat' (first
    | with_reducible rfl
    | simp only [keepPower_mk, keepPower_fold, ite_keepPower, ite_self, implies_true, keepPower_jInternal, keepPower_onRequestNow,
        keepPower_raise]
    | refine (keepPower_each _ _ (fun a s => ?_) _).trans ?_
    | split)

theorem keepPower_inputLossOff (s : State) : (inputLossOff s).keepPower = s.keepPower := by
  unfold inputLossOff
  repeat' (first
    | with_reducible rfl
    | simp only [keepPower_mk, keepPower_fold, ite_keepPower, ite_self, implies_true, keepPower_offRelay, keepPower_offRequest, keepPower_raise]
    | refine (keepPower_each _ _ (fun a s => ?_) _).trans ?_
    | split)

theorem keepPower_shedTrip (s : State) : (shedTrip s).keepPower = s.keepPower := by
  unfold shedTrip
  repeat' (first
    | with_reducible rfl
    | simp only [keepPower_mk, keepPower_fold, ite_keepPower, ite_self, implies_true, keepPower_inputLossOff]
    | refine (keepPower_each _ _ (fun a s => ?_) _).trans ?_
    | split)

theorem keepPower_battOff (s : State) : (battOff s).keepPower = s.keepPower := by
  unfold battOff
  repeat' (first
    | with_reducible rfl
    | simp only [keepPower_mk, keepPower_fold, ite_keepPower, ite_self, implies_true, keepPower_inputLossOff]
    | refine (keepPower_each _ _ (fun a s => ?_) _).trans ?_
    | split)

theorem keepPower_battPoll (s : State) : (battPoll s).keepPower = s.keepPower := by
  unfold battPoll
  repeat' (first
    | with_reducible rfl
    | simp only [keepPower_mk, keepPower_fold, ite_keepPower, ite_self, implies_true, keepPower_pmbPush]
    | refine (keepPower_each _ _ (fun a s => ?_) _).trans ?_
    | split)

theorem keepPower_onRail (i : Nat) (f : State → State) (s : State) (hf : ∀ s, (f s).keepPower = s.keepPower) : (onRail i f s).keepPower =
    s.keepPower := by
  unfold onRail
  repeat' (first
    | with_reducible rfl
    | simp only [keepPower_mk, keepPower_fold, ite_keepPower, ite_self, implies_true, hf]
    | refine (keepPower_each _ _ (fun a s => ?_) _).trans ?_
    | split)

theorem keepPower_vioRiseNow (b : Nat) (s : State) : (vioRiseNow b s).keepPower = s.keepPower := by
  unfold vioRiseNow
  repeat' (first
    | with_reducible rfl
    | simp only [keepPower_mk, keepPower_fold, ite_keepPower, ite_self, implies_true, keepPower_modBank, keepPower_vioRise]
    | refine (keepPower_each _ _ (fun a s => ?_) _).trans ?_
    | split)

theorem keepPower_vioFallNow (b : Nat) (s : State) : (vioFallNow b s).keepPower = s.keepPower := by
  unfold vioFallNow
  repeat' (first
    | with_reducible rfl
    | simp only [keepPower_mk, keepPower_fold, ite_keepPower, ite_self, implies_true, keepPower_reactNow, keepPower_vioFall]
    | refine (keepPower_each _ _ (fun a s => ?_) _).trans ?_
    | split)

theorem keepPower_pgGood (i : Nat) (s : State) : (pgGood i s).keepPower = s.keepPower := by
  unfold pgGood
  repeat' (first
    | with_reducible rfl
    | simp only [keepPower_mk, keepPower_fold, ite_keepPower, ite_self, implies_true, keepPower_modRail, keepPower_setRState]
    | refine (keepPower_each _ _ (fun a s => ?_) _).trans ?_
    | split)

theorem keepPower_pgLostNow (i : Nat) (s : State) : (pgLostNow i s).keepPower = s.keepPower := by
  unfold pgLostNow
  repeat' (first
    | with_reducible rfl
    | simp only [keepPower_mk, keepPower_fold, ite_keepPower, ite_self, implies_true, keepPower_modRail, keepPower_judgePg, keepPower_reactNow]
    | refine (keepPower_each _ _ (fun a s => ?_) _).trans ?_
    | split)

theorem keepPower_pgLateNow (i : Nat) (s : State) : (pgLateNow i s).keepPower = s.keepPower := by
  unfold pgLateNow
  repeat' (first
    | with_reducible rfl
    | simp only [keepPower_mk, keepPower_fold, ite_keepPower, ite_self, implies_true, keepPower_modRail, keepPower_judgeLate,
        keepPower_reactNow]
    | refine (keepPower_each _ _ (fun a s => ?_) _).trans ?_
    | split)

theorem keepPower_enShortNow (i : Nat) (hi ilim : Bool) (s : State) : (enShortNow i hi ilim s).keepPower = s.keepPower := by
  unfold enShortNow
  repeat' (first
    | with_reducible rfl
    | simp only [keepPower_mk, keepPower_fold, ite_keepPower, ite_self, implies_true, keepPower_modRail, keepPower_detect, keepPower_reactNow]
    | refine (keepPower_each _ _ (fun a s => ?_) _).trans ?_
    | split)

theorem keepPower_enOpenNow (i : Nat) (s : State) : (enOpenNow i s).keepPower = s.keepPower := by
  unfold enOpenNow
  repeat' (first
    | with_reducible rfl
    | simp only [keepPower_mk, keepPower_fold, ite_keepPower, ite_self, implies_true, keepPower_modRail, keepPower_detect, keepPower_reactNow]
    | refine (keepPower_each _ _ (fun a s => ?_) _).trans ?_
    | split)

theorem keepPower_assistNow (i : Nat) (s : State) : (assistNow i s).keepPower = s.keepPower := by
  unfold assistNow
  repeat' (first
    | with_reducible rfl
    | simp only [keepPower_mk, keepPower_fold, ite_keepPower, ite_self, implies_true, keepPower_modRail]
    | refine (keepPower_each _ _ (fun a s => ?_) _).trans ?_
    | split)

theorem keepPower_assistResultNow (i : Nat) (ilim : Bool) (s : State) : (assistResultNow i ilim s).keepPower = s.keepPower := by
  unfold assistResultNow
  repeat' (first
    | with_reducible rfl
    | simp only [keepPower_mk, keepPower_fold, ite_keepPower, ite_self, implies_true, keepPower_assistResult, keepPower_reactNow]
    | refine (keepPower_each _ _ (fun a s => ?_) _).trans ?_
    | split)

theorem keepPower_pgOpenTestNow (i : Nat) (level : Bool) (s : State) : (pgOpenTestNow i level s).keepPower = s.keepPower := by
  unfold pgOpenTestNow
  repeat' (first
    | with_reducible rfl
    | simp only [keepPower_mk, keepPower_fold, ite_keepPower, ite_self, implies_true, keepPower_modRail, keepPower_owCount, keepPower_reactNow]
    | refine (keepPower_each _ _ (fun a s => ?_) _).trans ?_
    | split)

theorem keepPower_pgStuckNow (i : Nat) (s : State) : (pgStuckNow i s).keepPower = s.keepPower := by
  unfold pgStuckNow
  repeat' (first
    | with_reducible rfl
    | simp only [keepPower_mk, keepPower_fold, ite_keepPower, ite_self, implies_true, keepPower_modRail, keepPower_detect, keepPower_reactNow]
    | refine (keepPower_each _ _ (fun a s => ?_) _).trans ?_
    | split)

theorem keepPower_foldNow (i : Nat) (s : State) : (foldNow i s).keepPower = s.keepPower := by
  unfold foldNow
  repeat' (first
    | with_reducible rfl
    | simp only [keepPower_mk, keepPower_fold, ite_keepPower, ite_self, implies_true, keepPower_foldBack]
    | refine (keepPower_each _ _ (fun a s => ?_) _).trans ?_
    | split)

theorem keepPower_minOffNow (i : Nat) (s : State) : (minOffNow i s).keepPower = s.keepPower := by
  unfold minOffNow
  repeat' (first
    | with_reducible rfl
    | simp only [keepPower_mk, keepPower_fold, ite_keepPower, ite_self, implies_true, keepPower_modRail]
    | refine (keepPower_each _ _ (fun a s => ?_) _).trans ?_
    | split)

theorem keepPower_edgeLatch (i cyc : Nat) (s : State) : (edgeLatch i cyc s).keepPower = s.keepPower := by
  unfold edgeLatch
  repeat' (first
    | with_reducible rfl
    | simp only [keepPower_mk, keepPower_fold, ite_keepPower, ite_self, implies_true, keepPower_modRail]
    | refine (keepPower_each _ _ (fun a s => ?_) _).trans ?_
    | split)

theorem keepPower_settleNow (i : Nat) (s : State) : (settleNow i s).keepPower = s.keepPower := by
  unfold settleNow
  repeat' (first
    | with_reducible rfl
    | simp only [keepPower_mk, keepPower_fold, ite_keepPower, ite_self, implies_true, keepPower_marginPut]
    | refine (keepPower_each _ _ (fun a s => ?_) _).trans ?_
    | split)

theorem keepPower_judged (f : State → State) (s : State) (hf : ∀ s, (f s).keepPower = s.keepPower) : (judged f s).keepPower = s.keepPower := by
  unfold judged
  repeat' (first
    | with_reducible rfl
    | simp only [keepPower_mk, keepPower_fold, ite_keepPower, ite_self, implies_true, keepPower_judgeDomain, keepPower_progsTell,
        keepPower_sysrstUp, hf]
    | refine (keepPower_each _ _ (fun a s => ?_) _).trans ?_
    | split)

theorem keepPower_delayNow (n : Nat) (s : State) : (delayNow n s).keepPower = s.keepPower := by
  unfold delayNow
  repeat' (first
    | with_reducible rfl
    | simp only [keepPower_mk, keepPower_fold, ite_keepPower, ite_self, implies_true, keepPower_modItem, keepPower_runStep]
    | refine (keepPower_each _ _ (fun a s => ?_) _).trans ?_
    | split)

theorem keepPower_deadlineNow (n : Nat) (s : State) : (deadlineNow n s).keepPower = s.keepPower := by
  unfold deadlineNow
  repeat' (first
    | with_reducible rfl
    | simp only [keepPower_mk, keepPower_fold, ite_keepPower, ite_self, implies_true, keepPower_modProg, keepPower_runProg]
    | refine (keepPower_each _ _ (fun a s => ?_) _).trans ?_
    | split)

theorem keepPower_limitNow (s : State) : (limitNow s).keepPower = s.keepPower := by
  unfold limitNow
  repeat' (first
    | with_reducible rfl
    | simp only [keepPower_mk, keepPower_fold, ite_keepPower, ite_self, implies_true, keepPower_limitExpire]
    | refine (keepPower_each _ _ (fun a s => ?_) _).trans ?_
    | split)

theorem keepPower_pauseNow (s : State) : (pauseNow s).keepPower = s.keepPower := by
  unfold pauseNow
  repeat' (first
    | with_reducible rfl
    | simp only [keepPower_mk, keepPower_fold, ite_keepPower, ite_self, implies_true, keepPower_offWalk]
    | refine (keepPower_each _ _ (fun a s => ?_) _).trans ?_
    | split)

theorem keepPower_dischNow (i : Nat) (s : State) : (dischNow i s).keepPower = s.keepPower := by
  unfold dischNow
  repeat' (first
    | with_reducible rfl
    | simp only [keepPower_mk, keepPower_fold, ite_keepPower, ite_self, implies_true, keepPower_modRail]
    | refine (keepPower_each _ _ (fun a s => ?_) _).trans ?_
    | split)

theorem keepPower_heldNow (s : State) : (heldNow s).keepPower = s.keepPower := by
  unfold heldNow
  repeat' (first
    | with_reducible rfl
    | simp only [keepPower_mk, keepPower_fold, ite_keepPower, ite_self, implies_true, keepPower_launchOnSet]
    | refine (keepPower_each _ _ (fun a s => ?_) _).trans ?_
    | split)

theorem keepPower_backoffNow (i : Nat) (s : State) : (backoffNow i s).keepPower = s.keepPower := by
  unfold backoffNow
  repeat' (first
    | with_reducible rfl
    | simp only [keepPower_mk, keepPower_fold, ite_keepPower, ite_self, implies_true, keepPower_modRail, keepPower_backoffEnd]
    | refine (keepPower_each _ _ (fun a s => ?_) _).trans ?_
    | split)

theorem keepPower_healNow (i : Nat) (s : State) : (healNow i s).keepPower = s.keepPower := by
  unfold healNow
  repeat' (first
    | with_reducible rfl
    | simp only [keepPower_mk, keepPower_fold, ite_keepPower, ite_self, implies_true, keepPower_modRail]
    | refine (keepPower_each _ _ (fun a s => ?_) _).trans ?_
    | split)

theorem keepPower_groupNow (n : Nat) (s : State) : (groupNow n s).keepPower = s.keepPower := by
  unfold groupNow
  repeat' (first
    | with_reducible rfl
    | simp only [keepPower_mk, keepPower_fold, ite_keepPower, ite_self, implies_true, keepPower_modGrp, keepPower_groupPolicy,
        keepPower_groupRestartDue]
    | refine (keepPower_each _ _ (fun a s => ?_) _).trans ?_
    | split)

theorem keepPower_restartNow (s : State) : (restartNow s).keepPower = s.keepPower := by
  unfold restartNow
  repeat' (first
    | with_reducible rfl
    | simp only [keepPower_mk, keepPower_fold, ite_keepPower, ite_self, implies_true, keepPower_restartDue]
    | refine (keepPower_each _ _ (fun a s => ?_) _).trans ?_
    | split)

theorem keepPower_windowNow (s : State) : (windowNow s).keepPower = s.keepPower := by
  unfold windowNow
  repeat' (first
    | with_reducible rfl
    | simp only [keepPower_mk, keepPower_fold, ite_keepPower, ite_self, implies_true, keepPower_windowDue]
    | refine (keepPower_each _ _ (fun a s => ?_) _).trans ?_
    | split)

theorem keepPower_rstNow (s : State) : (rstNow s).keepPower = s.keepPower := by
  unfold rstNow
  repeat' (first
    | with_reducible rfl
    | simp only [keepPower_mk, keepPower_fold, ite_keepPower, ite_self, implies_true, keepPower_sysrstDue]
    | refine (keepPower_each _ _ (fun a s => ?_) _).trans ?_
    | split)

theorem keepPower_graceNow (s : State) : (graceNow s).keepPower = s.keepPower := by
  unfold graceNow
  repeat' (first
    | with_reducible rfl
    | simp only [keepPower_mk, keepPower_fold, ite_keepPower, ite_self, implies_true, keepPower_releaseAll]
    | refine (keepPower_each _ _ (fun a s => ?_) _).trans ?_
    | split)

theorem keepPower_onStage (st : Nat) (f : State → State) (s : State) (hf : ∀ s, (f s).keepPower = s.keepPower) : (onStage st f s).keepPower
    = s.keepPower := by
  unfold onStage
  repeat' (first
    | with_reducible rfl
    | simp only [keepPower_mk, keepPower_fold, ite_keepPower, ite_self, implies_true, hf]
    | refine (keepPower_each _ _ (fun a s => ?_) _).trans ?_
    | split)

theorem keepPower_regulateNow (st : Nat) (s : State) : (regulateNow st s).keepPower = s.keepPower := by
  unfold regulateNow
  repeat' (first
    | with_reducible rfl
    | simp only [keepPower_mk, keepPower_fold, ite_keepPower, ite_self, implies_true, keepPower_modStg, keepPower_stageTell]
    | refine (keepPower_each _ _ (fun a s => ?_) _).trans ?_
    | split)

theorem keepPower_kindleTimeout (st : Nat) (s : State) : (kindleTimeout st s).keepPower = s.keepPower := by
  unfold kindleTimeout
  repeat' (first
    | with_reducible rfl
    | simp only [keepPower_mk, keepPower_fold, ite_keepPower, ite_self, implies_true, keepPower_modStg, keepPower_reactIn, keepPower_stageFault]
    | refine (keepPower_each _ _ (fun a s => ?_) _).trans ?_
    | split)

theorem keepPower_hiccupNow (st : Nat) (s : State) : (hiccupNow st s).keepPower = s.keepPower := by
  unfold hiccupNow
  repeat' (first
    | with_reducible rfl
    | simp only [keepPower_mk, keepPower_fold, ite_keepPower, ite_self, implies_true, keepPower_modStg, keepPower_hiccupStep,
        keepPower_reactIn, keepPower_stageFaults]
    | refine (keepPower_each _ _ (fun a s => ?_) _).trans ?_
    | split)

theorem keepPower_hiccupOver (st : Nat) (s : State) : (hiccupOver st s).keepPower = s.keepPower := by
  unfold hiccupOver
  repeat' (first
    | with_reducible rfl
    | simp only [keepPower_mk, keepPower_fold, ite_keepPower, ite_self, implies_true, keepPower_modStg, keepPower_hiccupEnd]
    | refine (keepPower_each _ _ (fun a s => ?_) _).trans ?_
    | split)

theorem keepPower_hicHeal (st : Nat) (s : State) : (hicHeal st s).keepPower = s.keepPower := by
  unfold hicHeal
  repeat' (first
    | with_reducible rfl
    | simp only [keepPower_mk, keepPower_fold, ite_keepPower, ite_self, implies_true, keepPower_modStg]
    | refine (keepPower_each _ _ (fun a s => ?_) _).trans ?_
    | split)

theorem keepPower_monitorFault (st cause : Nat) (s : State) : (monitorFault st cause s).keepPower = s.keepPower := by
  unfold monitorFault
  repeat' (first
    | with_reducible rfl
    | simp only [keepPower_mk, keepPower_fold, ite_keepPower, ite_self, implies_true, keepPower_reactIn, keepPower_stageFaults,
        keepPower_stgFound]
    | refine (keepPower_each _ _ (fun a s => ?_) _).trans ?_
    | split)

theorem keepPower_senseOpenNow (st : Nat) (legs : List Int) (s : State) : (senseOpenNow st legs s).keepPower = s.keepPower := by
  unfold senseOpenNow
  repeat' (first
    | with_reducible rfl
    | simp only [keepPower_mk, keepPower_fold, ite_keepPower, ite_self, implies_true, keepPower_modStg, keepPower_monitorFault]
    | refine (keepPower_each _ _ (fun a s => ?_) _).trans ?_
    | split)

theorem keepPower_frozenNow (st : Nat) (s : State) : (frozenNow st s).keepPower = s.keepPower := by
  unfold frozenNow
  repeat' (first
    | with_reducible rfl
    | simp only [keepPower_mk, keepPower_fold, ite_keepPower, ite_self, implies_true, keepPower_monitorFault]
    | refine (keepPower_each _ _ (fun a s => ?_) _).trans ?_
    | split)

theorem keepPower_nofbNow (st : Nat) (s : State) : (nofbNow st s).keepPower = s.keepPower := by
  unfold nofbNow
  repeat' (first
    | with_reducible rfl
    | simp only [keepPower_mk, keepPower_fold, ite_keepPower, ite_self, implies_true, keepPower_modStg, keepPower_monitorFault]
    | refine (keepPower_each _ _ (fun a s => ?_) _).trans ?_
    | split)

theorem keepPower_ovNow (st : Nat) (s : State) : (ovNow st s).keepPower = s.keepPower := by
  unfold ovNow
  repeat' (first
    | with_reducible rfl
    | simp only [keepPower_mk, keepPower_fold, ite_keepPower, ite_self, implies_true, keepPower_monitorFault]
    | refine (keepPower_each _ _ (fun a s => ?_) _).trans ?_
    | split)

theorem keepPower_uvNow (st : Nat) (s : State) : (uvNow st s).keepPower = s.keepPower := by
  unfold uvNow
  repeat' (first
    | with_reducible rfl
    | simp only [keepPower_mk, keepPower_fold, ite_keepPower, ite_self, implies_true, keepPower_monitorFault]
    | refine (keepPower_each _ _ (fun a s => ?_) _).trans ?_
    | split)

theorem keepPower_floorNow (st : Nat) (s : State) : (floorNow st s).keepPower = s.keepPower := by
  unfold floorNow
  repeat' (first
    | with_reducible rfl
    | simp only [keepPower_mk, keepPower_fold, ite_keepPower, ite_self, implies_true, keepPower_modStg, keepPower_stgEvent]
    | refine (keepPower_each _ _ (fun a s => ?_) _).trans ?_
    | split)

theorem keepPower_stageBackoffNow (st : Nat) (s : State) : (stageBackoffNow st s).keepPower = s.keepPower := by
  unfold stageBackoffNow
  repeat' (first
    | with_reducible rfl
    | simp only [keepPower_mk, keepPower_fold, ite_keepPower, ite_self, implies_true, keepPower_modStg, keepPower_stageBackoffEnd]
    | refine (keepPower_each _ _ (fun a s => ?_) _).trans ?_
    | split)

theorem keepPower_retryHeal (st : Nat) (s : State) : (retryHeal st s).keepPower = s.keepPower := by
  unfold retryHeal
  repeat' (first
    | with_reducible rfl
    | simp only [keepPower_mk, keepPower_fold, ite_keepPower, ite_self, implies_true, keepPower_modStg]
    | refine (keepPower_each _ _ (fun a s => ?_) _).trans ?_
    | split)

theorem keepPower_joinDone (s : State) : (joinDone s).keepPower = s.keepPower := by
  unfold joinDone
  repeat' (first
    | with_reducible rfl
    | simp only [keepPower_mk, keepPower_fold, ite_keepPower, ite_self, implies_true, keepPower_onRequestNow]
    | refine (keepPower_each _ _ (fun a s => ?_) _).trans ?_
    | split)

theorem keepPower_holdStages (s : State) : (holdStages s).keepPower = s.keepPower := by
  unfold holdStages
  repeat' (first
    | with_reducible rfl
    | simp only [keepPower_mk, keepPower_fold, ite_keepPower, ite_self, implies_true, keepPower_each, keepPower_stageHalt]
    | refine (keepPower_each _ _ (fun a s => ?_) _).trans ?_
    | split)

theorem keepPower_takeRole (r : Nat) (s : State) : (takeRole r s).keepPower = s.keepPower := by
  unfold takeRole
  repeat' (first
    | with_reducible rfl
    | simp only [keepPower_mk, keepPower_fold, ite_keepPower, ite_self, implies_true, keepPower_holdStages, keepPower_joinDone]
    | refine (keepPower_each _ _ (fun a s => ?_) _).trans ?_
    | split)

theorem keepPower_memberLoss (m : Nat) (s : State) : (memberLoss m s).keepPower = s.keepPower := by
  unfold memberLoss
  repeat' (first
    | with_reducible rfl
    | simp only [keepPower_mk, keepPower_fold, ite_keepPower, ite_self, implies_true, keepPower_offRelay, keepPower_offRequest, keepPower_raise]
    | refine (keepPower_each _ _ (fun a s => ?_) _).trans ?_
    | split)

theorem keepPower_stackJoinEnd (s : State) : (stackJoinEnd s).keepPower = s.keepPower := by
  unfold stackJoinEnd
  repeat' (first
    | with_reducible rfl
    | simp only [keepPower_mk, keepPower_fold, ite_keepPower, ite_self, implies_true, keepPower_joinDone, keepPower_raise]
    | refine (keepPower_each _ _ (fun a s => ?_) _).trans ?_
    | split)

theorem keepPower_pairAlone (s : State) : (pairAlone s).keepPower = s.keepPower := by
  unfold pairAlone
  repeat' (first
    | with_reducible rfl
    | simp only [keepPower_mk, keepPower_fold, ite_keepPower, ite_self, implies_true, keepPower_raise, keepPower_takeRole]
    | refine (keepPower_each _ _ (fun a s => ?_) _).trans ?_
    | split)

theorem keepPower_xrstReleased (s : State) : (xrstReleased s).keepPower = s.keepPower := by
  unfold xrstReleased
  repeat' (first
    | with_reducible rfl
    | simp only [keepPower_mk, keepPower_fold, ite_keepPower, ite_self, implies_true, keepPower_each, keepPower_leaveHiz, keepPower_stageHalt]
    | refine (keepPower_each _ _ (fun a s => ?_) _).trans ?_
    | split)

theorem keepPower_bootOnRequest (s : State) : (bootOnRequest s).keepPower = s.keepPower := by
  unfold bootOnRequest
  repeat' (first
    | with_reducible rfl
    | simp only [keepPower_mk, keepPower_fold, ite_keepPower, ite_self, implies_true, keepPower_emit, keepPower_fullRestart,
        keepPower_jInternal, keepPower_onRequestNow]
    | refine (keepPower_each _ _ (fun a s => ?_) _).trans ?_
    | split)

theorem keepPower_classSyncNow (s : State) : (classSyncNow s).keepPower = s.keepPower := by
  unfold classSyncNow
  repeat' (first
    | with_reducible rfl
    | simp only [keepPower_mk, keepPower_fold, ite_keepPower, ite_self, implies_true, keepPower_syncExpire]
    | refine (keepPower_each _ _ (fun a s => ?_) _).trans ?_
    | split)


end Sys2Proof.Machine
end

