-- ==== Sys2Proof/Laws/FrameStore.lean ====
section
/-! SUPPORT. FrameStore.lean: the operations behind the store family of commands leave the state outside that family's
own parts as it is, one lemma per operation (the frame statements go through these). -/

set_option linter.all false
set_option linter.unusedSimpArgs false
set_option linter.unreachableTactic false
set_option linter.unusedTactic false
namespace Sys2Proof.Machine

/-- What no command of this family touches. -/
def State.keepStore (s : State) :=
  (s.pending, s.clk, s.engs, s.ovrStat, s.ovrNow, s.bar0, s.cfg, s.setup, s.coef, s.banks, s.mdacs, s.pmb, s.watches, s.seq, s.off, s.flt, s.drt, s.dmp, s.shr, s.inl, s.cnv, s.stgs, s.phases, s.free)

theorem keepStore_mk (a b c d e f g h i j k l m n o p q r u v w x y z a1 b1 c1 d1 e1 f1 g1 h1 i1 j1 k1 l1) :
    State.keepStore (State.mk a b c d e f g h i j k l m n o p q r u v w x y z a1 b1 c1 d1 e1 f1 g1 h1 i1 j1 k1 l1) =
      (a, b, c, d, e, k, l, m, n, p, q, r, u, v, w, x, y, z, a1, b1, c1, d1, e1, k1) := rfl

theorem keepStore_fold (s : State) : (s.pending, s.clk, s.engs, s.ovrStat, s.ovrNow, s.bar0, s.cfg, s.setup, s.coef, s.banks, s.mdacs, s.pmb, s.watches, s.seq, s.off, s.flt, s.drt, s.dmp, s.shr, s.inl, s.cnv, s.stgs, s.phases, s.free) = s.keepStore := rfl

theorem ite_keepStore (c : Prop) [Decidable c] (a b : State) :
    State.keepStore (if c then a else b) = if c then a.keepStore else b.keepStore := by split <;> rfl

theorem keepStore_each {α : Type} (l : List α) (f : α → State → State) (hf : ∀ a s, (f a s).keepStore = s.keepStore) (s : State) :
    (each l f s).keepStore = s.keepStore := by
  unfold each
  induction l generalizing s with
  | nil => rfl
  | cons a l ih => exact (ih _).trans (hf a s)

theorem keepStore_foldl {α β : Type} (g : β → State) (f : β → α → β) (hf : ∀ b a, (g (f b a)).keepStore = (g b).keepStore)
    (l : List α) (b : β) : (g (l.foldl f b)).keepStore = (g b).keepStore := by
  induction l generalizing b with
  | nil => rfl
  | cons a l ih => exact (ih _).trans (hf b a)

theorem keepStore_modRail (i : Nat) (f : Rail → Rail) (s : State) : (State.modRail i f s).keepStore = s.keepStore := by
  unfold State.modRail
  repeat' (first
    | with_reducible rfl
    | simp only [keepStore_mk, keepStore_fold, ite_keepStore, ite_self, implies_true]
    | refine (keepStore_each _ _ (fun a s => ?_) _).trans ?_
    | split)

theorem keepStore_modPort (i : Nat) (f : Port → Port) (s : State) : (State.modPort i f s).keepStore = s.keepStore := by
  unfold State.modPort
  repeat' (first
    | with_reducible rfl
    | simp only [keepStore_mk, keepStore_fold, ite_keepStore, ite_self, implies_true]
    | refine (keepStore_each _ _ (fun a s => ?_) _).trans ?_
    | split)

theorem keepStore_modCgrp (i : Nat) (f : CGroup → CGroup) (s : State) : (State.modCgrp i f s).keepStore = s.keepStore := by
  unfold State.modCgrp
  repeat' (first
    | with_reducible rfl
    | simp only [keepStore_mk, keepStore_fold, ite_keepStore, ite_self, implies_true]
    | refine (keepStore_each _ _ (fun a s => ?_) _).trans ?_
    | split)

theorem keepStore_emit (o : Out) (s : State) : (emit o s).keepStore = s.keepStore := by
  unfold emit
  repeat' (first
    | with_reducible rfl
    | simp only [keepStore_mk, keepStore_fold, ite_keepStore, ite_self, implies_true]
    | refine (keepStore_each _ _ (fun a s => ?_) _).trans ?_
    | split)

theorem keepStore_ashAdd (n : Nat) (s : State) : (ashAdd n s).keepStore = s.keepStore := by
  unfold ashAdd
  repeat' (first
    | with_reducible rfl
    | simp only [keepStore_mk, keepStore_fold, ite_keepStore, ite_self, implies_true]
    | refine (keepStore_each _ _ (fun a s => ?_) _).trans ?_
    | split
    | rfl)

theorem keepStore_capture (o : Occ) (s : State) : (capture o s).keepStore = s.keepStore := by
  unfold capture
  repeat' (first
    | with_reducible rfl
    | simp only [keepStore_mk, keepStore_fold, ite_keepStore, ite_self, implies_true, keepStore_ashAdd]
    | refine (keepStore_each _ _ (fun a s => ?_) _).trans ?_
    | split
    | rfl)

theorem keepStore_raiseCore (o : Occ) (s : State) : (raiseCore o s).keepStore = s.keepStore := by
  unfold raiseCore
  repeat' (first
    | with_reducible rfl
    | simp only [keepStore_mk, keepStore_fold, ite_keepStore, ite_self, implies_true, keepStore_capture]
    | refine (keepStore_each _ _ (fun a s => ?_) _).trans ?_
    | split
    | rfl)

theorem keepStore_ashEvent (old : Nat) (s : State) : (ashEvent old s).keepStore = s.keepStore := by
  unfold ashEvent
  repeat' (first
    | with_reducible rfl
    | simp only [keepStore_mk, keepStore_fold, ite_keepStore, ite_self, implies_true, keepStore_raiseCore]
    | refine (keepStore_each _ _ (fun a s => ?_) _).trans ?_
    | split)

theorem keepStore_raiseSev (src sev : Nat) (ts : Ts) (d : BitVec 128) (s : State) : (raiseSev src sev ts d s).keepStore = s.keepStore :=
    by
  unfold raiseSev
  repeat' (first
    | with_reducible rfl
    | simp only [keepStore_mk, keepStore_fold, ite_keepStore, ite_self, implies_true, keepStore_ashEvent, keepStore_raiseCore]
    | refine (keepStore_each _ _ (fun a s => ?_) _).trans ?_
    | split)

theorem keepStore_raise (src : Nat) (ts : Ts) (d : BitVec 128) (s : State) : (raise src ts d s).keepStore = s.keepStore := by
  unfold raise
  repeat' (first
    | with_reducible rfl
    | simp only [keepStore_mk, keepStore_fold, ite_keepStore, ite_self, implies_true, keepStore_raiseSev]
    | refine (keepStore_each _ _ (fun a s => ?_) _).trans ?_
    | split)

theorem keepStore_ashRise (n : Nat) (s : State) : (ashRise n s).keepStore = s.keepStore := by
  unfold ashRise
  repeat' (first
    | with_reducible rfl
    | simp only [keepStore_mk, keepStore_fold, ite_keepStore, ite_self, implies_true, keepStore_ashAdd, keepStore_ashEvent]
    | refine (keepStore_each _ _ (fun a s => ?_) _).trans ?_
    | split)

theorem keepStore_wcWritten (struct addr : Nat) (s : State) : (wcWritten struct addr s).keepStore = s.keepStore := by
  unfold wcWritten
  repeat' (first
    | with_reducible rfl
    | simp only [keepStore_mk, keepStore_fold, ite_keepStore, ite_self, implies_true]
    | refine (keepStore_each _ _ (fun a s => ?_) _).trans ?_
    | split)

theorem keepStore_wcRenew (p : Nat → Bool) (s : State) : (wcRenew p s).keepStore = s.keepStore := by
  unfold wcRenew
  repeat' (first
    | with_reducible rfl
    | simp only [keepStore_mk, keepStore_fold, ite_keepStore, ite_self, implies_true]
    | refine (keepStore_each _ _ (fun a s => ?_) _).trans ?_
    | split)

theorem keepStore_wordErr (ts : Ts) (struct addr : Nat) (o : WcOut) (s : State) : (wordErr ts struct addr o s).keepStore = s.keepStore
    := by
  unfold wordErr
  repeat' (first
    | with_reducible rfl
    | simp only [keepStore_mk, keepStore_fold, ite_keepStore, ite_self, implies_true]
    | refine (keepStore_each _ _ (fun a s => ?_) _).trans ?_
    | split)

theorem keepStore_linkFrameOf (kind : Nat) (dst : Option Nat) (v : Nat) (s : State) : (linkFrameOf kind dst v s).2.keepStore =
    s.keepStore := by
  unfold linkFrameOf
  repeat' (first
    | with_reducible rfl
    | simp only [keepStore_mk, keepStore_fold, ite_keepStore, ite_self, implies_true]
    | refine (keepStore_each _ _ (fun a s => ?_) _).trans ?_
    | split)

theorem keepStore_queueFrame (p : Nat) (f : LinkTx) (s : State) : (queueFrame p f s).keepStore = s.keepStore := by
  unfold queueFrame
  repeat' (first
    | with_reducible rfl
    | simp only [keepStore_mk, keepStore_fold, ite_keepStore, ite_self, implies_true, keepStore_modPort]
    | refine (keepStore_each _ _ (fun a s => ?_) _).trans ?_
    | split)

theorem keepStore_sendEntry (e : JEntry) (s : State) : (sendEntry e s).keepStore = s.keepStore := by
  unfold sendEntry
  repeat' (first
    | with_reducible rfl
    | simp only [keepStore_mk, keepStore_fold, ite_keepStore, ite_self, implies_true, keepStore_linkFrameOf, keepStore_queueFrame]
    | refine (keepStore_each _ _ (fun a s => ?_) _).trans ?_
    | split)

theorem keepStore_pairJournal (e : JEntry) (s : State) : (pairJournal e s).keepStore = s.keepStore := by
  unfold pairJournal
  repeat' (first
    | with_reducible rfl
    | simp only [keepStore_mk, keepStore_fold, ite_keepStore, ite_self, implies_true, keepStore_sendEntry]
    | refine (keepStore_each _ _ (fun a s => ?_) _).trans ?_
    | split)

theorem keepStore_jAppend (e : JEntry) (s : State) : (jAppend e s).keepStore = s.keepStore := by
  unfold jAppend
  repeat' (first
    | with_reducible rfl
    | simp only [keepStore_mk, keepStore_fold, ite_keepStore, ite_self, implies_true, keepStore_pairJournal, keepStore_wcWritten]
    | refine (keepStore_each _ _ (fun a s => ?_) _).trans ?_
    | split)

theorem keepStore_jInternal (op src digest result : Nat) (persist : Bool) (s : State) : (jInternal op src digest result persist
    s).keepStore = s.keepStore := by
  unfold jInternal
  repeat' (first
    | with_reducible rfl
    | simp only [keepStore_mk, keepStore_fold, ite_keepStore, ite_self, implies_true, keepStore_jAppend]
    | refine (keepStore_each _ _ (fun a s => ?_) _).trans ?_
    | split)

theorem keepStore_finishAt (d q status result : Nat) (s : State) : (finishAt d q status result s).keepStore = s.keepStore := by
  unfold finishAt
  repeat' (first
    | with_reducible rfl
    | simp only [keepStore_mk, keepStore_fold, ite_keepStore, ite_self, implies_true]
    | refine (keepStore_each _ _ (fun a s => ?_) _).trans ?_
    | split)

theorem keepStore_onRail (i : Nat) (f : State → State) (s : State) (hf : ∀ s, (f s).keepStore = s.keepStore) : (onRail i f s).keepStore =
    s.keepStore := by
  unfold onRail
  repeat' (first
    | with_reducible rfl
    | simp only [keepStore_mk, keepStore_fold, ite_keepStore, ite_self, implies_true, hf]
    | refine (keepStore_each _ _ (fun a s => ?_) _).trans ?_
    | split)

theorem keepStore_flashPut (a : Nat) (w : Codeword) (s : State) : (flashPut a w s).keepStore = s.keepStore := by
  unfold flashPut
  repeat' (first
    | with_reducible rfl
    | simp only [keepStore_mk, keepStore_fold, ite_keepStore, ite_self, implies_true]
    | refine (keepStore_each _ _ (fun a s => ?_) _).trans ?_
    | split)

theorem keepStore_flashProgram (a : Nat) (w : W256) (s : State) : (flashProgram a w s).keepStore = s.keepStore := by
  unfold flashProgram
  repeat' (first
    | with_reducible rfl
    | simp only [keepStore_mk, keepStore_fold, ite_keepStore, ite_self, implies_true, keepStore_flashPut]
    | refine (keepStore_each _ _ (fun a s => ?_) _).trans ?_
    | split)

theorem keepStore_flashErase (n : Nat) (s : State) : (flashErase n s).keepStore = s.keepStore := by
  unfold flashErase
  repeat' (first
    | with_reducible rfl
    | simp only [keepStore_mk, keepStore_fold, ite_keepStore, ite_self, implies_true, keepStore_each, keepStore_flashPut]
    | refine (keepStore_each _ _ (fun a s => ?_) _).trans ?_
    | split)

theorem keepStore_bankProgram (b : Bool) (off : Nat) (bytes : List Byte) (s : State) : (bankProgram b off bytes s).keepStore =
    s.keepStore := by
  unfold bankProgram
  repeat' (first
    | with_reducible rfl
    | simp only [keepStore_mk, keepStore_fold, ite_keepStore, ite_self, implies_true, keepStore_each, keepStore_flashErase,
        keepStore_flashProgram]
    | refine (keepStore_each _ _ (fun a s => ?_) _).trans ?_
    | split)

theorem keepStore_eraseAsk (sector : Nat) (u : EraseUse) (s : State) : (eraseAsk sector u s).keepStore = s.keepStore := by
  unfold eraseAsk
  repeat' (first
    | with_reducible rfl
    | simp only [keepStore_mk, keepStore_fold, ite_keepStore, ite_self, implies_true]
    | refine (keepStore_each _ _ (fun a s => ?_) _).trans ?_
    | split)

theorem keepStore_beginCopy (j : Job) (l : List Job) (a : Nat) (s : State) : (beginCopy j l a s).keepStore = s.keepStore := by
  unfold beginCopy
  repeat' (first
    | with_reducible rfl
    | simp only [keepStore_mk, keepStore_fold, ite_keepStore, ite_self, implies_true]
    | refine (keepStore_each _ _ (fun a s => ?_) _).trans ?_
    | split)

theorem keepStore_nvBegin (s : State) : (nvBegin s).keepStore = s.keepStore := by
  unfold nvBegin
  repeat' (first
    | with_reducible rfl
    | simp only [keepStore_mk, keepStore_fold, ite_keepStore, ite_self, implies_true, keepStore_beginCopy, keepStore_eraseAsk]
    | refine (keepStore_each _ _ (fun a s => ?_) _).trans ?_
    | split)

theorem keepStore_nvWrite (u : JobUse) (q r : Nat) (s : State) : (nvWrite u q r s).keepStore = s.keepStore := by
  unfold nvWrite
  repeat' (first
    | with_reducible rfl
    | simp only [keepStore_mk, keepStore_fold, ite_keepStore, ite_self, implies_true, keepStore_nvBegin]
    | refine (keepStore_each _ _ (fun a s => ?_) _).trans ?_
    | split)

theorem keepStore_programWord (j : Job) (s : State) : (programWord j s).keepStore = s.keepStore := by
  unfold programWord
  repeat' (first
    | with_reducible rfl
    | simp only [keepStore_mk, keepStore_fold, ite_keepStore, ite_self, implies_true, keepStore_flashProgram]
    | refine (keepStore_each _ _ (fun a s => ?_) _).trans ?_
    | split)

theorem keepStore_accept (j : Job) (s : State) : (accept j s).keepStore = s.keepStore := by
  unfold accept
  repeat' (first
    | with_reducible rfl
    | simp only [keepStore_mk, keepStore_fold, ite_keepStore, ite_self, implies_true]
    | refine (keepStore_each _ _ (fun a s => ?_) _).trans ?_
    | split)

theorem keepStore_verifyFail (s : State) : (verifyFail s).keepStore = s.keepStore := by
  unfold verifyFail
  repeat' (first
    | with_reducible rfl
    | simp only [keepStore_mk, keepStore_fold, ite_keepStore, ite_self, implies_true, keepStore_raise]
    | refine (keepStore_each _ _ (fun a s => ?_) _).trans ?_
    | split)

theorem keepStore_programStep (s : State) : (programStep s).2.keepStore = s.keepStore := by
  unfold programStep
  repeat' (first
    | with_reducible rfl
    | simp only [keepStore_mk, keepStore_fold, ite_keepStore, ite_self, implies_true, keepStore_accept, keepStore_nvBegin,
        keepStore_programWord]
    | refine (keepStore_each _ _ (fun a s => ?_) _).trans ?_
    | split)

theorem keepStore_wearUp (n : Nat) (s : State) : (wearUp n s).keepStore = s.keepStore := by
  unfold wearUp
  repeat' (first
    | with_reducible rfl
    | simp only [keepStore_mk, keepStore_fold, ite_keepStore, ite_self, implies_true, keepStore_raise]
    | refine (keepStore_each _ _ (fun a s => ?_) _).trans ?_
    | split)

theorem keepStore_eraseDone (s : State) : (eraseDone s).keepStore = s.keepStore := by
  unfold eraseDone
  repeat' (first
    | with_reducible rfl
    | simp only [keepStore_mk, keepStore_fold, ite_keepStore, ite_self, implies_true, keepStore_flashErase, keepStore_nvBegin, keepStore_wearUp]
    | refine (keepStore_each _ _ (fun a s => ?_) _).trans ?_
    | split)

theorem keepStore_clearSlots (s : State) : (clearSlots s).keepStore = s.keepStore := by
  unfold clearSlots
  repeat' (first
    | with_reducible rfl
    | simp only [keepStore_mk, keepStore_fold, ite_keepStore, ite_self, implies_true, keepStore_each, keepStore_eraseAsk]
    | refine (keepStore_each _ _ (fun a s => ?_) _).trans ?_
    | split)

theorem keepStore_writeImage (im : Image) (q : Nat) (s : State) : (writeImage im q s).keepStore = s.keepStore := by
  unfold writeImage
  repeat' (first
    | with_reducible rfl
    | simp only [keepStore_mk, keepStore_fold, ite_keepStore, ite_self, implies_true, keepStore_nvWrite]
    | refine (keepStore_each _ _ (fun a s => ?_) _).trans ?_
    | split)

theorem keepStore_releaseImages (s : State) : (releaseImages s).keepStore = s.keepStore := by
  unfold releaseImages
  repeat' (first
    | with_reducible rfl
    | simp only [keepStore_mk, keepStore_fold, ite_keepStore, ite_self, implies_true, keepStore_each, keepStore_eraseAsk]
    | refine (keepStore_each _ _ (fun a s => ?_) _).trans ?_
    | split)

theorem keepStore_changeGen (g : GenState) (q r : Nat) (s : State) : (changeGen g q r s).keepStore = s.keepStore := by
  unfold changeGen
  repeat' (first
    | with_reducible rfl
    | simp only [keepStore_mk, keepStore_fold, ite_keepStore, ite_self, implies_true, keepStore_nvWrite]
    | refine (keepStore_each _ _ (fun a s => ?_) _).trans ?_
    | split)

theorem keepStore_beginProb (p : Nat) (s : State) : (beginProb p s).keepStore = s.keepStore := by
  unfold beginProb
  repeat' (first
    | with_reducible rfl
    | simp only [keepStore_mk, keepStore_fold, ite_keepStore, ite_self, implies_true]
    | refine (keepStore_each _ _ (fun a s => ?_) _).trans ?_
    | split
    | rfl)

theorem keepStore_confirmGen (q : Nat) (s : State) : (confirmGen q s).keepStore = s.keepStore := by
  unfold confirmGen
  repeat' (first
    | with_reducible rfl
    | simp only [keepStore_mk, keepStore_fold, ite_keepStore, ite_self, implies_true, keepStore_beginProb, keepStore_changeGen, keepStore_raise]
    | refine (keepStore_each _ _ (fun a s => ?_) _).trans ?_
    | split)

theorem keepStore_probExpiry (s : State) : (probExpiry s).keepStore = s.keepStore := by
  unfold probExpiry
  repeat' (first
    | with_reducible rfl
    | simp only [keepStore_mk, keepStore_fold, ite_keepStore, ite_self, implies_true, keepStore_confirmGen]
    | refine (keepStore_each _ _ (fun a s => ?_) _).trans ?_
    | split)

theorem keepStore_putSlots (i : Nat) (v : List Nat) (q : Nat) (s : State) : (putSlots i v q s).keepStore = s.keepStore := by
  unfold putSlots
  repeat' (first
    | with_reducible rfl
    | simp only [keepStore_mk, keepStore_fold, ite_keepStore, ite_self, implies_true, keepStore_modCgrp, keepStore_flashProgram]
    | refine (keepStore_each _ _ (fun a s => ?_) _).trans ?_
    | split)

theorem keepStore_putPair (i : Nat) (s : State) : (putPair i s).keepStore = s.keepStore := by
  unfold putPair
  repeat' (first
    | with_reducible rfl
    | simp only [keepStore_mk, keepStore_fold, ite_keepStore, ite_self, implies_true, keepStore_modRail, keepStore_putSlots]
    | refine (keepStore_each _ _ (fun a s => ?_) _).trans ?_
    | split)

theorem keepStore_switchGroup (g : Nat) (s : State) : (switchGroup g s).keepStore = s.keepStore := by
  unfold switchGroup
  repeat' (first
    | with_reducible rfl
    | simp only [keepStore_mk, keepStore_fold, ite_keepStore, ite_self, implies_true, keepStore_modCgrp, keepStore_each, keepStore_eraseAsk,
        keepStore_putPair]
    | refine (keepStore_each _ _ (fun a s => ?_) _).trans ?_
    | split)

theorem keepStore_ringUpdate (i : Nat) (s : State) : (ringUpdate i s).keepStore = s.keepStore := by
  unfold ringUpdate
  repeat' (first
    | with_reducible rfl
    | simp only [keepStore_mk, keepStore_fold, ite_keepStore, ite_self, implies_true, keepStore_putPair, keepStore_switchGroup]
    | refine (keepStore_each _ _ (fun a s => ?_) _).trans ?_
    | split)

theorem keepStore_mirrorAppend (e : JEntry) (s : State) : (mirrorAppend e s).keepStore = s.keepStore := by
  unfold mirrorAppend
  repeat' (first
    | with_reducible rfl
    | simp only [keepStore_mk, keepStore_fold, ite_keepStore, ite_self, implies_true, keepStore_flashProgram]
    | refine (keepStore_each _ _ (fun a s => ?_) _).trans ?_
    | split)

theorem keepStore_mirrorWrite (s : State) : (mirrorWrite s).keepStore = s.keepStore := by
  unfold mirrorWrite
  repeat' (first
    | with_reducible rfl
    | simp only [keepStore_mk, keepStore_fold, ite_keepStore, ite_self, implies_true, keepStore_eraseAsk, keepStore_mirrorAppend]
    | refine (keepStore_each _ _ (fun a s => ?_) _).trans ?_
    | split)

theorem keepStore_sweepStart (s : State) : (sweepStart s).keepStore = s.keepStore := by
  unfold sweepStart
  repeat' (first
    | with_reducible rfl
    | simp only [keepStore_mk, keepStore_fold, ite_keepStore, ite_self, implies_true, keepStore_nvWrite]
    | refine (keepStore_each _ _ (fun a s => ?_) _).trans ?_
    | split)

theorem keepStore_rewriteItem (k : Nat) (s : State) : (rewriteItem k s).keepStore = s.keepStore := by
  unfold rewriteItem
  repeat' (first
    | with_reducible rfl
    | simp only [keepStore_mk, keepStore_fold, ite_keepStore, ite_self, implies_true, keepStore_nvWrite]
    | refine (keepStore_each _ _ (fun a s => ?_) _).trans ?_
    | split)

theorem keepStore_copyRecord (sec slot : Nat) (s : State) : (copyRecord sec slot s).keepStore = s.keepStore := by
  unfold copyRecord
  repeat' (first
    | with_reducible rfl
    | simp only [keepStore_mk, keepStore_fold, ite_keepStore, ite_self, implies_true, keepStore_nvWrite]
    | refine (keepStore_each _ _ (fun a s => ?_) _).trans ?_
    | split)

theorem keepStore_rewriteWeak (a : Nat) (s : State) : (rewriteWeak a s).keepStore = s.keepStore := by
  unfold rewriteWeak
  repeat' (first
    | with_reducible rfl
    | simp only [keepStore_mk, keepStore_fold, ite_keepStore, ite_self, implies_true, keepStore_copyRecord, keepStore_mirrorAppend,
        keepStore_nvWrite, keepStore_putPair, keepStore_rewriteItem, keepStore_writeImage]
    | refine (keepStore_each _ _ (fun a s => ?_) _).trans ?_
    | split)

theorem keepStore_badFlashWord (a : Nat) (s : State) : (badFlashWord a s).keepStore = s.keepStore := by
  unfold badFlashWord
  repeat' (first
    | with_reducible rfl
    | simp only [keepStore_mk, keepStore_fold, ite_keepStore, ite_self, implies_true, keepStore_ashRise, keepStore_rewriteWeak,
        keepStore_wordErr]
    | refine (keepStore_each _ _ (fun a s => ?_) _).trans ?_
    | split)

theorem keepStore_sweepStep (weak bad : List Nat) (s : State) : (sweepStep weak bad s).keepStore = s.keepStore := by
  unfold sweepStep
  repeat' (first
    | with_reducible rfl
    | simp only [keepStore_mk, keepStore_fold, ite_keepStore, ite_self, implies_true, keepStore_badFlashWord, keepStore_each,
        keepStore_nvWrite, keepStore_raise, keepStore_rewriteWeak]
    | refine (keepStore_each _ _ (fun a s => ?_) _).trans ?_
    | split)

theorem keepStore_tailDone (s : State) : (tailDone s).keepStore = s.keepStore := by
  unfold tailDone
  repeat' (first
    | with_reducible rfl
    | simp only [keepStore_mk, keepStore_fold, ite_keepStore, ite_self, implies_true, keepStore_nvBegin, keepStore_programWord]
    | refine (keepStore_each _ _ (fun a s => ?_) _).trans ?_
    | split)

theorem keepStore_nvwpRefuse (q op : Nat) (s : State) : (nvwpRefuse q op s).keepStore = s.keepStore := by
  unfold nvwpRefuse
  repeat' (first
    | with_reducible rfl
    | simp only [keepStore_mk, keepStore_fold, ite_keepStore, ite_self, implies_true, keepStore_raise]
    | refine (keepStore_each _ _ (fun a s => ?_) _).trans ?_
    | split)

theorem keepStore_imgWritten (im : Img) (s : State) : (imgWritten im s).keepStore = s.keepStore := by
  unfold imgWritten
  repeat' (first
    | with_reducible rfl
    | simp only [keepStore_mk, keepStore_fold, ite_keepStore, ite_self, implies_true, keepStore_each, keepStore_wcWritten]
    | refine (keepStore_each _ _ (fun a s => ?_) _).trans ?_
    | split)

theorem keepStore_bufSet (im : Img) (s : State) : (bufSet im s).keepStore = s.keepStore := by
  unfold bufSet
  repeat' (first
    | with_reducible rfl
    | simp only [keepStore_mk, keepStore_fold, ite_keepStore, ite_self, implies_true, keepStore_imgWritten]
    | refine (keepStore_each _ _ (fun a s => ?_) _).trans ?_
    | split)

theorem keepStore_bufPut (im : Img) (s : State) : (bufPut im s).keepStore = s.keepStore := by
  unfold bufPut
  repeat' (first
    | with_reducible rfl
    | simp only [keepStore_mk, keepStore_fold, ite_keepStore, ite_self, implies_true, keepStore_ashRise, keepStore_imgWritten]
    | refine (keepStore_each _ _ (fun a s => ?_) _).trans ?_
    | split)

theorem keepStore_suppress (o : Occ) (s : State) : (suppress o s).keepStore = s.keepStore := by
  unfold suppress
  repeat' (first
    | with_reducible rfl
    | simp only [keepStore_mk, keepStore_fold, ite_keepStore, ite_self, implies_true, keepStore_bufPut, keepStore_bufSet]
    | refine (keepStore_each _ _ (fun a s => ?_) _).trans ?_
    | split)

theorem keepStore_recordMake (s : State) : (recordMake s).keepStore = s.keepStore := by
  unfold recordMake
  repeat' (first
    | with_reducible rfl
    | simp only [keepStore_mk, keepStore_fold, ite_keepStore, ite_self, implies_true, keepStore_bufPut, keepStore_suppress]
    | refine (keepStore_each _ _ (fun a s => ?_) _).trans ?_
    | split)

theorem keepStore_useSlot (k : Nat) (im : Img) (s : State) : (useSlot k im s).keepStore = s.keepStore := by
  unfold useSlot
  repeat' (first
    | with_reducible rfl
    | simp only [keepStore_mk, keepStore_fold, ite_keepStore, ite_self, implies_true]
    | refine (keepStore_each _ _ (fun a s => ?_) _).trans ?_
    | split)

theorem keepStore_eraseVictim (k : Nat) (s : State) : (eraseVictim k s).keepStore = s.keepStore := by
  unfold eraseVictim
  repeat' (first
    | with_reducible rfl
    | simp only [keepStore_mk, keepStore_fold, ite_keepStore, ite_self, implies_true, keepStore_ashRise, keepStore_eraseAsk]
    | refine (keepStore_each _ _ (fun a s => ?_) _).trans ?_
    | split)

theorem keepStore_placeRecord (im : Img) (s : State) : (placeRecord im s).2.keepStore = s.keepStore := by
  unfold placeRecord
  repeat' (first
    | with_reducible rfl
    | simp only [keepStore_mk, keepStore_fold, ite_keepStore, ite_self, implies_true, keepStore_eraseVictim, keepStore_useSlot]
    | refine (keepStore_each _ _ (fun a s => ?_) _).trans ?_
    | split)

theorem keepStore_placeEmber (im : Img) (s : State) : (placeEmber im s).2.keepStore = s.keepStore := by
  unfold placeEmber
  repeat' (first
    | with_reducible rfl
    | simp only [keepStore_mk, keepStore_fold, ite_keepStore, ite_self, implies_true, keepStore_useSlot]
    | refine (keepStore_each _ _ (fun a s => ?_) _).trans ?_
    | split)

theorem keepStore_recordStored (n : Nat) (im : Img) (s : State) : (recordStored n im s).keepStore = s.keepStore := by
  unfold recordStored
  repeat' (first
    | with_reducible rfl
    | simp only [keepStore_mk, keepStore_fold, ite_keepStore, ite_self, implies_true]
    | refine (keepStore_each _ _ (fun a s => ?_) _).trans ?_
    | split)

theorem keepStore_flushOne (im : Img) (s : State) : (flushOne im s).keepStore = s.keepStore := by
  unfold flushOne
  repeat' (first
    | with_reducible rfl
    | simp only [keepStore_mk, keepStore_fold, ite_keepStore, ite_self, implies_true, keepStore_ashRise, keepStore_nvWrite,
        keepStore_placeRecord]
    | refine (keepStore_each _ _ (fun a s => ?_) _).trans ?_
    | split)

theorem keepStore_recorderFlush (s : State) : (recorderFlush s).keepStore = s.keepStore := by
  unfold recorderFlush
  repeat' (first
    | with_reducible rfl
    | simp only [keepStore_mk, keepStore_fold, ite_keepStore, ite_self, implies_true, keepStore_each, keepStore_flushOne]
    | refine (keepStore_each _ _ (fun a s => ?_) _).trans ?_
    | split)

theorem keepStore_thaw (s : State) : (thaw s).keepStore = s.keepStore := by
  unfold thaw
  repeat' (first
    | with_reducible rfl
    | simp only [keepStore_mk, keepStore_fold, ite_keepStore, ite_self, implies_true, keepStore_bufSet, keepStore_raiseSev]
    | refine (keepStore_each _ _ (fun a s => ?_) _).trans ?_
    | split)

theorem keepStore_clearErasure (s : State) : (clearErasure s).keepStore = s.keepStore := by
  unfold clearErasure
  repeat' (first
    | with_reducible rfl
    | simp only [keepStore_mk, keepStore_fold, ite_keepStore, ite_self, implies_true, keepStore_each, keepStore_eraseAsk]
    | refine (keepStore_each _ _ (fun a s => ?_) _).trans ?_
    | split)

theorem keepStore_clearCommit (s : State) : (clearCommit s).keepStore = s.keepStore := by
  unfold clearCommit
  repeat' (first
    | with_reducible rfl
    | simp only [keepStore_mk, keepStore_fold, ite_keepStore, ite_self, implies_true, keepStore_finishAt, keepStore_raise]
    | refine (keepStore_each _ _ (fun a s => ?_) _).trans ?_
    | split)

theorem keepStore_nonceEnd (s : State) : (nonceEnd s).keepStore = s.keepStore := by
  unfold nonceEnd
  repeat' (first
    | with_reducible rfl
    | simp only [keepStore_mk, keepStore_fold, ite_keepStore, ite_self, implies_true]
    | refine (keepStore_each _ _ (fun a s => ?_) _).trans ?_
    | split)

theorem keepStore_emberFlush (n : Nat) (s : State) : (emberFlush n s).keepStore = s.keepStore := by
  unfold emberFlush
  repeat' (first
    | with_reducible rfl
    | simp only [keepStore_mk, keepStore_fold, ite_keepStore, ite_self, implies_true, keepStore_each, keepStore_flashProgram,
        keepStore_placeEmber, keepStore_recordStored]
    | refine (keepStore_each _ _ (fun a s => ?_) _).trans ?_
    | split)

theorem keepStore_answer (cmd tag status : Nat) (payload : List Byte) (s : State) : (answer cmd tag status payload s).keepStore =
    s.keepStore := by
  unfold answer
  repeat' (first
    | with_reducible rfl
    | simp only [keepStore_mk, keepStore_fold, ite_keepStore, ite_self, implies_true]
    | refine (keepStore_each _ _ (fun a s => ?_) _).trans ?_
    | split)

theorem keepStore_flueReq (cmd : Nat) (p : Sys2Proof.Flue) (lenOk : Nat → Bool) (allowed : Nat → Bool) (f : State → State) (s :
    State) (hf : ∀ s, (f s).keepStore = s.keepStore) : (flueReq cmd p lenOk allowed f s).keepStore = s.keepStore := by
  unfold flueReq
  repeat' (first
    | with_reducible rfl
    | simp only [keepStore_mk, keepStore_fold, ite_keepStore, ite_self, implies_true, keepStore_answer, hf]
    | refine (keepStore_each _ _ (fun a s => ?_) _).trans ?_
    | split)

theorem keepStore_flueRead (s : State) : (flueRead s).keepStore = s.keepStore := by
  unfold flueRead
  repeat' (first
    | with_reducible rfl
    | simp only [keepStore_mk, keepStore_fold, ite_keepStore, ite_self, implies_true, keepStore_emit]
    | refine (keepStore_each _ _ (fun a s => ?_) _).trans ?_
    | split)

theorem keepStore_modSess (f : Sess → Sess) (s : State) : (modSess f s).keepStore = s.keepStore := by
  unfold modSess
  repeat' (first
    | with_reducible rfl
    | simp only [keepStore_mk, keepStore_fold, ite_keepStore, ite_self, implies_true]
    | refine (keepStore_each _ _ (fun a s => ?_) _).trans ?_
    | split)

theorem keepStore_dropStaged (s : State) : (dropStaged s).keepStore = s.keepStore := by
  unfold dropStaged
  repeat' (first
    | with_reducible rfl
    | simp only [keepStore_mk, keepStore_fold, ite_keepStore, ite_self, implies_true, keepStore_modSess]
    | refine (keepStore_each _ _ (fun a s => ?_) _).trans ?_
    | split)

theorem keepStore_fwEvent (src status cmd ver kind eng ph : Nat) (s : State) : (fwEvent src status cmd ver kind eng ph s).keepStore
    = s.keepStore := by
  unfold fwEvent
  repeat' (first
    | with_reducible rfl
    | simp only [keepStore_mk, keepStore_fold, ite_keepStore, ite_self, implies_true, keepStore_raise]
    | refine (keepStore_each _ _ (fun a s => ?_) _).trans ?_
    | split)

theorem keepStore_refuseImage (cmd tag status : Nat) (payload : List Byte) (eng ph : Nat) (s : State) : (refuseImage cmd tag
    status payload eng ph s).keepStore = s.keepStore := by
  unfold refuseImage
  repeat' (first
    | with_reducible rfl
    | simp only [keepStore_mk, keepStore_fold, ite_keepStore, ite_self, implies_true, keepStore_answer, keepStore_dropStaged, keepStore_fwEvent]
    | refine (keepStore_each _ _ (fun a s => ?_) _).trans ?_
    | split)

theorem keepStore_fwWrite (r : FwRec) (s : State) : (fwWrite r s).keepStore = s.keepStore := by
  unfold fwWrite
  repeat' (first
    | with_reducible rfl
    | simp only [keepStore_mk, keepStore_fold, ite_keepStore, ite_self, implies_true, keepStore_nvWrite]
    | refine (keepStore_each _ _ (fun a s => ?_) _).trans ?_
    | split)

theorem keepStore_fwJournal (kind result : Nat) (i : FwImg) (s : State) : (fwJournal kind result i s).keepStore = s.keepStore := by
  unfold fwJournal
  repeat' (first
    | with_reducible rfl
    | simp only [keepStore_mk, keepStore_fold, ite_keepStore, ite_self, implies_true, keepStore_jInternal]
    | refine (keepStore_each _ _ (fun a s => ?_) _).trans ?_
    | split)

theorem keepStore_fwOpen (p : Sys2Proof.Flue) (s : State) : (fwOpen p s).keepStore = s.keepStore := by
  unfold fwOpen
  repeat' (first
    | with_reducible rfl
    | simp only [keepStore_mk, keepStore_fold, ite_keepStore, ite_self, implies_true, keepStore_answer]
    | refine (keepStore_each _ _ (fun a s => ?_) _).trans ?_
    | split)

theorem keepStore_fwClose (p : Sys2Proof.Flue) (s : State) : (fwClose p s).keepStore = s.keepStore := by
  unfold fwClose
  repeat' (first
    | with_reducible rfl
    | simp only [keepStore_mk, keepStore_fold, ite_keepStore, ite_self, implies_true, keepStore_answer]
    | refine (keepStore_each _ _ (fun a s => ?_) _).trans ?_
    | split)

theorem keepStore_fwLapse (s : State) : (fwLapse s).keepStore = s.keepStore := by
  unfold fwLapse
  repeat' (first
    | with_reducible rfl
    | simp only [keepStore_mk, keepStore_fold, ite_keepStore, ite_self, implies_true, keepStore_fwEvent]
    | refine (keepStore_each _ _ (fun a s => ?_) _).trans ?_
    | split)

theorem keepStore_fwHeader (p : Sys2Proof.Flue) (partnerProb : Bool) (s : State) : (fwHeader p partnerProb s).keepStore = s.keepStore :=
    by
  unfold fwHeader
  repeat' (first
    | with_reducible rfl
    | simp only [keepStore_mk, keepStore_fold, ite_keepStore, ite_self, implies_true, keepStore_answer, keepStore_bankProgram,
        keepStore_fwEvent, keepStore_fwWrite, keepStore_modSess, keepStore_nvwpRefuse]
    | refine (keepStore_each _ _ (fun a s => ?_) _).trans ?_
    | split)

theorem keepStore_fwData (p : Sys2Proof.Flue) (s : State) : (fwData p s).keepStore = s.keepStore := by
  unfold fwData
  repeat' (first
    | with_reducible rfl
    | simp only [keepStore_mk, keepStore_fold, ite_keepStore, ite_self, implies_true, keepStore_answer, keepStore_fwEvent]
    | refine (keepStore_each _ _ (fun a s => ?_) _).trans ?_
    | split)

theorem keepStore_fwProgrammed (s : State) : (fwProgrammed s).keepStore = s.keepStore := by
  unfold fwProgrammed
  repeat' (first
    | with_reducible rfl
    | simp only [keepStore_mk, keepStore_fold, ite_keepStore, ite_self, implies_true, keepStore_answer, keepStore_bankProgram,
        keepStore_modSess]
    | refine (keepStore_each _ _ (fun a s => ?_) _).trans ?_
    | split)

theorem keepStore_fwDataFail (s : State) : (fwDataFail s).keepStore = s.keepStore := by
  unfold fwDataFail
  repeat' (first
    | with_reducible rfl
    | simp only [keepStore_mk, keepStore_fold, ite_keepStore, ite_self, implies_true, keepStore_refuseImage]
    | refine (keepStore_each _ _ (fun a s => ?_) _).trans ?_
    | split)

theorem keepStore_upset (x : Nat × Nat × Codeword) (s : State) : (upset x s).keepStore = s.keepStore := by
  unfold upset
  repeat' (first
    | with_reducible rfl
    | simp only [keepStore_mk, keepStore_fold, ite_keepStore, ite_self, implies_true]
    | split)

theorem keepStore_fwVerify (p : Sys2Proof.Flue) (l : List (Nat × Codeword)) (s : State) :
    (fwVerify p l s).keepStore = s.keepStore := by
  unfold fwVerify
  repeat' (first
    | with_reducible rfl
    | simp only [keepStore_mk, keepStore_fold, ite_keepStore, ite_self, implies_true, keepStore_answer, keepStore_each, keepStore_modSess,
        keepStore_refuseImage, keepStore_upset, keepStore_wordErr]
    | refine (keepStore_each _ _ (fun a s => ?_) _).trans ?_
    | split)

theorem keepStore_refuseActivate (tag status eng : Nat) (s : State) : (refuseActivate tag status eng s).keepStore = s.keepStore := by
  unfold refuseActivate
  repeat' (first
    | with_reducible rfl
    | simp only [keepStore_mk, keepStore_fold, ite_keepStore, ite_self, implies_true, keepStore_answer, keepStore_fwEvent]
    | refine (keepStore_each _ _ (fun a s => ?_) _).trans ?_
    | split)

theorem keepStore_recoveryActivate (tag window : Nat) (x : Sess) (s : State) : (recoveryActivate tag window x s).keepStore = s.keepStore
    := by
  unfold recoveryActivate
  repeat' (first
    | with_reducible rfl
    | simp only [keepStore_mk, keepStore_fold, ite_keepStore, ite_self, implies_true, keepStore_fwWrite, keepStore_modSess]
    | refine (keepStore_each _ _ (fun a s => ?_) _).trans ?_
    | split)

theorem keepStore_fwActivate (p : Sys2Proof.Flue) (loadOk partnerOk : Bool) (s : State) : (fwActivate p loadOk partnerOk
    s).keepStore = s.keepStore := by
  unfold fwActivate
  repeat' (first
    | with_reducible rfl
    | simp only [keepStore_mk, keepStore_fold, ite_keepStore, ite_self, implies_true, keepStore_answer, keepStore_fwWrite, keepStore_modSess,
        keepStore_nvwpRefuse, keepStore_recoveryActivate, keepStore_refuseActivate]
    | refine (keepStore_each _ _ (fun a s => ?_) _).trans ?_
    | split)

theorem keepStore_armAccepted (s : State) : (armAccepted s).keepStore = s.keepStore := by
  unfold armAccepted
  repeat' (first
    | with_reducible rfl
    | simp only [keepStore_mk, keepStore_fold, ite_keepStore, ite_self, implies_true, keepStore_fwWrite, keepStore_modSess,
        keepStore_refuseActivate]
    | refine (keepStore_each _ _ (fun a s => ?_) _).trans ?_
    | split)

theorem keepStore_settingsReset (s : State) : (settingsReset s).keepStore = s.keepStore := by
  unfold settingsReset
  repeat' (first
    | with_reducible rfl
    | simp only [keepStore_mk, keepStore_fold, ite_keepStore, ite_self, implies_true, keepStore_beginProb, keepStore_changeGen,
        keepStore_fwEvent, keepStore_fwJournal, keepStore_writeImage]
    | refine (keepStore_each _ _ (fun a s => ?_) _).trans ?_
    | split)

theorem keepStore_handover_ (s : State) : (handover_ s).keepStore = s.keepStore := by
  unfold handover_
  repeat' (first
    | with_reducible rfl
    | simp only [keepStore_mk, keepStore_fold, ite_keepStore, ite_self, implies_true, keepStore_settingsReset, keepStore_wcRenew]
    | refine (keepStore_each _ _ (fun a s => ?_) _).trans ?_
    | split)

theorem keepStore_handoverDone (s : State) : (handoverDone s).keepStore = s.keepStore := by
  unfold handoverDone
  repeat' (first
    | with_reducible rfl
    | simp only [keepStore_mk, keepStore_fold, ite_keepStore, ite_self, implies_true, keepStore_fwEvent, keepStore_fwJournal, keepStore_fwWrite]
    | refine (keepStore_each _ _ (fun a s => ?_) _).trans ?_
    | split)

theorem keepStore_fwConfirm (p : Sys2Proof.Flue) (partnerOk : Bool) (s : State) : (fwConfirm p partnerOk s).keepStore = s.keepStore := by
  unfold fwConfirm
  repeat' (first
    | with_reducible rfl
    | simp only [keepStore_mk, keepStore_fold, ite_keepStore, ite_self, implies_true, keepStore_answer, keepStore_fwWrite]
    | refine (keepStore_each _ _ (fun a s => ?_) _).trans ?_
    | split)

theorem keepStore_confirmed (tag : Nat) (s : State) : (confirmed tag s).keepStore = s.keepStore := by
  unfold confirmed
  repeat' (first
    | with_reducible rfl
    | simp only [keepStore_mk, keepStore_fold, ite_keepStore, ite_self, implies_true, keepStore_answer, keepStore_fwEvent, keepStore_fwJournal]
    | refine (keepStore_each _ _ (fun a s => ?_) _).trans ?_
    | split)

theorem keepStore_fwExpiry (s : State) : (fwExpiry s).keepStore = s.keepStore := by
  unfold fwExpiry
  repeat' (first
    | with_reducible rfl
    | simp only [keepStore_mk, keepStore_fold, ite_keepStore, ite_self, implies_true]
    | refine (keepStore_each _ _ (fun a s => ?_) _).trans ?_
    | split)

theorem keepStore_fwAccepted (r : FwRec) (s : State) : (fwAccepted r s).keepStore = s.keepStore := by
  unfold fwAccepted
  repeat' (first
    | with_reducible rfl
    | simp only [keepStore_mk, keepStore_fold, ite_keepStore, ite_self, implies_true, keepStore_answer, keepStore_armAccepted,
        keepStore_confirmed, keepStore_modSess]
    | refine (keepStore_each _ _ (fun a s => ?_) _).trans ?_
    | split)

theorem keepStore_fwKey (p : Sys2Proof.Flue) (fuseOk : Bool) (s : State) : (fwKey p fuseOk s).keepStore = s.keepStore := by
  unfold fwKey
  repeat' (first
    | with_reducible rfl
    | simp only [keepStore_mk, keepStore_fold, ite_keepStore, ite_self, implies_true, keepStore_answer, keepStore_nvwpRefuse]
    | refine (keepStore_each _ _ (fun a s => ?_) _).trans ?_
    | split)

theorem keepStore_armWhen (s : State) : (armWhen s).keepStore = s.keepStore := by
  unfold armWhen
  repeat' (first
    | with_reducible rfl
    | simp only [keepStore_mk, keepStore_fold, ite_keepStore, ite_self, implies_true]
    | refine (keepStore_each _ _ (fun a s => ?_) _).trans ?_
    | split)

theorem keepStore_emberWritten (s : State) : (emberWritten s).keepStore = s.keepStore := by
  unfold emberWritten
  repeat' (first
    | with_reducible rfl
    | simp only [keepStore_mk, keepStore_fold, ite_keepStore, ite_self, implies_true]
    | refine (keepStore_each _ _ (fun a s => ?_) _).trans ?_
    | split)

theorem keepStore_jobAnswer (j : Job) (s : State) : (jobAnswer j s).keepStore = s.keepStore := by
  unfold jobAnswer
  repeat' (first
    | with_reducible rfl
    | simp only [keepStore_mk, keepStore_fold, ite_keepStore, ite_self, implies_true, keepStore_finishAt]
    | refine (keepStore_each _ _ (fun a s => ?_) _).trans ?_
    | split)

theorem keepStore_jobDone (j : Job) (s : State) : (jobDone j s).keepStore = s.keepStore := by
  unfold jobDone
  repeat' (first
    | with_reducible rfl
    | simp only [keepStore_mk, keepStore_fold, ite_keepStore, ite_self, implies_true, keepStore_clearCommit, keepStore_clearSlots,
        keepStore_emberWritten, keepStore_eraseAsk, keepStore_jobAnswer, keepStore_nvWrite, keepStore_recordStored, keepStore_releaseImages]
    | refine (keepStore_each _ _ (fun a s => ?_) _).trans ?_
    | split)

theorem keepStore_recordAgain (s : State) : (recordAgain s).keepStore = s.keepStore := by
  unfold recordAgain
  repeat' (first
    | with_reducible rfl
    | simp only [keepStore_mk, keepStore_fold, ite_keepStore, ite_self, implies_true, keepStore_ashRise, keepStore_placeRecord]
    | refine (keepStore_each _ _ (fun a s => ?_) _).trans ?_
    | split)

theorem keepStore_tailEnd (s : State) : (tailEnd s).keepStore = s.keepStore := by
  unfold tailEnd
  repeat' (first
    | with_reducible rfl
    | simp only [keepStore_mk, keepStore_fold, ite_keepStore, ite_self, implies_true, keepStore_tailDone]
    | refine (keepStore_each _ _ (fun a s => ?_) _).trans ?_
    | split)

theorem keepStore_wordDone (s : State) : (wordDone s).keepStore = s.keepStore := by
  unfold wordDone
  repeat' (first
    | with_reducible rfl
    | simp only [keepStore_mk, keepStore_fold, ite_keepStore, ite_self, implies_true, keepStore_armWhen, keepStore_fwAccepted,
        keepStore_jobDone, keepStore_programStep]
    | refine (keepStore_each _ _ (fun a s => ?_) _).trans ?_
    | split)

theorem keepStore_programDone (ok : Bool) (s : State) : (programDone ok s).keepStore = s.keepStore := by
  unfold programDone
  repeat' (first
    | with_reducible rfl
    | simp only [keepStore_mk, keepStore_fold, ite_keepStore, ite_self, implies_true, keepStore_fwDataFail, keepStore_nvBegin,
        keepStore_recordAgain, keepStore_tailEnd, keepStore_verifyFail, keepStore_wordDone]
    | refine (keepStore_each _ _ (fun a s => ?_) _).trans ?_
    | split)


end Sys2Proof.Machine
end

