-- ==== Sys2Proof/Laws/FrameTask.lean ====
section
/-! SUPPORT. FrameTask.lean: the operations behind the task family of commands leave the state outside that family's
own parts as it is, one lemma per operation (the frame statements go through these). -/

set_option linter.all false
set_option linter.unusedSimpArgs false
set_option linter.unreachableTactic false
set_option linter.unusedTactic false
namespace Sys2Proof.Machine

/-- What no command of this family touches. -/
def State.keepTask (s : State) :=
  (s.pending, s.clk, s.ovrStat, s.ovrNow, s.recd.noCapt, s.bar0, s.cfg, s.setup, s.coef, s.banks, s.mdacs, s.watches, s.off, s.nv.noRevertdue, s.fw)

theorem keepTask_mk (a b c d e f g h i j k l m n o p q r u v w x y z a1 b1 c1 d1 e1 f1 g1 h1 i1 j1 k1 l1) :
    State.keepTask (State.mk a b c d e f g h i j k l m n o p q r u v w x y z a1 b1 c1 d1 e1 f1 g1 h1 i1 j1 k1 l1) =
      (a, b, d, e, j.noCapt, k, l, m, n, p, q, u, w, h1.noRevertdue, i1) := rfl

theorem keepTask_fold (s : State) : (s.pending, s.clk, s.ovrStat, s.ovrNow, s.recd.noCapt, s.bar0, s.cfg, s.setup, s.coef, s.banks, s.mdacs, s.watches, s.off, s.nv.noRevertdue, s.fw) = s.keepTask := rfl

theorem ite_keepTask (c : Prop) [Decidable c] (a b : State) :
    State.keepTask (if c then a else b) = if c then a.keepTask else b.keepTask := by split <;> rfl

theorem keepTask_each {α : Type} (l : List α) (f : α → State → State) (hf : ∀ a s, (f a s).keepTask = s.keepTask) (s : State) :
    (each l f s).keepTask = s.keepTask := by
  unfold each
  induction l generalizing s with
  | nil => rfl
  | cons a l ih => exact (ih _).trans (hf a s)

theorem keepTask_foldl {α β : Type} (g : β → State) (f : β → α → β) (hf : ∀ b a, (g (f b a)).keepTask = (g b).keepTask)
    (l : List α) (b : β) : (g (l.foldl f b)).keepTask = (g b).keepTask := by
  induction l generalizing b with
  | nil => rfl
  | cons a l ih => exact (ih _).trans (hf b a)

theorem keepTask_modEng (i : Nat) (f : Eng → Eng) (s : State) : (State.modEng i f s).keepTask = s.keepTask := by
  unfold State.modEng
  repeat' (first
    | with_reducible rfl
    | simp only [keepTask_mk, keepTask_fold, ite_keepTask, ite_self, implies_true]
    | refine (keepTask_each _ _ (fun a s => ?_) _).trans ?_
    | split)

theorem keepTask_modRail (i : Nat) (f : Rail → Rail) (s : State) : (State.modRail i f s).keepTask = s.keepTask := by
  unfold State.modRail
  repeat' (first
    | with_reducible rfl
    | simp only [keepTask_mk, keepTask_fold, ite_keepTask, ite_self, implies_true]
    | refine (keepTask_each _ _ (fun a s => ?_) _).trans ?_
    | split)

theorem keepTask_modStg (i : Nat) (f : Stg → Stg) (s : State) : (State.modStg i f s).keepTask = s.keepTask := by
  unfold State.modStg
  repeat' (first
    | with_reducible rfl
    | simp only [keepTask_mk, keepTask_fold, ite_keepTask, ite_self, implies_true]
    | refine (keepTask_each _ _ (fun a s => ?_) _).trans ?_
    | split)

theorem keepTask_modPhase (i : Nat) (f : Phase → Phase) (s : State) : (State.modPhase i f s).keepTask = s.keepTask := by
  unfold State.modPhase
  repeat' (first
    | with_reducible rfl
    | simp only [keepTask_mk, keepTask_fold, ite_keepTask, ite_self, implies_true]
    | refine (keepTask_each _ _ (fun a s => ?_) _).trans ?_
    | split)

theorem keepTask_modRing (i : Nat) (f : Ring → Ring) (s : State) : (State.modRing i f s).keepTask = s.keepTask := by
  unfold State.modRing
  repeat' (first
    | with_reducible rfl
    | simp only [keepTask_mk, keepTask_fold, ite_keepTask, ite_self, implies_true]
    | refine (keepTask_each _ _ (fun a s => ?_) _).trans ?_
    | split)

theorem keepTask_modProg (i : Nat) (f : Prog → Prog) (s : State) : (State.modProg i f s).keepTask = s.keepTask := by
  unfold State.modProg
  repeat' (first
    | with_reducible rfl
    | simp only [keepTask_mk, keepTask_fold, ite_keepTask, ite_self, implies_true]
    | refine (keepTask_each _ _ (fun a s => ?_) _).trans ?_
    | split)

theorem keepTask_modRect (i : Nat) (f : Rect → Rect) (s : State) : (State.modRect i f s).keepTask = s.keepTask := by
  unfold State.modRect
  repeat' (first
    | with_reducible rfl
    | simp only [keepTask_mk, keepTask_fold, ite_keepTask, ite_self, implies_true]
    | refine (keepTask_each _ _ (fun a s => ?_) _).trans ?_
    | split)

theorem keepTask_modCore (i : Nat) (f : ACore → ACore) (s : State) : (State.modCore i f s).keepTask = s.keepTask := by
  unfold State.modCore
  repeat' (first
    | with_reducible rfl
    | simp only [keepTask_mk, keepTask_fold, ite_keepTask, ite_self, implies_true]
    | refine (keepTask_each _ _ (fun a s => ?_) _).trans ?_
    | split)

theorem keepTask_modPort (i : Nat) (f : Port → Port) (s : State) : (State.modPort i f s).keepTask = s.keepTask := by
  unfold State.modPort
  repeat' (first
    | with_reducible rfl
    | simp only [keepTask_mk, keepTask_fold, ite_keepTask, ite_self, implies_true]
    | refine (keepTask_each _ _ (fun a s => ?_) _).trans ?_
    | split)

theorem keepTask_modRnode (i : Nat) (f : RNode → RNode) (s : State) : (State.modRnode i f s).keepTask = s.keepTask := by
  unfold State.modRnode
  repeat' (first
    | with_reducible rfl
    | simp only [keepTask_mk, keepTask_fold, ite_keepTask, ite_self, implies_true]
    | refine (keepTask_each _ _ (fun a s => ?_) _).trans ?_
    | split)

theorem keepTask_drawFree (w : Nat) (s : State) : (State.drawFree w s).2.keepTask = s.keepTask := by
  unfold State.drawFree
  repeat' (first
    | with_reducible rfl
    | simp only [keepTask_mk, keepTask_fold, ite_keepTask, ite_self, implies_true]
    | refine (keepTask_each _ _ (fun a s => ?_) _).trans ?_
    | split)

theorem keepTask_emit (o : Out) (s : State) : (emit o s).keepTask = s.keepTask := by
  unfold emit
  repeat' (first
    | with_reducible rfl
    | simp only [keepTask_mk, keepTask_fold, ite_keepTask, ite_self, implies_true]
    | refine (keepTask_each _ _ (fun a s => ?_) _).trans ?_
    | split)

theorem keepTask_ashAdd (n : Nat) (s : State) : (ashAdd n s).keepTask = s.keepTask := by
  unfold ashAdd
  repeat' (first
    | with_reducible rfl
    | simp only [keepTask_mk, keepTask_fold, ite_keepTask, ite_self, implies_true]
    | refine (keepTask_each _ _ (fun a s => ?_) _).trans ?_
    | split
    | rfl)

theorem keepTask_capture (o : Occ) (s : State) : (capture o s).keepTask = s.keepTask := by
  unfold capture
  repeat' (first
    | with_reducible rfl
    | simp only [keepTask_mk, keepTask_fold, ite_keepTask, ite_self, implies_true, keepTask_ashAdd]
    | refine (keepTask_each _ _ (fun a s => ?_) _).trans ?_
    | split
    | rfl)

theorem keepTask_raiseCore (o : Occ) (s : State) : (raiseCore o s).keepTask = s.keepTask := by
  unfold raiseCore
  repeat' (first
    | with_reducible rfl
    | simp only [keepTask_mk, keepTask_fold, ite_keepTask, ite_self, implies_true, keepTask_capture]
    | refine (keepTask_each _ _ (fun a s => ?_) _).trans ?_
    | split
    | rfl)

theorem keepTask_ashEvent (old : Nat) (s : State) : (ashEvent old s).keepTask = s.keepTask := by
  unfold ashEvent
  repeat' (first
    | with_reducible rfl
    | simp only [keepTask_mk, keepTask_fold, ite_keepTask, ite_self, implies_true, keepTask_raiseCore]
    | refine (keepTask_each _ _ (fun a s => ?_) _).trans ?_
    | split)

theorem keepTask_raiseSev (src sev : Nat) (ts : Ts) (d : BitVec 128) (s : State) : (raiseSev src sev ts d s).keepTask = s.keepTask :=
    by
  unfold raiseSev
  repeat' (first
    | with_reducible rfl
    | simp only [keepTask_mk, keepTask_fold, ite_keepTask, ite_self, implies_true, keepTask_ashEvent, keepTask_raiseCore]
    | refine (keepTask_each _ _ (fun a s => ?_) _).trans ?_
    | split)

theorem keepTask_raise (src : Nat) (ts : Ts) (d : BitVec 128) (s : State) : (raise src ts d s).keepTask = s.keepTask := by
  unfold raise
  repeat' (first
    | with_reducible rfl
    | simp only [keepTask_mk, keepTask_fold, ite_keepTask, ite_self, implies_true, keepTask_raiseSev]
    | refine (keepTask_each _ _ (fun a s => ?_) _).trans ?_
    | split)

theorem keepTask_wcWritten (struct addr : Nat) (s : State) : (wcWritten struct addr s).keepTask = s.keepTask := by
  unfold wcWritten
  repeat' (first
    | with_reducible rfl
    | simp only [keepTask_mk, keepTask_fold, ite_keepTask, ite_self, implies_true]
    | refine (keepTask_each _ _ (fun a s => ?_) _).trans ?_
    | split)

theorem keepTask_linkFrameOf (kind : Nat) (dst : Option Nat) (v : Nat) (s : State) : (linkFrameOf kind dst v s).2.keepTask =
    s.keepTask := by
  unfold linkFrameOf
  repeat' (first
    | with_reducible rfl
    | simp only [keepTask_mk, keepTask_fold, ite_keepTask, ite_self, implies_true]
    | refine (keepTask_each _ _ (fun a s => ?_) _).trans ?_
    | split)

theorem keepTask_queueFrame (p : Nat) (f : LinkTx) (s : State) : (queueFrame p f s).keepTask = s.keepTask := by
  unfold queueFrame
  repeat' (first
    | with_reducible rfl
    | simp only [keepTask_mk, keepTask_fold, ite_keepTask, ite_self, implies_true, keepTask_modPort]
    | refine (keepTask_each _ _ (fun a s => ?_) _).trans ?_
    | split)

theorem keepTask_urgentFrame (p : Nat) (f : LinkTx) (s : State) : (urgentFrame p f s).keepTask = s.keepTask := by
  unfold urgentFrame
  repeat' (first
    | with_reducible rfl
    | simp only [keepTask_mk, keepTask_fold, ite_keepTask, ite_self, implies_true, keepTask_modPort]
    | refine (keepTask_each _ _ (fun a s => ?_) _).trans ?_
    | split)

theorem keepTask_sendEntry (e : JEntry) (s : State) : (sendEntry e s).keepTask = s.keepTask := by
  unfold sendEntry
  repeat' (first
    | with_reducible rfl
    | simp only [keepTask_mk, keepTask_fold, ite_keepTask, ite_self, implies_true, keepTask_linkFrameOf, keepTask_queueFrame]
    | refine (keepTask_each _ _ (fun a s => ?_) _).trans ?_
    | split)

theorem keepTask_pairJournal (e : JEntry) (s : State) : (pairJournal e s).keepTask = s.keepTask := by
  unfold pairJournal
  repeat' (first
    | with_reducible rfl
    | simp only [keepTask_mk, keepTask_fold, ite_keepTask, ite_self, implies_true, keepTask_sendEntry]
    | refine (keepTask_each _ _ (fun a s => ?_) _).trans ?_
    | split)

theorem keepTask_jAppend (e : JEntry) (s : State) : (jAppend e s).keepTask = s.keepTask := by
  unfold jAppend
  repeat' (first
    | with_reducible rfl
    | simp only [keepTask_mk, keepTask_fold, ite_keepTask, ite_self, implies_true, keepTask_pairJournal, keepTask_wcWritten]
    | refine (keepTask_each _ _ (fun a s => ?_) _).trans ?_
    | split)

theorem keepTask_alogAdd (e : ALog) (s : State) : (alogAdd e s).keepTask = s.keepTask := by
  unfold alogAdd
  repeat' (first
    | with_reducible rfl
    | simp only [keepTask_mk, keepTask_fold, ite_keepTask, ite_self, implies_true]
    | refine (keepTask_each _ _ (fun a s => ?_) _).trans ?_
    | split)

theorem keepTask_pmbPush (m : Nat) (j : PmbJob) (s : State) : (pmbPush m j s).keepTask = s.keepTask := by
  unfold pmbPush
  repeat' (first
    | with_reducible rfl
    | simp only [keepTask_mk, keepTask_fold, ite_keepTask, ite_self, implies_true]
    | refine (keepTask_each _ _ (fun a s => ?_) _).trans ?_
    | split)

theorem keepTask_modEnt (c e : Nat) (f : Ent → Ent) (s : State) : (modEnt c e f s).keepTask = s.keepTask := by
  unfold modEnt
  repeat' (first
    | with_reducible rfl
    | simp only [keepTask_mk, keepTask_fold, ite_keepTask, ite_self, implies_true, keepTask_modCore]
    | refine (keepTask_each _ _ (fun a s => ?_) _).trans ?_
    | split)

theorem keepTask_modUrg (c k : Nat) (f : Urg → Urg) (s : State) : (modUrg c k f s).keepTask = s.keepTask := by
  unfold modUrg
  repeat' (first
    | with_reducible rfl
    | simp only [keepTask_mk, keepTask_fold, ite_keepTask, ite_self, implies_true, keepTask_modCore]
    | refine (keepTask_each _ _ (fun a s => ?_) _).trans ?_
    | split)

theorem keepTask_fireUrgent (c k cyc : Nat) (s : State) : (fireUrgent c k cyc s).2.keepTask = s.keepTask := by
  unfold fireUrgent
  repeat' (first
    | with_reducible rfl
    | simp only [keepTask_mk, keepTask_fold, ite_keepTask, ite_self, implies_true, keepTask_modCore, keepTask_each, keepTask_modUrg,
        keepTask_raise]
    | refine (keepTask_each _ _ (fun a s => ?_) _).trans ?_
    | split)

theorem keepTask_stgEvent (st k ph why : Nat) (s : State) : (stgEvent st k ph why s).keepTask = s.keepTask := by
  unfold stgEvent
  repeat' (first
    | with_reducible rfl
    | simp only [keepTask_mk, keepTask_fold, ite_keepTask, ite_self, implies_true, keepTask_raise]
    | refine (keepTask_each _ _ (fun a s => ?_) _).trans ?_
    | split)

theorem keepTask_freeInt (n : Nat) (s : State) : (freeInt n s).2.keepTask = s.keepTask := by
  unfold freeInt
  repeat' (first
    | with_reducible rfl
    | simp only [keepTask_mk, keepTask_fold, ite_keepTask, ite_self, implies_true, keepTask_drawFree]
    | refine (keepTask_each _ _ (fun a s => ?_) _).trans ?_
    | split)

theorem keepTask_ref16 (st : Nat) (s : State) : (ref16 st s).2.keepTask = s.keepTask := by
  unfold ref16
  repeat' (first
    | with_reducible rfl
    | simp only [keepTask_mk, keepTask_fold, ite_keepTask, ite_self, implies_true, keepTask_freeInt]
    | refine (keepTask_each _ _ (fun a s => ?_) _).trans ?_
    | split)

theorem keepTask_loopSat (st : Nat) (sat ovf : Bool) (s : State) : (loopSat st sat ovf s).keepTask = s.keepTask := by
  unfold loopSat
  repeat' (first
    | with_reducible rfl
    | simp only [keepTask_mk, keepTask_fold, ite_keepTask, ite_self, implies_true, keepTask_modStg, keepTask_stgEvent]
    | refine (keepTask_each _ _ (fun a s => ?_) _).trans ?_
    | split)

theorem keepTask_controlLaw (st code : Nat) (s : State) : (controlLaw st code s).2.keepTask = s.keepTask := by
  unfold controlLaw
  repeat' (first
    | with_reducible rfl
    | simp only [keepTask_mk, keepTask_fold, ite_keepTask, ite_self, implies_true, keepTask_modStg, keepTask_freeInt, keepTask_loopSat,
        keepTask_ref16]
    | refine (keepTask_each _ _ (fun a s => ?_) _).trans ?_
    | split)

theorem keepTask_clearPhases (st : Nat) (lim : Bool) (s : State) : (clearPhases st lim s).keepTask = s.keepTask := by
  unfold clearPhases
  repeat' (first
    | with_reducible rfl
    | simp only [keepTask_mk, keepTask_fold, ite_keepTask, ite_self, implies_true, keepTask_modPhase, keepTask_each]
    | refine (keepTask_each _ _ (fun a s => ?_) _).trans ?_
    | split)

theorem keepTask_presetRamp (st : Nat) (s : State) : (presetRamp st s).keepTask = s.keepTask := by
  unfold presetRamp
  repeat' (first
    | with_reducible rfl
    | simp only [keepTask_mk, keepTask_fold, ite_keepTask, ite_self, implies_true, keepTask_modStg, keepTask_clearPhases,
        keepTask_freeInt]
    | refine (keepTask_each _ _ (fun a s => ?_) _).trans ?_
    | split)

theorem keepTask_moveSp (st : Nat) (hold : Bool) (s : State) : (moveSp st hold s).keepTask = s.keepTask := by
  unfold moveSp
  repeat' (first
    | with_reducible rfl
    | simp only [keepTask_mk, keepTask_fold, ite_keepTask, ite_self, implies_true, keepTask_modStg, keepTask_stgEvent]
    | refine (keepTask_each _ _ (fun a s => ?_) _).trans ?_
    | split)

theorem keepTask_balance (st : Nat) (s : State) : (balance st s).keepTask = s.keepTask := by
  unfold balance
  repeat' (first
    | with_reducible rfl
    | simp only [keepTask_mk, keepTask_fold, ite_keepTask, ite_self, implies_true, keepTask_modStg, keepTask_each]
    | refine (keepTask_each _ _ (fun a s => ?_) _).trans ?_
    | split)

theorem keepTask_lowCounts (st : Nat) (s : State) : (lowCounts st s).keepTask = s.keepTask := by
  unfold lowCounts
  repeat' (first
    | with_reducible rfl
    | simp only [keepTask_mk, keepTask_fold, ite_keepTask, ite_self, implies_true, keepTask_modStg]
    | refine (keepTask_each _ _ (fun a s => ?_) _).trans ?_
    | split)

theorem keepTask_judgeBand (st : Nat) (mv : Int) (s : State) : (judgeBand st mv s).keepTask = s.keepTask := by
  unfold judgeBand
  repeat' (first
    | with_reducible rfl
    | simp only [keepTask_mk, keepTask_fold, ite_keepTask, ite_self, implies_true, keepTask_modStg]
    | refine (keepTask_each _ _ (fun a s => ?_) _).trans ?_
    | split)

theorem keepTask_stageDuty (st : Nat) (first : Bool) (u : Int) (s : State) : (stageDuty st first u s).keepTask = s.keepTask := by
  unfold stageDuty
  repeat' (first
    | with_reducible rfl
    | simp only [keepTask_mk, keepTask_fold, ite_keepTask, ite_self, implies_true, keepTask_modStg]
    | refine (keepTask_each _ _ (fun a s => ?_) _).trans ?_
    | split)

theorem keepTask_controlInstance (st : Nat) (first : Bool) (s : State) : (controlInstance st first s).keepTask = s.keepTask := by
  unfold controlInstance
  repeat' (first
    | with_reducible rfl
    | simp only [keepTask_mk, keepTask_fold, ite_keepTask, ite_self, implies_true, keepTask_modStg, keepTask_balance,
        keepTask_controlLaw, keepTask_judgeBand, keepTask_lowCounts, keepTask_moveSp, keepTask_stageDuty, keepTask_stgEvent]
    | refine (keepTask_each _ _ (fun a s => ?_) _).trans ?_
    | split)

theorem keepTask_stageTask (st : Nat) (s : State) : (stageTask st s).keepTask = s.keepTask := by
  unfold stageTask
  repeat' (first
    | with_reducible rfl
    | simp only [keepTask_mk, keepTask_fold, ite_keepTask, ite_self, implies_true, keepTask_modStg, keepTask_controlInstance,
        keepTask_presetRamp]
    | refine (keepTask_each _ _ (fun a s => ?_) _).trans ?_
    | split)

theorem keepTask_decideDrop (st k why : Nat) (s : State) : (decideDrop st k why s).keepTask = s.keepTask := by
  unfold decideDrop
  repeat' (first
    | with_reducible rfl
    | simp only [keepTask_mk, keepTask_fold, ite_keepTask, ite_self, implies_true, keepTask_modStg]
    | refine (keepTask_each _ _ (fun a s => ?_) _).trans ?_
    | split)

theorem keepTask_senseCheck (st : Nat) (s : State) : (senseCheck st s).2.keepTask = s.keepTask := by
  unfold senseCheck
  repeat' (first
    | with_reducible rfl
    | simp only [keepTask_mk, keepTask_fold, ite_keepTask, ite_self, implies_true, keepTask_freeInt]
    | refine (keepTask_each _ _ (fun a s => ?_) _).trans ?_
    | split)

theorem keepTask_phaseTask (st : Nat) (s : State) : (phaseTask st s).keepTask = s.keepTask := by
  unfold phaseTask
  repeat' (first
    | with_reducible rfl
    | simp only [keepTask_mk, keepTask_fold, ite_keepTask, ite_self, implies_true, keepTask_modStg, keepTask_decideDrop, keepTask_each,
        keepTask_senseCheck]
    | refine (keepTask_each _ _ (fun a s => ?_) _).trans ?_
    | split)

theorem keepTask_countUp (i c n : Nat) (s : State) : (countUp i c n s).keepTask = s.keepTask := by
  unfold countUp
  repeat' (first
    | with_reducible rfl
    | simp only [keepTask_mk, keepTask_fold, ite_keepTask, ite_self, implies_true, keepTask_modRail]
    | refine (keepTask_each _ _ (fun a s => ?_) _).trans ?_
    | split)

theorem keepTask_takeFault (s : State) : (takeFault s).keepTask = s.keepTask := by
  unfold takeFault
  repeat' (first
    | with_reducible rfl
    | simp only [keepTask_mk, keepTask_fold, ite_keepTask, ite_self, implies_true, keepTask_countUp, keepTask_each, keepTask_raise]
    | refine (keepTask_each _ _ (fun a s => ?_) _).trans ?_
    | split)

theorem keepTask_faultTask (s : State) : (faultTask s).keepTask = s.keepTask := by
  unfold faultTask
  repeat' (first
    | with_reducible rfl
    | simp only [keepTask_mk, keepTask_fold, ite_keepTask, ite_self, implies_true, keepTask_raise, keepTask_takeFault]
    | refine (keepTask_each _ _ (fun a s => ?_) _).trans ?_
    | split)

theorem keepTask_modCand (r : CandRef) (f : Cand → Cand) (s : State) : (modCand r f s).keepTask = s.keepTask := by
  unfold modCand
  repeat' (first
    | with_reducible rfl
    | simp only [keepTask_mk, keepTask_fold, ite_keepTask, ite_self, implies_true, keepTask_modProg, keepTask_modRail, keepTask_modStg]
    | refine (keepTask_each _ _ (fun a s => ?_) _).trans ?_
    | split)

theorem keepTask_grant (c : PCand) (p : Pass) : (grant c p).s.keepTask = p.s.keepTask := by
  unfold grant
  repeat' (first
    | with_reducible rfl
    | simp only [keepTask_mk, keepTask_fold, ite_keepTask, ite_self, implies_true, keepTask_modCand]
    | refine (keepTask_each _ _ (fun a s => ?_) _).trans ?_
    | split)
theorem keepTask_tryCand (p : Pass) (c : PCand) : (tryCand p c).s.keepTask = p.s.keepTask := by
  unfold tryCand
  repeat' (first
    | with_reducible rfl
    | simp only [keepTask_mk, keepTask_fold, ite_keepTask, ite_self, implies_true, keepTask_grant, keepTask_modCand]
    | refine (keepTask_each _ _ (fun a s => ?_) _).trans ?_
    | split)
theorem keepTask_tryClass (n : Nat) (p : Pass) : (tryClass n p).s.keepTask = p.s.keepTask := by
  unfold tryClass
  repeat' (first
    | with_reducible rfl
    | simp only [keepTask_mk, keepTask_fold, ite_keepTask, ite_self, implies_true, keepTask_raise]
    | refine (keepTask_each _ _ (fun a s => ?_) _).trans ?_
    | split)
theorem keepTask_tryCands (b : Bal) (s : State) : (tryCands b s).s.keepTask = s.keepTask := by
  have h : ((passCands s).foldl tryCand ({ s := s, b := b } : Pass)).s.keepTask = s.keepTask :=
    keepTask_foldl (fun x : Pass => x.s) tryCand keepTask_tryCand _ _
  unfold tryCands
  simp only
  split
  · exact h
  · exact (keepTask_each _ _ keepTask_alogAdd _).trans h
theorem keepTask_tryClasses (p : Pass) : (tryClasses p).s.keepTask = p.s.keepTask :=
  keepTask_foldl (fun x : Pass => x.s) (fun q n => tryClass n q) (fun q n => keepTask_tryClass n q) _ _
theorem keepTask_passEnd (p : Pass) : (passEnd p).keepTask = p.s.keepTask := rfl

theorem keepTask_ledgerPass (s : State) : (ledgerPass s).keepTask = s.keepTask := by
  unfold ledgerPass
  split
  · rfl
  · split
    · rfl
    · split
      · exact keepTask_passEnd _
      · exact (keepTask_passEnd _).trans ((keepTask_tryClasses _).trans (keepTask_tryCands _ _))

theorem keepTask_markOver (e t : Nat) (skip : Bool) (s : State) : (markOver e t skip s).keepTask = s.keepTask := by
  unfold markOver
  repeat' (first
    | with_reducible rfl
    | simp only [keepTask_mk, keepTask_fold, ite_keepTask, ite_self, implies_true, keepTask_modEng]
    | refine (keepTask_each _ _ (fun a s => ?_) _).trans ?_
    | split)

theorem keepTask_taskOverrun (e t : Nat) (s : State) : (taskOverrun e t s).keepTask = s.keepTask := by
  unfold taskOverrun
  repeat' (first
    | with_reducible rfl
    | simp only [keepTask_mk, keepTask_fold, ite_keepTask, ite_self, implies_true, keepTask_each, keepTask_markOver]
    | refine (keepTask_each _ _ (fun a s => ?_) _).trans ?_
    | split)

theorem keepTask_taskRun (e t n cyc : Nat) (f : State → State) (s : State) (hf : ∀ s, (f s).keepTask = s.keepTask) : (taskRun e t n
    cyc f s).keepTask = s.keepTask := by
  unfold taskRun
  repeat' (first
    | with_reducible rfl
    | simp only [keepTask_mk, keepTask_fold, ite_keepTask, ite_self, implies_true, keepTask_modEng, keepTask_raise, keepTask_taskOverrun,
        hf]
    | refine (keepTask_each _ _ (fun a s => ?_) _).trans ?_
    | split)

theorem keepTask_capChange (s : State) : (capChange s).keepTask = s.keepTask := by
  unfold capChange
  repeat' (first
    | with_reducible rfl
    | simp only [keepTask_mk, keepTask_fold, ite_keepTask, ite_self, implies_true, keepTask_raiseSev]
    | refine (keepTask_each _ _ (fun a s => ?_) _).trans ?_
    | split)

theorem keepTask_levelUp (s : State) : (levelUp s).keepTask = s.keepTask := by
  unfold levelUp
  repeat' (first
    | with_reducible rfl
    | simp only [keepTask_mk, keepTask_fold, ite_keepTask, ite_self, implies_true]
    | refine (keepTask_each _ _ (fun a s => ?_) _).trans ?_
    | split)

theorem keepTask_levelDown (s : State) : (levelDown s).keepTask = s.keepTask := by
  unfold levelDown
  repeat' (first
    | with_reducible rfl
    | simp only [keepTask_mk, keepTask_fold, ite_keepTask, ite_self, implies_true]
    | refine (keepTask_each _ _ (fun a s => ?_) _).trans ?_
    | split)

theorem keepTask_capRaise (s : State) : (capRaise s).keepTask = s.keepTask := by
  unfold capRaise
  repeat' (first
    | with_reducible rfl
    | simp only [keepTask_mk, keepTask_fold, ite_keepTask, ite_self, implies_true, keepTask_levelUp]
    | refine (keepTask_each _ _ (fun a s => ?_) _).trans ?_
    | split)

theorem keepTask_capRelax (s : State) : (capRelax s).keepTask = s.keepTask := by
  unfold capRelax
  repeat' (first
    | with_reducible rfl
    | simp only [keepTask_mk, keepTask_fold, ite_keepTask, ite_self, implies_true, keepTask_levelDown]
    | refine (keepTask_each _ _ (fun a s => ?_) _).trans ?_
    | split)

theorem keepTask_shedTask (s : State) : (shedTask s).keepTask = s.keepTask := by
  unfold shedTask
  repeat' (first
    | with_reducible rfl
    | simp only [keepTask_mk, keepTask_fold, ite_keepTask, ite_self, implies_true, keepTask_drawFree]
    | refine (keepTask_each _ _ (fun a s => ?_) _).trans ?_
    | split)

theorem keepTask_damperTask (s : State) : (damperTask s).keepTask = s.keepTask := by
  unfold damperTask
  repeat' (first
    | with_reducible rfl
    | simp only [keepTask_mk, keepTask_fold, ite_keepTask, ite_self, implies_true, keepTask_capChange, keepTask_capRaise,
        keepTask_capRelax, keepTask_shedTask]
    | refine (keepTask_each _ _ (fun a s => ?_) _).trans ?_
    | split)

theorem keepTask_rectRound (holds : Bool) (count : Nat) (sum : Int) (n : Nat) (s : State) : (rectRound holds count sum n
    s).keepTask = s.keepTask := by
  unfold rectRound
  repeat' (first
    | with_reducible rfl
    | simp only [keepTask_mk, keepTask_fold, ite_keepTask, ite_self, implies_true, keepTask_modRect, keepTask_raise]
    | refine (keepTask_each _ _ (fun a s => ?_) _).trans ?_
    | split)

theorem keepTask_startRound (s : State) : (startRound s).keepTask = s.keepTask := by
  unfold startRound
  repeat' (first
    | with_reducible rfl
    | simp only [keepTask_mk, keepTask_fold, ite_keepTask, ite_self, implies_true, keepTask_modRect, keepTask_each, keepTask_pmbPush]
    | refine (keepTask_each _ _ (fun a s => ?_) _).trans ?_
    | split)

theorem keepTask_sharingTask (s : State) : (sharingTask s).keepTask = s.keepTask := by
  unfold sharingTask
  repeat' (first
    | with_reducible rfl
    | simp only [keepTask_mk, keepTask_fold, ite_keepTask, ite_self, implies_true, keepTask_drawFree, keepTask_each, keepTask_rectRound,
        keepTask_startRound]
    | refine (keepTask_each _ _ (fun a s => ?_) _).trans ?_
    | split)

theorem keepTask_pmbService (s : State) : (pmbService s).keepTask = s.keepTask := by
  unfold pmbService
  repeat' (first
    | with_reducible rfl
    | simp only [keepTask_mk, keepTask_fold, ite_keepTask, ite_self, implies_true, keepTask_each, keepTask_emit]
    | refine (keepTask_each _ _ (fun a s => ?_) _).trans ?_
    | split)

theorem keepTask_onStage (st : Nat) (f : State → State) (s : State) (hf : ∀ s, (f s).keepTask = s.keepTask) : (onStage st f s).keepTask
    = s.keepTask := by
  unfold onStage
  repeat' (first
    | with_reducible rfl
    | simp only [keepTask_mk, keepTask_fold, ite_keepTask, ite_self, implies_true, hf]
    | refine (keepTask_each _ _ (fun a s => ?_) _).trans ?_
    | split)

theorem keepTask_stageResult (t : TelRes) (s : State) : (stageResult t s).keepTask = s.keepTask := by
  unfold stageResult
  repeat' (first
    | with_reducible rfl
    | simp only [keepTask_mk, keepTask_fold, ite_keepTask, ite_self, implies_true, keepTask_modEnt, keepTask_raise]
    | refine (keepTask_each _ _ (fun a s => ?_) _).trans ?_
    | split)

theorem keepTask_postProcess (s : State) : (postProcess s).keepTask = s.keepTask := by
  unfold postProcess
  repeat' (first
    | with_reducible rfl
    | simp only [keepTask_mk, keepTask_fold, ite_keepTask, ite_self, implies_true, keepTask_each, keepTask_stageResult]
    | refine (keepTask_each _ _ (fun a s => ?_) _).trans ?_
    | split)

theorem keepTask_ringPut (r : Nat) (vec : Option Nat) (v : BitVec 256) (s : State) : (ringPut r vec v s).keepTask = s.keepTask := by
  unfold ringPut
  repeat' (first
    | with_reducible rfl
    | simp only [keepTask_mk, keepTask_fold, ite_keepTask, ite_self, implies_true, keepTask_modRing, keepTask_emit]
    | refine (keepTask_each _ _ (fun a s => ?_) _).trans ?_
    | split)

theorem keepTask_telPost (n : Nat) (s : State) : (telPost n s).2.keepTask = s.keepTask := by
  induction n generalizing s with
  | zero => rfl
  | succ n ih =>
    unfold telPost
    repeat' (first
      | with_reducible rfl
      | simp only [keepTask_mk, keepTask_fold, ite_keepTask, ite_self, implies_true, ih, keepTask_ringPut]
      | refine (keepTask_each _ _ (fun a s => ?_) _).trans ?_
      | split)

theorem keepTask_emberTask (s : State) : (emberTask s).keepTask = s.keepTask := by
  unfold emberTask
  repeat' (first
    | with_reducible rfl
    | simp only [keepTask_mk, keepTask_fold, ite_keepTask, ite_self, implies_true, keepTask_each, keepTask_wcWritten]
    | refine (keepTask_each _ _ (fun a s => ?_) _).trans ?_
    | split)

theorem keepTask_engineFires (l : List (Nat × Nat × Nat)) (s : State) : (engineFires l s).keepTask = s.keepTask := by
  unfold engineFires
  repeat' (first
    | with_reducible rfl
    | simp only [keepTask_mk, keepTask_fold, ite_keepTask, ite_self, implies_true, keepTask_each, keepTask_fireUrgent]
    | refine (keepTask_each _ _ (fun a s => ?_) _).trans ?_
    | split)

theorem keepTask_sendFrame (p kind : Nat) (dst : Option Nat) (v : Nat) (s : State) : (sendFrame p kind dst v s).keepTask = s.keepTask
    := by
  unfold sendFrame
  repeat' (first
    | with_reducible rfl
    | simp only [keepTask_mk, keepTask_fold, ite_keepTask, ite_self, implies_true, keepTask_linkFrameOf, keepTask_queueFrame]
    | refine (keepTask_each _ _ (fun a s => ?_) _).trans ?_
    | split)

theorem keepTask_sendOn (l : List Nat) (f : LinkTx) (s : State) : (sendOn l f s).keepTask = s.keepTask := by
  unfold sendOn
  repeat' (first
    | with_reducible rfl
    | simp only [keepTask_mk, keepTask_fold, ite_keepTask, ite_self, implies_true, keepTask_each, keepTask_queueFrame,
        keepTask_urgentFrame]
    | refine (keepTask_each _ _ (fun a s => ?_) _).trans ?_
    | split)

theorem keepTask_sendRow (kind : Nat) (dst : Option Nat) (v : Nat) (s : State) : (sendRow kind dst v s).keepTask = s.keepTask := by
  unfold sendRow
  repeat' (first
    | with_reducible rfl
    | simp only [keepTask_mk, keepTask_fold, ite_keepTask, ite_self, implies_true, keepTask_linkFrameOf, keepTask_sendFrame,
        keepTask_sendOn]
    | refine (keepTask_each _ _ (fun a s => ?_) _).trans ?_
    | split)

theorem keepTask_rowCaps (s : State) : (rowCaps s).keepTask = s.keepTask := by
  unfold rowCaps
  repeat' (first
    | with_reducible rfl
    | simp only [keepTask_mk, keepTask_fold, ite_keepTask, ite_self, implies_true, keepTask_modRnode, keepTask_each, keepTask_raise,
        keepTask_sendRow]
    | refine (keepTask_each _ _ (fun a s => ?_) _).trans ?_
    | split)

theorem keepTask_rowTask (s : State) : (rowTask s).keepTask = s.keepTask := by
  unfold rowTask
  repeat' (first
    | with_reducible rfl
    | simp only [keepTask_mk, keepTask_fold, ite_keepTask, ite_self, implies_true, keepTask_rowCaps, keepTask_sendRow]
    | refine (keepTask_each _ _ (fun a s => ?_) _).trans ?_
    | split)

theorem keepTask_ringHalt (r cause idx addr : Nat) (s : State) : (ringHalt r cause idx addr s).keepTask = s.keepTask := by
  unfold ringHalt
  repeat' (first
    | with_reducible rfl
    | simp only [keepTask_mk, keepTask_fold, ite_keepTask, ite_self, implies_true, keepTask_modRing, keepTask_raise]
    | refine (keepTask_each _ _ (fun a s => ?_) _).trans ?_
    | split)

theorem keepTask_fetchMore (r : Nat) (s : State) : (fetchMore r s).keepTask = s.keepTask := by
  unfold fetchMore
  repeat' (first
    | with_reducible rfl
    | simp only [keepTask_mk, keepTask_fold, ite_keepTask, ite_self, implies_true, keepTask_modRing, keepTask_emit]
    | refine (keepTask_each _ _ (fun a s => ?_) _).trans ?_
    | split)

theorem keepTask_acceptEntry (d : Desc) (src ring : Nat) (s : State) : (acceptEntry d src ring s).keepTask = s.keepTask := by
  unfold acceptEntry
  repeat' (first
    | with_reducible rfl
    | simp only [keepTask_mk, keepTask_fold, ite_keepTask, ite_self, implies_true, keepTask_jAppend]
    | refine (keepTask_each _ _ (fun a s => ?_) _).trans ?_
    | split)

theorem keepTask_acceptCmd (d : Desc) (src ring head : Nat) (s : State) : (acceptCmd d src ring head s).keepTask = s.keepTask := by
  unfold acceptCmd
  repeat' (first
    | with_reducible rfl
    | simp only [keepTask_mk, keepTask_fold, ite_keepTask, ite_self, implies_true, keepTask_acceptEntry]
    | refine (keepTask_each _ _ (fun a s => ?_) _).trans ?_
    | split)

theorem keepTask_takeOne (r : Nat) (d : Desc) (s : State) : (takeOne r d s).keepTask = s.keepTask := by
  unfold takeOne
  repeat' (first
    | with_reducible rfl
    | simp only [keepTask_mk, keepTask_fold, ite_keepTask, ite_self, implies_true, keepTask_modRing, keepTask_acceptCmd,
        keepTask_fetchMore]
    | refine (keepTask_each _ _ (fun a s => ?_) _).trans ?_
    | split)

theorem keepTask_takeDescs (n : Nat) (s : State) : (takeDescs n s).2.keepTask = s.keepTask := by
  induction n generalizing s with
  | zero => rfl
  | succ n ih =>
    unfold takeDescs
    repeat' (first
      | with_reducible rfl
      | simp only [keepTask_mk, keepTask_fold, ite_keepTask, ite_self, implies_true, ih, keepTask_takeOne]
      | refine (keepTask_each _ _ (fun a s => ?_) _).trans ?_
      | split)

theorem keepTask_ringService (s : State) : (ringService s).2.keepTask = s.keepTask := by
  unfold ringService
  repeat' (first
    | with_reducible rfl
    | simp only [keepTask_mk, keepTask_fold, ite_keepTask, ite_self, implies_true, keepTask_takeDescs]
    | refine (keepTask_each _ _ (fun a s => ?_) _).trans ?_
    | split)

theorem keepTask_dropCompl (c : Compl) (s : State) : (dropCompl c s).keepTask = s.keepTask := by
  unfold dropCompl
  repeat' (first
    | with_reducible rfl
    | simp only [keepTask_mk, keepTask_fold, ite_keepTask, ite_self, implies_true, keepTask_modRing]
    | refine (keepTask_each _ _ (fun a s => ?_) _).trans ?_
    | split)

theorem keepTask_writeEntryTo (failed : List Nat) (r : Nat) (vec : Option Nat) (v : BitVec 256) (s : State) : (writeEntryTo
    failed r vec v s).keepTask = s.keepTask := by
  unfold writeEntryTo
  repeat' (first
    | with_reducible rfl
    | simp only [keepTask_mk, keepTask_fold, ite_keepTask, ite_self, implies_true, keepTask_ringHalt, keepTask_ringPut]
    | refine (keepTask_each _ _ (fun a s => ?_) _).trans ?_
    | split)

theorem keepTask_postCompl (failed : List Nat) (c : Compl) (s : State) : (postCompl failed c s).keepTask = s.keepTask := by
  unfold postCompl
  repeat' (first
    | with_reducible rfl
    | simp only [keepTask_mk, keepTask_fold, ite_keepTask, ite_self, implies_true, keepTask_dropCompl, keepTask_writeEntryTo]
    | refine (keepTask_each _ _ (fun a s => ?_) _).trans ?_
    | split)

theorem keepTask_postCompls (failed : List Nat) (n : Nat) (s : State) : (postCompls failed n s).2.keepTask = s.keepTask := by
  induction n generalizing s with
  | zero => rfl
  | succ n ih =>
    unfold postCompls
    repeat' (first
      | with_reducible rfl
      | simp only [keepTask_mk, keepTask_fold, ite_keepTask, ite_self, implies_true, ih, keepTask_postCompl]
      | refine (keepTask_each _ _ (fun a s => ?_) _).trans ?_
      | split)

theorem keepTask_holdOcc (o : Occ) (s : State) : (holdOcc o s).keepTask = s.keepTask := by
  unfold holdOcc
  repeat' (first
    | with_reducible rfl
    | simp only [keepTask_mk, keepTask_fold, ite_keepTask, ite_self, implies_true, keepTask_modRing]
    | refine (keepTask_each _ _ (fun a s => ?_) _).trans ?_
    | split)

theorem keepTask_eventList (s : State) : (eventList s).2.keepTask = s.keepTask := by
  unfold eventList
  repeat' (first
    | with_reducible rfl
    | simp only [keepTask_mk, keepTask_fold, ite_keepTask, ite_self, implies_true, keepTask_each, keepTask_holdOcc]
    | refine (keepTask_each _ _ (fun a s => ?_) _).trans ?_
    | split)

theorem keepTask_postEvents (failed : List Nat) (n : Nat) (l : List Occ) (s : State) : (postEvents failed n l s).2.2.keepTask =
    s.keepTask := by
  induction n generalizing l s with
  | zero => rfl
  | succ n ih =>
    cases l with
    | nil => rfl
    | cons o l =>
      unfold postEvents
      repeat' (first
        | with_reducible rfl
        | simp only [keepTask_mk, keepTask_fold, ite_keepTask, ite_self, implies_true, ih, keepTask_writeEntryTo]
        | refine (keepTask_each _ _ (fun a s => ?_) _).trans ?_
        | split)

theorem keepTask_postAll (failed : List Nat) (s : State) : (postAll failed s).2.keepTask = s.keepTask := by
  unfold postAll
  repeat' (first
    | with_reducible rfl
    | simp only [keepTask_mk, keepTask_fold, ite_keepTask, ite_self, implies_true, keepTask_each, keepTask_eventList, keepTask_holdOcc,
        keepTask_postCompls, keepTask_postEvents]
    | refine (keepTask_each _ _ (fun a s => ?_) _).trans ?_
    | split)


end Sys2Proof.Machine
end

