-- ==== Sys2Proof/Laws/KeptRails.lean ====
section
/-! SUPPORT. Laws/KeptRails.lean: what the operations on tables, events, the journal, rails, conversions, stages, programs and faults leave alone:
none touches the queue of commands, the frame counter, or the words of BAR0 that read back or are in force. One lemma
for each operation, cited in place of unfolding it. -/

set_option linter.all false
set_option linter.unusedSimpArgs false
set_option linter.unreachableTactic false
set_option linter.unusedTactic false

namespace Sys2Proof.Machine

/-- The queue, the frame counter, the words that read back, the words in force. -/
def State.fixed (s : State) : List Instr × Frame × Tbl W32 × Tbl W32 := (s.pending, s.clk.frame, s.bar0, s.cfg)

theorem fixed_mk (a b c d e f g h i j k l m n o p q r u v w x y z a1 b1 c1 d1 e1 f1 g1 h1 i1 j1 k1 l1) :
    State.fixed (State.mk a b c d e f g h i j k l m n o p q r u v w x y z a1 b1 c1 d1 e1 f1 g1 h1 i1 j1 k1 l1) =
      (a, b.frame, k, l) := rfl

theorem fixed_fold (s : State) : (s.pending, s.clk.frame, s.bar0, s.cfg) = s.fixed := rfl

theorem ite_fixed (c : Prop) [Decidable c] (a b : State) :
    State.fixed (if c then a else b) = if c then a.fixed else b.fixed := by split <;> rfl

theorem fixed_each {α : Type} (l : List α) (f : α → State → State) (hf : ∀ a s, (f a s).fixed = s.fixed) (s : State) :
    (each l f s).fixed = s.fixed := by
  unfold each
  induction l generalizing s with
  | nil => rfl
  | cons a l ih => exact (ih _).trans (hf a s)

theorem fixed_foldl {α β : Type} (g : β → State) (f : β → α → β) (hf : ∀ b a, (g (f b a)).fixed = (g b).fixed)
    (l : List α) (b : β) : (g (l.foldl f b)).fixed = (g b).fixed := by
  induction l generalizing b with
  | nil => rfl
  | cons a l ih => exact (ih _).trans (hf b a)


theorem fixed_when (c : Bool) (f : State → State) (s : State) (hf : ∀ s, (f s).fixed = s.fixed) : (when c f s).fixed =
    s.fixed := by
  unfold when
  repeat' (first
    | with_reducible rfl
    | simp only [fixed_mk, fixed_fold, ite_fixed, ite_self, implies_true, hf]
    | refine (fixed_each _ _ (fun a s => ?_) _).trans ?_
    | split)

theorem fixed_modEng (i : Nat) (f : Eng → Eng) (s : State) : (State.modEng i f s).fixed = s.fixed := by
  unfold State.modEng
  repeat' (first
    | with_reducible rfl
    | simp only [fixed_mk, fixed_fold, ite_fixed, ite_self, implies_true]
    | refine (fixed_each _ _ (fun a s => ?_) _).trans ?_
    | split)

theorem fixed_modRail (i : Nat) (f : Rail → Rail) (s : State) : (State.modRail i f s).fixed = s.fixed := by
  unfold State.modRail
  repeat' (first
    | with_reducible rfl
    | simp only [fixed_mk, fixed_fold, ite_fixed, ite_self, implies_true]
    | refine (fixed_each _ _ (fun a s => ?_) _).trans ?_
    | split)

theorem fixed_modBank (i : Nat) (f : Bank → Bank) (s : State) : (State.modBank i f s).fixed = s.fixed := by
  unfold State.modBank
  repeat' (first
    | with_reducible rfl
    | simp only [fixed_mk, fixed_fold, ite_fixed, ite_self, implies_true]
    | refine (fixed_each _ _ (fun a s => ?_) _).trans ?_
    | split)

theorem fixed_modMdac (i : Nat) (f : Mdac → Mdac) (s : State) : (State.modMdac i f s).fixed = s.fixed := by
  unfold State.modMdac
  repeat' (first
    | with_reducible rfl
    | simp only [fixed_mk, fixed_fold, ite_fixed, ite_self, implies_true]
    | refine (fixed_each _ _ (fun a s => ?_) _).trans ?_
    | split)

theorem fixed_modWatch (i : Nat) (f : Watch → Watch) (s : State) : (State.modWatch i f s).fixed = s.fixed := by
  unfold State.modWatch
  repeat' (first
    | with_reducible rfl
    | simp only [fixed_mk, fixed_fold, ite_fixed, ite_self, implies_true]
    | refine (fixed_each _ _ (fun a s => ?_) _).trans ?_
    | split)

theorem fixed_modStg (i : Nat) (f : Stg → Stg) (s : State) : (State.modStg i f s).fixed = s.fixed := by
  unfold State.modStg
  repeat' (first
    | with_reducible rfl
    | simp only [fixed_mk, fixed_fold, ite_fixed, ite_self, implies_true]
    | refine (fixed_each _ _ (fun a s => ?_) _).trans ?_
    | split)

theorem fixed_modPhase (i : Nat) (f : Phase → Phase) (s : State) : (State.modPhase i f s).fixed = s.fixed := by
  unfold State.modPhase
  repeat' (first
    | with_reducible rfl
    | simp only [fixed_mk, fixed_fold, ite_fixed, ite_self, implies_true]
    | refine (fixed_each _ _ (fun a s => ?_) _).trans ?_
    | split)

theorem fixed_modRing (i : Nat) (f : Ring → Ring) (s : State) : (State.modRing i f s).fixed = s.fixed := by
  unfold State.modRing
  repeat' (first
    | with_reducible rfl
    | simp only [fixed_mk, fixed_fold, ite_fixed, ite_self, implies_true]
    | refine (fixed_each _ _ (fun a s => ?_) _).trans ?_
    | split)

theorem fixed_modVec (i : Nat) (f : Vec → Vec) (s : State) : (State.modVec i f s).fixed = s.fixed := by
  unfold State.modVec
  repeat' (first
    | with_reducible rfl
    | simp only [fixed_mk, fixed_fold, ite_fixed, ite_self, implies_true]
    | refine (fixed_each _ _ (fun a s => ?_) _).trans ?_
    | split)

theorem fixed_modProg (i : Nat) (f : Prog → Prog) (s : State) : (State.modProg i f s).fixed = s.fixed := by
  unfold State.modProg
  repeat' (first
    | with_reducible rfl
    | simp only [fixed_mk, fixed_fold, ite_fixed, ite_self, implies_true]
    | refine (fixed_each _ _ (fun a s => ?_) _).trans ?_
    | split)

theorem fixed_modGrp (i : Nat) (f : Grp → Grp) (s : State) : (State.modGrp i f s).fixed = s.fixed := by
  unfold State.modGrp
  repeat' (first
    | with_reducible rfl
    | simp only [fixed_mk, fixed_fold, ite_fixed, ite_self, implies_true]
    | refine (fixed_each _ _ (fun a s => ?_) _).trans ?_
    | split)

theorem fixed_modRect (i : Nat) (f : Rect → Rect) (s : State) : (State.modRect i f s).fixed = s.fixed := by
  unfold State.modRect
  repeat' (first
    | with_reducible rfl
    | simp only [fixed_mk, fixed_fold, ite_fixed, ite_self, implies_true]
    | refine (fixed_each _ _ (fun a s => ?_) _).trans ?_
    | split)

theorem fixed_modCore (i : Nat) (f : ACore → ACore) (s : State) : (State.modCore i f s).fixed = s.fixed := by
  unfold State.modCore
  repeat' (first
    | with_reducible rfl
    | simp only [fixed_mk, fixed_fold, ite_fixed, ite_self, implies_true]
    | refine (fixed_each _ _ (fun a s => ?_) _).trans ?_
    | split)

theorem fixed_modPpair (i : Nat) (f : PPair → PPair) (s : State) : (State.modPpair i f s).fixed = s.fixed := by
  unfold State.modPpair
  repeat' (first
    | with_reducible rfl
    | simp only [fixed_mk, fixed_fold, ite_fixed, ite_self, implies_true]
    | refine (fixed_each _ _ (fun a s => ?_) _).trans ?_
    | split)

theorem fixed_modRefm (i : Nat) (f : RefMon → RefMon) (s : State) : (State.modRefm i f s).fixed = s.fixed := by
  unfold State.modRefm
  repeat' (first
    | with_reducible rfl
    | simp only [fixed_mk, fixed_fold, ite_fixed, ite_self, implies_true]
    | refine (fixed_each _ _ (fun a s => ?_) _).trans ?_
    | split)

theorem fixed_modPort (i : Nat) (f : Port → Port) (s : State) : (State.modPort i f s).fixed = s.fixed := by
  unfold State.modPort
  repeat' (first
    | with_reducible rfl
    | simp only [fixed_mk, fixed_fold, ite_fixed, ite_self, implies_true]
    | refine (fixed_each _ _ (fun a s => ?_) _).trans ?_
    | split)

theorem fixed_modRnode (i : Nat) (f : RNode → RNode) (s : State) : (State.modRnode i f s).fixed = s.fixed := by
  unfold State.modRnode
  repeat' (first
    | with_reducible rfl
    | simp only [fixed_mk, fixed_fold, ite_fixed, ite_self, implies_true]
    | refine (fixed_each _ _ (fun a s => ?_) _).trans ?_
    | split)

theorem fixed_modView (i : Nat) (f : View → View) (s : State) : (State.modView i f s).fixed = s.fixed := by
  unfold State.modView
  repeat' (first
    | with_reducible rfl
    | simp only [fixed_mk, fixed_fold, ite_fixed, ite_self, implies_true]
    | refine (fixed_each _ _ (fun a s => ?_) _).trans ?_
    | split)

theorem fixed_modCgrp (i : Nat) (f : CGroup → CGroup) (s : State) : (State.modCgrp i f s).fixed = s.fixed := by
  unfold State.modCgrp
  repeat' (first
    | with_reducible rfl
    | simp only [fixed_mk, fixed_fold, ite_fixed, ite_self, implies_true]
    | refine (fixed_each _ _ (fun a s => ?_) _).trans ?_
    | split)

theorem fixed_drawFree (w : Nat) (s : State) : (State.drawFree w s).2.fixed = s.fixed := by
  unfold State.drawFree
  repeat' (first
    | with_reducible rfl
    | simp only [fixed_mk, fixed_fold, ite_fixed, ite_self, implies_true]
    | refine (fixed_each _ _ (fun a s => ?_) _).trans ?_
    | split)

theorem fixed_emit (o : Out) (s : State) : (emit o s).fixed = s.fixed := by
  unfold emit
  repeat' (first
    | with_reducible rfl
    | simp only [fixed_mk, fixed_fold, ite_fixed, ite_self, implies_true]
    | refine (fixed_each _ _ (fun a s => ?_) _).trans ?_
    | split)

theorem fixed_signalVec (v : Nat) (s : State) : (signalVec v s).fixed = s.fixed := by
  unfold signalVec
  repeat' (first
    | with_reducible rfl
    | simp only [fixed_mk, fixed_fold, ite_fixed, ite_self, implies_true, fixed_emit]
    | refine (fixed_each _ _ (fun a s => ?_) _).trans ?_
    | split)

theorem fixed_releasePba (s : State) : (releasePba s).fixed = s.fixed := by
  unfold releasePba
  repeat' (first
    | with_reducible rfl
    | simp only [fixed_mk, fixed_fold, ite_fixed, ite_self, implies_true, fixed_each, fixed_emit]
    | refine (fixed_each _ _ (fun a s => ?_) _).trans ?_
    | split)

theorem fixed_ashAdd (n : Nat) (s : State) : (ashAdd n s).fixed = s.fixed := by
  unfold ashAdd
  repeat' (first
    | with_reducible rfl
    | simp only [fixed_mk, fixed_fold, ite_fixed, ite_self, implies_true]
    | refine (fixed_each _ _ (fun a s => ?_) _).trans ?_
    | split)

theorem fixed_capture (o : Occ) (s : State) : (capture o s).fixed = s.fixed := by
  unfold capture
  repeat' (first
    | with_reducible rfl
    | simp only [fixed_mk, fixed_fold, ite_fixed, ite_self, implies_true, fixed_ashAdd]
    | refine (fixed_each _ _ (fun a s => ?_) _).trans ?_
    | split)

theorem fixed_raiseCore (o : Occ) (s : State) : (raiseCore o s).fixed = s.fixed := by
  unfold raiseCore
  repeat' (first
    | with_reducible rfl
    | simp only [fixed_mk, fixed_fold, ite_fixed, ite_self, implies_true, fixed_capture]
    | refine (fixed_each _ _ (fun a s => ?_) _).trans ?_
    | split)

theorem fixed_ashEvent (old : Nat) (s : State) : (ashEvent old s).fixed = s.fixed := by
  unfold ashEvent
  repeat' (first
    | with_reducible rfl
    | simp only [fixed_mk, fixed_fold, ite_fixed, ite_self, implies_true, fixed_raiseCore]
    | refine (fixed_each _ _ (fun a s => ?_) _).trans ?_
    | split)

theorem fixed_raiseSev (src sev : Nat) (ts : Ts) (d : BitVec 128) (s : State) : (raiseSev src sev ts d s).fixed = s.fixed :=
    by
  unfold raiseSev
  repeat' (first
    | with_reducible rfl
    | simp only [fixed_mk, fixed_fold, ite_fixed, ite_self, implies_true, fixed_ashEvent, fixed_raiseCore]
    | refine (fixed_each _ _ (fun a s => ?_) _).trans ?_
    | split)

theorem fixed_raise (src : Nat) (ts : Ts) (d : BitVec 128) (s : State) : (raise src ts d s).fixed = s.fixed := by
  unfold raise
  repeat' (first
    | with_reducible rfl
    | simp only [fixed_mk, fixed_fold, ite_fixed, ite_self, implies_true, fixed_raiseSev]
    | refine (fixed_each _ _ (fun a s => ?_) _).trans ?_
    | split)

theorem fixed_ashRise (n : Nat) (s : State) : (ashRise n s).fixed = s.fixed := by
  unfold ashRise
  repeat' (first
    | with_reducible rfl
    | simp only [fixed_mk, fixed_fold, ite_fixed, ite_self, implies_true, fixed_ashAdd, fixed_ashEvent]
    | refine (fixed_each _ _ (fun a s => ?_) _).trans ?_
    | split)

theorem fixed_wcWritten (struct addr : Nat) (s : State) : (wcWritten struct addr s).fixed = s.fixed := by
  unfold wcWritten
  repeat' (first
    | with_reducible rfl
    | simp only [fixed_mk, fixed_fold, ite_fixed, ite_self, implies_true]
    | refine (fixed_each _ _ (fun a s => ?_) _).trans ?_
    | split)

theorem fixed_wcRenew (p : Nat → Bool) (s : State) : (wcRenew p s).fixed = s.fixed := by
  unfold wcRenew
  repeat' (first
    | with_reducible rfl
    | simp only [fixed_mk, fixed_fold, ite_fixed, ite_self, implies_true]
    | refine (fixed_each _ _ (fun a s => ?_) _).trans ?_
    | split)

theorem fixed_wcLost (p : Nat → Bool) (s : State) : (wcLost p s).fixed = s.fixed := by
  unfold wcLost
  repeat' (first
    | with_reducible rfl
    | simp only [fixed_mk, fixed_fold, ite_fixed, ite_self, implies_true, fixed_wcRenew]
    | refine (fixed_each _ _ (fun a s => ?_) _).trans ?_
    | split)

theorem fixed_wordErr (ts : Ts) (struct addr : Nat) (o : WcOut) (s : State) : (wordErr ts struct addr o s).fixed = s.fixed
    := by
  unfold wordErr
  repeat' (first
    | with_reducible rfl
    | simp only [fixed_mk, fixed_fold, ite_fixed, ite_self, implies_true]
    | refine (fixed_each _ _ (fun a s => ?_) _).trans ?_
    | split)

theorem fixed_readWord (ts : Ts) (struct addr : Nat) (s : State) : (readWord ts struct addr s).2.fixed = s.fixed := by
  unfold readWord
  repeat' (first
    | with_reducible rfl
    | simp only [fixed_mk, fixed_fold, ite_fixed, ite_self, implies_true, fixed_wcWritten, fixed_wordErr]
    | refine (fixed_each _ _ (fun a s => ?_) _).trans ?_
    | split)

theorem fixed_partWrite (ts : Ts) (engine struct addr : Nat) (f : State → State) (s : State) (hf : ∀ s, (f s).fixed =
    s.fixed) : (partWrite ts engine struct addr f s).fixed = s.fixed := by
  unfold partWrite
  repeat' (first
    | with_reducible rfl
    | simp only [fixed_mk, fixed_fold, ite_fixed, ite_self, implies_true, fixed_modEng, fixed_readWord,
        fixed_wcWritten, hf]
    | refine (fixed_each _ _ (fun a s => ?_) _).trans ?_
    | split)

theorem fixed_linkFrameOf (kind : Nat) (dst : Option Nat) (v : Nat) (s : State) : (linkFrameOf kind dst v s).2.fixed =
    s.fixed := by
  unfold linkFrameOf
  repeat' (first
    | with_reducible rfl
    | simp only [fixed_mk, fixed_fold, ite_fixed, ite_self, implies_true]
    | refine (fixed_each _ _ (fun a s => ?_) _).trans ?_
    | split)

theorem fixed_queueFrame (p : Nat) (f : LinkTx) (s : State) : (queueFrame p f s).fixed = s.fixed := by
  unfold queueFrame
  repeat' (first
    | with_reducible rfl
    | simp only [fixed_mk, fixed_fold, ite_fixed, ite_self, implies_true, fixed_modPort]
    | refine (fixed_each _ _ (fun a s => ?_) _).trans ?_
    | split)

theorem fixed_urgentFrame (p : Nat) (f : LinkTx) (s : State) : (urgentFrame p f s).fixed = s.fixed := by
  unfold urgentFrame
  repeat' (first
    | with_reducible rfl
    | simp only [fixed_mk, fixed_fold, ite_fixed, ite_self, implies_true, fixed_modPort]
    | refine (fixed_each _ _ (fun a s => ?_) _).trans ?_
    | split)

theorem fixed_sendEntry (e : JEntry) (s : State) : (sendEntry e s).fixed = s.fixed := by
  unfold sendEntry
  repeat' (first
    | with_reducible rfl
    | simp only [fixed_mk, fixed_fold, ite_fixed, ite_self, implies_true, fixed_linkFrameOf, fixed_queueFrame]
    | refine (fixed_each _ _ (fun a s => ?_) _).trans ?_
    | split)

theorem fixed_pairJournal (e : JEntry) (s : State) : (pairJournal e s).fixed = s.fixed := by
  unfold pairJournal
  repeat' (first
    | with_reducible rfl
    | simp only [fixed_mk, fixed_fold, ite_fixed, ite_self, implies_true, fixed_sendEntry]
    | refine (fixed_each _ _ (fun a s => ?_) _).trans ?_
    | split)

theorem fixed_jAppend (e : JEntry) (s : State) : (jAppend e s).fixed = s.fixed := by
  unfold jAppend
  repeat' (first
    | with_reducible rfl
    | simp only [fixed_mk, fixed_fold, ite_fixed, ite_self, implies_true, fixed_pairJournal, fixed_wcWritten]
    | refine (fixed_each _ _ (fun a s => ?_) _).trans ?_
    | split)

theorem fixed_jInternal (op src digest result : Nat) (persist : Bool) (s : State) : (jInternal op src digest result persist
    s).fixed = s.fixed := by
  unfold jInternal
  repeat' (first
    | with_reducible rfl
    | simp only [fixed_mk, fixed_fold, ite_fixed, ite_self, implies_true, fixed_jAppend]
    | refine (fixed_each _ _ (fun a s => ?_) _).trans ?_
    | split)

theorem fixed_jRewrite (q status result : Nat) (s : State) : (jRewrite q status result s).fixed = s.fixed := by
  unfold jRewrite
  repeat' (first
    | with_reducible rfl
    | simp only [fixed_mk, fixed_fold, ite_fixed, ite_self, implies_true, fixed_pairJournal, fixed_partWrite]
    | refine (fixed_each _ _ (fun a s => ?_) _).trans ?_
    | refine (fixed_partWrite _ _ _ _ _ _ (fun _ => ?_)).trans ?_
    | split)

theorem fixed_finishAt (d q status result : Nat) (s : State) : (finishAt d q status result s).fixed = s.fixed := by
  unfold finishAt
  repeat' (first
    | with_reducible rfl
    | simp only [fixed_mk, fixed_fold, ite_fixed, ite_self, implies_true]
    | refine (fixed_each _ _ (fun a s => ?_) _).trans ?_
    | split)

theorem fixed_finish (q status result : Nat) (s : State) : (finish q status result s).fixed = s.fixed := by
  unfold finish
  repeat' (first
    | with_reducible rfl
    | simp only [fixed_mk, fixed_fold, ite_fixed, ite_self, implies_true, fixed_finishAt]
    | refine (fixed_each _ _ (fun a s => ?_) _).trans ?_
    | split)

theorem fixed_park (q : Nat) (w : Wait) (s : State) : (park q w s).fixed = s.fixed := by
  unfold park
  repeat' (first
    | with_reducible rfl
    | simp only [fixed_mk, fixed_fold, ite_fixed, ite_self, implies_true]
    | refine (fixed_each _ _ (fun a s => ?_) _).trans ?_
    | split)

theorem fixed_finishAll (w : Wait → Bool) (status result : Nat) (s : State) : (finishAll w status result s).fixed = s.fixed
    := by
  unfold finishAll
  repeat' (first
    | with_reducible rfl
    | simp only [fixed_mk, fixed_fold, ite_fixed, ite_self, implies_true, fixed_each, fixed_finish]
    | refine (fixed_each _ _ (fun a s => ?_) _).trans ?_
    | split)

theorem fixed_finishMid (w : Wait → Bool) (status result : Nat) (s : State) : (finishMid w status result s).fixed = s.fixed
    := by
  unfold finishMid
  repeat' (first
    | with_reducible rfl
    | simp only [fixed_mk, fixed_fold, ite_fixed, ite_self, implies_true, fixed_each, fixed_finishAt]
    | refine (fixed_each _ _ (fun a s => ?_) _).trans ?_
    | split)

theorem fixed_applyFinals (s : State) : (applyFinals s).fixed = s.fixed := by
  unfold applyFinals
  repeat' (first
    | with_reducible rfl
    | simp only [fixed_mk, fixed_fold, ite_fixed, ite_self, implies_true, fixed_each, fixed_jRewrite]
    | refine (fixed_each _ _ (fun a s => ?_) _).trans ?_
    | split)

theorem fixed_commitEnd (k : CKey) (s : State) : (commitEnd k s).fixed = s.fixed := by
  unfold commitEnd
  repeat' (first
    | with_reducible rfl
    | simp only [fixed_mk, fixed_fold, ite_fixed, ite_self, implies_true]
    | refine (fixed_each _ _ (fun a s => ?_) _).trans ?_
    | split)

theorem fixed_alogAdd (e : ALog) (s : State) : (alogAdd e s).fixed = s.fixed := by
  unfold alogAdd
  repeat' (first
    | with_reducible rfl
    | simp only [fixed_mk, fixed_fold, ite_fixed, ite_self, implies_true]
    | refine (fixed_each _ _ (fun a s => ?_) _).trans ?_
    | split)

theorem fixed_alogWithdraw (id kind order prio inrush steady : Nat) (s : State) : (alogWithdraw id kind order prio inrush
    steady s).fixed = s.fixed := by
  unfold alogWithdraw
  repeat' (first
    | with_reducible rfl
    | simp only [fixed_mk, fixed_fold, ite_fixed, ite_self, implies_true, fixed_alogAdd]
    | refine (fixed_each _ _ (fun a s => ?_) _).trans ?_
    | split)

theorem fixed_pmbPush (m : Nat) (j : PmbJob) (s : State) : (pmbPush m j s).fixed = s.fixed := by
  unfold pmbPush
  repeat' (first
    | with_reducible rfl
    | simp only [fixed_mk, fixed_fold, ite_fixed, ite_self, implies_true]
    | refine (fixed_each _ _ (fun a s => ?_) _).trans ?_
    | split)

theorem fixed_itemDone (n code : Nat) (s : State) : (itemDone n code s).fixed = s.fixed := by
  unfold itemDone
  repeat' (first
    | with_reducible rfl
    | simp only [fixed_mk, fixed_fold, ite_fixed, ite_self, implies_true, fixed_modProg]
    | refine (fixed_each _ _ (fun a s => ?_) _).trans ?_
    | split)

theorem fixed_marginTell (o : Owner) (code status : Nat) (s : State) : (marginTell o code status s).fixed = s.fixed := by
  unfold marginTell
  repeat' (first
    | with_reducible rfl
    | simp only [fixed_mk, fixed_fold, ite_fixed, ite_self, implies_true, fixed_finish, fixed_itemDone]
    | refine (fixed_each _ _ (fun a s => ?_) _).trans ?_
    | split)

theorem fixed_mdacTarget (k : Nat) (t : Int) (s : State) : (mdacTarget k t s).fixed = s.fixed := by
  unfold mdacTarget
  repeat' (first
    | with_reducible rfl
    | simp only [fixed_mk, fixed_fold, ite_fixed, ite_self, implies_true, fixed_modMdac]
    | refine (fixed_each _ _ (fun a s => ?_) _).trans ?_
    | split)

theorem fixed_pmbNominal (i : Nat) (s : State) : (pmbNominal i s).fixed = s.fixed := by
  unfold pmbNominal
  repeat' (first
    | with_reducible rfl
    | simp only [fixed_mk, fixed_fold, ite_fixed, ite_self, implies_true, fixed_modRail, fixed_pmbPush]
    | refine (fixed_each _ _ (fun a s => ?_) _).trans ?_
    | split)

theorem fixed_marginNominal (i : Nat) (s : State) : (marginNominal i s).fixed = s.fixed := by
  unfold marginNominal
  repeat' (first
    | with_reducible rfl
    | simp only [fixed_mk, fixed_fold, ite_fixed, ite_self, implies_true, fixed_modRail, fixed_commitEnd,
        fixed_mdacTarget, fixed_pmbNominal]
    | refine (fixed_each _ _ (fun a s => ?_) _).trans ?_
    | split)

theorem fixed_marginLeave (i : Nat) (s : State) : (marginLeave i s).fixed = s.fixed := by
  unfold marginLeave
  repeat' (first
    | with_reducible rfl
    | simp only [fixed_mk, fixed_fold, ite_fixed, ite_self, implies_true, fixed_each, fixed_marginNominal,
        fixed_marginTell]
    | refine (fixed_each _ _ (fun a s => ?_) _).trans ?_
    | split)

theorem fixed_cancelRetry (i : Nat) (s : State) : (cancelRetry i s).fixed = s.fixed := by
  unfold cancelRetry
  repeat' (first
    | with_reducible rfl
    | simp only [fixed_mk, fixed_fold, ite_fixed, ite_self, implies_true, fixed_modRail, fixed_alogWithdraw,
        fixed_commitEnd]
    | refine (fixed_each _ _ (fun a s => ?_) _).trans ?_
    | split)

theorem fixed_resumeDrop (i : Nat) (s : State) : (resumeDrop i s).fixed = s.fixed := by
  unfold resumeDrop
  repeat' (first
    | with_reducible rfl
    | simp only [fixed_mk, fixed_fold, ite_fixed, ite_self, implies_true, fixed_modRail, fixed_commitEnd]
    | refine (fixed_each _ _ (fun a s => ?_) _).trans ?_
    | split)

theorem fixed_setRState (i : Nat) (st : RState) (s : State) : (setRState i st s).fixed = s.fixed := by
  unfold setRState
  repeat' (first
    | with_reducible rfl
    | simp only [fixed_mk, fixed_fold, ite_fixed, ite_self, implies_true, fixed_modRail, fixed_cancelRetry,
        fixed_commitEnd, fixed_marginLeave, fixed_resumeDrop]
    | refine (fixed_each _ _ (fun a s => ?_) _).trans ?_
    | split)

theorem fixed_driveEn (i : Nat) (b : Bool) (s : State) : (driveEn i b s).fixed = s.fixed := by
  unfold driveEn
  repeat' (first
    | with_reducible rfl
    | simp only [fixed_mk, fixed_fold, ite_fixed, ite_self, implies_true, fixed_modRail]
    | refine (fixed_each _ _ (fun a s => ?_) _).trans ?_
    | split)

theorem fixed_setEn (i : Nat) (b : Bool) (s : State) : (setEn i b s).fixed = s.fixed := by
  unfold setEn
  repeat' (first
    | with_reducible rfl
    | simp only [fixed_mk, fixed_fold, ite_fixed, ite_self, implies_true, fixed_modRail, fixed_driveEn]
    | refine (fixed_each _ _ (fun a s => ?_) _).trans ?_
    | split)

theorem fixed_stepEnQ (i : Nat) (s : State) : (stepEnQ i s).fixed = s.fixed := by
  unfold stepEnQ
  repeat' (first
    | with_reducible rfl
    | simp only [fixed_mk, fixed_fold, ite_fixed, ite_self, implies_true, fixed_modRail, fixed_driveEn, fixed_each]
    | refine (fixed_each _ _ (fun a s => ?_) _).trans ?_
    | split)

theorem fixed_leaveHiz (i : Nat) (s : State) : (leaveHiz i s).fixed = s.fixed := by
  unfold leaveHiz
  repeat' (first
    | with_reducible rfl
    | simp only [fixed_mk, fixed_fold, ite_fixed, ite_self, implies_true, fixed_modRail, fixed_setEn, fixed_setRState]
    | refine (fixed_each _ _ (fun a s => ?_) _).trans ?_
    | split)

theorem fixed_foldEnd (i : Nat) (s : State) : (foldEnd i s).fixed = s.fixed := by
  unfold foldEnd
  repeat' (first
    | with_reducible rfl
    | simp only [fixed_mk, fixed_fold, ite_fixed, ite_self, implies_true, fixed_modRail, fixed_leaveHiz]
    | refine (fixed_each _ _ (fun a s => ?_) _).trans ?_
    | split)

theorem fixed_dropRail (i : Nat) (s : State) : (dropRail i s).fixed = s.fixed := by
  unfold dropRail
  repeat' (first
    | with_reducible rfl
    | simp only [fixed_mk, fixed_fold, ite_fixed, ite_self, implies_true, fixed_foldEnd, fixed_setEn, fixed_setRState]
    | refine (fixed_each _ _ (fun a s => ?_) _).trans ?_
    | split)

theorem fixed_releaseRail (i : Nat) (s : State) : (releaseRail i s).fixed = s.fixed := by
  unfold releaseRail
  repeat' (first
    | with_reducible rfl
    | simp only [fixed_mk, fixed_fold, ite_fixed, ite_self, implies_true, fixed_foldEnd, fixed_setEn, fixed_setRState]
    | refine (fixed_each _ _ (fun a s => ?_) _).trans ?_
    | split)

theorem fixed_toHiz (i : Nat) (s : State) : (toHiz i s).fixed = s.fixed := by
  unfold toHiz
  repeat' (first
    | with_reducible rfl
    | simp only [fixed_mk, fixed_fold, ite_fixed, ite_self, implies_true, fixed_modRail, fixed_setRState]
    | refine (fixed_each _ _ (fun a s => ?_) _).trans ?_
    | split)

theorem fixed_startRail (i : Nat) (f : Fig) (s : State) : (startRail i f s).fixed = s.fixed := by
  unfold startRail
  repeat' (first
    | with_reducible rfl
    | simp only [fixed_mk, fixed_fold, ite_fixed, ite_self, implies_true, fixed_modRail, fixed_setEn, fixed_setRState]
    | refine (fixed_each _ _ (fun a s => ?_) _).trans ?_
    | split)

theorem fixed_detect (kind : Nat) (dir : Bool) (onset : Ts) (i : Nat) (s : State) : (detect kind dir onset i s).fixed =
    s.fixed := by
  unfold detect
  repeat' (first
    | with_reducible rfl
    | simp only [fixed_mk, fixed_fold, ite_fixed, ite_self, implies_true, fixed_modRail]
    | refine (fixed_each _ _ (fun a s => ?_) _).trans ?_
    | split)

theorem fixed_samplePg (mv : Int) (i : Nat) (s : State) : (samplePg mv i s).fixed = s.fixed := by
  unfold samplePg
  repeat' (first
    | with_reducible rfl
    | simp only [fixed_mk, fixed_fold, ite_fixed, ite_self, implies_true, fixed_modRail]
    | refine (fixed_each _ _ (fun a s => ?_) _).trans ?_
    | split)

theorem fixed_debounce (i : Nat) (s : State) : (debounce i s).fixed = s.fixed := by
  unfold debounce
  repeat' (first
    | with_reducible rfl
    | simp only [fixed_mk, fixed_fold, ite_fixed, ite_self, implies_true, fixed_modRail]
    | refine (fixed_each _ _ (fun a s => ?_) _).trans ?_
    | split)

theorem fixed_goodTicks (i : Nat) (s : State) : (goodTicks i s).fixed = s.fixed := by
  unfold goodTicks
  repeat' (first
    | with_reducible rfl
    | simp only [fixed_mk, fixed_fold, ite_fixed, ite_self, implies_true, fixed_modRail]
    | refine (fixed_each _ _ (fun a s => ?_) _).trans ?_
    | split)

theorem fixed_goodTicksActs (i : Nat) (s : State) : (goodTicksActs i s).fixed = s.fixed := by
  unfold goodTicksActs
  repeat' (first
    | with_reducible rfl
    | simp only [fixed_mk, fixed_fold, ite_fixed, ite_self, implies_true, fixed_modRail, fixed_commitEnd]
    | refine (fixed_each _ _ (fun a s => ?_) _).trans ?_
    | split)

theorem fixed_judgePg (i : Nat) (s : State) : (judgePg i s).fixed = s.fixed := by
  unfold judgePg
  repeat' (first
    | with_reducible rfl
    | simp only [fixed_mk, fixed_fold, ite_fixed, ite_self, implies_true, fixed_detect, fixed_setRState]
    | refine (fixed_each _ _ (fun a s => ?_) _).trans ?_
    | split)

theorem fixed_railTimers (i : Nat) (s : State) : (railTimers i s).fixed = s.fixed := by
  unfold railTimers
  repeat' (first
    | with_reducible rfl
    | simp only [fixed_mk, fixed_fold, ite_fixed, ite_self, implies_true, fixed_modRail]
    | refine (fixed_each _ _ (fun a s => ?_) _).trans ?_
    | split)

theorem fixed_judgeLate (i : Nat) (s : State) : (judgeLate i s).fixed = s.fixed := by
  unfold judgeLate
  repeat' (first
    | with_reducible rfl
    | simp only [fixed_mk, fixed_fold, ite_fixed, ite_self, implies_true, fixed_modRail, fixed_detect]
    | refine (fixed_each _ _ (fun a s => ?_) _).trans ?_
    | split)

theorem fixed_assistResult (ilim level : Bool) (i : Nat) (s : State) : (assistResult ilim level i s).fixed = s.fixed := by
  unfold assistResult
  repeat' (first
    | with_reducible rfl
    | simp only [fixed_mk, fixed_fold, ite_fixed, ite_self, implies_true, fixed_modRail, fixed_detect]
    | refine (fixed_each _ _ (fun a s => ?_) _).trans ?_
    | split)

theorem fixed_readback (mv : Int) (ilim : Bool) (i : Nat) (s : State) : (readback mv ilim i s).fixed = s.fixed := by
  unfold readback
  repeat' (first
    | with_reducible rfl
    | simp only [fixed_mk, fixed_fold, ite_fixed, ite_self, implies_true, fixed_modRail, fixed_assistResult,
        fixed_detect]
    | refine (fixed_each _ _ (fun a s => ?_) _).trans ?_
    | split)

theorem fixed_foldBack (i : Nat) (s : State) : (foldBack i s).fixed = s.fixed := by
  unfold foldBack
  repeat' (first
    | with_reducible rfl
    | simp only [fixed_mk, fixed_fold, ite_fixed, ite_self, implies_true, fixed_modRail, fixed_raise, fixed_toHiz]
    | refine (fixed_each _ _ (fun a s => ?_) _).trans ?_
    | split)

theorem fixed_countIlim (i : Nat) (s : State) : (countIlim i s).fixed = s.fixed := by
  unfold countIlim
  repeat' (first
    | with_reducible rfl
    | simp only [fixed_mk, fixed_fold, ite_fixed, ite_self, implies_true, fixed_modRail, fixed_foldBack]
    | refine (fixed_each _ _ (fun a s => ?_) _).trans ?_
    | split)

theorem fixed_judgeStuck (i : Nat) (s : State) : (judgeStuck i s).fixed = s.fixed := by
  unfold judgeStuck
  repeat' (first
    | with_reducible rfl
    | simp only [fixed_mk, fixed_fold, ite_fixed, ite_self, implies_true, fixed_modRail, fixed_detect]
    | refine (fixed_each _ _ (fun a s => ?_) _).trans ?_
    | split)

theorem fixed_owCount (fail : Bool) (i : Nat) (s : State) : (owCount fail i s).fixed = s.fixed := by
  unfold owCount
  repeat' (first
    | with_reducible rfl
    | simp only [fixed_mk, fixed_fold, ite_fixed, ite_self, implies_true, fixed_modBank, fixed_modRail, fixed_detect]
    | refine (fixed_each _ _ (fun a s => ?_) _).trans ?_
    | split)

theorem fixed_owBegin (s : State) : (owBegin s).fixed = s.fixed := by
  unfold owBegin
  repeat' (first
    | with_reducible rfl
    | simp only [fixed_mk, fixed_fold, ite_fixed, ite_self, implies_true, fixed_modBank, fixed_modRail, fixed_each]
    | refine (fixed_each _ _ (fun a s => ?_) _).trans ?_
    | split)

theorem fixed_mdacsOff (b : Nat) (s : State) : (mdacsOff b s).fixed = s.fixed := by
  unfold mdacsOff
  repeat' (first
    | with_reducible rfl
    | simp only [fixed_mk, fixed_fold, ite_fixed, ite_self, implies_true, fixed_modMdac, fixed_each]
    | refine (fixed_each _ _ (fun a s => ?_) _).trans ?_
    | split)

theorem fixed_vioFall (b : Nat) (s : State) : (vioFall b s).fixed = s.fixed := by
  unfold vioFall
  repeat' (first
    | with_reducible rfl
    | simp only [fixed_mk, fixed_fold, ite_fixed, ite_self, implies_true, fixed_modBank, fixed_cancelRetry, fixed_each,
        fixed_mdacsOff, fixed_raise, fixed_toHiz]
    | refine (fixed_each _ _ (fun a s => ?_) _).trans ?_
    | split)

theorem fixed_vioRise (b : Nat) (s : State) : (vioRise b s).fixed = s.fixed := by
  unfold vioRise
  repeat' (first
    | with_reducible rfl
    | simp only [fixed_mk, fixed_fold, ite_fixed, ite_self, implies_true, fixed_modBank, fixed_each, fixed_leaveHiz]
    | refine (fixed_each _ _ (fun a s => ?_) _).trans ?_
    | split)

theorem fixed_sampleVio (b : Nat) (mv : Int) (s : State) : (sampleVio b mv s).fixed = s.fixed := by
  unfold sampleVio
  repeat' (first
    | with_reducible rfl
    | simp only [fixed_mk, fixed_fold, ite_fixed, ite_self, implies_true, fixed_modBank, fixed_vioFall, fixed_vioRise]
    | refine (fixed_each _ _ (fun a s => ?_) _).trans ?_
    | split)

theorem fixed_mdacCompliance (k : Nat) (s : State) : (mdacCompliance k s).fixed = s.fixed := by
  unfold mdacCompliance
  repeat' (first
    | with_reducible rfl
    | simp only [fixed_mk, fixed_fold, ite_fixed, ite_self, implies_true, fixed_modMdac, fixed_raise]
    | refine (fixed_each _ _ (fun a s => ?_) _).trans ?_
    | split)

theorem fixed_mdacStep (k : Nat) (s : State) : (mdacStep k s).fixed = s.fixed := by
  unfold mdacStep
  repeat' (first
    | with_reducible rfl
    | simp only [fixed_mk, fixed_fold, ite_fixed, ite_self, implies_true, fixed_modMdac]
    | refine (fixed_each _ _ (fun a s => ?_) _).trans ?_
    | split)

theorem fixed_modEnt (c e : Nat) (f : Ent → Ent) (s : State) : (modEnt c e f s).fixed = s.fixed := by
  unfold modEnt
  repeat' (first
    | with_reducible rfl
    | simp only [fixed_mk, fixed_fold, ite_fixed, ite_self, implies_true, fixed_modCore]
    | refine (fixed_each _ _ (fun a s => ?_) _).trans ?_
    | split)

theorem fixed_modSlice (c i : Nat) (f : Slice → Slice) (s : State) : (modSlice c i f s).fixed = s.fixed := by
  unfold modSlice
  repeat' (first
    | with_reducible rfl
    | simp only [fixed_mk, fixed_fold, ite_fixed, ite_self, implies_true, fixed_modCore]
    | refine (fixed_each _ _ (fun a s => ?_) _).trans ?_
    | split)

theorem fixed_setPlan (c g : Nat) (u : SlotUse) (s : State) : (setPlan c g u s).fixed = s.fixed := by
  unfold setPlan
  repeat' (first
    | with_reducible rfl
    | simp only [fixed_mk, fixed_fold, ite_fixed, ite_self, implies_true, fixed_modCore]
    | refine (fixed_each _ _ (fun a s => ?_) _).trans ?_
    | split)

theorem fixed_lowTake (c g : Nat) (s : State) : (lowTake c g s).fixed = s.fixed := by
  unfold lowTake
  repeat' (first
    | with_reducible rfl
    | simp only [fixed_mk, fixed_fold, ite_fixed, ite_self, implies_true, fixed_modCore]
    | refine (fixed_each _ _ (fun a s => ?_) _).trans ?_
    | split)

theorem fixed_allot (c m : Nat) (s : State) : (allot c m s).fixed = s.fixed := by
  unfold allot
  repeat' (first
    | with_reducible rfl
    | simp only [fixed_mk, fixed_fold, ite_fixed, ite_self, implies_true, fixed_each, fixed_lowTake, fixed_setPlan]
    | refine (fixed_each _ _ (fun a s => ?_) _).trans ?_
    | split)

theorem fixed_dropTell (c e : Nat) (s : State) : (dropTell c e s).fixed = s.fixed := by
  unfold dropTell
  repeat' (first
    | with_reducible rfl
    | simp only [fixed_mk, fixed_fold, ite_fixed, ite_self, implies_true, fixed_modCore, fixed_raise]
    | refine (fixed_each _ _ (fun a s => ?_) _).trans ?_
    | split)

theorem fixed_dropConv (c e : Nat) (s : State) : (dropConv c e s).fixed = s.fixed := by
  unfold dropConv
  repeat' (first
    | with_reducible rfl
    | simp only [fixed_mk, fixed_fold, ite_fixed, ite_self, implies_true, fixed_modCore, fixed_dropTell]
    | refine (fixed_each _ _ (fun a s => ?_) _).trans ?_
    | split)

theorem fixed_unplace (c at_ : Nat) (s : State) : (unplace c at_ s).fixed = s.fixed := by
  unfold unplace
  repeat' (first
    | with_reducible rfl
    | simp only [fixed_mk, fixed_fold, ite_fixed, ite_self, implies_true, fixed_modCore]
    | refine (fixed_each _ _ (fun a s => ?_) _).trans ?_
    | split)

theorem fixed_placeDisplaced (c : Nat) (d : Nat × Nat × Option Nat) (s : State) : (placeDisplaced c d s).fixed = s.fixed :=
    by
  unfold placeDisplaced
  repeat' (first
    | with_reducible rfl
    | simp only [fixed_mk, fixed_fold, ite_fixed, ite_self, implies_true, fixed_modCore, fixed_dropConv]
    | refine (fixed_each _ _ (fun a s => ?_) _).trans ?_
    | split)

theorem fixed_placeClaims (c at_ : Nat) (s : State) : (placeClaims c at_ s).fixed = s.fixed := by
  unfold placeClaims
  repeat' (first
    | with_reducible rfl
    | simp only [fixed_mk, fixed_fold, ite_fixed, ite_self, implies_true, fixed_modCore, fixed_each,
        fixed_placeDisplaced, fixed_unplace]
    | refine (fixed_each _ _ (fun a s => ?_) _).trans ?_
    | split)

theorem fixed_unplan (c at_ : Nat) (g : Nat) (s : State) : (unplan c at_ g s).fixed = s.fixed := by
  unfold unplan
  repeat' (first
    | with_reducible rfl
    | simp only [fixed_mk, fixed_fold, ite_fixed, ite_self, implies_true, fixed_modCore, fixed_setPlan]
    | refine (fixed_each _ _ (fun a s => ?_) _).trans ?_
    | split)

theorem fixed_displace (c at_ : Nat) (l : List Nat) (s : State) : (displace c at_ l s).fixed = s.fixed := by
  unfold displace
  repeat' (first
    | with_reducible rfl
    | simp only [fixed_mk, fixed_fold, ite_fixed, ite_self, implies_true, fixed_each, fixed_placeClaims, fixed_unplan]
    | refine (fixed_each _ _ (fun a s => ?_) _).trans ?_
    | split)

theorem fixed_startSeq (c t g : Nat) (s : State) : (startSeq c t g s).fixed = s.fixed := by
  unfold startSeq
  repeat' (first
    | with_reducible rfl
    | simp only [fixed_mk, fixed_fold, ite_fixed, ite_self, implies_true, fixed_modCore, fixed_placeClaims]
    | refine (fixed_each _ _ (fun a s => ?_) _).trans ?_
    | split)

theorem fixed_seqEnded (c e : Nat) (s : State) : (seqEnded c e s).fixed = s.fixed := by
  unfold seqEnded
  repeat' (first
    | with_reducible rfl
    | simp only [fixed_mk, fixed_fold, ite_fixed, ite_self, implies_true, fixed_modCore, fixed_finishMid]
    | refine (fixed_each _ _ (fun a s => ?_) _).trans ?_
    | split)

theorem fixed_modUrg (c k : Nat) (f : Urg → Urg) (s : State) : (modUrg c k f s).fixed = s.fixed := by
  unfold modUrg
  repeat' (first
    | with_reducible rfl
    | simp only [fixed_mk, fixed_fold, ite_fixed, ite_self, implies_true, fixed_modCore]
    | refine (fixed_each _ _ (fun a s => ?_) _).trans ?_
    | split)

theorem fixed_fireUrgent (c k cyc : Nat) (s : State) : (fireUrgent c k cyc s).2.fixed = s.fixed := by
  unfold fireUrgent
  repeat' (first
    | with_reducible rfl
    | simp only [fixed_mk, fixed_fold, ite_fixed, ite_self, implies_true, fixed_modCore, fixed_each, fixed_modUrg,
        fixed_raise]
    | refine (fixed_each _ _ (fun a s => ?_) _).trans ?_
    | split)

theorem fixed_scrubDone (c i g : Nat) (s : State) : (scrubDone c i g s).fixed = s.fixed := by
  unfold scrubDone
  repeat' (first
    | with_reducible rfl
    | simp only [fixed_mk, fixed_fold, ite_fixed, ite_self, implies_true, fixed_modCore, fixed_modSlice]
    | refine (fixed_each _ _ (fun a s => ?_) _).trans ?_
    | split)

theorem fixed_startUrgent (c k : Nat) (s : State) : (startUrgent c k s).fixed = s.fixed := by
  unfold startUrgent
  repeat' (first
    | with_reducible rfl
    | simp only [fixed_mk, fixed_fold, ite_fixed, ite_self, implies_true, fixed_displace, fixed_modUrg, fixed_scrubDone]
    | refine (fixed_each _ _ (fun a s => ?_) _).trans ?_
    | split)

theorem fixed_overRange (c i ch e g : Nat) (res : Res) (clamp : Bool) (s : State) : (overRange c i ch e g res clamp s).fixed
    = s.fixed := by
  unfold overRange
  repeat' (first
    | with_reducible rfl
    | simp only [fixed_mk, fixed_fold, ite_fixed, ite_self, implies_true, fixed_modCore, fixed_modSlice, fixed_raise]
    | refine (fixed_each _ _ (fun a s => ?_) _).trans ?_
    | split)

theorem fixed_windowUpdate (c e : Nat) (r : Res) (s : State) : (windowUpdate c e r s).fixed = s.fixed := by
  unfold windowUpdate
  repeat' (first
    | with_reducible rfl
    | simp only [fixed_mk, fixed_fold, ite_fixed, ite_self, implies_true, fixed_modCore, fixed_modEnt, fixed_raise]
    | refine (fixed_each _ _ (fun a s => ?_) _).trans ?_
    | split)

theorem fixed_countWindows (c : Nat) (s : State) : (countWindows c s).fixed = s.fixed := by
  unfold countWindows
  repeat' (first
    | with_reducible rfl
    | simp only [fixed_mk, fixed_fold, ite_fixed, ite_self, implies_true, fixed_modCore]
    | refine (fixed_each _ _ (fun a s => ?_) _).trans ?_
    | split)

theorem fixed_seeResults (c : Nat) (s : State) : (seeResults c s).fixed = s.fixed := by
  unfold seeResults
  repeat' (first
    | with_reducible rfl
    | simp only [fixed_mk, fixed_fold, ite_fixed, ite_self, implies_true, fixed_modCore]
    | refine (fixed_each _ _ (fun a s => ?_) _).trans ?_
    | split)

theorem fixed_invalidCore (c : Nat) (s : State) : (invalidCore c s).fixed = s.fixed := by
  unfold invalidCore
  repeat' (first
    | with_reducible rfl
    | simp only [fixed_mk, fixed_fold, ite_fixed, ite_self, implies_true, fixed_each, fixed_modEnt]
    | refine (fixed_each _ _ (fun a s => ?_) _).trans ?_
    | split)

theorem fixed_plausVote (p : Nat) (a b : Res) (s : State) : (plausVote p a b s).fixed = s.fixed := by
  unfold plausVote
  repeat' (first
    | with_reducible rfl
    | simp only [fixed_mk, fixed_fold, ite_fixed, ite_self, implies_true, fixed_modPpair, fixed_raise]
    | refine (fixed_each _ _ (fun a s => ?_) _).trans ?_
    | split)

theorem fixed_plausRestore (p : Nat) (s : State) : (plausRestore p s).fixed = s.fixed := by
  unfold plausRestore
  repeat' (first
    | with_reducible rfl
    | simp only [fixed_mk, fixed_fold, ite_fixed, ite_self, implies_true, fixed_modPpair, fixed_raise]
    | refine (fixed_each _ _ (fun a s => ?_) _).trans ?_
    | split)

theorem fixed_plausCompare (p : Nat) (s : State) : (plausCompare p s).fixed = s.fixed := by
  unfold plausCompare
  repeat' (first
    | with_reducible rfl
    | simp only [fixed_mk, fixed_fold, ite_fixed, ite_self, implies_true, fixed_modPpair, fixed_plausRestore,
        fixed_plausVote]
    | refine (fixed_each _ _ (fun a s => ?_) _).trans ?_
    | split)

theorem fixed_coefUpdate (c k i : Nat) (r : Int) (s : State) : (coefUpdate c k i r s).fixed = s.fixed := by
  unfold coefUpdate
  repeat' (first
    | with_reducible rfl
    | simp only [fixed_mk, fixed_fold, ite_fixed, ite_self, implies_true, fixed_modSlice]
    | refine (fixed_each _ _ (fun a s => ?_) _).trans ?_
    | split)

theorem fixed_hkResult (c k i : Nat) (r : Int) (res : Res) (s : State) : (hkResult c k i r res s).fixed = s.fixed := by
  unfold hkResult
  repeat' (first
    | with_reducible rfl
    | simp only [fixed_mk, fixed_fold, ite_fixed, ite_self, implies_true, fixed_modCore, fixed_coefUpdate]
    | refine (fixed_each _ _ (fun a s => ?_) _).trans ?_
    | split)

theorem fixed_shedCompare (c e : Nat) (r : Res) (s : State) : (shedCompare c e r s).fixed = s.fixed := by
  unfold shedCompare
  repeat' (first
    | with_reducible rfl
    | simp only [fixed_mk, fixed_fold, ite_fixed, ite_self, implies_true]
    | refine (fixed_each _ _ (fun a s => ?_) _).trans ?_
    | split)

theorem fixed_railHistory (c e : Nat) (r : Res) (s : State) : (railHistory c e r s).fixed = s.fixed := by
  unfold railHistory
  repeat' (first
    | with_reducible rfl
    | simp only [fixed_mk, fixed_fold, ite_fixed, ite_self, implies_true, fixed_modRail]
    | refine (fixed_each _ _ (fun a s => ?_) _).trans ?_
    | split)

theorem fixed_calRefuse (status res : Nat) (s : State) : (calRefuse status res s).fixed = s.fixed := by
  unfold calRefuse
  repeat' (first
    | with_reducible rfl
    | simp only [fixed_mk, fixed_fold, ite_fixed, ite_self, implies_true, fixed_finishAt, fixed_raise]
    | refine (fixed_each _ _ (fun a s => ?_) _).trans ?_
    | split)

theorem fixed_calAverage (c e : Nat) (r : Res) (s : State) : (calAverage c e r s).fixed = s.fixed := by
  unfold calAverage
  repeat' (first
    | with_reducible rfl
    | simp only [fixed_mk, fixed_fold, ite_fixed, ite_self, implies_true, fixed_calRefuse]
    | refine (fixed_each _ _ (fun a s => ?_) _).trans ?_
    | split)

theorem fixed_writeEntry (c e g i : Nat) (r : Int) (clamp urg : Bool) (s : State) : (writeEntry c e g i r clamp urg s).fixed
    = s.fixed := by
  unfold writeEntry
  repeat' (first
    | with_reducible rfl
    | simp only [fixed_mk, fixed_fold, ite_fixed, ite_self, implies_true, fixed_calAverage, fixed_dropConv,
        fixed_modEnt, fixed_overRange, fixed_railHistory, fixed_shedCompare, fixed_windowUpdate]
    | refine (fixed_each _ _ (fun a s => ?_) _).trans ?_
    | split)

theorem fixed_pResult (c i g : Nat) (r : Int) (clamp : Bool) (s : State) : (pResult c i g r clamp s).fixed = s.fixed := by
  unfold pResult
  repeat' (first
    | with_reducible rfl
    | simp only [fixed_mk, fixed_fold, ite_fixed, ite_self, implies_true, fixed_modCore, fixed_overRange,
        fixed_plausCompare]
    | refine (fixed_each _ _ (fun a s => ?_) _).trans ?_
    | split)

theorem fixed_slotEnd (c j : Nat) (r : Int) (clamp : Bool) (s : State) : (slotEnd c j r clamp s).fixed = s.fixed := by
  unfold slotEnd
  repeat' (first
    | with_reducible rfl
    | simp only [fixed_mk, fixed_fold, ite_fixed, ite_self, implies_true, fixed_displace, fixed_hkResult,
        fixed_overRange, fixed_pResult, fixed_scrubDone, fixed_seqEnded, fixed_setPlan, fixed_writeEntry]
    | refine (fixed_each _ _ (fun a s => ?_) _).trans ?_
    | split)

theorem fixed_urgentEnd (c k : Nat) (r : Int) (clamp : Bool) (s : State) : (urgentEnd c k r clamp s).fixed = s.fixed := by
  unfold urgentEnd
  repeat' (first
    | with_reducible rfl
    | simp only [fixed_mk, fixed_fold, ite_fixed, ite_self, implies_true, fixed_finishMid, fixed_modUrg,
        fixed_writeEntry]
    | refine (fixed_each _ _ (fun a s => ?_) _).trans ?_
    | split)

theorem fixed_refFault (p : Nat) (s : State) : (refFault p s).fixed = s.fixed := by
  unfold refFault
  repeat' (first
    | with_reducible rfl
    | simp only [fixed_mk, fixed_fold, ite_fixed, ite_self, implies_true, fixed_modRefm, fixed_raise]
    | refine (fixed_each _ _ (fun a s => ?_) _).trans ?_
    | split)

theorem fixed_refFall (p : Nat) (s : State) : (refFall p s).fixed = s.fixed := by
  unfold refFall
  repeat' (first
    | with_reducible rfl
    | simp only [fixed_mk, fixed_fold, ite_fixed, ite_self, implies_true, fixed_modRefm, fixed_invalidCore,
        fixed_refFault]
    | refine (fixed_each _ _ (fun a s => ?_) _).trans ?_
    | split)

theorem fixed_refSet (p : Nat) (s : State) : (refSet p s).fixed = s.fixed := by
  unfold refSet
  repeat' (first
    | with_reducible rfl
    | simp only [fixed_mk, fixed_fold, ite_fixed, ite_self, implies_true, fixed_modRefm]
    | refine (fixed_each _ _ (fun a s => ?_) _).trans ?_
    | split)

theorem fixed_refStep (p : Nat) (out : Bool) (s : State) : (refStep p out s).fixed = s.fixed := by
  unfold refStep
  repeat' (first
    | with_reducible rfl
    | simp only [fixed_mk, fixed_fold, ite_fixed, ite_self, implies_true, fixed_modRefm, fixed_refFall, fixed_refFault,
        fixed_refSet]
    | refine (fixed_each _ _ (fun a s => ?_) _).trans ?_
    | split)

theorem fixed_coreUp (c : Nat) (s : State) : (coreUp c s).fixed = s.fixed := by
  unfold coreUp
  repeat' (first
    | with_reducible rfl
    | simp only [fixed_mk, fixed_fold, ite_fixed, ite_self, implies_true, fixed_modCore]
    | refine (fixed_each _ _ (fun a s => ?_) _).trans ?_
    | split)

theorem fixed_coreDown (c : Nat) (s : State) : (coreDown c s).fixed = s.fixed := by
  unfold coreDown
  repeat' (first
    | with_reducible rfl
    | simp only [fixed_mk, fixed_fold, ite_fixed, ite_self, implies_true, fixed_modCore, fixed_invalidCore]
    | refine (fixed_each _ _ (fun a s => ?_) _).trans ?_
    | split)

theorem fixed_lowPower (c : Nat) (s : State) : (lowPower c s).fixed = s.fixed := by
  unfold lowPower
  repeat' (first
    | with_reducible rfl
    | simp only [fixed_mk, fixed_fold, ite_fixed, ite_self, implies_true, fixed_modCore, fixed_each, fixed_modEnt]
    | refine (fixed_each _ _ (fun a s => ?_) _).trans ?_
    | split)

theorem fixed_convBoundary (clamps : List Nat) (c : Nat) (s : State) : (convBoundary clamps c s).fixed = s.fixed := by
  unfold convBoundary
  repeat' (first
    | with_reducible rfl
    | simp only [fixed_mk, fixed_fold, ite_fixed, ite_self, implies_true, fixed_modCore, fixed_allot, fixed_lowPower,
        fixed_placeClaims, fixed_seeResults]
    | refine (fixed_each _ _ (fun a s => ?_) _).trans ?_
    | split)

theorem fixed_shiftGrid (d : Nat) (s : State) : (shiftGrid d s).fixed = s.fixed := by
  unfold shiftGrid
  repeat' (first
    | with_reducible rfl
    | simp only [fixed_mk, fixed_fold, ite_fixed, ite_self, implies_true, fixed_modCore, fixed_each]
    | refine (fixed_each _ _ (fun a s => ?_) _).trans ?_
    | split)

theorem fixed_unclamp (c i : Nat) (s : State) : (unclamp c i s).fixed = s.fixed := by
  unfold unclamp
  repeat' (first
    | with_reducible rfl
    | simp only [fixed_mk, fixed_fold, ite_fixed, ite_self, implies_true, fixed_modSlice]
    | refine (fixed_each _ _ (fun a s => ?_) _).trans ?_
    | split)

theorem fixed_stgEvent (st k ph why : Nat) (s : State) : (stgEvent st k ph why s).fixed = s.fixed := by
  unfold stgEvent
  repeat' (first
    | with_reducible rfl
    | simp only [fixed_mk, fixed_fold, ite_fixed, ite_self, implies_true, fixed_raise]
    | refine (fixed_each _ _ (fun a s => ?_) _).trans ?_
    | split)

theorem fixed_freeInt (n : Nat) (s : State) : (freeInt n s).2.fixed = s.fixed := by
  unfold freeInt
  repeat' (first
    | with_reducible rfl
    | simp only [fixed_mk, fixed_fold, ite_fixed, ite_self, implies_true, fixed_drawFree]
    | refine (fixed_each _ _ (fun a s => ?_) _).trans ?_
    | split)

theorem fixed_ref16 (st : Nat) (s : State) : (ref16 st s).2.fixed = s.fixed := by
  unfold ref16
  repeat' (first
    | with_reducible rfl
    | simp only [fixed_mk, fixed_fold, ite_fixed, ite_self, implies_true, fixed_freeInt]
    | refine (fixed_each _ _ (fun a s => ?_) _).trans ?_
    | split)

theorem fixed_loopSat (st : Nat) (sat ovf : Bool) (s : State) : (loopSat st sat ovf s).fixed = s.fixed := by
  unfold loopSat
  repeat' (first
    | with_reducible rfl
    | simp only [fixed_mk, fixed_fold, ite_fixed, ite_self, implies_true, fixed_modStg, fixed_stgEvent]
    | refine (fixed_each _ _ (fun a s => ?_) _).trans ?_
    | split)

theorem fixed_controlLaw (st code : Nat) (s : State) : (controlLaw st code s).2.fixed = s.fixed := by
  unfold controlLaw
  repeat' (first
    | with_reducible rfl
    | simp only [fixed_mk, fixed_fold, ite_fixed, ite_self, implies_true, fixed_modStg, fixed_freeInt, fixed_loopSat,
        fixed_ref16]
    | refine (fixed_each _ _ (fun a s => ?_) _).trans ?_
    | split)

theorem fixed_clearPhases (st : Nat) (lim : Bool) (s : State) : (clearPhases st lim s).fixed = s.fixed := by
  unfold clearPhases
  repeat' (first
    | with_reducible rfl
    | simp only [fixed_mk, fixed_fold, ite_fixed, ite_self, implies_true, fixed_modPhase, fixed_each]
    | refine (fixed_each _ _ (fun a s => ?_) _).trans ?_
    | split)

theorem fixed_stageHalt (st : Nat) (dst : SState) (s : State) : (stageHalt st dst s).fixed = s.fixed := by
  unfold stageHalt
  repeat' (first
    | with_reducible rfl
    | simp only [fixed_mk, fixed_fold, ite_fixed, ite_self, implies_true, fixed_modStg, fixed_commitEnd]
    | refine (fixed_each _ _ (fun a s => ?_) _).trans ?_
    | split)

theorem fixed_stageTell (st code status : Nat) (s : State) : (stageTell st code status s).fixed = s.fixed := by
  unfold stageTell
  repeat' (first
    | with_reducible rfl
    | simp only [fixed_mk, fixed_fold, ite_fixed, ite_self, implies_true, fixed_modStg, fixed_each, fixed_marginTell]
    | refine (fixed_each _ _ (fun a s => ?_) _).trans ?_
    | split)

theorem fixed_kindle (st : Nat) (s : State) : (kindle st s).fixed = s.fixed := by
  unfold kindle
  repeat' (first
    | with_reducible rfl
    | simp only [fixed_mk, fixed_fold, ite_fixed, ite_self, implies_true, fixed_modStg, fixed_clearPhases]
    | refine (fixed_each _ _ (fun a s => ?_) _).trans ?_
    | split)

theorem fixed_safeOff (st cause : Nat) (s : State) : (safeOff st cause s).fixed = s.fixed := by
  unfold safeOff
  repeat' (first
    | with_reducible rfl
    | simp only [fixed_mk, fixed_fold, ite_fixed, ite_self, implies_true, fixed_modStg, fixed_clearPhases,
        fixed_detect, fixed_each, fixed_stageHalt, fixed_stageTell, fixed_stgEvent]
    | refine (fixed_each _ _ (fun a s => ?_) _).trans ?_
    | split)

theorem fixed_stageRetryDrop (st : Nat) (s : State) : (stageRetryDrop st s).fixed = s.fixed := by
  unfold stageRetryDrop
  repeat' (first
    | with_reducible rfl
    | simp only [fixed_mk, fixed_fold, ite_fixed, ite_self, implies_true, fixed_modStg]
    | refine (fixed_each _ _ (fun a s => ?_) _).trans ?_
    | split)

theorem fixed_startStage (st vset slew : Nat) (o : Owner) (wait : Bool) (s : State) : (startStage st vset slew o wait
    s).fixed = s.fixed := by
  unfold startStage
  repeat' (first
    | with_reducible rfl
    | simp only [fixed_mk, fixed_fold, ite_fixed, ite_self, implies_true, fixed_modStg, fixed_commitEnd, fixed_kindle,
        fixed_marginTell, fixed_stageHalt, fixed_stageRetryDrop]
    | refine (fixed_each _ _ (fun a s => ?_) _).trans ?_
    | split)

theorem fixed_retryStage (st : Nat) (s : State) : (retryStage st s).fixed = s.fixed := by
  unfold retryStage
  repeat' (first
    | with_reducible rfl
    | simp only [fixed_mk, fixed_fold, ite_fixed, ite_self, implies_true, fixed_modStg, fixed_commitEnd, fixed_kindle,
        fixed_stageRetryDrop]
    | refine (fixed_each _ _ (fun a s => ?_) _).trans ?_
    | split)

theorem fixed_softStop (st : Nat) (s : State) : (softStop st s).fixed = s.fixed := by
  unfold softStop
  repeat' (first
    | with_reducible rfl
    | simp only [fixed_mk, fixed_fold, ite_fixed, ite_self, implies_true, fixed_modStg]
    | refine (fixed_each _ _ (fun a s => ?_) _).trans ?_
    | split)

theorem fixed_stageStopNow (st : Nat) (s : State) : (stageStopNow st s).fixed = s.fixed := by
  unfold stageStopNow
  repeat' (first
    | with_reducible rfl
    | simp only [fixed_mk, fixed_fold, ite_fixed, ite_self, implies_true, fixed_stageHalt]
    | refine (fixed_each _ _ (fun a s => ?_) _).trans ?_
    | split)

theorem fixed_stageClearNow (st : Nat) (s : State) : (stageClearNow st s).fixed = s.fixed := by
  unfold stageClearNow
  repeat' (first
    | with_reducible rfl
    | simp only [fixed_mk, fixed_fold, ite_fixed, ite_self, implies_true, fixed_modPhase, fixed_modStg, fixed_each,
        fixed_stageHalt, fixed_stageRetryDrop]
    | refine (fixed_each _ _ (fun a s => ?_) _).trans ?_
    | split)

theorem fixed_presetRamp (st : Nat) (s : State) : (presetRamp st s).fixed = s.fixed := by
  unfold presetRamp
  repeat' (first
    | with_reducible rfl
    | simp only [fixed_mk, fixed_fold, ite_fixed, ite_self, implies_true, fixed_modStg, fixed_clearPhases,
        fixed_freeInt]
    | refine (fixed_each _ _ (fun a s => ?_) _).trans ?_
    | split)

theorem fixed_moveSp (st : Nat) (hold : Bool) (s : State) : (moveSp st hold s).fixed = s.fixed := by
  unfold moveSp
  repeat' (first
    | with_reducible rfl
    | simp only [fixed_mk, fixed_fold, ite_fixed, ite_self, implies_true, fixed_modStg, fixed_stgEvent]
    | refine (fixed_each _ _ (fun a s => ?_) _).trans ?_
    | split)

theorem fixed_balance (st : Nat) (s : State) : (balance st s).fixed = s.fixed := by
  unfold balance
  repeat' (first
    | with_reducible rfl
    | simp only [fixed_mk, fixed_fold, ite_fixed, ite_self, implies_true, fixed_modStg, fixed_each]
    | refine (fixed_each _ _ (fun a s => ?_) _).trans ?_
    | split)

theorem fixed_lowCounts (st : Nat) (s : State) : (lowCounts st s).fixed = s.fixed := by
  unfold lowCounts
  repeat' (first
    | with_reducible rfl
    | simp only [fixed_mk, fixed_fold, ite_fixed, ite_self, implies_true, fixed_modStg]
    | refine (fixed_each _ _ (fun a s => ?_) _).trans ?_
    | split)

theorem fixed_judgeBand (st : Nat) (mv : Int) (s : State) : (judgeBand st mv s).fixed = s.fixed := by
  unfold judgeBand
  repeat' (first
    | with_reducible rfl
    | simp only [fixed_mk, fixed_fold, ite_fixed, ite_self, implies_true, fixed_modStg]
    | refine (fixed_each _ _ (fun a s => ?_) _).trans ?_
    | split)

theorem fixed_stageDuty (st : Nat) (first : Bool) (u : Int) (s : State) : (stageDuty st first u s).fixed = s.fixed := by
  unfold stageDuty
  repeat' (first
    | with_reducible rfl
    | simp only [fixed_mk, fixed_fold, ite_fixed, ite_self, implies_true, fixed_modStg]
    | refine (fixed_each _ _ (fun a s => ?_) _).trans ?_
    | split)

theorem fixed_controlInstance (st : Nat) (first : Bool) (s : State) : (controlInstance st first s).fixed = s.fixed := by
  unfold controlInstance
  repeat' (first
    | with_reducible rfl
    | simp only [fixed_mk, fixed_fold, ite_fixed, ite_self, implies_true, fixed_modStg, fixed_balance,
        fixed_controlLaw, fixed_judgeBand, fixed_lowCounts, fixed_moveSp, fixed_stageDuty, fixed_stgEvent]
    | refine (fixed_each _ _ (fun a s => ?_) _).trans ?_
    | split)

theorem fixed_stageTask (st : Nat) (s : State) : (stageTask st s).fixed = s.fixed := by
  unfold stageTask
  repeat' (first
    | with_reducible rfl
    | simp only [fixed_mk, fixed_fold, ite_fixed, ite_self, implies_true, fixed_modStg, fixed_controlInstance,
        fixed_presetRamp]
    | refine (fixed_each _ _ (fun a s => ?_) _).trans ?_
    | split)

theorem fixed_decideDrop (st k why : Nat) (s : State) : (decideDrop st k why s).fixed = s.fixed := by
  unfold decideDrop
  repeat' (first
    | with_reducible rfl
    | simp only [fixed_mk, fixed_fold, ite_fixed, ite_self, implies_true, fixed_modStg]
    | refine (fixed_each _ _ (fun a s => ?_) _).trans ?_
    | split)

theorem fixed_senseCheck (st : Nat) (s : State) : (senseCheck st s).2.fixed = s.fixed := by
  unfold senseCheck
  repeat' (first
    | with_reducible rfl
    | simp only [fixed_mk, fixed_fold, ite_fixed, ite_self, implies_true, fixed_freeInt]
    | refine (fixed_each _ _ (fun a s => ?_) _).trans ?_
    | split)

theorem fixed_phaseTask (st : Nat) (s : State) : (phaseTask st s).fixed = s.fixed := by
  unfold phaseTask
  repeat' (first
    | with_reducible rfl
    | simp only [fixed_mk, fixed_fold, ite_fixed, ite_self, implies_true, fixed_modStg, fixed_decideDrop, fixed_each,
        fixed_senseCheck]
    | refine (fixed_each _ _ (fun a s => ?_) _).trans ?_
    | split)

theorem fixed_dropPhase (st : Nat) (d : Nat × Nat) (s : State) : (dropPhase st d s).fixed = s.fixed := by
  unfold dropPhase
  repeat' (first
    | with_reducible rfl
    | simp only [fixed_mk, fixed_fold, ite_fixed, ite_self, implies_true, fixed_modPhase, fixed_modStg,
        fixed_clearPhases, fixed_stgEvent]
    | refine (fixed_each _ _ (fun a s => ?_) _).trans ?_
    | split)

theorem fixed_stgFound (st cause : Nat) (s : State) : (stgFound st cause s).fixed = s.fixed := by
  unfold stgFound
  repeat' (first
    | with_reducible rfl
    | simp only [fixed_mk, fixed_fold, ite_fixed, ite_self, implies_true, fixed_modStg]
    | refine (fixed_each _ _ (fun a s => ?_) _).trans ?_
    | split)

theorem fixed_senseOpenStep (st : Nat) (legs : List Int) (s : State) : (senseOpenStep st legs s).fixed = s.fixed := by
  unfold senseOpenStep
  repeat' (first
    | with_reducible rfl
    | simp only [fixed_mk, fixed_fold, ite_fixed, ite_self, implies_true, fixed_modStg, fixed_stgFound]
    | refine (fixed_each _ _ (fun a s => ?_) _).trans ?_
    | split)

theorem fixed_frozenStep (st : Nat) (s : State) : (frozenStep st s).fixed = s.fixed := by
  unfold frozenStep
  repeat' (first
    | with_reducible rfl
    | simp only [fixed_mk, fixed_fold, ite_fixed, ite_self, implies_true, fixed_modStg, fixed_stgFound]
    | refine (fixed_each _ _ (fun a s => ?_) _).trans ?_
    | split)

theorem fixed_nofbStep (st : Nat) (s : State) : (nofbStep st s).fixed = s.fixed := by
  unfold nofbStep
  repeat' (first
    | with_reducible rfl
    | simp only [fixed_mk, fixed_fold, ite_fixed, ite_self, implies_true, fixed_modStg, fixed_stgFound]
    | refine (fixed_each _ _ (fun a s => ?_) _).trans ?_
    | split)

theorem fixed_ovStep (st : Nat) (s : State) : (ovStep st s).fixed = s.fixed := by
  unfold ovStep
  repeat' (first
    | with_reducible rfl
    | simp only [fixed_mk, fixed_fold, ite_fixed, ite_self, implies_true, fixed_modStg, fixed_stgFound]
    | refine (fixed_each _ _ (fun a s => ?_) _).trans ?_
    | split)

theorem fixed_uvStep (st : Nat) (s : State) : (uvStep st s).fixed = s.fixed := by
  unfold uvStep
  repeat' (first
    | with_reducible rfl
    | simp only [fixed_mk, fixed_fold, ite_fixed, ite_self, implies_true, fixed_modStg, fixed_stgFound]
    | refine (fixed_each _ _ (fun a s => ?_) _).trans ?_
    | split)

theorem fixed_limitTrip (p : Nat) (consec : Bool) (s : State) : (limitTrip p consec s).fixed = s.fixed := by
  unfold limitTrip
  repeat' (first
    | with_reducible rfl
    | simp only [fixed_mk, fixed_fold, ite_fixed, ite_self, implies_true, fixed_modPhase, fixed_modStg]
    | refine (fixed_each _ _ (fun a s => ?_) _).trans ?_
    | split)

theorem fixed_hiccupStep (st : Nat) (s : State) : (hiccupStep st s).fixed = s.fixed := by
  unfold hiccupStep
  repeat' (first
    | with_reducible rfl
    | simp only [fixed_mk, fixed_fold, ite_fixed, ite_self, implies_true, fixed_modStg, fixed_stageHalt,
        fixed_stgEvent, fixed_stgFound]
    | refine (fixed_each _ _ (fun a s => ?_) _).trans ?_
    | split)

theorem fixed_hiccupTime (st : Nat) (s : State) : (hiccupTime st s).fixed = s.fixed := by
  unfold hiccupTime
  repeat' (first
    | with_reducible rfl
    | simp only [fixed_mk, fixed_fold, ite_fixed, ite_self, implies_true, fixed_modStg]
    | refine (fixed_each _ _ (fun a s => ?_) _).trans ?_
    | split)

theorem fixed_hiccupEnd (st : Nat) (s : State) : (hiccupEnd st s).fixed = s.fixed := by
  unfold hiccupEnd
  repeat' (first
    | with_reducible rfl
    | simp only [fixed_mk, fixed_fold, ite_fixed, ite_self, implies_true, fixed_kindle]
    | refine (fixed_each _ _ (fun a s => ?_) _).trans ?_
    | split)

theorem fixed_regTicks (st : Nat) (s : State) : (regTicks st s).fixed = s.fixed := by
  unfold regTicks
  repeat' (first
    | with_reducible rfl
    | simp only [fixed_mk, fixed_fold, ite_fixed, ite_self, implies_true, fixed_modStg, fixed_commitEnd]
    | refine (fixed_each _ _ (fun a s => ?_) _).trans ?_
    | split)

theorem fixed_applyTrims (st : Nat) (l : List (Nat × Int)) (s : State) : (applyTrims st l s).fixed = s.fixed := by
  unfold applyTrims
  repeat' (first
    | with_reducible rfl
    | simp only [fixed_mk, fixed_fold, ite_fixed, ite_self, implies_true, fixed_modPhase, fixed_each]
    | refine (fixed_each _ _ (fun a s => ?_) _).trans ?_
    | split)

theorem fixed_applyCommit (st : Nat) (s : State) : (applyCommit st s).fixed = s.fixed := by
  unfold applyCommit
  repeat' (first
    | with_reducible rfl
    | simp only [fixed_mk, fixed_fold, ite_fixed, ite_self, implies_true, fixed_modStg, fixed_applyTrims,
        fixed_dropPhase, fixed_each, fixed_stageHalt, fixed_stageTell]
    | refine (fixed_each _ _ (fun a s => ?_) _).trans ?_
    | split)

theorem fixed_pwmFrame (st : Nat) (s : State) : (pwmFrame st s).fixed = s.fixed := by
  unfold pwmFrame
  repeat' (first
    | with_reducible rfl
    | simp only [fixed_mk, fixed_fold, ite_fixed, ite_self, implies_true, fixed_modPhase, fixed_each]
    | refine (fixed_each _ _ (fun a s => ?_) _).trans ?_
    | split)

theorem fixed_pwmPass (st : Nat) (s : State) : (pwmPass st s).fixed = s.fixed := by
  unfold pwmPass
  repeat' (first
    | with_reducible rfl
    | simp only [fixed_mk, fixed_fold, ite_fixed, ite_self, implies_true, fixed_modStg]
    | refine (fixed_each _ _ (fun a s => ?_) _).trans ?_
    | split)

theorem fixed_commitCoef (st : Nat) (s : State) : (commitCoef st s).fixed = s.fixed := by
  unfold commitCoef
  repeat' (first
    | with_reducible rfl
    | simp only [fixed_mk, fixed_fold, ite_fixed, ite_self, implies_true, fixed_modStg, fixed_each]
    | refine (fixed_each _ _ (fun a s => ?_) _).trans ?_
    | split)

theorem fixed_withdrawEnable (g : Nat) (f : Fig) (order : Nat) (s : State) : (withdrawEnable g f order s).fixed = s.fixed :=
    by
  unfold withdrawEnable
  repeat' (first
    | with_reducible rfl
    | simp only [fixed_mk, fixed_fold, ite_fixed, ite_self, implies_true, fixed_alogWithdraw, fixed_commitEnd]
    | refine (fixed_each _ _ (fun a s => ?_) _).trans ?_
    | split)

theorem fixed_withdrawStart (m st order : Nat) (s : State) : (withdrawStart m st order s).fixed = s.fixed := by
  unfold withdrawStart
  repeat' (first
    | with_reducible rfl
    | simp only [fixed_mk, fixed_fold, ite_fixed, ite_self, implies_true, fixed_alogWithdraw, fixed_commitEnd]
    | refine (fixed_each _ _ (fun a s => ?_) _).trans ?_
    | split)

theorem fixed_withdrawMargin (m : MOp) (s : State) : (withdrawMargin m s).fixed = s.fixed := by
  unfold withdrawMargin
  repeat' (first
    | with_reducible rfl
    | simp only [fixed_mk, fixed_fold, ite_fixed, ite_self, implies_true, fixed_alogWithdraw, fixed_commitEnd]
    | refine (fixed_each _ _ (fun a s => ?_) _).trans ?_
    | split)

theorem fixed_withdrawItem (it : Item) (s : State) : (withdrawItem it s).fixed = s.fixed := by
  unfold withdrawItem
  repeat' (first
    | with_reducible rfl
    | simp only [fixed_mk, fixed_fold, ite_fixed, ite_self, implies_true, fixed_withdrawEnable, fixed_withdrawStart]
    | refine (fixed_each _ _ (fun a s => ?_) _).trans ?_
    | split)

theorem fixed_withdrawCmd (c : RailCmd) (s : State) : (withdrawCmd c s).fixed = s.fixed := by
  unfold withdrawCmd
  repeat' (first
    | with_reducible rfl
    | simp only [fixed_mk, fixed_fold, ite_fixed, ite_self, implies_true, fixed_withdrawEnable, fixed_withdrawStart]
    | refine (fixed_each _ _ (fun a s => ?_) _).trans ?_
    | split)

theorem fixed_disown (n : Nat) (s : State) : (disown n s).fixed = s.fixed := by
  unfold disown
  repeat' (first
    | with_reducible rfl
    | simp only [fixed_mk, fixed_fold, ite_fixed, ite_self, implies_true, fixed_modStg, fixed_each,
        fixed_withdrawMargin]
    | refine (fixed_each _ _ (fun a s => ?_) _).trans ?_
    | split)

theorem fixed_stopCmds (n : Nat) (s : State) : (stopCmds n s).fixed = s.fixed := by
  unfold stopCmds
  repeat' (first
    | with_reducible rfl
    | simp only [fixed_mk, fixed_fold, ite_fixed, ite_self, implies_true, fixed_each, fixed_withdrawCmd]
    | refine (fixed_each _ _ (fun a s => ?_) _).trans ?_
    | split)

theorem fixed_progEnd (n status step : Nat) (s : State) : (progEnd n status step s).fixed = s.fixed := by
  unfold progEnd
  repeat' (first
    | with_reducible rfl
    | simp only [fixed_mk, fixed_fold, ite_fixed, ite_self, implies_true, fixed_modProg, fixed_disown, fixed_each,
        fixed_stopCmds, fixed_withdrawItem]
    | refine (fixed_each _ _ (fun a s => ?_) _).trans ?_
    | split)

theorem fixed_progTell (n : Nat) (s : State) : (progTell n s).fixed = s.fixed := by
  unfold progTell
  repeat' (first
    | with_reducible rfl
    | simp only [fixed_mk, fixed_fold, ite_fixed, ite_self, implies_true, fixed_modProg, fixed_finishAll]
    | refine (fixed_each _ _ (fun a s => ?_) _).trans ?_
    | split)

theorem fixed_progsTell (s : State) : (progsTell s).fixed = s.fixed := by
  unfold progsTell
  repeat' (first
    | with_reducible rfl
    | simp only [fixed_mk, fixed_fold, ite_fixed, ite_self, implies_true, fixed_each, fixed_progTell]
    | refine (fixed_each _ _ (fun a s => ?_) _).trans ?_
    | split)

theorem fixed_fromMirror (a : Nat) (s : State) : (fromMirror a s).fixed = s.fixed := by
  unfold fromMirror
  repeat' (first
    | with_reducible rfl
    | simp only [fixed_mk, fixed_fold, ite_fixed, ite_self, implies_true]
    | refine (fixed_each _ _ (fun a s => ?_) _).trans ?_
    | split)

theorem fixed_readTable (a : Nat) (s : State) : (readTable a s).2.fixed = s.fixed := by
  unfold readTable
  repeat' (first
    | with_reducible rfl
    | simp only [fixed_mk, fixed_fold, ite_fixed, ite_self, implies_true, fixed_fromMirror, fixed_readWord,
        fixed_wcWritten]
    | refine (fixed_each _ _ (fun a s => ?_) _).trans ?_
    | split)

theorem fixed_readWords (l : List Nat) (s : State) : (readWords l s).2.fixed = s.fixed := by
  induction l generalizing s with
  | nil => rfl
  | cons a l ih =>
    unfold readWords
    repeat' (first
      | with_reducible rfl
      | simp only [fixed_mk, fixed_fold, ite_fixed, ite_self, implies_true, ih, fixed_readTable]
      | refine (fixed_each _ _ (fun a s => ?_) _).trans ?_
      | split)

theorem fixed_fetchAt (n old i : Nat) (s : State) : (fetchAt n old i s).fixed = s.fixed := by
  unfold fetchAt
  repeat' (first
    | with_reducible rfl
    | simp only [fixed_mk, fixed_fold, ite_fixed, ite_self, implies_true, fixed_modProg, fixed_progEnd, fixed_readWords]
    | refine (fixed_each _ _ (fun a s => ?_) _).trans ?_
    | split)

theorem fixed_progLaunch (n : Nat) (s : State) : (progLaunch n s).fixed = s.fixed := by
  unfold progLaunch
  repeat' (first
    | with_reducible rfl
    | simp only [fixed_mk, fixed_fold, ite_fixed, ite_self, implies_true, fixed_modProg, fixed_fetchAt]
    | refine (fixed_each _ _ (fun a s => ?_) _).trans ?_
    | split)

theorem fixed_predsStep (s : State) : (predsStep s).fixed = s.fixed := by
  unfold predsStep
  repeat' (first
    | with_reducible rfl
    | simp only [fixed_mk, fixed_fold, ite_fixed, ite_self, implies_true]
    | refine (fixed_each _ _ (fun a s => ?_) _).trans ?_
    | split)

theorem fixed_stageView (s : State) : (stageView s).fixed = s.fixed := by
  unfold stageView
  repeat' (first
    | with_reducible rfl
    | simp only [fixed_mk, fixed_fold, ite_fixed, ite_self, implies_true]
    | refine (fixed_each _ _ (fun a s => ?_) _).trans ?_
    | split)

theorem fixed_offRead (i : Nat) (s : State) : (offRead i s).fixed = s.fixed := by
  unfold offRead
  repeat' (first
    | with_reducible rfl
    | simp only [fixed_mk, fixed_fold, ite_fixed, ite_self, implies_true, fixed_readWord]
    | refine (fixed_each _ _ (fun a s => ?_) _).trans ?_
    | split)

theorem fixed_withdrawRails (l : List Nat) (s : State) : (withdrawRails l s).fixed = s.fixed := by
  unfold withdrawRails
  repeat' (first
    | with_reducible rfl
    | simp only [fixed_mk, fixed_fold, ite_fixed, ite_self, implies_true, fixed_modProg, fixed_modRail,
        fixed_alogWithdraw, fixed_commitEnd, fixed_each, fixed_withdrawCmd, fixed_withdrawItem]
    | refine (fixed_each _ _ (fun a s => ?_) _).trans ?_
    | split)

theorem fixed_cancelRestarts (full : Bool) (l : List Nat) (s : State) : (cancelRestarts full l s).fixed = s.fixed := by
  unfold cancelRestarts
  repeat' (first
    | with_reducible rfl
    | simp only [fixed_mk, fixed_fold, ite_fixed, ite_self, implies_true, fixed_modGrp, fixed_each]
    | refine (fixed_each _ _ (fun a s => ?_) _).trans ?_
    | split)

theorem fixed_fullRunActs (s : State) : (fullRunActs s).fixed = s.fixed := by
  unfold fullRunActs
  repeat' (first
    | with_reducible rfl
    | simp only [fixed_mk, fixed_fold, ite_fixed, ite_self, implies_true, fixed_each, fixed_finishAll, fixed_progEnd]
    | refine (fixed_each _ _ (fun a s => ?_) _).trans ?_
    | split)

theorem fixed_dropResumes (s : State) : (dropResumes s).fixed = s.fixed := by
  unfold dropResumes
  repeat' (first
    | with_reducible rfl
    | simp only [fixed_mk, fixed_fold, ite_fixed, ite_self, implies_true, fixed_modRail, fixed_each]
    | refine (fixed_each _ _ (fun a s => ?_) _).trans ?_
    | split)

theorem fixed_offRequest (src : Nat) (full : Bool) (groups : Nat) (s : State) : (offRequest src full groups s).fixed =
    s.fixed := by
  unfold offRequest
  repeat' (first
    | with_reducible rfl
    | simp only [fixed_mk, fixed_fold, ite_fixed, ite_self, implies_true, fixed_cancelRestarts, fixed_cancelRetry,
        fixed_dropResumes, fixed_each, fixed_fullRunActs, fixed_withdrawRails]
    | refine (fixed_each _ _ (fun a s => ?_) _).trans ?_
    | split)

theorem fixed_offGroupFault (groups : Nat) (s : State) : (offGroupFault groups s).fixed = s.fixed := by
  unfold offGroupFault
  repeat' (first
    | with_reducible rfl
    | simp only [fixed_mk, fixed_fold, ite_fixed, ite_self, implies_true, fixed_modGrp, fixed_each, fixed_offRequest]
    | refine (fixed_each _ _ (fun a s => ?_) _).trans ?_
    | split)

theorem fixed_launchOnSet (s : State) : (launchOnSet s).fixed = s.fixed := by
  unfold launchOnSet
  repeat' (first
    | with_reducible rfl
    | simp only [fixed_mk, fixed_fold, ite_fixed, ite_self, implies_true, fixed_each, fixed_progLaunch]
    | refine (fixed_each _ _ (fun a s => ?_) _).trans ?_
    | split)

theorem fixed_resumeRun (s : State) : (resumeRun s).fixed = s.fixed := by
  unfold resumeRun
  repeat' (first
    | with_reducible rfl
    | simp only [fixed_mk, fixed_fold, ite_fixed, ite_self, implies_true, fixed_modRail, fixed_each, fixed_finishAll]
    | refine (fixed_each _ _ (fun a s => ?_) _).trans ?_
    | split)

theorem fixed_onRequest (s : State) : (onRequest s).2.fixed = s.fixed := by
  unfold onRequest
  repeat' (first
    | with_reducible rfl
    | simp only [fixed_mk, fixed_fold, ite_fixed, ite_self, implies_true, fixed_launchOnSet, fixed_resumeRun]
    | refine (fixed_each _ _ (fun a s => ?_) _).trans ?_
    | split)

theorem fixed_onRequestNow (s : State) : (onRequestNow s).fixed = s.fixed := by
  unfold onRequestNow
  repeat' (first
    | with_reducible rfl
    | simp only [fixed_mk, fixed_fold, ite_fixed, ite_self, implies_true, fixed_onRequest]
    | refine (fixed_each _ _ (fun a s => ?_) _).trans ?_
    | split)

theorem fixed_fullRestart (s : State) : (fullRestart s).fixed = s.fixed := by
  unfold fullRestart
  repeat' (first
    | with_reducible rfl
    | simp only [fixed_mk, fixed_fold, ite_fixed, ite_self, implies_true, fixed_jInternal, fixed_onRequestNow]
    | refine (fixed_each _ _ (fun a s => ?_) _).trans ?_
    | split)

theorem fixed_restartPolicy (s : State) : (restartPolicy s).fixed = s.fixed := by
  unfold restartPolicy
  repeat' (first
    | with_reducible rfl
    | simp only [fixed_mk, fixed_fold, ite_fixed, ite_self, implies_true, fixed_fullRestart, fixed_raise]
    | refine (fixed_each _ _ (fun a s => ?_) _).trans ?_
    | split)

theorem fixed_groupRestartNow (n : Nat) (s : State) : (groupRestartNow n s).fixed = s.fixed := by
  unfold groupRestartNow
  repeat' (first
    | with_reducible rfl
    | simp only [fixed_mk, fixed_fold, ite_fixed, ite_self, implies_true, fixed_modGrp, fixed_jInternal,
        fixed_progLaunch]
    | refine (fixed_each _ _ (fun a s => ?_) _).trans ?_
    | split)

theorem fixed_groupPolicy (n : Nat) (s : State) : (groupPolicy n s).fixed = s.fixed := by
  unfold groupPolicy
  repeat' (first
    | with_reducible rfl
    | simp only [fixed_mk, fixed_fold, ite_fixed, ite_self, implies_true, fixed_modGrp, fixed_groupRestartNow,
        fixed_raise]
    | refine (fixed_each _ _ (fun a s => ?_) _).trans ?_
    | split)

theorem fixed_offComplete (s : State) : (offComplete s).fixed = s.fixed := by
  unfold offComplete
  repeat' (first
    | with_reducible rfl
    | simp only [fixed_mk, fixed_fold, ite_fixed, ite_self, implies_true, fixed_each, fixed_finishAll,
        fixed_groupPolicy, fixed_restartPolicy, fixed_softStop]
    | refine (fixed_each _ _ (fun a s => ?_) _).trans ?_
    | split)

theorem fixed_tableEnd (i : Nat) (s : State) : (tableEnd i s).fixed = s.fixed := by
  unfold tableEnd
  repeat' (first
    | with_reducible rfl
    | simp only [fixed_mk, fixed_fold, ite_fixed, ite_self, implies_true, fixed_offComplete]
    | refine (fixed_each _ _ (fun a s => ?_) _).trans ?_
    | split)

theorem fixed_openClass (i : Nat) (s : State) : (openClass i s).fixed = s.fixed := by
  unfold openClass
  repeat' (first
    | with_reducible rfl
    | simp only [fixed_mk, fixed_fold, ite_fixed, ite_self, implies_true, fixed_offRead, fixed_tableEnd]
    | refine (fixed_each _ _ (fun a s => ?_) _).trans ?_
    | split)

theorem fixed_offRelease (r : Nat) (s : State) : (offRelease r s).fixed = s.fixed := by
  unfold offRelease
  repeat' (first
    | with_reducible rfl
    | simp only [fixed_mk, fixed_fold, ite_fixed, ite_self, implies_true, fixed_releaseRail]
    | refine (fixed_each _ _ (fun a s => ?_) _).trans ?_
    | split)

theorem fixed_offWalk (f : Nat) (d p : Bool) (s : State) : (offWalk f d p s).fixed = s.fixed := by
  induction f generalizing d p s with
  | zero => rfl
  | succ f ih =>
    unfold offWalk
    repeat' (first
      | with_reducible rfl
      | simp only [fixed_mk, fixed_fold, ite_fixed, ite_self, implies_true, ih, fixed_offRead, fixed_offRelease]
      | refine (fixed_each _ _ (fun a s => ?_) _).trans ?_
      | split)

theorem fixed_leaveClass (s : State) : (leaveClass s).fixed = s.fixed := by
  unfold leaveClass
  repeat' (first
    | with_reducible rfl
    | simp only [fixed_mk, fixed_fold, ite_fixed, ite_self, implies_true, fixed_openClass]
    | refine (fixed_each _ _ (fun a s => ?_) _).trans ?_
    | split)

theorem fixed_syncExpire (s : State) : (syncExpire s).fixed = s.fixed := by
  unfold syncExpire
  repeat' (first
    | with_reducible rfl
    | simp only [fixed_mk, fixed_fold, ite_fixed, ite_self, implies_true, fixed_openClass, fixed_raise]
    | refine (fixed_each _ _ (fun a s => ?_) _).trans ?_
    | split)

theorem fixed_limitExpire (s : State) : (limitExpire s).fixed = s.fixed := by
  unfold limitExpire
  repeat' (first
    | with_reducible rfl
    | simp only [fixed_mk, fixed_fold, ite_fixed, ite_self, implies_true, fixed_openClass, fixed_raise]
    | refine (fixed_each _ _ (fun a s => ?_) _).trans ?_
    | split)

theorem fixed_passDone (f : Nat) (s : State) : (passDone f s).fixed = s.fixed := by
  induction f generalizing s with
  | zero => rfl
  | succ f ih =>
    unfold passDone
    repeat' (first
      | with_reducible rfl
      | simp only [fixed_mk, fixed_fold, ite_fixed, ite_self, implies_true, ih, fixed_leaveClass]
      | refine (fixed_each _ _ (fun a s => ?_) _).trans ?_
      | split)

theorem fixed_offAge (s : State) : (offAge s).fixed = s.fixed := by
  unfold offAge
  repeat' (first
    | with_reducible rfl
    | simp only [fixed_mk, fixed_fold, ite_fixed, ite_self, implies_true]
    | refine (fixed_each _ _ (fun a s => ?_) _).trans ?_
    | split)

theorem fixed_offClass (s : State) : (offClass s).fixed = s.fixed := by
  unfold offClass
  repeat' (first
    | with_reducible rfl
    | simp only [fixed_mk, fixed_fold, ite_fixed, ite_self, implies_true, fixed_leaveClass, fixed_limitExpire,
        fixed_openClass, fixed_passDone, fixed_syncExpire]
    | refine (fixed_each _ _ (fun a s => ?_) _).trans ?_
    | split)

theorem fixed_offMove (s : State) : (offMove s).fixed = s.fixed := by
  unfold offMove
  repeat' (first
    | with_reducible rfl
    | simp only [fixed_mk, fixed_fold, ite_fixed, ite_self, implies_true, fixed_offRelease, fixed_offWalk]
    | refine (fixed_each _ _ (fun a s => ?_) _).trans ?_
    | split)

theorem fixed_offStep (s : State) : (offStep s).fixed = s.fixed := by
  unfold offStep
  repeat' (first
    | with_reducible rfl
    | simp only [fixed_mk, fixed_fold, ite_fixed, ite_self, implies_true, fixed_offAge, fixed_offClass, fixed_offMove,
        fixed_offRelease]
    | refine (fixed_each _ _ (fun a s => ?_) _).trans ?_
    | split)

theorem fixed_judgeDomain (s : State) : (judgeDomain s).fixed = s.fixed := by
  unfold judgeDomain
  repeat' (first
    | with_reducible rfl
    | simp only [fixed_mk, fixed_fold, ite_fixed, ite_self, implies_true, fixed_finishAll]
    | refine (fixed_each _ _ (fun a s => ?_) _).trans ?_
    | split)

theorem fixed_assertSysrst (s : State) : (assertSysrst s).fixed = s.fixed := by
  unfold assertSysrst
  repeat' (first
    | with_reducible rfl
    | simp only [fixed_mk, fixed_fold, ite_fixed, ite_self, implies_true]
    | refine (fixed_each _ _ (fun a s => ?_) _).trans ?_
    | split)

theorem fixed_toMembers (f : Nat → CmdRec) (s : State) : (toMembers f s).fixed = s.fixed := by
  unfold toMembers
  repeat' (first
    | with_reducible rfl
    | simp only [fixed_mk, fixed_fold, ite_fixed, ite_self, implies_true]
    | refine (fixed_each _ _ (fun a s => ?_) _).trans ?_
    | split)

theorem fixed_offRelay (full : Bool) (groups : Nat) (sysrst : Bool) (s : State) : (offRelay full groups sysrst s).fixed =
    s.fixed := by
  unfold offRelay
  repeat' (first
    | with_reducible rfl
    | simp only [fixed_mk, fixed_fold, ite_fixed, ite_self, implies_true, fixed_toMembers]
    | refine (fixed_each _ _ (fun a s => ?_) _).trans ?_
    | split)

theorem fixed_groupReaction (groups : Nat) (s : State) : (groupReaction groups s).fixed = s.fixed := by
  unfold groupReaction
  repeat' (first
    | with_reducible rfl
    | simp only [fixed_mk, fixed_fold, ite_fixed, ite_self, implies_true, fixed_offGroupFault, fixed_offRelay]
    | refine (fixed_each _ _ (fun a s => ?_) _).trans ?_
    | split)

theorem fixed_sysReaction (s : State) : (sysReaction s).fixed = s.fixed := by
  unfold sysReaction
  repeat' (first
    | with_reducible rfl
    | simp only [fixed_mk, fixed_fold, ite_fixed, ite_self, implies_true, fixed_assertSysrst, fixed_offRelay,
        fixed_offRequest]
    | refine (fixed_each _ _ (fun a s => ?_) _).trans ?_
    | split)

theorem fixed_joinRun (i : Nat) (s : State) : (joinRun i s).fixed = s.fixed := by
  unfold joinRun
  repeat' (first
    | with_reducible rfl
    | simp only [fixed_mk, fixed_fold, ite_fixed, ite_self, implies_true, fixed_cancelRetry]
    | refine (fixed_each _ _ (fun a s => ?_) _).trans ?_
    | split)

theorem fixed_applyDrop (i : Nat) (v : Verdict) (kinds : List Nat) (s : State) : (applyDrop i v kinds s).fixed = s.fixed :=
    by
  unfold applyDrop
  repeat' (first
    | with_reducible rfl
    | simp only [fixed_mk, fixed_fold, ite_fixed, ite_self, implies_true, fixed_modRail, fixed_dropRail,
        fixed_setRState]
    | refine (fixed_each _ _ (fun a s => ?_) _).trans ?_
    | split)

theorem fixed_reactRail (i : Nat) (l : List FQ) (shut : Bool) (s : State) : (reactRail i l shut s).2.fixed = s.fixed := by
  unfold reactRail
  repeat' (first
    | with_reducible rfl
    | simp only [fixed_mk, fixed_fold, ite_fixed, ite_self, implies_true, fixed_modRail, fixed_applyDrop,
        fixed_groupReaction, fixed_joinRun, fixed_setRState, fixed_sysReaction]
    | refine (fixed_each _ _ (fun a s => ?_) _).trans ?_
    | split)

theorem fixed_queueFault (f : FQ) (s : State) : (queueFault f s).fixed = s.fixed := by
  unfold queueFault
  repeat' (first
    | with_reducible rfl
    | simp only [fixed_mk, fixed_fold, ite_fixed, ite_self, implies_true]
    | refine (fixed_each _ _ (fun a s => ?_) _).trans ?_
    | split)

theorem fixed_rowFirst (f : RFF) (s : State) : (rowFirst f s).fixed = s.fixed := by
  unfold rowFirst
  repeat' (first
    | with_reducible rfl
    | simp only [fixed_mk, fixed_fold, ite_fixed, ite_self, implies_true]
    | refine (fixed_each _ _ (fun a s => ?_) _).trans ?_
    | split)

theorem fixed_captureFirst (prims all : List FQ) (s : State) : (captureFirst prims all s).fixed = s.fixed := by
  unfold captureFirst
  repeat' (first
    | with_reducible rfl
    | simp only [fixed_mk, fixed_fold, ite_fixed, ite_self, implies_true, fixed_rowFirst, fixed_wcWritten]
    | refine (fixed_each _ _ (fun a s => ?_) _).trans ?_
    | split)

theorem fixed_faultLogic (shut : List Nat) (s : State) : (faultLogic shut s).fixed = s.fixed := by
  unfold faultLogic
  simp only
  refine (fixed_captureFirst _ _ _).trans ((fixed_each _ _ fixed_queueFault _).trans ?_)
  exact fixed_foldl (fun x : List FQ × List FQ × State => x.2.2) _ (fun p i => fixed_reactRail _ _ _ _) _ _

theorem fixed_reactIn (shut : List Nat) (s : State) : (reactIn shut s).fixed = s.fixed := by
  unfold reactIn
  repeat' (first
    | with_reducible rfl
    | simp only [fixed_mk, fixed_fold, ite_fixed, ite_self, implies_true, fixed_faultLogic]
    | refine (fixed_each _ _ (fun a s => ?_) _).trans ?_
    | split)

theorem fixed_reactNow (s : State) : (reactNow s).fixed = s.fixed := by
  unfold reactNow
  repeat' (first
    | with_reducible rfl
    | simp only [fixed_mk, fixed_fold, ite_fixed, ite_self, implies_true, fixed_faultLogic]
    | refine (fixed_each _ _ (fun a s => ?_) _).trans ?_
    | split)

theorem fixed_stagePolicy (st : Nat) (s : State) : (stagePolicy st s).fixed = s.fixed := by
  unfold stagePolicy
  repeat' (first
    | with_reducible rfl
    | simp only [fixed_mk, fixed_fold, ite_fixed, ite_self, implies_true, fixed_modStg, fixed_groupReaction,
        fixed_raise, fixed_sysReaction]
    | refine (fixed_each _ _ (fun a s => ?_) _).trans ?_
    | split)

theorem fixed_stageFault (st cause : Nat) (s : State) : (stageFault st cause s).fixed = s.fixed := by
  unfold stageFault
  repeat' (first
    | with_reducible rfl
    | simp only [fixed_mk, fixed_fold, ite_fixed, ite_self, implies_true, fixed_safeOff, fixed_stagePolicy]
    | refine (fixed_each _ _ (fun a s => ?_) _).trans ?_
    | split)

theorem fixed_stageFaults (s : State) : (stageFaults s).fixed = s.fixed := by
  unfold stageFaults
  repeat' (first
    | with_reducible rfl
    | simp only [fixed_mk, fixed_fold, ite_fixed, ite_self, implies_true, fixed_modStg, fixed_each, fixed_stageFault]
    | refine (fixed_each _ _ (fun a s => ?_) _).trans ?_
    | split)

theorem fixed_countUp (i c n : Nat) (s : State) : (countUp i c n s).fixed = s.fixed := by
  unfold countUp
  repeat' (first
    | with_reducible rfl
    | simp only [fixed_mk, fixed_fold, ite_fixed, ite_self, implies_true, fixed_modRail]
    | refine (fixed_each _ _ (fun a s => ?_) _).trans ?_
    | split)

theorem fixed_takeFault (s : State) : (takeFault s).fixed = s.fixed := by
  unfold takeFault
  repeat' (first
    | with_reducible rfl
    | simp only [fixed_mk, fixed_fold, ite_fixed, ite_self, implies_true, fixed_countUp, fixed_each, fixed_raise]
    | refine (fixed_each _ _ (fun a s => ?_) _).trans ?_
    | split)

theorem fixed_faultTask (s : State) : (faultTask s).fixed = s.fixed := by
  unfold faultTask
  repeat' (first
    | with_reducible rfl
    | simp only [fixed_mk, fixed_fold, ite_fixed, ite_self, implies_true, fixed_raise, fixed_takeFault]
    | refine (fixed_each _ _ (fun a s => ?_) _).trans ?_
    | split)

theorem fixed_ffClearNow (s : State) : (ffClearNow s).fixed = s.fixed := by
  unfold ffClearNow
  repeat' (first
    | with_reducible rfl
    | simp only [fixed_mk, fixed_fold, ite_fixed, ite_self, implies_true]
    | refine (fixed_each _ _ (fun a s => ?_) _).trans ?_
    | split)

theorem fixed_backoffEnd (i : Nat) (s : State) : (backoffEnd i s).fixed = s.fixed := by
  unfold backoffEnd
  repeat' (first
    | with_reducible rfl
    | simp only [fixed_mk, fixed_fold, ite_fixed, ite_self, implies_true, fixed_modRail]
    | refine (fixed_each _ _ (fun a s => ?_) _).trans ?_
    | split)

theorem fixed_backoffTick (i : Nat) (s : State) : (backoffTick i s).fixed = s.fixed := by
  unfold backoffTick
  repeat' (first
    | with_reducible rfl
    | simp only [fixed_mk, fixed_fold, ite_fixed, ite_self, implies_true, fixed_modRail, fixed_backoffEnd]
    | refine (fixed_each _ _ (fun a s => ?_) _).trans ?_
    | split)

theorem fixed_stageBackoffEnd (st : Nat) (s : State) : (stageBackoffEnd st s).fixed = s.fixed := by
  unfold stageBackoffEnd
  repeat' (first
    | with_reducible rfl
    | simp only [fixed_mk, fixed_fold, ite_fixed, ite_self, implies_true, fixed_modStg]
    | refine (fixed_each _ _ (fun a s => ?_) _).trans ?_
    | split)

theorem fixed_stageBackoffTick (st : Nat) (s : State) : (stageBackoffTick st s).fixed = s.fixed := by
  unfold stageBackoffTick
  repeat' (first
    | with_reducible rfl
    | simp only [fixed_mk, fixed_fold, ite_fixed, ite_self, implies_true, fixed_modStg, fixed_stageBackoffEnd]
    | refine (fixed_each _ _ (fun a s => ?_) _).trans ?_
    | split)

theorem fixed_groupRestartDue (n : Nat) (s : State) : (groupRestartDue n s).fixed = s.fixed := by
  unfold groupRestartDue
  repeat' (first
    | with_reducible rfl
    | simp only [fixed_mk, fixed_fold, ite_fixed, ite_self, implies_true, fixed_groupRestartNow]
    | refine (fixed_each _ _ (fun a s => ?_) _).trans ?_
    | split)

theorem fixed_groupTick (n : Nat) (s : State) : (groupTick n s).fixed = s.fixed := by
  unfold groupTick
  repeat' (first
    | with_reducible rfl
    | simp only [fixed_mk, fixed_fold, ite_fixed, ite_self, implies_true, fixed_modGrp, fixed_groupRestartDue]
    | refine (fixed_each _ _ (fun a s => ?_) _).trans ?_
    | split)

theorem fixed_restartDue (s : State) : (restartDue s).fixed = s.fixed := by
  unfold restartDue
  repeat' (first
    | with_reducible rfl
    | simp only [fixed_mk, fixed_fold, ite_fixed, ite_self, implies_true, fixed_fullRestart]
    | refine (fixed_each _ _ (fun a s => ?_) _).trans ?_
    | split)

theorem fixed_restartTick (s : State) : (restartTick s).fixed = s.fixed := by
  unfold restartTick
  repeat' (first
    | with_reducible rfl
    | simp only [fixed_mk, fixed_fold, ite_fixed, ite_self, implies_true, fixed_restartDue]
    | refine (fixed_each _ _ (fun a s => ?_) _).trans ?_
    | split)

theorem fixed_windowDue (s : State) : (windowDue s).fixed = s.fixed := by
  unfold windowDue
  repeat' (first
    | with_reducible rfl
    | simp only [fixed_mk, fixed_fold, ite_fixed, ite_self, implies_true]
    | refine (fixed_each _ _ (fun a s => ?_) _).trans ?_
    | split)

theorem fixed_windowTick (s : State) : (windowTick s).fixed = s.fixed := by
  unfold windowTick
  repeat' (first
    | with_reducible rfl
    | simp only [fixed_mk, fixed_fold, ite_fixed, ite_self, implies_true, fixed_windowDue]
    | refine (fixed_each _ _ (fun a s => ?_) _).trans ?_
    | split)

theorem fixed_sysrstUp (old : Domain) (s : State) : (sysrstUp old s).fixed = s.fixed := by
  unfold sysrstUp
  repeat' (first
    | with_reducible rfl
    | simp only [fixed_mk, fixed_fold, ite_fixed, ite_self, implies_true]
    | refine (fixed_each _ _ (fun a s => ?_) _).trans ?_
    | split)

theorem fixed_sysrstOff (s : State) : (sysrstOff s).fixed = s.fixed := by
  unfold sysrstOff
  repeat' (first
    | with_reducible rfl
    | simp only [fixed_mk, fixed_fold, ite_fixed, ite_self, implies_true]
    | refine (fixed_each _ _ (fun a s => ?_) _).trans ?_
    | split)

theorem fixed_sysrstDue (s : State) : (sysrstDue s).fixed = s.fixed := by
  unfold sysrstDue
  repeat' (first
    | with_reducible rfl
    | simp only [fixed_mk, fixed_fold, ite_fixed, ite_self, implies_true, fixed_sysrstOff]
    | refine (fixed_each _ _ (fun a s => ?_) _).trans ?_
    | split)

theorem fixed_sysrstStep (s : State) : (sysrstStep s).fixed = s.fixed := by
  unfold sysrstStep
  repeat' (first
    | with_reducible rfl
    | simp only [fixed_mk, fixed_fold, ite_fixed, ite_self, implies_true]
    | refine (fixed_each _ _ (fun a s => ?_) _).trans ?_
    | split)

theorem fixed_releaseNow (i : Nat) (s : State) : (releaseNow i s).fixed = s.fixed := by
  unfold releaseNow
  repeat' (first
    | with_reducible rfl
    | simp only [fixed_mk, fixed_fold, ite_fixed, ite_self, implies_true, fixed_modRail, fixed_driveEn,
        fixed_releaseRail]
    | refine (fixed_each _ _ (fun a s => ?_) _).trans ?_
    | split)

theorem fixed_releaseAll (s : State) : (releaseAll s).fixed = s.fixed := by
  unfold releaseAll
  repeat' (first
    | with_reducible rfl
    | simp only [fixed_mk, fixed_fold, ite_fixed, ite_self, implies_true, fixed_each, fixed_releaseNow]
    | refine (fixed_each _ _ (fun a s => ?_) _).trans ?_
    | split)

theorem fixed_trayExpiry (e : Nat) (s : State) : (trayExpiry e s).fixed = s.fixed := by
  unfold trayExpiry
  repeat' (first
    | with_reducible rfl
    | simp only [fixed_mk, fixed_fold, ite_fixed, ite_self, implies_true, fixed_assertSysrst, fixed_offRelay,
        fixed_offRequest, fixed_raise, fixed_releaseAll]
    | refine (fixed_each _ _ (fun a s => ?_) _).trans ?_
    | split)

theorem fixed_graceDue (s : State) : (graceDue s).fixed = s.fixed := by
  unfold graceDue
  repeat' (first
    | with_reducible rfl
    | simp only [fixed_mk, fixed_fold, ite_fixed, ite_self, implies_true, fixed_releaseAll]
    | refine (fixed_each _ _ (fun a s => ?_) _).trans ?_
    | split)

theorem fixed_graceStep (s : State) : (graceStep s).fixed = s.fixed := by
  unfold graceStep
  repeat' (first
    | with_reducible rfl
    | simp only [fixed_mk, fixed_fold, ite_fixed, ite_self, implies_true, fixed_graceDue]
    | refine (fixed_each _ _ (fun a s => ?_) _).trans ?_
    | split)

theorem fixed_watchdogCount (wedged : List Nat) (s : State) : (watchdogCount wedged s).2.fixed = s.fixed := by
  unfold watchdogCount
  repeat' (first
    | with_reducible rfl
    | simp only [fixed_mk, fixed_fold, ite_fixed, ite_self, implies_true, fixed_modEng, fixed_each]
    | refine (fixed_each _ _ (fun a s => ?_) _).trans ?_
    | split)

end Sys2Proof.Machine
end

