-- ==== Sys2Proof/Laws/KeptSeq.lean ====
section
/-! SUPPORT. Laws/KeptSeq.lean: the same for the ledger, the sequencer, engines, the damper and the happenings of rails, stages and converters:
none touches the queue of commands, the frame counter, or the words of BAR0 that read back or are in force. One lemma
for each operation, cited in place of unfolding it. -/

set_option linter.all false
set_option linter.unusedSimpArgs false
set_option linter.unreachableTactic false
set_option linter.unusedTactic false

namespace Sys2Proof.Machine

theorem fixed_measurePower (s : State) : (measurePower s).fixed = s.fixed := by
  unfold measurePower
  repeat' (first
    | with_reducible rfl
    | simp only [fixed_mk, fixed_fold, ite_fixed, ite_self, implies_true]
    | refine (fixed_each _ _ (fun a s => ?_) _).trans ?_
    | split)

theorem fixed_replenish (s : State) : (replenish s).fixed = s.fixed := by
  unfold replenish
  repeat' (first
    | with_reducible rfl
    | simp only [fixed_mk, fixed_fold, ite_fixed, ite_self, implies_true]
    | refine (fixed_each _ _ (fun a s => ?_) _).trans ?_
    | split)

theorem fixed_modCand (r : CandRef) (f : Cand → Cand) (s : State) : (modCand r f s).fixed = s.fixed := by
  unfold modCand
  repeat' (first
    | with_reducible rfl
    | simp only [fixed_mk, fixed_fold, ite_fixed, ite_self, implies_true, fixed_modProg, fixed_modRail, fixed_modStg]
    | refine (fixed_each _ _ (fun a s => ?_) _).trans ?_
    | split)

theorem fixed_grant (c : PCand) (p : Pass) : (grant c p).s.fixed = p.s.fixed := by
  unfold grant
  repeat' (first
    | with_reducible rfl
    | simp only [fixed_mk, fixed_fold, ite_fixed, ite_self, implies_true, fixed_modCand]
    | refine (fixed_each _ _ (fun a s => ?_) _).trans ?_
    | split)
theorem fixed_tryCand (p : Pass) (c : PCand) : (tryCand p c).s.fixed = p.s.fixed := by
  unfold tryCand
  repeat' (first
    | with_reducible rfl
    | simp only [fixed_mk, fixed_fold, ite_fixed, ite_self, implies_true, fixed_grant, fixed_modCand]
    | refine (fixed_each _ _ (fun a s => ?_) _).trans ?_
    | split)
theorem fixed_tryClass (n : Nat) (p : Pass) : (tryClass n p).s.fixed = p.s.fixed := by
  unfold tryClass
  repeat' (first
    | with_reducible rfl
    | simp only [fixed_mk, fixed_fold, ite_fixed, ite_self, implies_true, fixed_raise]
    | refine (fixed_each _ _ (fun a s => ?_) _).trans ?_
    | split)
theorem fixed_tryCands (b : Bal) (s : State) : (tryCands b s).s.fixed = s.fixed := by
  have h : ((passCands s).foldl tryCand ({ s := s, b := b } : Pass)).s.fixed = s.fixed :=
    fixed_foldl (fun x : Pass => x.s) tryCand fixed_tryCand _ _
  unfold tryCands
  simp only
  split
  · exact h
  · exact (fixed_each _ _ fixed_alogAdd _).trans h
theorem fixed_tryClasses (p : Pass) : (tryClasses p).s.fixed = p.s.fixed :=
  fixed_foldl (fun x : Pass => x.s) (fun q n => tryClass n q) (fun q n => fixed_tryClass n q) _ _
theorem fixed_passEnd (p : Pass) : (passEnd p).fixed = p.s.fixed := rfl

theorem fixed_ledgerPass (s : State) : (ledgerPass s).fixed = s.fixed := by
  unfold ledgerPass
  split
  · rfl
  · split
    · rfl
    · split
      · exact fixed_passEnd _
      · exact (fixed_passEnd _).trans ((fixed_tryClasses _).trans (fixed_tryCands _ _))

theorem fixed_marginPut (old : MOp) (new : Option MOp) (s : State) : (marginPut old new s).fixed = s.fixed := by
  unfold marginPut
  repeat' (first
    | with_reducible rfl
    | simp only [fixed_mk, fixed_fold, ite_fixed, ite_self, implies_true]
    | refine (fixed_each _ _ (fun a s => ?_) _).trans ?_
    | split)

theorem fixed_marginEnd (m : MOp) (code : Nat) (s : State) : (marginEnd m code s).fixed = s.fixed := by
  unfold marginEnd
  repeat' (first
    | with_reducible rfl
    | simp only [fixed_mk, fixed_fold, ite_fixed, ite_self, implies_true, fixed_marginPut, fixed_marginTell]
    | refine (fixed_each _ _ (fun a s => ?_) _).trans ?_
    | split)

theorem fixed_marginReached (mid : Bool) (m : MOp) (s : State) : (marginReached mid m s).fixed = s.fixed := by
  unfold marginReached
  repeat' (first
    | with_reducible rfl
    | simp only [fixed_mk, fixed_fold, ite_fixed, ite_self, implies_true, fixed_commitEnd, fixed_marginEnd,
        fixed_marginPut]
    | refine (fixed_each _ _ (fun a s => ?_) _).trans ?_
    | split)

theorem fixed_marginPmbFail (m : MOp) (s : State) : (marginPmbFail m s).fixed = s.fixed := by
  unfold marginPmbFail
  repeat' (first
    | with_reducible rfl
    | simp only [fixed_mk, fixed_fold, ite_fixed, ite_self, implies_true, fixed_countUp, fixed_raise]
    | refine (fixed_each _ _ (fun a s => ?_) _).trans ?_
    | split)

theorem fixed_marginGo (g : Nat) (s : State) : (marginGo g s).fixed = s.fixed := by
  unfold marginGo
  repeat' (first
    | with_reducible rfl
    | simp only [fixed_mk, fixed_fold, ite_fixed, ite_self, implies_true, fixed_modRail, fixed_commitEnd,
        fixed_marginEnd, fixed_marginPmbFail, fixed_marginPut, fixed_marginTell, fixed_mdacTarget, fixed_pmbPush]
    | refine (fixed_each _ _ (fun a s => ?_) _).trans ?_
    | split)

theorem fixed_marginBusDone (i : Nat) (ok : Bool) (s : State) : (marginBusDone i ok s).fixed = s.fixed := by
  unfold marginBusDone
  repeat' (first
    | with_reducible rfl
    | simp only [fixed_mk, fixed_fold, ite_fixed, ite_self, implies_true, fixed_marginEnd, fixed_marginNominal,
        fixed_marginPmbFail, fixed_marginReached]
    | refine (fixed_each _ _ (fun a s => ?_) _).trans ?_
    | split)

theorem fixed_marginJudge (m : MOp) (n : Nat) (sum : Int) (s : State) : (marginJudge m n sum s).fixed = s.fixed := by
  unfold marginJudge
  repeat' (first
    | with_reducible rfl
    | simp only [fixed_mk, fixed_fold, ite_fixed, ite_self, implies_true, fixed_commitEnd, fixed_countUp,
        fixed_freeInt, fixed_marginEnd, fixed_marginNominal, fixed_raise]
    | refine (fixed_each _ _ (fun a s => ?_) _).trans ?_
    | split)

theorem fixed_marginStep (m : MOp) (s : State) : (marginStep m s).fixed = s.fixed := by
  unfold marginStep
  repeat' (first
    | with_reducible rfl
    | simp only [fixed_mk, fixed_fold, ite_fixed, ite_self, implies_true, fixed_marginJudge, fixed_marginPut,
        fixed_marginReached]
    | refine (fixed_each _ _ (fun a s => ?_) _).trans ?_
    | split)

theorem fixed_markActed (g : Nat) (s : State) : (markActed g s).fixed = s.fixed := by
  unfold markActed
  repeat' (first
    | with_reducible rfl
    | simp only [fixed_mk, fixed_fold, ite_fixed, ite_self, implies_true]
    | refine (fixed_each _ _ (fun a s => ?_) _).trans ?_
    | split)

theorem fixed_retireNext (n : Nat) (s : State) : (retireNext n s).fixed = s.fixed := by
  unfold retireNext
  repeat' (first
    | with_reducible rfl
    | simp only [fixed_mk, fixed_fold, ite_fixed, ite_self, implies_true, fixed_modProg, fixed_fetchAt]
    | refine (fixed_each _ _ (fun a s => ?_) _).trans ?_
    | split)

theorem fixed_failStep (n status : Nat) (it : Item) (pmb : Bool) (s : State) : (failStep n status it pmb s).fixed = s.fixed
    := by
  unfold failStep
  repeat' (first
    | with_reducible rfl
    | simp only [fixed_mk, fixed_fold, ite_fixed, ite_self, implies_true, fixed_modProg, fixed_disown, fixed_progEnd,
        fixed_retireNext]
    | refine (fixed_each _ _ (fun a s => ?_) _).trans ?_
    | split)

theorem fixed_pushCmd (c : RailCmd) (s : State) : (pushCmd c s).fixed = s.fixed := by
  unfold pushCmd
  repeat' (first
    | with_reducible rfl
    | simp only [fixed_mk, fixed_fold, ite_fixed, ite_self, implies_true]
    | refine (fixed_each _ _ (fun a s => ?_) _).trans ?_
    | split)

theorem fixed_modItem (n idx : Nat) (f : Item → Item) (s : State) : (modItem n idx f s).fixed = s.fixed := by
  unfold modItem
  repeat' (first
    | with_reducible rfl
    | simp only [fixed_mk, fixed_fold, ite_fixed, ite_self, implies_true, fixed_modProg]
    | refine (fixed_each _ _ (fun a s => ?_) _).trans ?_
    | split)

theorem fixed_dropItem (n idx : Nat) (s : State) : (dropItem n idx s).fixed = s.fixed := by
  unfold dropItem
  repeat' (first
    | with_reducible rfl
    | simp only [fixed_mk, fixed_fold, ite_fixed, ite_self, implies_true, fixed_modProg, fixed_retireNext]
    | refine (fixed_each _ _ (fun a s => ?_) _).trans ?_
    | split)

theorem fixed_examEnable (n : Nat) (it : Item) (s : State) : (examEnable n it s).1.fixed = s.fixed := by
  unfold examEnable
  repeat' (first
    | with_reducible rfl
    | simp only [fixed_mk, fixed_fold, ite_fixed, ite_self, implies_true, fixed_modProg, fixed_dropItem,
        fixed_markActed, fixed_modItem, fixed_progEnd, fixed_pushCmd, fixed_withdrawItem]
    | refine (fixed_each _ _ (fun a s => ?_) _).trans ?_
    | split)

theorem fixed_beginStep (n : Nat) (it : Item) (s : State) : (beginStep n it s).fixed = s.fixed := by
  unfold beginStep
  repeat' (first
    | with_reducible rfl
    | simp only [fixed_mk, fixed_fold, ite_fixed, ite_self, implies_true, fixed_emit, fixed_markActed, fixed_modItem,
        fixed_pmbPush, fixed_pushCmd]
    | refine (fixed_each _ _ (fun a s => ?_) _).trans ?_
    | split)

theorem fixed_retireActs (n : Nat) (it : Item) (s : State) : (retireActs n it s).fixed = s.fixed := by
  unfold retireActs
  repeat' (first
    | with_reducible rfl
    | simp only [fixed_mk, fixed_fold, ite_fixed, ite_self, implies_true, fixed_markActed, fixed_pushCmd]
    | refine (fixed_each _ _ (fun a s => ?_) _).trans ?_
    | split)

theorem fixed_ageItems (s : State) : (ageItems s).fixed = s.fixed := by
  unfold ageItems
  repeat' (first
    | with_reducible rfl
    | simp only [fixed_mk, fixed_fold, ite_fixed, ite_self, implies_true, fixed_modProg, fixed_each]
    | refine (fixed_each _ _ (fun a s => ?_) _).trans ?_
    | split)

theorem fixed_runStep (n : Nat) (it : Item) (s : State) : (runStep n it s).1.fixed = s.fixed := by
  unfold runStep
  repeat' (first
    | with_reducible rfl
    | simp only [fixed_mk, fixed_fold, ite_fixed, ite_self, implies_true, fixed_modProg, fixed_beginStep,
        fixed_failStep, fixed_progEnd, fixed_retireActs, fixed_retireNext]
    | refine (fixed_each _ _ (fun a s => ?_) _).trans ?_
    | split)

theorem fixed_runRendezvous (n : Nat) (it : Item) (room : Nat) (s : State) : (runRendezvous n it room s).1.fixed = s.fixed
    := by
  unfold runRendezvous
  repeat' (first
    | with_reducible rfl
    | simp only [fixed_mk, fixed_fold, ite_fixed, ite_self, implies_true, fixed_modProg, fixed_each, fixed_failStep,
        fixed_modItem, fixed_retireNext]
    | refine (fixed_each _ _ (fun a s => ?_) _).trans ?_
    | split)

theorem fixed_runProg (n room : Nat) (s : State) : (runProg n room s).1.fixed = s.fixed := by
  unfold runProg; dsimp only
  split
  · rfl
  · split
    · refine fixed_foldl (fun x : State × Nat => x.1) _ (fun p it => ?_) _ _
      repeat' (first
        | with_reducible rfl
        | simp only [fixed_mk, fixed_fold, ite_fixed, ite_self, implies_true, fixed_modProg, fixed_beginStep,
            fixed_examEnable, fixed_progEnd, fixed_runRendezvous, fixed_runStep]
        | refine (fixed_each _ _ (fun a s => ?_) _).trans ?_
        | split)
    · repeat' (first
        | with_reducible rfl
        | simp only [fixed_mk, fixed_fold, ite_fixed, ite_self, implies_true, fixed_modProg, fixed_beginStep,
            fixed_examEnable, fixed_progEnd, fixed_runRendezvous, fixed_runStep]
        | refine (fixed_each _ _ (fun a s => ?_) _).trans ?_
        | split)

theorem fixed_seqStep (s : State) : (seqStep s).fixed = s.fixed := by
  unfold seqStep
  simp only
  refine (fixed_foldl (fun x : State × Nat => x.1) _ (fun p n => ?_) _ _).trans ?_
  · repeat' (first
      | with_reducible rfl
      | simp only [fixed_mk, fixed_fold, ite_fixed, ite_self, implies_true, fixed_modProg, fixed_ageItems, fixed_each,
          fixed_runProg]
      | refine (fixed_each _ _ (fun a s => ?_) _).trans ?_
      | split)
  · repeat' (first
      | with_reducible rfl
      | simp only [fixed_mk, fixed_fold, ite_fixed, ite_self, implies_true, fixed_modProg, fixed_ageItems, fixed_each,
          fixed_runProg]
      | refine (fixed_each _ _ (fun a s => ?_) _).trans ?_
      | split)

theorem fixed_pushGrant (r : CandRef) (c : RailCmd) (s : State) : (pushGrant r c s).fixed = s.fixed := by
  unfold pushGrant
  repeat' (first
    | with_reducible rfl
    | simp only [fixed_mk, fixed_fold, ite_fixed, ite_self, implies_true, fixed_modCand, fixed_pushCmd]
    | refine (fixed_each _ _ (fun a s => ?_) _).trans ?_
    | split)

theorem fixed_dueGrants (s : State) : (dueGrants s).fixed = s.fixed := by
  unfold dueGrants
  repeat' (first
    | with_reducible rfl
    | simp only [fixed_mk, fixed_fold, ite_fixed, ite_self, implies_true, fixed_each, fixed_pushCmd, fixed_pushGrant]
    | refine (fixed_each _ _ (fun a s => ?_) _).trans ?_
    | split)

theorem fixed_memberRetries (s : State) : (memberRetries s).fixed = s.fixed := by
  unfold memberRetries
  repeat' (first
    | with_reducible rfl
    | simp only [fixed_mk, fixed_fold, ite_fixed, ite_self, implies_true]
    | refine (fixed_each _ _ (fun a s => ?_) _).trans ?_
    | split)

theorem fixed_preempt (n idx : Nat) (s : State) : (preempt n idx s).fixed = s.fixed := by
  unfold preempt
  repeat' (first
    | with_reducible rfl
    | simp only [fixed_mk, fixed_fold, ite_fixed, ite_self, implies_true, fixed_progEnd]
    | refine (fixed_each _ _ (fun a s => ?_) _).trans ?_
    | split)

theorem fixed_applyEnable (i n idx : Nat) (f : Fig) (s : State) : (applyEnable i n idx f s).fixed = s.fixed := by
  unfold applyEnable
  repeat' (first
    | with_reducible rfl
    | simp only [fixed_mk, fixed_fold, ite_fixed, ite_self, implies_true, fixed_modRail, fixed_commitEnd,
        fixed_preempt, fixed_startRail]
    | refine (fixed_each _ _ (fun a s => ?_) _).trans ?_
    | split)

theorem fixed_applyRetry (i : Nat) (s : State) : (applyRetry i s).fixed = s.fixed := by
  unfold applyRetry
  repeat' (first
    | with_reducible rfl
    | simp only [fixed_mk, fixed_fold, ite_fixed, ite_self, implies_true, fixed_modRail, fixed_cancelRetry,
        fixed_countUp, fixed_startRail]
    | refine (fixed_each _ _ (fun a s => ?_) _).trans ?_
    | split)

theorem fixed_applyResume (i : Nat) (s : State) : (applyResume i s).fixed = s.fixed := by
  unfold applyResume
  repeat' (first
    | with_reducible rfl
    | simp only [fixed_mk, fixed_fold, ite_fixed, ite_self, implies_true, fixed_modRail, fixed_commitEnd,
        fixed_startRail]
    | refine (fixed_each _ _ (fun a s => ?_) _).trans ?_
    | split)

theorem fixed_applyRelease (i n idx : Nat) (s : State) : (applyRelease i n idx s).fixed = s.fixed := by
  unfold applyRelease
  repeat' (first
    | with_reducible rfl
    | simp only [fixed_mk, fixed_fold, ite_fixed, ite_self, implies_true, fixed_cancelRetry, fixed_preempt,
        fixed_releaseRail]
    | refine (fixed_each _ _ (fun a s => ?_) _).trans ?_
    | split)

theorem fixed_applyRailCmd (c : RailCmd) (s : State) : (applyRailCmd c s).fixed = s.fixed := by
  unfold applyRailCmd
  repeat' (first
    | with_reducible rfl
    | simp only [fixed_mk, fixed_fold, ite_fixed, ite_self, implies_true, fixed_applyEnable, fixed_applyRelease,
        fixed_applyResume, fixed_applyRetry, fixed_marginGo, fixed_retryStage, fixed_startStage]
    | refine (fixed_each _ _ (fun a s => ?_) _).trans ?_
    | split)

theorem fixed_remoteDone (c : RailCmd) (s : State) : (remoteDone c s).fixed = s.fixed := by
  unfold remoteDone
  repeat' (first
    | with_reducible rfl
    | simp only [fixed_mk, fixed_fold, ite_fixed, ite_self, implies_true, fixed_commitEnd, fixed_marginPut,
        fixed_marginTell]
    | refine (fixed_each _ _ (fun a s => ?_) _).trans ?_
    | split)

theorem fixed_sendCmds (s : State) : (sendCmds s).fixed = s.fixed := by
  unfold sendCmds
  repeat' (first
    | with_reducible rfl
    | simp only [fixed_mk, fixed_fold, ite_fixed, ite_self, implies_true, fixed_each, fixed_emit]
    | refine (fixed_each _ _ (fun a s => ?_) _).trans ?_
    | split)

theorem fixed_applyCmds (s : State) : (applyCmds s).fixed = s.fixed := by
  unfold applyCmds
  repeat' (first
    | with_reducible rfl
    | simp only [fixed_mk, fixed_fold, ite_fixed, ite_self, implies_true, fixed_applyRailCmd, fixed_each,
        fixed_remoteDone]
    | refine (fixed_each _ _ (fun a s => ?_) _).trans ?_
    | split)

theorem fixed_abortProg (n : Nat) (s : State) : (abortProg n s).2.fixed = s.fixed := by
  unfold abortProg
  repeat' (first
    | with_reducible rfl
    | simp only [fixed_mk, fixed_fold, ite_fixed, ite_self, implies_true, fixed_modProg, fixed_progEnd]
    | refine (fixed_each _ _ (fun a s => ?_) _).trans ?_
    | split)

theorem fixed_abortAll (s : State) : (abortAll s).2.fixed = s.fixed := by
  unfold abortAll
  repeat' (first
    | with_reducible rfl
    | simp only [fixed_mk, fixed_fold, ite_fixed, ite_self, implies_true, fixed_modProg, fixed_abortProg, fixed_each]
    | refine (fixed_each _ _ (fun a s => ?_) _).trans ?_
    | split)

theorem fixed_markOver (e t : Nat) (skip : Bool) (s : State) : (markOver e t skip s).fixed = s.fixed := by
  unfold markOver
  repeat' (first
    | with_reducible rfl
    | simp only [fixed_mk, fixed_fold, ite_fixed, ite_self, implies_true, fixed_modEng]
    | refine (fixed_each _ _ (fun a s => ?_) _).trans ?_
    | split)

theorem fixed_taskOverrun (e t : Nat) (s : State) : (taskOverrun e t s).fixed = s.fixed := by
  unfold taskOverrun
  repeat' (first
    | with_reducible rfl
    | simp only [fixed_mk, fixed_fold, ite_fixed, ite_self, implies_true, fixed_each, fixed_markOver]
    | refine (fixed_each _ _ (fun a s => ?_) _).trans ?_
    | split)

theorem fixed_taskRun (e t n cyc : Nat) (f : State → State) (s : State) (hf : ∀ s, (f s).fixed = s.fixed) : (taskRun e t n
    cyc f s).fixed = s.fixed := by
  unfold taskRun
  repeat' (first
    | with_reducible rfl
    | simp only [fixed_mk, fixed_fold, ite_fixed, ite_self, implies_true, fixed_modEng, fixed_raise, fixed_taskOverrun,
        hf]
    | refine (fixed_each _ _ (fun a s => ?_) _).trans ?_
    | split)

theorem fixed_overran (e t : Nat) (skip : Bool) (s : State) : (overran e t skip s).fixed = s.fixed := by
  unfold overran
  repeat' (first
    | with_reducible rfl
    | simp only [fixed_mk, fixed_fold, ite_fixed, ite_self, implies_true, fixed_modEng, fixed_modStg, fixed_raise]
    | refine (fixed_each _ _ (fun a s => ?_) _).trans ?_
    | split)

theorem fixed_engineOver (e : Nat) (s : State) : (engineOver e s).fixed = s.fixed := by
  unfold engineOver
  repeat' (first
    | with_reducible rfl
    | simp only [fixed_mk, fixed_fold, ite_fixed, ite_self, implies_true, fixed_modEng, fixed_each, fixed_overran]
    | refine (fixed_each _ _ (fun a s => ?_) _).trans ?_
    | split)

theorem fixed_taskEnds (e : Nat) (s : State) : (taskEnds e s).fixed = s.fixed := by
  unfold taskEnds
  repeat' (first
    | with_reducible rfl
    | simp only [fixed_mk, fixed_fold, ite_fixed, ite_self, implies_true, fixed_each, fixed_markOver]
    | refine (fixed_each _ _ (fun a s => ?_) _).trans ?_
    | split)

theorem fixed_engineEnd (e : Nat) (s : State) : (engineEnd e s).fixed = s.fixed := by
  unfold engineEnd
  repeat' (first
    | with_reducible rfl
    | simp only [fixed_mk, fixed_fold, ite_fixed, ite_self, implies_true, fixed_modEng, fixed_taskEnds]
    | refine (fixed_each _ _ (fun a s => ?_) _).trans ?_
    | split)

theorem fixed_overrunSafe (st : Nat) (s : State) : (overrunSafe st s).fixed = s.fixed := by
  unfold overrunSafe
  repeat' (first
    | with_reducible rfl
    | simp only [fixed_mk, fixed_fold, ite_fixed, ite_self, implies_true, fixed_stageFault]
    | refine (fixed_each _ _ (fun a s => ?_) _).trans ?_
    | split)

theorem fixed_engineHalt (e : Nat) (s : State) : (engineHalt e s).fixed = s.fixed := by
  unfold engineHalt
  repeat' (first
    | with_reducible rfl
    | simp only [fixed_mk, fixed_fold, ite_fixed, ite_self, implies_true, fixed_modEng]
    | refine (fixed_each _ _ (fun a s => ?_) _).trans ?_
    | split)

theorem fixed_armEngine (e : Nat) (s : State) : (armEngine e s).fixed = s.fixed := by
  unfold armEngine
  repeat' (first
    | with_reducible rfl
    | simp only [fixed_mk, fixed_fold, ite_fixed, ite_self, implies_true, fixed_modEng]
    | refine (fixed_each _ _ (fun a s => ?_) _).trans ?_
    | split)

theorem fixed_wcLog (x : WcEntry) (s : State) : (wcLog x s).fixed = s.fixed := by
  unfold wcLog
  repeat' (first
    | with_reducible rfl
    | simp only [fixed_mk, fixed_fold, ite_fixed, ite_self, implies_true]
    | refine (fixed_each _ _ (fun a s => ?_) _).trans ?_
    | split)

theorem fixed_correctedWord (x : WcEntry) (s : State) : (correctedWord x s).fixed = s.fixed := by
  unfold correctedWord
  repeat' (first
    | with_reducible rfl
    | simp only [fixed_mk, fixed_fold, ite_fixed, ite_self, implies_true, fixed_raise]
    | refine (fixed_each _ _ (fun a s => ?_) _).trans ?_
    | split)

theorem fixed_uncorrectableWord (x : WcEntry) (s : State) : (uncorrectableWord x s).fixed = s.fixed := by
  unfold uncorrectableWord
  repeat' (first
    | with_reducible rfl
    | simp only [fixed_mk, fixed_fold, ite_fixed, ite_self, implies_true, fixed_raise]
    | refine (fixed_each _ _ (fun a s => ?_) _).trans ?_
    | split)

theorem fixed_wordsEnd (s : State) : (wordsEnd s).fixed = s.fixed := by
  unfold wordsEnd
  repeat' (first
    | with_reducible rfl
    | simp only [fixed_mk, fixed_fold, ite_fixed, ite_self, implies_true, fixed_correctedWord, fixed_each,
        fixed_uncorrectableWord, fixed_wcLog]
    | refine (fixed_each _ _ (fun a s => ?_) _).trans ?_
    | split)

theorem fixed_recordLost (addr : Nat) (s : State) : (recordLost addr s).fixed = s.fixed := by
  unfold recordLost
  repeat' (first
    | with_reducible rfl
    | simp only [fixed_mk, fixed_fold, ite_fixed, ite_self, implies_true, fixed_ashRise]
    | refine (fixed_each _ _ (fun a s => ?_) _).trans ?_
    | split)

theorem fixed_itemLost (r : Sys2Proof.WordRead) (s : State) : (itemLost r s).fixed = s.fixed := by
  unfold itemLost
  repeat' (first
    | with_reducible rfl
    | simp only [fixed_mk, fixed_fold, ite_fixed, ite_self, implies_true, fixed_modEng, fixed_modRing]
    | refine (fixed_each _ _ (fun a s => ?_) _).trans ?_
    | split)

theorem fixed_readFails (r : Sys2Proof.WordRead) (s : State) : (readFails r s).fixed = s.fixed := by
  unfold readFails
  repeat' (first
    | with_reducible rfl
    | simp only [fixed_mk, fixed_fold, ite_fixed, ite_self, implies_true, fixed_modEng, fixed_engineHalt,
        fixed_itemLost, fixed_recordLost]
    | refine (fixed_each _ _ (fun a s => ?_) _).trans ?_
    | split)

theorem fixed_engineRead (r : Sys2Proof.WordRead) (s : State) : (engineRead r s).fixed = s.fixed := by
  unfold engineRead
  repeat' (first
    | with_reducible rfl
    | simp only [fixed_mk, fixed_fold, ite_fixed, ite_self, implies_true, fixed_readFails, fixed_readWord]
    | refine (fixed_each _ _ (fun a s => ?_) _).trans ?_
    | split)

theorem fixed_upset (x : Nat × Nat × Codeword) (s : State) : (upset x s).fixed = s.fixed := by
  unfold upset
  repeat' (first
    | with_reducible rfl
    | simp only [fixed_mk, fixed_fold, ite_fixed, ite_self, implies_true]
    | refine (fixed_each _ _ (fun a s => ?_) _).trans ?_
    | split)

theorem fixed_engineAct (x : Sys2Proof.FwAct) (s : State) : (engineAct x s).fixed = s.fixed := by
  unfold engineAct
  repeat' (first
    | with_reducible rfl
    | simp only [fixed_mk, fixed_fold, ite_fixed, ite_self, implies_true, fixed_modEng, fixed_partWrite,
        fixed_wcWritten]
    | refine (fixed_each _ _ (fun a s => ?_) _).trans ?_
    | refine (fixed_partWrite _ _ _ _ _ _ (fun _ => ?_)).trans ?_
    | split)

theorem fixed_scrubWord (ts : Ts) (n : Nat) (s : State) : (scrubWord ts n s).fixed = s.fixed := by
  unfold scrubWord
  repeat' (first
    | with_reducible rfl
    | simp only [fixed_mk, fixed_fold, ite_fixed, ite_self, implies_true, fixed_fromMirror, fixed_readWord,
        fixed_recordLost, fixed_wcWritten]
    | refine (fixed_each _ _ (fun a s => ?_) _).trans ?_
    | split)

theorem fixed_scrubStep (cyc : Nat) (s : State) : (scrubStep cyc s).fixed = s.fixed := by
  unfold scrubStep
  repeat' (first
    | with_reducible rfl
    | simp only [fixed_mk, fixed_fold, ite_fixed, ite_self, implies_true, fixed_each, fixed_scrubWord]
    | refine (fixed_each _ _ (fun a s => ?_) _).trans ?_
    | split)

theorem fixed_wordFrame (b : Sys2Proof.BoundaryIn) (s : State) : (wordFrame b s).fixed = s.fixed := by
  unfold wordFrame
  repeat' (first
    | with_reducible rfl
    | simp only [fixed_mk, fixed_fold, ite_fixed, ite_self, implies_true, fixed_each, fixed_engineAct,
        fixed_engineRead, fixed_scrubStep, fixed_upset, fixed_wordsEnd]
    | refine (fixed_each _ _ (fun a s => ?_) _).trans ?_
    | split)

theorem fixed_polWrites (n : Nat) (s : State) : (polWrites n s).fixed = s.fixed := by
  unfold polWrites
  repeat' (first
    | with_reducible rfl
    | simp only [fixed_mk, fixed_fold, ite_fixed, ite_self, implies_true, fixed_each, fixed_pmbPush]
    | refine (fixed_each _ _ (fun a s => ?_) _).trans ?_
    | split)

theorem fixed_applyLevel (s : State) : (applyLevel s).fixed = s.fixed := by
  unfold applyLevel
  repeat' (first
    | with_reducible rfl
    | simp only [fixed_mk, fixed_fold, ite_fixed, ite_self, implies_true, fixed_modStg, fixed_each, fixed_polWrites]
    | refine (fixed_each _ _ (fun a s => ?_) _).trans ?_
    | split)

theorem fixed_capChange (s : State) : (capChange s).fixed = s.fixed := by
  unfold capChange
  repeat' (first
    | with_reducible rfl
    | simp only [fixed_mk, fixed_fold, ite_fixed, ite_self, implies_true, fixed_raiseSev]
    | refine (fixed_each _ _ (fun a s => ?_) _).trans ?_
    | split)

theorem fixed_levelUp (s : State) : (levelUp s).fixed = s.fixed := by
  unfold levelUp
  repeat' (first
    | with_reducible rfl
    | simp only [fixed_mk, fixed_fold, ite_fixed, ite_self, implies_true]
    | refine (fixed_each _ _ (fun a s => ?_) _).trans ?_
    | split)

theorem fixed_levelDown (s : State) : (levelDown s).fixed = s.fixed := by
  unfold levelDown
  repeat' (first
    | with_reducible rfl
    | simp only [fixed_mk, fixed_fold, ite_fixed, ite_self, implies_true]
    | refine (fixed_each _ _ (fun a s => ?_) _).trans ?_
    | split)

theorem fixed_capRaise (s : State) : (capRaise s).fixed = s.fixed := by
  unfold capRaise
  repeat' (first
    | with_reducible rfl
    | simp only [fixed_mk, fixed_fold, ite_fixed, ite_self, implies_true, fixed_levelUp]
    | refine (fixed_each _ _ (fun a s => ?_) _).trans ?_
    | split)

theorem fixed_capRelax (s : State) : (capRelax s).fixed = s.fixed := by
  unfold capRelax
  repeat' (first
    | with_reducible rfl
    | simp only [fixed_mk, fixed_fold, ite_fixed, ite_self, implies_true, fixed_levelDown]
    | refine (fixed_each _ _ (fun a s => ?_) _).trans ?_
    | split)

theorem fixed_judgeCap (s : State) : (judgeCap s).fixed = s.fixed := by
  unfold judgeCap
  repeat' (first
    | with_reducible rfl
    | simp only [fixed_mk, fixed_fold, ite_fixed, ite_self, implies_true, fixed_finishAll, fixed_raise]
    | refine (fixed_each _ _ (fun a s => ?_) _).trans ?_
    | split)

theorem fixed_judgeStep (s : State) : (judgeStep s).fixed = s.fixed := by
  unfold judgeStep
  repeat' (first
    | with_reducible rfl
    | simp only [fixed_mk, fixed_fold, ite_fixed, ite_self, implies_true, fixed_judgeCap]
    | refine (fixed_each _ _ (fun a s => ?_) _).trans ?_
    | split)

theorem fixed_capDone (s : State) : (capDone s).fixed = s.fixed := by
  unfold capDone
  repeat' (first
    | with_reducible rfl
    | simp only [fixed_mk, fixed_fold, ite_fixed, ite_self, implies_true, fixed_finishAll]
    | refine (fixed_each _ _ (fun a s => ?_) _).trans ?_
    | split)

theorem fixed_damperBoundary (s : State) : (damperBoundary s).fixed = s.fixed := by
  unfold damperBoundary
  repeat' (first
    | with_reducible rfl
    | simp only [fixed_mk, fixed_fold, ite_fixed, ite_self, implies_true]
    | refine (fixed_each _ _ (fun a s => ?_) _).trans ?_
    | split)

theorem fixed_shedTask (s : State) : (shedTask s).fixed = s.fixed := by
  unfold shedTask
  repeat' (first
    | with_reducible rfl
    | simp only [fixed_mk, fixed_fold, ite_fixed, ite_self, implies_true, fixed_drawFree]
    | refine (fixed_each _ _ (fun a s => ?_) _).trans ?_
    | split)

theorem fixed_damperTask (s : State) : (damperTask s).fixed = s.fixed := by
  unfold damperTask
  repeat' (first
    | with_reducible rfl
    | simp only [fixed_mk, fixed_fold, ite_fixed, ite_self, implies_true, fixed_capChange, fixed_capRaise,
        fixed_capRelax, fixed_shedTask]
    | refine (fixed_each _ _ (fun a s => ?_) _).trans ?_
    | split)

theorem fixed_declareLoss (rects : Bool) (s : State) : (declareLoss rects s).fixed = s.fixed := by
  unfold declareLoss
  repeat' (first
    | with_reducible rfl
    | simp only [fixed_mk, fixed_fold, ite_fixed, ite_self, implies_true, fixed_raise]
    | refine (fixed_each _ _ (fun a s => ?_) _).trans ?_
    | split)

theorem fixed_restoreInput (s : State) : (restoreInput s).fixed = s.fixed := by
  unfold restoreInput
  repeat' (first
    | with_reducible rfl
    | simp only [fixed_mk, fixed_fold, ite_fixed, ite_self, implies_true, fixed_jInternal, fixed_onRequestNow,
        fixed_raise]
    | refine (fixed_each _ _ (fun a s => ?_) _).trans ?_
    | split)

theorem fixed_busFrame (s : State) : (busFrame s).fixed = s.fixed := by
  unfold busFrame
  repeat' (first
    | with_reducible rfl
    | simp only [fixed_mk, fixed_fold, ite_fixed, ite_self, implies_true]
    | refine (fixed_each _ _ (fun a s => ?_) _).trans ?_
    | split)

theorem fixed_restoreTick (s : State) : (restoreTick s).fixed = s.fixed := by
  unfold restoreTick
  repeat' (first
    | with_reducible rfl
    | simp only [fixed_mk, fixed_fold, ite_fixed, ite_self, implies_true, fixed_restoreInput]
    | refine (fixed_each _ _ (fun a s => ?_) _).trans ?_
    | split)

theorem fixed_inputStep (s : State) : (inputStep s).fixed = s.fixed := by
  unfold inputStep
  repeat' (first
    | with_reducible rfl
    | simp only [fixed_mk, fixed_fold, ite_fixed, ite_self, implies_true, fixed_busFrame, fixed_declareLoss,
        fixed_restoreTick]
    | refine (fixed_each _ _ (fun a s => ?_) _).trans ?_
    | split)

theorem fixed_inputLossOff (s : State) : (inputLossOff s).fixed = s.fixed := by
  unfold inputLossOff
  repeat' (first
    | with_reducible rfl
    | simp only [fixed_mk, fixed_fold, ite_fixed, ite_self, implies_true, fixed_offRelay, fixed_offRequest, fixed_raise]
    | refine (fixed_each _ _ (fun a s => ?_) _).trans ?_
    | split)

theorem fixed_shedFrame (s : State) : (shedFrame s).fixed = s.fixed := by
  unfold shedFrame
  repeat' (first
    | with_reducible rfl
    | simp only [fixed_mk, fixed_fold, ite_fixed, ite_self, implies_true]
    | refine (fixed_each _ _ (fun a s => ?_) _).trans ?_
    | split)

theorem fixed_shedTrip (s : State) : (shedTrip s).fixed = s.fixed := by
  unfold shedTrip
  repeat' (first
    | with_reducible rfl
    | simp only [fixed_mk, fixed_fold, ite_fixed, ite_self, implies_true, fixed_inputLossOff]
    | refine (fixed_each _ _ (fun a s => ?_) _).trans ?_
    | split)

theorem fixed_battJudge (s : State) : (battJudge s).fixed = s.fixed := by
  unfold battJudge
  repeat' (first
    | with_reducible rfl
    | simp only [fixed_mk, fixed_fold, ite_fixed, ite_self, implies_true, fixed_raise]
    | refine (fixed_each _ _ (fun a s => ?_) _).trans ?_
    | split)

theorem fixed_battOff (s : State) : (battOff s).fixed = s.fixed := by
  unfold battOff
  repeat' (first
    | with_reducible rfl
    | simp only [fixed_mk, fixed_fold, ite_fixed, ite_self, implies_true, fixed_inputLossOff]
    | refine (fixed_each _ _ (fun a s => ?_) _).trans ?_
    | split)

theorem fixed_battPoll (s : State) : (battPoll s).fixed = s.fixed := by
  unfold battPoll
  repeat' (first
    | with_reducible rfl
    | simp only [fixed_mk, fixed_fold, ite_fixed, ite_self, implies_true, fixed_pmbPush]
    | refine (fixed_each _ _ (fun a s => ?_) _).trans ?_
    | split)

theorem fixed_battTick (s : State) : (battTick s).fixed = s.fixed := by
  unfold battTick
  repeat' (first
    | with_reducible rfl
    | simp only [fixed_mk, fixed_fold, ite_fixed, ite_self, implies_true, fixed_battJudge, fixed_battPoll]
    | refine (fixed_each _ _ (fun a s => ?_) _).trans ?_
    | split)

theorem fixed_watchPoll (n : Nat) (s : State) : (watchPoll n s).fixed = s.fixed := by
  unfold watchPoll
  repeat' (first
    | with_reducible rfl
    | simp only [fixed_mk, fixed_fold, ite_fixed, ite_self, implies_true, fixed_modWatch, fixed_pmbPush]
    | refine (fixed_each _ _ (fun a s => ?_) _).trans ?_
    | split)

theorem fixed_watchTick (n : Nat) (s : State) : (watchTick n s).fixed = s.fixed := by
  unfold watchTick
  repeat' (first
    | with_reducible rfl
    | simp only [fixed_mk, fixed_fold, ite_fixed, ite_self, implies_true, fixed_modWatch, fixed_watchPoll]
    | refine (fixed_each _ _ (fun a s => ?_) _).trans ?_
    | split)

theorem fixed_rectOff (n : Nat) (s : State) : (rectOff n s).fixed = s.fixed := by
  unfold rectOff
  repeat' (first
    | with_reducible rfl
    | simp only [fixed_mk, fixed_fold, ite_fixed, ite_self, implies_true, fixed_modRect, fixed_raise]
    | refine (fixed_each _ _ (fun a s => ?_) _).trans ?_
    | split)

theorem fixed_rectRead (n st iout pin : Nat) (s : State) : (rectRead n st iout pin s).fixed = s.fixed := by
  unfold rectRead
  repeat' (first
    | with_reducible rfl
    | simp only [fixed_mk, fixed_fold, ite_fixed, ite_self, implies_true, fixed_modRect, fixed_rectOff]
    | refine (fixed_each _ _ (fun a s => ?_) _).trans ?_
    | split)

theorem fixed_rectFail (n : Nat) (s : State) : (rectFail n s).fixed = s.fixed := by
  unfold rectFail
  repeat' (first
    | with_reducible rfl
    | simp only [fixed_mk, fixed_fold, ite_fixed, ite_self, implies_true, fixed_modRect, fixed_rectOff]
    | refine (fixed_each _ _ (fun a s => ?_) _).trans ?_
    | split)

theorem fixed_rectRound (holds : Bool) (count : Nat) (sum : Int) (n : Nat) (s : State) : (rectRound holds count sum n
    s).fixed = s.fixed := by
  unfold rectRound
  repeat' (first
    | with_reducible rfl
    | simp only [fixed_mk, fixed_fold, ite_fixed, ite_self, implies_true, fixed_modRect, fixed_raise]
    | refine (fixed_each _ _ (fun a s => ?_) _).trans ?_
    | split)

theorem fixed_applyTrim (n : Nat) (s : State) : (applyTrim n s).fixed = s.fixed := by
  unfold applyTrim
  repeat' (first
    | with_reducible rfl
    | simp only [fixed_mk, fixed_fold, ite_fixed, ite_self, implies_true, fixed_modRect, fixed_pmbPush]
    | refine (fixed_each _ _ (fun a s => ?_) _).trans ?_
    | split)

theorem fixed_startRound (s : State) : (startRound s).fixed = s.fixed := by
  unfold startRound
  repeat' (first
    | with_reducible rfl
    | simp only [fixed_mk, fixed_fold, ite_fixed, ite_self, implies_true, fixed_modRect, fixed_each, fixed_pmbPush]
    | refine (fixed_each _ _ (fun a s => ?_) _).trans ?_
    | split)

theorem fixed_sharingTask (s : State) : (sharingTask s).fixed = s.fixed := by
  unfold sharingTask
  repeat' (first
    | with_reducible rfl
    | simp only [fixed_mk, fixed_fold, ite_fixed, ite_self, implies_true, fixed_drawFree, fixed_each, fixed_rectRound,
        fixed_startRound]
    | refine (fixed_each _ _ (fun a s => ?_) _).trans ?_
    | split)

theorem fixed_bindEvent (grail k : Nat) (fail : Bool) (s : State) : (bindEvent grail k fail s).fixed = s.fixed := by
  unfold bindEvent
  repeat' (first
    | with_reducible rfl
    | simp only [fixed_mk, fixed_fold, ite_fixed, ite_self, implies_true, fixed_raise]
    | refine (fixed_each _ _ (fun a s => ?_) _).trans ?_
    | split)

theorem fixed_polDone (k : Nat) (ok : Bool) (s : State) : (polDone k ok s).fixed = s.fixed := by
  unfold polDone
  repeat' (first
    | with_reducible rfl
    | simp only [fixed_mk, fixed_fold, ite_fixed, ite_self, implies_true, fixed_bindEvent]
    | refine (fixed_each _ _ (fun a s => ?_) _).trans ?_
    | split)

theorem fixed_battRead (st run : Nat) (s : State) : (battRead st run s).fixed = s.fixed := by
  unfold battRead
  repeat' (first
    | with_reducible rfl
    | simp only [fixed_mk, fixed_fold, ite_fixed, ite_self, implies_true, fixed_battJudge]
    | refine (fixed_each _ _ (fun a s => ?_) _).trans ?_
    | split)

theorem fixed_pmbEnd (j : PmbJob) (ok : Bool) (s : State) : (pmbEnd j ok s).fixed = s.fixed := by
  unfold pmbEnd
  repeat' (first
    | with_reducible rfl
    | simp only [fixed_mk, fixed_fold, ite_fixed, ite_self, implies_true, fixed_modRail, fixed_modRect, fixed_modWatch,
        fixed_battRead, fixed_bindEvent, fixed_itemDone, fixed_marginBusDone, fixed_polDone, fixed_rectFail,
        fixed_rectRead]
    | refine (fixed_each _ _ (fun a s => ?_) _).trans ?_
    | split)

theorem fixed_pmbDone (m : Nat) (ans : PmbAns) (s : State) : (pmbDone m ans s).fixed = s.fixed := by
  unfold pmbDone
  repeat' (first
    | with_reducible rfl
    | simp only [fixed_mk, fixed_fold, ite_fixed, ite_self, implies_true, fixed_pmbEnd]
    | refine (fixed_each _ _ (fun a s => ?_) _).trans ?_
    | split)

theorem fixed_pmbService (s : State) : (pmbService s).fixed = s.fixed := by
  unfold pmbService
  repeat' (first
    | with_reducible rfl
    | simp only [fixed_mk, fixed_fold, ite_fixed, ite_self, implies_true, fixed_each, fixed_emit]
    | refine (fixed_each _ _ (fun a s => ?_) _).trans ?_
    | split)

theorem fixed_voutModes (s : State) : (voutModes s).fixed = s.fixed := by
  unfold voutModes
  repeat' (first
    | with_reducible rfl
    | simp only [fixed_mk, fixed_fold, ite_fixed, ite_self, implies_true, fixed_each, fixed_pmbPush]
    | refine (fixed_each _ _ (fun a s => ?_) _).trans ?_
    | split)

theorem fixed_onRail (i : Nat) (f : State → State) (s : State) (hf : ∀ s, (f s).fixed = s.fixed) : (onRail i f s).fixed =
    s.fixed := by
  unfold onRail
  repeat' (first
    | with_reducible rfl
    | simp only [fixed_mk, fixed_fold, ite_fixed, ite_self, implies_true, hf]
    | refine (fixed_each _ _ (fun a s => ?_) _).trans ?_
    | split)

theorem fixed_vioRiseNow (b : Nat) (s : State) : (vioRiseNow b s).fixed = s.fixed := by
  unfold vioRiseNow
  repeat' (first
    | with_reducible rfl
    | simp only [fixed_mk, fixed_fold, ite_fixed, ite_self, implies_true, fixed_modBank, fixed_vioRise]
    | refine (fixed_each _ _ (fun a s => ?_) _).trans ?_
    | split)

theorem fixed_vioFallNow (b : Nat) (s : State) : (vioFallNow b s).fixed = s.fixed := by
  unfold vioFallNow
  repeat' (first
    | with_reducible rfl
    | simp only [fixed_mk, fixed_fold, ite_fixed, ite_self, implies_true, fixed_reactNow, fixed_vioFall]
    | refine (fixed_each _ _ (fun a s => ?_) _).trans ?_
    | split)

theorem fixed_pgGood (i : Nat) (s : State) : (pgGood i s).fixed = s.fixed := by
  unfold pgGood
  repeat' (first
    | with_reducible rfl
    | simp only [fixed_mk, fixed_fold, ite_fixed, ite_self, implies_true, fixed_modRail, fixed_setRState]
    | refine (fixed_each _ _ (fun a s => ?_) _).trans ?_
    | split)

theorem fixed_pgLostNow (i : Nat) (s : State) : (pgLostNow i s).fixed = s.fixed := by
  unfold pgLostNow
  repeat' (first
    | with_reducible rfl
    | simp only [fixed_mk, fixed_fold, ite_fixed, ite_self, implies_true, fixed_modRail, fixed_judgePg, fixed_reactNow]
    | refine (fixed_each _ _ (fun a s => ?_) _).trans ?_
    | split)

theorem fixed_pgLateNow (i : Nat) (s : State) : (pgLateNow i s).fixed = s.fixed := by
  unfold pgLateNow
  repeat' (first
    | with_reducible rfl
    | simp only [fixed_mk, fixed_fold, ite_fixed, ite_self, implies_true, fixed_modRail, fixed_judgeLate,
        fixed_reactNow]
    | refine (fixed_each _ _ (fun a s => ?_) _).trans ?_
    | split)

theorem fixed_enShortNow (i : Nat) (hi ilim : Bool) (s : State) : (enShortNow i hi ilim s).fixed = s.fixed := by
  unfold enShortNow
  repeat' (first
    | with_reducible rfl
    | simp only [fixed_mk, fixed_fold, ite_fixed, ite_self, implies_true, fixed_modRail, fixed_detect, fixed_reactNow]
    | refine (fixed_each _ _ (fun a s => ?_) _).trans ?_
    | split)

theorem fixed_enOpenNow (i : Nat) (s : State) : (enOpenNow i s).fixed = s.fixed := by
  unfold enOpenNow
  repeat' (first
    | with_reducible rfl
    | simp only [fixed_mk, fixed_fold, ite_fixed, ite_self, implies_true, fixed_modRail, fixed_detect, fixed_reactNow]
    | refine (fixed_each _ _ (fun a s => ?_) _).trans ?_
    | split)

theorem fixed_assistNow (i : Nat) (s : State) : (assistNow i s).fixed = s.fixed := by
  unfold assistNow
  repeat' (first
    | with_reducible rfl
    | simp only [fixed_mk, fixed_fold, ite_fixed, ite_self, implies_true, fixed_modRail]
    | refine (fixed_each _ _ (fun a s => ?_) _).trans ?_
    | split)

theorem fixed_assistResultNow (i : Nat) (ilim : Bool) (s : State) : (assistResultNow i ilim s).fixed = s.fixed := by
  unfold assistResultNow
  repeat' (first
    | with_reducible rfl
    | simp only [fixed_mk, fixed_fold, ite_fixed, ite_self, implies_true, fixed_assistResult, fixed_reactNow]
    | refine (fixed_each _ _ (fun a s => ?_) _).trans ?_
    | split)

theorem fixed_pgOpenTestNow (i : Nat) (level : Bool) (s : State) : (pgOpenTestNow i level s).fixed = s.fixed := by
  unfold pgOpenTestNow
  repeat' (first
    | with_reducible rfl
    | simp only [fixed_mk, fixed_fold, ite_fixed, ite_self, implies_true, fixed_modRail, fixed_owCount, fixed_reactNow]
    | refine (fixed_each _ _ (fun a s => ?_) _).trans ?_
    | split)

theorem fixed_pgStuckNow (i : Nat) (s : State) : (pgStuckNow i s).fixed = s.fixed := by
  unfold pgStuckNow
  repeat' (first
    | with_reducible rfl
    | simp only [fixed_mk, fixed_fold, ite_fixed, ite_self, implies_true, fixed_modRail, fixed_detect, fixed_reactNow]
    | refine (fixed_each _ _ (fun a s => ?_) _).trans ?_
    | split)

theorem fixed_foldNow (i : Nat) (s : State) : (foldNow i s).fixed = s.fixed := by
  unfold foldNow
  repeat' (first
    | with_reducible rfl
    | simp only [fixed_mk, fixed_fold, ite_fixed, ite_self, implies_true, fixed_foldBack]
    | refine (fixed_each _ _ (fun a s => ?_) _).trans ?_
    | split)

theorem fixed_minOffNow (i : Nat) (s : State) : (minOffNow i s).fixed = s.fixed := by
  unfold minOffNow
  repeat' (first
    | with_reducible rfl
    | simp only [fixed_mk, fixed_fold, ite_fixed, ite_self, implies_true, fixed_modRail]
    | refine (fixed_each _ _ (fun a s => ?_) _).trans ?_
    | split)

theorem fixed_edgeLatch (i cyc : Nat) (s : State) : (edgeLatch i cyc s).fixed = s.fixed := by
  unfold edgeLatch
  repeat' (first
    | with_reducible rfl
    | simp only [fixed_mk, fixed_fold, ite_fixed, ite_self, implies_true, fixed_modRail]
    | refine (fixed_each _ _ (fun a s => ?_) _).trans ?_
    | split)

theorem fixed_settleNow (i : Nat) (s : State) : (settleNow i s).fixed = s.fixed := by
  unfold settleNow
  repeat' (first
    | with_reducible rfl
    | simp only [fixed_mk, fixed_fold, ite_fixed, ite_self, implies_true, fixed_marginPut]
    | refine (fixed_each _ _ (fun a s => ?_) _).trans ?_
    | split)

theorem fixed_verifyNow (i : Nat) (s : State) : (verifyNow i s).fixed = s.fixed := by
  unfold verifyNow
  repeat' (first
    | with_reducible rfl
    | simp only [fixed_mk, fixed_fold, ite_fixed, ite_self, implies_true, fixed_marginJudge]
    | refine (fixed_each _ _ (fun a s => ?_) _).trans ?_
    | split)

theorem fixed_judged (f : State → State) (s : State) (hf : ∀ s, (f s).fixed = s.fixed) : (judged f s).fixed = s.fixed := by
  unfold judged
  repeat' (first
    | with_reducible rfl
    | simp only [fixed_mk, fixed_fold, ite_fixed, ite_self, implies_true, fixed_judgeDomain, fixed_progsTell,
        fixed_sysrstUp, hf]
    | refine (fixed_each _ _ (fun a s => ?_) _).trans ?_
    | split)

theorem fixed_delayNow (n : Nat) (s : State) : (delayNow n s).fixed = s.fixed := by
  unfold delayNow
  repeat' (first
    | with_reducible rfl
    | simp only [fixed_mk, fixed_fold, ite_fixed, ite_self, implies_true, fixed_modItem, fixed_runStep]
    | refine (fixed_each _ _ (fun a s => ?_) _).trans ?_
    | split)

theorem fixed_deadlineNow (n : Nat) (s : State) : (deadlineNow n s).fixed = s.fixed := by
  unfold deadlineNow
  repeat' (first
    | with_reducible rfl
    | simp only [fixed_mk, fixed_fold, ite_fixed, ite_self, implies_true, fixed_modProg, fixed_runProg]
    | refine (fixed_each _ _ (fun a s => ?_) _).trans ?_
    | split)

theorem fixed_limitNow (s : State) : (limitNow s).fixed = s.fixed := by
  unfold limitNow
  repeat' (first
    | with_reducible rfl
    | simp only [fixed_mk, fixed_fold, ite_fixed, ite_self, implies_true, fixed_limitExpire]
    | refine (fixed_each _ _ (fun a s => ?_) _).trans ?_
    | split)

theorem fixed_pauseNow (s : State) : (pauseNow s).fixed = s.fixed := by
  unfold pauseNow
  repeat' (first
    | with_reducible rfl
    | simp only [fixed_mk, fixed_fold, ite_fixed, ite_self, implies_true, fixed_offWalk]
    | refine (fixed_each _ _ (fun a s => ?_) _).trans ?_
    | split)

theorem fixed_dischNow (i : Nat) (s : State) : (dischNow i s).fixed = s.fixed := by
  unfold dischNow
  repeat' (first
    | with_reducible rfl
    | simp only [fixed_mk, fixed_fold, ite_fixed, ite_self, implies_true, fixed_modRail]
    | refine (fixed_each _ _ (fun a s => ?_) _).trans ?_
    | split)

theorem fixed_heldNow (s : State) : (heldNow s).fixed = s.fixed := by
  unfold heldNow
  repeat' (first
    | with_reducible rfl
    | simp only [fixed_mk, fixed_fold, ite_fixed, ite_self, implies_true, fixed_launchOnSet]
    | refine (fixed_each _ _ (fun a s => ?_) _).trans ?_
    | split)

theorem fixed_backoffNow (i : Nat) (s : State) : (backoffNow i s).fixed = s.fixed := by
  unfold backoffNow
  repeat' (first
    | with_reducible rfl
    | simp only [fixed_mk, fixed_fold, ite_fixed, ite_self, implies_true, fixed_modRail, fixed_backoffEnd]
    | refine (fixed_each _ _ (fun a s => ?_) _).trans ?_
    | split)

theorem fixed_healNow (i : Nat) (s : State) : (healNow i s).fixed = s.fixed := by
  unfold healNow
  repeat' (first
    | with_reducible rfl
    | simp only [fixed_mk, fixed_fold, ite_fixed, ite_self, implies_true, fixed_modRail]
    | refine (fixed_each _ _ (fun a s => ?_) _).trans ?_
    | split)

theorem fixed_groupNow (n : Nat) (s : State) : (groupNow n s).fixed = s.fixed := by
  unfold groupNow
  repeat' (first
    | with_reducible rfl
    | simp only [fixed_mk, fixed_fold, ite_fixed, ite_self, implies_true, fixed_modGrp, fixed_groupPolicy,
        fixed_groupRestartDue]
    | refine (fixed_each _ _ (fun a s => ?_) _).trans ?_
    | split)

theorem fixed_restartNow (s : State) : (restartNow s).fixed = s.fixed := by
  unfold restartNow
  repeat' (first
    | with_reducible rfl
    | simp only [fixed_mk, fixed_fold, ite_fixed, ite_self, implies_true, fixed_restartDue]
    | refine (fixed_each _ _ (fun a s => ?_) _).trans ?_
    | split)

theorem fixed_windowNow (s : State) : (windowNow s).fixed = s.fixed := by
  unfold windowNow
  repeat' (first
    | with_reducible rfl
    | simp only [fixed_mk, fixed_fold, ite_fixed, ite_self, implies_true, fixed_windowDue]
    | refine (fixed_each _ _ (fun a s => ?_) _).trans ?_
    | split)

theorem fixed_rstNow (s : State) : (rstNow s).fixed = s.fixed := by
  unfold rstNow
  repeat' (first
    | with_reducible rfl
    | simp only [fixed_mk, fixed_fold, ite_fixed, ite_self, implies_true, fixed_sysrstDue]
    | refine (fixed_each _ _ (fun a s => ?_) _).trans ?_
    | split)

theorem fixed_graceNow (s : State) : (graceNow s).fixed = s.fixed := by
  unfold graceNow
  repeat' (first
    | with_reducible rfl
    | simp only [fixed_mk, fixed_fold, ite_fixed, ite_self, implies_true, fixed_releaseAll]
    | refine (fixed_each _ _ (fun a s => ?_) _).trans ?_
    | split)

theorem fixed_onStage (st : Nat) (f : State → State) (s : State) (hf : ∀ s, (f s).fixed = s.fixed) : (onStage st f s).fixed
    = s.fixed := by
  unfold onStage
  repeat' (first
    | with_reducible rfl
    | simp only [fixed_mk, fixed_fold, ite_fixed, ite_self, implies_true, hf]
    | refine (fixed_each _ _ (fun a s => ?_) _).trans ?_
    | split)

theorem fixed_regulateNow (st : Nat) (s : State) : (regulateNow st s).fixed = s.fixed := by
  unfold regulateNow
  repeat' (first
    | with_reducible rfl
    | simp only [fixed_mk, fixed_fold, ite_fixed, ite_self, implies_true, fixed_modStg, fixed_stageTell]
    | refine (fixed_each _ _ (fun a s => ?_) _).trans ?_
    | split)

theorem fixed_kindleTimeout (st : Nat) (s : State) : (kindleTimeout st s).fixed = s.fixed := by
  unfold kindleTimeout
  repeat' (first
    | with_reducible rfl
    | simp only [fixed_mk, fixed_fold, ite_fixed, ite_self, implies_true, fixed_modStg, fixed_reactIn, fixed_stageFault]
    | refine (fixed_each _ _ (fun a s => ?_) _).trans ?_
    | split)

theorem fixed_hiccupNow (st : Nat) (s : State) : (hiccupNow st s).fixed = s.fixed := by
  unfold hiccupNow
  repeat' (first
    | with_reducible rfl
    | simp only [fixed_mk, fixed_fold, ite_fixed, ite_self, implies_true, fixed_modStg, fixed_hiccupStep,
        fixed_reactIn, fixed_stageFaults]
    | refine (fixed_each _ _ (fun a s => ?_) _).trans ?_
    | split)

theorem fixed_hiccupOver (st : Nat) (s : State) : (hiccupOver st s).fixed = s.fixed := by
  unfold hiccupOver
  repeat' (first
    | with_reducible rfl
    | simp only [fixed_mk, fixed_fold, ite_fixed, ite_self, implies_true, fixed_modStg, fixed_hiccupEnd]
    | refine (fixed_each _ _ (fun a s => ?_) _).trans ?_
    | split)

theorem fixed_hicHeal (st : Nat) (s : State) : (hicHeal st s).fixed = s.fixed := by
  unfold hicHeal
  repeat' (first
    | with_reducible rfl
    | simp only [fixed_mk, fixed_fold, ite_fixed, ite_self, implies_true, fixed_modStg]
    | refine (fixed_each _ _ (fun a s => ?_) _).trans ?_
    | split)

theorem fixed_monitorFault (st cause : Nat) (s : State) : (monitorFault st cause s).fixed = s.fixed := by
  unfold monitorFault
  repeat' (first
    | with_reducible rfl
    | simp only [fixed_mk, fixed_fold, ite_fixed, ite_self, implies_true, fixed_reactIn, fixed_stageFaults,
        fixed_stgFound]
    | refine (fixed_each _ _ (fun a s => ?_) _).trans ?_
    | split)

theorem fixed_senseOpenNow (st : Nat) (legs : List Int) (s : State) : (senseOpenNow st legs s).fixed = s.fixed := by
  unfold senseOpenNow
  repeat' (first
    | with_reducible rfl
    | simp only [fixed_mk, fixed_fold, ite_fixed, ite_self, implies_true, fixed_modStg, fixed_monitorFault]
    | refine (fixed_each _ _ (fun a s => ?_) _).trans ?_
    | split)

theorem fixed_frozenNow (st : Nat) (s : State) : (frozenNow st s).fixed = s.fixed := by
  unfold frozenNow
  repeat' (first
    | with_reducible rfl
    | simp only [fixed_mk, fixed_fold, ite_fixed, ite_self, implies_true, fixed_monitorFault]
    | refine (fixed_each _ _ (fun a s => ?_) _).trans ?_
    | split)

theorem fixed_nofbNow (st : Nat) (s : State) : (nofbNow st s).fixed = s.fixed := by
  unfold nofbNow
  repeat' (first
    | with_reducible rfl
    | simp only [fixed_mk, fixed_fold, ite_fixed, ite_self, implies_true, fixed_modStg, fixed_monitorFault]
    | refine (fixed_each _ _ (fun a s => ?_) _).trans ?_
    | split)

theorem fixed_ovNow (st : Nat) (s : State) : (ovNow st s).fixed = s.fixed := by
  unfold ovNow
  repeat' (first
    | with_reducible rfl
    | simp only [fixed_mk, fixed_fold, ite_fixed, ite_self, implies_true, fixed_monitorFault]
    | refine (fixed_each _ _ (fun a s => ?_) _).trans ?_
    | split)

theorem fixed_uvNow (st : Nat) (s : State) : (uvNow st s).fixed = s.fixed := by
  unfold uvNow
  repeat' (first
    | with_reducible rfl
    | simp only [fixed_mk, fixed_fold, ite_fixed, ite_self, implies_true, fixed_monitorFault]
    | refine (fixed_each _ _ (fun a s => ?_) _).trans ?_
    | split)

theorem fixed_floorNow (st : Nat) (s : State) : (floorNow st s).fixed = s.fixed := by
  unfold floorNow
  repeat' (first
    | with_reducible rfl
    | simp only [fixed_mk, fixed_fold, ite_fixed, ite_self, implies_true, fixed_modStg, fixed_stgEvent]
    | refine (fixed_each _ _ (fun a s => ?_) _).trans ?_
    | split)

theorem fixed_stageBackoffNow (st : Nat) (s : State) : (stageBackoffNow st s).fixed = s.fixed := by
  unfold stageBackoffNow
  repeat' (first
    | with_reducible rfl
    | simp only [fixed_mk, fixed_fold, ite_fixed, ite_self, implies_true, fixed_modStg, fixed_stageBackoffEnd]
    | refine (fixed_each _ _ (fun a s => ?_) _).trans ?_
    | split)

theorem fixed_retryHeal (st : Nat) (s : State) : (retryHeal st s).fixed = s.fixed := by
  unfold retryHeal
  repeat' (first
    | with_reducible rfl
    | simp only [fixed_mk, fixed_fold, ite_fixed, ite_self, implies_true, fixed_modStg]
    | refine (fixed_each _ _ (fun a s => ?_) _).trans ?_
    | split)

theorem fixed_edgeCore (n cyc c : Nat) (s : State) : (edgeCore n cyc c s).fixed = s.fixed := by
  unfold edgeCore
  repeat' (first
    | with_reducible rfl
    | simp only [fixed_mk, fixed_fold, ite_fixed, ite_self, implies_true, fixed_modCore, fixed_raise, fixed_startSeq]
    | refine (fixed_each _ _ (fun a s => ?_) _).trans ?_
    | split)

theorem fixed_trgEdge (n : Nat) (rising : Bool) (cyc : Nat) (s : State) : (trgEdge n rising cyc s).fixed = s.fixed := by
  unfold trgEdge
  repeat' (first
    | with_reducible rfl
    | simp only [fixed_mk, fixed_fold, ite_fixed, ite_self, implies_true, fixed_each, fixed_edgeCore, fixed_fireUrgent]
    | refine (fixed_each _ _ (fun a s => ?_) _).trans ?_
    | split)

theorem fixed_stageResult (t : TelRes) (s : State) : (stageResult t s).fixed = s.fixed := by
  unfold stageResult
  repeat' (first
    | with_reducible rfl
    | simp only [fixed_mk, fixed_fold, ite_fixed, ite_self, implies_true, fixed_modEnt, fixed_raise]
    | refine (fixed_each _ _ (fun a s => ?_) _).trans ?_
    | split)

theorem fixed_postProcess (s : State) : (postProcess s).fixed = s.fixed := by
  unfold postProcess
  repeat' (first
    | with_reducible rfl
    | simp only [fixed_mk, fixed_fold, ite_fixed, ite_self, implies_true, fixed_each, fixed_stageResult]
    | refine (fixed_each _ _ (fun a s => ?_) _).trans ?_
    | split)

theorem fixed_ringPut (r : Nat) (vec : Option Nat) (v : BitVec 256) (s : State) : (ringPut r vec v s).fixed = s.fixed := by
  unfold ringPut
  repeat' (first
    | with_reducible rfl
    | simp only [fixed_mk, fixed_fold, ite_fixed, ite_self, implies_true, fixed_modRing, fixed_emit]
    | refine (fixed_each _ _ (fun a s => ?_) _).trans ?_
    | split)

theorem fixed_telPost (n : Nat) (s : State) : (telPost n s).2.fixed = s.fixed := by
  induction n generalizing s with
  | zero => rfl
  | succ n ih =>
    unfold telPost
    repeat' (first
      | with_reducible rfl
      | simp only [fixed_mk, fixed_fold, ite_fixed, ite_self, implies_true, ih, fixed_ringPut]
      | refine (fixed_each _ _ (fun a s => ?_) _).trans ?_
      | split)

theorem fixed_emberTask (s : State) : (emberTask s).fixed = s.fixed := by
  unfold emberTask
  repeat' (first
    | with_reducible rfl
    | simp only [fixed_mk, fixed_fold, ite_fixed, ite_self, implies_true, fixed_each, fixed_wcWritten]
    | refine (fixed_each _ _ (fun a s => ?_) _).trans ?_
    | split)

theorem fixed_convEnd (c j : Nat) (r : Int) (clamp : Bool) (s : State) : (convEnd c j r clamp s).fixed = s.fixed := by
  unfold convEnd
  repeat' (first
    | with_reducible rfl
    | simp only [fixed_mk, fixed_fold, ite_fixed, ite_self, implies_true, fixed_slotEnd, fixed_urgentEnd]
    | refine (fixed_each _ _ (fun a s => ?_) _).trans ?_
    | split)

theorem fixed_plausNow (p : Nat) (s : State) : (plausNow p s).fixed = s.fixed := by
  unfold plausNow
  repeat' (first
    | with_reducible rfl
    | simp only [fixed_mk, fixed_fold, ite_fixed, ite_self, implies_true, fixed_modPpair, fixed_plausRestore]
    | refine (fixed_each _ _ (fun a s => ?_) _).trans ?_
    | split)

theorem fixed_dropNow (c e : Nat) (s : State) : (dropNow c e s).fixed = s.fixed := by
  unfold dropNow
  repeat' (first
    | with_reducible rfl
    | simp only [fixed_mk, fixed_fold, ite_fixed, ite_self, implies_true, fixed_dropConv]
    | refine (fixed_each _ _ (fun a s => ?_) _).trans ?_
    | split)

theorem fixed_refSetNow (p : Nat) (s : State) : (refSetNow p s).fixed = s.fixed := by
  unfold refSetNow
  repeat' (first
    | with_reducible rfl
    | simp only [fixed_mk, fixed_fold, ite_fixed, ite_self, implies_true, fixed_modRefm, fixed_refSet]
    | refine (fixed_each _ _ (fun a s => ?_) _).trans ?_
    | split)

theorem fixed_refTimeout (p : Nat) (s : State) : (refTimeout p s).fixed = s.fixed := by
  unfold refTimeout
  repeat' (first
    | with_reducible rfl
    | simp only [fixed_mk, fixed_fold, ite_fixed, ite_self, implies_true, fixed_modRefm, fixed_refFault]
    | refine (fixed_each _ _ (fun a s => ?_) _).trans ?_
    | split)

theorem fixed_refFallNow (p : Nat) (s : State) : (refFallNow p s).fixed = s.fixed := by
  unfold refFallNow
  repeat' (first
    | with_reducible rfl
    | simp only [fixed_mk, fixed_fold, ite_fixed, ite_self, implies_true, fixed_refFall]
    | refine (fixed_each _ _ (fun a s => ?_) _).trans ?_
    | split)

theorem fixed_engineFires (l : List (Nat × Nat × Nat)) (s : State) : (engineFires l s).fixed = s.fixed := by
  unfold engineFires
  repeat' (first
    | with_reducible rfl
    | simp only [fixed_mk, fixed_fold, ite_fixed, ite_self, implies_true, fixed_each, fixed_fireUrgent]
    | refine (fixed_each _ _ (fun a s => ?_) _).trans ?_
    | split)

end Sys2Proof.Machine
end

