-- ==== Sys2Proof/Laws/KeptLink.lean ====
section
/-! SUPPORT. Laws/KeptLink.lean: the same for the link:
none touches the queue of commands, the frame counter, or the words of BAR0 that read back or are in force. One lemma
for each operation, cited in place of unfolding it. -/

set_option linter.all false
set_option linter.unusedSimpArgs false
set_option linter.unreachableTactic false
set_option linter.unusedTactic false

namespace Sys2Proof.Machine

theorem fixed_refuse (p code : Nat) (s : State) : (refuse p code s).fixed = s.fixed := by
  unfold refuse
  repeat' (first
    | with_reducible rfl
    | simp only [fixed_mk, fixed_fold, ite_fixed, ite_self, implies_true, fixed_raise]
    | refine (fixed_each _ _ (fun a s => ?_) _).trans ?_
    | split)

theorem fixed_groupStep (s : State) : (groupStep s).fixed = s.fixed := by
  unfold groupStep
  repeat' (first
    | with_reducible rfl
    | simp only [fixed_mk, fixed_fold, ite_fixed, ite_self, implies_true]
    | refine (fixed_each _ _ (fun a s => ?_) _).trans ?_
    | split)

theorem fixed_portSeek (p : Nat) (s : State) : (portSeek p s).fixed = s.fixed := by
  unfold portSeek
  repeat' (first
    | with_reducible rfl
    | simp only [fixed_mk, fixed_fold, ite_fixed, ite_self, implies_true, fixed_modPort]
    | refine (fixed_each _ _ (fun a s => ?_) _).trans ?_
    | split)

theorem fixed_portLock (p : Nat) (inv : Bool) (s : State) : (portLock p inv s).fixed = s.fixed := by
  unfold portLock
  repeat' (first
    | with_reducible rfl
    | simp only [fixed_mk, fixed_fold, ite_fixed, ite_self, implies_true, fixed_modPort]
    | refine (fixed_each _ _ (fun a s => ?_) _).trans ?_
    | split)

theorem fixed_portIdent (p : Nat) (s : State) : (portIdent p s).fixed = s.fixed := by
  unfold portIdent
  repeat' (first
    | with_reducible rfl
    | simp only [fixed_mk, fixed_fold, ite_fixed, ite_self, implies_true, fixed_modPort, fixed_groupStep]
    | refine (fixed_each _ _ (fun a s => ?_) _).trans ?_
    | split)

theorem fixed_portRetrain (p : Nat) (s : State) : (portRetrain p s).fixed = s.fixed := by
  unfold portRetrain
  repeat' (first
    | with_reducible rfl
    | simp only [fixed_mk, fixed_fold, ite_fixed, ite_self, implies_true, fixed_modPort, fixed_groupStep, fixed_raise]
    | refine (fixed_each _ _ (fun a s => ?_) _).trans ?_
    | split)

theorem fixed_joinDone (s : State) : (joinDone s).fixed = s.fixed := by
  unfold joinDone
  repeat' (first
    | with_reducible rfl
    | simp only [fixed_mk, fixed_fold, ite_fixed, ite_self, implies_true, fixed_onRequestNow]
    | refine (fixed_each _ _ (fun a s => ?_) _).trans ?_
    | split)

theorem fixed_holdStages (s : State) : (holdStages s).fixed = s.fixed := by
  unfold holdStages
  repeat' (first
    | with_reducible rfl
    | simp only [fixed_mk, fixed_fold, ite_fixed, ite_self, implies_true, fixed_each, fixed_stageHalt]
    | refine (fixed_each _ _ (fun a s => ?_) _).trans ?_
    | split)

theorem fixed_takeRole (r : Nat) (s : State) : (takeRole r s).fixed = s.fixed := by
  unfold takeRole
  repeat' (first
    | with_reducible rfl
    | simp only [fixed_mk, fixed_fold, ite_fixed, ite_self, implies_true, fixed_holdStages, fixed_joinDone]
    | refine (fixed_each _ _ (fun a s => ?_) _).trans ?_
    | split)

theorem fixed_portUp (p peer role rtt delay : Nat) (sameRow active join : Bool) (s : State) : (portUp p peer role rtt delay
    sameRow active join s).fixed = s.fixed := by
  unfold portUp
  repeat' (first
    | with_reducible rfl
    | simp only [fixed_mk, fixed_fold, ite_fixed, ite_self, implies_true, fixed_modPort, fixed_groupStep, fixed_raise,
        fixed_refuse, fixed_takeRole]
    | refine (fixed_each _ _ (fun a s => ?_) _).trans ?_
    | split)

theorem fixed_receive (f : LFrame) (k : State → State) (s : State) (hk : ∀ s, (k s).fixed = s.fixed) : (receive f k s).fixed
    = s.fixed := by
  unfold receive
  repeat' (first
    | with_reducible rfl
    | simp only [fixed_mk, fixed_fold, ite_fixed, ite_self, implies_true, fixed_modPort, fixed_portRetrain,
        fixed_wcWritten, fixed_wordErr, hk]
    | refine (fixed_each _ _ (fun a s => ?_) _).trans ?_
    | split)

theorem fixed_emitFrame (p : Nat) (f : LinkTx) (s : State) : (emitFrame p f s).fixed = s.fixed := by
  unfold emitFrame
  repeat' (first
    | with_reducible rfl
    | simp only [fixed_mk, fixed_fold, ite_fixed, ite_self, implies_true, fixed_emit]
    | refine (fixed_each _ _ (fun a s => ?_) _).trans ?_
    | split)

theorem fixed_sendNow (p kind : Nat) (dst : Option Nat) (v : Nat) (s : State) : (sendNow p kind dst v s).fixed = s.fixed :=
    by
  unfold sendNow
  repeat' (first
    | with_reducible rfl
    | simp only [fixed_mk, fixed_fold, ite_fixed, ite_self, implies_true, fixed_emitFrame, fixed_linkFrameOf]
    | refine (fixed_each _ _ (fun a s => ?_) _).trans ?_
    | split)

theorem fixed_sendFrame (p kind : Nat) (dst : Option Nat) (v : Nat) (s : State) : (sendFrame p kind dst v s).fixed = s.fixed
    := by
  unfold sendFrame
  repeat' (first
    | with_reducible rfl
    | simp only [fixed_mk, fixed_fold, ite_fixed, ite_self, implies_true, fixed_linkFrameOf, fixed_queueFrame]
    | refine (fixed_each _ _ (fun a s => ?_) _).trans ?_
    | split)

theorem fixed_sendOn (l : List Nat) (f : LinkTx) (s : State) : (sendOn l f s).fixed = s.fixed := by
  unfold sendOn
  repeat' (first
    | with_reducible rfl
    | simp only [fixed_mk, fixed_fold, ite_fixed, ite_self, implies_true, fixed_each, fixed_queueFrame,
        fixed_urgentFrame]
    | refine (fixed_each _ _ (fun a s => ?_) _).trans ?_
    | split)

theorem fixed_sendRow (kind : Nat) (dst : Option Nat) (v : Nat) (s : State) : (sendRow kind dst v s).fixed = s.fixed := by
  unfold sendRow
  repeat' (first
    | with_reducible rfl
    | simp only [fixed_mk, fixed_fold, ite_fixed, ite_self, implies_true, fixed_linkFrameOf, fixed_sendFrame,
        fixed_sendOn]
    | refine (fixed_each _ _ (fun a s => ?_) _).trans ?_
    | split)

theorem fixed_forwardRow (kind : Nat) (f : LFrame) (s : State) : (forwardRow kind f s).fixed = s.fixed := by
  unfold forwardRow
  repeat' (first
    | with_reducible rfl
    | simp only [fixed_mk, fixed_fold, ite_fixed, ite_self, implies_true, fixed_sendOn]
    | refine (fixed_each _ _ (fun a s => ?_) _).trans ?_
    | split)

theorem fixed_once (kind : Nat) (f : LFrame) (k : State → State) (s : State) (hk : ∀ s, (k s).fixed = s.fixed) : (once kind
    f k s).fixed = s.fixed := by
  unfold once
  repeat' (first
    | with_reducible rfl
    | simp only [fixed_mk, fixed_fold, ite_fixed, ite_self, implies_true, fixed_forwardRow, hk]
    | refine (fixed_each _ _ (fun a s => ?_) _).trans ?_
    | split)

theorem fixed_fillPort (p : Nat) (s : State) : (fillPort p s).fixed = s.fixed := by
  unfold fillPort
  repeat' (first
    | with_reducible rfl
    | simp only [fixed_mk, fixed_fold, ite_fixed, ite_self, implies_true, fixed_modPort]
    | refine (fixed_each _ _ (fun a s => ?_) _).trans ?_
    | split)

theorem fixed_portSlots (p : Nat) (s : State) : (portSlots p s).fixed = s.fixed := by
  unfold portSlots
  repeat' (first
    | with_reducible rfl
    | simp only [fixed_mk, fixed_fold, ite_fixed, ite_self, implies_true, fixed_modPort, fixed_each, fixed_emitFrame,
        fixed_fillPort]
    | refine (fixed_each _ _ (fun a s => ?_) _).trans ?_
    | split)

theorem fixed_agreeFrame (x : SyncIn) (s : State) : (agreeFrame x s).fixed = s.fixed := by
  unfold agreeFrame
  repeat' (first
    | with_reducible rfl
    | simp only [fixed_mk, fixed_fold, ite_fixed, ite_self, implies_true]
    | refine (fixed_each _ _ (fun a s => ?_) _).trans ?_
    | split)

theorem fixed_syncFrame (x : SyncIn) (s : State) : (syncFrame x s).fixed = s.fixed := by
  unfold syncFrame
  repeat' (first
    | with_reducible rfl
    | simp only [fixed_mk, fixed_fold, ite_fixed, ite_self, implies_true, fixed_modPort, fixed_agreeFrame,
        fixed_groupStep, fixed_receive, fixed_refuse]
    | refine (fixed_each _ _ (fun a s => ?_) _).trans ?_
    | refine (fixed_receive _ _ _ (fun _ => ?_)).trans ?_
    | split)

theorem fixed_slewClock (s : State) : (slewClock s).fixed = s.fixed := by
  unfold slewClock
  repeat' (first
    | with_reducible rfl
    | simp only [fixed_mk, fixed_fold, ite_fixed, ite_self, implies_true]
    | refine (fixed_each _ _ (fun a s => ?_) _).trans ?_
    | split)

theorem fixed_electFrame (f : LFrame) (s : State) : (electFrame f s).fixed = s.fixed := by
  unfold electFrame
  repeat' (first
    | with_reducible rfl
    | simp only [fixed_mk, fixed_fold, ite_fixed, ite_self, implies_true, fixed_forwardRow, fixed_receive,
        fixed_sendFrame]
    | refine (fixed_each _ _ (fun a s => ?_) _).trans ?_
    | refine (fixed_receive _ _ _ (fun _ => ?_)).trans ?_
    | split)

theorem fixed_formCount (s : State) : (formCount s).fixed = s.fixed := by
  unfold formCount
  repeat' (first
    | with_reducible rfl
    | simp only [fixed_mk, fixed_fold, ite_fixed, ite_self, implies_true]
    | refine (fixed_each _ _ (fun a s => ?_) _).trans ?_
    | split)

theorem fixed_electionWin (row : Bool) (s : State) : (electionWin row s).fixed = s.fixed := by
  unfold electionWin
  repeat' (first
    | with_reducible rfl
    | simp only [fixed_mk, fixed_fold, ite_fixed, ite_self, implies_true, fixed_formCount, fixed_sendFrame,
        fixed_sendRow]
    | refine (fixed_each _ _ (fun a s => ?_) _).trans ?_
    | split)

theorem fixed_memberFrame (f : LFrame) (s : State) : (memberFrame f s).fixed = s.fixed := by
  unfold memberFrame
  repeat' (first
    | with_reducible rfl
    | simp only [fixed_mk, fixed_fold, ite_fixed, ite_self, implies_true, fixed_once, fixed_receive]
    | refine (fixed_each _ _ (fun a s => ?_) _).trans ?_
    | refine (fixed_once _ _ _ _ (fun _ => ?_)).trans ?_
    | refine (fixed_receive _ _ _ (fun _ => ?_)).trans ?_
    | split)

theorem fixed_electSend (s : State) : (electSend s).fixed = s.fixed := by
  unfold electSend
  repeat' (first
    | with_reducible rfl
    | simp only [fixed_mk, fixed_fold, ite_fixed, ite_self, implies_true, fixed_sendFrame, fixed_sendRow]
    | refine (fixed_each _ _ (fun a s => ?_) _).trans ?_
    | split)

theorem fixed_rowMasterLoss (s : State) : (rowMasterLoss s).fixed = s.fixed := by
  unfold rowMasterLoss
  repeat' (first
    | with_reducible rfl
    | simp only [fixed_mk, fixed_fold, ite_fixed, ite_self, implies_true, fixed_raise]
    | refine (fixed_each _ _ (fun a s => ?_) _).trans ?_
    | split)

theorem fixed_rowHoldEnd (s : State) : (rowHoldEnd s).fixed = s.fixed := by
  unfold rowHoldEnd
  repeat' (first
    | with_reducible rfl
    | simp only [fixed_mk, fixed_fold, ite_fixed, ite_self, implies_true]
    | refine (fixed_each _ _ (fun a s => ?_) _).trans ?_
    | split)

theorem fixed_statusOff (v : Nat) (s : State) : (statusOff v s).fixed = s.fixed := by
  unfold statusOff
  repeat' (first
    | with_reducible rfl
    | simp only [fixed_mk, fixed_fold, ite_fixed, ite_self, implies_true]
    | refine (fixed_each _ _ (fun a s => ?_) _).trans ?_
    | split)

theorem fixed_memberOff (r : Bool × Nat × Bool) (s : State) : (memberOff r s).fixed = s.fixed := by
  unfold memberOff
  repeat' (first
    | with_reducible rfl
    | simp only [fixed_mk, fixed_fold, ite_fixed, ite_self, implies_true, fixed_groupReaction, fixed_offRelay,
        fixed_offRequest, fixed_sysReaction]
    | refine (fixed_each _ _ (fun a s => ?_) _).trans ?_
    | split)

theorem fixed_viewCommit (g : Nat) (old new : View) (s : State) : (viewCommit g old new s).fixed = s.fixed := by
  unfold viewCommit
  repeat' (first
    | with_reducible rfl
    | simp only [fixed_mk, fixed_fold, ite_fixed, ite_self, implies_true, fixed_commitEnd]
    | refine (fixed_each _ _ (fun a s => ?_) _).trans ?_
    | split)

theorem fixed_statusFrame (f : LFrame) (m : Nat) (s : State) : (statusFrame f m s).fixed = s.fixed := by
  unfold statusFrame
  repeat' (first
    | with_reducible rfl
    | simp only [fixed_mk, fixed_fold, ite_fixed, ite_self, implies_true, fixed_modView, fixed_each, fixed_joinDone,
        fixed_receive, fixed_statusOff, fixed_viewCommit]
    | refine (fixed_each _ _ (fun a s => ?_) _).trans ?_
    | refine (fixed_receive _ _ _ (fun _ => ?_)).trans ?_
    | split)

theorem fixed_cmdFrame (f : LFrame) (s : State) : (cmdFrame f s).fixed = s.fixed := by
  unfold cmdFrame
  repeat' (first
    | with_reducible rfl
    | simp only [fixed_mk, fixed_fold, ite_fixed, ite_self, implies_true, fixed_receive]
    | refine (fixed_each _ _ (fun a s => ?_) _).trans ?_
    | refine (fixed_receive _ _ _ (fun _ => ?_)).trans ?_
    | split)

theorem fixed_memberAssert (c : CmdRec) (r : Nat) (s : State) : (memberAssert c r s).fixed = s.fixed := by
  unfold memberAssert
  repeat' (first
    | with_reducible rfl
    | simp only [fixed_mk, fixed_fold, ite_fixed, ite_self, implies_true, fixed_modRail, fixed_applyRetry,
        fixed_startRail]
    | refine (fixed_each _ _ (fun a s => ?_) _).trans ?_
    | split)

theorem fixed_memberRelease (r : Nat) (s : State) : (memberRelease r s).fixed = s.fixed := by
  unfold memberRelease
  repeat' (first
    | with_reducible rfl
    | simp only [fixed_mk, fixed_fold, ite_fixed, ite_self, implies_true, fixed_cancelRetry, fixed_releaseRail]
    | refine (fixed_each _ _ (fun a s => ?_) _).trans ?_
    | split)

theorem fixed_applyRec (c : CmdRec) (s : State) : (applyRec c s).fixed = s.fixed := by
  unfold applyRec
  repeat' (first
    | with_reducible rfl
    | simp only [fixed_mk, fixed_fold, ite_fixed, ite_self, implies_true, fixed_assertSysrst, fixed_marginGo,
        fixed_memberAssert, fixed_memberRelease, fixed_offRequest, fixed_startStage]
    | refine (fixed_each _ _ (fun a s => ?_) _).trans ?_
    | split)

theorem fixed_stackOff (s : State) : (stackOff s).fixed = s.fixed := by
  unfold stackOff
  repeat' (first
    | with_reducible rfl
    | simp only [fixed_mk, fixed_fold, ite_fixed, ite_self, implies_true, fixed_applyRec, fixed_each, fixed_memberOff]
    | refine (fixed_each _ _ (fun a s => ?_) _).trans ?_
    | split)

theorem fixed_applyRx (s : State) : (applyRx s).fixed = s.fixed := by
  unfold applyRx
  repeat' (first
    | with_reducible rfl
    | simp only [fixed_mk, fixed_fold, ite_fixed, ite_self, implies_true, fixed_applyRec, fixed_each]
    | refine (fixed_each _ _ (fun a s => ?_) _).trans ?_
    | split)

theorem fixed_commandLoss (s : State) : (commandLoss s).fixed = s.fixed := by
  unfold commandLoss
  repeat' (first
    | with_reducible rfl
    | simp only [fixed_mk, fixed_fold, ite_fixed, ite_self, implies_true, fixed_raise]
    | refine (fixed_each _ _ (fun a s => ?_) _).trans ?_
    | split)

theorem fixed_memberLoss (m : Nat) (s : State) : (memberLoss m s).fixed = s.fixed := by
  unfold memberLoss
  repeat' (first
    | with_reducible rfl
    | simp only [fixed_mk, fixed_fold, ite_fixed, ite_self, implies_true, fixed_offRelay, fixed_offRequest, fixed_raise]
    | refine (fixed_each _ _ (fun a s => ?_) _).trans ?_
    | split)

theorem fixed_stackJoinEnd (s : State) : (stackJoinEnd s).fixed = s.fixed := by
  unfold stackJoinEnd
  repeat' (first
    | with_reducible rfl
    | simp only [fixed_mk, fixed_fold, ite_fixed, ite_self, implies_true, fixed_joinDone, fixed_raise]
    | refine (fixed_each _ _ (fun a s => ?_) _).trans ?_
    | split)

theorem fixed_rowCaps (s : State) : (rowCaps s).fixed = s.fixed := by
  unfold rowCaps
  repeat' (first
    | with_reducible rfl
    | simp only [fixed_mk, fixed_fold, ite_fixed, ite_self, implies_true, fixed_modRnode, fixed_each, fixed_raise,
        fixed_sendRow]
    | refine (fixed_each _ _ (fun a s => ?_) _).trans ?_
    | split)

theorem fixed_rowTask (s : State) : (rowTask s).fixed = s.fixed := by
  unfold rowTask
  repeat' (first
    | with_reducible rfl
    | simp only [fixed_mk, fixed_fold, ite_fixed, ite_self, implies_true, fixed_rowCaps, fixed_sendRow]
    | refine (fixed_each _ _ (fun a s => ?_) _).trans ?_
    | split)

theorem fixed_rowstatFrame (f : LFrame) (demand floor : Nat) (inloss ready : Bool) (level domain : Nat) (s : State) :
    (rowstatFrame f demand floor inloss ready level domain s).fixed = s.fixed := by
  unfold rowstatFrame
  repeat' (first
    | with_reducible rfl
    | simp only [fixed_mk, fixed_fold, ite_fixed, ite_self, implies_true, fixed_modRnode, fixed_once, fixed_receive]
    | refine (fixed_each _ _ (fun a s => ?_) _).trans ?_
    | refine (fixed_once _ _ _ _ (fun _ => ?_)).trans ?_
    | refine (fixed_receive _ _ _ (fun _ => ?_)).trans ?_
    | split)

theorem fixed_capFrame (f : LFrame) (cap : Nat) (s : State) : (capFrame f cap s).fixed = s.fixed := by
  unfold capFrame
  repeat' (first
    | with_reducible rfl
    | simp only [fixed_mk, fixed_fold, ite_fixed, ite_self, implies_true, fixed_once, fixed_receive]
    | refine (fixed_each _ _ (fun a s => ?_) _).trans ?_
    | refine (fixed_once _ _ _ _ (fun _ => ?_)).trans ?_
    | refine (fixed_receive _ _ _ (fun _ => ?_)).trans ?_
    | split)

theorem fixed_faultFrame (f : LFrame) (ts : Ts) (node grail kind : Nat) (aligned : Bool) (s : State) : (faultFrame f ts node
    grail kind aligned s).fixed = s.fixed := by
  unfold faultFrame
  repeat' (first
    | with_reducible rfl
    | simp only [fixed_mk, fixed_fold, ite_fixed, ite_self, implies_true, fixed_once, fixed_receive, fixed_rowFirst]
    | refine (fixed_each _ _ (fun a s => ?_) _).trans ?_
    | refine (fixed_once _ _ _ _ (fun _ => ?_)).trans ?_
    | refine (fixed_receive _ _ _ (fun _ => ?_)).trans ?_
    | split)

theorem fixed_faultBroadcast (s : State) : (faultBroadcast s).fixed = s.fixed := by
  unfold faultBroadcast
  repeat' (first
    | with_reducible rfl
    | simp only [fixed_mk, fixed_fold, ite_fixed, ite_self, implies_true, fixed_sendRow]
    | refine (fixed_each _ _ (fun a s => ?_) _).trans ?_
    | split)

theorem fixed_eventFrame (f : LFrame) (o : Occ) (s : State) : (eventFrame f o s).fixed = s.fixed := by
  unfold eventFrame
  repeat' (first
    | with_reducible rfl
    | simp only [fixed_mk, fixed_fold, ite_fixed, ite_self, implies_true, fixed_once, fixed_raiseSev, fixed_receive]
    | refine (fixed_each _ _ (fun a s => ?_) _).trans ?_
    | refine (fixed_once _ _ _ _ (fun _ => ?_)).trans ?_
    | refine (fixed_receive _ _ _ (fun _ => ?_)).trans ?_
    | split)

theorem fixed_sendEvents (s : State) : (sendEvents s).fixed = s.fixed := by
  unfold sendEvents
  repeat' (first
    | with_reducible rfl
    | simp only [fixed_mk, fixed_fold, ite_fixed, ite_self, implies_true, fixed_each, fixed_sendRow]
    | refine (fixed_each _ _ (fun a s => ?_) _).trans ?_
    | split)

theorem fixed_formVector (s : State) : (formVector s).fixed = s.fixed := by
  unfold formVector
  repeat' (first
    | with_reducible rfl
    | simp only [fixed_mk, fixed_fold, ite_fixed, ite_self, implies_true]
    | refine (fixed_each _ _ (fun a s => ?_) _).trans ?_
    | split)

theorem fixed_pairEnFrame (f : LFrame) (s : State) : (pairEnFrame f s).fixed = s.fixed := by
  unfold pairEnFrame
  repeat' (first
    | with_reducible rfl
    | simp only [fixed_mk, fixed_fold, ite_fixed, ite_self, implies_true, fixed_receive, fixed_takeRole]
    | refine (fixed_each _ _ (fun a s => ?_) _).trans ?_
    | refine (fixed_receive _ _ _ (fun _ => ?_)).trans ?_
    | split)

theorem fixed_applyVector (s : State) : (applyVector s).fixed = s.fixed := by
  unfold applyVector
  repeat' (first
    | with_reducible rfl
    | simp only [fixed_mk, fixed_fold, ite_fixed, ite_self, implies_true, fixed_modRail, fixed_driveEn, fixed_each,
        fixed_raise, fixed_setRState]
    | refine (fixed_each _ _ (fun a s => ?_) _).trans ?_
    | split)

theorem fixed_pairCount (s : State) : (pairCount s).fixed = s.fixed := by
  unfold pairCount
  repeat' (first
    | with_reducible rfl
    | simp only [fixed_mk, fixed_fold, ite_fixed, ite_self, implies_true]
    | refine (fixed_each _ _ (fun a s => ?_) _).trans ?_
    | split)

theorem fixed_assertXrst (s : State) : (assertXrst s).fixed = s.fixed := by
  unfold assertXrst
  repeat' (first
    | with_reducible rfl
    | simp only [fixed_mk, fixed_fold, ite_fixed, ite_self, implies_true, fixed_raise]
    | refine (fixed_each _ _ (fun a s => ?_) _).trans ?_
    | split)

theorem fixed_resumeItem (it : SnapItem) (s : State) : (resumeItem it s).fixed = s.fixed := by
  unfold resumeItem
  repeat' (first
    | with_reducible rfl
    | simp only [fixed_mk, fixed_fold, ite_fixed, ite_self, implies_true, fixed_modGrp, fixed_modProg, fixed_modRail,
        fixed_modRect, fixed_modStg, fixed_kindle]
    | refine (fixed_each _ _ (fun a s => ?_) _).trans ?_
    | split)

theorem fixed_sendSnapshot (s : State) : (sendSnapshot s).fixed = s.fixed := by
  unfold sendSnapshot
  repeat' (first
    | with_reducible rfl
    | simp only [fixed_mk, fixed_fold, ite_fixed, ite_self, implies_true, fixed_emit]
    | refine (fixed_each _ _ (fun a s => ?_) _).trans ?_
    | split)

theorem fixed_newEpoch (s : State) : (newEpoch s).fixed = s.fixed := by
  unfold newEpoch
  repeat' (first
    | with_reducible rfl
    | simp only [fixed_mk, fixed_fold, ite_fixed, ite_self, implies_true]
    | refine (fixed_each _ _ (fun a s => ?_) _).trans ?_
    | split)

theorem fixed_takeoverFaults (s : State) : (takeoverFaults s).fixed = s.fixed := by
  unfold takeoverFaults
  repeat' (first
    | with_reducible rfl
    | simp only [fixed_mk, fixed_fold, ite_fixed, ite_self, implies_true, fixed_detect, fixed_each, fixed_reactNow]
    | refine (fixed_each _ _ (fun a s => ?_) _).trans ?_
    | split)

theorem fixed_shadowReset (s : State) : (shadowReset s).fixed = s.fixed := by
  unfold shadowReset
  repeat' (first
    | with_reducible rfl
    | simp only [fixed_mk, fixed_fold, ite_fixed, ite_self, implies_true, fixed_assertXrst]
    | refine (fixed_each _ _ (fun a s => ?_) _).trans ?_
    | split)

theorem fixed_xrstOff (s : State) : (xrstOff s).fixed = s.fixed := by
  unfold xrstOff
  repeat' (first
    | with_reducible rfl
    | simp only [fixed_mk, fixed_fold, ite_fixed, ite_self, implies_true]
    | refine (fixed_each _ _ (fun a s => ?_) _).trans ?_
    | split)

theorem fixed_judgeReady (s : State) : (judgeReady s).fixed = s.fixed := by
  unfold judgeReady
  repeat' (first
    | with_reducible rfl
    | simp only [fixed_mk, fixed_fold, ite_fixed, ite_self, implies_true]
    | refine (fixed_each _ _ (fun a s => ?_) _).trans ?_
    | split)

theorem fixed_journalFrame (f : LFrame) (s : State) : (journalFrame f s).fixed = s.fixed := by
  unfold journalFrame
  repeat' (first
    | with_reducible rfl
    | simp only [fixed_mk, fixed_fold, ite_fixed, ite_self, implies_true, fixed_judgeReady, fixed_receive,
        fixed_sendFrame, fixed_wcWritten]
    | refine (fixed_each _ _ (fun a s => ?_) _).trans ?_
    | refine (fixed_receive _ _ _ (fun _ => ?_)).trans ?_
    | split)

theorem fixed_jackFrame (f : LFrame) (q : Nat) (s : State) : (jackFrame f q s).fixed = s.fixed :=
  fixed_receive _ _ _ (fun _ => rfl)

theorem fixed_resend (due : List Nat) (s : State) : (resend due s).fixed = s.fixed := by
  unfold resend
  repeat' (first
    | with_reducible rfl
    | simp only [fixed_mk, fixed_fold, ite_fixed, ite_self, implies_true, fixed_each, fixed_sendEntry]
    | refine (fixed_each _ _ (fun a s => ?_) _).trans ?_
    | split)

theorem fixed_journalResend (s : State) : (journalResend s).fixed = s.fixed := by
  unfold journalResend
  repeat' (first
    | with_reducible rfl
    | simp only [fixed_mk, fixed_fold, ite_fixed, ite_self, implies_true, fixed_resend]
    | refine (fixed_each _ _ (fun a s => ?_) _).trans ?_
    | split)

theorem fixed_resendDue (s : State) : (resendDue s).fixed = s.fixed := by
  unfold resendDue
  repeat' (first
    | with_reducible rfl
    | simp only [fixed_mk, fixed_fold, ite_fixed, ite_self, implies_true, fixed_resend]
    | refine (fixed_each _ _ (fun a s => ?_) _).trans ?_
    | split)

theorem fixed_mirrorFrame (f : LFrame) (tick k n : Nat) (items : List SnapItem) (s : State) : (mirrorFrame f tick k n items
    s).fixed = s.fixed := by
  unfold mirrorFrame
  repeat' (first
    | with_reducible rfl
    | simp only [fixed_mk, fixed_fold, ite_fixed, ite_self, implies_true, fixed_judgeReady, fixed_receive]
    | refine (fixed_each _ _ (fun a s => ?_) _).trans ?_
    | refine (fixed_receive _ _ _ (fun _ => ?_)).trans ?_
    | split)

theorem fixed_quietPoint (s : State) : (quietPoint s).fixed = s.fixed := by
  unfold quietPoint
  repeat' (first
    | with_reducible rfl
    | simp only [fixed_mk, fixed_fold, ite_fixed, ite_self, implies_true, fixed_sendSnapshot]
    | refine (fixed_each _ _ (fun a s => ?_) _).trans ?_
    | split)

theorem fixed_pairAlone (s : State) : (pairAlone s).fixed = s.fixed := by
  unfold pairAlone
  repeat' (first
    | with_reducible rfl
    | simp only [fixed_mk, fixed_fold, ite_fixed, ite_self, implies_true, fixed_raise, fixed_takeRole]
    | refine (fixed_each _ _ (fun a s => ?_) _).trans ?_
    | split)

theorem fixed_statusMissed (s : State) : (statusMissed s).fixed = s.fixed := by
  unfold statusMissed
  repeat' (first
    | with_reducible rfl
    | simp only [fixed_mk, fixed_fold, ite_fixed, ite_self, implies_true]
    | refine (fixed_each _ _ (fun a s => ?_) _).trans ?_
    | split)

theorem fixed_portAge (p : Nat) (s : State) : (portAge p s).fixed = s.fixed := by
  unfold portAge
  repeat' (first
    | with_reducible rfl
    | simp only [fixed_mk, fixed_fold, ite_fixed, ite_self, implies_true, fixed_modPort, fixed_portRetrain,
        fixed_portSeek]
    | refine (fixed_each _ _ (fun a s => ?_) _).trans ?_
    | split)

theorem fixed_linkFrame (s : State) : (linkFrame s).fixed = s.fixed := by
  unfold linkFrame
  repeat' (first
    | with_reducible rfl
    | simp only [fixed_mk, fixed_fold, ite_fixed, ite_self, implies_true, fixed_each, fixed_groupStep, fixed_portAge,
        fixed_portSlots, fixed_resendDue, fixed_slewClock, fixed_statusMissed]
    | refine (fixed_each _ _ (fun a s => ?_) _).trans ?_
    | split)

theorem fixed_viewTick (s : State) : (viewTick s).fixed = s.fixed := by
  unfold viewTick
  repeat' (first
    | with_reducible rfl
    | simp only [fixed_mk, fixed_fold, ite_fixed, ite_self, implies_true, fixed_each, fixed_viewCommit]
    | refine (fixed_each _ _ (fun a s => ?_) _).trans ?_
    | split)

theorem fixed_ownStep (s : State) : (ownStep s).fixed = s.fixed := by
  unfold ownStep
  repeat' (first
    | with_reducible rfl
    | simp only [fixed_mk, fixed_fold, ite_fixed, ite_self, implies_true]
    | refine (fixed_each _ _ (fun a s => ?_) _).trans ?_
    | split)

theorem fixed_sendStatus (s : State) : (sendStatus s).fixed = s.fixed := by
  unfold sendStatus
  repeat' (first
    | with_reducible rfl
    | simp only [fixed_mk, fixed_fold, ite_fixed, ite_self, implies_true, fixed_sendNow]
    | refine (fixed_each _ _ (fun a s => ?_) _).trans ?_
    | split)

theorem fixed_linkTick (s : State) : (linkTick s).fixed = s.fixed := by
  unfold linkTick
  repeat' (first
    | with_reducible rfl
    | simp only [fixed_mk, fixed_fold, ite_fixed, ite_self, implies_true, fixed_modPort, fixed_each, fixed_electSend,
        fixed_viewTick]
    | refine (fixed_each _ _ (fun a s => ?_) _).trans ?_
    | split)

theorem fixed_linkDue (s : State) : (linkDue s).fixed = s.fixed := by
  unfold linkDue
  repeat' (first
    | with_reducible rfl
    | simp only [fixed_mk, fixed_fold, ite_fixed, ite_self, implies_true, fixed_electionWin, fixed_faultBroadcast,
        fixed_memberLoss, fixed_pairAlone, fixed_rowHoldEnd, fixed_rowMasterLoss, fixed_sendSnapshot,
        fixed_stackJoinEnd, fixed_xrstOff]
    | refine (fixed_each _ _ (fun a s => ?_) _).trans ?_
    | split)

theorem fixed_pairSend (s : State) : (pairSend s).fixed = s.fixed := by
  unfold pairSend
  repeat' (first
    | with_reducible rfl
    | simp only [fixed_mk, fixed_fold, ite_fixed, ite_self, implies_true, fixed_applyVector, fixed_formVector,
        fixed_sendNow]
    | refine (fixed_each _ _ (fun a s => ?_) _).trans ?_
    | split)

theorem fixed_portsUpdate (s : State) : (portsUpdate s).fixed = s.fixed := by
  unfold portsUpdate
  repeat' (first
    | with_reducible rfl
    | simp only [fixed_mk, fixed_fold, ite_fixed, ite_self, implies_true, fixed_modPort, fixed_each, fixed_groupStep]
    | refine (fixed_each _ _ (fun a s => ?_) _).trans ?_
    | split)

end Sys2Proof.Machine
end

