-- ==== Sys2Proof/Laws/KeptNv.lean ====
section
/-! SUPPORT. Laws/KeptNv.lean: the same for generations, flash, the recorder, firmware and power:
none touches the queue of commands, the frame counter, or the words of BAR0 that read back or are in force. One lemma
for each operation, cited in place of unfolding it. -/

set_option linter.all false
set_option linter.unusedSimpArgs false
set_option linter.unreachableTactic false
set_option linter.unusedTactic false

namespace Sys2Proof.Machine

theorem fixed_domainOn (pd : Nat) (s : State) : (domainOn pd s).fixed = s.fixed := by
  unfold domainOn
  repeat' (first
    | with_reducible rfl
    | simp only [fixed_mk, fixed_fold, ite_fixed, ite_self, implies_true, fixed_modBank, fixed_modRefm,
        fixed_armEngine, fixed_coreUp, fixed_each]
    | refine (fixed_each _ _ (fun a s => ?_) _).trans ?_
    | split)

theorem fixed_domainOff (pd : Nat) (s : State) : (domainOff pd s).fixed = s.fixed := by
  unfold domainOff
  repeat' (first
    | with_reducible rfl
    | simp only [fixed_mk, fixed_fold, ite_fixed, ite_self, implies_true, fixed_modBank, fixed_modEng, fixed_modRefm,
        fixed_coreDown, fixed_each, fixed_wcLost]
    | refine (fixed_each _ _ (fun a s => ?_) _).trans ?_
    | split)

theorem fixed_gate (want : Nat) (first : Bool) (s : State) : (gate want first s).fixed = s.fixed := by
  unfold gate
  repeat' (first
    | with_reducible rfl
    | simp only [fixed_mk, fixed_fold, ite_fixed, ite_self, implies_true, fixed_domainOff, fixed_domainOn, fixed_each]
    | refine (fixed_each _ _ (fun a s => ?_) _).trans ?_
    | split)

theorem fixed_railIn (i : Nat) (s : State) : (railIn i s).fixed = s.fixed := by
  unfold railIn
  repeat' (first
    | with_reducible rfl
    | simp only [fixed_mk, fixed_fold, ite_fixed, ite_self, implies_true, fixed_modRail]
    | refine (fixed_each _ _ (fun a s => ?_) _).trans ?_
    | split)

theorem fixed_railOut (i : Nat) (s : State) : (railOut i s).fixed = s.fixed := by
  unfold railOut
  repeat' (first
    | with_reducible rfl
    | simp only [fixed_mk, fixed_fold, ite_fixed, ite_self, implies_true, fixed_modRail]
    | refine (fixed_each _ _ (fun a s => ?_) _).trans ?_
    | split)

theorem fixed_railsIn (first : Bool) (s : State) : (railsIn first s).fixed = s.fixed := by
  unfold railsIn
  repeat' (first
    | with_reducible rfl
    | simp only [fixed_mk, fixed_fold, ite_fixed, ite_self, implies_true, fixed_modRail, fixed_each, fixed_railIn,
        fixed_railOut]
    | refine (fixed_each _ _ (fun a s => ?_) _).trans ?_
    | split)

theorem fixed_stagesIn (first : Bool) (s : State) : (stagesIn first s).fixed = s.fixed := by
  unfold stagesIn
  repeat' (first
    | with_reducible rfl
    | simp only [fixed_mk, fixed_fold, ite_fixed, ite_self, implies_true, fixed_modStg, fixed_clearPhases, fixed_each]
    | refine (fixed_each _ _ (fun a s => ?_) _).trans ?_
    | split)

theorem fixed_entriesIn (old : State) (s : State) : (entriesIn old s).fixed = s.fixed := by
  unfold entriesIn
  repeat' (first
    | with_reducible rfl
    | simp only [fixed_mk, fixed_fold, ite_fixed, ite_self, implies_true, fixed_modCore, fixed_each, fixed_modEnt]
    | refine (fixed_each _ _ (fun a s => ?_) _).trans ?_
    | split)

theorem fixed_refsIn (s : State) : (refsIn s).fixed = s.fixed := by
  unfold refsIn
  repeat' (first
    | with_reducible rfl
    | simp only [fixed_mk, fixed_fold, ite_fixed, ite_self, implies_true, fixed_modRefm, fixed_each, fixed_refFall]
    | refine (fixed_each _ _ (fun a s => ?_) _).trans ?_
    | split)

theorem fixed_wcTables (s : State) : (wcTables s).fixed = s.fixed := by
  unfold wcTables
  repeat' (first
    | with_reducible rfl
    | simp only [fixed_mk, fixed_fold, ite_fixed, ite_self, implies_true, fixed_wcRenew]
    | refine (fixed_each _ _ (fun a s => ?_) _).trans ?_
    | split)

theorem fixed_flashPut (a : Nat) (w : Codeword) (s : State) : (flashPut a w s).fixed = s.fixed := by
  unfold flashPut
  repeat' (first
    | with_reducible rfl
    | simp only [fixed_mk, fixed_fold, ite_fixed, ite_self, implies_true]
    | refine (fixed_each _ _ (fun a s => ?_) _).trans ?_
    | split)

theorem fixed_flashProgram (a : Nat) (w : W256) (s : State) : (flashProgram a w s).fixed = s.fixed := by
  unfold flashProgram
  repeat' (first
    | with_reducible rfl
    | simp only [fixed_mk, fixed_fold, ite_fixed, ite_self, implies_true, fixed_flashPut]
    | refine (fixed_each _ _ (fun a s => ?_) _).trans ?_
    | split)

theorem fixed_flashErase (n : Nat) (s : State) : (flashErase n s).fixed = s.fixed := by
  unfold flashErase
  repeat' (first
    | with_reducible rfl
    | simp only [fixed_mk, fixed_fold, ite_fixed, ite_self, implies_true, fixed_each, fixed_flashPut]
    | refine (fixed_each _ _ (fun a s => ?_) _).trans ?_
    | split)

theorem fixed_tornWord (a : Nat) (w : Codeword) (s : State) : (tornWord a w s).fixed = s.fixed := by
  unfold tornWord
  repeat' (first
    | with_reducible rfl
    | simp only [fixed_mk, fixed_fold, ite_fixed, ite_self, implies_true, fixed_drawFree, fixed_flashPut]
    | refine (fixed_each _ _ (fun a s => ?_) _).trans ?_
    | split)

theorem fixed_tornErase (n : Nat) (s : State) : (tornErase n s).fixed = s.fixed := by
  unfold tornErase
  repeat' (first
    | with_reducible rfl
    | simp only [fixed_mk, fixed_fold, ite_fixed, ite_self, implies_true, fixed_each, fixed_tornWord]
    | refine (fixed_each _ _ (fun a s => ?_) _).trans ?_
    | split)

theorem fixed_bankProgram (b : Bool) (off : Nat) (bytes : List Byte) (s : State) : (bankProgram b off bytes s).fixed =
    s.fixed := by
  unfold bankProgram
  repeat' (first
    | with_reducible rfl
    | simp only [fixed_mk, fixed_fold, ite_fixed, ite_self, implies_true, fixed_each, fixed_flashErase,
        fixed_flashProgram]
    | refine (fixed_each _ _ (fun a s => ?_) _).trans ?_
    | split)

theorem fixed_eraseAsk (sector : Nat) (u : EraseUse) (s : State) : (eraseAsk sector u s).fixed = s.fixed := by
  unfold eraseAsk
  repeat' (first
    | with_reducible rfl
    | simp only [fixed_mk, fixed_fold, ite_fixed, ite_self, implies_true]
    | refine (fixed_each _ _ (fun a s => ?_) _).trans ?_
    | split)

theorem fixed_beginCopy (j : Job) (l : List Job) (a : Nat) (s : State) : (beginCopy j l a s).fixed = s.fixed := by
  unfold beginCopy
  repeat' (first
    | with_reducible rfl
    | simp only [fixed_mk, fixed_fold, ite_fixed, ite_self, implies_true]
    | refine (fixed_each _ _ (fun a s => ?_) _).trans ?_
    | split)

theorem fixed_nvBegin (s : State) : (nvBegin s).fixed = s.fixed := by
  unfold nvBegin
  repeat' (first
    | with_reducible rfl
    | simp only [fixed_mk, fixed_fold, ite_fixed, ite_self, implies_true, fixed_beginCopy, fixed_eraseAsk]
    | refine (fixed_each _ _ (fun a s => ?_) _).trans ?_
    | split)

theorem fixed_nvWrite (u : JobUse) (q r : Nat) (s : State) : (nvWrite u q r s).fixed = s.fixed := by
  unfold nvWrite
  repeat' (first
    | with_reducible rfl
    | simp only [fixed_mk, fixed_fold, ite_fixed, ite_self, implies_true, fixed_nvBegin]
    | refine (fixed_each _ _ (fun a s => ?_) _).trans ?_
    | split)

theorem fixed_programWord (j : Job) (s : State) : (programWord j s).fixed = s.fixed := by
  unfold programWord
  repeat' (first
    | with_reducible rfl
    | simp only [fixed_mk, fixed_fold, ite_fixed, ite_self, implies_true, fixed_flashProgram]
    | refine (fixed_each _ _ (fun a s => ?_) _).trans ?_
    | split)

theorem fixed_accept (j : Job) (s : State) : (accept j s).fixed = s.fixed := by
  unfold accept
  repeat' (first
    | with_reducible rfl
    | simp only [fixed_mk, fixed_fold, ite_fixed, ite_self, implies_true]
    | refine (fixed_each _ _ (fun a s => ?_) _).trans ?_
    | split)

theorem fixed_verifyFail (s : State) : (verifyFail s).fixed = s.fixed := by
  unfold verifyFail
  repeat' (first
    | with_reducible rfl
    | simp only [fixed_mk, fixed_fold, ite_fixed, ite_self, implies_true, fixed_raise]
    | refine (fixed_each _ _ (fun a s => ?_) _).trans ?_
    | split)

theorem fixed_programStep (s : State) : (programStep s).2.fixed = s.fixed := by
  unfold programStep
  repeat' (first
    | with_reducible rfl
    | simp only [fixed_mk, fixed_fold, ite_fixed, ite_self, implies_true, fixed_accept, fixed_nvBegin,
        fixed_programWord]
    | refine (fixed_each _ _ (fun a s => ?_) _).trans ?_
    | split)

theorem fixed_wearUp (n : Nat) (s : State) : (wearUp n s).fixed = s.fixed := by
  unfold wearUp
  repeat' (first
    | with_reducible rfl
    | simp only [fixed_mk, fixed_fold, ite_fixed, ite_self, implies_true, fixed_raise]
    | refine (fixed_each _ _ (fun a s => ?_) _).trans ?_
    | split)

theorem fixed_eraseDone (s : State) : (eraseDone s).fixed = s.fixed := by
  unfold eraseDone
  repeat' (first
    | with_reducible rfl
    | simp only [fixed_mk, fixed_fold, ite_fixed, ite_self, implies_true, fixed_flashErase, fixed_nvBegin, fixed_wearUp]
    | refine (fixed_each _ _ (fun a s => ?_) _).trans ?_
    | split)

theorem fixed_clearSlots (s : State) : (clearSlots s).fixed = s.fixed := by
  unfold clearSlots
  repeat' (first
    | with_reducible rfl
    | simp only [fixed_mk, fixed_fold, ite_fixed, ite_self, implies_true, fixed_each, fixed_eraseAsk]
    | refine (fixed_each _ _ (fun a s => ?_) _).trans ?_
    | split)

theorem fixed_writeImage (im : Image) (q : Nat) (s : State) : (writeImage im q s).fixed = s.fixed := by
  unfold writeImage
  repeat' (first
    | with_reducible rfl
    | simp only [fixed_mk, fixed_fold, ite_fixed, ite_self, implies_true, fixed_nvWrite]
    | refine (fixed_each _ _ (fun a s => ?_) _).trans ?_
    | split)

theorem fixed_releaseImages (s : State) : (releaseImages s).fixed = s.fixed := by
  unfold releaseImages
  repeat' (first
    | with_reducible rfl
    | simp only [fixed_mk, fixed_fold, ite_fixed, ite_self, implies_true, fixed_each, fixed_eraseAsk]
    | refine (fixed_each _ _ (fun a s => ?_) _).trans ?_
    | split)

theorem fixed_changeGen (g : GenState) (q r : Nat) (s : State) : (changeGen g q r s).fixed = s.fixed := by
  unfold changeGen
  repeat' (first
    | with_reducible rfl
    | simp only [fixed_mk, fixed_fold, ite_fixed, ite_self, implies_true, fixed_nvWrite]
    | refine (fixed_each _ _ (fun a s => ?_) _).trans ?_
    | split)

theorem fixed_beginProb (p : Nat) (s : State) : (beginProb p s).fixed = s.fixed := by
  unfold beginProb
  repeat' (first
    | with_reducible rfl
    | simp only [fixed_mk, fixed_fold, ite_fixed, ite_self, implies_true]
    | refine (fixed_each _ _ (fun a s => ?_) _).trans ?_
    | split)

theorem fixed_confirmGen (q : Nat) (s : State) : (confirmGen q s).fixed = s.fixed := by
  unfold confirmGen
  repeat' (first
    | with_reducible rfl
    | simp only [fixed_mk, fixed_fold, ite_fixed, ite_self, implies_true, fixed_beginProb, fixed_changeGen, fixed_raise]
    | refine (fixed_each _ _ (fun a s => ?_) _).trans ?_
    | split)

theorem fixed_probExpiry (s : State) : (probExpiry s).fixed = s.fixed := by
  unfold probExpiry
  repeat' (first
    | with_reducible rfl
    | simp only [fixed_mk, fixed_fold, ite_fixed, ite_self, implies_true, fixed_confirmGen]
    | refine (fixed_each _ _ (fun a s => ?_) _).trans ?_
    | split)

theorem fixed_probTick (s : State) : (probTick s).fixed = s.fixed := by
  unfold probTick
  repeat' (first
    | with_reducible rfl
    | simp only [fixed_mk, fixed_fold, ite_fixed, ite_self, implies_true, fixed_probExpiry]
    | refine (fixed_each _ _ (fun a s => ?_) _).trans ?_
    | split)

theorem fixed_putSlots (i : Nat) (v : List Nat) (q : Nat) (s : State) : (putSlots i v q s).fixed = s.fixed := by
  unfold putSlots
  repeat' (first
    | with_reducible rfl
    | simp only [fixed_mk, fixed_fold, ite_fixed, ite_self, implies_true, fixed_modCgrp, fixed_flashProgram]
    | refine (fixed_each _ _ (fun a s => ?_) _).trans ?_
    | split)

theorem fixed_putPair (i : Nat) (s : State) : (putPair i s).fixed = s.fixed := by
  unfold putPair
  repeat' (first
    | with_reducible rfl
    | simp only [fixed_mk, fixed_fold, ite_fixed, ite_self, implies_true, fixed_modRail, fixed_putSlots]
    | refine (fixed_each _ _ (fun a s => ?_) _).trans ?_
    | split)

theorem fixed_switchGroup (g : Nat) (s : State) : (switchGroup g s).fixed = s.fixed := by
  unfold switchGroup
  repeat' (first
    | with_reducible rfl
    | simp only [fixed_mk, fixed_fold, ite_fixed, ite_self, implies_true, fixed_modCgrp, fixed_each, fixed_eraseAsk,
        fixed_putPair]
    | refine (fixed_each _ _ (fun a s => ?_) _).trans ?_
    | split)

theorem fixed_ringUpdate (i : Nat) (s : State) : (ringUpdate i s).fixed = s.fixed := by
  unfold ringUpdate
  repeat' (first
    | with_reducible rfl
    | simp only [fixed_mk, fixed_fold, ite_fixed, ite_self, implies_true, fixed_putPair, fixed_switchGroup]
    | refine (fixed_each _ _ (fun a s => ?_) _).trans ?_
    | split)

theorem fixed_ringBound (s : State) : (ringBound s).fixed = s.fixed := by
  unfold ringBound
  repeat' (first
    | with_reducible rfl
    | simp only [fixed_mk, fixed_fold, ite_fixed, ite_self, implies_true, fixed_each, fixed_ringUpdate]
    | refine (fixed_each _ _ (fun a s => ?_) _).trans ?_
    | split)

theorem fixed_counterTick (s : State) : (counterTick s).fixed = s.fixed := by
  unfold counterTick
  repeat' (first
    | with_reducible rfl
    | simp only [fixed_mk, fixed_fold, ite_fixed, ite_self, implies_true]
    | refine (fixed_each _ _ (fun a s => ?_) _).trans ?_
    | split)

theorem fixed_mirrorAppend (e : JEntry) (s : State) : (mirrorAppend e s).fixed = s.fixed := by
  unfold mirrorAppend
  repeat' (first
    | with_reducible rfl
    | simp only [fixed_mk, fixed_fold, ite_fixed, ite_self, implies_true, fixed_flashProgram]
    | refine (fixed_each _ _ (fun a s => ?_) _).trans ?_
    | split)

theorem fixed_mirrorWrite (s : State) : (mirrorWrite s).fixed = s.fixed := by
  unfold mirrorWrite
  repeat' (first
    | with_reducible rfl
    | simp only [fixed_mk, fixed_fold, ite_fixed, ite_self, implies_true, fixed_eraseAsk, fixed_mirrorAppend]
    | refine (fixed_each _ _ (fun a s => ?_) _).trans ?_
    | split)

theorem fixed_sweepStart (s : State) : (sweepStart s).fixed = s.fixed := by
  unfold sweepStart
  repeat' (first
    | with_reducible rfl
    | simp only [fixed_mk, fixed_fold, ite_fixed, ite_self, implies_true, fixed_nvWrite]
    | refine (fixed_each _ _ (fun a s => ?_) _).trans ?_
    | split)

theorem fixed_rewriteItem (k : Nat) (s : State) : (rewriteItem k s).fixed = s.fixed := by
  unfold rewriteItem
  repeat' (first
    | with_reducible rfl
    | simp only [fixed_mk, fixed_fold, ite_fixed, ite_self, implies_true, fixed_nvWrite]
    | refine (fixed_each _ _ (fun a s => ?_) _).trans ?_
    | split)

theorem fixed_copyRecord (sec slot : Nat) (s : State) : (copyRecord sec slot s).fixed = s.fixed := by
  unfold copyRecord
  repeat' (first
    | with_reducible rfl
    | simp only [fixed_mk, fixed_fold, ite_fixed, ite_self, implies_true, fixed_nvWrite]
    | refine (fixed_each _ _ (fun a s => ?_) _).trans ?_
    | split)

theorem fixed_rewriteWeak (a : Nat) (s : State) : (rewriteWeak a s).fixed = s.fixed := by
  unfold rewriteWeak
  repeat' (first
    | with_reducible rfl
    | simp only [fixed_mk, fixed_fold, ite_fixed, ite_self, implies_true, fixed_copyRecord, fixed_mirrorAppend,
        fixed_nvWrite, fixed_putPair, fixed_rewriteItem, fixed_writeImage]
    | refine (fixed_each _ _ (fun a s => ?_) _).trans ?_
    | split)

theorem fixed_badFlashWord (a : Nat) (s : State) : (badFlashWord a s).fixed = s.fixed := by
  unfold badFlashWord
  repeat' (first
    | with_reducible rfl
    | simp only [fixed_mk, fixed_fold, ite_fixed, ite_self, implies_true, fixed_ashRise, fixed_rewriteWeak,
        fixed_wordErr]
    | refine (fixed_each _ _ (fun a s => ?_) _).trans ?_
    | split)

theorem fixed_sweepStep (weak bad : List Nat) (s : State) : (sweepStep weak bad s).fixed = s.fixed := by
  unfold sweepStep
  repeat' (first
    | with_reducible rfl
    | simp only [fixed_mk, fixed_fold, ite_fixed, ite_self, implies_true, fixed_badFlashWord, fixed_each,
        fixed_nvWrite, fixed_raise, fixed_rewriteWeak]
    | refine (fixed_each _ _ (fun a s => ?_) _).trans ?_
    | split)

theorem fixed_eraseAbort (s : State) : (eraseAbort s).fixed = s.fixed := by
  unfold eraseAbort
  repeat' (first
    | with_reducible rfl
    | simp only [fixed_mk, fixed_fold, ite_fixed, ite_self, implies_true, fixed_tornErase]
    | refine (fixed_each _ _ (fun a s => ?_) _).trans ?_
    | split)

theorem fixed_programAbort (s : State) : (programAbort s).fixed = s.fixed := by
  unfold programAbort
  repeat' (first
    | with_reducible rfl
    | simp only [fixed_mk, fixed_fold, ite_fixed, ite_self, implies_true, fixed_tornWord]
    | refine (fixed_each _ _ (fun a s => ?_) _).trans ?_
    | split)

theorem fixed_tailDone (s : State) : (tailDone s).fixed = s.fixed := by
  unfold tailDone
  repeat' (first
    | with_reducible rfl
    | simp only [fixed_mk, fixed_fold, ite_fixed, ite_self, implies_true, fixed_nvBegin, fixed_programWord]
    | refine (fixed_each _ _ (fun a s => ?_) _).trans ?_
    | split)

theorem fixed_storeCopy (u : JobUse) (rseq : Nat) (twinB : Bool) (s : State) : (storeCopy u rseq twinB s).fixed = s.fixed :=
    by
  unfold storeCopy
  repeat' (first
    | with_reducible rfl
    | simp only [fixed_mk, fixed_fold, ite_fixed, ite_self, implies_true, fixed_each, fixed_flashErase,
        fixed_flashProgram, fixed_wearUp]
    | refine (fixed_each _ _ (fun a s => ?_) _).trans ?_
    | split)

theorem fixed_storeNow (u : JobUse) (s : State) : (storeNow u s).fixed = s.fixed := by
  unfold storeNow
  repeat' (first
    | with_reducible rfl
    | simp only [fixed_mk, fixed_fold, ite_fixed, ite_self, implies_true, fixed_storeCopy]
    | refine (fixed_each _ _ (fun a s => ?_) _).trans ?_
    | split)

theorem fixed_nvwpRefuse (q op : Nat) (s : State) : (nvwpRefuse q op s).fixed = s.fixed := by
  unfold nvwpRefuse
  repeat' (first
    | with_reducible rfl
    | simp only [fixed_mk, fixed_fold, ite_fixed, ite_self, implies_true, fixed_raise]
    | refine (fixed_each _ _ (fun a s => ?_) _).trans ?_
    | split)

theorem fixed_nvwpStep (level : Bool) (s : State) : (nvwpStep level s).fixed = s.fixed := by
  unfold nvwpStep
  repeat' (first
    | with_reducible rfl
    | simp only [fixed_mk, fixed_fold, ite_fixed, ite_self, implies_true]
    | refine (fixed_each _ _ (fun a s => ?_) _).trans ?_
    | split)

theorem fixed_imgWritten (im : Img) (s : State) : (imgWritten im s).fixed = s.fixed := by
  unfold imgWritten
  repeat' (first
    | with_reducible rfl
    | simp only [fixed_mk, fixed_fold, ite_fixed, ite_self, implies_true, fixed_each, fixed_wcWritten]
    | refine (fixed_each _ _ (fun a s => ?_) _).trans ?_
    | split)

theorem fixed_bufSet (im : Img) (s : State) : (bufSet im s).fixed = s.fixed := by
  unfold bufSet
  repeat' (first
    | with_reducible rfl
    | simp only [fixed_mk, fixed_fold, ite_fixed, ite_self, implies_true, fixed_imgWritten]
    | refine (fixed_each _ _ (fun a s => ?_) _).trans ?_
    | split)

theorem fixed_bufPut (im : Img) (s : State) : (bufPut im s).fixed = s.fixed := by
  unfold bufPut
  repeat' (first
    | with_reducible rfl
    | simp only [fixed_mk, fixed_fold, ite_fixed, ite_self, implies_true, fixed_ashRise, fixed_imgWritten]
    | refine (fixed_each _ _ (fun a s => ?_) _).trans ?_
    | split)

theorem fixed_suppress (o : Occ) (s : State) : (suppress o s).fixed = s.fixed := by
  unfold suppress
  repeat' (first
    | with_reducible rfl
    | simp only [fixed_mk, fixed_fold, ite_fixed, ite_self, implies_true, fixed_bufPut, fixed_bufSet]
    | refine (fixed_each _ _ (fun a s => ?_) _).trans ?_
    | split)

theorem fixed_recordMake (s : State) : (recordMake s).fixed = s.fixed := by
  unfold recordMake
  repeat' (first
    | with_reducible rfl
    | simp only [fixed_mk, fixed_fold, ite_fixed, ite_self, implies_true, fixed_bufPut, fixed_suppress]
    | refine (fixed_each _ _ (fun a s => ?_) _).trans ?_
    | split)

theorem fixed_useSlot (k : Nat) (im : Img) (s : State) : (useSlot k im s).fixed = s.fixed := by
  unfold useSlot
  repeat' (first
    | with_reducible rfl
    | simp only [fixed_mk, fixed_fold, ite_fixed, ite_self, implies_true]
    | refine (fixed_each _ _ (fun a s => ?_) _).trans ?_
    | split)

theorem fixed_eraseVictim (k : Nat) (s : State) : (eraseVictim k s).fixed = s.fixed := by
  unfold eraseVictim
  repeat' (first
    | with_reducible rfl
    | simp only [fixed_mk, fixed_fold, ite_fixed, ite_self, implies_true, fixed_ashRise, fixed_eraseAsk]
    | refine (fixed_each _ _ (fun a s => ?_) _).trans ?_
    | split)

theorem fixed_placeRecord (im : Img) (s : State) : (placeRecord im s).2.fixed = s.fixed := by
  unfold placeRecord
  repeat' (first
    | with_reducible rfl
    | simp only [fixed_mk, fixed_fold, ite_fixed, ite_self, implies_true, fixed_eraseVictim, fixed_useSlot]
    | refine (fixed_each _ _ (fun a s => ?_) _).trans ?_
    | split)

theorem fixed_placeEmber (im : Img) (s : State) : (placeEmber im s).2.fixed = s.fixed := by
  unfold placeEmber
  repeat' (first
    | with_reducible rfl
    | simp only [fixed_mk, fixed_fold, ite_fixed, ite_self, implies_true, fixed_useSlot]
    | refine (fixed_each _ _ (fun a s => ?_) _).trans ?_
    | split)

theorem fixed_recordStored (n : Nat) (im : Img) (s : State) : (recordStored n im s).fixed = s.fixed := by
  unfold recordStored
  repeat' (first
    | with_reducible rfl
    | simp only [fixed_mk, fixed_fold, ite_fixed, ite_self, implies_true]
    | refine (fixed_each _ _ (fun a s => ?_) _).trans ?_
    | split)

theorem fixed_flushOne (im : Img) (s : State) : (flushOne im s).fixed = s.fixed := by
  unfold flushOne
  repeat' (first
    | with_reducible rfl
    | simp only [fixed_mk, fixed_fold, ite_fixed, ite_self, implies_true, fixed_ashRise, fixed_nvWrite,
        fixed_placeRecord]
    | refine (fixed_each _ _ (fun a s => ?_) _).trans ?_
    | split)

theorem fixed_recorderFlush (s : State) : (recorderFlush s).fixed = s.fixed := by
  unfold recorderFlush
  repeat' (first
    | with_reducible rfl
    | simp only [fixed_mk, fixed_fold, ite_fixed, ite_self, implies_true, fixed_each, fixed_flushOne]
    | refine (fixed_each _ _ (fun a s => ?_) _).trans ?_
    | split)

theorem fixed_freeze (s : State) : (freeze s).fixed = s.fixed := by
  unfold freeze
  repeat' (first
    | with_reducible rfl
    | simp only [fixed_mk, fixed_fold, ite_fixed, ite_self, implies_true]
    | refine (fixed_each _ _ (fun a s => ?_) _).trans ?_
    | split)

theorem fixed_thaw (s : State) : (thaw s).fixed = s.fixed := by
  unfold thaw
  repeat' (first
    | with_reducible rfl
    | simp only [fixed_mk, fixed_fold, ite_fixed, ite_self, implies_true, fixed_bufSet, fixed_raiseSev]
    | refine (fixed_each _ _ (fun a s => ?_) _).trans ?_
    | split)

theorem fixed_clearErasure (s : State) : (clearErasure s).fixed = s.fixed := by
  unfold clearErasure
  repeat' (first
    | with_reducible rfl
    | simp only [fixed_mk, fixed_fold, ite_fixed, ite_self, implies_true, fixed_each, fixed_eraseAsk]
    | refine (fixed_each _ _ (fun a s => ?_) _).trans ?_
    | split)

theorem fixed_clearCommit (s : State) : (clearCommit s).fixed = s.fixed := by
  unfold clearCommit
  repeat' (first
    | with_reducible rfl
    | simp only [fixed_mk, fixed_fold, ite_fixed, ite_self, implies_true, fixed_finishAt, fixed_raise]
    | refine (fixed_each _ _ (fun a s => ?_) _).trans ?_
    | split)

theorem fixed_nonceEnd (s : State) : (nonceEnd s).fixed = s.fixed := by
  unfold nonceEnd
  repeat' (first
    | with_reducible rfl
    | simp only [fixed_mk, fixed_fold, ite_fixed, ite_self, implies_true]
    | refine (fixed_each _ _ (fun a s => ?_) _).trans ?_
    | split)

theorem fixed_recTick (s : State) : (recTick s).fixed = s.fixed := by
  unfold recTick
  repeat' (first
    | with_reducible rfl
    | simp only [fixed_mk, fixed_fold, ite_fixed, ite_self, implies_true, fixed_thaw]
    | refine (fixed_each _ _ (fun a s => ?_) _).trans ?_
    | split)

theorem fixed_recBackground (s : State) : (recBackground s).fixed = s.fixed := by
  unfold recBackground
  repeat' (first
    | with_reducible rfl
    | simp only [fixed_mk, fixed_fold, ite_fixed, ite_self, implies_true, fixed_clearErasure, fixed_recorderFlush]
    | refine (fixed_each _ _ (fun a s => ?_) _).trans ?_
    | split)

theorem fixed_emberFlush (n : Nat) (s : State) : (emberFlush n s).fixed = s.fixed := by
  unfold emberFlush
  repeat' (first
    | with_reducible rfl
    | simp only [fixed_mk, fixed_fold, ite_fixed, ite_self, implies_true, fixed_each, fixed_flashProgram,
        fixed_placeEmber, fixed_recordStored]
    | refine (fixed_each _ _ (fun a s => ?_) _).trans ?_
    | split)

theorem fixed_answer (cmd tag status : Nat) (payload : List Byte) (s : State) : (answer cmd tag status payload s).fixed =
    s.fixed := by
  unfold answer
  repeat' (first
    | with_reducible rfl
    | simp only [fixed_mk, fixed_fold, ite_fixed, ite_self, implies_true]
    | refine (fixed_each _ _ (fun a s => ?_) _).trans ?_
    | split)

theorem fixed_flueReq (cmd : Nat) (p : Sys2Proof.Flue) (lenOk : Nat → Bool) (allowed : Nat → Bool) (f : State → State) (s :
    State) (hf : ∀ s, (f s).fixed = s.fixed) : (flueReq cmd p lenOk allowed f s).fixed = s.fixed := by
  unfold flueReq
  repeat' (first
    | with_reducible rfl
    | simp only [fixed_mk, fixed_fold, ite_fixed, ite_self, implies_true, fixed_answer, hf]
    | refine (fixed_each _ _ (fun a s => ?_) _).trans ?_
    | split)

theorem fixed_flueRead (s : State) : (flueRead s).fixed = s.fixed := by
  unfold flueRead
  repeat' (first
    | with_reducible rfl
    | simp only [fixed_mk, fixed_fold, ite_fixed, ite_self, implies_true, fixed_emit]
    | refine (fixed_each _ _ (fun a s => ?_) _).trans ?_
    | split)

theorem fixed_modSess (f : Sess → Sess) (s : State) : (modSess f s).fixed = s.fixed := by
  unfold modSess
  repeat' (first
    | with_reducible rfl
    | simp only [fixed_mk, fixed_fold, ite_fixed, ite_self, implies_true]
    | refine (fixed_each _ _ (fun a s => ?_) _).trans ?_
    | split)

theorem fixed_dropStaged (s : State) : (dropStaged s).fixed = s.fixed := by
  unfold dropStaged
  repeat' (first
    | with_reducible rfl
    | simp only [fixed_mk, fixed_fold, ite_fixed, ite_self, implies_true, fixed_modSess]
    | refine (fixed_each _ _ (fun a s => ?_) _).trans ?_
    | split)

theorem fixed_fwEvent (src status cmd ver kind eng ph : Nat) (s : State) : (fwEvent src status cmd ver kind eng ph s).fixed
    = s.fixed := by
  unfold fwEvent
  repeat' (first
    | with_reducible rfl
    | simp only [fixed_mk, fixed_fold, ite_fixed, ite_self, implies_true, fixed_raise]
    | refine (fixed_each _ _ (fun a s => ?_) _).trans ?_
    | split)

theorem fixed_refuseImage (cmd tag status : Nat) (payload : List Byte) (eng ph : Nat) (s : State) : (refuseImage cmd tag
    status payload eng ph s).fixed = s.fixed := by
  unfold refuseImage
  repeat' (first
    | with_reducible rfl
    | simp only [fixed_mk, fixed_fold, ite_fixed, ite_self, implies_true, fixed_answer, fixed_dropStaged, fixed_fwEvent]
    | refine (fixed_each _ _ (fun a s => ?_) _).trans ?_
    | split)

theorem fixed_fwWrite (r : FwRec) (s : State) : (fwWrite r s).fixed = s.fixed := by
  unfold fwWrite
  repeat' (first
    | with_reducible rfl
    | simp only [fixed_mk, fixed_fold, ite_fixed, ite_self, implies_true, fixed_nvWrite]
    | refine (fixed_each _ _ (fun a s => ?_) _).trans ?_
    | split)

theorem fixed_fwJournal (kind result : Nat) (i : FwImg) (s : State) : (fwJournal kind result i s).fixed = s.fixed := by
  unfold fwJournal
  repeat' (first
    | with_reducible rfl
    | simp only [fixed_mk, fixed_fold, ite_fixed, ite_self, implies_true, fixed_jInternal]
    | refine (fixed_each _ _ (fun a s => ?_) _).trans ?_
    | split)

theorem fixed_fwOpen (p : Sys2Proof.Flue) (s : State) : (fwOpen p s).fixed = s.fixed := by
  unfold fwOpen
  repeat' (first
    | with_reducible rfl
    | simp only [fixed_mk, fixed_fold, ite_fixed, ite_self, implies_true, fixed_answer]
    | refine (fixed_each _ _ (fun a s => ?_) _).trans ?_
    | split)

theorem fixed_fwClose (p : Sys2Proof.Flue) (s : State) : (fwClose p s).fixed = s.fixed := by
  unfold fwClose
  repeat' (first
    | with_reducible rfl
    | simp only [fixed_mk, fixed_fold, ite_fixed, ite_self, implies_true, fixed_answer]
    | refine (fixed_each _ _ (fun a s => ?_) _).trans ?_
    | split)

theorem fixed_fwLapse (s : State) : (fwLapse s).fixed = s.fixed := by
  unfold fwLapse
  repeat' (first
    | with_reducible rfl
    | simp only [fixed_mk, fixed_fold, ite_fixed, ite_self, implies_true, fixed_fwEvent]
    | refine (fixed_each _ _ (fun a s => ?_) _).trans ?_
    | split)

theorem fixed_fwHeader (p : Sys2Proof.Flue) (partnerProb : Bool) (s : State) : (fwHeader p partnerProb s).fixed = s.fixed :=
    by
  unfold fwHeader
  repeat' (first
    | with_reducible rfl
    | simp only [fixed_mk, fixed_fold, ite_fixed, ite_self, implies_true, fixed_answer, fixed_bankProgram,
        fixed_fwEvent, fixed_fwWrite, fixed_modSess, fixed_nvwpRefuse]
    | refine (fixed_each _ _ (fun a s => ?_) _).trans ?_
    | split)

theorem fixed_fwData (p : Sys2Proof.Flue) (s : State) : (fwData p s).fixed = s.fixed := by
  unfold fwData
  repeat' (first
    | with_reducible rfl
    | simp only [fixed_mk, fixed_fold, ite_fixed, ite_self, implies_true, fixed_answer, fixed_fwEvent]
    | refine (fixed_each _ _ (fun a s => ?_) _).trans ?_
    | split)

theorem fixed_fwProgrammed (s : State) : (fwProgrammed s).fixed = s.fixed := by
  unfold fwProgrammed
  repeat' (first
    | with_reducible rfl
    | simp only [fixed_mk, fixed_fold, ite_fixed, ite_self, implies_true, fixed_answer, fixed_bankProgram,
        fixed_modSess]
    | refine (fixed_each _ _ (fun a s => ?_) _).trans ?_
    | split)

theorem fixed_fwDataFail (s : State) : (fwDataFail s).fixed = s.fixed := by
  unfold fwDataFail
  repeat' (first
    | with_reducible rfl
    | simp only [fixed_mk, fixed_fold, ite_fixed, ite_self, implies_true, fixed_refuseImage]
    | refine (fixed_each _ _ (fun a s => ?_) _).trans ?_
    | split)

theorem fixed_fwVerify (p : Sys2Proof.Flue) (l : List (Nat × Codeword)) (s : State) :
    (fwVerify p l s).fixed = s.fixed := by
  unfold fwVerify
  repeat' (first
    | with_reducible rfl
    | simp only [fixed_mk, fixed_fold, ite_fixed, ite_self, implies_true, fixed_answer, fixed_each, fixed_modSess,
        fixed_refuseImage, fixed_upset, fixed_wordErr]
    | refine (fixed_each _ _ (fun a s => ?_) _).trans ?_
    | split)

theorem fixed_refuseActivate (tag status eng : Nat) (s : State) : (refuseActivate tag status eng s).fixed = s.fixed := by
  unfold refuseActivate
  repeat' (first
    | with_reducible rfl
    | simp only [fixed_mk, fixed_fold, ite_fixed, ite_self, implies_true, fixed_answer, fixed_fwEvent]
    | refine (fixed_each _ _ (fun a s => ?_) _).trans ?_
    | split)

theorem fixed_recoveryActivate (tag window : Nat) (x : Sess) (s : State) : (recoveryActivate tag window x s).fixed = s.fixed
    := by
  unfold recoveryActivate
  repeat' (first
    | with_reducible rfl
    | simp only [fixed_mk, fixed_fold, ite_fixed, ite_self, implies_true, fixed_fwWrite, fixed_modSess]
    | refine (fixed_each _ _ (fun a s => ?_) _).trans ?_
    | split)

theorem fixed_fwActivate (p : Sys2Proof.Flue) (loadOk partnerOk : Bool) (s : State) : (fwActivate p loadOk partnerOk
    s).fixed = s.fixed := by
  unfold fwActivate
  repeat' (first
    | with_reducible rfl
    | simp only [fixed_mk, fixed_fold, ite_fixed, ite_self, implies_true, fixed_answer, fixed_fwWrite, fixed_modSess,
        fixed_nvwpRefuse, fixed_recoveryActivate, fixed_refuseActivate]
    | refine (fixed_each _ _ (fun a s => ?_) _).trans ?_
    | split)

theorem fixed_armAccepted (s : State) : (armAccepted s).fixed = s.fixed := by
  unfold armAccepted
  repeat' (first
    | with_reducible rfl
    | simp only [fixed_mk, fixed_fold, ite_fixed, ite_self, implies_true, fixed_fwWrite, fixed_modSess,
        fixed_refuseActivate]
    | refine (fixed_each _ _ (fun a s => ?_) _).trans ?_
    | split)

theorem fixed_settingsReset (s : State) : (settingsReset s).fixed = s.fixed := by
  unfold settingsReset
  repeat' (first
    | with_reducible rfl
    | simp only [fixed_mk, fixed_fold, ite_fixed, ite_self, implies_true, fixed_beginProb, fixed_changeGen,
        fixed_fwEvent, fixed_fwJournal, fixed_writeImage]
    | refine (fixed_each _ _ (fun a s => ?_) _).trans ?_
    | split)

theorem fixed_handover_ (s : State) : (handover_ s).fixed = s.fixed := by
  unfold handover_
  repeat' (first
    | with_reducible rfl
    | simp only [fixed_mk, fixed_fold, ite_fixed, ite_self, implies_true, fixed_settingsReset, fixed_wcRenew]
    | refine (fixed_each _ _ (fun a s => ?_) _).trans ?_
    | split)

theorem fixed_xferEnd (s : State) : (xferEnd s).fixed = s.fixed := by
  unfold xferEnd
  repeat' (first
    | with_reducible rfl
    | simp only [fixed_mk, fixed_fold, ite_fixed, ite_self, implies_true, fixed_each, fixed_fwEvent, fixed_markOver]
    | refine (fixed_each _ _ (fun a s => ?_) _).trans ?_
    | split)

theorem fixed_handoverDone (s : State) : (handoverDone s).fixed = s.fixed := by
  unfold handoverDone
  repeat' (first
    | with_reducible rfl
    | simp only [fixed_mk, fixed_fold, ite_fixed, ite_self, implies_true, fixed_fwEvent, fixed_fwJournal, fixed_fwWrite]
    | refine (fixed_each _ _ (fun a s => ?_) _).trans ?_
    | split)

theorem fixed_fwConfirm (p : Sys2Proof.Flue) (partnerOk : Bool) (s : State) : (fwConfirm p partnerOk s).fixed = s.fixed := by
  unfold fwConfirm
  repeat' (first
    | with_reducible rfl
    | simp only [fixed_mk, fixed_fold, ite_fixed, ite_self, implies_true, fixed_answer, fixed_fwWrite]
    | refine (fixed_each _ _ (fun a s => ?_) _).trans ?_
    | split)

theorem fixed_confirmed (tag : Nat) (s : State) : (confirmed tag s).fixed = s.fixed := by
  unfold confirmed
  repeat' (first
    | with_reducible rfl
    | simp only [fixed_mk, fixed_fold, ite_fixed, ite_self, implies_true, fixed_answer, fixed_fwEvent, fixed_fwJournal]
    | refine (fixed_each _ _ (fun a s => ?_) _).trans ?_
    | split)

theorem fixed_fwExpiry (s : State) : (fwExpiry s).fixed = s.fixed := by
  unfold fwExpiry
  repeat' (first
    | with_reducible rfl
    | simp only [fixed_mk, fixed_fold, ite_fixed, ite_self, implies_true]
    | refine (fixed_each _ _ (fun a s => ?_) _).trans ?_
    | split)

theorem fixed_fwAccepted (r : FwRec) (s : State) : (fwAccepted r s).fixed = s.fixed := by
  unfold fwAccepted
  repeat' (first
    | with_reducible rfl
    | simp only [fixed_mk, fixed_fold, ite_fixed, ite_self, implies_true, fixed_answer, fixed_armAccepted,
        fixed_confirmed, fixed_modSess]
    | refine (fixed_each _ _ (fun a s => ?_) _).trans ?_
    | split)

theorem fixed_fwTick (s : State) : (fwTick s).fixed = s.fixed := by
  unfold fwTick
  repeat' (first
    | with_reducible rfl
    | simp only [fixed_mk, fixed_fold, ite_fixed, ite_self, implies_true, fixed_fwExpiry, fixed_fwLapse, fixed_modSess]
    | refine (fixed_each _ _ (fun a s => ?_) _).trans ?_
    | split)

theorem fixed_fwKey (p : Sys2Proof.Flue) (fuseOk : Bool) (s : State) : (fwKey p fuseOk s).fixed = s.fixed := by
  unfold fwKey
  repeat' (first
    | with_reducible rfl
    | simp only [fixed_mk, fixed_fold, ite_fixed, ite_self, implies_true, fixed_answer, fixed_nvwpRefuse]
    | refine (fixed_each _ _ (fun a s => ?_) _).trans ?_
    | split)

theorem fixed_twinErase (c : Copy) (s : State) : (twinErase c s).fixed = s.fixed := by
  unfold twinErase
  repeat' (first
    | with_reducible rfl
    | simp only [fixed_mk, fixed_fold, ite_fixed, ite_self, implies_true, fixed_each, fixed_eraseAsk]
    | refine (fixed_each _ _ (fun a s => ?_) _).trans ?_
    | split)

theorem fixed_rewrite (u : JobUse) (s : State) : (rewrite u s).fixed = s.fixed := by
  unfold rewrite
  repeat' (first
    | with_reducible rfl
    | simp only [fixed_mk, fixed_fold, ite_fixed, ite_self, implies_true, fixed_nvWrite, fixed_writeImage]
    | refine (fixed_each _ _ (fun a s => ?_) _).trans ?_
    | split)

theorem fixed_mendTwin (s0 : State) (c : Copy) (s : State) : (mendTwin s0 c s).fixed = s.fixed := by
  unfold mendTwin
  repeat' (first
    | with_reducible rfl
    | simp only [fixed_mk, fixed_fold, ite_fixed, ite_self, implies_true, fixed_rewrite, fixed_twinErase]
    | refine (fixed_each _ _ (fun a s => ?_) _).trans ?_
    | split)

theorem fixed_armWhen (s : State) : (armWhen s).fixed = s.fixed := by
  unfold armWhen
  repeat' (first
    | with_reducible rfl
    | simp only [fixed_mk, fixed_fold, ite_fixed, ite_self, implies_true]
    | refine (fixed_each _ _ (fun a s => ?_) _).trans ?_
    | split)

theorem fixed_scanGroup (g : Nat) (s : State) : (scanGroup g s).fixed = s.fixed := by
  unfold scanGroup
  repeat' (first
    | with_reducible rfl
    | simp only [fixed_mk, fixed_fold, ite_fixed, ite_self, implies_true, fixed_modCgrp, fixed_each, fixed_eraseAsk,
        fixed_putSlots]
    | refine (fixed_each _ _ (fun a s => ?_) _).trans ?_
    | split)

theorem fixed_scanErases (s : State) : (scanErases s).fixed = s.fixed := by
  unfold scanErases
  repeat' (first
    | with_reducible rfl
    | simp only [fixed_mk, fixed_fold, ite_fixed, ite_self, implies_true, fixed_clearSlots, fixed_each, fixed_eraseAsk]
    | refine (fixed_each _ _ (fun a s => ?_) _).trans ?_
    | split)

theorem fixed_fillReserve (s : State) : (fillReserve s).fixed = s.fixed := by
  unfold fillReserve
  repeat' (first
    | with_reducible rfl
    | simp only [fixed_mk, fixed_fold, ite_fixed, ite_self, implies_true, fixed_eraseVictim]
    | refine (fixed_each _ _ (fun a s => ?_) _).trans ?_
    | split)

theorem fixed_scanFound (s : State) : (scanFound s).fixed = s.fixed := by
  unfold scanFound
  repeat' (first
    | with_reducible rfl
    | simp only [fixed_mk, fixed_fold, ite_fixed, ite_self, implies_true]
    | refine (fixed_each _ _ (fun a s => ?_) _).trans ?_
    | split)

theorem fixed_bootScan (s0 : State) : (bootScan s0).fixed = s0.fixed := by
  unfold bootScan
  repeat' (first
    | with_reducible rfl
    | simp only [fixed_mk, fixed_fold, ite_fixed, ite_self, implies_true, fixed_each, fixed_mendTwin, fixed_scanErases,
        fixed_scanFound, fixed_scanGroup, fixed_wordErr]
    | refine (fixed_each _ _ (fun a s => ?_) _).trans ?_
    | split)

theorem fixed_emberWritten (s : State) : (emberWritten s).fixed = s.fixed := by
  unfold emberWritten
  repeat' (first
    | with_reducible rfl
    | simp only [fixed_mk, fixed_fold, ite_fixed, ite_self, implies_true]
    | refine (fixed_each _ _ (fun a s => ?_) _).trans ?_
    | split)

theorem fixed_xrstReleased (s : State) : (xrstReleased s).fixed = s.fixed := by
  unfold xrstReleased
  repeat' (first
    | with_reducible rfl
    | simp only [fixed_mk, fixed_fold, ite_fixed, ite_self, implies_true, fixed_each, fixed_leaveHiz, fixed_stageHalt]
    | refine (fixed_each _ _ (fun a s => ?_) _).trans ?_
    | split)

theorem fixed_clockLost (s : State) : (clockLost s).fixed = s.fixed := by
  unfold clockLost
  repeat' (first
    | with_reducible rfl
    | simp only [fixed_mk, fixed_fold, ite_fixed, ite_self, implies_true, fixed_raise]
    | refine (fixed_each _ _ (fun a s => ?_) _).trans ?_
    | split)

theorem fixed_clockBack (s : State) : (clockBack s).fixed = s.fixed := by
  unfold clockBack
  repeat' (first
    | with_reducible rfl
    | simp only [fixed_mk, fixed_fold, ite_fixed, ite_self, implies_true]
    | refine (fixed_each _ _ (fun a s => ?_) _).trans ?_
    | split)

theorem fixed_tellAtA (src : Nat) (d : BitVec 128) (s : State) : (tellAtA src d s).fixed = s.fixed := by
  unfold tellAtA
  repeat' (first
    | with_reducible rfl
    | simp only [fixed_mk, fixed_fold, ite_fixed, ite_self, implies_true]
    | refine (fixed_each _ _ (fun a s => ?_) _).trans ?_
    | split)

theorem fixed_fwStore (r : FwRec) (s : State) : (fwStore r s).fixed = s.fixed := by
  unfold fwStore
  repeat' (first
    | with_reducible rfl
    | simp only [fixed_mk, fixed_fold, ite_fixed, ite_self, implies_true, fixed_storeNow]
    | refine (fixed_each _ _ (fun a s => ?_) _).trans ?_
    | split)

theorem fixed_runFrom (b : Bool) (r : FwRec) (s : State) : (runFrom b r s).fixed = s.fixed := by
  unfold runFrom
  repeat' (first
    | with_reducible rfl
    | simp only [fixed_mk, fixed_fold, ite_fixed, ite_self, implies_true, fixed_fwStore]
    | refine (fixed_each _ _ (fun a s => ?_) _).trans ?_
    | split)

theorem fixed_recoveryMode (okA okB : Bool) (s : State) : (recoveryMode okA okB s).fixed = s.fixed := by
  unfold recoveryMode
  repeat' (first
    | with_reducible rfl
    | simp only [fixed_mk, fixed_fold, ite_fixed, ite_self, implies_true, fixed_tellAtA]
    | refine (fixed_each _ _ (fun a s => ?_) _).trans ?_
    | split)

theorem fixed_jAtA (op digest result : Nat) (s : State) : (jAtA op digest result s).fixed = s.fixed := by
  unfold jAtA
  repeat' (first
    | with_reducible rfl
    | simp only [fixed_mk, fixed_fold, ite_fixed, ite_self, implies_true]
    | refine (fixed_each _ _ (fun a s => ?_) _).trans ?_
    | split)

theorem fixed_bootCandidate (r : FwRec) (s : State) : (bootCandidate r s).fixed = s.fixed := by
  unfold bootCandidate
  repeat' (first
    | with_reducible rfl
    | simp only [fixed_mk, fixed_fold, ite_fixed, ite_self, implies_true, fixed_jAtA, fixed_runFrom]
    | refine (fixed_each _ _ (fun a s => ?_) _).trans ?_
    | split)

theorem fixed_resolveIntent (s : State) : (resolveIntent s).fixed = s.fixed := by
  unfold resolveIntent
  repeat' (first
    | with_reducible rfl
    | simp only [fixed_mk, fixed_fold, ite_fixed, ite_self, implies_true, fixed_eraseAsk, fixed_nvWrite, fixed_tellAtA]
    | refine (fixed_each _ _ (fun a s => ?_) _).trans ?_
    | split)

theorem fixed_romScan (s : State) : (romScan s).fixed = s.fixed := by
  unfold romScan
  repeat' (first
    | with_reducible rfl
    | simp only [fixed_mk, fixed_fold, ite_fixed, ite_self, implies_true, fixed_tailDone]
    | refine (fixed_each _ _ (fun a s => ?_) _).trans ?_
    | split)

theorem fixed_recBoot (rejected : Nat) (s : State) : (recBoot rejected s).fixed = s.fixed := by
  unfold recBoot
  repeat' (first
    | with_reducible rfl
    | simp only [fixed_mk, fixed_fold, ite_fixed, ite_self, implies_true, fixed_tellAtA]
    | refine (fixed_each _ _ (fun a s => ?_) _).trans ?_
    | split)

theorem fixed_jrnBoot (s : State) : (jrnBoot s).fixed = s.fixed := by
  unfold jrnBoot
  repeat' (first
    | with_reducible rfl
    | simp only [fixed_mk, fixed_fold, ite_fixed, ite_self, implies_true]
    | refine (fixed_each _ _ (fun a s => ?_) _).trans ?_
    | split)

theorem fixed_countsBoot (s : State) : (countsBoot s).fixed = s.fixed := by
  unfold countsBoot
  repeat' (first
    | with_reducible rfl
    | simp only [fixed_mk, fixed_fold, ite_fixed, ite_self, implies_true, fixed_modRail, fixed_countUp, fixed_each]
    | refine (fixed_each _ _ (fun a s => ?_) _).trans ?_
    | split)

theorem fixed_chooseGen (s : State) : (chooseGen s).fixed = s.fixed := by
  unfold chooseGen
  repeat' (first
    | with_reducible rfl
    | simp only [fixed_mk, fixed_fold, ite_fixed, ite_self, implies_true, fixed_changeGen, fixed_jAtA, fixed_tellAtA]
    | refine (fixed_each _ _ (fun a s => ?_) _).trans ?_
    | split)

theorem fixed_emberRoom (s : State) : (emberRoom s).fixed = s.fixed := by
  unfold emberRoom
  repeat' (first
    | with_reducible rfl
    | simp only [fixed_mk, fixed_fold, ite_fixed, ite_self, implies_true, fixed_each, fixed_eraseAsk]
    | refine (fixed_each _ _ (fun a s => ?_) _).trans ?_
    | split)

theorem fixed_lockAutoOpen (s : State) : (lockAutoOpen s).fixed = s.fixed := by
  unfold lockAutoOpen
  repeat' (first
    | with_reducible rfl
    | simp only [fixed_mk, fixed_fold, ite_fixed, ite_self, implies_true, fixed_jInternal]
    | refine (fixed_each _ _ (fun a s => ?_) _).trans ?_
    | split)

theorem fixed_joinsBegin (s : State) : (joinsBegin s).fixed = s.fixed := by
  unfold joinsBegin
  repeat' (first
    | with_reducible rfl
    | simp only [fixed_mk, fixed_fold, ite_fixed, ite_self, implies_true]
    | refine (fixed_each _ _ (fun a s => ?_) _).trans ?_
    | split)

theorem fixed_onAfterA (s : State) : (onAfterA s).fixed = s.fixed := by
  unfold onAfterA
  repeat' (first
    | with_reducible rfl
    | simp only [fixed_mk, fixed_fold, ite_fixed, ite_self, implies_true, fixed_raise]
    | refine (fixed_each _ _ (fun a s => ?_) _).trans ?_
    | split)

theorem fixed_bootRun (s : State) : (bootRun s).fixed = s.fixed := by
  unfold bootRun
  repeat' (first
    | with_reducible rfl
    | simp only [fixed_mk, fixed_fold, ite_fixed, ite_self, implies_true, fixed_assertSysrst]
    | refine (fixed_each _ _ (fun a s => ?_) _).trans ?_
    | split)

theorem fixed_bootTell (p : Pwr) (s : State) : (bootTell p s).fixed = s.fixed := by
  unfold bootTell
  repeat' (first
    | with_reducible rfl
    | simp only [fixed_mk, fixed_fold, ite_fixed, ite_self, implies_true, fixed_each, fixed_jInternal, fixed_raise]
    | refine (fixed_each _ _ (fun a s => ?_) _).trans ?_
    | split)

theorem fixed_bootOnRequest (s : State) : (bootOnRequest s).fixed = s.fixed := by
  unfold bootOnRequest
  repeat' (first
    | with_reducible rfl
    | simp only [fixed_mk, fixed_fold, ite_fixed, ite_self, implies_true, fixed_emit, fixed_fullRestart,
        fixed_jInternal, fixed_onRequestNow]
    | refine (fixed_each _ _ (fun a s => ?_) _).trans ?_
    | split)

theorem fixed_supplyStep (k : Nat) (mv : Int) (s : State) : (supplyStep k mv s).fixed = s.fixed := by
  unfold supplyStep
  repeat' (first
    | with_reducible rfl
    | simp only [fixed_mk, fixed_fold, ite_fixed, ite_self, implies_true]
    | refine (fixed_each _ _ (fun a s => ?_) _).trans ?_
    | split)

theorem fixed_jobAnswer (j : Job) (s : State) : (jobAnswer j s).fixed = s.fixed := by
  unfold jobAnswer
  repeat' (first
    | with_reducible rfl
    | simp only [fixed_mk, fixed_fold, ite_fixed, ite_self, implies_true, fixed_finishAt]
    | refine (fixed_each _ _ (fun a s => ?_) _).trans ?_
    | split)

theorem fixed_jobDone (j : Job) (s : State) : (jobDone j s).fixed = s.fixed := by
  unfold jobDone
  repeat' (first
    | with_reducible rfl
    | simp only [fixed_mk, fixed_fold, ite_fixed, ite_self, implies_true, fixed_clearCommit, fixed_clearSlots,
        fixed_emberWritten, fixed_eraseAsk, fixed_jobAnswer, fixed_nvWrite, fixed_recordStored, fixed_releaseImages]
    | refine (fixed_each _ _ (fun a s => ?_) _).trans ?_
    | split)

theorem fixed_recordAgain (s : State) : (recordAgain s).fixed = s.fixed := by
  unfold recordAgain
  repeat' (first
    | with_reducible rfl
    | simp only [fixed_mk, fixed_fold, ite_fixed, ite_self, implies_true, fixed_ashRise, fixed_placeRecord]
    | refine (fixed_each _ _ (fun a s => ?_) _).trans ?_
    | split)

theorem fixed_tailEnd (s : State) : (tailEnd s).fixed = s.fixed := by
  unfold tailEnd
  repeat' (first
    | with_reducible rfl
    | simp only [fixed_mk, fixed_fold, ite_fixed, ite_self, implies_true, fixed_tailDone]
    | refine (fixed_each _ _ (fun a s => ?_) _).trans ?_
    | split)

theorem fixed_wordDone (s : State) : (wordDone s).fixed = s.fixed := by
  unfold wordDone
  repeat' (first
    | with_reducible rfl
    | simp only [fixed_mk, fixed_fold, ite_fixed, ite_self, implies_true, fixed_armWhen, fixed_fwAccepted,
        fixed_jobDone, fixed_programStep]
    | refine (fixed_each _ _ (fun a s => ?_) _).trans ?_
    | split)

theorem fixed_programDone (ok : Bool) (s : State) : (programDone ok s).fixed = s.fixed := by
  unfold programDone
  repeat' (first
    | with_reducible rfl
    | simp only [fixed_mk, fixed_fold, ite_fixed, ite_self, implies_true, fixed_fwDataFail, fixed_nvBegin,
        fixed_recordAgain, fixed_tailEnd, fixed_verifyFail, fixed_wordDone]
    | refine (fixed_each _ _ (fun a s => ?_) _).trans ?_
    | split)

end Sys2Proof.Machine
end

