-- ==== Sys2Proof/Laws/KeptHost.lean ====
section
/-! SUPPORT. Laws/KeptHost.lean: the same for host registers, rings, host commands and the boundary:
none touches the queue of commands, the frame counter, or the words of BAR0 that read back or are in force. One lemma
for each operation, cited in place of unfolding it. -/

set_option linter.all false
set_option linter.unusedSimpArgs false
set_option linter.unreachableTactic false
set_option linter.unusedTactic false

namespace Sys2Proof.Machine

theorem fixed_ringEnable (r : Nat) (on : Bool) (s : State) : (ringEnable r on s).fixed = s.fixed := by
  unfold ringEnable
  repeat' (first
    | with_reducible rfl
    | simp only [fixed_mk, fixed_fold, ite_fixed, ite_self, implies_true, fixed_modRing]
    | refine (fixed_each _ _ (fun a s => ?_) _).trans ?_
    | split)

theorem fixed_setupConv (old s : State) : (setupConv old s).fixed = s.fixed := by
  unfold setupConv
  repeat' (first
    | with_reducible rfl
    | simp only [fixed_mk, fixed_fold, ite_fixed, ite_self, implies_true, fixed_each, fixed_modEnt]
    | refine (fixed_each _ _ (fun a s => ?_) _).trans ?_
    | split)

theorem fixed_clearRstat (i v : Nat) (s : State) : (clearRstat i v s).fixed = s.fixed := by
  unfold clearRstat
  repeat' (first
    | with_reducible rfl
    | simp only [fixed_mk, fixed_fold, ite_fixed, ite_self, implies_true, fixed_modRail]
    | refine (fixed_each _ _ (fun a s => ?_) _).trans ?_
    | split)

theorem fixed_clearRef (p : Nat) (s : State) : (clearRef p s).fixed = s.fixed := by
  unfold clearRef
  repeat' (first
    | with_reducible rfl
    | simp only [fixed_mk, fixed_fold, ite_fixed, ite_self, implies_true, fixed_modRefm]
    | refine (fixed_each _ _ (fun a s => ?_) _).trans ?_
    | split)

theorem fixed_clearLeave (c lo v : Nat) (s : State) : (clearLeave c lo v s).fixed = s.fixed := by
  unfold clearLeave
  repeat' (first
    | with_reducible rfl
    | simp only [fixed_mk, fixed_fold, ite_fixed, ite_self, implies_true, fixed_modCore]
    | refine (fixed_each _ _ (fun a s => ?_) _).trans ?_
    | split)

theorem fixed_clearStage (st v : Nat) (s : State) : (clearStage st v s).fixed = s.fixed := by
  unfold clearStage
  repeat' (first
    | with_reducible rfl
    | simp only [fixed_mk, fixed_fold, ite_fixed, ite_self, implies_true, fixed_modStg]
    | refine (fixed_each _ _ (fun a s => ?_) _).trans ?_
    | split)

theorem fixed_writeW1c (o v : Nat) (s : State) : (writeW1c o v s).fixed = s.fixed := by
  unfold writeW1c
  repeat' (first
    | with_reducible rfl
    | simp only [fixed_mk, fixed_fold, ite_fixed, ite_self, implies_true, fixed_modMdac, fixed_clearLeave,
        fixed_clearRef, fixed_clearRstat, fixed_clearStage, fixed_when]
    | refine (fixed_each _ _ (fun a s => ?_) _).trans ?_
    | split)

theorem fixed_barAction (k o : Nat) (v : W32) (s : State) : (barAction k o v s).fixed = s.fixed := by
  unfold barAction
  repeat' (first
    | with_reducible rfl
    | simp only [fixed_mk, fixed_fold, ite_fixed, ite_self, implies_true, fixed_jAppend]
    | refine (fixed_each _ _ (fun a s => ?_) _).trans ?_
    | split)

theorem fixed_lockWrite (v : W32) (s : State) : (lockWrite v s).fixed = s.fixed := by
  unfold lockWrite
  repeat' (first
    | with_reducible rfl
    | simp only [fixed_mk, fixed_fold, ite_fixed, ite_self, implies_true, fixed_jInternal]
    | refine (fixed_each _ _ (fun a s => ?_) _).trans ?_
    | split)

theorem fixed_abortWrite (v : W32) (s : State) : (abortWrite v s).fixed = s.fixed := by
  unfold abortWrite
  repeat' (first
    | with_reducible rfl
    | simp only [fixed_mk, fixed_fold, ite_fixed, ite_self, implies_true, fixed_barAction]
    | refine (fixed_each _ _ (fun a s => ?_) _).trans ?_
    | split)

theorem fixed_ffWrite (v : W32) (s : State) : (ffWrite v s).fixed = s.fixed := by
  unfold ffWrite
  repeat' (first
    | with_reducible rfl
    | simp only [fixed_mk, fixed_fold, ite_fixed, ite_self, implies_true, fixed_barAction]
    | refine (fixed_each _ _ (fun a s => ?_) _).trans ?_
    | split)

theorem fixed_relWrite (v : W32) (s : State) : (relWrite v s).fixed = s.fixed := by
  unfold relWrite
  repeat' (first
    | with_reducible rfl
    | simp only [fixed_mk, fixed_fold, ite_fixed, ite_self, implies_true, fixed_barAction]
    | refine (fixed_each _ _ (fun a s => ?_) _).trans ?_
    | split)

theorem fixed_loadWrite (st : Nat) (v : W32) (s : State) : (loadWrite st v s).fixed = s.fixed := by
  unfold loadWrite
  repeat' (first
    | with_reducible rfl
    | simp only [fixed_mk, fixed_fold, ite_fixed, ite_self, implies_true, fixed_modStg, fixed_barAction]
    | refine (fixed_each _ _ (fun a s => ?_) _).trans ?_
    | split)

theorem fixed_loadClear (n : Nat) (v : W32) (s : State) : (loadClear n v s).fixed = s.fixed := by
  unfold loadClear
  repeat' (first
    | with_reducible rfl
    | simp only [fixed_mk, fixed_fold, ite_fixed, ite_self, implies_true, fixed_modEng]
    | refine (fixed_each _ _ (fun a s => ?_) _).trans ?_
    | split)

theorem fixed_cntSel (v : W32) (s : State) : (cntSel v s).fixed = s.fixed := by
  unfold cntSel
  repeat' (first
    | with_reducible rfl
    | simp only [fixed_mk, fixed_fold, ite_fixed, ite_self, implies_true]
    | refine (fixed_each _ _ (fun a s => ?_) _).trans ?_
    | split)

theorem fixed_wselWrite (v : W32) (s : State) : (wselWrite v s).fixed = s.fixed := by
  unfold wselWrite
  repeat' (first
    | with_reducible rfl
    | simp only [fixed_mk, fixed_fold, ite_fixed, ite_self, implies_true]
    | refine (fixed_each _ _ (fun a s => ?_) _).trans ?_
    | split)

theorem fixed_cselWrite (v : W32) (s : State) : (cselWrite v s).fixed = s.fixed := by
  unfold cselWrite
  repeat' (first
    | with_reducible rfl
    | simp only [fixed_mk, fixed_fold, ite_fixed, ite_self, implies_true]
    | refine (fixed_each _ _ (fun a s => ?_) _).trans ?_
    | split)

theorem fixed_popWrite (v : W32) (s : State) : (popWrite v s).fixed = s.fixed := by
  unfold popWrite
  repeat' (first
    | with_reducible rfl
    | simp only [fixed_mk, fixed_fold, ite_fixed, ite_self, implies_true]
    | refine (fixed_each _ _ (fun a s => ?_) _).trans ?_
    | split)

theorem fixed_rselWrite (v : W32) (s : State) : (rselWrite v s).fixed = s.fixed := by
  unfold rselWrite
  repeat' (first
    | with_reducible rfl
    | simp only [fixed_mk, fixed_fold, ite_fixed, ite_self, implies_true]
    | refine (fixed_each _ _ (fun a s => ?_) _).trans ?_
    | split)

theorem fixed_selections (s : State) : (selections s).fixed = s.fixed := by
  unfold selections
  repeat' (first
    | with_reducible rfl
    | simp only [fixed_mk, fixed_fold, ite_fixed, ite_self, implies_true]
    | refine (fixed_each _ _ (fun a s => ?_) _).trans ?_
    | split)

theorem fixed_writeAction (o : Nat) (v : W32) (s : State) : (writeAction o v s).fixed = s.fixed := by
  unfold writeAction
  repeat' (first
    | with_reducible rfl
    | simp only [fixed_mk, fixed_fold, ite_fixed, ite_self, implies_true, fixed_abortWrite, fixed_cntSel,
        fixed_cselWrite, fixed_ffWrite, fixed_loadClear, fixed_loadWrite, fixed_lockWrite, fixed_popWrite,
        fixed_relWrite, fixed_rselWrite, fixed_wselWrite]
    | refine (fixed_each _ _ (fun a s => ?_) _).trans ?_
    | split)

theorem fixed_badAccess (write : Bool) (a : Access) (v : W32) (s : State) : (badAccess write a v s).fixed = s.fixed := by
  unfold badAccess
  repeat' (first
    | with_reducible rfl
    | simp only [fixed_mk, fixed_fold, ite_fixed, ite_self, implies_true, fixed_emit, fixed_raise]
    | refine (fixed_each _ _ (fun a s => ?_) _).trans ?_
    | split)

theorem fixed_answerRead (o : Nat) (s : State) : (answerRead o s).fixed = s.fixed := by
  unfold answerRead
  repeat' (first
    | with_reducible rfl
    | simp only [fixed_mk, fixed_fold, ite_fixed, ite_self, implies_true, fixed_emit]
    | refine (fixed_each _ _ (fun a s => ?_) _).trans ?_
    | split)

theorem fixed_readFrame (cyc : Nat) (s : State) : (readFrame cyc s).fixed = s.fixed := by
  unfold readFrame
  repeat' (first
    | with_reducible rfl
    | simp only [fixed_mk, fixed_fold, ite_fixed, ite_self, implies_true, fixed_answerRead]
    | refine (fixed_each _ _ (fun a s => ?_) _).trans ?_
    | split)

theorem fixed_readJhead (s : State) : (readJhead s).fixed = s.fixed := by
  unfold readJhead
  repeat' (first
    | with_reducible rfl
    | simp only [fixed_mk, fixed_fold, ite_fixed, ite_self, implies_true, fixed_answerRead]
    | refine (fixed_each _ _ (fun a s => ?_) _).trans ?_
    | split)

theorem fixed_readJold (s : State) : (readJold s).fixed = s.fixed := by
  unfold readJold
  repeat' (first
    | with_reducible rfl
    | simp only [fixed_mk, fixed_fold, ite_fixed, ite_self, implies_true, fixed_answerRead]
    | refine (fixed_each _ _ (fun a s => ?_) _).trans ?_
    | split)

theorem fixed_readJmir (s : State) : (readJmir s).fixed = s.fixed := by
  unfold readJmir
  repeat' (first
    | with_reducible rfl
    | simp only [fixed_mk, fixed_fold, ite_fixed, ite_self, implies_true, fixed_answerRead]
    | refine (fixed_each _ _ (fun a s => ?_) _).trans ?_
    | split)

theorem fixed_readRes (e : Nat) (s : State) : (readRes e s).fixed = s.fixed := by
  unfold readRes
  repeat' (first
    | with_reducible rfl
    | simp only [fixed_mk, fixed_fold, ite_fixed, ite_self, implies_true, fixed_answerRead]
    | refine (fixed_each _ _ (fun a s => ?_) _).trans ?_
    | split)

theorem fixed_readWclog (s : State) : (readWclog s).fixed = s.fixed := by
  unfold readWclog
  repeat' (first
    | with_reducible rfl
    | simp only [fixed_mk, fixed_fold, ite_fixed, ite_self, implies_true, fixed_answerRead]
    | refine (fixed_each _ _ (fun a s => ?_) _).trans ?_
    | split)

theorem fixed_readHover (s : State) : (readHover s).fixed = s.fixed := by
  unfold readHover
  repeat' (first
    | with_reducible rfl
    | simp only [fixed_mk, fixed_fold, ite_fixed, ite_self, implies_true, fixed_answerRead]
    | refine (fixed_each _ _ (fun a s => ?_) _).trans ?_
    | split)

theorem fixed_msixWrite (o : Nat) (v : W32) (s : State) : (msixWrite o v s).fixed = s.fixed := by
  unfold msixWrite
  repeat' (first
    | with_reducible rfl
    | simp only [fixed_mk, fixed_fold, ite_fixed, ite_self, implies_true, fixed_modVec, fixed_releasePba]
    | refine (fixed_each _ _ (fun a s => ?_) _).trans ?_
    | split)

theorem fixed_discardStaged (s : State) : (discardStaged s).fixed = s.fixed := by
  unfold discardStaged
  repeat' (first
    | with_reducible rfl
    | simp only [fixed_mk, fixed_fold, ite_fixed, ite_self, implies_true, fixed_modRing, fixed_each]
    | refine (fixed_each _ _ (fun a s => ?_) _).trans ?_
    | split)

theorem fixed_ringHalt (r cause idx addr : Nat) (s : State) : (ringHalt r cause idx addr s).fixed = s.fixed := by
  unfold ringHalt
  repeat' (first
    | with_reducible rfl
    | simp only [fixed_mk, fixed_fold, ite_fixed, ite_self, implies_true, fixed_modRing, fixed_raise]
    | refine (fixed_each _ _ (fun a s => ?_) _).trans ?_
    | split)

theorem fixed_fetchMore (r : Nat) (s : State) : (fetchMore r s).fixed = s.fixed := by
  unfold fetchMore
  repeat' (first
    | with_reducible rfl
    | simp only [fixed_mk, fixed_fold, ite_fixed, ite_self, implies_true, fixed_modRing, fixed_emit]
    | refine (fixed_each _ _ (fun a s => ?_) _).trans ?_
    | split)

theorem fixed_doorbell (r : Nat) (v : W32) (s : State) : (doorbell r v s).fixed = s.fixed := by
  unfold doorbell
  repeat' (first
    | with_reducible rfl
    | simp only [fixed_mk, fixed_fold, ite_fixed, ite_self, implies_true, fixed_modRing, fixed_fetchMore,
        fixed_ringHalt]
    | refine (fixed_each _ _ (fun a s => ?_) _).trans ?_
    | split)

theorem fixed_fetchDone (r : Nat) (l : List Fetched) (s : State) : (fetchDone r l s).fixed = s.fixed := by
  induction l generalizing s with
  | nil =>
    unfold fetchDone
    repeat' (first
      | with_reducible rfl
      | simp only [fixed_mk, fixed_fold, ite_fixed, ite_self, implies_true, fixed_modRing, fixed_ringHalt]
      | refine (fixed_each _ _ (fun a s => ?_) _).trans ?_
      | split)
  | cons d l ih =>
    unfold fetchDone
    repeat' (first
      | with_reducible rfl
      | simp only [fixed_mk, fixed_fold, ite_fixed, ite_self, implies_true, ih, fixed_modRing, fixed_ringHalt]
      | refine (fixed_each _ _ (fun a s => ?_) _).trans ?_
      | split)

theorem fixed_acceptEntry (d : Desc) (src ring : Nat) (s : State) : (acceptEntry d src ring s).fixed = s.fixed := by
  unfold acceptEntry
  repeat' (first
    | with_reducible rfl
    | simp only [fixed_mk, fixed_fold, ite_fixed, ite_self, implies_true, fixed_jAppend]
    | refine (fixed_each _ _ (fun a s => ?_) _).trans ?_
    | split)

theorem fixed_acceptCmd (d : Desc) (src ring head : Nat) (s : State) : (acceptCmd d src ring head s).fixed = s.fixed := by
  unfold acceptCmd
  repeat' (first
    | with_reducible rfl
    | simp only [fixed_mk, fixed_fold, ite_fixed, ite_self, implies_true, fixed_acceptEntry]
    | refine (fixed_each _ _ (fun a s => ?_) _).trans ?_
    | split)

theorem fixed_takeOne (r : Nat) (d : Desc) (s : State) : (takeOne r d s).fixed = s.fixed := by
  unfold takeOne
  repeat' (first
    | with_reducible rfl
    | simp only [fixed_mk, fixed_fold, ite_fixed, ite_self, implies_true, fixed_modRing, fixed_acceptCmd,
        fixed_fetchMore]
    | refine (fixed_each _ _ (fun a s => ?_) _).trans ?_
    | split)

theorem fixed_takeDescs (n : Nat) (s : State) : (takeDescs n s).2.fixed = s.fixed := by
  induction n generalizing s with
  | zero => rfl
  | succ n ih =>
    unfold takeDescs
    repeat' (first
      | with_reducible rfl
      | simp only [fixed_mk, fixed_fold, ite_fixed, ite_self, implies_true, ih, fixed_takeOne]
      | refine (fixed_each _ _ (fun a s => ?_) _).trans ?_
      | split)

theorem fixed_ringService (s : State) : (ringService s).2.fixed = s.fixed := by
  unfold ringService
  repeat' (first
    | with_reducible rfl
    | simp only [fixed_mk, fixed_fold, ite_fixed, ite_self, implies_true, fixed_takeDescs]
    | refine (fixed_each _ _ (fun a s => ?_) _).trans ?_
    | split)

theorem fixed_dropCompl (c : Compl) (s : State) : (dropCompl c s).fixed = s.fixed := by
  unfold dropCompl
  repeat' (first
    | with_reducible rfl
    | simp only [fixed_mk, fixed_fold, ite_fixed, ite_self, implies_true, fixed_modRing]
    | refine (fixed_each _ _ (fun a s => ?_) _).trans ?_
    | split)

theorem fixed_writeEntryTo (failed : List Nat) (r : Nat) (vec : Option Nat) (v : BitVec 256) (s : State) : (writeEntryTo
    failed r vec v s).fixed = s.fixed := by
  unfold writeEntryTo
  repeat' (first
    | with_reducible rfl
    | simp only [fixed_mk, fixed_fold, ite_fixed, ite_self, implies_true, fixed_ringHalt, fixed_ringPut]
    | refine (fixed_each _ _ (fun a s => ?_) _).trans ?_
    | split)

theorem fixed_postCompl (failed : List Nat) (c : Compl) (s : State) : (postCompl failed c s).fixed = s.fixed := by
  unfold postCompl
  repeat' (first
    | with_reducible rfl
    | simp only [fixed_mk, fixed_fold, ite_fixed, ite_self, implies_true, fixed_dropCompl, fixed_writeEntryTo]
    | refine (fixed_each _ _ (fun a s => ?_) _).trans ?_
    | split)

theorem fixed_postCompls (failed : List Nat) (n : Nat) (s : State) : (postCompls failed n s).2.fixed = s.fixed := by
  induction n generalizing s with
  | zero => rfl
  | succ n ih =>
    unfold postCompls
    repeat' (first
      | with_reducible rfl
      | simp only [fixed_mk, fixed_fold, ite_fixed, ite_self, implies_true, ih, fixed_postCompl]
      | refine (fixed_each _ _ (fun a s => ?_) _).trans ?_
      | split)

theorem fixed_holdOcc (o : Occ) (s : State) : (holdOcc o s).fixed = s.fixed := by
  unfold holdOcc
  repeat' (first
    | with_reducible rfl
    | simp only [fixed_mk, fixed_fold, ite_fixed, ite_self, implies_true, fixed_modRing]
    | refine (fixed_each _ _ (fun a s => ?_) _).trans ?_
    | split)

theorem fixed_eventList (s : State) : (eventList s).2.fixed = s.fixed := by
  unfold eventList
  repeat' (first
    | with_reducible rfl
    | simp only [fixed_mk, fixed_fold, ite_fixed, ite_self, implies_true, fixed_each, fixed_holdOcc]
    | refine (fixed_each _ _ (fun a s => ?_) _).trans ?_
    | split)

theorem fixed_postEvents (failed : List Nat) (n : Nat) (l : List Occ) (s : State) : (postEvents failed n l s).2.2.fixed =
    s.fixed := by
  induction n generalizing l s with
  | zero => rfl
  | succ n ih =>
    cases l with
    | nil => rfl
    | cons o l =>
      unfold postEvents
      repeat' (first
        | with_reducible rfl
        | simp only [fixed_mk, fixed_fold, ite_fixed, ite_self, implies_true, ih, fixed_writeEntryTo]
        | refine (fixed_each _ _ (fun a s => ?_) _).trans ?_
        | split)

theorem fixed_postAll (failed : List Nat) (s : State) : (postAll failed s).2.fixed = s.fixed := by
  unfold postAll
  repeat' (first
    | with_reducible rfl
    | simp only [fixed_mk, fixed_fold, ite_fixed, ite_self, implies_true, fixed_each, fixed_eventList, fixed_holdOcc,
        fixed_postCompls, fixed_postEvents]
    | refine (fixed_each _ _ (fun a s => ?_) _).trans ?_
    | split)

theorem fixed_writeback (s : State) : (writeback s).fixed = s.fixed := by
  unfold writeback
  repeat' (first
    | with_reducible rfl
    | simp only [fixed_mk, fixed_fold, ite_fixed, ite_self, implies_true, fixed_each, fixed_emit, fixed_ringHalt]
    | refine (fixed_each _ _ (fun a s => ?_) _).trans ?_
    | split)

theorem fixed_vecSignal (v : Nat) (s : State) : (vecSignal v s).fixed = s.fixed := by
  unfold vecSignal
  repeat' (first
    | with_reducible rfl
    | simp only [fixed_mk, fixed_fold, ite_fixed, ite_self, implies_true, fixed_signalVec]
    | refine (fixed_each _ _ (fun a s => ?_) _).trans ?_
    | split)

theorem fixed_frameMessages (s : State) : (frameMessages s).fixed = s.fixed := by
  unfold frameMessages
  repeat' (first
    | with_reducible rfl
    | simp only [fixed_mk, fixed_fold, ite_fixed, ite_self, implies_true, fixed_each, fixed_signalVec, fixed_vecSignal]
    | refine (fixed_each _ _ (fun a s => ?_) _).trans ?_
    | split)

theorem fixed_hostFrameEnd (s : State) : (hostFrameEnd s).fixed = s.fixed := by
  unfold hostFrameEnd
  repeat' (first
    | with_reducible rfl
    | simp only [fixed_mk, fixed_fold, ite_fixed, ite_self, implies_true, fixed_each, fixed_frameMessages,
        fixed_holdOcc, fixed_writeback]
    | refine (fixed_each _ _ (fun a s => ?_) _).trans ?_
    | split)

theorem fixed_readyDrop (old : Frame) (s : State) : (readyDrop old s).fixed = s.fixed := by
  unfold readyDrop
  repeat' (first
    | with_reducible rfl
    | simp only [fixed_mk, fixed_fold, ite_fixed, ite_self, implies_true, fixed_modRing, fixed_dropCompl, fixed_each]
    | refine (fixed_each _ _ (fun a s => ?_) _).trans ?_
    | split)

theorem fixed_masterEnable (on : Bool) (s : State) : (masterEnable on s).fixed = s.fixed := by
  unfold masterEnable
  repeat' (first
    | with_reducible rfl
    | simp only [fixed_mk, fixed_fold, ite_fixed, ite_self, implies_true, fixed_each, fixed_fetchMore, fixed_releasePba]
    | refine (fixed_each _ _ (fun a s => ?_) _).trans ?_
    | split)

theorem fixed_modExpiry (v : Nat) (s : State) : (modExpiry v s).fixed = s.fixed := by
  unfold modExpiry
  repeat' (first
    | with_reducible rfl
    | simp only [fixed_mk, fixed_fold, ite_fixed, ite_self, implies_true, fixed_vecSignal]
    | refine (fixed_each _ _ (fun a s => ?_) _).trans ?_
    | split)

theorem fixed_clearCounts (s : State) : (clearCounts s).fixed = s.fixed := by
  unfold clearCounts
  repeat' (first
    | with_reducible rfl
    | simp only [fixed_mk, fixed_fold, ite_fixed, ite_self, implies_true, fixed_modGrp, fixed_each]
    | refine (fixed_each _ _ (fun a s => ?_) _).trans ?_
    | split)

theorem fixed_cmdPowerOn (l : Live) (s : State) : (cmdPowerOn l s).fixed = s.fixed := by
  have e : cmdPowerOn l s =
      if joining s then park l.seq .domainUp { s with pwr := { s.pwr with heldOn := true } }
      else if (onRequest s).1 = 2 then finish l.seq stAlready 0 s
      else
        let t := clearCounts (park l.seq .domainUp (onRequest s).2)
        { t with flt := { t.flt with restarts := 0, restartExh := false, restartLeft := none } } := by
    unfold cmdPowerOn; rfl
  have h2 (t : State) (h : t.fixed = s.fixed) :
      ({ t with flt := { t.flt with restarts := 0, restartExh := false, restartLeft := none } } : State).fixed = s.fixed := h
  rw [e]
  split
  · exact fixed_park _ _ _
  · split
    · exact fixed_finish _ _ _ _
    · exact h2 _ ((fixed_clearCounts _).trans ((fixed_park _ _ _).trans (fixed_onRequest _)))

theorem fixed_cmdPowerOff (l : Live) (s : State) : (cmdPowerOff l s).fixed = s.fixed := by
  unfold cmdPowerOff
  repeat' (first
    | with_reducible rfl
    | simp only [fixed_mk, fixed_fold, ite_fixed, ite_self, implies_true, fixed_cancelRestarts, fixed_clearCounts,
        fixed_finish, fixed_offRequest, fixed_park, fixed_toMembers]
    | refine (fixed_each _ _ (fun a s => ?_) _).trans ?_
    | split)

theorem fixed_cmdGroupOff (l : Live) (s : State) : (cmdGroupOff l s).fixed = s.fixed := by
  unfold cmdGroupOff
  repeat' (first
    | with_reducible rfl
    | simp only [fixed_mk, fixed_fold, ite_fixed, ite_self, implies_true, fixed_cancelRestarts, fixed_finish,
        fixed_offRequest, fixed_park, fixed_toMembers]
    | refine (fixed_each _ _ (fun a s => ?_) _).trans ?_
    | split)

theorem fixed_cmdProgLaunch (l : Live) (s : State) : (cmdProgLaunch l s).fixed = s.fixed := by
  unfold cmdProgLaunch
  repeat' (first
    | with_reducible rfl
    | simp only [fixed_mk, fixed_fold, ite_fixed, ite_self, implies_true, fixed_finish, fixed_park, fixed_progLaunch]
    | refine (fixed_each _ _ (fun a s => ?_) _).trans ?_
    | split)

theorem fixed_abortEach (s : State) : (abortEach s).2.fixed = s.fixed := by
  unfold abortEach
  repeat' (first
    | with_reducible rfl
    | simp only [fixed_mk, fixed_fold, ite_fixed, ite_self, implies_true, fixed_abortAll]
    | refine (fixed_each _ _ (fun a s => ?_) _).trans ?_
    | split)

theorem fixed_cmdProgAbort (l : Live) (s : State) : (cmdProgAbort l s).fixed = s.fixed := by
  unfold cmdProgAbort
  repeat' (first
    | with_reducible rfl
    | simp only [fixed_mk, fixed_fold, ite_fixed, ite_self, implies_true, fixed_abortEach, fixed_abortProg,
        fixed_finish]
    | refine (fixed_each _ _ (fun a s => ?_) _).trans ?_
    | split)

theorem fixed_mirrorWord (e : List (Nat × Nat)) (w : Nat) (s : State) : (mirrorWord e w s).fixed = s.fixed := by
  unfold mirrorWord
  repeat' (first
    | with_reducible rfl
    | simp only [fixed_mk, fixed_fold, ite_fixed, ite_self, implies_true, fixed_partWrite, fixed_wcWritten]
    | refine (fixed_each _ _ (fun a s => ?_) _).trans ?_
    | refine (fixed_partWrite _ _ _ _ _ _ (fun _ => ?_)).trans ?_
    | split)

theorem fixed_revertWord (w : Nat) (s : State) : (revertWord w s).fixed = s.fixed := by
  unfold revertWord
  repeat' (first
    | with_reducible rfl
    | simp only [fixed_mk, fixed_fold, ite_fixed, ite_self, implies_true, fixed_wcWritten]
    | refine (fixed_each _ _ (fun a s => ?_) _).trans ?_
    | split)

theorem fixed_editMirror (l : Live) (w : Wait) (e : List (Nat × Nat)) (s : State) : (editMirror l w e s).fixed = s.fixed :=
    by
  unfold editMirror
  repeat' (first
    | with_reducible rfl
    | simp only [fixed_mk, fixed_fold, ite_fixed, ite_self, implies_true, fixed_each, fixed_finish, fixed_mirrorWord,
        fixed_park, fixed_revertWord]
    | refine (fixed_each _ _ (fun a s => ?_) _).trans ?_
    | split)

theorem fixed_cmdProgLoad (l : Live) (s : State) : (cmdProgLoad l s).fixed = s.fixed := by
  unfold cmdProgLoad
  repeat' (first
    | with_reducible rfl
    | simp only [fixed_mk, fixed_fold, ite_fixed, ite_self, implies_true, fixed_editMirror, fixed_finish]
    | refine (fixed_each _ _ (fun a s => ?_) _).trans ?_
    | split)

theorem fixed_commitWords (l : List Nat) (s : State) : (commitWords l s).fixed = s.fixed := by
  unfold commitWords
  repeat' (first
    | with_reducible rfl
    | simp only [fixed_mk, fixed_fold, ite_fixed, ite_self, implies_true, fixed_each, fixed_fromMirror, fixed_wcWritten]
    | refine (fixed_each _ _ (fun a s => ?_) _).trans ?_
    | split)

theorem fixed_cmdGraphLoad (l : Live) (s : State) : (cmdGraphLoad l s).fixed = s.fixed := by
  unfold cmdGraphLoad
  repeat' (first
    | with_reducible rfl
    | simp only [fixed_mk, fixed_fold, ite_fixed, ite_self, implies_true, fixed_editMirror, fixed_finish]
    | refine (fixed_each _ _ (fun a s => ?_) _).trans ?_
    | split)

theorem fixed_commitGraph (l : Live) (s : State) : (commitGraph l s).fixed = s.fixed := by
  unfold commitGraph
  repeat' (first
    | with_reducible rfl
    | simp only [fixed_mk, fixed_fold, ite_fixed, ite_self, implies_true, fixed_commitWords, fixed_each, fixed_finish,
        fixed_revertWord]
    | refine (fixed_each _ _ (fun a s => ?_) _).trans ?_
    | split)

theorem fixed_cmdFlagsSet (l : Live) (s : State) : (cmdFlagsSet l s).fixed = s.fixed := by
  unfold cmdFlagsSet
  repeat' (first
    | with_reducible rfl
    | simp only [fixed_mk, fixed_fold, ite_fixed, ite_self, implies_true, fixed_finish]
    | refine (fixed_each _ _ (fun a s => ?_) _).trans ?_
    | split)

theorem fixed_cmdRetryCancel (l : Live) (s : State) : (cmdRetryCancel l s).fixed = s.fixed := by
  unfold cmdRetryCancel
  repeat' (first
    | with_reducible rfl
    | simp only [fixed_mk, fixed_fold, ite_fixed, ite_self, implies_true, fixed_cancelRetry, fixed_each, fixed_finish]
    | refine (fixed_each _ _ (fun a s => ?_) _).trans ?_
    | split)

theorem fixed_cmdMargin (l : Live) (s : State) : (cmdMargin l s).fixed = s.fixed := by
  unfold cmdMargin
  repeat' (first
    | with_reducible rfl
    | simp only [fixed_mk, fixed_fold, ite_fixed, ite_self, implies_true, fixed_finish, fixed_park]
    | refine (fixed_each _ _ (fun a s => ?_) _).trans ?_
    | split)

theorem fixed_cmdFfClear (l : Live) (s : State) : (cmdFfClear l s).fixed = s.fixed := by
  unfold cmdFfClear
  repeat' (first
    | with_reducible rfl
    | simp only [fixed_mk, fixed_fold, ite_fixed, ite_self, implies_true, fixed_ffClearNow, fixed_finish]
    | refine (fixed_each _ _ (fun a s => ?_) _).trans ?_
    | split)

theorem fixed_cmdSysrst (l : Live) (s : State) : (cmdSysrst l s).fixed = s.fixed := by
  unfold cmdSysrst
  repeat' (first
    | with_reducible rfl
    | simp only [fixed_mk, fixed_fold, ite_fixed, ite_self, implies_true, fixed_finish, fixed_sysrstOff]
    | refine (fixed_each _ _ (fun a s => ?_) _).trans ?_
    | split)

theorem fixed_cmdStageStart (l : Live) (s : State) : (cmdStageStart l s).fixed = s.fixed := by
  unfold cmdStageStart
  repeat' (first
    | with_reducible rfl
    | simp only [fixed_mk, fixed_fold, ite_fixed, ite_self, implies_true, fixed_finish, fixed_park]
    | refine (fixed_each _ _ (fun a s => ?_) _).trans ?_
    | split)

theorem fixed_cmdStageStop (l : Live) (s : State) : (cmdStageStop l s).fixed = s.fixed := by
  unfold cmdStageStop
  repeat' (first
    | with_reducible rfl
    | simp only [fixed_mk, fixed_fold, ite_fixed, ite_self, implies_true, fixed_finish, fixed_stageStopNow]
    | refine (fixed_each _ _ (fun a s => ?_) _).trans ?_
    | split)

theorem fixed_cmdStageClear (l : Live) (s : State) : (cmdStageClear l s).fixed = s.fixed := by
  unfold cmdStageClear
  repeat' (first
    | with_reducible rfl
    | simp only [fixed_mk, fixed_fold, ite_fixed, ite_self, implies_true, fixed_finish, fixed_stageClearNow]
    | refine (fixed_each _ _ (fun a s => ?_) _).trans ?_
    | split)

theorem fixed_cmdConvStart (l : Live) (s : State) : (cmdConvStart l s).fixed = s.fixed := by
  unfold cmdConvStart
  repeat' (first
    | with_reducible rfl
    | simp only [fixed_mk, fixed_fold, ite_fixed, ite_self, implies_true, fixed_finish, fixed_park, fixed_startSeq]
    | refine (fixed_each _ _ (fun a s => ?_) _).trans ?_
    | split)

theorem fixed_cmdConvUrgent (l : Live) (s : State) : (cmdConvUrgent l s).fixed = s.fixed := by
  unfold cmdConvUrgent
  repeat' (first
    | with_reducible rfl
    | simp only [fixed_mk, fixed_fold, ite_fixed, ite_self, implies_true, fixed_finish, fixed_fireUrgent, fixed_park]
    | refine (fixed_each _ _ (fun a s => ?_) _).trans ?_
    | split)

theorem fixed_cmdConvCal (l : Live) (s : State) : (cmdConvCal l s).fixed = s.fixed := by
  unfold cmdConvCal
  repeat' (first
    | with_reducible rfl
    | simp only [fixed_mk, fixed_fold, ite_fixed, ite_self, implies_true, fixed_finish, fixed_nvwpRefuse, fixed_park,
        fixed_raise]
    | refine (fixed_each _ _ (fun a s => ?_) _).trans ?_
    | split)

theorem fixed_nvwpEnd (l : Live) (s : State) : (nvwpEnd l s).fixed = s.fixed := by
  unfold nvwpEnd
  repeat' (first
    | with_reducible rfl
    | simp only [fixed_mk, fixed_fold, ite_fixed, ite_self, implies_true, fixed_finish, fixed_nvwpRefuse]
    | refine (fixed_each _ _ (fun a s => ?_) _).trans ?_
    | split)

theorem fixed_pendImage (im : Image) (l : Live) (s : State) : (pendImage im l s).fixed = s.fixed := by
  unfold pendImage
  repeat' (first
    | with_reducible rfl
    | simp only [fixed_mk, fixed_fold, ite_fixed, ite_self, implies_true, fixed_changeGen, fixed_park, fixed_writeImage]
    | refine (fixed_each _ _ (fun a s => ?_) _).trans ?_
    | split)

theorem fixed_cmdConfigLoad (l : Live) (s : State) : (cmdConfigLoad l s).fixed = s.fixed := by
  unfold cmdConfigLoad
  repeat' (first
    | with_reducible rfl
    | simp only [fixed_mk, fixed_fold, ite_fixed, ite_self, implies_true, fixed_finish, fixed_fwEvent, fixed_nvwpEnd,
        fixed_pendImage]
    | refine (fixed_each _ _ (fun a s => ?_) _).trans ?_
    | split)

theorem fixed_cmdConfigCapture (l : Live) (s : State) : (cmdConfigCapture l s).fixed = s.fixed := by
  unfold cmdConfigCapture
  repeat' (first
    | with_reducible rfl
    | simp only [fixed_mk, fixed_fold, ite_fixed, ite_self, implies_true, fixed_finish, fixed_nvwpEnd, fixed_pendImage]
    | refine (fixed_each _ _ (fun a s => ?_) _).trans ?_
    | split)

theorem fixed_cmdConfigConfirm (l : Live) (s : State) : (cmdConfigConfirm l s).fixed = s.fixed := by
  unfold cmdConfigConfirm
  repeat' (first
    | with_reducible rfl
    | simp only [fixed_mk, fixed_fold, ite_fixed, ite_self, implies_true, fixed_confirmGen, fixed_finish, fixed_park]
    | refine (fixed_each _ _ (fun a s => ?_) _).trans ?_
    | split)

theorem fixed_bufferEnd (l : Live) (bytes : List Byte) (res : Nat) (s : State) : (bufferEnd l bytes res s).fixed = s.fixed
    := by
  unfold bufferEnd
  repeat' (first
    | with_reducible rfl
    | simp only [fixed_mk, fixed_fold, ite_fixed, ite_self, implies_true, fixed_emit, fixed_finish]
    | refine (fixed_each _ _ (fun a s => ?_) _).trans ?_
    | split)

theorem fixed_cmdJournalRead (l : Live) (s : State) : (cmdJournalRead l s).fixed = s.fixed := by
  unfold cmdJournalRead
  repeat' (first
    | with_reducible rfl
    | simp only [fixed_mk, fixed_fold, ite_fixed, ite_self, implies_true, fixed_bufferEnd, fixed_each, fixed_finish,
        fixed_readWord]
    | refine (fixed_each _ _ (fun a s => ?_) _).trans ?_
    | split)

theorem fixed_cmdAlogRead (l : Live) (s : State) : (cmdAlogRead l s).fixed = s.fixed := by
  unfold cmdAlogRead
  repeat' (first
    | with_reducible rfl
    | simp only [fixed_mk, fixed_fold, ite_fixed, ite_self, implies_true, fixed_bufferEnd, fixed_finish]
    | refine (fixed_each _ _ (fun a s => ?_) _).trans ?_
    | split)

theorem fixed_cmdCountersRead (l : Live) (s : State) : (cmdCountersRead l s).fixed = s.fixed := by
  unfold cmdCountersRead
  repeat' (first
    | with_reducible rfl
    | simp only [fixed_mk, fixed_fold, ite_fixed, ite_self, implies_true, fixed_bufferEnd, fixed_finish]
    | refine (fixed_each _ _ (fun a s => ?_) _).trans ?_
    | split)

theorem fixed_cmdStateRead (l : Live) (s : State) : (cmdStateRead l s).fixed = s.fixed := by
  unfold cmdStateRead
  repeat' (first
    | with_reducible rfl
    | simp only [fixed_mk, fixed_fold, ite_fixed, ite_self, implies_true, fixed_bufferEnd, fixed_finish]
    | refine (fixed_each _ _ (fun a s => ?_) _).trans ?_
    | split)

theorem fixed_cmdRecRead (l : Live) (s : State) : (cmdRecRead l s).fixed = s.fixed := by
  unfold cmdRecRead
  repeat' (first
    | with_reducible rfl
    | simp only [fixed_mk, fixed_fold, ite_fixed, ite_self, implies_true, fixed_bufferEnd, fixed_finish]
    | refine (fixed_each _ _ (fun a s => ?_) _).trans ?_
    | split)

theorem fixed_cmdRecFreeze (l : Live) (s : State) : (cmdRecFreeze l s).fixed = s.fixed := by
  unfold cmdRecFreeze
  repeat' (first
    | with_reducible rfl
    | simp only [fixed_mk, fixed_fold, ite_fixed, ite_self, implies_true, fixed_finish, fixed_freeze, fixed_thaw]
    | refine (fixed_each _ _ (fun a s => ?_) _).trans ?_
    | split)

theorem fixed_cmdRecChallenge (l : Live) (s : State) : (cmdRecChallenge l s).fixed = s.fixed := by
  unfold cmdRecChallenge
  repeat' (first
    | with_reducible rfl
    | simp only [fixed_mk, fixed_fold, ite_fixed, ite_self, implies_true, fixed_finish]
    | refine (fixed_each _ _ (fun a s => ?_) _).trans ?_
    | split)

theorem fixed_cmdRecClear (l : Live) (s : State) : (cmdRecClear l s).fixed = s.fixed := by
  unfold cmdRecClear
  repeat' (first
    | with_reducible rfl
    | simp only [fixed_mk, fixed_fold, ite_fixed, ite_self, implies_true, fixed_finish, fixed_nvWrite, fixed_nvwpEnd,
        fixed_park, fixed_raise]
    | refine (fixed_each _ _ (fun a s => ?_) _).trans ?_
    | split)

theorem fixed_cmdTagWrite (l : Live) (s : State) : (cmdTagWrite l s).fixed = s.fixed := by
  unfold cmdTagWrite
  repeat' (first
    | with_reducible rfl
    | simp only [fixed_mk, fixed_fold, ite_fixed, ite_self, implies_true, fixed_finish, fixed_nvWrite, fixed_nvwpEnd,
        fixed_park]
    | refine (fixed_each _ _ (fun a s => ?_) _).trans ?_
    | split)

theorem fixed_cmdTagRead (l : Live) (s : State) : (cmdTagRead l s).fixed = s.fixed := by
  unfold cmdTagRead
  repeat' (first
    | with_reducible rfl
    | simp only [fixed_mk, fixed_fold, ite_fixed, ite_self, implies_true, fixed_bufferEnd, fixed_finish]
    | refine (fixed_each _ _ (fun a s => ?_) _).trans ?_
    | split)

theorem fixed_cmdHandover (l : Live) (s : State) : (cmdHandover l s).fixed = s.fixed := by
  unfold cmdHandover
  repeat' (first
    | with_reducible rfl
    | simp only [fixed_mk, fixed_fold, ite_fixed, ite_self, implies_true, fixed_finish, fixed_park]
    | refine (fixed_each _ _ (fun a s => ?_) _).trans ?_
    | split)

theorem fixed_barEffect (l : Live) (s : State) : (barEffect l s).fixed = s.fixed := by
  unfold barEffect
  repeat' (first
    | with_reducible rfl
    | simp only [fixed_mk, fixed_fold, ite_fixed, ite_self, implies_true, fixed_abortEach, fixed_commitCoef,
        fixed_ffClearNow, fixed_finish, fixed_sysrstOff]
    | refine (fixed_each _ _ (fun a s => ?_) _).trans ?_
    | split)

theorem fixed_startedPost (q : Nat) (s : State) : (startedPost q s).fixed = s.fixed := by
  unfold startedPost
  repeat' (first
    | with_reducible rfl
    | simp only [fixed_mk, fixed_fold, ite_fixed, ite_self, implies_true]
    | refine (fixed_each _ _ (fun a s => ?_) _).trans ?_
    | split)

theorem fixed_relayOut (d : Desc) (s : State) : (relayOut d s).fixed = s.fixed := by
  unfold relayOut
  repeat' (first
    | with_reducible rfl
    | simp only [fixed_mk, fixed_fold, ite_fixed, ite_self, implies_true, fixed_emit]
    | refine (fixed_each _ _ (fun a s => ?_) _).trans ?_
    | split)

theorem fixed_portUpNow (p peer role rtt delay : Nat) (sameRow active : Bool) (fw : Nat) (s : State) : (portUpNow p peer
    role rtt delay sameRow active fw s).fixed = s.fixed := by
  unfold portUpNow
  repeat' (first
    | with_reducible rfl
    | simp only [fixed_mk, fixed_fold, ite_fixed, ite_self, implies_true, fixed_fwEvent, fixed_fwExpiry, fixed_portUp]
    | refine (fixed_each _ _ (fun a s => ?_) _).trans ?_
    | split)

theorem fixed_relayRow (f : LFrame) (r : Nat × Nat × Nat × Nat) (s : State) : (relayRow f r s).fixed = s.fixed := by
  unfold relayRow
  repeat' (first
    | with_reducible rfl
    | simp only [fixed_mk, fixed_fold, ite_fixed, ite_self, implies_true, fixed_modRnode, fixed_sendOn]
    | refine (fixed_each _ _ (fun a s => ?_) _).trans ?_
    | split)

theorem fixed_relayKind (f : LFrame) (kind : Nat) (s : State) : (relayKind f kind s).fixed = s.fixed := by
  unfold relayKind
  repeat' (first
    | with_reducible rfl
    | simp only [fixed_mk, fixed_fold, ite_fixed, ite_self, implies_true, fixed_raiseSev, fixed_rowFirst, fixed_sendOn]
    | refine (fixed_each _ _ (fun a s => ?_) _).trans ?_
    | split)

theorem fixed_relayNow (f : LFrame) (cmd : Option Desc) (row : Option (Nat × Nat × Nat × Nat)) (kind : Nat) (s : State) :
    (relayNow f cmd row kind s).fixed = s.fixed := by
  unfold relayNow
  repeat' (first
    | with_reducible rfl
    | simp only [fixed_mk, fixed_fold, ite_fixed, ite_self, implies_true, fixed_acceptCmd, fixed_receive,
        fixed_relayKind, fixed_relayRow]
    | refine (fixed_each _ _ (fun a s => ?_) _).trans ?_
    | refine (fixed_receive _ _ _ (fun _ => ?_)).trans ?_
    | split)

theorem fixed_classSyncNow (s : State) : (classSyncNow s).fixed = s.fixed := by
  unfold classSyncNow
  repeat' (first
    | with_reducible rfl
    | simp only [fixed_mk, fixed_fold, ite_fixed, ite_self, implies_true, fixed_syncExpire]
    | refine (fixed_each _ _ (fun a s => ?_) _).trans ?_
    | split)

theorem fixed_frameEnd (b : BoundaryIn) (s : State) : (frameEnd b s).fixed = s.fixed := by
  unfold frameEnd
  repeat' (first
    | with_reducible rfl
    | simp only [fixed_mk, fixed_fold, ite_fixed, ite_self, implies_true, fixed_each, fixed_engineEnd,
        fixed_hostFrameEnd, fixed_wordFrame, fixed_xferEnd]
    | refine (fixed_each _ _ (fun a s => ?_) _).trans ?_
    | split)

theorem fixed_endFrame (b : BoundaryIn) (s : State) : (endFrame b s).fixed = s.fixed := by
  unfold endFrame
  repeat' (first
    | with_reducible rfl
    | simp only [fixed_mk, fixed_fold, ite_fixed, ite_self, implies_true, fixed_each, fixed_frameEnd, fixed_upset,
        fixed_wordFrame]
    | refine (fixed_each _ _ (fun a s => ?_) _).trans ?_
    | split)

theorem fixed_clearNow (s : State) : (clearNow s).fixed = s.fixed := by
  unfold clearNow
  repeat' (first
    | with_reducible rfl
    | simp only [fixed_mk, fixed_fold, ite_fixed, ite_self, implies_true, fixed_modCore, fixed_modMdac, fixed_modRail,
        fixed_modRefm, fixed_modStg, fixed_each]
    | refine (fixed_each _ _ (fun a s => ?_) _).trans ?_
    | split)

theorem fixed_pendingStep (s : State) : (pendingStep s).fixed = s.fixed := by
  unfold pendingStep
  repeat' (first
    | with_reducible rfl
    | simp only [fixed_mk, fixed_fold, ite_fixed, ite_self, implies_true, fixed_domainOn, fixed_each]
    | refine (fixed_each _ _ (fun a s => ?_) _).trans ?_
    | split)

theorem fixed_railSamples (b : BoundaryIn) (i : Nat) (s : State) : (railSamples b i s).fixed = s.fixed := by
  unfold railSamples
  repeat' (first
    | with_reducible rfl
    | simp only [fixed_mk, fixed_fold, ite_fixed, ite_self, implies_true, fixed_countIlim, fixed_debounce,
        fixed_goodTicks, fixed_goodTicksActs, fixed_judgeLate, fixed_judgePg, fixed_judgeStuck, fixed_railTimers,
        fixed_readback, fixed_samplePg]
    | refine (fixed_each _ _ (fun a s => ?_) _).trans ?_
    | split)

theorem fixed_order2 (b : BoundaryIn) (s : State) : (order2 b s).fixed = s.fixed := by
  unfold order2
  repeat' (first
    | with_reducible rfl
    | simp only [fixed_mk, fixed_fold, ite_fixed, ite_self, implies_true, fixed_countWindows, fixed_each,
        fixed_ownStep, fixed_railSamples, fixed_sampleVio, fixed_stageView]
    | refine (fixed_each _ _ (fun a s => ?_) _).trans ?_
    | split)

theorem fixed_watchdogStep (b : BoundaryIn) (s : State) : (watchdogStep b s).fixed = s.fixed := by
  unfold watchdogStep
  repeat' (first
    | with_reducible rfl
    | simp only [fixed_mk, fixed_fold, ite_fixed, ite_self, implies_true, fixed_each, fixed_graceStep, fixed_stgFound,
        fixed_trayExpiry, fixed_watchdogCount]
    | refine (fixed_each _ _ (fun a s => ?_) _).trans ?_
    | split)

theorem fixed_stageMonitors (b : BoundaryIn) (st : Nat) (s : State) : (stageMonitors b st s).fixed = s.fixed := by
  unfold stageMonitors
  repeat' (first
    | with_reducible rfl
    | simp only [fixed_mk, fixed_fold, ite_fixed, ite_self, implies_true, fixed_frozenStep, fixed_hiccupStep,
        fixed_hiccupTime, fixed_nofbStep, fixed_ovStep, fixed_senseOpenStep, fixed_uvStep]
    | refine (fixed_each _ _ (fun a s => ?_) _).trans ?_
    | split)

theorem fixed_stageCommit (st : Nat) (s : State) : (stageCommit st s).fixed = s.fixed := by
  unfold stageCommit
  repeat' (first
    | with_reducible rfl
    | simp only [fixed_mk, fixed_fold, ite_fixed, ite_self, implies_true, fixed_modStg, fixed_applyCommit,
        fixed_hiccupEnd, fixed_overrunSafe, fixed_stageFault]
    | refine (fixed_each _ _ (fun a s => ?_) _).trans ?_
    | split)

theorem fixed_order7 (b : BoundaryIn) (shut : List Nat) (s : State) : (order7 b shut s).fixed = s.fixed := by
  unfold order7
  repeat' (first
    | with_reducible rfl
    | simp only [fixed_mk, fixed_fold, ite_fixed, ite_self, implies_true, fixed_applyCmds, fixed_applyLevel,
        fixed_applyRx, fixed_applyTrim, fixed_capDone, fixed_each, fixed_marginStep, fixed_mdacCompliance,
        fixed_mdacStep, fixed_pairSend, fixed_progsTell, fixed_pwmFrame, fixed_pwmPass, fixed_reactIn, fixed_sendCmds,
        fixed_sendStatus, fixed_stageCommit, fixed_sysrstDue]
    | refine (fixed_each _ _ (fun a s => ?_) _).trans ?_
    | split)

theorem fixed_tickWork (s0 s : State) : (tickWork s0 s).fixed = s.fixed := by
  unfold tickWork
  repeat' (first
    | with_reducible rfl
    | simp only [fixed_mk, fixed_fold, ite_fixed, ite_self, implies_true, fixed_modCore, fixed_backoffTick,
        fixed_battTick, fixed_counterTick, fixed_each, fixed_fwTick, fixed_groupTick, fixed_linkDue, fixed_linkTick,
        fixed_probTick, fixed_recBackground, fixed_recTick, fixed_replenish, fixed_restartTick, fixed_ringBound,
        fixed_stageBackoffTick, fixed_watchTick, fixed_windowTick]
    | refine (fixed_each _ _ (fun a s => ?_) _).trans ?_
    | split)

theorem fixed_order8 (s0 s : State) : (order8 s0 s).fixed = s.fixed := by
  unfold order8
  repeat' (first
    | with_reducible rfl
    | simp only [fixed_mk, fixed_fold, ite_fixed, ite_self, implies_true, fixed_each, fixed_regTicks, fixed_tickWork]
    | refine (fixed_each _ _ (fun a s => ?_) _).trans ?_
    | split)

theorem fixed_convStep (b : BoundaryIn) (s : State) : (convStep b s).fixed = s.fixed := by
  unfold convStep
  repeat' (first
    | with_reducible rfl
    | simp only [fixed_mk, fixed_fold, ite_fixed, ite_self, implies_true, fixed_convBoundary, fixed_each, fixed_refStep]
    | refine (fixed_each _ _ (fun a s => ?_) _).trans ?_
    | split)

theorem fixed_owResults (b : BoundaryIn) (s0 t s : State) : (owResults b s0 t s).fixed = s.fixed := by
  unfold owResults
  repeat' (first
    | with_reducible rfl
    | simp only [fixed_mk, fixed_fold, ite_fixed, ite_self, implies_true, fixed_modRail, fixed_each, fixed_owCount]
    | refine (fixed_each _ _ (fun a s => ?_) _).trans ?_
    | split)

end Sys2Proof.Machine
end

