-- ==== Sys2Proof/Laws/Queue.lean ====
section
/-! SUPPORT. Laws/Queue.lean: the operations that may write register words still leave the queue of commands and the
frame counter alone; only a boundary, a counter load and PD0 move the counter. -/

set_option linter.all false
set_option linter.unusedSimpArgs false
set_option linter.unreachableTactic false
set_option linter.unusedTactic false

namespace Sys2Proof.Machine

/-- The queue and the frame counter. -/
def State.pf (s : State) : List Instr × Frame := (s.pending, s.clk.frame)

theorem pf_of_fixed {s t : State} (h : t.fixed = s.fixed) : t.pf = s.pf :=
  congrArg (fun x : List Instr × Frame × Tbl W32 × Tbl W32 => (x.1, x.2.1)) h

theorem pf_mk (a b c d e f g h i j k l m n o p q r u v w x y z a1 b1 c1 d1 e1 f1 g1 h1 i1 j1 k1 l1) :
    State.pf (State.mk a b c d e f g h i j k l m n o p q r u v w x y z a1 b1 c1 d1 e1 f1 g1 h1 i1 j1 k1 l1) =
      (a, b.frame) := rfl

theorem pf_fold (s : State) : (s.pending, s.clk.frame) = s.pf := rfl

theorem ite_pf (c : Prop) [Decidable c] (a b : State) :
    State.pf (if c then a else b) = if c then a.pf else b.pf := by split <;> rfl

theorem pf_each {α : Type} (l : List α) (f : α → State → State) (hf : ∀ a s, (f a s).pf = s.pf) (s : State) :
    (each l f s).pf = s.pf := by
  unfold each
  induction l generalizing s with
  | nil => rfl
  | cons a l ih => exact (ih _).trans (hf a s)

theorem pf_modEng (i : Nat) (f : Eng → Eng) (s : State) : (State.modEng i f s).pf = s.pf := pf_of_fixed (fixed_modEng _ _ _)

theorem pf_modPhase (i : Nat) (f : Phase → Phase) (s : State) : (State.modPhase i f s).pf = s.pf := pf_of_fixed
    (fixed_modPhase _ _ _)

theorem pf_modRing (i : Nat) (f : Ring → Ring) (s : State) : (State.modRing i f s).pf = s.pf := pf_of_fixed
    (fixed_modRing _ _ _)

theorem pf_modRefm (i : Nat) (f : RefMon → RefMon) (s : State) : (State.modRefm i f s).pf = s.pf := pf_of_fixed
    (fixed_modRefm _ _ _)

theorem pf_raise (src : Nat) (ts : Ts) (d : BitVec 128) (s : State) : (raise src ts d s).pf = s.pf := pf_of_fixed
    (fixed_raise _ _ _ _)

theorem pf_jInternal (op src digest result : Nat) (persist : Bool) (s : State) : (jInternal op src digest result
    persist s).pf = s.pf := pf_of_fixed (fixed_jInternal _ _ _ _ _ _)

theorem pf_finishAt (d q status result : Nat) (s : State) : (finishAt d q status result s).pf = s.pf := pf_of_fixed
    (fixed_finishAt _ _ _ _ _)

theorem pf_finish (q status result : Nat) (s : State) : (finish q status result s).pf = s.pf := pf_of_fixed
    (fixed_finish _ _ _ _)

theorem pf_park (q : Nat) (w : Wait) (s : State) : (park q w s).pf = s.pf := pf_of_fixed (fixed_park _ _ _)

theorem pf_applyFinals (s : State) : (applyFinals s).pf = s.pf := pf_of_fixed (fixed_applyFinals _)

theorem pf_marginLeave (i : Nat) (s : State) : (marginLeave i s).pf = s.pf := pf_of_fixed (fixed_marginLeave _ _)

theorem pf_stepEnQ (i : Nat) (s : State) : (stepEnQ i s).pf = s.pf := pf_of_fixed (fixed_stepEnQ _ _)

theorem pf_toHiz (i : Nat) (s : State) : (toHiz i s).pf = s.pf := pf_of_fixed (fixed_toHiz _ _)

theorem pf_owBegin (s : State) : (owBegin s).pf = s.pf := pf_of_fixed (fixed_owBegin _)

theorem pf_sampleVio (b : Nat) (mv : Int) (s : State) : (sampleVio b mv s).pf = s.pf := pf_of_fixed (fixed_sampleVio _ _ _)

theorem pf_calRefuse (status res : Nat) (s : State) : (calRefuse status res s).pf = s.pf := pf_of_fixed
    (fixed_calRefuse _ _ _)

theorem pf_shiftGrid (d : Nat) (s : State) : (shiftGrid d s).pf = s.pf := pf_of_fixed (fixed_shiftGrid _ _)

theorem pf_stageHalt (st : Nat) (dst : SState) (s : State) : (stageHalt st dst s).pf = s.pf := pf_of_fixed
    (fixed_stageHalt _ _ _)

theorem pf_commitCoef (st : Nat) (s : State) : (commitCoef st s).pf = s.pf := pf_of_fixed (fixed_commitCoef _ _)

theorem pf_progsTell (s : State) : (progsTell s).pf = s.pf := pf_of_fixed (fixed_progsTell _)

theorem pf_predsStep (s : State) : (predsStep s).pf = s.pf := pf_of_fixed (fixed_predsStep _)

theorem pf_offRequest (src : Nat) (full : Bool) (groups : Nat) (s : State) : (offRequest src full groups s).pf = s.pf
    := pf_of_fixed (fixed_offRequest _ _ _ _)

theorem pf_launchOnSet (s : State) : (launchOnSet s).pf = s.pf := pf_of_fixed (fixed_launchOnSet _)

theorem pf_offStep (s : State) : (offStep s).pf = s.pf := pf_of_fixed (fixed_offStep _)

theorem pf_judgeDomain (s : State) : (judgeDomain s).pf = s.pf := pf_of_fixed (fixed_judgeDomain _)

theorem pf_toMembers (f : Nat → CmdRec) (s : State) : (toMembers f s).pf = s.pf := pf_of_fixed (fixed_toMembers _ _)

theorem pf_faultLogic (shut : List Nat) (s : State) : (faultLogic shut s).pf = s.pf := pf_of_fixed (fixed_faultLogic _ _)

theorem pf_stageFault (st cause : Nat) (s : State) : (stageFault st cause s).pf = s.pf := pf_of_fixed (fixed_stageFault
    _ _ _)

theorem pf_stageFaults (s : State) : (stageFaults s).pf = s.pf := pf_of_fixed (fixed_stageFaults _)

theorem pf_sysrstUp (old : Domain) (s : State) : (sysrstUp old s).pf = s.pf := pf_of_fixed (fixed_sysrstUp _ _)

theorem pf_sysrstStep (s : State) : (sysrstStep s).pf = s.pf := pf_of_fixed (fixed_sysrstStep _)

theorem pf_trayExpiry (e : Nat) (s : State) : (trayExpiry e s).pf = s.pf := pf_of_fixed (fixed_trayExpiry _ _)

theorem pf_watchdogCount (wedged : List Nat) (s : State) : (watchdogCount wedged s).2.pf = s.pf := pf_of_fixed
    (fixed_watchdogCount _ _)

theorem pf_measurePower (s : State) : (measurePower s).pf = s.pf := pf_of_fixed (fixed_measurePower _)

theorem pf_seqStep (s : State) : (seqStep s).pf = s.pf := pf_of_fixed (fixed_seqStep _)

theorem pf_dueGrants (s : State) : (dueGrants s).pf = s.pf := pf_of_fixed (fixed_dueGrants _)

theorem pf_memberRetries (s : State) : (memberRetries s).pf = s.pf := pf_of_fixed (fixed_memberRetries _)

theorem pf_engineOver (e : Nat) (s : State) : (engineOver e s).pf = s.pf := pf_of_fixed (fixed_engineOver _ _)

theorem pf_armEngine (e : Nat) (s : State) : (armEngine e s).pf = s.pf := pf_of_fixed (fixed_armEngine _ _)

theorem pf_judgeStep (s : State) : (judgeStep s).pf = s.pf := pf_of_fixed (fixed_judgeStep _)

theorem pf_damperBoundary (s : State) : (damperBoundary s).pf = s.pf := pf_of_fixed (fixed_damperBoundary _)

theorem pf_inputStep (s : State) : (inputStep s).pf = s.pf := pf_of_fixed (fixed_inputStep _)

theorem pf_shedFrame (s : State) : (shedFrame s).pf = s.pf := pf_of_fixed (fixed_shedFrame _)

theorem pf_shedTrip (s : State) : (shedTrip s).pf = s.pf := pf_of_fixed (fixed_shedTrip _)

theorem pf_battOff (s : State) : (battOff s).pf = s.pf := pf_of_fixed (fixed_battOff _)

theorem pf_voutModes (s : State) : (voutModes s).pf = s.pf := pf_of_fixed (fixed_voutModes _)

theorem pf_holdStages (s : State) : (holdStages s).pf = s.pf := pf_of_fixed (fixed_holdStages _)

theorem pf_stackOff (s : State) : (stackOff s).pf = s.pf := pf_of_fixed (fixed_stackOff _)

theorem pf_sendEvents (s : State) : (sendEvents s).pf = s.pf := pf_of_fixed (fixed_sendEvents _)

theorem pf_pairCount (s : State) : (pairCount s).pf = s.pf := pf_of_fixed (fixed_pairCount _)

theorem pf_assertXrst (s : State) : (assertXrst s).pf = s.pf := pf_of_fixed (fixed_assertXrst _)

theorem pf_resumeItem (it : SnapItem) (s : State) : (resumeItem it s).pf = s.pf := pf_of_fixed (fixed_resumeItem _ _)

theorem pf_newEpoch (s : State) : (newEpoch s).pf = s.pf := pf_of_fixed (fixed_newEpoch _)

theorem pf_takeoverFaults (s : State) : (takeoverFaults s).pf = s.pf := pf_of_fixed (fixed_takeoverFaults _)

theorem pf_shadowReset (s : State) : (shadowReset s).pf = s.pf := pf_of_fixed (fixed_shadowReset _)

theorem pf_quietPoint (s : State) : (quietPoint s).pf = s.pf := pf_of_fixed (fixed_quietPoint _)

theorem pf_linkFrame (s : State) : (linkFrame s).pf = s.pf := pf_of_fixed (fixed_linkFrame _)

theorem pf_portsUpdate (s : State) : (portsUpdate s).pf = s.pf := pf_of_fixed (fixed_portsUpdate _)

theorem pf_domainOn (pd : Nat) (s : State) : (domainOn pd s).pf = s.pf := pf_of_fixed (fixed_domainOn _ _)

theorem pf_gate (want : Nat) (first : Bool) (s : State) : (gate want first s).pf = s.pf := pf_of_fixed (fixed_gate _ _ _)

theorem pf_railsIn (first : Bool) (s : State) : (railsIn first s).pf = s.pf := pf_of_fixed (fixed_railsIn _ _)

theorem pf_stagesIn (first : Bool) (s : State) : (stagesIn first s).pf = s.pf := pf_of_fixed (fixed_stagesIn _ _)

theorem pf_entriesIn (old : State) (s : State) : (entriesIn old s).pf = s.pf := pf_of_fixed (fixed_entriesIn _ _)

theorem pf_refsIn (s : State) : (refsIn s).pf = s.pf := pf_of_fixed (fixed_refsIn _)

theorem pf_wcTables (s : State) : (wcTables s).pf = s.pf := pf_of_fixed (fixed_wcTables _)

theorem pf_nvBegin (s : State) : (nvBegin s).pf = s.pf := pf_of_fixed (fixed_nvBegin _)

theorem pf_nvWrite (u : JobUse) (q r : Nat) (s : State) : (nvWrite u q r s).pf = s.pf := pf_of_fixed (fixed_nvWrite _ _ _ _)

theorem pf_writeImage (im : Image) (q : Nat) (s : State) : (writeImage im q s).pf = s.pf := pf_of_fixed
    (fixed_writeImage _ _ _)

theorem pf_changeGen (g : GenState) (q r : Nat) (s : State) : (changeGen g q r s).pf = s.pf := pf_of_fixed
    (fixed_changeGen _ _ _ _)

theorem pf_beginProb (p : Nat) (s : State) : (beginProb p s).pf = s.pf := pf_of_fixed (fixed_beginProb _ _)

theorem pf_eraseAbort (s : State) : (eraseAbort s).pf = s.pf := pf_of_fixed (fixed_eraseAbort _)

theorem pf_programAbort (s : State) : (programAbort s).pf = s.pf := pf_of_fixed (fixed_programAbort _)

theorem pf_nvwpStep (level : Bool) (s : State) : (nvwpStep level s).pf = s.pf := pf_of_fixed (fixed_nvwpStep _ _)

theorem pf_handover_ (s : State) : (handover_ s).pf = s.pf := pf_of_fixed (fixed_handover_ _)

theorem pf_fwTick (s : State) : (fwTick s).pf = s.pf := pf_of_fixed (fixed_fwTick _)

theorem pf_armWhen (s : State) : (armWhen s).pf = s.pf := pf_of_fixed (fixed_armWhen _)

theorem pf_fillReserve (s : State) : (fillReserve s).pf = s.pf := pf_of_fixed (fixed_fillReserve _)

theorem pf_bootScan (s0 : State) : (bootScan s0).pf = s0.pf := pf_of_fixed (fixed_bootScan _)

theorem pf_xrstReleased (s : State) : (xrstReleased s).pf = s.pf := pf_of_fixed (fixed_xrstReleased _)

theorem pf_tellAtA (src : Nat) (d : BitVec 128) (s : State) : (tellAtA src d s).pf = s.pf := pf_of_fixed (fixed_tellAtA
    _ _ _)

theorem pf_fwStore (r : FwRec) (s : State) : (fwStore r s).pf = s.pf := pf_of_fixed (fixed_fwStore _ _)

theorem pf_runFrom (b : Bool) (r : FwRec) (s : State) : (runFrom b r s).pf = s.pf := pf_of_fixed (fixed_runFrom _ _ _)

theorem pf_recoveryMode (okA okB : Bool) (s : State) : (recoveryMode okA okB s).pf = s.pf := pf_of_fixed
    (fixed_recoveryMode _ _ _)

theorem pf_jAtA (op digest result : Nat) (s : State) : (jAtA op digest result s).pf = s.pf := pf_of_fixed (fixed_jAtA _
    _ _ _)

theorem pf_bootCandidate (r : FwRec) (s : State) : (bootCandidate r s).pf = s.pf := pf_of_fixed (fixed_bootCandidate _ _)

theorem pf_resolveIntent (s : State) : (resolveIntent s).pf = s.pf := pf_of_fixed (fixed_resolveIntent _)

theorem pf_romScan (s : State) : (romScan s).pf = s.pf := pf_of_fixed (fixed_romScan _)

theorem pf_recBoot (rejected : Nat) (s : State) : (recBoot rejected s).pf = s.pf := pf_of_fixed (fixed_recBoot _ _)

theorem pf_jrnBoot (s : State) : (jrnBoot s).pf = s.pf := pf_of_fixed (fixed_jrnBoot _)

theorem pf_countsBoot (s : State) : (countsBoot s).pf = s.pf := pf_of_fixed (fixed_countsBoot _)

theorem pf_chooseGen (s : State) : (chooseGen s).pf = s.pf := pf_of_fixed (fixed_chooseGen _)

theorem pf_emberRoom (s : State) : (emberRoom s).pf = s.pf := pf_of_fixed (fixed_emberRoom _)

theorem pf_lockAutoOpen (s : State) : (lockAutoOpen s).pf = s.pf := pf_of_fixed (fixed_lockAutoOpen _)

theorem pf_joinsBegin (s : State) : (joinsBegin s).pf = s.pf := pf_of_fixed (fixed_joinsBegin _)

theorem pf_onAfterA (s : State) : (onAfterA s).pf = s.pf := pf_of_fixed (fixed_onAfterA _)

theorem pf_bootRun (s : State) : (bootRun s).pf = s.pf := pf_of_fixed (fixed_bootRun _)

theorem pf_bootTell (p : Pwr) (s : State) : (bootTell p s).pf = s.pf := pf_of_fixed (fixed_bootTell _ _)

theorem pf_bootOnRequest (s : State) : (bootOnRequest s).pf = s.pf := pf_of_fixed (fixed_bootOnRequest _)

theorem pf_supplyStep (k : Nat) (mv : Int) (s : State) : (supplyStep k mv s).pf = s.pf := pf_of_fixed (fixed_supplyStep
    _ _ _)

theorem pf_ringEnable (r : Nat) (on : Bool) (s : State) : (ringEnable r on s).pf = s.pf := pf_of_fixed
    (fixed_ringEnable _ _ _)

theorem pf_setupConv (old s : State) : (setupConv old s).pf = s.pf := pf_of_fixed (fixed_setupConv _ _)

theorem pf_writeW1c (o v : Nat) (s : State) : (writeW1c o v s).pf = s.pf := pf_of_fixed (fixed_writeW1c _ _ _)

theorem pf_selections (s : State) : (selections s).pf = s.pf := pf_of_fixed (fixed_selections _)

theorem pf_writeAction (o : Nat) (v : W32) (s : State) : (writeAction o v s).pf = s.pf := pf_of_fixed
    (fixed_writeAction _ _ _)

theorem pf_badAccess (write : Bool) (a : Access) (v : W32) (s : State) : (badAccess write a v s).pf = s.pf :=
    pf_of_fixed (fixed_badAccess _ _ _ _)

theorem pf_discardStaged (s : State) : (discardStaged s).pf = s.pf := pf_of_fixed (fixed_discardStaged _)

theorem pf_acceptEntry (d : Desc) (src ring : Nat) (s : State) : (acceptEntry d src ring s).pf = s.pf := pf_of_fixed
    (fixed_acceptEntry _ _ _ _)

theorem pf_readyDrop (old : Frame) (s : State) : (readyDrop old s).pf = s.pf := pf_of_fixed (fixed_readyDrop _ _)

theorem pf_cmdPowerOn (l : Live) (s : State) : (cmdPowerOn l s).pf = s.pf := pf_of_fixed (fixed_cmdPowerOn _ _)

theorem pf_cmdPowerOff (l : Live) (s : State) : (cmdPowerOff l s).pf = s.pf := pf_of_fixed (fixed_cmdPowerOff _ _)

theorem pf_cmdGroupOff (l : Live) (s : State) : (cmdGroupOff l s).pf = s.pf := pf_of_fixed (fixed_cmdGroupOff _ _)

theorem pf_cmdProgLaunch (l : Live) (s : State) : (cmdProgLaunch l s).pf = s.pf := pf_of_fixed (fixed_cmdProgLaunch _ _)

theorem pf_cmdProgAbort (l : Live) (s : State) : (cmdProgAbort l s).pf = s.pf := pf_of_fixed (fixed_cmdProgAbort _ _)

theorem pf_revertWord (w : Nat) (s : State) : (revertWord w s).pf = s.pf := pf_of_fixed (fixed_revertWord _ _)

theorem pf_cmdProgLoad (l : Live) (s : State) : (cmdProgLoad l s).pf = s.pf := pf_of_fixed (fixed_cmdProgLoad _ _)

theorem pf_commitWords (l : List Nat) (s : State) : (commitWords l s).pf = s.pf := pf_of_fixed (fixed_commitWords _ _)

theorem pf_cmdGraphLoad (l : Live) (s : State) : (cmdGraphLoad l s).pf = s.pf := pf_of_fixed (fixed_cmdGraphLoad _ _)

theorem pf_commitGraph (l : Live) (s : State) : (commitGraph l s).pf = s.pf := pf_of_fixed (fixed_commitGraph _ _)

theorem pf_cmdFlagsSet (l : Live) (s : State) : (cmdFlagsSet l s).pf = s.pf := pf_of_fixed (fixed_cmdFlagsSet _ _)

theorem pf_cmdRetryCancel (l : Live) (s : State) : (cmdRetryCancel l s).pf = s.pf := pf_of_fixed (fixed_cmdRetryCancel _ _)

theorem pf_cmdMargin (l : Live) (s : State) : (cmdMargin l s).pf = s.pf := pf_of_fixed (fixed_cmdMargin _ _)

theorem pf_cmdFfClear (l : Live) (s : State) : (cmdFfClear l s).pf = s.pf := pf_of_fixed (fixed_cmdFfClear _ _)

theorem pf_cmdSysrst (l : Live) (s : State) : (cmdSysrst l s).pf = s.pf := pf_of_fixed (fixed_cmdSysrst _ _)

theorem pf_cmdStageStart (l : Live) (s : State) : (cmdStageStart l s).pf = s.pf := pf_of_fixed (fixed_cmdStageStart _ _)

theorem pf_cmdStageStop (l : Live) (s : State) : (cmdStageStop l s).pf = s.pf := pf_of_fixed (fixed_cmdStageStop _ _)

theorem pf_cmdStageClear (l : Live) (s : State) : (cmdStageClear l s).pf = s.pf := pf_of_fixed (fixed_cmdStageClear _ _)

theorem pf_cmdConvStart (l : Live) (s : State) : (cmdConvStart l s).pf = s.pf := pf_of_fixed (fixed_cmdConvStart _ _)

theorem pf_cmdConvUrgent (l : Live) (s : State) : (cmdConvUrgent l s).pf = s.pf := pf_of_fixed (fixed_cmdConvUrgent _ _)

theorem pf_cmdConvCal (l : Live) (s : State) : (cmdConvCal l s).pf = s.pf := pf_of_fixed (fixed_cmdConvCal _ _)

theorem pf_nvwpEnd (l : Live) (s : State) : (nvwpEnd l s).pf = s.pf := pf_of_fixed (fixed_nvwpEnd _ _)

theorem pf_cmdConfigLoad (l : Live) (s : State) : (cmdConfigLoad l s).pf = s.pf := pf_of_fixed (fixed_cmdConfigLoad _ _)

theorem pf_cmdConfigCapture (l : Live) (s : State) : (cmdConfigCapture l s).pf = s.pf := pf_of_fixed
    (fixed_cmdConfigCapture _ _)

theorem pf_cmdConfigConfirm (l : Live) (s : State) : (cmdConfigConfirm l s).pf = s.pf := pf_of_fixed
    (fixed_cmdConfigConfirm _ _)

theorem pf_cmdJournalRead (l : Live) (s : State) : (cmdJournalRead l s).pf = s.pf := pf_of_fixed (fixed_cmdJournalRead _ _)

theorem pf_cmdAlogRead (l : Live) (s : State) : (cmdAlogRead l s).pf = s.pf := pf_of_fixed (fixed_cmdAlogRead _ _)

theorem pf_cmdCountersRead (l : Live) (s : State) : (cmdCountersRead l s).pf = s.pf := pf_of_fixed
    (fixed_cmdCountersRead _ _)

theorem pf_cmdStateRead (l : Live) (s : State) : (cmdStateRead l s).pf = s.pf := pf_of_fixed (fixed_cmdStateRead _ _)

theorem pf_cmdRecRead (l : Live) (s : State) : (cmdRecRead l s).pf = s.pf := pf_of_fixed (fixed_cmdRecRead _ _)

theorem pf_cmdRecFreeze (l : Live) (s : State) : (cmdRecFreeze l s).pf = s.pf := pf_of_fixed (fixed_cmdRecFreeze _ _)

theorem pf_cmdRecChallenge (l : Live) (s : State) : (cmdRecChallenge l s).pf = s.pf := pf_of_fixed
    (fixed_cmdRecChallenge _ _)

theorem pf_cmdRecClear (l : Live) (s : State) : (cmdRecClear l s).pf = s.pf := pf_of_fixed (fixed_cmdRecClear _ _)

theorem pf_cmdTagWrite (l : Live) (s : State) : (cmdTagWrite l s).pf = s.pf := pf_of_fixed (fixed_cmdTagWrite _ _)

theorem pf_cmdTagRead (l : Live) (s : State) : (cmdTagRead l s).pf = s.pf := pf_of_fixed (fixed_cmdTagRead _ _)

theorem pf_cmdHandover (l : Live) (s : State) : (cmdHandover l s).pf = s.pf := pf_of_fixed (fixed_cmdHandover _ _)

theorem pf_barEffect (l : Live) (s : State) : (barEffect l s).pf = s.pf := pf_of_fixed (fixed_barEffect _ _)

theorem pf_startedPost (q : Nat) (s : State) : (startedPost q s).pf = s.pf := pf_of_fixed (fixed_startedPost _ _)

theorem pf_relayOut (d : Desc) (s : State) : (relayOut d s).pf = s.pf := pf_of_fixed (fixed_relayOut _ _)

theorem pf_endFrame (b : BoundaryIn) (s : State) : (endFrame b s).pf = s.pf := pf_of_fixed (fixed_endFrame _ _)

theorem pf_clearNow (s : State) : (clearNow s).pf = s.pf := pf_of_fixed (fixed_clearNow _)

theorem pf_pendingStep (s : State) : (pendingStep s).pf = s.pf := pf_of_fixed (fixed_pendingStep _)

theorem pf_order2 (b : BoundaryIn) (s : State) : (order2 b s).pf = s.pf := pf_of_fixed (fixed_order2 _ _)

theorem pf_watchdogStep (b : BoundaryIn) (s : State) : (watchdogStep b s).pf = s.pf := pf_of_fixed (fixed_watchdogStep _ _)

theorem pf_stageMonitors (b : BoundaryIn) (st : Nat) (s : State) : (stageMonitors b st s).pf = s.pf := pf_of_fixed
    (fixed_stageMonitors _ _ _)

theorem pf_order7 (b : BoundaryIn) (shut : List Nat) (s : State) : (order7 b shut s).pf = s.pf := pf_of_fixed
    (fixed_order7 _ _ _)

theorem pf_order8 (s0 s : State) : (order8 s0 s).pf = s.pf := pf_of_fixed (fixed_order8 _ _)

theorem pf_convStep (b : BoundaryIn) (s : State) : (convStep b s).pf = s.pf := pf_of_fixed (fixed_convStep _ _)

theorem pf_owResults (b : BoundaryIn) (s0 t s : State) : (owResults b s0 t s).pf = s.pf := pf_of_fixed (fixed_owResults
    _ _ _ _)

theorem pf_setReg (k : Nat) (v : W32) (s : State) : (State.setReg k v s).pf = s.pf := by
  unfold State.setReg
  repeat' (first
    | with_reducible rfl
    | simp only [pf_mk, pf_fold, ite_pf, ite_self, implies_true]
    | refine (pf_each _ _ (fun a s => ?_) _).trans ?_
    | split)

theorem pf_takeover (cause : Nat) (s : State) : (takeover cause s).pf = s.pf := by
  unfold takeover
  repeat' (first
    | with_reducible rfl
    | simp only [pf_mk, pf_fold, ite_pf, ite_self, implies_true, pf_setReg, pf_assertXrst, pf_each, pf_jInternal,
          pf_newEpoch, pf_offRequest, pf_raise, pf_resumeItem, pf_stageHalt, pf_takeoverFaults]
    | refine (pf_each _ _ (fun a s => ?_) _).trans ?_
    | split)

theorem pf_shadowTakes (cause : Nat) (s : State) : (shadowTakes cause s).pf = s.pf := by
  unfold shadowTakes
  repeat' (first
    | with_reducible rfl
    | simp only [pf_mk, pf_fold, ite_pf, ite_self, implies_true, pf_takeover, pf_toMembers]
    | refine (pf_each _ _ (fun a s => ?_) _).trans ?_
    | split)

theorem pf_namedStep (s : State) : (namedStep s).pf = s.pf := by
  unfold namedStep
  repeat' (first
    | with_reducible rfl
    | simp only [pf_mk, pf_fold, ite_pf, ite_self, implies_true, pf_takeover]
    | refine (pf_each _ _ (fun a s => ?_) _).trans ?_
    | split)

theorem pf_linkLoss (s : State) : (linkLoss s).pf = s.pf := by
  unfold linkLoss
  repeat' (first
    | with_reducible rfl
    | simp only [pf_mk, pf_fold, ite_pf, ite_self, implies_true, pf_shadowTakes]
    | refine (pf_each _ _ (fun a s => ?_) _).trans ?_
    | split)

theorem pf_heartbeatLoss (s : State) : (heartbeatLoss s).pf = s.pf := by
  unfold heartbeatLoss
  repeat' (first
    | with_reducible rfl
    | simp only [pf_mk, pf_fold, ite_pf, ite_self, implies_true, pf_shadowTakes]
    | refine (pf_each _ _ (fun a s => ?_) _).trans ?_
    | split)

theorem pf_handover (s : State) : (handover s).pf = s.pf := by
  unfold handover
  repeat' (first
    | with_reducible rfl
    | simp only [pf_mk, pf_fold, ite_pf, ite_self, implies_true, pf_finish, pf_holdStages, pf_takeover]
    | refine (pf_each _ _ (fun a s => ?_) _).trans ?_
    | split)

theorem pf_pairStep (s : State) : (pairStep s).pf = s.pf := by
  unfold pairStep
  repeat' (first
    | with_reducible rfl
    | simp only [pf_mk, pf_fold, ite_pf, ite_self, implies_true, pf_namedStep, pf_pairCount, pf_shadowReset, pf_shadowTakes]
    | refine (pf_each _ _ (fun a s => ?_) _).trans ?_
    | split)

theorem pf_handoverStep (s : State) : (handoverStep s).pf = s.pf := by
  unfold handoverStep
  repeat' (first
    | with_reducible rfl
    | simp only [pf_mk, pf_fold, ite_pf, ite_self, implies_true, pf_handover, pf_quietPoint]
    | refine (pf_each _ _ (fun a s => ?_) _).trans ?_
    | split)

theorem pf_withImage (im : Image) (s : State) : (withImage im s).pf = s.pf := by
  unfold withImage
  repeat' (first
    | with_reducible rfl
    | simp only [pf_mk, pf_fold, ite_pf, ite_self, implies_true]
    | refine (pf_each _ _ (fun a s => ?_) _).trans ?_
    | split)

theorem pf_railsLeave (im : Image) (s : State) : (railsLeave im s).pf = s.pf := by
  unfold railsLeave
  repeat' (first
    | with_reducible rfl
    | simp only [pf_mk, pf_fold, ite_pf, ite_self, implies_true, pf_each, pf_marginLeave, pf_withImage]
    | refine (pf_each _ _ (fun a s => ?_) _).trans ?_
    | split)

theorem pf_activate (im : Image) (first : Bool) (s : State) : (activate im first s).pf = s.pf := by
  unfold activate
  repeat' (first
    | with_reducible rfl
    | simp only [pf_mk, pf_fold, ite_pf, ite_self, implies_true, pf_modEng, pf_each, pf_entriesIn, pf_gate,
          pf_portsUpdate, pf_railsIn, pf_railsLeave, pf_refsIn, pf_stagesIn, pf_voutModes, pf_wcTables, pf_withImage]
    | refine (pf_each _ _ (fun a s => ?_) _).trans ?_
    | split)

theorem pf_activateGen (n p q : Nat) (s : State) : (activateGen n p q s).pf = s.pf := by
  unfold activateGen
  repeat' (first
    | with_reducible rfl
    | simp only [pf_mk, pf_fold, ite_pf, ite_self, implies_true, pf_activate, pf_beginProb, pf_changeGen]
    | refine (pf_each _ _ (fun a s => ?_) _).trans ?_
    | split)

theorem pf_revertGen (q : Nat) (s : State) : (revertGen q s).pf = s.pf := by
  unfold revertGen
  repeat' (first
    | with_reducible rfl
    | simp only [pf_mk, pf_fold, ite_pf, ite_self, implies_true, pf_activate, pf_beginProb, pf_changeGen]
    | refine (pf_each _ _ (fun a s => ?_) _).trans ?_
    | split)

theorem pf_autoRevert (s : State) : (autoRevert s).pf = s.pf := by
  unfold autoRevert
  repeat' (first
    | with_reducible rfl
    | simp only [pf_mk, pf_fold, ite_pf, ite_self, implies_true, pf_jInternal, pf_raise, pf_revertGen]
    | refine (pf_each _ _ (fun a s => ?_) _).trans ?_
    | split)

theorem pf_activateAt (s : State) : (activateAt s).pf = s.pf := by
  unfold activateAt
  repeat' (first
    | with_reducible rfl
    | simp only [pf_mk, pf_fold, ite_pf, ite_self, implies_true, pf_activateGen, pf_finish, pf_revertGen]
    | refine (pf_each _ _ (fun a s => ?_) _).trans ?_
    | split)

theorem pf_newCurrent (im : Image) (q : Nat) (s : State) : (newCurrent im q s).pf = s.pf := by
  unfold newCurrent
  repeat' (first
    | with_reducible rfl
    | simp only [pf_mk, pf_fold, ite_pf, ite_self, implies_true, pf_activate, pf_beginProb, pf_changeGen, pf_writeImage]
    | refine (pf_each _ _ (fun a s => ?_) _).trans ?_
    | split)

theorem pf_calPhaseDone (s : State) : (calPhaseDone s).pf = s.pf := by
  unfold calPhaseDone
  repeat' (first
    | with_reducible rfl
    | simp only [pf_mk, pf_fold, ite_pf, ite_self, implies_true, pf_calRefuse, pf_finishAt, pf_newCurrent, pf_raise]
    | refine (pf_each _ _ (fun a s => ?_) _).trans ?_
    | split)

theorem pf_resetCore (held : Bool) (s : State) : (resetCore held s).pf = s.pf := by
  unfold resetCore
  repeat' (first
    | with_reducible rfl
    | simp only [pf_mk, pf_fold, ite_pf, ite_self, implies_true]
    | refine (pf_each _ _ (fun a s => ?_) _).trans ?_
    | split)

theorem pf_chipReset (cause : Nat) (s : State) : (chipReset cause s).pf = s.pf := by
  unfold chipReset
  repeat' (first
    | with_reducible rfl
    | simp only [pf_mk, pf_fold, ite_pf, ite_self, implies_true, pf_eraseAbort, pf_resetCore]
    | refine (pf_each _ _ (fun a s => ?_) _).trans ?_
    | split)

theorem pf_powerFailure (bits : Nat) (pf : Ts) (s : State) : (powerFailure bits pf s).pf = s.pf := by
  unfold powerFailure
  repeat' (first
    | with_reducible rfl
    | simp only [pf_mk, pf_fold, ite_pf, ite_self, implies_true, pf_eraseAbort, pf_nvWrite, pf_resetCore]
    | refine (pf_each _ _ (fun a s => ?_) _).trans ?_
    | split)

theorem pf_emberExit (s : State) : (emberExit s).pf = s.pf := by
  unfold emberExit
  repeat' (first
    | with_reducible rfl
    | simp only [pf_mk, pf_fold, ite_pf, ite_self, implies_true, pf_resetCore]
    | refine (pf_each _ _ (fun a s => ?_) _).trans ?_
    | split)

theorem pf_porstSeen (s : State) : (porstSeen s).pf = s.pf := by
  unfold porstSeen
  repeat' (first
    | with_reducible rfl
    | simp only [pf_mk, pf_fold, ite_pf, ite_self, implies_true, pf_chipReset]
    | refine (pf_each _ _ (fun a s => ?_) _).trans ?_
    | split)

theorem pf_xrstSeen (s : State) : (xrstSeen s).pf = s.pf := by
  unfold xrstSeen
  repeat' (first
    | with_reducible rfl
    | simp only [pf_mk, pf_fold, ite_pf, ite_self, implies_true, pf_chipReset, pf_each, pf_holdStages, pf_toHiz]
    | refine (pf_each _ _ (fun a s => ?_) _).trans ?_
    | split)

theorem pf_bootFailure (s : State) : (bootFailure s).pf = s.pf := by
  unfold bootFailure
  repeat' (first
    | with_reducible rfl
    | simp only [pf_mk, pf_fold, ite_pf, ite_self, implies_true, pf_chipReset, pf_fwStore]
    | refine (pf_each _ _ (fun a s => ?_) _).trans ?_
    | split)

theorem pf_bootConfirmed (okA okB : Bool) (r : FwRec) (s : State) : (bootConfirmed okA okB r s).pf = s.pf := by
  unfold bootConfirmed
  repeat' (first
    | with_reducible rfl
    | simp only [pf_mk, pf_fold, ite_pf, ite_self, implies_true, pf_bootFailure, pf_fwStore, pf_runFrom, pf_tellAtA]
    | refine (pf_each _ _ (fun a s => ?_) _).trans ?_
    | split)

theorem pf_bootRevert (okA okB : Bool) (r : FwRec) (s : State) : (bootRevert okA okB r s).pf = s.pf := by
  unfold bootRevert
  repeat' (first
    | with_reducible rfl
    | simp only [pf_mk, pf_fold, ite_pf, ite_self, implies_true, pf_bootConfirmed, pf_fwStore, pf_jAtA,
          pf_recoveryMode, pf_tellAtA]
    | refine (pf_each _ _ (fun a s => ?_) _).trans ?_
    | split)

theorem pf_chooseBank (b : Sys2Proof.BootIn) (s : State) : (chooseBank b s).pf = s.pf := by
  unfold chooseBank
  repeat' (first
    | with_reducible rfl
    | simp only [pf_mk, pf_fold, ite_pf, ite_self, implies_true, pf_bootCandidate, pf_bootConfirmed, pf_bootFailure,
          pf_bootRevert, pf_runFrom]
    | refine (pf_each _ _ (fun a s => ?_) _).trans ?_
    | split)

theorem pf_bootBegin (b : Sys2Proof.BootIn) (s : State) : (bootBegin b s).pf = s.pf := by
  unfold bootBegin
  repeat' (first
    | with_reducible rfl
    | simp only [pf_mk, pf_fold, ite_pf, ite_self, implies_true, pf_armEngine, pf_bootFailure, pf_chooseBank,
          pf_recoveryMode, pf_resolveIntent, pf_romScan]
    | refine (pf_each _ _ (fun a s => ?_) _).trans ?_
    | split)

theorem pf_domainsBoot (s : State) : (domainsBoot s).pf = s.pf := by
  unfold domainsBoot
  repeat' (first
    | with_reducible rfl
    | simp only [pf_mk, pf_fold, ite_pf, ite_self, implies_true, pf_modRefm, pf_domainOn, pf_each, pf_withImage]
    | refine (pf_each _ _ (fun a s => ?_) _).trans ?_
    | split)

theorem pf_firmwareStart (s : State) : (firmwareStart s).pf = s.pf := by
  unfold firmwareStart
  repeat' (first
    | with_reducible rfl
    | simp only [pf_mk, pf_fold, ite_pf, ite_self, implies_true, pf_armEngine, pf_armWhen, pf_bootScan, pf_chooseGen,
          pf_countsBoot, pf_domainsBoot, pf_emberRoom, pf_fillReserve, pf_jrnBoot, pf_nvBegin, pf_recBoot]
    | refine (pf_each _ _ (fun a s => ?_) _).trans ?_
    | split)

theorem pf_bootActivation (s : State) : (bootActivation s).pf = s.pf := by
  unfold bootActivation
  repeat' (first
    | with_reducible rfl
    | simp only [pf_mk, pf_fold, ite_pf, ite_self, implies_true, pf_activate, pf_bootRun, pf_bootTell, pf_joinsBegin,
          pf_lockAutoOpen, pf_onAfterA]
    | refine (pf_each _ _ (fun a s => ?_) _).trans ?_
    | split)

theorem pf_watchdogExpiry (e : Nat) (s : State) : (watchdogExpiry e s).pf = s.pf := by
  unfold watchdogExpiry
  repeat' (first
    | with_reducible rfl
    | simp only [pf_mk, pf_fold, ite_pf, ite_self, implies_true, pf_bootFailure, pf_stageFault, pf_trayExpiry]
    | refine (pf_each _ _ (fun a s => ?_) _).trans ?_
    | split)

theorem pf_watchdogReset (s : State) : (watchdogReset s).pf = s.pf := by
  unfold watchdogReset
  repeat' (first
    | with_reducible rfl
    | simp only [pf_mk, pf_fold, ite_pf, ite_self, implies_true, pf_chipReset]
    | refine (pf_each _ _ (fun a s => ?_) _).trans ?_
    | split)

theorem pf_recoveryReset (s : State) : (recoveryReset s).pf = s.pf := by
  unfold recoveryReset
  repeat' (first
    | with_reducible rfl
    | simp only [pf_mk, pf_fold, ite_pf, ite_self, implies_true, pf_chipReset]
    | refine (pf_each _ _ (fun a s => ?_) _).trans ?_
    | split)

theorem pf_writeSetup (o : Nat) (v : W32) (cyc : Nat) (s : State) : (writeSetup o v cyc s).pf = s.pf := by
  unfold writeSetup
  repeat' (first
    | with_reducible rfl
    | simp only [pf_mk, pf_fold, ite_pf, ite_self, implies_true, pf_raise]
    | refine (pf_each _ _ (fun a s => ?_) _).trans ?_
    | split)

theorem pf_applySetup (k : Nat) (v : W32) (s : State) : (applySetup k v s).pf = s.pf := by
  unfold applySetup
  repeat' (first
    | with_reducible rfl
    | simp only [pf_mk, pf_fold, ite_pf, ite_self, implies_true, pf_portsUpdate, pf_ringEnable, pf_setupConv]
    | refine (pf_each _ _ (fun a s => ?_) _).trans ?_
    | split)

theorem pf_applySetups (s : State) : (applySetups s).pf = s.pf := by
  unfold applySetups
  repeat' (first
    | with_reducible rfl
    | simp only [pf_mk, pf_fold, ite_pf, ite_self, implies_true, pf_applySetup, pf_each]
    | refine (pf_each _ _ (fun a s => ?_) _).trans ?_
    | split)

theorem pf_barWrite (o : Nat) (v : W32) (cyc : Nat) (s : State) : (barWrite o v cyc s).pf = s.pf := by
  unfold barWrite
  repeat' (first
    | with_reducible rfl
    | simp only [pf_mk, pf_fold, ite_pf, ite_self, implies_true, pf_writeAction, pf_writeSetup, pf_writeW1c]
    | refine (pf_each _ _ (fun a s => ?_) _).trans ?_
    | split)

theorem pf_setUpWrite (a : Access) (v : BitVec 64) (s : State) : (setUpWrite a v s).pf = s.pf := by
  unfold setUpWrite
  repeat' (first
    | with_reducible rfl
    | simp only [pf_mk, pf_fold, ite_pf, ite_self, implies_true, pf_badAccess, pf_barWrite]
    | refine (pf_each _ _ (fun a s => ?_) _).trans ?_
    | split)

theorem pf_ringReset (r : Nat) (s : State) : (ringReset r s).pf = s.pf := by
  unfold ringReset
  repeat' (first
    | with_reducible rfl
    | simp only [pf_mk, pf_fold, ite_pf, ite_self, implies_true, pf_modRing]
    | refine (pf_each _ _ (fun a s => ?_) _).trans ?_
    | split)

theorem pf_hostReset (link : Bool) (s : State) : (hostReset link s).pf = s.pf := by
  unfold hostReset
  repeat' (first
    | with_reducible rfl
    | simp only [pf_mk, pf_fold, ite_pf, ite_self, implies_true, pf_discardStaged, pf_each, pf_jInternal, pf_ringReset]
    | refine (pf_each _ _ (fun a s => ?_) _).trans ?_
    | split)

theorem pf_commitLoad (l : Live) (s : State) : (commitLoad l s).pf = s.pf := by
  unfold commitLoad
  repeat' (first
    | with_reducible rfl
    | simp only [pf_mk, pf_fold, ite_pf, ite_self, implies_true, pf_setReg, pf_commitWords, pf_each, pf_finish,
          pf_revertWord]
    | refine (pf_each _ _ (fun a s => ?_) _).trans ?_
    | split)

theorem pf_commitLoads (s : State) : (commitLoads s).pf = s.pf := by
  unfold commitLoads
  repeat' (first
    | with_reducible rfl
    | simp only [pf_mk, pf_fold, ite_pf, ite_self, implies_true, pf_commitGraph, pf_commitLoad, pf_each]
    | refine (pf_each _ _ (fun a s => ?_) _).trans ?_
    | split)

theorem pf_loopWrite (p : Nat × Nat) (s : State) : (loopWrite p s).pf = s.pf := by
  unfold loopWrite
  repeat' (first
    | with_reducible rfl
    | simp only [pf_mk, pf_fold, ite_pf, ite_self, implies_true]
    | refine (pf_each _ _ (fun a s => ?_) _).trans ?_
    | split)

theorem pf_cmdLoopSetup (l : Live) (s : State) : (cmdLoopSetup l s).pf = s.pf := by
  unfold cmdLoopSetup
  repeat' (first
    | with_reducible rfl
    | simp only [pf_mk, pf_fold, ite_pf, ite_self, implies_true, pf_commitCoef, pf_each, pf_finish, pf_loopWrite]
    | refine (pf_each _ _ (fun a s => ?_) _).trans ?_
    | split)

theorem pf_cmdCapSet (l : Live) (s : State) : (cmdCapSet l s).pf = s.pf := by
  unfold cmdCapSet
  repeat' (first
    | with_reducible rfl
    | simp only [pf_mk, pf_fold, ite_pf, ite_self, implies_true, pf_setReg, pf_finish, pf_park]
    | refine (pf_each _ _ (fun a s => ?_) _).trans ?_
    | split)

theorem pf_activateWhen (l : Live) (n p at_ : Nat) (rev : Bool) (s : State) : (activateWhen l n p at_ rev s).pf = s.pf := by
  unfold activateWhen
  repeat' (first
    | with_reducible rfl
    | simp only [pf_mk, pf_fold, ite_pf, ite_self, implies_true, pf_activateAt, pf_finish, pf_park]
    | refine (pf_each _ _ (fun a s => ?_) _).trans ?_
    | split)

theorem pf_cmdConfigActivate (l : Live) (s : State) : (cmdConfigActivate l s).pf = s.pf := by
  unfold cmdConfigActivate
  repeat' (first
    | with_reducible rfl
    | simp only [pf_mk, pf_fold, ite_pf, ite_self, implies_true, pf_activateWhen, pf_finish, pf_nvwpEnd]
    | refine (pf_each _ _ (fun a s => ?_) _).trans ?_
    | split)

theorem pf_cmdConfigRevert (l : Live) (s : State) : (cmdConfigRevert l s).pf = s.pf := by
  unfold cmdConfigRevert
  repeat' (first
    | with_reducible rfl
    | simp only [pf_mk, pf_fold, ite_pf, ite_self, implies_true, pf_activateWhen, pf_finish, pf_nvwpEnd]
    | refine (pf_each _ _ (fun a s => ?_) _).trans ?_
    | split)

theorem pf_cmdEffect (l : Live) (s : State) : (cmdEffect l s).pf = s.pf := by
  unfold cmdEffect
  repeat' (first
    | with_reducible rfl
    | simp only [pf_mk, pf_fold, ite_pf, ite_self, implies_true, pf_cmdAlogRead, pf_cmdCapSet, pf_cmdConfigActivate,
          pf_cmdConfigCapture, pf_cmdConfigConfirm, pf_cmdConfigLoad, pf_cmdConfigRevert, pf_cmdConvCal,
          pf_cmdConvStart, pf_cmdConvUrgent, pf_cmdCountersRead, pf_cmdFfClear, pf_cmdFlagsSet, pf_cmdGraphLoad,
          pf_cmdGroupOff, pf_cmdHandover, pf_cmdJournalRead, pf_cmdLoopSetup, pf_cmdMargin, pf_cmdPowerOff,
          pf_cmdPowerOn, pf_cmdProgAbort, pf_cmdProgLaunch, pf_cmdProgLoad, pf_cmdRecChallenge, pf_cmdRecClear,
          pf_cmdRecFreeze, pf_cmdRecRead, pf_cmdRetryCancel, pf_cmdStageClear, pf_cmdStageStart, pf_cmdStageStop,
          pf_cmdStateRead, pf_cmdSysrst, pf_cmdTagRead, pf_cmdTagWrite, pf_finish]
    | refine (pf_each _ _ (fun a s => ?_) _).trans ?_
    | split)

theorem pf_memberEffect (l : Live) (s : State) : (memberEffect l s).pf = s.pf := by
  unfold memberEffect
  repeat' (first
    | with_reducible rfl
    | simp only [pf_mk, pf_fold, ite_pf, ite_self, implies_true, pf_cmdEffect, pf_finish]
    | refine (pf_each _ _ (fun a s => ?_) _).trans ?_
    | split)

theorem pf_applyCmd (l : Live) (s : State) : (applyCmd l s).pf = s.pf := by
  unfold applyCmd
  repeat' (first
    | with_reducible rfl
    | simp only [pf_mk, pf_fold, ite_pf, ite_self, implies_true, pf_barEffect, pf_cmdEffect, pf_finish,
          pf_memberEffect, pf_relayOut, pf_startedPost]
    | refine (pf_each _ _ (fun a s => ?_) _).trans ?_
    | split)

theorem pf_applyDecided (s : State) : (applyDecided s).pf = s.pf := by
  unfold applyDecided
  repeat' (first
    | with_reducible rfl
    | simp only [pf_mk, pf_fold, ite_pf, ite_self, implies_true, pf_applyCmd, pf_each]
    | refine (pf_each _ _ (fun a s => ?_) _).trans ?_
    | split)

theorem pf_powerStep (b : BoundaryIn) (s : State) : (powerStep b s).pf = s.pf := by
  unfold powerStep
  repeat' (first
    | with_reducible rfl
    | simp only [pf_mk, pf_fold, ite_pf, ite_self, implies_true, pf_nvwpStep, pf_porstSeen, pf_powerFailure, pf_supplyStep]
    | refine (pf_each _ _ (fun a s => ?_) _).trans ?_
    | split)

theorem pf_xrstStep (b : BoundaryIn) (s : State) : (xrstStep b s).pf = s.pf := by
  unfold xrstStep
  repeat' (first
    | with_reducible rfl
    | simp only [pf_mk, pf_fold, ite_pf, ite_self, implies_true, pf_xrstReleased, pf_xrstSeen]
    | refine (pf_each _ _ (fun a s => ?_) _).trans ?_
    | split)

theorem pf_order3 (b : BoundaryIn) (s : State) : (order3 b s).pf = s.pf := by
  unfold order3
  repeat' (first
    | with_reducible rfl
    | simp only [pf_mk, pf_fold, ite_pf, ite_self, implies_true, pf_modPhase, pf_battOff, pf_each, pf_faultLogic,
          pf_inputStep, pf_measurePower, pf_offStep, pf_pairStep, pf_shedFrame, pf_shedTrip, pf_stackOff,
          pf_stageFaults, pf_stageMonitors, pf_stepEnQ, pf_sysrstStep, pf_watchdogStep]
    | refine (pf_each _ _ (fun a s => ?_) _).trans ?_
    | split)

theorem pf_order4 (launch : Bool) (s : State) : (order4 launch s).pf = s.pf := by
  unfold order4
  repeat' (first
    | with_reducible rfl
    | simp only [pf_mk, pf_fold, ite_pf, ite_self, implies_true, pf_dueGrants, pf_handoverStep, pf_judgeDomain,
          pf_launchOnSet, pf_memberRetries, pf_predsStep, pf_seqStep, pf_sysrstUp]
    | refine (pf_each _ _ (fun a s => ?_) _).trans ?_
    | split)

theorem pf_dueActivation (s : State) : (dueActivation s).pf = s.pf := by
  unfold dueActivation
  repeat' (first
    | with_reducible rfl
    | simp only [pf_mk, pf_fold, ite_pf, ite_self, implies_true, pf_activateAt]
    | refine (pf_each _ _ (fun a s => ?_) _).trans ?_
    | split)

theorem pf_order6 (s : State) : (order6 s).pf = s.pf := by
  unfold order6
  repeat' (first
    | with_reducible rfl
    | simp only [pf_mk, pf_fold, ite_pf, ite_self, implies_true, pf_applyDecided, pf_applySetups, pf_autoRevert,
          pf_bootOnRequest, pf_commitLoads, pf_damperBoundary, pf_dueActivation, pf_judgeStep, pf_selections]
    | refine (pf_each _ _ (fun a s => ?_) _).trans ?_
    | split)

theorem pf_hostLink (b : BoundaryIn) (s : State) : (hostLink b s).pf = s.pf := by
  unfold hostLink
  repeat' (first
    | with_reducible rfl
    | simp only [pf_mk, pf_fold, ite_pf, ite_self, implies_true, pf_hostReset, pf_lockAutoOpen]
    | refine (pf_each _ _ (fun a s => ?_) _).trans ?_
    | split)

theorem pf_order9 (b : BoundaryIn) (s : State) : (order9 b s).pf = s.pf := by
  unfold order9
  repeat' (first
    | with_reducible rfl
    | simp only [pf_mk, pf_fold, ite_pf, ite_self, implies_true, pf_applyFinals, pf_convStep, pf_hostLink,
          pf_linkFrame, pf_owBegin, pf_sendEvents]
    | refine (pf_each _ _ (fun a s => ?_) _).trans ?_
    | split)

theorem pf_decide3to7 (b : BoundaryIn) (s : State) : (decide3to7 b s).pf = s.pf := by
  unfold decide3to7
  repeat' (first
    | with_reducible rfl
    | simp only [pf_mk, pf_fold, ite_pf, ite_self, implies_true, pf_order3, pf_order4, pf_order6, pf_order7]
    | refine (pf_each _ _ (fun a s => ?_) _).trans ?_
    | split)

theorem pf_operate (b : BoundaryIn) (s : State) : (operate b s).pf = s.pf := by
  unfold operate
  repeat' (first
    | with_reducible rfl
    | simp only [pf_mk, pf_fold, ite_pf, ite_self, implies_true, pf_decide3to7, pf_order2, pf_order8, pf_order9,
          pf_owResults, pf_watchdogReset, pf_xrstStep]
    | refine (pf_each _ _ (fun a s => ?_) _).trans ?_
    | split)

theorem pf_bootWatch (b : BoundaryIn) (s : State) : (bootWatch b s).pf = s.pf := by
  unfold bootWatch
  repeat' (first
    | with_reducible rfl
    | simp only [pf_mk, pf_fold, ite_pf, ite_self, implies_true, pf_bootFailure, pf_watchdogCount]
    | refine (pf_each _ _ (fun a s => ?_) _).trans ?_
    | split)

theorem pf_bootStep (b : BoundaryIn) (s : State) : (bootStep b s).pf = s.pf := by
  unfold bootStep
  repeat' (first
    | with_reducible rfl
    | simp only [pf_mk, pf_fold, ite_pf, ite_self, implies_true, pf_bootActivation, pf_bootFailure, pf_bootWatch,
          pf_convStep, pf_order7, pf_order8, pf_order9, pf_sampleVio]
    | refine (pf_each _ _ (fun a s => ?_) _).trans ?_
    | split)

theorem pf_recoveryStep (b : BoundaryIn) (s : State) : (recoveryStep b s).pf = s.pf := by
  unfold recoveryStep
  repeat' (first
    | with_reducible rfl
    | simp only [pf_mk, pf_fold, ite_pf, ite_self, implies_true, pf_applyFinals, pf_bootWatch, pf_fwTick, pf_recoveryReset]
    | refine (pf_each _ _ (fun a s => ?_) _).trans ?_
    | split)

/-! ## The operations that move the frame counter -/

theorem pending_of_pf {s t : State} (h : t.pf = s.pf) : t.pending = s.pending := congrArg Prod.fst h

theorem frame_of_pf {s t : State} (h : t.pf = s.pf) : t.clk.frame = s.clk.frame := congrArg Prod.snd h

theorem loadFrame_ahead {v : Frame} {s : State} (h : frameBefore s.clk.frame v = true) :
    (loadFrame v s).pf = (s.pending, v) := by
  have e : loadFrame v s =
      (let u := shiftGrid (8 * (v - s.clk.frame).toNat) { s with clk := { s.clk with frame := v, load := none }, sca := { s.sca with ahead := 0 } }
      jInternal 0x82 2 s.clk.frame.toNat 0 false (raise 0x12 u.tsB (detF (s.clk.frame.toNat % 2 ^ 32) 0 0) u)) := if_pos h
  rw [e]
  exact (pf_of_fixed (fixed_jInternal _ _ _ _ _ _)).trans ((pf_of_fixed (fixed_raise _ _ _ _)).trans
    (pf_of_fixed (fixed_shiftGrid _
      { s with clk := { s.clk with frame := v, load := none }, sca := { s.sca with ahead := 0 } })))

theorem loadFrame_behind {v : Frame} {s : State} (h : ¬ frameBefore s.clk.frame v = true) : (loadFrame v s).pf = s.pf := by
  have e : loadFrame v s = { s with clk := { s.clk with load := none } } := if_neg h
  rw [e]
  rfl

/-- A counter load takes the value where it lies ahead, else nothing (R41). -/
theorem pf_loadFrame (v : Frame) (s : State) :
    (loadFrame v s).pf = (s.pending, if frameBefore s.clk.frame v then v else s.clk.frame) := by
  split
  · exact loadFrame_ahead ‹_›
  · exact loadFrame_behind ‹_›

theorem pending_loadFrame (v : Frame) (s : State) : (loadFrame v s).pending = s.pending :=
  congrArg Prod.fst (pf_loadFrame v s)

theorem pf_atBoundary (f : State → State) (s : State) (hf : ∀ s, (f s).pf = s.pf) : (atBoundary f s).pf = s.pf := by
  have h := pending_of_pf (hf { s with clk := { s.clk with frame := s.clk.frame + 1 } })
  unfold atBoundary
  generalize f { s with clk := { s.clk with frame := s.clk.frame + 1 } } = t at h ⊢
  exact congrArg (·, s.clk.frame) h

theorem pf_hostRow (op r : Nat) (d : Desc) (s : State) : (hostRow op r d s).pf = s.pf := by
  unfold hostRow
  split
  · rfl
  · simp only
    split
    · rfl
    · split
      · rfl
      · refine (pf_atBoundary _ _ (fun s => (pf_of_fixed (fixed_progsTell _)).trans (pf_applyCmd _ s))).trans ?_
        exact pf_of_fixed (fixed_acceptEntry _ _ _ (s.modRing (8 + r) _))

theorem pending_order1 (s : State) : (order1 s).pending = s.pending := by
  unfold order1
  simp only
  refine (pending_of_pf (pf_each _ _ (fun a s => pf_of_fixed (fixed_engineOver a s)) _)).trans
    ((pending_of_pf (pf_of_fixed (fixed_readyDrop _ _))).trans ?_)
  have h (t : State) : (if t.fw.h = some t.clk.frame then handover_ t else t).pending = t.pending := by
    split
    · exact pending_of_pf (pf_of_fixed (fixed_handover_ _))
    · rfl
  refine (h _).trans ?_
  have hc (t : State) : (clearNow t).pending = t.pending := pending_of_pf (pf_of_fixed (fixed_clearNow t))
  split
  · split
    · exact (pending_loadFrame _ _).trans (hc _)
    · exact hc _
  · exact hc _

theorem pending_frameBoundary (b : BoundaryIn) (s : State) : (frameBoundary b s).pending = s.pending := by
  unfold frameBoundary
  split
  · rfl
  · have h2 : (pendingStep (powerStep b (order1 (endFrame b s)))).pending = s.pending :=
      (pending_of_pf (pf_of_fixed (fixed_pendingStep _))).trans
        ((pending_of_pf (pf_powerStep _ _)).trans ((pending_order1 _).trans (pending_of_pf (pf_of_fixed (fixed_endFrame _ _)))))
    revert h2
    simp only
    generalize pendingStep (powerStep b (order1 (endFrame b s))) = t
    intro h2
    have h3 : (if t.running! = true then t else xrstStep b t).pending = s.pending := by
      split
      · exact h2
      · exact (pending_of_pf (pf_xrstStep _ _)).trans h2
    revert h3
    generalize (if t.running! = true then t else xrstStep b t) = u
    intro h3
    split
    · exact (pending_of_pf (pf_operate _ _)).trans h3
    · exact (pending_of_pf (pf_bootStep _ _)).trans h3
    · exact (pending_of_pf (pf_bootStep _ _)).trans h3
    · exact (pending_of_pf (pf_bootStep _ _)).trans h3
    · exact (pending_of_pf (pf_recoveryStep _ _)).trans h3
    · split
      · exact (pending_of_pf (pf_emberExit _)).trans h3
      · exact h3
    · exact h3

theorem pending_tickBoundary (b : BoundaryIn) (s : State) : (tickBoundary b s).pending = s.pending := by
  unfold tickBoundary
  split
  · exact pending_frameBoundary b s
  · rfl

theorem pending_powerLoss (s : State) : (powerLoss s).pending = s.pending :=
  (pending_of_pf (pf_of_fixed (fixed_eraseAbort (programAbort s)))).trans (pending_of_pf (pf_of_fixed (fixed_programAbort s)))

end Sys2Proof.Machine
end

