-- ==== Sys2Proof/Laws/Regs.lean ====
section
/-! SUPPORT. Laws/Regs.lean: what the writers of register words keep: the canonical form, and 0 in every bit a word does
not have. -/

namespace Sys2Proof.Machine

theorem Fits.zero (k : Nat) : Fits k 0 := by simp [Fits]

theorem WordsOk.nil : WordsOk [] := ⟨rfl, fun k => Fits.zero k⟩

theorem WordsOk.set {t : Tbl W32} (h : WordsOk t) {k : Nat} {v : W32} (hv : Fits k v) : WordsOk (tset 0 t k v) := by
  refine ⟨twf_tset 0 t k v h.1, fun j => ?_⟩
  rw [tget_tset]
  split
  · next e => rw [e]; exact hv
  · exact h.2 j

theorem fits_bits (k : Nat) (v : W32) : Fits k v ↔ ∀ i, i < 32 → v.getLsbD i = true → (wordMask k).testBit i = true := by
  have e (i : Nat) (hi : i < 32) : (v &&& ~~~(BitVec.ofNat 32 (wordMask k))).getLsbD i = (v.getLsbD i && !(wordMask k).testBit i) := by
    simp only [BitVec.getLsbD_and, BitVec.getLsbD_not, BitVec.getLsbD_ofNat, hi, decide_true, Bool.true_and]
  unfold Fits
  constructor
  · intro h i hi hv
    have x := e i hi
    rw [h, hv] at x
    simpa using x.symm
  · intro h
    apply BitVec.eq_of_getLsbD_eq
    intro i hi
    rw [e i hi]
    cases hv : v.getLsbD i
    · simp
    · simp [h i hi hv]

/-- The RWS bits are bits of the word. -/
theorem rws_sub (k i : Nat) (h : (rwsMask k).testBit i = true) : (wordMask k).testBit i = true := by
  unfold wordMask
  split
  · simp [Nat.testBit_or, h]
  · exact h

theorem Fits.merge {k : Nat} {w : W32} (h : Fits k w) (v : W32) : Fits k (merge (rwsMask k) w v) := by
  rw [fits_bits] at h ⊢
  intro i hi hm
  cases hr : (rwsMask k).testBit i
  · exact h i hi (by
      simpa only [Machine.merge, BitVec.getLsbD_or, BitVec.getLsbD_and, BitVec.getLsbD_not, BitVec.getLsbD_ofNat, hi, hr,
        decide_true, Bool.true_and, Bool.not_false, Bool.and_true, Bool.and_false, Bool.or_false] using hm)
  · exact rws_sub k i hr

theorem Fits.and {k : Nat} {w : W32} (h : Fits k w) (m : W32) : Fits k (w &&& m) := by
  rw [fits_bits] at h ⊢
  intro i hi hm
  rw [BitVec.getLsbD_and, Bool.and_eq_true] at hm
  exact h i hi hm.1

set_option maxRecDepth 20000 in
/-- The RWS bits of the first calibration word of a channel. -/
theorem cal_first : ∀ n, n < 152 → rwsMask (calKey + 8 * n) = 0x03FFFFFF := by decide

/-- The bits an image can give a word are bits of the word. -/
theorem cfg_sub (k i : Nat) (h : (cfgMask k).testBit i = true) : (wordMask k).testBit i = true := by
  unfold cfgMask at h
  unfold wordMask
  split at h
  · simp at h
  · split at h
    · next hc =>
      rw [if_pos hc]
      have e : rwsMask k = 0x03FFFFFF := by
        obtain ⟨h1, h2, h3⟩ := hc
        have : k = calKey + 8 * ((k - calKey) / 8) := by simp only [calKey] at h1 h2 h3 ⊢; omega
        rw [this]
        exact cal_first ((k - calKey) / 8) (by simp only [calKey] at h1 h2 h3 ⊢; omega)
      rw [e] at h ⊢
      exact h
    · next hc => rw [if_neg hc]; exact h

theorem fits_cfg (k v : Nat) : Fits k (BitVec.ofNat 32 (v &&& cfgMask k)) := by
  rw [fits_bits]
  intro i hi hv
  apply cfg_sub
  rw [BitVec.getLsbD_ofNat, Nat.testBit_and] at hv
  simp only [Bool.and_eq_true] at hv
  exact hv.2.2

theorem fits_cfg' (k : Nat) (w : W32) : Fits k (w &&& BitVec.ofNat 32 (cfgMask k)) := by
  rw [fits_bits]
  intro i hi hv
  apply cfg_sub
  rw [BitVec.getLsbD_and, BitVec.getLsbD_ofNat] at hv
  simp only [Bool.and_eq_true] at hv
  exact hv.2.2

/-! ## Tables put together from parts -/

theorem tget_append_left (d : W32) (a b : Tbl W32) (k : Nat) (h : ∀ p ∈ a, p.1 ≠ k) : tget d (a ++ b) k = tget d b k := by
  induction a with
  | nil => rfl
  | cons p a ih => simp_all [tget]

theorem tget_mem (t : Tbl W32) (k : Nat) : tget 0 t k = 0 ∨ (k, tget 0 t k) ∈ t := by
  induction t with
  | nil => exact .inl rfl
  | cons p t ih =>
    obtain ⟨j, v⟩ := p
    simp only [tget]
    split
    · next h => subst h; exact .inr (by simp)
    · rcases ih with h | h
      · exact .inl h
      · exact .inr (List.mem_cons_of_mem _ h)

/-- Canonical form by its parts: keys rise, no value is 0. -/
theorem twfFrom_iff (t : Tbl W32) (o : Option Nat) :
    twfFrom 0 o t = true ↔ t.Pairwise (fun p q => p.1 < q.1) ∧ (∀ p ∈ t, p.2 ≠ 0) ∧ ∀ n, o = some n → ∀ p ∈ t, n < p.1 := by
  induction t generalizing o with
  | nil => cases o <;> simp [twfFrom]
  | cons p t ih =>
    obtain ⟨j, v⟩ := p
    cases o with
    | none =>
      simp only [twfFrom, Bool.and_eq_true, decide_eq_true_eq, ih, List.pairwise_cons, List.mem_cons, forall_eq_or_imp]
      constructor
      · rintro ⟨hv, h1, h2, h3⟩
        exact ⟨⟨fun q hq => h3 j rfl q hq, h1⟩, ⟨hv, h2⟩, fun n e => nomatch e⟩
      · rintro ⟨⟨h3, h1⟩, ⟨hv, h2⟩, -⟩
        exact ⟨hv, h1, h2, fun n e q hq => by cases e; exact h3 q hq⟩
    | some n =>
      simp only [twfFrom, Bool.and_eq_true, decide_eq_true_eq, ih, List.pairwise_cons, List.mem_cons, forall_eq_or_imp]
      constructor
      · rintro ⟨⟨hn, hv⟩, h1, h2, h3⟩
        refine ⟨⟨fun q hq => h3 j rfl q hq, h1⟩, ⟨hv, h2⟩, fun m e => ?_⟩
        cases e
        exact ⟨hn, fun q hq => Nat.lt_trans hn (h3 j rfl q hq)⟩
      · rintro ⟨⟨h3, h1⟩, ⟨hv, h2⟩, h4⟩
        exact ⟨⟨(h4 n rfl).1, hv⟩, h1, h2, fun m e q hq => by cases e; exact h3 q hq⟩

theorem twf_iff (t : Tbl W32) : twf 0 t = true ↔ t.Pairwise (fun p q => p.1 < q.1) ∧ ∀ p ∈ t, p.2 ≠ 0 := by
  unfold twf
  rw [twfFrom_iff]
  simp

/-- A canonical table reads each of its entries. -/
theorem tget_of_mem {t : Tbl W32} (h : t.Pairwise (fun p q => p.1 < q.1)) {k : Nat} {v : W32} (hm : (k, v) ∈ t) :
    tget 0 t k = v := by
  induction t with
  | nil => simp at hm
  | cons p t ih =>
    obtain ⟨j, w⟩ := p
    rw [List.pairwise_cons] at h
    simp only [List.mem_cons, Prod.mk.injEq] at hm
    simp only [tget]
    rcases hm with ⟨rfl, rfl⟩ | hm
    · simp
    · have := h.1 _ hm
      rw [if_neg (by simp at this; omega)]
      exact ih h.2 hm

/-- Words that are well formed, by the entries of the table. -/
theorem wordsOk_iff (t : Tbl W32) :
    WordsOk t ↔ t.Pairwise (fun p q => p.1 < q.1) ∧ (∀ p ∈ t, p.2 ≠ 0) ∧ ∀ p ∈ t, Fits p.1 p.2 := by
  unfold WordsOk
  rw [twf_iff]
  constructor
  · rintro ⟨⟨h1, h2⟩, h3⟩
    refine ⟨h1, h2, fun p hp => ?_⟩
    have := h3 p.1
    rwa [tget_of_mem h1 hp] at this
  · rintro ⟨h1, h2, h3⟩
    refine ⟨⟨h1, h2⟩, fun k => ?_⟩
    rcases tget_mem t k with h | h
    · rw [h]; exact Fits.zero k
    · exact h3 _ h

theorem WordsOk.filter {t : Tbl W32} (h : WordsOk t) (p : Nat × W32 → Bool) : WordsOk (t.filter p) := by
  rw [wordsOk_iff] at h ⊢
  exact ⟨h.1.filter p, fun q hq => h.2.1 q (List.mem_of_mem_filter hq), fun q hq => h.2.2 q (List.mem_of_mem_filter hq)⟩

theorem WordsOk.append {a b : Tbl W32} (ha : WordsOk a) (hb : WordsOk b) (h : ∀ p ∈ a, ∀ q ∈ b, p.1 < q.1) :
    WordsOk (a ++ b) := by
  rw [wordsOk_iff] at ha hb ⊢
  refine ⟨List.pairwise_append.mpr ⟨ha.1, hb.1, h⟩, fun p hp => ?_, fun p hp => ?_⟩
  · rcases List.mem_append.mp hp with x | x
    · exact ha.2.1 p x
    · exact hb.2.1 p x
  · rcases List.mem_append.mp hp with x | x
    · exact ha.2.2 p x
    · exact hb.2.2 p x

theorem WordsOk.reset : WordsOk State.resetRegs := by
  rw [wordsOk_iff]
  refine ⟨by simp [State.resetRegs], by simp [State.resetRegs], fun p hp => ?_⟩
  simp only [State.resetRegs, List.mem_singleton] at hp
  subst hp
  unfold Fits
  decide

end Sys2Proof.Machine
end

