-- ==== Sys2Proof/Laws/RegsKept.lean ====
section
/-! SUPPORT. Laws/RegsKept.lean: every operation that writes register words keeps them well formed. -/

set_option linter.all false
set_option linter.unusedSimpArgs false
set_option linter.unreachableTactic false
set_option linter.unusedTactic false

namespace Sys2Proof.Machine

theorem RegsOk.of_fixed {s t : State} (h : RegsOk s) (e : t.fixed = s.fixed) : RegsOk t := by
  have e1 : t.bar0 = s.bar0 := congrArg (fun x : List Instr × Frame × Tbl W32 × Tbl W32 => x.2.2.1) e
  have e2 : t.cfg = s.cfg := congrArg (fun x : List Instr × Frame × Tbl W32 × Tbl W32 => x.2.2.2) e
  unfold RegsOk
  rw [e1, e2]
  exact h

theorem regs_mk (a b c d e f g h i j k l m n o p q r u v w x y z a1 b1 c1 d1 e1 f1 g1 h1 i1 j1 k1 l1) :
    RegsOk (State.mk a b c d e f g h i j k l m n o p q r u v w x y z a1 b1 c1 d1 e1 f1 g1 h1 i1 j1 k1 l1) =
      (WordsOk k ∧ WordsOk l) := rfl

theorem regs_fold (s : State) : (WordsOk s.bar0 ∧ WordsOk s.cfg) = RegsOk s := rfl

theorem regs_each {α : Type} (l : List α) (f : α → State → State) (hf : ∀ a s, RegsOk s → RegsOk (f a s)) (s : State)
    (h : RegsOk s) : RegsOk (each l f s) := by
  unfold each
  induction l generalizing s with
  | nil => exact h
  | cons a l ih => exact ih _ (hf a s h)

theorem regs_setReg (k : Nat) (v : W32) (s : State) (hv : Fits k v) (h : RegsOk s) : RegsOk (s.setReg k v) :=
  ⟨h.1.set hv, h.2.set hv⟩

theorem regs_loopWrite (p : Nat × Nat) (s : State) (h : RegsOk s) : RegsOk (loopWrite p s) :=
  ⟨h.1.set (Fits.merge (h.1.2 _) _), h.2.set (Fits.merge (h.2.2 _) _)⟩

theorem regs_writeSetup (o : Nat) (v : W32) (cyc : Nat) (s : State) (h : RegsOk s) : RegsOk (writeSetup o v cyc s) := by
  unfold writeSetup
  simp only
  split
  · exact h
  · split
    · exact h.of_fixed (fixed_raise _ _ _ _)
    · split
      · exact h.of_fixed (fixed_raise _ _ _ _)
      · exact ⟨h.1.set (Fits.merge (h.1.2 _) _), h.2⟩

theorem regs_applySetup (k : Nat) (v : W32) (s : State) (h : RegsOk s) : RegsOk (applySetup k v s) := by
  have h1 : RegsOk { s with cfg := tset 0 s.cfg k (merge (rwsMask k) (s.cw k) v) } :=
    ⟨h.1, h.2.set (Fits.merge (h.2.2 _) _)⟩
  unfold applySetup
  simp only
  repeat' (first
    | with_reducible exact h1
    | with_reducible refine RegsOk.of_fixed ?_ (fixed_ringEnable _ _ _)
    | with_reducible refine RegsOk.of_fixed ?_ (fixed_setupConv _ _)
    | with_reducible refine RegsOk.of_fixed ?_ (fixed_portsUpdate _)
    | split)

theorem regs_ringReset (r : Nat) (s : State) (h : RegsOk s) : RegsOk (ringReset r s) := by
  unfold ringReset
  simp only
  refine RegsOk.of_fixed ?_ (fixed_modRing _ _ _)
  exact ⟨h.1.set ((h.1.2 _).and _), h.2.set ((h.2.2 _).and _)⟩

theorem wordsOk_imageWords (im : Image) : WordsOk (imageWords im) := by
  have h (l : List (Nat × Nat)) (t : Tbl W32) (ht : WordsOk t) :
      WordsOk (l.foldl (fun t p => tset 0 t p.1 (BitVec.ofNat 32 (p.2 &&& cfgMask p.1))) t) := by
    induction l generalizing t with
    | nil => exact ht
    | cons p l ih => exact ih _ (ht.set (fits_cfg _ _))
  exact h _ _ WordsOk.nil

theorem wordsOk_withImage {a t : Tbl W32} (ha : WordsOk a) (ht : WordsOk t) :
    WordsOk (a.filter (fun p => p.1 < 0x1000) ++ t.filter (fun p => within 0x1000 0x133F p.1) ++
      a.filter (fun p => 0x133F < p.1)) := by
  refine WordsOk.append (WordsOk.append (ha.filter _) (ht.filter _) ?_) (ha.filter _) ?_
  · intro p hp q hq
    simp only [List.mem_filter, within, decide_eq_true_eq] at hp hq
    omega
  · intro p hp q hq
    simp only [List.mem_append, List.mem_filter, within, decide_eq_true_eq] at hp hq
    omega

theorem regs_withImage (im : Image) (s : State) (h : RegsOk s) : RegsOk (withImage im s) :=
  ⟨wordsOk_withImage (wordsOk_imageWords im) h.1, wordsOk_withImage (wordsOk_imageWords im) h.2⟩

theorem regs_resetCore (held : Bool) (s : State) (h : RegsOk s) : RegsOk (resetCore held s) := by
  have w (t : Tbl W32) (ht : WordsOk t) :
      WordsOk ((t.filter fun p => held && p.1 < 0x5000 && heldWord p.1) ++ State.resetRegs ++
        (t.filter fun p => held && 0x6000 ≤ p.1 && heldWord p.1)) := by
    refine WordsOk.append (WordsOk.append (ht.filter _) WordsOk.reset ?_) (ht.filter _) ?_
    · intro p hp q hq
      simp only [List.mem_filter, Bool.and_eq_true, decide_eq_true_eq] at hp
      simp only [State.resetRegs, List.mem_singleton] at hq
      subst hq
      show p.1 < 0x560C
      omega
    · intro p hp q hq
      simp only [List.mem_append, List.mem_filter, State.resetRegs, List.mem_singleton, Bool.and_eq_true,
            decide_eq_true_eq] at hp hq
      rcases hp with hp | rfl
      · omega
      · show 0x560C < q.1; omega
  exact ⟨w _ h.1, w _ h.2⟩

theorem regs_pd0Lost (s : State) : RegsOk (pd0Lost s) := ⟨WordsOk.reset, WordsOk.reset⟩

theorem fits_full (v : W32) : Fits 0x6104 v := by
  have e : wordMask 0x6104 = 0xFFFFFFFF := by decide
  unfold Fits
  rw [e]
  simp

theorem regs_pick (k : Nat) (im : Image) (s : State) (h : RegsOk s) :
    RegsOk { s with cfg := tset 0 s.cfg k (tget 0 im.regs k &&& BitVec.ofNat 32 (cfgMask k)) } :=
  ⟨h.1, h.2.set (fits_cfg' _ _)⟩

theorem pdesc_mask : ∀ n, n < 64 → wordMask (0x4100 + 4 * n) = 0x7FFF := by decide

theorem fits_pdesc (n a b : Nat) (hn : n < 64) : Fits (0x4100 + 4 * n) (BitVec.ofNat 32 (put a 0 13 + put 1 13 1 + put
    b 14 1)) := by
  have h1 := Nat.mod_lt a (show 0 < 2 ^ 13 by decide)
  have h2 := Nat.mod_lt b (show 0 < 2 ^ 1 by decide)
  have e : put a 0 13 + put 1 13 1 + put b 14 1 < 2 ^ 15 := by simp only [put]; omega
  rw [fits_bits, pdesc_mask n hn]
  intro i hi hv
  rw [BitVec.getLsbD_ofNat] at hv
  have hb : (put a 0 13 + put 1 13 1 + put b 14 1).testBit i = true := by simpa [hi] using hv
  have hi2 : i < 15 := by
    rcases Nat.lt_or_ge i 15 with h | h
    · exact h
    · rw [Nat.testBit_lt_two_pow (Nat.lt_of_lt_of_le e (Nat.pow_le_pow_right (by decide) h))] at hb
      cases hb
  have : ∀ i, i < 15 → Nat.testBit 0x7FFF i = true := by decide
  exact this i hi2

theorem regs_takeover_mask (s : State) (c : Nat) (h : RegsOk s) :
    RegsOk (s.setReg 0x7000 (s.cw 0x7000 &&& ~~~(BitVec.ofNat 32 (2 ^ c)))) :=
  regs_setReg _ _ _ ((h.2.2 _).and _) h

theorem regs_loadFrame (v : Frame) (s : State) (hs : RegsOk s) : RegsOk (loadFrame v s) := by
  unfold loadFrame
  try simp only
  repeat' (first
    | with_reducible assumption
    | with_reducible refine RegsOk.of_fixed ?_ (fixed_jInternal _ _ _ _ _ _)
    | with_reducible refine RegsOk.of_fixed ?_ (fixed_raise _ _ _ _)
    | with_reducible refine RegsOk.of_fixed ?_ (fixed_shiftGrid _ _)
    | with_reducible refine regs_each _ _ (fun a s _ => ?_) _ ?_
    | split
    | simp only [regs_mk, regs_fold])

theorem regs_takeover (cause : Nat) (s : State) (hs : RegsOk s) : RegsOk (takeover cause s) := by
  unfold takeover
  try simp only
  repeat' (first
    | with_reducible assumption
    | with_reducible refine regs_setReg _ _ _ ?_ ?_
    | with_reducible refine RegsOk.of_fixed ?_ (fixed_assertXrst _)
    | with_reducible refine RegsOk.of_fixed ?_ (fixed_jInternal _ _ _ _ _ _)
    | with_reducible refine RegsOk.of_fixed ?_ (fixed_newEpoch _)
    | with_reducible refine RegsOk.of_fixed ?_ (fixed_offRequest _ _ _ _)
    | with_reducible refine RegsOk.of_fixed ?_ (fixed_raise _ _ _ _)
    | with_reducible refine RegsOk.of_fixed ?_ (fixed_resumeItem _ _)
    | with_reducible refine RegsOk.of_fixed ?_ (fixed_stageHalt _ _ _)
    | with_reducible refine RegsOk.of_fixed ?_ (fixed_takeoverFaults _)
    | exact (And.right (by assumption : RegsOk _)).2 _ |>.and _
    | with_reducible refine regs_each _ _ (fun a s _ => ?_) _ ?_
    | split
    | simp only [regs_mk, regs_fold])

theorem regs_shadowTakes (cause : Nat) (s : State) (hs : RegsOk s) : RegsOk (shadowTakes cause s) := by
  unfold shadowTakes
  try simp only
  repeat' (first
    | with_reducible assumption
    | with_reducible refine regs_takeover _ _ ?_
    | with_reducible refine RegsOk.of_fixed ?_ (fixed_toMembers _ _)
    | with_reducible refine regs_each _ _ (fun a s _ => ?_) _ ?_
    | split
    | simp only [regs_mk, regs_fold])

theorem regs_namedStep (s : State) (hs : RegsOk s) : RegsOk (namedStep s) := by
  unfold namedStep
  try simp only
  repeat' (first
    | with_reducible assumption
    | with_reducible refine regs_takeover _ _ ?_
    | with_reducible refine regs_each _ _ (fun a s _ => ?_) _ ?_
    | split
    | simp only [regs_mk, regs_fold])

theorem regs_linkLoss (s : State) (hs : RegsOk s) : RegsOk (linkLoss s) := by
  unfold linkLoss
  try simp only
  repeat' (first
    | with_reducible assumption
    | with_reducible refine regs_shadowTakes _ _ ?_
    | with_reducible refine regs_each _ _ (fun a s _ => ?_) _ ?_
    | split
    | simp only [regs_mk, regs_fold])

theorem regs_heartbeatLoss (s : State) (hs : RegsOk s) : RegsOk (heartbeatLoss s) := by
  unfold heartbeatLoss
  try simp only
  repeat' (first
    | with_reducible assumption
    | with_reducible refine regs_shadowTakes _ _ ?_
    | with_reducible refine regs_each _ _ (fun a s _ => ?_) _ ?_
    | split
    | simp only [regs_mk, regs_fold])

theorem regs_handover (s : State) (hs : RegsOk s) : RegsOk (handover s) := by
  unfold handover
  try simp only
  repeat' (first
    | with_reducible assumption
    | with_reducible refine RegsOk.of_fixed ?_ (fixed_finish _ _ _ _)
    | with_reducible refine RegsOk.of_fixed ?_ (fixed_holdStages _)
    | with_reducible refine regs_takeover _ _ ?_
    | with_reducible refine regs_each _ _ (fun a s _ => ?_) _ ?_
    | split
    | simp only [regs_mk, regs_fold])

theorem regs_pairStep (s : State) (hs : RegsOk s) : RegsOk (pairStep s) := by
  unfold pairStep
  try simp only
  repeat' (first
    | with_reducible assumption
    | with_reducible refine regs_namedStep _ ?_
    | with_reducible refine RegsOk.of_fixed ?_ (fixed_pairCount _)
    | with_reducible refine RegsOk.of_fixed ?_ (fixed_shadowReset _)
    | with_reducible refine regs_shadowTakes _ _ ?_
    | with_reducible refine regs_each _ _ (fun a s _ => ?_) _ ?_
    | split
    | simp only [regs_mk, regs_fold])

theorem regs_handoverStep (s : State) (hs : RegsOk s) : RegsOk (handoverStep s) := by
  unfold handoverStep
  try simp only
  repeat' (first
    | with_reducible assumption
    | with_reducible refine regs_handover _ ?_
    | with_reducible refine RegsOk.of_fixed ?_ (fixed_quietPoint _)
    | with_reducible refine regs_each _ _ (fun a s _ => ?_) _ ?_
    | split
    | simp only [regs_mk, regs_fold])

theorem regs_railsLeave (im : Image) (s : State) (hs : RegsOk s) : RegsOk (railsLeave im s) := by
  unfold railsLeave
  try simp only
  repeat' (first
    | with_reducible assumption
    | with_reducible refine RegsOk.of_fixed ?_ (fixed_marginLeave _ _)
    | with_reducible refine regs_withImage _ _ ?_
    | with_reducible refine regs_each _ _ (fun a s _ => ?_) _ ?_
    | split
    | simp only [regs_mk, regs_fold])

theorem regs_activate (im : Image) (first : Bool) (s : State) (hs : RegsOk s) : RegsOk (activate im first s) := by
  unfold activate
  try simp only
  repeat' (first
    | with_reducible assumption
    | with_reducible refine RegsOk.of_fixed ?_ (fixed_modEng _ _ _)
    | with_reducible refine RegsOk.of_fixed ?_ (fixed_entriesIn _ _)
    | with_reducible refine RegsOk.of_fixed ?_ (fixed_gate _ _ _)
    | with_reducible refine RegsOk.of_fixed ?_ (fixed_portsUpdate _)
    | with_reducible refine RegsOk.of_fixed ?_ (fixed_railsIn _ _)
    | with_reducible refine regs_railsLeave _ _ ?_
    | with_reducible refine RegsOk.of_fixed ?_ (fixed_refsIn _)
    | with_reducible refine RegsOk.of_fixed ?_ (fixed_stagesIn _ _)
    | with_reducible refine RegsOk.of_fixed ?_ (fixed_voutModes _)
    | with_reducible refine RegsOk.of_fixed ?_ (fixed_wcTables _)
    | with_reducible refine regs_withImage _ _ ?_
    | with_reducible refine RegsOk.of_fixed ?_ (fixed_wcRenew _ _)
    | with_reducible refine regs_each _ _ (fun a s _ => ?_) _ ?_
    | split
    | simp only [regs_mk, regs_fold])

theorem regs_activateGen (n p q : Nat) (s : State) (hs : RegsOk s) : RegsOk (activateGen n p q s) := by
  unfold activateGen
  try simp only
  repeat' (first
    | with_reducible assumption
    | with_reducible refine regs_activate _ _ _ ?_
    | with_reducible refine RegsOk.of_fixed ?_ (fixed_beginProb _ _)
    | with_reducible refine RegsOk.of_fixed ?_ (fixed_changeGen _ _ _ _)
    | with_reducible refine regs_each _ _ (fun a s _ => ?_) _ ?_
    | split
    | simp only [regs_mk, regs_fold])

theorem regs_revertGen (q : Nat) (s : State) (hs : RegsOk s) : RegsOk (revertGen q s) := by
  unfold revertGen
  try simp only
  repeat' (first
    | with_reducible assumption
    | with_reducible refine regs_activate _ _ _ ?_
    | with_reducible refine RegsOk.of_fixed ?_ (fixed_beginProb _ _)
    | with_reducible refine RegsOk.of_fixed ?_ (fixed_changeGen _ _ _ _)
    | with_reducible refine regs_each _ _ (fun a s _ => ?_) _ ?_
    | split
    | simp only [regs_mk, regs_fold])

theorem regs_autoRevert (s : State) (hs : RegsOk s) : RegsOk (autoRevert s) := by
  unfold autoRevert
  try simp only
  repeat' (first
    | with_reducible assumption
    | with_reducible refine RegsOk.of_fixed ?_ (fixed_jInternal _ _ _ _ _ _)
    | with_reducible refine RegsOk.of_fixed ?_ (fixed_raise _ _ _ _)
    | with_reducible refine regs_revertGen _ _ ?_
    | with_reducible refine regs_each _ _ (fun a s _ => ?_) _ ?_
    | split
    | simp only [regs_mk, regs_fold])

theorem regs_activateAt (s : State) (hs : RegsOk s) : RegsOk (activateAt s) := by
  unfold activateAt
  try simp only
  repeat' (first
    | with_reducible assumption
    | with_reducible refine regs_activateGen _ _ _ _ ?_
    | with_reducible refine RegsOk.of_fixed ?_ (fixed_finish _ _ _ _)
    | with_reducible refine regs_revertGen _ _ ?_
    | with_reducible refine regs_each _ _ (fun a s _ => ?_) _ ?_
    | split
    | simp only [regs_mk, regs_fold])

theorem regs_newCurrent (im : Image) (q : Nat) (s : State) (hs : RegsOk s) : RegsOk (newCurrent im q s) := by
  unfold newCurrent
  try simp only
  repeat' (first
    | with_reducible assumption
    | with_reducible refine regs_activate _ _ _ ?_
    | with_reducible refine RegsOk.of_fixed ?_ (fixed_beginProb _ _)
    | with_reducible refine RegsOk.of_fixed ?_ (fixed_changeGen _ _ _ _)
    | with_reducible refine RegsOk.of_fixed ?_ (fixed_writeImage _ _ _)
    | with_reducible refine regs_each _ _ (fun a s _ => ?_) _ ?_
    | split
    | simp only [regs_mk, regs_fold])

theorem regs_calPhaseDone (s : State) (hs : RegsOk s) : RegsOk (calPhaseDone s) := by
  unfold calPhaseDone
  try simp only
  repeat' (first
    | with_reducible assumption
    | with_reducible refine RegsOk.of_fixed ?_ (fixed_calRefuse _ _ _)
    | with_reducible refine RegsOk.of_fixed ?_ (fixed_finishAt _ _ _ _ _)
    | with_reducible refine regs_newCurrent _ _ _ ?_
    | with_reducible refine RegsOk.of_fixed ?_ (fixed_raise _ _ _ _)
    | with_reducible refine regs_each _ _ (fun a s _ => ?_) _ ?_
    | split
    | simp only [regs_mk, regs_fold])

theorem regs_chipReset (cause : Nat) (s : State) (hs : RegsOk s) : RegsOk (chipReset cause s) := by
  unfold chipReset
  try simp only
  repeat' (first
    | with_reducible assumption
    | with_reducible refine RegsOk.of_fixed ?_ (fixed_eraseAbort _)
    | with_reducible refine regs_resetCore _ _ ?_
    | with_reducible refine regs_each _ _ (fun a s _ => ?_) _ ?_
    | split
    | simp only [regs_mk, regs_fold])

theorem regs_powerLoss (s : State) (hs : RegsOk s) : RegsOk (powerLoss s) := by
  unfold powerLoss
  try simp only
  repeat' (first
    | with_reducible assumption
    | with_reducible exact regs_pd0Lost _
    | with_reducible refine regs_each _ _ (fun a s _ => ?_) _ ?_
    | split
    | simp only [regs_mk, regs_fold])

theorem regs_powerFailure (bits : Nat) (pf : Ts) (s : State) (hs : RegsOk s) : RegsOk (powerFailure bits pf s) := by
  unfold powerFailure
  try simp only
  repeat' (first
    | with_reducible assumption
    | with_reducible refine RegsOk.of_fixed ?_ (fixed_eraseAbort _)
    | with_reducible refine RegsOk.of_fixed ?_ (fixed_nvWrite _ _ _ _)
    | with_reducible refine regs_resetCore _ _ ?_
    | with_reducible refine regs_each _ _ (fun a s _ => ?_) _ ?_
    | split
    | simp only [regs_mk, regs_fold])

theorem regs_emberExit (s : State) (hs : RegsOk s) : RegsOk (emberExit s) := by
  unfold emberExit
  try simp only
  repeat' (first
    | with_reducible assumption
    | with_reducible refine regs_resetCore _ _ ?_
    | with_reducible refine regs_each _ _ (fun a s _ => ?_) _ ?_
    | split
    | simp only [regs_mk, regs_fold])

theorem regs_porstSeen (s : State) (hs : RegsOk s) : RegsOk (porstSeen s) := by
  unfold porstSeen
  try simp only
  repeat' (first
    | with_reducible assumption
    | with_reducible refine regs_chipReset _ _ ?_
    | with_reducible refine regs_each _ _ (fun a s _ => ?_) _ ?_
    | split
    | simp only [regs_mk, regs_fold])

theorem regs_xrstSeen (s : State) (hs : RegsOk s) : RegsOk (xrstSeen s) := by
  unfold xrstSeen
  try simp only
  repeat' (first
    | with_reducible assumption
    | with_reducible refine regs_chipReset _ _ ?_
    | with_reducible refine RegsOk.of_fixed ?_ (fixed_holdStages _)
    | with_reducible refine RegsOk.of_fixed ?_ (fixed_toHiz _ _)
    | with_reducible refine regs_each _ _ (fun a s _ => ?_) _ ?_
    | split
    | simp only [regs_mk, regs_fold])

theorem regs_bootFailure (s : State) (hs : RegsOk s) : RegsOk (bootFailure s) := by
  unfold bootFailure
  try simp only
  repeat' (first
    | with_reducible assumption
    | with_reducible refine regs_chipReset _ _ ?_
    | with_reducible refine RegsOk.of_fixed ?_ (fixed_fwStore _ _)
    | with_reducible refine regs_each _ _ (fun a s _ => ?_) _ ?_
    | split
    | simp only [regs_mk, regs_fold])

theorem regs_bootConfirmed (okA okB : Bool) (r : FwRec) (s : State) (hs : RegsOk s) : RegsOk (bootConfirmed okA okB r
    s) := by
  unfold bootConfirmed
  try simp only
  repeat' (first
    | with_reducible assumption
    | with_reducible refine regs_bootFailure _ ?_
    | with_reducible refine RegsOk.of_fixed ?_ (fixed_fwStore _ _)
    | with_reducible refine RegsOk.of_fixed ?_ (fixed_runFrom _ _ _)
    | with_reducible refine RegsOk.of_fixed ?_ (fixed_tellAtA _ _ _)
    | with_reducible refine regs_each _ _ (fun a s _ => ?_) _ ?_
    | split
    | simp only [regs_mk, regs_fold])

theorem regs_bootRevert (okA okB : Bool) (r : FwRec) (s : State) (hs : RegsOk s) : RegsOk (bootRevert okA okB r s) := by
  unfold bootRevert
  try simp only
  repeat' (first
    | with_reducible assumption
    | with_reducible refine regs_bootConfirmed _ _ _ _ ?_
    | with_reducible refine RegsOk.of_fixed ?_ (fixed_fwStore _ _)
    | with_reducible refine RegsOk.of_fixed ?_ (fixed_jAtA _ _ _ _)
    | with_reducible refine RegsOk.of_fixed ?_ (fixed_recoveryMode _ _ _)
    | with_reducible refine RegsOk.of_fixed ?_ (fixed_tellAtA _ _ _)
    | with_reducible refine regs_each _ _ (fun a s _ => ?_) _ ?_
    | split
    | simp only [regs_mk, regs_fold])

theorem regs_chooseBank (b : Sys2Proof.BootIn) (s : State) (hs : RegsOk s) : RegsOk (chooseBank b s) := by
  unfold chooseBank
  try simp only
  repeat' (first
    | with_reducible assumption
    | with_reducible refine RegsOk.of_fixed ?_ (fixed_bootCandidate _ _)
    | with_reducible refine regs_bootConfirmed _ _ _ _ ?_
    | with_reducible refine regs_bootFailure _ ?_
    | with_reducible refine regs_bootRevert _ _ _ _ ?_
    | with_reducible refine RegsOk.of_fixed ?_ (fixed_runFrom _ _ _)
    | with_reducible refine regs_each _ _ (fun a s _ => ?_) _ ?_
    | split
    | simp only [regs_mk, regs_fold])

theorem regs_bootBegin (b : Sys2Proof.BootIn) (s : State) (hs : RegsOk s) : RegsOk (bootBegin b s) := by
  unfold bootBegin
  try simp only
  repeat' (first
    | with_reducible assumption
    | with_reducible refine RegsOk.of_fixed ?_ (fixed_armEngine _ _)
    | with_reducible refine regs_bootFailure _ ?_
    | with_reducible refine regs_chooseBank _ _ ?_
    | with_reducible refine RegsOk.of_fixed ?_ (fixed_recoveryMode _ _ _)
    | with_reducible refine RegsOk.of_fixed ?_ (fixed_resolveIntent _)
    | with_reducible refine RegsOk.of_fixed ?_ (fixed_romScan _)
    | with_reducible refine regs_each _ _ (fun a s _ => ?_) _ ?_
    | split
    | simp only [regs_mk, regs_fold])

theorem regs_domainsBoot (s : State) (hs : RegsOk s) : RegsOk (domainsBoot s) := by
  unfold domainsBoot
  try simp only
  repeat' (first
    | with_reducible assumption
    | with_reducible refine RegsOk.of_fixed ?_ (fixed_modRefm _ _ _)
    | with_reducible refine RegsOk.of_fixed ?_ (fixed_domainOn _ _)
    | with_reducible refine regs_withImage _ _ ?_
    | exact ⟨hs.1, ((hs.2.set (fits_cfg' _ _)).set (fits_cfg' _ _)).set (fits_cfg' _ _)⟩
    | with_reducible refine regs_each _ _ (fun a s _ => ?_) _ ?_
    | split
    | simp only [regs_mk, regs_fold])

theorem regs_firmwareStart (s : State) (hs : RegsOk s) : RegsOk (firmwareStart s) := by
  unfold firmwareStart
  try simp only
  repeat' (first
    | with_reducible assumption
    | with_reducible refine RegsOk.of_fixed ?_ (fixed_armEngine _ _)
    | with_reducible refine RegsOk.of_fixed ?_ (fixed_armWhen _)
    | with_reducible refine RegsOk.of_fixed ?_ (fixed_bootScan _)
    | with_reducible refine RegsOk.of_fixed ?_ (fixed_chooseGen _)
    | with_reducible refine RegsOk.of_fixed ?_ (fixed_countsBoot _)
    | with_reducible refine regs_domainsBoot _ ?_
    | with_reducible refine RegsOk.of_fixed ?_ (fixed_emberRoom _)
    | with_reducible refine RegsOk.of_fixed ?_ (fixed_fillReserve _)
    | with_reducible refine RegsOk.of_fixed ?_ (fixed_jrnBoot _)
    | with_reducible refine RegsOk.of_fixed ?_ (fixed_nvBegin _)
    | with_reducible refine RegsOk.of_fixed ?_ (fixed_recBoot _ _)
    | with_reducible refine regs_each _ _ (fun a s _ => ?_) _ ?_
    | split
    | simp only [regs_mk, regs_fold])

theorem regs_bootActivation (s : State) (hs : RegsOk s) : RegsOk (bootActivation s) := by
  unfold bootActivation
  try simp only
  repeat' (first
    | with_reducible assumption
    | with_reducible refine regs_activate _ _ _ ?_
    | with_reducible refine RegsOk.of_fixed ?_ (fixed_bootRun _)
    | with_reducible refine RegsOk.of_fixed ?_ (fixed_bootTell _ _)
    | with_reducible refine RegsOk.of_fixed ?_ (fixed_joinsBegin _)
    | with_reducible refine RegsOk.of_fixed ?_ (fixed_lockAutoOpen _)
    | with_reducible refine RegsOk.of_fixed ?_ (fixed_onAfterA _)
    | with_reducible refine regs_each _ _ (fun a s _ => ?_) _ ?_
    | split
    | simp only [regs_mk, regs_fold])

theorem regs_watchdogExpiry (e : Nat) (s : State) (hs : RegsOk s) : RegsOk (watchdogExpiry e s) := by
  unfold watchdogExpiry
  try simp only
  repeat' (first
    | with_reducible assumption
    | with_reducible refine regs_bootFailure _ ?_
    | with_reducible refine RegsOk.of_fixed ?_ (fixed_stageFault _ _ _)
    | with_reducible refine RegsOk.of_fixed ?_ (fixed_trayExpiry _ _)
    | with_reducible refine regs_each _ _ (fun a s _ => ?_) _ ?_
    | split
    | simp only [regs_mk, regs_fold])

theorem regs_watchdogReset (s : State) (hs : RegsOk s) : RegsOk (watchdogReset s) := by
  unfold watchdogReset
  try simp only
  repeat' (first
    | with_reducible assumption
    | with_reducible refine regs_chipReset _ _ ?_
    | with_reducible refine regs_each _ _ (fun a s _ => ?_) _ ?_
    | split
    | simp only [regs_mk, regs_fold])

theorem regs_recoveryReset (s : State) (hs : RegsOk s) : RegsOk (recoveryReset s) := by
  unfold recoveryReset
  try simp only
  repeat' (first
    | with_reducible assumption
    | with_reducible refine regs_chipReset _ _ ?_
    | with_reducible refine regs_each _ _ (fun a s _ => ?_) _ ?_
    | split
    | simp only [regs_mk, regs_fold])

theorem regs_applySetups (s : State) (hs : RegsOk s) : RegsOk (applySetups s) := by
  unfold applySetups
  try simp only
  repeat' (first
    | with_reducible assumption
    | with_reducible refine regs_applySetup _ _ _ ?_
    | with_reducible refine regs_each _ _ (fun a s _ => ?_) _ ?_
    | split
    | simp only [regs_mk, regs_fold])

theorem regs_barWrite (o : Nat) (v : W32) (cyc : Nat) (s : State) (hs : RegsOk s) : RegsOk (barWrite o v cyc s) := by
  unfold barWrite
  try simp only
  repeat' (first
    | with_reducible assumption
    | with_reducible refine RegsOk.of_fixed ?_ (fixed_writeAction _ _ _)
    | with_reducible refine regs_writeSetup _ _ _ _ ?_
    | with_reducible refine RegsOk.of_fixed ?_ (fixed_writeW1c _ _ _)
    | with_reducible refine regs_each _ _ (fun a s _ => ?_) _ ?_
    | split
    | simp only [regs_mk, regs_fold])

theorem regs_setUpWrite (a : Access) (v : BitVec 64) (s : State) (hs : RegsOk s) : RegsOk (setUpWrite a v s) := by
  unfold setUpWrite
  try simp only
  repeat' (first
    | with_reducible assumption
    | with_reducible refine RegsOk.of_fixed ?_ (fixed_badAccess _ _ _ _)
    | with_reducible refine regs_barWrite _ _ _ _ ?_
    | with_reducible refine regs_each _ _ (fun a s _ => ?_) _ ?_
    | split
    | simp only [regs_mk, regs_fold])

theorem regs_hostReset (link : Bool) (s : State) (hs : RegsOk s) : RegsOk (hostReset link s) := by
  have h1 : RegsOk (each (List.range 18) ringReset (discardStaged s)) :=
    regs_each _ _ (fun a s h => regs_ringReset a s h) _ (hs.of_fixed (fixed_discardStaged _))
  have e : hostReset link s =
      let t := each (List.range 18) ringReset (discardStaged s)
      let u := if t.hst.lock = 1 then jInternal 0x80 1 0 2 false { t with hst := { t.hst with lock := 2 } } else t
      { u with hst := { u.hst with
        vecs := [], pba := 0, modLeft := [], modPend := [], dvec := [], wb := none, linkUp := link && u.pwr.domains.testBit 10, freset := true, fresetNow := true
        resets := sat 0xFFFF (u.hst.resets + 1) } } := by
    unfold hostReset; rfl
  rw [e]
  generalize each (List.range 18) ringReset (discardStaged s) = t at h1 ⊢
  have h2 : RegsOk (if t.hst.lock = 1 then jInternal 0x80 1 0 2 false { t with hst := { t.hst with lock := 2 } } else t) := by
    split
    · exact RegsOk.of_fixed (s := { t with hst := { t.hst with lock := 2 } }) h1 (fixed_jInternal _ _ _ _ _ _)
    · exact h1
  revert h2
  simp only
  generalize (if t.hst.lock = 1 then jInternal 0x80 1 0 2 false { t with hst := { t.hst with lock := 2 } } else t) = u
  exact fun h2 => h2

theorem regs_commitLoad (l : Live) (s : State) (hs : RegsOk s) : RegsOk (commitLoad l s) := by
  unfold commitLoad
  try simp only
  repeat' (first
    | with_reducible assumption
    | with_reducible refine regs_setReg _ _ _ ?_ ?_
    | with_reducible refine RegsOk.of_fixed ?_ (fixed_commitWords _ _)
    | with_reducible refine RegsOk.of_fixed ?_ (fixed_finish _ _ _ _)
    | with_reducible refine RegsOk.of_fixed ?_ (fixed_revertWord _ _)
    | exact fits_pdesc _ _ _ (Nat.mod_lt _ (by decide))
    | with_reducible refine regs_each _ _ (fun a s _ => ?_) _ ?_
    | split
    | simp only [regs_mk, regs_fold])

theorem regs_commitLoads (s : State) (hs : RegsOk s) : RegsOk (commitLoads s) := by
  unfold commitLoads
  try simp only
  repeat' (first
    | with_reducible assumption
    | with_reducible refine RegsOk.of_fixed ?_ (fixed_commitGraph _ _)
    | with_reducible refine regs_commitLoad _ _ ?_
    | with_reducible refine regs_each _ _ (fun a s _ => ?_) _ ?_
    | split
    | simp only [regs_mk, regs_fold])

theorem regs_cmdLoopSetup (l : Live) (s : State) (hs : RegsOk s) : RegsOk (cmdLoopSetup l s) := by
  unfold cmdLoopSetup
  try simp only
  repeat' (first
    | with_reducible assumption
    | with_reducible refine RegsOk.of_fixed ?_ (fixed_commitCoef _ _)
    | with_reducible refine RegsOk.of_fixed ?_ (fixed_finish _ _ _ _)
    | with_reducible refine regs_loopWrite _ _ ?_
    | with_reducible refine regs_each _ _ (fun a s _ => ?_) _ ?_
    | split
    | simp only [regs_mk, regs_fold])

theorem regs_cmdCapSet (l : Live) (s : State) (hs : RegsOk s) : RegsOk (cmdCapSet l s) := by
  unfold cmdCapSet
  try simp only
  repeat' (first
    | with_reducible assumption
    | with_reducible refine regs_setReg _ _ _ ?_ ?_
    | with_reducible refine RegsOk.of_fixed ?_ (fixed_finish _ _ _ _)
    | with_reducible refine RegsOk.of_fixed ?_ (fixed_park _ _ _)
    | exact fits_full _
    | with_reducible refine regs_each _ _ (fun a s _ => ?_) _ ?_
    | split
    | simp only [regs_mk, regs_fold])

theorem regs_activateWhen (l : Live) (n p at_ : Nat) (rev : Bool) (s : State) (hs : RegsOk s) : RegsOk (activateWhen l
    n p at_ rev s) := by
  unfold activateWhen
  try simp only
  repeat' (first
    | with_reducible assumption
    | with_reducible refine regs_activateAt _ ?_
    | with_reducible refine RegsOk.of_fixed ?_ (fixed_finish _ _ _ _)
    | with_reducible refine RegsOk.of_fixed ?_ (fixed_park _ _ _)
    | with_reducible refine regs_each _ _ (fun a s _ => ?_) _ ?_
    | split
    | simp only [regs_mk, regs_fold])

theorem regs_cmdConfigActivate (l : Live) (s : State) (hs : RegsOk s) : RegsOk (cmdConfigActivate l s) := by
  unfold cmdConfigActivate
  try simp only
  repeat' (first
    | with_reducible assumption
    | with_reducible refine regs_activateWhen _ _ _ _ _ _ ?_
    | with_reducible refine RegsOk.of_fixed ?_ (fixed_finish _ _ _ _)
    | with_reducible refine RegsOk.of_fixed ?_ (fixed_nvwpEnd _ _)
    | with_reducible refine regs_each _ _ (fun a s _ => ?_) _ ?_
    | split
    | simp only [regs_mk, regs_fold])

theorem regs_cmdConfigRevert (l : Live) (s : State) (hs : RegsOk s) : RegsOk (cmdConfigRevert l s) := by
  unfold cmdConfigRevert
  try simp only
  repeat' (first
    | with_reducible assumption
    | with_reducible refine regs_activateWhen _ _ _ _ _ _ ?_
    | with_reducible refine RegsOk.of_fixed ?_ (fixed_finish _ _ _ _)
    | with_reducible refine RegsOk.of_fixed ?_ (fixed_nvwpEnd _ _)
    | with_reducible refine regs_each _ _ (fun a s _ => ?_) _ ?_
    | split
    | simp only [regs_mk, regs_fold])

theorem regs_cmdEffect (l : Live) (s : State) (hs : RegsOk s) : RegsOk (cmdEffect l s) := by
  unfold cmdEffect
  try simp only
  repeat' (first
    | with_reducible assumption
    | with_reducible refine RegsOk.of_fixed ?_ (fixed_cmdAlogRead _ _)
    | with_reducible refine regs_cmdCapSet _ _ ?_
    | with_reducible refine regs_cmdConfigActivate _ _ ?_
    | with_reducible refine RegsOk.of_fixed ?_ (fixed_cmdConfigCapture _ _)
    | with_reducible refine RegsOk.of_fixed ?_ (fixed_cmdConfigConfirm _ _)
    | with_reducible refine RegsOk.of_fixed ?_ (fixed_cmdConfigLoad _ _)
    | with_reducible refine regs_cmdConfigRevert _ _ ?_
    | with_reducible refine RegsOk.of_fixed ?_ (fixed_cmdConvCal _ _)
    | with_reducible refine RegsOk.of_fixed ?_ (fixed_cmdConvStart _ _)
    | with_reducible refine RegsOk.of_fixed ?_ (fixed_cmdConvUrgent _ _)
    | with_reducible refine RegsOk.of_fixed ?_ (fixed_cmdCountersRead _ _)
    | with_reducible refine RegsOk.of_fixed ?_ (fixed_cmdFfClear _ _)
    | with_reducible refine RegsOk.of_fixed ?_ (fixed_cmdFlagsSet _ _)
    | with_reducible refine RegsOk.of_fixed ?_ (fixed_cmdGraphLoad _ _)
    | with_reducible refine RegsOk.of_fixed ?_ (fixed_cmdGroupOff _ _)
    | with_reducible refine RegsOk.of_fixed ?_ (fixed_cmdHandover _ _)
    | with_reducible refine RegsOk.of_fixed ?_ (fixed_cmdJournalRead _ _)
    | with_reducible refine regs_cmdLoopSetup _ _ ?_
    | with_reducible refine RegsOk.of_fixed ?_ (fixed_cmdMargin _ _)
    | with_reducible refine RegsOk.of_fixed ?_ (fixed_cmdPowerOff _ _)
    | with_reducible refine RegsOk.of_fixed ?_ (fixed_cmdPowerOn _ _)
    | with_reducible refine RegsOk.of_fixed ?_ (fixed_cmdProgAbort _ _)
    | with_reducible refine RegsOk.of_fixed ?_ (fixed_cmdProgLaunch _ _)
    | with_reducible refine RegsOk.of_fixed ?_ (fixed_cmdProgLoad _ _)
    | with_reducible refine RegsOk.of_fixed ?_ (fixed_cmdRecChallenge _ _)
    | with_reducible refine RegsOk.of_fixed ?_ (fixed_cmdRecClear _ _)
    | with_reducible refine RegsOk.of_fixed ?_ (fixed_cmdRecFreeze _ _)
    | with_reducible refine RegsOk.of_fixed ?_ (fixed_cmdRecRead _ _)
    | with_reducible refine RegsOk.of_fixed ?_ (fixed_cmdRetryCancel _ _)
    | with_reducible refine RegsOk.of_fixed ?_ (fixed_cmdStageClear _ _)
    | with_reducible refine RegsOk.of_fixed ?_ (fixed_cmdStageStart _ _)
    | with_reducible refine RegsOk.of_fixed ?_ (fixed_cmdStageStop _ _)
    | with_reducible refine RegsOk.of_fixed ?_ (fixed_cmdStateRead _ _)
    | with_reducible refine RegsOk.of_fixed ?_ (fixed_cmdSysrst _ _)
    | with_reducible refine RegsOk.of_fixed ?_ (fixed_cmdTagRead _ _)
    | with_reducible refine RegsOk.of_fixed ?_ (fixed_cmdTagWrite _ _)
    | with_reducible refine RegsOk.of_fixed ?_ (fixed_finish _ _ _ _)
    | with_reducible refine regs_each _ _ (fun a s _ => ?_) _ ?_
    | split
    | simp only [regs_mk, regs_fold])

theorem regs_memberEffect (l : Live) (s : State) (hs : RegsOk s) : RegsOk (memberEffect l s) := by
  unfold memberEffect
  try simp only
  repeat' (first
    | with_reducible assumption
    | with_reducible refine regs_cmdEffect _ _ ?_
    | with_reducible refine RegsOk.of_fixed ?_ (fixed_finish _ _ _ _)
    | with_reducible refine regs_each _ _ (fun a s _ => ?_) _ ?_
    | split
    | simp only [regs_mk, regs_fold])

theorem regs_applyCmd (l : Live) (s : State) (hs : RegsOk s) : RegsOk (applyCmd l s) := by
  unfold applyCmd
  try simp only
  repeat' (first
    | with_reducible assumption
    | with_reducible refine RegsOk.of_fixed ?_ (fixed_barEffect _ _)
    | with_reducible refine regs_cmdEffect _ _ ?_
    | with_reducible refine RegsOk.of_fixed ?_ (fixed_finish _ _ _ _)
    | with_reducible refine regs_memberEffect _ _ ?_
    | with_reducible refine RegsOk.of_fixed ?_ (fixed_relayOut _ _)
    | with_reducible refine RegsOk.of_fixed ?_ (fixed_startedPost _ _)
    | with_reducible refine regs_each _ _ (fun a s _ => ?_) _ ?_
    | split
    | simp only [regs_mk, regs_fold])

theorem regs_applyDecided (s : State) (hs : RegsOk s) : RegsOk (applyDecided s) := by
  unfold applyDecided
  try simp only
  repeat' (first
    | with_reducible assumption
    | with_reducible refine regs_applyCmd _ _ ?_
    | with_reducible refine regs_each _ _ (fun a s _ => ?_) _ ?_
    | split
    | simp only [regs_mk, regs_fold])

theorem regs_atBoundary (f : State → State) (s : State) (hf : ∀ s, RegsOk s → RegsOk (f s)) (hs : RegsOk s) :
    RegsOk (atBoundary f s) := by
  have h := hf { s with clk := { s.clk with frame := s.clk.frame + 1 } } hs
  unfold atBoundary
  generalize f { s with clk := { s.clk with frame := s.clk.frame + 1 } } = t at h ⊢
  exact h

theorem regs_hostRow (op r : Nat) (d : Desc) (s : State) (hs : RegsOk s) : RegsOk (hostRow op r d s) := by
  unfold hostRow
  split
  · exact hs
  · simp only
    split
    · exact hs
    · split
      · exact hs
      · exact regs_atBoundary _ _ (fun s h => RegsOk.of_fixed (regs_applyCmd _ s h) (fixed_progsTell _))
          (RegsOk.of_fixed (t := acceptEntry _ _ _ _) hs (fixed_acceptEntry _ _ _ _))

theorem regs_order1 (s : State) (hs : RegsOk s) : RegsOk (order1 s) := by
  unfold order1
  try simp only
  repeat' (first
    | with_reducible assumption
    | with_reducible refine RegsOk.of_fixed ?_ (fixed_clearNow _)
    | with_reducible refine RegsOk.of_fixed ?_ (fixed_engineOver _ _)
    | with_reducible refine RegsOk.of_fixed ?_ (fixed_handover_ _)
    | with_reducible refine regs_loadFrame _ _ ?_
    | with_reducible refine RegsOk.of_fixed ?_ (fixed_readyDrop _ _)
    | with_reducible refine regs_each _ _ (fun a s _ => ?_) _ ?_
    | split
    | simp only [regs_mk, regs_fold])

theorem regs_powerStep (b : BoundaryIn) (s : State) (hs : RegsOk s) : RegsOk (powerStep b s) := by
  unfold powerStep
  try simp only
  repeat' (first
    | with_reducible assumption
    | with_reducible refine RegsOk.of_fixed ?_ (fixed_nvwpStep _ _)
    | with_reducible refine regs_porstSeen _ ?_
    | with_reducible refine regs_powerFailure _ _ _ ?_
    | with_reducible refine RegsOk.of_fixed ?_ (fixed_supplyStep _ _ _)
    | with_reducible refine regs_each _ _ (fun a s _ => ?_) _ ?_
    | split
    | simp only [regs_mk, regs_fold])

theorem regs_xrstStep (b : BoundaryIn) (s : State) (hs : RegsOk s) : RegsOk (xrstStep b s) := by
  unfold xrstStep
  try simp only
  repeat' (first
    | with_reducible assumption
    | with_reducible refine RegsOk.of_fixed ?_ (fixed_xrstReleased _)
    | with_reducible refine regs_xrstSeen _ ?_
    | with_reducible refine regs_each _ _ (fun a s _ => ?_) _ ?_
    | split
    | simp only [regs_mk, regs_fold])

theorem regs_order3 (b : BoundaryIn) (s : State) (hs : RegsOk s) : RegsOk (order3 b s) := by
  unfold order3
  try simp only
  repeat' (first
    | with_reducible assumption
    | with_reducible refine RegsOk.of_fixed ?_ (fixed_modPhase _ _ _)
    | with_reducible refine RegsOk.of_fixed ?_ (fixed_battOff _)
    | with_reducible refine RegsOk.of_fixed ?_ (fixed_faultLogic _ _)
    | with_reducible refine RegsOk.of_fixed ?_ (fixed_inputStep _)
    | with_reducible refine RegsOk.of_fixed ?_ (fixed_measurePower _)
    | with_reducible refine RegsOk.of_fixed ?_ (fixed_offStep _)
    | with_reducible refine regs_pairStep _ ?_
    | with_reducible refine RegsOk.of_fixed ?_ (fixed_shedFrame _)
    | with_reducible refine RegsOk.of_fixed ?_ (fixed_shedTrip _)
    | with_reducible refine RegsOk.of_fixed ?_ (fixed_stackOff _)
    | with_reducible refine RegsOk.of_fixed ?_ (fixed_stageFaults _)
    | with_reducible refine RegsOk.of_fixed ?_ (fixed_stageMonitors _ _ _)
    | with_reducible refine RegsOk.of_fixed ?_ (fixed_stepEnQ _ _)
    | with_reducible refine RegsOk.of_fixed ?_ (fixed_sysrstStep _)
    | with_reducible refine RegsOk.of_fixed ?_ (fixed_watchdogStep _ _)
    | with_reducible refine regs_each _ _ (fun a s _ => ?_) _ ?_
    | split
    | simp only [regs_mk, regs_fold])

theorem regs_order4 (launch : Bool) (s : State) (hs : RegsOk s) : RegsOk (order4 launch s) := by
  unfold order4
  try simp only
  repeat' (first
    | with_reducible assumption
    | with_reducible refine RegsOk.of_fixed ?_ (fixed_dueGrants _)
    | with_reducible refine regs_handoverStep _ ?_
    | with_reducible refine RegsOk.of_fixed ?_ (fixed_judgeDomain _)
    | with_reducible refine RegsOk.of_fixed ?_ (fixed_launchOnSet _)
    | with_reducible refine RegsOk.of_fixed ?_ (fixed_memberRetries _)
    | with_reducible refine RegsOk.of_fixed ?_ (fixed_predsStep _)
    | with_reducible refine RegsOk.of_fixed ?_ (fixed_seqStep _)
    | with_reducible refine RegsOk.of_fixed ?_ (fixed_sysrstUp _ _)
    | with_reducible refine regs_each _ _ (fun a s _ => ?_) _ ?_
    | split
    | simp only [regs_mk, regs_fold])

theorem regs_dueActivation (s : State) (hs : RegsOk s) : RegsOk (dueActivation s) := by
  unfold dueActivation
  try simp only
  repeat' (first
    | with_reducible assumption
    | with_reducible refine regs_activateAt _ ?_
    | with_reducible refine regs_each _ _ (fun a s _ => ?_) _ ?_
    | split
    | simp only [regs_mk, regs_fold])

theorem regs_order6 (s : State) (hs : RegsOk s) : RegsOk (order6 s) := by
  unfold order6
  try simp only
  repeat' (first
    | with_reducible assumption
    | with_reducible refine regs_applyDecided _ ?_
    | with_reducible refine regs_applySetups _ ?_
    | with_reducible refine regs_autoRevert _ ?_
    | with_reducible refine RegsOk.of_fixed ?_ (fixed_bootOnRequest _)
    | with_reducible refine regs_commitLoads _ ?_
    | with_reducible refine RegsOk.of_fixed ?_ (fixed_damperBoundary _)
    | with_reducible refine regs_dueActivation _ ?_
    | with_reducible refine RegsOk.of_fixed ?_ (fixed_judgeStep _)
    | with_reducible refine RegsOk.of_fixed ?_ (fixed_selections _)
    | with_reducible refine regs_each _ _ (fun a s _ => ?_) _ ?_
    | split
    | simp only [regs_mk, regs_fold])

theorem regs_hostLink (b : BoundaryIn) (s : State) (hs : RegsOk s) : RegsOk (hostLink b s) := by
  unfold hostLink
  try simp only
  repeat' (first
    | with_reducible assumption
    | with_reducible refine regs_hostReset _ _ ?_
    | with_reducible refine RegsOk.of_fixed ?_ (fixed_lockAutoOpen _)
    | with_reducible refine regs_each _ _ (fun a s _ => ?_) _ ?_
    | split
    | simp only [regs_mk, regs_fold])

theorem regs_order9 (b : BoundaryIn) (s : State) (hs : RegsOk s) : RegsOk (order9 b s) := by
  unfold order9
  try simp only
  repeat' (first
    | with_reducible assumption
    | with_reducible refine RegsOk.of_fixed ?_ (fixed_applyFinals _)
    | with_reducible refine RegsOk.of_fixed ?_ (fixed_convStep _ _)
    | with_reducible refine regs_hostLink _ _ ?_
    | with_reducible refine RegsOk.of_fixed ?_ (fixed_linkFrame _)
    | with_reducible refine RegsOk.of_fixed ?_ (fixed_owBegin _)
    | with_reducible refine RegsOk.of_fixed ?_ (fixed_sendEvents _)
    | with_reducible refine regs_each _ _ (fun a s _ => ?_) _ ?_
    | split
    | simp only [regs_mk, regs_fold])

theorem regs_decide3to7 (b : BoundaryIn) (s : State) (hs : RegsOk s) : RegsOk (decide3to7 b s) := by
  unfold decide3to7
  try simp only
  repeat' (first
    | with_reducible assumption
    | with_reducible refine regs_order3 _ _ ?_
    | with_reducible refine regs_order4 _ _ ?_
    | with_reducible refine regs_order6 _ ?_
    | with_reducible refine RegsOk.of_fixed ?_ (fixed_order7 _ _ _)
    | with_reducible refine regs_each _ _ (fun a s _ => ?_) _ ?_
    | split
    | simp only [regs_mk, regs_fold])

theorem regs_operate (b : BoundaryIn) (s : State) (hs : RegsOk s) : RegsOk (operate b s) := by
  unfold operate
  try simp only
  repeat' (first
    | with_reducible assumption
    | with_reducible refine regs_decide3to7 _ _ ?_
    | with_reducible refine RegsOk.of_fixed ?_ (fixed_order2 _ _)
    | with_reducible refine RegsOk.of_fixed ?_ (fixed_order8 _ _)
    | with_reducible refine regs_order9 _ _ ?_
    | with_reducible refine RegsOk.of_fixed ?_ (fixed_owResults _ _ _ _)
    | with_reducible refine regs_watchdogReset _ ?_
    | with_reducible refine regs_xrstStep _ _ ?_
    | with_reducible refine regs_each _ _ (fun a s _ => ?_) _ ?_
    | split
    | simp only [regs_mk, regs_fold])

theorem regs_bootWatch (b : BoundaryIn) (s : State) (hs : RegsOk s) : RegsOk (bootWatch b s) := by
  unfold bootWatch
  try simp only
  repeat' (first
    | with_reducible assumption
    | with_reducible refine regs_bootFailure _ ?_
    | with_reducible refine RegsOk.of_fixed ?_ (fixed_watchdogCount _ _)
    | with_reducible refine regs_each _ _ (fun a s _ => ?_) _ ?_
    | split
    | simp only [regs_mk, regs_fold])

theorem regs_bootStep (b : BoundaryIn) (s : State) (hs : RegsOk s) : RegsOk (bootStep b s) := by
  unfold bootStep
  try simp only
  repeat' (first
    | with_reducible assumption
    | with_reducible refine regs_bootActivation _ ?_
    | with_reducible refine regs_bootFailure _ ?_
    | with_reducible refine regs_bootWatch _ _ ?_
    | with_reducible refine RegsOk.of_fixed ?_ (fixed_convStep _ _)
    | with_reducible refine RegsOk.of_fixed ?_ (fixed_order7 _ _ _)
    | with_reducible refine RegsOk.of_fixed ?_ (fixed_order8 _ _)
    | with_reducible refine regs_order9 _ _ ?_
    | with_reducible refine RegsOk.of_fixed ?_ (fixed_sampleVio _ _ _)
    | with_reducible refine regs_each _ _ (fun a s _ => ?_) _ ?_
    | split
    | simp only [regs_mk, regs_fold])

theorem regs_recoveryStep (b : BoundaryIn) (s : State) (hs : RegsOk s) : RegsOk (recoveryStep b s) := by
  have h1 : RegsOk (bootWatch b { s with fw := { s.fw with recReset := s.fw.recReset.map (· - 1) } }) :=
    regs_bootWatch _ _ hs
  unfold recoveryStep
  revert h1
  generalize bootWatch b { s with fw := { s.fw with recReset := s.fw.recReset.map (· - 1) } } = t
  intro h1
  simp only
  split
  · exact h1
  · have h2 : RegsOk (if t.tickStart = true then fwTick t else t) := by
      split
      · exact h1.of_fixed (fixed_fwTick _)
      · exact h1
    revert h2
    generalize (if t.tickStart = true then fwTick t else t) = u
    intro h2
    have h3 : RegsOk (applyFinals { u with jrn := { u.jrn with slots := 0 } }) :=
      RegsOk.of_fixed (s := { u with jrn := { u.jrn with slots := 0 } }) h2 (fixed_applyFinals _)
    revert h3
    generalize applyFinals { u with jrn := { u.jrn with slots := 0 } } = v
    intro h3
    split
    · exact regs_recoveryReset _ h3
    · exact h3

theorem regs_frameBoundary (b : BoundaryIn) (s : State) (hs : RegsOk s) : RegsOk (frameBoundary b s) := by
  unfold frameBoundary
  try simp only
  repeat' (first
    | with_reducible assumption
    | with_reducible refine regs_bootStep _ _ ?_
    | with_reducible refine regs_emberExit _ ?_
    | with_reducible refine RegsOk.of_fixed ?_ (fixed_endFrame _ _)
    | with_reducible refine regs_operate _ _ ?_
    | with_reducible refine regs_order1 _ ?_
    | with_reducible refine RegsOk.of_fixed ?_ (fixed_pendingStep _)
    | with_reducible refine regs_powerStep _ _ ?_
    | with_reducible refine regs_recoveryStep _ _ ?_
    | with_reducible refine regs_xrstStep _ _ ?_
    | with_reducible refine regs_each _ _ (fun a s _ => ?_) _ ?_
    | split
    | simp only [regs_mk, regs_fold])

theorem regs_tickBoundary (b : BoundaryIn) (s : State) (hs : RegsOk s) : RegsOk (tickBoundary b s) := by
  unfold tickBoundary
  try simp only
  repeat' (first
    | with_reducible assumption
    | with_reducible refine regs_frameBoundary _ _ ?_
    | with_reducible refine regs_each _ _ (fun a s _ => ?_) _ ?_
    | split
    | simp only [regs_mk, regs_fold])

end Sys2Proof.Machine
end

