-- ==== Sys2Proof/Laws/SeqProgs.lean ====
section
/-! SUPPORT. SeqProgs.lean: these operations leave the programs alone. -/

set_option linter.all false
set_option linter.unusedSimpArgs false
set_option linter.unreachableTactic false
set_option linter.unusedTactic false
namespace Sys2Proof.Machine

/-- these operations leave the programs alone. -/
def State.seqProgs (s : State) :=
  (s.seq.progs)

theorem seqProgs_mk (a b c d e f g h i j k l m n o p q r u v w x y z a1 b1 c1 d1 e1 f1 g1 h1 i1 j1 k1 l1) :
    State.seqProgs (State.mk a b c d e f g h i j k l m n o p q r u v w x y z a1 b1 c1 d1 e1 f1 g1 h1 i1 j1 k1 l1) =
      (v.progs) := rfl

theorem seqProgs_fold (s : State) : (s.seq.progs) = s.seqProgs := rfl

theorem ite_seqProgs (c : Prop) [Decidable c] (a b : State) :
    State.seqProgs (if c then a else b) = if c then a.seqProgs else b.seqProgs := by split <;> rfl

theorem seqProgs_each {α : Type} (l : List α) (f : α → State → State) (hf : ∀ a s, (f a s).seqProgs = s.seqProgs) (s : State) :
    (each l f s).seqProgs = s.seqProgs := by
  unfold each
  induction l generalizing s with
  | nil => rfl
  | cons a l ih => exact (ih _).trans (hf a s)

theorem seqProgs_foldl {α β : Type} (g : β → State) (f : β → α → β) (hf : ∀ b a, (g (f b a)).seqProgs = (g b).seqProgs)
    (l : List α) (b : β) : (g (l.foldl f b)).seqProgs = (g b).seqProgs := by
  induction l generalizing b with
  | nil => rfl
  | cons a l ih => exact (ih _).trans (hf b a)

theorem seqProgs_modStg (i : Nat) (f : Stg → Stg) (s : State) : (State.modStg i f s).seqProgs = s.seqProgs := by
  unfold State.modStg
  repeat' (first
    | with_reducible rfl
    | simp only [seqProgs_mk, seqProgs_fold, ite_seqProgs, ite_self, implies_true]
    | refine (seqProgs_each _ _ (fun a s => ?_) _).trans ?_
    | split)

theorem seqProgs_finishAt (d q status result : Nat) (s : State) : (finishAt d q status result s).seqProgs = s.seqProgs := by
  unfold finishAt
  repeat' (first
    | with_reducible rfl
    | simp only [seqProgs_mk, seqProgs_fold, ite_seqProgs, ite_self, implies_true]
    | refine (seqProgs_each _ _ (fun a s => ?_) _).trans ?_
    | split)

theorem seqProgs_finish (q status result : Nat) (s : State) : (finish q status result s).seqProgs = s.seqProgs := by
  unfold finish
  repeat' (first
    | with_reducible rfl
    | simp only [seqProgs_mk, seqProgs_fold, ite_seqProgs, ite_self, implies_true, seqProgs_finishAt]
    | refine (seqProgs_each _ _ (fun a s => ?_) _).trans ?_
    | split)

theorem seqProgs_finishAll (w : Wait → Bool) (status result : Nat) (s : State) : (finishAll w status result s).seqProgs = s.seqProgs
    := by
  unfold finishAll
  repeat' (first
    | with_reducible rfl
    | simp only [seqProgs_mk, seqProgs_fold, ite_seqProgs, ite_self, implies_true, seqProgs_each, seqProgs_finish]
    | refine (seqProgs_each _ _ (fun a s => ?_) _).trans ?_
    | split)

theorem seqProgs_commitEnd (k : CKey) (s : State) : (commitEnd k s).seqProgs = s.seqProgs := by
  unfold commitEnd
  repeat' (first
    | with_reducible rfl
    | simp only [seqProgs_mk, seqProgs_fold, ite_seqProgs, ite_self, implies_true]
    | refine (seqProgs_each _ _ (fun a s => ?_) _).trans ?_
    | split)

theorem seqProgs_alogAdd (e : ALog) (s : State) : (alogAdd e s).seqProgs = s.seqProgs := by
  unfold alogAdd
  repeat' (first
    | with_reducible rfl
    | simp only [seqProgs_mk, seqProgs_fold, ite_seqProgs, ite_self, implies_true]
    | refine (seqProgs_each _ _ (fun a s => ?_) _).trans ?_
    | split)

theorem seqProgs_alogWithdraw (id kind order prio inrush steady : Nat) (s : State) : (alogWithdraw id kind order prio inrush
    steady s).seqProgs = s.seqProgs := by
  unfold alogWithdraw
  repeat' (first
    | with_reducible rfl
    | simp only [seqProgs_mk, seqProgs_fold, ite_seqProgs, ite_self, implies_true, seqProgs_alogAdd]
    | refine (seqProgs_each _ _ (fun a s => ?_) _).trans ?_
    | split)

theorem seqProgs_softStop (st : Nat) (s : State) : (softStop st s).seqProgs = s.seqProgs := by
  unfold softStop
  repeat' (first
    | with_reducible rfl
    | simp only [seqProgs_mk, seqProgs_fold, ite_seqProgs, ite_self, implies_true, seqProgs_modStg]
    | refine (seqProgs_each _ _ (fun a s => ?_) _).trans ?_
    | split)

theorem seqProgs_withdrawEnable (g : Nat) (f : Fig) (order : Nat) (s : State) : (withdrawEnable g f order s).seqProgs = s.seqProgs :=
    by
  unfold withdrawEnable
  repeat' (first
    | with_reducible rfl
    | simp only [seqProgs_mk, seqProgs_fold, ite_seqProgs, ite_self, implies_true, seqProgs_alogWithdraw, seqProgs_commitEnd]
    | refine (seqProgs_each _ _ (fun a s => ?_) _).trans ?_
    | split)

theorem seqProgs_withdrawStart (m st order : Nat) (s : State) : (withdrawStart m st order s).seqProgs = s.seqProgs := by
  unfold withdrawStart
  repeat' (first
    | with_reducible rfl
    | simp only [seqProgs_mk, seqProgs_fold, ite_seqProgs, ite_self, implies_true, seqProgs_alogWithdraw, seqProgs_commitEnd]
    | refine (seqProgs_each _ _ (fun a s => ?_) _).trans ?_
    | split)

theorem seqProgs_withdrawMargin (m : MOp) (s : State) : (withdrawMargin m s).seqProgs = s.seqProgs := by
  unfold withdrawMargin
  repeat' (first
    | with_reducible rfl
    | simp only [seqProgs_mk, seqProgs_fold, ite_seqProgs, ite_self, implies_true, seqProgs_alogWithdraw, seqProgs_commitEnd]
    | refine (seqProgs_each _ _ (fun a s => ?_) _).trans ?_
    | split)

theorem seqProgs_withdrawItem (it : Item) (s : State) : (withdrawItem it s).seqProgs = s.seqProgs := by
  unfold withdrawItem
  repeat' (first
    | with_reducible rfl
    | simp only [seqProgs_mk, seqProgs_fold, ite_seqProgs, ite_self, implies_true, seqProgs_withdrawEnable, seqProgs_withdrawStart]
    | refine (seqProgs_each _ _ (fun a s => ?_) _).trans ?_
    | split)

theorem seqProgs_withdrawCmd (c : RailCmd) (s : State) : (withdrawCmd c s).seqProgs = s.seqProgs := by
  unfold withdrawCmd
  repeat' (first
    | with_reducible rfl
    | simp only [seqProgs_mk, seqProgs_fold, ite_seqProgs, ite_self, implies_true, seqProgs_withdrawEnable, seqProgs_withdrawStart]
    | refine (seqProgs_each _ _ (fun a s => ?_) _).trans ?_
    | split)

theorem seqProgs_disown (n : Nat) (s : State) : (disown n s).seqProgs = s.seqProgs := by
  unfold disown
  repeat' (first
    | with_reducible rfl
    | simp only [seqProgs_mk, seqProgs_fold, ite_seqProgs, ite_self, implies_true, seqProgs_modStg, seqProgs_withdrawMargin]
    | refine (seqProgs_each _ _ (fun a s => ?_) _).trans ?_
    | split)

theorem seqProgs_stopCmds (n : Nat) (s : State) : (stopCmds n s).seqProgs = s.seqProgs := by
  unfold stopCmds
  repeat' (first
    | with_reducible rfl
    | simp only [seqProgs_mk, seqProgs_fold, ite_seqProgs, ite_self, implies_true, seqProgs_withdrawCmd]
    | refine (seqProgs_each _ _ (fun a s => ?_) _).trans ?_
    | split)

theorem seqProgs_judgeDomain (s : State) : (judgeDomain s).seqProgs = s.seqProgs := by
  unfold judgeDomain
  repeat' (first
    | with_reducible rfl
    | simp only [seqProgs_mk, seqProgs_fold, ite_seqProgs, ite_self, implies_true, seqProgs_finishAll]
    | refine (seqProgs_each _ _ (fun a s => ?_) _).trans ?_
    | split)

theorem seqProgs_sysrstUp (old : Domain) (s : State) : (sysrstUp old s).seqProgs = s.seqProgs := by
  unfold sysrstUp
  repeat' (first
    | with_reducible rfl
    | simp only [seqProgs_mk, seqProgs_fold, ite_seqProgs, ite_self, implies_true]
    | refine (seqProgs_each _ _ (fun a s => ?_) _).trans ?_
    | split)


end Sys2Proof.Machine
end

