-- ==== Sys2Proof/Laws/SeqTop.lean ====
section
/-! SUPPORT. SeqTop.lean: these operations leave DOMAIN, the held on request and the on-set alone. -/

set_option linter.all false
set_option linter.unusedSimpArgs false
set_option linter.unreachableTactic false
set_option linter.unusedTactic false
namespace Sys2Proof.Machine

/-- these operations leave DOMAIN, the held on request and the on-set alone. -/
def State.seqTop (s : State) :=
  (s.seq.domain, s.seq.onPending, s.seq.onset)

theorem seqTop_mk (a b c d e f g h i j k l m n o p q r u v w x y z a1 b1 c1 d1 e1 f1 g1 h1 i1 j1 k1 l1) :
    State.seqTop (State.mk a b c d e f g h i j k l m n o p q r u v w x y z a1 b1 c1 d1 e1 f1 g1 h1 i1 j1 k1 l1) =
      (v.domain, v.onPending, v.onset) := rfl

theorem seqTop_fold (s : State) : (s.seq.domain, s.seq.onPending, s.seq.onset) = s.seqTop := rfl

theorem ite_seqTop (c : Prop) [Decidable c] (a b : State) :
    State.seqTop (if c then a else b) = if c then a.seqTop else b.seqTop := by split <;> rfl

theorem seqTop_each {α : Type} (l : List α) (f : α → State → State) (hf : ∀ a s, (f a s).seqTop = s.seqTop) (s : State) :
    (each l f s).seqTop = s.seqTop := by
  unfold each
  induction l generalizing s with
  | nil => rfl
  | cons a l ih => exact (ih _).trans (hf a s)

theorem seqTop_foldl {α β : Type} (g : β → State) (f : β → α → β) (hf : ∀ b a, (g (f b a)).seqTop = (g b).seqTop)
    (l : List α) (b : β) : (g (l.foldl f b)).seqTop = (g b).seqTop := by
  induction l generalizing b with
  | nil => rfl
  | cons a l ih => exact (ih _).trans (hf b a)

theorem seqTop_modStg (i : Nat) (f : Stg → Stg) (s : State) : (State.modStg i f s).seqTop = s.seqTop := by
  unfold State.modStg
  repeat' (first
    | with_reducible rfl
    | simp only [seqTop_mk, seqTop_fold, ite_seqTop, ite_self, implies_true]
    | refine (seqTop_each _ _ (fun a s => ?_) _).trans ?_
    | split)

theorem seqTop_modProg (i : Nat) (f : Prog → Prog) (s : State) : (State.modProg i f s).seqTop = s.seqTop := by
  unfold State.modProg
  repeat' (first
    | with_reducible rfl
    | simp only [seqTop_mk, seqTop_fold, ite_seqTop, ite_self, implies_true]
    | refine (seqTop_each _ _ (fun a s => ?_) _).trans ?_
    | split)

theorem seqTop_wcWritten (struct addr : Nat) (s : State) : (wcWritten struct addr s).seqTop = s.seqTop := by
  unfold wcWritten
  repeat' (first
    | with_reducible rfl
    | simp only [seqTop_mk, seqTop_fold, ite_seqTop, ite_self, implies_true]
    | refine (seqTop_each _ _ (fun a s => ?_) _).trans ?_
    | split)

theorem seqTop_wordErr (ts : Ts) (struct addr : Nat) (o : WcOut) (s : State) : (wordErr ts struct addr o s).seqTop = s.seqTop
    := by
  unfold wordErr
  repeat' (first
    | with_reducible rfl
    | simp only [seqTop_mk, seqTop_fold, ite_seqTop, ite_self, implies_true]
    | refine (seqTop_each _ _ (fun a s => ?_) _).trans ?_
    | split)

theorem seqTop_readWord (ts : Ts) (struct addr : Nat) (s : State) : (readWord ts struct addr s).2.seqTop = s.seqTop := by
  unfold readWord
  repeat' (first
    | with_reducible rfl
    | simp only [seqTop_mk, seqTop_fold, ite_seqTop, ite_self, implies_true, seqTop_wcWritten, seqTop_wordErr]
    | refine (seqTop_each _ _ (fun a s => ?_) _).trans ?_
    | split)

theorem seqTop_finishAt (d q status result : Nat) (s : State) : (finishAt d q status result s).seqTop = s.seqTop := by
  unfold finishAt
  repeat' (first
    | with_reducible rfl
    | simp only [seqTop_mk, seqTop_fold, ite_seqTop, ite_self, implies_true]
    | refine (seqTop_each _ _ (fun a s => ?_) _).trans ?_
    | split)

theorem seqTop_finish (q status result : Nat) (s : State) : (finish q status result s).seqTop = s.seqTop := by
  unfold finish
  repeat' (first
    | with_reducible rfl
    | simp only [seqTop_mk, seqTop_fold, ite_seqTop, ite_self, implies_true, seqTop_finishAt]
    | refine (seqTop_each _ _ (fun a s => ?_) _).trans ?_
    | split)

theorem seqTop_finishAll (w : Wait → Bool) (status result : Nat) (s : State) : (finishAll w status result s).seqTop = s.seqTop
    := by
  unfold finishAll
  repeat' (first
    | with_reducible rfl
    | simp only [seqTop_mk, seqTop_fold, ite_seqTop, ite_self, implies_true, seqTop_each, seqTop_finish]
    | refine (seqTop_each _ _ (fun a s => ?_) _).trans ?_
    | split)

theorem seqTop_commitEnd (k : CKey) (s : State) : (commitEnd k s).seqTop = s.seqTop := by
  unfold commitEnd
  repeat' (first
    | with_reducible rfl
    | simp only [seqTop_mk, seqTop_fold, ite_seqTop, ite_self, implies_true]
    | refine (seqTop_each _ _ (fun a s => ?_) _).trans ?_
    | split)

theorem seqTop_alogAdd (e : ALog) (s : State) : (alogAdd e s).seqTop = s.seqTop := by
  unfold alogAdd
  repeat' (first
    | with_reducible rfl
    | simp only [seqTop_mk, seqTop_fold, ite_seqTop, ite_self, implies_true]
    | refine (seqTop_each _ _ (fun a s => ?_) _).trans ?_
    | split)

theorem seqTop_alogWithdraw (id kind order prio inrush steady : Nat) (s : State) : (alogWithdraw id kind order prio inrush
    steady s).seqTop = s.seqTop := by
  unfold alogWithdraw
  repeat' (first
    | with_reducible rfl
    | simp only [seqTop_mk, seqTop_fold, ite_seqTop, ite_self, implies_true, seqTop_alogAdd]
    | refine (seqTop_each _ _ (fun a s => ?_) _).trans ?_
    | split)

theorem seqTop_softStop (st : Nat) (s : State) : (softStop st s).seqTop = s.seqTop := by
  unfold softStop
  repeat' (first
    | with_reducible rfl
    | simp only [seqTop_mk, seqTop_fold, ite_seqTop, ite_self, implies_true, seqTop_modStg]
    | refine (seqTop_each _ _ (fun a s => ?_) _).trans ?_
    | split)

theorem seqTop_withdrawEnable (g : Nat) (f : Fig) (order : Nat) (s : State) : (withdrawEnable g f order s).seqTop = s.seqTop :=
    by
  unfold withdrawEnable
  repeat' (first
    | with_reducible rfl
    | simp only [seqTop_mk, seqTop_fold, ite_seqTop, ite_self, implies_true, seqTop_alogWithdraw, seqTop_commitEnd]
    | refine (seqTop_each _ _ (fun a s => ?_) _).trans ?_
    | split)

theorem seqTop_withdrawStart (m st order : Nat) (s : State) : (withdrawStart m st order s).seqTop = s.seqTop := by
  unfold withdrawStart
  repeat' (first
    | with_reducible rfl
    | simp only [seqTop_mk, seqTop_fold, ite_seqTop, ite_self, implies_true, seqTop_alogWithdraw, seqTop_commitEnd]
    | refine (seqTop_each _ _ (fun a s => ?_) _).trans ?_
    | split)

theorem seqTop_withdrawMargin (m : MOp) (s : State) : (withdrawMargin m s).seqTop = s.seqTop := by
  unfold withdrawMargin
  repeat' (first
    | with_reducible rfl
    | simp only [seqTop_mk, seqTop_fold, ite_seqTop, ite_self, implies_true, seqTop_alogWithdraw, seqTop_commitEnd]
    | refine (seqTop_each _ _ (fun a s => ?_) _).trans ?_
    | split)

theorem seqTop_withdrawItem (it : Item) (s : State) : (withdrawItem it s).seqTop = s.seqTop := by
  unfold withdrawItem
  repeat' (first
    | with_reducible rfl
    | simp only [seqTop_mk, seqTop_fold, ite_seqTop, ite_self, implies_true, seqTop_withdrawEnable, seqTop_withdrawStart]
    | refine (seqTop_each _ _ (fun a s => ?_) _).trans ?_
    | split)

theorem seqTop_withdrawCmd (c : RailCmd) (s : State) : (withdrawCmd c s).seqTop = s.seqTop := by
  unfold withdrawCmd
  repeat' (first
    | with_reducible rfl
    | simp only [seqTop_mk, seqTop_fold, ite_seqTop, ite_self, implies_true, seqTop_withdrawEnable, seqTop_withdrawStart]
    | refine (seqTop_each _ _ (fun a s => ?_) _).trans ?_
    | split)

theorem seqTop_disown (n : Nat) (s : State) : (disown n s).seqTop = s.seqTop := by
  unfold disown
  repeat' (first
    | with_reducible rfl
    | simp only [seqTop_mk, seqTop_fold, ite_seqTop, ite_self, implies_true, seqTop_modStg, seqTop_withdrawMargin]
    | refine (seqTop_each _ _ (fun a s => ?_) _).trans ?_
    | split)

theorem seqTop_stopCmds (n : Nat) (s : State) : (stopCmds n s).seqTop = s.seqTop := by
  unfold stopCmds
  repeat' (first
    | with_reducible rfl
    | simp only [seqTop_mk, seqTop_fold, ite_seqTop, ite_self, implies_true, seqTop_withdrawCmd]
    | refine (seqTop_each _ _ (fun a s => ?_) _).trans ?_
    | split)

theorem seqTop_progEnd (n status step : Nat) (s : State) : (progEnd n status step s).seqTop = s.seqTop := by
  unfold progEnd
  repeat' (first
    | with_reducible rfl
    | simp only [seqTop_mk, seqTop_fold, ite_seqTop, ite_self, implies_true, seqTop_modProg, seqTop_disown, seqTop_stopCmds, seqTop_withdrawItem]
    | refine (seqTop_each _ _ (fun a s => ?_) _).trans ?_
    | split)

theorem seqTop_fromMirror (a : Nat) (s : State) : (fromMirror a s).seqTop = s.seqTop := by
  unfold fromMirror
  repeat' (first
    | with_reducible rfl
    | simp only [seqTop_mk, seqTop_fold, ite_seqTop, ite_self, implies_true]
    | refine (seqTop_each _ _ (fun a s => ?_) _).trans ?_
    | split)

theorem seqTop_readTable (a : Nat) (s : State) : (readTable a s).2.seqTop = s.seqTop := by
  unfold readTable
  repeat' (first
    | with_reducible rfl
    | simp only [seqTop_mk, seqTop_fold, ite_seqTop, ite_self, implies_true, seqTop_fromMirror, seqTop_readWord, seqTop_wcWritten]
    | refine (seqTop_each _ _ (fun a s => ?_) _).trans ?_
    | split)

theorem seqTop_readWords (l : List Nat) (s : State) : (readWords l s).2.seqTop = s.seqTop := by
  induction l generalizing s with
  | nil => rfl
  | cons a l ih =>
    unfold readWords
    repeat' (first
      | with_reducible rfl
      | simp only [seqTop_mk, seqTop_fold, ite_seqTop, ite_self, implies_true, ih, seqTop_readTable]
      | refine (seqTop_each _ _ (fun a s => ?_) _).trans ?_
      | split)

theorem seqTop_fetchAt (n old i : Nat) (s : State) : (fetchAt n old i s).seqTop = s.seqTop := by
  unfold fetchAt
  repeat' (first
    | with_reducible rfl
    | simp only [seqTop_mk, seqTop_fold, ite_seqTop, ite_self, implies_true, seqTop_modProg, seqTop_progEnd, seqTop_readWords]
    | refine (seqTop_each _ _ (fun a s => ?_) _).trans ?_
    | split)

theorem seqTop_progLaunch (n : Nat) (s : State) : (progLaunch n s).seqTop = s.seqTop := by
  unfold progLaunch
  repeat' (first
    | with_reducible rfl
    | simp only [seqTop_mk, seqTop_fold, ite_seqTop, ite_self, implies_true, seqTop_modProg, seqTop_fetchAt]
    | refine (seqTop_each _ _ (fun a s => ?_) _).trans ?_
    | split)

theorem seqTop_sysrstUp (old : Domain) (s : State) : (sysrstUp old s).seqTop = s.seqTop := by
  unfold sysrstUp
  repeat' (first
    | with_reducible rfl
    | simp only [seqTop_mk, seqTop_fold, ite_seqTop, ite_self, implies_true]
    | refine (seqTop_each _ _ (fun a s => ?_) _).trans ?_
    | split)


end Sys2Proof.Machine
end

