-- ==== Sys2Proof/Laws/Seq.lean ====
section
/-! SUPPORT. Laws/Seq.lean: what ending, fetching and judging do to programs; what a release does to a rail. -/

set_option linter.all false

namespace Sys2Proof.Machine

theorem progs_prog {s t : State} (h : t.seqProgs = s.seqProgs) (m : Nat) : t.prog m = s.prog m := by
  unfold State.seqProgs at h
  unfold State.prog
  exact congrArg (fun x => tget ({} : Prog) x m) h

/-- A program that ends has its state, status and step, and nothing left to do; every other program is as before (R108). -/
theorem progEnd_prog (n st step : Nat) (s : State) (m : Nat) : (progEnd n st step s).prog m = if m = n then { s.prog n with
    state := 4, status := st, step := step, items := [], stack := if st = 1 then [] else (s.prog n).stack
    deferred := false, endedNow := true, untold := true } else s.prog m := by
  unfold progEnd
  extract_lets s1 s2
  have h1 : ∀ m, s1.prog m = s.prog m := fun m => progs_prog ((seqProgs_disown _ _).trans
    (each_keep State.seqProgs (fun a s => seqProgs_withdrawItem a s) _ _)) m
  have h2 : ∀ m, s2.prog m = s.prog m := by
    intro m
    simp only [s2]
    split
    · rw [progs_prog (seqProgs_stopCmds _ _), h1]
    · exact h1 m
  rw [State.modProg_prog]
  split
  · rw [h2]
  · exact h2 m

/-- An entry fetched becomes the program's only item, where its word is read and it is a valid step without an extension
that is no ENABLE (R100, R101, R105). -/
theorem retire_fetch (n old i : Nat) (s : State) (h1 : 768 ≤ i) (h2 : i ≤ 8191) (h3 : opOf (s.entryAt i) ≠ 2)
    (h4 : hasExt (s.entryAt i) = false) (h6 : (readTable (i / 4) s).1 = true)
    (h5 : stepOk (readTable (i / 4) s).2 ((readTable (i / 4) s).2.entryAt i) = true)
    (h7 : hasExt ((readTable (i / 4) s).2.entryAt i) = false) : fetchAt n old i s =
      (readTable (i / 4) s).2.modProg n fun p =>
        { p with items := [newItem (readTable (i / 4) s).2 i], step := i, next := i + 1 } := by
  have hr : readWords [i / 4] s = (none, (readTable (i / 4) s).2) := by simp [readWords, h6]
  have hd : ([i / 4] : List Nat).dedup = [i / 4] := by simp
  have hb : badEntry (readTable (i / 4) s).2 [i] = none := by simp [badEntry, h5]
  unfold fetchAt
  rw [if_neg (by omega)]
  simp only [if_neg h3, h4, Bool.false_and, Bool.false_eq_true, if_false, List.map_cons, List.map_nil, hd, hr, hb, h7, List.length_cons,
    List.length_nil]
  simp [b2n]

theorem judged_prog (f : State → State) (s : State) (m : Nat) : (judged f s).prog m =
    ((progsTell (sysrstUp s.seq.domain (judgeDomain (f s)))).prog m) := rfl

theorem releaseRail_ne (i : Nat) (s : State) {j : Nat} (h : j ≠ i) : (releaseRail i s).rail j = s.rail j := by
  unfold releaseRail
  extract_lets r
  split
  · rw [setRState_ne _ _ _ h, setEn_ne _ _ _ h]
  · split
    · exact foldEnd_ne i s h
    · rfl

/-- A release of a live rail: EN is released, and the rail is RELEASING, or OFF where its PG is already not good (R73). -/
theorem releaseRail_live (i : Nat) (s : State) (h : (s.rail i).st.live = true) : ((releaseRail i s).rail i).en = false ∧
    ((releaseRail i s).rail i).st = if (s.rail i).db then .releasing else .off := by
  unfold releaseRail
  extract_lets r
  rw [if_pos h]
  exact ⟨by rw [setRState_en, setEn_en], setRState_st _ _ _⟩

/-- A rail that neither is live nor has folded back is left alone. -/
theorem releaseRail_rest (i : Nat) (s : State) (h : (s.rail i).st.live = false) (h2 : ((s.rail i).st = .hiz && (s.rail i).fold) = false) :
    releaseRail i s = s := by
  unfold releaseRail
  extract_lets r
  rw [if_neg (by rw [h]; simp), if_neg (by rw [h2]; simp)]

end Sys2Proof.Machine
end

