-- ==== Sys2Proof/Tests/Slice0.lean ====
section
/-! SUPPORT. Tests/Slice0.lean: for every statement a state and operands that meet its hypotheses, clause by clause, with what the
rules give for them; ill-formed commands that Instr.wf refuses. Expected results are those of the rules named in the statements. -/

set_option maxRecDepth 1000000
set_option Elab.async false
set_option linter.unusedVariables false
set_option exponentiation.threshold 1024

namespace Sys2Proof.Tests

open Sys2Proof Sys2Proof.Machine

/-- The state after a command. -/
def after (c : Instr) (s : State) : State := match exec c s with | .next t => t | _ => s

/-- A witness: the state built by `f` from the reset state meets the hypotheses `H`, and `Q` holds of it and the state after the
command. -/
abbrev Wt (c : Instr) (f : State → State) (H : State → Prop) (Q : State → State → Prop) : Prop :=
  H (f State.reset) ∧ Q (f State.reset) (after c (f State.reset))

/-- The hypotheses alone. -/
abbrev Wh (_c : Instr) (f : State → State) (H : State → Prop) (_Q : State → State → Prop) : Prop := H (f State.reset)


/-- Words in force and as they read, both put at a key. -/
def reg (k v : Nat) (s : State) : State := s.setReg k (BitVec.ofNat 32 v)

/-- A rail changed. -/
def rl (i : Nat) (f : Rail → Rail) (s : State) : State := s.modRail i f

/-- The part in operation. -/
def op (s : State) : State := { s with pwr := { s.pwr with phase := .run } }

/-- Nothing found at this boundary, no fault queued. -/
def noFlt (s : State) : State := { s with flt := { s.flt with found := [], queue := [] } }

/-- Both bank supplies good. -/
def vio (s : State) : State :=
  { s with banks := [(0, { vioOk := true, vio := 3300, powered := true }), (1, { vioOk := true, vio := 3300, powered := true })] }

/-- All rails but i are as they were. -/
def others (i : Nat) (s t : State) : Bool := (List.range 96).all fun j => j = i || t.rail j = s.rail j

/-- One fault more is queued, as FaultTaken says. -/
def taken (i k : Nat) (dir : Bool) (onset : Ts) (s t : State) : Bool :=
  match t.flt.queue.drop s.flt.queue.length with
  | [q] => t.flt.queue.take s.flt.queue.length = s.flt.queue && q.rail = i && q.kind = k && q.dir = dir && q.onset = onset &&
    q.det = s.clk.frame && q.mult = 1 && (match s.flt.ff with
      | some c => t.flt.ff = some c
      | none => (t.flt.ff.map fun c => c.f) = some q)
  | _ => false

/-- A program changed. -/
def pg (n : Nat) (f : Prog → Prog) (s : State) : State := { s with seq := { s.seq with progs := tset {} s.seq.progs n (f (s.prog n)) } }

/-- An entry of the on-table. -/
def ont (n v : Nat) (s : State) : State := { s with seq := { s.seq with onTable := tset 0 s.seq.onTable n v } }

/-- An entry of the off-table. -/
def oft (n v : Nat) (s : State) : State := { s with off := { s.off with table := tset 0 s.off.table n v } }

/-- The off-sequencer changed. -/
def offw (f : Off → Off) (s : State) : State := { s with off := f s.off }

/-- The power, the pair, the fault policy, the host interface, the sequencer, the flash, the firmware changed. -/
def pw (f : Pwr → Pwr) (s : State) : State := { s with pwr := f s.pwr }
def pr (f : Pair → Pair) (s : State) : State := { s with pair := f s.pair }
def fl (f : Flt → Flt) (s : State) : State := { s with flt := f s.flt }
def hs (f : Hst → Hst) (s : State) : State := { s with hst := f s.hst }
def sq (f : Seq → Seq) (s : State) : State := { s with seq := f s.seq }
def nvw (f : Nv → Nv) (s : State) : State := { s with nv := f s.nv }
def fww (f : Fw → Fw) (s : State) : State := { s with fw := f s.fw }
def rc (f : Recd → Recd) (s : State) : State := { s with recd := f s.recd }
def eg (e : Nat) (f : Eng → Eng) (s : State) : State := { s with engs := tset {} s.engs e (f (s.eng e)) }

/-- No stack. -/
def solo : State → State := reg 0x4008 0

/-- A reset of the part, as ResetOf says, rail by rail. -/
def resetOf (cause : Nat) (s t : State) : Bool :=
  t.pwr.phase = .reset && t.pwr.nextCause = cause && t.clk.frame = s.clk.frame && t.bar0 = State.reset.bar0 &&
    t.cfg = State.reset.cfg && (List.range 96).all fun i => (t.rail i).st = .unused && !(t.rail i).en && (!twf {} s.rails || (t.rail i).cnt = (s.rail i).cnt)

/-- A stage changed; no stage fault found. -/
def sgw (st : Nat) (f : Stg → Stg) (s : State) : State := s.modStg st f
def noStg (s : State) : State := each [0, 1, 2, 3] (fun st => sgw st fun x => { x with found := none, hicFound := false }) s

/-- All stages but st are as they were. -/
def oStg (st : Nat) (s t : State) : Bool := (List.range 4).all fun j => j = st || t.stg j = s.stg j

/-- Engine e runs and has not run a task in this frame, which is frame n. -/
def eng (e n : Nat) (s : State) : State :=
  op (eg e (fun x => { x with halted := false, ran := 0, used := 0 })
    { s with clk := { s.clk with frame := BitVec.ofNat 48 n }, pwr := { s.pwr with domains := 0xFFF } })

/-- Tasks of engine e that have run in the frame, as a mask. -/
def did (e m : Nat) (s : State) : State := eg e (fun x => { x with ran := m }) s

/-- The ledger's latched balances. -/
def lat (a b c : Nat) (s : State) : State := { s with drt := { s.drt with latched := some (a, b, c) } }

/-- No program, stage, margin or rail asks for power. -/
def noAsk (s : State) : State :=
  { s with
    rails := [], seq := { s.seq with progs := [], starts := [], margins := [], resumeSet := [] }
    stgs := s.stgs.map fun p => (p.1, { p.2 with retry := none })
    pair := { s.pair with role := 0, quiet := false }, recd := { s.recd with buf := [], flush := false }
    jrn := { s.jrn with waiting := [] }, nv := { s.nv with jobs := [], sweep := false, intent := none }
    fw := { s.fw with sess := none }, cnv := { s.cnv with calState := 0 } }

/-- A descriptor is the next of ring r. -/
def bell (r : Nat) (d : Desc) (s : State) : State :=
  { s with hst := { s.hst with rr := r, live := [], decided := [] } }.modRing r fun x =>
    { x with halt := false, own := 3, fetched := [(s.clk.frame, d)] }

/-- A converter core, slice or urgent slot changed. -/
def co (c : Nat) (f : ACore → ACore) (s : State) : State := s.modCore c f

/-- A host command has its entry, as Entered says; it is over, as Ended says; it waits, as Waiting says. -/
def entered (op r : Nat) (d : Desc) (s t : State) : Bool :=
  t.jrn.head = s.nextSeq && (t.jEntry s.nextSeq).any fun e => e.opcode = op && e.ring = r && e.src = 0 && e.tag = d.tag &&
    e.status = stPending && e.frame = s.clk.frame
def ended (op r : Nat) (d : Desc) (st res : Nat) (s t : State) : Bool :=
  entered op r d s t && t.liveOf s.nextSeq = none && t.hst.ready.any fun c => c.seq = s.nextSeq && c.opcode = op && c.ring = r &&
    c.tag = d.tag && c.status = st && c.result = res && c.final && c.frame = s.clk.frame + 1 && c.readyAt = s.clk.frame + 2
def waits (op r : Nat) (d : Desc) (w : Wait) (s t : State) : Bool :=
  entered op r d s t && (t.liveOf s.nextSeq).any fun l => l.wait = w && l.ring = r && l.d.tag = d.tag

/-- A descriptor of these ARGS; the basic and the expert form, and one with a buffer of 64-bit words at 64. -/
def db (a : Nat) : Desc := { tag := 7, args := BitVec.ofNat 448 a }
def dx (a : Nat) : Desc := { tag := 7, args := BitVec.ofNat 448 a, expert := true }
def dw (x : Bool) (a : Nat) (l : List Nat) : Desc :=
  { tag := 7, args := BitVec.ofNat 448 (a + 64 + 2 ^ 64 * (32 * ((l.length + 3) / 4))), expert := x
    buf := (l.flatMap (leBytes 8) ++ List.replicate 32 0).take (32 * ((l.length + 3) / 4)) }

/-- The programs and the sequencer, as ProgsTold and SeqTold say. -/
def progsTold (s t : State) : Bool := (List.range 64).all fun m => t.prog m = { s.prog m with untold := false }
def seqTold (s t : State) : Bool := decide (t.seq = { s.seq with progs := t.seq.progs }) && progsTold s t

/-- Every class of background work is admitted, and no ring update stands in front of it. -/
def free (s : State) : State :=
  { s with drt := { s.drt with bg := 0xFF }, rails := s.rails.map fun p => (p.1, { p.2 with delta := [] }) }

/-- A word that reads uncorrectable. -/
def badWord (st a : Nat) (s : State) : State := { s with wc := { s.wc with err := tset 0 s.wc.err (wkey st a) 3 } }

/-- No partner, no stack; the domain and the off run as given. -/
def alone : State → State := (fun s => { s with jrn := { s.jrn with slots := 2 } }) ∘ solo ∘ pr fun p => { p with role := 0, quiet := false, toQ := none, toT := none, named := none }
def dom (d : Domain) (s : State) : State :=
  { s with seq := { s.seq with domain := d }, off := { s.off with run := false }, sca := { s.sca with joinStack := none, joinPair := none }
           nv := { s.nv with revertDue := false } }

/-- The newest thing sent out is a write of these bytes into a host buffer at 64. -/
def isBuf (t : State) (x : List Byte) : Bool := match t.out.head? with | some (.buffer 64 b) => b = x | _ => false

/-- A link frame of this payload, whole, from node 5 to all; every port in use (0 and 1 in the row, 2 in the stack, 3 in the
pair); a port changed; the link's state changed. -/
def fr (port data : Nat) : LFrame :=
  { port := port, src := 5, dst := 9, seq := 3, bcast := true, data := BitVec.ofNat 256 data, chk := wcCheck (BitVec.ofNat 256 data) }
def ports : State → State := reg 0x9004 85
def pt (p : Nat) (f : Port → Port) (s : State) : State := { s with sca := { s.sca with ports := tset {} s.sca.ports p (f (s.port p)) } }
def sc (f : Sca → Sca) (s : State) : State := { s with sca := f s.sca }
def oPt (p : Nat) (s t : State) : Bool := (List.range 4).all fun q => q = p || t.port q = s.port q

/-- A flue request with its CRC. -/
def fq (cmd tag session : Nat) (payload : List Byte) : Flue :=
  let p : Flue := { tag := tag, len := payload.length, session := session, payload := payload }
  { p with crc := reqCrc cmd p }
/-- The flue port open to a request, with this session. -/
def flu (x : Option Sess) : State → State := op ∘ fww fun f => { f with busy := false, sess := x, keyFail := false, finishing := false, h := none }

/-! ## Ill-formed commands: one for each check of Instr.wf -/

/-- Commands with one operand out of its range. -/
def illFormed0 : List Instr := [
    .frameBoundary { pg := [(96, 0)] },
    .watchTickBoundary { pg := [(96, 0)] },
    .supplyGood 4,
    .domainPowerUp 12,
    .powerFailure 8 0,
    .powerFailure 0 2000,
    .vioOkRise 2,
    .vioOkFall 2,
    .trgEdgeAccepted 4 false 0,
    .trgEdgeAccepted 0 false 2000,
    .pgDebouncedGood 96,
    .pgLost 96,
    .pgLate 96,
    .enShort 96 false false,
    .enOpen 96,
    .assistTest 96,
    .assistTestResult 96 false,
    .pgOpenTest 96 false,
    .pgStuck 96,
    .enFoldBack 96,
    .minOffElapsed 96,
    .marginSettleExpiry 96,
    .marginVerifyDone 96,
    .pmbusTransactionDone 4 .ack]

/-- Commands with one operand out of its range. -/
def illFormed1 : List Instr := [
    .pmbusSclTimeout 4,
    .pmbusWatcherPoll 32,
    .commitmentEnd (.rail 768),
    .delayExpiry 64,
    .stepDeadlineExpiry 64,
    .dischMet 96,
    .backoffExpiry 96,
    .heal 96,
    .groupRestart 16,
    .watchdogExpiry 8,
    .conversionEnd 4 0 0 false,
    .conversionEnd 0 12 0 false,
    .sliceUnclamp 4 0,
    .sliceUnclamp 0 4,
    .plausibilityRestore 2,
    .conversionDropped 4 0,
    .conversionDropped 0 64,
    .urgentConversionStart 4 0,
    .urgentConversionStart 0 4,
    .refrdySet 2,
    .referenceFaultTimeout 2,
    .refrdyFall 2,
    .taskOverrun 8 0,
    .taskOverrun 0 4]

/-- Commands with one operand out of its range. -/
def illFormed2 : List Instr := [
    .stageControlTask 4 0,
    .phaseDiagnosticsTask 4 0,
    .stageRegulated 4,
    .kindlingStartTimeout 4,
    .cycleLimitTrip 32 false,
    .hiccupEntry 4,
    .hiccupExpiry 4,
    .consecHicHeal 4,
    .senseOpen 4 [],
    .frozen 4,
    .nofb 4,
    .stageOv 4,
    .stageUv 4,
    .overrunSafeOff 4,
    .capFloor 4,
    .stageRetryBackoff 4,
    .stageRetryCntHeal 4,
    .setUpWrite { cyc := 2000 } 0,
    .glbLockWrite 0 2000,
    .stgLoadCommit 4 0,
    .glbLoadClear 8 0,
    .glbFrameLoRead 2000,
    .cnvResLoRead 64,
    .crDoorbell 8 0]

/-- Commands with one operand out of its range. -/
def illFormed3 : List Instr := [
    .cqDoorbell 8 0,
    .descriptorFetchDone 8 [],
    .msixModerationExpiry 12,
    .nop 8 {},
    .nop 0 { tag := 65536 },
    .powerOn 8 {},
    .powerOn 0 { tag := 65536 },
    .powerOff 8 {},
    .powerOff 0 { tag := 65536 },
    .groupOff 8 {},
    .groupOff 0 { tag := 65536 },
    .progLaunch 8 {},
    .progLaunch 0 { tag := 65536 },
    .progAbort 8 {},
    .progAbort 0 { tag := 65536 },
    .progLoad 8 {},
    .progLoad 0 { tag := 65536 },
    .graphLoad 8 {},
    .graphLoad 0 { tag := 65536 },
    .flagsSet 8 {},
    .flagsSet 0 { tag := 65536 },
    .retryCancel 8 {},
    .retryCancel 0 { tag := 65536 },
    .margin 8 {}]

/-- Commands with one operand out of its range. -/
def illFormed4 : List Instr := [
    .margin 0 { tag := 65536 },
    .ffClear 8 {},
    .ffClear 0 { tag := 65536 },
    .sysrstRelease 8 {},
    .sysrstRelease 0 { tag := 65536 },
    .stageStart 8 {},
    .stageStart 0 { tag := 65536 },
    .stageStop 8 {},
    .stageStop 0 { tag := 65536 },
    .stageClear 8 {},
    .stageClear 0 { tag := 65536 },
    .loopSetup 8 {},
    .loopSetup 0 { tag := 65536 },
    .capSet 8 {},
    .capSet 0 { tag := 65536 },
    .convStart 8 {},
    .convStart 0 { tag := 65536 },
    .convUrgent 8 {},
    .convUrgent 0 { tag := 65536 },
    .convCalZero 8 {},
    .convCalZero 0 { tag := 65536 },
    .convCalFull 8 {},
    .convCalFull 0 { tag := 65536 },
    .configLoad 8 {}]

/-- Commands with one operand out of its range. -/
def illFormed5 : List Instr := [
    .configLoad 0 { tag := 65536 },
    .configActivate 8 {},
    .configActivate 0 { tag := 65536 },
    .configRevert 8 {},
    .configRevert 0 { tag := 65536 },
    .configCapture 8 {},
    .configCapture 0 { tag := 65536 },
    .configConfirm 8 {},
    .configConfirm 0 { tag := 65536 },
    .journalRead 8 {},
    .journalRead 0 { tag := 65536 },
    .alogRead 8 {},
    .alogRead 0 { tag := 65536 },
    .countersRead 8 {},
    .countersRead 0 { tag := 65536 },
    .stateRead 8 {},
    .stateRead 0 { tag := 65536 },
    .recRead 8 {},
    .recRead 0 { tag := 65536 },
    .recFreeze 8 {},
    .recFreeze 0 { tag := 65536 },
    .recThaw 8 {},
    .recThaw 0 { tag := 65536 },
    .recChallenge 8 {}]

/-- Commands with one operand out of its range. -/
def illFormed6 : List Instr := [
    .recChallenge 0 { tag := 65536 },
    .recClear 8 {},
    .recClear 0 { tag := 65536 },
    .tagWrite 8 {},
    .tagWrite 0 { tag := 65536 },
    .tagRead 8 {},
    .tagRead 0 { tag := 65536 },
    .pairHandover 8 {},
    .pairHandover 0 { tag := 65536 },
    .portSeek 4,
    .portLock 4 false,
    .portIdent 4,
    .portUp 4 0 0 0 0 false false 0,
    .portUp 0 4096 0 0 0 false false 0,
    .portUp 0 0 8 0 0 false false 0,
    .portUp 0 0 0 0 0 false false 3,
    .portRetrain 4,
    .syncFrame { f := { port := 4 } },
    .electFrame { port := 4 },
    .memberFrame { port := 4 },
    .statusFrame { port := 4 } 0,
    .statusFrame {} 8,
    .cmdFrame { port := 4 },
    .relayFrame { port := 4 } none (none, 0)]

/-- Commands with one operand out of its range. -/
def illFormed7 : List Instr := [
    .stackMemberLoss 8,
    .rowstatFrame { port := 4 } 0 0 false false 0 0,
    .rowstatFrame {} 0 0 false false 8 0,
    .rowstatFrame {} 0 0 false false 0 8,
    .capFrame { port := 4 } 0,
    .faultFrame { port := 4 } {} 0 0 0 false,
    .faultFrame {} {} 4096 0 0 false,
    .faultFrame {} {} 0 1024 0 false,
    .faultFrame {} {} 0 0 8 false,
    .eventFrame { port := 4 } {},
    .eventFrame {} { src := 256 },
    .telemFrame { port := 4 },
    .pairEnFrame { port := 4 },
    .journalFrame { port := 4 },
    .jackFrame { port := 4 } 0,
    .mirrorFrame { port := 4 } 0 0 0 [],
    .mirrorFrame {} 0 1 0 [],
    .counterRingUpdate 96,
    .holdoffExpiry 256,
    .flueOpen { tag := 256 },
    .flueHeader { tag := 256 } false,
    .flueData { tag := 256 },
    .flueVerify { tag := 256 } [],
    .flueActivate { tag := 256 } false false]

/-- Commands with one operand out of its range. -/
def illFormed8 : List Instr := [
    .flueConfirm { tag := 256 } false,
    .flueStatus { tag := 256 },
    .flueClose { tag := 256 },
    .keyProgram { tag := 256 } false,
    .pgEdgeLatch 96 0,
    .pgEdgeLatch 0 2000,
    .unsupportedBarAccess 1 false {} 0,
    .unsupportedBarAccess 0 false { cyc := 2000 } 0,
    .msixTableWrite 0x802 0,
    .msixTableWrite 0xC08 0,
    .msixTableWrite 0x7FC 0]

theorem test_wf_refuses : (illFormed0 ++ illFormed1 ++ illFormed2 ++ illFormed3 ++ illFormed4 ++ illFormed5 ++ illFormed6 ++ illFormed7 ++ illFormed8).all (fun c => !c.wf) = true := by decide +kernel

/-- Each named check refuses each field it tests. -/
theorem test_wf_parts : LFrame.wf { port := 4 } = false ∧ LFrame.wf { src := 4096 } = false ∧ LFrame.wf { dst := 4096 } = false ∧
    SyncIn.wf { f := { dst := 4096 } } = false ∧ Access.wf { cyc := 2000 } = false ∧ Access.wf { off := 0x10000 } = false ∧
    Access.wfBar { cyc := 2000 } = false ∧ descWf { opcode := 256 } = false ∧ descWf { tag := 65536 } = false ∧
    Flue.wf { tag := 256 } = false ∧ Flue.wf { session := 2 ^ 32 } = false ∧ Flue.wf { crc := 2 ^ 32 } = false ∧
    ckeyWf (.rail 768) = false ∧ ckeyWf (.stage 4) = false ∧ ckeyWf (.margin 768) = false ∧ occWf { src := 256 } = false ∧
    occWf { sev := 4 } = false ∧ msixOk 0x7FC = false ∧ msixOk 0xC08 = false ∧ msixOk 0x802 = false := by decide +kernel

theorem test_wf_boundary : [({ pg := [(96, 0)] } : BoundaryIn), { en := [(96, 0)] }, { ilim := [96] }, { mdacOut := [16] }, { quiet := [32] },
    { wedged := [8] }, { refOut := [2] }, { legs := [(4, [])] }, { clamps := [168] }].all (fun b => !b.wf) = true := by decide +kernel

/-- Commands at the top of their ranges are accepted. -/
theorem test_wf_accepts : [Instr.pgLost 95, .supplyGood 3, .nop 7 { tag := 65535 }, .frameBoundary { pg := [(95, 0)] }, .msixTableWrite 0xC04 0,
    .commitmentEnd (.rail 767)].all Instr.wf = true := by decide +kernel

/-! ## Witnesses -/

def on3 : State → State := rl 3 (fun r => { r with st := .on, db := true, en := true, enBall := true }) ∘ noFlt ∘ op
def open3 : State → State := reg 0x2030 3 ∘ rl 3 (fun r => { r with st := .off, used := true, enBall := false, fold := false, blank := 0, rbDone := false, assist := false }) ∘ vio ∘ noFlt ∘ op ∘ fun s => { s with pwr := { s.pwr with xrst := false } }
theorem wit_RailPinsAndSupply :
  (Wt (.pgDebouncedGood 95) (rl 95 (fun r => { r with st := .ramping, en := true }) ∘ vio ∘ op)
  (fun s => (s.rail 95).st ≠ .unused ∧ s.vioOk 95 = true)
  (fun s t => (t.rail 95).db = true ∧ (t.rail 95).raw = true ∧ (t.rail 95).edge = none ∧
      (t.rail 95).st = (if (s.rail 95).st = .ramping then .on else (s.rail 95).st) ∧ (t.rail 95).en = (s.rail 95).en ∧
      t = { s with rails := t.rails } ∧ others 95 s t)) ∧
  (Wt (.pgDebouncedGood 3) (rl 3 (fun r => if r.st = .unused then { r with st := .releasing } else r) ∘ vio ∘ op)
  (fun s => (s.rail 3).st ≠ .unused ∧ s.vioOk 3 = true)
  (fun s t => (t.rail 3).db = true ∧ (t.rail 3).raw = true ∧ (t.rail 3).edge = none ∧
      (t.rail 3).st = (if (s.rail 3).st = .ramping then .on else (s.rail 3).st) ∧ (t.rail 3).en = (s.rail 3).en ∧
      t = { s with rails := t.rails } ∧ others 3 s t)) ∧
  (Wt (.assistTest 3) open3 (fun s => readbackOpen s 3 = true ∧ rcDriven (s.rcfg 3) (s.rail 3).enBall = false ∧
  bit (s.rcfg 3) 11 = false ∧ (s.rail 3).assist = false) (fun s t => (t.rail 3).assist = true ∧ 4 ≤ (t.rail 3).mis ∧
   (t.rail 3).st = (s.rail 3).st ∧ t = { s with rails := t.rails } ∧ others 3 s t)) ∧
  (Wt (.minOffElapsed 0) (reg 0x2000 0x0FFF0000 ∘ op) (fun _ => true) (fun s t => s.cf (rbase 0) 27 16 ≤ (t.rail 0).offTicks ∧
  (t.rail 0).st = (s.rail 0).st ∧ (t.rail 0).en = (s.rail 0).en ∧ t = { s with rails := t.rails } ∧ others 0 s t)) ∧
  (Wt (.pgEdgeLatch 3 1999) on3 (fun s => (s.rail 3).st ≠ .unused) (fun s t => (t.rail 3).edge = some ((s.rail 3).edge.getD (s.tsAt 1999)) ∧
  (t.rail 3).db = (s.rail 3).db ∧ t = { s with rails := t.rails } ∧ others 3 s t)) ∧
  (Wt (.vioOkRise 1) (rl 50 (fun r => { r with st := .hiz, used := true, fold := false }) ∘ op ∘ fun s => { s with banks := [(1, { powered := true })], pwr := { s.pwr with xrst := false } })
  (fun s => (s.bank 1).powered = true ∧ (s.bank 1).vioOk = false)
  (fun s t => (t.bank 1).vioOk = true ∧ (t.bank 0) = (s.bank 0) ∧ ((List.range 48).all fun i => t.rail i = s.rail i) ∧
    (List.range 96).all fun i => bankOf i = 1 && (s.rail i).st = .hiz && !s.pwr.xrst && !(s.rail i).fold →
        (t.rail i).st = (if (s.rail i).hizLate && rcFailOn (s.rcfg i) then .ramping else .off))) ∧
  (Wt (.vioOkFall 0) (on3 ∘ vio) (fun s => (s.bank 0).vioOk = true) (fun s t => (t.bank 0).vioOk = false ∧ t.bank 1 = s.bank 1 ∧
  Pending 0x2E t ∧ (List.range 48).all fun i => (s.rail i).st ≠ .unused → (t.rail i).st = .hiz)) ∧
  (Wt (.enFoldBack 3) (rl 3 (fun r => { r with fold := false }) ∘ on3 ∘ vio ∘ fun s => { s with pwr := { s.pwr with xrst := false } }) (fun s => s.drives 3 = true) (fun s t => (t.rail 3).st = .hiz ∧ (t.rail 3).en = false ∧
  (t.rail 3).enBall = false ∧ (t.rail 3).fold = true ∧ Pending 0x30 t ∧ others 3 s t)) := by
  refine ⟨?_, ?_, ?_, ?_, ?_, ?_, ?_, ?_⟩ <;> decide +kernel

theorem wit_RailFaults_a :
  (Wt (.pgLost 3) on3 (fun s => (s.rail 3).st = .on ∧ NoFaultWaiting 3 0 s) (fun s t => taken 3 0 false ((s.rail 3).edge.getD
      (if (s.rail 3).db && (s.rail 3).dbCnt = 0 then s.tsB else (s.rail 3).dbOnset)) s t)) ∧
  (Wt (.pgLost 3) (rl 3 (fun r => { r with st := .releasing, db := true, used := true }) ∘ noFlt ∘ op) (fun s => (s.rail 3).st = .releasing ∧ s.flt.found = [])
  (fun s t => (t.rail 3).st = .off ∧ (t.rail 3).db = false ∧ (t.rail 3).en = (s.rail 3).en ∧ t.flt = s.flt ∧ others 3 s t)) ∧
  (Wt (.pgLate 3) (rl 3 (fun r => { r with st := .ramping, deadline := some 5 }) ∘ noFlt ∘ op)
  (fun s => (s.rail 3).st = .ramping ∧ (s.rail 3).deadline = some 5 ∧ NoFaultWaiting 3 1 s) (fun s t => taken 3 1 false s.tsB s t)) ∧
  (Wt (.enShort 3 false true) (reg 0x2030 1 ∘ rl 3 (fun r => { r with fold := false, rbDone := false, blank := 0 }) ∘ on3 ∘ vio ∘ fun s => { s with pwr := { s.pwr with xrst := false } })
  (fun s => readbackOpen s 3 = true ∧ rcDriven (s.rcfg 3) (s.rail 3).enBall = true ∧
      false ≠ rcLevel (s.rcfg 3) (s.rail 3).enBall ∧ NoFaultWaiting 3 2 s)
  (fun s t => taken 3 2 false (if (s.rail 3).mis = 0 then s.tsB else (s.rail 3).misOnset) s t)) ∧
  (Wt (.enOpen 3) (reg 0x2030 0x803 ∘ open3) (fun s => readbackOpen s 3 = true ∧ rcDriven (s.rcfg 3) (s.rail 3).enBall = false ∧
  bit (s.rcfg 3) 11 = true ∧ NoFaultWaiting 3 3 s) (fun s t => taken 3 3 false (if (s.rail 3).mis = 0 then s.tsB else (s.rail 3).misOnset) s t)) ∧
  (Wt (.assistTestResult 3 true) (rl 3 (fun r => { r with assist := true }) ∘ noFlt) (fun s => (s.rail 3).assist = true ∧ NoFaultWaiting 3 2 s)
  (fun s t => taken 3 2 (rcMode (s.rcfg 3) = 1) (s.rail 3).misOnset s t)) ∧
  (Wt (.assistTestResult 3 false) (rl 3 (fun r => { r with assist := true }) ∘ noFlt) (fun s => (s.rail 3).assist = true ∧ NoFaultWaiting 3 3 s)
  (fun s t => taken 3 3 false (s.rail 3).misOnset s t)) ∧
  (Wt (.pgOpenTest 3 true) (reg 0x2030 0x40 ∘ rl 3 (fun r => { r with owFail := some {}, owTest := some false }) ∘ on3 ∘ vio)
  (fun s => (fld (s.rcfg 3) 7 6 = 1 ∨ fld (s.rcfg 3) 7 6 = 2) ∧ s.vioOk 3 = true ∧ ((s.rail 3).st = .off ∨ (s.rail 3).st = .on) ∧
     (s.rail 3).owFail = some {} ∧ (s.rail 3).owTest.getD (s.rail 3).rx ≠ true ∧ NoFaultWaiting 3 4 s)
  (fun s t => taken 3 4 false {} s t)) := by
  refine ⟨?_, ?_, ?_, ?_, ?_, ?_, ?_, ?_⟩ <;> decide +kernel

theorem wit_RailFaults_b :
  (Wt (.pgStuck 3) (reg 0x2034 0x10000 ∘ rl 3 (fun r => { r with st := .releasing, stuckDone := false }) ∘ noFlt ∘ op)
  (fun s => s.cf (rbase 3 + 4) 23 16 ≠ 0 ∧ (s.rail 3).stuckDone = false ∧ (s.rail 3).st = .releasing ∧ NoFaultWaiting 3 5 s)
  (fun s t => taken 3 5 false s.tsB s t)) ∧
  (Wt (.pgOpenTest 3 true) (reg 0x2030 0x40 ∘ rl 3 (fun r => { r with owFail := none }) ∘ on3 ∘ vio)
  (fun s => (fld (s.rcfg 3) 7 6 = 1 ∨ fld (s.rcfg 3) 7 6 = 2) ∧ s.vioOk 3 = true ∧ ((s.rail 3).st = .off ∨ (s.rail 3).st = .on) ∧
     (s.rail 3).owFail = none ∧ s.flt.found = [])
  (fun s t => (t.rail 3).owFail = (if (s.rail 3).owTest.getD (s.rail 3).rx = true then none else
        some { frame := s.clk.last, frac := fracOf 1500 }) ∧ (t.rail 3).st = (s.rail 3).st ∧ t.flt = s.flt ∧ others 3 s t)) := by
  refine ⟨?_, ?_⟩ <;> decide +kernel

theorem wit_PgLostReaction :
  (Wt (.pgLost 3) (reg (fbase 3) 0 ∘ on3 ∘ fun s => { s with off := { s.off with run := false }, pair := {s.pair with role := 0 } })
  (fun s => (s.rail 3).st = .on ∧ s.flt.found = [] ∧ s.off.run = false ∧ s.shadow = false ∧ s.cf (fbase 3) 1 0 = 0)
  (fun s t => (t.rail 3).st = .ramping ∧ (t.rail 3).en = (s.rail 3).en ∧ (t.rail 3).lastKind = 0 ∧ others 3 s t)) ∧
  (Wt (.pgLost 3) (rl 3 (fun r => { r with retryCnt := 0 }) ∘ reg (fbase 3) 1 ∘ reg (fbase 3 + 4) 0x1005 ∘ on3 ∘ fun s => { s with off := { s.off with run := false }, pair := {s.pair with role := 0 } })
  (fun s => (s.rail 3).st = .on ∧ s.flt.found = [] ∧ s.off.run = false ∧ s.shadow = false ∧ s.cf (fbase 3) 1 0 = 1 ∧
      (s.rail 3).retryCnt < s.cf (fbase 3 + 4) 15 12)
  (fun s t => (t.rail 3).st = .faulted ∧ (t.rail 3).en = false ∧ (t.rail 3).retryPend = true ∧
    (t.rail 3).backoff = orDef (s.cf (fbase 3 + 4) 11 0) 1 ∧ (t.rail 3).lastKind = 0 ∧ others 3 s t)) := by
  refine ⟨?_, ?_⟩ <;> decide +kernel

theorem wit_ProgramTimersAndCommitments :
  (Wt (.delayExpiry 5) (pg 5 (fun p => { p with state := 1, items := [{ idx := 800, w := 5 * 2^58 }], next := 801, stack := [] }) ∘ ont 801 (5 * 2^58 + 7 * 2^33) ∘ op)
 (fun s => (s.prog 5).state = 1 ∧ opOf (s.entryAt (s.prog 5).next) ≠ 2 ∧ hasExt (s.entryAt (s.prog 5).next) = false ∧ stepOk s (s.entryAt (s.prog 5).next) = true ∧ s.wordOut 0x11 ((s.prog 5).next / 4) ≠ .uncorrectable)
 (fun s t => (t.prog 5).state = 1 ∧ (t.prog 5).items = [newItem s (s.prog 5).next] ∧
      (t.prog 5).step = (s.prog 5).next ∧ (t.prog 5).next = (s.prog 5).next + 1 ∧ (List.range 64).all fun m => m = 5 || t.prog m = { s.prog m with untold := false })) ∧
  (Wt (.stepDeadlineExpiry 63) (solo ∘ pg 63 (fun p => { p with state := 1, items := [{ idx := 800, w := 4 * 2^58 + 2^27, deadline := some 3 }], next := 801, stack := [] }) ∘ op)
 (fun s => condTrue s (nbits (4 * 2^58 + 2^27) 31 0) = false ∧ onFail (4 * 2^58 + 2^27) = false ∧ s.role = 0)
 (fun s t => (t.prog 63).state = 4 ∧ (t.prog 63).status = 5 ∧ (t.prog 63).step = 800 ∧
      (t.prog 63).items = [] ∧ (List.range 63).all fun m => t.prog m = { s.prog m with untold := false })) ∧
  (Wt (.commitmentEnd (.rail 3)) (fun s => { s with drt := { s.drt with commits := [{ key := .rail 3 }, { key := .rail 3, power := 4 }, { key := .stage 3 }] } }) (fun _ => true)
 (fun s t => (s.drt.commits.all fun c => (t.drt.commits.contains c) == (c.key ≠ .rail 3)) ∧ (t.drt.commits.all s.drt.commits.contains) ∧ t = { s with drt := { s.drt with commits := t.drt.commits } })) := by
  refine ⟨?_, ?_, ?_⟩ <;> decide +kernel

theorem wit_OffSequencer :
  (Wt .offClassLimitExpiry (offw (fun o => { o with run := true, opened := true, released := [], set := [3], toRelease := [3], pos := 2, table := [(0, 0x22 * 2^58 + 1 * 2^55 + 9), (1, 0x21 * 2^58 + 3 * 2^51), (2, 0x22 * 2^58 + 2 * 2^55)] }) ∘ rl 3 (fun r => { r with st := .on }) ∘ op)
 (fun s => s.off.run = true ∧ s.off.opened = true ∧ classDone s = false ∧ opOf (s.offAt (nextClass s s.off.pos)) = 0x22)
 (fun s t => t.off.late = true ∧ t.off.run = true ∧ t.off.opened = true ∧
      t.off.cls = nbits (s.offAt (nextClass s s.off.pos)) 57 55 ∧ t.off.pos = nextClass s s.off.pos + 1 ∧
      t.off.limit = 32 * orDef (nbits (s.offAt (nextClass s s.off.pos)) 11 0) 4095 ∧ Pending 0x40 t ∧ t.rails = s.rails)) ∧
  (Wt .offPauseExpiry (offw (fun o => { o with run := true, opened := true, set := [3], toRelease := [3], pause := 4, pos := 1, table := [(0, 0x22 * 2^58 + 1 * 2^55 + 9), (1, 0x21 * 2^58 + 3 * 2^51), (2, 0x22 * 2^58 + 2 * 2^55)] }) ∘ rl 3 (fun r => { r with st := .on }) ∘ op)
 (fun s => s.off.run = true ∧ s.off.opened = true ∧ s.off.pause ≠ 0 ∧ opOf (s.offAt s.off.pos) = 0x21 ∧
      nbits (s.offAt s.off.pos) 57 51 = 3 ∧ (s.offAt s.off.pos).testBit 50 = false ∧ needsRelease s 3 = true ∧
      (s.rail 3).st.live = true)
 (fun s t => (t.rail 3).en = false ∧
      (t.rail 3).st = (if (s.rail 3).db then .releasing else .off) ∧ t.off.pos = s.off.pos + 1 ∧
      t.off.toRelease = s.off.toRelease.filter (· ≠ 3) ∧ t.off.released = 3 :: s.off.released ∧ others 3 s t)) ∧
  (Wt (.dischMet 3) (offw (fun o => { o with run := true, opened := true, set := [3], cls := 1, toRelease := [], released := [3], pos := 2, table := [(0, 0x22 * 2^58 + 1 * 2^55 + 9), (1, 0x21 * 2^58 + 3 * 2^51 + 77), (2, 0x22 * 2^58 + 2 * 2^55)] }) ∘ rl 3 (fun r => { r with st := .off }) ∘ op)
 (fun s => s.off.run = true ∧ s.off.opened = true ∧ (s.rail 3).st.resting = true ∧ (dischOf s 3).isSome)
 (fun s t => (dischOf s 3).getD 0 ≤ (t.rail 3).rest ∧ (t.rail 3).st = (s.rail 3).st ∧ t = { s with rails := t.rails } ∧ others 3 s t)) ∧
  (Wt .offRunComplete (offw (fun o => { o with run := true, full := true }) ∘ fl (fun f => { f with restartOwed := false }) ∘ op)
 (fun s => s.off.run = true) (fun s t => t.off.run = false ∧ t.off.set = [] ∧
    (s.off.full = true → s.flt.restartOwed = false → t.seq.domain = .off))) ∧
  (Wt .offRunComplete (offw (fun o => { o with run := true }) ∘ op)
 (fun s => s.off.run = true) (fun s t => t.off.run = false ∧ t.off.set = [] ∧
    (s.off.full = true → s.flt.restartOwed = false → t.seq.domain = .off))) ∧
  (Wt .heldOnRequestLaunch (sq (fun q => { q with onPending := true }) ∘ offw (fun o => { o with run := false }) ∘ op)
 (fun s => s.seq.onPending = true ∧ s.off.run = false) (fun s t => t.seq.onPending = false ∧ t.flt.restartLeft = none ∧ t.seq.onset = s.onSet ∧
      (t.seq.domain = .poweringUp ∨ t.seq.domain = .up ∨ t.seq.domain = .partialUp))) := by
  refine ⟨?_, ?_, ?_, ?_, ?_, ?_⟩ <;> decide +kernel

theorem wit_FaultPolicyTimers :
  (Wt (.backoffExpiry 0) (rl 0 (fun r => { r with retryPend := true, retry := none })) (fun s => (s.rail 0).retryPend = true ∧ (s.rail 0).retry = none)
 (fun s t => (t.rail 0).retry = some { since := s.clk.frame } ∧ (t.rail 0).backoff = 0 ∧ (t.rail 0).st = (s.rail 0).st ∧
      t = { s with rails := t.rails } ∧ others 0 s t)) ∧
  (Wt (.heal 95) (rl 95 (fun r => { r with db := true, retryCnt := 3, escalated := true }) ∘ reg (fbase 95 + 4) 0x40000) (fun s => (s.rail 95).db = true ∧ s.cf (fbase 95 + 4) 25 18 ≠ 0)
 (fun s t => (t.rail 95).retryCnt = 0 ∧ (t.rail 95).escalated = false ∧ s.cf (fbase 95 + 4) 25 18 ≤ (t.rail 95).goodTicks ∧
      t = { s with rails := t.rails } ∧ others 95 s t)) ∧
  (Wt (.groupRestart 15) (fl (fun f => { f with grps := tset {} f.grps 15 { left := some 4, count := 15 } }) ∘ eg 1 (fun e => { e with halted := false })) (fun s => (s.grp 15).left.isSome = true ∧ (s.eng 1).halted = false)
 (fun s t => (t.grp 15).left = none ∧ (t.grp 15).count = sat 15 ((s.grp 15).count + 1) ∧ (List.range 15).all fun m => t.grp m = s.grp m)) ∧
  (Wt .restartDelayExpiry (fl (fun f => { f with restartLeft := some 2 })) (fun s => s.flt.restartLeft.isSome = true) (fun s t =>
    t.flt.restartLeft = none ∧ t.flt.restarts = sat 15 (s.flt.restarts + 1))) ∧
  (Wt .restartWindowExpiry (sq (fun q => { q with domain := .up })) (fun s => s.seq.domain = .up) (fun s t =>
    t.flt.restarts = 0 ∧ t.flt.restartExh = s.flt.restartExh ∧ t = { s with flt := t.flt })) ∧
  (Wt .sysrstReleaseDelay (fl (fun f => { f with sysrst := true, rstLeft := some 2 })) (fun s => s.flt.sysrst = true ∧ s.flt.rstLeft.isSome = true) (fun s t =>
    t.flt.sysrst = false ∧ t.flt.rstLeft = none ∧ t = { s with flt := t.flt })) ∧
  (Wt .watchdogGraceExpiry (fl (fun f => { f with wdtRun := true, grace := some 2 }) ∘ offw (fun o => { o with run := true }) ∘ rl 3 (fun r => { r with st := .on })) (fun s => s.flt.wdtRun = true ∧ s.flt.grace.isSome = true ∧ s.off.run = true)
  (fun s t => t.flt.wdtHold = true ∧ t.flt.grace = none ∧
      (List.range 96).all fun i => (if (s.rail i).st.live then (t.rail i).en = false ∧ (t.rail i).st = (if (s.rail i).db then .releasing else .off)
        else t.rail i = s.rail i))) := by
  refine ⟨?_, ?_, ?_, ?_, ?_, ?_, ?_⟩ <;> decide +kernel

theorem wit_PowerAndResets_a :
  (Wt .pd0PowerUp op (fun _ => true) (fun s t => t.clk.frame = 0 ∧ t.pwr.phase = .reset ∧ t.pwr.nextCause = 1 ∧
    t.bar0 = State.reset.bar0 ∧ t.cfg = State.reset.cfg ∧ t.rails = [] ∧ t.engs = [] ∧ t.stgs = [] ∧ t.jrn.head = 0 ∧
    t.jrn.mirror = s.jrn.mirror ∧ t.nv.images = s.nv.images ∧ t.nv.stored = s.nv.stored ∧ t.nv.counters = s.nv.counters ∧
    t.fw.stored = s.fw.stored ∧ t.recd.sects = s.recd.sects ∧ t.pending = s.pending ∧
    (s.nv.erases = [] → jobRunning s = none → t.nv.flash = s.nv.flash))) ∧
  (Wt .pd0PowerLoss (rl 3 (fun r => { r with st := .on }) ∘ op) (fun _ => true) (fun s t => t.clk.frame = 0 ∧ t.pwr.phase = .dead ∧ t.bar0 = State.reset.bar0 ∧
    t.cfg = State.reset.cfg ∧ t.rails = [] ∧ t.engs = [] ∧ t.stgs = [] ∧ t.jrn.mirror = s.jrn.mirror ∧
    t.nv.images = s.nv.images ∧ t.nv.stored = s.nv.stored ∧ t.nv.counters = s.nv.counters ∧ t.fw.stored = s.fw.stored ∧
    t.recd.sects = s.recd.sects ∧ t.pending = s.pending ∧
    (s.nv.erases = [] → jobRunning s = none → t.nv.flash = s.nv.flash))) ∧
  (Wt .porstAsserted (rl 3 (fun r => { r with st := .on, en := true }) ∘ op) (fun s => s.pwr.phase = .run) (fun s t => resetOf 3 s t ∧ t.pwr.porst = true)) ∧
  (Wt .porstAsserted (pw fun p => { p with phase := .ember, ready := 3 }) (fun s => s.pwr.phase = .ember) (fun s t =>
    t = { s with pwr := { s.pwr with porst := true, ready := 0 } })) ∧
  (Wt .watchdogReset (fl (fun f => { f with wdtRun := true }) ∘ op) (fun s => s.pwr.phase = .run ∧ s.flt.wdtRun = true) (fun s t =>
    resetOf 4 s t ∧ t.flt.restarts = s.flt.restarts ∧ t.flt.wdtExp = s.flt.wdtExp)) ∧
  (Wt .recoveryReset (fww (fun f => { f with recReset := some 0 }) ∘ pw fun p => { p with phase := .recovery }) (fun s => s.pwr.phase = .recovery ∧ s.fw.recReset.isSome = true) (fun s t =>
    resetOf 7 s t ∧ t.pwr.ignoreRecov = true)) ∧
  (Wt .bootFailure (fww (fun f => { f with state := { f.state with phase := 0 } }) ∘ pw fun p => { p with phase := .start }) (fun s => s.pwr.phase = .start ∧ s.fw.state.phase ≠ 2) (fun s t =>
   resetOf 6 s t ∧ t.pwr.bootFail = sat 3 (s.pwr.bootFail + 1))) ∧
  (Wt .bootFailure (fww (fun f => { f with state := { f.state with phase := 2 } }) ∘ pw fun p => { p with phase := .rom }) (fun s => s.pwr.phase = .rom ∧ s.fw.state.phase = 2) (fun s t =>
   resetOf 6 s t ∧ t.pwr.bootFail = s.pwr.bootFail ∧ t.fw.state.phase = 0 ∧
      t.fw.stored = some t.fw.state)) := by
  refine ⟨?_, ?_, ?_, ?_, ?_, ?_, ?_, ?_⟩ <;> decide +kernel

theorem wit_PowerAndResets_b :
  Wt .emberModeExit (pw fun p => { p with phase := .ember }) (fun s => s.pwr.phase = .ember) (fun s t => t.pwr.phase = .reset ∧ t.pwr.nextCause = 2 ∧
    t.pwr.writing = none ∧ t.clk.frame = s.clk.frame ∧ t.cfg = State.reset.cfg ∧ (List.range 96).all fun i => (t.rail i).st = .unused) := by decide +kernel

theorem wit_EmberMode :
  (Wt (.powerFailure 3 7) (nvw (fun n => { n with armed := true }) ∘ op) (fun s => s.pwr.phase = .run ∧ s.nv.armed = true) (fun s t => t.pwr.phase = .ember ∧
    ((List.range 96).all fun i => (t.rail i).st = .unused) ∧ t.cfg = State.reset.cfg ∧ t.pwr.emberDone = false ∧
    t.pwr.emberSeq = s.pwr.emberSeq + 1 ∧
    t.pwr.writing.any fun e => e.pf = { frame := s.clk.frame + 1, frac := fracOf 7 } ∧ e.seq = s.pwr.emberSeq % 2 ^ 32 ∧ t.nv.jobs.any fun j => j.use = .ember e)) ∧
  (Wt (.powerFailure 3 7) (nvw (fun n => { n with armed := false }) ∘ op) (fun s => s.pwr.phase = .run ∧ s.nv.armed = false) (fun s t => t.pwr.phase = .ember ∧
    ((List.range 96).all fun i => (t.rail i).st = .unused) ∧ t.pwr.emberDone = (jobRunning (eraseAbort s)).isNone ∧ t.pwr.writing = none ∧ t.nv.jobs = [] ∧ t.pwr.emberSeq = s.pwr.emberSeq)) ∧
  (Wt (.emberRecorderFlush 5) (rc (fun r => { r with buf := [{ rnum := 9, sev := 3 }] }) ∘ pw fun p => { p with phase := .ember })
  (fun s => s.pwr.phase = .ember ∧ s.recd.buf = [{ rnum := 9, sev := 3 }] ∧ (placeEmber { rnum := 9, sev := 3 } s).1 = true)
  (fun s t => t.pwr.flushed = s.pwr.flushed ++ [9] ∧ t.recd.buf = [])) := by
  refine ⟨?_, ?_, ?_⟩ <;> decide +kernel

theorem wit_SupplyPins_a :
  (Wt (.supplyGood 3) op (fun _ => true) (fun s t => tget 0 t.pwr.good 3 = 64 ∧
    ((List.range 9).all fun j => j = 3 || tget 0 t.pwr.good j = tget 0 s.pwr.good j) ∧ t = { s with pwr := { s.pwr with good := t.pwr.good } })) ∧
  (Wt .xrstInAssert op (fun _ => true) (fun s t => t.pwr.xrst = true ∧ t = { s with pwr := { s.pwr with xrst := t.pwr.xrst } })) ∧
  (Wt .referenceClockLost op (fun s => s.pwr.phase = .run) (fun s t => t.pwr.fallback = true ∧ t.sca.aligned = false ∧
    Pending 0x14 t ∧ EventsOnly { s with pwr := t.pwr, sca := t.sca } t)) ∧
  (Wt .referenceClockReturn op (fun _ => true) (fun s t => t.pwr.fallback = false ∧
    t = { s with pwr := { s.pwr with fallback := t.pwr.fallback } })) ∧
  (Wt (.nvwpChange true) op (fun _ => true) (fun s t => t.nv.nvwp = true ∧
    t = { s with nv := { s.nv with nvwp := true, nvwpCnt := t.nv.nvwpCnt } })) ∧
  (Wt (.domainPowerUp 8) (pw (fun p => { p with pending := tset 0 p.pending 8 4 })) (fun s => tget 0 s.pwr.pending 8 ≠ 0) (fun s t =>
    t.pwr.domains.testBit 8 = true ∧ tget 0 t.pwr.pending 8 = 0 ∧ ((t.bank 0).powered = true) ∧
       (t.clk, t.evt, t.rails, t.cfg) = (s.clk, s.evt, s.rails, s.cfg))) ∧
  (Wt (.domainPowerUp 9) (pw (fun p => { p with pending := tset 0 p.pending 9 4 })) (fun s => tget 0 s.pwr.pending 9 ≠ 0) (fun s t =>
    t.pwr.domains.testBit 9 = true ∧ tget 0 t.pwr.pending 9 = 0 ∧ ((t.bank 1).powered = true) ∧
       (t.clk, t.evt, t.rails, t.cfg) = (s.clk, s.evt, s.rails, s.cfg))) ∧
  (Wt (.domainPowerUp 11) (pw (fun p => { p with pending := tset 0 p.pending 11 4 })) (fun s => tget 0 s.pwr.pending 11 ≠ 0) (fun s t =>
    t.pwr.domains.testBit 11 = true ∧ tget 0 t.pwr.pending 11 = 0 ∧
       (t.clk, t.evt, t.rails, t.cfg) = (s.clk, s.evt, s.rails, s.cfg))) := by
  refine ⟨?_, ?_, ?_, ?_, ?_, ?_, ?_, ?_⟩ <;> decide +kernel

theorem wit_SupplyPins_b :
  (Wt .xrstInRelease (rl 3 (fun r => { r with st := .hiz, fold := false }) ∘ vio ∘ pw fun p => { p with xrst := true, phase := .run }) (fun s => s.pwr.xrst = true) (fun s t => t.pwr.xrst = false ∧
    (s.pwr.phase = .reset → s.pwr.nextCause = 5 → t.pwr.ready = 64) ∧
    (List.range 96).all fun i => (s.rail i).st = .hiz ∧ s.vioOk i = true ∧ (s.rail i).fold = false →
      (t.rail i).st = (if (s.rail i).hizLate && rcFailOn (s.rcfg i) then .ramping else .off))) ∧
  (Wt .xrstInRelease (pw fun p => { p with xrst := true, phase := .reset, nextCause := 5 }) (fun s => s.pwr.xrst = true) (fun s t => t.pwr.xrst = false ∧
    (s.pwr.phase = .reset → s.pwr.nextCause = 5 → t.pwr.ready = 64) ∧
    (List.range 96).all fun i => (s.rail i).st = .hiz ∧ s.vioOk i = true ∧ (s.rail i).fold = false →
      (t.rail i).st = (if (s.rail i).hizLate && rcFailOn (s.rcfg i) then .ramping else .off))) := by
  refine ⟨?_, ?_⟩ <;> decide +kernel

theorem wit_Boot_a :
  (Wt (.bootBegin { testen := true }) (pw fun p => { p with phase := .reset, porst := false, xrst := false }) (fun s => s.pwr.phase = .reset) (fun s t => t = { s with pwr := { s.pwr with phase := .test } })) ∧
  (Wt (.bootBegin {}) (pw fun p => { p with phase := .reset, porst := true }) (fun s => s.pwr.phase = .reset) (fun s t => t = s)) ∧
  (Wt (.bootBegin { mcand := true }) (pw (fun p => { p with phase := .reset, bootFail := 2, porst := false, xrst := false }) ∘ eg 0 (fun e => { e with halted := false }) ∘ storeNow (.fwState { phase := 0, confBank := true }) ∘ nvw (fun n => { n with intent := none, copies := [], tail := none, flash := [] }))
   (fun s => s.pwr.phase = .reset ∧ fwFound (tailDone s) = some { phase := 0, confBank := true } ∧ intentFound (romScan s) = none)
   (fun s t => t.pwr.phase = .rom ∧ t.pwr.cause = s.pwr.nextCause ∧ t.pwr.since = 0 ∧
      t.pwr.mcand = true ∧ t.fw.runBank = true ∧ t.fw.state = { phase := 0, confBank := true } ∧ (t.eng 0).armed = true)) ∧
  (Wh (.bootBegin { recov := true }) (pw (fun p => { p with phase := .reset, ignoreRecov := false, porst := false, xrst := false })) (fun s => s.pwr.phase = .reset)
  (fun s t => t.pwr.phase = .recovery ∧ t.pwr.cause = s.pwr.nextCause ∧ t.pwr.recov = true)) ∧
  (Wh (.firmwareStart [(0x18, 0x1E000, 3)]) (pw (fun p => { p with phase := .rom, genA := 4 })) (fun s => s.pwr.phase = .rom)
  (fun s t => t.pwr.phase = .waitA ∧ t.pwr.toA = some 128 ∧ (t.nv.armed = true ∨ (t.nv.jobs.any fun j => j.only) = true) ∧
    t.nv.torn = sat 0xFFFF (tornCount (upset (0x18, 0x1E000, 3) s)) ∧ (stateFound (upset (0x18, 0x1E000, 3) s) = none → t.pwr.genA = 0))) ∧
  (Wh .bootActivation (pw (fun p => { p with phase := .waitA })) (fun s => s.pwr.phase = .waitA)
  (fun s t => t.pwr.phase = .run ∧ t.pwr.toA = none ∧ t.seq.domain = .off ∧ t.flt.sysrst = true ∧ t.pwr.bootFail = 0)) ∧
  (Wt .bootOnRequest (pw (fun p => { p with onAtA := true }) ∘ reg 0x4008 2 ∘ pr (fun p => {p with role := 0}) ∘ op) (fun s => s.pwr.onAtA = true ∧ s.role = 2)
  (fun s t => t.pwr.onAtA = false ∧ t.out = .relay { opcode := 1 } :: s.out)) ∧
  (Wt .bootOnRequest (pw (fun p => { p with onAtA := true, cause := 2 }) ∘ reg 0x4008 1 ∘ pr (fun p => {p with role := 0}) ∘ op ∘ fun s => { s with sca := { s.sca with joinStack := some 3 } }) (fun s => s.pwr.onAtA = true ∧ s.role ≠ 2 ∧ s.pwr.cause ≠ 4 ∧ s.shadow = false ∧ joining s = true)
  (fun s t => t.pwr.onAtA = false ∧ t.pwr.heldOn = true)) := by
  refine ⟨?_, ?_, ?_, ?_, ?_, ?_, ?_, ?_⟩ <;> decide +kernel

theorem wit_Boot_b :
  Wt .bootOnRequest (pw (fun p => { p with onAtA := true, cause := 2 }) ∘ nvw (fun n => { n with revertDue := false }) ∘ sq (fun q => { q with domain := .off }) ∘ offw (fun o => { o with run := false, ended := false }) ∘ reg 0x4008 0 ∘ pr (fun p => {p with role := 0}) ∘ op ∘ fun s => { s with sca := { s.sca with joinStack := none, joinPair := none } })
  (fun s => s.pwr.onAtA = true ∧ s.role ≠ 2 ∧ s.pwr.cause ≠ 4 ∧ s.shadow = false ∧ joining s = false ∧ s.seq.domain = .off ∧
      s.off.run = false ∧ s.off.ended = false ∧ revertWaits s = false)
  (fun s t => t.pwr.onAtA = false ∧ t.seq.onset = s.onSet ∧
      (t.seq.domain = .poweringUp ∨ t.seq.domain = .up ∨ t.seq.domain = .partialUp)) := by decide +kernel

theorem wit_BarActions_a :
  (Wt .lockAutoOpen (hs (fun h => { h with lock := 0, linkUp := true }) ∘ op) (fun s => s.pwr.phase = .run ∧ s.hst.lock = 0 ∧ s.hst.linkUp = true)
  (fun s t => t.hst.lock = 1 ∧ t.jrn.next = s.jrn.next + 1)) ∧
  (Wt (.glbLockWrite 0xA501 0) (hs (fun h => { h with lock := 2 })) (fun s => s.hst.lock = 2) (fun s t => t.hst.lock = 1 ∧ t.jrn.head = s.nextSeq ∧ t.cfg = s.cfg ∧ t.bar0 = s.bar0)) ∧
  (Wt (.glbLockWrite 0xA500 0) (hs (fun h => { h with lock := 1 })) (fun s => s.hst.lock = 1) (fun s t => t.hst.lock = 2 ∧ t.jrn.head = s.nextSeq ∧ t.cfg = s.cfg ∧ t.bar0 = s.bar0)) ∧
  (Wt (.glbLockWrite 0xA501 0) (hs (fun h => { h with lock := 0 })) (fun s => s.hst.lock = 0) (fun s t => t = s)) ∧
  (Wt (.glbLockWrite 0 0) (hs (fun h => { h with lock := 2 })) (fun s => s.hst.lock = 2) (fun s t => t = s)) ∧
  (Wt (.glbLockWrite 0x1 0) id (fun _ => true) (fun s t => t = s)) ∧
  (Wt (.seqCtrlAbort 3) id (fun _ => true) (fun s t => t.jrn.head = s.nextSeq ∧ t.hst.decided.dropLast = s.hst.decided ∧ t.seq = s.seq ∧
    t.hst.decided.getLast?.any fun l => l.seq = s.nextSeq ∧ l.d.opcode = 0x81 ∧ l.d.arg 15 0 = 0)) ∧
  (Wt (.fltCtrlFfClear 1) id (fun _ => true) (fun s t => t.jrn.head = s.nextSeq ∧ t.hst.decided.dropLast = s.hst.decided ∧ t.flt = s.flt ∧
    t.hst.decided.getLast?.any fun l => l.seq = s.nextSeq ∧ l.d.opcode = 0x81 ∧ l.d.arg 15 0 = 1)) := by
  refine ⟨?_, ?_, ?_, ?_, ?_, ?_, ?_, ?_⟩ <;> decide +kernel

theorem wit_BarActions_b :
  (Wt (.fltCtrlSysrstRel 2) id (fun _ => true) (fun s t => t.jrn.head = s.nextSeq ∧ t.hst.decided.dropLast = s.hst.decided ∧ t.flt = s.flt ∧
    t.hst.decided.getLast?.any fun l => l.seq = s.nextSeq ∧ l.d.opcode = 0x81 ∧ l.d.arg 15 0 = 2)) ∧
  (Wt (.stgLoadCommit 3 1) id (fun _ => true) (fun s t => (t.stg 3).pending = true ∧ t.coef = s.coef ∧ oStg 3 s t ∧ t.jrn.head = s.nextSeq ∧ t.hst.decided.dropLast = s.hst.decided ∧ 
    t.hst.decided.getLast?.any fun l => l.seq = s.nextSeq ∧ l.d.opcode = 0x81 ∧ l.d.arg 15 0 = 7)) ∧
  (Wt (.glbLoadClear 7 0x80000000) id (fun _ => true) (fun s t => (t.eng 7).clear = true ∧ ((List.range 7).all fun j => t.eng j = s.eng j) ∧ t = { s with engs := t.engs })) ∧
  (Wt (.seqCtrlAbort 0) id (fun _ => true) (fun s t => t = s ∧ after (.fltCtrlFfClear 0) s = s ∧ after (.fltCtrlSysrstRel 0) s = s ∧ after (.stgLoadCommit 0 0) s = s ∧ after (.glbLoadClear 0 0) s = s)) := by
  refine ⟨?_, ?_, ?_, ?_⟩ <;> decide +kernel

theorem wit_WatchdogExpiry :
  (Wt (.watchdogExpiry 7) (fww (fun f => { f with state := { f.state with phase := 0 } }) ∘ eg 7 (fun e => { e with armed := true }) ∘ pw fun p => { p with phase := .rom }) (fun s => (s.eng 7).armed = true ∧ s.pwr.phase = .rom ∧ s.fw.state.phase ≠ 2)
  (fun s t => resetOf 6 s t ∧ t.pwr.bootFail = sat 3 (s.pwr.bootFail + 1))) ∧
  (Wt (.watchdogExpiry 3) (eg 3 (fun e => { e with armed := true }) ∘ op) (fun s => (s.eng 3).armed = true ∧ s.pwr.phase = .run)
  (fun s t => t.flt.wdtRun = true ∧ t.flt.wdtExp = sat 255 (s.flt.wdtExp + 1) ∧ t.flt.sysrst = true ∧ t.off.run = true ∧
      t.off.full = true ∧ Pending 0x2A t)) := by
  refine ⟨?_, ?_⟩ <;> decide +kernel

theorem wit_StageFaultsAndHiccup_a :
  (Wt (.kindlingStartTimeout 3) (sgw 3 (fun x => { x with st := .kindling, preset := true }) ∘ noStg ∘ op) (fun s => (s.stg 3).st = .kindling ∧ (s.stg 3).preset = true) (fun _ t => SafeOffBy 3 11 t)) ∧
  (Wt (.senseOpen 0 [0, 500]) (reg (sbase 0) 0x201 ∘ sgw 0 (fun x => { x with st := .hiccup, legs := [(0, false), (0, true)] }) ∘ noStg ∘ op) (fun s => s.cb (sbase 0) 9 = true ∧ (s.stg 0).st.faultable = true ∧ NoStageFound s) (fun _ t => SafeOffBy 0 1 t)) ∧
  (Wt (.frozen 1) (sgw 1 (fun x => { x with st := .regulated, switching := true }) ∘ noStg ∘ op) (fun s => (s.stg 1).switching = true ∧ (s.stg 1).st.faultable = true ∧ NoStageFound s) (fun _ t => SafeOffBy 1 2 t)) ∧
  (Wt (.nofb 2) (sgw 2 (fun x => { x with st := .moving }) ∘ noStg ∘ op) (fun s => (s.stg 2).st.running = true ∧ (s.stg 2).st ≠ .kindling ∧ NoStageFound s) (fun _ t => SafeOffBy 2 3 t)) ∧
  (Wt (.nofb 2) (sgw 2 (fun x => { x with st := .kindling, switching := true }) ∘ noStg ∘ op) (fun s => (s.stg 2).st.running = true ∧ NoStageFound s) (fun _ t => SafeOffBy 2 3 t)) ∧
  (Wt (.stageOv 3) (reg (sbase 3 + 0x10) 0x1 ∘ sgw 3 (fun x => { x with st := .capped }) ∘ noStg ∘ op) (fun s => s.sfld 3 0x10 11 0 ≠ 0 ∧ (s.stg 3).st.running = true ∧ NoStageFound s) (fun _ t => SafeOffBy 3 4 t)) ∧
  (Wt (.stageUv 3) (reg (sbase 3 + 0x10) 0x1000 ∘ sgw 3 (fun x => { x with st := .capped }) ∘ noStg ∘ op) (fun s => s.sfld 3 0x10 23 12 ≠ 0 ∧ (s.stg 3).st.isReg = true ∧ NoStageFound s) (fun _ t => SafeOffBy 3 5 t)) ∧
  (Wt (.overrunSafeOff 0) (sgw 0 (fun x => { x with st := .hiccup }) ∘ op) (fun s => (s.stg 0).st.faultable = true) (fun _ t => SafeOffBy 0 8 t)) := by
  refine ⟨?_, ?_, ?_, ?_, ?_, ?_, ?_, ?_⟩ <;> decide +kernel

theorem wit_StageFaultsAndHiccup_b :
  (Wt (.hiccupEntry 0) (reg (sbase 0 + 0x18) 0x10000 ∘ sgw 0 (fun x => { x with st := .regulated, consecHic := 1 }) ∘ noStg ∘ op) (fun s => (s.stg 0).st.running = true ∧ s.sfld 0 0x18 23 16 ≠ 0 ∧ s.sfld 0 0x18 23 16 ≤ (s.stg 0).consecHic ∧ NoStageFound s) (fun _ t => SafeOffBy 0 6 t)) ∧
  (Wt (.hiccupEntry 3) (reg (sbase 3 + 0x18) 0x20005 ∘ sgw 3 (fun x => { x with st := .regulated, consecHic := 1 }) ∘ noStg ∘ noFlt ∘ op) (fun s => (s.stg 3).st.running = true ∧ (s.sfld 3 0x18 23 16 = 0 ∨ (s.stg 3).consecHic < s.sfld 3 0x18 23 16) ∧
      NoStageFound s ∧ s.flt.found = []) (fun s t => (t.stg 3).st = .hiccup ∧ (t.stg 3).switching = false ∧
      (t.stg 3).hicLeft = orDef (s.sfld 3 0x18 15 0) 1 ∧ (t.stg 3).consecHic = sat 255 ((s.stg 3).consecHic + 1) ∧
      (t.stg 3).hiccups = sat 0xFFFF ((s.stg 3).hiccups + 1) ∧ Pending (0x81 + 8 * 3) t ∧
      oStg 3 s t ∧ t.rails = s.rails)) ∧
  (Wt (.hiccupExpiry 3) (sgw 3 (fun x => { x with st := .hiccup })) (fun s => (s.stg 3).st = .hiccup) (fun s t => 
    (t.stg 3).st = .kindling ∧ (t.stg 3).preset = true ∧ (t.stg 3).switching = false ∧
      ((List.range 8).all fun k => (t.phase (24 + k)).trim = 0 ∧ (t.phase (24 + k)).limcnt = 0) ∧
      oStg 3 s t ∧ t = { s with stgs := t.stgs, phases := t.phases })) ∧
  (Wt (.cycleLimitTrip 25 true) (reg (sbase 3) 0xF ∘ sgw 3 (fun x => { x with st := .regulated, switching := true, dropped := 0 })) (fun s => (s.stg 3).switching = true ∧ (s.healthy 3).contains 1 = true)
 (fun s t => (t.phase 25).limcnt = sat 255 ((s.phase 25).limcnt + 1) ∧
      (orDef (s.sfld 3 0x14 25 18) 1 ≤ (t.phase 25).limcnt → (t.stg 3).hicFound = true) ∧
      ((List.range 32).all fun j => j = 25 || t.phase j = s.phase j) ∧ t = { s with stgs := t.stgs, phases := t.phases })) ∧
  (Wt (.cycleLimitTrip 25 false) (reg (sbase 3) 0xF ∘ sgw 3 (fun x => { x with st := .regulated, switching := true, dropped := 0 })) (fun s => (s.stg 3).switching = true ∧ (s.healthy 3).contains 1 = true)
 (fun s t => (t.phase 25).limcnt = 1 ∧
      (orDef (s.sfld 3 0x14 25 18) 1 ≤ (t.phase 25).limcnt → (t.stg 3).hicFound = true) ∧
      ((List.range 32).all fun j => j = 25 || t.phase j = s.phase j) ∧ t = { s with stgs := t.stgs, phases := t.phases })) ∧
  (Wt (.consecHicHeal 0) (reg (sbase 0 + 0x0C) 0x500000 ∘ sgw 0 (fun x => { x with st := .capped, consecHic := 4 })) (fun s => (s.stg 0).st.isReg = true ∧ s.sfld 0 0x0C 27 20 ≠ 0) (fun s t => (t.stg 0).consecHic = 0 ∧ s.sfld 0 0x0C 27 20 ≤ (t.stg 0).regTicks ∧ (t.stg 0).st = (s.stg 0).st ∧
      oStg 0 s t ∧ t = { s with stgs := t.stgs })) := by
  refine ⟨?_, ?_, ?_, ?_, ?_, ?_⟩ <;> decide +kernel

theorem wit_StageProgress :
  (Wt (.stageRegulated 2) (sgw 2 (fun x => { x with st := .moving, target := 4 }) ∘ op) (fun s => ((s.stg 2).st = .kindling ∨ (s.stg 2).st = .moving) ∧ (s.stg 2).target ≠ 0) (fun s t => (t.stg 2).st = .regulated ∧ (t.stg 2).waiters = [] ∧
      (t.stg 2).floored = false ∧ oStg 2 s t ∧ t.rails = s.rails)) ∧
  (Wt (.capFloor 2) (sgw 2 (fun x => { x with st := .capped, floorTold := false }) ∘ op) (fun s => (s.stg 2).st = .capped ∧ (s.stg 2).floorTold = false) (fun s t => (t.stg 2).floored = true ∧ (t.stg 2).floorTold = true ∧ (t.stg 2).st = .capped ∧ Pending (0x84 + 8 * 2) t ∧
      oStg 2 s t ∧ EventsOnly { s with stgs := t.stgs } t)) ∧
  (Wt (.stageRetryBackoff 2) (sgw 2 (fun x => { x with st := .safeOff, backoff := some 4 }) ∘ op) (fun s => (s.stg 2).st = .safeOff ∧ (s.stg 2).backoff = some 4) (fun s t => (t.stg 2).retry = some { since := s.clk.frame } ∧ (t.stg 2).backoff = none ∧ (t.stg 2).st = .safeOff ∧
      oStg 2 s t ∧ t = { s with stgs := t.stgs })) ∧
  (Wt (.stageRetryCntHeal 2) (sgw 2 (fun x => { x with st := .regulated, retryCnt := 4 }) ∘ op) (fun s => (s.stg 2).st.isReg = true) (fun s t => (t.stg 2).retryCnt = 0 ∧ (t.stg 2).st = (s.stg 2).st ∧ oStg 2 s t ∧ t = { s with stgs := t.stgs })) := by
  refine ⟨?_, ?_, ?_, ?_⟩ <;> decide +kernel

theorem wit_StageTasks :
  (Wt (.stageControlTask 1 200) (reg (sbase 1) 1 ∘ sgw 1 (fun x => { x with st := .regulated, preset := false, lastTs := some (({} : Ent).seen.ts) }) ∘ eng 5 9) (fun s => TaskReady 5 0 200 s ∧ (s.stg 1).st.running = true ∧ (s.stg 1).preset = false ∧ freshOut s 1 = false)
 (fun s t => TaskRan 5 0 200 s t ∧ (t.stg 1).staged = some { u := (s.stg 1).u } ∧ (t.stg 1).st = (s.stg 1).st ∧ oStg 1 s t)) ∧
  (Wh (.stageControlTask 1 200) (reg (sbase 1) 1 ∘ sgw 1 (fun x => { x with st := .regulated, preset := false, lastTs := none }) ∘ eng 5 9 ∘ fun s => { s with cnv := { s.cnv with cores := tset {} s.cnv.cores 2 { powered := true, ents := [(0, { seen := { valid := true, code := 900, ts := { frame := 5 } } })] } } }) (fun s => TaskReady 5 0 200 s ∧ (s.stg 1).st.running = true ∧ (s.stg 1).preset = false ∧ freshOut s 1 = true)
 (fun s t => TaskRan 5 0 200 s t ∧ (t.stg 1).staged.isSome = true ∧
      (t.stg 1).lastTs = some (s.outEnt 1).seen.ts ∧ (t.stg 1).st = (s.stg 1).st ∧ oStg 1 s t)) ∧
  (Wt (.phaseDiagnosticsTask 0 80) (did 4 1 ∘ reg (sbase 0) 0x100F ∘ reg (sbase 0 + 8) 0 ∘ sgw 0 (fun x => { x with st := .regulated, dropped := 0, drops := [], lowCnt := [(2, 64)] }) ∘ eng 4 56) (fun s => TaskReady 4 1 80 s ∧ (s.stg 0).st.isReg = true ∧ s.cb (sbase 0 + 8) 8 = false ∧
      ((s.healthy 0).filter fun k => 64 ≤ tget 0 (s.stg 0).lowCnt k) = [2] ∧
      orDef (s.sfld 0 0 15 12) 1 ≤ (s.healthy 0).length - (s.stg 0).drops.length - 1)
   (fun s t => TaskRan 4 1 80 s t ∧
      (t.stg 0).drops = (s.stg 0).drops ++ [(2, 1)] ∧ (t.stg 0).st = (s.stg 0).st ∧ oStg 0 s t)) := by
  refine ⟨?_, ?_, ?_⟩ <;> decide +kernel

theorem wit_InputLoss :
  (Wt .inputLossDeclared (fun s => { s with inl := { s.inl with loss := false } }) (fun s => s.inl.loss = false) (fun s t => t.inl.loss = true ∧ t.inl.fromRects = !s.busUsed ∧
    Pending 0x49 t ∧ EventsOnly { s with inl := t.inl } t)) ∧
  (Wt .inputRestored (fun s => { s with inl := { s.inl with loss := true, shed := false } }) (fun s => s.inl.loss = true ∧ s.inl.shed = false) (fun s t => t.inl.loss = false ∧
    t.inl.owed = false ∧ Pending 0x4B t ∧ EventsOnly { s with inl := t.inl } t)) ∧
  (Wt .shedComparatorTrip (sq (fun q => { q with domain := .up }) ∘ offw (fun o => { o with run := false }) ∘ op ∘ fun s => { s with inl := { s.inl with ready := false } }) (fun s => (s.inl.loss && s.inl.ready) = false ∧ s.seq.domain ≠ .off ∧ s.off.run = false) (fun s t => 
    t.off.run = true ∧ t.off.full = true ∧ t.off.src = 2 ∧ t.inl.shed = true ∧ Pending 0x4A t)) ∧
  (Wt .batteryNotReadyOff (sq (fun q => { q with domain := .partialUp }) ∘ offw (fun o => { o with run := false }) ∘ op ∘ fun s => { s with inl := { s.inl with loss := true } }) (fun s => s.inl.loss = true ∧ s.seq.domain ≠ .off ∧ s.off.run = false) (fun s t => 
    t.off.run = true ∧ t.off.full = true ∧ t.off.src = 2 ∧ t.inl.owed = false ∧ t.inl.ready = false ∧ Pending 0x4A t)) ∧
  (Wt .batteryPoll (reg 0x6440 0x1C0001B7 ∘ op) (fun s => bit (s.cw 0x6440) 26 = true) (fun s t =>
    ((tget [] t.pmb (fld (s.cw 0x6440) 1 0)).dropLast = tget [] s.pmb (fld (s.cw 0x6440) 1 0) ∧ (tget [] t.pmb (fld (s.cw 0x6440) 1 0)).getLast?.any fun j => j.use = .battery ∧
      j.addr = fld (s.cw 0x6440) 8 2) ∧ t.inl.next = orDef (fld (s.cw 0x6440) 31 27) 1 ∧
      t = { s with pmb := t.pmb, inl := { s.inl with next := t.inl.next } })) := by
  refine ⟨?_, ?_, ?_, ?_, ?_⟩ <;> decide +kernel

theorem wit_PmbusAndMargins :
  (Wt (.pmbusTransactionDone 2 (.data 300)) (fun s => { s with pmb := tset [] s.pmb 2 ({ use := .watcher 31, addr := 5, ops := [.readByte 0x7A], sent := true } :: tget [] s.pmb 2) }) (fun s => (tget [] s.pmb 2).head? = some { use := .watcher 31, addr := 5, ops := [.readByte 0x7A], sent := true })
 (fun s t => tget [] t.pmb 2 = (tget [] s.pmb 2).tail ∧ (t.watch 31).value = 300 % 256 ∧
      (t.watch 31).valid = true ∧ (t.watch 31).stale = false ∧ ((List.range 31).all fun k => t.watch k = s.watch k) ∧
      t = { s with pmb := t.pmb, watches := t.watches })) ∧
  (Wt (.pmbusSclTimeout 3) (fun s => { s with pmb := tset [] s.pmb 3 ({ use := .battery, ops := [.page 1, .send 3], sent := true, tries := 1 } :: tget [] s.pmb 3) }) (fun s => (tget [] s.pmb 3).head? = some { use := .battery, ops := [.page 1, .send 3], sent := true, tries := 1 })
  (fun s t => tget [] t.pmb 3 = { use := .battery, ops := [.page 1, .send 3], sent := false, tries := 2 } :: (tget [] s.pmb 3).tail ∧ t = { s with pmb := t.pmb })) ∧
  (Wt (.pmbusWatcherPoll 31) (reg (0x4300 + 8 * 31) 0x040001B6) (fun s => fld (s.cw (0x4300 + 8 * 31)) 30 25 ≠ 0) (fun s t =>
    ((tget [] t.pmb (fld (s.cw (0x4300 + 8 * 31)) 1 0)).dropLast = tget [] s.pmb (fld (s.cw (0x4300 + 8 * 31)) 1 0) ∧ (tget [] t.pmb (fld (s.cw (0x4300 + 8 * 31)) 1 0)).getLast?.any fun j =>
      j.use = .watcher 31 ∧ j.addr = fld (s.cw (0x4300 + 8 * 31)) 8 2) ∧
      (t.watch 31).next = fld (s.cw (0x4300 + 8 * 31)) 30 25 ∧ ((List.range 31).all fun k => t.watch k = s.watch k) ∧
      t = { s with pmb := t.pmb, watches := t.watches })) ∧
  (Wt (.pmbusService 150) (did 2 1 ∘ (fun s => { s with pmb := tset [] s.pmb 3 ({ use := .battery, addr := 9, ops := [.page 1, .send 3], sent := false } :: tget [] s.pmb 3) }) ∘ eng 2 3) (fun s => TaskReady 2 1 150 s ∧ (tget [] s.pmb 3).head? = some { use := .battery, addr := 9, ops := [.page 1, .send 3], sent := false })
  (fun s t => TaskRan 2 1 150 s t ∧ tget [] t.pmb 3 = { use := .battery, addr := 9, ops := [.page 1, .send 3], sent := true } :: (tget [] s.pmb 3).tail ∧
      t.out.contains (.pmbus 3 9 false (.page 1)))) ∧
  (Wt (.marginSettleExpiry 4) (solo ∘ sq (fun q => { q with margins := [{ rail := 4, phase := .settle 9 }] }) ∘ op) (fun s => s.grail 4 = 4)
  (fun s t => t.seq.margins = [{ rail := 4, phase := .average 32 0 0 }] ∧ t = { s with seq := { s.seq with margins := t.seq.margins } })) ∧
  (Wt (.marginVerifyDone 4) (solo ∘ sq (fun q => { q with margins := [{ rail := 4, phase := .average 0 8 2005, vexp := 1000, tol := 10 }] }) ∘ op) (fun s => s.grail 4 = 4 ∧ ((4 : Int) * 2005 - ((8 * 1000 : Nat) : Int)).natAbs ≤ 8 * 10)
  (fun s t => t.seq.margins = [] ∧ t.rails = s.rails ∧ t.evt = s.evt)) ∧
  (Wt (.marginVerifyDone 4) (solo ∘ sq (fun q => { q with margins := [{ rail := 4, phase := .average 0 8 2005, vexp := 1000, tol := 2 }] }) ∘ op) (fun s => s.grail 4 = 4 ∧ 8 * 2 < ((4 : Int) * 2005 - ((8 * 1000 : Nat) : Int)).natAbs)
  (fun s t => t.seq.margins = [] ∧ (t.rail 4).margin = 0 ∧ Pending 0x33 t)) := by
  refine ⟨?_, ?_, ?_, ?_, ?_, ?_, ?_⟩ <;> decide +kernel

theorem wit_Damper :
  (Wt (.damperCapChange 200) (reg 0x6100 1 ∘ eng 2 5 ∘ fun s => { s with dmp := { s.dmp with capAt := 1000, lastCap := 900 } }) (fun s => TaskReady 2 0 200 s ∧ s.dmp.capAt ≠ s.dmp.lastCap ∧ s.cb 0x6100 0 = true)
 (fun s t => TaskRan 2 0 200 s t ∧ t.dmp.lastCap = s.dmp.capAt ∧ t.dmp.capNew = true ∧
      t.dmp.staged = some ((lowestLevel s s.dmp.capAt).getD 7) ∧ (lowestLevel s s.dmp.capAt = none → Pending 0x45 t))) ∧
  (Wt (.damperRaise 200) (eng 2 5 ∘ fun s => { s with dmp := { s.dmp with level := 6, staged := none } }) (fun s => TaskReady 2 0 200 s ∧ s.dmpLevel < 7)
 (fun s t => TaskRan 2 0 200 s t ∧ t.dmp.staged = some (s.dmpLevel + 1) ∧ t.dmp.above = 0)) ∧
  (Wt (.damperRelax 251) (eng 2 5 ∘ fun s => { s with dmp := { s.dmp with level := 6, staged := some 7 } }) (fun s => TaskReady 2 0 251 s ∧ mayFall s = true)
 (fun s t => TaskRan 2 0 251 s t ∧ t.dmp.staged = some (s.dmpLevel - 1) ∧ t.dmp.below = 0)) ∧
  (Wt (.damperTask 251) (reg 0x6100 0 ∘ reg 0x640C 4000 ∘ reg 0x6400 0 ∘ reg (entReg 0 0) 0x400 ∘ eng 2 5 ∘ fun s => { s with dmp := { s.dmp with capAt := 5, lastCap := 5, level := 0, staged := none } }) (fun s => TaskReady 2 0 251 s ∧ s.dmp.capAt = s.dmp.lastCap ∧ s.cb 0x6100 0 = false ∧ s.dmpLevel = 0 ∧ 
      s.cf 0x640C 15 0 ≠ 0)
 (fun s t => TaskRan 2 0 251 s t ∧ t.dmp = s.dmp ∧ t.inl.shedV = shedVolt s (shedEnergy s) ∧
      (s.busUsed = true → t.inl.armed = true ∧ t.inl.code = shedCode s (100 * shedVolt s (shedEnergy s))))) ∧
  (Wt (.sharingRound 99) (did 2 7 ∘ reg 0x6300 0x7 ∘ eng 2 40) (fun s => TaskReady 2 3 99 s ∧ s.cb 0x6300 0 = true)
 (fun s t => TaskRan 2 3 99 s t ∧ t.shr.left = orDef (s.cf 0x6300 8 1) 1)) ∧
  (Wt .damperJudgement (fun s => { s with dmp := { s.dmp with judge := some 4, lastCap := 100 }, drt := { s.drt with pHist := [90, 120] } }) (fun s => s.dmp.judge = some 4)
 (fun s t => t.dmp.judge = none ∧ t.dmp.level = s.dmp.level ∧
    (s.dmp.lastCap * min 32 s.drt.pHist.length < powerSum s 32 → t.dmp.miss = true ∧ Pending 0x44 t) ∧
    (powerSum s 32 ≤ s.dmp.lastCap * min 32 s.drt.pHist.length → t.dmp.miss = s.dmp.miss ∧ t.evt = s.evt))) ∧
  (Wt .damperJudgement (fun s => { s with dmp := { s.dmp with judge := some 4, lastCap := 105 }, drt := { s.drt with pHist := [90, 120] } }) (fun s => s.dmp.judge = some 4)
 (fun s t => t.dmp.judge = none ∧ t.dmp.level = s.dmp.level ∧
    (s.dmp.lastCap * min 32 s.drt.pHist.length < powerSum s 32 → t.dmp.miss = true ∧ Pending 0x44 t) ∧
    (powerSum s 32 ≤ s.dmp.lastCap * min 32 s.drt.pHist.length → t.dmp.miss = s.dmp.miss ∧ t.evt = s.evt))) := by
  refine ⟨?_, ?_, ?_, ?_, ?_, ?_, ?_⟩ <;> decide +kernel

theorem wit_LedgerAndFaultPolicyTasks :
  (Wt (.ledgerPass 400) (did 1 1 ∘ lat 100 200 300 ∘ eng 1 32) (fun s => TaskReady 1 1 400 s ∧ s.drt.latched = some (100, 200, 300)) (fun s t => TaskRan 1 1 400 s t ∧
    t.drt.latched = none ∧ t.drt.inrush ≤ 100 ∧ t.drt.power ≤ 200 ∧ t.drt.thermal ≤ 300 ∧
      t.drt.tick = s.tickNo % 2 ^ 32)) ∧
  (Wt (.ledgerPass 400) (did 1 1 ∘ lat 100 200 300 ∘ noAsk ∘ reg 0x7000 0 ∘ eng 1 32) (fun s => TaskReady 1 1 400 s ∧ passCands { s with drt := { s.drt with latched := none, bg := 0 } } = [] ∧ (List.range 8).all fun n => bgWork s n = false) (fun s t => t.drt.inrush = 100 ∧ t.drt.power = 200 ∧ t.drt.thermal = 300 ∧ t.drt.bg = 0 ∧
      t.drt.commits = s.drt.commits ∧ t.drt.debt = s.drt.debt ∧ t.drt.log = s.drt.log)) ∧
  (Wh (.ledgerPass 400) (did 1 1 ∘ rl 95 (fun _ => { st := .faulted, fig := { inrush := 100, steady := 30 }, retry := some {}, offTicks := 4095 }) ∘ offw (fun o => { o with run := false }) ∘ sq (fun q => { q with onTable := [], preds := [95] }) ∘ fl (fun f => { f with wdtHold := false }) ∘ reg 0x6000 0x01000064 ∘ solo ∘ lat 100 200 300 ∘ noAsk ∘ reg 0x7000 0 ∘ eng 1 32)
  (fun s => TaskReady 1 1 400 s ∧ (match passCands { s with drt := { s.drt with latched := none, bg := 0 } } with
    | [c] => decide (c.inrush ≤ 100 ∧ c.inrush ≤ s.cf 0x6000 11 0 ∧ c.steady ≤ 200 ∧ thermCost s c.steady ≤ 300)
    | _ => false : Bool) ∧ (List.range 8).all fun n => bgWork s n = false)
  (fun s t => match passCands { s with drt := { s.drt with latched := none, bg := 0 } } with
    | [c] => decide (t.drt.inrush = 100 - c.inrush ∧ t.drt.power = 200 - c.steady ∧
      t.drt.thermal = 300 - thermCost s c.steady ∧ t.drt.debt = sat 0xFFFF s.drt.debt ∧
      (c.steady ≠ 0 → ({ key := c.commit, power := c.steady, thermal := thermCost s c.steady } : Commit) ∈ t.drt.commits))
    | _ => false)) ∧
  (Wt (.faultPolicy 150) (did 1 3 ∘ fl (fun f => { f with qlostNew := true, ff := some { told := false }, queue := [{ rail := 5, kind := 3, react := 1 }, { rail := 6, kind := 0 }, { rail := 95, kind := 4 }] }) ∘ eng 1 7) (fun s => TaskReady 1 2 150 s)
  (fun s t => TaskRan 1 2 150 s t ∧ t.flt.queue = s.flt.queue.drop 2 ∧ t.flt.qlostNew = false ∧ (s.flt.qlostNew = true → Pending 0x2D t) ∧
    (match s.flt.ff with | some f => decide (t.flt.ff = some { f with ledgerValid := true, told := true } ∧
      (f.told = false → Pending 0x27 t)) | none => t.flt.ff.isNone : Bool) ∧ (match s.flt.queue with | f :: _ => decide (Pending (kindEvent f.kind) t) | _ => true : Bool) ∧
    (List.range 96).all fun i => (t.rail i).st = (s.rail i).st ∧ (t.rail i).en = (s.rail i).en)) ∧
  (Wt (.faultPolicy 150) (did 1 3 ∘ eng 1 7) (fun s => TaskReady 1 2 150 s)
  (fun s t => TaskRan 1 2 150 s t ∧ t.flt.queue = s.flt.queue.drop 2 ∧ t.flt.qlostNew = false ∧ (s.flt.qlostNew = true → Pending 0x2D t) ∧
    (match s.flt.ff with | some f => decide (t.flt.ff = some { f with ledgerValid := true, told := true } ∧
      (f.told = false → Pending 0x27 t)) | none => t.flt.ff.isNone : Bool) ∧ (match s.flt.queue with | f :: _ => decide (Pending (kindEvent f.kind) t) | _ => true : Bool) ∧
    (List.range 96).all fun i => (t.rail i).st = (s.rail i).st ∧ (t.rail i).en = (s.rail i).en)) := by
  refine ⟨?_, ?_, ?_, ?_, ?_⟩ <;> decide +kernel

theorem wit_Telemetry :
  (Wt (.converterPostProcessing (90, [(3, 3, 1999)])) (eng 3 7) (fun s => TaskReady 3 0 90 s) (fun s t => TaskRan 3 0 90 s t ∧ t.cnv.prev = [])) ∧
  (Wt (.converterPostProcessing (90, [])) ((fun s => { s with cnv := { s.cnv with prev := [{ core := 3, entry := 63 }], staged := [{}] } }) ∘ reg (entReg 3 63) 0x400000 ∘ eng 3 7) (fun s => TaskReady 3 0 90 s ∧ bit (s.ent 3 63) 22 = true ∧
      2 ^ fld (s.ent 3 63) 25 23 ≤ (s.entry 3 63).dec + 1 ∧ s.cnv.staged.length < telRoom) (fun s t => t.cnv.staged = s.cnv.staged ++ [{ core := 3, entry := 63 }] ∧
      (t.entry 3 63).dec = 0 ∧ t.cnv.lost = s.cnv.lost)) ∧
  (Wt (.converterPostProcessing (90, [])) ((fun s => { s with cnv := { s.cnv with prev := [{ core := 3, entry := 63 }], staged := List.replicate telRoom {}, lostTick := false } }) ∘ reg (entReg 3 63) 0x400000 ∘ eng 3 7) (fun s => TaskReady 3 0 90 s ∧ bit (s.ent 3 63) 22 = true ∧
      2 ^ fld (s.ent 3 63) 25 23 ≤ (s.entry 3 63).dec + 1 ∧ telRoom ≤ s.cnv.staged.length ∧ s.cnv.lostTick = false) (fun s t => t.cnv.staged = s.cnv.staged ∧
      t.cnv.lost = sat 0xFFFF (s.cnv.lost + 1) ∧ t.cnv.lostTick = true ∧ Pending 0x78 t)) ∧
  (Wt (.converterPostProcessing (90, [(3, 3, 1999)])) ((fun s => s.modCore 3 fun c => { c with powered := true, lp := false }) ∘ reg 0x72A0 0x100 ∘ eng 3 7) (fun s => TaskReady 3 0 90 s ∧ bit (s.urgReg 3 3) 8 = true ∧ (s.core 3).powered = true ∧ (s.core 3).lp = false) (fun s t => (t.urg 3 3).busy = true)) ∧
  (Wt (.telemetryPosting 90) (did 3 1 ∘ (fun s => { s with cnv := { s.cnv with staged := [{ core := 3, entry := 63 }] } }) ∘ hs (fun h => { h with bme := true, linkUp := true }) ∘ (fun s => s.modRing 17 fun r => { r with halt := false, own := 1, peer := 0 }) ∘ reg (ringReg 17 + 8) 0x13 ∘ reg 0x7020 4 ∘ eng 3 7)
  (fun s => TaskReady 3 1 90 s ∧ ringLive s 17 = true ∧ ringRoom s 17 ≠ 0 ∧ telQuota s ≠ 0)
  (fun s t => TaskRan 3 1 90 s t ∧ t.cnv.staged = [] ∧
      t.out = .entry 17 (s.ring 17).own (telEntry [{ core := 3, entry := 63 }]) :: s.out ∧
      (t.ring 17).own = ((s.ring 17).own + 1) % 2 ^ s.cf (ringReg 17 + 8) 4 1)) ∧
  (Wt (.telemetryPosting 90) (did 3 1 ∘ (fun s => { s with cnv := { s.cnv with staged := [] } }) ∘ eng 3 7)
  (fun s => TaskReady 3 1 90 s ∧ (s.cnv.staged = [] ∨ ringLive s 17 = false))
  (fun s t => TaskRan 3 1 90 s t ∧ t.cnv = s.cnv ∧ t.out = s.out)) := by
  refine ⟨?_, ?_, ?_, ?_, ?_, ?_⟩ <;> decide +kernel

theorem wit_SnapshotServiceRowAndOverrun :
  (Wt (.emberSnapshot 90) (did 3 3 ∘ eng 3 16) (fun s => TaskReady 3 2 90 s) (fun s t => TaskRan 3 2 90 s t ∧
    t.pwr.stage.snaps = (snapWords s :: s.pwr.stage.snaps).take 4 ∧ t.pwr.stage.deltas = (deltaList s).take 48 ∧
      t.pwr.stage.overflow = decide (48 < (deltaList s).length) ∧ EventsOnly { s with engs := t.engs, pwr := t.pwr } t)) ∧
  (Wt (.sequencerService 201) (eng 1 16) (fun s => TaskReady 1 0 201 s) (fun s t => TaskRan 1 0 201 s t ∧ EventsOnly { s with engs := t.engs } t)) ∧
  (Wt (.rowExchange 80) (did 2 3 ∘ (fun s => { s with sca := { s.sca with member := false, isMaster := false } }) ∘ eng 2 9) (fun s => TaskReady 2 2 80 s ∧ s.sca.member = false ∧ s.sca.isMaster = false)
  (fun s t => TaskRan 2 2 80 s t ∧ EventsOnly { s with engs := t.engs } t)) ∧
  (Wt (.taskOverrun 2 1) (did 2 1 ∘ eng 2 8) (fun s => taskStarts s 2 1 = true) (fun s t => (t.eng 2).ran.testBit 1 = true ∧
    (t.eng 2).overSet.testBit 1 = true ∧ (t.eng 2).peakUsed = 1023 ∧
    ((List.range 5).all fun j => 1 < j ∧ taskDue s 2 j = true → (t.eng 2).skipSet.testBit j = true ∧ (t.eng 2).overSet.testBit j = true) ∧
    ((List.range 8).all fun j => j = 2 || t.eng j = s.eng j) ∧ t = { s with engs := t.engs })) := by
  refine ⟨?_, ?_, ?_, ?_⟩ <;> decide +kernel

theorem wit_RingTasks :
  (Wt (.ringService 200) (bell 7 { opcode := 0, tag := 9 } ∘ reg (ringReg 7 + 8) 0x13 ∘ reg (ringReg 15 + 8) 0x1F ∘ (fun s => (s.modRing 15 fun r => { r with halt := false, own := 1, peer := 0, resv := 0 })) ∘ hs (fun h => { h with bme := true, linkUp := true }) ∘ (fun s => { s with jrn := { s.jrn with slots := 2 }, fw := { s.fw with hover := 0 } }) ∘ pr (fun p => { p with role := 0 }) ∘ solo ∘ eng 0 7)
  (fun s => TaskReady 0 0 200 s ∧ ringsQuiet s = false ∧ s.jrn.slots = 2 ∧ nextRing s = some (7, { opcode := 0, tag := 9 }) ∧ rejects s { opcode := 0, tag := 9 } = none)
  (fun s t => TaskRan 0 0 200 s t ∧
      (t.ring 7).own = ((s.ring 7).own + 1) % ringSize s 7 ∧ t.jrn.head = s.nextSeq ∧ t.jrn.next = s.nextSeq + 1 ∧
      t.hst.live = s.hst.live ++ [{ seq := s.nextSeq, ring := 7, crHead := ((s.ring 7).own + 1) % ringSize s 7, d := { opcode := 0, tag := 9 } }] ∧
      t.hst.ready = s.hst.ready)) ∧
  (Wt (.ringService 200) (bell 7 { opcode := 0xF0, tag := 9 } ∘ reg (ringReg 7 + 8) 0x13 ∘ reg (ringReg 15 + 8) 0x1F ∘ (fun s => (s.modRing 15 fun r => { r with halt := false, own := 1, peer := 0, resv := 0 })) ∘ hs (fun h => { h with bme := true, linkUp := true }) ∘ (fun s => { s with jrn := { s.jrn with slots := 2 }, fw := { s.fw with hover := 0 } }) ∘ pr (fun p => { p with role := 0 }) ∘ solo ∘ eng 0 7)
  (fun s => TaskReady 0 0 200 s ∧ ringsQuiet s = false ∧ s.jrn.slots = 2 ∧ nextRing s = some (7, { opcode := 0xF0, tag := 9 }) ∧ rejects s { opcode := 0xF0, tag := 9 } = some stBadOpcode)
  (fun s t => TaskRan 0 0 200 s t ∧
      (t.ring 7).own = ((s.ring 7).own + 1) % ringSize s 7 ∧ t.jrn = s.jrn ∧
      t.hst.live = s.hst.live ∧ t.hst.ready.dropLast = s.hst.ready ∧ t.hst.ready.getLast?.any fun c => c.seq = 0 ∧ c.status = stBadOpcode ∧ c.tag = 9 ∧ c.opcode = 0xF0 ∧ c.ring = 7 ∧ c.final = true)) ∧
  (Wt (.ringService 120) (eng 0 7 ∘ fun s => { s with hst := { s.hst with rings := s.hst.rings.map fun p => (p.1, { p.2 with halt := true }) } })
  (fun s => TaskReady 0 0 120 s ∧ nextRing s = none) (fun s t => TaskRan 0 0 120 s t ∧ EventsOnly { s with engs := t.engs } t)) ∧
  (Wt (.completionPosting 80 []) (did 0 1 ∘ hs (fun h => { h with ready := [{ seq := 0, ring := 7, status := 5, readyAt := 7 }], bme := true, linkUp := true }) ∘ (fun s => { s with evt := { s.evt with fresh := [], held := [] }, fw := { s.fw with hover := 0 } }) ∘ reg (ringReg 15 + 8) 0x1F ∘ (fun s => (s.modRing 15 fun r => { r with halt := false, own := 1, peer := 0, resv := 2 })) ∘ eng 0 7)
  (fun s => TaskReady 0 1 80 s ∧ ringsQuiet s = false ∧ postable s { seq := 0, ring := 7, status := 5, readyAt := 7 } = true)
  (fun s t => TaskRan 0 1 80 s t ∧ t.hst.ready = [] ∧
      t.out = .entry 15 (s.ring 15).own (complBits { seq := 0, ring := 7, status := 5, readyAt := 7 }) :: s.out ∧
      (t.ring 15).own = ((s.ring 15).own + 1) % 2 ^ s.cf (ringReg 15 + 8) 4 1)) ∧
  (Wt (.completionPosting 80 []) (did 0 1 ∘ hs (fun h => { h with ready := [], bme := true, linkUp := true }) ∘ (fun s => { s with evt := { s.evt with fresh := [], held := [{ src := 5, sev := 2 }] }, fw := { s.fw with hover := 0 } }) ∘ reg (ringReg 16 + 8) 0x1F ∘ (fun s => (s.modRing 16 fun r => { r with halt := false, own := 1, peer := 0 })) ∘ eng 0 7)
  (fun s => TaskReady 0 1 80 s ∧ ringsQuiet s = false ∧ ringLive s 16 = true ∧ ringRoom s 16 ≠ 0)
  (fun s t => TaskRan 0 1 80 s t ∧ t.evt.held = [] ∧
      t.out = .entry 16 (s.ring 16).own (eventBits { src := 5, sev := 2 }) :: s.out ∧
      (t.ring 16).own = ((s.ring 16).own + 1) % 2 ^ s.cf (ringReg 16 + 8) 4 1)) := by
  refine ⟨?_, ?_, ?_, ?_, ?_⟩ <;> decide +kernel

theorem wit_RowExchange :
  (Wt (.rowExchange 80) (did 2 3 ∘ eng 2 32) (fun s => TaskReady 2 2 80 s) (fun s t => TaskRan 2 2 80 s t ∧ t.rails = s.rails ∧ t.seq = s.seq ∧ t.stgs = s.stgs ∧ t.drt = s.drt)) ∧
  (Wt (.rowExchange 80) (did 2 3 ∘ ports ∘ reg 0x9000 9 ∘ reg 0x9060 70000 ∘ pt 0 (fun p => { p with st := 4 }) ∘ pt 1 (fun p => { p with st := 4 }) ∘ solo ∘ sc (fun x => { x with isMaster := true, nodes := tset {} (tset {} x.nodes 5 { valid := true, demand := 300, floor := 20 }) 4095 { valid := true, demand := 65535, floor := 9 } }) ∘ eng 2 32)
 (fun s => TaskReady 2 2 80 s ∧ s.sca.isMaster = true ∧ s.tickStart = true ∧ s.role ≠ 2 ∧ (s.rnode 5).valid = true ∧ s.node = 9 ∧ s.rowPorts.contains 1)
 (fun s t => (t.rnode s.node).demand = s.dmp.trayP ∧ (t.rnode s.node).floor = rowFloor s ∧
      (t.rnode s.node).valid = true ∧ t.dmp.rowCap = some (t.rnode s.node).cap ∧
      (((List.range 60) ++ [4095]).all fun n => n = s.node || t.rnode n = { s.rnode n with cap := (t.rnode n).cap }) ∧
      (!(twf {} s.sca.nodes) || ((List.range 60) ++ [4095]).all fun n => !(t.rnode n).valid || (t.rnode n).cap =
        sat 0xFFFF (rowCap (s.cw 0x9060).toNat (rowNodes t).length (((rowNodes t).map fun (p : Nat × RNode) => p.2.demand).foldl (· + ·) 0)
          (((rowNodes t).map fun (p : Nat × RNode) => p.2.floor).foldl (· + ·) 0) (t.rnode n).demand (t.rnode n).floor)) ∧
      ((List.range 60) ++ [4095]).all fun n => n = s.node || !(s.rnode n).valid || s.rowPorts.all fun p => ((t.port p).tx ++ (t.port p).txq).any fun x =>
        x.kind = 11 ∧ x.dst = some n ∧ x.payload = BitVec.ofNat 256 (t.rnode n).cap)) ∧
  (Wt (.rowExchange 80) (did 2 3 ∘ ports ∘ reg 0x9000 9 ∘ pt 0 (fun p => { p with st := 4 }) ∘ solo ∘ sc (fun x => { x with isMaster := false, member := true }) ∘ eng 2 40)
 (fun s => TaskReady 2 2 80 s ∧ s.role ≠ 2 ∧ s.tickPhase = 8 ∧ s.rowPorts.contains 0)
 (fun s t => t.dmp = s.dmp ∧ t.sca.nodes = s.sca.nodes ∧ s.rowPorts.all fun p => (t.port p).txq.dropLast = (s.port p).txq && (t.port p).txq.getLast?.any fun x => x.kind = 13 ∧ x.dst = some s.sca.master ∧ x.payload = BitVec.ofNat 256 (rowstatBits s))) ∧
  (Wt (.rowExchange 80) (did 2 3 ∘ ports ∘ reg 0x4008 2 ∘ sc (fun x => { x with isMaster := false, ringOk := true }) ∘ eng 2 40)
 (fun s => TaskReady 2 2 80 s ∧ s.role = 2 ∧ s.tickPhase = 8)
 (fun s t => t.dmp = s.dmp ∧ t.sca.nodes = s.sca.nodes ∧ ([0, 1, 3].all fun p => t.port p = s.port p) ∧ (t.port 2).txq.dropLast = (s.port 2).txq ∧ (t.port 2).txq.getLast?.any fun x => x.kind = 6 ∧ x.dst = none ∧ x.payload = BitVec.ofNat 256 (rowstatBits s))) ∧
  (Wt (.rowExchange 80) (did 2 3 ∘ sc (fun x => { x with isMaster := true }) ∘ eng 2 40) (fun s => TaskReady 2 2 80 s ∧ s.tickStart = false) (fun s t => TaskRan 2 2 80 s t ∧ EventsOnly { s with engs := t.engs } t)) ∧
  (Wt (.rowExchange 80) (did 2 3 ∘ reg 0x4008 2 ∘ sc (fun x => { x with isMaster := false, ringOk := false }) ∘ eng 2 40) (fun s => TaskReady 2 2 80 s ∧ s.role = 2) (fun s t => TaskRan 2 2 80 s t ∧ EventsOnly { s with engs := t.engs } t)) := by
  refine ⟨?_, ?_, ?_, ?_, ?_, ?_⟩ <;> decide +kernel

theorem wit_ConversionsAndHealth_a :
  (Wt (.trgEdgeAccepted 3 true 1999) (reg 0x7014 0x40 ∘ (fun s => each [0, 1, 2, 3] (fun c => co c fun k => { k with powered := true, lp := false, seqs := [] }) s) ∘ reg (entReg 2 9) 0x1C00 ∘ op) (fun _ => true)
 (fun s t => t.cnv.trgLevel.testBit 3 = true ∧ ((List.range 9).all fun m => m = 3 || t.cnv.trgLevel.testBit m = s.cnv.trgLevel.testBit m) ∧
    (s.cb 0x7014 (2 * 3 + b2n (!true)) = false → t = { s with cnv := { s.cnv with trgLevel := t.cnv.trgLevel } }) ∧
    (s.cb 0x7014 (2 * 3 + b2n (!true)) = true → (List.range 4).all fun c => (List.range 64).all fun e => entTrig (s.ent c e) = 4 + 3 ∧
      (s.core c).powered = true ∧ (s.core c).lp = false → t.seqBusy c (4 + 3) = true))) ∧
  (Wt (.trgEdgeAccepted 3 false 0) (reg 0x7014 0x40 ∘ op) (fun s => s.cb 0x7014 (2 * 3 + b2n (!false)) = false)
 (fun s t => t.cnv.trgLevel.testBit 3 = false ∧ ((List.range 9).all fun m => m = 3 || t.cnv.trgLevel.testBit m = s.cnv.trgLevel.testBit m) ∧
     t = { s with cnv := { s.cnv with trgLevel := t.cnv.trgLevel } })) ∧
  (Wt (.trgEdgeAccepted 0 false 0) (reg 0x7014 0x2 ∘ op) (fun _ => true)
 (fun s t => t.cnv.trgLevel.testBit 0 = false ∧ ((List.range 9).all fun m => m = 0 || t.cnv.trgLevel.testBit m = s.cnv.trgLevel.testBit m) ∧
    (s.cb 0x7014 (2 * 0 + b2n (!false)) = true → (List.range 4).all fun c => (List.range 64).all fun e => entTrig (s.ent c e) = 4 + 0 ∧
      (s.core c).powered = true ∧ (s.core c).lp = false → t.seqBusy c (4 + 0) = true))) ∧
  (Wt (.conversionEnd 3 7 900 false) ((fun s => co 3 (fun k => { k with powered := true, plan := tset .idle k.plan (8 * s.now + 7) (.entry 63), ents := tset {} k.ents 63 { (tget {} k.ents 63) with stall := 0 }, slices := tset {} k.slices 3 { (tget {} k.slices 3) with scrub := none } }) s) ∘ op)
 (fun s => (s.core 3).powered = true ∧ tget SlotUse.idle (s.core 3).plan (8 * s.now + 7) = .entry 63 ∧ scrubDue (s.slice 3 3) (8 * s.now + 7) = false ∧ (s.entry 3 63).stall = 0)
 (fun s t => (t.entry 3 63).res = mkRes s 3 3 (8 * s.now + 7) 900 false ∧
      tget SlotUse.idle (t.core 3).plan (8 * s.now + 7) = .idle ∧
      t.cnv.now.dropLast = s.cnv.now ∧ t.cnv.now.getLast?.any fun x => x.core = 3 ∧ x.entry = 63 ∧ x.frame = s.clk.frame ∧
        x.res = mkRes s 3 3 (8 * s.now + 7) 900 false)) ∧
  (Wt (.conversionEnd 3 7 900 true) ((fun s => co 3 (fun k => { k with powered := true, plan := tset .idle k.plan (8 * s.now + 7) (.entry 63), ents := tset {} k.ents 63 { (tget {} k.ents 63) with stall := 0 }, slices := tset {} k.slices 3 { (tget {} k.slices 3) with scrub := none } }) s) ∘ op)
 (fun s => (s.core 3).powered = true ∧ tget SlotUse.idle (s.core 3).plan (8 * s.now + 7) = .entry 63 ∧ scrubDue (s.slice 3 3) (8 * s.now + 7) = false ∧ (s.entry 3 63).stall = 0)
 (fun s t => (t.entry 3 63).res = mkRes s 3 3 (8 * s.now + 7) 900 false ∧
      tget SlotUse.idle (t.core 3).plan (8 * s.now + 7) = .idle ∧
      t.cnv.now.dropLast = s.cnv.now ∧ t.cnv.now.getLast?.any fun x => x.core = 3 ∧ x.entry = 63 ∧ x.frame = s.clk.frame ∧
        x.res = mkRes s 3 3 (8 * s.now + 7) 900 false)) ∧
  (Wt (.conversionEnd 3 7 (-900) true) ((fun s => co 3 (fun k => { k with powered := true, plan := tset .idle k.plan (8 * s.now + 7) (.entry 63), slices := tset {} k.slices 3 { (tget {} k.slices 3) with scrub := some 3 } }) s) ∘ op)
 (fun s => (s.core 3).powered = true ∧ tget SlotUse.idle (s.core 3).plan (8 * s.now + 7) = .entry 63 ∧ scrubDue (s.slice 3 3) (8 * s.now + 7) = true)
 (fun s t => (t.core 3).scrubs = sat 0xFFFF ((s.core 3).scrubs + 1) ∧
      (t.slice 3 3).scrub = (if (s.slice 3 3).again then some (8 * s.now) else none) ∧ (t.slice 3 3).scrubFrame = some s.clk.frame ∧
      (t.entry 3 63).res.code = (s.entry 3 63).res.code ∧ t.cnv.now = s.cnv.now)) ∧
  (Wt (.conversionEnd 2 11 9000 true) ((fun s => co 2 (fun k => { k with urgs := tset {} k.urgs 3 { busy := true, started := true, g := 20 }, ents := k.ents.map fun p => (p.1, { p.2 with stall := 0 }) }) s) ∘ op)
 (fun s => (s.urg 2 3).busy = true ∧ (s.urg 2 3).started = true ∧ (s.entry 2 (fld (s.urgReg 2 3) 5 0)).stall = 0)
 (fun s t => (t.urg 2 3).busy = false ∧ (t.entry 2 (fld (s.urgReg 2 3) 5 0)).res =
        mkRes s 2 (fld (s.urgReg 2 3) 7 6) ((s.urg 2 3).g + 4) 9000 true)) ∧
  (Wt (.conversionEnd 2 11 900 false) ((fun s => co 2 (fun k => { k with urgs := tset {} k.urgs 3 { busy := true, started := true, g := 20 }, ents := k.ents.map fun p => (p.1, { p.2 with stall := 0 }) }) s) ∘ op)
 (fun s => (s.urg 2 3).busy = true ∧ (s.urg 2 3).started = true ∧ (s.entry 2 (fld (s.urgReg 2 3) 5 0)).stall = 0)
 (fun s t => (t.urg 2 3).busy = false ∧ (t.entry 2 (fld (s.urgReg 2 3) 5 0)).res =
        mkRes s 2 (fld (s.urgReg 2 3) 7 6) ((s.urg 2 3).g + 4) 900 true)) := by
  refine ⟨?_, ?_, ?_, ?_, ?_, ?_, ?_, ?_⟩ <;> decide +kernel

theorem wit_ConversionsAndHealth_b :
  (Wt (.urgentConversionStart 1 3) ((fun s => co 1 (fun k => { k with plan := [], urgs := tset {} k.urgs 3 { busy := true, g := 20 }, slices := k.slices.map fun p => (p.1, { p.2 with scrub := none }) }) s) ∘ op)
 (fun s => (s.urg 1 3).busy = true ∧ (s.urg 1 3).started = false ∧ (s.core 1).plan = [] ∧ (s.slice 1 (fld (s.urgReg 1 3) 7 6)).scrub = none)
 (fun s t => t.urg 1 3 = { s.urg 1 3 with started := true } ∧ ((List.range 3).all fun m => t.urg 1 m = s.urg 1 m) ∧ ((List.range 4).all fun d => d = 1 || t.core d = s.core d))) ∧
  (Wt (.conversionDropped 0 63) ((fun s => co 0 (fun k => { k with displaced := [(63, 4, some 9), (5, 4, none), (63, 8, some 9)] }) s) ∘ op)
 (fun s => ((s.core 0).displaced.any fun d => d.1 = 63) = true)
 (fun s t => (t.core 0).drops = sat 0xFFFF ((s.core 0).drops + 1) ∧ (t.entry 0 63).res.miss = true ∧
      (t.core 0).displaced = (s.core 0).displaced.filter (fun d => d.1 ≠ 63) ∧
      ((s.core 0).dropTick = false → Pending (0x6C + 0) t) ∧ (List.range 4).all fun d => d = 0 || t.core d = s.core d)) ∧
  (Wt (.sliceUnclamp 3 2) (co 3 (fun k => { k with slices := tset {} k.slices 2 { (tget {} k.slices 2) with clamp := some 9 } })) (fun s => (s.slice 3 2).clamp.isSome = true)
 (fun s t => (t.slice 3 2).clamp = none ∧ (t.slice 3 2).scrub.isSome = true ∧ (scrubDue (s.slice 3 2) (8 * s.now + 2) = false →
      t.slice 3 2 = { s.slice 3 2 with clamp := none, scrub := some (8 * s.now) }) ∧
      ((List.range 3).all fun d => t.core d = s.core d) ∧ t = { s with cnv := { s.cnv with cores := t.cnv.cores } })) ∧
  (Wt (.plausibilityRestore 1) (fun s => s.modPpair 1 fun x => { x with raised := true, suspect := 2 }) (fun s => (s.ppair 1).raised = true)
 (fun s t => (t.ppair 1).suspect = 0 ∧ (t.ppair 1).raised = false ∧ Pending (0x72 + 1) t ∧ t.ppair 0 = s.ppair 0)) ∧
  (Wt (.refrdySet 1) ((fun s => s.modRefm 1 fun x => { x with rdy := false }) ∘ pw fun p => { p with domains := 0x20 }) (fun s => s.refPowered = true ∧ (s.refm 1).rdy = false)
 (fun s t => (t.refm 1).rdy = true ∧ (t.refm 1).fault = (s.refm 1).fault ∧ t.refm 0 = s.refm 0 ∧ t = { s with cnv := t.cnv })) ∧
  (Wt (.referenceFaultTimeout 1) ((fun s => s.modRefm 1 fun x => { x with rdy := false }) ∘ pw fun p => { p with domains := 0x20 }) (fun s => s.refPowered = true ∧ (s.refm 1).rdy = false)
 (fun s t => (t.refm 1).fault = true ∧ (t.refm 1).rdy = false ∧ Pending (0x74 + 1) t ∧ t.refm 0 = s.refm 0)) ∧
  (Wt (.refrdyFall 1) ((fun s => s.modRefm 1 fun x => { x with rdy := true }) ∘ pw fun p => { p with domains := 0x20 }) (fun s => s.refPowered = true ∧ (s.refm 1).rdy = true)
 (fun s t => (t.refm 1).fault = true ∧ (t.refm 1).rdy = false ∧ Pending (0x74 + 1) t ∧ t.refm 0 = s.refm 0 ∧
      [2, 3].all fun c => (List.range 64).all fun e => (t.entry c e).res.valid = false)) := by
  refine ⟨?_, ?_, ?_, ?_, ?_, ?_, ?_⟩ <;> decide +kernel

theorem wit_SetUpWrites :
  (Wt (.setUpWrite { off := 0x2030 } 0x1F) (hs (fun h => { h with lock := 1 }) ∘ reg 0x2030 0 ∘ rl 3 (fun r => { r with st := .off }) ∘ op)
  (fun s => s.hst.lock = 1 ∧ bar0Read s 0x2030 ≠ merge (rwsMask (regKey s.cnv.cblk 0x2030)) (bar0Read s 0x2030) 0x1F ∧
    setupRefused s 0x2030 (bar0Read s 0x2030) (merge (rwsMask (regKey s.cnv.cblk 0x2030)) (bar0Read s 0x2030) 0x1F) = false)
  (fun s t => t.bw (regKey s.cnv.cblk 0x2030) = merge (rwsMask (regKey s.cnv.cblk 0x2030)) (s.bw (regKey s.cnv.cblk 0x2030)) 0x1F ∧
      ((List.range 0x1200).all fun k => 16 * k = regKey s.cnv.cblk 0x2030 || t.bw (16 * k) = s.bw (16 * k)) ∧ t.cfg = s.cfg ∧
      t.setup = s.setup ++ [(regKey s.cnv.cblk 0x2030, (0x1F : W32) &&& BitVec.ofNat 32 (rwsMask (regKey s.cnv.cblk 0x2030)))])) ∧
  (Wt (.setUpWrite { off := 0x8010 } 0x1F) (hs (fun h => { h with lock := 1 }) ∘ reg 0x8010 0 ∘ op)
  (fun s => s.hst.lock = 1 ∧ bar0Read s 0x8010 ≠ merge (rwsMask (regKey s.cnv.cblk 0x8010)) (bar0Read s 0x8010) 0x1F ∧
    setupRefused s 0x8010 (bar0Read s 0x8010) (merge (rwsMask (regKey s.cnv.cblk 0x8010)) (bar0Read s 0x8010) 0x1F) = false)
  (fun s t => t.bw (regKey s.cnv.cblk 0x8010) = merge (rwsMask (regKey s.cnv.cblk 0x8010)) (s.bw (regKey s.cnv.cblk 0x8010)) 0x1F ∧
      ((List.range 0x1200).all fun k => 16 * k = regKey s.cnv.cblk 0x8010 || t.bw (16 * k) = s.bw (16 * k)) ∧ t.cfg = s.cfg ∧
      t.setup = s.setup ++ [(regKey s.cnv.cblk 0x8010, (0x1F : W32) &&& BitVec.ofNat 32 (rwsMask (regKey s.cnv.cblk 0x8010)))])) ∧
  (Wt (.setUpWrite { off := 0x2030 } 0x1F) (hs (fun h => { h with lock := 2 }) ∘ reg 0x2030 0 ∘ op)
  (fun s => s.hst.lock ≠ 1 ∧ bar0Read s 0x2030 ≠ merge (rwsMask (regKey s.cnv.cblk 0x2030)) (bar0Read s 0x2030) 0x1F)
  (fun s t => t.bar0 = s.bar0 ∧ t.cfg = s.cfg ∧ t.setup = s.setup ∧ Pending 0x02 t)) ∧
  (Wt (.setUpWrite { off := 0x2030 } 0x1F) (hs (fun h => { h with lock := 1 }) ∘ reg 0x2030 0 ∘ rl 3 (fun r => { r with st := .on }) ∘ op)
  (fun s => s.hst.lock = 1 ∧ bar0Read s 0x2030 ≠ merge (rwsMask (regKey s.cnv.cblk 0x2030)) (bar0Read s 0x2030) 0x1F ∧
    setupRefused s 0x2030 (bar0Read s 0x2030) (merge (rwsMask (regKey s.cnv.cblk 0x2030)) (bar0Read s 0x2030) 0x1F) = true)
  (fun s t => t.bar0 = s.bar0 ∧ t.cfg = s.cfg ∧ t.setup = s.setup ∧ Pending 0x03 t)) ∧
  (Wt (.setUpWrite { off := 0x2031 } 0x1F) op (fun _ => Access.ok { off := 0x2031 } = false) (fun s t => t.bar0 = s.bar0 ∧ t.cfg = s.cfg ∧
    t.setup = s.setup ∧ t.out = s.out ∧ Pending 0x04 t ∧ EventsOnly s t)) ∧
  (Wt (.unsupportedBarAccess 2 false { off := 0x2034, size := 8 } 0x1F) op (fun _ => Access.ok { off := 0x2034, size := 8 } = false) (fun s t => 
    t.out = .unsupported 0x2034 :: s.out ∧ Pending 0x04 t ∧ EventsOnly { s with out := t.out } t)) ∧
  (Wt (.unsupportedBarAccess 0 true { off := 0x10, size := 2 } 0x1F) op (fun _ => Access.ok { off := 0x10, size := 2 } = false) (fun s t => 
    t.out = s.out ∧ Pending 0x04 t ∧ EventsOnly { s with out := t.out } t)) := by
  refine ⟨?_, ?_, ?_, ?_, ?_, ?_, ?_⟩ <;> decide +kernel

theorem wit_SelectionsAndLatchedReads_a :
  (Wt (.fltCntSelWrite 95) id (fun _ => true) (fun s t => t = { s with flt := { s.flt with cntPend := some 95 } })) ∧
  (Wt (.fltCntSelWrite 96) id (fun _ => true) (fun s t => t = s)) ∧
  (Wt (.evtCselWrite 255) id (fun _ => true) (fun s t => t = { s with evt := { s.evt with cselPend := some 255 } })) ∧
  (Wt (.evtWclogPop 0x20) id (fun _ => true) (fun s t => t = { s with wc := { s.wc with pop := true } })) ∧
  (Wt (.scaRselWrite 4095) id (fun _ => true) (fun s t => t = { s with sca := { s.sca with rselPend := some 4095 } })) ∧
  (Wt (.cnvWselWrite 31) id (fun _ => true) (fun s t => t = { s with cnv := { s.cnv with wselPend := some 15 } })) ∧
  (Wt (.glbFrameLoRead 1999) op (fun _ => true) (fun s t => t.out = .read 0x100 (bar0Read t 0x100) :: s.out ∧
    t.clk.latHi = BitVec.ofNat 16 (s.now / 2 ^ 32) ∧ t.clk.latFrac = fracOf 1999 ∧ t.clk.frame = s.clk.frame ∧
      t = { s with clk := t.clk, out := t.out })) ∧
  (Wt .hstJheadLoRead op (fun _ => true) (fun s t => t.out = .read 0x1010 (bar0Read t 0x1010) :: s.out ∧
    t = { s with hst := { s.hst with jheadHi := s.jrn.head / 2 ^ 32 }, out := t.out })) := by
  refine ⟨?_, ?_, ?_, ?_, ?_, ?_, ?_, ?_⟩ <;> decide +kernel

theorem wit_SelectionsAndLatchedReads_b :
  (Wt .hstJoldLoRead op (fun _ => true) (fun s t => t.hst.joldHi = oldestSram s / 2 ^ 32 ∧
    t.out = .read 0x1018 (bar0Read t 0x1018) :: s.out ∧ t = { s with hst := { s.hst with joldHi := t.hst.joldHi }, out := t.out })) ∧
  (Wt .hstJmirLoRead op (fun _ => true) (fun s t => t.hst.jmirHi = oldestMirror s / 2 ^ 32 ∧
    t.out = .read 0x1020 (bar0Read t 0x1020) :: s.out ∧ t = { s with hst := { s.hst with jmirHi := t.hst.jmirHi }, out := t.out })) ∧
  (Wt (.cnvResLoRead 63) op (fun _ => true) (fun s t => t.out = .read (0x7C00 + 8 * 63) (bar0Read t (0x7C00 + 8 * 63)) :: s.out ∧
    tget 0 t.cnv.resHi 63 = frLo (s.entry s.cnv.wsel 63).res.ts.frame ∧
      t = { s with cnv := { s.cnv with resHi := t.cnv.resHi }, out := t.out })) ∧
  (Wt .evtWclog0Read op (fun _ => true) (fun s t => t.wc.latch = s.wc.log.head? ∧ t.out = .read 0xD800 (bar0Read t 0xD800) :: s.out ∧
    t = { s with wc := { s.wc with latch := t.wc.latch }, out := t.out })) ∧
  (Wt .fwHoverLoRead op (fun _ => true) (fun s t => t.fw.hoverHi = frHi s.fw.hover ∧
    t.out = .read 0xC01C (bar0Read t 0xC01C) :: s.out ∧ t = { s with fw := { s.fw with hoverHi := t.fw.hoverHi }, out := t.out })) := by
  refine ⟨?_, ?_, ?_, ?_, ?_⟩ <;> decide +kernel

theorem wit_Rings_a :
  (Wt (.crDoorbell 7 0xFFFF000F) (reg (ringReg 7 + 8) 0x9) (fun s => ringOn s 7 = true ∧ fld (0xFFFF000F : W32) 15 0 < ringSize s 7) (fun s t =>
    (t.ring 7).peer = 15 ∧ (t.ring 7).bell = 0xFFFF000F ∧ (t.ring 7).own = (s.ring 7).own ∧
      (t.ring 7).halt = (s.ring 7).halt ∧ (List.range 18).all fun j => j = 7 || t.ring j = s.ring j)) ∧
  (Wt (.crDoorbell 7 0x10) (reg (ringReg 7 + 8) 0x9) (fun s => ringOn s 7 = true ∧ ringSize s 7 ≤ 16) (fun s t =>
    (t.ring 7).halt = true ∧ (t.ring 7).cause = 1 ∧ (t.ring 7).peer = (s.ring 7).peer ∧ Pending 0x13 t ∧ (List.range 18).all fun j => j = 7 || t.ring j = s.ring j)) ∧
  (Wt (.cqDoorbell 0 15) (reg (ringReg 8 + 8) 0x9) (fun s => ringOn s 8 = true ∧ 15 < ringSize s 8) (fun s t => t.ring 8 = { s.ring 8 with bell := 15, peer := 15 } ∧ ((List.range 18).all fun j => j = 8 || t.ring j = s.ring j) ∧
      t = { s with hst := { s.hst with rings := t.hst.rings } })) ∧
  (Wt (.erDoorbell 15) (reg (ringReg 16 + 8) 0x9) (fun s => ringOn s 16 = true ∧ 15 < ringSize s 16) (fun s t => t.ring 16 = { s.ring 16 with bell := 15, peer := 15 } ∧ ((List.range 18).all fun j => j = 16 || t.ring j = s.ring j) ∧
      t = { s with hst := { s.hst with rings := t.hst.rings } })) ∧
  (Wt (.trDoorbell 15) (reg (ringReg 17 + 8) 0x9) (fun s => ringOn s 17 = true ∧ 15 < ringSize s 17) (fun s t => t.ring 17 = { s.ring 17 with bell := 15, peer := 15 } ∧ ((List.range 18).all fun j => j = 17 || t.ring j = s.ring j) ∧
      t = { s with hst := { s.hst with rings := t.hst.rings } })) ∧
  (Wt (.descriptorFetchDone 7 [.ok (List.replicate 64 3) [1, 2] true]) (fun s => s.modRing 7 fun r => { r with fetching := 3 }) (fun s => (s.ring 7).fetching ≠ 0) (fun s t =>
    (t.ring 7).fetched = (s.ring 7).fetched ++ [(s.clk.frame + 1, descOf (List.replicate 64 3) [1, 2] true)] ∧
      (t.ring 7).fetching = (s.ring 7).fetching - 1 ∧ ((List.range 18).all fun j => j = 7 || t.ring j = s.ring j) ∧
      t = { s with hst := { s.hst with rings := t.hst.rings } })) ∧
  (Wt (.descriptorFetchDone 0 [.bad 99]) (fun s => s.modRing 0 fun r => { r with fetching := 3 }) (fun s => (s.ring 0).fetching ≠ 0) (fun s t =>
    (t.ring 0).halt = true ∧ (t.ring 0).cause = 2 ∧ (t.ring 0).fetching = 0 ∧ Pending 0x13 t ∧ (List.range 18).all fun j => j = 0 || t.ring j = s.ring j)) ∧
  (Wt (.msixModerationExpiry 11) (hs fun h => { h with modPend := tset false h.modPend 11 true }) (fun s => tget false s.hst.modPend 11 = true) (fun s t =>
    tget false t.hst.modPend 11 = false ∧ tget 0 t.hst.modLeft 11 = vecMod s 11 ∧
      (if (s.vec 11).masked || !s.hst.bme then t.hst.pba.getLsbD 11 = true ∧ t.out = s.out
        else t.out = .msix 11 (s.vec 11).addr (s.vec 11).data :: s.out))) := by
  refine ⟨?_, ?_, ?_, ?_, ?_, ?_, ?_, ?_⟩ <;> decide +kernel

theorem wit_Rings_b :
  (Wt (.msixModerationExpiry 0) (hs fun h => { h with modPend := tset false h.modPend 0 true, bme := true, vecs := [(0, { masked := false, addr := 9 })] }) (fun s => tget false s.hst.modPend 0 = true) (fun s t =>
    tget false t.hst.modPend 0 = false ∧ tget 0 t.hst.modLeft 0 = vecMod s 0 ∧
      (if (s.vec 0).masked || !s.hst.bme then t.hst.pba.getLsbD 0 = true ∧ t.out = s.out
        else t.out = .msix 0 (s.vec 0).addr (s.vec 0).data :: s.out))) ∧
  (Wt (.busMasterEnable false) (hs fun h => { h with bme := true }) (fun _ => true) (fun s t => t = { s with hst := { s.hst with bme := false } })) ∧
  (Wt (.busMasterEnable true) (hs fun h => { h with pba := 0x8000000000000001, vecs := [(63, { masked := false, addr := 9 })] }) (fun s => s.hst.pba.getLsbD 63 = true ∧ (s.vec 63).masked = false) (fun s t => t.hst.bme = true ∧ t.hst.pba.getLsbD 63 = false ∧ t.out.contains (.msix 63 (s.vec 63).addr (s.vec 63).data))) ∧
  (Wt (.msixTableWrite (0x800 + 16 * 63 + 8) 0xFFFFFFFF) id (fun _ => true) (fun s t => (t.vec 63).data = 0xFFFFFFFF ∧
    (t.vec 63).addr = (s.vec 63).addr ∧ (t.vec 63).masked = (s.vec 63).masked ∧ (List.range 63).all fun m => t.vec m = s.vec m)) ∧
  (Wt (.hostInterfaceReset true) (hs (fun h => { h with lock := 1 }) ∘ pw fun p => { p with domains := 0x400 }) (fun _ => true) (fun s t => t.hst.linkUp = (true && s.pwr.domains.testBit 10) ∧
    t.hst.freset = true ∧ t.hst.resets = sat 0xFFFF (s.hst.resets + 1) ∧ t.hst.pba = 0 ∧ t.hst.vecs = [] ∧
    ((List.range 18).all fun r => ringOn t r = false ∧ (t.ring r).own = 0 ∧ (t.ring r).peer = 0 ∧ (t.ring r).fetched = [] ∧
      (t.ring r).halt = (s.ring r).halt) ∧
    t.hst.lock = (if s.hst.lock = 1 then 2 else s.hst.lock) ∧ (s.hst.lock = 1 → t.jrn.head = s.nextSeq))) ∧
  (Wt (.hostInterfaceReset false) (hs (fun h => { h with lock := 2 }) ∘ reg (ringReg 17 + 8) 0x9) (fun _ => true) (fun s t => t.hst.linkUp = (false && s.pwr.domains.testBit 10) ∧
    t.hst.freset = true ∧ t.hst.resets = sat 0xFFFF (s.hst.resets + 1) ∧ t.hst.pba = 0 ∧ t.hst.vecs = [] ∧
    ((List.range 18).all fun r => ringOn t r = false ∧ (t.ring r).own = 0 ∧ (t.ring r).peer = 0 ∧ (t.ring r).fetched = [] ∧
      (t.ring r).halt = (s.ring r).halt) ∧
    t.hst.lock = (if s.hst.lock = 1 then 2 else s.hst.lock) ∧ (s.hst.lock = 1 → t.jrn.head = s.nextSeq))) ∧
  (Wt .journalMirrorWrite ((fun s => { s with jrn := { s.jrn with waiting := [s.jrn.head] }, drt := { s.drt with bg := 0xFF }, rails := s.rails.map fun p => (p.1, { p.2 with delta := [] }) }) ∘ jInternal 0x80 1 0 1 false ∘ nvw fun n => { n with mirrorPos := 511 }) (fun s => (match s.jrn.waiting with | q :: _ => (s.jEntry q).isSome && decide (s.nv.mirrorPos % 256 ≠ 0) | _ => false : Bool) ∧ bgFree s 2 = true)
  (fun s t => (match s.jrn.waiting with | q :: l => (match s.jEntry q with | some e => decide (t.jrn.waiting = l ∧ t.jrn.mirror = (e :: s.jrn.mirror).take 16640 ∧ t.nv.mirrorPos = (s.nv.mirrorPos + 1) % 16640 ∧
      (s.flashRaw (mirrorAt s.nv.mirrorPos) = erasedWord → t.flashRaw (mirrorAt s.nv.mirrorPos) = wcEncode (BitVec.ofNat 256 e.bits)) ∧
      t = { s with nv := { s.nv with mirrorPos := t.nv.mirrorPos, flash := t.nv.flash, badAt := t.nv.badAt }, jrn := { s.jrn with waiting := l, mirror := t.jrn.mirror } }) | none => false) | _ => false : Bool))) := by
  refine ⟨?_, ?_, ?_, ?_, ?_, ?_, ?_⟩ <;> decide +kernel

abbrev T (op : Nat) (d : Desc) (s : State) : Prop := Taken op 7 d s
theorem wit_CommandRejected :
  (Wt (.nop 7 { db 1 with rsvd := 3 }) (alone ∘ op) (fun s => s.jrn.slots < 3 ∧ rejects s { db 1 with rsvd := 3, opcode := 0 } = some stBadHeader) (fun s t => t.jrn = s.jrn ∧ t.hst.live = s.hst.live ∧ (t.ring 7).count = sat 0xFFFF ((s.ring 7).count + 1) ∧
      t.hst.ready.dropLast = s.hst.ready ∧ (t.hst.ready.getLast?.any fun x => x.seq = 0 ∧ x.status = stBadHeader ∧ x.tag = 7 ∧ x.opcode = 0 ∧ x.ring = 7 ∧
        x.final = true ∧ x.readyAt = s.clk.frame) ∧ t = { s with hst := t.hst })) ∧
  (Wt (.powerOn 0 (db 0)) (reg 0x4008 2 ∘ pr (fun p => { p with role := 0 }) ∘ alone) (fun s => s.jrn.slots < 3 ∧ rejects s { db 0 with opcode := 1 } = some stMember) (fun s t => t.jrn = s.jrn ∧ t.hst.live = s.hst.live ∧ (t.ring 0).count = sat 0xFFFF ((s.ring 0).count + 1) ∧
      t.hst.ready.dropLast = s.hst.ready ∧ (t.hst.ready.getLast?.any fun x => x.seq = 0 ∧ x.status = stMember ∧ x.tag = 7 ∧ x.opcode = 1 ∧ x.ring = 0 ∧
        x.final = true ∧ x.readyAt = s.clk.frame) ∧ t = { s with hst := t.hst })) ∧
  (Wt (.convCalFull 5 (db 0)) (pr (fun p => { p with role := 2 }) ∘ alone) (fun s => s.jrn.slots < 3 ∧ rejects s { (bit0 true (db 0)) with opcode := 0x22 } = some stShadow) (fun s t => t.jrn = s.jrn ∧ t.hst.live = s.hst.live ∧ (t.ring 5).count = sat 0xFFFF ((s.ring 5).count + 1) ∧
      t.hst.ready.dropLast = s.hst.ready ∧ (t.hst.ready.getLast?.any fun x => x.seq = 0 ∧ x.status = stShadow ∧ x.tag = 7 ∧ x.opcode = 0x22 ∧ x.ring = 5 ∧
        x.final = true ∧ x.readyAt = s.clk.frame) ∧ t = { s with hst := t.hst })) ∧
  (Wt (.convCalFull 5 (db 0)) (fun s => { s with jrn := { s.jrn with slots := 3 } }) (fun s => 3 ≤ s.jrn.slots) (fun s t => t.ring 5 = { s.ring 5 with fetched := (s.ring 5).fetched ++ [(s.clk.frame + 1, { (bit0 true (db 0)) with opcode := 0x22 })] } ∧
      ((List.range 18).all fun k => k = 5 || t.ring k = s.ring k) ∧ t = { s with hst := { s.hst with rings := t.hst.rings } })) := by
  refine ⟨?_, ?_, ?_, ?_⟩ <;> decide +kernel

theorem wit_DomainCommands_a :
  (Wt (.nop 7 (db 0)) (alone ∘ op) (fun s => T 0 (db 0) s) (fun s t => ended 0 7 (db 0) 0 0 s t)) ∧
  (Wt (.powerOn 7 (db 0)) (alone ∘ dom .poweringUp ∘ op) (fun s => T 1 (db 0) s ∧ joining s = false) (fun s t => ended 1 7 (db 0) stAlready 0 s t)) ∧
  (Wt (.powerOn 7 (db 0)) (alone ∘ dom .resuming ∘ offw (fun o => { o with ended := false }) ∘ op) (fun s => T 1 (db 0) s ∧ joining s = false ∧ s.seq.domain ≠ .up ∧ s.seq.domain ≠ .poweringUp ∧ s.off.run = false ∧ s.off.ended = false ∧ revertWaits s = false)
 (fun s t => waits 1 7 (db 0) .domainUp s t ∧ t.seq.domain = .poweringUp ∧
      t.seq.onset = s.onSet ∧ t.flt.restarts = 0 ∧ t.flt.restartExh = false ∧ t.flt.restartLeft = none)) ∧
  (Wt (.powerOff 7 (db 0)) (alone ∘ dom .off ∘ op) (fun s => T 2 (db 0) s) (fun s t => ended 2 7 (db 0) stAlready 0 s t)) ∧
  (Wt (.powerOff 7 (db 0)) (alone ∘ dom .partialUp ∘ op) (fun s => T 2 (db 0) s ∧ s.seq.domain ≠ .off ∧ s.off.run = false) (fun s t => waits 2 7 (db 0) .offRun s t ∧ t.off.run = true ∧ t.off.full = true ∧
      t.off.src = 0 ∧ t.off.groups = 0 ∧ t.seq.domain = .poweringDown ∧ t.flt.restartLeft = none)) ∧
  (Wt (.groupOff 7 (db 0x8001)) (alone ∘ dom .up ∘ op) (fun s => T 3 (db 0x8001) s ∧ s.seq.domain ≠ .off ∧ s.off.run = false) (fun s t => waits 3 7 (db 0x8001) (.groupRun 0x8001) s t ∧ t.off.run = true ∧
      t.off.full = false ∧ t.off.src = 0 ∧ t.off.groups = 0x8001)) ∧
  (Wt (.progLaunch 7 (db 63)) (alone ∘ reg (0x4100 + 4 * 63) (0x2000 + 801) ∘ pg 63 (fun p => { p with state := 2 }) ∘ ont 801 (5 * 2^58 + 7 * 2^33) ∘ op) (fun s => T 4 (db 63) s ∧ s.progValid 63 = true ∧ (s.prog 63).state ≠ 1 ∧ s.wordOut 0x11 (801 / 4) ≠ .uncorrectable ∧
      768 ≤ s.cf (0x4100 + 4 * 63) 12 0 ∧ opOf (s.entryAt (s.cf (0x4100 + 4 * 63) 12 0)) ≠ 2 ∧
      hasExt (s.entryAt (s.cf (0x4100 + 4 * 63) 12 0)) = false ∧ stepOk s (s.entryAt (s.cf (0x4100 + 4 * 63) 12 0)) = true)
 (fun s t => waits 4 7 (db 63) (.prog 63) s t ∧ (t.prog 63).state = 1 ∧
      (t.prog 63).step = 801 ∧ (t.prog 63).status = 0 ∧ (List.range 63).all fun m => t.prog m = { s.prog m with untold := false })) ∧
  (Wt (.progLaunch 7 (db 63)) (alone ∘ reg (0x4100 + 4 * 63) (0x2000 + 801) ∘ pg 63 (fun p => { p with state := 1 }) ∘ op) (fun s => T 4 (db 63) s ∧ s.progValid 63 = true ∧ (s.prog 63).state = 1)
 (fun s t => ended 4 7 (db 63) stAlready 0 s t ∧ seqTold s t)) := by
  refine ⟨?_, ?_, ?_, ?_, ?_, ?_, ?_, ?_⟩ <;> decide +kernel

theorem wit_DomainCommands_b :
  (Wt (.progAbort 7 (db 0)) (alone ∘ pg 0 (fun p => { p with state := 1, items := [{ idx := 900, w := 5 * 2 ^ 58 }] }) ∘ op) (fun s => T 5 (db 0) s ∧ (s.prog 0).state = 1)
 (fun s t => ended 5 7 (db 0) 0 0 s t ∧ (t.prog 0).state = 4 ∧
      (t.prog 0).status = 2 ∧ (t.prog 0).step = (s.prog 0).current ∧
      (t.prog 0).items = [] ∧ (List.range 64).all fun m => m = 0 || t.prog m = { s.prog m with untold := false })) ∧
  (Wt (.progAbort 7 (db 64)) (alone ∘ sq (fun q => { q with progs := [] }) ∘ op) (fun s => T 5 (db 64) s ∧ s.running = [] ∧ (List.range 64).all fun n => (s.prog n).endedNow = false)
 (fun s t => ended 5 7 (db 64) (if s.off.run then stRefused else stNotRunning) 0 s t ∧ seqTold s t)) := by
  refine ⟨?_, ?_⟩ <;> decide +kernel

theorem wit_TableCommands :
  (Wt (.progLoad 7 (dw true (2 ^ 102 * 768 + 2 ^ 96 * 5) [5 * 2^58 + 7 * 2^33, 0])) (alone ∘ op) (fun s => T 6 (dw true (2 ^ 102 * 768 + 2 ^ 96 * 5) [5 * 2^58 + 7 * 2^33, 0]) s ∧ (dw true (2 ^ 102 * 768 + 2 ^ 96 * 5) [5 * 2^58 + 7 * 2^33, 0]).bufOk = true ∧
     loadEdit s (dw true (2 ^ 102 * 768 + 2 ^ 96 * 5) [5 * 2^58 + 7 * 2^33, 0]) = some [(768, 5 * 2^58 + 7 * 2^33), (769, 0), (770, 0), (771, 0)] ∧ MirrorReads [(768, 5 * 2^58 + 7 * 2^33), (769, 0), (770, 0), (771, 0)] s)
 (fun s t => waits 6 7 (db 0) (.progLoad 5) s t ∧ tget 0 t.seq.mirror 768 = 5 * 2^58 + 7 * 2^33 ∧ tget 0 t.seq.mirror 769 = 0 ∧
    ((List.range 1000).all fun k => within 768 771 k || tget 0 t.seq.mirror k = tget 0 s.seq.mirror k) ∧
      t.seq.onTable = s.seq.onTable ∧ progsTold s t)) ∧
  (Wt (.progLoad 7 (dw true (2 ^ 102 * 801 + 2 ^ 96 * 5) [5 * 2^58 + 7 * 2^33])) (alone ∘ badWord 0x10 (mirrorBase + 201) ∘ op) (fun s => T 6 (dw true (2 ^ 102 * 801 + 2 ^ 96 * 5) [5 * 2^58 + 7 * 2^33]) s ∧ (dw true (2 ^ 102 * 801 + 2 ^ 96 * 5) [5 * 2^58 + 7 * 2^33]).bufOk = true ∧
     loadEdit s (dw true (2 ^ 102 * 801 + 2 ^ 96 * 5) [5 * 2^58 + 7 * 2^33]) = some [(801, 5 * 2^58 + 7 * 2^33), (802, 0), (803, 0), (804, 0)] ∧ ¬MirrorReads [(801, 5 * 2^58 + 7 * 2^33), (802, 0), (803, 0), (804, 0)] s)
 (fun s t => ended 6 7 (db 0) stFailed 0 s t ∧ t.seq.onTable = s.seq.onTable ∧ progsTold s t)) ∧
  (Wt (.progLoad 7 (dw true (2 ^ 102 * 767) [0])) (alone ∘ op) (fun s => T 6 (dw true (2 ^ 102 * 767) [0]) s ∧ loadEdit s (dw true (2 ^ 102 * 767) [0]) = none)
 (fun s t => ended 6 7 (db 0) stBadArg 0 s t ∧ seqTold s t)) ∧
  (Wt (.graphLoad 7 (dw true (2 ^ 96 * 764) [2 ^ 58, 2 ^ 58, 0, 2 ^ 58])) (alone ∘ rl 95 (fun r => { r with st := .off }) ∘ reg (rbase 95) 1 ∘ sq (fun q => { q with progs := [] }) ∘ op) (fun s => T 7 (dw true (2 ^ 96 * 764) [2 ^ 58, 2 ^ 58, 0, 2 ^ 58]) s ∧
   graphWrites s (dw true (2 ^ 96 * 764) [2 ^ 58, 2 ^ 58, 0, 2 ^ 58]) = some [(764, 2 ^ 58), (765, 2 ^ 58), (766, 0), (767, 2 ^ 58)] ∧ MirrorReads [(764, 2 ^ 58), (765, 2 ^ 58), (766, 0), (767, 2 ^ 58)] s ∧
   [(764, 2 ^ 58), (765, 2 ^ 58), (766, 0), (767, 2 ^ 58)].all fun p => p.1 < 768 ∧ slotOkFor s (p.1 / 8) p.2 = true ∧ graphFree s (p.1 / 8) = true)
  (fun s t => waits 7 7 (db 0) .graphLoad s t ∧ tget 0 t.seq.mirror 764 = 2 ^ 58 ∧ tget 0 t.seq.mirror 766 = 0 ∧ tget 0 t.seq.mirror 767 = 2 ^ 58 ∧
    ((List.range 1200).all fun k => within 764 767 k || tget 0 t.seq.mirror k = tget 0 s.seq.mirror k) ∧ t.seq.onTable = s.seq.onTable ∧ progsTold s t)) ∧
  (Wt .stackCommandLoss (hs (fun h => { h with live := [{ seq := 5, ring := 0, crHead := 0, wait := .graphLoad, d := dw true (2 ^ 96 * 764) [2 ^ 58] }] }) ∘ rl 95 (fun r => { r with st := .off }) ∘ reg (rbase 95) 1 ∘ sq (fun q => { q with progs := [], mirror := tset 0 q.mirror 767 77 }) ∘ op)
   (fun s => (match s.hst.live with | [l] => l.wait = .graphLoad && (graphRails l.d).all fun i => graphFree s i | _ => false : Bool))
   (fun s _ => ((List.range 8).all fun k => (commitLoads s).entryAt (760 + k) = tget 0 s.seq.mirror (760 + k)) ∧ (List.range 1200).all fun k => within 760 767 k || (commitLoads s).entryAt k = s.entryAt k)) ∧
  (Wt (.graphLoad 7 { dw true 0 [0] with args := BitVec.ofNat 448 (31 + 32 * 2 ^ 64) }) (alone ∘ op) (fun s => T 7 { dw true 0 [0] with args := BitVec.ofNat 448 (31 + 32 * 2 ^ 64) } s ∧ ({ dw true 0 [0] with args := BitVec.ofNat 448 (31 + 32 * 2 ^ 64) } : Desc).bufOk = false)
 (fun s t => ended 7 7 (db 0) stBadArg 0 s t ∧ seqTold s t)) ∧
  (Wt (.flagsSet 7 (db (0xF0 + 2 ^ 32 * 0xFF))) (alone ∘ sq (fun q => { q with flags := 0xFFFF }) ∘ op) (fun s => T 8 (db (0xF0 + 2 ^ 32 * 0xFF)) s)
 (fun s t => ended 8 7 (db 0) 0 0 s t ∧ t.seq.flags = (s.seq.flags &&& ~~~0xFF) ||| 0xF0 ∧
      t.seq = { s.seq with flags := t.seq.flags, progs := t.seq.progs } ∧ progsTold s t ∧ t.rails = s.rails)) := by
  refine ⟨?_, ?_, ?_, ?_, ?_, ?_, ?_⟩ <;> decide +kernel

theorem wit_RailAndStageCommands_a :
  (Wt (.retryCancel 7 (db 95)) (alone ∘ rl 95 (fun r => { r with st := .faulted, retryPend := true, retry := some {} }) ∘ op) (fun s => T 9 (db 95) s ∧ s.grailOk 95 = true ∧ 95 / 96 = s.index)
 (fun s t => ((s.rail 95).retryPend = true → ended 9 7 (db 0) 0 0 s t ∧ (t.rail 95).retryPend = false ∧
        (t.rail 95).retry = none ∧ (t.rail 95).backoff = 0 ∧ (t.rail 95).st = (s.rail 95).st ∧ others 95 s t))) ∧
  (Wt (.retryCancel 7 (db 0)) (alone ∘ rl 0 (fun r => { r with st := .faulted, retryPend := false }) ∘ op) (fun s => T 9 (db 0) s ∧ s.grailOk 0 = true ∧ 0 / 96 = s.index)
 (fun s t => ended 9 7 (db 0) stNotRunning 0 s t ∧ t.rails = s.rails)) ∧
  (Wt (.margin 7 (dx (6 * 2 ^ 58 + 5 * 2 ^ 48))) (alone ∘ rl 5 (fun r => { r with st := .on }) ∘ op) (fun s => T 0x0A (dx (6 * 2 ^ 58 + 5 * 2 ^ 48)) s ∧ marginArgs s (dx (6 * 2 ^ 58 + 5 * 2 ^ 48)) = some (6 * 2 ^ 58 + 5 * 2 ^ 48, 0) ∧ (s.railView 5).1 = 3)
 (fun s t => waits 0x0A 7 (db 0) (.margin 5) s t ∧
      t.seq.margins = s.seq.margins ++ [marginOf (.cmd s.nextSeq) (6 * 2 ^ 58 + 5 * 2 ^ 48) 0 { since := s.clk.frame + 1 }] ∧ t.rails = s.rails)) ∧
  (Wt (.margin 7 (dx (6 * 2 ^ 58 + 5 * 2 ^ 48))) (alone ∘ rl 5 (fun r => { r with st := .off }) ∘ op) (fun s => T 0x0A (dx (6 * 2 ^ 58 + 5 * 2 ^ 48)) s ∧ marginArgs s (dx (6 * 2 ^ 58 + 5 * 2 ^ 48)) = some (6 * 2 ^ 58 + 5 * 2 ^ 48, 0) ∧ (s.railView 5).1 ≠ 3)
 (fun s t => ended 0x0A 7 (db 0) stRefused 0 s t ∧ seqTold s t)) ∧
  (Wt (.margin 7 (dx (7 * 2 ^ 58))) (alone ∘ op) (fun s => T 0x0A (dx (7 * 2 ^ 58)) s ∧ marginArgs s (dx (7 * 2 ^ 58)) = none) (fun s t => ended 0x0A 7 (db 0) stBadArg 0 s t ∧ seqTold s t)) ∧
  (Wt (.ffClear 7 (db 0)) (alone ∘ fl (fun f => { f with ff := some {} }) ∘ op) (fun s => T 0x0B (db 0) s) (fun s t => ended 0x0B 7 (db 0) 0 0 s t ∧
    (match s.flt.ff with | some f => decide (frameBefore f.f.det (s.clk.frame + 1) = true → t.flt.ff = none ∧ t.sca.rff = none) | none => decide (t.flt = s.flt) : Bool) ∧ t.flt.queue = s.flt.queue)) ∧
  (Wt (.ffClear 7 (db 0)) (alone ∘ fl (fun f => { f with ff := none }) ∘ op) (fun s => T 0x0B (db 0) s) (fun s t => ended 0x0B 7 (db 0) 0 0 s t ∧ t.flt = s.flt)) ∧
  (Wt (.sysrstRelease 7 (db 0)) (alone ∘ fl (fun f => { f with sysrst := true }) ∘ op) (fun s => T 0x0C (db 0) s) (fun s t => ended 0x0C 7 (db 0) 0 0 s t ∧ t.flt.sysrst = false ∧ t.flt.rstLeft = none)) := by
  refine ⟨?_, ?_, ?_, ?_, ?_, ?_, ?_, ?_⟩ <;> decide +kernel

theorem wit_RailAndStageCommands_b :
  (Wt (.sysrstRelease 7 (db 0)) (alone ∘ fl (fun f => { f with sysrst := false }) ∘ op) (fun s => T 0x0C (db 0) s) (fun s t => ended 0x0C 7 (db 0) stNotRunning 0 s t ∧ t.flt = s.flt)) ∧
  (Wt (.stageStart 7 (dx (3 + 2 ^ 5 * 500 + 2 ^ 22 * 77))) (alone ∘ op) (fun s => T 0x10 (dx (3 + 2 ^ 5 * 500 + 2 ^ 22 * 77)) s ∧ startSlew (dx (3 + 2 ^ 5 * 500 + 2 ^ 22 * 77)) = some 77 ∧ s.memberOk 0 = true)
 (fun s t => waits 0x10 7 (db 0) (.stage 3 false) s t ∧ t.seq.starts = s.seq.starts ++ [{ member := 0, stage := 3, vset := 500, slew := 77, wait := false, seq := s.nextSeq, cand := { since := s.clk.frame + 1 } }] ∧ t.stgs = s.stgs)) ∧
  (Wt (.stageStop 7 (db 2)) (alone ∘ sgw 2 (fun x => { x with st := .moving, switching := true }) ∘ op) (fun s => T 0x11 (db 2) s ∧ s.memberOk 0 = true ∧ 0 = s.index ∧ (s.stg 2).st.running = true)
 (fun s t => ended 0x11 7 (db 0) 0 0 s t ∧ (t.stg 2).st = .off ∧ (t.stg 2).switching = false ∧ oStg 2 s t)) ∧
  (Wt (.stageStop 7 (db 2)) (alone ∘ sgw 2 (fun x => { x with st := .hiccup }) ∘ op) (fun s => T 0x11 (db 2) s ∧ s.memberOk 0 = true ∧ 0 = s.index ∧ (s.stg 2).st.running = false)
 (fun s t => ended 0x11 7 (db 0) stAlready 0 s t ∧ t.stgs = s.stgs)) ∧
  (Wt (.stageClear 7 (db 2)) (alone ∘ sgw 2 (fun x => { x with st := .safeOff, dropped := 3, retryCnt := 2 }) ∘ op) (fun s => T 0x12 (db 2) s ∧ s.memberOk 0 = true ∧ 0 = s.index ∧ (s.stg 2).st = .safeOff)
 (fun s t => ended 0x12 7 (db 0) 0 0 s t ∧ (t.stg 2).st = .off ∧
      (t.stg 2).faulted = false ∧ (t.stg 2).dropped = 0 ∧ (t.stg 2).retryCnt = (s.stg 2).retryCnt ∧ ((List.range 8).all fun k => (t.phase (16 + k)).why = 0) ∧ oStg 2 s t)) ∧
  (Wt (.stageClear 7 (db 2)) (alone ∘ sgw 2 (fun x => { x with st := .regulated }) ∘ op) (fun s => T 0x12 (db 2) s ∧ s.memberOk 0 = true ∧ 0 = s.index ∧ (s.stg 2).st.running = true)
 (fun s t => ended 0x12 7 (db 0) stRefused 0 s t ∧ t.stgs = s.stgs)) ∧
  (Wt (.loopSetup 7 (dw true (2 ^ 97 * 3 + 2 ^ 96) [0x8380 + 2 ^ 32 * 9, 0x8384 + 2 ^ 32 * 8, 0x8380 + 2 ^ 32 * 10, 0x838C + 2 ^ 32 * 0xFFFFFFFF])) (alone ∘ op)
  (fun s => T 0x13 (dw true (2 ^ 97 * 3 + 2 ^ 96) [0x8380 + 2 ^ 32 * 9, 0x8384 + 2 ^ 32 * 8, 0x8380 + 2 ^ 32 * 10, 0x838C + 2 ^ 32 * 0xFFFFFFFF]) s ∧
    loopWrites (dw true (2 ^ 97 * 3 + 2 ^ 96) [0x8380 + 2 ^ 32 * 9, 0x8384 + 2 ^ 32 * 8, 0x8380 + 2 ^ 32 * 10, 0x838C + 2 ^ 32 * 0xFFFFFFFF]) s = some [(0x8380, 9), (0x8384, 8), (0x8380, 10), (0x838C, 0xFFFFFFFF)] ∧
    [0x8380, 0x8384, 0x838C].all fun o => loopOffset 3 o = true ∧ stageSetup o = none)
  (fun s t => ended 0x13 7 (db 0) 0 0 s t ∧ t.cw 0x8380 = merge (rwsMask 0x8380) (s.cw 0x8380) 10 ∧ t.bw 0x838C = merge (rwsMask 0x838C) (s.bw 0x838C) 0xFFFFFFFF ∧
    ((List.range 0x4000).all fun k => [0x8380, 0x8384, 0x838C].contains (4 * k) || t.cw (4 * k) = s.cw (4 * k) && t.bw (4 * k) = s.bw (4 * k)) ∧
    (List.range 28).all fun i => tget 0 t.coef (0x8200 + 0x80 * 3 + 4 * i) = t.cw (0x8200 + 0x80 * 3 + 4 * i))) ∧
  (Wt (.loopSetup 7 (dw true (2 ^ 97 * 2) [0x8100 + 2 ^ 32 * 9, 0x8104 + 2 ^ 32 * 8, 0x8304 + 2 ^ 32 * 10, 0x8484 + 2 ^ 32 * 0xFFFFFFFF])) (alone ∘ sgw 2 (fun x => { x with st := .off }) ∘ op)
  (fun s => T 0x13 (dw true (2 ^ 97 * 2) [0x8100 + 2 ^ 32 * 9, 0x8104 + 2 ^ 32 * 8, 0x8304 + 2 ^ 32 * 10, 0x8484 + 2 ^ 32 * 0xFFFFFFFF]) s ∧
    [0x8100, 0x8104, 0x8304, 0x8484].all fun o => loopOffset 2 o = true ∧ (match stageSetup o with | some st => !stageClosed s st | none => true : Bool))
  (fun s t => ended 0x13 7 (db 0) 0 0 s t ∧ t.cw 0x8100 = merge (rwsMask 0x8100) (s.cw 0x8100) 9 ∧ t.bw 0x8484 = merge (rwsMask 0x8484) (s.bw 0x8484) 0xFFFFFFFF ∧ t.coef = s.coef)) := by
  refine ⟨?_, ?_, ?_, ?_, ?_, ?_, ?_, ?_⟩ <;> decide +kernel

theorem wit_RailAndStageCommands_c :
  (Wh (.loopSetup 7 (dw false (2 ^ 99 * 2 + 2 ^ 97 * 3) [1200 + 2 ^ 32 * 1100, 900 + 2 ^ 32 * 500])) (alone ∘ reg 0x8180 0xB ∘ sgw 3 (fun x => { x with st := .off }) ∘ op)
  (fun s => T 0x13 (dw false (2 ^ 99 * 2 + 2 ^ 97 * 3) [1200 + 2 ^ 32 * 1100, 900 + 2 ^ 32 * 500]) s ∧ (dw false (2 ^ 99 * 2 + 2 ^ 97 * 3) [1200 + 2 ^ 32 * 1100, 900 + 2 ^ 32 * 500]).bufOk = true ∧ (dw false (2 ^ 99 * 2 + 2 ^ 97 * 3) [1200 + 2 ^ 32 * 1100, 900 + 2 ^ 32 * 500]).dmaOk = true ∧ (dw false (2 ^ 99 * 2 + 2 ^ 97 * 3) [1200 + 2 ^ 32 * 1100, 900 + 2 ^ 32 * 500]).expert = false ∧ (dw false (2 ^ 99 * 2 + 2 ^ 97 * 3) [1200 + 2 ^ 32 * 1100, 900 + 2 ^ 32 * 500]).arg 100 99 = 2 ∧ (dw false (2 ^ 99 * 2 + 2 ^ 97 * 3) [1200 + 2 ^ 32 * 1100, 900 + 2 ^ 32 * 500]).arg 98 97 = 3 ∧
    (dw false (2 ^ 99 * 2 + 2 ^ 97 * 3) [1200 + 2 ^ 32 * 1100, 900 + 2 ^ 32 * 500]).words32.take ((dw false (2 ^ 99 * 2 + 2 ^ 97 * 3) [1200 + 2 ^ 32 * 1100, 900 + 2 ^ 32 * 500]).len / 4) = [1200, 1100, 900, 500, 0, 0, 0, 0] ∧ stageClosed s 3 = false ∧ s.nph 3 = 6)
  (fun s t => ended 0x13 7 (db 0) 0 0 s t ∧ t.cb 0x8180 9 = true ∧ t.cf 0x8180 15 12 = 4 ∧ t.cf 0x8180 8 0 = 0xB ∧
    t.cf 0x8190 31 24 = 16 ∧ t.cf 0x8194 25 18 = 8 ∧ t.cf 0x8194 17 8 = s.cf 0x8194 17 8 ∧ t.cf 0x8198 15 0 = 500 ∧ t.cf 0x8198 23 16 = 3 ∧
    t.cf 0x819C 15 0 = 1200)) ∧
  (Wt (.capSet 7 (db 6553)) (alone ∘ op) (fun s => T 0x18 (db 6553) s) (fun s t => 
    waits 0x18 7 (db 0) .cap s t ∧ t.cf 0x6104 15 0 = 65530 ∧ t.cf 0x6104 31 16 = s.cf 0x6104 31 16 ∧
      (List.range 0x4000).all fun k => 4 * k = 0x6104 || t.cw (4 * k) = s.cw (4 * k))) ∧
  (Wt (.capSet 7 (dx (0xFFFF + 2 ^ 16 * 77))) (alone ∘ op) (fun s => T 0x18 (dx (0xFFFF + 2 ^ 16 * 77)) s) (fun s t => 
    waits 0x18 7 (db 0) .cap s t ∧ t.cf 0x6104 15 0 = 0xFFFF ∧ t.cf 0x6104 31 16 = s.cf 0x6104 31 16)) ∧
  (Wt (.capSet 7 (dx (0xFFFF + 2 ^ 16 * 77 + 2 ^ 32))) (alone ∘ op) (fun s => T 0x18 (dx (0xFFFF + 2 ^ 16 * 77 + 2 ^ 32)) s) (fun s t => 
    waits 0x18 7 (db 0) .cap s t ∧ t.cf 0x6104 15 0 = 0xFFFF ∧ t.cf 0x6104 31 16 = 77)) := by
  refine ⟨?_, ?_, ?_, ?_⟩ <;> decide +kernel

theorem wit_ConvCommands :
  (Wt (.convStart 7 (db 3)) (alone ∘ reg (entReg 3 63) 0x800 ∘ co 3 (fun k => { k with powered := true, lp := false, seqs := [] }) ∘ op) (fun s => T 0x20 (db 3) s ∧ entTrig (s.ent 3 63) = 2 ∧ s.seqBusy 3 2 = false)
 (fun s t => waits 0x20 7 (db 0) (.convSeq 3) s t ∧ t.seqBusy 3 2 = true)) ∧
  (Wt (.convStart 7 (db 3)) (alone ∘ co 3 (fun k => { k with powered := true, lp := false, seqs := [{ trig := 2, wait := [5] }] }) ∘ op) (fun s => T 0x20 (db 3) s ∧ s.seqBusy 3 2 = true)
 (fun s t => ended 0x20 7 (db 0) stBusy 0 s t ∧ t.cnv = s.cnv)) ∧
  (Wt (.convUrgent 7 (db (2 + 4 * 3))) (alone ∘ co 2 (fun k => { k with powered := true, lp := false, urgs := [] }) ∘ op) (fun s => T 0x21 (db 14) s)
 (fun s t => waits 0x21 7 (db 0) (.urgent 11) s t ∧ (t.urg 2 3).busy = true ∧ (t.core 2).urgLost = (s.core 2).urgLost)) ∧
  (Wt (.convUrgent 7 (db (2 + 4 * 3))) (alone ∘ co 2 (fun k => { k with powered := false }) ∘ op) (fun s => T 0x21 (db 14) s)
 (fun s t => ended 0x21 7 (db 0) stBusy 0 s t ∧ (t.core 2).urgLost = sat 0xFF ((s.core 2).urgLost + 1) ∧ Pending 0x77 t)) ∧
  (Wt (.convCalZero 7 (dx (2 ^ 3 * (2 ^ 32 - 5) + 2 ^ 40 * 9))) (alone ∘ (fun s => { s with cnv := { s.cnv with calState := 0 } }) ∘ reg (entReg 1 5) (0x400 + 9) ∘ op) (fun s => T 0x22 (bit0 false (dx (2 ^ 3 * (2 ^ 32 - 5) + 2 ^ 40 * 9))) s ∧ calChans (bit0 false (dx (2 ^ 3 * (2 ^ 32 - 5) + 2 ^ 40 * 9))) = some [9] ∧ calStartFail s false [9] = none)
 (fun s t => waits 0x22 7 (db 0) .cal s t ∧ t.cnv.calState = 1 ∧ t.cnv.calDone = 0 ∧
      t.cnv.cal = some { chans := [9], n := 16, e0 := -5, seq := s.nextSeq })) ∧
  (Wt (.convCalFull 7 (dx (2 ^ 3 * 700 + 2 * 2 + 2 ^ 40 * 9))) (alone ∘ (fun s => { s with nv := { s.nv with nvwp := false }, cnv := { s.cnv with calState := 2, cal := some { chans := [9], e0 := 5 } } }) ∘ reg (entReg 1 5) (0x400 + 9) ∘ op) (fun s => T 0x22 (bit0 true (dx (2 ^ 3 * 700 + 2 * 2 + 2 ^ 40 * 9))) s ∧ calChans (bit0 true (dx (2 ^ 3 * 700 + 2 * 2 + 2 ^ 40 * 9))) = some [9] ∧ calStartFail s true [9] = none)
 (fun s t => waits 0x22 7 (db 0) .cal s t ∧ t.cnv.calState = 3 ∧ t.cnv.calDone = 0 ∧
      t.cnv.cal = some { chans := [9], n := 256, e0 := 5, e1 := 700, seq := s.nextSeq })) ∧
  (Wt (.convCalZero 7 (dx (2 ^ 40 * 9))) (alone ∘ (fun s => { s with cnv := { s.cnv with calState := 1 } }) ∘ op) (fun s => T 0x22 (bit0 false (dx (2 ^ 40 * 9))) s ∧ (calStartFail s false [9]).isSome)
 (fun s t => ended 0x22 7 (db 0) (((calStartFail s false [9]).getD (0, 0)).1) 0 s t ∧ t.cnv.calState = s.cnv.calState ∧ Pending 0x7A t)) := by
  refine ⟨?_, ?_, ?_, ?_, ?_, ?_, ?_⟩ <;> decide +kernel

def im5 (p : Nat) : Image := { gen := 5, probation := p, onTable := [(800, 5)], offTable := [(0, 0x22 * 2 ^ 58)] }
def withIm (n : Nat) (im : Image) : State → State := nvw fun v => { v with images := tset none v.images n (some im) }
def gens (c p q : Nat) (b : Bool) : State → State := nvw fun v => { v with gen := { cur := c, prev := p, pend := q, prob := b }, at_ := none, jobs := [], nvwp := false }
def nobusy : State → State := sq (fun q => { q with progs := [] }) ∘ offw (fun o => { o with run := false })
theorem wit_ConfigCommands_a :
  (Wt (.configLoad 7 (dw true 0 [1])) (alone ∘ gens 4 3 0 false ∘ op) (fun s => T 0x28 (dw true 0 [1]) s ∧ (dw true 0 [1]).bufOk = true ∧ (dw true 0 [1]).dmaOk = true ∧ s.nv.nvwp = false ∧ genBusy s = false ∧ parseImage ((dw true 0 [1]).buf.take (dw true 0 [1]).len) = none)
 (fun s t => ended 0x28 7 (db 0) stBadArg 0 s t ∧ t.nv = s.nv)) ∧
  (Wt (.configLoad 7 (dw true 0 [1])) (alone ∘ nvw (fun v => { v with nvwp := true }) ∘ op) (fun s => T 0x28 (dw true 0 [1]) s ∧ s.nv.nvwp = true)
 (fun s t => ended 0x28 7 (db 0) stNvwp 0 s t ∧ Pending 0xC5 t ∧ t.cfg = s.cfg)) ∧
  (Wt (.configActivate 7 (db 5)) (alone ∘ gens 4 3 5 false ∘ withIm 5 (im5 600) ∘ nobusy ∘ op) (fun s => T 0x29 (db 5) s ∧ s.nv.nvwp = false ∧ genBusy s = false ∧ 5 ≠ s.nv.gen.cur ∧ (5 = s.nv.gen.pend ∨ 5 = s.nv.gen.prev) ∧ s.image 5 = some (im5 600) ∧ refusal (im5 600) s = none)
 (fun s t => waits 0x29 7 (db 0) (.config 5) s t ∧ t.nv.gen = genAfter s.nv.gen 5 true ∧ t.cfg = (withImage (im5 600) s).cfg ∧ t.nv.at_ = none ∧
      t.seq.onTable = (im5 600).onTable ∧ t.off.table = (im5 600).offTable)) ∧
  (Wt (.configActivate 7 (db 4)) (alone ∘ gens 4 3 5 false ∘ op) (fun s => T 0x29 (db 4) s ∧ s.nv.nvwp = false ∧ 4 = s.nv.gen.cur)
 (fun s t => ended 0x29 7 (db 0) stAlready 0 s t ∧ t.nv = s.nv ∧ t.cfg = s.cfg)) ∧
  (Wt (.configRevert 7 (dx (2 ^ 32 * 900000))) (alone ∘ gens 4 3 5 false ∘ op ∘ fun s => { s with clk := { s.clk with frame := 70 } }) (fun s => T 0x2A (dx (2 ^ 32 * 900000)) s ∧ s.nv.nvwp = false ∧ genBusy s = false ∧ s.nv.gen.prev ≠ 0 ∧ frameBefore (s.clk.frame + 1) 900000 = true)
 (fun s t => waits 0x2A 7 (db 0) (.config s.nv.gen.prev) s t ∧
      t.nv.at_ = some (900000, s.nv.gen.prev, 0, s.nextSeq, true) ∧ t.nv.gen = s.nv.gen ∧
      t.cfg = s.cfg)) ∧
  (Wt (.configRevert 7 (db 0)) (alone ∘ gens 4 0 5 false ∘ op) (fun s => T 0x2A (db 0) s ∧ s.nv.nvwp = false ∧ s.nv.gen.prev = 0)
 (fun s t => ended 0x2A 7 (db 0) stNotRunning 0 s t ∧ t.nv = s.nv)) ∧
  (Wt (.configCapture 7 (db 0)) (alone ∘ gens 4 3 5 false ∘ op) (fun s => T 0x2B (db 0) s ∧ s.nv.nvwp = false ∧ genBusy s = false)
 (fun s t => waits 0x2B 7 (db 0) (.config 6) s t ∧ t.nv.gen = { s.nv.gen with pend := 6 } ∧ (t.image t.nv.gen.pend).isSome = true ∧ t.cfg = s.cfg)) ∧
  (Wt (.configConfirm 7 (db 0)) (alone ∘ gens 4 3 5 true ∘ nvw (fun v => { v with prob := some 88, revertDue := false }) ∘ op) (fun s => T 0x2C (db 0) s ∧ s.nv.prob.isSome = true)
 (fun s t => waits 0x2C 7 (db 0) (.config s.nv.gen.cur) s t ∧ t.nv.prob = none ∧ t.nv.revertDue = false ∧
      t.nv.gen = { s.nv.gen with prob := false } ∧ Pending 0xC8 t ∧ t.cfg = s.cfg)) := by
  refine ⟨?_, ?_, ?_, ?_, ?_, ?_, ?_, ?_⟩ <;> decide +kernel

theorem wit_ConfigCommands_b :
  Wt (.configConfirm 7 (db 0)) (alone ∘ nvw (fun v => { v with prob := none }) ∘ op) (fun s => T 0x2C (db 0) s ∧ s.nv.prob = none)
 (fun s t => ended 0x2C 7 (db 0) stNotRunning 0 s t ∧ t.nv = s.nv) := by decide +kernel

theorem wit_Generations :
  (Wt .configActivateAtFrame (nvw (fun v => { v with at_ := some (33, 5, 60, 9, false) }) ∘ gens 4 3 5 false ∘ withIm 5 (im5 600) ∘ nobusy ∘ op) (fun s => s.image 5 = some (im5 600) ∧ refusal (im5 600) s = none ∧ s.nv.at_ = some (33, 5, 60, 9, false))
 (fun s t => t.nv.at_ = none ∧ t.nv.gen = genAfter s.nv.gen 5 true ∧ t.nv.prob = (some (15625 * 60)) ∧ t.cfg = (withImage (im5 600) s).cfg ∧
      t.bar0 = (withImage (im5 600) s).bar0 ∧ t.seq.onTable = (im5 600).onTable ∧ t.seq.mirror = (im5 600).onTable ∧ t.off.table = (im5 600).offTable)) ∧
  (Wt .configActivateAtFrame (pg 3 (fun p => { p with state := 1 }) ∘ nvw (fun v => { v with at_ := some (33, 5, 60, 9, false) }) ∘ gens 4 3 5 false ∘ withIm 5 (im5 600) ∘ op) (fun s => s.image 5 = some (im5 600) ∧ (refusal (im5 600) s).isSome = true ∧ s.nv.at_ = some (33, 5, 60, 9, false))
 (fun s t => t.nv = { s.nv with at_ := none } ∧ t.liveOf 9 = none ∧ t.cfg = s.cfg ∧
      t = { s with nv := t.nv, hst := t.hst, jrn := { s.jrn with finals := t.jrn.finals } })) ∧
  (Wt .configProbationExpiry (gens 4 3 5 true ∘ nvw (fun v => { v with prob := some 1, revertDue := false })) (fun s => s.nv.prob.isSome = true ∧ s.nv.revertDue = false)
 (fun s t => t.nv.prob = none ∧ t.nv.gen = { s.nv.gen with prob := false } ∧ Pending 0xC8 t ∧ t.cfg = s.cfg ∧ t.jrn = s.jrn)) ∧
  (Wt .configAutoRevert (gens 4 3 5 true ∘ nvw (fun v => { v with prob := some 1, revertDue := true }) ∘ withIm 3 (im5 0) ∘ nobusy) (fun s => s.nv.prob.isSome = true ∧ s.nv.revertDue = true ∧ seqBusy s = false ∧ s.image s.nv.gen.prev = some (im5 0))
 (fun s t => t.nv.prob = none ∧
      t.nv.gen = { s.nv.gen with cur := s.nv.gen.prev, prev := s.nv.gen.cur, prob := false } ∧
      t.cfg = (withImage (im5 0) s).cfg ∧ t.seq.onTable = (im5 0).onTable ∧ Pending 0xC6 t ∧ t.jrn.head = s.nextSeq ∧
      (t.jEntry s.nextSeq).any fun e => e.opcode = 0x84 ∧ e.src = 2 ∧ e.result = s.nv.gen.prev % 2 ^ 32 ∧ e.status = 0)) ∧
  (Wt .calPhaseDone (fun s => { s with cnv := { s.cnv with calState := 1, cal := some { chans := [7], n := 16, acc := [(7, (40, 16))], seq := 9 } } }) (fun s => s.cnv.calState = 1)
 (fun s t => t.cnv.calState = 2 ∧ t.cnv.calResult = 1 ∧ t.liveOf 9 = none ∧
      (t.cnv.cal.any fun x => x.acc = [] ∧ x.stale = false ∧ x.chans = [7] ∧ x.n = 16) ∧ t.nv = s.nv)) ∧
  (Wh .calPhaseDone (fun s => { s with nv := { s.nv with gen := {} }, cnv := { s.cnv with calState := 3, cal := some { chans := [7], n := 16, acc := [(7, (16 * 30000, 16))], c0 := [(7, 100)], e0 := 0, e1 := 1000, seq := 9 } } }) (fun s => s.cnv.calState = 3 ∧ (s.cnv.cal.any fun r => (calFail r).isNone) = true)
 (fun s t => t.cnv.calState = 0 ∧ t.cnv.calResult = 1 ∧ t.cnv.cal = none ∧ Pending 0x79 t ∧
      t.nv.gen.cur = s.nv.gen.cur + 1 ∧ t.nv.gen.prev = s.nv.gen.cur ∧ t.nv.gen.prob = false)) := by
  refine ⟨?_, ?_, ?_, ?_, ?_, ?_⟩ <;> decide +kernel

theorem wit_ReadAndStoreCommands_a :
  (Wt (.journalRead 7 (dw false (2 ^ 160 * 2 + 2 ^ 96 * (2 ^ 64 - 1)) [0, 0, 0, 0, 0, 0, 0, 0])) (alone ∘ op) (fun s => T 0x30 (dw false (2 ^ 160 * 2 + 2 ^ 96 * (2 ^ 64 - 1)) [0, 0, 0, 0, 0, 0, 0, 0]) s ∧ (dw false (2 ^ 160 * 2 + 2 ^ 96 * (2 ^ 64 - 1)) [0, 0, 0, 0, 0, 0, 0, 0]).len = 64)
 (fun s t => isBuf t ((List.range 2).flatMap fun k => leBytes 32 (journalAt t ((2 ^ 64 - 1 + k) % 2 ^ 64)).1.bits) ∧
  (ended 0x30 7 (db 0) 0 0 s t ∨ ended 0x30 7 (db 0) 0 1 s t ∨ ended 0x30 7 (db 0) 0 2 s t))) ∧
  (Wt (.journalRead 7 { dw false (2 ^ 160 * 1) [0] with dmaOk := false }) (alone ∘ op) (fun s => T 0x30 { dw false (2 ^ 160 * 1) [0] with dmaOk := false } s ∧ ({ dw false (2 ^ 160 * 1) [0] with dmaOk := false } : Desc).bufOk = true)
 (fun s t => ended 0x30 7 (db 0) stDma 0 s t)) ∧
  (Wt (.alogRead 7 (dw false (2 ^ 128 * 2 + 2 ^ 96 * 3) [0, 0, 0, 0, 0, 0, 0, 0])) (alone ∘ op ∘ fun s => { s with drt := { s.drt with head := 4 } }) (fun s => T 0x31 (dw false (2 ^ 128 * 2 + 2 ^ 96 * 3) [0, 0, 0, 0, 0, 0, 0, 0]) s)
 (fun s t => isBuf t ((List.range 2).flatMap fun k =>
        leBytes 32 ((alogAt s (3 + k)).elim 0 alogBits)) ∧
      ended 0x31 7 (db 0) 0 ((List.range 2).filter fun k => (alogAt s (3 + k)).isSome).length s t)) ∧
  (Wt (.countersRead 7 (dw false (2 ^ 103 * 1 + 2 ^ 96 * 95) [0])) (alone ∘ op) (fun s => T 0x32 (dw false (2 ^ 103 * 1 + 2 ^ 96 * 95) [0]) s)
 (fun s t => isBuf t ((countersOf s 95).flatMap (leBytes 4) ++ leBytes 8 95) ∧
      ended 0x32 7 (db 0) 0 0 s t)) ∧
  (Wt (.stateRead 7 (dw false 0 (List.replicate 136 0))) (alone ∘ op) (fun s => T 0x33 (dw false 0 (List.replicate 136 0)) s)
 (fun s t => isBuf t ((stateWords { t with clk := { t.clk with frame := s.clk.frame + 1 } }).flatMap (leBytes 4)) ∧
      ended 0x33 7 (db 0) 0 0 s t)) ∧
  (Wt (.recRead 7 (dw false (2 ^ 128 * 1 + 2 ^ 96 * 3) (List.replicate 32 0))) (alone ∘ op) (fun s => T 0x38 (dw false (2 ^ 128 * 1 + 2 ^ 96 * 3) (List.replicate 32 0)) s)
 (fun s t => isBuf t ((recordAt s 3).getD (List.replicate 256 0)) ∧
      ended 0x38 7 (db 0) 0 (if (recordAt s 3).isSome then 1 else 0) s t)) ∧
  (Wt (.tagRead 7 (dw false (2 ^ 96 * 2016) [0])) (alone ∘ op) (fun s => T 0x3D (dw false (2 ^ 96 * 2016) [0]) s ∧ tagOk (dw false (2 ^ 96 * 2016) [0]) = true)
 (fun s t => isBuf t (slice (tagBytes s) 2016 32) ∧
      ended 0x3D 7 (db 0) 0 0 s t)) ∧
  (Wt (.recFreeze 7 (db 0)) (alone ∘ rc (fun r => { r with frozen := false, clearing := none }) ∘ op) (fun s => T 0x39 (bit0 true (db 0)) s ∧ s.recd.clearing = none ∧ s.recd.frozen = false)
 (fun s t => ended 0x39 7 (db 0) 0 0 s t ∧ t.recd.frozen = true ∧
      t.recd.frzLeft = 15625 * orDef (s.cf 0xB800 19 8) 1 ∧ t.recd.suppressed = 0 ∧ t.recd.summ = none ∧
      t.recd.buf = s.recd.buf)) := by
  refine ⟨?_, ?_, ?_, ?_, ?_, ?_, ?_, ?_⟩ <;> decide +kernel

theorem wit_ReadAndStoreCommands_b :
  (Wt (.recFreeze 7 (db 0)) (alone ∘ rc (fun r => { r with frozen := true, clearing := none }) ∘ op) (fun s => T 0x39 (bit0 true (db 0)) s ∧ s.recd.clearing = none ∧ s.recd.frozen = true)
 (fun s t => ended 0x39 7 (db 0) stAlready 0 s t ∧ t.recd = s.recd)) ∧
  (Wt (.recFreeze 7 (db 0)) (alone ∘ rc (fun r => { r with clearing := some (5, {}) }) ∘ op) (fun s => T 0x39 (bit0 true (db 0)) s ∧ s.recd.clearing.isSome)
 (fun s t => ended 0x39 7 (db 0) stBusy 0 s t ∧ t.recd = s.recd)) ∧
  (Wt (.recThaw 7 (db 0)) (alone ∘ rc (fun r => { r with frozen := true, summ := some {} }) ∘ op) (fun s => T 0x39 (bit0 false (db 0)) s ∧ s.recd.frozen = true ∧ s.recd.summ.isSome = true)
 (fun s t => ended 0x39 7 (db 0) 0 0 s t ∧ t.recd.frozen = false ∧ t.recd.summ = none ∧ Pending 0xCB t)) ∧
  (Wt (.recThaw 7 (db 0)) (alone ∘ rc (fun r => { r with frozen := false }) ∘ op) (fun s => T 0x39 (bit0 false (db 0)) s ∧ s.recd.frozen = false)
 (fun s t => ended 0x39 7 (db 0) stNotRunning 0 s t ∧ t.recd = s.recd)) ∧
  (Wh (.recChallenge 7 (db 0)) (alone ∘ rc (fun r => { r with locked := false }) ∘ op) (fun s => T 0x3A (db 0) s ∧ s.recd.locked = false)
 (fun s t => ended 0x3A 7 (db 0) 0 (Config.random 64 s.fw.draws).toNat s t ∧
      t.recd.nonce = some (Config.random 64 s.fw.draws, s.recd.next, 2 ^ 20) ∧ t.fw.draws = s.fw.draws + 1)) ∧
  (Wt (.recChallenge 7 (db 0)) (alone ∘ rc (fun r => { r with locked := true }) ∘ op) (fun s => T 0x3A (db 0) s ∧ s.recd.locked = true)
 (fun s t => ended 0x3A 7 (db 0) stRefused 0 s t ∧ t.recd = s.recd)) ∧
  (Wt (.recClear 7 (db 0)) (alone ∘ nvw (fun v => { v with nvwp := false }) ∘ rc (fun r => { r with frozen := false, clearing := none, nonce := none, fails := 7, clears := [] }) ∘ op) (fun s => T 0x3B (db 0) s ∧ clearAllowed s (db 0) = false ∧ s.recd.fails = 7)
 (fun s t => t.recd.nonce = none ∧ ended 0x3B 7 (db 0) stAuth 0 s t ∧ t.recd.fails = 8 ∧
        Pending 0xCD t ∧ t.recd.locked = true)) ∧
  (Wt (.recClear 7 (db 0)) (alone ∘ rc (fun r => { r with frozen := true }) ∘ op) (fun s => T 0x3B (db 0) s ∧ s.recd.frozen = true)
 (fun s t => ended 0x3B 7 (db 0) stBusy 0 s t ∧ t.recd = s.recd)) := by
  refine ⟨?_, ?_, ?_, ?_, ?_, ?_, ?_, ?_⟩ <;> decide +kernel

theorem wit_ReadAndStoreCommands_c :
  (Wt (.tagWrite 7 (dw false (2 ^ 96 * 2016) [3, 4])) (alone ∘ nvw (fun v => { v with nvwp := false }) ∘ op) (fun s => T 0x3C (dw false (2 ^ 96 * 2016) [3, 4]) s ∧ tagOk (dw false (2 ^ 96 * 2016) [3, 4]) = true)
 (fun s t => waits 0x3C 7 (db 0) (.store s.nextSeq) s t ∧ t.nv.tag = s.nv.tag ∧
      t.nv.jobs.any fun j => j.seq = s.nextSeq ∧ j.use = .tag ((tagBytes s).take 2016 ++ (dw false (2 ^ 96 * 2016) [3, 4]).buf.take 32 ++
        (tagBytes s).drop 2048))) ∧
  (Wt (.tagWrite 7 (dw false (2 ^ 96 * 2016) [3, 4])) (alone ∘ nvw (fun v => { v with nvwp := true }) ∘ op) (fun s => T 0x3C (dw false (2 ^ 96 * 2016) [3, 4]) s ∧ s.nv.nvwp = true)
 (fun s t => ended 0x3C 7 (db 0) stNvwp 0 s t ∧ Pending 0xC5 t ∧ t.nv.tag = s.nv.tag ∧ t.nv.jobs = s.nv.jobs)) ∧
  (Wt (.pairHandover 7 (db 0)) (solo ∘ pr (fun p => { p with role := 1, up := true, toQ := none, toT := none }) ∘ op) (fun s => T 0x40 (db 0) s ∧ s.pair.role = 1 ∧ s.pair.up = true ∧ s.pair.toQ = none ∧ s.pair.toT = none)
 (fun s t => waits 0x40 7 (db 0) .handover s t ∧
      t.pair.toQ = some (32 * cdiv ((s.clk.frame + 1).toNat + 2) 32) ∧ t.pair.hoSeq = some s.nextSeq)) ∧
  (Wt (.pairHandover 7 (db 0)) (solo ∘ pr (fun p => { p with role := 1, up := false }) ∘ op) (fun s => T 0x40 (db 0) s ∧ s.pair.up = false)
 (fun s t => ended 0x40 7 (db 0) stRefused 0 s t ∧ t.pair = s.pair)) := by
  refine ⟨?_, ?_, ?_, ?_⟩ <;> decide +kernel

/-- The stack's master or a member with index 2 of a stack of members 0, 1 and 2. -/
def stk (role : Nat) (m : Bool) : State → State := reg 0x4008 (role + 4 * 2 + 32 * 7 + if m then 2 ^ 13 else 0) ∘ sc fun x => { x with stkMember := false }
theorem wit_PortsAndDiscardedFrames_a :
  (Wt (.portSeek 2) (ports ∘ pt 2 (fun p => { p with st := 0 })) (fun s => s.portRole 2 ≠ 0 ∧ (s.port 2).st = 0)
 (fun s t => t.port 2 = { s.port 2 with st := 1, age := 0 } ∧ oPt 2 s t ∧ t = { s with sca := t.sca })) ∧
  (Wt (.portLock 3 true) (ports ∘ pt 3 (fun p => { p with st := 1 })) (fun s => (s.port 3).st = 1)
 (fun s t => t.port 3 = { s.port 3 with st := 2, age := 0, rxInv := true } ∧ oPt 3 s t ∧ t = { s with sca := t.sca })) ∧
  (Wt (.portIdent 0) (pt 0 (fun p => { p with st := 2 })) (fun s => (s.port 0).st = 2) (fun s t => t.port 0 = { s.port 0 with st := 3, age := 0 } ∧ oPt 0 s t)) ∧
  (Wt (.portUp 2 0x1005 1 40 70000 true 0 1) (ports ∘ pt 2 (fun p => { p with st := 3 })) (fun s => (s.port 2).st = 3 ∧ peerOk 2 (s.portRole 2) 1 = true)
 (fun s t => (t.port 2).st = 4 ∧ (t.port 2).peer = 5 ∧ (t.port 2).delay = 0xFFFF ∧ oPt 2 s t)) ∧
  (Wt (.portUp 2 5 2 40 7 true 0 1) (ports ∘ pt 2 (fun p => { p with st := 3 })) (fun s => (s.port 2).st = 3 ∧ peerOk 2 (s.portRole 2) 2 = false)
 (fun _ t => (t.port 2).st = 3 ∧ Pending 0xA6 t)) ∧
  (Wt (.portRetrain 3) (pt 3 (fun p => { p with st := 4, retrains := 0xFFFF })) (fun s => (s.port 3).st ≠ 0)
 (fun s t => (t.port 3).st = 0 ∧ (t.port 3).retrains = 0xFFFF ∧ (t.port 3).syncs = 0 ∧ Pending 0xA3 t ∧ oPt 3 s t)) ∧
  (Wt (.portRetrain 0) (pt 0 (fun p => { p with st := 1, retrains := 4 })) (fun s => (s.port 0).st ≠ 0)
 (fun s t => (t.port 0).st = 0 ∧ (t.port 0).retrains = 5 ∧ (t.port 0).syncs = 0 ∧ Pending 0xA0 t ∧ oPt 0 s t)) ∧
  (Wt (.electFrame { fr 1 7 with hdrOk := false }) (pt 1 (fun p => { p with st := 2 })) (fun s => (s.port 1).st < 3) (fun s t => t = s)) := by
  refine ⟨?_, ?_, ?_, ?_, ?_, ?_, ?_, ?_⟩ <;> decide +kernel

theorem wit_PortsAndDiscardedFrames_b :
  (Wt (.electFrame { fr 1 7 with hdrOk := false }) (pt 1 (fun p => { p with st := 3 })) (fun s => 3 ≤ (s.port 1).st)
 (fun s t => (t.port 1).hdrErr = sat 0xFFFF ((s.port 1).hdrErr + 1) ∧ (t.port 1).st = (s.port 1).st ∧
   oPt 1 s t ∧ t = { s with sca := { s.sca with ports := t.sca.ports } })) ∧
  (Wt (.capFrame { fr 1 7 with chk := wcCheck 4 } 9) (pt 1 (fun p => { p with st := 4 })) (fun s => 3 ≤ (s.port 1).st ∧ wcDecode 7 (wcCheck 4) = .uncorrectable)
 (fun s t => (t.port 1).discard = sat 0xFFFF ((s.port 1).discard + 1) ∧ t.cfg = s.cfg ∧ t.clk = s.clk ∧
        t.pair = s.pair ∧ t.jrn = s.jrn ∧ t.dmp = s.dmp ∧ t.flt = s.flt)) ∧
  (Wt (.mirrorFrame { fr 3 7 with chk := wcCheck 4 } 1 0 1 []) (pt 3 (fun p => { p with st := 4 })) (fun s => 3 ≤ (s.port 3).st)
 (fun s t => (t.port 3).discard = sat 0xFFFF ((s.port 3).discard + 1) ∧ t.cfg = s.cfg ∧ t.clk = s.clk ∧
        t.pair = s.pair ∧ t.jrn = s.jrn ∧ t.dmp = s.dmp ∧ t.flt = s.flt)) := by
  refine ⟨?_, ?_, ?_⟩ <;> decide +kernel

theorem wit_TimeAndElection_a :
  (Wt (.syncFrame { f := fr 1 0, err := -7, frame := 900, master := true }) (ports ∘ pt 1 (fun p => { p with st := 4, syncs := 63 }) ∘ sc (fun x => { x with src := 1 }) ∘ fun s => { s with clk := { s.clk with frame := 800 } })
 (fun s => Received (fr 1 0) s ∧ isSource s 1 = true ∧ s.portGroup 1 = 1 ∧ frameBefore s.clk.frame 900 = true)
 (fun s t => (t.port 1).syncs = 64 ∧ t.clk.frame = s.clk.frame ∧ t.clk.alignErr = -7 ∧ t.sca.syncAge = 0 ∧ t.clk.load = some (801, 901))) ∧
  (Wt (.syncFrame { f := fr 2 0, err := -7, frame := 700, master := true }) (ports ∘ pt 2 (fun p => { p with st := 4, syncs := 64 }) ∘ sc (fun x => { x with src := 1 }) ∘ fun s => { s with clk := { s.clk with frame := 800 } })
 (fun s => Received (fr 2 0) s ∧ frameBefore s.clk.frame 700 = false)
 (fun s t => (t.port 2).syncs = 64 ∧ t.clk.frame = s.clk.frame ∧ t.clk.load = s.clk.load)) ∧
  (Wt (.electFrame (fr 1 7)) (ports ∘ reg 0x9000 9 ∘ pt 1 (fun p => { p with st := 4 }) ∘ sc (fun x => { x with rowElect := some 8 })) (fun s => Received (fr 1 7) s ∧ s.portGroup 1 = 1 ∧ electId (fr 1 7) = 7 ∧ s.node = 9)
 (fun s t => t.sca.rowElect = some 7 ∧ t.sca.rowTicks = 0 ∧ t.sca.rowBack = false ∧ t.clk = s.clk)) ∧
  (Wt (.electionWin true) (ports ∘ pt 1 (fun p => { p with st := 4 }) ∘ sc (fun x => { x with cand := true })) (fun s => s.sca.cand = true ∧ s.groupUp 1 = true)
 (fun s t => t.sca.isMaster = true ∧ t.sca.hasMaster = true ∧ t.sca.master = s.node ∧ t.sca.syncAge = 0 ∧ t.sca.holdLeft = none)) ∧
  (Wt (.memberFrame (fr 1 7)) (ports ∘ pt 1 (fun p => { p with st := 4 })) (fun s => Received (fr 1 7) s ∧ s.portGroup 1 = 1)
 (fun s t => t.sca.master = 5 ∧ t.sca.hasMaster = true ∧ (t.sca.isMaster = true ↔ 5 = s.node) ∧ t.sca.syncAge = 0 ∧ t.sca.holdLeft = none)) ∧
  (Wt .rowMasterLoss (sc (fun x => { x with hasMaster := true, isMaster := false })) (fun _ => true)
 (fun s t => t.sca.hasMaster = false ∧ t.sca.holdLeft = some (s.cf 0x9058 19 12) ∧ Pending 0xA9 t ∧ t.dmp = s.dmp)) ∧
  (Wt .rowCapHoldExpiry (sc (fun x => { x with holdLeft := some 0 })) (fun _ => true)
 (fun s t => t.sca.holdLeft = none ∧ t.dmp.rowCap = some (s.cf 0x9064 15 0) ∧ t = { s with sca := t.sca, dmp := { s.dmp with rowCap := t.dmp.rowCap } })) ∧
  (Wt (.frameCounterLoad 900) (fun s => { s with clk := { s.clk with frame := 800 } }) (fun _ => true) (fun s t => t = { s with clk := { s.clk with load := some (801, 900) } })) := by
  refine ⟨?_, ?_, ?_, ?_, ?_, ?_, ?_, ?_⟩ <;> decide +kernel

theorem wit_TimeAndElection_b :
  (Wt .stackCommandLoss ((fun s => { s with clk := { s.clk with frame := 800, load := some (801, 900) } }) ∘ fww fun f => { f with h := none }) (fun s => s.clk.load = some (s.clk.frame + 1, 900) ∧ s.fw.h = none ∧ frameBefore (s.clk.frame + 1) 900 = true)
 (fun s _ => (order1 s).clk.frame = 900 ∧ (order1 s).clk.load = none ∧
    Pending 0x12 (order1 s) ∧ (order1 s).jrn.head = s.nextSeq ∧ ((order1 s).jEntry s.nextSeq).any fun e => e.opcode = 0x82 ∧ e.frame = 900)) ∧
  (Wt .stackCommandLoss ((fun s => { s with clk := { s.clk with frame := 799, load := some (800, 800) } }) ∘ fww fun f => { f with h := none }) (fun s => s.clk.load = some (s.clk.frame + 1, 800) ∧ s.fw.h = none ∧ frameBefore (s.clk.frame + 1) 800 = false)
 (fun s _ => (order1 s).clk.frame = 800 ∧ (order1 s).clk.load = none ∧ (order1 s).jrn = s.jrn)) := by
  refine ⟨?_, ?_⟩ <;> decide +kernel

theorem wit_StackRing_a :
  (Wt (.statusFrame (fr 2 (2 ^ 8 * 0xABCD)) 7) (ports ∘ stk 2 false ∘ pt 2 (fun p => { p with st := 4 })) (fun s => Received (fr 2 (2 ^ 8 * 0xABCD)) s ∧ s.portGroup 2 = 2 ∧ s.role ≠ 1)
 (fun s t => t.sca.joined.testBit 7 = true ∧ tget none t.drt.memberTherm 7 = some 0xABCD ∧ (7 = s.sca.elected → t.sca.stkAge = 0) ∧ t.rails = s.rails)) ∧
  (Wt (.cmdFrame (fr 2 (2 ^ 16 * 0x8202 + 2 * 1))) (ports ∘ stk 2 false ∘ pt 2 (fun p => { p with st := 4 }) ∘ sc (fun x => { x with alone := false })) (fun s => Received (fr 2 (2 ^ 16 * 0x8202 + 2 * 1)) s ∧ s.role = 2 ∧ s.sca.alone = false)
 (fun s t => t.sca.rx = s.sca.rx ++ (((cmdRecords 15 ((List.range 1).map fun k =>
      nbits (payload (fr 2 (2 ^ 16 * 0x8202 + 2 * 1))) (16 + 16 * k + 15) (16 + 16 * k))).filter fun r => r.dest = s.index).map fun r => (2, r)) ∧ t.sca.stkAge = s.sca.stkAge ∧ t.rails = s.rails)) ∧
  (Wt (.cmdFrame (fr 2 (2 ^ 16 * 0x8202 + 2 * 1 + 1))) (ports ∘ stk 2 false ∘ pt 2 (fun p => { p with st := 4 }) ∘ sc (fun x => { x with alone := false })) (fun s => Received (fr 2 (2 ^ 16 * 0x8202 + 2 * 1 + 1)) s ∧ s.role = 2 ∧ s.sca.alone = false)
 (fun s t => t.sca.rx = s.sca.rx ++ (((cmdRecords 15 ((List.range 1).map fun k =>
      nbits (payload (fr 2 (2 ^ 16 * 0x8202 + 2 * 1 + 1))) (16 + 16 * k + 15) (16 + 16 * k))).filter fun r => r.dest = s.index && !s.sca.rx.contains (1, r)).map fun r => (1, r)) ∧ t.rails = s.rails)) ∧
  (Wt .stackCommandLoss (stk 2 false) (fun s => s.role = 2) (fun s t => t.sca.cmdLoss = 32 ∧ Pending 0xAC t ∧ EventsOnly { s with sca := t.sca } t)) ∧
  (Wt (.relayFrame (fr 2 0) (some (db 3)) (none, 12)) (ports ∘ stk 2 false ∘ pt 2 (fun p => { p with st := 4 })) (fun s => Received (fr 2 0) s ∧ s.portGroup 2 = 2 ∧ s.role = 2)
 (fun s t => t.jrn.head = s.nextSeq ∧ t.hst.live.dropLast = s.hst.live ∧ t.hst.decided.dropLast = s.hst.decided ∧ t.hst.live.getLast? = t.hst.decided.getLast? ∧
   t.hst.live.length = s.hst.live.length + 1 ∧ t.hst.decided.length = s.hst.decided.length + 1 ∧ t.hst.live.getLast?.any fun l => l.seq = s.nextSeq ∧ l.relayed = true ∧ l.d = db 3)) ∧
  (Wt (.stackMemberLoss 3) (stk 2 false) (fun s => s.role = 2 ∧ s.cb 0x4008 13 = false) (fun s t => t.sca.alone = true ∧ t.sca.rx = [] ∧ Pending 0x42 t ∧ t.off = s.off)) ∧
  (Wt (.stackMemberLoss 7) (stk 1 false) (fun s => s.role = 1 ∧ s.index = 2) (fun s t => t.sca.lostMembers.testBit 7 = true ∧ Pending 0x42 t ∧ t.off = s.off)) ∧
  (Wt .classSyncTimeout (offw (fun o => { o with run := true, sync := some 3 })) (fun s => s.off.run = true ∧ s.off.sync.isSome = true) (fun _ t => t.off.sync = none ∧ Pending 0x41 t)) := by
  refine ⟨?_, ?_, ?_, ?_, ?_, ?_, ?_, ?_⟩ <;> decide +kernel

theorem wit_StackRing_b :
  Wt .stackJoinTimeout (stk 1 false ∘ sc (fun x => { x with joinStack := some 4, joined := 2 })) (fun s => s.role = 1 ∧ s.sca.joinStack.isSome = true ∧ (s.cf 0x4008 12 5).testBit 0 = true)
 (fun s t => t.sca.joinStack = none ∧ Pending 0xB0 t ∧ (List.range 8).all fun m => !((s.cf 0x4008 12 5).testBit m && m ≠ s.index && !s.sca.joined.testBit m) || t.sca.lostMembers.testBit m) := by decide +kernel

theorem wit_RowFrames :
  (Wt (.rowstatFrame (fr 0 3) 70000 65537 true true 11 2) (ports ∘ pt 0 (fun p => { p with st := 4 }) ∘ sc (fun x => { x with seen := [], isMaster := true })) (fun s => Received (fr 0 3) s ∧ FirstCopy 13 (fr 0 3) s ∧ s.sca.isMaster = true)
 (fun s t => (t.rnode 5).valid = true ∧ (t.rnode 5).demand = 4464 ∧ (t.rnode 5).floor = 1 ∧ (t.rnode 5).inloss = true ∧
      (t.rnode 5).ready = true ∧ (t.rnode 5).level = 3 ∧ (List.range 50).all fun n => n = 5 || t.rnode n = s.rnode n)) ∧
  (Wt (.capFrame { fr 0 3 with bcast := false } 70000) (ports ∘ reg 0x9000 9 ∘ pt 0 (fun p => { p with st := 4 }) ∘ sc (fun x => { x with seen := [], member := true, refused := 0 })) (fun s => Received (fr 0 3) s ∧ s.node = 9)
 (fun s t => t.dmp.rowCap = some 4464 ∧ t.sca.holdLeft = none ∧ t.dmp.level = s.dmp.level)) ∧
  (Wt (.capFrame (fr 0 3) 9) (ports ∘ pt 0 (fun p => { p with st := 4 }) ∘ sc (fun x => { x with seen := [], refused := 2 })) (fun s => Received (fr 0 3) s ∧ s.sca.refused ≠ 0) (fun s t => t.dmp = s.dmp)) ∧
  (Wt (.faultFrame (fr 0 3) { frame := 9, frac := 8 } 0x1005 1030 9 false) (ports ∘ pt 0 (fun p => { p with st := 4 }) ∘ sc (fun x => { x with seen := [], rff := none })) (fun s => Received (fr 0 3) s ∧ s.sca.rff = none)
 (fun s t => t.sca.rff = some { ts := { frame := 9, frac := 8 }, node := 5, grail := 6, kind := 1, unaligned := true } ∧ t.flt = s.flt)) ∧
  (Wt .faultBroadcast (fl (fun f => { f with ff := some {} }) ∘ sc (fun x => { x with bcast := 3 })) (fun s => s.sca.bcast = 3) (fun s t => t.sca.bcast = 2 ∧ t.flt = s.flt)) ∧
  (Wt (.eventFrame (fr 0 3) {}) (ports ∘ pt 0 (fun p => { p with st := 4 }) ∘ sc (fun x => { x with seen := [], isMaster := true })) (fun s => Received (fr 0 3) s)
 (fun _ t => Pending 0xAB t ∧ t.sca.seen.contains (5, 14, 3) = true)) ∧
  (Wt (.telemFrame (fr 1 3)) (ports ∘ pt 1 (fun p => { p with st := 4 }) ∘ sc (fun x => { x with seen := [] })) (fun s => Received (fr 1 3) s)
 (fun s t => t.sca.seen.contains (5, 15, 3) = true ∧ t = { s with sca := t.sca })) ∧
  (Wt (.telemFrame (fr 1 3)) (ports ∘ pt 1 (fun p => { p with st := 4 }) ∘ sc (fun x => { x with seen := [(5, 15, 3)] })) (fun s => Received (fr 1 3) s)
 (fun s t => t.sca.seen = s.sca.seen ∧ t = { s with sca := t.sca })) := by
  refine ⟨?_, ?_, ?_, ?_, ?_, ?_, ?_, ?_⟩ <;> decide +kernel

theorem wit_RedundantPair_a :
  (Wt (.pairEnFrame (fr 3 (2 ^ 192 * 0x81 + 2 ^ 95 + 5))) (ports ∘ pt 3 (fun p => { p with st := 4 }) ∘ pr (fun p => { p with role := 2 })) (fun s => Received (fr 3 (2 ^ 192 * 0x81 + 2 ^ 95 + 5)) s ∧ s.portGroup 3 = 3 ∧ s.pair.role = 2)
 (fun s t => t.pair.got = true ∧ t.pair.miss = 0 ∧ t.pair.up = true ∧ t.pair.hbMiss = 0x81 ∧
      t.pair.vecs.contains (2, BitVec.ofNat 96 (2 ^ 95 + 5)) ∧ t.pair.role = 2)) ∧
  (Wt .xrstOutRelease (pr (fun p => { p with xrstOut := some 4 })) (fun _ => true) (fun s t => t = { s with pair := { s.pair with xrstOut := none } })) ∧
  (Wt .shadowReset (pr (fun p => { p with role := 1, xrstOut := none })) (fun _ => true)
 (fun s t => t.pair.xrstOut = some (orDef (s.cf 0xE000 22 15) 1) ∧ Pending 0xAE t ∧ EventsOnly { s with pair := t.pair } t)) ∧
  (Wt (.journalFrame (fr 3 (2 ^ 112 * 9 + 2 ^ 64 * 77 + 4100))) (ports ∘ pt 3 (fun p => { p with st := 4 }) ∘ pr (fun p => { p with role := 2 })) (fun s => Received (fr 3 (2 ^ 112 * 9 + 2 ^ 64 * 77 + 4100)) s)
 (fun s t => t.jEntry 4100 = some (jOfBits (2 ^ 112 * 9 + 2 ^ 64 * 77 + 4100)) ∧ t.jrn.head = max 4100 s.jrn.head ∧
      (t.port 3).txq.any fun x => x.kind = 9 ∧ x.dst = some s.pair.partner ∧ x.payload = 4100)) ∧
  (Wt (.jackFrame (fr 3 0) 9) (pt 3 (fun p => { p with st := 4 }) ∘ pr (fun p => { p with unacked := [(8, 3), (9, 2)] })) (fun s => Received (fr 3 0) s)
 (fun s t => t.pair.unacked = [(8, 3)] ∧ t.jrn = s.jrn)) ∧
  (Wt .journalResend (pr (fun p => { p with unacked := [(8, 3), (9, 2)] }) ∘ fun s => { s with jrn := { s.jrn with sram := [(8, some { seq := 8 }), (9, some { seq := 9 })], head := 9, base := 8 } }) (fun s => s.jEntry 8 = some { seq := 8 })
 (fun s t => ((t.port 3).txq.any fun x => x.kind = 8 ∧ x.dst = some s.pair.partner ∧ x.payload = BitVec.ofNat 256 (({ seq := 8 } : JEntry).bits)) ∧ t.pair.unacked.contains (8, 0) ∧ t.pair.unacked.map (·.1) = [8, 9] ∧
      t = { s with pair := { s.pair with unacked := t.pair.unacked }, sca := t.sca })) ∧
  (Wt (.mirrorFrame (fr 3 0) (2 ^ 32 + 6) 0 1 [.trim 3 4]) (pt 3 (fun p => { p with st := 4 }) ∘ pr (fun p => { p with role := 2, arriving := none })) (fun s => Received (fr 3 0) s)
 (fun _ t => t.pair.adopted = true ∧ t.pair.arriving = none ∧ t.pair.snap = 6 ∧ t.pair.held = [.trim 3 4])) ∧
  (Wt .handoverQuietPoint (pr (fun p => { p with role := 1, toQ := some 64 })) (fun _ => true) (fun s t => t.pair.quiet = true ∧
    t.pair.toQ = none ∧ t.pair.toT = some (s.now + 32) ∧ t.pair.role = 1)) := by
  refine ⟨?_, ?_, ?_, ?_, ?_, ?_, ?_, ?_⟩ <;> decide +kernel

theorem wit_RedundantPair_b :
  (Wt .handoverTakeover (pr (fun p => { p with role := 1, toT := some 64, hoSeq := some 9 }) ∘ sgw 1 (fun x => { x with st := .regulated })) (fun s => (s.stg 1).st ≠ .unused) (fun s t => 
    t.pair.role = 2 ∧ t.pair.quiet = false ∧ t.pair.toT = none ∧ t.pair.lastCause = 3 ∧ t.liveOf 9 = none ∧
      (List.range 4).all fun st => (s.stg st).st = .unused || (t.stg st).st = .held)) ∧
  (Wt .pairLinkLoss (solo ∘ pr (fun p => { p with role := 2 })) (fun s => s.role = 0) (fun s t => t.pair.role = 1 ∧ t.pair.lastCause = 1 ∧
    t.pair.takeovers = sat 0xFFFF (s.pair.takeovers + 1) ∧ t.pair.xrstOut = some (orDef (s.cf 0xE000 22 15) 1) ∧
      t.jrn.head = (if s.jrn.head = 0 then 2 ^ 32 else (s.jrn.head / 2 ^ 32 + 1) * 2 ^ 32) ∧ Pending 0xAD t ∧ Pending 0xAE t)) ∧
  (Wt .pairHeartbeatTakeover (solo ∘ pr (fun p => { p with role := 2 }) ∘ fun s => { s with jrn := { s.jrn with head := 5 } }) (fun s => s.role = 0) (fun s t => t.pair.role = 1 ∧ t.pair.lastCause = 2 ∧
    t.pair.takeovers = sat 0xFFFF (s.pair.takeovers + 1) ∧ t.pair.xrstOut = some (orDef (s.cf 0xE000 22 15) 1) ∧
      t.jrn.head = 2 ^ 32 ∧ Pending 0xAD t ∧ Pending 0xAE t)) ∧
  (Wt .pairAlone (reg 0xE000 1 ∘ pr (fun p => { p with role := 0 }) ∘ pt 3 (fun p => { p with st := 2 })) (fun s => s.cb 0xE000 0 = true) (fun s t => t.pair.role = 1 ∧ t.sca.joinPair = none ∧ Pending 0xB1 t)) := by
  refine ⟨?_, ?_, ?_, ?_⟩ <;> decide +kernel

/-- A body of 544 bytes: a manifest of six empty components. -/
def goodBody : List Byte := leBytes 2 6 ++ leBytes 2 416 ++ List.replicate 28 0 ++ ([1, 2, 3, 4, 5, 7].flatMap fun t => leBytes 4 t ++ leBytes 12 0 ++ sha256 [] ++ List.replicate 16 0) ++ List.replicate 128 9
/-- The staged words programmed, in both banks. -/
def stagedGood (s : State) : State := nvw (fun v => { v with flash := ((List.range 32).map fun k => (k, some (wcEncode 0))) ++ ((List.range 32).map fun k => (32768 + k, some (wcEncode 0))) }) s
theorem wit_FlashWrites_a :
  (Wt (.flashProgramDone true) (free ∘ nvw (fun v => { v with tail := none, jobs := [{ use := .tag [1], left := 2, begun := true, seq := 8, at_ := 0x1FC00 }] })) (fun s => pickJob s s.nv.jobs = some ({ use := .tag [1], left := 2, begun := true, seq := 8, at_ := 0x1FC00 }, []) ∧ (jobWord s { use := .tag [1], left := 2, begun := true, seq := 8, at_ := 0x1FC00 }).isSome)
 (fun s t => t.nv.jobs = [{ use := .tag [1], left := 1, begun := true, seq := 8, at_ := 0x1FC00 }] ∧ 
   (match jobWord s { use := .tag [1], left := 2, begun := true, seq := 8, at_ := 0x1FC00 } with | some w => decide (t.flashRaw 0x1FC40 = (if s.flashRaw 0x1FC40 = erasedWord then wcEncode w else s.flashRaw 0x1FC40)) | none => false : Bool) ∧
   t = { s with nv := { s.nv with jobs := t.nv.jobs, flash := t.nv.flash, badAt := t.nv.badAt, armed := t.nv.armed } })) ∧
  (Wh (.flashProgramDone true) (free ∘ nvw (fun v => { v with tail := none, jobs := [{ use := .tag [1], left := 1, begun := true, seq := 8 }] })) (fun s => (pickJob s s.nv.jobs).isSome)
 (fun s t => t.nv.tag = [1] ∧ t.nv.jobs.length = 1 ∧ t.nv.jobs.head?.any fun x => x.use = .tag [1] ∧ x.twinB = true ∧ x.left = 66 ∧ x.seq = 8)) ∧
  (Wh (.flashProgramDone true) (free ∘ nvw (fun v => { v with tail := none, jobs := [{ use := .tag [1], left := 1, begun := true, seq := 8, twinB := true }, { left := 3 }] }) ∘ hs fun h => { h with live := [{ seq := 8, ring := 7, d := db 0 }] }) (fun s => (s.liveOf 8).isSome = true ∧ ((pickJob s s.nv.jobs).any fun p => p.1.twinB) = true)
 (fun s t => t.liveOf 8 = none ∧ t.nv.tag = s.nv.tag ∧ t.nv.jobs.length = 1 ∧ t.hst.ready.any fun c => c.seq = 8 ∧ c.status = 0 ∧ c.final = true)) ∧
  (Wt (.flashProgramDone false) (free ∘ nvw (fun v => { v with tail := none, jobs := [{ use := .tag [1], left := 1, begun := true, seq := 8, twinB := true }, { left := 3 }] })) (fun s => ((pickJob s s.nv.jobs).any fun p => p.1.twinB) = true)
 (fun s t => Pending 0xC1 t ∧ t.nv.tag = s.nv.tag ∧ t.nv.jobs.length = 2 ∧ t.nv.jobs.head?.any fun x => x.use = .tag [1] ∧ x.twinB = false ∧ x.left = 66 ∧ x.rseq = s.nv.rseq)) ∧
  (Wt .flashEraseDone (nvw (fun v => { v with erases := [(70, .mirror), (71, .slot)], jobs := [], wear := [(70, 79999)] })) (fun _ => true)
 (fun s t => t.nv.erases = [(71, .slot)] ∧ t.nv.mirrorRoom = true ∧ tget 0 t.nv.wear 70 = 80000 ∧ Pending 0xC4 t)) ∧
  (Wt .flashEraseDone (nvw (fun v => { v with erases := [(70, .mirror)], jobs := [], wear := [(70, 79998)] })) (fun _ => true)
 (fun s t => t.nv.erases = [] ∧ t.nv.mirrorRoom = true ∧ tget 0 t.nv.wear 70 = 79999 ∧ t.evt = s.evt)) ∧
  (Wt (.counterRingUpdate 95) (rl 95 (fun r => { r with delta := [(0, 1)], cnt := [(0, 9)] }) ∘ free ∘ nvw (fun v => { v with cAge := [], cgroups := [] })) (fun s => (s.rail 95).delta ≠ [] ∧ tget 0 (s.cgrp 11).used 7 < 16 ∧ bgFree s 0 = true)
 (fun s t => tget ([], 0) t.nv.counters 95 = (countersOf s 95, s.nv.rseq) ∧
      t.nv.rseq = s.nv.rseq + 1 ∧ (t.rail 95).delta = [] ∧ (t.rail 95).cnt = (s.rail 95).cnt ∧ tget 256 t.nv.cAge 95 = 0 ∧
      others 95 s t ∧ t.evt = s.evt)) ∧
  (Wt .marginSweepStart (nvw (fun v => { v with sweep := false })) (fun _ => true)
 (fun s t => t.nv.sweep = true ∧ t.nv.sweepPos = 0 ∧ t.nv.sweepBegan = some s.clk.frame ∧ t = { s with nv := t.nv })) := by
  refine ⟨?_, ?_, ?_, ?_, ?_, ?_, ?_, ?_⟩ <;> decide +kernel

theorem wit_FlashWrites_b :
  (Wt (.sweepStep [] []) (free ∘ nvw (fun v => { v with sweep := true, sweepPos := 256 * 510 + 3 })) (fun s => bgFree s 5 = true)
 (fun s t => t = { s with nv := { s.nv with sweepPos := 256 * 511 } })) ∧
  (Wt (.sweepStep [] []) (free ∘ nvw (fun v => { v with sweep := true, sweepPos := 256 * 511 })) (fun s => bgFree s 5 = true)
 (fun s t => t = { s with nv := { s.nv with sweep := false, sweepPos := 0, sweeps := sat 0xFFFF (s.nv.sweeps + 1) } })) := by
  refine ⟨?_, ?_⟩ <;> decide +kernel

theorem wit_Recorder_a :
  (Wh .recordImageMake (rc (fun r => { r with queue := [(40, { src := 0x42, sev := 3 })], frozen := false, hold := [], buf := [] }) ∘ reg (0xB000 + 4 * 0x42) 0x1200 ∘ eng 3 50) (fun s => tget 0 s.recd.hold 0x42 = 0)
 (fun s t => t.recd.queue = [] ∧ t.recd.next = s.recd.next + 1 ∧
      tget 0 t.recd.hold 0x42 = s.cf (0xB000 + 4 * 0x42) 15 8 ∧ tget 0 t.recd.absorbed 0x42 = 0 ∧
      t.recd.flush = true ∧ t.recd.buf.length = 1 ∧ (t.recd.buf.head?.any fun im => im.rnum = s.recd.next ∧ im.src = 0x42 ∧
        im.sev = 3 ∧ im.ts = {} ∧ im.count = sat 0xFFFF (tget 0 s.recd.absorbed 0x42 + 1) ∧
        im.snapFrame = s.clk.frame) ∧ t = { s with recd := t.recd, wc := { s.wc with err := t.wc.err, bad := t.wc.bad } })) ∧
  (Wt .recordImageMake (rc (fun r => { r with queue := [(40, { src := 0x42, sev := 1 })], frozen := true, summ := none, buf := [{ rnum := 3 }] }) ∘ eng 3 50) (fun _ => true)
 (fun s t => t.recd.queue = [] ∧ t.recd.summ.isSome = true ∧ t.recd.buf.dropLast = s.recd.buf ∧ t.recd.next = s.recd.next + 1 ∧
      (t.recd.buf.getLast?.any fun im => im.rnum = s.recd.next ∧ im.src = 0xCB ∧ im.summary = true ∧ im.count = 1) ∧
      t.recd.suppressed = sat 0xFFFF (s.recd.suppressed + 1) ∧ t.recd.highest = max s.recd.highest 1 ∧
      t = { s with recd := t.recd, wc := { s.wc with err := t.wc.err, bad := t.wc.bad } })) ∧
  (Wt .recordImageMake (rc (fun r => { r with queue := [(40, { src := 0x42, sev := 1 })], frozen := true, summ := some { rnum := 3 }, buf := [{ rnum := 3 }, { rnum := 4 }] }) ∘ eng 3 50) (fun _ => true)
 (fun s t => t.recd.queue = [] ∧ t.recd.summ.isSome = true ∧ t.recd.buf.map (·.rnum) = [3, 4] ∧ t.recd.next = s.recd.next ∧
      t.recd.suppressed = sat 0xFFFF (s.recd.suppressed + 1) ∧ t.recd.highest = max s.recd.highest 1 ∧
      t = { s with recd := t.recd, wc := { s.wc with err := t.wc.err, bad := t.wc.bad } })) ∧
  (Wt (.holdoffExpiry 255) (rc (fun r => { r with hold := [(254, 3), (255, 1)] })) (fun _ => true)
 (fun s t => t = { s with recd := { s.recd with hold := [(254, 3)] } })) ∧
  (Wt .recorderFlush (rc (fun r => { r with frozen := false, buf := [{ rnum := 7, src := 3, sev := 2 }], flushing := [], sects := [], opened := [], reserve := [2, 3] })) (fun s => (placeRecord { rnum := 7, src := 3, sev := 2 } s).1 = true)
 (fun s t => t.recd.flush = true ∧ t.recd.flushing = [7] ∧ t.recd.buf = s.recd.buf ∧
      t.nv.jobs.any fun j => j.use = .record { rnum := 7, src := 3, sev := 2 } ∧ j.rseq = s.nv.rseq)) ∧
  (Wt .recorderFlush (rc (fun r => { r with frozen := false, buf := [{ rnum := 7, src := 3, sev := 2 }], flushing := [] })) (fun s => (placeRecord { rnum := 7, src := 3, sev := 2 } s).1 = true)
 (fun s t => t.recd.flush = true ∧ t.recd.flushing = [7] ∧ t.recd.buf = s.recd.buf ∧
      t.nv.jobs.any fun j => j.use = .record { rnum := 7, src := 3, sev := 2 } ∧ j.rseq = s.nv.rseq)) ∧
  (Wt .recorderFlush (rc (fun r => { r with frozen := true })) (fun _ => true) (fun s t => t = s)) ∧
  (Wt .freezeTimeout (rc (fun r => { r with frozen := true, summ := some {} })) (fun _ => true) (fun s t => t.recd.frozen = false ∧ t.recd.summ = none ∧
    t.recd.frzLeft = 0 ∧ Pending 0xCB t)) := by
  refine ⟨?_, ?_, ?_, ?_, ?_, ?_, ?_, ?_⟩ <;> decide +kernel

theorem wit_Recorder_b :
  (Wt .nonceExpiry (rc (fun r => { r with nonce := some (5, 7, 0) })) (fun _ => true) (fun s t => t = { s with recd := { s.recd with nonce := none } })) ∧
  (Wt .clearCommit (rc (fun r => { r with clearing := some (8, { rnum := 9, clear := true, extra := 2 ^ 32 * 6 }), queue := [], buf := [{ rnum := 6 }, { rnum := 7 }] })) (fun _ => true)
 (fun s t => 
    t.recd.clearing = none ∧ t.recd.clears = s.recd.clears ++ [{ rnum := 9, clear := true, extra := 2 ^ 32 * 6 }] ∧ t.recd.ash = 0 ∧
      t.recd.erasing = some 6 ∧ t.recd.buf = [{ rnum := 7 }] ∧ t.liveOf 8 = none ∧ Pending 0xCC t)) ∧
  (Wt .clearErasure (rc (fun r => { r with erasing := some 6, sects := [(3, some { slots := [{ img := { rnum := 6 } }] }), (4, some { slots := [{ img := { rnum := 7 } }] })] })) (fun _ => true)
 (fun s t => tget none t.recd.sects 3 = none ∧ (0x2C0000 / 8192 + 3, .recorder) ∈ t.nv.erases ∧ t.recd.erasing = some 6 ∧ (tget none t.recd.sects 4).isSome)) ∧
  (Wt .clearErasure (rc (fun r => { r with erasing := some 6, sects := [(4, some { slots := [{ img := { rnum := 7 } }] })] }) ∘ nvw fun v => { v with erases := [(70, .mirror)] }) (fun _ => true)
 (fun s t => t = { s with recd := { s.recd with erasing := none } })) := by
  refine ⟨?_, ?_, ?_, ?_⟩ <;> decide +kernel

theorem wit_FluePort_a :
  (Wt (.flueData (fq 3 9 4 [])) (fww (fun f => { f with busy := true, discard := 0xFFFF }) ∘ op) (fun s => flueOn s = true) (fun s t => t = s)) ∧
  (Wt (.keyProgram { fq 9 9 4 [] with crc := 5 } true) (flu (some {})) (fun s => reqCrc 9 { fq 9 9 4 [] with crc := 5 } ≠ 5)
 (fun s t => Answered 9 flBadPacket [] t ∧ t.fw.crcErr = sat 0xFFFF (s.fw.crcErr + 1) ∧ t.fw.sess = s.fw.sess ∧
      t.fw.lastStatus = flBadPacket ∧ t.fw.lastCmd = 9 ∧ t.fw.state = s.fw.state ∧ t = { s with fw := t.fw })) ∧
  (Wh (.flueOpen (fq 1 9 4 [0, 0, 0, 0])) (flu none) (fun s => FlueTakes 1 (fq 1 9 4 [0, 0, 0, 0]) (· = 4) (fun _ => true) s ∧ s.fw.sess = none)
 (fun s t => Answered 9 flOk (leBytes 4 (Config.random 32 s.fw.draws).toNat) t ∧
      t.fw.sess = some { id := (Config.random 32 s.fw.draws).toNat } ∧ t.fw.draws = s.fw.draws + 1 ∧ t = { s with fw := t.fw })) ∧
  (Wt (.flueOpen (fq 1 9 4 [0, 0, 0, 0])) (flu (some {})) (fun s => FlueTakes 1 (fq 1 9 4 [0, 0, 0, 0]) (· = 4) (fun _ => true) s ∧ s.fw.sess.isSome = true)
 (fun s t => Answered 9 flBusy [] t ∧ t = { s with fw := t.fw })) ∧
  (Wt .flueRead (fww (fun f => { f with resp := some [1, 2] }) ∘ flu none) (fun s => flueOn s = true) (fun s t =>
    t.fw.resp = none ∧ t.out = .flue [1, 2] :: s.out ∧ t = { s with fw := t.fw, out := t.out })) ∧
  (Wt .flueRead (fww (fun f => { f with busy := true }) ∘ flu none) (fun s => flueOn s = true) (fun s t => t = { s with out := .flue (flPacket flNotReady 0 []) :: s.out })) ∧
  (Wt (.flueStatus (fq 7 9 4 [])) (flu none) (fun s => FlueTakes 7 (fq 7 9 4 []) (· = 0) (fun _ => true) s)
 (fun s t => (t.fw.resp.any fun b => b.length = 32 ∧ b = flPacket flOk 9 (slice b 8 20)) ∧ t.fw.busy = false ∧ t = { s with fw := t.fw })) ∧
  (Wt (.flueClose (fq 8 9 4 [])) (flu (some { id := 4 })) (fun s => FlueTakes 8 (fq 8 9 4 []) (· = 0) (fun _ => true) s)
 (fun s t => t.fw.sess = none ∧ Answered 9 flOk [] t ∧ t = { s with fw := t.fw })) := by
  refine ⟨?_, ?_, ?_, ?_, ?_, ?_, ?_, ?_⟩ <;> decide +kernel

theorem wit_FluePort_b :
  (Wt .flueSessionLapse (flu (some { id := 4, keep := false })) (fun s => (s.fw.sess.any fun x => !x.keep) = true) (fun s t => t.fw.sess = none ∧ Pending 0xE0 t ∧ EventsOnly { s with fw := t.fw } t)) ∧
  (Wt .flueSessionLapse (flu (some { id := 4, keep := true })) (fun s => (s.fw.sess.any fun x => x.keep) = true) (fun s t => t = s)) ∧
  (Wt (.keyProgram (fq 9 9 4 (List.replicate 32 7)) true) (rc (fun r => { r with key := some 5 }) ∘ flu (some { id := 4 })) (fun s => FlueTakes 9 (fq 9 9 4 (List.replicate 32 7)) (· = 32) (· = 1) s ∧ (clearKey s).isSome = true)
 (fun s t => Answered 9 flKeySet [] t ∧ t.recd.key = s.recd.key)) := by
  refine ⟨?_, ?_, ?_⟩ <;> decide +kernel

theorem wit_Download_a :
  (Wt (.flueHeader (fq 2 9 4 (List.replicate 256 0)) false) (flu (some { id := 4 })) (fun s => FlueTakes 2 (fq 2 9 4 (List.replicate 256 0)) (· = 256) (· = 1) s ∧ hdrFail (List.replicate 256 0) s = some flMagic)
 (fun s t => Answered 9 flMagic [] t ∧ Pending 0xE1 t ∧ t.fw.state = s.fw.state)) ∧
  (Wt (.flueData (fq 3 9 4 (leBytes 4 512 ++ List.replicate 512 3))) (flu (some { id := 4, st := 3, hdr := { bodySize := 1024 }, body := List.replicate 512 8 })) (fun s => FlueTakes 3 (fq 3 9 4 (leBytes 4 512 ++ List.replicate 512 3)) (within 36 516) (within 2 3) s)
 (fun s t => t.fw.busy = true ∧ t.fw.resp = none ∧
      (t.fw.sess.any fun y => y.body = List.replicate 512 8 ++ List.replicate 512 3 ∧ y.busy = true ∧ y.tag = 9 ∧ y.st = 3) ∧
      t = { s with fw := t.fw })) ∧
  (Wt (.flueData (fq 3 9 4 (leBytes 4 512 ++ List.replicate 32 3))) (flu (some { id := 4, st := 3, hdr := { bodySize := 1024 }, body := [1] })) (fun s => FlueTakes 3 (fq 3 9 4 (leBytes 4 512 ++ List.replicate 32 3)) (within 36 516) (within 2 3) s)
 (fun s t => Answered 9 flOffset [] t ∧ Pending 0xE2 t ∧ t.fw.sess.any fun y => y.body = [1])) ∧
  (Wh .dataProgrammed (free ∘ flu (some { id := 4, st := 3, tag := 8, busy := true, last := some (512, List.replicate 32 7) })) (fun s => (s.fw.sess.any fun x => x.busy) = true ∧ bgFree s 4 = true)
 (fun s t => Answered 8 flOk [] t ∧ t.fw.sess = some { id := 4, st := 3, tag := 8, busy := false, last := some (512, List.replicate 32 7) } ∧ t = { s with fw := t.fw, nv := { s.nv with flash := t.nv.flash, badAt := t.nv.badAt } })) ∧
  (Wt .dataProgrammed ((fun s => { s with drt := { s.drt with bg := 0 } }) ∘ flu (some { id := 4, st := 3, tag := 8, busy := true })) (fun s => bgFree s 4 = false) (fun s t => t = s)) ∧
  (Wt (.flueVerify (fq 4 9 4 []) [(32768, 3), (0, 3)]) (stagedGood ∘ flu (some { id := 4, st := 3 })) (fun s => FlueTakes 4 (fq 4 9 4 []) (· = 0) (· = 3) s ∧ (verifyFails { id := 4, st := 3 } (!(stagedBad { id := 4, st := 3 } (upset (0x18, 0, 3) (upset (0x18, 32768, 3) s))).isEmpty) (upset (0x18, 0, 3) (upset (0x18, 32768, 3) s))).isSome = true)
 (fun s t => Pending 0xE2 t ∧ t.fw.lastStatus = flDigest ∧ t.fw.sess.any fun y => y.st = 1 ∧ y.body = [])) ∧
  (Wt (.flueVerify (fq 4 9 4 []) []) (flu (some { id := 4, st := 3, body := [1] })) (fun s => FlueTakes 4 (fq 4 9 4 []) (· = 0) (· = 3) s)
 (fun s t => Answered 9 flBadState [] t)) ∧
  (Wt (.flueVerify (fq 4 9 4 []) []) (stagedGood ∘ reg 0x4000 0 ∘ flu (some { id := 4, st := 3, hdr := { bytes := List.replicate 24 0 ++ sha256 goodBody ++ List.replicate 200 0, bodySize := goodBody.length, cfgMax := 99 }, body := goodBody })) (fun s => FlueTakes 4 (fq 4 9 4 []) (· = 0) (· = 3) s ∧ (s.fw.sess.all fun x => verifyFails x (!(stagedBad x s).isEmpty) s = none))
 (fun s t => Answered 9 flOk (sha256 (manifest goodBody)) t ∧
        t.fw.sess.any fun y => y.st = 4 ∧ y.mdig = sha256 (manifest goodBody) ∧ y.body = goodBody)) := by
  refine ⟨?_, ?_, ?_, ?_, ?_, ?_, ?_, ?_⟩ <;> decide +kernel

theorem wit_Download_b :
  (Wt (.flueActivate (fq 5 9 4 (leBytes 6 0 ++ leBytes 2 3600)) true false) (solo ∘ pr (fun p => { p with role := 0 }) ∘ nvw (fun v => { v with nvwp := false }) ∘ flu (some { id := 4, st := 4 })) (fun s => FlueTakes 5 (fq 5 9 4 (leBytes 6 0 ++ leBytes 2 3600)) (· = 8) (· = 4) s)
 (fun s t => t.fw.busy = true ∧ t.fw.arming = true ∧ t.fw.state.phase = 1 ∧
      t.fw.state.window = 3600 ∧ t.fw.other = some (fwImage {} []) ∧
      (t.fw.sess.any fun y => y.st = 5 ∧ y.tag = 9) ∧ t.nv.jobs.any fun j => j.use = .fwState t.fw.state)) ∧
  (Wt (.flueActivate (fq 5 9 4 (leBytes 6 0 ++ leBytes 2 3600)) false false) (solo ∘ pr (fun p => { p with role := 0 }) ∘ nvw (fun v => { v with nvwp := false }) ∘ flu (some { id := 4, st := 4 })) (fun s => FlueTakes 5 (fq 5 9 4 (leBytes 6 0 ++ leBytes 2 3600)) (· = 8) (· = 4) s)
 (fun s t => Answered 9 flComponent [] t ∧ Pending 0xE3 t ∧ t.fw.state = s.fw.state)) := by
  refine ⟨?_, ?_⟩ <;> decide +kernel

theorem wit_FirmwareHandover :
  (Wt (.firmwareHandover [0, 5, 8]) (fww fun f => { f with h := some 77, other := some { version := 3 } }) (fun _ => true) (fun s t => t.fw.h = none ∧
    t.fw.hover = 77 ∧ t.fw.run = { version := 3 } ∧ t.fw.other = some s.fw.run ∧ t.fw.runBank = !s.fw.runBank ∧ t.fw.finishing = true ∧
      t.fw.xferring = [0, 5, 8].filter (engUsed s) ∧ t.rails = s.rails ∧ t.seq = s.seq ∧ t.stgs = s.stgs ∧ t.cfg = s.cfg)) ∧
  (Wt .handoverComplete (fww fun f => { f with finishing := true, reverse := false, run := { version := 2 ^ 31 + 5 } }) (fun _ => true) (fun s t => t.fw.finishing = false ∧
    t.fw.state = { s.fw.state with phase := 2 } ∧ t.fw.left.isSome = true ∧ Pending 0xE4 t ∧ t.jrn.head = s.nextSeq ∧
      (t.jEntry s.nextSeq).any fun e => e.opcode = 0x87 ∧ e.persist = true ∧ e.result = s.fw.run.version % 2 ^ 32)) ∧
  (Wt .handoverComplete (fww fun f => { f with finishing := true, reverse := true }) (fun _ => true) (fun s t => t.fw.finishing = false ∧
    t.fw.state.phase = 0 ∧ t.fw.reverse = false ∧ t.fw.left = none ∧ t.fw.other = none ∧ Pending 0xE8 t ∧
      t.jrn.head = s.nextSeq)) ∧
  (Wt (.flueConfirm (fq 6 9 4 []) false) (fww (fun f => { f with state := { f.state with phase := 2 } }) ∘ pr (fun p => { p with role := 0 }) ∘ flu (some { id := 4 })) (fun s => FlueTakes 6 (fq 6 9 4 []) (· = 0) (fun _ => true) s ∧ onProbation s = true)
 (fun s t => t.fw.busy = true ∧ t.fw.confirm = some 9 ∧ t.fw.left = none ∧
      t.fw.state.phase = 0 ∧ t.fw.state.prevValid = true ∧ t.fw.state.confBank = s.fw.runBank ∧
      t.fw.state.confVersion = s.fw.state.candVersion)) ∧
  (Wt (.flueConfirm (fq 6 9 4 []) false) (fww (fun f => { f with state := { f.state with phase := 0 } }) ∘ flu (some { id := 4 })) (fun s => FlueTakes 6 (fq 6 9 4 []) (· = 0) (fun _ => true) s ∧ onProbation s = false)
 (fun s t => Answered 9 flBadState [] t ∧ t.fw.state = s.fw.state)) ∧
  (Wt .firmwareProbationExpiry (fww (fun f => { f with state := { f.state with phase := 2 }, run := { rev := List.replicate 8 2000 } }) ∘ flu none) (fun s => onProbation s = true ∧ chooseH s s.fw.run.rev (s.clk.frame + 1) = none)
 (fun s t => t.fw.left = some 1 ∧ t.fw.h = none ∧ t = { s with fw := t.fw })) ∧
  (Wt .firmwareProbationExpiry (fww (fun f => { f with state := { f.state with phase := 2 }, run := { rev := [] } }) ∘ flu none) (fun s => onProbation s = true ∧ (chooseH s s.fw.run.rev (s.clk.frame + 1)).isSome = true)
 (fun s t => t.fw.h = chooseH s s.fw.run.rev (s.clk.frame + 1) ∧ t.fw.reverse = true ∧ t.fw.left = none ∧ t = { s with fw := t.fw })) := by
  refine ⟨?_, ?_, ?_, ?_, ?_, ?_, ?_⟩ <;> decide +kernel

def live : State → State := pw fun p => { p with phase := .reset }
theorem wit_FrameCounter :
  (Wt .pd0PowerUp id (fun _ => true) (fun _ t => t.clk.frame = 0)) ∧
  (Wt (.frameBoundary {}) (op ∘ fun s => { s with clk := { s.clk with load := none } }) (fun _ => true) (fun s t => t.clk.frame = s.clk.frame + 1)) ∧
  (Wt (.frameBoundary {}) (live ∘ fun s => { s with clk := { s.clk with load := some (9, 7), frame := BitVec.ofNat 48 (2 ^ 48 - 1) } }) (fun _ => true) (fun s t => t.clk.frame = 0)) ∧
  (Wt (.frameBoundary {}) (op ∘ fun s => { s with clk := { s.clk with load := some (9, 70), frame := 8 } }) (fun _ => true) (fun s t => t.clk.frame = 70)) ∧
  (Wt (.frameBoundary {}) (op ∘ fun s => { s with clk := { s.clk with load := some (9, 3), frame := 8 } }) (fun _ => true) (fun s t => t.clk.frame = 9)) ∧
  (Wt (.frameBoundary {}) (pw fun p => { p with phase := .dead }) (fun _ => true) (fun s t => t = s)) ∧
  (Wt (.watchTickBoundary {}) (op ∘ fun s => { s with clk := { s.clk with frame := 32 } }) (fun _ => true) (fun s t => t = s)) ∧
  (Wt (.watchTickBoundary {}) (op ∘ fun s => { s with clk := { s.clk with frame := 31, load := none } }) (fun _ => true) (fun s t => t.clk.frame = 32 ∧ after (.frameBoundary {}) s = t)) := by
  refine ⟨?_, ?_, ?_, ?_, ?_, ?_, ?_, ?_⟩ <;> decide +kernel

/-! ## Witnesses of the statements that speak of no single command -/

/-- R22, R23: one bit and two bits inverted, at both ends of the word and of the check bits. -/
theorem wit_WordCode : wcDecode 0 (wcCheck 0) = .clean ∧ wcDecode (0 ^^^ BitVec.ofNat 256 (2 ^ 255)) (wcCheck 0) = .corrected 255 ∧
    wcDecode (0 ^^^ BitVec.ofNat 256 (2 ^ 0)) (wcCheck 0) = .corrected 0 ∧
    wcDecode 0 (wcCheck 0 ^^^ BitVec.ofNat 10 (2 ^ 9)) = .corrected 265 ∧
    wcDecode (0 ^^^ BitVec.ofNat 256 (2 ^ 0) ^^^ BitVec.ofNat 256 (2 ^ 255)) (wcCheck 0) = .uncorrectable ∧
    wcDecode (0 ^^^ BitVec.ofNat 256 (2 ^ 255)) (wcCheck 0 ^^^ BitVec.ofNat 10 (2 ^ 9)) = .uncorrectable ∧
    wcDecode 0 (wcCheck 0 ^^^ BitVec.ofNat 10 (2 ^ 0) ^^^ BitVec.ofNat 10 (2 ^ 9)) = .uncorrectable := by decide +kernel

/-- R22: the first two columns of weight 3 and of weight 5 in rising numerical order, written out from the rule. -/
theorem test_wcColumns : wcColumns.getD 0 0 = 0b111 ∧ wcColumns.getD 1 0 = 0b1011 ∧ wcColumns.getD 119 0 = 0b1110000000 ∧
    wcColumns.getD 120 0 = 0b11111 ∧ wcColumns.getD 121 0 = 0b101111 := by decide +kernel

/-- R42, R43. -/
theorem wit_TimeStamps : (fracOf 1999).toNat = 255 ∧ (fracOf 7).toNat ≤ (fracOf 8).toNat ∧ (7 : Nat) ≤ 8 ∧
    frameBefore (BitVec.ofNat 48 (2 ^ 48 - 1)) 0 = true := by decide +kernel

/-- R501. -/
theorem wit_Rounding : 0 < 2 ∧ rdiv 5 2 = 3 ∧ cdiv 5 2 = 3 := by decide +kernel

/-- R44: a boundary of a part in operation that goes through its nine orders. -/
theorem wit_BoundaryOrder :
    let s := op State.reset
    let s0 := pendingStep (powerStep {} (order1 (endFrame {} s)))
    let s1 := { s0 with drt := { s0.drt with other := ({} : BoundaryIn).other } }
    let s2 := xrstStep {} (order2 {} s1)
    let u := order7 {} s2.runSet (order6 (order4 s2.seq.onLaunch (order3 {} s2)))
    s.pwr.phase ≠ .dead ∧ s0.pwr.phase = .run ∧ (∀ i, i < 96 → (s0.rail i).owTest = none) ∧ s2.pwr.phase = .run ∧
      u.flt.wdtRun = false ∧ u.pwr.phase = .run := by decide +kernel

/-- R70: a rail off with a good level; one whose PG is good with a level that is not; a sample that agrees. -/
theorem wit_PgDebounce :
    let s := vio (rl 95 (fun r => { r with st := .off, db := false, dbCnt := 0 }) State.reset)
    let t := vio (rl 95 (fun r => { r with st := .on, db := true, dbCnt := 0 }) State.reset)
    (s.vioOk 95 = true ∧ (s.rail 95).st ≠ .unused ∧ (s.rail 95).dbCnt = 0 ∧ (s.rail 95).db = false ∧
      (∀ p, schmitt (bit (s.rcfg 95) 5) (s.bank (bankOf 95)).vio 3300 p ≠ notGood (s.rcfg 95))) ∧
    (t.vioOk 95 = true ∧ (t.rail 95).st ≠ .unused ∧ (t.rail 95).dbCnt = 0 ∧ (t.rail 95).db = true ∧
      (∀ p, schmitt (bit (t.rcfg 95) 5) (t.bank (bankOf 95)).vio 0 p = notGood (t.rcfg 95))) ∧
    ((samplePg 0 95 s).rail 95).raw = (s.rail 95).db := by decide +kernel

/-- R502, R8: what can wait for order 6. -/
theorem wit_SetUps :
    (∃ s : State, s.setup = [(0x2000, 1)]) ∧ (∃ s : State, s.setup = [(0x2000, 1), (0x2000, 0)]) ∧
    (∃ s : State, s.setup = [(0x2000, 1), (0x2004, 7)]) ∧ (∃ s : State, s.flt.cntPend = some 95) ∧
    (∃ s : State, s.evt.cselPend = some 255) ∧ (∃ s : State, s.sca.rselPend = some 4095) ∧ (∃ s : State, s.cnv.wselPend = some 15) ∧
    (∃ s : State, s.wc.pop = true ∧ s.wc.latch = some {}) :=
  ⟨⟨{ setup := [(0x2000, 1)] }, rfl⟩, ⟨{ setup := [(0x2000, 1), (0x2000, 0)] }, rfl⟩,
    ⟨{ setup := [(0x2000, 1), (0x2004, 7)] }, rfl⟩, ⟨{ flt := { cntPend := some 95 } }, rfl⟩, ⟨{ evt := { cselPend := some 255 } }, rfl⟩,
    ⟨{ sca := { rselPend := some 4095 } }, rfl⟩, ⟨{ cnv := { wselPend := some 15 } }, rfl⟩,
    ⟨{ wc := { pop := true, latch := some {} } }, rfl, rfl⟩⟩

/-- Logs 3, 4: a step of a queue of two, and of none. -/
theorem wit_Steps :
    (∃ t, step { State.reset with pending := [.xrstInAssert, .nonceExpiry] } = .next t ∧ t.pending = [.nonceExpiry] ∧
      t.pwr.xrst = true) ∧ step State.reset = .next State.reset := ⟨⟨_, rfl, rfl, rfl⟩, rfl⟩

/-- A state whose words are well formed, and its step. -/
theorem wit_RegisterWords : RegsOk {} ∧ step ({} : State) = .next {} :=
  ⟨⟨⟨rfl, fun k => by simp [Fits, tget]⟩, ⟨rfl, fun k => by simp [Fits, tget]⟩⟩, rfl⟩

/-- One command of each family completes. -/
theorem wit_Frames :
    (powerRow (.minOffElapsed 95) = true ∧ ∃ t, exec (.minOffElapsed 95) State.reset = .next t) ∧
    (taskRow (.sequencerService 9) = true ∧ ∃ t, exec (.sequencerService 9) State.reset = .next t) ∧
    (convRow (.cnvWselWrite 3) = true ∧ ∃ t, exec (.cnvWselWrite 3) State.reset = .next t) ∧
    (linkRow (.portSeek 3) = true ∧ ∃ t, exec (.portSeek 3) State.reset = .next t) ∧
    (storeRow .nonceExpiry = true ∧ ∃ t, exec .nonceExpiry State.reset = .next t) ∧
    (ringRow (.evtCselWrite 255) = true ∧ ∃ t, exec (.evtCselWrite 255) State.reset = .next t) ∧
    (commandRow (.nop 7 (db 0)) = true ∧ ∃ t, exec (.nop 7 (db 0)) State.reset = .next t) :=
  ⟨⟨rfl, _, rfl⟩, ⟨rfl, _, rfl⟩, ⟨rfl, _, rfl⟩, ⟨rfl, _, rfl⟩, ⟨rfl, _, rfl⟩, ⟨rfl, _, rfl⟩, ⟨rfl, _, rfl⟩⟩

/-- Every row of the opcode table has a command of its own, and no word spells one (the table gives no bits). -/
theorem test_no_word : decodeTableWord 32 0 = none ∧ State.reset.withFetchWord 32 5 = State.reset := by decide +kernel


end Sys2Proof.Tests
end

/-! # What a command leaves of each part of the state: the frames of the families, the register words -/

namespace Sys2Proof.Machine

/-- The state a command answers; no command ends otherwise (log 4). -/
def runCmd (c : Instr) (s : State) : State :=
  match exec c s with
  | .next t => t
  | _ => s

theorem eq_runCmd {c : Instr} {s t : State} (h : exec c s = .next t) : t = runCmd c s := by
  unfold runCmd
  rw [h]

/-- A change made under a condition keeps a part that the change keeps. -/
theorem kept_ite {α : Type} (f : State → α) {p : Prop} [Decidable p] {t s : State} (h : f t = f s) :
    f (if p then t else s) = f s := by
  split
  · exact h
  · rfl

/-- Of a choice of two changes that each keep a part. -/
theorem kept_branch {α : Type} (f : State → α) {p : Prop} [Decidable p] {t u s : State} (ht : f t = f s)
    (hu : f u = f s) : f (if p then t else u) = f s := by
  split
  · exact ht
  · exact hu

/-! ## The families of commands (R8, R53, R61, R299, R305) -/

/-- The rail, watch, stage, input and reset happenings keep what no event and no reaction of theirs touches. -/
theorem keepPower_runCmd {c : Instr} (h : powerRow c = true) (s : State) : (runCmd c s).keepPower = s.keepPower := by
  cases c with
  | vioOkRise _ => exact keepPower_vioRiseNow _ _
  | vioOkFall _ => exact keepPower_vioFallNow _ _
  | pgDebouncedGood rail => exact keepPower_onRail _ _ s (keepPower_pgGood rail)
  | pgLost rail => exact keepPower_onRail _ _ s (keepPower_pgLostNow rail)
  | pgLate rail => exact keepPower_onRail _ _ s (keepPower_pgLateNow rail)
  | enShort rail hi ilim => exact keepPower_onRail _ _ s (keepPower_enShortNow rail hi ilim)
  | enOpen rail => exact keepPower_onRail _ _ s (keepPower_enOpenNow rail)
  | assistTest rail => exact keepPower_onRail _ _ s (keepPower_assistNow rail)
  | assistTestResult rail ilim => exact keepPower_onRail _ _ s (keepPower_assistResultNow rail ilim)
  | pgOpenTest rail level => exact keepPower_onRail _ _ s (keepPower_pgOpenTestNow rail level)
  | pgStuck rail => exact keepPower_onRail _ _ s (keepPower_pgStuckNow rail)
  | enFoldBack rail => exact keepPower_onRail _ _ s (keepPower_foldNow rail)
  | minOffElapsed rail => exact keepPower_onRail _ _ s (keepPower_minOffNow rail)
  | marginSettleExpiry rail => exact keepPower_onRail _ _ s (keepPower_settleNow rail)
  | pgEdgeLatch rail cyc => exact keepPower_onRail _ _ s (keepPower_edgeLatch rail cyc)
  | commitmentEnd _ => exact keepPower_commitEnd _ _
  | delayExpiry prog => exact kept_ite State.keepPower (keepPower_judged _ s (keepPower_delayNow prog))
  | stepDeadlineExpiry prog => exact kept_ite State.keepPower (keepPower_judged _ s (keepPower_deadlineNow prog))
  | offClassLimitExpiry => exact keepPower_limitNow _
  | offPauseExpiry => exact keepPower_pauseNow _
  | dischMet rail => exact keepPower_onRail _ _ s (keepPower_dischNow rail)
  | offRunComplete => exact kept_ite State.keepPower (keepPower_offComplete _)
  | heldOnRequestLaunch => exact keepPower_judged _ s keepPower_heldNow
  | backoffExpiry rail => exact keepPower_onRail _ _ s (keepPower_backoffNow rail)
  | heal rail => exact keepPower_onRail _ _ s (keepPower_healNow rail)
  | groupRestart _ => exact kept_ite State.keepPower (keepPower_groupNow _ _)
  | restartDelayExpiry => exact keepPower_restartNow _
  | restartWindowExpiry => exact keepPower_windowNow _
  | sysrstReleaseDelay => exact keepPower_rstNow _
  | watchdogGraceExpiry => exact keepPower_graceNow _
  | stageRegulated stage => exact keepPower_onStage _ _ s (keepPower_regulateNow stage)
  | kindlingStartTimeout stage => exact keepPower_onStage _ _ s (keepPower_kindleTimeout stage)
  | cycleLimitTrip _ _ => exact kept_ite State.keepPower (keepPower_limitTrip _ _ _)
  | hiccupEntry stage => exact keepPower_onStage _ _ s (keepPower_hiccupNow stage)
  | hiccupExpiry stage => exact keepPower_onStage _ _ s (keepPower_hiccupOver stage)
  | consecHicHeal stage => exact keepPower_onStage _ _ s (keepPower_hicHeal stage)
  | senseOpen stage legs => exact keepPower_onStage _ _ s (keepPower_senseOpenNow stage legs)
  | frozen stage => exact keepPower_onStage _ _ s (keepPower_frozenNow stage)
  | nofb stage => exact keepPower_onStage _ _ s (keepPower_nofbNow stage)
  | stageOv stage => exact keepPower_onStage _ _ s (keepPower_ovNow stage)
  | stageUv stage => exact keepPower_onStage _ _ s (keepPower_uvNow stage)
  | capFloor stage => exact keepPower_onStage _ _ s (keepPower_floorNow stage)
  | stageRetryBackoff stage => exact keepPower_onStage _ _ s (keepPower_stageBackoffNow stage)
  | stageRetryCntHeal stage => exact keepPower_onStage _ _ s (keepPower_retryHeal stage)
  | inputLossDeclared => exact keepPower_declareLoss _ _
  | inputRestored => exact keepPower_restoreInput _
  | shedComparatorTrip => exact keepPower_shedTrip _
  | batteryPoll => exact keepPower_battPoll _
  | batteryNotReadyOff => exact keepPower_battOff _
  | overrunSafeOff _ => exact kept_ite State.keepPower ((keepPower_overrunSafe _ _).trans (keepPower_modEng _ _ _))
  | bootOnRequest => exact keepPower_judged _ s keepPower_bootOnRequest
  | classSyncTimeout => exact keepPower_classSyncNow _
  | stackMemberLoss _ => exact keepPower_memberLoss _ _
  | stackJoinTimeout => exact keepPower_stackJoinEnd _
  | pairAlone => exact keepPower_pairAlone _
  | xrstInRelease => exact keepPower_xrstReleased _
  | _ => exact absurd h Bool.false_ne_true

/-- The engines' tasks keep what no task touches. -/
theorem keepTask_runCmd {c : Instr} (h : taskRow c = true) (s : State) : (runCmd c s).keepTask = s.keepTask := by
  cases c with
  | ledgerPass _ => exact keepTask_taskRun _ _ _ _ _ s keepTask_ledgerPass
  | faultPolicy _ => exact keepTask_taskRun _ _ _ _ _ s keepTask_faultTask
  | damperTask _ => exact keepTask_taskRun _ _ _ _ _ s keepTask_damperTask
  | damperCapChange _ => exact keepTask_taskRun _ _ _ _ _ s keepTask_capChange
  | damperRaise _ => exact keepTask_taskRun _ _ _ _ _ s keepTask_levelUp
  | damperRelax _ => exact keepTask_taskRun _ _ _ _ _ s keepTask_levelDown
  | sharingRound _ => exact keepTask_taskRun _ _ _ _ _ _ keepTask_sharingTask
  | converterPostProcessing _ => exact keepTask_taskRun _ _ _ _ _ s fun s =>
      (keepTask_engineFires _ _).trans (keepTask_postProcess s)
  | telemetryPosting cyc =>
    exact keepTask_taskRun 3 1 (telPost (telQuota s) s).1 cyc (fun s => (telPost (telQuota s) s).2) s
      fun s => keepTask_telPost (telQuota s) s
  | emberSnapshot _ => exact keepTask_taskRun _ _ _ _ _ s keepTask_emberTask
  | sequencerService _ => exact keepTask_taskRun _ _ _ _ _ s fun _ => rfl
  | pmbusService _ => exact keepTask_taskRun _ _ _ _ _ s keepTask_pmbService
  | stageControlTask stage _ =>
    exact keepTask_onStage _ _ s (fun s => keepTask_taskRun _ _ _ _ _ s (keepTask_stageTask stage))
  | phaseDiagnosticsTask stage _ =>
    exact keepTask_onStage _ _ s (fun s => keepTask_taskRun _ _ _ _ _ s (keepTask_phaseTask stage))
  | ringService cyc => exact keepTask_taskRun 0 0 (ringService s).1 cyc (fun s => (ringService s).2) s keepTask_ringService
  | completionPosting cyc failed =>
    exact keepTask_taskRun 0 1 (postAll failed s).1 cyc (fun s => (postAll failed s).2) s (keepTask_postAll failed)
  | rowExchange _ => exact keepTask_taskRun _ _ _ _ _ s keepTask_rowTask
  | taskOverrun _ _ => exact kept_ite State.keepTask (keepTask_taskOverrun _ _ _)
  | _ => exact absurd h Bool.false_ne_true

/-- The conversion happenings keep all but the conversion block, the rails, the input and what events touch. -/
theorem keepConv_runCmd {c : Instr} (h : convRow c = true) (s : State) : (runCmd c s).keepConv = s.keepConv := by
  cases c with
  | trgEdgeAccepted _ _ _ => exact kept_ite State.keepConv (keepConv_trgEdge _ _ _ _)
  | conversionEnd _ _ _ _ => exact kept_ite State.keepConv (keepConv_convEnd _ _ _ _ _)
  | sliceUnclamp _ _ => exact kept_ite State.keepConv (keepConv_unclamp _ _ _)
  | plausibilityRestore _ => exact kept_ite State.keepConv (keepConv_plausNow _ _)
  | conversionDropped _ _ => exact kept_ite State.keepConv (keepConv_dropNow _ _ _)
  | urgentConversionStart _ _ => exact kept_ite State.keepConv (keepConv_startUrgent _ _ _)
  | refrdySet _ => exact kept_ite State.keepConv (keepConv_refSetNow _ _)
  | referenceFaultTimeout _ => exact kept_ite State.keepConv (keepConv_refTimeout _ _)
  | refrdyFall _ => exact kept_ite State.keepConv (keepConv_refFallNow _ _)
  | cnvWselWrite _ => exact keepConv_wselWrite _ _
  | cnvResLoRead _ => exact kept_ite State.keepConv (keepConv_readRes _ _)
  | _ => exact absurd h Bool.false_ne_true

/-- The row link's happenings keep what no frame touches. -/
theorem keepLink_runCmd {c : Instr} (h : linkRow c = true) (s : State) : (runCmd c s).keepLink = s.keepLink := by
  cases c with
  | portSeek _ => exact kept_ite State.keepLink (keepLink_portSeek _ _)
  | portLock _ _ => exact kept_ite State.keepLink (keepLink_portLock _ _ _)
  | portIdent _ => exact kept_ite State.keepLink (keepLink_portIdent _ _)
  | portUp _ _ _ _ _ _ _ _ => exact kept_ite State.keepLink (keepLink_portUpNow _ _ _ _ _ _ _ _ _)
  | portRetrain _ => exact kept_ite State.keepLink (keepLink_portRetrain _ _)
  | syncFrame _ => exact keepLink_syncFrame _ _
  | electFrame _ => exact keepLink_electFrame _ _
  | electionWin _ => exact keepLink_electionWin _ _
  | memberFrame _ => exact keepLink_memberFrame _ _
  | statusFrame _ _ => exact keepLink_statusFrame _ _ _
  | cmdFrame _ => exact keepLink_cmdFrame _ _
  | stackCommandLoss => exact keepLink_commandLoss _
  | relayFrame _ _ _ => exact keepLink_relayNow _ _ _ _ _
  | rowstatFrame _ _ _ _ _ _ _ => exact keepLink_rowstatFrame _ _ _ _ _ _ _ _
  | capFrame _ _ => exact keepLink_capFrame _ _ _
  | faultFrame _ _ _ _ _ _ => exact keepLink_faultFrame _ _ _ _ _ _ _
  | faultBroadcast => exact keepLink_faultBroadcast _
  | eventFrame _ _ => exact keepLink_eventFrame _ _ _
  | telemFrame _ => exact keepLink_receive _ _ _ fun s => keepLink_once _ _ _ s fun _ => rfl
  | rowMasterLoss => exact keepLink_rowMasterLoss _
  | rowCapHoldExpiry => exact keepLink_rowHoldEnd _
  | pairEnFrame _ => exact keepLink_pairEnFrame _ _
  | xrstOutRelease => exact keepLink_xrstOff _
  | shadowReset => exact keepLink_shadowReset _
  | journalFrame _ => exact keepLink_journalFrame _ _
  | jackFrame _ _ => exact keepLink_jackFrame _ _ _
  | journalResend => exact keepLink_journalResend _
  | mirrorFrame _ _ _ _ _ => exact keepLink_mirrorFrame _ _ _ _ _ _
  | handoverQuietPoint => exact keepLink_quietPoint _
  | referenceClockLost => exact keepLink_clockLost _
  | referenceClockReturn => exact keepLink_clockBack _
  | scaRselWrite _ => exact keepLink_rselWrite _ _
  | _ => exact absurd h Bool.false_ne_true

/-- The happenings of the flash, the recorder, the flue port and the firmware keep the rest of the part. -/
theorem keepStore_runCmd {c : Instr} (h : storeRow c = true) (s : State) : (runCmd c s).keepStore = s.keepStore := by
  cases c with
  | flashProgramDone _ => exact keepStore_programDone _ _
  | flashEraseDone => exact keepStore_eraseDone _
  | counterRingUpdate rail => exact keepStore_onRail _ _ s (keepStore_ringUpdate rail)
  | marginSweepStart => exact keepStore_sweepStart _
  | sweepStep _ _ => exact keepStore_sweepStep _ _ _
  | recordImageMake => exact keepStore_recordMake _
  | holdoffExpiry _ => exact rfl
  | recorderFlush => exact keepStore_recorderFlush _
  | freezeTimeout => exact keepStore_thaw _
  | nonceExpiry => exact keepStore_nonceEnd _
  | clearCommit => exact keepStore_clearCommit _
  | clearErasure => exact keepStore_clearErasure _
  | flueRead => exact keepStore_flueRead _
  | flueOpen p => exact keepStore_flueReq _ _ _ _ _ s (keepStore_fwOpen p)
  | flueHeader p partnerProb => exact keepStore_flueReq _ _ _ _ _ s (keepStore_fwHeader p partnerProb)
  | flueData p => exact keepStore_flueReq _ _ _ _ _ s (keepStore_fwData p)
  | dataProgrammed => exact keepStore_fwProgrammed _
  | flueVerify p upsets => exact keepStore_flueReq _ _ _ _ _ s (keepStore_fwVerify p upsets)
  | flueActivate p loadOk partnerOk => exact keepStore_flueReq _ _ _ _ _ s (keepStore_fwActivate p loadOk partnerOk)
  | firmwareHandover _ =>
    exact Eq.trans (b := (handover_ s).keepStore) (kept_ite State.keepStore rfl) (keepStore_handover_ s)
  | handoverComplete => exact keepStore_handoverDone _
  | flueConfirm p partnerOk => exact keepStore_flueReq _ _ _ _ _ s (keepStore_fwConfirm p partnerOk)
  | flueStatus _ => exact keepStore_flueReq _ _ _ _ _ s fun s => keepStore_answer _ _ _ _ s
  | flueClose p => exact keepStore_flueReq _ _ _ _ _ s (keepStore_fwClose p)
  | keyProgram p fuseOk => exact keepStore_flueReq _ _ _ _ _ s (keepStore_fwKey p fuseOk)
  | flueSessionLapse => exact keepStore_fwLapse _
  | firmwareProbationExpiry => exact keepStore_fwExpiry _
  | emberRecorderFlush _ => exact keepStore_emberFlush _ _
  | journalMirrorWrite => exact keepStore_mirrorWrite _
  | configProbationExpiry => exact keepStore_probExpiry _
  | nvwpChange _ => exact rfl
  | _ => exact absurd h Bool.false_ne_true

/-- The reads, writes and doorbells with an effect of their own keep what is not the host interface. -/
theorem keepHost_runCmd {c : Instr} (h : ringRow c = true) (s : State) : (runCmd c s).keepHost = s.keepHost := by
  cases c with
  | lockAutoOpen => exact keepHost_lockAutoOpen _
  | seqCtrlAbort _ => exact keepHost_abortWrite _ _
  | fltCtrlFfClear _ => exact keepHost_ffWrite _ _
  | fltCtrlSysrstRel _ => exact keepHost_relWrite _ _
  | stgLoadCommit _ _ => exact kept_ite State.keepHost (keepHost_loadWrite _ _ _)
  | glbLoadClear _ _ => exact kept_ite State.keepHost (keepHost_loadClear _ _ _)
  | fltCntSelWrite _ => exact keepHost_cntSel _ _
  | evtCselWrite _ => exact keepHost_cselWrite _ _
  | evtWclogPop _ => exact keepHost_popWrite _ _
  | glbFrameLoRead _ => exact keepHost_readFrame _ _
  | hstJheadLoRead => exact keepHost_readJhead _
  | hstJoldLoRead => exact keepHost_readJold _
  | hstJmirLoRead => exact keepHost_readJmir _
  | evtWclog0Read => exact keepHost_readWclog _
  | fwHoverLoRead => exact keepHost_readHover _
  | crDoorbell _ _ => exact kept_ite State.keepHost (keepHost_doorbell _ _ _)
  | cqDoorbell _ _ => exact kept_ite State.keepHost (keepHost_doorbell _ _ _)
  | erDoorbell _ => exact keepHost_doorbell _ _ _
  | trDoorbell _ => exact keepHost_doorbell _ _ _
  | descriptorFetchDone _ _ => exact kept_ite State.keepHost (keepHost_fetchDone _ _ _)
  | msixModerationExpiry _ => exact kept_ite State.keepHost (keepHost_modExpiry _ _)
  | busMasterEnable _ => exact keepHost_masterEnable _ _
  | msixTableWrite _ _ => exact keepHost_msixWrite _ _ _
  | unsupportedBarAccess _ _ _ _ =>
    exact kept_ite State.keepHost (ite_keepHost _ _ _ |>.trans (by rw [keepHost_badAccess, ite_self]))
  | _ => exact absurd h Bool.false_ne_true

/-! ## The commands of the rings (R305) -/

/-- The rows of the rings' commands are those that name an opcode, a ring and a descriptor. -/
theorem commandRow_eq (c : Instr) : commandRow c = (commandOf c).isSome := by cases c <;> rfl

/-- A command of the rings is accepted and takes effect by its opcode, its ring and its descriptor alone (R299, log 8). -/
theorem runCmd_of_commandOf {c : Instr} {x : Nat × Nat × Desc} (h : commandOf c = some x) (s : State) :
    runCmd c s = hostRow x.1 x.2.1 x.2.2 s := by
  cases c <;> cases h <;> rfl

theorem exists_hostRow {c : Instr} (h : commandRow c = true) :
    ∃ op r d, ∀ s, runCmd c s = hostRow op r d s := by
  rw [commandRow_eq, Option.isSome_iff_exists] at h
  obtain ⟨x, hx⟩ := h
  exact ⟨x.1, x.2.1, x.2.2, runCmd_of_commandOf hx⟩

theorem keepCmd_runCmd {c : Instr} (h : commandRow c = true) (s : State) : (runCmd c s).keepCmd = s.keepCmd := by
  obtain ⟨_, _, _, hrow⟩ := exists_hostRow h
  rw [hrow]
  exact keepCmd_hostRow _ _ _ s

theorem frame_runCmd_commandRow {c : Instr} (h : commandRow c = true) (s : State) :
    (runCmd c s).clk.frame = s.clk.frame := by
  obtain ⟨_, _, _, hrow⟩ := exists_hostRow h
  rw [hrow]
  exact frame_of_pf (pf_hostRow _ _ _ s)

/-! ## From the kept parts to the frame of the whole state -/

theorem eq_of_keepPower {s t : State} (h : t.keepPower = s.keepPower) : t = { s with
    engs := t.engs, wc := t.wc, evt := t.evt, jrn := t.jrn, hst := t.hst,
    recd := { s.recd with queue := t.recd.queue, ash := t.recd.ash }, rails := t.rails, banks := t.banks,
    mdacs := t.mdacs, pmb := t.pmb, seq := t.seq, off := t.off, flt := t.flt, drt := t.drt, inl := t.inl,
    stgs := t.stgs, phases := t.phases, sca := t.sca, pair := t.pair, nv := { s.nv with revertDue := t.nv.revertDue },
    pwr := t.pwr, out := t.out } :=
  congrArg (fun (pending, clk, ovrStat, ovrNow, recd, bar0, cfg, setup, coef, watches, dmp, shr, cnv, nv, fw, free) =>
    { t with
      pending, clk, ovrStat, ovrNow, bar0, cfg, setup, coef, watches, dmp, shr, cnv, fw, free
      recd := { recd with queue := t.recd.queue, ash := t.recd.ash }
      nv := { nv with revertDue := t.nv.revertDue } }) h

theorem eq_of_keepTask {s t : State} (h : t.keepTask = s.keepTask) : t = { s with
    engs := t.engs, wc := t.wc, evt := t.evt, jrn := t.jrn, hst := t.hst,
    recd := { s.recd with queue := t.recd.queue, ash := t.recd.ash }, rails := t.rails, pmb := t.pmb, seq := t.seq,
    flt := t.flt, drt := t.drt, dmp := t.dmp, shr := t.shr, inl := t.inl, cnv := t.cnv, stgs := t.stgs,
    phases := t.phases, sca := t.sca, pair := t.pair, nv := { s.nv with revertDue := t.nv.revertDue }, pwr := t.pwr,
    free := t.free, out := t.out } :=
  congrArg (fun (pending, clk, ovrStat, ovrNow, recd, bar0, cfg, setup, coef, banks, mdacs, watches, off, nv, fw) =>
    { t with
      pending, clk, ovrStat, ovrNow, bar0, cfg, setup, coef, banks, mdacs, watches, off, fw
      recd := { recd with queue := t.recd.queue, ash := t.recd.ash }
      nv := { nv with revertDue := t.nv.revertDue } }) h

theorem eq_of_keepConv {s t : State} (h : t.keepConv = s.keepConv) : t = { s with
    evt := t.evt, jrn := t.jrn, hst := t.hst, recd := { s.recd with queue := t.recd.queue, ash := t.recd.ash },
    rails := t.rails, inl := t.inl, cnv := t.cnv, nv := { s.nv with revertDue := t.nv.revertDue }, out := t.out } :=
  congrArg (fun (pending, clk, engs, ovrStat, ovrNow, wc, recd, bar0, cfg, setup, coef, banks, mdacs, pmb, watches, seq,
      off, flt, drt, dmp, shr, stgs, phases, sca, pair, nv, fw, pwr, free) =>
    { t with
      pending, clk, engs, ovrStat, ovrNow, wc, bar0, cfg, setup, coef, banks, mdacs, pmb, watches, seq, off, flt, drt
      dmp, shr, stgs, phases, sca, pair, fw, pwr, free
      recd := { recd with queue := t.recd.queue, ash := t.recd.ash }
      nv := { nv with revertDue := t.nv.revertDue } }) h

theorem eq_of_keepHost {s t : State} (h : t.keepHost = s.keepHost) : t = { s with
    clk := { t.clk with frame := s.clk.frame }, engs := t.engs, wc := t.wc, evt := t.evt, jrn := t.jrn, hst := t.hst,
    recd := { s.recd with queue := t.recd.queue, ash := t.recd.ash }, flt := t.flt, stgs := t.stgs, sca := t.sca,
    pair := t.pair, nv := { s.nv with revertDue := t.nv.revertDue }, fw := t.fw, out := t.out } :=
  congrArg (fun (pending, frame, ovrStat, ovrNow, recd, bar0, cfg, setup, coef, rails, banks, mdacs, pmb, watches, seq,
      off, drt, dmp, shr, inl, cnv, phases, nv, pwr, free) =>
    { t with
      pending, ovrStat, ovrNow, bar0, cfg, setup, coef, rails, banks, mdacs, pmb, watches, seq, off, drt, dmp, shr, inl
      cnv, phases, pwr, free
      clk := { t.clk with frame := frame }
      recd := { recd with queue := t.recd.queue, ash := t.recd.ash }
      nv := { nv with revertDue := t.nv.revertDue } }) h

/-- With the frame counter besides (a command row leaves it where it was, log 8). -/
theorem eq_of_keepCmd {s t : State} (h : t.keepCmd = s.keepCmd) (hf : t.clk.frame = s.clk.frame) : t = { s with
    engs := t.engs, wc := t.wc, evt := t.evt, jrn := t.jrn, hst := t.hst, recd := t.recd, bar0 := t.bar0, cfg := t.cfg,
    setup := t.setup, coef := t.coef, rails := t.rails, banks := t.banks, mdacs := t.mdacs, pmb := t.pmb, seq := t.seq,
    off := t.off, flt := t.flt, drt := t.drt, cnv := t.cnv, stgs := t.stgs, phases := t.phases, sca := t.sca,
    pair := t.pair, nv := t.nv, fw := t.fw, pwr := t.pwr, out := t.out } :=
  (congrArg (fun (pending, clk, ovrStat, ovrNow, watches, dmp, shr, inl, free) =>
    { t with
      pending, ovrStat, ovrNow, watches, dmp, shr, inl, free
      clk := { clk with frame := t.clk.frame } }) h).trans
  (congrArg (fun frame => { t with
      pending := s.pending, clk := { s.clk with frame := frame }, ovrStat := s.ovrStat, ovrNow := s.ovrNow
      watches := s.watches, dmp := s.dmp, shr := s.shr, inl := s.inl, free := s.free }) hf)

/-! ## The words, the queue and the frame counter in the families -/

theorem fixed_of_keepPower {s t : State} (h : t.keepPower = s.keepPower) : t.fixed = s.fixed :=
  congrArg (fun (pending, clk, _, _, _, bar0, cfg, _) => (pending, clk.frame, bar0, cfg)) h

theorem fixed_of_keepTask {s t : State} (h : t.keepTask = s.keepTask) : t.fixed = s.fixed :=
  congrArg (fun (pending, clk, _, _, _, bar0, cfg, _) => (pending, clk.frame, bar0, cfg)) h

theorem fixed_of_keepConv {s t : State} (h : t.keepConv = s.keepConv) : t.fixed = s.fixed :=
  congrArg (fun (pending, clk, _, _, _, _, _, bar0, cfg, _) => (pending, clk.frame, bar0, cfg)) h

theorem fixed_of_keepLink {s t : State} (h : t.keepLink = s.keepLink) : t.fixed = s.fixed :=
  congrArg (fun (pending, frame, _, _, _, _, bar0, cfg, _) => (pending, frame, bar0, cfg)) h

theorem fixed_of_keepStore {s t : State} (h : t.keepStore = s.keepStore) : t.fixed = s.fixed :=
  congrArg (fun (pending, clk, _, _, _, bar0, cfg, _) => (pending, clk.frame, bar0, cfg)) h

theorem fixed_of_keepHost {s t : State} (h : t.keepHost = s.keepHost) : t.fixed = s.fixed :=
  congrArg (fun (pending, frame, _, _, _, bar0, cfg, _) => (pending, frame, bar0, cfg)) h

/-- The commands of the families whose frames hold the register words: all but the commands of the rings. -/
def wordsStay (c : Instr) : Bool := powerRow c || taskRow c || convRow c || linkRow c || storeRow c || ringRow c

theorem fixed_runCmd {c : Instr} (h : wordsStay c = true) (s : State) : (runCmd c s).fixed = s.fixed := by
  simp only [wordsStay, Bool.or_eq_true] at h
  rcases h with ((((h | h) | h) | h) | h) | h
  · exact fixed_of_keepPower (keepPower_runCmd h s)
  · exact fixed_of_keepTask (keepTask_runCmd h s)
  · exact fixed_of_keepConv (keepConv_runCmd h s)
  · exact fixed_of_keepLink (keepLink_runCmd h s)
  · exact fixed_of_keepStore (keepStore_runCmd h s)
  · exact fixed_of_keepHost (keepHost_runCmd h s)

theorem regs_ite {p : Prop} [Decidable p] {a b : State} (ha : RegsOk a) (hb : RegsOk b) : RegsOk (if p then a else b) := by
  split
  · exact ha
  · exact hb

/-- The rows of no family: the boundaries, the boots, resets and losses, the writes of set-ups and of the lock, what takes a
generation into force, and a few happenings of the buses and the damper. -/
theorem regs_runCmd_noFamily {c : Instr} (h : (wordsStay c || commandRow c) ≠ true) {s : State} (hs : RegsOk s) :
    RegsOk (runCmd c s) := by
  cases c with
  | frameBoundary b => exact regs_frameBoundary b s hs
  | watchTickBoundary b => exact regs_tickBoundary b s hs
  | pd0PowerUp => exact regs_pd0Lost s
  | pd0PowerLoss => exact regs_powerLoss s hs
  | supplyGood _ => exact hs.of_fixed (kept_ite State.fixed rfl)
  | porstAsserted => exact regs_porstSeen s hs
  | bootBegin b => exact regs_bootBegin b s hs
  | firmwareStart upsets =>
    exact regs_ite (regs_firmwareStart _ (regs_each upsets upset (fun x s hs => hs.of_fixed (fixed_upset x s)) s hs)) hs
  | domainPowerUp pd => exact regs_ite hs (hs.of_fixed (fixed_domainOn pd s))
  | bootActivation => exact regs_bootActivation s hs
  | bootFailure => exact regs_bootFailure s hs
  | powerFailure cause cyc => exact regs_powerFailure _ _ s hs
  | emberModeExit => exact regs_emberExit s hs
  | xrstInAssert => exact hs
  | watchdogExpiry engine => exact regs_watchdogExpiry engine s hs
  | watchdogReset => exact regs_watchdogReset s hs
  | recoveryReset => exact regs_recoveryReset s hs
  | setUpWrite a v => exact regs_setUpWrite a v s hs
  | glbLockWrite v cyc => exact regs_barWrite 0x10 v cyc s hs
  | hostInterfaceReset link => exact regs_hostReset link s hs
  | calPhaseDone => exact regs_calPhaseDone s hs
  | configActivateAtFrame => exact regs_activateAt s hs
  | configAutoRevert => exact regs_autoRevert s hs
  | pairLinkLoss => exact regs_linkLoss s hs
  | pairHeartbeatTakeover => exact regs_heartbeatLoss s hs
  | handoverTakeover => exact regs_handover s hs
  | frameCounterLoad _ => exact hs
  | pmbusTransactionDone _ _ => exact hs.of_fixed (fixed_pmbDone _ _ s)
  | pmbusSclTimeout _ => exact hs.of_fixed (fixed_pmbDone _ _ s)
  | pmbusWatcherPoll n =>
    exact hs.of_fixed (kept_ite State.fixed ((fixed_watchPoll n _).trans (fixed_modWatch n _ s)))
  | damperJudgement => exact hs.of_fixed (fixed_judgeCap _)
  | marginVerifyDone rail => exact hs.of_fixed (fixed_onRail _ _ s (fixed_verifyNow rail))
  | _ => exact absurd rfl h

theorem regs_runCmd (c : Instr) {s : State} (hs : RegsOk s) : RegsOk (runCmd c s) := by
  by_cases hw : wordsStay c = true
  · exact hs.of_fixed (fixed_runCmd hw s)
  by_cases hc : commandRow c = true
  · obtain ⟨_, _, _, hrow⟩ := exists_hostRow hc
    rw [hrow]
    exact regs_hostRow _ _ _ s hs
  · exact regs_runCmd_noFamily (by simp [hw, hc]) hs

end Sys2Proof.Machine

section
open Sys2Proof Sys2Proof.Machine

/-- Settles O55: the step runs one command, and every command keeps the words (`regs_runCmd`); an idle step changes
nothing. -/
theorem registerWordsKept : Obligations.RegisterWordsKept := by
  intro s t hs ht
  unfold step at ht
  split at ht
  · cases ht; exact hs
  · next c q _ =>
    rw [eq_runCmd ht]
    exact regs_runCmd c (s := { s with pending := q }) hs

/-- Settles O56, from the words of `State.resetRegs`. -/
theorem registerWordsAtReset : Obligations.RegisterWordsAtReset :=
  ⟨⟨WordsOk.reset, WordsOk.reset⟩, rfl⟩

/-- Settles O52: the three are `step` at a queue of each form. -/
theorem stepRunsFront : Obligations.StepRunsFront := by
  refine ⟨fun c s => rfl, fun c q s h => ?_, fun s h => ?_⟩
  · unfold step
    rw [h]
  · unfold step
    rw [h]

/-- Settles O57: each family keeps its parts (`keepPower_runCmd`, `keepTask_runCmd`, `keepConv_runCmd`). -/
theorem railTaskConversionFrames : Obligations.RailTaskConversionFrames := by
  refine ⟨fun c s t hc he => ?_, fun c s t hc he => ?_, fun c s t hc he => ?_⟩
  · exact eq_of_keepPower (eq_runCmd he ▸ keepPower_runCmd hc s)
  · exact eq_of_keepTask (eq_runCmd he ▸ keepTask_runCmd hc s)
  · exact eq_of_keepConv (eq_runCmd he ▸ keepConv_runCmd hc s)

/-- Settles O59: each family keeps its parts (`keepHost_runCmd`, `keepCmd_runCmd`), and a command row the frame counter. -/
theorem registerCommandFrames : Obligations.RegisterCommandFrames := by
  refine ⟨fun c s t hc he => ?_, fun c s t hc he => ?_⟩
  · exact eq_of_keepHost (eq_runCmd he ▸ keepHost_runCmd hc s)
  · exact eq_of_keepCmd (eq_runCmd he ▸ keepCmd_runCmd hc s) (eq_runCmd he ▸ frame_runCmd_commandRow hc s)

end

/-! # BAR0: set-up writes, selections, reads that latch -/

namespace Sys2Proof.Machine

/-! ## What a BAR0 write leaves of the set-up words (R8, R289, R502) -/

/-- The words that read back, those in force, what waits for order 6, and the pending events. -/
def State.setUps (s : State) := (s.bar0, s.cfg, s.setup, s.evt.pend)

theorem setUps_jAppend (e : JEntry) (s : State) : (jAppend e s).setUps = s.setUps := by
  unfold jAppend pairJournal
  simp only
  split <;> rfl

theorem setUps_barAction (k o : Nat) (v : W32) (s : State) : (barAction k o v s).setUps = s.setUps :=
  setUps_jAppend _ s

theorem setUps_lockWrite (v : W32) (s : State) : (lockWrite v s).setUps = s.setUps := by
  unfold lockWrite jInternal
  split
  · rfl
  · split
    · exact kept_ite State.setUps (setUps_jAppend _ _)
    · exact kept_ite State.setUps (setUps_jAppend _ _)

theorem setUps_ffWrite (v : W32) (s : State) : (ffWrite v s).setUps = s.setUps :=
  kept_ite State.setUps (setUps_barAction _ _ v s)

theorem setUps_relWrite (v : W32) (s : State) : (relWrite v s).setUps = s.setUps :=
  kept_ite State.setUps (setUps_barAction _ _ v s)

/-- The actions and selections of BAR0 wait for a boundary: none changes a set-up word or a pending event. -/
theorem setUps_writeAction (o : Nat) (v : W32) (s : State) : (writeAction o v s).setUps = s.setUps := by
  unfold writeAction
  split
  · exact setUps_lockWrite v s
  split
  · exact kept_ite State.setUps rfl
  split
  · exact kept_ite State.setUps (setUps_barAction _ _ v s)
  split
  · exact (setUps_relWrite v _).trans (setUps_ffWrite v s)
  split
  · exact kept_ite State.setUps rfl
  split
  · rfl
  split
  · exact kept_ite State.setUps (setUps_barAction _ _ v _)
  split
  · rfl
  split
  · rfl
  · exact kept_ite State.setUps (kept_ite State.setUps rfl)

theorem setUps_when (c : Bool) {f : State → State} (hf : ∀ s, (f s).setUps = s.setUps) (s : State) :
    (when c f s).setUps = s.setUps :=
  kept_ite State.setUps (hf s)

/-- Writes of 1 clear status bits, and pending events at their own words alone (R466). -/
theorem setUps_writeW1c {o : Nat} (ho : within 0xD400 0xD41F o = false) (v : Nat) (s : State) :
    (writeW1c o v s).setUps = s.setUps := by
  unfold writeW1c
  refine kept_branch State.setUps rfl (kept_branch State.setUps (kept_ite State.setUps rfl) ?_)
  refine kept_branch State.setUps rfl (kept_branch State.setUps rfl (kept_branch State.setUps rfl ?_))
  refine kept_branch State.setUps rfl (kept_branch State.setUps rfl (kept_branch State.setUps ?_ ?_))
  · exact (setUps_when _ (f := clearRef 0) (fun _ => rfl) _).trans (setUps_when _ (f := clearRef 1) (fun _ => rfl) s)
  refine kept_branch State.setUps rfl (kept_branch State.setUps rfl (kept_branch State.setUps rfl ?_))
  rw [if_neg (by simp [ho])]

theorem within_iff (lo hi o : Nat) : within lo hi o = true ↔ lo ≤ o ∧ o ≤ hi := decide_eq_true_iff

/-- The words of the pending events have no RWS bit (R463, R466). -/
theorem rwsMask_pend (cblk : Nat) {o : Nat} (ho : within 0xD400 0xD41F o = true) : rwsMask (regKey cblk o) = 0 := by
  obtain ⟨h1, h2⟩ := (within_iff _ _ _).mp ho
  have hk : regKey cblk o = o := if_neg (by rw [within_iff]; omega)
  have he : rwsEvt o = 0 := if_neg (by rw [within_iff]; omega)
  rw [hk, rwsMask]
  by_cases h4 : o % 4 ≠ 0
  · rw [if_pos h4]
  · rw [if_neg h4, if_neg (by omega), if_neg (by omega), if_neg (by omega), if_neg (by omega), if_neg (by omega),
      if_neg (by omega), if_neg (by omega), if_neg (by omega), if_neg (by rw [within_iff]; omega), if_neg (by omega),
      if_pos (by rw [within_iff]; omega), he]

theorem merge_zero (w v : W32) : merge 0 w v = w := by
  change (w &&& ~~~0#32) ||| (v &&& 0#32) = w
  rw [BitVec.not_zero, BitVec.and_allOnes, BitVec.and_zero, BitVec.or_zero]

/-! ## A set-up write as it arrives (R8, R502) -/

/-- What a write would leave at an offset, by its RWS bits. -/
abbrev writeLeaves (s : State) (o : Nat) (v : W32) : W32 := merge (rwsMask (regKey s.cnv.cblk o)) (bar0Read s o) v

section
variable (o cyc : Nat) (v : W32) (s : State)

theorem writeSetup_locked (hl : s.hst.lock ≠ 1) (hn : bar0Read s o ≠ writeLeaves s o v) :
    writeSetup o v cyc s = raise 0x02 (s.tsAt cyc) (detB o v.toNat false false 0) s := by
  unfold writeSetup
  rw [if_neg hn, if_pos hl]

theorem writeSetup_refused (hl : s.hst.lock = 1) (hn : bar0Read s o ≠ writeLeaves s o v)
    (hr : setupRefused s o (bar0Read s o) (writeLeaves s o v) = true) :
    writeSetup o v cyc s = raise 0x03 (s.tsAt cyc) (detB o v.toNat false false 0) s := by
  unfold writeSetup
  rw [if_neg hn, if_neg (not_not_intro hl), if_pos hr]

theorem writeSetup_accepted (hl : s.hst.lock = 1) (hn : bar0Read s o ≠ writeLeaves s o v)
    (hr : setupRefused s o (bar0Read s o) (writeLeaves s o v) = false) :
    writeSetup o v cyc s = { s with
      bar0 := tset 0 s.bar0 (regKey s.cnv.cblk o)
        (merge (rwsMask (regKey s.cnv.cblk o)) (s.bw (regKey s.cnv.cblk o)) v)
      setup := s.setup ++ [(regKey s.cnv.cblk o, v &&& BitVec.ofNat 32 (rwsMask (regKey s.cnv.cblk o)))] } := by
  unfold writeSetup
  rw [if_neg hn, if_neg (not_not_intro hl), if_neg (by simp [hr])]

end

/-- A write that would change a set-up word is not one of the pending events'. -/
theorem not_pend_of_changes {o : Nat} {v : W32} {s : State} (hn : bar0Read s o ≠ writeLeaves s o v) :
    within 0xD400 0xD41F o = false := by
  rw [Bool.eq_false_iff]
  intro ho
  exact hn (by rw [writeLeaves, rwsMask_pend _ ho, merge_zero])

/-- A 32-bit write that would change a set-up word leaves the set-ups and the pending events as its RWS bits do: its other
bits change none of them. -/
theorem setUps_setUpWrite {a : Access} {v : BitVec 64} {s : State} (h4 : a.size = 4) (ha : a.off % 4 = 0)
    (ho : a.off < 0x10000) (hn : bar0Read s a.off ≠ writeLeaves s a.off (v.truncate 32)) :
    (setUpWrite a v s).setUps = (writeSetup a.off (v.truncate 32) a.cyc s).setUps := by
  have hok : Access.ok a = true := by simp [Access.ok, h4, ha]
  unfold setUpWrite
  rw [if_neg (by simp [hok]), if_neg (by omega), barWrite, if_pos ho]
  exact (setUps_writeAction _ _ _).trans (setUps_writeW1c (not_pend_of_changes hn) _ _)

/-- Equal set-ups, part by part. -/
theorem setUps_parts {s t : State} (h : t.setUps = s.setUps) :
    t.bar0 = s.bar0 ∧ t.cfg = s.cfg ∧ t.setup = s.setup ∧ t.evt.pend = s.evt.pend := by
  simpa only [State.setUps, Prod.mk.injEq] using h

/-- Events leave the set-ups and what is sent alone. -/
theorem EventsOnly.words {s t : State} (h : EventsOnly s t) :
    t.bar0 = s.bar0 ∧ t.cfg = s.cfg ∧ t.setup = s.setup ∧ t.out = s.out :=
  ⟨(congrArg State.bar0 h :), (congrArg State.cfg h :), (congrArg State.setup h :), (congrArg State.out h :)⟩

/-- A write told by an event of source n alone changes no set-up word. -/
theorem setUps_told {s t : State} {n : Nat} (hn : n < 256) {ts : Ts} {d : BitVec 128}
    (h : t.setUps = (raise n ts d s).setUps) :
    t.bar0 = s.bar0 ∧ t.cfg = s.cfg ∧ t.setup = s.setup ∧ Pending n t := by
  obtain ⟨hb, hc, hs, hp⟩ := setUps_parts h
  obtain ⟨eb, ec, es, -⟩ := (eventsOnly_raise n ts d s).words
  have hr : Pending n (raise n ts d s) := pending_raise n ts d s n hn (.inl rfl)
  exact ⟨hb.trans eb, hc.trans ec, hs.trans es, by rw [Pending, hp]; exact hr⟩

/-- An access of a size or alignment that BAR0 does not take is told, and a read ends unsupported (R289). -/
theorem badAccess_told (w : Bool) (a : Access) (v : W32) (s : State) :
    (badAccess w a v s).out = (if w then s.out else .unsupported a.off :: s.out) ∧ Pending 0x04 (badAccess w a v s) ∧
      EventsOnly { s with out := (badAccess w a v s).out } (badAccess w a v s) := by
  have he : EventsOnly (if w then s else emit (.unsupported a.off) s) (badAccess w a v s) := eventsOnly_raise _ _ _ _
  obtain ⟨-, -, -, hout⟩ := he.words
  have ho : (badAccess w a v s).out = if w then s.out else .unsupported a.off :: s.out :=
    hout.trans (apply_ite State.out _ _ _)
  refine ⟨ho, pending_raise _ _ _ _ _ (by decide) (.inl rfl), ?_⟩
  rw [ho]
  cases w <;> exact he

/-! ## Reads that latch (R8) -/

/-- What the part has sent stands in no word of BAR0. -/
theorem bar0Read_emit (x : Out) (s : State) (o : Nat) : bar0Read (emit x s) o = bar0Read s o := rfl

/-- The answer is the word as BAR0 shows it behind the read. -/
theorem answerRead_out (o : Nat) (s : State) :
    (answerRead o s).out = .read o (bar0Read (answerRead o s) o) :: s.out := by
  rw [answerRead, bar0Read_emit]
  rfl

end Sys2Proof.Machine

section
open Sys2Proof Sys2Proof.Machine

/-- Settles O27: the word by `writeSetup`'s three answers; the rest of the write touches no set-up (`setUps_setUpWrite`). -/
theorem setUpWrites : Obligations.SetUpWrites := by
  refine ⟨fun a v s h4 ha ho hl hn hr => ⟨_, rfl, ?_⟩, fun a v s h4 ha ho hl hn => ⟨_, rfl, ?_⟩,
    fun a v s h4 ha ho hl hn hr => ⟨_, rfl, ?_⟩, fun a v s h => ?_, fun bar w a v s hb h => ?_⟩
  · have hset := setUps_setUpWrite h4 ha ho hn
    rw [writeSetup_accepted _ _ _ _ hl hn hr] at hset
    obtain ⟨hb, hc, hs, -⟩ := setUps_parts hset
    refine ⟨?_, fun k hk => ?_, hc, hs⟩
    · rw [State.bw, hb]
      exact tget_tset_same _ _ _ _
    · rw [State.bw, hb]
      exact tget_tset_ne _ _ _ hk
  · have hset := setUps_setUpWrite h4 ha ho hn
    rw [writeSetup_locked _ _ _ _ hl hn] at hset
    exact setUps_told (by decide) hset
  · have hset := setUps_setUpWrite h4 ha ho hn
    rw [writeSetup_refused _ _ _ _ hl hn hr] at hset
    exact setUps_told (by decide) hset
  · have he : setUpWrite a v s = badAccess true a (v.truncate 32) s := if_pos (by simp [h])
    obtain ⟨ho, hp, hev⟩ := badAccess_told true a (v.truncate 32) s
    obtain ⟨hb, hc, hs, -⟩ := hev.words
    refine ⟨_, congrArg Next he, hb, hc, hs, ho, hp, ?_⟩
    rw [ho] at hev
    exact hev
  · obtain ⟨ho, hp, hev⟩ := badAccess_told w a v s
    exact ⟨badAccess w a v s, congrArg Next ((if_pos hb).trans (if_neg (by simp [h]))), ho, hp, hev⟩

/-- Settles O29: the selections by their own definitions, the reads by `answerRead_out`. -/
theorem selectionsAndLatchedReads : Obligations.SelectionsAndLatchedReads := by
  refine ⟨fun v s h => ⟨_, rfl, if_pos h⟩, fun v s h => ⟨_, rfl, if_neg (Nat.not_lt.mpr h)⟩,
    fun v s => ⟨_, rfl, rfl⟩, fun v s h => ⟨_, rfl, if_pos h⟩, fun v s => ⟨_, rfl, rfl⟩, fun v s => ⟨_, rfl, rfl⟩, ?_⟩
  refine ⟨fun cyc s => ⟨readFrame cyc s, rfl, answerRead_out _ _, rfl, rfl, rfl, rfl⟩,
    fun s => ⟨readJhead s, rfl, answerRead_out _ _, rfl⟩, fun s => ⟨readJold s, rfl, rfl, answerRead_out _ _, rfl⟩,
    fun s => ⟨readJmir s, rfl, rfl, answerRead_out _ _, rfl⟩,
    fun e s he => ⟨readRes e s, ?_, answerRead_out _ _, ?_, rfl⟩,
    fun s => ⟨readWclog s, rfl, rfl, answerRead_out _ _, rfl⟩,
    fun s => ⟨readHover s, rfl, rfl, answerRead_out _ _, rfl⟩⟩
  · exact congrArg Next (if_pos he)
  · exact tget_tset_same _ _ _ _

end

/-! # Arithmetic -/

namespace Sys2Proof.Machine

/-! ## Rounding (R501) -/

theorem rdiv_eq_floor (a : Int) {b : Nat} (hb : 0 < b) : rdiv a b = ⌊(a : ℚ) / b + 1 / 2⌋ := by
  have hq : (b : ℚ) ≠ 0 := by positivity
  have hx : (a : ℚ) / b + 1 / 2 = ((2 * a + b : Int) : ℚ) / ((2 * b : Nat) : ℚ) := by
    push_cast
    field_simp
  rw [hx, Rat.floor_intCast_div_natCast, rdiv, Int.fdiv_eq_ediv_of_nonneg _ (by positivity)]
  push_cast
  rfl

theorem cdiv_eq_ceil (a : Nat) {b : Nat} (hb : 0 < b) : ((cdiv a b : Nat) : Int) = ⌈(a : ℚ) / b⌉ := by
  have hq : (0 : ℚ) < b := by positivity
  have h1 : cdiv a b * b < a + b := by
    have := Nat.div_mul_le_self (a + b - 1) b
    unfold cdiv
    omega
  have h2 : a ≤ cdiv a b * b := by
    have := Nat.lt_div_mul_add (a := a + b - 1) hb
    unfold cdiv
    omega
  rw [eq_comm, Int.ceil_eq_iff]
  constructor
  · rw [lt_div_iff₀ hq]
    have : ((cdiv a b * b : Nat) : ℚ) < ((a + b : Nat) : ℚ) := by exact_mod_cast h1
    push_cast at this ⊢
    linarith
  · rw [div_le_iff₀ hq]
    exact_mod_cast h2

end Sys2Proof.Machine

section
open Sys2Proof Sys2Proof.Machine

/-- Settles O2: halves go up (`rdiv_eq_floor`), and what is rounded up is the ceiling (`cdiv_eq_ceil`). -/
theorem rounding : Obligations.Rounding :=
  ⟨fun a _ hb => rdiv_eq_floor a hb, fun a _ hb => cdiv_eq_ceil a hb, by decide⟩

end

/-! # The word code (R22, R23) -/

namespace Sys2Proof.Machine

/-! ## Weights and columns -/

theorem weight10_eq_countP (v : Nat) : weight10 v = (List.range 10).countP (fun j => v.testBit j) := by
  have h : ∀ (l : List Nat) (n : Nat),
      l.foldl (fun n i => n + b2n (v.testBit i)) n = n + l.countP (fun j => v.testBit j) := by
    intro l
    induction l with
    | nil => intro n; rfl
    | cons i l ih =>
      intro n
      rw [List.foldl_cons, ih, List.countP_cons]
      cases v.testBit i
      · simp [b2n]
      · simp [b2n]
        omega
  exact (h (List.range 10) 0).trans (Nat.zero_add _)

/-- The vectors of 10 bits with n ones, in rising order. -/
def vectorsOfWeight (n : Nat) : List Nat := (List.range 1024).filter fun v => weight10 v = n

theorem mem_vectorsOfWeight {n v : Nat} : v ∈ vectorsOfWeight n ↔ v < 1024 ∧ weight10 v = n := by
  simp [vectorsOfWeight]

theorem pairwise_vectorsOfWeight (n : Nat) : (vectorsOfWeight n).Pairwise (· < ·) :=
  List.pairwise_lt_range.filter _

theorem length_vectorsOfWeight : (vectorsOfWeight 3).length = 120 ∧ (vectorsOfWeight 5).length = 252 := by
  decide +kernel

theorem wcColumns_take : wcColumns.take 120 = vectorsOfWeight 3 :=
  List.take_left' length_vectorsOfWeight.1

theorem wcColumns_drop : wcColumns.drop 120 = (vectorsOfWeight 5).take 136 :=
  List.drop_left' length_vectorsOfWeight.1

theorem length_wcColumns : wcColumns.length = 256 := by
  rw [← List.take_append_drop 120 wcColumns, wcColumns_take, wcColumns_drop, List.length_append, List.length_take,
    length_vectorsOfWeight.1, length_vectorsOfWeight.2]
  rfl

/-- The columns of weight 5 are the lowest ones: every other vector of that weight lies above them. -/
theorem lt_of_mem_wcColumns_drop {u v : Nat} (hu : u ∈ wcColumns.drop 120) (hv : v ∈ vectorsOfWeight 5)
    (hn : v ∉ wcColumns.drop 120) : u < v := by
  rw [wcColumns_drop] at hu hn
  have hp := pairwise_vectorsOfWeight 5
  rw [← List.take_append_drop 136 (vectorsOfWeight 5)] at hp hv
  have hv' : v ∈ (vectorsOfWeight 5).drop 136 := (List.mem_append.mp hv).resolve_left hn
  exact (List.pairwise_append.mp hp).2.2 u hu v hv'

theorem mem_wcColumns {v : Nat} (h : v ∈ wcColumns) : v < 1024 ∧ (weight10 v = 3 ∨ weight10 v = 5) := by
  rw [← List.take_append_drop 120 wcColumns, wcColumns_take, wcColumns_drop, List.mem_append] at h
  obtain h | h := h
  · obtain ⟨hlt, hw⟩ := mem_vectorsOfWeight.mp h
    exact ⟨hlt, .inl hw⟩
  · obtain ⟨hlt, hw⟩ := mem_vectorsOfWeight.mp (List.mem_of_mem_take h)
    exact ⟨hlt, .inr hw⟩

theorem nodup_wcColumns : wcColumns.Nodup := by
  rw [← List.take_append_drop 120 wcColumns, wcColumns_take, wcColumns_drop, List.nodup_append]
  refine ⟨(pairwise_vectorsOfWeight 3).imp Nat.ne_of_lt,
    ((pairwise_vectorsOfWeight 5).imp Nat.ne_of_lt).sublist (List.take_sublist _ _), fun a ha b hb e => ?_⟩
  have h3 := (mem_vectorsOfWeight.mp ha).2
  have h5 := (mem_vectorsOfWeight.mp (List.mem_of_mem_take hb)).2
  rw [e, h5] at h3
  exact absurd h3 (by decide)

/-- The column of data bit i; no case split is to unfold the 256 of them. -/
@[irreducible] def wcColumn (i : Nat) : Nat := wcColumns.getD i 0

theorem getD_wcColumns (i : Nat) : wcColumns.getD i 0 = wcColumn i := by
  unfold wcColumn
  rfl

theorem wcColumn_eq_getElem {i : Nat} (h : i < 256) : wcColumn i = wcColumns[i]'(length_wcColumns ▸ h) :=
  (getD_wcColumns i).symm.trans (List.getD_eq_getElem _ _ _)

theorem wcColumn_mem {i : Nat} (h : i < 256) : wcColumn i ∈ wcColumns :=
  wcColumn_eq_getElem h ▸ List.getElem_mem _

theorem wcColumn_inj {i k : Nat} (hi : i < 256) (hk : k < 256) (h : wcColumn i = wcColumn k) : i = k := by
  rw [wcColumn_eq_getElem hi, wcColumn_eq_getElem hk] at h
  exact (nodup_wcColumns.getElem_inj_iff).mp h

/-! ## The columns of the check matrix

One inverted bit has the syndrome of its column: that of the data bit, or the single one of the check bit. Every such column
has odd weight, so the sum of two of them is none. -/

/-- v is the column of a data bit or of a check bit. -/
def CheckColumn (v : Nat) : Prop := (∃ i, i < 256 ∧ v = wcColumn i) ∨ ∃ j, j < 10 ∧ v = 2 ^ j

theorem checkColumn_data {i : Nat} (h : i < 256) : CheckColumn (wcColumn i) := .inl ⟨i, h, rfl⟩

theorem checkColumn_check {j : Nat} (h : j < 10) : CheckColumn (2 ^ j) := .inr ⟨j, h, rfl⟩

theorem weight10_two_pow : ∀ j, j < 10 → weight10 (2 ^ j) = 1 := by decide

theorem CheckColumn.lt {v : Nat} (h : CheckColumn v) : v < 1024 := by
  obtain ⟨i, hi, rfl⟩ | ⟨j, hj, rfl⟩ := h
  · exact (mem_wcColumns (wcColumn_mem hi)).1
  · exact Nat.pow_lt_pow_right (by decide) hj

theorem CheckColumn.odd_weight {v : Nat} (h : CheckColumn v) : weight10 v % 2 = 1 := by
  obtain ⟨i, hi, rfl⟩ | ⟨j, hj, rfl⟩ := h
  · obtain h | h := (mem_wcColumns (wcColumn_mem hi)).2 <;> rw [h]
  · rw [weight10_two_pow j hj]

theorem CheckColumn.ne_zero {v : Nat} (h : CheckColumn v) : v ≠ 0 := by
  rintro rfl
  exact absurd h.odd_weight (by decide)

theorem wcColumn_ne_two_pow {i j : Nat} (hi : i < 256) (hj : j < 10) : wcColumn i ≠ 2 ^ j := by
  intro h
  have hw := (mem_wcColumns (wcColumn_mem hi)).2
  rw [h, weight10_two_pow j hj] at hw
  omega

theorem countP_xor_mod_two (p q : Nat → Bool) (l : List Nat) :
    l.countP (fun j => p j ^^ q j) % 2 = (l.countP p + l.countP q) % 2 := by
  induction l with
  | nil => rfl
  | cons j l ih =>
    simp only [List.countP_cons]
    cases p j <;> cases q j <;> simp <;> omega

theorem weight10_xor_mod_two (a b : Nat) : weight10 (a ^^^ b) % 2 = (weight10 a + weight10 b) % 2 := by
  simp only [weight10_eq_countP, Nat.testBit_xor]
  exact countP_xor_mod_two _ _ _

theorem CheckColumn.not_xor {a b : Nat} (ha : CheckColumn a) (hb : CheckColumn b) : ¬CheckColumn (a ^^^ b) := by
  intro h
  have h1 := h.odd_weight
  have h2 := weight10_xor_mod_two a b
  have h3 := ha.odd_weight
  have h4 := hb.odd_weight
  omega

/-! ## The outcome of a syndrome (R23) -/

theorem wcSyndrome_wcColumn {i : Nat} (h : i < 256) : wcSyndrome (wcColumn i) = .corrected i := by
  have hf : wcColumns.findIdx? (fun c => c = wcColumn i) = some i := by
    rw [List.findIdx?_eq_some_iff_getElem]
    refine ⟨length_wcColumns ▸ h, decide_eq_true (wcColumn_eq_getElem h).symm, fun k hk => ?_⟩
    have hk' : k < 256 := by omega
    rw [← wcColumn_eq_getElem hk']
    simp only [decide_eq_true_eq]
    exact fun e => absurd (wcColumn_inj hk' h e) (by omega)
  rw [wcSyndrome, if_neg (checkColumn_data h).ne_zero, hf]

theorem findIdx_wcColumns_eq_none {v : Nat} (h : ∀ i, i < 256 → v ≠ wcColumn i) :
    wcColumns.findIdx? (fun c => c = v) = none := by
  rw [List.findIdx?_eq_none_iff]
  intro c hc
  obtain ⟨i, hi, rfl⟩ := List.getElem_of_mem hc
  rw [length_wcColumns] at hi
  have := h i hi
  rw [wcColumn_eq_getElem hi] at this
  simpa using this.symm

theorem wcSyndrome_two_pow {j : Nat} (h : j < 10) : wcSyndrome (2 ^ j) = .corrected (256 + j) := by
  have hf : ∀ j, j < 10 → (List.range 10).find? (fun k => 2 ^ j = 2 ^ k) = some j := by decide
  rw [wcSyndrome, if_neg (checkColumn_check h).ne_zero,
    findIdx_wcColumns_eq_none fun i hi => (wcColumn_ne_two_pow hi h).symm, hf j h]

theorem wcSyndrome_other {v : Nat} (h0 : v ≠ 0) (h : ¬CheckColumn v) : wcSyndrome v = .uncorrectable := by
  have hf : (List.range 10).find? (fun j => v = 2 ^ j) = none := by
    simp only [List.find?_eq_none, List.mem_range, decide_eq_true_eq]
    exact fun j hj e => h (.inr ⟨j, hj, e⟩)
  rw [wcSyndrome, if_neg h0, findIdx_wcColumns_eq_none fun i hi e => h (.inl ⟨i, hi, e⟩), hf]

theorem wcSyndrome_zero : wcSyndrome 0 = .clean := if_pos rfl

/-- The four kinds of syndrome. -/
theorem syndrome_cases (v : Nat) : v = 0 ∨ (∃ i, i < 256 ∧ v = wcColumn i) ∨ (∃ j, j < 10 ∧ v = 2 ^ j) ∨
    (v ≠ 0 ∧ ¬CheckColumn v) := by
  by_cases h0 : v = 0
  · exact .inl h0
  by_cases h : CheckColumn v
  · obtain h | h := h
    · exact .inr (.inl h)
    · exact .inr (.inr (.inl h))
  · exact .inr (.inr (.inr ⟨h0, h⟩))

theorem wcSyndrome_eq_clean {v : Nat} : wcSyndrome v = .clean ↔ v = 0 := by
  refine ⟨fun h => ?_, fun h => h ▸ wcSyndrome_zero⟩
  obtain h0 | ⟨i, hi, rfl⟩ | ⟨j, hj, rfl⟩ | ⟨h0, hn⟩ := syndrome_cases v
  · exact h0
  · rw [wcSyndrome_wcColumn hi] at h; cases h
  · rw [wcSyndrome_two_pow hj] at h; cases h
  · rw [wcSyndrome_other h0 hn] at h; cases h

theorem wcSyndrome_eq_uncorrectable {v : Nat} : wcSyndrome v = .uncorrectable ↔ v ≠ 0 ∧ ¬CheckColumn v := by
  refine ⟨fun h => ?_, fun h => wcSyndrome_other h.1 h.2⟩
  obtain rfl | ⟨i, hi, rfl⟩ | ⟨j, hj, rfl⟩ | hn := syndrome_cases v
  · rw [wcSyndrome_zero] at h; cases h
  · rw [wcSyndrome_wcColumn hi] at h; cases h
  · rw [wcSyndrome_two_pow hj] at h; cases h
  · exact hn

theorem wcSyndrome_eq_corrected_data {v i : Nat} (hi : i < 256) : wcSyndrome v = .corrected i ↔ v = wcColumn i := by
  refine ⟨fun h => ?_, fun h => h ▸ wcSyndrome_wcColumn hi⟩
  obtain rfl | ⟨k, hk, rfl⟩ | ⟨j, hj, rfl⟩ | ⟨h0, hn⟩ := syndrome_cases v
  · rw [wcSyndrome_zero] at h; cases h
  · rw [wcSyndrome_wcColumn hk] at h; cases h; rfl
  · rw [wcSyndrome_two_pow hj] at h; cases h; omega
  · rw [wcSyndrome_other h0 hn] at h; cases h

theorem wcSyndrome_eq_corrected_check {v j : Nat} (hj : j < 10) : wcSyndrome v = .corrected (256 + j) ↔ v = 2 ^ j := by
  refine ⟨fun h => ?_, fun h => h ▸ wcSyndrome_two_pow hj⟩
  obtain rfl | ⟨i, hi, rfl⟩ | ⟨k, hk, rfl⟩ | ⟨h0, hn⟩ := syndrome_cases v
  · rw [wcSyndrome_zero] at h; cases h
  · rw [wcSyndrome_wcColumn hi] at h; cases h; omega
  · rw [wcSyndrome_two_pow hk, WcOut.corrected.injEq] at h
    rw [show k = j by omega]
  · rw [wcSyndrome_other h0 hn] at h; cases h

/-- Two different columns of the check matrix sum to no column (R23). -/
theorem wcSyndrome_xor {a b : Nat} (ha : CheckColumn a) (hb : CheckColumn b) (h : a ≠ b) :
    wcSyndrome (a ^^^ b) = .uncorrectable :=
  wcSyndrome_other (fun e => h (Nat.xor_eq_zero_iff.mp e)) (ha.not_xor hb)

/-! ## The check bits are linear in the data (R22) -/

theorem zipIdx_wcColumns : wcColumns.zipIdx = (List.range 256).map fun i => (wcColumn i, i) := by
  refine List.ext_getElem (by simp [length_wcColumns]) fun i h1 h2 => ?_
  have hi : i < 256 := by simpa using h2
  simp [wcColumn_eq_getElem hi]

/-- The sum of the columns of the ones of d over a list of bits, from c on. -/
def columnSum (d : W256) (l : List Nat) (c : Nat) : Nat :=
  l.foldl (fun c i => if d.getLsbD i then c ^^^ wcColumn i else c) c

theorem wcCheck_eq_columnSum (d : W256) : wcCheck d = BitVec.ofNat 10 (columnSum d (List.range 256) 0) := by
  rw [wcCheck, zipIdx_wcColumns, List.foldl_map, columnSum]

theorem testBit_columnSum (d : W256) (j : Nat) (l : List Nat) (c : Nat) : (columnSum d l c).testBit j =
    l.foldl (fun x i => x ^^ (d.getLsbD i && (wcColumn i).testBit j)) (c.testBit j) := by
  induction l generalizing c with
  | nil => rfl
  | cons i l ih =>
    refine (ih _).trans ?_
    rw [List.foldl_cons]
    cases h : d.getLsbD i <;> simp [h]

theorem columnSum_xor (a b : W256) (l : List Nat) (x y : Nat) :
    columnSum (a ^^^ b) l (x ^^^ y) = columnSum a l x ^^^ columnSum b l y := by
  induction l generalizing x y with
  | nil => rfl
  | cons i l ih =>
    rw [columnSum, List.foldl_cons, columnSum, List.foldl_cons, columnSum, List.foldl_cons, BitVec.getLsbD_xor]
    have h := ih (if a.getLsbD i then x ^^^ wcColumn i else x) (if b.getLsbD i then y ^^^ wcColumn i else y)
    refine Eq.trans (congrArg (columnSum (a ^^^ b) l) ?_) h
    cases a.getLsbD i <;> cases b.getLsbD i <;> simp [Nat.xor_assoc, Nat.xor_comm, Nat.xor_left_comm]

theorem wcCheck_xor (a b : W256) : wcCheck (a ^^^ b) = wcCheck a ^^^ wcCheck b := by
  have h := columnSum_xor a b (List.range 256) 0 0
  rw [wcCheck_eq_columnSum, wcCheck_eq_columnSum, wcCheck_eq_columnSum, ← BitVec.ofNat_xor]
  exact congrArg _ h

/-- A word with a single one. -/
abbrev oneBit (i : Nat) : W256 := BitVec.ofNat 256 (2 ^ i)

theorem getLsbD_oneBit {i : Nat} (hi : i < 256) (k : Nat) : (oneBit i).getLsbD k = decide (i = k) := by
  rw [BitVec.getLsbD_ofNat, Nat.testBit_two_pow]
  by_cases h : i = k
  · simp [← h, hi]
  · simp [h]

theorem columnSum_oneBit {i : Nat} (hi : i < 256) (n : Nat) :
    columnSum (oneBit i) (List.range n) 0 = if i < n then wcColumn i else 0 := by
  induction n with
  | zero => rfl
  | succ n ih =>
    rw [List.range_succ, columnSum, List.foldl_append, show List.foldl _ 0 _ = _ from ih]
    simp only [List.foldl_cons, List.foldl_nil, getLsbD_oneBit hi, decide_eq_true_eq]
    by_cases h : i = n
    · subst h
      simp
    · rw [if_neg h]
      exact if_congr (by omega) rfl rfl

theorem wcCheck_oneBit {i : Nat} (hi : i < 256) : wcCheck (oneBit i) = BitVec.ofNat 10 (wcColumn i) := by
  rw [wcCheck_eq_columnSum, columnSum_oneBit hi, if_pos hi]

/-! ## Reading a word (R23) -/

theorem wcDecode_of_syndrome {d : W256} {c : BitVec 10} {v : Nat} (hv : v < 1024)
    (h : wcCheck d ^^^ c = BitVec.ofNat 10 v) : wcDecode d c = wcSyndrome v := by
  rw [wcDecode, h, BitVec.toNat_ofNat, Nat.mod_eq_of_lt hv]

/-- A syndrome of two columns of the check matrix is found, and not corrected. -/
theorem wcDecode_of_two {d : W256} {c : BitVec 10} {a b : Nat} (ha : CheckColumn a) (hb : CheckColumn b) (hne : a ≠ b)
    (h : wcCheck d ^^^ c = BitVec.ofNat 10 a ^^^ BitVec.ofNat 10 b) : wcDecode d c = .uncorrectable := by
  rw [← BitVec.ofNat_xor] at h
  rw [wcDecode_of_syndrome (Nat.xor_lt_two_pow (n := 10) ha.lt hb.lt) h, wcSyndrome_xor ha hb hne]

/-- An inverted data bit shifts the check bits by its column. -/
theorem wcCheck_invert (d : W256) {i : Nat} (hi : i < 256) :
    wcCheck (d ^^^ oneBit i) = wcCheck d ^^^ BitVec.ofNat 10 (wcColumn i) := by
  rw [wcCheck_xor, wcCheck_oneBit hi]

theorem xor_xor_self_right {n : Nat} (x y : BitVec n) : x ^^^ y ^^^ y = x := by
  rw [BitVec.xor_assoc, BitVec.xor_self, BitVec.xor_zero]

theorem xor_xor_self_left {n : Nat} (x y : BitVec n) : x ^^^ (x ^^^ y) = y := by
  rw [← BitVec.xor_assoc, BitVec.xor_self, BitVec.zero_xor]

theorem xor_right_xor_self {n : Nat} (x y : BitVec n) : x ^^^ y ^^^ x = y := by
  rw [BitVec.xor_comm x, xor_xor_self_right]

theorem toNat_xor_eq_zero {a b : BitVec 10} : (a ^^^ b).toNat = 0 ↔ b = a := by
  rw [BitVec.toNat_xor, Nat.xor_eq_zero_iff, BitVec.toNat_inj, eq_comm]

theorem getLsbD_wcCheck (d : W256) {j : Nat} (hj : j < 10) : (wcCheck d).getLsbD j =
    (List.range 256).foldl (fun x i => x ^^ (d.getLsbD i && (wcColumn i).testBit j)) false := by
  rw [wcCheck_eq_columnSum, BitVec.getLsbD_ofNat, testBit_columnSum, Nat.zero_testBit, decide_eq_true hj, Bool.true_and]

theorem not_checkColumn {v : Nat} : ¬CheckColumn v ↔ (∀ i, i < 256 → v ≠ wcColumn i) ∧ ∀ j, j < 10 → v ≠ 2 ^ j := by
  simp only [CheckColumn, not_or, not_exists, not_and, ne_eq]

end Sys2Proof.Machine

section
open Sys2Proof Sys2Proof.Machine

/-- Settles O1: one inverted bit shifts the syndrome by its column (`wcCheck_xor`, `wcCheck_oneBit`), every column has odd
weight, so no column is the sum of two (`CheckColumn.not_xor`). -/
theorem wordCode : Obligations.WordCode := by
  unfold Obligations.WordCode
  simp only [getD_wcColumns]
  refine ⟨⟨length_wcColumns, ?_, ?_, fun v => ?_, fun v hv => ?_, fun v hv h5 hn u hu => ?_⟩, fun d j hj => getLsbD_wcCheck d hj,
    fun d c => ?_, fun d c => ?_, fun d c i hi => wcSyndrome_eq_corrected_data hi,
    fun d c j hj => wcSyndrome_eq_corrected_check hj, fun d => ⟨rfl, rfl⟩, fun d i hi => ⟨?_, ?_⟩, fun d j hj => ⟨?_, ?_⟩,
    fun d i k hi hk hne => ?_, fun d i j hi hj => ?_, fun d j k hj hk hne => ?_⟩
  · rw [wcColumns_take]
    exact pairwise_vectorsOfWeight 3
  · rw [wcColumns_drop]
    exact (pairwise_vectorsOfWeight 5).sublist (List.take_sublist _ _)
  · rw [wcColumns_take, mem_vectorsOfWeight, weight10_eq_countP]
  · rw [wcColumns_drop] at hv
    rw [← weight10_eq_countP]
    exact mem_vectorsOfWeight.mp (List.mem_of_mem_take hv)
  · exact lt_of_mem_wcColumns_drop hu (mem_vectorsOfWeight.mpr ⟨hv, weight10_eq_countP v ▸ h5⟩) hn
  · exact wcSyndrome_eq_clean.trans toNat_xor_eq_zero
  · rw [← not_checkColumn, Ne, ← toNat_xor_eq_zero]
    exact wcSyndrome_eq_uncorrectable
  · rw [wcDecode_of_syndrome (checkColumn_data hi).lt (by rw [wcCheck_invert d hi, xor_right_xor_self]),
      wcSyndrome_wcColumn hi]
  · rw [wcData, if_pos hi, xor_xor_self_right]
  · rw [wcDecode_of_syndrome (checkColumn_check hj).lt (xor_xor_self_left _ _), wcSyndrome_two_pow hj]
  · rw [wcData, if_neg (by omega)]
  · refine wcDecode_of_two (checkColumn_data hi) (checkColumn_data hk) (fun e => hne (wcColumn_inj hi hk e)) ?_
    rw [wcCheck_invert _ hk, wcCheck_invert d hi, BitVec.xor_assoc (wcCheck d), xor_right_xor_self]
  · refine wcDecode_of_two (checkColumn_data hi) (checkColumn_check hj) (wcColumn_ne_two_pow hi hj) ?_
    rw [wcCheck_invert d hi, ← BitVec.xor_assoc, xor_right_xor_self]
  · refine wcDecode_of_two (checkColumn_check hj) (checkColumn_check hk)
      (fun e => hne (Nat.pow_right_injective (le_refl 2) e)) ?_
    rw [BitVec.xor_assoc, xor_xor_self_left]

end

/-! # Ember mode (R37, R195, R196, R395, R457) -/

namespace Sys2Proof.Machine

/-! ## What the flash's operations leave alone (R355, R356, R361) -/

/-- The state without the store's own record and the count of free values. -/
def State.offFlash (s : State) : State := { s with nv := {}, free := 0 }

theorem offFlash_flashProgram (a : Nat) (w : W256) (s : State) : (flashProgram a w s).offFlash = s.offFlash :=
  kept_ite State.offFlash rfl

theorem offFlash_tornWord (a : Nat) (w : Codeword) (s : State) : (tornWord a w s).offFlash = s.offFlash := rfl

theorem offFlash_tornErase (n : Nat) (s : State) : (tornErase n s).offFlash = s.offFlash := by
  unfold tornErase
  exact each_keep State.offFlash (fun k s => offFlash_tornWord (256 * n + k) erasedWord s) _ _

theorem offFlash_eraseAbort (s : State) : (eraseAbort s).offFlash = s.offFlash := by
  unfold eraseAbort
  split
  · rfl
  · exact offFlash_tornErase _ _

theorem offFlash_nvBegin (s : State) : (nvBegin s).offFlash = s.offFlash := by
  unfold nvBegin
  split
  · rfl
  split
  · rfl
  split
  · rfl
  · exact kept_branch State.offFlash (kept_ite State.offFlash rfl) rfl

theorem offFlash_nvWrite (u : JobUse) (q r : Nat) (s : State) : (nvWrite u q r s).offFlash = s.offFlash :=
  offFlash_nvBegin _

theorem nvWrite_parts (u : JobUse) (q r : Nat) (s : State) :
    (nvWrite u q r s).rails = s.rails ∧ (nvWrite u q r s).cfg = s.cfg ∧ (nvWrite u q r s).pwr = s.pwr :=
  have h := offFlash_nvWrite u q r s
  ⟨(congrArg State.rails h :), (congrArg State.cfg h :), (congrArg State.pwr h :)⟩

theorem pwr_eraseAbort (s : State) : (eraseAbort s).pwr = s.pwr  :=
  (congrArg State.pwr (offFlash_eraseAbort s) :)

/-! ## The writes asked for (R361) -/

theorem mem_of_pickJob {s : State} {l l' : List Job} {j : Job} (h : pickJob s l = some (j, l')) {x : Job} (hx : x ∈ l) :
    x = j ∨ x ∈ l' := by
  induction l generalizing j l' with
  | nil => cases hx
  | cons y l ih =>
    rw [pickJob] at h
    split at h
    · cases h
      exact List.mem_cons.mp hx
    · obtain ⟨⟨k, m⟩, hk, he⟩ := Option.map_eq_some_iff.mp h
      cases he
      obtain rfl | hx := List.mem_cons.mp hx
      · exact .inr (List.mem_cons_self ..)
      · exact (ih hk hx).imp_right (List.mem_cons_of_mem _)

/-- Beginning the write in front loses none of the writes asked for. -/
theorem use_mem_nvBegin {s : State} {j : Job} (hj : j ∈ s.nv.jobs) : ∃ k ∈ (nvBegin s).nv.jobs, k.use = j.use := by
  have hstay : ∃ k ∈ s.nv.jobs, k.use = j.use := ⟨j, hj, rfl⟩
  unfold nvBegin
  split
  · exact hstay
  next k l hp =>
    have hbegin : ∀ a : Nat, ∃ x ∈ { k with begun := true, at_ := a } :: l, x.use = j.use := by
      intro a
      obtain rfl | hl := mem_of_pickJob hp hj
      · exact ⟨_, List.mem_cons_self .., rfl⟩
      · exact ⟨j, List.mem_cons_of_mem _ hl, rfl⟩
    split
    · exact hstay
    split
    · exact hbegin _
    · dsimp only
      split
      · rw [eraseAsk]
        split <;> exact hstay
      · exact hbegin _

theorem use_mem_nvWrite (u : JobUse) (q r : Nat) (s : State) : ∃ j ∈ (nvWrite u q r s).nv.jobs, j.use = u := by
  unfold nvWrite
  extract_lets j
  exact use_mem_nvBegin (j := j) (List.mem_append_right _ (List.mem_singleton_self _))

/-! ## The words of the record (R197) -/

theorem put_eq_mul (v lo width : Nat) : put v lo width = v % 2 ^ width * 2 ^ lo := Nat.shiftLeft_eq _ _

/-- The first fields of W0, whatever stands behind them. -/
theorem emberW0_fields {W f g q a b c h w : Nat} (hW : W = put f 0 48 + put g 48 8 + put 1 56 8 + put q 64 32 + put a 96 8 +
    put b 104 8 + put c 112 16 + put h 128 64 + put w 192 16) :
    W % 2 ^ 48 = f % 2 ^ 48 ∧ nbits W 55 48 = g % 2 ^ 8 ∧ nbits W 95 64 = q % 2 ^ 32 := by
  simp only [put_eq_mul] at hW
  simp only [nbits, Nat.shiftRight_eq_div_pow]
  omega

section
variable (bits : Nat) (pf : Ts) (s : State)

theorem emberRecord_word_zero : ∃ bad, (emberRecord bits pf s).word 0 = emberW0 bits bad pf s := ⟨_, rfl⟩

theorem emberRecord_pf : (emberRecord bits pf s).pf = pf := by
  obtain ⟨bad, hw⟩ := emberRecord_word_zero bits pf s
  obtain ⟨hframe, hfrac, -⟩ := emberW0_fields (emberW0.eq_1 bits bad pf s)
  have h1 : BitVec.ofNat 48 (emberW0 bits bad pf s) = pf.frame :=
    BitVec.eq_of_toNat_eq (by rw [BitVec.toNat_ofNat, hframe, Nat.mod_eq_of_lt pf.frame.isLt])
  have h2 : BitVec.ofNat 8 (nbits (emberW0 bits bad pf s) 55 48) = pf.frac := by
    rw [hfrac, ← BitVec.toNat_ofNat, BitVec.ofNat_toNat, BitVec.ofNat_toNat, BitVec.setWidth_eq, BitVec.setWidth_eq]
  rw [Ember.pf, hw, h1, h2]

theorem emberRecord_seq : (emberRecord bits pf s).seq = s.pwr.emberSeq % 2 ^ 32 := by
  obtain ⟨bad, hw⟩ := emberRecord_word_zero bits pf s
  obtain ⟨-, -, hseq⟩ := emberW0_fields (emberW0.eq_1 bits bad pf s)
  rw [Ember.seq, hw, hseq]

end

/-! ## Entry into ember mode (R36, R37, R457) -/

theorem tget_of_forall {α : Type} (P : α → Prop) {d : α} (hd : P d) {t : Tbl α} (h : ∀ p ∈ t, P p.2) (k : Nat) : P (tget d t k) := by
  induction t with
  | nil => exact hd
  | cons p t ih =>
    obtain ⟨hp, ht⟩ := List.forall_mem_cons.mp h
    rw [tget]
    split
    · exact hp
    · exact ih ht

/-- A reset that holds no domain leaves every rail unused (R445). -/
theorem resetCore_unused (s : State) (i : Nat) : ((resetCore false s).rail i).st = .unused := by
  refine tget_of_forall (fun r : Rail => r.st = .unused) rfl (fun p hp => ?_) i
  obtain ⟨q, -, rfl⟩ := List.mem_map.mp (List.mem_filter.mp hp).1
  rfl

theorem resetCore_cfg (s : State) : (resetCore false s).cfg = State.reset.cfg := by
  simp [resetCore, State.reset]

/-- The part in ember mode before the ember writer's record is asked for; `u` is the record to be written. -/
def emberEntered (u : Option Ember) (s : State) : State :=
  let t := resetCore false (eraseAbort s)
  { t with
    recd := { t.recd with summ := s.recd.summ }
    pwr := { t.pwr with
      phase := .ember, domains := 0x13, emberDone := u.isNone && t.nv.tail.isNone, writing := u
      emberSeq := if u.isSome then t.pwr.emberSeq + 1 else t.pwr.emberSeq, flushed := [], sram := some (sharedSram s) } }

theorem emberSeq_emberEntered (u : Option Ember) (s : State) :
    (emberEntered u s).pwr.emberSeq = if u.isSome then s.pwr.emberSeq + 1 else s.pwr.emberSeq := by
  rw [← pwr_eraseAbort s]
  rfl

section
variable {bits : Nat} {pf : Ts} {s : State}

theorem powerFailure_armed (h : s.pwr.phase = .run) (ha : s.nv.armed = true) : powerFailure bits pf s =
    nvWrite (.ember (emberRecord bits pf s)) 0 0 (emberEntered (some (emberRecord bits pf s)) s) := by
  simp [powerFailure, h, ha, emberEntered]

theorem powerFailure_unarmed (h : s.pwr.phase = .run) (ha : s.nv.armed = false) :
    powerFailure bits pf s = emberEntered none s := by
  simp [powerFailure, h, ha, emberEntered]

end

/-! ## The recorder's images (R395) -/

theorem buf_placeEmber (im : Img) (s : State) : (placeEmber im s).2.recd.buf = s.recd.buf := by
  unfold placeEmber
  split <;> rfl

theorem pwr_placeEmber (im : Img) (s : State) : (placeEmber im s).2.pwr = s.pwr := by
  unfold placeEmber
  split <;> rfl

theorem each_singleton {α : Type} (a : α) (f : α → State → State) (s : State) : each [a] f s = f a s := rfl

/-- A buffer of one image is flushed by placing and programming that image, whatever its severity. -/
theorem emberFlush_single {im : Img} {n : Nat} {s : State} (hp : s.pwr.phase = .ember) (hb : s.recd.buf = [im])
    (hs : im.sev ≤ 3) (hn : 0 < n) (hok : (placeEmber im s).1 = true) :
    ∃ q u, u.offFlash = (placeEmber im s).2.offFlash ∧ (emberFlush n s).recd = (recordStored q im u).recd ∧
      (emberFlush n s).pwr.flushed = u.pwr.flushed ++ [im.rnum] := by
  have hl : ∀ first : Img → Bool, ([3, 2, 1, 0].flatMap fun v => ([im].filter fun x => x.sev = v && first x) ++
      [im].filter fun x => x.sev = v && !first x) = [im] := by
    intro first
    have h4 : im.sev = 0 ∨ im.sev = 1 ∨ im.sev = 2 ∨ im.sev = 3 := by omega
    obtain h | h | h | h := h4 <;> cases hf : first im <;> simp [h, hf]
  have ht : [im].take n = [im] := List.take_of_length_le hn
  unfold emberFlush
  rw [if_neg (not_not_intro hp)]
  simp only [hb, hl, ht, each_singleton, if_pos hok]
  generalize hu : each _ _ _ = u
  refine ⟨_, u, ?_, rfl, rfl⟩
  rw [← hu]
  exact each_keep State.offFlash (fun w s => offFlash_flashProgram _ _ s) _ _

end Sys2Proof.Machine

section
open Sys2Proof Sys2Proof.Machine

/-- Settles O11: the entry by `powerFailure_armed` and `powerFailure_unarmed`, where only the ember writer's record stands
among the writes; the flush by `emberFlush_single`. -/
theorem emberMode : Obligations.EmberMode := by
  refine ⟨fun c k s hp ha => ?_, fun c k s hp ha => ?_, fun im n s hp hb hs hr hn hok => ?_⟩
  · refine ⟨_, congrArg Next (powerFailure_armed hp ha), ?_⟩
    obtain ⟨hrails, hcfg, hpwr⟩ := nvWrite_parts _ 0 0 _
    refine ⟨congrArg Pwr.phase hpwr, fun i => ?_, hcfg.trans (resetCore_cfg _), congrArg Pwr.emberDone hpwr,
      (congrArg Pwr.emberSeq hpwr).trans (emberSeq_emberEntered _ s), _, congrArg Pwr.writing hpwr, emberRecord_pf _ _ s,
      emberRecord_seq _ _ s, use_mem_nvWrite _ _ _ _⟩
    rw [State.rail, hrails]
    exact resetCore_unused _ i
  · exact ⟨_, congrArg Next (powerFailure_unarmed hp ha), rfl, fun i => resetCore_unused _ i, rfl, rfl, rfl,
      emberSeq_emberEntered none s⟩
  · obtain ⟨q, u, hu, hrecd, hfl⟩ := emberFlush_single hp hb hs hn hok
    have hbuf : u.recd.buf = [im] := (congrArg (fun t => t.recd.buf) hu).trans ((buf_placeEmber im s).trans hb)
    have hpwr : u.pwr = s.pwr := (congrArg State.pwr hu :).trans (pwr_placeEmber im s)
    refine ⟨_, rfl, hfl.trans (by rw [hpwr]), ?_⟩
    rw [hrecd, recordStored]
    simp [hbuf, hr]

end

/-! # The commands of the rings: from the descriptor to the completion (R51, R299 to R302; log 8) -/

namespace Sys2Proof.Machine

/-! ## What a pass over a list keeps -/

/-- A pass keeps a part that each of its steps keeps while the part is as `Q` says. -/
theorem each_keep_where {α β : Type} (P : State → β) (Q : β → Prop) {f : α → State → State} {l : List α}
    (hf : ∀ a ∈ l, ∀ s, Q (P s) → P (f a s) = P s) (s : State) (hs : Q (P s)) : P (each l f s) = P s := by
  unfold each
  induction l generalizing s with
  | nil => rfl
  | cons a l ih =>
    have ha : P (f a s) = P s := hf a (List.mem_cons_self ..) s hs
    exact (ih (fun b hb => hf b (List.mem_cons_of_mem _ hb)) (f a s) (ha ▸ hs)).trans ha

/-- A pass brings about what each of its steps keeps. -/
theorem each_invariant {α : Type} (R : State → Prop) {f : α → State → State} (hf : ∀ a s, R s → R (f a s)) (l : List α)
    (s : State) (hs : R s) : R (each l f s) := by
  unfold each
  induction l generalizing s with
  | nil => exact hs
  | cons a l ih => exact ih (f a s) (hf a s hs)

theorem each_append {α : Type} (l m : List α) (f : α → State → State) (s : State) :
    each (l ++ m) f s = each m f (each l f s) := List.foldl_append

/-! ## The live commands of a SEQ (R299, R301) -/

/-- The live commands of a SEQ. -/
def State.livesOf (q : Nat) (s : State) : List Live := s.hst.live.filter fun l => l.seq = q

theorem liveOf_eq_head? (q : Nat) (s : State) : s.liveOf q = (s.livesOf q).head? := List.head?_filter.symm

theorem livesOf_eq_nil {q : Nat} {s : State} : s.livesOf q = [] ↔ s.liveOf q = none := by
  rw [liveOf_eq_head?, List.head?_eq_none_iff]

theorem livesOf_congr {s t : State} (h : t.hst.live = s.hst.live) (q : Nat) : t.livesOf q = s.livesOf q := by
  rw [State.livesOf, h, State.livesOf]

theorem livesOf_finishAt (d p st res q : Nat) (s : State) :
    (finishAt d p st res s).livesOf q = if q = p then [] else s.livesOf q := by
  unfold finishAt
  extract_lets f
  split
  · simp only [State.livesOf, List.filter_filter]
    split
    · next h => simp [h]
    · next h =>
      refine List.filter_congr fun l _ => ?_
      by_cases hl : l.seq = q
      · simp [hl, h]
      · simp [hl]
  · next hn =>
    split
    · next h => rw [h]; exact livesOf_eq_nil.mpr hn
    · rfl

theorem livesOf_finishAll {w : Wait → Bool} {q : Nat} {s : State} (h : ∀ l ∈ s.livesOf q, w l.wait = false) (st res : Nat) :
    (finishAll w st res s).livesOf q = s.livesOf q := by
  refine each_keep_where (State.livesOf q) (fun _ => True) (fun p hp u _ => ?_) s trivial
  obtain ⟨l, hl, rfl⟩ := List.mem_map.mp hp
  obtain ⟨hmem, hw⟩ := List.mem_filter.mp hl
  have hne : q ≠ l.seq := by
    rintro rfl
    exact absurd hw (by simp [h l (List.mem_filter.mpr ⟨hmem, by simp⟩)])
  exact (livesOf_finishAt ..).trans (if_neg hne)

/-- The telling of ended programs ends no command that waits for none. -/
theorem livesOf_progsTell {q : Nat} {s : State} (h : ∀ l ∈ s.livesOf q, ∀ n, l.wait ≠ .prog n) :
    (progsTell s).livesOf q = s.livesOf q := by
  refine each_keep_where (State.livesOf q) (fun v => ∀ l ∈ v, ∀ n, l.wait ≠ .prog n) (fun n _ u hu => ?_) s h
  unfold progTell
  extract_lets p
  split
  · exact livesOf_finishAll (fun l hl => by simpa using hu l hl n) _ _
  · rfl

/-! ## What ending, waiting and telling touch (R51, R108, R300, R306) -/

/-- The state without what the end of a command and its telling touch: the frame counter, the journal, the host interface,
what is sent, the programs. -/
def State.offTell (s : State) : State :=
  { s with clk := {}, jrn := {}, hst := {}, out := [], seq := { s.seq with progs := [] } }

theorem offTell_finishAt (d q st res : Nat) (s : State) : (finishAt d q st res s).offTell = s.offTell := by
  unfold finishAt
  extract_lets f
  split <;> rfl

theorem offTell_finishAll (w : Wait → Bool) (st res : Nat) (s : State) : (finishAll w st res s).offTell = s.offTell :=
  each_keep State.offTell (fun _ _ => offTell_finishAt ..) _ _

theorem offTell_progsTell (s : State) : (progsTell s).offTell = s.offTell := by
  refine each_keep State.offTell (fun n s => ?_) _ _
  unfold progTell
  exact kept_ite State.offTell (offTell_finishAll ..)

theorem offTell_relayOut (d : Desc) (s : State) : (relayOut d s).offTell = s.offTell := kept_ite State.offTell rfl

theorem offTell_startedPost (q : Nat) (s : State) : (startedPost q s).offTell = s.offTell := by
  unfold startedPost
  split
  · exact kept_ite State.offTell rfl
  · rfl

theorem live_relayOut (d : Desc) (s : State) : (relayOut d s).hst.live = s.hst.live :=
  kept_ite (fun u : State => u.hst.live) rfl

theorem seq_relayOut (d : Desc) (s : State) : (relayOut d s).seq = s.seq := kept_ite State.seq rfl

theorem seq_startedPost (q : Nat) (s : State) : (startedPost q s).seq = s.seq := by
  unfold startedPost
  split
  · exact kept_ite State.seq rfl
  · rfl

/-- The frame counter and the entries of the journal. -/
def State.entries (s : State) := (s.clk, s.jrn.head, s.jrn.sram)

theorem entries_parts {s t : State} (h : t.entries = s.entries) :
    t.clk = s.clk ∧ t.jrn.head = s.jrn.head ∧ t.jrn.sram = s.jrn.sram := by
  simpa only [State.entries, Prod.mk.injEq] using h

theorem entries_finishAt (d q st res : Nat) (s : State) : (finishAt d q st res s).entries = s.entries := by
  unfold finishAt
  extract_lets f
  split <;> rfl

theorem entries_progsTell (s : State) : (progsTell s).entries = s.entries := by
  refine each_keep State.entries (fun n s => ?_) _ _
  unfold progTell
  exact kept_ite State.entries (each_keep State.entries (fun _ _ => entries_finishAt ..) _ _)

theorem entries_relayOut (d : Desc) (s : State) : (relayOut d s).entries = s.entries := kept_ite State.entries rfl

theorem entries_startedPost (q : Nat) (s : State) : (startedPost q s).entries = s.entries := by
  unfold startedPost
  split
  · exact kept_ite State.entries rfl
  · rfl

/-! ## Staged completions (R300, R301) -/

theorem mem_ready_finishAt {c : Compl} {s : State} (h : c ∈ s.hst.ready) (d q st res : Nat) :
    c ∈ (finishAt d q st res s).hst.ready := by
  unfold finishAt
  extract_lets f
  split
  · dsimp only
    split
    · exact h
    · exact List.mem_append_left _ h
  · exact h

theorem mem_ready_progsTell {c : Compl} {s : State} (h : c ∈ s.hst.ready) : c ∈ (progsTell s).hst.ready := by
  unfold progsTell
  refine each_invariant (fun s => c ∈ s.hst.ready) (fun n s h => ?_) _ _ h
  unfold progTell
  extract_lets p
  split
  · exact each_invariant (fun s => c ∈ s.hst.ready) (fun q s h => mem_ready_finishAt h ..) _ _ h
  · exact h

/-- The end of a live command of the host stages its completion. -/
theorem mem_ready_finish {q : Nat} {l : Live} {s : State} (h : s.liveOf q = some l) (hr : l.relayed = false) (st res : Nat) :
    complOf l st res true 0 s ∈ (finish q st res s).hst.ready := by
  unfold finish finishAt
  extract_lets f
  rw [h]
  simp [hr]

/-! ## The programs that have ended (R108, R121) -/

theorem progTell_prog (n m : Nat) (s : State) :
    (progTell n s).prog m = if m = n then { s.prog n with untold := false } else s.prog m := by
  unfold progTell
  extract_lets p
  split
  · rw [progs_prog (seqProgs_finishAll ..), State.modProg_prog]
  · next h =>
    split
    · next hm =>
      have hu : (s.prog n).untold = false := by simpa using h
      rw [hm, ← hu]
    · rfl

theorem progsTell_prog {m : Nat} (hm : m < 64) (s : State) : (progsTell s).prog m = { s.prog m with untold := false } := by
  have h : ∀ N, (each (List.range N) progTell s).prog m = if m < N then { s.prog m with untold := false } else s.prog m := by
    intro N
    induction N with
    | zero => rfl
    | succ N ih =>
      rw [List.range_succ, each_append]
      refine (progTell_prog N m _).trans ?_
      by_cases hN : m = N
      · subst hN
        rw [if_pos rfl, ih, if_neg (Nat.lt_irrefl _), if_pos (Nat.lt_succ_self _)]
      · rw [if_neg hN, ih]
        exact if_congr (by omega) rfl rfl
  exact (h 64).trans (if_pos hm)

/-! ## A command as it is taken (R299, R312) -/

/-- A host command as accepted. -/
def cmdLive (op r : Nat) (d : Desc) (s : State) : Live :=
  { seq := s.nextSeq, ring := r, crHead := (s.ring r).own, d := { d with opcode := op } }

/-- A host command has its entry and is live. -/
def acceptedState (op r : Nat) (d : Desc) (s : State) : State :=
  let u := acceptEntry { d with opcode := op } 0 r (s.modRing (8 + r) fun x => { x with resv := x.resv + needs d })
  { u with hst := { u.hst with live := u.hst.live ++ [cmdLive op r d s] } }

/-- The state in which it takes effect: the next frame has begun. -/
def cmdState (op r : Nat) (d : Desc) (s : State) : State :=
  let u := acceptedState op r d s
  { u with clk := { u.clk with frame := u.clk.frame + 1 } }

/-- The state without what the taking of a descriptor touches: the frame counter, the journal with its word and its copy to the
partner, the host interface. -/
def State.offTaking (s : State) : State :=
  { s with
    clk := {}, jrn := {}, hst := {}, wc := {}
    sca := { s.sca with ports := [], txSeq := [] }, pair := { s.pair with unacked := [] } }

theorem acceptEntry_parts (d : Desc) (src ring : Nat) (s : State) :
    (acceptEntry d src ring s).offTaking = s.offTaking ∧ (acceptEntry d src ring s).clk = s.clk ∧
      (acceptEntry d src ring s).hst = s.hst ∧ (acceptEntry d src ring s).wc = (wcWritten 0x12 (s.jrn.next % 4096) s).wc := by
  unfold acceptEntry jAppend pairJournal
  dsimp only
  split <;> exact ⟨rfl, rfl, rfl, rfl⟩

theorem jEntry_jAppend (e : JEntry) (s : State) :
    (jAppend e s).jEntry s.nextSeq = some { e with seq := s.nextSeq, frame := s.clk.frame } := by
  have h : tget none (jAppend e s).jrn.sram (s.nextSeq % 4096) = some { e with seq := s.nextSeq, frame := s.clk.frame } := by
    unfold jAppend
    dsimp only
    exact tget_tset_same ..
  rw [State.jEntry, h]
  exact if_pos rfl

section
variable {op r : Nat} {d : Desc} {s : State}

theorem offTaking_cmdState : (cmdState op r d s).offTaking = s.offTaking :=
  (congrArg State.offTaking (acceptEntry_parts _ 0 r (s.modRing (8 + r) _)).1 :)

theorem frame_acceptedState : (acceptedState op r d s).clk.frame = s.clk.frame :=
  (congrArg Clk.frame (acceptEntry_parts _ 0 r (s.modRing (8 + r) _)).2.1 :)

theorem frame_cmdState : (cmdState op r d s).clk.frame = s.clk.frame + 1 := congrArg (· + 1) frame_acceptedState

theorem livesOf_cmdState (h : s.liveOf s.nextSeq = none) : (cmdState op r d s).livesOf s.nextSeq = [cmdLive op r d s] := by
  have hlive : (cmdState op r d s).hst.live = s.hst.live ++ [cmdLive op r d s] := by
    obtain ⟨-, -, hh, -⟩ := acceptEntry_parts { d with opcode := op } 0 r
      (s.modRing (8 + r) fun x => { x with resv := x.resv + needs d })
    exact (congrArg (fun h : Hst => h.live ++ [cmdLive op r d s]) hh :)
  rw [State.livesOf, hlive, List.filter_append, ← State.livesOf, livesOf_eq_nil.mpr h]
  simp [cmdLive]

theorem entered_cmdState : Entered op r d s (cmdState op r d s) :=
  ⟨rfl, _, jEntry_jAppend .., rfl, rfl, rfl, rfl, rfl, rfl⟩

/-- A row whose descriptor is taken is its command's effect at the boundary that ends the frame, with the programs that ended
told (R51, R299; log 8). -/
theorem hostRow_taken (h : Taken op r d s) : hostRow op r d s =
    atBoundary (fun u => progsTell (applyCmd (cmdLive op r d s) u)) (acceptedState op r d s) := by
  obtain ⟨hr, hslots, hrej, -⟩ := h
  have hrej' : rejects (s.modRing (8 + r) fun x => { x with resv := x.resv + needs { d with opcode := op } })
      { d with opcode := op } = none := hrej
  have hring : (s.modRing (8 + r) fun x => { x with resv := x.resv + needs { d with opcode := op } }).ring r = s.ring r := by
    rw [State.modRing_ring, if_neg (by omega)]
  simp only [hostRow, if_neg (Nat.not_le.mpr hr), if_neg (Nat.not_le.mpr hslots), hrej', hring]
  rfl

theorem atBoundary_parts (f : State → State) : (atBoundary f (acceptedState op r d s)).hst = (f (cmdState op r d s)).hst ∧
    (atBoundary f (acceptedState op r d s)).jrn = (f (cmdState op r d s)).jrn ∧
    (atBoundary f (acceptedState op r d s)).offTell = (f (cmdState op r d s)).offTell ∧
    (atBoundary f (acceptedState op r d s)).prog = (f (cmdState op r d s)).prog := ⟨rfl, rfl, rfl, rfl⟩

theorem hostRow_parts (h : Taken op r d s) {w : State} (hw : applyCmd (cmdLive op r d s) (cmdState op r d s) = w) :
    (hostRow op r d s).hst = (progsTell w).hst ∧ (hostRow op r d s).jrn = (progsTell w).jrn ∧
      (hostRow op r d s).offTell = w.offTell ∧ ProgsTold w (hostRow op r d s) := by
  obtain ⟨hhst, hjrn, hoff, hprog⟩ := atBoundary_parts (op := op) (r := r) (d := d) (s := s)
    fun u => progsTell (applyCmd (cmdLive op r d s) u)
  rw [hw] at hhst hjrn hoff hprog
  rw [hostRow_taken h]
  exact ⟨hhst, hjrn, hoff.trans (offTell_progsTell w), fun m hm => (congrFun hprog m).trans (progsTell_prog hm w)⟩

theorem Entered.of_entries {t u : State} (h : Entered op r d s u) (hh : t.jrn.head = u.jrn.head) (hs : t.jrn.sram = u.jrn.sram) :
    Entered op r d s t := by
  obtain ⟨hhead, e, he, hfields⟩ := h
  refine ⟨hh.trans hhead, e, ?_, hfields⟩
  rw [← he, State.jEntry, hs, State.jEntry]

theorem entered_hostRow (h : Taken op r d s) {w : State} (hw : applyCmd (cmdLive op r d s) (cmdState op r d s) = w)
    (he : w.entries = (cmdState op r d s).entries) : Entered op r d s (hostRow op r d s) := by
  obtain ⟨-, hj, -, -⟩ := hostRow_parts h hw
  obtain ⟨-, hhead, hsram⟩ := entries_parts ((entries_progsTell w).trans he)
  exact entered_cmdState.of_entries ((congrArg Jrn.head hj).trans hhead) ((congrArg Jrn.sram hj).trans hsram)

theorem livesOf_eq_cmdLive (h : Taken op r d s) {v : State} (hl : v.hst.live = (cmdState op r d s).hst.live) :
    v.livesOf s.nextSeq = [cmdLive op r d s] := by
  obtain ⟨-, -, -, hnew⟩ := h
  rw [livesOf_congr hl, livesOf_cmdState hnew]

/-- Behind `v` only completions were staged and the programs that ended were told. -/
abbrev Told (v t : State) : Prop := t.offTell = v.offTell ∧ ProgsTold v t

/-- `v` has the frame counter, the entries and the live commands of `u`. -/
def Undisturbed (u v : State) : Prop := v.entries = u.entries ∧ v.hst.live = u.hst.live

/-- A command that ends as it takes effect has ended behind its row (R51, R300). -/
theorem ended_hostRow (h : Taken op r d s) {v : State} {st res : Nat} (hres : res < 2 ^ 64)
    (hw : applyCmd (cmdLive op r d s) (cmdState op r d s) = finish s.nextSeq st res v)
    (hv : Undisturbed (cmdState op r d s) v) :
    Ended op r d st res s (hostRow op r d s) ∧ Told v (hostRow op r d s) := by
  obtain ⟨he, hl⟩ := hv
  obtain ⟨hhst, -, hoff, hprog⟩ := hostRow_parts h hw
  have hlives := livesOf_eq_cmdLive h hl
  have hlive : v.liveOf s.nextSeq = some (cmdLive op r d s) := by rw [liveOf_eq_head?, hlives]; rfl
  have hclk : v.clk.frame = s.clk.frame + 1 := (congrArg Clk.frame (entries_parts he).1).trans frame_cmdState
  refine ⟨⟨entered_hostRow h hw ((entries_finishAt ..).trans he), ?_, complOf (cmdLive op r d s) st res true 0 v, ?_, rfl, rfl,
    rfl, rfl, rfl, Nat.mod_eq_of_lt hres, rfl, ?_, ?_⟩, hoff.trans (offTell_finishAt ..), fun m hm => (hprog m hm).trans ?_⟩
  · have hnone : (finish s.nextSeq st res v).livesOf s.nextSeq = [] := (livesOf_finishAt ..).trans (if_pos rfl)
    have htell : (progsTell (finish s.nextSeq st res v)).livesOf s.nextSeq = [] :=
      (livesOf_progsTell (by simp [hnone])).trans hnone
    exact livesOf_eq_nil.mp ((livesOf_congr (congrArg Hst.live hhst) _).trans htell)
  · rw [hhst]
    exact mem_ready_progsTell (mem_ready_finish hlive rfl st res)
  · exact (BitVec.add_zero _).trans hclk
  · change v.clk.frame + 1#48 = _
    rw [hclk, BitVec.add_assoc]
    rfl
  · rw [progs_prog (t := finish s.nextSeq st res v) (seqProgs_finish ..)]

theorem livesOf_map {f : Live → Live} (hf : ∀ l, (f l).seq = l.seq) {t : State} (h : t.hst.live = s.hst.live.map f) (q : Nat) :
    t.livesOf q = (s.livesOf q).map f := by
  rw [State.livesOf, h, List.filter_map, State.livesOf]
  exact congrArg (List.map f) (List.filter_congr fun l _ => by simp [hf])

theorem livesOf_park {q : Nat} {l : Live} {v : State} (h : v.livesOf q = [l]) (w : Wait) :
    (park q w v).livesOf q = [{ l with wait := w }] := by
  have hq : l.seq = q := by simpa using (List.mem_filter.mp (h ▸ List.mem_singleton_self l : l ∈ v.livesOf q)).2
  rw [livesOf_map (s := v) (f := fun l => if l.seq = q then { l with wait := w } else l) (fun l => ?_) rfl, h]
  · simp [hq]
  · split <;> rfl

theorem livesOf_startedPost {q : Nat} {l : Live} {v : State} (h : v.livesOf q = [l]) :
    ∃ x, (startedPost q v).livesOf q = [{ l with started := x }] := by
  have hq : l.seq = q := by simpa using (List.mem_filter.mp (h ▸ List.mem_singleton_self l : l ∈ v.livesOf q)).2
  unfold startedPost
  split
  · split
    · refine ⟨true, ?_⟩
      rw [livesOf_map (s := v) (f := fun l => if l.seq = q then { l with started := true } else l) (fun l => ?_) rfl, h]
      · simp [hq]
      · split <;> rfl
    · exact ⟨l.started, h⟩
  · exact ⟨l.started, h⟩

/-- A command that waits as it takes effect waits behind its row (R301). -/
theorem waiting_hostRow (h : Taken op r d s) {v : State} {w : Wait} (hprog : ∀ n, w ≠ .prog n)
    (hw : applyCmd (cmdLive op r d s) (cmdState op r d s) =
      startedPost s.nextSeq (relayOut { d with opcode := op } (park s.nextSeq w v)))
    (hv : Undisturbed (cmdState op r d s) v) :
    Waiting op r d w s (hostRow op r d s) ∧ Told v (hostRow op r d s) := by
  obtain ⟨he, hl⟩ := hv
  obtain ⟨hhst, -, hoff, hprogs⟩ := hostRow_parts h hw
  obtain ⟨x, hx⟩ : ∃ x, (startedPost s.nextSeq (relayOut { d with opcode := op } (park s.nextSeq w v))).livesOf s.nextSeq =
      [{ cmdLive op r d s with wait := w, started := x }] :=
    livesOf_startedPost ((livesOf_congr (live_relayOut ..) _).trans (livesOf_park (livesOf_eq_cmdLive h hl) w))
  have hlive : (hostRow op r d s).liveOf s.nextSeq = some { cmdLive op r d s with wait := w, started := x } := by
    rw [liveOf_eq_head?, livesOf_congr (congrArg Hst.live hhst), livesOf_progsTell (by simpa [hx] using hprog), hx]
    rfl
  have hrel : (startedPost s.nextSeq (relayOut { d with opcode := op } (park s.nextSeq w v))).seq = v.seq :=
    (seq_startedPost ..).trans (seq_relayOut ..)
  refine ⟨⟨entered_hostRow h hw ?_, _, hlive, rfl, rfl, rfl⟩, hoff.trans ?_, fun m hm => ?_⟩
  · exact (entries_startedPost ..).trans ((entries_relayOut ..).trans he)
  · exact (offTell_startedPost ..).trans (offTell_relayOut ..)
  · rw [hprogs m hm, State.prog, hrel, State.prog]

end

end Sys2Proof.Machine

namespace Sys2Proof.Machine

/-! ## The effect of a command of the host (R44 order 6, R302, R306) -/

section
variable {l : Live} {u v : State} {st res : Nat}

theorem emit_finish (x : Out) (q st res : Nat) (s : State) : emit x (finish q st res s) = finish q st res (emit x s) := by
  have hlive : (emit x s).liveOf q = s.liveOf q := rfl
  unfold finish finishAt
  extract_lets f g
  rw [hlive]
  split <;> rfl

theorem relayOut_finish (d : Desc) (q st res : Nat) (s : State) :
    relayOut d (finish q st res s) = finish q st res (relayOut d s) := by
  have hrole : (finish q st res s).role = s.role :=
    (congrArg State.role (offTell_finishAt 0 q st res s) : (finish q st res s).offTell.role = s.offTell.role)
  unfold relayOut
  rw [hrole]
  split
  · exact emit_finish ..
  · rfl

theorem startedPost_finish (q st res : Nat) (s : State) : startedPost q (finish q st res s) = finish q st res s := by
  have hnone : (finish q st res s).liveOf q = none := livesOf_eq_nil.mp ((livesOf_finishAt ..).trans (if_pos rfl))
  unfold startedPost
  rw [hnone]

theorem applyCmd_effect (hop : l.d.opcode ≠ 0x81) (hb : usesBuf l.d.opcode = true → l.d.bufOk = true)
    (hd : readsBuf l.d.opcode = true → l.d.dmaOk = true) (hr : l.relayed = false) :
    applyCmd l u = startedPost l.seq (relayOut l.d (cmdEffect l u)) := by
  have hb' : ¬(usesBuf l.d.opcode && !l.d.bufOk) = true := by simpa using hb
  have hd' : ¬(readsBuf l.d.opcode && !l.d.dmaOk) = true := by simpa using hd
  unfold applyCmd
  extract_lets d
  rw [if_neg hop, if_neg hb', if_neg hd', hr]
  rfl

theorem applyCmd_of_finish (hop : l.d.opcode ≠ 0x81) (hb : usesBuf l.d.opcode = true → l.d.bufOk = true)
    (hd : readsBuf l.d.opcode = true → l.d.dmaOk = true) (hr : l.relayed = false)
    (he : cmdEffect l u = finish l.seq st res v) : applyCmd l u = finish l.seq st res (relayOut l.d v) := by
  rw [applyCmd_effect hop hb hd hr, he, relayOut_finish, startedPost_finish]

theorem applyCmd_badBuffer (hop : l.d.opcode ≠ 0x81) (hu : usesBuf l.d.opcode = true) (hb : l.d.bufOk = false) :
    applyCmd l u = finish l.seq stBadArg 0 u := by
  have hb' : (usesBuf l.d.opcode && !l.d.bufOk) = true := by simp [hu, hb]
  unfold applyCmd
  extract_lets d
  rw [if_neg hop, if_pos hb']

end

/-! ## A command of the host ends, or waits -/

section
variable {op r : Nat} {d : Desc} {s v : State} {st res : Nat}

theorem undisturbed_relayOut {u : State} (h : Undisturbed u v) (d : Desc) : Undisturbed u (relayOut d v) :=
  ⟨(entries_relayOut d v).trans h.1, (live_relayOut d v).trans h.2⟩

theorem told_of_relayOut {t : State} (h : Told (relayOut d v) t) : Told v t := by
  refine ⟨h.1.trans (offTell_relayOut d v), fun m hm => ?_⟩
  rw [h.2 m hm, State.prog, seq_relayOut, State.prog]

/-- A command whose effect ends it (R51, R300). -/
theorem ended_of_effect (h : Taken op r d s) (hop : op ≠ 0x81) (hb : usesBuf op = true → d.bufOk = true)
    (hd : readsBuf op = true → d.dmaOk = true) (hres : res < 2 ^ 64)
    (he : cmdEffect (cmdLive op r d s) (cmdState op r d s) = finish s.nextSeq st res v)
    (hv : Undisturbed (cmdState op r d s) v) :
    Ended op r d st res s (hostRow op r d s) ∧ Told v (hostRow op r d s) := by
  obtain ⟨hend, htold⟩ := ended_hostRow h hres (applyCmd_of_finish hop hb hd rfl he) (undisturbed_relayOut hv _)
  exact ⟨hend, told_of_relayOut htold⟩

/-- A command with a misaligned buffer (R302). -/
theorem ended_of_badBuffer (h : Taken op r d s) (hop : op ≠ 0x81) (hu : usesBuf op = true) (hb : d.bufOk = false) :
    Ended op r d stBadArg 0 s (hostRow op r d s) ∧ Told (cmdState op r d s) (hostRow op r d s) :=
  ended_hostRow h (by decide) (applyCmd_badBuffer hop hu hb) ⟨rfl, rfl⟩

/-- A command whose effect makes it wait (R301). -/
theorem waiting_of_effect {w : Wait} (h : Taken op r d s) (hop : op ≠ 0x81) (hb : usesBuf op = true → d.bufOk = true)
    (hd : readsBuf op = true → d.dmaOk = true) (hprog : ∀ n, w ≠ .prog n)
    (he : cmdEffect (cmdLive op r d s) (cmdState op r d s) = park s.nextSeq w v)
    (hv : Undisturbed (cmdState op r d s) v) :
    Waiting op r d w s (hostRow op r d s) ∧ Told v (hostRow op r d s) :=
  waiting_hostRow h hprog ((applyCmd_effect hop hb hd rfl).trans (by rw [he]; rfl)) hv

theorem seq_cmdState : (cmdState op r d s).seq = s.seq := (congrArg State.seq offTaking_cmdState :)

theorem seq_of_told {t : State} (h : Told v t) : t.seq = { v.seq with progs := t.seq.progs } :=
  (congrArg (fun u : State => { u.seq with progs := t.seq.progs }) h.1 :)

/-- Where a command's effect has left the sequencer alone, its row does, but for the telling. -/
theorem seqTold_of_told {t : State} (h : Told v t) (hs : v.seq = s.seq) : SeqTold s t := by
  refine ⟨hs ▸ seq_of_told h, fun m hm => ?_⟩
  rw [h.2 m hm, State.prog, hs, State.prog]

end

/-! ## Words read and written (R23, R28) -/

/-- An SRAM word reads by what has flipped in it alone. -/
theorem wordOk_sram {st : Nat} (h : st ≠ 0x18) (a : Nat) {s t : State}
    (he : tget 0 t.wc.err (wkey st a) = tget 0 s.wc.err (wkey st a)) : t.wordOk st a = s.wordOk st a := by
  simp only [State.wordOk, State.wordOut, if_neg h, he]

theorem err_wcWritten {st a k : Nat} (h : k ≠ wkey st a) (s : State) :
    tget 0 (wcWritten st a s).wc.err k = tget 0 s.wc.err k := by
  unfold wcWritten
  dsimp only
  rw [tget_tset_ne _ _ _ h]

theorem err_wordErr (ts : Ts) (st a : Nat) (o : WcOut) (s : State) : (wordErr ts st a o s).wc.err = s.wc.err := by
  cases o <;> rfl

/-- A read answers what the word holds; an error joins those of the frame, and an SRAM word corrected is written back. -/
theorem readWord_eq (ts : Ts) (st a : Nat) (s : State) : (readWord ts st a s).1 = s.wordOut st a ∧
    ((readWord ts st a s).2 = wordErr ts st a (s.wordOut st a) s ∨
      (readWord ts st a s).2 = wcWritten st a (wordErr ts st a (s.wordOut st a) s)) := by
  unfold readWord
  dsimp only
  generalize s.wordOut st a = o
  cases o with
  | corrected b =>
    refine ⟨rfl, ?_⟩
    dsimp only
    split
    · exact .inr rfl
    · exact .inl rfl
  | _ => exact ⟨rfl, .inl rfl⟩

theorem err_readWord {st a k : Nat} (h : k ≠ wkey st a) (ts : Ts) (s : State) :
    tget 0 (readWord ts st a s).2.wc.err k = tget 0 s.wc.err k := by
  obtain ⟨-, hr | hr⟩ := readWord_eq ts st a s
  · rw [hr, err_wordErr]
  · rw [hr, err_wcWritten h, err_wordErr]

/-- A part write is made where the word can be read. -/
theorem partWrite_of_wordOk {st a : Nat} {s : State} (h : s.wordOk st a = true) (ts : Ts) (e : Nat) (f : State → State) :
    partWrite ts e st a f s = f (wcWritten st a (readWord ts st a s).2) := by
  have h' : ¬(readWord ts st a s).1 = .uncorrectable := by
    rw [(readWord_eq ts st a s).1]
    simpa [State.wordOk] using h
  unfold partWrite
  exact if_neg h'

/-! ## Edits of the on-table's mirror (R17, R28) -/

/-- The state without what an edit of the mirror touches: the word code, the engines' error flags, the mirror. -/
def State.offMirror (s : State) : State := { s with wc := {}, engs := [], seq := { s.seq with mirror := [], dirty := [] } }

theorem offMirror_wcWritten (st a : Nat) (s : State) : (wcWritten st a s).offMirror = s.offMirror := rfl

theorem offMirror_wordErr (ts : Ts) (st a : Nat) (o : WcOut) (s : State) : (wordErr ts st a o s).offMirror = s.offMirror := by
  cases o <;> rfl

theorem offMirror_readWord (ts : Ts) (st a : Nat) (s : State) : (readWord ts st a s).2.offMirror = s.offMirror := by
  obtain ⟨-, hr | hr⟩ := readWord_eq ts st a s
  · rw [hr, offMirror_wordErr]
  · rw [hr, offMirror_wcWritten, offMirror_wordErr]

theorem offMirror_partWrite {f : State → State} (hf : ∀ s, (f s).offMirror = s.offMirror) (ts : Ts) (e st a : Nat) (s : State) :
    (partWrite ts e st a f s).offMirror = s.offMirror := by
  have hr := offMirror_readWord ts st a s
  unfold partWrite
  extract_lets r
  split
  · exact hr
  · exact (hf _).trans ((offMirror_wcWritten ..).trans hr)

/-- The mirror takes the entries of an edit that lie in word w. -/
def putWord (e : List (Nat × Nat)) (w : Nat) (s : State) : State :=
  { s with seq := { s.seq with
    mirror := (e.filter (·.1 / 4 = w)).foldl (fun t p => tset 0 t p.1 p.2) s.seq.mirror
    dirty := if s.seq.dirty.contains w then s.seq.dirty else s.seq.dirty ++ [w] } }

theorem offMirror_putWord (e : List (Nat × Nat)) (w : Nat) (s : State) : (putWord e w s).offMirror = s.offMirror := rfl

theorem mirrorWord_eq (e : List (Nat × Nat)) (w : Nat) (s : State) : mirrorWord e w s =
    if wholeWord e w then putWord e w (wcWritten 0x10 (mirrorBase + w) s)
    else partWrite s.tsB 0 0x10 (mirrorBase + w) (putWord e w) s := rfl

theorem offMirror_mirrorWord (e : List (Nat × Nat)) (w : Nat) (s : State) : (mirrorWord e w s).offMirror = s.offMirror := by
  rw [mirrorWord_eq]
  split
  · rfl
  · exact offMirror_partWrite (offMirror_putWord e w) _ _ _ _ s

theorem offMirror_revertWord (w : Nat) (s : State) : (revertWord w s).offMirror = s.offMirror := rfl

/-- What an edit gives for an index: the last entry given for it, or what stood there. -/
def lastEdit (e : List (Nat × Nat)) (k v : Nat) : Nat := ((e.filter fun p => p.1 = k).getLast?).elim v (·.2)

theorem lastEdit_of_getLast? {e : List (Nat × Nat)} {k v : Nat} (h : (e.filter fun p => p.1 = k).getLast? = some (k, v))
    (x : Nat) : lastEdit e k x = v := by rw [lastEdit, h]; rfl

theorem lastEdit_of_ne {e : List (Nat × Nat)} {k : Nat} (h : ∀ p ∈ e, p.1 ≠ k) (x : Nat) : lastEdit e k x = x := by
  have hf : (e.filter fun p => p.1 = k) = [] := List.filter_eq_nil_iff.mpr fun p hp => by simpa using h p hp
  rw [lastEdit, hf]
  rfl

/-- Only the entries of its own word bear on an index. -/
theorem lastEdit_word (e : List (Nat × Nat)) (w k x : Nat) :
    lastEdit (e.filter (·.1 / 4 = w)) k x = if k / 4 = w then lastEdit e k x else x := by
  split
  · next hk =>
    have hf : (e.filter fun p => decide (p.1 = k) && decide (p.1 / 4 = w)) = e.filter fun p => p.1 = k :=
      List.filter_congr fun p _ => by
        by_cases hp : p.1 = k
        · simp [hp, hk]
        · simp [hp]
    rw [lastEdit, List.filter_filter, hf, lastEdit]
  · next hk =>
    refine lastEdit_of_ne (fun p hp hpk => hk ?_) x
    simpa [hpk] using (List.mem_filter.mp hp).2

/-- A list of edits applied in order: the last one given for an index stands. -/
theorem tget_foldl_tset (l : List (Nat × Nat)) (t : Tbl Nat) (k : Nat) :
    tget 0 (l.foldl (fun t p => tset 0 t p.1 p.2) t) k = lastEdit l k (tget 0 t k) := by
  unfold lastEdit
  induction l using List.reverseRecOn with
  | nil => rfl
  | append_singleton l p ih =>
    rw [List.foldl_append, List.foldl_cons, List.foldl_nil, tget_tset, List.filter_append]
    by_cases h : k = p.1
    · simp [h]
    · rw [if_neg h, ih]
      simp [Ne.symm h]

theorem seq_readWord (ts : Ts) (st a : Nat) (s : State) : (readWord ts st a s).2.seq = s.seq := by
  have hw (o : WcOut) : (wordErr ts st a o s).seq = s.seq := by cases o <;> rfl
  obtain ⟨-, hr | hr⟩ := readWord_eq ts st a s
  · rw [hr, hw]
  · rw [hr]
    exact hw _

section
variable {e : List (Nat × Nat)} {w : Nat} {s : State}

/-- A word that the edit fills, or that can be read, takes the edit. -/
theorem mirror_mirrorWord (h : wholeWord e w = true ∨ s.wordOk 0x10 (mirrorBase + w) = true) :
    (mirrorWord e w s).seq.mirror = (e.filter (·.1 / 4 = w)).foldl (fun t p => tset 0 t p.1 p.2) s.seq.mirror := by
  rw [mirrorWord_eq]
  split
  · rfl
  · next hn =>
    rw [partWrite_of_wordOk (h.resolve_left hn)]
    have hs : (wcWritten 0x10 (mirrorBase + w) (readWord s.tsB 0x10 (mirrorBase + w) s).2).seq = s.seq := seq_readWord ..
    rw [putWord, hs]

theorem err_mirrorWord {k : Nat} (h : k ≠ wkey 0x10 (mirrorBase + w)) :
    tget 0 (mirrorWord e w s).wc.err k = tget 0 s.wc.err k := by
  rw [mirrorWord_eq]
  split
  · exact err_wcWritten h s
  · unfold partWrite
    extract_lets r
    split
    · exact err_readWord h _ s
    · exact (err_wcWritten h _).trans (err_readWord h _ s)

theorem wordOk_mirrorWord {a : Nat} (h : a ≠ w) :
    (mirrorWord e w s).wordOk 0x10 (mirrorBase + a) = s.wordOk 0x10 (mirrorBase + a) :=
  wordOk_sram (by decide) _ (err_mirrorWord (by unfold wkey; omega))

/-- The entry of an index behind an edit. -/
theorem tget_mirrorWord (h : wholeWord e w = true ∨ s.wordOk 0x10 (mirrorBase + w) = true) (k : Nat) :
    tget 0 (mirrorWord e w s).seq.mirror k =
      if k / 4 = w then lastEdit e k (tget 0 s.seq.mirror k)
      else tget 0 s.seq.mirror k := by
  rw [mirror_mirrorWord h, tget_foldl_tset, lastEdit_word]

end

/-- An edit word by word. -/
theorem tget_each_mirrorWord {e : List (Nat × Nat)} {ws : List Nat} (hws : ws.Nodup) (s : State)
    (h : ∀ a ∈ ws, wholeWord e a = true ∨ s.wordOk 0x10 (mirrorBase + a) = true) (k : Nat) :
    tget 0 (each ws (mirrorWord e) s).seq.mirror k =
      if k / 4 ∈ ws then lastEdit e k (tget 0 s.seq.mirror k)
      else tget 0 s.seq.mirror k := by
  induction ws generalizing s with
  | nil => rfl
  | cons a ws ih =>
    obtain ⟨ha, hws⟩ := List.nodup_cons.mp hws
    have hrest : ∀ b ∈ ws, wholeWord e b = true ∨ (mirrorWord e a s).wordOk 0x10 (mirrorBase + b) = true := by
      intro b hb
      rw [wordOk_mirrorWord (ne_of_mem_of_not_mem hb ha)]
      exact h b (List.mem_cons_of_mem _ hb)
    refine (ih hws (mirrorWord e a s) hrest).trans ?_
    rw [tget_mirrorWord (h a (List.mem_cons_self ..))]
    by_cases hk : k / 4 = a
    · rw [if_neg (hk ▸ ha), if_pos hk, if_pos (hk ▸ List.mem_cons_self ..)]
    · rw [if_neg hk]
      exact if_congr (by simp [hk]) rfl rfl

/-- The mirror has taken an edit whose words can all be written. -/
theorem mirrorTook_each {e : List (Nat × Nat)} {s : State} (h : MirrorReads e s) :
    MirrorTook e s (each (tableWords e) (mirrorWord e) s) := by
  have hk := tget_each_mirrorWord (ws := tableWords e) (List.nodup_dedup _) s h
  refine ⟨fun k v hv => ?_, fun k hn => ?_⟩
  · have hmem : (k, v) ∈ e := (List.mem_filter.mp (List.mem_of_getLast? hv)).1
    have hword : k / 4 ∈ tableWords e := List.mem_dedup.mpr (List.mem_map.mpr ⟨_, hmem, rfl⟩)
    rw [hk, if_pos hword, lastEdit_of_getLast? hv]
  · rw [hk, lastEdit_of_ne hn, ite_self]

/-! ## The effect of an edit (R17, R28; log 85) -/

section
variable {l : Live} {w : Wait} {e : List (Nat × Nat)} {s : State}

theorem editMirror_reads (h : MirrorReads e s) :
    editMirror l w e s = park l.seq w (each (tableWords e) (mirrorWord e) s) := by
  have hbad : ((tableWords e).filter fun a => !wholeWord e a && !s.wordOk 0x10 (mirrorBase + a)) = [] := by
    rw [List.filter_eq_nil_iff]
    intro a ha
    obtain h | h := h a ha <;> simp [h]
  simp only [editMirror, hbad, List.isEmpty_nil, if_true]

/-- An edit that meets a word it cannot read is taken back. -/
theorem editMirror_fails (h : ¬MirrorReads e s) :
    ∃ v, v.offMirror = s.offMirror ∧ editMirror l w e s = finish l.seq stFailed 0 v := by
  simp only [MirrorReads, not_forall, not_or] at h
  obtain ⟨a, ha, hwhole, hok⟩ := h
  have hbad : ((tableWords e).filter fun a => !wholeWord e a && !s.wordOk 0x10 (mirrorBase + a)).isEmpty = false := by
    rw [List.isEmpty_eq_false_iff_exists_mem]
    exact ⟨a, List.mem_filter.mpr ⟨ha, by simp [hwhole, hok]⟩⟩
  simp only [editMirror, hbad, Bool.false_eq_true, if_false]
  refine ⟨_, ?_, rfl⟩
  exact (each_keep State.offMirror offMirror_revertWord _ _).trans (each_keep State.offMirror (offMirror_mirrorWord e) _ _)

end

end Sys2Proof.Machine

/-! # Programs, graph slots and flags (R17, R28, R97, R135, R305) -/

namespace Sys2Proof.Machine

/-! ## What a table command reads of the state -/

theorem stepsOk_offTaking (s : State) (l : List Nat) : stepsOk s.offTaking l = stepsOk s l := by
  have hstep (w : Nat) : stepOk s.offTaking w = stepOk s w := rfl
  induction l using stepsOk.induct with
  | case1 => rw [stepsOk, stepsOk]
  | case2 w => rw [stepsOk, stepsOk, hstep]
  | case3 w e l hx ih => rw [stepsOk, stepsOk, if_pos hx, if_pos hx, hstep, ih]
  | case4 w e l hx ih => rw [stepsOk, stepsOk, if_neg hx, if_neg hx, hstep, ih]

theorem expand_offTaking (s : State) (t p0 p1 : Nat) (d : Desc) : expand s.offTaking t p0 p1 d = expand s t p0 p1 d := rfl

theorem loadEdit_offTaking (s : State) (d : Desc) : loadEdit s.offTaking d = loadEdit s d := by
  unfold loadEdit loadEntries
  simp only [stepsOk_offTaking, expand_offTaking]

theorem graphWrites_offTaking (s : State) (d : Desc) : graphWrites s.offTaking d = graphWrites s d := rfl

theorem slotOkFor_offTaking (s : State) (i w : Nat) : slotOkFor s.offTaking i w = slotOkFor s i w := rfl

theorem graphFree_offTaking (s : State) (i : Nat) : graphFree s.offTaking i = graphFree s i := rfl

/-- The entries of a PROG_LOAD lie in the on-table. -/
theorem loadEdit_lt {s : State} {d : Desc} {e : List (Nat × Nat)} (h : loadEdit s d = some e) : ∀ p ∈ e, p.1 < 8192 := by
  obtain ⟨l, hl, rfl⟩ := Option.map_eq_some_iff.mp h
  have hlen : d.arg 114 102 + l.length ≤ 8192 := by
    unfold loadEntries at hl
    dsimp only at hl
    split at hl
    · cases hl
    · split at hl
      · next hc =>
        cases hl
        simp only [Bool.and_eq_true, decide_eq_true_eq] at hc
        exact hc.1.2
      · cases hl
  intro p hp
  obtain ⟨x, hx, rfl⟩ := List.mem_map.mp hp
  have := List.snd_lt_of_mem_zipIdx hx
  dsimp only
  omega

section
variable {op r : Nat} {d : Desc} {s : State}

/-- What does not see the journal and the host interface sees the state in which a command takes effect as the one before. -/
theorem of_cmdState {α : Type} (f : State → α) (hf : ∀ s, f s.offTaking = f s) : f (cmdState op r d s) = f s := by
  rw [← hf, offTaking_cmdState, hf]

/-- The entry of a command is no word of the mirror. -/
theorem wordOk_cmdState {a : Nat} (ha : a < 8192) :
    (cmdState op r d s).wordOk 0x10 (mirrorBase + a) = s.wordOk 0x10 (mirrorBase + a) := by
  obtain ⟨-, -, -, hwc⟩ := acceptEntry_parts { d with opcode := op } 0 r
    (s.modRing (8 + r) fun x => { x with resv := x.resv + needs d })
  refine wordOk_sram (by decide) _ ?_
  have hwc' : (cmdState op r d s).wc = (wcWritten 0x12 (s.jrn.next % 4096) s).wc := hwc
  rw [hwc']
  exact err_wcWritten (by unfold wkey mirrorBase; omega) s

theorem mirrorReads_cmdState {e : List (Nat × Nat)} (he : ∀ p ∈ e, p.1 < 8192) :
    MirrorReads e (cmdState op r d s) ↔ MirrorReads e s := by
  refine forall₂_congr fun a ha => ?_
  obtain ⟨p, hp, rfl⟩ := List.mem_map.mp (List.mem_dedup.mp ha)
  have := he p hp
  rw [wordOk_cmdState (by omega)]

/-! ## Edits by command (R17, R28) -/

theorem undisturbed_of_offMirror {u v : State} (h : v.offMirror = u.offMirror) : Undisturbed u v :=
  ⟨(congrArg State.entries h :), (congrArg (fun t => t.hst.live) h :)⟩

theorem onTable_of_told {t v : State} (h : Told v t) (hv : v.offMirror = (cmdState op r d s).offMirror) :
    t.seq.onTable = s.seq.onTable ∧ ProgsTold s t := by
  obtain ⟨hoff, hprogs⟩ := h
  have hseq : (cmdState op r d s).seq = s.seq := seq_cmdState
  refine ⟨?_, fun m hm => ?_⟩
  · have h1 : t.seq.onTable = v.seq.onTable := (congrArg (fun u => u.seq.onTable) hoff :)
    have h2 : v.seq.onTable = (cmdState op r d s).seq.onTable := (congrArg (fun u => u.seq.onTable) hv :)
    rw [h1, h2, hseq]
  · have h2 : v.seq.progs = (cmdState op r d s).seq.progs := (congrArg (fun u => u.seq.progs) hv :)
    rw [hprogs m hm, State.prog, h2, hseq, State.prog]

/-- A command that edits words of the mirror that can all be written waits for the commit. -/
theorem waiting_of_edit {w : Wait} {e : List (Nat × Nat)} (h : Taken op r d s) (hop : op ≠ 0x81)
    (hb : usesBuf op = true → d.bufOk = true) (hd : readsBuf op = true → d.dmaOk = true) (hw : ∀ n, w ≠ .prog n)
    (he : cmdEffect (cmdLive op r d s) (cmdState op r d s) = editMirror (cmdLive op r d s) w e (cmdState op r d s))
    (hlt : ∀ p ∈ e, p.1 < 8192) (hr : MirrorReads e s) :
    Waiting op r d w s (hostRow op r d s) ∧ MirrorTook e s (hostRow op r d s) ∧
      (hostRow op r d s).seq.onTable = s.seq.onTable ∧ ProgsTold s (hostRow op r d s) := by
  have hr' := (mirrorReads_cmdState (op := op) (r := r) (d := d) hlt).mpr hr
  have hv : (each (tableWords e) (mirrorWord e) (cmdState op r d s)).offMirror = (cmdState op r d s).offMirror :=
    each_keep State.offMirror (offMirror_mirrorWord e) _ _
  obtain ⟨hwait, htold⟩ := waiting_of_effect h hop hb hd hw (he.trans (editMirror_reads hr')) (undisturbed_of_offMirror hv)
  refine ⟨hwait, ?_, onTable_of_told htold hv⟩
  have hmir : (hostRow op r d s).seq.mirror = (each (tableWords e) (mirrorWord e) (cmdState op r d s)).seq.mirror :=
    (congrArg (fun u => u.seq.mirror) htold.1 :)
  obtain ⟨hset, hstay⟩ := mirrorTook_each hr'
  rw [seq_cmdState] at hstay
  exact ⟨fun k v hk => hmir ▸ hset k v hk, fun k hk => hmir ▸ hstay k hk⟩

/-- One that meets a word it cannot read fails. -/
theorem ended_of_edit {w : Wait} {e : List (Nat × Nat)} (h : Taken op r d s) (hop : op ≠ 0x81)
    (hb : usesBuf op = true → d.bufOk = true) (hd : readsBuf op = true → d.dmaOk = true)
    (he : cmdEffect (cmdLive op r d s) (cmdState op r d s) = editMirror (cmdLive op r d s) w e (cmdState op r d s))
    (hlt : ∀ p ∈ e, p.1 < 8192) (hr : ¬MirrorReads e s) :
    Ended op r d stFailed 0 s (hostRow op r d s) ∧ (hostRow op r d s).seq.onTable = s.seq.onTable ∧
      ProgsTold s (hostRow op r d s) := by
  obtain ⟨v, hv, hedit⟩ := editMirror_fails (l := cmdLive op r d s) (w := w)
    (mt (mirrorReads_cmdState (op := op) (r := r) (d := d) hlt).mp hr)
  obtain ⟨hend, htold⟩ := ended_of_effect h hop hb hd (by decide) (he.trans hedit) (undisturbed_of_offMirror hv)
  exact ⟨hend, onTable_of_told htold hv⟩

/-! ## The commands as they take effect (R305) -/

theorem loadEdit_cmdState : loadEdit (cmdState 0x06 r d s) (cmdLive 0x06 r d s).d = loadEdit s d :=
  of_cmdState (fun s => loadEdit s { d with opcode := 0x06 }) fun s => loadEdit_offTaking s _

theorem cmdEffect_progLoad_none (h : loadEdit s d = none) :
    cmdEffect (cmdLive 0x06 r d s) (cmdState 0x06 r d s) = finish s.nextSeq stBadArg 0 (cmdState 0x06 r d s) := by
  have hl := (loadEdit_cmdState (r := r)).trans h
  change cmdProgLoad (cmdLive 0x06 r d s) (cmdState 0x06 r d s) = _
  unfold cmdProgLoad
  split
  · rfl
  · next e he => exact absurd (hl.symm.trans he) (by simp)

theorem cmdEffect_progLoad_some {e : List (Nat × Nat)} (h : loadEdit s d = some e) :
    cmdEffect (cmdLive 0x06 r d s) (cmdState 0x06 r d s) =
      editMirror (cmdLive 0x06 r d s) (.progLoad (d.arg 101 96)) e (cmdState 0x06 r d s) := by
  have hl := (loadEdit_cmdState (r := r)).trans h
  change cmdProgLoad (cmdLive 0x06 r d s) (cmdState 0x06 r d s) = _
  unfold cmdProgLoad
  split
  · next hn => exact absurd (hl.symm.trans hn) (by simp)
  · next e' he =>
    obtain rfl := Option.some.inj (hl.symm.trans he)
    rfl

theorem cmdEffect_graphLoad {e : List (Nat × Nat)} (hw : graphWrites s d = some e)
    (he : ∀ p ∈ e, p.1 < 768 ∧ slotOkFor s (p.1 / 8) p.2 = true ∧ graphFree s (p.1 / 8) = true) :
    cmdEffect (cmdLive 0x07 r d s) (cmdState 0x07 r d s) =
      editMirror (cmdLive 0x07 r d s) .graphLoad e (cmdState 0x07 r d s) := by
  have hl : graphWrites (cmdState 0x07 r d s) (cmdLive 0x07 r d s).d = some e :=
    (of_cmdState (fun s => graphWrites s { d with opcode := 0x07 }) fun s => graphWrites_offTaking s _).trans hw
  have hslot (i w : Nat) : slotOkFor (cmdState 0x07 r d s) i w = slotOkFor s i w :=
    of_cmdState (slotOkFor · i w) fun s => slotOkFor_offTaking s i w
  have hfree (i : Nat) : graphFree (cmdState 0x07 r d s) i = graphFree s i := of_cmdState (graphFree · i) fun s => graphFree_offTaking s i
  have hbad : (e.any fun p => 768 ≤ p.1 || !slotOkFor s (p.1 / 8) p.2) = false := by
    rw [List.any_eq_false]
    intro p hp
    obtain ⟨hlt, hok, -⟩ := he p hp
    simp [hok, hlt]
  have hclosed : (e.any fun p => !graphFree s (p.1 / 8)) = false := by
    rw [List.any_eq_false]
    intro p hp
    obtain ⟨-, -, hf⟩ := he p hp
    simp [hf]
  change cmdGraphLoad (cmdLive 0x07 r d s) (cmdState 0x07 r d s) = _
  unfold cmdGraphLoad
  rw [hl]
  simp only [hslot, hfree, hbad, hclosed, Bool.false_eq_true, if_false]

theorem cmdEffect_flagsSet : cmdEffect (cmdLive 0x08 r d s) (cmdState 0x08 r d s) =
    finish s.nextSeq stOk 0 { cmdState 0x08 r d s with seq := { (cmdState 0x08 r d s).seq with
      flags := ((cmdState 0x08 r d s).seq.flags &&& ~~~(BitVec.ofNat 32 (d.arg 63 32))) ||| BitVec.ofNat 32 (d.arg 31 0) } } :=
  rfl

end

/-! ## The commit of graph slots (R17, R44 order 5) -/

theorem tget_fromMirror (a k : Nat) (s : State) :
    (fromMirror a s).entryAt k = if k / 4 = a then tget 0 s.seq.mirror k else s.entryAt k := by
  change tget 0 ([0, 1, 2, 3].foldl (fun t j => tset 0 t (4 * a + j) (tget 0 s.seq.mirror (4 * a + j))) s.seq.onTable) k = _
  simp only [List.foldl_cons, List.foldl_nil, tget_tset, State.entryAt]
  by_cases h : k / 4 = a
  · have hk : k = 4 * a + 0 ∨ k = 4 * a + 1 ∨ k = 4 * a + 2 ∨ k = 4 * a + 3 := by omega
    rw [if_pos h]
    obtain rfl | rfl | rfl | rfl := hk <;> simp
  · rw [if_neg h, if_neg (by omega), if_neg (by omega), if_neg (by omega), if_neg (by omega)]

/-- The commit copies the words it names, and no others. -/
theorem entryAt_commitWords (ws : List Nat) (k : Nat) (s : State) :
    (commitWords ws s).entryAt k = if k / 4 ∈ ws then tget 0 s.seq.mirror k else s.entryAt k := by
  unfold commitWords
  induction ws generalizing s with
  | nil => rfl
  | cons a ws ih =>
    refine (ih (wcWritten 0x11 a (fromMirror a s))).trans ?_
    have hmir : (wcWritten 0x11 a (fromMirror a s)).seq.mirror = s.seq.mirror := rfl
    have hentry : (wcWritten 0x11 a (fromMirror a s)).entryAt k = (fromMirror a s).entryAt k := rfl
    rw [hmir, hentry, tget_fromMirror]
    by_cases hk : k / 4 = a
    · rw [if_pos hk, ite_self, if_pos (hk ▸ List.mem_cons_self ..)]
    · rw [if_neg hk]
      exact if_congr (by simp [hk]) rfl rfl

/-- The commit of one GRAPH_LOAD whose rails have stayed free: their slots are those of the mirror. -/
theorem entryAt_commitLoads {l : Live} {s : State} (hlive : s.hst.live = [l]) (hwait : l.wait = .graphLoad)
    (hfree : ∀ i ∈ graphRails l.d, graphFree s i = true) (k : Nat) :
    (commitLoads s).entryAt k = if k / 8 ∈ graphRails l.d then tget 0 s.seq.mirror k else s.entryAt k := by
  have hclosed : ((graphRails l.d).any fun i => !graphFree { s with seq := { s.seq with dirty := [] } } i) = false := by
    rw [List.any_eq_false]
    intro i hi
    have hf : graphFree { s with seq := { s.seq with dirty := [] } } i = true := hfree i hi
    simp [hf]
  have hcommit : commitLoads s = finish l.seq stOk 0
      (commitWords ((graphRails l.d).flatMap fun i => [2 * i, 2 * i + 1]) { s with seq := { s.seq with dirty := [] } }) := by
    unfold commitLoads
    simp only [hlive, each, List.foldl_cons, List.foldl_nil, hwait, commitGraph, hclosed, Bool.false_eq_true, if_false]
  have hon : (commitLoads s).entryAt k =
      (commitWords ((graphRails l.d).flatMap fun i => [2 * i, 2 * i + 1]) { s with seq := { s.seq with dirty := [] } }).entryAt k := by
    rw [hcommit]
    exact (congrArg (fun u => u.entryAt k) (offTell_finishAt 0 l.seq stOk 0 _) :)
  rw [hon, entryAt_commitWords]
  refine if_congr ?_ rfl rfl
  simp only [List.mem_flatMap, List.mem_cons, List.not_mem_nil, or_false]
  constructor
  · rintro ⟨i, hi, hk⟩
    rwa [show k / 8 = i by omega]
  · exact fun h => ⟨k / 8, h, by omega⟩

end Sys2Proof.Machine

section
open Sys2Proof Sys2Proof.Machine

/-- Settles O33: an edit waits where every word it fills in part can be read (`waiting_of_edit`), and else fails
(`ended_of_edit`); the commit copies the rails' words (`entryAt_commitLoads`). -/
theorem tableCommands : Obligations.TableCommands := by
  refine ⟨fun r d w s h hb hd hl hr => ?_, fun r d w s h hb hd hl hr => ?_, fun r d s h hb hd hl => ?_,
    fun r d w s h hb hd hl hr hw => ?_, fun l s hlive hwait hfree => ⟨fun k hk => ?_, fun k hk => ?_⟩, fun r d s h hb => ?_,
    fun r d s h => ?_⟩
  · exact ⟨_, rfl, waiting_of_edit h (by decide) (fun _ => hb) (fun _ => hd) (by simp) (cmdEffect_progLoad_some hl)
      (loadEdit_lt hl) hr⟩
  · exact ⟨_, rfl, ended_of_edit h (by decide) (fun _ => hb) (fun _ => hd) (cmdEffect_progLoad_some hl) (loadEdit_lt hl) hr⟩
  · obtain ⟨hend, htold⟩ := ended_of_effect h (by decide) (fun _ => hb) (fun _ => hd) (by decide)
      (cmdEffect_progLoad_none hl) ⟨rfl, rfl⟩
    exact ⟨_, rfl, hend, seqTold_of_told htold seq_cmdState⟩
  · exact ⟨_, rfl, waiting_of_edit h (by decide) (fun _ => hb) (fun _ => hd) (by simp) (cmdEffect_graphLoad hl hw)
      (fun p hp => lt_trans (hw p hp).1 (by decide)) hr⟩
  · rw [entryAt_commitLoads hlive hwait hfree, if_pos hk]
  · rw [entryAt_commitLoads hlive hwait hfree, if_neg hk]
  · obtain ⟨hend, htold⟩ := ended_of_badBuffer h (by decide) rfl hb
    exact ⟨_, rfl, hend, seqTold_of_told htold seq_cmdState⟩
  · obtain ⟨hend, htold⟩ := ended_of_effect h (by decide) (fun hu => absurd hu (by decide))
      (fun hu => absurd hu (by decide)) (by decide) cmdEffect_flagsSet ⟨rfl, rfl⟩
    have hseq := seq_of_told htold
    have hrails : (hostRow 0x08 r d s).rails = (cmdState 0x08 r d s).rails := (congrArg State.rails htold.1 :)
    refine ⟨_, rfl, hend, ?_, ?_, fun m hm => ?_, hrails.trans (of_cmdState State.rails fun _ => rfl)⟩
    · rw [hseq, seq_cmdState]
    · rw [hseq, seq_cmdState]
    · rw [htold.2 m hm]
      exact congrArg (fun q : Seq => { tget {} q.progs m with untold := false }) (seq_cmdState (op := 0x08) (r := r) (d := d))

end

/-! # Time-stamps and the order of frames (R42, R43) -/

namespace Sys2Proof.Machine

theorem toNat_fracOf (c : Nat) : (fracOf c).toNat = min c 1999 * 256 / 2000 := by
  have h : min c 1999 * 256 / 2000 < 2 ^ 8 := by omega
  rw [fracOf, BitVec.toNat_ofNat, Nat.mod_eq_of_lt h]

/-- A frame is earlier by its distance modulo 2^48 (R43). -/
theorem frameBefore_iff (a b : Frame) : frameBefore a b = true ↔
    1 ≤ (b.toNat + 2 ^ 48 - a.toNat) % 2 ^ 48 ∧ (b.toNat + 2 ^ 48 - a.toNat) % 2 ^ 48 ≤ 2 ^ 47 - 1 := by
  have hd : (b - a).toNat = (b.toNat + 2 ^ 48 - a.toNat) % 2 ^ 48 := by
    have := a.isLt
    rw [BitVec.toNat_sub]
    congr 1
    omega
  rw [frameBefore, decide_eq_true_iff, hd]

theorem frameBefore_asymm (a b : Frame) (h : frameBefore a b = true) : ¬frameBefore b a = true := by
  rw [frameBefore_iff] at h ⊢
  have := a.isLt
  have := b.isLt
  omega

/-- Of two frames one is earlier, but for equal ones and those half the circle apart. -/
theorem frameBefore_total (a b : Frame) :
    frameBefore a b = true ∨ frameBefore b a = true ∨ a = b ∨ (b - a).toNat = 2 ^ 47 := by
  rw [frameBefore_iff, frameBefore_iff, ← BitVec.toNat_inj, BitVec.toNat_sub]
  have := a.isLt
  have := b.isLt
  omega

end Sys2Proof.Machine

section
open Sys2Proof Sys2Proof.Machine

/-- Settles O3: the fraction by `toNat_fracOf`, the order by the distance of two frames (`frameBefore_iff`). -/
theorem timeStamps : Obligations.TimeStamps := by
  refine ⟨fun c hc => ?_, fun c d h => ?_, fun c s => ⟨rfl, rfl⟩, frameBefore_iff,
    fun a b h => frameBefore_asymm a b h.1 h.2, frameBefore_total⟩
  · rw [toNat_fracOf, Nat.min_eq_left (by omega)]
  · rw [toNat_fracOf, toNat_fracOf]
    exact Nat.div_le_div_right (Nat.mul_le_mul_right _ (min_le_min_right _ h))

end

/-! # The frame counter (R39 to R41) -/

namespace Sys2Proof.Machine

/-! ## The end of a frame leaves the counter and the load that waits for it alone -/

theorem clk_each {α : Type} {f : α → State → State} (hf : ∀ a s, (f a s).clk = s.clk) (l : List α) (s : State) :
    (each l f s).clk = s.clk := each_keep State.clk hf l s

theorem clk_readWord (ts : Ts) (st a : Nat) (s : State) : (readWord ts st a s).2.clk = s.clk :=
  (congrArg State.clk (offMirror_readWord ts st a s) :)

theorem clk_raise (n : Nat) (ts : Ts) (d : BitVec 128) (s : State) : (raise n ts d s).clk = s.clk :=
  (eventsOnly_raise n ts d s).clk

theorem clk_recordLost (a : Nat) (s : State) : (recordLost a s).clk = s.clk := by
  unfold recordLost ashRise
  exact (eventsOnly_ashEvent _ _).clk

theorem clk_itemLost (r : WordRead) (s : State) : (itemLost r s).clk = s.clk := by
  unfold itemLost
  dsimp only
  split
  · rfl
  · exact kept_ite State.clk rfl
  · exact kept_ite State.clk rfl

theorem clk_engineHalt (e : Nat) (s : State) : (engineHalt e s).clk = s.clk := by
  unfold engineHalt
  split <;> rfl

theorem clk_readFails (r : WordRead) (s : State) : (readFails r s).clk = s.clk := by
  unfold readFails
  refine kept_branch State.clk (clk_engineHalt _ s) (kept_branch State.clk (clk_itemLost r s) ?_)
  exact kept_branch State.clk (clk_recordLost _ s) (kept_branch State.clk (clk_engineHalt _ s) rfl)

theorem clk_engineRead (r : WordRead) (s : State) : (engineRead r s).clk = s.clk := by
  unfold engineRead
  split
  · rfl
  · exact kept_branch State.clk ((clk_readFails r _).trans (clk_readWord ..)) (clk_readWord ..)

theorem clk_partWrite {f : State → State} (hf : ∀ s, (f s).clk = s.clk) (ts : Ts) (e st a : Nat) (s : State) :
    (partWrite ts e st a f s).clk = s.clk :=
  kept_branch State.clk (clk_readWord ts st a s) ((hf _).trans (clk_readWord ts st a s))

theorem clk_engineAct (x : FwAct) (s : State) : (engineAct x s).clk = s.clk := by
  cases x with
  | store e n a m d =>
    exact kept_branch State.clk rfl (kept_branch State.clk rfl (clk_partWrite (by intro s; rfl) _ _ _ _ s))
  | sem e n b => exact kept_branch State.clk rfl rfl
  | bell e k b => exact kept_branch State.clk rfl rfl

theorem clk_scrubWord (ts : Ts) (n : Nat) (s : State) : (scrubWord ts n s).clk = s.clk := by
  have hr := clk_readWord ts n (s.wc.scrub % structWords n) s
  unfold scrubWord
  refine kept_branch State.clk hr (kept_branch State.clk (kept_branch State.clk hr hr) ?_)
  refine kept_branch State.clk (kept_branch State.clk hr hr) (kept_branch State.clk (kept_branch State.clk hr hr) ?_)
  exact kept_branch State.clk ((clk_recordLost _ _).trans hr) hr

theorem clk_wcLog (x : WcEntry) (s : State) : (wcLog x s).clk = s.clk := by
  unfold wcLog
  dsimp only
  split
  · rfl
  · split <;> rfl

theorem clk_correctedWord (x : WcEntry) (s : State) : (correctedWord x s).clk = s.clk :=
  kept_branch State.clk rfl (clk_raise ..)

theorem clk_uncorrectableWord (x : WcEntry) (s : State) : (uncorrectableWord x s).clk = s.clk :=
  kept_branch State.clk rfl (clk_raise ..)

theorem clk_wordsEnd (s : State) : (wordsEnd s).clk = s.clk := by
  refine clk_each (fun n s => ?_) _ { s with wc := { s.wc with found := [] } }
  dsimp only
  split
  · rfl
  · exact (clk_each (fun r s =>
      kept_branch State.clk (clk_uncorrectableWord _ s) (clk_correctedWord _ s)) _ _).trans (clk_wcLog _ s)

theorem clk_upset (x : Nat × Nat × Codeword) (s : State) : (upset x s).clk = s.clk :=
  kept_branch State.clk rfl (kept_branch State.clk rfl rfl)

theorem clk_wordFrame (b : BoundaryIn) (s : State) : (wordFrame b s).clk = s.clk := by
  refine (clk_wordsEnd _).trans ((clk_each (clk_scrubWord _) _ _).trans ?_)
  refine (clk_each clk_engineAct _ _).trans ((clk_each clk_engineRead _ _).trans ?_)
  exact clk_each clk_upset _ s

theorem clk_xferEnd (s : State) : (xferEnd s).clk = s.clk := by
  refine clk_each (fun e s => ?_) _ s
  have hdue (l : List (Nat × Nat × Nat)) : (each l (fun x s => markOver e x.1 false s) s).clk = s.clk :=
    clk_each (by intros; rfl) l s
  exact kept_branch State.clk ((clk_raise ..).trans (hdue _)) (hdue _)

theorem clk_engineEnd (e : Nat) (s : State) : (engineEnd e s).clk = s.clk := by
  have hover (skip : Bool) (l : List (Nat × Nat × Nat)) (s : State) :
      (each l (fun x s => markOver e x.1 skip s) s).clk = s.clk := clk_each (by intros; rfl) l s
  change (taskEnds e s).clk = s.clk
  unfold taskEnds
  dsimp only
  split
  · exact kept_ite State.clk (hover false _ s)
  · split
    · rfl
    · exact hover true _ (markOver e _ _ s)

theorem clk_signalVec (v : Nat) (s : State) : (signalVec v s).clk = s.clk := kept_branch State.clk rfl rfl

theorem clk_frameMessages (s : State) : (frameMessages s).clk = s.clk := by
  unfold frameMessages
  refine (clk_each (fun v s => ?_) _ _).trans (clk_each clk_signalVec _ _)
  exact kept_branch State.clk (kept_branch State.clk (clk_signalVec v _) rfl) rfl

theorem clk_ringHalt (r cause idx addr : Nat) (s : State) : (ringHalt r cause idx addr s).clk = s.clk := clk_raise ..

theorem clk_writeback (s : State) : (writeback s).clk = s.clk := by
  unfold writeback
  dsimp only
  split
  · rfl
  split
  · exact clk_each (fun r s => clk_ringHalt ..) _ _
  · rfl

theorem clk_holdOcc (o : Occ) (s : State) : (holdOcc o s).clk = s.clk := kept_branch State.clk rfl rfl

theorem clk_hostFrameEnd (s : State) : (hostFrameEnd s).clk = s.clk := by
  have hm : (frameMessages (writeback s)).clk = s.clk := (clk_frameMessages _).trans (clk_writeback s)
  unfold hostFrameEnd
  dsimp only
  generalize frameMessages (writeback s) = u at hm ⊢
  exact (clk_each clk_holdOcc _ _).trans hm

theorem clk_endFrame (b : BoundaryIn) (s : State) : (endFrame b s).clk = s.clk := by
  have hword := clk_wordFrame b s
  unfold endFrame
  split
  · exact (clk_hostFrameEnd _).trans ((clk_each clk_engineEnd _ _).trans ((clk_xferEnd _).trans hword))
  · exact hword
  · exact hword
  · exact hword
  · exact hword
  · exact clk_each clk_upset _ s
  · rfl

/-! ## Order 1 -/

/-- The frame that begins behind `old`, by the load that waits (R40, R41). -/
def nextFrame (old : Frame) (load : Option (Frame × Frame)) : Frame :=
  match load with
  | some (f, v) => if f = old + 1 ∧ frameBefore (old + 1) v = true then v else old + 1
  | none => old + 1

theorem clk_clearNow (s : State) : (clearNow s).clk = s.clk := by
  unfold clearNow
  refine (clk_each (by intros; rfl) _ _).trans ((clk_each (by intros; rfl) _ _).trans ?_)
  refine (clk_each (by intros; rfl) _ _).trans ((clk_each (by intros; rfl) _ _).trans ?_)
  exact clk_each (by intros; rfl) _ _

theorem frame_order1 (s : State) : (order1 s).clk.frame = nextFrame s.clk.frame s.clk.load := by
  unfold order1
  dsimp only
  refine (frame_of_pf (pf_each _ _ pf_engineOver _)).trans ((frame_of_pf (pf_readyDrop _ _)).trans ?_)
  have hh (t : State) : (if t.fw.h = some t.clk.frame then handover_ t else t).clk.frame = t.clk.frame :=
    kept_ite (fun t => t.clk.frame) (frame_of_pf (pf_handover_ t))
  rw [hh, clk_clearNow]
  dsimp only
  generalize hu : clearNow _ = u
  have hclk : u.clk = { s.clk with last := s.clk.frame, frame := s.clk.frame + 1 } := hu ▸ clk_clearNow _
  rcases hload : s.clk.load with _ | ⟨f, v⟩
  · rw [hclk, nextFrame]
  · dsimp only [nextFrame]
    by_cases hf : f = s.clk.frame + 1
    · have hv : (loadFrame v u).clk.frame = if frameBefore u.clk.frame v then v else u.clk.frame :=
        congrArg Prod.snd (pf_loadFrame v u)
      rw [hclk] at hv
      rw [if_pos hf]
      exact hv.trans (if_congr (by simp [hf]) rfl rfl)
    · rw [if_neg hf, if_neg (fun h => hf h.1), hclk]

/-! ## A boundary -/

/-- Behind order 1 nothing of a boundary moves the counter. -/
theorem pf_frameBoundary {b : BoundaryIn} {s : State} (h : s.pwr.phase ≠ .dead) :
    (frameBoundary b s).pf = (order1 (endFrame b s)).pf := by
  have hbegin : (pendingStep (powerStep b (order1 (endFrame b s)))).pf = (order1 (endFrame b s)).pf :=
    (pf_of_fixed (fixed_pendingStep _)).trans (pf_powerStep _ _)
  unfold frameBoundary
  rw [if_neg h]
  dsimp only
  generalize pendingStep (powerStep b (order1 (endFrame b s))) = t at hbegin ⊢
  rw [← hbegin]
  have hx : (if t.running! = true then t else xrstStep b t).pf = t.pf := kept_branch State.pf rfl (pf_xrstStep b t)
  generalize (if t.running! = true then t else xrstStep b t) = u at hx ⊢
  rw [← hx]
  split
  · exact pf_operate b u
  · exact pf_bootStep b u
  · exact pf_bootStep b u
  · exact pf_bootStep b u
  · exact pf_recoveryStep b u
  · exact kept_ite State.pf (pf_emberExit u)
  · rfl

theorem frame_frameBoundary {b : BoundaryIn} {s : State} (h : s.pwr.phase ≠ .dead) :
    (frameBoundary b s).clk.frame = nextFrame s.clk.frame s.clk.load := by
  rw [frame_of_pf (pf_frameBoundary h), frame_order1, clk_endFrame]

theorem toNat_add_one_mod_32 (f : Frame) : (f + 1).toNat % 32 = (f.toNat + 1) % 32 := by
  have h1 : (1 : Frame).toNat = 1 := rfl
  rw [BitVec.toNat_add, h1]
  have := f.isLt
  omega

/-! ## The other commands -/

/-- The rows of no family, but for the boundaries and PD0. -/
theorem frame_runCmd_noFamily {c : Instr} (h : (wordsStay c || commandRow c) ≠ true) (s : State)
    (hup : c ≠ .pd0PowerUp) (hloss : c ≠ .pd0PowerLoss) (hb : ∀ b, c ≠ .frameBoundary b) (ht : ∀ b, c ≠ .watchTickBoundary b) :
    (runCmd c s).clk.frame = s.clk.frame := by
  refine frame_of_pf ?_
  cases c with
  | frameBoundary b => exact absurd rfl (hb b)
  | watchTickBoundary b => exact absurd rfl (ht b)
  | pd0PowerUp => exact absurd rfl hup
  | pd0PowerLoss => exact absurd rfl hloss
  | supplyGood _ => exact kept_ite State.pf rfl
  | porstAsserted => exact pf_porstSeen s
  | bootBegin b => exact pf_bootBegin b s
  | firmwareStart upsets =>
    exact kept_ite State.pf ((pf_firmwareStart _).trans (pf_each upsets upset (fun x s => pf_of_fixed (fixed_upset x s)) s))
  | domainPowerUp pd => exact kept_branch State.pf rfl (pf_of_fixed (fixed_domainOn pd s))
  | bootActivation => exact pf_bootActivation s
  | bootFailure => exact pf_bootFailure s
  | powerFailure cause cyc => exact pf_powerFailure _ _ s
  | emberModeExit => exact pf_emberExit s
  | xrstInAssert => rfl
  | watchdogExpiry engine => exact pf_watchdogExpiry engine s
  | watchdogReset => exact pf_watchdogReset s
  | recoveryReset => exact pf_recoveryReset s
  | setUpWrite a v => exact pf_setUpWrite a v s
  | glbLockWrite v cyc => exact pf_barWrite 0x10 v cyc s
  | hostInterfaceReset link => exact pf_hostReset link s
  | calPhaseDone => exact pf_calPhaseDone s
  | configActivateAtFrame => exact pf_activateAt s
  | configAutoRevert => exact pf_autoRevert s
  | pairLinkLoss => exact pf_linkLoss s
  | pairHeartbeatTakeover => exact pf_heartbeatLoss s
  | handoverTakeover => exact pf_handover s
  | frameCounterLoad _ => rfl
  | pmbusTransactionDone _ _ => exact pf_of_fixed (fixed_pmbDone _ _ s)
  | pmbusSclTimeout _ => exact pf_of_fixed (fixed_pmbDone _ _ s)
  | pmbusWatcherPoll n =>
    exact pf_of_fixed (kept_ite State.fixed ((fixed_watchPoll n _).trans (fixed_modWatch n _ s)))
  | damperJudgement => exact pf_of_fixed (fixed_judgeCap _)
  | marginVerifyDone rail => exact pf_of_fixed (fixed_onRail _ _ s (fixed_verifyNow rail))
  | _ => exact absurd rfl h

/-- Only a boundary and PD0 move the counter (R40). -/
theorem frame_runCmd (c : Instr) (s : State) : (runCmd c s).clk.frame = s.clk.frame ∨ c = .pd0PowerUp ∨ c = .pd0PowerLoss ∨
    ∃ b, c = .frameBoundary b ∨ c = .watchTickBoundary b := by
  by_cases hw : wordsStay c = true
  · exact .inl (frame_of_pf (pf_of_fixed (fixed_runCmd hw s)))
  by_cases hc : commandRow c = true
  · exact .inl (frame_runCmd_commandRow hc s)
  by_contra hn
  simp only [not_or, not_exists] at hn
  obtain ⟨hmoves, hup, hloss, hb⟩ := hn
  exact hmoves (frame_runCmd_noFamily (by simp [hw, hc]) s hup hloss (fun b => (hb b).1) fun b => (hb b).2)

end Sys2Proof.Machine

section
open Sys2Proof Sys2Proof.Machine

/-- Settles O49: a boundary's number is order 1's (`frame_frameBoundary`), and no other command moves the counter
(`frame_runCmd`). -/
theorem frameCounter : Obligations.FrameCounter := by
  refine ⟨fun s => ⟨_, rfl, rfl⟩, fun b s hp hl => ⟨_, rfl, ?_⟩, fun b f v s hp hl hf => ⟨_, rfl, ?_⟩,
    fun b v s hp hl => ⟨_, rfl, ?_⟩, fun b s hp => ⟨_, congrArg Next (if_pos hp), rfl⟩, fun b s h => ⟨_, congrArg Next ?_, rfl⟩,
    fun b s h hp hl => ⟨frameBoundary b s, congrArg Next ?_, ?_, rfl⟩, fun c s t he => ?_⟩
  · exact (frame_frameBoundary hp).trans (by rw [hl, nextFrame])
  · exact (frame_frameBoundary hp).trans (by rw [hl, nextFrame, if_neg fun h => hf h.1])
  · refine (frame_frameBoundary hp).trans ?_
    rw [hl, nextFrame]
    exact if_congr (by simp) rfl rfl
  · exact if_neg (by rwa [toNat_add_one_mod_32])
  · exact if_pos (by rwa [toNat_add_one_mod_32])
  · rw [frame_frameBoundary hp, hl, nextFrame]
  · rw [eq_runCmd he]
    exact frame_runCmd c s

end

/-! # A descriptor that its ring's command turns away (R50, R299, R300; log 8) -/

namespace Sys2Proof.Machine

/-- A command row completes as its opcode, its ring and its descriptor say. -/
theorem completes_of_commandOf {c : Instr} {op r : Nat} {d : Desc} (h : commandOf c = some (op, r, d)) {s : State}
    {P : State → Prop} (hP : P (hostRow op r d s)) : Completes c s P := by
  refine ⟨_, ?_, hP⟩
  cases c <;> cases h <;> rfl

section
variable {op r st : Nat} {d : Desc} {s : State}

/-- A rejected descriptor stages its completion and is counted. -/
theorem hostRow_rejected (hr : r < 8) (hslots : s.jrn.slots < 3) (hrej : rejects s { d with opcode := op } = some st) :
    hostRow op r d s =
      let u := s.modRing (8 + r) fun x => { x with resv := x.resv + needs { d with opcode := op } }
      { u with hst := { u.hst with
        ready := s.hst.ready ++ [rejection { d with opcode := op } r (s.ring r).own st u] } }.modRing r fun x =>
          { x with count := sat 0xFFFF (x.count + 1) } := by
  have hrej' : rejects (s.modRing (8 + r) fun x => { x with resv := x.resv + needs { d with opcode := op } })
      { d with opcode := op } = some st := hrej
  have hring : (s.modRing (8 + r) fun x => { x with resv := x.resv + needs { d with opcode := op } }).ring r = s.ring r := by
    rw [State.modRing_ring, if_neg (by omega)]
  simp only [hostRow, if_neg (Nat.not_le.mpr hr), if_neg (Nat.not_le.mpr hslots), hrej', hring]
  rfl

/-- Behind three journalled in the frame a descriptor waits in its ring (R50). -/
theorem hostRow_waits (hr : r < 8) (hslots : 3 ≤ s.jrn.slots) : hostRow op r d s =
    s.modRing r fun x => { x with fetched := x.fetched ++ [(s.clk.frame + 1, { d with opcode := op })] } := by
  unfold hostRow
  rw [if_neg (Nat.not_le.mpr hr)]
  exact if_pos hslots

end

end Sys2Proof.Machine

section
open Sys2Proof Sys2Proof.Machine

/-- Settles O31: every command row is `hostRow` (`completes_of_commandOf`), which rejects (`hostRow_rejected`) or leaves in
the ring (`hostRow_waits`) by the descriptor alone. -/
theorem commandRejected : Obligations.CommandRejected := by
  refine ⟨fun c op r d st s hc hr hslots hrej => completes_of_commandOf hc ?_,
    fun c op r d s hc hr hslots => completes_of_commandOf hc ?_⟩
  · rw [hostRow_rejected hr hslots hrej]
    refine ⟨rfl, rfl, ?_, ⟨_, rfl, rfl, rfl, rfl, rfl, rfl, rfl, rfl⟩, rfl⟩
    have hring : ∀ u : State, (u.modRing r fun x => { x with count := sat 0xFFFF (x.count + 1) }).ring r =
        { u.ring r with count := sat 0xFFFF ((u.ring r).count + 1) } := fun u => by rw [State.modRing_ring, if_pos rfl]
    refine (congrArg Ring.count (hring _)).trans ?_
    have hstay : (s.modRing (8 + r) fun x => { x with resv := x.resv + needs { d with opcode := op } }).ring r = s.ring r := by
      rw [State.modRing_ring, if_neg (by omega)]
    exact congrArg (fun x : Ring => sat 0xFFFF (x.count + 1)) hstay
  · rw [hostRow_waits hr hslots]
    refine ⟨?_, fun k hk => ?_, rfl⟩
    · rw [State.modRing_ring, if_pos rfl]
    · rw [State.modRing_ring, if_neg hk]

end

/-! # The orders of a boundary, and what waited for it (R44) -/

namespace Sys2Proof.Machine

/-! ## The nine orders in operation -/

/-- A part in operation behind order 1 does orders 2 to 9, which its own resets cut short (R44). -/
theorem frameBoundary_of_run {b : BoundaryIn} {s t : State} (hdead : s.pwr.phase ≠ .dead)
    (ht : t = pendingStep (powerStep b (order1 (endFrame b s)))) (hrun : t.pwr.phase = .run) :
    frameBoundary b s = operate b t := by
  unfold frameBoundary
  rw [if_neg hdead, ← ht]
  have hr : t.running! = true := decide_eq_true hrun
  simp only [hr, if_true, hrun]

/-- Orders 2 to 9 where no open-wire test ended and neither the partner reset nor the watchdog's stopped the part. -/
theorem operate_eq {b : BoundaryIn} {s s1 s2 u : State} (hs1 : s1 = { s with drt := { s.drt with other := b.other } })
    (how : owTested s1 = []) (hs2 : s2 = xrstStep b (order2 b s1)) (hrun : s2.pwr.phase = .run) (hu : u = decide3to7 b s2)
    (hwdt : u.flt.wdtRun = false) (hphase : u.pwr.phase = .run) : operate b s = order9 b (order8 s1 u) := by
  have hr : s2.running! = true := decide_eq_true hrun
  unfold operate
  extract_lets src s1' s2' t t'
  have h1 : s1' = s1 := hs1.symm
  have h2 : s2' = s2 := by rw [hs2, ← h1]
  have ht : t = u := by rw [hu, ← h2]
  have ht' : t' = u := by
    rw [← ht]
    exact if_pos (by rw [h1, how]; rfl)
  rw [h2, hr, ht', h1]
  simp [hwdt, hphase]

theorem owTested_eq_nil {s : State} (h : ∀ i, i < 96 → (s.rail i).owTest = none) : owTested s = [] := by
  rw [owTested, List.filter_eq_nil_iff]
  intro i hi
  rw [h i (List.mem_range.mp hi)]
  decide

/-! ## Set-up writes at order 6 (R8, R502) -/

/-- The words in force with a set-up write merged in. -/
def setUpWord (t : Tbl W32) (p : Nat × W32) : Tbl W32 := tset 0 t p.1 (merge (rwsMask p.1) (tget 0 t p.1) p.2)

theorem setUps_each {α : Type} {f : α → State → State} (hf : ∀ a s, (f a s).setUps = s.setUps) (l : List α) (s : State) :
    (each l f s).setUps = s.setUps := each_keep State.setUps hf l s

theorem setUps_portsUpdate (s : State) : (portsUpdate s).setUps = s.setUps := by
  have hg (u : State) : (groupStep u).setUps = u.setUps := rfl
  refine (hg _).trans (setUps_each (fun p s => ?_) _ s)
  exact kept_ite State.setUps rfl

theorem setUps_setupConv (old s : State) : (setupConv old s).setUps = s.setUps := by
  refine setUps_each (fun c s => setUps_each (fun e s => ?_) _ s) _ s
  exact kept_ite State.setUps rfl

theorem setUps_applySetup (k : Nat) (v : W32) (s : State) :
    (applySetup k v s).setUps = (s.bar0, setUpWord s.cfg (k, v), s.setup, s.evt.pend) := by
  unfold applySetup
  extract_lets old u t
  have ht : t.setUps = (s.bar0, setUpWord s.cfg (k, v), s.setup, s.evt.pend) := by
    unfold t
    split
    · exact kept_branch State.setUps rfl rfl
    · rfl
  split
  · exact (setUps_setupConv _ _).trans ht
  split
  · exact (setUps_portsUpdate _).trans ht
  · exact ht

theorem setUps_applySetups (s : State) :
    (applySetups s).setUps = (s.bar0, s.setup.foldl setUpWord s.cfg, [], s.evt.pend) := by
  have h (l : List (Nat × W32)) (u : State) : (each l (fun p s => applySetup p.1 p.2 s) u).setUps =
      (u.bar0, l.foldl setUpWord u.cfg, u.setup, u.evt.pend) := by
    unfold each
    induction l generalizing u with
    | nil => rfl
    | cons p l ih =>
      obtain ⟨hb, hc, hs, he⟩ := (by simpa only [State.setUps, Prod.mk.injEq] using setUps_applySetup p.1 p.2 u :
        (applySetup p.1 p.2 u).bar0 = u.bar0 ∧ (applySetup p.1 p.2 u).cfg = setUpWord u.cfg p ∧
          (applySetup p.1 p.2 u).setup = u.setup ∧ (applySetup p.1 p.2 u).evt.pend = u.evt.pend)
      refine (ih _).trans ?_
      rw [hb, hc, hs, he, List.foldl_cons]
  exact h s.setup { s with setup := [] }

/-- Order 6 leaves no set-up write waiting and puts each into force, in order of arrival. -/
theorem applySetups_parts (s : State) : (applySetups s).setup = [] ∧ (applySetups s).bar0 = s.bar0 ∧
    (applySetups s).cfg = s.setup.foldl setUpWord s.cfg := by
  have h := setUps_applySetups s
  simp only [State.setUps, Prod.mk.injEq] at h
  obtain ⟨hb, hc, hs, -⟩ := h
  exact ⟨hs, hb, hc⟩

theorem tget_setUpWord (t : Tbl W32) (k j : Nat) (v : W32) :
    tget 0 (setUpWord t (k, v)) j = if j = k then merge (rwsMask k) (tget 0 t k) v else tget 0 t j := tget_tset ..

theorem cw_applySetups (s : State) (k : Nat) : (applySetups s).cw k = tget 0 (s.setup.foldl setUpWord s.cfg) k := by
  rw [State.cw, (applySetups_parts s).2.2]

theorem merge_merge (m : Nat) (x v w : W32) : merge m (merge m x v) w = merge m x w := by
  unfold merge
  ext i hi
  simp only [BitVec.getElem_or, BitVec.getElem_and, BitVec.getElem_not]
  cases (BitVec.ofNat 32 m)[i] <;> simp

/-! ## Selections at order 6 (R171, R244, R353, R468, R469) -/

theorem selections_cntSel {n : Nat} {s : State} (h : s.flt.cntPend = some n) : (selections s).flt.cntSel = some n ∧
    (selections s).flt.cntPend = none ∧ (selections s).flt.cntWin = countersOf s n := by
  cases hw : s.cnv.wselPend <;> simp [selections, hw, h, countersOf, State.rail]

theorem selections_csel {n : Nat} {s : State} (h : s.evt.cselPend = some n) :
    (selections s).evt.csel = some n ∧ (selections s).evt.cselPend = none := by
  cases hw : s.cnv.wselPend <;> simp [selections, hw, h]

theorem selections_rsel {n : Nat} {s : State} (h : s.sca.rselPend = some n) :
    (selections s).sca.rsel = n ∧ (selections s).sca.rselPend = none := by
  cases hw : s.cnv.wselPend <;> simp [selections, hw, h]

theorem selections_wsel {n : Nat} {s : State} (h : s.cnv.wselPend = some n) :
    (selections s).cnv.wsel = n % 4 ∧ (selections s).cnv.wselPend = none := by
  unfold selections
  rw [h]
  exact ⟨rfl, rfl⟩

theorem selections_pop {e : WcEntry} {s : State} (hp : s.wc.pop = true) (hl : s.wc.latch = some e) :
    (selections s).wc.log = s.wc.log.erase e ∧ (selections s).wc.pop = false := by
  cases hw : s.cnv.wselPend <;> simp [selections, hw, hp, hl]

/-- Where nothing was selected, only the window on the counters is read anew. -/
theorem selections_none {s : State} (hcnt : s.flt.cntPend = none) (hcsel : s.evt.cselPend = none)
    (hrsel : s.sca.rselPend = none) (hwsel : s.cnv.wselPend = none) (hpop : s.wc.pop = false) :
    selections s = { s with flt := (selections s).flt } ∧ (selections s).flt.cntSel = s.flt.cntSel := by
  have hevt : { s.evt with csel := s.evt.csel, cselPend := none } = s.evt := by rw [← hcsel]
  have hsca : { s.sca with rsel := s.sca.rsel, rselPend := none } = s.sca := by rw [← hrsel]
  have hwc : { s.wc with log := s.wc.log, pop := false } = s.wc := by rw [← hpop]
  unfold selections
  simp only [hcnt, hcsel, hrsel, hwsel, hpop, Option.orElse_none, Option.getD_none, Bool.false_eq_true, if_false]
  rw [hevt, hsca, hwc]
  exact ⟨rfl, trivial⟩

end Sys2Proof.Machine

section
open Sys2Proof Sys2Proof.Machine

/-- Settles O50: the orders by `frameBoundary_of_run` and `operate_eq`, the set-ups by the words they are merged into
(`applySetups_parts`), each selection by its own lemma. -/
theorem boundaryOrderAndSetUps : Obligations.BoundaryOrderAndSetUps := by
  refine ⟨fun b s s0 s1 s2 u hdead h0 hrun0 how h1 h2 hrun2 hu hwdt hphase => ⟨_, congrArg Next ?_, rfl⟩,
    fun s => ?_, fun k v s h => ?_, fun k v w s h => ?_, fun k l v w s h hkl => ?_, fun n s => selections_cntSel,
    fun n s => selections_csel, fun n s => selections_rsel, fun n s => selections_wsel, fun e s => selections_pop,
    fun s => selections_none⟩
  · have how' : owTested s1 = [] := h1 ▸ owTested_eq_nil how
    exact (frameBoundary_of_run hdead h0 hrun0).trans (operate_eq h1 how' h2 hrun2 hu hwdt hphase)
  · obtain ⟨hset, hbar, -⟩ := applySetups_parts s
    exact ⟨hset, hbar⟩
  · simp only [cw_applySetups, h, List.foldl_cons, List.foldl_nil, tget_setUpWord, if_true]
    exact ⟨rfl, fun j hj => if_neg hj⟩
  · simp only [cw_applySetups, h, List.foldl_cons, List.foldl_nil, tget_setUpWord, if_true, merge_merge]
    rfl
  · simp only [cw_applySetups, h, List.foldl_cons, List.foldl_nil, tget_setUpWord, if_neg hkl, if_neg hkl.symm, if_true]
    exact ⟨rfl, rfl⟩

end

/-! # A task that runs in its frame (R52, R53, R57) -/

namespace Sys2Proof.Machine

/-- The engine behind a task of its own that has run. -/
def ranTask (e t cyc : Nat) (x : Eng) : Eng :=
  { x with ran := x.ran ||| 2 ^ t, used := x.used + cyc, consec := if 4 ≤ e ∧ t = 0 then 0 else x.consec }

section
variable {e t n cyc : Nat} {f : State → State} {s : State}

/-- A task that starts and ends within its frame has its effect, is marked, and raises at most its own event (R57). -/
theorem eventsOnly_taskRun (h : TaskReady e t cyc s) :
    EventsOnly ((f s).modEng e (ranTask e t cyc)) (taskRun e t n cyc f s) := by
  obtain ⟨hstart, hfit⟩ := h
  unfold taskRun
  rw [if_neg (by simp [hstart]), if_neg (by omega)]
  dsimp only
  split
  · exact eventsOnly_raise ..
  · exact EventsOnly.refl _

theorem eng_ranTask : ((f s).modEng e (ranTask e t cyc)).eng e = ranTask e t cyc ((f s).eng e) := State.modEng_eng_same ..

theorem taskRan_taskRun (h : TaskReady e t cyc s) (hf : ((f s).eng e).used = (s.eng e).used) :
    TaskRan e t cyc s (taskRun e t n cyc f s) := by
  have heng : (taskRun e t n cyc f s).eng e = ranTask e t cyc ((f s).eng e) :=
    (congrArg (fun l : Tbl Eng => tget ({} : Eng) l e) (eventsOnly_taskRun h).engs).trans eng_ranTask
  rw [TaskRan, heng]
  refine ⟨?_, congrArg (· + cyc) hf⟩
  simp [ranTask, Nat.testBit_or, Nat.testBit_two_pow_self]

theorem not_halted_of_ready (h : TaskReady e t cyc s) : (s.eng e).halted = false := by
  have hs := h.1
  simp only [taskStarts, Bool.and_eq_true, Bool.not_eq_true'] at hs
  exact hs.2

end

end Sys2Proof.Machine

/-! # The tasks of a stage's engine (R53, R57, R262, R274) -/

namespace Sys2Proof.Machine

/-! ## One instance of T4.1 -/

/-- What the parts of an instance keep behind the result it has taken: the engines, the other stages, the stage's state and
the result seen; and something stays staged. -/
structure KeepsInstance (st : Nat) (s t : State) : Prop where
  engs : t.engs = s.engs
  others : ∀ j, j ≠ st → t.stg j = s.stg j
  state : (t.stg st).st = (s.stg st).st
  seen : (t.stg st).lastTs = (s.stg st).lastTs
  staged : (s.stg st).staged.isSome = true → (t.stg st).staged.isSome = true

section
variable {st : Nat} {s t u : State}

theorem KeepsInstance.of_parts (he : t.engs = s.engs) (hs : t.stgs = s.stgs) : KeepsInstance st s t := by
  have hstg : t.stg = s.stg := funext fun j => congrArg (fun l : Tbl Stg => tget ({} : Stg) l j) hs
  exact ⟨he, fun j _ => congrFun hstg j, by rw [hstg], by rw [hstg], by rw [hstg]; exact id⟩

theorem KeepsInstance.refl (s : State) : KeepsInstance st s s := .of_parts rfl rfl

theorem KeepsInstance.trans (h : KeepsInstance st s t) (g : KeepsInstance st t u) : KeepsInstance st s u :=
  ⟨g.engs.trans h.engs, fun j hj => (g.others j hj).trans (h.others j hj), g.state.trans h.state, g.seen.trans h.seen,
    fun hs => g.staged (h.staged hs)⟩

/-- Of the stage itself. -/
def KeepsStg (x y : Stg) : Prop := y.st = x.st ∧ y.lastTs = x.lastTs ∧ (x.staged.isSome = true → y.staged.isSome = true)

theorem KeepsStg.refl (x : Stg) : KeepsStg x x := ⟨rfl, rfl, id⟩

theorem KeepsStg.ite {p : Prop} [Decidable p] {x y z : Stg} (hy : KeepsStg x y) (hz : KeepsStg x z) :
    KeepsStg x (if p then y else z) := by
  split
  · exact hy
  · exact hz

theorem keepsInstance_modStg {f : Stg → Stg} (hf : ∀ x, KeepsStg x (f x)) : KeepsInstance st s (s.modStg st f) := by
  have hown : (s.modStg st f).stg st = f (s.stg st) := by rw [State.modStg_stg, if_pos rfl]
  obtain ⟨hst, hts, hsg⟩ := hf (s.stg st)
  exact ⟨rfl, fun j hj => by rw [State.modStg_stg, if_neg hj], by rw [hown, hst], by rw [hown, hts], by rw [hown]; exact hsg⟩

/-- A change of what is neither the state, nor the result seen, nor what is staged. -/
theorem keepsInstance_modStg_rest {f : Stg → Stg} (hf : ∀ x, ((f x).st, (f x).lastTs, (f x).staged) = (x.st, x.lastTs, x.staged)) :
    KeepsInstance st s (s.modStg st f) := by
  refine keepsInstance_modStg fun x => ?_
  obtain ⟨hst, hts, hsg⟩ := (by simpa only [Prod.mk.injEq] using hf x :
    (f x).st = x.st ∧ (f x).lastTs = x.lastTs ∧ (f x).staged = x.staged)
  exact ⟨hst, hts, by rw [hsg]; exact id⟩

/-- One that stages something. -/
theorem keepsInstance_modStg_stages {f : Stg → Stg} (hf : ∀ x, ((f x).st, (f x).lastTs) = (x.st, x.lastTs))
    (hsg : ∀ x, (f x).staged.isSome = true) : KeepsInstance st s (s.modStg st f) := by
  refine keepsInstance_modStg fun x => ?_
  obtain ⟨hst, hts⟩ := (by simpa only [Prod.mk.injEq] using hf x : (f x).st = x.st ∧ (f x).lastTs = x.lastTs)
  exact ⟨hst, hts, fun _ => hsg x⟩

theorem keepsInstance_stgEvent (k ph why : Nat) (s : State) : KeepsInstance st s (stgEvent st k ph why s) :=
  have h := eventsOnly_raise (0x80 + 8 * st + k) s.tsB _ s
  .of_parts h.engs h.stgs

theorem KeepsInstance.ite {p : Prop} [Decidable p] (ht : KeepsInstance st s t) (hu : KeepsInstance st s u) :
    KeepsInstance st s (if p then t else u) := by
  split
  · exact ht
  · exact hu

theorem isSome_ite_some {α : Type} {p : Prop} [Decidable p] {o : Option α} {a : α} (h : o.isSome = true) :
    (if p then some a else o).isSome = true := by
  split
  · rfl
  · exact h

theorem keepsInstance_moveSp (hold : Bool) (s : State) : KeepsInstance st s (moveSp st hold s) := by
  unfold moveSp
  extract_lets x isum icap above floor fold sp toCap atFloor cnt s1
  split
  · have h1 : KeepsInstance st s s1 := keepsInstance_modStg fun x => ⟨rfl, rfl, isSome_ite_some⟩
    refine .ite (h1.trans (.trans ?_ (keepsInstance_stgEvent ..))) h1
    exact keepsInstance_modStg_rest fun _ => rfl
  · refine keepsInstance_modStg fun x => .ite ⟨rfl, rfl, id⟩ ?_
    split
    · exact ⟨rfl, rfl, id⟩
    · exact ⟨rfl, rfl, id⟩
    · exact .ite ⟨rfl, rfl, isSome_ite_some⟩ ⟨rfl, rfl, id⟩
    · exact ⟨rfl, rfl, id⟩

theorem keepsInstance_loopSat (sat ovf : Bool) (s : State) : KeepsInstance st s (loopSat st sat ovf s) := by
  have hmod : KeepsInstance st s (s.modStg st fun x => { x with
      sat := x.sat || sat, ovf := x.ovf || ovf, setNow := x.setNow ||| (b2n sat + 2 * b2n ovf) }) :=
    keepsInstance_modStg_rest fun _ => rfl
  exact .ite (hmod.trans (keepsInstance_stgEvent ..)) hmod

theorem keepsInstance_freeInt (n : Nat) (s : State) : KeepsInstance st s (freeInt n s).2 := .of_parts rfl rfl

theorem keepsInstance_ref16 (s : State) : KeepsInstance st s (ref16 st s).2 := by
  unfold ref16
  dsimp only
  split
  · exact keepsInstance_freeInt ..
  · exact .refl s

theorem keepsInstance_controlLaw (code : Nat) (s : State) : KeepsInstance st s (controlLaw st code s).2 := by
  have href := keepsInstance_ref16 (st := st) s
  unfold controlLaw
  extract_lets r s1 x e0 e c xin base ex pid pd0 pd lo hi inew hold u satd s2 nom v vin
  have h2 : KeepsInstance st s s2 := href.trans (keepsInstance_modStg_rest fun _ => rfl)
  split
  · split
    · exact (h2.trans (keepsInstance_freeInt 24 s2)).trans (keepsInstance_loopSat ..)
    · exact h2.trans (keepsInstance_loopSat ..)
  · exact h2.trans (keepsInstance_loopSat ..)

theorem keepsInstance_each {α : Type} {f : α → State → State} (hf : ∀ a s, KeepsInstance st s (f a s)) (l : List α)
    (s : State) : KeepsInstance st s (each l f s) :=
  each_invariant (KeepsInstance st s) (fun a u hu => hu.trans (hf a u)) l s (.refl s)

theorem keepsInstance_balance (s : State) : KeepsInstance st s (balance st s) := by
  unfold balance
  split
  · exact .refl s
  · refine keepsInstance_each (fun p s => ?_) _ s
    exact .ite (keepsInstance_modStg_stages (fun _ => rfl) fun _ => rfl) (.refl s)

theorem keepsInstance_lowCounts (s : State) : KeepsInstance st s (lowCounts st s) :=
  keepsInstance_modStg_rest fun _ => rfl

theorem keepsInstance_stageDuty (first : Bool) (u : Int) (s : State) : KeepsInstance st s (stageDuty st first u s) :=
  keepsInstance_modStg_stages (fun _ => rfl) fun _ => rfl

theorem keepsInstance_judgeBand (mv : Int) (s : State) : KeepsInstance st s (judgeBand st mv s) := by
  refine keepsInstance_modStg fun x => .ite ?_ (.refl x)
  exact .ite ⟨rfl, rfl, fun _ => rfl⟩ (.ite ⟨rfl, rfl, fun _ => rfl⟩ ⟨rfl, rfl, id⟩)

/-- The stage with the fresh result taken and the duty in force staged, ahead of the instance's own work. -/
def takeResult (st : Nat) (s : State) : State :=
  let r := (s.outEnt st).seen
  s.modStg st fun x => { x with
    staged := some { u := x.u }, lastTs := some r.ts, sus := r.sus, vout := toBits 16 (clampI 0 65535 (s.outMv st r))
    iout := toBits 16 (clampI 0 65535 ((s.isum st).fdiv 100)) }

/-- An instance takes its result; what it does with it keeps the rest of the stage as it stands then (R262). -/
theorem keepsInstance_controlInstance (first : Bool) (s : State) :
    KeepsInstance st (takeResult st s) (controlInstance st first s) := by
  unfold controlInstance
  extract_lets r mv act s1 tell s2 s3 s4 c s5 s6
  refine .ite (keepsInstance_modStg_stages (fun _ => rfl) fun _ => rfl) ?_
  have h2 : KeepsInstance st s1 s2 := keepsInstance_modStg_rest fun _ => rfl
  have h3 : KeepsInstance st s1 s3 := .ite (h2.trans (keepsInstance_stgEvent ..)) h2
  have h5 : KeepsInstance st s1 s5 :=
    ((h3.trans (keepsInstance_moveSp ..)).trans (keepsInstance_controlLaw ..)).trans (keepsInstance_balance ..)
  exact ((h5.trans (keepsInstance_lowCounts ..)).trans (keepsInstance_stageDuty ..)).trans (keepsInstance_judgeBand ..)

/-! ## The tasks on their stage -/

theorem stg_takeResult (s : State) : (takeResult st s).stg st =
    { s.stg st with
      staged := some { u := (s.stg st).u }, lastTs := some (s.outEnt st).seen.ts, sus := (s.outEnt st).seen.sus
      vout := toBits 16 (clampI 0 65535 (s.outMv st (s.outEnt st).seen)), iout := toBits 16 (clampI 0 65535 ((s.isum st).fdiv 100)) } :=
  (State.modStg_stg ..).trans (if_pos rfl)

theorem stageTask_stale (hrun : (s.stg st).st.running = true) (hh : (s.eng (4 + st)).halted = false)
    (hp : (s.stg st).preset = false) (hf : freshOut s st = false) :
    stageTask st s = s.modStg st fun x => { x with staged := some { u := x.u } } := by
  simp [stageTask, hrun, hh, hp, hf]

theorem stageTask_fresh (hrun : (s.stg st).st.running = true) (hh : (s.eng (4 + st)).halted = false)
    (hp : (s.stg st).preset = false) (hf : freshOut s st = true) : stageTask st s = controlInstance st false s := by
  simp [stageTask, hrun, hh, hp, hf]

/-- T4.2 of a regulating stage without the check of its input current: one phase to drop, where enough are left. -/
theorem phaseTask_drop {k : Nat} (hreg : (s.stg st).st.isReg = true) (hh : (s.eng (4 + st)).halted = false)
    (hchk : s.cb (sbase st + 8) 8 = false)
    (hlow : ((s.healthy st).filter fun k => 64 ≤ tget 0 (s.stg st).lowCnt k) = [k])
    (hleft : orDef (s.sfld st 0 15 12) 1 ≤ (s.healthy st).length - (s.stg st).drops.length - 1) :
    phaseTask st s = (s.modStg st fun x => { x with drops := x.drops ++ [(k, 1)] }).modStg st fun y =>
      { y with chkBad := false } := by
  have hdrop : decideDrop st k 1 s = s.modStg st fun x => { x with drops := x.drops ++ [(k, 1)] } :=
    if_neg (Nat.not_lt.mpr hleft)
  have hchk' : (s.modStg st fun x => { x with drops := x.drops ++ [(k, 1)] }).cb (sbase st + 8) 8 = false := hchk
  simp only [phaseTask, hh, hreg, hlow, each_singleton, hdrop, hchk', Bool.false_and, Bool.false_eq_true, if_false, if_true]

end

/-- Behind a task of stage st that is ready, the stages are as its effect leaves them. -/
theorem stg_taskRun {e t n cyc : Nat} {f : State → State} {s : State} (h : TaskReady e t cyc s) (j : Nat) :
    (taskRun e t n cyc f s).stg j = (f s).stg j :=
  congrArg (fun l : Tbl Stg => tget ({} : Stg) l j) (eventsOnly_taskRun h).stgs

end Sys2Proof.Machine

section
open Sys2Proof Sys2Proof.Machine

/-- Settles O17: an instance keeps what it has taken (`keepsInstance_controlInstance`); without a fresh result, and for a drop,
the task is one change of its stage (`stageTask_stale`, `phaseTask_drop`). -/
theorem stageTasks : Obligations.StageTasks := by
  refine ⟨fun st cyc s hst hr hrun hp hf => ⟨_, congrArg Next (if_pos hst), ?_⟩,
    fun st cyc s hst hr hrun hp hf => ⟨_, congrArg Next (if_pos hst), ?_⟩,
    fun st k cyc s hst hr hreg hchk hlow hleft => ⟨_, congrArg Next (if_pos hst), ?_⟩⟩
  · have hf' := stageTask_stale hrun (not_halted_of_ready hr) hp hf
    refine ⟨taskRan_taskRun hr (by rw [hf']; rfl), ?_, ?_, fun j hj => ?_⟩ <;> rw [stg_taskRun hr, hf', State.modStg_stg]
    · rw [if_pos rfl]
    · rw [if_pos rfl]
    · rw [if_neg hj]
  · have hf' := stageTask_fresh hrun (not_halted_of_ready hr) hp hf
    have hk := keepsInstance_controlInstance (st := st) false s
    have heng : (controlInstance st false s).engs = s.engs := hk.engs
    refine ⟨taskRan_taskRun hr ?_, ?_, ?_, ?_, fun j hj => ?_⟩
    · rw [hf', State.eng, heng, State.eng]
    all_goals rw [stg_taskRun hr, hf']
    · exact hk.staged (by rw [stg_takeResult]; rfl)
    · rw [hk.seen, stg_takeResult]
    · rw [hk.state, stg_takeResult]
    · exact (hk.others j hj).trans ((State.modStg_stg ..).trans (if_neg hj))
  · have hf' := phaseTask_drop hreg (not_halted_of_ready hr) hchk hlow hleft
    refine ⟨taskRan_taskRun hr (by rw [hf']; rfl), ?_, ?_, fun j hj => ?_⟩ <;>
      rw [stg_taskRun hr, hf', State.modStg_stg, State.modStg_stg]
    · simp
    · simp
    · simp [hj]

end

/-! # The row exchange (R53, R324, R339, R340, R342) -/

namespace Sys2Proof.Machine

/-! ## Frames sent (R323, R324, R339, R340) -/

/-- The state without what sending a link frame touches: the ports and the next SEQ of each kind. -/
def State.offSend (s : State) : State := { s with sca := { s.sca with ports := [], txSeq := [] } }

/-- The frames that take a slot of a port in this frame, and those that wait for one. -/
def Port.frames (x : Port) : List LinkTx := x.tx ++ x.txq

/-- A port where an urgent frame has taken a slot (R340). -/
def placeUrgent (f : LinkTx) (x : Port) : Port :=
  if x.tx.length < 12 then { x with tx := x.tx ++ [f] }
  else match x.tx.reverse.find? fun y => !y.urgent with
  | some y => { x with tx := x.tx.erase y ++ [f], txq := y :: x.txq }
  | none => { x with txq := f :: x.txq }

theorem urgentFrame_eq (p : Nat) (f : LinkTx) (s : State) : urgentFrame p f s = s.modPort p (placeUrgent f) := rfl

theorem st_placeUrgent (f : LinkTx) (x : Port) : (placeUrgent f x).st = x.st := by
  unfold placeUrgent
  split
  · rfl
  · split <;> rfl

theorem mem_placeUrgent_self (f : LinkTx) (x : Port) : f ∈ (placeUrgent f x).frames := by
  unfold placeUrgent Port.frames
  split
  · simp
  · split <;> simp

/-- Only a frame that is not urgent is displaced, and none is lost. -/
theorem mem_placeUrgent {f g : LinkTx} {x : Port} (h : g ∈ x.frames) : g ∈ (placeUrgent f x).frames := by
  rw [Port.frames, List.mem_append] at h
  unfold placeUrgent Port.frames
  split
  · rcases h with h | h <;> simp [h]
  · split
    · next y _ =>
      by_cases hy : g = y
      · simp [hy]
      · rcases h with h | h
        · simp [(List.mem_erase_of_ne hy).mpr h]
        · simp [h]
    · rcases h with h | h <;> simp [h]

section
variable {l : List Nat} {f : LinkTx} {s : State}

theorem port_each {g : Port → Port} (hl : l.Nodup) (p : Nat) :
    (each l (fun p s => s.modPort p g) s).port p = if p ∈ l then g (s.port p) else s.port p := by
  unfold each
  induction l generalizing s with
  | nil => rfl
  | cons a l ih =>
    obtain ⟨ha, hl⟩ := List.nodup_cons.mp hl
    refine (ih hl).trans ?_
    rw [State.modPort_port]
    by_cases hp : p = a
    · subst hp
      simp [ha]
    · simp [hp]

theorem offSend_sendOn (l : List Nat) (f : LinkTx) (s : State) : (sendOn l f s).offSend = s.offSend := by
  refine each_keep State.offSend (fun p s => ?_) l s
  exact kept_branch State.offSend rfl rfl

theorem port_sendOn_urgent (hl : l.Nodup) (hu : f.urgent = true) (p : Nat) :
    (sendOn l f s).port p = if p ∈ l then placeUrgent f (s.port p) else s.port p := by
  unfold sendOn
  simp only [hu, if_true]
  exact port_each hl p

theorem port_sendOn_waits (hl : l.Nodup) (hu : f.urgent = false) (p : Nat) :
    (sendOn l f s).port p = if p ∈ l then { s.port p with txq := (s.port p).txq ++ [f] } else s.port p := by
  unfold sendOn
  simp only [hu, Bool.false_eq_true, if_false]
  exact port_each (g := fun x => { x with txq := x.txq ++ [f] }) hl p

theorem nodup_rowPorts (s : State) : s.rowPorts.Nodup := List.Nodup.filter _ (by decide)

end

section
variable {kind v : Nat} {dst : Option Nat} {s : State}

/-- A row frame of a node that is no stack member goes out on every row port (R339). -/
theorem sendRow_own (hr : s.role ≠ 2) : sendRow kind dst v s =
    sendOn s.rowPorts (linkFrameOf kind dst v s).1 (linkFrameOf kind dst v s).2 := if_neg hr

theorem sendRow_member (hr : s.role = 2) (hok : s.sca.ringOk = true) : sendRow kind dst v s =
    queueFrame 2 (linkFrameOf 6 none v s).1 (linkFrameOf 6 none v s).2 := (if_pos hr).trans (if_pos hok)

theorem sendRow_alone (hr : s.role = 2) (hok : s.sca.ringOk = false) : sendRow kind dst v s = s :=
  (if_pos hr).trans (if_neg (by simp [hok]))

theorem offSend_sendRow (kind : Nat) (dst : Option Nat) (v : Nat) (s : State) :
    (sendRow kind dst v s).offSend = s.offSend :=
  kept_branch State.offSend (kept_branch State.offSend rfl rfl) (offSend_sendOn _ _ _)

end

/-! ## Rows of a canonical table -/

section
variable {α : Type} {d : α}

theorem mem_of_tget_ne {t : Tbl α} {k : Nat} (h : tget d t k ≠ d) : (k, tget d t k) ∈ t := by
  induction t with
  | nil => exact absurd rfl h
  | cons p t ih =>
    by_cases hp : p.1 = k
    · rw [tget, if_pos hp, ← hp]
      exact List.mem_cons_self ..
    · rw [tget, if_neg hp] at h ⊢
      exact List.mem_cons_of_mem _ (ih h)

theorem pairwise_of_twfFrom [DecidableEq α] {t : Tbl α} {o : Option Nat} (h : twfFrom d o t = true) :
    t.Pairwise (fun p q => p.1 < q.1) ∧ ∀ n, o = some n → ∀ p ∈ t, n < p.1 := by
  induction t generalizing o with
  | nil => exact ⟨.nil, fun _ _ _ hp => nomatch hp⟩
  | cons p t ih =>
    have hrest : twfFrom d (some p.1) t = true := by cases o <;> simp_all [twfFrom]
    obtain ⟨hp, hlt⟩ := ih hrest
    refine ⟨List.pairwise_cons.mpr ⟨hlt p.1 rfl, hp⟩, fun n hn q hq => ?_⟩
    have hnp : n < p.1 := by
      subst hn
      simp only [twfFrom, Bool.and_eq_true, decide_eq_true_eq] at h
      exact h.1.1
    obtain rfl | hq := List.mem_cons.mp hq
    · exact hnp
    · exact hnp.trans (hlt p.1 rfl q hq)

/-- A table in order reads each of its rows. -/
theorem tget_of_mem_rows {t : Tbl α} (h : t.Pairwise (fun p q => p.1 < q.1)) {p : Nat × α} (hp : p ∈ t) : tget d t p.1 = p.2 := by
  induction t with
  | nil => cases hp
  | cons q t ih =>
    obtain ⟨hq, ht⟩ := List.pairwise_cons.mp h
    obtain rfl | hp := List.mem_cons.mp hp
    · exact if_pos rfl
    · rw [tget, if_neg (hq p hp).ne]
      exact ih ht hp

end

/-! ## Caps given (R342) -/

/-- The nodes with a ROWSTAT, without their caps. -/
def capless (t : Tbl RNode) : List (Nat × RNode) := (t.filter fun p => p.2.valid).map fun p => (p.1, { p.2 with cap := 0 })

/-- A cap given to a node with a ROWSTAT changes no row of a table in order but in its cap. -/
theorem capless_tins {t : Tbl RNode} (h : t.Pairwise (fun p q => p.1 < q.1)) {n : Nat} (hv : (tget {} t n).valid = true)
    (c : Nat) : capless (tins t n { tget {} t n with cap := c }) = capless t := by
  induction t with
  | nil => exact absurd hv Bool.false_ne_true
  | cons p t ih =>
    obtain ⟨j, w⟩ := p
    obtain ⟨hlt, ht⟩ := List.pairwise_cons.mp h
    by_cases hj : j = n
    · have hw : tget {} ((j, w) :: t) n = w := if_pos hj
      rw [hw] at hv ⊢
      rw [tins, if_pos hj, hj]
      simp [capless, hv]
    · have hw : tget {} ((j, w) :: t) n = tget {} t n := if_neg hj
      rw [hw] at hv ⊢
      have hmem : (n, tget {} t n) ∈ t := mem_of_tget_ne fun e => by rw [e] at hv; exact absurd hv Bool.false_ne_true
      have hjn : ¬n < j := Nat.not_lt.mpr (hlt _ hmem).le
      rw [tins, if_neg hj, if_neg hjn]
      have hrest := ih ht hv
      unfold capless at hrest ⊢
      rw [List.filter_cons, List.filter_cons]
      split
      · rw [List.map_cons, List.map_cons, hrest]
      · exact hrest

/-- The state without what the giving of caps touches. -/
def State.offRow (s : State) : State :=
  { s with sca := { s.sca with nodes := [], ports := [], txSeq := [] }, dmp := { s.dmp with rowCap := none } }

/-- A node takes its cap: the own one as the tray's, another one by a CAP frame (R342). -/
def giveCap (n c : Nat) (s : State) : State :=
  let s := s.modRnode n fun x => { x with cap := c }
  if n = s.node then { s with dmp := { s.dmp with rowCap := some c } } else sendRow 11 (some n) c s

section
variable {n c : Nat} {s : State}

theorem giveCap_own (h : n = s.node) : giveCap n c s =
    { s.modRnode n fun x => { x with cap := c } with dmp := { s.dmp with rowCap := some c } } := if_pos h

theorem giveCap_other (h : n ≠ s.node) :
    giveCap n c s = sendRow 11 (some n) c (s.modRnode n fun x => { x with cap := c }) := if_neg h

theorem offRow_giveCap (n c : Nat) (s : State) : (giveCap n c s).offRow = s.offRow := by
  by_cases h : n = s.node
  · rw [giveCap_own h]
    rfl
  · rw [giveCap_other h]
    exact (congrArg State.offRow (offSend_sendRow ..) :)

theorem nodes_giveCap (n c : Nat) (s : State) :
    (giveCap n c s).sca.nodes = tmod {} s.sca.nodes n fun x => { x with cap := c } := by
  by_cases h : n = s.node
  · rw [giveCap_own h]
    rfl
  · rw [giveCap_other h]
    exact (congrArg (fun u : State => u.sca.nodes) (offSend_sendRow ..) :)

theorem rnode_giveCap (m : Nat) :
    (giveCap n c s).rnode m = if m = n then { s.rnode n with cap := c } else s.rnode m := by
  rw [State.rnode, nodes_giveCap]
  exact tget_tmod ..

theorem port_giveCap (hr : s.role ≠ 2) (p : Nat) : (giveCap n c s).port p =
    if n ≠ s.node ∧ p ∈ s.rowPorts then placeUrgent (linkFrameOf 11 (some n) c s).1 (s.port p) else s.port p := by
  by_cases h : n = s.node
  · rw [giveCap_own h, if_neg (fun hn => hn.1 h)]
    rfl
  · have hr' : (s.modRnode n fun x => { x with cap := c }).role ≠ 2 := hr
    rw [giveCap_other h, sendRow_own hr', port_sendOn_urgent (nodup_rowPorts _) rfl]
    exact if_congr (show p ∈ s.rowPorts ↔ _ by simp [h]) rfl rfl

end

/-! ## A pass that gives every node its cap -/

/-- A pass brings about what a step of one kind brings about and no other undoes; `Q` holds all along. -/
theorem each_brings {α : Type} {f : α → State → State} {l : List α} (k : α → Prop) (Q R : State → Prop)
    (hQ : ∀ a ∈ l, ∀ s, Q s → Q (f a s)) (hset : ∀ a ∈ l, k a → ∀ s, Q s → R (f a s))
    (hkeep : ∀ a ∈ l, ¬k a → ∀ s, Q s → R s → R (f a s)) {s : State} (hs : Q s) (h : R s ∨ ∃ a ∈ l, k a) :
    R (each l f s) := by
  unfold each
  induction l generalizing s with
  | nil => exact h.resolve_right fun ⟨a, ha, _⟩ => nomatch ha
  | cons a l ih =>
    have hmem := List.mem_cons_self (a := a) (l := l)
    refine ih (fun b hb => hQ b (List.mem_cons_of_mem _ hb)) (fun b hb => hset b (List.mem_cons_of_mem _ hb))
      (fun b hb => hkeep b (List.mem_cons_of_mem _ hb)) (hQ a hmem s hs) ?_
    by_cases hk : k a
    · exact .inl (hset a hmem hk s hs)
    · obtain hR | ⟨b, hb, hkb⟩ := h
      · exact .inl (hkeep a hmem hk s hs hR)
      · obtain rfl | hb := List.mem_cons.mp hb
        · exact absurd hkb hk
        · exact .inr ⟨b, hb, hkb⟩

/-- What stays as it is while the row's caps are given: all but the nodes' caps, the tray's own cap, the frames of the ports. -/
def RowKept (u s : State) : Prop := s.offRow = u.offRow ∧ (∀ p, (s.port p).st = (u.port p).st) ∧
  ∀ n, { s.rnode n with cap := 0 } = { u.rnode n with cap := 0 }

section
variable {u s : State}

theorem RowKept.refl (u : State) : RowKept u u := ⟨rfl, fun _ => rfl, fun _ => rfl⟩

theorem RowKept.node (h : RowKept u s) : s.node = u.node := (congrArg State.node h.1 :)

theorem RowKept.role (h : RowKept u s) : s.role = u.role := (congrArg State.role h.1 :)

theorem RowKept.rowPorts (h : RowKept u s) : s.rowPorts = u.rowPorts := by
  have hg : s.portGroup = u.portGroup := (congrArg State.portGroup h.1 :)
  rw [State.rowPorts, State.rowPorts, hg]
  exact List.filter_congr fun p _ => by rw [h.2.1 p]

theorem RowKept.rnode (h : RowKept u s) (n : Nat) : s.rnode n = { u.rnode n with cap := (s.rnode n).cap } :=
  congrArg (fun x : RNode => { x with cap := (s.rnode n).cap }) (h.2.2 n)

theorem RowKept.giveCap (hr : u.role ≠ 2) (h : RowKept u s) (n c : Nat) : RowKept u (giveCap n c s) := by
  have hr' : s.role ≠ 2 := h.role ▸ hr
  refine ⟨(offRow_giveCap n c s).trans h.1, fun p => ?_, fun m => ?_⟩
  · rw [port_giveCap hr', ← h.2.1 p]
    split
    · exact st_placeUrgent ..
    · rfl
  · rw [rnode_giveCap, ← h.2.2 m]
    split
    · next hm => rw [hm]
    · rfl

end

section
variable {u : State} {cap : Nat × RNode → Nat} {l : List (Nat × RNode)}

/-- The row's caps given. -/
def giveCaps (cap : Nat × RNode → Nat) (l : List (Nat × RNode)) (s : State) : State := each l (fun p s => giveCap p.1 (cap p) s) s

theorem rowKept_giveCaps (hr : u.role ≠ 2) : RowKept u (giveCaps cap l u) :=
  each_invariant (RowKept u) (fun p _ h => h.giveCap hr p.1 (cap p)) l u (.refl u)

/-- The own node's cap is the tray's. -/
theorem rowCap_giveCaps (hr : u.role ≠ 2) (h : ∃ p ∈ l, p.1 = u.node) :
    (giveCaps cap l u).dmp.rowCap = some ((giveCaps cap l u).rnode u.node).cap := by
  refine each_brings (fun p => p.1 = u.node) (RowKept u) (fun s => s.dmp.rowCap = some (s.rnode u.node).cap)
    (fun p _ s hs => hs.giveCap hr ..) (fun p _ hp s hs => ?_) (fun p _ hp s hs hR => ?_) (.refl u) (.inr h)
  · rw [rnode_giveCap, if_pos hp.symm, giveCap_own (hp.trans hs.node.symm)]
  · rw [rnode_giveCap, if_neg (Ne.symm hp), giveCap_other (fun e => hp (e.trans hs.node)), ← hR]
    exact (congrArg (fun t : State => t.dmp.rowCap) (offSend_sendRow ..) :)

/-- Every other node's cap goes out on every row port. -/
theorem capFrame_giveCaps (hr : u.role ≠ 2) {n p : Nat} (hn : n ≠ u.node) (hp : p ∈ u.rowPorts) (h : ∃ q ∈ l, q.1 = n) :
    ∃ x ∈ ((giveCaps cap l u).port p).frames, x.kind = 11 ∧ x.dst = some n ∧
      x.payload = BitVec.ofNat 256 ((giveCaps cap l u).rnode n).cap := by
  refine each_brings (fun q => q.1 = n) (RowKept u)
    (fun s => ∃ x ∈ (s.port p).frames, x.kind = 11 ∧ x.dst = some n ∧ x.payload = BitVec.ofNat 256 (s.rnode n).cap)
    (fun q _ s hs => hs.giveCap hr ..) (fun q _ hq s hs => ?_) (fun q _ hq s hs hR => ?_) (.refl u) (.inr h)
  · have hr' : s.role ≠ 2 := hs.role ▸ hr
    have hother : q.1 ≠ s.node := fun e => hn (hq.symm.trans (e.trans hs.node))
    rw [rnode_giveCap, if_pos hq.symm, port_giveCap hr', if_pos ⟨hother, hs.rowPorts ▸ hp⟩]
    exact ⟨_, mem_placeUrgent_self .., rfl, congrArg some hq, rfl⟩
  · have hr' : s.role ≠ 2 := hs.role ▸ hr
    obtain ⟨x, hx, hfields⟩ := hR
    rw [rnode_giveCap, if_neg (Ne.symm hq), port_giveCap hr']
    refine ⟨x, ?_, hfields⟩
    split
    · exact mem_placeUrgent hx
    · exact hx

/-- In a table in order each node's cap is the one computed from its row, and the rows are as they were but for the caps. -/
theorem nodes_giveCaps (hr : u.role ≠ 2) (hw : twf {} u.sca.nodes = true) (hl : ∀ p ∈ l, p ∈ rowNodes u) :
    capless (giveCaps cap l u).sca.nodes = capless u.sca.nodes ∧
      ∀ n, (∃ p ∈ l, p.1 = n) → ((giveCaps cap l u).rnode n).cap = cap (n, u.rnode n) := by
  have hrow : ∀ p ∈ l, u.rnode p.1 = p.2 ∧ p.2.valid = true := fun p hp => by
    obtain ⟨hmem, hv⟩ := List.mem_filter.mp (hl p hp)
    exact ⟨tget_of_mem_rows (pairwise_of_twfFrom hw).1 hmem, hv⟩
  constructor
  · refine (each_brings (fun _ => False) (fun s => RowKept u s ∧ twf {} s.sca.nodes = true)
      (fun s => capless s.sca.nodes = capless u.sca.nodes) (fun p _ s hs => ⟨hs.1.giveCap hr .., ?_⟩) (fun _ _ h => h.elim)
      (fun p hp _ s hs hR => ?_) ⟨.refl u, hw⟩ (.inl rfl))
    · rw [nodes_giveCap]
      exact twf_tmod _ _ _ _ hs.2
    · obtain ⟨hk, hws⟩ := hs
      obtain ⟨hpu, hv⟩ := hrow p hp
      have hvs : (s.rnode p.1).valid = true := by rw [hk.rnode, hpu]; exact hv
      have hins : tmod {} s.sca.nodes p.1 (fun x => { x with cap := cap p }) =
          tins s.sca.nodes p.1 { tget {} s.sca.nodes p.1 with cap := cap p } := if_neg fun e => by
        have hv' : (s.rnode p.1).valid = false := (congrArg RNode.valid e :)
        exact Bool.false_ne_true (hv'.symm.trans hvs)
      rw [nodes_giveCap, hins, ← hR]
      exact capless_tins (pairwise_of_twfFrom hws).1 hvs _
  · intro n hn
    refine each_brings (fun p => p.1 = n) (fun _ => True) (fun s => (s.rnode n).cap = cap (n, u.rnode n))
      (fun _ _ _ _ => trivial) (fun p hp hk s _ => ?_) (fun p _ hk s _ hR => ?_) trivial (.inr hn)
    · subst hk
      rw [rnode_giveCap, if_pos rfl, (hrow p hp).1]
    · rw [rnode_giveCap, if_neg (Ne.symm hk)]
      exact hR

end

/-! ## T2.3 -/

/-- A node's ROWSTAT, of what its tray measures. -/
def ownStat (s : State) (n : RNode) : RNode := { n with
  demand := s.dmp.trayP, floor := rowFloor s, valid := true, inloss := s.inl.loss, ready := s.inl.ready, level := s.dmp.level
  domain := s.seq.domain.code }

/-- The master's own row taken. -/
def ownRow (s : State) : State := s.modRnode s.node (ownStat s)

/-- The cap of a row, of those of all (R342). -/
def capOf (s : State) (p : Nat × RNode) : Nat :=
  sat 0xFFFF (rowCap (s.cw 0x9060).toNat (rowNodes s).length (((rowNodes s).map fun p => p.2.demand).foldl (· + ·) 0)
    (((rowNodes s).map fun p => p.2.floor).foldl (· + ·) 0) p.2.demand p.2.floor)

/-- The caps given by a row's master. -/
def masterCaps (s : State) : State := giveCaps (capOf (ownRow s)) (rowNodes (ownRow s)) (ownRow s)

theorem eventsOnly_rowCaps (s : State) : EventsOnly (masterCaps s) (rowCaps s) := by
  unfold rowCaps
  extract_lets u b l sumD sumF v
  split
  · exact eventsOnly_raise ..
  · exact EventsOnly.refl _

/-- The cap of a row depends on the rows without their caps alone. -/
theorem capOf_congr {s t : State} (hc : t.cfg = s.cfg) (hn : capless t.sca.nodes = capless s.sca.nodes) : capOf t = capOf s := by
  have hlen : (rowNodes t).length = (rowNodes s).length := by simpa [capless, rowNodes] using congrArg List.length hn
  have hd : ((rowNodes t).map fun p => p.2.demand) = (rowNodes s).map fun p => p.2.demand := by
    simpa [capless, rowNodes, Function.comp_def] using congrArg (List.map fun p => p.2.demand) hn
  have hf : ((rowNodes t).map fun p => p.2.floor) = (rowNodes s).map fun p => p.2.floor := by
    simpa [capless, rowNodes, Function.comp_def] using congrArg (List.map fun p => p.2.floor) hn
  unfold capOf
  rw [cfg_cw hc, hlen, hd, hf]

/-- What T2.3 leaves as it is, by the tray's parts. -/
def State.rowRest (s : State) : Tbl Eng × Tbl Rail × Seq × Tbl Stg × Drt := (s.engs, s.rails, s.seq, s.stgs, s.drt)

section
variable {s t : State}

theorem rowRest_sendRow (kind : Nat) (dst : Option Nat) (v : Nat) (s : State) : (sendRow kind dst v s).rowRest = s.rowRest :=
  (congrArg State.rowRest (offSend_sendRow kind dst v s) :)

theorem EventsOnly.rowRest (h : EventsOnly s t) : t.rowRest = s.rowRest := by
  rw [State.rowRest, h.engs, h.rails, h.seq, h.stgs, h.drt]
  rfl

theorem rowRest_masterCaps (s : State) : (masterCaps s).rowRest = s.rowRest := by
  refine (each_keep State.rowRest (fun p s => ?_) _ (ownRow s)).trans rfl
  exact (congrArg State.rowRest (offRow_giveCap p.1 _ s) :)

theorem rowRest_rowTask (s : State) : (rowTask s).rowRest = s.rowRest := by
  have hcaps : (rowCaps s).rowRest = s.rowRest := (eventsOnly_rowCaps s).rowRest.trans (rowRest_masterCaps s)
  unfold rowTask
  extract_lets u
  have hu : u.rowRest = s.rowRest := kept_branch State.rowRest hcaps rfl
  exact kept_branch State.rowRest ((rowRest_sendRow ..).trans hu) hu

theorem kept_masterCaps (hr : s.role ≠ 2) : RowKept (ownRow s) (masterCaps s) := rowKept_giveCaps hr

theorem rowTask_master (hr : s.role ≠ 2) (hm : s.sca.isMaster = true) (ht : s.tickStart = true) : rowTask s = rowCaps s := by
  have hm' : (rowCaps s).sca.isMaster = true := by
    rw [(eventsOnly_rowCaps s).sca]
    exact (congrArg (fun t => t.sca.isMaster) (kept_masterCaps hr).1 :).trans hm
  simp [rowTask, hm, ht, hm']

/-- At the end of its tick's ninth frame a node that is no master sends its ROWSTAT. -/
theorem rowTask_member (hm : s.sca.isMaster = false) (h : s.sca.member = true ∨ s.role = 2) (ht : s.tickPhase = 8) :
    rowTask s = sendRow 13 (some s.sca.master) (rowstatBits s) s := by
  rcases h with h | h <;> simp [rowTask, hm, h, ht]

theorem rowTask_nothing (h : s.sca.isMaster = false ∨ s.tickStart = false)
    (g : s.sca.isMaster = true ∨ s.tickPhase ≠ 8 ∨ (s.sca.member = false ∧ s.role ≠ 2) ∨
      (s.role = 2 ∧ s.sca.ringOk = false)) :
    rowTask s = s := by
  have hcaps : (s.sca.isMaster && s.tickStart) = false := by rcases h with h | h <;> simp [h]
  rw [rowTask, hcaps, if_neg Bool.false_ne_true]
  rcases g with g | g | ⟨g, g'⟩ | ⟨g, g'⟩
  · simp [g]
  · simp [g]
  · simp [g, g']
  · rw [sendRow_alone g g', ite_self]

theorem rnode_ownRow (s : State) (n : Nat) : (ownRow s).rnode n = if n = s.node then ownStat s (s.rnode n) else s.rnode n := by
  rw [ownRow, State.modRnode_rnode]
  split
  · next h => rw [h]
  · rfl

/-- A node with a ROWSTAT is among the rows that get a cap. -/
theorem mem_rowNodes {n : Nat} (h : (s.rnode n).valid = true) : ∃ p ∈ rowNodes s, p.1 = n := by
  have hmem : (n, s.rnode n) ∈ s.sca.nodes :=
    mem_of_tget_ne fun e => by rw [State.rnode, e] at h; exact Bool.false_ne_true h
  exact ⟨(n, s.rnode n), List.mem_filter.mpr ⟨hmem, h⟩, rfl⟩

theorem valid_own (s : State) : ((ownRow s).rnode s.node).valid = true := by
  rw [rnode_ownRow, if_pos rfl]
  rfl

theorem cap_masterCaps (hr : s.role ≠ 2) (hw : twf {} s.sca.nodes = true) {n : Nat} (hv : ((masterCaps s).rnode n).valid = true) :
    ((masterCaps s).rnode n).cap = capOf (masterCaps s) (n, (masterCaps s).rnode n) := by
  have hk := kept_masterCaps hr
  have hv' : ((ownRow s).rnode n).valid = true := by rw [hk.rnode] at hv; exact hv
  have hcfg : (masterCaps s).cfg = (ownRow s).cfg := (congrArg State.cfg hk.1 :)
  have hw' : twf {} (ownRow s).sca.nodes = true := twf_tmod _ _ s.node (ownStat s) hw
  obtain ⟨hrows, hcap⟩ := nodes_giveCaps (u := ownRow s) (cap := capOf (ownRow s)) hr hw' (fun _ hp => hp)
  have hsame : capOf (masterCaps s) (n, (masterCaps s).rnode n) = capOf (ownRow s) (n, (masterCaps s).rnode n) :=
    congrFun (capOf_congr hcfg hrows) _
  rw [hsame, hk.rnode]
  exact hcap n (mem_rowNodes hv')

end

end Sys2Proof.Machine

section
open Sys2Proof Sys2Proof.Machine

/-- Settles O25: a master gives every node its cap, one after another (`nodes_giveCaps`, `rowCap_giveCaps`, `capFrame_giveCaps`); any
other node sends its ROWSTAT (`rowTask_member`) or nothing (`rowTask_nothing`). -/
theorem rowExchange : Obligations.RowExchange := by
  have hran {cyc s} (h : TaskReady 2 2 cyc s) : TaskRan 2 2 cyc s (taskRun 2 2 0 cyc rowTask s) :=
    have hengs : (rowTask s).engs = s.engs := congrArg Prod.fst (rowRest_rowTask s)
    taskRan_taskRun h (congrArg (fun l : Tbl Eng => (tget ({} : Eng) l 2).used) hengs)
  refine ⟨fun cyc s h => ⟨_, rfl, ?_⟩, fun cyc s h hm ht hr => ⟨_, rfl, ?_⟩, fun cyc s h hm hmem hr ht => ⟨_, rfl, ?_⟩,
    fun cyc s h hm hr hok ht => ⟨_, rfl, ?_⟩, fun cyc s h hno hno' => ⟨_, rfl, ?_⟩⟩ <;>
    have ho := eventsOnly_taskRun (n := 0) (f := rowTask) h
  · have hrest := rowRest_rowTask s
    simp only [State.rowRest, Prod.mk.injEq] at hrest
    obtain ⟨-, hrails, hseq, hstgs, hdrt⟩ := hrest
    exact ⟨hran h, ho.rails.trans hrails, ho.seq.trans hseq, ho.stgs.trans hstgs, ho.drt.trans hdrt⟩
  · generalize taskRun 2 2 0 cyc rowTask s = t at ho ⊢
    rw [rowTask_master hr hm ht] at ho
    have he := eventsOnly_rowCaps s
    have hk := kept_masterCaps hr
    have hsca : t.sca = (masterCaps s).sca := ho.sca.trans he.sca
    have hdmp : t.dmp = (masterCaps s).dmp := ho.dmp.trans he.dmp
    have hcfg : t.cfg = s.cfg := ho.cfg.trans (he.cfg.trans (congrArg State.cfg hk.1 :))
    have hnode (n) : t.rnode n = (masterCaps s).rnode n := congrArg (fun x : Sca => tget ({} : RNode) x.nodes n) hsca
    have hport (p) : t.port p = (masterCaps s).port p := congrArg (fun x : Sca => tget ({} : Port) x.ports p) hsca
    have hrow (n) : t.rnode n = { (ownRow s).rnode n with cap := (t.rnode n).cap } := hnode n ▸ hk.rnode n
    have hown := hrow s.node
    rw [rnode_ownRow, if_pos rfl] at hown
    refine ⟨congrArg RNode.demand hown, congrArg RNode.floor hown, congrArg RNode.valid hown, ?_, fun n hn => ?_, fun hw n hv => ?_,
      fun n p hn hv hp => ?_⟩
    · rw [hdmp, hnode]
      exact rowCap_giveCaps (u := ownRow s) hr (mem_rowNodes (valid_own s))
    · have hrow' := hrow n
      rw [rnode_ownRow, if_neg hn] at hrow'
      exact hrow'
    · have hsame : t.cfg = (masterCaps s).cfg := ho.cfg.trans he.cfg
      have hc : capOf (masterCaps s) = capOf t := (capOf_congr hsame (congrArg (fun x : Sca => capless x.nodes) hsca)).symm
      rw [hnode] at hv
      have hcap := cap_masterCaps hr hw hv
      rw [hc, ← hnode, capOf, cfg_cw hcfg] at hcap
      exact hcap
    · rw [hport, hnode]
      have hv' : ((ownRow s).rnode n).valid = true := by rw [rnode_ownRow, if_neg hn]; exact hv
      exact capFrame_giveCaps (u := ownRow s) hr hn hp (mem_rowNodes hv')
  · generalize taskRun 2 2 0 cyc rowTask s = t at ho ⊢
    rw [rowTask_member hm (.inl hmem) ht] at ho
    have hoff := offSend_sendRow 13 (some s.sca.master) (rowstatBits s) s
    have hport (p) : t.port p = (sendRow 13 (some s.sca.master) (rowstatBits s) s).port p :=
      congrArg (fun x : Sca => tget ({} : Port) x.ports p) ho.sca
    refine ⟨ho.dmp.trans (congrArg State.dmp hoff :), (congrArg Sca.nodes ho.sca).trans (congrArg (fun t => t.sca.nodes) hoff :),
      fun p hp => ⟨(linkFrameOf 13 (some s.sca.master) (rowstatBits s) s).1, ?_, rfl, rfl, rfl⟩⟩
    rw [hport, sendRow_own hr, port_sendOn_waits (nodup_rowPorts s) rfl, if_pos hp]
    rfl
  · generalize taskRun 2 2 0 cyc rowTask s = t at ho ⊢
    rw [rowTask_member hm (.inr hr) ht] at ho
    have hoff := offSend_sendRow 13 (some s.sca.master) (rowstatBits s) s
    have hport (p) : t.port p = (sendRow 13 (some s.sca.master) (rowstatBits s) s).port p :=
      congrArg (fun x : Sca => tget ({} : Port) x.ports p) ho.sca
    rw [sendRow_member hr hok] at hport
    refine ⟨ho.dmp.trans (congrArg State.dmp hoff :), (congrArg Sca.nodes ho.sca).trans (congrArg (fun t => t.sca.nodes) hoff :),
      fun p hp => ?_, (linkFrameOf 6 none (rowstatBits s) s).1, ?_, rfl, rfl, rfl⟩
    · rw [hport]
      exact (State.modPort_port ..).trans (if_neg hp)
    · rw [hport]
      exact congrArg Port.txq ((State.modPort_port ..).trans (if_pos rfl))
  · rw [rowTask_nothing hno hno'] at ho
    refine ⟨hran h, ?_⟩
    rw [ho.engs]
    exact ho

end

/-! # The power of PD0 and the resets (R40, R356, R445 to R449, R456) -/

namespace Sys2Proof.Machine

/-! ## What an interrupted program or erase leaves alone (R356) -/

/-- The state without the codewords of the flash, the erases in progress and the count of free values. -/
def State.offWords (s : State) : State :=
  { s with nv := { s.nv with flash := [], badAt := [], again := none, erases := [] }, free := 0 }

theorem offWords_tornWord (a : Nat) (w : Codeword) (s : State) : (tornWord a w s).offWords = s.offWords := rfl

theorem offWords_eraseAbort (s : State) : (eraseAbort s).offWords = s.offWords := by
  unfold eraseAbort
  split
  · rfl
  · unfold tornErase
    exact (each_keep State.offWords (fun k s => offWords_tornWord _ _ s) _ _).trans rfl

theorem offWords_programAbort (s : State) : (programAbort s).offWords = s.offWords := by
  unfold programAbort
  split
  · rfl
  · split
    · exact kept_ite State.offWords rfl
    · rfl

theorem eraseAbort_none {s : State} (h : s.nv.erases = []) : eraseAbort s = s := by rw [eraseAbort, h]

theorem programAbort_none {s : State} (h : jobRunning s = none) : programAbort s = s := by rw [programAbort, h]

/-- The part as PD0's power goes away from it, its programs and erases interrupted. -/
def interrupted (s : State) : State := eraseAbort (programAbort s)

theorem offWords_interrupted (s : State) : (interrupted s).offWords = s.offWords :=
  (offWords_eraseAbort _).trans (offWords_programAbort s)

theorem interrupted_none {s : State} (he : s.nv.erases = []) (hj : jobRunning s = none) : interrupted s = s := by
  rw [interrupted, programAbort_none hj, eraseAbort_none he]

/-- What stays of a state through a loss of PD0's power. -/
def StaysDark (s t : State) : Prop :=
  t.jrn.mirror = s.jrn.mirror ∧ t.nv.images = s.nv.images ∧ t.nv.stored = s.nv.stored ∧ t.nv.counters = s.nv.counters ∧
    t.fw.stored = s.fw.stored ∧ t.recd.sects = s.recd.sects ∧ t.pending = s.pending ∧
    (s.nv.erases = [] → jobRunning s = none → t.nv.flash = s.nv.flash)

theorem staysDark_pd0Lost (s : State) : StaysDark s (pd0Lost s) := by
  have h := offWords_interrupted s
  exact ⟨(congrArg (fun t => t.jrn.mirror) h :), (congrArg (fun t => t.nv.images) h :), (congrArg (fun t => t.nv.stored) h :),
    (congrArg (fun t => t.nv.counters) h :), (congrArg (fun t => t.fw.stored) h :), (congrArg (fun t => t.recd.sects) h :),
    (congrArg (fun t => t.pending) h :), fun he hj => (congrArg (fun t => t.nv.flash) (interrupted_none he hj) :)⟩

/-! ## What a reset keeps (R445, R446) -/

/-- A rail behind a reset: its lifetime counters alone. -/
def countsOnly (r : Rail) : Rail := { cnt := r.cnt, delta := r.delta, deltaSince := r.deltaSince }

theorem tget_eq_default {α : Type} {d : α} {t : Tbl α} {k : Nat} (h : ∀ p ∈ t, p.1 ≠ k) : tget d t k = d :=
  by_contra fun hne => h _ (mem_of_tget_ne hne) rfl

theorem keepCounts_cons (p : Nat × Rail) (t : Tbl Rail) :
    keepCounts (p :: t) = if countsOnly p.2 ≠ {} then (p.1, countsOnly p.2) :: keepCounts t else keepCounts t := by
  unfold keepCounts
  rw [List.map_cons, List.filter_cons]
  exact if_congr decide_eq_true_iff rfl rfl

theorem key_mem_of_keepCounts {t : Tbl Rail} {p : Nat × Rail} (h : p ∈ keepCounts t) : ∃ q ∈ t, q.1 = p.1 := by
  obtain ⟨q, hq, rfl⟩ := List.mem_map.mp (List.mem_filter.mp h).1
  exact ⟨q, hq, rfl⟩

/-- The lifetime counters of every rail of a table in order are kept. -/
theorem cnt_keepCounts {t : Tbl Rail} (h : t.Pairwise (fun p q => p.1 < q.1)) (i : Nat) :
    (tget {} (keepCounts t) i).cnt = (tget {} t i).cnt := by
  induction t with
  | nil => rfl
  | cons p t ih =>
    obtain ⟨hlt, ht⟩ := List.pairwise_cons.mp h
    rw [keepCounts_cons]
    by_cases hp : p.1 = i
    · have hfirst : tget {} (p :: t) i = p.2 := if_pos hp
      rw [hfirst]
      split
      · have hfirst' : tget {} ((p.1, countsOnly p.2) :: keepCounts t) i = countsOnly p.2 := if_pos hp
        rw [hfirst']
        rfl
      · next hc =>
        have hrest : tget {} (keepCounts t) i = {} := tget_eq_default fun q hq e => by
          obtain ⟨q', hq', hk⟩ := key_mem_of_keepCounts hq
          exact (hlt q' hq').ne (hp.trans (hk.trans e).symm)
        rw [hrest]
        exact (congrArg Rail.cnt (not_not.mp hc) :).symm
    · have hnext : tget {} (p :: t) i = tget {} t i := if_neg hp
      rw [hnext, ← ih ht]
      split
      · exact congrArg Rail.cnt (if_neg hp)
      · rfl

theorem en_resetCore (s : State) (i : Nat) : ((resetCore false s).rail i).en = false := by
  refine tget_of_forall (fun r : Rail => r.en = false) rfl (fun p hp => ?_) i
  obtain ⟨q, -, rfl⟩ := List.mem_map.mp (List.mem_filter.mp hp).1
  rfl

theorem resetCore_bar0 (s : State) : (resetCore false s).bar0 = State.reset.bar0 := by
  simp [resetCore, State.reset]

/-- What of a state `ResetOf` speaks of. -/
def State.ofReset (s : State) : PPhase × Nat × Frame × Tbl W32 × Tbl W32 × Tbl Rail :=
  (s.pwr.phase, s.pwr.nextCause, s.clk.frame, s.bar0, s.cfg, s.rails)

theorem ResetOf.congr {c : Nat} {s t u : State} (h : ResetOf c s t) (hu : u.ofReset = t.ofReset) : ResetOf c s u := by
  simp only [State.ofReset, Prod.mk.injEq] at hu
  obtain ⟨hp, hc, hf, hb, hg, hr⟩ := hu
  unfold ResetOf State.rail
  rw [hp, hc, hf, hb, hg, hr]
  exact h

section
variable {c : Nat} {s : State}

/-- A full-chip reset of a part that is not in one (R445, R446). -/
theorem resetOf_chipReset (hc : c ≠ 5) (h : s.pwr.phase ≠ .reset) : ResetOf c s (chipReset c s) := by
  have hoff := offFlash_eraseAbort s
  have hheld : decide (c = 5) = false := decide_eq_false hc
  unfold chipReset
  rw [if_neg h, hheld]
  refine ⟨rfl, rfl, (congrArg (fun t => t.clk.frame) hoff :), resetCore_bar0 _, resetCore_cfg _,
    fun i => ⟨resetCore_unused _ i, en_resetCore _ i, fun hw => ?_⟩⟩
  have hrails : (eraseAbort s).rails = s.rails := (congrArg State.rails hoff :)
  have hcnt := cnt_keepCounts (pairwise_of_twfFrom hw).1 i
  rw [← hrails] at hcnt
  exact hcnt.trans (congrArg (fun t : Tbl Rail => (tget {} t i).cnt) hrails)

theorem porst_chipReset (c : Nat) (s : State) : (chipReset c s).pwr.porst = s.pwr.porst :=
  (congrArg (fun t => t.pwr.porst) (offFlash_eraseAbort s) :)

theorem bootFail_chipReset (c : Nat) (s : State) : (chipReset c s).pwr.bootFail = s.pwr.bootFail :=
  (congrArg (fun t => t.pwr.bootFail) (offFlash_eraseAbort s) :)

theorem wdtExp_chipReset (c : Nat) (s : State) : (chipReset c s).flt.wdtExp = s.flt.wdtExp :=
  (congrArg (fun t => t.flt.wdtExp) (offFlash_eraseAbort s) :)

end

/-! ## A record written by the ROM (R361, R435) -/

/-- The state without the store and what the event of a worn sector leaves behind. -/
def State.offStore (s : State) : State :=
  { s with nv := {}, free := 0, evt := {}, hst := { s.hst with dvec := [] }, recd := { s.recd with queue := [], ash := 0 } }

theorem offStore_of_eventsOnly {s t : State} (h : EventsOnly s t) : t.offStore = s.offStore :=
  (congrArg State.offStore h :)

theorem offStore_of_offFlash {s t : State} (h : t.offFlash = s.offFlash) : t.offStore = s.offStore :=
  (congrArg State.offStore h :)

theorem offStore_flashPut (a : Nat) (w : Codeword) (s : State) : (flashPut a w s).offStore = s.offStore := rfl

theorem offStore_flashErase (n : Nat) (s : State) : (flashErase n s).offStore = s.offStore := by
  unfold flashErase
  dsimp only
  split
  · exact each_keep State.offStore (fun k s => offStore_flashPut (256 * n + k) erasedWord s) _ _
  · rfl

theorem offStore_wearUp (n : Nat) (s : State) : (wearUp n s).offStore = s.offStore := by
  unfold wearUp
  dsimp only
  split
  · refine (offStore_of_eventsOnly (eventsOnly_raise ..)).trans ?_
    rfl
  · rfl

theorem offStore_storeCopy (u : JobUse) (q : Nat) (b : Bool) (s : State) : (storeCopy u q b s).offStore = s.offStore := by
  unfold storeCopy
  extract_lets k h at_ back full sec n erased cs at' c n' filed
  have hprog (c : Copy) (w : W256 × Nat) (s : State) : (flashProgram (c.at_ + w.2) w.1 s).offStore = s.offStore :=
    offStore_of_offFlash (offFlash_flashProgram _ _ s)
  have herased : erased.offStore = s.offStore :=
    kept_ite State.offStore ((offStore_wearUp ..).trans (offStore_flashErase ..))
  have hfiled : filed.offStore = s.offStore := herased
  exact (each_keep State.offStore (fun c s => each_keep State.offStore (hprog c) _ s) _ filed).trans hfiled

theorem offStore_fwStore (r : FwRec) (s : State) :
    (fwStore r s).offStore = { s with fw := { s.fw with state := r, stored := some r } }.offStore := by
  unfold fwStore storeNow
  exact (offStore_storeCopy ..).trans (offStore_storeCopy ..)

theorem fw_fwStore (r : FwRec) (s : State) : (fwStore r s).fw = { s.fw with state := r, stored := some r } :=
  (congrArg State.fw (offStore_fwStore r s) :)

theorem pwr_fwStore (r : FwRec) (s : State) : (fwStore r s).pwr = s.pwr := (congrArg State.pwr (offStore_fwStore r s) :)

theorem ofReset_offStore (s : State) : s.offStore.ofReset = s.ofReset := rfl

theorem ofReset_fwStore (r : FwRec) (s : State) : (fwStore r s).ofReset = s.ofReset := by
  rw [← ofReset_offStore, offStore_fwStore]
  rfl

end Sys2Proof.Machine

section
open Sys2Proof Sys2Proof.Machine

/-- Settles O10: an interrupted flash changes its codewords alone (`staysDark_pd0Lost`), and every reset is the full-chip reset with
its cause (`resetOf_chipReset`). -/
theorem powerAndResets : Obligations.PowerAndResets := by
  refine ⟨fun s => ⟨_, rfl, ?_⟩, fun s => ⟨_, rfl, ?_⟩, fun s h => ⟨_, rfl, ?_⟩, fun s h => ⟨_, rfl, ?_⟩,
    fun s h hw => ⟨_, rfl, ?_⟩, fun s h hr => ⟨_, rfl, ?_⟩, fun s h hf => ⟨_, rfl, ?_⟩, fun s h hf => ⟨_, rfl, ?_⟩, fun s h => ⟨_, rfl, ?_⟩⟩
  · exact ⟨rfl, rfl, rfl, rfl, rfl, rfl, rfl, rfl, rfl, staysDark_pd0Lost s⟩
  · exact ⟨rfl, rfl, rfl, rfl, rfl, rfl, rfl, staysDark_pd0Lost s⟩
  · have hp : s.pwr.phase ≠ .reset := by simp [h]
    have hseen : porstSeen s = chipReset 3 { s with pwr := { s.pwr with porst := true, ready := 0 } } := by simp [porstSeen, h]
    rw [hseen]
    exact ⟨resetOf_chipReset (s := { s with pwr := { s.pwr with porst := true, ready := 0 } }) (by decide) hp,
      porst_chipReset ..⟩
  · simp [porstSeen, h]
  · have hp : s.pwr.phase ≠ .reset := by simp [h]
    have hrun : watchdogReset s = { chipReset 4 s with
        flt := { (chipReset 4 s).flt with restarts := s.flt.restarts, restartExh := s.flt.restartExh } } := by
      simp [watchdogReset, hw]
    rw [hrun]
    exact ⟨(resetOf_chipReset (c := 4) (by decide) hp).congr rfl, rfl, wdtExp_chipReset 4 s⟩
  · have hp : s.pwr.phase ≠ .reset := by simp [h]
    have hrec : recoveryReset s = { chipReset 7 s with pwr := { (chipReset 7 s).pwr with ignoreRecov := true } } := by
      simp [recoveryReset, Option.isNone_eq_false_iff.mpr hr]
    rw [hrec]
    exact ⟨(resetOf_chipReset (c := 7) (by decide) hp).congr rfl, rfl⟩
  · have hp : s.pwr.phase ≠ .reset := by rcases h with h | h | h <;> simp [h]
    have hb : booting s = true := by rcases h with h | h | h <;> simp [booting, h]
    have hfail : bootFailure s = chipReset 6 { s with pwr := { s.pwr with bootFail := sat 3 (s.pwr.bootFail + 1) } } := by
      simp [bootFailure, hb, hf]
    rw [hfail]
    exact ⟨resetOf_chipReset (s := { s with pwr := { s.pwr with bootFail := sat 3 (s.pwr.bootFail + 1) } }) (by decide) hp,
      bootFail_chipReset ..⟩
  · have hp : s.pwr.phase ≠ .reset := by rcases h with h | h | h <;> simp [h]
    have hb : booting s = true := by rcases h with h | h | h <;> simp [booting, h]
    have hfail : bootFailure s = fwStore (revertRec s.fw.state) (chipReset 6 s) := by simp [bootFailure, hb, hf]
    rw [hfail]
    refine ⟨(resetOf_chipReset (c := 6) (by decide) hp).congr (ofReset_fwStore ..), ?_, ?_, ?_⟩
    · rw [pwr_fwStore, bootFail_chipReset]
    · rw [fw_fwStore]
      rfl
    · rw [fw_fwStore]
  · have hexit : emberExit s = { resetCore false s with
        pwr := { (resetCore false s).pwr with phase := .reset, nextCause := 2, ready := 64, writing := none } } := by
      simp [emberExit, h]
    rw [hexit]
    exact ⟨rfl, rfl, rfl, rfl, resetCore_cfg s, fun i => resetCore_unused s i⟩

end

/-! # What an activation leaves as it is (R51, R54, R382) -/

namespace Sys2Proof.Machine

/-- The part of a state an activation leaves as its image and the commands' ends make it: the register words, the tables, the
calibration, the journal's entries, the generations. -/
def State.still (s : State) : State :=
  { State.reset with
    bar0 := s.bar0, cfg := s.cfg, jrn := { s.jrn with finals := [] }, nv := { s.nv with revertDue := false }, off := s.off
    seq := { s.seq with margins := [], progs := [] }, cnv := { s.cnv with cores := [], refs := [] } }

/-- `t` follows `s` with nothing but events and ends of commands between them, as far as `State.still` sees. -/
structure Onward (s t : State) : Prop where
  still : t.still = s.still
  pend : ∀ n, n < 256 → Pending n s → Pending n t
  ends : ∀ q, s.livesOf q = [] → t.livesOf q = []

/-- `State.still` with the events and the live commands. -/
def State.calm (s : State) : State := { s.still with evt := s.evt, hst := { live := s.hst.live } }

section
variable {s t u : State}

theorem Onward.refl (s : State) : Onward s s := ⟨rfl, fun _ _ h => h, fun _ h => h⟩

theorem Onward.trans (h : Onward s t) (g : Onward t u) : Onward s u :=
  ⟨g.still.trans h.still, fun n hn hp => g.pend n hn (h.pend n hn hp), fun q hq => g.ends q (h.ends q hq)⟩

theorem Onward.of_calm (h : t.calm = s.calm) : Onward s t := by
  have hstill : t.still = s.still := (congrArg State.still h :)
  have hevt : t.evt = s.evt := (congrArg State.evt h :)
  have hlive : t.hst.live = s.hst.live := (congrArg (fun u => u.hst.live) h :)
  refine ⟨hstill, fun n _ hp => ?_, fun q hq => (livesOf_congr hlive q).trans hq⟩
  rwa [Pending, hevt]

theorem Onward.each {α : Type} {f : α → State → State} (hf : ∀ a s, Onward s (f a s)) (l : List α) (s : State) :
    Onward s (each l f s) :=
  each_invariant (Onward s) (fun a _ h => h.trans (hf a _)) l s (.refl s)

theorem onward_raise (src : Nat) (ts : Ts) (d : BitVec 128) (s : State) : Onward s (raise src ts d s) := by
  have he := eventsOnly_raise src ts d s
  have hlive : (raise src ts d s).hst.live = s.hst.live := (congrArg (fun t => t.hst.live) he :)
  exact ⟨(congrArg State.still he :), fun n hn hp => pending_raise src ts d s n hn (.inr hp),
    fun q hq => (livesOf_congr hlive q).trans hq⟩

theorem onward_finishAt (d q st res : Nat) (s : State) : Onward s (finishAt d q st res s) := by
  have hparts : (finishAt d q st res s).still = s.still ∧ (finishAt d q st res s).evt = s.evt := by
    unfold finishAt
    dsimp only
    split <;> exact ⟨rfl, rfl⟩
  refine ⟨hparts.1, fun n _ hp => ?_, fun p hp => ?_⟩
  · rwa [Pending, hparts.2]
  · rw [livesOf_finishAt, hp, ite_self]

/-! ## Margins of the rails that leave (R75, R89) -/

theorem onward_marginTell (o : Owner) (code st : Nat) (s : State) : Onward s (marginTell o code st s) := by
  cases o with
  | none => exact .refl s
  | prog n => exact .of_calm rfl
  | cmd q => exact onward_finishAt 0 q st 0 s

theorem calm_marginNominal (i : Nat) (s : State) : (marginNominal i s).calm = s.calm := by
  have hpmb (s : State) : (pmbNominal i s).calm = s.calm := rfl
  unfold marginNominal
  extract_lets r u v
  have hu : u.calm = s.calm := by
    change State.calm (match r.marginDac with | some k => mdacTarget k 0 s | none => s) = _
    split <;> rfl
  have hv : v.calm = s.calm := kept_branch State.calm ((hpmb u).trans hu) hu
  exact hv

/-- The margins under way on a rail. -/
def movingOn (g : Nat) (m : MOp) : Bool := m.rail = g && m.phase ≠ .pending

/-- The state with the margins under way on a rail taken from the sequencer. -/
def dropMargins (g : Nat) (s : State) : State :=
  { s with seq := { s.seq with margins := s.seq.margins.filter fun m => !movingOn g m } }

theorem marginLeave_eq (i : Nat) (s : State) : marginLeave i s =
    marginNominal i (each (s.seq.margins.filter (movingOn (s.grail i))) (fun m s => marginTell m.owner 2 stRefused s)
      (dropMargins (s.grail i) s)) := rfl

theorem onward_marginLeave (i : Nat) (s : State) : Onward s (marginLeave i s) := by
  rw [marginLeave_eq]
  have hdrop : Onward s (dropMargins (s.grail i) s) := .of_calm rfl
  have htold := Onward.each (fun (m : MOp) s => onward_marginTell m.owner 2 stRefused s)
    (s.seq.margins.filter (movingOn (s.grail i))) (dropMargins (s.grail i) s)
  exact (hdrop.trans htold).trans (.of_calm (calm_marginNominal ..))

theorem onward_railsLeave (im : Image) (s : State) : Onward s (railsLeave im s) :=
  .each onward_marginLeave _ s

/-! ## The domains (R33 to R35) -/

theorem calm_modCore (c : Nat) (f : ACore → ACore) (s : State) : (s.modCore c f).calm = s.calm := rfl

theorem calm_modRefm (p : Nat) (f : RefMon → RefMon) (s : State) : (s.modRefm p f).calm = s.calm := rfl

theorem calm_invalidCore (c : Nat) (s : State) : (invalidCore c s).calm = s.calm :=
  each_keep State.calm (by intros; exact calm_modCore ..) _ s

theorem calm_coreDown (c : Nat) (s : State) : (coreDown c s).calm = s.calm := (calm_modCore ..).trans (calm_invalidCore c s)

theorem calm_domainOff (pd : Nat) (s : State) : (domainOff pd s).calm = s.calm := by
  unfold domainOff
  dsimp only
  split
  · exact each_keep State.calm (by intros; rfl) _ _
  split
  · exact (calm_coreDown 0 _).trans ((calm_coreDown 1 _).trans (each_keep State.calm (by intros; rfl) _ _))
  split
  · exact (calm_coreDown 2 _).trans (calm_coreDown 3 _)
  split
  · rfl
  split
  · rfl
  split <;> rfl

theorem calm_domainOn (pd : Nat) (s : State) : (domainOn pd s).calm = s.calm := by
  have harm (e : Nat) (s : State) : (armEngine e s).calm = s.calm := kept_branch State.calm rfl rfl
  unfold domainOn
  dsimp only
  split
  · exact each_keep State.calm (by intros; rfl) _ _
  split
  · exact each_keep State.calm harm _ _
  split
  · rfl
  split
  · rfl
  split <;> rfl

theorem calm_gate (want : Nat) (first : Bool) (s : State) : (gate want first s).calm = s.calm := by
  refine each_keep State.calm (fun pd s => ?_) _ s
  dsimp only
  split
  · exact kept_ite State.calm (calm_domainOff pd s)
  split
  · rfl
  split
  · exact calm_domainOn pd s
  · rfl

/-! ## Stages, rails, entries, references -/

theorem calm_clearPhases (st : Nat) (lim : Bool) (s : State) : (clearPhases st lim s).calm = s.calm :=
  each_keep State.calm (by intros; rfl) _ s

theorem calm_stagesIn (first : Bool) (s : State) : (stagesIn first s).calm = s.calm := by
  refine each_keep State.calm (fun st s => ?_) _ s
  dsimp only
  split
  · rfl
  split
  · exact calm_clearPhases ..
  split
  · exact calm_clearPhases ..
  · rfl

theorem calm_railsIn (first : Bool) (s : State) : (railsIn first s).calm = s.calm := by
  refine each_keep State.calm (fun i s => ?_) _ s
  dsimp only
  split
  · split <;> rfl
  · split <;> rfl

theorem calm_entriesIn (old s : State) : (entriesIn old s).calm = s.calm := by
  refine each_keep State.calm (fun c s => ?_) _ s
  refine (each_keep State.calm (fun e s => ?_) _ _).trans rfl
  exact kept_ite State.calm rfl

theorem onward_refFall (p : Nat) (s : State) : Onward s (refFall p s) := by
  have hfault : Onward (s.modRefm p fun x => { x with good := 0 }) (refFault p (s.modRefm p fun x => { x with good := 0 })) := by
    unfold refFault
    exact (Onward.of_calm (calm_modRefm ..)).trans (onward_raise ..)
  unfold refFall
  split
  · exact ((Onward.of_calm (calm_modRefm ..)).trans hfault).trans (.of_calm ((calm_invalidCore ..).trans (calm_invalidCore ..)))
  · exact .refl s

theorem onward_refsIn (s : State) : Onward s (refsIn s) := by
  refine .each (fun p s => ?_) _ s
  dsimp only
  split
  · exact (onward_refFall p s).trans (.of_calm rfl)
  · exact .refl s

theorem calm_voutModes (s : State) : (voutModes s).calm = s.calm :=
  (each_keep State.calm (by intros; rfl) _ _).trans (each_keep State.calm (by intros; rfl) _ _)

theorem calm_portsUpdate (s : State) : (portsUpdate s).calm = s.calm := by
  have hports : (each [0, 1, 2, 3] (fun p s => if s.portRole p = 0 then s.modPort p fun _ => {} else s) s).calm = s.calm :=
    each_keep State.calm (fun p s => by split <;> rfl) _ s
  exact hports

end

/-! ## The activation -/

/-- The settings and the tables of an image taken. -/
def takeImage (im : Image) (s : State) : State :=
  let u := wcTables (withImage im s)
  { u with
    coef := im.regs.filter fun p => within 0x8200 0x83FF p.1
    seq := { u.seq with onTable := im.onTable, mirror := im.onTable, dirty := [] }
    off := { u.off with table := im.offTable }
    drt := { u.drt with pmSum := 0, pmCnt := 0 }
    pwr := { u.pwr with hostLink := im.hostLink }
    cnv := { u.cnv with cal := u.cnv.cal.map fun c => { c with stale := true } } }

theorem Onward.takeImage {s t : State} (h : Onward s t) (im : Image) : Onward (takeImage im s) (takeImage im t) :=
  ⟨(congrArg (fun u => (Machine.takeImage im u).still) h.still :), h.pend, h.ends⟩

/-- Behind the end of the margins of the rails that leave, an activation is its image taken, but for events. -/
theorem onward_activate_left (im : Image) (first : Bool) (s : State) :
    Onward (takeImage im (railsLeave im s)) (activate im first s) := by
  have hengs (s : State) : (each (List.range 8) (fun e s => s.modEng e fun x =>
      { x with declared := min 1023 (worstPhase s e).1 }) s).calm = s.calm := each_keep State.calm (by intros; rfl) _ s
  have hgate := Onward.of_calm (calm_gate (domainMask (takeImage im (railsLeave im s)) im.hostLink) first
    (takeImage im (railsLeave im s)))
  unfold activate
  refine (((hgate.trans (.of_calm (calm_railsIn first _))).trans (.of_calm (calm_stagesIn first _))).trans
    (.of_calm (calm_entriesIn s _))).trans ((onward_refsIn _).trans ?_)
  exact .of_calm ((calm_portsUpdate _).trans ((calm_voutModes _).trans (hengs _)))

/-- An activation is its image taken, but for events and ends of commands. -/
theorem onward_activate (im : Image) (first : Bool) (s : State) : Onward (takeImage im s) (activate im first s) :=
  ((onward_railsLeave im s).takeImage im).trans (onward_activate_left im first s)

end Sys2Proof.Machine

/-! # The generations of themselves (R51, R120, R238, R382, R383) -/

namespace Sys2Proof.Machine

/-! ## What a record asked for leaves as it is (R358, R361, R382) -/

/-- The state without the queue of the flash: the jobs, their copies, the erases asked for, the write points, the slots. -/
def State.offJobs (s : State) : State :=
  { s with nv := { s.nv with rseq := 0, jobs := [], copies := [], erases := [], wp := [], slotOf := [] } }

section
variable (u : JobUse) (q r : Nat) (s : State)

theorem offJobs_eraseAsk (n : Nat) (e : EraseUse) : (eraseAsk n e s).offJobs = s.offJobs := by
  unfold eraseAsk
  split <;> rfl

theorem offJobs_nvBegin : (nvBegin s).offJobs = s.offJobs := by
  unfold nvBegin
  split
  · rfl
  split
  · rfl
  split
  · rfl
  · exact kept_branch State.offJobs (offJobs_eraseAsk ..) rfl

theorem offJobs_nvWrite : (nvWrite u q r s).offJobs = s.offJobs := offJobs_nvBegin _

theorem offJobs_writeImage (im : Image) : (writeImage im q s).offJobs = s.offJobs := offJobs_nvWrite ..

theorem offJobs_changeGen (g : GenState) :
    (changeGen g q r s).offJobs = { s with nv := { s.nv with gen := g } }.offJobs := offJobs_nvWrite ..

theorem gen_changeGen (g : GenState) : (changeGen g q r s).nv.gen = g :=
  (congrArg (fun t => t.nv.gen) (offJobs_changeGen q r s g) :)

theorem prob_changeGen (g : GenState) : (changeGen g q r s).nv.prob = s.nv.prob :=
  (congrArg (fun t => t.nv.prob) (offJobs_changeGen q r s g) :)

theorem at_changeGen (g : GenState) : (changeGen g q r s).nv.at_ = s.nv.at_ :=
  (congrArg (fun t => t.nv.at_) (offJobs_changeGen q r s g) :)

theorem revertDue_changeGen (g : GenState) : (changeGen g q r s).nv.revertDue = s.nv.revertDue :=
  (congrArg (fun t => t.nv.revertDue) (offJobs_changeGen q r s g) :)

/-- The state without the store. -/
def State.offNv (s : State) : State := { s with nv := {} }

theorem offNv_of_offJobs {s t : State} (h : t.offJobs = s.offJobs) : t.offNv = s.offNv := (congrArg State.offNv h :)

theorem offNv_changeGen (g : GenState) : (changeGen g q r s).offNv = s.offNv :=
  (offNv_of_offJobs (offJobs_changeGen q r s g)).trans rfl

theorem offNv_beginProb (p : Nat) : (beginProb p s).offNv = s.offNv := rfl

theorem at_beginProb (p : Nat) : (beginProb p s).nv.at_ = s.nv.at_ := rfl

theorem jrn_of_offNv {s t : State} (h : t.offNv = s.offNv) : t.jrn = s.jrn := (congrArg State.jrn h :)

theorem at_of_revertDue {m n : Nv} (h : { m with revertDue := false } = { n with revertDue := false }) : m.at_ = n.at_ :=
  (congrArg Nv.at_ h :)

end

/-! ## A generation comes into force -/

/-- The image's settings and tables are in force. -/
structure InForce (im : Image) (s t : State) : Prop where
  cfg : t.cfg = (withImage im s).cfg
  bar0 : t.bar0 = (withImage im s).bar0
  onTable : t.seq.onTable = im.onTable
  mirror : t.seq.mirror = im.onTable
  offTable : t.off.table = im.offTable

section
variable {im : Image} {s t u : State} {g : GenState} {p q r : Nat}

theorem InForce.of_still (h : InForce im s t) (hu : u.still = t.still) : InForce im s u :=
  ⟨(congrArg State.cfg hu :).trans h.cfg, (congrArg State.bar0 hu :).trans h.bar0,
    (congrArg (fun t => t.seq.onTable) hu :).trans h.onTable, (congrArg (fun t => t.seq.mirror) hu :).trans h.mirror,
    (congrArg (fun t => t.off.table) hu :).trans h.offTable⟩

theorem InForce.of_offNv (h : InForce im s t) (hu : u.offNv = t.offNv) : InForce im s u :=
  ⟨(congrArg State.cfg hu :).trans h.cfg, (congrArg State.bar0 hu :).trans h.bar0,
    (congrArg (fun t => t.seq.onTable) hu :).trans h.onTable, (congrArg (fun t => t.seq.mirror) hu :).trans h.mirror,
    (congrArg (fun t => t.off.table) hu :).trans h.offTable⟩

theorem inForce_activate (im : Image) (first : Bool) (s : State) : InForce im s (activate im first s) :=
  InForce.of_still (t := takeImage im s) ⟨rfl, rfl, rfl, rfl, rfl⟩ (onward_activate im first s).still

/-- An activation leaves the generations' state but for a revert that falls due. -/
theorem nv_activate (im : Image) (first : Bool) (s : State) :
    { (activate im first s).nv with revertDue := false } = { s.nv with revertDue := false } :=
  (congrArg State.nv (onward_activate im first s).still :)

theorem jrn_activate (im : Image) (first : Bool) (s : State) :
    { (activate im first s).jrn with finals := [] } = { s.jrn with finals := [] } :=
  (congrArg State.jrn (onward_activate im first s).still :)

/-- The state behind an image that has come into force as generation record `g`, with p seconds of probation. -/
def madeCurrent (im : Image) (g : GenState) (p q r : Nat) (s : State) : State :=
  changeGen g q r (beginProb p (activate im false s))

theorem offNv_madeCurrent : (madeCurrent im g p q r s).offNv = (activate im false s).offNv :=
  (offNv_changeGen ..).trans (offNv_beginProb ..)

theorem inForce_madeCurrent (im : Image) (g : GenState) (p q r : Nat) (s : State) : InForce im s (madeCurrent im g p q r s) :=
  (inForce_activate im false s).of_offNv offNv_madeCurrent

theorem gen_madeCurrent : (madeCurrent im g p q r s).nv.gen = g := gen_changeGen ..

theorem prob_madeCurrent : (madeCurrent im g p q r s).nv.prob = if p = 0 then none else some (15625 * p) :=
  prob_changeGen ..

theorem at_madeCurrent : (madeCurrent im g p q r s).nv.at_ = s.nv.at_ := by
  rw [madeCurrent, at_changeGen, at_beginProb]
  exact at_of_revertDue (nv_activate im false s)

theorem jrn_madeCurrent : { (madeCurrent im g p q r s).jrn with finals := [] } = { s.jrn with finals := [] } := by
  rw [jrn_of_offNv offNv_madeCurrent]
  exact jrn_activate im false s

theorem activateGen_eq {n : Nat} (h : s.image n = some im) (p q : Nat) : activateGen n p q s =
    madeCurrent im (genAfter s.nv.gen n (0 < p)) p q n s := by
  unfold activateGen
  rw [h]
  rfl

theorem revertGen_eq (h : s.image s.nv.gen.prev = some im) (q : Nat) : revertGen q s =
    madeCurrent im { s.nv.gen with cur := s.nv.gen.prev, prev := s.nv.gen.cur, prob := false } 0 q s.nv.gen.prev s := by
  unfold revertGen
  dsimp only
  rw [h]
  rfl

end

/-! ## What waited for its frame (R51, R382) -/

section
variable {im : Image} {s t : State} {n p q : Nat} {f : Frame} {rev : Bool}

/-- The tests of an activation do not see the store. -/
theorem refusal_nv (im : Image) (v : Nv) (s : State) : refusal im { s with nv := v } = refusal im s := rfl

/-- The state with no activation waiting. -/
def noneWaits (s : State) : State := { s with nv := { s.nv with at_ := none } }

theorem image_noneWaits (s : State) (n : Nat) : (noneWaits s).image n = s.image n := rfl

theorem activateAt_taken (hat : s.nv.at_ = some (f, n, p, q, false)) (him : s.image n = some im) (href : refusal im s = none) :
    activateAt s = madeCurrent im (genAfter s.nv.gen n (0 < p)) p q n (noneWaits s) := by
  have him' : (noneWaits s).image n = some im := him
  have href' : refusal im (noneWaits s) = none := (refusal_nv im _ s).trans href
  refine Eq.trans ?_ (activateGen_eq him' p q)
  unfold noneWaits at him' href' ⊢
  simp only [activateAt, hat, him', href', Bool.false_eq_true, if_false]

theorem activateAt_refused {x : Nat × Nat} (hat : s.nv.at_ = some (f, n, p, q, rev)) (him : s.image n = some im)
    (href : refusal im s = some x) : activateAt s = finish q x.1 x.2 (noneWaits s) := by
  have him' : (noneWaits s).image n = some im := him
  have href' : refusal im (noneWaits s) = some x := (refusal_nv im _ s).trans href
  unfold noneWaits at him' href' ⊢
  simp only [activateAt, hat, him', href']

/-- The end of a command touches the host interface and the entries to be rewritten alone. -/
theorem finishAt_parts (d q st res : Nat) (s : State) : finishAt d q st res s =
    { s with hst := (finishAt d q st res s).hst, jrn := { s.jrn with finals := (finishAt d q st res s).jrn.finals } } := by
  unfold finishAt
  dsimp only
  split <;> rfl

theorem liveOf_finishAt (d q st res : Nat) (s : State) : (finishAt d q st res s).liveOf q = none :=
  livesOf_eq_nil.mp ((livesOf_finishAt ..).trans (if_pos rfl))

/-! ## Probation (R383) -/

/-- A confirmation is the change of the generations' record, and its event. -/
theorem eventsOnly_confirmGen (q : Nat) (s : State) :
    EventsOnly (changeGen { s.nv.gen with prob := false } q s.nv.gen.cur (beginProb 0 s)) (confirmGen q s) := eventsOnly_raise ..

theorem EventsOnly.nv (h : EventsOnly s t) : t.nv = { s.nv with revertDue := t.nv.revertDue } :=
  (congrArg (fun u : State => { u.nv with revertDue := t.nv.revertDue }) h :)

theorem offTaking_jAppend (e : JEntry) (s : State) : (jAppend e s).offTaking = s.offTaking := by
  unfold jAppend pairJournal
  dsimp only
  split <;> rfl

theorem cfg_of_offTaking (h : t.offTaking = s.offTaking) : t.cfg = s.cfg := (congrArg State.cfg h :)

theorem seq_of_offTaking (h : t.offTaking = s.offTaking) : t.seq = s.seq := (congrArg State.seq h :)

theorem cfg_of_offNv (h : t.offNv = s.offNv) : t.cfg = s.cfg := (congrArg State.cfg h :)

theorem nv_jAppend (e : JEntry) (s : State) : (jAppend e s).nv = s.nv := (congrArg State.nv (offTaking_jAppend e s) :)

/-- The entry of an automatic revert to generation n (R383). -/
def revertEntry (n : Nat) : JEntry :=
  { opcode := 0x84, src := 2, digest := 0, result := n % 2 ^ 32, persist := true, status := stOk }

theorem jEntry_congr (h : t.jrn = s.jrn) (q : Nat) : t.jEntry q = s.jEntry q := by rw [State.jEntry, h, State.jEntry]

theorem head_jAppend (e : JEntry) (s : State) : (jAppend e s).jrn.head = s.nextSeq := rfl

theorem revertGen_parts (h : s.image s.nv.gen.prev = some im) (q : Nat) :
    InForce im s (revertGen q s) ∧ { (revertGen q s).jrn with finals := [] } = { s.jrn with finals := [] } ∧
      (revertGen q s).nv.prob = none ∧
      (revertGen q s).nv.gen = { s.nv.gen with cur := s.nv.gen.prev, prev := s.nv.gen.cur, prob := false } := by
  rw [revertGen_eq h]
  exact ⟨inForce_madeCurrent .., jrn_madeCurrent, prob_madeCurrent, gen_madeCurrent⟩

/-- What an automatic revert leaves to be told: its journal entry and its event. -/
theorem autoRevert_eq (hp : s.nv.prob.isSome = true) (hd : s.nv.revertDue = true) (hb : seqBusy s = false) :
    ∃ b u, EventsOnly (jAppend (revertEntry s.nv.gen.prev) (revertGen 0 s)) u ∧ Pending 0xC6 u ∧
      autoRevert s = { u with seq := { u.seq with onLaunch := b } } := by
  unfold autoRevert
  rw [hp, hd, hb]
  extract_lets n v w u
  have hu : EventsOnly w u := eventsOnly_raise ..
  have hpend : Pending 0xC6 u := pending_raise _ _ _ w 0xC6 (by decide) (.inl rfl)
  by_cases ho : u.seq.onPending = true
  · exact ⟨true, u, hu, hpend, (if_pos rfl).trans (if_pos ho)⟩
  · exact ⟨u.seq.onLaunch, u, hu, hpend, (if_pos rfl).trans (if_neg ho)⟩

end

/-! ## Calibration (R237, R238) -/

section
variable {run : CalRun} {s t : State}

/-- A phase of the calibration has all its results. -/
def calFull (run : CalRun) : Bool := run.chans.all fun ch => run.n ≤ (tget (0, 0) run.acc ch).2

theorem calFull_iff : calFull run = true ↔ ∀ ch ∈ run.chans, run.n ≤ (tget (0, 0) run.acc ch).2 := by
  simp [calFull]

/-- The calibration's ZERO is over: the means are kept for the FULL that follows. -/
theorem calPhaseDone_zero (hc : s.cnv.cal = some run) (hs : s.cnv.calState = 1) (hf : calFull run = true) :
    ∃ c0, calPhaseDone s = finishAt 1 run.seq stOk 0 { s with cnv := { s.cnv with
      calState := 2, calResult := 1, cal := some { run with c0 := c0, acc := [], stale := false } } } := by
  refine ⟨run.chans.foldl (fun t ch => tset 0 t ch (calMean run ch)) [], ?_⟩
  unfold calPhaseDone
  rw [hc]
  unfold calFull at hf
  simp [hs, hf]

/-- The state with the calibration over, and told. -/
def calOver (s : State) : State :=
  raise 0x79 s.tsB (detCal s 1) { s with cnv := { s.cnv with cal := none, calState := 0, calResult := 1 } }

theorem calPhaseDone_full (hc : s.cnv.cal = some run) (hs : s.cnv.calState = 3) (hf : calFull run = true)
    (hok : calFail run = none) : calPhaseDone s = newCurrent (calImage run s) run.seq (calOver s) := by
  unfold calPhaseDone
  rw [hc]
  unfold calFull at hf
  simp [hs, hf, hok, calOver]

/-- The state with a new image held and to be written. -/
def imageHeld (im : Image) (s : State) : State :=
  writeImage im 0 { s with nv := { s.nv with images := tset none s.nv.images im.gen (some im) } }

theorem newCurrent_eq (im : Image) (q : Nat) (s : State) : newCurrent im q s = madeCurrent im
    { cur := im.gen, prev := s.nv.gen.cur, pend := if s.nv.gen.pend ≤ im.gen then 0 else s.nv.gen.pend, prob := false }
    0 q im.gen (imageHeld im s) := rfl

theorem offNv_imageHeld (im : Image) (s : State) : (imageHeld im s).offNv = s.offNv :=
  (offNv_of_offJobs (offJobs_writeImage 0 _ im)).trans rfl

theorem cal_of_still (h : t.still = s.still) :
    t.cnv.cal = s.cnv.cal ∧ t.cnv.calState = s.cnv.calState ∧ t.cnv.calResult = s.cnv.calResult :=
  ⟨(congrArg (fun t => t.cnv.cal) h :), (congrArg (fun t => t.cnv.calState) h :), (congrArg (fun t => t.cnv.calResult) h :)⟩

/-- The calibration stays over as an image comes into force. -/
theorem cal_activate (im : Image) (first : Bool) (s : State) (h : s.cnv.cal = none) :
    (activate im first s).cnv.cal = none ∧ (activate im first s).cnv.calState = s.cnv.calState ∧
      (activate im first s).cnv.calResult = s.cnv.calResult := by
  obtain ⟨hcal, hstate, hres⟩ := cal_of_still (onward_activate im first s).still
  have hmap : (takeImage im s).cnv.cal = s.cnv.cal.map fun c => { c with stale := true } := rfl
  rw [hmap, h] at hcal
  exact ⟨hcal, hstate, hres⟩

theorem pending_activate (im : Image) (first : Bool) {s : State} {n : Nat} (hn : n < 256) (h : Pending n s) :
    Pending n (activate im first s) := (onward_activate im first s).pend n hn h

theorem cnv_of_offNv (h : t.offNv = s.offNv) : t.cnv = s.cnv := (congrArg State.cnv h :)

theorem evt_of_offNv (h : t.offNv = s.offNv) : t.evt = s.evt := (congrArg State.evt h :)

end

end Sys2Proof.Machine

section
open Sys2Proof Sys2Proof.Machine

/-- Settles O37: a generation that comes into force is `madeCurrent`, which takes the image and keeps the rest
(`inForce_madeCurrent`, `jrn_madeCurrent`); a refusal and a confirmation change the record alone. -/
theorem generations : Obligations.Generations := by
  refine ⟨fun f n p q im s hat him href => ⟨_, rfl, ?_⟩, fun f n p q rev im x s hat him href => ⟨_, rfl, ?_⟩,
    fun s hp hd => ⟨_, rfl, ?_⟩, fun im s hp hd hb him => ⟨_, rfl, ?_⟩, fun run s hc hs hf => ⟨_, rfl, ?_⟩,
    fun run s hc hs hf hok => ⟨_, rfl, ?_⟩⟩
  · rw [activateAt_taken hat him href]
    have h := inForce_madeCurrent im (genAfter s.nv.gen n (0 < p)) p q n (noneWaits s)
    exact ⟨at_madeCurrent, gen_madeCurrent, prob_madeCurrent, h.cfg, h.bar0, h.onTable, h.mirror, h.offTable⟩
  · rw [activateAt_refused hat him href]
    have h := finishAt_parts 0 q x.1 x.2 (noneWaits s)
    have hnv : (finish q x.1 x.2 (noneWaits s)).nv = (noneWaits s).nv := (congrArg State.nv h :)
    exact ⟨hnv, liveOf_finishAt .., (congrArg State.cfg h :), h.trans (by rw [hnv]; rfl)⟩
  · have hrun : probExpiry s = confirmGen 0 s := by simp [probExpiry, hp, hd]
    rw [hrun]
    have he := eventsOnly_confirmGen 0 s
    have hoff := offNv_changeGen 0 s.nv.gen.cur (beginProb 0 s) { s.nv.gen with prob := false }
    refine ⟨?_, ?_, pending_raise _ _ _ _ 0xC8 (by decide) (.inl rfl), he.cfg.trans (cfg_of_offNv hoff),
      he.jrn.trans (jrn_of_offNv hoff)⟩
    · rw [he.nv]
      exact prob_changeGen ..
    · rw [he.nv]
      exact gen_changeGen ..
  · obtain ⟨b, u, he, hpend, hrun⟩ := autoRevert_eq hp hd hb
    obtain ⟨hforce, hjrn, hprob, hgen⟩ := revertGen_parts him 0
    have hnext : (revertGen 0 s).nextSeq = s.nextSeq := (congrArg Jrn.next hjrn :)
    have hoff := offTaking_jAppend (revertEntry s.nv.gen.prev) (revertGen 0 s)
    have hnv : u.nv = { (revertGen 0 s).nv with revertDue := u.nv.revertDue } := he.nv.trans (by rw [nv_jAppend])
    have hseq : u.seq.onTable = (revertGen 0 s).seq.onTable :=
      congrArg Seq.onTable (he.seq.trans (seq_of_offTaking hoff))
    rw [hrun]
    refine ⟨?_, ?_, he.cfg.trans ((cfg_of_offTaking hoff).trans hforce.cfg), hseq.trans hforce.onTable, hpend, ?_,
      { revertEntry s.nv.gen.prev with seq := (revertGen 0 s).nextSeq, frame := (revertGen 0 s).clk.frame }, ?_,
      rfl, rfl, rfl, rfl⟩
    · exact (congrArg Nv.prob hnv).trans hprob
    · exact (congrArg Nv.gen hnv).trans hgen
    · exact (congrArg Jrn.head he.jrn).trans ((head_jAppend ..).trans hnext)
    · rw [← hnext]
      exact (jEntry_congr he.jrn _).trans (jEntry_jAppend (revertEntry s.nv.gen.prev) (revertGen 0 s))
  · obtain ⟨c0, hrun⟩ := calPhaseDone_zero hc hs (calFull_iff.mpr hf)
    rw [hrun]
    have hcnv (w : State) : (finishAt 1 run.seq stOk 0 w).cnv = w.cnv := (congrArg State.cnv (finishAt_parts ..) :)
    have hnv (w : State) : (finishAt 1 run.seq stOk 0 w).nv = w.nv := (congrArg State.nv (finishAt_parts ..) :)
    rw [hcnv, hnv]
    exact ⟨rfl, rfl, liveOf_finishAt .., ⟨_, rfl, rfl, rfl, rfl, rfl⟩, rfl⟩
  · rw [calPhaseDone_full hc hs (calFull_iff.mpr hf) hok, newCurrent_eq]
    have he : EventsOnly _ (calOver s) := eventsOnly_raise ..
    have hpend : Pending 0x79 (calOver s) := pending_raise _ _ _ _ 0x79 (by decide) (.inl rfl)
    have hgen : (calOver s).nv.gen = s.nv.gen := (congrArg Nv.gen he.nv :)
    have hheld := offNv_imageHeld (calImage run s) (calOver s)
    have hcnv : (imageHeld (calImage run s) (calOver s)).cnv = { s.cnv with cal := none, calState := 0, calResult := 1 } :=
      (cnv_of_offNv hheld).trans he.cnv
    have hpend' : Pending 0x79 (imageHeld (calImage run s) (calOver s)) := by
      rw [Pending, evt_of_offNv hheld]
      exact hpend
    generalize imageHeld (calImage run s) (calOver s) = u at hcnv hpend'
    obtain ⟨hcal, hstate, hres⟩ := cal_activate (calImage run s) false u (by rw [hcnv])
    have hpend'' := pending_activate (calImage run s) false (by decide) hpend'
    dsimp only
    rw [gen_madeCurrent, hgen, cnv_of_offNv offNv_madeCurrent, Pending, evt_of_offNv offNv_madeCurrent, hcal, hstate, hres, hcnv]
    exact ⟨rfl, rfl, rfl, hpend'', rfl, rfl, rfl⟩

end

/-! # An activation by command whose own SEQ owns a margin (R51, R75, R89) -/

namespace Sys2Proof.Machine

/-! ## A margin under way ends its command as its rail leaves -/

section
variable {i q : Nat} {m : MOp} {im : Image} {s : State}

theorem livesOf_marginLeave (hm : m ∈ s.seq.margins) (hmove : movingOn (s.grail i) m = true) (ho : m.owner = .cmd q) :
    (marginLeave i s).livesOf q = [] := by
  have hmem : m ∈ s.seq.margins.filter (movingOn (s.grail i)) := List.mem_filter.mpr ⟨hm, hmove⟩
  rw [marginLeave_eq]
  refine (Onward.of_calm (calm_marginNominal ..)).ends q ?_
  refine each_brings (· = m) (fun _ => True) (fun u => u.livesOf q = []) (fun _ _ _ _ => trivial) (fun a _ ha u _ => ?_)
    (fun a _ _ u _ hu => (onward_marginTell ..).ends q hu) trivial (.inr ⟨m, hmem, rfl⟩)
  rw [ha, ho]
  exact (livesOf_finishAt ..).trans (if_pos rfl)

/-- The rail i alone is ON, and the image does not use it. -/
structure LoneRailLeaves (i : Nat) (im : Image) (s : State) : Prop where
  mem : i ∈ railList
  on : (s.rail i).st = .on
  lone : ∀ a, (s.rail a).st = .on → a = i
  unused : rcUsed ((withImage im s).rcfg i) = false

theorem livesOf_railsLeave (hl : LoneRailLeaves i im s) (hm : m ∈ s.seq.margins) (hmove : movingOn (s.grail i) m = true)
    (ho : m.owner = .cmd q) : (railsLeave im s).livesOf q = [] := by
  have honly : ∀ a ∈ railList.filter (fun i => (s.rail i).st = .on && !rcUsed ((withImage im s).rcfg i)), a = i := by
    intro a ha
    have hon := (List.mem_filter.mp ha).2
    simp only [Bool.and_eq_true, decide_eq_true_eq] at hon
    exact hl.lone a hon.1
  have hstep : ∀ u, u = s ∨ u.livesOf q = [] → (marginLeave i u).livesOf q = [] := by
    rintro u (rfl | hu)
    · exact livesOf_marginLeave hm hmove ho
    · exact (onward_marginLeave i u).ends q hu
  have hmem : i ∈ railList.filter (fun i => (s.rail i).st = .on && !rcUsed ((withImage im s).rcfg i)) :=
    List.mem_filter.mpr ⟨hl.mem, by simp [hl.on, hl.unused]⟩
  exact each_brings (· = i) (fun u => u = s ∨ u.livesOf q = []) (fun u => u.livesOf q = [])
    (fun a ha u hu => .inr (honly a ha ▸ hstep u hu)) (fun a ha _ u hu => honly a ha ▸ hstep u hu)
    (fun a ha hne _ _ _ => absurd (honly a ha) hne) (.inl rfl) (.inr ⟨i, hmem, rfl⟩)

theorem livesOf_activate (hl : LoneRailLeaves i im s) (hm : m ∈ s.seq.margins) (hmove : movingOn (s.grail i) m = true)
    (ho : m.owner = .cmd q) : (activate im false s).livesOf q = [] :=
  (onward_activate_left im false s).ends q (livesOf_railsLeave hl hm hmove ho)

theorem livesOf_of_offNv {s t : State} (h : t.offNv = s.offNv) (q : Nat) : t.livesOf q = s.livesOf q :=
  livesOf_congr (congrArg (fun u => u.hst.live) h :) q

end

/-! ## CONFIG_ACTIVATE of the default form (R51, R382) -/

section
variable {r n : Nat} {d : Desc} {im : Image} {s : State}

theorem refusal_offTaking (im : Image) (s : State) : refusal im s.offTaking = refusal im s := rfl

theorem nv_cmdState (op : Nat) : (cmdState op r d s).nv = s.nv := (congrArg State.nv offTaking_cmdState :)

/-- The state as the activation of generation n for the command of SEQ q has come to its frame. -/
def cameDue (q n p : Nat) (s : State) : State :=
  park q (.config n) { s with nv := { s.nv with at_ := some (0, n, p, q, false) } }

theorem activateWhen_now {l : Live} {p : Nat} (hb : genBusy s = false) :
    activateWhen l n p 0 false s = activateAt (cameDue l.seq n p s) := by
  simp [activateWhen, hb, cameDue]

theorem cmdConfigActivate_default {l : Live} (hx : l.d.expert = false) (hnv : s.nv.nvwp = false) (hb : genBusy s = false)
    (hcur : l.d.arg 31 0 ≠ s.nv.gen.cur) (h0 : l.d.arg 31 0 ≠ 0)
    (hheld : l.d.arg 31 0 = s.nv.gen.pend ∨ l.d.arg 31 0 = s.nv.gen.prev)
    (him : s.image (l.d.arg 31 0) = some im) (hp : im.probation ≤ 3600) :
    cmdConfigActivate l s = activateAt (cameDue l.seq (l.d.arg 31 0) im.probation s) := by
  have hheld' : ¬(l.d.arg 31 0 ≠ s.nv.gen.pend ∧ l.d.arg 31 0 ≠ s.nv.gen.prev) := fun h => hheld.elim h.1 h.2
  rw [← activateWhen_now hb]
  unfold cmdConfigActivate
  dsimp only
  rw [him]
  simp [hnv, hcur, h0, hheld', hx, Nat.not_lt.mpr hp]

theorem cmdEffect_of_configActivate {l : Live} (h : l.d.opcode = 0x29) (s : State) : cmdEffect l s = cmdConfigActivate l s := by
  unfold cmdEffect
  rw [h]
  rfl

theorem refusal_cameDue (q n p : Nat) (s : State) : refusal im (cameDue q n p s) = refusal im s := rfl

/-- The state an activation by command comes into force in. -/
def activating (n p r : Nat) (d : Desc) (s : State) : State := noneWaits (cameDue s.nextSeq n p (cmdState 0x29 r d s))

theorem cmdEffect_activate (hx : d.expert = false) (hnv : s.nv.nvwp = false) (hb : genBusy s = false)
    (hcur : d.arg 31 0 ≠ s.nv.gen.cur) (h0 : d.arg 31 0 ≠ 0)
    (hheld : d.arg 31 0 = s.nv.gen.pend ∨ d.arg 31 0 = s.nv.gen.prev)
    (him : s.image (d.arg 31 0) = some im) (hp : im.probation ≤ 3600) (href : refusal im s = none) :
    ∃ g, cmdEffect (cmdLive 0x29 r d s) (cmdState 0x29 r d s) =
      madeCurrent im g im.probation s.nextSeq (d.arg 31 0) (activating (d.arg 31 0) im.probation r d s) := by
  have hnv' : (cmdState 0x29 r d s).nv = s.nv := nv_cmdState 0x29
  have hb' : genBusy (cmdState 0x29 r d s) = false := (of_cmdState genBusy fun _ => rfl).trans hb
  have him' : (cmdState 0x29 r d s).image (d.arg 31 0) = some im :=
    (of_cmdState (fun s => s.image (d.arg 31 0)) fun _ => rfl).trans him
  have href' : refusal im (cmdState 0x29 r d s) = none := (of_cmdState (refusal im) (refusal_offTaking im)).trans href
  rw [cmdEffect_of_configActivate rfl, cmdConfigActivate_default (l := cmdLive 0x29 r d s) hx (by rw [hnv']; exact hnv) hb'
    (by rw [hnv']; exact hcur) h0 (by rw [hnv']; exact hheld) him' hp]
  exact ⟨_, activateAt_taken (s := cameDue s.nextSeq (d.arg 31 0) im.probation (cmdState 0x29 r d s)) rfl him'
    ((refusal_cameDue ..).trans href')⟩

/-- What an activation's rails and margins read is what they read before the command. -/
theorem activating_parts (n p : Nat) : (activating n p r d s).rails = s.rails ∧ (activating n p r d s).seq = s.seq ∧
    (activating n p r d s).index = s.index ∧ ∀ i, (withImage im (activating n p r d s)).rcfg i = (withImage im s).rcfg i := by
  have hsame {α : Type} (f : State → α) (hf : ∀ s, f s.offTaking = f s)
      (hf' : ∀ q n p s, f (noneWaits (cameDue q n p s)) = f s) :
      f (activating n p r d s) = f s := (hf' ..).trans (of_cmdState f hf)
  exact ⟨hsame State.rails (fun _ => rfl) (fun _ _ _ _ => rfl), hsame State.seq (fun _ => rfl) (fun _ _ _ _ => rfl),
    hsame State.index (fun _ => rfl) (fun _ _ _ _ => rfl),
    fun i => hsame (fun s => (withImage im s).rcfg i) (fun _ => rfl) (fun _ _ _ _ => rfl)⟩

theorem livesOf_startedPost_nil {q : Nat} (h : s.livesOf q = []) : (startedPost q s).livesOf q = [] := by
  have hnone : s.liveOf q = none := livesOf_eq_nil.mp h
  unfold startedPost
  rw [hnone]
  exact h

/-- The command whose SEQ owns the margin of the one rail that leaves is over as its row ends. -/
theorem liveOf_configActivate {g : GenState} {i : Nat} {m : MOp} (h : Taken 0x29 r d s) (hl : LoneRailLeaves i im s)
    (hm : m ∈ s.seq.margins) (hmove : movingOn (s.grail i) m = true) (ho : m.owner = .cmd s.nextSeq) {p : Nat}
    (he : cmdEffect (cmdLive 0x29 r d s) (cmdState 0x29 r d s) = madeCurrent im g p s.nextSeq n (activating n p r d s)) :
    (hostRow 0x29 r d s).liveOf s.nextSeq = none := by
  obtain ⟨hrails, hseq, hindex, hrcfg⟩ := activating_parts (im := im) (r := r) (d := d) (s := s) n p
  have hrail (a : Nat) : (activating n p r d s).rail a = s.rail a := by rw [State.rail, hrails, State.rail]
  have hl' : LoneRailLeaves i im (activating n p r d s) :=
    ⟨hl.mem, (hrail i).symm ▸ hl.on, fun a ha => hl.lone a (hrail a ▸ ha), (hrcfg i).symm ▸ hl.unused⟩
  have hact : (activate im false (activating n p r d s)).livesOf s.nextSeq = [] :=
    livesOf_activate hl' (hseq ▸ hm) (by rw [State.grail, hindex]; exact hmove) ho
  have hnone : (madeCurrent im g p s.nextSeq n (activating n p r d s)).livesOf s.nextSeq = [] :=
    (livesOf_of_offNv offNv_madeCurrent _).trans hact
  have hop : (cmdLive 0x29 r d s).d.opcode = 0x29 := rfl
  have hw := applyCmd_effect (l := cmdLive 0x29 r d s) (u := cmdState 0x29 r d s) (by rw [hop]; decide)
    (fun hu => by rw [hop] at hu; exact absurd hu (by decide)) (fun hu => by rw [hop] at hu; exact absurd hu (by decide)) rfl
  rw [he] at hw
  obtain ⟨hhst, -, -, -⟩ := hostRow_parts h hw
  have hpost := livesOf_startedPost_nil ((livesOf_congr (live_relayOut (cmdLive 0x29 r d s).d _) s.nextSeq).trans hnone)
  have htell := (livesOf_progsTell (by simp [hpost])).trans hpost
  exact livesOf_eq_nil.mp ((livesOf_congr (congrArg Hst.live hhst) _).trans htell)

end

/-! ## The state -/

/-- Rail 0 is ON, its margin under way is owned by the SEQ to come, and generation 5, pending, uses no rail. -/
def strayMargin : State := { State.reset with
  nv := { images := [(5, some {})], gen := { cur := 4, prev := 3, pend := 5 } }
  rails := [(0, { st := .on })]
  seq := { State.reset.seq with margins := [{ owner := .cmd State.reset.nextSeq, phase := .moving }] } }

/-- CONFIG_ACTIVATE of generation 5, in the default form. -/
def activateFive : Desc := { args := 5 }

theorem taken_activateFive : Taken 0x29 0 activateFive strayMargin := ⟨by decide, by decide, by decide +kernel, rfl⟩

theorem arg_activateFive : activateFive.arg 31 0 = 5 := by decide +kernel

theorem image_activateFive : strayMargin.image (activateFive.arg 31 0) = some {} := by
  rw [arg_activateFive]
  rfl

theorem loneRailLeaves_stray : LoneRailLeaves 0 {} strayMargin := by
  refine ⟨by decide, rfl, fun a ha => ?_, by decide⟩
  by_contra hne
  have hoff : strayMargin.rail a = {} := if_neg (Ne.symm hne)
  rw [hoff] at ha
  exact absurd ha (by decide)

end Sys2Proof.Machine

section
open Sys2Proof Sys2Proof.Machine

/-- Refutes O36: an activation ends the command that owns the margin under way of a rail that leaves (R75, R89), and the statement
lets a margin be owned by the SEQ the command itself takes (`strayMargin`): the command is then over and waits for nothing. -/
theorem not_configCommands : ¬ Obligations.ConfigCommands := by
  unfold Obligations.ConfigCommands
  rintro ⟨-, -, hactivate, -⟩
  have hcur : activateFive.arg 31 0 ≠ strayMargin.nv.gen.cur := by
    rw [arg_activateFive]
    decide
  have h0 : activateFive.arg 31 0 ≠ 0 := by
    rw [arg_activateFive]
    decide
  have hpend : activateFive.arg 31 0 = strayMargin.nv.gen.pend := arg_activateFive
  obtain ⟨t, ht, ⟨-, l, hl, -⟩, -⟩ := hactivate 0 activateFive {} strayMargin taken_activateFive rfl rfl rfl hcur h0
    (.inl hpend) image_activateFive (by decide) (by decide)
  have hrow : exec (.configActivate 0 activateFive) strayMargin = .next (hostRow 0x29 0 activateFive strayMargin) := rfl
  obtain rfl : hostRow 0x29 0 activateFive strayMargin = t := by
    rw [hrow] at ht
    injection ht
  obtain ⟨g, he⟩ := cmdEffect_activate (r := 0) (d := activateFive) (im := {}) (s := strayMargin) rfl rfl rfl hcur h0
    (.inl hpend) image_activateFive (by decide) (by decide)
  have hnone := liveOf_configActivate taken_activateFive loneRailLeaves_stray (List.mem_singleton_self _) (by decide) rfl he
  exact absurd (hnone.symm.trans hl) (by simp)

end

/-! # PG samples and their debounce (R69, R70) -/

namespace Sys2Proof.Machine

/-! ## One sample -/

/-- At `mv` the receiver of rail i works and reads good where `good` holds, else not good, whatever it read before (R69). -/
def ReadsAs (good : Bool) (mv : Int) (i : Nat) (s : State) : Prop :=
  s.vioOk i = true ∧ (s.rail i).st ≠ .unused ∧
    ∀ prev, (schmitt (bit (s.rcfg i) 5) (s.bank (bankOf i)).vio mv prev != notGood (s.rcfg i)) = good

section
variable {good : Bool} {mv : Int} {i : Nat} {s : State}

theorem sampleStep_ne (mv : Int) (s : State) {i j : Nat} (h : j ≠ i) : (sampleStep mv i s).rail j = s.rail j := by
  simp [sampleStep, debounce, samplePg, h]

/-- What a sample leaves alone but the rail sampled. -/
theorem sampleStep_rails (mv : Int) (i : Nat) (s : State) : { sampleStep mv i s with rails := s.rails } = s := by
  unfold sampleStep debounce samplePg State.modRail
  rfl

theorem sampleStep_bank (mv : Int) (i : Nat) (s : State) (b : Nat) : (sampleStep mv i s).bank b = s.bank b := by
  simp [sampleStep, debounce, samplePg]

theorem sampleStep_cw (mv : Int) (i : Nat) (s : State) (k : Nat) : (sampleStep mv i s).cw k = s.cw k := by
  simp [sampleStep, debounce, samplePg]

theorem samplePg_raw (h : ReadsAs good mv i s) : ((samplePg mv i s).rail i).raw = good := by
  obtain ⟨hv, hu, hr⟩ := h
  simp [samplePg, hv, hu, ← hr (s.rail i).rx, bne, Bool.beq_eq_decide_eq]

/-- The debounce of a sample, on the rail as the receiver left it (R70). -/
theorem debounce_rail (i : Nat) (s : State) : (debounce i s).rail i =
    if (s.rail i).raw = (s.rail i).db then { s.rail i with dbCnt := 0, edge := none }
    else
      let r := { s.rail i with dbOnset := if (s.rail i).dbCnt = 0 then s.tsB else (s.rail i).dbOnset,
                               dbCnt := (s.rail i).dbCnt + 1 }
      if dbNeed (s.cw (rbase i + 4)) r.raw ≤ r.dbCnt then { r with db := r.raw, dbCnt := 0 } else r :=
  State.modRail_rail_same ..

/-- A sample that agrees with the debounced PG restarts the count (R70). -/
theorem sampleStep_agrees (h : ((samplePg mv i s).rail i).raw = (s.rail i).db) :
    ((sampleStep mv i s).rail i).dbCnt = 0 ∧ ((sampleStep mv i s).rail i).db = (s.rail i).db := by
  have hdb : ((samplePg mv i s).rail i).db = (s.rail i).db := by simp [samplePg]
  rw [sampleStep, debounce_rail, if_pos (h.trans hdb.symm)]
  exact ⟨rfl, hdb⟩

/-- A sample that disagrees counts, and the last one needed makes the debounced PG its level (R70). -/
theorem sampleStep_disagrees (hr : ReadsAs good mv i s) (hdb : (s.rail i).db = !good) :
    (((sampleStep mv i s).rail i).db, ((sampleStep mv i s).rail i).dbCnt) =
      if dbNeed (s.cw (rbase i + 4)) good ≤ (s.rail i).dbCnt + 1 then (good, 0) else (!good, (s.rail i).dbCnt + 1) := by
  have hraw := samplePg_raw hr
  have hdb' : ((samplePg mv i s).rail i).db = !good := by simp [samplePg, hdb]
  have hcnt : ((samplePg mv i s).rail i).dbCnt = (s.rail i).dbCnt := by simp [samplePg]
  have hcw : (samplePg mv i s).cw (rbase i + 4) = s.cw (rbase i + 4) := rfl
  rw [sampleStep, debounce_rail, if_neg (by simp [hraw, hdb'])]
  dsimp only
  rw [hraw, hcnt, hcw]
  split
  · rfl
  · exact Prod.ext hdb' rfl

/-- What decides how a sample reads is the same behind it. -/
theorem readsAs_sampleStep (h : ReadsAs good mv i s) : ReadsAs good mv i (sampleStep mv i s) := by
  have hst : ((sampleStep mv i s).rail i).st = (s.rail i).st := by
    rw [sampleStep, debounce_rail]
    dsimp only
    split <;> [skip; split] <;> simp [samplePg]
  simpa only [ReadsAs, State.vioOk, State.rcfg, sampleStep_bank, sampleStep_cw, hst] using h

/-! ## A run of samples -/

/-- Samples that agree with the debounced PG never change it. -/
theorem db_iterate_agrees (n : Nat) (hr : ReadsAs good mv i s) (hdb : (s.rail i).db = good) :
    (((sampleStep mv i)^[n] s).rail i).db = good := by
  induction n generalizing s with
  | zero => exact hdb
  | succ n ih =>
    have hstep := sampleStep_agrees ((samplePg_raw hr).trans hdb.symm)
    exact ih (readsAs_sampleStep hr) (hstep.2.trans hdb)

/-- Samples of one level, behind a count not yet complete: the debounced PG takes the level with the sample that completes the
count, and not sooner (R70). -/
theorem db_iterate_disagrees (n : Nat) (hr : ReadsAs good mv i s) (hdb : (s.rail i).db = !good)
    (hcnt : (s.rail i).dbCnt < dbNeed (s.cw (rbase i + 4)) good) : (((sampleStep mv i)^[n] s).rail i).db =
      (decide (dbNeed (s.cw (rbase i + 4)) good ≤ (s.rail i).dbCnt + n) == good) := by
  induction n generalizing s with
  | zero => rw [decide_eq_false (by omega), Function.iterate_zero, id_eq, hdb, Bool.false_beq]
  | succ n ih =>
    have hstep := sampleStep_disagrees hr hdb
    have hr' := readsAs_sampleStep hr
    rw [Function.iterate_succ_apply]
    by_cases hlast : dbNeed (s.cw (rbase i + 4)) good ≤ (s.rail i).dbCnt + 1
    · rw [decide_eq_true (by omega), Bool.true_beq]
      rw [if_pos hlast] at hstep
      exact db_iterate_agrees n hr' (congrArg Prod.fst hstep)
    · rw [if_neg hlast] at hstep
      have hdb' : ((sampleStep mv i s).rail i).db = !good := congrArg Prod.fst hstep
      have hcnt' : ((sampleStep mv i s).rail i).dbCnt = (s.rail i).dbCnt + 1 := congrArg Prod.snd hstep
      rw [ih hr' hdb' (by rw [hcnt', sampleStep_cw]; omega), hcnt', sampleStep_cw]
      simp only [Nat.add_assoc, Nat.add_comm 1 n]

theorem dbNeed_pos (w : W32) (good : Bool) : 0 < dbNeed w good := by
  unfold dbNeed
  generalize (if good then fld w 7 0 else fld w 15 8) = k
  unfold orDef
  split
  · exact Nat.one_pos
  · exact Nat.pos_of_ne_zero ‹_›

end

end Sys2Proof.Machine

section
open Sys2Proof Sys2Proof.Machine

/-- Settles O51: a run of samples of one level is `db_iterate_disagrees` from a count of 0, for either level. -/
theorem pgDebounce : Obligations.PgDebounce := by
  refine ⟨fun w => rfl, fun mv i n s hv hu hcnt hdb h => ?_, fun mv i n s hv hu hcnt hdb h => ?_, fun mv i s => sampleStep_agrees,
    fun mv i j s => sampleStep_ne mv s, sampleStep_rails⟩
  · have hreads : ReadsAs true mv i s := ⟨hv, hu, fun p => bne_iff_ne.mpr (h p)⟩
    rw [db_iterate_disagrees n hreads hdb (hcnt ▸ dbNeed_pos _ _), hcnt, Nat.zero_add]
    exact beq_true _
  · have hreads : ReadsAs false mv i s := ⟨hv, hu, fun p => bne_eq_false_iff_eq.mpr (h p)⟩
    rw [db_iterate_disagrees n hreads hdb (hcnt ▸ dbNeed_pos _ _), hcnt, Nat.zero_add]
    exact beq_false _

end

/-! # The happenings on one rail (R62 to R80, R109, R138, R160; log 3) -/

namespace Sys2Proof.Machine

/-- The row of a happening on rail i of the part completes with its effect. -/
theorem completes_onRail {c : Instr} {i : Nat} {f : State → State} {s : State} {P : State → Prop} (hi : i < 96)
    (hc : exec c s = Next (onRail i f s)) (hp : P (f s)) : Completes c s P :=
  ⟨f s, by rw [hc, onRail, if_pos hi], hp⟩

end Sys2Proof.Machine

/-! # What is found on a rail (R77 to R80, R109, R138, R144, R159) -/

namespace Sys2Proof.Machine

section
variable {i : Nat} {s : State}

/-- PG lost in ON is one fault, its onset the latched edge, else where the count of the debounce began (R70, R138, R160). -/
theorem faultTaken_pgLostNow (hi : i < 96) (hon : (s.rail i).st = .on) (hw : NoFaultWaiting i 0 s) :
    FaultTaken i 0 false ((s.rail i).edge.getD (if (s.rail i).db && (s.rail i).dbCnt = 0 then s.tsB else (s.rail i).dbOnset)) s
      (pgLostNow i s) := by
  have hrail : ∀ t, ((s.modRail i t).rail i) = t (s.rail i) := fun t => State.modRail_rail_same ..
  unfold pgLostNow judgePg
  simp only [hrail, hon, pgOnset, reduceCtorEq, if_false, Bool.false_eq_true]
  exact reactNow_detect _ _ _ _ _ _ hi hw (by simp) (by simp)

/-- The PG deadline found expired in RAMPING is one fault (R109). -/
theorem faultTaken_pgLateNow (hi : i < 96) (hst : (s.rail i).st = .ramping) {n : Nat} (hd : (s.rail i).deadline = some n)
    (hw : NoFaultWaiting i 1 s) : FaultTaken i 1 false s.tsB s (pgLateNow i s) := by
  unfold pgLateNow judgeLate
  simp only [State.modRail_rail_same, hd, hst, Option.map_some, if_true]
  exact reactNow_detect _ _ _ _ _ _ hi hw (by simp) (by simp)

/-- A driven EN held at the other level is one short, its direction the level held (R77). -/
theorem faultTaken_enShortNow (hi : i < 96) {hl ilim : Bool} (ho : readbackOpen s i = true)
    (hd : rcDriven (s.rcfg i) (s.rail i).enBall = true) (hne : hl ≠ rcLevel (s.rcfg i) (s.rail i).enBall)
    (hw : NoFaultWaiting i 2 s) :
    FaultTaken i 2 hl (if (s.rail i).mis = 0 then s.tsB else (s.rail i).misOnset) s (enShortNow i hl ilim s) := by
  unfold enShortNow
  simp only [ho, hd, decide_eq_true hne, Bool.and_self, if_true]
  exact reactNow_detect _ _ _ _ _ _ hi hw (by simp) (by simp)

/-- A released EN of a pair that mismatches is one open ball (R77). -/
theorem faultTaken_enOpenNow (hi : i < 96) (ho : readbackOpen s i = true)
    (hd : rcDriven (s.rcfg i) (s.rail i).enBall = false) (hp : bit (s.rcfg i) 11 = true) (hw : NoFaultWaiting i 3 s) :
    FaultTaken i 3 false (if (s.rail i).mis = 0 then s.tsB else (s.rail i).misOnset) s (enOpenNow i s) := by
  unfold enOpenNow
  simp only [ho, hd, hp, Bool.not_false, Bool.and_self, if_true]
  exact reactNow_detect _ _ _ _ _ _ hi hw (by simp) (by simp)

/-- An assist test in which the current limit acts has found a short (R77). -/
theorem faultTaken_assist_short (hi : i < 96) (ha : (s.rail i).assist = true) (hw : NoFaultWaiting i 2 s) :
    FaultTaken i 2 (rcMode (s.rcfg i) = 1) (s.rail i).misOnset s (assistResultNow i true s) := by
  unfold assistResultNow assistResult
  rw [if_pos ha, if_pos rfl]
  exact reactNow_detect _ _ _ _ _ _ hi hw (by simp) (by simp)

/-- An assist test that reaches the released level has found an open ball (R77). -/
theorem faultTaken_assist_open (hi : i < 96) (ha : (s.rail i).assist = true) (hw : NoFaultWaiting i 3 s) :
    FaultTaken i 3 false (s.rail i).misOnset s (assistResultNow i false s) := by
  unfold assistResultNow assistResult
  rw [if_pos ha, if_neg Bool.false_ne_true, if_pos rfl]
  exact reactNow_detect _ _ _ _ _ _ hi hw (by simp) (by simp)

/-- PG stuck in RELEASING is one fault (R80). -/
theorem faultTaken_pgStuckNow (hi : i < 96) (hn : s.cf (rbase i + 4) 23 16 ≠ 0) (hd : (s.rail i).stuckDone = false)
    (hst : (s.rail i).st = .releasing) (hw : NoFaultWaiting i 5 s) : FaultTaken i 5 false s.tsB s (pgStuckNow i s) := by
  unfold pgStuckNow
  rw [if_pos (by simp [hn, hd, hst])]
  dsimp only
  rw [if_pos hst]
  exact reactNow_detect _ _ _ _ _ _ hi hw (by simp) (by simp)

/-! ## The open-wire test -/

/-- Rail i takes an open-wire test, and can be tested as it stands (R78, R79). -/
abbrev OpenTestable (i : Nat) (s : State) : Prop :=
  (fld (s.rcfg i) 7 6 = 1 ∨ fld (s.rcfg i) 7 6 = 2) ∧ s.vioOk i = true ∧ ((s.rail i).st = .off ∨ (s.rail i).st = .on)

theorem pgOpenTestNow_of_testable (ht : OpenTestable i s) (level : Bool) : pgOpenTestNow i level s =
    reactNow (owCount (owFails ((s.rail i).owTest.getD (s.rail i).rx) level) i
      (s.modRail i fun r => { r with owTest := none })) := by
  unfold pgOpenTestNow
  rw [if_pos (by simpa [and_assoc] using ht)]

/-- The second failure in a row is one fault, its onset the first (R79). -/
theorem faultTaken_pgOpenTestNow (hi : i < 96) {level : Bool} {t0 : Ts} (ht : OpenTestable i s)
    (hf : (s.rail i).owFail = some t0) (hl : (s.rail i).owTest.getD (s.rail i).rx ≠ level) (hw : NoFaultWaiting i 4 s) :
    FaultTaken i 4 false t0 s (pgOpenTestNow i level s) := by
  rw [pgOpenTestNow_of_testable ht]
  unfold owCount owFails
  simp only [State.modRail_rail_same, hf, decide_eq_true hl, if_true]
  exact reactNow_detect _ _ _ _ _ _ hi hw (by simp) (by simp)

/-- A test behind no failure: one that fails is remembered with the time of its sample, one that passes is not (R79). -/
theorem owCount_first (fail : Bool) (hf : (s.rail i).owFail = none) :
    ((owCount fail i s).rail i).owFail = (if fail then some { frame := s.clk.last, frac := fracOf 1500 } else none) ∧
      ((owCount fail i s).rail i).st = (s.rail i).st ∧ (owCount fail i s).flt = s.flt ∧
      ∀ j, j ≠ i → (owCount fail i s).rail j = s.rail j := by
  unfold owCount
  cases fail with
  | false => exact ⟨by simp, by simp, rfl, fun j hj => by simp [hj]⟩
  | true =>
    simp only [hf, if_true]
    split <;> exact ⟨by simp, by simp, rfl, fun j hj => by simp [hj]⟩

theorem pgOpenTestNow_first {level : Bool} (ht : OpenTestable i s) (hf : (s.rail i).owFail = none) (hw : s.flt.found = []) :
    ((pgOpenTestNow i level s).rail i).owFail = (if (s.rail i).owTest.getD (s.rail i).rx = level then none else
        some { frame := s.clk.last, frac := fracOf 1500 }) ∧
      ((pgOpenTestNow i level s).rail i).st = (s.rail i).st ∧ (pgOpenTestNow i level s).flt = s.flt ∧
      ∀ j, j ≠ i → (pgOpenTestNow i level s).rail j = s.rail j := by
  obtain ⟨hfail, hst, hflt, hne⟩ := owCount_first (i := i) (s := s.modRail i fun r => { r with owTest := none })
    (owFails ((s.rail i).owTest.getD (s.rail i).rx) level) (by simp [hf])
  rw [pgOpenTestNow_of_testable ht, reactNow_nil _ (by rw [hflt]; exact hw), hfail, hst, hflt]
  refine ⟨?_, by simp, rfl, fun j hj => by rw [hne j hj]; simp [hj]⟩
  by_cases hl : (s.rail i).owTest.getD (s.rail i).rx = level <;> simp [owFails, hl]

/-! ## PG that goes as EN is released -/

/-- RELEASING ends in OFF with nothing of the rail but its own timers and counts touched (R73). -/
theorem setRState_off_of_releasing (h : (s.rail i).st = .releasing) : setRState i .off s = s.modRail i fun r => { r with
    st := .off, fold := false, offGood := 0, deadline := none, rest := 0, retryCnt := 0, escalated := false } := by
  unfold setRState
  simp [h, RState.live, RState.resting]

/-- PG lost in RELEASING is OFF, and no fault (R73). -/
theorem pgLostNow_of_releasing (hst : (s.rail i).st = .releasing) (hw : s.flt.found = []) :
    ((pgLostNow i s).rail i).st = .off ∧ ((pgLostNow i s).rail i).db = false ∧
      ((pgLostNow i s).rail i).en = (s.rail i).en ∧ (pgLostNow i s).flt = s.flt ∧
      ∀ j, j ≠ i → (pgLostNow i s).rail j = s.rail j := by
  have hrail : ∀ t, ((s.modRail i t).rail i) = t (s.rail i) := fun t => State.modRail_rail_same ..
  unfold pgLostNow judgePg
  simp only [hrail, hst, reduceCtorEq, if_false, Bool.false_eq_true]
  rw [setRState_off_of_releasing (by rw [hrail]; exact hst), reactNow_nil _ (by exact hw)]
  exact ⟨by simp, by simp, by simp, rfl, fun j hj => by simp [hj]⟩

end

end Sys2Proof.Machine

section
open Sys2Proof Sys2Proof.Machine

/-- Settles O5: what each row finds is `reactNow_detect` on its rail; what is no fault leaves the fault logic nothing to do
(`reactNow_nil`). -/
theorem railFaults : Obligations.RailFaults := by
  refine ⟨?_, ?_, ?_, ?_, ?_, ?_, ?_, ?_, ?_, ?_⟩
  · exact fun i s hi hst hw => completes_onRail hi rfl (faultTaken_pgLostNow hi hst hw)
  · exact fun i s hi hst hw => completes_onRail hi rfl (pgLostNow_of_releasing hst hw)
  · exact fun i n s hi hst hd hw => completes_onRail hi rfl (faultTaken_pgLateNow hi hst hd hw)
  · exact fun i hl ilim s hi ho hd hne hw => completes_onRail hi rfl (faultTaken_enShortNow hi ho hd hne hw)
  · exact fun i s hi ho hd hp hw => completes_onRail hi rfl (faultTaken_enOpenNow hi ho hd hp hw)
  · exact fun i s hi ha hw => completes_onRail hi rfl (faultTaken_assist_short hi ha hw)
  · exact fun i s hi ha hw => completes_onRail hi rfl (faultTaken_assist_open hi ha hw)
  · exact fun i level t0 s hi hm hv hst hf hl hw =>
      completes_onRail hi rfl (faultTaken_pgOpenTestNow hi ⟨hm, hv, hst⟩ hf hl hw)
  · exact fun i s hi hn hd hst hw => completes_onRail hi rfl (faultTaken_pgStuckNow hi hn hd hst hw)
  · exact fun i level s hi hm hv hst hf hw => completes_onRail hi rfl (pgOpenTestNow_first ⟨hm, hv, hst⟩ hf hw)

end

/-! # PG good, the assist test, MIN_OFF, the edge latch, fold-back (R65, R70, R73, R74, R77, R160) -/

namespace Sys2Proof.Machine

/-- Nothing but rail i is changed. -/
abbrev OnlyRail (i : Nat) (s t : State) : Prop := t = { s with rails := t.rails } ∧ ∀ j, j ≠ i → t.rail j = s.rail j

section
variable {i : Nat} {s : State}

theorem onlyRail_modRail (f : Rail → Rail) : OnlyRail i s (s.modRail i f) := ⟨rfl, fun j hj => by simp [hj]⟩

/-- RAMPING ends in ON with nothing of the rail but its own timers touched (R73). -/
theorem setRState_on_of_ramping (h : (s.rail i).st = .ramping) :
    setRState i .on s = s.modRail i fun r => { r with st := .on, rest := 0, offGood := 0, deadline := none } := by
  unfold setRState
  simp [h, RState.live, RState.resting]

/-- The rail behind a debounced PG that becomes good: a rail in RAMPING is ON (R70, R73). -/
def pgGoodRail (r : Rail) : Rail :=
  let q := { r with raw := true, db := true, dbCnt := 0, edge := none }
  if r.st = .ramping then { q with st := .on, rest := 0, offGood := 0, deadline := none } else q

theorem pgGood_spec (hu : (s.rail i).st ≠ .unused) (hv : s.vioOk i = true) :
    (pgGood i s).rail i = pgGoodRail (s.rail i) ∧ OnlyRail i s (pgGood i s) := by
  unfold pgGood pgGoodRail
  rw [if_neg (by simp [hu, hv])]
  simp only [State.modRail_rail_same]
  split
  · next h =>
    rw [setRState_on_of_ramping (by simpa using h)]
    exact ⟨by simp, rfl, fun j hj => by simp [hj]⟩
  · exact ⟨by simp, onlyRail_modRail _⟩

theorem assistNow_eq (ho : readbackOpen s i = true) (hd : rcDriven (s.rcfg i) (s.rail i).enBall = false)
    (hp : bit (s.rcfg i) 11 = false) (ha : (s.rail i).assist = false) : assistNow i s = s.modRail i fun r => { r with
      assist := true, misOnset := if r.mis = 0 then s.tsB else r.misOnset, mis := max 4 r.mis } := by
  unfold assistNow
  simp only [ho, hd, hp, ha, Bool.not_false, Bool.and_self, if_true]

theorem edgeLatch_eq (c : Nat) (hu : (s.rail i).st ≠ .unused) :
    edgeLatch i c s = s.modRail i fun r => { r with edge := some (r.edge.getD (s.tsAt c)) } := by
  unfold edgeLatch
  rw [if_neg hu]

/-- A driver that folds back: its rail is in HIZ by its fold-back, the event is pending, the other rails are as they were (R65). -/
theorem foldNow_spec (hd : s.drives i = true) : ((foldNow i s).rail i).st = .hiz ∧ ((foldNow i s).rail i).en = false ∧
    ((foldNow i s).rail i).enBall = false ∧ ((foldNow i s).rail i).fold = true ∧ Pending 0x30 (foldNow i s) ∧
    ∀ j, j ≠ i → (foldNow i s).rail j = s.rail j := by
  have hu : (s.rail i).st ≠ .unused := by
    unfold State.drives at hd
    simp only [Bool.and_eq_true, decide_eq_true_eq] at hd
    tauto
  obtain ⟨hst, hen, hball, hfold⟩ := toHiz_rail i (s.modRail i fun r => { r with fold := true, foldOff := false, ilimRun := 0 })
    (by simpa using hu)
  have hne : ∀ j, j ≠ i → (toHiz i (s.modRail i fun r => { r with fold := true, foldOff := false, ilimRun := 0 })).rail j =
      s.rail j := fun j hj => by rw [toHiz_ne _ _ hj]; simp [hj]
  unfold foldNow foldBack
  rw [if_pos hd]
  dsimp only
  generalize toHiz i _ = u at hst hen hball hfold hne
  have hr : ∀ ts d j, (raise 0x30 ts d u).rail j = u.rail j := fun ts d => rails_rail (eventsOnly_raise ..).rails
  rw [hr]
  refine ⟨hst, hen, hball, by simpa using hfold, pending_raise _ _ _ _ _ (by decide) (.inl rfl), fun j hj => ?_⟩
  rw [hr, hne j hj]

end

end Sys2Proof.Machine

/-! # The supply of a bank (R62, R65, R73) -/

namespace Sys2Proof.Machine

/-! ## A rail leaves HIZ, or enters it -/

section
variable {s : State}

theorem leaveHiz_st (i : Nat) (s : State) : ((leaveHiz i s).rail i).st =
    if (s.rail i).hizLate && rcFailOn (s.rcfg i) then .ramping else .off := by
  unfold leaveHiz
  dsimp only
  split <;> simp

theorem keepReact_toHiz (i : Nat) (s : State) : (toHiz i s).keepReact = s.keepReact := by
  unfold toHiz
  split
  · rfl
  · exact (keepReact_setRState ..).trans (keepReact_modRail ..)

/-! ## VIO_OK rises -/

/-- A rail of the bank as its supply rises: it leaves HIZ where nothing else holds it (R62, R73). -/
def freeRail (i : Nat) (s : State) : State := if (s.rail i).st = .hiz && !s.hizHeld i then leaveHiz i s else s

theorem vioRise_eq (b : Nat) (s : State) :
    vioRise b s = each (bankRails b) freeRail (s.modBank b fun k => { k with vioOk := true }) := rfl

theorem keepReact_freeRail (i : Nat) (s : State) : (freeRail i s).keepReact = s.keepReact := by
  unfold freeRail
  split
  · exact keepReact_leaveHiz i s
  · rfl

theorem freeRail_ne (i : Nat) (s : State) (j : Nat) (h : j ≠ i) : (freeRail i s).rail j = s.rail j := by
  unfold freeRail
  split
  · exact leaveHiz_ne i s h
  · rfl

/-- Neither XRST_IN#, the supply nor a fold-back holds the rail: it leaves HIZ (R62, R65, R73). -/
theorem freeRail_st {i : Nat} (hz : (s.rail i).st = .hiz) (hx : s.pwr.xrst = false) (hv : s.vioOk i = true)
    (hf : (s.rail i).fold = false) : ((freeRail i s).rail i).st =
      if (s.rail i).hizLate && rcFailOn (s.rcfg i) then .ramping else .off := by
  unfold freeRail
  rw [if_pos (by simp [hz, State.hizHeld, hx, hv, hf]), leaveHiz_st]

theorem bank_vioRise (b c : Nat) (s : State) :
    (vioRise b s).bank c = if c = b then { s.bank b with vioOk := true } else s.bank c := by
  rw [vioRise_eq, banks_bank (keepReact_banks_of (keepReact_each _ _ keepReact_freeRail _))]
  exact State.modBank_bank ..

theorem vioRise_rail_ne {b i : Nat} (h : bankOf i ≠ b) : (vioRise b s).rail i = s.rail i := by
  rw [vioRise_eq, each_rail_not freeRail_ne _ _ _ (bank_not h)]
  rfl

theorem vioRise_st {b i : Nat} (hi : i < 96) (hb : bankOf i = b) (hz : (s.rail i).st = .hiz) (hx : s.pwr.xrst = false)
    (hf : (s.rail i).fold = false) : ((vioRise b s).rail i).st =
      if (s.rail i).hizLate && rcFailOn (s.rcfg i) then .ramping else .off := by
  obtain ⟨u, hu, hsame, hrail⟩ := each_rail_mem freeRail_ne (bankRails b) (bank_nodup b)
    (s.modBank b fun k => { k with vioOk := true }) (fun u => u.keepReact = _)
    (fun j u hu => (keepReact_freeRail j u).trans hu) rfl i (bank_mem hi hb)
  have hs : u.rail i = s.rail i := hsame
  have hx' : u.pwr.xrst = false := by rw [keepReact_pwr_of hu]; exact hx
  have hv : u.vioOk i = true := by
    rw [State.vioOk, banks_bank (keepReact_banks_of hu), hb, State.modBank_bank_same]
  have hc : u.rcfg i = s.rcfg i := cfg_cw (keepReact_cfg_of hu) _
  rw [vioRise_eq, hrail, freeRail_st (hs ▸ hz) hx' hv (hs ▸ hf), hs, hc]

/-! ## VIO_OK falls -/

/-- A rail of the bank as its supply falls: HIZ, a retry cancelled, PG lost where it was live (R62). -/
def loseRail (i : Nat) (s : State) : State :=
  let live := (s.rail i).st.live
  let s := cancelRetry i (toHiz i s)
  if live then
    { s with flt := { s.flt with found := s.flt.found ++
      [{ rail := i, kind := 0, onset := s.tsB, det := s.clk.frame, vio := true }] } }
  else s

theorem vioFall_eq (b : Nat) (s : State) : vioFall b s = mdacsOff b (each (bankRails b) loseRail
    (raise (0x2E + b) s.tsB 0 (s.modBank b fun k => { k with vioOk := false, vioCnt := 0 }))) := rfl

theorem keepReact_loseRail (i : Nat) (s : State) : (loseRail i s).keepReact = s.keepReact := by
  have h : (cancelRetry i (toHiz i s)).keepReact = s.keepReact := (keepReact_cancelRetry ..).trans (keepReact_toHiz ..)
  unfold loseRail
  dsimp only
  split <;> exact h

theorem loseRail_rails (i : Nat) (s : State) : (loseRail i s).rails = (cancelRetry i (toHiz i s)).rails := by
  unfold loseRail
  dsimp only
  split <;> rfl

theorem loseRail_ne (i : Nat) (s : State) (j : Nat) (h : j ≠ i) : (loseRail i s).rail j = s.rail j := by
  rw [rails_rail (loseRail_rails i s), cancelRetry_ne _ _ h, toHiz_ne _ _ h]

theorem loseRail_st {i : Nat} (hu : (s.rail i).st ≠ .unused) : ((loseRail i s).rail i).st = .hiz := by
  rw [rails_rail (loseRail_rails i s)]
  exact (Rail.of_core (cancelRetry_core _ _) Rail.st (fun _ => rfl)).trans (toHiz_rail i s hu).1

theorem keepReact_vioFall (b : Nat) (s : State) : (vioFall b s).keepReact =
    (raise (0x2E + b) s.tsB 0 (s.modBank b fun k => { k with vioOk := false, vioCnt := 0 })).keepReact := by
  rw [vioFall_eq]
  exact (keepReact_each _ _ (fun _ _ => keepReact_modMdac ..) _).trans (keepReact_each _ _ keepReact_loseRail _)

theorem bank_vioFall (b c : Nat) (s : State) :
    (vioFall b s).bank c = if c = b then { s.bank b with vioOk := false, vioCnt := 0 } else s.bank c := by
  rw [banks_bank (keepReact_banks_of (keepReact_vioFall b s)), banks_bank (eventsOnly_raise ..).banks]
  exact State.modBank_bank ..

theorem pending_vioFall {b : Nat} (hb : b < 2) : Pending (0x2E + b) (vioFall b s) := by
  unfold Pending
  rw [keepReact_evt_of (keepReact_vioFall b s)]
  exact pending_raise _ _ _ _ _ (by omega) (.inl rfl)

/-- Every used rail of the bank is in HIZ (R62). -/
theorem vioFall_st {b i : Nat} (hi : i < 96) (hb : bankOf i = b) (hu : (s.rail i).st ≠ .unused) :
    ((vioFall b s).rail i).st = .hiz := by
  have hmdacs : ∀ u, (mdacsOff b u).rails = u.rails := onRails_each _ _ (fun _ _ => onRails_modMdac ..)
  obtain ⟨u, -, hsame, hrail⟩ := each_rail_mem loseRail_ne (bankRails b) (bank_nodup b)
    (raise (0x2E + b) s.tsB 0 (s.modBank b fun k => { k with vioOk := false, vioCnt := 0 })) (fun _ => True)
    (fun _ _ _ => trivial) trivial i (bank_mem hi hb)
  have hs : u.rail i = s.rail i := hsame.trans (rails_rail (eventsOnly_raise ..).rails i)
  rw [vioFall_eq, rails_rail (hmdacs _), hrail]
  exact loseRail_st (hs ▸ hu)

end

end Sys2Proof.Machine

section
open Sys2Proof Sys2Proof.Machine

/-- Settles O4: each happening is one change of its rail; a supply that rises frees the rails of its bank one after another, and
the rails a lost supply has put in HIZ stay there through the reactions (`kept_reactNow`). -/
theorem railPinsAndSupply : Obligations.RailPinsAndSupply := by
  refine ⟨?_, ?_, ?_, ?_, ?_, ?_, ?_⟩
  · intro i s hi hu hv
    obtain ⟨hrail, honly⟩ := pgGood_spec hu hv
    refine completes_onRail hi rfl ?_
    rw [hrail]
    unfold pgGoodRail
    refine ⟨?_, ?_, ?_, ?_, ?_, honly⟩ <;> dsimp only <;> split <;> rfl
  · intro i s hi ho hd hp ha
    refine completes_onRail hi rfl ?_
    rw [assistNow_eq ho hd hp ha]
    exact ⟨by simp, by simp, by simp, onlyRail_modRail _⟩
  · intro i s hi
    exact completes_onRail hi rfl ⟨by simp [minOffNow], by simp [minOffNow], by simp [minOffNow], onlyRail_modRail _⟩
  · intro i c s hi hu
    refine completes_onRail hi rfl ?_
    rw [edgeLatch_eq c hu]
    exact ⟨by simp, by simp, onlyRail_modRail _⟩
  · intro b s hb hp hv
    refine ⟨vioRiseNow b s, rfl, ?_⟩
    have hrise : vioRiseNow b s = vioRise b (s.modBank b fun k => { k with vioCnt := 128 }) := by
      unfold vioRiseNow
      rw [if_pos (by simp [hb, hp, hv])]
    rw [hrise]
    refine ⟨by simp [bank_vioRise], fun c hc => by simp [bank_vioRise, hc], fun i hi => vioRise_rail_ne hi, ?_⟩
    exact fun i hi hbk hz hx hf => vioRise_st hi hbk hz hx hf
  · intro b s hb hv
    refine ⟨vioFallNow b s, rfl, ?_⟩
    have hfall : vioFallNow b s = reactNow (vioFall b s) := by
      unfold vioFallNow
      rw [if_pos (by simp [hb, hv])]
    obtain ⟨hkeep, hhiz⟩ := kept_reactNow (vioFall b s)
    have hbank : ∀ c, (reactNow (vioFall b s)).bank c = (vioFall b s).bank c := banks_bank (keepReact_banks_of hkeep)
    rw [hfall]
    refine ⟨by simp [hbank, bank_vioFall], fun c hc => by simp [hbank, bank_vioFall, hc], ?_, fun i hi hbk hu => ?_⟩
    · unfold Pending
      rw [keepReact_evt_of hkeep]
      exact pending_vioFall hb
    · exact hhiz i (by simp [State.heldOut, State.vioOk, hbk, bank_vioFall]) (vioFall_st hi hbk hu)
  · exact fun i s hi hd => completes_onRail hi rfl (foldNow_spec hd)

end

/-! # The PMBus masters (R87, R88, R136, R493) -/

namespace Sys2Proof.Machine

section
variable {m n : Nat} {s : State}

/-! ## A transaction answered -/

/-- The read of a watcher, answered: its job is over and the watcher holds the byte (R136). -/
theorem pmbDone_watcher {w a : Nat} (v : Nat) {q : List PmbJob}
    (hq : tget [] s.pmb m = { use := .watcher n, addr := a, ops := [.readByte w], sent := true } :: q) :
    pmbDone m (.data v) s = { s with pmb := tset [] s.pmb m q }.modWatch n fun x =>
      { x with value := v % 256, valid := true, stale := false, age := 0 } := by
  unfold pmbDone
  rw [hq]
  simp [opAcked, pmbEnd]

theorem opAcked_nack (op : PmbOp) : opAcked op .nack = none := by
  cases op with
  | operation code got => cases got <;> rfl
  | _ => rfl

/-- A transaction refused for the first or second time waits to be attempted again (R87). -/
theorem pmbDone_nack {j : PmbJob} {q : List PmbJob} (hq : tget [] s.pmb m = j :: q) (hs : j.sent = true) (ho : j.ops ≠ [])
    (ht : j.tries < 2) : pmbDone m .nack s =
      { s with pmb := tset [] s.pmb m ({ j with tries := j.tries + 1, sent := false } :: q) } := by
  obtain ⟨op, l, hops⟩ := List.exists_cons_of_ne_nil ho
  unfold pmbDone
  rw [hq]
  simp [hs, hops, opAcked_nack, ht]

/-! ## A watcher polls -/

/-- The read that watcher n queues (R136). -/
def pollJob (n : Nat) (s : State) : PmbJob :=
  let w := s.cw (0x4300 + 8 * n)
  { use := .watcher n, addr := fld w 8 2, pec := bit w 31, ops := pageOp (fld w 16 9) ++ [.readByte (fld w 24 17)] }

/-- A watcher that is used and due queues its read and waits for its period (R136). -/
theorem watchPoll_due (hp : fld (s.cw (0x4300 + 8 * n)) 30 25 ≠ 0) (hn : (s.watch n).next = 0) :
    watchPoll n s = pmbPush (fld (s.cw (0x4300 + 8 * n)) 1 0) (pollJob n s)
      ((s.modWatch n fun x => { x with stale := x.stale || decide (2 * fld (s.cw (0x4300 + 8 * n)) 30 25 ≤ x.age) }).modWatch n
        fun x => { x with next := fld (s.cw (0x4300 + 8 * n)) 30 25 }) := by
  unfold watchPoll
  dsimp only
  rw [if_neg hp, if_pos (by simpa using hn)]
  rfl

theorem watchPoll_spec (hp : fld (s.cw (0x4300 + 8 * n)) 30 25 ≠ 0) (hn : (s.watch n).next = 0) :
    tget [] (watchPoll n s).pmb (fld (s.cw (0x4300 + 8 * n)) 1 0) =
        tget [] s.pmb (fld (s.cw (0x4300 + 8 * n)) 1 0) ++ [pollJob n s] ∧
      ((watchPoll n s).watch n).next = fld (s.cw (0x4300 + 8 * n)) 30 25 ∧
      (∀ k, k ≠ n → (watchPoll n s).watch k = s.watch k) ∧
      watchPoll n s = { s with pmb := (watchPoll n s).pmb, watches := (watchPoll n s).watches } := by
  rw [watchPoll_due hp hn]
  refine ⟨?_, ?_, fun k hk => ?_, ?_⟩
  · simp [pmbPush]
  · simp [pmbPush, State.watch, State.modWatch]
  · simp [pmbPush, State.watch, State.modWatch, tget_tmod_ne, hk]
  · unfold pmbPush State.modWatch
    rfl

/-! ## T2.2 -/

/-- The next transaction of one master is put on its bus (R53, R87). -/
def serveMaster (m : Nat) (s : State) : State :=
  match tget [] s.pmb m with
  | j :: q =>
    (match j.ops with
    | op :: _ =>
      if j.sent then s
      else emit (.pmbus m j.addr j.pec op) { s with pmb := tset [] s.pmb m ({ j with sent := true } :: q) }
    | [] => s)
  | [] => s

theorem pmbService_eq (s : State) : pmbService s = each [0, 1, 2, 3] serveMaster s := rfl

/-- A master with nothing to put on its bus does nothing; any other sends what stands in front (R87). -/
theorem serveMaster_cases (m : Nat) (s : State) : serveMaster m s = s ∨ ∃ o l,
    serveMaster m s = emit o { s with pmb := tset [] s.pmb m l } := by
  unfold serveMaster
  split
  · split
    · split
      · exact .inl rfl
      · exact .inr ⟨_, _, rfl⟩
    · exact .inl rfl
  · exact .inl rfl

theorem serveMaster_sends {j : PmbJob} {q : List PmbJob} {op : PmbOp} {l : List PmbOp} (hq : tget [] s.pmb m = j :: q)
    (ho : j.ops = op :: l) (hs : j.sent = false) : serveMaster m s =
      emit (.pmbus m j.addr j.pec op) { s with pmb := tset [] s.pmb m ({ j with sent := true } :: q) } := by
  unfold serveMaster
  simp [hq, ho, hs]

theorem engs_serveMaster (m : Nat) (s : State) : (serveMaster m s).engs = s.engs := by
  obtain h | ⟨o, l, h⟩ := serveMaster_cases m s <;> rw [h]
  rfl

theorem pmb_serveMaster_ne {k : Nat} (h : k ≠ m) (s : State) : tget [] (serveMaster k s).pmb m = tget [] s.pmb m := by
  obtain e | ⟨o, l, e⟩ := serveMaster_cases k s <;> rw [e]
  exact tget_tset_ne _ _ _ h.symm

theorem out_serveMaster (k : Nat) {o : Out} (h : o ∈ s.out) : o ∈ (serveMaster k s).out := by
  obtain e | ⟨o', l, e⟩ := serveMaster_cases k s <;> rw [e]
  · exact h
  · exact List.mem_cons_of_mem _ h

theorem pmb_serveMasters (l : List Nat) (h : m ∉ l) (s : State) : tget [] (each l serveMaster s).pmb m = tget [] s.pmb m := by
  unfold each
  induction l generalizing s with
  | nil => rfl
  | cons k l ih =>
    rw [List.mem_cons, not_or] at h
    exact (ih h.2 _).trans (pmb_serveMaster_ne (Ne.symm h.1) s)

theorem out_serveMasters (l : List Nat) {o : Out} (h : o ∈ s.out) : o ∈ (each l serveMaster s).out := by
  unfold each
  induction l generalizing s with
  | nil => exact h
  | cons k l ih => exact ih (out_serveMaster k h)

/-- T2.2 sends the transaction in front of every master that has one to put on its bus (R53, R87). -/
theorem pmbService_sends {j : PmbJob} {q : List PmbJob} {op : PmbOp} {l : List PmbOp} (hm : m < 4)
    (hq : tget [] s.pmb m = j :: q) (ho : j.ops = op :: l) (hs : j.sent = false) :
    tget [] (pmbService s).pmb m = { j with sent := true } :: q ∧
      .pmbus m j.addr j.pec op ∈ (pmbService s).out := by
  have hmem : m ∈ [0, 1, 2, 3] := List.mem_range.mpr hm
  obtain ⟨before, behind, hl⟩ := List.append_of_mem hmem
  have hnodup : (before ++ m :: behind).Nodup := hl ▸ (by decide)
  rw [List.nodup_middle, List.nodup_cons, List.mem_append, not_or] at hnodup
  obtain ⟨⟨hbefore, hbehind⟩, -⟩ := hnodup
  have hsplit : pmbService s = each behind serveMaster (serveMaster m (each before serveMaster s)) := by
    rw [pmbService_eq, hl]
    simp [each]
  have hfront : tget [] (each before serveMaster s).pmb m = j :: q := (pmb_serveMasters before hbefore s).trans hq
  rw [hsplit, serveMaster_sends hfront ho hs]
  refine ⟨?_, out_serveMasters behind (List.mem_cons_self ..)⟩
  rw [pmb_serveMasters behind hbehind]
  simp [emit]

theorem engs_pmbService (s : State) : (pmbService s).engs = s.engs := each_keep State.engs engs_serveMaster _ s

end

end Sys2Proof.Machine

/-! # The verification of a margin (R89, R90, R103) -/

namespace Sys2Proof.Machine

section
variable {m : MOp} {s : State}

theorem margins_marginPut (new : Option MOp) (h : s.seq.margins = [m]) : (marginPut m new s).seq.margins = new.toList := by
  simp [marginPut, h]

theorem marginPut_rail (new : Option MOp) (i : Nat) : (marginPut m new s).rail i = s.rail i := rfl

theorem pending_marginPut (new : Option MOp) {src : Nat} (h : Pending src s) : Pending src (marginPut m new s) := h

theorem settleNow_one {i n : Nat} (h : s.seq.margins = [m]) (hr : m.rail = s.grail i) (hp : m.phase = .settle n) :
    settleNow i s = marginPut m (some { m with phase := .average 32 0 0 }) s := by
  have hfind : s.seq.margins.find? (settling (s.grail i)) = some m := by simp [h, settling, hr, hp]
  unfold settleNow
  rw [hfind]

theorem verifyNow_one {i l n : Nat} {sum : Int} (h : s.seq.margins = [m]) (hr : m.rail = s.grail i)
    (hp : m.phase = .average l n sum) : verifyNow i s = marginJudge m n sum s := by
  have hfind : s.seq.margins.find? (averaging (s.grail i)) = some m := by simp [h, averaging, hr, hp]
  unfold verifyNow
  rw [hfind]
  simp only [hp]

/-- An average within the tolerance ends a margin that nobody waits for; a return to nominal ends its commitment too (R90,
R179). -/
theorem marginJudge_within {n : Nat} {sum : Int} (hn : n ≠ 0)
    (hd : ((4 : Int) * sum - ((n * m.vexp : Nat) : Int)).natAbs ≤ n * m.tol) (ho : m.owner = .none) :
    marginJudge m n sum s = marginPut m none (if m.dir = 0 then commitEnd (.margin m.rail) s else s) := by
  simp only [marginJudge, orDef, if_neg hn, if_pos hd, marginEnd, marginTell, ho]

/-- An average outside the tolerance is counted and raised, and the margin returns to nominal (R90). -/
theorem marginJudge_outside {n : Nat} {sum : Int} (hn : n ≠ 0)
    (hd : n * m.tol < ((4 : Int) * sum - ((n * m.vexp : Nat) : Int)).natAbs) (ho : m.owner = .none) :
    marginJudge m n sum s = marginPut m none (marginNominal (m.rail % 96) (raise 0x33 s.tsB
      (detM m.rail m.mdac m.pmb (toBits 16 ((4 * sum).fdiv n)) m.vexp false 0) (countUp (m.rail % 96) 5 1 s))) := by
  simp only [marginJudge, orDef, if_neg hn, if_neg (Nat.not_le.mpr hd), marginEnd, marginTell, ho]

theorem seq_marginNominal (i : Nat) (s : State) : (marginNominal i s).seq = s.seq := by
  unfold marginNominal
  dsimp only
  split <;> split <;> simp [commitEnd, pmbNominal, pmbPush, mdacTarget]

theorem marginNominal_margin (i : Nat) (s : State) : ((marginNominal i s).rail i).margin = 0 := by
  unfold marginNominal
  dsimp only
  rw [commitEnd_rail, State.modRail_rail_same]

theorem pending_marginNominal (i : Nat) {src : Nat} (h : Pending src s) : Pending src (marginNominal i s) := by
  unfold Pending
  rw [keepReact_evt_of (keepReact_marginNominal i s)]
  exact h

theorem grail_mod {i : Nat} (hi : i < 96) (s : State) : s.grail i % 96 = i := by
  rw [State.grail, Nat.mul_add_mod, Nat.mod_eq_of_lt hi]

end

end Sys2Proof.Machine

section
open Sys2Proof Sys2Proof.Machine

/-- Settles O19: the answers by `pmbDone_watcher` and `pmbDone_nack`, T2.2 by `pmbService_sends`, the margins by what ends a
margin nobody waits for (`marginJudge_within`, `marginJudge_outside`). -/
theorem pmbusAndMargins : Obligations.PmbusAndMargins := by
  refine ⟨?_, ?_, ?_, ?_, ?_, ?_, ?_⟩
  · intro m w a v q n s hq
    refine ⟨pmbDone m (.data v) s, rfl, ?_⟩
    rw [pmbDone_watcher v hq]
    exact ⟨by simp, by simp, by simp, by simp, fun k hk => by rw [State.modWatch_watch, if_neg hk]; rfl, rfl⟩
  · intro m j q s hq hs ho ht
    refine ⟨pmbDone m .nack s, rfl, ?_⟩
    rw [pmbDone_nack hq hs ho ht]
    exact ⟨by simp, rfl⟩
  · intro n s hn hp
    refine ⟨watchPoll n (s.modWatch n fun x => { x with next := 0 }), congrArg Next (if_pos hn), ?_⟩
    obtain ⟨hqueue, hnext, hne, hrest⟩ := watchPoll_spec (s := s.modWatch n fun x => { x with next := 0 }) hp (by simp)
    exact ⟨⟨_, hqueue, rfl, rfl⟩, hnext, fun k hk => by rw [hne k hk, State.modWatch_watch, if_neg hk], hrest⟩
  · intro m j q op l cyc s hm hr hq ho hs
    obtain ⟨hqueue, hout⟩ := pmbService_sends hm hq ho hs
    have honly := eventsOnly_taskRun (n := busyMasters s) (f := pmbService) hr
    refine ⟨taskRun 2 1 (busyMasters s) cyc pmbService s, rfl, taskRan_taskRun hr ?_, ?_, ?_⟩
    · exact congrArg (fun e : Tbl Eng => (tget {} e 2).used) (engs_pmbService s)
    · rw [honly.pmb]; exact hqueue
    · rw [honly.out]; exact hout
  · intro i n m s hi h hr hp
    refine completes_onRail hi rfl ?_
    rw [settleNow_one h hr hp]
    exact ⟨margins_marginPut _ h, rfl⟩
  · intro i l n sum m s hi h hr hp hn hd ho
    refine completes_onRail hi rfl ?_
    rw [verifyNow_one h hr hp, marginJudge_within hn hd ho]
    split <;> exact ⟨margins_marginPut none h, rfl, rfl⟩
  · intro i l n sum m s hi h hr hp hn hd ho
    refine completes_onRail hi rfl ?_
    rw [verifyNow_one h hr hp, marginJudge_outside hn hd ho, hr, grail_mod hi]
    refine ⟨margins_marginPut none ?_, ?_, ?_⟩
    · rw [seq_marginNominal, (eventsOnly_raise ..).seq]
      exact h
    · rw [marginPut_rail, marginNominal_margin]
    · exact pending_marginPut none (pending_marginNominal i (pending_raise _ _ _ _ _ (by decide) (.inl rfl)))

end

/-! # The actions of BAR0 and the lock (R132, R170, R263, R292, R293, R315) -/

namespace Sys2Proof.Machine

/-! ## The lock -/

theorem hst_jAppend (e : JEntry) (s : State) : (jAppend e s).hst = s.hst := by
  unfold jAppend pairJournal
  dsimp only
  split <;> rfl

theorem next_jAppend (e : JEntry) (s : State) : (jAppend e s).jrn.next = s.jrn.next + 1 := rfl

section
variable (v : W32) (s : State)

/-- GLB_LOCK has no RWS and no W1C bit: a write of it is its action alone (R8, R292). -/
theorem barWrite_lock (cyc : Nat) : barWrite 0x10 v cyc s = lockWrite v s := by
  have hkey : regKey s.cnv.cblk 0x10 = 0x10 := if_neg (by decide)
  have hmask : rwsMask (regKey s.cnv.cblk 0x10) = 0 := by
    rw [hkey]
    decide
  have hset : writeSetup 0x10 v cyc s = s := if_pos (by rw [hmask, merge_zero])
  rw [barWrite, hset]
  rfl

/-- The entry of a lock that has gone to open (1) or closed (0) (R293, R315). -/
def lockEntry (r : Nat) : JEntry := { opcode := 0x80, src := 1, digest := 0, result := r, status := stOk }

/-- The lock goes to the given state. -/
def State.lockTo (s : State) (n : Nat) : State := { s with hst := { s.hst with lock := n } }

theorem lockWrite_opens (h : s.hst.lock = 2) (hv : bit v 0 = true) (hk : fld v 15 8 = 0xA5) :
    lockWrite v s = jAppend (lockEntry 1) (s.lockTo 1) := by
  simp only [lockWrite, h, hv, hk]
  rfl

theorem lockWrite_closes (h : s.hst.lock = 1) (hv : bit v 0 = false) :
    lockWrite v s = jAppend (lockEntry 0) (s.lockTo 2) := by
  simp only [lockWrite, h, hv]
  rfl

/-- The lock stays in state 0, without the key, and where it is closed already (R292). -/
theorem lockWrite_stays (h : s.hst.lock = 0 ∨ (s.hst.lock = 2 ∧ bit v 0 = false) ∨ (bit v 0 = true ∧ fld v 15 8 ≠ 0xA5)) :
    lockWrite v s = s := by
  rcases h with h | ⟨h, hv⟩ | ⟨hv, hk⟩
  · simp [lockWrite, h]
  · simp [lockWrite, h, hv]
  · simp [lockWrite, hv, hk]

/-- A lock that was never written opens by itself where the link is up (R292, R293). -/
theorem lockAutoOpen_opens (hr : s.pwr.phase = .run) (h : s.hst.lock = 0) (hl : s.hst.linkUp = true) :
    lockAutoOpen s = jAppend (lockEntry 1) (s.lockTo 1) :=
  if_pos (by simp [State.running!, hr, h, hl])

/-- What the entry of a lock's change leaves: the lock's state, and the set-up words. -/
theorem lock_jAppend (e : JEntry) (n : Nat) (s : State) :
    (jAppend e (s.lockTo n)).hst.lock = n ∧ (jAppend e (s.lockTo n)).jrn.head = s.nextSeq ∧
      (jAppend e (s.lockTo n)).cfg = s.cfg ∧ (jAppend e (s.lockTo n)).bar0 = s.bar0 := by
  have hset := setUps_jAppend e (s.lockTo n)
  exact ⟨congrArg Hst.lock (hst_jAppend e (s.lockTo n)), rfl, (congrArg (·.2.1) hset :), (congrArg (·.1) hset :)⟩

end

/-! ## The actions -/

section
variable {k o : Nat} (v : W32) (s : State)

/-- The low bits of a number in a word that holds them. -/
theorem nbits_ofNat {w hi : Nat} (h : hi < w) (n : Nat) : nbits (BitVec.ofNat w n).toNat hi 0 = n % 2 ^ (hi + 1) := by
  rw [nbits, BitVec.toNat_ofNat, Nat.shiftRight_zero, Nat.sub_zero, Nat.mod_mod_of_dvd _ (pow_dvd_pow 2 h)]

/-- An action of BAR0 has its journal entry and waits among the decided commands for order 6 (R44, R315). -/
theorem decided_barAction (hk : k < 2 ^ 16) :
    ∃ l, (barAction k o v s).hst.decided = s.hst.decided ++ [l] ∧ l.seq = s.nextSeq ∧ l.d.opcode = 0x81 ∧
      l.d.arg 15 0 = k := by
  refine ⟨_, congrArg (fun h : Hst => h.decided ++ _) (hst_jAppend _ s), rfl, rfl, ?_⟩
  rw [Desc.arg, nbits_ofNat (by decide), put, Nat.shiftLeft_eq]
  omega

theorem head_barAction : (barAction k o v s).jrn.head = s.nextSeq := head_jAppend _ s

/-- Until order 6 an action has changed only what belongs to the commands taken (R44). -/
theorem offTaking_barAction : (barAction k o v s).offTaking = s.offTaking := offTaking_jAppend _ s

/-- COMMIT marks its stage alone, and is an action (R263). -/
theorem loadWrite_commits {st : Nat} (hv : bit v 0 = true) :
    loadWrite st v s = barAction (4 + st) (sbase st + 0x40) v (s.modStg st fun x => { x with pending := true }) :=
  if_pos hv

theorem stg_loadWrite {st : Nat} (hv : bit v 0 = true) :
    ((loadWrite st v s).stg st).pending = true ∧ (∀ j, j ≠ st → (loadWrite st v s).stg j = s.stg j) ∧
      (loadWrite st v s).coef = s.coef := by
  have hkeep := offTaking_barAction (k := 4 + st) (o := sbase st + 0x40) v (s.modStg st fun x => { x with pending := true })
  rw [← loadWrite_commits v s hv] at hkeep
  have hstg : (loadWrite st v s).stg = (s.modStg st fun x => { x with pending := true }).stg :=
    (congrArg State.stg hkeep :)
  refine ⟨?_, fun j hj => ?_, (congrArg State.coef hkeep :)⟩
  · rw [hstg, State.modStg_stg_same]
  · rw [hstg, State.modStg_stg, if_neg hj]

end

end Sys2Proof.Machine

section
open Sys2Proof Sys2Proof.Machine

/-- Settles O28: the lock and the actions of BAR0. -/
theorem barActions : Obligations.BarActions := by
  refine ⟨fun v cyc s h hv hk => ?_, fun v cyc s h hv => ?_, fun v cyc s h => ?_, fun v s hv => ?_, fun v s hv => ?_,
    fun v s hv => ?_, fun st v s hst hv => ?_, fun e v s he hv => ?_, fun v s h1 h0 h31 => ?_, fun s hr h hl => ?_⟩
  · refine ⟨_, rfl, ?_⟩
    rw [barWrite_lock, lockWrite_opens v s h hv hk]
    exact lock_jAppend ..
  · refine ⟨_, rfl, ?_⟩
    rw [barWrite_lock, lockWrite_closes v s h hv]
    exact lock_jAppend ..
  · exact ⟨_, rfl, (barWrite_lock ..).trans (lockWrite_stays v s h)⟩
  · refine ⟨_, rfl, ?_⟩
    rw [show abortWrite v s = barAction 0 0x4000 v s from if_pos hv]
    exact ⟨head_barAction v s, decided_barAction v s (by decide), (congrArg State.seq (offTaking_barAction (k := 0) (o := 0x4000) v s) :)⟩
  · refine ⟨_, rfl, ?_⟩
    rw [show ffWrite v s = barAction 1 0x5600 v s from if_pos hv]
    exact ⟨head_barAction v s, decided_barAction v s (by decide), (congrArg State.flt (offTaking_barAction (k := 1) (o := 0x5600) v s) :)⟩
  · refine ⟨_, rfl, ?_⟩
    rw [show relWrite v s = barAction 2 0x5600 v s from if_pos hv]
    exact ⟨head_barAction v s, decided_barAction v s (by decide), (congrArg State.flt (offTaking_barAction (k := 2) (o := 0x5600) v s) :)⟩
  · obtain ⟨hpend, hother, hcoef⟩ := stg_loadWrite v s (st := st) hv
    refine ⟨_, congrArg Host.Outcome.next (if_pos hst), hpend, ?_, hcoef, hother, ?_⟩
    · rw [loadWrite_commits v s hv]
      exact head_barAction v _
    · rw [loadWrite_commits v s hv]
      exact decided_barAction v _ (by omega)
  · refine ⟨_, congrArg Host.Outcome.next ((if_pos he).trans (if_pos hv)), ?_, fun j hj => ?_, rfl⟩
    · rw [State.modEng_eng_same]
    · rw [State.modEng_eng, if_neg hj]
  · exact ⟨⟨_, rfl, if_neg (by simp [h1])⟩, ⟨_, rfl, if_neg (by simp [h0])⟩, ⟨_, rfl, if_neg (by simp [h1])⟩,
      ⟨_, rfl, (if_pos (by decide)).trans (if_neg (by simp [h0]))⟩,
      ⟨_, rfl, (if_pos (by decide)).trans (if_neg (by simp [h31]))⟩⟩
  · refine ⟨_, rfl, ?_⟩
    rw [lockAutoOpen_opens s hr h hl]
    exact ⟨(lock_jAppend ..).1, next_jAppend _ _⟩

end

/-! # Timers of programs and the end of a commitment (R102, R104, R105, R108, R179) -/

namespace Sys2Proof.Machine

/-! ## A step fetched from a word that can be read (R27, R105) -/

/-- The state without the word code. -/
def State.offWc (s : State) : State := { s with wc := {} }

theorem offWc_wordErr (ts : Ts) (st a : Nat) (o : WcOut) (s : State) : (wordErr ts st a o s).offWc = s.offWc := by
  cases o <;> rfl

/-- A read of a word touches the word code alone. -/
theorem offWc_readWord (ts : Ts) (st a : Nat) (s : State) : (readWord ts st a s).2.offWc = s.offWc := by
  obtain ⟨-, hr | hr⟩ := readWord_eq ts st a s
  · rw [hr, offWc_wordErr]
  · rw [hr]
    exact offWc_wordErr ..

/-- An on-table word that can be read is read there, and its mirror is left alone (R27). -/
theorem readTable_reads {a : Nat} {s : State} (h : s.wordOut 0x11 a ≠ .uncorrectable) :
    (readTable a s).1 = true ∧ (readTable a s).2.offWc = s.offWc := by
  have hr : (readWord s.tsB 0x11 a s).1 ≠ .uncorrectable := by rwa [(readWord_eq ..).1]
  have ht : readTable a s = (true, (readWord s.tsB 0x11 a s).2) := by
    unfold readTable
    exact if_pos hr
  rw [ht]
  exact ⟨rfl, offWc_readWord ..⟩

/-- A valid step without an extension that is no ENABLE, in a word that can be read, becomes the program's only item. -/
theorem fetchAt_single {i : Nat} {s : State} (n old : Nat) (h1 : 768 ≤ i) (h2 : i ≤ 8191) (h3 : opOf (s.entryAt i) ≠ 2)
    (h4 : hasExt (s.entryAt i) = false) (h5 : stepOk s (s.entryAt i) = true) (hw : s.wordOut 0x11 (i / 4) ≠ .uncorrectable) :
    ∃ u : State, u.offWc = s.offWc ∧ fetchAt n old i s =
      u.modProg n fun p => { p with items := [newItem s i], step := i, next := i + 1 } := by
  obtain ⟨hread, hoff⟩ := readTable_reads hw
  have hentry : (readTable (i / 4) s).2.entryAt i = s.entryAt i := (congrArg (State.entryAt · i) hoff :)
  have hnew : newItem (readTable (i / 4) s).2 i = newItem s i := (congrArg (newItem · i) hoff :)
  have hok : stepOk (readTable (i / 4) s).2 (s.entryAt i) = true := (congrArg (stepOk · (s.entryAt i)) hoff :).trans h5
  refine ⟨_, hoff, ?_⟩
  rw [retire_fetch n old i s h1 h2 h3 h4 hread (hentry ▸ hok) (hentry ▸ h4), hnew]

/-! ## What order 4 judges after it (R94, R108) -/

/-- Behind a change of the programs DOMAIN is judged and the programs that ended are told of; the programs stay. -/
theorem prog_judged {m : Nat} (hm : m < 64) (f : State → State) (s : State) :
    (judged f s).prog m = { (f s).prog m with untold := false } := by
  rw [judged_prog, progsTell_prog hm, progs_prog ((seqProgs_sysrstUp ..).trans (seqProgs_judgeDomain _))]

/-! ## A DELAY (R102, R105) -/

/-- A DELAY whose count has run out retires, and has nothing else to do. -/
theorem runStep_delay {it : Item} (hop : opOf it.w = 5) (hl : it.left = 0) (n : Nat) (s : State) :
    (runStep n it s).1 = retireNext n s := by
  have hmember : stepMember it.w = none := by simp [stepMember, hop]
  have hexam : examine n it s = .retire := by simp [examine, hop, hl]
  have hacts : retireActs n it s = s := by simp [retireActs, hop]
  unfold runStep
  rw [hmember, hexam, hacts]
  rfl

/-- The program whose DELAY has run out holds the step behind it; no other program changes. -/
theorem prog_delayNow {n : Nat} {it : Item} {s : State} (hst : (s.prog n).state = 1) (hit : (s.prog n).items = [it])
    (hop : opOf it.w = 5) (h1 : 768 ≤ (s.prog n).next) (h2 : (s.prog n).next ≤ 8191)
    (h3 : opOf (s.entryAt (s.prog n).next) ≠ 2) (h4 : hasExt (s.entryAt (s.prog n).next) = false)
    (h5 : stepOk s (s.entryAt (s.prog n).next) = true) (hw : s.wordOut 0x11 ((s.prog n).next / 4) ≠ .uncorrectable) (m : Nat) :
    (delayNow n s).prog m = if m = n then { s.prog n with
      items := [newItem s (s.prog n).next], step := (s.prog n).next, next := (s.prog n).next + 1, deferred := false }
      else s.prog m := by
  have hdelay : delayNow n s = retireNext n (modItem n it.idx (fun _ => { it with left := 0 }) s) := by
    unfold delayNow
    rw [hit]
    dsimp only [List.head?_cons]
    rw [if_pos (by simp [hst, hop])]
    exact runStep_delay (it := { it with left := 0 }) hop rfl n _
  have hnext : ((modItem n it.idx (fun _ => { it with left := 0 }) s).prog n).next = (s.prog n).next := by
    rw [modItem, State.modProg_prog_same]
  rw [hdelay, retireNext, hnext]
  obtain ⟨u, hu, hf⟩ := fetchAt_single n ((modItem n it.idx (fun _ => { it with left := 0 }) s).prog n).current h1 h2
    (s := (modItem n it.idx (fun _ => { it with left := 0 }) s).modProg n fun p => { p with items := [], deferred := false })
    h3 h4 h5 hw
  have hprog (j : Nat) : u.prog j = if j = n then { s.prog n with items := [], deferred := false } else s.prog j := by
    have := congrArg (State.prog · j) hu
    refine (this :).trans ?_
    change (State.modProg n _ _).prog j = _
    rw [State.modProg_prog, modItem, State.modProg_prog_same, State.modProg_prog]
    split <;> rfl
  rw [hf, State.modProg_prog, hprog n, if_pos rfl]
  split
  · rfl
  · next hm => rw [hprog, if_neg hm]

/-! ## A deadline (R102, R104, R108) -/

/-- A WAIT whose deadline runs out while its condition is false ends its program where ONFAIL is ABORT; only a program that is
part of no stack is spoken of. -/
theorem deadlineNow_wait {n d : Nat} {it : Item} {s : State} (hst : (s.prog n).state = 1) (hit : (s.prog n).items = [it])
    (hop : opOf it.w = 4) (hd : it.deadline = some d) (hc : condTrue s (nbits it.w 31 0) = false) (hf : onFail it.w = false)
    (hr : s.role = 0) :
    deadlineNow n s = progEnd n 5 it.idx (s.modProg n fun p => { p with items := p.items.map expireItem }) := by
  set u := s.modProg n fun p => { p with items := p.items.map expireItem } with hu
  have hitems : (u.prog n).items = [expireItem it] := by rw [hu, State.modProg_prog_same, hit]; rfl
  have hcond : condTrue u (nbits it.w 31 0) = false := hc
  have hmember : (stepMember it.w).filter (memberLost u) = none := by
    have hlost (m : Nat) : memberLost u m = false := by
      have hrole : u.role = 0 := hr
      simp [memberLost, hrole]
    simp [Option.filter_eq_none_iff, hlost]
  have hexam : examine n (expireItem it) u = .fail 5 false := by
    simp [examine, expireItem, expired, hop, hcond, hd]
  have hrun : runProg n 32 u = runStep n (expireItem it) u := by
    unfold runProg
    simp [hitems, expireItem, hop]
  have hstep : runStep n (expireItem it) u = (progEnd n 5 it.idx u, 0) := by
    have hm : (stepMember (expireItem it).w).filter (memberLost u) = none := hmember
    have hfail : onFail (expireItem it).w = false := hf
    unfold runStep
    rw [hm, hexam]
    simp [failStep, hfail]
    rfl
  unfold deadlineNow
  rw [if_pos (by simp [hst, hit, hd]), ← hu, hrun, hstep]

/-! ## Commitments (R179) -/

theorem mem_commitEnd (k : CKey) (s : State) (c : Commit) :
    c ∈ (commitEnd k s).drt.commits ↔ c ∈ s.drt.commits ∧ c.key ≠ k := by
  simp [commitEnd]

end Sys2Proof.Machine

section
open Sys2Proof Sys2Proof.Machine

/-- Settles O7: the programs behind a DELAY (`prog_delayNow`) and a deadline (`deadlineNow_wait`) that have run out, and the
commitments left. -/
theorem programTimersAndCommitments : Obligations.ProgramTimersAndCommitments := by
  refine ⟨fun n it s hn hst hit hop h1 h2 h3 h4 h5 hw => ?_, fun n it d s hn hst hit hop hd hc hf hr => ?_, fun k s => ?_⟩
  · have hprog := prog_delayNow hst hit hop h1 h2 h3 h4 h5 hw
    refine ⟨_, congrArg Host.Outcome.next (if_pos hn), ?_⟩
    beta_reduce
    have hself := (prog_judged hn (delayNow n) s).trans (congrArg (fun p : Prog => { p with untold := false })
      ((hprog n).trans (if_pos rfl)))
    rw [hself]
    refine ⟨hst, rfl, rfl, rfl, fun m hm hne => ?_⟩
    rw [prog_judged hm, hprog, if_neg hne]
  · refine ⟨_, congrArg Host.Outcome.next (if_pos hn), ?_⟩
    beta_reduce
    have hprog (m : Nat) (hm : m < 64) := (prog_judged hm (deadlineNow n) s).trans (congrArg (fun u : State =>
      { u.prog m with untold := false }) (deadlineNow_wait hst hit hop hd hc hf hr))
    rw [hprog n hn, progEnd_prog, if_pos rfl]
    refine ⟨rfl, rfl, rfl, rfl, fun m hm hne => ?_⟩
    rw [hprog m hm, progEnd_prog, if_neg hne, State.modProg_prog, if_neg hne]
  · exact ⟨_, rfl, mem_commitEnd k s, rfl⟩

end

/-! # The off-sequencer (R94, R95, R115, R116, R118) -/

namespace Sys2Proof.Machine

/-! ## The off-table as the walk reads it (R27, R112) -/

section
variable {s t : State}

/-- A read changes no word's readability: what could be corrected reads clean afterwards (R23). -/
theorem wordOk_readWord {st st' : Nat} (h' : st' ≠ 0x18) (a a' : Nat) (ts : Ts) (s : State) :
    (readWord ts st a s).2.wordOk st' a' = s.wordOk st' a' := by
  by_cases hk : wkey st' a' = wkey st a
  · have hout : s.wordOut st' a' = wcError (tget 0 s.wc.err (wkey st a)) := by rw [State.wordOut, if_neg h', hk]
    unfold readWord
    dsimp only
    cases ho : s.wordOut st a with
    | corrected b =>
      dsimp only
      split
      · next hst =>
        have hcor : s.wordOut st' a' = .corrected b := by rw [hout, ← ho, State.wordOut, if_neg (by omega)]
        have herr : tget 0 (wcWritten st a (wordErr ts st a (.corrected b) s)).wc.err (wkey st' a') = 0 := by
          rw [hk, wcWritten, tget_tset_same]
        have hnew : (wcWritten st a (wordErr ts st a (.corrected b) s)).wordOut st' a' = .clean := by
          rw [State.wordOut, if_neg h', herr]
          exact if_pos rfl
        simp [State.wordOk, hcor, hnew]
      · exact wordOk_sram h' a' (by rw [err_wordErr])
    | _ => exact wordOk_sram h' a' (by rw [err_wordErr])
  · exact wordOk_sram h' a' (err_readWord hk ts s)

/-- Where the table and the readability of its copies agree, its entries do. -/
theorem offAt_congr (ht : t.off.table = s.off.table) (h : ∀ st a, st ≠ 0x18 → t.wordOk st a = s.wordOk st a) :
    t.offAt = s.offAt := by
  have hlost : offLost t = offLost s := funext fun a => by
    rw [offLost, h 0x14 a (by decide), h 0x15 a (by decide), offLost]
  funext i
  rw [State.offAt, hlost, ht, State.offAt]

/-- The sequencer's read of an entry touches the word code, and what it remembers of lost words. -/
theorem offRead_parts (i : Nat) (s : State) :
    (∃ b, (offRead i s).offWc = State.offWc { s with off := { s.off with skipped := b } }) ∧ (offRead i s).offAt = s.offAt := by
  have hword (st a : Nat) (u : State) : (readWord u.tsB st a u).2.off = u.off :=
    (congrArg State.off (offWc_readWord u.tsB st a u) :)
  have hread (u : State) (st a : Nat) : (readWord u.tsB st a u).2.offAt = u.offAt :=
    offAt_congr (by rw [hword]) fun st' a' h' => wordOk_readWord h' ..
  unfold offRead
  split
  · exact ⟨⟨s.off.skipped, rfl⟩, rfl⟩
  · extract_lets r q
    have hr := offWc_readWord s.tsB 0x14 (i / 4) s
    split
    · exact ⟨⟨s.off.skipped, hr⟩, hread s 0x14 _⟩
    · have hq : q.2.offWc = s.offWc := (offWc_readWord s.tsB 0x15 (i / 4) r.2).trans hr
      have htab : q.2.offAt = s.offAt := by
        have h1 : r.2.offAt = s.offAt := hread s 0x14 _
        refine Eq.trans (offAt_congr ?_ fun st' a' h' => wordOk_readWord h' ..) h1
        exact (congrArg (fun u => u.off.table) (offWc_readWord s.tsB 0x15 (i / 4) r.2) :)
      split
      · exact ⟨⟨s.off.skipped, hq⟩, htab⟩
      · refine ⟨⟨true, ?_⟩, htab⟩
        exact (congrArg (fun u : State => { u with off := { u.off with skipped := true } }) hq :)

theorem classEntries_congr (h : t.offAt = s.offAt) (f i : Nat) : classEntries t f i = classEntries s f i := by
  induction f generalizing i with
  | zero => rfl
  | succ f ih => simp only [classEntries, h, ih]

theorem nextClass_congr (h : t.offAt = s.offAt) (i : Nat) : nextClass t i = nextClass s i := by
  rw [nextClass, classEntries_congr h, nextClass]

theorem offAt_events (h : EventsOnly s t) : t.offAt = s.offAt := by
  refine offAt_congr (by rw [h.off]) fun st a hst => ?_
  exact wordOk_sram hst a (by rw [h.wc])

/-! ## The next class opens (R115; log 80) -/

/-- At a CLASS entry the class opens and its LIMIT counts from there. -/
theorem openClass_class {i : Nat} (h : opOf (s.offAt i) = 0x22) : ∃ (u : State) (b : Bool), u.offWc = s.offWc ∧
    openClass i s = { u with off := { s.off with
      skipped := b, cls := nbits (s.offAt i) 57 55, opened := true, pos := i + 1, pause := 0
      limit := 32 * orDef (nbits (s.offAt i) 11 0) 4095 } } := by
  obtain ⟨⟨b, hoff⟩, htab⟩ := offRead_parts i s
  have hoffs : (offRead i s).off = { s.off with skipped := b } := (congrArg State.off hoff :)
  refine ⟨{ offRead i s with off := s.off }, b, ?_, ?_⟩
  · exact (congrArg (fun u : State => { u with off := s.off }) hoff :)
  · unfold openClass
    dsimp only
    rw [htab, if_pos h, hoffs]

/-- A LIMIT that expires: the class is late, its event is raised and the next class opens. -/
theorem limitNow_late (hr : s.off.run = true) (ho : s.off.opened = true) (hd : classDone s = false)
    (h : opOf (s.offAt (nextClass s s.off.pos)) = 0x22) : ∃ t, limitNow s = t ∧ t.off.late = true ∧ t.off.run = true ∧
      t.off.opened = true ∧ t.off.cls = nbits (s.offAt (nextClass s s.off.pos)) 57 55 ∧ t.off.pos = nextClass s s.off.pos + 1 ∧
      t.off.limit = 32 * orDef (nbits (s.offAt (nextClass s s.off.pos)) 11 0) 4095 ∧ Pending 0x40 t ∧ t.rails = s.rails := by
  let late : State := { s with off := { s.off with limit := 0, late := true } }
  have hlimit : limitNow s = openClass (nextClass late late.off.pos) (raise 0x40 late.tsB (detRun late 0 0 0) late) := by
    unfold limitNow
    rw [if_pos (by simp [hr, ho, hd])]
    rfl
  have honly := eventsOnly_raise 0x40 late.tsB (detRun late 0 0 0) late
  have hlate : late.offAt = s.offAt := rfl
  have htab : (raise 0x40 late.tsB (detRun late 0 0 0) late).offAt = s.offAt := (offAt_events honly).trans hlate
  have hnext : nextClass late late.off.pos = nextClass s s.off.pos := nextClass_congr hlate _
  have hpend : Pending 0x40 (raise 0x40 late.tsB (detRun late 0 0 0) late) := pending_raise _ _ _ _ _ (by decide) (.inl rfl)
  obtain ⟨u, b, hu, hopen⟩ := openClass_class (s := raise 0x40 late.tsB (detRun late 0 0 0) late)
    (i := nextClass s s.off.pos) (htab ▸ h)
  have hevt : u.evt = (raise 0x40 late.tsB (detRun late 0 0 0) late).evt := (congrArg State.evt hu :)
  have hrails : u.rails = (raise 0x40 late.tsB (detRun late 0 0 0) late).rails := (congrArg State.rails hu :)
  rw [htab, honly.off] at hopen
  refine ⟨_, hlimit.trans ((congrArg (openClass · _) hnext).trans hopen), rfl, hr, rfl, rfl, rfl, rfl, ?_, ?_⟩
  · unfold Pending at hpend ⊢
    dsimp only
    rw [hevt]
    exact hpend
  · exact hrails.trans honly.rails

/-! ## The walk behind a PAUSE (R115) -/

/-- Where a release was made at this boundary and its chain does not go on, the walk stops. -/
theorem offWalk_done (f : Nat) (s : State) : offWalk f true false s = s := by
  cases f with
  | zero => rfl
  | succ f =>
    unfold offWalk
    dsimp only
    split
    · rfl
    · split <;> rfl

theorem off_of_keepPins (h : t.keepPins = s.keepPins) : t.off = s.off := by
  unfold State.keepPins at h
  exact congrArg (fun x => x.2.2.2.2.2.2.2.2.2.2.2.2.2.2.1) h

theorem off_releaseRail (i : Nat) (s : State) : (releaseRail i s).off = s.off := off_of_keepPins (keepPins_releaseRail i s)

/-- A RELEASE entry of a rail that has still to be released, and that no chain follows, is the walk's one release. -/
theorem offWalk_release {f r : Nat} (hop : opOf (s.offAt s.off.pos) = 0x21) (hr : nbits (s.offAt s.off.pos) 57 51 = r)
    (hp : (s.offAt s.off.pos).testBit 50 = false) (hn : needsRelease s r = true) :
    offWalk (f + 1) false false s = offRelease r (offRead s.off.pos { s with off := { s.off with pos := s.off.pos + 1 } }) := by
  unfold offWalk
  simp only [hop, hr, hp, hn, if_true, Bool.false_and, Bool.false_eq_true, if_false]
  exact offWalk_done ..

theorem pauseNow_release {r : Nat} (hrun : s.off.run = true) (ho : s.off.opened = true) (hp : s.off.pause ≠ 0)
    (hop : opOf (s.offAt s.off.pos) = 0x21) (hr : nbits (s.offAt s.off.pos) 57 51 = r)
    (hc : (s.offAt s.off.pos).testBit 50 = false) (hn : needsRelease s r = true) :
    ∃ u : State, u.rails = s.rails ∧ u.off.pos = s.off.pos + 1 ∧ u.off.toRelease = s.off.toRelease ∧
      u.off.released = s.off.released ∧ pauseNow s = offRelease r u := by
  let go : State := { s with off := { s.off with pause := 0 } }
  let moved : State := { go with off := { go.off with pos := go.off.pos + 1 } }
  have hpause : pauseNow s = offRelease r (offRead go.off.pos moved) := by
    unfold pauseNow
    rw [if_pos (by simp [hrun, ho, hp])]
    exact offWalk_release (s := go) hop hr hc hn
  obtain ⟨⟨b, hoff⟩, -⟩ := offRead_parts go.off.pos moved
  exact ⟨offRead go.off.pos moved, (congrArg State.rails hoff :), (congrArg (fun u => u.off.pos) hoff :), (congrArg (fun u => u.off.toRelease) hoff :),
    (congrArg (fun u => u.off.released) hoff :), hpause⟩

/-- A release in its place: the rail is released, and remembered for a resume (R115, R118). -/
theorem offRelease_parts {r : Nat} (h : (s.rail r).st.live = true) : ((offRelease r s).rail r).en = false ∧
    ((offRelease r s).rail r).st = (if (s.rail r).db then .releasing else .off) ∧
    (∀ j, j ≠ r → (offRelease r s).rail j = s.rail j) ∧
    (offRelease r s).off = { s.off with toRelease := s.off.toRelease.filter (· ≠ r), released := r :: s.off.released } := by
  let u : State := { s with off := { s.off with
    toRelease := s.off.toRelease.filter (· ≠ r), released := r :: s.off.released } }
  obtain ⟨hen, hst⟩ := releaseRail_live r u h
  exact ⟨hen, hst, fun j hj => releaseRail_ne r u hj, off_releaseRail r u⟩

/-! ## The end of a run (R94, R115, R118, R155) -/

/-- An on request at the boundary at which a run ends is held: the run stays as it ended (R121). -/
theorem off_onRequest_ended (he : s.off.ended = true) (hr : s.off.run = false) : (onRequest s).2.off = s.off := by
  unfold onRequest
  split
  · rfl
  · rfl
  · split
    · rfl
    · next h =>
      rw [he, Bool.true_and, Bool.not_eq_true', Bool.not_eq_false] at h
      rw [hr, if_neg (by decide), if_pos h]

theorem off_onRequestNow_ended (he : s.off.ended = true) (hr : s.off.run = false) : (onRequestNow s).off = s.off := by
  unfold onRequestNow
  split
  · rfl
  · split
    · rfl
    · exact off_onRequest_ended he hr

theorem off_fullRestart_ended (he : s.off.ended = true) (hr : s.off.run = false) : (fullRestart s).off = s.off := by
  have hj : (jInternal 0x83 2 0 0xFFFFFFFF false
      { s with flt := { s.flt with restartLeft := none, restarts := sat 15 (s.flt.restarts + 1) } }).off = s.off := onOff_jInternal ..
  exact (off_onRequestNow_ended (by rw [hj, he]) (by rw [hj, hr])).trans hj

theorem off_restartPolicy_ended (he : s.off.ended = true) (hr : s.off.run = false) : (restartPolicy s).off = s.off := by
  unfold restartPolicy
  dsimp only
  split
  · rfl
  · split
    · exact onOff_raise ..
    · split
      · exact off_fullRestart_ended (s := { s with flt := { s.flt with restartOwed := false } }) he hr
      · rfl

/-- Whether a restart of the domain is owed behind the run (R155). -/
def State.owed (s : State) : Bool := s.flt.restartOwed

theorem owed_of_flt {s t : State} (h : t.flt = s.flt) : t.owed = s.owed := congrArg Flt.restartOwed h

theorem owed_modGrp (n : Nat) (f : Grp → Grp) (s : State) : (s.modGrp n f).owed = s.owed := rfl

theorem owed_groupRestartNow (n : Nat) (s : State) : (groupRestartNow n s).owed = s.owed := by
  unfold groupRestartNow
  extract_lets p u
  split
  · set v := u.modGrp n fun g => { g with count := sat 15 (g.count + 1) }
    have hj : (jInternal 0x83 2 0 n false v).owed = v.owed := owed_of_flt (onFlt_jInternal ..)
    exact (owed_of_flt (onFlt_progLaunch p _)).trans hj
  · rfl

theorem owed_groupPolicy (n : Nat) (s : State) : (groupPolicy n s).owed = s.owed := by
  unfold groupPolicy
  extract_lets w u
  have hu : u.owed = s.owed := rfl
  rw [← hu]
  refine kept_branch State.owed rfl (kept_branch State.owed rfl (kept_branch State.owed (owed_of_flt (onFlt_raise ..)) ?_))
  exact kept_branch State.owed rfl (kept_branch State.owed (owed_groupRestartNow ..) rfl)

/-- A full run leaves DOMAIN off and stops the stages that follow it (R94, R266). -/
def fullRunDone (s : State) : State :=
  let u : State := { s with seq := { s.seq with domain := .off } }
  each ((List.range 4).filter fun st => u.cb (sbase st) 11) softStop u

theorem off_finishAll (w : Wait → Bool) (st res : Nat) (s : State) : (finishAll w st res s).off = s.off := onOff_finishAll ..

theorem owed_finishAll (w : Wait → Bool) (st res : Nat) (s : State) : (finishAll w st res s).owed = s.owed :=
  owed_of_flt (onFlt_finishAll ..)

theorem off_groupPolicies (l : List Nat) (s : State) : (each l groupPolicy s).off = s.off :=
  each_keep State.off onOff_groupPolicy l s

theorem owed_groupPolicies (l : List Nat) (s : State) : (each l groupPolicy s).owed = s.owed :=
  each_keep State.owed owed_groupPolicy l s

/-- A run that completes is over for every scope; a full one leaves DOMAIN off and has its restart. -/
theorem offComplete_eq (s : State) : ∃ u : State, u.owed = s.owed ∧ u.off = { s.off with
      run := false, set := [], toRelease := [], opened := false, sweep := [], sync := none, ended := true } ∧
    offComplete s = if s.off.full then (if (fullRunDone u).owed then restartPolicy (fullRunDone u) else fullRunDone u) else u := by
  unfold offComplete
  extract_lets o full r closed told told' judged q u
  obtain ⟨hoff1, howed1⟩ : told.off = closed.off ∧ told.owed = closed.owed := ⟨off_finishAll .., owed_finishAll ..⟩
  clear_value told
  obtain ⟨hoff2, howed2⟩ : told'.off = told.off ∧ told'.owed = told.owed := ⟨off_finishAll .., owed_finishAll ..⟩
  clear_value told'
  obtain ⟨hoff3, howed3⟩ : judged.off = told'.off ∧ judged.owed = told'.owed :=
    ⟨off_groupPolicies _ told', owed_groupPolicies _ told'⟩
  clear_value judged
  have hoff : u.off = closed.off := hoff3.trans (hoff2.trans hoff1)
  have howed : u.owed = closed.owed := howed3.trans (howed2.trans howed1)
  clear_value u
  exact ⟨u, howed, hoff, rfl⟩

theorem off_fullRunDone (s : State) : (fullRunDone s).off = s.off := each_keep State.off onOff_softStop ..

theorem owed_softStop (st : Nat) (s : State) : (softStop st s).owed = s.owed := kept_ite State.owed rfl

theorem owed_fullRunDone (s : State) : (fullRunDone s).owed = s.owed := each_keep State.owed owed_softStop ..

theorem domain_fullRunDone (s : State) : (fullRunDone s).seq.domain = .off :=
  (congrArg (·.1) (each_keep State.seqTop seqTop_softStop _ { s with seq := { s.seq with domain := .off } }) :)

/-- A run that completes is over: nothing of it is left but how it ended. -/
theorem off_offComplete (s : State) : (offComplete s).off = { s.off with
    run := false, set := [], toRelease := [], opened := false, sweep := [], sync := none, ended := true } := by
  obtain ⟨u, -, hoff, heq⟩ := offComplete_eq s
  have hfull := off_fullRunDone u
  rw [heq, ← hoff]
  split
  · split
    · exact (off_restartPolicy_ended (by rw [hfull, hoff]) (by rw [hfull, hoff])).trans hfull
    · exact hfull
  · rfl

theorem domain_offComplete (hf : s.off.full = true) (ho : s.owed = false) : (offComplete s).seq.domain = .off := by
  obtain ⟨u, howed, -, heq⟩ := offComplete_eq s
  rw [heq, if_pos hf, owed_fullRunDone, howed, ho, if_neg (by decide)]
  exact domain_fullRunDone u

/-! ## A held on request (R95, R118) -/

theorem seqTop_launchOnSet (s : State) : (launchOnSet s).seqTop = (.poweringUp, false, s.onSet) :=
  each_keep State.seqTop seqTop_progLaunch _ _

theorem flt_launchOnSet (s : State) : (launchOnSet s).flt = { s.flt with restartLeft := none } :=
  each_keep State.flt onFlt_progLaunch _ _

/-- DOMAIN judged from POWERING_UP is POWERING_UP, UP or PARTIAL_UP; what the request left stays (R94). -/
theorem judgeDomain_poweringUp (h : s.seq.domain = .poweringUp) :
    ∃ d, (d = .poweringUp ∨ d = .up ∨ d = .partialUp) ∧ (judgeDomain s).seqTop = (d, s.seq.onPending, s.seq.onset) := by
  unfold judgeDomain
  rw [h]
  dsimp only
  split
  · exact ⟨.poweringUp, .inl rfl, by rw [State.seqTop, h]⟩
  · split
    · exact ⟨.up, .inr (.inl rfl), seqTop_finishAll ..⟩
    · exact ⟨.partialUp, .inr (.inr rfl), seqTop_finishAll ..⟩

theorem seqTop_of_offTell (h : t.offTell = s.offTell) : t.seqTop = s.seqTop := (congrArg State.seqTop h :)

theorem flt_of_offTell (h : t.offTell = s.offTell) : t.flt = s.flt := (congrArg State.flt h :)

theorem seqTop_parts {d : Domain} {p : Bool} {l : List Nat} (h : s.seqTop = (d, p, l)) :
    s.seq.domain = d ∧ s.seq.onPending = p ∧ s.seq.onset = l := by
  simpa only [State.seqTop, Prod.mk.injEq] using h

theorem judged_parts (f : State → State) (s : State) : (judged f s).seqTop = (judgeDomain (f s)).seqTop ∧
    (judged f s).flt.restartLeft = (f s).flt.restartLeft := by
  have htell := offTell_progsTell (sysrstUp s.seq.domain (judgeDomain (f s)))
  have hrst : (sysrstUp s.seq.domain (judgeDomain (f s))).flt.restartLeft = (judgeDomain (f s)).flt.restartLeft :=
    kept_ite (fun u : State => u.flt.restartLeft) rfl
  have hflt : (judgeDomain (f s)).flt = (f s).flt := onFlt_judgeDomain (f s)
  unfold judged
  exact ⟨(seqTop_of_offTell htell).trans (seqTop_sysrstUp ..), by rw [flt_of_offTell htell, hrst, hflt]⟩

end

end Sys2Proof.Machine

section
open Sys2Proof Sys2Proof.Machine

/-- Settles O8: a LIMIT that expires (`limitNow_late`), the walk behind a PAUSE (`pauseNow_release`, `offRelease_parts`), the
run that ends (`off_offComplete`) and the request held until then (`seqTop_launchOnSet`). -/
theorem offSequencer : Obligations.OffSequencer := by
  refine ⟨fun s hr ho hd h => ?_, fun r s hrun ho hp hop hr hc hn hlive => ?_, fun i d s hi hr ho hrest hd => ?_,
    fun s hr => ?_, fun s hp hr => ?_⟩
  · obtain ⟨t, ht, hlate⟩ := limitNow_late hr ho hd h
    exact ⟨t, congrArg Host.Outcome.next ht, hlate⟩
  · obtain ⟨u, hrails, hpos, hto, hrel, hpause⟩ := pauseNow_release hrun ho hp hop hr hc hn
    have hrail (j : Nat) : u.rail j = s.rail j := congrArg (fun l : Tbl Rail => tget ({} : Rail) l j) hrails
    obtain ⟨hen, hst, hother, hoff⟩ := offRelease_parts (s := u) (r := r) (by rw [hrail]; exact hlive)
    refine ⟨_, congrArg Host.Outcome.next hpause, hen, ?_, ?_, ?_, ?_, fun j hj => (hother j hj).trans (hrail j)⟩
    · rw [hst, hrail]
    · rw [hoff]; exact hpos
    · rw [hoff]; exact congrArg (List.filter _) hto
    · rw [hoff]; exact congrArg (r :: ·) hrel
  · have hnow : dischNow i s = s.modRail i fun x => { x with rest := max d x.rest } := by
      unfold dischNow
      rw [if_pos (by simp [hr, ho, hrest]), hd]
    refine ⟨_, congrArg Host.Outcome.next ((if_pos hi).trans hnow), ?_, ?_, rfl, fun j hj => ?_⟩
    · rw [State.modRail_rail_same]; exact le_max_left ..
    · rw [State.modRail_rail_same]
    · rw [State.modRail_rail, if_neg hj]
  · refine ⟨_, congrArg Host.Outcome.next (if_pos hr), ?_, ?_, domain_offComplete⟩
    · rw [off_offComplete]
    · rw [off_offComplete]
  · have hheld : heldNow s = launchOnSet s := if_pos (by simp [hp, hr])
    have htop := seqTop_launchOnSet s
    obtain ⟨hdom, hpend, hset⟩ := seqTop_parts htop
    obtain ⟨d, hd, hjudge⟩ := judgeDomain_poweringUp hdom
    obtain ⟨hseq, hflt⟩ := judged_parts heldNow s
    rw [hheld] at hseq hflt
    obtain ⟨hdom', hpend', hset'⟩ := seqTop_parts (hseq.trans hjudge)
    exact ⟨_, rfl, hpend'.trans hpend, by rw [hflt, flt_launchOnSet], hset'.trans hset, hdom'.symm ▸ hd⟩

end

/-! # The pass of the ledger and the fault policy's task (R110, R143, R159, R168, R174, R180, R181) -/

namespace Sys2Proof.Machine

/-! ## What a pass keeps -/

/-- No balance of the first is larger. -/
structure Bal.Within (a b : Bal) : Prop where
  inrush : a.inrush ≤ b.inrush
  power : a.power ≤ b.power
  thermal : a.thermal ≤ b.thermal

/-- What a pass leaves alone of the state: the engines, the time and the balances latched for it. -/
def State.passKept (s : State) := (s.engs, s.clk, s.drt.latched)

/-- From candidate to candidate the balances are used up, and the pass acts on what it may alone. -/
structure Pass.Onward (p q : Pass) : Prop where
  within : q.b.Within p.b
  kept : q.s.passKept = p.s.passKept

theorem Bal.Within.refl (b : Bal) : b.Within b := ⟨le_rfl, le_rfl, le_rfl⟩

theorem debit_within (tick : Nat) (b : Bal) (i p t : Nat) : (debit tick b i p t).Within b := by
  refine ⟨?_, Nat.sub_le .., Nat.sub_le ..⟩
  unfold debit
  dsimp only
  split <;> omega

theorem Pass.Onward.trans {p q r : Pass} (h : p.Onward q) (g : q.Onward r) : p.Onward r :=
  ⟨⟨g.within.inrush.trans h.within.inrush, g.within.power.trans h.within.power, g.within.thermal.trans h.within.thermal⟩,
    g.kept.trans h.kept⟩

theorem Pass.Onward.of_state {p q : Pass} (hb : q.b = p.b) (hs : q.s.passKept = p.s.passKept) : p.Onward q :=
  ⟨hb ▸ .refl _, hs⟩

theorem Pass.Onward.foldl {α : Type} {f : Pass → α → Pass} (hf : ∀ (p : Pass) a, p.Onward (f p a)) (l : List α) (p : Pass) :
    p.Onward (l.foldl f p) := by
  induction l generalizing p with
  | nil => exact .of_state rfl rfl
  | cons a l ih => exact (hf p a).trans (ih _)

theorem passKept_of_events {s t : State} (h : EventsOnly s t) : t.passKept = s.passKept := by
  rw [State.passKept, h.engs, h.clk, h.drt, State.passKept]

theorem passKept_modCand (r : CandRef) (f : Cand → Cand) (s : State) : (modCand r f s).passKept = s.passKept := by
  cases r <;> rfl

theorem drt_modCand (r : CandRef) (f : Cand → Cand) (s : State) : (modCand r f s).drt = s.drt := by
  cases r <;> rfl

/-- A grant uses up the balances by its costs (R175, R180). -/
theorem onward_grant (c : PCand) (p : Pass) : p.Onward (grant c p) :=
  ⟨debit_within .., (passKept_modCand c.ref (fun x => { x with granted := true, skip := 0, order := p.order }) p.s :)⟩

theorem onward_tryCand (p : Pass) (c : PCand) : p.Onward (tryCand p c) := by
  unfold tryCand
  split
  · exact .of_state rfl rfl
  · extract_lets q th s
    split
    · exact Pass.Onward.trans (.of_state rfl rfl : p.Onward q) (onward_grant c q)
    · have hs : s.passKept = p.s.passKept := passKept_modCand ..
      split <;> exact .of_state rfl hs

theorem onward_tryClass (n : Nat) (p : Pass) : p.Onward (tryClass n p) := by
  unfold tryClass
  dsimp only
  split
  · exact .of_state rfl rfl
  · split
    · exact ⟨⟨le_rfl, Nat.sub_le .., le_rfl⟩, rfl⟩
    · split
      · exact .of_state rfl (Eq.trans (passKept_of_events (eventsOnly_raise ..)) rfl)
      · exact .of_state rfl rfl

theorem passKept_alogAdd (e : ALog) (s : State) : (alogAdd e s).passKept = s.passKept := rfl

theorem onward_tryCands (b : Bal) (s : State) : Pass.Onward { s := s, b := b } (tryCands b s) := by
  unfold tryCands
  extract_lets p
  have h : Pass.Onward { s := s, b := b } p := .foldl onward_tryCand _ _
  refine ⟨h.within, ?_⟩
  dsimp only
  split
  · exact h.kept
  · exact (each_keep State.passKept passKept_alogAdd _ _).trans h.kept

theorem onward_tryClasses (p : Pass) : p.Onward (tryClasses p) := Pass.Onward.foldl (fun q n => onward_tryClass n q) _ p

/-! ## The pass -/

section
variable {s : State} {l : Nat × Nat × Nat}

/-- The pass has taken the balances latched for it. -/
def passStart (s : State) : State := { s with drt := { s.drt with latched := none, bg := 0 } }

/-- The balances a pass begins with (R174). -/
def passBal (l : Nat × Nat × Nat) : Bal := { inrush := l.1, power := l.2.1, thermal := l.2.2 }

/-- A pass of an engine that runs: a shadow's is its balances alone (R182), any other tries candidates and classes. -/
theorem ledgerPass_eq (hl : s.drt.latched = some l) (hh : (s.eng 1).halted = false) : ledgerPass s =
    if s.shadow then passEnd { s := passStart s, b := passBal l }
    else passEnd (tryClasses (tryCands (passBal l) (passStart s))) := by
  unfold ledgerPass
  rw [hl]
  simp only [hh, Bool.false_eq_true, if_false]
  rfl

/-- A pass never leaves more than it found (R174, R180, R181). -/
theorem onward_ledgerPass (hl : s.drt.latched = some l) (hh : (s.eng 1).halted = false) :
    ∃ p, Pass.Onward { s := passStart s, b := passBal l } p ∧ ledgerPass s = passEnd p := by
  rw [ledgerPass_eq hl hh]
  split
  · exact ⟨_, .of_state rfl rfl, rfl⟩
  · exact ⟨_, (onward_tryCands ..).trans (onward_tryClasses _), rfl⟩

end

/-! ## A pass without background work -/

theorem classOrder_lt {s : State} {n : Nat} (h : n ∈ classOrder s) : n < 8 := by
  obtain ⟨pr, _, hn⟩ := List.mem_flatMap.mp h
  exact List.mem_range.mp (List.mem_filter.mp hn).1

/-- Without work of any class the classes are passed over. -/
theorem tryClasses_idle {p : Pass} (h : ∀ n, n < 8 → bgWork p.s n = false) : tryClasses p = p := by
  have hfold : ∀ l : List Nat, (∀ n ∈ l, n < 8) → l.foldl (fun q n => tryClass n q) p = p := by
    intro l hl
    induction l with
    | nil => rfl
    | cons n l ih =>
      have hn : tryClass n p = p := if_pos (by rw [h n (hl n (List.mem_cons_self ..))]; rfl)
      rw [List.foldl_cons, hn]
      exact ih fun m hm => hl m (List.mem_cons_of_mem _ hm)
  exact hfold _ fun n hn => classOrder_lt hn

/-- No record of a candidate is work of a class. -/
theorem bgWork_modCand (r : CandRef) (f : Cand → Cand) (s : State) (n : Nat) : bgWork (modCand r f s) n = bgWork s n := by
  have hrail (i : Nat) (g : Rail → Rail) (hg : ∀ x, (g x).delta = x.delta) : bgWork (s.modRail i g) n = bgWork s n := by
    have hd (j : Nat) : ((s.modRail i g).rail j).delta = (s.rail j).delta := by
      rw [State.modRail_rail]
      split
      · next h => rw [hg, h]
      · rfl
    unfold bgWork
    simp only [hd]
    rfl
  cases r with
  | retry i => exact hrail i _ fun _ => rfl
  | resume i => exact hrail i _ fun _ => rfl
  | _ => rfl

section
variable {s : State} {b : Bal} {c : PCand}

theorem tryCands_none (h : passCands s = []) : tryCands b s = { s := s, b := b } := by
  unfold tryCands
  rw [h]
  rfl

/-- The state behind the grant of a pass's only candidate. -/
def grantOnly (c : PCand) (s : State) : State :=
  let u := modCand c.ref (fun x => { x with granted := true, skip := 0, order := 1 }) s
  { u with drt := { u.drt with
      debt := sat 0xFFFF (s.drt.debt + (c.inrush - s.cf 0x6000 11 0))
      commits := u.drt.commits ++
        (if c.steady = 0 && thermCost s c.steady = 0 then [] else [{ key := c.commit, power := c.steady, thermal := thermCost s c.steady }]) } }

/-- A single candidate that fits every account is granted, and the pass is logged (R110, R175, R180, R183). -/
theorem tryCands_one (h : passCands s = [c]) (hf : fits (s.cf 0x6000 11 0) b c.inrush c.steady (thermCost s c.steady) = true) :
    ∃ l n g, tryCands b s = { (grant c { s := s, b := b, order := 1 }) with
      s := each l alogAdd (grantOnly c s), order := n, grants := g } := by
  have htry : tryCand { s := s, b := b } c = grant c { s := s, b := b, order := 1 } := by
    unfold tryCand
    simp only [Bool.false_eq_true, if_false]
    exact if_pos hf
  unfold tryCands
  rw [h]
  dsimp only [List.foldl_cons, List.foldl_nil]
  rw [htry]
  exact ⟨_, _, _, rfl⟩

theorem drt_each_alogAdd (l : List ALog) (s : State) :
    (each l alogAdd s).drt.debt = s.drt.debt ∧ (each l alogAdd s).drt.commits = s.drt.commits :=
  ⟨each_keep (fun t => t.drt.debt) (f := alogAdd) (fun _ _ => rfl) l s, each_keep (fun t => t.drt.commits) (f := alogAdd) (fun _ _ => rfl) l s⟩

theorem bgWork_each_alogAdd (l : List ALog) (s : State) (n : Nat) : bgWork (each l alogAdd s) n = bgWork s n :=
  each_keep (bgWork · n) (f := alogAdd) (fun _ _ => rfl) l s

theorem bgWork_grantOnly (n : Nat) : bgWork (grantOnly c s) n = bgWork s n := bgWork_modCand _ _ s n

end

/-! ## One fault taken from the queue (R143, R168) -/

/-- What the telling of faults keeps: the fault policy's own state, the engines, the rails but for their counters, and what is
pending. -/
structure FaultsTold (s t : State) : Prop where
  flt : t.flt = s.flt
  engs : t.engs = s.engs
  rails : ∀ i, (t.rail i).st = (s.rail i).st ∧ (t.rail i).en = (s.rail i).en
  pend : ∀ n, n < 256 → Pending n s → Pending n t

section
variable {s t u : State}

theorem FaultsTold.refl (s : State) : FaultsTold s s := ⟨rfl, rfl, fun _ => ⟨rfl, rfl⟩, fun _ _ h => h⟩

theorem FaultsTold.trans (h : FaultsTold s t) (g : FaultsTold t u) : FaultsTold s u :=
  ⟨g.flt.trans h.flt, g.engs.trans h.engs, fun i => ⟨(g.rails i).1.trans (h.rails i).1, (g.rails i).2.trans (h.rails i).2⟩,
    fun n hn hp => g.pend n hn (h.pend n hn hp)⟩

theorem faultsTold_raise (src : Nat) (ts : Ts) (d : BitVec 128) (s : State) : FaultsTold s (raise src ts d s) := by
  have h := eventsOnly_raise src ts d s
  have hr (i : Nat) : (raise src ts d s).rail i = s.rail i := congrArg (fun l : Tbl Rail => tget ({} : Rail) l i) h.rails
  exact ⟨h.flt, h.engs, fun i => by rw [hr]; exact ⟨rfl, rfl⟩, fun n hn hp => pending_raise src ts d s n hn (.inr hp)⟩

theorem faultsTold_countUp (i c n : Nat) (s : State) : FaultsTold s (countUp i c n s) := by
  refine ⟨rfl, rfl, fun j => ?_, fun _ _ h => h⟩
  rw [countUp, State.modRail_rail]
  split
  · next h => rw [h]; exact ⟨rfl, rfl⟩
  · exact ⟨rfl, rfl⟩

theorem kindEvent_lt (k : Nat) : kindEvent k < 256 := by
  unfold kindEvent
  repeat' split
  all_goals decide

/-- The counters of a fault's kinds rise (R162). -/
def countFault (f : FQ) (s : State) : State :=
  each (f.kind :: f.more) (fun k s =>
    match counterOf k with | some c => countUp f.rail c (if k = f.kind then f.mult else 1) s | none => s) s

theorem faultsTold_countFault (f : FQ) (s : State) : FaultsTold s (countFault f s) := by
  refine each_invariant (FaultsTold s) (fun k u hu => hu.trans ?_) _ s (.refl s)
  split
  · exact faultsTold_countUp ..
  · exact .refl u

/-- A further event of a fault, where it is owed (R168). -/
def tellAlso (owed : Bool) (src : Nat) (ts : Ts) (f : FQ) (s : State) : State := if owed then raise src ts (detFault s f) s else s

theorem faultsTold_tellAlso (owed : Bool) (src : Nat) (ts : Ts) (f : FQ) (s : State) : FaultsTold s (tellAlso owed src ts f s) := by
  unfold tellAlso
  split
  · exact faultsTold_raise ..
  · exact .refl s

/-- The fault at the head of the queue is taken, and told by its kind's event. -/
theorem takeFault_cons {f : FQ} {q : List FQ} (h : s.flt.queue = f :: q) :
    FaultsTold { s with flt := { s.flt with queue := q } } (takeFault s) ∧ Pending (kindEvent f.kind) (takeFault s) := by
  set ts : Ts := { frame := f.det, frac := 0 }
  set v := countFault f { s with flt := { s.flt with queue := q } }
  set u := raise (kindEvent f.kind) ts (detFault v f) v
  have htake : takeFault s =
      tellAlso (f.react = 3 || f.sysAlso) 0x29 ts f (tellAlso ((f.escalated && f.react ≠ 3) || f.exhAlso) 0x28 ts f u) := by
    unfold takeFault
    rw [h]
    rfl
  have hraise : FaultsTold v u := faultsTold_raise ..
  have hmore := (faultsTold_tellAlso ((f.escalated && f.react ≠ 3) || f.exhAlso) 0x28 ts f u).trans
    (faultsTold_tellAlso (f.react = 3 || f.sysAlso) 0x29 ts f _)
  rw [htake]
  exact ⟨((faultsTold_countFault f _).trans hraise).trans hmore,
    hmore.pend _ (kindEvent_lt _) (pending_raise _ _ _ v _ (kindEvent_lt _) (.inl rfl))⟩

/-- At most one fault is taken at a time. -/
theorem takeFault_told (s : State) : FaultsTold { s with flt := { s.flt with queue := s.flt.queue.drop 1 } } (takeFault s) := by
  cases h : s.flt.queue with
  | nil =>
    have hs : takeFault s = s := by unfold takeFault; rw [h]
    have hq : ({ s with flt := { s.flt with queue := [] } } : State) = s := by rw [← h]
    rw [hs, List.drop_nil, hq]
    exact .refl s
  | cons f q => exact (takeFault_cons h).1

/-- T1.3 takes two faults of the queue (R143). -/
theorem takeFault_twice (s : State) :
    FaultsTold { s with flt := { s.flt with queue := s.flt.queue.drop 2 } } (takeFault (takeFault s)) := by
  have h1 := takeFault_told s
  have h2 := takeFault_told (takeFault s)
  have hflt : (takeFault s).flt = { s.flt with queue := s.flt.queue.drop 1 } := h1.flt
  refine ⟨?_, h2.engs.trans h1.engs, fun i => ?_, fun n hn hp => h2.pend n hn (h1.pend n hn hp)⟩
  · rw [h2.flt, hflt]
    dsimp only
    rw [List.drop_drop]
  · exact ⟨(h2.rails i).1.trans (h1.rails i).1, (h2.rails i).2.trans (h1.rails i).2⟩

end

/-! ## T1.3 (R143, R159) -/

/-- The capture of a first fault is completed and told (R159). -/
def tellFirst (s : State) : State :=
  match s.flt.ff with
  | some f =>
    let u : State := { s with flt := { s.flt with ff := some { f with ledgerValid := true, told := true } } }
    if f.told then u else raise 0x27 { frame := f.f.det, frac := 0 } (detFault u f.f) u
  | none => s

/-- Faults lost from a full queue are told (R144). -/
def tellLost (s : State) : State :=
  if s.flt.qlostNew then raise 0x2D s.tsB (BitVec.ofNat 128 0) { s with flt := { s.flt with qlostNew := false } } else s

section
variable {s : State}

theorem faultTask_eq (h : (s.eng 1).halted = false) : faultTask s = tellLost (tellFirst (takeFault (takeFault s))) :=
  if_neg (by simp [h])

theorem tellFirst_told (s : State) : FaultsTold { s with flt := { s.flt with
    ff := s.flt.ff.map fun f => { f with ledgerValid := true, told := true } } } (tellFirst s) := by
  unfold tellFirst
  cases hf : s.flt.ff with
  | none =>
    have hs : ({ s with flt := { s.flt with ff := none } } : State) = s := by rw [← hf]
    rw [Option.map_none, hs]
    exact .refl s
  | some f =>
    dsimp only [Option.map_some]
    split
    · exact .refl _
    · exact faultsTold_raise ..

theorem pending_tellFirst {f : FF} (hf : s.flt.ff = some f) (ht : f.told = false) : Pending 0x27 (tellFirst s) := by
  unfold tellFirst
  rw [hf]
  dsimp only
  rw [if_neg (by simp [ht])]
  exact pending_raise _ _ _ _ 0x27 (by decide) (.inl rfl)

theorem tellLost_told (s : State) : FaultsTold { s with flt := { s.flt with qlostNew := false } } (tellLost s) := by
  unfold tellLost
  split
  · exact faultsTold_raise ..
  · next h =>
    have hs : ({ s with flt := { s.flt with qlostNew := false } } : State) = s := by
      rw [Bool.not_eq_true] at h
      rw [← h]
    rw [hs]
    exact .refl s

theorem pending_tellLost (h : s.flt.qlostNew = true) : Pending 0x2D (tellLost s) := by
  unfold tellLost
  rw [if_pos h]
  exact pending_raise _ _ _ _ 0x2D (by decide) (.inl rfl)

/-- A task that runs clears no event (R57, R467). -/
theorem pending_taskRun {e t n cyc k : Nat} {f : State → State} (h : TaskReady e t cyc s) (hk : k < 256)
    (hp : Pending k (f s)) : Pending k (taskRun e t n cyc f s) := by
  obtain ⟨hstart, hfit⟩ := h
  unfold taskRun
  rw [if_neg (by simp [hstart]), if_neg (by omega)]
  dsimp only
  split
  · exact pending_raise _ _ _ _ k hk (.inr hp)
  · exact hp

end

end Sys2Proof.Machine

section
open Sys2Proof Sys2Proof.Machine

/-- Settles O21: a pass never leaves more than it found (`onward_ledgerPass`); a single candidate that fits is granted
(`tryCands_one`); T1.3 takes two faults (`takeFault_twice`). -/
theorem ledgerAndFaultPolicyTasks : Obligations.LedgerAndFaultPolicyTasks := by
  refine ⟨fun cyc l s h hl => ?_, fun cyc l s h hl hc hw => ?_, fun cyc l c s h hl hc hw hi hd hp ht => ?_, fun cyc s h => ?_⟩
  · obtain ⟨p, hon, hpass⟩ := onward_ledgerPass hl (not_halted_of_ready h)
    have hkept : p.s.passKept = (passStart s).passKept := hon.kept
    have heng : (ledgerPass s).engs = s.engs := (congrArg State.engs hpass).trans (congrArg (·.1) hkept :)
    have hdrt : (taskRun 1 1 0 cyc ledgerPass s).drt = (passEnd p).drt := by
      rw [(eventsOnly_taskRun h).drt, State.modEng_drt, hpass]
    have hclk : p.s.clk = s.clk := (congrArg (·.2.1) hkept :)
    have htick : p.s.tickNo = s.tickNo := by rw [State.tickNo, hclk, State.tickNo]
    refine ⟨_, rfl, taskRan_taskRun h (congrArg (fun t : Tbl Eng => (tget ({} : Eng) t 1).used) heng), ?_⟩
    rw [hdrt]
    exact ⟨(congrArg (·.2.2) hkept :), hon.within.inrush, hon.within.power, hon.within.thermal,
      congrArg (· % 2 ^ 32) htick⟩
  · have hpass := tryCands_none (b := passBal l) hc
    have hidle : tryClasses { s := passStart s, b := passBal l } = { s := passStart s, b := passBal l } := tryClasses_idle hw
    have hend : ledgerPass s = passEnd { s := passStart s, b := passBal l } := by
      rw [ledgerPass_eq hl (not_halted_of_ready h)]
      split
      · rfl
      · rw [show tryCands (passBal l) (passStart s) = _ from hpass]
        exact congrArg passEnd hidle
    refine ⟨_, rfl, ?_⟩
    beta_reduce
    rw [(eventsOnly_taskRun h).drt, State.modEng_drt, hend]
    exact ⟨rfl, rfl, rfl, rfl, rfl, rfl, rfl⟩
  · have hfit : fits ((passStart s).cf 0x6000 11 0) (passBal l) c.inrush c.steady (thermCost (passStart s) c.steady) = true := by
      have ht' : thermCost (passStart s) c.steady ≤ l.2.2 := ht
      have hd' : c.inrush ≤ (passStart s).cf 0x6000 11 0 := hd
      simp [fits, passBal, Nat.not_lt.mpr hd', hi, hp, ht']
    have hc' : passCands (passStart s) = [c] := hc
    obtain ⟨g, n, m, hone⟩ := tryCands_one (b := passBal l) hc' hfit
    have hidle := tryClasses_idle (p := tryCands (passBal l) (passStart s)) fun k hk => by
      rw [hone]
      exact (bgWork_each_alogAdd ..).trans ((bgWork_grantOnly k).trans (hw k hk))
    have hshadow : s.shadow = false := by
      by_contra hsh
      have hsh' : (passStart s).shadow = true := Bool.eq_true_of_not_eq_false hsh
      have hnone : passCands (passStart s) = [] := if_pos (by simp [hsh'])
      exact absurd (hc'.symm.trans hnone) (by simp)
    have hend : ledgerPass s = passEnd (tryCands (passBal l) (passStart s)) := by
      rw [ledgerPass_eq hl (not_halted_of_ready h), hshadow, if_neg (by decide), hidle]
    have hno : c.inrush - s.cf 0x6000 11 0 = 0 := Nat.sub_eq_zero_of_le hd
    obtain ⟨hdebt, hcommits⟩ := drt_each_alogAdd g (grantOnly c (passStart s))
    refine ⟨_, rfl, ?_⟩
    beta_reduce
    rw [(eventsOnly_taskRun h).drt, State.modEng_drt, hend, hone]
    refine ⟨?_, rfl, rfl, ?_, fun hs => ?_⟩
    · exact if_neg (Nat.not_lt.mpr hd)
    · refine hdebt.trans ?_
      change sat 0xFFFF (s.drt.debt + (c.inrush - s.cf 0x6000 11 0)) = _
      rw [hno, Nat.add_zero]
    · refine (congrArg (_ ∈ ·) hcommits).mpr (List.mem_append_right _ ?_)
      rw [if_neg (by simp [hs])]
      exact List.mem_singleton_self _
  · have htask := faultTask_eq (not_halted_of_ready h)
    have hquiet := takeFault_twice s
    set u := takeFault (takeFault s) with hu
    have hfirst := tellFirst_told u
    have hlost := tellLost_told (tellFirst u)
    have honly := eventsOnly_taskRun (n := min 2 s.flt.queue.length) (f := faultTask) h
    have hflt : (taskRun 1 2 (min 2 s.flt.queue.length) cyc faultTask s).flt = { s.flt with
        queue := s.flt.queue.drop 2, ff := s.flt.ff.map fun f => { f with ledgerValid := true, told := true }, qlostNew := false } := by
      rw [honly.flt, State.modEng_flt, htask, hlost.flt, hfirst.flt, hquiet.flt]
    have hengs : (faultTask s).engs = s.engs := by
      rw [htask, hlost.engs]
      exact hfirst.engs.trans hquiet.engs
    have hpend (n : Nat) (hn : n < 256) (hp : Pending n (tellFirst u)) :
        Pending n (taskRun 1 2 (min 2 s.flt.queue.length) cyc faultTask s) :=
      pending_taskRun h hn (htask ▸ hlost.pend n hn hp)
    have hpend' (n : Nat) (hn : n < 256) (hp : Pending n u) := hpend n hn (hfirst.pend n hn hp)
    refine ⟨_, rfl, taskRan_taskRun h (congrArg (fun t : Tbl Eng => (tget ({} : Eng) t 1).used) hengs), ?_⟩
    rw [hflt]
    refine ⟨rfl, rfl, fun hq => ?_, fun f hf => ⟨?_, fun ht => ?_⟩, fun hf => ?_, fun f q hq => ?_, fun i => ?_⟩
    · have hq' : (tellFirst u).flt.qlostNew = true := by rw [hfirst.flt]; dsimp only; rw [hquiet.flt]; exact hq
      exact pending_taskRun h (by decide) (htask ▸ pending_tellLost hq')
    · rw [hf]; rfl
    · have hf' : u.flt.ff = some f := by rw [hquiet.flt]; exact hf
      exact hpend 0x27 (by decide) (pending_tellFirst hf' ht)
    · rw [hf]; rfl
    · have hnext := takeFault_told (takeFault s)
      exact hpend' _ (kindEvent_lt _) (hnext.pend _ (kindEvent_lt _) (takeFault_cons hq).2)
    · have hrail : (taskRun 1 2 (min 2 s.flt.queue.length) cyc faultTask s).rail i = (faultTask s).rail i :=
        congrArg (fun l : Tbl Rail => tget ({} : Rail) l i) honly.rails
      rw [hrail, htask]
      exact ⟨(hlost.rails i).1.trans ((hfirst.rails i).1.trans (hquiet.rails i).1),
        (hlost.rails i).2.trans ((hfirst.rails i).2.trans (hquiet.rails i).2)⟩

end

/-! # What the launch and the end of programs touch (R105, R108, R114) -/

namespace Sys2Proof.Machine

/-- The state without what programs, as they are launched and end, act on: the word code, the sequencer, the ledger, the bus
jobs and the stages' waiters. -/
def State.offLaunch (s : State) : State := { s with wc := {}, seq := {}, drt := {}, pmb := [], stgs := [] }

section
variable (s : State)

theorem offLaunch_withdrawItem (it : Item) : (withdrawItem it s).offLaunch = s.offLaunch := by
  unfold withdrawItem
  split
  · rfl
  · split
    · rfl
    · exact kept_ite State.offLaunch rfl

theorem offLaunch_withdrawCmd (c : RailCmd) : (withdrawCmd c s).offLaunch = s.offLaunch := by
  cases c <;> rfl

theorem offLaunch_withdrawMargin (m : MOp) : (withdrawMargin m s).offLaunch = s.offLaunch := kept_ite State.offLaunch rfl

theorem offLaunch_disown (n : Nat) : (disown n s).offLaunch = s.offLaunch := by
  have hstage (st : Nat) (u : State) : (if (u.stg st).waiters.contains (.prog n) then
      u.modStg st fun x => { x with waiters := x.waiters.filter (· ≠ .prog n) } else u).offLaunch = u.offLaunch :=
    kept_ite State.offLaunch rfl
  unfold disown
  extract_lets a q b c
  have ha : a.offLaunch = s.offLaunch := each_keep State.offLaunch (fun m u => offLaunch_withdrawMargin u m) _ s
  clear_value a
  exact (each_keep State.offLaunch hstage _ c).trans ha

theorem offLaunch_stopCmds (n : Nat) : (stopCmds n s).offLaunch = s.offLaunch :=
  each_keep State.offLaunch (fun c u => offLaunch_withdrawCmd u c) _ { s with seq := { s.seq with
    cmds := s.seq.cmds.filter fun c => !(c.2.ofProg n) } }

theorem offLaunch_progEnd (n status step : Nat) : (progEnd n status step s).offLaunch = s.offLaunch := by
  unfold progEnd
  extract_lets a b
  have ha : a.offLaunch = s.offLaunch :=
    (offLaunch_disown _ n).trans (each_keep State.offLaunch (fun it u => offLaunch_withdrawItem u it) _ s)
  have hb : b.offLaunch = a.offLaunch := kept_ite State.offLaunch (offLaunch_stopCmds a n)
  exact hb.trans ha

theorem offLaunch_readTable (a : Nat) : (readTable a s).2.offLaunch = s.offLaunch := by
  have hread (st a : Nat) (ts : Ts) (u : State) : (readWord ts st a u).2.offLaunch = u.offLaunch :=
    (congrArg State.offLaunch (offWc_readWord ts st a u) :)
  unfold readTable
  extract_lets r m
  have hr : r.2.offLaunch = s.offLaunch := hread ..
  clear_value r
  have hm : m.2.offLaunch = s.offLaunch := (hread ..).trans hr
  clear_value m
  split
  · exact hr
  · split
    · exact hm
    · exact hm

theorem offLaunch_readWords (l : List Nat) : (readWords l s).2.offLaunch = s.offLaunch := by
  induction l generalizing s with
  | nil => rfl
  | cons a l ih =>
    unfold readWords
    dsimp only
    split
    · exact (ih _).trans (offLaunch_readTable s a)
    · exact offLaunch_readTable s a

theorem offLaunch_fetchAt (n old i : Nat) : (fetchAt n old i s).offLaunch = s.offLaunch := by
  unfold fetchAt
  split
  · exact offLaunch_progEnd ..
  · extract_lets l all r u w items
    have hu : u.offLaunch = s.offLaunch := offLaunch_readWords s _
    clear_value u
    split
    · exact (offLaunch_progEnd ..).trans hu
    · split
      · exact (offLaunch_progEnd ..).trans hu
      · split
        · exact (offLaunch_progEnd ..).trans hu
        · exact hu

theorem offLaunch_progLaunch (n : Nat) : (progLaunch n s).offLaunch = s.offLaunch := by
  unfold progLaunch
  split
  · rfl
  · exact offLaunch_fetchAt (s.modProg n fun _ => { state := 1 }) ..

/-- The launch of the on-set acts as its programs' launches do, and ends the restart delay (R95). -/
theorem offLaunch_launchOnSet :
    (launchOnSet s).offLaunch = State.offLaunch { s with flt := { s.flt with restartLeft := none } } :=
  each_keep State.offLaunch (fun n u => offLaunch_progLaunch u n) s.onSet { s with
    seq := { s.seq with domain := .poweringUp, onset := s.onSet, onPending := false, onLaunch := false }
    flt := { s.flt with restartLeft := none } }

end

end Sys2Proof.Machine

/-! # The stack ring (R125, R127, R130, R157, R306, R324, R336, R337, R459) -/

namespace Sys2Proof.Machine

/-! ## A frame that arrives whole (R25, R325) -/

/-- The frame's payload has been taken into its port's buffer. -/
def arrived (f : Sys2Proof.LFrame) (s : State) : State :=
  wcWritten (0x19 + f.port) (s.port f.port).rxCount (s.modPort f.port fun x => { x with rxCount := (x.rxCount + 1) % 131072 })

theorem receive_whole {f : Sys2Proof.LFrame} {s : State} (h : Received f s) (k : State → State) :
    receive f k s = k (arrived f s) := by
  obtain ⟨hp, hst, hhdr, hdata⟩ := h
  unfold receive
  simp only [hhdr, hdata, Bool.not_true, Bool.false_eq_true, if_false, reduceCtorEq]
  rw [if_neg (by simp only [Bool.or_eq_true, decide_eq_true_eq]; omega)]
  rfl

/-- The state without the ports and the word code. -/
def State.offPorts (s : State) : State := { s with wc := {}, sca := { s.sca with ports := [] } }

theorem offPorts_arrived (f : Sys2Proof.LFrame) (s : State) : (arrived f s).offPorts = s.offPorts := rfl

/-! ## A STATUS at a member (R124, R336) -/

section
variable {s : State} {f : Sys2Proof.LFrame} {m : Nat}

/-- Only the master ends a commitment by what a STATUS shows (R179). -/
theorem viewCommit_member (h : s.role ≠ 1) (g : Nat) (old new : View) : viewCommit g old new s = s := by
  unfold viewCommit
  exact if_pos (by simp [h])

/-- A STATUS's off request is the master's to take (R128). -/
theorem statusOff_member (h : s.role ≠ 1) (v : Nat) : statusOff v s = s := by
  unfold statusOff
  exact if_pos (by simp [h])

/-- What a member knows of the stack's rails. -/
def State.offView (s : State) : State := { s with sca := { s.sca with view := [] } }

/-- The records of a STATUS enter a member's view, and change nothing else. -/
theorem offView_records (h : s.role ≠ 1) (l : List Nat) (v : Nat) : (each l (fun k s =>
    let r := statusRec v k
    let g := 96 * m + r.1
    if r.1 < 96 then
      viewCommit g (s.view g) r.2 (s.modView g fun x => { r.2 with tickGood := x.tickGood && r.2.db })
    else s) s).offView = s.offView := by
  refine each_keep_where State.offView (fun u => u.role ≠ 1) (fun k _ u hu => ?_) s h
  have hview (g : Nat) (r : View → View) : (u.modView g r).role ≠ 1 := hu
  dsimp only
  split
  · rw [viewCommit_member (hview _ _)]
    rfl
  · rfl

/-- A member takes a STATUS: its sender has joined, and its thermal headroom is known (R336). -/
theorem statusFrame_member (h : Received f s) (hg : s.portGroup f.port = 2) (hm : m ≤ 7) (hr : s.role ≠ 1) :
    (statusFrame f m s).sca.joined.testBit m = true ∧
      tget none (statusFrame f m s).drt.memberTherm m = some (nbits (payload f) 23 8) ∧
      (m = s.sca.elected → (statusFrame f m s).sca.stkAge = 0) ∧ (statusFrame f m s).rails = s.rails := by
  have hrole : (arrived f s).role ≠ 1 := hr
  have hgroup : (arrived f s).portGroup f.port = 2 := hg
  have helect : (arrived f s).sca.elected = s.sca.elected := rfl
  have hrails : (arrived f s).rails = s.rails := rfl
  unfold statusFrame
  rw [receive_whole h, ← helect, ← hrails]
  generalize arrived f s = u at hrole hgroup
  rw [if_neg (by simp [hgroup]; omega)]
  extract_lets v back w b clr o d c p shown need q last
  have hw : w.offView = u.offView := offView_records hrole _ v
  clear_value w
  have hshown : shown.role ≠ 1 := fun h => hrole ((congrArg State.role hw :).symm.trans h)
  have hlast : last = shown := if_neg (by simp [hshown])
  rw [hlast, statusOff_member hshown]
  refine ⟨?_, ?_, fun hm => if_pos (hm.trans (congrArg (fun t => t.sca.elected) hw :).symm), (congrArg State.rails hw :)⟩
  · change (w.sca.joined ||| 2 ^ m).testBit m = true
    simp [Nat.testBit_or, Nat.testBit_two_pow_self]
  · change tget none (tset none w.drt.memberTherm m (some (nbits v 23 8))) m = _
    exact tget_tset_same ..

end

/-! ## Command records (R125, R337) -/

/-- A member that does not act alone takes the records of its own that it does not hold already: the new section's for the
boundary after the next, the repeat's for the next (R337). -/
theorem cmdFrame_member {f : Sys2Proof.LFrame} {s : State} (h : Received f s) (hr : s.role = 2) (ha : s.sca.alone = false) :
    cmdFrame f s = { arrived f s with sca := { (arrived f s).sca with
      rx := s.sca.rx ++ (((cmdRecords 15 ((List.range (nbits (payload f) 4 1)).map fun k =>
        nbits (payload f) (16 + 16 * k + 15) (16 + 16 * k))).filter fun r => r.dest = s.index).filter fun r =>
          !((if (payload f).testBit 0 then 1 else 2) = 1 && s.sca.rx.contains (1, r))).map
            fun r => ((if (payload f).testBit 0 then 1 else 2), r) } } := by
  have hrole : (arrived f s).role = 2 := hr
  have halone : (arrived f s).sca.alone = false := ha
  unfold cmdFrame
  rw [receive_whole h, if_neg (by simp [hrole, halone])]
  rfl

/-! ## A relayed command (R306, R324) -/

/-- A command of the stack master that reaches a member is accepted under SRC 3; no row traffic comes with it. -/
theorem relayNow_command {f : Sys2Proof.LFrame} {s : State} (h : Received f s) (hg : s.portGroup f.port = 2) (hr : s.role = 2)
    (d : Desc) (kind : Nat) : relayNow f (some d) none kind s = acceptCmd d 3 0 0 (arrived f s) := by
  have hrole : (arrived f s).role = 2 := hr
  have hgroup : (arrived f s).portGroup f.port = 2 := hg
  unfold relayNow
  rw [receive_whole h, if_neg (by simp [hgroup])]
  simp only [hrole, if_true]
  have hrole' : (acceptCmd d 3 0 0 (arrived f s)).role = 2 :=
    (congrArg State.role (acceptEntry_parts d 3 0 (arrived f s)).1 :).trans hrole
  unfold relayKind
  rw [if_pos (by simp [hrole'])]

/-- A command accepted has its entry, is live and waits to take effect (R44, R299). -/
theorem acceptCmd_parts (d : Desc) (src ring head : Nat) (s : State) : (acceptCmd d src ring head s).jrn.head = s.nextSeq ∧
    ∃ l, (acceptCmd d src ring head s).hst.live = s.hst.live ++ [l] ∧
      (acceptCmd d src ring head s).hst.decided = s.hst.decided ++ [l] ∧ l.seq = s.nextSeq ∧
      l.relayed = decide (src ≠ 0) ∧ l.d = d := by
  obtain ⟨-, -, hh, -⟩ := acceptEntry_parts d src ring s
  exact ⟨rfl, _, congrArg (fun h : Hst => h.live ++ _) hh, congrArg (fun h : Hst => h.decided ++ _) hh, rfl, rfl, rfl⟩

/-! ## Losses (R127, R130, R337) -/

/-- A class that the stack holds up is left alone once CLASS_SYNC has passed: none waits any more (R127). -/
theorem sync_openClass {i : Nat} {s : State} (h : s.off.sync = none) : (openClass i s).off.sync = none := by
  obtain ⟨⟨b, hoff⟩, -⟩ := offRead_parts i s
  have hs : (offRead i s).off.sync = none := (congrArg (fun u => u.off.sync) hoff :).trans h
  unfold openClass tableEnd
  dsimp only
  split
  · exact hs
  · split
    · exact hs
    · split
      · exact hs
      · rw [off_offComplete]

theorem classSyncNow_expires {s : State} (hr : s.off.run = true) (hs : s.off.sync.isSome = true) :
    (classSyncNow s).off.sync = none ∧ Pending 0x41 (classSyncNow s) := by
  unfold classSyncNow syncExpire
  rw [if_pos hs, if_pos (by simp [hr])]
  refine ⟨?_, pending_raise _ _ _ _ _ (by decide) (.inl rfl)⟩
  rw [(eventsOnly_raise ..).off]
  exact sync_openClass rfl

/-! ## The stack's join (R459) -/

/-- The link and the events. -/
def State.signals (s : State) := (s.sca, s.evt)

section
variable (s : State)

theorem signals_finishAll (w : Wait → Bool) (st res : Nat) : (finishAll w st res s).signals = s.signals :=
  (congrArg State.signals (offTell_finishAll w st res s) :)

theorem signals_resumeRun : (resumeRun s).signals = s.signals := by
  unfold resumeRun
  extract_lets l a b c
  have ha : a.signals = s.signals := signals_finishAll ..
  clear_value a
  have hb : b.signals = a.signals := signals_finishAll ..
  clear_value b
  exact (each_keep State.signals (fun i u => (rfl : (State.modRail i _ u).signals = u.signals)) l _).trans (hb.trans ha)

theorem signals_onRequest : (onRequest s).2.signals = s.signals := by
  unfold onRequest
  split
  · rfl
  · rfl
  · split
    · rfl
    · split
      · split
        · exact signals_resumeRun s
        · rfl
      · split
        · rfl
        · exact (congrArg State.signals (offLaunch_launchOnSet s) :)

theorem signals_onRequestNow : (onRequestNow s).signals = s.signals :=
  kept_branch State.signals rfl (kept_branch State.signals rfl (signals_onRequest s))

/-- The held on request that proceeds changes neither the link nor the events. -/
theorem signals_joinDone : (joinDone s).signals = s.signals :=
  kept_branch State.signals (kept_branch State.signals rfl (signals_onRequestNow _)) rfl

end

/-- The bits of a sum of different powers of two. -/
theorem testBit_sum_two_pow {l : List Nat} (h : l.SortedLT) (m : Nat) :
    ((l.map fun m => 2 ^ m).foldl (· + ·) 0).testBit m = true ↔ m ∈ l := by
  rw [← List.sum_eq_foldl, ← Nat.mem_bitIndices, Nat.bitIndices_sum_map_two_pow h]

/-- The members of the stack that have not joined (R459). -/
def missing (s : State) : List Nat :=
  (List.range 8).filter fun m => (s.cf 0x4008 12 5).testBit m && m ≠ s.index && !s.sca.joined.testBit m

theorem missing_sorted (s : State) : (missing s).SortedLT :=
  ((List.sortedLT_range 8).pairwise.filter _).sortedLT

theorem stackJoinEnd_parts {s : State} (hr : s.role = 1) (hj : s.sca.joinStack.isSome = true) :
    (stackJoinEnd s).sca.joinStack = none ∧ Pending 0xB0 (stackJoinEnd s) ∧
      (stackJoinEnd s).sca.lostMembers = s.sca.lostMembers ||| ((missing s).map fun m => 2 ^ m).foldl (· + ·) 0 := by
  let late : State := { s with sca := { s.sca with
    joinStack := none, lostMembers := s.sca.lostMembers ||| ((missing s).map fun m => 2 ^ m).foldl (· + ·) 0 } }
  let told := raise 0xB0 late.tsB (detQ 0 0 0 0 0 0 ((missing s).headD 0)) late
  have hend : stackJoinEnd s = joinDone told := if_pos (by simp [hr, hj])
  have hsig : (stackJoinEnd s).signals = told.signals := (congrArg State.signals hend).trans (signals_joinDone told)
  have hsca : (stackJoinEnd s).sca = late.sca := (congrArg (·.1) hsig :).trans (eventsOnly_raise ..).sca
  have hevt : (stackJoinEnd s).evt = told.evt := (congrArg (·.2) hsig :)
  have hpend : Pending 0xB0 told := pending_raise _ _ _ _ _ (by decide) (.inl rfl)
  refine ⟨by rw [hsca], ?_, by rw [hsca]⟩
  unfold Pending at hpend ⊢
  rwa [hevt]

end Sys2Proof.Machine

section
open Sys2Proof Sys2Proof.Machine

/-- Settles O41: a member's STATUS (`statusFrame_member`) and records (`cmdFrame_member`), a relayed command
(`relayNow_command`), the losses, and the join that runs out (`stackJoinEnd_parts`). -/
theorem stackRing : Obligations.StackRing := by
  refine ⟨fun f m s h hg hm hr => ⟨_, rfl, statusFrame_member h hg hm hr⟩, fun f s h hr ha hb => ?_, fun f s h hr ha hb => ?_,
    fun s hr => ?_, fun f d kind s h hg hr => ?_, fun m s hr hc => ?_, fun m s hr hm hi => ?_,
    fun s hr hs => ⟨_, rfl, classSyncNow_expires hr hs⟩, fun s hr hj => ?_⟩
  · refine ⟨_, congrArg Host.Outcome.next (cmdFrame_member h hr ha), ?_, rfl, rfl⟩
    simp [hb]
  · refine ⟨_, congrArg Host.Outcome.next (cmdFrame_member h hr ha), ?_, rfl⟩
    simp [hb, List.filter_filter, Bool.and_comm]
  · have hloss : commandLoss s = raise 0xAC s.tsB (detL 2 s.node 0 0) { s with sca := { s.sca with cmdLoss := 32 } } := if_pos hr
    have honly := eventsOnly_raise 0xAC s.tsB (detL 2 s.node 0 0) { s with sca := { s.sca with cmdLoss := 32 } }
    refine ⟨_, congrArg Host.Outcome.next hloss, ?_, pending_raise _ _ _ _ _ (by decide) (.inl rfl), ?_⟩
    · rw [honly.sca]
    · rw [honly.sca]
      exact honly
  · refine ⟨_, congrArg Host.Outcome.next (relayNow_command h hg hr d kind), ?_⟩
    obtain ⟨hhead, l, hlive, hdec, hseq, hrel, hd⟩ := acceptCmd_parts d 3 0 0 (arrived f s)
    exact ⟨hhead, l, hlive, hdec, hseq, hrel, hd⟩
  · let lone : State := { s with sca := { s.sca with alone := true, rx := [] } }
    have honly := eventsOnly_raise 0x42 s.tsB (detQ 0 0 0 0 0 0 s.sca.elected) lone
    have hloss : memberLoss m s = raise 0x42 s.tsB (detQ 0 0 0 0 0 0 s.sca.elected) lone := by
      have hcb : (raise 0x42 s.tsB (detQ 0 0 0 0 0 0 s.sca.elected) lone).cb 0x4008 13 = false := by
        rw [State.cb, State.cw, honly.cfg]
        exact hc
      unfold memberLoss
      rw [if_pos hr]
      exact if_neg (by rw [hcb]; decide)
    refine ⟨_, congrArg Host.Outcome.next hloss, ?_, ?_, pending_raise _ _ _ _ _ (by decide) (.inl rfl), honly.off⟩
    · rw [honly.sca]
    · rw [honly.sca]
  · let lost : State := { s with sca := { s.sca with lostMembers := s.sca.lostMembers ||| 2 ^ m } }
    have honly := eventsOnly_raise 0x42 s.tsB (detQ 0 0 0 0 0 0 m) lost
    have hloss : memberLoss m s = raise 0x42 s.tsB (detQ 0 0 0 0 0 0 m) lost := by
      unfold memberLoss
      rw [if_neg (by omega)]
      exact if_pos (by simp [hr, hm, hi])
    refine ⟨_, congrArg Host.Outcome.next hloss, ?_, pending_raise _ _ _ _ _ (by decide) (.inl rfl), honly.off⟩
    rw [honly.sca]
    simp [lost, Nat.testBit_or, Nat.testBit_two_pow_self]
  · obtain ⟨hnone, hpend, hlost⟩ := stackJoinEnd_parts hr hj
    refine ⟨_, rfl, hnone, hpend, fun m hm hin hne hnot => ?_⟩
    have hmem : m ∈ missing s := List.mem_filter.mpr ⟨List.mem_range.mpr hm, by simp [hin, hne, hnot]⟩
    rw [hlost, Nat.testBit_or, (testBit_sum_two_pow (missing_sorted s) m).mpr hmem, Bool.or_true]

end

/-! # The commands on the domain and its programs (R95, R96, R105, R116, R122, R302) -/

namespace Sys2Proof.Machine

/-! ## A command that waits for more than was parked (R301) -/

section
variable {op r : Nat} {d : Desc} {s v : State} {w : Wait} {l : Live} {q : Nat}

/-- The telling of ended programs leaves a command alone whose program has none to tell of. -/
theorem livesOf_progsTell_single (h : s.livesOf q = [l]) (hw : ∀ n, l.wait = .prog n → (s.prog n).untold = false) :
    (progsTell s).livesOf q = [l] := by
  let R (u : State) : Prop := u.livesOf q = [l] ∧ ∀ n, l.wait = .prog n → (u.prog n).untold = false
  refine (each_invariant R (fun n u hu => ?_) (List.range 64) s ⟨h, hw⟩).1
  obtain ⟨hlive, htold⟩ := hu
  refine ⟨?_, fun k hk => ?_⟩
  · unfold progTell
    extract_lets p
    split
    · next hp =>
      have hl : ∀ x ∈ (u.modProg n fun p => { p with untold := false }).livesOf q, decide (x.wait = .prog n) = false := by
        have hsame : (u.modProg n fun p => { p with untold := false }).livesOf q = [l] := hlive
        intro x hx
        rw [hsame, List.mem_singleton] at hx
        subst hx
        exact decide_eq_false fun hn => absurd (htold n hn) (by simp [show (u.prog n).untold = true from hp])
      exact (livesOf_finishAll hl _ _).trans hlive
    · exact hlive
  · rw [progTell_prog]
    split
    · rfl
    · exact htold k hk

/-- A command whose effect leaves it live, parked with `w`, waits behind its row (R301). -/
theorem waiting_of_parked (h : Taken op r d s) (hop : op ≠ 0x81) (hb : usesBuf op = true → d.bufOk = true)
    (hd : readsBuf op = true → d.dmaOk = true) (he : cmdEffect (cmdLive op r d s) (cmdState op r d s) = v)
    (hent : v.entries = (cmdState op r d s).entries) (hl : v.livesOf s.nextSeq = [{ cmdLive op r d s with wait := w }])
    (hprog : ∀ n, w = .prog n → (v.prog n).untold = false) :
    Waiting op r d w s (hostRow op r d s) ∧ Told v (hostRow op r d s) := by
  have happly : applyCmd (cmdLive op r d s) (cmdState op r d s) =
      startedPost s.nextSeq (relayOut { d with opcode := op } v) := by
    rw [applyCmd_effect hop hb hd rfl, he]
    rfl
  obtain ⟨hhst, -, hoff, hprogs⟩ := hostRow_parts h happly
  obtain ⟨x, hx⟩ := livesOf_startedPost ((livesOf_congr (live_relayOut { d with opcode := op } v) _).trans hl)
  have hseq : (startedPost s.nextSeq (relayOut { d with opcode := op } v)).seq = v.seq :=
    (seq_startedPost ..).trans (seq_relayOut ..)
  have htold := livesOf_progsTell_single hx fun n hn => by
    rw [State.prog, hseq]
    exact hprog n hn
  have hlive : (hostRow op r d s).liveOf s.nextSeq = some { cmdLive op r d s with wait := w, started := x } := by
    rw [liveOf_eq_head?, livesOf_congr (congrArg Hst.live hhst), htold]
    rfl
  refine ⟨⟨entered_hostRow h happly ?_, _, hlive, rfl, rfl, rfl⟩, hoff.trans ?_, fun m hm => ?_⟩
  · exact (entries_startedPost ..).trans ((entries_relayOut ..).trans hent)
  · exact (offTell_startedPost ..).trans (offTell_relayOut ..)
  · rw [hprogs m hm, State.prog, hseq, State.prog]

theorem livesOf_cmdState_of_taken (h : Taken op r d s) : (cmdState op r d s).livesOf s.nextSeq = [cmdLive op r d s] :=
  livesOf_eq_cmdLive h rfl

/-- A member takes no command marked Master (R306). -/
theorem role_of_taken (h : Taken op r d s) (hm : masterOp op = true) : s.role ≠ 2 := by
  intro hr
  obtain ⟨-, -, hrej, -⟩ := h
  unfold rejects at hrej
  dsimp only at hrej
  split at hrej
  · cases hrej
  · split at hrej
    · cases hrej
    · split at hrej
      · cases hrej
      · rw [if_pos ⟨hr, hm⟩] at hrej
        cases hrej

end

/-! ## What an off request touches (R96, R114, R116) -/

/-- The state without what an off request withdraws and cancels; of the faults' state the restart delay is kept. -/
def State.offHalt (s : State) : State :=
  { s.offLaunch with rails := [], flt := { ({} : Flt) with restartLeft := s.flt.restartLeft } }

section
variable {s t : State}

theorem offHalt_of_offLaunch (h : t.offLaunch = s.offLaunch) : t.offHalt = s.offHalt := (congrArg State.offHalt h :)

theorem offHalt_withdrawRails (l : List Nat) (s : State) : (withdrawRails l s).offHalt = s.offHalt := by
  have hprog (g : List Nat) (n : Nat) (u : State) : (if (u.prog n).items.any (grantedOn g) then
      (each ((u.prog n).items.filter (grantedOn g)) withdrawItem u).modProg n fun p => { p with items := p.items.map (ungrant g) }
      else u).offHalt = u.offHalt :=
    kept_ite State.offHalt (each_keep State.offHalt (fun it u => offHalt_of_offLaunch (offLaunch_withdrawItem u it)) _ u)
  have hresume (i : Nat) (u : State) : (let f := (u.rail i).fig
      alogWithdraw (u.grail i) 2 (((u.rail i).resume.map (·.order)).getD 0) f.prio f.inrush f.steady (commitEnd (.rail (u.grail i))
        (u.modRail i fun r => { r with resume := none }))).offHalt = u.offHalt := rfl
  unfold withdrawRails
  extract_lets g a b c q
  have ha : a.offHalt = s.offHalt := each_keep State.offHalt (hprog g) _ s
  clear_value a
  have hb : b.offHalt = a.offHalt := each_keep State.offHalt hresume _ a
  clear_value b
  exact (each_keep State.offHalt (fun c u => offHalt_of_offLaunch (offLaunch_withdrawCmd u c)) _ _).trans (hb.trans ha)

theorem offHalt_cancelRestarts (full : Bool) (l : List Nat) (s : State) : (cancelRestarts full l s).offHalt = s.offHalt := by
  unfold cancelRestarts
  refine each_keep State.offHalt (fun n u => ?_) _ s
  exact kept_ite State.offHalt rfl

theorem offHalt_dropResumes (s : State) : (dropResumes s).offHalt = s.offHalt := by
  unfold dropResumes
  refine kept_ite State.offHalt (each_keep State.offHalt (fun i u => ?_) _ s)
  rfl

theorem offHalt_cancelRetry (i : Nat) (s : State) : (cancelRetry i s).offHalt = s.offHalt := by
  unfold cancelRetry
  dsimp only
  split
  · split <;> rfl
  · rfl

/-- What a full run does besides its rails leaves the run as it is; only commands that wait for DOMAIN up end (R94, R117). -/
theorem fullRunActs_parts (s : State) : (fullRunActs s).off = s.off ∧ (fullRunActs s).flt.restartLeft = s.flt.restartLeft ∧
    (fullRunActs s).entries = s.entries ∧ (fullRunActs s).seq.domain = .poweringDown ∧
    ∀ q, (∀ l ∈ s.livesOf q, l.wait ≠ .domainUp) → (fullRunActs s).livesOf q = s.livesOf q := by
  unfold fullRunActs
  extract_lets a b c
  have ha : a.offHalt = s.offHalt :=
    each_keep State.offHalt (fun n u => offHalt_of_offLaunch (offLaunch_progEnd u n 3 (u.prog n).current)) _ s
  clear_value a
  have hhst : a.hst = s.hst := (congrArg State.hst ha :)
  have hb : b.offTell = a.offTell := kept_branch State.offTell rfl (offTell_finishAll ..)
  have hent : b.entries = a.entries :=
    kept_branch State.entries rfl (each_keep State.entries (fun q u => entries_finishAt 0 q stStopped 0 u) _ a)
  have hlive (q : Nat) (h : ∀ l ∈ a.livesOf q, l.wait ≠ .domainUp) : b.livesOf q = a.livesOf q :=
    kept_branch (State.livesOf q) rfl (livesOf_finishAll (fun l hl => decide_eq_false (h l hl)) _ _)
  clear_value b
  refine ⟨(congrArg State.off hb :).trans (congrArg State.off ha :), (congrArg (fun u => u.flt.restartLeft) hb :).trans
    (congrArg (fun u => u.flt.restartLeft) ha :), Eq.trans hent (congrArg State.entries ha :), rfl, fun q h => ?_⟩
  have hsame : a.livesOf q = s.livesOf q := livesOf_congr (congrArg Hst.live hhst) q
  exact (hlive q (hsame ▸ h)).trans hsame

/-- An off request that finds no run begins one of its scope and source (R114, R117). -/
theorem offRequest_begins (src groups : Nat) (full : Bool) (h : s.off.run = false) : ∃ u : State,
    u.offHalt = State.offHalt { s with off := u.off } ∧ u.off.run = true ∧ u.off.full = full ∧ u.off.src = src ∧
      u.off.groups = (if full then 0 else groups) ∧ offRequest src full groups s = if full then fullRunActs u else u := by
  unfold offRequest
  rw [if_neg (show ¬(s.off.run && s.off.full && !full && decide (src = 1)) = true by simp [h])]
  extract_lets l a b c rel held e was q o u
  have ha : a.offHalt = s.offHalt := offHalt_withdrawRails ..
  clear_value a
  have hb : b.offHalt = a.offHalt := offHalt_cancelRestarts ..
  clear_value b
  have hc : c.offHalt = b.offHalt := offHalt_dropResumes ..
  clear_value c
  have he : e.offHalt = c.offHalt := each_keep State.offHalt offHalt_cancelRetry _ c
  clear_value e
  have hall : e.offHalt = s.offHalt := he.trans (hc.trans (hb.trans ha))
  have hrun : e.off.run = false := (congrArg (fun u => u.off.run) hall :).trans h
  have hwas : was = false := by simp [was, hrun]
  have ho : o.run = true ∧ o.full = full ∧ o.src = src ∧ o.groups = groups := by
    have : o = _ := if_neg (by simp [hrun])
    rw [this]
    exact ⟨rfl, rfl, rfl, rfl⟩
  clear_value o
  obtain ⟨ho1, ho2, ho3, ho4⟩ := ho
  rw [hwas, Bool.not_false, Bool.and_true]
  refine ⟨u, (congrArg (fun x : State => { x with off := u.off }) hall :), ho1, ho2, ho3, ?_, rfl⟩
  change (if o.full = true then 0 else o.groups) = _
  rw [ho2, ho4]

/-- A command whose off request begins a run waits for it (R96, R301). -/
theorem offRequest_parked {q : Nat} {l : Live} (groups : Nat) (full : Bool) (w : Wait) (h : s.off.run = false)
    (hl : s.livesOf q = [l]) (hw : l.wait ≠ .domainUp) : ∃ v : State, offRequest 0 full groups s = v ∧ v.entries = s.entries ∧
      (park q w v).livesOf q = [{ l with wait := w }] ∧ v.off.run = true ∧ v.off.full = full ∧ v.off.src = 0 ∧
      v.off.groups = (if full then 0 else groups) ∧ v.flt.restartLeft = s.flt.restartLeft ∧
      (full = true → v.seq.domain = .poweringDown) := by
  obtain ⟨u, hu, hrun, hfull, hsrc, hgroups, heq⟩ := offRequest_begins 0 groups full h
  have hent : u.entries = s.entries := (congrArg State.entries hu :)
  have hleft : u.flt.restartLeft = s.flt.restartLeft := (congrArg (fun x => x.flt.restartLeft) hu :)
  have hhst : u.hst = s.hst := (congrArg State.hst hu :)
  have hlive : u.livesOf q = [l] := (livesOf_congr (congrArg Hst.live hhst) q).trans hl
  refine ⟨_, rfl, ?_⟩
  rw [heq]
  cases full with
  | false => exact ⟨hent, livesOf_park hlive w, hrun, hfull, hsrc, hgroups, hleft, fun hf => absurd hf (by decide)⟩
  | true =>
    obtain ⟨hoff, hleft', hent', hdom, hkeep⟩ := fullRunActs_parts u
    have hlive' : (fullRunActs u).livesOf q = [l] := (hkeep q (by simp [hlive, hw])).trans hlive
    rw [if_pos rfl, hoff]
    exact ⟨hent'.trans hent, livesOf_park hlive' w, hrun, hfull, hsrc, hgroups, hleft'.trans hleft, fun _ => hdom⟩

end

/-! ## The domain's commands as they take effect (R95, R96) -/

section
variable {s : State}

/-- The state without the counts of the groups' restarts. -/
def State.offCounts (s : State) : State := { s with flt := { s.flt with grps := [] } }

theorem offCounts_clearCounts (s : State) : (clearCounts s).offCounts = s.offCounts := by
  unfold clearCounts
  refine each_keep State.offCounts (fun n u => ?_) _ s
  rfl

theorem offCounts_cancelRestarts (full : Bool) (l : List Nat) (s : State) : (cancelRestarts full l s).offCounts = s.offCounts := by
  unfold cancelRestarts
  refine each_keep State.offCounts (fun n u => ?_) _ s
  exact kept_ite State.offCounts rfl

/-- The state without the commands to the members. -/
def State.offTx (s : State) : State := { s with sca := { s.sca with tx := [] } }

theorem offTx_toMembers (f : Nat → CmdRec) (s : State) : (toMembers f s).offTx = s.offTx :=
  kept_branch State.offTx rfl rfl

theorem onRequest_already (h : s.seq.domain = .up ∨ s.seq.domain = .poweringUp) : onRequest s = (2, s) := by
  unfold onRequest
  rcases h with h | h <;> rw [h]

theorem onRequest_launches (h1 : s.seq.domain ≠ .up) (h2 : s.seq.domain ≠ .poweringUp) (hr : s.off.run = false)
    (he : s.off.ended = false) (hw : revertWaits s = false) : onRequest s = (0, launchOnSet s) := by
  unfold onRequest
  split
  · next h => exact absurd h h2
  · next h => exact absurd h h1
  · simp only [he, hr, hw, Bool.false_and, Bool.false_eq_true, if_false]

/-- POWER_ON with neither a run nor a join in the way launches the on-set, clears the counts of restarts and waits for DOMAIN. -/
theorem cmdPowerOn_launches {l : Live} (hj : joining s = false) (ho : onRequest s = (0, launchOnSet s)) :
    (cmdPowerOn l s).entries = s.entries ∧ (cmdPowerOn l s).hst = (park l.seq .domainUp s).hst ∧
      (cmdPowerOn l s).seqTop = (.poweringUp, false, s.onSet) ∧ (cmdPowerOn l s).flt.restarts = 0 ∧
      (cmdPowerOn l s).flt.restartExh = false ∧ (cmdPowerOn l s).flt.restartLeft = none := by
  have hlaunch := offLaunch_launchOnSet s
  have htop := seqTop_launchOnSet s
  have hcounts := offCounts_clearCounts (park l.seq .domainUp (launchOnSet s))
  have hcmd : cmdPowerOn l s = (let v := clearCounts (park l.seq .domainUp (launchOnSet s))
      { v with flt := { v.flt with restarts := 0, restartExh := false, restartLeft := none } }) := by
    unfold cmdPowerOn
    rw [hj, ho]
    rfl
  rw [hcmd]
  generalize launchOnSet s = u at hlaunch htop hcounts
  generalize clearCounts (park l.seq .domainUp u) = v at hcounts
  have hhst : u.hst = s.hst := (congrArg State.hst hlaunch :)
  refine ⟨?_, ?_, ?_, rfl, rfl, rfl⟩
  · exact (congrArg State.entries hcounts :).trans (congrArg State.entries hlaunch :)
  · refine (congrArg State.hst hcounts :).trans ?_
    dsimp only [park]
    rw [hhst]
    rfl
  · exact (congrArg State.seqTop hcounts :).trans htop

end

section
variable {s : State} {l : Live}

/-- The state without that of the faults. -/
def State.offFaults (s : State) : State := { s with flt := {} }

theorem offFaults_of_offCounts {t : State} (h : t.offCounts = s.offCounts) : t.offFaults = s.offFaults :=
  (congrArg State.offFaults h :)

theorem restartLeft_of_offCounts {t : State} (h : t.offCounts = s.offCounts) : t.flt.restartLeft = s.flt.restartLeft :=
  (congrArg (fun x : State => x.flt.restartLeft) h :)

/-- An off command's first act: the counts and the delay of restarts are cleared (R150, R156). -/
theorem clearCounts_restartLeft {u : State} (h : u = { s with flt := { s.flt with restartLeft := none } }) :
    (clearCounts u).offFaults = s.offFaults ∧ (clearCounts u).flt.restartLeft = none := by
  have hcounts := offCounts_clearCounts u
  have hkept : u.offFaults = s.offFaults := h ▸ rfl
  have hnone : u.flt.restartLeft = none := h ▸ rfl
  exact ⟨(offFaults_of_offCounts hcounts).trans hkept, (restartLeft_of_offCounts hcounts).trans hnone⟩

theorem cmdPowerOff_eq (l : Live) (s : State) : ∃ v, v.offFaults = s.offFaults ∧ v.flt.restartLeft = none ∧ cmdPowerOff l s =
    if v.seq.domain = .off then finish l.seq stAlready 0 (cancelRestarts true [] v)
    else toMembers (fun m => .offRun m true 0) (park l.seq .offRun (offRequest 0 true 0 v)) := by
  obtain ⟨hkept, hleft⟩ := clearCounts_restartLeft (s := s) rfl
  exact ⟨_, hkept, hleft, rfl⟩

theorem undisturbed_of_offFaults {t : State} (h : t.offFaults = s.offFaults) : Undisturbed s t :=
  ⟨(congrArg State.entries h :), (congrArg (fun x : State => x.hst.live) h :)⟩

/-- In DOMAIN OFF a POWER_OFF cancels restarts and ends (R96, R150). -/
theorem cmdPowerOff_off (h : s.seq.domain = .off) :
    ∃ v, cmdPowerOff l s = finish l.seq stAlready 0 v ∧ Undisturbed s v := by
  obtain ⟨v, hkept, hleft, hcmd⟩ := cmdPowerOff_eq l s
  rw [hcmd]
  have hcancel := (offFaults_of_offCounts (offCounts_cancelRestarts true [] v)).trans hkept
  have hdom : v.seq.domain = .off := (congrArg (fun x : State => x.seq.domain) hkept :).trans h
  exact ⟨_, if_pos hdom, undisturbed_of_offFaults hcancel⟩

/-- In any other domain a POWER_OFF that finds no run begins a full one and waits for it (R96, R114). -/
theorem cmdPowerOff_begins (h : s.seq.domain ≠ .off) (hr : s.off.run = false) (hl : s.livesOf l.seq = [l])
    (hw : l.wait ≠ .domainUp) : (cmdPowerOff l s).entries = s.entries ∧
      (cmdPowerOff l s).livesOf l.seq = [{ l with wait := .offRun }] ∧ (cmdPowerOff l s).off.run = true ∧
      (cmdPowerOff l s).off.full = true ∧ (cmdPowerOff l s).off.src = 0 ∧ (cmdPowerOff l s).off.groups = 0 ∧
      (cmdPowerOff l s).seq.domain = .poweringDown ∧ (cmdPowerOff l s).flt.restartLeft = none := by
  obtain ⟨v, hkept, hleft, hcmd⟩ := cmdPowerOff_eq l s
  rw [hcmd]
  have hsame : v.seq = s.seq := (congrArg State.seq hkept :)
  have hrun : v.off.run = false := (congrArg (fun x : State => x.off.run) hkept :).trans hr
  have hlive : v.livesOf l.seq = [l] := (livesOf_congr (congrArg (fun x : State => x.hst.live) hkept :) _).trans hl
  have hent : v.entries = s.entries := (congrArg State.entries hkept :)
  obtain ⟨u, hu, huent, hulive, hurun, hfull, hsrc, hgroups, huleft, hdown⟩ := offRequest_parked 0 true .offRun hrun hlive hw
  rw [if_neg (hsame ▸ h), hu]
  have htx := offTx_toMembers (fun m => .offRun m true 0) (park l.seq .offRun u)
  generalize toMembers (fun m => .offRun m true 0) (park l.seq .offRun u) = t at htx
  have hoff : t.off = u.off := (congrArg State.off htx :)
  have hflt : t.flt = u.flt := (congrArg State.flt htx :)
  have hseq : t.seq = u.seq := (congrArg State.seq htx :)
  rw [hoff, hflt, hseq]
  exact ⟨(congrArg State.entries htx :).trans (huent.trans hent),
    (livesOf_congr (congrArg (fun x : State => x.hst.live) htx :) _).trans hulive, hurun, hfull, hsrc, hgroups, hdown rfl,
    huleft.trans hleft⟩

end

/-! ## PROG_LAUNCH and PROG_ABORT (R105, R122) -/

section
variable {s : State} {n : Nat}

/-- A launch of a program that does not run, whose first entry is a valid single step in a word that can be read. -/
theorem progLaunch_single (hst : (s.prog n).state ≠ 1) (hr : s.role ≠ 2) (h1 : 768 ≤ s.cf (0x4100 + 4 * n) 12 0)
    (h3 : opOf (s.entryAt (s.cf (0x4100 + 4 * n) 12 0)) ≠ 2) (h4 : hasExt (s.entryAt (s.cf (0x4100 + 4 * n) 12 0)) = false)
    (h5 : stepOk s (s.entryAt (s.cf (0x4100 + 4 * n) 12 0)) = true)
    (hw : s.wordOut 0x11 (s.cf (0x4100 + 4 * n) 12 0 / 4) ≠ .uncorrectable) (m : Nat) :
    (progLaunch n s).prog m = if m = n then {
      state := 1, step := s.cf (0x4100 + 4 * n) 12 0, next := s.cf (0x4100 + 4 * n) 12 0 + 1
      items := [newItem s (s.cf (0x4100 + 4 * n) 12 0)] } else s.prog m := by
  have h2 : s.cf (0x4100 + 4 * n) 12 0 ≤ 8191 := Nat.le_of_lt_succ (Nat.mod_lt _ (by decide))
  obtain ⟨u, hu, hf⟩ := fetchAt_single (s := s.modProg n fun _ => { state := 1 }) n (s.cf (0x4100 + 4 * n) 12 0) h1 h2 h3 h4 h5 hw
  have hlaunch : progLaunch n s = u.modProg n fun p => { p with
      items := [newItem s (s.cf (0x4100 + 4 * n) 12 0)], step := s.cf (0x4100 + 4 * n) 12 0,
      next := s.cf (0x4100 + 4 * n) 12 0 + 1 } := by
    unfold progLaunch
    rw [if_neg (by simp [hst, hr])]
    exact hf
  have hprog (j : Nat) : u.prog j = if j = n then { state := 1 } else s.prog j :=
    (congrArg (State.prog · j) hu :).trans (State.modProg_prog ..)
  rw [hlaunch, State.modProg_prog, hprog n, if_pos rfl]
  split
  · rfl
  · next hm => rw [hprog, if_neg hm]

/-- An abort of every program that finds none, running or ended at this boundary (R116, R122; log 90). -/
theorem abortEach_none (h : s.running = []) (he : ∀ n, n < 64 → (s.prog n).endedNow = false) :
    abortEach s = (if s.off.run then stRefused else stNotRunning, s) := by
  have hlate : ((List.range 64).filter fun n => (s.prog n).endedNow && (s.prog n).status = 1) = [] := by
    rw [List.filter_eq_nil_iff]
    intro n hn
    simp [he n (List.mem_range.mp hn)]
  have hall : abortAll s = (stNotRunning, s) := by
    unfold abortAll
    simp only [h, hlate, List.isEmpty_nil, if_true]
  unfold abortEach
  rw [hall]
  simp

end

end Sys2Proof.Machine

namespace Sys2Proof.Machine

/-! ## The commands behind their rows (R51, R301) -/

section
variable {op r : Nat} {d : Desc} {s v : State} {st res : Nat} {w : Wait}

/-- A command without a buffer whose effect ends it. -/
theorem ended_unbuffered (h : Taken op r d s) (hop : op ≠ 0x81) (hu : usesBuf op = false) (hr : readsBuf op = false)
    (hres : res < 2 ^ 64) (he : cmdEffect (cmdLive op r d s) (cmdState op r d s) = finish s.nextSeq st res v)
    (hv : Undisturbed (cmdState op r d s) v) : Ended op r d st res s (hostRow op r d s) ∧ Told v (hostRow op r d s) :=
  ended_of_effect h hop (fun hb => absurd hb (by simp [hu])) (fun hb => absurd hb (by simp [hr])) hres he hv

/-- A command without a buffer whose effect ends it and leaves the sequencer alone. -/
theorem seqTold_unbuffered (h : Taken op r d s) (hop : op ≠ 0x81) (hu : usesBuf op = false) (hr : readsBuf op = false)
    (he : cmdEffect (cmdLive op r d s) (cmdState op r d s) = finish s.nextSeq st 0 (cmdState op r d s)) :
    Ended op r d st 0 s (hostRow op r d s) ∧ SeqTold s (hostRow op r d s) := by
  obtain ⟨hend, htold⟩ := ended_unbuffered h hop hu hr (by decide) he ⟨rfl, rfl⟩
  exact ⟨hend, seqTold_of_told htold seq_cmdState⟩

/-- A command without a buffer whose effect parks it. -/
theorem waiting_unbuffered (h : Taken op r d s) (hop : op ≠ 0x81) (hu : usesBuf op = false) (hr : readsBuf op = false)
    (he : cmdEffect (cmdLive op r d s) (cmdState op r d s) = v) (hent : v.entries = (cmdState op r d s).entries)
    (hl : v.livesOf s.nextSeq = [{ cmdLive op r d s with wait := w }]) (hprog : ∀ n, w = .prog n → (v.prog n).untold = false) :
    Waiting op r d w s (hostRow op r d s) ∧ Told v (hostRow op r d s) :=
  waiting_of_parked h hop (fun hb => absurd hb (by simp [hu])) (fun hb => absurd hb (by simp [hr])) he hent hl hprog

theorem undisturbed_of_offLaunch {u : State} (h : v.offLaunch = u.offLaunch) : Undisturbed u v :=
  ⟨(congrArg State.entries h :), (congrArg (fun x : State => x.hst.live) h :)⟩

theorem undisturbed_of_offCounts {u : State} (h : v.offCounts = u.offCounts) : Undisturbed u v :=
  ⟨(congrArg State.entries h :), (congrArg (fun x : State => x.hst.live) h :)⟩

theorem joining_cmdState : joining (cmdState op r d s) = joining s := of_cmdState joining fun _ => rfl

theorem domain_cmdState : (cmdState op r d s).seq.domain = s.seq.domain := congrArg Seq.domain seq_cmdState

theorem off_cmdState : (cmdState op r d s).off = s.off := (congrArg State.off offTaking_cmdState :)

theorem prog_cmdState (n : Nat) : (cmdState op r d s).prog n = s.prog n := by rw [State.prog, seq_cmdState, State.prog]

/-- The entry of a command is no word of the on-table. -/
theorem tableOut_cmdState {a : Nat} (ha : a < 131072) : (cmdState op r d s).wordOut 0x11 a = s.wordOut 0x11 a := by
  obtain ⟨-, -, -, hwc⟩ := acceptEntry_parts { d with opcode := op } 0 r
    (s.modRing (8 + r) fun x => { x with resv := x.resv + needs d })
  have hwc' : (cmdState op r d s).wc = (wcWritten 0x12 (s.jrn.next % 4096) s).wc := hwc
  have herr : tget 0 (cmdState op r d s).wc.err (wkey 0x11 a) = tget 0 s.wc.err (wkey 0x11 a) := by
    rw [hwc']
    exact err_wcWritten (by unfold wkey; omega) s
  simp only [State.wordOut, if_neg (show (0x11 : Nat) ≠ 0x18 by decide), herr]

end

section
variable {r : Nat} {d : Desc} {s : State}

/-- POWER_ON where DOMAIN is up or on its way up (R95). -/
theorem powerOn_already (h : Taken 0x01 r d s) (hj : joining s = false) (hd : s.seq.domain = .up ∨ s.seq.domain = .poweringUp) :
    Ended 0x01 r d stAlready 0 s (hostRow 0x01 r d s) := by
  refine (ended_unbuffered h (by decide) rfl rfl (by decide) (v := cmdState 0x01 r d s) ?_ ⟨rfl, rfl⟩).1
  change cmdPowerOn _ _ = _
  unfold cmdPowerOn
  rw [joining_cmdState, hj, onRequest_already (domain_cmdState.symm ▸ hd)]
  rfl

/-- POWER_ON that launches the on-set (R95, R150, R156). -/
theorem powerOn_waits (h : Taken 0x01 r d s) (hj : joining s = false) (hup : s.seq.domain ≠ .up)
    (hpu : s.seq.domain ≠ .poweringUp) (hrun : s.off.run = false) (hended : s.off.ended = false) (hrev : revertWaits s = false) :
    Waiting 0x01 r d .domainUp s (hostRow 0x01 r d s) ∧ (hostRow 0x01 r d s).seq.domain = .poweringUp ∧
      (hostRow 0x01 r d s).seq.onset = s.onSet ∧ (hostRow 0x01 r d s).flt.restarts = 0 ∧
      (hostRow 0x01 r d s).flt.restartExh = false ∧ (hostRow 0x01 r d s).flt.restartLeft = none := by
  have hset : (cmdState 0x01 r d s).onSet = s.onSet := of_cmdState State.onSet fun _ => rfl
  have hon : onRequest (cmdState 0x01 r d s) = (0, launchOnSet (cmdState 0x01 r d s)) :=
    onRequest_launches (by rwa [domain_cmdState]) (by rwa [domain_cmdState]) (by rwa [off_cmdState])
      (by rwa [off_cmdState]) ((of_cmdState revertWaits fun _ => rfl).trans hrev)
  obtain ⟨hent, hhst, htop, hrs, hexh, hleft⟩ := cmdPowerOn_launches (l := cmdLive 0x01 r d s) (joining_cmdState.trans hj) hon
  have hlive := (livesOf_congr (congrArg Hst.live hhst) s.nextSeq).trans
    (livesOf_park (livesOf_cmdState_of_taken h) .domainUp)
  obtain ⟨hwait, htold⟩ := waiting_unbuffered h (by decide) rfl rfl rfl hent hlive (by simp)
  obtain ⟨hdom, -, honset⟩ := seqTop_parts ((seqTop_of_offTell htold.1).trans htop)
  rw [flt_of_offTell htold.1]
  exact ⟨hwait, hdom, honset.trans hset, hrs, hexh, hleft⟩

/-- POWER_OFF in DOMAIN OFF (R96). -/
theorem powerOff_already (h : Taken 0x02 r d s) (hd : s.seq.domain = .off) :
    Ended 0x02 r d stAlready 0 s (hostRow 0x02 r d s) := by
  obtain ⟨v, hv, hund⟩ := cmdPowerOff_off (l := cmdLive 0x02 r d s) (domain_cmdState.trans hd)
  exact (ended_unbuffered h (by decide) rfl rfl (by decide) hv hund).1

/-- POWER_OFF begins a full run (R96, R114). -/
theorem powerOff_waits (h : Taken 0x02 r d s) (hd : s.seq.domain ≠ .off) (hrun : s.off.run = false) :
    Waiting 0x02 r d .offRun s (hostRow 0x02 r d s) ∧ (hostRow 0x02 r d s).off.run = true ∧
      (hostRow 0x02 r d s).off.full = true ∧ (hostRow 0x02 r d s).off.src = 0 ∧ (hostRow 0x02 r d s).off.groups = 0 ∧
      (hostRow 0x02 r d s).seq.domain = .poweringDown ∧ (hostRow 0x02 r d s).flt.restartLeft = none := by
  obtain ⟨hent, hl, hvrun, hfull, hsrc, hgroups, hdown, hleft⟩ := cmdPowerOff_begins (l := cmdLive 0x02 r d s)
    (domain_cmdState.symm ▸ hd) ((congrArg Off.run off_cmdState).trans hrun) (livesOf_cmdState_of_taken h) (by simp [cmdLive])
  obtain ⟨hwait, htold⟩ := waiting_unbuffered h (by decide) rfl rfl rfl hent hl (by simp)
  have hoffs : (hostRow 0x02 r d s).off = (cmdPowerOff (cmdLive 0x02 r d s) (cmdState 0x02 r d s)).off := (congrArg State.off htold.1 :)
  have hdomain : (hostRow 0x02 r d s).seq.domain = (cmdPowerOff (cmdLive 0x02 r d s) (cmdState 0x02 r d s)).seq.domain :=
    (congrArg (fun x : State => x.seq.domain) htold.1 :)
  rw [hoffs, hdomain, flt_of_offTell htold.1]
  exact ⟨hwait, hvrun, hfull, hsrc, hgroups, hdown, hleft⟩

/-- GROUP_OFF begins a run of its groups (R96, R114). -/
theorem groupOff_waits (h : Taken 0x03 r d s) (hd : s.seq.domain ≠ .off) (hrun : s.off.run = false) :
    Waiting 0x03 r d (.groupRun (d.arg 15 0)) s (hostRow 0x03 r d s) ∧ (hostRow 0x03 r d s).off.run = true ∧
      (hostRow 0x03 r d s).off.full = false ∧ (hostRow 0x03 r d s).off.src = 0 ∧
      (hostRow 0x03 r d s).off.groups = d.arg 15 0 := by
  have hoff : (cmdState 0x03 r d s).off.run = false := (congrArg Off.run off_cmdState).trans hrun
  obtain ⟨v, hv, hent, hl, hvrun, hfull, hsrc, hgroups, -, -⟩ :=
    offRequest_parked (d.arg 15 0) false (.groupRun (d.arg 15 0)) hoff (livesOf_cmdState_of_taken h) (by simp [cmdLive])
  have htx := offTx_toMembers (fun m => .offRun m false (d.arg 15 0)) (park s.nextSeq (.groupRun (d.arg 15 0)) v)
  have heff : cmdEffect (cmdLive 0x03 r d s) (cmdState 0x03 r d s) =
      toMembers (fun m => .offRun m false (d.arg 15 0)) (park s.nextSeq (.groupRun (d.arg 15 0)) v) := by
    change cmdGroupOff _ _ = _
    unfold cmdGroupOff
    exact (if_neg (domain_cmdState.symm ▸ hd)).trans (by rw [← hv]; rfl)
  obtain ⟨hwait, htold⟩ := waiting_unbuffered h (by decide) rfl rfl heff ((congrArg State.entries htx :).trans hent)
    ((livesOf_congr (congrArg (fun x : State => x.hst.live) htx :) _).trans hl) (by simp)
  have hoffs : (hostRow 0x03 r d s).off = v.off := (congrArg State.off htold.1 :).trans (congrArg State.off htx :)
  rw [hoffs]
  exact ⟨hwait, hvrun, hfull, hsrc, hgroups⟩

/-- PROG_LAUNCH of a program that runs (R105). -/
theorem progLaunch_already (h : Taken 0x04 r d s) (hv : s.progValid (d.arg 5 0) = true) (hs : (s.prog (d.arg 5 0)).state = 1) :
    Ended 0x04 r d stAlready 0 s (hostRow 0x04 r d s) ∧ SeqTold s (hostRow 0x04 r d s) := by
  have hvalid : (cmdState 0x04 r d s).progValid (d.arg 5 0) = true := (of_cmdState (State.progValid · _) fun _ => rfl).trans hv
  have hstate : ((cmdState 0x04 r d s).prog (d.arg 5 0)).state = 1 := (congrArg Prog.state (prog_cmdState _)).trans hs
  refine seqTold_unbuffered h (by decide) rfl rfl ?_
  change cmdProgLaunch _ _ = _
  unfold cmdProgLaunch
  exact (if_neg (show ¬(!(cmdState 0x04 r d s).progValid (d.arg 5 0)) = true by simp [hvalid])).trans (if_pos hstate)

/-- A command parked on its acceptance reads the configuration, the on-table and the programs as before its row. -/
theorem parked_reads {op : Nat} (w : Wait) :
    (∀ i, (park s.nextSeq w (cmdState op r d s)).entryAt i = s.entryAt i) ∧
      (∀ a hi lo, (park s.nextSeq w (cmdState op r d s)).cf a hi lo = s.cf a hi lo) ∧
      (∀ e, stepOk (park s.nextSeq w (cmdState op r d s)) e = stepOk s e) ∧
      (park s.nextSeq w (cmdState op r d s)).role = s.role ∧
      (∀ a, a < 131072 → (park s.nextSeq w (cmdState op r d s)).wordOut 0x11 a = s.wordOut 0x11 a) ∧
      (∀ n, (park s.nextSeq w (cmdState op r d s)).prog n = s.prog n) ∧
      (park s.nextSeq w (cmdState op r d s)).entries = (cmdState op r d s).entries :=
  ⟨fun i => of_cmdState (State.entryAt · i) fun _ => rfl, fun a hi lo => of_cmdState (State.cf · a hi lo) fun _ => rfl,
    fun e => of_cmdState (stepOk · e) fun _ => rfl, of_cmdState State.role fun _ => rfl, fun _ => tableOut_cmdState,
    prog_cmdState, rfl⟩

/-- PROG_LAUNCH waits for the program it starts at its first step (R105). -/
theorem progLaunch_waits (h : Taken 0x04 r d s) (hv : s.progValid (d.arg 5 0) = true) (hs : (s.prog (d.arg 5 0)).state ≠ 1)
    (h1 : 768 ≤ s.cf (0x4100 + 4 * d.arg 5 0) 12 0) (h3 : opOf (s.entryAt (s.cf (0x4100 + 4 * d.arg 5 0) 12 0)) ≠ 2)
    (h4 : hasExt (s.entryAt (s.cf (0x4100 + 4 * d.arg 5 0) 12 0)) = false)
    (h5 : stepOk s (s.entryAt (s.cf (0x4100 + 4 * d.arg 5 0) 12 0)) = true)
    (hw : s.wordOut 0x11 (s.cf (0x4100 + 4 * d.arg 5 0) 12 0 / 4) ≠ .uncorrectable) :
    Waiting 0x04 r d (.prog (d.arg 5 0)) s (hostRow 0x04 r d s) ∧ ((hostRow 0x04 r d s).prog (d.arg 5 0)).state = 1 ∧
      ((hostRow 0x04 r d s).prog (d.arg 5 0)).step = s.cf (0x4100 + 4 * d.arg 5 0) 12 0 ∧
      ((hostRow 0x04 r d s).prog (d.arg 5 0)).status = 0 ∧
      ∀ m, m < 64 → m ≠ d.arg 5 0 → (hostRow 0x04 r d s).prog m = { s.prog m with untold := false } := by
  have hn : d.arg 5 0 < 64 := Nat.mod_lt _ (by decide)
  have hi : s.cf (0x4100 + 4 * d.arg 5 0) 12 0 < 8192 := Nat.mod_lt _ (by decide)
  have heff : cmdEffect (cmdLive 0x04 r d s) (cmdState 0x04 r d s) =
      progLaunch (d.arg 5 0) (park s.nextSeq (.prog (d.arg 5 0)) (cmdState 0x04 r d s)) := by
    have hvalid : (cmdState 0x04 r d s).progValid (d.arg 5 0) = true := (of_cmdState (State.progValid · _) fun _ => rfl).trans hv
    have hstate : ((cmdState 0x04 r d s).prog (d.arg 5 0)).state ≠ 1 := (prog_cmdState _).symm ▸ hs
    change cmdProgLaunch _ _ = _
    unfold cmdProgLaunch
    exact (if_neg (show ¬(!(cmdState 0x04 r d s).progValid (d.arg 5 0)) = true by simp [hvalid])).trans (if_neg hstate)
  have hlive := livesOf_park (livesOf_cmdState_of_taken h) (.prog (d.arg 5 0))
  obtain ⟨hentry, hstart, hok, hrole, hword, hprog, hent⟩ := parked_reads (op := 0x04) (r := r) (d := d) (s := s) (.prog (d.arg 5 0))
  generalize park s.nextSeq (.prog (d.arg 5 0)) (cmdState 0x04 r d s) = u at heff hlive hentry hstart hok hrole hword hprog hent
  have hlaunch := offLaunch_progLaunch u (d.arg 5 0)
  have hsingle (m : Nat) := progLaunch_single (s := u) (n := d.arg 5 0) (by rwa [hprog]) (hrole.symm ▸ role_of_taken h rfl)
    (by rwa [hstart]) (by rwa [hstart, hentry]) (by rwa [hstart, hentry]) (by rwa [hstart, hentry, hok])
    (by rwa [hstart, hword _ (by omega)]) m
  obtain ⟨hwait, -, hprogs⟩ := waiting_unbuffered h (by decide) rfl rfl heff ((congrArg State.entries hlaunch :).trans hent)
    ((livesOf_congr (congrArg (fun x : State => x.hst.live) hlaunch :) _).trans hlive)
    (fun m hm => by rw [hsingle, ← Wait.prog.inj hm, if_pos rfl])
  have hown := hprogs _ hn
  rw [hsingle, if_pos rfl] at hown
  refine ⟨hwait, ?_, ?_, ?_, fun m hm hne => ?_⟩
  · rw [hown]
  · rw [hown]
    exact hstart ..
  · rw [hown]
  · rw [hprogs m hm, hsingle, if_neg hne, hprog]

/-- PROG_ABORT of a program that runs (R122). -/
theorem progAbort_running (h : Taken 0x05 r d s) (ha : d.args.getLsbD 6 = false) (hs : (s.prog (d.arg 5 0)).state = 1) :
    Ended 0x05 r d 0 0 s (hostRow 0x05 r d s) ∧ ((hostRow 0x05 r d s).prog (d.arg 5 0)).state = 4 ∧
      ((hostRow 0x05 r d s).prog (d.arg 5 0)).status = 2 ∧
      ((hostRow 0x05 r d s).prog (d.arg 5 0)).step = (s.prog (d.arg 5 0)).current ∧
      ((hostRow 0x05 r d s).prog (d.arg 5 0)).items = [] ∧
      ∀ m, m < 64 → m ≠ d.arg 5 0 → (hostRow 0x05 r d s).prog m = { s.prog m with untold := false } := by
  have hn : d.arg 5 0 < 64 := Nat.mod_lt _ (by decide)
  have heff : cmdEffect (cmdLive 0x05 r d s) (cmdState 0x05 r d s) = finish s.nextSeq stOk 0
      (progEnd (d.arg 5 0) 2 (s.prog (d.arg 5 0)).current (cmdState 0x05 r d s)) := by
    have habort : abortProg (d.arg 5 0) (cmdState 0x05 r d s) =
        (stOk, progEnd (d.arg 5 0) 2 (s.prog (d.arg 5 0)).current (cmdState 0x05 r d s)) := by
      unfold abortProg
      rw [prog_cmdState, if_pos hs]
    have hone : (if (cmdLive 0x05 r d s).d.args.getLsbD 6 then abortEach (cmdState 0x05 r d s)
        else abortProg ((cmdLive 0x05 r d s).d.arg 5 0) (cmdState 0x05 r d s)) = _ :=
      (if_neg (show ¬d.args.getLsbD 6 = true from ha ▸ Bool.false_ne_true)).trans habort
    change cmdProgAbort _ _ = _
    unfold cmdProgAbort
    rw [hone]
    rfl
  obtain ⟨hend, -, hprogs⟩ := ended_unbuffered h (by decide) rfl rfl (by decide) heff
    (undisturbed_of_offLaunch (offLaunch_progEnd ..))
  have hown := hprogs _ hn
  rw [progEnd_prog, if_pos rfl] at hown
  refine ⟨hend, ?_, ?_, ?_, ?_, fun m hm hne => ?_⟩
  · rw [hown]
  · rw [hown]
  · rw [hown]
  · rw [hown]
  · rw [hprogs m hm, progEnd_prog, if_neg hne, prog_cmdState]

/-- PROG_ABORT of every program where none runs (R116, R122; log 90). -/
theorem progAbort_none (h : Taken 0x05 r d s) (ha : d.args.getLsbD 6 = true) (hrun : s.running = [])
    (hended : ∀ n, n < 64 → (s.prog n).endedNow = false) :
    Ended 0x05 r d (if s.off.run then stRefused else stNotRunning) 0 s (hostRow 0x05 r d s) ∧ SeqTold s (hostRow 0x05 r d s) := by
  have hnone : abortEach (cmdState 0x05 r d s) = (if s.off.run then stRefused else stNotRunning, cmdState 0x05 r d s) := by
    rw [abortEach_none ((of_cmdState State.running fun _ => rfl).trans hrun) fun n hn => by rw [prog_cmdState, hended n hn],
      off_cmdState]
  have hall : (if (cmdLive 0x05 r d s).d.args.getLsbD 6 then abortEach (cmdState 0x05 r d s)
      else abortProg ((cmdLive 0x05 r d s).d.arg 5 0) (cmdState 0x05 r d s)) = _ := (if_pos ha).trans hnone
  refine seqTold_unbuffered h (by decide) rfl rfl ?_
  change cmdProgAbort _ _ = _
  unfold cmdProgAbort
  rw [hall]
  rfl

end

end Sys2Proof.Machine

section
open Sys2Proof Sys2Proof.Machine

/-- Settles O32: each row ends, or waits for what its effect on the domain or its programs began. -/
theorem domainCommands : Obligations.DomainCommands :=
  ⟨fun _ _ _ h => ⟨_, rfl, (seqTold_unbuffered h (by decide) rfl rfl rfl).1⟩,
    fun _ _ _ h hj hd => ⟨_, rfl, powerOn_already h hj hd⟩,
    fun _ _ _ h hj hup hpu hrun hended hrev => ⟨_, rfl, powerOn_waits h hj hup hpu hrun hended hrev⟩,
    fun _ _ _ h hd => ⟨_, rfl, powerOff_already h hd⟩,
    fun _ _ _ h hd hrun => ⟨_, rfl, powerOff_waits h hd hrun⟩,
    fun _ _ _ h hd hrun => ⟨_, rfl, groupOff_waits h hd hrun⟩,
    fun _ _ _ h hv hs h1 h3 h4 h5 hw => ⟨_, rfl, progLaunch_waits h hv hs h1 h3 h4 h5 hw⟩,
    fun _ _ _ h hv hs => ⟨_, rfl, progLaunch_already h hv hs⟩,
    fun _ _ _ h ha hs => ⟨_, rfl, progAbort_running h ha hs⟩,
    fun _ _ _ h ha hrun hended => ⟨_, rfl, progAbort_none h ha hrun hended⟩⟩

end

/-! # The commands on retries, margins, faults and stages (R103, R111, R148, R153, R159, R255, R266) -/

namespace Sys2Proof.Machine

/-! ## The effects, case by case -/

section
variable {l : Live} {s : State}

theorem cmdRetryCancel_local (h1 : l.d.args.getLsbD 10 = false) (h2 : s.grailOk (l.d.arg 9 0) = true)
    (h3 : l.d.arg 9 0 / 96 = s.index) : cmdRetryCancel l s = if (s.rail (l.d.arg 9 0 % 96)).retryPend then
      finish l.seq stOk 0 (cancelRetry (l.d.arg 9 0 % 96) s) else finish l.seq stNotRunning 0 s := by
  unfold cmdRetryCancel
  dsimp only
  rw [if_neg (ne_true_of_eq_false h1), if_neg (by rw [h2]; decide), if_neg (not_not_intro h3)]

theorem cmdMargin_some {w x : Nat} (h : marginArgs s l.d = some (w, x)) : cmdMargin l s =
    if (s.railView (nbits w 57 48)).1 ≠ 3 then finish l.seq stRefused 0 s
    else park l.seq (.margin (nbits w 57 48)) { s with seq := { s.seq with
      margins := s.seq.margins ++ [marginOf (.cmd l.seq) w x { since := s.clk.frame }] } } := by
  unfold cmdMargin
  rw [h]

theorem cmdMargin_none (h : marginArgs s l.d = none) : cmdMargin l s = finish l.seq stBadArg 0 s := by
  unfold cmdMargin
  rw [h]

theorem cmdStageStart_some {sl : Nat} (h : startSlew l.d = some sl) (hm : s.memberOk (l.d.arg 4 2) = true) :
    cmdStageStart l s = park l.seq (.stage (l.d.arg 1 0) (l.d.args.getLsbD 21)) { s with seq := { s.seq with
      starts := s.seq.starts ++ [{
        member := l.d.arg 4 2, stage := l.d.arg 1 0, vset := l.d.arg 20 5, slew := sl, wait := l.d.args.getLsbD 21, seq := l.seq
        cand := { since := s.clk.frame } }] } } := by
  unfold cmdStageStart
  rw [h]
  exact if_neg (show ¬(!s.memberOk (l.d.arg 4 2)) = true by rw [hm]; decide)

theorem cmdStageStop_local (hm : s.memberOk (l.d.arg 4 2) = true) (hi : l.d.arg 4 2 = s.index) : cmdStageStop l s =
    if (s.stg (l.d.arg 1 0)).st.running then finish l.seq stOk 0 (stageStopNow (l.d.arg 1 0) s) else finish l.seq stAlready 0 s := by
  unfold cmdStageStop
  dsimp only
  rw [if_neg (by rw [hm]; decide), if_neg (not_not_intro hi)]

theorem cmdStageClear_local (hm : s.memberOk (l.d.arg 4 2) = true) (hi : l.d.arg 4 2 = s.index) : cmdStageClear l s =
    if (s.stg (l.d.arg 1 0)).st = .safeOff || (s.stg (l.d.arg 1 0)).st = .off then
      finish l.seq stOk 0 (stageClearNow (l.d.arg 1 0) s) else finish l.seq stRefused 0 s := by
  unfold cmdStageClear
  dsimp only
  rw [if_neg (by rw [hm]; decide), if_neg (not_not_intro hi)]

end

/-! ## What they touch -/

section
variable (s : State) (i : Nat)

theorem cancelRetry_rail : ((cancelRetry i s).rail i) = { s.rail i with retryPend := false, backoff := 0, retry := none } := by
  obtain ⟨u, hu, he⟩ := cancelRetry_eq i s
  rw [he, State.modRail_rail_same, onRails_rail hu]

/-- The state without what the stage engines and the ledger's commitments hold. -/
def State.offStages (s : State) : State := { s with drt := {}, stgs := [], phases := [] }

theorem offStages_stageHalt (dst : SState) : (stageHalt i dst s).offStages = s.offStages := by
  unfold stageHalt
  extract_lets u
  exact kept_ite State.offStages (s := u) rfl

/-- A stage halted in `dst` (R252, R255). -/
def Stg.halted (dst : SState) (x : Stg) : Stg := { x with
  st := dst, switching := false, staged := none, drops := [], hicFound := false, inBand := 0, preset := false
  frz := none, noFb := 0, ovRun := 0, uvRun := 0, clamped := 0, floored := false, floorCnt := 0, floorTold := false
  lowCnt := [], chkBad := false, susTold := false }

theorem stageHalt_stg (dst : SState) (j : Nat) :
    (stageHalt i dst s).stg j = if j = i then (s.stg i).halted dst else s.stg j := by
  unfold stageHalt
  extract_lets u
  have hu : u.stg j = if j = i then (s.stg i).halted dst else s.stg j := State.modStg_stg ..
  split
  · exact hu
  · exact hu

/-- A command that halts a SAFE_OFF stage. -/
def safeHalt (i : Nat) (s : State) : State := if (s.stg i).st = .safeOff then stageHalt i .off s else s

theorem offStages_safeHalt : (safeHalt i s).offStages = s.offStages :=
  kept_ite State.offStages (offStages_stageHalt s i .off)

theorem safeHalt_stg (j : Nat) : (safeHalt i s).stg j =
    if j = i ∧ (s.stg i).st = .safeOff then (s.stg i).halted .off else s.stg j := by
  unfold safeHalt
  by_cases hs : (s.stg i).st = .safeOff
  · rw [if_pos hs, stageHalt_stg]
    exact if_congr (by simp [hs]) rfl rfl
  · rw [if_neg hs, if_neg (fun h => hs h.2)]

/-- A stage cleared of its fault, its dropped phases and its retry (R255, R275). -/
def Stg.cleared (x : Stg) : Stg := { x with faulted := false, dropped := 0, backoff := none, retry := none }

/-- A phase no longer dropped for a reason (R275). -/
def clearWhy (i k : Nat) (s : State) : State := s.modPhase (8 * i + k) fun p => { p with why := 0 }

theorem offStages_modStg (f : Stg → Stg) : (s.modStg i f).offStages = s.offStages := rfl

theorem stageClearNow_eq : ∃ u : State, u.offStages = s.offStages ∧
    (∀ j, u.stg j = if j = i then ((safeHalt i s).stg i).cleared else (safeHalt i s).stg j) ∧
    stageClearNow i s = each (List.range 8) (clearWhy i) u := by
  have hoff := offStages_safeHalt s i
  have heq : stageClearNow i s = each (List.range 8) (clearWhy i)
      (stageRetryDrop i ((safeHalt i s).modStg i fun x => { x with faulted := false, dropped := 0 })) := rfl
  generalize safeHalt i s = a at hoff heq ⊢
  refine ⟨stageRetryDrop i (a.modStg i fun x => { x with faulted := false, dropped := 0 }),
    (offStages_modStg ..).trans ((offStages_modStg ..).trans hoff), fun j => ?_, heq⟩
  rw [stageRetryDrop, State.modStg_stg, State.modStg_stg_same, State.modStg_stg]
  split <;> rfl

theorem offStages_stageClearNow : (stageClearNow i s).offStages = s.offStages := by
  obtain ⟨u, hu, -, heq⟩ := stageClearNow_eq s i
  rw [heq]
  exact (each_keep State.offStages (f := clearWhy i) (fun _ _ => rfl) _ u).trans hu

theorem stageClearNow_stg (j : Nat) : (stageClearNow i s).stg j =
    if j = i then ((safeHalt i s).stg i).cleared else (safeHalt i s).stg j := by
  obtain ⟨u, -, hstg, heq⟩ := stageClearNow_eq s i
  rw [heq]
  exact (each_keep (State.stg · j) (f := clearWhy i) (fun _ _ => rfl) _ u).trans (hstg j)

theorem each_modPhase_phase (f : Phase → Phase) (b n j : Nat) :
    (each (List.range n) (fun k v => v.modPhase (b + k) f) s).phase j =
      if b ≤ j ∧ j < b + n then f (s.phase j) else s.phase j := by
  induction n with
  | zero => rw [if_neg (by omega)]; rfl
  | succ n ih =>
    have hstep : each (List.range (n + 1)) (fun k v => v.modPhase (b + k) f) s =
        (each (List.range n) (fun k v => v.modPhase (b + k) f) s).modPhase (b + n) f := by
      rw [each, List.range_succ, List.foldl_append]
      rfl
    rw [hstep, State.modPhase_phase]
    by_cases hj : j = b + n
    · subst hj
      rw [if_pos rfl, ih, if_neg (by omega), if_pos (by omega)]
    · rw [if_neg hj, ih]
      exact if_congr (by omega) rfl rfl

theorem stageClearNow_phase {k : Nat} (h : k < 8) : ((stageClearNow i s).phase (8 * i + k)).why = 0 := by
  obtain ⟨u, -, -, heq⟩ := stageClearNow_eq s i
  have hphase := each_modPhase_phase u (fun p => { p with why := 0 }) (8 * i) 8 (8 * i + k)
  rw [if_pos (by omega)] at hphase
  rw [heq]
  exact congrArg Phase.why hphase

end

/-! ## The commands behind their rows -/

section
variable {op r : Nat} {d : Desc} {s : State}

theorem undisturbed_of_offHalt {u v : State} (h : v.offHalt = u.offHalt) : Undisturbed u v :=
  ⟨(congrArg State.entries h :), (congrArg (fun x : State => x.hst.live) h :)⟩

theorem undisturbed_of_offStages {u v : State} (h : v.offStages = u.offStages) : Undisturbed u v :=
  ⟨(congrArg State.entries h :), (congrArg (fun x : State => x.hst.live) h :)⟩

theorem rails_cmdState : (cmdState op r d s).rails = s.rails := (congrArg State.rails offTaking_cmdState :)

theorem rail_cmdState (i : Nat) : (cmdState op r d s).rail i = s.rail i := by rw [State.rail, rails_cmdState, State.rail]

theorem stgs_cmdState : (cmdState op r d s).stgs = s.stgs := (congrArg State.stgs offTaking_cmdState :)

theorem stg_cmdState (i : Nat) : (cmdState op r d s).stg i = s.stg i := by rw [State.stg, stgs_cmdState, State.stg]

theorem flt_cmdState : (cmdState op r d s).flt = s.flt := (congrArg State.flt offTaking_cmdState :)

/-- RETRY_CANCEL of a rail of this node (R148). -/
theorem retryCancel_cancels (h : Taken 0x09 r d s) (h1 : d.args.getLsbD 10 = false) (h2 : s.grailOk (d.arg 9 0) = true)
    (h3 : d.arg 9 0 / 96 = s.index) (hp : (s.rail (d.arg 9 0 % 96)).retryPend = true) :
    Ended 0x09 r d 0 0 s (hostRow 0x09 r d s) ∧ ((hostRow 0x09 r d s).rail (d.arg 9 0 % 96)).retryPend = false ∧
      ((hostRow 0x09 r d s).rail (d.arg 9 0 % 96)).retry = none ∧ ((hostRow 0x09 r d s).rail (d.arg 9 0 % 96)).backoff = 0 ∧
      ((hostRow 0x09 r d s).rail (d.arg 9 0 % 96)).st = (s.rail (d.arg 9 0 % 96)).st ∧
      ∀ j, j ≠ d.arg 9 0 % 96 → (hostRow 0x09 r d s).rail j = s.rail j := by
  have heff := (cmdRetryCancel_local (l := cmdLive 0x09 r d s) (s := cmdState 0x09 r d s) h1
    ((of_cmdState (State.grailOk · _) fun _ => rfl).trans h2) (h3.trans (of_cmdState State.index fun _ => rfl).symm)).trans
    (if_pos ((congrArg Rail.retryPend (rail_cmdState _)).trans hp))
  obtain ⟨hend, htold⟩ := ended_unbuffered h (by decide) rfl rfl (by decide) heff
    (undisturbed_of_offHalt (offHalt_cancelRetry ..))
  have hrail (j : Nat) : (hostRow 0x09 r d s).rail j = _ := (congrArg (State.rail · j) htold.1 :)
  have hown := (hrail (d.arg 9 0 % 96)).trans (cancelRetry_rail ..)
  rw [rail_cmdState] at hown
  refine ⟨hend, ?_, ?_, ?_, ?_, fun j hj => ?_⟩
  · rw [hown]
  · rw [hown]
  · rw [hown]
  · exact (congrArg Rail.st hown :)
  · exact (hrail j).trans ((cancelRetry_ne _ _ hj).trans (rail_cmdState j))

theorem retryCancel_notPending (h : Taken 0x09 r d s) (h1 : d.args.getLsbD 10 = false) (h2 : s.grailOk (d.arg 9 0) = true)
    (h3 : d.arg 9 0 / 96 = s.index) (hp : (s.rail (d.arg 9 0 % 96)).retryPend = false) :
    Ended 0x09 r d stNotRunning 0 s (hostRow 0x09 r d s) ∧ (hostRow 0x09 r d s).rails = s.rails := by
  have heff := (cmdRetryCancel_local (l := cmdLive 0x09 r d s) (s := cmdState 0x09 r d s) h1
    ((of_cmdState (State.grailOk · _) fun _ => rfl).trans h2) (h3.trans (of_cmdState State.index fun _ => rfl).symm)).trans
    (if_neg (ne_true_of_eq_false ((congrArg Rail.retryPend (rail_cmdState _)).trans hp)))
  obtain ⟨hend, htold⟩ := ended_unbuffered h (by decide) rfl rfl (by decide) heff ⟨rfl, rfl⟩
  exact ⟨hend, (congrArg State.rails htold.1 :).trans rails_cmdState⟩

theorem marginArgs_cmdState : marginArgs (cmdState op r d s) (cmdLive op r d s).d = marginArgs s d :=
  of_cmdState (marginArgs · { d with opcode := op }) fun _ => rfl

/-- MARGIN of a rail that is up waits as a candidate of the next frame (R89, R110). -/
theorem margin_waits {w x : Nat} (h : Taken 0x0A r d s) (hm : marginArgs s d = some (w, x))
    (hv : (s.railView (nbits w 57 48)).1 = 3) : Waiting 0x0A r d (.margin (nbits w 57 48)) s (hostRow 0x0A r d s) ∧
      (hostRow 0x0A r d s).seq.margins = s.seq.margins ++ [marginOf (.cmd s.nextSeq) w x { since := s.clk.frame + 1 }] ∧
      (hostRow 0x0A r d s).rails = s.rails := by
  have hview : (cmdState 0x0A r d s).railView (nbits w 57 48) = s.railView (nbits w 57 48) :=
    of_cmdState (State.railView · _) fun _ => rfl
  have heff := (cmdMargin_some (l := cmdLive 0x0A r d s) (marginArgs_cmdState.trans hm)).trans
    (if_neg (not_not_intro ((congrArg Prod.fst hview).trans hv)))
  obtain ⟨hwait, htold⟩ := waiting_of_effect h (by decide) (fun hb => absurd hb (by decide)) (fun hb => absurd hb (by decide))
    (by simp) heff ⟨rfl, rfl⟩
  refine ⟨hwait, (congrArg (fun u : State => u.seq.margins) htold.1 :).trans ?_, (congrArg State.rails htold.1 :).trans rails_cmdState⟩
  rw [← frame_cmdState (op := 0x0A) (r := r) (d := d) (s := s), ← seq_cmdState (op := 0x0A) (r := r) (d := d) (s := s)]
  rfl

theorem margin_refused {w x : Nat} (h : Taken 0x0A r d s) (hm : marginArgs s d = some (w, x))
    (hv : (s.railView (nbits w 57 48)).1 ≠ 3) :
    Ended 0x0A r d stRefused 0 s (hostRow 0x0A r d s) ∧ SeqTold s (hostRow 0x0A r d s) := by
  have hview : (cmdState 0x0A r d s).railView (nbits w 57 48) = s.railView (nbits w 57 48) :=
    of_cmdState (State.railView · _) fun _ => rfl
  exact seqTold_unbuffered h (by decide) rfl rfl ((cmdMargin_some (l := cmdLive 0x0A r d s) (marginArgs_cmdState.trans hm)).trans
    (if_pos (hview.symm ▸ hv)))

theorem margin_badArg (h : Taken 0x0A r d s) (hm : marginArgs s d = none) :
    Ended 0x0A r d stBadArg 0 s (hostRow 0x0A r d s) ∧ SeqTold s (hostRow 0x0A r d s) :=
  seqTold_unbuffered h (by decide) rfl rfl (cmdMargin_none (l := cmdLive 0x0A r d s) (marginArgs_cmdState.trans hm))

/-- The state without the captures of a first fault. -/
def State.offFirst (s : State) : State :=
  { s with flt := { s.flt with ff := none }, sca := { s.sca with rff := none, bcast := 0 } }

theorem offFirst_ffClearNow (s : State) : (ffClearNow s).offFirst = s.offFirst := by
  unfold ffClearNow
  split
  · exact kept_ite State.offFirst rfl
  · rfl

theorem ffClearNow_discards {f : FF} (hf : s.flt.ff = some f) (hb : frameBefore f.f.det s.clk.frame = true) :
    (ffClearNow s).flt.ff = none ∧ (ffClearNow s).sca.rff = none := by
  unfold ffClearNow
  rw [hf]
  dsimp only
  rw [if_pos hb]
  exact ⟨rfl, rfl⟩

theorem ffClearNow_none (hf : s.flt.ff = none) : ffClearNow s = s := by
  unfold ffClearNow
  rw [hf]

/-- FF_CLEAR discards a capture made earlier, with the row's (R159, R344). -/
theorem ffClear_ends (h : Taken 0x0B r d s) : Ended 0x0B r d 0 0 s (hostRow 0x0B r d s) ∧
    (∀ f, s.flt.ff = some f → frameBefore f.f.det (s.clk.frame + 1) = true →
      (hostRow 0x0B r d s).flt.ff = none ∧ (hostRow 0x0B r d s).sca.rff = none) ∧
    (s.flt.ff = none → (hostRow 0x0B r d s).flt = s.flt) ∧ (hostRow 0x0B r d s).flt.queue = s.flt.queue := by
  have hoff := offFirst_ffClearNow (cmdState 0x0B r d s)
  obtain ⟨hend, htold⟩ := ended_unbuffered h (by decide) rfl rfl (by decide)
    (show cmdEffect (cmdLive 0x0B r d s) (cmdState 0x0B r d s) = finish s.nextSeq stOk 0 (ffClearNow (cmdState 0x0B r d s)) from rfl)
    ⟨(congrArg State.entries hoff :), (congrArg (fun u : State => u.hst.live) hoff :)⟩
  have hflt := flt_of_offTell htold.1
  have hsca : (hostRow 0x0B r d s).sca = (ffClearNow (cmdState 0x0B r d s)).sca := (congrArg State.sca htold.1 :)
  have hqueue : (ffClearNow (cmdState 0x0B r d s)).flt.queue = (cmdState 0x0B r d s).flt.queue :=
    (congrArg (fun u : State => u.flt.queue) hoff :)
  refine ⟨hend, fun f hf hb => ?_, fun hn => ?_, ?_⟩
  · rw [hflt, hsca]
    exact ffClearNow_discards ((congrArg Flt.ff flt_cmdState).trans hf) (by rwa [frame_cmdState])
  · rw [hflt, ffClearNow_none ((congrArg Flt.ff flt_cmdState).trans hn), flt_cmdState]
  · rw [hflt, hqueue, flt_cmdState]

/-- SYSRST_RELEASE of an asserted SYSRST# (R153). -/
theorem sysrst_releases (h : Taken 0x0C r d s) (hs : s.flt.sysrst = true) : Ended 0x0C r d 0 0 s (hostRow 0x0C r d s) ∧
    (hostRow 0x0C r d s).flt.sysrst = false ∧ (hostRow 0x0C r d s).flt.rstLeft = none := by
  have heff : cmdEffect (cmdLive 0x0C r d s) (cmdState 0x0C r d s) = finish s.nextSeq stOk 0 (sysrstOff (cmdState 0x0C r d s)) :=
    if_pos ((congrArg Flt.sysrst flt_cmdState).trans hs)
  obtain ⟨hend, htold⟩ := ended_unbuffered h (by decide) rfl rfl (by decide) heff ⟨rfl, rfl⟩
  rw [flt_of_offTell htold.1]
  exact ⟨hend, rfl, rfl⟩

theorem sysrst_notRunning (h : Taken 0x0C r d s) (hs : s.flt.sysrst = false) :
    Ended 0x0C r d stNotRunning 0 s (hostRow 0x0C r d s) ∧ (hostRow 0x0C r d s).flt = s.flt := by
  have heff : cmdEffect (cmdLive 0x0C r d s) (cmdState 0x0C r d s) = finish s.nextSeq stNotRunning 0 (cmdState 0x0C r d s) :=
    if_neg (ne_true_of_eq_false ((congrArg Flt.sysrst flt_cmdState).trans hs))
  obtain ⟨hend, htold⟩ := ended_unbuffered h (by decide) rfl rfl (by decide) heff ⟨rfl, rfl⟩
  exact ⟨hend, (flt_of_offTell htold.1).trans flt_cmdState⟩

/-- STAGE_START waits as a candidate of the next frame (R111). -/
theorem stageStart_waits {sl : Nat} (h : Taken 0x10 r d s) (hs : startSlew d = some sl) (hm : s.memberOk (d.arg 4 2) = true) :
    Waiting 0x10 r d (.stage (d.arg 1 0) (d.args.getLsbD 21)) s (hostRow 0x10 r d s) ∧
      (∃ o, (hostRow 0x10 r d s).seq.starts = s.seq.starts ++ [o] ∧ o.member = d.arg 4 2 ∧ o.stage = d.arg 1 0 ∧
        o.vset = d.arg 20 5 ∧ o.slew = sl ∧ o.wait = d.args.getLsbD 21 ∧ o.seq = s.nextSeq ∧
        o.cand = { since := s.clk.frame + 1 }) ∧ (hostRow 0x10 r d s).stgs = s.stgs := by
  have heff := cmdStageStart_some (l := cmdLive 0x10 r d s) (s := cmdState 0x10 r d s) hs
    ((of_cmdState (State.memberOk · _) fun _ => rfl).trans hm)
  obtain ⟨hwait, htold⟩ := waiting_of_effect h (by decide) (fun hb => absurd hb (by decide)) (fun hb => absurd hb (by decide))
    (by simp) heff ⟨rfl, rfl⟩
  refine ⟨hwait, ⟨_, (congrArg (fun u : State => u.seq.starts) htold.1 :).trans
    (congrArg (fun q : Seq => q.starts ++ [_]) seq_cmdState), rfl, rfl, rfl, rfl, rfl, rfl,
    congrArg (fun f => ({ since := f } : Cand)) frame_cmdState⟩, (congrArg State.stgs htold.1 :).trans stgs_cmdState⟩

theorem memberOk_cmdState (m : Nat) : (cmdState op r d s).memberOk m = s.memberOk m := of_cmdState (State.memberOk · m) fun _ => rfl

theorem index_cmdState : (cmdState op r d s).index = s.index := of_cmdState State.index fun _ => rfl

/-- STAGE_STOP of a running stage of this node (R255, R266). -/
theorem stageStop_stops (h : Taken 0x11 r d s) (hm : s.memberOk (d.arg 4 2) = true) (hi : d.arg 4 2 = s.index)
    (hr : (s.stg (d.arg 1 0)).st.running = true) : Ended 0x11 r d 0 0 s (hostRow 0x11 r d s) ∧
      ((hostRow 0x11 r d s).stg (d.arg 1 0)).st = .off ∧ ((hostRow 0x11 r d s).stg (d.arg 1 0)).switching = false ∧
      ∀ j, j ≠ d.arg 1 0 → (hostRow 0x11 r d s).stg j = s.stg j := by
  have hrun : ((cmdState 0x11 r d s).stg (d.arg 1 0)).st.running = true := (stg_cmdState _).symm ▸ hr
  have heff := (cmdStageStop_local (l := cmdLive 0x11 r d s) (s := cmdState 0x11 r d s) ((memberOk_cmdState _).trans hm)
    (hi.trans index_cmdState.symm)).trans (if_pos hrun)
  have hstop : stageStopNow (d.arg 1 0) (cmdState 0x11 r d s) = stageHalt (d.arg 1 0) .off (cmdState 0x11 r d s) := if_pos hrun
  obtain ⟨hend, htold⟩ := ended_unbuffered h (by decide) rfl rfl (by decide) (heff.trans (congrArg (finish s.nextSeq stOk 0) hstop))
    (undisturbed_of_offStages (offStages_stageHalt ..))
  have hstg (j : Nat) : (hostRow 0x11 r d s).stg j =
      if j = d.arg 1 0 then ((cmdState 0x11 r d s).stg (d.arg 1 0)).halted .off else (cmdState 0x11 r d s).stg j :=
    (congrArg (State.stg · j) htold.1 :).trans (stageHalt_stg ..)
  have hown := (hstg (d.arg 1 0)).trans (if_pos rfl)
  exact ⟨hend, (congrArg Stg.st hown :), (congrArg Stg.switching hown :),
    fun j hj => (hstg j).trans ((if_neg hj).trans (stg_cmdState j))⟩

theorem stageStop_already (h : Taken 0x11 r d s) (hm : s.memberOk (d.arg 4 2) = true) (hi : d.arg 4 2 = s.index)
    (hr : (s.stg (d.arg 1 0)).st.running = false) :
    Ended 0x11 r d stAlready 0 s (hostRow 0x11 r d s) ∧ (hostRow 0x11 r d s).stgs = s.stgs := by
  have hrun : ((cmdState 0x11 r d s).stg (d.arg 1 0)).st.running = false := (stg_cmdState _).symm ▸ hr
  have heff := (cmdStageStop_local (l := cmdLive 0x11 r d s) (s := cmdState 0x11 r d s) ((memberOk_cmdState _).trans hm)
    (hi.trans index_cmdState.symm)).trans (if_neg (ne_true_of_eq_false hrun))
  obtain ⟨hend, htold⟩ := ended_unbuffered h (by decide) rfl rfl (by decide) heff ⟨rfl, rfl⟩
  exact ⟨hend, (congrArg State.stgs htold.1 :).trans stgs_cmdState⟩

/-- STAGE_CLEAR of a SAFE_OFF stage of this node (R172, R255, R275). -/
theorem stageClear_clears (h : Taken 0x12 r d s) (hm : s.memberOk (d.arg 4 2) = true) (hi : d.arg 4 2 = s.index)
    (hs : (s.stg (d.arg 1 0)).st = .safeOff) : Ended 0x12 r d 0 0 s (hostRow 0x12 r d s) ∧
      ((hostRow 0x12 r d s).stg (d.arg 1 0)).st = .off ∧ ((hostRow 0x12 r d s).stg (d.arg 1 0)).faulted = false ∧
      ((hostRow 0x12 r d s).stg (d.arg 1 0)).dropped = 0 ∧
      ((hostRow 0x12 r d s).stg (d.arg 1 0)).retryCnt = (s.stg (d.arg 1 0)).retryCnt ∧
      (∀ k, k < 8 → ((hostRow 0x12 r d s).phase (8 * d.arg 1 0 + k)).why = 0) ∧
      ∀ j, j ≠ d.arg 1 0 → (hostRow 0x12 r d s).stg j = s.stg j := by
  have hsafe : ((cmdState 0x12 r d s).stg (d.arg 1 0)).st = .safeOff := (stg_cmdState _).symm ▸ hs
  have heff : cmdEffect (cmdLive 0x12 r d s) (cmdState 0x12 r d s) =
      finish s.nextSeq stOk 0 (stageClearNow (d.arg 1 0) (cmdState 0x12 r d s)) :=
    (cmdStageClear_local (l := cmdLive 0x12 r d s) (s := cmdState 0x12 r d s) ((memberOk_cmdState _).trans hm)
      (hi.trans index_cmdState.symm)).trans (if_pos (Bool.or_eq_true_iff.mpr (.inl (decide_eq_true hsafe))))
  have hoff := offStages_stageClearNow (cmdState 0x12 r d s) (d.arg 1 0)
  have hstg := stageClearNow_stg (cmdState 0x12 r d s) (d.arg 1 0)
  have hphase (k : Nat) (hk : k < 8) := stageClearNow_phase (cmdState 0x12 r d s) (d.arg 1 0) hk
  generalize stageClearNow (d.arg 1 0) (cmdState 0x12 r d s) = u at heff hoff hstg hphase
  obtain ⟨hend, htold⟩ := ended_unbuffered h (by decide) rfl rfl (by decide) heff (undisturbed_of_offStages hoff)
  have hstgs (j : Nat) : (hostRow 0x12 r d s).stg j = u.stg j := (congrArg (State.stg · j) htold.1 :)
  have hphases (j : Nat) : (hostRow 0x12 r d s).phase j = u.phase j := (congrArg (State.phase · j) htold.1 :)
  have hown : (hostRow 0x12 r d s).stg (d.arg 1 0) = ((s.stg (d.arg 1 0)).halted .off).cleared := by
    rw [hstgs, hstg, if_pos rfl, safeHalt_stg, if_pos ⟨rfl, hsafe⟩, stg_cmdState]
  refine ⟨hend, (congrArg Stg.st hown :), (congrArg Stg.faulted hown :), (congrArg Stg.dropped hown :),
    (congrArg Stg.retryCnt hown :), fun k hk => ?_, fun j hj => ?_⟩
  · rw [hphases, hphase k hk]
  · rw [hstgs, hstg, if_neg hj, safeHalt_stg, if_neg fun h => hj h.1, stg_cmdState]

theorem stageClear_refused (h : Taken 0x12 r d s) (hm : s.memberOk (d.arg 4 2) = true) (hi : d.arg 4 2 = s.index)
    (hr : (s.stg (d.arg 1 0)).st.running = true) :
    Ended 0x12 r d stRefused 0 s (hostRow 0x12 r d s) ∧ (hostRow 0x12 r d s).stgs = s.stgs := by
  have hrun : ((cmdState 0x12 r d s).stg (d.arg 1 0)).st.running = true := (stg_cmdState _).symm ▸ hr
  have hclosed : ¬(((cmdState 0x12 r d s).stg (d.arg 1 0)).st = .safeOff || ((cmdState 0x12 r d s).stg (d.arg 1 0)).st = .off) = true := by
    rw [Bool.or_eq_true, decide_eq_true_iff, decide_eq_true_iff]
    rintro (hs | hs) <;> exact absurd (hs ▸ hrun) (by decide)
  have heff := (cmdStageClear_local (l := cmdLive 0x12 r d s) (s := cmdState 0x12 r d s) ((memberOk_cmdState _).trans hm)
    (hi.trans index_cmdState.symm)).trans (if_neg hclosed)
  obtain ⟨hend, htold⟩ := ended_unbuffered h (by decide) rfl rfl (by decide) heff ⟨rfl, rfl⟩
  exact ⟨hend, (congrArg State.stgs htold.1 :).trans stgs_cmdState⟩

/-! ## CAP_SET (R184, R187) -/

theorem cmdCapSet_eq {l : Live} (h : l.d.expert = false → l.d.arg 15 0 ≤ 6553) : cmdCapSet l s = park l.seq .cap
    (s.setReg 0x6104 (BitVec.ofNat 32 (put (if l.d.expert then l.d.arg 15 0 else 10 * l.d.arg 15 0) 0 16 +
      put (if l.d.expert && l.d.args.getLsbD 32 then l.d.arg 31 16 else s.cf 0x6104 31 16) 16 16))) := by
  unfold cmdCapSet
  exact if_neg fun hc => by
    rw [Bool.and_eq_true, Bool.not_eq_true', decide_eq_true_iff] at hc
    exact absurd (h hc.1) (by omega)

/-- A word of two halves reads each of them. -/
theorem fld_halves {a b : Nat} (ha : a < 2 ^ 16) (hb : b < 2 ^ 16) :
    fld (BitVec.ofNat 32 (put a 0 16 + put b 16 16)) 15 0 = a ∧ fld (BitVec.ofNat 32 (put a 0 16 + put b 16 16)) 31 16 = b := by
  simp only [fld, nbits, put_eq_mul, BitVec.toNat_ofNat, Nat.shiftRight_eq_div_pow]
  omega

/-- CAP_SET waits for its judgement with the cap in force, and maybe the battery's (R184, R187). -/
theorem capSet_waits (h : Taken 0x18 r d s) (ha : d.expert = false → d.arg 15 0 ≤ 6553) :
    Waiting 0x18 r d .cap s (hostRow 0x18 r d s) ∧
      (hostRow 0x18 r d s).cf 0x6104 15 0 = (if d.expert then d.arg 15 0 else 10 * d.arg 15 0) ∧
      (hostRow 0x18 r d s).cf 0x6104 31 16 = (if d.expert && d.args.getLsbD 32 then d.arg 31 16 else s.cf 0x6104 31 16) ∧
      ∀ k, k ≠ 0x6104 → (hostRow 0x18 r d s).cw k = s.cw k := by
  have hcf : (cmdState 0x18 r d s).cf 0x6104 31 16 = s.cf 0x6104 31 16 := of_cmdState (State.cf · _ _ _) fun _ => rfl
  have hcw (k : Nat) : (cmdState 0x18 r d s).cw k = s.cw k := of_cmdState (State.cw · k) fun _ => rfl
  have hcap : (if d.expert then d.arg 15 0 else 10 * d.arg 15 0) < 2 ^ 16 := by
    split
    · exact Nat.mod_lt _ (by decide)
    · next hx => have := ha (Bool.eq_false_of_not_eq_true hx); omega
  have hbatt : (if d.expert && d.args.getLsbD 32 then d.arg 31 16 else s.cf 0x6104 31 16) < 2 ^ 16 := by
    split
    · exact Nat.mod_lt _ (by decide)
    · exact Nat.mod_lt _ (by decide)
  obtain ⟨hlo, hhi⟩ := fld_halves hcap hbatt
  have heff : cmdEffect (cmdLive 0x18 r d s) (cmdState 0x18 r d s) = park s.nextSeq .cap ((cmdState 0x18 r d s).setReg 0x6104
      (BitVec.ofNat 32 (put (if d.expert then d.arg 15 0 else 10 * d.arg 15 0) 0 16 +
        put (if d.expert && d.args.getLsbD 32 then d.arg 31 16 else s.cf 0x6104 31 16) 16 16))) := by
    rw [← hcf]
    exact cmdCapSet_eq (l := cmdLive 0x18 r d s) ha
  generalize BitVec.ofNat 32 (put _ 0 16 + put _ 16 16) = w at hlo hhi heff
  obtain ⟨hwait, htold⟩ := waiting_of_effect h (by decide) (fun hb => absurd hb (by decide)) (fun hb => absurd hb (by decide))
    (by simp) heff ⟨rfl, rfl⟩
  have hword (k : Nat) : (hostRow 0x18 r d s).cw k = if k = 0x6104 then w else (cmdState 0x18 r d s).cw k :=
    (congrArg (State.cw · k) htold.1 :).trans (tget_tset ..)
  refine ⟨hwait, ?_, ?_, fun k hk => ?_⟩
  · rw [State.cf, hword, if_pos rfl, hlo]
  · rw [State.cf, hword, if_pos rfl, hhi]
  · rw [hword, if_neg hk, hcw]

end

end Sys2Proof.Machine

/-! # LOOP_SETUP (R263, R281, R283) -/

namespace Sys2Proof.Machine

/-! ## Its writes -/

section
variable {s : State}

/-- What the last write to a word makes of it. -/
def lastWrite (w : List (Nat × Nat)) (k : Nat) (x : W32) : W32 :=
  match (w.filter fun p => p.1 = k).getLast? with
  | some p => merge (rwsMask k) x (BitVec.ofNat 32 p.2)
  | none => x

theorem lastWrite_of_getLast? {w : List (Nat × Nat)} {k v : Nat} (h : (w.filter fun p => p.1 = k).getLast? = some (k, v)) (x : W32) :
    lastWrite w k x = merge (rwsMask k) x (BitVec.ofNat 32 v) := by
  rw [lastWrite, h]

theorem lastWrite_of_forall_ne {w : List (Nat × Nat)} {k : Nat} (h : ∀ p ∈ w, p.1 ≠ k) (x : W32) : lastWrite w k x = x := by
  have hnil : (w.filter fun p => decide (p.1 = k)) = [] := List.filter_eq_nil_iff.mpr fun p hp => by simp [h p hp]
  rw [lastWrite, hnil]
  rfl

theorem lastWrite_append (w : List (Nat × Nat)) (p : Nat × Nat) (k : Nat) (x : W32) : lastWrite (w ++ [p]) k x =
    if p.1 = k then merge (rwsMask k) (lastWrite w k x) (BitVec.ofNat 32 p.2) else lastWrite w k x := by
  split
  · next h =>
    have hlast : ((w ++ [p]).filter fun p => p.1 = k).getLast? = some p := by simp [List.filter_append, h]
    simp only [lastWrite, hlast]
    split
    · exact (merge_merge ..).symm
    · rfl
  · next h =>
    have hsame : (w ++ [p]).filter (fun p => p.1 = k) = w.filter fun p => p.1 = k := by simp [List.filter_append, h]
    simp only [lastWrite, hsame]

/-- The state without what its registers hold and commit. -/
def State.offLoop (s : State) : State := { s with bar0 := [], cfg := [], coef := [], stgs := [] }

theorem each_loopWrite_words (w : List (Nat × Nat)) (k : Nat) :
    (each w loopWrite s).cw k = lastWrite w k (s.cw k) ∧ (each w loopWrite s).bw k = lastWrite w k (s.bw k) := by
  induction w using List.reverseRecOn with
  | nil => exact ⟨rfl, rfl⟩
  | append_singleton w p ih =>
    obtain ⟨hc, hb⟩ := ih
    rw [each_append, lastWrite_append, lastWrite_append, ← hc, ← hb]
    generalize each w loopWrite s = u
    have hcw : (loopWrite p u).cw k = if k = p.1 then merge (rwsMask p.1) (u.cw p.1) (BitVec.ofNat 32 p.2) else u.cw k :=
      tget_tset ..
    have hbw : (loopWrite p u).bw k = if k = p.1 then merge (rwsMask p.1) (u.bw p.1) (BitVec.ofNat 32 p.2) else u.bw k :=
      tget_tset ..
    refine ⟨hcw.trans ?_, hbw.trans ?_⟩
    · by_cases h : k = p.1
      · rw [h, if_pos rfl]
      · rw [if_neg h, if_neg (Ne.symm h)]
    · by_cases h : k = p.1
      · rw [h, if_pos rfl]
      · rw [if_neg h, if_neg (Ne.symm h)]

theorem each_loopWrite_kept (w : List (Nat × Nat)) :
    (each w loopWrite s).offLoop = s.offLoop ∧ (each w loopWrite s).coef = s.coef :=
  ⟨each_keep State.offLoop (f := loopWrite) (fun _ _ => rfl) w s, each_keep State.coef (f := loopWrite) (fun _ _ => rfl) w s⟩

/-! ## The commit of coefficients (R263) -/

/-- One coefficient goes into use. -/
def commitOne (k : Nat) (s : State) : State := { s with coef := tset 0 s.coef k (s.cw k) }

theorem each_commitOne (l : List Nat) : (each l commitOne s).offLoop = s.offLoop ∧ (∀ k, (each l commitOne s).cw k = s.cw k) ∧
    (∀ k, (each l commitOne s).bw k = s.bw k) ∧ ∀ k ∈ l, tget 0 (each l commitOne s).coef k = s.cw k := by
  have hcw (m : List Nat) (k : Nat) : (each m commitOne s).cw k = s.cw k := each_keep (State.cw · k) (f := commitOne) (fun _ _ => rfl) m s
  refine ⟨each_keep State.offLoop (f := commitOne) (fun _ _ => rfl) l s, hcw l, fun k => each_keep (State.bw · k) (f := commitOne) (fun _ _ => rfl) l s, ?_⟩
  induction l using List.reverseRecOn with
  | nil => exact fun k hk => absurd hk List.not_mem_nil
  | append_singleton l a ih =>
    intro k hk
    have hcoef : tget 0 (each (l ++ [a]) commitOne s).coef k = if k = a then (each l commitOne s).cw a else tget 0 (each l commitOne s).coef k := by
      rw [each_append]
      exact tget_tset ..
    rw [hcoef]
    split
    · next h => rw [hcw, h]
    · next h => exact ih k (by simpa [h] using hk)

theorem commitCoef_parts (st : Nat) : (commitCoef st s).offLoop = s.offLoop ∧ (∀ k, (commitCoef st s).cw k = s.cw k) ∧
    (∀ k, (commitCoef st s).bw k = s.bw k) ∧
    ∀ i, i < 28 → tget 0 (commitCoef st s).coef (0x8200 + 0x80 * st + 4 * i) = s.cw (0x8200 + 0x80 * st + 4 * i) := by
  obtain ⟨hoff, hcw, hbw, hcoef⟩ := each_commitOne (s := s.modStg st fun x => { x with pending := false })
    ((List.range 28).map fun i => 0x8200 + 0x80 * st + 4 * i)
  exact ⟨hoff, hcw, hbw, fun i hi => hcoef _ (List.mem_map.mpr ⟨i, List.mem_range.mpr hi, rfl⟩)⟩

/-! ## The command -/

/-- What a LOOP_SETUP whose writes stand does (R281). -/
def loopDone (st : Nat) (commit : Bool) (w : List (Nat × Nat)) (s : State) : State :=
  if commit then commitCoef st (each w loopWrite s) else each w loopWrite s

theorem loopDone_parts (st : Nat) (commit : Bool) (w : List (Nat × Nat)) : (loopDone st commit w s).offLoop = s.offLoop ∧
    (∀ k, (loopDone st commit w s).cw k = lastWrite w k (s.cw k)) ∧ (∀ k, (loopDone st commit w s).bw k = lastWrite w k (s.bw k)) ∧
    (commit = false → (loopDone st commit w s).coef = s.coef) ∧
    (commit = true → ∀ i, i < 28 → tget 0 (loopDone st commit w s).coef (0x8200 + 0x80 * st + 4 * i) =
      (loopDone st commit w s).cw (0x8200 + 0x80 * st + 4 * i)) := by
  obtain ⟨hoff, hcoef⟩ := each_loopWrite_kept (s := s) w
  have hwords := each_loopWrite_words (s := s) w
  unfold loopDone
  generalize each w loopWrite s = u at hoff hcoef hwords
  cases commit with
  | false => exact ⟨hoff, fun k => (hwords k).1, fun k => (hwords k).2, fun _ => hcoef, fun h => absurd h (by decide)⟩
  | true =>
    obtain ⟨hoff', hcw, hbw, hcommit⟩ := commitCoef_parts (s := u) st
    rw [if_pos rfl]
    exact ⟨hoff'.trans hoff, fun k => (hcw k).trans (hwords k).1, fun k => (hbw k).trans (hwords k).2,
      fun h => absurd h (by decide), fun _ i hi => (hcommit i hi).trans (hcw _).symm⟩

theorem cmdLoopSetup_some {l : Live} {w : List (Nat × Nat)} (h : loopWrites l.d s = some w)
    (hw : ∀ p ∈ w, loopOffset (l.d.arg 98 97) p.1 = true ∧ ∀ st, stageSetup p.1 = some st → stageClosed s st = false) :
    cmdLoopSetup l s = finish l.seq stOk 0 (loopDone (l.d.arg 98 97) (l.d.expert && l.d.args.getLsbD 96) w s) := by
  have hoff : ¬(w.any fun p => !loopOffset (l.d.arg 98 97) p.1) = true := by
    rw [Bool.not_eq_true, List.any_eq_false]
    intro p hp
    obtain ⟨ho, -⟩ := hw p hp
    simp [ho]
  have hclosed : ¬(w.any fun p => match stageSetup p.1 with | some st => stageClosed s st | none => false) = true := by
    rw [Bool.not_eq_true, List.any_eq_false]
    intro p hp
    obtain ⟨-, hc⟩ := hw p hp
    split
    · next st hst => simp [hc st hst]
    · simp
  unfold cmdLoopSetup
  rw [h]
  exact (if_neg hoff).trans (if_neg hclosed)

end

section
variable {r : Nat} {d : Desc} {s : State}

theorem loopWrites_cmdState : loopWrites (cmdLive 0x13 r d s).d (cmdState 0x13 r d s) = loopWrites d s :=
  of_cmdState (loopWrites { d with opcode := 0x13 }) fun _ => rfl

/-- LOOP_SETUP ends with its writes made, the last to each word standing (R281). -/
theorem loopSetup_ends {w : List (Nat × Nat)} (h : Taken 0x13 r d s) (hb : d.bufOk = true) (hd : d.dmaOk = true)
    (hl : loopWrites d s = some w)
    (hw : ∀ p ∈ w, loopOffset (d.arg 98 97) p.1 = true ∧ ∀ st, stageSetup p.1 = some st → stageClosed s st = false) :
    Ended 0x13 r d 0 0 s (hostRow 0x13 r d s) ∧ (∀ k, (hostRow 0x13 r d s).cw k = lastWrite w k (s.cw k)) ∧
      (∀ k, (hostRow 0x13 r d s).bw k = lastWrite w k (s.bw k)) ∧
      ((d.expert && d.args.getLsbD 96) = false → (hostRow 0x13 r d s).coef = s.coef) ∧
      ((d.expert && d.args.getLsbD 96) = true → ∀ i, i < 28 →
        tget 0 (hostRow 0x13 r d s).coef (0x8200 + 0x80 * d.arg 98 97 + 4 * i) =
          (hostRow 0x13 r d s).cw (0x8200 + 0x80 * d.arg 98 97 + 4 * i)) := by
  have hcw (k : Nat) : (cmdState 0x13 r d s).cw k = s.cw k := of_cmdState (State.cw · k) fun _ => rfl
  have hbw (k : Nat) : (cmdState 0x13 r d s).bw k = s.bw k := of_cmdState (State.bw · k) fun _ => rfl
  have hcoef : (cmdState 0x13 r d s).coef = s.coef := of_cmdState State.coef fun _ => rfl
  have hclosed (st : Nat) : stageClosed (cmdState 0x13 r d s) st = stageClosed s st := of_cmdState (stageClosed · st) fun _ => rfl
  have heff : cmdEffect (cmdLive 0x13 r d s) (cmdState 0x13 r d s) =
      finish s.nextSeq stOk 0 (loopDone (d.arg 98 97) (d.expert && d.args.getLsbD 96) w (cmdState 0x13 r d s)) :=
    cmdLoopSetup_some (l := cmdLive 0x13 r d s) (loopWrites_cmdState.trans hl) fun p hp =>
      ⟨(hw p hp).1, fun st hst => (hclosed st).trans ((hw p hp).2 st hst)⟩
  obtain ⟨hoff, hwords, hreads, hkept, hcommit⟩ := loopDone_parts (s := cmdState 0x13 r d s) (d.arg 98 97)
    (d.expert && d.args.getLsbD 96) w
  generalize loopDone (d.arg 98 97) (d.expert && d.args.getLsbD 96) w (cmdState 0x13 r d s) = u at heff hoff hwords hreads hkept hcommit
  obtain ⟨hend, htold⟩ := ended_of_effect h (by decide) (fun _ => hb) (fun _ => hd) (by decide) heff
    ⟨(congrArg State.entries hoff :), (congrArg (fun x : State => x.hst.live) hoff :)⟩
  have htcw (k : Nat) : (hostRow 0x13 r d s).cw k = u.cw k := (congrArg (State.cw · k) htold.1 :)
  have htbw (k : Nat) : (hostRow 0x13 r d s).bw k = u.bw k := (congrArg (State.bw · k) htold.1 :)
  have htcoef : (hostRow 0x13 r d s).coef = u.coef := (congrArg State.coef htold.1 :)
  refine ⟨hend, fun k => ?_, fun k => ?_, fun hc => ?_, fun hc i hi => ?_⟩
  · rw [htcw, hwords, hcw]
  · rw [htbw, hreads, hbw]
  · rw [htcoef, hkept hc, hcoef]
  · rw [htcoef, hcommit hc i hi, htcw]

end

/-! ## Fields of a word written (R8, R281) -/

/-- The bits of a merge are those of the value where the mask has them. -/
theorem getLsbD_merge {m i : Nat} (hi : i < 32) (w : W32) (v : Nat) :
    (merge m w (BitVec.ofNat 32 v)).getLsbD i = if m.testBit i then v.testBit i else w.getLsbD i := by
  unfold merge
  simp only [BitVec.getLsbD_or, BitVec.getLsbD_and, BitVec.getLsbD_not, BitVec.getLsbD_ofNat, hi, decide_true, Bool.true_and]
  cases m.testBit i <;> simp

theorem testBit_nbits (w hi lo i : Nat) : (nbits w hi lo).testBit i = (decide (i < hi + 1 - lo) && w.testBit (lo + i)) := by
  rw [nbits, Nat.testBit_mod_two_pow, Nat.testBit_shiftRight]

/-- A field that the mask covers takes the value's. -/
theorem fld_merge {m hi lo : Nat} (hh : hi < 32) (hm : nbits m hi lo = 2 ^ (hi + 1 - lo) - 1) (w : W32) (v : Nat) :
    fld (merge m w (BitVec.ofNat 32 v)) hi lo = nbits v hi lo := by
  refine Nat.eq_of_testBit_eq fun i => ?_
  rw [fld, testBit_nbits, testBit_nbits]
  by_cases hi' : i < hi + 1 - lo
  · have hmask : m.testBit (lo + i) = true := by
      have := congrArg (Nat.testBit · i) hm
      simpa [testBit_nbits, hi', Nat.testBit_two_pow_sub_one] using this
    have hbit := getLsbD_merge (m := m) (show lo + i < 32 by omega) w v
    rw [hmask, if_pos rfl, BitVec.getLsbD] at hbit
    rw [hbit]
  · simp [hi']

theorem bit_of_fld {w : W32} {i : Nat} (h : fld w i i = 1) : bit w i = true := by
  have hbit : (fld w i i).testBit 0 = Nat.testBit 1 0 := congrArg (Nat.testBit · 0) h
  rw [fld, testBit_nbits] at hbit
  exact (Bool.and_eq_true_iff.mp hbit).2

/-! ## PROT_STD (R281) -/

/-- The writes of PROT_STD, `c` the codes of the design. -/
def protList (s : State) (st : Nat) (c : Nat × Nat × Nat) (full hic : Nat) : List (Nat × Nat) :=
  [(0x8000 + 0x80 * st, withFld 1 9 9 (withFld (max 1 (s.nph st - 2)) 15 12 (s.cw (0x8000 + 0x80 * st)).toNat)),
    (0x8000 + 0x80 * st + 0x10, put c.2.1 0 12 + put c.2.2 12 12 + put 16 24 8),
    (0x8000 + 0x80 * st + 0x14, withFld c.1 7 0 (withFld 8 25 18 (s.cw (0x8000 + 0x80 * st + 0x14)).toNat)),
    (0x8000 + 0x80 * st + 0x18, put hic 0 16 + put 3 16 8),
    (0x8000 + 0x80 * st + 0x1C, withFld full 15 0 (s.cw (0x8000 + 0x80 * st + 0x1C)).toNat)]

section
variable {s : State} {d : Desc} {st f o u h : Nat} {l : List Nat} {c : Nat × Nat × Nat}

theorem loopWrites_protStd (hx : d.expert = false) (ht : d.arg 100 99 = 2)
    (hv : d.words32.take (d.len / 4) = f :: o :: u :: h :: l) (hf : f ≤ 65535) (hh : within 1 65535 h = true) :
    loopWrites d s = some (protList s (d.arg 98 97)
      (Config.protCodes (d.arg 98 97) (s.nph (d.arg 98 97)) ((f :: o :: u :: h :: l).take 4)) f h) := by
  unfold loopWrites
  dsimp only
  rw [hx, ht, hv, if_neg Bool.false_ne_true, if_neg (by decide), if_pos rfl]
  unfold protWrites
  exact if_pos ⟨hf, hh⟩

/-- PROT_STD writes five words of its stage. -/
theorem mem_protList {p : Nat × Nat} (hp : p ∈ protList s st c f h) :
    ∃ a ∈ [0, 0x10, 0x14, 0x18, 0x1C], p.1 = 0x8000 + 0x80 * st + a := by
  simp only [protList, List.mem_cons, List.not_mem_nil, or_false] at hp
  rcases hp with rfl | rfl | rfl | rfl | rfl <;> simp

/-- They are the stage's own, and none is the set-up of another. -/
theorem prot_offsets : ∀ st, st < 4 → ∀ a ∈ [0, 0x10, 0x14, 0x18, 0x1C], loopOffset st (0x8000 + 0x80 * st + a) = true ∧
    (stageSetup (0x8000 + 0x80 * st + a) = some st ∨ stageSetup (0x8000 + 0x80 * st + a) = none) := by decide

theorem lastWrite_protList {k v : Nat} (hm : (k, v) ∈ protList s st c f h) (x : W32) :
    lastWrite (protList s st c f h) k x = merge (rwsMask k) x (BitVec.ofNat 32 v) := by
  refine lastWrite_of_getLast? ?_ x
  simp only [protList, List.mem_cons, Prod.mk.injEq, List.not_mem_nil, or_false] at hm
  rcases hm with ⟨rfl, rfl⟩ | ⟨rfl, rfl⟩ | ⟨rfl, rfl⟩ | ⟨rfl, rfl⟩ | ⟨rfl, rfl⟩ <;> simp [protList]

end

/-- The masks of the fields that PROT_STD writes (R8). -/
theorem prot_masks : ∀ st, st < 4 → nbits (rwsMask (0x8000 + 0x80 * st)) 9 9 = 2 ^ (9 + 1 - 9) - 1 ∧
    nbits (rwsMask (0x8000 + 0x80 * st)) 15 12 = 2 ^ (15 + 1 - 12) - 1 ∧ nbits (rwsMask (0x8000 + 0x80 * st)) 8 0 = 2 ^ (8 + 1 - 0) - 1 ∧
    nbits (rwsMask (0x8000 + 0x80 * st + 0x10)) 31 24 = 2 ^ (31 + 1 - 24) - 1 ∧
    nbits (rwsMask (0x8000 + 0x80 * st + 0x14)) 25 18 = 2 ^ (25 + 1 - 18) - 1 ∧
    nbits (rwsMask (0x8000 + 0x80 * st + 0x14)) 17 8 = 2 ^ (17 + 1 - 8) - 1 ∧
    nbits (rwsMask (0x8000 + 0x80 * st + 0x18)) 15 0 = 2 ^ (15 + 1 - 0) - 1 ∧
    nbits (rwsMask (0x8000 + 0x80 * st + 0x18)) 23 16 = 2 ^ (23 + 1 - 16) - 1 ∧
    nbits (rwsMask (0x8000 + 0x80 * st + 0x1C)) 15 0 = 2 ^ (15 + 1 - 0) - 1 := by decide

theorem withFld_control {m w : Nat} (hm : m < 16) : nbits (withFld 1 9 9 (withFld m 15 12 w)) 9 9 = 1 ∧
    nbits (withFld 1 9 9 (withFld m 15 12 w)) 15 12 = m ∧ nbits (withFld 1 9 9 (withFld m 15 12 w)) 8 0 = nbits w 8 0 := by
  simp only [withFld, nbits, put_eq_mul, Nat.shiftRight_eq_div_pow, Nat.reducePow, Nat.reduceAdd, Nat.reduceSub]
  omega

theorem nbits_limits (a b : Nat) : nbits (put a 0 12 + put b 12 12 + put 16 24 8) 31 24 = 16 := by
  simp only [nbits, put_eq_mul, Nat.shiftRight_eq_div_pow, Nat.reducePow, Nat.reduceAdd, Nat.reduceSub]
  omega

theorem withFld_filter (c w : Nat) : nbits (withFld c 7 0 (withFld 8 25 18 w)) 25 18 = 8 ∧
    nbits (withFld c 7 0 (withFld 8 25 18 w)) 17 8 = nbits w 17 8 := by
  simp only [withFld, nbits, put_eq_mul, Nat.shiftRight_eq_div_pow, Nat.reducePow, Nat.reduceAdd, Nat.reduceSub]
  omega

theorem nbits_hiccup {h : Nat} (hh : h < 65536) : nbits (put h 0 16 + put 3 16 8) 15 0 = h ∧
    nbits (put h 0 16 + put 3 16 8) 23 16 = 3 := by
  simp only [nbits, put_eq_mul, Nat.shiftRight_eq_div_pow, Nat.reducePow, Nat.reduceAdd, Nat.reduceSub]
  omega

theorem withFld_full {f : Nat} (hf : f < 65536) (w : Nat) : nbits (withFld f 15 0 w) 15 0 = f := by
  simp only [withFld, nbits, put_eq_mul, Nat.shiftRight_eq_div_pow, Nat.reducePow, Nat.reduceAdd, Nat.reduceSub]
  omega

section
variable {r : Nat} {d : Desc} {s : State} {f o u h : Nat} {l : List Nat}

theorem nph_bounds (s : State) (st : Nat) : max 1 (s.nph st - 2) < 16 := by
  have : s.sfld st 0 3 1 < 2 ^ 3 := Nat.mod_lt _ (by decide)
  unfold State.nph
  omega

/-- PROT_STD writes the values R281 names. -/
theorem protStd_ends (ht : Taken 0x13 r d s) (hb : d.bufOk = true) (hd : d.dmaOk = true) (hx : d.expert = false)
    (hk : d.arg 100 99 = 2) (hv : d.words32.take (d.len / 4) = f :: o :: u :: h :: l) (hf : f ≤ 65535)
    (hh : within 1 65535 h = true) (hc : stageClosed s (d.arg 98 97) = false) :
    Ended 0x13 r d 0 0 s (hostRow 0x13 r d s) ∧ (hostRow 0x13 r d s).cb (0x8000 + 0x80 * d.arg 98 97) 9 = true ∧
      (hostRow 0x13 r d s).cf (0x8000 + 0x80 * d.arg 98 97) 15 12 = max 1 (s.nph (d.arg 98 97) - 2) ∧
      (hostRow 0x13 r d s).cf (0x8000 + 0x80 * d.arg 98 97) 8 0 = s.cf (0x8000 + 0x80 * d.arg 98 97) 8 0 ∧
      (hostRow 0x13 r d s).cf (0x8010 + 0x80 * d.arg 98 97) 31 24 = 16 ∧
      (hostRow 0x13 r d s).cf (0x8014 + 0x80 * d.arg 98 97) 25 18 = 8 ∧
      (hostRow 0x13 r d s).cf (0x8014 + 0x80 * d.arg 98 97) 17 8 = s.cf (0x8014 + 0x80 * d.arg 98 97) 17 8 ∧
      (hostRow 0x13 r d s).cf (0x8018 + 0x80 * d.arg 98 97) 15 0 = h ∧
      (hostRow 0x13 r d s).cf (0x8018 + 0x80 * d.arg 98 97) 23 16 = 3 ∧
      (hostRow 0x13 r d s).cf (0x801C + 0x80 * d.arg 98 97) 15 0 = f := by
  have hst : d.arg 98 97 < 4 := Nat.mod_lt _ (by decide)
  have hlimit : h < 65536 := by
    rw [within, decide_eq_true_iff] at hh
    omega
  have hwrites := loopWrites_protStd (s := s) hx hk hv hf hh
  generalize Config.protCodes (d.arg 98 97) (s.nph (d.arg 98 97)) ((f :: o :: u :: h :: l).take 4) = c at hwrites
  obtain ⟨hend, hcw, -, -, -⟩ := loopSetup_ends ht hb hd hwrites fun p hp => by
    obtain ⟨a, ha, hpa⟩ := mem_protList hp
    obtain ⟨hoff, hset⟩ := prot_offsets _ hst a ha
    rw [hpa]
    refine ⟨hoff, fun x hx => ?_⟩
    obtain rfl : x = d.arg 98 97 := by
      rcases hset with hset | hset
      · exact Option.some.inj (hx.symm.trans hset)
      · exact absurd (hx.symm.trans hset) (by simp)
    exact hc
  generalize d.arg 98 97 = st at *
  obtain ⟨m9, m15, m8, m31, m25, m17, m15', m23, mfull⟩ := prot_masks st hst
  have hword {k v : Nat} (hm : (k, v) ∈ protList s st c f h) : (hostRow 0x13 r d s).cw k = merge (rwsMask k) (s.cw k) (BitVec.ofNat 32 v) :=
    (hcw k).trans (lastWrite_protList hm _)
  obtain ⟨f9, f15, f8⟩ := withFld_control (w := (s.cw (0x8000 + 0x80 * st)).toNat) (nph_bounds s st)
  obtain ⟨f25, f17⟩ := withFld_filter c.1 (s.cw (0x8000 + 0x80 * st + 0x14)).toNat
  obtain ⟨fh, f3⟩ := nbits_hiccup hlimit
  have hbase (a : Nat) : 0x8000 + a + 0x80 * st = 0x8000 + 0x80 * st + a := by omega
  have w0 := hword (.head _)
  have w10 := hword (.tail _ (.head _))
  have w14 := hword (.tail _ (.tail _ (.head _)))
  have w18 := hword (.tail _ (.tail _ (.tail _ (.head _))))
  have w1C := hword (.tail _ (.tail _ (.tail _ (.tail _ (.head _)))))
  refine ⟨hend, ?_, ?_, ?_, ?_, ?_, ?_, ?_, ?_, ?_⟩
  · exact bit_of_fld (by rw [w0, fld_merge (by decide) m9, f9])
  · rw [State.cf, w0, fld_merge (by decide) m15, f15]
  · rw [State.cf, w0, fld_merge (by decide) m8, f8]; rfl
  · rw [State.cf, hbase 0x10, w10, fld_merge (by decide) m31, nbits_limits]
  · rw [State.cf, hbase 0x14, w14, fld_merge (by decide) m25, f25]
  · rw [State.cf, hbase 0x14, w14, fld_merge (by decide) m17, f17]; rfl
  · rw [State.cf, hbase 0x18, w18, fld_merge (by decide) m15', fh]
  · rw [State.cf, hbase 0x18, w18, fld_merge (by decide) m23, f3]
  · rw [State.cf, hbase 0x1C, w1C, fld_merge (by decide) mfull, withFld_full (by omega)]

end

end Sys2Proof.Machine

section
open Sys2Proof Sys2Proof.Machine

/-- Settles O34: each row ends or waits with the effect of its command; a LOOP_SETUP leaves the last write to each word
(`loopSetup_ends`), masked, from which the fields of PROT_STD follow (`protStd_ends`). -/
theorem railAndStageCommands : Obligations.RailAndStageCommands := by
  refine ⟨fun _ _ _ h h1 h2 h3 => ⟨_, rfl, retryCancel_cancels h h1 h2 h3, retryCancel_notPending h h1 h2 h3⟩,
    fun _ _ _ _ _ h hm => ⟨_, rfl, margin_waits h hm, margin_refused h hm⟩,
    fun _ _ _ h hm => ⟨_, rfl, margin_badArg h hm⟩,
    fun _ _ _ h => ⟨_, rfl, ffClear_ends h⟩,
    fun _ _ _ h => ⟨_, rfl, sysrst_releases h, sysrst_notRunning h⟩,
    fun _ _ _ _ h hs hm => ⟨_, rfl, stageStart_waits h hs hm⟩,
    fun _ _ _ h hm hi => ⟨_, rfl, stageStop_stops h hm hi, stageStop_already h hm hi⟩,
    fun _ _ _ h hm hi => ⟨_, rfl, stageClear_clears h hm hi, stageClear_refused h hm hi⟩,
    fun r d w s h hb hd hl hw => ?_,
    fun _ _ _ _ _ _ _ _ h hb hd hx hk hv hf hh hc => ⟨_, rfl, protStd_ends h hb hd hx hk hv hf hh hc⟩,
    fun r d s h hx ha => ?_, fun r d s h hx => ?_⟩
  · obtain ⟨hend, hcw, hbw, hkept, hcommit⟩ := loopSetup_ends h hb hd hl hw
    refine ⟨_, rfl, hend, fun k v hk => ⟨?_, ?_⟩, fun k hk => ⟨?_, ?_⟩, hkept, hcommit⟩
    · rw [hcw, lastWrite_of_getLast? hk]
    · rw [hbw, lastWrite_of_getLast? hk]
    · rw [hcw, lastWrite_of_forall_ne hk]
    · rw [hbw, lastWrite_of_forall_ne hk]
  · obtain ⟨hwait, hlo, hhi, hkept⟩ := capSet_waits h fun _ => ha
    rw [hx] at hlo hhi
    exact ⟨_, rfl, hwait, hlo, hhi, hkept⟩
  · obtain ⟨hwait, hlo, hhi, hkept⟩ := capSet_waits h fun hf => absurd (hx.symm.trans hf) (by decide)
    rw [hx] at hlo hhi
    exact ⟨_, rfl, hwait, hlo, hhi, hkept⟩

end

/-! # PG lost in ON: what the reaction does to the rail (R140, R145, R154) -/

namespace Sys2Proof.Machine

section
variable {i : Nat} {f : FQ} {s : State}

/-- Queue and capture leave the rails alone: of one fault only the reaction of its rail is seen on them. -/
theorem rail_faultLogic_one (shut : List Nat) (h : s.flt.found = [f]) (hr : f.rail < 96) (j : Nat) :
    (faultLogic shut s).rail j =
      (reactRail f.rail [f] (shut.contains f.rail) { s with flt := { s.flt with found := [] } }).2.rail j := by
  rw [faultLogic_one shut s f h hr]
  exact onRails_rail ((onRails_captureFirst ..).trans (onRails_queueFault ..)) j

/-- A verdict that reaches neither the group nor the system is the drop of its rail alone (R140). -/
theorem reactRail_local (hs : s.shadow = false) {v : Verdict} (hv : verdictLive s i (reactOf s i f.kind) f.vio = v)
    (hreact : v.react < 2) (hesc : v.escalated = false) : (reactRail i [f] false s).2 =
      applyDrop i v [f.kind] (s.modRail i fun r => { r with lastKind := f.kind, shutdown := false }) := by
  have hm : [reactOf s i f.kind].foldl max 0 = reactOf s i f.kind := by simp
  have hvio : [f].any (·.vio) = f.vio := by simp
  unfold reactRail
  extract_lets w r kinds m vio held x fill prim s1 s2 s3 s4
  have hx : x = v := by simp only [x, m, vio, kinds, List.map_cons, List.map_nil, hm, hvio, hs, hv, Bool.false_eq_true, if_false]
  have hprim : prim = f := by simp [prim]
  have hs1 : s1 = s.modRail i fun r => { r with lastKind := f.kind, shutdown := false } := by simp only [s1, hprim]
  have hs4 : s4 = applyDrop i v [f.kind] s1 := by
    simp only [s4, s3, s2, hx, hesc, kinds, List.map_cons, List.map_nil, Bool.false_eq_true, if_false]
    rw [if_neg (by omega), if_neg (by omega)]
  have hshadow : ¬s1.shadow = true := by rw [hs1]; exact ne_true_of_eq_false hs
  rw [if_neg hshadow, hs4, hs1]

/-- PG lost found alone outside shutdown: the rails are as the reaction to it leaves them (R138, R154). -/
theorem rail_reactNow_pgLost (hi : i < 96) (hf : s.flt.found = []) (hrun : s.off.run = false) (o : Ts) (j : Nat) :
    (reactNow (detect 0 false o i s)).rail j =
      (reactRail i [{ rail := i, kind := 0, onset := o, det := s.clk.frame }] false s).2.rail j := by
  have hfound : (detect 0 false o i s).flt.found = [{ rail := i, kind := 0, onset := o, det := s.clk.frame }] := by
    rw [detect_flt, hf]
    rfl
  have hset : (detect 0 false o i s).runSet = [] := if_neg (ne_true_of_eq_false hrun)
  have hback : { detect 0 false o i s with flt := { (detect 0 false o i s).flt with found := [] } } = s := by
    change { s with flt := { s.flt with found := [] } } = s
    rw [← hf]
  rw [reactNow, rail_faultLogic_one _ hfound hi, hset, hback]
  rfl

/-- The rail as PG lost leaves it to the reaction (R70). -/
def Rail.pgGone (t : Ts) (r : Rail) : Rail :=
  { r with raw := false, db := false, dbCnt := 0, goodTicks := 0, tickGood := false, dbOnset := t }

/-- PG lost in ON is found on a rail that is not good any more (R70, R138). -/
theorem pgLostNow_of_on (hon : (s.rail i).st = .on) :
    ∃ t o, pgLostNow i s = reactNow (detect 0 false o i (s.modRail i (Rail.pgGone t))) := by
  have hrail : ∀ g, ((s.modRail i g).rail i) = g (s.rail i) := fun g => State.modRail_rail_same ..
  unfold pgLostNow judgePg
  simp only [hrail, hon, reduceCtorEq, if_false, Bool.false_eq_true]
  exact ⟨_, _, rfl⟩

/-- PG lost in ON under a reaction that reaches neither the group nor the system (R140, R154). -/
theorem rail_pgLostNow (hi : i < 96) (hon : (s.rail i).st = .on) (hf : s.flt.found = []) (hrun : s.off.run = false)
    (hs : s.shadow = false) {v : Verdict} (hreact : v.react < 2) (hesc : v.escalated = false)
    (hv : ∀ t, verdictLive (s.modRail i (Rail.pgGone t)) i (reactOf (s.modRail i (Rail.pgGone t)) i 0) false = v) :
    ∃ t, ∀ j, (pgLostNow i s).rail j =
      (applyDrop i v [0] ((s.modRail i (Rail.pgGone t)).modRail i fun r => { r with lastKind := 0, shutdown := false })).rail j := by
  obtain ⟨t, o, h⟩ := pgLostNow_of_on hon
  have hs' : (s.modRail i (Rail.pgGone t)).shadow = false := hs
  have hlocal := reactRail_local (f := { rail := i, kind := 0, onset := o, det := (s.modRail i (Rail.pgGone t)).clk.frame })
    hs' (hv t) hreact hesc
  refine ⟨t, fun j => ?_⟩
  rw [h, rail_reactNow_pgLost hi (by exact hf) (by exact hrun), hlocal]

end

section
variable {i : Nat} {s : State}

/-- A rail in ON whose EN stays asserted is RAMPING, EN and what was found of it as before (R73, R140). -/
theorem applyDrop_ignored (hon : (s.rail i).st = .on) : applyDrop i {} [0] s = setRState i .ramping s := by
  unfold applyDrop
  simp [hon]

/-- A drop with a retry to follow: the rail is FAULTED, EN not asserted, and its backoff runs (R140, R145). -/
theorem applyDrop_retry (k : List Nat) :
    ((applyDrop i { react := 1, drop := true, retry := true } k s).rail i) = { (dropRail i s).rail i with
      retryPend := true, backoff := orDef (s.cf (fbase i + 4) 11 0) 1, backAt := some s.clk.frame, retry := none } := by
  unfold applyDrop
  simp only [if_true, State.modRail_rail_same]
  rw [cfg_cf (keepReact_cfg_of (keepReact_dropRail i s)), keepReact_clk_of (keepReact_dropRail i s)]

theorem applyDrop_ne (v : Verdict) (k : List Nat) {j : Nat} (hj : j ≠ i) : (applyDrop i v k s).rail j = s.rail j := by
  unfold applyDrop
  dsimp only
  split
  · split
    · rw [State.modRail_rail, if_neg hj, dropRail_ne _ _ hj]
    · exact dropRail_ne _ _ hj
  · split
    · exact dropRail_ne _ _ hj
    · split
      · exact setRState_ne _ _ _ hj
      · rfl

/-- The rail the reaction to PG lost begins with (R70, R143). -/
def Rail.pgFaulted (t : Ts) (r : Rail) : Rail := { r.pgGone t with lastKind := 0, shutdown := false }

theorem pgFaulted_rail (t : Ts) (j : Nat) (s : State) :
    ((s.modRail i (Rail.pgGone t)).modRail i fun r => { r with lastKind := 0, shutdown := false }).rail j =
      if j = i then (s.rail i).pgFaulted t else s.rail j := by
  rw [State.modRail_rail]
  split
  · rw [State.modRail_rail_same, Rail.pgFaulted]
  · next h => rw [State.modRail_rail, if_neg h]

/-- PG lost under IGNORE (R140): the rail is RAMPING with its EN as it was. -/
theorem pgLostNow_ignored (hi : i < 96) (hon : (s.rail i).st = .on) (hf : s.flt.found = []) (hrun : s.off.run = false)
    (hs : s.shadow = false) (hr : s.cf (fbase i) 1 0 = 0) : ((pgLostNow i s).rail i).st = .ramping ∧
      ((pgLostNow i s).rail i).en = (s.rail i).en ∧ ((pgLostNow i s).rail i).lastKind = 0 ∧
      ∀ j, j ≠ i → (pgLostNow i s).rail j = s.rail j := by
  obtain ⟨t, ht⟩ := rail_pgLostNow hi hon hf hrun hs (v := {}) (by decide) rfl fun _ => if_pos hr
  generalize hu : (s.modRail i (Rail.pgGone t)).modRail i _ = u at ht
  have hrail (j : Nat) : u.rail j = if j = i then (s.rail i).pgFaulted t else s.rail j := hu ▸ pgFaulted_rail t j s
  have hown : u.rail i = (s.rail i).pgFaulted t := (hrail i).trans (if_pos rfl)
  rw [applyDrop_ignored (by rw [hown]; exact hon)] at ht
  refine ⟨?_, ?_, ?_, fun j hj => ?_⟩
  · rw [ht, setRState_st]
  · rw [ht, setRState_en, hown, Rail.pgFaulted, Rail.pgGone]
  · rw [ht, setRState_lastKind, hown, Rail.pgFaulted]
  · rw [ht, setRState_ne _ _ _ hj, hrail, if_neg hj]

/-- A live rail outside any run that has retries left is dropped and retried (R140, R145). -/
theorem verdictLive_retry (hl : (s.rail i).st.live = true) (hrun : s.off.run = false)
    (hn : (s.rail i).retryCnt < s.cf (fbase i + 4) 15 12) :
    verdictLive s i 1 false = { react := 1, drop := true, retry := true } := by
  unfold verdictLive inRun
  simp [hl, hrun, hn]

theorem dropRail_lastKind (hu : (s.rail i).st ≠ .unused) (hz : (s.rail i).st ≠ .hiz) :
    ((dropRail i s).rail i).lastKind = (s.rail i).lastKind := by
  unfold dropRail
  simp [hu, hz]

/-- PG lost under RETRY_RAIL with retries left (R140, R145): the rail is FAULTED, EN is dropped, the backoff runs. -/
theorem pgLostNow_retried (hi : i < 96) (hon : (s.rail i).st = .on) (hf : s.flt.found = []) (hrun : s.off.run = false)
    (hs : s.shadow = false) (hr : s.cf (fbase i) 1 0 = 1) (hn : (s.rail i).retryCnt < s.cf (fbase i + 4) 15 12) :
    ((pgLostNow i s).rail i).st = .faulted ∧ ((pgLostNow i s).rail i).en = false ∧
      ((pgLostNow i s).rail i).retryPend = true ∧ ((pgLostNow i s).rail i).backoff = orDef (s.cf (fbase i + 4) 11 0) 1 ∧
      ((pgLostNow i s).rail i).lastKind = 0 ∧ ∀ j, j ≠ i → (pgLostNow i s).rail j = s.rail j := by
  have hv (t : Ts) : verdictLive (s.modRail i (Rail.pgGone t)) i (reactOf (s.modRail i (Rail.pgGone t)) i 0) false =
      { react := 1, drop := true, retry := true } := by
    have hrail : (s.modRail i (Rail.pgGone t)).rail i = (s.rail i).pgGone t := State.modRail_rail_same ..
    rw [show reactOf (s.modRail i (Rail.pgGone t)) i 0 = 1 from hr]
    exact verdictLive_retry (by rw [hrail, Rail.pgGone, hon]; rfl) hrun (by rw [hrail]; exact hn)
  obtain ⟨t, ht⟩ := rail_pgLostNow hi hon hf hrun hs (by decide) rfl hv
  have hcf : ((s.modRail i (Rail.pgGone t)).modRail i fun r => { r with lastKind := 0, shutdown := false }).cf
      (fbase i + 4) 11 0 = s.cf (fbase i + 4) 11 0 := rfl
  generalize hu : (s.modRail i (Rail.pgGone t)).modRail i _ = u at ht hcf
  have hrail (j : Nat) : u.rail j = if j = i then (s.rail i).pgFaulted t else s.rail j := hu ▸ pgFaulted_rail t j s
  have hown : u.rail i = (s.rail i).pgFaulted t := (hrail i).trans (if_pos rfl)
  have hst : (u.rail i).st = .on := by rw [hown]; exact hon
  have hused : (u.rail i).st ≠ .unused := by rw [hst]; decide
  have hdriven : (u.rail i).st ≠ .hiz := by rw [hst]; decide
  obtain ⟨hdrop, hen⟩ := dropRail_st i u hused hdriven
  have hretry := (ht i).trans (applyDrop_retry ..)
  refine ⟨?_, ?_, ?_, ?_, ?_, fun j hj => ?_⟩
  · rw [hretry, hdrop]
  · rw [hretry, hen]
  · rw [hretry]
  · rw [hretry, hcf]
  · rw [hretry, dropRail_lastKind hused hdriven, hown, Rail.pgFaulted]
  · rw [ht, applyDrop_ne _ _ hj, hrail, if_neg hj]

end

end Sys2Proof.Machine

section
open Sys2Proof Sys2Proof.Machine

/-- Settles O6: outside shutdown PG lost is the only fault its rail reacts to (`rail_pgLostNow`), and either verdict acts on that
rail alone. -/
theorem pgLostReaction : Obligations.PgLostReaction := by
  intro i s hi hon hf hrun hs
  exact ⟨fun hr => completes_onRail hi rfl (pgLostNow_ignored hi hon hf hrun hs hr),
    fun hr hn => completes_onRail hi rfl (pgLostNow_retried hi hon hf hrun hs hr hn)⟩

end

/-! # A group restart whose program is not valid (R150) -/

namespace Sys2Proof.Machine

section
variable {n : Nat} {s : State}

/-- The delay of a group restart has run and its program is not valid: nothing is launched, nothing is counted (R150). -/
theorem groupNow_invalid (hl : (s.grp n).left.isSome = true) (hh : (s.eng 1).halted = false)
    (hp : s.progValid (s.cf (0x5640 + 4 * n) 5 0) = false) :
    groupNow n s = (s.modGrp n fun g => { g with left := some 0 }).modGrp n fun g => { g with left := none } := by
  have hleft : ((s.modGrp n fun g => { g with left := some 0 }).grp n).left = some 0 := by rw [State.modGrp_grp_same]
  unfold groupNow groupRestartDue groupRestartNow
  rw [if_pos hl, if_pos (by rw [hleft]; simpa using hh)]
  exact if_neg (ne_true_of_eq_false hp)

/-- The part as it powers up, no program being set up, with the delay of a restart of group 0 running. -/
def restartWithoutProgram : State := State.reset.modGrp 0 fun g => { g with left := some 1 }

theorem left_restartWithoutProgram : (restartWithoutProgram.grp 0).left = some 1 := by
  rw [restartWithoutProgram, State.modGrp_grp_same]

theorem count_restartWithoutProgram : (restartWithoutProgram.grp 0).count = 0 := by
  rw [restartWithoutProgram, State.modGrp_grp_same]
  rfl

theorem progValid_restartWithoutProgram :
    restartWithoutProgram.progValid (restartWithoutProgram.cf (0x5640 + 4 * 0) 5 0) = false := by decide +kernel

end

end Sys2Proof.Machine

section
open Sys2Proof Sys2Proof.Machine

/-- Refutes O9: the clause on GROUP_RESTART has no premise that the group's program is valid. In `restartWithoutProgram` the
restart launches nothing, and the count of the group stays 0 (`groupNow_invalid`). -/
theorem not_faultPolicyTimers : ¬ Obligations.FaultPolicyTimers := by
  rintro ⟨-, -, hgroup, -⟩
  have hleft : (restartWithoutProgram.grp 0).left.isSome = true := by rw [left_restartWithoutProgram]; rfl
  obtain ⟨t, ht, -, hcount, -⟩ := hgroup 0 restartWithoutProgram (by decide) hleft rfl
  have hstate : t = groupNow 0 restartWithoutProgram := (eq_runCmd ht).trans rfl
  rw [hstate, groupNow_invalid hleft rfl progValid_restartWithoutProgram, State.modGrp_grp_same, State.modGrp_grp_same] at hcount
  exact absurd (hcount.symm.trans count_restartWithoutProgram) (by rw [count_restartWithoutProgram]; decide)

end

/-! # The watchdog: a failed boot, or the full off run (R164 to R166, R437) -/

namespace Sys2Proof.Machine

section
variable {s t : State}

/-- What an expiry in operation settles: the run of the watchdog, its count, SYSRST#, the off run, the events. -/
def State.expiry (s : State) := (s.flt.wdtRun, s.flt.wdtExp, s.flt.sysrst, s.off.run, s.off.full, s.evt)

theorem expiry_of_keepPins (h : t.keepPins = s.keepPins) : t.expiry = s.expiry := by
  simp only [State.keepPins, Prod.mk.injEq] at h
  obtain ⟨-, -, -, -, -, -, hevt, -, -, -, -, -, -, -, hoff, hflt, -⟩ := h
  rw [State.expiry, hevt, hoff, hflt, State.expiry]

/-- A release acts on the pins of its rail (R67). -/
theorem expiry_releaseNow (i : Nat) (s : State) : (releaseNow i s).expiry = s.expiry :=
  expiry_of_keepPins ((keepPins_driveEn ..).trans ((keepPins_modRail ..).trans (keepPins_releaseRail i s)))

theorem expiry_releaseAll (s : State) : (releaseAll s).expiry = s.expiry :=
  each_keep State.expiry expiry_releaseNow _ _

/-- Records to the members leave the rest of the part alone (R127, R337). -/
theorem toMembers_sca (f : Nat → CmdRec) (s : State) : { toMembers f s with sca := s.sca } = s := by
  unfold toMembers
  split <;> rfl

theorem offRelay_sca (full : Bool) (groups : Nat) (s : State) : { offRelay full groups false s with sca := s.sca } = s := by
  unfold offRelay
  split
  · rfl
  · exact toMembers_sca _ s

theorem expiry_offRelay (full : Bool) (groups : Nat) (s : State) : (offRelay full groups false s).expiry = s.expiry :=
  (congrArg State.expiry (offRelay_sca full groups s) :)

theorem expiry_assertSysrst (s : State) : (assertSysrst s).expiry =
    (s.flt.wdtRun, s.flt.wdtExp, true, s.off.run, s.off.full, s.evt) := by
  unfold assertSysrst
  split
  · next h => rw [← h]; rfl
  · rfl

/-- The watchdog's run, its count and SYSRST#. -/
def State.wdt (s : State) := (s.flt.wdtRun, s.flt.wdtExp, s.flt.sysrst)

theorem wdt_of_flt (h : t.onFlt = s.onFlt) : t.wdt = s.wdt :=
  (congrArg (fun f : Flt => (f.wdtRun, f.wdtExp, f.sysrst)) h :)

theorem wdt_cancelRestarts (full : Bool) (l : List Nat) (s : State) : (cancelRestarts full l s).wdt = s.wdt :=
  (congrArg State.wdt (offCounts_cancelRestarts full l s) :)

theorem wdt_offRequest (src groups : Nat) (full : Bool) (s : State) : (offRequest src full groups s).wdt = s.wdt := by
  unfold offRequest
  split
  · rfl
  · extract_lets l a b c rel held e was q o u
    have he : e.wdt = s.wdt := calc
      e.wdt = c.wdt := each_keep State.wdt (fun i x => wdt_of_flt (onFlt_cancelRetry i x)) held c
      _ = b.wdt := wdt_of_flt (onFlt_dropResumes b)
      _ = a.wdt := wdt_cancelRestarts full l a
      _ = s.wdt := wdt_of_flt (onFlt_withdrawRails l s)
    split
    · exact (wdt_of_flt (onFlt_fullRunActs u)).trans he
    · exact he

/-- After a full off request a full run is in progress, whatever was before (R114, R117). -/
theorem offRequest_full (src groups : Nat) (s : State) :
    (offRequest src true groups s).off.run = true ∧ (offRequest src true groups s).off.full = true := by
  unfold offRequest
  rw [if_neg (by simp)]
  extract_lets l a b c rel held e was q o u
  have ho : o.run = true ∧ o.full = true := by
    simp only [o]
    split
    · next h => exact ⟨h, Bool.or_true _⟩
    · exact ⟨rfl, rfl⟩
  split
  · rw [(fullRunActs_parts u).1]
    exact ho
  · exact ho

theorem expiry_offRequest (src groups : Nat) (s : State) : (offRequest src true groups s).expiry =
    (s.flt.wdtRun, s.flt.wdtExp, s.flt.sysrst, true, true, s.evt) := by
  obtain ⟨hrun, hfull⟩ := offRequest_full src groups s
  have hwdt := wdt_offRequest src groups true s
  have hevt := keepReact_evt_of (keepReact_offRequest src true groups s)
  simp only [State.wdt, Prod.mk.injEq] at hwdt
  obtain ⟨h1, h2, h3⟩ := hwdt
  rw [State.expiry, h1, h2, h3, hrun, hfull, hevt]

/-- SYSRST# is asserted and the full off run begins, here and at the members (R127, R153, R166). -/
def sysrstOffRun (s : State) : State := offRelay true 0 false (assertSysrst (offRequest 1 true 0 s))

theorem expiry_sysrstOffRun (s : State) : (sysrstOffRun s).expiry =
    (s.flt.wdtRun, s.flt.wdtExp, true, true, true, s.evt) := by
  have hreq := expiry_offRequest 1 0 s
  simp only [State.expiry, Prod.mk.injEq] at hreq
  obtain ⟨h1, h2, -, h4, h5, h6⟩ := hreq
  rw [sysrstOffRun, expiry_offRelay, expiry_assertSysrst, h1, h2, h4, h5, h6]

/-- The expiry is counted and told (R166). -/
def expiryTold (e : Nat) (s : State) : State :=
  let u := { s with flt := { s.flt with wdtExp := sat 255 (s.flt.wdtExp + 1), wdtRun := true } }
  raise 0x2A u.tsB (detE e 0 0 0 0) u

/-- Every EN is released at once, or once GRACE has run (R166). -/
def releaseInGrace (s : State) (w : W32) : State :=
  if bit w 12 || fld w 24 13 = 0 then releaseAll s
  else { s with flt := { s.flt with grace := some ((s.flt.grace.map fun n => min n (fld w 24 13)).getD (fld w 24 13)) } }

theorem trayExpiry_eq (e : Nat) (s : State) :
    trayExpiry e s = releaseInGrace (sysrstOffRun (expiryTold e s)) (s.cw 0x560C) := by
  rw [trayExpiry, releaseInGrace, sysrstOffRun, expiryTold]

theorem expiry_releaseInGrace (s : State) (w : W32) : (releaseInGrace s w).expiry = s.expiry :=
  kept_branch State.expiry (expiry_releaseAll s) rfl

/-- An expiry that counts for the tray (R166): counted and told, SYSRST# asserted, the full off run in progress. -/
theorem expiry_trayExpiry (e : Nat) (s : State) : (trayExpiry e s).expiry =
    (true, sat 255 (s.flt.wdtExp + 1), true, true, true, (expiryTold e s).evt) := by
  have hflt : (expiryTold e s).flt = { s.flt with wdtExp := sat 255 (s.flt.wdtExp + 1), wdtRun := true } :=
    (eventsOnly_raise ..).flt
  rw [trayExpiry_eq, expiry_releaseInGrace, expiry_sysrstOffRun, hflt]

theorem pending_expiryTold (e : Nat) (s : State) : Pending 0x2A (expiryTold e s) :=
  pending_raise _ _ _ _ _ (by decide) (.inl rfl)

theorem watchdogExpiry_tray {e : Nat} (he : e < 4) (ha : (s.eng e).armed = true) (hp : s.pwr.phase = .run) :
    watchdogExpiry e s = trayExpiry e s := by
  unfold watchdogExpiry booting isTray
  rw [if_neg (by simp [ha]; omega)]
  simp [hp, he]

theorem watchdogExpiry_boot {e : Nat} (he : e < 8) (ha : (s.eng e).armed = true) (hb : booting s = true) :
    watchdogExpiry e s = bootFailure s := by
  unfold watchdogExpiry
  rw [if_neg (by simp [ha]; omega), if_pos (by simp [hb])]

end

end Sys2Proof.Machine

section
open Sys2Proof Sys2Proof.Machine

/-- Settles O14: during a boot the expiry is the failed boot of `powerAndResets`; in operation each part of the reaction keeps
what the parts before it settled (`expiry_trayExpiry`). -/
theorem watchdogExpiry : Obligations.WatchdogExpiry := by
  refine ⟨fun e s he ha hp hf => ?_, fun e s he ha hp => ?_⟩
  · obtain ⟨-, -, -, -, -, -, hboot, -⟩ := powerAndResets
    obtain ⟨t, ht, hreset⟩ := hboot s (.inl hp) hf
    refine ⟨t, ?_, hreset⟩
    rw [← ht]
    exact congrArg Next (watchdogExpiry_boot he ha (by simp [booting, hp]))
  · have h := expiry_trayExpiry e s
    simp only [State.expiry, Prod.mk.injEq] at h
    obtain ⟨h1, h2, h3, h4, h5, h6⟩ := h
    exact ⟨_, congrArg Next (watchdogExpiry_tray he ha hp), h1, h2, h3, h4, h5, by rw [Pending, h6]; exact pending_expiryTold e s⟩

end

/-! # A stage regulates, stands at its floor, retries, heals (R151, R172, R265, R268) -/

namespace Sys2Proof.Machine

section
variable {st : Nat} {s : State}

/-- The row of a happening on a stage of the part completes with its effect. -/
theorem completes_onStage {c : Instr} {f : State → State} {P : State → Prop} (hst : st < 4)
    (hc : exec c s = Next (onStage st f s)) (hp : P (f s)) : Completes c s P :=
  ⟨f s, by rw [hc, onStage, if_pos hst], hp⟩

/-- Who waits for a step learns its outcome as a program or as a command (R108, R300). -/
theorem offTell_marginTell (o : Owner) (code status : Nat) (s : State) : (marginTell o code status s).offTell = s.offTell := by
  cases o with
  | none => rfl
  | prog n => rfl
  | cmd q => exact offTell_finishAt ..

theorem offTell_stageTell (st code status : Nat) (s : State) :
    (stageTell st code status s).offTell = (s.modStg st fun x => { x with waiters := [] }).offTell :=
  each_keep State.offTell (fun o => offTell_marginTell o code status) _ _

/-- The stage regulates: nobody waits for it any more, it stands at no floor (R265). -/
theorem regulateNow_spec (hs : (s.stg st).st = .kindling ∨ (s.stg st).st = .moving) (ht : (s.stg st).target ≠ 0) :
    ((regulateNow st s).stg st).st = .regulated ∧ ((regulateNow st s).stg st).waiters = [] ∧
      ((regulateNow st s).stg st).floored = false ∧ (∀ j, j ≠ st → (regulateNow st s).stg j = s.stg j) ∧
      (regulateNow st s).rails = s.rails := by
  unfold regulateNow
  rw [if_pos (by simpa using ⟨hs, ht⟩)]
  generalize hu : (s.modStg st fun x => { x with
    st := .regulated, inBand := orDef (s.sfld st 0x0C 19 12) 1, floored := false, floorCnt := 0, floorTold := false }) = u
  have htell := offTell_stageTell st 1 stOk u
  have hstg (j : Nat) : (stageTell st 1 stOk u).stg j = (u.modStg st fun x => { x with waiters := [] }).stg j :=
    (congrArg (State.stg · j) htell :)
  have hown : (stageTell st 1 stOk u).stg st = { u.stg st with waiters := [] } := (hstg st).trans (State.modStg_stg_same ..)
  refine ⟨?_, ?_, ?_, fun j hj => ?_, (congrArg State.rails htell :).trans (congrArg State.rails hu).symm⟩
  · rw [hown, ← hu, State.modStg_stg_same]
  · rw [hown]
  · rw [hown, ← hu, State.modStg_stg_same]
  · rw [hstg, State.modStg_stg, if_neg hj, ← hu, State.modStg_stg, if_neg hj]

/-- The stage stands at the floor of its cap, told once (R268). -/
theorem floorNow_spec (hst : st < 4) (hc : (s.stg st).st = .capped) (hf : (s.stg st).floorTold = false) :
    ((floorNow st s).stg st).floored = true ∧ ((floorNow st s).stg st).floorTold = true ∧
      ((floorNow st s).stg st).st = .capped ∧ Pending (0x84 + 8 * st) (floorNow st s) ∧
      (∀ j, j ≠ st → (floorNow st s).stg j = s.stg j) ∧
      EventsOnly { s with stgs := (floorNow st s).stgs } (floorNow st s) := by
  unfold floorNow stgEvent
  rw [if_pos (by simp [hc, hf])]
  extract_lets x h
  generalize hu : (s.modStg st fun x => { x with floored := true, floorCnt := 256, floorTold := true }) = u at x h
  have hev : EventsOnly u (raise (0x80 + 8 * st + 4) u.tsB (detT st x.fcause h 0 0 x.consecHic x.sp x.vout x.iout) u) :=
    eventsOnly_raise ..
  have hpend : Pending (0x84 + 8 * st) (raise (0x80 + 8 * st + 4) u.tsB (detT st x.fcause h 0 0 x.consecHic x.sp x.vout x.iout) u) :=
    pending_raise _ _ _ _ _ (by omega) (.inl (by omega))
  generalize raise _ _ _ u = t at hev hpend
  have hstg (j : Nat) : t.stg j = u.stg j := by rw [State.stg, hev.stgs, State.stg]
  have hown : t.stg st = { s.stg st with floored := true, floorCnt := 256, floorTold := true } := by
    rw [hstg, ← hu, State.modStg_stg_same]
  refine ⟨?_, ?_, ?_, hpend, fun j hj => ?_, ?_⟩
  · rw [hown]
  · rw [hown]
  · rw [hown]; exact hc
  · rw [hstg, ← hu, State.modStg_stg, if_neg hj]
  · rw [hev.stgs]
    rw [← hu] at hev ⊢
    exact hev

/-- The retry's backoff has run: the stage is a candidate of the ledger (R151). -/
theorem stageBackoffNow_eq {n : Nat} (hs : (s.stg st).st = .safeOff) (hb : (s.stg st).backoff = some n) :
    stageBackoffNow st s = (s.modStg st fun x => { x with backoff := x.backoff.map fun _ => 0 }).modStg st fun x =>
      { x with backoff := none, retry := some { since := s.clk.frame } } := by
  unfold stageBackoffNow stageBackoffEnd
  simp only [State.modStg_stg_same, hs, hb, Option.map_some]
  rfl

theorem retryHeal_eq (hr : (s.stg st).st.isReg = true) :
    retryHeal st s = s.modStg st fun x => { x with regTicks := max 256 x.regTicks, retryCnt := 0 } := if_pos hr

end

end Sys2Proof.Machine

section
open Sys2Proof Sys2Proof.Machine

/-- Settles O16: each happening is a change of its stage; who waits for a stage to regulate is told without a stage or a rail
being touched (`offTell_stageTell`). -/
theorem stageProgress : Obligations.StageProgress := by
  refine ⟨fun st s hst hs ht => completes_onStage hst rfl (regulateNow_spec hs ht),
    fun st s hst hc hf => completes_onStage hst rfl (floorNow_spec hst hc hf),
    fun st n s hst hs hb => completes_onStage hst rfl ?_, fun st s hst hr => completes_onStage hst rfl ?_⟩
  · rw [stageBackoffNow_eq hs hb]
    exact ⟨by simp, by simp, by simpa using hs, fun j hj => by simp [hj], rfl⟩
  · rw [retryHeal_eq hr]
    exact ⟨by simp, by simp, fun j hj => by simp [hj], rfl⟩

end

/-! # What the end of a command leaves of what is sent and journalled (R300, R302) -/

namespace Sys2Proof.Machine

/-- What the part has sent, the journal but for the entries that became final, and the lock. -/
def State.posted (s : State) : List Out × Jrn × Nat := (s.out, { s.jrn with finals := [] }, s.hst.lock)

theorem posted_finishAt (d q st res : Nat) (s : State) : (finishAt d q st res s).posted = s.posted := by
  unfold finishAt
  extract_lets f
  split <;> rfl

theorem posted_finish (q st res : Nat) (s : State) : (finish q st res s).posted = s.posted := posted_finishAt ..

theorem posted_progsTell (s : State) : (progsTell s).posted = s.posted := by
  refine each_keep State.posted (fun n s => ?_) _ _
  unfold progTell
  exact kept_ite State.posted (each_keep State.posted (fun _ _ => posted_finishAt ..) _ _)

section
variable {op r : Nat} {d : Desc} {s v : State} {st res : Nat} {bytes : List Byte}

theorem posted_atBoundary (f : State → State) (s : State) :
    (atBoundary f s).posted = (f { s with clk := { s.clk with frame := s.clk.frame + 1 } }).posted := rfl

theorem posted_hostRow (h : Taken op r d s) :
    (hostRow op r d s).posted = (applyCmd (cmdLive op r d s) (cmdState op r d s)).posted := by
  rw [hostRow_taken h, posted_atBoundary, posted_progsTell, cmdState]

theorem relayOut_unmarked (h : masterOp d.opcode = false) (s : State) : relayOut d s = s := by
  unfold relayOut
  rw [if_neg (by simp [h])]

/-- An opcode that writes the host's buffer and reads nothing from it; no member is told of it (R305, R306). -/
abbrev ReadOp (op : Nat) : Prop := op ≠ 0x81 ∧ readsBuf op = false ∧ masterOp op = false

/-- A read whose buffer takes what it names ends with OK behind it (R302). -/
theorem read_ends (h : Taken op r d s) (hop : ReadOp op) (hb : d.bufOk = true) (hd : d.dmaOk = true) (hres : res < 2 ^ 64)
    (he : cmdEffect (cmdLive op r d s) (cmdState op r d s) = bufferEnd (cmdLive op r d s) bytes res v)
    (hv : Undisturbed (cmdState op r d s) v) : Ended op r d 0 res s (hostRow op r d s) ∧ Told v (hostRow op r d s) ∧
      (hostRow op r d s).posted = (emit (.buffer d.addr bytes) v).posted := by
  obtain ⟨hbar, hread, hmaster⟩ := hop
  have he' : cmdEffect (cmdLive op r d s) (cmdState op r d s) = finish s.nextSeq stOk res (emit (.buffer d.addr bytes) v) :=
    he.trans (if_pos hd)
  have hreads : readsBuf op = true → d.dmaOk = true := fun _ => hd
  obtain ⟨hend, htold⟩ := ended_of_effect h hbar (fun _ => hb) hreads hres he' ⟨hv.1, hv.2⟩
  have happly : applyCmd (cmdLive op r d s) (cmdState op r d s) =
      finish s.nextSeq stOk res (relayOut { d with opcode := op } (emit (.buffer d.addr bytes) v)) :=
    applyCmd_of_finish hbar (fun _ => hb) hreads rfl he'
  rw [relayOut_unmarked (d := { d with opcode := op }) hmaster] at happly
  have hposted := (posted_hostRow h).trans (congrArg State.posted happly)
  exact ⟨hend, htold, hposted.trans (posted_finish ..)⟩

/-- The buffer written last is the one the command names. -/
theorem out_of_posted {t : State} (h : t.posted = (emit (.buffer d.addr bytes) v).posted) :
    t.out.head? = some (.buffer d.addr bytes) := (congrArg (fun p => p.1.head?) h :)

/-- A read whose buffer is not written ends with DMA_ERROR (R302). -/
theorem read_fails (h : Taken op r d s) (hop : ReadOp op) (hb : d.bufOk = true) (hd : d.dmaOk = false)
    (he : cmdEffect (cmdLive op r d s) (cmdState op r d s) = bufferEnd (cmdLive op r d s) bytes res v)
    (hv : Undisturbed (cmdState op r d s) v) : Ended op r d stDma 0 s (hostRow op r d s) :=
  (ended_of_effect h hop.1 (fun _ => hb) (fun hr => absurd hr (by simp [hop.2.1])) (by decide)
    (he.trans (if_neg (ne_true_of_eq_false hd))) hv).1

end

end Sys2Proof.Machine

/-! # JOURNAL_READ (R317) -/

namespace Sys2Proof.Machine

/-- A count in its range and a buffer that is long enough pass the checks of a read. -/
theorem read_checked {c : Bool} {a b : Nat} (hc : c = true) (h : a ≤ b) : ¬(!c || decide (b < a)) = true := by
  simp [hc, h]

section
variable {r : Nat} {d : Desc} {l : Live} {s t : State}

/-- The SEQs a JOURNAL_READ names. -/
def seqsRead (d : Desc) : List Nat := (List.range (d.arg 172 160)).map fun k => (d.arg 159 96 + k) % 2 ^ 64

/-- The words of the journal behind the SEQs are read. -/
def wordsRead (qs : List Nat) (s : State) : State := each qs (fun q s => (readWord s.tsB 0x12 (q % 4096) s).2) s

theorem offWc_wordsRead (qs : List Nat) (s : State) : (wordsRead qs s).offWc = s.offWc :=
  each_keep State.offWc (fun _ _ => offWc_readWord ..) qs s

/-- Reading corrects words and loses none (R25, R26). -/
theorem wordOk_wordsRead (qs : List Nat) (s : State) (a : Nat) : (wordsRead qs s).wordOk 0x12 a = s.wordOk 0x12 a :=
  each_keep (fun s => s.wordOk 0x12 a) (fun _ _ => wordOk_readWord (by decide) ..) qs s

/-- The entry of a SEQ is that of the journal, its mirror, and the word it stands in (R317). -/
theorem journalAt_congr (hw : ∀ a, t.wordOk 0x12 a = s.wordOk 0x12 a) (hs : t.jrn.sram = s.jrn.sram)
    (hm : t.jrn.mirror = s.jrn.mirror) (hn : t.nv = s.nv) (q : Nat) : journalAt t q = journalAt s q := by
  have hentry : t.jEntry q = s.jEntry q := by rw [State.jEntry, hs, State.jEntry]
  have hheld : mirrorHeld t = mirrorHeld s := by
    unfold mirrorHeld State.flashRead State.flashRaw
    rw [hm, hn]
  rw [journalAt, journalAt, hw, hentry, hheld]

/-- What a JOURNAL_READ leaves: the words read, the corrupt entries counted. -/
def journalRead (d : Desc) (s : State) : State :=
  let u := wordsRead (seqsRead d) s
  { u with jrn := { u.jrn with
    corrupt := sat 0xFFFF (u.jrn.corrupt + (((seqsRead d).map (journalAt s)).filter fun x => x.1.status = stCorrupt).length) } }

theorem cmdJournalRead_eq (hn : within 1 4096 (l.d.arg 172 160) = true) (hl : 32 * l.d.arg 172 160 ≤ l.d.len) :
    cmdJournalRead l s = bufferEnd l (((seqsRead l.d).map (journalAt s)).flatMap fun x => leBytes 32 x.1.bits)
      (((seqsRead l.d).map (journalAt s)).filter (·.2)).length (journalRead l.d s) := by
  unfold cmdJournalRead
  exact if_neg (read_checked hn hl)

theorem undisturbed_journalRead (d : Desc) (s : State) : Undisturbed s (journalRead d s) :=
  have h := offWc_wordsRead (seqsRead d) s
  ⟨(congrArg State.entries h :), (congrArg (fun u : State => u.hst.live) h :)⟩

theorem journalRead_ends (h : Taken 0x30 r d s) (hb : d.bufOk = true) (hn : within 1 4096 (d.arg 172 160) = true)
    (hl : 32 * d.arg 172 160 ≤ d.len) :
    (d.dmaOk = true → (hostRow 0x30 r d s).out.head? = some (.buffer d.addr ((List.range (d.arg 172 160)).flatMap fun k =>
        leBytes 32 (journalAt (hostRow 0x30 r d s) ((d.arg 159 96 + k) % 2 ^ 64)).1.bits)) ∧
      ∃ n, Ended 0x30 r d 0 n s (hostRow 0x30 r d s) ∧ n ≤ d.arg 172 160) ∧
    (d.dmaOk = false → Ended 0x30 r d stDma 0 s (hostRow 0x30 r d s)) := by
  have he := cmdJournalRead_eq (l := cmdLive 0x30 r d s) (s := cmdState 0x30 r d s) hn hl
  have hop : ReadOp 0x30 := by decide
  have hv := undisturbed_journalRead d (cmdState 0x30 r d s)
  refine ⟨fun hd => ?_, fun hd => read_fails h hop hb hd he hv⟩
  have hlen : (((seqsRead d).map (journalAt (cmdState 0x30 r d s))).filter (·.2)).length ≤ d.arg 172 160 :=
    (List.length_filter_le _ _).trans (by simp [seqsRead])
  have hmax : d.arg 172 160 ≤ 4096 := ((within_iff ..).mp hn).2
  obtain ⟨hend, htold, hposted⟩ := read_ends h hop hb hd (hlen.trans_lt (by omega)) he hv
  have hjrn := congrArg (fun p => p.2.1) hposted
  have hread := offWc_wordsRead (seqsRead d) (cmdState 0x30 r d s)
  have hat (q : Nat) : journalAt (hostRow 0x30 r d s) q = journalAt (cmdState 0x30 r d s) q := by
    refine journalAt_congr (fun a => ?_) ?_ ?_ ?_ q
    · exact (congrArg (fun u : State => u.wordOk 0x12 a) htold.1 :).trans (wordOk_wordsRead ..)
    · exact (congrArg Jrn.sram hjrn :).trans (congrArg (fun u : State => u.jrn.sram) hread :)
    · exact (congrArg Jrn.mirror hjrn :).trans (congrArg (fun u : State => u.jrn.mirror) hread :)
    · exact (congrArg State.nv htold.1 :).trans (congrArg State.nv hread :)
  refine ⟨?_, _, hend, hlen⟩
  rw [out_of_posted hposted, seqsRead, List.map_map, List.flatMap_map]
  simp only [hat]
  rfl

end

end Sys2Proof.Machine

/-! # The other reads (R162, R183, R307, R378, R401) -/

namespace Sys2Proof.Machine

section
variable {r : Nat} {d : Desc} {l : Live} {s t : State}

theorem cmdAlogRead_eq (hn : within 1 1024 (l.d.arg 138 128) = true) (hl : 32 * l.d.arg 138 128 ≤ l.d.len) :
    cmdAlogRead l s = bufferEnd l (((List.range (l.d.arg 138 128)).map fun k => alogAt s (l.d.arg 127 96 + k)).flatMap
      fun x => leBytes 32 (x.elim 0 alogBits))
      (((List.range (l.d.arg 138 128)).map fun k => alogAt s (l.d.arg 127 96 + k)).filter Option.isSome).length s := by
  unfold cmdAlogRead
  exact if_neg (read_checked hn hl)

theorem alogRead_ends (h : Taken 0x31 r d s) (hb : d.bufOk = true) (hd : d.dmaOk = true)
    (hn : within 1 1024 (d.arg 138 128) = true) (hl : 32 * d.arg 138 128 ≤ d.len) :
    (hostRow 0x31 r d s).out.head? = some (.buffer d.addr ((List.range (d.arg 138 128)).flatMap fun k =>
        leBytes 32 ((alogAt s (d.arg 127 96 + k)).elim 0 alogBits))) ∧
      Ended 0x31 r d 0 ((List.range (d.arg 138 128)).filter fun k => (alogAt s (d.arg 127 96 + k)).isSome).length s
        (hostRow 0x31 r d s) := by
  have hat (k : Nat) : alogAt (cmdState 0x31 r d s) k = alogAt s k := of_cmdState (alogAt · k) fun _ => rfl
  have hmax : d.arg 138 128 ≤ 1024 := ((within_iff ..).mp hn).2
  have hlen : ((List.range (d.arg 138 128)).filter fun k => (alogAt s (d.arg 127 96 + k)).isSome).length ≤ d.arg 138 128 :=
    (List.length_filter_le _ _).trans (by simp)
  have he := cmdAlogRead_eq (l := cmdLive 0x31 r d s) (s := cmdState 0x31 r d s) hn hl
  simp only [hat, List.filter_map, List.length_map, Function.comp_def, List.flatMap_map] at he
  obtain ⟨hend, -, hposted⟩ := read_ends h (by decide) hb hd (hlen.trans_lt (by omega)) he ⟨rfl, rfl⟩
  exact ⟨out_of_posted hposted, hend⟩

theorem cmdRecRead_eq (hn : within 1 4096 (l.d.arg 143 128) = true) (hl : 256 * l.d.arg 143 128 ≤ l.d.len) :
    cmdRecRead l s = bufferEnd l (((List.range (l.d.arg 143 128)).map fun k => recordAt s (l.d.arg 127 96 + k)).flatMap
      fun x => x.getD (List.replicate 256 0))
      (((List.range (l.d.arg 143 128)).map fun k => recordAt s (l.d.arg 127 96 + k)).filter Option.isSome).length s := by
  unfold cmdRecRead
  exact if_neg (read_checked hn hl)

theorem recRead_ends (h : Taken 0x38 r d s) (hb : d.bufOk = true) (hd : d.dmaOk = true)
    (hn : within 1 4096 (d.arg 143 128) = true) (hl : 256 * d.arg 143 128 ≤ d.len) :
    (hostRow 0x38 r d s).out.head? = some (.buffer d.addr ((List.range (d.arg 143 128)).flatMap fun k =>
        (recordAt s (d.arg 127 96 + k)).getD (List.replicate 256 0))) ∧
      Ended 0x38 r d 0 ((List.range (d.arg 143 128)).filter fun k => (recordAt s (d.arg 127 96 + k)).isSome).length s
        (hostRow 0x38 r d s) := by
  have hat (k : Nat) : recordAt (cmdState 0x38 r d s) k = recordAt s k := of_cmdState (recordAt · k) fun _ => rfl
  have hmax : d.arg 143 128 ≤ 4096 := ((within_iff ..).mp hn).2
  have hlen : ((List.range (d.arg 143 128)).filter fun k => (recordAt s (d.arg 127 96 + k)).isSome).length ≤ d.arg 143 128 :=
    (List.length_filter_le _ _).trans (by simp)
  have he := cmdRecRead_eq (l := cmdLive 0x38 r d s) (s := cmdState 0x38 r d s) hn hl
  simp only [hat, List.filter_map, List.length_map, Function.comp_def, List.flatMap_map] at he
  obtain ⟨hend, -, hposted⟩ := read_ends h (by decide) hb hd (hlen.trans_lt (by omega)) he ⟨rfl, rfl⟩
  exact ⟨out_of_posted hposted, hend⟩

theorem countersRead_ends (h : Taken 0x32 r d s) (hb : d.bufOk = true) (hd : d.dmaOk = true)
    (hn : within 1 96 (d.arg 109 103) = true) (ha : d.arg 102 96 + d.arg 109 103 ≤ 96) (hl : 32 * d.arg 109 103 ≤ d.len) :
    Ended 0x32 r d 0 0 s (hostRow 0x32 r d s) ∧
      (hostRow 0x32 r d s).out.head? = some (.buffer d.addr ((List.range (d.arg 109 103)).flatMap fun k =>
        (countersOf s (d.arg 102 96 + k)).flatMap (leBytes 4) ++ leBytes 8 (d.arg 102 96 + k))) := by
  have he : cmdEffect (cmdLive 0x32 r d s) (cmdState 0x32 r d s) = bufferEnd (cmdLive 0x32 r d s)
      ((List.range (d.arg 109 103)).flatMap fun k => (countersOf (cmdState 0x32 r d s) (d.arg 102 96 + k)).flatMap (leBytes 4) ++
        leBytes 8 (d.arg 102 96 + k)) 0 (cmdState 0x32 r d s) :=
    if_neg (show ¬(!within 1 96 (d.arg 109 103) || decide (96 < d.arg 102 96 + d.arg 109 103) ||
      decide (d.len < 32 * d.arg 109 103)) = true by simp [hn, ha, hl])
  have hat (i : Nat) : countersOf (cmdState 0x32 r d s) i = countersOf s i := of_cmdState (countersOf · i) fun _ => rfl
  simp only [hat] at he
  obtain ⟨hend, -, hposted⟩ := read_ends h (by decide) hb hd (by decide) he ⟨rfl, rfl⟩
  exact ⟨hend, out_of_posted hposted⟩

theorem tagRead_ends (h : Taken 0x3D r d s) (hb : d.bufOk = true) (hd : d.dmaOk = true) (ht : tagOk d = true) :
    Ended 0x3D r d 0 0 s (hostRow 0x3D r d s) ∧
      (hostRow 0x3D r d s).out.head? = some (.buffer d.addr (slice (tagBytes s) (d.arg 106 96) d.len)) := by
  have he : cmdEffect (cmdLive 0x3D r d s) (cmdState 0x3D r d s) = bufferEnd (cmdLive 0x3D r d s)
      (slice (tagBytes (cmdState 0x3D r d s)) (d.arg 106 96) d.len) 0 (cmdState 0x3D r d s) :=
    if_neg (show ¬(!tagOk d) = true by rw [ht]; decide)
  rw [show tagBytes (cmdState 0x3D r d s) = tagBytes s from of_cmdState tagBytes fun _ => rfl] at he
  obtain ⟨hend, -, hposted⟩ := read_ends h (by decide) hb hd (by decide) he ⟨rfl, rfl⟩
  exact ⟨hend, out_of_posted hposted⟩

/-! ## STATE_READ (R307) -/

/-- The status of a program does not show whether its end has been told (R108). -/
theorem roPstat_told {n : Nat} (hp : t.prog n = { s.prog n with untold := false }) (hm : t.seq.margins = s.seq.margins) :
    roPstat t n = roPstat s n := by
  unfold roPstat progState
  rw [hp, hm]
  rfl

theorem stateWords_told (h : Told s t) (hf : t.clk.frame = s.clk.frame) (hh : t.jrn.head = s.jrn.head)
    (hl : t.hst.lock = s.hst.lock) : stateWords t = stateWords s := by
  obtain ⟨hoff, hprogs⟩ := h
  have hp : (List.range 64).map (roPstat t) = (List.range 64).map (roPstat s) := List.map_congr_left fun n hn =>
    roPstat_told (hprogs n (List.mem_range.mp hn)) (congrArg (fun u : State => u.seq.margins) hoff :)
  have hlock : roLock t = roLock s := by rw [roLock, hl, roLock]
  have hseq : roSeqStatus t = roSeqStatus s := (congrArg roSeqStatus hoff :)
  have hrail : roRstat t = roRstat s := (congrArg roRstat hoff :)
  have hfrail : roFrstat t = roFrstat s := (congrArg roFrstat hoff :)
  have hstg : roStgStat t = roStgStat s := (congrArg roStgStat hoff :)
  have hflt : roFltStatus t = roFltStatus s := (congrArg roFltStatus hoff :)
  have hdmp : roDmpStat t = roDmpStat s := (congrArg roDmpStat hoff :)
  have hcap : roDmpAcap t = roDmpAcap s := (congrArg roDmpAcap hoff :)
  have hinl : roInlStat t = roInlStat s := (congrArg roInlStat hoff :)
  simp only [stateWords, hf, hh, hp, hlock, hseq, hrail, hfrail, hstg, hflt, hdmp, hcap, hinl]

theorem stateRead_ends (h : Taken 0x33 r d s) (hb : d.bufOk = true) (hd : d.dmaOk = true) (hl : 1088 ≤ d.len) :
    Ended 0x33 r d 0 0 s (hostRow 0x33 r d s) ∧ (hostRow 0x33 r d s).out.head? = some (.buffer d.addr
      ((stateWords { hostRow 0x33 r d s with clk := { (hostRow 0x33 r d s).clk with frame := s.clk.frame + 1 } }).flatMap
        (leBytes 4))) := by
  have he : cmdEffect (cmdLive 0x33 r d s) (cmdState 0x33 r d s) = bufferEnd (cmdLive 0x33 r d s)
      ((stateWords (cmdState 0x33 r d s)).flatMap (leBytes 4)) 0 (cmdState 0x33 r d s) := if_neg (Nat.not_lt.mpr hl)
  obtain ⟨hend, htold, hposted⟩ := read_ends h (by decide) hb hd (by decide) he ⟨rfl, rfl⟩
  rw [stateWords_told (s := cmdState 0x33 r d s) (t := { hostRow 0x33 r d s with
    clk := { (hostRow 0x33 r d s).clk with frame := s.clk.frame + 1 } }) ⟨htold.1, htold.2⟩ frame_cmdState.symm
    (congrArg (fun p => p.2.1.head) hposted :) (congrArg (fun p => p.2.2) hposted :)]
  exact ⟨hend, out_of_posted hposted⟩

end

end Sys2Proof.Machine

/-! # The recorder, the tag and the pair (R350, R377, R378, R402, R406 to R408) -/

namespace Sys2Proof.Machine

section
variable {op r q : Nat} {d : Desc} {s t : State}

theorem recd_cmdState : (cmdState op r d s).recd = s.recd := (congrArg State.recd offTaking_cmdState :)

theorem fw_cmdState : (cmdState op r d s).fw = s.fw := (congrArg State.fw offTaking_cmdState :)

theorem undisturbed_of_eventsOnly {u v : State} (h : EventsOnly u v) : Undisturbed u v :=
  ⟨(congrArg State.entries h :), (congrArg (fun x : State => x.hst.live) h :)⟩

theorem Undisturbed.trans {u v w : State} (h : Undisturbed u v) (g : Undisturbed v w) : Undisturbed u w :=
  ⟨g.1.trans h.1, g.2.trans h.2⟩

/-- The recorder but for what events leave in it. -/
theorem EventsOnly.recd {u v : State} (h : EventsOnly u v) : v.recd = { u.recd with queue := v.recd.queue, ash := v.recd.ash } :=
  (congrArg (fun x : State => { x.recd with queue := v.recd.queue, ash := v.recd.ash }) h :)

theorem recd_of_told {v : State} (h : Told v t) : t.recd = v.recd := (congrArg State.recd h.1 :)

theorem evt_of_told {v : State} (h : Told v t) : t.evt = v.evt := (congrArg State.evt h.1 :)

theorem pending_of_told {v : State} {n : Nat} (h : Told v t) (hp : Pending n v) : Pending n t := by
  rw [Pending, evt_of_told h]
  exact hp

/-- A command without a buffer that ends with a status and changes nothing of the part. -/
theorem ended_unchanged {st : Nat} (h : Taken op r d s) (hop : op ≠ 0x81) (hu : usesBuf op = false) (hr : readsBuf op = false)
    (he : cmdEffect (cmdLive op r d s) (cmdState op r d s) = finish s.nextSeq st 0 (cmdState op r d s)) :
    Ended op r d st 0 s (hostRow op r d s) ∧ (hostRow op r d s).recd = s.recd := by
  obtain ⟨hend, htold⟩ := ended_unbuffered h hop hu hr (by decide) he ⟨rfl, rfl⟩
  exact ⟨hend, (recd_of_told htold).trans recd_cmdState⟩

/-! ## REC_FREEZE and its thaw (R402, R409) -/

theorem getLsbD_bit0 (b : Bool) (d : Desc) : (bit0 b d).args.getLsbD 0 = b := by
  cases b <;> simp [bit0]

theorem recFreeze_busy (h : Taken 0x39 r (bit0 true d) s) (hc : s.recd.clearing.isSome = true) :
    Ended 0x39 r d stBusy 0 s (hostRow 0x39 r (bit0 true d) s) ∧ (hostRow 0x39 r (bit0 true d) s).recd = s.recd :=
  ended_unchanged h (by decide) rfl rfl ((if_pos (getLsbD_bit0 true d)).trans
    (if_pos ((congrArg (fun x : Recd => x.clearing.isSome) recd_cmdState).trans hc)))

theorem recFreeze_already (h : Taken 0x39 r (bit0 true d) s) (hc : s.recd.clearing = none) (hf : s.recd.frozen = true) :
    Ended 0x39 r d stAlready 0 s (hostRow 0x39 r (bit0 true d) s) ∧ (hostRow 0x39 r (bit0 true d) s).recd = s.recd :=
  ended_unchanged h (by decide) rfl rfl ((if_pos (getLsbD_bit0 true d)).trans ((if_neg (by
    rw [recd_cmdState, hc]; decide)).trans (if_pos ((congrArg Recd.frozen recd_cmdState).trans hf))))

theorem undisturbed_freeze (s : State) : Undisturbed s (freeze s) := ⟨rfl, rfl⟩

/-- A freeze begins with the time configured and no summary yet (R402, R403). -/
def frozenRecd (n : Nat) (x : Recd) : Recd :=
  { x with frozen := true, frzLeft := 15625 * orDef n 1, summ := none, suppressed := 0, highest := 0 }

theorem recd_freeze (s : State) : (freeze s).recd = frozenRecd (s.cf 0xB800 19 8) s.recd := rfl

theorem recFreeze_freezes (h : Taken 0x39 r (bit0 true d) s) (hc : s.recd.clearing = none) (hf : s.recd.frozen = false) :
    Ended 0x39 r d 0 0 s (hostRow 0x39 r (bit0 true d) s) ∧
      (hostRow 0x39 r (bit0 true d) s).recd = frozenRecd (s.cf 0xB800 19 8) s.recd := by
  have he : cmdEffect (cmdLive 0x39 r (bit0 true d) s) (cmdState 0x39 r (bit0 true d) s) =
      finish s.nextSeq stOk 0 (freeze (cmdState 0x39 r (bit0 true d) s)) :=
    (if_pos (getLsbD_bit0 true d)).trans ((if_neg (by rw [recd_cmdState, hc]; decide)).trans
      (if_neg (ne_true_of_eq_false ((congrArg Recd.frozen recd_cmdState).trans hf))))
  obtain ⟨hend, htold⟩ := ended_unbuffered h (by decide) rfl rfl (by decide) he (undisturbed_freeze _)
  refine ⟨hend, (recd_of_told htold).trans ?_⟩
  rw [recd_freeze, recd_cmdState, of_cmdState (State.cf · 0xB800 19 8) fun _ => rfl]

/-- The state without the recorder's image buffer and the state of its words. -/
def State.offBuf (s : State) : State := { s with wc := {}, recd := { s.recd with buf := [] } }

theorem offBuf_wcWritten (st a : Nat) (s : State) : (wcWritten st a s).offBuf = s.offBuf := rfl

theorem offBuf_imgWritten (im : Img) (s : State) : (imgWritten im s).offBuf = s.offBuf :=
  each_keep State.offBuf (fun _ _ => offBuf_wcWritten ..) (List.range 8) s

theorem offBuf_bufSet (im : Img) (s : State) : (bufSet im s).offBuf = s.offBuf :=
  kept_ite State.offBuf ((offBuf_imgWritten ..).trans rfl)

theorem pending_raiseSev {src : Nat} (h : src < 256) (sev : Nat) (ts : Ts) (e : BitVec 128) (s : State) :
    Pending src (raiseSev src sev ts e s) := by
  unfold Pending raiseSev ashEvent
  split
  · rw [pend_raiseCore, pend_or _ h, pend_raiseCore, pend_or _ h]
    simp
  · rw [pend_raiseCore, pend_or _ h]
    simp

/-- The recorder no longer frozen. -/
def unfrozen (s : State) : State := { s with recd := { s.recd with frozen := false, frzLeft := 0 } }

/-- The summary of the freeze is completed in the buffer and urgent with a severity of 3 (R404). -/
def summed (x : Summ) (s : State) : State :=
  bufSet (summImage x s) { s with recd := { s.recd with
    summ := none, flush := s.recd.flush || x.sev = 3, urgent := s.recd.urgent || x.sev = 3 } }

theorem thaw_none (hf : s.recd.frozen = true) (hs : s.recd.summ = none) : thaw s = unfrozen s := by
  unfold thaw
  rw [if_neg (by simp [hf])]
  extract_lets r u
  have hu : u.recd.summ = none := hs
  simp only [hu]
  rfl

theorem thaw_some {x : Summ} (hf : s.recd.frozen = true) (hs : s.recd.summ = some x) :
    ∃ ts e, thaw s = raiseSev 0xCB x.sev ts e (summed x (unfrozen s)) := by
  unfold thaw
  rw [if_neg (by simp [hf])]
  extract_lets r u
  have hu : u.recd.summ = some x := hs
  simp only [hu]
  exact ⟨_, _, rfl⟩

/-- A thaw ends the freeze and tells what was suppressed in it (R402, R409). -/
theorem thaw_spec (hf : s.recd.frozen = true) : Undisturbed s (thaw s) ∧ (thaw s).recd.frozen = false ∧
    (thaw s).recd.summ = none ∧ (s.recd.summ.isSome = true → Pending 0xCB (thaw s)) := by
  cases hs : s.recd.summ with
  | none =>
    rw [thaw_none hf hs]
    exact ⟨⟨rfl, rfl⟩, rfl, hs, fun h => absurd h (by decide)⟩
  | some x =>
    obtain ⟨ts, e, heq⟩ := thaw_some hf hs
    have hoff := offBuf_bufSet (summImage x (unfrozen s)) { unfrozen s with recd := { (unfrozen s).recd with
      summ := none, flush := s.recd.flush || x.sev = 3, urgent := s.recd.urgent || x.sev = 3 } }
    have hev := eventsOnly_raiseSev 0xCB x.sev ts e (summed x (unfrozen s))
    rw [heq, hev.recd]
    have hv : Undisturbed s (summed x (unfrozen s)) :=
      ⟨(congrArg State.entries hoff :), (congrArg (fun y : State => y.hst.live) hoff :)⟩
    exact ⟨hv.trans (undisturbed_of_eventsOnly hev), (congrArg (fun y : State => y.recd.frozen) hoff :),
      (congrArg (fun y : State => y.recd.summ) hoff :), fun _ => pending_raiseSev (by decide) ..⟩

theorem recThaw_thaws (h : Taken 0x39 r (bit0 false d) s) (hf : s.recd.frozen = true) :
    Ended 0x39 r d 0 0 s (hostRow 0x39 r (bit0 false d) s) ∧ (hostRow 0x39 r (bit0 false d) s).recd.frozen = false ∧
      (hostRow 0x39 r (bit0 false d) s).recd.summ = none ∧
      (s.recd.summ.isSome = true → Pending 0xCB (hostRow 0x39 r (bit0 false d) s)) := by
  have hf' : (cmdState 0x39 r (bit0 false d) s).recd.frozen = true := (congrArg Recd.frozen recd_cmdState).trans hf
  have he : cmdEffect (cmdLive 0x39 r (bit0 false d) s) (cmdState 0x39 r (bit0 false d) s) =
      finish s.nextSeq stOk 0 (thaw (cmdState 0x39 r (bit0 false d) s)) :=
    (if_neg (ne_true_of_eq_false (getLsbD_bit0 false d))).trans (if_pos hf')
  obtain ⟨hv, hfrozen, hsumm, hpend⟩ := thaw_spec hf'
  obtain ⟨hend, htold⟩ := ended_unbuffered h (by decide) rfl rfl (by decide) he hv
  rw [recd_cmdState] at hpend
  rw [recd_of_told htold]
  exact ⟨hend, hfrozen, hsumm, fun hs => pending_of_told htold (hpend hs)⟩

theorem recThaw_notRunning (h : Taken 0x39 r (bit0 false d) s) (hf : s.recd.frozen = false) :
    Ended 0x39 r d stNotRunning 0 s (hostRow 0x39 r (bit0 false d) s) ∧ (hostRow 0x39 r (bit0 false d) s).recd = s.recd :=
  ended_unchanged h (by decide) rfl rfl ((if_neg (ne_true_of_eq_false (getLsbD_bit0 false d))).trans
    (if_neg (ne_true_of_eq_false ((congrArg Recd.frozen recd_cmdState).trans hf))))

/-! ## REC_CHALLENGE and REC_CLEAR (R406 to R408) -/

/-- A nonce is drawn for the next record (R406). -/
def challenged (s : State) : State :=
  { s with fw := { s.fw with draws := s.fw.draws + 1 }
           recd := { s.recd with nonce := some (Config.random 64 s.fw.draws, s.recd.next, 2 ^ 20) } }

theorem recChallenge_answers (h : Taken 0x3A r d s) (hl : s.recd.locked = false) :
    Ended 0x3A r d 0 (Config.random 64 s.fw.draws).toNat s (hostRow 0x3A r d s) ∧
      (hostRow 0x3A r d s).recd.nonce = some (Config.random 64 s.fw.draws, s.recd.next, 2 ^ 20) ∧
      (hostRow 0x3A r d s).fw.draws = s.fw.draws + 1 := by
  have he : cmdEffect (cmdLive 0x3A r d s) (cmdState 0x3A r d s) = finish s.nextSeq stOk
      (Config.random 64 (cmdState 0x3A r d s).fw.draws).toNat (challenged (cmdState 0x3A r d s)) :=
    if_neg (ne_true_of_eq_false ((congrArg Recd.locked recd_cmdState).trans hl))
  obtain ⟨hend, htold⟩ := ended_unbuffered h (by decide) rfl rfl (BitVec.isLt _) he ⟨rfl, rfl⟩
  have hnonce : (hostRow 0x3A r d s).recd.nonce = some (Config.random 64 (cmdState 0x3A r d s).fw.draws,
      (cmdState 0x3A r d s).recd.next, 2 ^ 20) := (congrArg (fun u : State => u.recd.nonce) htold.1 :)
  have hdraws : (hostRow 0x3A r d s).fw.draws = (cmdState 0x3A r d s).fw.draws + 1 :=
    (congrArg (fun u : State => u.fw.draws) htold.1 :)
  rw [fw_cmdState] at hend hnonce hdraws
  rw [recd_cmdState] at hnonce
  exact ⟨hend, hnonce, hdraws⟩

theorem recChallenge_refused (h : Taken 0x3A r d s) (hl : s.recd.locked = true) :
    Ended 0x3A r d stRefused 0 s (hostRow 0x3A r d s) ∧ (hostRow 0x3A r d s).recd = s.recd :=
  ended_unchanged h (by decide) rfl rfl (if_pos ((congrArg Recd.locked recd_cmdState).trans hl))

theorem recClear_busy (h : Taken 0x3B r d s) (hb : s.recd.frozen = true ∨ s.recd.clearing.isSome = true) :
    Ended 0x3B r d stBusy 0 s (hostRow 0x3B r d s) ∧ (hostRow 0x3B r d s).recd = s.recd :=
  ended_unchanged h (by decide) rfl rfl (if_pos (by rw [recd_cmdState]; simpa using hb))

end

end Sys2Proof.Machine

/-! # REC_CLEAR (R406 to R408) -/

namespace Sys2Proof.Machine

section
variable {op r : Nat} {d : Desc} {l : Live} {s t : State}

/-- A REC_CLEAR that is not allowed uses up the nonce and is counted; the eighth locks the recorder (R407). -/
def clearDenied (x : Recd) : Recd :=
  { x with nonce := none, fails := sat 15 (x.fails + 1), locked := x.locked || 8 ≤ x.fails + 1 }

/-- A REC_CLEAR that is allowed uses up the nonce and takes the next RNUM for its record (R408). -/
def clearBegun (q : Nat) (im : Img) (x : Recd) : Recd :=
  { x with nonce := none, fails := 0, next := x.next + 1, clearing := some (q, im) }

/-- The record of a clear is made and takes its RNUM (R408). -/
def clearTaken (q : Nat) (s : State) : State := { s with recd := clearBegun q (clearImage q s) s.recd }

/-- What REC_CLEAR asks of the recorder and the flash before it looks at its MAC (R407). -/
structure ClearReady (s : State) : Prop where
  running : s.recd.frozen = false
  idle : s.recd.clearing = none
  writable : s.nv.nvwp = false
  room : s.recd.clears.length < 64

theorem ClearReady.cmdState (h : ClearReady s) : ClearReady (cmdState op r d s) where
  running := (congrArg Recd.frozen recd_cmdState).trans h.running
  idle := (congrArg Recd.clearing recd_cmdState).trans h.idle
  writable := (congrArg Nv.nvwp (nv_cmdState op)).trans h.writable
  room := by rw [recd_cmdState]; exact h.room

theorem clearAllowed_cmdState : clearAllowed (cmdState op r d s) d = clearAllowed s d :=
  of_cmdState (clearAllowed · d) fun _ => rfl

theorem cmdRecClear_denied (h : ClearReady s) (ha : clearAllowed s l.d = false) : ∃ ts e, cmdRecClear l s =
    finish l.seq stAuth 0 (raise 0xCD ts e { s with recd := clearDenied s.recd }) := by
  unfold cmdRecClear
  rw [if_neg (by simp [h.running, h.idle]), if_neg (by simp [h.writable]), if_neg (Nat.not_le.mpr h.room), if_pos (by simp [ha])]
  exact ⟨_, _, rfl⟩

theorem cmdRecClear_allowed (h : ClearReady s) (ha : clearAllowed s l.d = true) : cmdRecClear l s =
    nvWrite (.clear (clearImage l.seq s)) 0 0 (park l.seq (.store l.seq) (clearTaken l.seq s)) := by
  unfold cmdRecClear
  rw [if_neg (by simp [h.running, h.idle]), if_neg (by simp [h.writable]), if_neg (Nat.not_le.mpr h.room), if_neg (by simp [ha])]
  rfl

theorem recClear_denied (h : Taken 0x3B r d s) (hr : ClearReady s) (ha : clearAllowed s d = false) :
    Ended 0x3B r d stAuth 0 s (hostRow 0x3B r d s) ∧ Pending 0xCD (hostRow 0x3B r d s) ∧
      ∃ x y, (hostRow 0x3B r d s).recd = { clearDenied s.recd with queue := x, ash := y } := by
  obtain ⟨ts, e, he⟩ := cmdRecClear_denied (l := cmdLive 0x3B r d s) hr.cmdState (clearAllowed_cmdState.trans ha)
  have hev := eventsOnly_raise 0xCD ts e
    { cmdState 0x3B r d s with recd := clearDenied (cmdState 0x3B r d s).recd }
  have hv : Undisturbed (cmdState 0x3B r d s) { cmdState 0x3B r d s with recd := clearDenied (cmdState 0x3B r d s).recd } := ⟨rfl, rfl⟩
  obtain ⟨hend, htold⟩ := ended_unbuffered h (by decide) rfl rfl (by decide) he (hv.trans (undisturbed_of_eventsOnly hev))
  have hrecd := (recd_of_told htold).trans hev.recd
  rw [recd_cmdState] at hrecd
  exact ⟨hend, pending_of_told htold (pending_raise _ _ _ _ _ (by decide) (.inl rfl)), _, _, hrecd⟩

/-- A write asked for leaves what the host has asked for and the journal. -/
theorem livesOf_nvWrite (u : JobUse) (q n : Nat) (s : State) (m : Nat) : (nvWrite u q n s).livesOf m = s.livesOf m :=
  (congrArg (State.livesOf m) (offFlash_nvWrite u q n s) :)

theorem entries_nvWrite (u : JobUse) (q n : Nat) (s : State) : (nvWrite u q n s).entries = s.entries :=
  (congrArg State.entries (offFlash_nvWrite u q n s) :)

theorem recClear_waits (h : Taken 0x3B r d s) (hr : ClearReady s) (ha : clearAllowed s d = true) :
    Waiting 0x3B r d (.store s.nextSeq) s (hostRow 0x3B r d s) ∧ (hostRow 0x3B r d s).recd =
      clearBegun s.nextSeq (clearImage s.nextSeq (cmdState 0x3B r d s)) s.recd := by
  have he := cmdRecClear_allowed (l := cmdLive 0x3B r d s) (hr.cmdState (op := 0x3B) (r := r) (d := d))
    (clearAllowed_cmdState.trans ha)
  have hlive : (clearTaken s.nextSeq (cmdState 0x3B r d s)).livesOf s.nextSeq = _ := livesOf_cmdState_of_taken h
  obtain ⟨hwait, htold⟩ := waiting_unbuffered h (by decide) rfl rfl he (entries_nvWrite ..)
    ((livesOf_nvWrite ..).trans (livesOf_park hlive _)) (fun n hn => by cases hn)
  have hrecd := (recd_of_told htold).trans (congrArg State.recd (offFlash_nvWrite ..) :)
  refine ⟨hwait, hrecd.trans ?_⟩
  exact congrArg (clearBegun _ _) recd_cmdState

end

end Sys2Proof.Machine

/-! # TAG_WRITE (R377, R378) -/

namespace Sys2Proof.Machine

section
variable {op r q n : Nat} {u : JobUse} {d : Desc} {l : Live} {s t : State}

/-- The work on the flash begins with a write that may be worked on, or leaves the queue alone (R361). -/
theorem jobs_nvBegin (s : State) : (nvBegin s).nv.jobs = s.nv.jobs ∨
    ∃ k l a, pickJob s s.nv.jobs = some (k, l) ∧ (nvBegin s).nv.jobs = { k with begun := true, at_ := a } :: l := by
  unfold nvBegin
  split
  · exact .inl rfl
  next k l hp =>
    split
    · exact .inl rfl
    split
    · exact .inr ⟨k, l, _, hp, rfl⟩
    · dsimp only
      split
      · rw [eraseAsk]
        split <;> exact .inl rfl
      · exact .inr ⟨k, l, _, hp, rfl⟩

/-- A write asked for stands in the queue with its command. -/
theorem job_nvWrite (u : JobUse) (q n : Nat) (s : State) : ∃ j ∈ (nvWrite u q n s).nv.jobs, j.seq = q ∧ j.use = u := by
  unfold nvWrite
  extract_lets j
  generalize hv : State.mk .. = v
  have hj : j ∈ v.nv.jobs := hv ▸ List.mem_append_right _ (List.mem_singleton_self _)
  obtain h | ⟨k, l, a, hp, h⟩ := jobs_nvBegin v <;> rw [h]
  · exact ⟨j, hj, rfl, rfl⟩
  · obtain rfl | hl := mem_of_pickJob hp hj
    · exact ⟨_, List.mem_cons_self .., rfl, rfl⟩
    · exact ⟨j, List.mem_cons_of_mem _ hl, rfl, rfl⟩

/-- The tag as a TAG_WRITE leaves it. -/
def tagWritten (d : Desc) (s : State) : List Byte :=
  (tagBytes s).take (d.arg 106 96) ++ d.buf.take d.len ++ (tagBytes s).drop (d.arg 106 96 + d.len)

theorem cmdTagWrite_ok (hn : s.nv.nvwp = false) (ht : tagOk l.d = true) : cmdTagWrite l s =
    nvWrite (.tag (tagWritten l.d s)) l.seq 0 (park l.seq (.store l.seq) s) := by
  unfold cmdTagWrite
  exact (if_neg (by simp [hn])).trans (if_neg (by simp [ht]))

theorem tagWritten_cmdState : tagWritten d (cmdState op r d s) = tagWritten d s := of_cmdState (tagWritten d) fun _ => rfl

theorem nv_of_told {v : State} (h : Told v t) : t.nv = v.nv := (congrArg State.nv h.1 :)

theorem tagWrite_waits (h : Taken 0x3C r d s) (hb : d.bufOk = true) (hd : d.dmaOk = true) (hn : s.nv.nvwp = false)
    (ht : tagOk d = true) : Waiting 0x3C r d (.store s.nextSeq) s (hostRow 0x3C r d s) ∧
      (hostRow 0x3C r d s).nv.tag = s.nv.tag ∧
      ∃ j ∈ (hostRow 0x3C r d s).nv.jobs, j.seq = s.nextSeq ∧ j.use = .tag (tagWritten d s) := by
  have he : cmdEffect (cmdLive 0x3C r d s) (cmdState 0x3C r d s) = nvWrite (.tag (tagWritten d (cmdState 0x3C r d s))) s.nextSeq 0
      (park s.nextSeq (.store s.nextSeq) (cmdState 0x3C r d s)) :=
    cmdTagWrite_ok ((congrArg Nv.nvwp (nv_cmdState _)).trans hn) ht
  rw [tagWritten_cmdState] at he
  obtain ⟨hwait, htold⟩ := waiting_of_parked h (by decide) (fun _ => hb) (fun _ => hd) he (entries_nvWrite ..)
    ((livesOf_nvWrite ..).trans (livesOf_park (livesOf_cmdState_of_taken h) _)) (fun n hn => by cases hn)
  have htag : (hostRow 0x3C r d s).nv.tag = (cmdState 0x3C r d s).nv.tag :=
    (congrArg Nv.tag (nv_of_told htold)).trans (congrArg (fun v : State => v.nv.tag) (offJobs_nvWrite ..) :)
  refine ⟨hwait, htag.trans (congrArg Nv.tag (nv_cmdState _)), ?_⟩
  rw [nv_of_told htold]
  exact job_nvWrite ..

theorem tagWrite_protected (h : Taken 0x3C r d s) (hb : d.bufOk = true) (hd : d.dmaOk = true) (hn : s.nv.nvwp = true) :
    Ended 0x3C r d stNvwp 0 s (hostRow 0x3C r d s) ∧ Pending 0xC5 (hostRow 0x3C r d s) ∧
      (hostRow 0x3C r d s).nv.tag = s.nv.tag ∧ (hostRow 0x3C r d s).nv.jobs = s.nv.jobs := by
  have he : cmdEffect (cmdLive 0x3C r d s) (cmdState 0x3C r d s) = finish s.nextSeq stNvwp 0 (nvwpRefuse s.nextSeq 0x3C (cmdState 0x3C r d s)) :=
    if_pos ((congrArg Nv.nvwp (nv_cmdState _)).trans hn)
  have hev : EventsOnly (cmdState 0x3C r d s) (nvwpRefuse s.nextSeq 0x3C (cmdState 0x3C r d s)) := eventsOnly_raise ..
  obtain ⟨hend, htold⟩ := ended_of_effect h (by decide) (fun _ => hb) (fun _ => hd) (by decide) he (undisturbed_of_eventsOnly hev)
  have hnv := (nv_of_told htold).trans hev.nv
  rw [nv_cmdState] at hnv
  refine ⟨hend, pending_of_told htold (pending_raise _ _ _ _ _ (by decide) (.inl rfl)), ?_, ?_⟩ <;> rw [hnv]

end

end Sys2Proof.Machine

/-! # PAIR_HANDOVER (R350) -/

namespace Sys2Proof.Machine

section
variable {op r q : Nat} {d : Desc} {l : Live} {s t : State}

/-- The pair but for the entries it has not yet had acknowledged. -/
theorem pair_cmdState : { (cmdState op r d s).pair with unacked := [] } = { s.pair with unacked := [] } :=
  (congrArg State.pair offTaking_cmdState :)

/-- The part is not the active one of a pair, or its partner is not there. -/
abbrev Alone (s : State) : Prop := s.pair.role ≠ 1 ∨ s.pair.up = false

theorem not_active_of_alone (h : Alone s) : (s.pair.role = 1 && s.pair.up) = false := by
  rcases h with h | h <;> simp [h]

/-- Only the active part of a pair mirrors its entries (R349). -/
theorem pair_jAppend_of_alone (e : JEntry) (h : Alone s) : (jAppend e s).pair = s.pair := by
  unfold jAppend pairJournal
  dsimp only
  rw [if_neg]
  · rfl
  · exact ne_true_of_eq_false (not_active_of_alone h)

theorem pair_cmdState_of_alone (h : Alone s) : (cmdState op r d s).pair = s.pair :=
  pair_jAppend_of_alone (s := s.modRing (8 + r) fun x => { x with resv := x.resv + needs d }) _ h

/-- Q of a handover is chosen for a command (R350). -/
def handoverAsked (q : Nat) (s : State) : State :=
  { s with pair := { s.pair with toQ := some (32 * cdiv (s.now + 2) 32), hoSeq := some q } }

theorem cmdHandover_asks (hr : s.pair.role = 1) (hu : s.pair.up = true) (hq : s.pair.toQ = none) (ht : s.pair.toT = none) :
    cmdHandover l s = park l.seq .handover (handoverAsked l.seq s) := by
  unfold cmdHandover
  exact (if_neg (by simp [hr, hu])).trans (if_neg (by simp [hq, ht]))

theorem pairHandover_waits (h : Taken 0x40 r d s) (hr : s.pair.role = 1) (hu : s.pair.up = true) (hq : s.pair.toQ = none)
    (ht : s.pair.toT = none) : Waiting 0x40 r d .handover s (hostRow 0x40 r d s) ∧
      (hostRow 0x40 r d s).pair.toQ = some (32 * cdiv ((s.clk.frame + 1).toNat + 2) 32) ∧
      (hostRow 0x40 r d s).pair.hoSeq = some s.nextSeq := by
  have hpair := pair_cmdState (op := 0x40) (r := r) (d := d) (s := s)
  have he : cmdEffect (cmdLive 0x40 r d s) (cmdState 0x40 r d s) =
      park s.nextSeq .handover (handoverAsked s.nextSeq (cmdState 0x40 r d s)) :=
    cmdHandover_asks ((congrArg Pair.role hpair :).trans hr) ((congrArg Pair.up hpair :).trans hu)
      ((congrArg Pair.toQ hpair :).trans hq) ((congrArg Pair.toT hpair :).trans ht)
  obtain ⟨hwait, htold⟩ := waiting_of_effect h (by decide) (fun hb => by cases hb) (fun hb => by cases hb)
    (fun _ hn => by cases hn) he ⟨rfl, rfl⟩
  have hq : (hostRow 0x40 r d s).pair.toQ = some (32 * cdiv ((cmdState 0x40 r d s).clk.frame.toNat + 2) 32) :=
    (congrArg (fun v : State => v.pair.toQ) htold.1 :)
  rw [frame_cmdState] at hq
  exact ⟨hwait, hq, (congrArg (fun v : State => v.pair.hoSeq) htold.1 :)⟩

theorem pairHandover_refused (h : Taken 0x40 r d s) (hp : Alone s) :
    Ended 0x40 r d stRefused 0 s (hostRow 0x40 r d s) ∧ (hostRow 0x40 r d s).pair = s.pair := by
  have hpair : (cmdState 0x40 r d s).pair = s.pair := pair_cmdState_of_alone hp
  have he : cmdEffect (cmdLive 0x40 r d s) (cmdState 0x40 r d s) = finish s.nextSeq stRefused 0 (cmdState 0x40 r d s) :=
    if_pos (by rw [hpair, not_active_of_alone hp]; decide)
  obtain ⟨hend, htold⟩ := ended_unbuffered h (by decide) rfl rfl (by decide) he ⟨rfl, rfl⟩
  exact ⟨hend, (congrArg State.pair htold.1 :).trans hpair⟩

end

end Sys2Proof.Machine

section
open Sys2Proof Sys2Proof.Machine

/-- Settles O38: each read writes its bytes as they stand when it takes effect and ends behind them; each command on the
recorder, the tag and the pair has the effect of its case. -/
theorem readAndStoreCommands : Obligations.ReadAndStoreCommands := by
  refine ⟨?journal, ?alog, ?counters, ?state, ?records, ?tag, ?freezeBusy, ?freeze, ?thaw, ?challenge, ?clear, ?clearBusy,
    ?tagWrite, ?tagProtected, ?handover, ?refused⟩
  case journal => exact fun r d s h hb hn hl => ⟨_, rfl, journalRead_ends h hb hn hl⟩
  case alog => exact fun r d s h hb hd hn hl => ⟨_, rfl, alogRead_ends h hb hd hn hl⟩
  case counters => exact fun r d s h hb hd hn ha hl => ⟨_, rfl, countersRead_ends h hb hd hn ha hl⟩
  case state => exact fun r d s h hb hd hl => ⟨_, rfl, stateRead_ends h hb hd hl⟩
  case records => exact fun r d s h hb hd hn hl => ⟨_, rfl, recRead_ends h hb hd hn hl⟩
  case tag => exact fun r d s h hb hd ht => ⟨_, rfl, tagRead_ends h hb hd ht⟩
  case freezeBusy => exact fun r d s h hc => ⟨_, rfl, recFreeze_busy h hc⟩
  case freeze =>
    intro r d s h hc
    refine ⟨_, rfl, fun hf => ?_, recFreeze_already h hc⟩
    obtain ⟨hend, hrecd⟩ := recFreeze_freezes h hc hf
    rw [hrecd]
    exact ⟨hend, rfl, rfl, rfl, rfl, rfl⟩
  case thaw => exact fun r d s h => ⟨_, rfl, recThaw_thaws h, recThaw_notRunning h⟩
  case challenge => exact fun r d s h => ⟨_, rfl, recChallenge_answers h, recChallenge_refused h⟩
  case clear =>
    intro r d s h hf hc hn hl
    have hready : ClearReady s := ⟨hf, hc, hn, hl⟩
    cases ha : clearAllowed s d with
    | true =>
      obtain ⟨hwait, hrecd⟩ := recClear_waits h hready ha
      refine ⟨_, rfl, ?_⟩
      beta_reduce
      rw [hrecd]
      exact ⟨rfl, fun _ => ⟨hwait, rfl, rfl, _, rfl, rfl, congrArg Recd.next recd_cmdState, rfl⟩, fun h => absurd h (by decide)⟩
    | false =>
      obtain ⟨hend, hpend, x, y, hrecd⟩ := recClear_denied h hready ha
      refine ⟨_, rfl, ?_⟩
      beta_reduce
      rw [hrecd]
      exact ⟨rfl, fun h => absurd h (by decide), fun _ => ⟨hend, rfl, hpend, fun h8 => by simp [clearDenied, h8]⟩⟩
  case clearBusy => exact fun r d s h hb => ⟨_, rfl, recClear_busy h hb⟩
  case tagWrite => exact fun r d s h hb hd hn ht => ⟨_, rfl, tagWrite_waits h hb hd hn ht⟩
  case tagProtected => exact fun r d s h hb hd hn => ⟨_, rfl, tagWrite_protected h hb hd hn⟩
  case handover => exact fun r d s h hr hu hq ht => ⟨_, rfl, pairHandover_waits h hr hu hq ht⟩
  case refused => exact fun r d s h hp => ⟨_, rfl, pairHandover_refused h hp⟩

end

/-! # Input loss and its off run (R191 to R194, R203) -/

namespace Sys2Proof.Machine

section
variable {s : State}

/-! ## The off run of an input loss (R194, R199) -/

/-- The run that a full off request begins is full and has the request's source (R114, R117). -/
theorem off_offRequest_full (src groups : Nat) (h : s.off.run = false) :
    (offRequest src true groups s).off.run = true ∧ (offRequest src true groups s).off.full = true ∧
      (offRequest src true groups s).off.src = src := by
  obtain ⟨u, -, hrun, hfull, hsrc, -, heq⟩ := offRequest_begins src groups true h
  rw [heq, if_pos rfl, (fullRunActs_parts u).1]
  exact ⟨hrun, hfull, hsrc⟩

/-- With the input lost: the event is raised, and the input is shed (R194). -/
def shedTold (s : State) : State :=
  let u := raise 0x4A s.tsB (detNow s 0) s
  { u with inl := { u.inl with shed := true } }

theorem inputLossOff_begins (h : s.seq.domain ≠ .off) :
    inputLossOff s = offRelay true 0 false (offRequest 2 true 0 (shedTold s)) :=
  if_neg (by simp [h])

/-- What input loss does where no run is in progress and something is on: the full run of source 2, with its event. -/
theorem inputLossOff_spec (h : s.seq.domain ≠ .off) (hr : s.off.run = false) :
    (inputLossOff s).off.run = true ∧ (inputLossOff s).off.full = true ∧ (inputLossOff s).off.src = 2 ∧
      (inputLossOff s).inl = { s.inl with shed := true } ∧ Pending 0x4A (inputLossOff s) := by
  have hev : EventsOnly s (raise 0x4A s.tsB (detNow s 0) s) := eventsOnly_raise ..
  have hrun : (shedTold s).off.run = false := (congrArg Off.run hev.off).trans hr
  have hinl : (shedTold s).inl = { s.inl with shed := true } := congrArg (fun l : Inl => { l with shed := true }) hev.inl
  have hpend : Pending 0x4A (shedTold s) := pending_raise _ _ _ s 0x4A (by decide) (.inl rfl)
  have hoff : (inputLossOff s).off = (offRequest 2 true 0 (shedTold s)).off := by
    rw [inputLossOff_begins h]
    exact (congrArg State.off (offRelay_sca true 0 (offRequest 2 true 0 (shedTold s))) :)
  have hkeep : (inputLossOff s).keepReact = (shedTold s).keepReact := by
    rw [inputLossOff_begins h, keepReact_offRelay, keepReact_offRequest]
  obtain ⟨h1, h2, h3⟩ := off_offRequest_full 2 0 hrun
  refine ⟨?_, ?_, ?_, (keepReact_inl_of hkeep).trans hinl, ?_⟩
  · rw [hoff, h1]
  · rw [hoff, h2]
  · rw [hoff, h3]
  · rw [Pending, keepReact_evt_of hkeep]
    exact hpend

/-! ## The two requests (R192, R193) -/

/-- The shed comparator has tripped, and is remembered (R193). -/
def comparatorTripped (s : State) : State := { s with inl := { s.inl with trip := true, tripped := true, run := 2 } }

theorem shedTrip_requests (h : (s.inl.loss && s.inl.ready) = false) : shedTrip (comparatorTripped s) =
    inputLossOff { s with inl := { s.inl with trip := false, tripped := true, run := 2 } } := by
  unfold shedTrip comparatorTripped
  dsimp only
  rw [if_neg (by decide), if_neg (by simp [h])]

theorem battOff_requests (h : s.inl.loss = true) : battOff { s with inl := { s.inl with ready := false, owed := s.inl.loss } } =
    inputLossOff { s with inl := { s.inl with ready := false, owed := false } } := by
  unfold battOff
  dsimp only
  rw [if_pos h, if_pos h]

/-! ## Loss declared and over (R191) -/

/-- The input is lost, by the rectifiers or by the bus (R191). -/
def inputLost (rects : Bool) (s : State) : State := { s with
  inl := { s.inl with loss := true, fromRects := rects, lowRun := 0, restRun := 0, found := false } }

theorem declareLoss_eq (h : s.inl.loss = false) (rects : Bool) :
    declareLoss rects s = raise 0x49 s.tsB (detNow s 0) (inputLost rects s) :=
  if_neg (by simp [h])

/-- The input is back: nothing of its loss is remembered (R191). -/
def inputBack (s : State) : State := { s with
  inl := { s.inl with loss := false, fromRects := false, found := false, restRun := 0, shed := false, owed := false } }

/-- Without a shed the restored input is told and makes no request (R191). -/
theorem restoreInput_eq (h : s.inl.loss = true) (hs : s.inl.shed = false) :
    restoreInput s = inputBack (raise 0x4B s.tsB (detNow s 0) s) := by
  have hshed : (raise 0x4B s.tsB (detNow s 0) s).inl.shed = false := (congrArg Inl.shed (eventsOnly_raise ..).inl).trans hs
  unfold restoreInput
  rw [if_neg (by simp [h])]
  dsimp only
  rw [hshed, if_neg (by simp)]
  rfl

theorem inputBack_congr {t : State} (h : EventsOnly s t) : EventsOnly (inputBack s) (inputBack t) := congrArg inputBack h

/-! ## The battery shelf is polled (R192) -/

/-- The read of the shelf's status and runtime. -/
def shelfJob (s : State) : PmbJob :=
  { use := .battery, addr := fld (s.cw 0x6440) 8 2, pec := bit (s.cw 0x6440) 25
    ops := pageOp (fld (s.cw 0x6440) 16 9) ++ [.readByte (fld (s.cw 0x6440) 24 17), .readWord (s.cf 0x6444 23 16)] }

theorem pmb_pmbPush (m : Nat) (j : PmbJob) (s : State) : tget [] (pmbPush m j s).pmb m = tget [] s.pmb m ++ [j] :=
  tget_tmod_same [] s.pmb m (· ++ [j])

theorem battPoll_due (h : bit (s.cw 0x6440) 26 = true) (hn : s.inl.next = 0) : battPoll s =
    pmbPush (fld (s.cw 0x6440) 1 0) (shelfJob s) { s with inl := { s.inl with next := orDef (fld (s.cw 0x6440) 31 27) 1 } } := by
  unfold battPoll
  rw [if_pos (by simp [h, hn])]
  rfl

theorem battPoll_spec (h : bit (s.cw 0x6440) 26 = true) (hn : s.inl.next = 0) :
    tget [] (battPoll s).pmb (fld (s.cw 0x6440) 1 0) = tget [] s.pmb (fld (s.cw 0x6440) 1 0) ++ [shelfJob s] ∧
      (battPoll s).inl.next = orDef (fld (s.cw 0x6440) 31 27) 1 ∧
      battPoll s = { s with pmb := (battPoll s).pmb, inl := { s.inl with next := (battPoll s).inl.next } } := by
  rw [battPoll_due h hn]
  exact ⟨pmb_pmbPush .., rfl, rfl⟩

end

end Sys2Proof.Machine

section
open Sys2Proof Sys2Proof.Machine

/-- Settles O18: either request is `inputLossOff`, which finds something on and no run in progress (`inputLossOff_spec`); loss
declared and over is the input's own state and its event. -/
theorem inputLoss : Obligations.InputLoss := by
  refine ⟨fun s h => ?_, fun s h hs => ?_, fun s h hd hr => ?_, fun s h hd hr => ?_, fun s h => ?_⟩
  · refine ⟨_, congrArg Next (declareLoss_eq h _), ?_⟩
    have hev : EventsOnly (inputLost (!s.busUsed) s) (raise 0x49 s.tsB (detNow s 0) (inputLost (!s.busUsed) s)) :=
      eventsOnly_raise ..
    refine ⟨congrArg Inl.loss hev.inl, congrArg Inl.fromRects hev.inl, pending_raise _ _ _ _ 0x49 (by decide) (.inl rfl), ?_⟩
    rw [hev.inl]
    exact hev
  · refine ⟨_, congrArg Next (restoreInput_eq h hs), rfl, rfl, pending_raise _ _ _ s 0x4B (by decide) (.inl rfl), ?_⟩
    have hinl := (eventsOnly_raise 0x4B s.tsB (detNow s 0) s).inl
    have hev : EventsOnly (inputBack s) (inputBack (raise 0x4B s.tsB (detNow s 0) s)) := inputBack_congr (eventsOnly_raise ..)
    rw [hev.inl]
    exact hev
  · obtain ⟨hrun, hfull, hsrc, hinl, hpend⟩ :=
      inputLossOff_spec (s := { s with inl := { s.inl with trip := false, tripped := true, run := 2 } }) hd hr
    exact ⟨_, congrArg Next (shedTrip_requests h), hrun, hfull, hsrc, congrArg Inl.shed hinl, hpend⟩
  · obtain ⟨hrun, hfull, hsrc, hinl, hpend⟩ :=
      inputLossOff_spec (s := { s with inl := { s.inl with ready := false, owed := false } }) hd hr
    exact ⟨_, congrArg Next (battOff_requests h), hrun, hfull, hsrc, congrArg Inl.owed hinl, congrArg Inl.ready hinl, hpend⟩
  · obtain ⟨hpmb, hnext, hrest⟩ := battPoll_spec (s := { s with inl := { s.inl with next := 0 } }) h rfl
    exact ⟨_, rfl, ⟨_, hpmb, rfl, rfl⟩, hnext, hrest⟩

end

/-! # The damper and the sharing of the rectifiers (R185 to R189, R193) -/

namespace Sys2Proof.Machine

section
variable {e t n cyc : Nat} {f : State → State} {s : State}

/-! ## What a task leaves of these parts (R53, R57) -/

theorem taskRan_of_engs (h : TaskReady e t cyc s) (hf : (f s).engs = s.engs) : TaskRan e t cyc s (taskRun e t n cyc f s) :=
  taskRan_taskRun h (congrArg (fun l : Tbl Eng => (tget ({} : Eng) l e).used) hf)

theorem dmp_taskRun (h : TaskReady e t cyc s) : (taskRun e t n cyc f s).dmp = (f s).dmp := (eventsOnly_taskRun h).dmp

theorem inl_taskRun (h : TaskReady e t cyc s) : (taskRun e t n cyc f s).inl = (f s).inl := (eventsOnly_taskRun h).inl

theorem shr_taskRun (h : TaskReady e t cyc s) : (taskRun e t n cyc f s).shr = (f s).shr := (eventsOnly_taskRun h).shr

/-! The state of the sharing has no part in whether a task is ready or has run. -/

theorem taskReady_shr (h : TaskReady e t cyc s) (x : Shr) : TaskReady e t cyc { s with shr := x } := h

theorem taskRan_shr {u : State} {x : Shr} (h : TaskRan e t cyc { s with shr := x } u) : TaskRan e t cyc s u := h

/-! ## A new cap (R186) -/

/-- The cap is taken, and the counts of the old one are dropped. -/
def capTaken (s : State) : State := { s with
  dmp := { s.dmp with lastCap := s.dmp.capAt, capNew := true, above := 0, below := 0, tickBelow := true } }

/-- The level that a new cap allows is staged. -/
theorem capChange_some (h : s.dmp.capAt ≠ s.dmp.lastCap) (hd : s.cb 0x6100 0 = true)
    (hl : lowestLevel s s.dmp.capAt = some n) :
    capChange s = { capTaken s with dmp := { (capTaken s).dmp with staged := some n } } := by
  have hd' : (capTaken s).cb 0x6100 0 = true := hd
  have hl' : lowestLevel (capTaken s) s.dmp.capAt = some n := hl
  unfold capTaken at hd' hl' ⊢
  simp only [capChange, h, hd', hl', if_false, Bool.not_true, Bool.false_eq_true]

/-- A cap below every level stages the highest one, and is told. -/
theorem capChange_none (h : s.dmp.capAt ≠ s.dmp.lastCap) (hd : s.cb 0x6100 0 = true)
    (hl : lowestLevel s s.dmp.capAt = none) : ∃ ts d,
    capChange s = raiseSev 0x45 2 ts d { capTaken s with
      dmp := { (capTaken s).dmp with staged := some 7, unreach := true, setNow := s.dmp.setNow ||| 2 } } := by
  have hd' : (capTaken s).cb 0x6100 0 = true := hd
  have hl' : lowestLevel (capTaken s) s.dmp.capAt = none := hl
  unfold capTaken at hd' hl' ⊢
  simp only [capChange, h, hd', hl', if_false, Bool.not_true, Bool.false_eq_true]
  exact ⟨_, _, rfl⟩

theorem capChange_spec (h : s.dmp.capAt ≠ s.dmp.lastCap) (hd : s.cb 0x6100 0 = true) :
    (capChange s).engs = s.engs ∧ (capChange s).dmp.lastCap = s.dmp.capAt ∧ (capChange s).dmp.capNew = true ∧
      (capChange s).dmp.staged = some ((lowestLevel s s.dmp.capAt).getD 7) ∧
      (lowestLevel s s.dmp.capAt = none → Pending 0x45 (capChange s)) := by
  cases hl : lowestLevel s s.dmp.capAt with
  | some n =>
    rw [capChange_some h hd hl]
    exact ⟨rfl, rfl, rfl, rfl, nofun⟩
  | none =>
    obtain ⟨ts, d, heq⟩ := capChange_none h hd hl
    have hev := eventsOnly_raiseSev 0x45 2 ts d { capTaken s with
      dmp := { (capTaken s).dmp with staged := some 7, unreach := true, setNow := s.dmp.setNow ||| 2 } }
    rw [heq, hev.dmp]
    exact ⟨hev.engs, rfl, rfl, rfl, fun _ => pending_raiseSev (by decide) ..⟩

/-! ## T2.1 without a cap and a damper (R186, R193) -/

theorem damperTask_idle (hc : s.dmp.capAt = s.dmp.lastCap) (hd : s.cb 0x6100 0 = false) (hl : s.dmpLevel = 0) :
    damperTask s = shedTask s := by
  simp [damperTask, hc, hd, hl]

/-- The threshold in volts that the comparator's code stands for (R193). -/
def shedFormed (s : State) : State := { s with inl := { s.inl with
  shedV := shedVolt s (shedEnergy s)
  eNeed := sat 0xFFFF (cdiv (10 * shedEnergy s + 500 * shedEff s * s.cf 0x6410 15 0) (5000 * shedEff s)) } }

theorem busUsed_shedFormed (s : State) : (shedFormed s).busUsed = s.busUsed := rfl

theorem shedCode_shedFormed (s : State) (mv : Nat) : shedCode (shedFormed s) mv = shedCode s mv := rfl

/-- The comparator is armed with the code of the threshold (R193, R234). -/
def comparatorSet (s : State) : State := { shedFormed s with
  inl := { (shedFormed s).inl with armed := true, code := shedCode s (100 * shedVolt s (shedEnergy s)) } }

theorem code_comparatorSet (s : State) : (comparatorSet s).inl.code = shedCode s (100 * shedVolt s (shedEnergy s)) := by
  simp only [comparatorSet]

theorem shedTask_eq (h : s.cf 0x640C 15 0 ≠ 0) : shedTask s = if s.busUsed then comparatorSet s else shedFormed s := by
  rw [← busUsed_shedFormed, comparatorSet, ← shedCode_shedFormed]
  unfold shedTask
  simp only [h, if_false]
  rfl

/-- The task forms the threshold; where the bus is measured it sets the comparator (R193). -/
theorem shedTask_spec (h : s.cf 0x640C 15 0 ≠ 0) : (shedTask s).engs = s.engs ∧ (shedTask s).dmp = s.dmp ∧
    (shedTask s).inl.shedV = shedVolt s (shedEnergy s) ∧
    (s.busUsed = true → (shedTask s).inl.armed = true ∧ (shedTask s).inl.code = shedCode s (100 * shedVolt s (shedEnergy s))) := by
  rw [shedTask_eq h]
  split
  · exact ⟨rfl, rfl, rfl, fun _ => ⟨rfl, code_comparatorSet s⟩⟩
  · next hu => exact ⟨rfl, rfl, rfl, fun h => absurd h hu⟩

/-! ## Sharing (R189) -/

theorem engs_rectRound (holds : Bool) (count : Nat) (sum : Int) (n : Nat) (s : State) :
    (rectRound holds count sum n s).engs = s.engs := by
  unfold rectRound
  extract_lets d wide a b
  have hb : b.engs = s.engs := kept_branch State.engs (eventsOnly_raise ..).engs rfl
  split
  · exact hb
  · exact hb

/-- The reads of one rectifier in a new round. -/
def readRect (n : Nat) (s : State) : State :=
  let s := s.modRect n fun r => { r with inFault := false, onAt := r.online }
  let j := rectJob s n (.rect n) [.readWord 0x79, .readWord 0x8C, .readWord 0x97]
  pmbPush j.1 j.2 s

theorem startRound_eq (s : State) : startRound s = each (rectList.filter fun n => s.cb (0x6310 + 8 * n) 18) readRect
    { s with shr := { s.shr with left := orDef (s.cf 0x6300 8 1) 1 } } := rfl

theorem engs_startRound (s : State) : (startRound s).engs = s.engs := by
  rw [startRound_eq]
  exact each_keep State.engs (f := readRect) (fun _ _ => rfl) _ _

/-- The reads of a round leave the count to the next one alone. -/
theorem left_startRound (s : State) : (startRound s).shr.left = orDef (s.cf 0x6300 8 1) 1 := by
  rw [startRound_eq]
  exact each_keep (fun u : State => u.shr.left) (f := readRect) (fun _ _ => rfl) _ _

theorem cfg_rectRound (holds : Bool) (count : Nat) (sum : Int) (n : Nat) (s : State) :
    (rectRound holds count sum n s).cfg = s.cfg :=
  congrArg (fun p => p.2.2.2) (fixed_rectRound holds count sum n s)

/-- A round that is due ends with the reads of the next one. -/
theorem sharingTask_due (hb : s.cb 0x6300 0 = true) (hl : s.shr.left = 0) :
    ∃ u : State, u.engs = s.engs ∧ u.cfg = s.cfg ∧ sharingTask s = startRound u := by
  unfold sharingTask
  rw [if_neg (by simp [hb, hl])]
  extract_lets l sum worst d _ _ _ spread holds a
  have hengs : spread.engs = s.engs := kept_branch State.engs rfl rfl
  have hcfg : spread.cfg = s.cfg := kept_branch State.cfg rfl rfl
  refine ⟨{ a with shr := { a.shr with lastSum := sum } }, ?_, ?_, rfl⟩
  · exact (each_keep State.engs (engs_rectRound holds l.length sum) l spread).trans hengs
  · exact (each_keep State.cfg (cfg_rectRound holds l.length sum) l spread).trans hcfg

/-! ## The judgement (R187) -/

/-- The window of the cap is closed. -/
def windowClosed (s : State) : State := { s with dmp := { s.dmp with judge := none } }

/-- The cap is missed. -/
def capMissed (s : State) : State :=
  { windowClosed s with dmp := { (windowClosed s).dmp with miss := true, setNow := s.dmp.setNow ||| 1 } }

theorem judgeCap_above (hj : s.dmp.judge = some 0) (h : s.dmp.lastCap * min 32 s.drt.pHist.length < powerSum s 32) : ∃ ts d,
    judgeCap s = finishAll (fun w => w = .cap) stDamper 0 (raise 0x44 ts d (capMissed s)) := by
  unfold judgeCap
  rw [if_pos hj]
  exact ⟨_, _, if_pos h⟩

theorem judgeCap_within (hj : s.dmp.judge = some 0) (h : powerSum s 32 ≤ s.dmp.lastCap * min 32 s.drt.pHist.length) :
    judgeCap s = finishAll (fun w => w = .cap) stOk 0 (windowClosed s) := by
  unfold judgeCap
  rw [if_pos hj]
  exact if_neg (Nat.not_lt.mpr h)

theorem dmp_finishAll (w : Wait → Bool) (st res : Nat) (s : State) : (finishAll w st res s).dmp = s.dmp :=
  (congrArg State.dmp (offTell_finishAll ..) :)

theorem evt_finishAll (w : Wait → Bool) (st res : Nat) (s : State) : (finishAll w st res s).evt = s.evt :=
  (congrArg State.evt (offTell_finishAll ..) :)

/-- A tray above the new cap has missed it, and that is told. -/
theorem judgeCap_misses (hj : s.dmp.judge = some 0) (h : s.dmp.lastCap * min 32 s.drt.pHist.length < powerSum s 32) :
    (judgeCap s).dmp = (capMissed s).dmp ∧ Pending 0x44 (judgeCap s) := by
  obtain ⟨ts, d, heq⟩ := judgeCap_above hj h
  rw [heq, Pending, dmp_finishAll, evt_finishAll]
  exact ⟨(eventsOnly_raise ..).dmp, pending_raise _ _ _ _ 0x44 (by decide) (.inl rfl)⟩

/-- A tray at or below the new cap has met it, and nothing is told. -/
theorem judgeCap_meets (hj : s.dmp.judge = some 0) (h : powerSum s 32 ≤ s.dmp.lastCap * min 32 s.drt.pHist.length) :
    (judgeCap s).dmp = (windowClosed s).dmp ∧ (judgeCap s).evt = s.evt := by
  rw [judgeCap_within hj h]
  exact ⟨dmp_finishAll .., evt_finishAll ..⟩

end

end Sys2Proof.Machine

section
open Sys2Proof Sys2Proof.Machine

/-- Settles O20: each task has run with its effect on the damper, the input or the sharing alone (`dmp_taskRun`, `inl_taskRun`,
`shr_taskRun`); the window closes either way (`judgeCap_misses`, `judgeCap_meets`). -/
theorem damper : Obligations.Damper := by
  refine ⟨fun cyc s hr hc hd => ⟨_, rfl, ?_⟩, fun cyc s hr hl => ⟨_, rfl, ?_⟩, fun cyc s hr hm => ⟨_, rfl, ?_⟩,
    fun cyc s hr hc hd hl hb => ⟨_, rfl, ?_⟩, fun cyc s hr hs => ⟨_, rfl, ?_⟩, fun n s hj => ⟨_, rfl, ?_⟩⟩
  · obtain ⟨hengs, hlast, hnew, hstaged, hpend⟩ := capChange_spec hc hd
    rw [dmp_taskRun hr]
    exact ⟨taskRan_of_engs hr hengs, hlast, hnew, hstaged, fun h => pending_taskRun hr (by decide) (hpend h)⟩
  · have hup : levelUp s = { s with dmp := { s.dmp with above := 0, staged := some (s.dmpLevel + 1) } } := if_pos hl
    beta_reduce
    rw [dmp_taskRun hr, hup]
    exact ⟨taskRan_of_engs hr (by rw [hup]), rfl, rfl⟩
  · have hdown : levelDown s = { s with dmp := { s.dmp with below := 0, staged := some (s.dmpLevel - 1) } } := if_pos hm
    beta_reduce
    rw [dmp_taskRun hr, hdown]
    exact ⟨taskRan_of_engs hr (by rw [hdown]), rfl, rfl⟩
  · obtain ⟨hengs, hdmp, hvolt, hset⟩ := shedTask_spec hb
    rw [← damperTask_idle hc hd hl] at hengs hdmp hvolt hset
    rw [dmp_taskRun hr, inl_taskRun hr]
    exact ⟨taskRan_of_engs hr hengs, hdmp, hvolt, hset⟩
  · have hr' := taskReady_shr hr { s.shr with left := 0 }
    obtain ⟨u, hengs, hcfg, heq⟩ := sharingTask_due (s := { s with shr := { s.shr with left := 0 } }) hs rfl
    refine ⟨taskRan_shr (taskRan_of_engs hr' (by rw [heq, engs_startRound, hengs])), ?_⟩
    rw [shr_taskRun hr', heq, left_startRound, State.cf, State.cw, hcfg, State.cf, State.cw]
  · have hclose : ({ s with dmp := { s.dmp with judge := s.dmp.judge.map fun _ => 0 } } : State).dmp.judge = some 0 := by
      rw [hj]
      rfl
    beta_reduce
    obtain h | h := Nat.lt_or_ge (s.dmp.lastCap * min 32 s.drt.pHist.length) (powerSum s 32)
    · obtain ⟨hdmp, hpend⟩ := judgeCap_misses hclose h
      rw [hdmp]
      exact ⟨rfl, rfl, fun _ => ⟨rfl, hpend⟩, fun h' => absurd h (Nat.not_lt.mpr h')⟩
    · obtain ⟨hdmp, hevt⟩ := judgeCap_meets hclose h
      rw [hdmp]
      exact ⟨rfl, rfl, fun h' => absurd h' (Nat.not_lt.mpr h), fun _ => ⟨rfl, hevt⟩⟩

end

/-! # The flash as codewords are programmed and sectors erased (R181, R355, R356, R361 to R363, R365, R371, R385) -/

namespace Sys2Proof.Machine

/-! ## One codeword (R355, R356) -/

section
variable {a : Nat} {j : Job} {w : W256} {s : State}

theorem flashRaw_flashPut (a : Nat) (c : Codeword) (s : State) : (flashPut a c s).flashRaw a = c := by
  simp only [State.flashRaw, flashPut, tget_tset_same]
  split
  · next h => rw [Option.getD_none, deliveredWord, if_neg (Nat.not_lt.mpr h.1), h.2]
  · rw [Option.getD_some]

/-- Programming an erased codeword leaves it as written. -/
theorem flashRaw_flashProgram_erased (h : s.flashRaw a = erasedWord) : (flashProgram a w s).flashRaw a = wcEncode w := by
  rw [flashProgram, if_pos h, flashRaw_flashPut]

/-- A codeword that is not erased is not programmed. -/
theorem flashProgram_refused (h : s.flashRaw a ≠ erasedWord) : flashProgram a w s = s := if_neg h

/-- Programming a codeword touches the codewords, and what is remembered of those that could not be read. -/
theorem flashProgram_parts (a : Nat) (w : W256) (s : State) : flashProgram a w s = { s with
    nv := { s.nv with flash := (flashProgram a w s).nv.flash, badAt := (flashProgram a w s).nv.badAt } } := by
  unfold flashProgram
  split <;> rfl

theorem programWord_parts (j : Job) (s : State) : programWord j s = { s with
    nv := { s.nv with flash := (programWord j s).nv.flash, badAt := (programWord j s).nv.badAt } } := by
  unfold programWord
  split
  · exact flashProgram_parts ..
  · rfl

theorem programWord_some (h : jobWord s j = some w) : programWord j s = flashProgram (jobAddr j / 32) w s := by
  rw [programWord, h]

end

/-! ## Which write is worked on (R181, R361) -/

/-- What of a state decides which write may be worked on. -/
def State.admits (s : State) : State := { s with
  evt := {}, hst := {}, recd := { ({} : Recd) with frozen := s.recd.frozen }
  nv := { ({} : Nv) with cAge := s.nv.cAge, cgroups := s.nv.cgroups, erases := s.nv.erases } }

section
variable {j k : Job} {l : List Job} {s t : State}

theorem jobReady_admits (s : State) (j : Job) : jobReady s.admits j = jobReady s j := rfl

theorem jobReady_congr (h : t.admits = s.admits) (hu : k.use = j.use) : jobReady t k = jobReady s j := by
  rw [← jobReady_admits t, h, jobReady_admits, jobReady, jobReady, hu]

theorem jobReady_of_pickJob {m : List Job} (h : pickJob s m = some (j, l)) : jobReady s j = true := by
  induction m generalizing l with
  | nil => cases h
  | cons x m ih =>
    rw [pickJob] at h
    split at h
    · next hx =>
      cases h
      exact hx
    · obtain ⟨⟨y, l'⟩, hy, he⟩ := Option.map_eq_some_iff.mp h
      cases he
      exact ih hy

theorem length_of_pickJob {m : List Job} (h : pickJob s m = some (j, l)) : m.length = l.length + 1 := by
  induction m generalizing l with
  | nil => cases h
  | cons x m ih =>
    rw [pickJob] at h
    split at h
    · cases h
      rfl
    · obtain ⟨⟨y, l'⟩, hy, he⟩ := Option.map_eq_some_iff.mp h
      cases he
      rw [List.length_cons, ih hy, List.length_cons]

/-- Beginning a write adds none and ends none. -/
theorem length_jobs_nvBegin (s : State) : (nvBegin s).nv.jobs.length = s.nv.jobs.length := by
  obtain h | ⟨k, l, a, hp, h⟩ := jobs_nvBegin s
  · rw [h]
  · rw [h, length_of_pickJob hp, List.length_cons]

/-- A write in front that may be worked on stays in front; it may begin. -/
theorem jobs_nvBegin_front (hj : s.nv.jobs = j :: l) (hr : jobReady s j = true) :
    ∃ b a, (nvBegin s).nv.jobs = { j with begun := b, at_ := a } :: l := by
  obtain h | ⟨k, l', a, hp, h⟩ := jobs_nvBegin s
  · exact ⟨j.begun, j.at_, h.trans hj⟩
  · rw [hj, pickJob, if_pos hr] at hp
    cases hp
    exact ⟨true, a, h⟩

theorem tag_nvBegin (s : State) : (nvBegin s).nv.tag = s.nv.tag := (congrArg (fun u => u.nv.tag) (offJobs_nvBegin s) :)

theorem hst_nvBegin (s : State) : (nvBegin s).hst = s.hst := (congrArg State.hst (offFlash_nvBegin s) :)

theorem evt_nvBegin (s : State) : (nvBegin s).evt = s.evt := (congrArg State.evt (offFlash_nvBegin s) :)

/-! ## A codeword programmed and verified (R361 to R363) -/

/-- With every missing twin written the ember writer is armed (R364). -/
def armDue (s : State) : State := if s.pwr.phase = .waitA || s.running! then armWhen s else s

theorem armDue_parts (s : State) : armDue s = { s with nv := { s.nv with armed := (armDue s).nv.armed } } := by
  unfold armDue armWhen
  split
  · split <;> rfl
  · rfl

/-- Only the first copy of a firmware state record is a firmware twin that is done. -/
theorem fwTwinDone_none (hp : pickJob s s.nv.jobs = some (j, l)) (h : 1 < j.left ∨ ∀ r, j.use ≠ .fwState r) :
    fwTwinDone s = none := by
  rw [fwTwinDone, hp]
  dsimp only
  split
  · next hc =>
    simp only [Bool.and_eq_true, decide_eq_true_eq] at hc
    split
    · next r hu => exact absurd hu (h.resolve_left (by omega) r)
    · rfl
  · rfl

theorem wordDone_goesOn (hf : fwTwinDone s = none) (h : programStep s = (none, t)) : wordDone s = armDue t := by
  simp only [wordDone, hf, h, armDue]

theorem wordDone_ends (hf : fwTwinDone s = none) (h : programStep s = (some j, t)) : wordDone s = armDue (jobDone j t) := by
  simp only [wordDone, hf, h, armDue]

theorem programDone_ok (ht : s.nv.tail = none) (hp : pickJob s s.nv.jobs = some (j, l)) : programDone true s = wordDone s := by
  simp [programDone, ht, hp]

theorem programDone_failed (ht : s.nv.tail = none) (hp : pickJob s s.nv.jobs = some (j, l)) :
    programDone false s = nvBegin (recordAgain (verifyFail s)) := by
  simp [programDone, ht, hp]

/-- A codeword with more to come (R361). -/
theorem programStep_more (hp : pickJob s s.nv.jobs = some (j, l)) (hb : j.begun = true) (hl : 1 < j.left) : programStep s =
    (none, { programWord j s with nv := { (programWord j s).nv with jobs := { j with left := j.left - 1 } :: l } }) := by
  simp [programStep, hp, hb, hl]

theorem programDone_more (ht : s.nv.tail = none) (hp : pickJob s s.nv.jobs = some (j, l)) (hb : j.begun = true)
    (hl : 1 < j.left) : ∃ armed f b, programDone true s = { s with
      nv := { s.nv with jobs := { j with left := j.left - 1 } :: l, flash := f, badAt := b, armed := armed } } ∧
      ∀ a, (programDone true s).flashRaw a = (programWord j s).flashRaw a := by
  rw [programDone_ok ht hp, wordDone_goesOn (fwTwinDone_none hp (.inl hl)) (programStep_more hp hb hl), armDue_parts,
    programWord_parts]
  exact ⟨_, _, _, rfl, fun _ => rfl⟩

/-- The second twin of a write. -/
def secondTwin (j : Job) : Job := { j with twinB := true, left := j.use.words, begun := false }

/-- The state with these writes asked for. -/
def State.withJobs (m : List Job) (s : State) : State := { s with nv := { s.nv with jobs := m } }

/-- The first copy of a kept record is accepted, and its twin follows (R361, R362). -/
theorem programStep_first (hp : pickJob s s.nv.jobs = some (j, l)) (hb : j.begun = true) (hl : j.left ≤ 1)
    (hk : j.use.kept = true) (ht : j.twinB = false) (ho : j.only = false) : programStep s =
    (none, nvBegin (accept j ((programWord j s).withJobs (secondTwin j :: l)))) := by
  simp [programStep, hp, hb, Nat.not_lt.mpr hl, hk, ht, ho, secondTwin, State.withJobs]

/-- The last copy of a kept record is complete (R361). -/
theorem programStep_last (hp : pickJob s s.nv.jobs = some (j, l)) (hb : j.begun = true) (hl : j.left ≤ 1)
    (hk : j.use.kept = true) (ht : j.twinB = true) : programStep s =
    (some j, nvBegin ((programWord j s).withJobs l)) := by
  simp [programStep, hp, hb, Nat.not_lt.mpr hl, hk, ht, State.withJobs]

theorem admits_programWord (j : Job) (m : List Job) (s : State) : ((programWord j s).withJobs m).admits = s.admits := by
  rw [programWord_parts]
  rfl

/-! ## The user tag's copies (R361 to R363, R378) -/

section
variable {b : List Byte}

theorem fwTwinDone_tag (hp : pickJob s s.nv.jobs = some (j, l)) (hu : j.use = .tag b) : fwTwinDone s = none :=
  fwTwinDone_none hp (.inr fun r hr => by rw [hu] at hr; cases hr)

theorem kept_tag (hu : j.use = .tag b) : j.use.kept = true := by
  rw [hu]
  rfl

theorem accept_tag (hu : j.use = .tag b) : accept j s = { s with nv := { s.nv with tag := b } } := by
  rw [accept, hu]

/-- The first copy of the tag stands, and its twin is written next (R362). -/
theorem programDone_tag_first (ht : s.nv.tail = none) (hp : pickJob s s.nv.jobs = some (j, l)) (hb : j.begun = true)
    (hl : j.left ≤ 1) (hA : j.twinB = false) (ho : j.only = false) (hu : j.use = .tag b) :
    (programDone true s).nv.tag = b ∧
      ∃ c a, (programDone true s).nv.jobs = { secondTwin j with begun := c, at_ := a } :: l := by
  have hstep := programStep_first hp hb hl (kept_tag hu) hA ho
  rw [programDone_ok ht hp, wordDone_goesOn (fwTwinDone_tag hp hu) hstep, armDue_parts, accept_tag hu]
  refine ⟨tag_nvBegin _, jobs_nvBegin_front rfl ?_⟩
  refine (jobReady_congr (j := j) (s := s) ?_ rfl).trans (jobReady_of_pickJob hp)
  exact admits_programWord j (secondTwin j :: l) s

/-- The end of a live command of the host stages its completion. -/
theorem mem_ready_finishAt_of_live {q : Nat} {x : Live} (h : s.liveOf q = some x) (hr : x.relayed = false) (d st res : Nat) :
    complOf x st res true d s ∈ (finishAt d q st res s).hst.ready := by
  unfold finishAt
  extract_lets f
  rw [h]
  simp [hr]

/-- The last copy of the tag ends the command that wrote it (R363). -/
theorem programDone_tag_last (ht : s.nv.tail = none) (hp : pickJob s s.nv.jobs = some (j, l)) (hb : j.begun = true)
    (hl : j.left ≤ 1) (hB : j.twinB = true) (hu : j.use = .tag b) (hq : j.seq ≠ 0) :
    ∃ u : State, u.hst = s.hst ∧ u.nv.tag = s.nv.tag ∧ u.nv.jobs.length = l.length ∧
      programDone true s = armDue (finishAt 1 j.seq stOk j.res u) := by
  have hstep := programStep_last hp hb hl (kept_tag hu) hB
  refine ⟨nvBegin ((programWord j s).withJobs l), ?_, ?_, length_jobs_nvBegin _, ?_⟩
  · rw [hst_nvBegin, programWord_parts]
    rfl
  · rw [tag_nvBegin, programWord_parts]
    rfl
  · rw [programDone_ok ht hp, wordDone_ends (fwTwinDone_tag hp hu) hstep, jobDone, hu]
    exact congrArg armDue (if_neg hq)

/-! ## A verify that fails (R361) -/

/-- The write again, whole, under the next RSEQ. -/
def writtenAgain (j : Job) (s : State) : Job :=
  { j with rseq := s.nv.rseq, twinB := false, only := false, left := j.total, begun := false }

/-- A write given back to be written again. -/
def verifyLost (j : Job) (l : List Job) (s : State) : State :=
  { s with nv := { s.nv with rseq := s.nv.rseq + 1, jobs := writtenAgain j s :: l } }

theorem verifyFail_eq (hp : pickJob s s.nv.jobs = some (j, l)) : ∃ ts d, verifyFail s = raise 0xC1 ts d (verifyLost j l s) := by
  rw [verifyFail, hp]
  exact ⟨_, _, rfl⟩

theorem admits_of_eventsOnly (h : EventsOnly s t) : t.admits = s.admits := (congrArg State.admits h :)

/-- Only a recorder record written again needs a slot of its own (R397). -/
theorem recordAgain_other (h : s.nv.jobs = j :: l) (hu : ∀ im, j.use ≠ .record im) : recordAgain s = s := by
  unfold recordAgain
  rw [h]
  split
  · next heq =>
    cases heq
    exact absurd rfl (hu _)
  · rfl

theorem programDone_tag_failed (ht : s.nv.tail = none) (hp : pickJob s s.nv.jobs = some (j, l)) (hu : j.use = .tag b) :
    Pending 0xC1 (programDone false s) ∧ (programDone false s).nv.tag = s.nv.tag ∧
      ∃ c a, (programDone false s).nv.jobs = { writtenAgain j s with begun := c, at_ := a } :: l := by
  obtain ⟨ts, d, heq⟩ := verifyFail_eq hp
  have hev : EventsOnly (verifyLost j l s) (raise 0xC1 ts d (verifyLost j l s)) := eventsOnly_raise ..
  have hjobs : (raise 0xC1 ts d (verifyLost j l s)).nv.jobs = writtenAgain j s :: l := congrArg Nv.jobs hev.nv
  have huse : ∀ im, (writtenAgain j s).use ≠ .record im := fun im h => by
    rw [writtenAgain, hu] at h
    cases h
  rw [programDone_failed ht hp, heq, recordAgain_other hjobs huse, Pending, evt_nvBegin, tag_nvBegin]
  refine ⟨pending_raise _ _ _ _ 0xC1 (by decide) (.inl rfl), (congrArg Nv.tag hev.nv :), jobs_nvBegin_front hjobs ?_⟩
  exact (jobReady_congr (j := j) (s := s) (admits_of_eventsOnly hev :) rfl).trans (jobReady_of_pickJob hp)

end

end

/-! ## An erase that ends (R355, R365, R371, R385) -/

section
variable {n : Nat} {l : List (Nat × EraseUse)} {s : State}

theorem nvBegin_idle (h : s.nv.jobs = []) : nvBegin s = s := by
  unfold nvBegin
  rw [h]
  rfl

/-- The front of the erases is done in the sector. -/
def sectorErased (n : Nat) (l : List (Nat × EraseUse)) (s : State) : State :=
  flashErase n { s with nv := { s.nv with erases := l, copies := s.nv.copies.filter fun c => !c.inSector n c.use.words } }

/-- The next sector of the mirror is erased (R372). -/
def mirrorReady (s : State) : State := { s with nv := { s.nv with mirrorRoom := true } }

theorem eraseDone_mirror (he : s.nv.erases = (n, .mirror) :: l) (hj : s.nv.jobs = []) :
    eraseDone s = nvBegin (mirrorReady (wearUp n (sectorErased n l s))) := by
  have hback : backBusy s = false := by rw [backBusy, hj]; rfl
  simp only [eraseDone, hback, Bool.false_eq_true, if_false, he]
  rfl

/-- The state without the codewords of the flash. -/
def State.offCells (s : State) : State := { s with nv := { s.nv with flash := [], badAt := [] } }

theorem offCells_flashPut (a : Nat) (c : Codeword) (s : State) : (flashPut a c s).offCells = s.offCells := rfl

theorem offCells_flashErase (n : Nat) (s : State) : (flashErase n s).offCells = s.offCells := by
  unfold flashErase
  dsimp only
  split
  · exact each_keep State.offCells (fun k u => offCells_flashPut (256 * n + k) erasedWord u) _ _
  · rfl

theorem offCells_sectorErased : (sectorErased n l s).offCells =
    State.offCells { s with nv := { s.nv with
      erases := l, copies := s.nv.copies.filter fun c => !c.inSector n c.use.words } } := offCells_flashErase ..

/-- The sector with one more erase counted. -/
def worn (n : Nat) (s : State) : State := { s with nv := { s.nv with wear := tset 0 s.nv.wear n (tget 0 s.nv.wear n + 1) } }

theorem eventsOnly_wearUp (n : Nat) (s : State) : EventsOnly (worn n s) (wearUp n s) := by
  unfold wearUp
  dsimp only
  split
  · exact eventsOnly_raise ..
  · exact EventsOnly.refl _

/-- The 80 000th erase of a sector is told (R385). -/
theorem pending_wearUp (h : tget 0 s.nv.wear n + 1 = 80000) : Pending 0xC4 (wearUp n s) := by
  unfold wearUp
  dsimp only
  rw [if_pos h]
  exact pending_raise _ _ _ _ 0xC4 (by decide) (.inl rfl)

theorem wearUp_untold (h : tget 0 s.nv.wear n + 1 ≠ 80000) : wearUp n s = worn n s := if_neg h

/-- The erase of a mirror sector is counted, and makes room. -/
theorem eraseDone_mirror_spec (he : s.nv.erases = (n, .mirror) :: l) (hj : s.nv.jobs = []) :
    (eraseDone s).nv.erases = l ∧ (eraseDone s).nv.mirrorRoom = true ∧
      tget 0 (eraseDone s).nv.wear n = tget 0 s.nv.wear n + 1 ∧
      (tget 0 s.nv.wear n + 1 = 80000 → Pending 0xC4 (eraseDone s)) ∧
      (tget 0 s.nv.wear n + 1 ≠ 80000 → (eraseDone s).evt = s.evt) := by
  have hcells := offCells_sectorErased (n := n) (l := l) (s := s)
  have hwear : (sectorErased n l s).nv.wear = s.nv.wear := (congrArg (fun u => u.nv.wear) hcells :)
  have herases : (sectorErased n l s).nv.erases = l := (congrArg (fun u => u.nv.erases) hcells :)
  have hjobs : (sectorErased n l s).nv.jobs = [] := (congrArg (fun u => u.nv.jobs) hcells :).trans hj
  have hevt : (sectorErased n l s).evt = s.evt := (congrArg State.evt hcells :)
  generalize hu : sectorErased n l s = u at hwear herases hjobs hevt
  have hev := eventsOnly_wearUp n u
  have hidle : (mirrorReady (wearUp n u)).nv.jobs = [] := (congrArg Nv.jobs hev.nv :).trans hjobs
  rw [eraseDone_mirror he hj, hu, nvBegin_idle hidle, ← hwear, ← hevt]
  refine ⟨(congrArg Nv.erases hev.nv :).trans herases, rfl, ?_, fun h => pending_wearUp h, fun h => ?_⟩
  · have hworn : (mirrorReady (wearUp n u)).nv.wear = (worn n u).nv.wear := (congrArg Nv.wear hev.nv :)
    rw [hworn]
    exact tget_tset_same 0 u.nv.wear n (tget 0 u.nv.wear n + 1)
  · rw [wearUp_untold h]
    rfl

end

/-! ## A rail's counters (R163, R369) -/

section
variable {i : Nat} {s : State}

theorem ringUpdate_pair (hd : (s.rail i).delta ≠ []) (ha : 256 ≤ tget 256 s.nv.cAge i)
    (hu : tget 0 (s.cgrp (i / 8)).used (i % 8) < 16) (hf : bgFree s 0 = true) : ringUpdate i s = putPair i s := by
  have hr : ringReady s i = true := by simp [ringReady, hd, ha, hu]
  unfold ringUpdate
  rw [if_neg (by simp [hr, hf]), if_pos hu]

/-- The slots of a pair touch the store alone, and of it not the sequence counter and the ages. -/
theorem putSlots_parts (i : Nat) (v : List Nat) (q : Nat) (s : State) : ∃ x : Nv,
    x.counters = tset ([], 0) s.nv.counters i (v, q) ∧ x.rseq = s.nv.rseq ∧ x.cAge = s.nv.cAge ∧
      putSlots i v q s = { s with nv := x } := by
  unfold putSlots
  extract_lets c k u twin t
  obtain ⟨f, b, hu⟩ : ∃ f b, u = { s with nv := { s.nv with flash := f, badAt := b } } := ⟨_, _, flashProgram_parts ..⟩
  clear_value u
  subst hu
  refine ⟨_, ?_, ?_, ?_, rfl⟩ <;> rfl

/-- A pair holds the counters as they stand under the next RSEQ; nothing of the rail is left to be written. -/
theorem putPair_spec (i : Nat) (s : State) :
    tget ([], 0) (putPair i s).nv.counters i = (countersOf s i, s.nv.rseq) ∧
      (putPair i s).nv.rseq = s.nv.rseq + 1 ∧ ((putPair i s).rail i).delta = [] ∧
      ((putPair i s).rail i).cnt = (s.rail i).cnt ∧ tget 256 (putPair i s).nv.cAge i = 0 ∧
      (∀ j, j ≠ i → (putPair i s).rail j = s.rail j) ∧ (putPair i s).evt = s.evt := by
  obtain ⟨x, hcount, -, hage, heq⟩ := putSlots_parts i (countersOf s i) s.nv.rseq s
  unfold putPair
  dsimp only
  rw [heq]
  refine ⟨?_, rfl, ?_, ?_, ?_, fun j hj => ?_, rfl⟩
  · exact (congrArg (fun c => tget ([], 0) c i) hcount).trans (tget_tset_same ..)
  · rw [State.modRail_rail_same]
  · rw [State.modRail_rail_same]
    rfl
  · exact tget_tset_same 256 x.cAge i 0
  · rw [State.modRail_rail, if_neg hj]
    rfl

end

/-! ## The sweep (R374, R375) -/

section
variable {s : State}

theorem sweepStart_eq (h : s.nv.sweep = false) : sweepStart s = nvWrite (.progress 0) 0 0
    { s with nv := { s.nv with sweep := true, sweepPos := 0, sweepBegan := some s.clk.frame } } :=
  if_neg (by simp [h])

/-- A write asked for touches the store alone. -/
theorem nvWrite_nv (u : JobUse) (q r : Nat) (s : State) : nvWrite u q r s = { s with nv := (nvWrite u q r s).nv } :=
  congrArg (fun t : State => { t with nv := (nvWrite u q r s).nv }) (offNv_of_offJobs (offJobs_nvWrite u q r s))

/-- A sweep begins at the first sector, and that is recorded. -/
theorem sweepStart_spec (h : s.nv.sweep = false) : (sweepStart s).nv.sweep = true ∧ (sweepStart s).nv.sweepPos = 0 ∧
    (sweepStart s).nv.sweepBegan = some s.clk.frame ∧ sweepStart s = { s with nv := (sweepStart s).nv } := by
  rw [sweepStart_eq h]
  have hjobs := offJobs_nvWrite (.progress 0) 0 0
    { s with nv := { s.nv with sweep := true, sweepPos := 0, sweepBegan := some s.clk.frame } }
  exact ⟨(congrArg (fun t => t.nv.sweep) hjobs :), (congrArg (fun t => t.nv.sweepPos) hjobs :),
    (congrArg (fun t => t.nv.sweepBegan) hjobs :), nvWrite_nv ..⟩

/-- A sector that reads sound moves the sweep on by one; the last ends it (R374, R375). -/
theorem sweepStep_sound (h : s.nv.sweep = true) (hf : bgFree s 5 = true) : sweepStep [] [] s =
    if s.nv.sweepPos / 256 = 511 then
      { s with nv := { s.nv with sweep := false, sweepPos := 0, sweeps := sat 0xFFFF (s.nv.sweeps + 1) } }
    else if (s.nv.sweepPos / 256 + 1) % 64 = 0 then
      nvWrite (.progress (256 * (s.nv.sweepPos / 256 + 1))) 0 0
        { s with nv := { s.nv with sweepPos := 256 * (s.nv.sweepPos / 256 + 1) } }
    else { s with nv := { s.nv with sweepPos := 256 * (s.nv.sweepPos / 256 + 1) } } := by
  unfold sweepStep
  rw [if_neg (by simp [h, hf])]
  simp only [List.filter_nil, ite_self, each, List.foldl_nil, List.isEmpty_nil, if_true]

end

end Sys2Proof.Machine

section
open Sys2Proof Sys2Proof.Machine

/-- Settles O44: a codeword with more to come is programmed and counted; of the tag the first copy stands (`programDone_tag_first`),
the last ends its command (`programDone_tag_last`), and a failed verify writes it again (`programDone_tag_failed`). -/
theorem flashWrites : Obligations.FlashWrites := by
  refine ⟨fun j l w s ht hp hb hl hw => ?_, fun j l b s ht hp hb hl hA ho hu => ⟨_, rfl, ?_⟩,
    fun j l b s ht hp hb hl hB hu hq => ⟨_, rfl, ?_⟩, fun j l b s ht hp hu => ⟨_, rfl, ?_⟩,
    fun n l s he hj => ⟨_, rfl, eraseDone_mirror_spec he hj⟩, fun i s hi hd ha hu hf => ?_,
    fun s h => ⟨_, rfl, sweepStart_spec h⟩, fun s h hf h64 => ⟨_, rfl, ?_⟩, fun s h hf h511 => ⟨_, rfl, ?_⟩⟩
  · obtain ⟨armed, f, b, heq, hraw⟩ := programDone_more ht hp hb hl
    refine ⟨programDone true s, rfl, ?_, fun h => ?_, fun h => ?_, ?_⟩
    · rw [heq]
    · rw [hraw, programWord_some hw, flashRaw_flashProgram_erased h]
    · rw [hraw, programWord_some hw, flashProgram_refused h]
    · rw [heq]
  · obtain ⟨htag, c, a, hjobs⟩ := programDone_tag_first ht hp hb hl hA ho hu
    exact ⟨htag, _, hjobs, hu, rfl, congrArg JobUse.words hu, rfl⟩
  · obtain ⟨u, hhst, htag, hlen, heq⟩ := programDone_tag_last ht hp hb hl hB hu hq
    have hlive (q : Nat) : u.liveOf q = s.liveOf q := by rw [State.liveOf, hhst, State.liveOf]
    rw [heq, armDue_parts]
    refine ⟨liveOf_finishAt .., ?_, ?_, fun x _ hx hr hlast => ?_⟩
    · exact (congrArg (fun t => t.nv.tag) (offTell_finishAt ..) :).trans htag
    · exact (congrArg (fun t => t.nv.jobs.length) (offTell_finishAt ..) :).trans hlen
    · exact ⟨_, mem_ready_finishAt_of_live ((hlive j.seq).trans hlast) hr 1 stOk j.res, hx, rfl, rfl⟩
  · obtain ⟨hpend, htag, c, a, hjobs⟩ := programDone_tag_failed ht hp hu
    exact ⟨hpend, htag, _, hjobs, hu, rfl, rfl, rfl⟩
  · refine ⟨putPair i s, ?_, putPair_spec i s⟩
    rw [← ringUpdate_pair hd ha hu hf]
    exact congrArg Next (if_pos hi)
  · rw [sweepStep_sound h hf, if_neg (by omega), if_neg h64]
  · rw [sweepStep_sound h hf, if_pos h511]

end

/-! # One core of the converter array (R204; the rest of the part is as events leave it) -/

namespace Sys2Proof.Machine

/-- The state with the cores `x`. -/
abbrev State.withCores (x : Tbl ACore) (s : State) : State := { s with cnv := { s.cnv with cores := x } }

/-- `t` is `s` but for core c, of which `q` stays as it was, and for what events leave behind. -/
structure OnCore {β : Type} (c : Nat) (q : ACore → β) (s t : State) : Prop where
  others : ∀ d, d ≠ c → t.core d = s.core d
  own : q (t.core c) = q (s.core c)
  rest : EventsOnly (s.withCores t.cnv.cores) t
  pend : ∀ n, n < 256 → Pending n s → Pending n t

section
variable {β γ : Type} {c d i e k n : Nat} {q : ACore → β} {p : ACore → γ} {s t u : State}

theorem OnCore.refl (s : State) : OnCore c q s s := ⟨fun _ _ => rfl, rfl, rfl, fun _ _ h => h⟩

theorem OnCore.trans (h : OnCore c q s t) (g : OnCore c q t u) : OnCore c q s u := by
  have hmid : EventsOnly (s.withCores u.cnv.cores) (t.withCores u.cnv.cores) :=
    (congrArg (State.withCores u.cnv.cores) h.rest :)
  exact ⟨fun d hd => (g.others d hd).trans (h.others d hd), g.own.trans h.own, hmid.trans g.rest,
    fun n hn hp => g.pend n hn (h.pend n hn hp)⟩

/-- What keeps more of the core keeps less of it. -/
theorem OnCore.weaken (h : OnCore c q s t) (hp : ∀ k l, q k = q l → p k = p l) : OnCore c p s t :=
  ⟨h.others, hp _ _ h.own, h.rest, h.pend⟩

theorem OnCore.ite {a : Prop} [Decidable a] (ht : OnCore c q s t) (hu : OnCore c q s u) : OnCore c q s (if a then t else u) := by
  split
  · exact ht
  · exact hu

theorem OnCore.each {α : Type} {f : α → State → State} (hf : ∀ a s, OnCore c q s (f a s)) (l : List α) (s : State) :
    OnCore c q s (each l f s) :=
  each_invariant (OnCore c q s) (fun a _ h => h.trans (hf a _)) l s (.refl s)

theorem onCore_modCore {f : ACore → ACore} (hf : q (f (s.core c)) = q (s.core c)) : OnCore c q s (s.modCore c f) := by
  refine ⟨fun d hd => ?_, ?_, rfl, fun _ _ h => h⟩
  · rw [State.modCore_core, if_neg hd]
  · rw [State.modCore_core_same, hf]

theorem onCore_raise (src : Nat) (ts : Ts) (x : BitVec 128) (s : State) : OnCore c q s (raise src ts x s) := by
  have h := eventsOnly_raise src ts x s
  have hcore (d : Nat) : (raise src ts x s).core d = s.core d := congrArg (fun v : Cnv => tget ({} : ACore) v.cores d) h.cnv
  refine ⟨fun d _ => hcore d, congrArg q (hcore c), ?_, fun n hn hp => pending_raise src ts x s n hn (.inr hp)⟩
  rw [h.cnv]
  exact h

theorem OnCore.cnv (h : OnCore c q s t) : t.cnv = { s.cnv with cores := t.cnv.cores } := (EventsOnly.cnv h.rest :)

theorem OnCore.cfg (h : OnCore c q s t) : t.cfg = s.cfg := (EventsOnly.cfg h.rest :)

theorem OnCore.engs (h : OnCore c q s t) : t.engs = s.engs := (EventsOnly.engs h.rest :)

theorem OnCore.refm (h : OnCore c q s t) (p : Nat) : t.refm p = s.refm p := by rw [State.refm, h.cnv, State.refm]

theorem OnCore.ppair (h : OnCore c q s t) (p : Nat) : t.ppair p = s.ppair p := by rw [State.ppair, h.cnv, State.ppair]

theorem OnCore.trgLevel (h : OnCore c q s t) : t.cnv.trgLevel = s.cnv.trgLevel := (congrArg Cnv.trgLevel h.cnv :)

theorem OnCore.now (h : OnCore c q s t) : t.cnv.now = s.cnv.now := (congrArg Cnv.now h.cnv :)

theorem OnCore.undisturbed (h : OnCore c q s t) : Undisturbed s t :=
  undisturbed_of_eventsOnly (u := s.withCores t.cnv.cores) h.rest

/-! ## Entries, slices and urgent slots of a core -/

theorem core_modEnt (f : Ent → Ent) : (modEnt c e f s).core c = { s.core c with ents := tmod {} (s.core c).ents e f } :=
  State.modCore_core_same ..

theorem entry_modEnt (f : Ent → Ent) (x : Nat) : (modEnt c e f s).entry c x = if x = e then f (s.entry c e) else s.entry c x := by
  rw [State.entry, core_modEnt]
  exact tget_tmod ..

theorem slice_modSlice (f : Slice → Slice) : (modSlice c i f s).slice c i = f (s.slice c i) := by
  rw [State.slice, modSlice, State.modCore_core_same]
  exact tget_tmod_same ..

theorem urg_modUrg (f : Urg → Urg) (m : Nat) : (modUrg c k f s).urg c m = if m = k then f (s.urg c k) else s.urg c m := by
  rw [State.urg, modUrg, State.modCore_core_same]
  exact tget_tmod ..

theorem entry_of_ents (h : (t.core c).ents = (s.core c).ents) (e : Nat) : t.entry c e = s.entry c e := by
  rw [State.entry, h, State.entry]

theorem slice_of_slices (h : (t.core c).slices = (s.core c).slices) (i : Nat) : t.slice c i = s.slice c i := by
  rw [State.slice, h, State.slice]

theorem urg_of_urgs (h : (t.core c).urgs = (s.core c).urgs) (k : Nat) : t.urg c k = s.urg c k := by
  rw [State.urg, h, State.urg]

/-! ## Claims of free slots (R207, R213) -/

/-- The triggers of the sequences in progress. -/
def ACore.trigs (k : ACore) : List Nat := k.seqs.map (·.trig)

/-- The entries but for MISS. -/
def ACore.offMiss (k : ACore) (e : Nat) : Ent :=
  let x := tget ({} : Ent) k.ents e
  { x with res := { x.res with miss := false } }

/-- A core without its plan, its sequences, what is displaced and dropped, and its entries. -/
def ACore.unclaimed (k : ACore) : ACore :=
  { k with plan := [], displaced := [], drops := 0, dropTick := false, dropOcc := 0, ents := [], seqs := [] }

/-- What the claims of conversions leave of a core: all but its plan, what is displaced, the drops with the MISS of their
entries, and the entries that each of its sequences waits for. -/
def ACore.offClaims (k : ACore) : ACore × List Nat × (Nat → Ent) := (k.unclaimed, k.trigs, k.offMiss)

theorem offClaims_parts {k l : ACore} (h : l.offClaims = k.offClaims) : l.scrubs = k.scrubs ∧ l.slices = k.slices ∧
    l.urgs = k.urgs ∧ l.trigs = k.trigs ∧ ∀ e, (tget ({} : Ent) l.ents e).res.code = (tget ({} : Ent) k.ents e).res.code := by
  obtain ⟨hown, hrest⟩ := Prod.ext_iff.mp h
  obtain ⟨htrigs, hents⟩ := Prod.ext_iff.mp hrest
  exact ⟨(congrArg ACore.scrubs hown :), (congrArg ACore.slices hown :), (congrArg ACore.urgs hown :), htrigs,
    fun e => (congrArg (fun x : Ent => x.res.code) (congrFun hents e) :)⟩

theorem offMiss_drop (k : ACore) (e : Nat) :
    { k with ents := tmod {} k.ents e fun x => { x with res := { x.res with miss := true } } }.offMiss = k.offMiss := by
  funext x
  unfold ACore.offMiss
  dsimp only
  rw [tget_tmod]
  split
  · next h => rw [h]
  · rfl

theorem trigs_of_map {k l : ACore} {f : SeqRun → SeqRun} (h : l.seqs = k.seqs.map f) (hf : ∀ q, (f q).trig = q.trig) :
    l.trigs = k.trigs := by
  rw [ACore.trigs, h, List.map_map]
  exact List.map_congr_left fun q _ => hf q

/-- A change of the plan, of what is displaced, and of the entries of sequences. -/
theorem offClaims_seqs {k l : ACore} (hs : l.trigs = k.trigs)
    (hl : { l with plan := k.plan, displaced := k.displaced, seqs := k.seqs } = k) : l.offClaims = k.offClaims :=
  Prod.ext (congrArg ACore.unclaimed hl :) (Prod.ext hs (congrArg ACore.offMiss hl :))

theorem onCore_setPlan (g : Nat) (x : SlotUse) : OnCore c ACore.offClaims s (setPlan c g x s) :=
  onCore_modCore (offClaims_seqs rfl rfl)

theorem onCore_dropTell : OnCore c ACore.offClaims s (dropTell c e s) := by
  unfold dropTell
  extract_lets k
  exact .ite (onCore_modCore rfl) ((onCore_modCore rfl).trans (onCore_raise ..))

theorem onCore_dropConv : OnCore c ACore.offClaims s (dropConv c e s) :=
  (onCore_modCore (Prod.ext rfl (Prod.ext rfl (offMiss_drop ..)))).trans onCore_dropTell

theorem onCore_unplace (g : Nat) : OnCore c ACore.offClaims s (unplace c g s) :=
  onCore_modCore (offClaims_seqs (trigs_of_map rfl fun _ => rfl) rfl)

theorem onCore_placeDisplaced (x : Nat × Nat × Option Nat) : OnCore c ACore.offClaims s (placeDisplaced c x s) := by
  unfold placeDisplaced
  extract_lets take
  have htake (g : Nat) : OnCore c ACore.offClaims s (take g) := onCore_modCore (offClaims_seqs rfl rfl)
  split
  · exact .ite (htake _) onCore_dropConv
  · exact htake _
  · exact .ite onCore_dropConv (.refl s)
  · exact .refl s

theorem onCore_placeClaims (g : Nat) : OnCore c ACore.offClaims s (placeClaims c g s) := by
  unfold placeClaims
  extract_lets s1 s2
  have h2 : OnCore c ACore.offClaims s s2 := (onCore_unplace g).trans (.each (fun x _ => onCore_placeDisplaced x) _ _)
  refine h2.trans (.each (fun q _ => .each (fun e u => ?_) _ _) _ _)
  split
  · refine onCore_modCore (offClaims_seqs (trigs_of_map rfl fun r => ?_) rfl)
    split <;> rfl
  · exact .refl u

theorem onCore_unplan (g h : Nat) : OnCore c ACore.offClaims s (unplan c g h s) := by
  unfold unplan
  split
  · refine (onCore_setPlan h .idle).trans (onCore_modCore (offClaims_seqs (trigs_of_map rfl fun r => ?_) rfl))
    split <;> rfl
  · exact onCore_setPlan h .idle

theorem onCore_displace (g : Nat) (l : List Nat) : OnCore c ACore.offClaims s (displace c g l s) :=
  (OnCore.each (fun h _ => onCore_unplan g h) l s).trans (onCore_placeClaims g)

end

end Sys2Proof.Machine

/-! # Triggers, sequences and urgent slots (R213, R214, R224 to R226) -/

namespace Sys2Proof.Machine

section
variable {c d e g i k n t cyc : Nat} {s u : State}

/-! ## Sequences (R213) -/

theorem seqBusy_iff : s.seqBusy c t = true ↔ t ∈ (s.core c).trigs := by
  simp [State.seqBusy, ACore.trigs]

theorem seqBusy_of_trigs (h : (u.core c).trigs = (s.core c).trigs) (t : Nat) : u.seqBusy c t = s.seqBusy c t :=
  Bool.eq_iff_iff.mpr (by rw [seqBusy_iff, seqBusy_iff, h])

/-- No more than the sequence and the claims of its entries comes of its start. -/
theorem onCore_startSeq : OnCore c (fun _ => ()) s (startSeq c t g s) := by
  unfold startSeq
  extract_lets l
  exact .ite (.refl s) ((onCore_modCore rfl).trans ((onCore_placeClaims g).weaken fun _ _ _ => rfl))

/-- A powered core outside low-power mode with an entry of the trigger starts its sequence. -/
theorem seqBusy_startSeq (he : e < 64) (ht : entTrig (s.ent c e) = t) (hp : (s.core c).powered = true)
    (hl : (s.core c).lp = false) : (startSeq c t g s).seqBusy c t = true := by
  unfold startSeq
  extract_lets l
  have hmem : e ∈ l := by simp [l, he, ht]
  have hne : ¬(l.isEmpty || (s.core c).lp || !(s.core c).powered) = true := by
    simp [hl, hp, List.ne_nil_of_mem hmem]
  obtain ⟨-, -, -, htrigs, -⟩ := offClaims_parts (onCore_placeClaims (c := c) g
    (s := s.modCore c fun k => { k with seqs := k.seqs ++ [{ trig := t, wait := l, from_ := g }] })).own
  rw [if_neg hne, seqBusy_iff, htrigs, State.modCore_core_same]
  simp [ACore.trigs]

/-! ## Urgent slots (R224 to R226) -/

/-- What the firing of an urgent slot leaves of a core. -/
def ACore.offUrgent (k : ACore) : ACore := { k with urgs := [], urgLost := 0 }

/-- An urgent slot discards a request: it has one, or its core does not convert (R226, R232). -/
def State.urgRefuses (s : State) (c k : Nat) : Bool := (s.urg c k).busy || (s.core c).lp || !(s.core c).powered

/-- A request discarded is counted. -/
def urgDiscarded (c : Nat) (s : State) : State := s.modCore c fun x => { x with urgLost := sat 0xFF (x.urgLost + 1) }

theorem fireUrgent_refused (h : s.urgRefuses c k = true) : (fireUrgent c k cyc s).1 = false ∧
    OnCore c ACore.offUrgent s (fireUrgent c k cyc s).2 ∧
    ((fireUrgent c k cyc s).2.core c).urgs = (s.core c).urgs ∧
    ((fireUrgent c k cyc s).2.core c).urgLost = sat 0xFF ((s.core c).urgLost + 1) ∧
    Pending 0x77 (fireUrgent c k cyc s).2 := by
  have hcount : (urgDiscarded c s).core c = { s.core c with urgLost := sat 0xFF ((s.core c).urgLost + 1) } :=
    State.modCore_core_same ..
  have heq : fireUrgent c k cyc s = (false, raise 0x77 (s.tsAt cyc)
      (detC c (fld (s.urgReg c k) 5 0) (fld (s.urgReg c k) 7 6) 0 false false 0 0 0 0) (urgDiscarded c s)) := if_pos h
  have htold : OnCore c id (urgDiscarded c s) (fireUrgent c k cyc s).2 := by
    rw [heq]
    exact onCore_raise ..
  have hcore := htold.own.trans hcount
  refine ⟨by rw [heq], (onCore_modCore rfl).trans (htold.weaken fun _ _ h => congrArg ACore.offUrgent h),
    (congrArg ACore.urgs hcore :), (congrArg ACore.urgLost hcore :), ?_⟩
  rw [heq]
  exact pending_raise _ _ _ _ 0x77 (by decide) (.inl rfl)

theorem fireUrgent_taken (h : s.urgRefuses c k = false) : (fireUrgent c k cyc s).1 = true ∧
    OnCore c (fun x : ACore => { x with urgs := [] }) s (fireUrgent c k cyc s).2 ∧
    ((fireUrgent c k cyc s).2.urg c k).busy = true := by
  have hc : ¬((s.urg c k).busy || (s.core c).lp || !(s.core c).powered) = true := ne_true_of_eq_false h
  unfold fireUrgent
  rw [if_neg hc]
  extract_lets sl base rivals ahead g behind d
  refine ⟨rfl, (OnCore.each (fun j _ => onCore_modCore rfl) _ s).trans (onCore_modCore rfl), ?_⟩
  rw [urg_modUrg, if_pos rfl]

theorem onCore_fireUrgent : OnCore c ACore.offUrgent s (fireUrgent c k cyc s).2 := by
  cases h : s.urgRefuses c k with
  | false =>
    obtain ⟨-, hkept, -⟩ := fireUrgent_taken (cyc := cyc) h
    exact hkept.weaken fun _ _ h => congrArg (fun x : ACore => { x with urgLost := 0 }) h
  | true =>
    obtain ⟨-, hkept, -⟩ := fireUrgent_refused (cyc := cyc) h
    exact hkept

/-- A slot of a powered core outside low-power mode is busy once it has been fired, whether it took the request or had one. -/
theorem busy_fireUrgent (hp : (s.core c).powered = true) (hl : (s.core c).lp = false) :
    ((fireUrgent c k cyc s).2.urg c k).busy = true := by
  cases h : s.urgRefuses c k with
  | false =>
    obtain ⟨-, -, hbusy⟩ := fireUrgent_taken (cyc := cyc) h
    exact hbusy
  | true =>
    obtain ⟨-, -, hurgs, -⟩ := fireUrgent_refused (cyc := cyc) h
    rw [urg_of_urgs hurgs]
    simpa [State.urgRefuses, hp, hl] using h

/-! ## Edges of triggers (R213, R214) -/

theorem onCore_edgeCore : OnCore c (fun _ => ()) s (edgeCore n cyc c s) :=
  .ite ((onCore_modCore rfl).trans (onCore_raise ..)) onCore_startSeq

/-- Behind an edge the sequence is in progress, whether it begins or was overlapped. -/
theorem seqBusy_edgeCore (he : e < 64) (ht : entTrig (s.ent c e) = 4 + n) (hp : (s.core c).powered = true)
    (hl : (s.core c).lp = false) : (edgeCore n cyc c s).seqBusy c (4 + n) = true := by
  unfold edgeCore
  split
  · next hb =>
    have hkept : OnCore c ACore.trigs s (raise 0x76 (s.tsAt cyc) (detC c 0 0 0 false false 0 0 0 n)
        (s.modCore c fun k => { k with trgOvl := sat 0xFF (k.trgOvl + 1) })) := (onCore_modCore rfl).trans (onCore_raise ..)
    rwa [seqBusy_of_trigs hkept.own]
  · exact seqBusy_startSeq he ht hp hl

/-- An accepted edge on one core: its sequence, and its urgent slots. -/
def edgeOn (n cyc c : Nat) (s : State) : State :=
  let s := edgeCore n cyc c s
  each (armed s n c) (fun k s => (fireUrgent c k cyc s).2) s

theorem onCore_fires (l : List Nat) : OnCore c ACore.offUrgent s (each l (fun k s => (fireUrgent c k cyc s).2) s) :=
  .each (fun _ _ => onCore_fireUrgent) l s

theorem onCore_edgeOn : OnCore c (fun _ => ()) s (edgeOn n cyc c s) :=
  onCore_edgeCore.trans ((onCore_fires _).weaken fun _ _ _ => rfl)

theorem seqBusy_edgeOn (he : e < 64) (ht : entTrig (s.ent c e) = 4 + n) (hp : (s.core c).powered = true)
    (hl : (s.core c).lp = false) : (edgeOn n cyc c s).seqBusy c (4 + n) = true := by
  have hfires := (onCore_fires (c := c) (cyc := cyc) (s := edgeCore n cyc c s) (armed (edgeCore n cyc c s) n c)).own
  rw [edgeOn, seqBusy_of_trigs (congrArg ACore.trigs hfires : _)]
  exact seqBusy_edgeCore he ht hp hl

/-- The words in force and core c. -/
def State.wordsAndCore (c : Nat) (s : State) : Tbl W32 × ACore := (s.cfg, s.core c)

/-- A pass over cores without core c leaves it alone. -/
theorem wordsAndCore_edges {l : List Nat} (h : c ∉ l) : (each l (edgeOn n cyc) s).wordsAndCore c = s.wordsAndCore c :=
  each_keep_where (State.wordsAndCore c) (fun _ => True)
    (fun _ hd _ _ => Prod.ext onCore_edgeOn.cfg (onCore_edgeOn.others c fun hc => h (hc ▸ hd))) s trivial

/-- A pass of an edge over the cores starts the sequence of each of them. -/
theorem seqBusy_edges {l : List Nat} (hn : l.Nodup) (hc : c ∈ l) (he : e < 64) (ht : entTrig (s.ent c e) = 4 + n)
    (hp : (s.core c).powered = true) (hl : (s.core c).lp = false) : (each l (edgeOn n cyc) s).seqBusy c (4 + n) = true := by
  obtain ⟨a, b, rfl⟩ := List.append_of_mem hc
  obtain ⟨-, hb, hab⟩ := List.nodup_append.mp hn
  have ha : c ∉ a := fun h => hab c h c (List.mem_cons_self ..) rfl
  have hbefore := wordsAndCore_edges (n := n) (cyc := cyc) (s := s) ha
  have hcore : (each a (edgeOn n cyc) s).core c = s.core c := congrArg Prod.snd hbefore
  have hent : (each a (edgeOn n cyc) s).ent c e = s.ent c e := congrArg (fun x : Tbl W32 × ACore => tget 0 x.1 (entReg c e)) hbefore
  have hbusy := seqBusy_edgeOn (s := each a (edgeOn n cyc) s) (cyc := cyc) he (hent ▸ ht) (hcore ▸ hp) (hcore ▸ hl)
  have hafter : (each b (edgeOn n cyc) (edgeOn n cyc c (each a (edgeOn n cyc) s))).core c = _ :=
    congrArg Prod.snd (wordsAndCore_edges (List.nodup_cons.mp hb).1)
  rw [each_append, ← hbusy]
  exact seqBusy_of_trigs (congrArg ACore.trigs hafter) (4 + n)

/-! ## The levels of the triggers (R214, R244) -/

/-- A level with bit n taken away. -/
theorem testBit_sub_two_pow {x : Nat} (h : x.testBit n = true) (m : Nat) :
    (x - 2 ^ n).testBit m = if m = n then false else x.testBit m := by
  obtain ⟨q, r, hr, hx⟩ : ∃ q r, r < 2 ^ n ∧ x = 2 ^ n * (2 * q + 1) + r := by
    refine ⟨x / 2 ^ n / 2, x % 2 ^ n, Nat.mod_lt _ (Nat.two_pow_pos n), ?_⟩
    have hodd : x / 2 ^ n % 2 = 1 := by simpa [Nat.testBit_eq_decide_div_mod_eq] using h
    have hdiv : 2 * (x / 2 ^ n / 2) + 1 = x / 2 ^ n := by omega
    rw [hdiv, Nat.div_add_mod]
  have hsub : x - 2 ^ n = 2 ^ n * (2 * q) + r := by
    rw [hx, Nat.mul_add, Nat.mul_one]
    omega
  rw [hsub, hx, Nat.testBit_two_pow_mul_add _ hr, Nat.testBit_two_pow_mul_add _ hr]
  obtain hm | hm | hm := Nat.lt_trichotomy m n
  · rw [if_pos hm, if_pos hm, if_neg (by omega)]
  · subst hm
    simp
  · obtain ⟨j, rfl⟩ := Nat.exists_eq_add_of_lt hm
    rw [if_neg (by omega), if_neg (by omega), if_neg (by omega), show n + j + 1 - n = j + 1 by omega,
      Nat.testBit_succ, Nat.testBit_succ]
    congr 1
    omega

/-- The levels behind an edge of trigger n. -/
def levelAfter (n : Nat) (rising : Bool) (x : Nat) : Nat :=
  if rising then x ||| 2 ^ n else if x.testBit n then x - 2 ^ n else x

theorem testBit_levelAfter (rising : Bool) (x m : Nat) :
    (levelAfter n rising x).testBit m = if m = n then rising else x.testBit m := by
  unfold levelAfter
  cases rising with
  | true =>
    rw [if_pos rfl, Nat.testBit_or, Nat.testBit_two_pow]
    split
    · next h => simp [h]
    · next h => simp [Ne.symm h]
  | false =>
    rw [if_neg (by decide)]
    split
    · next h => exact testBit_sub_two_pow h m
    · next h =>
      split
      · next hm => rw [hm, Bool.eq_false_of_not_eq_true h]
      · rfl

/-- The state with the levels behind an edge. -/
def levelled (n : Nat) (rising : Bool) (s : State) : State :=
  { s with cnv := { s.cnv with trgLevel := levelAfter n rising s.cnv.trgLevel } }

theorem trgEdge_unselected {rising : Bool} (h : s.cb 0x7014 (2 * n + b2n (!rising)) = false) :
    trgEdge n rising cyc s = levelled n rising s := if_neg (ne_true_of_eq_false h)

theorem trgEdge_selected {rising : Bool} (h : s.cb 0x7014 (2 * n + b2n (!rising)) = true) :
    trgEdge n rising cyc s = each [0, 1, 2, 3] (edgeOn n cyc) (levelled n rising s) := if_pos h

theorem trgLevel_trgEdge (rising : Bool) : (trgEdge n rising cyc s).cnv.trgLevel = levelAfter n rising s.cnv.trgLevel := by
  cases h : s.cb 0x7014 (2 * n + b2n (!rising)) with
  | false => rw [trgEdge_unselected h]; rfl
  | true =>
    rw [trgEdge_selected h]
    exact (each_keep (fun x : State => x.cnv.trgLevel) (fun _ _ => onCore_edgeOn.trgLevel) _ _).trans rfl

theorem trgEdge_spec (rising : Bool) : (trgEdge n rising cyc s).cnv.trgLevel.testBit n = rising ∧
    (∀ m, m ≠ n → (trgEdge n rising cyc s).cnv.trgLevel.testBit m = s.cnv.trgLevel.testBit m) ∧
    (s.cb 0x7014 (2 * n + b2n (!rising)) = false → trgEdge n rising cyc s =
      { s with cnv := { s.cnv with trgLevel := (trgEdge n rising cyc s).cnv.trgLevel } }) ∧
    (s.cb 0x7014 (2 * n + b2n (!rising)) = true → ∀ c e, c < 4 → e < 64 → entTrig (s.ent c e) = 4 + n →
      (s.core c).powered = true → (s.core c).lp = false → (trgEdge n rising cyc s).seqBusy c (4 + n) = true) := by
  refine ⟨?_, fun m hm => ?_, fun h => ?_, fun h c e hc he ht hp hl => ?_⟩
  · rw [trgLevel_trgEdge, testBit_levelAfter, if_pos rfl]
  · rw [trgLevel_trgEdge, testBit_levelAfter, if_neg hm]
  · rw [trgLevel_trgEdge, trgEdge_unselected h, levelled]
  · rw [trgEdge_selected h]
    exact seqBusy_edges (by decide) (by simp; omega) he ht hp hl

end

end Sys2Proof.Machine

/-! # The end of a conversion (R207, R215 to R222, R225) -/

namespace Sys2Proof.Machine

section
variable {c e g i j k : Nat} {r : Int} {clamp urg : Bool} {s t : State}

/-! ## What a result depends on -/

theorem mkRes_of_onCore (h : OnCore c ACore.slices s t) : mkRes t c i g r urg = mkRes s c i g r urg := by
  unfold mkRes State.suspect
  simp only [slice_of_slices h.own, h.refm, h.ppair]

/-! ## What its use touches -/

theorem onCore_overRange {ch : Nat} (res : Res) :
    OnCore c (fun k : ACore => (k.plan, k.ents, k.urgs)) s (overRange c i ch e g res clamp s) := by
  unfold overRange
  refine .ite (.refl s) ?_
  extract_lets s1 s2 k s3
  have h2 : OnCore c (fun k : ACore => (k.plan, k.ents, k.urgs)) s s2 := (onCore_modCore rfl).trans (onCore_modCore rfl)
  have h3 : OnCore c (fun k : ACore => (k.plan, k.ents, k.urgs)) s s3 :=
    h2.trans (.ite (onCore_modCore rfl) ((onCore_modCore rfl).trans (onCore_raise ..)))
  exact .ite (h3.trans ((onCore_modCore rfl).trans (onCore_raise ..))) h3

/-- What a result leaves of a core but for the entries: its plan and its urgent slots. -/
def ACore.slots (k : ACore) : Tbl SlotUse × Tbl Urg := (k.plan, k.urgs)

theorem plan_of_slots {k l : ACore} (h : l.slots = k.slots) : l.plan = k.plan := congrArg Prod.fst h

theorem urgs_of_slots {k l : ACore} (h : l.slots = k.slots) : l.urgs = k.urgs := congrArg Prod.snd h

theorem onCore_dropConv_slots : OnCore c ACore.slots s (dropConv c e s) := by
  unfold dropConv dropTell
  extract_lets s1 k
  exact (onCore_modCore rfl).trans (.ite (onCore_modCore rfl) ((onCore_modCore rfl).trans (onCore_raise ..)))

/-- The slots and the results of a core. -/
def ACore.results (k : ACore) : (Tbl SlotUse × Tbl Urg) × (Nat → Res) := (k.slots, fun e => (tget ({} : Ent) k.ents e).res)

theorem results_modEnt {k : ACore} {f : Ent → Ent} (hf : ∀ x, (f x).res = x.res) :
    { k with ents := tmod {} k.ents e f }.results = k.results := by
  refine Prod.ext rfl (funext fun x => ?_)
  unfold ACore.results
  dsimp only
  rw [tget_tmod]
  split
  · next h => rw [hf, h]
  · rfl

theorem onCore_windowUpdate (res : Res) : OnCore c ACore.results s (windowUpdate c e res s) := by
  unfold windowUpdate
  refine .ite (.refl s) ?_
  extract_lets old new s1 b
  have h1 : OnCore c ACore.results s s1 := onCore_modCore (results_modEnt fun _ => rfl)
  exact .ite (h1.trans ((onCore_modCore rfl).trans (onCore_raise ..))) h1

/-- The cores and the results of the frame in progress. -/
def State.array (s : State) : Tbl ACore × List TelRes := (s.cnv.cores, s.cnv.now)

theorem array_railHistory (res : Res) (s : State) : (railHistory c e res s).array = s.array := by
  unfold railHistory
  exact kept_ite State.array rfl

theorem array_shedCompare (res : Res) (s : State) : (shedCompare c e res s).array = s.array := by
  unfold shedCompare
  exact kept_ite State.array rfl

theorem array_finishAt (d q st res : Nat) (s : State) : (finishAt d q st res s).array = s.array :=
  (congrArg State.array (offTell_finishAt d q st res s) :)

theorem array_finishMid (w : Wait → Bool) (st res : Nat) (s : State) : (finishMid w st res s).array = s.array :=
  each_keep State.array (fun _ _ => array_finishAt ..) _ _

theorem array_raise (src : Nat) (ts : Ts) (d : BitVec 128) (s : State) : (raise src ts d s).array = s.array :=
  (congrArg State.array (eventsOnly_raise src ts d s) :)

theorem core_of_array (h : t.array = s.array) (c : Nat) : t.core c = s.core c :=
  (congrArg (fun x : Tbl ACore × List TelRes => tget ({} : ACore) x.1 c) h :)

theorem array_calRefuse (st res : Nat) (s : State) : (calRefuse st res s).array = s.array := by
  unfold calRefuse
  split
  · rfl
  · exact (array_finishAt ..).trans (array_raise ..)

theorem array_calAverage (res : Res) (s : State) : (calAverage c e res s).array = s.array := by
  unfold calAverage
  split
  · rfl
  · exact kept_branch State.array rfl (kept_branch State.array (array_calRefuse ..)
      (kept_branch State.array (array_calRefuse ..) rfl))

/-! ## The result of an entry (R215) -/

/-- The result of a conversion whose entry's settings stand: it is the entry's, and one more of the frame. -/
theorem writeEntry_spec (hs : (s.entry c e).stall = 0) :
    ((writeEntry c e g i r clamp urg s).entry c e).res = mkRes s c i g r urg ∧
    ((writeEntry c e g i r clamp urg s).core c).slots = (s.core c).slots ∧
    ∃ x, (writeEntry c e g i r clamp urg s).cnv.now = s.cnv.now ++ [x] ∧ x.core = c ∧ x.entry = e ∧
      x.frame = BitVec.ofNat 48 (g / 8) ∧ x.res = mkRes s c i g r urg := by
  unfold writeEntry
  extract_lets res ch u1 late u2 u3 u4 u5 u6 u7
  have h1 : OnCore c (fun k : ACore => (k.plan, k.ents, k.urgs)) s u1 := onCore_overRange res
  have hstall : ¬(u1.entry c e).stall ≠ 0 := by
    rw [entry_of_ents (congrArg (·.2.1) h1.own : _)]
    exact not_not_intro hs
  have h3 : OnCore c ACore.slots s u3 :=
    (h1.weaken fun _ _ h => congrArg (fun x => (x.1, x.2.2)) h).trans
      ((show OnCore c ACore.slots u1 u2 from .ite onCore_dropConv_slots (.refl u1)).trans (onCore_modCore rfl))
  have h4 : OnCore c ACore.results u3 u4 := onCore_windowUpdate res
  have harray : u7.array = u4.array :=
    (array_calAverage ..).trans ((array_shedCompare ..).trans (array_railHistory ..))
  have hcore : u7.core c = u4.core c := core_of_array harray c
  have hres : (u3.entry c e).res = res := by rw [entry_modEnt, if_pos rfl]
  have hnow : u7.cnv.now = s.cnv.now := (congrArg Prod.snd harray).trans (h4.now.trans h3.now)
  rw [if_neg hstall]
  clear_value u7 u4 u3
  refine ⟨?_, ?_, _, congrArg (· ++ [_]) hnow, rfl, rfl, rfl, rfl⟩
  · exact (congrArg (fun k : ACore => (tget ({} : Ent) k.ents e).res) hcore).trans ((congrFun (congrArg Prod.snd h4.own) e).trans hres)
  · exact (congrArg ACore.slots hcore).trans ((congrArg Prod.fst h4.own).trans h3.own)

/-- The end of a sequence's conversion changes its sequences alone. -/
theorem seqEnded_parts : ((seqEnded c e s).core c).ents = (s.core c).ents ∧
    ((seqEnded c e s).core c).slots = (s.core c).slots ∧ (seqEnded c e s).cnv.now = s.cnv.now := by
  unfold seqEnded
  extract_lets last done s1
  have h1 : OnCore c (fun k : ACore => (k.ents, k.slots)) s s1 := onCore_modCore rfl
  have harray : ∀ u : State, u.array = s1.array → (u.core c).ents = (s.core c).ents ∧ (u.core c).slots = (s.core c).slots ∧
      u.cnv.now = s.cnv.now := fun u hu => by
    have hcore : u.core c = s1.core c := core_of_array hu c
    exact ⟨hcore ▸ congrArg Prod.fst h1.own, hcore ▸ congrArg Prod.snd h1.own, (congrArg Prod.snd hu).trans h1.now⟩
  split
  · exact harray _ (array_finishMid ..)
  · exact harray _ rfl

/-! ## The slots of a frame (R215, R220) -/

theorem frame_of_slot (hj : j < 8) (s : State) : BitVec.ofNat 48 ((8 * s.now + j) / 8) = s.clk.frame := by
  rw [show (8 * s.now + j) / 8 = s.clk.frame.toNat by unfold State.now; omega, BitVec.ofNat_toNat, BitVec.setWidth_eq]

/-- The slot of an entry ends with the entry's result. -/
theorem slotEnd_entry (hp : (s.core c).powered = true) (hu : tget SlotUse.idle (s.core c).plan (8 * s.now + j) = .entry e)
    (hd : scrubDue (s.slice c (j % 4)) (8 * s.now + j) = false) : slotEnd c j r clamp s =
      seqEnded c e (writeEntry c e (8 * s.now + j) (j % 4) r clamp false (setPlan c (8 * s.now + j) .idle s)) := by
  unfold slotEnd
  extract_lets g i use conv
  have huse : use = .entry e := hu
  rw [if_neg (by simp [conv, huse, hp]), if_neg (ne_true_of_eq_false hd), huse]

/-- The slot of an entry in whose place a scrub is made. -/
theorem slotEnd_scrub (hp : (s.core c).powered = true) (hu : tget SlotUse.idle (s.core c).plan (8 * s.now + j) = .entry e)
    (hd : scrubDue (s.slice c (j % 4)) (8 * s.now + j) = true) : slotEnd c j r clamp s =
      displace c (8 * s.now + j - 4) [8 * s.now + j] (scrubDone c (j % 4) (8 * s.now + j) s) := by
  unfold slotEnd
  extract_lets g i use conv
  have huse : use = .entry e := hu
  rw [if_neg (by simp [conv, huse, hp]), if_pos hd]

theorem conversionEnd_spec (hj : j < 8) (hp : (s.core c).powered = true)
    (hu : tget SlotUse.idle (s.core c).plan (8 * s.now + j) = .entry e)
    (hd : scrubDue (s.slice c (j % 4)) (8 * s.now + j) = false) (hs : (s.entry c e).stall = 0) :
    ((slotEnd c j r clamp s).entry c e).res = mkRes s c (j % 4) (8 * s.now + j) r false ∧
    tget SlotUse.idle ((slotEnd c j r clamp s).core c).plan (8 * s.now + j) = .idle ∧
    ∃ x, (slotEnd c j r clamp s).cnv.now = s.cnv.now ++ [x] ∧ x.core = c ∧ x.entry = e ∧ x.frame = s.clk.frame ∧
      x.res = mkRes s c (j % 4) (8 * s.now + j) r false := by
  have hset : OnCore c (fun k : ACore => (k.slices, k.ents)) s (setPlan c (8 * s.now + j) .idle s) := onCore_modCore rfl
  have hents : (setPlan c (8 * s.now + j) .idle s).entry c e = s.entry c e := entry_of_ents (congrArg Prod.snd hset.own) e
  have hplan : ((setPlan c (8 * s.now + j) .idle s).core c).plan = tset .idle (s.core c).plan (8 * s.now + j) .idle :=
    congrArg ACore.plan (State.modCore_core_same ..)
  obtain ⟨hres, hslots, x, hnow, hxc, hxe, hxf, hxr⟩ := writeEntry_spec (c := c) (e := e) (g := 8 * s.now + j) (i := j % 4)
    (r := r) (clamp := clamp) (urg := false) (s := setPlan c (8 * s.now + j) .idle s) (by rw [hents]; exact hs)
  rw [mkRes_of_onCore (hset.weaken fun _ _ h => congrArg Prod.fst h)] at hres hxr
  rw [slotEnd_entry hp hu hd]
  obtain ⟨hents', hslots', hnow'⟩ := seqEnded_parts (c := c) (e := e)
    (s := writeEntry c e (8 * s.now + j) (j % 4) r clamp false (setPlan c (8 * s.now + j) .idle s))
  refine ⟨?_, ?_, x, hnow'.trans hnow, hxc, hxe, hxf.trans (frame_of_slot hj s), hxr⟩
  · rw [entry_of_ents hents', hres]
  · rw [plan_of_slots (hslots'.trans hslots), hplan, tget_tset_same]

/-! ## Scrubs (R220 to R222) -/

/-- A slice on which a scrub has been made. -/
def Slice.scrubbed (now : Nat) (f : Frame) (x : Slice) : Slice :=
  { x with scrub := if x.again then some (8 * now) else none, again := false, scrubFrame := some f }

theorem onCore_scrubDone : OnCore c ACore.ents s (scrubDone c i g s) := by
  unfold scrubDone
  exact (onCore_modCore rfl).trans (onCore_modCore rfl)

theorem scrubs_scrubDone : ((scrubDone c i g s).core c).scrubs = sat 0xFFFF ((s.core c).scrubs + 1) := by
  unfold scrubDone modSlice
  rw [State.modCore_core_same, State.modCore_core_same]

theorem slice_scrubDone : (scrubDone c i g s).slice c i = (s.slice c i).scrubbed s.now (BitVec.ofNat 48 (g / 8)) := by
  have hkept : OnCore c ACore.slices s (s.modCore c fun k => { k with scrubs := sat 0xFFFF (k.scrubs + 1) }) := onCore_modCore rfl
  unfold scrubDone
  rw [slice_modSlice, slice_of_slices hkept.own]
  rfl

/-- A scrub that takes a conversion's place leaves the results as they are; what it displaces may yet be missed. -/
theorem scrubMade_spec (at_ : Nat) (l : List Nat) :
    ((displace c at_ l (scrubDone c i g s)).core c).scrubs = sat 0xFFFF ((s.core c).scrubs + 1) ∧
    (displace c at_ l (scrubDone c i g s)).slice c i = (s.slice c i).scrubbed s.now (BitVec.ofNat 48 (g / 8)) ∧
    ((displace c at_ l (scrubDone c i g s)).entry c e).res.code = (s.entry c e).res.code ∧
    (displace c at_ l (scrubDone c i g s)).cnv.now = s.cnv.now := by
  have hdone := onCore_scrubDone (c := c) (i := i) (g := g) (s := s)
  have hscrubs := scrubs_scrubDone (c := c) (i := i) (g := g) (s := s)
  have hslice := slice_scrubDone (c := c) (i := i) (g := g) (s := s)
  generalize scrubDone c i g s = u at hdone hscrubs hslice ⊢
  have hclaims := onCore_displace (c := c) (s := u) at_ l
  generalize displace c at_ l u = t at hclaims ⊢
  obtain ⟨hsame, hslices, -, -, hcode⟩ := offClaims_parts hclaims.own
  exact ⟨hsame.trans hscrubs, (slice_of_slices hslices i).trans hslice,
    (hcode e).trans (congrArg (fun x : Ent => x.res.code) (entry_of_ents hdone.own e)), hclaims.now.trans hdone.now⟩

theorem scrub_spec (hj : j < 8) (hp : (s.core c).powered = true)
    (hu : tget SlotUse.idle (s.core c).plan (8 * s.now + j) = .entry e)
    (hd : scrubDue (s.slice c (j % 4)) (8 * s.now + j) = true) :
    ((slotEnd c j r clamp s).core c).scrubs = sat 0xFFFF ((s.core c).scrubs + 1) ∧
    (slotEnd c j r clamp s).slice c (j % 4) = (s.slice c (j % 4)).scrubbed s.now s.clk.frame ∧
    ((slotEnd c j r clamp s).entry c e).res.code = (s.entry c e).res.code ∧ (slotEnd c j r clamp s).cnv.now = s.cnv.now := by
  rw [slotEnd_scrub hp hu hd, ← frame_of_slot hj s]
  exact scrubMade_spec ..

/-! ## Urgent conversions (R224, R225) -/

theorem urgentEnd_spec (hb : (s.urg c k).busy = true) (hst : (s.urg c k).started = true)
    (hs : (s.entry c (fld (s.urgReg c k) 5 0)).stall = 0) :
    ((urgentEnd c k r clamp s).urg c k).busy = false ∧
    ((urgentEnd c k r clamp s).entry c (fld (s.urgReg c k) 5 0)).res =
      mkRes s c (fld (s.urgReg c k) 7 6) ((s.urg c k).g + 4) r true := by
  have hfree : OnCore c (fun k : ACore => (k.slices, k.ents)) s (modUrg c k (fun _ => {}) s) := onCore_modCore rfl
  have hents : (modUrg c k (fun _ => {}) s).entry c (fld (s.urgReg c k) 5 0) = s.entry c (fld (s.urgReg c k) 5 0) :=
    entry_of_ents (congrArg Prod.snd hfree.own) _
  obtain ⟨hres, hslots, -⟩ := writeEntry_spec (c := c) (e := fld (s.urgReg c k) 5 0) (g := (s.urg c k).g + 4)
    (i := fld (s.urgReg c k) 7 6) (r := r) (clamp := clamp) (urg := true) (s := modUrg c k (fun _ => {}) s) (by rw [hents]; exact hs)
  rw [mkRes_of_onCore (hfree.weaken fun _ _ h => congrArg Prod.fst h)] at hres
  unfold urgentEnd
  extract_lets u w s1 s2
  rw [if_neg (by simp [u, hb, hst])]
  have hcore (st res : Nat) : (finishMid (fun x => x = .urgent (4 * c + k)) st res s2).core c = s2.core c :=
    core_of_array (array_finishMid ..) c
  refine ⟨?_, ?_⟩
  · rw [urg_of_urgs (congrArg ACore.urgs (hcore ..)), urg_of_urgs (urgs_of_slots hslots), urg_modUrg, if_pos rfl]
  · rw [entry_of_ents (congrArg ACore.ents (hcore ..))]
    exact hres

/-- An urgent conversion of a slice without a scrub to be made starts at once where no conversion of the plan is in its way. -/
theorem startUrgent_starts (hb : (s.urg c k).busy = true) (hst : (s.urg c k).started = false) (hp : (s.core c).plan = [])
    (hs : (s.slice c (fld (s.urgReg c k) 7 6)).scrub = none) :
    ∃ l, startUrgent c k s = modUrg c k (fun u => { u with started := true }) (displace c (s.urg c k).g l s) := by
  unfold startUrgent
  extract_lets u sl g e use conv scr s2
  have huse : use = .idle := by
    change tget SlotUse.idle (s.core c).plan e = .idle
    rw [hp]
    rfl
  have hmove : ¬(decide (g ≠ e - 4) && (scr || decide (use = .p) || decide (use = .pRef))) = true := by
    simp [scr, conv, huse]
  rw [if_neg (by simp [u, hb, hst]), if_neg hmove, hs]
  exact ⟨_, rfl⟩

theorem urgentStart_spec (hb : (s.urg c k).busy = true) (hst : (s.urg c k).started = false) (hp : (s.core c).plan = [])
    (hs : (s.slice c (fld (s.urgReg c k) 7 6)).scrub = none) :
    (startUrgent c k s).urg c k = { s.urg c k with started := true } ∧
    (∀ m, m ≠ k → (startUrgent c k s).urg c m = s.urg c m) ∧ ∀ d, d ≠ c → (startUrgent c k s).core d = s.core d := by
  obtain ⟨l, heq⟩ := startUrgent_starts hb hst hp hs
  have hclaims := onCore_displace (c := c) (s := s) (s.urg c k).g l
  obtain ⟨-, -, hurgs, -, -⟩ := offClaims_parts hclaims.own
  have hurg (m : Nat) : (displace c (s.urg c k).g l s).urg c m = s.urg c m := urg_of_urgs hurgs m
  rw [heq]
  refine ⟨?_, fun m hm => ?_, fun d hd => ?_⟩
  · rw [urg_modUrg, if_pos rfl, hurg]
  · rw [urg_modUrg, if_neg hm, hurg]
  · rw [modUrg, State.modCore_core, if_neg hd, hclaims.others d hd]

/-! ## Conversions dropped (R207) -/

/-- A core of which a displaced conversion of entry e is dropped. -/
def ACore.dropped (e : Nat) (k : ACore) : ACore := { k with
  drops := sat 0xFFFF (k.drops + 1)
  displaced := k.displaced.filter fun d => d.1 ≠ e
  ents := tmod {} k.ents e fun x => { x with res := { x.res with miss := true } } }

theorem pending_dropTell (hc : c < 4) (h : (s.core c).dropTick = false) : Pending (0x6C + c) (dropTell c e s) := by
  unfold dropTell
  extract_lets k
  rw [if_neg (ne_true_of_eq_false h)]
  exact pending_raise _ _ _ _ _ (by omega) (.inl rfl)

theorem dropConv_spec (hc : c < 4) : ((dropConv c e s).core c).drops = sat 0xFFFF ((s.core c).drops + 1) ∧
    ((dropConv c e s).entry c e).res.miss = true ∧
    ((dropConv c e s).core c).displaced = (s.core c).displaced.filter (fun d => d.1 ≠ e) ∧
    ((s.core c).dropTick = false → Pending (0x6C + c) (dropConv c e s)) ∧
    ∀ d, d ≠ c → (dropConv c e s).core d = s.core d := by
  have hcore : (s.modCore c (ACore.dropped e)).core c = (s.core c).dropped e := State.modCore_core_same ..
  have htell : OnCore c (fun k : ACore => (k.drops, k.ents, k.displaced)) (s.modCore c (ACore.dropped e)) (dropConv c e s) := by
    unfold dropConv dropTell
    extract_lets s1 k
    exact .ite (onCore_modCore rfl) ((onCore_modCore rfl).trans (onCore_raise ..))
  have hown := htell.own
  rw [hcore] at hown
  obtain ⟨hdrops, hents, hdisplaced⟩ := (by simpa only [Prod.mk.injEq] using hown :
    ((dropConv c e s).core c).drops = ((s.core c).dropped e).drops ∧ ((dropConv c e s).core c).ents = ((s.core c).dropped e).ents ∧
      ((dropConv c e s).core c).displaced = ((s.core c).dropped e).displaced)
  refine ⟨hdrops, ?_, hdisplaced, fun h => ?_, onCore_dropConv.others⟩
  · rw [State.entry, hents, ACore.dropped, tget_tmod_same]
  · exact pending_dropTell hc ((congrArg ACore.dropTick hcore).trans h)

end

end Sys2Proof.Machine

/-! # Clamps, suspicion and references (R212, R222, R231) -/

namespace Sys2Proof.Machine

section
variable {c e i p : Nat} {s : State}

/-! ## The end of a clamp (R222) -/

theorem unclamp_clamped (h : (s.slice c i).clamp.isSome = true) : unclamp c i s =
    modSlice c i (fun x => clampScrub (s.core c).plan i s.now { x with clamp := none }) s := if_pos h

theorem clampScrub_parts (plan : Tbl SlotUse) (n : Nat) {x : Slice} (h : x.clamp = none) :
    (clampScrub plan i n x).clamp = none ∧ (clampScrub plan i n x).scrub.isSome = true ∧
      (scrubDue x (8 * n + i) = false → clampScrub plan i n x = { x with scrub := some (8 * n) }) := by
  unfold clampScrub
  extract_lets use
  split
  · next hd =>
    rw [Bool.and_eq_true, Bool.and_eq_true] at hd
    obtain ⟨⟨hdue, -⟩, -⟩ := hd
    refine ⟨h, ?_, fun hn => absurd hdue (ne_true_of_eq_false hn)⟩
    cases hx : x.scrub with
    | none => simp [scrubDue, hx] at hdue
    | some g => rfl
  · exact ⟨h, rfl, fun _ => rfl⟩

theorem unclamp_spec (h : (s.slice c i).clamp.isSome = true) : ((unclamp c i s).slice c i).clamp = none ∧
    ((unclamp c i s).slice c i).scrub.isSome = true ∧
    (scrubDue (s.slice c i) (8 * s.now + i) = false →
      (unclamp c i s).slice c i = { s.slice c i with clamp := none, scrub := some (8 * s.now) }) ∧
    (∀ d, d ≠ c → (unclamp c i s).core d = s.core d) ∧
    unclamp c i s = { s with cnv := { s.cnv with cores := (unclamp c i s).cnv.cores } } := by
  obtain ⟨hclamp, hscrub, hnew⟩ := clampScrub_parts (i := i) (s.core c).plan s.now
    (x := { s.slice c i with clamp := none }) rfl
  rw [unclamp_clamped h, slice_modSlice]
  exact ⟨hclamp, hscrub, hnew, (onCore_modCore (q := fun _ => ()) rfl).others, rfl⟩

/-! ## The end of a suspicion (R231) -/

/-- The last agreeing comparison that a suspicion waits for. -/
def lastAgrees (p : Nat) (s : State) : State := s.modPpair p fun x => { x with agree := if x.raised then 32 else x.agree }

theorem plausNow_raised (h : (s.ppair p).raised = true) :
    plausNow p s = raise (0x72 + p) (lastAgrees p s).tsB (detC (2 * p) 0 3 0 false false 0 0 0 0) ((lastAgrees p s).modPpair p fun x =>
      { x with suspect := 0, raised := false, agree := 0, disagree := 0 }) := by
  unfold plausNow plausRestore
  extract_lets x
  exact if_pos (by simp [x, State.modPpair_ppair, h])

theorem plausNow_spec (hp : p < 2) (h : (s.ppair p).raised = true) : ((plausNow p s).ppair p).suspect = 0 ∧
    ((plausNow p s).ppair p).raised = false ∧ Pending (0x72 + p) (plausNow p s) ∧
    ∀ q, q ≠ p → (plausNow p s).ppair q = s.ppair q := by
  have hpair (q : Nat) : (plausNow p s).ppair q = ((lastAgrees p s).modPpair p fun x =>
      { x with suspect := 0, raised := false, agree := 0, disagree := 0 }).ppair q := by
    rw [plausNow_raised h]
    exact congrArg (fun v : Cnv => tget ({} : PPair) v.pairs q) (eventsOnly_raise ..).cnv
  refine ⟨?_, ?_, ?_, fun q hq => ?_⟩
  · rw [hpair, State.modPpair_ppair, if_pos rfl]
  · rw [hpair, State.modPpair_ppair, if_pos rfl]
  · rw [plausNow_raised h]
    exact pending_raise _ _ _ _ _ (by omega) (.inl rfl)
  · rw [hpair, State.modPpair_ppair, if_neg hq, lastAgrees, State.modPpair_ppair, if_neg hq]

/-! ## References (R212) -/

theorem refSetNow_spec (h5 : s.refPowered = true) (h : (s.refm p).rdy = false) : ((refSetNow p s).refm p).rdy = true ∧
    ((refSetNow p s).refm p).fault = (s.refm p).fault ∧ (∀ q, q ≠ p → (refSetNow p s).refm q = s.refm q) ∧
    refSetNow p s = { s with cnv := (refSetNow p s).cnv } := by
  have heq : refSetNow p s = refSet p (s.modRefm p fun x => { x with good := 64 }) := if_pos (by simp [h5, h])
  have hrefm (q : Nat) : (refSetNow p s).refm q = if q = p then { s.refm p with good := 64, rdy := true } else s.refm q := by
    rw [heq, refSet, State.modRefm_refm, State.modRefm_refm, if_pos rfl, State.modRefm_refm]
    split <;> rfl
  refine ⟨?_, ?_, fun q hq => ?_, ?_⟩
  · rw [hrefm, if_pos rfl]
  · rw [hrefm, if_pos rfl]
  · rw [hrefm, if_neg hq]
  · rw [heq]
    rfl

/-- A reference that fails: its fault is set, and told. -/
theorem refFault_spec (hp : p < 2) : ((refFault p s).refm p).fault = true ∧ ((refFault p s).refm p).rdy = false ∧
    Pending (0x74 + p) (refFault p s) ∧ ∀ q, q ≠ p → (refFault p s).refm q = s.refm q := by
  have hrefm (q : Nat) : (refFault p s).refm q =
      (s.modRefm p fun x => { x with rdy := false, fault := true, faultNow := true }).refm q :=
    congrArg (fun v : Cnv => tget ({} : RefMon) v.refs q) (eventsOnly_raise ..).cnv
  refine ⟨?_, ?_, pending_raise _ _ _ _ _ (by omega) (.inl rfl), fun q hq => ?_⟩
  · rw [hrefm, State.modRefm_refm, if_pos rfl]
  · rw [hrefm, State.modRefm_refm, if_pos rfl]
  · rw [hrefm, State.modRefm_refm, if_neg hq]

theorem refTimeout_spec (hp : p < 2) (h5 : s.refPowered = true) (h : (s.refm p).rdy = false) :
    ((refTimeout p s).refm p).fault = true ∧ ((refTimeout p s).refm p).rdy = false ∧ Pending (0x74 + p) (refTimeout p s) ∧
    ∀ q, q ≠ p → (refTimeout p s).refm q = s.refm q := by
  obtain ⟨hf, hr, hpend, hne⟩ := refFault_spec (s := s.modRefm p fun x => { x with age := 4096 }) hp
  have heq : refTimeout p s = refFault p (s.modRefm p fun x => { x with age := 4096 }) := if_pos (by simp [h5, h])
  rw [heq]
  exact ⟨hf, hr, hpend, fun q hq => (hne q hq).trans (by rw [State.modRefm_refm, if_neg hq])⟩

/-- An entry of which no result counts. -/
def noResult (x : Ent) : Ent := if x = {} then x else invalidate x

theorem valid_noResult (x : Ent) : (noResult x).res.valid = false := by
  unfold noResult
  split
  · next h => rw [h]
  · rfl

theorem onCore_invalidCore : OnCore c (fun _ => ()) s (invalidCore c s) := .each (fun _ _ => onCore_modCore rfl) _ s

theorem valid_invalidCore (he : e < 64) : ((invalidCore c s).entry c e).res.valid = false := by
  have h : ∀ m, e < m → ((each (List.range m) (fun x u => modEnt c x noResult u) s).entry c e).res.valid = false := by
    intro m
    induction m with
    | zero => exact fun h => absurd h (Nat.not_lt_zero e)
    | succ m ih =>
      intro hm
      rw [List.range_succ, each_append, each_singleton, entry_modEnt]
      split
      · exact valid_noResult _
      · exact ih (by omega)
  have heq : invalidCore c s = each (List.range 64) (fun x u => modEnt c x noResult u) s := rfl
  rw [heq]
  exact h 64 he

theorem refFallNow_ready (h5 : s.refPowered = true) (h : (s.refm p).rdy = true) : refFallNow p s =
    invalidCore (2 * p) (invalidCore (2 * p + 1) (refFault p (s.modRefm p fun x => { x with good := 0 }))) := by
  unfold refFallNow refFall
  rw [if_pos h5, if_pos h]

theorem refFallNow_spec (hp : p < 2) (h5 : s.refPowered = true) (h : (s.refm p).rdy = true) :
    ((refFallNow p s).refm p).fault = true ∧ ((refFallNow p s).refm p).rdy = false ∧ Pending (0x74 + p) (refFallNow p s) ∧
    (∀ c e, (c = 2 * p ∨ c = 2 * p + 1) → e < 64 → ((refFallNow p s).entry c e).res.valid = false) ∧
    ∀ q, q ≠ p → (refFallNow p s).refm q = s.refm q := by
  obtain ⟨hf, hr, hpend, hne⟩ := refFault_spec (s := s.modRefm p fun x => { x with good := 0 }) hp
  rw [refFallNow_ready h5 h]
  generalize refFault p (s.modRefm p fun x => { x with good := 0 }) = u at hf hr hpend hne
  have hodd := onCore_invalidCore (c := 2 * p + 1) (s := u)
  have heven := onCore_invalidCore (c := 2 * p) (s := invalidCore (2 * p + 1) u)
  have hrefm (q : Nat) : (invalidCore (2 * p) (invalidCore (2 * p + 1) u)).refm q = u.refm q := (heven.refm q).trans (hodd.refm q)
  refine ⟨by rw [hrefm, hf], by rw [hrefm, hr], heven.pend _ (by omega) (hodd.pend _ (by omega) hpend), fun c e hc he => ?_,
    fun q hq => ?_⟩
  · obtain rfl | rfl := hc
    · exact valid_invalidCore he
    · rw [entry_of_ents (congrArg ACore.ents (heven.others _ (by omega)))]
      exact valid_invalidCore he
  · rw [hrefm, hne q hq, State.modRefm_refm, if_neg hq]

end

end Sys2Proof.Machine

section
open Sys2Proof Sys2Proof.Machine

/-- Settles O26: an edge starts its sequence on each core in turn (`seqBusy_edges`), an entry's conversion ends as `writeEntry_spec`
says, claims and drops leave the rest of a core alone (`onCore_displace`), and each of the others changes one slice, pair or
reference. -/
theorem conversionsAndHealth : Obligations.ConversionsAndHealth := by
  refine ⟨fun n rising cyc s hn => ⟨_, congrArg Next (if_pos hn), trgEdge_spec rising⟩,
    fun c j e r clamp s hc hj hp hu hd hs =>
      ⟨_, congrArg Next ((if_pos ⟨hc, by omega⟩).trans (if_pos hj)), conversionEnd_spec hj hp hu hd hs⟩,
    fun c j e r clamp s hc hj hp hu hd => ⟨_, congrArg Next ((if_pos ⟨hc, by omega⟩).trans (if_pos hj)), ?_⟩,
    fun c k r clamp s hc hk hb hst hs => ⟨_, congrArg Next ((if_pos ⟨hc, by omega⟩).trans (if_neg (by omega))), ?_⟩,
    fun c k s hc hk hb hst hp hs => ⟨_, congrArg Next (if_pos ⟨hc, hk⟩), urgentStart_spec hb hst hp hs⟩,
    fun c e s hc he hd => ⟨_, congrArg Next ((if_pos ⟨hc, he⟩).trans (if_pos hd)), dropConv_spec hc⟩,
    fun c i s hc hi h => ⟨_, congrArg Next (if_pos ⟨hc, hi⟩), unclamp_spec h⟩,
    fun p s hp h => ⟨_, congrArg Next (if_pos hp), plausNow_spec hp h⟩,
    fun p s hp h5 h => ⟨_, congrArg Next (if_pos hp), refSetNow_spec h5 h⟩,
    fun p s hp h5 h => ⟨_, congrArg Next (if_pos hp), refTimeout_spec hp h5 h⟩,
    fun p s hp h5 h => ⟨_, congrArg Next (if_pos hp), refFallNow_spec hp h5 h⟩⟩
  · obtain ⟨hscrubs, hslice, hcode, hnow⟩ := scrub_spec (r := r) (clamp := clamp) hj hp hu hd
    exact ⟨hscrubs, congrArg Slice.scrub hslice, congrArg Slice.scrubFrame hslice, hcode, hnow⟩
  · rw [show 8 + k - 8 = k by omega]
    exact urgentEnd_spec hb hst hs

end

/-! # Telemetry (R224, R239, R240, R294) -/

namespace Sys2Proof.Machine

section
variable {cyc e t n : Nat} {r : TelRes} {f : State → State} {s : State}

theorem cnv_taskRun (h : TaskReady e t cyc s) : (taskRun e t n cyc f s).cnv = (f s).cnv := (eventsOnly_taskRun h).cnv

theorem core_taskRun (h : TaskReady e t cyc s) (c : Nat) : (taskRun e t n cyc f s).core c = (f s).core c := by
  rw [State.core, cnv_taskRun h, State.core]

theorem out_taskRun (h : TaskReady e t cyc s) : (taskRun e t n cyc f s).out = (f s).out := (eventsOnly_taskRun h).out

theorem ring_taskRun (h : TaskReady e t cyc s) (r : Nat) : (taskRun e t n cyc f s).ring r = (f s).ring r :=
  (congrArg (State.ring · r) (eventsOnly_taskRun h) :)

/-! ## The urgent slots that an engine's writes fire (R224) -/

/-- What the firing of urgent slots leaves of the part: the engines, the converter array but for its cores, and each core but
for its urgent slots. -/
def State.offUrgent (s : State) : Tbl Eng × Cnv × (Nat → ACore) :=
  (s.engs, { s.cnv with cores := [] }, fun c => (s.core c).offUrgent)

theorem OnCore.offUrgent {c : Nat} {u : State} (h : OnCore c ACore.offUrgent s u) : u.offUrgent = s.offUrgent := by
  refine Prod.ext h.engs (Prod.ext ?_ (funext fun d => ?_))
  · exact congrArg (fun v : Cnv => { v with cores := [] }) h.cnv
  · change (u.core d).offUrgent = (s.core d).offUrgent
    by_cases hd : d = c
    · rw [hd, h.own]
    · rw [h.others d hd]

theorem offUrgent_engineFires (l : List (Nat × Nat × Nat)) (s : State) : (engineFires l s).offUrgent = s.offUrgent :=
  each_keep State.offUrgent (fun _ _ => kept_ite State.offUrgent onCore_fireUrgent.offUrgent) l s

theorem pending_engineFires {k : Nat} (hk : k < 256) (l : List (Nat × Nat × Nat)) (h : Pending k s) :
    Pending k (engineFires l s) := by
  refine each_invariant (Pending k) (fun x u hu => ?_) l s h
  split
  · exact onCore_fireUrgent.pend k hk hu
  · exact hu

/-! ## Results staged (R239) -/

/-- What the staging of results leaves of the part: the engines, the results to come, and each core but for its entries. -/
def State.offStaging (s : State) : Tbl Eng × Tbl W32 × List TelRes × (Nat → ACore) :=
  (s.engs, s.cfg, s.cnv.prev, fun c => { s.core c with ents := [] })

theorem offStaging_modEnt (c e : Nat) (f : Ent → Ent) (s : State) : (modEnt c e f s).offStaging = s.offStaging := by
  refine Prod.ext rfl (Prod.ext rfl (Prod.ext rfl (funext fun d => ?_)))
  change ({ (modEnt c e f s).core d with ents := [] } : ACore) = { s.core d with ents := [] }
  rw [modEnt, State.modCore_core]
  split
  · next h => rw [h]
  · rfl

theorem offStaging_raise (src : Nat) (ts : Ts) (d : BitVec 128) (s : State) : (raise src ts d s).offStaging = s.offStaging :=
  (congrArg State.offStaging (eventsOnly_raise src ts d s) :)

theorem offStaging_stageResult (r : TelRes) (s : State) : (stageResult r s).offStaging = s.offStaging := by
  unfold stageResult
  extract_lets w n s1 s2 s3
  have h1 : s1.offStaging = s.offStaging := offStaging_modEnt ..
  refine kept_branch State.offStaging rfl (kept_branch State.offStaging (offStaging_modEnt ..)
    (kept_branch State.offStaging h1 (kept_branch State.offStaging h1 ?_)))
  exact (offStaging_raise ..).trans h1

/-- The state whose results of the frame before have been taken. -/
def prevTaken (s : State) : State := { s with cnv := { s.cnv with prev := [] } }

theorem offStaging_postProcess (s : State) : (postProcess s).offStaging = (prevTaken s).offStaging :=
  each_keep State.offStaging offStaging_stageResult _ _

theorem flatMap_range_single {α : Type} {a : α} {i n : Nat} (h : i < n) :
    ((List.range n).flatMap fun j => if i = j then [a] else []) = [a] := by
  induction n with
  | zero => exact absurd h (Nat.not_lt_zero i)
  | succ n ih =>
    rw [List.range_succ, List.flatMap_append]
    by_cases hn : i = n
    · subst hn
      have hnil : ((List.range i).flatMap fun j => if i = j then [a] else []) = [] :=
        List.flatMap_eq_nil_iff.mpr fun j hj => if_neg (Nat.ne_of_gt (List.mem_range.mp hj))
      simp [hnil]
    · simp [hn, ih (by omega)]

theorem telOrder_single (hc : r.core < 4) (he : r.entry < 64) : telOrder [r] = [r] := by
  have hfilter (c e : Nat) : ([r].filter fun t => t.core = c && t.entry = e) =
      if r.core = c then (if r.entry = e then [r] else []) else [] := by
    by_cases h1 : r.core = c <;> by_cases h2 : r.entry = e <;> simp [h1, h2]
  unfold telOrder
  simp only [hfilter]
  refine (List.flatMap_congr fun c _ => ?_).trans (flatMap_range_single (a := r) hc)
  split
  · exact flatMap_range_single he
  · exact List.flatMap_eq_nil_iff.mpr fun _ _ => rfl

theorem postProcess_single (hp : s.cnv.prev = [r]) (hc : r.core < 4) (he : r.entry < 64) :
    postProcess s = stageResult r (prevTaken s) := by
  unfold postProcess
  rw [hp, telOrder_single hc he]
  rfl

/-- The state with the count of a result's entry begun anew. -/
def decBegun (r : TelRes) (s : State) : State := modEnt r.core r.entry (fun x => { x with dec := 0 }) s

/-- A result that is due, and has room, is staged. -/
theorem stageResult_room (hb : bit (s.ent r.core r.entry) 22 = true)
    (hd : 2 ^ fld (s.ent r.core r.entry) 25 23 ≤ (s.entry r.core r.entry).dec + 1) (hl : s.cnv.staged.length < telRoom) :
    stageResult r s = { decBegun r s with cnv := { (decBegun r s).cnv with staged := s.cnv.staged ++ [r] } } := by
  unfold stageResult
  extract_lets w n s1
  rw [if_neg (by simp [w, hb]), if_neg (Nat.not_lt.mpr hd)]
  exact if_pos hl

/-- A result that is due, and has none, is lost: counted, and told once in a watch tick. -/
theorem stageResult_full (hb : bit (s.ent r.core r.entry) 22 = true)
    (hd : 2 ^ fld (s.ent r.core r.entry) 25 23 ≤ (s.entry r.core r.entry).dec + 1) (hl : telRoom ≤ s.cnv.staged.length)
    (ht : s.cnv.lostTick = false) : stageResult r s = raise 0x78 s.tsB (detC r.core r.entry 0 0 false false 0 0 0 0)
      { decBegun r s with cnv := { (decBegun r s).cnv with lost := sat 0xFFFF (s.cnv.lost + 1), lostTick := true } } := by
  unfold stageResult
  extract_lets w n s1 s2
  rw [if_neg (by simp [w, hb]), if_neg (Nat.not_lt.mpr hd)]
  exact (if_neg (Nat.not_lt.mpr hl)).trans (if_neg (ne_true_of_eq_false ht))

/-! ## T3.1 -/

/-- The work of T3.1. -/
def telemetryWork (l : List (Nat × Nat × Nat)) (s : State) : State := engineFires l (postProcess s)

theorem telemetryWork_spec (l : List (Nat × Nat × Nat)) (s : State) :
    (telemetryWork l s).engs = s.engs ∧ (telemetryWork l s).cnv.prev = [] := by
  have hfires := offUrgent_engineFires l (postProcess s)
  have hpost := offStaging_postProcess s
  exact ⟨(congrArg Prod.fst hfires).trans (congrArg Prod.fst hpost),
    (congrArg (fun x => x.2.1.prev) hfires).trans (congrArg (fun x => x.2.2.1) hpost)⟩

/-- The fires behind the staging leave what is staged, what is lost, and the counts of the entries. -/
theorem telemetryWork_staged (l : List (Nat × Nat × Nat)) (s : State) :
    (telemetryWork l s).cnv.staged = (postProcess s).cnv.staged ∧ (telemetryWork l s).cnv.lost = (postProcess s).cnv.lost ∧
    (telemetryWork l s).cnv.lostTick = (postProcess s).cnv.lostTick ∧
    ∀ c e, (telemetryWork l s).entry c e = (postProcess s).entry c e := by
  have hfires := offUrgent_engineFires l (postProcess s)
  exact ⟨congrArg (fun x => x.2.1.staged) hfires, congrArg (fun x => x.2.1.lost) hfires,
    congrArg (fun x => x.2.1.lostTick) hfires, fun c e => entry_of_ents (congrArg (fun x => (x.2.2 c).ents) hfires) e⟩

theorem telemetryWork_room (l : List (Nat × Nat × Nat)) (hp : s.cnv.prev = [r]) (hc : r.core < 4) (he : r.entry < 64)
    (hb : bit (s.ent r.core r.entry) 22 = true) (hd : 2 ^ fld (s.ent r.core r.entry) 25 23 ≤ (s.entry r.core r.entry).dec + 1)
    (hl : s.cnv.staged.length < telRoom) : (telemetryWork l s).cnv.staged = s.cnv.staged ++ [r] ∧
      ((telemetryWork l s).entry r.core r.entry).dec = 0 ∧ (telemetryWork l s).cnv.lost = s.cnv.lost := by
  obtain ⟨hstaged, hlost, -, hentry⟩ := telemetryWork_staged l s
  rw [hstaged, hlost, hentry, postProcess_single hp hc he, stageResult_room (s := prevTaken s) hb hd hl]
  refine ⟨rfl, ?_, rfl⟩
  exact congrArg Ent.dec ((entry_modEnt _ _).trans (if_pos rfl) : (decBegun r (prevTaken s)).entry r.core r.entry = _)

theorem telemetryWork_full (l : List (Nat × Nat × Nat)) (hp : s.cnv.prev = [r]) (hc : r.core < 4) (he : r.entry < 64)
    (hb : bit (s.ent r.core r.entry) 22 = true) (hd : 2 ^ fld (s.ent r.core r.entry) 25 23 ≤ (s.entry r.core r.entry).dec + 1)
    (hl : telRoom ≤ s.cnv.staged.length) (ht : s.cnv.lostTick = false) : (telemetryWork l s).cnv.staged = s.cnv.staged ∧
      (telemetryWork l s).cnv.lost = sat 0xFFFF (s.cnv.lost + 1) ∧ (telemetryWork l s).cnv.lostTick = true ∧
      Pending 0x78 (telemetryWork l s) := by
  obtain ⟨hstaged, hlost, htick, -⟩ := telemetryWork_staged l s
  have heq := (postProcess_single hp hc he).trans (stageResult_full (s := prevTaken s) hb hd hl ht)
  have hcnv := congrArg State.cnv heq |>.trans (eventsOnly_raise ..).cnv
  rw [hstaged, hlost, htick, hcnv]
  refine ⟨rfl, rfl, rfl, pending_engineFires (by decide) l ?_⟩
  rw [heq]
  exact pending_raise _ _ _ _ 0x78 (by decide) (.inl rfl)

/-- An engine's write fires its slot (R224). -/
theorem telemetryWork_fires {c k y : Nat} (hc : c < 4) (hk : k < 4) (hb : bit (s.urgReg c k) 8 = true)
    (hp : (s.core c).powered = true) (hl : (s.core c).lp = false) : ((telemetryWork [(c, k, y)] s).urg c k).busy = true := by
  have hpost := offStaging_postProcess s
  have hcfg : (postProcess s).cfg = s.cfg := congrArg (·.2.1) hpost
  have hreg : (postProcess s).urgReg c k = s.urgReg c k := by rw [State.urgReg, State.cw, hcfg, State.urgReg, State.cw]
  have hcore : ({ (postProcess s).core c with ents := [] } : ACore) = { s.core c with ents := [] } :=
    congrArg (fun x => x.2.2.2 c) hpost
  have heq : telemetryWork [(c, k, y)] s = (fireUrgent c k y (postProcess s)).2 := if_pos ⟨hc, hk, hreg ▸ hb⟩
  rw [heq]
  exact busy_fireUrgent ((congrArg ACore.powered hcore :).trans hp) ((congrArg ACore.lp hcore :).trans hl)

/-! ## T3.2 (R239, R294) -/

theorem telPost_idle (n : Nat) (h : s.cnv.staged = [] ∨ ringLive s 17 = false) : telPost n s = (0, s) := by
  cases n with
  | zero => rfl
  | succ n =>
    refine if_pos ?_
    obtain h | h := h <;> simp [h]

/-- The state with one entry of one result behind the producer index. -/
def telPosted (a : TelRes) (s : State) : State :=
  ringPut 17 (some 11) (telEntry [a]) { s with cnv := { s.cnv with staged := [] } }

theorem telPost_single {a : TelRes} (hs : s.cnv.staged = [a]) (hl : ringLive s 17 = true) (hr : ringRoom s 17 ≠ 0) (hn : n ≠ 0) :
    (telPost n s).2 = telPosted a s := by
  obtain ⟨m, rfl⟩ := Nat.exists_eq_succ_of_ne_zero hn
  have hrest : telPost m (telPosted a s) = (0, telPosted a s) := telPost_idle m (.inl rfl)
  unfold telPost
  rw [if_neg (by simp [hs, hl]), if_neg hr]
  simp only [hs]
  exact congrArg Prod.snd hrest

theorem telPosted_spec (a : TelRes) (s : State) : (telPosted a s).engs = s.engs ∧ (telPosted a s).cnv.staged = [] ∧
    (telPosted a s).out = .entry 17 (s.ring 17).own (telEntry [a]) :: s.out ∧
    ((telPosted a s).ring 17).own = ((s.ring 17).own + 1) % 2 ^ s.cf (ringReg 17 + 8) 4 1 := by
  refine ⟨rfl, rfl, rfl, congrArg Ring.own ((State.modRing_ring ..).trans (if_pos rfl) : (telPosted a s).ring 17 = _)⟩

/-! ## The two tasks (R53, R57) -/

/-- T3.1 as it runs. -/
abbrev stagingTask (cyc : Nat) (l : List (Nat × Nat × Nat)) (s : State) : State :=
  taskRun 3 0 (min 32 s.cnv.prev.length) cyc (telemetryWork l) s

/-- The work of T3.2. -/
def postingWork (s : State) : State := (telPost (telQuota s) s).2

/-- T3.2 as it runs. -/
abbrev postingTask (cyc : Nat) (s : State) : State := taskRun 3 1 (telPost (telQuota s) s).1 cyc postingWork s

end

end Sys2Proof.Machine

section
open Sys2Proof Sys2Proof.Machine

/-- Settles O22: T3.1 is the staging of each result (`stageResult_room`, `stageResult_full`) with the fires behind it, which
leave the staged results alone (`telemetryWork_staged`); T3.2 posts one entry (`telPost_single`) or is idle. -/
theorem telemetry : Obligations.Telemetry := by
  refine ⟨fun cyc l s hr => ⟨stagingTask cyc l s, rfl, ?_⟩,
    fun cyc l r s hr hp hc he hb hd hl => ⟨stagingTask cyc l s, rfl, ?_⟩,
    fun cyc l r s hr hp hc he hb hd hl ht => ⟨stagingTask cyc l s, rfl, ?_⟩,
    fun cyc c k y s hr hc hk hb hp hl => ⟨stagingTask cyc [(c, k, y)] s, rfl, ?_⟩,
    fun cyc a s hr hs hl hroom hq => ⟨postingTask cyc s, rfl, ?_⟩, fun cyc s hr h => ⟨postingTask cyc s, rfl, ?_⟩⟩
  · obtain ⟨hengs, hprev⟩ := telemetryWork_spec l s
    exact ⟨taskRan_of_engs hr hengs, (congrArg Cnv.prev (cnv_taskRun hr)).trans hprev⟩
  · obtain ⟨hstaged, hdec, hlost⟩ := telemetryWork_room l hp hc he hb hd hl
    exact ⟨(congrArg Cnv.staged (cnv_taskRun hr)).trans hstaged,
      (congrArg Ent.dec (entry_of_ents (congrArg ACore.ents (core_taskRun hr r.core)) r.entry)).trans hdec,
      (congrArg Cnv.lost (cnv_taskRun hr)).trans hlost⟩
  · obtain ⟨hstaged, hlost, htick, hpend⟩ := telemetryWork_full l hp hc he hb hd hl ht
    exact ⟨(congrArg Cnv.staged (cnv_taskRun hr)).trans hstaged, (congrArg Cnv.lost (cnv_taskRun hr)).trans hlost,
      (congrArg Cnv.lostTick (cnv_taskRun hr)).trans htick, pending_taskRun hr (by decide) hpend⟩
  · exact (congrArg Urg.busy (urg_of_urgs (congrArg ACore.urgs (core_taskRun hr c)) k)).trans (telemetryWork_fires hc hk hb hp hl)
  · obtain ⟨hengs, hstaged, hout, hown⟩ := telPosted_spec a s
    have hwork : postingWork s = telPosted a s := telPost_single hs hl hroom hq
    rw [← hwork] at hengs hstaged hout hown
    exact ⟨taskRan_of_engs hr hengs, (congrArg Cnv.staged (cnv_taskRun hr)).trans hstaged, (out_taskRun hr).trans hout,
      (congrArg Ring.own (ring_taskRun hr 17)).trans hown⟩
  · have hidle : postingWork s = s := congrArg Prod.snd (telPost_idle _ h)
    exact ⟨taskRan_of_engs hr (congrArg State.engs hidle), (cnv_taskRun hr).trans (congrArg State.cnv hidle),
      (out_taskRun hr).trans (congrArg State.out hidle)⟩

end

/-! # The commands of the converter array (R213, R224, R226, R237, R302) -/

namespace Sys2Proof.Machine

section
variable {op r : Nat} {d : Desc} {s t v : State}

theorem cnv_cmdState : (cmdState op r d s).cnv = s.cnv := (congrArg State.cnv offTaking_cmdState :)

theorem core_cmdState (c : Nat) : (cmdState op r d s).core c = s.core c := by rw [State.core, cnv_cmdState, State.core]

theorem ent_cmdState (c e : Nat) : (cmdState op r d s).ent c e = s.ent c e := of_cmdState (State.ent · c e) fun _ => rfl

theorem cnv_of_told (h : Told v t) : t.cnv = v.cnv := (congrArg State.cnv h.1 :)

theorem core_of_told (h : Told v t) (c : Nat) : t.core c = v.core c := by rw [State.core, cnv_of_told h, State.core]

theorem seqBusy_cmdState (c t : Nat) : (cmdState op r d s).seqBusy c t = s.seqBusy c t := by
  rw [State.seqBusy, core_cmdState, State.seqBusy]

theorem urgRefuses_cmdState (c k : Nat) : (cmdState op r d s).urgRefuses c k = s.urgRefuses c k := by
  rw [State.urgRefuses, State.urg, core_cmdState, State.urgRefuses, State.urg]

/-- A command without a buffer whose effect makes it wait. -/
theorem waits_unbuffered {w : Wait} (h : Taken op r d s) (hop : op ≠ 0x81) (hu : usesBuf op = false) (hr : readsBuf op = false)
    (hprog : ∀ n, w ≠ .prog n) (he : cmdEffect (cmdLive op r d s) (cmdState op r d s) = park s.nextSeq w v)
    (hv : Undisturbed (cmdState op r d s) v) : Waiting op r d w s (hostRow op r d s) ∧ Told v (hostRow op r d s) :=
  waiting_of_effect h hop (fun hb => absurd hb (by simp [hu])) (fun hb => absurd hb (by simp [hr])) hprog he hv

/-! ## CONV_START (R213) -/

theorem convStart_waits {e : Nat} (h : Taken 0x20 r d s) (hp : (s.core (d.arg 1 0)).powered = true)
    (hl : (s.core (d.arg 1 0)).lp = false) (he : e < 64) (ht : entTrig (s.ent (d.arg 1 0) e) = 2)
    (hb : s.seqBusy (d.arg 1 0) 2 = false) : Waiting 0x20 r d (.convSeq (d.arg 1 0)) s (hostRow 0x20 r d s) ∧
      (hostRow 0x20 r d s).seqBusy (d.arg 1 0) 2 = true := by
  have hbusy : (startSeq (d.arg 1 0) 2 (8 * (cmdState 0x20 r d s).now) (cmdState 0x20 r d s)).seqBusy (d.arg 1 0) 2 = true :=
    seqBusy_startSeq he ((congrArg entTrig (ent_cmdState ..)).trans ht) ((congrArg ACore.powered (core_cmdState _)).trans hp)
      ((congrArg ACore.lp (core_cmdState _)).trans hl)
  have heff : cmdEffect (cmdLive 0x20 r d s) (cmdState 0x20 r d s) = park s.nextSeq (.convSeq (d.arg 1 0))
      (startSeq (d.arg 1 0) 2 (8 * (cmdState 0x20 r d s).now) (cmdState 0x20 r d s)) :=
    (if_neg (ne_true_of_eq_false ((seqBusy_cmdState _ _).trans hb))).trans (if_pos hbusy)
  obtain ⟨hwait, htold⟩ := waits_unbuffered h (by decide) rfl rfl (by simp) heff onCore_startSeq.undisturbed
  exact ⟨hwait, (seqBusy_of_trigs (congrArg ACore.trigs (core_of_told htold _)) 2).trans hbusy⟩

theorem convStart_busy (h : Taken 0x20 r d s) (hb : s.seqBusy (d.arg 1 0) 2 = true) :
    Ended 0x20 r d stBusy 0 s (hostRow 0x20 r d s) ∧ (hostRow 0x20 r d s).cnv = s.cnv := by
  have heff : cmdEffect (cmdLive 0x20 r d s) (cmdState 0x20 r d s) = finish s.nextSeq stBusy 0 (cmdState 0x20 r d s) :=
    if_pos ((seqBusy_cmdState _ _).trans hb)
  obtain ⟨hend, htold⟩ := ended_unbuffered h (by decide) rfl rfl (by decide) heff ⟨rfl, rfl⟩
  exact ⟨hend, (cnv_of_told htold).trans cnv_cmdState⟩

/-! ## CONV_URGENT (R224, R226) -/

theorem convUrgent_waits (h : Taken 0x21 r d s) (hf : s.urgRefuses (d.arg 1 0) (d.arg 3 2) = false) :
    Waiting 0x21 r d (.urgent (4 * d.arg 1 0 + d.arg 3 2)) s (hostRow 0x21 r d s) ∧
      ((hostRow 0x21 r d s).urg (d.arg 1 0) (d.arg 3 2)).busy = true ∧
      ((hostRow 0x21 r d s).core (d.arg 1 0)).urgLost = (s.core (d.arg 1 0)).urgLost := by
  obtain ⟨htaken, hkept, hbusy⟩ := fireUrgent_taken (cyc := 0) ((urgRefuses_cmdState (op := 0x21) (r := r) (d := d) _ _).trans hf)
  have heff : cmdEffect (cmdLive 0x21 r d s) (cmdState 0x21 r d s) = park s.nextSeq (.urgent (4 * d.arg 1 0 + d.arg 3 2))
      (fireUrgent (d.arg 1 0) (d.arg 3 2) 0 (cmdState 0x21 r d s)).2 := if_pos htaken
  obtain ⟨hwait, htold⟩ := waits_unbuffered h (by decide) rfl rfl (by simp) heff hkept.undisturbed
  have hcore := core_of_told htold (d.arg 1 0)
  have hlost : ((fireUrgent (d.arg 1 0) (d.arg 3 2) 0 (cmdState 0x21 r d s)).2.core (d.arg 1 0)).urgLost =
      ((cmdState 0x21 r d s).core (d.arg 1 0)).urgLost := (congrArg ACore.urgLost hkept.own :)
  refine ⟨hwait, ?_, ?_⟩
  · rw [urg_of_urgs (congrArg ACore.urgs hcore), hbusy]
  · rw [hcore, hlost, core_cmdState]

theorem convUrgent_busy (h : Taken 0x21 r d s) (hf : s.urgRefuses (d.arg 1 0) (d.arg 3 2) = true) :
    Ended 0x21 r d stBusy 0 s (hostRow 0x21 r d s) ∧
      ((hostRow 0x21 r d s).core (d.arg 1 0)).urgLost = sat 0xFF ((s.core (d.arg 1 0)).urgLost + 1) ∧
      Pending 0x77 (hostRow 0x21 r d s) := by
  obtain ⟨hrefused, hkept, -, hlost, hpend⟩ :=
    fireUrgent_refused (cyc := 0) ((urgRefuses_cmdState (op := 0x21) (r := r) (d := d) _ _).trans hf)
  have heff : cmdEffect (cmdLive 0x21 r d s) (cmdState 0x21 r d s) = finish s.nextSeq stBusy 0
      (fireUrgent (d.arg 1 0) (d.arg 3 2) 0 (cmdState 0x21 r d s)).2 := if_neg (ne_true_of_eq_false hrefused)
  obtain ⟨hend, htold⟩ := ended_unbuffered h (by decide) rfl rfl (by decide) heff hkept.undisturbed
  refine ⟨hend, (congrArg ACore.urgLost (core_of_told htold _)).trans ?_, pending_of_told htold hpend⟩
  rw [hlost, core_cmdState]

/-! ## CONV_CAL (R237) -/

/-- ARGS above bit 0 are the descriptor's own. -/
theorem arg_bit0 (b : Bool) (d : Desc) {hi lo : Nat} (h : lo ≠ 0) : (bit0 b d).arg hi lo = d.arg hi lo := by
  have hshift : (bit0 b d).args.toNat >>> lo = d.args.toNat >>> lo := by
    refine Nat.eq_of_testBit_eq fun i => ?_
    rw [Nat.testBit_shiftRight, Nat.testBit_shiftRight, BitVec.testBit_toNat, BitVec.testBit_toNat]
    obtain ⟨j, hj⟩ := Nat.exists_eq_succ_of_ne_zero (show lo + i ≠ 0 by omega)
    rw [hj]
    cases b with
    | true => simp [bit0]
    | false => simpa [bit0, -BitVec.reduceNot] using BitVec.lt_of_getLsbD
  rw [Desc.arg, nbits, hshift]
  rfl

theorem calStartFail_cmdState (full : Bool) (ch : List Nat) :
    calStartFail (cmdState op r d s) full ch = calStartFail s full ch :=
  of_cmdState (calStartFail · full ch) fun _ => rfl

/-- The channels of a CONV_CAL that BAD_ARG does not answer: external ones, each once (R237). -/
structure CalGroup (d : Desc) (ch : List Nat) : Prop where
  chans : calChans d = some ch
  count : d.arg 2 1 ≠ 3
  nonempty : ch ≠ []
  external : ∀ c ∈ ch, c < 152
  once : ch.Nodup

/-- The run of a phase that begins: FULL goes on from its ZERO. -/
def phaseRun (full : Bool) (ch : List Nat) (d : Desc) (q : Nat) (old : Option CalRun) : CalRun :=
  if full then { old.getD {} with n := 16 * 4 ^ d.arg 2 1, e1 := sext 32 (d.arg 34 3), acc := [], seq := q }
  else { chans := ch, n := 16 * 4 ^ d.arg 2 1, e0 := sext 32 (d.arg 34 3), seq := q }

theorem phaseRun_bit0 (b full : Bool) (ch : List Nat) (d : Desc) (q : Nat) (old : Option CalRun) :
    phaseRun full ch (bit0 b d) q old = phaseRun full ch d q old := by
  rw [phaseRun, arg_bit0 b d (hi := 2) (lo := 1) (by decide), arg_bit0 b d (hi := 34) (lo := 3) (by decide), phaseRun]

/-- The state with a phase begun. -/
def phaseBegun (full : Bool) (run : CalRun) (s : State) : State :=
  { s with cnv := { s.cnv with cal := some run, calState := if full then 3 else 1, calDone := 0 } }

/-- The state with a start refused. -/
def startRefused (res : Nat) (s : State) : State := { s with cnv := { s.cnv with calResult := res } }

section
variable {b : Bool} {ch : List Nat} {l : Live}

theorem CalGroup.argsOk {d : Desc} (h : CalGroup d ch) : (decide (d.arg 2 1 = 3) || ch.any (fun c => decide (152 ≤ c)) ||
    decide (ch.length ≠ ch.dedup.length) || ch.isEmpty) = false := by
  have hany : ch.any (fun c => decide (152 ≤ c)) = false := by simpa using h.external
  have hempty : ch.isEmpty = false := by simpa using h.nonempty
  simp [h.count, hany, hempty, h.once.dedup]

theorem cmdConvCal_begins (hg : CalGroup l.d ch) (hb : l.d.args.getLsbD 0 = b) (hw : (b && s.nv.nvwp) = false)
    (hf : calStartFail s b ch = none) :
    cmdConvCal l s = park l.seq .cal (phaseBegun b (phaseRun b ch l.d l.seq s.cnv.cal) s) := by
  unfold cmdConvCal
  simp only [hg.chans, hb]
  rw [if_neg (ne_true_of_eq_false hg.argsOk), if_neg (ne_true_of_eq_false hw), hf]
  rfl

theorem cmdConvCal_refused {f : Nat × Nat} (hg : CalGroup l.d ch) (hb : l.d.args.getLsbD 0 = b) (hw : (b && s.nv.nvwp) = false)
    (hf : calStartFail s b ch = some f) : cmdConvCal l s = finish l.seq f.1 0
      (raise 0x7A s.tsB (detC 0 0 0 (ch.headD 0) false false 0 f.2 0 0) (startRefused f.2 s)) := by
  unfold cmdConvCal
  simp only [hg.chans, hb]
  rw [if_neg (ne_true_of_eq_false hg.argsOk), if_neg (ne_true_of_eq_false hw), hf]
  rfl

theorem nvwp_cmdState : (cmdState op r d s).nv.nvwp = s.nv.nvwp := of_cmdState (fun s => s.nv.nvwp) fun _ => rfl

/-- A CONV_CAL that begins waits for the end of its phase. -/
theorem convCal_waits (h : Taken 0x22 r (bit0 b d) s) (hg : CalGroup (bit0 b d) ch) (hw : (b && s.nv.nvwp) = false)
    (hf : calStartFail s b ch = none) : Waiting 0x22 r d .cal s (hostRow 0x22 r (bit0 b d) s) ∧
      (hostRow 0x22 r (bit0 b d) s).cnv.calState = (if b then 3 else 1) ∧ (hostRow 0x22 r (bit0 b d) s).cnv.calDone = 0 ∧
      (hostRow 0x22 r (bit0 b d) s).cnv.cal = some (phaseRun b ch d s.nextSeq s.cnv.cal) := by
  have heff := cmdConvCal_begins (l := cmdLive 0x22 r (bit0 b d) s) (s := cmdState 0x22 r (bit0 b d) s)
    ⟨hg.chans, hg.count, hg.nonempty, hg.external, hg.once⟩ (getLsbD_bit0 b d) (nvwp_cmdState.symm ▸ hw)
    ((calStartFail_cmdState b ch).trans hf)
  obtain ⟨hwait, htold⟩ := waits_unbuffered h (by decide) rfl rfl (by simp) heff ⟨rfl, rfl⟩
  have hcnv := cnv_of_told htold
  refine ⟨hwait, congrArg Cnv.calState hcnv, congrArg Cnv.calDone hcnv, (congrArg Cnv.cal hcnv).trans (congrArg some ?_)⟩
  rw [cnv_cmdState]
  exact phaseRun_bit0 ..

/-- One that is refused ends, and the refusal is told. -/
theorem convCal_fails {f : Nat × Nat} (h : Taken 0x22 r (bit0 b d) s) (hg : CalGroup (bit0 b d) ch)
    (hw : (b && s.nv.nvwp) = false) (hf : calStartFail s b ch = some f) :
    Ended 0x22 r d f.1 0 s (hostRow 0x22 r (bit0 b d) s) ∧ (hostRow 0x22 r (bit0 b d) s).cnv.calState = s.cnv.calState ∧
      Pending 0x7A (hostRow 0x22 r (bit0 b d) s) := by
  have heff := cmdConvCal_refused (l := cmdLive 0x22 r (bit0 b d) s) (s := cmdState 0x22 r (bit0 b d) s)
    ⟨hg.chans, hg.count, hg.nonempty, hg.external, hg.once⟩ (getLsbD_bit0 b d) (nvwp_cmdState.symm ▸ hw)
    ((calStartFail_cmdState b ch).trans hf)
  have hraise := eventsOnly_raise 0x7A (cmdState 0x22 r (bit0 b d) s).tsB (detC 0 0 0 (ch.headD 0) false false 0 f.2 0 0)
    (startRefused f.2 (cmdState 0x22 r (bit0 b d) s))
  obtain ⟨hend, htold⟩ := ended_unbuffered h (by decide) rfl rfl (by decide) heff
    (undisturbed_of_eventsOnly (u := startRefused f.2 (cmdState 0x22 r (bit0 b d) s)) hraise)
  refine ⟨hend, ?_, pending_of_told htold (pending_raise _ _ _ _ 0x7A (by decide) (.inl rfl))⟩
  rw [cnv_of_told htold, hraise.cnv, startRefused, cnv_cmdState]

end

end

end Sys2Proof.Machine

section
open Sys2Proof Sys2Proof.Machine

/-- Settles O35: each row waits for what its effect began or ends with what refused it; an urgent slot discards a request
while it has one or its core does not convert (`State.urgRefuses`). -/
theorem convCommands : Obligations.ConvCommands := by
  have hcount {b : Bool} {d : Desc} (hn : d.arg 2 1 ≠ 3) : (bit0 b d).arg 2 1 ≠ 3 :=
    (arg_bit0 b d (hi := 2) (lo := 1) (by decide)).symm ▸ hn
  refine ⟨fun r d e s h hp hl he ht hb => ⟨_, rfl, convStart_waits h hp hl he ht hb⟩,
    fun r d s h hb => ⟨_, rfl, convStart_busy h hb⟩,
    fun r d s h => ⟨_, rfl, fun hfree => ?_, fun hbusy => ?_⟩,
    fun r d ch s h hch hn hne hext hnd hf => ⟨_, rfl, convCal_waits h ⟨hch, hcount hn, hne, hext, hnd⟩ rfl hf⟩,
    fun r d ch run s h hch hn hne hext hnd hw hc hf => ⟨_, rfl, ?_⟩,
    fun r d ch f s h hch hn hne hext hnd hf => ⟨_, rfl, convCal_fails h ⟨hch, hcount hn, hne, hext, hnd⟩ rfl hf⟩⟩
  · obtain ⟨hp, hl, hb⟩ := hfree
    exact convUrgent_waits h (by simp [State.urgRefuses, hp, hl, hb])
  · exact convUrgent_busy h (by obtain h | h | h := hbusy <;> simp [State.urgRefuses, h])
  · obtain ⟨hwait, hstate, hdone, hcal⟩ := convCal_waits h ⟨hch, hcount hn, hne, hext, hnd⟩ hw hf
    rw [hc] at hcal
    exact ⟨hwait, hstate, hdone, hcal⟩

end

/-! # Faults of a stage, and HICCUP (R264, R269 to R272, R276, R277) -/

namespace Sys2Proof.Machine

/-! ## What a reaction to faults leaves of the stages (R104, R140, R151) -/

/-- A stage but for who waits for it and the retry that its policy decides (R104, R151). -/
def Stg.core (x : Stg) : Stg := { x with waiters := [], backoff := none, retry := none }

/-- The stages as their faults made them. -/
def State.stages (s : State) : Nat → Stg := fun k => (s.stg k).core

/-- `t` has the stages of `s`, and its sources are still pending. -/
structure StagesKept (s t : State) : Prop where
  stages : t.stages = s.stages
  pend : ∀ n, n < 256 → Pending n s → Pending n t

section
variable {s t u : State}

theorem StagesKept.refl (s : State) : StagesKept s s := ⟨rfl, fun _ _ h => h⟩

theorem StagesKept.trans (h : StagesKept s t) (g : StagesKept t u) : StagesKept s u :=
  ⟨g.stages.trans h.stages, fun n hn hp => g.pend n hn (h.pend n hn hp)⟩

theorem StagesKept.of_evt (h : t.stages = s.stages) (he : t.evt = s.evt) : StagesKept s t :=
  ⟨h, fun n _ hp => by rw [Pending, he]; exact hp⟩

theorem stages_of_stgs (h : t.stgs = s.stgs) : t.stages = s.stages := by
  funext k
  rw [State.stages, State.stages, State.stg, h, State.stg]

theorem stagesKept_raise (src : Nat) (ts : Ts) (d : BitVec 128) (s : State) : StagesKept s (raise src ts d s) :=
  ⟨stages_of_stgs (eventsOnly_raise ..).stgs, fun n hn hp => pending_raise _ _ _ _ n hn (.inr hp)⟩

theorem stages_of_keepPins (h : t.keepPins = s.keepPins) : t.stages = s.stages := by
  simp only [State.keepPins, Prod.mk.injEq] at h
  obtain ⟨-, -, -, -, -, -, -, -, -, -, -, -, -, -, -, -, -, -, -, -, hstgs, -⟩ := h
  exact stages_of_stgs hstgs

end

section
variable (s : State)

/-- A change of a stage that its core does not see. -/
theorem stages_modStg (st : Nat) {f : Stg → Stg} (hf : ∀ x, (f x).core = x.core) : (s.modStg st f).stages = s.stages := by
  funext k
  rw [State.stages, State.modStg_stg]
  split
  · next h => rw [hf, h, State.stages]
  · rfl

theorem stages_modRail (i : Nat) (f : Rail → Rail) : (s.modRail i f).stages = s.stages := rfl

theorem stages_withdrawItem (it : Item) : (withdrawItem it s).stages = s.stages := by
  unfold withdrawItem
  exact kept_branch State.stages rfl (kept_branch State.stages rfl (kept_ite State.stages rfl))

theorem stages_withdrawCmd (c : RailCmd) : (withdrawCmd c s).stages = s.stages := by
  cases c <;> rfl

theorem stages_withdrawMargin (m : MOp) : (withdrawMargin m s).stages = s.stages := kept_ite State.stages rfl

theorem stages_disown (n : Nat) : (disown n s).stages = s.stages := by
  unfold disown
  extract_lets a q b c
  have ha : a.stages = s.stages := each_keep State.stages (fun m u => stages_withdrawMargin u m) _ s
  clear_value a
  refine (each_keep State.stages (fun st u => ?_) _ c).trans ha
  exact kept_ite State.stages (stages_modStg u st fun _ => rfl)

theorem stages_progEnd (n status step : Nat) : (progEnd n status step s).stages = s.stages := by
  have hitems : (each (s.prog n).items withdrawItem s).stages = s.stages :=
    each_keep State.stages (fun it u => stages_withdrawItem u it) _ s
  have hstop (u : State) : (stopCmds n u).stages = u.stages :=
    each_keep State.stages (fun c u => stages_withdrawCmd u c) _ { u with seq := { u.seq with
      cmds := u.seq.cmds.filter fun c => !(c.2.ofProg n) } }
  unfold progEnd
  extract_lets a b
  have hb : b.stages = a.stages := kept_ite State.stages (hstop a)
  exact hb.trans ((stages_disown _ n).trans hitems)

theorem stages_withdrawRails (l : List Nat) : (withdrawRails l s).stages = s.stages := by
  unfold withdrawRails
  extract_lets g a b c q
  have ha : a.stages = s.stages := by
    refine each_keep State.stages (fun n u => ?_) _ s
    exact kept_ite State.stages (each_keep State.stages (fun it u => stages_withdrawItem u it) _ u)
  clear_value a
  have hb : b.stages = a.stages := by
    refine each_keep State.stages (fun i u => ?_) _ a
    exact stages_of_keepPins ((keepPins_alogWithdraw ..).trans ((keepPins_commitEnd ..).trans (keepPins_modRail ..)))
  clear_value b
  exact (each_keep State.stages (fun c u => stages_withdrawCmd u c) _ _).trans (hb.trans ha)

theorem stages_dropResumes : (dropResumes s).stages = s.stages := by
  unfold dropResumes
  refine kept_ite State.stages (each_keep State.stages (fun i u => ?_) _ s)
  rfl

theorem stages_fullRunActs : (fullRunActs s).stages = s.stages := by
  unfold fullRunActs
  extract_lets a b
  have ha : a.stages = s.stages := each_keep State.stages (fun n u => stages_progEnd u n 3 (u.prog n).current) _ s
  clear_value a
  have hb : b.stages = a.stages :=
    kept_branch State.stages rfl ((congrArg State.stages (offTell_finishAll _ stStopped 0 a) :))
  exact hb.trans ha

theorem stages_offRequest (src groups : Nat) (full : Bool) : (offRequest src full groups s).stages = s.stages := by
  unfold offRequest
  split
  · rfl
  · extract_lets l a b c rel held e was q o u
    have ha : a.stages = s.stages := stages_withdrawRails s l
    clear_value a
    have hb : b.stages = a.stages := (congrArg State.stages (offCounts_cancelRestarts full l a) :)
    clear_value b
    have hc : c.stages = b.stages := stages_dropResumes b
    clear_value c
    have he : e.stages = s.stages := (each_keep State.stages
      (fun i x => stages_of_keepPins (keepPins_cancelRetry i x)) held c).trans (hc.trans (hb.trans ha))
    split
    · exact (stages_fullRunActs u).trans he
    · exact he

theorem stages_offRelay (full : Bool) (groups : Nat) (sysrst : Bool) : (offRelay full groups sysrst s).stages = s.stages := by
  have hsend (f : Nat → CmdRec) (u : State) : (toMembers f u).stages = u.stages :=
    (congrArg State.stages (toMembers_sca f u) :)
  unfold offRelay
  exact kept_branch State.stages rfl (kept_branch State.stages ((hsend ..).trans (hsend ..)) (hsend ..))

theorem stages_groupReaction (groups : Nat) : (groupReaction groups s).stages = s.stages := by
  have howed (l : List Nat) (u : State) : (each l (fun n s => s.modGrp n fun g => { g with owed := true }) u).stages = u.stages :=
    each_keep State.stages (fun n u => stages_of_stgs (State.modGrp_stgs n _ u)) l u
  have hrun : (offGroupFault groups s).stages = s.stages :=
    kept_branch State.stages (stages_offRequest ..) ((howed ..).trans (stages_offRequest ..))
  exact (stages_offRelay ..).trans hrun

theorem stages_sysReaction : (sysReaction s).stages = s.stages := by
  have hassert : (assertSysrst s).stages = s.stages := kept_branch State.stages rfl rfl
  exact (stages_offRelay ..).trans ((stages_offRequest (assertSysrst s) 1 0 true).trans hassert)

theorem stages_joinRun (i : Nat) : (joinRun i s).stages = s.stages := by
  unfold joinRun
  extract_lets u
  have hu : u.stages = s.stages := stages_of_keepPins (keepPins_cancelRetry i s)
  have hjoin (o : Off) : State.stages { u with off := o } = u.stages := rfl
  exact kept_ite State.stages (kept_branch State.stages hu ((hjoin _).trans hu))

theorem stages_dropRail (i : Nat) : (dropRail i s).stages = s.stages := by
  unfold dropRail
  exact kept_branch State.stages rfl (kept_branch State.stages
    (kept_ite State.stages (stages_of_keepPins (keepPins_foldEnd i s)))
    (stages_of_keepPins ((keepPins_setRState ..).trans (keepPins_setEn ..))))

theorem stages_setRState (i : Nat) (st : RState) : (setRState i st s).stages = s.stages :=
  stages_of_keepPins (keepPins_setRState ..)

theorem stages_applyDrop (i : Nat) (v : Verdict) (kinds : List Nat) : (applyDrop i v kinds s).stages = s.stages := by
  unfold applyDrop
  extract_lets u
  have hu : u.stages = s.stages := stages_dropRail s i
  exact kept_branch State.stages (kept_branch State.stages ((stages_modRail ..).trans hu) hu)
    (kept_branch State.stages hu (kept_ite State.stages (stages_setRState ..)))

theorem stages_reactRail (i : Nat) (l : List FQ) (shut : Bool) : (reactRail i l shut s).2.stages = s.stages := by
  unfold reactRail
  extract_lets w r kinds m vio held v fill prim a b c d
  have hb : b.stages = s.stages := stages_applyDrop a i v kinds
  have hc : c.stages = s.stages := kept_branch State.stages ((stages_modRail ..).trans hb) hb
  have hd : d.stages = c.stages := kept_branch State.stages
    ((stages_joinRun ..).trans (stages_groupReaction ..))
    (kept_ite State.stages ((stages_joinRun ..).trans (stages_sysReaction c)))
  split
  · exact kept_ite State.stages (stages_setRState a ..)
  · exact hd.trans hc

theorem stages_queueFault (f : FQ) : (queueFault f s).stages = s.stages := by
  unfold queueFault
  split
  · exact kept_branch State.stages rfl rfl
  · rfl

theorem stages_rowFirst (f : RFF) : (rowFirst f s).stages = s.stages := by
  have hput (r : RFF) : State.stages { s with sca := { s.sca with rff := some r } } = s.stages := rfl
  unfold rowFirst
  split
  · exact hput f
  · exact kept_branch State.stages rfl (kept_branch State.stages rfl (kept_branch State.stages (hput f)
      (kept_branch State.stages (hput f) (kept_branch State.stages rfl (hput _)))))

theorem stages_captureFirst (prims all : List FQ) : (captureFirst prims all s).stages = s.stages := by
  unfold captureFirst
  split
  · rfl
  · split
    · rfl
    · exact stages_rowFirst ..

theorem foldl_keep {α β γ : Type} (P : β → γ) {f : β → α → β} (hf : ∀ b a, P (f b a) = P b) (l : List α) (b : β) :
    P (l.foldl f b) = P b := by
  induction l generalizing b with
  | nil => rfl
  | cons a l ih => exact (ih _).trans (hf b a)

/-- A reaction to faults of rails leaves the stages alone, but for programs that no longer wait (R104, R140). -/
theorem stages_faultLogic (shut : List Nat) : (faultLogic shut s).stages = s.stages := by
  unfold faultLogic
  extract_lets l x u rails p
  have hp : p.2.2.stages = s.stages :=
    foldl_keep (fun q : List FQ × List FQ × State => q.2.2.stages) (fun q i => stages_reactRail ..) rails ([], [], u)
  exact (stages_captureFirst ..).trans ((each_keep State.stages (fun f u => stages_queueFault u f) _ _).trans hp)

/-- What is found of rails beside a stage fault is handled without a stage or an event of it (R154). -/
theorem stagesKept_reactIn (shut : List Nat) : StagesKept s (reactIn shut s) :=
  .of_evt (kept_branch State.stages rfl (stages_faultLogic s shut))
    (kept_branch State.evt rfl (keepReact_evt_of (keepReact_faultLogic shut s)))

end

/-! ## A stage enters SAFE_OFF (R151, R276, R277) -/

section
variable {st k cause : Nat} {s t u : State}

theorem eventsOnly_stgEvent (st k ph why : Nat) (s : State) : EventsOnly s (stgEvent st k ph why s) := eventsOnly_raise ..

theorem pending_stgEvent (hst : st < 4) (hk : k < 8) (ph why : Nat) (s : State) :
    Pending (0x80 + 8 * st + k) (stgEvent st k ph why s) :=
  pending_raise _ _ _ _ _ (by omega) (.inl rfl)

theorem stagesKept_stgEvent (st k ph why : Nat) (s : State) : StagesKept s (stgEvent st k ph why s) := stagesKept_raise ..

theorem stagesKept_stageTell (st code status : Nat) (s : State) : StagesKept s (stageTell st code status s) := by
  have htell := offTell_stageTell st code status s
  have hwait : (s.modStg st fun x => { x with waiters := [] }).stages = s.stages := stages_modStg s st fun _ => rfl
  exact .of_evt (Eq.trans (congrArg State.stages htell :) hwait) (congrArg State.evt htell :)

theorem clearPhases_stgs (st : Nat) (lim : Bool) (s : State) : (clearPhases st lim s).stgs = s.stgs :=
  each_keep State.stgs (by intros; rfl) _ s

theorem stagesKept_detect (kind : Nat) (dir : Bool) (onset : Ts) (i : Nat) (s : State) :
    StagesKept s (detect kind dir onset i s) := by
  unfold detect
  extract_lets u
  have hu : StagesKept s u := by
    refine .of_evt (kept_branch State.stages rfl (stages_modRail ..)) (kept_branch State.evt rfl ?_)
    rfl
  exact hu.trans (.of_evt rfl rfl)

/-- A stage of which a fault took hold (R277). -/
def Stg.faultedBy (cause : Nat) (now : Frame) (x : Stg) : Stg := { x.halted .safeOff with
  sp := 0, bqs := [{}, {}, {}, {}], integ := 0, xPrev := 0, faulted := true, fcause := cause, faultAt := some now, hicLeft := 0 }

/-- The stage of `t` is in SAFE_OFF as the fault made it, the others are as in `s` (R276, R277). -/
structure SafeOffFrom (st cause : Nat) (s t : State) : Prop where
  stages : t.stages = (s.modStg st (Stg.faultedBy cause s.clk.frame)).stages
  pend : Pending (0x80 + 8 * st) t

theorem SafeOffFrom.kept (h : SafeOffFrom st cause s t) (hst : st < 4) (g : StagesKept t u) : SafeOffFrom st cause s u :=
  ⟨g.stages.trans h.stages, g.pend _ (by omega) h.pend⟩

theorem SafeOffFrom.safeOffBy (h : SafeOffFrom st cause s t) : SafeOffBy st cause t := by
  have hown : (t.stg st).core = ((s.stg st).faultedBy cause s.clk.frame).core := by
    refine (congrFun h.stages st).trans ?_
    rw [State.stages, State.modStg_stg_same]
  exact ⟨congrArg Stg.st hown, congrArg Stg.fcause hown, congrArg Stg.switching hown, congrArg Stg.sp hown, h.pend⟩

theorem SafeOffFrom.found (h : SafeOffFrom st cause s t) (j : Nat) : (t.stg j).found = (s.stg j).found := by
  refine (congrArg Stg.found (congrFun h.stages j) :).trans ?_
  rw [State.stages, State.modStg_stg]
  split
  · next hj => rw [hj]; rfl
  · rfl

/-- SAFE_OFF of the stage; of the rest of the stages only who waits for them, of the events only more (R152, R277). -/
theorem safeOff_from (hst : st < 4) (cause : Nat) (s : State) : SafeOffFrom st cause s (safeOff st cause s) := by
  unfold safeOff
  extract_lets a b c d
  have hb : b.stages = (s.modStg st (Stg.faultedBy cause s.clk.frame)).stages := by
    refine (stages_of_stgs (clearPhases_stgs ..)).trans ?_
    have hclk : a.clk = s.clk := (congrArg State.clk (offStages_stageHalt s st .safeOff) :)
    funext j
    rw [State.stages, State.stages, State.modStg_stg, State.modStg_stg, stageHalt_stg, stageHalt_stg, if_pos rfl, hclk]
    split <;> rfl
  have hc : StagesKept b c := stagesKept_stgEvent st 0 0 0 b
  have hpend : Pending (0x80 + 8 * st) c := pending_stgEvent hst (by decide) 0 0 b
  have hd : StagesKept c d := stagesKept_stageTell ..
  have hrails := each_invariant (StagesKept d) (f := fun i s =>
    if s.cb (fbase i) 18 && s.cf (fbase i) 20 19 = st && (s.rail i).st.live then detect 6 false s.tsB i s else s)
    (fun i u hu => by
      split
      · exact hu.trans (stagesKept_detect ..)
      · exact hu) railList d (.refl d)
  exact ⟨(hc.trans (hd.trans hrails)).stages.trans hb, (hd.trans hrails).pend _ (by omega) hpend⟩

/-- The stage's policy decides its retry, and what becomes of its group or the part (R151). -/
theorem stagesKept_stagePolicy (st : Nat) (s : State) : StagesKept s (stagePolicy st s) := by
  have hgroup (g : Nat) (u : State) : StagesKept u (groupReaction g u) :=
    .of_evt (stages_groupReaction u g) (keepReact_evt_of (keepReact_groupReaction g u))
  have hsys (u : State) : StagesKept u (sysReaction u) :=
    .of_evt (stages_sysReaction u) (keepReact_evt_of (keepReact_sysReaction u))
  unfold stagePolicy
  extract_lets w grp m x d v
  split
  · exact .refl s
  split
  · split
    · exact .of_evt (stages_modStg s st fun _ => rfl) rfl
    split
    · exact (stagesKept_raise ..).trans (hgroup ..)
    split
    · exact (stagesKept_raise ..).trans (hsys _)
    · exact stagesKept_raise ..
  split
  · exact hgroup ..
  · exact (stagesKept_raise ..).trans (hsys _)

/-- A stage that may fault is in SAFE_OFF, the others are as they were. -/
theorem stageFault_safeOff (hst : st < 4) (hf : (s.stg st).st.faultable = true) :
    SafeOffFrom st cause s (stageFault st cause s) := by
  unfold stageFault
  rw [if_pos hf]
  exact (safeOff_from hst cause s).kept hst (stagesKept_stagePolicy ..)

/-! ## What the hardware monitors found, at order 3 (R270 to R272, R276) -/

/-- The state with what was found of a stage taken. -/
def foundTaken (st : Nat) (s : State) : State := s.modStg st fun x => { x with found := none, hicFound := false }

/-- The fault found of one stage acts (R276). -/
def actOnFound (st : Nat) (s : State) : State :=
  match (s.stg st).found with
  | some c => stageFault st c (foundTaken st s)
  | none => s

theorem stageFaults_eq (s : State) : stageFaults s = each [0, 1, 2, 3] actOnFound s := rfl

theorem each_actOnFound_none {l : List Nat} (h : ∀ j ∈ l, (s.stg j).found = none) : each l actOnFound s = s := by
  unfold each
  induction l with
  | nil => rfl
  | cons j l ih =>
    have hj : actOnFound j s = s := by unfold actOnFound; rw [h j (List.mem_cons_self ..)]
    rw [List.foldl_cons, hj]
    exact ih fun i hi => h i (List.mem_cons_of_mem _ hi)

theorem stageFaults_none (h : NoStageFound s) : stageFaults s = s :=
  each_actOnFound_none fun j hj => h j (by simp at hj; omega)

/-- The one fault found acts on its stage (R276). -/
theorem stageFaults_one (hst : st < 4) (hf : (s.stg st).st.faultable = true) (hown : (s.stg st).found = some cause)
    (hothers : ∀ j, j < 4 → j ≠ st → (s.stg j).found = none) :
    SafeOffFrom st cause (foundTaken st s) (stageFaults s) := by
  have hact : actOnFound st s = stageFault st cause (foundTaken st s) := by unfold actOnFound; rw [hown]
  have hsafe : SafeOffFrom st cause (foundTaken st s) (actOnFound st s) :=
    hact ▸ stageFault_safeOff hst (by simpa [foundTaken] using hf)
  have hlater (j : Nat) (hj : j < 4) : ((actOnFound st s).stg j).found = none := by
    rw [hsafe.found, foundTaken, State.modStg_stg]
    split
    · rfl
    · next hne => exact hothers j hj hne
  obtain ⟨l, m, hl⟩ := List.append_of_mem (show st ∈ [0, 1, 2, 3] by simp; omega)
  have honce : st ∉ l ++ m := (List.nodup_cons.1 (List.nodup_middle.1 (hl ▸ (by decide)))).1
  have hlt (j : Nat) (hj : j ∈ l ++ st :: m) : j < 4 := by rw [← hl] at hj; simp at hj; omega
  have hbefore : each l actOnFound s = s := each_actOnFound_none fun j hj =>
    hothers j (hlt j (by simp [hj])) fun h => honce (by simp [← h, hj])
  have hafter : each m actOnFound (actOnFound st s) = actOnFound st s :=
    each_actOnFound_none fun j hj => hlater j (hlt j (by simp [hj]))
  rw [stageFaults_eq, hl, each_append, hbefore]
  exact hafter ▸ hsafe

/-- A monitor's finding faults its stage, where nothing else was found (R270 to R272, R276). -/
theorem monitorFault_safeOff (hst : st < 4) (hf : (s.stg st).st.faultable = true) (hn : NoStageFound s) :
    SafeOffBy st cause (monitorFault st cause s) := by
  have hstg (j : Nat) : (stgFound st cause s).stg j =
      if j = st then { s.stg st with found := some cause } else s.stg j := by
    unfold stgFound
    rw [if_pos hf, State.modStg_stg, hn st hst]
  have hown := (hstg st).trans (if_pos rfl)
  refine ((stageFaults_one hst ?_ ?_ fun j hj hne => ?_).kept hst (stagesKept_reactIn ..)).safeOffBy
  · rw [hown]
    exact hf
  · rw [hown]
  · rw [hstg, if_neg hne]
    exact hn j hj

theorem noStageFound_modStg {f : Stg → Stg} (hf : ∀ x, (f x).found = x.found) (hn : NoStageFound s) :
    NoStageFound (s.modStg st f) := fun k hk => by
  rw [State.modStg_stg]
  split
  · next h => rw [hf, ← h, hn k hk]
  · exact hn k hk

theorem SState.faultable_of_running {x : SState} (h : x.running = true) : x.faultable = true := by
  rw [SState.faultable, h, Bool.true_or]

theorem SState.running_of_isReg {x : SState} (h : x.isReg = true) : x.running = true := by
  cases x <;> simp_all [SState.isReg, SState.running]

theorem senseOpenNow_safeOff {l : List Int} (hst : st < 4) (ha : s.cb (sbase st) 9 = true)
    (hf : (s.stg st).st.faultable = true) (hn : NoStageFound s) : SafeOffBy st 1 (senseOpenNow st l s) := by
  unfold senseOpenNow
  rw [if_pos ha]
  extract_lets x
  exact monitorFault_safeOff hst (by simpa using hf) (noStageFound_modStg (fun _ => rfl) hn)

theorem nofbNow_safeOff (hst : st < 4) (hr : (s.stg st).st.running = true)
    (hs : (s.stg st).st ≠ .kindling ∨ (s.stg st).switching = true) (hn : NoStageFound s) :
    SafeOffBy st 3 (nofbNow st s) := by
  unfold nofbNow
  rw [if_pos (by simpa [hr] using hs)]
  exact monitorFault_safeOff hst (by simpa using SState.faultable_of_running hr) (noStageFound_modStg (fun _ => rfl) hn)

theorem kindleTimeout_safeOff (hst : st < 4) (hk : (s.stg st).st = .kindling) (hp : (s.stg st).preset = true) :
    SafeOffBy st 11 (kindleTimeout st s) := by
  unfold kindleTimeout
  rw [if_pos (by simp [hk, hp])]
  exact ((stageFault_safeOff hst (by simp [hk]; rfl)).kept hst (stagesKept_reactIn ..)).safeOffBy

theorem overrunSafe_safeOff (hst : st < 4) (hf : (s.stg st).st.faultable = true) :
    SafeOffBy st 8 (overrunSafe st (s.modEng (4 + st) fun x => { x with consec := 3 })) := by
  have hconsec : ((s.modEng (4 + st) fun x => { x with consec := 3 }).eng (4 + st)).consec = 3 := by
    rw [State.modEng_eng_same]
  unfold overrunSafe
  rw [if_pos hconsec]
  exact (stageFault_safeOff hst (s := s.modEng (4 + st) _) hf).safeOffBy

/-! ## HICCUP (R269) -/

/-- The state with a reached limit of the stage taken up (R269). -/
def limitTaken (st : Nat) (s : State) : State :=
  (s.modStg st fun x => { x with hicFound := true }).modStg st fun x => { x with hicFound := false }

/-- A stage in HICCUP, where it rests so long; the hiccup is counted (R269). -/
def hiccupped (rest : Nat) (x : Stg) : Stg := { x.halted .hiccup with
  hicLeft := rest, consecHic := sat 255 (x.consecHic + 1), hiccups := sat 0xFFFF (x.hiccups + 1) }

/-- The state with the stage in HICCUP (R269). -/
def inHiccup (st : Nat) (s : State) : State := (stageHalt st .hiccup (limitTaken st s)).modStg st fun x => { x with
  hicLeft := orDef ((limitTaken st s).sfld st 0x18 15 0) 1
  consecHic := sat 255 (x.consecHic + 1), hiccups := sat 0xFFFF (x.hiccups + 1) }

/-- The state with the hiccup told (R269, R478). -/
def hiccupTold (st : Nat) (s : State) : State := stgEvent st 1 0 0 (inHiccup st s)

theorem limitTaken_stg (st j : Nat) (s : State) :
    (limitTaken st s).stg j = if j = st then { s.stg st with hicFound := false } else s.stg j := by
  rw [limitTaken, State.modStg_stg, State.modStg_stg_same, State.modStg_stg]
  split <;> rfl

theorem inHiccup_stg (st j : Nat) (s : State) :
    (inHiccup st s).stg j = if j = st then hiccupped (orDef (s.sfld st 0x18 15 0) 1) (s.stg st) else s.stg j := by
  rw [inHiccup, State.modStg_stg, stageHalt_stg, stageHalt_stg, if_pos rfl, limitTaken_stg, limitTaken_stg, if_pos rfl]
  split <;> rfl

theorem parts_of_offStages (h : t.offStages = s.offStages) : t.rails = s.rails ∧ t.flt = s.flt :=
  ⟨(congrArg State.rails h :), (congrArg State.flt h :)⟩

theorem eventsOnly_hiccupTold (st : Nat) (s : State) : EventsOnly (inHiccup st s) (hiccupTold st s) := eventsOnly_stgEvent ..

theorem hiccupTold_stg (st j : Nat) (s : State) :
    (hiccupTold st s).stg j = if j = st then hiccupped (orDef (s.sfld st 0x18 15 0) 1) (s.stg st) else s.stg j := by
  rw [State.stg, (eventsOnly_hiccupTold st s).stgs]
  exact inHiccup_stg st j s

/-- Rails and their faults are no part of a hiccup. -/
theorem hiccupTold_parts (st : Nat) (s : State) : (hiccupTold st s).rails = s.rails ∧ (hiccupTold st s).flt = s.flt := by
  obtain ⟨hrails, hflt⟩ := parts_of_offStages (offStages_stageHalt (limitTaken st s) st .hiccup)
  have hev := eventsOnly_hiccupTold st s
  constructor
  · rw [hev.rails, inHiccup, State.modStg_rails, hrails, limitTaken, State.modStg_rails, State.modStg_rails]
  · rw [hev.flt, inHiccup, State.modStg_flt, hflt, limitTaken, State.modStg_flt, State.modStg_flt]

/-- What becomes of a limit reached by a running stage of which nothing is found (R269). -/
theorem hiccupNow_eq (hst : st < 4) (hr : (s.stg st).st.running = true) (hn : NoStageFound s) : hiccupNow st s =
    reactIn s.runSet (stageFaults (
      if s.sfld st 0x18 23 16 = 0 ∨ (s.stg st).consecHic < s.sfld st 0x18 23 16 then
        hiccupTold st s
      else stgFound st 6 (limitTaken st s))) := by
  have hlimit : ((s.modStg st fun x => { x with hicFound := true }).stg st) = { s.stg st with hicFound := true } :=
    State.modStg_stg_same ..
  have hfree : ((s.stg st).found.isSome || !(s.stg st).st.running) = false := by rw [hn st hst, hr]; rfl
  unfold hiccupNow hiccupStep
  rw [if_pos hr, hlimit]
  dsimp only
  rw [if_neg (by decide), if_neg (ne_true_of_eq_false hfree)]
  refine congrArg (fun u => reactIn s.runSet (stageFaults u)) (if_congr ?_ rfl rfl)
  rw [Bool.or_eq_true, decide_eq_true_iff, decide_eq_true_iff]
  rfl

/-- A stage that has hiccupped as often as its limit allows faults (R269, R276). -/
theorem hiccupNow_limit (hst : st < 4) (hr : (s.stg st).st.running = true) (hlim : s.sfld st 0x18 23 16 ≠ 0)
    (hc : s.sfld st 0x18 23 16 ≤ (s.stg st).consecHic) (hn : NoStageFound s) : SafeOffBy st 6 (hiccupNow st s) := by
  have heq : hiccupNow st s = monitorFault st 6 (limitTaken st s) := by
    rw [hiccupNow_eq hst hr hn, if_neg (by omega)]
    rfl
  rw [heq]
  exact monitorFault_safeOff hst (by rw [limitTaken_stg, if_pos rfl]; exact SState.faultable_of_running hr)
    (noStageFound_modStg (fun _ => rfl) (noStageFound_modStg (fun _ => rfl) hn))

/-- With hiccups left the stage rests in HICCUP and only its event comes of it (R269). -/
theorem hiccupNow_rests (hst : st < 4) (hr : (s.stg st).st.running = true)
    (hlim : s.sfld st 0x18 23 16 = 0 ∨ (s.stg st).consecHic < s.sfld st 0x18 23 16) (hn : NoStageFound s)
    (hf : s.flt.found = []) : hiccupNow st s = hiccupTold st s := by
  have hnone : NoStageFound (hiccupTold st s) := fun k hk => by
    rw [hiccupTold_stg]
    split
    · exact hn st hst
    · exact hn k hk
  rw [hiccupNow_eq hst hr hn, if_pos hlim, stageFaults_none hnone, reactIn, (hiccupTold_parts st s).2, hf]
  rfl

/-- The state without the stages and their phases. -/
def State.offPhases (s : State) : State := { s with stgs := [], phases := [] }

theorem eq_of_offPhases (h : t.offPhases = s.offPhases) : t = { s with stgs := t.stgs, phases := t.phases } :=
  (congrArg (fun x : State => { x with stgs := t.stgs, phases := t.phases }) h :)

/-- A start in KINDLING: the limit counts and trims of its phases are 0 (R264). -/
theorem kindle_spec (st : Nat) (s : State) : ((kindle st s).stg st).st = .kindling ∧ ((kindle st s).stg st).preset = true ∧
    ((kindle st s).stg st).switching = false ∧
    (∀ k, k < 8 → ((kindle st s).phase (8 * st + k)).trim = 0 ∧ ((kindle st s).phase (8 * st + k)).limcnt = 0) ∧
    (∀ j, j ≠ st → (kindle st s).stg j = s.stg j) ∧ (kindle st s).offPhases = s.offPhases := by
  unfold kindle
  generalize hu : s.modStg st _ = u
  have hstg (j : Nat) : (clearPhases st true u).stg j = u.stg j := by rw [State.stg, clearPhases_stgs, State.stg]
  have hown : u.stg st = _ := hu ▸ State.modStg_stg_same ..
  refine ⟨?_, ?_, ?_, fun k hk => ?_, fun j hj => ?_, ?_⟩
  · rw [hstg, hown]
  · rw [hstg, hown]
  · rw [hstg, hown]
  · have hphase := each_modPhase_phase u (fun p => { p with trim := 0, limcnt := 0 }) (8 * st) 8 (8 * st + k)
    rw [if_pos (by omega)] at hphase
    exact ⟨congrArg Phase.trim hphase, congrArg Phase.limcnt hphase⟩
  · rw [hstg, ← hu, State.modStg_stg, if_neg hj]
  · exact (each_keep State.offPhases (by intros; rfl) _ u).trans (hu ▸ rfl)

/-- The rest over, the stage kindles, from the state with no rest left (R269). -/
theorem hiccupOver_eq (hs : (s.stg st).st = .hiccup) :
    hiccupOver st s = kindle st (s.modStg st fun x => { x with hicLeft := 0 }) := by
  unfold hiccupOver hiccupEnd
  rw [if_pos (by simp [hs])]

theorem limitTrip_spec {p : Nat} (c : Bool) (hs : (s.stg (p / 8)).switching = true)
    (hh : (s.healthy (p / 8)).contains (p % 8) = true) :
    ((limitTrip p c s).phase p).limcnt = (if c then sat 255 ((s.phase p).limcnt + 1) else 1) ∧
      (orDef (s.sfld (p / 8) 0x14 25 18) 1 ≤ ((limitTrip p c s).phase p).limcnt →
        ((limitTrip p c s).stg (p / 8)).hicFound = true) ∧
      (∀ j, j ≠ p → (limitTrip p c s).phase j = s.phase j) ∧
      limitTrip p c s = { s with stgs := (limitTrip p c s).stgs, phases := (limitTrip p c s).phases } := by
  unfold limitTrip
  extract_lets n u
  rw [if_neg (by rw [hs, hh]; decide)]
  have hn : (u.phase p).limcnt = if c then sat 255 ((s.phase p).limcnt + 1) else 1 := by simp [u]
  have hphase (j : Nat) (hj : j ≠ p) : u.phase j = s.phase j := by simp [u, hj]
  split
  · exact ⟨hn, fun _ => by simp [n], hphase, rfl⟩
  · next hle => exact ⟨hn, fun h => absurd h hle, hphase, rfl⟩

theorem hicHeal_eq (hr : (s.stg st).st.isReg = true) (hh : s.sfld st 0x0C 27 20 ≠ 0) :
    hicHeal st s = s.modStg st fun x => { x with regTicks := max (s.sfld st 0x0C 27 20) x.regTicks, consecHic := 0 } :=
  if_pos (by simp [hr, hh])

end

end Sys2Proof.Machine

section
open Sys2Proof Sys2Proof.Machine

/-- Settles O15: a fault takes hold of its stage alone (`SafeOffFrom`), and what reactions and events come of it keep the stages
(`StagesKept`); a limit reached is either such a fault or the rest in HICCUP (`hiccupNow_eq`). -/
theorem stageFaultsAndHiccup : Obligations.StageFaultsAndHiccup := by
  refine ⟨fun st s hst hk hp => completes_onStage hst rfl (kindleTimeout_safeOff hst hk hp),
    fun st l s hst ha hf hn => completes_onStage hst rfl (senseOpenNow_safeOff hst ha hf hn),
    fun st s hst hs hf hn => completes_onStage hst rfl ?_,
    fun st s hst hr hs hn => completes_onStage hst rfl (nofbNow_safeOff hst hr hs hn),
    fun st s hst ho hr hn => completes_onStage hst rfl ?_,
    fun st s hst hu hr hn => completes_onStage hst rfl ?_,
    fun st s hst hf => ⟨_, congrArg Next (if_pos hst), overrunSafe_safeOff hst hf⟩,
    fun st s hst hr hl hc hn => completes_onStage hst rfl (hiccupNow_limit hst hr hl hc hn),
    fun st s hst hr hl hn hf => completes_onStage hst rfl ?_,
    fun st s hst hs => completes_onStage hst rfl ?_,
    fun p c s hp hs hh => ⟨_, congrArg Next (if_pos hp), limitTrip_spec c hs hh⟩,
    fun st s hst hr hh => completes_onStage hst rfl ?_⟩
  · rw [frozenNow, if_pos hs]
    exact monitorFault_safeOff hst hf hn
  · rw [ovNow, if_pos (by simp [ho, hr])]
    exact monitorFault_safeOff hst (SState.faultable_of_running hr) hn
  · rw [uvNow, if_pos (by simp [hu, hr])]
    exact monitorFault_safeOff hst (SState.faultable_of_running (SState.running_of_isReg hr)) hn
  · rw [hiccupNow_rests hst hr hl hn hf]
    have hown := (hiccupTold_stg st st s).trans (if_pos rfl)
    have hpend : Pending (0x80 + 8 * st + 1) (hiccupTold st s) := pending_stgEvent hst (by decide) ..
    exact ⟨congrArg Stg.st hown, congrArg Stg.switching hown, congrArg Stg.hicLeft hown, congrArg Stg.consecHic hown,
      congrArg Stg.hiccups hown, by rwa [show 0x81 + 8 * st = 0x80 + 8 * st + 1 by omega],
      fun j hj => (hiccupTold_stg st j s).trans (if_neg hj), (hiccupTold_parts st s).1⟩
  · obtain ⟨hkind, hpre, hsw, hphase, hstg, hrest⟩ := kindle_spec st (s.modStg st fun x => { x with hicLeft := 0 })
    rw [hiccupOver_eq hs]
    exact ⟨hkind, hpre, hsw, hphase, fun j hj => (hstg j hj).trans ((State.modStg_stg ..).trans (if_neg hj)),
      eq_of_offPhases hrest⟩
  · rw [hicHeal_eq hr hh]
    exact ⟨by simp, by simp, by simp, fun j hj => by simp [hj], rfl⟩

end

/-! # Every command answers a next state (log 4) -/

namespace Sys2Proof.Machine

/-- Every arm of the dispatch is a next state. -/
theorem exec_eq_runCmd (c : Instr) (s : State) : exec c s = .next (runCmd c s) := by
  cases c <;> rfl

end Sys2Proof.Machine

section
open Sys2Proof Sys2Proof.Machine

/-- Settles O53: a command goes on by `exec_eq_runCmd`, and a step runs the front of the queue or idles (`stepRunsFront`). -/
theorem everyStepGoesOn : Obligations.EveryStepGoesOn := by
  obtain ⟨-, hfront, hidle⟩ := stepRunsFront
  refine ⟨fun c s => ⟨_, exec_eq_runCmd c s⟩, fun s => ?_⟩
  cases hq : s.pending with
  | nil => exact ⟨s, hidle s hq⟩
  | cons c q => exact ⟨_, (hfront c q s hq).trans (exec_eq_runCmd c _)⟩

end

/-! # The rings in host memory (R294 to R296) -/

namespace Sys2Proof.Machine

section
variable {i j k r : Nat} {v : W32} {s t : State}

theorem EventsOnly.ring (h : EventsOnly s t) (j : Nat) : t.ring j = s.ring j := (congrArg (State.ring · j) h :)

theorem EventsOnly.hst (h : EventsOnly s t) : t.hst = { s.hst with dvec := t.hst.dvec } :=
  (congrArg (fun u : State => { u.hst with dvec := t.hst.dvec }) h :)

/-- A change of one ring keeps a part of every ring that it keeps of its own. -/
theorem part_modRing {α : Type} {f : Ring → Ring} (g : Ring → α) (hf : ∀ x, g (f x) = g x) (k j : Nat) (s : State) :
    g ((s.modRing k f).ring j) = g (s.ring j) := by
  rw [State.modRing_ring]
  split
  · next h => rw [hf, h]
  · rfl

/-! ## Fetches (R296) -/

/-- `n` more descriptors of ring r are asked for, from index `i` on. -/
def fetchAsked (r i n : Nat) (s : State) : State :=
  emit (.fetch r i n) (s.modRing r fun x => { x with fetching := x.fetching + n })

/-- The host interface asks for nothing, or for the descriptors the mirror lacks. -/
theorem fetchMore_cases (r : Nat) (s : State) : fetchMore r s = s ∨ ∃ i n, fetchMore r s = fetchAsked r i n s := by
  unfold fetchMore
  split
  · exact .inl rfl
  · dsimp only
    split
    · exact .inr ⟨_, _, rfl⟩
    · exact .inl rfl

/-- A ring that is not live asks for nothing. -/
theorem fetchMore_idle (h : ringLive s r = false) : fetchMore r s = s := by
  unfold fetchMore
  simp [h]

/-- A fetch counts what is under way in its ring, and sends its request. -/
theorem fetchMore_parts (r : Nat) (s : State) : fetchMore r s =
    { s with hst := { s.hst with rings := (fetchMore r s).hst.rings }, out := (fetchMore r s).out } := by
  obtain h | ⟨i, n, h⟩ := fetchMore_cases r s
  · rw [h]
  · rw [h]
    rfl

theorem fetchMore_ring (r j : Nat) (s : State) :
    (fetchMore r s).ring j = { s.ring j with fetching := ((fetchMore r s).ring j).fetching } := by
  obtain h | ⟨i, n, h⟩ := fetchMore_cases r s
  · rw [h]
  · have hring : (fetchAsked r i n s).ring j =
        if j = r then { s.ring r with fetching := (s.ring r).fetching + n } else s.ring j :=
      State.modRing_ring ..
    rw [h, hring]
    split
    · next hj => rw [hj]
    · rfl

theorem fetchMore_ring_ne (h : j ≠ r) : (fetchMore r s).ring j = s.ring j := by
  obtain hf | ⟨i, n, hf⟩ := fetchMore_cases r s
  · rw [hf]
  · rw [hf]
    exact (State.modRing_ring ..).trans (if_neg h)

theorem out_fetchMore {o : Out} (h : o ∈ s.out) : o ∈ (fetchMore r s).out := by
  obtain hf | ⟨i, n, hf⟩ := fetchMore_cases r s
  · rwa [hf]
  · rw [hf]
    exact List.mem_cons_of_mem _ h

/-! ## A ring halts (R295, R296) -/

/-- A ring that halts shows its cause, has no fetch under way, and tells; no other ring changes. -/
theorem ringHalt_spec (r cause idx addr : Nat) (s : State) :
    (ringHalt r cause idx addr s).ring r = { s.ring r with halt := true, cause := cause, fetching := 0 } ∧
      Pending 0x13 (ringHalt r cause idx addr s) ∧ ∀ j, j ≠ r → (ringHalt r cause idx addr s).ring j = s.ring j := by
  refine ⟨?_, pending_raise _ _ _ _ 0x13 (by decide) (.inl rfl), fun j hj => ?_⟩
  · exact ((eventsOnly_raise ..).ring r).trans ((State.modRing_ring ..).trans (if_pos rfl))
  · exact ((eventsOnly_raise ..).ring j).trans ((State.modRing_ring ..).trans (if_neg hj))

/-! ## Doorbells (R294, R295) -/

/-- The value written to a ring's doorbell is shown. -/
def belled (r : Nat) (v : W32) (s : State) : State := s.modRing r fun x => { x with bell := v.toNat }

theorem belled_ring (r j : Nat) (v : W32) (s : State) :
    (belled r v s).ring j = if j = r then { s.ring r with bell := v.toNat } else s.ring j := State.modRing_ring ..

/-- The peer's index of a ring is the one in the doorbell. -/
def rung (r : Nat) (v : W32) (s : State) : State := (belled r v s).modRing r fun x => { x with peer := fld v 15 0 }

theorem rung_ring (r j : Nat) (v : W32) (s : State) :
    (rung r v s).ring j = if j = r then { s.ring r with bell := v.toNat, peer := fld v 15 0 } else s.ring j := by
  refine (State.modRing_ring ..).trans ?_
  simp only [belled_ring, if_true]
  split <;> rfl

theorem rung_same : (rung r v s).ring r = { s.ring r with bell := v.toNat, peer := fld v 15 0 } :=
  (rung_ring ..).trans (if_pos rfl)

theorem rung_ne (h : j ≠ r) : (rung r v s).ring j = s.ring j := (rung_ring ..).trans (if_neg h)

/-- An index in range is the peer's; a command ring then fetches. -/
theorem doorbell_inRange (hon : ringOn s r = true) (hv : fld v 15 0 < ringSize s r) :
    doorbell r v s = if r < 8 then fetchMore r (rung r v s) else rung r v s := by
  have hon' : ¬(!ringOn (belled r v s) r) = true := by
    change ¬(!ringOn s r) = true
    simp [hon]
  exact (if_neg hon').trans (if_neg (Nat.not_le.mpr hv))

theorem doorbell_outOfRange (hon : ringOn s r = true) (hv : ringSize s r ≤ fld v 15 0) :
    doorbell r v s = ringHalt r 1 (fld v 15 0) 0 (belled r v s) := by
  have hon' : ¬(!ringOn (belled r v s) r) = true := by
    change ¬(!ringOn s r) = true
    simp [hon]
  exact (if_neg hon').trans (if_pos hv)

/-- A doorbell in range of a command ring. -/
theorem doorbell_command (hr : r < 8) (hon : ringOn s r = true) (hv : fld v 15 0 < ringSize s r) :
    ((doorbell r v s).ring r).peer = fld v 15 0 ∧ ((doorbell r v s).ring r).bell = v.toNat ∧
      ((doorbell r v s).ring r).own = (s.ring r).own ∧ ((doorbell r v s).ring r).halt = (s.ring r).halt ∧
      ∀ j, j ≠ r → (doorbell r v s).ring j = s.ring j := by
  have hring : (doorbell r v s).ring r = { s.ring r with
      bell := v.toNat, peer := fld v 15 0, fetching := ((doorbell r v s).ring r).fetching } := by
    rw [doorbell_inRange hon hv, if_pos hr, fetchMore_ring, rung_same]
  refine ⟨congrArg Ring.peer hring, congrArg Ring.bell hring, (congrArg Ring.own hring :), (congrArg Ring.halt hring :),
    fun j hj => ?_⟩
  rw [doorbell_inRange hon hv, if_pos hr, fetchMore_ring_ne hj, rung_ne hj]

/-- A doorbell in range of a ring the part produces. -/
theorem doorbell_producer (hr : 8 ≤ r) (hon : ringOn s r = true) (hv : fld v 15 0 < ringSize s r) :
    (doorbell r v s).ring r = { s.ring r with bell := v.toNat, peer := fld v 15 0 } ∧
      (∀ j, j ≠ r → (doorbell r v s).ring j = s.ring j) ∧
      doorbell r v s = { s with hst := { s.hst with rings := (doorbell r v s).hst.rings } } := by
  rw [doorbell_inRange hon hv, if_neg (Nat.not_lt.mpr hr)]
  exact ⟨rung_same, fun j hj => rung_ne hj, rfl⟩

/-- A doorbell out of range halts its ring, and the peer's index stands. -/
theorem doorbell_halts (hon : ringOn s r = true) (hv : ringSize s r ≤ fld v 15 0) :
    ((doorbell r v s).ring r).halt = true ∧ ((doorbell r v s).ring r).cause = 1 ∧
      ((doorbell r v s).ring r).peer = (s.ring r).peer ∧ Pending 0x13 (doorbell r v s) ∧
      ∀ j, j ≠ r → (doorbell r v s).ring j = s.ring j := by
  obtain ⟨hring, hpend, hne⟩ := ringHalt_spec r 1 (fld v 15 0) 0 (belled r v s)
  rw [doorbell_outOfRange hon hv, hring, belled_ring, if_pos rfl]
  exact ⟨rfl, rfl, rfl, hpend, fun j hj => (hne j hj).trans ((belled_ring ..).trans (if_neg hj))⟩

/-! ## What a fetch delivers (R296) -/

/-- A descriptor that arrives can be taken from the next frame on. -/
theorem fetchDone_delivers {b f : List Byte} {ok : Bool} (h : (s.ring r).fetching ≠ 0) :
    ((fetchDone r [.ok b f ok] s).ring r).fetched = (s.ring r).fetched ++ [(s.clk.frame + 1, descOf b f ok)] ∧
      ((fetchDone r [.ok b f ok] s).ring r).fetching = (s.ring r).fetching - 1 ∧
      (∀ j, j ≠ r → (fetchDone r [.ok b f ok] s).ring j = s.ring j) ∧
      fetchDone r [.ok b f ok] s = { s with hst := { s.hst with rings := (fetchDone r [.ok b f ok] s).hst.rings } } := by
  have heq : fetchDone r [.ok b f ok] s = s.modRing r fun x => { x with
      fetching := x.fetching - 1, fetched := x.fetched ++ [(s.clk.frame + 1, descOf b f ok)] } := if_neg h
  rw [heq, State.modRing_ring_same]
  exact ⟨rfl, rfl, fun j hj => (State.modRing_ring ..).trans (if_neg hj), rfl⟩

/-- A failed access halts the ring. -/
theorem fetchDone_halts {a : Nat} (h : (s.ring r).fetching ≠ 0) :
    ((fetchDone r [.bad a] s).ring r).halt = true ∧ ((fetchDone r [.bad a] s).ring r).cause = 2 ∧
      ((fetchDone r [.bad a] s).ring r).fetching = 0 ∧ Pending 0x13 (fetchDone r [.bad a] s) ∧
      ∀ j, j ≠ r → (fetchDone r [.bad a] s).ring j = s.ring j := by
  have heq : fetchDone r [.bad a] s = ringHalt r 2 (((s.ring r).own + (s.ring r).fetched.length) % ringSize s r) a s := if_neg h
  obtain ⟨hring, hpend, hne⟩ := ringHalt_spec r 2 (((s.ring r).own + (s.ring r).fetched.length) % ringSize s r) a s
  rw [heq, hring]
  exact ⟨rfl, rfl, rfl, hpend, hne⟩

end

end Sys2Proof.Machine

/-! # Interrupt vectors, bus mastering and the interface reset (R290 to R292, R311, R470) -/

namespace Sys2Proof.Machine

section
variable {j k n r v : Nat} {s t u : State}

/-! ## A vector is signalled (R291, R311) -/

/-- A vector that is masked, or that the part may not send, is held in the PBA (log 16). -/
theorem signalVec_held (h : ((s.vec v).masked || !s.hst.bme) = true) :
    signalVec v s = { s with hst := { s.hst with pba := s.hst.pba ||| BitVec.ofNat 64 (2 ^ v) } } := if_pos h

theorem signalVec_sent (h : ¬((s.vec v).masked || !s.hst.bme) = true) :
    signalVec v s = emit (.msix v (s.vec v).addr (s.vec v).data) s := if_neg h

theorem getLsbD_vecBit (hk : k < 64) (v : Nat) : (BitVec.ofNat 64 (2 ^ v)).getLsbD k = decide (v = k) := by
  rw [BitVec.getLsbD_ofNat, Nat.testBit_two_pow]
  simp [hk]

/-- A vector owes no more, and is moderated from now on. -/
def moderated (v : Nat) (s : State) : State := { s with hst := { s.hst with
  modPend := tset false s.hst.modPend v false, modLeft := tset 0 (tset 0 s.hst.modLeft v 0) v (vecMod s v) } }

theorem modExpiry_owed (h : tget false s.hst.modPend v = true) : modExpiry v s = signalVec v (moderated v s) := if_pos h

/-- A vector that owes a signal sends it as its time ends, or holds it in the PBA (R311). -/
theorem modExpiry_spec (hv : v < 12) (h : tget false s.hst.modPend v = true) :
    tget false (modExpiry v s).hst.modPend v = false ∧ tget 0 (modExpiry v s).hst.modLeft v = vecMod s v ∧
      if (s.vec v).masked || !s.hst.bme then (modExpiry v s).hst.pba.getLsbD v = true ∧ (modExpiry v s).out = s.out
      else (modExpiry v s).out = .msix v (s.vec v).addr (s.vec v).data :: s.out := by
  have hpend : tget false (moderated v s).hst.modPend v = false := tget_tset_same false s.hst.modPend v false
  have hleft : tget 0 (moderated v s).hst.modLeft v = vecMod s v := tget_tset_same ..
  rw [modExpiry_owed h]
  by_cases hm : ((s.vec v).masked || !s.hst.bme) = true
  · rw [signalVec_held (s := moderated v s) hm, if_pos hm]
    refine ⟨hpend, hleft, ?_, rfl⟩
    change (s.hst.pba ||| BitVec.ofNat 64 (2 ^ v)).getLsbD v = true
    rw [BitVec.getLsbD_or, getLsbD_vecBit (by omega)]
    simp
  · rw [signalVec_sent (s := moderated v s) hm, if_neg hm]
    exact ⟨hpend, hleft, rfl⟩

/-! ## What is held in the PBA is released (R291) -/

/-- The message of vector v leaves the PBA. -/
def released (v : Nat) (s : State) : State :=
  emit (.msix v (s.vec v).addr (s.vec v).data) { s with hst := { s.hst with pba := s.hst.pba &&& ~~~(BitVec.ofNat 64 (2 ^ v)) } }

/-- One vector's turn in the release. -/
def releaseOne (v : Nat) (s : State) : State :=
  if s.hst.pba.getLsbD v && !(s.vec v).masked && s.hst.bme then released v s else s

theorem releaseOne_due (hp : s.hst.pba.getLsbD v = true) (hm : (s.vec v).masked = false) (hb : s.hst.bme = true) :
    releaseOne v s = released v s := if_pos (by simp [hp, hm, hb])

/-- The table and the bus mastering do not change in the release. -/
theorem releaseOne_kept (v : Nat) (s : State) : ((releaseOne v s).hst.bme, (releaseOne v s).hst.vecs) = (s.hst.bme, s.hst.vecs) :=
  kept_ite (fun u => (u.hst.bme, u.hst.vecs)) rfl

theorem releasePba_vec (m : Nat) (s : State) : (releasePba s).vec m = s.vec m :=
  each_keep (fun u => u.vec m) (fun v s => congrArg (fun p : Bool × Tbl Vec => tget ({} : Vec) p.2 m) (releaseOne_kept v s)) _ s

/-- Nothing is released while the part may not issue DMA. -/
theorem releasePba_off (h : s.hst.bme = false) : releasePba s = s :=
  each_invariant (· = s) (fun v u hu => by rw [hu]; exact if_neg (by simp [h])) _ s rfl

/-- Vector k's message, as its table entry e has it, is held or sent. -/
def Owed (k : Nat) (e : Vec) (u : State) : Prop :=
  u.hst.bme = true ∧ u.vec k = e ∧ (u.hst.pba.getLsbD k = true ∨ .msix k e.addr e.data ∈ u.out)

/-- Vector k's message, as its table entry e has it, has been sent. -/
def Delivered (k : Nat) (e : Vec) (u : State) : Prop :=
  u.hst.bme = true ∧ u.hst.pba.getLsbD k = false ∧ .msix k e.addr e.data ∈ u.out

theorem pba_released (hk : k < 64) (h : v ≠ k) : (released v s).hst.pba.getLsbD k = s.hst.pba.getLsbD k := by
  change (s.hst.pba &&& ~~~(BitVec.ofNat 64 (2 ^ v))).getLsbD k = _
  rw [BitVec.getLsbD_and, BitVec.getLsbD_not, getLsbD_vecBit hk]
  simp [hk, h]

theorem pba_released_same (hk : k < 64) : (released k s).hst.pba.getLsbD k = false := by
  change (s.hst.pba &&& ~~~(BitVec.ofNat 64 (2 ^ k))).getLsbD k = _
  rw [BitVec.getLsbD_and, BitVec.getLsbD_not, getLsbD_vecBit hk]
  simp

/-- The vector's own turn delivers what is owed. -/
theorem delivered_releaseOne {e : Vec} (hk : k < 64) (hm : e.masked = false) (h : Owed k e s) :
    Delivered k e (releaseOne k s) := by
  obtain ⟨hb, rfl, hp⟩ := h
  by_cases hpba : s.hst.pba.getLsbD k = true
  · rw [releaseOne_due hpba hm hb]
    exact ⟨hb, pba_released_same hk, List.mem_cons_self ..⟩
  · have hidle : releaseOne k s = s := if_neg (by simp [hpba])
    rw [hidle]
    exact ⟨hb, Bool.eq_false_iff.mpr hpba, hp.resolve_left hpba⟩

/-- Another vector's turn leaves what this one holds, and what has been sent. -/
theorem releaseOne_other (hk : k < 64) (h : v ≠ k) : (releaseOne v s).hst.pba.getLsbD k = s.hst.pba.getLsbD k ∧
    ∀ o ∈ s.out, o ∈ (releaseOne v s).out := by
  unfold releaseOne
  split
  · exact ⟨pba_released hk h, fun o ho => List.mem_cons_of_mem _ ho⟩
  · exact ⟨rfl, fun o ho => ho⟩

theorem owed_releaseOne {e : Vec} (hk : k < 64) (hm : e.masked = false) (h : Owed k e s) : Owed k e (releaseOne v s) := by
  have hkept := releaseOne_kept v s
  have hb : (releaseOne v s).hst.bme = true := (congrArg Prod.fst hkept).trans h.1
  have hvec : (releaseOne v s).vec k = e := (congrArg (fun p : Bool × Tbl Vec => tget ({} : Vec) p.2 k) hkept).trans h.2.1
  refine ⟨hb, hvec, ?_⟩
  by_cases hv : v = k
  · subst hv
    exact .inr (delivered_releaseOne hk hm h).2.2
  · obtain ⟨hpba, hout⟩ := releaseOne_other (s := s) hk hv
    exact h.2.2.imp (fun hp => hpba.trans hp) (hout _)

/-- The release delivers the message of every vector that is not masked. -/
theorem delivered_releasePba {e : Vec} (hk : k < 64) (hm : e.masked = false) (h : Owed k e s) : Delivered k e (releasePba s) := by
  refine each_brings (· = k) (Owed k e) (Delivered k e) (fun v _ u hu => owed_releaseOne hk hm hu)
    (fun v _ hv u hu => ?_) (fun v _ hv u hu hd => ?_) h (.inr ⟨k, List.mem_range.mpr hk, rfl⟩)
  · subst hv
    exact delivered_releaseOne hk hm hu
  · obtain ⟨hpba, hout⟩ := releaseOne_other (s := u) hk hv
    obtain ⟨-, hclear, hsent⟩ := hd
    exact ⟨(owed_releaseOne hk hm hu).1, hpba.trans hclear, hout _ hsent⟩

/-! ## Bus mastering (R291) -/

/-- The part's bus mastering as configured by the host. -/
def mastering (on : Bool) (s : State) : State := { s with hst := { s.hst with bme := on } }

/-- Without bus mastering nothing is released and nothing is fetched. -/
theorem masterEnable_off (s : State) : masterEnable false s = mastering false s := by
  have hrel : releasePba (mastering false s) = mastering false s := releasePba_off rfl
  have hlive (r : Nat) : ringLive (mastering false s) r = false := by simp [ringLive, mastering]
  exact each_invariant (· = mastering false s) (fun r u hu => by rw [hu]; exact fetchMore_idle (hlive r)) _ _ hrel

theorem delivered_fetchMore {e : Vec} (h : Delivered k e s) : Delivered k e (fetchMore r s) := by
  obtain ⟨hb, hp, ho⟩ := h
  have hhst := congrArg State.hst (fetchMore_parts r s)
  exact ⟨(congrArg Hst.bme hhst).trans hb, (congrArg (·.pba.getLsbD k) hhst).trans hp, out_fetchMore ho⟩

/-- With bus mastering what was held goes out (log 16). -/
theorem masterEnable_on (hk : k < 64) (hp : s.hst.pba.getLsbD k = true) (hm : (s.vec k).masked = false) :
    Delivered k (s.vec k) (masterEnable true s) :=
  each_invariant (Delivered k (s.vec k)) (fun _ _ h => delivered_fetchMore h) _ _
    (delivered_releasePba (s := mastering true s) hk hm ⟨rfl, rfl, .inl hp⟩)

/-! ## The MSI-X table (R470) -/

theorem msixWrite_data (hn : n < 64) (w : W32) (s : State) :
    msixWrite (0x800 + 16 * n + 8) w s = releasePba (s.modVec n fun e => { e with data := w }) := by
  have hin : (!within 0x800 0xBFF (0x800 + 16 * n + 8) || decide ((0x800 + 16 * n + 8) % 4 ≠ 0)) = false := by
    simp [within]
    omega
  have hvec : (0x800 + 16 * n + 8 - 0x800) / 16 = n := by omega
  have hfield : (0x800 + 16 * n + 8) % 16 = 8 := by omega
  unfold msixWrite
  rw [if_neg (by simpa using hin)]
  simp only [hvec, hfield]
  rfl

theorem msixWrite_data_spec (hn : n < 64) (w : W32) (s : State) : ((msixWrite (0x800 + 16 * n + 8) w s).vec n).data = w ∧
    ((msixWrite (0x800 + 16 * n + 8) w s).vec n).addr = (s.vec n).addr ∧
    ((msixWrite (0x800 + 16 * n + 8) w s).vec n).masked = (s.vec n).masked ∧
    ∀ m, m ≠ n → (msixWrite (0x800 + 16 * n + 8) w s).vec m = s.vec m := by
  simp only [msixWrite_data hn, releasePba_vec, State.modVec_vec, if_true, true_and]
  exact fun m hm => if_neg hm

/-! ## The interface reset (R290, R292) -/

/-- A ring at an interface reset: its indices are 0 and it holds no descriptor; its halt and its counts stand (log 51). -/
def resetRing (x : Ring) : Ring := { ({} : Ring) with count := x.count, halt := x.halt, cause := x.cause, resv := x.resv }

theorem ringReset_ring (k j : Nat) (s : State) :
    (ringReset k s).ring j = if j = k then resetRing (s.ring k) else s.ring j := State.modRing_ring ..

theorem ringReset_cw (k a : Nat) (s : State) :
    (ringReset k s).cw a = if a = ringReg k + 8 then s.cw (ringReg k + 8) &&& ~~~(1 : W32) else s.cw a := tget_tset ..

/-- The ring is disabled, its indices are 0 and it holds no descriptor. -/
def RingCleared (r : Nat) (s : State) : Prop :=
  ringOn s r = false ∧ (s.ring r).own = 0 ∧ (s.ring r).peer = 0 ∧ (s.ring r).fetched = []

theorem bit_zero_cleared (w : W32) : bit (w &&& ~~~(1 : W32)) 0 = false := by
  rw [bit, BitVec.getLsbD_and, BitVec.getLsbD_not]
  simp

theorem ringOn_ringReset (k j : Nat) (s : State) (h : j = k ∨ ringOn s j = false) : ringOn (ringReset k s) j = false := by
  rw [ringOn, State.cb, ringReset_cw]
  split
  · exact bit_zero_cleared _
  · next hne => exact h.resolve_left fun hj => hne (by rw [hj])

theorem ringCleared_ringReset (r : Nat) (s : State) : RingCleared r (ringReset r s) := by
  have hring : (ringReset r s).ring r = resetRing (s.ring r) := (ringReset_ring ..).trans (if_pos rfl)
  exact ⟨ringOn_ringReset r r s (.inl rfl), by rw [hring]; rfl, by rw [hring]; rfl, by rw [hring]; rfl⟩

theorem RingCleared.ringReset (h : RingCleared r s) (hk : k ≠ r) : RingCleared r (ringReset k s) := by
  have hring : (Machine.ringReset k s).ring r = s.ring r := (ringReset_ring ..).trans (if_neg hk.symm)
  obtain ⟨hon, hown, hpeer, hfetched⟩ := h
  exact ⟨ringOn_ringReset k r s (.inr hon), by rw [hring, hown], by rw [hring, hpeer], by rw [hring, hfetched]⟩

/-- What waits is discarded, and every ring is reset. -/
def ringsReset (s : State) : State := each (List.range 18) ringReset (discardStaged s)

theorem ringCleared_ringsReset (hr : r < 18) (s : State) : RingCleared r (ringsReset s) :=
  each_brings (· = r) (fun _ => True) (RingCleared r) (fun _ _ _ _ => trivial)
    (fun _ _ hk _ _ => hk ▸ ringCleared_ringReset _ _) (fun _ _ hk _ _ h => h.ringReset hk) trivial
    (.inr ⟨r, List.mem_range.mpr hr, rfl⟩)

theorem halt_ringReset (k : Nat) (s : State) : ((ringReset k s).ring r).halt = (s.ring r).halt := by
  rw [ringReset_ring]
  split
  · next h => rw [h]; rfl
  · rfl

/-- A completion that waits is discarded: its ring counts it, and what it reserved is free (R290). -/
def complDiscarded (c : Compl) (s : State) : State :=
  s.modRing (8 + c.ring) fun x => { x with count := sat 0xFFFF (x.count + 1), resv := x.resv - (1 + c.extra) }

theorem halt_complDiscarded (c : Compl) (s : State) : ((complDiscarded c s).ring r).halt = (s.ring r).halt := by
  apply part_modRing Ring.halt
  exact fun _ => rfl

theorem halt_discardStaged (s : State) : ((discardStaged s).ring r).halt = (s.ring r).halt := by
  unfold discardStaged
  extract_lets gone s1 n s2
  have h1 : (s1.ring r).halt = (s.ring r).halt :=
    each_keep (fun u => (u.ring r).halt) halt_complDiscarded gone s
  have h2 : (s2.ring r).halt = (s1.ring r).halt :=
    part_modRing (f := fun x => { x with count := sat 0xFFFF (x.count + n) }) Ring.halt (fun _ => rfl) ..
  exact h2.trans h1

theorem halt_ringsReset (s : State) : ((ringsReset s).ring r).halt = (s.ring r).halt :=
  (each_keep (fun u => (u.ring r).halt) halt_ringReset _ _).trans (halt_discardStaged s)

/-- What the reset of the rings leaves of the host interface, of the journal and of the power. -/
def State.offRings (s : State) : Jrn × Pwr × Nat × Nat := (s.jrn, s.pwr, s.hst.lock, s.hst.resets)

theorem offRings_complDiscarded (c : Compl) (s : State) : (complDiscarded c s).offRings = s.offRings := rfl

theorem offRings_discardStaged (s : State) : (discardStaged s).offRings = s.offRings := by
  unfold discardStaged
  extract_lets gone s1 n s2
  have h1 : s1.offRings = s.offRings := each_keep State.offRings offRings_complDiscarded gone s
  exact h1

theorem offRings_ringReset (k : Nat) (s : State) : (ringReset k s).offRings = s.offRings := rfl

theorem offRings_ringsReset (s : State) : (ringsReset s).offRings = s.offRings :=
  (each_keep State.offRings offRings_ringReset _ _).trans (offRings_discardStaged s)

/-- An open lock closes, with its entry (R292, R315). -/
def lockClosed (s : State) : State :=
  if s.hst.lock = 1 then jInternal 0x80 1 0 2 false (s.lockTo 2) else s

theorem lockClosed_open (h : s.hst.lock = 1) : lockClosed s = jInternal 0x80 1 0 2 false (s.lockTo 2) := if_pos h

theorem lockClosed_parts (s : State) : (lockClosed s).hst = { s.hst with lock := if s.hst.lock = 1 then 2 else s.hst.lock } ∧
    (lockClosed s).cfg = s.cfg ∧ (lockClosed s).pwr = s.pwr ∧ (s.hst.lock = 1 → (lockClosed s).jrn.head = s.nextSeq) := by
  by_cases h : s.hst.lock = 1
  · rw [lockClosed_open h, if_pos h]
    exact ⟨hst_jAppend .., cfg_of_offTaking (offTaking_jAppend ..), (congrArg State.pwr (offTaking_jAppend ..) :),
      fun _ => head_jAppend ..⟩
  · have hstay : lockClosed s = s := if_neg h
    rw [hstay, if_neg h]
    exact ⟨rfl, rfl, rfl, fun hl => absurd hl h⟩

/-- The vectors and what they owe go, and the reset is counted. -/
def interfaceReset (link : Bool) (s : State) : State := { s with hst := { s.hst with
  vecs := [], pba := 0, modLeft := [], modPend := [], dvec := [], wb := none, linkUp := link && s.pwr.domains.testBit 10
  freset := true, fresetNow := true, resets := sat 0xFFFF (s.hst.resets + 1) } }

theorem hostReset_eq (link : Bool) (s : State) : hostReset link s = interfaceReset link (lockClosed (ringsReset s)) := rfl

theorem interfaceReset_ring (link : Bool) (r : Nat) (s : State) :
    (interfaceReset link s).ring r = s.ring r ∧ ringOn (interfaceReset link s) r = ringOn s r := ⟨rfl, rfl⟩

theorem lockClosed_ring (r : Nat) (s : State) : (lockClosed s).ring r = s.ring r ∧ ringOn (lockClosed s) r = ringOn s r := by
  obtain ⟨hhst, hcfg, -⟩ := lockClosed_parts s
  have hrings : (lockClosed s).hst.rings = s.hst.rings := (congrArg Hst.rings hhst :)
  exact ⟨by rw [State.ring, hrings, State.ring], by rw [ringOn, State.cb, cfg_cw hcfg, ringOn, State.cb]⟩

/-- Behind an interface reset every ring is cleared, and a halt stands (log 51). -/
theorem ringCleared_hostReset (link : Bool) (hr : r < 18) (s : State) :
    RingCleared r (hostReset link s) ∧ ((hostReset link s).ring r).halt = (s.ring r).halt := by
  obtain ⟨hring, hon⟩ := interfaceReset_ring link r (lockClosed (ringsReset s))
  obtain ⟨hring', hon'⟩ := lockClosed_ring r (ringsReset s)
  rw [hostReset_eq, RingCleared, hring, hon, hring', hon']
  exact ⟨ringCleared_ringsReset hr s, halt_ringsReset s⟩

/-- The lock behind an interface reset, with its entry. -/
theorem lock_hostReset (link : Bool) (s : State) : (hostReset link s).hst.lock = (if s.hst.lock = 1 then 2 else s.hst.lock) ∧
    (s.hst.lock = 1 → (hostReset link s).jrn.head = s.nextSeq) := by
  have hoff := offRings_ringsReset s
  rw [hostReset_eq]
  generalize ringsReset s = v at hoff ⊢
  obtain ⟨hhst, -, -, hhead⟩ := lockClosed_parts v
  have hjrn : v.jrn = s.jrn := congrArg (·.1) hoff
  have hlock : v.hst.lock = s.hst.lock := congrArg (·.2.2.1) hoff
  refine ⟨(congrArg Hst.lock hhst).trans (by rw [hlock]), fun hl => (hhead (hlock.trans hl)).trans ?_⟩
  rw [State.nextSeq, hjrn, State.nextSeq]

/-- The link and the count of resets behind an interface reset; no vector is left. -/
theorem link_hostReset (link : Bool) (s : State) : (hostReset link s).hst.linkUp = (link && s.pwr.domains.testBit 10) ∧
    (hostReset link s).hst.freset = true ∧ (hostReset link s).hst.resets = sat 0xFFFF (s.hst.resets + 1) ∧
    (hostReset link s).hst.pba = 0 ∧ (hostReset link s).hst.vecs = [] := by
  have hoff := offRings_ringsReset s
  rw [hostReset_eq]
  generalize ringsReset s = v at hoff ⊢
  obtain ⟨hhst, -, hpwr, -⟩ := lockClosed_parts v
  have hpwr' : (lockClosed v).pwr = s.pwr := hpwr.trans (congrArg (·.2.1) hoff)
  have hresets : (lockClosed v).hst.resets = s.hst.resets := (congrArg Hst.resets hhst).trans (congrArg (·.2.2.2) hoff)
  refine ⟨congrArg (fun p : Pwr => link && p.domains.testBit 10) hpwr', rfl, ?_, rfl, rfl⟩
  exact congrArg (fun n => sat 0xFFFF (n + 1)) hresets

end

end Sys2Proof.Machine

/-! # The journal's mirror in flash (R316, R372) -/

namespace Sys2Proof.Machine

section
variable {q : Nat} {l : List Nat} {e : JEntry} {s : State}

/-- The oldest entry that waits leaves the queue. -/
def waitingTaken (l : List Nat) (s : State) : State := { s with jrn := { s.jrn with waiting := l } }

/-- Within a sector the oldest entry that waits is appended to the mirror. -/
theorem mirrorWrite_appends (hw : s.jrn.waiting = q :: l) (he : s.jEntry q = some e) (hpos : s.nv.mirrorPos % 256 ≠ 0)
    (hfree : bgFree s 2 = true) : mirrorWrite s = mirrorAppend e (waitingTaken l s) := by
  unfold mirrorWrite
  simp [hfree, hw, he, hpos]
  rfl

/-- An appended entry is the newest, behind the head, and its codeword is programmed at once where it is erased (log 56). -/
theorem mirrorAppend_spec (e : JEntry) (s : State) : (mirrorAppend e s).jrn = { s.jrn with
      mirror := (e :: s.jrn.mirror).take 16640 } ∧ (mirrorAppend e s).nv.mirrorPos = (s.nv.mirrorPos + 1) % 16640 ∧
    (s.flashRaw (mirrorAt s.nv.mirrorPos) = erasedWord →
      (mirrorAppend e s).flashRaw (mirrorAt s.nv.mirrorPos) = wcEncode (BitVec.ofNat 256 e.bits)) ∧
    mirrorAppend e s = { s with
      nv := { s.nv with
        mirrorPos := (mirrorAppend e s).nv.mirrorPos, flash := (mirrorAppend e s).nv.flash, badAt := (mirrorAppend e s).nv.badAt }
      jrn := { s.jrn with mirror := (mirrorAppend e s).jrn.mirror } } := by
  obtain ⟨fl, b, hprog⟩ : ∃ fl b, flashProgram (mirrorAt s.nv.mirrorPos) (BitVec.ofNat 256 e.bits) s =
      { s with nv := { s.nv with flash := fl, badAt := b } } := ⟨_, _, flashProgram_parts ..⟩
  have happ : mirrorAppend e s = { s with
      nv := { s.nv with mirrorPos := (s.nv.mirrorPos + 1) % 16640, flash := fl, badAt := b }
      jrn := { s.jrn with mirror := (e :: s.jrn.mirror).take 16640 } } := by
    unfold mirrorAppend
    simp only [hprog]
  refine ⟨congrArg State.jrn happ, rfl, fun h => flashRaw_flashProgram_erased h, ?_⟩
  rw [happ]

end

end Sys2Proof.Machine

section
open Sys2Proof Sys2Proof.Machine

/-- Settles O30: the doorbells by `doorbell_inRange` and `doorbell_outOfRange`, a fetch delivers or halts its ring, the vectors
by what the PBA holds and releases (`delivered_releasePba`), the reset ring by ring (`ringCleared_ringsReset`), the mirror by
`mirrorAppend_spec`. -/
theorem rings : Obligations.Rings := by
  refine ⟨fun r v s hr hon hv => ⟨_, congrArg Next (if_pos hr), doorbell_command hr hon hv⟩,
    fun r v s hr hon hv => ⟨_, congrArg Next (if_pos hr), doorbell_halts hon hv⟩,
    fun r v s hr hon hv => ⟨_, congrArg Next (if_pos hr), doorbell_producer (by omega) hon hv⟩,
    fun v s hon hv => ⟨_, rfl, doorbell_producer (by omega) hon hv⟩,
    fun v s hon hv => ⟨_, rfl, doorbell_producer (by omega) hon hv⟩,
    fun r b f ok s hr hf => ⟨_, congrArg Next (if_pos hr), fetchDone_delivers hf⟩,
    fun r a s hr hf => ⟨_, congrArg Next (if_pos hr), fetchDone_halts hf⟩,
    fun k s hk h => ⟨_, congrArg Next (if_pos hk), modExpiry_spec hk h⟩,
    fun s => ⟨_, rfl, masterEnable_off s⟩, fun k s hk hp hm => ⟨_, rfl, masterEnable_on hk hp hm⟩,
    fun n v s hn => ⟨_, rfl, msixWrite_data_spec hn v s⟩, fun link s => ⟨_, rfl, ?_⟩,
    fun q l e s hw he hpos hfree => ⟨_, congrArg Next (mirrorWrite_appends hw he hpos hfree), ?_⟩⟩
  · obtain ⟨hlink, hfreset, hresets, hpba, hvecs⟩ := link_hostReset link s
    obtain ⟨hlock, hhead⟩ := lock_hostReset link s
    refine ⟨hlink, hfreset, hresets, hpba, hvecs, fun r hr => ?_, hlock, hhead⟩
    obtain ⟨⟨hon, hown, hpeer, hfetched⟩, hhalt⟩ := ringCleared_hostReset link hr s
    exact ⟨hon, hown, hpeer, hfetched, hhalt⟩
  · obtain ⟨hjrn, hpos', hflash, hparts⟩ := mirrorAppend_spec e (waitingTaken l s)
    exact ⟨congrArg Jrn.waiting hjrn, congrArg Jrn.mirror hjrn, hpos', hflash, hparts⟩

end

/-! # The tasks of CE0 (R296, R299, R301, R309, R313) -/

namespace Sys2Proof.Machine

section
variable {cyc e n t r st : Nat} {c : Compl} {d : Desc} {o : Occ} {f : State → State} {s u : State}

/-! ## What a task leaves of the host interface (R57, R467) -/

theorem jrn_taskRun (h : TaskReady e t cyc s) : (taskRun e t n cyc f s).jrn = (f s).jrn := (eventsOnly_taskRun h).jrn

theorem hst_taskRun (h : TaskReady e t cyc s) :
    (taskRun e t n cyc f s).hst = { (f s).hst with dvec := (taskRun e t n cyc f s).hst.dvec } := (eventsOnly_taskRun h).hst

/-- A task that finds nothing to do only uses its cycles. -/
theorem eventsOnly_taskRun_idle (h : TaskReady e t cyc s) (hf : f s = s) :
    EventsOnly { s with engs := (taskRun e t n cyc f s).engs } (taskRun e t n cyc f s) := by
  have ho := eventsOnly_taskRun (n := n) (f := f) h
  rw [hf] at ho
  rw [ho.engs]
  exact ho

theorem held_raiseCore (o : Occ) (s : State) : (raiseCore o s).evt.held = s.evt.held := by
  unfold raiseCore
  simp only [apply_ite State.evt, apply_ite Evt.held, capture_evt, ite_self]

/-- An occurrence that is raised waits among the fresh ones, never among those held (R309). -/
theorem held_raise (src : Nat) (ts : Ts) (x : BitVec 128) (s : State) : (raise src ts x s).evt.held = s.evt.held := by
  unfold raise raiseSev ashEvent
  split
  · exact (held_raiseCore ..).trans (held_raiseCore ..)
  · exact held_raiseCore ..

theorem held_taskRun (h : TaskReady e t cyc s) : (taskRun e t n cyc f s).evt.held = (f s).evt.held := by
  obtain ⟨hstart, hfit⟩ := h
  unfold taskRun
  rw [if_neg (by simp [hstart]), if_neg (by omega)]
  exact kept_ite (fun u : State => u.evt.held) (held_raise ..)

/-! ## T0.1 takes a descriptor (R296, R299, R313) -/

/-- Index of the head behind the descriptor at it. -/
def headBehind (r : Nat) (s : State) : Nat := ((s.ring r).own + 1) % ringSize s r

/-- The head is past its descriptor. -/
def headPassed (r : Nat) (s : State) : State :=
  s.modRing r fun x => { x with own := headBehind r s, fetched := x.fetched.drop 1 }

/-- What the descriptor may complete with is reserved (R301). -/
def reserved (r : Nat) (d : Desc) (s : State) : State := s.modRing (8 + r) fun x => { x with resv := x.resv + needs d }

/-- The descriptor at the head leaves its ring, and the next ring has its turn (R299). -/
def descTaken (r : Nat) (d : Desc) (s : State) : State :=
  let v := reserved r d (headPassed r s)
  { v with hst := { v.hst with rr := (r + 1) % 8 } }

/-- The head and the reservations are the rings' own. -/
theorem descTaken_parts (r : Nat) (d : Desc) (s : State) :
    ∃ l n, descTaken r d s = { s with hst := { s.hst with rings := l, rr := n } } := by
  unfold descTaken reserved headPassed State.modRing
  exact ⟨_, _, rfl⟩

theorem descTaken_kept (r : Nat) (d : Desc) (s : State) : (descTaken r d s).engs = s.engs ∧ (descTaken r d s).jrn = s.jrn ∧
    (descTaken r d s).hst.live = s.hst.live ∧ (descTaken r d s).hst.ready = s.hst.ready := by
  obtain ⟨l, n, h⟩ := descTaken_parts r d s
  rw [h]
  exact ⟨rfl, rfl, rfl, rfl⟩

/-- The rings have no part in the verdict on a descriptor. -/
theorem rejects_descTaken (r : Nat) (d e : Desc) (s : State) : rejects (descTaken r d s) e = rejects s e := by
  obtain ⟨l, n, h⟩ := descTaken_parts r d s
  rw [h]
  rfl

theorem own_descTaken (r : Nat) (d : Desc) (s : State) : ((descTaken r d s).ring r).own = headBehind r s := by
  have hkept : (reserved r d (headPassed r s)).ring r = (headPassed r s).ring r :=
    (State.modRing_ring ..).trans (if_neg (by omega))
  have hhead : ((headPassed r s).ring r).own = headBehind r s := congrArg Ring.own (State.modRing_ring_same ..)
  exact (congrArg Ring.own hkept).trans hhead

/-- The rejection of a descriptor is staged, and its ring counts it (R299, R300). -/
def rejectionStaged (r : Nat) (d : Desc) (head st : Nat) (s : State) : State :=
  { s with hst := { s.hst with ready := s.hst.ready ++ [rejection d r head st s] } }.modRing r fun x =>
    { x with count := sat 0xFFFF (x.count + 1) }

theorem rejectionStaged_spec (r : Nat) (d : Desc) (head st : Nat) (s : State) :
    ((rejectionStaged r d head st s).ring r).own = (s.ring r).own ∧ (rejectionStaged r d head st s).jrn = s.jrn ∧
      (rejectionStaged r d head st s).hst.live = s.hst.live ∧
      (rejectionStaged r d head st s).hst.ready = s.hst.ready ++ [rejection d r head st s] :=
  ⟨part_modRing (f := fun x => { x with count := sat 0xFFFF (x.count + 1) }) Ring.own (fun _ => rfl) .., rfl, rfl, rfl⟩

/-- What becomes of a descriptor that has been taken. -/
def judgedDesc (r : Nat) (d : Desc) (head : Nat) (s : State) : State :=
  match rejects s d with
  | some st => rejectionStaged r d head st s
  | none => acceptCmd d 0 r head s

theorem takeOne_eq (r : Nat) (d : Desc) (s : State) :
    takeOne r d s = fetchMore r (judgedDesc r d (headBehind r s) (descTaken r d s)) := rfl

theorem takeOne_accepted (h : rejects s d = none) :
    takeOne r d s = fetchMore r (acceptCmd d 0 r (headBehind r s) (descTaken r d s)) := by
  rw [takeOne_eq, judgedDesc, rejects_descTaken, h]

theorem takeOne_rejected (h : rejects s d = some st) :
    takeOne r d s = fetchMore r (rejectionStaged r d (headBehind r s) st (descTaken r d s)) := by
  rw [takeOne_eq, judgedDesc, rejects_descTaken, h]

theorem takeDescs_one (h : nextRing s = some (r, d)) : (takeDescs 1 s).2 = takeOne r d s := by
  unfold takeDescs
  rw [h]
  rfl

/-- A frame with one journal slot left takes one descriptor (R299, R315). -/
theorem ringService_takes (hq : ringsQuiet s = false) (hs : s.jrn.slots = 2) (h : nextRing s = some (r, d)) :
    (ringService s).2 = takeOne r d s := by
  unfold ringService
  rw [if_neg (by simp [hq]), hs]
  exact takeDescs_one h

theorem takeDescs_none (n : Nat) (h : nextRing s = none) : takeDescs n s = (0, s) := by
  cases n with
  | zero => rfl
  | succ n =>
    unfold takeDescs
    rw [h]

theorem ringService_idle (h : nextRing s = none) : (ringService s).2 = s := by
  unfold ringService
  split
  · rfl
  · rw [takeDescs_none _ h]

/-- A host command that is accepted waits for order 6 and is live (R44, R299). -/
def goneLive (seq r : Nat) (d : Desc) (head : Nat) (s : State) : State :=
  let l : Live := { seq := seq, ring := r, crHead := head, d := d }
  { s with hst := { s.hst with decided := s.hst.decided ++ [l], live := s.hst.live ++ [l] } }

theorem acceptCmd_host (r : Nat) (d : Desc) (head : Nat) (s : State) :
    acceptCmd d 0 r head s = goneLive s.nextSeq r d head (acceptEntry d 0 r s) := rfl

/-- The command is the last of those live; its ring and the completions are as they were. -/
theorem goneLive_spec (seq r : Nat) (d : Desc) (head : Nat) (s : State) : (goneLive seq r d head s).engs = s.engs ∧
    (goneLive seq r d head s).jrn = s.jrn ∧ (goneLive seq r d head s).ring r = s.ring r ∧
    (goneLive seq r d head s).hst.live = s.hst.live ++ [{ seq := seq, ring := r, crHead := head, d := d }] ∧
    (goneLive seq r d head s).hst.ready = s.hst.ready := ⟨rfl, rfl, rfl, rfl, rfl⟩

/-- The entry of a descriptor takes the next SEQ; the host interface and the engines have no part in it. -/
theorem acceptEntry_spec (r : Nat) (d : Desc) (s : State) : (acceptEntry d 0 r s).engs = s.engs ∧
    (acceptEntry d 0 r s).hst = s.hst ∧ (acceptEntry d 0 r s).jrn.head = s.nextSeq ∧
    (acceptEntry d 0 r s).jrn.next = s.nextSeq + 1 := by
  obtain ⟨hoff, -, hhst, -⟩ := acceptEntry_parts d 0 r s
  exact ⟨(congrArg State.engs hoff :), hhst, head_jAppend .., next_jAppend ..⟩

theorem fetchMore_kept (r : Nat) (s : State) : (fetchMore r s).engs = s.engs ∧ (fetchMore r s).jrn = s.jrn ∧
    (fetchMore r s).hst.live = s.hst.live ∧ (fetchMore r s).hst.ready = s.hst.ready ∧
    ((fetchMore r s).ring r).own = (s.ring r).own := by
  have hparts := fetchMore_parts r s
  exact ⟨(congrArg State.engs hparts :), (congrArg State.jrn hparts :), (congrArg (·.hst.live) hparts :),
    (congrArg (·.hst.ready) hparts :), (congrArg Ring.own (fetchMore_ring r r s) :)⟩

/-- An accepted descriptor: the head has advanced, and the command is live under the next SEQ. -/
theorem takeOne_accepted_spec (h : rejects s d = none) :
    (takeOne r d s).engs = s.engs ∧ ((takeOne r d s).ring r).own = headBehind r s ∧ (takeOne r d s).jrn.head = s.nextSeq ∧
      (takeOne r d s).jrn.next = s.nextSeq + 1 ∧
      (takeOne r d s).hst.live = s.hst.live ++ [{ seq := s.nextSeq, ring := r, crHead := headBehind r s, d := d }] ∧
      (takeOne r d s).hst.ready = s.hst.ready := by
  obtain ⟨tengs, tjrn, tlive, tready⟩ := descTaken_kept r d s
  have hseq : (descTaken r d s).nextSeq = s.nextSeq := congrArg Jrn.next tjrn
  have hown := own_descTaken r d s
  rw [takeOne_accepted h, acceptCmd_host, hseq]
  obtain ⟨eengs, ehst, ehead, enext⟩ := acceptEntry_spec r d (descTaken r d s)
  rw [hseq] at ehead enext
  generalize descTaken r d s = u at *
  have ering : (acceptEntry d 0 r u).ring r = u.ring r := congrArg (fun x : Hst => tget ({} : Ring) x.rings r) ehst
  obtain ⟨gengs, gjrn, gring, glive, gready⟩ := goneLive_spec s.nextSeq r d (headBehind r s) (acceptEntry d 0 r u)
  obtain ⟨fengs, fjrn, flive, fready, fown⟩ :=
    fetchMore_kept r (goneLive s.nextSeq r d (headBehind r s) (acceptEntry d 0 r u))
  rw [fengs, fjrn, flive, fready, fown, gengs, gjrn, gring, glive, gready, eengs, ehst, ering]
  exact ⟨tengs, hown, ehead, enext, by rw [tlive], tready⟩

/-- A rejected descriptor: the head has advanced, and its completion is staged; it has no entry and no command. -/
theorem takeOne_rejected_spec (h : rejects s d = some st) :
    ((takeOne r d s).ring r).own = headBehind r s ∧ (takeOne r d s).jrn = s.jrn ∧ (takeOne r d s).hst.live = s.hst.live ∧
      (takeOne r d s).hst.ready = s.hst.ready ++ [rejection d r (headBehind r s) st (descTaken r d s)] := by
  obtain ⟨-, tjrn, tlive, tready⟩ := descTaken_kept r d s
  obtain ⟨sown, sjrn, slive, sready⟩ := rejectionStaged_spec r d (headBehind r s) st (descTaken r d s)
  have hown := own_descTaken r d s
  rw [takeOne_rejected h]
  generalize rejectionStaged r d (headBehind r s) st (descTaken r d s) = v at sown sjrn slive sready ⊢
  obtain ⟨-, fjrn, flive, fready, fown⟩ := fetchMore_kept r v
  exact ⟨fown.trans (sown.trans hown), fjrn.trans (sjrn.trans tjrn), flive.trans (slive.trans tlive),
    fready.trans (sready.trans (congrArg (· ++ [_]) tready))⟩

/-- T0.1 as it runs. -/
abbrev takingTask (cyc : Nat) (s : State) : State := taskRun 0 0 (ringService s).1 cyc (fun s => (ringService s).2) s

/-! ## T0.2 posts (R301, R309) -/

/-- The occurrences held are taken up. -/
def heldTaken (s : State) : State := { s with evt := { s.evt with fresh := [], held := [] } }

theorem eventList_eq (hf : s.evt.fresh = []) :
    eventList s = (s.evt.held.foldl (fun l o => occInsert o l) [], heldTaken s) := by
  unfold eventList freshDue
  simp [hf, each, heldTaken]

theorem postEvents_nil (failed : List Nat) (n : Nat) (s : State) : postEvents failed n [] s = (0, [], s) := by
  cases n <;> rfl

/-- The vector that an entry of an occurrence signals (R308, R311). -/
def eventVec (o : Occ) : Nat := if o.sev = 3 then 10 else if o.sev = 2 then 9 else 8

/-- The entry of one occurrence, where the event ring has room. -/
theorem postEvents_single (hl : ringLive s 16 = true) (hr : ringRoom s 16 ≠ 0) (hn : n ≠ 0) :
    postEvents [] n [o] s = (1, [], ringPut 16 (some (eventVec o)) (eventBits o) s) := by
  obtain ⟨m, rfl⟩ := Nat.exists_eq_succ_of_ne_zero hn
  unfold postEvents
  rw [if_neg (by simp [hl, hr])]
  simp only [postEvents_nil]
  rfl

theorem nextCompl_none (h : s.hst.ready = []) : nextCompl s = none := by
  unfold nextCompl
  rw [h]
  rfl

theorem nextCompl_single (h : s.hst.ready = [c]) (hp : postable s c = true) : nextCompl s = some c := by
  unfold nextCompl
  rw [h]
  simp [hp]

theorem postCompls_none (failed : List Nat) (n : Nat) (h : s.hst.ready = []) : postCompls failed n s = (0, s) := by
  cases n with
  | zero => rfl
  | succ n =>
    unfold postCompls
    rw [nextCompl_none h]

/-- An entry goes behind the producer index of its ring, which advances; nothing staged and nothing held changes. -/
theorem ringPut_spec (r : Nat) (vec : Option Nat) (x : BitVec 256) (s : State) :
    (ringPut r vec x s).out = .entry r (s.ring r).own x :: s.out ∧
      ((ringPut r vec x s).ring r).own = ((s.ring r).own + 1) % 2 ^ s.cf (ringReg r + 8) 4 1 ∧
      (ringPut r vec x s).hst.ready = s.hst.ready ∧ (ringPut r vec x s).evt = s.evt ∧ (ringPut r vec x s).engs = s.engs := by
  cases vec <;> exact ⟨rfl, congrArg Ring.own (State.modRing_ring_same ..), rfl, rfl, rfl⟩

/-- The only completion staged is posted. -/
theorem postCompl_spec (h : s.hst.ready = [c]) : (postCompl [] c s).hst.ready = [] ∧
    (postCompl [] c s).out = .entry (8 + c.ring) (s.ring (8 + c.ring)).own (complBits c) :: s.out ∧
    ((postCompl [] c s).ring (8 + c.ring)).own = ((s.ring (8 + c.ring)).own + 1) % 2 ^ s.cf (ringReg (8 + c.ring) + 8) 4 1 ∧
    (postCompl [] c s).engs = s.engs := by
  obtain ⟨hout, hown, hready, -, hengs⟩ :=
    ringPut_spec (8 + c.ring) (if c.noirq then none else some c.ring) (complBits c) (dropCompl c s)
  have hleft : (dropCompl c s).hst.ready = [] := by
    change s.hst.ready.erase c = []
    rw [h, List.erase_cons_head]
  have hidx : ((dropCompl c s).ring (8 + c.ring)).own = (s.ring (8 + c.ring)).own :=
    part_modRing (f := fun x => { x with resv := x.resv - (1 + c.extra) }) Ring.own (fun _ => rfl) ..
  rw [hidx] at hout hown
  exact ⟨hready.trans hleft, hout, hown, hengs⟩

theorem postCompls_single (h : s.hst.ready = [c]) (hp : postable s c = true) (hn : n ≠ 0) :
    postCompls [] n s = (1, postCompl [] c s) := by
  obtain ⟨m, rfl⟩ := Nat.exists_eq_succ_of_ne_zero hn
  unfold postCompls
  rw [nextCompl_single h hp]
  simp only [postCompls_none [] m (postCompl_spec h).1]

/-- What T0.2 does to the part. -/
abbrev posted (s : State) : State := (postAll [] s).2

/-- With no occurrence to tell, T0.2 posts the completion that is due. -/
theorem posted_completion (hq : ringsQuiet s = false) (hf : s.evt.fresh = []) (hh : s.evt.held = []) (h : s.hst.ready = [c])
    (hp : postable s c = true) : posted s = postCompl [] c (heldTaken s) := by
  have hlist : eventList s = ([], heldTaken s) := by rw [eventList_eq hf, hh]; rfl
  have hcompls : postCompls [] (4 - 0) (heldTaken s) = (1, postCompl [] c (heldTaken s)) :=
    postCompls_single (s := heldTaken s) h hp (by decide)
  unfold posted postAll
  rw [if_neg (by simp [hq]), hlist]
  simp only [List.filter_nil, postEvents_nil, hcompls, List.contains_nil, Bool.or_false]
  rfl

/-- With no completion staged, T0.2 posts the occurrence that is held, before the completions or behind them (R301). -/
theorem posted_event (hq : ringsQuiet s = false) (hf : s.evt.fresh = []) (hh : s.evt.held = [o]) (h : s.hst.ready = [])
    (hl : ringLive s 16 = true) (hr : ringRoom s 16 ≠ 0) :
    posted s = ringPut 16 (some (eventVec o)) (eventBits o) (heldTaken s) := by
  have hlist : eventList s = ([o], heldTaken s) := by rw [eventList_eq hf, hh]; rfl
  have hevents : postEvents [] 4 [o] (heldTaken s) = (1, [], ringPut 16 (some (eventVec o)) (eventBits o) (heldTaken s)) :=
    postEvents_single (s := heldTaken s) hl hr (by decide)
  have hstaged : (heldTaken s).hst.ready = [] := h
  have hput : (ringPut 16 (some (eventVec o)) (eventBits o) (heldTaken s)).hst.ready = [] := h
  unfold posted postAll
  rw [if_neg (by simp [hq]), hlist]
  by_cases hsev : o.sev = 3
  · have hfirst : [o].filter (fun x => x.sev = 3) = [o] := by simp [hsev]
    have hlast : [o].filter (fun x => x.sev ≠ 3) = [] := by simp [hsev]
    simp only [hfirst, hlast, hevents, postEvents_nil, postCompls_none [] _ hput, List.contains_nil, Bool.or_false]
    rfl
  · have hfirst : [o].filter (fun x => x.sev = 3) = [] := by simp [hsev]
    have hlast : [o].filter (fun x => x.sev ≠ 3) = [o] := by simp [hsev]
    simp only [hfirst, hlast, Nat.sub_zero, postEvents_nil, postCompls_none [] _ hstaged, hevents, List.contains_nil,
      Bool.or_false]
    rfl

/-- T0.2 as it runs. -/
abbrev completionTask (cyc : Nat) (s : State) : State := taskRun 0 1 (postAll [] s).1 cyc posted s

end

end Sys2Proof.Machine

section
open Sys2Proof Sys2Proof.Machine

/-- Settles O24: T0.1 is `takeOne` of the next descriptor, which is accepted (`takeOne_accepted_spec`) or rejected
(`takeOne_rejected_spec`); T0.2 posts what is due behind the producer index (`posted_completion`, `posted_event`). -/
theorem ringTasks : Obligations.RingTasks := by
  refine ⟨fun cyc r d s hr hq hs hn hrej => ⟨takingTask cyc s, rfl, ?_⟩,
    fun cyc r d st s hr hq hs hn hrej => ⟨takingTask cyc s, rfl, ?_⟩,
    fun cyc s hr hn => ⟨takingTask cyc s, rfl, ?_⟩,
    fun cyc c s hr hq hf hh h _ hp => ⟨completionTask cyc s, rfl, ?_⟩,
    fun cyc o s hr hq hf hh h hl hroom => ⟨completionTask cyc s, rfl, ?_⟩⟩
  · obtain ⟨hengs, hown, hhead, hnext, hlive, hready⟩ := takeOne_accepted_spec (r := r) hrej
    rw [← ringService_takes hq hs hn] at hengs hown hhead hnext hlive hready
    exact ⟨taskRan_of_engs hr hengs, (congrArg Ring.own (ring_taskRun hr r)).trans hown,
      (congrArg Jrn.head (jrn_taskRun hr)).trans hhead, (congrArg Jrn.next (jrn_taskRun hr)).trans hnext,
      (congrArg Hst.live (hst_taskRun hr)).trans hlive, (congrArg Hst.ready (hst_taskRun hr)).trans hready⟩
  · obtain ⟨hown, hjrn, hlive, hready⟩ := takeOne_rejected_spec (r := r) hrej
    rw [← ringService_takes hq hs hn] at hown hjrn hlive hready
    exact ⟨(congrArg Ring.own (ring_taskRun hr r)).trans hown, (jrn_taskRun hr).trans hjrn,
      (congrArg Hst.live (hst_taskRun hr)).trans hlive, _, (congrArg Hst.ready (hst_taskRun hr)).trans hready,
      rfl, rfl, rfl, rfl, rfl, rfl⟩
  · have hidle := ringService_idle hn
    exact ⟨taskRan_of_engs hr (congrArg State.engs hidle), eventsOnly_taskRun_idle hr hidle⟩
  · have hwork := posted_completion hq hf hh h hp
    obtain ⟨hready, hout, hown, hengs⟩ := postCompl_spec (s := heldTaken s) h
    exact ⟨taskRan_of_engs hr ((congrArg State.engs hwork).trans hengs),
      (congrArg Hst.ready (hst_taskRun hr)).trans ((congrArg (·.hst.ready) hwork).trans hready),
      (out_taskRun hr).trans ((congrArg State.out hwork).trans hout),
      (congrArg Ring.own (ring_taskRun hr _)).trans ((congrArg (fun u => (u.ring (8 + c.ring)).own) hwork).trans hown)⟩
  · have hwork := posted_event hq hf hh h hl hroom
    obtain ⟨hout, hown, -, hevt, hengs⟩ := ringPut_spec 16 (some (eventVec o)) (eventBits o) (heldTaken s)
    exact ⟨taskRan_of_engs hr ((congrArg State.engs hwork).trans hengs),
      (held_taskRun hr).trans ((congrArg (·.evt.held) hwork).trans (congrArg Evt.held hevt)),
      (out_taskRun hr).trans ((congrArg State.out hwork).trans hout),
      (congrArg Ring.own (ring_taskRun hr 16)).trans ((congrArg (fun u => (u.ring 16).own) hwork).trans hown)⟩

end
